-- ==== Sys2Proof/Word.lean ====
section
/-! DEFINITION. The word types of the Mireus: 32-bit lanes and instruction words, bytes, lane vectors. -/

namespace Sys2Proof

/-- A lane, or a 32-bit instruction word (R209). -/
abbrev Word := BitVec 32

/-- The lanes of an operand: `none` is an invalid lane (R178). The list has 32 entries wherever the machine builds it. -/
abbrev Lanes := List (Option Word)

/-- The seven ASTAT flags (R307): IV 6, DZ 5, OF 4, UF 3, NX 2, RG 1, FL 0. -/
abbrev Astat := BitVec 7

end Sys2Proof
end

