-- ==== Sys2Proof/Config.lean ====
section
/-! DEFINITION. What an implementation fixes, and the free values: constants with no body, of which no value can be proved. -/

namespace Sys2Proof.Config

/-- R322: LG2 (1), RSQ (3), SIN (5), COS (6), TANH (7) are within 1 ulp of the exact result: whether the neighbour
farther from zero is given for this function and operand is a FREE VALUE (log entry 8). -/
opaque sfuAway (fn : Nat) (x : BitVec 32) : Bool

/-- R456: a byte read under a domain key other than the one that wrote it is unrelated to what was written: a FREE VALUE
by (domain and key generation of the reader, tag of the writer, byte address) (log entry 15). -/
opaque xtsGarble (reader writer addr : Nat) : BitVec 8

/-- R456: the domains whose keys a session brings are not given: FREE VALUE by the fresh counter (log entry 16). -/
opaque sessionDomain : Nat → Nat → Bool

/-- R455, R459: the contents of SPDM and telemetry responses are not given: FREE VALUE by the fresh counter (log entry 16). -/
opaque responseWord (fresh index : Nat) : BitVec 32

/-- R455: the length in 16-byte units of an SPDM response: FREE VALUE (log entry 16). -/
opaque responseLen (fresh : Nat) : Nat

/-- R403, R449: the park area that firmware sets up in S8, PA[51:24]: FREE VALUE (log entry 17). -/
opaque firmwareParkBase : BitVec 28

/-- R412, R449: SVEC as firmware sets it on each present tile in S8: VC and SLOT, FREE VALUE (log entry 17). -/
opaque firmwareSvec (tile : Nat) : BitVec 11

/-- R412: the supervisor context that firmware creates for each tile: FREE VALUE (log entry 17). -/
opaque firmwareContext (tile : Nat) : BitVec 6

/-- R447: the package id that firmware writes in S7: FREE VALUE (log entry 17). -/
opaque firmwarePackage : BitVec 10

/-- R439, R441: what an authentication by signature finds is not computed by the model: the security processor's verdict
on the signed bytes, FREE VALUE by the fresh counter (log entry 16). -/
opaque signatureGood (fresh : Nat) : Bool

/-- R450: the digest of a start-up step's inputs: FREE VALUE by step and attempt (log entry 17). -/
opaque inputDigest (step fresh : Nat) : BitVec 48

/-- R427: the form of a commit-buffer entry in a halt record is not given: FREE VALUE by the fresh counter and byte (log entry 19). -/
opaque commitImage (fresh index : Nat) : BitVec 8

/-- R383, R421, R422: the form of the data inside a saved section is not given: FREE VALUE by the fresh counter and byte (log
entry 19). -/
opaque savedByte (fresh index : Nat) : BitVec 8

/-- R383, R421, R422: the length of a saved section's data is not given: FREE VALUE by the fresh counter and TYPE (log entry 19). -/
opaque savedLen (fresh typ : Nat) : Nat

/-- R403: the bytes that the side entries of a row with so many segments take in the row area are not given: FREE VALUE (log entry 19). -/
opaque rowSide (segments : Nat) : Nat

/-- R403: where in the row area a row is put, clear of the others, is not given: FREE VALUE by the fresh counter (log entry 19). -/
opaque rowPlace (fresh : Nat) : Nat

/-- R403: the bytes of a row's side entries in the row area, and of elements that no lane gives, are not given: FREE VALUE by the fresh counter and
byte (log entry 19). -/
opaque rowByte (fresh index : Nat) : BitVec 8

/-- R422: the save area that firmware allocates, a PA: FREE VALUE by the fresh counter (log entry 17). -/
opaque saveArea (fresh : Nat) : Nat

/-- R436: the package is the part CLM1-M and not CLM1-P (log entry 17). -/
opaque modulePart : Bool

end Sys2Proof.Config
end

