-- ==== Sys2Proof/Syntax.lean ====
section
/-! DEFINITION. The syntax: sources, targets, operand kinds, and the one inductive `Instr` with a constructor for every row of
the opcode table. Block and sequencer words carry their decoded fields; a step of chapter 95 carries the indices that pick it
out of what the state holds; an event from outside carries its operands. -/

namespace Sys2Proof

/-- A source field (R210). -/
inductive Src where
  | t (k : Nat)
  | latch
  | e (k : Nat)
  | zero
  | lid
  | tag
  deriving DecidableEq, Repr

/-- A 9-bit target field (R211). -/
inductive Target where
  | latA (p : Nat)
  | latB (p : Nat)
  | onTrue (p : Nat)
  | onFalse (p : Nat)
  | temp (k : Nat)
  | discard
  | emask
  | port (n : Nat)
  deriving DecidableEq, Repr

/-- Condition of CMP (R213). -/
inductive Cond where
  | eq | ne | lt | le | ltu | leu | gt | ge | gtu | geu
  deriving DecidableEq, Repr

/-- Condition of FCMP (R315). -/
inductive FCond where
  | eq | ne | lt | le | gt | ge | uno | ord
  deriving DecidableEq, Repr

/-- RND field (R213). -/
inductive Rnd where
  | rne | rz | rd | ru | rs | dyn
  deriving DecidableEq, Repr

/-- Element format in a 3-bit FMT field (R116, R213). -/
inductive Fmt where
  | f32 | bf16 | f16 | e4m3 | e5m2 | e2m1 | cb2 | e8m0
  deriving DecidableEq, Repr

/-- Integer format of FTOI, its code less 8 (R128, R319). -/
inductive IFmt where
  | i32 | i16 | i8 | i4 | u8
  deriving DecidableEq, Repr

/-- ROP of LRED and LSCAN (R324). -/
inductive RedOp where
  | fadd | fmax | fmin | add | max | min | and | or
  deriving DecidableEq, Repr

/-- MODE of SHUF (R325). -/
inductive ShufMode where
  | idx | xor | rot
  deriving DecidableEq, Repr

/-- FORM of RNG (R337). -/
inductive RngForm where
  | raw | u01 | u01c
  deriving DecidableEq, Repr

/-- SIZE of a global access (R14). -/
inductive Size where
  | byte | half | word | row
  deriving DecidableEq, Repr

/-- AOP of AMO and AMOSC (R277). -/
inductive AmoOp where
  | add | and | or | xor | min | max | minu | maxu | swap | swapd | addd
  deriving DecidableEq, Repr

/-- FOP of AMOF (R281). -/
inductive AmofOp where
  | fadd | fmin | fmax
  deriving DecidableEq, Repr

/-- KIND of a hitch operation (R282). -/
inductive HKind where
  | s | x | p
  deriving DecidableEq, Repr

/-- ROP of DRED (R304). -/
inductive DredOp where
  | sum | max | min
  deriving DecidableEq, Repr

/-- Format pair of MMA (R344). -/
inductive Pair where
  | bf16 | f16 | e4e4 | e4e5 | e5e4 | e5e5 | fp4 | cb2e4 | cb2bf | i8
  deriving DecidableEq, Repr

/-- Every row of the opcode table. -/
inductive Instr where
  /-- REGION_SHRINK (R417). -/
  | regionShrink (q : Nat) (gt : Nat) (dx : Nat) (dy : Nat)
  /-- GOVERNOR_MEASURE (R454). -/
  | governorMeasure (watts : Nat)
  /-- RECOVERY_IMAGE (R451). -/
  | recoveryImage (qp : Nat) (hd : BitVec 192) (sent : Nat) (len : Nat)
  /-- MRL_PLANE_DOWN (R447). -/
  | mrlPlaneDown (plane : Nat)
  /-- MRL_KEY_CHANGE (R447). -/
  | mrlKeyChange (link : Nat)
  /-- RDMA_WRITE (R438). -/
  | rdmaWrite (qp : Nat) (rkey : Nat) (va : Nat) (data : List (BitVec 8))
  /-- RDMA_READ (R438). -/
  | rdmaRead (qp : Nat) (rkey : Nat) (va : Nat) (len : Nat)
  /-- RDMA_INVALID_REQUEST (R437). -/
  | rdmaInvalidRequest (qp : Nat)
  /-- STT_LAUNCH (R443). -/
  | sttLaunch (qp : Nat) (hd : BitVec 192) (sent : Nat) (rva : Nat)
  /-- STT_TOKENS (R444). -/
  | sttTokens (qp : Nat) (hd : BitVec 192) (sent : Nat) (words : List Word)
  /-- MRREG (R441). -/
  | mrreg (qp : Nat) (hd : BitVec 192) (sent : Nat) (index : Nat) (asid : Nat) (va : Nat) (len : Nat) (r : Bool) (w : Bool)
  /-- MRDEREG (R441). -/
  | mrdereg (qp : Nat) (hd : BitVec 192) (sent : Nat) (index : Nat)
  /-- CTRL_PREEMPT (R441). -/
  | ctrlPreempt (qp : Nat) (hd : BitVec 192) (sent : Nat) (q : Nat) (save : Bool)
  /-- CTRL_HALT (R441). -/
  | ctrlHalt (qp : Nat) (hd : BitVec 192) (sent : Nat) (asid : Nat) (ctx : Nat)
  /-- CTRL_FWD (R441). -/
  | ctrlFwd (qp : Nat) (hd : BitVec 192) (sent : Nat) (words : List Word)
  /-- GET_VERSION (R455). -/
  | getVersion (qp : Nat) (hd : BitVec 192) (sent : Nat)
  /-- GET_CAPABILITIES (R455). -/
  | getCapabilities (qp : Nat) (hd : BitVec 192) (sent : Nat)
  /-- NEGOTIATE_ALGORITHMS (R455). -/
  | negotiateAlgorithms (qp : Nat) (hd : BitVec 192) (sent : Nat)
  /-- GET_DIGESTS (R455). -/
  | getDigests (qp : Nat) (hd : BitVec 192) (sent : Nat)
  /-- GET_CERTIFICATE (R455). -/
  | getCertificate (qp : Nat) (hd : BitVec 192) (sent : Nat)
  /-- CHALLENGE (R455). -/
  | challenge (qp : Nat) (hd : BitVec 192) (sent : Nat)
  /-- GET_MEASUREMENTS (R455). -/
  | getMeasurements (qp : Nat) (hd : BitVec 192) (sent : Nat)
  /-- KEY_EXCHANGE (R455). -/
  | keyExchange (qp : Nat) (hd : BitVec 192) (sent : Nat)
  /-- FINISH (R455). -/
  | finish (qp : Nat) (hd : BitVec 192) (sent : Nat)
  /-- DEBUG_UNLOCK (R457). -/
  | debugUnlock (qp : Nat) (hd : BitVec 192) (sent : Nat) (level : Nat)
  /-- SPDM_UNSUPPORTED_REQUEST (R455). -/
  | spdmUnsupportedRequest (qp : Nat) (hd : BitVec 192) (sent : Nat)
  /-- SET_PLIMIT (R459). -/
  | setPlimit (watts : Nat)
  /-- FWD (R247). -/
  | fwd (x : Target) (y : Target)
  /-- STEER (R248). -/
  | steer (x : Target) (y : Target)
  /-- STEERC (R249). -/
  | steerc (x : Target) (y : Target)
  /-- SPLIT (R250). -/
  | split (n : Nat) (x : Target) (y : Target)
  /-- PACK (R251). -/
  | pack (off : Nat) (x : Target) (y : Target)
  /-- UNPACK (R251). -/
  | unpack (off : Nat) (x : Target) (y : Target)
  /-- ADD_P (R245). -/
  | addP (x : Target) (y : Target)
  /-- SUB_P (R245). -/
  | subP (x : Target) (y : Target)
  /-- AND_P (R245). -/
  | andP (x : Target) (y : Target)
  /-- OR_P (R245). -/
  | orP (x : Target) (y : Target)
  /-- XOR_P (R245). -/
  | xorP (x : Target) (y : Target)
  /-- SHL_P (R245). -/
  | shlP (x : Target) (y : Target)
  /-- SHR_P (R245). -/
  | shrP (x : Target) (y : Target)
  /-- SRA_P (R245). -/
  | sraP (x : Target) (y : Target)
  /-- MIN_P (R245). -/
  | minP (x : Target) (y : Target)
  /-- MAX_P (R245). -/
  | maxP (x : Target) (y : Target)
  /-- CMP_P (R245). -/
  | cmpP (c : Cond) (x : Target) (y : Target)
  /-- FADD_P (R312). -/
  | faddP (r : Rnd) (x : Target) (y : Target)
  /-- FSUB_P (R312). -/
  | fsubP (r : Rnd) (x : Target) (y : Target)
  /-- FMUL_P (R312). -/
  | fmulP (r : Rnd) (x : Target) (y : Target)
  /-- FMIN_P (R312). -/
  | fminP (x : Target) (y : Target)
  /-- FMAX_P (R312). -/
  | fmaxP (x : Target) (y : Target)
  /-- FCMP_P (R312). -/
  | fcmpP (c : FCond) (x : Target) (y : Target)
  /-- ADD (R239). -/
  | add (a : Src) (b : Src) (t : Target)
  /-- SUB (R239). -/
  | sub (a : Src) (b : Src) (t : Target)
  /-- MUL (R239). -/
  | mul (a : Src) (b : Src) (t : Target)
  /-- MULH (R239). -/
  | mulh (a : Src) (b : Src) (t : Target)
  /-- MULHU (R239). -/
  | mulhu (a : Src) (b : Src) (t : Target)
  /-- DIV (R239). -/
  | div (a : Src) (b : Src) (t : Target)
  /-- DIVU (R239). -/
  | divu (a : Src) (b : Src) (t : Target)
  /-- REM (R239). -/
  | rem (a : Src) (b : Src) (t : Target)
  /-- REMU (R239). -/
  | remu (a : Src) (b : Src) (t : Target)
  /-- AND (R239). -/
  | and (a : Src) (b : Src) (t : Target)
  /-- OR (R239). -/
  | or (a : Src) (b : Src) (t : Target)
  /-- XOR (R239). -/
  | xor (a : Src) (b : Src) (t : Target)
  /-- ANDN (R239). -/
  | andn (a : Src) (b : Src) (t : Target)
  /-- SHL (R239). -/
  | shl (a : Src) (b : Src) (t : Target)
  /-- SHR (R239). -/
  | shr (a : Src) (b : Src) (t : Target)
  /-- SRA (R239). -/
  | sra (a : Src) (b : Src) (t : Target)
  /-- ROT (R239). -/
  | rot (a : Src) (b : Src) (t : Target)
  /-- MIN (R239). -/
  | min (a : Src) (b : Src) (t : Target)
  /-- MAX (R239). -/
  | max (a : Src) (b : Src) (t : Target)
  /-- MINU (R239). -/
  | minu (a : Src) (b : Src) (t : Target)
  /-- MAXU (R239). -/
  | maxu (a : Src) (b : Src) (t : Target)
  /-- ABS (R239). -/
  | abs (a : Src) (t : Target)
  /-- CLZ (R240). -/
  | clz (a : Src) (t : Target)
  /-- CTZ (R240). -/
  | ctz (a : Src) (t : Target)
  /-- POPC (R240). -/
  | popc (a : Src) (t : Target)
  /-- BREV (R240). -/
  | brev (a : Src) (t : Target)
  /-- SXB (R241). -/
  | sxb (a : Src) (t : Target)
  /-- SXH (R241). -/
  | sxh (a : Src) (t : Target)
  /-- SX4 (R241). -/
  | sx4 (a : Src) (t : Target)
  /-- ZXB (R241). -/
  | zxb (a : Src) (t : Target)
  /-- ZXH (R241). -/
  | zxh (a : Src) (t : Target)
  /-- ZX4 (R241). -/
  | zx4 (a : Src) (t : Target)
  /-- BFX (R242). -/
  | bfx (a : Src) (b : Src) (sx : Bool) (t : Target)
  /-- BFI (R242). -/
  | bfi (a : Src) (b : Src) (c : Nat) (t : Target)
  /-- CMP (R239). -/
  | cmp (a : Src) (b : Src) (c : Cond) (t : Target)
  /-- SEL (R243). -/
  | sel (a : Src) (b : Src) (c : Nat) (t : Target)
  /-- LEA (R243). -/
  | lea (a : Src) (b : Src) (s : Nat) (t : Target)
  /-- SWITCH_POL (R253). -/
  | switchPol (a : Src) (n : Nat) (t : Target)
  /-- SWITCH_LANE (R253). -/
  | switchLane (a : Src) (b : Src) (n : Nat) (t : Target)
  /-- LAFF (R244). -/
  | laff (a : Src) (b : Src) (t : Target)
  /-- LXOR (R244). -/
  | lxor (a : Src) (t : Target)
  /-- LVCNT (R244). -/
  | lvcnt (a : Src) (t : Target)
  /-- LVFST (R244). -/
  | lvfst (a : Src) (t : Target)
  /-- FADD (R311). -/
  | fadd (a : Src) (b : Src) (f : Fmt) (r : Rnd) (sat : Bool) (t : Target)
  /-- FSUB (R311). -/
  | fsub (a : Src) (b : Src) (f : Fmt) (r : Rnd) (sat : Bool) (t : Target)
  /-- FMUL (R311). -/
  | fmul (a : Src) (b : Src) (f : Fmt) (r : Rnd) (sat : Bool) (t : Target)
  /-- FFMA (R311). -/
  | ffma (a : Src) (b : Src) (r : Rnd) (c : Nat) (sat : Bool) (t : Target)
  /-- FMIN (R313). -/
  | fmin (a : Src) (b : Src) (t : Target)
  /-- FMAX (R313). -/
  | fmax (a : Src) (b : Src) (t : Target)
  /-- FABS (R314). -/
  | fabs (a : Src) (f : Fmt) (t : Target)
  /-- FNEG (R314). -/
  | fneg (a : Src) (f : Fmt) (t : Target)
  /-- FCPYS (R314). -/
  | fcpys (a : Src) (b : Src) (f : Fmt) (t : Target)
  /-- FCPYN (R314). -/
  | fcpyn (a : Src) (b : Src) (f : Fmt) (t : Target)
  /-- FXSGN (R314). -/
  | fxsgn (a : Src) (b : Src) (f : Fmt) (t : Target)
  /-- FCMP (R315). -/
  | fcmp (a : Src) (b : Src) (f : Fmt) (c : FCond) (t : Target)
  /-- FCLASS (R316). -/
  | fclass (a : Src) (f : Fmt) (t : Target)
  /-- FCVT (R317). -/
  | fcvt (a : Src) (b : Src) (f : Fmt) (r : Rnd) (sat : Bool) (t : Target)
  /-- FRND (R318). -/
  | frnd (a : Src) (r : Rnd) (t : Target)
  /-- FTOI (R319). -/
  | ftoi (a : Src) (f : IFmt) (r : Rnd) (sat : Bool) (t : Target)
  /-- ITOF (R320). -/
  | itof (a : Src) (f : Fmt) (r : Rnd) (sat : Bool) (t : Target)
  /-- HADD2 (R321). -/
  | hadd2 (a : Src) (b : Src) (f : Fmt) (r : Rnd) (sat : Bool) (t : Target)
  /-- HMUL2 (R321). -/
  | hmul2 (a : Src) (b : Src) (f : Fmt) (r : Rnd) (sat : Bool) (t : Target)
  /-- HFMA2 (R321). -/
  | hfma2 (a : Src) (b : Src) (r : Rnd) (c : Nat) (sat : Bool) (t : Target)
  /-- EX2 (R322). -/
  | ex2 (a : Src) (t : Target)
  /-- LG2 (R322). -/
  | lg2 (a : Src) (t : Target)
  /-- RCP (R322). -/
  | rcp (a : Src) (t : Target)
  /-- RSQ (R322). -/
  | rsq (a : Src) (t : Target)
  /-- SQRT (R322). -/
  | sqrt (a : Src) (t : Target)
  /-- SIN (R322). -/
  | sin (a : Src) (t : Target)
  /-- COS (R322). -/
  | cos (a : Src) (t : Target)
  /-- TANH (R322). -/
  | tanh (a : Src) (t : Target)
  /-- FDIV (R311). -/
  | fdiv (a : Src) (b : Src) (f : Fmt) (r : Rnd) (sat : Bool) (t : Target)
  /-- LRED (R324). -/
  | lred (a : Src) (o : RedOp) (t : Target)
  /-- LSCAN (R324). -/
  | lscan (a : Src) (o : RedOp) (t : Target)
  /-- SHUF (R325). -/
  | shuf (a : Src) (b : Src) (m : ShufMode) (t : Target)
  /-- LBC (R326). -/
  | lbc (a : Src) (b : Src) (t : Target)
  /-- VDOT (R327). -/
  | vdot (a : Src) (b : Src) (f : Fmt) (t : Target)
  /-- TACC (R328). -/
  | tacc (a : Src) (b : Src) (t : Target)
  /-- CBDEC (R330). -/
  | cbdec (a : Src) (f : Fmt) (entry : Nat) (hi : Bool) (t : Target)
  /-- LTLD (R331). -/
  | ltld (a : Src) (b : Src)
  /-- SCACC (R333). -/
  | scacc (a : Src) (b : Src) (bf : Fmt) (c : Nat) (tbf16 : Bool) (t : Target)
  /-- SCMUL (R332). -/
  | scmul (a : Src) (b : Src) (f : Fmt) (t : Target)
  /-- AMAX (R334). -/
  | amax (a : Src) (n : Nat) (t : Target)
  /-- RNG (R337). -/
  | rng (a : Src) (b : Src) (w : Nat) (f : RngForm) (t : Target)
  /-- LI (R246). -/
  | li (i : Nat) (t : Target)
  /-- LIH (R246). -/
  | lih (a : Src) (i : Nat) (t : Target)
  /-- LIT (R246). -/
  | lit (word : Nat) (t : Target)
  /-- ADDI (R246). -/
  | addi (a : Src) (i : Nat) (t : Target)
  /-- ANDI (R246). -/
  | andi (a : Src) (i : Nat) (t : Target)
  /-- ORI (R246). -/
  | ori (a : Src) (i : Nat) (t : Target)
  /-- XORI (R246). -/
  | xori (a : Src) (i : Nat) (t : Target)
  /-- SHLI (R246). -/
  | shli (a : Src) (i : Nat) (t : Target)
  /-- SHRI (R246). -/
  | shri (a : Src) (i : Nat) (t : Target)
  /-- SRAI (R246). -/
  | srai (a : Src) (i : Nat) (t : Target)
  /-- CMPEQI (R246). -/
  | cmpeqi (a : Src) (i : Nat) (t : Target)
  /-- CMPLTI (R246). -/
  | cmplti (a : Src) (i : Nat) (t : Target)
  /-- CMPLTUI (R246). -/
  | cmpltui (a : Src) (i : Nat) (t : Target)
  /-- MFS (R265). -/
  | mfs (i : Nat) (t : Target)
  /-- LDP (R275). -/
  | ldp (a : Src) (i : Nat) (t : Target)
  /-- STP (R276). -/
  | stp (a : Src) (i : Nat)
  /-- LD (R270). -/
  | ld (a : Src) (base : Nat) (z : Size) (s : Nat) (t : Target)
  /-- ST (R271). -/
  | st (a : Src) (b : Src) (base : Nat) (z : Size) (s : Nat) (t : Target)
  /-- LDCH (R272). -/
  | ldch (a : Src) (b : Src) (base : Nat) (s : Nat) (t : Target)
  /-- PREF (R273). -/
  | pref (a : Src) (base : Nat) (z : Size) (s : Nat)
  /-- SFLUSH (R274). -/
  | sflush (a : Src) (b : Src) (base : Nat) (s : Nat) (t : Target)
  /-- SINV (R274). -/
  | sinv (a : Src) (b : Src) (base : Nat) (s : Nat) (t : Target)
  /-- AMO (R277). -/
  | amo (a : Src) (b : Src) (base : Nat) (o : AmoOp) (t : Target)
  /-- CAS (R280). -/
  | cas (a : Src) (b : Src) (base : Nat) (d : Bool) (c : Nat) (t : Target)
  /-- AMOSC (R277). -/
  | amosc (a : Src) (b : Src) (base : Nat) (o : AmoOp) (t : Target)
  /-- AMOF (R281). -/
  | amof (a : Src) (b : Src) (base : Nat) (o : AmofOp) (t : Target)
  /-- HACQ (R283). -/
  | hacq (a : Src) (base : Nat) (k : HKind) (t : Target)
  /-- HREL (R285). -/
  | hrel (a : Src) (base : Nat) (k : HKind) (t : Target)
  /-- HTRY (R284). -/
  | htry (a : Src) (base : Nat) (k : HKind) (t : Target)
  /-- HBIND (R286). -/
  | hbind (a : Src) (b : Src) (base : Nat) (t : Target)
  /-- HUNB (R286). -/
  | hunb (a : Src) (b : Src) (base : Nat) (t : Target)
  /-- FENCE (R287). -/
  | fence (a : Src) (s : Nat) (t : Target)
  /-- BAR (R288). -/
  | bar (a : Src) (b : Src) (h : Bool) (base : Nat) (t : Target)
  /-- WAIT (R263). -/
  | wait (l : Nat) (s : Nat) (d : Nat) (m : Nat) (t : Target)
  /-- GIVE (R290). -/
  | give (a : Src) (eng : Nat)
  /-- QRSV (R292). -/
  | qrsv (a : Src) (np : Nat) (t : Target)
  /-- QPOST (R294). -/
  | qpost (a : Src)
  /-- QTAKE (R292). -/
  | qtake (a : Src) (np : Nat) (t : Target)
  /-- QFREE (R294). -/
  | qfree (a : Src)
  /-- QSTAT (R295). -/
  | qstat (a : Src) (t : Target)
  /-- DCOPY_G2P (R300). -/
  | dcopyG2p (a : Src) (ch : Nat) (t : Target)
  /-- DCOPY_P2G (R300). -/
  | dcopyP2g (a : Src) (ch : Nat) (t : Target)
  /-- DCOPY_P2P (R300). -/
  | dcopyP2p (a : Src) (ch : Nat) (t : Target)
  /-- DCOPY_P2T (R300). -/
  | dcopyP2t (a : Src) (ch : Nat) (t : Target)
  /-- DCOPY_APP (R300). -/
  | dcopyApp (a : Src) (ch : Nat) (t : Target)
  /-- DGATH (R301). -/
  | dgath (a : Src) (b : Src) (ch : Nat) (t : Target)
  /-- DSCAT (R301). -/
  | dscat (a : Src) (b : Src) (ch : Nat) (t : Target)
  /-- DHOP (R302). -/
  | dhop (a : Src) (ch : Nat) (t : Target)
  /-- DBCST (R303). -/
  | dbcst (a : Src) (ch : Nat) (tm : Bool) (t : Target)
  /-- DRED (R304). -/
  | dred (a : Src) (ch : Nat) (o : DredOp) (i32 : Bool) (t : Target)
  /-- MMA (R344). -/
  | mma (a : Src) (pr : Pair) (ta : Bool) (tb : Bool) (chn : Bool) (t : Target)
  /-- MZERO (R349). -/
  | mzero (a : Src) (t : Target)
  /-- MDRN (R351). -/
  | mdrn (a : Src) (bias : Bool) (act : Bool) (rq : Bool) (amx : Bool) (tr : Bool) (t : Target)
  /-- MLDA (R349). -/
  | mlda (a : Src) (b : Src) (t : Target)
  /-- ETLD (R350). -/
  | etld (a : Src) (b : Src) (t : Target)
  /-- FOLD (R355). -/
  | fold (a : Src) (b : Src) (t : Target)
  /-- FFIN (R357). -/
  | ffin (a : Src) (t : Target)
  /-- NCFG (R358). -/
  | ncfg (a : Src) (t : Target)
  /-- BRCFG (R361). -/
  | brcfg (a : Src) (t : Target)
  /-- BRCFG_STAT (R366). -/
  | brcfgStat (a : Src) (t : Target)
  /-- REINLD (R364). -/
  | reinld (a : Src) (b : Src) (t : Target)
  /-- SENDX (R254). -/
  | sendx (a : Src) (b : Src) (seg : Bool) (pol : Bool) (eor : Bool) (t : Target)
  /-- CANCEL (R255). -/
  | cancel (a : Src) (t : Target)
  /-- COMMIT (R256). -/
  | commit (a : Src) (nul : Bool) (t : Target)
  /-- CTXA (R259). -/
  | ctxa (a : Src) (th : Bool) (t : Target)
  /-- CTXF (R261). -/
  | ctxf (a : Src) (self : Bool)
  /-- SPAWN (R260). -/
  | spawn (a : Src) (b : Src) (th : Bool) (hv : Bool) (t : Target)
  /-- LAUNCH (R262). -/
  | launch (a : Src) (t : Target)
  /-- MTS (R266). -/
  | mts (a : Src) (n : Nat)
  /-- TRAP (R371). -/
  | trap (a : Src) (code : Nat)
  /-- BRK (R372). -/
  | brk (code : Nat)
  /-- ERES (R374). -/
  | eres (a : Src) (b : Src) (rep : Bool) (ent : Nat) (hold : Bool) (t : Target)
  /-- ESC (R375). -/
  | esc (a : Src) (t : Target)
  /-- EKILL (R376). -/
  | ekill (a : Src) (t : Target)
  /-- MFSR (R378). -/
  | mfsr (a : Src) (t : Target)
  /-- MTSR (R378). -/
  | mtsr (a : Src) (b : Src) (t : Target)
  /-- TBI (R38). -/
  | tbi (a : Src) (t : Target)
  /-- SHINV (R114). -/
  | shinv (a : Src) (t : Target)
  /-- PLBC (R115). -/
  | plbc (a : Src) (t : Target)
  /-- PRBLD (R379). -/
  | prbld (a : Src) (b : Src) (t : Target)
  /-- CFGLD (R380). -/
  | cfgld (a : Src) (b : Src) (t : Target)
  /-- GAIT (R381). -/
  | gait (a : Src) (t : Target)
  /-- IDLE (R382). -/
  | idle (t : Target)
  /-- PARK (R383). -/
  | park (a : Src) (t : Target)
  /-- SQ_END (R385). -/
  | sqEnd (code : Nat)
  /-- SQ_CFG (R385). -/
  | sqCfg (gt : Nat) (region : Nat)
  /-- SQ_RUN (R385). -/
  | sqRun (ing : Bool) (edge : Nat) (async : Bool)
  /-- SQ_IF (R385). -/
  | sqIf (hv : Bool) (sense : Bool) (target : Nat) (va : Nat) (hva : Nat)
  /-- SQ_JMP (R385). -/
  | sqJmp (target : Nat)
  /-- SQ_GAIT (R396). -/
  | sqGait (gt : Nat)
  /-- SQ_SIG (R385). -/
  | sqSig (iter : Nat) (dest : Nat) (value : Nat)
  /-- STT_DISCARD (R439). -/
  | sttDiscard (qp : Nat) (hd : BitVec 192) (sent : Nat)
  /-- CONNECTION_MANAGER (R437). -/
  | connectionManager (qp : Nat) (user : Option Nat) (port : Nat)
  /-- MRL_PLANE_UP (R447). -/
  | mrlPlaneUp (plane : Nat)
  /-- TOKEN_ARRIVAL (R74). Occasion: fl. -/
  | tokenArrival
  /-- CANCEL_TOKEN_ARRIVAL (R184). Occasion: fl. -/
  | cancelTokenArrival
  /-- TASK_FIRE (R173). Occasion: tile, elem. -/
  | taskFire
  /-- BLOCK_COMMIT (R175). Occasion: tile, elem. -/
  | blockCommit
  /-- OUTPUT_BUFFER_SEND (R191). Occasion: tile, entry, dst. -/
  | outputBufferSend
  /-- LOAD_RESPONSE_RETURN (R177). Occasion: acc. -/
  | loadResponseReturn
  /-- TASK_CLASS_AGING (R200). Occasion: tile, n. -/
  | taskClassAging
  /-- BANK_GRANT (R47). Occasion: tile, bank. -/
  | bankGrant
  /-- SRAM_SCRUB (R82). Occasion: tile, word. -/
  | sramScrub
  /-- DRAM_SCRUB (R88). Occasion: stack, block. -/
  | dramScrub
  /-- DRAM_REQUEST (R86). Occasion: acc. -/
  | dramRequest
  /-- TRANSLATION_MISS (R26). Occasion: acc. -/
  | translationMiss
  /-- PAGE_WALK (R27). Occasion: quad. -/
  | pageWalk
  /-- WALK_COMPLETE (R35). Occasion: quad, n. -/
  | walkComplete
  /-- ASYNC_FAULT_REPORT (R34). Occasion: n. -/
  | asyncFaultReport
  /-- FAULT_DELIVERY (R408). Occasion: tile, n. -/
  | faultDelivery
  /-- SUPERVISOR_FAULT_DEQUEUE (R377). Occasion: tile. -/
  | supervisorFaultDequeue
  /-- WATCHDOG (R203). Occasion: q. -/
  | watchdog
  /-- STAGE_BALANCE (R401). Occasion: tile. -/
  | stageBalance
  /-- LAUNCH_RECORD_AGING (R390). Occasion: q. -/
  | launchRecordAging
  /-- LAUNCH_INTAKE (R387). Occasion: n. -/
  | launchIntake
  /-- ALLOCATION_PASS (R393). -/
  | allocationPass
  /-- FULL_SAVE (R419). Occasion: q. -/
  | fullSave
  /-- RESUME (R420). Occasion: q. -/
  | resume
  /-- TILE_FREE (R394). Occasion: tile. -/
  | tileFree
  /-- QUADRANT_REPORT (R395). Occasion: quad. -/
  | quadrantReport
  /-- LAUNCH_END (R168). Occasion: q. -/
  | launchEnd
  /-- RUN_BARRIER_REACHED (R385). Occasion: q. -/
  | runBarrierReached
  /-- CONTEXT_FREE (R193). Occasion: ctx. -/
  | contextFree
  /-- BATON_VISIT (R158). -/
  | batonVisit
  /-- SEQ_ORDER (R415). Occasion: node. -/
  | seqOrder
  /-- STASH_FILL (R65). Occasion: acc. -/
  | stashFill
  /-- STASH_EVICTION (R66). Occasion: tile, line. -/
  | stashEviction
  /-- HITCH_REQUEST_ARRIVAL (R145). Occasion: n. -/
  | hitchRequestArrival
  /-- HITCH_RELEASE_ARRIVAL (R147). Occasion: n. -/
  | hitchReleaseArrival
  /-- HITCH_GRANT_ARRIVAL (R146). Occasion: n. -/
  | hitchGrantArrival
  /-- BARRIER_ARRIVAL (R289). Occasion: n. -/
  | barrierArrival
  /-- GIVE_FLIP (R55). Occasion: n. -/
  | giveFlip
  /-- DRAY_COMMAND_START (R299). Occasion: tile, ch. -/
  | drayCommandStart
  /-- DRAY_COMPLETE (R299). Occasion: tile, ch. -/
  | drayComplete
  /-- DRAY_FAIL (R299). Occasion: tile, ch. -/
  | drayFail
  /-- REMOTE_DRAY_WRITE (R300). Occasion: n. -/
  | remoteDrayWrite
  /-- DHOP_ARRIVAL (R302). Occasion: n. -/
  | dhopArrival
  /-- DRED_COMBINE (R304). Occasion: n. -/
  | dredCombine
  /-- APPEND (R101). Occasion: n. -/
  | append
  /-- APPEND_RETRY (R101). Occasion: n. -/
  | appendRetry
  /-- BALE_LOOKUP (R99). Occasion: tile, n. -/
  | baleLookup
  /-- PLACEMENT_MISS (R104). Occasion: n. -/
  | placementMiss
  /-- TB_SHOOTDOWN_ARRIVAL (R38). Occasion: n, unit. -/
  | tbShootdownArrival
  /-- TBI_COMPLETION (R38). Occasion: n. -/
  | tbiCompletion
  /-- BALE_SHOOTDOWN_ARRIVAL (R114). Occasion: n, tile. -/
  | baleShootdownArrival
  /-- SHINV_COMPLETION (R114). Occasion: n. -/
  | shinvCompletion
  /-- PLACEMENT_BROADCAST_ARRIVAL (R115). Occasion: n. -/
  | placementBroadcastArrival
  /-- PLBC_COMPLETION (R115). Occasion: n. -/
  | plbcCompletion
  /-- TROUGH_WAITER_SERVE (R61). Occasion: tile, trough. -/
  | troughWaiterServe
  /-- MMA_APPLY (R347). Occasion: tile, n. -/
  | mmaApply
  /-- MZERO_APPLY (R349). Occasion: tile, n. -/
  | mzeroApply
  /-- MLDA_APPLY (R349). Occasion: tile, n. -/
  | mldaApply
  /-- MDRN_APPLY (R352). Occasion: tile, n. -/
  | mdrnApply
  /-- ETLD_APPLY (R350). Occasion: tile, n. -/
  | etldApply
  /-- FOLD_APPLY (R355). Occasion: tile, n. -/
  | foldApply
  /-- FOLD_RETRY (R355). Occasion: tile, n. -/
  | foldRetry
  /-- FFIN_APPLY (R357). Occasion: tile, n. -/
  | ffinApply
  /-- TACC_APPLY (R328). Occasion: tile, n. -/
  | taccApply
  /-- COMMIT_ENTRY (R256). Occasion: fl. -/
  | commitEntry
  /-- NORMALISER_SEGMENT (R359). Occasion: fl. -/
  | normaliserSegment
  /-- BRIDLE_SEGMENT (R363). Occasion: fl. -/
  | bridleSegment
  /-- REINLD_APPLY (R364). Occasion: tile, n. -/
  | reinldApply
  /-- PRBLD_APPLY (R379). Occasion: tile, n. -/
  | prbldApply
  /-- EDGE_EGRESS_WRITE (R234). Occasion: fl. -/
  | edgeEgressWrite
  /-- EDGE_INGRESS_INJECT (R434). Occasion: q, edge. -/
  | edgeIngressInject
  /-- LDCH_NODE (R272). Occasion: acc. -/
  | ldchNode
  /-- WAIT_EMIT (R140). Occasion: tile, n. -/
  | waitEmit
  /-- FENCE_RELEASE (R155). Occasion: tile, n. -/
  | fenceRelease
  /-- HALT (R425). Occasion: ctx. -/
  | halt
  /-- STEP_HALT (R429). Occasion: tile, elem. -/
  | stepHalt
  /-- IDLE_RESTART (R382). Occasion: tile. -/
  | idleRestart
  /-- QUADRANT_ENTER_P2 (R452). Occasion: quad. -/
  | quadrantEnterP2
  /-- QUADRANT_WAKE (R453). Occasion: quad. -/
  | quadrantWake
  /-- TILE_CLOCK_WAKE (R452). Occasion: tile. -/
  | tileClockWake
  /-- STARTUP (R449). -/
  | startup
  /-- GET_TELEMETRY (R459). -/
  | getTelemetry
  /-- SET_POWER_P3 (R452). -/
  | setPowerP3
  /-- SET_POWER_P0 (R452). -/
  | setPowerP0
  /-- GET_BOOTREC (R459). -/
  | getBootrec
  /-- SMODE_WRITE (R160). Occasion: n. -/
  | smodeWrite
  /-- QREQ_P0 (R452). Occasion: quad. -/
  | qreqP0
  /-- QREQ_P1 (R452). Occasion: quad. -/
  | qreqP1
  /-- QREQ_P2 (R452). Occasion: quad. -/
  | qreqP2
  /-- GERR_CLEAR (R377). Occasion: tile. -/
  | gerrClear
  /-- SVEC_WRITE (R412). Occasion: tile, value. -/
  | svecWrite
  /-- DEVICE_REGISTER_WRITE (R95). Occasion: pa, value. -/
  | deviceRegisterWrite
  /-- SQ_BAR (R385). -/
  | sqBar
  /-- RESERVED_OPCODE (R221). -/
  | reservedOpcode
  /-- RESERVED_SEQUENCER_WORD (R222). Occasion: q. -/
  | reservedSequencerWord
  /-- TICKET_ORDER (R160). -/
  | ticketOrder
  /-- GROOM_INBOX_ARRIVAL (R172). Occasion: fl. -/
  | groomInboxArrival
  /-- POWER_LOSS (R450). -/
  | powerLoss
  deriving DecidableEq, Repr

end Sys2Proof
end

