-- ==== Sys2Proof/Machine/Float.lean ====
section
/-! DEFINITION. Numbers in the element formats (chapters 04 and 10): exact values, decoding, rounding, flags. -/

namespace Sys2Proof.Machine

/-- An exact value, or the magnitude interval `(m·2^e, (m+1)·2^e)` when `sticky` is set. -/
inductive Num where
  | nan
  | inf (neg : Bool)
  | fin (neg : Bool) (m : Nat) (e : Int) (sticky : Bool)
  deriving DecidableEq, Repr

/-- A resolved rounding mode; `rs u` carries bits [31:8] of the draw word (R308). -/
inductive RMode where
  | rne | rz | rd | ru
  | rs (u : Nat)
  deriving DecidableEq, Repr

/-- A binary format of R121 with its extremes of R122. `top` is the encoding of the largest finite magnitude,
`nan` its default NaN, `inf` the encoding of infinity where it has one. -/
structure FpFormat where
  width : Nat
  mbits : Nat
  bias : Nat
  top : Nat
  nan : Option Nat
  inf : Option Nat
  flush : Bool
  deriving DecidableEq, Repr

def fpF32 : FpFormat := ⟨32, 23, 127, 0x7F7FFFFF, some 0x7FC00000, some 0x7F800000, false⟩
def fpBF16 : FpFormat := ⟨16, 7, 127, 0x7F7F, some 0x7FC0, some 0x7F80, true⟩
def fpF16 : FpFormat := ⟨16, 10, 15, 0x7BFF, some 0x7E00, some 0x7C00, false⟩
def fpE4M3 : FpFormat := ⟨8, 3, 7, 0x7E, some 0x7F, none, false⟩
def fpE5M2 : FpFormat := ⟨8, 2, 15, 0x7B, some 0x7E, some 0x7C, false⟩
def fpE2M1 : FpFormat := ⟨4, 1, 1, 0x7, none, none, false⟩

def flagIV : Astat := 64
def flagDZ : Astat := 32
def flagOF : Astat := 16
def flagUF : Astat := 8
def flagNX : Astat := 4
def flagRG : Astat := 2
def flagFL : Astat := 1

/-- The flag when the condition holds. -/
def flagIf (c : Bool) (f : Astat) : Astat := if c then f else 0

/-- Sign bit of an encoding of `f`. -/
def FpFormat.sign (f : FpFormat) (x : Nat) : Bool := x / 2 ^ (f.width - 1) % 2 == 1

/-- Magnitude bits of an encoding of `f`. -/
def FpFormat.mag (f : FpFormat) (x : Nat) : Nat := x % 2 ^ (f.width - 1)

/-- R121 to R124: the number an encoding stands for, and FL where a BF16 subnormal is read as zero. -/
def FpFormat.decode (f : FpFormat) (x : Nat) : Num × Astat :=
  let s := f.sign x
  let a := f.mag x
  let ex := a / 2 ^ f.mbits
  let fr := a % 2 ^ f.mbits
  if a > f.top then
    if f.inf == some a then (.inf s, 0) else (.nan, 0)
  else if ex = 0 then
    if f.flush && fr != 0 then (.fin s 0 0 false, flagFL)
    else (.fin s fr (1 - (f.bias : Int) - f.mbits) false, 0)
  else (.fin s (2 ^ f.mbits + fr) ((ex : Int) - f.bias - f.mbits) false, 0)

/-- Whether the truncated magnitude is raised by one unit (R125 step 2, R308). `rem / 2^sh` is the part cut off. -/
def raiseMag (mode : RMode) (neg odd : Bool) (rem sh : Nat) (sticky : Bool) : Bool :=
  match mode with
  | .rne =>
    if sh = 0 then false
    else decide (2 * rem > 2 ^ sh) || (decide (2 * rem = 2 ^ sh) && (sticky || odd))
  | .rz => false
  | .rd => neg && (rem != 0 || sticky)
  | .ru => !neg && (rem != 0 || sticky)
  | .rs u => decide (u < rem * 2 ^ 24 / 2 ^ sh)

/-- R125: an overflow goes to the "away" column. -/
def overflowAway (mode : RMode) (neg raised : Bool) : Bool :=
  match mode with
  | .rne => true
  | .rz => false
  | .rd => neg
  | .ru => !neg
  | .rs _ => raised

/-- R125: the magnitude encoding that an overflow gives. -/
def FpFormat.overflow (f : FpFormat) (away sat : Bool) : Nat :=
  if sat || !away then f.top
  else match f.inf with
    | some i => i
    | none => f.nan.getD f.top

/-- Puts a sign on a magnitude encoding; E4M3's overflow NaN is the positive default NaN. -/
def FpFormat.withSign (f : FpFormat) (neg : Bool) (a : Nat) : Nat :=
  if f.nan == some a then a else if neg then a + 2 ^ (f.width - 1) else a

/-- `round(fmt, rnd, x)` with SAT (R125), and BF16's flush (R124). -/
def FpFormat.round (f : FpFormat) (mode : RMode) (sat : Bool) (x : Num) : Nat × Astat :=
  match x with
  | .nan =>
    match f.nan with
    | some n => (n, 0)
    | none => (0, flagIV)
  | .inf neg =>
    let away := match mode with
      | .rs _ => true
      | m => overflowAway m neg true
    (f.withSign neg (f.overflow away sat), 0)
  | .fin neg 0 _ false => (f.withSign neg 0, 0)
  | .fin neg m e sticky =>
    let qmin : Int := 1 - (f.bias : Int) - f.mbits
    let q0 : Int := (Nat.log2 m : Int) + e - f.mbits
    let q : Int := if q0 < qmin then qmin else q0
    let sh := (q - e).toNat
    let m0 := (m * 2 ^ (e - q).toNat) / 2 ^ sh
    let rem := (m * 2 ^ (e - q).toNat) % 2 ^ sh
    let enc0 := (q - qmin).toNat * 2 ^ f.mbits + m0
    let beyond := decide (enc0 > f.top)
    let up := raiseMag mode neg (m0 % 2 == 1) rem sh sticky || (beyond && (match mode with | .rs _ => true | _ => false))
    let enc := if up then enc0 + 1 else enc0
    let nx := rem != 0 || sticky
    if enc > f.top then
      (f.withSign neg (f.overflow (overflowAway mode neg up) sat), flagOF ||| flagNX)
    else
      let tiny := decide (enc < 2 ^ f.mbits)
      if f.flush && tiny && enc != 0 then (f.withSign neg 0, flagFL ||| flagUF ||| flagNX)
      else (f.withSign neg enc, flagIf tiny flagUF ||| flagIf nx flagNX)

/-- `rne32` of R8. -/
def rne32 (x : Num) : Word × Astat :=
  let r := fpF32.round .rne false x
  (BitVec.ofNat 32 r.1, r.2)

/-- The number in an FP32 lane. -/
def num32 (w : Word) : Num := (fpF32.decode w.toNat).1

/-- The default NaN of FP32 (R122). -/
def nan32 : Word := 0x7FC00000

def Num.isNan : Num → Bool
  | .nan => true
  | _ => false

def Num.isInf : Num → Bool
  | .inf _ => true
  | _ => false

/-- Zero of either sign. -/
def Num.isZero : Num → Bool
  | .fin _ 0 _ false => true
  | _ => false

def Num.neg : Num → Num
  | .nan => .nan
  | .inf s => .inf (!s)
  | .fin s m e st => .fin (!s) m e st

def Num.signBit : Num → Bool
  | .nan => false
  | .inf s => s
  | .fin s _ _ _ => s

/-- The signed integer `±m·2^(e−e0)` for `e0 ≤ e`. -/
def scaledInt (neg : Bool) (m : Nat) (e e0 : Int) : Int :=
  let v : Int := (m * 2 ^ (e - e0).toNat : Nat)
  if neg then -v else v

/-- The exact sum of two finite values, its zero signed by R125. -/
def addFin (mode : RMode) (s1 : Bool) (m1 : Nat) (e1 : Int) (s2 : Bool) (m2 : Nat) (e2 : Int) : Num :=
  let e0 := if e1 ≤ e2 then e1 else e2
  let v := scaledInt s1 m1 e1 e0 + scaledInt s2 m2 e2 e0
  if v = 0 then
    if m1 = 0 && m2 = 0 && s1 == s2 then .fin s1 0 0 false
    else .fin (mode == .rd) 0 0 false
  else .fin (decide (v < 0)) v.natAbs e0 false

/-- R311: the exact result of an addition, and IV for opposite infinities. -/
def numAdd (mode : RMode) (a b : Num) : Num × Astat :=
  match a, b with
  | .nan, _ => (.nan, 0)
  | _, .nan => (.nan, 0)
  | .inf s, .inf t => if s == t then (.inf s, 0) else (.nan, flagIV)
  | .inf s, _ => (.inf s, 0)
  | _, .inf t => (.inf t, 0)
  | .fin s1 m1 e1 _, .fin s2 m2 e2 _ => (addFin mode s1 m1 e1 s2 m2 e2, 0)

/-- R311: the exact product, and IV for zero times infinity. -/
def numMul (a b : Num) : Num × Astat :=
  match a, b with
  | .nan, _ => (.nan, 0)
  | _, .nan => (.nan, 0)
  | .inf s, .inf t => (.inf (s != t), 0)
  | .inf s, .fin t m _ _ => if m = 0 then (.nan, flagIV) else (.inf (s != t), 0)
  | .fin s m _ _, .inf t => if m = 0 then (.nan, flagIV) else (.inf (s != t), 0)
  | .fin s1 m1 e1 _, .fin s2 m2 e2 _ => (.fin (s1 != s2) (m1 * m2) (e1 + e2) false, 0)

/-- R311: the exact quotient to more bits than any format holds, with DZ and IV. -/
def numDiv (a b : Num) : Num × Astat :=
  match a, b with
  | .nan, _ => (.nan, 0)
  | _, .nan => (.nan, 0)
  | .inf _, .inf _ => (.nan, flagIV)
  | .inf s, .fin t _ _ _ => (.inf (s != t), 0)
  | .fin s _ _ _, .inf t => (.fin (s != t) 0 0 false, 0)
  | .fin s1 m1 e1 _, .fin s2 m2 e2 _ =>
    if m2 = 0 then
      if m1 = 0 then (.nan, flagIV) else (.inf (s1 != s2), flagDZ)
    else if m1 = 0 then (.fin (s1 != s2) 0 0 false, 0)
    else
      let k := 64 + Nat.log2 m2
      (.fin (s1 != s2) (m1 * 2 ^ k / m2) (e1 - e2 - k) (m1 * 2 ^ k % m2 != 0), 0)

/-- R311: `a × b + c` exactly; a NaN operand decides alone. -/
def numFma (mode : RMode) (a b c : Num) : Num × Astat :=
  if a.isNan || b.isNan || c.isNan then (.nan, 0)
  else
    let p := numMul a b
    if p.1.isNan then p else numAdd mode p.1 c

/-- Result of an exact operation rounded into a format. -/
def roundOf (f : FpFormat) (mode : RMode) (sat : Bool) (x : Num × Astat) : Nat × Astat :=
  let r := f.round mode sat x.1
  (r.1, x.2 ||| r.2)

/-- `rne32(a + b)`, as a node of a tree or a step of a chain. -/
def add32 (a b : Word) : Word × Astat :=
  let r := roundOf fpF32 .rne false (numAdd .rne (num32 a) (num32 b))
  (BitVec.ofNat 32 r.1, r.2)

/-- `rne32(a − b)`. -/
def sub32 (a b : Word) : Word × Astat :=
  let r := roundOf fpF32 .rne false (numAdd .rne (num32 a) (num32 b).neg)
  (BitVec.ofNat 32 r.1, r.2)

/-- `rne32(a × b)`. -/
def mul32 (a b : Word) : Word × Astat :=
  let r := roundOf fpF32 .rne false (numMul (num32 a) (num32 b))
  (BitVec.ofNat 32 r.1, r.2)

/-- FDIV under RNE. -/
def div32 (a b : Word) : Word × Astat :=
  let r := roundOf fpF32 .rne false (numDiv (num32 a) (num32 b))
  (BitVec.ofNat 32 r.1, r.2)

/-- FFMA under RNE. -/
def fma32 (a b c : Word) : Word × Astat :=
  let r := roundOf fpF32 .rne false (numFma .rne (num32 a) (num32 b) (num32 c))
  (BitVec.ofNat 32 r.1, r.2)

/-- Strict order of two numbers that are not NaN; −0 equals +0. -/
def numLt (a b : Num) : Bool :=
  match a, b with
  | .nan, _ => false
  | _, .nan => false
  | .inf s, .inf t => s && !t
  | .inf s, .fin _ _ _ _ => s
  | .fin _ _ _ _, .inf t => !t
  | .fin s1 m1 e1 _, .fin s2 m2 e2 _ =>
    let e0 := if e1 ≤ e2 then e1 else e2
    decide (scaledInt s1 m1 e1 e0 < scaledInt s2 m2 e2 e0)

/-- Equality of two numbers that are not NaN; −0 equals +0. -/
def numEq (a b : Num) : Bool := !a.isNan && !b.isNan && !numLt a b && !numLt b a

/-- R313: FMIN; a NaN yields the other operand, two give the default NaN, −0 ranks below +0. -/
def fmin32 (a b : Word) : Word :=
  let x := num32 a
  let y := num32 b
  if x.isNan && y.isNan then nan32
  else if x.isNan then b
  else if y.isNan then a
  else if numLt x y then a
  else if numLt y x then b
  else if x.signBit then a else b

/-- R313: FMAX. -/
def fmax32 (a b : Word) : Word :=
  let x := num32 a
  let y := num32 b
  if x.isNan && y.isNan then nan32
  else if x.isNan then b
  else if y.isNan then a
  else if numLt x y then b
  else if numLt y x then a
  else if x.signBit then b else a

/-- R334: the combination of AMAX, NaN when either operand is NaN, else the larger. -/
def amaxc (a b : Word) : Word :=
  if (num32 a).isNan || (num32 b).isNan then nan32
  else if numLt (num32 a) (num32 b) then b else a

/-- Integer square root, one result bit at a time from bit `k − 1` down. -/
def isqrtFrom (n : Nat) : Nat → Nat → Nat
  | 0, r => r
  | k + 1, r =>
    let r' := r + 2 ^ k
    isqrtFrom n k (if r' * r' ≤ n then r' else r)

/-- `⌊√n⌋`. -/
def isqrt (n : Nat) : Nat := isqrtFrom n (Nat.log2 n / 2 + 1) 0

/-- Exact square root of a positive value, to more bits than FP32 holds. -/
def numSqrt (m : Nat) (e : Int) : Num :=
  let k : Nat := 128 + (e % 2).toNat
  let n := m * 2 ^ k
  let r := isqrt n
  .fin false r ((e - k) / 2) (r * r != n)

/-- Exact reciprocal square root of a positive value, to more bits than FP32 holds. -/
def numRsqrt (m : Nat) (e : Int) : Num :=
  let m' := if e % 2 = 0 then m else 2 * m
  let e' : Int := if e % 2 = 0 then e else e - 1
  let n := 2 ^ 240 / m'
  let r := isqrt n
  .fin false r (-(e' / 2) - 120) (r * r * m' != 2 ^ 240)

/-- π·2^300 and ln 2·2^400, truncated. -/
def piFix : Nat := 6399537258350533404498902296276095619968599404742382956244570183135712832137875919436931981
def ln2Fix : Nat := 1789879222497203190815761498240779176894896805856420935579692301363062920687047601279850318367644315849030039181347319086

/-- Taylor sum of e^g for a fixed-point g of `p` fraction bits. -/
def expTaylor (p g : Nat) : Nat → Nat → Nat → Nat → Nat
  | 0, _, _, acc => acc
  | k + 1, i, term, acc =>
    let t := term * g / 2 ^ p / (i + 1)
    expTaylor p g k (i + 1) t (acc + t)

/-- e^g for 0 ≤ g < 1 in fixed point. -/
def expFix (p g : Nat) : Nat := expTaylor p g 90 0 (2 ^ p) (2 ^ p)

/-- Exact 2^x of a finite value, to more bits than FP32 needs (R322, log entry 9). Arguments below −200 stand for −200. -/
def numExp2 (neg : Bool) (m : Nat) (e : Int) : Num :=
  let fixed : Int := scaledInt neg m e (-160)
  let n : Int := fixed / 2 ^ (160 : Nat)
  let f : Nat := (fixed % 2 ^ (160 : Nat)).toNat
  if f = 0 then .fin false 1 n false
  else if n < -200 then .fin false 1 (-200) true
  else .fin false (expFix 400 (f * ln2Fix / 2 ^ 160) / 2 ^ 60) (n - 340) true

/-- Binary digits of log2 by repeated squaring of a value in [1, 2) with 320 fraction bits. -/
def log2Digits : Nat → Nat → Nat → Nat
  | 0, _, acc => acc
  | k + 1, x, acc =>
    let y := x * x / 2 ^ 320
    if 2 ^ 321 ≤ y then log2Digits k (y / 2) (2 * acc + 1) else log2Digits k y (2 * acc)

/-- log2 of a positive value that is no power of two. -/
def numLog2 (m : Nat) (e : Int) : Num :=
  let l := Nat.log2 m
  let ex : Int := (l : Int) + e
  let f := log2Digits 128 (m * 2 ^ (320 - l)) 0
  if 0 ≤ ex then .fin false (ex.toNat * 2 ^ 128 + f) (-128) true
  else .fin true (ex.natAbs * 2 ^ 128 - f - 1) (-128) true

/-- Taylor sum of the sine of r (240 fraction bits): alternate terms r^(2i+1)/(2i+1)!. -/
def sinTaylor (r2 : Nat) : Nat → Nat → Nat → Bool → Int → Int
  | 0, _, _, _, acc => acc
  | k + 1, i, term, sub, acc =>
    let t := term * r2 / 2 ^ 240 / ((i + 1) * (i + 2))
    sinTaylor r2 k (i + 2) t (!sub) (if sub then acc - t else acc + t)

/-- Sine and cosine of 0 ≤ r < π/2 in fixed point, 240 fraction bits. -/
def sinFix (r : Nat) : Nat := (sinTaylor (r * r / 2 ^ 240) 45 1 r true r).toNat
def cosFix (r : Nat) : Nat := (sinTaylor (r * r / 2 ^ 240) 45 0 (2 ^ 240) true (2 ^ 240 : Nat)).toNat

/-- A magnitude just below `m·2^e`. -/
def justBelow (neg : Bool) (m : Nat) (e : Int) : Num := .fin neg (m * 2 ^ 64 - 1) (e - 64) true

/-- Sine (`quarter = 0`) or cosine (`quarter = 1`) of a finite |x| < 2^16 (R322). -/
def numSinCos (quarter : Nat) (neg : Bool) (m : Nat) (e : Int) : Num :=
  if (Nat.log2 m : Int) + e < -12 then
    if quarter = 0 then justBelow neg m e else justBelow false 1 0
  else
    let x := (scaledInt false m e (-240)).toNat
    let half := piFix / 2 ^ 61
    let k := x / half
    let r := (x * 2 ^ 60 - k * (piFix / 2)) / 2 ^ 60
    let j := (k + quarter) % 4
    let v := if j % 2 = 0 then sinFix r else cosFix r
    let s := decide (j ≥ 2) != (neg && quarter == 0)
    .fin s (v / 2 ^ 24) (-216) true

/-- Hyperbolic tangent of a finite non-zero value (R322). -/
def numTanh (neg : Bool) (m : Nat) (e : Int) : Num :=
  if (Nat.log2 m : Int) + e < -12 then justBelow neg m e
  else if 5 ≤ (Nat.log2 m : Int) + e then justBelow neg 1 0
  else
    -- y = 2|x| < 64, taken as k·ln 2 + g, so that e^−y = 2^−k · 1/e^g
    let y := (scaledInt false m (e + 1) (-400)).toNat
    let k := y / ln2Fix
    let g := y % ln2Fix
    let eg := expFix 400 g * 2 ^ k
    .fin neg ((eg - 2 ^ 400) * 2 ^ 300 / (eg + 2 ^ 400)) (-300) true

/-- R322: the neighbour that the free value of Config picks, of the two within 1 ulp. -/
def sfuPick (fn : Nat) (x : Word) (r : Num) : Word × Astat :=
  let toward := fpF32.round .rz false r
  let away := fpF32.round (if r.signBit then .rd else .ru) false r
  let p := if Config.sfuAway fn x then away else toward
  (BitVec.ofNat 32 p.1, p.2 ||| flagNX)

/-- R217, R322: the eight special functions by FN. -/
def sfu (fn : Nat) (x : Word) : Word × Astat :=
  match num32 x with
  | .nan => (nan32, 0)
  | .inf s =>
    match fn with
    | 0 => if s then (0, 0) else (0x7F800000, 0)
    | 1 => if s then (nan32, flagIV) else (0x7F800000, 0)
    | 2 => if s then (0x80000000, 0) else (0, 0)
    | 3 => if s then (nan32, flagIV) else (0, 0)
    | 4 => if s then (nan32, flagIV) else (0x7F800000, 0)
    | 5 => (nan32, flagRG ||| flagIV)
    | 6 => (nan32, flagRG ||| flagIV)
    | _ => if s then (0xBF800000, 0) else (0x3F800000, 0)
  | .fin s m e _ =>
    if m = 0 then
      match fn with
      | 0 => (0x3F800000, 0)
      | 1 => (0xFF800000, flagDZ)
      | 2 => (if s then 0xFF800000 else 0x7F800000, flagDZ)
      | 3 => (if s then 0xFF800000 else 0x7F800000, flagDZ)
      | 4 => (x, 0)
      | 5 => (x, 0)
      | 6 => (0x3F800000, 0)
      | _ => (x, 0)
    else
      let big := decide ((16 : Int) ≤ (Nat.log2 m : Int) + e)
      match fn with
      | 0 =>
        if decide ((7 : Int) ≤ (Nat.log2 m : Int) + e) && !s then (0x7F800000, flagOF ||| flagNX)
        else if decide ((10 : Int) ≤ (Nat.log2 m : Int) + e) then rne32 (.fin false 1 (-200) true)
        else rne32 (numExp2 s m e)
      | 1 =>
        if s then (nan32, flagIV)
        else if m = 2 ^ Nat.log2 m then
          let k : Int := (Nat.log2 m : Int) + e
          rne32 (.fin (decide (k < 0)) k.natAbs 0 false)
        else sfuPick 1 x (numLog2 m e)
      | 2 =>
        let r := roundOf fpF32 .rne false (numDiv (.fin false 1 0 false) (.fin s m e false))
        (BitVec.ofNat 32 r.1, r.2)
      | 3 =>
        if s then (nan32, flagIV)
        else match numRsqrt m e with
          | .fin a b c false => rne32 (.fin a b c false)
          | r => sfuPick 3 x r
      | 4 => if s then (nan32, flagIV) else rne32 (numSqrt m e)
      | 5 => if big then (nan32, flagRG) else sfuPick 5 x (numSinCos 0 s m e)
      | 6 => if big then (nan32, flagRG) else sfuPick 6 x (numSinCos 1 s m e)
      | _ => sfuPick 7 x (numTanh s m e)

/-- `EX2(x)` of R8. -/
def ex2 (x : Word) : Word × Astat := sfu 0 x

/-- R126: rounding into E8M0. -/
def roundE8M0 (mode : RMode) (x : Num) : Nat × Astat :=
  match x with
  | .fin false m e st =>
    if m = 0 then (0xFF, flagIV)
    else
      let l := Nat.log2 m
      let k : Int := (l : Int) + e
      let rem := m - 2 ^ l
      let inexact := rem != 0 || st
      let up := match mode with
        | .rne => decide (2 * rem > 2 ^ l) || (decide (2 * rem = 2 ^ l) && (st || k % 2 != 0))
        | .ru => inexact
        | .rs u => decide (u < rem * 2 ^ 24 / 2 ^ l)
        | _ => false
      let r : Int := if up then k + 1 else k
      let nx := flagIf inexact flagNX
      if r < -127 then (0x00, flagUF ||| flagNX)
      else if 127 < r then (0xFE, flagOF ||| flagNX)
      else ((r + 127).toNat, nx)
  | _ => (0xFF, flagIV)

/-- R126, R127: a scale or element in E8M0 as a number. -/
def decodeE8M0 (x : Nat) : Num :=
  if x % 256 = 255 then .nan else .fin false 1 ((x % 256 : Nat) - 127 : Int) false

/-- Exact integer value rounded to an integer under a mode: (integer, inexact). -/
def numToInt (mode : RMode) (neg : Bool) (m : Nat) (e : Int) : Int × Bool :=
  let sh := (-e).toNat
  let m0 := m * 2 ^ e.toNat / 2 ^ sh
  let rem := m * 2 ^ e.toNat % 2 ^ sh
  let up := raiseMag mode neg (m0 % 2 == 1) rem sh false
  let v : Int := ((if up then m0 + 1 else m0) : Nat)
  (if neg then -v else v, rem != 0)

end Sys2Proof.Machine
end

