-- ==== Sys2Proof/WellFormed.lean ====
section
/-! DEFINITION. Which terms of the syntax are instructions: field ranges and the combinations that no word encodes. -/

namespace Sys2Proof

/-- R210: t0 to t7 and e0 to e3. -/
def Src.wf : Src → Bool
  | .t k => decide (k < 8)
  | .e k => decide (k < 4)
  | _ => true

/-- R211: positions 0 to 63, temporaries 0 to 7, ports 0 to 127. -/
def Target.wf : Target → Bool
  | .latA p => decide (p < 64)
  | .latB p => decide (p < 64)
  | .onTrue p => decide (p < 64)
  | .onFalse p => decide (p < 64)
  | .temp k => decide (k < 8)
  | .port n => decide (n < 128)
  | _ => true

/-- An FMT field holds a format that the instruction accepts (R117, R310). -/
def fmtIn (f : Fmt) (l : List Fmt) : Bool := l.contains f

/-- R264: a number in the table of special registers. -/
def mfsNumber (n : Nat) : Bool :=
  decide (n < 0x16) || (decide (0x20 ≤ n) && decide (n < 0x30)) || (decide (0x40 ≤ n) && decide (n < 0x50))

/-- R264: a special register that MTS may write. -/
def mtsNumber (n : Nat) : Bool :=
  n == 0x08 || n == 0x0B || n == 0x0C || (decide (0x12 ≤ n) && decide (n < 0x16)) || (decide (0x20 ≤ n) && decide (n < 0x30)) ||
    (decide (0x40 ≤ n) && decide (n < 0x50))

/-- R345: the pairs that CH = 1 accepts. -/
def pairChains : Pair → Bool
  | .fp4 => false
  | .cb2e4 => false
  | .cb2bf => false
  | .i8 => false
  | _ => true

/-- A SEND of 24 to 65,536 bytes (R437). -/
def sendWf (n : Nat) : Bool := decide (24 ≤ n) && decide (n ≤ 65536)

/-- The well-formed terms. -/
def Instr.wf : Instr → Bool
  | .tokenArrival => true
  | .cancelTokenArrival => true
  | .taskFire => true
  | .blockCommit => true
  | .outputBufferSend => true
  | .loadResponseReturn => true
  | .taskClassAging => true
  | .bankGrant => true
  | .sramScrub => true
  | .dramScrub => true
  | .dramRequest => true
  | .translationMiss => true
  | .pageWalk => true
  | .walkComplete => true
  | .asyncFaultReport => true
  | .faultDelivery => true
  | .supervisorFaultDequeue => true
  | .watchdog => true
  | .stageBalance => true
  | .launchRecordAging => true
  | .launchIntake => true
  | .allocationPass => true
  | .regionShrink q gt _ _ => decide (q < 4096) && decide (gt < 256)
  | .fullSave => true
  | .resume => true
  | .tileFree => true
  | .quadrantReport => true
  | .launchEnd => true
  | .runBarrierReached => true
  | .contextFree => true
  | .batonVisit => true
  | .seqOrder => true
  | .stashFill => true
  | .stashEviction => true
  | .hitchRequestArrival => true
  | .hitchReleaseArrival => true
  | .hitchGrantArrival => true
  | .barrierArrival => true
  | .giveFlip => true
  | .drayCommandStart => true
  | .drayComplete => true
  | .drayFail => true
  | .remoteDrayWrite => true
  | .dhopArrival => true
  | .dredCombine => true
  | .append => true
  | .appendRetry => true
  | .baleLookup => true
  | .placementMiss => true
  | .tbShootdownArrival => true
  | .tbiCompletion => true
  | .baleShootdownArrival => true
  | .shinvCompletion => true
  | .placementBroadcastArrival => true
  | .plbcCompletion => true
  | .troughWaiterServe => true
  | .mmaApply => true
  | .mzeroApply => true
  | .mldaApply => true
  | .mdrnApply => true
  | .etldApply => true
  | .foldApply => true
  | .foldRetry => true
  | .ffinApply => true
  | .taccApply => true
  | .commitEntry => true
  | .normaliserSegment => true
  | .bridleSegment => true
  | .reinldApply => true
  | .prbldApply => true
  | .edgeEgressWrite => true
  | .edgeIngressInject => true
  | .ldchNode => true
  | .waitEmit => true
  | .fenceRelease => true
  | .halt => true
  | .stepHalt => true
  | .idleRestart => true
  | .quadrantEnterP2 => true
  | .quadrantWake => true
  | .tileClockWake => true
  | .governorMeasure _ => true
  | .startup => true
  | .recoveryImage qp _ sent _ => decide (qp < 1024) && sendWf sent
  | .mrlPlaneDown plane => decide (plane < 36)
  | .mrlKeyChange link => decide (link < 36)
  | .rdmaWrite qp _ _ _ => decide (qp < 1024)
  | .rdmaRead qp _ _ _ => decide (qp < 1024)
  | .rdmaInvalidRequest qp => decide (qp < 1024)
  | .sttLaunch qp _ sent _ => decide (qp < 1024) && sendWf sent
  | .sttTokens qp _ sent _ => decide (qp < 1024) && sendWf sent
  | .mrreg qp _ sent index asid _ _ _ _ => decide (qp < 1024) && sendWf sent && decide (index < 4096) && decide (asid < 65536)
  | .mrdereg qp _ sent index => decide (qp < 1024) && sendWf sent && decide (index < 4096)
  | .ctrlPreempt qp _ sent q _ => decide (qp < 1024) && sendWf sent && decide (q < 4096)
  | .ctrlHalt qp _ sent asid ctx => decide (qp < 1024) && sendWf sent && decide (asid < 65536) && decide (ctx < 65536)
  | .ctrlFwd qp _ sent _ => decide (qp < 1024) && sendWf sent
  | .getVersion qp _ sent => decide (qp < 1024) && sendWf sent
  | .getCapabilities qp _ sent => decide (qp < 1024) && sendWf sent
  | .negotiateAlgorithms qp _ sent => decide (qp < 1024) && sendWf sent
  | .getDigests qp _ sent => decide (qp < 1024) && sendWf sent
  | .getCertificate qp _ sent => decide (qp < 1024) && sendWf sent
  | .challenge qp _ sent => decide (qp < 1024) && sendWf sent
  | .getMeasurements qp _ sent => decide (qp < 1024) && sendWf sent
  | .keyExchange qp _ sent => decide (qp < 1024) && sendWf sent
  | .finish qp _ sent => decide (qp < 1024) && sendWf sent
  | .debugUnlock qp _ sent level => decide (qp < 1024) && sendWf sent && decide (level < 3)
  | .spdmUnsupportedRequest qp _ sent => decide (qp < 1024) && sendWf sent
  | .getTelemetry => true
  | .setPlimit _ => true
  | .setPowerP3 => true
  | .setPowerP0 => true
  | .getBootrec => true
  | .smodeWrite => true
  | .qreqP0 => true
  | .qreqP1 => true
  | .qreqP2 => true
  | .gerrClear => true
  | .svecWrite => true
  | .deviceRegisterWrite => true
  | .fwd x y => x.wf && y.wf
  | .steer x y => x.wf && y.wf
  | .steerc x y => x.wf && y.wf
  | .split n x y => decide (n < 33) && x.wf && y.wf
  | .pack off x y => decide (off < 32) && x.wf && y.wf
  | .unpack off x y => decide (off < 32) && x.wf && y.wf
  | .addP x y => x.wf && y.wf
  | .subP x y => x.wf && y.wf
  | .andP x y => x.wf && y.wf
  | .orP x y => x.wf && y.wf
  | .xorP x y => x.wf && y.wf
  | .shlP x y => x.wf && y.wf
  | .shrP x y => x.wf && y.wf
  | .sraP x y => x.wf && y.wf
  | .minP x y => x.wf && y.wf
  | .maxP x y => x.wf && y.wf
  | .cmpP _ x y => x.wf && y.wf
  | .faddP _ x y => x.wf && y.wf
  | .fsubP _ x y => x.wf && y.wf
  | .fmulP _ x y => x.wf && y.wf
  | .fminP x y => x.wf && y.wf
  | .fmaxP x y => x.wf && y.wf
  | .fcmpP _ x y => x.wf && y.wf
  | .add a b t => a.wf && b.wf && t.wf
  | .sub a b t => a.wf && b.wf && t.wf
  | .mul a b t => a.wf && b.wf && t.wf
  | .mulh a b t => a.wf && b.wf && t.wf
  | .mulhu a b t => a.wf && b.wf && t.wf
  | .div a b t => a.wf && b.wf && t.wf
  | .divu a b t => a.wf && b.wf && t.wf
  | .rem a b t => a.wf && b.wf && t.wf
  | .remu a b t => a.wf && b.wf && t.wf
  | .and a b t => a.wf && b.wf && t.wf
  | .or a b t => a.wf && b.wf && t.wf
  | .xor a b t => a.wf && b.wf && t.wf
  | .andn a b t => a.wf && b.wf && t.wf
  | .shl a b t => a.wf && b.wf && t.wf
  | .shr a b t => a.wf && b.wf && t.wf
  | .sra a b t => a.wf && b.wf && t.wf
  | .rot a b t => a.wf && b.wf && t.wf
  | .min a b t => a.wf && b.wf && t.wf
  | .max a b t => a.wf && b.wf && t.wf
  | .minu a b t => a.wf && b.wf && t.wf
  | .maxu a b t => a.wf && b.wf && t.wf
  | .abs a t => a.wf && t.wf
  | .clz a t => a.wf && t.wf
  | .ctz a t => a.wf && t.wf
  | .popc a t => a.wf && t.wf
  | .brev a t => a.wf && t.wf
  | .sxb a t => a.wf && t.wf
  | .sxh a t => a.wf && t.wf
  | .sx4 a t => a.wf && t.wf
  | .zxb a t => a.wf && t.wf
  | .zxh a t => a.wf && t.wf
  | .zx4 a t => a.wf && t.wf
  | .bfx a b _ t => a.wf && b.wf && t.wf
  | .bfi a b c t => a.wf && b.wf && decide (c < 8) && t.wf
  | .cmp a b _ t => a.wf && b.wf && t.wf
  | .sel a b c t => a.wf && b.wf && decide (c < 8) && t.wf
  | .lea a b s t => a.wf && b.wf && decide (s < 4) && t.wf
  | .switchPol a n t => a.wf && decide (n < 16) && t.wf
  | .switchLane a b n t => a.wf && b.wf && decide (n < 16) && t.wf
  | .laff a b t => a.wf && b.wf && t.wf
  | .lxor a t => a.wf && t.wf
  | .lvcnt a t => a.wf && t.wf
  | .lvfst a t => a.wf && t.wf
  | .fadd a b f _ _ t => a.wf && b.wf && fmtIn f [.f32, .bf16, .f16] && t.wf
  | .fsub a b f _ _ t => a.wf && b.wf && fmtIn f [.f32, .bf16, .f16] && t.wf
  | .fmul a b f _ _ t => a.wf && b.wf && fmtIn f [.f32, .bf16, .f16] && t.wf
  | .ffma a b _ c _ t => a.wf && b.wf && decide (c < 8) && t.wf
  | .fmin a b t => a.wf && b.wf && t.wf
  | .fmax a b t => a.wf && b.wf && t.wf
  | .fabs a f t => a.wf && fmtIn f [.f32, .bf16, .f16] && t.wf
  | .fneg a f t => a.wf && fmtIn f [.f32, .bf16, .f16] && t.wf
  | .fcpys a b f t => a.wf && b.wf && fmtIn f [.f32, .bf16, .f16] && t.wf
  | .fcpyn a b f t => a.wf && b.wf && fmtIn f [.f32, .bf16, .f16] && t.wf
  | .fxsgn a b f t => a.wf && b.wf && fmtIn f [.f32, .bf16, .f16] && t.wf
  | .fcmp a b f _ t => a.wf && b.wf && fmtIn f [.f32, .bf16, .f16] && t.wf
  | .fclass a f t => a.wf && fmtIn f [.f32, .bf16, .f16, .e4m3, .e5m2, .e2m1] && t.wf
  | .fcvt a b f _ _ t => a.wf && b.wf && fmtIn f [.bf16, .f16, .e4m3, .e5m2, .e2m1, .e8m0] && t.wf
  | .frnd a _ t => a.wf && t.wf
  | .ftoi a _ _ _ t => a.wf && t.wf
  | .itof a f _ _ t => a.wf && fmtIn f [.f32, .bf16, .f16] && t.wf
  | .hadd2 a b f _ _ t => a.wf && b.wf && fmtIn f [.bf16, .f16] && t.wf
  | .hmul2 a b f _ _ t => a.wf && b.wf && fmtIn f [.bf16, .f16] && t.wf
  | .hfma2 a b _ c _ t => a.wf && b.wf && decide (c < 8) && t.wf
  | .ex2 a t => a.wf && t.wf
  | .lg2 a t => a.wf && t.wf
  | .rcp a t => a.wf && t.wf
  | .rsq a t => a.wf && t.wf
  | .sqrt a t => a.wf && t.wf
  | .sin a t => a.wf && t.wf
  | .cos a t => a.wf && t.wf
  | .tanh a t => a.wf && t.wf
  | .fdiv a b f _ _ t => a.wf && b.wf && fmtIn f [.f32, .bf16, .f16] && t.wf
  | .lred a _ t => a.wf && t.wf
  | .lscan a _ t => a.wf && t.wf
  | .shuf a b _ t => a.wf && b.wf && t.wf
  | .lbc a b t => a.wf && b.wf && t.wf
  | .vdot a b f t => a.wf && b.wf && fmtIn f [.f32, .bf16, .f16, .e4m3, .e5m2] && t.wf
  | .tacc a b t => a.wf && b.wf && t.wf
  | .cbdec a f entry _ t => a.wf && fmtIn f [.f32, .bf16] && decide (entry < 8) && t.wf && (f == .f32 || decide (entry < 4))
  | .ltld a b => a.wf && b.wf
  | .scacc a b bf c _ t => a.wf && b.wf && fmtIn bf [.e4m3, .e5m2, .e8m0] && decide (c < 8) && t.wf
  | .scmul a b f t => a.wf && b.wf && fmtIn f [.f32, .bf16, .e4m3, .e5m2, .e8m0] && t.wf
  | .amax a n t => a.wf && decide (n < 16) && t.wf
  | .rng a b w _ t => a.wf && b.wf && decide (w < 4) && t.wf
  | .li i t => decide (i < 2048) && t.wf
  | .lih a i t => a.wf && decide (i < 2048) && t.wf
  | .lit word t => t.wf && decide (word < 2 ^ 32)
  | .addi a i t => a.wf && decide (i < 2048) && t.wf
  | .andi a i t => a.wf && decide (i < 2048) && t.wf
  | .ori a i t => a.wf && decide (i < 2048) && t.wf
  | .xori a i t => a.wf && decide (i < 2048) && t.wf
  | .shli a i t => a.wf && decide (i < 32) && t.wf
  | .shri a i t => a.wf && decide (i < 32) && t.wf
  | .srai a i t => a.wf && decide (i < 32) && t.wf
  | .cmpeqi a i t => a.wf && decide (i < 2048) && t.wf
  | .cmplti a i t => a.wf && decide (i < 2048) && t.wf
  | .cmpltui a i t => a.wf && decide (i < 2048) && t.wf
  | .mfs i t => t.wf && mfsNumber i
  | .ldp a i t => a.wf && decide (i < 2048) && t.wf
  | .stp a i => a.wf && decide (i < 2048)
  | .ld a base _ s t => a.wf && decide (base < 8) && decide (s < 4) && t.wf
  | .st a b base _ s t => a.wf && b.wf && decide (base < 8) && decide (s < 4) && t.wf
  | .ldch a b base s t => a.wf && b.wf && decide (base < 8) && decide (s < 4) && t.wf
  | .pref a base _ s => a.wf && decide (base < 8) && decide (s < 4)
  | .sflush a b base s t => a.wf && b.wf && decide (base < 8) && decide (s < 4) && t.wf
  | .sinv a b base s t => a.wf && b.wf && decide (base < 8) && decide (s < 4) && t.wf
  | .amo a b base _ t => a.wf && b.wf && decide (base < 8) && t.wf
  | .cas a b base _ c t => a.wf && b.wf && decide (base < 8) && decide (c < 8) && t.wf
  | .amosc a b base _ t => a.wf && b.wf && decide (base < 8) && t.wf
  | .amof a b base _ t => a.wf && b.wf && decide (base < 8) && t.wf
  | .hacq a base _ t => a.wf && decide (base < 8) && t.wf
  | .hrel a base k t => a.wf && decide (base < 8) && t.wf && k != .x
  | .htry a base k t => a.wf && decide (base < 8) && t.wf && k != .p
  | .hbind a b base t => a.wf && b.wf && decide (base < 8) && t.wf
  | .hunb a b base t => a.wf && b.wf && decide (base < 8) && t.wf
  | .fence a s t => a.wf && decide (s < 4) && t.wf && (a == .latch || a == .zero)
  | .bar a b h base t => a.wf && b.wf && decide (base < 8) && t.wf && (h || b == .zero)
  | .wait l s d m t => decide (l < 16) && decide (s < 16) && decide (d < 16) && decide (m < 8) && t.wf
  | .give a eng => a.wf && decide (1 ≤ eng) && decide (eng ≤ 8)
  | .qrsv a np t => a.wf && decide (np < 128) && t.wf
  | .qpost a => a.wf
  | .qtake a np t => a.wf && decide (np < 128) && t.wf
  | .qfree a => a.wf
  | .qstat a t => a.wf && t.wf
  | .dcopyG2p a ch t => a.wf && decide (ch < 4) && t.wf
  | .dcopyP2g a ch t => a.wf && decide (ch < 4) && t.wf
  | .dcopyP2p a ch t => a.wf && decide (ch < 4) && t.wf
  | .dcopyP2t a ch t => a.wf && decide (ch < 4) && t.wf
  | .dcopyApp a ch t => a.wf && decide (ch < 4) && t.wf
  | .dgath a b ch t => a.wf && b.wf && decide (ch < 4) && t.wf
  | .dscat a b ch t => a.wf && b.wf && decide (ch < 4) && t.wf
  | .dhop a ch t => a.wf && decide (ch < 4) && t.wf
  | .dbcst a ch _ t => a.wf && decide (ch < 4) && t.wf
  | .dred a ch _ _ t => a.wf && decide (ch < 4) && t.wf
  | .mma a pr _ _ chn t => a.wf && t.wf && (!chn || pairChains pr)
  | .mzero a t => a.wf && t.wf
  | .mdrn a _ _ _ _ _ t => a.wf && t.wf
  | .mlda a b t => a.wf && b.wf && t.wf
  | .etld a b t => a.wf && b.wf && t.wf
  | .fold a b t => a.wf && b.wf && t.wf
  | .ffin a t => a.wf && t.wf
  | .ncfg a t => a.wf && t.wf
  | .brcfg a t => a.wf && t.wf
  | .brcfgStat a t => a.wf && t.wf
  | .reinld a b t => a.wf && b.wf && t.wf
  | .sendx a b seg pol eor t => a.wf && b.wf && t.wf && (seg || pol || eor || b == .zero)
  | .cancel a t => a.wf && t.wf
  | .commit a nul t => a.wf && t.wf && (!nul || a == .zero)
  | .ctxa a _ t => a.wf && t.wf
  | .ctxf a self => a.wf && (!self || a == .zero)
  | .spawn a b _ _ t => a.wf && b.wf && t.wf
  | .launch a t => a.wf && t.wf
  | .mts a n => a.wf && mtsNumber n
  | .trap a code => a.wf && decide (code < 128)
  | .brk code => decide (code < 128)
  | .eres a b rep ent _ t => a.wf && b.wf && decide (ent < 4) && t.wf && (rep || b == .zero)
  | .esc a t => a.wf && t.wf
  | .ekill a t => a.wf && t.wf
  | .mfsr a t => a.wf && t.wf
  | .mtsr a b t => a.wf && b.wf && t.wf
  | .tbi a t => a.wf && t.wf
  | .shinv a t => a.wf && t.wf
  | .plbc a t => a.wf && t.wf
  | .prbld a b t => a.wf && b.wf && t.wf
  | .cfgld a b t => a.wf && b.wf && t.wf
  | .gait a t => a.wf && t.wf
  | .idle t => t.wf
  | .park a t => a.wf && t.wf
  | .sqEnd code => decide (code < 65536)
  | .sqCfg gt region => decide (gt < 256) && decide (region < 256)
  | .sqRun _ edge _ => decide (edge < 64)
  | .sqIf hv _ target va hva => decide (target < 65536) && decide (va < 2 ^ 56) && decide (hva < 2 ^ 56) && (hv || hva == 0)
  | .sqJmp target => decide (target < 65536)
  | .sqBar => true
  | .sqGait gt => decide (gt < 256)
  | .sqSig iter dest value => decide (iter < 65536) && decide (dest < 2 ^ 23) && decide (value < 2 ^ 32)
  | .reservedOpcode => true
  | .reservedSequencerWord => true
  | .ticketOrder => true
  | .groomInboxArrival => true
  | .sttDiscard qp _ sent => decide (qp < 1024) && sendWf sent
  | .connectionManager qp user port => decide (qp < 1024) && user.all (fun a => decide (a < 65536)) && decide (port < 9)
  | .mrlPlaneUp plane => decide (plane < 36)
  | .powerLoss => true

end Sys2Proof
end

