-- ==== Sys2Proof/Decode.lean ====
section
/-! DEFINITION. Decoding of block words and of sequencer words, total and rejecting by name, and the encoder
(R207 to R222, R237 to R385). A word is a natural number below 2^32. -/

namespace Sys2Proof

/-- Why a word is no instruction. -/
inductive Reject where
  | opcode
  | modField
  | source
  | target
  deriving DecidableEq, Repr

/-- R210. -/
def Src.code : Src → Nat
  | .t k => k
  | .latch => 8
  | .e k => 9 + k
  | .zero => 13
  | .lid => 14
  | .tag => 15

/-- R210: every 4-bit code names a source. -/
def Src.ofCode (c : Nat) : Src :=
  if c < 8 then .t c
  else if c = 8 then .latch
  else if c < 13 then .e (c - 9)
  else if c = 13 then .zero
  else if c = 14 then .lid
  else .tag

/-- R211. -/
def Target.code : Target → Nat
  | .latA p => 2 * p
  | .latB p => 2 * p + 1
  | .onTrue p => 128 + 2 * p
  | .onFalse p => 128 + 2 * p + 1
  | .temp k => 256 + k
  | .discard => 264
  | .emask => 265
  | .port n => 384 + n

/-- R211; the other codes of the group 10 are reserved. -/
def Target.ofCode (c : Nat) : Except Reject Target :=
  if c < 128 then .ok (if c % 2 = 0 then .latA (c / 2) else .latB (c / 2))
  else if c < 256 then .ok (if c % 2 = 0 then .onTrue ((c - 128) / 2) else .onFalse ((c - 128) / 2))
  else if c < 264 then .ok (.temp (c - 256))
  else if c = 264 then .ok .discard
  else if c = 265 then .ok .emask
  else if c < 384 then .error .target
  else .ok (.port (c - 384))

/-- Condition of CMP (R213): its code. -/
def Cond.code : Cond → Nat
  | .eq => 0
  | .ne => 1
  | .lt => 2
  | .le => 3
  | .ltu => 4
  | .leu => 5
  | .gt => 6
  | .ge => 7
  | .gtu => 8
  | .geu => 9

/-- Condition of CMP (R213): a reserved code is refused. -/
def Cond.ofCode : Nat → Except Reject Cond
  | 0 => .ok .eq
  | 1 => .ok .ne
  | 2 => .ok .lt
  | 3 => .ok .le
  | 4 => .ok .ltu
  | 5 => .ok .leu
  | 6 => .ok .gt
  | 7 => .ok .ge
  | 8 => .ok .gtu
  | 9 => .ok .geu
  | _ => .error .modField

/-- Condition of FCMP (R315): its code. -/
def FCond.code : FCond → Nat
  | .eq => 0
  | .ne => 1
  | .lt => 2
  | .le => 3
  | .gt => 4
  | .ge => 5
  | .uno => 6
  | .ord => 7

/-- Condition of FCMP (R315): a reserved code is refused. -/
def FCond.ofCode : Nat → Except Reject FCond
  | 0 => .ok .eq
  | 1 => .ok .ne
  | 2 => .ok .lt
  | 3 => .ok .le
  | 4 => .ok .gt
  | 5 => .ok .ge
  | 6 => .ok .uno
  | 7 => .ok .ord
  | _ => .error .modField

/-- RND field (R213): its code. -/
def Rnd.code : Rnd → Nat
  | .rne => 0
  | .rz => 1
  | .rd => 2
  | .ru => 3
  | .rs => 4
  | .dyn => 5

/-- RND field (R213): a reserved code is refused. -/
def Rnd.ofCode : Nat → Except Reject Rnd
  | 0 => .ok .rne
  | 1 => .ok .rz
  | 2 => .ok .rd
  | 3 => .ok .ru
  | 4 => .ok .rs
  | 5 => .ok .dyn
  | _ => .error .modField

/-- Element format in a 3-bit FMT field (R116, R213): its code. -/
def Fmt.code : Fmt → Nat
  | .f32 => 0
  | .bf16 => 1
  | .f16 => 2
  | .e4m3 => 3
  | .e5m2 => 4
  | .e2m1 => 5
  | .cb2 => 6
  | .e8m0 => 7

/-- Element format in a 3-bit FMT field (R116, R213): a reserved code is refused. -/
def Fmt.ofCode : Nat → Except Reject Fmt
  | 0 => .ok .f32
  | 1 => .ok .bf16
  | 2 => .ok .f16
  | 3 => .ok .e4m3
  | 4 => .ok .e5m2
  | 5 => .ok .e2m1
  | 6 => .ok .cb2
  | 7 => .ok .e8m0
  | _ => .error .modField

/-- Integer format of FTOI, its code less 8 (R128, R319): its code. -/
def IFmt.code : IFmt → Nat
  | .i32 => 0
  | .i16 => 1
  | .i8 => 2
  | .i4 => 3
  | .u8 => 4

/-- Integer format of FTOI, its code less 8 (R128, R319): a reserved code is refused. -/
def IFmt.ofCode : Nat → Except Reject IFmt
  | 0 => .ok .i32
  | 1 => .ok .i16
  | 2 => .ok .i8
  | 3 => .ok .i4
  | 4 => .ok .u8
  | _ => .error .modField

/-- ROP of LRED and LSCAN (R324): its code. -/
def RedOp.code : RedOp → Nat
  | .fadd => 0
  | .fmax => 1
  | .fmin => 2
  | .add => 3
  | .max => 4
  | .min => 5
  | .and => 6
  | .or => 7

/-- ROP of LRED and LSCAN (R324): a reserved code is refused. -/
def RedOp.ofCode : Nat → Except Reject RedOp
  | 0 => .ok .fadd
  | 1 => .ok .fmax
  | 2 => .ok .fmin
  | 3 => .ok .add
  | 4 => .ok .max
  | 5 => .ok .min
  | 6 => .ok .and
  | 7 => .ok .or
  | _ => .error .modField

/-- MODE of SHUF (R325): its code. -/
def ShufMode.code : ShufMode → Nat
  | .idx => 0
  | .xor => 1
  | .rot => 2

/-- MODE of SHUF (R325): a reserved code is refused. -/
def ShufMode.ofCode : Nat → Except Reject ShufMode
  | 0 => .ok .idx
  | 1 => .ok .xor
  | 2 => .ok .rot
  | _ => .error .modField

/-- FORM of RNG (R337): its code. -/
def RngForm.code : RngForm → Nat
  | .raw => 0
  | .u01 => 1
  | .u01c => 2

/-- FORM of RNG (R337): a reserved code is refused. -/
def RngForm.ofCode : Nat → Except Reject RngForm
  | 0 => .ok .raw
  | 1 => .ok .u01
  | 2 => .ok .u01c
  | _ => .error .modField

/-- SIZE of a global access (R14): its code. -/
def Size.code : Size → Nat
  | .byte => 0
  | .half => 1
  | .word => 2
  | .row => 3

/-- SIZE of a global access (R14): a reserved code is refused. -/
def Size.ofCode : Nat → Except Reject Size
  | 0 => .ok .byte
  | 1 => .ok .half
  | 2 => .ok .word
  | 3 => .ok .row
  | _ => .error .modField

/-- AOP of AMO and AMOSC (R277): its code. -/
def AmoOp.code : AmoOp → Nat
  | .add => 0
  | .and => 1
  | .or => 2
  | .xor => 3
  | .min => 4
  | .max => 5
  | .minu => 6
  | .maxu => 7
  | .swap => 8
  | .swapd => 9
  | .addd => 10

/-- AOP of AMO and AMOSC (R277): a reserved code is refused. -/
def AmoOp.ofCode : Nat → Except Reject AmoOp
  | 0 => .ok .add
  | 1 => .ok .and
  | 2 => .ok .or
  | 3 => .ok .xor
  | 4 => .ok .min
  | 5 => .ok .max
  | 6 => .ok .minu
  | 7 => .ok .maxu
  | 8 => .ok .swap
  | 9 => .ok .swapd
  | 10 => .ok .addd
  | _ => .error .modField

/-- FOP of AMOF (R281): its code. -/
def AmofOp.code : AmofOp → Nat
  | .fadd => 0
  | .fmin => 1
  | .fmax => 2

/-- FOP of AMOF (R281): a reserved code is refused. -/
def AmofOp.ofCode : Nat → Except Reject AmofOp
  | 0 => .ok .fadd
  | 1 => .ok .fmin
  | 2 => .ok .fmax
  | _ => .error .modField

/-- KIND of a hitch operation (R282): its code. -/
def HKind.code : HKind → Nat
  | .s => 0
  | .x => 1
  | .p => 2

/-- KIND of a hitch operation (R282): a reserved code is refused. -/
def HKind.ofCode : Nat → Except Reject HKind
  | 0 => .ok .s
  | 1 => .ok .x
  | 2 => .ok .p
  | _ => .error .modField

/-- ROP of DRED (R304): its code. -/
def DredOp.code : DredOp → Nat
  | .sum => 0
  | .max => 1
  | .min => 2

/-- ROP of DRED (R304): a reserved code is refused. -/
def DredOp.ofCode : Nat → Except Reject DredOp
  | 0 => .ok .sum
  | 1 => .ok .max
  | 2 => .ok .min
  | _ => .error .modField

/-- Format pair of MMA (R344): its code. -/
def Pair.code : Pair → Nat
  | .bf16 => 0
  | .f16 => 1
  | .e4e4 => 2
  | .e4e5 => 3
  | .e5e4 => 4
  | .e5e5 => 5
  | .fp4 => 6
  | .cb2e4 => 7
  | .cb2bf => 8
  | .i8 => 9

/-- Format pair of MMA (R344): a reserved code is refused. -/
def Pair.ofCode : Nat → Except Reject Pair
  | 0 => .ok .bf16
  | 1 => .ok .f16
  | 2 => .ok .e4e4
  | 3 => .ok .e4e5
  | 4 => .ok .e5e4
  | 5 => .ok .e5e5
  | 6 => .ok .fp4
  | 7 => .ok .cb2e4
  | 8 => .ok .cb2bf
  | 9 => .ok .i8
  | _ => .error .modField

/-- Bits [hi:lo] of a word, for `width = hi − lo + 1`. -/
def bits (w lo width : Nat) : Nat := w / 2 ^ lo % 2 ^ width

/-- One bit of a word. -/
def bit (w lo : Nat) : Bool := w / 2 ^ lo % 2 == 1

def boolCode (b : Bool) : Nat := if b then 1 else 0

/-- R209: the S, I and E layouts from their parts. -/
def wordOf (cls op sa sb mod7 t : Nat) : Nat := cls * 2 ^ 30 + op * 2 ^ 24 + sa * 2 ^ 20 + sb * 2 ^ 16 + mod7 * 2 ^ 9 + t

/-- R209: the I layout. -/
def wordOfI (op sa imm t : Nat) : Nat := 2 * 2 ^ 30 + op * 2 ^ 24 + sa * 2 ^ 20 + imm * 2 ^ 9 + t

/-- R209: the P layout. -/
def wordOfP (op mod6 t1 t2 : Nat) : Nat := op * 2 ^ 24 + mod6 * 2 ^ 18 + t1 * 2 ^ 9 + t2

/-- A check of step 1 of R212. -/
def require (c : Bool) (r : Reject) : Except Reject Unit := if c then .ok () else .error r

/-- Fields of FWD (R247). -/
def decodeFwd (w : Nat) : Except Reject Instr := do
  require (bits w 18 6 == 0) .modField
  let x ← Target.ofCode (bits w 9 9)
  let y ← Target.ofCode (bits w 0 9)
  .ok (.fwd x y)

/-- Fields of STEER (R248). -/
def decodeSteer (w : Nat) : Except Reject Instr := do
  require (bits w 18 6 == 0) .modField
  let x ← Target.ofCode (bits w 9 9)
  let y ← Target.ofCode (bits w 0 9)
  .ok (.steer x y)

/-- Fields of STEERC (R249). -/
def decodeSteerc (w : Nat) : Except Reject Instr := do
  require (bits w 18 6 == 0) .modField
  let x ← Target.ofCode (bits w 9 9)
  let y ← Target.ofCode (bits w 0 9)
  .ok (.steerc x y)

/-- Fields of SPLIT (R250). -/
def decodeSplit (w : Nat) : Except Reject Instr := do
  let n := bits w 18 6
  require (decide (n < 33)) .modField
  let x ← Target.ofCode (bits w 9 9)
  let y ← Target.ofCode (bits w 0 9)
  .ok (.split n x y)

/-- Fields of PACK (R251). -/
def decodePack (w : Nat) : Except Reject Instr := do
  require (bits w 23 1 == 0) .modField
  let off := bits w 18 5
  let x ← Target.ofCode (bits w 9 9)
  let y ← Target.ofCode (bits w 0 9)
  .ok (.pack off x y)

/-- Fields of UNPACK (R251). -/
def decodeUnpack (w : Nat) : Except Reject Instr := do
  require (bits w 23 1 == 0) .modField
  let off := bits w 18 5
  let x ← Target.ofCode (bits w 9 9)
  let y ← Target.ofCode (bits w 0 9)
  .ok (.unpack off x y)

/-- Fields of ADD_P (R245). -/
def decodeAddP (w : Nat) : Except Reject Instr := do
  require (bits w 18 6 == 0) .modField
  let x ← Target.ofCode (bits w 9 9)
  let y ← Target.ofCode (bits w 0 9)
  .ok (.addP x y)

/-- Fields of SUB_P (R245). -/
def decodeSubP (w : Nat) : Except Reject Instr := do
  require (bits w 18 6 == 0) .modField
  let x ← Target.ofCode (bits w 9 9)
  let y ← Target.ofCode (bits w 0 9)
  .ok (.subP x y)

/-- Fields of AND_P (R245). -/
def decodeAndP (w : Nat) : Except Reject Instr := do
  require (bits w 18 6 == 0) .modField
  let x ← Target.ofCode (bits w 9 9)
  let y ← Target.ofCode (bits w 0 9)
  .ok (.andP x y)

/-- Fields of OR_P (R245). -/
def decodeOrP (w : Nat) : Except Reject Instr := do
  require (bits w 18 6 == 0) .modField
  let x ← Target.ofCode (bits w 9 9)
  let y ← Target.ofCode (bits w 0 9)
  .ok (.orP x y)

/-- Fields of XOR_P (R245). -/
def decodeXorP (w : Nat) : Except Reject Instr := do
  require (bits w 18 6 == 0) .modField
  let x ← Target.ofCode (bits w 9 9)
  let y ← Target.ofCode (bits w 0 9)
  .ok (.xorP x y)

/-- Fields of SHL_P (R245). -/
def decodeShlP (w : Nat) : Except Reject Instr := do
  require (bits w 18 6 == 0) .modField
  let x ← Target.ofCode (bits w 9 9)
  let y ← Target.ofCode (bits w 0 9)
  .ok (.shlP x y)

/-- Fields of SHR_P (R245). -/
def decodeShrP (w : Nat) : Except Reject Instr := do
  require (bits w 18 6 == 0) .modField
  let x ← Target.ofCode (bits w 9 9)
  let y ← Target.ofCode (bits w 0 9)
  .ok (.shrP x y)

/-- Fields of SRA_P (R245). -/
def decodeSraP (w : Nat) : Except Reject Instr := do
  require (bits w 18 6 == 0) .modField
  let x ← Target.ofCode (bits w 9 9)
  let y ← Target.ofCode (bits w 0 9)
  .ok (.sraP x y)

/-- Fields of MIN_P (R245). -/
def decodeMinP (w : Nat) : Except Reject Instr := do
  require (bits w 18 6 == 0) .modField
  let x ← Target.ofCode (bits w 9 9)
  let y ← Target.ofCode (bits w 0 9)
  .ok (.minP x y)

/-- Fields of MAX_P (R245). -/
def decodeMaxP (w : Nat) : Except Reject Instr := do
  require (bits w 18 6 == 0) .modField
  let x ← Target.ofCode (bits w 9 9)
  let y ← Target.ofCode (bits w 0 9)
  .ok (.maxP x y)

/-- Fields of CMP_P (R245). -/
def decodeCmpP (w : Nat) : Except Reject Instr := do
  require (bits w 18 2 == 0) .modField
  let c ← Cond.ofCode (bits w 20 4)
  let x ← Target.ofCode (bits w 9 9)
  let y ← Target.ofCode (bits w 0 9)
  .ok (.cmpP c x y)

/-- Fields of FADD_P (R312). -/
def decodeFaddP (w : Nat) : Except Reject Instr := do
  require (bits w 21 3 == 0) .modField
  let r ← Rnd.ofCode (bits w 18 3)
  let x ← Target.ofCode (bits w 9 9)
  let y ← Target.ofCode (bits w 0 9)
  .ok (.faddP r x y)

/-- Fields of FSUB_P (R312). -/
def decodeFsubP (w : Nat) : Except Reject Instr := do
  require (bits w 21 3 == 0) .modField
  let r ← Rnd.ofCode (bits w 18 3)
  let x ← Target.ofCode (bits w 9 9)
  let y ← Target.ofCode (bits w 0 9)
  .ok (.fsubP r x y)

/-- Fields of FMUL_P (R312). -/
def decodeFmulP (w : Nat) : Except Reject Instr := do
  require (bits w 21 3 == 0) .modField
  let r ← Rnd.ofCode (bits w 18 3)
  let x ← Target.ofCode (bits w 9 9)
  let y ← Target.ofCode (bits w 0 9)
  .ok (.fmulP r x y)

/-- Fields of FMIN_P (R312). -/
def decodeFminP (w : Nat) : Except Reject Instr := do
  require (bits w 18 6 == 0) .modField
  let x ← Target.ofCode (bits w 9 9)
  let y ← Target.ofCode (bits w 0 9)
  .ok (.fminP x y)

/-- Fields of FMAX_P (R312). -/
def decodeFmaxP (w : Nat) : Except Reject Instr := do
  require (bits w 18 6 == 0) .modField
  let x ← Target.ofCode (bits w 9 9)
  let y ← Target.ofCode (bits w 0 9)
  .ok (.fmaxP x y)

/-- Fields of FCMP_P (R312). -/
def decodeFcmpP (w : Nat) : Except Reject Instr := do
  require (bits w 21 3 == 0) .modField
  let c ← FCond.ofCode (bits w 18 3)
  let x ← Target.ofCode (bits w 9 9)
  let y ← Target.ofCode (bits w 0 9)
  .ok (.fcmpP c x y)

/-- Fields of ADD (R239). -/
def decodeAdd (w : Nat) : Except Reject Instr := do
  require (bits w 9 7 == 0) .modField
  let a := Src.ofCode (bits w 20 4)
  let b := Src.ofCode (bits w 16 4)
  let t ← Target.ofCode (bits w 0 9)
  .ok (.add a b t)

/-- Fields of SUB (R239). -/
def decodeSub (w : Nat) : Except Reject Instr := do
  require (bits w 9 7 == 0) .modField
  let a := Src.ofCode (bits w 20 4)
  let b := Src.ofCode (bits w 16 4)
  let t ← Target.ofCode (bits w 0 9)
  .ok (.sub a b t)

/-- Fields of MUL (R239). -/
def decodeMul (w : Nat) : Except Reject Instr := do
  require (bits w 9 7 == 0) .modField
  let a := Src.ofCode (bits w 20 4)
  let b := Src.ofCode (bits w 16 4)
  let t ← Target.ofCode (bits w 0 9)
  .ok (.mul a b t)

/-- Fields of MULH (R239). -/
def decodeMulh (w : Nat) : Except Reject Instr := do
  require (bits w 9 7 == 0) .modField
  let a := Src.ofCode (bits w 20 4)
  let b := Src.ofCode (bits w 16 4)
  let t ← Target.ofCode (bits w 0 9)
  .ok (.mulh a b t)

/-- Fields of MULHU (R239). -/
def decodeMulhu (w : Nat) : Except Reject Instr := do
  require (bits w 9 7 == 0) .modField
  let a := Src.ofCode (bits w 20 4)
  let b := Src.ofCode (bits w 16 4)
  let t ← Target.ofCode (bits w 0 9)
  .ok (.mulhu a b t)

/-- Fields of DIV (R239). -/
def decodeDiv (w : Nat) : Except Reject Instr := do
  require (bits w 9 7 == 0) .modField
  let a := Src.ofCode (bits w 20 4)
  let b := Src.ofCode (bits w 16 4)
  let t ← Target.ofCode (bits w 0 9)
  .ok (.div a b t)

/-- Fields of DIVU (R239). -/
def decodeDivu (w : Nat) : Except Reject Instr := do
  require (bits w 9 7 == 0) .modField
  let a := Src.ofCode (bits w 20 4)
  let b := Src.ofCode (bits w 16 4)
  let t ← Target.ofCode (bits w 0 9)
  .ok (.divu a b t)

/-- Fields of REM (R239). -/
def decodeRem (w : Nat) : Except Reject Instr := do
  require (bits w 9 7 == 0) .modField
  let a := Src.ofCode (bits w 20 4)
  let b := Src.ofCode (bits w 16 4)
  let t ← Target.ofCode (bits w 0 9)
  .ok (.rem a b t)

/-- Fields of REMU (R239). -/
def decodeRemu (w : Nat) : Except Reject Instr := do
  require (bits w 9 7 == 0) .modField
  let a := Src.ofCode (bits w 20 4)
  let b := Src.ofCode (bits w 16 4)
  let t ← Target.ofCode (bits w 0 9)
  .ok (.remu a b t)

/-- Fields of AND (R239). -/
def decodeAnd (w : Nat) : Except Reject Instr := do
  require (bits w 9 7 == 0) .modField
  let a := Src.ofCode (bits w 20 4)
  let b := Src.ofCode (bits w 16 4)
  let t ← Target.ofCode (bits w 0 9)
  .ok (.and a b t)

/-- Fields of OR (R239). -/
def decodeOr (w : Nat) : Except Reject Instr := do
  require (bits w 9 7 == 0) .modField
  let a := Src.ofCode (bits w 20 4)
  let b := Src.ofCode (bits w 16 4)
  let t ← Target.ofCode (bits w 0 9)
  .ok (.or a b t)

/-- Fields of XOR (R239). -/
def decodeXor (w : Nat) : Except Reject Instr := do
  require (bits w 9 7 == 0) .modField
  let a := Src.ofCode (bits w 20 4)
  let b := Src.ofCode (bits w 16 4)
  let t ← Target.ofCode (bits w 0 9)
  .ok (.xor a b t)

/-- Fields of ANDN (R239). -/
def decodeAndn (w : Nat) : Except Reject Instr := do
  require (bits w 9 7 == 0) .modField
  let a := Src.ofCode (bits w 20 4)
  let b := Src.ofCode (bits w 16 4)
  let t ← Target.ofCode (bits w 0 9)
  .ok (.andn a b t)

/-- Fields of SHL (R239). -/
def decodeShl (w : Nat) : Except Reject Instr := do
  require (bits w 9 7 == 0) .modField
  let a := Src.ofCode (bits w 20 4)
  let b := Src.ofCode (bits w 16 4)
  let t ← Target.ofCode (bits w 0 9)
  .ok (.shl a b t)

/-- Fields of SHR (R239). -/
def decodeShr (w : Nat) : Except Reject Instr := do
  require (bits w 9 7 == 0) .modField
  let a := Src.ofCode (bits w 20 4)
  let b := Src.ofCode (bits w 16 4)
  let t ← Target.ofCode (bits w 0 9)
  .ok (.shr a b t)

/-- Fields of SRA (R239). -/
def decodeSra (w : Nat) : Except Reject Instr := do
  require (bits w 9 7 == 0) .modField
  let a := Src.ofCode (bits w 20 4)
  let b := Src.ofCode (bits w 16 4)
  let t ← Target.ofCode (bits w 0 9)
  .ok (.sra a b t)

/-- Fields of ROT (R239). -/
def decodeRot (w : Nat) : Except Reject Instr := do
  require (bits w 9 7 == 0) .modField
  let a := Src.ofCode (bits w 20 4)
  let b := Src.ofCode (bits w 16 4)
  let t ← Target.ofCode (bits w 0 9)
  .ok (.rot a b t)

/-- Fields of MIN (R239). -/
def decodeMin (w : Nat) : Except Reject Instr := do
  require (bits w 9 7 == 0) .modField
  let a := Src.ofCode (bits w 20 4)
  let b := Src.ofCode (bits w 16 4)
  let t ← Target.ofCode (bits w 0 9)
  .ok (.min a b t)

/-- Fields of MAX (R239). -/
def decodeMax (w : Nat) : Except Reject Instr := do
  require (bits w 9 7 == 0) .modField
  let a := Src.ofCode (bits w 20 4)
  let b := Src.ofCode (bits w 16 4)
  let t ← Target.ofCode (bits w 0 9)
  .ok (.max a b t)

/-- Fields of MINU (R239). -/
def decodeMinu (w : Nat) : Except Reject Instr := do
  require (bits w 9 7 == 0) .modField
  let a := Src.ofCode (bits w 20 4)
  let b := Src.ofCode (bits w 16 4)
  let t ← Target.ofCode (bits w 0 9)
  .ok (.minu a b t)

/-- Fields of MAXU (R239). -/
def decodeMaxu (w : Nat) : Except Reject Instr := do
  require (bits w 9 7 == 0) .modField
  let a := Src.ofCode (bits w 20 4)
  let b := Src.ofCode (bits w 16 4)
  let t ← Target.ofCode (bits w 0 9)
  .ok (.maxu a b t)

/-- Fields of ABS (R239). -/
def decodeAbs (w : Nat) : Except Reject Instr := do
  require (bits w 16 4 == 13) .source
  require (bits w 9 7 == 0) .modField
  let a := Src.ofCode (bits w 20 4)
  let t ← Target.ofCode (bits w 0 9)
  .ok (.abs a t)

/-- Fields of CLZ (R240). -/
def decodeClz (w : Nat) : Except Reject Instr := do
  require (bits w 16 4 == 13) .source
  require (bits w 9 7 == 0) .modField
  let a := Src.ofCode (bits w 20 4)
  let t ← Target.ofCode (bits w 0 9)
  .ok (.clz a t)

/-- Fields of CTZ (R240). -/
def decodeCtz (w : Nat) : Except Reject Instr := do
  require (bits w 16 4 == 13) .source
  require (bits w 9 7 == 32) .modField
  let a := Src.ofCode (bits w 20 4)
  let t ← Target.ofCode (bits w 0 9)
  .ok (.ctz a t)

/-- Fields of POPC (R240). -/
def decodePopc (w : Nat) : Except Reject Instr := do
  require (bits w 16 4 == 13) .source
  require (bits w 9 7 == 64) .modField
  let a := Src.ofCode (bits w 20 4)
  let t ← Target.ofCode (bits w 0 9)
  .ok (.popc a t)

/-- Fields of BREV (R240). -/
def decodeBrev (w : Nat) : Except Reject Instr := do
  require (bits w 16 4 == 13) .source
  require (bits w 9 7 == 96) .modField
  let a := Src.ofCode (bits w 20 4)
  let t ← Target.ofCode (bits w 0 9)
  .ok (.brev a t)

/-- The subforms of one opcode, by bits [15:14]. -/
def decodeGroupS16 (w : Nat) : Except Reject Instr :=
  match bits w 14 2 with
  | 0 => decodeClz w
  | 1 => decodeCtz w
  | 2 => decodePopc w
  | 3 => decodeBrev w
  | _ => .error .modField

/-- Fields of SXB (R241). -/
def decodeSxb (w : Nat) : Except Reject Instr := do
  require (bits w 16 4 == 13) .source
  require (bits w 9 7 == 64) .modField
  let a := Src.ofCode (bits w 20 4)
  let t ← Target.ofCode (bits w 0 9)
  .ok (.sxb a t)

/-- Fields of SXH (R241). -/
def decodeSxh (w : Nat) : Except Reject Instr := do
  require (bits w 16 4 == 13) .source
  require (bits w 9 7 == 80) .modField
  let a := Src.ofCode (bits w 20 4)
  let t ← Target.ofCode (bits w 0 9)
  .ok (.sxh a t)

/-- Fields of SX4 (R241). -/
def decodeSx4 (w : Nat) : Except Reject Instr := do
  require (bits w 16 4 == 13) .source
  require (bits w 9 7 == 96) .modField
  let a := Src.ofCode (bits w 20 4)
  let t ← Target.ofCode (bits w 0 9)
  .ok (.sx4 a t)

/-- Fields of ZXB (R241). -/
def decodeZxb (w : Nat) : Except Reject Instr := do
  require (bits w 16 4 == 13) .source
  require (bits w 9 7 == 0) .modField
  let a := Src.ofCode (bits w 20 4)
  let t ← Target.ofCode (bits w 0 9)
  .ok (.zxb a t)

/-- Fields of ZXH (R241). -/
def decodeZxh (w : Nat) : Except Reject Instr := do
  require (bits w 16 4 == 13) .source
  require (bits w 9 7 == 16) .modField
  let a := Src.ofCode (bits w 20 4)
  let t ← Target.ofCode (bits w 0 9)
  .ok (.zxh a t)

/-- Fields of ZX4 (R241). -/
def decodeZx4 (w : Nat) : Except Reject Instr := do
  require (bits w 16 4 == 13) .source
  require (bits w 9 7 == 32) .modField
  let a := Src.ofCode (bits w 20 4)
  let t ← Target.ofCode (bits w 0 9)
  .ok (.zx4 a t)

/-- The subforms of one opcode, by bits [15:13]. -/
def decodeGroupS17 (w : Nat) : Except Reject Instr :=
  match bits w 13 3 with
  | 0 => decodeZxb w
  | 1 => decodeZxh w
  | 2 => decodeZx4 w
  | 4 => decodeSxb w
  | 5 => decodeSxh w
  | 6 => decodeSx4 w
  | _ => .error .modField

/-- Fields of BFX (R242). -/
def decodeBfx (w : Nat) : Except Reject Instr := do
  require (bits w 9 6 == 0) .modField
  let a := Src.ofCode (bits w 20 4)
  let b := Src.ofCode (bits w 16 4)
  let sx := bit w 15
  let t ← Target.ofCode (bits w 0 9)
  .ok (.bfx a b sx t)

/-- Fields of BFI (R242). -/
def decodeBfi (w : Nat) : Except Reject Instr := do
  require (bits w 13 3 == 0) .modField
  require (bits w 9 1 == 0) .modField
  let a := Src.ofCode (bits w 20 4)
  let b := Src.ofCode (bits w 16 4)
  let c := bits w 10 3
  let t ← Target.ofCode (bits w 0 9)
  .ok (.bfi a b c t)

/-- Fields of CMP (R239). -/
def decodeCmp (w : Nat) : Except Reject Instr := do
  require (bits w 9 3 == 0) .modField
  let a := Src.ofCode (bits w 20 4)
  let b := Src.ofCode (bits w 16 4)
  let c ← Cond.ofCode (bits w 12 4)
  let t ← Target.ofCode (bits w 0 9)
  .ok (.cmp a b c t)

/-- Fields of SEL (R243). -/
def decodeSel (w : Nat) : Except Reject Instr := do
  require (bits w 13 3 == 0) .modField
  require (bits w 9 1 == 0) .modField
  let a := Src.ofCode (bits w 20 4)
  let b := Src.ofCode (bits w 16 4)
  let c := bits w 10 3
  let t ← Target.ofCode (bits w 0 9)
  .ok (.sel a b c t)

/-- Fields of LEA (R243). -/
def decodeLea (w : Nat) : Except Reject Instr := do
  require (bits w 11 5 == 0) .modField
  let a := Src.ofCode (bits w 20 4)
  let b := Src.ofCode (bits w 16 4)
  let s := bits w 9 2
  let t ← Target.ofCode (bits w 0 9)
  .ok (.lea a b s t)

/-- Fields of SWITCH_POL (R253). -/
def decodeSwitchPol (w : Nat) : Except Reject Instr := do
  require (bits w 16 4 == 13) .source
  require (bits w 15 1 == 0) .modField
  require (bits w 9 2 == 0) .modField
  let a := Src.ofCode (bits w 20 4)
  let n := bits w 11 4
  let t ← Target.ofCode (bits w 0 9)
  .ok (.switchPol a n t)

/-- Fields of SWITCH_LANE (R253). -/
def decodeSwitchLane (w : Nat) : Except Reject Instr := do
  require (bits w 15 1 == 1) .modField
  require (bits w 9 2 == 0) .modField
  let a := Src.ofCode (bits w 20 4)
  let b := Src.ofCode (bits w 16 4)
  let n := bits w 11 4
  let t ← Target.ofCode (bits w 0 9)
  .ok (.switchLane a b n t)

/-- The subforms of one opcode, by bits [15:15]. -/
def decodeGroupS1D (w : Nat) : Except Reject Instr :=
  match bits w 15 1 with
  | 1 => decodeSwitchLane w
  | 0 => decodeSwitchPol w
  | _ => .error .modField

/-- Fields of LAFF (R244). -/
def decodeLaff (w : Nat) : Except Reject Instr := do
  require (bits w 9 7 == 0) .modField
  let a := Src.ofCode (bits w 20 4)
  let b := Src.ofCode (bits w 16 4)
  let t ← Target.ofCode (bits w 0 9)
  .ok (.laff a b t)

/-- Fields of LXOR (R244). -/
def decodeLxor (w : Nat) : Except Reject Instr := do
  require (bits w 16 4 == 13) .source
  require (bits w 9 7 == 16) .modField
  let a := Src.ofCode (bits w 20 4)
  let t ← Target.ofCode (bits w 0 9)
  .ok (.lxor a t)

/-- Fields of LVCNT (R244). -/
def decodeLvcnt (w : Nat) : Except Reject Instr := do
  require (bits w 16 4 == 13) .source
  require (bits w 9 7 == 32) .modField
  let a := Src.ofCode (bits w 20 4)
  let t ← Target.ofCode (bits w 0 9)
  .ok (.lvcnt a t)

/-- Fields of LVFST (R244). -/
def decodeLvfst (w : Nat) : Except Reject Instr := do
  require (bits w 16 4 == 13) .source
  require (bits w 9 7 == 48) .modField
  let a := Src.ofCode (bits w 20 4)
  let t ← Target.ofCode (bits w 0 9)
  .ok (.lvfst a t)

/-- The subforms of one opcode, by bits [14:13]. -/
def decodeGroupS1E (w : Nat) : Except Reject Instr :=
  match bits w 13 2 with
  | 0 => decodeLaff w
  | 1 => decodeLxor w
  | 2 => decodeLvcnt w
  | 3 => decodeLvfst w
  | _ => .error .modField

/-- Fields of FADD (R311). -/
def decodeFadd (w : Nat) : Except Reject Instr := do
  let a := Src.ofCode (bits w 20 4)
  let b := Src.ofCode (bits w 16 4)
  let f ← Fmt.ofCode (bits w 13 3)
  require (fmtIn f [.f32, .bf16, .f16]) .modField
  let r ← Rnd.ofCode (bits w 10 3)
  let sat := bit w 9
  let t ← Target.ofCode (bits w 0 9)
  .ok (.fadd a b f r sat t)

/-- Fields of FSUB (R311). -/
def decodeFsub (w : Nat) : Except Reject Instr := do
  let a := Src.ofCode (bits w 20 4)
  let b := Src.ofCode (bits w 16 4)
  let f ← Fmt.ofCode (bits w 13 3)
  require (fmtIn f [.f32, .bf16, .f16]) .modField
  let r ← Rnd.ofCode (bits w 10 3)
  let sat := bit w 9
  let t ← Target.ofCode (bits w 0 9)
  .ok (.fsub a b f r sat t)

/-- Fields of FMUL (R311). -/
def decodeFmul (w : Nat) : Except Reject Instr := do
  let a := Src.ofCode (bits w 20 4)
  let b := Src.ofCode (bits w 16 4)
  let f ← Fmt.ofCode (bits w 13 3)
  require (fmtIn f [.f32, .bf16, .f16]) .modField
  let r ← Rnd.ofCode (bits w 10 3)
  let sat := bit w 9
  let t ← Target.ofCode (bits w 0 9)
  .ok (.fmul a b f r sat t)

/-- Fields of FFMA (R311). -/
def decodeFfma (w : Nat) : Except Reject Instr := do
  let a := Src.ofCode (bits w 20 4)
  let b := Src.ofCode (bits w 16 4)
  let r ← Rnd.ofCode (bits w 13 3)
  let c := bits w 10 3
  let sat := bit w 9
  let t ← Target.ofCode (bits w 0 9)
  .ok (.ffma a b r c sat t)

/-- Fields of FMIN (R313). -/
def decodeFmin (w : Nat) : Except Reject Instr := do
  require (bits w 9 7 == 0) .modField
  let a := Src.ofCode (bits w 20 4)
  let b := Src.ofCode (bits w 16 4)
  let t ← Target.ofCode (bits w 0 9)
  .ok (.fmin a b t)

/-- Fields of FMAX (R313). -/
def decodeFmax (w : Nat) : Except Reject Instr := do
  require (bits w 9 7 == 0) .modField
  let a := Src.ofCode (bits w 20 4)
  let b := Src.ofCode (bits w 16 4)
  let t ← Target.ofCode (bits w 0 9)
  .ok (.fmax a b t)

/-- Fields of FABS (R314). -/
def decodeFabs (w : Nat) : Except Reject Instr := do
  require (bits w 16 4 == 13) .source
  require (bits w 9 4 == 0) .modField
  let a := Src.ofCode (bits w 20 4)
  let f ← Fmt.ofCode (bits w 13 3)
  require (fmtIn f [.f32, .bf16, .f16]) .modField
  let t ← Target.ofCode (bits w 0 9)
  .ok (.fabs a f t)

/-- Fields of FNEG (R314). -/
def decodeFneg (w : Nat) : Except Reject Instr := do
  require (bits w 16 4 == 13) .source
  require (bits w 9 4 == 2) .modField
  let a := Src.ofCode (bits w 20 4)
  let f ← Fmt.ofCode (bits w 13 3)
  require (fmtIn f [.f32, .bf16, .f16]) .modField
  let t ← Target.ofCode (bits w 0 9)
  .ok (.fneg a f t)

/-- Fields of FCPYS (R314). -/
def decodeFcpys (w : Nat) : Except Reject Instr := do
  require (bits w 9 4 == 4) .modField
  let a := Src.ofCode (bits w 20 4)
  let b := Src.ofCode (bits w 16 4)
  let f ← Fmt.ofCode (bits w 13 3)
  require (fmtIn f [.f32, .bf16, .f16]) .modField
  let t ← Target.ofCode (bits w 0 9)
  .ok (.fcpys a b f t)

/-- Fields of FCPYN (R314). -/
def decodeFcpyn (w : Nat) : Except Reject Instr := do
  require (bits w 9 4 == 6) .modField
  let a := Src.ofCode (bits w 20 4)
  let b := Src.ofCode (bits w 16 4)
  let f ← Fmt.ofCode (bits w 13 3)
  require (fmtIn f [.f32, .bf16, .f16]) .modField
  let t ← Target.ofCode (bits w 0 9)
  .ok (.fcpyn a b f t)

/-- Fields of FXSGN (R314). -/
def decodeFxsgn (w : Nat) : Except Reject Instr := do
  require (bits w 9 4 == 8) .modField
  let a := Src.ofCode (bits w 20 4)
  let b := Src.ofCode (bits w 16 4)
  let f ← Fmt.ofCode (bits w 13 3)
  require (fmtIn f [.f32, .bf16, .f16]) .modField
  let t ← Target.ofCode (bits w 0 9)
  .ok (.fxsgn a b f t)

/-- The subforms of one opcode, by bits [12:10]. -/
def decodeGroupS26 (w : Nat) : Except Reject Instr :=
  match bits w 10 3 with
  | 2 => decodeFcpys w
  | 3 => decodeFcpyn w
  | 4 => decodeFxsgn w
  | 0 => decodeFabs w
  | 1 => decodeFneg w
  | _ => .error .modField

/-- Fields of FCMP (R315). -/
def decodeFcmp (w : Nat) : Except Reject Instr := do
  require (bits w 9 1 == 0) .modField
  let a := Src.ofCode (bits w 20 4)
  let b := Src.ofCode (bits w 16 4)
  let f ← Fmt.ofCode (bits w 13 3)
  require (fmtIn f [.f32, .bf16, .f16]) .modField
  let c ← FCond.ofCode (bits w 10 3)
  let t ← Target.ofCode (bits w 0 9)
  .ok (.fcmp a b f c t)

/-- Fields of FCLASS (R316). -/
def decodeFclass (w : Nat) : Except Reject Instr := do
  require (bits w 16 4 == 13) .source
  require (bits w 9 4 == 0) .modField
  let a := Src.ofCode (bits w 20 4)
  let f ← Fmt.ofCode (bits w 13 3)
  require (fmtIn f [.f32, .bf16, .f16, .e4m3, .e5m2, .e2m1]) .modField
  let t ← Target.ofCode (bits w 0 9)
  .ok (.fclass a f t)

/-- Fields of FCVT (R317). -/
def decodeFcvt (w : Nat) : Except Reject Instr := do
  let a := Src.ofCode (bits w 20 4)
  let b := Src.ofCode (bits w 16 4)
  let f ← Fmt.ofCode (bits w 13 3)
  require (fmtIn f [.bf16, .f16, .e4m3, .e5m2, .e2m1, .e8m0]) .modField
  let r ← Rnd.ofCode (bits w 10 3)
  let sat := bit w 9
  let t ← Target.ofCode (bits w 0 9)
  .ok (.fcvt a b f r sat t)

/-- Fields of FRND (R318). -/
def decodeFrnd (w : Nat) : Except Reject Instr := do
  require (bits w 16 4 == 13) .source
  require (bits w 13 3 == 0) .modField
  require (bits w 9 1 == 0) .modField
  let a := Src.ofCode (bits w 20 4)
  let r ← Rnd.ofCode (bits w 10 3)
  let t ← Target.ofCode (bits w 0 9)
  .ok (.frnd a r t)

/-- Fields of FTOI (R319). -/
def decodeFtoi (w : Nat) : Except Reject Instr := do
  require (bits w 16 4 == 13) .source
  let a := Src.ofCode (bits w 20 4)
  let f ← IFmt.ofCode (bits w 13 3)
  let r ← Rnd.ofCode (bits w 10 3)
  let sat := bit w 9
  let t ← Target.ofCode (bits w 0 9)
  .ok (.ftoi a f r sat t)

/-- Fields of ITOF (R320). -/
def decodeItof (w : Nat) : Except Reject Instr := do
  require (bits w 16 4 == 13) .source
  let a := Src.ofCode (bits w 20 4)
  let f ← Fmt.ofCode (bits w 13 3)
  require (fmtIn f [.f32, .bf16, .f16]) .modField
  let r ← Rnd.ofCode (bits w 10 3)
  let sat := bit w 9
  let t ← Target.ofCode (bits w 0 9)
  .ok (.itof a f r sat t)

/-- Fields of HADD2 (R321). -/
def decodeHadd2 (w : Nat) : Except Reject Instr := do
  let a := Src.ofCode (bits w 20 4)
  let b := Src.ofCode (bits w 16 4)
  let f ← Fmt.ofCode (bits w 13 3)
  require (fmtIn f [.bf16, .f16]) .modField
  let r ← Rnd.ofCode (bits w 10 3)
  let sat := bit w 9
  let t ← Target.ofCode (bits w 0 9)
  .ok (.hadd2 a b f r sat t)

/-- Fields of HMUL2 (R321). -/
def decodeHmul2 (w : Nat) : Except Reject Instr := do
  let a := Src.ofCode (bits w 20 4)
  let b := Src.ofCode (bits w 16 4)
  let f ← Fmt.ofCode (bits w 13 3)
  require (fmtIn f [.bf16, .f16]) .modField
  let r ← Rnd.ofCode (bits w 10 3)
  let sat := bit w 9
  let t ← Target.ofCode (bits w 0 9)
  .ok (.hmul2 a b f r sat t)

/-- Fields of HFMA2 (R321). -/
def decodeHfma2 (w : Nat) : Except Reject Instr := do
  let a := Src.ofCode (bits w 20 4)
  let b := Src.ofCode (bits w 16 4)
  let r ← Rnd.ofCode (bits w 13 3)
  let c := bits w 10 3
  let sat := bit w 9
  let t ← Target.ofCode (bits w 0 9)
  .ok (.hfma2 a b r c sat t)

/-- Fields of EX2 (R322). -/
def decodeEx2 (w : Nat) : Except Reject Instr := do
  require (bits w 16 4 == 13) .source
  require (bits w 9 7 == 0) .modField
  let a := Src.ofCode (bits w 20 4)
  let t ← Target.ofCode (bits w 0 9)
  .ok (.ex2 a t)

/-- Fields of LG2 (R322). -/
def decodeLg2 (w : Nat) : Except Reject Instr := do
  require (bits w 16 4 == 13) .source
  require (bits w 9 7 == 16) .modField
  let a := Src.ofCode (bits w 20 4)
  let t ← Target.ofCode (bits w 0 9)
  .ok (.lg2 a t)

/-- Fields of RCP (R322). -/
def decodeRcp (w : Nat) : Except Reject Instr := do
  require (bits w 16 4 == 13) .source
  require (bits w 9 7 == 32) .modField
  let a := Src.ofCode (bits w 20 4)
  let t ← Target.ofCode (bits w 0 9)
  .ok (.rcp a t)

/-- Fields of RSQ (R322). -/
def decodeRsq (w : Nat) : Except Reject Instr := do
  require (bits w 16 4 == 13) .source
  require (bits w 9 7 == 48) .modField
  let a := Src.ofCode (bits w 20 4)
  let t ← Target.ofCode (bits w 0 9)
  .ok (.rsq a t)

/-- Fields of SQRT (R322). -/
def decodeSqrt (w : Nat) : Except Reject Instr := do
  require (bits w 16 4 == 13) .source
  require (bits w 9 7 == 64) .modField
  let a := Src.ofCode (bits w 20 4)
  let t ← Target.ofCode (bits w 0 9)
  .ok (.sqrt a t)

/-- Fields of SIN (R322). -/
def decodeSin (w : Nat) : Except Reject Instr := do
  require (bits w 16 4 == 13) .source
  require (bits w 9 7 == 80) .modField
  let a := Src.ofCode (bits w 20 4)
  let t ← Target.ofCode (bits w 0 9)
  .ok (.sin a t)

/-- Fields of COS (R322). -/
def decodeCos (w : Nat) : Except Reject Instr := do
  require (bits w 16 4 == 13) .source
  require (bits w 9 7 == 96) .modField
  let a := Src.ofCode (bits w 20 4)
  let t ← Target.ofCode (bits w 0 9)
  .ok (.cos a t)

/-- Fields of TANH (R322). -/
def decodeTanh (w : Nat) : Except Reject Instr := do
  require (bits w 16 4 == 13) .source
  require (bits w 9 7 == 112) .modField
  let a := Src.ofCode (bits w 20 4)
  let t ← Target.ofCode (bits w 0 9)
  .ok (.tanh a t)

/-- The subforms of one opcode, by bits [15:13]. -/
def decodeGroupS30 (w : Nat) : Except Reject Instr :=
  match bits w 13 3 with
  | 0 => decodeEx2 w
  | 1 => decodeLg2 w
  | 2 => decodeRcp w
  | 3 => decodeRsq w
  | 4 => decodeSqrt w
  | 5 => decodeSin w
  | 6 => decodeCos w
  | 7 => decodeTanh w
  | _ => .error .modField

/-- Fields of FDIV (R311). -/
def decodeFdiv (w : Nat) : Except Reject Instr := do
  let a := Src.ofCode (bits w 20 4)
  let b := Src.ofCode (bits w 16 4)
  let f ← Fmt.ofCode (bits w 13 3)
  require (fmtIn f [.f32, .bf16, .f16]) .modField
  let r ← Rnd.ofCode (bits w 10 3)
  let sat := bit w 9
  let t ← Target.ofCode (bits w 0 9)
  .ok (.fdiv a b f r sat t)

/-- Fields of LRED (R324). -/
def decodeLred (w : Nat) : Except Reject Instr := do
  require (bits w 16 4 == 13) .source
  require (bits w 9 4 == 0) .modField
  let a := Src.ofCode (bits w 20 4)
  let o ← RedOp.ofCode (bits w 13 3)
  let t ← Target.ofCode (bits w 0 9)
  .ok (.lred a o t)

/-- Fields of LSCAN (R324). -/
def decodeLscan (w : Nat) : Except Reject Instr := do
  require (bits w 16 4 == 13) .source
  require (bits w 9 4 == 0) .modField
  let a := Src.ofCode (bits w 20 4)
  let o ← RedOp.ofCode (bits w 13 3)
  let t ← Target.ofCode (bits w 0 9)
  .ok (.lscan a o t)

/-- Fields of SHUF (R325). -/
def decodeShuf (w : Nat) : Except Reject Instr := do
  require (bits w 9 5 == 0) .modField
  let a := Src.ofCode (bits w 20 4)
  let b := Src.ofCode (bits w 16 4)
  let m ← ShufMode.ofCode (bits w 14 2)
  let t ← Target.ofCode (bits w 0 9)
  .ok (.shuf a b m t)

/-- Fields of LBC (R326). -/
def decodeLbc (w : Nat) : Except Reject Instr := do
  require (bits w 9 7 == 0) .modField
  let a := Src.ofCode (bits w 20 4)
  let b := Src.ofCode (bits w 16 4)
  let t ← Target.ofCode (bits w 0 9)
  .ok (.lbc a b t)

/-- Fields of VDOT (R327). -/
def decodeVdot (w : Nat) : Except Reject Instr := do
  require (bits w 9 4 == 0) .modField
  let a := Src.ofCode (bits w 20 4)
  let b := Src.ofCode (bits w 16 4)
  let f ← Fmt.ofCode (bits w 13 3)
  require (fmtIn f [.f32, .bf16, .f16, .e4m3, .e5m2]) .modField
  let t ← Target.ofCode (bits w 0 9)
  .ok (.vdot a b f t)

/-- Fields of TACC (R328). -/
def decodeTacc (w : Nat) : Except Reject Instr := do
  require (bits w 9 7 == 0) .modField
  let a := Src.ofCode (bits w 20 4)
  let b := Src.ofCode (bits w 16 4)
  let t ← Target.ofCode (bits w 0 9)
  .ok (.tacc a b t)

/-- Fields of CBDEC (R330). -/
def decodeCbdec (w : Nat) : Except Reject Instr := do
  require (bits w 16 4 == 13) .source
  let a := Src.ofCode (bits w 20 4)
  let f ← Fmt.ofCode (bits w 13 3)
  require (fmtIn f [.f32, .bf16]) .modField
  let entry := bits w 10 3
  let hi := bit w 9
  require (f == .f32 || decide (entry < 4)) .modField
  let t ← Target.ofCode (bits w 0 9)
  .ok (.cbdec a f entry hi t)

/-- Fields of LTLD (R331). -/
def decodeLtld (w : Nat) : Except Reject Instr := do
  require (bits w 9 7 == 0) .modField
  require (bits w 0 9 == 264) .target
  let a := Src.ofCode (bits w 20 4)
  let b := Src.ofCode (bits w 16 4)
  .ok (.ltld a b)

/-- Fields of SCACC (R333). -/
def decodeScacc (w : Nat) : Except Reject Instr := do
  let a := Src.ofCode (bits w 20 4)
  let b := Src.ofCode (bits w 16 4)
  let bf ← Fmt.ofCode (bits w 13 3)
  require (fmtIn bf [.e4m3, .e5m2, .e8m0]) .modField
  let c := bits w 10 3
  let tbf16 := bit w 9
  let t ← Target.ofCode (bits w 0 9)
  .ok (.scacc a b bf c tbf16 t)

/-- Fields of SCMUL (R332). -/
def decodeScmul (w : Nat) : Except Reject Instr := do
  require (bits w 9 4 == 0) .modField
  let a := Src.ofCode (bits w 20 4)
  let b := Src.ofCode (bits w 16 4)
  let f ← Fmt.ofCode (bits w 13 3)
  require (fmtIn f [.f32, .bf16, .e4m3, .e5m2, .e8m0]) .modField
  let t ← Target.ofCode (bits w 0 9)
  .ok (.scmul a b f t)

/-- Fields of AMAX (R334). -/
def decodeAmax (w : Nat) : Except Reject Instr := do
  require (bits w 16 4 == 13) .source
  require (bits w 9 3 == 0) .modField
  let a := Src.ofCode (bits w 20 4)
  let n := bits w 12 4
  let t ← Target.ofCode (bits w 0 9)
  .ok (.amax a n t)

/-- Fields of RNG (R337). -/
def decodeRng (w : Nat) : Except Reject Instr := do
  require (bits w 9 3 == 0) .modField
  let a := Src.ofCode (bits w 20 4)
  let b := Src.ofCode (bits w 16 4)
  let sel := bits w 14 2
  let f ← RngForm.ofCode (bits w 12 2)
  let t ← Target.ofCode (bits w 0 9)
  .ok (.rng a b sel f t)

/-- Fields of LI (R246). -/
def decodeLi (w : Nat) : Except Reject Instr := do
  require (bits w 20 4 == 13) .source
  let i := bits w 9 11
  let t ← Target.ofCode (bits w 0 9)
  .ok (.li i t)

/-- Fields of LIH (R246). -/
def decodeLih (w : Nat) : Except Reject Instr := do
  let a := Src.ofCode (bits w 20 4)
  let i := bits w 9 11
  let t ← Target.ofCode (bits w 0 9)
  .ok (.lih a i t)

/-- Fields of ADDI (R246). -/
def decodeAddi (w : Nat) : Except Reject Instr := do
  let a := Src.ofCode (bits w 20 4)
  let i := bits w 9 11
  let t ← Target.ofCode (bits w 0 9)
  .ok (.addi a i t)

/-- Fields of ANDI (R246). -/
def decodeAndi (w : Nat) : Except Reject Instr := do
  let a := Src.ofCode (bits w 20 4)
  let i := bits w 9 11
  let t ← Target.ofCode (bits w 0 9)
  .ok (.andi a i t)

/-- Fields of ORI (R246). -/
def decodeOri (w : Nat) : Except Reject Instr := do
  let a := Src.ofCode (bits w 20 4)
  let i := bits w 9 11
  let t ← Target.ofCode (bits w 0 9)
  .ok (.ori a i t)

/-- Fields of XORI (R246). -/
def decodeXori (w : Nat) : Except Reject Instr := do
  let a := Src.ofCode (bits w 20 4)
  let i := bits w 9 11
  let t ← Target.ofCode (bits w 0 9)
  .ok (.xori a i t)

/-- Fields of SHLI (R246). -/
def decodeShli (w : Nat) : Except Reject Instr := do
  let a := Src.ofCode (bits w 20 4)
  let i := bits w 9 11
  require (decide (i < 32)) .modField
  let t ← Target.ofCode (bits w 0 9)
  .ok (.shli a i t)

/-- Fields of SHRI (R246). -/
def decodeShri (w : Nat) : Except Reject Instr := do
  let a := Src.ofCode (bits w 20 4)
  let i := bits w 9 11
  require (decide (i < 32)) .modField
  let t ← Target.ofCode (bits w 0 9)
  .ok (.shri a i t)

/-- Fields of SRAI (R246). -/
def decodeSrai (w : Nat) : Except Reject Instr := do
  let a := Src.ofCode (bits w 20 4)
  let i := bits w 9 11
  require (decide (i < 32)) .modField
  let t ← Target.ofCode (bits w 0 9)
  .ok (.srai a i t)

/-- Fields of CMPEQI (R246). -/
def decodeCmpeqi (w : Nat) : Except Reject Instr := do
  let a := Src.ofCode (bits w 20 4)
  let i := bits w 9 11
  let t ← Target.ofCode (bits w 0 9)
  .ok (.cmpeqi a i t)

/-- Fields of CMPLTI (R246). -/
def decodeCmplti (w : Nat) : Except Reject Instr := do
  let a := Src.ofCode (bits w 20 4)
  let i := bits w 9 11
  let t ← Target.ofCode (bits w 0 9)
  .ok (.cmplti a i t)

/-- Fields of CMPLTUI (R246). -/
def decodeCmpltui (w : Nat) : Except Reject Instr := do
  let a := Src.ofCode (bits w 20 4)
  let i := bits w 9 11
  let t ← Target.ofCode (bits w 0 9)
  .ok (.cmpltui a i t)

/-- Fields of MFS (R265). -/
def decodeMfs (w : Nat) : Except Reject Instr := do
  require (bits w 20 4 == 13) .source
  let i := bits w 9 11
  require (mfsNumber i) .modField
  let t ← Target.ofCode (bits w 0 9)
  .ok (.mfs i t)

/-- Fields of LDP (R275). -/
def decodeLdp (w : Nat) : Except Reject Instr := do
  let a := Src.ofCode (bits w 20 4)
  let i := bits w 9 11
  let t ← Target.ofCode (bits w 0 9)
  .ok (.ldp a i t)

/-- Fields of STP (R276). -/
def decodeStp (w : Nat) : Except Reject Instr := do
  require (bits w 0 9 == 264) .target
  let a := Src.ofCode (bits w 20 4)
  let i := bits w 9 11
  .ok (.stp a i)

/-- Fields of LD (R270). -/
def decodeLd (w : Nat) : Except Reject Instr := do
  require (bits w 16 4 == 13) .source
  let a := Src.ofCode (bits w 20 4)
  let base := bits w 13 3
  let z ← Size.ofCode (bits w 11 2)
  let s := bits w 9 2
  let t ← Target.ofCode (bits w 0 9)
  .ok (.ld a base z s t)

/-- Fields of ST (R271). -/
def decodeSt (w : Nat) : Except Reject Instr := do
  let a := Src.ofCode (bits w 20 4)
  let b := Src.ofCode (bits w 16 4)
  let base := bits w 13 3
  let z ← Size.ofCode (bits w 11 2)
  let s := bits w 9 2
  let t ← Target.ofCode (bits w 0 9)
  .ok (.st a b base z s t)

/-- Fields of LDCH (R272). -/
def decodeLdch (w : Nat) : Except Reject Instr := do
  require (bits w 11 2 == 2) .modField
  let a := Src.ofCode (bits w 20 4)
  let b := Src.ofCode (bits w 16 4)
  let base := bits w 13 3
  let s := bits w 9 2
  let t ← Target.ofCode (bits w 0 9)
  .ok (.ldch a b base s t)

/-- Fields of PREF (R273). -/
def decodePref (w : Nat) : Except Reject Instr := do
  require (bits w 16 4 == 13) .source
  require (bits w 0 9 == 264) .target
  let a := Src.ofCode (bits w 20 4)
  let base := bits w 13 3
  let z ← Size.ofCode (bits w 11 2)
  let s := bits w 9 2
  .ok (.pref a base z s)

/-- Fields of SFLUSH (R274). -/
def decodeSflush (w : Nat) : Except Reject Instr := do
  require (bits w 11 2 == 0) .modField
  let a := Src.ofCode (bits w 20 4)
  let b := Src.ofCode (bits w 16 4)
  let base := bits w 13 3
  let s := bits w 9 2
  let t ← Target.ofCode (bits w 0 9)
  .ok (.sflush a b base s t)

/-- Fields of SINV (R274). -/
def decodeSinv (w : Nat) : Except Reject Instr := do
  require (bits w 11 2 == 0) .modField
  let a := Src.ofCode (bits w 20 4)
  let b := Src.ofCode (bits w 16 4)
  let base := bits w 13 3
  let s := bits w 9 2
  let t ← Target.ofCode (bits w 0 9)
  .ok (.sinv a b base s t)

/-- Fields of AMO (R277). -/
def decodeAmo (w : Nat) : Except Reject Instr := do
  let a := Src.ofCode (bits w 20 4)
  let b := Src.ofCode (bits w 16 4)
  let base := bits w 13 3
  let o ← AmoOp.ofCode (bits w 9 4)
  let t ← Target.ofCode (bits w 0 9)
  .ok (.amo a b base o t)

/-- Fields of CAS (R280). -/
def decodeCas (w : Nat) : Except Reject Instr := do
  let a := Src.ofCode (bits w 20 4)
  let b := Src.ofCode (bits w 16 4)
  let base := bits w 13 3
  let d := bit w 12
  let c := bits w 9 3
  let t ← Target.ofCode (bits w 0 9)
  .ok (.cas a b base d c t)

/-- Fields of AMOSC (R277). -/
def decodeAmosc (w : Nat) : Except Reject Instr := do
  let a := Src.ofCode (bits w 20 4)
  let b := Src.ofCode (bits w 16 4)
  let base := bits w 13 3
  let o ← AmoOp.ofCode (bits w 9 4)
  let t ← Target.ofCode (bits w 0 9)
  .ok (.amosc a b base o t)

/-- Fields of AMOF (R281). -/
def decodeAmof (w : Nat) : Except Reject Instr := do
  require (bits w 9 1 == 0) .modField
  let a := Src.ofCode (bits w 20 4)
  let b := Src.ofCode (bits w 16 4)
  let base := bits w 13 3
  let o ← AmofOp.ofCode (bits w 10 3)
  let t ← Target.ofCode (bits w 0 9)
  .ok (.amof a b base o t)

/-- Fields of HACQ (R283). -/
def decodeHacq (w : Nat) : Except Reject Instr := do
  require (bits w 16 4 == 13) .source
  require (bits w 9 2 == 0) .modField
  let a := Src.ofCode (bits w 20 4)
  let base := bits w 13 3
  let k ← HKind.ofCode (bits w 11 2)
  let t ← Target.ofCode (bits w 0 9)
  .ok (.hacq a base k t)

/-- Fields of HREL (R285). -/
def decodeHrel (w : Nat) : Except Reject Instr := do
  require (bits w 16 4 == 13) .source
  require (bits w 9 2 == 0) .modField
  let a := Src.ofCode (bits w 20 4)
  let base := bits w 13 3
  let k ← HKind.ofCode (bits w 11 2)
  require (k != .x) .modField
  let t ← Target.ofCode (bits w 0 9)
  .ok (.hrel a base k t)

/-- Fields of HTRY (R284). -/
def decodeHtry (w : Nat) : Except Reject Instr := do
  require (bits w 16 4 == 13) .source
  require (bits w 9 2 == 0) .modField
  let a := Src.ofCode (bits w 20 4)
  let base := bits w 13 3
  let k ← HKind.ofCode (bits w 11 2)
  require (k != .p) .modField
  let t ← Target.ofCode (bits w 0 9)
  .ok (.htry a base k t)

/-- Fields of HBIND (R286). -/
def decodeHbind (w : Nat) : Except Reject Instr := do
  require (bits w 9 4 == 0) .modField
  let a := Src.ofCode (bits w 20 4)
  let b := Src.ofCode (bits w 16 4)
  let base := bits w 13 3
  let t ← Target.ofCode (bits w 0 9)
  .ok (.hbind a b base t)

/-- Fields of HUNB (R286). -/
def decodeHunb (w : Nat) : Except Reject Instr := do
  require (bits w 9 4 == 0) .modField
  let a := Src.ofCode (bits w 20 4)
  let b := Src.ofCode (bits w 16 4)
  let base := bits w 13 3
  let t ← Target.ofCode (bits w 0 9)
  .ok (.hunb a b base t)

/-- Fields of FENCE (R287). -/
def decodeFence (w : Nat) : Except Reject Instr := do
  require (bits w 16 4 == 13) .source
  require (bits w 9 5 == 0) .modField
  let a := Src.ofCode (bits w 20 4)
  let s := bits w 14 2
  require (a == .latch || a == .zero) .source
  let t ← Target.ofCode (bits w 0 9)
  .ok (.fence a s t)

/-- Fields of BAR (R288). -/
def decodeBar (w : Nat) : Except Reject Instr := do
  require (bits w 9 3 == 0) .modField
  let a := Src.ofCode (bits w 20 4)
  let b := Src.ofCode (bits w 16 4)
  let h := bit w 15
  let base := bits w 12 3
  require (h || b == .zero) .source
  let t ← Target.ofCode (bits w 0 9)
  .ok (.bar a b h base t)

/-- Fields of WAIT (R263). -/
def decodeWait (w : Nat) : Except Reject Instr := do
  let l := bits w 20 4
  let s := bits w 16 4
  let d := bits w 12 4
  let m := bits w 9 3
  let t ← Target.ofCode (bits w 0 9)
  .ok (.wait l s d m t)

/-- Fields of GIVE (R290). -/
def decodeGive (w : Nat) : Except Reject Instr := do
  require (bits w 16 4 == 13) .source
  require (bits w 9 3 == 0) .modField
  require (bits w 0 9 == 264) .target
  let a := Src.ofCode (bits w 20 4)
  let eng := bits w 12 4
  require (decide (1 ≤ eng) && decide (eng ≤ 8)) .modField
  .ok (.give a eng)

/-- Fields of QRSV (R292). -/
def decodeQrsv (w : Nat) : Except Reject Instr := do
  require (bits w 16 4 == 13) .source
  let a := Src.ofCode (bits w 20 4)
  let np := bits w 9 7
  let t ← Target.ofCode (bits w 0 9)
  .ok (.qrsv a np t)

/-- Fields of QPOST (R294). -/
def decodeQpost (w : Nat) : Except Reject Instr := do
  require (bits w 16 4 == 13) .source
  require (bits w 9 7 == 0) .modField
  require (bits w 0 9 == 264) .target
  let a := Src.ofCode (bits w 20 4)
  .ok (.qpost a)

/-- Fields of QTAKE (R292). -/
def decodeQtake (w : Nat) : Except Reject Instr := do
  require (bits w 16 4 == 13) .source
  let a := Src.ofCode (bits w 20 4)
  let np := bits w 9 7
  let t ← Target.ofCode (bits w 0 9)
  .ok (.qtake a np t)

/-- Fields of QFREE (R294). -/
def decodeQfree (w : Nat) : Except Reject Instr := do
  require (bits w 16 4 == 13) .source
  require (bits w 9 7 == 0) .modField
  require (bits w 0 9 == 264) .target
  let a := Src.ofCode (bits w 20 4)
  .ok (.qfree a)

/-- Fields of QSTAT (R295). -/
def decodeQstat (w : Nat) : Except Reject Instr := do
  require (bits w 16 4 == 13) .source
  require (bits w 9 7 == 0) .modField
  let a := Src.ofCode (bits w 20 4)
  let t ← Target.ofCode (bits w 0 9)
  .ok (.qstat a t)

/-- Fields of DCOPY_G2P (R300). -/
def decodeDcopyG2p (w : Nat) : Except Reject Instr := do
  require (bits w 16 4 == 13) .source
  require (bits w 9 5 == 0) .modField
  let a := Src.ofCode (bits w 20 4)
  let ch := bits w 14 2
  let t ← Target.ofCode (bits w 0 9)
  .ok (.dcopyG2p a ch t)

/-- Fields of DCOPY_P2G (R300). -/
def decodeDcopyP2g (w : Nat) : Except Reject Instr := do
  require (bits w 16 4 == 13) .source
  require (bits w 9 5 == 4) .modField
  let a := Src.ofCode (bits w 20 4)
  let ch := bits w 14 2
  let t ← Target.ofCode (bits w 0 9)
  .ok (.dcopyP2g a ch t)

/-- Fields of DCOPY_P2P (R300). -/
def decodeDcopyP2p (w : Nat) : Except Reject Instr := do
  require (bits w 16 4 == 13) .source
  require (bits w 9 5 == 8) .modField
  let a := Src.ofCode (bits w 20 4)
  let ch := bits w 14 2
  let t ← Target.ofCode (bits w 0 9)
  .ok (.dcopyP2p a ch t)

/-- Fields of DCOPY_P2T (R300). -/
def decodeDcopyP2t (w : Nat) : Except Reject Instr := do
  require (bits w 16 4 == 13) .source
  require (bits w 9 5 == 12) .modField
  let a := Src.ofCode (bits w 20 4)
  let ch := bits w 14 2
  let t ← Target.ofCode (bits w 0 9)
  .ok (.dcopyP2t a ch t)

/-- Fields of DCOPY_APP (R300). -/
def decodeDcopyApp (w : Nat) : Except Reject Instr := do
  require (bits w 16 4 == 13) .source
  require (bits w 9 5 == 16) .modField
  let a := Src.ofCode (bits w 20 4)
  let ch := bits w 14 2
  let t ← Target.ofCode (bits w 0 9)
  .ok (.dcopyApp a ch t)

/-- The subforms of one opcode, by bits [13:11]. -/
def decodeGroupE1A (w : Nat) : Except Reject Instr :=
  match bits w 11 3 with
  | 0 => decodeDcopyG2p w
  | 1 => decodeDcopyP2g w
  | 2 => decodeDcopyP2p w
  | 3 => decodeDcopyP2t w
  | 4 => decodeDcopyApp w
  | _ => .error .modField

/-- Fields of DGATH (R301). -/
def decodeDgath (w : Nat) : Except Reject Instr := do
  require (bits w 9 5 == 0) .modField
  let a := Src.ofCode (bits w 20 4)
  let b := Src.ofCode (bits w 16 4)
  let ch := bits w 14 2
  let t ← Target.ofCode (bits w 0 9)
  .ok (.dgath a b ch t)

/-- Fields of DSCAT (R301). -/
def decodeDscat (w : Nat) : Except Reject Instr := do
  require (bits w 9 5 == 0) .modField
  let a := Src.ofCode (bits w 20 4)
  let b := Src.ofCode (bits w 16 4)
  let ch := bits w 14 2
  let t ← Target.ofCode (bits w 0 9)
  .ok (.dscat a b ch t)

/-- Fields of DHOP (R302). -/
def decodeDhop (w : Nat) : Except Reject Instr := do
  require (bits w 16 4 == 13) .source
  require (bits w 9 5 == 0) .modField
  let a := Src.ofCode (bits w 20 4)
  let ch := bits w 14 2
  let t ← Target.ofCode (bits w 0 9)
  .ok (.dhop a ch t)

/-- Fields of DBCST (R303). -/
def decodeDbcst (w : Nat) : Except Reject Instr := do
  require (bits w 16 4 == 13) .source
  require (bits w 9 4 == 0) .modField
  let a := Src.ofCode (bits w 20 4)
  let ch := bits w 14 2
  let tm := bit w 13
  let t ← Target.ofCode (bits w 0 9)
  .ok (.dbcst a ch tm t)

/-- Fields of DRED (R304). -/
def decodeDred (w : Nat) : Except Reject Instr := do
  require (bits w 16 4 == 13) .source
  require (bits w 9 2 == 0) .modField
  let a := Src.ofCode (bits w 20 4)
  let ch := bits w 14 2
  let o ← DredOp.ofCode (bits w 12 2)
  let i32 := bit w 11
  let t ← Target.ofCode (bits w 0 9)
  .ok (.dred a ch o i32 t)

/-- Fields of MMA (R344). -/
def decodeMma (w : Nat) : Except Reject Instr := do
  require (bits w 16 4 == 13) .source
  let a := Src.ofCode (bits w 20 4)
  let pr ← Pair.ofCode (bits w 12 4)
  let ta := bit w 11
  let tb := bit w 10
  let chn := bit w 9
  require (!chn || pairChains pr) .modField
  let t ← Target.ofCode (bits w 0 9)
  .ok (.mma a pr ta tb chn t)

/-- Fields of MZERO (R349). -/
def decodeMzero (w : Nat) : Except Reject Instr := do
  require (bits w 16 4 == 13) .source
  require (bits w 9 7 == 0) .modField
  let a := Src.ofCode (bits w 20 4)
  let t ← Target.ofCode (bits w 0 9)
  .ok (.mzero a t)

/-- Fields of MDRN (R351). -/
def decodeMdrn (w : Nat) : Except Reject Instr := do
  require (bits w 16 4 == 13) .source
  require (bits w 9 2 == 0) .modField
  let a := Src.ofCode (bits w 20 4)
  let bias := bit w 15
  let act := bit w 14
  let rq := bit w 13
  let amx := bit w 12
  let tr := bit w 11
  let t ← Target.ofCode (bits w 0 9)
  .ok (.mdrn a bias act rq amx tr t)

/-- Fields of MLDA (R349). -/
def decodeMlda (w : Nat) : Except Reject Instr := do
  require (bits w 9 7 == 0) .modField
  let a := Src.ofCode (bits w 20 4)
  let b := Src.ofCode (bits w 16 4)
  let t ← Target.ofCode (bits w 0 9)
  .ok (.mlda a b t)

/-- Fields of ETLD (R350). -/
def decodeEtld (w : Nat) : Except Reject Instr := do
  require (bits w 9 7 == 0) .modField
  let a := Src.ofCode (bits w 20 4)
  let b := Src.ofCode (bits w 16 4)
  let t ← Target.ofCode (bits w 0 9)
  .ok (.etld a b t)

/-- Fields of FOLD (R355). -/
def decodeFold (w : Nat) : Except Reject Instr := do
  require (bits w 9 7 == 0) .modField
  let a := Src.ofCode (bits w 20 4)
  let b := Src.ofCode (bits w 16 4)
  let t ← Target.ofCode (bits w 0 9)
  .ok (.fold a b t)

/-- Fields of FFIN (R357). -/
def decodeFfin (w : Nat) : Except Reject Instr := do
  require (bits w 16 4 == 13) .source
  require (bits w 9 7 == 0) .modField
  let a := Src.ofCode (bits w 20 4)
  let t ← Target.ofCode (bits w 0 9)
  .ok (.ffin a t)

/-- Fields of NCFG (R358). -/
def decodeNcfg (w : Nat) : Except Reject Instr := do
  require (bits w 16 4 == 13) .source
  require (bits w 9 7 == 0) .modField
  let a := Src.ofCode (bits w 20 4)
  let t ← Target.ofCode (bits w 0 9)
  .ok (.ncfg a t)

/-- Fields of BRCFG (R361). -/
def decodeBrcfg (w : Nat) : Except Reject Instr := do
  require (bits w 16 4 == 13) .source
  require (bits w 9 7 == 0) .modField
  let a := Src.ofCode (bits w 20 4)
  let t ← Target.ofCode (bits w 0 9)
  .ok (.brcfg a t)

/-- Fields of BRCFG_STAT (R366). -/
def decodeBrcfgStat (w : Nat) : Except Reject Instr := do
  require (bits w 16 4 == 13) .source
  require (bits w 9 7 == 64) .modField
  let a := Src.ofCode (bits w 20 4)
  let t ← Target.ofCode (bits w 0 9)
  .ok (.brcfgStat a t)

/-- The subforms of one opcode, by bits [15:15]. -/
def decodeGroupE28 (w : Nat) : Except Reject Instr :=
  match bits w 15 1 with
  | 0 => decodeBrcfg w
  | 1 => decodeBrcfgStat w
  | _ => .error .modField

/-- Fields of REINLD (R364). -/
def decodeReinld (w : Nat) : Except Reject Instr := do
  require (bits w 9 7 == 0) .modField
  let a := Src.ofCode (bits w 20 4)
  let b := Src.ofCode (bits w 16 4)
  let t ← Target.ofCode (bits w 0 9)
  .ok (.reinld a b t)

/-- Fields of SENDX (R254). -/
def decodeSendx (w : Nat) : Except Reject Instr := do
  require (bits w 9 4 == 0) .modField
  let a := Src.ofCode (bits w 20 4)
  let b := Src.ofCode (bits w 16 4)
  let seg := bit w 15
  let pol := bit w 14
  let eor := bit w 13
  require (seg || pol || eor || b == .zero) .source
  let t ← Target.ofCode (bits w 0 9)
  .ok (.sendx a b seg pol eor t)

/-- Fields of CANCEL (R255). -/
def decodeCancel (w : Nat) : Except Reject Instr := do
  require (bits w 16 4 == 13) .source
  require (bits w 9 7 == 0) .modField
  let a := Src.ofCode (bits w 20 4)
  let t ← Target.ofCode (bits w 0 9)
  .ok (.cancel a t)

/-- Fields of COMMIT (R256). -/
def decodeCommit (w : Nat) : Except Reject Instr := do
  require (bits w 16 4 == 13) .source
  require (bits w 9 6 == 0) .modField
  let a := Src.ofCode (bits w 20 4)
  let nul := bit w 15
  require (!nul || bits w 20 4 == 13) .source
  let t ← Target.ofCode (bits w 0 9)
  .ok (.commit a nul t)

/-- Fields of CTXA (R259). -/
def decodeCtxa (w : Nat) : Except Reject Instr := do
  require (bits w 16 4 == 13) .source
  require (bits w 9 6 == 0) .modField
  let a := Src.ofCode (bits w 20 4)
  let th := bit w 15
  let t ← Target.ofCode (bits w 0 9)
  .ok (.ctxa a th t)

/-- Fields of CTXF (R261). -/
def decodeCtxf (w : Nat) : Except Reject Instr := do
  require (bits w 16 4 == 13) .source
  require (bits w 9 6 == 0) .modField
  require (bits w 0 9 == 264) .target
  let a := Src.ofCode (bits w 20 4)
  let self := bit w 15
  require (!self || a == .zero) .source
  .ok (.ctxf a self)

/-- Fields of SPAWN (R260). -/
def decodeSpawn (w : Nat) : Except Reject Instr := do
  require (bits w 9 5 == 0) .modField
  let a := Src.ofCode (bits w 20 4)
  let b := Src.ofCode (bits w 16 4)
  let th := bit w 15
  let hv := bit w 14
  let t ← Target.ofCode (bits w 0 9)
  .ok (.spawn a b th hv t)

/-- Fields of LAUNCH (R262). -/
def decodeLaunch (w : Nat) : Except Reject Instr := do
  require (bits w 16 4 == 13) .source
  require (bits w 9 7 == 0) .modField
  let a := Src.ofCode (bits w 20 4)
  let t ← Target.ofCode (bits w 0 9)
  .ok (.launch a t)

/-- Fields of MTS (R266). -/
def decodeMts (w : Nat) : Except Reject Instr := do
  require (bits w 16 4 == 13) .source
  require (bits w 0 9 == 264) .target
  let a := Src.ofCode (bits w 20 4)
  let n := bits w 9 7
  require (mtsNumber n) .modField
  .ok (.mts a n)

/-- Fields of TRAP (R371). -/
def decodeTrap (w : Nat) : Except Reject Instr := do
  require (bits w 16 4 == 13) .source
  require (bits w 0 9 == 264) .target
  let a := Src.ofCode (bits w 20 4)
  let code := bits w 9 7
  .ok (.trap a code)

/-- Fields of BRK (R372). -/
def decodeBrk (w : Nat) : Except Reject Instr := do
  require (bits w 20 4 == 13) .source
  require (bits w 16 4 == 13) .source
  require (bits w 0 9 == 264) .target
  let code := bits w 9 7
  .ok (.brk code)

/-- Fields of ERES (R374). -/
def decodeEres (w : Nat) : Except Reject Instr := do
  require (bits w 9 3 == 0) .modField
  let a := Src.ofCode (bits w 20 4)
  let b := Src.ofCode (bits w 16 4)
  let rep := bit w 15
  let ent := bits w 13 2
  let hold := bit w 12
  require (rep || b == .zero) .source
  let t ← Target.ofCode (bits w 0 9)
  .ok (.eres a b rep ent hold t)

/-- Fields of ESC (R375). -/
def decodeEsc (w : Nat) : Except Reject Instr := do
  require (bits w 16 4 == 13) .source
  require (bits w 9 7 == 0) .modField
  let a := Src.ofCode (bits w 20 4)
  let t ← Target.ofCode (bits w 0 9)
  .ok (.esc a t)

/-- Fields of EKILL (R376). -/
def decodeEkill (w : Nat) : Except Reject Instr := do
  require (bits w 16 4 == 13) .source
  require (bits w 9 7 == 0) .modField
  let a := Src.ofCode (bits w 20 4)
  let t ← Target.ofCode (bits w 0 9)
  .ok (.ekill a t)

/-- Fields of MFSR (R378). -/
def decodeMfsr (w : Nat) : Except Reject Instr := do
  require (bits w 16 4 == 13) .source
  require (bits w 9 7 == 0) .modField
  let a := Src.ofCode (bits w 20 4)
  let t ← Target.ofCode (bits w 0 9)
  .ok (.mfsr a t)

/-- Fields of MTSR (R378). -/
def decodeMtsr (w : Nat) : Except Reject Instr := do
  require (bits w 9 7 == 1) .modField
  let a := Src.ofCode (bits w 20 4)
  let b := Src.ofCode (bits w 16 4)
  let t ← Target.ofCode (bits w 0 9)
  .ok (.mtsr a b t)

/-- Fields of TBI (R38). -/
def decodeTbi (w : Nat) : Except Reject Instr := do
  require (bits w 16 4 == 13) .source
  require (bits w 9 7 == 2) .modField
  let a := Src.ofCode (bits w 20 4)
  let t ← Target.ofCode (bits w 0 9)
  .ok (.tbi a t)

/-- Fields of SHINV (R114). -/
def decodeShinv (w : Nat) : Except Reject Instr := do
  require (bits w 16 4 == 13) .source
  require (bits w 9 7 == 3) .modField
  let a := Src.ofCode (bits w 20 4)
  let t ← Target.ofCode (bits w 0 9)
  .ok (.shinv a t)

/-- Fields of PLBC (R115). -/
def decodePlbc (w : Nat) : Except Reject Instr := do
  require (bits w 16 4 == 13) .source
  require (bits w 9 7 == 4) .modField
  let a := Src.ofCode (bits w 20 4)
  let t ← Target.ofCode (bits w 0 9)
  .ok (.plbc a t)

/-- Fields of PRBLD (R379). -/
def decodePrbld (w : Nat) : Except Reject Instr := do
  require (bits w 9 7 == 5) .modField
  let a := Src.ofCode (bits w 20 4)
  let b := Src.ofCode (bits w 16 4)
  let t ← Target.ofCode (bits w 0 9)
  .ok (.prbld a b t)

/-- Fields of CFGLD (R380). -/
def decodeCfgld (w : Nat) : Except Reject Instr := do
  require (bits w 9 7 == 6) .modField
  let a := Src.ofCode (bits w 20 4)
  let b := Src.ofCode (bits w 16 4)
  let t ← Target.ofCode (bits w 0 9)
  .ok (.cfgld a b t)

/-- Fields of GAIT (R381). -/
def decodeGait (w : Nat) : Except Reject Instr := do
  require (bits w 16 4 == 13) .source
  require (bits w 9 7 == 7) .modField
  let a := Src.ofCode (bits w 20 4)
  let t ← Target.ofCode (bits w 0 9)
  .ok (.gait a t)

/-- Fields of IDLE (R382). -/
def decodeIdle (w : Nat) : Except Reject Instr := do
  require (bits w 20 4 == 13) .source
  require (bits w 16 4 == 13) .source
  require (bits w 9 7 == 8) .modField
  let t ← Target.ofCode (bits w 0 9)
  .ok (.idle t)

/-- Fields of PARK (R383). -/
def decodePark (w : Nat) : Except Reject Instr := do
  require (bits w 16 4 == 13) .source
  require (bits w 9 7 == 9) .modField
  let a := Src.ofCode (bits w 20 4)
  let t ← Target.ofCode (bits w 0 9)
  .ok (.park a t)

/-- The subforms of one opcode, by bits [12:9]. -/
def decodeGroupE39 (w : Nat) : Except Reject Instr :=
  match bits w 9 4 with
  | 1 => decodeMtsr w
  | 5 => decodePrbld w
  | 6 => decodeCfgld w
  | 0 => decodeMfsr w
  | 2 => decodeTbi w
  | 3 => decodeShinv w
  | 4 => decodePlbc w
  | 7 => decodeGait w
  | 9 => decodePark w
  | 8 => decodeIdle w
  | _ => .error .modField

/-- LIT (R208, R246): the literal is the next word. -/
def decodeLit (w lit : Nat) : Except Reject Instr := do
  require (bits w 20 4 == 13) .source
  require (bits w 9 11 == 0) .modField
  let t ← Target.ofCode (bits w 0 9)
  .ok (.lit (lit % 2 ^ 32) t)

/-- P class, by opcode (R214). -/
def decodeP (w : Nat) : Except Reject Instr :=
  match bits w 24 6 with
  | 0 => decodeFwd w
  | 1 => decodeSteer w
  | 2 => decodeSteerc w
  | 3 => decodeSplit w
  | 4 => decodePack w
  | 5 => decodeUnpack w
  | 16 => decodeAddP w
  | 17 => decodeSubP w
  | 18 => decodeAndP w
  | 19 => decodeOrP w
  | 20 => decodeXorP w
  | 21 => decodeShlP w
  | 22 => decodeShrP w
  | 23 => decodeSraP w
  | 24 => decodeMinP w
  | 25 => decodeMaxP w
  | 26 => decodeCmpP w
  | 32 => decodeFaddP w
  | 33 => decodeFsubP w
  | 34 => decodeFmulP w
  | 35 => decodeFminP w
  | 36 => decodeFmaxP w
  | 37 => decodeFcmpP w
  | _ => .error .opcode

/-- S class, by opcode (R215). -/
def decodeS (w : Nat) : Except Reject Instr :=
  match bits w 24 6 with
  | 0 => decodeAdd w
  | 1 => decodeSub w
  | 2 => decodeMul w
  | 3 => decodeMulh w
  | 4 => decodeMulhu w
  | 5 => decodeDiv w
  | 6 => decodeDivu w
  | 7 => decodeRem w
  | 8 => decodeRemu w
  | 9 => decodeAnd w
  | 10 => decodeOr w
  | 11 => decodeXor w
  | 12 => decodeAndn w
  | 13 => decodeShl w
  | 14 => decodeShr w
  | 15 => decodeSra w
  | 16 => decodeRot w
  | 17 => decodeMin w
  | 18 => decodeMax w
  | 19 => decodeMinu w
  | 20 => decodeMaxu w
  | 21 => decodeAbs w
  | 22 => decodeGroupS16 w
  | 23 => decodeGroupS17 w
  | 24 => decodeBfx w
  | 25 => decodeBfi w
  | 26 => decodeCmp w
  | 27 => decodeSel w
  | 28 => decodeLea w
  | 29 => decodeGroupS1D w
  | 30 => decodeGroupS1E w
  | 32 => decodeFadd w
  | 33 => decodeFsub w
  | 34 => decodeFmul w
  | 35 => decodeFfma w
  | 36 => decodeFmin w
  | 37 => decodeFmax w
  | 38 => decodeGroupS26 w
  | 39 => decodeFcmp w
  | 40 => decodeFclass w
  | 41 => decodeFcvt w
  | 42 => decodeFrnd w
  | 43 => decodeFtoi w
  | 44 => decodeItof w
  | 45 => decodeHadd2 w
  | 46 => decodeHmul2 w
  | 47 => decodeHfma2 w
  | 48 => decodeGroupS30 w
  | 49 => decodeFdiv w
  | 50 => decodeLred w
  | 51 => decodeLscan w
  | 52 => decodeShuf w
  | 53 => decodeLbc w
  | 54 => decodeVdot w
  | 55 => decodeTacc w
  | 56 => decodeCbdec w
  | 57 => decodeLtld w
  | 58 => decodeScacc w
  | 59 => decodeScmul w
  | 60 => decodeAmax w
  | 61 => decodeRng w
  | _ => .error .opcode

/-- I class, by opcode (R218). -/
def decodeI (w : Nat) (lit : Nat) : Except Reject Instr :=
  match bits w 24 6 with
  | 0 => decodeLi w
  | 1 => decodeLih w
  | 2 => decodeLit w lit
  | 3 => decodeAddi w
  | 4 => decodeAndi w
  | 5 => decodeOri w
  | 6 => decodeXori w
  | 7 => decodeShli w
  | 8 => decodeShri w
  | 9 => decodeSrai w
  | 10 => decodeCmpeqi w
  | 11 => decodeCmplti w
  | 12 => decodeCmpltui w
  | 13 => decodeMfs w
  | 16 => decodeLdp w
  | 17 => decodeStp w
  | _ => .error .opcode

/-- E class, by opcode (R219). -/
def decodeE (w : Nat) : Except Reject Instr :=
  match bits w 24 6 with
  | 0 => decodeLd w
  | 1 => decodeSt w
  | 2 => decodeLdch w
  | 3 => decodePref w
  | 4 => decodeSflush w
  | 5 => decodeSinv w
  | 8 => decodeAmo w
  | 9 => decodeCas w
  | 10 => decodeAmosc w
  | 11 => decodeAmof w
  | 12 => decodeHacq w
  | 13 => decodeHrel w
  | 14 => decodeHtry w
  | 15 => decodeHbind w
  | 16 => decodeHunb w
  | 17 => decodeFence w
  | 18 => decodeBar w
  | 19 => decodeWait w
  | 20 => decodeGive w
  | 21 => decodeQrsv w
  | 22 => decodeQpost w
  | 23 => decodeQtake w
  | 24 => decodeQfree w
  | 25 => decodeQstat w
  | 26 => decodeGroupE1A w
  | 27 => decodeDgath w
  | 28 => decodeDscat w
  | 29 => decodeDhop w
  | 30 => decodeDbcst w
  | 31 => decodeDred w
  | 32 => decodeMma w
  | 33 => decodeMzero w
  | 34 => decodeMdrn w
  | 35 => decodeMlda w
  | 36 => decodeEtld w
  | 37 => decodeFold w
  | 38 => decodeFfin w
  | 39 => decodeNcfg w
  | 40 => decodeGroupE28 w
  | 41 => decodeReinld w
  | 44 => decodeSendx w
  | 45 => decodeCancel w
  | 46 => decodeCommit w
  | 47 => decodeCtxa w
  | 48 => decodeCtxf w
  | 49 => decodeSpawn w
  | 50 => decodeLaunch w
  | 51 => decodeMts w
  | 52 => decodeTrap w
  | 53 => decodeBrk w
  | 54 => decodeEres w
  | 55 => decodeEsc w
  | 56 => decodeEkill w
  | 57 => decodeGroupE39 w
  | _ => .error .opcode

/-- A word of a block and the word after it (R209, R212 step 1). -/
def decodeBlock (w lit : Nat) : Except Reject Instr :=
  match bits w 30 2 with
  | 0 => decodeP w
  | 1 => decodeS w
  | 2 => decodeI w lit
  | _ => decodeE w

/-- A sequencer word with the words after it, and how many words it takes (R222, R384). -/
def decodeSeq (ws : List Nat) : Except Reject (Instr × Nat) :=
  match ws with
  | [] => .error .opcode
  | w :: rest =>
    match bits w 28 4 with
    | 0 => do
      require (bits w 16 12 == 0) .modField
      .ok (.sqEnd (bits w 0 16), 1)
    | 1 => do
      require (bits w 16 12 == 0) .modField
      .ok (.sqCfg (bits w 8 8) (bits w 0 8), 1)
    | 2 => do
      require (bits w 0 20 == 0) .modField
      .ok (.sqRun (bit w 27) (bits w 21 6) (bit w 20), 1)
    | 3 => do
      require (bits w 16 10 == 0) .modField
      let lo := rest.getD 0 0
      let hi := rest.getD 1 0
      require (decide (2 ≤ rest.length) && decide (hi < 2 ^ 24)) .modField
      if bit w 27 then do
        let hlo := rest.getD 2 0
        let hhi := rest.getD 3 0
        require (decide (4 ≤ rest.length) && decide (hhi < 2 ^ 24)) .modField
        .ok (.sqIf true (bit w 26) (bits w 0 16) (lo + hi * 2 ^ 32) (hlo + hhi * 2 ^ 32), 5)
      else .ok (.sqIf false (bit w 26) (bits w 0 16) (lo + hi * 2 ^ 32) 0, 3)
    | 4 => do
      require (bits w 16 12 == 0) .modField
      .ok (.sqJmp (bits w 0 16), 1)
    | 5 => do
      require (bits w 0 28 == 0) .modField
      .ok (.sqBar, 1)
    | 6 => do
      require (bits w 8 20 == 0) .modField
      .ok (.sqGait (bits w 0 8), 1)
    | 7 => do
      require (bits w 16 12 == 0) .modField
      let d := rest.getD 0 0
      require (decide (2 ≤ rest.length) && bits d 0 9 == 0) .modField
      .ok (.sqSig (bits w 0 16) (bits d 9 23) (rest.getD 1 0), 3)
    | _ => .error .opcode

/-- The words of a block or sequencer instruction; a step that is no word has none. -/
def encode : Instr → List Nat
  | .tokenArrival => []
  | .cancelTokenArrival => []
  | .taskFire => []
  | .blockCommit => []
  | .outputBufferSend => []
  | .loadResponseReturn => []
  | .taskClassAging => []
  | .bankGrant => []
  | .sramScrub => []
  | .dramScrub => []
  | .dramRequest => []
  | .translationMiss => []
  | .pageWalk => []
  | .walkComplete => []
  | .asyncFaultReport => []
  | .faultDelivery => []
  | .supervisorFaultDequeue => []
  | .watchdog => []
  | .stageBalance => []
  | .launchRecordAging => []
  | .launchIntake => []
  | .allocationPass => []
  | .regionShrink _ _ _ _ => []
  | .fullSave => []
  | .resume => []
  | .tileFree => []
  | .quadrantReport => []
  | .launchEnd => []
  | .runBarrierReached => []
  | .contextFree => []
  | .batonVisit => []
  | .seqOrder => []
  | .stashFill => []
  | .stashEviction => []
  | .hitchRequestArrival => []
  | .hitchReleaseArrival => []
  | .hitchGrantArrival => []
  | .barrierArrival => []
  | .giveFlip => []
  | .drayCommandStart => []
  | .drayComplete => []
  | .drayFail => []
  | .remoteDrayWrite => []
  | .dhopArrival => []
  | .dredCombine => []
  | .append => []
  | .appendRetry => []
  | .baleLookup => []
  | .placementMiss => []
  | .tbShootdownArrival => []
  | .tbiCompletion => []
  | .baleShootdownArrival => []
  | .shinvCompletion => []
  | .placementBroadcastArrival => []
  | .plbcCompletion => []
  | .troughWaiterServe => []
  | .mmaApply => []
  | .mzeroApply => []
  | .mldaApply => []
  | .mdrnApply => []
  | .etldApply => []
  | .foldApply => []
  | .foldRetry => []
  | .ffinApply => []
  | .taccApply => []
  | .commitEntry => []
  | .normaliserSegment => []
  | .bridleSegment => []
  | .reinldApply => []
  | .prbldApply => []
  | .edgeEgressWrite => []
  | .edgeIngressInject => []
  | .ldchNode => []
  | .waitEmit => []
  | .fenceRelease => []
  | .halt => []
  | .stepHalt => []
  | .idleRestart => []
  | .quadrantEnterP2 => []
  | .quadrantWake => []
  | .tileClockWake => []
  | .governorMeasure _ => []
  | .startup => []
  | .recoveryImage _ _ _ _ => []
  | .mrlPlaneDown _ => []
  | .mrlKeyChange _ => []
  | .rdmaWrite _ _ _ _ => []
  | .rdmaRead _ _ _ _ => []
  | .rdmaInvalidRequest _ => []
  | .sttLaunch _ _ _ _ => []
  | .sttTokens _ _ _ _ => []
  | .mrreg _ _ _ _ _ _ _ _ _ => []
  | .mrdereg _ _ _ _ => []
  | .ctrlPreempt _ _ _ _ _ => []
  | .ctrlHalt _ _ _ _ _ => []
  | .ctrlFwd _ _ _ _ => []
  | .getVersion _ _ _ => []
  | .getCapabilities _ _ _ => []
  | .negotiateAlgorithms _ _ _ => []
  | .getDigests _ _ _ => []
  | .getCertificate _ _ _ => []
  | .challenge _ _ _ => []
  | .getMeasurements _ _ _ => []
  | .keyExchange _ _ _ => []
  | .finish _ _ _ => []
  | .debugUnlock _ _ _ _ => []
  | .spdmUnsupportedRequest _ _ _ => []
  | .getTelemetry => []
  | .setPlimit _ => []
  | .setPowerP3 => []
  | .setPowerP0 => []
  | .getBootrec => []
  | .smodeWrite => []
  | .qreqP0 => []
  | .qreqP1 => []
  | .qreqP2 => []
  | .gerrClear => []
  | .svecWrite => []
  | .deviceRegisterWrite => []
  | .fwd x y => [wordOfP 0 0 x.code y.code]
  | .steer x y => [wordOfP 1 0 x.code y.code]
  | .steerc x y => [wordOfP 2 0 x.code y.code]
  | .split n x y => [wordOfP 3 n x.code y.code]
  | .pack off x y => [wordOfP 4 off x.code y.code]
  | .unpack off x y => [wordOfP 5 off x.code y.code]
  | .addP x y => [wordOfP 16 0 x.code y.code]
  | .subP x y => [wordOfP 17 0 x.code y.code]
  | .andP x y => [wordOfP 18 0 x.code y.code]
  | .orP x y => [wordOfP 19 0 x.code y.code]
  | .xorP x y => [wordOfP 20 0 x.code y.code]
  | .shlP x y => [wordOfP 21 0 x.code y.code]
  | .shrP x y => [wordOfP 22 0 x.code y.code]
  | .sraP x y => [wordOfP 23 0 x.code y.code]
  | .minP x y => [wordOfP 24 0 x.code y.code]
  | .maxP x y => [wordOfP 25 0 x.code y.code]
  | .cmpP c x y => [wordOfP 26 (c.code * 4) x.code y.code]
  | .faddP r x y => [wordOfP 32 r.code x.code y.code]
  | .fsubP r x y => [wordOfP 33 r.code x.code y.code]
  | .fmulP r x y => [wordOfP 34 r.code x.code y.code]
  | .fminP x y => [wordOfP 35 0 x.code y.code]
  | .fmaxP x y => [wordOfP 36 0 x.code y.code]
  | .fcmpP c x y => [wordOfP 37 c.code x.code y.code]
  | .add a b t => [wordOf 1 0 a.code b.code 0 t.code]
  | .sub a b t => [wordOf 1 1 a.code b.code 0 t.code]
  | .mul a b t => [wordOf 1 2 a.code b.code 0 t.code]
  | .mulh a b t => [wordOf 1 3 a.code b.code 0 t.code]
  | .mulhu a b t => [wordOf 1 4 a.code b.code 0 t.code]
  | .div a b t => [wordOf 1 5 a.code b.code 0 t.code]
  | .divu a b t => [wordOf 1 6 a.code b.code 0 t.code]
  | .rem a b t => [wordOf 1 7 a.code b.code 0 t.code]
  | .remu a b t => [wordOf 1 8 a.code b.code 0 t.code]
  | .and a b t => [wordOf 1 9 a.code b.code 0 t.code]
  | .or a b t => [wordOf 1 10 a.code b.code 0 t.code]
  | .xor a b t => [wordOf 1 11 a.code b.code 0 t.code]
  | .andn a b t => [wordOf 1 12 a.code b.code 0 t.code]
  | .shl a b t => [wordOf 1 13 a.code b.code 0 t.code]
  | .shr a b t => [wordOf 1 14 a.code b.code 0 t.code]
  | .sra a b t => [wordOf 1 15 a.code b.code 0 t.code]
  | .rot a b t => [wordOf 1 16 a.code b.code 0 t.code]
  | .min a b t => [wordOf 1 17 a.code b.code 0 t.code]
  | .max a b t => [wordOf 1 18 a.code b.code 0 t.code]
  | .minu a b t => [wordOf 1 19 a.code b.code 0 t.code]
  | .maxu a b t => [wordOf 1 20 a.code b.code 0 t.code]
  | .abs a t => [wordOf 1 21 a.code 13 0 t.code]
  | .clz a t => [wordOf 1 22 a.code 13 0 t.code]
  | .ctz a t => [wordOf 1 22 a.code 13 32 t.code]
  | .popc a t => [wordOf 1 22 a.code 13 64 t.code]
  | .brev a t => [wordOf 1 22 a.code 13 96 t.code]
  | .sxb a t => [wordOf 1 23 a.code 13 64 t.code]
  | .sxh a t => [wordOf 1 23 a.code 13 80 t.code]
  | .sx4 a t => [wordOf 1 23 a.code 13 96 t.code]
  | .zxb a t => [wordOf 1 23 a.code 13 0 t.code]
  | .zxh a t => [wordOf 1 23 a.code 13 16 t.code]
  | .zx4 a t => [wordOf 1 23 a.code 13 32 t.code]
  | .bfx a b sx t => [wordOf 1 24 a.code b.code (boolCode sx * 64) t.code]
  | .bfi a b c t => [wordOf 1 25 a.code b.code (c * 2) t.code]
  | .cmp a b c t => [wordOf 1 26 a.code b.code (c.code * 8) t.code]
  | .sel a b c t => [wordOf 1 27 a.code b.code (c * 2) t.code]
  | .lea a b s t => [wordOf 1 28 a.code b.code s t.code]
  | .switchPol a n t => [wordOf 1 29 a.code 13 (n * 4) t.code]
  | .switchLane a b n t => [wordOf 1 29 a.code b.code (64 + n * 4) t.code]
  | .laff a b t => [wordOf 1 30 a.code b.code 0 t.code]
  | .lxor a t => [wordOf 1 30 a.code 13 16 t.code]
  | .lvcnt a t => [wordOf 1 30 a.code 13 32 t.code]
  | .lvfst a t => [wordOf 1 30 a.code 13 48 t.code]
  | .fadd a b f r sat t => [wordOf 1 32 a.code b.code (f.code * 16 + r.code * 2 + boolCode sat) t.code]
  | .fsub a b f r sat t => [wordOf 1 33 a.code b.code (f.code * 16 + r.code * 2 + boolCode sat) t.code]
  | .fmul a b f r sat t => [wordOf 1 34 a.code b.code (f.code * 16 + r.code * 2 + boolCode sat) t.code]
  | .ffma a b r c sat t => [wordOf 1 35 a.code b.code (r.code * 16 + c * 2 + boolCode sat) t.code]
  | .fmin a b t => [wordOf 1 36 a.code b.code 0 t.code]
  | .fmax a b t => [wordOf 1 37 a.code b.code 0 t.code]
  | .fabs a f t => [wordOf 1 38 a.code 13 (f.code * 16) t.code]
  | .fneg a f t => [wordOf 1 38 a.code 13 (2 + f.code * 16) t.code]
  | .fcpys a b f t => [wordOf 1 38 a.code b.code (4 + f.code * 16) t.code]
  | .fcpyn a b f t => [wordOf 1 38 a.code b.code (6 + f.code * 16) t.code]
  | .fxsgn a b f t => [wordOf 1 38 a.code b.code (8 + f.code * 16) t.code]
  | .fcmp a b f c t => [wordOf 1 39 a.code b.code (f.code * 16 + c.code * 2) t.code]
  | .fclass a f t => [wordOf 1 40 a.code 13 (f.code * 16) t.code]
  | .fcvt a b f r sat t => [wordOf 1 41 a.code b.code (f.code * 16 + r.code * 2 + boolCode sat) t.code]
  | .frnd a r t => [wordOf 1 42 a.code 13 (r.code * 2) t.code]
  | .ftoi a f r sat t => [wordOf 1 43 a.code 13 (f.code * 16 + r.code * 2 + boolCode sat) t.code]
  | .itof a f r sat t => [wordOf 1 44 a.code 13 (f.code * 16 + r.code * 2 + boolCode sat) t.code]
  | .hadd2 a b f r sat t => [wordOf 1 45 a.code b.code (f.code * 16 + r.code * 2 + boolCode sat) t.code]
  | .hmul2 a b f r sat t => [wordOf 1 46 a.code b.code (f.code * 16 + r.code * 2 + boolCode sat) t.code]
  | .hfma2 a b r c sat t => [wordOf 1 47 a.code b.code (r.code * 16 + c * 2 + boolCode sat) t.code]
  | .ex2 a t => [wordOf 1 48 a.code 13 0 t.code]
  | .lg2 a t => [wordOf 1 48 a.code 13 16 t.code]
  | .rcp a t => [wordOf 1 48 a.code 13 32 t.code]
  | .rsq a t => [wordOf 1 48 a.code 13 48 t.code]
  | .sqrt a t => [wordOf 1 48 a.code 13 64 t.code]
  | .sin a t => [wordOf 1 48 a.code 13 80 t.code]
  | .cos a t => [wordOf 1 48 a.code 13 96 t.code]
  | .tanh a t => [wordOf 1 48 a.code 13 112 t.code]
  | .fdiv a b f r sat t => [wordOf 1 49 a.code b.code (f.code * 16 + r.code * 2 + boolCode sat) t.code]
  | .lred a o t => [wordOf 1 50 a.code 13 (o.code * 16) t.code]
  | .lscan a o t => [wordOf 1 51 a.code 13 (o.code * 16) t.code]
  | .shuf a b m t => [wordOf 1 52 a.code b.code (m.code * 32) t.code]
  | .lbc a b t => [wordOf 1 53 a.code b.code 0 t.code]
  | .vdot a b f t => [wordOf 1 54 a.code b.code (f.code * 16) t.code]
  | .tacc a b t => [wordOf 1 55 a.code b.code 0 t.code]
  | .cbdec a f entry hi t => [wordOf 1 56 a.code 13 (f.code * 16 + entry * 2 + boolCode hi) t.code]
  | .ltld a b => [wordOf 1 57 a.code b.code 0 264]
  | .scacc a b bf c tbf16 t => [wordOf 1 58 a.code b.code (bf.code * 16 + c * 2 + boolCode tbf16) t.code]
  | .scmul a b f t => [wordOf 1 59 a.code b.code (f.code * 16) t.code]
  | .amax a n t => [wordOf 1 60 a.code 13 (n * 8) t.code]
  | .rng a b w f t => [wordOf 1 61 a.code b.code (w * 32 + f.code * 8) t.code]
  | .li i t => [wordOfI 0 13 i t.code]
  | .lih a i t => [wordOfI 1 a.code i t.code]
  | .lit word t => [wordOfI 2 13 0 t.code, word]
  | .addi a i t => [wordOfI 3 a.code i t.code]
  | .andi a i t => [wordOfI 4 a.code i t.code]
  | .ori a i t => [wordOfI 5 a.code i t.code]
  | .xori a i t => [wordOfI 6 a.code i t.code]
  | .shli a i t => [wordOfI 7 a.code i t.code]
  | .shri a i t => [wordOfI 8 a.code i t.code]
  | .srai a i t => [wordOfI 9 a.code i t.code]
  | .cmpeqi a i t => [wordOfI 10 a.code i t.code]
  | .cmplti a i t => [wordOfI 11 a.code i t.code]
  | .cmpltui a i t => [wordOfI 12 a.code i t.code]
  | .mfs i t => [wordOfI 13 13 i t.code]
  | .ldp a i t => [wordOfI 16 a.code i t.code]
  | .stp a i => [wordOfI 17 a.code i 264]
  | .ld a base z s t => [wordOf 3 0 a.code 13 (base * 16 + z.code * 4 + s) t.code]
  | .st a b base z s t => [wordOf 3 1 a.code b.code (base * 16 + z.code * 4 + s) t.code]
  | .ldch a b base s t => [wordOf 3 2 a.code b.code (8 + base * 16 + s) t.code]
  | .pref a base z s => [wordOf 3 3 a.code 13 (base * 16 + z.code * 4 + s) 264]
  | .sflush a b base s t => [wordOf 3 4 a.code b.code (base * 16 + s) t.code]
  | .sinv a b base s t => [wordOf 3 5 a.code b.code (base * 16 + s) t.code]
  | .amo a b base o t => [wordOf 3 8 a.code b.code (base * 16 + o.code) t.code]
  | .cas a b base d c t => [wordOf 3 9 a.code b.code (base * 16 + boolCode d * 8 + c) t.code]
  | .amosc a b base o t => [wordOf 3 10 a.code b.code (base * 16 + o.code) t.code]
  | .amof a b base o t => [wordOf 3 11 a.code b.code (base * 16 + o.code * 2) t.code]
  | .hacq a base k t => [wordOf 3 12 a.code 13 (base * 16 + k.code * 4) t.code]
  | .hrel a base k t => [wordOf 3 13 a.code 13 (base * 16 + k.code * 4) t.code]
  | .htry a base k t => [wordOf 3 14 a.code 13 (base * 16 + k.code * 4) t.code]
  | .hbind a b base t => [wordOf 3 15 a.code b.code (base * 16) t.code]
  | .hunb a b base t => [wordOf 3 16 a.code b.code (base * 16) t.code]
  | .fence a s t => [wordOf 3 17 a.code 13 (s * 32) t.code]
  | .bar a b h base t => [wordOf 3 18 a.code b.code (boolCode h * 64 + base * 8) t.code]
  | .wait l s d m t => [wordOf 3 19 l s (d * 8 + m) t.code]
  | .give a eng => [wordOf 3 20 a.code 13 (eng * 8) 264]
  | .qrsv a np t => [wordOf 3 21 a.code 13 np t.code]
  | .qpost a => [wordOf 3 22 a.code 13 0 264]
  | .qtake a np t => [wordOf 3 23 a.code 13 np t.code]
  | .qfree a => [wordOf 3 24 a.code 13 0 264]
  | .qstat a t => [wordOf 3 25 a.code 13 0 t.code]
  | .dcopyG2p a ch t => [wordOf 3 26 a.code 13 (ch * 32) t.code]
  | .dcopyP2g a ch t => [wordOf 3 26 a.code 13 (4 + ch * 32) t.code]
  | .dcopyP2p a ch t => [wordOf 3 26 a.code 13 (8 + ch * 32) t.code]
  | .dcopyP2t a ch t => [wordOf 3 26 a.code 13 (12 + ch * 32) t.code]
  | .dcopyApp a ch t => [wordOf 3 26 a.code 13 (16 + ch * 32) t.code]
  | .dgath a b ch t => [wordOf 3 27 a.code b.code (ch * 32) t.code]
  | .dscat a b ch t => [wordOf 3 28 a.code b.code (ch * 32) t.code]
  | .dhop a ch t => [wordOf 3 29 a.code 13 (ch * 32) t.code]
  | .dbcst a ch tm t => [wordOf 3 30 a.code 13 (ch * 32 + boolCode tm * 16) t.code]
  | .dred a ch o i32 t => [wordOf 3 31 a.code 13 (ch * 32 + o.code * 8 + boolCode i32 * 4) t.code]
  | .mma a pr ta tb chn t => [wordOf 3 32 a.code 13 (pr.code * 8 + boolCode ta * 4 + boolCode tb * 2 + boolCode chn) t.code]
  | .mzero a t => [wordOf 3 33 a.code 13 0 t.code]
  | .mdrn a bias act rq amx tr t => [wordOf 3 34 a.code 13 (boolCode bias * 64 + boolCode act * 32 + boolCode rq * 16 + boolCode amx * 8 + boolCode tr * 4) t.code]
  | .mlda a b t => [wordOf 3 35 a.code b.code 0 t.code]
  | .etld a b t => [wordOf 3 36 a.code b.code 0 t.code]
  | .fold a b t => [wordOf 3 37 a.code b.code 0 t.code]
  | .ffin a t => [wordOf 3 38 a.code 13 0 t.code]
  | .ncfg a t => [wordOf 3 39 a.code 13 0 t.code]
  | .brcfg a t => [wordOf 3 40 a.code 13 0 t.code]
  | .brcfgStat a t => [wordOf 3 40 a.code 13 64 t.code]
  | .reinld a b t => [wordOf 3 41 a.code b.code 0 t.code]
  | .sendx a b seg pol eor t => [wordOf 3 44 a.code b.code (boolCode seg * 64 + boolCode pol * 32 + boolCode eor * 16) t.code]
  | .cancel a t => [wordOf 3 45 a.code 13 0 t.code]
  | .commit a nul t => [wordOf 3 46 a.code 13 (boolCode nul * 64) t.code]
  | .ctxa a th t => [wordOf 3 47 a.code 13 (boolCode th * 64) t.code]
  | .ctxf a self => [wordOf 3 48 a.code 13 (boolCode self * 64) 264]
  | .spawn a b th hv t => [wordOf 3 49 a.code b.code (boolCode th * 64 + boolCode hv * 32) t.code]
  | .launch a t => [wordOf 3 50 a.code 13 0 t.code]
  | .mts a n => [wordOf 3 51 a.code 13 n 264]
  | .trap a code => [wordOf 3 52 a.code 13 code 264]
  | .brk code => [wordOf 3 53 13 13 code 264]
  | .eres a b rep ent hold t => [wordOf 3 54 a.code b.code (boolCode rep * 64 + ent * 16 + boolCode hold * 8) t.code]
  | .esc a t => [wordOf 3 55 a.code 13 0 t.code]
  | .ekill a t => [wordOf 3 56 a.code 13 0 t.code]
  | .mfsr a t => [wordOf 3 57 a.code 13 0 t.code]
  | .mtsr a b t => [wordOf 3 57 a.code b.code 1 t.code]
  | .tbi a t => [wordOf 3 57 a.code 13 2 t.code]
  | .shinv a t => [wordOf 3 57 a.code 13 3 t.code]
  | .plbc a t => [wordOf 3 57 a.code 13 4 t.code]
  | .prbld a b t => [wordOf 3 57 a.code b.code 5 t.code]
  | .cfgld a b t => [wordOf 3 57 a.code b.code 6 t.code]
  | .gait a t => [wordOf 3 57 a.code 13 7 t.code]
  | .idle t => [wordOf 3 57 13 13 8 t.code]
  | .park a t => [wordOf 3 57 a.code 13 9 t.code]
  | .sqEnd code => [0 + code]
  | .sqCfg gt region => [268435456 + gt * 2 ^ 8 + region]
  | .sqRun ing edge async => [536870912 + boolCode ing * 2 ^ 27 + edge * 2 ^ 21 + boolCode async * 2 ^ 20]
  | .sqIf hv sense target va hva =>
    [3 * 2 ^ 28 + boolCode hv * 2 ^ 27 + boolCode sense * 2 ^ 26 + target, va % 2 ^ 32, va / 2 ^ 32] ++
      (if hv then [hva % 2 ^ 32, hva / 2 ^ 32] else [])
  | .sqJmp target => [1073741824 + target]
  | .sqBar => [1342177280]
  | .sqGait gt => [1610612736 + gt]
  | .sqSig iter dest value => [7 * 2 ^ 28 + iter, dest * 2 ^ 9, value]
  | .reservedOpcode => []
  | .reservedSequencerWord => []
  | .ticketOrder => []
  | .groomInboxArrival => []
  | .sttDiscard _ _ _ => []
  | .connectionManager _ _ _ => []
  | .mrlPlaneUp _ => []
  | .powerLoss => []

/-- The instruction that the decoder reads from an instruction whose bits are `w`, the bits above `nbits` zero: a block word
where it is one, else a sequencer word (log entry 6). -/
def decodeTableWord (nbits w : Nat) : Option Instr :=
  let v := w % 2 ^ nbits
  let ws := [v % 2 ^ 32, v / 2 ^ 32 % 2 ^ 32, v / 2 ^ 64 % 2 ^ 32, v / 2 ^ 96 % 2 ^ 32, v / 2 ^ 128 % 2 ^ 32]
  match decodeBlock (ws.getD 0 0) (ws.getD 1 0) with
  | .ok i => some i
  | .error _ =>
    match decodeSeq ws with
    | .ok (i, _) => some i
    | .error _ => none

end Sys2Proof
end

