-- ==== Sys2Proof/Machine/State.lean ====
section
/-! DEFINITION. The state of one package (log entry 1), as plain data, with the outcomes that are no next state, and the
state right after reset. Tables that the spec keys by number are association lists with strictly rising keys. -/

namespace Sys2Proof.Machine

/-- Data by number: keys strictly rising, an absent key holds the table's empty entry. -/
abbrev Store (α : Type) := List (Nat × α)

/-- What the turn now taken is about: tile and element for an issue, the subject of an event as its constructor's docstring in
Syntax.lean says. The model's own (log entry 2). -/
structure Occasion where
  a : Nat
  b : Nat
  c : Nat
  deriving DecidableEq, Repr

/-- A turn of the machine (log entry 2): an element issues, the sequencer of a launch performs a word, or an event happens. -/
inductive Turn where
  | issue (tile elem : Nat)
  | seq (q : Nat)
  | event (i : Instr) (o : Occasion)
  deriving DecidableEq, Repr

/-- The token header (R181). -/
structure Header where
  ctx : Nat
  iter : Nat
  seg : Nat
  wm1 : Nat
  pol : Nat
  nrm : Bool
  str : Bool
  can : Bool
  eor : Bool
  slot : Nat
  deriving DecidableEq, Repr

/-- A destination (R187, R189); `tile` is a launch tile number. -/
structure Dest where
  tile : Nat
  elem : Nat
  vc : Nat
  slot : Nat
  deriving DecidableEq, Repr

/-- A configured port (R186), its list (R187) resolved. -/
structure Port where
  top : Nat
  dests : List Dest
  deriving DecidableEq, Repr

/-- Pen table entry (R52). -/
structure Pen where
  asid : Nat
  gen : Nat
  tm : Bool
  trg : Nat
  eng : Nat
  own : Bool
  size : Nat
  base : Nat
  deriving DecidableEq, Repr

/-- A registered waiter of a trough (R61). `dray` holds the waiting operation's id. -/
inductive Waiter where
  | pe (take : Bool) (elem rank ctx iter blk pos port : Nat)
  | dray (take : Bool) (op : Nat)
  deriving DecidableEq, Repr

/-- Trough descriptor (R57), with the marks of R59 and R293: posted, freed and void slots not yet moved. -/
structure Trough where
  pen0 : Nat
  nslot : Nat
  pkind : Nat
  ckind : Nat
  free : Nat
  rsvd : Nat
  filled : Nat
  taken : Nat
  nxr : Nat
  nxp : Nat
  nxt : Nat
  nxf : Nat
  posted : List Nat
  freed : List Nat
  voids : List Nat
  waiters : List Waiter
  deriving DecidableEq, Repr

/-- Storage plan (R50) of a tile. -/
structure Plan where
  stash : Nat
  loft : Nat
  ntrg : Nat
  plog2 : Nat
  wlog2 : Nat
  deriving DecidableEq, Repr

/-- Frame plan (R72). -/
structure FPlan where
  nblk : Nat
  flog2 : Nat
  fslog2 : Nat
  deriving DecidableEq, Repr

/-- Stage table entry (R169). -/
structure Stage where
  minpe : Nat
  inipe : Nat
  depth : Nat
  deriving DecidableEq, Repr

/-- Block table entry (R170), or groom block table entry (R171) with `stage` and `pemask` zero. -/
structure Block where
  iaddr : Nat
  slot0 : Nat
  nin : Nat
  vc : Nat
  stage : Nat
  pemask : Nat
  cfl : Nat
  cfn : Nat
  deriving DecidableEq, Repr

/-- A frame-store slot that holds a token (R69). -/
structure Slot where
  lanes : Lanes
  seg : Nat
  pol : Nat
  nrm : Bool
  str : Bool
  eor : Bool
  wm1 : Nat
  deriving DecidableEq, Repr

/-- One frame position of a window (R71, R402). -/
structure Position where
  it : Nat
  lv : Bool
  rt : Bool
  pk : Bool
  hlt : Bool
  done : Nat
  deriving DecidableEq, Repr

/-- Window state (R71). -/
structure Window where
  low : Nat
  plan : Nat
  pos : Store Position
  deriving DecidableEq, Repr

/-- Context states (R193); FREE is absence. `reserved` is the reservation of R259. -/
inductive CtxState where
  | reserved
  | live
  | ending
  | parked
  deriving DecidableEq, Repr

/-- Context record (R193, R264). `q` is the launch queue index, 4,096 for a supervisor context that no launch owns. -/
structure Ctx where
  st : CtxState
  q : Nat
  asid : Nat
  w : Nat
  bases : List (BitVec 56)
  seq : BitVec 20
  seed : BitVec 64
  parent : Option (BitVec 32)
  uvec : Word
  fmask : Word
  rmode : BitVec 3
  plan : Nat
  iter0 : Nat
  deriving DecidableEq, Repr

/-- A translated address (R25): physical address, memory type, encryption domain. -/
structure Phys where
  pa : Nat
  mt : Nat
  enc : Nat
  deriving DecidableEq, Repr

/-- One lane's access of an operation (R15): `len` bytes at `va`, value to write, and what came of it; `flt` is the cause
times 256 plus the detail of its fault, 0 for none. `rewalked`: its failing translation was walked again (R30). -/
structure Lane where
  lane : Nat
  va : Int
  len : Nat
  data : Nat
  cmp : Nat
  phys : Option Phys
  rewalked : Bool
  fin : Bool
  res : Nat
  flt : Nat
  deriving DecidableEq, Repr

/-- What an operation is (R136, R268, R338, R378). -/
inductive OpKind where
  | ld (z : Size)
  | st (z : Size) (thru : Bool)
  | ldch (base scale count : Nat) (loff : BitVec 16) (node : Nat)
  | pref | sflush | sinv
  | amo (o : AmoOp) | cas (d : Bool) | amosc (o : AmoOp) | amof (o : AmofOp)
  | hreq (k : HKind) (tryIt : Bool) | hrel (k : HKind) | hbind | hunb
  | fence (scope : Nat) | bar (h : Bool) (key : Nat) | wait (l s d m : Nat)
  | give (pen eng : Nat) | qpost (pen : Nat) | qfree (pen : Nat) | stp (taddr : List (Nat × Nat))
  | dcopy (mode ch : Nat) | dgath (ch : Nat) | dscat (ch : Nat) | dhop (ch : Nat) | dbcst (ch : Nat) (tm : Bool)
  | dred (ch : Nat) (o : DredOp) (i32 : Bool)
  | mma (pr : Pair) (ta tb chn : Bool) | mzero | mdrn (bias act rq amx tr : Bool) | mlda | etld | fold | ffin
  | ncfg | brcfg | reinld | prbld
  | tacc (f : Nat) (pen : Nat) | ltld
  | commit (nul : Bool) (port : Port)
  | ctxa (child : Nat) | spawn (child : Nat) (hv : Bool) | ctxf (victim : Nat) | launch
  | mts (n : Nat) (v : Word) | trap (code : Nat) | brk (code : Nat) | amax (n : Nat) (v : Word)
  | eres (rep : Bool) (ent : Nat) (hold : Bool) | esc | ekill
  | mfsr | mtsr | tbi | shinv | plbc | cfgld | gait | idle | park
  deriving DecidableEq, Repr

/-- How far an operation has come. `queued` waits for its translation or its turn at its unit; `ready` may be performed;
`active` is being performed; `absorbed` is a store that the stash holds dirty; `done` has its result and awaits its response;
`failed` has met a fault that is not yet reported; `faulted` is reported and held for ERES or EKILL. -/
inductive Phase where
  | queued | ready | active | absorbed | done | faulted | failed
  deriving DecidableEq, Repr

/-- An operation under way: what a task handed to a port or a unit (R135, R175). `tid` is the issuing task while its block has
not committed, 0 after; `cx` and `emask` are the task's at issue,
`byHandler` a handler task's operation. `cause`, `detail`, `addr` are the failure of phases `failed` and `faulted`; `retried` of an access
whose fault is answered, or of a store that was held behind it: younger stores of the stream wait for it (R157, R416). -/
structure Op where
  id : Nat
  tile : Nat
  elem : Nat
  rank : Nat
  ctx : Nat
  iter : Nat
  blk : Nat
  pos : Nat
  w : Nat
  tid : Nat
  byHandler : Bool
  cx : Ctx
  kind : OpKind
  port : Option Port
  portNo : Nat
  hdr : Header
  emask : List Bool
  a : Lanes
  b : Lanes
  lanes : List Lane
  phase : Phase
  n : Nat
  out : Lanes
  cause : Nat
  detail : Nat
  addr : Nat
  retried : Bool
  deriving DecidableEq, Repr

/-- A commit-buffer entry (R175): an emission with its tag operation applied, a cancel, or an operation. -/
inductive CbEntry where
  | emit (hdr : Header) (lanes : Lanes) (dests : List Dest)
  | op (o : Op)
  deriving DecidableEq, Repr

/-- Kinds of task (R168, R172, R410). -/
inductive TaskKind where
  | frame | handler | groom
  deriving DecidableEq, Repr

/-- The fault record (R369) with what the machine keeps beside it: the frame's rank (R418), whether a frame is concerned, whether it goes to
the supervisor whatever its context asks for (R408), and the operation, row or halted element that ERES resumes. -/
structure FaultRec where
  framed : Bool
  ctx : Nat
  iter : Nat
  rank : Nat
  detail : Nat
  cause : Nat
  escd : Bool
  sup : Bool
  async : Bool
  ftile : Nat
  pos : Nat
  blk : Nat
  addr : Nat
  fseq : Nat
  op : Nat
  row : Nat
  halt : Option Nat
  deriving DecidableEq, Repr

/-- A running task (R173 to R180). Latches by position; `pv` holds a predicate latch's values, `sense` the sense written in
each lane; `armed` the positions whose predicate latch has been targeted. `gives` are the block's GIVEs with pen, holder and
whether consumed; `moves` the block's QPOSTs and QFREEs; `fresh` the contexts reserved. -/
structure Task where
  tid : Nat
  kind : TaskKind
  ctx : Nat
  iter : Nat
  rank : Nat
  blk : Nat
  base : Nat
  len : Nat
  nin : Nat
  sup : Bool
  pos : Nat
  w : Nat
  hdr : Header
  entries : List Lanes
  temps : List Lanes
  latA : Store Lanes
  latB : Store Lanes
  pv : Store Lanes
  sense : Store (List Bool)
  armed : List Nat
  emask : List Bool
  cbuf : List CbEntry
  flags : Astat
  astat : Astat
  cx : Ctx
  gives : List (Nat × Nat × Bool)
  moves : List (Nat × Bool)
  reserved : List Nat
  step : Nat
  frec : Option FaultRec
  deriving DecidableEq, Repr

/-- A PE (0 to 7) or groom core (8) of a tile: its stage (R400), running task, the commit buffer that is releasing, and the one that has
committed behind it (R175); `moved` until the balancer's move of the PE takes effect (R401). -/
structure Pe where
  stage : Option Nat
  run : Option Task
  rel : List CbEntry
  behind : List CbEntry
  moved : Bool
  deriving DecidableEq, Repr

/-- A runnable task (R173, R200). `cls` is its class, `stamp` its stamp, `since` when it entered its class. -/
structure Ready where
  tile : Nat
  kind : TaskKind
  rank : Nat
  ctx : Nat
  iter : Nat
  blk : Nat
  cls : Nat
  stamp : Nat
  since : Nat
  frec : Option FaultRec
  deriving DecidableEq, Repr

/-- A token with its payload. -/
structure Token where
  hdr : Header
  lanes : Lanes
  deriving DecidableEq, Repr

/-- An entry of an output buffer or of another source (R191): destinations not yet accepted, each with how far it is: 0 not yet
sent, 1 on the mesh, 2 refused.
`elem` 0 to 8 are PEs and the groom core; 9 the frame store, 10 the normaliser, 11 the bridle, 12 the commit stage, 13 the
engines, 14 edges, host and sequencer, 15 faults. -/
structure OutEntry where
  id : Nat
  tile : Nat
  elem : Nat
  tok : Token
  pend : List (Dest × Nat)
  deriving DecidableEq, Repr

/-- A token on the mesh (R182): physical tile, rank (R418), and the entry and destination it came from. -/
structure Flight where
  id : Nat
  tile : Nat
  rank : Nat
  dest : Dest
  tok : Token
  entry : Nat
  deriving DecidableEq, Repr

/-- The header of an STT message (R439): `zero` the reserved bits [63:48] and [191:160], `sent` the bytes of the SEND that carries it. -/
structure Stt where
  typ : Nat
  ver : Nat
  len : Nat
  htag : Nat
  zero : Nat
  hca : Nat
  hrkey : Nat
  sent : Nat
  deriving DecidableEq, Repr

/-- What an SPDM response says (R455): the measurements of BOOTREC and of the debug state, the ERROR of UnsupportedRequest, or what the spec does
not give. -/
inductive Attested where
  | measurements (bootrec : List (BitVec 64)) (life level : BitVec 2) (zeroised : Bool)
  | unsupported
  | other
  deriving DecidableEq, Repr

/-- An output or effect towards the host (R440, R443, R455, R459). -/
inductive Reply where
  | completion (qp kind val htag hca hrkey : Nat) (data : List (BitVec 8))
  | readData (qp : Nat) (data : List (BitVec 8))
  | nak (qp : Nat) (invalid : Bool)
  | management (words : List Word)
  | attest (qp htag hca hrkey units : Nat) (content : Attested) (words : List Word)
  | telemetry (clkf : Nat) (soft : Store Nat) (planesDown portsDown : List Nat) (words : List Word)
  deriving DecidableEq, Repr

/-- A pending fault of a tile (R405); without `deliver` a PREEMPT notice for a user handler (R414). -/
structure Pending where
  tile : Nat
  fr : FaultRec
  deliver : Bool
  deriving DecidableEq, Repr

/-- A parked frame (R402, R404): the delivered record, and whether it was passed on by ESC. -/
structure Parked where
  fr : Option FaultRec
  escd : Bool
  deriving DecidableEq, Repr

/-- A stash byte (R65): its value and whether it is dirty. -/
structure StashByte where
  val : BitVec 8
  dirty : Bool
  enc : Nat
  deriving DecidableEq, Repr

/-- A translation buffer entry (R25): page number VA / 2^bits and size in bits (16, 26 or 36), PA of the page and the leaf fields. -/
structure TbEntry where
  asid : Nat
  page : Nat
  bits : Nat
  pa : Nat
  wr : Bool
  ex : Bool
  us : Bool
  gl : Bool
  d : Bool
  mt : Nat
  enc : Nat
  deriving DecidableEq, Repr

/-- A miss-table entry (R26): key, whether D is needed, the operations waiting, whether the walker has been asked,
and whether the walk must start from the root (R30). -/
structure Miss where
  tile : Nat
  asid : Nat
  vpn : Nat
  wr : Bool
  waiters : List Nat
  sent : Bool
  root : Bool
  deriving DecidableEq, Repr

/-- A walk (R27): queued or running, for which key, and whether it must start from the root (R30, R38). -/
structure Walk where
  quad : Nat
  asid : Nat
  vpn : Nat
  wr : Bool
  running : Bool
  root : Bool
  deriving DecidableEq, Repr

/-- A walk-cache entry (R28): the table page that the level-`lvl` index path `path` leads to. -/
structure WalkEntry where
  quad : Nat
  asid : Nat
  lvl : Nat
  path : Nat
  page : Nat
  deriving DecidableEq, Repr

/-- A request in a hitch's FIFO (R145). -/
structure HReq where
  op : Nat
  ctx : Nat
  kind : HKind
  deriving DecidableEq, Repr

/-- An active hitch (R142), by its PA. -/
structure Hitch where
  excl : Option Nat
  shared : List Nat
  abn : Bool
  gseq : BitVec 32
  asid : Nat
  enc : Nat
  fifo : List HReq
  regions : List (Nat × Nat)
  deriving DecidableEq, Repr

/-- A barrier key's open generation (R289) or a DRED instance (R304): the operations that have arrived. -/
structure Meeting where
  q : Nat
  key : Nat
  gen : Nat
  arrived : List (Nat × Nat)
  deriving DecidableEq, Repr

/-- A broadcast under way (R38, R114, R115): its operation and the units that have not acknowledged; `held` lists, for a unit that
has removed its entries, the operations that used one and that it waits for. -/
structure Cast where
  op : Nat
  units : List Nat
  held : Store (List Nat)
  arg : Nat
  deriving DecidableEq, Repr

/-- A write still to be made at a destination tile (R300, R302, R303): its operation, the tile, and the pen with an offset, or
the trough of which a slot is written; `pen` of a trough's slot once it is reserved; `stage` of a hop is 1 once its slot is posted and 2
once it is FILLED; `member` tells the members of a subgroup apart that one tile hosts. -/
structure Remote where
  op : Nat
  tile : Nat
  member : Nat
  slot : Bool
  trough : Nat
  pen : Option Nat
  off : Nat
  stage : Nat
  deriving DecidableEq, Repr

/-- A bale translation buffer entry (R99): the key, the bale entry of 128 bits (0 where its root pointer is invalid) with its
PA, and the sequence entry of 256 bits. -/
structure BaleEntry where
  tile : Nat
  seq : Nat
  lh : Nat
  bidx : Nat
  entry : Nat
  addr : Nat
  sent : Nat
  deriving DecidableEq, Repr

/-- A bale lookup that misses (R99) with the operations that wait for it; `bad` is the PA of an uncorrectable error that one of its reads
has met. -/
structure BaleMiss where
  tile : Nat
  seq : Nat
  lh : Nat
  bidx : Nat
  bad : Option Nat
  waiters : List Nat
  deriving DecidableEq, Repr

/-- A normaliser configuration (R358), or a bridle point (R361, R366); `mode` is MODE or POS. -/
structure RowCfg where
  en : Bool
  mode : Nat
  len : Nat
  eps : Word
  dest : Dest
  nprobe : Nat
  ptb : Nat
  rb : Nat
  hits : Nat
  rows : BitVec 32
  steered : BitVec 32
  cword : Word
  deriving DecidableEq, Repr

/-- A row that a unit holds (R359): unit 0 normaliser, 1 bridle; `conf` its configuration at admission; `held` with its parked frame (R402);
`withdrawn` in the row area of the park slice, from byte `place` of it (R403); `again` while it waits for its admission after a return (R360); `faulted` once its
fault is raised. -/
structure Row where
  id : Nat
  tile : Nat
  rank : Nat
  unit : Nat
  ctx : Nat
  iter : Nat
  sel : Nat
  len : Nat
  w : Nat
  conf : RowCfg
  segs : Store Token
  held : Bool
  withdrawn : Bool
  place : Nat
  again : Bool
  faulted : Bool
  deriving DecidableEq, Repr

/-- A rein slot (R362) with V = 1. -/
structure Rein where
  asid : Nat
  seq : BitVec 20
  deriving DecidableEq, Repr

/-- A trough slot that belongs to a frame (R293): which instruction of a tile's block, or of one of its groom blocks, moved it, and whether by
QTAKE. -/
structure Owned where
  tile : Nat
  rank : Nat
  ctx : Nat
  iter : Nat
  groom : Bool
  blk : Nat
  pos : Nat
  pen : Nat
  take : Bool
  deriving DecidableEq, Repr

/-- Where a launch stands (R390, R396, R398, R417 to R420): in the queue, granted, in a change of gait, being saved, saved and in the
queue again, granted again, ended with its tiles being freed. -/
inductive LaunchState where
  | waiting | running | shrinking | saving | saved | resuming | ending
  deriving DecidableEq, Repr

/-- A task that waits in a launch's pool-wait list (R194). -/
abbrev WaitTask := Ready

/-- The saved state of one launch tile (R421). Keys of tables count from the tile's first one, keys of frame-store tables from the
first slot or window of the launch tile. `commits` are commit buffers that wait with an ERES, ESC or EKILL (R423), `records` and `halts`
the frame records and halt records of the park area. `mine` are the pens, and 1,024 + the troughs, that the launch tile alone has
changed: where it later shares a tile, they are its own (R418). -/
structure SavedTile where
  ltile : Nat
  mine : List Nat
  records : Store Nat
  halts : Store Nat
  slots : Store Slot
  windows : Store Window
  parked : Store Parked
  handlers : List Ready
  pending : List Pending
  halted : Store Task
  haltRecs : Store FaultRec
  resumed : Store Unit
  resuming : Store Unit
  commits : Store (List CbEntry)
  astat : Store Astat
  nxc : Store Nat
  pens : Store Pen
  sram : List Host.Cell
  troughs : Store Trough
  owned : List Owned
  ops : List Op
  acc : Store Word
  next : Store Nat
  lattice : Store Nat
  act : Store (Word × Word)
  alo : Store Word
  ainv : Store Word
  ax : Store Word
  outs : List OutEntry
  ncfg : Store RowCfg
  brcfg : Store RowCfg
  reins : Store Rein
  rein : List Host.Cell
  rows : List Row
  cancels : List Flight
  deriving DecidableEq, Repr

/-- A change of gait under way (R396, R417): the gait, the origin of its rectangle, and whether SQ.GAIT asked for it. -/
structure Aim where
  gait : Nat
  x : Nat
  y : Nat
  bySeq : Bool
  deriving DecidableEq, Repr

/-- A launch in the queue (R386 to R398). `words` its record, `inits` the initial-context array; `cls` the class it stands in, `cls0`
that of its record. `x0`, `y0`, `wd`, `ht` are the full-size rectangle, `gx`, `gy`, `gw`, `gh` the rectangle in force, `route` its map;
`shapes` number, width and height of the image's gaits; `saved` the saved state of its launch tiles as last saved or loaded; `runs` the SQ.RUNs whose barrier is not reached; `ingress` holds the edge ports that inject, with the next iteration, the id of the
token last offered or of the read under way, and the context; `edges` the 128-bit entries; `sig` the token of an SQ.SIG; `grow` a gait that waits to be granted (R396), and
whether SQ.GAIT asked; `host` the QP, the HTAG and whether completions are written. -/
structure Launch where
  st : LaunchState
  words : List Word
  inits : List (List Word)
  asid : Nat
  cls : Nat
  cls0 : Nat
  stamp : Nat
  since : Nat
  plog2 : Nat
  pool : Nat
  x0 : Nat
  y0 : Nat
  wd : Nat
  ht : Nat
  gait : Nat
  gx : Nat
  gy : Nat
  gw : Nat
  gh : Nat
  route : List Nat
  prog : List Word
  pc : Nat
  waiting : Bool
  ended : Bool
  code : Nat
  cause : Nat
  argDone : Bool
  runs : Nat
  ingress : List (Nat × Nat × Nat × Nat)
  edges : List Nat
  first : Nat
  sig : Nat
  granted : Nat
  npre : Nat
  edrop : Nat
  tgrant : Nat
  commitAt : Nat
  aim : Option Aim
  grow : Option (Nat × Bool)
  shapes : List (Nat × Nat × Nat)
  saved : List SavedTile
  savedAt : Nat
  poolWait : List WaitTask
  host : Option (Nat × Stt)
  deriving DecidableEq, Repr

/-- A memory-region entry (R438). -/
structure Region where
  v : Bool
  asid : Nat
  va : Nat
  len : Nat
  rd : Bool
  wr : Bool
  gen : Nat
  deriving DecidableEq, Repr

/-- A queue pair (R437, R446): its port, 0 the host's and 1 to 8 the scale-out ports, its class and ASID, and whether it is in the error state. -/
structure Qp where
  port : Nat
  admin : Bool
  asid : Nat
  err : Bool
  deriving DecidableEq, Repr

/-- A host message that waits for launch intake (R389, R442). -/
inductive HostMsg where
  | launch (qp : Nat) (hd : Stt) (rva : Nat)
  deriving DecidableEq, Repr

/-- DRAM and tile SRAM, their tags and errors (R43, R82, R83, R88 to R90, R456). `sram` holds tile·2^24 + TSA. `latent` are words of DRAM
with an uncorrectable error that nothing has found yet, `single` with a correctable one; `sramLatent` and `soft` are the same for a tile's
storage, keyed as `Ops` keys its words (log entry 14). -/
structure Mem where
  dram : List Host.Cell
  sram : List Host.Cell
  probe : List Host.Cell
  rein : List Host.Cell
  encTag : Store Nat
  keyGen : Store Nat
  badWords : Store Unit
  latent : Store Unit
  single : Store Unit
  sramBad : Store Unit
  sramLatent : Store Unit
  stash : Store StashByte
  stashUse : Store Nat
  stashBad : Store Unit
  soft : Store Unit
  bankPtr : Store Nat
  deriving DecidableEq, Repr

/-- The tables of tiles that CFGLD loads, keyed by tile and index (R50 to R72, R169 to R171, R186, R187, R207), the launch that owns a
tile, the launch tiles it hosts (R397), when it was loaded (R401), and its GAIT register (R264, R381). -/
structure Tables where
  plan : Store Plan
  pens : Store Pen
  troughs : Store Trough
  fplans : Store FPlan
  stages : Store Stage
  blocks : Store Block
  gblocks : Store Block
  lists : Store Dest
  ports : Store Port
  imem : Store Word
  owner : Store Nat
  ltiles : Store (List Nat)
  cfgAt : Store Nat
  gaitReg : Store Nat
  deriving DecidableEq, Repr

/-- Frame stores and runnable tasks (R69 to R76, R172, R200, R293). Slots keyed tile·2^14 + slot, windows by tile·2^14 + window; `cancels` are
the accepted cancels that wait for a running task (R184). -/
structure Frames where
  slots : Store Slot
  slotBad : Store Unit
  windows : Store Window
  ready : List Ready
  inbox : Store (List Token)
  owned : List Owned
  frozen : List Nat
  cancels : List Flight
  deriving DecidableEq, Repr

/-- Faults and handlers (R370, R377, R402 to R412). `busy` of a tile is the inbox slot of the supervisor fault that its groom core has not
finished, times 8, with the number of tokens ahead of it; `haltRecs` the delivered halt records of tasks that have no frame of their own. -/
structure Faults where
  pending : List Pending
  parked : Store Parked
  supq : Store (List FaultRec)
  busy : Store Nat
  fseq : Store (BitVec 32)
  regs : Store Word
  halted : Store Task
  resumed : Store Unit
  resuming : Store Unit
  haltCtx : Store Unit
  haltRecs : Store FaultRec
  deriving DecidableEq, Repr

/-- Translation (R25 to R28). -/
structure Xlate where
  tb : Store (List TbEntry)
  misses : List Miss
  walks : List Walk
  cache : List WalkEntry
  deriving DecidableEq, Repr

/-- Hitches, SC nodes, barriers, collectives and broadcasts (R142 to R160, R289, R304). -/
structure Sync where
  hitches : Store Hitch
  smode : Bool
  smodeNext : Option (Bool × Nat)
  baton : Nat
  stuck : Store Nat
  admitted : List Nat
  bars : List Meeting
  barGen : Store (BitVec 32)
  dreds : List Meeting
  casts : List Cast
  remotes : List Remote
  deriving DecidableEq, Repr

/-- Matrix island, arithmetic tables and the ITER counters (R78 to R80, R256, R328, R340, R264). -/
structure Island where
  acc : Store Word
  accBad : Store Unit
  next : Store Nat
  lattice : Store Nat
  act : Store (Word × Word)
  alo : Store Word
  ainv : Store Word
  ax : Store Word
  nxc : Store Nat
  deriving DecidableEq, Repr

/-- The row units (R358 to R366), keyed tile·4 + configuration or point; rein slots by (tile·4 + point)·64 + slot. -/
structure Rows where
  ncfg : Store RowCfg
  brcfg : Store RowCfg
  reins : Store Rein
  rows : List Row
  deriving DecidableEq, Repr

/-- Sources and mesh (R182, R191). -/
structure Net where
  outs : List OutEntry
  mesh : List Flight
  deriving DecidableEq, Repr

/-- The attention cache's buffers (R99, R104): buffered bales, newest first, cached placement by SEQ·2^16 + group, and PGEN. -/
structure Bales where
  buf : List BaleEntry
  place : Store Nat
  pgen : Store Nat
  missing : List BaleMiss
  deriving DecidableEq, Repr

/-- The Stablemaster (R389 to R396): launches by queue index (one that has ended by a number above them until its tiles are free), the reports of the
agents, the tiles they report busy, the last program served, and the cycle after that of the last admission. `left` keeps the launch tile number of a tile that its
launch has vacated, until the tile is freed or granted. -/
structure Sched where
  launches : Store Launch
  intake : List (Nat × HostMsg)
  hand : List Nat
  reports : Store Nat
  busy : Store Unit
  left : Store Nat
  lastSeq : Nat
  intakeAt : Nat
  reserve : List Nat
  deriving DecidableEq, Repr

/-- Host port and management (R437 to R444). -/
structure HostPort where
  mrt : Store Region
  qps : Store Qp
  replies : List Reply
  tokens : List (Nat × Stt × Nat × Nat)
  recovery : Bool
  waits : List (Nat × Instr)
  deriving DecidableEq, Repr

/-- Device registers, package registers, power, security and links (R95, R377, R403, R447 to R458). -/
structure Dev where
  seqtb : BitVec 40
  seqtn : BitVec 21
  parkb : BitVec 28
  pv : Bool
  pkgid : BitVec 10
  idv : Bool
  bootrec : List (BitVec 64)
  ptrootl : Word
  ptrooth : Word
  life : BitVec 2
  level : BitVec 2
  hen : Bool
  dasid : BitVec 16
  session : Bool
  zeroised : Bool
  qreq : Store Nat
  qcur : Store Nat
  clkf : Nat
  admitCap : Nat
  limit : Nat
  p3 : Bool
  up : Bool
  gated : Store Nat
  planesDown : List Nat
  portsDown : List Nat
  keyEpoch : Store Nat
  portKeys : Store Nat
  flash : List (BitVec 8)
  stackOk : List Nat
  quads : List Nat
  deriving DecidableEq, Repr

/-- What the physical part does at start-up and after: inputs of the machine (log entry 5). Failures are attempt counts. -/
structure Health where
  rom : Bool
  clocks : Nat
  stackFails : Store Nat
  rowFails : Store Nat
  rings : Nat
  image : Bool
  linksDown : List Nat
  portsDown : List Nat
  peersDown : Nat
  fuses : Bool
  measured : Bool
  deriving DecidableEq, Repr

/-- The state of the package. -/
structure State where
  cyc : Nat
  agenda : List Turn
  occ : Occasion
  fresh : Nat
  nextId : Nat
  mem : Mem
  tab : Tables
  frm : Frames
  pe : Store Pe
  flt : Faults
  xl : Xlate
  ops : List Op
  syn : Sync
  ctxs : Store Ctx
  astat : Store Astat
  isl : Island
  rws : Rows
  net : Net
  bal : Bales
  sch : Sched
  host : HostPort
  dev : Dev
  tele : Store Nat
  health : Health
  deriving DecidableEq, Repr

/-- Why the machine stops with a fault. -/
inductive Fault where
  /-- A block instruction is executed while the acting element runs no task; raised by every meaning of a block word. Such a
  state is no state of the machine: SAFE (log entry 2). -/
  | noTask
  /-- The sequencer of a queue index without a running launch performs a word: SAFE (log entry 2). -/
  | noProgram
  deriving DecidableEq, Repr

/-- Why the machine refuses. -/
inductive Refusal where
  /-- The instruction has no meaning yet; raised by its arm of `exec` only: SAFE. -/
  | notModelled (mnemonic : String)
  deriving DecidableEq, Repr

def Mem.empty : Mem :=
  { dram := [], sram := [], probe := [], rein := [], encTag := [], keyGen := [], badWords := [], latent := [], single := [],
    sramBad := [], sramLatent := [], stash := [], stashUse := [], stashBad := [], soft := [], bankPtr := [] }

def Tables.empty : Tables :=
  { plan := [], pens := [], troughs := [], fplans := [], stages := [], blocks := [], gblocks := [], lists := [], ports := [],
    imem := [], owner := [], ltiles := [], cfgAt := [], gaitReg := [] }

def Frames.empty : Frames := { slots := [], slotBad := [], windows := [], ready := [], inbox := [], owned := [], frozen := [], cancels := [] }

def Faults.empty : Faults :=
  { pending := [], parked := [], supq := [], busy := [], fseq := [], regs := [], halted := [], resumed := [], resuming := [], haltCtx := [], haltRecs := [] }

def Xlate.empty : Xlate := { tb := [], misses := [], walks := [], cache := [] }

/-- SMODE is 1 at reset (R160). -/
def Sync.reset : Sync :=
  { hitches := [], smode := true, smodeNext := none, baton := 0, stuck := [], admitted := [], bars := [], barGen := [],
    dreds := [], casts := [], remotes := [] }

def Island.empty : Island :=
  { acc := [], accBad := [], next := [], lattice := [], act := [], alo := [], ainv := [], ax := [], nxc := [] }

def Rows.empty : Rows := { ncfg := [], brcfg := [], reins := [], rows := [] }

def Sched.empty : Sched :=
  { launches := [], intake := [], hand := [], reports := [], busy := [], left := [], lastSeq := 0, intakeAt := 0, reserve := [] }

/-- R95, R377, R403, R447, R450, R452, R454: zero, CLKF 32, limit 3,000 W; LIFE from fuses is DEV (log entry 5). -/
def Dev.reset : Dev :=
  { seqtb := 0, seqtn := 0, parkb := 0, pv := false, pkgid := 0, idv := false, bootrec := List.replicate 11 0, ptrootl := 0,
    ptrooth := 0, life := 1, level := 0, hen := false, dasid := 0, session := false, zeroised := false, qreq := [], qcur := [],
    clkf := 32, admitCap := 32, limit := 3000, p3 := false, up := false, gated := [], planesDown := [], portsDown := [], keyEpoch := [], portKeys := [], flash := [],
    stackOk := [], quads := [] }

/-- All parts good (log entry 5). -/
def Health.good : Health :=
  { rom := true, clocks := 0, stackFails := [], rowFails := [], rings := 0, image := true, linksDown := [], portsDown := [], peersDown := 0,
    fuses := true, measured := true }

/-- The machine right after reset: start-up is due (R449). Log entries 3, 4 and 5 name the values the spec does not give. -/
def State.reset : State :=
  { cyc := 0, agenda := [.event .startup ⟨0, 0, 0⟩], occ := ⟨0, 0, 0⟩, fresh := 0, nextId := 1, mem := Mem.empty,
    tab := Tables.empty, frm := Frames.empty, pe := [], flt := Faults.empty, xl := Xlate.empty, ops := [], syn := Sync.reset,
    ctxs := [], astat := [], isl := Island.empty, rws := Rows.empty, net := ⟨[], []⟩, bal := ⟨[], [], [], []⟩,
    sch := Sched.empty, host := ⟨[], [], [], [], false, []⟩, dev := Dev.reset, tele := [], health := Health.good }

end Sys2Proof.Machine
end

