-- ==== Sys2Proof/Machine/Ops.lean ====
section
/-! DEFINITION. The named operations over the state: stores, bytes, DRAM at home, tasks, frames, sources, and taking a fault
and returning from one (R132, R176, R402 to R412, R374). -/

namespace Sys2Proof.Machine

abbrev Result := Host.Outcome State Fault Refusal

/-! Stores. -/

/-- The entry of a key. -/
def sget {α : Type} : Store α → Nat → Option α
  | [], _ => none
  | (k, v) :: r, n => if k = n then some v else sget r n

/-- The entry of a key, or what an absent key holds. -/
def sgetD {α : Type} (m : Store α) (n : Nat) (d : α) : α := (sget m n).getD d

/-- Sets an entry; keys stay strictly rising. -/
def sset {α : Type} : Store α → Nat → α → Store α
  | [], n, x => [(n, x)]
  | (k, v) :: r, n, x => if n < k then (n, x) :: (k, v) :: r else if n = k then (n, x) :: r else (k, v) :: sset r n x

/-- Removes an entry. -/
def sdel {α : Type} (m : Store α) (n : Nat) : Store α := m.filter (fun p => p.1 != n)

/-- Changes an entry that is present. -/
def smod {α : Type} (m : Store α) (n : Nat) (f : α → α) : Store α :=
  match sget m n with
  | some v => sset m n (f v)
  | none => m

/-- Drops the entries of keys in `[lo, lo + n)`. -/
def sdrop {α : Type} (m : Store α) (lo n : Nat) : Store α := m.filter (fun p => p.1 < lo || lo + n ≤ p.1)

/-- The entries of keys in `[lo, lo + n)`, keys counted from `lo`. -/
def srange {α : Type} (m : Store α) (lo n : Nat) : Store α :=
  (m.filter (fun p => lo ≤ p.1 && p.1 < lo + n)).map (fun p => (p.1 - lo, p.2))

/-- Strictly rising keys. -/
def keysRise {α : Type} : Store α → Bool
  | [] => true
  | [_] => true
  | (k, _) :: (l, v) :: r => decide (k < l) && keysRise ((l, v) :: r)

/-! Bytes: an unlisted address reads as zero and no listed byte is zero (log entry 4). -/

/-- One byte. -/
def mget (m : List Host.Cell) (a : Nat) : BitVec 8 := sgetD m a 0

/-- Writes one byte. -/
def mset (m : List Host.Cell) (a : Nat) (v : BitVec 8) : List Host.Cell := if v = 0 then sdel m a else sset m a v

/-- The canonical form of a memory. -/
def Memory.wf (m : List Host.Cell) : Bool := keysRise m && m.all (fun c => c.2 != 0)

/-- `n` bytes as a little-endian number (R6). -/
def mread (m : List Host.Cell) (a : Nat) : Nat → Nat
  | 0 => 0
  | n + 1 => (mget m a).toNat + 256 * mread m (a + 1) n

/-- Writes the low `n` bytes of a number, little-endian (R6). -/
def mwrite (m : List Host.Cell) (a : Nat) : Nat → Nat → List Host.Cell
  | 0, _ => m
  | n + 1, v => mwrite (mset m a (BitVec.ofNat 8 v)) (a + 1) n (v / 256)

/-- The bytes of a number. -/
def bytesOf : Nat → Nat → List (BitVec 8)
  | 0, _ => []
  | n + 1, v => BitVec.ofNat 8 v :: bytesOf n (v / 256)

/-- A number of its bytes. -/
def ofBytes : List (BitVec 8) → Nat
  | [] => 0
  | b :: r => b.toNat + 256 * ofBytes r

/-- Lists of the naturals below a bound. -/
def upto (n : Nat) : List Nat := List.range n

/-- Replaces element `i` of a list. -/
def lset {α : Type} : List α → Nat → α → List α
  | [], _, _ => []
  | _ :: r, 0, y => y :: r
  | x :: r, i + 1, y => x :: lset r i y

/-- Keeps the first of equal elements. -/
def dedup : List Nat → List Nat
  | [] => []
  | x :: r => x :: (dedup r).filter (· != x)

/-- Two's complement of 32 bits as an integer. -/
def sx32 (w : Word) : Int := w.toInt

/-! Physical map (R11 to R13, R87). -/

/-- 48 GiB. -/
def stackBytes : Nat := 48 * 2 ^ 30

/-- The quadrant whose DRAM row holds the address, if one does (R11). -/
def dramRow (pa : Nat) : Option Nat := if pa / (3 * stackBytes) < 4 then some (pa / (3 * stackBytes)) else none

/-- Stacks of a quadrant that are present (R12). -/
def stacksOf (s : State) (q : Nat) : List Nat := s.dev.stackOk.filter (fun k => k / 3 == q)

/-- R12: a byte of a DRAM row that is present. -/
def dramPresent (s : State) (pa : Nat) : Bool :=
  match dramRow pa with
  | some q => s.dev.quads.contains q && decide (pa % (3 * stackBytes) < stackBytes * (stacksOf s q).length)
  | none => false

/-- The base-die SC window (R11). -/
def inScWindow (pa : Nat) : Bool := decide (2 ^ 40 ≤ pa) && decide (pa < 2 ^ 40 + 2 ^ 26)

/-- The device registers (R11). -/
def inDevice (pa : Nat) : Bool := decide (0x018000000000 ≤ pa) && decide (pa < 0x018400000000)

/-- PA[51]: the remote window (R11). -/
def isRemote (pa : Nat) : Bool := decide (2 ^ 51 ≤ pa)

/-- Where a byte of a DRAM row lies (R87): stack, pseudo-channel, and byte within the pseudo-channel. -/
structure DramPlace where
  stack : Nat
  channel : Nat
  byte : Nat
  deriving DecidableEq, Repr

/-- R87: 4 KiB chunks go round the stacks present, and round the 512 pseudo-channels of each, with the chunk's number in the exclusive or. -/
def dramPlace (s : State) (pa : Nat) : Option DramPlace :=
  (dramRow pa).map (fun q =>
    let o := pa % (3 * stackBytes)
    let c := o / 4096
    let ns := max 1 (stacksOf s q).length
    let n := c / (ns * 512)
    { stack := (stacksOf s q).getD (c % ns) (3 * q), channel := c / ns % 512 ^^^ n % 512, byte := n * 4096 + o % 4096 })

/-- The DRAM controller that holds a byte (R87), 12 for the SC node. -/
def controller (s : State) (pa : Nat) : Nat := (dramPlace s pa).elim 12 (·.stack)

/-- A tile is present when its quadrant is (R2, R3). -/
def quadOf (tile : Nat) : Nat := tile / 16 / 12 * 2 + tile % 16 / 8

def tilePresent (s : State) (tile : Nat) : Bool := decide (tile < 384) && s.dev.quads.contains (quadOf tile)

/-- The lowest tile of a quadrant. -/
def quadTile0 (q : Nat) : Nat := q / 2 * 12 * 16 + q % 2 * 8

/-! Home (R85, R132, R456). -/

/-- The tag of the key in force for a domain. -/
def keyTag (s : State) (dom : Nat) : Nat := dom * 2 ^ 32 + sgetD s.mem.keyGen dom 0 + 1

/-- R456: a byte as its domain reads it. -/
def plainByte (s : State) (dom pa : Nat) : BitVec 8 :=
  match sget s.mem.encTag (pa / 64) with
  | none => mget s.mem.dram pa
  | some t => if t = keyTag s dom then mget s.mem.dram pa else Config.xtsGarble (keyTag s dom) t pa

/-- The live image of an active hitch (R142), word 0 then word 1. -/
def hitchWord (h : Hitch) : Nat :=
  (if h.excl.isSome then 2 ^ 63 else 0) + (if h.abn then 2 ^ 62 else 0) + h.shared.length * 2 ^ 48 + h.fifo.length * 2 ^ 32 +
    h.gseq.toNat + (h.regions.length * 2 ^ 16 + h.asid) * 2 ^ 64

/-- A byte at home: the live image of an active hitch, else memory (R143). -/
def homeByte (s : State) (dom pa : Nat) : BitVec 8 :=
  match sget s.syn.hitches (pa / 64 * 64) with
  | some h => BitVec.ofNat 8 (hitchWord h / 2 ^ (8 * (pa % 64)))
  | none => if inScWindow pa then mget s.mem.dram pa else plainByte s dom pa

/-- R89, R90: a word with an uncorrectable error. -/
def badAt (s : State) (pa : Nat) : Bool := (sget s.mem.badWords (pa / 8)).isSome || (sget s.mem.latent (pa / 8)).isSome

/-- Reads `n` bytes at home; `none` for an uncorrectable error (R89). -/
def homeRead (s : State) (dom pa : Nat) : Nat → Option Nat
  | 0 => some 0
  | n + 1 => if badAt s pa then none else (homeRead s dom (pa + 1) n).map (fun r => (homeByte s dom pa).toNat + 256 * r)

/-- Bytes at home as they stand, whatever their errors. -/
def homeBytes (s : State) (dom pa : Nat) : Nat → Nat
  | 0 => 0
  | n + 1 => (homeByte s dom pa).toNat + 256 * homeBytes s dom (pa + 1) n

/-- R456: a write under another key turns the rest of its 64-byte unit into unrelated bytes. -/
def retag (s : State) (dom pa : Nat) : State :=
  let u := pa / 64
  let t := keyTag s dom
  match sget s.mem.encTag u with
  | none => { s with mem := { s.mem with encTag := sset s.mem.encTag u t } }
  | some t' =>
    if t' = t then s
    else
      let d := (upto 64).foldl (fun m i => mset m (u * 64 + i) (Config.xtsGarble t t' (u * 64 + i))) s.mem.dram
      { s with mem := { s.mem with dram := d, encTag := sset s.mem.encTag u t } }

/-- R7, R404, R427: bytes of the park area that writes do not change: the first 64 of each frame record, and of a halt record all but EMASK,
STEP, ARMED, temporaries and latches. -/
def parkFixed (s : State) (pa : Nat) : Bool :=
  let lo := s.dev.parkb.toNat * 2 ^ 24
  let off := (pa - lo) % 2 ^ 24
  let h := (off - 0x800000) % 32768
  s.dev.pv && decide (lo ≤ pa) && decide (pa < lo + 384 * 2 ^ 24) &&
    (decide (off < 0x800000) && decide (off % 512 < 64) ||
      decide (0x800000 ≤ off) && decide (off < 0x848000) &&
        (decide (h < 8) || decide (12 ≤ h) && decide (h < 16) || decide (0x6B40 ≤ h) && decide (h < 0x7F40)))

/-- The machine's own write of one byte at home; a byte of an active hitch is discarded (R143). -/
def putByte (s : State) (dom pa : Nat) (v : BitVec 8) : State :=
  if (sget s.syn.hitches (pa / 64 * 64)).isSome then s
  else
    let s := if inScWindow pa then s else retag s dom pa
    { s with mem := { s.mem with dram := mset s.mem.dram pa v } }

/-- A write of one byte at home changes nothing where writes do not reach (R7). -/
def homeSet (s : State) (dom pa : Nat) (v : BitVec 8) : State := if parkFixed s pa then s else putByte s dom pa v

/-- Writes the low `n` bytes of a number at home. -/
def homePut (s : State) (dom pa : Nat) : Nat → Nat → State
  | 0, _ => s
  | n + 1, v => homePut (homeSet s dom pa (BitVec.ofNat 8 v)) dom (pa + 1) n (v / 256)

/-- R90: the words that a write of `n` bytes covers whole lose their marks. A write of fewer than 8 bytes leaves an error of its word as it is, one
that nothing has read yet too: the model's choice (log entry 68). -/
def clearBad (s : State) (pa n : Nat) : State :=
  let whole (k : Nat) : Bool := decide (pa ≤ k * 8) && decide (k * 8 + 8 ≤ pa + n)
  { s with mem := { s.mem with
      badWords := s.mem.badWords.filter (fun p => !whole p.1), latent := s.mem.latent.filter (fun p => !whole p.1),
      single := s.mem.single.filter (fun p => !whole p.1) } }

/-- One write at home of the low `n` bytes of `v` (R85). -/
def homeWrite (s : State) (dom pa n v : Nat) : State := clearBad (homePut s dom pa n v) pa n

/-- The machine's own write of the low `n` bytes of a number into the park area. -/
def recordPut (s : State) (pa : Nat) : Nat → Nat → State
  | 0, _ => s
  | n + 1, v => recordPut (putByte s 0 pa (BitVec.ofNat 8 v)) (pa + 1) n (v / 256)

def recordWrite (s : State) (pa n v : Nat) : State := clearBad (recordPut s pa n v) pa n

/-- Writes bytes at home. -/
def homeWriteBytes (s : State) (dom pa : Nat) (bs : List (BitVec 8)) : State := homeWrite s dom pa bs.length (ofBytes bs)

/-! Completions to the host (R440). -/

/-- A completion of a message of a QP with its HTAG, where it asks for one. -/
def answerHost (s : State) (h : Nat × Stt) (kind val : Nat) (data : List (BitVec 8)) : State :=
  if h.2.hrkey != 0 then
    { s with host := { s.host with replies := s.host.replies ++ [.completion h.1 kind val h.2.htag h.2.hca h.2.hrkey data] } }
  else s

/-- A completion where a host message is answered. -/
def answerAny (s : State) (h : Option (Nat × Stt)) (kind val : Nat) (data : List (BitVec 8)) : State :=
  match h with
  | some h => answerHost s h kind val data
  | none => s

/-! Counters and ids. -/

/-- Telemetry counters: number and tile. -/
def count (s : State) (k tile : Nat) : State := { s with tele := sset s.tele (k * 512 + tile) (sgetD s.tele (k * 512 + tile) 0 + 1) }

/-! A tile's SECDED words of 8 bytes (R82, R83). Words of tile SRAM are keyed by address over 8; those of the frame store, of the island's
tables and of the stash above them. -/

/-- The first of the 16 words of a slot of the frame store (R69). -/
def frameWord (slot : Nat) : Nat := 2 ^ 40 + slot * 16
def islandWord (k : Nat) : Nat := 2 ^ 41 + k
def stashWord (k : Nat) : Nat := 2 ^ 60 + k

/-- Reading corrects the single-bit errors of words with keys in `[lo, lo + n)`; the tile counts each (R82). -/
def correctSoft (s : State) (tile lo n : Nat) : State :=
  let hits := s.mem.soft.filter (fun p => decide (lo ≤ p.1) && decide (p.1 < lo + n))
  hits.foldl (fun s p => count { s with mem := { s.mem with soft := sdel s.mem.soft p.1 } } 6 tile) s

/-- Words of tile SRAM that are written whole lose their marks (R83). -/
def clearSram (s : State) (whole : Nat → Bool) : State :=
  { s with mem := { s.mem with
      sramBad := s.mem.sramBad.filter (fun p => !whole p.1), sramLatent := s.mem.sramLatent.filter (fun p => !whole p.1),
      soft := s.mem.soft.filter (fun p => !whole p.1) } }

/-- Words of a slot both of whose lanes are written lose their marks (R83). -/
def clearSlot (s : State) (slot : Nat) (written : Nat → Bool) : State :=
  let whole (k : Nat) : Bool := decide (frameWord slot ≤ k) && decide (k < frameWord (slot + 1)) &&
    written (2 * (k - frameWord slot)) && written (2 * (k - frameWord slot) + 1)
  clearSram { s with frm := { s.frm with slotBad := s.frm.slotBad.filter (fun p => !whole (2 ^ 40 + p.1)) } } whole

/-- The words of a slot that a reader of its token reads: those of the lanes below its W (log entry 14). -/
def slotWords (x : Slot) : Nat := x.wm1 / 2 + 1

/-- A slot's first word with an uncorrectable error among those that are read (R83). -/
def slotError (s : State) (slot : Nat) (x : Slot) : Option Nat :=
  ((upto (slotWords x)).map (frameWord slot + ·)).find? (fun k => (sget s.frm.slotBad (k - 2 ^ 40)).isSome || (sget s.mem.sramLatent k).isSome)

/-- The 8-byte words that `[a, a + n)` covers. -/
def wholeWord (a n k : Nat) : Bool := decide (a ≤ k * 8) && decide (k * 8 + 8 ≤ a + n)

/-- A free value's counter, advanced. -/
def State.tick (s : State) : State := { s with fresh := s.fresh + 1 }

/-! Elements and tasks. -/

/-- PE or groom core of a tile. -/
def peAt (s : State) (tile elem : Nat) : Pe :=
  sgetD s.pe (tile * 9 + elem) { stage := none, run := none, rel := [], behind := [], moved := false }

/-- Entries of both commit buffers of an element that are still releasing. -/
def Pe.held (p : Pe) : List CbEntry := p.rel ++ p.behind

def setPe (s : State) (tile elem : Nat) (p : Pe) : State := { s with pe := sset s.pe (tile * 9 + elem) p }

/-- A task whose block a single step has committed: it stays at its element until its halt takes effect (R429). -/
def Task.spent (τ : Task) : Bool := τ.tid == 0

/-- The task after that commit. -/
def Task.stepped (τ : Task) : Task := { τ with tid := 0, cbuf := [], gives := [], moves := [], reserved := [] }

/-- The running task of the acting element. -/
def State.task? (s : State) : Option Task := (peAt s s.occ.a s.occ.b).run

/-- Replaces the running task of the acting element. -/
def State.setTask (s : State) (τ : Task) : State := setPe s s.occ.a s.occ.b { peAt s s.occ.a s.occ.b with run := some τ }

/-- The acting element runs nothing. -/
def State.dropTask (s : State) : State := setPe s s.occ.a s.occ.b { peAt s s.occ.a s.occ.b with run := none }

/-- No context stands behind a tag: its task is no supervisor's. -/
def absentCtx : Ctx :=
  { st := .ending, q := 4096, asid := 2 ^ 16, w := 1, bases := List.replicate 8 0, seq := 0, seed := 0, parent := none, uvec := 0,
    fmask := 0, rmode := 0, plan := 0, iter0 := 0 }

/-- Context record of a number. -/
def ctxOf (s : State) (c : Nat) : Option Ctx := sget s.ctxs c

/-- Launch tile number of a tile at a rank (R198, R418). -/
def ltileOf (s : State) (tile rank : Nat) : Nat := (sgetD s.tab.ltiles tile []).getD rank 0

/-- A launch has tiles. -/
def Launch.placed (l : Launch) : Bool := l.st != .waiting && l.st != .saved && l.st != .resuming

/-- R197, R397: physical tile and rank of a launch tile number. -/
def placeTile (s : State) (q n : Nat) : Option (Nat × Nat) :=
  match (sget s.sch.launches q).filter Launch.placed with
  | none => none
  | some l =>
    let m := if l.gait = 0 then n else l.route.getD n 0x200
    if 0x200 ≤ m then none
    else
      let t := (l.gy + m / 16) * 16 + l.gx + m % 16
      if m % 16 < l.wd ∧ m / 16 < l.ht ∨ l.gait ≠ 0 then some (t, (sgetD s.tab.ltiles t []).findIdx (· == n)) else none

/-! Frames (R70 to R76). -/

def planOf (s : State) (tile : Nat) : Plan := sgetD s.tab.plan tile { stash := 0, loft := 0, ntrg := 0, plog2 := 6, wlog2 := 0 }

/-- Key of a context's window on a tile at a rank. -/
def winKey (s : State) (tile rank c : Nat) : Nat :=
  let p := planOf s tile
  tile * 2 ^ 14 + rank * 2 ^ p.plog2 + c % 2 ^ p.plog2

def windowOf (s : State) (tile rank c : Nat) : Window := sgetD s.frm.windows (winKey s tile rank c) { low := 0, plan := 0, pos := [] }

def fplanOf (s : State) (tile rank c : Nat) : FPlan :=
  sgetD s.tab.fplans (tile * 16 + (windowOf s tile rank c).plan) { nblk := 0, flog2 := 0, fslog2 := 0 }

/-- R70, R73, R418: key of a frame's slot. -/
def slotKey (s : State) (tile rank c i k : Nat) : Nat :=
  let p := planOf s tile
  let f := fplanOf s tile rank c
  tile * 2 ^ 14 + rank * 2 ^ (p.plog2 + p.wlog2) + c % 2 ^ p.plog2 * 2 ^ p.wlog2 + i % 2 ^ f.flog2 * 2 ^ f.fslog2 + k

def noPosition : Position := { it := 0, lv := false, rt := false, pk := false, hlt := false, done := 0 }

/-- A frame's position state; `none` where another iteration or none holds the position. -/
def positionOf (s : State) (tile rank c i : Nat) : Option Position :=
  match sget (windowOf s tile rank c).pos (i % 2 ^ (fplanOf s tile rank c).flog2) with
  | some p => if p.it = i then some p else none
  | none => none

/-- A frame of a LIVE context inside its window (R74) whose position no token has claimed. -/
def unclaimed (s : State) (tile rank c i : Nat) : Bool :=
  let w := windowOf s tile rank c
  let f := fplanOf s tile rank c
  decide (w.low ≤ i) && decide (i < w.low + 2 ^ f.flog2) && (sget w.pos (i % 2 ^ f.flog2)).isNone && f.nblk != 0 &&
    decide (rank < (sgetD s.tab.ltiles tile []).length) &&
    (ctxOf s c).elim false (fun x => x.st == .live && x.q == sgetD s.tab.owner tile 4096)

/-- R406, R76, R402: the frame has not retired, so that it can be parked: it is live, parked, or still unclaimed in its window. -/
def frameLive (s : State) (tile rank c i : Nat) : Bool :=
  match positionOf s tile rank c i with
  | some p => p.lv || p.pk
  | none => unclaimed s tile rank c i

def setWindow (s : State) (tile rank c : Nat) (w : Window) : State :=
  { s with frm := { s.frm with windows := sset s.frm.windows (winKey s tile rank c) w } }

def setPosition (s : State) (tile rank c i : Nat) (p : Position) : State :=
  let w := windowOf s tile rank c
  setWindow s tile rank c { w with pos := sset w.pos (i % 2 ^ (fplanOf s tile rank c).flog2) p }

/-- Entry slots of a block, all present (R173). -/
def entriesPresent (s : State) (tile rank c i : Nat) (b : Block) : Bool :=
  (upto b.nin).all (fun k => (sget s.frm.slots (slotKey s tile rank c i (b.slot0 + k))).isSome)

/-- A task of the block runs for the frame, or stands halted in it (R425). -/
def running (s : State) (tile rank c i blk : Nat) : Bool :=
  (upto 8).any (fun e => match (peAt s tile e).run with
    | some τ => τ.kind == .frame && τ.rank == rank && τ.ctx == c && τ.iter == i && τ.blk == blk
    | none => false) ||
    s.flt.halted.any (fun p => p.1 / 9 == tile && p.2.kind == .frame && p.2.rank == rank && p.2.ctx == c && p.2.iter == i && p.2.blk == blk)

/-- A task of a frame. -/
def Ready.ofFrame (r : Ready) (tile rank c i : Nat) : Bool := r.tile == tile && r.kind == .frame && r.rank == rank && r.ctx == c && r.iter == i

/-- The block waits to fire for the frame, or its throttled task waits for a context (R173, R194). -/
def isReady (s : State) (tile rank c i blk : Nat) : Bool :=
  let mine (r : Ready) : Bool := r.ofFrame tile rank c i && r.blk == blk
  s.frm.ready.any mine || s.sch.launches.any (fun p => p.2.poolWait.any mine)

/-- A cancel that the frame store has accepted waits for the block's running task (R184). -/
def cancelHeld (s : State) (tile rank c i : Nat) (b : Block) : Bool :=
  s.frm.cancels.any (fun f => f.tile == tile && f.rank == rank && f.tok.hdr.ctx == c && f.tok.hdr.iter == i && f.dest.slot == b.slot0)

/-- The tasks of a frame that wait to fire, or for a context, go; its blocks may become runnable again (R402). -/
def dropTasks (s : State) (tile rank c i : Nat) : State :=
  let keep (l : List Ready) : List Ready := l.filter (fun r => !r.ofFrame tile rank c i)
  { s with
    frm := { s.frm with ready := keep s.frm.ready },
    sch := { s.sch with launches := s.sch.launches.map (fun p => (p.1, { p.2 with poolWait := keep p.2.poolWait })) } }

/-- R173, R402: the block becomes runnable for the frame when its entry slots are present and the frame is not parked; a cancel that waits for its
task comes first (R184). -/
def wake (s : State) (tile rank c i blk : Nat) : State :=
  match sget s.tab.blocks (tile * 256 + blk), positionOf s tile rank c i with
  | some b, some p =>
    if p.lv && !p.pk && entriesPresent s tile rank c i b && !running s tile rank c i blk && !isReady s tile rank c i blk &&
        !cancelHeld s tile rank c i b then
      { s with frm := { s.frm with ready := s.frm.ready ++
          [{ tile := tile, kind := .frame, rank := rank, ctx := c, iter := i, blk := blk, cls := b.vc, stamp := s.cyc,
             since := s.cyc, frec := none }] } }
    else s
  | _, _ => s

/-- Indices of the blocks of a tile. -/
def blocksOf (s : State) (tile : Nat) : List Nat := (srange s.tab.blocks (tile * 256) 256).map (·.1)

/-- Every block of the frame that may run becomes runnable. -/
def wakeFrame (s : State) (tile rank c i : Nat) : State := (blocksOf s tile).foldl (fun s k => wake s tile rank c i k) s

/-- Clears PRS in the entry slots of a block for a frame. -/
def clearEntries (s : State) (tile rank c i : Nat) (b : Block) : State :=
  { s with frm := { s.frm with slots := (upto b.nin).foldl (fun m k => sdel m (slotKey s tile rank c i (b.slot0 + k))) s.frm.slots } }

/-- R76: LOW rises while the position at LOW is retired. LOW counts on past 0xFFFF after the frame of ITER 0xFFFF, so that every later
token of the context is late: the model's choice (log entry 30). -/
def raiseLow (w : Window) (f : Nat) : Nat → Window
  | 0 => w
  | n + 1 =>
    match sget w.pos (w.low % f) with
    | some p => if p.rt && p.it == w.low then raiseLow { w with low := w.low + 1, pos := sdel w.pos (w.low % f) } f n else w
    | none => w

/-- R76: a position that LOW passes is clear: what its slots still hold goes, and a task that has not fired (the model's choice, log entry 49). -/
def clearPosition (s : State) (tile rank c i : Nat) : State :=
  let s := dropTasks s tile rank c i
  { s with frm := { s.frm with slots := sdrop s.frm.slots (slotKey s tile rank c i 0) (2 ^ (fplanOf s tile rank c).fslog2) } }

/-- R76: the frame retires. -/
def retire (s : State) (tile rank c i : Nat) : State :=
  match positionOf s tile rank c i with
  | none => s
  | some p =>
    let s := setPosition s tile rank c i { p with rt := true, lv := false, pk := false, hlt := false }
    let w := windowOf s tile rank c
    let w' := raiseLow w (2 ^ (fplanOf s tile rank c).flog2) 65
    (upto (w'.low - w.low)).foldl (fun s k => clearPosition s tile rank c (w.low + k)) (setWindow s tile rank c w')

/-- R76: one more block of the frame is complete. -/
def countBlock (s : State) (tile rank c i : Nat) : State :=
  match positionOf s tile rank c i with
  | none => s
  | some p =>
    let s := setPosition s tile rank c i { p with done := p.done + 1 }
    if (fplanOf s tile rank c).nblk ≤ p.done + 1 && !p.pk then retire s tile rank c i else s

/-! Sources (R191). -/

/-- A token enters a source's buffer with its destinations pending; a token without destinations is gone at once. -/
def addOut (s : State) (tile elem : Nat) (tok : Token) (ds : List Dest) : State :=
  if ds.isEmpty then s
  else
    { s with nextId := s.nextId + 1, net := { s.net with outs := s.net.outs ++
        [{ id := s.nextId, tile := tile, elem := elem, tok := tok, pend := ds.map (fun d => (d, 0)) }] } }

/-- Lanes that are all invalid. -/
def noLanes : Lanes := List.replicate 32 none

/-- A lane of an operand. -/
def laneOf (x : Lanes) (l : Nat) : Option Word := (x.getD l none)

/-- Lanes at and above a width are not valid (R178). -/
def cutLanes (w : Nat) (x : Lanes) : Lanes := (upto 32).map (fun l => if l < w then laneOf x l else none)

/-- Lane 0 .. of a list of words, the rest invalid. -/
def lanesOf (ws : List Word) : Lanes := (upto 32).map (fun l => ws[l]?)

def plainHeader (c i w slot : Nat) : Header :=
  { ctx := c, iter := i, seg := 0, wm1 := w - 1, pol := 0, nrm := false, str := false, can := false, eor := true, slot := slot }

/-! Operations. -/

def opById (s : State) (id : Nat) : Option Op := s.ops.find? (·.id == id)

def setOp (s : State) (o : Op) : State := { s with ops := s.ops.map (fun x => if x.id == o.id then o else x) }

def dropOp (s : State) (id : Nat) : State := { s with ops := s.ops.filter (·.id != id) }

/-- A new operation, last in issue order. -/
def addOp (s : State) (o : Op) : State := { s with nextId := s.nextId + 1, ops := s.ops ++ [{ o with id := s.nextId }] }

/-- An operation whose commit has numbered it enters at its place in issue order; any other is new. -/
def enterOp (s : State) (o : Op) : State :=
  if o.id = 0 then addOp s { o with tid := 0 }
  else { s with ops := s.ops.takeWhile (fun p => decide (p.id < o.id)) ++ { o with tid := 0 } :: s.ops.dropWhile (fun p => decide (p.id < o.id)) }

/-- The operation fails; it is reported under R34. -/
def failOp (s : State) (o : Op) (cause detail addr : Nat) : State :=
  setOp s { o with phase := .failed, cause := cause, detail := detail, addr := addr }

/-! Supervisor registers of a tile (R377): SIDX resets to 0x3F. -/

def tileReg (s : State) (tile n : Nat) : Word := sgetD s.flt.regs (tile * 16 + n) (if n = 4 then 0x3F else 0)

def setTileReg (s : State) (tile n : Nat) (v : Word) : State :=
  { s with flt := { s.flt with regs := sset s.flt.regs (tile * 16 + n) v } }

/-! Park area (R403, R404). -/

def parkSlice (s : State) (tile : Nat) : Nat := s.dev.parkb.toNat * 2 ^ 24 + tile * 2 ^ 24

/-- The six lanes of a fault record (R369). -/
def recordWords (r : FaultRec) : List Nat :=
  [if r.framed then r.ctx * 2 ^ 16 + r.iter else 0,
   r.detail % 256 * 2 ^ 24 + r.cause * 2 ^ 16 + (if r.escd then 2 ^ 15 else 0) + (if r.async then 2 ^ 14 else 0) + r.ftile,
   r.pos * 256 + r.blk, r.addr % 2 ^ 32, r.addr / 2 ^ 32 % 2 ^ 24, r.fseq]

/-- Key of a parked frame: its first slot. -/
def frameKey (s : State) (tile rank c i : Nat) : Nat := slotKey s tile rank c i 0

def pendingOf (s : State) (tile rank c i : Nat) : Nat :=
  (s.flt.pending.filter (fun p => p.tile == tile && p.fr.framed && p.fr.rank == rank && p.fr.ctx == c && p.fr.iter == i)).length

/-- Rows of the frame in the row area (R404). -/
def withdrawnRows (s : State) (tile rank c i : Nat) : Nat :=
  (s.rws.rows.filter (fun r => r.tile == tile && r.rank == rank && r.ctx == c && r.iter == i && r.withdrawn)).length

/-- The first 64 bytes of a frame record (R404). -/
def frameRecord (s : State) (tile rank c i : Nat) : Nat :=
  let k := frameKey s tile rank c i
  let p := (positionOf s tile rank c i).getD noPosition
  let dl := (sget s.flt.parked k).bind (·.fr)
  let words := match dl with
    | some r => recordWords r
    | none => List.replicate 6 0
  c * 2 ^ 16 + i + (if p.pk then 2 ^ 32 else 0) + (if p.hlt then 2 ^ 33 else 0) + (if dl.isSome then 2 ^ 34 else 0) +
    min 255 (pendingOf s tile rank c i) * 2 ^ 40 + words.foldr (fun w acc => w + 2 ^ 32 * acc) 0 * 2 ^ 64 +
    withdrawnRows s tile rank c i * 2 ^ 256

/-- Writes the frame record at parking (448 bytes of UDATA cleared) or brings it up to date (R404). -/
def writeRecord (s : State) (tile rank c i : Nat) (fresh : Bool) : State :=
  let a := parkSlice s tile + (frameKey s tile rank c i - tile * 2 ^ 14) * 512
  recordWrite s a (if fresh then 512 else 64) (frameRecord s tile rank c i)

/-- Elements of a row's image in the row area. -/
def rowElems (r : Row) : Nat := r.segs.foldl (fun n p => max n ((p.1 + 1) * r.w)) r.len

/-- Rows of a tile's row area (R403): what a row takes there, its FP32 elements and its side entries. -/
def rowTake (r : Row) : Nat := 4 * rowElems r + Config.rowSide r.segs.length

/-- The rows in a tile's row area. -/
def areaRows (s : State) (tile : Nat) : List Row := s.rws.rows.filter (fun r => r.tile == tile && r.withdrawn)

/-- Free stretches of a row area that hold `n` bytes: where each begins, and the bytes it has beyond `n`. -/
def rowGaps (s : State) (tile n : Nat) : List (Nat × Nat) :=
  let rs := areaRows s tile
  (0 :: rs.map (fun r => r.place + rowTake r)).filterMap (fun a =>
    let next := rs.foldl (fun m r => if a < r.place + rowTake r then min m r.place else m) 7823360
    if a + n ≤ next then some (a, next - n - a) else none)

/-- Element SEG × W + l of a row is lane l of segment SEG (R359); a segment of another W breaks the row and has no element. -/
def hasElems (r : Row) (t : Token) : Bool := t.hdr.wm1 + 1 == r.w

/-- A row as it stands in the row area: its elements, the bytes of lanes that are none and of the side entries free (log entry 19). -/
def rowImage (fresh : Nat) (r : Row) : List (BitVec 8) :=
  (upto (rowTake r)).map (fun i =>
    let e := i / 4
    let x : Option Word := if e < rowElems r then (((sget r.segs (e / r.w)).filter (hasElems r)).bind (fun t => laneOf t.lanes (e % r.w))) else none
    x.elim (Config.rowByte fresh i) (fun w => (w >>> (8 * (i % 4))).setWidth 8))

/-- The row area of a tile (R403). -/
def rowArea (s : State) (tile : Nat) : Nat := parkSlice s tile + 0x848000

/-- A row goes to the row area, at a place where no other row stands, if it has room (R402, R403; log entry 19). -/
def withdrawRow (s : State) (r : Row) : State :=
  match rowGaps s r.tile (rowTake r) with
  | [] => s
  | g :: gs =>
    let k := Config.rowPlace s.fresh
    let p := (g :: gs).getD (k % (gs.length + 1)) g
    let place := p.1 + k / (gs.length + 1) % (p.2 + 1)
    let bs := rowImage s.fresh r
    recordWrite { s.tick with rws := { s.rws with rows := s.rws.rows.map (fun (x : Row) =>
        if x.id == r.id then { x with withdrawn := true, place := place } else x) } } (rowArea s r.tile + place) bs.length (ofBytes bs)

/-- A held row goes to the row area; else it stays in its unit's buffer (R402, R403). -/
def moveRow (s : State) (id : Nat) : State :=
  match s.rws.rows.find? (·.id == id) with
  | none => s
  | some r => if r.withdrawn || !r.held then s else withdrawRow s r

/-- A row as a withdrawn one's elements stand in the row area (R403). -/
def areaRow (s : State) (r : Row) : Row :=
  let word (e : Nat) : Word := BitVec.ofNat 32 (homeBytes s 0 (rowArea s r.tile + r.place + 4 * e) 4)
  let seg (n : Nat) (t : Token) : Token :=
    if hasElems r t then { t with lanes := (upto 32).map (fun l => (laneOf t.lanes l).map (fun v => if l < r.w then word (n * r.w + l) else v)) } else t
  if r.withdrawn then { r with segs := r.segs.map (fun p => (p.1, seg p.1 p.2)) } else r

/-- The held rows of a tile that wait for the row area, in order. -/
def moveRows (s : State) (tile : Nat) : State :=
  ((s.rws.rows.filter (fun r => r.tile == tile && r.held && !r.withdrawn)).map (·.id)).foldl moveRow s

/-- R402: parks a frame that is live, or marks the position of one that no token has claimed. -/
def parkFrame (s : State) (tile rank c i : Nat) (hlt : Bool) : State :=
  let mine := if unclaimed s tile rank c i then some { noPosition with it := i } else positionOf s tile rank c i
  match mine with
  | none => s
  | some p =>
    if p.pk then (if hlt then writeRecord (setPosition s tile rank c i { p with hlt := true }) tile rank c i false else s)
    else
      let s := dropTasks (setPosition s tile rank c i { p with pk := true, hlt := hlt }) tile rank c i
      let s := { s with
        rws := { s.rws with rows := s.rws.rows.map (fun r =>
          if r.tile == tile && r.rank == rank && r.ctx == c && r.iter == i then { r with held := true } else r) },
        flt := { s.flt with parked := sset s.flt.parked (frameKey s tile rank c i) { fr := none, escd := false } } }
      writeRecord (moveRows s tile) tile rank c i true

/-! Reporting (R405 to R412). -/

/-- A fault for the supervisor of a tile (R412, R377). -/
def toSupervisor (s : State) (tile : Nat) (r : FaultRec) : State :=
  { s with flt := { s.flt with supq := sset s.flt.supq tile (sgetD s.flt.supq tile [] ++ [r]) } }

def pendingCount (s : State) (tile : Nat) : Nat := (s.flt.pending.filter (·.tile == tile)).length

/-- Queues a fault of a tile for delivery, in order of detection (R405). -/
def enqueueFault (s : State) (tile : Nat) (r : FaultRec) : State :=
  { s with flt := { s.flt with pending := s.flt.pending ++ [{ tile := tile, fr := r, deliver := true }] } }

def bareRecord (tile cause detail addr : Nat) : FaultRec :=
  { framed := false, ctx := 0, iter := 0, rank := 0, detail := detail, cause := cause, escd := false, sup := false, async := true, ftile := tile,
    pos := 0x3F, blk := 0xFF, addr := addr, fseq := 0, op := 0, row := 0, halt := none }

/-- A fault that concerns no frame (R407): to the supervisor of the tile. -/
def frameless (s : State) (tile cause detail addr : Nat) : State :=
  enqueueFault s tile (bareRecord (ltileOf s tile 0) cause detail addr)

/-- R402, R403, R406: a fault of a frame. A live frame is parked and its fault queued; with PV = 0 it goes to tile 0 of the
quadrant without a frame; a frame that is not live leaves it to the supervisor of the tile. -/
def raiseOn (s : State) (tile : Nat) (r : FaultRec) : State :=
  if !frameLive s tile r.rank r.ctx r.iter then enqueueFault s tile { r with framed := false }
  else if !s.dev.pv then enqueueFault s (quadTile0 (quadOf tile)) { r with framed := false }
  else
    let s := parkFrame s tile r.rank r.ctx r.iter false
    let s := enqueueFault s tile r
    writeRecord s tile r.rank r.ctx r.iter false

/-- The tile to whose pending list a fault of a frame goes (R403, R405). -/
def faultTile (s : State) (tile rank c i : Nat) : Nat :=
  if frameLive s tile rank c i && !s.dev.pv then quadTile0 (quadOf tile) else tile

/-- What raises a fault waits while the list it goes to is full (R405): of the tile, or, where frames cannot park, of tile 0 of its quadrant. -/
def fits (tile : Nat) (s' : State) : Option State :=
  if pendingCount s' tile ≤ 1024 && decide (pendingCount s' (quadTile0 (quadOf tile)) ≤ 1024) then some s' else none

/-- An event whose faults find room; else it waits as it stands. -/
def orWait (tile : Nat) (s s' : State) : State := (fits tile s').getD s

/-- The list of 1,024 entries that a fault of a frame goes to has room (R405). -/
def faultRoom (s : State) (tile rank c i : Nat) : Bool := decide (pendingCount s (faultTile s tile rank c i) < 1024)

/-- A fault from a token, an entry or a row (R407): BLK 0xFF and POS 0x3F. -/
def raiseFrame (s : State) (tile rank c i cause detail addr : Nat) : State :=
  raiseOn s tile { bareRecord (ltileOf s tile rank) cause detail addr with framed := true, ctx := c, iter := i, rank := rank }

/-! Taking a synchronous fault (R176, R172, R411). -/

/-- R194: the head of the pool-wait list is re-queued at the tail of its class. -/
def requeueHead (s : State) (q : Nat) : State :=
  match sget s.sch.launches q with
  | none => s
  | some l =>
    match l.poolWait with
    | [] => s
    | r :: rest =>
      { s with sch := { s.sch with launches := sset s.sch.launches q { l with poolWait := rest } },
               frm := { s.frm with ready := s.frm.ready ++ [{ r with stamp := s.cyc, since := s.cyc }] } }

/-- A reserved context becomes FREE again (R259), which the first throttled task of its pool waits for (R194). -/
def freeReserved (s : State) (c : Nat) : State :=
  match ctxOf s c with
  | some x => if x.st == .reserved then requeueHead { s with ctxs := sdel s.ctxs c } x.q else s
  | none => s

/-- What a block leaves when it is discarded: its loads are dropped (R177) and its reservations returned (R259). -/
def discardEffects (s : State) (τ : Task) : State :=
  τ.reserved.foldl freeReserved { s with ops := s.ops.filter (fun o => o.tid != τ.tid || o.tid == 0) }

/-! The groom inbox (R172). -/

def inboxOf (s : State) (tile slot : Nat) : List Token := sgetD s.frm.inbox (tile * 512 + slot) []

/-- The groom blocks of a tile. -/
def groomBlocks (s : State) (tile : Nat) : List (Nat × Block) := srange s.tab.gblocks (tile * 64) 64

/-- A task of a groom block waits to fire, waits for a context, or runs. -/
def groomKnown (s : State) (tile blk : Nat) : Bool :=
  let mine (r : Ready) : Bool := r.tile == tile && r.kind == .groom && r.blk == blk
  s.frm.ready.any mine || s.sch.launches.any (fun p => p.2.poolWait.any mine) || (peAt s tile 8).run.elim false (fun τ => τ.blk == blk) ||
    (sget s.flt.halted (tile * 9 + 8)).elim false (fun τ => τ.blk == blk)

/-- The class of a groom block's next task: the block's VC, but SVEC.VC where its first token is a supervisor fault (R412). -/
def groomClass (s : State) (tile : Nat) (b : Block) : Nat :=
  if sget s.flt.busy tile = some (b.slot0 * 8) then bits (tileReg s tile 7).toNat 9 2 else b.vc

/-- A groom block becomes runnable when each of its slots holds a token; its task has the tag of the first. -/
def wakeGroom (s : State) (tile : Nat) : State :=
  (groomBlocks s tile).foldl (fun s p =>
    let there := (upto p.2.nin).all (fun k => !(inboxOf s tile (p.2.slot0 + k)).isEmpty)
    match there && !groomKnown s tile p.1, inboxOf s tile p.2.slot0 with
    | true, t :: _ =>
      { s with frm := { s.frm with ready := s.frm.ready ++
          [{ tile := tile, kind := .groom, rank := 0, ctx := t.hdr.ctx, iter := t.hdr.iter, blk := p.1, cls := groomClass s tile p.2, stamp := s.cyc,
             since := s.cyc, frec := none }] } }
    | _, _ => s) s

/-- The supervisor fault that the groom core has not finished, after the head of a slot's queue has gone (R377). -/
def busyAfter (m : Store Nat) (tile slot : Nat) : Store Nat :=
  match sget m tile with
  | some v => if v / 8 ≠ slot then m else if v % 8 = 0 then sdel m tile else sset m tile (v - 1)
  | none => m

/-- The head tokens of a groom task leave the inbox, and with a supervisor fault's token its handler is done (R172, R377). -/
def dropHeads (s : State) (tile : Nat) (b : Block) : State :=
  let pop (m : Store (List Token)) (k : Nat) : Store (List Token) :=
    match sget m (tile * 512 + b.slot0 + k) with
    | some (_ :: r) => if r.isEmpty then sdel m (tile * 512 + b.slot0 + k) else sset m (tile * 512 + b.slot0 + k) r
    | _ => m
  { s with frm := { s.frm with inbox := (upto b.nin).foldl pop s.frm.inbox },
           flt := { s.flt with busy := (upto b.nin).foldl (fun m k => busyAfter m tile (b.slot0 + k)) s.flt.busy } }

/-- The entry tokens of an ended groom task are consumed; its block may be runnable again (R172). -/
def groomDone (s : State) (tile blk : Nat) : State :=
  match sget s.tab.gblocks (tile * 64 + blk) with
  | some b => wakeGroom (dropHeads s tile b) tile
  | none => s

/-- Cause codes (R407). -/
def causeIllBlock := 0x01
def causeIllOp := 0x02
def causeBadTarget := 0x03
def causeBadSource := 0x04
def causeLaneMismatch := 0x05
def causeDuptag := 0x06
def causeTagExhaust := 0x07
def causeIterWrap := 0x08
def causePriv := 0x09
def causePage := 0x0A
def causeAccess := 0x0B
def causeAlign := 0x0C
def causeOwnViol := 0x0D
def causeTrough := 0x0E
def causeHitch := 0x0F
def causeBale := 0x10
def causeMemUe := 0x11
def causeEngine := 0x12
def causeProbeHit := 0x13
def causeTapOrder := 0x14
def causeWatchdog := 0x15
def causeTrap := 0x16
def causeBrk := 0x17
def causeCfg := 0x18
def causeLink := 0x19
def causeSeqOrder := 0x1A
def causePreempt := 0x1B

/-- The record of a synchronous fault of a task at a position. -/
def syncRecord (s : State) (tile : Nat) (τ : Task) (pos cause detail addr : Nat) : FaultRec :=
  { framed := true, ctx := τ.ctx, iter := τ.iter, rank := τ.rank, detail := detail, cause := cause, escd := false, sup := false, async := false,
    ftile := ltileOf s tile τ.rank, pos := pos, blk := τ.blk, addr := addr, fseq := 0, op := 0, row := 0, halt := none }

/-- GERR (R172, R377) of a groom task's fault. -/
def writeGerr (s : State) (tile : Nat) (cause blk pos slot : Nat) : State :=
  setTileReg s tile 14 (BitVec.ofNat 32 (cause + blk * 2 ^ 8 + pos * 2 ^ 16 + slot * 2 ^ 22 + 2 ^ 31))

/-- ESC (R375): the current record goes to the supervisor with ESCD = 1. -/
def performEsc (s : State) (r : FaultRec) (tile rank : Nat) : State :=
  let r := { r with escd := true }
  let k := frameKey s tile rank r.ctx r.iter
  let s := toSupervisor { s with flt := { s.flt with parked := sset s.flt.parked k { fr := some r, escd := true } } } tile r
  writeRecord s tile rank r.ctx r.iter false

/-- The record that a handler task was given is its frame's current one still (R370). -/
def recordCurrent (s : State) (tile : Nat) (r : FaultRec) : Bool :=
  r.framed && (positionOf s tile r.rank r.ctx r.iter).elim false (·.pk) &&
    ((sget s.flt.parked (frameKey s tile r.rank r.ctx r.iter)).bind (·.fr)).elim false (fun d => d.fseq == r.fseq)

/-- A handler task is discarded: its record passes to the supervisor as ESC would pass it, so that a notice or a record that is not current any
more goes nowhere (R370, R375, R411). -/
def passOn (s : State) (tile : Nat) (τ : Task) : State :=
  match τ.frec with
  | some r => if recordCurrent s tile r then performEsc s r tile r.rank else s
  | none => s

/-- Takes a synchronous fault of the acting element's task (R176): the block is discarded, the frame parked and the fault
queued. A groom task writes GERR and drops its head tokens (R172); a handler task passes its record to the supervisor with
ESCD = 1 (R411). While the list it goes to is full the task stays where it is (R377, R405). -/
def takeFault (s : State) (τ : Task) (pos cause detail addr : Nat) : State :=
  let tile := s.occ.a
  match τ.kind with
  | .groom =>
    let slot := (sget s.tab.gblocks (tile * 64 + τ.blk)).elim 0 (·.slot0)
    count (writeGerr (groomDone (discardEffects s.dropTask τ) tile τ.blk) tile cause τ.blk pos slot) 1 tile
  | .handler =>
    if 64 ≤ (sgetD s.flt.supq tile []).length then s else count (passOn (discardEffects s.dropTask τ) tile τ) 1 tile
  | .frame =>
    if !faultRoom s tile τ.rank τ.ctx τ.iter then s
    else raiseOn (discardEffects s.dropTask τ) tile (syncRecord s tile τ pos cause detail addr)

/-- The class of a task: the virtual channel of its block, 0 for a handler task (R200, R410). -/
def taskClass (s : State) (τ : Task) (tile : Nat) : Nat :=
  match τ.kind with
  | .frame => (sget s.tab.blocks (tile * 256 + τ.blk)).elim 0 (·.vc)
  | .groom => (sget s.tab.gblocks (tile * 64 + τ.blk)).elim 0 (groomClass s tile)
  | .handler => 0

/-- R176, R194: the task is discarded without report; it enters its class again at the tail. -/
def requeueTask (s : State) (τ : Task) (tile : Nat) : Ready :=
  { tile := tile, kind := τ.kind, rank := τ.rank, ctx := τ.ctx, iter := τ.iter, blk := τ.blk,
    cls := taskClass s τ tile, stamp := s.cyc, since := s.cyc, frec := τ.frec }

/-- Why an instruction ends its task, other than by completing. -/
inductive Stop where
  | fault (cause detail addr : Nat)
  | throttle (requeue : Bool)
  | trough (n : Nat) (w : Waiter)
  deriving DecidableEq, Repr

/-- A discarded task waits to fire again, where it is a frame's while the frame is live and not parked and no cancel waits for its block (R184,
R402). -/
def mayRequeue (s : State) (r : Ready) : Bool :=
  r.kind != .frame || (positionOf s r.tile r.rank r.ctx r.iter).elim false (fun p => p.lv && !p.pk) &&
    (sget s.tab.blocks (r.tile * 256 + r.blk)).elim false (fun b => !cancelHeld s r.tile r.rank r.ctx r.iter b)

/-- R194, R61: how the task ends at a throttle or at a trough. On a frozen tile a throttled task goes back to its frame (R417). -/
def endTask (s : State) (τ : Task) : Stop → State
  | .fault cause detail addr => takeFault s τ τ.pos cause detail addr
  | .throttle requeue =>
    let tile := s.occ.a
    let r := requeueTask s τ tile
    let s := discardEffects s.dropTask τ
    if !mayRequeue s r then s
    else if requeue || s.frm.frozen.contains tile then { s with frm := { s.frm with ready := s.frm.ready ++ [r] } }
    else
      match sget s.sch.launches τ.cx.q with
      | some l =>
        if l.poolWait.length < 1024 then
          { s with sch := { s.sch with launches := sset s.sch.launches τ.cx.q { l with poolWait := l.poolWait ++ [r] } } }
        else { s with frm := { s.frm with ready := s.frm.ready ++ [r] } }
      | none => { s with frm := { s.frm with ready := s.frm.ready ++ [r] } }
  | .trough n w =>
    let tile := s.occ.a
    let s := discardEffects s.dropTask τ
    let s := match τ.kind with
      | .frame => (sget s.tab.blocks (tile * 256 + τ.blk)).elim s (clearEntries s tile τ.rank τ.ctx τ.iter)
      | .groom => groomDone s tile τ.blk
      | .handler => s
    { s with tab := { s.tab with troughs := smod s.tab.troughs (tile * 64 + n) (fun t => { t with waiters := t.waiters ++ [w] }) } }

/-! Delivery (R408 to R413) and return (R374 to R376). -/

/-- R409, R413: the paddock form's destination. -/
def paddockDest (u : Word) : Dest := { tile := bits u.toNat 21 9, elem := 0, vc := 3, slot := bits u.toNat 12 9 }

/-- R413: a block with VC 3 has its SLOT0 at PSLOT on PTILE. -/
def paddockGood (s : State) (q : Nat) (u : Word) : Bool :=
  match placeTile s q (paddockDest u).tile with
  | some (t, _) => (srange s.tab.blocks (t * 256) 256).any (fun p => p.2.slot0 == (paddockDest u).slot && p.2.vc == 3)
  | none => false

/-- R410: the handler block has V = 1, NIN = 1 and SUP = 0. -/
def handlerGood (s : State) (tile bix : Nat) : Bool :=
  match sget s.tab.blocks (tile * 256 + bix) with
  | some b => b.nin == 1 &&
      (upto 8).any (fun e => bit b.pemask e && !bit (sgetD s.tab.imem (tile * 2 ^ 18 + e * 2 ^ 14 + b.iaddr) 0).toNat 23)
  | none => false

/-- R408: the fault's receiver: 0 supervisor, 1 user handler, 2 paddock. -/
def receiver (s : State) (tile : Nat) (r : FaultRec) : Nat :=
  match ctxOf s r.ctx with
  | none => 0
  | some c =>
    let u := c.uvec.toNat
    if !r.framed || r.escd || r.sup || !bit u 31 || !bit c.fmask.toNat r.cause || r.cause == 0 || decide (27 < r.cause) then 0
    else if bit u 30 then (if paddockGood s c.q c.uvec then 2 else 0)
    else if handlerGood s tile (u % 256) then 1 else 0

/-- Handlers waiting in a tile's inbox (R410). -/
def handlerCount (s : State) (tile : Nat) : Nat := (s.frm.ready.filter (fun r => r.tile == tile && r.kind == .handler)).length

/-- Records the delivered fault with its frame, numbered in delivery order (R370). -/
def markDelivered (s : State) (tile : Nat) (r : FaultRec) : State × FaultRec :=
  let n := sgetD s.flt.fseq tile 0
  let r := { r with fseq := n.toNat }
  let s := { s with flt := { s.flt with fseq := sset s.flt.fseq tile (n + 1) } }
  if r.framed then
    let k := frameKey s tile r.rank r.ctx r.iter
    (writeRecord { s with flt := { s.flt with parked := sset s.flt.parked k { fr := some r, escd := false } } } tile r.rank r.ctx r.iter false, r)
  else
    match r.halt with
    | some e => ({ s with flt := { s.flt with haltRecs := sset s.flt.haltRecs (tile * 9 + e) r } }, r)
    | none => (s, r)

/-- Delivers a fault to its one first receiver (R408). -/
def deliverFault (s : State) (tile : Nat) (r : FaultRec) : State :=
  let rcv := receiver s tile r
  let (s, r) := markDelivered s tile r
  match rcv with
  | 1 =>
    let bix := (ctxOf s r.ctx).elim 0 (fun c => c.uvec.toNat % 256)
    { s with frm := { s.frm with ready := s.frm.ready ++
        [{ tile := tile, kind := .handler, rank := r.rank, ctx := r.ctx, iter := r.iter, blk := bix, cls := 0, stamp := s.cyc,
           since := s.cyc, frec := some r }] } }
  | 2 =>
    let u := (ctxOf s r.ctx).elim 0 (·.uvec)
    let d := paddockDest u
    let ws := (recordWords r ++ [0, 0]).map (BitVec.ofNat 32)
    addOut s tile 15 { hdr := plainHeader r.ctx r.iter 8 d.slot, lanes := lanesOf ws } [d]
  | _ => toSupervisor s tile r

/-- The fault of a frame is no longer delivered (R370): the frame leaves the park area. The position of a frame that no token
has claimed is free again. -/
def unpark (s : State) (tile rank c i : Nat) : State :=
  match positionOf s tile rank c i with
  | none => s
  | some p =>
    let s := { s with flt := { s.flt with parked := sdel s.flt.parked (frameKey s tile rank c i) } }
    let s := setPosition s tile rank c i { p with pk := false, hlt := false }
    let s := writeRecord s tile rank c i false
    if !p.lv then
      let w := windowOf s tile rank c
      setWindow s tile rank c { w with pos := sdel w.pos (i % 2 ^ (fplanOf s tile rank c).flog2) }
    else if (fplanOf s tile rank c).nblk ≤ p.done then retire s tile rank c i
    else s

/-- A frame whose delivered fault is answered has another one pending (R405). -/
def morePending (s : State) (tile rank c i : Nat) : Bool := decide (0 < pendingOf s tile rank c i)

end Sys2Proof.Machine
end

