-- ==== Sys2Proof/Machine/Operands.lean ====
section
/-! DEFINITION. Operand forms: sources, the lanes that execute, targets, emissions with their tag operation, and the frame of
every block instruction (R178 to R180, R190, R210 to R212). -/

namespace Sys2Proof.Machine

/-- What a body answers. -/
abbrev Body (α : Type) := Except Stop α

def stop {α : Type} (cause addr : Nat) : Body α := .error (.fault cause 0 addr)

/-- Continues when a check holds. -/
def check (c : Bool) (cause : Nat) (addr : Nat := 0) : Body Unit := if c then .ok () else stop cause addr

/-- Lanes by a function of the lane number. -/
def mkLanes (f : Nat → Option Word) : Lanes := (List.range 32).map f

/-- The value of a source (R178, R210); `second` when the field is SB. -/
def readSrc (τ : Task) (second : Bool) : Src → Lanes
  | .t k => τ.temps.getD k noLanes
  | .latch => sgetD (if second then τ.latB else τ.latA) τ.pos noLanes
  | .e k => τ.entries.getD k noLanes
  | .zero => mkLanes (fun l => if l < τ.w then some 0 else none)
  | .lid => mkLanes (fun l => if l < τ.w then some (BitVec.ofNat 32 l) else none)
  | .tag => mkLanes (fun l => if l < τ.w then some (BitVec.ofNat 32 (τ.ctx * 2 ^ 16 + τ.iter)) else none)

/-- Latch A and latch B of the instruction's own position. -/
def latchA (τ : Task) : Lanes := sgetD τ.latA τ.pos noLanes
def latchB (τ : Task) : Lanes := sgetD τ.latB τ.pos noLanes

/-- R179: the predicate lets a lane below W execute. -/
def predOk (τ : Task) (l : Nat) : Bool :=
  decide (l < τ.w) &&
    (!τ.armed.contains τ.pos ||
      match laneOf (sgetD τ.pv τ.pos noLanes) l with
      | some v => (v != 0) == (sgetD τ.sense τ.pos []).getD l true
      | none => false)

/-- A source code that the block has (R210). -/
def srcOk (τ : Task) : Src → Bool
  | .e k => decide (k < τ.nin)
  | _ => true

/-- Word `k` of the task's block. -/
def blockWord (s : State) (τ : Task) (tile elem k : Nat) : Word := sgetD s.tab.imem (tile * 2 ^ 18 + elem * 2 ^ 14 + τ.base + 1 + k) 0

/-- Whether position `p` of the block is a literal word (R208). -/
def literalAt (s : State) (τ : Task) (p : Nat) : Bool :=
  (List.range p).foldl (fun lit k => !lit && (blockWord s τ s.occ.a s.occ.b k).toNat / 2 ^ 24 == 0x82) false

/-- Key of a port of the acting element (R186). -/
def portKey (s : State) (n : Nat) : Nat := (s.occ.a * 9 + s.occ.b) * 128 + n

def portAt (s : State) (n : Nat) : Option Port := sget s.tab.ports (portKey s n)

/-- R211: a latch position that the target may name. -/
def latchOk (s : State) (τ : Task) (p : Nat) : Bool := decide (τ.pos < p) && decide (p ≤ τ.len) && !literalAt s τ p

def targetOk (s : State) (τ : Task) : Target → Bool
  | .latA p => latchOk s τ p
  | .latB p => latchOk s τ p
  | .onTrue p => latchOk s τ p
  | .onFalse p => latchOk s τ p
  | .port n => (portAt s n).isSome
  | _ => true

def checkSrc (τ : Task) (x : Src) : Body Unit := check (srcOk τ x) causeBadSource
def checkTarget (s : State) (τ : Task) (t : Target) : Body Unit := check (targetOk s τ t) causeBadTarget t.code

/-- A target that must be a port (R269). -/
def needPort (s : State) (τ : Task) (t : Target) : Body Nat :=
  match t with
  | .port n => do checkTarget s τ t; .ok n
  | _ => stop causeBadTarget t.code

/-- A port or the discard target. -/
def portOrDiscard (s : State) (τ : Task) (t : Target) : Body (Option Nat) :=
  match t with
  | .port n => do checkTarget s τ t; .ok (some n)
  | .discard => .ok none
  | _ => stop causeBadTarget t.code

/-- Lanes of `new` where it is valid, of `old` elsewhere (R179). -/
def merge (old new : Lanes) : Lanes := mkLanes (fun l => (laneOf new l).orElse (fun _ => laneOf old l))

/-- The emission's lanes: executed and enabled by EMASK (R180). -/
def emitLanes (τ : Task) (v : Lanes) : Lanes := mkLanes (fun l => if τ.emask.getD l false then laneOf v l else none)

def anyLane (v : Lanes) : Bool := v.any (·.isSome)

/-- The context is LIVE in the launch's pool (R190). -/
def liveIn (s : State) (q c : Nat) : Bool :=
  match ctxOf s c with
  | some x => x.st == .live && x.q == q
  | none => false

/-- R190: the tag of an emission, or the cause of its fault. `lane0` is lane 0 of the value. -/
def tagOp (s : State) (q c i : Nat) (parent : Option (BitVec 32)) (top : Nat) (lane0 : Option Word) : Except Nat (Nat × Nat) :=
  match top with
  | 0 => .ok (c, i)
  | 1 => if i = 0xFFFF then .error causeIterWrap else .ok (c, i + 1)
  | 2 => .ok (c, 0)
  | 3 =>
    match parent with
    | some p => .ok (p.toNat / 2 ^ 16, p.toNat % 2 ^ 16)
    | none => .error causeBadTarget
  | 4 =>
    match lane0 with
    | some v => if liveIn s q (v.toNat % 2 ^ 16) then .ok (v.toNat % 2 ^ 16, i) else .error causeBadTarget
    | none => .error causeBadTarget
  | _ =>
    match lane0 with
    | some v => .ok (c, v.toNat % 2 ^ 16)
    | none => .error causeBadTarget

/-- The tag operation of a port applied to a task's emission; its fault carries the 9-bit target. -/
def tagFor (s : State) (τ : Task) (n : Nat) (p : Port) (lane0 : Option Word) : Body (Nat × Nat) :=
  match tagOp s τ.cx.q τ.ctx τ.iter τ.cx.parent p.top lane0 with
  | .ok t => .ok t
  | .error c => stop c (if c = causeBadTarget then 384 + n else 0)

/-- The emission's header: from e0 of the task, its tag and width set (R181). -/
def emitHeader (τ : Task) (t : Nat × Nat) (w : Nat) : Header := { τ.hdr with ctx := t.1, iter := t.2, wm1 := w - 1, can := false }

/-- Emits lanes on port `n` with the header changed by `h` (R180); an empty mask enters nothing. -/
def emitWith (s : State) (τ : Task) (n : Nat) (v : Lanes) (h : Header → Header) : Body Task :=
  match portAt s n with
  | none => stop causeBadTarget (384 + n)
  | some p =>
    let m := emitLanes τ v
    if anyLane m then do
      let t ← tagFor s τ n p (laneOf v 0)
      .ok { τ with cbuf := τ.cbuf ++ [.emit (h (emitHeader τ t τ.w)) m p.dests] }
    else .ok τ

/-- A cancel for port `n` (R249): to its ELEM 0 destinations. -/
def emitCancel (s : State) (τ : Task) (n : Nat) (lane0 : Option Word) : Body Task :=
  match portAt s n with
  | none => stop causeBadTarget (384 + n)
  | some p => do
    let t ← tagFor s τ n p lane0
    .ok { τ with cbuf := τ.cbuf ++ [.emit { emitHeader τ t τ.w with can := true } noLanes (p.dests.filter (·.elem == 0))] }

/-- A predicate latch receives values with a sense (R211). -/
def writePred (τ : Task) (p : Nat) (v : Lanes) (sense : Bool) : Task :=
  let old := sgetD τ.sense p []
  { τ with pv := sset τ.pv p (merge (sgetD τ.pv p noLanes) v),
           sense := sset τ.sense p ((List.range 32).map (fun l => if (laneOf v l).isSome then sense else old.getD l true)),
           armed := if τ.armed.contains p then τ.armed else τ.armed ++ [p] }

/-- Writes executed lanes to a target (R179, R211). -/
def put (s : State) (τ : Task) (t : Target) (v : Lanes) : Body Task :=
  match t with
  | .latA p => .ok { τ with latA := sset τ.latA p (merge (sgetD τ.latA p noLanes) v) }
  | .latB p => .ok { τ with latB := sset τ.latB p (merge (sgetD τ.latB p noLanes) v) }
  | .onTrue p => .ok (writePred τ p v true)
  | .onFalse p => .ok (writePred τ p v false)
  | .temp k => .ok { τ with temps := lset τ.temps k (merge (τ.temps.getD k noLanes) v) }
  | .discard => .ok τ
  | .emask => .ok { τ with emask := (List.range 32).map (fun l => (laneOf v l).elim (τ.emask.getD l false) (· != 0)) }
  | .port n => emitWith s τ n v id

/-- The next position (R174); a step count of a debugged task falls to 1 (R429). -/
def Task.advance (τ : Task) (n : Nat) : Task := { τ with pos := τ.pos + n, step := if 1 < τ.step then τ.step - 1 else τ.step }

/-- Every block instruction (R174, R176): its body over the acting element's task, or the end of the task. -/
def runBody (f : State → Task → Body (State × Task)) (s : State) : Result :=
  match s.task? with
  | none => .fault .noTask
  | some τ =>
    match f s τ with
    | .ok (s', τ') => .next (s'.setTask τ')
    | .error e => .next (endTask s τ e)

/-- A block instruction that changes nothing but its task. -/
def runTask (f : State → Task → Body Task) (s : State) : Result :=
  match s.task? with
  | none => .fault .noTask
  | some τ =>
    match f s τ with
    | .ok τ' => .next (s.setTask τ')
    | .error e => .next (endTask s τ e)

/-- Lanes of a source-free instruction (R246). -/
def lanes0 (τ : Task) (f : Nat → Word) : Lanes := mkLanes (fun l => if predOk τ l then some (f l) else none)

/-- Lanes of a one-source instruction: executed where the source is valid (R179). -/
def lanes1 (τ : Task) (x : Lanes) (f : Nat → Word → Word) : Lanes :=
  mkLanes (fun l => if predOk τ l then (laneOf x l).map (f l) else none)

/-- Lanes of a two-source instruction. -/
def lanes2 (τ : Task) (x y : Lanes) (f : Nat → Word → Word → Word) : Lanes :=
  mkLanes (fun l => if predOk τ l then
    match laneOf x l, laneOf y l with
    | some a, some b => some (f l a b)
    | _, _ => none
  else none)

/-- Lanes of a three-source instruction. -/
def lanes3 (τ : Task) (x y z : Lanes) (f : Nat → Word → Word → Word → Word) : Lanes :=
  mkLanes (fun l => if predOk τ l then
    match laneOf x l, laneOf y l, laneOf z l with
    | some a, some b, some c => some (f l a b c)
    | _, _, _ => none
  else none)

/-- Finishes an instruction: its lanes go to the target and the position advances. -/
def finish (s : State) (τ : Task) (t : Target) (v : Lanes) : Body Task := do
  let τ ← put s τ t v
  .ok (τ.advance 1)

/-- The checks of R212 steps 3 and 4 in order. -/
def operands (s : State) (τ : Task) (srcs : List Src) (t : Target) : Body Unit := do
  check (srcs.all (srcOk τ)) causeBadSource
  checkTarget s τ t

/-- One-source lane instruction. -/
def op1 (a : Src) (t : Target) (f : Nat → Word → Word) (s : State) (τ : Task) : Body Task := do
  operands s τ [a] t
  finish s τ t (lanes1 τ (readSrc τ false a) f)

/-- Two-source lane instruction. -/
def op2 (a b : Src) (t : Target) (f : Nat → Word → Word → Word) (s : State) (τ : Task) : Body Task := do
  operands s τ [a, b] t
  finish s τ t (lanes2 τ (readSrc τ false a) (readSrc τ true b) f)

/-- Three-source lane instruction: the third is temporary `c` (R242, R243). -/
def op3 (a b : Src) (c : Nat) (t : Target) (f : Nat → Word → Word → Word → Word) (s : State) (τ : Task) : Body Task := do
  operands s τ [a, b] t
  finish s τ t (lanes3 τ (readSrc τ false a) (readSrc τ true b) (τ.temps.getD c noLanes) f)

/-- P-class lane instruction on the two latches with two targets (R245). -/
def opP (x y : Target) (f g : Nat → Word → Word → Word) (s : State) (τ : Task) : Body Task := do
  checkTarget s τ x
  checkTarget s τ y
  let τ' ← put s τ x (lanes2 τ (latchA τ) (latchB τ) f)
  finish s τ' y (lanes2 τ (latchA τ) (latchB τ) g)

/-- Whether any lane of an instruction executes. -/
def anyExec (τ : Task) (srcs : List Lanes) : Bool :=
  (List.range 32).any (fun l => predOk τ l && srcs.all (fun x => (laneOf x l).isSome))

/-- R238: lane 0 of an operand, which must be valid while any lane of the instruction executes. Where no lane of it executes
there is no value and nothing is raised. -/
def lane0 (τ : Task) (x : Lanes) (others : List Lanes) : Body (Option Word) :=
  if anyExec τ (x :: others) then
    match laneOf x 0 with
    | some v => .ok (some v)
    | none => stop causeBadSource 0
  else .ok none

/-- R238 for an operand beside operands that are read lane by lane: these alone decide which lanes execute (log entry 23). -/
def control (τ : Task) (x : Lanes) (perLane : List Lanes) : Body (Option Word) :=
  if anyExec τ perLane then
    match laneOf x 0 with
    | some v => .ok (some v)
    | none => stop causeBadSource 0
  else .ok none

/-- A one-source instruction with ASTAT flags: lanes and the OR of their flags. -/
def flagsOf (τ : Task) (n : Nat → Option Astat) : Astat := (List.range 32).foldl (fun acc l => acc ||| (n l).getD 0) τ.flags

/-- A value operation of a resumable task: what an operation made at commit is (R175). -/
def mkOp (s : State) (τ : Task) (kind : OpKind) (port : Option Nat) (a b : Lanes) (lanes : List Lane) : Op :=
  { id := 0, tile := s.occ.a, elem := s.occ.b, rank := τ.rank, ctx := τ.ctx, iter := τ.iter, blk := τ.blk, pos := τ.pos, w := τ.w,
    tid := τ.tid, byHandler := τ.kind == .handler, cx := τ.cx, kind := kind, port := port.bind (portAt s), portNo := port.getD 128, hdr := τ.hdr,
    emask := τ.emask, a := a, b := b, lanes := lanes,
    phase := .queued, n := 0, out := noLanes, cause := 0, detail := 0, addr := 0, retried := false }

/-- Enters an operation into the commit buffer (R175). -/
def Task.enter (τ : Task) (o : Op) : Task := { τ with cbuf := τ.cbuf ++ [.op o] }

/-- A supervisor context (R368). -/
def supervisor (τ : Task) : Bool := τ.cx.asid == 0

/-- Step 2 of R212. -/
def privileged (τ : Task) : Body Unit := check (supervisor τ) causePriv

/-- Sets `lanes` of `v` where valid from a list of words, each lane only below W. -/
def lanesBelow (τ : Task) (ws : List Word) : Lanes := mkLanes (fun l => if predOk τ l then ws[l]? else none)

end Sys2Proof.Machine
end

