-- ==== Sys2Proof/Machine/Flags.lean ====
section
/-! DEFINITION. ASTAT flags of a block, rounding modes with their draws, formats read and written in lanes, the summation tree
(R306 to R309, R323, R336). -/

namespace Sys2Proof.Machine

/-- One round of the generator (R336) on `(c0, c1, c2, c3)` with its key. -/
def philoxRound (c : Nat × Nat × Nat × Nat) (k0 k1 : Nat) : Nat × Nat × Nat × Nat :=
  let p0 := 0xD2511F53 * c.1
  let p1 := 0xCD9E8D57 * c.2.2.1
  ((p1 / 2 ^ 32) ^^^ c.2.1 ^^^ k0, p1 % 2 ^ 32, (p0 / 2 ^ 32) ^^^ c.2.2.2 ^^^ k1, p0 % 2 ^ 32)

def philoxFrom : Nat → Nat × Nat × Nat × Nat → Nat → Nat → Nat × Nat × Nat × Nat
  | 0, c, _, _ => c
  | n + 1, c, k0, k1 => philoxFrom n (philoxRound c k0 k1) ((k0 + 0x9E3779B9) % 2 ^ 32) ((k1 + 0xBB67AE85) % 2 ^ 32)

/-- Output word `w` of Philox-4x32-10 (R336). -/
def philox (seed : Nat) (c0 c1 c2 c3 w : Nat) : Nat :=
  let o := philoxFrom 10 (c0, c1, c2, c3) (seed % 2 ^ 32) (seed / 2 ^ 32)
  if w = 0 then o.1 else if w = 1 then o.2.1 else if w = 2 then o.2.2.1 else o.2.2.2

/-- The draw word of an RS rounding (R309) in a lane, for element `e` of the lane. -/
def drawWord (s : State) (τ : Task) (l e : Nat) : Nat :=
  philox τ.cx.seed.toNat (τ.iter + τ.hdr.seg * 2 ^ 16 + τ.pos * 2 ^ 26) (l + ltileOf s s.occ.a τ.rank * 2 ^ 5) τ.cx.seq.toNat
    0x80000000 e

/-- RMODE (R264): codes 000 to 011. -/
def modeOf (m : BitVec 3) : RMode := if m = 1 then .rz else if m = 2 then .rd else if m = 3 then .ru else .rne

/-- The mode in force for a lane and element (R308). -/
def rmode (s : State) (τ : Task) (r : Rnd) (l e : Nat) : RMode :=
  match r with
  | .rne => .rne
  | .rz => .rz
  | .rd => .rd
  | .ru => .ru
  | .rs => .rs (drawWord s τ l e / 2 ^ 8)
  | .dyn => modeOf τ.cx.rmode

/-- The binary format of an FMT code; CB2 and E8M0 are none and read as FP32 here. -/
def fmtFp : Fmt → FpFormat
  | .f32 => fpF32
  | .bf16 => fpBF16
  | .f16 => fpF16
  | .e4m3 => fpE4M3
  | .e5m2 => fpE5M2
  | .e2m1 => fpE2M1
  | .cb2 => fpF32
  | .e8m0 => fpF32

/-- Width of an element in bits. -/
def fmtWidth : Fmt → Nat
  | .f32 => 32
  | .bf16 => 16
  | .f16 => 16
  | .e4m3 => 8
  | .e5m2 => 8
  | .e2m1 => 4
  | .cb2 => 16
  | .e8m0 => 8

/-- A lane's low bits read as a number of a format (R306, R121 to R124). -/
def readNum (f : Fmt) (x : Nat) : Num × Astat := (fmtFp f).decode (x % 2 ^ fmtWidth f)

/-- A scale widened exactly (R127, R332). -/
def readScale (f : Fmt) (x : Nat) : Num × Astat :=
  match f with
  | .e8m0 => (decodeE8M0 (x % 256), 0)
  | f => readNum f x

/-- Lanes with their flags. -/
abbrev FLanes := List (Option (Word × Astat))

def flanes1 (τ : Task) (x : Lanes) (f : Nat → Word → Word × Astat) : FLanes :=
  (List.range 32).map (fun l => if predOk τ l then (laneOf x l).map (f l) else none)

def flanes2 (τ : Task) (x y : Lanes) (f : Nat → Word → Word → Word × Astat) : FLanes :=
  (List.range 32).map (fun l => if predOk τ l then
    match laneOf x l, laneOf y l with
    | some a, some b => some (f l a b)
    | _, _ => none
  else none)

def flanes3 (τ : Task) (x y z : Lanes) (f : Nat → Word → Word → Word → Word × Astat) : FLanes :=
  (List.range 32).map (fun l => if predOk τ l then
    match laneOf x l, laneOf y l, laneOf z l with
    | some a, some b, some c => some (f l a b c)
    | _, _, _ => none
  else none)

/-- The OR of the flags of executed lanes (R307). -/
def orFlags (r : FLanes) : Astat := r.foldl (fun acc x => acc ||| x.elim 0 (·.2)) 0

/-- Values of lanes that carry flags. -/
def valuesOf (r : FLanes) : Lanes := r.map (fun x => x.map (·.1))

/-- The block collects flags until it commits (R307). -/
def Task.raise (τ : Task) (f : Astat) : Task := { τ with flags := τ.flags ||| f }

/-- Finishes an instruction that raises flags. -/
def finishF (s : State) (τ : Task) (t : Target) (r : FLanes) : Body Task := finish s (τ.raise (orFlags r)) t (valuesOf r)

/-- A result in the low bits of a lane (R306). -/
def inLane (r : Nat × Astat) : Word × Astat := (BitVec.ofNat 32 r.1, r.2)

def fop1 (a : Src) (t : Target) (f : State → Task → Nat → Word → Word × Astat) (s : State) (τ : Task) : Body Task := do
  operands s τ [a] t
  finishF s τ t (flanes1 τ (readSrc τ false a) (f s τ))

def fop2 (a b : Src) (t : Target) (f : State → Task → Nat → Word → Word → Word × Astat) (s : State) (τ : Task) : Body Task := do
  operands s τ [a, b] t
  finishF s τ t (flanes2 τ (readSrc τ false a) (readSrc τ true b) (f s τ))

def fop3 (a b : Src) (c : Nat) (t : Target) (f : State → Task → Nat → Word → Word → Word → Word × Astat) (s : State) (τ : Task) :
    Body Task := do
  operands s τ [a, b] t
  finishF s τ t (flanes3 τ (readSrc τ false a) (readSrc τ true b) (τ.temps.getD c noLanes) (f s τ))

def fopP (x y : Target) (f g : State → Task → Nat → Word → Word → Word × Astat) (s : State) (τ : Task) : Body Task := do
  checkTarget s τ x
  checkTarget s τ y
  let r := flanes2 τ (latchA τ) (latchB τ) (f s τ)
  let τ' ← put s (τ.raise (orFlags r)) x (valuesOf r)
  finish s τ' y (valuesOf (flanes2 τ (latchA τ) (latchB τ) (g s τ)))

/-- Two nodes of the tree (R323). -/
def treeNode : Option (Word × Astat) → Option (Word × Astat) → Option (Word × Astat)
  | some (a, f), some (b, g) => some ((add32 a b).1, f ||| g ||| (add32 a b).2)
  | some a, none => some a
  | none, b => b

/-- One level of the tree. -/
def treeLevel : FLanes → FLanes
  | a :: b :: r => treeNode a b :: treeLevel r
  | [a] => [a]
  | [] => []

/-- The tree of R323 over at most `2 ^ n` leaves; absent leaves pad the list. -/
def treeSum : Nat → FLanes → Option (Word × Astat)
  | 0, l => l.headD none
  | n + 1, l => treeSum n (treeLevel l)

end Sys2Proof.Machine
end

