-- ==== Sys2Proof/Machine/IntAlu.lean ====
section
/-! DEFINITION. Integer instructions of S and P class (R237 to R245). -/

namespace Sys2Proof.Machine

def boolWord (b : Bool) : Word := if b then 1 else 0

/-- R239: signed quotient truncated toward zero, with its fates. -/
def divS (a b : Word) : Word :=
  if b = 0 then 0xFFFFFFFF else if a = 0x80000000 ∧ b = 0xFFFFFFFF then 0x80000000 else BitVec.ofInt 32 (a.toInt.tdiv b.toInt)

def divU (a b : Word) : Word := if b = 0 then 0xFFFFFFFF else BitVec.ofNat 32 (a.toNat / b.toNat)

/-- R239: `a − b·DIV(a, b)`, the sign of `a`. -/
def remS (a b : Word) : Word :=
  if b = 0 then a else if a = 0x80000000 ∧ b = 0xFFFFFFFF then 0 else BitVec.ofInt 32 (a.toInt.tmod b.toInt)

def remU (a b : Word) : Word := if b = 0 then a else BitVec.ofNat 32 (a.toNat % b.toNat)

/-- A shift amount is bits [4:0] (R237). -/
def amount (b : Word) : Nat := b.toNat % 32

def rotl (a b : Word) : Word := a.rotateLeft (amount b)

/-- R213: the conditions of CMP. -/
def condHolds (c : Cond) (a b : Word) : Bool :=
  match c with
  | .eq => a == b
  | .ne => a != b
  | .lt => decide (a.toInt < b.toInt)
  | .le => decide (a.toInt ≤ b.toInt)
  | .ltu => decide (a.toNat < b.toNat)
  | .leu => decide (a.toNat ≤ b.toNat)
  | .gt => decide (b.toInt < a.toInt)
  | .ge => decide (b.toInt ≤ a.toInt)
  | .gtu => decide (b.toNat < a.toNat)
  | .geu => decide (b.toNat ≤ a.toNat)

def smin (a b : Word) : Word := if a.toInt < b.toInt then a else b
def smax (a b : Word) : Word := if a.toInt < b.toInt then b else a
def umin (a b : Word) : Word := if a.toNat < b.toNat then a else b
def umax (a b : Word) : Word := if a.toNat < b.toNat then b else a

/-- Leading zero bits of a 32-bit pattern (R240). -/
def clz (a : Word) : Nat := if a = 0 then 32 else 31 - Nat.log2 a.toNat

/-- Trailing zero bits, looked for from bit `k` (R240). -/
def ctzFrom (a : Nat) : Nat → Nat → Nat
  | 0, k => k
  | n + 1, k => if a / 2 ^ k % 2 = 1 then k else ctzFrom a n (k + 1)

def ctz (a : Word) : Nat := ctzFrom a.toNat 32 0

def popcount (a : Nat) : Nat := ((List.range 33).filter (fun k => a / 2 ^ k % 2 = 1)).length

def brev (a : Word) : Word := BitVec.ofNat 32 ((List.range 32).foldl (fun acc k => acc + a.toNat / 2 ^ k % 2 * 2 ^ (31 - k)) 0)

/-- R241: the low `n` bits, extended. -/
def extend (sx : Bool) (n : Nat) (a : Word) : Word :=
  let v := a.toNat % 2 ^ n
  BitVec.ofNat 32 (if sx && decide (2 ^ (n - 1) ≤ v) then 2 ^ 32 - 2 ^ n + v else v)

/-- R242: POS and L of a control word. -/
def fieldPos (c : Word) : Nat := c.toNat % 32
def fieldLen (c : Word) : Nat := min (c.toNat / 32 % 32 + 1) (32 - fieldPos c)

def bfx (sx : Bool) (a c : Word) : Word := extend sx (fieldLen c) (a >>> fieldPos c)

def bfi (a b c : Word) : Word :=
  let m := (2 ^ fieldLen c - 1) * 2 ^ fieldPos c
  (a &&& ~~~(BitVec.ofNat 32 m)) ||| ((b <<< fieldPos c) &&& BitVec.ofNat 32 m)

/-- Zero divisors in executed lanes set DZ (R239). -/
def divOp (f : Word → Word → Word) (a b : Src) (t : Target) : State → Task → Body Task :=
  fop2 a b t (fun _ _ _ x y => (f x y, flagIf (y == 0) flagDZ))

def execAdd (a b : Src) (t : Target) (s : State) : Result := runTask (op2 a b t (fun _ x y => x + y)) s
def execSub (a b : Src) (t : Target) (s : State) : Result := runTask (op2 a b t (fun _ x y => x - y)) s
def execMul (a b : Src) (t : Target) (s : State) : Result := runTask (op2 a b t (fun _ x y => x * y)) s
def execMulh (a b : Src) (t : Target) (s : State) : Result :=
  runTask (op2 a b t (fun _ x y => BitVec.ofInt 32 (x.toInt * y.toInt / 2 ^ 32))) s
def execMulhu (a b : Src) (t : Target) (s : State) : Result :=
  runTask (op2 a b t (fun _ x y => BitVec.ofNat 32 (x.toNat * y.toNat / 2 ^ 32))) s
def execDiv (a b : Src) (t : Target) (s : State) : Result := runTask (divOp divS a b t) s
def execDivu (a b : Src) (t : Target) (s : State) : Result := runTask (divOp divU a b t) s
def execRem (a b : Src) (t : Target) (s : State) : Result := runTask (divOp remS a b t) s
def execRemu (a b : Src) (t : Target) (s : State) : Result := runTask (divOp remU a b t) s
def execAnd (a b : Src) (t : Target) (s : State) : Result := runTask (op2 a b t (fun _ x y => x &&& y)) s
def execOr (a b : Src) (t : Target) (s : State) : Result := runTask (op2 a b t (fun _ x y => x ||| y)) s
def execXor (a b : Src) (t : Target) (s : State) : Result := runTask (op2 a b t (fun _ x y => x ^^^ y)) s
def execAndn (a b : Src) (t : Target) (s : State) : Result := runTask (op2 a b t (fun _ x y => x &&& ~~~y)) s
def execShl (a b : Src) (t : Target) (s : State) : Result := runTask (op2 a b t (fun _ x y => x <<< amount y)) s
def execShr (a b : Src) (t : Target) (s : State) : Result := runTask (op2 a b t (fun _ x y => x >>> amount y)) s
def execSra (a b : Src) (t : Target) (s : State) : Result := runTask (op2 a b t (fun _ x y => x.sshiftRight (amount y))) s
def execRot (a b : Src) (t : Target) (s : State) : Result := runTask (op2 a b t (fun _ x y => rotl x y)) s
def execMin (a b : Src) (t : Target) (s : State) : Result := runTask (op2 a b t (fun _ x y => smin x y)) s
def execMax (a b : Src) (t : Target) (s : State) : Result := runTask (op2 a b t (fun _ x y => smax x y)) s
def execMinu (a b : Src) (t : Target) (s : State) : Result := runTask (op2 a b t (fun _ x y => umin x y)) s
def execMaxu (a b : Src) (t : Target) (s : State) : Result := runTask (op2 a b t (fun _ x y => umax x y)) s
def execAbs (a : Src) (t : Target) (s : State) : Result := runTask (op1 a t (fun _ x => if x.msb then -x else x)) s
def execClz (a : Src) (t : Target) (s : State) : Result := runTask (op1 a t (fun _ x => BitVec.ofNat 32 (clz x))) s
def execCtz (a : Src) (t : Target) (s : State) : Result := runTask (op1 a t (fun _ x => BitVec.ofNat 32 (ctz x))) s
def execPopc (a : Src) (t : Target) (s : State) : Result := runTask (op1 a t (fun _ x => BitVec.ofNat 32 (popcount x.toNat))) s
def execBrev (a : Src) (t : Target) (s : State) : Result := runTask (op1 a t (fun _ x => brev x)) s
def execSxb (a : Src) (t : Target) (s : State) : Result := runTask (op1 a t (fun _ x => extend true 8 x)) s
def execSxh (a : Src) (t : Target) (s : State) : Result := runTask (op1 a t (fun _ x => extend true 16 x)) s
def execSx4 (a : Src) (t : Target) (s : State) : Result := runTask (op1 a t (fun _ x => extend true 4 x)) s
def execZxb (a : Src) (t : Target) (s : State) : Result := runTask (op1 a t (fun _ x => extend false 8 x)) s
def execZxh (a : Src) (t : Target) (s : State) : Result := runTask (op1 a t (fun _ x => extend false 16 x)) s
def execZx4 (a : Src) (t : Target) (s : State) : Result := runTask (op1 a t (fun _ x => extend false 4 x)) s
def execBfx (a b : Src) (sx : Bool) (t : Target) (s : State) : Result := runTask (op2 a b t (fun _ x y => bfx sx x y)) s
def execBfi (a b : Src) (c : Nat) (t : Target) (s : State) : Result := runTask (op3 a b c t (fun _ x y z => bfi x y z)) s
def execCmp (a b : Src) (c : Cond) (t : Target) (s : State) : Result :=
  runTask (op2 a b t (fun _ x y => boolWord (condHolds c x y))) s
def execSel (a b : Src) (c : Nat) (t : Target) (s : State) : Result :=
  runTask (op3 a b c t (fun _ x y z => if z != 0 then x else y)) s
/-- R243: SCALE as in R14: 1, 4, 16, 64. -/
def execLea (a b : Src) (sc : Nat) (t : Target) (s : State) : Result :=
  runTask (op2 a b t (fun _ x y => x + y * BitVec.ofNat 32 (4 ^ sc))) s
def execLaff (a b : Src) (t : Target) (s : State) : Result := runTask (op2 a b t (fun l x y => x * BitVec.ofNat 32 l + y)) s
def execLxor (a : Src) (t : Target) (s : State) : Result := runTask (op1 a t (fun l x => BitVec.ofNat 32 l ^^^ x)) s

/-- R244: instructions on the valid mask of SA, executing on every lane that the predicate allows. -/
def maskOp (a : Src) (t : Target) (f : Lanes → Nat) (s : State) (τ : Task) : Body Task := do
  operands s τ [a] t
  finish s τ t (lanes0 τ (fun _ => BitVec.ofNat 32 (f (readSrc τ false a))))

def execLvcnt (a : Src) (t : Target) (s : State) : Result :=
  runTask (maskOp a t (fun x => (x.filter (·.isSome)).length)) s
def execLvfst (a : Src) (t : Target) (s : State) : Result :=
  runTask (maskOp a t (fun x => min 32 (x.findIdx (·.isSome)))) s

def execAddP (x y : Target) (s : State) : Result := runTask (opP x y (fun _ a b => a + b) (fun _ a b => a + b)) s
def execSubP (x y : Target) (s : State) : Result := runTask (opP x y (fun _ a b => a - b) (fun _ a b => a - b)) s
def execAndP (x y : Target) (s : State) : Result := runTask (opP x y (fun _ a b => a &&& b) (fun _ a b => a &&& b)) s
def execOrP (x y : Target) (s : State) : Result := runTask (opP x y (fun _ a b => a ||| b) (fun _ a b => a ||| b)) s
def execXorP (x y : Target) (s : State) : Result := runTask (opP x y (fun _ a b => a ^^^ b) (fun _ a b => a ^^^ b)) s
def execShlP (x y : Target) (s : State) : Result :=
  runTask (opP x y (fun _ a b => a <<< amount b) (fun _ a b => a <<< amount b)) s
def execShrP (x y : Target) (s : State) : Result :=
  runTask (opP x y (fun _ a b => a >>> amount b) (fun _ a b => a >>> amount b)) s
def execSraP (x y : Target) (s : State) : Result :=
  runTask (opP x y (fun _ a b => a.sshiftRight (amount b)) (fun _ a b => a.sshiftRight (amount b))) s
def execMinP (x y : Target) (s : State) : Result := runTask (opP x y (fun _ a b => smin a b) (fun _ a b => smin a b)) s
def execMaxP (x y : Target) (s : State) : Result := runTask (opP x y (fun _ a b => smax a b) (fun _ a b => smax a b)) s
/-- R245: T1 receives the result and T2 its complement. -/
def execCmpP (c : Cond) (x y : Target) (s : State) : Result :=
  runTask (opP x y (fun _ a b => boolWord (condHolds c a b)) (fun _ a b => boolWord (!condHolds c a b))) s

end Sys2Proof.Machine
end

