-- ==== Sys2Proof/Machine/FloatOps.lean ====
section
/-! DEFINITION. Floating point, conversions, packed 16-bit forms and special functions (R306 to R322). -/

namespace Sys2Proof.Machine

def n32 (w : Word) : Num := num32 w

/-- The exact result of FDIV is not binary: it is rounded from a quotient with a sticky remainder. -/
def rnd (s : State) (τ : Task) (f : Fmt) (r : Rnd) (sat : Bool) (l e : Nat) (x : Num × Astat) : Word × Astat :=
  inLane (roundOf (fmtFp f) (rmode s τ r l e) sat x)

def execFadd (a b : Src) (f : Fmt) (r : Rnd) (sat : Bool) (t : Target) (s : State) : Result :=
  runTask (fop2 a b t (fun s τ l x y => rnd s τ f r sat l 0 (numAdd (rmode s τ r l 0) (n32 x) (n32 y)))) s
def execFsub (a b : Src) (f : Fmt) (r : Rnd) (sat : Bool) (t : Target) (s : State) : Result :=
  runTask (fop2 a b t (fun s τ l x y => rnd s τ f r sat l 0 (numAdd (rmode s τ r l 0) (n32 x) (n32 y).neg))) s
def execFmul (a b : Src) (f : Fmt) (r : Rnd) (sat : Bool) (t : Target) (s : State) : Result :=
  runTask (fop2 a b t (fun s τ l x y => rnd s τ f r sat l 0 (numMul (n32 x) (n32 y)))) s
def execFdiv (a b : Src) (f : Fmt) (r : Rnd) (sat : Bool) (t : Target) (s : State) : Result :=
  runTask (fop2 a b t (fun s τ l x y => rnd s τ f r sat l 0 (numDiv (n32 x) (n32 y)))) s
def execFfma (a b : Src) (r : Rnd) (c : Nat) (sat : Bool) (t : Target) (s : State) : Result :=
  runTask (fop3 a b c t (fun s τ l x y z => rnd s τ .f32 r sat l 0 (numFma (rmode s τ r l 0) (n32 x) (n32 y) (n32 z)))) s

def execFaddP (r : Rnd) (x y : Target) (s : State) : Result :=
  let f (s : State) (τ : Task) (l : Nat) (a b : Word) := rnd s τ .f32 r false l 0 (numAdd (rmode s τ r l 0) (n32 a) (n32 b))
  runTask (fopP x y f f) s
def execFsubP (r : Rnd) (x y : Target) (s : State) : Result :=
  let f (s : State) (τ : Task) (l : Nat) (a b : Word) := rnd s τ .f32 r false l 0 (numAdd (rmode s τ r l 0) (n32 a) (n32 b).neg)
  runTask (fopP x y f f) s
def execFmulP (r : Rnd) (x y : Target) (s : State) : Result :=
  let f (s : State) (τ : Task) (l : Nat) (a b : Word) := rnd s τ .f32 r false l 0 (numMul (n32 a) (n32 b))
  runTask (fopP x y f f) s
def execFminP (x y : Target) (s : State) : Result := runTask (opP x y (fun _ a b => fmin32 a b) (fun _ a b => fmin32 a b)) s
def execFmaxP (x y : Target) (s : State) : Result := runTask (opP x y (fun _ a b => fmax32 a b) (fun _ a b => fmax32 a b)) s
def execFmin (a b : Src) (t : Target) (s : State) : Result := runTask (op2 a b t (fun _ x y => fmin32 x y)) s
def execFmax (a b : Src) (t : Target) (s : State) : Result := runTask (op2 a b t (fun _ x y => fmax32 x y)) s

/-- R314: the FSGN subforms on the bit pattern of a format. -/
def signOp (f : Fmt) (g : Bool → Bool → Bool) (a b : Word) : Word :=
  let w := fmtWidth f
  let sa := bit a.toNat (w - 1)
  let sb := bit b.toNat (w - 1)
  BitVec.ofNat 32 (a.toNat % 2 ^ (w - 1) + if g sa sb then 2 ^ (w - 1) else 0)

def execFabs (a : Src) (f : Fmt) (t : Target) (s : State) : Result := runTask (op1 a t (fun _ x => signOp f (fun _ _ => false) x 0)) s
def execFneg (a : Src) (f : Fmt) (t : Target) (s : State) : Result := runTask (op1 a t (fun _ x => signOp f (fun p _ => !p) x 0)) s
def execFcpys (a b : Src) (f : Fmt) (t : Target) (s : State) : Result :=
  runTask (op2 a b t (fun _ x y => signOp f (fun _ q => q) x y)) s
def execFcpyn (a b : Src) (f : Fmt) (t : Target) (s : State) : Result :=
  runTask (op2 a b t (fun _ x y => signOp f (fun _ q => !q) x y)) s
def execFxsgn (a b : Src) (f : Fmt) (t : Target) (s : State) : Result :=
  runTask (op2 a b t (fun _ x y => signOp f (fun p q => p != q) x y)) s

/-- R315: a comparison of numbers, with IV for an ordered one of a NaN. -/
def fcmpHolds (c : FCond) (x y : Num) : Bool × Astat :=
  let un := x.isNan || y.isNan
  match c with
  | .eq => (numEq x y, 0)
  | .ne => (!numEq x y, 0)
  | .lt => (!un && numLt x y, flagIf un flagIV)
  | .le => (!un && (numLt x y || numEq x y), flagIf un flagIV)
  | .gt => (!un && numLt y x, flagIf un flagIV)
  | .ge => (!un && (numLt y x || numEq x y), flagIf un flagIV)
  | .uno => (un, 0)
  | .ord => (!un, 0)

def fcmpWord (f : Fmt) (c : FCond) (neg : Bool) (a b : Word) : Word × Astat :=
  let x := readNum f a.toNat
  let y := readNum f b.toNat
  let r := fcmpHolds c x.1 y.1
  (boolWord (r.1 != neg), r.2 ||| x.2 ||| y.2)

def execFcmp (a b : Src) (f : Fmt) (c : FCond) (t : Target) (s : State) : Result :=
  runTask (fop2 a b t (fun _ _ _ x y => fcmpWord f c false x y)) s
/-- R312: T1 receives the result and T2 its complement. -/
def execFcmpP (c : FCond) (x y : Target) (s : State) : Result :=
  runTask (fopP x y (fun _ _ _ a b => fcmpWord .f32 c false a b) (fun _ _ _ a b => fcmpWord .f32 c true a b)) s

/-- R316: the class bit of an encoding. -/
def classBit (f : Fmt) (a : Word) : Nat :=
  let p := fmtFp f
  let x := a.toNat % 2 ^ fmtWidth f
  let neg := p.sign x
  let m := p.mag x
  match p.inf, p.nan with
  | some i, _ => if i < m then 8 else if m = i then (if neg then 0 else 7) else finiteClass p.mbits neg m
  | none, some n => if m = n then 8 else finiteClass p.mbits neg m
  | none, none => finiteClass p.mbits neg m
where
  finiteClass (mb : Nat) (neg : Bool) (m : Nat) : Nat :=
    if m = 0 then (if neg then 3 else 4) else if m < 2 ^ mb then (if neg then 2 else 5) else if neg then 1 else 6

def execFclass (a : Src) (f : Fmt) (t : Target) (s : State) : Result :=
  runTask (op1 a t (fun _ x => BitVec.ofNat 32 (2 ^ classBit f x))) s

/-- R317: one FCVT of a lane: narrow into element `e`, or widen element `e`. -/
def fcvtWord (mode : RMode) (f : Fmt) (sat : Bool) (e : Nat) (widen : Bool) (a : Word) : Word × Astat :=
  let b := fmtWidth f
  if widen then
    let x := readScale f (a.toNat / 2 ^ (b * e))
    let r := roundOf fpF32 .rne false (x.1, 0)
    (BitVec.ofNat 32 r.1, x.2)
  else
    let r := match f with
      | .e8m0 => roundE8M0 mode (n32 a)
      | f => roundOf (fmtFp f) mode sat (n32 a, 0)
    (BitVec.ofNat 32 (r.1 * 2 ^ (b * e)), r.2)

def execFcvt (a b : Src) (f : Fmt) (r : Rnd) (sat : Bool) (t : Target) (s : State) : Result :=
  runTask (fun s τ => do
    operands s τ [a, b] t
    let x := readSrc τ false a
    match ← control τ (readSrc τ true b) [x] with
    | none => finish s τ t noLanes
    | some c =>
      let run := anyExec τ [x]
      check (!run || (decide (c.toNat < 16) && decide (c.toNat % 8 < 32 / fmtWidth f))) causeBadSource
      finishF s τ t (flanes1 τ x (fun l v => fcvtWord (rmode s τ r l 0) f sat (c.toNat % 8) (bit c.toNat 3) v))) s

/-- R318: rounds to an integral FP32 value. -/
def frndWord (mode : RMode) (a : Word) : Word × Astat :=
  match n32 a with
  | .nan => (nan32, 0)
  | .inf _ => (a, 0)
  | .fin neg m e _ =>
    if m = 0 then (a, 0)
    else
      let r := numToInt mode neg m e
      if r.1 = 0 then (if neg then 0x80000000 else 0, flagIf r.2 flagNX)
      else ((rne32 (.fin neg r.1.natAbs 0 false)).1, flagIf r.2 flagNX)

def execFrnd (a : Src) (r : Rnd) (t : Target) (s : State) : Result :=
  runTask (fop1 a t (fun s τ l x => frndWord (rmode s τ r l 0) x)) s

/-- R128, R319: the range of an integer format. -/
def intRange (f : IFmt) : Int × Int :=
  match f with
  | .i32 => (-(2 ^ 31), 2 ^ 31 - 1)
  | .i16 => (-(2 ^ 15), 2 ^ 15 - 1)
  | .i8 => (-128, 127)
  | .i4 => (-8, 7)
  | .u8 => (0, 255)

/-- R319. -/
def ftoiWord (mode : RMode) (f : IFmt) (sat : Bool) (a : Word) : Word × Astat :=
  let rg := intRange f
  match n32 a with
  | .nan => (BitVec.ofInt 32 (if sat then 0 else rg.1), flagIV)
  | .inf neg => (BitVec.ofInt 32 (if sat then (if neg then rg.1 else rg.2) else rg.1), flagIV)
  | .fin neg m e _ =>
    let r := numToInt mode neg m e
    if r.1 < rg.1 ∨ rg.2 < r.1 then
      (BitVec.ofInt 32 (if sat then (if r.1 < rg.1 then rg.1 else rg.2) else rg.1), flagIV ||| flagIf r.2 flagNX)
    else (BitVec.ofInt 32 r.1, flagIf r.2 flagNX)

def execFtoi (a : Src) (f : IFmt) (r : Rnd) (sat : Bool) (t : Target) (s : State) : Result :=
  runTask (fop1 a t (fun s τ l x => ftoiWord (rmode s τ r l 0) f sat x)) s
/-- R320. -/
def execItof (a : Src) (f : Fmt) (r : Rnd) (sat : Bool) (t : Target) (s : State) : Result :=
  runTask (fop1 a t (fun s τ l x => rnd s τ f r sat l 0 (.fin x.msb x.toInt.natAbs 0 false, 0))) s

/-- R321: both 16-bit elements of a lane. -/
def packed2 (g : Nat → Nat → Nat × Astat) (l : Nat → Nat) : Word × Astat :=
  let r0 := g 0 (l 0)
  let r1 := g 1 (l 1)
  (BitVec.ofNat 32 (r0.1 + r1.1 * 2 ^ 16), r0.2 ||| r1.2)

def elem16 (f : Fmt) (x : Word) (e : Nat) : Num × Astat := readNum f (x.toNat / 2 ^ (16 * e))

def half2 (s : State) (τ : Task) (f : Fmt) (r : Rnd) (sat : Bool) (op : RMode → Num → Num → Num × Astat) (l : Nat) (x y : Word) :
    Word × Astat :=
  packed2 (fun e _ =>
    let m := rmode s τ r l e
    let a := elem16 f x e
    let b := elem16 f y e
    let z := op m a.1 b.1
    roundOf (fmtFp f) m sat (z.1, z.2 ||| a.2 ||| b.2)) id

def execHadd2 (a b : Src) (f : Fmt) (r : Rnd) (sat : Bool) (t : Target) (s : State) : Result :=
  runTask (fop2 a b t (fun s τ l x y => half2 s τ f r sat numAdd l x y)) s
def execHmul2 (a b : Src) (f : Fmt) (r : Rnd) (sat : Bool) (t : Target) (s : State) : Result :=
  runTask (fop2 a b t (fun s τ l x y => half2 s τ f r sat (fun _ p q => numMul p q) l x y)) s
def execHfma2 (a b : Src) (r : Rnd) (c : Nat) (sat : Bool) (t : Target) (s : State) : Result :=
  runTask (fop3 a b c t (fun s τ l x y z => packed2 (fun e _ =>
    let m := rmode s τ r l e
    let p := elem16 .bf16 x e
    let q := elem16 .bf16 y e
    let w := elem16 .bf16 z e
    let v := numFma m p.1 q.1 w.1
    roundOf fpBF16 m sat (v.1, v.2 ||| p.2 ||| q.2 ||| w.2)) id)) s

/-- R322: one of the functions of R217. -/
def sfuOp (fn : Nat) (a : Src) (t : Target) : State → Task → Body Task := fop1 a t (fun _ _ _ x => sfu fn x)

def execEx2 (a : Src) (t : Target) (s : State) : Result := runTask (sfuOp 0 a t) s
def execLg2 (a : Src) (t : Target) (s : State) : Result := runTask (sfuOp 1 a t) s
def execRcp (a : Src) (t : Target) (s : State) : Result := runTask (sfuOp 2 a t) s
def execRsq (a : Src) (t : Target) (s : State) : Result := runTask (sfuOp 3 a t) s
def execSqrt (a : Src) (t : Target) (s : State) : Result := runTask (sfuOp 4 a t) s
def execSin (a : Src) (t : Target) (s : State) : Result := runTask (sfuOp 5 a t) s
def execCos (a : Src) (t : Target) (s : State) : Result := runTask (sfuOp 6 a t) s
def execTanh (a : Src) (t : Target) (s : State) : Result := runTask (sfuOp 7 a t) s

end Sys2Proof.Machine
end

