-- ==== Sys2Proof/Machine/Immediates.lean ====
section
/-! DEFINITION. I-class instructions but LDP and STP, and the special registers that MFS reads (R246, R264, R265). -/

namespace Sys2Proof.Machine

/-- R218: an 11-bit immediate, sign-extended. -/
def sextImm (i : Nat) : Word := if 1024 ≤ i then BitVec.ofNat 32 (2 ^ 32 - 2048 + i) else BitVec.ofNat 32 i

/-- R207: RECT of the launch's full-size image. -/
def rectWord (s : State) (q : Nat) : Nat :=
  match sget s.sch.launches q with
  | some l => l.x0 + l.y0 * 16 + bits (l.words.getD 10 0).toNat 16 3 * 2 ^ 9 + bits (l.words.getD 10 0).toNat 19 3 * 2 ^ 12
  | none => 0

/-- The GAIT register of a tile (R264, R381). -/
def gaitNumber (s : State) (tile : Nat) : Nat := sgetD s.tab.gaitReg tile 0

/-- A 64-bit base register's half by register number 0x20 to 0x2F (R264). -/
def baseHalf (c : Ctx) (n : Nat) : Word :=
  let b := (c.bases.getD ((n - 0x20) / 2) 0).toNat
  if n % 2 = 0 then BitVec.ofNat 32 b else BitVec.ofNat 32 (b / 2 ^ 32)

/-- R264, R265: a special register as a task reads it. -/
def special (s : State) (τ : Task) (n : Nat) : Word :=
  if n = 0x00 then BitVec.ofNat 32 (τ.ctx * 2 ^ 16 + τ.iter)
  else if n = 0x01 then BitVec.ofNat 32 τ.ctx
  else if n = 0x02 then BitVec.ofNat 32 τ.iter
  else if n = 0x03 then BitVec.ofNat 32 τ.hdr.seg
  else if n = 0x04 then BitVec.ofNat 32 τ.w
  else if n = 0x05 then BitVec.ofNat 32 s.occ.b
  else if n = 0x06 then BitVec.ofNat 32 (ltileOf s s.occ.a τ.rank)
  else if n = 0x07 then BitVec.ofNat 32 (rectWord s τ.cx.q)
  else if n = 0x08 then τ.cx.seq.setWidth 32
  else if n = 0x09 then BitVec.ofNat 32 τ.cx.asid
  else if n = 0x0A then BitVec.ofNat 32 (((τ.entries.getD 0 noLanes).filter (·.isSome)).length)
  else if n = 0x0B then τ.astat.setWidth 32
  else if n = 0x0C then τ.cx.rmode.setWidth 32
  else if n = 0x0D then BitVec.ofNat 32 s.cyc
  else if n = 0x0E then BitVec.ofNat 32 (s.cyc / 2 ^ 32)
  else if n = 0x0F then BitVec.ofNat 32 (gaitNumber s s.occ.a)
  else if n = 0x10 then BitVec.ofNat 32 τ.hdr.pol
  else if n = 0x11 then τ.cx.parent.getD 0xFFFFFFFF
  else if n = 0x12 then τ.cx.seed.setWidth 32
  else if n = 0x13 then BitVec.ofNat 32 (τ.cx.seed.toNat / 2 ^ 32)
  else if n = 0x14 then τ.cx.uvec
  else if n = 0x15 then τ.cx.fmask
  else if n < 0x40 then baseHalf τ.cx n
  else sgetD s.isl.ax (s.occ.a * 16 + (n - 0x40)) 0

/-- A source-free instruction (R246). -/
def op0 (t : Target) (f : State → Task → Word) (s : State) (τ : Task) : Body Task := do
  checkTarget s τ t
  finish s τ t (lanes0 τ (fun _ => f s τ))

def execLi (i : Nat) (t : Target) (s : State) : Result := runTask (op0 t (fun _ _ => sextImm i)) s
def execLih (a : Src) (i : Nat) (t : Target) (s : State) : Result :=
  runTask (op1 a t (fun _ x => BitVec.ofNat 32 (i * 2 ^ 21) ||| (x &&& 0x001FFFFF))) s
def execAddi (a : Src) (i : Nat) (t : Target) (s : State) : Result := runTask (op1 a t (fun _ x => x + sextImm i)) s
def execAndi (a : Src) (i : Nat) (t : Target) (s : State) : Result := runTask (op1 a t (fun _ x => x &&& BitVec.ofNat 32 i)) s
def execOri (a : Src) (i : Nat) (t : Target) (s : State) : Result := runTask (op1 a t (fun _ x => x ||| BitVec.ofNat 32 i)) s
def execXori (a : Src) (i : Nat) (t : Target) (s : State) : Result := runTask (op1 a t (fun _ x => x ^^^ BitVec.ofNat 32 i)) s
def execShli (a : Src) (i : Nat) (t : Target) (s : State) : Result := runTask (op1 a t (fun _ x => x <<< i)) s
def execShri (a : Src) (i : Nat) (t : Target) (s : State) : Result := runTask (op1 a t (fun _ x => x >>> i)) s
def execSrai (a : Src) (i : Nat) (t : Target) (s : State) : Result := runTask (op1 a t (fun _ x => x.sshiftRight i)) s
def execCmpeqi (a : Src) (i : Nat) (t : Target) (s : State) : Result := runTask (op1 a t (fun _ x => boolWord (x == sextImm i))) s
def execCmplti (a : Src) (i : Nat) (t : Target) (s : State) : Result :=
  runTask (op1 a t (fun _ x => boolWord (decide (x.toInt < (sextImm i).toInt)))) s
def execCmpltui (a : Src) (i : Nat) (t : Target) (s : State) : Result :=
  runTask (op1 a t (fun _ x => boolWord (decide (x.toNat < i)))) s
def execMfs (i : Nat) (t : Target) (s : State) : Result := runTask (op0 t (fun s τ => special s τ i)) s

/-- LIT (R208, R246): its literal is the next word; a LIT at the last position raises ILL_OP. -/
def execLit (word : Nat) (t : Target) (s : State) : Result :=
  runTask (fun s τ => do
    check (decide (τ.pos < τ.len)) causeIllOp
    checkTarget s τ t
    let τ' ← put s τ t (lanes0 τ (fun _ => BitVec.ofNat 32 word))
    .ok (τ'.advance 2)) s

end Sys2Proof.Machine
end

