-- ==== Sys2Proof/Machine/Pens.lean ====
section
/-! DEFINITION. Pens and tile SRAM: the checks of R18, the owner rule of R54, LDP, STP, GIVE and the bank grant (R17, R43 to R56,
R83, R275, R276, R290, R338). -/

namespace Sys2Proof.Machine

def penAt (s : State) (tile n : Nat) : Option Pen := sget s.tab.pens (tile * 1024 + n)

def setPen (s : State) (tile n : Nat) (p : Pen) : State := { s with tab := { s.tab with pens := sset s.tab.pens (tile * 1024 + n) p } }

/-- PEN and OFF of a PADDR (R17). -/
def penOf (p : Nat) : Nat := p / 2 ^ 22
def offOf (p : Nat) : Nat := p % 2 ^ 22

/-- The owner bit as an earlier GIVE of the block left it (R54). -/
def ownedFor (τ : Task) (n : Nat) (p : Pen) : Bool := p.own || τ.gives.any (fun g => g.1 == n)

/-- Steps 2 to 4 of R18 over `len` bytes at `off`: the cause and detail of the first that fails. -/
def penReach (s : State) (tile asid n : Nat) (off : Int) (len : Nat) : Option (Nat × Nat) :=
  match penAt s tile n with
  | none => some (causeAccess, 0x0D)
  | some p =>
    if p.size = 0 then some (causeAccess, 0x0D)
    else if off < 0 ∨ ((p.size * 4096 : Nat) : Int) < off + (len : Int) then some (causeAccess, 0x0E)
    else if p.asid ≠ asid then some (causeAccess, 0x0F)
    else none

/-- R18 for a PE access of `len` bytes with alignment `al`. -/
def penCheck (s : State) (τ : Task) (n : Nat) (off : Int) (len al : Nat) : Option (Nat × Nat) :=
  if off % (al : Int) ≠ 0 then some (causeAlign, 0)
  else
    match penReach s s.occ.a τ.cx.asid n off len with
    | some f => some f
    | none => if (penAt s s.occ.a n).elim false (ownedFor τ n) then some (causeOwnViol, 0) else none

/-- Raises what a pen check found; SADDR is the PADDR. -/
def penGuard (f : Option (Nat × Nat)) (paddr : Nat) : Body Unit :=
  match f with
  | none => .ok ()
  | some (c, d) => .error (.fault c d paddr)

/-- Address of a pen byte in the package's SRAM store (R43, R52). -/
def penByte (s : State) (tile n off : Nat) : Nat := tile * 2 ^ 24 + (penAt s tile n).elim 0 (·.base) * 4096 + off

/-- R83: a marked or failing word. -/
def sramBadAt (s : State) (a : Nat) : Bool := (sget s.mem.sramBad (a / 8)).isSome || (sget s.mem.sramLatent (a / 8)).isSome

/-- Reads SRAM bytes; `none` for an uncorrectable error (R83). -/
def sramRead (s : State) (a : Nat) : Nat → Option Nat
  | 0 => some 0
  | n + 1 => if sramBadAt s a then none else (sramRead s (a + 1) n).map (fun r => (mget s.mem.sram a).toNat + 256 * r)

/-- Writes SRAM bytes; the 8-byte words written whole lose their marks (R83). -/
def sramWrite (s : State) (a n v : Nat) : State := clearSram { s with mem := { s.mem with sram := mwrite s.mem.sram a n v } } (wholeWord a n)

/-- A read of SRAM bytes corrects their single-bit errors (R82). -/
def fixSram (s : State) (a n : Nat) : State := correctSoft s (a / 2 ^ 24) (a / 8) ((a + n + 7) / 8 - a / 8)

/-- Writes a list of bytes. -/
def sramWriteBytes (s : State) (a : Nat) (bs : List (BitVec 8)) : State := sramWrite s a bs.length (ofBytes bs)

/-- Reads bytes from a pen; `none` for an uncorrectable error. -/
def penRead (s : State) (tile paddr n : Nat) : Option Nat := sramRead s (penByte s tile (penOf paddr) (offOf paddr)) n

/-- A read of a pen corrects its single-bit errors (R82). -/
def fixPen (s : State) (tile paddr n : Nat) : State := fixSram s (penByte s tile (penOf paddr) (offOf paddr)) n

def penWrite (s : State) (tile paddr n v : Nat) : State := sramWrite s (penByte s tile (penOf paddr) (offOf paddr)) n v

/-- Commands of one block of one frame. -/
def sameBlock (p o : Op) : Bool := p.tile == o.tile && p.rank == o.rank && p.ctx == o.ctx && p.iter == o.iter && p.blk == o.blk

def isFence : OpKind → Bool
  | .fence _ => true
  | _ => false

/-- `p` comes before `o` at their port: within a block by position, since loads issue before the block's other accesses, else in issue order
(R136, R155). -/
def portBefore (p o : Op) : Bool :=
  if sameBlock p o && p.elem == o.elem then decide (p.pos < o.pos) else decide (p.id < o.id)

/-- A FENCE of the issuing block stands before an uncommitted load (R155). -/
def fenceInBlock (s : State) (o : Op) : Bool :=
  o.tid != 0 && (peAt s o.tile o.elem).run.elim false (fun τ => τ.tid == o.tid && τ.cbuf.any (fun e => match e with
    | .op f => isFence f.kind && decide (f.pos < o.pos)
    | .emit _ _ _ => false))

/-- R155: an earlier FENCE of the context on the tile is not released. -/
def fenced (s : State) (o : Op) : Bool :=
  s.ops.any (fun p => p.tile == o.tile && p.ctx == o.ctx && p.tid == 0 && isFence p.kind && portBefore p o) || fenceInBlock s o

def isStp : OpKind → Bool
  | .stp _ => true
  | _ => false

/-- An STP touches the row of an earlier TACC of its context that still waits in a commit buffer of the tile: it does not pass it (R138, R329). -/
def behindTacc (s : State) (o : Op) : Bool :=
  let touches (a n : Nat) : Bool := o.lanes.any (fun x => decide (x.va.toNat < a + n) && decide (a < x.va.toNat + x.len))
  (upto 9).any (fun e => (peAt s o.tile e).held.any (fun x => match x with
    | .op p => p.ctx == o.ctx && decide (p.id < o.id) &&
        (match p.kind with | .tacc _ a => touches (penByte s o.tile (penOf a) (offOf a)) (4 + 4 * p.w) | _ => false)
    | .emit _ _ _ => false))

/-- One requester's stream: CTX[2:0] of a PE's access, 0 for the groom core (R138). -/
def sameStream (p o : Op) : Bool := p.tile == o.tile && p.elem == o.elem && (p.elem == 8 || p.ctx % 8 == o.ctx % 8)

/-- Two STPs of one stream with a common byte (R138). -/
def stpsMeet (p o : Op) : Bool :=
  sameStream p o && p.lanes.any (fun x => o.lanes.any (fun y =>
    !x.fin && decide (x.va.toNat < y.va.toNat + y.len) && decide (y.va.toNat < x.va.toNat + x.len)))

/-- The committed STPs of a tile that do not reach their banks: those that a FENCE or an earlier TACC holds, and those behind one of them in its
stream with a common byte (R138, R155, R329). -/
def heldStps (s : State) (tile : Nat) : List Op :=
  s.ops.foldl (fun held o =>
    if o.tile == tile && isStp o.kind && o.tid == 0 && (fenced s o || behindTacc s o || held.any (fun p => stpsMeet p o)) then held ++ [o] else held) []

/-- What keeps a committed STP from its bank. -/
def stpHeld (s : State) (o : Op) : Bool := (heldStps s o.tile).any (·.id == o.id)

/-- STPs of a tile whose blocks have committed and that nothing holds. -/
def waitingStp (s : State) (tile : Nat) : List Op :=
  let held := (heldStps s tile).map (·.id)
  s.ops.filter (fun o => o.tile == tile && isStp o.kind && o.tid == 0 && !held.contains o.id)

/-- Lanes of one STP written at once; words that they write whole lose their marks (R44, R83, R276). -/
def stpWrite (s : State) (ls : List Lane) : State :=
  let has (a : Nat) : Bool := ls.any (fun x => x.va.toNat == a)
  clearSram (ls.foldl (fun s x => sramWrite s x.va.toNat 4 x.data) s) (fun k => has (8 * k) && has (8 * k + 4))

/-- The bank of a lane, and its bank word of 32 bytes (R43). -/
def laneBank (x : Lane) : Nat := x.va.toNat / 32 % 32

/-- A bank's pointer after a grant to a port (R47 step 3). -/
def bankGranted (s : State) (tile bank port : Nat) : State :=
  { s with mem := { s.mem with bankPtr := sset s.mem.bankPtr (tile * 32 + bank) ((port + 1) % 16) } }

/-- What is left of an STP is written, and its banks have granted its port (R47). -/
def performStp (s : State) (o : Op) : State :=
  let ls := o.lanes.filter (fun x => !x.fin)
  dropOp (ls.foldl (fun s x => bankGranted s o.tile (laneBank x) o.elem) (stpWrite s ls)) o.id

/-- Every STP of a tile that waits at a bank is performed, in issue order. -/
def drainStp (s : State) (tile : Nat) : State := (waitingStp s tile).foldl performStp s

/-- Those issued before an operation. -/
def drainBefore (s : State) (tile id : Nat) : State := ((waitingStp s tile).filter (fun o => decide (o.id < id))).foldl performStp s

/-- R47: the requester that a bank grants: the first port at or after the pointer with a write for the bank, which presents its oldest; the
bank word of that STP with its lanes. Reads of a pen are made at issue (log entry 12). -/
def bankChoice (s : State) (tile bank : Nat) : Option (Op × Lane) :=
  let ptr := sgetD s.mem.bankPtr (tile * 32 + bank) 0
  let of (e : Nat) : Option (Op × Lane) :=
    ((waitingStp s tile).filter (fun o => o.elem == e)).findSome?
      (fun o => (o.lanes.find? (fun x => !x.fin && laneBank x == bank)).map (fun x => (o, x)))
  (upto 16).findSome? (fun k => of ((ptr + k) % 16))

/-- One bank word of an STP is written (R44, R276). -/
def grantWord (s : State) (o : Op) (x : Lane) : State :=
  let mine (y : Lane) : Bool := !y.fin && y.va.toNat / 32 == x.va.toNat / 32
  let s := stpWrite s (o.lanes.filter mine)
  let o := { o with lanes := o.lanes.map (fun (y : Lane) => if mine y then { y with fin := true } else y) }
  if o.lanes.all (·.fin) then dropOp s o.id else setOp s o

/-- BANK_GRANT (R47): one bank performs one request. -/
def execBankGrant (s : State) : Result :=
  match bankChoice s s.occ.a s.occ.b with
  | none => .next s
  | some (o, x) => .next (bankGranted (grantWord s o x) s.occ.a s.occ.b o.elem)

/-- SRAM_SCRUB (R82, R83): one word of tile SRAM (the stash's among them) or of the frame store by its key: a single-bit error is corrected;
an uncorrectable one that nothing waits for is counted and the word is marked. -/
def execSramScrub (s : State) : Result :=
  let k := s.occ.b
  if 2 ^ 41 ≤ k ∧ k < 2 ^ 60 then .next s
  else
  let s := correctSoft s s.occ.a k 1
  if (sget s.mem.sramLatent k).isNone then .next s
  else
    let s := count { s with mem := { s.mem with sramLatent := sdel s.mem.sramLatent k } } 0 s.occ.a
    if k < 2 ^ 40 then .next { s with mem := { s.mem with sramBad := sset s.mem.sramBad k () } }
    else if k < 2 ^ 41 then .next { s with frm := { s.frm with slotBad := sset s.frm.slotBad (k - 2 ^ 40) () } }
    else .next { s with mem := { s.mem with stashBad := sset s.mem.stashBad (k - 2 ^ 60) () } }

/-- A lane's offset in a pen for LDP and STP (R275). -/
def pwOff (v : Word) (i : Nat) : Int := (offOf v.toNat : Int) + 4 * (sextImm i).toInt

/-- The executed lanes of a source with their PADDRs. -/
def execLanes (τ : Task) (x : Lanes) : List (Nat × Word) :=
  (upto 32).filterMap (fun l => if predOk τ l then (laneOf x l).map (fun v => (l, v)) else none)

/-- The first failing lane of an LDP or STP (R18, R33). -/
def penLanesCheck (s : State) (τ : Task) (i : Nat) (ls : List (Nat × Word)) : Body Unit :=
  ls.foldl (fun acc x => do acc; penGuard (penCheck s τ (penOf x.2.toNat) (pwOff x.2 i) 4 4) x.2.toNat) (.ok ())

/-- An LDP interlocks behind a FENCE of its context that is not released, and behind a held STP of its stream with a common byte, which it must see
(R138, R155, R275; log entry 12). A FENCE of its own block does not hold it (log entry 34). -/
def ldpWaits (a : Src) (i : Nat) (s : State) : Bool :=
  s.task?.elim false (fun τ =>
    let reads := (execLanes τ (readSrc τ false a)).map (fun x => penByte s s.occ.a (penOf x.2.toNat) (pwOff x.2 i).toNat)
    let meet (y : Lane) : Bool := !y.fin && reads.any (fun r => decide (r < y.va.toNat + y.len) && decide (y.va.toNat < r + 4))
    s.ops.any (fun p => p.tile == s.occ.a && p.tid == 0 && isFence p.kind && p.ctx == τ.ctx) ||
      (heldStps s s.occ.a).any (fun p => p.elem == s.occ.b && (p.elem == 8 || p.ctx % 8 == τ.ctx % 8) && p.lanes.any meet))

/-- LDP (R275): reads pen words at issue, after every STP of earlier committed blocks. -/
def execLdp (a : Src) (i : Nat) (t : Target) (s : State) : Result :=
  if ldpWaits a i s then .next s
  else
  runBody (fun s τ => do
    operands s τ [a] t
    let ls := execLanes τ (readSrc τ false a)
    penLanesCheck s τ i ls
    let s' := drainStp s s.occ.a
    let s' := ls.foldl (fun s x => fixSram s (penByte s s.occ.a (penOf x.2.toNat) (pwOff x.2 i).toNat) 4) s'
    let rd (v : Word) : Option Nat := sramRead s' (penByte s' s.occ.a (penOf v.toNat) (pwOff v i).toNat) 4
    match ls.find? (fun x => (rd x.2).isNone) with
    | some x => stop causeMemUe x.2.toNat
    | none =>
      let v := mkLanes (fun l => (ls.find? (·.1 == l)).bind (fun x => (rd x.2).map (BitVec.ofNat 32)))
      let τ' ← finish s' τ t v
      .ok (s', τ')) s

/-- STP (R276): checked at issue, written at commit. -/
def execStp (a : Src) (i : Nat) (s : State) : Result :=
  runTask (fun s τ => do
    check (srcOk τ a) causeBadSource
    let val := readSrc τ false a
    let ls := (execLanes τ (latchA τ)).filter (fun x => (laneOf val x.1).isSome)
    penLanesCheck s τ i ls
    let lanes := ls.map (fun x =>
      { lane := x.1, va := (penByte s s.occ.a (penOf x.2.toNat) (pwOff x.2 i).toNat : Nat), len := 4,
        data := ((laneOf val x.1).getD 0).toNat, cmp := penOf x.2.toNat, phys := none, rewalked := false, fin := false, res := 0, flt := 0 : Lane })
    if lanes.isEmpty then .ok (τ.advance 1)
    else .ok ((τ.enter (mkOp s τ (.stp []) none val noLanes lanes)).advance 1)) s

/-- GIVE (R290): checked at issue under steps 2 to 5 of R18; the flip is made at release. -/
def execGive (a : Src) (eng : Nat) (s : State) : Result :=
  runTask (fun s τ => do
    check (srcOk τ a) causeBadSource
    match ← lane0 τ (readSrc τ false a) [] with
    | none => .ok (τ.advance 1)
    | some v =>
      let n := penOf v.toNat
      penGuard (penCheck s τ n 0 0 1) v.toNat
      let τ := { τ with gives := τ.gives ++ [(n, eng, eng == 8)] }
      .ok ((τ.enter (mkOp s τ (.give n eng) none (readSrc τ false a) noLanes [])).advance 1)) s

/-- R338, R298 step 4: an earlier GIVE of the block gave the pen to the holder. -/
def givenTo (τ : Task) (n eng : Nat) : Bool := τ.gives.any (fun g => g.1 == n && g.2.1 == eng)

/-- The GIVE of a pen to a holder is consumed by a command of the block (R290). -/
def Task.consume (τ : Task) (n eng : Nat) : Task :=
  { τ with gives := τ.gives.map (fun g => if g.1 == n && g.2.1 == eng then (g.1, g.2.1, true) else g) }

/-- R338: steps 1 to 4 of R18 for a pen of a unit's instruction, then the holder. -/
def unitPen (s : State) (τ : Task) (paddr len eng : Nat) : Body Unit := do
  check (paddr % 4 == 0) causeAlign paddr
  penGuard (penReach s s.occ.a τ.cx.asid (penOf paddr) (offOf paddr) len) paddr
  check (givenTo τ (penOf paddr) eng) causeOwnViol paddr

/-- R55: an engine flips a pen back to the threads. -/
def flipBack (s : State) (tile n : Nat) : State :=
  match penAt s tile n with
  | some p => if p.own then setPen s tile n { p with own := false, eng := 0, gen := (p.gen + 1) % 256 } else s
  | none => s

end Sys2Proof.Machine
end

