-- ==== Sys2Proof/Machine/LaneOps.lean ====
section
/-! DEFINITION. Lanes, codebook, scales, running maxima, tag-ordered accumulation and the generator (R323 to R337). -/

namespace Sys2Proof.Machine

/-- One step of a combination (R324). -/
def redStep (o : RedOp) (a b : Word) : Word × Astat :=
  match o with
  | .fadd => add32 a b
  | .fmax => (fmax32 a b, 0)
  | .fmin => (fmin32 a b, 0)
  | .add => (a + b, 0)
  | .max => (smax a b, 0)
  | .min => (smin a b, 0)
  | .and => (a &&& b, 0)
  | .or => (a ||| b, 0)

/-- The inclusive combinations of executed lanes in ascending order (R324). -/
def scanFrom (o : RedOp) : Option Word → List (Option Word) → FLanes
  | _, [] => []
  | acc, none :: r => none :: scanFrom o acc r
  | none, some x :: r => some (x, 0) :: scanFrom o (some x) r
  | some a, some x :: r =>
    let z := redStep o a x
    some z :: scanFrom o (some z.1) r

def scanLanes (o : RedOp) (x : Lanes) : FLanes := scanFrom o none x

/-- The reduction of executed lanes (R324): `.fadd` by the tree of R323. -/
def reduceLanes (o : RedOp) (x : Lanes) : Option (Word × Astat) :=
  match o with
  | .fadd => treeSum 5 (x.map (fun v => v.map (fun w => (w, 0))))
  | o => (scanLanes o x).foldl (fun acc z => match z with
    | some v => some (v.1, acc.elim 0 (·.2) ||| v.2)
    | none => acc) none

def execLred (a : Src) (o : RedOp) (t : Target) (s : State) : Result :=
  runTask (fun s τ => do
    operands s τ [a] t
    let x := lanes1 τ (readSrc τ false a) (fun _ v => v)
    let r := reduceLanes o x
    finish s (τ.raise (r.elim 0 (·.2))) t (x.map (fun v => v.bind (fun _ => r.map (·.1))))) s
def execLscan (a : Src) (o : RedOp) (t : Target) (s : State) : Result :=
  runTask (fun s τ => do
    operands s τ [a] t
    finishF s τ t (scanLanes o (lanes1 τ (readSrc τ false a) (fun _ v => v)))) s

/-- The source lane of SHUF (R325). -/
def shufLane (m : ShufMode) (w l b : Nat) : Nat :=
  match m with
  | .idx => b % 32
  | .xor => l ^^^ (b % 32)
  | .rot => (l + b % 32) % w

def execShuf (a b : Src) (m : ShufMode) (t : Target) (s : State) : Result :=
  runTask (fun s τ => do
    operands s τ [a, b] t
    let x := readSrc τ false a
    let y := readSrc τ true b
    finish s τ t (mkLanes (fun l => if predOk τ l then
      (laneOf y l).bind (fun v =>
        let k := shufLane m τ.w l v.toNat
        if k < τ.w then laneOf x k else none) else none))) s

/-- LBC (R326). -/
def execLbc (a b : Src) (t : Target) (s : State) : Result :=
  runTask (fun s τ => do
    operands s τ [a, b] t
    match laneOf (readSrc τ true b) 0 with
    | none => do
      check (!(List.range 32).any (predOk τ)) causeBadSource
      finish s τ t noLanes
    | some v => do
      let k := v.toNat % 32
      check (decide (k < τ.w) || !(List.range 32).any (predOk τ)) causeBadSource
      match laneOf (readSrc τ false a) k with
      | none => finish s τ t noLanes
      | some x => finish s τ t (lanes0 τ (fun _ => x))) s

/-- Elements of a lane for VDOT (R327). -/
def dotElems (f : Fmt) : Nat := 32 / fmtWidth f

/-- The leaves of a dot product (R327). -/
def dotLeaves (f : Fmt) (x y : Lanes) : FLanes :=
  ((List.range 32).map (fun l => (List.range (dotElems f)).map (fun e =>
    match laneOf x l, laneOf y l with
    | some a, some b =>
      let p := readNum f (a.toNat / 2 ^ (fmtWidth f * e))
      let q := readNum f (b.toNat / 2 ^ (fmtWidth f * e))
      let z := roundOf fpF32 .rne false (numMul p.1 q.1)
      some (BitVec.ofNat 32 z.1, z.2 ||| p.2 ||| q.2)
    | _, _ => none))).flatten

def execVdot (a b : Src) (f : Fmt) (t : Target) (s : State) : Result :=
  runTask (fun s τ => do
    operands s τ [a, b] t
    let x := lanes2 τ (readSrc τ false a) (readSrc τ true b) (fun _ p _ => p)
    let y := lanes2 τ (readSrc τ false a) (readSrc τ true b) (fun _ _ q => q)
    let r := treeSum 7 (dotLeaves f x y)
    finish s (τ.raise (r.elim 0 (·.2))) t (x.map (fun v => v.bind (fun _ => r.map (·.1))))) s

/-- TACC (R328): the row is checked at issue; the entry is applied later. -/
def execTacc (a b : Src) (t : Target) (s : State) : Result :=
  runTask (fun s τ => do
    check (srcOk τ a && srcOk τ b) causeBadSource
    let p ← portOrDiscard s τ t
    match ← control τ (readSrc τ true b) [readSrc τ false a] with
    | none => .ok (τ.advance 1)
    | some v =>
      penGuard (penCheck s τ (penOf v.toNat) (offOf v.toNat) (4 + 4 * τ.w) 4) v.toNat
      let x := lanes1 τ (readSrc τ false a) (fun _ z => z)
      .ok ((τ.enter (mkOp s τ (.tacc 0 v.toNat) p x noLanes [])).advance 1)) s

/-- R130: element `e` of a CB2 index as four times its value. -/
def cb2Elem (row idx e : Nat) : Int :=
  let q := row / 2 ^ (4 * e) % 16
  let par := popcount (bits idx 1 7) % 2
  let sg := if e < 7 then idx / 2 ^ (e + 1) % 2 else (row / 2 ^ 32 + par) % 2
  let m4 := 2 * q + idx % 2
  if sg = 1 then -(m4 : Int) else m4

/-- A quarter-integer as FP32 or BF16 (R330); zero is +0. -/
def quarter (f : Fmt) (v : Int) : Nat :=
  if v = 0 then 0 else ((fmtFp f).round .rne false (.fin (decide (v < 0)) v.natAbs (-2) false)).1

/-- Key of an 8-byte word of the island's tables by its number on the tile (R82, R83). -/
def islWord (tile k : Nat) : Nat := tile * 2 ^ 18 + k

/-- Numbers of the words of the accumulator store, two elements each (R78), of the lattice rows (R79) and of the activation entries (R80). -/
def accWord (elem : Nat) : Nat := elem / 2
def latticeWord (row : Nat) : Nat := 32768 + row
def actWord (entry : Nat) : Nat := 33024 + entry

/-- The lattice table after an LTLD: of two lanes naming one row the higher stands (R331). -/
def ltldRows (m : Store Nat) (o : Op) : Store Nat :=
  (upto 32).foldl (fun m l => match laneOf o.a l, laneOf o.b l with
    | some v, some k => sset m (o.tile * 256 + k.toNat % 256) (v.toNat + k.toNat / 256 % 2 * 2 ^ 32)
    | _, _ => m) m

/-- LTLDs of a tile whose blocks have committed and whose write is held (R331), in release order. -/
def heldLtld (s : State) (tile : Nat) : List Op := s.ops.filter (fun o => o.tile == tile && o.tid == 0 && o.kind == .ltld)

/-- LTLDs of a tile whose blocks have committed and whose rows stand in no table yet, those that still wait in a commit buffer last. -/
def seenLtld (s : State) (tile : Nat) : List Op :=
  heldLtld s tile ++ ((upto 9).map (fun e => (peAt s tile e).held)).flatten.filterMap (fun x => match x with
    | .op p => if p.kind == .ltld then some { p with tile := tile } else none
    | .emit _ _ _ => none)

/-- A word of the island's tables with an uncorrectable error (R83). -/
def islBad (s : State) (tile k : Nat) : Bool :=
  (sget s.isl.accBad (islWord tile k)).isSome || (sget s.mem.sramLatent (islandWord (islWord tile k))).isSome

/-- Words of the island's tables that are written whole lose their marks (R83). -/
def clearIsl (s : State) (tile lo n : Nat) : State :=
  clearSram { s with isl := { s.isl with accBad := sdrop s.isl.accBad (islWord tile lo) n } }
    (fun k => decide (islandWord (islWord tile lo) ≤ k) && decide (k < islandWord (islWord tile lo) + n))

/-- A read of words of the island's tables corrects their single-bit errors (R82). -/
def fixIsl (s : State) (tile lo n : Nat) : State := correctSoft s tile (islandWord (islWord tile lo)) n

/-- A row with an uncorrectable error that no held LTLD writes anew (R83). -/
def latticeBad (s : State) (tile r : Nat) : Bool :=
  islBad s tile (latticeWord r) &&
    !(seenLtld s tile).any (fun o => (upto 32).any (fun l => (laneOf o.b l).elim false (fun k => k.toNat % 256 == r)))

/-- CBDEC (R330, R331): it sees the rows of every LTLD that has committed; a lattice row with an uncorrectable error gives MEM_UE (R83). -/
def execCbdec (a : Src) (f : Fmt) (entry : Nat) (hi : Bool) (t : Target) (s : State) : Result :=
  runBody (fun s τ => do
    operands s τ [a] t
    let rowOf (x : Word) : Nat := (if hi then x.toNat / 2 ^ 16 else x.toNat % 2 ^ 16) / 256
    check ((execLanes τ (readSrc τ false a)).all (fun x => !latticeBad s s.occ.a (rowOf x.2))) causeMemUe
    let table := (seenLtld s s.occ.a).foldl ltldRows s.isl.lattice
    let s := (execLanes τ (readSrc τ false a)).foldl (fun s x => fixIsl s s.occ.a (latticeWord (rowOf x.2)) 1) s
    let τ' ← finish s τ t (lanes1 τ (readSrc τ false a) (fun _ x =>
      let idx := if hi then x.toNat / 2 ^ 16 else x.toNat % 2 ^ 16
      let row := sgetD table (s.occ.a * 256 + idx / 256) 0
      match f with
      | .f32 => BitVec.ofNat 32 (quarter .f32 (cb2Elem row idx entry))
      | _ => BitVec.ofNat 32 (quarter .bf16 (cb2Elem row idx (2 * (entry % 4))) +
          quarter .bf16 (cb2Elem row idx (2 * (entry % 4) + 1)) * 2 ^ 16)))
    .ok (s, τ')) s

/-- LTLD (R331): rows are written at commit. -/
def execLtld (a b : Src) (s : State) : Result :=
  runTask (fun s τ => do
    check (srcOk τ a && srcOk τ b) causeBadSource
    let x := lanes2 τ (readSrc τ false a) (readSrc τ true b) (fun _ p _ => p)
    let y := lanes2 τ (readSrc τ false a) (readSrc τ true b) (fun _ _ q => q)
    check (y.all (fun v => v.elim true (fun w => decide (w.toNat < 512)))) causeBadSource
    if anyLane x then .ok ((τ.enter (mkOp s τ .ltld none x y [])).advance 1) else .ok (τ.advance 1)) s

/-- R332: a product with a widened scale. -/
def scaled (a : Word) (sc : Num × Astat) : Word × Astat :=
  let r := roundOf fpF32 .rne false (numMul (num32 a) sc.1)
  (BitVec.ofNat 32 r.1, r.2 ||| sc.2)

def execScmul (a b : Src) (f : Fmt) (t : Target) (s : State) : Result :=
  runTask (fop2 a b t (fun _ _ _ x y => scaled x (readScale f y.toNat))) s

/-- R333: `tc + (a × sb) × st`, each step rounded. -/
def scaccWord (bf : Fmt) (tbf16 : Bool) (a b c st : Word) : Word × Astat :=
  let sb := readScale bf b.toNat
  let tn := readScale (if tbf16 then .bf16 else .f32) st.toNat
  let p := scaled a sb
  let q := scaled p.1 tn
  let r := add32 c q.1
  (r.1, p.2 ||| q.2 ||| r.2)

def execScacc (a b : Src) (bf : Fmt) (c : Nat) (tbf16 : Bool) (t : Target) (s : State) : Result :=
  runTask (fun s τ => do
    operands s τ [a, b] t
    let tc := τ.temps.getD c noLanes
    let ts := τ.temps.getD ((c + 1) % 8) noLanes
    finishF s τ t ((List.range 32).map (fun l => if predOk τ l then
      match laneOf (readSrc τ false a) l, laneOf (readSrc τ true b) l, laneOf tc l, laneOf ts l with
      | some x, some y, some z, some w => some (scaccWord bf tbf16 x y z w)
      | _, _, _, _ => none
    else none))) s

/-- R334: the largest magnitude, or NaN. -/
def amaxOf (x : Lanes) : Option Word :=
  x.foldl (fun acc v => match v with
    | none => acc
    | some w =>
      let m := if (num32 w).isNan then nan32 else w &&& 0x7FFFFFFF
      some (acc.elim m (fun y => amaxc y m))) none

def execAmax (a : Src) (n : Nat) (t : Target) (s : State) : Result :=
  runTask (fun s τ => do
    operands s τ [a] t
    let x := lanes1 τ (readSrc τ false a) (fun _ v => v)
    match amaxOf x with
    | none => finish s τ t noLanes
    | some m =>
      let τ' ← put s τ t (x.map (fun v => v.map (fun _ => m)))
      .ok ((τ'.enter (mkOp s τ (.amax n m) none noLanes noLanes [])).advance 1)) s

/-- R337: a draw as a lane's result. -/
def rngForm (f : RngForm) (w : Nat) : Word :=
  match f with
  | .raw => BitVec.ofNat 32 w
  | .u01 => (rne32 (.fin false (w / 256) (-24) false)).1
  | .u01c => (rne32 (.fin false (w / 256 + 1) (-24) false)).1

def execRng (a b : Src) (w : Nat) (f : RngForm) (t : Target) (s : State) : Result :=
  runTask (fun s τ => op2 a b t (fun _ x y =>
    rngForm f (philox τ.cx.seed.toNat x.toNat y.toNat τ.cx.seq.toNat 0 w)) s τ) s

end Sys2Proof.Machine
end

