-- ==== Sys2Proof/Machine/Stash.lean ====
section
/-! DEFINITION. The tile stash: lines, fills, write-backs and drops (R63 to R68, R83), and a normal load and store of bytes as
the tile performs them (R133, R135). -/

namespace Sys2Proof.Machine

/-- Key of a stash byte. -/
def stashKey (tile pa : Nat) : Nat := tile * 2 ^ 52 + pa

/-- Key of a stash line. -/
def lineKey (tile line : Nat) : Nat := tile * 2 ^ 45 + line

/-- R63: sets of the tile's stash; 0 without a stash. -/
def stashSets (s : State) (tile : Nat) : Nat := 512 * (planOf s tile).stash

/-- R24, R64: whether normal accesses of an element use the stash. -/
def stashOn (s : State) (tile elem : Nat) : Bool := decide (elem < 8) && decide (0 < stashSets s tile)

/-- The valid bytes of a line, by offset. -/
def lineBytes (s : State) (tile line : Nat) : Store StashByte := srange s.mem.stash (stashKey tile (line * 128)) 128

def linePresent (s : State) (tile line : Nat) : Bool := !(lineBytes s tile line).isEmpty

/-- Lines of a tile that are present, each once. -/
def presentLines (s : State) (tile : Nat) : List Nat :=
  dedup ((srange s.mem.stash (stashKey tile 0) (2 ^ 52)).map (fun p => p.1 / 128))

def dirtyLines (s : State) (tile : Nat) : List Nat :=
  dedup (((srange s.mem.stash (stashKey tile 0) (2 ^ 52)).filter (fun p => p.2.dirty)).map (fun p => p.1 / 128))

/-- A store with every lane performed at home is complete (R140). -/
def settleStore (s : State) (o : Op) : State := if o.lanes.all (·.fin) then dropOp s o.id else setOp s o

/-- Whether the stash holds a dirty byte of a lane's store. -/
def laneDirty (s : State) (tile : Nat) (x : Lane) : Bool :=
  x.phys.elim false (fun p => (upto x.len).any (fun k => (sget s.mem.stash (stashKey tile (p.pa + k))).elim false (·.dirty)))

/-- The lanes of stores that a line absorbed (`res` is 1) and of which it holds no dirty byte any more are performed at home,
or gone with it. -/
def ackLine (s : State) (tile line : Nat) : State :=
  let at_ (x : Lane) : Bool := x.res == 1 && !x.fin && x.phys.elim false (fun p => p.pa / 128 == line) && !laneDirty s tile x
  (s.ops.filter (fun o => o.tile == tile && (match o.kind with | .st _ _ => o.lanes.any at_ | _ => false))).foldl
    (fun s o => settleStore s { o with lanes := o.lanes.map (fun (x : Lane) => if at_ x then { x with fin := true } else x) }) s

/-- Stash words that are written whole, or whose bytes go, lose their marks (R83). -/
def clearStash (s : State) (whole : Nat → Bool) : State :=
  clearSram { s with mem := { s.mem with stashBad := s.mem.stashBad.filter (fun p => !whole p.1) } }
    (fun k => decide (2 ^ 60 ≤ k) && whole (k - 2 ^ 60))

/-- A valid byte of the stash stands in a word with an uncorrectable error (R83). -/
def stashFails (s : State) (tile pa : Nat) : Bool :=
  let w := stashKey tile pa / 8
  (sget s.mem.stash (stashKey tile pa)).isSome && ((sget s.mem.stashBad w).isSome || (sget s.mem.sramLatent (stashWord w)).isSome)

/-- Reading stash bytes corrects the single-bit errors of their words (R82). -/
def fixStash (s : State) (tile pa n : Nat) : State :=
  correctSoft s tile (stashWord (stashKey tile pa / 8)) ((stashKey tile pa + n + 7) / 8 - stashKey tile pa / 8)

/-- Drops a line, dirty bytes included (SINV, R67). -/
def dropLine (s : State) (tile line : Nat) : State :=
  let s := clearStash s (wholeWord (stashKey tile (line * 128)) 128)
  ackLine { s with mem := { s.mem with
    stash := sdrop s.mem.stash (stashKey tile (line * 128)) 128, stashUse := sdel s.mem.stashUse (lineKey tile line) } } tile line

/-- R66, R83: writes back the dirty bytes of a line as one masked write; the line stays. A line that fails is dropped and
reported to the supervisor. -/
def writeBackLine (s : State) (tile line : Nat) : State :=
  let dirty := (lineBytes s tile line).filter (fun p => p.2.dirty)
  if dirty.isEmpty then s
  else if dirty.any (fun p => stashFails s tile (line * 128 + p.1)) then
    frameless (dropLine s tile line) tile causeMemUe 0 (line * 128)
  else
    let s := fixStash s tile (line * 128) 128
    let s := dirty.foldl (fun s p => homeSet s p.2.enc (line * 128 + p.1) p.2.val) s
    let whole (k : Nat) : Bool := (upto 8).all (fun j => dirty.any (fun p => p.1 == k * 8 + j))
    let s := (upto 16).foldl (fun s k => if whole k then clearBad s (line * 128 + k * 8) 8 else s) s
    let clean (m : Store StashByte) (p : Nat × StashByte) : Store StashByte :=
      sset m (stashKey tile (line * 128 + p.1)) { p.2 with dirty := false }
    ackLine { s with mem := { s.mem with stash := dirty.foldl clean s.mem.stash } } tile line

/-- Writes back every dirty line of a tile (R67). -/
def writeBackAll (s : State) (tile : Nat) : State := (dirtyLines s tile).foldl (fun s l => writeBackLine s tile l) s

/-- The dirty lines that overlap one of some byte ranges (address, length). -/
def overlaps (rs : List (Nat × Nat)) (line : Nat) : Bool := rs.any (fun r => decide (r.1 < line * 128 + 128) && decide (line * 128 < r.1 + r.2))

def writeBackIn (s : State) (tile : Nat) (rs : List (Nat × Nat)) : State :=
  ((dirtyLines s tile).filter (overlaps rs)).foldl (fun s l => writeBackLine s tile l) s

/-- Clears the valid bytes that are not dirty in lines that overlap the ranges (R67). -/
def cleanIn (s : State) (tile : Nat) (rs : List (Nat × Nat)) : State :=
  let gone (p : Nat × StashByte) : Bool :=
    decide (stashKey tile 0 ≤ p.1) && decide (p.1 < stashKey (tile + 1) 0) && !p.2.dirty && overlaps rs (p.1 % 2 ^ 52 / 128)
  { s with mem := { s.mem with stash := s.mem.stash.filter (fun p => !gone p) } }

/-- Evicts a line (R66): dirty bytes are written back first. -/
def evictLine (s : State) (tile line : Nat) : State := dropLine (writeBackLine s tile line) tile line

/-- The line of a set that was used least recently. -/
def victim (s : State) (tile : Nat) (ls : List Nat) : Nat :=
  let use (l : Nat) : Nat := sgetD s.mem.stashUse (lineKey tile l) 0
  ls.foldl (fun best l => if use l < use best then l else best) (ls.headD 0)

/-- R63: room for a line in its set. -/
def makeRoom (s : State) (tile line : Nat) : State :=
  if linePresent s tile line then s
  else
    let n := max 1 (stashSets s tile)
    let ls := (presentLines s tile).filter (fun l => l % n == line % n)
    if ls.length < 16 then s else evictLine s tile (victim s tile ls)

def touchLine (s : State) (tile line : Nat) : State :=
  { s with mem := { s.mem with stashUse := sset s.mem.stashUse (lineKey tile line) s.cyc } }

/-- R88: reading corrects single-bit errors; the stack of each counts it. -/
def correctAt (s : State) (pa n : Nat) : State :=
  let hits := s.mem.single.filter (fun p => decide (pa < p.1 * 8 + 8) && decide (p.1 * 8 < pa + n))
  hits.foldl (fun s p => count { s with mem := { s.mem with single := sdel s.mem.single p.1 } } 2 (controller s (p.1 * 8))) s

/-- Reads at home; `none` for an uncorrectable error (R85, R89). -/
def readHome (s : State) (dom pa n : Nat) : State × Option Nat := (correctAt s pa n, homeRead s dom pa n)

/-- R65: fills the invalid bytes of a line from home, the whole line read at once; `none` for an uncorrectable error. -/
def fillLine (s : State) (tile : Nat) (p : Phys) : Option State :=
  let line := p.pa / 128
  let s := correctAt s (line * 128) 128
  match homeRead s p.enc (line * 128) 128 with
  | none => none
  | some v =>
    let s := touchLine (makeRoom s tile line) tile line
    let fill (m : Store StashByte) (k : Nat) : Store StashByte :=
      match sget m (stashKey tile (line * 128 + k)) with
      | some _ => m
      | none => sset m (stashKey tile (line * 128 + k)) { val := BitVec.ofNat 8 (v / 256 ^ k), dirty := false, enc := p.enc }
    let vacant (w : Nat) : Bool := wholeWord (stashKey tile (line * 128)) 128 w && (upto 8).all (fun k => (sget s.mem.stash (w * 8 + k)).isNone)
    let s := clearStash s vacant
    some { s with mem := { s.mem with stash := (upto 128).foldl fill s.mem.stash } }

/-- Bytes valid in the stash. -/
def stashBytes (s : State) (tile pa : Nat) : Nat → Option Nat
  | 0 => some 0
  | n + 1 =>
    match sget s.mem.stash (stashKey tile pa), stashBytes s tile (pa + 1) n with
    | some b, some r => some (b.val.toNat + 256 * r)
    | _, _ => none

/-- A normal load of a tile's element (R133): the state after it and the value; an error has the PA of the line or word. -/
def loadNormal (s : State) (tile elem : Nat) (p : Phys) (n : Nat) : State × Except Nat Nat :=
  if stashOn s tile elem then
    let line := p.pa / 128
    if (upto n).any (fun k => stashFails s tile (p.pa + k)) then (dropLine s tile line, .error p.pa)
    else
    let s := fixStash s tile p.pa n
    match stashBytes s tile p.pa n with
    | some v => (touchLine s tile line, .ok v)
    | none =>
      match fillLine s tile p with
      | none => (correctAt s (line * 128) 128, .error p.pa)
      | some s => (s, .ok ((stashBytes s tile p.pa n).getD 0))
  else
    match readHome s p.enc p.pa n with
    | (s, some v) => (s, .ok v)
    | (s, none) => (s, .error p.pa)

/-- The stash absorbs a store's bytes (R65); `dirty` is false when the store is written through as well (R67). -/
def absorb (s : State) (tile : Nat) (p : Phys) (n v : Nat) (dirty : Bool) : State :=
  let s := touchLine (makeRoom s tile (p.pa / 128)) tile (p.pa / 128)
  let s := clearStash s (wholeWord (stashKey tile p.pa) n)
  let put1 (m : Store StashByte) (k : Nat) : Store StashByte :=
    sset m (stashKey tile (p.pa + k)) { val := BitVec.ofNat 8 (v / 256 ^ k), dirty := dirty, enc := p.enc }
  { s with mem := { s.mem with stash := (upto n).foldl put1 s.mem.stash } }

/-- STASH_EVICTION (R66, R133): a line leaves the stash. -/
def execStashEviction (s : State) : Result :=
  if linePresent s s.occ.a s.occ.b then .next (evictLine s s.occ.a s.occ.b) else .next s

/-- DRAM_SCRUB (R88 to R90): one 64-byte block; uncorrectable words enter the controller's list of 256, or are reported to the
supervisor of tile 0 of the quadrant. -/
def execDramScrub (s : State) : Result :=
  let pa := s.occ.b * 64
  let s := correctAt s pa 64
  let one (s : State) (k : Nat) : State :=
    let w := pa / 8 + k
    if (sget s.mem.latent w).isSome then
      let s := count s 3 (controller s pa)
      if (s.mem.badWords.filter (fun p => controller s (p.1 * 8) == controller s pa)).length < 256 then
        { s with mem := { s.mem with latent := sdel s.mem.latent w, badWords := sset s.mem.badWords w () } }
      else frameless s (quadTile0 (controller s pa / 3)) causeMemUe 0 (w * 8)
    else s
  .next ((upto 8).foldl one s)

end Sys2Proof.Machine
end

