-- ==== Sys2Proof/Machine/Xlate.lean ====
section
/-! DEFINITION. Translation: the walk (R20 to R24, R28, R29), the translation buffers (R25), the miss tables and walkers (R26,
R27, R35), the checks of R30 and R31, and shoot-down of one unit (R36, R38). -/

namespace Sys2Proof.Machine

/-- A cause with its detail, or a result. -/
abbrev Check (α : Type) := Except (Nat × Nat) α

/-- Reads 8 bytes of a table at home (R24), in domain 0 (R456); the controller corrects single-bit errors (R88). A PA
outside the DRAM rows that are present raises ACCESS 0x0B, the model's choice (log entry 10). -/
def tableRead (s : State) (pa : Nat) : State × Check Nat :=
  if !dramPresent s pa then (s, .error (causeAccess, 0x0B))
  else
    match readHome s 0 pa 8 with
    | (s, some v) => (s, .ok v)
    | (s, none) => (s, .error (causeMemUe, 0))

/-- The ASID table (R22). -/
def ptRoot (s : State) : Nat := s.dev.ptrootl.toNat + 2 ^ 32 * s.dev.ptrooth.toNat

/-- The root table page that the two words of an ASID entry give (R22), or PAGE detail 0x06. -/
def rootOf (lo hi : Nat) : Check Nat :=
  if bit lo 0 && bits lo 1 12 == 0 && bits lo 52 12 == 0 && bits hi 16 48 == 0 then .ok (bits lo 13 39 * 2 ^ 13)
  else .error (causePage, 0x06)

/-- Reads the ASID entry of an ASID (R22). -/
def asidRoot (s : State) (asid : Nat) : State × Check Nat :=
  match tableRead s (ptRoot s + asid * 16) with
  | (s, .error e) => (s, .error e)
  | (s, .ok lo) =>
    match tableRead s (ptRoot s + asid * 16 + 8) with
    | (s, .error e) => (s, .error e)
    | (s, .ok hi) => (s, rootOf lo hi)

/-- Page size in bits of a leaf at a level (R20). -/
def levelBits (lvl : Nat) : Nat := 16 + 10 * lvl

/-- The checks of R21 on an entry read at a level. -/
def pteCheck (lvl pte : Nat) : Check Unit :=
  let leaf := bit pte 1
  if !bit pte 0 then .error (causePage, 0x02)
  else if bits pte 60 4 != 0 || bits pte 10 3 != 0 || leaf && (bits pte 13 3 != 0 || bits pte 8 2 == 3) then .error (causePage, 0x03)
  else if leaf && lvl == 3 || !leaf && lvl == 0 then .error (causePage, 0x04)
  else if leaf && lvl == 1 && bits pte 16 10 != 0 || leaf && lvl == 2 && bits pte 16 20 != 0 then .error (causePage, 0x04)
  else if !leaf && (dramRow (bits pte 13 39 * 2 ^ 13)).isNone then .error (causePage, 0x05)
  else .ok ()

/-- What reading entries downwards found: the level, address and value of the leaf, or a failure with the level it was met at. -/
structure Descent where
  leaf : Except (Nat × Nat × Nat) (Nat × Nat × Nat)
  seen : List (Nat × Nat)

/-- Reads entries from a table page of a level downwards, with the table pages met. -/
def walkDown (va : Nat) : Nat → Nat → List (Nat × Nat) → State → State × Descent
  | lvl, page, seen, s =>
    let a := page + va / 2 ^ levelBits lvl % 1024 * 8
    match tableRead s a with
    | (s, .error e) => (s, { leaf := .error (lvl, e), seen := seen })
    | (s, .ok pte) =>
      match pteCheck lvl pte with
      | .error e => (s, { leaf := .error (lvl, e), seen := seen })
      | .ok _ =>
        if bit pte 1 then (s, { leaf := .ok (lvl, a, pte), seen := seen })
        else
          match lvl with
          | 0 => (s, { leaf := .error (0, causePage, 0x04), seen := seen })
          | l + 1 => walkDown va l (bits pte 13 39 * 2 ^ 13) (seen ++ [(lvl, bits pte 13 39 * 2 ^ 13)]) s

/-- R28: the deepest cached table page for an address: the level it is indexed at, and its PA. -/
def cachedStart (s : State) (quad asid va : Nat) : Option (Nat × Nat) :=
  let hit (lvl : Nat) : Option (Nat × Nat) :=
    (s.xl.cache.find? (fun c => c.quad == quad && c.asid == asid && c.lvl == lvl && c.path == va / 2 ^ levelBits lvl)).map
      (fun c => (lvl - 1, c.page))
  (hit 1).orElse (fun _ => (hit 2).orElse (fun _ => hit 3))

/-- The buffered form of a leaf (R21, R25). -/
def leafEntry (asid va lvl pte : Nat) : TbEntry :=
  { asid := asid, page := va / 2 ^ levelBits lvl, bits := levelBits lvl, pa := bits pte 16 36 * 2 ^ 16, wr := bit pte 2, ex := bit pte 3,
    us := bit pte 4, gl := bit pte 5, d := bit pte 7, mt := bits pte 8 2, enc := bits pte 52 8 }

/-- R28: the walk cache of 512 entries keeps the newest. -/
def cacheWalk (s : State) (quad asid va : Nat) (seen : List (Nat × Nat)) : State :=
  let new := seen.map (fun x => { quad := quad, asid := asid, lvl := x.1, path := va / 2 ^ levelBits x.1, page := x.2 : WalkEntry })
  let other := s.xl.cache.filter (fun c => !new.any (fun n => n.quad == c.quad && n.asid == c.asid && n.lvl == c.lvl && n.path == c.path))
  let mine := other.filter (fun c => c.quad == quad)
  let keep := mine.drop (mine.length + new.length - 512)
  { s with xl := { s.xl with cache := other.filter (fun c => c.quad != quad) ++ keep ++ new } }

/-- R29: the cached copy of a table entry whose word has an uncorrectable error is dropped. -/
def dropCached (s : State) (quad asid va lvl : Nat) : State :=
  let bad (c : WalkEntry) : Bool := c.quad == quad && c.asid == asid && c.lvl == lvl && c.path == va / 2 ^ levelBits lvl
  { s with xl := { s.xl with cache := s.xl.cache.filter (fun c => !bad c) } }

/-- Where a walk starts: the deepest cached level, or the root that the ASID entry names (R28). -/
def walkStart (s : State) (quad asid va : Nat) (root : Bool) : State × Check (Nat × Nat) :=
  match (if root then none else cachedStart s quad asid va) with
  | some c => (s, .ok c)
  | none =>
    match asidRoot s asid with
    | (s, .ok r) => (s, .ok (3, r))
    | (s, .error e) => (s, .error e)

/-- A whole walk (R20 to R24, R29, log entry 10): A, and D for a write, are set in the leaf. -/
def walk (s : State) (quad asid va : Nat) (wr root : Bool) : State × Check TbEntry :=
  match walkStart s quad asid va root with
  | (s, .error e) => (s, .error e)
  | (s, .ok (lvl, page)) =>
    match walkDown va lvl page [] s with
    | (s, d) =>
      let s := cacheWalk s quad asid va d.seen
      match d.leaf with
      | .error (lvl, e) => (if e.1 = causeMemUe then dropCached s quad asid va lvl else s, .error e)
      | .ok (lvl, a, pte) =>
        let pte' := pte ||| 64 ||| (if wr then 128 else 0)
        (if pte' = pte then s else homeWrite s 0 a 8 pte', .ok (leafEntry asid va lvl pte'))

/-! Translation buffers (R25). -/

def tbMatch (e : TbEntry) (asid va : Nat) : Bool := (e.gl || e.asid == asid) && e.page == va / 2 ^ e.bits

def tbFind (s : State) (tile asid va : Nat) : Option TbEntry := (sgetD s.xl.tb tile []).find? (fun e => tbMatch e asid va)

/-- R25: an entry is the one used last. -/
def tbUse (s : State) (tile : Nat) (e : TbEntry) : State :=
  { s with xl := { s.xl with tb := sset s.xl.tb tile (e :: (sgetD s.xl.tb tile []).erase e) } }

/-- Installs a translation as the one used last; a set of four ways keeps those used last (R25). -/
def tbInstall (s : State) (tile : Nat) (e : TbEntry) : State :=
  let old := (sgetD s.xl.tb tile []).filter (fun x => !(x.asid == e.asid && x.bits == e.bits && x.page == e.page))
  let mine := (old.filter (fun x => x.page % 64 == e.page % 64)).take 3
  { s with xl := { s.xl with tb := sset s.xl.tb tile (e :: mine ++ old.filter (fun x => x.page % 64 != e.page % 64)) } }

def physOf (e : TbEntry) (va : Nat) : Phys := { pa := e.pa + va % 2 ^ e.bits, mt := e.mt, enc := e.enc }

/-! Checks 4 to 10 (R30, R31). -/

/-- R11: the leaf's memory type is one the row of the PA allows; a PA in no row passes. -/
def rowAllows (pa mt : Nat) : Bool :=
  if (dramRow pa).isSome then mt == 0 || mt == 1
  else if inScWindow pa then mt == 1
  else if inDevice pa then mt == 2
  else true

/-- A word of a device register that the spec names (R95, R403, R447, R450); nothing stands at the other addresses of their row of R11
(log entry 18). -/
def deviceNamed (pa : Nat) : Bool :=
  let r := (pa - 0x018000000000) / 8 * 8
  inDevice pa && (r == 0x1000 || r == 0x1008 || r == 0x2000 || r == 0x3000 || decide (0x4000 ≤ r) && decide (r < 0x4058))

/-- R12. -/
def paPresent (s : State) (pa : Nat) : Bool := isRemote pa || inScWindow pa || deviceNamed pa || dramPresent s pa

/-- R95, R403, R447: the registers that only supervisor code reaches. -/
def supervisorReg (pa : Nat) : Bool :=
  let r := (pa - 0x018000000000) / 8 * 8
  inDevice pa && (r == 0x1000 || r == 0x1008 || r == 0x2000 || r == 0x3000)

/-- What an access asks of its translation. -/
structure Want where
  user : Bool
  wr : Bool
  ex : Bool
  mtOk : Nat → Bool
  remote : Bool

/-- The first of checks 4 to 10 that fails. -/
def leafCheck (s : State) (r : Want) (e : TbEntry) (va : Nat) : Option (Nat × Nat) :=
  let pa := (physOf e va).pa
  if r.user && !e.us then some (causeAccess, 0x07)
  else if r.wr && !e.wr then some (causeAccess, 0x08)
  else if r.ex && !e.ex then some (causeAccess, 0x09)
  else if !rowAllows pa e.mt || !r.mtOk e.mt then some (causeAccess, 0x0A)
  else if !paPresent s pa then some (causeAccess, 0x0B)
  else if !r.remote && isRemote pa then some (causeLink, 0x0C)
  else if r.user && supervisorReg pa then some (causePriv, 0)
  else none

/-- Dray commands that move bytes between global memory and a pen. -/
def drayMoves : OpKind → Bool
  | .dcopy 0 _ => true
  | .dcopy 1 _ => true
  | .dgath _ => true
  | .dscat _ => true
  | _ => false

/-- Operations that translate as a write. -/
def isWrite : OpKind → Bool
  | .dcopy 1 _ => true
  | .dscat _ => true
  | .st _ _ => true
  | .amo _ => true
  | .cas _ => true
  | .amosc _ => true
  | .amof _ => true
  | .hreq _ _ => true
  | .hrel _ => true
  | .hbind => true
  | .hunb => true
  | .bar _ _ => true
  | .spawn _ _ => true
  | _ => false

/-- R31. -/
def mtAllowed : OpKind → Nat → Bool
  | .ld z, mt => mt == 0 || mt == 1 || mt == 2 && z == .word
  | .st z _, mt => mt == 0 || mt == 1 || mt == 2 && z == .word
  | .ldch _ _ _ _ _, mt => mt == 0
  | .amo _, mt => mt == 0 || mt == 1
  | .cas _, mt => mt == 0 || mt == 1
  | .amosc _, mt => mt == 1
  | .amof _, mt => mt == 0
  | .pref, mt => mt == 0
  | .dcopy _ _, mt => mt == 0
  | .dgath _, mt => mt == 0
  | .dscat _, mt => mt == 0
  | _, _ => true

/-- Dray commands alone reach the remote window (R13). -/
def wantOf (o : Op) : Want :=
  { user := o.cx.asid != 0, wr := isWrite o.kind, ex := false, mtOk := mtAllowed o.kind, remote := drayMoves o.kind }

/-- Edge ports, CFGLD, PARK, the sequencer and intake, which R25 does not name among the users of the tile's buffer, have no lookup there and so
no miss (R26): each of their accesses walks in its turn (log entry 10), a second time from the root where a check fails (R30). -/
def xlateNow (s : State) (tile asid va : Nat) (r : Want) : State × Check Phys :=
  match walk s (quadOf tile) asid va r.wr false with
  | (s, .error x) => (s, .error x)
  | (s, .ok e) =>
    match leafCheck s r e va with
    | none => (s, .ok (physOf e va))
    | some (c, d) =>
      if c = causePriv then (s, .error (c, d))
      else
        match walk s (quadOf tile) asid va r.wr true with
        | (s, .error x) => (s, .error x)
        | (s, .ok e) =>
          match leafCheck s r e va with
          | none => (s, .ok (physOf e va))
          | some x => (s, .error x)

/-! Misses (R26, R27, R35). -/

/-- What a translation does for a lane: its PA, a fault, a walk from the root, or D still to be set. -/
inductive Served where
  | phys (p : Phys)
  | fault (n : Nat)
  | rewalk
  | needD

def serve (s : State) (o : Op) (x : Lane) (e : TbEntry) : Served :=
  let va := x.va.toNat
  if isWrite o.kind && e.wr && !e.d then .needD
  else
    match leafCheck s (wantOf o) e va with
    | none => .phys (physOf e va)
    | some (c, d) => if x.rewalked || c = causePriv then .fault (c * 256 + d) else .rewalk

def missesOf (s : State) (tile : Nat) : Nat := (s.xl.misses.filter (·.tile == tile)).length

/-- The miss-table entry of a key that an operation waits in. -/
def waitsIn (s : State) (o : Op) (vpn : Nat) : Bool :=
  s.xl.misses.any (fun m => m.tile == o.tile && m.asid == o.cx.asid && m.vpn == vpn && m.waiters.contains o.id)

/-- Enters the miss table or joins an entry (R26); `none` while its 16 entries are busy. -/
def enterMiss (s : State) (o : Op) (vpn : Nat) (wr root : Bool) : Option State :=
  let same (m : Miss) : Bool := m.tile == o.tile && m.asid == o.cx.asid && m.vpn == vpn
  if s.xl.misses.any same then
    let join (m : Miss) : Miss := if same m then { m with waiters := m.waiters ++ [o.id], wr := m.wr || wr, root := m.root || root } else m
    let jw (w : Walk) : Walk :=
      if w.quad == quadOf o.tile && w.asid == o.cx.asid && w.vpn == vpn then { w with wr := w.wr || wr, root := w.root || root } else w
    some { s with xl := { s.xl with misses := s.xl.misses.map join, walks := s.xl.walks.map jw } }
  else if missesOf s o.tile < 16 then
    some { s with xl := { s.xl with misses := s.xl.misses ++
      [{ tile := o.tile, asid := o.cx.asid, vpn := vpn, wr := wr, waiters := [o.id], sent := false, root := root }] } }
  else none

def replaceLane (ls : List Lane) (x : Lane) : List Lane := ls.map (fun (y : Lane) => if y.lane == x.lane && y.va == x.va then x else y)

def setLane (s : State) (id : Nat) (x : Lane) : State :=
  match opById s id with
  | some o => setOp s { o with lanes := replaceLane o.lanes x }
  | none => s

/-- A walk from the root for a lane whose translation fails a check (R30). -/
def rewalkLane (s : State) (o : Op) (x : Lane) : State :=
  match enterMiss s o (x.va.toNat / 2 ^ 16) (isWrite o.kind) true with
  | some s => setLane s o.id { x with rewalked := true }
  | none => s

/-- Gives a lane a translation. -/
def giveLane (s : State) (o : Op) (x : Lane) (e : TbEntry) : State :=
  match serve s o x e with
  | .phys p => setLane s o.id { x with phys := some p }
  | .fault n => setLane s o.id { x with flt := n }
  | .rewalk => rewalkLane s o x
  | .needD => s

/-- Looks a lane up in the buffer; a miss enters the miss table. -/
def lookupLane (s : State) (o : Op) (x : Lane) : State :=
  let vpn := x.va.toNat / 2 ^ 16
  if x.phys.isSome || x.flt != 0 || waitsIn s o vpn then s
  else
    match tbFind s o.tile o.cx.asid x.va.toNat with
    | some e =>
      match serve s o x e with
      | .needD => (enterMiss s o vpn true false).getD s
      | _ => giveLane (tbUse s o.tile e) o x e
    | none => (enterMiss s o vpn (isWrite o.kind) false).getD s

/-- R152: the hitch address decides first; what its region's translation finds is judged at the engine. -/
def regionOp (s : State) (o : Op) : State :=
  match o.lanes with
  | x :: _ => if x.flt != 0 then failOp s o (x.flt / 256) (x.flt % 256) x.va.toNat else setOp s { o with phase := .ready }
  | [] => s

/-- What becomes of an operation when each of its lanes has its translation or its fault (R32, R33, R272). -/
def settleLanes (s : State) (id : Nat) : State :=
  match opById s id with
  | none => s
  | some o =>
    if o.phase != .queued || !o.lanes.all (fun x => x.phys.isSome || x.flt != 0) then s
    else
      let good := o.lanes.filter (fun x => x.flt == 0)
      match o.kind, o.lanes.find? (fun x => x.flt != 0) with
      | .pref, _ => setOp s { o with phase := .ready, lanes := good }
      | .sflush, _ => setOp s { o with phase := .ready, lanes := good }
      | .sinv, _ => setOp s { o with phase := .ready, lanes := good }
      | .ldch _ _ _ _ _, _ => setOp s { o with phase := .ready }
      | .hbind, _ => regionOp s o
      | .hunb, _ => regionOp s o
      | _, some x => failOp s o (x.flt / 256) (x.flt % 256) x.va.toNat
      | _, none => setOp s { o with phase := .ready }

/-- Operations whose lanes the tile's port translates (R25, R32): accesses, prefetches, and the addresses of hitch operations. -/
def translates : OpKind → Bool
  | .ld _ => true
  | .st _ _ => true
  | .ldch _ _ _ _ _ => true
  | .pref => true
  | .sflush => true
  | .sinv => true
  | .amo _ => true
  | .cas _ => true
  | .amosc _ => true
  | .amof _ => true
  | .hreq _ _ => true
  | .hrel _ => true
  | .hbind => true
  | .hunb => true
  | .bar _ _ => true
  | .spawn _ _ => true
  | _ => false

/-- Operations of which no lane may be left to translate. -/
def isFlush : OpKind → Bool
  | .sflush => true
  | .sinv => true
  | _ => false

/-- An operation whose lanes are to be looked up: an access of an element, or a Dray command that has started (R26). An SFLUSH or SINV of
which no address passed check 1 has none left and completes (R32). -/
def looksUp (o : Op) : Bool :=
  o.phase == .queued && translates o.kind && (!o.lanes.isEmpty || isFlush o.kind) || o.phase == .active && drayMoves o.kind

/-- TRANSLATION_MISS (R25, R26): the operation's lanes are looked up. -/
def execTranslationMiss (s : State) : Result :=
  match opById s s.occ.a with
  | none => .next s
  | some o =>
    if looksUp o then .next (settleLanes (o.lanes.foldl (fun s x => lookupLane s o x) s) o.id) else .next s

/-- Requests of a quadrant's tiles enter the walker's queue of 256 while it has room, joining a walk of the same key (R27). -/
def sendMisses (s : State) (quad : Nat) : State :=
  s.xl.misses.foldl (fun s m =>
    if m.sent || quadOf m.tile != quad then s
    else
      let sent (x : Miss) : Miss := if x.tile == m.tile && x.asid == m.asid && x.vpn == m.vpn then { x with sent := true } else x
      let same (w : Walk) : Bool := w.quad == quad && w.asid == m.asid && w.vpn == m.vpn
      let jw (w : Walk) : Walk := if same w then { w with wr := w.wr || m.wr, root := w.root || m.root } else w
      if s.xl.walks.any same then
        { s with xl := { s.xl with misses := s.xl.misses.map sent, walks := s.xl.walks.map jw } }
      else if (s.xl.walks.filter (fun w => w.quad == quad && !w.running)).length < 256 then
        { s with xl := { s.xl with misses := s.xl.misses.map sent, walks := s.xl.walks ++
          [{ quad := quad, asid := m.asid, vpn := m.vpn, wr := m.wr, running := false, root := m.root }] } }
      else s) s

/-- PAGE_WALK (R27): the walker takes requests in arrival order and runs up to 64 at once. -/
def execPageWalk (s : State) : Result :=
  let quad := s.occ.a
  let s := sendMisses s quad
  if (s.xl.walks.filter (fun w => w.quad == quad && w.running)).length < 64 then
    match s.xl.walks.find? (fun w => w.quad == quad && !w.running) with
    | some w =>
      let start (x : Walk) : Walk := if x.quad == quad && x.asid == w.asid && x.vpn == w.vpn then { x with running := true } else x
      .next { s with xl := { s.xl with walks := s.xl.walks.map start } }
    | none => .next s
  else .next s

/-- A walk's end for one miss-table entry: its translation is installed and every joiner served, or each joiner's lanes fault. -/
def deliverMiss (s : State) (m : Miss) (r : Check TbEntry) : State :=
  let s := { s with xl := { s.xl with misses := s.xl.misses.filter (fun x => !(x.tile == m.tile && x.asid == m.asid && x.vpn == m.vpn)) } }
  let s := match r with
    | .ok e => tbInstall s m.tile e
    | .error _ => s
  m.waiters.foldl (fun s id =>
    match opById s id with
    | none => s
    | some o =>
      let mine := o.lanes.filter (fun x => x.phys.isNone && x.flt == 0 && x.va.toNat / 2 ^ 16 == m.vpn)
      let s := mine.foldl (fun s x => match r with
        | .ok e => giveLane s o x e
        | .error (c, d) => setLane s o.id { x with flt := c * 256 + d }) s
      settleLanes s id) s

/-- WALK_COMPLETE (R23, R27, R29, R35): the n-th running walk of a quadrant ends; a large leaf ends every request it covers. -/
def execWalkComplete (s : State) : Result :=
  let quad := s.occ.a
  match (s.xl.walks.filter (fun w => w.quad == quad && w.running))[s.occ.b]? with
  | none => .next s
  | some w =>
    let (s, r) := walk s quad w.asid (w.vpn * 2 ^ 16) w.wr w.root
    let covers (asid vpn : Nat) : Bool :=
      asid == w.asid && (match r with
        | .ok e => vpn * 2 ^ 16 / 2 ^ e.bits == e.page
        | .error _ => vpn == w.vpn)
    let done := s.xl.misses.filter (fun m => quadOf m.tile == quad && m.sent && covers m.asid m.vpn)
    let s := { s with xl := { s.xl with walks := s.xl.walks.filter (fun x => !(x.quad == quad && covers x.asid x.vpn)) } }
    .next (done.foldl (fun s m => deliverMiss s m (r.map (fun e => { e with asid := m.asid }))) s)

/-! Shoot-down at one unit (R36, R38). -/

/-- A shoot-down's reach. -/
structure Shoot where
  alla : Bool
  glb : Bool
  allv : Bool
  asid : Nat
  lo : Nat
  hi : Nat

/-- The descriptor's lanes (R36). -/
def shootOf (ws : List Nat) : Shoot :=
  let w0 := ws.getD 0 0
  let lo := (ws.getD 1 0 + ws.getD 2 0 % 256 * 2 ^ 32) * 2 ^ 16
  { alla := bit w0 20, glb := bit w0 19, allv := bit w0 18, asid := w0 % 2 ^ 16, lo := lo, hi := lo + ws.getD 3 0 * 2 ^ 16 }

def Shoot.range (d : Shoot) (base len : Nat) : Bool := d.allv || decide (base < d.hi) && decide (d.lo < base + len)

def Shoot.hits (d : Shoot) (e : TbEntry) : Bool :=
  d.range (e.page * 2 ^ e.bits) (2 ^ e.bits) && (if e.gl then d.glb else d.alla || e.asid == d.asid)

/-- The accesses of a tile that used a translation of the range, or an entry that now goes, a large page's also outside the range, and have
still to be performed (R38 step 3): a lane is translated, be it that others still wait for theirs or that a Dray command is moving bytes. -/
def rangeUsers (s : State) (tile : Nat) (d : Shoot) : List Nat :=
  let gone := (sgetD s.xl.tb tile []).filter d.hits
  let used (o : Op) (va : Nat) : Bool := (d.alla || d.glb || o.cx.asid == d.asid) && d.range va 1 || gone.any (fun e => tbMatch e o.cx.asid va)
  (s.ops.filter (fun o => o.tile == tile && (o.phase == .queued || o.phase == .ready || o.phase == .active && drayMoves o.kind) &&
    o.lanes.any (fun x => x.phys.isSome && !x.fin && used o x.va.toNat))).map (·.id)

def tbRemove (s : State) (tile : Nat) (d : Shoot) : State :=
  { s with xl := { s.xl with tb := smod s.xl.tb tile (fun l => l.filter (fun e => !d.hits e)) } }

/-- A walker's part (R38 step 4): cached table entries on the path go, its walks start again from the root. -/
def walkerRemove (s : State) (quad : Nat) (d : Shoot) : State :=
  let onPath (c : WalkEntry) : Bool :=
    c.quad == quad && (d.alla || d.glb || c.asid == d.asid) && d.range (c.path * 2 ^ levelBits c.lvl) (2 ^ levelBits c.lvl)
  let mark (w : Walk) : Walk :=
    if w.quad == quad && (d.alla || d.glb || w.asid == d.asid) && d.range (w.vpn * 2 ^ 16) (2 ^ 16) then { w with root := true } else w
  { s with xl := { s.xl with cache := s.xl.cache.filter (fun c => !onPath c), walks := s.xl.walks.map mark } }

end Sys2Proof.Machine
end

