-- ==== Sys2Proof/Machine/MemOps.lean ====
section
/-! DEFINITION. Global loads, stores and stash operations, atomics, hitch operations, fences, barriers and WAIT, as they issue
(R14 to R16, R263, R267 to R274, R277 to R288): their synchronous checks and the operation each enters. -/

namespace Sys2Proof.Machine

/-- R15, R265: the address of a lane. -/
def laneVa (τ : Task) (base scale : Nat) (v : Word) : Int := ((τ.cx.bases.getD base 0).toNat : Int) + v.toInt * (4 ^ scale : Nat)

/-- SADDR of an address that need not lie in the 56-bit space. -/
def vaNat (va : Int) : Nat := (va % (2 ^ 56 : Nat)).toNat

/-- Checks 1 and 2 of R30 on `len` bytes at an address that must be a multiple of `al`: the address lies in the 56-bit space, it is
aligned, and so do the bytes after it. -/
def vaCheck (va : Int) (len al : Nat) : Option (Nat × Nat) :=
  if va < 0 ∨ ((2 ^ 56 : Nat) : Int) ≤ va then some (causeAccess, 0x01)
  else if va % (al : Int) ≠ 0 then some (causeAlign, 0)
  else if ((2 ^ 56 : Nat) : Int) < va + (len : Int) then some (causeAccess, 0x01)
  else none

/-- R33: the lowest lane that fails. -/
def vaGuard (ls : List Lane) (al : Nat) : Body Unit :=
  ls.foldl (fun acc x => do acc; match vaCheck x.va x.len al with
    | none => .ok ()
    | some (c, d) => .error (.fault c d (vaNat x.va))) (.ok ())

def mkLane (l : Nat) (va : Int) (len data cmp : Nat) : Lane :=
  { lane := l, va := va, len := len, data := data, cmp := cmp, phys := none, rewalked := false, fin := false, res := 0, flt := 0 }

/-- R14. -/
def sizeBytes : Size → Nat
  | .byte => 1
  | .half => 2
  | .word => 4
  | .row => 4

/-- The lanes of a load or prefetch (R15, R270): a row is its words in order. -/
def loadLanes (τ : Task) (x : Lanes) (base scale : Nat) (z : Size) : Body (List Lane) :=
  match z with
  | .row => do
    match ← lane0 τ x [] with
    | none => .ok []
    | some v => .ok ((upto τ.w).map (fun l => mkLane l (laneVa τ base scale v + 4 * (l : Int)) 4 0 0))
  | z => .ok ((execLanes τ x).map (fun p => mkLane p.1 (laneVa τ base scale p.2) (sizeBytes z) 0 0))

/-- Load responses that an element holds: of blocks that have not committed, or without room in the output buffer (R177). -/
def heldResponses (s : State) : Nat :=
  (s.ops.filter (fun o => o.tile == s.occ.a && o.elem == s.occ.b && o.phase == .done && (match o.kind with
    | .ld _ => true
    | .ldch _ _ _ _ _ => true
    | _ => false))).length

/-- A new global load waits at issue while the load return buffer of 64 responses is full (R177). -/
def loadWaits (s : State) : Bool := decide (64 ≤ heldResponses s)

/-- An access that issues as it executes (R136). One that stands after a FENCE of its block keeps the block's order at its port: the FENCE holds
it, though it enters only at the commit (R155; the model's choice, log entry 34). -/
def issueNow (s : State) (τ : Task) (o : Op) : State × Task := (addOp s o, τ.advance 1)

/-- LD (R270). -/
def execLd (a : Src) (base : Nat) (z : Size) (sc : Nat) (t : Target) (s : State) : Result :=
  if loadWaits s then .next s
  else
  runBody (fun s τ => do
    check (srcOk τ a) causeBadSource
    let n ← needPort s τ t
    let ls ← loadLanes τ (readSrc τ false a) base sc z
    vaGuard ls (sizeBytes z)
    if ls.isEmpty then .ok (s, τ.advance 1)
    else .ok (issueNow s τ (mkOp s τ (.ld z) (some n) noLanes noLanes ls))) s

/-- PREF (R273): a lane that fails a check is dropped (R32). -/
def execPref (a : Src) (base : Nat) (z : Size) (sc : Nat) (s : State) : Result :=
  runBody (fun s τ => do
    check (srcOk τ a) causeBadSource
    let ls ← loadLanes τ (readSrc τ false a) base sc z
    let ls := ls.filter (fun x => (vaCheck x.va x.len (sizeBytes z)).isNone)
    if ls.isEmpty then .ok (s, τ.advance 1)
    else .ok (issueNow s τ (mkOp s τ .pref none noLanes noLanes ls))) s

/-- The lanes of a store (R271). -/
def storeLanes (τ : Task) (x val : Lanes) (base scale : Nat) (z : Size) : Body (List Lane) :=
  match z with
  | .row =>
    match execLanes τ val, laneOf x 0 with
    | [], _ => .ok []
    | _, none => stop causeBadSource 0
    | ls, some v => .ok (ls.map (fun p => mkLane p.1 (laneVa τ base scale v + 4 * (p.1 : Int)) 4 p.2.toNat 0))
  | z => .ok ((execLanes τ x).filterMap (fun p => (laneOf val p.1).map (fun v =>
      mkLane p.1 (laneVa τ base scale p.2) (sizeBytes z) (v.toNat % 256 ^ sizeBytes z) 0)))

/-- The value operand over the lanes of an operation. -/
def overLanes (v : Lanes) (ls : List Lane) : Lanes := mkLanes (fun l => if ls.any (·.lane == l) then laneOf v l else none)

/-- ST (R271): released at commit; a port takes its completion token (R141). -/
def execSt (a b : Src) (base : Nat) (z : Size) (sc : Nat) (t : Target) (s : State) : Result :=
  runTask (fun s τ => do
    check (srcOk τ a && srcOk τ b) causeBadSource
    let n ← portOrDiscard s τ t
    let val := readSrc τ true b
    let ls ← storeLanes τ (readSrc τ false a) val base sc z
    vaGuard ls (sizeBytes z)
    if ls.isEmpty then .ok (τ.advance 1)
    else .ok ((τ.enter (mkOp s τ (.st z n.isSome) n (overLanes val ls) noLanes ls)).advance 1)) s

/-- LDCH (R272). -/
def execLdch (a b : Src) (base sc : Nat) (t : Target) (s : State) : Result :=
  if loadWaits s then .next s
  else
  runBody (fun s τ => do
    check (srcOk τ a && srcOk τ b) causeBadSource
    let n ← needPort s τ t
    let ls := (execLanes τ (readSrc τ false a)).map (fun p => mkLane p.1 (laneVa τ base sc p.2) 4 0 0)
    if ls.isEmpty then .ok (s, τ.advance 1)
    else
      match laneOf (readSrc τ true b) 0 with
      | none => stop causeBadSource 0
      | some ctl => do
        let k := ctl.toNat / 2 ^ 16
        check (decide (1 ≤ k) && decide (k ≤ 1024)) causeBadSource
        vaGuard ls 4
        .ok (issueNow s τ (mkOp s τ (.ldch base sc k (BitVec.ofNat 16 ctl.toNat) 0) (some n) noLanes noLanes ls))) s

/-- The 64 KiB pieces of a byte range that starts in the 56-bit space (R274). -/
def rangePieces (l : Nat) (va : Int) (len : Nat) : List Lane :=
  if (vaCheck va 1 1).isSome then []
  else
    let a := va.toNat
    let e := min (a + len) (2 ^ 56)
    (upto (len / 2 ^ 16 + 2)).filterMap (fun k =>
      let lo := if k = 0 then a else (a / 2 ^ 16 + k) * 2 ^ 16
      let hi := min e ((a / 2 ^ 16 + k + 1) * 2 ^ 16)
      if lo < hi then some (mkLane l (lo : Int) (hi - lo) 0 0) else none)

/-- SFLUSH and SINV (R274). -/
def flushBody (k : OpKind) (a b : Src) (base sc : Nat) (t : Target) (s : State) (τ : Task) : Body Task := do
  check (srcOk τ a && srcOk τ b) causeBadSource
  let n ← portOrDiscard s τ t
  let lens := if b = .zero then mkLanes (fun _ => some 1) else readSrc τ true b
  let ex := (execLanes τ (readSrc τ false a)).filterMap (fun p => (laneOf lens p.1).map (fun v => (p.1, p.2, v.toNat)))
  check (ex.all (fun x => decide (1 ≤ x.2.2) && decide (x.2.2 ≤ 2 ^ 24))) causeBadSource
  if ex.isEmpty then .ok (τ.advance 1)
  else
    let zeros := mkLanes (fun l => if ex.any (·.1 == l) then some 0 else none)
    let ls := ex.foldr (fun x acc => rangePieces x.1 (laneVa τ base sc x.2.1) x.2.2 ++ acc) []
    .ok ((τ.enter (mkOp s τ k n zeros noLanes ls)).advance 1)

def execSflush (a b : Src) (base sc : Nat) (t : Target) (s : State) : Result := runTask (flushBody .sflush a b base sc t) s
def execSinv (a b : Src) (base sc : Nat) (t : Target) (s : State) : Result := runTask (flushBody .sinv a b base sc t) s

/-! Atomics. -/

/-- R279: the 8-byte operations. -/
def AmoOp.wide : AmoOp → Bool
  | .swapd => true
  | .addd => true
  | _ => false

/-- A lane's or a pair's value (R279). -/
def pairAt (x : Lanes) (l : Nat) : Option Nat :=
  match laneOf x l, laneOf x (l + 1) with
  | some a, some b => some (a.toNat + b.toNat * 2 ^ 32)
  | _, _ => none

/-- The lanes of an atomic with its value and its expected value (R278 to R280). -/
def atomicLanes (τ : Task) (x val exp : Lanes) (base : Nat) (wide : Bool) : List Lane :=
  if wide then
    (upto 16).filterMap (fun k =>
      let l := 2 * k
      if decide (l + 1 < τ.w) && predOk τ l && predOk τ (l + 1) then
        match laneOf x l, pairAt val l, pairAt exp l with
        | some v, some b, some c => some (mkLane l (laneVa τ base 0 v) 8 b c)
        | _, _, _ => none
      else none)
  else
    (execLanes τ x).filterMap (fun p =>
      match laneOf val p.1, laneOf exp p.1 with
      | some b, some c => some (mkLane p.1 (laneVa τ base 0 p.2) 4 b.toNat c.toNat)
      | _, _ => none)

/-- An atomic: its lanes enter at commit (R136). -/
def atomicBody (k : OpKind) (wide : Bool) (exp : Task → Lanes) (a b : Src) (base : Nat) (t : Target) (s : State) (τ : Task) : Body Task := do
  check (srcOk τ a && srcOk τ b) causeBadSource
  let n ← portOrDiscard s τ t
  let val := readSrc τ true b
  let ls := atomicLanes τ (readSrc τ false a) val (exp τ) base wide
  vaGuard ls (if wide then 8 else 4)
  if ls.isEmpty then .ok (τ.advance 1)
  else .ok ((τ.enter (mkOp s τ k n noLanes noLanes ls)).advance 1)

/-- The expected value of an atomic that compares nothing. -/
def noExpect (_ : Task) : Lanes := mkLanes (fun _ => some 0)

def execAmo (a b : Src) (base : Nat) (o : AmoOp) (t : Target) (s : State) : Result :=
  runTask (atomicBody (.amo o) (AmoOp.wide o) noExpect a b base t) s
def execAmosc (a b : Src) (base : Nat) (o : AmoOp) (t : Target) (s : State) : Result :=
  runTask (atomicBody (.amosc o) (AmoOp.wide o) noExpect a b base t) s
def execAmof (a b : Src) (base : Nat) (o : AmofOp) (t : Target) (s : State) : Result :=
  runTask (atomicBody (.amof o) false noExpect a b base t) s
def execCas (a b : Src) (base : Nat) (d : Bool) (c : Nat) (t : Target) (s : State) : Result :=
  runTask (atomicBody (.cas d) d (fun τ => τ.temps.getD c noLanes) a b base t) s

/-! Hitch operations. -/

/-- The hitch address (R282): ALIGN comes first (R152). -/
def hitchLane (τ : Task) (base : Nat) (v : Word) : Body Lane := do
  let va := laneVa τ base 0 v
  check (va % 64 == 0) causeAlign (vaNat va)
  vaGuard [mkLane 0 va 64 0 0] 64
  .ok (mkLane 0 va 64 0 0)

/-- The executed lanes of a source, all zero. -/
def zerosOf (τ : Task) (x : Lanes) : Lanes := lanes1 τ x (fun _ _ => 0)

/-- HACQ, HTRY and HREL as they issue. -/
def hitchBody (k : OpKind) (legal needsPort : Bool) (a : Src) (base : Nat) (t : Target) (s : State) (τ : Task) : Body Task := do
  check legal causeIllOp
  check (srcOk τ a) causeBadSource
  let n ← if needsPort then (needPort s τ t).map some else portOrDiscard s τ t
  let x := readSrc τ false a
  match ← lane0 τ x [] with
  | none => .ok (τ.advance 1)
  | some v => do
    let l ← hitchLane τ base v
    .ok ((τ.enter (mkOp s τ k n (zerosOf τ x) noLanes [l])).advance 1)

def execHacq (a : Src) (base : Nat) (k : HKind) (t : Target) (s : State) : Result := runTask (hitchBody (.hreq k false) true true a base t) s
def execHtry (a : Src) (base : Nat) (k : HKind) (t : Target) (s : State) : Result :=
  runTask (hitchBody (.hreq k true) (k != .p) true a base t) s
def execHrel (a : Src) (base : Nat) (k : HKind) (t : Target) (s : State) : Result :=
  runTask (hitchBody (.hrel k) (k != .x) false a base t) s

/-- A region's lane; check 1 of R30 on it is judged with the others, after the hitch's (R152). -/
def regionLane (va : Int) (len : Nat) : Lane :=
  let x := mkLane 1 va len 0 0
  if (vaCheck va len 1).isSome then { x with va := (vaNat va : Int), flt := causeAccess * 256 + 1 } else x

/-- HBIND and HUNB (R286): lane 0 the hitch, lane 1 the region with its number of 128-byte units. -/
def regionBody (k : OpKind) (a b : Src) (base : Nat) (t : Target) (s : State) (τ : Task) : Body Task := do
  check (srcOk τ a && srcOk τ b) causeBadSource
  let n ← portOrDiscard s τ t
  let x := readSrc τ false a
  let y := readSrc τ true b
  match ← lane0 τ x [y] with
  | none => .ok (τ.advance 1)
  | some v =>
    match laneOf y 0, laneOf y 1 with
    | some r, some m => do
      check (m.toNat / 32 == 0) causeBadSource
      let l ← hitchLane τ base v
      let z := lanes2 τ x y (fun _ _ _ => 0)
      .ok ((τ.enter (mkOp s τ k n z noLanes [l, regionLane (laneVa τ base 0 r) ((m.toNat + 1) * 128)])).advance 1)
    | _, _ => stop causeBadSource 0

def execHbind (a b : Src) (base : Nat) (t : Target) (s : State) : Result := runTask (regionBody .hbind a b base t) s
def execHunb (a b : Src) (base : Nat) (t : Target) (s : State) : Result := runTask (regionBody .hunb a b base t) s

/-! Fences, barriers, WAIT. -/

/-- FENCE (R287): its lanes are latch A's, or zeros. -/
def execFence (a : Src) (sc : Nat) (t : Target) (s : State) : Result :=
  runTask (fun s τ => do
    check (a == .latch || a == .zero) causeIllOp
    let n ← portOrDiscard s τ t
    let v := lanes1 τ (readSrc τ false a) (fun _ w => w)
    if anyLane v then .ok ((τ.enter (mkOp s τ (.fence sc) n v noLanes [])).advance 1) else .ok (τ.advance 1)) s

/-- WAIT (R263): latch A's executed lanes are held from release. -/
def execWait (l st d m : Nat) (t : Target) (s : State) : Result :=
  runTask (fun s τ => do
    let n ← needPort s τ t
    let v := lanes1 τ (latchA τ) (fun _ w => w)
    if anyLane v then .ok ((τ.enter (mkOp s τ (.wait l st d m) (some n) v noLanes [])).advance 1) else .ok (τ.advance 1)) s

/-- R199: origin, width and height of a subgroup of a launch, where its descriptor is legal. -/
def subgroup (l : Launch) (d : Nat) : Option (Nat × Nat × Nat × Nat) :=
  let w := 2 ^ bits d 9 3
  let full := bits d 12 3 == 7
  let h := if full then l.ht else 2 ^ bits d 12 3
  let x := bits d 0 4
  let y := bits d 4 5
  if bit d 15 || decide (4 < bits d 9 3) || (!full && decide (3 < bits d 12 3)) || l.wd % w != 0 || (if full then y != 0 else l.ht % h != 0) ||
    x % w != 0 || y % h != 0 || decide (l.wd < x + w) || decide (l.ht < y + h) then none
  else some (x, y, w, h)

/-- Members of a subgroup as launch tile numbers, ascending. -/
def members (g : Nat × Nat × Nat × Nat) : List Nat :=
  (upto g.2.2.2).foldr (fun j acc => (upto g.2.2.1).map (fun i => (g.2.1 + j) * 16 + g.1 + i) ++ acc) []

/-- The subgroup of an operand that must hold the issuing tile. -/
def ownGroup (s : State) (τ : Task) (d : Nat) : Option (List Nat) :=
  match sget s.sch.launches τ.cx.q with
  | none => none
  | some l =>
    match subgroup l d with
    | some g => if (members g).contains (ltileOf s s.occ.a τ.rank) then some (members g) else none
    | none => none

/-- BAR (R288). -/
def execBar (a b : Src) (h : Bool) (base : Nat) (t : Target) (s : State) : Result :=
  runTask (fun s τ => do
    check (srcOk τ a && srcOk τ b) causeBadSource
    let n ← needPort s τ t
    let y := readSrc τ true b
    match ← lane0 τ (readSrc τ false a) (if h then [y] else []) with
    | none => .ok (τ.advance 1)
    | some key => do
      check (key.toNat / 2 ^ 24 == 0 && (ownGroup s τ (key.toNat % 2 ^ 16)).isSome) causeBadSource
      if h then
        match laneOf y 0 with
        | none => stop causeBadSource 0
        | some v => do
          let l ← hitchLane τ base v
          .ok ((τ.enter (mkOp s τ (.bar true key.toNat) (some n) noLanes noLanes [l])).advance 1)
      else .ok ((τ.enter (mkOp s τ (.bar false key.toNat) (some n) noLanes noLanes [])).advance 1)) s

end Sys2Proof.Machine
end

