-- ==== Sys2Proof/Machine/Reports.lean ====
section
/-! DEFINITION. What an operation gives back after its block has committed: its token with the tag operation (R180, R181, R190), its
asynchronous fault (R33, R34, R157, R406), its retry and its end. -/

namespace Sys2Proof.Machine

/-- The record of an operation's asynchronous fault (R369, R407). -/
def opRecord (s : State) (o : Op) (cause detail addr : Nat) : FaultRec :=
  { framed := true, ctx := o.ctx, iter := o.iter, rank := o.rank, detail := detail, cause := cause, escd := false, sup := o.byHandler, async := true,
    ftile := ltileOf s o.tile o.rank, pos := o.pos, blk := o.blk, addr := addr, fseq := 0,
    op := if (opById s o.id).isSome then o.id else 0, row := 0, halt := none }

/-- An asynchronous fault on the issuing frame of an operation. A groom task's is written to GERR (R172); a handler task's goes
to the supervisor (R408). -/
def raiseOp (s : State) (o : Op) (cause detail addr : Nat) : State :=
  if o.elem = 8 then
    count (writeGerr s o.tile cause o.blk o.pos ((sget s.tab.gblocks (o.tile * 64 + o.blk)).elim 0 (·.slot0))) 1 o.tile
  else raiseOn s o.tile (opRecord s o cause detail addr)

/-- Lanes of a token under the EMASK of its instruction (R180). -/
def underMask (o : Op) (v : Lanes) : Lanes := mkLanes (fun l => if o.emask.getD l false then laneOf v l else none)

/-- A token of an operation: the tag operation is applied as it leaves; a fault there is raised on the issuing frame and the
token dropped (R190). `src` is the source that offers it (R191). -/
def emitOp (s : State) (o : Op) (src : Nat) (v : Lanes) (h : Header → Header) : State :=
  match o.port with
  | none => s
  | some p =>
    let m := underMask o v
    if !anyLane m then s
    else
      match tagOp s o.cx.q o.ctx o.iter o.cx.parent p.top (laneOf v 0) with
      | .ok (c, i) => addOut s o.tile src { hdr := h { o.hdr with ctx := c, iter := i, wm1 := o.w - 1, can := false }, lanes := m } p.dests
      | .error c => raiseOp s o c 0 (if c = causeBadTarget then 384 + o.portNo else 0)

/-- R191, R192: an entry of the output buffer is free for a token, of which 16 are kept for the iteration at LOW of its context. That every entry
in use counts against the 48, those of an iteration at LOW too, is the model's choice (log entry 59). -/
def outRoom (s : State) (tile elem c i : Nat) : Bool :=
  let used := (s.net.outs.filter (fun e => e.tile == tile && e.elem == elem)).length
  let ranks := upto (max 1 (sgetD s.tab.ltiles tile []).length)
  decide (used < 48) || decide (used < 64) && ranks.any (fun r => (windowOf s tile r c).low == i)

/-- The list for a fault of an operation has room (R405); a groom task's fault is written to GERR. -/
def opRoom (s : State) (o : Op) : Bool := o.elem == 8 || faultRoom s o.tile o.rank o.ctx o.iter

/-- A fault that the tag operation of a token raises finds room (R190, R405). -/
def emitFits (s : State) (o : Op) (v : Lanes) : Bool :=
  match o.port with
  | none => true
  | some p =>
    !anyLane (underMask o v) ||
      match tagOp s o.cx.q o.ctx o.iter o.cx.parent p.top (laneOf v 0) with
      | .ok _ => true
      | .error _ => opRoom s o

/-- A result token of an operation finds an entry of its element's output buffer (R191), or its fault one of the pending list. -/
def emitRoom (s : State) (o : Op) (v : Lanes) : Bool :=
  match o.port with
  | none => true
  | some p =>
    !anyLane (underMask o v) ||
      match tagOp s o.cx.q o.ctx o.iter o.cx.parent p.top (laneOf v 0) with
      | .ok (c, i) => outRoom s o.tile o.elem c i
      | .error _ => opRoom s o

/-- Lane 0 a status word, the other lanes of the width zero (R373, R378). -/
def statusLanes (w : Nat) (ws : List Word) : Lanes := mkLanes (fun l => if l < w then some (ws.getD l 0) else none)

/-- Accesses of a stream (R34, R138). -/
def isAccess : OpKind → Bool
  | .ld _ => true
  | .st _ _ => true
  | .ldch _ _ _ _ _ => true
  | .amo _ => true
  | .cas _ => true
  | .amosc _ => true
  | .amof _ => true
  | .sflush => true
  | .sinv => true
  | _ => false

def isStore : OpKind → Bool
  | .st _ _ => true
  | _ => false

def sameFrame (o : Op) (tile rank c i : Nat) : Bool := o.tile == tile && o.rank == rank && o.ctx == c && o.iter == i

/-- Hitch operations, whose addresses the tile's port translates (R142, R282). -/
def isHitchOp : OpKind → Bool
  | .hreq _ _ => true
  | .hrel _ => true
  | .hbind => true
  | .hunb => true
  | .bar h _ => h
  | .spawn _ h => h
  | _ => false

/-- What R34 reports per stream: an access, or a hitch operation but for what its engine finds (R152). -/
def inStream (o : Op) : Bool := isAccess o.kind || isHitchOp o.kind && o.cause != causeHitch

/-- An access that has met a fault (R34). -/
def stopped (o : Op) : Bool := o.phase == .failed || o.phase == .faulted

/-- A chain of loads, which is performed with its last node (R272). -/
def isChain : OpKind → Bool
  | .ldch _ _ _ _ _ => true
  | _ => false

/-- An operation's number in issue order: a part of a chain that a fault has cut off, whose `n` is the chain's, keeps the chain's (R34, R272). -/
def issueNo (o : Op) : Nat := if isChain o.kind && o.n != 0 then o.n else o.id

/-- `p` was issued before `o`. -/
def issuedBefore (p o : Op) : Bool := decide (issueNo p < issueNo o) || issueNo p == issueNo o && decide (p.id < o.id)

/-- `o` is younger than `p` in a stream: by ITER, and within one ITER by issue order (R34). -/
def younger (p o : Op) : Bool := decide (p.iter < o.iter) || p.iter == o.iter && issuedBefore p o

/-- R34: another faulting access of the stream is reported, or is older by ITER and then by issue. -/
def olderFault (s : State) (o : Op) : Bool :=
  s.ops.any (fun p => p.id != o.id && sameStream p o && inStream p &&
    (p.phase == .faulted || p.phase == .failed && p.tid == 0 && younger p o))

/-- The operation's fault may be reported: its block has committed, the list has room (R405), and it is the one to report. -/
def mayReport (s : State) (o : Op) : Bool :=
  o.phase == .failed && o.tid == 0 && o.elem != 14 && opRoom s o && !(inStream o && olderFault s o)

/-- The held stores of a faulting stream go with the faulting access (R157, R376, R406). -/
def dropHeld (s : State) (o : Op) : State :=
  let held (p : Op) : Bool := isStore p.kind && sameStream p o && p.tid == 0 && younger o p && !(p.phase == .absorbed)
  { s with ops := s.ops.filter (fun p => p.id != o.id && !(inStream o && held p)) }

/-- The stores that a faulting access holds keep its stream's order behind it from its retry on (R157, R416). -/
def keepOrder (s : State) (o : Op) : State :=
  let held (p : Op) : Bool := isStore p.kind && sameStream p o && p.tid == 0 && younger o p && (p.phase == .queued || p.phase == .ready)
  if inStream o then { s with ops := s.ops.map (fun p => if held p then { p with retried := true } else p) } else s

/-- An operation is performed again from its translation (R374, R416); a fault of checks 1 and 2 of R30 stays with its address. -/
def retryOp (s : State) (o : Op) : State :=
  let s := keepOrder s o
  let again (x : Lane) : Lane :=
    if x.fin then x
    else { x with phys := none, flt := if x.flt == causeAccess * 256 + 1 || x.flt == causeAlign * 256 then x.flt else 0, rewalked := false, res := 0 }
  setOp s { o with phase := .queued, cause := 0, detail := 0, addr := 0, lanes := o.lanes.map again, retried := true }

/-- Ops that perform a release whose step 1 covers a store (R147, R157). -/
def isRelease : OpKind → Bool
  | .hrel _ => true
  | .bar h _ => h
  | .spawn _ h => h
  | .give _ _ => true
  | _ => false

/-- A release that is still to be performed; of BAR and SPAWN it is their release half. -/
def releasePending (p : Op) : Bool :=
  isRelease p.kind && (match p.kind with
    | .hrel _ => p.phase != .done
    | .bar _ _ => p.n == 0 && p.phase != .active && p.phase != .done
    | .spawn _ _ => p.n == 0
    | _ => true)

/-- The releases that a faulting store refuses (R157). -/
def refusedBy (s : State) (o : Op) : List Op :=
  if isStore o.kind then s.ops.filter (fun p => releasePending p && p.tile == o.tile && p.ctx == o.ctx && decide (o.id < p.id)) else []

end Sys2Proof.Machine
end

