-- ==== Sys2Proof/Machine/Troughs.lean ====
section
/-! DEFINITION. Troughs: the four moves of R59, their checks (R62), waiters (R61), the slots of frames (R293), and the queue
instructions (R291 to R295). -/

namespace Sys2Proof.Machine

def troughAt (s : State) (tile n : Nat) : Option Trough := sget s.tab.troughs (tile * 64 + n)

def setTrough (s : State) (tile n : Nat) (t : Trough) : State :=
  { s with tab := { s.tab with troughs := sset s.tab.troughs (tile * 64 + n) t } }

/-- R57, R62: a trough that is configured. -/
def troughOk (s : State) (tile n : Nat) : Option Trough := if n < (planOf s tile).ntrg then troughAt s tile n else none

/-- Engine code that holds a slot for a kind of party (R53, R60); 0 for a PE. -/
def kindEng (kind ch : Nat) : Nat :=
  if kind = 0 then 0 else if kind = 1 then 1 + ch else if kind = 2 then 8 else if kind = 3 then 5 else 9

/-- The slot's pen for a holder: a PE, or an engine (R60). A PE that takes a slot makes OWN 0 and leaves GEN: R52 counts each flip from 1 to
0 and R55 knows the flips of GIVE and of a command's end only (the model's choice, log entry 29). -/
def ownPen (s : State) (tile n eng : Nat) : State :=
  match penAt s tile n with
  | some p => setPen s tile n { p with own := eng != 0, eng := eng }
  | none => s

/-- Whether a waiter waits to take. -/
def Waiter.takes : Waiter → Bool
  | .pe k _ _ _ _ _ _ _ => k
  | .dray k _ => k

/-- A party may move a slot: one is there, and no party that waits for the same move is before it (R61; log entry 51). -/
def mayMove (t : Trough) (isTake : Bool) : Bool :=
  decide (0 < (if isTake then t.filled else t.free)) && !t.waiters.any (fun w => w.takes == isTake)

/-- The PE tasks that wait, NWAIT of R57; a waiting Dray channel keeps its command and takes none of the 16 places (log entry 24). -/
def peWaiters (t : Trough) : Nat :=
  (t.waiters.filter (fun w => match w with
    | .pe _ _ _ _ _ _ _ _ => true
    | .dray _ _ => false)).length

def slotRsvd (t : Trough) (k : Nat) : Bool := decide (k < t.nslot) && decide ((k + t.nslot - t.nxp) % t.nslot < t.rsvd)
def slotTaken (t : Trough) (k : Nat) : Bool := decide (k < t.nslot) && decide ((k + t.nslot - t.nxf) % t.nslot < t.taken)

/-- QRSV's move (R59): the slot's pen with the state after it. -/
def reserve (s : State) (tile n : Nat) (t : Trough) (ch : Nat) : State × Nat :=
  let pen := t.pen0 + t.nxr
  let t := { t with nxr := (t.nxr + 1) % t.nslot, free := t.free - 1, rsvd := t.rsvd + 1 }
  (ownPen (setTrough s tile n t) tile pen (kindEng t.pkind ch), pen)

/-- Slots that are freed at NXF return (R59). -/
def drainFreed : Nat → State → Nat → Nat → State
  | 0, s, _, _ => s
  | f + 1, s, tile, n =>
    match troughAt s tile n with
    | none => s
    | some t =>
      if t.freed.contains t.nxf && decide (0 < t.taken) then
        let s := ownPen s tile (t.pen0 + t.nxf) 10
        drainFreed f (setTrough s tile n { t with freed := t.freed.filter (· != t.nxf), nxf := (t.nxf + 1) % t.nslot, taken := t.taken - 1, free := t.free + 1 }) tile n
      else s

/-- A void slot that reaches NXT is taken and freed by the trough itself (R293). -/
def drainVoid : Nat → State → Nat → Nat → State
  | 0, s, _, _ => s
  | f + 1, s, tile, n =>
    match troughAt s tile n with
    | none => s
    | some t =>
      if t.voids.contains t.nxt && decide (0 < t.filled) then
        drainVoid f (setTrough s tile n { t with voids := t.voids.filter (· != t.nxt), freed := t.freed ++ [t.nxt], nxt := (t.nxt + 1) % t.nslot,
                                                 filled := t.filled - 1, taken := t.taken + 1 }) tile n
      else s

/-- A hop whose posted slot becomes FILLED may complete (R302). -/
def slotFilled (s : State) (tile n pen : Nat) : State :=
  let mine (r : Remote) : Bool := r.stage == 1 && r.tile == tile && r.trough == n && r.pen == some pen
  { s with syn := { s.syn with remotes := s.syn.remotes.map (fun r => if mine r then { r with stage := 2 } else r) } }

/-- Slots that are posted at NXP become filled (R59). -/
def drainPosted : Nat → State → Nat → Nat → State
  | 0, s, _, _ => s
  | f + 1, s, tile, n =>
    match troughAt s tile n with
    | none => s
    | some t =>
      if t.posted.contains t.nxp && decide (0 < t.rsvd) then
        let s := slotFilled (ownPen s tile (t.pen0 + t.nxp) 10) tile n (t.pen0 + t.nxp)
        drainPosted f (setTrough s tile n { t with posted := t.posted.filter (· != t.nxp), nxp := (t.nxp + 1) % t.nslot, rsvd := t.rsvd - 1, filled := t.filled + 1 }) tile n
      else s

/-- After a post or a free: everything that may move moves. -/
def settleTrough (s : State) (tile n : Nat) : State := drainFreed 257 (drainVoid 257 (drainPosted 257 s tile n) tile n) tile n

/-- QTAKE's move; a void slot that comes to NXT by it goes on at once (R293). -/
def take (s : State) (tile n : Nat) (t : Trough) (ch : Nat) : State × Nat :=
  let pen := t.pen0 + t.nxt
  let t := { t with nxt := (t.nxt + 1) % t.nslot, filled := t.filled - 1, taken := t.taken + 1 }
  (settleTrough (ownPen (setTrough s tile n t) tile pen (kindEng t.ckind ch)) tile n, pen)

/-- QPOST's move of slot `k`, void or not. -/
def post (s : State) (tile n k : Nat) (void : Bool) : State :=
  match troughAt s tile n with
  | none => s
  | some t => settleTrough (setTrough s tile n { t with posted := t.posted ++ [k], voids := if void then t.voids ++ [k] else t.voids }) tile n

/-- QFREE's move. -/
def freeSlot (s : State) (tile n k : Nat) : State :=
  match troughAt s tile n with
  | none => s
  | some t => settleTrough (setTrough s tile n { t with freed := t.freed ++ [k] }) tile n

/-- The checks of QPOST and QFREE in order (R62), for a party of a kind: trough and slot, or the detail. -/
def slotCheck (s : State) (tile pen kind : Nat) (isFree : Bool) : Except Nat (Nat × Nat) :=
  match penAt s tile pen with
  | none => .error 0x04
  | some p =>
    if p.size = 0 || !p.tm then .error 0x04
    else
      match troughOk s tile p.trg with
      | none => .error 0x01
      | some t =>
        if pen < t.pen0 || t.pen0 + t.nslot ≤ pen then .error 0x04
        else
          let k := pen - t.pen0
          if (if isFree then t.ckind else t.pkind) ≠ kind then .error 0x05
          else if isFree then (if !slotTaken t k || t.freed.contains k then .error 0x03 else .ok (p.trg, k))
          else if !slotRsvd t k || t.posted.contains k then .error 0x02
          else .ok (p.trg, k)

/-! Slots of frames (R293). -/

def ownedBy (s : State) (tile rank c i : Nat) : List Owned :=
  s.frm.owned.filter (fun x => x.tile == tile && x.rank == rank && x.ctx == c && x.iter == i)

/-- The task's block for its frame moved the slot (R293). -/
def movedBy (τ : Task) (x : Owned) : Bool :=
  x.rank == τ.rank && x.ctx == τ.ctx && x.iter == τ.iter && x.groom == (τ.kind == .groom) && x.blk == τ.blk

def addOwned (s : State) (x : Owned) : State := { s with frm := { s.frm with owned := s.frm.owned ++ [x] } }

/-- EKILL's part (R293): slots that are still reserved and not posted are posted void, those still taken and not freed are freed. -/
def dropOwned (s : State) (tile rank c i : Nat) : State :=
  let mine := ownedBy s tile rank c i
  let s := { s with frm := { s.frm with owned := s.frm.owned.filter (fun x => !mine.contains x) } }
  mine.foldl (fun s x =>
    match penAt s tile x.pen with
    | none => s
    | some p =>
      match troughAt s tile p.trg with
      | none => s
      | some t =>
        let k := x.pen - t.pen0
        if x.take then (if slotTaken t k && !t.freed.contains k then freeSlot s tile p.trg k else s)
        else if slotRsvd t k && !t.posted.contains k then post s tile p.trg k true
        else s) s

/-! Instructions. -/

/-- Every lane below W. -/
def fillLanes (τ : Task) (w : Word) : Lanes := mkLanes (fun l => if l < τ.w then some w else none)

/-- QRSV and QTAKE (R292). -/
def moveBody (isTake : Bool) (a : Src) (np : Nat) (t : Target) (s : State) (τ : Task) : Body (State × Task) := do
  check (srcOk τ a) causeBadSource
  checkTarget s τ t
  check (portAt s np).isSome causeBadTarget (384 + np)
  match ← lane0 τ (readSrc τ false a) [] with
  | none => do
    let τ' ← finish s τ t noLanes
    .ok (s, τ')
  | some v => do
    check (v.toNat / 64 == 0) causeBadSource
    let tile := s.occ.a
    let n := v.toNat % 64
    match troughOk s tile n with
    | none => .error (.fault causeTrough 0x01 0)
    | some q =>
      if (if isTake then q.ckind else q.pkind) ≠ 0 then .error (.fault causeTrough 0x05 0)
      else
        let mine := ownedBy s tile τ.rank τ.ctx τ.iter
        match mine.find? (fun x => movedBy τ x && x.pos == τ.pos && x.take == isTake) with
        | some x => do
          let τ' ← finish s τ t (fillLanes τ (BitVec.ofNat 32 (x.pen * 2 ^ 22)))
          .ok (s, τ')
        | none =>
          if 8 ≤ mine.length then .error (.fault causeTrough 0x06 0)
          else if !mayMove q isTake then
            if peWaiters q < 16 then .error (.trough n (.pe isTake s.occ.b τ.rank τ.ctx τ.iter τ.blk τ.pos np))
            else .error (.throttle true)
          else do
            let (s', pen) := if isTake then take s tile n q 0 else reserve s tile n q 0
            let s' := addOwned s' { tile := tile, rank := τ.rank, ctx := τ.ctx, iter := τ.iter, groom := τ.kind == .groom, blk := τ.blk, pos := τ.pos, pen := pen,
                                      take := isTake }
            let τ' ← finish s' τ t (fillLanes τ (BitVec.ofNat 32 (pen * 2 ^ 22)))
            .ok (s', τ')

def execQrsv (a : Src) (np : Nat) (t : Target) (s : State) : Result := runBody (moveBody false a np t) s
def execQtake (a : Src) (np : Nat) (t : Target) (s : State) : Result := runBody (moveBody true a np t) s

/-- QPOST and QFREE at issue (R18, R62, R294; log entry 25): their pen is checked as a slot, against the block's own earlier moves too, and then
as one that a PE reaches. -/
def slotBody (isFree : Bool) (a : Src) (s : State) (τ : Task) : Body Task := do
  check (srcOk τ a) causeBadSource
  match ← lane0 τ (readSrc τ false a) [] with
  | none => .ok (τ.advance 1)
  | some v => do
    let pen := penOf v.toNat
    match slotCheck s s.occ.a pen 0 isFree with
    | .error d => .error (.fault causeTrough d v.toNat)
    | .ok _ =>
      if τ.moves.contains (pen, isFree) then .error (.fault causeTrough (if isFree then 0x03 else 0x02) v.toNat)
      else do
        penGuard (penCheck s τ pen (offOf v.toNat) 4 4) v.toNat
        let τ := { τ with moves := τ.moves ++ [(pen, isFree)] }
        .ok ((τ.enter (mkOp s τ (if isFree then .qfree pen else .qpost pen) none noLanes noLanes [])).advance 1)

def execQpost (a : Src) (s : State) : Result := runTask (slotBody false a) s
def execQfree (a : Src) (s : State) : Result := runTask (slotBody true a) s

/-- QPOST or QFREE at commit (R60, R294): after the STPs of earlier entries; a check that fails now is reported and moves nothing. -/
def commitSlot (s : State) (o : Op) (pen : Nat) (isFree : Bool) : State :=
  let s := drainStp s o.tile
  match slotCheck s o.tile pen 0 isFree with
  | .error d => raiseOp s o causeTrough d (pen * 2 ^ 22)
  | .ok (n, k) => if isFree then freeSlot s o.tile n k else post s o.tile n k false

/-- QSTAT (R295). -/
def execQstat (a : Src) (t : Target) (s : State) : Result :=
  runTask (fun s τ => do
    check (srcOk τ a) causeBadSource
    checkTarget s τ t
    match ← lane0 τ (readSrc τ false a) [] with
    | none => finish s τ t noLanes
    | some v => do
      check (v.toNat / 64 == 0) causeBadSource
      match troughOk s s.occ.a (v.toNat % 64) with
      | none => .error (.fault causeTrough 0x01 0)
      | some q =>
        let ws := [q.free, q.rsvd, q.filled, q.taken, peWaiters q, q.nxr + q.nxp * 2 ^ 8 + q.nxt * 2 ^ 16 + q.nxf * 2 ^ 24]
        finish s τ t (lanesOf ((ws.take τ.w).map (BitVec.ofNat 32)))) s

/-- The notify token of a waiter (R292): lane 0 the slot's PADDR, W 1 and EOR 1, under the task's tag. -/
def notify (s : State) (tile elem rank c i blk pos port pen : Nat) : State :=
  match sget s.tab.ports ((tile * 9 + elem) * 128 + port), ctxOf s c with
  | some p, some x =>
    let v : Word := BitVec.ofNat 32 (pen * 2 ^ 22)
    match tagOp s x.q c i x.parent p.top (some v) with
    | .ok (c', i') => addOut s tile elem { hdr := plainHeader c' i' 1 0, lanes := lanesOf [v] } p.dests
    | .error e =>
      raiseOn s tile { bareRecord (ltileOf s tile rank) e 0 (if e = causeBadTarget then 384 + port else 0) with
        framed := true, ctx := c, iter := i, rank := rank, blk := blk, pos := pos }
  | _, _ => s

/-- The notify token finds an entry of its element's output buffer, or the fault that its tag raises a place in the list (R191, R192, R405). -/
def notifyRoom (s : State) (tile elem rank c i port pen : Nat) : Bool :=
  match sget s.tab.ports ((tile * 9 + elem) * 128 + port), ctxOf s c with
  | some p, some x =>
    match tagOp s x.q c i x.parent p.top (some (BitVec.ofNat 32 (pen * 2 ^ 22))) with
    | .ok (c', i') => outRoom s tile elem c' i'
    | .error _ => faultRoom s tile rank c i
  | _, _ => true

/-- The frame holds 8 slots (R293). -/
def frameFull (s : State) (tile rank c i : Nat) : Bool := decide (8 ≤ (ownedBy s tile rank c i).length)

/-- What the first waiter needs beside the slot. -/
def serveRoom (s : State) (tile : Nat) (t : Trough) : Waiter → Bool
  | .pe isTake elem rank c i _ _ port =>
    if frameFull s tile rank c i then faultRoom s tile rank c i
    else notifyRoom s tile elem rank c i port (t.pen0 + if isTake then t.nxt else t.nxr)
  | .dray _ _ => true

/-- TROUGH_WAITER_SERVE (R61, R292): the first waiter that a slot is there for is served. One whose frame holds 8 slots by then gets none, and its
ninth move raises TROUGH, detail 0x06, asynchronously (R62, R293; the model's choice, log entry 50). -/
def execTroughWaiterServe (s : State) : Result :=
  let tile := s.occ.a
  let n := s.occ.b
  match troughAt s tile n with
  | none => .next s
  | some t =>
    let ready (w : Waiter) : Bool := decide (0 < (if w.takes then t.filled else t.free))
    match t.waiters.find? ready with
    | none => .next s
    | some w =>
      if !serveRoom s tile t w then .next s
      else
      let t := { t with waiters := t.waiters.erase w }
      let s := setTrough s tile n t
      match w with
      | .pe isTake elem rank c i blk pos port =>
        if frameFull s tile rank c i then
          .next (raiseOn s tile { bareRecord (ltileOf s tile rank) causeTrough 0x06 0 with
            framed := true, ctx := c, iter := i, rank := rank, blk := blk, pos := pos })
        else
        let (s, pen) := if isTake then take s tile n t 0 else reserve s tile n t 0
        let s := addOwned s { tile := tile, rank := rank, ctx := c, iter := i, groom := elem == 8, blk := blk, pos := pos, pen := pen, take := isTake }
        .next (notify s tile elem rank c i blk pos port pen)
      | .dray isTake op =>
        match s.syn.remotes.find? (fun r => r.op == op && r.tile == tile && r.pen.isNone) with
        | none => .next s
        | some r =>
          let (s, pen) := if isTake then take s tile n t 0 else reserve s tile n t 0
          let got (x : Remote) : Remote := if x == r then { x with pen := some pen } else x
          .next { s with syn := { s.syn with remotes := s.syn.remotes.map got } }

end Sys2Proof.Machine
end

