-- ==== Sys2Proof/Machine/Debug.lean ====
section
/-! DEFINITION. Halting for debug: the halt record, halts, single steps and the return of a halted task (R372, R424 to R429). -/

namespace Sys2Proof.Machine

/-- Lanes with their valid mask, 136 bytes (R427). -/
def laneImage (v : Lanes) : Nat :=
  (upto 32).foldr (fun l acc => ((laneOf v l).elim 0 (·.toNat)) + 2 ^ 32 * acc) 0 +
    2 ^ 1024 * (upto 32).foldr (fun l acc => (if (laneOf v l).isSome then 1 else 0) + 2 * acc) 0

/-- Lanes read back. -/
def lanesFrom (n : Nat) : Lanes := mkLanes (fun l => if bit n (1024 + l) then some (BitVec.ofNat 32 (n / 2 ^ (32 * l))) else none)

def boolMask (f : Nat → Bool) (n : Nat) : Nat := (upto n).foldr (fun l acc => (if f l then 1 else 0) + 2 * acc) 0

/-- Place of a halt record (R403). -/
def haltAddr (s : State) (tile elem : Nat) : Nat := parkSlice s tile + 0x800000 + elem * 32768

/-- Images of equal size joined, low first. -/
def joinImages (size : Nat) (l : List Nat) : Nat := l.foldr (fun x acc => x + 2 ^ (8 * size) * acc) 0

/-- A latch position's image: A, B and P with its sense mask; zero below POS. -/
def latchImage (τ : Task) (p : Nat) : Nat :=
  if p < τ.pos then 0
  else
    laneImage (sgetD τ.latA p []) + 2 ^ 1088 * laneImage (sgetD τ.latB p []) +
      2 ^ 2176 * (laneImage (sgetD τ.pv p []) + 2 ^ 1056 * boolMask (fun l => (sgetD τ.sense p []).getD l false) 32)

/-- The halt record (R427). -/
def haltImage (s : State) (τ : Task) : Nat :=
  let n := τ.cbuf.length
  let head := τ.ctx * 2 ^ 16 + τ.iter + 2 ^ 32 * (τ.blk + τ.pos % 64 * 2 ^ 8 + (τ.w - 1) * 2 ^ 14) +
    2 ^ 64 * boolMask (fun l => τ.emask.getD l false) 32 + 2 ^ 96 * n + 2 ^ 128 * τ.step + 2 ^ 192 * boolMask (fun p => τ.armed.contains p) 64
  head + 2 ^ (8 * 0x100) * joinImages 136 (τ.temps.map laneImage) + 2 ^ (8 * 0x540) * joinImages 408 ((upto 64).map (latchImage τ)) +
    2 ^ (8 * 0x6B40) * ofBytes ((upto (40 * n)).map (Config.commitImage s.fresh))

def writeHalt (s : State) (tile elem : Nat) (τ : Task) : State := recordWrite s.tick (haltAddr s tile elem) 32768 (haltImage s τ)

/-- What the state keeps of a halted task: its temporaries, latches, EMASK and ARMED stand in its halt record, and a frame's entries in their
slots (R426). -/
def Task.bare (τ : Task) : Task :=
  { τ with entries := if τ.kind == .frame then [] else τ.entries, temps := [], latA := [], latB := [], pv := [], sense := [], armed := [],
           emask := [] }

/-- The entries of a halted task: a frame's as its slots hold them now (R426, R428). -/
def haltedEntries (s : State) (tile : Nat) (τ : Task) : List Lanes :=
  match τ.kind, sget s.tab.blocks (tile * 256 + τ.blk) with
  | .frame, some b => (upto b.nin).map (fun k => (sget s.frm.slots (slotKey s tile τ.rank τ.ctx τ.iter (b.slot0 + k))).elim noLanes (fun x => cutLanes τ.w x.lanes))
  | _, _ => τ.entries

/-- The task as its record then stands (R428, R429); its bytes are taken whatever their errors (log entry 54). -/
def reloadTask (s : State) (tile elem : Nat) (τ : Task) : Task :=
  let a := haltAddr s tile elem
  let rd (off n : Nat) : Nat := homeBytes s 0 (a + off) n
  let latch (k p : Nat) : Lanes := lanesFrom (rd (0x540 + 408 * p + 136 * k) 136)
  let live := (upto 64).filter (fun p => τ.pos ≤ p)
  let n := rd 0x10 4
  { τ with
    entries := haltedEntries s tile τ, emask := (upto 32).map (bit (rd 8 4)), step := if n = 0 then 0 else n + 1, armed := (upto 64).filter (bit (rd 0x18 8)),
    temps := (upto 8).map (fun k => lanesFrom (rd (0x100 + 136 * k) 136)), latA := live.map (fun p => (p, latch 0 p)),
    latB := live.map (fun p => (p, latch 1 p)), pv := live.map (fun p => (p, latch 2 p)),
    sense := live.map (fun p => (p, (upto 32).map (bit (rd (0x540 + 408 * p + 272 + 132) 4)))) }

/-- R424: halting is enabled for a context. -/
def haltEnabled (s : State) (asid : Nat) : Bool := s.dev.level != 0 && s.dev.hen && s.dev.dasid.toNat == asid

/-- The record of a task that halts, for the supervisor (R425). A handler or groom task has no frame of its own: its record goes without one
(log entry 37). -/
def haltRecord (s : State) (tile elem : Nat) (τ : Task) (detail : Nat) : FaultRec :=
  { framed := τ.kind == .frame, ctx := τ.ctx, iter := τ.iter, rank := τ.rank, detail := detail, cause := causeBrk, escd := false,
    sup := true, async := false, ftile := ltileOf s tile τ.rank, pos := τ.pos, blk := τ.blk, addr := 0, fseq := 0, op := 0, row := 0,
    halt := some elem }

/-- The task is held for a resume: the park area is valid, and a frame's task has its frame still. -/
def haltHolds (s : State) (tile : Nat) (τ : Task) : Bool := s.dev.pv && (τ.kind != .frame || frameLive s tile τ.rank τ.ctx τ.iter)

/-- What the discard of a halted task leaves to do: a groom task's tokens leave the inbox (R172), a handler task's record goes on (R411). -/
def endHalted (s : State) (tile : Nat) (τ : Task) : State :=
  if τ.spent then wakeGroom s tile
  else
    match τ.kind with
    | .groom => groomDone s tile τ.blk
    | .handler => passOn s tile τ
    | .frame => s

/-- A running task halts (R425, R427): its frame is parked and its halt record written. Where it cannot be held it is discarded, and its
fault reported without a frame (R403). -/
def haltTask (s : State) (tile elem : Nat) (τ : Task) (detail : Nat) : State :=
  let r := haltRecord s tile elem τ detail
  let s' := setPe s tile elem { peAt s tile elem with run := none }
  if haltHolds s tile τ then
    let τ := { τ with step := 0 }
    let s' := writeHalt { s' with flt := { s'.flt with halted := sset s'.flt.halted (tile * 9 + elem) τ.bare } } tile elem τ
    if τ.kind == .frame then raiseOn (parkFrame s' tile τ.rank τ.ctx τ.iter true) tile r else enqueueFault s' tile r
  else
    let s' := endHalted (discardEffects s' τ) tile τ
    if τ.kind == .frame then raiseOn s' tile { r with halt := none }
    else enqueueFault s' (if s.dev.pv then tile else quadTile0 (quadOf tile)) { r with halt := none }

/-- The running tasks of a context with their elements. -/
def runningTasks (s : State) (c : Nat) : List (Nat × Nat × Task) :=
  s.pe.filterMap (fun p => p.2.run.bind (fun τ => if τ.ctx == c then some (p.1 / 9, p.1 % 9, τ) else none))

/-- The lists that the records of a halt go to have room (R405), and the places of its halt records (R403) hold no task that is halted already
(log entry 48). -/
def haltRoom (s : State) (c : Nat) : Bool :=
  let l := runningTasks s c
  l.all (fun x => (sget s.flt.halted (x.1 * 9 + x.2.1)).isNone && decide (pendingCount s x.1 + l.length ≤ 1024) && decide (pendingCount s (quadTile0 (quadOf x.1)) + l.length ≤ 1024))

/-- R425: every running task of a context stops, and no task of it fires until all have resumed. -/
def haltContext (s : State) (c : Nat) (brk : Option (Nat × Nat × Nat)) : State :=
  let l := runningTasks s c
  let s := if l.any (fun x => haltHolds s x.1 x.2.2) then { s with flt := { s.flt with haltCtx := sset s.flt.haltCtx c () } } else s
  l.foldl (fun s x =>
    let d := match brk with
      | some (t, e, code) => if t == x.1 && e == x.2.1 then code else 0xFF
      | none => 0xFF
    haltTask s x.1 x.2.1 x.2.2 d) s

/-- HALT (R425): a halt request for a context; the session asks again while a list of faults is full. -/
def execHalt (s : State) : Result :=
  match ctxOf s s.occ.a with
  | some x => if haltEnabled s x.asid && (sget s.flt.haltCtx s.occ.a).isNone && haltRoom s s.occ.a then .next (haltContext s s.occ.a none) else .next s
  | none => .next s

/-- The task has run its steps: it stands before an instruction, or the last one's block has committed and its entries are released, or stand on
a frozen tile (R417, R429). -/
def stepsDone (s : State) (tile elem : Nat) (τ : Task) : Bool :=
  τ.step == 1 && (decide (τ.pos ≤ τ.len) || τ.spent && ((peAt s tile elem).held.isEmpty || s.frm.frozen.contains tile))

/-- STEP_HALT (R429): a task that has run its steps halts again. -/
def execStepHalt (s : State) : Result :=
  match s.task? with
  | some τ =>
    if stepsDone s s.occ.a s.occ.b τ ∧ haltRoom s τ.ctx then
      let s := if !haltHolds s s.occ.a τ then s else { s with flt := { s.flt with haltCtx := sset s.flt.haltCtx τ.ctx () } }
      .next (haltTask s s.occ.a s.occ.b τ 0xFE)
    else .next s
  | none => .next s

/-- The reload of a halted task corrects the single-bit errors of its halt record and of its entry slots (R82, R88). -/
def fixHalted (s : State) (tile elem : Nat) (τ : Task) : State :=
  let s := correctAt s (haltAddr s tile elem) 32768
  match τ.kind, sget s.tab.blocks (tile * 256 + τ.blk) with
  | .frame, some b => (upto b.nin).foldl (fun s n => correctSoft s tile (frameWord (slotKey s tile τ.rank τ.ctx τ.iter (b.slot0 + n))) 16) s
  | _, _ => s

/-- ERES of a halt record (R428): the task is to go on at its element. -/
def resumeHalted (s : State) (tile elem : Nat) (r : FaultRec) : State :=
  let k := tile * 9 + elem
  match sget s.flt.halted k with
  | none => s
  | some τ =>
    let s := fixHalted s tile elem τ
    let own := r.detail < 128
    { s with flt := { s.flt with
        halted := sset s.flt.halted k (reloadTask s tile elem τ), resuming := sset s.flt.resuming k (),
        resumed := if own then sset s.flt.resumed k () else s.flt.resumed } }

/-- The first entry slot of a halted task with an uncorrectable error, as its byte in the frame store. -/
def haltedBad (s : State) (tile : Nat) (τ : Task) : Option Nat :=
  match τ.kind, τ.spent, sget s.tab.blocks (tile * 256 + τ.blk) with
  | .frame, false, some b => (upto b.nin).findSome? (fun n =>
      let k := slotKey s tile τ.rank τ.ctx τ.iter (b.slot0 + n)
      (sget s.frm.slots k).bind (fun x => if (slotError s k x).isSome then some (k % 2 ^ 14 * 128) else none))
  | _, _, _ => none

/-- The element takes its halted task up again, unless its block has committed; a context none of whose tasks is halted fires again. Where an entry
slot cannot be read, MEM_UE is raised on the frame and the task goes, as at firing (R83; the model's choice, log entry 61). -/
def takeHalted (s : State) (tile elem : Nat) : State :=
  let k := tile * 9 + elem
  match sget s.flt.halted k with
  | none => s
  | some τ =>
    let s := { s with flt := { s.flt with halted := sdel s.flt.halted k, resuming := sdel s.flt.resuming k } }
    let s := if s.flt.halted.any (fun p => p.2.ctx == τ.ctx) then s else { s with flt := { s.flt with haltCtx := sdel s.flt.haltCtx τ.ctx } }
    match haltedBad s tile τ with
    | some a => raiseOn (discardEffects s τ) tile (syncRecord s tile τ 0x3F causeMemUe 0 a)
    | none => if τ.spent then wakeGroom s tile else setPe s tile elem { peAt s tile elem with run := some τ }

end Sys2Proof.Machine
end

