-- ==== Sys2Proof/Machine/MemEvents.lean ====
section
/-! DEFINITION. Accesses performed: at the stash, at home, at the SC nodes and at device registers; LDCH nodes, responses, WAIT and
fences (R34, R85, R86, R132 to R141, R155, R158 to R162, R177, R263, R270 to R281). -/

namespace Sys2Proof.Machine

/-! Device registers (R95, R403, R447, R450). An access is performed only at a word of one of them (log entry 18). -/

/-- The contents of a register. -/
def device64 (s : State) (pa : Nat) : Nat :=
  let r := (pa - 0x018000000000) / 8 * 8
  if r = 0x1000 then s.dev.seqtb.toNat * 2 ^ 12
  else if r = 0x1008 then s.dev.seqtn.toNat
  else if r = 0x2000 then s.dev.parkb.toNat * 2 ^ 24 + (if s.dev.pv then 1 else 0)
  else if r = 0x3000 then s.dev.pkgid.toNat + (if s.dev.idv then 2 ^ 10 else 0)
  else ((s.dev.bootrec[(r - 0x4000) / 8]?).elim 0 (·.toNat))

/-- Writes a whole register. BOOTREC is read-only: a write is ignored (R7, R450). Reserved bits stay zero: that a write of other values
drops them is the model's choice (log entry 31). -/
def setDevice64 (s : State) (pa v : Nat) : State :=
  let r := (pa - 0x018000000000) / 8 * 8
  if r = 0x1000 then { s with dev := { s.dev with seqtb := BitVec.ofNat 40 (v / 2 ^ 12) } }
  else if r = 0x1008 then { s with dev := { s.dev with seqtn := BitVec.ofNat 21 v } }
  else if r = 0x2000 then { s with dev := { s.dev with parkb := BitVec.ofNat 28 (v / 2 ^ 24), pv := bit v 0 } }
  else if r = 0x3000 then { s with dev := { s.dev with pkgid := BitVec.ofNat 10 v, idv := bit v 10 } }
  else s

def deviceRead (s : State) (pa : Nat) : Nat := device64 s pa / 2 ^ (8 * (pa % 8)) % 2 ^ 32

/-- A 32-bit write of a device register. -/
def deviceWrite (s : State) (pa v : Nat) : State :=
  let old := device64 s pa
  let sh := 2 ^ (8 * (pa % 8))
  setDevice64 s pa (old - old / sh % 2 ^ 32 * sh + v % 2 ^ 32 * sh)

/-- DEVICE_REGISTER_WRITE (R95): a 64-bit write of a device register. -/
def execDeviceRegisterWrite (s : State) : Result := .next (setDevice64 s (0x018000000000 + s.occ.a % 0x400000000) s.occ.b)

/-! Ordering. -/

/-- A translated lane of `o` may touch a byte of a lane of the older `p` (R138): by PA where that is translated too; by VA in one ASID where its
translation has failed; any where it is not known yet. -/
def meets (o p : Op) (x y : Lane) : Bool :=
  match x.phys, y.phys with
  | some a, some b => decide (a.pa < b.pa + y.len) && decide (b.pa < a.pa + x.len)
  | _, _ => y.flt == 0 && x.phys.isSome || o.cx.asid == p.cx.asid && decide (x.va < y.va + (y.len : Int)) && decide (y.va < x.va + (x.len : Int))

/-- A lane that is still to be performed on its tile. -/
def laneOpen (p : Op) (x : Lane) : Bool := !x.fin && !(isStore p.kind && x.res == 1) && !(p.phase == .done)

/-- R138: an older access of the stream to a common byte, a PREF among them (R136), is still to be performed. -/
def olderMeets (s : State) (o : Op) : Bool :=
  s.ops.any (fun p => issuedBefore p o && sameStream p o && (isAccess p.kind || p.kind == .pref) &&
    p.lanes.any (fun y => laneOpen p y && o.lanes.any (fun x => laneOpen o x && meets o p x y)))

/-- R34: `p` faults, or may still be found to fault, and holds the younger stores of its stream. -/
def holdsStores (p : Op) : Bool := inStream p && (p.phase == .queued || stopped p || isChain p.kind && p.lanes.any (fun x => x.flt != 0))

/-- What holds an access in issue order: a FENCE, an older access to a common byte, a faulting one, or one that is retried. -/
def waitsTurn (s : State) (o : Op) : Bool :=
  fenced s o || olderMeets s o || isStore o.kind && s.ops.any (fun p => sameStream p o &&
    (younger p o && holdsStores p || p.retried && inStream p && p.phase == .ready && issuedBefore p o))

/-- R34, R157, R416: a store is held behind a faulting access of its stream, behind one that may still be found to fault, and, once the fault is
answered, until the access is performed and the held stores issued before it. A retried access that waits for an earlier-issued one itself
holds none that was issued before it. -/
def heldStore (s : State) (o : Op) : Bool :=
  isStore o.kind && s.ops.any (fun p => sameStream p o && (younger p o && holdsStores p ||
    p.retried && inStream p && p.phase == .ready && (issuedBefore p o || younger p o && !waitsTurn s p)))

/-- The port lets the access or prefetch perform. -/
def mayPerform (s : State) (o : Op) : Bool := (isAccess o.kind || o.kind == .pref) && o.phase == .ready && !fenced s o && !heldStore s o && !olderMeets s o

/-- Where a lane is performed. -/
inductive Place where
  | stash | home | sc
  deriving DecidableEq, Repr

/-- R64: loads and stores of normal memory use the stash of a tile that has one; SC memory is reached at its nodes. -/
def placeOf (s : State) (o : Op) (p : Phys) : Place :=
  match o.kind with
  | .sflush => .home
  | .sinv => .home
  | .ld _ => if p.mt = 1 then .sc else if p.mt = 0 ∧ stashOn s o.tile o.elem then .stash else .home
  | .st _ _ => if p.mt = 1 then .sc else if p.mt = 0 ∧ stashOn s o.tile o.elem then .stash else .home
  | .ldch _ _ _ _ _ => if stashOn s o.tile o.elem then .stash else .home
  | .pref => if stashOn s o.tile o.elem then .stash else .home
  | _ => if p.mt = 1 then .sc else .home

/-! One lane performed. -/

/-- What performing a lane gives: a state and a result, or an uncorrectable error at a PA. -/
inductive Performed where
  | ok (s : State) (res : Nat)
  | ue (s : State) (pa : Nat)

def signed (n v : Nat) : Int := if v < 2 ^ (n - 1) then (v : Int) else (v : Int) - (2 ^ n : Nat)

/-- R277. -/
def amoValue (o : AmoOp) (old b : Nat) : Nat :=
  match o with
  | .add => (old + b) % 2 ^ 32
  | .and => old &&& b
  | .or => old ||| b
  | .xor => old ^^^ b
  | .min => if signed 32 old ≤ signed 32 b then old else b
  | .max => if signed 32 old ≤ signed 32 b then b else old
  | .minu => min old b
  | .maxu => max old b
  | .swap => b
  | .swapd => b
  | .addd => (old + b) % 2 ^ 64

/-- R281. -/
def amofValue (o : AmofOp) (old b : Nat) : Nat :=
  let x := BitVec.ofNat 32 old
  let y := BitVec.ofNat 32 b
  match o with
  | .fadd => (add32 x y).1.toNat
  | .fmin => (fmin32 x y).toNat
  | .fmax => (fmax32 x y).toNat

/-- An atomic at home in one step (R68, R89, R135, R162). -/
def atomicAt (s : State) (o : Op) (x : Lane) (p : Phys) (f : Nat → Option Nat) : Performed :=
  let s := if linePresent s o.tile (p.pa / 128) then evictLine s o.tile (p.pa / 128) else s
  match readHome s p.enc p.pa x.len with
  | (s, none) => .ue s p.pa
  | (s, some old) =>
    match f old with
    | some new => .ok (homeWrite s p.enc p.pa x.len new) old
    | none => .ok s old

/-- A lane performed at home (R85, R132, R135). Each lane of a row store is a write of 4 bytes of its own, so that a row takes no word off the list
of bad words (R90): the model's choice (log entry 67). -/
def homeLane (s : State) (o : Op) (x : Lane) (p : Phys) : Performed :=
  match o.kind with
  | .ld _ =>
    if p.mt = 2 then .ok s (deviceRead s p.pa)
    else
      match readHome s p.enc p.pa x.len with
      | (s, some v) => .ok s v
      | (s, none) => .ue s p.pa
  | .ldch _ _ _ _ _ =>
    match readHome s p.enc p.pa x.len with
    | (s, some v) => .ok s v
    | (s, none) => .ue s p.pa
  | .st _ _ =>
    if p.mt = 2 then .ok (deviceWrite s p.pa x.data) 0
    else .ok (homeWrite s p.enc p.pa x.len x.data) 0
  | .amo a => atomicAt s o x p (fun old => some (amoValue a old x.data))
  | .amosc a => atomicAt s o x p (fun old => some (amoValue a old x.data))
  | .amof a => atomicAt s o x p (fun old => some (amofValue a old x.data))
  | .cas _ => atomicAt s o x p (fun old => if old = x.cmp then some x.data else none)
  | .sflush => .ok (writeBackIn s o.tile [(p.pa, x.len)]) 0
  | .sinv =>
    .ok (((presentLines s o.tile).filter (overlaps [(p.pa, x.len)])).foldl (fun s l => dropLine s o.tile l) s) 0
  | _ => .ok s 0

/-- A lane performed at the stash (R65, R133); a store's result is 1 while the stash holds it dirty (R135). -/
def stashLane (s : State) (o : Op) (x : Lane) (p : Phys) : Performed :=
  match o.kind with
  | .st _ thru =>
    if thru then .ok (ackLine (homeWrite (absorb s o.tile p x.len x.data false) p.enc p.pa x.len x.data) o.tile (p.pa / 128)) 0
    else .ok (absorb s o.tile p x.len x.data true) 1
  | .pref =>
    match fillLine s o.tile p with
    | some s => .ok s 0
    | none => .ue (correctAt s (p.pa / 128 * 128) 128) p.pa
  | _ =>
    match loadNormal s o.tile o.elem p x.len with
    | (s, .ok v) => .ok s v
    | (s, .error pa) => .ue s pa

/-- An operation that has nothing left to do leaves with its token, or waits with it for room in the output buffer (R191). -/
def leave (s : State) (o : Op) : State :=
  if emitRoom s o o.a then emitOp (dropOp s o.id) o o.elem o.a (fun h => h) else setOp s { o with phase := .done }

/-- An operation with every lane performed for its tile: a store leaves when it is at home and gives its token (R141); a load or
atomic awaits its response; the others leave with theirs. -/
def complete (s : State) (id : Nat) : State :=
  match opById s id with
  | none => s
  | some o =>
    match o.kind with
    | .st _ _ =>
      if o.lanes.all (·.fin) then leave s o
      else if o.lanes.all (fun x => x.fin || x.res == 1) then setOp s { o with phase := .absorbed }
      else s
    | .pref => if o.lanes.all (·.fin) then dropOp s id else s
    | .sflush => if o.lanes.all (·.fin) then leave s o else s
    | .sinv => if o.lanes.all (·.fin) then leave s o else s
    | .ldch _ _ _ _ _ => if o.lanes.all (fun x => x.fin || x.flt != 0) then setOp s { o with phase := .done } else s
    | _ => if o.lanes.all (·.fin) then setOp s { o with phase := .done } else s

/-- One lane performed where the step has its turn. -/
def laneAt (pl : Place) (s : State) (o : Op) (x : Lane) (p : Phys) : Performed :=
  if pl = .stash then stashLane s o x p else homeLane s o x p

/-- Performs the open lanes of an operation that stand at a place, in ascending order (R268). -/
def performLanes (pl : Place) (id : Nat) : List Lane → State → State
  | [], s => complete s id
  | x :: r, s =>
    match opById s id, x.phys with
    | some o, some p =>
      if laneOpen o x && placeOf s o p == pl then
        match laneAt pl s o x p with
        | .ok s v => performLanes pl id r (setLane s id { x with fin := !(isStore o.kind && v == 1), res := v })
        | .ue s pa =>
          match o.kind with
          | .ldch _ _ _ _ _ => performLanes pl id r (setLane s id { x with flt := causeMemUe * 256, res := pa })
          | _ => failOp s o causeMemUe 0 pa
      else performLanes pl id r s
    | _, _ => performLanes pl id r s

/-- STASH_FILL (R65, R133): loads, prefetches and stores of normal memory at a tile with a stash. -/
def execStashFill (s : State) : Result :=
  match opById s s.occ.a with
  | some o => if mayPerform s o then .next (performLanes .stash o.id o.lanes s) else .next s
  | none => .next s

/-! SC operations (R158 to R160). -/

/-- The open SC lane that an operation performs next. -/
def scLane (s : State) (o : Op) : Option (Lane × Phys) :=
  o.lanes.findSome? (fun x => x.phys.bind (fun p => if laneOpen o x && placeOf s o p == .sc then some (x, p) else none))

/-- An older operation of the port that an SC operation follows (R159, R160): one of its context that is or may be an SC operation not yet
performed, a faulting one included; or one of another context that its port could hand to its node now. -/
def scBefore (s : State) (o q : Op) : Bool :=
  decide (q.id < o.id) && q.tile == o.tile && q.elem == o.elem && isAccess q.kind &&
    (if q.ctx == o.ctx then q.phase == .queued || stopped q || q.phase == .ready && (scLane s q).isSome
     else mayPerform s q && (scLane s q).isSome && !s.syn.admitted.contains q.id)

/-- R159, R160: an SC operation is admitted in its port's order, while no change of SMODE waits and its node has room. -/
def mayAdmit (s : State) (o : Op) : Bool :=
  match scLane s o with
  | none => false
  | some (_, p) =>
    let node (id : Nat) : Option Nat := (opById s id).bind (fun q => (scLane s q).map (fun y => controller s y.2.pa))
    s.syn.smodeNext.isNone && !s.syn.admitted.contains o.id && !s.ops.any (scBefore s o) &&
      decide ((s.syn.admitted.filter (fun id => node id == some (controller s p.pa))).length < 128)

/-- DRAM_REQUEST (R85, R86, R132): the lanes performed at home; SC lanes are admitted at their node, in ticket order of admission. -/
def execDramRequest (s : State) : Result :=
  match opById s s.occ.a with
  | none => .next s
  | some o =>
    if !mayPerform s o then .next s
    else if mayAdmit s o then .next { s with syn := { s.syn with admitted := s.syn.admitted ++ [o.id] } }
    else .next (performLanes .home o.id o.lanes s)

/-- An admitted operation performs one lane; one with more SC lanes queues again. -/
def performSc (s : State) (id : Nat) : State :=
  let s := { s with syn := { s.syn with admitted := s.syn.admitted.filter (· != id) } }
  match opById s id with
  | none => s
  | some o =>
    match scLane s o with
    | none => s
    | some (x, p) =>
      match homeLane s o x p with
      | .ok s v => complete (setLane s id { x with fin := true, res := v }) id
      | .ue s pa => failOp s o causeMemUe 0 pa

/-- The node of an admitted operation. -/
def nodeOf (s : State) (id : Nat) : Nat := ((opById s id).bind (fun o => (scLane s o).map (fun y => controller s y.2.pa))).getD 12

/-- BATON_VISIT (R158): the node that holds the baton performs up to eight operations, oldest first, and passes the baton on. A node
that cannot pass it keeps it (R415). -/
def execBatonVisit (s : State) : Result :=
  if s.syn.smode || (sget s.syn.stuck s.syn.baton).isSome then .next s
  else
    let s' := { s with syn := { s.syn with baton := (s.syn.baton + 1) % 13 } }
    .next (((s.syn.admitted.filter (fun id => nodeOf s id == s.syn.baton)).take 8).foldl performSc s')

/-- TICKET_ORDER (R160): the lowest ticket is performed. -/
def execTicketOrder (s : State) : Result :=
  match s.syn.smode, s.syn.admitted with
  | true, id :: _ => .next (performSc s id)
  | _, _ => .next s

/-- SEQ_ORDER (R415): the baton fails to pass a node within 2^16 cycles; the nodes go to ticket order. It is reported to tile 0 even where Q0
is fused off (the model's choice, log entry 27). -/
def execSeqOrder (s : State) : Result :=
  if !s.syn.smode && s.syn.baton == s.occ.a then
    match sget s.syn.stuck s.occ.a with
    | some since =>
      if decide (since + 2 ^ 16 ≤ s.cyc) && decide (pendingCount s 0 < 1024) then .next (frameless { s with syn := { s.syn with smode := true } } 0 causeSeqOrder 0x01 s.occ.a) else .next s
    | none => .next s
  else .next s

/-- An SC operation takes its place at its node (R158, R160). -/
def admitSc (s : State) (o : Op) : State :=
  if mayPerform s o && mayAdmit s o then { s with syn := { s.syn with admitted := s.syn.admitted ++ [o.id] } } else s

/-- MTSR's token, once the mode has changed. -/
def smodeToken (s : State) (id : Nat) : State :=
  match opById s id with
  | some o => emitOp (dropOp s id) o 13 (statusLanes o.w [0]) (fun h => h)
  | none => s

/-- SMODE_WRITE (R160): when every admitted operation is performed, the mode changes, the held operations are admitted in port order, and MTSR's
token is emitted. -/
def execSmodeWrite (s : State) : Result :=
  match s.syn.smodeNext with
  | some (m, id) =>
    if s.syn.admitted.isEmpty && (opById s id).elim true (fun o => emitFits s o (statusLanes o.w [0])) then
      .next (smodeToken (s.ops.foldl admitSc { s with syn := { s.syn with smode := m, smodeNext := none } }) id)
    else .next s
  | none => .next s

/-! Responses. -/

/-- The token lanes of a load or an atomic (R270, R278, R279). -/
def resultLanes (o : Op) : Lanes :=
  mkLanes (fun l => o.lanes.findSome? (fun x =>
    if x.lane == l then some (BitVec.ofNat 32 x.res)
    else if x.len == 8 && x.lane + 1 == l then some (BitVec.ofNat 32 (x.res / 2 ^ 32))
    else none))

/-- A finished operation's token leaves while the output buffer has room (R191). -/
def respond (s : State) (o : Op) (v : Lanes) : State :=
  if emitRoom s o v then emitOp (dropOp s o.id) o o.elem v (fun h => h) else s

def isLoad : OpKind → Bool
  | .ld _ => true
  | .ldch _ _ _ _ _ => true
  | _ => false

/-- A read whose response is still to come: a load, or a chain of which no node has returned. -/
def firstRead : OpKind → Bool
  | .ld _ => true
  | .ldch _ _ _ _ k => k == 0
  | _ => false

/-- An access that itself waits behind a faulting one of its stream (R34, R138). -/
def behindStopped (s : State) (p : Op) : Bool :=
  s.ops.any (fun q => stopped q && issuedBefore q p && sameStream q p && isAccess q.kind &&
    q.lanes.any (fun y => laneOpen q y && p.lanes.any (fun x => laneOpen p x && meets p q x y)))

/-- R48: the responses of a stream come back in issue order: an older read holds a younger one until its own response has left. Past a faulting
access, and what waits behind that one, younger loads may deliver (R34); one that has come back waits in its buffer for its block's commit or for an
entry of the output buffer without holding others (R177, R192). -/
def inOrder (s : State) (o : Op) : Bool :=
  !s.ops.any (fun p => sameStream p o && issuedBefore p o && firstRead p.kind && !stopped p && !behindStopped s p &&
    (p.phase != .done || p.tid == 0 && emitRoom s p (resultLanes p)))

/-- LOAD_RESPONSE_RETURN (R48, R141, R177, R270, R278): the token of a load, an atomic or another finished access of a committed block. -/
def execLoadResponseReturn (s : State) : Result :=
  match opById s s.occ.a with
  | none => .next s
  | some o =>
    if o.phase == .done && o.tid == 0 && o.elem != 14 && (!isLoad o.kind || inOrder s o) then
      match o.kind with
      | .ld _ => .next (respond s o (resultLanes o))
      | .amo _ => .next (respond s o (resultLanes o))
      | .cas _ => .next (respond s o (resultLanes o))
      | .amosc _ => .next (respond s o (resultLanes o))
      | .amof _ => .next (respond s o (resultLanes o))
      | .st _ _ => .next (respond s o o.a)
      | .sflush => .next (respond s o o.a)
      | .sinv => .next (respond s o o.a)
      | _ => .next s
    else .next s

/-- A part of a chain that has met a fault at a node (R272). -/
def chainFault (s : State) (o : Op) (k : OpKind) (ls : List Lane) : State :=
  match ls.head? with
  | none => s
  | some x =>
    let c := x.flt / 256
    addOp s { o with kind := k, n := issueNo o, phase := .failed, cause := c, detail := x.flt % 256, addr := if c = causeMemUe then x.res else vaNat x.va,
                     lanes := ls.map (fun (y : Lane) => { y with res := 0 }) }

/-- LDCH_NODE (R272): the token of a node leaves and the next node's addresses are formed; the chain keeps its place in issue order. -/
def execLdchNode (s : State) : Result :=
  match opById s s.occ.a with
  | none => .next s
  | some o =>
    match o.kind with
    | .ldch base sc count loff k =>
      if o.phase == .done && o.tid == 0 && (k != 0 || inOrder s o) && emitRoom s o (resultLanes o) then
        let good := o.lanes.filter (fun x => x.flt == 0)
        let on := good.filter (fun x => x.res != 0 && decide (k + 1 < count))
        let next := on.map (fun x =>
          let a : Word := BitVec.ofNat 32 x.res + loff.signExtend 32
          let va : Int := ((o.cx.bases.getD base 0).toNat : Int) + a.toInt * (4 ^ sc : Nat)
          { mkLane x.lane va 4 0 0 with flt := (vaCheck va 4 4).elim 0 (fun e => e.1 * 256 + e.2) })
        let go := next.filter (fun x => x.flt == 0)
        let s := if go.isEmpty then dropOp s o.id
          else setOp s { o with kind := .ldch base sc count loff (k + 1), phase := .queued, lanes := go }
        let s := emitOp s o o.elem (resultLanes { o with lanes := good }) (fun h => { h with seg := k, eor := go.isEmpty })
        let s := chainFault s o o.kind (o.lanes.filter (fun x => x.flt != 0))
        .next (chainFault s o (.ldch base sc count loff (k + 1)) (next.filter (fun x => x.flt != 0)))
      else .next s
    | _ => .next s

/-! WAIT and FENCE. -/

def countsLoad : OpKind → Bool
  | .ld _ => true
  | .ldch _ _ _ _ _ => true
  | .amo _ => true
  | .cas _ => true
  | .amosc _ => true
  | .amof _ => true
  | _ => false

def countsDray : OpKind → Bool
  | .dcopy _ _ => true
  | .dgath _ => true
  | .dscat _ => true
  | .dhop _ => true
  | .dbcst _ _ => true
  | .dred _ _ _ => true
  | _ => false

def countsMatrix : OpKind → Bool
  | .mma _ _ _ _ => true
  | .mzero => true
  | .mlda => true
  | .mdrn _ _ _ _ _ => true
  | .fold => true
  | .ffin => true
  | _ => false

/-- R263, R305: an operation that its class still counts: a load until its response returns, a store until it is at home, a matrix
operation until it is applied, a Dray command until its token leaves or its failure is raised. A fault ends the count. -/
def counted (p : Op) : Bool :=
  if isStore p.kind || countsMatrix p.kind then !stopped p && p.phase != .done
  else if countsDray p.kind then p.phase != .faulted
  else !stopped p

/-- R263: operations of a context on a tile that are not complete. -/
def outstanding (s : State) (tile c : Nat) (k : OpKind → Bool) : Nat :=
  (s.ops.filter (fun p => p.tile == tile && p.ctx == c && k p.kind && counted p)).length

def waitMet (s : State) (o : Op) (l st d m : Nat) : Bool :=
  decide (outstanding s o.tile o.ctx countsLoad ≤ l) && decide (outstanding s o.tile o.ctx isStore ≤ st) &&
    decide (outstanding s o.tile o.ctx countsDray ≤ d) && decide (outstanding s o.tile o.ctx countsMatrix ≤ m)

/-- WAIT_EMIT (R140, R263): with a store count of 0 the stash is written back first; WAITs of a context leave in release order. -/
def execWaitEmit (s : State) : Result :=
  match opById s s.occ.b with
  | none => .next s
  | some o =>
    match o.kind with
    | .wait l st d m =>
      let first := !s.ops.any (fun p => p.tile == o.tile && p.ctx == o.ctx && decide (p.id < o.id) &&
        (match p.kind with | .wait _ _ _ _ => true | _ => false))
      if first && o.tid == 0 then
        let s := if st = 0 then writeBackAll s o.tile else s
        if waitMet s o l st d m then .next (respond s o o.a) else .next s
      else .next s
    | _ => .next s

def isBroadcast : OpKind → Bool
  | .tbi => true
  | .shinv => true
  | .plbc => true
  | _ => false

/-- R155: the earlier operations that a fence of a scope still waits for: loads and atomics not performed, a chain until its last node, a PREF
(R136), stores, releases that have not entered their hitch's order, and broadcasts. -/
def fenceWaits (sc : Nat) (p : Op) : Bool :=
  countsLoad p.kind && (isChain p.kind || !(p.phase == .done)) || p.kind == .pref || isStore p.kind && !(p.phase == .done) && !(sc == 0 && p.phase == .absorbed) ||
    isStp p.kind || isHitchOp p.kind && releasePending p || sc == 3 && isBroadcast p.kind

/-- A broadcast of the context that still waits in a commit buffer of the tile. -/
def broadcastHeld (s : State) (o : Op) : Bool :=
  (upto 9).any (fun e => (peAt s o.tile e).held.any (fun x => match x with
    | .op p => p.ctx == o.ctx && isBroadcast p.kind
    | .emit _ _ _ => false))

/-- FENCE_RELEASE (R155). -/
def execFenceRelease (s : State) : Result :=
  match opById s s.occ.b with
  | none => .next s
  | some o =>
    match o.kind with
    | .fence sc =>
      if o.tid == 0 && !fenced s o then
        let s := if sc = 0 then s else writeBackAll s o.tile
        if s.ops.any (fun p => p.tile == o.tile && p.ctx == o.ctx && portBefore p o && fenceWaits sc p) || sc == 3 && broadcastHeld s o then .next s
        else .next (respond s o o.a)
      else .next s
    | _ => .next s

/-! Stores before a release (R147 step 1). -/

/-- Every earlier store of the context on the tile is acknowledged: absorbed, or performed at home. -/
def storesAcked (s : State) (o : Op) : Bool :=
  !s.ops.any (fun p => isStore p.kind && p.tile == o.tile && p.ctx == o.ctx && decide (p.id < o.id) && !(p.phase == .absorbed || p.phase == .done))

/-- Every earlier store is performed at home. -/
def storesHome (s : State) (o : Op) : Bool :=
  !s.ops.any (fun p => isStore p.kind && p.tile == o.tile && p.ctx == o.ctx && decide (p.id < o.id) && !(p.phase == .done))

/-- The tile's STPs and stores of the context that come before an operation are performed, and no GIVE before it waits: QPOST and QFREE
pass through the pen table in release order (R55, R153). -/
def penQuiet (s : State) (o : Op) : Bool :=
  !s.ops.any (fun p => p.tile == o.tile && p.tid == 0 && (isStp p.kind && p.ctx == o.ctx && stpHeld s p ||
    (match p.kind with | .give _ _ => !stopped p | _ => false)))

/-- GIVE_FLIP (R55, R153, R290, R329): after the release towards the engine, in release order on the tile, and once no TACC entry is
held for the pen, the pen flips; a pen that an engine owns already gives OWN_VIOL. -/
def execGiveFlip (s : State) : Result :=
  match opById s s.occ.a with
  | none => .next s
  | some o =>
    match o.kind with
    | .give n eng =>
      let first := !s.ops.any (fun p => p.tile == o.tile && decide (p.id < o.id) && !stopped p && (match p.kind with | .give _ _ => true | _ => false))
      let taccs := s.ops.any (fun p => p.tile == o.tile && p.tid == 0 && !stopped p && (match p.kind with | .tacc _ a => penOf a == n | _ => false))
      if o.phase == .queued && first && !taccs && storesAcked s o then
        let s := writeBackAll (drainStp s o.tile) o.tile
        if !storesHome s o || s.ops.any (fun p => p.tile == o.tile && p.ctx == o.ctx && isStp p.kind && p.tid == 0 && decide (p.id < o.id)) then .next s
        else
          match penAt s o.tile n with
          | none => .next (failOp s o causeOwnViol 0 (n * 2 ^ 22))
          | some p =>
            if p.own then .next (failOp s o causeOwnViol 0 (n * 2 ^ 22))
            else .next (setPen (dropOp s o.id) o.tile n { p with own := true, eng := eng })
      else .next s
    | _ => .next s

end Sys2Proof.Machine
end

