-- ==== Sys2Proof/Machine/Hitch.lean ====
section
/-! DEFINITION. Hitches at their engine and on the issuing tile, and barriers (R142 to R152, R156, R164, R282 to R289). -/

namespace Sys2Proof.Machine

def setHitch (s : State) (pa : Nat) (h : Hitch) : State := { s with syn := { s.syn with hitches := sset s.syn.hitches pa h } }

/-- R145: the head request's grant condition. -/
def mayGrant (h : Hitch) (k : HKind) : Bool := h.excl.isNone && (match k with | .x => h.shared.isEmpty | _ => true)

/-- R145: a grant. -/
def grantTo (h : Hitch) (k : HKind) (c : Nat) : Hitch :=
  let h := { h with gseq := h.gseq + 1 }
  match k with
  | .x => { h with excl := some c }
  | .s => { h with shared := h.shared ++ [c] }
  | .p => h

/-- The lanes of a grant token (R145, R283). -/
def grantLanes (w : Nat) (h : Hitch) (granted : Bool) : Lanes :=
  statusLanes w [(if h.abn then 1 else 0) + (if granted then 2 else 0), h.gseq]

/-- The operation has its answer, which travels to its tile (R146). -/
def answerOp (s : State) (id : Nat) (v : Lanes) (granted : Bool) : State :=
  match opById s id with
  | some o => setOp s { o with phase := .done, out := v, n := if granted then 1 else 2 }
  | none => s

/-- R145: the head is granted while its condition holds, then the next. -/
def grantFifo (pa : Nat) : Nat → State → State
  | 0, s => s
  | f + 1, s =>
    match sget s.syn.hitches pa with
    | none => s
    | some h =>
      match h.fifo with
      | [] => s
      | r :: rest =>
        if mayGrant h r.kind then
          let h := { grantTo h r.kind r.ctx with fifo := rest }
          grantFifo pa f (answerOp (setHitch s pa h) r.op (grantLanes (((opById s r.op).map (·.w)).getD 2) h true) true)
        else s

/-- The image that an inactive hitch leaves (R143): GSEQ and ABN. -/
def restImage (h : Hitch) : Nat := (if h.abn then 2 ^ 62 else 0) + h.gseq.toNat

/-- R143: a hitch without holders, requests and regions becomes inactive and its image is written back. -/
def deactivate (s : State) (pa : Nat) : State :=
  match sget s.syn.hitches pa with
  | none => s
  | some h =>
    if h.excl.isNone && h.shared.isEmpty && h.fifo.isEmpty && h.regions.isEmpty then
      homeWrite { s with syn := { s.syn with hitches := sdel s.syn.hitches pa } } h.enc pa 64 (restImage h)
    else s

/-- After any change of a hitch: grants, then deactivation. -/
def settleHitch (s : State) (pa : Nat) : State :=
  deactivate (grantFifo pa (((sget s.syn.hitches pa).map (fun h => h.fifo.length + 1)).getD 0) s) pa

/-- R142, R152 detail 0x01: normal memory of this package's DRAM rows. -/
def hitchPlace (p : Phys) : Bool := p.mt == 0 && (dramRow p.pa).isSome

/-- The image of a hitch that is not active is read, and its single-bit errors are corrected (R88, R143). -/
def readHitch (s : State) (p : Phys) : State := if (sget s.syn.hitches p.pa).isSome then s else correctAt s p.pa 64

/-- R143, R152: the active hitch of an address, activated if need be: 0x0B, then 0x09. -/
def activate (s : State) (p : Phys) (asid : Nat) : Except (Nat × Nat) (State × Hitch) :=
  match sget s.syn.hitches p.pa with
  | some h => .ok (s, h)
  | none =>
    match homeRead s p.enc p.pa 64 with
    | none => .error (causeMemUe, 0)
    | some v =>
      if v / 2 ^ 63 % 2 != 0 || bits v 48 14 != 0 || bits v 32 16 != 0 || v / 2 ^ 64 != 0 then .error (causeHitch, 0x0B)
      else if 4096 ≤ (s.syn.hitches.filter (fun x => controller s x.1 == controller s p.pa)).length then .error (causeHitch, 0x09)
      else
        let h : Hitch := { excl := none, shared := [], abn := bit v 62, gseq := BitVec.ofNat 32 v, asid := asid, enc := p.enc, fifo := [], regions := [] }
        .ok (setHitch s p.pa h, h)

def holds (h : Hitch) (c : Nat) : Bool := h.excl == some c || h.shared.contains c

/-- Waiting requests of the engine that holds an address (R145). -/
def engineWaits (s : State) (pa : Nat) : Nat :=
  (s.syn.hitches.filter (fun x => controller s x.1 == controller s pa)).foldl (fun n x => n + x.2.fifo.length) 0

/-- R143: an operation's fault; a hitch that its request alone made active rests again. -/
def hitchFault (s : State) (o : Op) (pa : Nat) (e : Nat × Nat) : State :=
  failOp (deactivate s pa) o e.1 e.2 (if e.1 = causeMemUe then pa else (o.lanes.head?.map (fun x => x.va.toNat)).getD 0)

/-- A request at the engine (R145, R151). One that finds the engine's pool of waiting requests full has made its hitch active all the same,
and stays at the engine's input: the model's choice (log entry 33). -/
def requestAt (s : State) (o : Op) (p : Phys) (k : HKind) (tryIt : Bool) : State :=
  if !hitchPlace p then hitchFault s o p.pa (causeHitch, 0x01)
  else
    let s := readHitch s p
    match activate s p o.cx.asid with
    | .error e => hitchFault s o p.pa e
    | .ok (s, h) =>
      if h.asid != o.cx.asid then hitchFault s o p.pa (causeHitch, 0x02)
      else if k != .p && holds h o.ctx then hitchFault s o p.pa (causeHitch, 0x04)
      else if tryIt then
        if h.fifo.isEmpty && mayGrant h k then
          let h := grantTo h k o.ctx
          settleHitch (answerOp (setHitch s p.pa h) o.id (grantLanes o.w h true) true) p.pa
        else settleHitch (answerOp s o.id (grantLanes o.w h false) false) p.pa
      else if 8192 ≤ engineWaits s p.pa then s
      else
        settleHitch (setOp (setHitch s p.pa { h with fifo := h.fifo ++ [{ op := o.id, ctx := o.ctx, kind := k }] }) { o with phase := .active }) p.pa

/-- The region's PA, or the first failing check of item 7 of R152. -/
def regionOf (x : Lane) : Except (Nat × Nat) (Nat × Nat) :=
  if x.va % 128 ≠ 0 ∨ 4096 < x.va.toNat % 4096 + x.len then .error (causeHitch, 0x05)
  else if x.flt != 0 then .error (x.flt / 256, x.flt % 256)
  else
    match x.phys with
    | none => .error (causePage, 0x02)
    | some p => if p.mt = 0 then .ok (p.pa, x.len) else .error (causeHitch, 0x05)

/-- The hitch of an HBIND, which makes it active, or of an HUNB, which must find it so (R150, R151). -/
def boundHitch (s : State) (o : Op) (p : Phys) (bind : Bool) : Except (Nat × Nat) (State × Hitch) :=
  if bind then activate s p o.cx.asid
  else
    match sget s.syn.hitches p.pa with
    | some h => .ok (s, h)
    | none => .error (causeHitch, 0x0A)

/-- HBIND and HUNB at the engine (R144, R152, R286). -/
def bindAt (s : State) (o : Op) (p : Phys) (x : Lane) (bind : Bool) : State :=
  if !hitchPlace p then hitchFault s o p.pa (causeHitch, 0x01)
  else
    let s := if bind then readHitch s p else s
    match boundHitch s o p bind with
    | .error e => hitchFault s o p.pa e
    | .ok (s, h) =>
      if h.asid != o.cx.asid then hitchFault s o p.pa (causeHitch, 0x02)
      else if h.excl != some o.ctx then hitchFault s o p.pa (causeHitch, 0x0A)
      else
        match regionOf x with
        | .error (c, d) => failOp s o c d (if c = causeHitch then ((o.lanes.head?.map (fun y => y.va.toNat)).getD 0) else x.va.toNat)
        | .ok r =>
          let reply (s : State) : State := leave s o
          if bind then
            let all := s.syn.hitches.foldr (fun y acc => y.2.regions ++ acc) []
            if all.any (fun q => decide (q.1 < r.1 + r.2) && decide (r.1 < q.1 + q.2)) then hitchFault s o p.pa (causeHitch, 0x06)
            else if 16 ≤ h.regions.length then hitchFault s o p.pa (causeHitch, 0x07)
            else if 16384 ≤ (all.filter (fun q => controller s q.1 == controller s r.1)).length then hitchFault s o p.pa (causeHitch, 0x09)
            else reply (setHitch s p.pa { h with regions := h.regions ++ [r] })
          else if h.regions.contains r then reply (settleHitch (setHitch s p.pa { h with regions := h.regions.filter (· != r) }) p.pa)
          else hitchFault s o p.pa (causeHitch, 0x08)

/-- HITCH_REQUEST_ARRIVAL (R143 to R145, R151, R152, R156, R164): a request, a binding, or the passing request of a barrier's or
SPAWN's acquire reaches the engine. -/
def execHitchRequestArrival (s : State) : Result :=
  match opById s s.occ.a with
  | none => .next s
  | some o =>
    if o.phase != .ready || o.tid != 0 || fenced s o then .next s
    else
      match o.kind, o.lanes with
      | .hreq k t, x :: _ => match x.phys with
        | some p => .next (requestAt s o p k t)
        | none => .next s
      | .hbind, x :: y :: _ => match x.phys with
        | some p => .next (bindAt s o p y true)
        | none => .next s
      | .hunb, x :: y :: _ => match x.phys with
        | some p => .next (bindAt s o p y false)
        | none => .next s
      | .bar true _, x :: _ => match x.phys with
        | some p => if o.n = 1 then .next (requestAt s o p .p false) else .next s
        | none => .next s
      | .spawn _ true, x :: _ => match x.phys with
        | some p => if o.n = 1 then .next (requestAt s o p .p false) else .next s
        | none => .next s
      | _, _ => .next s

/-- The regions of an active hitch. -/
def regionsAt (s : State) (pa : Nat) : List (Nat × Nat) := (sget s.syn.hitches pa).elim [] (·.regions)

/-- Step 3 of R147 for a hold. -/
def releaseHold (h : Hitch) (c : Nat) : Hitch :=
  if h.excl = some c then { h with excl := none, abn := false } else { h with shared := h.shared.erase c }

/-- R150: a hold that ends without a release. -/
def abandonHold (s : State) (pa c : Nat) : State :=
  match sget s.syn.hitches pa with
  | none => s
  | some h =>
    if holds h c then
      let h := if h.excl = some c then { h with excl := none } else { h with shared := h.shared.erase c }
      settleHitch (setHitch s pa { h with abn := true }) pa
    else s

/-- R150: every hold of a context ends. -/
def abandonAll (s : State) (c : Nat) : State := (s.syn.hitches.filter (fun x => holds x.2 c)).foldl (fun s x => abandonHold s x.1 c) s

/-- R150: waiting requests leave the FIFOs. -/
def removeRequests (s : State) (gone : HReq → Bool) : State :=
  let touched := s.syn.hitches.filter (fun x => x.2.fifo.any gone)
  touched.foldl (fun s x => match sget s.syn.hitches x.1 with
    | some h => settleHitch (setHitch s x.1 { h with fifo := h.fifo.filter (fun r => !gone r) }) x.1
    | none => s) s

/-- The checks of a release at the engine (R152): 0x01, 0x02 and, unless it is passing, 0x03. -/
def releaseFault (s : State) (o : Op) (p : Phys) (passing : Bool) : Option Nat :=
  if !hitchPlace p then some 0x01
  else
    match sget s.syn.hitches p.pa with
    | none => if passing then none else some 0x03
    | some h => if h.asid != o.cx.asid then some 0x02 else if passing || holds h o.ctx then none else some 0x03

/-- Steps 2 and 3 of R147 (R67): the dirty lines of the regions are written back, then the hold goes. -/
def releaseAt (s : State) (o : Op) (p : Phys) (passing : Bool) : State :=
  let s := writeBackIn s o.tile (regionsAt s p.pa)
  if passing then s
  else
    match sget s.syn.hitches p.pa with
    | some h => settleHitch (setHitch s p.pa (releaseHold h o.ctx)) p.pa
    | none => s

/-- HREL at the engine (R147, R157, R285): its stores are acknowledged; behind a faulting store it waits. Of one that EKILL has refused (`n` is
3) only the hold ends (R150). -/
def releaseArrives (s : State) (o : Op) (k : HKind) : State :=
  match o.lanes.head? with
  | some x =>
    match x.phys with
    | some p =>
      if o.phase == .ready && o.n == 3 then abandonHold (dropOp s o.id) p.pa o.ctx
      else if o.phase == .ready && !fenced s o && storesAcked s o then
        match releaseFault s o p (k == .p) with
        | some d => failOp s o causeHitch d x.va.toNat
        | none => leave (releaseAt s o p (k == .p)) o
      else s
    | none => s
  | none => s

/-! Barriers (R156, R288, R289). -/

/-- Launch tile number of an operation's frame. -/
def opTile (s : State) (o : Op) : Nat := ltileOf s o.tile o.rank

/-- Members of a barrier of a launch. -/
def barMembers (s : State) (q key : Nat) : List Nat :=
  match sget s.sch.launches q with
  | some l => (subgroup l (key % 2 ^ 16)).elim [] members
  | none => []

/-- Key of a barrier's generation count. -/
def barKey (q key : Nat) : Nat := q * 2 ^ 24 + key

/-- The lanes of an operation that are still to be performed lose their translations, which a shoot-down may have removed meanwhile (R38). -/
def retranslate (o : Op) : Op :=
  { o with lanes := o.lanes.map (fun (x : Lane) => if x.fin || isStore o.kind && x.res == 1 then x else { x with phys := none, rewalked := false }) }

/-- A member's part when the generation completes: its passing acquire is due, which is translated anew (R38), or its token. -/
def barDone (s : State) (gen : Nat) (id : Nat) : State :=
  match opById s id with
  | none => s
  | some o =>
    match o.kind with
    | .bar true _ => setOp s (retranslate { o with phase := .queued, n := 1, addr := gen })
    | _ => setOp s { o with phase := .done, addr := gen }

/-- The member arrives; the last arrival completes the generation. -/
def arrive (s : State) (o : Op) (key : Nat) : State :=
  let q := o.cx.q
  let same (m : Meeting) : Bool := m.q == q && m.key == key
  let old := (s.syn.bars.find? same).getD { q := q, key := key, gen := (sgetD s.syn.barGen (barKey q key) 0).toNat, arrived := [] }
  let m := { old with arrived := old.arrived ++ [(opTile s o, o.id)] }
  let s := setOp s { o with phase := .active }
  let rest := s.syn.bars.filter (fun x => !same x)
  if (barMembers s q key).all (fun t => m.arrived.any (·.1 == t)) then
    let s := { s with syn := { s.syn with bars := rest, barGen := sset s.syn.barGen (barKey q key) (BitVec.ofNat 32 (m.gen + 1)) } }
    m.arrived.foldl (fun s x => barDone s m.gen x.2) s
  else { s with syn := { s.syn with bars := rest ++ [m] } }

/-- A BAR that has not arrived. -/
def barWaits (p : Op) : Bool := p.tid == 0 && p.n == 0 && p.phase != .active && p.phase != .done

/-- R289: no BAR of the key that the tile released earlier is still to arrive, the tile has not arrived in the open generation, and the origin
has a key free or this one open. -/
def mayArrive (s : State) (o : Op) (key : Nat) : Bool :=
  !s.ops.any (fun p => decide (p.id < o.id) && p.tile == o.tile && p.rank == o.rank && p.cx.q == o.cx.q && barWaits p &&
    (match p.kind with | .bar _ k => k == key | _ => false)) &&
  match s.syn.bars.find? (fun m => m.q == o.cx.q && m.key == key) with
  | some m => !m.arrived.any (·.1 == opTile s o)
  | none => decide ((s.syn.bars.filter (fun m => m.q == o.cx.q && bits m.key 0 9 == bits key 0 9)).length < 16)

/-- BARRIER_ARRIVAL (R156, R289): with a hitch, the passing release comes first. -/
def execBarrierArrival (s : State) : Result :=
  match opById s s.occ.a with
  | none => .next s
  | some o =>
    match o.kind with
    | .bar h key =>
      if o.tid != 0 || fenced s o || !mayArrive s o key || o.n != 0 then .next s
      else if !h then (if o.phase == .queued then .next (arrive s o key) else .next s)
      else
        match o.lanes.head?.bind (·.phys) with
        | none => .next s
        | some p =>
          if o.phase == .ready && storesAcked s o then
            match releaseFault s o p true with
            | some d => .next (failOp s o causeHitch d ((o.lanes.head?.map (fun x => x.va.toNat)).getD 0))
            | none => .next (arrive (releaseAt s o p true) o key)
          else .next s
    | _ => .next s

end Sys2Proof.Machine
end

