-- ==== Sys2Proof/Machine/Contexts.lean ====
section
/-! DEFINITION. Contexts: CTXA, SPAWN, CTXF, LAUNCH, MTS, TRAP and BRK, what each does at its block's commit, and the return of a
context to the pool (R71, R164, R193 to R195, R256, R258 to R266, R371, R372, R385). -/

namespace Sys2Proof.Machine

/-- Words of 32 bits as one number, low first. -/
def ofWords (ws : List Word) : Nat := ws.foldr (fun w acc => w.toNat + 2 ^ 32 * acc) 0

/-- A field of a launch record (R386). -/
def Launch.field (l : Launch) (lo width : Nat) : Nat := bits (ofWords l.words) lo width

/-- MAXW (R194); 32 where no launch owns the context. -/
def maxW (s : State) (q : Nat) : Nat := (sget s.sch.launches q).elim 32 (fun l => l.field 354 6)

/-- The launch tiles of a launch with the physical tile and rank of each (R197, R198, R397). -/
def launchTiles (s : State) (q : Nat) : List (Nat × Nat × Nat) :=
  match sget s.sch.launches q with
  | none => []
  | some l =>
    (upto (l.ht * 16)).filterMap (fun n =>
      if n % 16 < l.wd then (placeTile s q n).map (fun p => (n, p.1, p.2)) else none)

/-- Key of a context's NXC and ASTAT copy on a tile at a rank. -/
def ctxKey (tile rank c : Nat) : Nat := (tile * 16 + rank) * 2 ^ 16 + c

/-- The lowest FREE context of a pool (R194). -/
def lowestFree (s : State) (q : Nat) : Option Nat :=
  match sget s.sch.launches q with
  | none => none
  | some l => ((upto (2 ^ l.plog2)).map (fun k => l.pool + k)).find? (fun c => (ctxOf s c).isNone)

/-- The window of a context is clear with LOW = ITER0 on every tile, and NXC and the ASTAT copies start (R71, R256, R258). -/
def openWindows (s : State) (c : Nat) (x : Ctx) : State :=
  (launchTiles s x.q).foldl (fun s t =>
    let s := setWindow s t.2.1 t.2.2 c { low := x.iter0, plan := x.plan, pos := [] }
    { s with isl := { s.isl with nxc := sset s.isl.nxc (ctxKey t.2.1 t.2.2 c) x.iter0 },
             astat := sdel s.astat (ctxKey t.2.1 t.2.2 c) }) s

/-- A reserved context becomes LIVE (R259). -/
def makeLive (s : State) (c : Nat) : State :=
  match ctxOf s c with
  | none => s
  | some x =>
    let x := { x with st := .live }
    openWindows { s with ctxs := sset s.ctxs c x } c x

/-! The parameter vector (R258). -/

/-- The context of a vector, or none where it breaks R258. `ws` are its lanes. -/
def vectorCtx (ws : Nat → Option Word) (old : Ctx) (maxw : Nat) (parent : Option (BitVec 32)) : Option Ctx :=
  match ws 0, ws 1, ws 2, ws 3, ws 4, ws 5 with
  | some w0, some w1, some w2, some w3, some w4, some w5 =>
    let mask := w5.toNat
    let need := (upto 8).all (fun k => !bit mask k || ((ws (8 + 2 * k)).isSome && (ws (9 + 2 * k)).isSome))
    let wreq := w0.toNat % 64
    if w0.toNat / 2 ^ 12 ≠ 0 || bits w0.toNat 6 2 ≠ 0 || w1.toNat / 2 ^ 16 ≠ 0 || w4.toNat / 2 ^ 20 ≠ 0 || mask / 2 ^ 8 ≠ 0 || !need ||
        wreq = 0 || 32 < wreq then none
    else
      let base (k : Nat) : BitVec 56 :=
        if bit mask k then BitVec.ofNat 56 (((ws (8 + 2 * k)).getD 0).toNat + ((ws (9 + 2 * k)).getD 0).toNat % 2 ^ 24 * 2 ^ 32)
        else old.bases.getD k 0
      some { old with st := .reserved, w := min wreq maxw, bases := (upto 8).map base, seq := BitVec.ofNat 20 w4.toNat,
                      seed := BitVec.ofNat 64 (w2.toNat + w3.toNat * 2 ^ 32), parent := parent, plan := bits w0.toNat 8 4, iter0 := w1.toNat }
  | _, _, _, _, _, _ => none

/-- The context that a CTXA or SPAWN asks for, or how its task ends (R194, R258). -/
def newContext (s : State) (τ : Task) (x : Lanes) (th : Bool) (parent : Option (BitVec 32)) : Body (Nat × Ctx) :=
  match vectorCtx (fun l => laneOf x l) τ.cx (maxW s τ.cx.q) parent with
  | none => stop causeBadSource 0
  | some c =>
    if (sget s.tab.fplans (s.occ.a * 16 + c.plan)).isNone then stop causeBadSource 0
    else
      match lowestFree s τ.cx.q with
      | some n => .ok (n, c)
      | none => if th then .error (.throttle false) else stop causeTagExhaust 0

/-- Reserves a context for a task. -/
def reserveCtx (s : State) (τ : Task) (n : Nat) (c : Ctx) : State × Task :=
  ({ s with ctxs := sset s.ctxs n c }, { τ with reserved := τ.reserved ++ [n] })

/-- CTXA (R259). -/
def execCtxa (a : Src) (th : Bool) (t : Target) (s : State) : Result :=
  runBody (fun s τ => do
    operands s τ [a] t
    let x := readSrc τ false a
    if predOk τ 0 && (laneOf x 0).isSome then do
      let (n, c) ← newContext s τ x th none
      let (s', τ) := reserveCtx s τ n c
      let τ := τ.enter (mkOp s τ (.ctxa n) none noLanes noLanes [])
      let τ' ← finish s' τ t (lanesOf [BitVec.ofNat 32 (n + (c.w - 1) * 2 ^ 16)])
      .ok (s', τ')
    else do
      let τ' ← finish s τ t noLanes
      .ok (s, τ')) s

/-- SPAWN (R260). -/
def execSpawn (a b : Src) (th hv : Bool) (t : Target) (s : State) : Result :=
  runBody (fun s τ => do
    check (srcOk τ a && srcOk τ b) causeBadSource
    let n ← needPort s τ t
    check ((portAt s n).elim false (fun p => p.top == 0)) causeBadTarget t.code
    let x := readSrc τ false a
    if predOk τ 0 && (laneOf x 0).isSome then do
      check (!hv || (laneOf x 6).isSome && (laneOf x 7).isSome) causeBadSource
      let (k, c) ← newContext s τ x th (some (BitVec.ofNat 32 (τ.ctx * 2 ^ 16 + τ.iter)))
      check (decide (c.w ≤ τ.w)) causeLaneMismatch
      let va := ((laneOf x 6).getD 0).toNat + ((laneOf x 7).getD 0).toNat % 2 ^ 24 * 2 ^ 32
      check (!hv || va % 64 == 0) causeAlign va
      let y := readSrc τ true b
      let arg := mkLanes (fun l => if l < c.w && predOk τ l then laneOf y l else none)
      let (s', τ) := reserveCtx s τ k c
      .ok (s', (τ.enter (mkOp s τ (.spawn k hv) (some n) arg noLanes (if hv then [mkLane 0 (va : Int) 64 0 0] else []))).advance 1)
    else .ok (s, τ.advance 1)) s

/-- SPAWN's steps 2 and 3 (R260): the child lives and its argument token leaves. -/
def spawnChild (s : State) (o : Op) (child : Nat) : State :=
  let s := makeLive s child
  match o.port, ctxOf s child with
  | some p, some x =>
    let m := underMask o o.a
    if anyLane m then
      addOut s o.tile o.elem { hdr := { o.hdr with ctx := child, iter := x.iter0, wm1 := x.w - 1, can := false }, lanes := m } p.dests
    else s
  | _, _ => s

/-- The argument token finds an entry of the output buffer: it stands at LOW of the child's window, so all 64 are open to it (R191, R192). -/
def spawnRoom (s : State) (o : Op) : Bool :=
  o.port.isNone || !anyLane (underMask o o.a) || decide ((s.net.outs.filter (fun e => e.tile == o.tile && e.elem == o.elem)).length < 64)

/-- After SPAWN's release: the child lives, and each destination tile makes its passing acquire (R164); `portNo` is its launch tile number, which
a move of the launch keeps (R417). -/
def spawnAfter (s : State) (o : Op) (child : Nat) : State :=
  let s := spawnChild (dropOp s o.id) o child
  let tiles := dedup (((o.port.elim [] (·.dests)).filter (fun d => (placeTile s o.cx.q d.tile).isSome)).map (·.tile))
  tiles.foldl (fun s t => addOp s { o with n := 1, phase := .ready, port := none, portNo := t }) s

/-- The tile on which a SPAWN's passing acquire is made. -/
def acquireTile (s : State) (o : Op) : Option Nat := (placeTile s o.cx.q o.portNo).map (·.1)

/-- A child's block fires on a tile only after the tile's acquire (R164). -/
def awaitsAcquire (s : State) (tile c : Nat) : Bool :=
  s.ops.any (fun o => match o.kind with
    | .spawn child true => child == c && (o.n == 0 || acquireTile s o == some tile)
    | _ => false)

/-- SPAWN with a hitch: its passing release at the engine (R147, R260); it is a HITCH_RELEASE_ARRIVAL. -/
def spawnRelease (s : State) (o : Op) (child : Nat) : State :=
  match o.lanes.head? with
  | some x =>
    match x.phys with
    | some p =>
      if o.phase == .ready && o.n == 0 && !fenced s o && storesAcked s o && spawnRoom s o then
        match releaseFault s o p true with
        | some d => failOp s o causeHitch d x.va.toNat
        | none => spawnAfter (releaseAt s o p true) o child
      else s
    | none => s
  | none => s

/-- HITCH_RELEASE_ARRIVAL (R147, R157, R164, R285). -/
def execHitchReleaseArrival (s : State) : Result :=
  match opById s s.occ.a with
  | none => .next s
  | some o =>
    if o.tid != 0 then .next s
    else
      match o.kind with
      | .hrel k => .next (releaseArrives s o k)
      | .spawn child true => .next (spawnRelease s o child)
      | _ => .next s

/-- HITCH_GRANT_ARRIVAL (R67, R146, R156, R164, R283, R284): a grant performs the acquire, then its token leaves, as that of any other finished
hitch operation or barrier. A refused try performs no acquire. -/
def execHitchGrantArrival (s : State) : Result :=
  match opById s s.occ.a with
  | none => .next s
  | some o =>
    if o.phase != .done || 384 ≤ o.tile then .next s
    else
      let pa := (o.lanes.head?.bind (·.phys)).elim 0 (·.pa)
      let acquired (tile : Nat) : State := cleanIn s tile (regionsAt s pa)
      match o.kind with
      | .hreq _ _ => .next (respond (if o.n = 1 then acquired o.tile else s) o o.out)
      | .bar h _ => .next (respond (if h then acquired o.tile else s) o (statusLanes o.w [BitVec.ofNat 32 o.addr]))
      | .spawn _ true => .next (dropOp ((acquireTile s o).elim s acquired) o.id)
      | .hrel _ => .next (respond s o o.a)
      | .hbind => .next (respond s o o.a)
      | .hunb => .next (respond s o o.a)
      | _ => .next s

/-! CTXF, LAUNCH, MTS, TRAP, BRK. -/

/-- CTXF (R261). -/
def execCtxf (a : Src) (self : Bool) (s : State) : Result :=
  runTask (fun s τ => do
    check (srcOk τ a) causeBadSource
    let enter (c : Nat) : Body Task := do
      check (liveIn s τ.cx.q c) causeBadSource
      .ok ((τ.enter (mkOp s τ (.ctxf c) none noLanes noLanes [])).advance 1)
    if self then (if (List.range 32).any (predOk τ) then enter τ.ctx else .ok (τ.advance 1))
    else
      match ← lane0 τ (readSrc τ false a) [] with
      | none => .ok (τ.advance 1)
      | some v => enter (v.toNat % 2 ^ 16)) s

/-- CTXF is performed when the earlier stores of its context on the tile are acknowledged (R193, R261). -/
def endContext (s : State) (o : Op) (c : Nat) : State :=
  if storesAcked s o then
    match ctxOf s c with
    | some x => { dropOp s o.id with ctxs := sset s.ctxs c { x with st := if x.st == .live then .ending else x.st } }
    | none => dropOp s o.id
  else s

/-- LAUNCH (R262). -/
def execLaunch (a : Src) (t : Target) (s : State) : Result :=
  runTask (fun s τ => do
    check (srcOk τ a) causeBadSource
    let n ← needPort s τ t
    let x := readSrc τ false a
    match ← lane0 τ x [] with
    | none => .ok (τ.advance 1)
    | some v =>
      match laneOf x 1 with
      | none => stop causeBadSource 0
      | some h =>
        .ok ((τ.enter (mkOp s τ .launch (some n) (lanesOf [v, h]) noLanes [])).advance 1)) s

/-- MTS (R266): a number the table gives as writable, else ILL_OP (R264). -/
def execMts (a : Src) (n : Nat) (s : State) : Result :=
  runTask (fun s τ => do
    check (mtsNumber n) causeIllOp
    check (srcOk τ a) causeBadSource
    match ← lane0 τ (readSrc τ false a) [] with
    | none => .ok (τ.advance 1)
    | some v => .ok ((τ.enter (mkOp s τ (.mts n v) none noLanes noLanes [])).advance 1)) s

/-- R264: the context record after a write. -/
def mtsCtx (x : Ctx) (n : Nat) (v : Word) : Ctx :=
  if n = 0x08 then { x with seq := BitVec.ofNat 20 v.toNat }
  else if n = 0x0C then { x with rmode := if v.toNat % 8 < 4 then BitVec.ofNat 3 v.toNat else 0 }
  else if n = 0x12 then { x with seed := BitVec.ofNat 64 (x.seed.toNat / 2 ^ 32 * 2 ^ 32 + v.toNat) }
  else if n = 0x13 then { x with seed := BitVec.ofNat 64 (x.seed.toNat % 2 ^ 32 + v.toNat * 2 ^ 32) }
  else if n = 0x14 then { x with uvec := v }
  else if n = 0x15 then { x with fmask := v }
  else
    let k := (n - 0x20) / 2
    let b := (x.bases.getD k 0).toNat
    let b' := if n % 2 = 0 then b / 2 ^ 32 * 2 ^ 32 + v.toNat else b % 2 ^ 32 + v.toNat % 2 ^ 24 * 2 ^ 32
    { x with bases := lset x.bases k (BitVec.ofNat 56 b') }

/-- MTS at commit (R266, R307): the context record, the ASTAT copies of every tile, or the tile's amax register. -/
def commitMts (s : State) (o : Op) (n : Nat) (v : Word) : State :=
  if 0x40 ≤ n then { s with isl := { s.isl with ax := sset s.isl.ax (o.tile * 16 + (n - 0x40)) v } }
  else if n = 0x0B then
    let keys := ctxKey o.tile o.rank o.ctx :: (launchTiles s o.cx.q).map (fun t => ctxKey t.2.1 t.2.2 o.ctx)
    { s with astat := keys.foldl (fun m k => sset m k (BitVec.ofNat 7 v.toNat)) s.astat }
  else { s with ctxs := smod s.ctxs o.ctx (fun x => mtsCtx x n v) }

/-- TRAP (R371). -/
def execTrap (a : Src) (code : Nat) (s : State) : Result :=
  runTask (fun s τ => do
    check (srcOk τ a) causeBadSource
    if predOk τ 0 then
      match laneOf (readSrc τ false a) 0 with
      | some v => .ok ((τ.enter (mkOp s τ (.trap code) none (lanesOf [v]) noLanes [])).advance 1)
      | none => .ok (τ.advance 1)
    else .ok (τ.advance 1)) s

/-- The task stands at the BRK that halted it, and has been resumed: that BRK has no effect (R372). -/
def brkPast (s : State) : Bool :=
  let k := s.occ.a * 9 + s.occ.b
  (sget s.flt.resumed k).isSome && (sget s.flt.halted k).isNone

/-- BRK (R372): it halts the context before itself, once; else it acts as TRAP. -/
def execBrk (code : Nat) (s : State) : Result :=
  match s.task? with
  | none => .fault .noTask
  | some τ =>
    if brkPast s then .next { (s.setTask (τ.advance 1)) with flt := { s.flt with resumed := sdel s.flt.resumed (s.occ.a * 9 + s.occ.b) } }
    else if !predOk τ 0 then .next (s.setTask (τ.advance 1))
    else if haltEnabled s τ.cx.asid then
      if haltRoom s τ.ctx then .next (haltContext s τ.ctx (some (s.occ.a, s.occ.b, code)))
      else .next s
    else .next (s.setTask ((τ.enter (mkOp s τ (.brk code) none noLanes noLanes [])).advance 1))

/-! The pool. -/

/-- Work of a context that keeps it ENDING (R193): frames, tasks and engine commands. -/
def isEngine (k : OpKind) : Bool :=
  countsDray k || countsMatrix k || (match k with
    | .etld => true
    | .reinld => true
    | .prbld => true
    | .tbi => true
    | .shinv => true
    | .plbc => true
    | _ => false)

def contextBusy (s : State) (c : Nat) (x : Ctx) : Bool :=
  s.ops.any (fun o => o.ctx == c && (isEngine o.kind && !stopped o || (match o.kind with | .ctxf _ => true | .spawn _ _ => true | _ => false))) ||
    s.pe.any (fun p => p.2.run.elim false (fun τ => τ.ctx == c && τ.kind == .frame) || p.2.held.any (fun e => match e with
      | .emit h _ _ => h.ctx == c
      | .op o => o.ctx == c)) ||
    (launchTiles s x.q).any (fun t => (windowOf s t.2.1 t.2.2 c).pos.any (fun p => p.2.lv || p.2.pk))

/-- R70, R71, R193: the context's windows are cleared on every tile. -/
def clearWindows (s : State) (c : Nat) (x : Ctx) : State :=
  (launchTiles s x.q).foldl (fun s t =>
    let p := planOf s t.2.1
    let k0 := slotKey s t.2.1 t.2.2 c 0 0
    { s with frm := { s.frm with windows := sdel s.frm.windows (winKey s t.2.1 t.2.2 c), slots := sdrop s.frm.slots k0 (2 ^ p.wlog2) } }) s

/-- The CTXFs of a context that wait for stores (R261). -/
def endings (s : State) (c : Nat) : List Op :=
  s.ops.filter (fun o => o.tid == 0 && (match o.kind with | .ctxf v => v == c | _ => false))

/-- CONTEXT_FREE (R150, R193, R194, R261): a CTXF whose earlier stores are acknowledged now is performed; an ENDING context with
nothing left becomes FREE. Its requests leave the engines' queues; a HACQ that has not reached its engine yet stays on its way, the model's choice (log
entry 72). -/
def execContextFree (s : State) : Result :=
  let c := s.occ.a
  let s := (endings s c).foldl (fun s o => endContext s o c) s
  match ctxOf s c with
  | some x =>
    if x.st == .ending && !contextBusy s c x && (sget s.sch.launches x.q).elim true Launch.placed then
      let s := removeRequests (abandonAll s c) (fun r => r.ctx == c)
      let s := { s with ops := s.ops.filter (fun o => !(o.ctx == c && o.phase == .active && (match o.kind with | .hreq _ _ => true | _ => false))) }
      let s := clearWindows s c x
      .next (requeueHead { s with ctxs := sdel s.ctxs c } x.q)
    else .next s
  | none => .next s

/-! Clocks and P2 (R452, R453). -/

/-- The tiles of a quadrant. -/
def quadTiles (quad : Nat) : List Nat := (upto 384).filter (fun t => quadOf t == quad)

/-- Nothing of a tile runs or waits to run. -/
def tileResting (s : State) (tile : Nat) : Bool :=
  !s.frm.ready.any (·.tile == tile) && (upto 9).all (fun e => (peAt s tile e).run.isNone)

def gate1 (s : State) (tile v : Nat) : State := { s with dev := { s.dev with gated := sset s.dev.gated tile v } }
def ungate (s : State) (tile : Nat) : State := { s with dev := { s.dev with gated := sdel s.dev.gated tile } }

/-- A write of PWR.QREQ (R452); 3 is written as 0. P1 gates the tiles that rest; P2 waits until the quadrant is quiet. -/
def setQreq (s : State) (quad v : Nat) : State :=
  let v := if v = 3 then 0 else v
  let s := { s with dev := { s.dev with qreq := sset s.dev.qreq quad v, qcur := if v = 2 then s.dev.qcur else sset s.dev.qcur quad v } }
  let plain (s : State) (t : Nat) : State := if sget s.dev.gated t = some 0 then ungate s t else s
  if v = 1 then (quadTiles quad).foldl (fun s t => if tileResting s t && (sget s.dev.gated t).isNone then gate1 s t 0 else s) s
  else if v = 0 then (quadTiles quad).foldl plain s
  else s

/-- An access to a quadrant in P2 returns it to P0 before it proceeds (R453). -/
def wakeQuad (s : State) (quad : Nat) : State := if sgetD s.dev.qcur quad 0 = 2 then setQreq s quad 0 else s

end Sys2Proof.Machine
end

