-- ==== Sys2Proof/Machine/Bales.lean ====
section
/-! DEFINITION. Bales: the sequence table and directory, the bale translation buffers, placement, the checks of R102 and a bale's
storage (R91 to R106). The tables are read at home in domain 0 (log entry 20). -/

namespace Sys2Proof.Machine

/-- Reads a table at home (R88, R89), or the PA of the error. -/
def tableWord (s : State) (pa n : Nat) : State × Except Nat Nat := (correctAt s pa n, (homeRead s 0 pa n).elim (.error pa) .ok)

/-- R94, R95: the sequence entry, 0 at or above SEQTN. -/
def seqEntry (s : State) (seq : Nat) : State × Except Nat Nat :=
  if s.dev.seqtn.toNat ≤ seq then (s, .ok 0) else tableWord s (s.dev.seqtb.toNat * 4096 + seq * 32) 32

/-- An entry that is valid, with no reserved bit set and KVFMT 0x1 to 0x4 (R94, R117). -/
def seqValid (e : Nat) : Bool := bit e 0 && decide (1 ≤ bits e 96 4) && decide (bits e 96 4 ≤ 4) && bits e 192 14 == 0 && bits e 128 8 == 0 && bits e 64 19 == 0 && bits e 1 12 == 0

/-- R94: head dimension, element size, layer-heads, and bytes and units of a bale (R92). -/
def seqDh (e : Nat) : Nat := (bits e 92 4 + 1) * 16
def seqEs (e : Nat) : Nat := if bits e 96 4 ≤ 2 then 2 else 1
def seqNlh (e : Nat) : Nat := bits e 100 12 + 1
def baleBytes (e : Nat) : Nat := 128 * seqDh e * seqEs e
def baleUnits (e : Nat) : Nat := (baleBytes e + 16383) / 16384

/-- The bale entry at home (R96, R97): its PA and contents, 0 where the root pointer is invalid. -/
def baleEntryAt (s : State) (e lh bidx : Nat) : State × Except Nat (Nat × Nat) :=
  if !bit e 0 || seqNlh e ≤ lh then (s, .ok (0, 0))
  else
    match tableWord s (bits e 13 39 * 8192 + lh * 8192 + bidx / 1024 * 8) 8 with
    | (s, .error pa) => (s, .error pa)
    | (s, .ok ptr) =>
      if !bit ptr 0 then (s, .ok (0, 0))
      else
        let a := bits ptr 14 38 * 16384 + bidx % 1024 * 16
        match tableWord s a 16 with
        | (s, .error pa) => (s, .error pa)
        | (s, .ok v) => (s, .ok (a, v))

/-! The bale translation buffer (R99, R100). -/

def sameBale (x : BaleEntry) (tile seq lh bidx : Nat) : Bool := x.tile == tile && x.seq == seq && x.lh == lh && x.bidx == bidx

/-- What a lookup gives at once. -/
inductive Looked where
  | entry (e : BaleEntry)
  | wait
  | bad (pa : Nat)

/-- Waiters of a lookup that still exist. -/
def liveWaiters (s : State) (m : BaleMiss) : List Nat := m.waiters.filter (fun id => (opById s id).isSome)

def setMissing (s : State) (f : List BaleMiss → List BaleMiss) : State := { s with bal := { s.bal with missing := f s.bal.missing } }

/-- An outstanding lookup of an operation's bale: the operation joins it, or takes its reads' error, which goes to every one that waits
(R89, R99). A failed lookup is gone with the last of them. -/
def joinBale (s : State) (m : BaleMiss) (id : Nat) : State × Looked :=
  let upd (ws : List Nat) (s : State) : State := setMissing s (fun l => l.map (fun x => if x == m then { x with waiters := ws } else x))
  match m.bad with
  | none => (upd (if m.waiters.contains id then m.waiters else m.waiters ++ [id]) s, .wait)
  | some pa =>
    let left := (liveWaiters s m).filter (· != id)
    let s := if left.isEmpty then setMissing s (fun l => l.filter (· != m)) else upd left s
    (s, if m.waiters.contains id then .bad pa else .wait)

/-- An operation's lookup: a hit, or a miss that is or becomes outstanding (at most 8 per tile). -/
def lookBale (s : State) (id tile seq lh bidx : Nat) : State × Looked :=
  match s.bal.buf.find? (fun x => sameBale x tile seq lh bidx) with
  | some e => ({ s with bal := { s.bal with buf := e :: s.bal.buf.erase e } }, .entry e)
  | none =>
    match s.bal.missing.find? (fun m => m.tile == tile && m.seq == seq && m.lh == lh && m.bidx == bidx) with
    | some m => joinBale s m id
    | none =>
      if (s.bal.missing.filter (·.tile == tile)).length < 8 then
        (setMissing s (fun l => l ++ [{ tile := tile, seq := seq, lh := lh, bidx := bidx, bad := none, waiters := [id] }]), .wait)
      else (s, .wait)

/-- Installs an entry; a set of four ways keeps the newest. -/
def installBale (s : State) (e : BaleEntry) : State :=
  let other := s.bal.buf.filter (fun x => !sameBale x e.tile e.seq e.lh e.bidx)
  let inSet (x : BaleEntry) : Bool := x.tile == e.tile && x.bidx % 32 == e.bidx % 32
  { s with bal := { s.bal with buf := e :: (other.filter inSet).take 3 ++ other.filter (fun x => !inSet x) } }

/-- The three reads of a miss (R99). They fall in one turn, which is the model's choice (log entry 10). -/
def readBale (s : State) (tile seq lh bidx : Nat) : State × Except Nat BaleEntry :=
  match seqEntry s seq with
  | (s, .error pa) => (s, .error pa)
  | (s, .ok e) =>
    match baleEntryAt s e lh bidx with
    | (s, .error pa) => (s, .error pa)
    | (s, .ok x) => (s, .ok { tile := tile, seq := seq, lh := lh, bidx := bidx, entry := x.2, addr := x.1, sent := e })

/-- BALE_LOOKUP (R99): the n-th outstanding miss of a tile is read at home. -/
def execBaleLookup (s : State) : Result :=
  match (s.bal.missing.filter (fun m => m.tile == s.occ.a && m.bad.isNone))[s.occ.b]? with
  | none => .next s
  | some m =>
    match readBale s m.tile m.seq m.lh m.bidx with
    | (s, .ok e) => .next (installBale (setMissing s (fun l => l.filter (· != m))) e)
    | (s, .error pa) => .next (setMissing s (fun l => l.map (fun x => if x == m then { x with bad := some pa } else x)))

/-- FILL of an entry (R97). -/
def baleFill (entry : Nat) : Nat := bits entry 10 7

/-- FILL, DIRTY and APD, the fields that hardware changes (R97). -/
def liveFields : Nat := 0x1FD40

/-- A buffered entry with the hardware's fields of a low word read at home. -/
def withLow (entry low : Nat) : Nat := entry - (entry &&& liveFields) + (low &&& liveFields)

/-- The entry with which a fold decides: the buffered one, with FILL as it stands at home where the buffered FILL does not suffice. Every
other field stays as buffered until SHINV (R100). The read takes the low 8 bytes of the entry, where FILL stands: the model's choice (log
entry 69). -/
def freshFill (s : State) (x : BaleEntry) (need : Nat) : State × Except Nat BaleEntry :=
  if need ≤ baleFill x.entry then (s, .ok x)
  else
    match tableWord s x.addr 8 with
    | (s, .error pa) => (s, .error pa)
    | (s, .ok low) => (s, .ok { x with entry := withLow x.entry low })

/-! Placement (R103, R104). -/

/-- The ring list of a sequence entry (R94). -/
def ringList (s : State) (e : Nat) : State × Except Nat (List Nat) :=
  match tableWord s (bits e 216 40 * 4096) ((bits e 206 10 + 1) * 2) with
  | (s, .error pa) => (s, .error pa)
  | (s, .ok v) => (s, .ok ((upto (bits e 206 10 + 1)).map (fun k => bits v (16 * k) 10)))

/-- What placement gives for a group: a package, nothing, an unreachable home, or an error. -/
inductive Placed where
  | pkg (n : Nat)
  | absent
  | link
  | bad (pa : Nat)
  deriving DecidableEq, Repr

/-- Caches a valid placement with the sequence's PGEN. Only PLBC removes cached entries, so a cache of 4,096 entries takes no other one
(R104, log entry 13). -/
def cachePlace (s : State) (e seq g pkg : Nat) : State :=
  if s.bal.place.length < 4096 then
    let gen := match sget s.bal.pgen seq with
      | some _ => s.bal.pgen
      | none => sset s.bal.pgen seq (bits e 136 16)
    { s with bal := { s.bal with place := sset s.bal.place (seq * 2 ^ 16 + g) pkg, pgen := gen } }
  else s

/-- The cached package of a group, or the home copy, of which a valid entry is cached (R104). A home that is another package cannot be
reached (log entry 1). -/
def resolvePlace (s : State) (e seq g : Nat) : State × Placed :=
  match sget s.bal.place (seq * 2 ^ 16 + g) with
  | some p => (s, .pkg p)
  | none =>
    match ringList s e with
    | (s, .error pa) => (s, .bad pa)
    | (s, .ok ring) =>
      if ring.head? ≠ some s.dev.pkgid.toNat then (s, .link)
      else
        match tableWord s (bits e 152 40 * 4096 + g * 2) 2 with
        | (s, .error pa) => (s, .bad pa)
        | (s, .ok v) => if !bit v 15 then (s, .absent) else (cachePlace s e seq g (bits v 0 10), .pkg (bits v 0 10))

/-! The checks of R102. -/

/-- Details 0x01 to 0x04: the sequence, its launch and the entry. -/
def seqRefusal (x : BaleEntry) (asid q : Nat) : Option Nat :=
  let e := x.sent
  if !seqValid e then some 0x01
  else if bits e 112 16 ≠ asid then some 0x02
  else if !bit e 83 || bits e 52 12 ≠ q then some 0x10
  else if seqNlh e ≤ x.lh then some 0x03
  else if bits x.entry 62 2 = 0 then some 0x04
  else none

/-- Detail 0x09. -/
def holderRefusal (s : State) (x : BaleEntry) : Option Nat :=
  if bits x.entry 62 2 = 3 || bits x.entry 52 10 ≠ s.dev.pkgid.toNat then some 0x09 else none

/-- Detail 0x0A, by the group's placement and the ring list. -/
def placeRefusal (s : State) (p : Placed) (ring : List Nat) : Option Nat :=
  match p with
  | .pkg n => if n = s.dev.pkgid.toNat && ring.contains n then none else some 0x0A
  | _ => some 0x0A

/-- Detail 0x0E: where the bale's storage may not lie (R102). A loft ADDR whose tile number is no tile's names no loft and is refused here, the
model's choice (log entry 71). -/
def storageRefusal (s : State) (x : BaleEntry) : Option Nat :=
  let a := bits x.entry 17 26
  if bits x.entry 62 2 = 1 then
    (if a / 1024 < 384 ∧ a % 1024 + baleUnits x.sent ≤ (planOf s (a / 1024)).loft * 64 then none else some 0x0E)
  else if dramPresent s (a * 16384) && dramPresent s ((a + baleUnits x.sent) * 16384 - 1) then none
  else some 0x0E

/-! Lofts (R105, R111). -/

/-- A number as home holds it, 0 where a word is in error: what the firmware's tables say, looked at without an access. -/
def homePeek (s : State) (pa n : Nat) : Nat := (homeRead s 0 pa n).getD 0

/-- The bale entries of a directory page that stand in a tile's loft. -/
def pageLofts (s : State) (tile page : Nat) : Bool :=
  (upto 1024).any (fun k =>
    let e := homePeek s (page + 16 * k) 16
    bits e 62 2 == 1 && bits e 52 10 == s.dev.pkgid.toNat && bits e 27 9 == tile)

/-- R94, R96, R97: some bale of a sequence of the package stands in a tile's loft: the firmware has not evicted it (R111, R394). -/
def loftHeld (s : State) (tile : Nat) : Bool :=
  (planOf s tile).loft != 0 && (upto s.dev.seqtn.toNat).any (fun n =>
    let e := homePeek s (s.dev.seqtb.toNat * 4096 + n * 32) 32
    bit e 0 && (upto (seqNlh e)).any (fun lh => (upto 1024).any (fun k =>
      let ptr := homePeek s (bits e 13 39 * 8192 + lh * 8192 + k * 8) 8
      bit ptr 0 && pageLofts s tile (bits ptr 14 38 * 16384))))

/-! A bale's storage (R93). -/

/-- Reads bytes of a bale, single-bit errors corrected (R82, R88); `none` for an uncorrectable error. -/
def baleRead (s : State) (x : BaleEntry) (off n : Nat) : State × Option Nat :=
  let a := bits x.entry 17 26
  let at_ := a / 1024 * 2 ^ 24 + a % 1024 * 16384 + off
  if bits x.entry 62 2 = 1 then (fixSram s at_ n, sramRead s at_ n)
  else readHome s (bits x.sent 84 8) (a * 16384 + off) n

def baleWrite (s : State) (x : BaleEntry) (off n v : Nat) : State :=
  let a := bits x.entry 17 26
  if bits x.entry 62 2 = 1 then sramWrite s (a / 1024 * 2 ^ 24 + a % 1024 * 16384 + off) n v
  else homeWrite s (bits x.sent 84 8) (a * 16384 + off) n v

end Sys2Proof.Machine
end

