-- ==== Sys2Proof/Machine/Dray.lean ====
section
/-! DEFINITION. The Dray: its commands at issue, their channels, transfers, remote writes, collectives and appends (R45, R54, R55,
R60, R67, R101, R102, R296 to R305). -/

namespace Sys2Proof.Machine

/-! Commands at issue (R297, R298). -/

/-- Lanes 0 to 7 of a parameter vector. -/
def drayWords (v : Lanes) : List Nat := (upto 8).map (fun l => ((laneOf v l).getD 0).toNat)

def paramAt (o : Op) (l : Nat) : Nat := ((laneOf o.a l).getD 0).toNat

/-- Bits of lane 4 for a destination tile, for its trough, and for LVL. -/
def maskTile : Nat := 2 ^ 20 - 1
def maskTrough : Nat := 63 * 2 ^ 20
def maskLvl : Nat := 3 * 2 ^ 26
def maskAll : Nat := 2 ^ 32 - 1

/-- What a command uses of its parameter vector: a mask per lane from lane 0, whether lane 3 is a length, whether a destination tile
is named, whether lane 5 is a subgroup of the issuing tile, and the bytes of LPEN checked at issue. -/
structure DrayForm where
  masks : List Nat
  len : Bool
  dest : Bool
  group : Bool
  reach : Nat → Nat → Nat

/-- R298 step 2: no unused bit is set; DPKG is unused where RMT is 0; a length is a multiple of 4 from 4 to 4 MiB. -/
def fieldsOk (f : DrayForm) (ws : List Nat) : Bool :=
  (upto 8).all (fun l => ws.getD l 0 &&& f.masks.getD l 0 == ws.getD l 0) &&
    (!f.dest || bit (ws.getD 4 0) 19 || bits (ws.getD 4 0) 9 10 == 0) &&
    (!f.len || ws.getD 3 0 % 4 == 0 && decide (4 ≤ ws.getD 3 0) && decide (ws.getD 3 0 ≤ 2 ^ 22))

/-- R298 step 5: a launch tile number of the full-size image. -/
def dtileOk (s : State) (q n : Nat) : Bool := (sget s.sch.launches q).elim false (fun l => decide (n % 16 < l.wd) && decide (n / 16 < l.ht))

/-- Every Dray command as it issues (R298). `idx` is the index operand of DGATH and DSCAT, `rows` are the lanes read from it. -/
def drayBody (k : OpKind) (ch : Nat) (f : DrayForm) (a : Src) (idx : List Src) (rows : Task → List Nat → List Lane) (t : Target) (s : State)
    (τ : Task) :
    Body Task := do
  check (srcOk τ a) causeBadSource
  let n ← needPort s τ t
  let v := readSrc τ false a
  if !anyExec τ (v :: idx.map (readSrc τ true)) then .ok (τ.advance 1)
  else do
    check (decide (8 ≤ τ.w) && (upto 8).all (fun l => (laneOf v l).isSome)) causeBadSource
    let ws := drayWords v
    let lpen := ws.getD 0 0
    check (fieldsOk f ws) causeBadSource
    penGuard (penReach s s.occ.a τ.cx.asid (penOf lpen) (offOf lpen) (f.reach τ.w (ws.getD 3 0))) lpen
    check (givenTo τ (penOf lpen) (ch + 1)) causeOwnViol lpen
    check (!f.dest || bit (ws.getD 4 0) 19 || dtileOk s τ.cx.q (ws.getD 4 0 % 512)) causeBadSource
    check (!f.group || (ownGroup s τ (ws.getD 5 0 % 2 ^ 16)).isSome) causeBadSource
    let v := mkLanes (fun l => if l < τ.w then laneOf v l else none)
    .ok (((τ.consume (penOf lpen) (ch + 1)).enter (mkOp s τ k (some n) v noLanes (rows τ ws))).advance 1)

/-- VA of a parameter vector (R297). -/
def paramVa (ws : List Nat) : Nat := ws.getD 1 0 + ws.getD 2 0 % 2 ^ 24 * 2 ^ 32

/-- The one range of a DCOPY between global memory and LPEN; `data` is the offset in the pen. -/
def copyRange (_ : Task) (ws : List Nat) : List Lane := [mkLane 0 (paramVa ws : Nat) (ws.getD 3 0) (offOf (ws.getD 0 0)) 0]

def noRange (_ : Task) (_ : List Nat) : List Lane := []

def lenReach (_ len : Nat) : Nat := len

def globalForm : DrayForm :=
  { masks := [maskAll, maskAll, 2 ^ 24 - 1, maskAll], len := true, dest := false, group := false, reach := lenReach }

def execDcopyG2p (a : Src) (ch : Nat) (t : Target) (s : State) : Result :=
  runTask (drayBody (.dcopy 0 ch) ch globalForm a [] copyRange t) s
def execDcopyP2g (a : Src) (ch : Nat) (t : Target) (s : State) : Result :=
  runTask (drayBody (.dcopy 1 ch) ch globalForm a [] copyRange t) s
def execDcopyP2p (a : Src) (ch : Nat) (t : Target) (s : State) : Result :=
  runTask (drayBody (.dcopy 2 ch) ch
    { masks := [maskAll, maskAll, 0, maskAll, maskTile], len := true, dest := true, group := false, reach := lenReach } a [] noRange t) s
def execDcopyP2t (a : Src) (ch : Nat) (t : Target) (s : State) : Result :=
  runTask (drayBody (.dcopy 3 ch) ch
    { masks := [maskAll, 0, 0, maskAll, maskTile + maskTrough], len := true, dest := true, group := false, reach := lenReach } a [] noRange t) s
def execDcopyApp (a : Src) (ch : Nat) (t : Target) (s : State) : Result :=
  runTask (drayBody (.dcopy 4 ch) ch
    { masks := [maskAll, 2 ^ 20 - 1, 2 ^ 12 - 1, 2 ^ 26 - 1, 0, maskAll, maskAll], len := false, dest := false, group := false,
      reach := fun _ _ => 4 } a [] noRange t) s

/-- R301: the rows of DGATH and DSCAT, one per executed lane of the index operand. -/
def rowRanges (b : Src) (τ : Task) (ws : List Nat) : List Lane :=
  (execLanes τ (readSrc τ true b)).map (fun x =>
    mkLane x.1 ((paramVa ws : Nat) + x.2.toInt * (ws.getD 5 0 : Nat)) (ws.getD 3 0) (offOf (ws.getD 0 0) + x.1 * ws.getD 3 0) 0)

def rowForm : DrayForm :=
  { masks := [maskAll, maskAll, 2 ^ 24 - 1, maskAll, 0, maskAll], len := true, dest := false, group := false, reach := fun w len => w * len }

/-- The second source of DGATH and DSCAT is checked with the first (R212). -/
def rowBody (k : OpKind) (ch : Nat) (a b : Src) (t : Target) (s : State) (τ : Task) : Body Task := do
  check (srcOk τ a && srcOk τ b) causeBadSource
  drayBody k ch rowForm a [b] (rowRanges b) t s τ

def execDgath (a b : Src) (ch : Nat) (t : Target) (s : State) : Result := runTask (rowBody (.dgath ch) ch a b t) s
def execDscat (a b : Src) (ch : Nat) (t : Target) (s : State) : Result := runTask (rowBody (.dscat ch) ch a b t) s
def execDhop (a : Src) (ch : Nat) (t : Target) (s : State) : Result :=
  runTask (drayBody (.dhop ch) ch
    { masks := [maskAll, 0, 0, maskAll, maskTile + maskTrough + maskLvl], len := true, dest := true, group := false, reach := lenReach }
    a [] noRange t) s
def execDbcst (a : Src) (ch : Nat) (tm : Bool) (t : Target) (s : State) : Result :=
  runTask (drayBody (.dbcst ch tm) ch
    { masks := [maskAll, if tm then 0 else maskAll, 0, maskAll, if tm then maskTrough else 0, 2 ^ 24 - 1], len := true, dest := false,
      group := true, reach := lenReach } a [] noRange t) s
def execDred (a : Src) (ch : Nat) (o : DredOp) (i32 : Bool) (t : Target) (s : State) : Result :=
  runTask (drayBody (.dred ch o i32) ch
    { masks := [maskAll, 0, 0, maskAll, 0, 2 ^ 24 - 1], len := true, dest := false, group := true, reach := lenReach } a [] noRange t) s

/-! Channels (R45, R299). -/

/-- The channel of a command. -/
def chanOf : OpKind → Option Nat
  | .dcopy _ ch => some ch
  | .dgath ch => some ch
  | .dscat ch => some ch
  | .dhop ch => some ch
  | .dbcst ch _ => some ch
  | .dred ch _ _ => some ch
  | _ => none

def channel (s : State) (tile ch : Nat) : List Op := s.ops.filter (fun o => o.tile == tile && chanOf o.kind == some ch && o.tid == 0)

/-- The commands that a channel holds, of 16. -/
def channelLoad (s : State) (tile ch : Nat) : Nat := ((channel s tile ch).filter (fun o => o.phase != .faulted)).length

/-- The GIVE of a command's pen that is not yet performed: the block's own before it, or a replay's (`n` not 0, R341). -/
def giveOf (s : State) (o : Op) (pen : Nat) : Option Op :=
  s.ops.find? (fun p => sameBlock p o && (decide (p.id < o.id) || p.n != 0) && (match p.kind with | .give n _ => n == pen | _ => false))

def lpen (o : Op) : Nat := penOf (paramAt o 0)

/-- The command a channel takes next: the first queued one whose GIVE has not failed, once that GIVE is performed. -/
def channelHead (s : State) (tile ch : Nat) : Option Op :=
  if (channel s tile ch).any (fun o => o.phase == .active || o.phase == .done || o.phase == .failed) then none
  else
    match (channel s tile ch).find? (fun o => o.phase == .queued && !((giveOf s o (lpen o)).elim false stopped)) with
    | some o => if (giveOf s o (lpen o)).isNone then some o else none
    | none => none

/-! Transfers between global memory and a pen (R300, R301). -/

/-- ENGINE detail of a translation's cause (R299). -/
def engineDetail (c : Nat) : Nat := if c = causePage then 0x0A else if c = causeLink then 0x19 else if c = causeMemUe then 0x11 else 0x0B

/-- The parts of a range in pages of 64 KiB. -/
def pageParts (x : Lane) : List Lane :=
  let p0 := x.va / (2 ^ 16 : Nat)
  (upto (x.len / 2 ^ 16 + 2)).filterMap (fun (k : Nat) =>
    let lo := if k = 0 then x.va else (p0 + (k : Int)) * (2 ^ 16 : Nat)
    let hi := min (x.va + (x.len : Int)) ((p0 + (k : Int) + 1) * (2 ^ 16 : Nat))
    if lo < hi then some { x with va := lo, len := (hi - lo).toNat, data := x.data + (lo - x.va).toNat } else none)

/-- The package's own id, where it has one (R447: without IDV it takes no MRL traffic). -/
def ownPackage (s : State) (n : Nat) : Bool := s.dev.idv && n == s.dev.pkgid.toNat

/-- R13: a remote address that names this package's own id is local: outside its DRAM rows it fails with LINK, where its row is absent with
ACCESS (R12). Another package cannot be reached (log entry 1). -/
def ownRemote (s : State) (p : Phys) : Except Nat Phys :=
  let a := p.pa % 2 ^ 41
  if !isRemote p.pa then .ok p
  else if !ownPackage s (bits p.pa 41 10) || (dramRow a).isNone then .error 0x19
  else if dramPresent s a then .ok { p with pa := a }
  else .error 0x0B

/-- R54: LPEN is its channel's. -/
def ownsLpen (s : State) (o : Op) : Bool :=
  (penAt s o.tile (lpen o)).elim false (fun p => p.own && some (p.eng - 1) == chanOf o.kind && p.eng != 0)

/-- One part moved at its PA: the state and the PA used, or ENGINE's detail and the failing address. -/
def moveAt (s : State) (o : Op) (x : Lane) (p : Phys) : State × Except (Nat × Nat) Phys :=
  let a := penByte s o.tile (lpen o) x.data
  if !ownsLpen s o then (s, .error (0x0D, paramAt o 0))
  else if isWrite o.kind then
    let s := fixSram s a x.len
    match sramRead s a x.len with
    | none => (s, .error (0x11, lpen o * 2 ^ 22 + x.data))
    | some v => (homeWrite s p.enc p.pa x.len v, .ok p)
  else
    match readHome s p.enc p.pa x.len with
    | (s, none) => (s, .error (0x11, p.pa))
    | (s, some v) => (sramWrite s a x.len v, .ok p)

/-- One part with its translation or its fault (R30). -/
def movePart (s : State) (o : Op) (x : Lane) : State × Except (Nat × Nat) Phys :=
  match x.phys with
  | none => (s, .error (engineDetail (x.flt / 256), vaNat x.va))
  | some p =>
    match ownRemote s p with
    | .error d => (s, .error (d, vaNat x.va))
    | .ok p => moveAt s o x p

/-- Parts in order until one fails. -/
def moveParts (id : Nat) : List Lane → State → State
  | [], s =>
    match opById s id with
    | some o => setOp s { o with phase := .done }
    | none => s
  | x :: r, s =>
    match opById s id with
    | none => s
    | some o =>
      match movePart s o x with
      | (s, .error (d, a)) => failOp s o causeEngine d a
      | (s, .ok p) => moveParts id r (setLane s id { x with phys := some p, fin := true })

/-- The parts of a command's ranges; an address outside the 56-bit space has its fault at once (R10). -/
def partsOf (ranges : List Lane) : List Lane :=
  (ranges.foldr (fun x acc => pageParts x ++ acc) []).map (fun x =>
    if (vaCheck x.va x.len 1).isSome then { x with flt := causeAccess * 256 + 1 } else x)

/-- A command that moves ranges starts: its lanes become the parts, which the tile's port translates (R26). -/
def startMove (s : State) (o : Op) : State := setOp s { o with phase := .active, lanes := partsOf o.lanes }

/-- Each part has its translation or its fault. -/
def movesReady (o : Op) : Bool := o.phase == .active && drayMoves o.kind && o.lanes.all (fun x => x.phys.isSome || x.flt != 0)

/-! Destinations on other tiles (R300, R302, R303). -/

/-- R302: the lowest ring that holds two tiles. -/
def ringLevel (a b : Nat) : Nat := if quadOf a != quadOf b then 2 else if a / 16 == b / 16 then 0 else 1

/-- The destination tile of a command, or the detail of its failure; a package that is not this one cannot be reached (log entry 1). -/
def destTile (s : State) (o : Op) : Except Nat Nat :=
  let w := paramAt o 4
  let far := bit w 19 && !ownPackage s (bits w 9 10)
  let lvl := bits w 26 2
  let hop := match o.kind with
    | .dhop _ => true
    | _ => false
  if far then .error (if hop && lvl != 3 then 0x21 else 0x19)
  else
    match placeTile s o.cx.q (w % 512) with
    | none => .error 0x0B
    | some (t, _) => if hop && decide (lvl < ringLevel o.tile t) then .error 0x21 else .ok t

def addRemotes (s : State) (o : Op) (rs : List Remote) : State :=
  let s := setOp s { o with phase := if rs.isEmpty then .done else .active }
  { s with syn := { s.syn with remotes := s.syn.remotes ++ rs } }

def penRemote (o : Op) (t : Nat) : Remote :=
  { op := o.id, tile := t, member := 0, slot := false, trough := 0, pen := some (penOf (paramAt o 1)), off := offOf (paramAt o 1), stage := 0 }

def slotRemote (o : Op) (t : Nat) : Remote :=
  { op := o.id, tile := t, member := 0, slot := true, trough := bits (paramAt o 4) 20 6, pen := none, off := 0, stage := 0 }

def startSend (s : State) (o : Op) (f : Op → Nat → Remote) : State :=
  match destTile s o with
  | .error d => failOp s o causeEngine d (if d = 0x21 then 0 else paramAt o 1)
  | .ok t => addRemotes s o [f o t]

/-- The physical tiles that host the members of a command's subgroup. -/
def groupTiles (s : State) (o : Op) : List Nat :=
  match sget s.sch.launches o.cx.q with
  | none => []
  | some l => ((subgroup l (paramAt o 5 % 2 ^ 16)).elim [] members).filterMap (fun n => (placeTile s o.cx.q n).map (·.1))

/-- DBCST's writes (R303): the pen of each tile once, be it the host of several members; a slot for each member. -/
def groupRemotes (s : State) (o : Op) (tm : Bool) : List Remote :=
  if tm then (groupTiles s o).zipIdx.map (fun x => { slotRemote o x.1 with member := x.2 }) else (dedup (groupTiles s o)).map (penRemote o)

/-- The remote Dray's reservation of a slot (R60, R61): the state with the slot's pen, or a wait in arrival order beside the PE waiters,
whose 16 places it does not take (log entry 24); or ENGINE's detail. -/
def remoteReserve (s : State) (r : Remote) : Except Nat (State × Option Nat) :=
  match troughOk s r.tile r.trough with
  | none => .error 0x0E
  | some t =>
    if t.pkind ≠ 2 then .error 0x0E
    else if mayMove t false then
      let (s, pen) := reserve s r.tile r.trough t 0
      .ok (s, some pen)
    else if t.waiters.contains (.dray false r.op) then .ok (s, none)
    else .ok (setTrough s r.tile r.trough { t with waiters := t.waiters ++ [.dray false r.op] }, none)

def setRemotes (s : State) (f : List Remote → List Remote) : State := { s with syn := { s.syn with remotes := f s.syn.remotes } }

/-- The last remote write of a command completes it. -/
def endRemote (s : State) (o : Op) (r : Remote) : State :=
  let s := setRemotes s (·.erase r)
  if s.syn.remotes.any (·.op == o.id) then s else setOp s { o with phase := .done }

/-- A remote write is made: the pen is flipped back or the slot posted. DHOP completes only once its slot is FILLED (R302). -/
def remoteDone (s : State) (o : Op) (r : Remote) (pen : Nat) : State :=
  if !r.slot then endRemote (flipBack s r.tile pen) o r
  else
    let waits := match o.kind with
      | .dhop _ => true
      | _ => false
    let posted := { r with stage := 1 }
    let s := if waits then setRemotes s (fun l => l.map (fun (x : Remote) => if x == r then posted else x)) else s
    let s := match troughAt s r.tile r.trough with
      | some t => post s r.tile r.trough (pen - t.pen0) false
      | none => s
    if waits then s else endRemote s o r

/-- R18, R54 at a destination pen. -/
def destCheck (s : State) (o : Op) (r : Remote) (pen len : Nat) : Option Nat :=
  match penReach s r.tile o.cx.asid pen r.off len with
  | some _ => some 0x0B
  | none => if (penAt s r.tile pen).elim false (fun p => p.own && p.eng == 8) then none else some 0x0D

/-- One remote write (R300, R302, R303); `stage` of a DHOP's is 1 once its slot is posted and 2 once it is FILLED. -/
def remoteWrite (s : State) (o : Op) (r : Remote) : State :=
  let len := paramAt o 3
  let fail (d : Nat) (addr : Nat) : State := failOp s o causeEngine d addr
  if r.stage = 2 then endRemote s o r
  else if r.stage = 1 then s
  else if !ownsLpen s o then fail 0x0D (paramAt o 0)
  else
  match r.pen with
  | none =>
    match remoteReserve s r with
    | .error d => fail d 0
    | .ok (s, none) => s
    | .ok (s, some pen) => setRemotes s (fun l => l.map (fun (x : Remote) => if x == r then { x with pen := some pen } else x))
  | some pen =>
    match destCheck s o r pen len with
    | some d => fail d (pen * 2 ^ 22 + r.off)
    | none =>
      let s := fixPen s o.tile (paramAt o 0) len
      match penRead s o.tile (paramAt o 0) len with
      | none => fail 0x11 (paramAt o 0)
      | some v => remoteDone (penWrite s r.tile (pen * 2 ^ 22 + r.off) len v) o r pen

/-- The n-th remote write of the occasion's operation, of DHOP or of the other commands. It waits while its quadrant is in P2 (R453). -/
def remoteTurn (s : State) (hop : Bool) : State :=
  match opById s s.occ.a with
  | none => s
  | some o =>
    if o.phase == .active && (match o.kind with | .dhop _ => hop | _ => !hop) then
      match (s.syn.remotes.filter (·.op == o.id))[s.occ.b]? with
      | some r => if sgetD s.dev.qcur (quadOf r.tile) 0 = 2 then s else remoteWrite s o r
      | none => s
    else s

/-- REMOTE_DRAY_WRITE (R54, R55, R60, R61, R300, R303): a Dray of another tile reserves a slot here, or writes. -/
def execRemoteDrayWrite (s : State) : Result := .next (remoteTurn s false)

/-- DHOP_ARRIVAL (R302): a hop reaches its destination. -/
def execDhopArrival (s : State) : Result := .next (remoteTurn s true)

/-! DRED (R304). -/

def dredKey (o : Op) : Nat := paramAt o 5 % 2 ^ 24

/-- The member arrives; its command waits where the key is open with its tile in it, or where 16 keys of the origin are open. -/
def startDred (s : State) (o : Op) : State :=
  let key := dredKey o
  let same (m : Meeting) : Bool := m.q == o.cx.q && m.key == key
  let me := opTile s o
  match s.syn.dreds.find? same with
  | some m =>
    if m.arrived.any (·.1 == me) then s
    else
      let s := setOp s { o with phase := .active }
      { s with syn := { s.syn with dreds := s.syn.dreds.map (fun (x : Meeting) => if same x then { x with arrived := x.arrived ++ [(me, o.id)] } else x) } }
  | none =>
    if 16 ≤ (s.syn.dreds.filter (fun m => m.q == o.cx.q && bits m.key 0 9 == bits key 0 9)).length then s
    else
      let s := setOp s { o with phase := .active }
      { s with syn := { s.syn with dreds := s.syn.dreds ++ [{ q := o.cx.q, key := key, gen := 0, arrived := [(me, o.id)] }] } }

/-- The combination of two elements. -/
def dredStep (op : DredOp) (i32 : Bool) (r x : Word) : Word :=
  match op with
  | .sum => if i32 then r + x else (add32 r x).1
  | .max => if i32 then (if r.toInt ≤ x.toInt then x else r) else fmax32 r x
  | .min => if i32 then (if r.toInt ≤ x.toInt then r else x) else fmin32 r x

/-- Element `i` of an operand read from a pen. -/
def elemAt (v i : Nat) : Word := BitVec.ofNat 32 (v / 2 ^ (32 * i))

/-- The elements combined over the members in ascending launch tile number. -/
def dredResult (op : DredOp) (i32 : Bool) (n : Nat) (vs : List Nat) : Nat :=
  match vs with
  | [] => 0
  | v :: r => ofWords ((upto n).map (fun i => r.foldl (fun acc x => dredStep op i32 acc (elemAt x i)) (elemAt v i)))

def failAll (s : State) (ids : List Nat) (d addr : Nat) : State :=
  ids.foldl (fun s id => match opById s id with
    | some o => failOp s o causeEngine d addr
    | none => s) s

/-- Insertion of a member by its tile number. -/
def insertMember (x : Nat × Nat) : List (Nat × Nat) → List (Nat × Nat)
  | [] => [x]
  | y :: r => if x.1 < y.1 then x :: y :: r else y :: insertMember x r

/-- The members' operations all there and the members agreed (R304). -/
def combine (s : State) (ms : List (Nat × Nat)) (o : Op) : State :=
  match o.kind with
  | .dred _ op i32 =>
    let os := ms.filterMap (fun m => opById s m.2)
    let agree (p : Op) : Bool := paramAt p 3 == paramAt o 3 && (match p.kind with | .dred _ op' f => op' == op && f == i32 | _ => false)
    if !os.all agree then failAll s (ms.map (·.2)) 0x20 0
    else
      let len := paramAt o 3
      let s := os.foldl (fun s p => fixPen s p.tile (paramAt p 0) len) s
      match os.find? (fun p => !ownsLpen s p || (penRead s p.tile (paramAt p 0) len).isNone) with
      | some p => failAll s (ms.map (·.2)) (if ownsLpen s p then 0x11 else 0x0D) (paramAt p 0)
      | none =>
        let r := dredResult op i32 (len / 4) (os.map (fun p => (penRead s p.tile (paramAt p 0) len).getD 0))
        os.foldl (fun s p => setOp (penWrite s p.tile (paramAt p 0) len r) { p with phase := .done }) s
  | _ => s

/-- DRED_COMBINE (R304): every member has arrived. -/
def execDredCombine (s : State) : Result :=
  match opById s s.occ.a with
  | none => .next s
  | some o =>
    match s.syn.dreds.find? (fun m => m.arrived.any (·.2 == o.id)) with
    | none => .next s
    | some m =>
      let all := (sget s.sch.launches m.q).elim [] (fun l => (subgroup l (m.key % 2 ^ 16)).elim [] members)
      if all.all (fun t => m.arrived.any (·.1 == t)) then
        .next (combine { s with syn := { s.syn with dreds := s.syn.dreds.filter (· != m) } } (m.arrived.foldr insertMember []) o)
      else .next s

/-! Appends (R101, R102, R300). `n` of the operation: 0 to check, 1 waiting for APD, 2 with APD set. -/

def appSeq (o : Op) : Nat := paramAt o 1
def appLh (o : Op) : Nat := paramAt o 2
def appPos (o : Op) : Nat := paramAt o 3

def failBale (s : State) (o : Op) (d : Nat) : State := failOp s o causeBale d (appSeq o + appPos o / 64 * 2 ^ 32)

/-- Details 0x05 to 0x08, judged on the low word at home (R101 step 2). R102 has no detail for REF = 0: the append proceeds, the model's choice (log
entry 58). -/
def appendRefusal (low j : Nat) : Option Nat :=
  if j < baleFill low then some 0x05
  else if baleFill low < j then some 0x06
  else if 2 ≤ bits low 0 6 then some 0x07
  else if bit low 7 then some 0x08
  else none

/-- A range that an append has written at home, kept for the flip back (R67). -/
def wroteLane (k pa len : Nat) : Lane := { mkLane k (pa : Int) len 0 0 with phys := some { pa := pa, mt := 0, enc := 0 }, fin := true }

/-- Step 2 of R101: the compare-and-swap of the low word at home, on which details 0x05 to 0x08 are judged. -/
def appendSwap (s : State) (o : Op) (x : BaleEntry) : State :=
  match readHome s 0 x.addr 8 with
  | (s, none) => failOp s o causeEngine 0x11 x.addr
  | (s, some low) =>
    if bit low 6 then setOp s { o with n := 1, addr := s.cyc + 256 }
    else
      match appendRefusal low (appPos o % 64) with
      | some d => failBale s o d
      | none => setOp (homeWrite s 0 x.addr 8 (low + 64)) { o with n := 2, lanes := [wroteLane 0 x.addr 8] }

/-- What LPEN must give (R54, R83, R300): ENGINE's detail where it does not. -/
def appendSource (s : State) (o : Op) (n : Nat) : Option Nat :=
  if !ownsLpen s o then some 0x0D
  else if (penAt s o.tile (lpen o)).elim true (fun q => decide (q.size * 4096 < offOf (paramAt o 0) + n)) then some 0x0F
  else if (penRead s o.tile (paramAt o 0) n).isNone then some 0x11
  else none

/-- Step 1 of R101 at the group's package, on an entry that the buffer gives and a placement. -/
def appendChecks (s : State) (o : Op) (x : BaleEntry) (p : Placed) (ring : List Nat) : State :=
  match (((seqRefusal x o.cx.asid o.cx.q).orElse (fun _ => holderRefusal s x)).orElse (fun _ => placeRefusal s p ring)).orElse
      (fun _ => storageRefusal s x) with
  | some d => failBale s o d
  | none =>
    match appendSource s o (2 * seqDh x.sent * seqEs x.sent) with
    | some d => failOp s o causeEngine d (paramAt o 0)
    | none => appendSwap s o x

/-- R101: the package of the group comes first; another one cannot be reached (log entry 1). Where the sequence entry is not valid it gives
no way to its placement, and the checks of R102 are made here. -/
def appendTry (s : State) (o : Op) (x : BaleEntry) : State :=
  if !seqValid x.sent then appendChecks s o x .absent []
  else
    match resolvePlace s x.sent x.seq (x.bidx / 16) with
    | (s, .bad pa) => failOp s o causeEngine 0x11 pa
    | (s, .link) => failOp s o causeEngine 0x19 0
    | (s, p) =>
      if (match p with | .pkg n => n != s.dev.pkgid.toNat | _ => false) then failOp s o causeEngine 0x19 0
      else
        match ringList s x.sent with
        | (s, .error pa) => failOp s o causeEngine 0x11 pa
        | (s, .ok ring) => appendChecks s o x p ring

/-- The DRAM ranges of slot `j` of a barn bale and its entry. -/
def appendRanges (x : BaleEntry) (j row : Nat) : List Lane :=
  wroteLane 0 x.addr 8 ::
    (if bits x.entry 62 2 = 1 then []
    else [wroteLane 1 (bits x.entry 17 26 * 16384 + j * row) row, wroteLane 2 (bits x.entry 17 26 * 16384 + 64 * row + j * row) row])

/-- Steps 3 and 4 (R101): the slot's K and V, then FILL, DIRTY and APD. An append that fails here leaves APD as step 2 has set it: the model's choice
(log entry 70). -/
def appendStore (s : State) (o : Op) (x : BaleEntry) : State :=
  let j := appPos o % 64
  let row := seqDh x.sent * seqEs x.sent
  let s := fixPen s o.tile (paramAt o 0) (2 * row)
  match appendSource s o (2 * row), penRead s o.tile (paramAt o 0) (2 * row), readHome s 0 x.addr 8 with
  | none, some v, (s, some low) =>
    let s := baleWrite s x (j * row) row (v % 256 ^ row)
    let s := baleWrite s x (64 * row + j * row) row (v / 256 ^ row)
    let low := low - bits low 6 11 * 64 + (j + 1) * 1024 + (if bit low 9 then 512 else 0) + 256 + (if bit low 7 then 128 else 0)
    setOp (homeWrite s 0 x.addr 8 low) { o with phase := .done, lanes := appendRanges x j row }
  | some d, _, (s, _) => failOp s o causeEngine d (paramAt o 0)
  | none, none, (s, _) => failOp s o causeEngine 0x11 (paramAt o 0)
  | none, some _, (s, none) => failOp s o causeEngine 0x11 x.addr

/-- A group that the placement cache gives to another package (R101, R104). -/
def placedElsewhere (s : State) (seq bidx : Nat) : Bool :=
  (sget s.bal.place (seq * 2 ^ 16 + bidx / 16)).elim false (fun n => n != s.dev.pkgid.toNat)

/-- An append's turn. A loft of a quadrant in P2 is woken for it (R453). -/
def appendTurn (s : State) (o : Op) : State :=
  if o.n != 2 && placedElsewhere s (appSeq o) (appPos o / 64) then failOp s o causeEngine 0x19 0
  else
    match lookBale s o.id o.tile (appSeq o) (appLh o) (appPos o / 64) with
    | (s, .wait) => s
    | (s, .bad pa) => failOp s o causeEngine 0x11 pa
    | (s, .entry x) =>
      if o.n = 2 then appendStore (if bits x.entry 62 2 = 1 then wakeQuad s (quadOf (bits x.entry 17 26 / 1024)) else s) o x
      else appendTry s o x

def isAppend : OpKind → Bool
  | .dcopy 4 _ => true
  | _ => false

/-- APPEND (R101). -/
def execAppend (s : State) : Result :=
  match opById s s.occ.a with
  | some o => if o.phase == .active && isAppend o.kind && o.n != 1 then .next (appendTurn s o) else .next s
  | none => .next s

/-- APPEND_RETRY (R101): every 256 fabric cycles while APD = 1. -/
def execAppendRetry (s : State) : Result :=
  match opById s s.occ.a with
  | some o => if o.phase == .active && isAppend o.kind && o.n == 1 && decide (o.addr ≤ s.cyc) then .next (appendTurn s o) else .next s
  | none => .next s

/-- PLACEMENT_MISS (R104): the group of an append that a buffered sequence names is read from the home copy. -/
def execPlacementMiss (s : State) : Result :=
  match opById s s.occ.a with
  | none => .next s
  | some o =>
    match s.bal.buf.find? (fun x => sameBale x o.tile (appSeq o) (appLh o) (appPos o / 64)) with
    | some x =>
      if isAppend o.kind && seqValid x.sent then .next (resolvePlace s x.sent x.seq (x.bidx / 16)).1 else .next s
    | none => .next s

/-! Start, completion and failure (R299). -/

/-- A command starts; LPEN must be its channel's (R54). A DRED joins its instance all the same, which then fails as a whole (R304). -/
def startCommand (s : State) (o : Op) : State :=
  let joins := match o.kind with
    | .dred _ _ _ => true
    | _ => false
  if !ownsLpen s o && !joins then failOp s o causeEngine 0x0D (paramAt o 0)
  else
    match o.kind with
    | .dcopy 0 _ => startMove s o
    | .dcopy 1 _ => startMove s o
    | .dcopy 2 _ => startSend s o penRemote
    | .dcopy 3 _ => startSend s o slotRemote
    | .dcopy _ _ => setOp s { o with phase := .active, n := 0 }
    | .dgath _ => startMove s o
    | .dscat _ => startMove s o
    | .dhop _ => startSend s o slotRemote
    | .dbcst _ tm => addRemotes s o (groupRemotes s o tm)
    | .dred _ _ _ => startDred s o
    | _ => s

/-- DRAY_COMMAND_START (R45, R299): a channel takes its next command, or performs the one it has taken once its parts are translated. -/
def execDrayCommandStart (s : State) : Result :=
  match (channel s s.occ.a s.occ.b).find? movesReady with
  | some o => .next (moveParts o.id o.lanes s)
  | none =>
    match channelHead s s.occ.a s.occ.b with
    | some o => .next (startCommand s o)
    | none => .next s

/-- The DRAM ranges that a command wrote (R67). -/
def writtenRanges (o : Op) : List (Nat × Nat) :=
  let all := o.lanes.filterMap (fun x => if x.fin then x.phys.map (fun p => (p.pa, x.len)) else none)
  match o.kind with
  | .dcopy 1 _ => all
  | .dcopy 4 _ => all
  | .dscat _ => all
  | _ => []

/-- The flip back as a command's last act (R55, R67, R154). -/
def flipLpen (s : State) (o : Op) : State := flipBack (cleanIn s o.tile (writtenRanges o)) o.tile (lpen o)

/-- DRAY_COMPLETE (R55, R299). -/
def execDrayComplete (s : State) : Result :=
  match (channel s s.occ.a s.occ.b).find? (·.phase == .done) with
  | some o => .next (if emitFits s o o.a then emitOp (dropOp (flipLpen s o) o.id) o 13 o.a (fun h => h) else s)
  | none => .next s

/-- R299: slots that a failed command has reserved are posted void; its registrations and writes end. -/
def voidRemotes (s : State) (id : Nat) : State :=
  let mine := s.syn.remotes.filter (·.op == id)
  let s := setRemotes s (fun l => l.filter (·.op != id))
  let s := { s with syn := { s.syn with dreds := s.syn.dreds.map (fun (m : Meeting) => { m with arrived := m.arrived.filter (·.2 != id) }) } }
  let clear (t : Trough) : Trough := { t with waiters := t.waiters.filter (fun w => w != .dray false id) }
  let s := mine.foldl (fun s r => { s with tab := { s.tab with troughs := smod s.tab.troughs (r.tile * 64 + r.trough) clear } }) s
  mine.foldl (fun s r =>
    match r.slot && r.stage == 0, r.pen, troughAt s r.tile r.trough with
    | true, some pen, some t => post s r.tile r.trough (pen - t.pen0) true
    | _, _, _ => s) s

/-- DRAY_FAIL (R102, R299): the failed command leaves its channel, and its fault is raised on the issuing frame. -/
def execDrayFail (s : State) : Result :=
  match (channel s s.occ.a s.occ.b).find? (·.phase == .failed) with
  | none => .next s
  | some o =>
    if mayReport s o then
      let live := frameLive s o.tile o.rank o.ctx o.iter
      let s := flipLpen (voidRemotes s o.id) o
      let s := raiseOp s o o.cause o.detail o.addr
      if live && o.elem != 8 then .next (setOp s { o with phase := .faulted }) else .next (dropOp s o.id)
    else .next s

/-- Entries go behind what an element's commit buffers still release. -/
def holdEntries (s : State) (tile elem : Nat) (es : List CbEntry) : State :=
  let p := peAt s tile elem
  setPe s tile elem (if p.behind.isEmpty then { p with rel := p.rel ++ es } else { p with behind := p.behind ++ es })

/-- R299: ERES gives LPEN to the channel again and enters the command at its tail; with the channel's queue full both wait for an entry as a
release does. -/
def replayDray (s : State) (o : Op) (ch : Nat) : State :=
  let s := dropOp s o.id
  let give : Op := { o with kind := .give (lpen o) (ch + 1), port := none, phase := .queued, lanes := [] }
  let again (x : Lane) : Lane := { x with phys := none, rewalked := false, fin := false, flt := 0 }
  let o : Op := { o with phase := .queued, n := 0, cause := 0, detail := 0, addr := 0, lanes := if isAppend o.kind then [] else o.lanes.map again }
  if channelLoad s o.tile ch < 16 then addOp (addOp s give) o
  else holdEntries s o.tile o.elem [.op { give with id := 0 }, .op { o with id := 0 }]

end Sys2Proof.Machine
end

