-- ==== Sys2Proof/Machine/Net.lean ====
section
/-! DEFINITION. Tokens on the mesh and their arrival: sending, the frame store, cancels, the groom inbox, edges (R69 to R77, R169,
R172, R182 to R193, R234, R434, R460). -/

namespace Sys2Proof.Machine

/-! Sending (R183, R191). -/

/-- Two destinations of one element on one virtual channel. -/
def sameLane (a b : Dest) : Bool := a.tile == b.tile && a.elem == b.elem && a.vc == b.vc

/-- R183: a token from the same element that has not been sent yet goes first. -/
def olderUnsent (s : State) (e : OutEntry) (d : Dest) : Bool :=
  s.net.outs.any (fun x => x.tile == e.tile && x.elem == e.elem && decide (x.id < e.id) && x.pend.any (fun p => p.2 == 0 && sameLane p.1 d))

/-- The launch a tile serves. -/
def ownerOf (s : State) (tile : Nat) : Nat := sgetD s.tab.owner tile 4096

def setOut (s : State) (e : OutEntry) : State :=
  { s with net := { s.net with outs := s.net.outs.map (fun (x : OutEntry) => if x.id == e.id then e else x) } }

/-- The launch of an entry: its tile's, or its context's where edges, host or sequencer offer it. -/
def outOwner (s : State) (e : OutEntry) : Nat := if e.elem = 14 then (ctxOf s e.tok.hdr.ctx).elim (ownerOf s e.tile) (·.q) else ownerOf s e.tile

/-- OUTPUT_BUFFER_SEND (R183, R191, R198): the n-th destination of an entry is offered; the token names the physical tile. A frozen
tile sends nothing (R417), and a quadrant in P2 is woken first (R453). -/
def execOutputBufferSend (s : State) : Result :=
  match s.net.outs.find? (fun e => e.id == s.occ.b && e.tile == s.occ.a) with
  | none => .next s
  | some e =>
    match e.pend[s.occ.c]? with
    | none => .next s
    | some (d, st) =>
      if st = 1 || st = 0 && olderUnsent s e d || s.frm.frozen.contains e.tile then .next s
      else
        match (placeTile s (outOwner s e) d.tile).filter (fun p => sgetD s.dev.qcur (quadOf p.1) 0 != 2) with
        | none => .next s
        | some (t, rank) =>
          let tok := { e.tok with hdr := { e.tok.hdr with slot := d.slot } }
          let f : Flight := { id := s.nextId, tile := t, rank := rank, dest := d, tok := tok, entry := e.id }
          let s := setOut s { e with pend := lset e.pend s.occ.c (d, 1) }
          .next { s with nextId := s.nextId + 1, net := { s.net with mesh := s.net.mesh ++ [f] } }

/-- TOKENS messages whose last token has been accepted (R444). -/
def settleTokens (s : State) : State :=
  let left (r : Nat × Stt × Nat × Nat) : Bool := s.net.outs.any (fun e => decide (r.2.2.1 ≤ e.id) && decide (e.id < r.2.2.1 + r.2.2.2))
  let done := s.host.tokens.filter (fun r => !left r)
  let s := { s with host := { s.host with tokens := s.host.tokens.filter left } }
  done.foldl (fun s r => answerHost s (r.1, r.2.1) 5 r.2.2.2 []) s

def dropFlight (s : State) (f : Flight) : State := { s with net := { s.net with mesh := s.net.mesh.filter (·.id != f.id) } }

/-- The destination has accepted: its bit goes, and the entry with its last bit (R191). -/
def acceptFlight (s : State) (f : Flight) : State :=
  let s := dropFlight s f
  let upd (e : OutEntry) : Option OutEntry :=
    if e.id == f.entry then
      let p := e.pend.erase (f.dest, 1)
      if p.isEmpty then none else some { e with pend := p }
    else some e
  settleTokens { s with net := { s.net with outs := s.net.outs.filterMap upd } }

/-- The destination refuses: the token stays at its source. -/
def refuseFlight (s : State) (f : Flight) : State :=
  let s := dropFlight s f
  let back (p : Dest × Nat) : Dest × Nat := if p.1 == f.dest && p.2 == 1 then (p.1, 2) else p
  let upd (e : OutEntry) : OutEntry := if e.id == f.entry then { e with pend := e.pend.map back } else e
  { s with net := { s.net with outs := s.net.outs.map upd } }

/-- The source of a flight. -/
def sourceOf (s : State) (f : Flight) : Option (Nat × Nat) := (s.net.outs.find? (·.id == f.entry)).map (fun e => (e.tile, e.elem))

/-- R183: an older token from the same element is still on its way to the same element and virtual channel. -/
def olderFlight (s : State) (f : Flight) : Bool :=
  s.net.mesh.any (fun g => decide (g.id < f.id) && sameLane g.dest f.dest && g.tile == f.tile && sourceOf s g == sourceOf s f)

/-- The occasion's flight, if it arrives now at an element of the kind asked for. -/
def arriving (s : State) (ok : Flight → Bool) : Option Flight :=
  match s.net.mesh.find? (·.id == s.occ.a) with
  | some f => if ok f && !olderFlight s f then some f else none
  | none => none

/-! Flits (R181, R182). -/

/-- The 64 bits of a header. -/
def headerBits (h : Header) : Nat :=
  h.slot % 512 + (if h.eor then 2 ^ 9 else 0) + (if h.can then 2 ^ 10 else 0) + (if h.str then 2 ^ 11 else 0) + (if h.nrm then 2 ^ 12 else 0) +
    h.pol % 16 * 2 ^ 13 + h.wm1 % 32 * 2 ^ 17 + h.seg % 1024 * 2 ^ 22 + h.iter % 2 ^ 16 * 2 ^ 32 + h.ctx % 2 ^ 16 * 2 ^ 48

/-- Flits of a token. -/
def flitCount (h : Header) : Nat := if h.can || h.wm1 < 12 then 1 else if h.wm1 < 28 then 2 else 3

/-- Lanes that a token carries: those below W, and none of a cancel. -/
def carried (t : Token) : Lanes := mkLanes (fun l => if t.hdr.can || t.hdr.wm1 < l then none else laneOf t.lanes l)

/-- Bits of lanes `[lo, lo + n)`; a lane that the mask leaves out is zero. -/
def laneBits (v : Lanes) (lo n : Nat) : Nat := (upto n).foldl (fun acc l => acc + ((laneOf v (lo + l)).elim 0 (·.toNat)) * 2 ^ (32 * l)) 0

/-- The flits of a flight as they travel; a shared tile's rank stands in bits [15:12] of the routing word (R418). -/
def flitsOf (f : Flight) : List Nat :=
  let v := carried f.tok
  let n := flitCount f.tok.hdr
  let route := f.tile % 512 * 2 ^ 23 + f.dest.elem % 8 * 2 ^ 20 + f.dest.vc % 4 * 2 ^ 18 + (n - 1) * 2 ^ 16 + f.rank % 16 * 2 ^ 12
  let mask := (upto 32).foldl (fun acc l => if (laneOf v l).isSome then acc + 2 ^ l else acc) 0
  (route + headerBits f.tok.hdr * 2 ^ 32 + mask * 2 ^ 96 + laneBits v 0 12 * 2 ^ 128) ::
    (upto (n - 1)).map (fun k => laneBits v (12 + 16 * k) (min 16 (20 - 16 * k)))

/-! The frame store. -/

/-- A tag as ADDR (R407). -/
def tagWord (h : Header) : Nat := h.ctx * 2 ^ 16 + h.iter

/-- R74, R193: DUPTAG detail 0x01 on the frame at LOW. -/
def lateToken (s : State) (tile rank : Nat) (h : Header) : State :=
  raiseFrame s tile rank h.ctx (windowOf s tile rank h.ctx).low causeDuptag 0x01 (tagWord h)

/-- R460: the token's context is LIVE or ENDING in the pool of the launch that the tile serves. -/
def ctxServed (s : State) (tile c : Nat) : Option Ctx :=
  match ctxOf s c with
  | some x => if x.q == ownerOf s tile && (x.st == .live || x.st == .ending) then some x else none
  | none => none

/-- The block of a tile that an entry slot belongs to. -/
def blockOfSlot (s : State) (tile slot : Nat) : Option (Nat × Block) :=
  (srange s.tab.blocks (tile * 256) 256).find? (fun p => decide (p.2.slot0 ≤ slot) && decide (slot < p.2.slot0 + p.2.nin))

/-- Runnable tasks of a stage's blocks on a tile, handler tasks among them (R169, R410). -/
def stageLoad (s : State) (tile stage : Nat) : Nat :=
  (s.frm.ready.filter (fun r => r.tile == tile && r.kind != .groom && (sget s.tab.blocks (tile * 256 + r.blk)).elim false (·.stage == stage))).length

/-- What the frame store decides of a token for iteration `i` (R74). -/
inductive Gate where
  | wait
  | late
  | live
  | claim
  deriving DecidableEq, Repr

def gate (s : State) (tile rank c i : Nat) : Gate :=
  let w := windowOf s tile rank c
  let f := 2 ^ (fplanOf s tile rank c).flog2
  if w.low + f ≤ i then .wait
  else if i < w.low then .late
  else
    match sget w.pos (i % f) with
    | some p => if p.it == i && p.rt then .late else if p.it == i && p.lv then .live else if p.it == i then .claim else .wait
    | none => .claim

/-- R74, R402: the position is claimed; a parked one stays parked. -/
def claimFrame (s : State) (tile rank c i : Nat) : State :=
  setPosition s tile rank c i { (positionOf s tile rank c i).getD { noPosition with it := i } with lv := true, done := 0 }

/-- The slot contents that a token gives. -/
def slotOf (t : Token) : Slot :=
  { lanes := t.lanes, seg := t.hdr.seg, pol := t.hdr.pol, nrm := t.hdr.nrm, str := t.hdr.str, eor := t.hdr.eor, wm1 := t.hdr.wm1 }

/-- A token whose arrival raises a fault stays at its source while the fault's list is full (R405). -/
def faultOr (s : State) (f : Flight) (room : Bool) (raised : State) : State := if room then raised else refuseFlight s f

/-- The list of the frame at LOW, on which a late token's fault is raised, has room. -/
def lateRoom (s : State) (f : Flight) : Bool :=
  faultRoom s f.tile f.rank f.tok.hdr.ctx (windowOf s f.tile f.rank f.tok.hdr.ctx).low

/-- R75: the slot of a live frame is written; the block may become runnable. -/
def writeSlot (s : State) (f : Flight) (blk : Nat) : State :=
  let h := f.tok.hdr
  let k := slotKey s f.tile f.rank h.ctx h.iter f.dest.slot
  match sget s.frm.slots k with
  | none =>
    let s := clearSlot (acceptFlight s f) k (fun l => (laneOf f.tok.lanes l).isSome)
    wake { s with frm := { s.frm with slots := sset s.frm.slots k (slotOf f.tok) } } f.tile f.rank h.ctx h.iter blk
  | some x =>
    if x.seg = h.seg then
      faultOr s f (faultRoom s f.tile f.rank h.ctx h.iter) (raiseFrame (acceptFlight s f) f.tile f.rank h.ctx h.iter causeDuptag 0x00 (tagWord h))
    else refuseFlight s f

/-- R460 and R74 for an arriving token or cancel: its fate, or the block and whether the frame is claimed. A token whose stage is full stays
at its source whatever its slot holds; that DUPTAG waits as well is the model's choice (log entry 35). -/
def takeIn (s : State) (f : Flight) (slotOk : Nat → Block → Bool) (k : State → Nat → Block → State) (full : Block → Bool) : State :=
  let h := f.tok.hdr
  match ctxServed s f.tile h.ctx with
  | none =>
    faultOr s f (decide (pendingCount s f.tile < 1024))
      (enqueueFault (acceptFlight s f) f.tile (bareRecord (ltileOf s f.tile f.rank) causeDuptag 0x01 (tagWord h)))
  | some x =>
    match blockOfSlot s f.tile f.dest.slot with
    | none => count (acceptFlight s f) 4 f.tile
    | some (blk, b) =>
      if 2 ^ (fplanOf s f.tile f.rank h.ctx).fslog2 ≤ f.dest.slot || !slotOk f.dest.slot b then count (acceptFlight s f) 4 f.tile
      else
        match gate s f.tile f.rank h.ctx h.iter with
        | .wait => refuseFlight s f
        | .late => faultOr s f (lateRoom s f) (lateToken (acceptFlight s f) f.tile f.rank h)
        | .live => if full b then refuseFlight s f else k s blk b
        | .claim =>
          if x.st == .ending then faultOr s f (lateRoom s f) (lateToken (acceptFlight s f) f.tile f.rank h)
          else if full b then refuseFlight s f
          else k (claimFrame s f.tile f.rank h.ctx h.iter) blk b

/-- TOKEN_ARRIVAL (R74, R75, R169, R193, R460). -/
def execTokenArrival (s : State) : Result :=
  match arriving s (fun f => f.dest.elem == 0 && !f.tok.hdr.can) with
  | none => .next s
  | some f =>
    let full (b : Block) : Bool :=
      (sget s.tab.stages (f.tile * 16 + b.stage)).elim false (fun g => decide (g.depth ≤ stageLoad s f.tile b.stage))
    .next (takeIn s f (fun _ _ => true) (fun s blk _ => writeSlot s f blk) full)

/-- Cancels with the same tag to a block's cancel-forward destinations (R184). -/
def forwardCancel (s : State) (f : Flight) (b : Block) : State :=
  let ds := (upto b.cfn).filterMap (fun k => sget s.tab.lists (f.tile * 256 + b.cfl + k))
  addOut s f.tile 9 { hdr := { f.tok.hdr with can := true }, lanes := noLanes } ds

/-- A cancel applied to its block (R184): where the frame is live it clears the block's entries, with a task that waits to fire, and counts the
block. -/
def applyCancel (s : State) (f : Flight) (blk : Nat) (b : Block) : State :=
  let h := f.tok.hdr
  let gone (r : Ready) : Bool := r.ofFrame f.tile f.rank h.ctx h.iter && r.blk == blk
  let s :=
    if (positionOf s f.tile f.rank h.ctx h.iter).elim false (·.lv) then
      let s := clearEntries s f.tile f.rank h.ctx h.iter b
      countBlock { s with
        frm := { s.frm with ready := s.frm.ready.filter (fun r => !gone r) },
        sch := { s.sch with launches := s.sch.launches.map (fun p => (p.1, { p.2 with poolWait := p.2.poolWait.filter (fun r => !gone r) })) } }
          f.tile f.rank h.ctx h.iter
    else s
  forwardCancel s f b

/-- A cancel reaches its block (R184): while a task of it runs the frame store holds the accepted cancel. -/
def cancelBlock (s : State) (f : Flight) (blk : Nat) (b : Block) : State :=
  let s := acceptFlight s f
  if running s f.tile f.rank f.tok.hdr.ctx f.tok.hdr.iter blk then { s with frm := { s.frm with cancels := s.frm.cancels ++ [f] } }
  else applyCancel s f blk b

/-- A held cancel applies once the task of its block has committed or is discarded (R184). -/
def heldCancel (s : State) (f : Flight) : State :=
  match blockOfSlot s f.tile f.dest.slot with
  | none => s
  | some (blk, b) =>
    if running s f.tile f.rank f.tok.hdr.ctx f.tok.hdr.iter blk then s
    else
      let s := applyCancel { s with frm := { s.frm with cancels := s.frm.cancels.filter (·.id != f.id) } } f blk b
      wake s f.tile f.rank f.tok.hdr.ctx f.tok.hdr.iter blk

/-- CANCEL_TOKEN_ARRIVAL (R184): at a frame store it applies, or waits there; at another element it is dropped and counted. -/
def execCancelTokenArrival (s : State) : Result :=
  match s.frm.cancels.find? (·.id == s.occ.a) with
  | some f => .next (heldCancel s f)
  | none =>
  match arriving s (fun f => f.tok.hdr.can) with
  | none => .next s
  | some f =>
    if f.dest.elem = 0 then
      .next (takeIn s f (fun slot b => b.slot0 == slot) (fun s blk b => cancelBlock s f blk b) (fun _ => false))
    else .next (count (acceptFlight s f) 4 f.tile)

/-! The groom inbox (R172). -/

/-- GROOM_INBOX_ARRIVAL (R172): a slot keeps up to four tokens. -/
def execGroomInboxArrival (s : State) : Result :=
  match arriving s (fun f => f.dest.elem == 4 && !f.tok.hdr.can) with
  | none => .next s
  | some f =>
    let q := inboxOf s f.tile f.dest.slot
    if 4 ≤ q.length then .next (refuseFlight s f)
    else
      let s := acceptFlight s f
      .next (wakeGroom { s with frm := { s.frm with inbox := sset s.frm.inbox (f.tile * 512 + f.dest.slot) (q ++ [f.tok]) } } f.tile)

/-! Edges (R234, R434). -/

/-- A destination word in the form of R187. -/
def destOfWord (w : Nat) : Dest := { tile := bits w 23 9, elem := bits w 20 3, vc := bits w 18 2, slot := bits w 9 9 }

/-- An edge entry's fields. -/
def edgeIn (e : Nat) : Bool := bit e 31
def edgeStride (e : Nat) : Nat := bits e 32 8
def edgeCount (e : Nat) : Nat := bits e 40 24
def edgeBase (e : Nat) : Nat := bits e 72 56
def edgeDest (e : Nat) : Dest := destOfWord (bits e 8 23 * 2 ^ 9)

/-- An edge's access: a fault concerns no frame (log entry 21). -/
def edgeWant (wr : Bool) : Want := { user := true, wr := wr, ex := false, mtOk := fun _ => true, remote := false }

/-- Checks and translation of a word access of an edge (R10, R16, R30). -/
def edgePhys (s : State) (tile asid va : Nat) (wr : Bool) : State × Check Phys :=
  match vaCheck va 4 4 with
  | some x => (s, .error x)
  | none => xlateNow s tile asid va (edgeWant wr)

/-- An edge's access that a port performs, as an operation of no context: SC memory is reached at its node (R158). -/
def edgeOp (tile asid : Nat) (k : OpKind) (lanes : List Lane) : Op :=
  { id := 0, tile := tile, elem := 14, rank := 0, ctx := 2 ^ 16, iter := 0, blk := 0xFF, pos := 0x3F, w := 32, tid := 0, byHandler := false,
    cx := { absentCtx with asid := asid }, kind := k, port := none, portNo := 0, hdr := plainHeader 0 0 1 0, emask := List.replicate 32 true,
    a := noLanes, b := noLanes, lanes := lanes, phase := .ready, n := 0, out := noLanes, cause := 0, detail := 0, addr := 0, retried := false }

/-- One word of an edge written at its page. -/
def egressPage (s : State) (tile asid va v : Nat) (p : Phys) : State :=
  if p.mt = 2 then deviceWrite s p.pa v
  else if p.mt = 1 then addOp s (edgeOp tile asid (.st .word true) [{ mkLane 0 (va : Int) 4 v 0 with phys := some p }])
  else homeWrite s p.enc p.pa 4 v

/-- The words of an egress token, in lane order; a fault ends them. -/
def egressWords (s : State) (tile asid base : Nat) : List (Nat × Word) → State
  | [] => s
  | (l, v) :: r =>
    match edgePhys s tile asid (base + 4 * l) true with
    | (s, .error (c, d)) => frameless s tile c d (base + 4 * l)
    | (s, .ok p) => egressWords (egressPage s tile asid (base + 4 * l) v.toNat p) tile asid base r

/-- EDGE_EGRESS_WRITE (R234). A token for a port that is no egress port of the tile's launch is dropped and counted, the model's choice (log entry
60). -/
def execEdgeEgressWrite (s : State) : Result :=
  match arriving s (fun f => f.dest.elem == 5 && !f.tok.hdr.can) with
  | none => .next s
  | some f =>
    let q := ownerOf s f.tile
    match sget s.sch.launches q with
    | none => .next (count (acceptFlight s f) 4 f.tile)
    | some l =>
      match l.edges[f.dest.slot % 64]? with
      | none => .next (count (acceptFlight s f) 4 f.tile)
      | some e =>
        let h := f.tok.hdr
        if edgeIn e then .next (count (acceptFlight s f) 4 f.tile)
        else if edgeCount e ≤ h.iter then
          .next { acceptFlight s f with sch := { s.sch with launches := sset s.sch.launches q { l with edrop := l.edrop + 1 } } }
        else
          let ws := (upto (min 32 (edgeStride e))).filterMap (fun k => (laneOf f.tok.lanes k).map (fun v => (k, v)))
          if pendingCount s f.tile < 1024 then .next (egressWords (acceptFlight s f) f.tile l.asid (edgeBase e + 4 * (h.iter * edgeStride e)) ws)
          else .next s

/-- Physical tile of the origin of a launch's rectangle in force. -/
def originTile (l : Launch) : Nat := l.gy * 16 + l.gx

/-- The lanes of an ingress token with their translations; a fault ends them. -/
def ingressLanes (s : State) (tile asid base : Nat) : Nat → State × Except (Nat × Nat × Nat) (List Lane)
  | 0 => (s, .ok [])
  | n + 1 =>
    match ingressLanes s tile asid base n with
    | (s, .error e) => (s, .error e)
    | (s, .ok ls) =>
      match edgePhys s tile asid (base + 4 * n) false with
      | (s, .error (c, d)) => (s, .error (c, d, base + 4 * n))
      | (s, .ok p) => (s, .ok (ls ++ [{ mkLane n ((base + 4 * n : Nat) : Int) 4 0 0 with phys := some p }]))

/-- Words read at home or at a device register, in lane order; an uncorrectable error ends the reading. -/
def ingressWords (s : State) : List Lane → State × Except (Nat × Nat × Nat) (List Word)
  | [] => (s, .ok [])
  | x :: r =>
    match x.phys with
    | none => (s, .ok [])
    | some p =>
      match if p.mt = 2 then (s, some (deviceRead s p.pa)) else readHome s p.enc p.pa 4 with
      | (s, none) => (s, .error (causeMemUe, 0, p.pa))
      | (s, some v) =>
        match ingressWords s r with
        | (s, .ok ws) => (s, .ok (BitVec.ofNat 32 v :: ws))
        | (s, .error e) => (s, .error e)

/-- The words of an edge's read: its own where no word is in SC memory, else an operation makes it, whose answer the edge awaits. -/
inductive EdgeRead where
  | words (ws : List Word)
  | fault (cause detail addr : Nat)
  | asked (id : Nat)
  | wait

/-- An edge's read of the words of one token (R158, R234); `id` is the operation that makes it, if one does. -/
def edgeRead (s : State) (tile asid base w id : Nat) : State × EdgeRead :=
  match opById s id with
  | some o =>
    if o.phase == .done then (dropOp s id, .words (o.lanes.map (fun x => BitVec.ofNat 32 x.res)))
    else if o.phase == .failed then (dropOp s id, .fault o.cause o.detail o.addr)
    else (s, .wait)
  | none =>
    match ingressLanes s tile asid base w with
    | (s, .error (c, d, a)) => (s, .fault c d a)
    | (s, .ok ls) =>
      if ls.any (fun x => x.phys.elim false (·.mt == 1)) then (addOp s (edgeOp tile asid (.ld .word) ls), .asked s.nextId)
      else
        match ingressWords s ls with
        | (s, .ok ws) => (s, .words ws)
        | (s, .error (c, d, a)) => (s, .fault c d a)

/-- EDGE_INGRESS_INJECT (R234, R385, R434): the next token of an edge, in the context of the run that named it, once the one before it has been
accepted. Iterations above 0xFFFF are injected under their number, the model's choice (log entry 60). -/
def execEdgeIngressInject (s : State) : Result :=
  let q := s.occ.a
  match sget s.sch.launches q with
  | none => .next s
  | some l =>
    match l.ingress.find? (·.1 == s.occ.b), l.edges[s.occ.b]? with
    | some (n, i, id, c), some e =>
      let tile := originTile l
      if s.net.outs.any (·.id == id) || l.st != .running || decide (1024 ≤ pendingCount s tile) then .next s
      else
        let others := l.ingress.filter (fun x => x.1 != n)
        let put (s : State) (rest : List (Nat × Nat × Nat × Nat)) : State :=
          { s with sch := { s.sch with launches := sset s.sch.launches q { l with ingress := rest } } }
        if edgeCount e ≤ i then .next (put s others)
        else
          match edgeRead s tile l.asid (edgeBase e + 4 * (i * edgeStride e)) (edgeStride e) id with
          | (s, .wait) => .next s
          | (s, .asked id) => .next (put s (others ++ [(n, i, id, c)]))
          | (s, .fault k d a) => .next (frameless (put s others) tile k d a)
          | (s, .words ws) =>
            let d := edgeDest e
            .next (addOut (put s (others ++ [(n, i + 1, s.nextId, c)])) tile 14
              { hdr := plainHeader c i (edgeStride e) d.slot, lanes := lanesOf ws } [d])
    | _, _ => .next s

/-! What a unit still owes to a token's source. -/

/-- A token on a port's destinations from a unit of a tile (R191). -/
def emitTo (s : State) (tile elem : Nat) (tok : Token) (d : Dest) : State := addOut s tile elem tok [d]

end Sys2Proof.Machine
end

