-- ==== Sys2Proof/Machine/Units.lean ====
section
/-! DEFINITION. What the matrix island, the row units and PRBLD share: their vectors and pens at issue, and the end of a block's
commands (R338, R339, R341 to R343). -/

namespace Sys2Proof.Machine

/-! Operands (R343). -/

/-- A parameter vector in lanes 0 to n − 1; `none` where no lane of the instruction executes (R179). -/
def vectorOf (τ : Task) (v : Lanes) (n : Nat) (others : List Lanes) : Body (Option (List Nat)) :=
  if !anyExec τ (v :: others) then .ok none
  else if τ.w < n || !(upto n).all (fun l => (laneOf v l).isSome) then stop causeBadSource 0
  else .ok (some ((upto n).map (fun l => ((laneOf v l).getD 0).toNat)))

/-- The lanes of operand A that are valid at issue. -/
def validLanes (τ : Task) (v : Lanes) : Lanes := mkLanes (fun l => if l < τ.w then laneOf v l else none)

/-- Word `l` of an operation's operands. -/
def wordA (o : Op) (l : Nat) : Nat := ((laneOf o.a l).getD 0).toNat
def wordB (o : Op) (l : Nat) : Nat := ((laneOf o.b l).getD 0).toNat

/-- A breach of a field. -/
def field (c : Bool) : Body Unit := check c causeBadSource

/-! Pens of a command (R338, R364, R379). -/

/-- Where a command's pen operands start. -/
def opPaddrs (o : Op) : List Nat :=
  match o.kind with
  | .mma _ _ _ ch => (if ch then [] else [wordA o 0]) ++ [wordA o 1] ++ (if bit (wordA o 2) 15 then [wordA o 6] else [])
  | .mlda => [wordA o 0]
  | .etld => [wordA o 0]
  | .mdrn bias _ _ _ _ => [wordA o 0] ++ (if bias then [wordA o 5] else [])
  | .fold => [wordA o 0]
  | .ffin => [wordA o 0]
  | .reinld => if bit (wordB o 0) 8 then [] else [wordA o 0]
  | .prbld => [wordA o 0]
  | _ => []

def opPens (o : Op) : List Nat := (opPaddrs o).map penOf

/-- The holder that a unit's pens are given to. -/
def unitEng : OpKind → Nat
  | .reinld => 7
  | .prbld => 7
  | _ => 5

def isUnit : OpKind → Bool
  | .mma _ _ _ _ => true
  | .mzero => true
  | .mlda => true
  | .mdrn _ _ _ _ _ => true
  | .etld => true
  | .fold => true
  | .ffin => true
  | .reinld => true
  | .prbld => true
  | _ => false

/-- Entries of a commit buffer that is still releasing. -/
def releasing (s : State) (o : Op) : List Op :=
  ((upto 9).map (fun e => (peAt s o.tile e).held)).flatten.filterMap (fun x => match x with
    | .op p => if sameBlock p o then some p else none
    | .emit _ _ _ => none)

def isMma : OpKind → Bool
  | .mma _ _ _ _ => true
  | _ => false

/-- An MMA that was late when it entered the queue (`n` is 1): it counts as applied, and is discarded once its pens are given. One that
EKILL has dropped (`n` is 2) raises NEXT when its turn comes (R341, log entry 38). -/
def lateMma (o : Op) : Bool := isMma o.kind && o.n == 1

def killedMma (o : Op) : Bool := isMma o.kind && o.n == 2

def finished (o : Op) : Bool := o.phase == .done || stopped o || killedMma o

/-- Every command of the block that names the pen is applied or has failed (R339). -/
def penFree (s : State) (o : Op) (n : Nat) : Bool :=
  s.ops.all (fun p => !(isUnit p.kind && sameBlock p o && (opPens p).contains n) || finished p) &&
    !(releasing s o).any (fun p => isUnit p.kind && (opPens p).contains n)

/-- A finished command's token: its operand A, and a status of 0 for PRBLD (R343, R378). -/
def unitToken (o : Op) : Lanes :=
  match o.kind with
  | .prbld => statusLanes o.w [0]
  | _ => o.a

/-- A finished command's token leaves, or waits with the fault of its tag operation for room (R405). -/
def unitEmit (s : State) (p : Op) : State := if emitFits s p (unitToken p) then emitOp (dropOp s p.id) p 13 (unitToken p) (fun h => h) else s

/-- The tokens of the block's commands whose pens have flipped leave in block order (R339). -/
def emitBlock (s : State) (o : Op) : State :=
  (s.ops.filter (fun p => isUnit p.kind && sameBlock p o && p.phase == .done && (opPens p).all (penFree s p))).foldl unitEmit s

/-- The pens of a finished command flip back, and tokens leave (R339). -/
def settleBlock (s : State) (o : Op) : State :=
  emitBlock ((opPens o).foldl (fun s n => if penFree s o n then flipBack s o.tile n else s) s) o

/-- The command is applied. -/
def unitDone (s : State) (o : Op) : State := settleBlock (setOp s { o with phase := .done }) o

/-- The command stops (R341). -/
def unitFail (s : State) (o : Op) (cause detail addr : Nat) : State := settleBlock (failOp s o cause detail addr) o

/-- No GIVE of the command's pens is still to be performed. -/
def pensGiven (s : State) (o : Op) : Bool := (opPens o).all (fun n => (giveOf s o n).isNone)

/-- The command's first pen operand whose pen is not its unit's (R54). -/
def foreignPen (s : State) (o : Op) : Option Nat :=
  (opPaddrs o).find? (fun a => !(penAt s o.tile (penOf a)).elim false (fun p => p.own && p.eng == unitEng o.kind))

/-- A command is applied: one whose pen is not its unit's completes with OWN_VIOL (R54), else the words of its pens that it reads lose their
single-bit errors (R82) and it has its effect. -/
def unitApply (s : State) (o : Op) (reads : List (Nat × Nat)) (effect : State → State) : State :=
  match foreignPen s o with
  | some a => unitFail s o causeOwnViol 0 a
  | none => effect (reads.foldl (fun s r => fixPen s o.tile r.1 r.2) s)

/-- R342: flags of an applied entry go to the issuing tile's copy for its context. -/
def orAstat (s : State) (tile rank c : Nat) (f : Astat) : State :=
  if f = 0 then s else { s with astat := sset s.astat (ctxKey tile rank c) (sgetD s.astat (ctxKey tile rank c) 0 ||| f) }

/-- R341: ERES gives the pens again that have flipped back, and replays the entry from its start, in its place in release order. A pen that
another command of the block still holds has not flipped (R339). -/
def replayUnit (s : State) (o : Op) : State :=
  let flipped := (dedup (opPens o)).filter (penFree s o)
  let s := setOp s { o with phase := .queued, n := 0, cause := 0, detail := 0, addr := 0 }
  flipped.foldl (fun s n =>
    addOp s { o with kind := .give n (unitEng o.kind), port := none, phase := .queued, lanes := [], n := o.id }) s

/-- The word of a pen at an offset; 0 where an error stands, which the caller has ruled out. -/
def penWord (s : State) (tile pen off : Nat) : Word := BitVec.ofNat 32 ((sramRead s (penByte s tile pen off) 4).getD 0)

/-- Whether bytes of a pen can be read. -/
def penGood (s : State) (tile pen off n : Nat) : Bool := (sramRead s (penByte s tile pen off) n).isSome

def setPenWord (s : State) (tile pen off : Nat) (w : Word) : State := sramWrite s (penByte s tile pen off) 4 w.toNat

end Sys2Proof.Machine
end

