-- ==== Sys2Proof/Machine/RowUnits.lean ====
section
/-! DEFINITION. The row normaliser and the bridle unit: NCFG, BRCFG, REINLD, PRBLD, rows, probes and reins (R358 to R367, R379). -/

namespace Sys2Proof.Machine

def noCfg : RowCfg :=
  { en := false, mode := 0, len := 1, eps := 0, dest := { tile := 0, elem := 0, vc := 0, slot := 0 }, nprobe := 0, ptb := 0, rb := 0,
    hits := 0, rows := 0, steered := 0, cword := 0 }

def normCfg (s : State) (tile k : Nat) : RowCfg := sgetD s.rws.ncfg (tile * 4 + k) noCfg
def bridleCfg (s : State) (tile k : Nat) : RowCfg := sgetD s.rws.brcfg (tile * 4 + k) noCfg
def setNorm (s : State) (tile k : Nat) (c : RowCfg) : State := { s with rws := { s.rws with ncfg := sset s.rws.ncfg (tile * 4 + k) c } }
def setBridle (s : State) (tile k : Nat) (c : RowCfg) : State := { s with rws := { s.rws with brcfg := sset s.rws.brcfg (tile * 4 + k) c } }

/-- R189: the SLOT bits that a unit's destination may set; `elems` are the elements allowed. -/
def destOk (elems : List Nat) (w : Nat) : Bool :=
  let d := destOfWord w
  w % 512 == 0 && elems.contains d.elem &&
    (if d.elem = 1 || d.elem = 2 then decide (d.slot < 4) else if d.elem = 5 then decide (d.slot < 64) else true)

def finite32 (w : Nat) : Bool := !(num32 (BitVec.ofNat 32 w)).isNan && !(num32 (BitVec.ofNat 32 w)).isInf

/-! Configuration. -/

/-- NCFG (R358). -/
def execNcfg (a : Src) (t : Target) (s : State) : Result :=
  runTask (fun s τ => do
    check (srcOk τ a) causeBadSource
    let n ← portOrDiscard s τ t
    let v := readSrc τ false a
    match ← vectorOf τ v 4 [] with
    | none => .ok (τ.advance 1)
    | some ws => do
      let w (k : Nat) : Nat := ws.getD k 0
      field (decide (w 0 < 16) && w 0 % 4 != 3 && decide (1 ≤ w 1) && decide (w 1 ≤ 16384) && finite32 (w 2) && decide (w 2 < 2 ^ 31) &&
        destOk [0, 2, 5] (w 3))
      .ok ((τ.enter (mkOp s τ .ncfg n (validLanes τ v) noLanes [])).advance 1)) s

/-- NCFG's configuration, at commit. -/
def commitNcfg (s : State) (o : Op) : State :=
  let w0 := wordA o 0
  let c : RowCfg := { noCfg with en := true, mode := w0 % 4, len := wordA o 1, eps := BitVec.ofNat 32 (wordA o 2), dest := destOfWord (wordA o 3) }
  setNorm s o.tile (w0 / 4 % 4) c

/-- PSTR (R361). -/
def probeStride (len : Nat) : Nat := 16 * ((16 + 2 * len + 15) / 16)

/-- BRCFG (R361): what a user context may not set stays. A user's NPROBE or PTB that is not 0 reaches an SV field and raises PRIV (R7), behind the
field checks (log entry 56). -/
def execBrcfg (a : Src) (t : Target) (s : State) : Result :=
  runTask (fun s τ => do
    check (srcOk τ a) causeBadSource
    let n ← portOrDiscard s τ t
    let v := readSrc τ false a
    match ← vectorOf τ v 8 [] with
    | none => .ok (τ.advance 1)
    | some ws => do
      let w (k : Nat) : Nat := ws.getD k 0
      let np := bits (w 0) 4 5
      let old := bridleCfg s s.occ.a (w 0 % 4)
      field (decide (w 0 < 512) && decide (np ≤ 16) && decide (1 ≤ w 1) && decide (w 1 ≤ 16384) && destOk [0, 1, 5] (w 3) &&
        decide (w 4 < 2 ^ 14) && decide (w 5 < 2 ^ 16) && w 6 == 0 && w 7 == 0 && decide (w 4 * 16 + np * probeStride (w 1) ≤ 262144) &&
        decide (w 5 * 16 + 128 * w 1 ≤ 1048576))
      check (supervisor τ || np == 0 && w 4 == 0 && (old.nprobe == 0 || old.len == w 1)) causePriv
      .ok ((τ.enter (mkOp s τ .brcfg n (validLanes τ v) noLanes [])).advance 1)) s

/-- BRCFG's configuration, at commit; a user's leaves NPROBE and PTB. -/
def commitBrcfg (s : State) (o : Op) : State :=
  let w0 := wordA o 0
  let pt := w0 % 4
  let old := bridleCfg s o.tile pt
  let sv := o.cx.asid == 0
  let np := if sv then bits w0 4 5 else old.nprobe
  let c : RowCfg := { old with
    en := bit w0 3, mode := bits w0 2 1, len := wordA o 1, eps := BitVec.ofNat 32 (wordA o 2), dest := destOfWord (wordA o 3), nprobe := np,
    ptb := if sv then wordA o 4 else old.ptb, rb := wordA o 5, cword := BitVec.ofNat 32 (w0 % 16 + np * 16) }
  setBridle s o.tile pt c

/-- BRCFG.STAT (R366); where no lane executes it writes nothing, but its target counts as targeted (R179). -/
def execBrcfgStat (a : Src) (t : Target) (s : State) : Result :=
  runBody (fun s τ => do
    operands s τ [a] t
    match ← lane0 τ (readSrc τ false a) [] with
    | none => do
      let τ' ← finish s τ t noLanes
      .ok (s, τ')
    | some v => do
      field (decide (v.toNat < 4))
      let c := bridleCfg s s.occ.a v.toNat
      let ws := [BitVec.ofNat 32 c.hits, c.rows, c.steered, c.cword]
      let s' := setBridle s s.occ.a v.toNat { c with hits := 0 }
      let τ' ← finish s' τ t (lanesOf (ws.take τ.w))
      .ok (s', τ')) s

/-- REINLD (R364). -/
def execReinld (a b : Src) (t : Target) (s : State) : Result :=
  runTask (fun s τ => do
    check (srcOk τ a && srcOk τ b) causeBadSource
    let n ← portOrDiscard s τ t
    let v := readSrc τ false a
    let y := readSrc τ true b
    match ← lane0 τ y [v] with
    | none => .ok (τ.advance 1)
    | some ctl => do
      field (decide (ctl.toNat < 512))
      let o := mkOp s τ .reinld n (validLanes τ v) (lanesOf [ctl]) []
      if bit ctl.toNat 8 then .ok ((τ.enter o).advance 1)
      else
        match laneOf v 0 with
        | none => stop causeBadSource 0
        | some p => do
          unitPen s τ p.toNat (2 * (bridleCfg s s.occ.a (ctl.toNat % 4)).len) 7
          .ok (((τ.consume (penOf p.toNat) 7).enter o).advance 1)) s

/-- PRBLD (R379): privileged. -/
def execPrbld (a b : Src) (t : Target) (s : State) : Result :=
  runTask (fun s τ => do
    privileged τ
    check (srcOk τ a && srcOk τ b) causeBadSource
    let n ← portOrDiscard s τ t
    let v := readSrc τ false a
    let y := readSrc τ true b
    match ← lane0 τ v [y] with
    | none => .ok (τ.advance 1)
    | some p =>
      match laneOf y 0, laneOf y 1 with
      | some off, some cnt => do
        field (decide (off.toNat < 2 ^ 14) && cnt.toNat % 16 == 0 && decide (16 ≤ cnt.toNat) && decide (cnt.toNat ≤ 262144) &&
          decide (off.toNat * 16 + cnt.toNat ≤ 262144))
        unitPen s τ p.toNat cnt.toNat 7
        .ok (((τ.consume (penOf p.toNat) 7).enter (mkOp s τ .prbld n (validLanes τ v) (lanesOf [off, cnt]) [])).advance 1)
      | _, _ => stop causeBadSource 0) s

/-! Loading the tables. -/

/-- Writes the low `n` bytes of a number into the rein rows. -/
def writeRein (s : State) (a n v : Nat) : State := { s with mem := { s.mem with rein := mwrite s.mem.rein a n v } }

/-- Writes the low `n` bytes of a number into the probe rows. -/
def writeProbe (s : State) (a n v : Nat) : State := { s with mem := { s.mem with probe := mwrite s.mem.probe a n v } }

/-- The occasion's command of the tile, while it is queued and its GIVEs are performed. -/
def unitTurn (s : State) (want : OpKind → Bool) : Option Op :=
  match opById s s.occ.b with
  | some o => if o.tile == s.occ.a && o.phase == .queued && o.tid == 0 && want o.kind && pensGiven s o then some o else none
  | none => none

def reinKey (tile pt slot : Nat) : Nat := (tile * 4 + pt) * 64 + slot

/-- REINLD_APPLY (R364). -/
def execReinldApply (s : State) : Result :=
  match unitTurn s (fun k => k == .reinld) with
  | none => .next s
  | some o =>
    let pt := wordB o 0 % 4
    let slot := bits (wordB o 0) 2 6
    let k := reinKey o.tile pt slot
    let pen := penOf (wordA o 0)
    let off := offOf (wordA o 0)
    let c := bridleCfg s o.tile pt
    let other := (sget s.rws.reins k).elim false (fun r => r.asid != o.cx.asid)
    if other then .next (unitFail s o causeEngine 0x25 (wordA o 0))
    else if bit (wordB o 0) 8 then .next (unitDone { s with rws := { s.rws with reins := sdel s.rws.reins k } } o)
    else
      .next (unitApply s o [(wordA o 0, 2 * c.len)] (fun s =>
        match penReach s o.tile o.cx.asid pen off (2 * c.len), sramRead s (penByte s o.tile pen off) (2 * c.len) with
        | some (cause, d), _ => unitFail s o cause d (wordA o 0)
        | none, none => unitFail s o causeMemUe 0 (wordA o 0)
        | none, some v =>
          let s := writeRein s (o.tile * 2 ^ 20 + c.rb * 16 + slot * 2 * c.len) (2 * c.len) v
          unitDone { s with rws := { s.rws with reins := sset s.rws.reins k { asid := o.cx.asid, seq := o.cx.seq } } } o))

/-- PRBLD_APPLY (R379). -/
def execPrbldApply (s : State) : Result :=
  match unitTurn s (fun k => k == .prbld) with
  | none => .next s
  | some o =>
    let n := wordB o 1
    .next (unitApply s o [(wordA o 0, n)] (fun s =>
      match penRead s o.tile (wordA o 0) n with
      | none => unitFail s o causeMemUe 0 (wordA o 0)
      | some v => unitDone (writeProbe s (o.tile * 2 ^ 18 + wordB o 0 * 16) n v) o))

/-! Sums over a row (R360). -/

/-- Lanes of the segments of a row in ascending SEG. -/
abbrev RowLanes := List Lanes

def mapRow (x : RowLanes) (f : Word → Word × Astat) : List FLanes := x.map (fun v => v.map (fun w => w.map f))

def rowFlags (x : List FLanes) : Astat := x.foldl (fun acc v => acc ||| orFlags v) 0
def rowValues (x : List FLanes) : RowLanes := x.map valuesOf

/-- `segsum`: the tree within a segment, then serially over the segments. -/
def segsum (x : RowLanes) : Word × Astat :=
  let one (v : Lanes) : Option (Word × Astat) := treeSum 5 (v.map (fun w => w.map (fun y => (y, 0))))
  (x.foldl (fun (acc : Option (Word × Astat)) v =>
    match acc, one v with
    | none, r => r
    | some a, none => some a
    | some (a, f), some (b, g) => some ((add32 a b).1, f ||| g ||| (add32 a b).2)) none).getD (0, 0)

def rowCount (x : RowLanes) : Nat := x.foldl (fun n v => n + (v.filter (·.isSome)).length) 0

def wordOfNat (n : Nat) : Word := (rne32 (.fin false n 0 false)).1

def negInf : Word := 0xFF800000

/-- SOFTMAX. -/
def softmaxRow (x : RowLanes) : RowLanes × Astat :=
  let m := (x.flatten.filterMap id).foldl (fun (acc : Option Word) w => some (acc.elim w (fun a => fmax32 a w))) none
  match m with
  | none => (x, 0)
  | some m =>
    if m = negInf then (x.map (fun v => v.map (fun w => w.map (fun _ => 0))), 0)
    else if (num32 m).isNan then (x.map (fun v => v.map (fun w => w.map (fun y => if y = negInf then 0 else nan32))), 0)
    else
      let e := mapRow x (fun w => let d := sub32 w m
                                  let r := ex2 d.1
                                  (r.1, d.2 ||| r.2))
      let sum := segsum (rowValues e)
      let y := mapRow (rowValues e) (fun w => div32 w sum.1)
      (rowValues y, rowFlags e ||| sum.2 ||| rowFlags y)

/-- `RSQ(rne32(FDIV(segsum(rne32(d × d)), n) + EPS))`. -/
def rootMean (x : RowLanes) (n eps : Word) : Word × Astat :=
  let sq := mapRow x (fun w => mul32 w w)
  let sum := segsum (rowValues sq)
  let q := div32 sum.1 n
  let z := add32 q.1 eps
  let r := sfu 3 z.1
  (r.1, rowFlags sq ||| sum.2 ||| q.2 ||| z.2 ||| r.2)

/-- RMS. -/
def rmsRow (x : RowLanes) (eps : Word) : RowLanes × Astat :=
  let r := rootMean x (wordOfNat (rowCount x)) eps
  let y := mapRow x (fun w => mul32 w r.1)
  (rowValues y, r.2 ||| rowFlags y)

/-- LAYER. -/
def layerRow (x : RowLanes) (eps : Word) : RowLanes × Astat :=
  let n := wordOfNat (rowCount x)
  let sum := segsum x
  let mu := div32 sum.1 n
  let d := mapRow x (fun w => sub32 w mu.1)
  let r := rootMean (rowValues d) n eps
  let y := mapRow (rowValues d) (fun w => mul32 w r.1)
  (rowValues y, sum.2 ||| mu.2 ||| rowFlags d ||| r.2 ||| rowFlags y)

def normRow (c : RowCfg) (x : RowLanes) : RowLanes × Astat :=
  if c.mode = 0 then softmaxRow x else if c.mode = 1 then rmsRow x c.eps else layerRow x c.eps

/-! Rows (R359). -/

def rowOf (s : State) (unit tile rank c i sel : Nat) : Option Row :=
  s.rws.rows.find? (fun r => r.unit == unit && r.tile == tile && r.rank == rank && r.ctx == c && r.iter == i && r.sel == sel)

def setRow (s : State) (r : Row) : State := { s with rws := { s.rws with rows := s.rws.rows.map (fun (x : Row) => if x.id == r.id then r else x) } }
def dropRow (s : State) (id : Nat) : State := { s with rws := { s.rws with rows := s.rws.rows.filter (·.id != id) } }

/-- Elements of a unit's buffer in use. -/
def bufferLoad (s : State) (unit tile : Nat) : Nat :=
  (s.rws.rows.filter (fun r => r.unit == unit && r.tile == tile && !r.withdrawn)).foldl (fun n r => n + r.len) 0

/-- A segment with EOR and every lower segment are there. -/
def rowComplete (r : Row) : Bool :=
  r.segs.any (fun p => p.2.hdr.eor && (upto p.1).all (fun k => (sget r.segs k).isSome))

/-- Raises a row's fault: the row is held with its frame, or is gone where the frame is not live (R406). -/
def raiseRow (s : State) (r : Row) (cause detail addr : Nat) : State :=
  let live := frameLive s r.tile r.rank r.ctx r.iter && s.dev.pv
  let rec_ := { bareRecord (ltileOf s r.tile r.rank) cause detail addr with framed := true, ctx := r.ctx, iter := r.iter, rank := r.rank, row := r.id }
  let s := if live then moveRow (setRow s { r with held := true, faulted := true }) r.id else dropRow s r.id
  raiseOn s r.tile rec_

/-- Releases a row's segments to its destination in ascending SEG. -/
def releaseRow (s : State) (r : Row) (elem : Nat) (x : RowLanes) (h : Header → Header) : State :=
  let toks := (r.segs.map (·.2)).zip x
  toks.foldl (fun s p => addOut s r.tile elem { hdr := h p.1.hdr, lanes := p.2 } [r.conf.dest]) (dropRow s r.id)

/-- A complete row of the normaliser (R360). -/
def finishNorm (s : State) (r : Row) : State :=
  let y := normRow r.conf (r.segs.map (·.2.lanes))
  orAstat (releaseRow s r 10 y.1 (fun h => { h with nrm := true })) r.tile r.rank r.ctx y.2

/-- BF16 element `i` of a record in a table. -/
def tableElem (m : List Host.Cell) (a i : Nat) : Num × Astat := readNum .bf16 (mread m (a + 2 * i) 2)

/-- The score of a probe (R363). -/
def probeScore (s : State) (r : Row) (k : Nat) : Word × Astat :=
  let a := r.tile * 2 ^ 18 + r.conf.ptb * 16 + k * probeStride r.conf.len
  let prod (seg l : Nat) (x : Word) : Word × Astat :=
    let w := tableElem s.mem.probe (a + 16) (seg * r.w + l)
    let z := roundOf fpF32 .rne false (numMul (num32 x) w.1)
    (BitVec.ofNat 32 z.1, z.2 ||| w.2)
  let p : List FLanes := r.segs.map (fun sg => (upto 32).map (fun l => (laneOf sg.2.lanes l).map (prod sg.1 l)))
  let sum := segsum (rowValues p)
  let sc := add32 sum.1 (BitVec.ofNat 32 (mread s.mem.probe (a + 4) 4))
  (sc.1, rowFlags p ||| sum.2 ||| sc.2)

/-- Whether probe `k` is enabled, whether it hits, and its flags. -/
def probeHit (s : State) (r : Row) (k : Nat) : Bool × Astat :=
  let a := r.tile * 2 ^ 18 + r.conf.ptb * 16 + k * probeStride r.conf.len
  let ctl := mread s.mem.probe (a + 8) 4
  if !bit ctl 1 then (false, 0)
  else
    let sc := probeScore s r k
    let x := num32 sc.1
    let t := num32 (BitVec.ofNat 32 (mread s.mem.probe a 4))
    (x.isNan || (if bit ctl 0 then numLt x t else numLt t x), sc.2)

/-- The rein slot that a row matches (R362, R363). -/
def reinFor (s : State) (r : Row) : Option Nat :=
  match ctxOf s r.ctx with
  | none => none
  | some c => (upto 64).find? (fun k => (sget s.rws.reins (reinKey r.tile r.sel k)).elim false (fun x => x.asid == c.asid && x.seq == c.seq))

/-- Step 4 of R363. -/
def steerRow (s : State) (r : Row) : State :=
  match reinFor s r with
  | none => releaseRow s r 11 (r.segs.map (·.2.lanes)) (fun h => h)
  | some k =>
    let a := r.tile * 2 ^ 20 + r.conf.rb * 16 + k * 2 * r.conf.len
    let one (seg l : Nat) (x : Word) : Word × Astat :=
      let w := tableElem s.mem.rein a (seg * r.w + l)
      let z := roundOf fpF32 .rne false (numMul (num32 r.conf.eps) w.1)
      let y := add32 x (BitVec.ofNat 32 z.1)
      (y.1, w.2 ||| z.2 ||| y.2)
    let p : List FLanes := r.segs.map (fun sg => (upto 32).map (fun l => (laneOf sg.2.lanes l).map (one sg.1 l)))
    let c := bridleCfg s r.tile r.sel
    let s := setBridle s r.tile r.sel { c with steered := c.steered + 1 }
    orAstat (releaseRow s r 11 (rowValues p) (fun h => { h with str := true })) r.tile r.rank r.ctx (rowFlags p)

/-- A complete row of the bridle unit (R363). -/
def finishBridle (s : State) (r : Row) : State :=
  if r.segs.any (fun p => p.2.hdr.nrm != (r.conf.mode == 1)) then raiseRow s r causeTapOrder 0 r.sel
  else
    let hs := (upto r.conf.nprobe).map (fun k => (k, probeHit s r k))
    let mask := hs.foldl (fun n p => if p.2.1 then n + 2 ^ p.1 else n) 0
    let c := bridleCfg s r.tile r.sel
    let s := setBridle s r.tile r.sel { c with rows := c.rows + 1, hits := c.hits ||| mask }
    let s := orAstat s r.tile r.rank r.ctx (hs.foldl (fun acc p => acc ||| p.2.2) 0)
    if mask != 0 then raiseRow s r causeProbeHit 0 (mask + r.sel * 2 ^ 16) else steerRow s r

def unitCfg (s : State) (unit tile sel : Nat) : RowCfg := if unit = 0 then normCfg s tile sel else bridleCfg s tile sel

/-- What becomes of a row with its segments: a fault, which `bad` says of a segment (R358, R359), its completion, or a wait. -/
def judgeRow (s : State) (r : Row) (bad : Bool) : State :=
  if !r.conf.en then raiseRow s r causeEngine 0x24 r.sel
  else if bad then raiseRow s r causeEngine 0x23 r.sel
  else if rowComplete r then (if r.unit = 0 then finishNorm s r else finishBridle s r)
  else s

/-- What becomes of a segment at a unit: its row after it, or a wait. -/
def segmentIn (s : State) (unit tile rank sel : Nat) (t : Token) : Option State :=
  let h := t.hdr
  let w := h.wm1 + 1
  let conf := unitCfg s unit tile sel
  let put (s : State) (r : Row) : State := judgeRow s r (decide (r.conf.len < (h.seg + 1) * w) || r.w != w)
  if !faultRoom s tile rank h.ctx h.iter then none
  else
    match rowOf s unit tile rank h.ctx h.iter sel with
    | some r =>
      if r.held || r.again || rowComplete r || (sget r.segs h.seg).isSome then none
      else
        let r := { r with segs := sset r.segs h.seg t }
        some (put (setRow s r) r)
    | none =>
      if conf.en && decide (16384 < bufferLoad s unit tile + conf.len) then none
      else
        let r : Row := { id := s.nextId, tile := tile, rank := rank, unit := unit, ctx := h.ctx, iter := h.iter, sel := sel, len := conf.len, w := w,
                         conf := conf, segs := [(h.seg, t)], held := false, withdrawn := false, place := 0, again := false, faulted := false }
        some (put { s with nextId := s.nextId + 1, rws := { s.rws with rows := s.rws.rows ++ [r] } } r)

/-- A row is read from the row area, whose single-bit errors are corrected (R88, R403). -/
def fetchRow (s : State) (r : Row) : State × Row :=
  if r.withdrawn then (correctAt s (rowArea s r.tile + r.place) (4 * rowElems r), areaRow s r) else (s, r)

/-- A row that comes back from its park (R360, R402): its segments are processed from admission, under the configuration in force and
in ascending SEG, once LEN elements are free. A segment that breaks it holds all of them again. -/
def readmit (s : State) (r : Row) : State :=
  let conf := unitCfg s r.unit r.tile r.sel
  let load := bufferLoad s r.unit r.tile - (if r.withdrawn then 0 else r.len)
  if !faultRoom s r.tile r.rank r.ctx r.iter || conf.en && decide (16384 < load + conf.len) then s
  else
    let (s, r) := fetchRow s r
    let w := (r.segs.head?.elim r.w (·.2.hdr.wm1 + 1))
    let r := { r with len := conf.len, w := w, conf := conf, withdrawn := false, again := false }
    judgeRow (moveRows (setRow s r) r.tile) r (r.segs.any (fun p => decide (conf.len < (p.1 + 1) * w) || p.2.hdr.wm1 + 1 != w))

/-- A segment's arrival at a unit, or the return of a row to it. -/
def segmentTurn (s : State) (unit : Nat) : State :=
  match s.rws.rows.find? (fun r => r.id == s.occ.a && r.unit == unit && r.again) with
  | some r => readmit s r
  | none =>
    match arriving s (fun f => f.dest.elem == unit + 1 && !f.tok.hdr.can) with
    | none => s
    | some f => (segmentIn (acceptFlight s f) unit f.tile f.rank (f.dest.slot % 4) f.tok).getD (refuseFlight s f)

/-- NORMALISER_SEGMENT (R359, R360). -/
def execNormaliserSegment (s : State) : Result := .next (segmentTurn s 0)

/-- BRIDLE_SEGMENT (R359, R363). -/
def execBridleSegment (s : State) : Result := .next (segmentTurn s 1)

/-- R360, R363: ERES of a row: its segments are processed again from admission, or the held row is released through step 4. -/
def resumeRow (s : State) (id cause : Nat) : State :=
  match s.rws.rows.find? (·.id == id) with
  | none => s
  | some r =>
    if cause = causeProbeHit || cause = causeTapOrder then moveRows (steerRow (fetchRow s r).1 (fetchRow s r).2) r.tile
    else setRow s { r with held := false, again := true, faulted := false }

/-- The other rows of a frame leave the park area with it (R374): they wait for their admission. -/
def returnRows (s : State) (tile rank c i : Nat) : State :=
  { s with rws := { s.rws with rows := s.rws.rows.map (fun (r : Row) =>
    if r.tile == tile && r.rank == rank && r.ctx == c && r.iter == i && r.held && !r.faulted then { r with held := false, again := true } else r) } }

end Sys2Proof.Machine
end

