-- ==== Sys2Proof/Machine/Island.lean ====
section
/-! DEFINITION. The matrix island: MMA, MZERO, MLDA, ETLD and MDRN, its operation queue and NEXT counters, and TACC rows (R78 to R81,
R328, R338 to R352, R461). -/

namespace Sys2Proof.Machine

/-! Issue. -/

/-- Formats of A and B (R344); `none` is INT8. -/
def pairFmts : Pair → Option Fmt × Option Fmt
  | .bf16 => (some .bf16, some .bf16)
  | .f16 => (some .f16, some .f16)
  | .e4e4 => (some .e4m3, some .e4m3)
  | .e4e5 => (some .e4m3, some .e5m2)
  | .e5e4 => (some .e5m2, some .e4m3)
  | .e5e5 => (some .e5m2, some .e5m2)
  | .fp4 => (some .e2m1, some .e2m1)
  | .cb2e4 => (some .cb2, some .e4m3)
  | .cb2bf => (some .cb2, some .bf16)
  | .i8 => (none, none)

def elemWidth (f : Option Fmt) : Nat := f.elim 8 fmtWidth

/-- Pairs that CH = 1 takes (R345). -/
def chainable : Pair → Bool
  | .fp4 => false
  | .cb2e4 => false
  | .cb2bf => false
  | .i8 => false
  | _ => true

/-- The format of a scale code (R127). -/
def scaleFmt (c : Nat) : Fmt := if c = 3 then .e4m3 else if c = 4 then .e5m2 else .e8m0

/-- An MMA's parameters (R345). -/
structure MmaForm where
  acc : Nat
  kb : Nat
  csrc : Nat
  crs : Bool
  sfmt : Nat
  sc : Bool
  m : Nat
  n : Nat
  k : Nat
  astr : Nat
  bstr : Nat

def mmaForm (w : Nat → Nat) : MmaForm :=
  { acc := bits (w 2) 0 4, kb := 8 * 2 ^ bits (w 2) 4 2, csrc := bits (w 2) 6 4, crs := bit (w 2) 10, sfmt := bits (w 2) 11 4, sc := bit (w 2) 15,
    m := bits (w 3) 0 6 + 1, n := bits (w 3) 8 6 + 1, k := bits (w 3) 16 13, astr := w 4, bstr := w 5 }

/-- Bytes of a stored row of `n` elements of `b` bits, and the dense stride (R346). -/
def rowBytes (n b : Nat) : Nat := (n * b + 7) / 8
def denseStride (n b : Nat) : Nat := (n * b + 31) / 32 * 4
def strideOf (str n b : Nat) : Nat := if str = 0 then denseStride n b else str

/-- Bytes that `rows` rows of `n` elements touch. -/
def extent (rows n b str : Nat) : Nat := (rows - 1) * strideOf str n b + rowBytes n b

/-- Rows and elements (or CB2 groups) of an operand as it is stored. -/
def storedA (f : MmaForm) (pr : Pair) (ta : Bool) : Nat × Nat :=
  let k := if (pairFmts pr).1 = some .cb2 then f.k / 8 else f.k
  if ta then (k, f.m) else (f.m, k)
def storedB (f : MmaForm) (tb : Bool) : Nat × Nat := if tb then (f.n, f.k) else (f.k, f.n)

/-- MMA (R344, R345). -/
def execMma (a : Src) (pr : Pair) (ta tb chn : Bool) (t : Target) (s : State) : Result :=
  runTask (fun s τ => do
    check (!chn || chainable pr) causeIllOp
    check (srcOk τ a) causeBadSource
    let n ← portOrDiscard s τ t
    let v := readSrc τ false a
    match ← vectorOf τ v 8 [] with
    | none => .ok (τ.advance 1)
    | some ws => do
      let w (k : Nat) : Nat := ws.getD k 0
      let f := mmaForm w
      field (decide (w 2 < 2 ^ 16) && bits (w 3) 29 3 == 0 && bits (w 3) 14 2 == 0 && bits (w 3) 6 2 == 0 && w 7 == 0 &&
        (!chn || w 0 == 0) && (chn || f.csrc == 0) && (f.sc || w 6 == 0) && f.astr % 4 == 0 && f.bstr % 4 == 0)
      field (decide (f.kb ≤ f.k) && decide (f.k ≤ 4096) && f.k % f.kb == 0)
      field (if f.sc then f.sfmt == 3 || f.sfmt == 4 || f.sfmt == 7 else f.sfmt == 0)
      field (!chn || decide (f.k ≤ 64) && f.csrc != f.acc)
      field (w 0 % 4 == 0 && w 1 % 4 == 0 && w 6 % 4 == 0)
      let sa := storedA f pr ta
      let sb := storedB f tb
      if chn then pure () else unitPen s τ (w 0) (extent sa.1 sa.2 (elemWidth (pairFmts pr).1) f.astr) 5
      unitPen s τ (w 1) (extent sb.1 sb.2 (elemWidth (pairFmts pr).2) f.bstr) 5
      if f.sc then unitPen s τ (w 6) ((f.m + f.n) * (f.k / f.kb)) 5 else pure ()
      let o := mkOp s τ (.mma pr ta tb chn) n (validLanes τ v) noLanes []
      let τ := (opPens o).foldl (fun τ p => τ.consume p 5) τ
      .ok ((τ.enter o).advance 1)) s

/-- MZERO (R349). -/
def execMzero (a : Src) (t : Target) (s : State) : Result :=
  runTask (fun s τ => do
    check (srcOk τ a) causeBadSource
    let n ← portOrDiscard s τ t
    let v := readSrc τ false a
    match ← lane0 τ v [] with
    | none => .ok (τ.advance 1)
    | some ctl => do
      field (bits ctl.toNat 4 12 == 0)
      .ok ((τ.enter (mkOp s τ .mzero n (validLanes τ v) noLanes [])).advance 1)) s

/-- MLDA (R349). -/
def execMlda (a b : Src) (t : Target) (s : State) : Result :=
  runTask (fun s τ => do
    check (srcOk τ a && srcOk τ b) causeBadSource
    let n ← portOrDiscard s τ t
    let v := readSrc τ false a
    match ← lane0 τ v [readSrc τ true b] with
    | none => .ok (τ.advance 1)
    | some p =>
      match laneOf (readSrc τ true b) 0 with
      | none => stop causeBadSource 0
      | some ctl => do
        field (bits ctl.toNat 4 12 == 0)
        unitPen s τ p.toNat 16384 5
        .ok (((τ.consume (penOf p.toNat) 5).enter (mkOp s τ .mlda n (validLanes τ v) (lanesOf [ctl]) [])).advance 1)) s

/-- ETLD (R350). -/
def execEtld (a b : Src) (t : Target) (s : State) : Result :=
  runTask (fun s τ => do
    check (srcOk τ a && srcOk τ b) causeBadSource
    let n ← portOrDiscard s τ t
    let v := readSrc τ false a
    match ← lane0 τ v [readSrc τ true b] with
    | none => .ok (τ.advance 1)
    | some p =>
      match ← vectorOf τ (readSrc τ true b) 3 [v] with
      | none => .ok (τ.advance 1)
      | some ws => do
        let w (k : Nat) : Nat := ws.getD k 0
        let first := bits (w 0) 0 8
        let cnt := bits (w 0) 8 9
        field (decide (w 0 < 2 ^ 17) && decide (1 ≤ cnt) && decide (cnt ≤ 256) && decide (first + cnt ≤ 256) && finite32 (w 1) && finite32 (w 2) &&
          numLt (.fin false 0 0 false) (num32 (BitVec.ofNat 32 (w 2))))
        unitPen s τ p.toNat (8 * cnt) 5
        .ok (((τ.consume (penOf p.toNat) 5).enter (mkOp s τ .etld n (validLanes τ v) (lanesOf (ws.map (BitVec.ofNat 32))) [])).advance 1)) s

/-- The output format of a code (R351). -/
def outFmt (c : Nat) : Fmt :=
  if c = 1 then .bf16 else if c = 2 then .f16 else if c = 3 then .e4m3 else if c = 4 then .e5m2 else if c = 5 then .e2m1 else .f32

/-- MDRN (R351). Without RQ an OFMT of 1 to 5 is a field marked zero and raises BAD_SOURCE (R343); an OFMT of 6 to 15 is no format and raises ILL_OP
(R117). Which of the two the first case raises is the model's choice (log entry 73). -/
def execMdrn (a : Src) (bias act rq amx tr : Bool) (t : Target) (s : State) : Result :=
  runTask (fun s τ => do
    check (srcOk τ a) causeBadSource
    let n ← portOrDiscard s τ t
    let v := readSrc τ false a
    match ← vectorOf τ v 8 [] with
    | none => .ok (τ.advance 1)
    | some ws => do
      let w (k : Nat) : Nat := ws.getD k 0
      let fm := bits (w 2) 0 4
      let m := bits (w 1) 4 6 + 1
      let nc := bits (w 1) 10 6 + 1
      check (decide (fm ≤ 5)) causeIllOp
      field (decide (w 1 < 2 ^ 16) && decide (w 2 < 2 ^ 12) && decide (bits (w 2) 4 3 ≤ 5) && (rq || fm == 0) && w 4 % 4 == 0 &&
        (bias || w 5 == 0) && w 6 == 0 && w 7 == 0)
      unitPen s τ (w 0) (if tr then extent nc m (fmtWidth (outFmt fm)) (w 4) else extent m nc (fmtWidth (outFmt fm)) (w 4)) 5
      if bias then unitPen s τ (w 5) (4 * nc) 5 else pure ()
      let o := mkOp s τ (.mdrn bias act rq amx tr) n (validLanes τ v) noLanes []
      let τ := (opPens o).foldl (fun τ p => τ.consume p 5) τ
      .ok ((τ.enter o).advance 1)) s

/-! The operation queue (R340). -/

/-- Entries of the operation queue. -/
def isQueueOp : OpKind → Bool
  | .mma _ _ _ _ => true
  | .mzero => true
  | .mlda => true
  | .mdrn _ _ _ _ _ => true
  | .etld => true
  | _ => false

/-- The accumulator tile an entry names; 16 for ETLD. -/
def accOf (o : Op) : Nat :=
  match o.kind with
  | .mma _ _ _ _ => bits (wordA o 2) 0 4
  | .mzero => bits (wordA o 0) 0 4
  | .mlda => bits (wordB o 0) 0 4
  | .mdrn _ _ _ _ _ => bits (wordA o 1) 0 4
  | _ => 16

def nextOf (s : State) (tile a : Nat) : Nat := sgetD s.isl.next (tile * 16 + a) 0
def setNext (s : State) (tile a v : Nat) : State := { s with isl := { s.isl with next := sset s.isl.next (tile * 16 + a) v } }

/-- Entries of a tile that were released before an operation and have not been applied. -/
def earlierOps (s : State) (o : Op) : List Op :=
  s.ops.filter (fun p => p.tile == o.tile && isQueueOp p.kind && (decide (p.id < o.id) || o.id == 0) && p.tid == 0 && p.phase != .done && !lateMma p)

/-- An earlier entry for the same accumulator tile has failed and awaits ERES or EKILL (R341). -/
def behindFailed (s : State) (o : Op) : Bool := (earlierOps s o).any (fun p => isMma p.kind && stopped p && accOf p == accOf o)

/-- R340. -/
def applicable (s : State) (o : Op) : Bool :=
  let before := earlierOps s o
  match o.kind with
  | .mma _ _ _ ch =>
    o.n == 1 || nextOf s o.tile (accOf o) == o.iter && !behindFailed s o &&
      (killedMma o || !ch || decide (o.iter < nextOf s o.tile (bits (wordA o 2) 6 4)))
  | .mdrn _ _ _ _ _ =>
    decide (o.iter ≤ nextOf s o.tile (accOf o)) && !behindFailed s o && !before.any (fun p => accOf p == accOf o && sameBlock p o)
  | .etld => !before.any (fun p => match p.kind with | .mdrn _ _ _ _ _ => true | _ => false)
  | _ => !before.any (fun p => accOf p == accOf o)

/-- Entries that the queue holds. -/
def queueLoad (s : State) (tile : Nat) : Nat :=
  (s.ops.filter (fun p => p.tile == tile && isQueueOp p.kind && p.tid == 0 && (p.phase == .queued || p.phase == .failed))).length

/-- R340: an entry finds a queue entry it may use. -/
def queueRoom (s : State) (o : Op) : Bool :=
  decide (queueLoad s o.tile < 6) || decide (queueLoad s o.tile < 8) && applicable s o

/-- R340: an entry enters the queue; an MMA below NEXT is late. -/
def enterQueue (s : State) (o : Op) : State :=
  let late := isMma o.kind && decide (o.iter < nextOf s o.tile (accOf o))
  if late && o.n == 2 then s else enterOp s { o with n := if late then 1 else o.n, phase := .queued }

/-- The first applicable entry of a tile whose GIVEs are performed (R340). -/
def islandHead (s : State) (tile : Nat) : Option Op :=
  s.ops.find? (fun o => o.tile == tile && isQueueOp o.kind && o.phase == .queued && o.tid == 0 && pensGiven s o && applicable s o)

/-- The occasion's operation, when it is the one applied next. -/
def islandTurn (s : State) (want : OpKind → Bool) : Option Op :=
  match islandHead s s.occ.a with
  | some o => if o.id == s.occ.b && want o.kind then some o else none
  | none => none

/-! The accumulator store (R78). -/

def accKey (tile a i j : Nat) : Nat := tile * 65536 + a * 4096 + i * 64 + j
def accAt (s : State) (tile a i j : Nat) : Word := sgetD s.isl.acc (accKey tile a i j) 0
def setAcc (s : State) (tile a i j : Nat) (v : Word) : State := { s with isl := { s.isl with acc := sset s.isl.acc (accKey tile a i j) v } }

/-- The first word of an accumulator tile with an uncorrectable error among rows and columns below bounds, as its byte (R78, R83). -/
def accError (s : State) (tile a m n : Nat) : Option Nat :=
  (upto m).findSome? (fun i => (upto n).findSome? (fun j =>
    if islBad s tile (accWord (a * 4096 + i * 64 + j)) then some (a * 16384 + (i * 64 + j) * 4) else none))

/-- A read of rows and columns of an accumulator tile corrects their single-bit errors (R82). -/
def fixAcc (s : State) (tile a m n : Nat) : State := (upto m).foldl (fun s i => fixIsl s tile (accWord (a * 4096 + i * 64)) ((n + 1) / 2)) s

/-- A lattice row (R79). -/
def latticeRow (s : State) (tile b : Nat) : Nat := sgetD s.isl.lattice (tile * 256 + b) 0

/-! Operands of an MMA (R346 to R348). -/

/-- `b` bits at a bit offset from a pen's start. -/
def penBits (s : State) (tile pen bitOff b : Nat) : Nat :=
  (sramRead s (penByte s tile pen (bitOff / 8)) ((b + 7) / 8)).getD 0 / 2 ^ (bitOff % 8) % 2 ^ b

/-- A stored element as a number; `k` selects within a CB2 group. The exact v/4 enters the product, which is rounded once: a product of CB2 and
BF16 overflows FP32 only by its quotient, the model's choice (log entry 32). -/
def elemNum (s : State) (tile : Nat) (f : Option Fmt) (x k : Nat) : Num × Astat :=
  match f with
  | none =>
    let v := signed 8 x
    (.fin (decide (v < 0)) v.natAbs 0 false, 0)
  | some .cb2 =>
    let v := cb2Elem (latticeRow s tile (x / 256)) x (k % 8)
    (.fin (decide (v < 0)) v.natAbs (-2) false, 0)
  | some f => readNum f x

/-- The bits of element (i, k) of A in its pen, or of its CB2 group. -/
def rawA (s : State) (o : Op) (f : MmaForm) (pr : Pair) (ta : Bool) (i k : Nat) : Nat :=
  let fa := (pairFmts pr).1
  let b := elemWidth fa
  let g := if fa = some .cb2 then k / 8 else k
  let str := strideOf f.astr (storedA f pr ta).2 b
  let off := offOf (wordA o 0)
  let at_ := if ta then 8 * (off + g * str) + i * b else 8 * (off + i * str) + g * b
  penBits s o.tile (penOf (wordA o 0)) at_ b

/-- Element (i, k) of A from its pen. -/
def elemA (s : State) (o : Op) (f : MmaForm) (pr : Pair) (ta : Bool) (i k : Nat) : Num × Astat :=
  elemNum s o.tile (pairFmts pr).1 (rawA s o f pr ta i k) k

/-- The lattice rows that a CB2 MMA reads: those that its groups name. -/
def rowsRead (s : State) (o : Op) (f : MmaForm) (pr : Pair) (ta chn : Bool) : List Nat :=
  if (pairFmts pr).1 = some .cb2 && !chn then
    dedup (((upto f.m).map (fun i => (upto ((f.k + 7) / 8)).map (fun g => rawA s o f pr ta i (8 * g) / 256))).flatten)
  else []

/-- Element (k, j) of B. -/
def elemB (s : State) (o : Op) (f : MmaForm) (pr : Pair) (tb : Bool) (k j : Nat) : Num × Astat :=
  let fb := (pairFmts pr).2
  let b := elemWidth fb
  let str := strideOf f.bstr (storedB f tb).2 b
  let off := offOf (wordA o 1)
  let at_ := if tb then 8 * (off + j * str) + k * b else 8 * (off + k * str) + j * b
  elemNum s o.tile fb (penBits s o.tile (penOf (wordA o 1)) at_ b) k

/-- The RS draw of the island (R348, R352). -/
def islandDraw (s : State) (o : Op) (i k : Nat) (drain : Bool) : Nat :=
  philox o.cx.seed.toNat (o.iter + i * 2 ^ 16 + k * 2 ^ 22) (opTile s o + accOf o * 2 ^ 9 + (if drain then 2 ^ 13 else 0)) o.cx.seq.toNat 0x40000000 0

/-- Element (i, k) of A from an accumulator tile (R348). -/
def chainA (s : State) (o : Op) (f : MmaForm) (pr : Pair) (ta : Bool) (i k : Nat) : Num × Astat :=
  let v := if ta then accAt s o.tile f.csrc k i else accAt s o.tile f.csrc i k
  let mode := if f.crs then RMode.rs (islandDraw s o i k false / 2 ^ 8) else .rne
  let fa := ((pairFmts pr).1).getD .f32
  let r := (fmtFp fa).round mode true (num32 v)
  ((readNum fa r.1).1, r.2)

/-- A scale byte (R346). -/
def scaleAt (s : State) (o : Op) (f : MmaForm) (k : Nat) : Num × Astat :=
  readScale (scaleFmt f.sfmt) (penBits s o.tile (penOf (wordA o 6)) (8 * (offOf (wordA o 6) + k)) 8)

/-- One product. -/
def product32 (a b : Num × Astat) : Word × Astat :=
  let z := roundOf fpF32 .rne false (numMul a.1 b.1)
  (BitVec.ofNat 32 z.1, z.2 ||| a.2 ||| b.2)

/-- One element of the result (R347). -/
def mmaElem (s : State) (o : Op) (f : MmaForm) (pr : Pair) (ta tb chn : Bool) (i j : Nat) : Word × Astat :=
  let nb := f.k / f.kb
  (upto nb).foldl (fun (acc : Word × Astat) blk =>
    let p : FLanes := (upto f.kb).map (fun t =>
      let k := blk * f.kb + t
      some (product32 (if chn then chainA s o f pr ta i k else elemA s o f pr ta i k) (elemB s o f pr tb k j)))
    let sum := (treeSum (Nat.log2 f.kb) p).getD (0, 0)
    let sum :=
      if f.sc then
        let x := scaled sum.1 (scaleAt s o f (i * nb + blk))
        let y := scaled x.1 (scaleAt s o f (f.m * nb + j * nb + blk))
        (y.1, sum.2 ||| x.2 ||| y.2)
      else sum
    let z := add32 acc.1 sum.1
    (z.1, acc.2 ||| sum.2 ||| z.2)) (accAt s o.tile f.acc i j, 0)

/-- What stops an MMA: an error in a pen, in an accumulator tile or in the lattice table (R83). -/
def mmaError (s : State) (o : Op) (f : MmaForm) (pr : Pair) (ta tb chn : Bool) : Option Nat :=
  let sa := storedA f pr ta
  let sb := storedB f tb
  let bad (l n : Nat) : Option Nat := if penGood s o.tile (penOf (wordA o l)) (offOf (wordA o l)) n then none else some (wordA o l)
  let a := if chn then accError s o.tile f.csrc (if ta then f.k else f.m) (if ta then f.m else f.k)
    else bad 0 (extent sa.1 sa.2 (elemWidth (pairFmts pr).1) f.astr)
  let cb := (rowsRead s o f pr ta chn).find? (fun r => islBad s o.tile (latticeWord r))
  ((a.orElse (fun _ => bad 1 (extent sb.1 sb.2 (elemWidth (pairFmts pr).2) f.bstr))).orElse
    (fun _ => if f.sc then bad 6 ((f.m + f.n) * (f.k / f.kb)) else none)).orElse
      (fun _ => (accError s o.tile f.acc f.m f.n).orElse (fun _ => cb))

/-- All pairs of rows below `m` and columns below `n`. -/
def grid (m n : Nat) : List (Nat × Nat) := ((upto m).map (fun i => (upto n).map (fun j => (i, j)))).flatten

/-- NEXT after an MMA (R340, R461). -/
def raiseNext (s : State) (o : Op) : State :=
  let n := nextOf s o.tile (accOf o)
  if n = 0xFFFF then raiseOp s { o with id := 0 } causeIterWrap 0 0 else setNext s o.tile (accOf o) (n + 1)

/-- The list for an ITER_WRAP that the MMA would raise has room (R405). -/
def nextRoom (s : State) (o : Op) : Bool := nextOf s o.tile (accOf o) != 0xFFFF || faultRoom s o.tile o.rank o.ctx o.iter

/-- What an MMA reads of its pens. -/
def mmaReads (o : Op) (f : MmaForm) (pr : Pair) (ta tb chn : Bool) : List (Nat × Nat) :=
  let sa := storedA f pr ta
  let sb := storedB f tb
  (if chn then [] else [(wordA o 0, extent sa.1 sa.2 (elemWidth (pairFmts pr).1) f.astr)]) ++
    [(wordA o 1, extent sb.1 sb.2 (elemWidth (pairFmts pr).2) f.bstr)] ++ (if f.sc then [(wordA o 6, (f.m + f.n) * (f.k / f.kb))] else [])

/-- What it reads of the island's tables. -/
def fixMma (s : State) (o : Op) (f : MmaForm) (pr : Pair) (ta chn : Bool) : State :=
  let s := fixAcc s o.tile f.acc f.m f.n
  let s := if chn then fixAcc s o.tile f.csrc (if ta then f.k else f.m) (if ta then f.m else f.k) else s
  (rowsRead s o f pr ta chn).foldl (fun s r => fixIsl s o.tile (latticeWord r) 1) s

/-- The tables as an MMA sees them: with the rows of every LTLD whose block committed before its own, or that stands before it in the block (R331). -/
def latticeView (s : State) (o : Op) : State :=
  ((heldLtld s o.tile).filter (fun p => decide (p.id < o.id))).foldl (fun s p =>
    let rows := (upto 32).filterMap (fun l => (laneOf p.b l).map (fun k => k.toNat % 256))
    let s := rows.foldl (fun s r => clearIsl s o.tile (latticeWord r) 1) s
    { s with isl := { s.isl with lattice := ltldRows s.isl.lattice p } }) s

/-- An MMA's effect (R347, R348). -/
def applyMma (s : State) (o : Op) (pr : Pair) (ta tb chn : Bool) : State :=
  let f := mmaForm (wordA o)
  let v := latticeView s o
  match mmaError v o f pr ta tb chn with
  | some addr => unitFail s o causeMemUe 0 addr
  | none =>
    let r := (grid f.m f.n).map (fun p => (p, mmaElem v o f pr ta tb chn p.1 p.2))
    let s := r.foldl (fun s x => setAcc s o.tile f.acc x.1.1 x.1.2 x.2.1) (fixMma s o f pr ta chn)
    let s := orAstat s o.tile o.rank o.ctx (r.foldl (fun acc x => acc ||| x.2.2) 0)
    unitDone (raiseNext s o) o

/-- MMA_APPLY (R340, R347, R348): a late one is discarded with DUPTAG, its pens flipping back. -/
def execMmaApply (s : State) : Result :=
  match islandTurn s (fun k => match k with | .mma _ _ _ _ => true | _ => false) with
  | none => .next s
  | some o =>
    match o.kind with
    | .mma pr ta tb chn =>
      if o.n = 1 then
        .next (if faultRoom s o.tile o.rank o.ctx o.iter then unitDone (raiseOp s { o with id := 0 } causeDuptag 0x04 (o.ctx * 2 ^ 16 + o.iter)) o else s)
      else if !nextRoom s o then .next s
      else if o.n = 2 then .next (raiseNext (dropOp s o.id) o)
      else .next (unitApply s o (mmaReads o (mmaForm (wordA o)) pr ta tb chn) (fun s => applyMma s o pr ta tb chn))
    | _ => .next s

/-- A write of every element of an accumulator tile; their errors go. -/
def fillAcc (s : State) (tile a : Nat) (v : Nat → Nat → Word) : State :=
  let s := clearIsl s tile (accWord (a * 4096)) 2048
  (grid 64 64).foldl (fun s p => setAcc s tile a p.1 p.2 (v p.1 p.2)) s

/-- MZERO_APPLY (R349). -/
def execMzeroApply (s : State) : Result :=
  match islandTurn s (fun k => k == .mzero) with
  | none => .next s
  | some o => .next (unitDone (setNext (fillAcc s o.tile (accOf o) (fun _ _ => 0)) o.tile (accOf o) (bits (wordA o 0) 16 16)) o)

/-- MLDA_APPLY (R349). -/
def execMldaApply (s : State) : Result :=
  match islandTurn s (fun k => k == .mlda) with
  | none => .next s
  | some o =>
    let pen := penOf (wordA o 0)
    let off := offOf (wordA o 0)
    .next (unitApply s o [(wordA o 0, 16384)] (fun s =>
      if penGood s o.tile pen off 16384 then
        unitDone (setNext (fillAcc s o.tile (accOf o) (fun i j => penWord s o.tile pen (off + (i * 64 + j) * 4))) o.tile (accOf o)
          (bits (wordB o 0) 16 16)) o
      else unitFail s o causeMemUe 0 (wordA o 0)))

/-- ETLD_APPLY (R350). -/
def execEtldApply (s : State) : Result :=
  match islandTurn s (fun k => k == .etld) with
  | none => .next s
  | some o =>
    let pen := penOf (wordA o 0)
    let off := offOf (wordA o 0)
    let first := bits (wordB o 0) 0 8
    let cnt := bits (wordB o 0) 8 9
    .next (unitApply s o [(wordA o 0, 8 * cnt)] (fun s =>
      if penGood s o.tile pen off (8 * cnt) then
        let put1 (m : Store (Word × Word)) (q : Nat) : Store (Word × Word) :=
          sset m (o.tile * 256 + first + q) (penWord s o.tile pen (off + 8 * q + 4), penWord s o.tile pen (off + 8 * q))
        let s := clearIsl s o.tile (actWord first) cnt
        unitDone { s with isl := { s.isl with
          act := (upto cnt).foldl put1 s.isl.act, alo := sset s.isl.alo o.tile (BitVec.ofNat 32 (wordB o 1)),
          ainv := sset s.isl.ainv o.tile (BitVec.ofNat 32 (wordB o 2)) } } o
      else unitFail s o causeMemUe 0 (wordA o 0)))

/-! MDRN (R350, R352). -/

/-- The activation entry of a value. -/
def actIndex (u : Word) : Nat :=
  match num32 u with
  | .nan => 0
  | .inf neg => if neg then 0 else 255
  | .fin neg m e _ => if neg then 0 else min 255 (m * 2 ^ e.toNat / 2 ^ (-e).toNat)

/-- The activation of R350: its value, flags and entry. -/
def activation (s : State) (tile : Nat) (x : Word) : Word × Astat :=
  if (num32 x).isNan then (nan32, 0)
  else
    let d := sub32 x (sgetD s.isl.alo tile 0)
    let u := mul32 d.1 (sgetD s.isl.ainv tile 0)
    let e := sgetD s.isl.act (tile * 256 + actIndex u.1) (0, 0)
    let y := fma32 e.1 x e.2
    (y.1, d.2 ||| u.2 ||| y.2)

/-- The entry that an activation reads; that of a NaN reads none. -/
def actRead (s : State) (tile : Nat) (x : Word) : Option Nat :=
  if (num32 x).isNan then none else some (actIndex (mul32 (sub32 x (sgetD s.isl.alo tile 0)).1 (sgetD s.isl.ainv tile 0)).1)

/-- RND of a vector (R213). -/
def drainMode (s : State) (o : Op) (i j : Nat) : RMode :=
  let r := bits (wordA o 2) 4 3
  if r = 4 then .rs (islandDraw s o i j true / 2 ^ 8) else if r = 5 then modeOf o.cx.rmode else modeOf (BitVec.ofNat 3 r)

/-- An element of the accumulator tile with its bias (R352). -/
def biased (s : State) (o : Op) (bias : Bool) (i j : Nat) : Word × Astat :=
  let v := accAt s o.tile (accOf o) i j
  if bias then add32 v (penWord s o.tile (penOf (wordA o 5)) (offOf (wordA o 5) + 4 * j)) else (v, 0)

/-- The activation entries that a drain reads. -/
def actsRead (s : State) (o : Op) (bias act : Bool) (m n : Nat) : List Nat :=
  if act then dedup ((grid m n).filterMap (fun p => actRead s o.tile (biased s o bias p.1 p.2).1)) else []

/-- An element's unquantised value with its flags, and what is written with all flags (R352). -/
def drainElem (s : State) (o : Op) (bias act rq : Bool) (i j : Nat) : Word × Nat × Astat :=
  let v := biased s o bias i j
  let v := if act then
      let z := activation s o.tile v.1
      (z.1, v.2 ||| z.2) else v
  if rq then
    let p := mul32 v.1 (BitVec.ofNat 32 (wordA o 3))
    let r := (fmtFp (outFmt (bits (wordA o 2) 0 4))).round (drainMode s o i j) (bit (wordA o 2) 7) (num32 p.1)
    (v.1, r.1, v.2 ||| p.2 ||| r.2)
  else (v.1, v.1.toNat, v.2)

/-- Writes `b` bits at a bit offset of a pen; the bits around them stay. -/
def setPenBits (s : State) (tile pen bitOff b v : Nat) : State :=
  let a := penByte s tile pen (bitOff / 8)
  let n := (b + 7) / 8
  let old := mread s.mem.sram a n
  let sh := 2 ^ (bitOff % 8)
  sramWrite s a n (old - old / sh % 2 ^ b * sh + v % 2 ^ b * sh)

/-- What stops an MDRN. -/
def drainError (s : State) (o : Op) (bias act : Bool) (m n : Nat) : Option Nat :=
  let tbl := (actsRead s o bias act m n).find? (fun r => islBad s o.tile (actWord r))
  (accError s o.tile (accOf o) m n).orElse (fun _ =>
    if bias && !penGood s o.tile (penOf (wordA o 5)) (offOf (wordA o 5)) (4 * n) then some (wordA o 5) else tbl)

/-- AXn after a drain (R334, R335, R352). -/
def drainAmax (s : State) (o : Op) (us : Lanes) : State :=
  match amaxOf us with
  | none => s
  | some m =>
    let k := o.tile * 16 + bits (wordA o 2) 8 4
    { s with isl := { s.isl with ax := sset s.isl.ax k (amaxc (sgetD s.isl.ax k 0) m) } }

/-- The words of the output that a drain writes whole lose their marks: within a row, and over all rows where they leave no gap (R83). -/
def clearDrained (s : State) (o : Op) (rows n b str : Nat) : State :=
  let a := penByte s o.tile (penOf (wordA o 0)) (offOf (wordA o 0))
  clearSram s (fun k => if str * 8 = n * b then wholeWord a (rows * str) k else (upto rows).any (fun r => wholeWord (a + r * str) (n * b / 8) k))

/-- An MDRN's effect. -/
def applyMdrn (s : State) (o : Op) (bias act rq amx tr : Bool) : State :=
  let m := bits (wordA o 1) 4 6 + 1
  let n := bits (wordA o 1) 10 6 + 1
  match drainError s o bias act m n with
  | some addr => unitFail s o causeMemUe 0 addr
  | none =>
    let s := fixAcc s o.tile (accOf o) m n
    let s := (actsRead s o bias act m n).foldl (fun s r => fixIsl s o.tile (actWord r) 1) s
    let b := fmtWidth (outFmt (bits (wordA o 2) 0 4))
    let str := strideOf (wordA o 4) (if tr then m else n) b
    let r := (grid m n).map (fun p => (p, drainElem s o bias act rq p.1 p.2))
    let put1 (s : State) (x : (Nat × Nat) × Word × Nat × Astat) : State :=
      let row := if tr then x.1.2 else x.1.1
      let col := if tr then x.1.1 else x.1.2
      setPenBits s o.tile (penOf (wordA o 0)) (8 * (offOf (wordA o 0) + row * str) + col * b) b x.2.2.1
    let s := clearDrained (r.foldl put1 s) o (if tr then n else m) (if tr then m else n) b str
    let s := if amx then drainAmax s o (r.map (fun x => some x.2.1)) else s
    unitDone (orAstat s o.tile o.rank o.ctx (r.foldl (fun acc x => acc ||| x.2.2.2) 0)) o

/-- MDRN_APPLY (R341, R352). -/
def execMdrnApply (s : State) : Result :=
  match islandTurn s (fun k => match k with | .mdrn _ _ _ _ _ => true | _ => false) with
  | none => .next s
  | some o =>
    match o.kind with
    | .mdrn bias act rq amx tr =>
      let n := bits (wordA o 1) 10 6 + 1
      .next (unitApply s o (if bias then [(wordA o 5, 4 * n)] else []) (fun s => applyMdrn s o bias act rq amx tr))
    | _ => .next s

/-! TACC (R328, R461). -/

/-- NEXT of a TACC row. -/
def taccNext (s : State) (o : Op) (paddr : Nat) : Nat := (penWord s o.tile (penOf paddr) (offOf paddr)).toNat % 2 ^ 16

def taccRow : OpKind → Option Nat
  | .tacc _ p => some p
  | _ => none

/-- Entries that a tile's TACC unit holds. -/
def taccLoad (s : State) (tile : Nat) : Nat := (s.ops.filter (fun p => p.tile == tile && p.tid == 0 && (taccRow p.kind).isSome && !stopped p)).length

/-- R328: an entry finds a usable entry free. -/
def taccRoom (s : State) (o : Op) (paddr : Nat) : Bool :=
  decide (taccLoad s o.tile < 56) || decide (taccLoad s o.tile < 64) && o.iter == taccNext s o paddr

/-- An entry reaches its row, behind the STPs released before it (R329): one below NEXT is late. -/
def enterTacc (s : State) (o : Op) (paddr : Nat) : State :=
  let s := fixPen s o.tile paddr 4
  if penGood s o.tile (penOf paddr) (offOf paddr) 4 && decide (o.iter < taccNext s o paddr) then
    raiseOp s { o with id := 0 } causeDuptag 0x03 (o.ctx * 2 ^ 16 + o.iter)
  else enterOp s o

/-- R328: the lanes of an entry added to its row in pen storage. -/
def taccLanes (s : State) (o : Op) (pen off : Nat) : State :=
  (upto o.w).foldl (fun s l => match laneOf o.a l with
    | none => s
    | some v => setPenWord s o.tile pen (off + 4 + 4 * l) (add32 (penWord s o.tile pen (off + 4 + 4 * l)) v).1) s

/-- The flags of those additions. -/
def taccFlags (s : State) (o : Op) (pen off : Nat) : Astat :=
  (upto o.w).foldl (fun f l => match laneOf o.a l with
    | none => f
    | some v => f ||| (add32 (penWord s o.tile pen (off + 4 + 4 * l)) v).2) 0

/-- TACC_APPLY (R328): an entry whose ITER is its row's NEXT is added, one below it is late; a row in error fails it with MEM_UE (R83). -/
def execTaccApply (s : State) : Result :=
  match opById s s.occ.b with
  | none => .next s
  | some o =>
    match o.kind with
    | .tacc _ paddr =>
      let pen := penOf paddr
      let off := offOf paddr
      if o.tile != s.occ.a || o.phase != .queued || o.tid != 0 then .next s
      else if !faultRoom s o.tile o.rank o.ctx o.iter then .next s
      else
      let s := fixPen s o.tile paddr (4 + 4 * o.w)
      if !penGood s o.tile pen off (4 + 4 * o.w) then .next (failOp s o causeMemUe 0 paddr)
      else
        let n := taccNext s o paddr
        if o.iter < n then .next (raiseOp (dropOp s o.id) { o with id := 0 } causeDuptag 0x03 (o.ctx * 2 ^ 16 + o.iter))
        else if n != o.iter then .next s
        else
          let s' := orAstat (taccLanes s o pen off) o.tile o.rank o.ctx (taccFlags s o pen off)
          let s' := if n = 0xFFFF then s' else setPenWord s' o.tile pen off (BitVec.ofNat 32 (n + 1))
          let out := mkLanes (fun l => if l < o.w then some (penWord s' o.tile pen (off + 4 + 4 * l)) else none)
          let s' := emitOp (dropOp s' o.id) { o with emask := List.replicate 32 true } 13 out (fun h => h)
          .next (if n = 0xFFFF then raiseOp s' { o with id := 0 } causeIterWrap 0 0 else s')
    | _ => .next s

end Sys2Proof.Machine
end

