-- ==== Sys2Proof/Machine/Fold.lean ====
section
/-! DEFINITION. FOLD and FFIN: the rider, the fold queue, the checks of R102 and R107, and a bale folded into its rows (R353 to R357). -/

namespace Sys2Proof.Machine

/-! The rider (R353). -/

/-- A rider's header words. -/
abbrev Rider := List Nat

def riderNq (h : Rider) : Nat := bits (h.getD 1 0) 16 6 + 1
def riderDh (h : Rider) : Nat := (bits (h.getD 1 0) 22 4 + 1) * 16
def riderQes (h : Rider) : Nat := if bits (h.getD 1 0) 26 2 = 0 then 4 else 2
def riderQoff (h : Rider) : Nat := 64 + 16 * riderNq h
def riderAoff (h : Rider) : Nat := riderQoff h + riderNq h * riderDh h * riderQes h
def riderBytes (h : Rider) : Nat := riderAoff h + 4 * riderNq h * riderDh h
def riderSeq (h : Rider) : Nat := h.getD 0 0 % 2 ^ 20
def riderLh (h : Rider) : Nat := h.getD 0 0 / 2 ^ 20

def riderAt (s : State) (tile paddr : Nat) : Rider :=
  (upto 16).map (fun k => (penWord s tile (penOf paddr) (offOf paddr + 4 * k)).toNat)

/-- R355 step 1: the fields that need no sequence entry. -/
def riderGood (h : Rider) : Bool :=
  bits (h.getD 1 0) 28 2 != 3 && bits (h.getD 1 0) 26 2 != 3 && !bit (h.getD 1 0) 30 && bits (h.getD 2 0) 29 3 == 0 && bits (h.getD 3 0) 10 22 == 0 &&
    bits (h.getD 4 0) 26 6 == 0 && bits (h.getD 5 0) 26 6 == 0 && (h.drop 6).all (· == 0)

/-- The bytes of the rider that a pen's header gives: the header's own 64 where they do not lie in a pen. -/
def riderLen (s : State) (tile p : Nat) : Nat :=
  match penAt s tile (penOf p) with
  | some e => if e.size * 4096 < offOf p + 64 then 64 else riderBytes (riderAt s tile p)
  | none => 64

/-- The rider pen at issue: the checks of R338 on the whole rider, whose size its header gives; the header is then read from the pen (R83). -/
def riderPen (s : State) (τ : Task) (p : Nat) : Body State := do
  let s := drainStp s s.occ.a
  unitPen s τ p (riderLen s s.occ.a p) 5
  let s := fixPen s s.occ.a p 64
  check (penRead s s.occ.a p 64).isSome causeMemUe p
  .ok s

/-- FOLD (R355). -/
def execFold (a b : Src) (t : Target) (s : State) : Result :=
  runBody (fun s τ => do
    check (srcOk τ a && srcOk τ b) causeBadSource
    let n ← portOrDiscard s τ t
    let v := readSrc τ false a
    match ← lane0 τ v [readSrc τ true b] with
    | none => .ok (s, τ.advance 1)
    | some p =>
      match laneOf (readSrc τ true b) 0 with
      | none => stop causeBadSource 0
      | some x => do
        field (decide (x.toNat < 2 ^ 20))
        let s' ← riderPen s τ p.toNat
        .ok (s', ((τ.consume (penOf p.toNat) 5).enter (mkOp s τ .fold n (validLanes τ v) (lanesOf [x]) [])).advance 1)) s

/-- FFIN (R357). -/
def execFfin (a : Src) (t : Target) (s : State) : Result :=
  runBody (fun s τ => do
    check (srcOk τ a) causeBadSource
    let n ← portOrDiscard s τ t
    let v := readSrc τ false a
    match ← lane0 τ v [] with
    | none => .ok (s, τ.advance 1)
    | some p => do
      let s' ← riderPen s τ p.toNat
      .ok (s', ((τ.consume (penOf p.toNat) 5).enter (mkOp s τ .ffin n (validLanes τ v) noLanes [])).advance 1)) s

/-! The fold queue (R340, R341). -/

def isFold : OpKind → Bool
  | .fold => true
  | .ffin => true
  | _ => false

def foldLoad (s : State) (tile : Nat) : Nat :=
  (s.ops.filter (fun p => p.tile == tile && isFold p.kind && p.tid == 0 && p.phase == .queued)).length

/-- An entry stands behind a failed one of its frame or its rider pen, or one whose GIVE has failed (R341, R55): later entries of
others pass it. -/
def foldHeld (s : State) (o : Op) : Bool :=
  (giveOf s o (penOf (wordA o 0))).elim false stopped ||
    s.ops.any (fun p => p.tile == o.tile && isFold p.kind && p.tid == 0 && decide (p.id < o.id) && stopped p &&
      (sameFrame p o.tile o.rank o.ctx o.iter || penOf (wordA p 0) == penOf (wordA o 0)))

/-- An entry waits while it is held, and for an earlier one that is still queued and not held. -/
def foldBlocked (s : State) (o : Op) : Bool :=
  foldHeld s o ||
    s.ops.any (fun p => p.tile == o.tile && isFold p.kind && p.tid == 0 && decide (p.id < o.id) && p.phase == .queued && !foldHeld s p)

/-- The occasion's fold entry, when it is its turn. -/
def foldTurn (s : State) (want : OpKind → Bool) : Option Op :=
  match unitTurn s want with
  | some o => if foldBlocked s o then none else some o
  | none => none

/-! The checks. -/

/-- Why a fold does not run: a fault with its cause, detail and address, or a wait. -/
inductive FoldStop where
  | fault (cause detail addr : Nat)
  | wait
  | retry

/-- R107: the fold key after the carried one. -/
def keyAfter (h : Rider) (ring stp bidx : Nat) : Bool :=
  let lr := h.getD 3 0 % 2 ^ 10
  let ls := bits (h.getD 2 0) 20 9
  let lb := h.getD 2 0 % 2 ^ 20
  decide (lr < ring) || ring == lr && (decide (ls < stp) || stp == ls && decide (lb < bidx))

/-- Positions of the bale that the rider needs (R355 step 3). -/
def needed (h : Rider) (bidx : Nat) : Nat := min 64 (h.getD 4 0 - 64 * bidx)

/-- A refusal of a rider's fold (R102). -/
def refuseFold (h : Rider) (bidx d : Nat) : FoldStop := .fault causeBale d (riderSeq h + bidx * 2 ^ 32)

/-- Details 0x0B and 0x0C (R107). -/
def riderRefusal (s : State) (o : Op) (h : Rider) (x : BaleEntry) : Option Nat :=
  if h.getD 1 0 % 2 ^ 16 ≠ sgetD s.bal.pgen x.seq (bits x.sent 136 16) then some 0x0B
  else if bits x.entry 43 9 ≠ opTile s o then some 0x0C
  else none

/-- Details 0x0E and 0x0F. -/
def lastRefusal (s : State) (h : Rider) (x : BaleEntry) (rp bidx : Nat) : Option Nat :=
  (storageRefusal s x).orElse (fun _ => if bit (h.getD 1 0) 31 && !keyAfter h rp (bits x.entry 43 9) bidx then some 0x0F else none)

/-- Step 3 of R355 and the checks after it: FILL is judged as it stands at home where the buffered one does not suffice (R100). -/
def foldFill (s : State) (h : Rider) (x : BaleEntry) (rp bidx : Nat) : State × Except FoldStop (BaleEntry × Nat) :=
  match freshFill s x (needed h bidx) with
  | (s, .error pa) => (s, .error (.fault causeMemUe 0 pa))
  | (s, .ok x) =>
    if baleFill x.entry < needed h bidx then (s, .error (if bit x.entry 6 then .retry else refuseFold h bidx 0x0D))
    else
      match lastRefusal s h x rp bidx with
      | some d => (s, .error (refuseFold h bidx d))
      | none => (s, .ok (x, rp))

/-- The checks of R102 on a buffered entry with its placement. -/
def foldPlaced (s : State) (o : Op) (h : Rider) (x : BaleEntry) (bidx : Nat) : State × Except FoldStop (BaleEntry × Nat) :=
  match resolvePlace s x.sent x.seq (bidx / 16) with
  | (s, .bad pa) => (s, .error (.fault causeMemUe 0 pa))
  | (s, .link) => (s, .error (.fault causeLink 0x0C 0))
  | (s, p) =>
    match ringList s x.sent with
    | (s, .error pa) => (s, .error (.fault causeMemUe 0 pa))
    | (s, .ok ring) =>
      match (placeRefusal s p ring).orElse (fun _ => riderRefusal s o h x) with
      | some d => (s, .error (refuseFold h bidx d))
      | none => foldFill s h x (ring.findIdx (· == bits x.entry 52 10)) bidx

/-- Steps 2 and 3 of R355: the entry to fold with its ring position. -/
def foldEntry (s : State) (o : Op) (h : Rider) (bidx : Nat) : State × Except FoldStop (BaleEntry × Nat) :=
  match lookBale s o.id o.tile (riderSeq h) (riderLh h) bidx with
  | (s, .wait) => (s, .error .wait)
  | (s, .bad pa) => (s, .error (.fault causeMemUe 0 pa))
  | (s, .entry x) =>
    if !seqValid x.sent then (s, .error (refuseFold h bidx 0x01))
    else if riderDh h ≠ seqDh x.sent then (s, .error (.fault causeEngine 0x22 (wordA o 0)))
    else
      match (seqRefusal x o.cx.asid o.cx.q).orElse (fun _ => holderRefusal s x) with
      | some d => (s, .error (refuseFold h bidx d))
      | none => foldPlaced s o h x bidx

/-! The fold (R354, R356). -/

/-- R354. -/
def visible (h : Rider) (qpos p : Nat) : Bool :=
  let mpol := bits (h.getD 1 0) 28 2
  decide (p < h.getD 4 0) && (mpol == 0 || decide (p ≤ qpos) && (mpol == 1 || decide ((qpos : Int) - (h.getD 5 0 : Nat) < (p : Nat))))

/-- KVFMT of a sequence entry. -/
def kvFmt (e : Nat) : Fmt := outFmt (bits e 96 4)

/-- A bale's K and V blocks as numbers. -/
def baleElem (raw : Nat) (e blk j d : Nat) : Num × Astat :=
  let es := seqEs e
  readNum (kvFmt e) (raw / 256 ^ ((blk * 64 * seqDh e + j * seqDh e + d) * es))

/-- A row's state. -/
structure FoldRow where
  m : Word
  l : Word
  acc : List Word
  flags : Astat

def negInf32 : Word := 0xFF800000

/-- The score of key `j` (R356). -/
def score (h : Rider) (x : BaleEntry) (raw : Nat) (q : List (Num × Astat)) (qpos j : Nat) : Word × Astat :=
  if !visible h qpos (64 * x.bidx + j) then (negInf32, 0)
  else
    let p : FLanes := (upto (seqDh x.sent)).map (fun d => some (product32 (q.getD d (.nan, 0)) (baleElem raw x.sent 0 j d)))
    let t := (treeSum 8 p).getD (0, 0)
    let sc := mul32 t.1 (BitVec.ofNat 32 (bits x.entry 64 32))
    (sc.1, t.2 ||| sc.2 ||| flagIf (num32 sc.1).isNan flagIV)

/-- One key added to a row. -/
def foldKey (x : BaleEntry) (raw : Nat) (m' : Word) (r : FoldRow) (j : Nat) (sj : Word) : FoldRow :=
  let d := sub32 sj m'
  let p := ex2 d.1
  let l := add32 r.l p.1
  let step (acc : Word) (i : Nat) : Word × Astat :=
    let v := baleElem raw x.sent 1 j i
    let vs := roundOf fpF32 .rne false (numMul v.1 (num32 (BitVec.ofNat 32 (bits x.entry 96 32))))
    let pv := mul32 p.1 (BitVec.ofNat 32 vs.1)
    let z := add32 acc pv.1
    (z.1, v.2 ||| vs.2 ||| pv.2 ||| z.2)
  let accs := (upto r.acc.length).map (fun i => step (r.acc.getD i 0) i)
  { r with l := l.1, acc := accs.map (·.1), flags := accs.foldl (fun f a => f ||| a.2) (r.flags ||| d.2 ||| p.2 ||| l.2) }

/-- A row after a fold; keys at or above FILL take no part (R97). -/
def foldRow (h : Rider) (x : BaleEntry) (raw : Nat) (q : List (Num × Astat)) (qpos : Nat) (r : FoldRow) : FoldRow :=
  let n := min 64 (baleFill x.entry)
  let ss := (upto n).map (fun j => score h x raw q qpos j)
  let m' := ss.foldl (fun m sc => fmax32 m sc.1) r.m
  if m' = negInf32 then { r with flags := ss.foldl (fun f sc => f ||| sc.2) r.flags }
  else
    let d := sub32 r.m m'
    let alpha := ex2 d.1
    let l := mul32 alpha.1 r.l
    let accs := r.acc.map (fun a => mul32 alpha.1 a)
    let fl := accs.foldl (fun f a => f ||| a.2) (ss.foldl (fun f sc => f ||| sc.2) (r.flags ||| d.2 ||| alpha.2 ||| l.2))
    let r0 : FoldRow := { m := r.m, l := l.1, acc := accs.map (·.1), flags := fl }
    let r1 := (upto n).foldl (fun r j => foldKey x raw m' r j (ss.getD j (negInf32, 0)).1) r0
    { r1 with m := m' }

/-- Writes words of the rider's pen. -/
def setRider (s : State) (tile paddr off : Nat) (w : Word) : State := setPenWord s tile (penOf paddr) (offOf paddr + off) w

def riderWord (s : State) (tile paddr off : Nat) : Word := penWord s tile (penOf paddr) (offOf paddr + off)

/-- Query elements of a row. -/
def queryRow (s : State) (tile paddr : Nat) (h : Rider) (r : Nat) : List (Num × Astat) :=
  let f := if bits (h.getD 1 0) 26 2 = 0 then Fmt.f32 else if bits (h.getD 1 0) 26 2 = 1 then .bf16 else .f16
  (upto (riderDh h)).map (fun d =>
    readNum f (penBits s tile (penOf paddr) (8 * (offOf paddr + riderQoff h + (r * riderDh h + d) * riderQes h)) (8 * riderQes h)))

/-- Steps 4 to 6 of R355 on a bale's bytes. -/
def foldRider (s : State) (o : Op) (h : Rider) (x : BaleEntry) (rp raw : Nat) : State :=
  let p := wordA o 0
  let row (s : State) (r : Nat) : State :=
    let off := 64 + 16 * r
    let aoff := riderAoff h + r * riderDh h * 4
    let r0 : FoldRow :=
      { m := riderWord s o.tile p off, l := riderWord s o.tile p (off + 4),
        acc := (upto (riderDh h)).map (fun d => riderWord s o.tile p (aoff + 4 * d)), flags := 0 }
    let r1 := foldRow h x raw (queryRow s o.tile p h r) ((riderWord s o.tile p (off + 8)).toNat % 2 ^ 26) r0
    let s := setRider (setRider s o.tile p off r1.m) o.tile p (off + 4) r1.l
    let s := (upto (riderDh h)).foldl (fun s d => setRider s o.tile p (aoff + 4 * d) (r1.acc.getD d 0)) s
    orAstat s o.tile o.rank o.ctx r1.flags
  let s := (upto (riderNq h)).foldl row s
  let s := setRider s o.tile p 4 (BitVec.ofNat 32 (h.getD 1 0 % 2 ^ 31 + 2 ^ 31))
  let s := setRider s o.tile p 8 (BitVec.ofNat 32 (x.bidx + bits x.entry 43 9 * 2 ^ 20))
  setRider s o.tile p 12 (BitVec.ofNat 32 rp)

/-- A rider that can be used (R353, R355): the header, or why not: MEM_UE or ENGINE 0x22. The pen is read, its header first (R82). -/
def takeRider (s : State) (o : Op) : State × Except (Nat × Nat) Rider :=
  let p := wordA o 0
  let s := fixPen s o.tile p 64
  if !penGood s o.tile (penOf p) (offOf p) 64 then (s, .error (causeMemUe, 0))
  else
    let h := riderAt s o.tile p
    if !riderGood h || (penReach s o.tile o.cx.asid (penOf p) (offOf p) (riderBytes h)).isSome then (s, .error (causeEngine, 0x22))
    else
      let s := fixPen s o.tile p (riderBytes h)
      if !penGood s o.tile (penOf p) (offOf p) (riderBytes h) then (s, .error (causeMemUe, 0)) else (s, .ok h)

/-- A whole application of FOLD. -/
def applyFold (s : State) (o : Op) : State :=
  match takeRider s o with
  | (s, .error (c, d)) => unitFail s o c d (wordA o 0)
  | (s, .ok h) =>
    match foldEntry s o h (wordB o 0) with
    | (s, .error .wait) => s
    | (s, .error .retry) => setOp s { o with n := 1, addr := s.cyc + 256 }
    | (s, .error (.fault c d a)) => unitFail s o c d a
    | (s, .ok (x, rp)) =>
      match baleRead s x 0 (baleBytes x.sent) with
      | (s, none) => unitFail s o causeMemUe 0 (bits x.entry 17 26 * 16384)
      | (s, some raw) => unitDone (foldRider s o h x rp raw) o

/-- FOLD_APPLY (R355). -/
def execFoldApply (s : State) : Result :=
  match foldTurn s (fun k => k == .fold) with
  | some o => if o.n = 0 then .next (unitApply s o [] (fun s => applyFold s o)) else .next s
  | none => .next s

/-- FOLD_RETRY (R355): every 256 fabric cycles while APD = 1. -/
def execFoldRetry (s : State) : Result :=
  match foldTurn s (fun k => k == .fold) with
  | some o => 
    if o.n = 1 ∧ o.addr ≤ s.cyc then .next (unitApply (setOp s { o with n := 0 }) { o with n := 0 } [] (fun s => applyFold s { o with n := 0 }))
    else .next s
  | none => .next s

/-- One row finished: its accumulators over its sum, or zeros and the mark of an empty row (R357). -/
def finishRider (s : State) (o : Op) (h : Rider) (r : Nat) : State :=
  let p := wordA o 0
  let off := 64 + 16 * r
  let aoff := riderAoff h + r * riderDh h * 4
  let l := riderWord s o.tile p (off + 4)
  if l = 0 then
    let s := (upto (riderDh h)).foldl (fun s d => setRider s o.tile p (aoff + 4 * d) 0) s
    setRider s o.tile p (off + 12) (riderWord s o.tile p (off + 12) ||| 1)
  else
    (upto (riderDh h)).foldl (fun s d =>
      let z := div32 (riderWord s o.tile p (aoff + 4 * d)) l
      orAstat (setRider s o.tile p (aoff + 4 * d) z.1) o.tile o.rank o.ctx z.2) s

/-- FFIN_APPLY (R357). -/
def execFfinApply (s : State) : Result :=
  match foldTurn s (fun k => k == .ffin) with
  | none => .next s
  | some o =>
    .next (unitApply s o [] (fun s =>
      match takeRider s o with
      | (s, .error (c, d)) => unitFail s o c d (wordA o 0)
      | (s, .ok h) =>
        let s := (upto (riderNq h)).foldl (fun s r => finishRider s o h r) s
        unitDone (setRider s o.tile (wordA o 0) 4 (BitVec.ofNat 32 (h.getD 1 0 ||| 2 ^ 30))) o))

/-- R114: the folds and appends of a tile that have a bale's entry in use. -/
def baleUsers (s : State) (tile : Nat) (hit : Nat → Nat → Nat → Bool) : List Nat :=
  (s.ops.filter (fun o => o.tile == tile && !stopped o &&
    (match o.kind with
      | .fold => o.n == 1 && hit (riderSeq (riderAt s tile (wordA o 0))) (riderLh (riderAt s tile (wordA o 0))) (wordB o 0)
      | .dcopy 4 _ => o.phase == .active && o.n != 0 && hit (appSeq o) (appLh o) (appPos o / 64)
      | _ => false))).map (·.id)

end Sys2Proof.Machine
end

