-- ==== Sys2Proof/Machine/Image.lean ====
section
/-! DEFINITION. Configuration images: reading an image, its REGION sections, their checks, and loading a region or a gait on a tile
(R49 to R58, R72, R81, R169 to R171, R186 to R189, R207, R230 to R236, R380, R381, R400). -/

namespace Sys2Proof.Machine

/-! Bytes of an address space. -/

/-- What a read of an image or a record asks of its pages: normal memory, and X where it is an image (R31). -/
def imageWant (user ex : Bool) : Want := { user := user, wr := false, ex := ex, mtOk := fun mt => mt == 0, remote := false }

/-- Reads bytes of an address space part by part; a failure is its cause, detail and address. -/
def readParts (tile asid : Nat) (w : Want) : List Lane → State → State × Except (Nat × Nat × Nat) (List (BitVec 8))
  | [], s => (s, .ok [])
  | x :: r, s =>
    match xlateNow s tile asid x.va.toNat w with
    | (s, .error (c, d)) => (s, .error (c, d, x.va.toNat))
    | (s, .ok p) =>
      match readHome s p.enc p.pa x.len with
      | (s, none) => (s, .error (causeMemUe, 0, p.pa))
      | (s, some v) =>
        match readParts tile asid w r s with
        | (s, .error e) => (s, .error e)
        | (s, .ok bs) => (s, .ok (bytesOf x.len v ++ bs))

def readVa (s : State) (tile asid va n : Nat) (w : Want) : State × Except (Nat × Nat × Nat) (List (BitVec 8)) :=
  if n = 0 then (s, .ok [])
  else
    match vaCheck (va : Int) n 1 with
    | some (c, d) => (s, .error (c, d, va))
    | none => readParts tile asid w (pageParts (mkLane 0 (va : Int) n 0 0)) s

/-- Writes bytes of an address space part by part, at home, in a domain of its own or the page's. -/
def writeParts (tile asid : Nat) (w : Want) (enc : Option Nat) : List Lane → List (BitVec 8) → State → State × Option (Nat × Nat × Nat)
  | [], _, s => (s, none)
  | x :: r, bs, s =>
    match xlateNow s tile asid x.va.toNat w with
    | (s, .error (c, d)) => (s, some (c, d, x.va.toNat))
    | (s, .ok p) => writeParts tile asid w enc r (bs.drop x.len) (homeWriteBytes s (enc.getD p.enc) p.pa (bs.take x.len))

def writeVaIn (s : State) (tile asid va : Nat) (bs : List (BitVec 8)) (user : Bool) (enc : Option Nat) : State × Option (Nat × Nat × Nat) :=
  if bs.isEmpty then (s, none)
  else
    match vaCheck (va : Int) bs.length 1 with
    | some (c, d) => (s, some (c, d, va))
    | none => writeParts tile asid { imageWant user false with wr := true } enc (pageParts (mkLane 0 (va : Int) bs.length 0 0)) bs s

/-- Under the pages' own domains. -/
def writeVa (s : State) (tile asid va : Nat) (bs : List (BitVec 8)) (user : Bool) : State × Option (Nat × Nat × Nat) :=
  writeVaIn s tile asid va bs user none

/-! The image file (R230, R231, R233). -/

/-- CRC-32 of IEEE 802.3 (R230): the remainder after the bits of the bytes, the lowest of each first. -/
def crcBits : List Bool → Nat → Nat
  | [], c => c
  | b :: r, c => if (c % 2 = 1) ≠ (b = true) then crcBits r (c / 2 ^^^ 0xEDB88320) else crcBits r (c / 2)
def crc32 (bs : List (BitVec 8)) : Nat := crcBits ((bs.map (fun b => (upto 8).map b.getLsbD)).flatten) 0xFFFFFFFF ^^^ 0xFFFFFFFF

/-- A section: type, index, offset and length, with its bytes as one number. -/
structure Section where
  typ : Nat
  idx : Nat
  off : Nat
  len : Nat
  num : Nat

def fieldOf (bs : List (BitVec 8)) (off n : Nat) : Nat := ofBytes ((bs.drop off).take n)

/-- The header's own fields (R230): MAGIC, VER, NSEC and the reserved bits. -/
def ngiHeader (head : Nat) : Bool :=
  bits head 0 32 == 0x3149474E && bits head 32 16 == 1 && decide (1 ≤ bits head 48 16) && decide (bits head 48 16 ≤ 256) && bits head 160 352 == 0

/-- The sections of an image whose header and directory pass R236. -/
def sectionsOf (bs : List (BitVec 8)) : Option (List Section) :=
  let head := fieldOf bs 0 64
  let nsec := bits head 48 16
  let size := bits head 64 64
  if !ngiHeader head || size != bs.length || bits head 128 32 != crc32 (bs.drop 64) then none
  else
    let secs := (upto nsec).map (fun k =>
      let e := fieldOf bs (64 + 16 * k) 16
      (e, ({ typ := bits e 0 16, idx := bits e 16 16, off := bits e 64 32, len := bits e 96 32,
             num := fieldOf bs (bits e 64 32) (bits e 96 32) } : Section)))
    let ok := secs.all (fun p =>
      let x := p.2
      bits p.1 32 32 == 0 && decide (1 ≤ x.typ) && decide (x.typ ≤ 7) && (x.typ == 1 || x.idx == 0) && x.off % 64 == 0 &&
        decide (64 + 16 * nsec ≤ x.off) && decide (x.off + x.len ≤ size))
    let apart := secs.all (fun p => (secs.filter (fun q => decide (p.2.off < q.2.off + q.2.len) && decide (q.2.off < p.2.off + p.2.len))).length ≤ 1)
    if ok && apart then some (secs.map (·.2)) else none

/-- A REGION section (R232): its gait and region number, and its contents. -/
structure RegionImg where
  gait : Nat
  region : Nat
  num : Nat
  len : Nat

def regionsOf (secs : List Section) : List RegionImg :=
  (secs.filter (·.typ == 1)).map (fun x => { gait := x.idx / 2 ^ 8, region := x.idx % 2 ^ 8, num := x.num, len := x.len })

/-- A gait's entry (R233): number, width, height and route map. -/
structure GaitImg where
  gnum : Nat
  wd : Nat
  ht : Nat
  good : Bool
  route : List Nat

def heightOf (h : Nat) : Nat := if h < 4 then 2 ^ h else if h = 4 then 12 else 24

/-- How many entries a GAIT section has: they end where the lowest route map begins, or at a word of zeros, which is no entry, since a
gait's number is not 0 (log entry 41). `k` entries are read, whose lowest map is at byte `low`. -/
def gaitCount (x : Section) : Nat → Nat → Nat → Nat
  | 0, k, _ => k
  | f + 1, k, low =>
    let e := bits x.num (64 * k) 64
    if low < 8 * k + 8 || e == 0 then k
    else if min low (bits e 32 32) < 8 * k + 8 then k
    else gaitCount x f (k + 1) (min low (bits e 32 32))

/-- The gaits of a GAIT section (R233). A route entry without V names no tile. -/
def gaitsIn (x : Section) : List GaitImg :=
  (upto (gaitCount x 255 0 x.len)).map (fun k =>
    let e := bits x.num (64 * k) 64
    let map := bits e 32 32
    let ent (i : Nat) : Nat := bits x.num (8 * map + 16 * i) 16
    { gnum := bits e 6 8, wd := 2 ^ bits e 0 3, ht := heightOf (bits e 3 3),
      good := bits e 14 18 == 0 && decide (bits e 0 3 ≤ 4) && decide (bits e 3 3 ≤ 5) && bits e 6 8 != 0 && decide (map + 1024 ≤ x.len) &&
        (upto 512).all (fun i => bits (ent i) 9 6 == 0),
      route := (upto 512).map (fun i => if bit (ent i) 15 then ent i % 512 else 0x200) })

/-- The gaits of an image. That those of several GAIT sections count together, the first of a number before later ones, is the model's choice (log
entry 63). -/
def gaitsOf (secs : List Section) : List GaitImg := ((secs.filter (·.typ == 2)).map gaitsIn).flatten

/-- The 32-bit words of a section. -/
def sectionWords (x : Section) : List Word := (upto (x.len / 4)).map (fun k => BitVec.ofNat 32 (bits x.num (32 * k) 32))

def seqOf (secs : List Section) : List Word := ((secs.find? (·.typ == 4)).map sectionWords).getD []

/-- Edge entries of 128 bits (R234). -/
def edgesIn (x : Section) : List Nat := (upto (min 64 (x.len / 16))).map (fun k => bits x.num (128 * k) 128)

/-- The edge ports of an image: entry n of its first EDGE section is edge port n. That later EDGE sections give none is the model's choice (log
entry 63). -/
def edgesOf (secs : List Section) : List Nat := (secs.find? (·.typ == 3)).elim [] edgesIn

/-- The entries of every EDGE section, which R236 checks. -/
def edgeEntries (secs : List Section) : List Nat := ((secs.filter (·.typ == 3)).map edgesIn).flatten

/-- A PENDATA record (R235): region, gait, pen, offset, and its bytes. -/
structure PenData where
  region : Nat
  gait : Nat
  pen : Nat
  off : Nat
  bytes : List (BitVec 8)
  good : Bool

/-- The records of a section from a byte offset on. -/
def penRecords (x : Section) : Nat → Nat → List PenData
  | 0, _ => []
  | f + 1, at_ =>
    if x.len < at_ + 16 then []
    else
      let h := bits x.num (8 * at_) 128
      let n := bits h 48 32
      { region := bits h 0 8, gait := bits h 8 8, pen := bits h 16 10, off := bits h 26 22,
        bytes := bytesOf n (bits x.num (8 * (at_ + 16)) (8 * n)), good := bits h 80 48 == 0 && decide (at_ + 16 + n ≤ x.len) } ::
          penRecords x f (at_ + 16 + (n + 15) / 16 * 16)

def penDataOf (secs : List Section) : List PenData :=
  ((secs.filter (·.typ == 5)).map (fun x => penRecords x (x.len / 16) 0)).flatten

/-! The tables of a region (R232). -/

def RegionImg.plan (r : RegionImg) : Plan :=
  let p := bits r.num 0 64
  { stash := bits p 60 4, loft := bits p 55 5, ntrg := bits p 48 7, plog2 := bits p 44 4, wlog2 := bits p 40 4 }
def RegionImg.glen (r : RegionImg) : Nat := bits r.num 64 16
def RegionImg.pelen (r : RegionImg) (k : Nat) : Nat := bits r.num (128 + 16 * k) 16
def RegionImg.tmask (r : RegionImg) (n : Nat) : Bool := decide (n < 512) && bit r.num (512 + n)
def RegionImg.stageWord (r : RegionImg) (k : Nat) : Nat := bits r.num (1024 + 32 * k) 32
def RegionImg.fplanWord (r : RegionImg) (k : Nat) : Nat := bits r.num (1536 + 32 * k) 32
def RegionImg.blockWord (r : RegionImg) (k : Nat) : Nat := bits r.num (2048 + 64 * k) 64
def RegionImg.listWord (r : RegionImg) (k : Nat) : Nat := bits r.num (18432 + 32 * k) 32
def RegionImg.penWord (r : RegionImg) (k : Nat) : Nat := bits r.num (26624 + 64 * k) 64
def RegionImg.troughWord (r : RegionImg) (k : Nat) : Nat := bits r.num (92160 + 128 * k) 128
/-- The first word bit of element `e`'s instruction store, 8 for the groom core. -/
def RegionImg.storeAt (r : RegionImg) (e : Nat) : Nat := 165888 + 32 * (upto e).foldl (fun n k => n + r.pelen k) 0
def RegionImg.storeLen (r : RegionImg) (e : Nat) : Nat := if e = 8 then r.glen else r.pelen e
def RegionImg.storeWord (r : RegionImg) (e k : Nat) : Nat := if k < r.storeLen e then bits r.num (r.storeAt e + 32 * k) 32 else 0
def RegionImg.groomAt (r : RegionImg) : Nat := r.storeAt 8 + 32 * r.glen
def RegionImg.gblockWord (r : RegionImg) (k : Nat) : Nat := bits r.num (r.groomAt + 64 * k) 64
def RegionImg.portWord (r : RegionImg) (e k : Nat) : Nat :=
  if e = 8 then bits r.num (r.groomAt + 4096 + 64 * k) 64 else bits r.num (100352 + 64 * (128 * e + k)) 64
/-- Bytes of the section. -/
def RegionImg.bytes (r : RegionImg) : Nat := (r.groomAt + 4096 + 8192) / 8

def stageOf (w : Nat) : Stage := { minpe := bits w 24 4, inipe := bits w 20 4, depth := bits w 0 11 }
def fplanOfWord (w : Nat) : FPlan := { nblk := bits w 24 8, flog2 := bits w 21 3, fslog2 := bits w 17 4 }
def blockOfWord (w : Nat) : Block :=
  { iaddr := bits w 52 12, slot0 := bits w 43 9, nin := bits w 41 2 + 1, vc := bits w 39 2, stage := bits w 35 4, pemask := bits w 27 8,
    cfl := bits w 19 8, cfn := bits w 15 4 }
def gblockOfWord (w : Nat) : Block :=
  { iaddr := bits w 50 14, slot0 := bits w 41 9, nin := bits w 39 2 + 1, vc := bits w 37 2, stage := 0, pemask := 0,
    cfl := bits w 29 8, cfn := bits w 25 4 }
def penOfWord (asid w : Nat) : Pen :=
  { asid := asid, gen := 0, tm := bit w 39, trg := bits w 33 6, eng := bits w 29 4, own := bit w 28, size := bits w 12 11, base := bits w 0 12 }
def troughOfWord (w : Nat) : Trough :=
  let n := bits w 10 8 + 1
  { pen0 := bits w 0 10, nslot := n, pkind := bits w 18 4, ckind := bits w 22 4, free := n, rsvd := 0, filled := 0, taken := 0, nxr := 0,
    nxp := 0, nxt := 0, nxf := 0, posted := [], freed := [], voids := [], waiters := [] }

def RegionImg.blocks (r : RegionImg) : List (Nat × Block) :=
  (upto 256).filterMap (fun k => if bit (r.blockWord k) 0 then some (k, blockOfWord (r.blockWord k)) else none)
def RegionImg.gblocks (r : RegionImg) : List (Nat × Block) :=
  (upto 64).filterMap (fun k => if bit (r.gblockWord k) 0 then some (k, gblockOfWord (r.gblockWord k)) else none)
def RegionImg.fplans (r : RegionImg) : List (Nat × FPlan) :=
  (upto 16).filterMap (fun k => if r.fplanWord k = 0 then none else some (k, fplanOfWord (r.fplanWord k)))
def RegionImg.stages (r : RegionImg) : List (Nat × Stage) :=
  (upto 16).filterMap (fun k => if bit (r.stageWord k) 31 then some (k, stageOf (r.stageWord k)) else none)
def RegionImg.pens (r : RegionImg) (asid : Nat) : List (Nat × Pen) :=
  (upto 1024).filterMap (fun k => if bits (r.penWord k) 12 11 = 0 then none else some (k, penOfWord asid (r.penWord k)))
def RegionImg.troughs (r : RegionImg) : List (Nat × Trough) :=
  (upto 64).filterMap (fun k => if bit (r.troughWord k) 26 then some (k, troughOfWord (r.troughWord k)) else none)

/-- The destinations of a port entry (R186, R187). -/
def RegionImg.portDests (r : RegionImg) (w : Nat) : List Dest :=
  if bit w 60 then (upto (bits w 49 3 + 1)).map (fun k => destOfWord (r.listWord (bits w 52 8 + k)))
  else [{ tile := bits w 40 9, elem := bits w 37 3, vc := bits w 35 2, slot := bits w 26 9 }]

/-! The checks of an image (R51, R53, R58, R72, R169 to R171, R188, R189, R207). -/

/-- Reserved fields, each a first bit and a width, are zero. -/
def zeroBits (w : Nat) (fs : List (Nat × Nat)) : Bool := fs.all (fun f => bits w f.1 f.2 == 0)

def planGood (w : Nat) (p : Plan) : Bool :=
  decide (p.stash ≤ 8) && decide (p.loft ≤ 16) && decide (p.stash + p.loft ≤ 16) && decide (p.ntrg ≤ 64) && decide (6 ≤ p.plog2) &&
    decide (p.plog2 ≤ 12) && decide (p.wlog2 ≤ 8) && decide (p.plog2 + p.wlog2 ≤ 14) && zeroBits w [(0, 40)]

/-- A pen's bytes lie in the pen area, and its holder is legal. -/
def penEntryGood (p : Plan) (x : Pen) : Bool :=
  decide (x.size ≤ 1024) && (!x.own || x.eng != 0 && decide (x.eng ≤ 10)) && decide (256 * (p.loft + p.stash) ≤ x.base) && decide (x.base + x.size ≤ 4096)

def pensApart : List (Nat × Pen) → Bool
  | [] => true
  | x :: r => r.all (fun y => decide (x.2.base + x.2.size ≤ y.2.base) || decide (y.2.base + y.2.size ≤ x.2.base)) && pensApart r

/-- R58. -/
def troughGood (pens : List (Nat × Pen)) (k w : Nat) : Bool :=
  let t := troughOfWord w
  let slot (i : Nat) : Option Pen := (pens.find? (fun p => p.1 == t.pen0 + i)).map (·.2)
  decide (2 ≤ t.nslot) && decide (t.pen0 + t.nslot ≤ 1024) && decide (t.pkind ≤ 4) && decide (t.ckind ≤ 4) &&
    (upto t.nslot).all (fun i => (slot i).elim false (fun p => p.tm && p.trg == k && some p.size == (slot 0).map (·.size)))

/-- R72. A word of zeros is no plan, the model's choice (log entry 57); so is that FLOG2 = 7, outside its field's range of 0 to 6, is refused, which the
rule's list of refusals does not name (log entry 64). -/
def fplanGood (p : Plan) (w : Nat) : Bool :=
  let f := fplanOfWord w
  w == 0 || f.nblk != 0 && decide (f.flog2 + f.fslog2 ≤ p.wlog2) && decide (f.flog2 ≤ 6)

/-- R169. -/
def stageGood (w : Nat) : Bool :=
  let g := stageOf w
  !bit w 31 || decide (1 ≤ g.minpe) && decide (g.minpe ≤ g.inipe) && decide (g.inipe ≤ 8) && decide (1 ≤ g.depth) && decide (g.depth ≤ 1024)

/-- R51: the reserved bits of the tables, in entries that are not in use too. -/
def reservedGood (r : RegionImg) : Bool :=
  zeroBits r.num [(80, 48), (256, 256)] &&
    (upto 16).all (fun k => zeroBits (r.stageWord k) [(28, 3), (11, 9)] && zeroBits (r.fplanWord k) [(0, 17)]) &&
    (upto 256).all (fun k => zeroBits (r.blockWord k) [(1, 14)] && zeroBits (r.listWord k) [(0, 9)]) &&
    (upto 1024).all (fun k => zeroBits (r.penWord k) [(23, 5), (40, 24)]) &&
    (upto 64).all (fun k => zeroBits (r.troughWord k) [(27, 5), (37, 11), (116, 12)] && zeroBits (r.gblockWord k) [(1, 24)]) &&
    (upto 9).all (fun e => (upto 128).all (fun k => zeroBits (r.portWord e k) [(0, 25)]))

/-- The blocks and frame plans of a destination tile. -/
structure Shown where
  blocks : List Block
  fplans : List FPlan

/-- What is known of the tables of launch tiles: nothing, that there are none, or what they hold. -/
abbrev Neighbours := Nat → Option (Option Shown)

def RegionImg.shown (r : RegionImg) : Shown := { blocks := r.blocks.map (·.2), fplans := r.fplans.map (·.2) }

/-- R188, R189: tile, element and slot of a destination. -/
def destShape (wd ht : Nat) (d : Dest) : Bool :=
  decide (d.tile % 16 < wd) && decide (d.tile / 16 < ht) && decide (d.elem ≤ 5) &&
    (if d.elem = 1 || d.elem = 2 then decide (d.slot < 4) else if d.elem = 3 then decide (d.slot < 128)
     else if d.elem = 5 then decide (d.slot < 64) else true)

/-- R51, R188: what a tile shows has the entry slot of a destination, within every frame that any context may use. -/
def Shown.takes (x : Shown) (d : Dest) : Bool :=
  x.blocks.any (fun b => decide (b.slot0 ≤ d.slot) && decide (d.slot < b.slot0 + b.nin) && b.vc == d.vc) &&
    x.fplans.all (fun f => f.nblk == 255 || decide (d.slot < 2 ^ f.fslog2))

/-- R51, R188, R189: a destination of a port or list entry. -/
def destGood (imgs : Neighbours) (wd ht : Nat) (d : Dest) : Bool :=
  destShape wd ht d && (d.elem != 0 || (imgs d.tile).elim true (fun x => x.elim false (·.takes d)))

/-- R170, R184: a cancel-forward destination. -/
def cancelDestGood (imgs : Neighbours) (wd ht : Nat) (d : Dest) : Bool :=
  d.elem == 0 && destGood imgs wd ht d && (imgs d.tile).elim true (fun x => x.elim false (·.blocks.any (fun b => b.slot0 == d.slot && b.vc == d.vc)))

def cancelListGood (r : RegionImg) (imgs : Neighbours) (wd ht : Nat) (b : Block) : Bool :=
  decide (b.cfl + b.cfn ≤ 256) && decide (b.cfn ≤ 8) &&
    (upto b.cfn).all (fun k => cancelDestGood imgs wd ht (destOfWord (r.listWord (b.cfl + k))))

/-- A port entry (R188). An entry with V = 0 sends nothing, so that it needs no slot to arrive at, but its fields are checked too, as are
those of list entries that nothing names (log entry 41). -/
def portGood (r : RegionImg) (imgs : Neighbours) (wd ht w : Nat) : Bool :=
  decide (bits w 61 3 ≤ 5) && (bit w 60 || bits w 49 3 == 0) && decide (bits w 52 8 + bits w 49 3 ≤ 255) &&
    (bit w 60 || (r.portDests w).all (destShape wd ht)) && (!bit w 25 || (r.portDests w).all (destGood imgs wd ht))

/-- The header of a block in an element's store (R170, R171, R207). -/
def headerGood (r : RegionImg) (e limit : Nat) (b : Block) : Bool :=
  let h := r.storeWord e b.iaddr
  bits h 24 2 + 1 == b.nin && bits h 12 4 == 0xA && decide (b.iaddr + bits h 26 6 + 2 ≤ limit)

def slotsApart : List (Nat × Block) → Bool
  | [] => true
  | x :: r => r.all (fun y => decide (x.2.slot0 + x.2.nin ≤ y.2.slot0) || decide (y.2.slot0 + y.2.nin ≤ x.2.slot0)) && slotsApart r

/-- Ports that an instruction word can name (R209, R211, R253, R292). -/
def portsNamed (w : Nat) : List Nat :=
  let target (t : Nat) : List Nat := if 384 ≤ t then [t - 384] else []
  match decodeBlock w 0 with
  | .ok (.switchPol _ n (.port p)) => (upto (n + 1)).map (fun k => p + k)
  | .ok (.switchLane _ _ n (.port p)) => (upto (n + 1)).map (fun k => p + k)
  | .ok (.qrsv _ np t) => np :: target t.code
  | .ok (.qtake _ np t) => np :: target t.code
  | .ok _ => target (w % 512) ++ (if bits w 30 2 = 0 then target (bits w 9 9) else [])
  | .error _ => []

/-- R188: no block with SUP = 0 names a port with an ELEM 4 destination. -/
def groomPortsGood (r : RegionImg) (e : Nat) (b : Block) : Bool :=
  let h := r.storeWord e b.iaddr
  let words := (upto (bits h 26 6 + 1)).map (fun k => r.storeWord e (b.iaddr + 1 + k))
  let named := (words.foldl (fun (x : List Nat × Bool) w => if x.2 then (x.1, false) else (portsNamed w ++ x.1, w / 2 ^ 24 == 0x82)) ([], false)).1
  bit h 23 || named.all (fun n => decide (128 ≤ n) || !bit (r.portWord e n) 25 || (r.portDests (r.portWord e n)).all (·.elem != 4))

/-- The PEs that hold a block (R170). -/
def holders (b : Block) : List Nat := (upto 8).filter (bit b.pemask)

/-- R400: the stage of each PE, `none` where a stage gets too few. -/
def assignStages (stages : List (Nat × Stage)) (blocks : List (Nat × Block)) : Option (List (Option Nat)) :=
  stages.foldl (fun (acc : Option (List (Option Nat))) g => acc.bind (fun a =>
    let can := (upto 8).filter (fun e => (a.getD e none).isNone && blocks.any (fun b => b.2.stage == g.1 && bit b.2.pemask e))
    let got := can.take g.2.inipe
    if got.length < g.2.minpe then none else some (got.foldl (fun a e => lset a e (some g.1)) a))) (some (List.replicate 8 none))

/-- Every check of CFGLD on a region's image. -/
def imageGood (r : RegionImg) (imgs : Neighbours) (wd ht : Nat) : Bool :=
  let p := r.plan
  let pens := r.pens 0
  let bs := r.blocks
  let gs := r.gblocks
  decide (r.glen ≤ 16384) && (upto 8).all (fun k => decide (r.pelen k ≤ 4096)) && decide (r.bytes ≤ r.len) && reservedGood r &&
    planGood (bits r.num 0 64) p && pens.all (fun x => penEntryGood p x.2) && pensApart pens &&
    (upto 64).all (fun k => !bit (r.troughWord k) 26 || troughGood pens k (r.troughWord k)) &&
    (upto 16).all (fun k => fplanGood p (r.fplanWord k) && stageGood (r.stageWord k)) &&
    decide (r.stages.foldl (fun n g => n + g.2.minpe) 0 ≤ 8) &&
    (upto 256).all (fun k => destShape wd ht (destOfWord (r.listWord k))) &&
    bs.all (fun b => b.2.pemask != 0 && r.stages.any (·.1 == b.2.stage) &&
      (holders b.2).all (fun e => headerGood r e 4096 b.2 && groomPortsGood r e b.2) && cancelListGood r imgs wd ht b.2) &&
    gs.all (fun b => headerGood r 8 16384 b.2 && groomPortsGood r 8 b.2 && cancelListGood r imgs wd ht b.2) &&
    slotsApart bs && slotsApart gs && (upto 9).all (fun e => (upto 128).all (fun k => portGood r imgs wd ht (r.portWord e k))) &&
    (assignStages r.stages bs).isSome

/-! Loading (R81, R380, R381, R400). -/

/-- The entries of keys in `[lo, lo + n)` replaced by new ones, whose keys count from `lo`. -/
def sreplace {α : Type} (m : Store α) (lo n : Nat) (new : Store α) : Store α :=
  m.filter (fun p => p.1 < lo) ++ new.map (fun p => (lo + p.1, p.2)) ++ m.filter (fun p => lo + n ≤ p.1)

/-- Bytes `[lo, lo + n)` of a memory replaced by the bytes listed, whose addresses count from `lo`; unless `all`, a byte that is listed
already stays. -/
def mreplace (m : List Host.Cell) (lo n : Nat) (all : Bool) (new : List Host.Cell) : List Host.Cell :=
  new.foldl (fun m c => if !all && (sget m (lo + c.1)).isSome then m else mset m (lo + c.1) c.2) (if all then sdrop m lo n else m)

/-- The words of an element's store that are not zero. -/
def storeWords (r : RegionImg) : Store Word :=
  ((upto 9).map (fun e => (upto (r.storeLen e)).filterMap (fun k =>
    if r.storeWord e k = 0 then none else some (e * 2 ^ 14 + k, BitVec.ofNat 32 (r.storeWord e k))))).flatten

def portEntries (r : RegionImg) : Store Port :=
  ((upto 9).map (fun e => (upto 128).filterMap (fun k =>
    let w := r.portWord e k
    if bit w 25 then some (e * 128 + k, ({ top := bits w 61 3, dests := r.portDests w } : Port)) else none))).flatten

/-- What GAIT replaces: stage, block, list and port tables, instruction stores, and the PEs' stages. -/
def loadGait (s : State) (tile gait : Nat) (r : RegionImg) : State :=
  let s := { s with tab := { s.tab with
    stages := sreplace s.tab.stages (tile * 16) 16 r.stages, blocks := sreplace s.tab.blocks (tile * 256) 256 r.blocks,
    gblocks := sreplace s.tab.gblocks (tile * 64) 64 r.gblocks,
    lists := sreplace s.tab.lists (tile * 256) 256 ((upto 256).map (fun k => (k, destOfWord (r.listWord k)))),
    ports := sreplace s.tab.ports (tile * 1152) 1152 (portEntries r),
    imem := sreplace s.tab.imem (tile * 2 ^ 18) (2 ^ 18) (storeWords r), gaitReg := sset s.tab.gaitReg tile gait } }
  let st := (assignStages r.stages r.blocks).getD (List.replicate 8 none)
  (upto 8).foldl (fun s e => setPe s tile e { peAt s tile e with stage := st.getD e none }) s

/-- The trough slots as CFGLD leaves them (R58). -/
def slotPen (ts : List (Nat × Trough)) (n : Nat) (p : Pen) : Pen :=
  if ts.any (fun t => decide (t.2.pen0 ≤ n) && decide (n < t.2.pen0 + t.2.nslot)) then { p with own := true, eng := 10 } else p

/-- R81, R340, R358, R361: what CFGLD zeroes on a tile. -/
def clearTile (s : State) (tile : Nat) (p : Plan) : State :=
  let lo := tile * 2 ^ 24 + (p.loft + p.stash) * 2 ^ 20
  let n := (16 - p.loft - p.stash) * 2 ^ 20
  let off (x : Nat × RowCfg) : Nat × RowCfg := if x.1 / 4 == tile then (x.1, { x.2 with en := false, cword := x.2.cword &&& 0xFFFFFFF7 }) else x
  let s := clearSram s (fun k => decide (lo / 8 ≤ k) && decide (k < lo / 8 + n / 8) || decide (islandWord (islWord tile 0) ≤ k) &&
    decide (k < islandWord (islWord (tile + 1) 0)) || decide (stashWord (stashKey tile 0 / 8) ≤ k) && decide (k < stashWord (stashKey (tile + 1) 0 / 8)))
  { s with
    mem := { s.mem with
      sram := sdrop s.mem.sram lo n,
      stash := sdrop s.mem.stash (stashKey tile 0) (2 ^ 52), stashUse := sdrop s.mem.stashUse (lineKey tile 0) (2 ^ 45),
      stashBad := sdrop s.mem.stashBad (stashKey tile 0 / 8) (2 ^ 49) },
    isl := { s.isl with
      acc := sdrop s.isl.acc (tile * 65536) 65536, accBad := sdrop s.isl.accBad (islWord tile 0) (islWord 1 0), next := sdrop s.isl.next (tile * 16) 16,
      lattice := sdrop s.isl.lattice (tile * 256) 256, act := sdrop s.isl.act (tile * 256) 256, alo := sdel s.isl.alo tile,
      ainv := sdel s.isl.ainv tile, ax := sdrop s.isl.ax (tile * 16) 16 },
    rws := { s.rws with ncfg := sdrop s.rws.ncfg (tile * 4) 4, brcfg := s.rws.brcfg.map off } }

/-- CFGLD of an image on a tile: every table of R232, R81, and the pens' initial data (R431). -/
def loadRegion (s : State) (tile asid gait : Nat) (lts : List Nat) (r : RegionImg) (data : List PenData) : State :=
  let s := clearTile (loadGait s tile gait r) tile r.plan
  let s := { s with tab := { s.tab with
    plan := sset s.tab.plan tile r.plan, fplans := sreplace s.tab.fplans (tile * 16) 16 r.fplans,
    troughs := sreplace s.tab.troughs (tile * 64) 64 r.troughs,
    pens := sreplace s.tab.pens (tile * 1024) 1024 ((r.pens asid).map (fun p => (p.1, slotPen r.troughs p.1 p.2))),
    ltiles := sset s.tab.ltiles tile lts, cfgAt := sset s.tab.cfgAt tile s.cyc } }
  let mine := data.filter (fun d => d.region == r.region && d.gait == r.gait)
  mine.foldl (fun s d => if d.bytes.isEmpty then s else sramWriteBytes s (penByte s tile d.pen d.off) d.bytes) s

/-- A tile without live frames and outstanding engine commands. -/
def framesGone (s : State) (tile : Nat) : Bool :=
  !s.frm.windows.any (fun w => w.1 / 2 ^ 14 == tile && w.2.pos.any (fun p => p.2.lv)) && !s.ops.any (fun o => o.tile == tile && isEngine o.kind && o.tid == 0)

/-- R380: nor a runnable task. -/
def tileQuiet (s : State) (tile : Nat) : Bool := framesGone s tile && !s.frm.ready.any (·.tile == tile)

/-- R381: the parts of the image that a gait may not change are those in force. -/
def samePlan (s : State) (tile : Nat) (r : RegionImg) : Bool :=
  let pens := srange s.tab.pens (tile * 1024) 1024
  let still (p : Nat × Pen) : Nat × Nat × Nat × Bool × Nat := (p.1, p.2.size, p.2.base, p.2.tm, p.2.trg)
  let fixed (t : Nat × Trough) : Nat × Nat × Nat × Nat × Nat := (t.1, t.2.pen0, t.2.nslot, t.2.pkind, t.2.ckind)
  planOf s tile == r.plan && pens.map still == (r.pens 0).map still && (srange s.tab.troughs (tile * 64) 64).map fixed == r.troughs.map fixed &&
    srange s.tab.fplans (tile * 16) 16 == r.fplans

/-- The region of a gait that configures a host tile: the one that its lowest launch tile belongs to. -/
def regionFor (rs : List RegionImg) (gait : Nat) (lts : List Nat) : Option RegionImg :=
  rs.find? (fun r => r.gait == gait && lts.head?.elim false r.tmask)

/-- What the images of a launch say of the tiles of a gait. -/
def neighboursOf (rs : List RegionImg) (gait : Nat) : Neighbours := fun n => some ((rs.find? (fun r => r.gait == gait && r.tmask n)).map (·.shown))

/-- What CFGLD of one section knows on a tile (R51): the section's own tables for the tiles that it covers, and the tables in force on other tiles
of the launch that a CFGLD has loaded. A tile that none has loaded has no tables to be held against yet (log entry 40). -/
def neighboursAt (s : State) (q : Nat) (r : RegionImg) : Neighbours := fun n =>
  if r.tmask n then some (some r.shown)
  else
    match placeTile s q n with
    | none => none
    | some (t, _) =>
      if (sget s.tab.cfgAt t).isNone then none
      else some (some { blocks := (srange s.tab.blocks (t * 256) 256).map (·.2), fplans := (srange s.tab.fplans (t * 16) 16).map (·.2) })

/-- The bytes of a launch's image (R230): its header, whose own fields are tested first (R236), gives SIZE. -/
def readImage (s : State) (tile asid va : Nat) : State × Except Nat (List (BitVec 8)) :=
  match readVa s tile asid va 64 (imageWant (asid != 0) true) with
  | (s, .error (c, _, _)) => (s, .error c)
  | (s, .ok h) =>
    let size := fieldOf h 8 8
    if size < 64 || !ngiHeader (fieldOf h 0 64) then (s, .error causeCfg)
    else
      match readVa s tile asid va size (imageWant (asid != 0) true) with
      | (s, .error (c, _, _)) => (s, .error c)
      | (s, .ok bs) => (s, .ok bs)

end Sys2Proof.Machine
end

