-- ==== Sys2Proof/Machine/Save.lean ====
section
/-! DEFINITION. Saved state: taking the state of a launch tile from its tile, giving it to another, and the layout in which it is
written (R383, R417, R418, R421, R422). -/

namespace Sys2Proof.Machine

/-! A launch tile's own ranges of the frame store (R418). -/

def slotSpan (s : State) (tile : Nat) : Nat := let p := planOf s tile; 2 ^ (p.plog2 + p.wlog2)
def slotLow (s : State) (tile rank : Nat) : Nat := tile * 2 ^ 14 + rank * slotSpan s tile
def winSpan (s : State) (tile : Nat) : Nat := 2 ^ (planOf s tile).plog2
def winLow (s : State) (tile rank : Nat) : Nat := tile * 2 ^ 14 + rank * winSpan s tile

/-- Pen area of a tile: first address and size (R49). -/
def penArea (s : State) (tile : Nat) : Nat × Nat :=
  let p := planOf s tile
  (tile * 2 ^ 24 + (p.loft + p.stash) * 2 ^ 20, (16 - p.loft - p.stash) * 2 ^ 20)

/-- The slots of a tile that hold a token. -/
def tileSlots (s : State) (tile : Nat) : Store Slot := (srange s.frm.slots (tile * 2 ^ 14) (2 ^ 14)).map (fun p => (tile * 2 ^ 14 + p.1, p.2))

/-- A save or a PARK reads every pen, every slot with a token, the island's tables and the records of a tile: their single-bit errors are corrected (R82,
R88). -/
def readTile (s : State) (tile : Nat) : State :=
  let a := penArea s tile
  let s := (tileSlots s tile).foldl (fun s p => correctSoft s tile (frameWord p.1) (slotWords p.2)) (fixSram s a.1 a.2)
  let s := (areaRows s tile).foldl (fun s r => correctAt s (rowArea s tile + r.place) (4 * rowElems r)) (fixIsl s tile 0 (islWord 1 0))
  let s := (s.flt.parked.filter (fun p => p.1 / 2 ^ 14 == tile)).foldl (fun s p => correctAt s (parkSlice s tile + p.1 % 2 ^ 14 * 512) 512) s
  (s.flt.halted.filter (fun p => p.1 / 9 == tile)).foldl (fun s p => correctAt s (haltAddr s tile (p.1 % 9)) 32768) s

/-- Addresses of the first uncorrectable errors that such a reading of a tile meets in its pens, its slots and its island's tables: the TSA, and the byte
of the frame store and of the tables. -/
def saveErrors (s : State) (tile : Nat) : List Nat :=
  let a := penArea s tile
  let pens := ((s.mem.sramBad ++ s.mem.sramLatent).find? (fun p => decide (a.1 ≤ p.1 * 8) && decide (p.1 * 8 < a.1 + a.2))).map (fun p => p.1 * 8 % 2 ^ 24)
  let slots := (tileSlots s tile).findSome? (fun p => (slotError s p.1 p.2).map (fun k => (k - frameWord (tile * 2 ^ 14)) * 8))
  let tables := ((srange s.isl.accBad (islWord tile 0) (islWord 1 0) ++ srange s.mem.sramLatent (islandWord (islWord tile 0)) (islWord 1 0)).head?).map (·.1 * 8)
  [pens, slots, tables].filterMap id

/-- What it reads with an uncorrectable error is reported to the supervisor, and the bytes are saved as they stand, since no mark goes with
them (R83; the model's choice, log entry 53). -/
def reportBad (s : State) (tile : Nat) : State :=
  let s := readTile s tile
  (saveErrors s tile).foldl (fun s a => frameless s tile causeMemUe 0 a) s

/-- Operations that a saved launch tile keeps: those of the launch on the tile at the rank. -/
def opHere (q tile rank : Nat) (o : Op) : Bool := o.tile == tile && o.rank == rank && o.cx.q == q && o.elem != 8

def outHere (s : State) (q tile : Nat) (e : OutEntry) : Bool :=
  e.tile == tile && e.elem != 8 && e.elem != 14 && (ctxOf s e.tok.hdr.ctx).elim false (fun x => x.q == q)

/-- First byte of the pen area within its tile. -/
def areaByte (s : State) (tile : Nat) : Nat := let p := planOf s tile; (p.loft + p.stash) * 2 ^ 20

/-- A pen of a saved launch tile with its bytes. -/
def penCopy (area : Nat) (x : SavedTile) (k : Nat) : Option Pen × List Host.Cell :=
  match sget x.pens k with
  | none => (none, [])
  | some p => (some p, srange x.sram (p.base * 4096 - area) (p.size * 4096))

/-- Pens and troughs that differ between two saved states of a launch tile. -/
def changedIn (area : Nat) (old new : SavedTile) : List Nat :=
  (new.pens.map (·.1)).filter (fun k => penCopy area old k != penCopy area new k) ++
    ((new.troughs.map (·.1)).filter (fun k => sget old.troughs k != sget new.troughs k)).map (· + 1024)

/-- A trough with the waiters of one rank. -/
def waitersOf (s : State) (rank : Nat) (t : Trough) : Trough :=
  let here (w : Waiter) : Bool := match w with
    | .pe _ _ r _ _ _ _ _ => r == rank
    | .dray _ op => (opById s op).elim false (fun o => o.rank == rank)
  { t with waiters := t.waiters.filter here }

/-- The rank of a block whose entries wait: that of the operation that holds them back. -/
def heldRank : List CbEntry → Nat
  | .op o :: _ => o.rank
  | _ => 0

/-- The state of one launch tile (R421). No mark of an error goes with it (R83), and the bytes of records in the park area are taken as they stand
(log entry 54). Tables that a tile has once are saved with every launch tile that it hosts; `old` is what the
launch tile was last saved or loaded with. -/
def saveTile (s : State) (q tile rank n : Nat) (old : Option SavedTile) : SavedTile :=
  let here (p : Nat × Task) : Bool := p.1 / 9 == tile && p.2.rank == rank
  let keys := (s.flt.halted.filter here).map (·.1)
  let only {α : Type} (m : Store α) : Store α := (m.filter (fun p => keys.contains p.1)).map (fun p => (p.1 % 9, p.2))
  let parked := srange s.flt.parked (slotLow s tile rank) (slotSpan s tile)
  let x : SavedTile :=
  { ltile := n, mine := [],
    slots := srange s.frm.slots (slotLow s tile rank) (slotSpan s tile),
    windows := srange s.frm.windows (winLow s tile rank) (winSpan s tile), parked := parked,
    records := parked.map (fun p => (p.1, homeBytes s 0 (parkSlice s tile + (rank * slotSpan s tile + p.1) * 512) 512)),
    halts := keys.map (fun k => (k % 9, homeBytes s 0 (haltAddr s tile (k % 9)) 32768)),
    handlers := s.frm.ready.filter (fun r => r.tile == tile && r.rank == rank && r.kind == .handler),
    pending := s.flt.pending.filter (fun p => p.tile == tile && p.fr.rank == rank),
    halted := only s.flt.halted, haltRecs := only s.flt.haltRecs, resumed := only s.flt.resumed, resuming := only s.flt.resuming,
    commits := (upto 8).filterMap (fun e =>
      if (peAt s tile e).held.isEmpty || heldRank (peAt s tile e).held != rank then none else some (e, (peAt s tile e).held)),
    astat := srange s.astat (ctxKey tile rank 0) (2 ^ 16), nxc := srange s.isl.nxc (ctxKey tile rank 0) (2 ^ 16),
    pens := srange s.tab.pens (tile * 1024) 1024, sram := srange s.mem.sram (penArea s tile).1 (penArea s tile).2,
    troughs := (srange s.tab.troughs (tile * 64) 64).map (fun p => (p.1, waitersOf s rank p.2)),
    owned := s.frm.owned.filter (fun x => x.tile == tile && x.rank == rank), ops := s.ops.filter (opHere q tile rank),
    acc := srange s.isl.acc (tile * 65536) 65536,
    next := srange s.isl.next (tile * 16) 16, lattice := srange s.isl.lattice (tile * 256) 256, act := srange s.isl.act (tile * 256) 256,
    alo := srange s.isl.alo tile 1, ainv := srange s.isl.ainv tile 1, ax := srange s.isl.ax (tile * 16) 16,
    outs := s.net.outs.filter (fun e => outHere s q tile e && rank == 0), ncfg := srange s.rws.ncfg (tile * 4) 4,
    brcfg := srange s.rws.brcfg (tile * 4) 4, reins := srange s.rws.reins (tile * 256) 256,
    rein := srange s.mem.rein (tile * 2 ^ 20) (2 ^ 20),
    rows := (s.rws.rows.filter (fun (r : Row) => r.tile == tile && r.rank == rank)).map (areaRow s),
    cancels := s.frm.cancels.filter (fun f => f.tile == tile && f.rank == rank) }
  let alone := (sgetD s.tab.ltiles tile []).length ≤ 1
  match old with
  | none => x
  | some y => { x with mine := y.mine ++ (if alone then (changedIn (areaByte s tile) y x).filter (fun k => !y.mine.contains k) else []) }

/-- What a launch leaves on a tile once it has been saved: nothing of its own. Probe and rein tables stay (R365). -/
def vacateTile (s : State) (q tile : Nat) : State :=
  let all := slotLow s tile 0
  let c0 := ctxKey tile 0 0
  let gone (o : Op) : Bool := o.tile == tile && o.cx.q == q && o.elem != 8
  let pe (p : Nat × Pe) : Nat × Pe := if p.1 / 9 == tile && p.1 % 9 != 8 then (p.1, { p.2 with run := none, rel := [], behind := [], moved := false }) else p
  { s with
    frm := { s.frm with
      slots := sdrop s.frm.slots all (2 ^ 14), windows := sdrop s.frm.windows all (2 ^ 14),
      ready := s.frm.ready.filter (fun r => !(r.tile == tile && r.kind != .groom)), owned := s.frm.owned.filter (fun x => x.tile != tile),
      cancels := s.frm.cancels.filter (fun f => f.tile != tile) },
    flt := { s.flt with
      parked := sdrop s.flt.parked all (2 ^ 14), pending := s.flt.pending.filter (fun p => p.tile != tile),
      halted := sdrop s.flt.halted (tile * 9) 8, haltRecs := sdrop s.flt.haltRecs (tile * 9) 8, resumed := sdrop s.flt.resumed (tile * 9) 8, resuming := sdrop s.flt.resuming (tile * 9) 8 },
    astat := sdrop s.astat c0 (2 ^ 20), ops := s.ops.filter (fun o => !gone o),
    isl := { s.isl with nxc := sdrop s.isl.nxc c0 (2 ^ 20) },
    net := { s.net with outs := s.net.outs.filter (fun e => !outHere s q tile e) },
    rws := { s.rws with rows := s.rws.rows.filter (fun (r : Row) => r.tile != tile) }, pe := s.pe.map pe }

/-- Entries joined: those present stay, unless `weak` says that one gives way. -/
def sjoin {α : Type} (weak : α → Bool) (m : Store α) (lo : Nat) (new : Store α) : Store α :=
  new.foldl (fun m p => if ((sget m (lo + p.1)).filter (fun x => !weak x)).isSome then m else sset m (lo + p.1) p.2) m

/-- Every entry replaces what stands. -/
def sover {α : Type} (m : Store α) (lo : Nat) (new : Store α) : Store α := new.foldl (fun m p => sset m (lo + p.1) p.2) m

/-- The words that the restored slots and island tables are written to lose their marks (R83). -/
def clearRestored (s : State) (x : SavedTile) (tile lo : Nat) (first : Bool) : State :=
  let s := x.slots.foldl (fun s p => clearSlot s (lo + p.1) (fun _ => true)) s
  if first then clearIsl s tile 0 (islWord 1 0) else s

/-- Frame records and halt records in the park slice of the tile that takes a launch tile (R404, R421, R427). -/
def restoreRecords (s : State) (x : SavedTile) (tile rank : Nat) : State :=
  let s := x.records.foldl (fun s p => recordWrite s (parkSlice s tile + (rank * slotSpan s tile + p.1) * 512) 512 p.2) s
  let s := moveRows (x.halts.foldl (fun s p => recordWrite s (haltAddr s tile p.1) 32768 p.2) s) tile
  (s.rws.rows.filter (fun (r : Row) => r.tile == tile && x.rows.any (fun y => y.id == r.id && y.withdrawn && !y.held))).foldl withdrawRow s

/-- An operation as it is restored: a shoot-down may have passed while it was saved, so that what is still to be performed is translated anew
(R38). -/
def retranslated (o : Op) : Op :=
  if translates o.kind && (o.phase == .queued || o.phase == .ready) then retranslate { o with phase := .queued } else o

/-- The saved state of a launch tile on a tile that GAIT or CFGLD has loaded, at a rank (R417 step 8, R418), pens and troughs apart. What
launch tiles of one host would both hold once, the lowest gives (log entry 22). -/
def restoreTile (s : State) (x : SavedTile) (tile rank : Nat) : State :=
  let lo := slotLow s tile rank
  let first := rank = 0
  let table {α : Type} (weak : α → Bool) (m : Store α) (lo n : Nat) (new : Store α) : Store α :=
    if first then sreplace m lo n new else sjoin weak m lo new
  let move (o : Op) : Op := retranslated { o with tile := tile, rank := rank }
  let entry (e : CbEntry) : CbEntry := match e with
    | .op o => .op (move o)
    | .emit h v d => CbEntry.emit h v d
  let off (c : RowCfg) : Bool := !c.en
  let s := clearRestored s x tile lo first
  let s := restoreRecords { s with
    frm := { s.frm with
      slots := sover s.frm.slots lo x.slots,
      windows := sover s.frm.windows (winLow s tile rank) x.windows,
      ready := s.frm.ready ++ x.handlers.map (fun r => { r with tile := tile, rank := rank, frec := r.frec.map (fun f => { f with rank := rank }) }),
      owned := s.frm.owned ++ x.owned.map (fun y => { y with tile := tile, rank := rank }),
      cancels := s.frm.cancels ++ x.cancels.map (fun f => { f with tile := tile, rank := rank }) },
    flt := { s.flt with
      parked := sover s.flt.parked lo (x.parked.map (fun p => (p.1, { p.2 with fr := p.2.fr.map (fun f => { f with rank := rank }) }))),
      pending := s.flt.pending ++ x.pending.map (fun p => { p with tile := tile, fr := { p.fr with rank := rank } }),
      halted := sover s.flt.halted (tile * 9) (x.halted.map (fun p => (p.1, { p.2 with rank := rank }))),
      haltRecs := sover s.flt.haltRecs (tile * 9) (x.haltRecs.map (fun p => (p.1, { p.2 with rank := rank }))),
      resumed := sover s.flt.resumed (tile * 9) x.resumed, resuming := sover s.flt.resuming (tile * 9) x.resuming },
    astat := sover s.astat (ctxKey tile rank 0) x.astat,
    ops := s.ops ++ x.ops.map move,
    mem := { s.mem with rein := mreplace s.mem.rein (tile * 2 ^ 20) (2 ^ 20) (rank == 0) x.rein },
    isl := { s.isl with
      acc := table (fun _ => false) s.isl.acc (tile * 65536) 65536 x.acc,
      next := table (fun _ => false) s.isl.next (tile * 16) 16 x.next, lattice := table (fun _ => false) s.isl.lattice (tile * 256) 256 x.lattice,
      act := table (fun _ => false) s.isl.act (tile * 256) 256 x.act, alo := table (fun _ => false) s.isl.alo tile 1 x.alo,
      ainv := table (fun _ => false) s.isl.ainv tile 1 x.ainv, ax := table (fun _ => false) s.isl.ax (tile * 16) 16 x.ax,
      nxc := sover s.isl.nxc (ctxKey tile rank 0) x.nxc },
    net := { s.net with outs := s.net.outs ++ x.outs.map (fun e => { e with tile := tile }) },
    rws := { s.rws with
      ncfg := table off s.rws.ncfg (tile * 4) 4 x.ncfg, brcfg := table off s.rws.brcfg (tile * 4) 4 x.brcfg,
      reins := table (fun _ => false) s.rws.reins (tile * 256) 256 x.reins,
      rows := s.rws.rows ++ x.rows.map (fun (r : Row) => { r with tile := tile, rank := rank, withdrawn := false }) } } x tile rank
  x.commits.foldl (fun s c => setPe s tile c.1 { peAt s tile c.1 with rel := (peAt s tile c.1).rel ++ c.2.map entry }) s

/-- Of the launch tiles of a host, the one whose pen or trough `k` stands: the one that has changed it while it was alone, else the first
with contents. -/
def standing (xs : List SavedTile) (k : Nat) (full : SavedTile → Bool) : Option SavedTile :=
  (xs.find? (fun x => x.mine.contains k)).orElse (fun _ => (xs.find? full).orElse (fun _ => xs.head?))

/-- A trough's waiters at a rank. -/
def rankWaiters (rank : Nat) (t : Trough) : List Waiter :=
  t.waiters.map (fun w => match w with
    | .pe k e _ c i b p port => Waiter.pe k e rank c i b p port
    | .dray k op => Waiter.dray k op)

/-- The saved states of a host's launch tiles, by rank (R418). -/
def restoreHost (s : State) (xs : List SavedTile) (tile : Nat) : State :=
  let s := (xs.zipIdx).foldl (fun s x => restoreTile s x.1 tile x.2) s
  let area := areaByte s tile
  let keys := (xs.head?.map (fun x => x.pens.map (·.1))).getD []
  let chosen (k : Nat) : Option (Pen × List Host.Cell) :=
    (standing xs k (fun x => !(penCopy area x k).2.isEmpty)).bind (fun x => (penCopy area x k).1.map (fun p => (p, (penCopy area x k).2)))
  let pens := keys.filterMap (fun k => (chosen k).map (fun p => (k, p.1)))
  let bytes := keys.foldl (fun m k => (chosen k).elim m (fun p => p.2.foldl (fun m c => sset m (p.1.base * 4096 - area + c.1) c.2) m)) []
  let tks := (xs.head?.map (fun x => x.troughs.map (·.1))).getD []
  let trough (k : Nat) : Option (Nat × Trough) :=
    let ws := ((xs.zipIdx).map (fun x => (sget x.1.troughs k).elim [] (rankWaiters x.2))).flatten
    (standing xs (1024 + k) (fun _ => false)).bind (fun x => (sget x.troughs k).map (fun t => (k, { t with waiters := ws })))
  let s := clearSram s (fun k => pens.any (fun p => wholeWord (tile * 2 ^ 24 + p.2.base * 4096) (p.2.size * 4096) k))
  { s with
    tab := { s.tab with pens := sreplace s.tab.pens (tile * 1024) 1024 pens, troughs := sreplace s.tab.troughs (tile * 64) 64 (tks.filterMap trough) },
    mem := { s.mem with sram := mreplace s.mem.sram (penArea s tile).1 (penArea s tile).2 true bytes } }

/-- Operations in issue order after a restore. -/
def sortOps (s : State) : State :=
  let ins (o : Op) (l : List Op) : List Op := l.takeWhile (fun p => decide (p.id < o.id)) ++ o :: l.dropWhile (fun p => decide (p.id < o.id))
  { s with ops := s.ops.foldr ins [] }

/-- The frames of a tile that are live or parked: rank, context, iteration and position. -/
def framesOn (s : State) (tile : Nat) : List (Nat × Nat × Nat × Position) :=
  let span := winSpan s tile
  let pool := (sget s.sch.launches (sgetD s.tab.owner tile 4096)).elim 0 (·.pool)
  ((srange s.frm.windows (tile * 2 ^ 14) (2 ^ 14)).map (fun w =>
    w.2.pos.filterMap (fun p => if p.2.lv || p.2.pk then some (w.1 / span, pool + w.1 % span, p.2.it, p.2) else none))).flatten

/-- Every frame of a tile whose blocks can fire becomes runnable again. -/
def wakeTile (s : State) (tile : Nat) : State :=
  let live := ((framesOn s tile).filter (fun f => f.2.2.2.lv)).map (fun f => (f.1, f.2.1, f.2.2.1))
  live.foldl (fun s x => wakeFrame s tile x.1 x.2.1 x.2.2) s

/-! The layout (R421, R422): sections TYPE 1 to 14; what stands inside one is not given (log entry 19). -/

def sectionBytes (fresh t : Nat) : List (BitVec 8) :=
  let n := Config.savedLen fresh t % 2 ^ 32
  bytesOf 16 (t + n * 2 ^ 32) ++ (upto n).map (fun k => Config.savedByte fresh (t * 2 ^ 32 + k))

/-- A launch tile's image. -/
def tileImage (fresh : Nat) : List (BitVec 8) := ((upto 14).map (fun t => sectionBytes fresh (t + 1))).flatten

/-- The save area of a launch: header, directory and images (R422). -/
def saveImage (fresh q gait : Nat) (lts : List Nat) : List (BitVec 8) :=
  let n := lts.length
  let head := bytesOf 64 (0x31564153 + 2 ^ 32 * (q + gait * 2 ^ 12) + 2 ^ 64 * n)
  let imgs := (upto n).map (fun k => tileImage (fresh + k))
  let off (k : Nat) : Nat := 64 + 16 * n + (imgs.take k).foldl (fun a b => a + b.length) 0
  let dir := (upto n).map (fun k => bytesOf 16 (lts.getD k 0 + off k * 2 ^ 32 + (imgs.getD k []).length * 2 ^ 64))
  head ++ dir.flatten ++ imgs.flatten

/-- Places of consecutive parts of given sizes. -/
def placesFrom (a : Nat) : List Nat → List Nat
  | [] => []
  | n :: r => a :: placesFrom (a + n) r

/-- Where the section headers of a save of some launch tiles stand, by the fresh counter that it was written with. -/
def savedHeaders (fresh n : Nat) : List Nat :=
  placesFrom (Config.saveArea fresh + 64 + 16 * n)
    ((upto n).map (fun k => (upto 14).map (fun t => 16 + Config.savedLen (fresh + k) (t + 1) % 2 ^ 32))).flatten

end Sys2Proof.Machine
end

