-- ==== Sys2Proof/Machine/System.lean ====
section
/-! DEFINITION. The SYS subforms: supervisor registers, broadcasts, CFGLD, GAIT, IDLE and PARK; and the clocks and power states of tiles
and quadrants (R36 to R40, R113 to R115, R160, R377 to R383, R452, R453). -/

namespace Sys2Proof.Machine

/-! Issue (R220, R378). -/

/-- A SYS subform: privileged; `na` and `nb` lanes of its operands are needed, and `ok` says that no reserved bit is set. -/
def sysBody (k : OpKind) (a b : Src) (na nb : Nat) (ok : List Nat → List Nat → Bool) (t : Target) (s : State) (τ : Task) : Body Task := do
  privileged τ
  check (srcOk τ a && srcOk τ b) causeBadSource
  let n ← portOrDiscard s τ t
  let x := readSrc τ false a
  let y := readSrc τ true b
  if !anyExec τ [x, y] then .ok (τ.advance 1)
  else do
    let ws (v : Lanes) (n : Nat) : List Nat := (upto n).map (fun l => ((laneOf v l).getD 0).toNat)
    check (decide (na ≤ τ.w) && decide (nb ≤ τ.w) && (upto na).all (fun l => (laneOf x l).isSome) && (upto nb).all (fun l => (laneOf y l).isSome))
      causeBadSource
    check (ok (ws x na) (ws y nb)) causeBadSource
    .ok ((τ.enter (mkOp s τ k n (validLanes τ x) (validLanes τ y) [])).advance 1)

/-- A register number in lane 0. -/
def byteLane (ws : List Nat) : Bool := decide (ws.getD 0 0 < 256)

def execMfsr (a : Src) (t : Target) (s : State) : Result := runTask (sysBody .mfsr a .zero 1 0 (fun ws _ => byteLane ws) t) s
def execMtsr (a b : Src) (t : Target) (s : State) : Result := runTask (sysBody .mtsr a b 1 1 (fun ws _ => byteLane ws) t) s

/-- R36: the shoot-down descriptor. -/
def shootOk (ws : List Nat) : Bool :=
  let w (k : Nat) : Nat := ws.getD k 0
  decide (w 0 < 2 ^ 21) && (bit (w 0) 18 || decide (w 2 < 2 ^ 8) && w 3 != 0 && decide (w 1 + w 2 * 2 ^ 32 + w 3 ≤ 2 ^ 40))

def execTbi (a : Src) (t : Target) (s : State) : Result := runTask (sysBody .tbi a .zero 4 0 (fun ws _ => shootOk ws) t) s

/-- R113: the SHINV descriptor. -/
def shinvOk (ws : List Nat) : Bool :=
  let w (k : Nat) : Nat := ws.getD k 0
  decide (w 0 < 2 ^ 22) && (bit (w 0) 21 ||
    decide (w 1 < 2 ^ 12) && decide (w 2 < 2 ^ 20) && decide (w 3 < 2 ^ 21) && w 3 != 0 && decide (w 2 + w 3 ≤ 2 ^ 20))

def execShinv (a : Src) (t : Target) (s : State) : Result := runTask (sysBody .shinv a .zero 4 0 (fun ws _ => shinvOk ws) t) s

/-- R115: the PLBC descriptor. -/
def plbcOk (ws : List Nat) : Bool :=
  let w (k : Nat) : Nat := ws.getD k 0
  decide (w 0 < 2 ^ 20) && decide (w 1 < 2 ^ 16) && decide (w 2 < 2 ^ 17) && w 2 != 0 && decide (w 1 + w 2 ≤ 65536) && w 3 == 0

def execPlbc (a : Src) (t : Target) (s : State) : Result := runTask (sysBody .plbc a .zero 4 0 (fun ws _ => plbcOk ws) t) s
def execCfgld (a b : Src) (t : Target) (s : State) : Result :=
  runTask (sysBody .cfgld a b 2 1 (fun ws ys => decide (ws.getD 1 0 < 2 ^ 24) && bits (ys.getD 0 0) 9 7 == 0) t) s
def execGait (a : Src) (t : Target) (s : State) : Result := runTask (sysBody .gait a .zero 1 0 (fun ws _ => byteLane ws) t) s
def execIdle (t : Target) (s : State) : Result := runTask (sysBody .idle .zero .zero 0 0 (fun _ _ => true) t) s
def execPark (a : Src) (t : Target) (s : State) : Result :=
  runTask (sysBody .park a .zero 4 0 (fun ws _ => decide (ws.getD 1 0 < 3) && decide (ws.getD 3 0 < 2 ^ 24)) t) s

/-! Supervisor registers (R377). -/

/-- PWR of a quadrant. -/
def pwrWord (s : State) (quad : Nat) : Nat := sgetD s.dev.qreq quad 0 + sgetD s.dev.qcur quad 0 * 4 + s.dev.clkf * 16

/-- A supervisor register as MFSR reads it; `none` for a number the table does not list. PEND is the number queued now. -/
def readReg (s : State) (tile n : Nat) : Option Word :=
  if n = 0 then some (BitVec.ofNat 32 ((tileReg s tile 0).toNat + (sgetD s.flt.supq tile []).length % 256 * 2 ^ 16))
  else if n < 8 ∨ n = 14 then some (tileReg s tile n)
  else if n = 8 then some s.dev.ptrootl
  else if n = 9 then some s.dev.ptrooth
  else if n = 10 then some (if s.syn.smode then 1 else 0)
  else if n = 11 then some (BitVec.ofNat 32 s.dev.life.toNat)
  else if n = 12 then some (BitVec.ofNat 32 (pwrWord s (quadOf tile)))
  else if n = 13 then some (BitVec.ofNat 32 (s.dev.level.toNat + (if s.dev.hen then 4 else 0) + s.dev.dasid.toNat * 2 ^ 16))
  else none

/-- The bits that a per-tile register holds. -/
def regMask (n : Nat) : Nat :=
  if n = 0 then 0xFF00C000 else if n = 1 then 0xFF else if n = 3 then 0x1FFFF else if n = 4 then 0x3F else if n = 6 then 0xFFFFFF
  else if n = 7 then 0x800007FF else 0xFFFFFFFF

/-- GERR's V is cleared by writing 1 to it (R377). -/
def clearGerr (s : State) (tile : Nat) : State := setTileReg s tile 14 (tileReg s tile 14 &&& 0x7FFFFFFF)

/-- MTSR's write, SMODE apart: the state and the status. -/
def writeReg (s : State) (tile n : Nat) (v : Word) : State × Nat :=
  if n < 8 then (setTileReg s tile n (v &&& BitVec.ofNat 32 (regMask n)), 0)
  else if n = 14 then (if bit v.toNat 31 then clearGerr s tile else s, 0)
  else if n = 8 then ({ s with dev := { s.dev with ptrootl := v &&& 0xFFF00000 } }, 0)
  else if n = 9 then ({ s with dev := { s.dev with ptrooth := v &&& 0xFFFFF } }, 0)
  else if n = 11 then (s, 0)
  else if n = 12 then (setQreq s (quadOf tile) (v.toNat % 4), 0)
  else if n = 13 then ({ s with dev := { s.dev with hen := bit v.toNat 2, dasid := BitVec.ofNat 16 (v.toNat / 2 ^ 16) } }, 0)
  else (s, 1)

/-- GERR_CLEAR (R377). -/
def execGerrClear (s : State) : Result := .next (clearGerr s s.occ.a)

/-- SVEC_WRITE (R412). -/
def execSvecWrite (s : State) : Result := .next (writeReg s s.occ.a 7 (BitVec.ofNat 32 s.occ.b)).1

/-- QREQ_P0, QREQ_P1, QREQ_P2 (R452): a write of PWR.QREQ. -/
def execQreqP0 (s : State) : Result := .next (setQreq s s.occ.a 0)
def execQreqP1 (s : State) : Result := .next (setQreq s s.occ.a 1)
def execQreqP2 (s : State) : Result := .next (setQreq s s.occ.a 2)

/-! Clocks and quadrants (R382, R452, R453). -/

/-- A trough of the tile is about to notify a waiting task. -/
def notifies (s : State) (tile : Nat) : Bool :=
  s.tab.troughs.any (fun p => p.1 / 64 == tile && p.2.waiters.any (fun w => (match w with
    | .pe _ _ _ _ _ _ _ _ => true
    | .dray _ _ => false) && decide (0 < (if w.takes then p.2.filled else p.2.free))))

/-- A token on its way to the tile, a task that one has made runnable, or a trough notify. -/
def arrives (s : State) (tile : Nat) : Bool :=
  notifies s tile || s.net.mesh.any (·.tile == tile) || s.frm.ready.any (·.tile == tile)

/-- Faults of a tile that are not yet with a handler: pending, or in the supervisor's queue. -/
def faultsAt (s : State) (tile : Nat) : Nat := pendingCount s tile + (sgetD s.flt.supq tile []).length

/-- What wakes a tile that P1 gates (R452): an arrival, or a fault that waits. -/
def stirred (s : State) (tile : Nat) : Bool := arrives s tile || decide (0 < faultsAt s tile)

def isIdle (o : Op) : Bool := o.kind == .idle && o.tid == 0

/-- IDLE_RESTART (R382): IDLE gates the clock once the tile rests without engine commands, whatever faults wait then, which `n` of it counts; the
next arrival, notify or further fault restarts it, and its token leaves. -/
def execIdleRestart (s : State) : Result :=
  let tile := s.occ.a
  let faults := faultsAt s tile
  match s.ops.find? (fun o => o.tile == tile && isIdle o) with
  | none => .next s
  | some o =>
    if o.phase == .queued then
      if tileResting s tile && !s.ops.any (fun p => p.tile == tile && isEngine p.kind && !stopped p) then
        .next (gate1 (setOp s { o with phase := .active, n := faults }) tile o.id)
      else .next s
    else if arrives s tile || decide (o.n < faults) then
      .next (if emitFits s o (statusLanes o.w [0]) then emitOp (ungate (dropOp s o.id) tile) o 13 (statusLanes o.w [0]) (fun h => h) else s)
    else .next (setOp s { o with n := faults })

/-- TILE_CLOCK_WAKE (R452): an arrival wakes a tile that P1 gates. -/
def execTileClockWake (s : State) : Result :=
  let tile := s.occ.a
  if sget s.dev.gated tile = some 0 ∧ stirred s tile then .next (ungate s tile) else .next s

/-- A supervisor's notice that comes to a tile from outside of it: PREEMPT, SEQ_ORDER and WATCHDOG (R203, R414, R415). -/
def fromOutside (r : FaultRec) : Bool := r.cause == causePreempt || r.cause == causeSeqOrder || r.cause == causeWatchdog

/-- Traffic waits for a quadrant in P2 (R453). -/
def aimedAt (s : State) (quad : Nat) : Bool :=
  s.flt.pending.any (fun p => quadOf p.tile == quad && fromOutside p.fr) ||
  s.net.outs.any (fun e => e.pend.any (fun d => d.2 != 1 && (placeTile s (ownerOf s e.tile) d.1.tile).elim false (fun t => quadOf t.1 == quad))) ||
    s.syn.remotes.any (fun r => quadOf r.tile == quad)

/-- QUADRANT_ENTER_P2 (R452). -/
def execQuadrantEnterP2 (s : State) : Result :=
  let quad := s.occ.a
  let quiet := (quadTiles quad).all (fun t => tileResting s t && !s.ops.any (fun p => p.tile == t && isEngine p.kind && !stopped p)) &&
    !s.net.mesh.any (fun f => quadOf f.tile == quad)
  if sgetD s.dev.qreq quad 0 = 2 ∧ sgetD s.dev.qcur quad 0 ≠ 2 ∧ quiet then .next { s with dev := { s.dev with qcur := sset s.dev.qcur quad 2 } }
  else .next s

/-- QUADRANT_WAKE (R453): traffic returns the quadrant to P0. -/
def execQuadrantWake (s : State) : Result :=
  let quad := s.occ.a
  if sgetD s.dev.qcur quad 0 = 2 ∧ aimedAt s quad then .next (setQreq s quad 0) else .next s

/-! Broadcasts (R36 to R40, R114, R115). -/

def castOf (s : State) (id : Nat) : Option Cast := s.syn.casts.find? (·.op == id)

/-- A broadcast starts once every earlier store of its context is at home; dirty lines are written back for it. -/
def startCast (s : State) (o : Op) (units : List Nat) (arg : Nat) : State :=
  let s := setOp s { o with phase := .active }
  { s with syn := { s.syn with casts := s.syn.casts ++ [{ op := o.id, units := units, held := [], arg := arg }] } }

/-- A unit has acknowledged. -/
def acknowledge (s : State) (id u : Nat) : State :=
  let ack (c : Cast) : Cast := if c.op == id then { c with units := c.units.filter (· != u) } else c
  { s with syn := { s.syn with casts := s.syn.casts.map ack } }

def presentTiles (s : State) : List Nat := (upto 384).filter (tilePresent s)

/-- R37: translation buffers by tile, and walkers as 384 + quadrant. -/
def shootUnits (s : State) (o : Op) : List Nat :=
  let scope := bits (wordA o 0) 16 2
  if scope = 0 then [o.tile]
  else if scope = 1 then (presentTiles s).filter (fun t => quadOf t == quadOf o.tile) ++ [384 + quadOf o.tile]
  else presentTiles s ++ (s.dev.quads.map (fun q => 384 + q))

/-- The descriptor of an operation. -/
def opShoot (o : Op) : Shoot := shootOf ((upto 4).map (wordA o))

/-- The operations of a list that are still under way: neither performed nor faulted (R38, R114). -/
def underWay (s : State) (ids : List Nat) : List Nat :=
  ids.filter (fun i => (opById s i).elim false (fun o => !stopped o && o.phase != .done && o.phase != .absorbed))

/-- A unit that has removed its entries waits for these operations. -/
def holdUnit (s : State) (id u : Nat) (ids : List Nat) : State :=
  let upd (c : Cast) : Cast := if c.op == id then { c with held := sset c.held u ids } else c
  { s with syn := { s.syn with casts := s.syn.casts.map upd } }

/-- A broadcast's turn at a unit: it starts, or acts there once, and acknowledges when the operations that `act` names are no
longer under way. -/
def castTurn (s : State) (want : OpKind → Bool) (start : State → Op → State) (act : State → Op → Nat → State × List Nat) : State :=
  match opById s s.occ.a with
  | none => s
  | some o =>
    if o.tid != 0 || !want o.kind then s
    else
      match castOf s o.id with
      | none =>
        if o.phase == .queued then
          let s := writeBackAll s o.tile
          if storesHome s o then start s o else s
        else s
      | some c =>
        if c.units.contains s.occ.b then
          match sget c.held s.occ.b with
          | some ids => if (underWay s ids).isEmpty then acknowledge s o.id s.occ.b else s
          | none =>
            match act s o s.occ.b with
            | (s, []) => acknowledge s o.id s.occ.b
            | (s, ids) => holdUnit s o.id s.occ.b ids
        else s

/-- The walker of a unit's quadrant is in scope and has not yet removed its entries. A translation buffer removes its own after that, so
that no walk fills it again from an entry that is to go (R38). -/
def walkerDue (s : State) (id u : Nat) : Bool :=
  let w := 384 + quadOf u
  decide (u < 384) && (castOf s id).elim false (fun c => c.units.contains w && (sget c.held w).isNone)

/-- TB_SHOOTDOWN_ARRIVAL (R38). -/
def execTbShootdownArrival (s : State) : Result :=
  if walkerDue s s.occ.a s.occ.b then .next s
  else
  .next (castTurn s (fun k => k == .tbi) (fun s o => startCast s o (shootUnits s o) 0) (fun s o u =>
    let d := opShoot o
    if 384 ≤ u then (walkerRemove s (u - 384) d, [])
    else
      (tbRemove s u d, rangeUsers s u d)))

/-- The status of a broadcast whose units have all acknowledged (R39): packages that cannot be reached. -/
def castDone (s : State) (want : OpKind → Bool) (pod : Op → Bool) : State :=
  match opById s s.occ.a with
  | none => s
  | some o =>
    match castOf s o.id with
    | some c =>
      if want o.kind && c.units.isEmpty then
        let down := if pod o then s.health.peersDown else 0
        let v := statusLanes o.w [if down = 0 then 0 else 1, BitVec.ofNat 32 down]
        if emitFits s o v then
          emitOp (dropOp { s with syn := { s.syn with casts := s.syn.casts.filter (·.op != o.id) } } o.id) o 13 v (fun h => h)
        else s
      else s
    | none => s

/-- TBI_COMPLETION (R38, R39). -/
def execTbiCompletion (s : State) : Result := .next (castDone s (fun k => k == .tbi) (fun o => bits (wordA o 0) 16 2 == 3))

/-- R113: the bales that a SHINV covers. -/
def shinvHits (o : Op) (seq lh bidx : Nat) : Bool :=
  let w0 := wordA o 0
  seq == w0 % 2 ^ 20 && (bit w0 21 || lh == wordA o 1 && decide (wordA o 2 ≤ bidx) && decide (bidx < wordA o 2 + wordA o 3))

/-- The bales whose entries a SHINV removes: those it covers, and with SENT = 1 every one of the sequence, since an entry holds its
sequence's (R114). -/
def shinvGone (o : Op) (seq lh bidx : Nat) : Bool :=
  shinvHits o seq lh bidx || bit (wordA o 0) 20 && seq == wordA o 0 % 2 ^ 20

/-- BALE_SHOOTDOWN_ARRIVAL (R114). -/
def execBaleShootdownArrival (s : State) : Result :=
  .next (castTurn s (fun k => k == .shinv) (fun s o => startCast s o (presentTiles s) 0) (fun s o u =>
    let s := { s with bal := { s.bal with buf := s.bal.buf.filter (fun x => !(x.tile == u && shinvGone o x.seq x.lh x.bidx)) } }
    (s, baleUsers s u (shinvGone o))))

/-- SHINV_COMPLETION (R114). -/
def execShinvCompletion (s : State) : Result := .next (castDone s (fun k => k == .shinv) (fun _ => true))

/-- What PLBC finds of its sequence (R115): the entry, that the issuing package is not its home, or an uncorrectable error. -/
inductive Homed where
  | entry (e : Nat)
  | other
  | bad (pa : Nat)

/-- R115: the issuing package is the sequence's home: SEQ lies below SEQTN, the entry has V = 1, and ring position 0 is this package. -/
def plbcHome (s : State) (seq : Nat) : State × Homed :=
  match seqEntry s seq with
  | (s, .error pa) => (s, .bad pa)
  | (s, .ok e) =>
    if !bit e 0 then (s, .other)
    else
      match ringList s e with
      | (s, .error pa) => (s, .bad pa)
      | (s, .ok ring) => (s, if ring.head? = some s.dev.pkgid.toNat then .entry e else .other)

/-- PGEN of a sequence's entry at home is written. -/
def setPgen (s : State) (seq g : Nat) : State := homeWrite s 0 (s.dev.seqtb.toNat * 4096 + seq * 32 + 17) 2 g

/-- PLBC ends in a fault of its frame (R115, R89), which waits while the pending list is full (R405). -/
def refusePlbc (s : State) (o : Op) (cause addr : Nat) : State :=
  if opRoom s o then dropOp (raiseOp s { o with id := 0 } cause 0 addr) o.id else s

/-- R115 steps 1 to 3. -/
def startPlbc (s : State) (o : Op) : State :=
  let seq := wordA o 0
  match plbcHome s seq with
  | (s, .other) => refusePlbc s o causeBadSource 0
  | (s, .bad pa) => refusePlbc s o causeMemUe pa
  | (s, .entry e) =>
    let g := (bits e 136 16 + 1) % 65536
    startCast (setPgen s seq g) o [s.dev.pkgid.toNat] g

/-- A PGEN is older than another when it lies within the half of the 65,536 values before it. The rule names no comparison modulo 65,536:
the model's choice (log entry 26). -/
def pgenOlder (a b : Nat) : Bool := decide (32768 ≤ (a + 65536 - b) % 65536)

/-- R115 step 4: cached placements of the range go and the PGEN is recorded; an older PGEN is ignored. -/
def takePlacement (s : State) (o : Op) (g : Nat) : State :=
  let seq := wordA o 0
  if (sget s.bal.pgen seq).elim false (pgenOlder g) then s
  else
    { s with bal := { s.bal with
        place := sdrop s.bal.place (seq * 2 ^ 16 + wordA o 1) (wordA o 2), pgen := sset s.bal.pgen seq g } }

/-- PLACEMENT_BROADCAST_ARRIVAL (R115). -/
def execPlacementBroadcastArrival (s : State) : Result :=
  match castOf s s.occ.a with
  | none => .next (castTurn s (fun k => k == .plbc) startPlbc (fun s _ _ => (s, [])))
  | some c =>
    .next (castTurn { s with occ := { s.occ with b := s.dev.pkgid.toNat } } (fun k => k == .plbc) startPlbc
      (fun s o _ => (takePlacement s o c.arg, [])))

/-- PLBC_COMPLETION (R115). -/
def execPlbcCompletion (s : State) : Result := .next (castDone s (fun k => k == .plbc) (fun _ => true))

/-! What a subform does at its block's commit (R378). -/

/-- The token with a status in lane 0, and a further word. -/
def statusToken (s : State) (o : Op) (ws : List Nat) : State := emitOp s o 13 (statusLanes o.w (ws.map (BitVec.ofNat 32))) (fun h => h)

/-- An access of a subform fails: it is reported as an access is (R30). -/
def sysFail (s : State) (o : Op) (e : Nat × Nat × Nat) : State :=
  if o.id != 0 && (opById s o.id).isSome then failOp s o e.1 e.2.1 e.2.2
  else addOp s { o with tid := 0, phase := .failed, cause := e.1, detail := e.2.1, addr := e.2.2 }

/-- The subform is done. -/
def sysDone (s : State) (o : Op) (ws : List Nat) : State := statusToken (dropOp s o.id) o ws

/-- The REGION section at an address: its header, then all of it. -/
def readRegion (s : State) (tile asid va : Nat) : State × Except (Nat × Nat × Nat) RegionImg :=
  let want := imageWant (asid != 0) true
  match readVa s tile asid va 128 want with
  | (s, .error e) => (s, .error e)
  | (s, .ok h) =>
    let r : RegionImg := { gait := 0, region := 0, num := ofBytes h, len := 0 }
    match readVa s tile asid va r.bytes want with
    | (s, .error e) => (s, .error e)
    | (s, .ok bs) => (s, .ok { gait := 0, region := 0, num := ofBytes bs, len := bs.length })

/-- The image that a REGION section belongs to gives its initial pen data (R81): that of the tile's launch, where it has the section. The rule
names no image for SYS CFGLD, whose operand is the section alone: the model's choice (log entry 62). -/
def initialData (s : State) (tile : Nat) (r : RegionImg) : State × RegionImg × List PenData :=
  match sget s.sch.launches (ownerOf s tile) with
  | none => (s, r, [])
  | some l =>
    match readImage s tile l.asid (l.field 0 56) with
    | (s, .error _) => (s, r, [])
    | (s, .ok bs) =>
      let secs := (sectionsOf bs).getD []
      match (regionsOf secs).find? (fun x => decide (r.len ≤ x.len) && x.num % 2 ^ (8 * r.len) == r.num) with
      | some x => (s, x, penDataOf secs)
      | none => (s, r, [])

/-- What CFGLD does with the image it has read (R380). -/
def loadImage (o : Op) : State × Except (Nat × Nat × Nat) RegionImg → State
  | (s, .error e) => sysFail s o e
  | (s, .ok r) =>
    let q := ownerOf s o.tile
    let dims := (sget s.sch.launches q).elim (16, 24) (fun l => (l.wd, l.ht))
    if !tileQuiet s o.tile then sysDone s o [2]
    else if !imageGood r (neighboursAt s q r) dims.1 dims.2 then sysDone s o [causeCfg]
    else
      let x := initialData s o.tile r
      sysDone (loadRegion x.1 o.tile (wordB o 0 / 2 ^ 16) (sgetD s.tab.gaitReg o.tile 0) [wordB o 0 % 512] x.2.1 x.2.2) o [0]

/-- CFGLD (R380): the image is read, then loaded. -/
def commitCfgld (s : State) (o : Op) : State := loadImage o (readRegion s o.tile o.cx.asid (wordA o 0 + wordA o 1 * 2 ^ 32))

/-- The launch tiles that a gait's map puts on a tile. -/
def hostedBy (route : List Nat) (gx gy tile : Nat) : List Nat :=
  (upto 512).filter (fun n =>
    let m := route.getD n 0x200
    decide (m < 0x200) && tile == (gy + m / 16) * 16 + gx + m % 16)

/-- The map of a gait: the identity of the rectangle for gait 0. -/
def routeOf (gs : List GaitImg) (wd ht g : Nat) : Option (Nat × Nat × List Nat) :=
  if g = 0 then some (wd, ht, (upto 512).map (fun n => if n % 16 < wd ∧ n / 16 < ht then n else 0x200))
  else (gs.find? (·.gnum == g)).map (fun x => (x.wd, x.ht, x.route))

/-- A gait for a tile of a launch: the region image, or nothing where R381, R418 or a check refuses it. -/
def gaitFor (s : State) (l : Launch) (secs : List Section) (g tile : Nat) (lts : List Nat) : Option RegionImg :=
  let rs := regionsOf secs
  match regionFor rs g lts with
  | none => none
  | some r =>
    if samePlan s tile r && imageGood r (neighboursOf rs g) l.wd l.ht && decide (lts.length * slotSpan s tile ≤ 16384) then some r else none

/-- GAIT (R381). -/
def commitGait (s : State) (o : Op) : State :=
  match sget s.sch.launches (ownerOf s o.tile) with
  | none => sysDone s o [causeCfg]
  | some l =>
    let g := wordA o 0
    match readImage s o.tile l.asid (l.field 0 56) with
    | (s, .error c) => sysDone s o [c]
    | (s, .ok bs) =>
      let secs := (sectionsOf bs).getD []
      let origin := if g = 0 then (l.x0, l.y0) else (l.gx, l.gy)
      let lts := (routeOf (gaitsOf secs) l.wd l.ht g).elim [] (fun r => hostedBy r.2.2 origin.1 origin.2 o.tile)
      match gaitFor s l secs g o.tile lts with
      | some r => sysDone (loadGait s o.tile g r) o [0]
      | none => sysDone s o [causeCfg]

/-- PARK (R383): lane 1 of the token is the byte count. -/
def parkAnswer (o : Op) (n : Nat) : State × Option (Nat × Nat × Nat) → State
  | (s, some e) => sysFail s o e
  | (s, none) => sysDone s o [0, n]

/-- The frames that PARK's scope selects (R383). -/
def parkScope (s : State) (o : Op) : List (Nat × Nat × Nat × Position) :=
  let tag := wordA o 0
  (framesOn s o.tile).filter (fun f =>
    wordA o 1 == 2 || f.2.1 == tag / 2 ^ 16 && (wordA o 1 == 1 || f.2.2.1 == tag % 2 ^ 16))

/-- A selected frame is parked, and one that is parked already has its record written again, its rows not moved twice (R383, R402; log entry
42). Without a park area there is nowhere to park it (R403). -/
def parkOne (s : State) (tile : Nat) (f : Nat × Nat × Nat × Position) : State :=
  if !s.dev.pv then s
  else if f.2.2.2.pk then writeRecord s tile f.1 f.2.1 f.2.2.1 false
  else parkFrame s tile f.1 f.2.1 f.2.2.1 false

/-- PARK (R383, R456): the selected frames are parked, and the tile's saved state is read (R82, R83) and written in domain 0. -/
def commitPark (s : State) (o : Op) : State :=
  let s := reportBad ((parkScope s o).foldl (fun s f => parkOne s o.tile f) s) o.tile
  parkAnswer o (tileImage s.fresh).length (writeVaIn s.tick o.tile 0 (wordA o 2 + wordA o 3 * 2 ^ 32) (tileImage s.fresh) false (some 0))

/-- A subform may leave the commit buffer (R40, R114, R160). -/
def sysRoom (s : State) (o : Op) : Bool :=
  let held (k : OpKind → Bool) : Nat := (s.ops.filter (fun p => p.tile == o.tile && p.tid == 0 && k p.kind)).length
  match o.kind with
  | .tbi => decide (held (fun k => k == .tbi) < 4)
  | .shinv => decide (held (fun k => k == .shinv || k == .plbc) < 4)
  | .plbc => decide (held (fun k => k == .shinv || k == .plbc) < 4)
  | .mtsr => wordA o 0 != 10 || s.syn.smodeNext.isNone
  | _ => true

/-- A SYS subform at commit. -/
def commitSys (s : State) (o : Op) : State :=
  match o.kind with
  | .mfsr => emitOp s o 13 (mkLanes (fun l => if l < o.w then some ((readReg s o.tile (wordA o 0)).getD 0xFFFFFFFF) else none)) (fun h => h)
  | .mtsr =>
    if wordA o 0 = 10 then
      let id := if o.id = 0 then s.nextId else o.id
      let s := enterOp s { o with phase := .active }
      { s with syn := { s.syn with smodeNext := some (bit (wordB o 0) 0, id) } }
    else
      let r := writeReg s o.tile (wordA o 0) (BitVec.ofNat 32 (wordB o 0))
      statusToken r.1 o [r.2]
  | .cfgld => commitCfgld s { o with id := 0 }
  | .gait => commitGait s { o with id := 0 }
  | .park => commitPark s { o with id := 0 }
  | _ => enterOp s o

end Sys2Proof.Machine
end

