-- ==== Sys2Proof/Machine/Handlers.lean ====
section
/-! DEFINITION. Faults after their detection, and handlers: the report of an operation's fault, delivery, the supervisor's queue, and
ERES, ESC and EKILL (R34, R369 to R376, R405 to R413). -/

namespace Sys2Proof.Machine

/-! Instructions (R373). -/

/-- ERES, ESC and EKILL at issue: lanes 0, 1 and 5 of the record must be valid. -/
def handlerBody (k : OpKind) (a b : Src) (t : Target) (s : State) (τ : Task) : Body Task := do
  check (srcOk τ a && srcOk τ b) causeBadSource
  let n ← portOrDiscard s τ t
  let v := readSrc τ false a
  if !anyExec τ [v] then .ok (τ.advance 1)
  else do
    check ([0, 1, 5].all (fun l => decide (l < τ.w) && (laneOf v l).isSome)) causeBadSource
    .ok ((τ.enter (mkOp s τ k n (validLanes τ v) (validLanes τ (readSrc τ true b)) [])).advance 1)

/-- ERES (R374). -/
def execEres (a b : Src) (rep : Bool) (ent : Nat) (hold : Bool) (t : Target) (s : State) : Result :=
  runTask (handlerBody (.eres rep ent hold) a b t) s

/-- ESC (R375). -/
def execEsc (a : Src) (t : Target) (s : State) : Result := runTask (handlerBody .esc a .zero t) s

/-- EKILL (R376). -/
def execEkill (a : Src) (t : Target) (s : State) : Result := runTask (handlerBody .ekill a .zero t) s

/-! The frame that a record names. -/

/-- Tile and rank of the frame of a record in lanes 0 and 1 (R369, R373). -/
def recordTile (s : State) (o : Op) : Option (Nat × Nat) :=
  (ctxOf s (wordA o 0 / 2 ^ 16)).bind (fun x => placeTile s x.q (wordA o 1 % 512))

def recCtx (o : Op) : Nat := wordA o 0 / 2 ^ 16
def recIter (o : Op) : Nat := wordA o 0 % 2 ^ 16

/-- The parked frame's delivered record, when the operation's record is current (R370). -/
def currentRecord (s : State) (o : Op) : Option FaultRec :=
  match recordTile s o with
  | none => none
  | some (tile, rank) =>
    let pk := (positionOf s tile rank (recCtx o) (recIter o)).elim false (·.pk)
    let r := (sget s.flt.parked (frameKey s tile rank (recCtx o) (recIter o))).bind (·.fr)
    match r with
    | some r => if pk && r.fseq == wordA o 5 then some r else none
    | none => none

/-- The delivered halt record, of a task without a frame of its own, that the operation's record is, by its lanes 0, 1 and 5, with the tile where its
task stands: the operation's own, or the one that hosts the record's launch tile, where a move has taken the task (R423; log entry 37). -/
def haltedAt (s : State) (o : Op) : Option (Nat × FaultRec) :=
  s.flt.haltRecs.findSome? (fun p =>
    let ws := recordWords p.2
    let tile := p.1 / 9
    if (tile == o.tile || (recordTile s o).any (·.1 == tile)) && ws.getD 0 0 == wordA o 0 && ws.getD 1 0 == wordA o 1 && p.2.fseq == wordA o 5 then
      some (tile, p.2)
    else none)

def haltedRecord (s : State) (o : Op) : Option FaultRec := (haltedAt s o).map (·.2)

/-- The tile of the halted task that an operation answers. -/
def haltTile (s : State) (o : Op) : Nat := (haltedAt s o).elim o.tile (·.1)

/-- Status of an ERES, ESC or EKILL of a halt record: its task is the supervisor's to answer. -/
def haltedStatus (s : State) (o : Op) : Nat :=
  match haltedRecord s o with
  | none => 1
  | some _ => if o.cx.asid != 0 || o.kind == .esc then 2 else match o.kind with | .eres true _ _ => 3 | .eres _ _ true => 3 | _ => 0

/-- The status of R373: the lowest that applies. -/
def handlerStatus (s : State) (o : Op) : Nat :=
  match currentRecord s o, recordTile s o with
  | some r, some (tile, _) =>
    let asid := (ctxOf s r.ctx).elim 0 (·.asid)
    let user := o.cx.asid != 0
    if user && (o.cx.asid != asid || r.escd) || !user && o.kind == .esc then 2
    else
      match o.kind with
      | .eres rep ent hold =>
        let nin := if r.blk = 0xFF then 0 else (sget s.tab.blocks (tile * 256 + r.blk)).elim 0 (·.nin)
        if rep && decide (nin ≤ ent) || hold && !rep then 3 else 0
      | _ => 0
  | _, _ => haltedStatus s o

/-! Return from a fault (R374, R416). -/

/-- The repair of an entry slot. -/
def repairSlot (s : State) (o : Op) (tile rank c i : Nat) (b : Block) (ent : Nat) : State :=
  let key (n : Nat) : Nat := slotKey s tile rank c i (b.slot0 + n)
  let k := key ent
  let wm := ((upto b.nin).findSome? (fun n => (sget s.frm.slots (key n)).map (·.wm1))).getD 31
  let old := sget s.frm.slots k
  let x : Slot :=
    match old with
    | some x => { x with lanes := merge x.lanes o.b }
    | none => { lanes := merge noLanes o.b, seg := 0, pol := 0, nrm := false, str := false, eor := true, wm1 := wm }
  let s := clearSlot s k (fun l => (laneOf o.b l).isSome)
  { s with frm := { s.frm with slots := sset s.frm.slots k x } }

/-- The operation of a fault goes on: a Dray command at its channel's tail, a unit's entry from its start, an access from its
translation, a CFGLD, GAIT or PARK from its image. -/
def resumeOp (s : State) (o : Op) : State :=
  match o.kind with
  | .cfgld => commitCfgld s o
  | .gait => commitGait s o
  | .park => commitPark s o
  | _ =>
    match chanOf o.kind with
    | some ch => replayDray s o ch
    | none => if isUnit o.kind then replayUnit s o else retryOp s o

/-- What a fault stopped goes on, by its kind. -/
def resumeFault (s : State) (tile : Nat) (r : FaultRec) : State :=
  match r.halt with
  | some e => resumeHalted s tile e r
  | none =>
    if r.row != 0 then resumeRow s r.row r.cause
    else
      match opById s r.op with
      | some o => if o.phase == .faulted && r.op != 0 then resumeOp s o else s
      | none => s

/-- The frame's fault is answered: it leaves the park area, or stays parked for its next pending fault (R405). -/
def answerFault (s : State) (tile rank c i : Nat) : State :=
  if morePending s tile rank c i then
    writeRecord { s with flt := { s.flt with parked := sset s.flt.parked (frameKey s tile rank c i) { fr := none, escd := false } } } tile rank c i false
  else wakeFrame (unpark (returnRows s tile rank c i) tile rank c i) tile rank c i

/-- ERES of a current record (R374). -/
def performEres (s : State) (o : Op) (r : FaultRec) (tile rank : Nat) (rep : Bool) (ent : Nat) (hold : Bool) : State :=
  let s := match rep, sget s.tab.blocks (tile * 256 + r.blk) with
    | true, some b => repairSlot s o tile rank r.ctx r.iter b ent
    | _, _ => s
  if hold then s else answerFault (resumeFault s tile r) tile rank r.ctx r.iter

/-! EKILL and the drop of what has failed (R150, R157, R299, R341, R376, R406). -/

/-- A command of the block is to use the pen of a GIVE. -/
def usesGiven (g o : Op) (pen : Nat) : Bool :=
  sameBlock g o && o.phase == .queued && (isUnit o.kind && (opPens o).contains pen || (chanOf o.kind).isSome && lpen o == pen)

/-- A command that cannot start any more: an MMA still raises NEXT at its turn (R341). -/
def dropStarved (s : State) (o : Op) : State :=
  if isMma o.kind && !lateMma o then setOp s { o with n := 2, port := none } else dropOp s o.id

/-- Such a command that still waits in a commit buffer. -/
def starveHeld (g : Op) (pen : Nat) : CbEntry → Option CbEntry
  | .emit h v ds => some (.emit h v ds)
  | .op o => if !usesGiven g o pen then some (.op o) else if isMma o.kind then some (.op { o with n := 2, port := none }) else none

/-- A GIVE that is not performed goes with the commands that wait for it, those in commit buffers among them (R55). -/
def dropGive (s : State) (g : Op) (pen : Nat) : State :=
  let s := (s.ops.filter (fun o => usesGiven g o pen)).foldl dropStarved (dropOp s g.id)
  { s with pe := s.pe.map (fun p =>
      if p.1 / 9 == g.tile then (p.1, { p.2 with rel := p.2.rel.filterMap (starveHeld g pen), behind := p.2.behind.filterMap (starveHeld g pen) })
      else p) }

/-- A refused release of a frame that EKILL ends is not performed: the hold of an HREL ends (R150), a GIVE does not flip its pen, a BAR does
not arrive and a child that was to be spawned does not live (R157; log entry 39). -/
def endRefused (s : State) (p : Op) : State :=
  match p.kind with
  | .hrel k =>
    if k == .p then dropOp s p.id
    else match p.lanes.head?.bind (·.phys) with
      | some a => abandonHold (dropOp s p.id) a.pa p.ctx
      | none => setOp s { p with n := 3 }
  | .give n _ => dropGive s p n
  | .bar _ _ => dropOp s p.id
  | .spawn child _ => freeReserved (dropOp s p.id) child
  | _ => s

/-- A failed operation is dropped with what waits behind it. -/
def dropFailed (s : State) (o : Op) : State :=
  let refused := refusedBy s o
  let s := refused.foldl endRefused (dropHeld s o)
  match o.kind with
  | .mma _ _ _ _ => raiseNext s o
  | .give n _ => dropGive s o n
  | _ => s

/-- A command of a killed frame that has not failed goes: its pens, if they were given, flip back (R376). -/
def dropEntry (s : State) (o : Op) : State :=
  if (chanOf o.kind).isSome then
    if (giveOf s o (lpen o)).isSome then dropOp s o.id else dropOp (flipLpen (voidRemotes s o.id) o) o.id
  else if o.phase == .done then s
  else if !pensGiven s o then dropStarved s o
  else
    let s := if isMma o.kind && !lateMma o then setOp s { o with n := 2, port := none } else setOp s { o with phase := .done, port := none }
    settleBlock s o

/-- What a killed frame's committed block still holds in a commit buffer: its engine and island entries go, an MMA but for its NEXT. -/
def dropHeldEntry (tile rank c i : Nat) (e : CbEntry) : Option CbEntry :=
  match e with
  | .emit _ _ _ => some e
  | .op o =>
    if !sameFrame o tile rank c i then some e
    else if isMma o.kind then some (.op { o with n := 2, port := none })
    else
      match o.kind with
      | .give _ eng => if eng = 8 then some e else none
      | k => if isUnit k || (chanOf k).isSome then none else some e

/-- R376: engine and island entries of the frame are dropped. -/
def dropEngines (s : State) (tile rank c i : Nat) : State :=
  let mine (o : Op) : Bool := sameFrame o tile rank c i && o.tid == 0 && (isUnit o.kind || (chanOf o.kind).isSome)
  let s := (s.ops.filter mine).foldl (fun s o => dropEntry s o) s
  let given (o : Op) : Bool := sameFrame o tile rank c i && o.tid == 0 && (match o.kind with | .give _ eng => eng != 8 | _ => false)
  let s := { s with ops := s.ops.filter (fun o => !given o) }
  { s with pe := s.pe.map (fun p =>
      if p.1 / 9 == tile then (p.1, { p.2 with rel := p.2.rel.filterMap (dropHeldEntry tile rank c i), behind := p.2.behind.filterMap (dropHeldEntry tile rank c i) })
      else p) }

/-- A passing or waiting request that a hitch's FIFO holds (R150). -/
def waitsInFifo (o : Op) : Bool :=
  o.phase == .active && (match o.kind with
    | .hreq _ _ => true
    | .bar h _ => h && o.n == 1
    | .spawn _ h => h && o.n == 1
    | _ => false)

/-- Registrations of a frame's tasks at troughs. -/
def dropWaiters (s : State) (tile rank c i : Nat) : State :=
  let mine (w : Waiter) : Bool := match w with
    | .pe _ _ r c' i' _ _ _ => r == rank && c' == c && i' == i
    | .dray _ _ => false
  let upd (p : Nat × Trough) : Nat × Trough :=
    if p.1 / 64 == tile then (p.1, { p.2 with waiters := p.2.waiters.filter (fun w => !mine w) }) else p
  { s with tab := { s.tab with troughs := s.tab.troughs.map upd } }

/-- A halted task of the frame ends with it. -/
def dropHalted (s : State) (tile rank c i : Nat) : State :=
  let mine := s.flt.halted.filter (fun p => p.1 / 9 == tile && p.2.rank == rank && p.2.ctx == c && p.2.iter == i)
  let s := mine.foldl (fun s p => discardEffects
    { s with flt := { s.flt with halted := sdel s.flt.halted p.1, resumed := sdel s.flt.resumed p.1, resuming := sdel s.flt.resuming p.1 } } p.2) s
  if mine.isEmpty || s.flt.halted.any (fun p => p.2.ctx == c) then s
  else { s with flt := { s.flt with haltCtx := sdel s.flt.haltCtx c } }

/-- The frame's pending faults are discarded and counted (R405). -/
def dropPending (s : State) (tile rank c i : Nat) : State :=
  let mine (p : Pending) : Bool := p.tile == tile && p.fr.framed && p.fr.rank == rank && p.fr.ctx == c && p.fr.iter == i
  let n := (s.flt.pending.filter mine).length
  (upto n).foldl (fun s _ => count s 5 tile) { s with flt := { s.flt with pending := s.flt.pending.filter (fun p => !mine p) } }

/-- R376: the end of a frame that EKILL discards: its rows, slots, park record and held cancels go, and the frame retires. -/
def endKilled (s : State) (tile rank c i : Nat) : State :=
  let s := moveRows { s with rws := { s.rws with rows := s.rws.rows.filter (fun (x : Row) => !(x.tile == tile && x.rank == rank && x.ctx == c && x.iter == i)) } } tile
  let f := fplanOf s tile rank c
  let k0 := slotKey s tile rank c i 0
  let s := { s with frm := { s.frm with slots := sdrop s.frm.slots k0 (2 ^ f.fslog2) } }
  let s := match positionOf s tile rank c i with
    | some p => setPosition s tile rank c i { p with pk := false, hlt := false }
    | none => s
  let s := { s with
    flt := { s.flt with parked := sdel s.flt.parked k0 },
    frm := { s.frm with cancels := s.frm.cancels.filter (fun f => !(f.tile == tile && f.rank == rank && f.tok.hdr.ctx == c && f.tok.hdr.iter == i)) } }
  retire (writeRecord s tile rank c i false) tile rank c i

/-- EKILL of a current record (R376). -/
def performEkill (s : State) (r : FaultRec) (tile rank : Nat) : State :=
  let c := r.ctx
  let i := r.iter
  let s := dropHalted (dropWaiters (dropPending s tile rank c i) tile rank c i) tile rank c i
  let failed := s.ops.filter (fun o => sameFrame o tile rank c i && stopped o && o.tid == 0)
  let s := dropEngines (failed.foldl dropFailed s) tile rank c i
  let asked := (s.ops.filter (fun o => sameFrame o tile rank c i && waitsInFifo o)).map (·.id)
  let s := removeRequests s (fun q => asked.contains q.op)
  endKilled (dropOwned { s with ops := s.ops.filter (fun o => !asked.contains o.id) } tile rank c i) tile rank c i

/-- The supervisor's answer to the halt of a handler or groom task (log entry 37): ERES lets it go on; EKILL discards it, as a fault of it would
(R172, R411). -/
def answerHalt (s : State) (tile : Nat) (r : FaultRec) (go : Bool) : State :=
  let e := r.halt.getD 8
  let s := { s with flt := { s.flt with haltRecs := sdel s.flt.haltRecs (tile * 9 + e) } }
  if go then resumeHalted s tile e r
  else
    match sget s.flt.halted (tile * 9 + e) with
    | none => s
    | some τ =>
      let s := discardEffects { s with flt := { s.flt with
        halted := sdel s.flt.halted (tile * 9 + e), resumed := sdel s.flt.resumed (tile * 9 + e) } } τ
      let s := if s.flt.halted.any (fun p => p.2.ctx == τ.ctx) then s else { s with flt := { s.flt with haltCtx := sdel s.flt.haltCtx τ.ctx } }
      endHalted s tile τ

/-- The frame of a record belongs to a launch that is saved, and not restored yet. -/
def recordAway (s : State) (o : Op) : Bool :=
  (ctxOf s (recCtx o)).elim false (fun x => (sget s.sch.launches x.q).elim false (fun l => l.st == .saved || l.st == .resuming))

/-- The tile on which an ERES, ESC or EKILL is released and the one on which it acts take no part in a freeze and have their launch's state again
(R423), and the queue that ESC, or the EKILL of a halted handler task, fills has room (R377). -/
def handlerMayAct (s : State) (o : Op) : Bool :=
  !s.frm.frozen.contains o.tile && !s.frm.frozen.contains (haltTile s o) && !recordAway s o &&
    decide ((haltedRecord s o).isSome = true → o.kind = .ekill → (sgetD s.flt.supq (haltTile s o) []).length < 64) &&
  match recordTile s o with
  | none => true
  | some (tile, _) => !s.frm.frozen.contains tile && (o.kind != .esc || handlerStatus s o != 0 || decide ((sgetD s.flt.supq tile []).length < 64))

/-- ERES, ESC or EKILL at commit. -/
def commitHandler (s : State) (o : Op) : State :=
  let st := handlerStatus s o
  let s' := match st, currentRecord s o, recordTile s o with
    | 0, some r, some (tile, rank) =>
      match o.kind with
      | .eres rep ent hold => performEres s o r tile rank rep ent hold
      | .esc => performEsc s r tile rank
      | _ => performEkill s r tile rank
    | 0, none, _ =>
      match haltedRecord s o with
      | some r => answerHalt s (haltTile s o) r (o.kind != .ekill)
      | none => s
    | _, _, _ => s
  statusToken s' o [st]

/-! Reports and delivery. -/

/-- ASYNC_FAULT_REPORT (R33, R34, R405, R406): the fault of an operation is reported on its frame; where the frame has retired or
cannot park, it goes to the supervisor and the operation is dropped with what waits behind it. A finished command's token that waits for room
is offered again (R405). -/
def execAsyncFaultReport (s : State) : Result :=
  match opById s s.occ.a with
  | none => .next s
  | some o =>
    if isUnit o.kind && o.phase == .done then .next (emitBlock s o)
    else if (chanOf o.kind).isSome || !mayReport s o then .next s
    else if o.n == 3 && isHitchOp o.kind then .next (dropOp s o.id)
    else
      let s' := raiseOp s o o.cause o.detail o.addr
      if frameLive s o.tile o.rank o.ctx o.iter && s.dev.pv && o.elem != 8 then .next (setOp s' { o with phase := .faulted })
      else .next (dropFailed s' o)

/-- R430: a fault of a command while its context is halted waits for the resume; one that its frame's own halt record stands behind does not. -/
def waitsForResume (s : State) (tile : Nat) (r : FaultRec) : Bool :=
  r.async && (sget s.flt.haltCtx r.ctx).isSome &&
    !s.flt.pending.any (fun q => q.tile == tile && q.fr.halt.isSome && q.fr.framed && r.framed && q.fr.rank == r.rank && q.fr.ctx == r.ctx && q.fr.iter == r.iter)

/-- The fault is the oldest of its frame, whose last one has been answered, its context is not halted, and its receiver has room (R405, R408,
R410, R430, R377). The list has 1,024 entries: what stands behind them waits at its source, as a notice does for a quadrant in P2 (R453). -/
def deliverable (s : State) (tile n : Nat) (p : Pending) : Bool :=
  let r := p.fr
  let mine := (s.flt.pending.filter (·.tile == tile)).take n
  let first := !r.framed || !mine.any (fun q => q.fr.framed && q.fr.rank == r.rank && q.fr.ctx == r.ctx && q.fr.iter == r.iter)
  let free := !r.framed || ((sget s.flt.parked (frameKey s tile r.rank r.ctx r.iter)).bind (·.fr)).isNone
  let room := match receiver s tile r with
    | 0 => decide ((sgetD s.flt.supq tile []).length < 64)
    | 1 => decide (handlerCount s tile < 16)
    | _ => true
  decide (n < 1024) && !(fromOutside r && sgetD s.dev.qcur (quadOf tile) 0 == 2) && if p.deliver then first && free && room && !waitsForResume s tile r && !(r.framed && s.frm.frozen.contains tile)
  else decide (handlerCount s tile < 16) && !s.frm.frozen.contains tile

/-- A PREEMPT notice for a user handler (R414): a handler task of the context's UVEC block, its record numbered as every delivered one
(R370). -/
def deliverNotice (s : State) (tile : Nat) (r : FaultRec) : State :=
  let n := sgetD s.flt.fseq tile 0
  let r := { r with fseq := n.toNat }
  let s := { s with flt := { s.flt with fseq := sset s.flt.fseq tile (n + 1) } }
  let blk := (ctxOf s r.ctx).elim 0 (fun c => c.uvec.toNat % 256)
  { s with frm := { s.frm with ready := s.frm.ready ++
      [{ tile := tile, kind := .handler, rank := r.rank, ctx := r.ctx, iter := r.iter, blk := blk, cls := 0, stamp := s.cyc, since := s.cyc,
         frec := some r }] } }

/-- FAULT_DELIVERY (R405, R408 to R413): the n-th pending fault of a tile goes to its first receiver. -/
def execFaultDelivery (s : State) : Result :=
  let tile := s.occ.a
  match (s.flt.pending.filter (·.tile == tile))[s.occ.b]? with
  | none => .next s
  | some p =>
    if deliverable s tile s.occ.b p then
      let s := { s with flt := { s.flt with pending := s.flt.pending.erase p } }
      .next (if p.deliver then deliverFault s tile p.fr else deliverNotice s tile p.fr)
    else .next s

/-- R412, R377: SSTAT to SADDRH copy the record. -/
def setFaultRegs (s : State) (tile : Nat) (r : FaultRec) : State :=
  let w (n : Nat) : Word := BitVec.ofNat 32 ((recordWords r).getD n 0)
  let st := (w 1).toNat / 2 ^ 24 * 2 ^ 24 + bits (w 1).toNat 14 2 * 2 ^ 14
  let regs : List (Nat × Nat) :=
    [(0, st), (1, r.cause), (2, (w 0).toNat), (3, r.ftile * 2 ^ 8 + r.blk), (4, r.pos % 64), (5, (w 3).toNat), (6, (w 4).toNat)]
  regs.foldl (fun s p => setTileReg s tile p.1 (BitVec.ofNat 32 p.2)) s

/-- The tag of a tile's supervisor context, at ITER 0 (R412). -/
def supervisorTag (tile : Nat) : Nat := (Config.firmwareContext tile).toNat

/-- SUPERVISOR_FAULT_DEQUEUE (R172, R377, R412): the groom core's next fault goes to the inbox slot of SVEC. -/
def execSupervisorFaultDequeue (s : State) : Result :=
  let tile := s.occ.a
  let v := (tileReg s tile 7).toNat
  let slot := v % 512
  match sgetD s.flt.supq tile [] with
  | [] => .next s
  | r :: rest =>
    if !bit v 31 || (sget s.flt.busy tile).isSome || 4 ≤ (inboxOf s tile slot).length then .next s
    else
      let q := s.flt.supq
      let s := { s with flt := { s.flt with supq := if rest.isEmpty then sdel q tile else sset q tile rest, 
                                                busy := sset s.flt.busy tile (slot * 8 + (inboxOf s tile slot).length) } }
      let s := setFaultRegs s tile r
      let ws := (recordWords r ++ [0, 0]).map (BitVec.ofNat 32)
      let tok : Token := { hdr := plainHeader (supervisorTag tile) 0 8 slot, lanes := lanesOf ws }
      .next (wakeGroom { s with frm := { s.frm with inbox := sset s.frm.inbox (tile * 512 + slot) (inboxOf s tile slot ++ [tok]) } } tile)

end Sys2Proof.Machine
end

