-- ==== Sys2Proof/Machine/Tasks.lean ====
section
/-! DEFINITION. Tasks: their choice and firing, the commit of a block and the release of its entries, the commit stage, the stage
balancer, class aging and the watchdog (R172 to R177, R200, R203, R207, R256, R257, R371, R401, R410, R461). -/

namespace Sys2Proof.Machine

/-! Reserved words (R176, R212, R221). -/

/-- RESERVED_OPCODE: ILL_OP. -/
def execReservedOpcode (s : State) : Result := runTask (fun _ _ => stop causeIllOp 0) s

/-! The choice of a task (R200). -/

/-- R200's order. -/
def taskBefore (a b : Ready) : Bool :=
  decide (a.cls < b.cls) || a.cls == b.cls && (decide (a.stamp < b.stamp) || a.stamp == b.stamp &&
    (decide (a.ctx < b.ctx) || a.ctx == b.ctx && (decide (a.iter < b.iter) || a.iter == b.iter && decide (a.blk < b.blk))))

/-- The first task in R200's order; of equal ones the earlier entered. -/
def firstTask : List Ready → Option Ready
  | [] => none
  | r :: rest =>
    match firstTask rest with
    | some b => if taskBefore b r then some b else some r
    | none => some r

/-- The tile's elements may fire: it is clocked, its quadrant is not in P2. -/
def tileRuns (s : State) (tile : Nat) : Bool := (sget s.dev.gated tile).isNone && sgetD s.dev.qcur (quadOf tile) 0 != 2

/-- A PE may take a task: it holds the block, its stage is the block's, no halt and no awaited acquire stands against it (R164, R200,
R425), and the tile is not frozen (R417). -/
def mayTake (s : State) (tile elem : Nat) (r : Ready) : Bool :=
  match r.kind with
  | .groom =>
    elem == 8 && (sget s.flt.haltCtx r.ctx).isNone
  | _ =>
    elem != 8 && !s.frm.frozen.contains tile && (sget s.flt.haltCtx r.ctx).isNone && !awaitsAcquire s tile r.ctx &&
      (sget s.tab.blocks (tile * 256 + r.blk)).elim false (fun b => bit b.pemask elem && (peAt s tile elem).stage == some b.stage)

def chosenTask (s : State) (tile elem : Nat) : Option Ready := firstTask (s.frm.ready.filter (fun r => r.tile == tile && mayTake s tile elem r))

/-! Firing (R173, R207, R410). -/

/-- The tokens that a task takes as e0 and up, from slot SLOT0 on. -/
def entryTokens (s : State) (r : Ready) (b : Block) : List (Header × Lanes) :=
  match r.kind with
  | .frame =>
    (upto b.nin).filterMap (fun k => (sget s.frm.slots (slotKey s r.tile r.rank r.ctx r.iter (b.slot0 + k))).map (fun x =>
      (({ ctx := r.ctx, iter := r.iter, seg := x.seg, wm1 := x.wm1, pol := x.pol, nrm := x.nrm, str := x.str, can := false, eor := x.eor,
          slot := b.slot0 + k } : Header), x.lanes)))
  | .groom => (upto b.nin).filterMap (fun k => (inboxOf s r.tile (b.slot0 + k)).head?.map (fun t => (t.hdr, t.lanes)))
  | .handler =>
    [(plainHeader r.ctx r.iter 8 0, lanesOf (((r.frec.elim (List.replicate 6 0) recordWords) ++ [0, 0]).map (BitVec.ofNat 32)))]

/-- A task at position 0 (R178): nothing in its latches and temporaries, EMASK all ones below W, and no lane of an entry valid at or above W. -/
def newTask (s : State) (r : Ready) (b : Block) (head : Nat) (es : List (Header × Lanes)) : Task :=
  let h := (es.head?.map (·.1)).getD (plainHeader r.ctx r.iter 1 0)
  let w := h.wm1 + 1
  { tid := s.nextId, kind := r.kind, ctx := r.ctx, iter := r.iter, rank := r.rank, blk := r.blk, base := b.iaddr, len := bits head 26 6,
    nin := b.nin, sup := bit head 23, pos := 0, w := w, hdr := h, entries := es.map (fun e => cutLanes w e.2), temps := List.replicate 8 noLanes, latA := [],
    latB := [], pv := [], sense := [], armed := [], emask := (upto 32).map (fun l => decide (l < w)), cbuf := [], flags := 0,
    astat := sgetD s.astat (ctxKey r.tile r.rank r.ctx) 0, cx := (ctxOf s r.ctx).getD absentCtx, gives := [], moves := [], reserved := [],
    step := 0, frec := r.frec }

/-- A slot whose token cannot be read (R83). -/
def slotFails (s : State) (k : Nat) : Bool := (sget s.frm.slots k).elim false (fun x => (slotError s k x).isSome)

/-- Reading the entry slots of a frame's task corrects their single-bit errors (R82). -/
def fixEntries (s : State) (r : Ready) (b : Block) : State :=
  match r.kind with
  | .frame => (upto b.nin).foldl (fun s n =>
      let k := slotKey s r.tile r.rank r.ctx r.iter (b.slot0 + n)
      (sget s.frm.slots k).elim s (fun x => correctSoft s r.tile (frameWord k) (slotWords x))) s
  | _ => s

/-- The checks at firing (R83, R171, R173, R207): the cause and address of the first that fails. A groom block fires for the supervisor context alone
(R171); that one without SUP that fires for a user context raises PRIV too is the model's choice (log entry 74). -/
def fireFault (s : State) (r : Ready) (b : Block) (head : Nat) (es : List (Header × Lanes)) (τ : Task) : Option (Nat × Nat) :=
  let bad := (upto b.nin).find? (fun k => slotFails s (slotKey s r.tile r.rank r.ctx r.iter (b.slot0 + k)))
  if bits head 12 4 ≠ 0xA ∨ bits head 16 7 ≠ 0 ∨ bits head 0 12 ≠ 0 then some (causeIllBlock, b.iaddr)
  else if (τ.sup || τ.kind == .groom) && τ.cx.asid != 0 then some (causePriv, 0)
  else
    match r.kind, bad with
    | .frame, some k => some (causeMemUe, (slotKey s r.tile r.rank r.ctx r.iter (b.slot0 + k)) % 2 ^ 14 * 128)
    | _, _ => if es.all (fun e => e.1.wm1 == τ.hdr.wm1) then none else some (causeLaneMismatch, 0)

/-- The block of a runnable task. -/
def readyBlock (s : State) (r : Ready) : Option Block :=
  match r.kind with
  | .groom => sget s.tab.gblocks (r.tile * 64 + r.blk)
  | _ => sget s.tab.blocks (r.tile * 256 + r.blk)

/-- A task fires. Its fault at firing waits, with the task, while the list it goes to is full. -/
def fireTask (s : State) (r : Ready) : State :=
  match readyBlock s r with
  | none => { s with frm := { s.frm with ready := s.frm.ready.erase r } }
  | some b =>
    let s := fixEntries s r b
    let head := (sgetD s.tab.imem (s.occ.a * 2 ^ 18 + s.occ.b * 2 ^ 14 + b.iaddr) 0).toNat
    let es := entryTokens s r b
    let τ := newTask s r b head es
    let fired := { s with nextId := s.nextId + 1, frm := { s.frm with ready := s.frm.ready.erase r } }.setTask τ
    match fireFault s r b head es τ with
    | none => fired
    | some (c, a) =>
      let s' := takeFault fired τ 0x3F c 0 a
      if s'.task?.isSome then s else s'

/-- A commit buffer is free for the element's next task, and a PE that the balancer moves has released all that it committed (R175, R401). -/
def bufferFree (p : Pe) : Bool := p.behind.isEmpty && !(p.moved && !p.rel.isEmpty)

/-- TASK_FIRE (R173, R175, R200, R401, R410, R428): a PE or groom core that runs nothing takes its halted task up again, or the first
runnable one. -/
def execTaskFire (s : State) : Result :=
  let tile := s.occ.a
  let elem := s.occ.b
  if 8 < elem ∨ s.task?.isSome ∨ !tileRuns s tile ∨ !bufferFree (peAt s tile elem) then .next s
  else if (sget s.flt.resuming (tile * 9 + elem)).isSome then
    .next (if s.frm.frozen.contains tile then s else orWait tile s (takeHalted s tile elem))
  else
    match chosenTask s tile elem with
    | some r => .next (fireTask (setPe s tile elem { peAt s tile elem with moved := false }) r)
    | none => .next s

/-! The commit stage (R256, R257, R461). -/

def isCommit : OpKind → Bool
  | .commit _ _ => true
  | _ => false

def nxcOf (s : State) (tile rank c : Nat) : Nat := sgetD s.isl.nxc (ctxKey tile rank c) 0

/-- Entries that a tile's commit stage holds. -/
def commitLoad (s : State) (tile : Nat) : Nat := (s.ops.filter (fun o => o.tile == tile && o.tid == 0 && isCommit o.kind)).length

/-- R257: an entry that it may use is free. -/
def commitRoom (s : State) (o : Op) : Bool :=
  decide (commitLoad s o.tile < 56) || decide (commitLoad s o.tile < 64) && o.iter == nxcOf s o.tile o.rank o.ctx

/-- The held entry of a context that is released next: its ITER is not above NXC. -/
def commitNext (s : State) (tile rank c : Nat) : Option Op :=
  let mine := s.ops.filter (fun o => o.tile == tile && o.rank == rank && o.ctx == c && o.tid == 0 && isCommit o.kind && decide (o.iter ≤ nxcOf s tile rank c))
  mine.foldl (fun acc o => match acc with
    | some b => if o.iter < b.iter then some o else acc
    | none => some o) none

/-- Entries released while one is at its turn; NXC stays at 0xFFFF with ITER_WRAP (R461). -/
def releaseCommits (tile rank c : Nat) : Nat → State → State
  | 0, s => s
  | f + 1, s =>
    match commitNext s tile rank c with
    | none => s
    | some o =>
      let n := nxcOf s tile rank c
      let nul := match o.kind with
        | .commit nul _ => nul
        | _ => true
      let s := dropOp s o.id
      let s := if nul then s else emitOp s o 12 o.a (fun h => h)
      let s := if n = 0xFFFF then raiseOp s { o with id := 0 } causeIterWrap 0 0
        else { s with isl := { s.isl with nxc := sset s.isl.nxc (ctxKey tile rank c) (n + 1) } }
      releaseCommits tile rank c f s

/-- An entry reaches the commit stage. One below NXC raises DUPTAG on the frame at NXC, with the place of the COMMIT that issued it (R407) and,
where a handler task issued it, for the supervisor (R408). -/
def enterCommit (s : State) (o : Op) : State :=
  let n := nxcOf s o.tile o.rank o.ctx
  if o.iter < n then raiseOn s o.tile (opRecord s { o with id := 0, iter := n } causeDuptag 0x02 (o.ctx * 2 ^ 16 + o.iter))
  else
    let s := enterOp s o
    releaseCommits o.tile o.rank o.ctx (commitLoad s o.tile) s

/-- The entry of a token with ELEM 3: a COMMIT on PE0 with T = SLOT[6:0]. -/
def tokenCommit (s : State) (f : Flight) : Op :=
  let h := f.tok.hdr
  let n := f.dest.slot % 128
  let p := sget s.tab.ports (f.tile * 9 * 128 + n)
  { id := 0, tile := f.tile, elem := 0, rank := f.rank, ctx := h.ctx, iter := h.iter, blk := 0xFF, pos := 0x3F, w := h.wm1 + 1, tid := 0,
    byHandler := false, cx := (ctxOf s h.ctx).getD absentCtx, kind := .commit (!anyLane f.tok.lanes) (p.getD { top := 0, dests := [] }),
    port := p, portNo := n, hdr := h, emask := List.replicate 32 true, a := f.tok.lanes, b := noLanes, lanes := [], phase := .queued, n := 0,
    out := noLanes, cause := 0, detail := 0, addr := 0, retried := false }

/-- COMMIT_ENTRY (R256, R257). -/
def execCommitEntry (s : State) : Result :=
  match arriving s (fun f => f.dest.elem == 3 && !f.tok.hdr.can) with
  | none => .next s
  | some f =>
    let o := tokenCommit s f
    if commitRoom s o && faultRoom s f.tile f.rank o.ctx (nxcOf s f.tile f.rank o.ctx) && faultRoom s f.tile f.rank o.ctx o.iter then
      .next ((fits f.tile (enterCommit (acceptFlight s f) o)).getD (refuseFlight s f))
    else .next (refuseFlight s f)

/-! Release of a committed block's entries (R175, R191, R192). -/

def isCb2 : OpKind → Bool
  | .mma pr _ _ _ => (pairFmts pr).1 == some .cb2
  | _ => false

/-- A CB2 MMA of the tile that is released before an LTLD and not applied holds it (R331); one that its commit buffer still holds is released too. -/
def ltldWaits (s : State) (o : Op) : Bool :=
  let waits (p : Op) : Bool := isCb2 p.kind && decide (p.id < o.id) && p.n == 0
  s.ops.any (fun p => p.tile == o.tile && p.tid == 0 && p.phase != .done && waits p) ||
    (upto 9).any (fun e => (peAt s o.tile e).held.any (fun x => match x with
      | .op p => waits p
      | .emit _ _ _ => false))

/-- LTLDs whose MMAs are applied write their rows, each row whole (R79, R331). -/
def drainLtld (s : State) (tile : Nat) : State :=
  (heldLtld s tile).foldl (fun s o =>
    if ltldWaits s o then s
    else
      let rows := (upto 32).filterMap (fun l => (laneOf o.b l).map (fun k => k.toNat % 256))
      let s := rows.foldl (fun s r => clearIsl s o.tile (latticeWord r) 1) (dropOp s o.id)
      { s with isl := { s.isl with lattice := ltldRows s.isl.lattice o } }) s

/-- R331: an update of AXn from AMAX. -/
def applyAmax (s : State) (tile n : Nat) (v : Word) : State :=
  { s with isl := { s.isl with ax := sset s.isl.ax (tile * 16 + n) (amaxc (sgetD s.isl.ax (tile * 16 + n) 0) v) } }

/-- An operation that its queue, channel or unit takes now. -/
def admitOp (s : State) (o : Op) : Option State := some (enterOp s o)

/-- What holds a TACC, which reads and writes its row as an access of its port (R329): a FENCE that is not released (R155), or an earlier STP of its
stream to that row that is itself held (R138). -/
def taccFenced (s : State) (o : Op) (row : Nat) : Bool :=
  let a := penByte s o.tile (penOf row) (offOf row)
  fenced s o || (heldStps s o.tile).any (fun p => sameStream p o && decide (p.id < o.id) &&
    p.lanes.any (fun x => !x.fin && decide (x.va.toNat < a + 4 + 4 * o.w) && decide (a < x.va.toNat + x.len)))

/-- An operation leaves the commit buffer; `none` while what it goes to has no room. -/
def releaseOp (s : State) (o : Op) : Option State :=
  match o.kind with
  | .qpost pen => if penQuiet s o then fits o.tile (commitSlot s o pen false) else none
  | .qfree pen => if penQuiet s o then fits o.tile (commitSlot s o pen true) else none
  | .mts n v => some (commitMts s o n v)
  | .amax n v => some (applyAmax s o.tile n v)
  | .ltld => some (drainLtld (enterOp s o) o.tile)
  | .ncfg => fits o.tile (emitOp s o 13 o.a (fun h => h))
  | .brcfg => fits o.tile (emitOp s o 13 o.a (fun h => h))
  | .ctxa _ => some s
  | .ctxf c =>
    let o := if o.id = 0 then { o with id := s.nextId } else o
    some (endContext (enterOp { s with nextId := s.nextId + 1 } o) { o with tid := 0 } c)
  | .spawn child hv => if hv then admitOp s o else if spawnRoom s o then some (spawnChild s o child) else none
  | .trap code => fits o.tile (raiseOp s o causeTrap code (wordA o 0))
  | .brk code => fits o.tile (raiseOp s o causeBrk code 0)
  | .commit _ _ => if commitRoom s o then fits o.tile (enterCommit s o) else none
  | .tacc _ p =>
    let s' := drainBefore s o.tile o.id
    if !taccFenced s o p && taccRoom s' o p then fits o.tile (enterTacc s' o p) else none
  | .fold => if foldLoad s o.tile < 8 then admitOp s o else none
  | .ffin => if foldLoad s o.tile < 8 then admitOp s o else none
  | .eres _ _ _ => if handlerMayAct s o then fits o.tile (commitHandler s o) else none
  | .esc => if handlerMayAct s o then fits o.tile (commitHandler s o) else none
  | .ekill => if handlerMayAct s o then fits o.tile (commitHandler s o) else none
  | .mfsr => fits o.tile (commitSys s o)
  | .mtsr => if sysRoom s o then fits o.tile (commitSys s o) else none
  | .tbi => if sysRoom s o then fits o.tile (commitSys s o) else none
  | .shinv => if sysRoom s o then fits o.tile (commitSys s o) else none
  | .plbc => if sysRoom s o then fits o.tile (commitSys s o) else none
  | .cfgld => fits o.tile (commitSys s o)
  | .gait => fits o.tile (commitSys s o)
  | .idle => fits o.tile (commitSys s o)
  | .park => fits o.tile (commitSys s o)
  | _ =>
    match chanOf o.kind with
    | some ch => if channelLoad s o.tile ch < 16 then admitOp s o else none
    | none =>
      if isQueueOp o.kind then (if queueRoom s o then fits o.tile (enterQueue s o) else none)
      else admitOp s o

/-- An entry leaves the commit buffer. -/
def releaseEntry (s : State) (tile elem : Nat) : CbEntry → Option State
  | .emit h v ds =>
    if ds.isEmpty then some s
    else if outRoom s tile elem h.ctx h.iter then some (addOut s tile elem { hdr := h, lanes := v } ds) else none
  | .op o => releaseOp s o

/-- A TRAP or BRK, which is taken after the block's entries have been released (R371, R372). -/
def isTrap : OpKind → Bool
  | .trap _ => true
  | .brk _ => true
  | _ => false

/-- What a commit releases in block order: the emissions among themselves and the operations among themselves, each until one must wait;
`e` and `q` say that one waits already, and a trap waits for either. The state and what is left (R175, R371). -/
def releaseEntries (tile elem : Nat) : Bool → Bool → List CbEntry → State → State × List CbEntry
  | _, _, [], s => (s, [])
  | e, q, .emit h v ds :: r, s =>
    match if e then none else releaseEntry s tile elem (.emit h v ds) with
    | some s' => releaseEntries tile elem e q r s'
    | none =>
      let x := releaseEntries tile elem true q r s
      (x.1, .emit h v ds :: x.2)
  | e, q, .op o :: r, s =>
    match if q || e && isTrap o.kind then none else releaseEntry s tile elem (.op o) with
    | some s' => releaseEntries tile elem e q r s'
    | none =>
      let x := releaseEntries tile elem e true r s
      (x.1, .op o :: x.2)

/-- The release of an element's commit buffers goes on, the second behind the first. -/
def continueRelease (s : State) (tile elem : Nat) : State :=
  let p := peAt s tile elem
  if p.held.isEmpty then s
  else
    let r := releaseEntries tile elem false false p.rel s
    if !r.2.isEmpty then setPe r.1 tile elem { peAt r.1 tile elem with rel := r.2 }
    else
      let r := releaseEntries tile elem false false p.behind r.1
      setPe r.1 tile elem { peAt r.1 tile elem with rel := r.2, behind := [] }

/-- Operations that their port takes at the commit itself, before any entry that must wait for room: accesses, hitch operations, FENCE,
register writes and the rows of LTLD (R331). Later loads of the element are then behind the block's stores in issue order (R136, R175). -/
def atOnce : OpKind → Bool
  | .st _ _ => true
  | .sflush => true
  | .sinv => true
  | .amo _ => true
  | .cas _ => true
  | .amosc _ => true
  | .amof _ => true
  | .stp _ => true
  | .hreq _ _ => true
  | .hrel _ => true
  | .hbind => true
  | .hunb => true
  | .fence _ => true
  | .bar _ _ => true
  | .spawn _ hv => hv
  | .mts _ _ => true
  | .amax _ _ => true
  | .ltld => true
  | _ => false

/-- The commit numbers the operations of its buffer in block order, which is their issue order, whatever room they then wait for (R136, R175). -/
def numberOps : Nat → List CbEntry → List CbEntry
  | _, [] => []
  | n, .op o :: r => .op { o with id := n } :: numberOps (n + 1) r
  | n, .emit h v ds :: r => .emit h v ds :: numberOps n r

/-- An entry that a commit hands over at once. -/
def immediate : CbEntry → Bool
  | .op o => atOnce o.kind
  | .emit _ _ _ => false

/-- The commit hands those operations over in block order. -/
def handOver (l : List CbEntry) (s : State) : State :=
  l.foldl (fun s e => match e with
    | .op o => if atOnce o.kind then (releaseOp s o).getD s else s
    | .emit _ _ _ => s) s

/-! Commit (R76, R175, R290, R293, R307, R371). -/

/-- The first trap of a block, last in its commit buffer; the others go (R371). -/
def trapsLast (l : List CbEntry) : List CbEntry :=
  let traps (e : CbEntry) : Bool := match e with
    | .op o => isTrap o.kind
    | .emit _ _ _ => false
  l.filter (fun e => !traps e) ++ (l.filter traps).take 1

/-- NCFG and BRCFG are applied at the commit itself, so that every row admitted after it has the new configuration (R358, R361); what their entries
then release is their token. -/
def configure (l : List CbEntry) (s : State) : State :=
  l.foldl (fun s e => match e with
    | .op o => (match o.kind with | .ncfg => commitNcfg s o | .brcfg => commitBrcfg s o | _ => s)
    | .emit _ _ _ => s) s

/-- The contexts that CTXA reserved live from the commit on (R259). -/
def liveContexts (s : State) (l : List CbEntry) : State :=
  l.foldl (fun s e => match e with
    | .op o => (match o.kind with | .ctxa c => makeLive s c | _ => s)
    | .emit _ _ _ => s) s

/-- The commit of a task at its frame or inbox: PRS is cleared and R76 counts it; slots of troughs that the block has moved leave the record
(R293). A frame that traps is parked here, so that its last block does not retire it. -/
def settleTask (s : State) (tile : Nat) (τ : Task) (traps : Bool) : State :=
  let s := { s with frm := { s.frm with owned := s.frm.owned.filter (fun x => !(x.tile == tile && movedBy τ x)) } }
  match τ.kind with
  | .handler => s
  | .groom => groomDone s tile τ.blk
  | .frame =>
    match positionOf s tile τ.rank τ.ctx τ.iter, sget s.tab.blocks (tile * 256 + τ.blk) with
    | some p, some b =>
      if p.lv then
        let s := if traps && s.dev.pv then parkFrame s tile τ.rank τ.ctx τ.iter false else s
        let s := clearEntries s tile τ.rank τ.ctx τ.iter b
        if τ.hdr.eor then countBlock s tile τ.rank τ.ctx τ.iter else s
      else clearEntries s tile τ.rank τ.ctx τ.iter b
    | _, _ => s

/-- The block commits: its entries stand in the buffer before an LTLD of it looks for the MMAs that are to read the old rows (R331). A task of which this was a single step's last instruction stays until its halt (R429). -/
def commitTask (s : State) (τ : Task) : State :=
  let tile := s.occ.a
  let elem := s.occ.b
  let buf := trapsLast τ.cbuf
  let traps := buf.any (fun e => match e with
    | .op o => isTrap o.kind
    | .emit _ _ _ => false)
  let s := s.dropTask
  let s := { s with ops := s.ops.map (fun o => if o.tid == τ.tid then { o with tid := 0 } else o) }
  let s := liveContexts s buf
  let s := orAstat s tile τ.rank τ.ctx τ.flags
  let s := settleTask s tile τ traps
  let s := { s with sch := { s.sch with launches := smod s.sch.launches τ.cx.q (fun l => { l with commitAt := s.cyc }) } }
  let buf := numberOps s.nextId buf
  let s := configure buf { s with nextId := s.nextId + buf.length }
  let rest := buf.filter (fun e => !immediate e)
  let p := peAt s tile elem
  let s := setPe s tile elem (if p.held.isEmpty then { p with rel := rest } else { p with behind := p.behind ++ rest })
  let s := handOver buf s
  let s := continueRelease s tile elem
  if τ.step = 1 then setPe s tile elem { peAt s tile elem with run := some τ.stepped } else s

/-- Position of the GIVE of a pen. -/
def givePos (τ : Task) (pen : Nat) : Nat :=
  (τ.cbuf.findSome? (fun e => match e with
    | .op o => (match o.kind with | .give n _ => if n = pen then some o.pos else none | _ => none)
    | .emit _ _ _ => none)).getD 0x3F

/-- BLOCK_COMMIT (R175, R290): the release of earlier blocks goes on; then a block whose last instruction has issued commits, or is
discarded for a GIVE to an engine that no command of it consumed. -/
def execBlockCommit (s : State) : Result :=
  let s := continueRelease (drainLtld s s.occ.a) s.occ.a s.occ.b
  match s.task? with
  | none => .next s
  | some τ =>
    if τ.pos ≤ τ.len ∨ τ.spent then .next s
    else
      match τ.gives.find? (fun g => !g.2.2) with
      | some g => .next (takeFault s τ (givePos τ g.1) causeOwnViol 0 (g.1 * 2 ^ 22))
      | none => .next (commitTask s τ)

/-! Class aging (R200). -/

/-- TASK_CLASS_AGING (R200): the n-th runnable task of a tile has waited 4,096 fabric cycles in a class above 0. -/
def execTaskClassAging (s : State) : Result :=
  match (s.frm.ready.filter (·.tile == s.occ.a))[s.occ.b]? with
  | none => .next s
  | some r =>
    if 0 < r.cls ∧ r.since + 4096 ≤ s.cyc then
      let older : Ready := { r with cls := r.cls - 1, since := s.cyc }
      .next { s with frm := { s.frm with ready := s.frm.ready.map (fun x => if x == r then older else x) } }
    else .next s

/-! The stage balancer (R401). -/

/-- A PE of a tile holds a block of a stage. -/
def peHolds (s : State) (tile stage e : Nat) : Bool := (srange s.tab.blocks (tile * 256) 256).any (fun b => b.2.stage == stage && bit b.2.pemask e)

def pesOf (s : State) (tile : Nat) (st : Option Nat) : List Nat := (upto 8).filter (fun e => (peAt s tile e).stage == st)

/-- The better of two stages by occupancy: `high` takes the fuller one, and ties go to the first. -/
def fuller (s : State) (tile : Nat) (a b : Nat × Stage) : Bool := decide (stageLoad s tile b.1 * a.2.depth < stageLoad s tile a.1 * b.2.depth)

/-- The move that the balancer makes: the PE and the stage it joins. -/
def balanceMove (s : State) (tile : Nat) : Option (Nat × Nat) :=
  let stages := srange s.tab.stages (tile * 16) 16
  let wants := stages.filter (fun g => decide (3 * g.2.depth ≤ 4 * stageLoad s tile g.1))
  let best := wants.foldl (fun acc g => match acc with
    | some b => if fuller s tile g b then some g else acc
    | none => some g) (none : Option (Nat × Stage))
  match best with
  | none => none
  | some r =>
    match (pesOf s tile none).find? (peHolds s tile r.1) with
    | some e => some (e, r.1)
    | none =>
      let gives (g : Nat × Stage) : Bool := decide (4 * stageLoad s tile g.1 ≤ g.2.depth) && decide (g.2.minpe < (pesOf s tile (some g.1)).length) &&
        (pesOf s tile (some g.1)).any (peHolds s tile r.1)
      let donor := (stages.filter gives).foldl (fun acc g => match acc with
        | some b => if fuller s tile g b then acc else some g
        | none => some g) (none : Option (Nat × Stage))
      match donor with
      | none => none
      | some d => (((pesOf s tile (some d.1)).filter (peHolds s tile r.1)).getLast?).map (fun e => (e, r.1))

/-- STAGE_BALANCE (R401): every 4,096 fabric cycles from the tile's CFGLD. -/
def execStageBalance (s : State) : Result :=
  let tile := s.occ.a
  let t0 := sgetD s.tab.cfgAt tile 0
  if (sget s.tab.cfgAt tile).isSome ∧ t0 < s.cyc ∧ (s.cyc - t0) % 4096 = 0 then
    match balanceMove s tile with
    | some (e, g) => .next (setPe s tile e { peAt s tile e with stage := some g, moved := true })
    | none => .next s
  else .next s

/-! The watchdog (R203). -/

/-- A token of the launch is held at a source, present in a frame that is not parked, or runnable. -/
def workPending (s : State) (q : Nat) : Bool :=
  let tiles := launchTiles s q
  let mine (c : Nat) : Bool := (ctxOf s c).elim false (fun x => x.q == q)
  s.net.outs.any (fun e => mine e.tok.hdr.ctx) || s.pe.any (fun p => !p.2.held.isEmpty && tiles.any (fun t => t.2.1 == p.1 / 9)) ||
    s.frm.ready.any (fun r => r.kind != .groom && mine r.ctx) ||
    tiles.any (fun t => (s.ctxs.filter (fun x => x.2.q == q)).any (fun x =>
      (windowOf s t.2.1 t.2.2 x.1).pos.any (fun p => p.2.lv && !p.2.pk &&
        !(srange s.frm.slots (slotKey s t.2.1 t.2.2 x.1 p.2.it 0) (2 ^ (fplanOf s t.2.1 t.2.2 x.1).fslog2)).isEmpty)))

/-- WATCHDOG (R203): 2^24 fabric cycles without a commit while work is pending. Cycles in which nothing is pending do not count. -/
def execWatchdog (s : State) : Result :=
  let q := s.occ.a
  match sget s.sch.launches q with
  | none => .next s
  | some l =>
    let restart (s : State) : State := { s with sch := { s.sch with launches := smod s.sch.launches q (fun l => { l with commitAt := s.cyc }) } }
    if !l.placed || l.st == .ending then .next s
    else if !workPending s q then .next (restart s)
    else if decide (l.commitAt + 2 ^ 24 ≤ s.cyc) && decide (pendingCount s (originTile l) < 1024) then
      .next (restart (frameless s (originTile l) causeWatchdog 0 q))
    else .next s

end Sys2Proof.Machine
end

