-- ==== Sys2Proof/Machine/Launch.lean ====
section
/-! DEFINITION. Launches at the Stablemaster: records and their intake, the checks of an image, completion records, the end of a
launch, the freeing of its tiles, quadrant reports and the barrier of a run (R166, R168, R197, R236, R385 to R390, R394, R395, R443). -/

namespace Sys2Proof.Machine

def setLaunch (s : State) (q : Nat) (l : Launch) : State := { s with sch := { s.sch with launches := sset s.sch.launches q l } }

/-! Rectangles (R197). -/

/-- Legal origins of a shape, in ascending tile number. -/
def origins (wd ht : Nat) : List (Nat × Nat) := ((upto (24 / ht)).map (fun j => (upto (16 / wd)).map (fun i => (i * wd, j * ht)))).flatten

/-- Tiles of a rectangle, row by row. -/
def rectTiles (x y wd ht : Nat) : List Nat := ((upto ht).map (fun j => (upto wd).map (fun i => (y + j) * 16 + x + i))).flatten

/-! The record (R386, R387). -/

def recField (ws : List Word) (lo width : Nat) : Nat := bits (ofWords ws) lo width
def recShape (ws : List Word) : Nat × Nat := (2 ^ recField ws 336 3, heightOf (recField ws 339 3))

/-- Reserved bits, ranges and origin. -/
def recordGood (ws : List Word) : Bool :=
  let f := recField ws
  let sh := recShape ws
  f 56 8 == 0 && f 124 4 == 0 && f 184 8 == 0 && f 248 8 == 0 && f 289 31 == 0 && f 362 22 == 0 && f 451 61 == 0 &&
    decide (f 336 3 ≤ 4) && decide (f 339 3 ≤ 5) && f 120 4 != 0 && f 354 6 != 0 && decide (f 354 6 ≤ 32) && decide (f 448 3 ≤ 3) &&
    (if f 344 1 = 1 then (origins sh.1 sh.2).contains (f 345 4, f 349 5) else f 345 9 == 0)

/-- A rectangle of the shape can be granted some day on the tiles present. -/
def everGrantable (s : State) (ws : List Word) : Bool :=
  let sh := recShape ws
  let os := if recField ws 344 1 = 1 then [(recField ws 345 4, recField ws 349 5)] else origins sh.1 sh.2
  os.any (fun o => (rectTiles o.1 o.2 sh.1 sh.2).all (tilePresent s))

/-- An initial context before its own values (R386). -/
def initBase (q asid uvec fmask rmode : Nat) : Ctx :=
  { st := .reserved, q := q, asid := asid, w := 1, bases := List.replicate 8 0, seq := 0, seed := 0, parent := none, uvec := BitVec.ofNat 32 uvec,
    fmask := BitVec.ofNat 32 fmask, rmode := BitVec.ofNat 3 rmode, plan := 0, iter0 := 0 }

/-- An entry of the initial-context array (R258, R387). -/
def initGood (rs : List RegionImg) (ws : List Word) : Bool :=
  (vectorCtx (fun l => ws[l]?) (initBase 0 0 0 0 0) 32 none).isSome && ws.getD 6 0 == 0 && ws.getD 7 0 == 0 &&
    (rs.filter (·.gait == 0)).all (fun r => r.fplanWord (bits (ws.getD 0 0).toNat 8 4) != 0)

/-! The image (R236). -/

/-- An edge entry: its reserved bits and, of an ingress one, its destination and STRIDE. R234 gives the ranges of STRIDE and COUNT and R236 refuses none
of them: that an ingress STRIDE outside 1 to 32 is refused, and an egress STRIDE of 0 or a COUNT of 0 is not, is the model's choice (log entry
65). -/
def edgeGood (rs : List RegionImg) (wd ht e : Nat) : Bool :=
  bits e 0 8 == 0 && bits e 64 8 == 0 &&
    (!edgeIn e || destGood (fun n => (neighboursOf rs 0 n).map (·.map (fun x => { x with fplans := [] }))) wd ht (edgeDest e) && decide (1 ≤ edgeStride e) && decide (edgeStride e ≤ 32))

/-- A gait entry names a legal sub-rectangle (R199). -/
def gaitGood (wd ht : Nat) (g : GaitImg) : Bool := g.good && wd % g.wd == 0 && (g.ht == ht || decide (g.ht ≤ 8) && ht % g.ht == 0)

/-- A PENDATA record names a pen of a region, with its bytes inside. -/
def penDataGood (rs : List RegionImg) (d : PenData) : Bool :=
  d.good && rs.any (fun r => r.region == d.region && r.gait == d.gait && decide (d.off + d.bytes.length ≤ bits (r.penWord d.pen) 12 11 * 4096) &&
    bits (r.penWord d.pen) 12 11 != 0)

/-- No two regions of one gait overlap. -/
def masksApart (rs : List RegionImg) : Bool :=
  (upto 512).all (fun n => rs.all (fun r => !r.tmask n || decide ((rs.filter (fun p => p.gait == r.gait && p.tmask n)).length ≤ 1)))

/-- Launch intake's checks of an image. -/
def ngiGood (secs : List Section) (wd ht : Nat) : Bool :=
  let rs := regionsOf secs
  let gs := gaitsOf secs
  let p := (rs.head?.map RegionImg.plan).getD { stash := 0, loft := 0, ntrg := 0, plog2 := 6, wlog2 := 0 }
  (secs.filter (·.typ == 4)).length == 1 && decide (1 ≤ (seqOf secs).length) && decide ((seqOf secs).length ≤ 65536) && rs.any (·.gait == 0) &&
    masksApart rs && rs.all (fun r => zeroBits r.num [(80, 48), (256, 256)] && r.plan.plog2 == p.plog2 && r.plan.wlog2 == p.wlog2) &&
    (penDataOf secs).all (penDataGood rs) && gs.all (gaitGood wd ht) && rs.all (fun r => r.gait == 0 || gs.any (·.gnum == r.gait)) &&
    (edgeEntries secs).all (edgeGood rs wd ht)

/-! Reading a record (R167, R387). -/

/-- 32-bit words of bytes. -/
def wordsOf (bs : List (BitVec 8)) : List Word := (upto (bs.length / 4)).map (fun k => BitVec.ofNat 32 (fieldOf bs (4 * k) 4))

/-- Who hands a record over: an ASID, and the class that a launch's task may not fall below; or the host with its message. -/
structure Issuer where
  asid : Nat
  bound : Bool
  cls : Nat
  host : Option (Nat × Stt)
  user : Bool

/-- R22, R387: the ASID of a record is live. -/
def asidLive (s : State) (asid : Nat) : State × Bool :=
  match asidRoot s asid with
  | (s, .ok _) => (s, asid != 0)
  | (s, .error _) => (s, false)

/-- What intake finds: the words of the record where it could read them, and the refusing cause or the launch's
contents. A record of a USER queue pair that names another ASID is refused with PRIV before anything else is looked at, ASID 0 among them: the
model's choice (log entry 28). -/
def readLaunch (s : State) (w : Issuer) (va : Nat) : State × List Word × Except Nat (List (List Word) × List Section) :=
  let want := imageWant (w.asid != 0) false
  match readVa s 0 w.asid va 64 want with
  | (s, .error (c, _, _)) => (s, [], .error c)
  | (s, .ok bs) =>
    let ws := wordsOf bs
    let asid := recField ws 320 16
    if w.user && asid != w.asid then (s, ws, .error causePriv)
    else if !recordGood ws then (s, ws, .error causeCfg)
    else if w.bound && asid != w.asid then (s, ws, .error causeCfg)
    else
      match asidLive s asid with
      | (s, false) => (s, ws, .error causeCfg)
      | (s, true) =>
      if !everGrantable s ws then (s, ws, .error causeCfg)
      else
      match readVa s 0 w.asid (recField ws 64 56) (96 * recField ws 120 4) want with
      | (s, .error (c, _, _)) => (s, ws, .error c)
      | (s, .ok ibs) =>
        match readImage s 0 asid (recField ws 0 56) with
        | (s, .error c) => (s, ws, .error c)
        | (s, .ok img) =>
          let iws := wordsOf ibs
          let inits := (upto (recField ws 120 4)).map (fun k => (iws.drop (24 * k)).take 24)
          match sectionsOf img with
          | none => (s, ws, .error causeCfg)
          | some secs =>
            if ngiGood secs (recShape ws).1 (recShape ws).2 && inits.all (initGood (regionsOf secs)) then (s, ws, .ok (inits, secs))
            else (s, ws, .error causeCfg)

/-! Completion records (R388). -/

def completionBytes (code cause qidx edrop npre tgrant tend : Nat) : List (BitVec 8) :=
  bytesOf 64 (code + cause * 2 ^ 16 + qidx * 2 ^ 32 + min edrop 0xFFFFFFFF * 2 ^ 64 + npre * 2 ^ 96 + tgrant * 2 ^ 128 + tend * 2 ^ 192)

/-- The record is written where its address can be written. -/
def putCompletion (s : State) (asid crva : Nat) (bs : List (BitVec 8)) : State := (writeVa s 0 asid crva bs (asid != 0)).1

/-! Intake (R262, R386 to R390, R443). -/

/-- A queue entry of an accepted record. -/
def queueRecord (s : State) (q : Nat) (w : Issuer) (ws : List Word) (inits : List (List Word)) (secs : List Section) : State :=
  let sh := recShape ws
  let c := max (recField ws 342 2) w.cls
  setLaunch s q
    { st := .waiting, words := ws, inits := inits, asid := recField ws 320 16, cls := c, cls0 := c, stamp := s.cyc, since := s.cyc,
      plog2 := ((regionsOf secs).head?.elim 6 (·.plan.plog2)), pool := 0, x0 := 0, y0 := 0, wd := sh.1, ht := sh.2, gait := 0, gx := 0, gy := 0,
      gw := sh.1, gh := sh.2, route := [], prog := seqOf secs, pc := 0, waiting := false, ended := false, code := 0, cause := 0, argDone := false,
      runs := 0, ingress := [], edges := edgesOf secs, first := 0, sig := 0, granted := 0, npre := 0, edrop := 0, tgrant := 0, commitAt := 0,
      aim := none, grow := none,
      shapes := (gaitsOf secs).map (fun g => (g.gnum, g.wd, g.ht)), saved := [], savedAt := 0, poolWait := [], host := w.host }

/-- One record is admitted in a fabric cycle (R389). -/
def admitOpen (s : State) : Bool := s.sch.intakeAt != s.cyc + 1

/-- A record is taken or refused: the state, its status and its queue index, 0xFFF for a refused one (R388). -/
def takeRecord (s : State) (w : Issuer) (va q : Nat) : State × Nat × Nat :=
  match readLaunch { s with sch := { s.sch with intakeAt := s.cyc + 1 } } w va with
  | (s, ws, .error c) =>
    let bs := completionBytes 0 c 0xFFF 0 0 0 s.cyc
    let s := if ws.isEmpty then s else putCompletion s w.asid (recField ws 128 56) bs
    (answerAny s w.host 3 c [], c, 0xFFF)
  | (s, ws, .ok (inits, secs)) =>
    let s := queueRecord s q w ws inits secs
    (if recField ws 256 23 = 0 then answerAny s w.host 1 q [] else s, 0, q)

/-- The lowest free queue index (R389). -/
def freeIndex (s : State) : Option Nat := (upto 4096).find? (fun q => (sget s.sch.launches q).isNone)

/-- The QP of a waiting message. -/
def msgQp : HostMsg → Nat
  | .launch qp _ _ => qp

/-- A task's LAUNCH (R165, R262): its context's stores are performed at home first. Where an EKILL drops one of them, the record is handed over
all the same, the model's choice (log entry 39). -/
def deviceIntake (s : State) (o : Op) : State :=
  let s := writeBackAll s o.tile
  match storesHome s o && admitOpen s && emitRoom s o (statusLanes o.w [0, 0]), freeIndex s with
  | true, some q =>
    let sv := o.cx.asid == 0
    let w : Issuer := { asid := o.cx.asid, bound := !sv, cls := (sget s.sch.launches o.cx.q).elim 0 (·.cls0), host := none, user := false }
    let r := takeRecord s w (wordA o 0 + wordA o 1 % 2 ^ 24 * 2 ^ 32) q
    emitOp (dropOp r.1 o.id) o o.elem (statusLanes o.w [BitVec.ofNat 32 r.2.1, BitVec.ofNat 32 r.2.2]) (fun h => h)
  | _, _ => s

/-- A host's LAUNCH message (R443), the first of its QP. -/
def hostIntake (s : State) (n : Nat) : State :=
  match s.sch.intake[n]?, freeIndex s with
  | some (k, .launch qp hd rva), some q =>
    if (s.sch.intake.take n).any (fun m => msgQp m.2 == qp) || !admitOpen s then s
    else
      let p := sgetD s.host.qps qp { port := 0, admin := false, asid := 0, err := true }
      let w : Issuer := { asid := p.asid, bound := false, cls := 0, host := some (qp, hd), user := !p.admin }
      let s := { s with sch := { s.sch with intake := s.sch.intake.erase (k, .launch qp hd rva) } }
      (takeRecord s w rva q).1
  | _, _ => s

/-- LAUNCH_INTAKE (R387, R389): the n-th waiting message of the host, or a task's LAUNCH. -/
def execLaunchIntake (s : State) : Result :=
  if s.occ.a = 0 then .next (hostIntake s s.occ.b)
  else
    match opById s s.occ.a with
    | some o => if o.kind == .launch && o.tid == 0 && o.phase == .queued then .next (deviceIntake s o) else .next s
    | none => .next s

/-- LAUNCH_RECORD_AGING (R390, R396): a waiting record, or a launch that waits to grow. -/
def execLaunchRecordAging (s : State) : Result :=
  match sget s.sch.launches s.occ.a with
  | some l =>
    let waits := l.st == .waiting || l.st == .saved || l.grow.isSome
    if waits && decide (0 < l.cls) && decide (l.since + 2 ^ 20 ≤ s.cyc) then .next (setLaunch s s.occ.a { l with cls := l.cls - 1, since := s.cyc })
    else .next s
  | none => .next s

/-! The barrier of a run (R166, R385). -/

/-- No context of the launch's pool is in use. -/
def poolFree (s : State) (q : Nat) : Bool := !s.ctxs.any (fun x => x.2.q == q)

/-- RUN_BARRIER_REACHED (R166, R385): every context of the pool is FREE and their stores are performed at home. -/
def execRunBarrierReached (s : State) : Result :=
  let q := s.occ.a
  match sget s.sch.launches q with
  | some l =>
    if decide (0 < l.runs) && l.placed && poolFree s q then
      let s := (dedup ((launchTiles s q).map (·.2.1))).foldl writeBackAll s
      if s.ops.any (fun o => isStore o.kind && o.cx.q == q) then .next s else .next (setLaunch s q { l with runs := 0 })
    else .next s
  | none => .next s

/-! The end of a launch (R168, R388, R399). -/

/-- A launch that has ended leaves its queue index free (R389); its tiles and its pool stay taken, under a number above every index, until they
are freed (R394). Its barriers, collectives and generations end with it. -/
def retireIndex (s : State) (q : Nat) (l : Launch) : State :=
  let k := 8192 + s.nextId
  setLaunch { s with
    nextId := s.nextId + 1,
    tab := { s.tab with owner := s.tab.owner.map (fun p => if p.2 == q then (p.1, k) else p) },
    sch := { s.sch with launches := sdel s.sch.launches q },
    syn := { s.syn with bars := s.syn.bars.filter (·.q != q), dreds := s.syn.dreds.filter (·.q != q), barGen := sdrop s.syn.barGen (q * 2 ^ 24) (2 ^ 24) } } k l

/-- LAUNCH_END: the program has ended and the pool is FREE. The record is written; a shrink or save under way is abandoned (R399). An ACCEPT
that no copy of arguments has brought yet comes before the END (R440, R443). -/
def execLaunchEnd (s : State) : Result :=
  let q := s.occ.a
  match sget s.sch.launches q with
  | some l =>
    if l.ended && l.placed && l.st != .ending && poolFree s q then
      let bs := completionBytes l.code l.cause q l.edrop l.npre l.tgrant s.cyc
      let s := putCompletion s l.asid (l.field 128 56) bs
      let s := if l.argDone || l.field 256 23 = 0 then s else answerAny s l.host 1 q []
      let s := answerAny s l.host 2 q bs
      let mine := (s.tab.owner.filter (·.2 == q)).map (·.1)
      let s := { s with frm := { s.frm with frozen := s.frm.frozen.filter (fun t => !mine.contains t) } }
      let asked := l.ingress.map (fun x => x.2.2.1)
      let s := { s with ops := s.ops.filter (fun o => !(o.elem == 14 && asked.contains o.id)) }
      .next (settleTokens (retireIndex s q { l with st := .ending, aim := none, grow := none, ingress := [] }))
    else .next s
  | none => .next s

/-! Freeing tiles (R394). -/

/-- Nothing of a launch is left on a tile: no frame, runnable task, outstanding engine command or stash line. -/
def tileEmpty (s : State) (tile : Nat) : Bool :=
  framesGone s tile && !s.frm.ready.any (fun r => r.tile == tile && r.kind != .groom) && (presentLines s tile).isEmpty &&
    (upto 8).all (fun e => (peAt s tile e).run.isNone && (peAt s tile e).held.isEmpty)

/-- Tiles of the rectangle in force. -/
def heldTiles (l : Launch) : List Nat := rectTiles l.gx l.gy l.gw l.gh

/-- Width and height of a gait's rectangle. -/
def shapeOf (l : Launch) (g : Nat) : Option (Nat × Nat) := if g = 0 then some (l.wd, l.ht) else (l.shapes.find? (·.1 == g)).map (·.2)

/-- Tiles of the rectangle that a change is to put in force. -/
def aimedTiles (l : Launch) : List Nat :=
  match l.aim with
  | some a => (shapeOf l a.gait).elim [] (fun sh => rectTiles a.x a.y sh.1 sh.2)
  | none => []

/-- The launch gives the tile up: it has ended or been saved, or the tile lies outside the rectangle in force and outside one that is to be. -/
def tileGivenUp (l : Launch) (tile : Nat) : Bool :=
  l.st == .ending || l.st == .saved || !(heldTiles l ++ aimedTiles l).contains tile

/-- The pool of an ended launch goes with its last tile (R394). -/
def dropLaunch (s : State) (q : Nat) : State := settleTokens { s with sch := { s.sch with launches := sdel s.sch.launches q } }

/-- TILE_FREE (R111, R394): a tile that its quadrant has reported quiet and whose loft the firmware has evicted is freed; the pool goes with the
launch's last tile. -/
def execTileFree (s : State) : Result :=
  let tile := s.occ.a
  match sget s.tab.owner tile with
  | none => .next s
  | some q =>
    let free (s : State) : State := { s with
      tab := { s.tab with owner := sdel s.tab.owner tile, ltiles := sdel s.tab.ltiles tile, cfgAt := sdel s.tab.cfgAt tile },
      frm := { s.frm with frozen := s.frm.frozen.filter (· != tile) },
      sch := { s.sch with left := sdel s.sch.left tile },
      net := { s.net with outs := s.net.outs.filter (fun e => !(e.tile == tile && e.elem != 8)) } }
    match sget s.sch.launches q with
    | none => .next (free s)
    | some l =>
      if tileGivenUp l tile && (sget s.sch.busy tile).isNone && tileEmpty s tile && !loftHeld s tile then
        let s := free s
        .next (if l.st == .ending && !s.tab.owner.any (·.2 == q) then dropLaunch s q else s)
      else .next s

/-! Quadrant reports (R395). -/

/-- Frame-store slots of a tile outside the windows granted. -/
def freeSlots (s : State) (tile : Nat) : Nat :=
  if (sget s.tab.owner tile).isNone then 16384 else 16384 - min 16384 ((sgetD s.tab.ltiles tile []).length * slotSpan s tile)

/-- FREE contexts of the pools granted in a quadrant. -/
def freeContexts (s : State) (quad : Nat) : Nat :=
  let qs := s.sch.launches.filter (fun p => s.tab.owner.any (fun t => t.2 == p.1 && quadOf t.1 == quad))
  qs.foldl (fun n p => n + 2 ^ p.2.plog2 - (s.ctxs.filter (fun x => x.2.q == p.1)).length) 0

/-- A tile that its agent reports quiet; in P2 it reports its tiles busy. -/
def calmTile (s : State) (t : Nat) : Bool := sgetD s.dev.qcur (quadOf t) 0 != 2 && tileEmpty s t

/-- The tiles of a quadrant that are there. -/
def quadPresent (s : State) (quad : Nat) : List Nat := (quadTiles quad).filter (tilePresent s)

def calmTiles (s : State) (quad : Nat) : List Nat := (quadPresent s quad).filter (calmTile s)

/-- Tiles of launches that have become quiet since their agent reported them busy. -/
def newlyQuiet (s : State) (quad : Nat) : List Nat :=
  (calmTiles s quad).filter (fun t => (sget s.sch.busy t).isSome && (sget s.tab.owner t).isSome)

/-- Tiles that have become busy since, so that the count of quiet ones has changed (R395). -/
def newlyBusy (s : State) (quad : Nat) : List Nat := (quadPresent s quad).filter (fun t => !calmTile s t && (sget s.sch.busy t).isNone)

/-- The launch tile number of a tile; a vacated tile's is the one it had. -/
def quietNumber (s : State) (t : Nat) : Nat := (sget s.sch.left t).getD (ltileOf s t 0)

/-- QUADRANT_REPORT (R395): the quadrant's agent reports its counts, and which of its tiles are quiet. Of tiles that become quiet in one cycle the
highest counts as the last (the model's choice, log entry 52). -/
def execQuadrantReport (s : State) : Result :=
  let quad := s.occ.a
  let present := quadPresent s quad
  let calm := calmTiles s quad
  let old := sgetD s.sch.reports quad (0x1FF * 2 ^ 48)
  let last := match (newlyQuiet s quad).getLast? with
    | some t => quietNumber s t
    | none => bits old 48 9
  let word := calm.length + (if present.isEmpty then 96 else 0) * 2 ^ 7 + (present.foldl (fun n t => n + freeSlots s t) 0) * 2 ^ 14 +
    min 4096 (freeContexts s quad) * 2 ^ 35 + last * 2 ^ 48
  let others := s.sch.busy.filter (fun p => quadOf p.1 != quad)
  let busy := (present.filter (fun t => !calmTile s t)).foldl (fun m t => sset m t ()) others
  .next { s with sch := { s.sch with reports := sset s.sch.reports quad word, busy := busy } }

end Sys2Proof.Machine
end

