-- ==== Sys2Proof/Machine/Change.lean ====
section
/-! DEFINITION. Changes of a launch's place: shrinks and growths of its gait, full saves and resumes (R396 to R398, R414, R417 to
R423). -/

namespace Sys2Proof.Machine

/-! Notices and the freeze (R414, R417 steps 1 and 2). -/

/-- LIVE contexts of a launch whose user handler gets the notice. -/
def noticed (s : State) (q tile : Nat) : List (Nat × Ctx) :=
  s.ctxs.filter (fun x =>
    let u := x.2.uvec.toNat
    x.2.q == q && x.2.st == .live && bit x.2.fmask.toNat 27 && bit u 31 && !bit u 30 && handlerGood s tile (u % 256))

/-- PREEMPT notices that name a gait (log entry 43): to the groom core of each tile, and to user handlers on the host of launch tile 0. -/
def sendNotices (s : State) (q : Nat) (l : Launch) (detail gait : Nat) : State :=
  let s := (heldTiles l).foldl (fun s t => frameless s t causePreempt detail gait) s
  match placeTile s q 0 with
  | none => s
  | some (tile, rank) =>
    (noticed s q tile).foldl (fun s x =>
      let r := { bareRecord 0 causePreempt detail gait with ctx := x.1, iter := (windowOf s tile rank x.1).low, rank := rank }
      { s with flt := { s.flt with pending := s.flt.pending ++ [{ tile := tile, fr := r, deliver := false }] } }) s

/-- The lists of the tiles take the notices (R405). -/
def noticeRoom (s : State) (q : Nat) (l : Launch) : Bool :=
  let n := (placeTile s q 0).elim 0 (fun p => (noticed s q p.1).length)
  (heldTiles l).all (fun t => decide (pendingCount s t + 1 + n ≤ 1024))

/-- The change is a growth, of which R414 sends no notice (log entry 43). -/
def growing (l : Launch) (aim : Option Aim) : Bool :=
  (aim.bind (fun a => shapeOf l a.gait)).elim false (fun r => decide (l.gw * l.gh < r.1 * r.2))

/-- A change begins: the notices of a shrink or a save, and the freeze of every tile; throttled tasks are queued in their frames again. -/
def beginChange (s : State) (q : Nat) (l : Launch) (st : LaunchState) (aim : Option Aim) : State :=
  if !growing l aim && !noticeRoom s q l then s
  else
    let s := if growing l aim then s else sendNotices s q l (if st == .saving then 1 else 0) (aim.elim l.gait (·.gait))
    let s := { s with frm := { s.frm with frozen := dedup (s.frm.frozen ++ heldTiles l), ready := s.frm.ready ++ l.poolWait } }
    setLaunch s q { l with st := st, aim := aim, poolWait := [] }

/-- Tiles fire again. -/
def unfreeze (s : State) (ts : List Nat) : State :=
  ts.foldl wakeTile { s with frm := { s.frm with frozen := s.frm.frozen.filter (fun t => !ts.contains t) } }

/-! Drain and quiescence (R417 steps 2 to 4). -/

/-- A member of an open DRED key, or a command behind one or behind a fault of its channel: it is saved as it stands. -/
def drayKept (s : State) (o : Op) : Bool :=
  let waits (p : Op) : Bool := stopped p || s.syn.dreds.any (fun m => m.arrived.any (·.2 == p.id))
  s.ops.any (fun p => p.tile == o.tile && p.tid == 0 && chanOf p.kind == chanOf o.kind && decide (p.id ≤ o.id) && waits p)

/-- A committed operation that must come to its end before the save. -/
def mustDrain (s : State) (o : Op) : Bool :=
  o.tid == 0 && !stopped o &&
    (match o.kind with
      | .tbi => true
      | .shinv => true
      | .plbc => true
      | .fold => pensGiven s o && !foldBlocked s o
      | .ffin => pensGiven s o && !foldBlocked s o
      | .reinld => pensGiven s o
      | .prbld => pensGiven s o
      | k =>
        if (chanOf k).isSome then !drayKept s o
        else isAccess k && !s.ops.any (fun p => sameStream p o && inStream p && stopped p && decide (p.id < o.id)))

/-- Nothing that an element's commit buffers hold can leave. -/
def bufferStands (s : State) (tile elem : Nat) : Bool :=
  let p := peAt s tile elem
  (releaseEntries tile elem false false p.rel s).2 == p.rel && (!p.rel.isEmpty || (releaseEntries tile elem false false p.behind s).2 == p.behind)

/-- The launch's tiles have come to rest. -/
def quiesced (s : State) (q : Nat) (l : Launch) : Bool :=
  let ts := heldTiles l
  ts.all (fun t => (upto 8).all (fun e => (peAt s t e).run.isNone && bufferStands s t e) && (islandHead s t).isNone) &&
    s.net.mesh.all (fun f => !ts.contains f.tile) && s.ops.all (fun o => !(o.cx.q == q && mustDrain s o)) &&
    s.syn.remotes.all (fun r => !ts.contains r.tile)

/-! Save (R417 steps 4 and 5, R421, R422). -/

/-- The lists of a launch's tiles take what a save may report (R405). -/
def saveRoom (s : State) (l : Launch) : Bool := (heldTiles l).all (fun t => decide (pendingCount s t + 3 ≤ 1024))

/-- STPs and dirty lines reach SRAM and home, and every launch tile is saved. -/
def takeSave (s : State) (q : Nat) (l : Launch) : State × List SavedTile :=
  let f := s.fresh
  let s := (heldTiles l).foldl (fun s t => reportBad (writeBackAll (drainStp s t) t) t) s
  let xs := (launchTiles s q).map (fun x => saveTile s q x.2.1 x.2.2 x.1 (l.saved.find? (·.ltile == x.1)))
  (homeWriteBytes s.tick 0 (Config.saveArea f) (saveImage f q l.gait (xs.map (·.ltile))), xs)

/-- What the tiles of a launch hold of it goes. -/
def vacate (s : State) (q : Nat) (ts : List Nat) : State :=
  let s := ts.foldl (fun s t => vacateTile s q t) s
  { s with
    tab := { s.tab with ltiles := ts.foldl sdel s.tab.ltiles },
    sch := { s.sch with left := ts.foldl (fun m t => sset m t (ltileOf s t 0)) s.sch.left } }

/-- Tiles that a launch has left host nothing of it: their tables are no launch's any more (R51). -/
def forgetTables (s : State) (ts : List Nat) : State := { s with tab := { s.tab with cfgAt := ts.foldl sdel s.tab.cfgAt } }

/-- Tokens that edges, the host and the sequencer offer for a launch move with its origin. -/
def moveOffers (s : State) (q dest : Nat) : State :=
  let mine (e : OutEntry) : Bool := e.elem == 14 && (ctxOf s e.tok.hdr.ctx).elim false (fun x => x.q == q)
  { s with net := { s.net with outs := s.net.outs.map (fun (e : OutEntry) => if mine e then { e with tile := dest } else e) } }

/-! The new place (R417 steps 7 to 9). -/

/-- The place that a change puts a launch in: its gait's shape and map, and the tiles that host launch tiles with their regions. -/
structure NewPlace where
  wd : Nat
  ht : Nat
  route : List Nat
  hosts : List (Nat × List Nat × RegionImg)

/-- A region for a tile that was not the launch's before. -/
def regionNew (l : Launch) (rs : List RegionImg) (g : Nat) (lts : List Nat) : Option RegionImg :=
  (regionFor rs g lts).filter (fun r => imageGood r (neighboursOf rs g) l.wd l.ht && decide (lts.length * 2 ^ (r.plan.plog2 + r.plan.wlog2) ≤ 16384))

/-- The place under a gait at an origin; `none` where a GAIT on one of its tiles would return CFG. -/
def placeFor (s : State) (l : Launch) (secs : List Section) (old : List Nat) (g x y : Nat) : Option NewPlace :=
  match routeOf (gaitsOf secs) l.wd l.ht g with
  | none => none
  | some (wd, ht, route) =>
    let hosts := (rectTiles x y wd ht).filterMap (fun t =>
      let lts := hostedBy route x y t
      if lts.isEmpty then none
      else some ((if old.contains t then gaitFor s l secs g t lts else regionNew l (regionsOf secs) g lts).map (fun r => (t, lts, r))))
    if hosts.all Option.isSome then some { wd := wd, ht := ht, route := route, hosts := hosts.filterMap id } else none

/-- GAIT, or CFGLD on a new tile, and the restore of each host. -/
def restoreAll (s : State) (asid g : Nat) (old : List Nat) (data : List PenData) (xs : List SavedTile) (hosts : List (Nat × List Nat × RegionImg)) : State :=
  sortOps (hosts.foldl (fun s h =>
    let s := if old.contains h.1 then loadGait s h.1 g h.2.2 else loadRegion s h.1 asid g h.2.1 h.2.2 data
    let s := { s with tab := { s.tab with ltiles := sset s.tab.ltiles h.1 h.2.1 }, sch := { s.sch with left := sdel s.sch.left h.1 } }
    restoreHost s (h.2.1.filterMap (fun n => xs.find? (·.ltile == n))) h.1) s)

/-- A change that cannot be made: the launch goes on where it is, and SQ.GAIT ends the program with a cause. Tiles that a growth was granted are
freed under R394. -/
def abandonChange (s : State) (q : Nat) (l : Launch) (a : Aim) (cause : Nat) : State :=
  let l := { l with st := .running, aim := none, grow := if a.bySeq then none else l.grow }
  let l := if a.bySeq then { l with ended := true, cause := cause, waiting := false } else l
  unfreeze (setLaunch s q l) (heldTiles l)

/-- The launch as it stands under its new gait; an answered growth is dropped, and a pre-emption's shrink asks to grow back, in
a record that waits from now on (R390, R398). NPRE counts every shrink (R388), and only a growth renews the time of the last grant. -/
def placedLaunch (s : State) (l : Launch) (a : Aim) (p : NewPlace) (xs : List SavedTile) : Launch :=
  let grown := l.gw * l.gh < p.wd * p.ht
  let full := a.gait = 0
  let back : Option (Nat × Bool) :=
    if a.bySeq || grown then none
    else match l.grow with
      | some g => some g
      | none => some (l.gait, false)
  { l with
    st := .running, aim := none, gait := a.gait, gx := a.x, gy := a.y, gw := p.wd, gh := p.ht, route := p.route, x0 := if full then a.x else l.x0,
    y0 := if full then a.y else l.y0, saved := xs, granted := if grown then s.cyc else l.granted, npre := if grown then l.npre else l.npre + 1,
    grow := back, since := if l.grow.isNone && back.isSome then s.cyc else l.since,
    pc := if a.bySeq then l.pc + 1 else l.pc, waiting := if a.bySeq then false else l.waiting }

/-- Steps 4 to 9 of R417. -/
def finishChange (s : State) (q : Nat) (l : Launch) (a : Aim) : State :=
  let old := heldTiles l
  match readImage s (originTile l) l.asid (l.field 0 56) with
  | (s, .error c) => abandonChange s q l a c
  | (s, .ok bs) =>
    let secs := (sectionsOf bs).getD []
    match placeFor s l secs old a.gait a.x a.y with
    | none => abandonChange s q l a causeCfg
    | some p =>
      let (s, xs) := takeSave s q l
      let s := setLaunch (vacate s q old) q (placedLaunch s l a p xs)
      let s := restoreAll s l.asid a.gait old (penDataOf secs) xs p.hosts
      let s := forgetTables s (old.filter (fun t => !p.hosts.any (·.1 == t)))
      unfreeze (moveOffers s q (a.y * 16 + a.x)) (dedup (old ++ p.hosts.map (·.1)))

/-! REGION_SHRINK. -/

/-- A gait's rectangle at an offset of the rectangle in force (R199, R398). -/
def shrinkFits (l : Launch) (g dx dy : Nat) : Bool :=
  (shapeOf l g).elim false (fun r =>
    decide (dx + r.1 ≤ l.gw) && decide (dy + r.2 ≤ l.gh) && (l.gx + dx) % r.1 == 0 && (l.gy + dy) % r.2 == 0)

/-- R111, R417 step 6: the lofts of the tiles that the launch vacates are evicted. -/
def loftsGone (s : State) (l : Launch) (a : Aim) : Bool :=
  (shapeOf l a.gait).elim true (fun sh => (heldTiles l).all (fun t => (rectTiles a.x a.y sh.1 sh.2).contains t || !loftHeld s t))

/-- REGION_SHRINK (R398, R417): a change onto a gait at an offset of the rectangle in force begins; under way and come to rest, it is
made. A gait that cannot lie there changes nothing. -/
def execRegionShrink (q gt dx dy : Nat) (s : State) : Result :=
  match sget s.sch.launches q with
  | none => .next s
  | some l =>
    match l.st, l.aim with
    | .shrinking, some a =>
      .next (if a.gait = gt && a.x = l.gx + dx && a.y = l.gy + dy && quiesced s q l && saveRoom s l && loftsGone s l a then finishChange s q l a else s)
    | .running, none =>
      if !l.ended && shrinkFits l gt dx dy then
        .next (beginChange s q l .shrinking (some { gait := gt, x := l.gx + dx, y := l.gy + dy, bySeq := false }))
      else .next s
    | _, _ => .next s

/-! FULL_SAVE (R419). -/

/-- The operation waits at a hitch engine. -/
def atEngine (o : Op) : Bool :=
  (o.phase == .active || o.phase == .done) && o.tid == 0 &&
    (match o.kind with
      | .hreq _ _ => true
      | .bar h _ => h
      | .spawn _ h => h
      | _ => false)

/-- Operations at engines stay in the machine, under their launch tile's number above 512. -/
def keepAtEngines (s : State) (xs : List SavedTile) : State :=
  let kept := (xs.map (fun x => (x.ops.filter atEngine).map (fun o => { o with tile := 512 + x.ltile, rank := 0 }))).flatten
  sortOps { s with ops := s.ops ++ kept }

/-- FULL_SAVE (R419): a launch that is being saved and has come to rest is saved whole; its record waits again, with the class of its
record and this cycle's stamp (R398). -/
def execFullSave (s : State) : Result :=
  let q := s.occ.a
  match sget s.sch.launches q with
  | none => .next s
  | some l =>
    if l.st == .saving && quiesced s q l && saveRoom s l && (heldTiles l).all (fun t => !loftHeld s t) then
      let f := s.fresh
      let (s, xs) := takeSave s q l
      let s := keepAtEngines (moveOffers (forgetTables (vacate s q (heldTiles l)) (heldTiles l)) q 512) xs
      let park (x : Nat × Ctx) : Nat × Ctx := if x.2.q == q && x.2.st == .live then (x.1, { x.2 with st := .parked }) else x
      let xs := xs.map (fun x => { x with ops := x.ops.filter (fun o => !atEngine o) })
      .next (setLaunch { s with ctxs := s.ctxs.map park } q
        { l with st := .saved, aim := none, stamp := s.cyc, since := s.cyc, cls := l.cls0, npre := l.npre + 1, saved := xs, savedAt := f })
    else .next s

/-! RESUME (R420). -/

/-- What stands against a resume in the section headers of its save area: one that cannot be read, or a TYPE outside 1 to 14 (R422). -/
def savedFault (s : State) (l : Launch) : Option Nat :=
  (savedHeaders l.savedAt l.saved.length).findSome? (fun a =>
    match homeRead s 0 a 16 with
    | none => some causeMemUe
    | some h => if 1 ≤ h % 256 ∧ h % 256 ≤ 14 then none else some causeCfg)

/-- The reading of those headers corrects their single-bit errors (R88). -/
def readHeaders (s : State) (l : Launch) : State := (savedHeaders l.savedAt l.saved.length).foldl (fun s a => correctAt s a 16) s

/-- A resume that fails (R422): its contexts go, and the launch ends with the cause. -/
def failResume (s : State) (q : Nat) (l : Launch) (cause : Nat) : State :=
  let mine := (s.ctxs.filter (fun x => x.2.q == q)).map (·.1)
  let s := mine.foldl (fun s c => removeRequests (abandonAll s c) (fun r => r.ctx == c)) s
  let s := { s with ctxs := s.ctxs.filter (fun x => x.2.q != q), ops := s.ops.filter (fun o => o.cx.q != q) }
  setLaunch s q { l with st := .running, ended := true, cause := cause, waiting := false, saved := [], runs := 0, ingress := [] }

/-- Operations that waited at engines have their place again. -/
def backFromEngines (s : State) (q : Nat) : State :=
  let back (o : Op) : Op :=
    if o.cx.q == q && decide (512 ≤ o.tile) then
      match placeTile s q (o.tile - 512) with
      | some (t, r) => { o with tile := t, rank := r }
      | none => o
    else o
  { s with ops := s.ops.map back }

/-- RESUME (R420): a saved launch that has its grant again is loaded and restored, and its contexts return to LIVE. -/
def execResume (s : State) : Result :=
  let q := s.occ.a
  match sget s.sch.launches q with
  | none => .next s
  | some l =>
    if l.st == .resuming && (heldTiles l).all (fun t => decide (pendingCount s t < 1024)) then
      let s := readHeaders s l
      match savedFault s l, readImage s (originTile l) l.asid (l.field 0 56) with
      | some c, _ => .next (failResume s q l c)
      | none, (s, .error c) => .next (failResume s q l c)
      | none, (s, .ok bs) =>
        let secs := (sectionsOf bs).getD []
        match placeFor s l secs [] l.gait l.gx l.gy with
        | none => .next (failResume s q l causeCfg)
        | some p =>
          let live := { l with st := .running, route := p.route, granted := s.cyc, commitAt := s.cyc }
          let s := restoreAll (setLaunch s q live) l.asid l.gait [] (penDataOf secs) l.saved p.hosts
          let s := moveOffers (backFromEngines s q) q (originTile l)
          let wake (x : Nat × Ctx) : Nat × Ctx := if x.2.q == q && x.2.st == .parked then (x.1, { x.2 with st := .live }) else x
          let s := { s with ctxs := s.ctxs.map wake }
          .next (unfreeze (sendNotices s q live 2 live.gait) (heldTiles live))
    else .next s

end Sys2Proof.Machine
end

