-- ==== Sys2Proof/Machine/Grant.lean ====
section
/-! DEFINITION. Grants: the order of records, candidates, the pass with its reservation, and pre-emption (R390 to R393, R396, R398). -/

namespace Sys2Proof.Machine

/-! Records (R390, R396). -/

/-- A launch has a record that waits: for its first grant, after a save, or to grow. -/
def recordWaits (l : Launch) : Bool := l.st == .waiting || l.st == .saved || l.st == .running && l.grow.isSome && !l.ended

/-- R390's order. -/
def recordBefore (a b : Nat × Launch) : Bool :=
  decide (a.2.cls < b.2.cls) || a.2.cls == b.2.cls && (decide (a.2.stamp < b.2.stamp) || a.2.stamp == b.2.stamp && decide (a.1 < b.1))

def insertRecord (x : Nat × Launch) : List (Nat × Launch) → List (Nat × Launch)
  | [] => [x]
  | y :: r => if recordBefore x y then x :: y :: r else y :: insertRecord x r

/-- Waiting records in order. -/
def waitingRecords (s : State) : List (Nat × Launch) := (s.sch.launches.filter (fun p => recordWaits p.2)).foldr insertRecord []

/-! Candidates (R197, R391, R392, R396, R398). -/

/-- The tile is present and free in the occupancy map, and its quadrant is not in P2 (R395). -/
def tileFree (s : State) (t : Nat) : Bool := tilePresent s t && (sget s.tab.owner t).isNone && sgetD s.dev.qcur (quadOf t) 0 != 2

/-- The shape that a record asks for. -/
def askedShape (l : Launch) : Nat × Nat :=
  match l.st, l.grow with
  | .running, some g => (shapeOf l g.1).getD (0, 0)
  | _, _ => (l.wd, l.ht)

/-- Tiles that the record holds already: those of a launch that grows. -/
def ownTiles (l : Launch) : List Nat := if l.st == .running then heldTiles l else []

/-- Legal origins, all of whose tiles are present: one with FIXO until the launch is saved, those around the rectangle in force for a
growth. -/
def candidates (s : State) (l : Launch) : List (Nat × Nat) :=
  let sh := askedShape l
  let all := if sh.1 = 0 || sh.2 = 0 then [] else origins sh.1 sh.2
  let fixed := l.st == .waiting && l.field 344 1 == 1
  all.filter (fun o =>
    let ts := rectTiles o.1 o.2 sh.1 sh.2
    (!fixed || o.1 == l.field 345 4 && o.2 == l.field 349 5) && ts.all (tilePresent s) && (ownTiles l).all ts.contains)

/-- The first of the least by a measure. -/
def leastBy (f : Nat × Nat → Nat) : List (Nat × Nat) → Option (Nat × Nat)
  | [] => none
  | x :: r =>
    match leastBy f r with
    | some y => if f y < f x then some y else some x
    | none => some x

/-- R392 step 2: free tiles outside a candidate in the quadrants that it touches. -/
def candidateScore (s : State) (sh o : Nat × Nat) : Nat :=
  let ts := rectTiles o.1 o.2 sh.1 sh.2
  let quads := dedup (ts.map quadOf)
  ((upto 384).filter (fun t => tileFree s t && quads.contains (quadOf t) && !ts.contains t)).length

/-- R391: the lowest free aligned block of contexts above 0x003F. -/
def freePool (s : State) (plog2 : Nat) : Option Nat :=
  let n := 2 ^ plog2
  let taken (lo : Nat) : Bool :=
    s.sch.launches.any (fun p => p.2.st != .waiting && decide (lo < p.2.pool + 2 ^ p.2.plog2) && decide (p.2.pool < lo + n)) ||
      s.ctxs.any (fun x => decide (lo ≤ x.1) && decide (x.1 < lo + n))
  ((upto (2 ^ (16 - plog2))).map (· * n)).find? (fun lo => decide (64 ≤ lo) && !taken lo)

/-- What a record can be granted clear of some tiles: an origin and a pool. -/
def grantable (s : State) (l : Launch) (avoid : List Nat) : Option ((Nat × Nat) × Nat) :=
  let sh := askedShape l
  let own := ownTiles l
  let ok (o : Nat × Nat) : Bool := (rectTiles o.1 o.2 sh.1 sh.2).all (fun t => (tileFree s t || own.contains t) && !avoid.contains t)
  match leastBy (candidateScore s sh) ((candidates s l).filter ok) with
  | none => none
  | some o => if l.st == .waiting then (freePool s l.plog2).map (fun p => (o, p)) else some (o, l.pool)

/-! The grant (R391, R396, R397, R420). -/

/-- Tiles become busy for a launch. Those that were not its own host no table of an earlier one (R51). -/
def ownAll (s : State) (q : Nat) (ts : List Nat) : State :=
  let new := ts.filter (fun t => sget s.tab.owner t != some q)
  { s with
    tab := { s.tab with owner := ts.foldl (fun m t => sset m t q) s.tab.owner, cfgAt := new.foldl sdel s.tab.cfgAt },
    sch := { s.sch with left := new.foldl sdel s.sch.left } }

/-- A record gets a rectangle and a pool. A growth begins its change. -/
def grantRecord (s : State) (q : Nat) (l : Launch) (o : Nat × Nat) (pool : Nat) : State :=
  let sh := askedShape l
  let ts := rectTiles o.1 o.2 sh.1 sh.2
  let s := ownAll s q ts
  match l.st, l.grow with
  | .running, some (g, bySeq) => beginChange s q l .shrinking (some { gait := g, x := o.1, y := o.2, bySeq := bySeq })
  | st, _ =>
    let first := st == .waiting
    let s := { s with tab := { s.tab with ltiles := ts.foldl (fun m t => sset m t [(t / 16 - o.2) * 16 + (t % 16 - o.1)]) s.tab.ltiles } }
    setLaunch s q { l with
      st := if first then .running else .resuming, x0 := o.1, y0 := o.2, gait := 0, gx := o.1, gy := o.2, gw := l.wd, gh := l.ht, route := [],
      pool := pool, first := if first then pool else l.first, granted := s.cyc, tgrant := if first then s.cyc else l.tgrant, commitAt := s.cyc, grow := none }

/-! The pass (R393). -/

/-- Grants of the head while it can be granted; then the state and the head that stays. -/
def grantHeads : Nat → State → State × Option (Nat × Launch)
  | 0, s => (s, none)
  | f + 1, s =>
    match waitingRecords s with
    | [] => (s, none)
    | (q, l) :: _ =>
      match grantable s l [] with
      | some (o, p) => grantHeads f (grantRecord s q l o p)
      | none => (s, some (q, l))

/-- R393 step 2: the candidate that needs the fewest busy tiles freed; a quadrant in P2 reports its tiles as busy (R395). -/
def reservation (s : State) (l : Launch) : List Nat :=
  let sh := askedShape l
  let own := ownTiles l
  let busy (o : Nat × Nat) : Nat := ((rectTiles o.1 o.2 sh.1 sh.2).filter (fun t => !tileFree s t && !own.contains t)).length
  ((leastBy busy (candidates s l)).map (fun o => rectTiles o.1 o.2 sh.1 sh.2)).getD []

/-- Later records in order, clear of the reservation. -/
def grantLater (head : Nat) (res : List Nat) (s : State) : State :=
  ((waitingRecords s).filter (·.1 != head)).foldl (fun s x =>
    match grantable s x.2 res with
    | some (o, p) => grantRecord s x.1 x.2 o p
    | none => s) s

/-! Pre-emption (R398). -/

/-- The launch holds a tile of the reservation: one of its rectangle in force, or one that a change is to give it. A tile that it has vacated and
that waits to be freed is given up already. -/
def holdsTile (l : Launch) (res : List Nat) : Bool := res.any (fun t => (heldTiles l ++ aimedTiles l).contains t)

/-- A launch that may be a victim for a head of a class. -/
def victimFor (s : State) (c : Nat) (l : Launch) (res : List Nat) : Bool :=
  l.st == .running && !l.ended && decide (c < l.cls) && holdsTile l res && (l.field 360 1 == 1 || l.field 361 1 == 1) &&
    decide (l.granted + 2 ^ 20 ≤ s.cyc)

/-- The highest-numbered class, then the most recent grant, then the higher queue index. -/
def victimAfter (a b : Nat × Launch) : Bool :=
  decide (b.2.cls < a.2.cls) || a.2.cls == b.2.cls && (decide (b.2.granted < a.2.granted) || a.2.granted == b.2.granted && decide (b.1 < a.1))

/-- A victim is being pre-empted for the reservation. -/
def victimUnderWay (s : State) (res : List Nat) : Bool :=
  s.sch.launches.any (fun p => (p.2.st == .shrinking || p.2.st == .saving) && holdsTile p.2 res)

def victimOf (s : State) (c : Nat) (res : List Nat) : Option (Nat × Launch) :=
  if victimUnderWay s res then none
  else (s.sch.launches.filter (fun p => victimFor s c p.2 res)).foldl (fun acc x => match acc with
    | some b => if victimAfter x b then some x else acc
    | none => some x) none

/-- The largest gait that can lie inside the rectangle in force, clear of the reservation, at its lowest offset; ties to the lower gait. -/
def shrinkFor (l : Launch) (res : List Nat) : Option Aim :=
  let spots (g : Nat × Nat × Nat) : List (Nat × Nat) :=
    (origins g.2.1 g.2.2).filter (fun o =>
      decide (l.gx ≤ o.1) && decide (l.gy ≤ o.2) && shrinkFits l g.1 (o.1 - l.gx) (o.2 - l.gy) &&
        (rectTiles o.1 o.2 g.2.1 g.2.2).all (fun t => !res.contains t))
  let better (a b : Nat × Nat × Nat) : Bool :=
    decide (b.2.1 * b.2.2 < a.2.1 * a.2.2) || a.2.1 * a.2.2 == b.2.1 * b.2.2 && decide (a.1 < b.1)
  let best := (l.shapes.filter (fun g => !(spots g).isEmpty)).foldl (fun acc g => match acc with
    | some b => if better g b then some g else acc
    | none => some g) (none : Option (Nat × Nat × Nat))
  best.bind (fun g => (spots g).head?.map (fun o => { gait := g.1, x := o.1, y := o.2, bySeq := false }))

/-- A launch is asked to leave some tiles: it shrinks, or is saved whole. -/
def preempt (s : State) (q : Nat) (l : Launch) (res : List Nat) : State :=
  match (if l.field 360 1 = 1 then shrinkFor l res else none) with
  | some a => beginChange s q l .shrinking (some a)
  | none => if l.field 361 1 = 1 then beginChange s q l .saving none else s

/-- ALLOCATION_PASS (R393, R398): grants, the head's reservation, later grants, and a pre-emption for the reservation. Nothing is
granted before start-up is done, or in P3 (R449, R452). -/
def execAllocationPass (s : State) : Result :=
  if !s.dev.up || s.dev.p3 then .next s
  else
    match grantHeads (s.sch.launches.length + 1) s with
    | (s, none) => .next { s with sch := { s.sch with reserve := [] } }
    | (s, some (q, l)) =>
      let res := reservation s l
      let s := grantLater q res { s with sch := { s.sch with reserve := res } }
      match victimOf s l.cls res with
      | some v => .next (preempt s v.1 v.2 res)
      | none => .next s

end Sys2Proof.Machine
end

