-- ==== Sys2Proof/Machine/Host.lean ====
section
/-! DEFINITION. The host port: remote memory access, messages, CTRL operations, attestation and debug unlock (R437 to R446, R455 to R458).
An event of this file carries what the host sent. -/

namespace Sys2Proof.Machine

/-! Queue pairs (R437, R442). -/

/-- The port serves the host: start-up is done and the package is not in P3. -/
def portUp (s : State) : Bool := s.dev.up && !s.dev.p3

/-- A QP that is set up, on a port that is up, and not in the error state. -/
def qpOf (s : State) (qp : Nat) : Option Qp := (sget s.host.qps qp).filter (fun p => !p.err && !s.dev.portsDown.contains p.port)

/-- A LAUNCH of the QP awaits its queue entry, or a token of the QP its destination (R389, R444). -/
def qpBusy (s : State) (qp : Nat) : Bool := s.sch.intake.any (fun m => msgQp m.2 == qp) || s.host.tokens.any (·.1 == qp)

/-- A message of the QP waits, and holds those behind it (R442). -/
def qpHeld (s : State) (qp : Nat) : Bool := qpBusy s qp || s.host.waits.any (·.1 == qp)

/-- A message waits behind those of its QP that wait already; its turns come with 1 in the occasion. -/
def holdMessage (s : State) (qp : Nat) (i : Instr) : State := { s with host := { s.host with waits := s.host.waits ++ [(qp, i)] } }

/-- The occasion is a waiting message's. -/
def heldTurn (s : State) (qp : Nat) (i : Instr) : Bool := s.occ.c == 1 && s.host.waits.contains (qp, i)

/-- A waiting message is taken. -/
def releaseMessage (s : State) (qp : Nat) (i : Instr) : State := { s with host := { s.host with waits := s.host.waits.erase (qp, i) } }

/-- CONNECTION_MANAGER (R437, R446): firmware sets a QP up on a port, USER with an ASID or ADMIN; a QP in force keeps its port. -/
def execConnectionManager (qp : Nat) (user : Option Nat) (port : Nat) (s : State) : Result :=
  if portUp s && decide (qp < 1024) && qp != 1 && user.all (fun a => decide (a < 2 ^ 16)) && decide (port < 9) && !s.dev.portsDown.contains port &&
      (qpOf s qp).all (fun p => p.port == port) then
    .next { s with host := { s.host with qps := sset s.host.qps qp { port := port, admin := user.isNone, asid := user.getD 0, err := false } } }
  else .next s

/-! STT messages (R439, R442). -/

/-- The header of a SEND of `sent` bytes (R439). -/
def sttHeader (hd : BitVec 192) (sent : Nat) : Stt :=
  let f (lo w : Nat) : Nat := bits hd.toNat lo w
  { typ := f 0 8, ver := f 8 8, len := f 16 16, htag := f 32 16, zero := f 48 16 + 2 ^ 16 * f 160 32, hca := f 64 64, hrkey := f 128 32,
    sent := sent }

/-- The header is one of its TYPE: VER 0x01, no reserved bit set, and LEN the rest of the SEND. -/
def sttGood (h : Stt) (typ : Nat) : Bool := h.typ == typ && h.ver == 1 && h.zero == 0 && h.len + 24 == h.sent

/-- A SEND that the port accepts (R437): 24 to 65,536 bytes. -/
def sendFits (sent : Nat) : Bool := decide (24 ≤ sent) && decide (sent ≤ 65536)

/-- A request that the port does not accept is answered with a NAK of invalid request (R437). -/
def nakInvalid (s : State) (qp : Nat) : State := { s with host := { s.host with replies := s.host.replies ++ [.nak qp true] } }

/-- What a message does once it is taken: a discarded one is answered with CFG (R439). The Bool says that it must wait. -/
def takeMessage (qp : Nat) (hd : Stt) (typ : Nat) (f : State → Qp → State × Bool) (s : State) (p : Qp) : State × Bool :=
  if sttGood hd typ then f s p else (answerHost s (qp, hd) 3 causeCfg [], false)

/-- A message of a QP (R442): taken where none of its QP waits, or in its own turn as the first of those that wait; else it waits. R437 names no
answer to a SEND outside its bound: the NAK is the model's choice (log entry 66). -/
def message (i : Instr) (qp : Nat) (hd : Stt) (typ : Nat) (f : State → Qp → State × Bool) (s : State) : Result :=
  match if portUp s then qpOf s qp else none with
  | none => .next s
  | some p =>
    if !sendFits hd.sent then .next (nakInvalid s qp)
    else if heldTurn s qp i then
      if qpBusy s qp || s.host.waits.find? (·.1 == qp) != some (qp, i) then .next s
      else
        match takeMessage qp hd typ f s p with
        | (t, true) => .next t
        | (t, false) => .next (releaseMessage t qp i)
    else if qpHeld s qp then .next (holdMessage s qp i)
    else
      match takeMessage qp hd typ f s p with
      | (t, true) => .next (holdMessage t qp i)
      | (t, false) => .next t

/-! RDMA (R438, R451). -/

def noRegion : Region := { v := false, asid := 0, va := 0, len := 0, rd := false, wr := false, gen := 0 }

def regionAt (s : State) (n : Nat) : Region := sgetD s.host.mrt n noRegion

/-- The region that a request may use. -/
def requestRegion (s : State) (p : Qp) (rkey va len : Nat) (wr : Bool) : Option Region :=
  let r := regionAt s (rkey % 4096)
  if r.v && bits rkey 12 12 == 0 && rkey / 2 ^ 24 == r.gen && (p.admin || r.asid == p.asid) && decide (r.va ≤ va) && decide (va + len ≤ r.va + r.len) &&
      (if wr then r.wr else r.rd) then some r else none

/-- A request fails: NAK of remote access error, and the QP enters the error state. -/
def refuseAccess (s : State) (qp : Nat) : State :=
  { s with host := { s.host with
      replies := s.host.replies ++ [.nak qp false], qps := smod s.host.qps qp (fun p => { p with err := true }) } }

/-- The recovery window's first byte: the DRAM row of the lowest-numbered quadrant that is present with a stack. -/
def recoveryBase (s : State) : Option Nat := ((upto 4).find? (fun q => s.dev.quads.contains q && !(stacksOf s q).isEmpty)).map (fun q => q * (3 * stackBytes))

/-- The translations of an access that is then refused: what their walks have read and set stays (R23, R88). -/
def walkParts (tile asid : Nat) (w : Want) : List Lane → State → State
  | [], s => s
  | x :: r, s =>
    match xlateNow s tile asid x.va.toNat w with
    | (s, .error _) => s
    | (s, .ok _) => walkParts tile asid w r s

def walkVa (s : State) (tile asid va n : Nat) (w : Want) : State :=
  if n = 0 || (vaCheck (va : Int) n 1).isSome then s else walkParts tile asid w (pageParts (mkLane 0 (va : Int) n 0 0)) s

/-- RDMA_WRITE (R438, R451): performed at home, whole, or answered with a NAK. -/
def execRdmaWrite (qp rkey va : Nat) (data : List (BitVec 8)) (s : State) : Result :=
  match qpOf s qp with
  | none => .next s
  | some p =>
    match requestRegion s p rkey va data.length true with
    | none => .next (refuseAccess s qp)
    | some r =>
      if s.host.recovery then
        match recoveryBase s with
        | some a => .next (homeWriteBytes s 0 (a + va) data)
        | none => .next (refuseAccess s qp)
      else if !portUp s then .next s
      else
        match writeVa s 0 r.asid va data (r.asid != 0) with
        | (s', none) => .next s'
        | (_, some _) => .next (refuseAccess (walkVa s 0 r.asid va data.length { imageWant (r.asid != 0) false with wr := true }) qp)

/-- RDMA_READ (R438): home values, or a NAK. -/
def execRdmaRead (qp rkey va len : Nat) (s : State) : Result :=
  match qpOf s qp with
  | none => .next s
  | some p =>
    match requestRegion s p rkey va len false with
    | none => .next (refuseAccess s qp)
    | some r =>
      if !portUp s then .next s
      else
        match readVa s 0 r.asid va len (imageWant (r.asid != 0) false) with
        | (s', .ok bs) => .next { s' with host := { s'.host with replies := s'.host.replies ++ [.readData qp bs] } }
        | (s', .error _) => .next (refuseAccess s' qp)

/-- RDMA_INVALID_REQUEST (R437). -/
def execRdmaInvalidRequest (qp : Nat) (s : State) : Result :=
  match qpOf s qp with
  | some _ => .next (nakInvalid s qp)
  | none => .next s

/-! LAUNCH, TOKENS and discarded messages (R439, R443, R444). -/

/-- STT_DISCARD (R439): a SEND whose header has none of the four TYPEs or another fault. -/
def execSttDiscard (qp : Nat) (hd : BitVec 192) (sent : Nat) (s : State) : Result :=
  let h := sttHeader hd sent
  message (.sttDiscard qp hd sent) qp h (if decide (1 ≤ h.typ) && decide (h.typ ≤ 4) then h.typ else 1) (fun s _ => (s, false)) s

/-- STT_LAUNCH (R441, R443): the message waits for launch intake. -/
def execSttLaunch (qp : Nat) (hd : BitVec 192) (sent : Nat) (rva : Nat) (s : State) : Result :=
  message (.sttLaunch qp hd sent rva) qp (sttHeader hd sent) 1 (fun s _ =>
    if 2 ^ 56 ≤ rva then (answerHost s (qp, sttHeader hd sent) 3 causeCfg [], false)
    else ({ s with nextId := s.nextId + 1, sch := { s.sch with intake := s.sch.intake ++ [(s.nextId, .launch qp (sttHeader hd sent) rva)] } }, false)) s

/-- A token's header (R181) as the host writes it, of which CTX, ITER, MASK and lanes are taken (R444), and CAN, so that a message can make a
cancel token (R184). -/
def hostTokens (slot : Nat) : Nat → List Word → Option (List Token)
  | 0, _ => some []
  | n + 1, lo :: hi :: mask :: rest =>
    let w := bits lo.toNat 17 5 + 1
    if rest.length < w then none
    else
      let vs : Lanes := mkLanes (fun k => if k < w && bit mask.toNat k then rest[k]? else none)
      (hostTokens slot n (rest.drop w)).map (fun l => 
        { hdr := { plainHeader (hi.toNat / 2 ^ 16) (hi.toNat % 2 ^ 16) w slot with can := bit lo.toNat 10 }, lanes := if bit lo.toNat 10 then noLanes else vs } :: l)
  | _ + 1, _ => none

/-- The launch, its edge's destination and the tokens of a TOKENS message; none where it is refused. -/
def readTokens (s : State) (p : Qp) (ws : List Word) : Option (Launch × Dest × List Token) :=
  let w0 := (ws.getD 0 0).toNat
  let nt := (ws.getD 1 0).toNat
  let q := w0 % 2 ^ 12
  match sget s.sch.launches q with
  | none => none
  | some l =>
    match l.edges[bits w0 12 6]?, hostTokens (edgeDest (l.edges.getD (bits w0 12 6) 0)).slot nt (ws.drop 2) with
    | some e, some ts =>
      let liveHere (t : Token) : Bool := (ctxOf s t.hdr.ctx).elim false (fun x => x.q == q && x.st == .live)
      if 2 ≤ ws.length && bits w0 18 14 == 0 && decide (1 ≤ nt) && decide (nt ≤ 1024) && l.placed && l.st != .ending && (p.admin || l.asid == p.asid) &&
          edgeIn e && ts.all (fun t => liveHere t && decide (t.hdr.wm1 + 1 ≤ l.field 354 6)) then some (l, edgeDest e, ts) else none
    | _, _ => none

/-- STT_TOKENS (R441, R444): the tokens that LEN covers are offered in order at the launch's origin; TOKDONE follows the last one accepted. -/
def execSttTokens (qp : Nat) (hd : BitVec 192) (sent : Nat) (words : List Word) (s : State) : Result :=
  message (.sttTokens qp hd sent words) qp (sttHeader hd sent) 2 (fun s p =>
    match readTokens s p (words.take (bits hd.toNat 16 16 / 4)) with
    | none => (answerHost s (qp, sttHeader hd sent) 5 0xFFF [], false)
    | some (l, d, ts) =>
      let first := s.nextId
      let s := ts.foldl (fun s t => addOut s (originTile l) 14 t [d]) s
      ({ s with host := { s.host with tokens := s.host.tokens ++ [(qp, sttHeader hd sent, first, ts.length)] } }, false)) s

/-! CTRL (R441). -/

/-- A CTRL operation that never waits: its status, 0x09 where only an ADMIN QP may ask for it. -/
def ctrl (i : Instr) (qp : Nat) (hd : Stt) (f : State → State × Nat) (s : State) : Result :=
  message i qp hd 3 (fun s p =>
    if p.admin then (answerHost (f s).1 (qp, hd) 4 (f s).2 [], false) else (answerHost s (qp, hd) 4 causePriv [], false)) s

/-- MRREG (R438, R441). -/
def execMrreg (qp : Nat) (hd : BitVec 192) (sent : Nat) (index asid va len : Nat) (r w : Bool) (s : State) : Result :=
  ctrl (.mrreg qp hd sent index asid va len r w) qp (sttHeader hd sent) (fun s =>
    if index < 4096 && decide (asid < 2 ^ 16) && decide (4096 ≤ len) && decide (len ≤ 2 ^ 48) && decide (va + len ≤ 2 ^ 56) then
      let e : Region := { v := true, asid := asid, va := va, len := len, rd := r, wr := w, gen := ((regionAt s index).gen + 1) % 256 }
      ({ s with host := { s.host with mrt := sset s.host.mrt index e } }, 0)
    else (s, causeBadSource)) s

/-- MRDEREG (R441): requests are performed whole, so none is in progress. -/
def execMrdereg (qp : Nat) (hd : BitVec 192) (sent : Nat) (index : Nat) (s : State) : Result :=
  ctrl (.mrdereg qp hd sent index) qp (sttHeader hd sent) (fun s =>
    if index < 4096 then ({ s with host := { s.host with mrt := smod s.host.mrt index (fun r => { r with v := false }) } }, 0)
    else (s, causeBadSource)) s

/-- The change that PREEMPT makes of a launch, where it may be a victim (R398): its class does not matter (R441), but it holds a tile of the reservation,
for which no other victim is being pre-empted; a shrink stays clear of the reservation. -/
def preemptAim (s : State) (q : Nat) (save : Bool) : Option (Launch × LaunchState × Option Aim) :=
  match sget s.sch.launches q with
  | none => none
  | some l =>
    let res := s.sch.reserve
    let free := l.st == .running && !l.ended && holdsTile l res && !victimUnderWay s res && decide (l.granted + 2 ^ 20 ≤ s.cyc)
    if save then (if free && l.field 361 1 == 1 then some (l, .saving, none) else none)
    else
      (if free && l.field 360 1 == 1 then shrinkFor l res else none).map (fun a => (l, .shrinking, some a))

/-- CTRL_PREEMPT (R398, R441); it waits while the notices find no room (R405). -/
def execCtrlPreempt (qp : Nat) (hd : BitVec 192) (sent : Nat) (q : Nat) (save : Bool) (s : State) : Result :=
  message (.ctrlPreempt qp hd sent q save) qp (sttHeader hd sent) 3 (fun s p =>
    let h := (qp, sttHeader hd sent)
    if !p.admin then (answerHost s h 4 causePriv [], false)
    else
      match preemptAim s q save with
      | none => (answerHost s h 4 causeBadSource [], false)
      | some (l, st, a) => if noticeRoom s q l then (answerHost (beginChange s q l st a) h 4 0 [], false) else (s, true)) s

/-- Quadrants in P2 that hold tiles of a context's launch. -/
def sleepingQuads (s : State) (q : Nat) : List Nat :=
  (dedup ((launchTiles s q).map (fun t => quadOf t.2.1))).filter (fun k => sgetD s.dev.qcur k 0 == 2)

/-- R458: the status of a HALT for an ASID on a QP, before P2 is looked at. -/
def haltStatus (s : State) (p : Qp) (asid : Nat) : Nat :=
  if s.dev.level = 0 then 1
  else if s.dev.level = 1 then (if !p.admin && p.asid == asid then 0 else 5)
  else if p.admin || p.asid == asid then 0 else 5

/-- An accepted HALT (R425, R457). -/
def acceptHalt (s : State) (asid ctx : Nat) : State :=
  haltContext { s with dev := { s.dev with hen := true, dasid := BitVec.ofNat 16 asid } } ctx none

/-- A HALT that is taken, in the order of R458's table: level OFF; P2, whose quadrants DEV at FULL wakes; the class and the ASID; another ASID under
debug; a bad operand. It waits while a list of faults is full (R405). -/
def haltMessage (qp : Nat) (hd : Stt) (asid ctx : Nat) (s : State) (p : Qp) : State × Bool :=
  let h := (qp, hd)
  let quads := (ctxOf s ctx).elim [] (fun x => sleepingQuads s x.q)
  let st := haltStatus s p asid
  if s.dev.level = 0 then (answerHost s h 4 1 [], false)
  else if !quads.isEmpty && !(s.dev.life == 1 && s.dev.level == 2) then (answerHost s h 4 3 [], false)
  else
    let s := quads.foldl wakeQuad s
    if st ≠ 0 then (answerHost s h 4 st [], false)
    else if s.dev.hen && s.dev.dasid.toNat != asid then (answerHost s h 4 6 [], false)
    else if (ctxOf s ctx).all (fun x => x.asid != asid) then (answerHost s h 4 causeBadSource [], false)
    else if haltRoom s ctx then (answerHost (acceptHalt s asid ctx) h 4 0 [], false)
    else (s, true)

/-- CTRL_HALT (R425, R441, R457, R458); in P3 the always-on controller refuses it. -/
def execCtrlHalt (qp : Nat) (hd : BitVec 192) (sent : Nat) (asid ctx : Nat) (s : State) : Result :=
  if s.dev.p3 then .next (answerHost s (qp, sttHeader hd sent) 4 4 []) else message (.ctrlHalt qp hd sent asid ctx) qp (sttHeader hd sent) 3 (haltMessage qp (sttHeader hd sent) asid ctx) s

/-- Supervisor tokens of words, 32 to a token. -/
def fwdTokens (slot : Nat) : Nat → List Word → List Token
  | 0, _ => []
  | f + 1, ws => if ws.isEmpty then [] else { hdr := plainHeader (supervisorTag 0) 0 32 slot, lanes := lanesOf (ws.take 32) } :: fwdTokens slot f (ws.drop 32)

/-- CTRL_FWD (R441, R453): the words reach the groom core of tile 0, in the inbox slot of its SVEC, once the slot has room; Q0 in P2 is woken
first. Where Q0 is fused off no one receives them, and they are answered BAD_SOURCE (the model's choice, log entry 27). -/
def execCtrlFwd (qp : Nat) (hd : BitVec 192) (sent : Nat) (words : List Word) (s : State) : Result :=
  message (.ctrlFwd qp hd sent words) qp (sttHeader hd sent) 3 (fun s p =>
    let h := (qp, sttHeader hd sent)
    let v := (tileReg s 0 7).toNat
    let slot := v % 512
    let ts := fwdTokens slot 3 words
    if !p.admin then (answerHost s h 4 causePriv [], false)
    else if words.isEmpty || 64 < words.length || !tilePresent s 0 then (answerHost s h 4 causeBadSource [], false)
    else
      let s := wakeQuad s 0
      if bit v 31 && decide ((inboxOf s 0 slot).length + ts.length ≤ 4) then
        let s := { s with frm := { s.frm with inbox := sset s.frm.inbox slot (inboxOf s 0 slot ++ ts) } }
        (answerHost (wakeGroom s 0) h 4 0 [], false)
      else (s, true)) s

/-! Attestation (R455) and debug unlock (R457, R458). -/

/-- A response (R440, R455): what it says, its first words, and the rest, whose coding is free. -/
def attestWith (s : State) (qp : Nat) (hd : Stt) (content : Attested) (first : List Word) : State :=
  let n := Config.responseLen s.fresh % 4096
  let words := first ++ (upto (4 * n - first.length)).map (Config.responseWord s.fresh)
  let s := s.tick
  if hd.hrkey = 0 then s
  else { s with host := { s.host with replies := s.host.replies ++ [.attest qp hd.htag hd.hca hd.hrkey n content words] } }

/-- An SPDM request: what it does to the security processor, and what its response says. -/
def spdm (i : Instr) (qp : Nat) (hd : Stt) (content : State → Attested) (f : State → State) (s : State) : Result :=
  message i qp hd 4 (fun s _ => (attestWith (f s) qp hd (content s) [], false)) s

def noContent (_ : State) : Attested := .other

def execGetVersion (qp : Nat) (hd : BitVec 192) (sent : Nat) (s : State) : Result := spdm (.getVersion qp hd sent) qp (sttHeader hd sent) noContent id s
def execGetCapabilities (qp : Nat) (hd : BitVec 192) (sent : Nat) (s : State) : Result := spdm (.getCapabilities qp hd sent) qp (sttHeader hd sent) noContent id s
def execNegotiateAlgorithms (qp : Nat) (hd : BitVec 192) (sent : Nat) (s : State) : Result := spdm (.negotiateAlgorithms qp hd sent) qp (sttHeader hd sent) noContent id s
def execGetDigests (qp : Nat) (hd : BitVec 192) (sent : Nat) (s : State) : Result := spdm (.getDigests qp hd sent) qp (sttHeader hd sent) noContent id s
def execGetCertificate (qp : Nat) (hd : BitVec 192) (sent : Nat) (s : State) : Result := spdm (.getCertificate qp hd sent) qp (sttHeader hd sent) noContent id s
def execChallenge (qp : Nat) (hd : BitVec 192) (sent : Nat) (s : State) : Result := spdm (.challenge qp hd sent) qp (sttHeader hd sent) noContent id s

/-- The measurement blocks that the state holds (R455): BOOTREC, LIFE, LEVEL and whether a zeroisation has been since start. -/
def measured (s : State) : Attested := .measurements s.dev.bootrec s.dev.life s.dev.level s.dev.zeroised

/-- GET_MEASUREMENTS (R455). -/
def execGetMeasurements (qp : Nat) (hd : BitVec 192) (sent : Nat) (s : State) : Result := spdm (.getMeasurements qp hd sent) qp (sttHeader hd sent) measured id s

/-- KEY_EXCHANGE (R455, R456): a session opens. -/
def execKeyExchange (qp : Nat) (hd : BitVec 192) (sent : Nat) (s : State) : Result :=
  spdm (.keyExchange qp hd sent) qp (sttHeader hd sent) noContent (fun s => { s with dev := { s.dev with session := true } }) s

/-- Other keys for domains (R456). -/
def loadKeys (s : State) (ds : List Nat) : State :=
  { s with mem := { s.mem with keyGen := ds.foldl (fun m d => sset m d (sgetD m d 0 + 1)) s.mem.keyGen } }

/-- FINISH (R455, R456): the exchange is complete, and the keys that its session brings are loaded; without a session none is. Of which domains
they are is free. -/
def execFinish (qp : Nat) (hd : BitVec 192) (sent : Nat) (s : State) : Result :=
  spdm (.finish qp hd sent) qp (sttHeader hd sent) noContent
    (fun s => if s.dev.session then loadKeys s ((upto 256).filter (Config.sessionDomain s.fresh)) else s) s

/-- Any other request (R455): an ERROR of UnsupportedRequest. -/
def execSpdmUnsupportedRequest (qp : Nat) (hd : BitVec 192) (sent : Nat) (s : State) : Result :=
  spdm (.spdmUnsupportedRequest qp hd sent) qp (sttHeader hd sent) (fun _ => .unsupported) id s

/-- Fresh random keys for domains (R456). -/
def zeroise (s : State) (ds : List Nat) : State :=
  let s := loadKeys s ds
  { s with dev := { s.dev with zeroised := true } }

/-- The level that an unlock asks for is one that the lifecycle allows. -/
def unlockAllowed (level : Nat) : Bool := level == 1 || level == 2

/-- The security processor raises LEVEL; in PROD and RMA, FULL replaces keys first. -/
def raiseLevel (s : State) (level : Nat) : State :=
  if level ≤ s.dev.level.toNat then s
  else
    let s := if level = 2 && s.dev.life == 2 then zeroise s (upto 256)
      else if level = 2 && s.dev.life == 3 then zeroise s ((upto 255).map (· + 1)) else s
    { s with dev := { s.dev with level := BitVec.ofNat 2 level } }

/-- DEBUG_UNLOCK (R457, R458): the response's first word is the status; a request that is not authentic has status 2. -/
def execDebugUnlock (qp : Nat) (hd : BitVec 192) (sent : Nat) (level : Nat) (s : State) : Result :=
  if s.dev.p3 then .next (attestWith s qp (sttHeader hd sent) .other [4])
  else
    message (.debugUnlock qp hd sent level) qp (sttHeader hd sent) 4 (fun s _ =>
      if unlockAllowed level && Config.signatureGood s.fresh then (attestWith (raiseLevel s.tick level) qp (sttHeader hd sent) .other [0], false)
      else (attestWith s.tick qp (sttHeader hd sent) .other [2], false)) s

end Sys2Proof.Machine
end

