-- ==== Sys2Proof/Machine/Power.lean ====
section
/-! DEFINITION. Start-up and recovery, package power, the governor, MRL links and the management port (R447 to R454, R459). -/

namespace Sys2Proof.Machine

/-! Start-up (R449, R450). -/

/-- A package whose tiles and base die have lost their state; always-on storage, flash, DRAM and the physical part stay. CYC is 0 at reset (R264);
that leaving P3, a recovery restart and power loss do not make it 0 is the model's choice (log entry 36). -/
def coldState (s : State) : State :=
  let d := Dev.reset
  { State.reset with
    cyc := s.cyc, agenda := [], fresh := s.fresh, nextId := s.nextId,
    mem := { Mem.empty with dram := s.mem.dram, encTag := s.mem.encTag, keyGen := s.mem.keyGen, badWords := s.mem.badWords, latent := s.mem.latent,
                            single := s.mem.single },
    host := { State.reset.host with replies := s.host.replies },
    dev := { d with bootrec := s.dev.bootrec, life := s.dev.life, flash := s.dev.flash, limit := s.dev.limit, keyEpoch := s.dev.keyEpoch, portKeys := s.dev.portKeys },
    health := s.health }

/-- A BOOTREC entry. -/
def bootEntry (hash : BitVec 48) (tries status : Nat) : BitVec 64 := BitVec.ofNat 64 (hash.toNat * 2 ^ 16 + tries % 256 * 2 ^ 8 + status % 16)

/-- The digest of a step's inputs. -/
def inputsOf (s : State) (step : Nat) : BitVec 48 := Config.inputDigest step (ofBytes s.dev.flash)

def setBoot (s : State) (n : Nat) (e : BitVec 64) : State := { s with dev := { s.dev with bootrec := lset s.dev.bootrec n e } }

/-- A step's entry is written. -/
def recordStep (s : State) (step tries status : Nat) : State := setBoot s step (bootEntry (inputsOf s step) tries status)

/-- The step is recorded good with the same inputs. -/
def skippable (s : State) (step : Nat) : Bool :=
  let e := (s.dev.bootrec.getD step 0).toNat
  let st := e % 16
  (st == 1 || st == 3 || st == 4) && e / 2 ^ 16 == (inputsOf s step).toNat

/-- S0, S1 and S2: whether start-up goes on. -/
def stepS0 (s : State) : State × Bool := (recordStep s 0 1 (if s.health.rom then 1 else 2), s.health.rom)

/-- The default LEVEL of a lifecycle (R457). -/
def defaultLevel (life : BitVec 2) : BitVec 2 := if life.toNat < 2 then 2 else 0

def stepS1 (s : State) : State × Bool :=
  (recordStep { s with dev := { s.dev with level := defaultLevel s.dev.life } } 1 1 (if s.health.fuses then 1 else 2), s.health.fuses)

def stepS2 (s : State) : State × Bool :=
  let ok := decide (s.health.clocks < 2)
  (recordStep s 2 (min 2 (s.health.clocks + 1)) (if ok then 1 else 2), ok)

/-- Stacks that train, at the first or the second attempt (R12). -/
def trainedStacks (s : State) : List Nat := (upto 12).filter (fun k => decide (sgetD s.health.stackFails k 0 < 2))

/-- S3: skipped, the stackOk are those of index 10. -/
def stepS3 (s : State) : State :=
  if skippable s 3 then
    let e := (s.dev.bootrec.getD 10 0).toNat
    recordStep { s with dev := { s.dev with stackOk := (upto 12).filter (bit e) } } 3 0 3
  else
    let ks := trainedStacks s
    let tries := if (upto 12).any (fun k => sgetD s.health.stackFails k 0 != 0) then 2 else 1
    recordStep { s with dev := { s.dev with stackOk := ks } } 3 tries (if ks.length = 12 then 1 else 4)

/-- A tile row that failed has the spare. -/
def rowsSpared (s : State) : Bool := (upto 4).any (fun q => sgetD s.health.rowFails q 0 != 0)

def stepS4 (s : State) : State := if skippable s 4 then recordStep s 4 0 3 else recordStep s 4 1 (if rowsSpared s then 4 else 1)

/-- S5: a quadrant with two failed rows is fused off (R3); with all four the package stays in reset. -/
def stepS5 (s : State) : State × Bool :=
  if skippable s 5 then
    let e := (s.dev.bootrec.getD 10 0).toNat
    (recordStep { s with dev := { s.dev with quads := (upto 4).filter (fun q => bit e (12 + q)) } } 5 0 3, true)
  else
    let qs := (upto 4).filter (fun q => decide (sgetD s.health.rowFails q 0 < 2))
    (recordStep { s with dev := { s.dev with quads := qs } } 5 1 (if qs.isEmpty then 2 else if rowsSpared s then 4 else 1), !qs.isEmpty)

/-- Index 10. -/
def recordPresent (s : State) : State :=
  setBoot s 10 (BitVec.ofNat 64 (s.dev.stackOk.foldl (fun n k => n + 2 ^ k) 0 + s.dev.quads.foldl (fun n q => n + 2 ^ (12 + q)) 0))

/-- S6: SMODE becomes 0; rings that fail twice leave it at 1, and SEQ_ORDER is reported (R415), to tile 0 even where
Q0 is fused off (the model's choice, log entry 27). -/
def stepS6 (s : State) : State :=
  let ok (s : State) : State := { s with syn := { s.syn with smode := false } }
  if skippable s 6 then ok (recordStep s 6 0 3)
  else if s.health.rings < 2 then ok (recordStep s 6 (s.health.rings + 1) 1)
  else frameless (recordStep s 6 2 2) 0 causeSeqOrder 0x01 0

/-- A new key for each of the first `n` links or ports. -/
def newKeys (m : Store Nat) (n : Nat) : Store Nat := (upto n).foldl (fun m k => sset m k (sgetD m k 0 + 1)) m

/-- S7 (R7, R446, R447): planes and ports that failed are down; the 36 MRL links and the nine Ethernet ports have new keys; firmware writes PKGID.
That the entry then has status 4 is the model's choice (log entry 55). -/
def stepS7 (s : State) : State :=
  let h := s.health
  recordStep { s with dev := { s.dev with planesDown := h.linksDown, portsDown := h.portsDown, pkgid := Config.firmwarePackage, idv := true,
                                          keyEpoch := newKeys s.dev.keyEpoch 36, portKeys := newKeys s.dev.portKeys 9 } } 7 1
    (if h.linksDown.isEmpty && h.portsDown.isEmpty then 1 else 4)

/-- The supervisor context that firmware makes for a tile (R412). -/
def supervisorCtx : Ctx :=
  { st := .live, q := 4096, asid := 0, w := 32, bases := List.replicate 8 0, seq := 0, seed := 0, parent := none, uvec := 0, fmask := 0,
    rmode := 0, plan := 0, iter0 := 0 }

/-- What firmware sets up on a tile in S8. -/
def setUpTile (s : State) (tile : Nat) : State :=
  let s := setTileReg s tile 7 (BitVec.ofNat 32 (2 ^ 31 + (Config.firmwareSvec tile).toNat))
  { s with ctxs := sset s.ctxs (supervisorTag tile) supervisorCtx }

/-- Recovery (R451): one ADMIN QP, and memory-region entry 0 as the window; not offered where no present quadrant has a
stack. -/
def recover (s : State) : State :=
  let s := recordStep s 8 1 2
  if (recoveryBase s).isNone then s
  else
    { s with host := { s.host with
        recovery := true, qps := [(2, { port := 0, admin := true, asid := 0, err := false })],
        mrt := [(0, { v := true, asid := 0, va := 0, len := 2 ^ 28, rd := false, wr := true, gen := 0 })] } }

/-- S9: the measured boot. Start-up is done, or the package stays in reset. -/
def stepS9 (s : State) : State :=
  let s := recordStep s 9 1 (if s.health.measured then 1 else 2)
  { s with dev := { s.dev with up := s.health.measured } }

/-- S8 and S9. -/
def stepS8 (s : State) : State :=
  if s.health.image then
    let s := recordStep { s with dev := { s.dev with parkb := Config.firmwareParkBase, pv := true } } 8 1 1
    stepS9 ((presentTiles s).foldl setUpTile s)
  else recover s

/-- Steps S2 to S9. -/
def startFromS2 (s : State) : State :=
  match stepS2 s with
  | (s, false) => s
  | (s, true) =>
    match stepS5 (stepS4 (stepS3 s)) with
    | (s, false) => recordPresent s
    | (s, true) => stepS8 (stepS7 (stepS6 (recordPresent s)))

/-- Steps S0 to S9. -/
def startFromS0 (s : State) : State :=
  match stepS0 s with
  | (s, false) => s
  | (s, true) =>
    match stepS1 s with
    | (s, false) => s
    | (s, true) => startFromS2 s

/-- STARTUP (R449): due until start-up is done. -/
def execStartup (s : State) : Result :=
  if s.dev.up || s.dev.p3 || s.host.recovery then .next s else .next (startFromS0 s)

/-! Recovery (R451). -/

/-- RECOVERY_IMAGE (R451): the ROM verifies the image in the window, writes it to flash and restarts from S0, or answers CFG. The bytes of the window
are taken whatever their errors (log entry 54). -/
def execRecoveryImage (qp : Nat) (hd : BitVec 192) (sent len : Nat) (s : State) : Result :=
  match s.host.recovery, qpOf s qp, recoveryBase s with
  | true, some _, some a =>
    if !sendFits sent then .next (nakInvalid s qp)
    else if !sttGood (sttHeader hd sent) 3 then .next (answerHost s (qp, sttHeader hd sent) 3 causeCfg [])
    else if 2 ^ 28 < len then .next (answerHost s (qp, sttHeader hd sent) 4 causeCfg [])
    else
      let s' := (correctAt s a len).tick
      if Config.signatureGood s.fresh then
        let s' := coldState s'
        .next (startFromS0 { s' with dev := { s'.dev with flash := bytesOf len (homeBytes s 0 a len) }, health := { s'.health with image := true } })
      else .next (answerHost s' (qp, sttHeader hd sent) 4 causeCfg [])
  | _, _, _ => .next s

/-! Package power (R450, R452, R459). -/

def manage (s : State) (ws : List Word) : State := { s with host := { s.host with replies := s.host.replies ++ [.management ws] } }

/-- A launch is granted. -/
def launchGranted (s : State) : Bool := s.sch.launches.any (fun p => p.2.st != .waiting && p.2.st != .saved)

/-- SET_POWER_P3 (R452, R457, R459). -/
def execSetPowerP3 (s : State) : Result :=
  if s.dev.p3 then .next (manage s [0])
  else if launchGranted s then .next (manage s [1])
  else
    let c := coldState (manage s [0])
    .next { c with dev := { c.dev with p3 := true, level := defaultLevel c.dev.life } }

/-- SET_POWER_P0 (R452): start-up runs from S2 with the skip rule. -/
def execSetPowerP0 (s : State) : Result :=
  if s.dev.p3 then .next (startFromS2 (manage { s with dev := { s.dev with p3 := false } } [0])) else .next (manage s [0])

/-- POWER_LOSS (R450): all but BOOTREC is lost; flash and the physical part stay. Start-up is due. -/
def execPowerLoss (s : State) : Result :=
  let c := coldState s
  .next { c with
    agenda := [.event .startup ⟨0, 0, 0⟩], mem := Mem.empty, host := State.reset.host,
    dev := { Dev.reset with bootrec := s.dev.bootrec, flash := s.dev.flash, life := s.dev.life } }

/-! The governor (R454). -/

/-- GOVERNOR_MEASURE (R454): every 1,650 fabric cycles, CLKF or, at CLKF = 1, the rate of Dray and DRAM requests moves one step. -/
def execGovernorMeasure (watts : Nat) (s : State) : Result :=
  let d := s.dev
  if s.cyc % 1650 ≠ 0 ∨ d.p3 then .next s
  else if d.limit < watts then
    .next { s with dev := if 1 < d.clkf then { d with clkf := d.clkf - 1 } else { d with admitCap := max 1 (d.admitCap - 1) } }
  else if watts + 50 ≤ d.limit then
    .next { s with dev := if d.admitCap < 32 then { d with admitCap := d.admitCap + 1 } else { d with clkf := min 32 (d.clkf + 1) } }
  else .next s

/-- SET_PLIMIT (R436, R454, R459): a limit in 25 W steps within the part's range; another one changes nothing and has status 1. -/
def execSetPlimit (watts : Nat) (s : State) : Result :=
  let inRange := decide (watts ≤ 3000) && (decide (1500 ≤ watts) || decide (1000 ≤ watts) && !Config.modulePart)
  if watts % 25 == 0 && inRange then .next (manage { s with dev := { s.dev with limit := watts } } [0]) else .next (manage s [1])

/-- GET_TELEMETRY (R459): CLKF, the soft-error counters and the links that are down; power and temperatures are free. -/
def execGetTelemetry (s : State) : Result :=
  let words := (upto (Config.responseLen s.fresh % 4096)).map (Config.responseWord s.fresh)
  .next { s.tick with host := { s.host with
    replies := s.host.replies ++ [.telemetry s.dev.clkf s.tele s.dev.planesDown s.dev.portsDown words] } }

/-- GET_BOOTREC (R450, R459): the eleven entries, low word first. -/
def execGetBootrec (s : State) : Result :=
  .next (manage s ((s.dev.bootrec.map (fun e => [e.setWidth 32, BitVec.ofNat 32 (e.toNat / 2 ^ 32)])).flatten))

/-! MRL (R447). -/

/-- MRL_PLANE_DOWN: traffic moves to the other planes. -/
def execMrlPlaneDown (plane : Nat) (s : State) : Result :=
  .next { s with dev := { s.dev with planesDown := if s.dev.planesDown.contains plane then s.dev.planesDown else s.dev.planesDown ++ [plane] } }

/-- MRL_PLANE_UP. -/
def execMrlPlaneUp (plane : Nat) (s : State) : Result :=
  .next { s with dev := { s.dev with planesDown := s.dev.planesDown.filter (· != plane) } }

/-- MRL_KEY_CHANGE: the link's key pair is a new one. -/
def execMrlKeyChange (link : Nat) (s : State) : Result :=
  .next { s with dev := { s.dev with keyEpoch := sset s.dev.keyEpoch link (sgetD s.dev.keyEpoch link 0 + 1) } }

end Sys2Proof.Machine
end

