-- ==== Sys2Proof/Machine/Fetch.lean ====
section
/-! DEFINITION. What a turn performs: the word that an element issues, the word of a sequencing program, and the placing of a
word where the next step fetches (R174, R207 to R212, R384). -/

namespace Sys2Proof.Machine

/-- The instruction at the running task's position; `none` where no word decodes (R212). -/
def issueInstr (s : State) (τ : Task) : Option Instr :=
  let w := blockWord s τ s.occ.a s.occ.b τ.pos
  let lit := blockWord s τ s.occ.a s.occ.b (τ.pos + 1)
  match decodeBlock w.toNat lit.toNat with
  | .ok i => some i
  | .error _ => none

/-- The task has a word left to issue and has not run its last single step (R174, R429). -/
def mayIssue (τ : Task) : Bool := decide (τ.pos ≤ τ.len) && τ.step != 1

/-- The sequencer word at a program's position, with the words after it; `none` where it is reserved (R222, R384). -/
def seqInstr (l : Launch) : Option Instr :=
  match decodeSeq ((l.prog.drop l.pc).map (·.toNat)) with
  | .ok (i, _) => some i
  | .error _ => none

/-- A supervisor context (ASID 0) of width 8. -/
def probeCtx : Ctx :=
  { st := .live, q := 4096, asid := 0, w := 8, bases := List.replicate 8 0, seq := 0, seed := 0, parent := none, uvec := 0,
    fmask := 0, rmode := 0, plan := 0, iter0 := 0 }

/-- A task at position 0 of a block of 64 words, with one entry of eight valid zero lanes. -/
def probeTask : Task :=
  { tid := 1, kind := .frame, ctx := 0, iter := 0, rank := 0, blk := 0, base := 0, len := 63, nin := 1, sup := true, pos := 0,
    w := 8, hdr := plainHeader 0 0 8 0, entries := [mkLanes (fun l => if l < 8 then some 0 else none)],
    temps := List.replicate 8 noLanes, latA := [], latB := [], pv := [], sense := [], armed := [],
    emask := (List.range 32).map (fun l => decide (l < 8)), cbuf := [], flags := 0, astat := 0, cx := probeCtx, gives := [],
    moves := [], reserved := [], step := 0, frec := none }

/-- Stores a block word where the next step fetches it: at position 0 of the block that PE0 of tile 0 runs (log entry 5). -/
def placeBlockWord (s : State) (w lit : Nat) : State :=
  { s with
    agenda := [.issue 0 0], ctxs := [(0, probeCtx)], nextId := 2,
    tab := { s.tab with imem := if lit = 0 then [(1, BitVec.ofNat 32 w)] else [(1, BitVec.ofNat 32 w), (2, BitVec.ofNat 32 lit)] },
    pe := [(0, { stage := none, run := some probeTask, rel := [], behind := [], moved := false })] }

/-- A launch without contexts whose sequencing program is the words given (log entry 5). -/
def probeLaunch (ws : List Word) : Launch :=
  { st := .running, words := [], inits := [], asid := 1, cls := 0, cls0 := 0, stamp := 0, since := 0, plog2 := 6, pool := 64, x0 := 0, y0 := 0,
    wd := 1, ht := 1, gait := 0, gx := 0, gy := 0, gw := 1, gh := 1, route := [], prog := ws, pc := 0, waiting := false, ended := false,
    code := 0, cause := 0, argDone := true, runs := 0, ingress := [], edges := [], first := 0, sig := 0, granted := 0, npre := 0, edrop := 0,
    tgrant := 0, commitAt := 0, aim := none, grow := none, shapes := [], saved := [], savedAt := 0, poolWait := [], host := none }

/-- Stores sequencer words where the next step fetches them: at position 0 of a running launch's program (log entry 5). -/
def placeSeqWords (s : State) (ws : List Word) : State :=
  { s with agenda := [.seq 0], sch := { s.sch with launches := [(0, probeLaunch ws)] } }

/-- Places an instruction by its bits: in a block where a block word decodes, else in a sequencing program (log entry 6). -/
def placeWord (s : State) (nbits w : Nat) : State :=
  let v := w % 2 ^ nbits
  let ws := (List.range 5).map (fun k => v / 2 ^ (32 * k) % 2 ^ 32)
  match decodeBlock (ws.getD 0 0) (ws.getD 1 0), decodeSeq ws with
  | .ok _, _ => placeBlockWord s (ws.getD 0 0) (ws.getD 1 0)
  | .error _, .ok _ => placeSeqWords s (ws.map (BitVec.ofNat 32))
  | .error _, .error _ => placeBlockWord s (ws.getD 0 0) (ws.getD 1 0)

end Sys2Proof.Machine
end

