-- ==== Sys2Proof/Machine/Sequencer.lean ====
section
/-! DEFINITION. The sequencer: the words of a launch's sequencing program (R166, R222, R384, R385, R396). -/

namespace Sys2Proof.Machine

/-! What a word does to its program. -/

/-- A program goes on while its launch runs; what starts nothing on a tile also while the launch shrinks or is saved (R399). -/
def programRuns (l : Launch) (quiet : Bool) : Bool := !l.ended && (l.st == .running || quiet && (l.st == .shrinking || l.st == .saving))

/-- Performs a word of the program of the occasion's launch, the last one served; a program that does not go on waits (R396). -/
def seqEffect (quiet : Bool) (f : State → Nat → Launch → State) (s : State) : Result :=
  let q := s.occ.a
  match sget s.sch.launches q with
  | none => .fault .noProgram
  | some l => if programRuns l quiet then .next (f { s with sch := { s.sch with lastSeq := q } } q l) else .next s

/-- A word that works on the launch's tiles. -/
def seqWord (f : State → Nat → Launch → State) (s : State) : Result := seqEffect false f s

/-- The program goes on at a position. -/
def seqGo (s : State) (q : Nat) (l : Launch) (pc : Nat) : State := setLaunch s q { l with pc := pc, waiting := false }

/-- The program ends. -/
def seqStop (s : State) (q : Nat) (l : Launch) (code cause : Nat) : State :=
  setLaunch s q { l with ended := true, code := code, cause := cause, waiting := false }

/-- The word has begun and waits. -/
def seqWait (s : State) (q : Nat) (l : Launch) : State := setLaunch s q { l with waiting := true }

/-- Words that a word takes with its extension words (R384). -/
def seqLen (w : Word) : Nat :=
  if bits w.toNat 28 4 = 3 then (if bit w.toNat 27 then 5 else 3) else if bits w.toNat 28 4 = 7 then 3 else 1

/-- A position is that of a word, not of an extension word. -/
def isWordAt (prog : List Word) (n : Nat) : Nat → Nat → Bool
  | 0, _ => false
  | f + 1, at_ => if at_ = n then decide (n < prog.length) else if n < at_ then false else isWordAt prog n f (at_ + seqLen (prog.getD at_ 0))

def targetGood (l : Launch) (n : Nat) : Bool := isWordAt l.prog n (l.prog.length + 1) 0

/-! SQ.END, SQ.JMP, SQ.BAR and reserved words. -/

/-- SQ.END (R168, R385). -/
def execSqEnd (code : Nat) (s : State) : Result := seqEffect true (fun s q l => if l.runs = 0 then seqStop s q l code 0 else s) s

/-- SQ.JMP (R384, R385). -/
def execSqJmp (target : Nat) (s : State) : Result :=
  seqEffect true (fun s q l => if targetGood l target then seqGo s q l target else seqStop s q l 0 causeCfg) s

/-- SQ.BAR (R385). -/
def execSqBar (s : State) : Result := seqEffect true (fun s q l => if l.runs = 0 then seqGo s q l (l.pc + 1) else s) s

/-- RESERVED_SEQUENCER_WORD (R222, R384): a reserved operation or bit, or a position outside the program. -/
def execReservedSequencerWord (s : State) : Result := seqEffect true (fun s q l => seqStop s q l 0 causeCfg) s

/-! SQ.CFG (R380, R385, R396). -/

/-- The tiles of a region with the launch tiles that each hosts. -/
def regionTiles (s : State) (q : Nat) (l : Launch) (r : RegionImg) : Option (List Nat) :=
  let ns := (upto 512).filter r.tmask
  let ps := ns.map (placeTile s q)
  if ns.all (fun n => decide (n % 16 < l.wd) && decide (n / 16 < l.ht)) && ps.all Option.isSome then some (dedup (ps.filterMap (·.map (·.1)))) else none

/-- One region on its tiles; `none` where a tile refuses it. -/
def loadOn (s : State) (q : Nat) (l : Launch) (rs : List RegionImg) (data : List PenData) (r : RegionImg) : Option State :=
  match regionTiles s q l r with
  | none => none
  | some ts =>
    if ts.all (tileQuiet s) && imageGood r (neighboursOf rs r.gait) l.wd l.ht then
      some (ts.foldl (fun s t =>
        let s := loadRegion s t l.asid r.gait (sgetD s.tab.ltiles t []) r data
        { s with tab := { s.tab with gaitReg := sset s.tab.gaitReg t l.gait } }) s)
    else none

/-- What CFGLD has put on launch tiles, as the state that later changes are measured by (R418). -/
def noteLoaded (s : State) (q : Nat) (rs : List RegionImg) : State :=
  match sget s.sch.launches q with
  | none => s
  | some l =>
    let mine (n : Nat) : Bool := rs.any (fun r => r.tmask n)
    let xs := ((launchTiles s q).filter (fun x => mine x.1)).map (fun x => saveTile s q x.2.1 x.2.2 x.1 none)
    setLaunch s q { l with saved := l.saved.filter (fun x => !mine x.ltile) ++ xs }

/-- The arguments go to pen ARGPEN of launch tile 0, which launch intake holds for the copy (R53); the cause where they cannot. -/
def copyArgs (s : State) (q : Nat) (l : Launch) : State × Nat :=
  let n := l.field 256 23
  let pen := l.field 279 10
  if n = 0 then (s, 0)
  else
    match placeTile s q 0 with
    | none => (s, causeCfg)
    | some (t, _) =>
      match penAt s t pen with
      | none => (s, causeCfg)
      | some p =>
        if p.size * 4096 < n || p.own then (s, causeCfg)
        else
          match readVa (setPen s t pen { p with own := true, eng := 9 }) t l.asid (l.field 192 56) n (imageWant (l.asid != 0) false) with
          | (s, .error (c, _, _)) => (flipBack s t pen, c)
          | (s, .ok bs) => (flipBack (sramWriteBytes s (penByte s t pen 0) bs) t pen, 0)

/-- The first SQ.CFG that reaches launch tile 0 copies the arguments; the host's ACCEPT follows (R443). -/
def finishCfg (s : State) (q : Nat) (rs : List RegionImg) : State :=
  match sget s.sch.launches q with
  | none => s
  | some l =>
    if l.argDone || !rs.any (fun r => r.tmask 0) then seqGo s q l (l.pc + 1)
    else
      match copyArgs s q l with
      | (s, 0) =>
        let s := if l.field 256 23 = 0 then s else answerAny s l.host 1 q []
        seqGo s q { l with argDone := true } (l.pc + 1)
      | (s, c) => seqStop s q l 0 c

/-- SQ.CFG (R385, R396). -/
def execSqCfg (gt region : Nat) (s : State) : Result :=
  seqWord (fun s q l =>
    if l.runs ≠ 0 then s
    else
      match readImage s (originTile l) l.asid (l.field 0 56) with
      | (s, .error c) => seqStop s q l 0 c
      | (s, .ok bs) =>
        let secs := (sectionsOf bs).getD []
        let all := (regionsOf secs).filter (fun r => r.gait == gt)
        let rs := all.filter (fun r => region == 0xFF || r.region == region)
        let done := rs.foldl (fun (acc : Option State) r => acc.bind (fun s => loadOn s q l (regionsOf secs) (penDataOf secs) r)) (some s)
        match done with
        | some s' => if rs.isEmpty then seqStop s q l 0 causeCfg else finishCfg (noteLoaded s' q rs) q rs
        | none => seqStop s q l 0 causeCfg) s

/-! SQ.RUN (R194, R385, R396). -/

/-- FREE contexts of a launch's pool. -/
def poolRoom (s : State) (l : Launch) : Nat := ((upto (2 ^ l.plog2)).filter (fun k => (ctxOf s (l.pool + k)).isNone)).length

/-- An initial context is taken and becomes LIVE. -/
def startInit (s : State) (q : Nat) (l : Launch) (ws : List Word) : State :=
  let base := initBase q l.asid (l.field 384 32) (l.field 416 32) (l.field 448 3)
  match lowestFree s q, vectorCtx (fun k => ws[k]?) base (l.field 354 6) none with
  | some n, some c => makeLive { s with ctxs := sset s.ctxs n c } n
  | _, _ => s

/-- A run can begin: its contexts are FREE, and the edge is not injecting for an earlier one. -/
def runReady (s : State) (l : Launch) (ing : Bool) (edge : Nat) : Bool :=
  decide (l.inits.length ≤ poolRoom s l) && !(ing && l.ingress.any (·.1 == edge))

/-- SQ.RUN (R385, R396). -/
def execSqRun (ing : Bool) (edge : Nat) (async : Bool) (s : State) : Result :=
  seqWord (fun s q l =>
    if l.waiting then (if l.runs = 0 then seqGo s q l (l.pc + 1) else s)
    else if ing && !(l.edges[edge]?).elim false edgeIn then seqStop s q l 0 causeCfg
    else if !runReady s l ing edge then s
    else
      let first := (lowestFree s q).getD l.pool
      let s := l.inits.foldl (fun s ws => startInit s q l ws) s
      let l := { l with first := first, runs := l.runs + 1, ingress := if ing then l.ingress ++ [(edge, 0, 0, first)] else l.ingress }
      if async then seqGo s q l (l.pc + 1) else seqWait s q l) s

/-! SQ.IF (R166, R385). -/

/-- A task of no context in whose name the sequencer asks. -/
def seqOp (l : Launch) (q : Nat) (p : Phys) (hva : Nat) : Op :=
  { id := 0, tile := originTile l, elem := 14, rank := 0, ctx := 2 ^ 16, iter := 0, blk := 0xFF, pos := 0x3F, w := 1, tid := 0, byHandler := false,
    cx := initBase q l.asid 0 0 0, kind := .hreq .p false, port := none, portNo := 0, hdr := plainHeader 0 0 1 0, emask := List.replicate 32 false,
    a := noLanes, b := noLanes, lanes := [{ mkLane 0 (hva : Int) 64 0 0 with phys := some p }], phase := .ready, n := 0, out := noLanes,
    cause := 0, detail := 0, addr := 0, retried := false }

/-- The passing request is made at the hitch's page. -/
def requestHitch (q : Nat) (l : Launch) (hva : Nat) : State × Check Phys → State
  | (s, .error (c, _)) => seqStop s q l 0 c
  | (s, .ok p) => seqWait (addOp s (seqOp l q p hva)) q { l with sig := s.nextId }

/-- The hitch is asked for, where its address is good. -/
def askHitch (s : State) (q : Nat) (l : Launch) (hva : Nat) : State :=
  match vaCheck (hva : Int) 64 64 with
  | some (c, _) => seqStop s q l 0 c
  | none =>
    requestHitch q l hva
      (xlateNow s (originTile l) l.asid hva { imageWant (l.asid != 0) false with wr := true, mtOk := fun _ => true })

/-- The branch is taken by the predicate that was read. -/
def takeBranch (q : Nat) (l : Launch) (sense : Bool) (target next : Nat) : State × Option Nat → State
  | (s, none) => seqStop s q l 0 causeMemUe
  | (s, some v) => seqGo s q l (if (v != 0) != sense then target else next)

/-- The predicate is read from its page; in SC memory it is read at its node, and the word waits for it (R158). -/
def branchOn (q : Nat) (l : Launch) (sense : Bool) (target va next : Nat) : State × Check Phys → State
  | (s, .error (c, _)) => seqStop s q l 0 c
  | (s, .ok p) =>
    if p.mt = 1 then
      seqWait (addOp s (edgeOp (originTile l) l.asid (.ld .word) [{ mkLane 0 (va : Int) 4 0 0 with phys := some p }])) q { l with sig := s.nextId }
    else takeBranch q l sense target next (readHome s p.enc p.pa 4)

/-- The predicate is read and the branch taken. -/
def readPredicate (s : State) (q : Nat) (l : Launch) (sense : Bool) (target va next : Nat) : State :=
  branchOn q l sense target va next (xlateNow s (originTile l) l.asid va { imageWant (l.asid != 0) false with mtOk := fun mt => mt != 2 })

/-- The read of a predicate in SC memory is performed. -/
def predicateRead (o : Op) : Bool := o.phase == .done && isLoad o.kind

/-- SQ.IF (R158, R166, R384, R385). -/
def execSqIf (hv sense : Bool) (target va hva : Nat) (s : State) : Result :=
  seqWord (fun s q l =>
    if l.runs ≠ 0 then s
    else if va % 4 ≠ 0 || !targetGood l target then seqStop s q l 0 causeCfg
    else
      let next := l.pc + (if hv then 5 else 3)
      if !l.waiting then (if hv then askHitch s q l hva else readPredicate s q l sense target va next)
      else
        match opById s l.sig with
        | none => readPredicate s q l sense target va next
        | some o =>
          if o.phase == .failed then seqStop (dropOp s o.id) q l 0 o.cause
          else if predicateRead o then takeBranch q l sense target next (dropOp s o.id, o.lanes.head?.map (·.res))
          else s) s

/-! SQ.GAIT and SQ.SIG. -/

/-- SQ.GAIT (R385, R396): a gait that lies in the rectangle in force is taken in place; a larger one is asked for. -/
def execSqGait (gt : Nat) (s : State) : Result :=
  seqWord (fun s q l =>
    if l.runs ≠ 0 || l.grow.elim false (·.2) then s
    else
      match shapeOf l gt with
      | none => seqStop s q l 0 causeCfg
      | some (wd, ht) =>
        if wd ≤ l.gw ∧ ht ≤ l.gh then beginChange s q { l with waiting := true } .shrinking (some { gait := gt, x := l.gx, y := l.gy, bySeq := true })
        else setLaunch s q { l with waiting := true, grow := some (gt, true), since := s.cyc }) s

/-- SQ.SIG (R385): the token waits under back-pressure as at any source. -/
def execSqSig (iter dest value : Nat) (s : State) : Result :=
  seqWord (fun s q l =>
    if l.waiting then (if s.net.outs.any (·.id == l.sig) then s else seqGo s q l (l.pc + 3))
    else
      let d := destOfWord (dest * 2 ^ 9)
      if !destGood (fun _ => none) l.wd l.ht d then seqStop s q l 0 causeCfg
      else
        let id := s.nextId
        let tok : Token := { hdr := plainHeader l.first iter 1 d.slot, lanes := lanesOf [BitVec.ofNat 32 value] }
        seqWait (addOut s (originTile l) 14 tok [d]) q { l with sig := id }) s

/-! Words that can be performed (R396). -/

/-- The program stands at a word that goes on during a change. -/
def quietWord (l : Launch) : Bool :=
  match seqInstr l with
  | some (.sqJmp _) => true
  | some (.sqEnd _) => true
  | some .sqBar => true
  | some .reservedSequencerWord => true
  | _ => false

/-- The program has a word ready. -/
def wordReady (s : State) (l : Launch) : Bool :=
  programRuns l (quietWord l) &&
    (match seqInstr l with
      | some (.sqJmp _) => true
      | some (.sqRun ing edge _) => if l.waiting then l.runs == 0 else ing && !(l.edges[edge]?).elim false edgeIn || runReady s l ing edge
      | some (.sqIf _ _ _ _ _) => l.runs == 0 && (!l.waiting || (opById s l.sig).elim true (fun o => o.phase == .failed || predicateRead o))
      | some (.sqGait _) => l.runs == 0 && !l.grow.elim false (·.2)
      | some (.sqSig _ _ _) => !l.waiting || !s.net.outs.any (·.id == l.sig)
      | some .reservedSequencerWord => true
      | some _ => l.runs == 0
      | none => true)

end Sys2Proof.Machine
end

