-- ==== Sys2Proof/Machine/Agenda.lean ====
section
/-! DEFINITION. The turns that are due: what may happen next in a state (log entry 2). A turn that is not due any more when it is taken
changes nothing, so these lists may name more than is due. -/

namespace Sys2Proof.Machine

def ev (i : Instr) (a b c : Nat) : Turn := .event i ⟨a, b, c⟩

/-! Operations. -/

/-- Events of an operation by its phase: its lanes, its response, its fault. -/
def phaseTurns (o : Op) : List Turn :=
  let e (i : Instr) : Turn := ev i o.id 0 0
  match o.phase with
  | .queued => if looksUp o then [e .translationMiss] else []
  | .active => if looksUp o then [e .translationMiss] else []
  | .ready => [e .dramRequest, e .stashFill, e .hitchRequestArrival, e .hitchReleaseArrival]
  | .done => [e .loadResponseReturn, e .ldchNode, e .hitchGrantArrival]
  | .failed => [e .asyncFaultReport]
  | _ => []

/-- Turns of a broadcast: its start, its arrivals, and its completion. -/
def castTurns (s : State) (o : Op) (arrival completion : Instr) : List Turn :=
  (match castOf s o.id with
    | none => [ev arrival o.id o.tile 0]
    | some c => c.units.map (fun u => ev arrival o.id u 0)) ++ [ev completion o.id 0 0]

/-- Turns of a Dray command. -/
def drayTurns (s : State) (o : Op) (ch : Nat) : List Turn :=
  let rs := (s.syn.remotes.filter (·.op == o.id)).length
  [ev .drayCommandStart o.tile ch 0, ev .drayComplete o.tile ch 0, ev .drayFail o.tile ch 0] ++
    (upto rs).map (fun n => ev (match o.kind with | .dhop _ => .dhopArrival | _ => .remoteDrayWrite) o.id n 0) ++
    (match o.kind with | .dred _ _ _ => [ev .dredCombine o.id 0 0] | _ => []) ++
    (if isAppend o.kind then [ev .placementMiss o.id 0 0, ev .append o.id 0 0, ev .appendRetry o.id 0 0] else [])

/-- Events of an operation by its kind. -/
def kindTurns (s : State) (o : Op) : List Turn :=
  let e (i : Instr) : Turn := ev i o.id 0 0
  let t (i : Instr) : Turn := ev i o.tile o.id 0
  match o.kind with
  | .bar _ _ => [e .barrierArrival]
  | .give _ _ => [e .giveFlip]
  | .fence _ => [t .fenceRelease]
  | .wait _ _ _ _ => [t .waitEmit]
  | .mma _ _ _ _ => [t .mmaApply]
  | .mzero => [t .mzeroApply]
  | .mdrn _ _ _ _ _ => [t .mdrnApply]
  | .mlda => [t .mldaApply]
  | .etld => [t .etldApply]
  | .fold => [t .foldApply, t .foldRetry]
  | .ffin => [t .ffinApply]
  | .reinld => [t .reinldApply]
  | .prbld => [t .prbldApply]
  | .tacc _ _ => [t .taccApply]
  | .ctxf c => [ev .contextFree c 0 0]
  | .tbi => castTurns s o .tbShootdownArrival .tbiCompletion
  | .shinv => castTurns s o .baleShootdownArrival .shinvCompletion
  | .plbc => castTurns s o .placementBroadcastArrival .plbcCompletion
  | .stp _ => (upto 32).map (fun b => ev .bankGrant o.tile b 0)
  | k => (chanOf k).elim [] (drayTurns s o)

def opTurns (s : State) : List Turn := (s.ops.map (fun o => phaseTurns o ++ kindTurns s o)).flatten

/-! Tokens. -/

/-- Held cancels, before anything that arrives (R184). -/
def cancelTurns (s : State) : List Turn := s.frm.cancels.map (fun f => ev .cancelTokenArrival f.id 0 0)

def flightTurn (f : Flight) : Turn :=
  ev (if f.tok.hdr.can then .cancelTokenArrival
    else if f.dest.elem = 0 then .tokenArrival
    else if f.dest.elem = 1 then .normaliserSegment
    else if f.dest.elem = 2 then .bridleSegment
    else if f.dest.elem = 3 then .commitEntry
    else if f.dest.elem = 4 then .groomInboxArrival
    else .edgeEgressWrite) f.id 0 0

def sendTurns (s : State) : List Turn :=
  (s.net.outs.map (fun e => (upto e.pend.length).map (fun n => ev .outputBufferSend e.tile e.id n))).flatten

/-! Elements and tiles. -/

/-- Turns of a PE or groom core: its release and commit, its next word, its halt, its next task. -/
def elementTurns (s : State) (tile elem : Nat) : List Turn :=
  let p := peAt s tile elem
  let waits := s.frm.ready.any (fun r => r.tile == tile) || (sget s.flt.resuming (tile * 9 + elem)).isSome
  match p.run with
  | some τ => [ev .stepHalt tile elem 0, .issue tile elem] ++ (if τ.pos ≤ τ.len && p.held.isEmpty then [] else [ev .blockCommit tile elem 0])
  | none =>
    (if p.held.isEmpty && (heldLtld s tile).isEmpty then [] else [ev .blockCommit tile elem 0]) ++ (if waits then [ev .taskFire tile elem 0] else [])

/-- Tiles with tasks, runnable ones, releases, or what waits for a release. -/
def busyTiles (s : State) : List Nat :=
  dedup (s.frm.ready.map (·.tile) ++ (s.pe.filter (fun p => p.2.run.isSome || !p.2.held.isEmpty)).map (·.1 / 9) ++ s.ops.map (·.tile) ++
    s.flt.resuming.map (·.1 / 9))

def taskTurns (s : State) : List Turn := ((busyTiles s).map (fun t => ((upto 9).map (elementTurns s t)).flatten)).flatten

/-- Per tile the turns of its n-th item of a list. -/
def nthTurns (i : Instr) (tiles : List Nat) : List Turn :=
  ((dedup tiles).map (fun t => (upto (tiles.filter (· == t)).length).map (fun n => ev i t n 0))).flatten

/-- Faults, handlers, aging, clocks and troughs. -/
def tileTurns (s : State) : List Turn :=
  nthTurns .faultDelivery (s.flt.pending.map (·.tile)) ++ s.flt.supq.map (fun p => ev .supervisorFaultDequeue p.1 0 0) ++
    nthTurns .taskClassAging (if s.frm.ready.any (fun r => decide (0 < r.cls) && decide (r.since + 4096 ≤ s.cyc)) then s.frm.ready.map (·.tile) else []) ++
    (s.tab.cfgAt.filter (fun p => decide (p.2 < s.cyc) && (s.cyc - p.2) % 4096 == 0)).map (fun p => ev .stageBalance p.1 0 0) ++
    (s.dev.gated.map (fun p => ev .tileClockWake p.1 0 0)) ++
    (s.tab.troughs.filter (fun p => !p.2.waiters.isEmpty)).map (fun p => ev .troughWaiterServe (p.1 / 64) (p.1 % 64) 0)

/-- Rows that come back to their units. -/
def rowTurns (s : State) : List Turn :=
  (s.rws.rows.filter (·.again)).map (fun r => ev (if r.unit = 0 then .normaliserSegment else .bridleSegment) r.id 0 0)

/-- IDLE tiles, looked at before anything arrives. -/
def idleTurns (s : State) : List Turn := (s.ops.filter isIdle).map (fun o => ev .idleRestart o.tile 0 0)

/-! Memory. -/

/-- The tile of a word of its storage by the word's key. -/
def wordTile (k : Nat) : Nat :=
  if k < 2 ^ 40 then k * 8 / 2 ^ 24
  else if k < 2 ^ 41 then (k - 2 ^ 40) / 2 ^ 18
  else if k < 2 ^ 60 then (k - 2 ^ 41) / 2 ^ 18
  else (k - 2 ^ 60) * 8 / 2 ^ 52

def memoryTurns (s : State) : List Turn :=
  ((dedup (s.xl.misses.map (fun m => quadOf m.tile) ++ s.xl.walks.map (·.quad))).map (fun q =>
      ev .pageWalk q 0 0 :: (upto ((s.xl.walks.filter (fun w => w.quad == q && w.running)).length)).map (fun n => ev .walkComplete q n 0))).flatten ++
    nthTurns .baleLookup (s.bal.missing.map (·.tile)) ++
    (s.mem.sramLatent ++ s.mem.soft).map (fun p => ev .sramScrub (wordTile p.1) p.1 0) ++
    (s.mem.latent ++ s.mem.single).map (fun p => ev .dramScrub 0 (p.1 / 8) 0) ++
    (if s.syn.smode then (if s.syn.admitted.isEmpty then [] else [ev .ticketOrder 0 0 0]) else [ev .batonVisit 0 0 0]) ++
    s.syn.stuck.map (fun p => ev .seqOrder p.1 0 0) ++ (if s.syn.smodeNext.isSome then [ev .smodeWrite 0 0 0] else [])

/-! Contexts, launches and quadrants. -/

def contextTurns (s : State) : List Turn := (s.ctxs.filter (fun x => x.2.st == .ending)).map (fun x => ev .contextFree x.1 0 0)

def launchTurns (p : Nat × Launch) : List Turn :=
  let l := p.2
  let e (i : Instr) : Turn := ev i p.1 0 0
  l.ingress.map (fun x => ev .edgeIngressInject p.1 x.1 0) ++
    (match l.st, l.aim with
      | .running, _ => [e .runBarrierReached, e .launchEnd, e .watchdog, e .launchRecordAging]
      | .shrinking, some a => [e .runBarrierReached, e .launchEnd, e .watchdog, ev (.regionShrink p.1 a.gait (a.x - l.gx) (a.y - l.gy)) 0 0 0, e .launchRecordAging]
      | .saving, _ => [e .runBarrierReached, e .launchEnd, e .watchdog, e .fullSave]
      | .resuming, _ => [e .resume]
      | _, _ => [e .launchRecordAging])

/-- Lines that leave the stash of a tile that its launch gives up, and the freeing of the tile. -/
def freeTurns (s : State) : List Turn :=
  (s.tab.owner.map (fun p =>
    if (sget s.sch.launches p.2).elim true (fun l => tileGivenUp l p.1) then
      (presentLines s p.1).map (fun n => ev .stashEviction p.1 n 0) ++ [ev .tileFree p.1 0 0]
    else [])).flatten

def quadTurns (s : State) : List Turn :=
  (upto 4).map (fun q => ev .quadrantWake q 0 0) ++ (s.dev.qreq.filter (fun p => p.2 == 2)).map (fun p => ev .quadrantEnterP2 p.1 0 0) ++
    ((upto 4).filter (fun q => s.cyc % 64 = 0 || !(newlyQuiet s q).isEmpty || !(newlyBusy s q).isEmpty)).map (fun q => ev .quadrantReport q 0 0)

/-- The waiting LAUNCHes of tasks in ascending physical tile, behind the host's (R389). -/
def launchOps (s : State) : List Op :=
  let ins (o : Op) (l : List Op) : List Op := l.takeWhile (fun p => decide (p.tile < o.tile)) ++ o :: l.dropWhile (fun p => decide (p.tile < o.tile))
  (s.ops.filter (fun o => o.kind == .launch)).foldr ins []

def queueTurns (s : State) : List Turn :=
  s.host.waits.map (fun w => ev w.2 0 0 1) ++ (upto s.sch.intake.length).map (fun n => ev .launchIntake 0 n 0) ++ (launchOps s).map (fun o => ev .launchIntake o.id 0 0) ++ (s.sch.launches.map launchTurns).flatten ++ freeTurns s ++
    (if s.cyc % 4096 = 0 || s.sch.launches.any (fun p => recordWaits p.2) then [ev .allocationPass 0 0 0] else [])

/-- R396: at most one program performs a word in a cycle, round robin from the last one served. -/
def seqTurns (s : State) : List Turn :=
  let ready := (s.sch.launches.filter (fun p => wordReady s p.2)).map (·.1)
  match (ready.filter (fun q => decide (s.sch.lastSeq < q)) ++ ready).head? with
  | some q => [.seq q]
  | none => []

/-- The turns due in a state, in the model's order. -/
def enabled (s : State) : List Turn :=
  idleTurns s ++ quadTurns s ++ queueTurns s ++ seqTurns s ++ contextTurns s ++ tileTurns s ++ rowTurns s ++ cancelTurns s ++ s.net.mesh.map flightTurn ++ memoryTurns s ++ opTurns s ++
    taskTurns s ++ sendTurns s

/-- Nothing is left of the agenda: one fabric cycle passes (log entry 7) and the turns due are listed. -/
def refill (s : State) : State :=
  let s := { s with cyc := s.cyc + 1 }
  { s with agenda := enabled s }

end Sys2Proof.Machine
end

