-- ==== Sys2Proof/Machine/Routing.lean ====
section
/-! DEFINITION. Routing of values between blocks: FWD to SWITCH, SENDX, CANCEL, COMMIT (R247 to R256). -/

namespace Sys2Proof.Machine

/-- FWD (R247): latch A to both targets. -/
def execFwd (x y : Target) (s : State) : Result :=
  runTask (fun s τ => do
    checkTarget s τ x
    checkTarget s τ y
    let v := lanes1 τ (latchA τ) (fun _ a => a)
    let τ' ← put s τ x v
    finish s τ' y v) s

/-- The lanes of latch A that latch B sends to T1, or to T2 (R248). -/
def routed (τ : Task) (first : Bool) : Lanes :=
  mkLanes (fun l => if predOk τ l then
    match laneOf (latchA τ) l, laneOf (latchB τ) l with
    | some a, some b => if (b != 0) == first then some a else none
    | _, _ => none
  else none)

/-- STEER (R248). -/
def execSteer (x y : Target) (s : State) : Result :=
  runTask (fun s τ => do
    checkTarget s τ x
    checkTarget s τ y
    let τ' ← put s τ x (routed τ true)
    finish s τ' y (routed τ false)) s

/-- A target of STEERC: a port that received no lane gets a cancel (R249). -/
def putOrCancel (s : State) (τ : Task) (t : Target) (v : Lanes) (lane0 : Option Word) : Body Task :=
  match t with
  | .port n => if anyLane v then put s τ t v else emitCancel s τ n lane0
  | _ => put s τ t v

/-- STEERC (R249). -/
def execSteerc (x y : Target) (s : State) : Result :=
  runTask (fun s τ => do
    checkTarget s τ x
    checkTarget s τ y
    let τ' ← putOrCancel s τ x (routed τ true) (laneOf (latchA τ) 0)
    let τ'' ← putOrCancel s τ' y (routed τ false) (laneOf (latchA τ) 0)
    .ok (τ''.advance 1)) s

/-- SPLIT (R250). -/
def execSplit (n : Nat) (x y : Target) (s : State) : Result :=
  runTask (fun s τ => do
    checkTarget s τ x
    checkTarget s τ y
    let v := lanes1 τ (latchA τ) (fun _ a => a)
    let τ' ← put s τ x (mkLanes (fun l => if l < n then laneOf v l else none))
    finish s τ' y (mkLanes (fun l => if n ≤ l then laneOf v l else none))) s

/-- PACK and UNPACK (R251): lanes move by `f` into a colour `d`; `fits W Wd` is the width check. -/
def recolour (x y : Target) (fits : Nat → Nat → Bool) (f : Nat → Nat → Option Nat) (s : State) (τ : Task) : Body Task := do
  checkTarget s τ x
  checkTarget s τ y
  match x, y with
  | .port n, .discard =>
    check ((portAt s n).elim false (·.top == 0)) causeBadTarget x.code
    match ← control τ (latchB τ) [latchA τ] with
    | none => .ok (τ.advance 1)
    | some d =>
      let c := d.toNat % 2 ^ 16
      check (liveIn s τ.cx.q c) causeBadTarget x.code
      let wd := (ctxOf s c).elim 1 (·.w)
      check (fits τ.w wd) causeLaneMismatch
      let v := emitLanes τ (lanes1 τ (latchA τ) (fun _ a => a))
      let out := mkLanes (fun l => if l < wd then (f l wd).bind (laneOf v) else none)
      if anyLane out then
        .ok ({ τ with cbuf := τ.cbuf ++ [CbEntry.emit (emitHeader τ (c, τ.iter) wd) out ((portAt s n).elim [] (·.dests))] }.advance 1)
      else .ok (τ.advance 1)
  | .port _, _ => stop causeBadTarget y.code
  | _, _ => stop causeBadTarget x.code

def execPack (off : Nat) (x y : Target) (s : State) : Result :=
  runTask (recolour x y (fun w wd => decide (off + w ≤ wd)) (fun l _ => if off ≤ l then some (l - off) else none)) s
def execUnpack (off : Nat) (x y : Target) (s : State) : Result :=
  runTask (recolour x y (fun w wd => decide (off + wd ≤ w)) (fun l _ => some (l + off))) s

/-- SWITCH (R253): the value goes to port T + k; `np` is NP − 1. -/
def switchTo (a : Src) (np : Nat) (t : Target) (k : Task → Body (Option Nat)) (s : State) (τ : Task) : Body Task := do
  check (srcOk τ a) causeBadSource
  let n ← needPort s τ t
  match ← k τ with
  | none => .ok (τ.advance 1)
  | some k =>
    let v := lanes1 τ (readSrc τ false a) (fun _ x => x)
    if anyLane v then do
      check (decide (k ≤ np)) causeBadSource
      check (decide (n + k < 128)) causeBadTarget t.code
      let τ' ← emitWith s τ (n + k) v id
      .ok (τ'.advance 1)
    else .ok (τ.advance 1)

def execSwitchPol (a : Src) (n : Nat) (t : Target) (s : State) : Result :=
  runTask (switchTo a n t (fun τ => .ok (some τ.hdr.pol))) s
def execSwitchLane (a b : Src) (n : Nat) (t : Target) (s : State) : Result :=
  runTask (fun s τ => do
    check (srcOk τ a && srcOk τ b) causeBadSource
    switchTo a n t (fun τ => do
      let k ← control τ (readSrc τ true b) [readSrc τ false a]
      .ok (k.map (fun v => v.toNat % 16))) s τ) s

/-- SENDX (R254): the header fields that MOD7 names come from lane 0 of B. -/
def execSendx (a b : Src) (seg pol eor : Bool) (t : Target) (s : State) : Result :=
  runTask (fun s τ => do
    check (srcOk τ a && srcOk τ b) causeBadSource
    let n ← needPort s τ t
    let v := lanes1 τ (readSrc τ false a) (fun _ x => x)
    let ctl := laneOf (readSrc τ true b) 0
    check (!(seg || pol || eor) || !anyLane v || ctl.isSome) causeBadSource
    let w := (ctl.getD 0).toNat
    let τ' ← emitWith s τ n v (fun h => { h with
      seg := if seg then w % 2 ^ 10 else h.seg, pol := if pol then bits w 10 4 else h.pol, eor := if eor then bit w 14 else h.eor })
    .ok (τ'.advance 1)) s

/-- R255: whether SA supplies the tag value of a target. -/
def takesTag (s : State) : Target → Bool
  | .port n => (portAt s n).elim false (fun p => p.top == 4 || p.top == 5)
  | _ => false

/-- CANCEL (R255): sent unless a targeted predicate fires on no lane. An SA that it does not read must be 13, and that is the first
check (R212). -/
def execCancel (a : Src) (t : Target) (s : State) : Result :=
  runTask (fun s τ => do
    check (takesTag s t || a == .zero) causeIllOp
    check (srcOk τ a) causeBadSource
    let n ← needPort s τ t
    if (List.range 32).any (predOk τ) then do
      let τ' ← emitCancel s τ n (laneOf (readSrc τ false a) 0)
      .ok (τ'.advance 1)
    else .ok (τ.advance 1)) s

/-- COMMIT (R256): an entry for the commit stage, counted even where no lane executes. EMASK is applied as the token leaves (R180), so
that its tag operation sees lane 0 where it executed (R190). -/
def execCommit (a : Src) (nul : Bool) (t : Target) (s : State) : Result :=
  runTask (fun s τ => do
    check (srcOk τ a) causeBadSource
    let n ← needPort s τ t
    let v := lanes1 τ (readSrc τ false a) (fun _ x => x)
    let p := (portAt s n).getD { top := 0, dests := [] }
    .ok ((τ.enter (mkOp s τ (.commit (nul || !anyLane (emitLanes τ v)) p) (some n) v noLanes [])).advance 1)) s

end Sys2Proof.Machine
end

