-- ==== Sys2Proof/Machine/Dispatch.lean ====
section
/-! DEFINITION. The meaning of every instruction and event: one arm each. -/

namespace Sys2Proof.Machine

def exec (i : Instr) (s : State) : Host.Outcome State Fault Refusal :=
  match i with
  | .regionShrink q gt dx dy => Sys2Proof.Machine.execRegionShrink q gt dx dy s
  | .governorMeasure watts => Sys2Proof.Machine.execGovernorMeasure watts s
  | .recoveryImage qp hd sent len => Sys2Proof.Machine.execRecoveryImage qp hd sent len s
  | .mrlPlaneDown plane => Sys2Proof.Machine.execMrlPlaneDown plane s
  | .mrlKeyChange link => Sys2Proof.Machine.execMrlKeyChange link s
  | .rdmaWrite qp rkey va data => Sys2Proof.Machine.execRdmaWrite qp rkey va data s
  | .rdmaRead qp rkey va len => Sys2Proof.Machine.execRdmaRead qp rkey va len s
  | .rdmaInvalidRequest qp => Sys2Proof.Machine.execRdmaInvalidRequest qp s
  | .sttLaunch qp hd sent rva => Sys2Proof.Machine.execSttLaunch qp hd sent rva s
  | .sttTokens qp hd sent words => Sys2Proof.Machine.execSttTokens qp hd sent words s
  | .mrreg qp hd sent index asid va len r w => Sys2Proof.Machine.execMrreg qp hd sent index asid va len r w s
  | .mrdereg qp hd sent index => Sys2Proof.Machine.execMrdereg qp hd sent index s
  | .ctrlPreempt qp hd sent q save => Sys2Proof.Machine.execCtrlPreempt qp hd sent q save s
  | .ctrlHalt qp hd sent asid ctx => Sys2Proof.Machine.execCtrlHalt qp hd sent asid ctx s
  | .ctrlFwd qp hd sent words => Sys2Proof.Machine.execCtrlFwd qp hd sent words s
  | .getVersion qp hd sent => Sys2Proof.Machine.execGetVersion qp hd sent s
  | .getCapabilities qp hd sent => Sys2Proof.Machine.execGetCapabilities qp hd sent s
  | .negotiateAlgorithms qp hd sent => Sys2Proof.Machine.execNegotiateAlgorithms qp hd sent s
  | .getDigests qp hd sent => Sys2Proof.Machine.execGetDigests qp hd sent s
  | .getCertificate qp hd sent => Sys2Proof.Machine.execGetCertificate qp hd sent s
  | .challenge qp hd sent => Sys2Proof.Machine.execChallenge qp hd sent s
  | .getMeasurements qp hd sent => Sys2Proof.Machine.execGetMeasurements qp hd sent s
  | .keyExchange qp hd sent => Sys2Proof.Machine.execKeyExchange qp hd sent s
  | .finish qp hd sent => Sys2Proof.Machine.execFinish qp hd sent s
  | .debugUnlock qp hd sent level => Sys2Proof.Machine.execDebugUnlock qp hd sent level s
  | .spdmUnsupportedRequest qp hd sent => Sys2Proof.Machine.execSpdmUnsupportedRequest qp hd sent s
  | .setPlimit watts => Sys2Proof.Machine.execSetPlimit watts s
  | .fwd x y => Sys2Proof.Machine.execFwd x y s
  | .steer x y => Sys2Proof.Machine.execSteer x y s
  | .steerc x y => Sys2Proof.Machine.execSteerc x y s
  | .split n x y => Sys2Proof.Machine.execSplit n x y s
  | .pack off x y => Sys2Proof.Machine.execPack off x y s
  | .unpack off x y => Sys2Proof.Machine.execUnpack off x y s
  | .addP x y => Sys2Proof.Machine.execAddP x y s
  | .subP x y => Sys2Proof.Machine.execSubP x y s
  | .andP x y => Sys2Proof.Machine.execAndP x y s
  | .orP x y => Sys2Proof.Machine.execOrP x y s
  | .xorP x y => Sys2Proof.Machine.execXorP x y s
  | .shlP x y => Sys2Proof.Machine.execShlP x y s
  | .shrP x y => Sys2Proof.Machine.execShrP x y s
  | .sraP x y => Sys2Proof.Machine.execSraP x y s
  | .minP x y => Sys2Proof.Machine.execMinP x y s
  | .maxP x y => Sys2Proof.Machine.execMaxP x y s
  | .cmpP c x y => Sys2Proof.Machine.execCmpP c x y s
  | .faddP r x y => Sys2Proof.Machine.execFaddP r x y s
  | .fsubP r x y => Sys2Proof.Machine.execFsubP r x y s
  | .fmulP r x y => Sys2Proof.Machine.execFmulP r x y s
  | .fminP x y => Sys2Proof.Machine.execFminP x y s
  | .fmaxP x y => Sys2Proof.Machine.execFmaxP x y s
  | .fcmpP c x y => Sys2Proof.Machine.execFcmpP c x y s
  | .add a b t => Sys2Proof.Machine.execAdd a b t s
  | .sub a b t => Sys2Proof.Machine.execSub a b t s
  | .mul a b t => Sys2Proof.Machine.execMul a b t s
  | .mulh a b t => Sys2Proof.Machine.execMulh a b t s
  | .mulhu a b t => Sys2Proof.Machine.execMulhu a b t s
  | .div a b t => Sys2Proof.Machine.execDiv a b t s
  | .divu a b t => Sys2Proof.Machine.execDivu a b t s
  | .rem a b t => Sys2Proof.Machine.execRem a b t s
  | .remu a b t => Sys2Proof.Machine.execRemu a b t s
  | .and a b t => Sys2Proof.Machine.execAnd a b t s
  | .or a b t => Sys2Proof.Machine.execOr a b t s
  | .xor a b t => Sys2Proof.Machine.execXor a b t s
  | .andn a b t => Sys2Proof.Machine.execAndn a b t s
  | .shl a b t => Sys2Proof.Machine.execShl a b t s
  | .shr a b t => Sys2Proof.Machine.execShr a b t s
  | .sra a b t => Sys2Proof.Machine.execSra a b t s
  | .rot a b t => Sys2Proof.Machine.execRot a b t s
  | .min a b t => Sys2Proof.Machine.execMin a b t s
  | .max a b t => Sys2Proof.Machine.execMax a b t s
  | .minu a b t => Sys2Proof.Machine.execMinu a b t s
  | .maxu a b t => Sys2Proof.Machine.execMaxu a b t s
  | .abs a t => Sys2Proof.Machine.execAbs a t s
  | .clz a t => Sys2Proof.Machine.execClz a t s
  | .ctz a t => Sys2Proof.Machine.execCtz a t s
  | .popc a t => Sys2Proof.Machine.execPopc a t s
  | .brev a t => Sys2Proof.Machine.execBrev a t s
  | .sxb a t => Sys2Proof.Machine.execSxb a t s
  | .sxh a t => Sys2Proof.Machine.execSxh a t s
  | .sx4 a t => Sys2Proof.Machine.execSx4 a t s
  | .zxb a t => Sys2Proof.Machine.execZxb a t s
  | .zxh a t => Sys2Proof.Machine.execZxh a t s
  | .zx4 a t => Sys2Proof.Machine.execZx4 a t s
  | .bfx a b sx t => Sys2Proof.Machine.execBfx a b sx t s
  | .bfi a b c t => Sys2Proof.Machine.execBfi a b c t s
  | .cmp a b c t => Sys2Proof.Machine.execCmp a b c t s
  | .sel a b c t => Sys2Proof.Machine.execSel a b c t s
  | .lea a b sc t => Sys2Proof.Machine.execLea a b sc t s
  | .switchPol a n t => Sys2Proof.Machine.execSwitchPol a n t s
  | .switchLane a b n t => Sys2Proof.Machine.execSwitchLane a b n t s
  | .laff a b t => Sys2Proof.Machine.execLaff a b t s
  | .lxor a t => Sys2Proof.Machine.execLxor a t s
  | .lvcnt a t => Sys2Proof.Machine.execLvcnt a t s
  | .lvfst a t => Sys2Proof.Machine.execLvfst a t s
  | .fadd a b f r sat t => Sys2Proof.Machine.execFadd a b f r sat t s
  | .fsub a b f r sat t => Sys2Proof.Machine.execFsub a b f r sat t s
  | .fmul a b f r sat t => Sys2Proof.Machine.execFmul a b f r sat t s
  | .ffma a b r c sat t => Sys2Proof.Machine.execFfma a b r c sat t s
  | .fmin a b t => Sys2Proof.Machine.execFmin a b t s
  | .fmax a b t => Sys2Proof.Machine.execFmax a b t s
  | .fabs a f t => Sys2Proof.Machine.execFabs a f t s
  | .fneg a f t => Sys2Proof.Machine.execFneg a f t s
  | .fcpys a b f t => Sys2Proof.Machine.execFcpys a b f t s
  | .fcpyn a b f t => Sys2Proof.Machine.execFcpyn a b f t s
  | .fxsgn a b f t => Sys2Proof.Machine.execFxsgn a b f t s
  | .fcmp a b f c t => Sys2Proof.Machine.execFcmp a b f c t s
  | .fclass a f t => Sys2Proof.Machine.execFclass a f t s
  | .fcvt a b f r sat t => Sys2Proof.Machine.execFcvt a b f r sat t s
  | .frnd a r t => Sys2Proof.Machine.execFrnd a r t s
  | .ftoi a f r sat t => Sys2Proof.Machine.execFtoi a f r sat t s
  | .itof a f r sat t => Sys2Proof.Machine.execItof a f r sat t s
  | .hadd2 a b f r sat t => Sys2Proof.Machine.execHadd2 a b f r sat t s
  | .hmul2 a b f r sat t => Sys2Proof.Machine.execHmul2 a b f r sat t s
  | .hfma2 a b r c sat t => Sys2Proof.Machine.execHfma2 a b r c sat t s
  | .ex2 a t => Sys2Proof.Machine.execEx2 a t s
  | .lg2 a t => Sys2Proof.Machine.execLg2 a t s
  | .rcp a t => Sys2Proof.Machine.execRcp a t s
  | .rsq a t => Sys2Proof.Machine.execRsq a t s
  | .sqrt a t => Sys2Proof.Machine.execSqrt a t s
  | .sin a t => Sys2Proof.Machine.execSin a t s
  | .cos a t => Sys2Proof.Machine.execCos a t s
  | .tanh a t => Sys2Proof.Machine.execTanh a t s
  | .fdiv a b f r sat t => Sys2Proof.Machine.execFdiv a b f r sat t s
  | .lred a o t => Sys2Proof.Machine.execLred a o t s
  | .lscan a o t => Sys2Proof.Machine.execLscan a o t s
  | .shuf a b m t => Sys2Proof.Machine.execShuf a b m t s
  | .lbc a b t => Sys2Proof.Machine.execLbc a b t s
  | .vdot a b f t => Sys2Proof.Machine.execVdot a b f t s
  | .tacc a b t => Sys2Proof.Machine.execTacc a b t s
  | .cbdec a f entry hi t => Sys2Proof.Machine.execCbdec a f entry hi t s
  | .ltld a b => Sys2Proof.Machine.execLtld a b s
  | .scacc a b bf c tbf16 t => Sys2Proof.Machine.execScacc a b bf c tbf16 t s
  | .scmul a b f t => Sys2Proof.Machine.execScmul a b f t s
  | .amax a n t => Sys2Proof.Machine.execAmax a n t s
  | .rng a b w f t => Sys2Proof.Machine.execRng a b w f t s
  | .li v t => Sys2Proof.Machine.execLi v t s
  | .lih a v t => Sys2Proof.Machine.execLih a v t s
  | .lit word t => Sys2Proof.Machine.execLit word t s
  | .addi a v t => Sys2Proof.Machine.execAddi a v t s
  | .andi a v t => Sys2Proof.Machine.execAndi a v t s
  | .ori a v t => Sys2Proof.Machine.execOri a v t s
  | .xori a v t => Sys2Proof.Machine.execXori a v t s
  | .shli a v t => Sys2Proof.Machine.execShli a v t s
  | .shri a v t => Sys2Proof.Machine.execShri a v t s
  | .srai a v t => Sys2Proof.Machine.execSrai a v t s
  | .cmpeqi a v t => Sys2Proof.Machine.execCmpeqi a v t s
  | .cmplti a v t => Sys2Proof.Machine.execCmplti a v t s
  | .cmpltui a v t => Sys2Proof.Machine.execCmpltui a v t s
  | .mfs v t => Sys2Proof.Machine.execMfs v t s
  | .ldp a v t => Sys2Proof.Machine.execLdp a v t s
  | .stp a v => Sys2Proof.Machine.execStp a v s
  | .ld a base z sc t => Sys2Proof.Machine.execLd a base z sc t s
  | .st a b base z sc t => Sys2Proof.Machine.execSt a b base z sc t s
  | .ldch a b base sc t => Sys2Proof.Machine.execLdch a b base sc t s
  | .pref a base z sc => Sys2Proof.Machine.execPref a base z sc s
  | .sflush a b base sc t => Sys2Proof.Machine.execSflush a b base sc t s
  | .sinv a b base sc t => Sys2Proof.Machine.execSinv a b base sc t s
  | .amo a b base o t => Sys2Proof.Machine.execAmo a b base o t s
  | .cas a b base d c t => Sys2Proof.Machine.execCas a b base d c t s
  | .amosc a b base o t => Sys2Proof.Machine.execAmosc a b base o t s
  | .amof a b base o t => Sys2Proof.Machine.execAmof a b base o t s
  | .hacq a base k t => Sys2Proof.Machine.execHacq a base k t s
  | .hrel a base k t => Sys2Proof.Machine.execHrel a base k t s
  | .htry a base k t => Sys2Proof.Machine.execHtry a base k t s
  | .hbind a b base t => Sys2Proof.Machine.execHbind a b base t s
  | .hunb a b base t => Sys2Proof.Machine.execHunb a b base t s
  | .fence a sc t => Sys2Proof.Machine.execFence a sc t s
  | .bar a b h base t => Sys2Proof.Machine.execBar a b h base t s
  | .wait l sc d m t => Sys2Proof.Machine.execWait l sc d m t s
  | .give a eng => Sys2Proof.Machine.execGive a eng s
  | .qrsv a np t => Sys2Proof.Machine.execQrsv a np t s
  | .qpost a => Sys2Proof.Machine.execQpost a s
  | .qtake a np t => Sys2Proof.Machine.execQtake a np t s
  | .qfree a => Sys2Proof.Machine.execQfree a s
  | .qstat a t => Sys2Proof.Machine.execQstat a t s
  | .dcopyG2p a ch t => Sys2Proof.Machine.execDcopyG2p a ch t s
  | .dcopyP2g a ch t => Sys2Proof.Machine.execDcopyP2g a ch t s
  | .dcopyP2p a ch t => Sys2Proof.Machine.execDcopyP2p a ch t s
  | .dcopyP2t a ch t => Sys2Proof.Machine.execDcopyP2t a ch t s
  | .dcopyApp a ch t => Sys2Proof.Machine.execDcopyApp a ch t s
  | .dgath a b ch t => Sys2Proof.Machine.execDgath a b ch t s
  | .dscat a b ch t => Sys2Proof.Machine.execDscat a b ch t s
  | .dhop a ch t => Sys2Proof.Machine.execDhop a ch t s
  | .dbcst a ch tm t => Sys2Proof.Machine.execDbcst a ch tm t s
  | .dred a ch o i32 t => Sys2Proof.Machine.execDred a ch o i32 t s
  | .mma a pr ta tb chn t => Sys2Proof.Machine.execMma a pr ta tb chn t s
  | .mzero a t => Sys2Proof.Machine.execMzero a t s
  | .mdrn a bias act rq amx tr t => Sys2Proof.Machine.execMdrn a bias act rq amx tr t s
  | .mlda a b t => Sys2Proof.Machine.execMlda a b t s
  | .etld a b t => Sys2Proof.Machine.execEtld a b t s
  | .fold a b t => Sys2Proof.Machine.execFold a b t s
  | .ffin a t => Sys2Proof.Machine.execFfin a t s
  | .ncfg a t => Sys2Proof.Machine.execNcfg a t s
  | .brcfg a t => Sys2Proof.Machine.execBrcfg a t s
  | .brcfgStat a t => Sys2Proof.Machine.execBrcfgStat a t s
  | .reinld a b t => Sys2Proof.Machine.execReinld a b t s
  | .sendx a b seg pol eor t => Sys2Proof.Machine.execSendx a b seg pol eor t s
  | .cancel a t => Sys2Proof.Machine.execCancel a t s
  | .commit a nul t => Sys2Proof.Machine.execCommit a nul t s
  | .ctxa a th t => Sys2Proof.Machine.execCtxa a th t s
  | .ctxf a self => Sys2Proof.Machine.execCtxf a self s
  | .spawn a b th hv t => Sys2Proof.Machine.execSpawn a b th hv t s
  | .launch a t => Sys2Proof.Machine.execLaunch a t s
  | .mts a n => Sys2Proof.Machine.execMts a n s
  | .trap a code => Sys2Proof.Machine.execTrap a code s
  | .brk code => Sys2Proof.Machine.execBrk code s
  | .eres a b rep ent hold t => Sys2Proof.Machine.execEres a b rep ent hold t s
  | .esc a t => Sys2Proof.Machine.execEsc a t s
  | .ekill a t => Sys2Proof.Machine.execEkill a t s
  | .mfsr a t => Sys2Proof.Machine.execMfsr a t s
  | .mtsr a b t => Sys2Proof.Machine.execMtsr a b t s
  | .tbi a t => Sys2Proof.Machine.execTbi a t s
  | .shinv a t => Sys2Proof.Machine.execShinv a t s
  | .plbc a t => Sys2Proof.Machine.execPlbc a t s
  | .prbld a b t => Sys2Proof.Machine.execPrbld a b t s
  | .cfgld a b t => Sys2Proof.Machine.execCfgld a b t s
  | .gait a t => Sys2Proof.Machine.execGait a t s
  | .idle t => Sys2Proof.Machine.execIdle t s
  | .park a t => Sys2Proof.Machine.execPark a t s
  | .sqEnd code => Sys2Proof.Machine.execSqEnd code s
  | .sqCfg gt region => Sys2Proof.Machine.execSqCfg gt region s
  | .sqRun ing edge async => Sys2Proof.Machine.execSqRun ing edge async s
  | .sqIf hv sense target va hva => Sys2Proof.Machine.execSqIf hv sense target va hva s
  | .sqJmp target => Sys2Proof.Machine.execSqJmp target s
  | .sqGait gt => Sys2Proof.Machine.execSqGait gt s
  | .sqSig iter dest value => Sys2Proof.Machine.execSqSig iter dest value s
  | .sttDiscard qp hd sent => Sys2Proof.Machine.execSttDiscard qp hd sent s
  | .connectionManager qp user port => Sys2Proof.Machine.execConnectionManager qp user port s
  | .mrlPlaneUp plane => Sys2Proof.Machine.execMrlPlaneUp plane s
  | .tokenArrival => Sys2Proof.Machine.execTokenArrival s
  | .cancelTokenArrival => Sys2Proof.Machine.execCancelTokenArrival s
  | .taskFire => Sys2Proof.Machine.execTaskFire s
  | .blockCommit => Sys2Proof.Machine.execBlockCommit s
  | .outputBufferSend => Sys2Proof.Machine.execOutputBufferSend s
  | .loadResponseReturn => Sys2Proof.Machine.execLoadResponseReturn s
  | .taskClassAging => Sys2Proof.Machine.execTaskClassAging s
  | .bankGrant => Sys2Proof.Machine.execBankGrant s
  | .sramScrub => Sys2Proof.Machine.execSramScrub s
  | .dramScrub => Sys2Proof.Machine.execDramScrub s
  | .dramRequest => Sys2Proof.Machine.execDramRequest s
  | .translationMiss => Sys2Proof.Machine.execTranslationMiss s
  | .pageWalk => Sys2Proof.Machine.execPageWalk s
  | .walkComplete => Sys2Proof.Machine.execWalkComplete s
  | .asyncFaultReport => Sys2Proof.Machine.execAsyncFaultReport s
  | .faultDelivery => Sys2Proof.Machine.execFaultDelivery s
  | .supervisorFaultDequeue => Sys2Proof.Machine.execSupervisorFaultDequeue s
  | .watchdog => Sys2Proof.Machine.execWatchdog s
  | .stageBalance => Sys2Proof.Machine.execStageBalance s
  | .launchRecordAging => Sys2Proof.Machine.execLaunchRecordAging s
  | .launchIntake => Sys2Proof.Machine.execLaunchIntake s
  | .allocationPass => Sys2Proof.Machine.execAllocationPass s
  | .fullSave => Sys2Proof.Machine.execFullSave s
  | .resume => Sys2Proof.Machine.execResume s
  | .tileFree => Sys2Proof.Machine.execTileFree s
  | .quadrantReport => Sys2Proof.Machine.execQuadrantReport s
  | .launchEnd => Sys2Proof.Machine.execLaunchEnd s
  | .runBarrierReached => Sys2Proof.Machine.execRunBarrierReached s
  | .contextFree => Sys2Proof.Machine.execContextFree s
  | .batonVisit => Sys2Proof.Machine.execBatonVisit s
  | .seqOrder => Sys2Proof.Machine.execSeqOrder s
  | .stashFill => Sys2Proof.Machine.execStashFill s
  | .stashEviction => Sys2Proof.Machine.execStashEviction s
  | .hitchRequestArrival => Sys2Proof.Machine.execHitchRequestArrival s
  | .hitchReleaseArrival => Sys2Proof.Machine.execHitchReleaseArrival s
  | .hitchGrantArrival => Sys2Proof.Machine.execHitchGrantArrival s
  | .barrierArrival => Sys2Proof.Machine.execBarrierArrival s
  | .giveFlip => Sys2Proof.Machine.execGiveFlip s
  | .drayCommandStart => Sys2Proof.Machine.execDrayCommandStart s
  | .drayComplete => Sys2Proof.Machine.execDrayComplete s
  | .drayFail => Sys2Proof.Machine.execDrayFail s
  | .remoteDrayWrite => Sys2Proof.Machine.execRemoteDrayWrite s
  | .dhopArrival => Sys2Proof.Machine.execDhopArrival s
  | .dredCombine => Sys2Proof.Machine.execDredCombine s
  | .append => Sys2Proof.Machine.execAppend s
  | .appendRetry => Sys2Proof.Machine.execAppendRetry s
  | .baleLookup => Sys2Proof.Machine.execBaleLookup s
  | .placementMiss => Sys2Proof.Machine.execPlacementMiss s
  | .tbShootdownArrival => Sys2Proof.Machine.execTbShootdownArrival s
  | .tbiCompletion => Sys2Proof.Machine.execTbiCompletion s
  | .baleShootdownArrival => Sys2Proof.Machine.execBaleShootdownArrival s
  | .shinvCompletion => Sys2Proof.Machine.execShinvCompletion s
  | .placementBroadcastArrival => Sys2Proof.Machine.execPlacementBroadcastArrival s
  | .plbcCompletion => Sys2Proof.Machine.execPlbcCompletion s
  | .troughWaiterServe => Sys2Proof.Machine.execTroughWaiterServe s
  | .mmaApply => Sys2Proof.Machine.execMmaApply s
  | .mzeroApply => Sys2Proof.Machine.execMzeroApply s
  | .mldaApply => Sys2Proof.Machine.execMldaApply s
  | .mdrnApply => Sys2Proof.Machine.execMdrnApply s
  | .etldApply => Sys2Proof.Machine.execEtldApply s
  | .foldApply => Sys2Proof.Machine.execFoldApply s
  | .foldRetry => Sys2Proof.Machine.execFoldRetry s
  | .ffinApply => Sys2Proof.Machine.execFfinApply s
  | .taccApply => Sys2Proof.Machine.execTaccApply s
  | .commitEntry => Sys2Proof.Machine.execCommitEntry s
  | .normaliserSegment => Sys2Proof.Machine.execNormaliserSegment s
  | .bridleSegment => Sys2Proof.Machine.execBridleSegment s
  | .reinldApply => Sys2Proof.Machine.execReinldApply s
  | .prbldApply => Sys2Proof.Machine.execPrbldApply s
  | .edgeEgressWrite => Sys2Proof.Machine.execEdgeEgressWrite s
  | .edgeIngressInject => Sys2Proof.Machine.execEdgeIngressInject s
  | .ldchNode => Sys2Proof.Machine.execLdchNode s
  | .waitEmit => Sys2Proof.Machine.execWaitEmit s
  | .fenceRelease => Sys2Proof.Machine.execFenceRelease s
  | .halt => Sys2Proof.Machine.execHalt s
  | .stepHalt => Sys2Proof.Machine.execStepHalt s
  | .idleRestart => Sys2Proof.Machine.execIdleRestart s
  | .quadrantEnterP2 => Sys2Proof.Machine.execQuadrantEnterP2 s
  | .quadrantWake => Sys2Proof.Machine.execQuadrantWake s
  | .tileClockWake => Sys2Proof.Machine.execTileClockWake s
  | .startup => Sys2Proof.Machine.execStartup s
  | .getTelemetry => Sys2Proof.Machine.execGetTelemetry s
  | .setPowerP3 => Sys2Proof.Machine.execSetPowerP3 s
  | .setPowerP0 => Sys2Proof.Machine.execSetPowerP0 s
  | .getBootrec => Sys2Proof.Machine.execGetBootrec s
  | .smodeWrite => Sys2Proof.Machine.execSmodeWrite s
  | .qreqP0 => Sys2Proof.Machine.execQreqP0 s
  | .qreqP1 => Sys2Proof.Machine.execQreqP1 s
  | .qreqP2 => Sys2Proof.Machine.execQreqP2 s
  | .gerrClear => Sys2Proof.Machine.execGerrClear s
  | .svecWrite => Sys2Proof.Machine.execSvecWrite s
  | .deviceRegisterWrite => Sys2Proof.Machine.execDeviceRegisterWrite s
  | .sqBar => Sys2Proof.Machine.execSqBar s
  | .reservedOpcode => Sys2Proof.Machine.execReservedOpcode s
  | .reservedSequencerWord => Sys2Proof.Machine.execReservedSequencerWord s
  | .ticketOrder => Sys2Proof.Machine.execTicketOrder s
  | .groomInboxArrival => Sys2Proof.Machine.execGroomInboxArrival s
  | .powerLoss => Sys2Proof.Machine.execPowerLoss s

end Sys2Proof.Machine
end

