-- ==== Sys2Proof/Machine/Step.lean ====
section
/-! DEFINITION. One step: the head turn of the agenda is taken, or the agenda is drawn up again. -/

namespace Sys2Proof.Machine

/-- An element issues the word at its task's position (R174, R212). -/
def issueTurn (s : State) : Host.Outcome State Fault Refusal :=
  match s.task? with
  | none => .next s
  | some τ =>
    if mayIssue τ then
      match issueInstr s τ with
      | some i => exec i s
      | none => exec .reservedOpcode s
    else .next s

/-- The sequencer performs the word at a program's position (R384). -/
def seqTurn (q : Nat) (s : State) : Host.Outcome State Fault Refusal :=
  match sget s.sch.launches q with
  | none => .next s
  | some l =>
    match seqInstr l with
    | some i => exec i s
    | none => exec .reservedSequencerWord s

/-- One step of the package (log entry 2). -/
def step (s : State) : Host.Outcome State Fault Refusal :=
  match s.agenda with
  | [] => .next (refill s)
  | .issue tile elem :: rest => issueTurn { s with agenda := rest, occ := ⟨tile, elem, 0⟩ }
  | .seq q :: rest => seqTurn q { s with agenda := rest, occ := ⟨q, 0, 0⟩ }
  | .event i o :: rest => exec i { s with agenda := rest, occ := o }

/-- The instruction with these bits stands where the next step fetches (R207, R384). -/
def State.withFetchWord (s : State) (nbits w : Nat) : State := placeWord s nbits w

end Sys2Proof.Machine
end

