-- ==== Sys2Proof/Safety.lean ====
section
/-! DEFINITION. What the claims speak of: canonical memories, runs, where an element runs a task, and where a value may be put. -/

namespace Sys2Proof.Machine

/-- Every memory of the package is in its one canonical form (log entry 4). -/
def Mem.canonical (m : Mem) : Bool := Memory.wf m.dram && Memory.wf m.sram && Memory.wf m.probe && Memory.wf m.rein

/-- The memories of a state are canonical. -/
def State.canonical (s : State) : Bool := s.mem.canonical

/-- `n` steps end in a next state each. -/
def runs : Nat → State → State → Prop
  | 0, s, t => s = t
  | n + 1, s, t => ∃ m, step s = .next m ∧ runs n m t

/-- A safe run: no step of the first `n` stops with a fault or a refusal. -/
def safeFor (n : Nat) (s : State) : Prop := ∀ k, k ≤ n → ∃ t, runs k s t

/-- The acting element runs this task. -/
def Runs (s : State) (τ : Task) : Prop := s.task? = some τ

/-- The block has every source named (R210). -/
def SrcsOk (τ : Task) (srcs : List Src) : Prop := ∀ a ∈ srcs, srcOk τ a = true

/-- The target may be named (R211), and where it is a port and a lane is emitted, the port's tag operation has a tag for it (R190). -/
def Lands (s : State) (τ : Task) (t : Target) (v : Lanes) : Prop :=
  targetOk s τ t = true ∧
    ∀ n p, t = .port n → portAt s n = some p → anyLane (emitLanes τ v) = true →
      ∃ g, tagOp s τ.cx.q τ.ctx τ.iter τ.cx.parent p.top (laneOf v 0) = .ok g

/-- The instruction answers a next state in which the lanes stand at the target and the task is at the position `n` further on. -/
def Writes (i : Instr) (s : State) (τ : Task) (t : Target) (v : Lanes) (n : Nat) : Prop :=
  ∃ τ', put s τ t v = .ok τ' ∧ exec i s = .next (s.setTask (τ'.advance n))

/-- `Writes` for lanes that carry flags: the block collects the flags of the executed lanes (R307). -/
def WritesF (i : Instr) (s : State) (τ : Task) (t : Target) (r : FLanes) : Prop :=
  ∃ τ', put s (τ.raise (orFlags r)) t (valuesOf r) = .ok τ' ∧ exec i s = .next (s.setTask (τ'.advance 1))

/-- Both targets of a P-class instruction may be written, one after the other. -/
def LandsPair (s : State) (τ : Task) (x : Target) (u : Lanes) (y : Target) (v : Lanes) : Prop :=
  targetOk s τ y = true ∧ Lands s τ x u ∧ ∀ τ', put s τ x u = .ok τ' → Lands s τ' y v

/-- The instruction answers a next state in which the lanes `u` stand at the target `x`, then `v` at `y`. -/
def WritesPair (i : Instr) (s : State) (τ : Task) (x : Target) (u : Lanes) (y : Target) (v : Lanes) : Prop :=
  ∃ τ' τ'', put s τ x u = .ok τ' ∧ put s τ' y v = .ok τ'' ∧ exec i s = .next (s.setTask (τ''.advance 1))

/-- The instruction answers a next state in which its operation is the last entry of the commit buffer and the task goes on. -/
def Enters (i : Instr) (s : State) (τ : Task) (o : Op) : Prop := exec i s = .next (s.setTask ((τ.enter o).advance 1))

/-- The instruction answers a next state in which only the task's position has moved on. -/
def Passes (i : Instr) (s : State) (τ : Task) : Prop := exec i s = .next (s.setTask (τ.advance 1))

/-- The instruction ends its task with a synchronous fault at its position (R176). -/
def EndsWith (i : Instr) (s : State) (τ : Task) (cause detail addr : Nat) : Prop :=
  exec i s = .next (takeFault s τ τ.pos cause detail addr)

end Sys2Proof.Machine
end

