-- ==== Sys2Proof/Certificates/Slice0/Obligations.lean ====
section
/-! DEFINITION. The statements for the provers, with the tables they quantify over. -/

open Sys2Proof Sys2Proof.Machine

namespace Sys2Proof.Claims

/-- Block words written out from the encoding (R209 to R211, R214 to R221), each with what it stands for. -/
def wordsRead : List (Nat × Instr) := [
  (0x429A0006, .mul (.e 0) (.e 1) (.latA 3)), (0x40880182, .add .latch .latch (.port 2)), (0x400D0006, .add (.t 0) .zero (.latA 3)),
  (0x8B001407, .cmplti (.t 0) 10 (.latB 3)), (0x83900700, .addi (.e 0) 3 (.temp 0)), (0x91A00108, .stp (.e 1) 0),
  (0x690D6101, .fcvt (.t 0) .zero .e4m3 .rne false (.temp 1)), (0x02030181, .steerc (.port 0) (.port 1)),
  (0x5C0E0204, .lea (.t 0) .lid 1 (.latA 2)), (0xD59D0B00, .qrsv (.e 0) 5 (.temp 0)), (0xD60D0108, .qpost (.t 0)),
  (0xE00D3582, .mma (.t 0) .e4e5 false true false (.port 2)), (0xE54A0183, .fold (.t 4) (.e 1) (.port 3)),
  (0xF69D0108, .eres (.e 0) .zero false 0 false .discard), (0xF79D0108, .esc (.e 0) .discard)]

/-- The state in which a turn of the agenda is taken. -/
def onTurn (s : State) (rest : List Turn) (o : Occasion) : State := { s with agenda := rest, occ := o }

/-- The words of a sequencing program (R222, R384). -/
def sequences : Instr → Bool
  | .sqEnd _ => true
  | .sqCfg _ _ => true
  | .sqRun _ _ _ => true
  | .sqIf _ _ _ _ _ => true
  | .sqJmp _ => true
  | .sqBar => true
  | .sqGait _ => true
  | .sqSig _ _ _ => true
  | _ => false
/-- Two-source integer instructions (R239, R242 to R244), each with its value in lane `l` of `a` and `b`. -/
def twoSource : List ((Src → Src → Target → Instr) × (Nat → Word → Word → Word)) := [
  (.add, fun _ a b => a + b), (.sub, fun _ a b => a - b), (.mul, fun _ a b => a * b),
  (.mulh, fun _ a b => ((a.signExtend 64 * b.signExtend 64) >>> 32).setWidth 32),
  (.mulhu, fun _ a b => ((a.setWidth 64 * b.setWidth 64) >>> 32).setWidth 32),
  (.and, fun _ a b => a &&& b), (.or, fun _ a b => a ||| b), (.xor, fun _ a b => a ^^^ b), (.andn, fun _ a b => a &&& ~~~b),
  (.shl, fun _ a b => a <<< (b &&& 31)), (.shr, fun _ a b => a >>> (b &&& 31)), (.sra, fun _ a b => a.sshiftRight' (b &&& 31)),
  (.rot, fun _ a b => a.rotateLeft (b.toNat % 32)),
  (.min, fun _ a b => if a.slt b then a else b), (.max, fun _ a b => if a.slt b then b else a),
  (.minu, fun _ a b => if a < b then a else b), (.maxu, fun _ a b => if a < b then b else a),
  (.laff, fun l a b => a * BitVec.ofNat 32 l + b)]

/-- One-source integer instructions with a closed value (R239, R241, R244). -/
def oneSource : List ((Src → Target → Instr) × (Nat → Word → Word)) := [
  (.abs, fun _ a => if a.slt 0 then -a else a),
  (.sxb, fun _ a => (a.setWidth 8).signExtend 32), (.sxh, fun _ a => (a.setWidth 16).signExtend 32),
  (.sx4, fun _ a => (a.setWidth 4).signExtend 32), (.zxb, fun _ a => (a.setWidth 8).setWidth 32),
  (.zxh, fun _ a => (a.setWidth 16).setWidth 32), (.zx4, fun _ a => (a.setWidth 4).setWidth 32),
  (.lxor, fun l a => BitVec.ofNat 32 l ^^^ a)]

/-- The conditions of R213. -/
def conditions : List (Cond × (Word → Word → Bool)) := [
  (.eq, fun a b => a == b), (.ne, fun a b => a != b), (.lt, fun a b => a.slt b), (.le, fun a b => a.sle b),
  (.ltu, fun a b => a.ult b), (.leu, fun a b => a.ule b), (.gt, fun a b => b.slt a), (.ge, fun a b => b.sle a),
  (.gtu, fun a b => b.ult a), (.geu, fun a b => b.ule a)]

/-- One-source immediate forms (R246); `i` as R218 gives it. -/
def immediates : List ((Src → Nat → Target → Instr) × (Nat → Word → Word)) := [
  (.addi, fun i a => a + (BitVec.ofNat 11 i).signExtend 32), (.andi, fun i a => a &&& BitVec.ofNat 32 i),
  (.ori, fun i a => a ||| BitVec.ofNat 32 i), (.xori, fun i a => a ^^^ BitVec.ofNat 32 i),
  (.shli, fun i a => a <<< i), (.shri, fun i a => a >>> i), (.srai, fun i a => a.sshiftRight i),
  (.cmpeqi, fun i a => if a = (BitVec.ofNat 11 i).signExtend 32 then 1 else 0),
  (.cmplti, fun i a => if a.slt ((BitVec.ofNat 11 i).signExtend 32) then 1 else 0),
  (.cmpltui, fun i a => if a < BitVec.ofNat 32 i then 1 else 0),
  (.lih, fun i a => (BitVec.ofNat 11 i ++ a.setWidth 21 : BitVec 32))]

/-- P-class integer instructions (R245) with the values for T1 and T2. -/
def pairForms : List ((Target → Target → Instr) × (Word → Word → Word)) := [
  (.addP, fun a b => a + b), (.subP, fun a b => a - b), (.andP, fun a b => a &&& b), (.orP, fun a b => a ||| b),
  (.xorP, fun a b => a ^^^ b), (.shlP, fun a b => a <<< (b &&& 31)), (.shrP, fun a b => a >>> (b &&& 31)),
  (.sraP, fun a b => a.sshiftRight' (b &&& 31)), (.minP, fun a b => if a.slt b then a else b),
  (.maxP, fun a b => if a.slt b then b else a)]

/-- Division forms (R239) with their quotient or remainder, and where the spec's table of fates stands above it. -/
def divisions : List ((Src → Src → Target → Instr) × (Word → Word → Word)) := [
  (.div, fun a b => if b = 0 then 0xFFFFFFFF else a.sdiv b), (.divu, fun a b => if b = 0 then 0xFFFFFFFF else a / b),
  (.rem, fun a b => if b = 0 then a else a.srem b), (.remu, fun a b => if b = 0 then a else a % b)]

/-- The functions of R240, each by what it counts or moves. -/
def LeadingZeros (f : Word → Word) : Prop :=
  ∀ a, (f a).toNat ≤ 32 ∧ (∀ k, k < (f a).toNat → a.getLsbD (31 - k) = false) ∧
    ((f a).toNat < 32 → a.getLsbD (31 - (f a).toNat) = true)
def TrailingZeros (f : Word → Word) : Prop :=
  ∀ a, (f a).toNat ≤ 32 ∧ (∀ k, k < (f a).toNat → a.getLsbD k = false) ∧ ((f a).toNat < 32 → a.getLsbD (f a).toNat = true)
def BitsSet (f : Word → Word) : Prop := ∀ a, (f a).toNat = (List.range 32).countP a.getLsbD
def BitReversed (f : Word → Word) : Prop := ∀ a k, k < 32 → (f a).getLsbD (31 - k) = a.getLsbD k

/-- BFX of R242: `L` bits from POS, and above them the field's top bit or zeros. -/
def FieldExtracted (sx : Bool) (f : Word → Word → Word) : Prop :=
  ∀ a c k, k < 32 →
    let p := c.toNat % 32
    let L := min (c.toNat / 32 % 32 + 1) (32 - p)
    (f a c).getLsbD k = if k < L then a.getLsbD (p + k) else (sx && a.getLsbD (p + L - 1))

/-- BFI of R242: bits POS to POS + L − 1 come from the low bits of b. -/
def FieldInserted (f : Word → Word → Word → Word) : Prop :=
  ∀ a b c k, k < 32 →
    let p := c.toNat % 32
    let L := min (c.toNat / 32 % 32 + 1) (32 - p)
    (f a b c).getLsbD k = if p ≤ k ∧ k < p + L then b.getLsbD (k - p) else a.getLsbD k

/-- FP instructions of two sources in FP layout (R311), by what they round. -/
def fpTwo : List ((Src → Src → Fmt → Rnd → Bool → Target → Instr) × (RMode → Machine.Num → Machine.Num → Machine.Num × Astat)) := [
  (.fadd, numAdd), (.fsub, fun m x y => numAdd m x y.neg), (.fmul, fun _ x y => numMul x y), (.fdiv, fun _ x y => numDiv x y)]

/-- Their P-class forms, FP32 only (R312). -/
def fpPair : List ((Rnd → Target → Target → Instr) × (RMode → Machine.Num → Machine.Num → Machine.Num × Astat)) := [
  (.faddP, numAdd), (.fsubP, fun m x y => numAdd m x y.neg), (.fmulP, fun _ x y => numMul x y)]

/-- The packed 16-bit forms of two sources (R321), by what they round in each element. -/
def fpPacked : List ((Src → Src → Fmt → Rnd → Bool → Target → Instr) × (RMode → Machine.Num → Machine.Num → Machine.Num × Astat)) := [
  (.hadd2, numAdd), (.hmul2, fun _ x y => numMul x y)]

/-- The FSGN subforms (R314): the sign that the result takes of the signs of a and b. -/
def signTwo : List ((Src → Src → Fmt → Target → Instr) × (Bool → Bool → Bool)) := [
  (.fcpys, fun _ q => q), (.fcpyn, fun _ q => !q), (.fxsgn, fun p q => p ^^ q)]
def signOne : List ((Src → Fmt → Target → Instr) × (Bool → Bool)) := [(.fabs, fun _ => false), (.fneg, fun p => !p)]

/-- Formats of R314 with the number of their sign bit. -/
def signBit : List (Fmt × Nat) := [(.f32, 31), (.bf16, 15), (.f16, 15)]

/-- The class of an encoding (R316) by its sign, exponent and fraction fields: `inf` when the highest exponent with a zero
fraction is an infinity, `nan` when an encoding of the highest exponent with this fraction is a NaN. -/
def classOf (neg : Bool) (ex fr top : Nat) (inf : Bool) (nan : Nat → Bool) : Nat :=
  if ex = top ∧ nan fr then 8 else if ex = top ∧ inf ∧ fr = 0 then (if neg then 0 else 7)
  else if ex = 0 ∧ fr = 0 then (if neg then 3 else 4) else if ex = 0 then (if neg then 2 else 5) else if neg then 1 else 6

/-- Formats of FCLASS with exponent bits, fraction bits, whether they have infinities, and which fractions are NaN (R120). -/
def classed : List (Fmt × Nat × Nat × Bool × (Nat → Bool)) := [
  (.f32, 8, 23, true, (· ≠ 0)), (.bf16, 8, 7, true, (· ≠ 0)), (.f16, 5, 10, true, (· ≠ 0)), (.e4m3, 4, 3, false, (· = 7)),
  (.e5m2, 5, 2, true, (· ≠ 0)), (.e2m1, 2, 1, false, fun _ => false)]

/-- The registers of R264 but the RECT, TILE and GAIT of the launch and the amax registers: what MFS reads of the task. -/
def taskRegisters : List (Nat × (State → Task → Word)) := [
  (0x00, fun _ τ => BitVec.ofNat 32 (τ.ctx * 2 ^ 16 + τ.iter)), (0x01, fun _ τ => BitVec.ofNat 32 τ.ctx),
  (0x02, fun _ τ => BitVec.ofNat 32 τ.iter), (0x03, fun _ τ => BitVec.ofNat 32 τ.hdr.seg),
  (0x04, fun _ τ => BitVec.ofNat 32 τ.w), (0x05, fun s _ => BitVec.ofNat 32 s.occ.b), (0x08, fun _ τ => τ.cx.seq.setWidth 32),
  (0x09, fun _ τ => BitVec.ofNat 32 τ.cx.asid),
  (0x0A, fun _ τ => BitVec.ofNat 32 ((τ.entries.getD 0 noLanes).countP (·.isSome))), (0x0B, fun _ τ => τ.astat.setWidth 32),
  (0x0C, fun _ τ => τ.cx.rmode.setWidth 32), (0x0D, fun s _ => BitVec.ofNat 32 s.cyc),
  (0x0E, fun s _ => BitVec.ofNat 32 (s.cyc / 2 ^ 32)), (0x10, fun _ τ => BitVec.ofNat 32 τ.hdr.pol),
  (0x11, fun _ τ => τ.cx.parent.getD 0xFFFFFFFF), (0x12, fun _ τ => τ.cx.seed.setWidth 32),
  (0x13, fun _ τ => (τ.cx.seed >>> 32).setWidth 32), (0x14, fun _ τ => τ.cx.uvec), (0x15, fun _ τ => τ.cx.fmask)]

/-- The special functions (R217, R322) with their numbers. -/
def specialForms : List ((Src → Target → Instr) × Nat) := [
  (.ex2, 0), (.lg2, 1), (.rcp, 2), (.rsq, 3), (.sqrt, 4), (.sin, 5), (.cos, 6), (.tanh, 7)]

/-- Combinations of R324 that do not depend on rounding. -/
def combinations : List (RedOp × (Word → Word → Word)) := [
  (.fmax, fmax32), (.fmin, fmin32), (.add, fun a b => a + b), (.max, fun a b => if a.slt b then b else a),
  (.min, fun a b => if a.slt b then a else b), (.and, fun a b => a &&& b), (.or, fun a b => a ||| b)]

/-- The serial FP32 sum of R324, each step rounded. -/
def runningSum : Option Word → Lanes → FLanes
  | _, [] => []
  | acc, none :: r => none :: runningSum acc r
  | none, some x :: r => some (x, 0) :: runningSum (some x) r
  | some a, some x :: r => some (add32 a x) :: runningSum (some (add32 a x).1) r

/-- Single inputs of the table of R322: function, input, result and flags. -/
def specialCases : List (Nat × Word × (Word × Astat)) := [
  (0, 0xFF800000, (0, 0)), (0, 0x7F800000, (0x7F800000, 0)), (0, 0x43000000, (0x7F800000, 0x14)), (0, 0x40400000, (0x41000000, 0)),
  (1, 0xBF800000, (0x7FC00000, 0x40)), (1, 0, (0xFF800000, 0x20)), (1, 0x80000000, (0xFF800000, 0x20)),
  (1, 0x7F800000, (0x7F800000, 0)), (1, 0x41000000, (0x40400000, 0)), (2, 0, (0x7F800000, 0x20)), (2, 0x80000000, (0xFF800000, 0x20)),
  (2, 0x7F800000, (0, 0)), (2, 0xFF800000, (0x80000000, 0)), (3, 0xBF800000, (0x7FC00000, 0x40)), (3, 0, (0x7F800000, 0x20)),
  (3, 0x80000000, (0xFF800000, 0x20)), (3, 0x7F800000, (0, 0)), (3, 0x41800000, (0x3E800000, 0)), (4, 0x80000000, (0x80000000, 0)),
  (4, 0xBF800000, (0x7FC00000, 0x40)), (4, 0x7F800000, (0x7F800000, 0)), (7, 0, (0, 0)), (7, 0x80000000, (0x80000000, 0)),
  (7, 0x7F800000, (0x3F800000, 0)), (7, 0xFF800000, (0xBF800000, 0)), (5, 0, (0, 0)), (5, 0x80000000, (0x80000000, 0)),
  (5, 0x7F800000, (0x7FC00000, 0x42)), (5, 0x47800000, (0x7FC00000, 2)), (6, 0, (0x3F800000, 0)), (6, 0x80000000, (0x3F800000, 0)),
  (6, 0x7F800000, (0x7FC00000, 0x42)), (0, 0x7FC00000, (0x7FC00000, 0)), (1, 0x7FC00000, (0x7FC00000, 0)),
  (2, 0x7FC00000, (0x7FC00000, 0)), (3, 0x7FC00000, (0x7FC00000, 0)), (4, 0x7FC00000, (0x7FC00000, 0)),
  (5, 0x7FC00000, (0x7FC00000, 0)), (6, 0x7FC00000, (0x7FC00000, 0)), (7, 0x7FC00000, (0x7FC00000, 0))]

/-- The S-class lane instructions of two sources or one with a value target, for R212's checks of sources and targets. The first list
names the form's sources. -/
def laneForms (a b : Src) (c : Nat) (f : Fmt) (m : Rnd) (sat : Bool) (t : Target) : List (List Src × Instr) :=
  [([a, b], .add a b t), ([a, b], .sub a b t), ([a, b], .mul a b t), ([a, b], .mulh a b t), ([a, b], .mulhu a b t), ([a, b], .div a b t),
   ([a, b], .divu a b t), ([a, b], .rem a b t), ([a, b], .remu a b t), ([a, b], .and a b t), ([a, b], .or a b t), ([a, b], .xor a b t),
   ([a, b], .andn a b t), ([a, b], .shl a b t), ([a, b], .shr a b t), ([a, b], .sra a b t), ([a, b], .rot a b t), ([a, b], .min a b t),
   ([a, b], .max a b t), ([a, b], .minu a b t), ([a, b], .maxu a b t), ([a], .abs a t), ([a], .clz a t), ([a], .ctz a t), ([a], .popc a t),
   ([a], .brev a t), ([a], .sxb a t), ([a], .sxh a t), ([a], .sx4 a t), ([a], .zxb a t), ([a], .zxh a t), ([a], .zx4 a t),
   ([a, b], .bfx a b sat t), ([a, b], .bfi a b c t), ([a, b], .sel a b c t), ([a, b], .lea a b c t), ([a, b], .laff a b t),
   ([a], .lxor a t), ([a], .lvcnt a t), ([a], .lvfst a t)] ++
  [([a, b], .fadd a b f m sat t), ([a, b], .fsub a b f m sat t), ([a, b], .fmul a b f m sat t), ([a, b], .fdiv a b f m sat t),
   ([a, b], .ffma a b m c sat t), ([a, b], .fmin a b t), ([a, b], .fmax a b t), ([a], .fabs a f t), ([a], .fneg a f t),
   ([a, b], .fcpys a b f t), ([a, b], .fcpyn a b f t), ([a, b], .fxsgn a b f t), ([a], .fclass a f t), ([a, b], .fcvt a b f m sat t),
   ([a], .frnd a m t), ([a], .itof a f m sat t), ([a, b], .hadd2 a b f m sat t), ([a, b], .hmul2 a b f m sat t),
   ([a, b], .hfma2 a b m c sat t), ([a], .ex2 a t), ([a], .lg2 a t), ([a], .rcp a t), ([a], .rsq a t), ([a], .sqrt a t), ([a], .sin a t),
   ([a], .cos a t), ([a], .tanh a t), ([a, b], .vdot a b f t), ([a, b], .scmul a b f t), ([a, b], .scacc a b f c sat t),
   ([a], .amax a c t), ([a], .cbdec a f c sat t), ([a, b], .lbc a b t)] ++
  [([a], .lih a c t), ([a], .addi a c t), ([a], .andi a c t), ([a], .ori a c t), ([a], .xori a c t), ([a], .shli a c t),
   ([a], .shri a c t), ([a], .srai a c t), ([a], .cmpeqi a c t), ([a], .cmplti a c t), ([a], .cmpltui a c t)]

/-- Those with a condition, a combination, a mode or a form of their own. -/
def formedLane (a b : Src) (c : Nat) (f : Fmt) (m : Rnd) (sat : Bool) (t : Target) (k : Cond) (fk : FCond) (o : RedOp) (sm : ShufMode) (rf : RngForm)
    (i : IFmt) : List (List Src × Instr) :=
  [([a, b], .cmp a b k t), ([a, b], .fcmp a b f fk t), ([a], .ftoi a i m sat t), ([a], .lred a o t), ([a], .lscan a o t), ([a, b], .shuf a b sm t),
   ([a, b], .rng a b c rf t)]

/-- Every field of a task but those a target can change is the same, and the position is `n` further on. -/
def TaskKept (τ τ' : Task) (n : Nat) : Prop :=
  τ'.tid = τ.tid ∧ τ'.kind = τ.kind ∧ τ'.ctx = τ.ctx ∧ τ'.iter = τ.iter ∧ τ'.rank = τ.rank ∧ τ'.blk = τ.blk ∧ τ'.base = τ.base ∧
  τ'.len = τ.len ∧ τ'.nin = τ.nin ∧ τ'.sup = τ.sup ∧ τ'.pos = τ.pos + n ∧ τ'.w = τ.w ∧ τ'.hdr = τ.hdr ∧ τ'.entries = τ.entries ∧
  τ'.astat = τ.astat ∧ τ'.cx = τ.cx ∧ τ'.gives = τ.gives ∧ τ'.moves = τ.moves ∧ τ'.reserved = τ.reserved ∧ τ'.frec = τ.frec

/-- Only the acting element's task differs between two states: no memory, register, table, frame, operation, unit or other element. -/
def OnlyTask (s t : State) : Prop :=
  { t with pe := s.pe } = s ∧ (∀ k, k ≠ s.occ.a * 9 + s.occ.b → sget t.pe k = sget s.pe k) ∧
  { peAt t s.occ.a s.occ.b with run := (peAt s s.occ.a s.occ.b).run } = peAt s s.occ.a s.occ.b

/-- Every byte of DRAM, of tile SRAM, of probe storage and of reins reads as before. -/
def BytesKept (s t : State) : Prop :=
  ∀ a, mget t.mem.dram a = mget s.mem.dram a ∧ mget t.mem.sram a = mget s.mem.sram a ∧ mget t.mem.probe a = mget s.mem.probe a ∧
    mget t.mem.rein a = mget s.mem.rein a

/-- The lanes that a latch or temporary holds after a write: the new ones where executed, the old ones elsewhere. -/
def Merged (old new result : Lanes) : Prop :=
  ∀ l, l < 32 → laneOf result l = if (laneOf new l).isSome then laneOf new l else laneOf old l

/-- A port target with V = 1, or the discard target; `n` is what the operation carries. -/
def PortOrNone (s : State) (t : Target) (n : Option Nat) : Prop :=
  (t = .discard ∧ n = none) ∨ ∃ k, t = .port k ∧ (portAt s k).isSome ∧ n = some k

/-- A lane executes that uses these operands (R179). -/
def SomeLane (τ : Task) (xs : List Lanes) : Prop := ∃ l, l < 32 ∧ predOk τ l = true ∧ ∀ x ∈ xs, (laneOf x l).isSome

/-- Lanes 0 to n − 1 hold these words and the width has them. -/
def Holds (τ : Task) (x : Lanes) (ws : List Word) : Prop := ws.length ≤ τ.w ∧ ∀ k, k < ws.length → laneOf x k = ws[k]?

/-- R15: the address of a lane: base register plus the signed lane value times the scale. -/
def addr (τ : Task) (base scale : Nat) (v : Word) : Int := ((τ.cx.bases.getD base 0).toNat : Int) + v.toInt * ((4 : Nat) ^ scale : Nat)

/-- Checks 1 and 2 of R30: the bytes lie in the 56-bit space and the address is a multiple of `al`. -/
def VaOk (va : Int) (len al : Nat) : Prop := 0 ≤ va ∧ va + (len : Int) ≤ 2 ^ 56 ∧ va % (al : Int) = 0

/-- The instruction ends in the fault of an address that leaves the 56-bit space or that is no multiple of `al` (R30, R33). -/
def VaFaults (i : Instr) (s : State) (τ : Task) (va : Int) (al : Nat) : Prop :=
  (va < 0 ∨ 2 ^ 56 ≤ va → EndsWith i s τ causeAccess 0x01 (va % 2 ^ 56).toNat) ∧
  (0 ≤ va → va < 2 ^ 56 → va % (al : Int) ≠ 0 → EndsWith i s τ causeAlign 0 (va % 2 ^ 56).toNat)

/-- One lane's access of an operation that is not yet performed. -/
def access (l : Nat) (va : Int) (len data cmp : Nat) : Lane :=
  { lane := l, va := va, len := len, data := data, cmp := cmp, phys := none, rewalked := false, fin := false, res := 0, flt := 0 }

def sizes : List (Size × Nat) := [(.byte, 1), (.half, 2), (.word, 4)]

/-- The operation of an access that issues as it executes is the newest, and the task goes on (R136). -/
def Issues (i : Instr) (s : State) (τ : Task) (o : Op) : Prop :=
  exec i s = .next ({ s with nextId := s.nextId + 1, ops := s.ops ++ [{ o with id := s.nextId }] }.setTask (τ.advance 1))

/-- Steps 2 to 4 of R18 for `len` bytes at an offset of pen `n`: it exists, holds the bytes, and belongs to the address space. -/
def Reaches (s : State) (τ : Task) (n : Nat) (off : Int) (len : Nat) (p : Pen) : Prop :=
  sget s.tab.pens (s.occ.a * 1024 + n) = some p ∧ p.size ≠ 0 ∧ 0 ≤ off ∧ off + (len : Int) ≤ (p.size * 4096 : Nat) ∧
    p.asid = τ.cx.asid

/-- R338: the pen of a command: PADDR a multiple of 4, the bytes reached, and given to the holder earlier in the block. -/
def Given (s : State) (τ : Task) (paddr : Word) (len eng : Nat) : Prop :=
  paddr.toNat % 4 = 0 ∧ (∃ p, Reaches s τ (paddr.toNat / 2 ^ 22) (paddr.toNat % 2 ^ 22 : Nat) len p) ∧
    ∃ g ∈ τ.gives, g.1 = paddr.toNat / 2 ^ 22 ∧ g.2.1 = eng

/-- The block's GIVEs of these pens to this holder are consumed (R290). -/
def consumed (τ : Task) (pens : List Nat) (eng : Nat) : Task := pens.foldl (fun τ n => τ.consume n eng) τ

/-- The operand lanes below W. -/
def below (τ : Task) (x : Lanes) : Lanes := mkLanes (fun l => if l < τ.w then laneOf x l else none)

def bitsOf (w : Word) (lo n : Nat) : Nat := w.toNat / 2 ^ lo % 2 ^ n
/-- Steps 1 to 5 of R18 pass for `len` bytes at an offset of pen `n`, with R54 for the block's earlier GIVEs. -/
def PenOk (s : State) (τ : Task) (n : Nat) (off : Int) (len al : Nat) : Prop :=
  off % (al : Int) = 0 ∧ ∃ p, Reaches s τ n off len p ∧ p.own = false ∧ ∀ g ∈ τ.gives, g.1 ≠ n

/-- The first check of R18 that fails, with its cause and detail. -/
def PenFault (s : State) (τ : Task) (n : Nat) (off : Int) (len al cause detail : Nat) : Prop :=
  (off % (al : Int) ≠ 0 ∧ cause = causeAlign ∧ detail = 0) ∨
  off % (al : Int) = 0 ∧
    (((∀ p, sget s.tab.pens (s.occ.a * 1024 + n) = some p → p.size = 0) ∧ cause = causeAccess ∧ detail = 0x0D) ∨
     ∃ p, sget s.tab.pens (s.occ.a * 1024 + n) = some p ∧ p.size ≠ 0 ∧
      (((off < 0 ∨ (p.size * 4096 : Nat) < off + (len : Int)) ∧ cause = causeAccess ∧ detail = 0x0E) ∨
       (0 ≤ off ∧ off + (len : Int) ≤ (p.size * 4096 : Nat)) ∧
        ((p.asid ≠ τ.cx.asid ∧ cause = causeAccess ∧ detail = 0x0F) ∨
         (p.asid = τ.cx.asid ∧ (p.own = true ∨ ∃ g ∈ τ.gives, g.1 = n) ∧ cause = causeOwnViol ∧ detail = 0))))

/-- R275: the offset of a lane's word in its pen. -/
def wordOff (v : Word) (i : Nat) : Int := ((v.toNat % 2 ^ 22 : Nat) : Int) + 4 * ((BitVec.ofNat 11 i).signExtend 32).toInt

/-- Where that word stands in the package's tile SRAM, under the pen's base. -/
def wordAt (s : State) (p : Pen) (v : Word) (i : Nat) : Nat := s.occ.a * 2 ^ 24 + p.base * 4096 + (wordOff v i).toNat

/-- A trough that the tile's storage plan has and that is configured (R57). -/
def TroughIs (s : State) (n : Nat) (q : Trough) : Prop :=
  n < (planOf s s.occ.a).ntrg ∧ sget s.tab.troughs (s.occ.a * 64 + n) = some q

/-- The slots that a frame holds (R293). -/
def held (s : State) (τ : Task) : List Owned :=
  s.frm.owned.filter (fun x => x.tile == s.occ.a && x.rank == τ.rank && x.ctx == τ.ctx && x.iter == τ.iter)

/-- Lanes below W carry one word. -/
def allLanes (τ : Task) (w : Word) : Lanes := mkLanes (fun l => if l < τ.w then some w else none)

/-- Lane `l` of a vector as a number. -/
def wordOf (x : Lanes) (l : Nat) : Nat := ((laneOf x l).getD 0).toNat

/-- Lanes 0 to n − 1 are valid and below W. -/
def VectorOf (τ : Task) (x : Lanes) (n : Nat) : Prop := n ≤ τ.w ∧ ∀ l, l < n → (laneOf x l).isSome

/-- R298 step 2: a byte length. -/
def LenOk (n : Nat) : Prop := n % 4 = 0 ∧ 4 ≤ n ∧ n ≤ 2 ^ 22

/-- R297, R298 step 5: lane 4 names a launch tile of the launch, or a package. -/
def DestOk (s : State) (τ : Task) (w : Nat) : Prop :=
  w / 2 ^ 19 % 2 = 1 ∨ (w / 2 ^ 9 % 2 ^ 10 = 0 ∧ ∃ l, sget s.sch.launches τ.cx.q = some l ∧ w % 2 ^ 9 % 16 < l.wd ∧ w % 2 ^ 9 / 16 < l.ht)

/-- The issuing tile is a member of the legal subgroup that the descriptor names (R199). -/
def InGroup (s : State) (τ : Task) (d : Nat) : Prop := (ownGroup s τ (d % 2 ^ 16)).isSome

/-- VA of lanes 1 and 2 (R297). -/
def vaOf (x : Lanes) : Nat := wordOf x 1 + wordOf x 2 % 2 ^ 24 * 2 ^ 32

/-- The Dray commands of one operand: their operation, how many bytes of LPEN are checked at issue, and what R297 and R298 ask of the
parameter vector beyond that. -/
def drays : List ((Src → Nat → Target → Instr) × (Nat → OpKind) × (Nat → Nat) × (State → Task → (Nat → Nat) → Prop)) := [
  (.dcopyG2p, .dcopy 0, id, fun _ _ w => LenOk (w 3) ∧ w 2 < 2 ^ 24 ∧ w 4 = 0 ∧ w 5 = 0 ∧ w 6 = 0 ∧ w 7 = 0),
  (.dcopyP2g, .dcopy 1, id, fun _ _ w => LenOk (w 3) ∧ w 2 < 2 ^ 24 ∧ w 4 = 0 ∧ w 5 = 0 ∧ w 6 = 0 ∧ w 7 = 0),
  (.dcopyP2p, .dcopy 2, id, fun s τ w => LenOk (w 3) ∧ w 2 = 0 ∧ w 4 < 2 ^ 20 ∧ DestOk s τ (w 4) ∧ w 5 = 0 ∧ w 6 = 0 ∧ w 7 = 0),
  (.dcopyP2t, .dcopy 3, id, fun s τ w => LenOk (w 3) ∧ w 1 = 0 ∧ w 2 = 0 ∧ w 4 < 2 ^ 26 ∧ DestOk s τ (w 4) ∧ w 5 = 0 ∧ w 6 = 0 ∧ w 7 = 0),
  (.dcopyApp, .dcopy 4, fun _ => 4, fun _ _ w => w 1 < 2 ^ 20 ∧ w 2 < 2 ^ 12 ∧ w 3 < 2 ^ 26 ∧ w 4 = 0 ∧ w 7 = 0),
  (.dhop, .dhop, id, fun s τ w => LenOk (w 3) ∧ w 1 = 0 ∧ w 2 = 0 ∧ w 4 < 2 ^ 28 ∧ DestOk s τ (w 4) ∧ w 5 = 0 ∧ w 6 = 0 ∧ w 7 = 0),
  ((.dbcst · · false ·), (.dbcst · false), id, fun s τ w => LenOk (w 3) ∧ w 2 = 0 ∧ w 4 = 0 ∧ w 5 < 2 ^ 24 ∧ InGroup s τ (w 5) ∧ w 6 = 0 ∧ w 7 = 0),
  ((.dbcst · · true ·), (.dbcst · true), id, fun s τ w =>
    LenOk (w 3) ∧ w 1 = 0 ∧ w 2 = 0 ∧ w 4 < 2 ^ 26 ∧ w 4 % 2 ^ 20 = 0 ∧ w 5 < 2 ^ 24 ∧ InGroup s τ (w 5) ∧ w 6 = 0 ∧ w 7 = 0)]

/-- What a Dray command's LPEN needs: its bytes (R298 step 3), and a GIVE of the block to its channel (step 4). -/
def PenFor (s : State) (τ : Task) (lpen len ch : Nat) : Prop :=
  (∃ p, Reaches s τ (lpen / 2 ^ 22) (lpen % 2 ^ 22 : Nat) len p) ∧ ∃ g ∈ τ.gives, g.1 = lpen / 2 ^ 22 ∧ g.2.1 = ch + 1

/-- The instruction consumes its pens' GIVEs, its operation enters the commit buffer, and the task goes on. -/
def EntersAfter (i : Instr) (s : State) (τ : Task) (pens : List Nat) (eng : Nat) (o : Op) : Prop :=
  exec i s = .next (s.setTask (((consumed τ pens eng).enter o).advance 1))

/-- Bytes that rows of `n` elements of `b` bits touch with a stride, 0 for the dense one (R346). -/
def spanOf (rows n b str : Nat) : Nat := (rows - 1) * (if str = 0 then (n * b + 31) / 32 * 4 else str) + (n * b + 7) / 8

/-- Element widths of A and B of each pair, and the elements of K that one stored element of A holds (R344, R346). -/
def pairs : List (Pair × Nat × Nat × Nat) := [
  (.bf16, 16, 16, 1), (.f16, 16, 16, 1), (.e4e4, 8, 8, 1), (.e4e5, 8, 8, 1), (.e5e4, 8, 8, 1), (.e5e5, 8, 8, 1), (.fp4, 4, 4, 1),
  (.cb2e4, 16, 8, 8), (.cb2bf, 16, 16, 8), (.i8, 8, 8, 1)]

/-- An exponent below 255: neither an infinity nor a NaN. -/
def Finite32 (w : Nat) : Prop := w / 2 ^ 23 % 2 ^ 8 ≠ 255

/-- R187, R189: a destination word for these elements with the SLOT that each admits. -/
def DestFor (elems : List Nat) (w : Nat) : Prop :=
  w % 2 ^ 9 = 0 ∧ (destOfWord w).elem ∈ elems ∧ ((destOfWord w).elem ∈ [1, 2] → (destOfWord w).slot < 4) ∧
    ((destOfWord w).elem = 5 → (destOfWord w).slot < 64)

/-- R258: lanes 0 to 5 are valid, reserved bits are 0, WREQ is 1 to 32, and every base register that BMASK names has its two lanes. -/
def CtxVector (x : Lanes) : Prop :=
  (∀ l, l < 6 → (laneOf x l).isSome) ∧ wordOf x 0 < 2 ^ 12 ∧ wordOf x 0 / 2 ^ 6 % 2 ^ 2 = 0 ∧ 1 ≤ wordOf x 0 % 2 ^ 6 ∧ wordOf x 0 % 2 ^ 6 ≤ 32 ∧
    wordOf x 1 < 2 ^ 16 ∧ wordOf x 4 < 2 ^ 20 ∧ wordOf x 5 < 2 ^ 8 ∧
    ∀ k, k < 8 → wordOf x 5 / 2 ^ k % 2 = 1 → (laneOf x (8 + 2 * k)).isSome ∧ (laneOf x (9 + 2 * k)).isSome

/-- R194, R258: the context that a vector asks for: what the vector gives, and the issuing context's record elsewhere. -/
def AsksFor (s : State) (τ : Task) (x : Lanes) (parent : Option (BitVec 32)) (c : Ctx) : Prop :=
  c = { τ.cx with
    st := .reserved, w := c.w, bases := c.bases, seq := BitVec.ofNat 20 (wordOf x 4),
    seed := BitVec.ofNat 64 (wordOf x 2 + wordOf x 3 * 2 ^ 32), parent := parent, plan := wordOf x 0 / 2 ^ 8 % 2 ^ 4, iter0 := wordOf x 1 } ∧
  c.w = min (wordOf x 0 % 2 ^ 6) (maxW s τ.cx.q) ∧ c.bases.length = 8 ∧
  ∀ k, k < 8 → c.bases.getD k 0 =
    if wordOf x 5 / 2 ^ k % 2 = 1 then BitVec.ofNat 56 (wordOf x (8 + 2 * k) + wordOf x (9 + 2 * k) % 2 ^ 24 * 2 ^ 32) else τ.cx.bases.getD k 0

/-- R264: the special registers that MTS may write. -/
def writable (n : Nat) : Prop := n ∈ [0x08, 0x0B, 0x0C, 0x12, 0x13, 0x14, 0x15] ∨ (0x20 ≤ n ∧ n < 0x30) ∨ (0x40 ≤ n ∧ n < 0x50)

/-- The SYS subforms of one source (R378), with the lanes they need and what their fields must be (R36, R113, R115, R381, R383). -/
def systemForms : List ((Src → Target → Instr) × OpKind × Nat × ((Nat → Nat) → Prop)) := [
  (.mfsr, .mfsr, 1, fun w => w 0 < 2 ^ 8),
  (.tbi, .tbi, 4, fun w => w 0 < 2 ^ 21 ∧ (w 0 / 2 ^ 18 % 2 = 1 ∨ (w 2 < 2 ^ 8 ∧ 1 ≤ w 3 ∧ w 1 + w 2 * 2 ^ 32 + w 3 ≤ 2 ^ 40))),
  (.shinv, .shinv, 4, fun w =>
    w 0 < 2 ^ 22 ∧ (w 0 / 2 ^ 21 % 2 = 1 ∨ (w 1 < 2 ^ 12 ∧ w 2 < 2 ^ 20 ∧ w 3 < 2 ^ 21 ∧ 1 ≤ w 3 ∧ w 2 + w 3 ≤ 2 ^ 20))),
  (.plbc, .plbc, 4, fun w => w 0 < 2 ^ 20 ∧ w 1 < 2 ^ 16 ∧ 1 ≤ w 2 ∧ w 1 + w 2 ≤ 65536 ∧ w 3 = 0),
  (.gait, .gait, 1, fun w => w 0 < 2 ^ 8),
  (.park, .park, 4, fun w => w 1 < 3 ∧ w 3 < 2 ^ 24)]

/-- The instruction answers this next state. -/
def Gives (i : Instr) (s t : State) : Prop := exec i s = .next t

/-- The program of launch `q` has not ended and its launch holds its tiles: it runs, or shrinks or is saved (R384, R396, R399). -/
def Program (s : State) (q : Nat) (l : Launch) : Prop :=
  sget s.sch.launches q = some l ∧ l.ended = false ∧ l.st ∈ [.running, .shrinking, .saving]

/-- The sequencer served this launch last (R396). -/
def served (s : State) (q : Nat) : State := { s with sch := { s.sch with lastSeq := q } }

/-- The same with a new record of the launch. -/
def launchTo (s : State) (q : Nat) (l : Launch) : State := { s with sch := { s.sch with lastSeq := q, launches := sset s.sch.launches q l } }

/-- R385: the program ends with a code and a cause. -/
def endedWith (l : Launch) (code cause : Nat) : Launch := { l with ended := true, code := code, cause := cause, waiting := false }

/-- The flight that has come to its element: the oldest from its source on its way there (R183). -/
def Comes (s : State) (f : Flight) : Prop := s.net.mesh.find? (·.id == s.occ.a) = some f ∧ olderFlight s f = false

/-- R74, R460: the token's context is LIVE in the pool of the launch that the tile serves, the slot belongs to block `blk` and to the
frame's plan, and the frame of the iteration is live, or free and inside the window, which the token then claims. -/
def FrameTakes (s : State) (f : Flight) (x : Ctx) (blk : Nat) (b : Block) (claims : Bool) : Prop :=
  ctxOf s f.tok.hdr.ctx = some x ∧ x.q = sgetD s.tab.owner f.tile 4096 ∧ (x.st = .live ∨ (x.st = .ending ∧ claims = false)) ∧
  blockOfSlot s f.tile f.dest.slot = some (blk, b) ∧ f.dest.slot < 2 ^ (fplanOf s f.tile f.rank f.tok.hdr.ctx).fslog2 ∧
  gate s f.tile f.rank f.tok.hdr.ctx f.tok.hdr.iter = if claims then .claim else .live

/-- A cancel of a live frame clears its block's entries and a task that waits to fire, counts the block and goes on (R184). -/
def cancelled (s : State) (f : Flight) (blk : Nat) (b : Block) : State :=
  let h := f.tok.hdr
  let s2 := clearEntries s f.tile f.rank h.ctx h.iter b
  let stays := fun r : Ready =>
    !(r.tile == f.tile && r.kind == .frame && r.rank == f.rank && r.ctx == h.ctx && r.iter == h.iter && r.blk == blk)
  let s3 := { s2 with
    frm := { s2.frm with ready := s2.frm.ready.filter stays },
    sch := { s2.sch with launches := s2.sch.launches.map (fun p => (p.1, { p.2 with poolWait := p.2.poolWait.filter stays })) } }
  forwardCancel (countBlock s3 f.tile f.rank h.ctx h.iter) f b

/-- One lane of an access performed in its turn, when the turn is the lane's place and nothing goes wrong there (R268). -/
def laneStep (pl : Place) (id : Nat) (acc : Option State) (x : Lane) : Option State :=
  acc.bind fun s =>
    match opById s id, x.phys with
    | some o, some p =>
      if laneOpen o x && placeOf s o p == pl then
        match laneAt pl s o x p with
        | .ok s v => some (setLane s id { x with fin := !(isStore o.kind && v == 1), res := v })
        | _ => none
      else some s
    | _, _ => some s

/-- The operation that the occasion names. -/
def Subject (s : State) (o : Op) : Prop := opById s s.occ.a = some o

/-- The operation that the occasion names with its tile. -/
def TileSubject (s : State) (o : Op) : Prop := opById s s.occ.b = some o

/-- Loads and atomics that answer with one token. -/
def answers : OpKind → Bool
  | .ld _ => true
  | .amo _ => true
  | .cas _ => true
  | .amosc _ => true
  | .amof _ => true
  | _ => false

/-- A finished operation gives its token in state `t` while the output buffer has room for it, and stays with it else (R191). -/
def Responds (i : Instr) (s t : State) (o : Op) (v : Lanes) : Prop :=
  Gives i s (if emitRoom t o v = true then emitOp (dropOp t o.id) o o.elem v (fun h => h) else t)

/-- The operation is no longer admitted. -/
def unadmit (s : State) (id : Nat) : State := { s with syn := { s.syn with admitted := s.syn.admitted.filter (· != id) } }

/-- The admitted operation `id` performs its open SC lane at home and leaves its node in the state `u`; an uncorrectable error fails it; an
operation that is gone, or has no open SC lane, only leaves (R158). -/
def ScStep (s : State) (id : Nat) (u : State) : Prop :=
  let s0 := unadmit s id
  (∀ o x p s1 v, opById s id = some o → scLane s0 o = some (x, p) → homeLane s0 o x p = .ok s1 v →
    u = complete (setLane s1 id { x with fin := true, res := v }) id) ∧
  (∀ o x p s1 a, opById s id = some o → scLane s0 o = some (x, p) → homeLane s0 o x p = .ue s1 a → u = failOp s1 o causeMemUe 0 a) ∧
  ((∀ o, opById s id = some o → scLane s0 o = none) → u = s0)

/-- Operations performed one after another, the first of the list first. -/
def ScRun : List Nat → State → State → Prop
  | [], s, t => t = s
  | id :: r, s, t => ∃ u, ScStep s id u ∧ ScRun r u t

/-- The operation stands ready at an engine with its hitch address `p`, before which no fence holds it. -/
def AtEngine (s : State) (o : Op) (x : Lane) (p : Phys) (r : List Lane) : Prop :=
  Subject s o ∧ o.phase = .ready ∧ o.tid = 0 ∧ fenced s o = false ∧ o.lanes = x :: r ∧ x.phys = some p

/-- An active hitch of this package's memory, of the operation's address space. -/
def HitchAt (s : State) (o : Op) (p : Phys) (h : Hitch) : Prop :=
  hitchPlace p = true ∧ sget s.syn.hitches p.pa = some h ∧ h.asid = o.cx.asid
/-- The channel that its turn names takes this command, whose pen the channel owns (R54, R299). -/
def Commanded (s : State) (o : Op) : Prop :=
  channelHead s s.occ.a s.occ.b = some o ∧ ∃ p, penAt s o.tile (lpen o) = some p ∧ p.own = true ∧ p.eng = s.occ.b + 1 ∧ chanOf o.kind = some s.occ.b

/-- A command's remote write whose turn it is: the `n`-th of the operation's. -/
def RemoteOf (s : State) (o : Op) (r : Remote) : Prop :=
  Subject s o ∧ o.phase = .active ∧ (s.syn.remotes.filter (·.op == o.id))[s.occ.b]? = some r

/-- The event of a command's remote write. -/
def remoteEvent (o : Op) : Instr := match o.kind with
  | .dhop _ => .dhopArrival
  | _ => .remoteDrayWrite

/-- The state with one more remote write to make, its command active. -/
def sending (s : State) (o : Op) (rs : List Remote) : State :=
  let s1 := setOp s { o with phase := .active }
  { s1 with syn := { s1.syn with remotes := s1.syn.remotes ++ rs } }

/-- A broadcast of `o` is under way and the unit `u` has still to act. -/
def CastAt (s : State) (o : Op) (c : Cast) : Prop := Subject s o ∧ o.tid = 0 ∧ castOf s o.id = some c

/-- The broadcast may start: its operation is queued and every earlier store of the context is at home after the write-back. -/
def CastStarts (s : State) (o : Op) : Prop :=
  Subject s o ∧ o.tid = 0 ∧ castOf s o.id = none ∧ o.phase = .queued ∧ storesHome (writeBackAll s o.tile) o = true

/-- A broadcast whose units have all acknowledged gives its status (R39). -/
def castEnds (s : State) (o : Op) (down : Nat) : State :=
  emitOp (dropOp { s with syn := { s.syn with casts := s.syn.casts.filter (·.op != o.id) } } o.id) o 13
    (statusLanes o.w [if down = 0 then 0 else 1, BitVec.ofNat 32 down]) (fun h => h)
/-- The island entry that is applied next on the tile of the turn (R340). -/
def Applies (s : State) (o : Op) : Prop := islandHead s s.occ.a = some o ∧ o.id = s.occ.b

/-- The unit's command whose turn it is: its pens are given to it (R54). -/
def UnitTurn (s : State) (o : Op) : Prop :=
  TileSubject s o ∧ o.tile = s.occ.a ∧ o.phase = .queued ∧ o.tid = 0 ∧ pensGiven s o = true

/-- The rider of a fold can be read and is well formed (R353, R355 step 1). -/
def RiderGood (s : State) (o : Op) (p : Nat) (h : Rider) : Prop :=
  p = wordA o 0 ∧ h = riderAt s o.tile p ∧ penGood s o.tile (penOf p) (offOf p) 64 = true ∧ riderGood h = true ∧
  penReach s o.tile o.cx.asid (penOf p) (offOf p) (riderBytes h) = none ∧ penGood s o.tile (penOf p) (offOf p) (riderBytes h) = true

/-- FFIN of one row of a rider (R357). -/
def finishRow (o : Op) (p : Nat) (h : Rider) (s : State) (r : Nat) : State :=
  let l := riderWord s o.tile p (64 + 16 * r + 4)
  let a := riderAoff h + r * riderDh h * 4
  if l = 0 then
    let s1 := (upto (riderDh h)).foldl (fun s d => setRider s o.tile p (a + 4 * d) 0) s
    setRider s1 o.tile p (64 + 16 * r + 12) (riderWord s1 o.tile p (64 + 16 * r + 12) ||| 1)
  else
    (upto (riderDh h)).foldl (fun s d =>
      let z := div32 (riderWord s o.tile p (a + 4 * d)) l
      orAstat (setRider s o.tile p (a + 4 * d) z.1) o.tile o.rank o.ctx z.2) s

/-- A row of a unit with the segment `t` put in its place. -/
def withSegment (r : Row) (t : Token) : Row := { r with segs := sset r.segs t.hdr.seg t }

/-- The lanes of an edge's words, in lane order (R234). -/
def edgeLanes (v : Lanes) (n : Nat) : List (Nat × Word) := (upto (min 32 n)).filterMap (fun k => (laneOf v k).map (fun w => (k, w)))
/-- The record of a task's LAUNCH that is taken now: its entry is ready, and its context's stores are performed at home once the tile's
lines are written back (R262). -/
def HandsOver (s : State) (o : Op) : Prop :=
  s.occ.a ≠ 0 ∧ Subject s o ∧ o.kind = .launch ∧ o.tid = 0 ∧ o.phase = .queued ∧ storesHome (writeBackAll s o.tile) o = true

/-- The launch of the occasion. -/
def TheLaunch (s : State) (l : Launch) : Prop := sget s.sch.launches s.occ.a = some l

/-- A tile is freed: it is no launch's, it fires again, and its outgoing entries but those of the groom core are gone (R394). -/
def freedTile (s : State) (tile : Nat) : State :=
  { s with
    tab := { s.tab with owner := sdel s.tab.owner tile, ltiles := sdel s.tab.ltiles tile, cfgAt := sdel s.tab.cfgAt tile },
    frm := { s.frm with frozen := s.frm.frozen.filter (· != tile) },
    sch := { s.sch with busy := sdel s.sch.busy tile, left := sdel s.sch.left tile },
    net := { s.net with outs := s.net.outs.filter (fun e => !(e.tile == tile && e.elem != 8)) } }

/-- The order of waiting records (R390): class, then stamp, then queue index. -/
def Precedes (a b : Nat × Launch) : Prop :=
  a.2.cls < b.2.cls ∨ a.2.cls = b.2.cls ∧ (a.2.stamp < b.2.stamp ∨ a.2.stamp = b.2.stamp ∧ a.1 < b.1)

/-- The head of the waiting records: one that no other precedes. -/
def Head (s : State) (q : Nat) (l : Launch) : Prop := ∃ r, waitingRecords s = (q, l) :: r

/-- A launch that takes its first grant (R391, R396). -/
def firstGrant (s : State) (l : Launch) (o : Nat × Nat) (pool : Nat) : Launch :=
  { l with st := .running, x0 := o.1, y0 := o.2, gait := 0, gx := o.1, gy := o.2, gw := l.wd, gh := l.ht, route := [], pool := pool, first := pool,
           granted := s.cyc, tgrant := s.cyc, commitAt := s.cyc, grow := none }
/-- No tile of the quadrant runs, is runnable or has an engine command outstanding, and no token is in flight to it (R452). -/
def QuadrantQuiet (s : State) (quad : Nat) : Prop :=
  (∀ t ∈ quadTiles quad, tileResting s t = true ∧ ∀ p ∈ s.ops, p.tile = t → isEngine p.kind = true → stopped p = true) ∧
  ∀ f ∈ s.net.mesh, quadOf f.tile ≠ quad

/-- A device register block's register (R95). -/
def devicePa (s : State) : Nat := 0x018000000000 + s.occ.a % 0x400000000
/-- A queue pair that is set up on a port that is up, while the port serves the host (R437, R446, R452). -/
def InForce (s : State) (qp : Nat) (p : Qp) : Prop :=
  s.dev.up = true ∧ s.dev.p3 = false ∧ sget s.host.qps qp = some p ∧ p.err = false ∧ p.port ∉ s.dev.portsDown

/-- A LAUNCH of the pair awaits its queue entry, or a token of a TOKENS message its destination (R389, R442, R444). -/
def Busy (s : State) (qp : Nat) : Prop := (∃ m ∈ s.sch.intake, msgQp m.2 = qp) ∨ ∃ t ∈ s.host.tokens, t.1 = qp

/-- A message of the queue pair is taken now: the pair is in force and no earlier message of it waits (R442, R443). -/
def TakenOn (s : State) (qp : Nat) (p : Qp) : Prop := InForce s qp p ∧ ¬ Busy s qp ∧ ∀ w ∈ s.host.waits, w.1 ≠ qp

/-- The header of a SEND of this many bytes has this TYPE, VER 0x01, no reserved bit and the LEN of the SEND (R439). -/
def Framed (hd : BitVec 192) (sent typ : Nat) : Prop :=
  hd.toNat % 2 ^ 8 = typ ∧ hd.toNat / 2 ^ 8 % 2 ^ 8 = 1 ∧ hd.toNat / 2 ^ 48 % 2 ^ 16 = 0 ∧ hd.toNat / 2 ^ 160 % 2 ^ 32 = 0 ∧
    hd.toNat / 2 ^ 16 % 2 ^ 16 + 24 = sent

/-- The port accepts a SEND of this many bytes (R437). -/
def Fits (sent : Nat) : Prop := 24 ≤ sent ∧ sent ≤ 65536

/-- A SEND of the port's bound with the header of its TYPE. -/
def WellSent (hd : BitVec 192) (sent typ : Nat) : Prop := Framed hd sent typ ∧ sent ≤ 65536

/-- A NAK of invalid request goes to the host (R437). -/
def nakked (s : State) (qp : Nat) : State := { s with host := { s.host with replies := s.host.replies ++ [.nak qp true] } }

/-- The messages of a TYPE on a queue pair (R441, R455). -/
def Message (qp : Nat) (hd : BitVec 192) (sent typ : Nat) (i : Instr) : Prop :=
  (typ = 1 ∧ ∃ rva, i = .sttLaunch qp hd sent rva) ∨ (typ = 2 ∧ ∃ ws, i = .sttTokens qp hd sent ws) ∨
  (typ = 3 ∧ ((∃ n asid va len r w, i = .mrreg qp hd sent n asid va len r w) ∨ (∃ n, i = .mrdereg qp hd sent n) ∨
    (∃ q k, i = .ctrlPreempt qp hd sent q k) ∨ (∃ asid ctx, i = .ctrlHalt qp hd sent asid ctx) ∨ ∃ ws, i = .ctrlFwd qp hd sent ws)) ∨
  (typ = 4 ∧ (i ∈ [.getVersion qp hd sent, .getCapabilities qp hd sent, .negotiateAlgorithms qp hd sent, .getDigests qp hd sent,
    .getCertificate qp hd sent, .challenge qp hd sent, .getMeasurements qp hd sent, .keyExchange qp hd sent, .finish qp hd sent,
    .spdmUnsupportedRequest qp hd sent] ∨ ∃ level, i = .debugUnlock qp hd sent level))

/-- The message waits behind those of its queue pair. -/
def waiting (s : State) (qp : Nat) (i : Instr) : State := { s with host := { s.host with waits := s.host.waits ++ [(qp, i)] } }

/-- The completion that answers a host message (R440, R442). -/
def answered (s : State) (qp : Nat) (hd : BitVec 192) (sent kind val : Nat) : State := answerHost s (qp, sttHeader hd sent) kind val []

/-- The reply that carries an attestation response. -/
def attested (s : State) (qp : Nat) (hd : BitVec 192) (sent : Nat) (content : Attested) (first : List Word) : State :=
  attestWith s qp (sttHeader hd sent) content first

/-- The requests of R455 that leave the security processor as it is, and whose response the spec does not give. -/
def spdmPlain : List (Nat → BitVec 192 → Nat → Instr) :=
  [.getVersion, .getCapabilities, .negotiateAlgorithms, .getDigests, .getCertificate, .challenge]

/-- A CTRL operation on an ADMIN queue pair ends with a status and a state; on a USER pair it has status 0x09 and does nothing (R441). -/
def CtrlActs (i : Instr) (s : State) (qp : Nat) (hd : BitVec 192) (sent : Nat) (p : Qp) (t : State) (status : Nat) : Prop :=
  (p.admin = true → Gives i s (answered t qp hd sent 4 status)) ∧ (p.admin = false → Gives i s (answered s qp hd sent 4 0x09))
/-- A fault of a frame in force: the frame is parked, the fault queued with it and its record written (R402). -/
def parkedWith (s : State) (tile : Nat) (r : FaultRec) : State :=
  writeRecord (enqueueFault (parkFrame s tile r.rank r.ctx r.iter false) tile r) tile r.rank r.ctx r.iter false

/-- The pending fault that the occasion names, and that may be delivered now (R405, R408). -/
def MayDeliver (s : State) (p : Pending) : Prop :=
  (s.flt.pending.filter (·.tile == s.occ.a))[s.occ.b]? = some p ∧ deliverable s s.occ.a s.occ.b p = true

/-- The state without a pending fault. -/
def withoutPending (s : State) (p : Pending) : State := { s with flt := { s.flt with pending := s.flt.pending.erase p } }

/-- The operation acts on the parked frame of its current record, with status 0 (R370, R373). -/
def Answers (s : State) (o : Op) (r : FaultRec) (tile rank : Nat) : Prop :=
  handlerStatus s o = 0 ∧ currentRecord s o = some r ∧ recordTile s o = some (tile, rank)

/-! Hitches (R143 to R146, R151, R286). -/

/-- R145: neither the head of a hitch's queue nor, where the queue is empty, a request of kind `k` may be granted. -/
def Blocked (h : Hitch) (k : HKind) : Prop :=
  h.excl ≠ none ∨ (∃ r rest, h.fifo = r :: rest ∧ r.kind = .x ∧ h.shared ≠ []) ∨ (h.fifo = [] ∧ k = .x ∧ h.shared ≠ [])

/-- R145: a hitch after a grant. A passing request leaves no hold. -/
def grantedHitch (h : Hitch) (k : HKind) (c : Nat) : Hitch :=
  { h with gseq := h.gseq + 1, excl := if k = .x then some c else h.excl, shared := if k = .s then h.shared ++ [c] else h.shared }

/-- The request stands last in its hitch's queue. -/
def joined (s : State) (o : Op) (p : Phys) (h : Hitch) (k : HKind) : State :=
  setOp (setHitch s p.pa { h with fifo := h.fifo ++ [{ op := o.id, ctx := o.ctx, kind := k }] }) { o with phase := .active }

/-- The answer to a request: ABN and whether it is granted, and GSEQ (R145, R151). -/
def grantToken (w : Nat) (h : Hitch) (granted n : Word) : Lanes := statusLanes w [(if h.abn then 1 else 0) + granted, n]

/-- An operation that is done leaves with its token, or waits for room (R191). -/
def left (s : State) (o : Op) : State :=
  if emitRoom s o o.a = true then emitOp (dropOp s o.id) o o.elem o.a (fun h => h) else setOp s { o with phase := .done }

/-- R145, R151: what becomes of a request at an active hitch: a HACQ waits its turn or is granted, and a HTRY is granted or refused at once. A passing
grant of a hitch that has nothing left makes it inactive (R143). Requests at the head that can be granted together are. -/
def HitchRequests : Prop :=
  (∀ (s : State) (o : Op) (p : Phys) (h : Hitch) (k : HKind), HitchAt s o p h → k = .p ∨ holds h o.ctx = false →
    (8192 ≤ engineWaits s p.pa → requestAt s o p k false = s) ∧
    (Blocked h k → (engineWaits s p.pa < 8192 → requestAt s o p k false = joined s o p h k) ∧
      requestAt s o p k true = answerOp s o.id (grantToken o.w h 0 h.gseq) false) ∧
    (¬ Blocked h k → h.fifo = [] → opById s o.id = some o →
      let g := grantedHitch h k o.ctx
      let token := grantToken o.w h 2 (h.gseq + 1)
      let t := answerOp (setHitch (joined s o p h k) p.pa g) o.id token true
      (k ≠ .p → (engineWaits s p.pa < 8192 → requestAt s o p k false = t) ∧
        requestAt s o p k true = answerOp (setHitch s p.pa g) o.id token true) ∧
      (k = .p → engineWaits s p.pa < 8192 →
        (h.shared ≠ [] ∨ h.regions ≠ [] → requestAt s o p k false = t) ∧
        (h.shared = [] → h.regions = [] → requestAt s o p k false =
          homeWrite { t with syn := { t.syn with hitches := sdel t.syn.hitches p.pa } } h.enc p.pa 64
            ((if h.abn then 2 ^ 62 else 0) + (h.gseq + 1).toNat))))) ∧
  (∀ (s : State) (pa : Nat) (h : Hitch) (a b : HReq) (oa ob : Op), sget s.syn.hitches pa = some h → h.excl = none → h.fifo = [a, b] →
    a.kind = .s → b.kind = .s → a.op ≠ b.op → opById s a.op = some oa → opById s b.op = some ob →
    let h1 := { h with gseq := h.gseq + 1, shared := h.shared ++ [a.ctx], fifo := [b] }
    let h2 := { h1 with gseq := h1.gseq + 1, shared := h1.shared ++ [b.ctx], fifo := [] }
    settleHitch s pa = answerOp (setHitch (answerOp (setHitch s pa h1) a.op (grantToken oa.w h 2 h1.gseq) true) pa h2) b.op
      (grantToken ob.w h 2 h2.gseq) true) ∧
  ∀ (s : State) (id : Nat) (o : Op) (v : Lanes) (g : Bool), opById s id = some o →
    answerOp s id v g = setOp s { o with phase := .done, out := v, n := if g then 1 else 2 }

/-- R143: the first request makes a hitch active from the image at home, or faults; a hitch with nothing left writes its image back. A fault at the
engine leaves no hitch active that was not. -/
def HitchLives : Prop :=
  (∀ (s : State) (p : Phys) (asid : Nat), sget s.syn.hitches p.pa = none →
    let near := (s.syn.hitches.filter (fun x => controller s x.1 == controller s p.pa)).length
    (homeRead s p.enc p.pa 64 = none → activate s p asid = .error (causeMemUe, 0)) ∧
    ∀ v, homeRead s p.enc p.pa 64 = some v →
      (¬ (v < 2 ^ 63 ∧ v % 2 ^ 62 < 2 ^ 32) → activate s p asid = .error (causeHitch, 0x0B)) ∧
      (v < 2 ^ 63 → v % 2 ^ 62 < 2 ^ 32 → (4096 ≤ near → activate s p asid = .error (causeHitch, 0x09)) ∧
        (near < 4096 →
          let h : Hitch := { excl := none, shared := [], abn := decide (2 ^ 62 ≤ v), gseq := BitVec.ofNat 32 v, asid := asid, enc := p.enc, fifo := [], regions := [] }
          activate s p asid = .ok (setHitch s p.pa h, h)))) ∧
  (∀ (s : State) (o : Op) (p : Phys),
    let faults := fun u e => (∀ k t, requestAt s o p k t = hitchFault u o p.pa e) ∧ ∀ x, bindAt s o p x true = hitchFault u o p.pa e
    (hitchPlace p = false → faults s (causeHitch, 0x01) ∧ ∀ x, bindAt s o p x false = hitchFault s o p.pa (causeHitch, 0x01)) ∧
    (hitchPlace p = true →
      (sget s.syn.hitches p.pa = none → let s1 := correctAt s p.pa 64
        (∀ e, activate s1 p o.cx.asid = .error e → faults s1 e) ∧
        (∀ s2 h, activate s1 p o.cx.asid = .ok (s2, h) →
          (∀ k t, requestAt s o p k t = requestAt s2 o p k t) ∧ ∀ x, bindAt s o p x true = bindAt s2 o p x true) ∧
        ∀ x, bindAt s o p x false = hitchFault s o p.pa (causeHitch, 0x0A)) ∧
      ∀ h, sget s.syn.hitches p.pa = some h → h.asid ≠ o.cx.asid →
        faults s (causeHitch, 0x02) ∧ ∀ x, bindAt s o p x false = hitchFault s o p.pa (causeHitch, 0x02))) ∧
  (∀ (s : State) (pa : Nat) (h : Hitch), sget s.syn.hitches pa = some h →
    (h.excl = none → h.shared = [] → h.fifo = [] → h.regions = [] → deactivate s pa =
      homeWrite { s with syn := { s.syn with hitches := sdel s.syn.hitches pa } } h.enc pa 64 ((if h.abn then 2 ^ 62 else 0) + h.gseq.toNat)) ∧
    (h.excl ≠ none ∨ h.shared ≠ [] ∨ h.fifo ≠ [] ∨ h.regions ≠ [] → deactivate s pa = s)) ∧
  ∀ (s : State) (o : Op) (pa : Nat) (e : Nat × Nat), e.1 ≠ causeMemUe →
    hitchFault s o pa e = failOp (deactivate s pa) o e.1 e.2 ((o.lanes.head?.map (fun x => x.va.toNat)).getD 0)

/-- R144, R152, R286: HBIND and HUNB at an active hitch: the hitch is held exclusive, the region is whole lines of one chunk of normal memory that no
bound region overlaps, or is one that is bound. -/
def HitchBindings : Prop :=
  ∀ (s : State) (o : Op) (p : Phys) (h : Hitch) (x : Lane), HitchAt s o p h →
    let va := (o.lanes.head?.map (fun y => y.va.toNat)).getD 0
    (h.excl ≠ some o.ctx → ∀ b, bindAt s o p x b = hitchFault s o p.pa (causeHitch, 0x0A)) ∧
    (h.excl = some o.ctx →
      (x.va % 128 ≠ 0 ∨ 4096 < x.va.toNat % 4096 + x.len → ∀ b, bindAt s o p x b = failOp s o causeHitch 0x05 va) ∧
      (x.va % 128 = 0 → x.va.toNat % 4096 + x.len ≤ 4096 →
        (x.flt ≠ 0 → x.flt / 256 ≠ causeHitch → ∀ b, bindAt s o p x b = failOp s o (x.flt / 256) (x.flt % 256) x.va.toNat) ∧
        ∀ q, x.flt = 0 → x.phys = some q →
          (q.mt ≠ 0 → ∀ b, bindAt s o p x b = failOp s o causeHitch 0x05 va) ∧
          (q.mt = 0 →
            let r := (q.pa, x.len)
            let all := (s.syn.hitches.map (fun y => y.2.regions)).flatten
            let meets := ∃ t ∈ all, t.1 < q.pa + x.len ∧ q.pa < t.1 + t.2
            let index := (all.filter (fun t => controller s t.1 == controller s q.pa)).length
            (meets → bindAt s o p x true = hitchFault s o p.pa (causeHitch, 0x06)) ∧
            (¬ meets → 16 ≤ h.regions.length → bindAt s o p x true = hitchFault s o p.pa (causeHitch, 0x07)) ∧
            (¬ meets → h.regions.length < 16 → 16384 ≤ index → bindAt s o p x true = hitchFault s o p.pa (causeHitch, 0x09)) ∧
            (¬ meets → h.regions.length < 16 → index < 16384 →
              bindAt s o p x true = left (setHitch s p.pa { h with regions := h.regions ++ [r] }) o) ∧
            (r ∈ h.regions → bindAt s o p x false = left (setHitch s p.pa { h with regions := h.regions.filter (· != r) }) o) ∧
            (r ∉ h.regions → bindAt s o p x false = hitchFault s o p.pa (causeHitch, 0x08)))))

/-! Tokens that a frame store does not take (R74, R193, R460). -/

/-- R74: what the window decides of an iteration. -/
def GateDecides : Prop :=
  ∀ (s : State) (tile rank c i : Nat), let w := windowOf s tile rank c
    let n := 2 ^ (fplanOf s tile rank c).flog2
    (w.low + n ≤ i → gate s tile rank c i = .wait) ∧ (i < w.low → gate s tile rank c i = .late) ∧
    (w.low ≤ i → i < w.low + n →
      (sget w.pos (i % n) = none → gate s tile rank c i = .claim) ∧
      ∀ p, sget w.pos (i % n) = some p → p.it = i → gate s tile rank c i = if p.rt = true then .late else if p.lv = true then .live else .claim)

/-- R74, R193, R460: a token or a cancel of a context that the tile does not serve, for a slot that no valid block of the frame has, outside the window,
late, and one that would claim a frame of an ENDING context. -/
def TokensTurnedAway : Prop :=
  ∀ (s : State) (f : Flight) (i : Instr), Comes s f → f.dest.elem = 0 →
    (f.tok.hdr.can = false ∧ i = .tokenArrival) ∨ (f.tok.hdr.can = true ∧ i = .cancelTokenArrival ∧ ∀ c ∈ s.frm.cancels, c.id ≠ s.occ.a) →
    let h := f.tok.hdr
    let served := fun x : Ctx => x.q = sgetD s.tab.owner f.tile 4096 ∧ (x.st = .live ∨ x.st = .ending)
    ((∀ x, ctxOf s h.ctx = some x → ¬ served x) →
      (pendingCount s f.tile < 1024 → Gives i s
        (enqueueFault (acceptFlight s f) f.tile (bareRecord (ltileOf s f.tile f.rank) causeDuptag 0x01 (tagWord h)))) ∧
      (1024 ≤ pendingCount s f.tile → Gives i s (refuseFlight s f))) ∧
    ∀ x, ctxOf s h.ctx = some x → served x →
      let dropped := count (acceptFlight s f) 4 f.tile
      (blockOfSlot s f.tile f.dest.slot = none → Gives i s dropped) ∧
      ∀ blk b, blockOfSlot s f.tile f.dest.slot = some (blk, b) → let n := 2 ^ (fplanOf s f.tile f.rank h.ctx).fslog2
        (n ≤ f.dest.slot ∨ (h.can = true ∧ f.dest.slot ≠ b.slot0) → Gives i s dropped) ∧
        (f.dest.slot < n → (h.can = true → f.dest.slot = b.slot0) → let g := gate s f.tile f.rank h.ctx h.iter
          (g = .wait → Gives i s (refuseFlight s f)) ∧
          (g = .late ∨ (g = .claim ∧ x.st = .ending) →
            let s1 := acceptFlight s f
            (faultRoom s f.tile f.rank h.ctx (windowOf s f.tile f.rank h.ctx).low = true → Gives i s
              (raiseFrame s1 f.tile f.rank h.ctx (windowOf s1 f.tile f.rank h.ctx).low causeDuptag 0x01 (tagWord h))) ∧
            (faultRoom s f.tile f.rank h.ctx (windowOf s f.tile f.rank h.ctx).low = false → Gives i s (refuseFlight s f))))

/-! Words that the DRAM scrubber finds (R90). -/

/-- One word of a block of 64 bytes: one with an uncorrectable error is counted and enters its controller's list, or, where that is full, is reported to
the supervisor. -/
def scrubbed (block : Nat) (s : State) (w : Nat) : State :=
  if sget s.mem.latent w = none then s
  else
    let s1 := count s 3 (controller s block)
    if (s1.mem.badWords.filter (fun p => controller s1 (p.1 * 8) == controller s1 block)).length < 256 then
      { s1 with mem := { s1.mem with latent := sdel s1.mem.latent w, badWords := sset s1.mem.badWords w () } }
    else frameless s1 (quadTile0 (controller s1 block / 3)) causeMemUe 0 (w * 8)

/-! Units (R346 to R348, R350, R352, R354 to R356). -/

/-- The value of FP32 that a number rounds to. -/
def rounded (x : Machine.Num × Astat) : Word := BitVec.ofNat 32 (roundOf fpF32 .rne false x).1

/-- R347, R348: an element of an MMA's result is its accumulator with the sums of its blocks added one after another, each scaled by A's scale and then
by B's where there are scales; with CH an element of A is one of the source tile rounded to A's format. -/
def Products : Prop :=
  ∀ (s : State) (o : Op) (f : MmaForm) (pr : Pair) (ta tb chn : Bool) (i j : Nat),
    let a := fun k => if chn then chainA s o f pr ta i k else elemA s o f pr ta i k
    let sum := fun blk => ((treeSum (Nat.log2 f.kb) ((List.range f.kb).map (fun t =>
      some (product32 (a (blk * f.kb + t)) (elemB s o f pr tb (blk * f.kb + t) j))))).getD (0, 0)).1
    let by_ := fun v k => rounded (numMul (num32 v) (scaleAt s o f k).1)
    let term := fun blk => if f.sc = true then by_ (by_ (sum blk) (i * (f.k / f.kb) + blk)) (f.m * (f.k / f.kb) + j * (f.k / f.kb) + blk) else sum blk
    (mmaElem s o f pr ta tb chn i j).1 = (List.range (f.k / f.kb)).foldl (fun acc blk => (add32 acc (term blk)).1) (accAt s o.tile f.acc i j) ∧
    ∀ k fa, (pairFmts pr).1 = some fa →
      let mode := if f.crs then RMode.rs (islandDraw s o i k false / 2 ^ 8) else .rne
      let v := if ta then accAt s o.tile f.csrc k i else accAt s o.tile f.csrc i k
      (chainA s o f pr ta i k).1 = (readNum fa ((fmtFp fa).round mode true (num32 v)).1).1

/-- R350, R352: an element drained: its bias, its activation and its rounding, in this order. -/
def Drains : Prop :=
  (∀ (s : State) (tile : Nat) (x : Word),
    let u := (mul32 (sub32 x (sgetD s.isl.alo tile 0)).1 (sgetD s.isl.ainv tile 0)).1
    let e := sgetD s.isl.act (tile * 256 + actIndex u) (0, 0)
    ((num32 x).isNan = true → activation s tile x = (0x7FC00000, 0)) ∧
    ((num32 x).isNan = false → (activation s tile x).1 = (fma32 e.1 x e.2).1)) ∧
  (∀ u : Word, ((num32 u).isNan = true → actIndex u = 0) ∧
    (∀ neg, num32 u = .inf neg → actIndex u = if neg = true then 0 else 255) ∧
    ∀ neg m e st, num32 u = .fin neg m e st → actIndex u = if neg = true then 0 else min 255 (m * 2 ^ e.toNat / 2 ^ (-e).toNat)) ∧
  ∀ (s : State) (o : Op) (bias act rq : Bool) (i j : Nat),
    let v := accAt s o.tile (accOf o) i j
    let b := (biased s o bias i j).1
    let y := if act then (activation s o.tile b).1 else b
    b = (if bias then (add32 v (penWord s o.tile (penOf (wordA o 5)) (offOf (wordA o 5) + 4 * j))).1 else v) ∧
    (drainElem s o bias act rq i j).1 = y ∧
    (rq = false → (drainElem s o bias act rq i j).2.1 = y.toNat) ∧
    (rq = true → (drainElem s o bias act rq i j).2.1 = ((fmtFp (outFmt (bits (wordA o 2) 0 4))).round (drainMode s o i j) (bit (wordA o 2) 7)
      (num32 (mul32 y (BitVec.ofNat 32 (wordA o 3))).1)).1)

/-- One row of a rider folded with a bale (R356). -/
def foldedRow (o : Op) (h : Rider) (x : BaleEntry) (raw : Nat) (s : State) (r : Nat) : State :=
  let p := wordA o 0
  let a := riderAoff h + r * riderDh h * 4
  let z := foldRow h x raw (queryRow s o.tile p h r) ((riderWord s o.tile p (64 + 16 * r + 8)).toNat % 2 ^ 26)
    { m := riderWord s o.tile p (64 + 16 * r), l := riderWord s o.tile p (64 + 16 * r + 4),
      acc := (List.range (riderDh h)).map (fun d => riderWord s o.tile p (a + 4 * d)), flags := 0 }
  let s1 := setRider (setRider s o.tile p (64 + 16 * r) z.m) o.tile p (64 + 16 * r + 4) z.l
  orAstat ((List.range (riderDh h)).foldl (fun s d => setRider s o.tile p (a + 4 * d) (z.acc.getD d 0)) s1) o.tile o.rank o.ctx z.flags

/-- R354 to R356: what is visible, a key's score, a row's new state, and a rider's rows and header. That the keys of positions at or above FILL take no
part is R97's. -/
def Folds : Prop :=
  (∀ (h : Rider) (q p : Nat), let mpol := bits (h.getD 1 0) 28 2
    visible h q p = true ↔ p < h.getD 4 0 ∧ (mpol = 0 ∨ p ≤ q ∧ (mpol = 1 ∨ q < p + h.getD 5 0))) ∧
  (∀ (h : Rider) (x : BaleEntry) (raw : Nat) (q : List (Machine.Num × Astat)) (qpos j : Nat),
    (visible h qpos (64 * x.bidx + j) = false → (score h x raw q qpos j).1 = 0xFF800000) ∧
    (visible h qpos (64 * x.bidx + j) = true → (score h x raw q qpos j).1 =
      (mul32 ((treeSum 8 ((List.range (seqDh x.sent)).map (fun d => some (product32 (q.getD d (.nan, 0)) (baleElem raw x.sent 0 j d))))).getD (0, 0)).1
        (BitVec.ofNat 32 (bits x.entry 64 32))).1)) ∧
  (∀ (h : Rider) (x : BaleEntry) (raw : Nat) (q : List (Machine.Num × Astat)) (qpos : Nat) (r : FoldRow),
    let keys := List.range (min 64 (baleFill x.entry))
    let sc := fun j => (score h x raw q qpos j).1
    let m' := keys.foldl (fun m j => fmax32 m (sc j)) r.m
    let t := foldRow h x raw q qpos r
    (m' = 0xFF800000 → t.m = r.m ∧ t.l = r.l ∧ t.acc = r.acc) ∧
    (m' ≠ 0xFF800000 →
      let alpha := (ex2 (sub32 r.m m').1).1
      let p := fun j => (ex2 (sub32 (sc j) m').1).1
      let v := fun j d => rounded (numMul (baleElem raw x.sent 1 j d).1 (num32 (BitVec.ofNat 32 (bits x.entry 96 32))))
      t.m = m' ∧ t.l = keys.foldl (fun l j => (add32 l (p j)).1) (mul32 alpha r.l).1 ∧ t.acc.length = r.acc.length ∧
      ∀ d, d < r.acc.length → t.acc.getD d 0 = keys.foldl (fun a j => (add32 a (mul32 (p j) (v j d)).1).1) (mul32 alpha (r.acc.getD d 0)).1)) ∧
  ∀ (s : State) (o : Op) (h : Rider) (x : BaleEntry) (rp raw : Nat), let p := wordA o 0
    let s1 := (List.range (riderNq h)).foldl (foldedRow o h x raw) s
    let s2 := setRider s1 o.tile p 4 (BitVec.ofNat 32 (h.getD 1 0 % 2 ^ 31 + 2 ^ 31))
    let s3 := setRider s2 o.tile p 8 (BitVec.ofNat 32 (x.bidx + bits x.entry 43 9 * 2 ^ 20))
    foldRider s o h x rp raw = setRider s3 o.tile p 12 (BitVec.ofNat 32 rp)

/-! Rows (R359, R360, R362, R363). -/

/-- A value of each element of a row. -/
def eachElement (x : RowLanes) (f : Word → Word) : RowLanes := x.map (fun v => v.map (fun w => w.map f))

/-- The tree over the lanes of a segment. -/
def segmentSum (v : Lanes) : Option (Word × Astat) := treeSum 5 (v.map (fun w => w.map (fun y => (y, 0))))

/-- R360: sums, statistics and outputs of a normaliser row. -/
def RowStatistics : Prop :=
  (∀ v : Lanes, (segsum [v]).1 = ((segmentSum v).getD (0, 0)).1) ∧
  (∀ (x : RowLanes) (v : Lanes) (a : Word × Astat), (∃ u ∈ x, (segmentSum u).isSome = true) → segmentSum v = some a →
    (segsum (x ++ [v])).1 = (add32 (segsum x).1 a.1).1) ∧
  (∀ x : RowLanes, let ws := (x.flatten).filterMap id
    (ws = [] → softmaxRow x = (x, 0)) ∧
    ∀ w r, ws = w :: r → let m := r.foldl fmax32 w
      (m = 0xFF800000 → (softmaxRow x).1 = eachElement x (fun _ => 0)) ∧
      ((num32 m).isNan = true → (softmaxRow x).1 = eachElement x (fun y => if y = 0xFF800000 then 0 else 0x7FC00000)) ∧
      (m ≠ 0xFF800000 → (num32 m).isNan = false →
        let e := eachElement x (fun y => (ex2 (sub32 y m).1).1)
        (softmaxRow x).1 = eachElement e (fun y => (div32 y (segsum e).1).1))) ∧
  ∀ (x : RowLanes) (eps : Word), let n := wordOfNat (x.flatten.filterMap id).length
    let root := fun y => (sfu 3 (add32 (div32 (segsum (eachElement y (fun w => (mul32 w w).1))).1 n).1 eps).1).1
    let mu := (div32 (segsum x).1 n).1
    let d := eachElement x (fun w => (sub32 w mu).1)
    (rmsRow x eps).1 = eachElement x (fun w => (mul32 w (root x)).1) ∧ (layerRow x eps).1 = eachElement d (fun w => (mul32 w (root d)).1)

/-- R363: TAP_ORDER, the probes, and the steering of a complete row at the bridle unit. -/
def BridleRows : Prop :=
  (∀ (s : State) (r : Row), (∃ p ∈ r.segs, p.2.hdr.nrm ≠ (r.conf.mode == 1)) → finishBridle s r = raiseRow s r causeTapOrder 0 r.sel) ∧
  (∀ (s : State) (r : Row), (∀ p ∈ r.segs, p.2.hdr.nrm = (r.conf.mode == 1)) →
    ∃ mask flags, (∀ k, mask.testBit k = (decide (k < r.conf.nprobe) && (probeHit s r k).1)) ∧
      let c := bridleCfg s r.tile r.sel
      let s1 := orAstat (setBridle s r.tile r.sel { c with rows := c.rows + 1, hits := c.hits ||| mask }) r.tile r.rank r.ctx flags
      finishBridle s r = if mask = 0 then steerRow s1 r else raiseRow s1 r causeProbeHit 0 (mask + r.sel * 2 ^ 16)) ∧
  (∀ (s : State) (r : Row) (k : Nat), let a := r.tile * 2 ^ 18 + r.conf.ptb * 16 + k * probeStride r.conf.len
    let ctl := mread s.mem.probe (a + 8) 4
    let score := (probeScore s r k).1
    let thr := num32 (BitVec.ofNat 32 (mread s.mem.probe a 4))
    let products : RowLanes := r.segs.map (fun sg => (List.range 32).map (fun l => (laneOf sg.2.lanes l).map (fun x =>
      rounded (numMul (num32 x) (readNum .bf16 (mread s.mem.probe (a + 16 + 2 * (sg.1 * r.w + l)) 2)).1))))
    score = (add32 (segsum products).1 (BitVec.ofNat 32 (mread s.mem.probe (a + 4) 4))).1 ∧
    (ctl / 2 % 2 = 0 → (probeHit s r k).1 = false) ∧
    (ctl / 2 % 2 = 1 → ((probeHit s r k).1 = true ↔
      (num32 score).isNan = true ∨ (ctl % 2 = 0 ∧ numLt thr (num32 score) = true) ∨ (ctl % 2 = 1 ∧ numLt (num32 score) thr = true)))) ∧
  (∀ (s : State) (r : Row) (c : Ctx), ctxOf s r.ctx = some c →
    let matched := fun k => ∃ x, sget s.rws.reins (reinKey r.tile r.sel k) = some x ∧ x.asid = c.asid ∧ x.seq = c.seq
    ((∀ k, k < 64 → ¬ matched k) → reinFor s r = none) ∧ ∀ k, reinFor s r = some k → k < 64 ∧ matched k ∧ ∀ j, j < k → ¬ matched j) ∧
  ∀ (s : State) (r : Row), (reinFor s r = none → steerRow s r = releaseRow s r 11 (r.segs.map (·.2.lanes)) (fun h => h)) ∧
    ∀ k, reinFor s r = some k →
      let a := r.tile * 2 ^ 20 + r.conf.rb * 16 + k * 2 * r.conf.len
      let steered : RowLanes := r.segs.map (fun sg => (List.range 32).map (fun l => (laneOf sg.2.lanes l).map (fun x =>
        (add32 x (rounded (numMul (num32 r.conf.eps) (readNum .bf16 (mread s.mem.rein (a + 2 * (sg.1 * r.w + l)) 2)).1))).1)))
      let c := bridleCfg s r.tile r.sel
      ∃ flags, steerRow s r = orAstat (releaseRow (setBridle s r.tile r.sel { c with steered := c.steered + 1 }) r 11 steered
        (fun h => { h with str := true })) r.tile r.rank r.ctx flags

/-- A row that its first segment begins (R359). -/
def newRow (s : State) (f : Flight) (unit sel : Nat) (conf : RowCfg) : Row :=
  { id := s.nextId, tile := f.tile, rank := f.rank, unit := unit, ctx := f.tok.hdr.ctx, iter := f.tok.hdr.iter, sel := sel, len := conf.len,
    w := f.tok.hdr.wm1 + 1, conf := conf, segs := [(f.tok.hdr.seg, f.tok)], held := false, withdrawn := false, place := 0, again := false,
    faulted := false }

/-- The unit has that row. -/
def withRow (s : State) (r : Row) : State := { s with nextId := s.nextId + 1, rws := { s.rws with rows := s.rws.rows ++ [r] } }

/-! Changes of a launch's place (R414, R417 to R420). -/

/-- R414, R417: a change begins with its notices and its freeze, or waits for the notices' room. -/
def ChangesBegin : Prop :=
  ∀ (s : State) (q : Nat) (l : Launch) (st : LaunchState) (aim : Option Aim), let t := beginChange s q l st aim
    (growing l aim = false → noticeRoom s q l = false → t = s) ∧
    (growing l aim = true ∨ noticeRoom s q l = true →
      sget t.sch.launches q = some { l with st := st, aim := aim, poolWait := [] } ∧
      (∀ x, x ∈ t.frm.frozen ↔ x ∈ s.frm.frozen ∨ x ∈ heldTiles l) ∧ t.frm.ready = s.frm.ready ++ l.poolWait ∧
      t.mem = s.mem ∧ t.ctxs = s.ctxs ∧ t.ops = s.ops ∧ (growing l aim = true → t.flt = s.flt) ∧
      (growing l aim = false →
        (∀ x ∈ heldTiles l, ∃ p ∈ t.flt.pending, p.tile = x ∧ p.deliver = true ∧ p.fr.framed = false ∧ p.fr.cause = causePreempt ∧
          p.fr.detail = if st = .saving then 1 else 0) ∧
        ∀ tile rank, placeTile s q 0 = some (tile, rank) → ∀ x ∈ noticed s q tile, ∃ p ∈ t.flt.pending,
          p.tile = tile ∧ p.deliver = false ∧ p.fr.ctx = x.1 ∧ p.fr.cause = causePreempt))

/-- R417 step 5, R421: the state of a launch tile that is saved, each piece as it stands on the launch tile's tile at its rank. -/
def StatesSaved : Prop :=
  ∀ (s : State) (q tile rank n : Nat) (old : Option SavedTile), let x := saveTile s q tile rank n old
    x.ltile = n ∧
    (∀ k, k < slotSpan s tile → sget x.slots k = sget s.frm.slots (slotLow s tile rank + k) ∧
      sget x.parked k = sget s.flt.parked (slotLow s tile rank + k)) ∧
    (∀ k, k < winSpan s tile → sget x.windows k = sget s.frm.windows (winLow s tile rank + k)) ∧
    (∀ k, k < 1024 → sget x.pens k = sget s.tab.pens (tile * 1024 + k)) ∧
    (∀ k, k < (penArea s tile).2 → sget x.sram k = sget s.mem.sram ((penArea s tile).1 + k)) ∧
    (∀ k, k < 65536 → sget x.acc k = sget s.isl.acc (tile * 65536 + k) ∧ sget x.astat k = sget s.astat (ctxKey tile rank 0 + k) ∧
      sget x.nxc k = sget s.isl.nxc (ctxKey tile rank 0 + k)) ∧
    (∀ k, k < 256 → sget x.lattice k = sget s.isl.lattice (tile * 256 + k) ∧ sget x.act k = sget s.isl.act (tile * 256 + k) ∧
      sget x.reins k = sget s.rws.reins (tile * 256 + k)) ∧
    (∀ k, k < 16 → sget x.next k = sget s.isl.next (tile * 16 + k) ∧ sget x.ax k = sget s.isl.ax (tile * 16 + k)) ∧
    (∀ k, k < 4 → sget x.ncfg k = sget s.rws.ncfg (tile * 4 + k) ∧ sget x.brcfg k = sget s.rws.brcfg (tile * 4 + k)) ∧
    (∀ k, k < 2 ^ 20 → sget x.rein k = sget s.mem.rein (tile * 2 ^ 20 + k)) ∧
    (∀ o, o ∈ x.ops ↔ o ∈ s.ops ∧ o.tile = tile ∧ o.rank = rank ∧ o.cx.q = q ∧ o.elem ≠ 8) ∧
    (∀ y, y ∈ x.owned ↔ y ∈ s.frm.owned ∧ y.tile = tile ∧ y.rank = rank) ∧
    (∀ p, p ∈ x.pending ↔ p ∈ s.flt.pending ∧ p.tile = tile ∧ p.fr.rank = rank) ∧
    ∀ r, r ∈ x.handlers ↔ r ∈ s.frm.ready ∧ r.tile = tile ∧ r.rank = rank ∧ r.kind = .handler

/-- R417 step 8, R418: the saved state of a launch tile on the tile and at the rank that its gait's map names. -/
def StatesRestored : Prop :=
  (∀ (s : State) (x : SavedTile) (tile rank : Nat), let t := restoreTile s x tile rank
    ((x.slots.map (·.1)).Nodup → ∀ k v, sget x.slots k = some v → sget t.frm.slots (slotLow s tile rank + k) = some v) ∧
    (∀ j, (∀ p ∈ x.slots, j ≠ slotLow s tile rank + p.1) → sget t.frm.slots j = sget s.frm.slots j) ∧
    ((x.windows.map (·.1)).Nodup → ∀ k v, sget x.windows k = some v → sget t.frm.windows (winLow s tile rank + k) = some v) ∧
    (rank = 0 → (∀ k, k < 65536 → sget t.isl.acc (tile * 65536 + k) = sget x.acc k) ∧ ∀ k, k < 16 → sget t.isl.next (tile * 16 + k) = sget x.next k) ∧
    (∀ o ∈ x.ops, ∃ u ∈ t.ops, u.id = o.id ∧ u.kind = o.kind ∧ u.ctx = o.ctx ∧ u.iter = o.iter ∧ u.tile = tile ∧ u.rank = rank) ∧
    (∀ o ∈ s.ops, o ∈ t.ops) ∧ (∀ y ∈ x.owned, { y with tile := tile, rank := rank } ∈ t.frm.owned) ∧
    (∀ e ∈ x.outs, { e with tile := tile } ∈ t.net.outs) ∧
    (∀ p ∈ x.pending, { p with tile := tile, fr := { p.fr with rank := rank } } ∈ t.flt.pending) ∧ t.ctxs = s.ctxs ∧ t.tab = s.tab ∧ t.sch = s.sch) ∧
  (∀ (s : State) (x : SavedTile) (tile : Nat), let t := restoreHost s [x] tile
    ((x.pens.map (·.1)).Nodup → (∀ k, k < 1024 → sget t.tab.pens (tile * 1024 + k) = sget x.pens k) ∧
      ((x.sram.map (·.1)).Nodup → ∀ k p a, sget x.pens k = some p → areaByte s tile ≤ p.base * 4096 → p.base * 4096 ≤ a →
        a < (p.base + p.size) * 4096 → a < areaByte s tile + (penArea s tile).2 →
        mget t.mem.sram (tile * 2 ^ 24 + a) = mget x.sram (a - areaByte s tile))) ∧
    ((x.troughs.map (·.1)).Nodup → ∀ k, k < 64 →
      (sget t.tab.troughs (tile * 64 + k)).map (fun t => { t with waiters := [] }) = (sget x.troughs k).map (fun t => { t with waiters := [] }))) ∧
  ∀ (s : State) (asid g : Nat) (old : List Nat) (data : List PenData) (xs : List SavedTile) (hosts : List (Nat × List Nat × RegionImg)),
    let host := fun (s : State) (h : Nat × List Nat × RegionImg) =>
      let s1 := if h.1 ∈ old then loadGait s h.1 g h.2.2 else loadRegion s h.1 asid g h.2.1 h.2.2 data
      let s2 := { s1 with tab := { s1.tab with ltiles := sset s1.tab.ltiles h.1 h.2.1 }, sch := { s1.sch with left := sdel s1.sch.left h.1 } }
      restoreHost s2 (h.2.1.filterMap (fun n => xs.find? (fun x => x.ltile == n))) h.1
    restoreAll s asid g old data xs hosts = sortOps (hosts.foldl host s)

/-- R398, R417: a change is made, or, where its image cannot be read or does not fit, is given up, the launch going on where it is. -/
def ChangesEnd : Prop :=
  (∀ (s s1 : State) (q : Nat) (l : Launch) (a : Aim), let old := heldTiles l
    (∀ c, readImage s (originTile l) l.asid (l.field 0 56) = (s1, .error c) → finishChange s q l a = abandonChange s1 q l a c) ∧
    ∀ bs, readImage s (originTile l) l.asid (l.field 0 56) = (s1, .ok bs) → let secs := (sectionsOf bs).getD []
      (placeFor s1 l secs old a.gait a.x a.y = none → finishChange s q l a = abandonChange s1 q l a causeCfg) ∧
      ∀ p s2 xs, placeFor s1 l secs old a.gait a.x a.y = some p → takeSave s1 q l = (s2, xs) →
        let s3 := restoreAll (setLaunch (vacate s2 q old) q (placedLaunch s2 l a p xs)) l.asid a.gait old (penDataOf secs) xs p.hosts
        let s4 := forgetTables s3 (old.filter (fun t => !p.hosts.any (fun h => h.1 == t)))
        finishChange s q l a = unfreeze (moveOffers s4 q (a.y * 16 + a.x)) (dedup (old ++ p.hosts.map (·.1)))) ∧
  (∀ (s : State) (q : Nat) (l : Launch),
    let s1 := (heldTiles l).foldl (fun s t => reportBad (writeBackAll (drainStp s t) t) t) s
    let xs := (launchTiles s1 q).map (fun x => saveTile s1 q x.2.1 x.2.2 x.1 (l.saved.find? (fun y => y.ltile == x.1)))
    takeSave s q l = (homeWriteBytes s1.tick 0 (Config.saveArea s.fresh) (saveImage s.fresh q l.gait (xs.map (·.ltile))), xs)) ∧
  (∀ (s : State) (q : Nat) (l : Launch) (a : Aim) (c : Nat), let t := abandonChange s q l a c
    (∃ m, sget t.sch.launches q = some m ∧ m.st = .running ∧ m.aim = none ∧ m.gait = l.gait ∧ m.gx = l.gx ∧ m.gy = l.gy ∧
      (a.bySeq = true → m.ended = true ∧ m.cause = c) ∧ (a.bySeq = false → m.ended = l.ended ∧ m.cause = l.cause)) ∧
    ∀ x, x ∈ t.frm.frozen ↔ x ∈ s.frm.frozen ∧ x ∉ heldTiles l) ∧
  ∀ (s : State) (l : Launch) (a : Aim) (p : NewPlace) (xs : List SavedTile), let t := placedLaunch s l a p xs
    t.st = .running ∧ t.aim = none ∧ t.gait = a.gait ∧ t.gx = a.x ∧ t.gy = a.y ∧ t.gw = p.wd ∧ t.gh = p.ht ∧ t.route = p.route ∧ t.saved = xs ∧
    (p.wd * p.ht ≤ l.gw * l.gh → t.npre = l.npre + 1 ∧ t.granted = l.granted) ∧
    (l.gw * l.gh < p.wd * p.ht → t.npre = l.npre ∧ t.granted = s.cyc ∧ t.grow = none) ∧
    (p.wd * p.ht ≤ l.gw * l.gh → a.bySeq = false → l.grow = none → t.grow = some (l.gait, false) ∧ t.since = s.cyc) ∧
    (a.bySeq = true → t.pc = l.pc + 1 ∧ t.waiting = false ∧ t.grow = none)

/-! Records and their answers (R370, R374 to R376, R405, R408 to R414). -/

/-- The record as it is delivered: numbered in the order of its tile's deliveries (R370). -/
def numbered (s : State) (tile : Nat) (r : FaultRec) : FaultRec := { r with fseq := (sgetD s.flt.fseq tile 0).toNat }

/-- The handler task of a record (R410). -/
def handlerTask (s : State) (tile : Nat) (r : FaultRec) (c : Ctx) : Ready :=
  { tile := tile, kind := .handler, rank := r.rank, ctx := r.ctx, iter := r.iter, blk := c.uvec.toNat % 256, cls := 0, stamp := s.cyc, since := s.cyc,
    frec := some (numbered s tile r) }

/-- R370, R408 to R414: a delivered fault is the current record of its frame, and goes to its one receiver: the supervisor's queue, a handler task, or a
token to the paddock. A notice goes to a handler task. -/
def RecordsDelivered : Prop :=
  (∀ (s : State) (tile : Nat) (r : FaultRec), let t := deliverFault s tile r
    let r' := numbered s tile r
    sgetD t.flt.fseq tile 0 = sgetD s.flt.fseq tile 0 + 1 ∧
    (r.framed = true → sget t.flt.parked (frameKey s tile r.rank r.ctx r.iter) = some { fr := some r', escd := false }) ∧
    (receiver s tile r = 0 → sgetD t.flt.supq tile [] = sgetD s.flt.supq tile [] ++ [r'] ∧ t.frm = s.frm ∧ t.net = s.net) ∧
    (receiver s tile r = 1 → ∀ c, ctxOf s r.ctx = some c →
      t.frm.ready = s.frm.ready ++ [handlerTask s tile r c] ∧ t.flt.supq = s.flt.supq ∧ t.net = s.net) ∧
    (receiver s tile r = 2 → ∀ c, ctxOf s r.ctx = some c →
      let d : Dest := { tile := bits c.uvec.toNat 21 9, elem := 0, vc := 3, slot := bits c.uvec.toNat 12 9 }
      let tok : Token := { hdr := plainHeader r.ctx r.iter 8 d.slot, lanes := lanesOf ((recordWords r' ++ [0, 0]).map (BitVec.ofNat 32)) }
      t.net.outs = s.net.outs ++ [{ id := s.nextId, tile := tile, elem := 15, tok := tok, pend := [(d, 0)] }] ∧
      t.flt.supq = s.flt.supq ∧ t.frm = s.frm)) ∧
  ∀ (s : State) (tile : Nat) (r : FaultRec) (c : Ctx), ctxOf s r.ctx = some c → deliverNotice s tile r =
    { s with
      flt := { s.flt with fseq := sset s.flt.fseq tile (sgetD s.flt.fseq tile 0 + 1) },
      frm := { s.frm with ready := s.frm.ready ++ [handlerTask s tile r c] } }

/-- R374: the repair of an entry slot: lanes of B that are valid are written, a slot that holds a token keeps its header, and an empty one takes a token. -/
def SlotsRepaired : Prop :=
  ∀ (s : State) (o : Op) (tile rank c i : Nat) (b : Block) (ent : Nat), let slot := fun n => slotKey s tile rank c i (b.slot0 + n)
    let t := repairSlot s o tile rank c i b ent
    ∃ y, sget t.frm.slots (slot ent) = some y ∧ (∀ j, j ≠ slot ent → sget t.frm.slots j = sget s.frm.slots j) ∧
      (∀ x, sget s.frm.slots (slot ent) = some x → y = { x with lanes := y.lanes } ∧
        ∀ l, l < 32 → laneOf y.lanes l = (laneOf o.b l).orElse (fun _ => laneOf x.lanes l)) ∧
      (sget s.frm.slots (slot ent) = none → (y.seg = 0 ∧ y.pol = 0 ∧ y.nrm = false ∧ y.str = false ∧ y.eor = true) ∧
        (∀ l, l < 32 → laneOf y.lanes l = laneOf o.b l) ∧
        (∀ n z, n < b.nin → (∀ m, m < n → sget s.frm.slots (slot m) = none) → sget s.frm.slots (slot n) = some z → y.wm1 = z.wm1) ∧
        ((∀ n, n < b.nin → sget s.frm.slots (slot n) = none) → y.wm1 = 31))

/-- R374, R405: ERES repairs and holds, or answers its frame's fault; what the fault stopped goes on by its kind. -/
def FramesResume : Prop :=
  (∀ (s : State) (o : Op) (r : FaultRec) (tile rank ent : Nat),
    let answered := fun u => answerFault (resumeFault u tile r) tile rank r.ctx r.iter
    performEres s o r tile rank false ent false = answered s ∧
    ∀ b, sget s.tab.blocks (tile * 256 + r.blk) = some b → let s1 := repairSlot s o tile rank r.ctx r.iter b ent
      performEres s o r tile rank true ent true = s1 ∧ performEres s o r tile rank true ent false = answered s1) ∧
  (∀ (s : State) (tile : Nat) (r : FaultRec),
    (∀ e, r.halt = some e → resumeFault s tile r = resumeHalted s tile e r) ∧
    (r.halt = none → r.row ≠ 0 → resumeFault s tile r = resumeRow s r.row r.cause) ∧
    (r.halt = none → r.row = 0 → r.op = 0 → resumeFault s tile r = s) ∧
    ∀ o, r.halt = none → r.row = 0 → r.op ≠ 0 → opById s r.op = some o → o.phase = .faulted → o.kind ∉ [.cfgld, .gait, .park] →
      (∀ ch, chanOf o.kind = some ch → resumeFault s tile r = replayDray s o ch) ∧
      (chanOf o.kind = none → isUnit o.kind = true → resumeFault s tile r = replayUnit s o) ∧
      (chanOf o.kind = none → isUnit o.kind = false → resumeFault s tile r = retryOp s o)) ∧
  (∀ (s : State) (id cause : Nat) (r : Row), s.rws.rows.find? (fun x => x.id == id) = some r →
    (cause ∈ [causeProbeHit, causeTapOrder] → resumeRow s id cause = moveRows (steerRow (fetchRow s r).1 (fetchRow s r).2) r.tile) ∧
    (cause ∉ [causeProbeHit, causeTapOrder] → resumeRow s id cause = setRow s { r with held := false, again := true, faulted := false })) ∧
  ∀ (s : State) (tile rank c i : Nat),
    (pendingOf s tile rank c i = 0 → answerFault s tile rank c i = wakeFrame (unpark (returnRows s tile rank c i) tile rank c i) tile rank c i) ∧
    (0 < pendingOf s tile rank c i → answerFault s tile rank c i = writeRecord
      { s with flt := { s.flt with parked := sset s.flt.parked (frameKey s tile rank c i) { fr := none, escd := false } } } tile rank c i false)

/-- R376: the last part of EKILL: rows, slots, the park record and held cancels of the frame go, and the frame retires. -/
def killed (s : State) (tile rank c i : Nat) : State :=
  let s1 := moveRows { s with rws := { s.rws with rows := s.rws.rows.filter (fun (x : Row) => !(x.tile == tile && x.rank == rank && x.ctx == c && x.iter == i)) } } tile
  let k := slotKey s1 tile rank c i 0
  let s2 := { s1 with frm := { s1.frm with slots := sdrop s1.frm.slots k (2 ^ (fplanOf s1 tile rank c).fslog2) } }
  let s3 := match positionOf s2 tile rank c i with
    | some p => setPosition s2 tile rank c i { p with pk := false, hlt := false }
    | none => s2
  let s4 := { s3 with
    flt := { s3.flt with parked := sdel s3.flt.parked k }
    frm := { s3.frm with cancels := s3.frm.cancels.filter (fun f => !(f.tile == tile && f.rank == rank && f.tok.hdr.ctx == c && f.tok.hdr.iter == i)) } }
  retire (writeRecord s4 tile rank c i false) tile rank c i

/-- R150, R293, R299, R341, R376, R405, R406: EKILL discards the frame's pending faults, waiters, halted tasks, failed operations with what waits behind
them, engine and island entries, requests in hitch queues and trough slots, and ends the frame; ESC hands the record on. -/
def FramesEnd : Prop :=
  (∀ (s : State) (r : FaultRec) (tile rank : Nat), let c := r.ctx
    let i := r.iter
    let s1 := dropHalted (dropWaiters (dropPending s tile rank c i) tile rank c i) tile rank c i
    let failed := s1.ops.filter (fun o => sameFrame o tile rank c i && stopped o && o.tid == 0)
    let s2 := dropEngines (failed.foldl dropFailed s1) tile rank c i
    let asked := (s2.ops.filter (fun o => sameFrame o tile rank c i && waitsInFifo o)).map (·.id)
    let s3 := removeRequests s2 (fun q => asked.contains q.op)
    performEkill s r tile rank =
      killed (dropOwned { s3 with ops := s3.ops.filter (fun o => !asked.contains o.id) } tile rank c i) tile rank c i) ∧
  (∀ (s : State) (tile rank c i : Nat),
    (∀ p, p ∈ (dropPending s tile rank c i).flt.pending ↔ p ∈ s.flt.pending ∧
      ¬ (p.tile = tile ∧ p.fr.framed = true ∧ p.fr.rank = rank ∧ p.fr.ctx = c ∧ p.fr.iter = i)) ∧
    (∀ n t, sget (dropWaiters s tile rank c i).tab.troughs (tile * 64 + n) = some t → n < 64 → ∀ k e b p x, Waiter.pe k e rank c i b p x ∉ t.waiters) ∧
    ∀ o ∈ (dropEngines s tile rank c i).ops, sameFrame o tile rank c i = true → o.tid = 0 → ∀ n e, o.kind = .give n e → e = 8) ∧
  (∀ (s : State) (tile rank c i : Nat), let t := killed s tile rank c i
    (∀ k, k < 2 ^ (fplanOf s tile rank c).fslog2 → sget t.frm.slots (slotKey s tile rank c i k) = none) ∧
    sget t.flt.parked (frameKey s tile rank c i) = none ∧
    (∀ x ∈ t.rws.rows, ¬ (x.tile = tile ∧ x.rank = rank ∧ x.ctx = c ∧ x.iter = i)) ∧
    ∀ f ∈ t.frm.cancels, ¬ (f.tile = tile ∧ f.rank = rank ∧ f.tok.hdr.ctx = c ∧ f.tok.hdr.iter = i)) ∧
  ∀ (s : State) (r : FaultRec) (tile rank : Nat), let t := performEsc s r tile rank
    let r' := { r with escd := true }
    sgetD t.flt.supq tile [] = sgetD s.flt.supq tile [] ++ [r'] ∧
    sget t.flt.parked (frameKey s tile rank r.ctx r.iter) = some { fr := some r', escd := true } ∧ t.frm = s.frm ∧ t.ops = s.ops ∧ t.ctxs = s.ctxs

end Sys2Proof.Claims

/-- R208 to R222, R384: words written out from the encoding tables decode to the instructions they stand for, whatever word follows; a LIT takes the
next word. -/
def Obligations.DecodingWords : Prop :=
  (∀ p ∈ Claims.wordsRead, ∀ next, decodeBlock p.1 next = .ok p.2) ∧
  (∀ next, decodeBlock 0x82D00007 next = .ok (.lit (next % 2 ^ 32) (.latB 3))) ∧
  (∀ rest, decodeSeq (0x00000007 :: rest) = .ok (.sqEnd 7, 1)) ∧ (∀ rest, decodeSeq (0x20500000 :: rest) = .ok (.sqRun false 2 true, 1)) ∧
  ∀ rest, decodeSeq (0x34000005 :: 0x89ABCDEF :: 0x00012345 :: rest) = .ok (.sqIf false true 5 0x01234589ABCDEF 0, 3)

/-- R208 to R222, R384: what the decoder reads from the words of a well-formed instruction is that instruction, whatever follows them, and a
sequencing word takes as many words as the encoding has. -/
def Obligations.DecodeInvertsEncode : Prop :=
  ∀ (i : Instr) (w : Nat) (ws : List Nat), i.wf = true → encode i = w :: ws →
    (Claims.sequences i = false → ∀ next, decodeBlock w (ws.headD next) = .ok i) ∧
    (Claims.sequences i = true → ∀ rest, decodeSeq (w :: ws ++ rest) = .ok (i, ws.length + 1))

/-- R174, R212, R221, R222, R384, log entry 2: the head turn of the agenda is taken: an element executes what the word at its task's position decodes
to, the sequencer the word at a program's position, a unit its event; a word that does not decode is a reserved one; with nothing left, one
fabric cycle passes and the turns due are listed. -/
def Obligations.StepRunsDecodedInstruction : Prop :=
  (∀ (s : State) (tile elem : Nat) (rest : List Turn) (τ : Task), s.agenda = .issue tile elem :: rest → (peAt s tile elem).run = some τ →
    let s0 := Claims.onTurn s rest ⟨tile, elem, 0⟩
    let word := fun k => (sgetD s.tab.imem (tile * 2 ^ 18 + elem * 2 ^ 14 + τ.base + 1 + k) 0).toNat
    (∀ i, τ.pos ≤ τ.len → τ.step ≠ 1 → decodeBlock (word τ.pos) (word (τ.pos + 1)) = .ok i → step s = exec i s0) ∧
    (∀ e, τ.pos ≤ τ.len → τ.step ≠ 1 → decodeBlock (word τ.pos) (word (τ.pos + 1)) = .error e → step s = exec .reservedOpcode s0) ∧
    (τ.len < τ.pos ∨ τ.step = 1 → step s = .next s0)) ∧
  (∀ (s : State) (q : Nat) (rest : List Turn) (l : Launch), s.agenda = .seq q :: rest → sget s.sch.launches q = some l →
    let s0 := Claims.onTurn s rest ⟨q, 0, 0⟩
    (∀ i n, decodeSeq ((l.prog.drop l.pc).map (·.toNat)) = .ok (i, n) → step s = exec i s0) ∧
    ∀ e, decodeSeq ((l.prog.drop l.pc).map (·.toNat)) = .error e → step s = exec .reservedSequencerWord s0) ∧
  (∀ (s : State) (i : Instr) (o : Occasion) (rest : List Turn), s.agenda = .event i o :: rest → step s = exec i (Claims.onTurn s rest o)) ∧
  ∀ s : State, s.agenda = [] → step s = .next { s with cyc := s.cyc + 1, agenda := enabled { s with cyc := s.cyc + 1 } }

/-- Log entry 4: every step keeps the memories of the package in their one canonical form, so that equal memories are equal data. -/
def Obligations.MemoryStaysCanonical : Prop := ∀ s t : State, s.canonical = true → step s = .next t → t.canonical = true

/-- R4, R70, R160, R377, R394, R449, R452, R454: what reset leaves. By the model's choice start-up is due (log entry 2), no context, launch, task or owner
stands (log entry 3), and the memories list nothing (log entry 4). -/
def Obligations.ResetLeaves : Prop :=
  State.reset.canonical = true ∧ State.reset.agenda = [.event .startup ⟨0, 0, 0⟩] ∧ State.reset.dev.up = false ∧ State.reset.syn.smode = true ∧
  State.reset.dev.clkf = 32 ∧ State.reset.dev.limit = 3000 ∧ State.reset.dev.hen = false ∧ State.reset.dev.pv = false ∧ State.reset.sch.launches = [] ∧
  (∀ tile, sget State.reset.tab.owner tile = none) ∧ (∀ c, ctxOf State.reset c = none) ∧ (∀ tile elem, (peAt State.reset tile elem).run = none) ∧
  (∀ tile, tileReg State.reset tile 4 = 0x3F) ∧ ∀ tile n, n ≠ 4 → tileReg State.reset tile n = 0

/-- R179, R178, R210: a lane of a two-source result is valid exactly where both sources are valid and the predicate, if it has
been targeted, fires; and it holds the value for that lane. -/
def Obligations.LanesExecuteWhereSourcesAndPredicateAllow : Prop :=
  ∀ (τ : Task) (x y : Lanes) (f : Nat → Word → Word → Word) (l : Nat) (v : Word), l < 32 →
    (laneOf (lanes2 τ x y f) l = some v ↔
      l < τ.w ∧
      (τ.pos ∈ τ.armed → ∃ p, laneOf (sgetD τ.pv τ.pos noLanes) l = some p ∧
        decide (p ≠ 0) = (sgetD τ.sense τ.pos []).getD l true) ∧
      ∃ a b, laneOf x l = some a ∧ laneOf y l = some b ∧ v = f l a b)

/-- R237, R239, R244: each of these instructions gives its value in every executed lane and completes. -/
def Obligations.IntegerTwoSourceResults : Prop :=
  ∀ p ∈ Claims.twoSource, ∀ (a b : Src) (t : Target) (s : State) (τ : Task), Runs s τ → SrcsOk τ [a, b] →
    Lands s τ t (lanes2 τ (readSrc τ false a) (readSrc τ true b) p.2) →
    Writes (p.1 a b t) s τ t (lanes2 τ (readSrc τ false a) (readSrc τ true b) p.2) 1

/-- R239, R241, R244, for one source; and the four functions of R240 by what they count or move. -/
def Obligations.IntegerOneSourceResults : Prop :=
  (∀ p ∈ Claims.oneSource, ∀ (a : Src) (t : Target) (s : State) (τ : Task), Runs s τ → SrcsOk τ [a] →
    Lands s τ t (lanes1 τ (readSrc τ false a) p.2) → Writes (p.1 a t) s τ t (lanes1 τ (readSrc τ false a) p.2) 1) ∧
  ∀ p ∈ [(Instr.clz, Claims.LeadingZeros), (.ctz, Claims.TrailingZeros), (.popc, Claims.BitsSet), (.brev, Claims.BitReversed)],
    ∃ f, p.2 f ∧ ∀ (a : Src) (t : Target) (s : State) (τ : Task), Runs s τ → SrcsOk τ [a] →
      Lands s τ t (lanes1 τ (readSrc τ false a) (fun _ => f)) →
      Writes (p.1 a t) s τ t (lanes1 τ (readSrc τ false a) (fun _ => f)) 1

/-- R239, R242, R243, R244: comparison, bit fields, selection, scaled address, and the two functions of the valid mask, which
execute on every lane that the predicate allows. -/
def Obligations.CompareFieldAndSelectResults : Prop :=
  (∀ p ∈ Claims.conditions, ∀ (a b : Src) (t : Target) (s : State) (τ : Task), Runs s τ → SrcsOk τ [a, b] →
    let v := lanes2 τ (readSrc τ false a) (readSrc τ true b) (fun _ x y => if p.2 x y then 1 else 0)
    Lands s τ t v → Writes (.cmp a b p.1 t) s τ t v 1) ∧
  (∀ sx, ∃ f, Claims.FieldExtracted sx f ∧ ∀ (a b : Src) (t : Target) (s : State) (τ : Task), Runs s τ → SrcsOk τ [a, b] →
    let v := lanes2 τ (readSrc τ false a) (readSrc τ true b) (fun _ => f)
    Lands s τ t v → Writes (.bfx a b sx t) s τ t v 1) ∧
  (∃ f, Claims.FieldInserted f ∧ ∀ (a b : Src) (c : Nat) (t : Target) (s : State) (τ : Task), Runs s τ → SrcsOk τ [a, b] →
    let v := lanes3 τ (readSrc τ false a) (readSrc τ true b) (τ.temps.getD c noLanes) (fun _ => f)
    Lands s τ t v → Writes (.bfi a b c t) s τ t v 1) ∧
  (∀ (a b : Src) (c : Nat) (t : Target) (s : State) (τ : Task), Runs s τ → SrcsOk τ [a, b] →
    let v := lanes3 τ (readSrc τ false a) (readSrc τ true b) (τ.temps.getD c noLanes) (fun _ x y z => if z = 0 then y else x)
    Lands s τ t v → Writes (.sel a b c t) s τ t v 1) ∧
  (∀ (a b : Src) (t : Target) (s : State) (τ : Task), Runs s τ → SrcsOk τ [a, b] →
    ∀ sc ∈ [((0 : Nat), (1 : Word)), (1, 4), (2, 16), (3, 64)],
    let v := lanes2 τ (readSrc τ false a) (readSrc τ true b) (fun _ x y => x + y * sc.2)
    Lands s τ t v → Writes (.lea a b sc.1 t) s τ t v 1) ∧
  (∀ (a : Src) (t : Target) (s : State) (τ : Task), Runs s τ → SrcsOk τ [a] →
    let v := lanes0 τ (fun _ => BitVec.ofNat 32 ((readSrc τ false a).countP (·.isSome)))
    Lands s τ t v → Writes (.lvcnt a t) s τ t v 1) ∧
  ∀ (a : Src) (t : Target) (s : State) (τ : Task) (k : Nat), Runs s τ → SrcsOk τ [a] → k ≤ 32 →
    (∀ l, l < k → laneOf (readSrc τ false a) l = none) → (k < 32 → (laneOf (readSrc τ false a) k).isSome) →
    (readSrc τ false a).length = 32 →
    let v := lanes0 τ (fun _ => BitVec.ofNat 32 k)
    Lands s τ t v → Writes (.lvfst a t) s τ t v 1

/-- R246, R208, R264: the immediate forms, the source-free ones on every lane that the predicate allows, and LIT, which takes the
word that follows it and moves on by two positions. -/
def Obligations.ImmediateResults : Prop :=
  (∀ p ∈ Claims.immediates, ∀ (a : Src) (i : Nat) (t : Target) (s : State) (τ : Task), Runs s τ → SrcsOk τ [a] →
    i < 2 ^ 11 →
    let v := lanes1 τ (readSrc τ false a) (fun _ => p.2 i)
    Lands s τ t v → Writes (p.1 a i t) s τ t v 1) ∧
  (∀ (i : Nat) (t : Target) (s : State) (τ : Task), Runs s τ → i < 2 ^ 11 →
    let v := lanes0 τ (fun _ => (BitVec.ofNat 11 i).signExtend 32)
    Lands s τ t v → Writes (.li i t) s τ t v 1) ∧
  (∀ (w : Nat) (t : Target) (s : State) (τ : Task), Runs s τ → τ.pos < τ.len →
    let v := lanes0 τ (fun _ => BitVec.ofNat 32 w)
    Lands s τ t v → Writes (.lit w t) s τ t v 2) ∧
  (∀ p ∈ Claims.taskRegisters, ∀ (t : Target) (s : State) (τ : Task), Runs s τ →
    let v := lanes0 τ (fun _ => p.2 s τ)
    Lands s τ t v → Writes (.mfs p.1 t) s τ t v 1) ∧
  (∀ (t : Target) (s : State) (τ : Task) (l : Launch), Runs s τ → sget s.sch.launches τ.cx.q = some l →
    let reads := fun n (w : Nat) => let v := lanes0 τ (fun _ => BitVec.ofNat 32 w)
      Lands s τ t v → Writes (.mfs n t) s τ t v 1
    reads 0x06 ((sgetD s.tab.ltiles s.occ.a []).getD τ.rank 0) ∧
    reads 0x07 (l.x0 + l.y0 * 2 ^ 4 + Claims.bitsOf (l.words.getD 10 0) 16 6 * 2 ^ 9) ∧ reads 0x0F (sgetD s.tab.gaitReg s.occ.a 0)) ∧
  (∀ (k : Nat) (t : Target) (s : State) (τ : Task), Runs s τ → k < 8 →
    let lo := lanes0 τ (fun _ => (τ.cx.bases.getD k 0).setWidth 32)
    let hi := lanes0 τ (fun _ => ((τ.cx.bases.getD k 0) >>> 32).setWidth 32)
    (Lands s τ t lo → Writes (.mfs (0x20 + 2 * k) t) s τ t lo 1) ∧ (Lands s τ t hi → Writes (.mfs (0x21 + 2 * k) t) s τ t hi 1)) ∧
  ∀ (n : Nat) (t : Target) (s : State) (τ : Task), Runs s τ → n < 16 →
    let v := lanes0 τ (fun _ => sgetD s.isl.ax (s.occ.a * 16 + n) 0)
    Lands s τ t v → Writes (.mfs (0x40 + n) t) s τ t v 1

/-- R239: the quotients and remainders with their fates; a zero divisor in an executed lane sets DZ and no other flag is raised. -/
def Obligations.DivisionResultsAndFlag : Prop :=
  ∀ p ∈ Claims.divisions, ∀ (a b : Src) (t : Target) (s : State) (τ : Task), Runs s τ → SrcsOk τ [a, b] →
    let r := flanes2 τ (readSrc τ false a) (readSrc τ true b) (fun _ x y => (p.2 x y, if y = 0 then 0x20 else 0))
    Lands s τ t (valuesOf r) → WritesF (p.1 a b t) s τ t r

/-- R245, R250, R247, R248: the integer instructions of two targets. FWD gives latch A to both; STEER and SPLIT give each lane to one. -/
def Obligations.PairClassResults : Prop :=
  (∀ p ∈ Claims.pairForms, ∀ (x y : Target) (s : State) (τ : Task), Runs s τ →
    let v := lanes2 τ (latchA τ) (latchB τ) (fun _ => p.2)
    LandsPair s τ x v y v → WritesPair (p.1 x y) s τ x v y v) ∧
  (∀ p ∈ Claims.conditions, ∀ (x y : Target) (s : State) (τ : Task), Runs s τ →
    let u := lanes2 τ (latchA τ) (latchB τ) (fun _ a b => if p.2 a b then 1 else 0)
    let v := lanes2 τ (latchA τ) (latchB τ) (fun _ a b => if p.2 a b then 0 else 1)
    LandsPair s τ x u y v → WritesPair (.cmpP p.1 x y) s τ x u y v) ∧
  (∀ (x y : Target) (s : State) (τ : Task), Runs s τ →
    let v := lanes1 τ (latchA τ) (fun _ a => a)
    LandsPair s τ x v y v → WritesPair (.fwd x y) s τ x v y v) ∧
  (∀ (x y : Target) (s : State) (τ : Task), Runs s τ →
    let u := mkLanes (fun l => if (laneOf (latchB τ) l).elim false (· ≠ 0) ∧ predOk τ l then laneOf (latchA τ) l else none)
    let v := mkLanes (fun l => if (laneOf (latchB τ) l).elim false (· = 0) ∧ predOk τ l then laneOf (latchA τ) l else none)
    LandsPair s τ x u y v → WritesPair (.steer x y) s τ x u y v) ∧
  ∀ (n : Nat) (x y : Target) (s : State) (τ : Task), Runs s τ →
    let u := mkLanes (fun l => if l < n ∧ predOk τ l then laneOf (latchA τ) l else none)
    let v := mkLanes (fun l => if n ≤ l ∧ predOk τ l then laneOf (latchA τ) l else none)
    LandsPair s τ x u y v → WritesPair (.split n x y) s τ x u y v

/-- R311, R312, R320, R321: each lane or element is rounded once, in the mode in force, from the exact result, and its flags are
collected. -/
def Obligations.FloatingPointRoundsOnce : Prop :=
  (∀ p ∈ Claims.fpTwo, ∀ (a b : Src) (f : Fmt) (m : Rnd) (sat : Bool) (t : Target) (s : State) (τ : Task), Runs s τ →
    SrcsOk τ [a, b] →
    let r := flanes2 τ (readSrc τ false a) (readSrc τ true b) (fun l x y =>
      inLane (roundOf (fmtFp f) (rmode s τ m l 0) sat (p.2 (rmode s τ m l 0) (num32 x) (num32 y))))
    Lands s τ t (valuesOf r) → WritesF (p.1 a b f m sat t) s τ t r) ∧
  (∀ (a b : Src) (m : Rnd) (c : Nat) (sat : Bool) (t : Target) (s : State) (τ : Task), Runs s τ → SrcsOk τ [a, b] →
    let r := flanes3 τ (readSrc τ false a) (readSrc τ true b) (τ.temps.getD c noLanes) (fun l x y z =>
      inLane (roundOf fpF32 (rmode s τ m l 0) sat (numFma (rmode s τ m l 0) (num32 x) (num32 y) (num32 z))))
    Lands s τ t (valuesOf r) → WritesF (.ffma a b m c sat t) s τ t r) ∧
  (∀ p ∈ Claims.fpPair, ∀ (m : Rnd) (x y : Target) (s : State) (τ : Task), Runs s τ →
    let r := flanes2 τ (latchA τ) (latchB τ) (fun l a b =>
      inLane (roundOf fpF32 (rmode s τ m l 0) false (p.2 (rmode s τ m l 0) (num32 a) (num32 b))))
    let τ' := τ.raise (orFlags r)
    LandsPair s τ' x (valuesOf r) y (valuesOf r) →
    ∃ τ1 τ2, put s τ' x (valuesOf r) = .ok τ1 ∧ put s τ1 y (valuesOf r) = .ok τ2 ∧
      exec (p.1 m x y) s = .next (s.setTask (τ2.advance 1))) ∧
  (∀ p ∈ Claims.fpPacked, ∀ (a b : Src) (f : Fmt) (m : Rnd) (sat : Bool) (t : Target) (s : State) (τ : Task), Runs s τ →
    SrcsOk τ [a, b] →
    let e := fun (l k : Nat) (x y : Word) =>
      let u := elem16 f x k
      let v := elem16 f y k
      let z := p.2 (rmode s τ m l k) u.1 v.1
      roundOf (fmtFp f) (rmode s τ m l k) sat (z.1, z.2 ||| u.2 ||| v.2)
    let r := flanes2 τ (readSrc τ false a) (readSrc τ true b) (fun l x y =>
      (BitVec.ofNat 32 ((e l 0 x y).1 + (e l 1 x y).1 * 2 ^ 16), (e l 0 x y).2 ||| (e l 1 x y).2))
    Lands s τ t (valuesOf r) → WritesF (p.1 a b f m sat t) s τ t r) ∧
  (∀ (a b : Src) (m : Rnd) (c : Nat) (sat : Bool) (t : Target) (s : State) (τ : Task), Runs s τ → SrcsOk τ [a, b] →
    let e := fun (l k : Nat) (x y z : Word) =>
      let u := elem16 .bf16 x k
      let v := elem16 .bf16 y k
      let w := elem16 .bf16 z k
      let q := numFma (rmode s τ m l k) u.1 v.1 w.1
      roundOf fpBF16 (rmode s τ m l k) sat (q.1, q.2 ||| u.2 ||| v.2 ||| w.2)
    let r := flanes3 τ (readSrc τ false a) (readSrc τ true b) (τ.temps.getD c noLanes) (fun l x y z =>
      (BitVec.ofNat 32 ((e l 0 x y z).1 + (e l 1 x y z).1 * 2 ^ 16), (e l 0 x y z).2 ||| (e l 1 x y z).2))
    Lands s τ t (valuesOf r) → WritesF (.hfma2 a b m c sat t) s τ t r) ∧
  ∀ (a : Src) (f : Fmt) (m : Rnd) (sat : Bool) (t : Target) (s : State) (τ : Task), Runs s τ → SrcsOk τ [a] →
    let r := flanes1 τ (readSrc τ false a) (fun l x =>
      inLane (roundOf (fmtFp f) (rmode s τ m l 0) sat (.fin x.msb x.toInt.natAbs 0 false, 0)))
    Lands s τ t (valuesOf r) → WritesF (.itof a f m sat t) s τ t r

/-- R313 to R316: minimum and maximum set no flag, the sign forms act on the bit pattern of their format, FCMP gives 1 or 0, and
FCLASS sets one bit of nine. -/
def Obligations.FloatSelectSignAndCompareResults : Prop :=
  (∀ p ∈ [(Instr.fmin, fmin32), (.fmax, fmax32)], ∀ (a b : Src) (t : Target) (s : State) (τ : Task), Runs s τ →
    SrcsOk τ [a, b] →
    let v := lanes2 τ (readSrc τ false a) (readSrc τ true b) (fun _ => p.2)
    Lands s τ t v → Writes (p.1 a b t) s τ t v 1) ∧
  (∀ p ∈ [(Instr.fminP, fmin32), (.fmaxP, fmax32)], ∀ (x y : Target) (s : State) (τ : Task), Runs s τ →
    let v := lanes2 τ (latchA τ) (latchB τ) (fun _ => p.2)
    LandsPair s τ x v y v → WritesPair (p.1 x y) s τ x v y v) ∧
  (∀ a b : Word, let x := num32 a; let y := num32 b
    (x.isNan = true → y.isNan = true → fmin32 a b = 0x7FC00000 ∧ fmax32 a b = 0x7FC00000) ∧
    (x.isNan = true → y.isNan = false → fmin32 a b = b ∧ fmax32 a b = b) ∧
    (x.isNan = false → y.isNan = true → fmin32 a b = a ∧ fmax32 a b = a) ∧
    (x.isNan = false → y.isNan = false → (numLt x y = true → fmin32 a b = a ∧ fmax32 a b = b) ∧ (numLt y x = true → fmin32 a b = b ∧ fmax32 a b = a))) ∧
  (∀ p ∈ [(0x80000000, 0), (0, 0x80000000)], fmin32 p.1 p.2 = 0x80000000 ∧ fmax32 p.1 p.2 = 0 ∧
    fcmpHolds .eq (num32 p.1) (num32 p.2) = (true, 0)) ∧
  (∀ x y : Machine.Num,
    (x.isNan = true ∨ y.isNan = true → (∀ c ∈ [FCond.ne, .uno], fcmpHolds c x y = (true, 0)) ∧ (∀ c ∈ [FCond.eq, .ord], fcmpHolds c x y = (false, 0)) ∧
      ∀ c ∈ [FCond.lt, .le, .gt, .ge], fcmpHolds c x y = (false, flagIV)) ∧
    (x.isNan = false → y.isNan = false → let less := numLt x y; let more := numLt y x
      fcmpHolds .lt x y = (less, 0) ∧ fcmpHolds .gt x y = (more, 0) ∧ fcmpHolds .eq x y = (!less && !more, 0) ∧ fcmpHolds .ne x y = (less || more, 0) ∧
      fcmpHolds .le x y = (less || !more, 0) ∧ fcmpHolds .ge x y = (more || !less, 0) ∧ fcmpHolds .ord x y = (true, 0) ∧ fcmpHolds .uno x y = (false, 0))) ∧
  (∀ p ∈ Claims.signTwo, ∀ f ∈ Claims.signBit, ∃ g : Word → Word → Word,
    (∀ a b k, (g a b).getLsbD k = if k < f.2 then a.getLsbD k else decide (k = f.2) && p.2 (a.getLsbD k) (b.getLsbD k)) ∧
    ∀ (a b : Src) (t : Target) (s : State) (τ : Task), Runs s τ → SrcsOk τ [a, b] →
      let v := lanes2 τ (readSrc τ false a) (readSrc τ true b) (fun _ => g)
      Lands s τ t v → Writes (p.1 a b f.1 t) s τ t v 1) ∧
  (∀ p ∈ Claims.signOne, ∀ f ∈ Claims.signBit, ∃ g : Word → Word,
    (∀ a k, (g a).getLsbD k = if k < f.2 then a.getLsbD k else decide (k = f.2) && p.2 (a.getLsbD k)) ∧
    ∀ (a : Src) (t : Target) (s : State) (τ : Task), Runs s τ → SrcsOk τ [a] →
      let v := lanes1 τ (readSrc τ false a) (fun _ => g)
      Lands s τ t v → Writes (p.1 a f.1 t) s τ t v 1) ∧
  (∀ (a b : Src) (f : Fmt) (c : FCond) (t : Target) (s : State) (τ : Task), Runs s τ → SrcsOk τ [a, b] →
    let r := flanes2 τ (readSrc τ false a) (readSrc τ true b) (fun _ x y =>
      let u := readNum f x.toNat
      let v := readNum f y.toNat
      (if (fcmpHolds c u.1 v.1).1 then 1 else 0, (fcmpHolds c u.1 v.1).2 ||| u.2 ||| v.2))
    Lands s τ t (valuesOf r) → WritesF (.fcmp a b f c t) s τ t r) ∧
  (∀ (c : FCond) (x y : Target) (s : State) (τ : Task), Runs s τ →
    let h := fun (a b : Word) => fcmpHolds c (num32 a) (num32 b)
    let r := flanes2 τ (latchA τ) (latchB τ) (fun _ a b => (if (h a b).1 then 1 else 0, (h a b).2))
    let u := lanes2 τ (latchA τ) (latchB τ) (fun _ a b => if (h a b).1 then 0 else 1)
    let τ' := τ.raise (orFlags r)
    LandsPair s τ' x (valuesOf r) y u →
    ∃ τ1 τ2, put s τ' x (valuesOf r) = .ok τ1 ∧ put s τ1 y u = .ok τ2 ∧
      exec (.fcmpP c x y) s = .next (s.setTask (τ2.advance 1))) ∧
  ∀ f ∈ Claims.classed, ∀ (a : Src) (t : Target) (s : State) (τ : Task), Runs s τ → SrcsOk τ [a] →
    let v := lanes1 τ (readSrc τ false a) (fun _ x =>
      let ex := x.toNat / 2 ^ f.2.2.1 % 2 ^ f.2.1
      BitVec.ofNat 32 (2 ^ Claims.classOf (x.getLsbD (f.2.1 + f.2.2.1)) ex (x.toNat % 2 ^ f.2.2.1) (2 ^ f.2.1 - 1) f.2.2.2.1 f.2.2.2.2))
    Lands s τ t v → Writes (.fclass a f.1 t) s τ t v 1

/-- R317: FCVT rounds each lane into element E of its result, or widens element E exactly; with no executed lane it only goes on. A
control word above 4 bits, or an element that the format does not have, raises BAD_SOURCE. -/
def Obligations.FcvtNarrowsAndWidens : Prop :=
  ∀ (a b : Src) (f : Fmt) (m : Rnd) (sat : Bool) (t : Target) (s : State) (τ : Task), Runs s τ → SrcsOk τ [a, b] →
    targetOk s τ t = true →
    let x := readSrc τ false a
    let y := readSrc τ true b
    ((∀ l, l < 32 → predOk τ l = true → laneOf x l = none) → Passes (.fcvt a b f m sat t) s τ) ∧
    ((∃ l, l < 32 ∧ predOk τ l = true ∧ (laneOf x l).isSome) →
      (laneOf y 0 = none → EndsWith (.fcvt a b f m sat t) s τ causeBadSource 0 0) ∧
      ∀ c, laneOf y 0 = some c →
        (16 ≤ c.toNat ∨ 32 / fmtWidth f ≤ c.toNat % 8 → EndsWith (.fcvt a b f m sat t) s τ causeBadSource 0 0) ∧
        (c.toNat < 8 → c.toNat < 32 / fmtWidth f →
          let r := flanes1 τ x (fun l v =>
            let z := if f = .e8m0 then roundE8M0 (rmode s τ m l 0) (num32 v) else roundOf (fmtFp f) (rmode s τ m l 0) sat (num32 v, 0)
            (BitVec.ofNat 32 (z.1 * 2 ^ (fmtWidth f * c.toNat)), z.2))
          Lands s τ t (valuesOf r) → WritesF (.fcvt a b f m sat t) s τ t r) ∧
        (8 ≤ c.toNat → c.toNat < 16 → c.toNat - 8 < 32 / fmtWidth f →
          let r := flanes1 τ x (fun _ v =>
            let z := readScale f (v.toNat / 2 ^ (fmtWidth f * (c.toNat - 8)))
            (BitVec.ofNat 32 (roundOf fpF32 .rne false (z.1, 0)).1, z.2))
          Lands s τ t (valuesOf r) → WritesF (.fcvt a b f m sat t) s τ t r))

/-- R318, R319: FRND rounds to an integral value; FTOI gives the rounded integer, NX where rounding changed the value, and on a NaN or
out of range the end that SAT selects, with IV. -/
def Obligations.RoundingToIntegers : Prop :=
  (∀ (a : Src) (m : Rnd) (t : Target) (s : State) (τ : Task), Runs s τ → SrcsOk τ [a] → ∃ g : Nat → Word → Word × Astat,
    (∀ l x, num32 x = .nan → g l x = (0x7FC00000, 0)) ∧
    (∀ l x neg, num32 x = .inf neg → g l x = (x, 0)) ∧
    (∀ l x neg e, num32 x = .fin neg 0 e false → g l x = (x, 0)) ∧
    (∀ l x neg k e, num32 x = .fin neg (k + 1) e false →
      (numToInt (rmode s τ m l 0) neg (k + 1) e).1 ≠ 0 →
      g l x = ((rne32 (.fin neg (numToInt (rmode s τ m l 0) neg (k + 1) e).1.natAbs 0 false)).1,
        if (numToInt (rmode s τ m l 0) neg (k + 1) e).2 then 4 else 0)) ∧
    (∀ l x neg k e, num32 x = .fin neg (k + 1) e false → (numToInt (rmode s τ m l 0) neg (k + 1) e).1 = 0 →
      g l x = (if neg then 0x80000000 else 0, if (numToInt (rmode s τ m l 0) neg (k + 1) e).2 then 4 else 0)) ∧
    let r := flanes1 τ (readSrc τ false a) g
    (Lands s τ t (valuesOf r) → WritesF (.frnd a m t) s τ t r)) ∧
  ∀ f ∈ [(IFmt.i32, (-2147483648 : Int), (2147483647 : Int)), (.i16, -32768, 32767), (.i8, -128, 127), (.i4, -8, 7), (.u8, 0, 255)],
    ∀ (a : Src) (m : Rnd) (sat : Bool) (t : Target) (s : State) (τ : Task), Runs s τ → SrcsOk τ [a] →
    ∃ g : Nat → Word → Word × Astat,
      (∀ l x, num32 x = .nan → g l x = (BitVec.ofInt 32 (if sat then 0 else f.2.1), 64)) ∧
      (∀ l x neg, num32 x = .inf neg → g l x = (BitVec.ofInt 32 (if sat && !neg then f.2.2 else f.2.1), 64)) ∧
      (∀ l x neg k e st, num32 x = .fin neg k e st → ∀ z, numToInt (rmode s τ m l 0) neg k e = z →
        (f.2.1 ≤ z.1 → z.1 ≤ f.2.2 → g l x = (BitVec.ofInt 32 z.1, if z.2 then 4 else 0)) ∧
        (z.1 < f.2.1 → g l x = (BitVec.ofInt 32 f.2.1, 64 ||| if z.2 then 4 else 0)) ∧
        (f.2.2 < z.1 → g l x = (BitVec.ofInt 32 (if sat then f.2.2 else f.2.1), 64 ||| if z.2 then 4 else 0))) ∧
      let r := flanes1 τ (readSrc τ false a) g
      (Lands s τ t (valuesOf r) → WritesF (.ftoi a f.1 m sat t) s τ t r)

/-- R322: the special functions give the lane's value and flags; and the special cases of its table that are single inputs. -/
def Obligations.SpecialFunctionResults : Prop :=
  (∀ p ∈ Claims.specialForms, ∀ (a : Src) (t : Target) (s : State) (τ : Task), Runs s τ → SrcsOk τ [a] →
    let r := flanes1 τ (readSrc τ false a) (fun _ x => sfu p.2 x)
    Lands s τ t (valuesOf r) → WritesF (p.1 a t) s τ t r) ∧
  ∀ c ∈ Claims.specialCases, sfu c.1 c.2.1 = c.2.2

/-- R327, R332, R333, R337: the scale multiply, the scale accumulate in its fixed order, the dot product of executed lanes by the
summation tree, and the generator's draws with the counter (position, draw index, SEQ, 0). -/
def Obligations.ScaleDotAndDrawResults : Prop :=
  (∀ (a b : Src) (f : Fmt) (t : Target) (s : State) (τ : Task), Runs s τ → SrcsOk τ [a, b] →
    let r := flanes2 τ (readSrc τ false a) (readSrc τ true b) (fun _ x y => scaled x (readScale f y.toNat))
    Lands s τ t (valuesOf r) → WritesF (.scmul a b f t) s τ t r) ∧
  (∀ (a b : Src) (f : Fmt) (c : Nat) (bf : Bool) (t : Target) (s : State) (τ : Task), Runs s τ → SrcsOk τ [a, b] →
    let r := (List.range 32).map (fun l =>
      match predOk τ l, laneOf (readSrc τ false a) l, laneOf (readSrc τ true b) l, laneOf (τ.temps.getD c noLanes) l,
        laneOf (τ.temps.getD ((c + 1) % 8) noLanes) l with
      | true, some x, some y, some z, some w =>
        let p := scaled x (readScale f y.toNat)
        let q := scaled p.1 (readScale (if bf then .bf16 else .f32) w.toNat)
        some ((add32 z q.1).1, p.2 ||| q.2 ||| (add32 z q.1).2)
      | _, _, _, _, _ => none)
    Lands s τ t (valuesOf r) → WritesF (.scacc a b f c bf t) s τ t r) ∧
  (∀ (a b : Src) (f : Fmt) (t : Target) (s : State) (τ : Task), Runs s τ → SrcsOk τ [a, b] →
    let x := lanes2 τ (readSrc τ false a) (readSrc τ true b) (fun _ p _ => p)
    let y := lanes2 τ (readSrc τ false a) (readSrc τ true b) (fun _ _ q => q)
    ∀ r, treeSum 7 (dotLeaves f x y) = r →
    let v := x.map (fun z => z.bind (fun _ => r.map (·.1)))
    Lands s τ t v →
    ∃ τ', put s (τ.raise (r.elim 0 (·.2))) t v = .ok τ' ∧ exec (.vdot a b f t) s = .next (s.setTask (τ'.advance 1))) ∧
  ∀ (a b : Src) (w : Nat) (t : Target) (s : State) (τ : Task), Runs s τ → SrcsOk τ [a, b] →
    let draw := fun (x y : Word) => philox τ.cx.seed.toNat x.toNat y.toNat τ.cx.seq.toNat 0 w
    ∀ p ∈ [(RngForm.raw, fun n => BitVec.ofNat 32 n), (.u01, fun n => (rne32 (.fin false (n / 256) (-24) false)).1),
      (.u01c, fun n => (rne32 (.fin false (n / 256 + 1) (-24) false)).1)],
    let v := lanes2 τ (readSrc τ false a) (readSrc τ true b) (fun _ x y => p.2 (draw x y))
    Lands s τ t v → Writes (.rng a b w p.1 t) s τ t v 1

/-- R324, R325, R326, R334: reductions and scans of the executed lanes in ascending order (`.fadd` of LRED by the tree of R323), SHUF
from the lane that its mode names, LBC from one lane, AMAX to every executed lane with the update of its register at commit. -/
def Obligations.CrossLaneResults : Prop :=
  (∀ p ∈ Claims.combinations, ∀ (a : Src) (t : Target) (s : State) (τ : Task), Runs s τ → SrcsOk τ [a] →
    let x := lanes1 τ (readSrc τ false a) (fun _ v => v)
    (∀ h r, x.filterMap id = h :: r →
      let v := x.map (fun z => z.map (fun _ => r.foldl p.2 h))
      Lands s τ t v → Writes (.lred a p.1 t) s τ t v 1) ∧
    let u := mkLanes (fun l => (laneOf x l).bind (fun _ =>
      match (x.take (l + 1)).filterMap id with
      | h :: r => some (r.foldl p.2 h)
      | [] => none))
    (Lands s τ t u → Writes (.lscan a p.1 t) s τ t u 1)) ∧
  (∀ (a : Src) (t : Target) (s : State) (τ : Task), Runs s τ → SrcsOk τ [a] →
    let x := lanes1 τ (readSrc τ false a) (fun _ v => v)
    (∀ z, treeSum 5 (x.map (fun v => v.map (fun w => (w, 0)))) = some z →
      let v := x.map (fun q => q.map (fun _ => z.1))
      Lands s τ t v →
      ∃ τ', put s (τ.raise z.2) t v = .ok τ' ∧ exec (.lred a .fadd t) s = .next (s.setTask (τ'.advance 1))) ∧
    let r := Claims.runningSum none x
    (Lands s τ t (valuesOf r) → WritesF (.lscan a .fadd t) s τ t r)) ∧
  (∀ (a : Src) (o : RedOp) (t : Target) (s : State) (τ : Task), Runs s τ → SrcsOk τ [a] →
    let x := lanes1 τ (readSrc τ false a) (fun _ v => v)
    anyLane x = false → Lands s τ t x → Writes (.lred a o t) s τ t x 1 ∧ ∀ n, Passes (.amax a n t) s τ) ∧
  (∀ (a b : Src) (t : Target) (s : State) (τ : Task), Runs s τ → SrcsOk τ [a, b] →
    ∀ m ∈ [(ShufMode.idx, fun (_ k : Nat) => k), (.xor, fun l k => l ^^^ k), (.rot, fun l k => (l + k) % τ.w)],
    let v := mkLanes (fun l => if predOk τ l = true then
      (laneOf (readSrc τ true b) l).bind (fun k =>
        if m.2 l (k.toNat % 32) < τ.w then laneOf (readSrc τ false a) (m.2 l (k.toNat % 32)) else none)
      else none)
    Lands s τ t v → Writes (.shuf a b m.1 t) s τ t v 1) ∧
  (∀ (a b : Src) (t : Target) (s : State) (τ : Task) (k x : Word), Runs s τ → SrcsOk τ [a, b] →
    laneOf (readSrc τ true b) 0 = some k → k.toNat % 32 < τ.w → laneOf (readSrc τ false a) (k.toNat % 32) = some x →
    let v := lanes0 τ (fun _ => x)
    Lands s τ t v → Writes (.lbc a b t) s τ t v 1) ∧
  (∀ (a b : Src) (t : Target) (s : State) (τ : Task) (k : Word), Runs s τ → SrcsOk τ [a, b] → targetOk s τ t = true →
    (∃ l, l < 32 ∧ predOk τ l = true) → laneOf (readSrc τ true b) 0 = some k → τ.w ≤ k.toNat % 32 →
    EndsWith (.lbc a b t) s τ causeBadSource 0 0) ∧
  ∀ (a : Src) (n : Nat) (t : Target) (s : State) (τ : Task) (m : Word), Runs s τ → SrcsOk τ [a] →
    let x := lanes1 τ (readSrc τ false a) (fun _ v => v)
    amaxOf x = some m →
    let v := x.map (fun q => q.map (fun _ => m))
    Lands s τ t v →
    ∃ τ', put s τ t v = .ok τ' ∧
      exec (.amax a n t) s = .next (s.setTask ((τ'.enter (mkOp s τ (.amax n m) none noLanes noLanes [])).advance 1))

/-- R330, R331: CBDEC decodes one CB2 index of each lane by the lattice row as the committed LTLDs leave it, exactly and with no flag, and its
reads correct the rows (R82); LTLD enters its rows in the commit buffer, and a row operand of 512 or more raises BAD_SOURCE. -/
def Obligations.CodebookResults : Prop :=
  (∀ (a : Src) (k : Nat) (hi : Bool) (t : Target) (s : State) (τ : Task), Runs s τ → SrcsOk τ [a] →
    let idx := fun (x : Word) => if hi then x.toNat / 2 ^ 16 else x.toNat % 2 ^ 16
    let row := fun (x : Word) => sgetD ((seenLtld s s.occ.a).foldl ltldRows s.isl.lattice) (s.occ.a * 256 + idx x / 256) 0
    let s' := (execLanes τ (readSrc τ false a)).foldl (fun s x => fixIsl s s.occ.a (latticeWord (idx x.2 / 256)) 1) s
    let answers := fun i v => Lands s' τ t v → ∃ τ', put s' τ t v = .ok τ' ∧ exec i s = .next (s'.setTask (τ'.advance 1))
    (∀ x ∈ execLanes τ (readSrc τ false a), latticeBad s s.occ.a (idx x.2 / 256) = false) →
    let v := lanes1 τ (readSrc τ false a) (fun _ x => BitVec.ofNat 32 (quarter .f32 (cb2Elem (row x) (idx x) k)))
    let w := lanes1 τ (readSrc τ false a) (fun _ x => BitVec.ofNat 32
      (quarter .bf16 (cb2Elem (row x) (idx x) (2 * (k % 4))) + quarter .bf16 (cb2Elem (row x) (idx x) (2 * (k % 4) + 1)) * 2 ^ 16))
    answers (.cbdec a .f32 k hi t) v ∧ answers (.cbdec a .bf16 k hi t) w) ∧
  ∀ (a b : Src) (s : State) (τ : Task), Runs s τ → SrcsOk τ [a, b] →
    let x := lanes2 τ (readSrc τ false a) (readSrc τ true b) (fun _ p _ => p)
    let y := lanes2 τ (readSrc τ false a) (readSrc τ true b) (fun _ _ q => q)
    ((∃ w, some w ∈ y ∧ 512 ≤ w.toNat) → EndsWith (.ltld a b) s τ causeBadSource 0 0) ∧
    ((∀ w, some w ∈ y → w.toNat < 512) → anyLane x = true → Enters (.ltld a b) s τ (mkOp s τ .ltld none x y [])) ∧
    ((∀ w, some w ∈ y → w.toNat < 512) → anyLane x = false → Passes (.ltld a b) s τ)


/-- R179, R211: what each kind of target receives: executed lanes are written, every other lane keeps its state, and nothing else of
the task changes. A latch or temporary merges, a predicate latch keeps the sense with each lane, EMASK takes value ≠ 0. -/
def Obligations.TargetsReceiveExecutedLanes : Prop :=
  ∀ (s : State) (τ : Task) (v : Lanes),
    (∀ p, ∃ x, put s τ (.latA p) v = .ok { τ with latA := sset τ.latA p x } ∧ Claims.Merged (sgetD τ.latA p noLanes) v x) ∧
    (∀ p, ∃ x, put s τ (.latB p) v = .ok { τ with latB := sset τ.latB p x } ∧ Claims.Merged (sgetD τ.latB p noLanes) v x) ∧
    (∀ k, k < τ.temps.length → ∃ x, put s τ (.temp k) v = .ok { τ with temps := τ.temps.set k x } ∧
      Claims.Merged (τ.temps.getD k noLanes) v x) ∧
    put s τ .discard v = .ok τ ∧
    (∃ x, put s τ .emask v = .ok { τ with emask := x } ∧
      ∀ l, l < 32 → x.getD l false = match laneOf v l with
        | some w => decide (w ≠ 0)
        | none => τ.emask.getD l false) ∧
    ∀ p sense, ∃ τ', put s τ (if sense then .onTrue p else .onFalse p) v = .ok τ' ∧ p ∈ τ'.armed ∧
      (∀ q, q ≠ p → (q ∈ τ'.armed ↔ q ∈ τ.armed)) ∧ Claims.Merged (sgetD τ.pv p noLanes) v (sgetD τ'.pv p noLanes) ∧
      (∀ l, l < 32 → (sgetD τ'.sense p []).getD l true =
        if (laneOf v l).isSome then sense else (sgetD τ.sense p []).getD l true) ∧
      τ' = { τ with pv := τ'.pv, sense := τ'.sense, armed := τ'.armed } ∧ ∀ q, q ≠ p → sget τ'.pv q = sget τ.pv q

/-- R180, R181, R190: a write to a port enters one emission with the executed lanes of EMASK, the tag that the port's operation gives and the
header of e0; with no such lane nothing is entered. -/
def Obligations.PortWritesEnterOneEmission : Prop :=
  ∀ (s : State) (τ : Task) (n : Nat) (p : Port) (v : Lanes), portAt s n = some p →
    let m := mkLanes (fun l => if τ.emask.getD l false then laneOf v l else none)
    (anyLane m = false → put s τ (.port n) v = .ok τ) ∧
    (anyLane m = true → ∀ c i,
      ((p.top = 0 ∧ c = τ.ctx ∧ i = τ.iter) ∨ (p.top = 1 ∧ τ.iter ≠ 0xFFFF ∧ c = τ.ctx ∧ i = τ.iter + 1) ∨
       (p.top = 2 ∧ c = τ.ctx ∧ i = 0) ∨
       (p.top = 3 ∧ ∃ q, τ.cx.parent = some q ∧ c = q.toNat / 2 ^ 16 ∧ i = q.toNat % 2 ^ 16) ∨
       (p.top = 4 ∧ ∃ w, laneOf v 0 = some w ∧ c = w.toNat % 2 ^ 16 ∧ i = τ.iter ∧
         ∃ x, ctxOf s c = some x ∧ x.st = .live ∧ x.q = τ.cx.q) ∨
       (p.top = 5 ∧ ∃ w, laneOf v 0 = some w ∧ c = τ.ctx ∧ i = w.toNat % 2 ^ 16)) →
      put s τ (.port n) v =
        .ok { τ with cbuf := τ.cbuf ++ [.emit { τ.hdr with ctx := c, iter := i, wm1 := τ.w - 1, can := false } m p.dests] })

/-- R212 steps 3 and 4, R210, R211: whatever lanes execute, a source that the block has not raises BAD_SOURCE, and then a target that may
not be named raises BAD_TARGET with its nine bits. -/
def Obligations.SourcesAndTargetsAreCheckedInOrder : Prop :=
  ∀ (a b : Src) (c : Nat) (f : Fmt) (m : Rnd) (sat : Bool) (t : Target) (k : Cond) (fk : FCond) (o : RedOp) (sm : ShufMode) (rf : RngForm) (i : IFmt),
    ∀ p ∈ Claims.laneForms a b c f m sat t ++ Claims.formedLane a b c f m sat t k fk o sm rf i, ∀ (s : State) (τ : Task), Runs s τ →
      ((∃ x ∈ p.1, ∃ k, x = .e k ∧ τ.nin ≤ k) → EndsWith p.2 s τ causeBadSource 0 0) ∧
      ((∀ x ∈ p.1, ∀ k, x = .e k → k < τ.nin) → targetOk s τ t = false → EndsWith p.2 s τ causeBadTarget 0 t.code)

/-- The frame of every instruction that writes lanes to a target (R179, R181): memory, every register of the context, every other element and
every unit are unchanged; of the task only the named target, the flags where the form collects them, and the position change. -/
def Obligations.LaneInstructionFrame : Prop :=
  (∀ (i : Instr) (s u : State) (τ : Task) (t : Target) (v : Lanes) (n : Nat) (g : Astat), Runs s τ →
    (∃ τ', put s (τ.raise g) t v = .ok τ' ∧ exec i s = .next (s.setTask (τ'.advance n))) → exec i s = .next u →
    Claims.OnlyTask s u ∧ Claims.BytesKept s u ∧ ∃ τ', u.task? = some τ' ∧ Claims.TaskKept τ τ' n ∧ τ'.flags = τ.flags ||| g ∧
      ((∀ p, t ≠ .latA p) → τ'.latA = τ.latA) ∧ ((∀ p, t ≠ .latB p) → τ'.latB = τ.latB) ∧
      ((∀ p, t ≠ .onTrue p ∧ t ≠ .onFalse p) → τ'.pv = τ.pv ∧ τ'.sense = τ.sense ∧ τ'.armed = τ.armed) ∧
      ((∀ k, t ≠ .temp k) → τ'.temps = τ.temps) ∧ (t ≠ .emask → τ'.emask = τ.emask) ∧
      ((∀ k, t ≠ .port k) → τ'.cbuf = τ.cbuf)) ∧
  ∀ (i : Instr) (s u : State) (τ : Task) (x y : Target) (a b : Lanes) (g : Astat), Runs s τ →
    (∃ τ1 τ2, put s (τ.raise g) x a = .ok τ1 ∧ put s τ1 y b = .ok τ2 ∧ exec i s = .next (s.setTask (τ2.advance 1))) → exec i s = .next u →
    let both := [x, y]
    Claims.OnlyTask s u ∧ Claims.BytesKept s u ∧ ∃ τ', u.task? = some τ' ∧ Claims.TaskKept τ τ' 1 ∧ τ'.flags = τ.flags ||| g ∧
      ((∀ t ∈ both, ∀ p, t ≠ .latA p) → τ'.latA = τ.latA) ∧ ((∀ t ∈ both, ∀ p, t ≠ .latB p) → τ'.latB = τ.latB) ∧
      ((∀ t ∈ both, ∀ p, t ≠ .onTrue p ∧ t ≠ .onFalse p) → τ'.pv = τ.pv ∧ τ'.sense = τ.sense ∧ τ'.armed = τ.armed) ∧
      ((∀ t ∈ both, ∀ k, t ≠ .temp k) → τ'.temps = τ.temps) ∧ ((∀ t ∈ both, t ≠ .emask) → τ'.emask = τ.emask) ∧
      ((∀ t ∈ both, ∀ k, t ≠ .port k) → τ'.cbuf = τ.cbuf)

/-- The frame of every instruction that only enters an operation (R175): the operation has no effect before the block commits. -/
def Obligations.EnteredOperationFrame : Prop :=
  ∀ (i : Instr) (s u : State) (τ : Task) (o : Op), Runs s τ → Enters i s τ o → exec i s = .next u →
    Claims.OnlyTask s u ∧ Claims.BytesKept s u ∧ ∃ τ', u.task? = some τ' ∧ Claims.TaskKept τ τ' 1 ∧ τ'.cbuf = τ.cbuf ++ [.op o] ∧
      τ'.flags = τ.flags ∧ τ'.latA = τ.latA ∧ τ'.latB = τ.latB ∧ τ'.pv = τ.pv ∧ τ'.sense = τ.sense ∧ τ'.armed = τ.armed ∧
      τ'.temps = τ.temps ∧ τ'.emask = τ.emask

/-- R251: PACK and UNPACK move lanes into or out of a colour, to a port with TOP = SAME and a discarded T2, and their faults; a FREE context is no
colour either. -/
def Obligations.RecolouringMovesLanes : Prop :=
  ∀ (off n : Nat) (p : Port) (s : State) (τ : Task) (d : Word), Runs s τ → portAt s n = some p → p.top = 0 →
    laneOf (latchB τ) 0 = some d → (∃ l, l < 32 ∧ predOk τ l = true ∧ (laneOf (latchA τ) l).isSome) →
    (ctxOf s (d.toNat % 2 ^ 16) = none → EndsWith (.pack off (.port n) .discard) s τ causeBadTarget 0 (384 + n) ∧
      EndsWith (.unpack off (.port n) .discard) s τ causeBadTarget 0 (384 + n)) ∧
    ∀ x : Ctx, ctxOf s (d.toNat % 2 ^ 16) = some x →
    let m := fun l => if τ.emask.getD l false ∧ predOk τ l ∧ l < 32 then laneOf (latchA τ) l else none
    let sent := fun (out : Lanes) => if anyLane out then
      { τ with cbuf := τ.cbuf ++ [.emit { τ.hdr with ctx := d.toNat % 2 ^ 16, iter := τ.iter, wm1 := x.w - 1, can := false } out p.dests] }
      else τ
    ((x.st ≠ .live ∨ x.q ≠ τ.cx.q) → EndsWith (.pack off (.port n) .discard) s τ causeBadTarget 0 (384 + n) ∧
      EndsWith (.unpack off (.port n) .discard) s τ causeBadTarget 0 (384 + n)) ∧
    (x.st = .live → x.q = τ.cx.q →
      (x.w < off + τ.w → EndsWith (.pack off (.port n) .discard) s τ causeLaneMismatch 0 0) ∧
      (τ.w < off + x.w → EndsWith (.unpack off (.port n) .discard) s τ causeLaneMismatch 0 0) ∧
      (off + τ.w ≤ x.w → x.w ≤ 32 → exec (.pack off (.port n) .discard) s =
        .next (s.setTask ((sent (mkLanes (fun l => if l < x.w ∧ off ≤ l then m (l - off) else none))).advance 1))) ∧
      (off + x.w ≤ τ.w → τ.w ≤ 32 → exec (.unpack off (.port n) .discard) s =
        .next (s.setTask ((sent (mkLanes (fun l => if l < x.w then m (l + off) else none))).advance 1))))

/-- R248, R249: STEERC routes as STEER, and a port that received no lane gets a cancel for its ELEM 0 destinations in place of an emission. -/
def Obligations.SteercCancelsUntakenPaths : Prop :=
  (∀ (x y : Target) (s : State) (τ τ' τ'' : Task), Runs s τ → targetOk s τ x = true → targetOk s τ y = true →
    let u := mkLanes (fun l => if (laneOf (latchB τ) l).elim false (· ≠ 0) ∧ predOk τ l then laneOf (latchA τ) l else none)
    let v := mkLanes (fun l => if (laneOf (latchB τ) l).elim false (· = 0) ∧ predOk τ l then laneOf (latchA τ) l else none)
    putOrCancel s τ x u (laneOf (latchA τ) 0) = .ok τ' → putOrCancel s τ' y v (laneOf (latchA τ) 0) = .ok τ'' →
    exec (.steerc x y) s = .next (s.setTask (τ''.advance 1))) ∧
  (∀ (s : State) (τ : Task) (t : Target) (v : Lanes) (z : Option Word), ((∀ n, t ≠ .port n) ∨ anyLane v = true) →
    putOrCancel s τ t v z = put s τ t v) ∧
  ∀ (s : State) (τ : Task) (n : Nat) (p : Port) (v : Lanes) (z : Option Word) (g : Nat × Nat), anyLane v = false →
    portAt s n = some p → tagOp s τ.cx.q τ.ctx τ.iter τ.cx.parent p.top z = .ok g →
    putOrCancel s τ (.port n) v z = .ok { τ with cbuf := τ.cbuf ++
      [.emit { τ.hdr with ctx := g.1, iter := g.2, wm1 := τ.w - 1, can := true } noLanes (p.dests.filter (fun d => d.elem = 0))] }

/-- R253, R254, R255, R256: SWITCH sends to port T + k alone, SENDX takes the header fields that it selects from lane 0 of B, CANCEL sends a cancel
unless its predicate fires on no lane, and COMMIT enters an entry for the commit stage even with no executed lane. -/
def Obligations.RoutedEmissions : Prop :=
  (∀ (a : Src) (np n : Nat) (s : State) (τ : Task), Runs s τ → SrcsOk τ [a] → (portAt s n).isSome →
    let v := lanes1 τ (readSrc τ false a) (fun _ x => x)
    let k := τ.hdr.pol
    (anyLane v = false → Passes (.switchPol a np (.port n)) s τ) ∧
    (anyLane v = true → np < k → EndsWith (.switchPol a np (.port n)) s τ causeBadSource 0 0) ∧
    (anyLane v = true → k ≤ np → n + k < 128 → Lands s τ (.port (n + k)) v →
      Writes (.switchPol a np (.port n)) s τ (.port (n + k)) v 1)) ∧
  (∀ (a b : Src) (np n : Nat) (s : State) (τ : Task) (w : Word), Runs s τ → SrcsOk τ [a, b] → (portAt s n).isSome →
    (∃ l, l < 32 ∧ predOk τ l = true ∧ (laneOf (readSrc τ false a) l).isSome) →
    laneOf (readSrc τ true b) 0 = some w →
    let v := lanes1 τ (readSrc τ false a) (fun _ x => x)
    let k := w.toNat % 16
    (np < k → EndsWith (.switchLane a b np (.port n)) s τ causeBadSource 0 0) ∧
    (k ≤ np → n + k < 128 → Lands s τ (.port (n + k)) v → Writes (.switchLane a b np (.port n)) s τ (.port (n + k)) v 1)) ∧
  (∀ (a b : Src) (seg pol eor : Bool) (n : Nat) (s : State) (τ : Task) (w : Word) (p : Port) (g : Nat × Nat), Runs s τ → SrcsOk τ [a, b] →
    portAt s n = some p → laneOf (readSrc τ true b) 0 = some w →
    let v := lanes1 τ (readSrc τ false a) (fun _ x => x)
    tagOp s τ.cx.q τ.ctx τ.iter τ.cx.parent p.top (laneOf v 0) = .ok g →
    let m := mkLanes (fun l => if τ.emask.getD l false then laneOf v l else none)
    let h : Header := { τ.hdr with
      ctx := g.1, iter := g.2, wm1 := τ.w - 1, can := false, seg := if seg then w.toNat % 1024 else τ.hdr.seg,
      pol := if pol then w.toNat / 1024 % 16 else τ.hdr.pol, eor := if eor then w.getLsbD 14 else τ.hdr.eor }
    exec (.sendx a b seg pol eor (.port n)) s =
      .next (s.setTask (Task.advance (if anyLane m then { τ with cbuf := τ.cbuf ++ [.emit h m p.dests] } else τ) 1))) ∧
  (∀ (a : Src) (n : Nat) (s : State) (τ : Task) (p : Port), Runs s τ → SrcsOk τ [a] → portAt s n = some p →
    ((∀ l, l < 32 → predOk τ l = false) → (a = .zero ∨ p.top = 4 ∨ p.top = 5) → Passes (.cancel a (.port n)) s τ) ∧
    (a ≠ .zero → p.top ≠ 4 → p.top ≠ 5 → EndsWith (.cancel a (.port n)) s τ causeIllOp 0 0) ∧
    ∀ g, (∃ l, l < 32 ∧ predOk τ l = true) → (a = .zero ∨ p.top = 4 ∨ p.top = 5) →
      tagOp s τ.cx.q τ.ctx τ.iter τ.cx.parent p.top (laneOf (readSrc τ false a) 0) = .ok g →
      exec (.cancel a (.port n)) s = .next (s.setTask (Task.advance { τ with cbuf := τ.cbuf ++
        [.emit { τ.hdr with ctx := g.1, iter := g.2, wm1 := τ.w - 1, can := true } noLanes (p.dests.filter (fun d => d.elem = 0))] } 1))) ∧
  ∀ (a : Src) (nul : Bool) (n : Nat) (p : Port) (s : State) (τ : Task), Runs s τ → SrcsOk τ [a] → portAt s n = some p →
    let v := mkLanes (fun l => if τ.emask.getD l false then laneOf (lanes1 τ (readSrc τ false a) (fun _ x => x)) l else none)
    Enters (.commit a nul (.port n)) s τ (mkOp s τ (.commit (nul || !anyLane v) p) (some n) v noLanes [])


/-- R14, R15, R270, R272, R273: loads, chases and prefetches issue as they execute, one access for each executed lane that passes checks 1
and 2 of R30; LD.ROW reads W consecutive words from the address of lane 0. While the load return buffer is full a load waits (R177). -/
def Obligations.LoadsIssueAsTheyExecute : Prop :=
  (∀ (a b : Src) (base : Nat) (z : Size) (sc : Nat) (t : Target) (s : State), loadWaits s = true →
    exec (.ld a base z sc t) s = .next s ∧ exec (.ldch a b base sc t) s = .next s) ∧
  (∀ z ∈ Claims.sizes, ∀ (a : Src) (base sc n : Nat) (s : State) (τ : Task), Runs s τ → loadWaits s = false → SrcsOk τ [a] → (portAt s n).isSome →
    let xs := execLanes τ (readSrc τ false a)
    let ls := xs.map (fun p => Claims.access p.1 (Claims.addr τ base sc p.2) z.2 0 0)
    xs ≠ [] → (∀ p ∈ xs, Claims.VaOk (Claims.addr τ base sc p.2) z.2 z.2) →
    Claims.Issues (.ld a base z.1 sc (.port n)) s τ (mkOp s τ (.ld z.1) (some n) noLanes noLanes ls)) ∧
  (∀ (a : Src) (base sc n : Nat) (s : State) (τ : Task) (v : Word), Runs s τ → loadWaits s = false → SrcsOk τ [a] → (portAt s n).isSome →
    laneOf (readSrc τ false a) 0 = some v → Claims.SomeLane τ [readSrc τ false a] → 0 < τ.w →
    (∀ l, l < τ.w → Claims.VaOk (Claims.addr τ base sc v + 4 * (l : Int)) 4 4) →
    Claims.Issues (.ld a base .row sc (.port n)) s τ (mkOp s τ (.ld .row) (some n) noLanes noLanes
      ((List.range τ.w).map (fun l => Claims.access l (Claims.addr τ base sc v + 4 * (l : Int)) 4 0 0)))) ∧
  (∀ (a b : Src) (base sc n : Nat) (s : State) (τ : Task) (c : Word), Runs s τ → loadWaits s = false → SrcsOk τ [a, b] → (portAt s n).isSome →
    laneOf (readSrc τ true b) 0 = some c → 1 ≤ c.toNat / 2 ^ 16 → c.toNat / 2 ^ 16 ≤ 1024 →
    let xs := execLanes τ (readSrc τ false a)
    xs ≠ [] → (∀ p ∈ xs, Claims.VaOk (Claims.addr τ base sc p.2) 4 4) →
    Claims.Issues (.ldch a b base sc (.port n)) s τ (mkOp s τ (.ldch base sc (c.toNat / 2 ^ 16) (c.setWidth 16) 0) (some n) noLanes noLanes
      (xs.map (fun p => Claims.access p.1 (Claims.addr τ base sc p.2) 4 0 0)))) ∧
  (∀ z ∈ Claims.sizes, ∀ (a : Src) (base sc : Nat) (s : State) (τ : Task), Runs s τ → SrcsOk τ [a] →
    let xs := execLanes τ (readSrc τ false a)
    (∃ p ∈ xs, Claims.VaOk (Claims.addr τ base sc p.2) z.2 z.2) → ∃ ls : List Lane,
      (∀ x, x ∈ ls ↔ ∃ p ∈ xs, Claims.VaOk (Claims.addr τ base sc p.2) z.2 z.2 ∧ x = Claims.access p.1 (Claims.addr τ base sc p.2) z.2 0 0) ∧
      Claims.Issues (.pref a base z.1 sc) s τ (mkOp s τ .pref none noLanes noLanes ls)) ∧
  ∀ (a : Src) (base sc : Nat) (s : State) (τ : Task) (v : Word), Runs s τ → SrcsOk τ [a] → laneOf (readSrc τ false a) 0 = some v →
    Claims.SomeLane τ [readSrc τ false a] →
    let va := fun l : Nat => Claims.addr τ base sc v + 4 * (l : Int)
    (∃ l, l < τ.w ∧ Claims.VaOk (va l) 4 4) → ∃ ls : List Lane,
      (∀ x, x ∈ ls ↔ ∃ l, l < τ.w ∧ Claims.VaOk (va l) 4 4 ∧ x = Claims.access l (va l) 4 0 0) ∧
      Claims.Issues (.pref a base .row sc) s τ (mkOp s τ .pref none noLanes noLanes ls)

/-- R271, R274: ST, SFLUSH and SINV enter the commit buffer; nothing is written before the block commits. A store carries the low
bytes of its value, ST.ROW one word for each executed lane from the address of lane 0. -/
def Obligations.StoresAndFlushesEnterTheCommitBuffer : Prop :=
  (∀ z ∈ Claims.sizes, ∀ (a b : Src) (base sc : Nat) (t : Target) (n : Option Nat) (s : State) (τ : Task), Runs s τ → SrcsOk τ [a, b] →
    Claims.PortOrNone s t n →
    let xs := (execLanes τ (readSrc τ false a)).filterMap (fun p => (laneOf (readSrc τ true b) p.1).map (fun v => (p.1, p.2, v)))
    xs ≠ [] → (∀ x ∈ xs, Claims.VaOk (Claims.addr τ base sc x.2.1) z.2 z.2) →
    ∃ v, (∀ l, l < 32 → laneOf v l = if ∃ x ∈ xs, x.1 = l then laneOf (readSrc τ true b) l else none) ∧
      Enters (.st a b base z.1 sc t) s τ (mkOp s τ (.st z.1 n.isSome) n v noLanes
        (xs.map (fun x => Claims.access x.1 (Claims.addr τ base sc x.2.1) z.2 (x.2.2.toNat % 256 ^ z.2) 0)))) ∧
  (∀ (a b : Src) (base sc : Nat) (t : Target) (n : Option Nat) (s : State) (τ : Task) (v : Word), Runs s τ → SrcsOk τ [a, b] →
    Claims.PortOrNone s t n → laneOf (readSrc τ false a) 0 = some v →
    let xs := execLanes τ (readSrc τ true b)
    xs ≠ [] → (∀ x ∈ xs, Claims.VaOk (Claims.addr τ base sc v + 4 * (x.1 : Int)) 4 4) →
    ∃ u, (∀ l, l < 32 → laneOf u l = if ∃ x ∈ xs, x.1 = l then laneOf (readSrc τ true b) l else none) ∧
      Enters (.st a b base .row sc t) s τ (mkOp s τ (.st .row n.isSome) n u noLanes
        (xs.map (fun x => Claims.access x.1 (Claims.addr τ base sc v + 4 * (x.1 : Int)) 4 x.2.toNat 0)))) ∧
  ∀ k ∈ [(Instr.sflush, OpKind.sflush), (.sinv, .sinv)], ∀ (a b : Src) (base sc : Nat) (t : Target) (n : Option Nat) (s : State) (τ : Task),
    Runs s τ → SrcsOk τ [a, b] → Claims.PortOrNone s t n →
    let lens := if b = .zero then mkLanes (fun _ => some 1) else readSrc τ true b
    let xs : List (Nat × Word × Nat) := (execLanes τ (readSrc τ false a)).filterMap (fun p => (laneOf lens p.1).map (fun v => (p.1, p.2, v.toNat)))
    ((∃ x ∈ xs, x.2.2 = 0 ∨ 2 ^ 24 < x.2.2) → EndsWith (k.1 a b base sc t) s τ causeBadSource 0 0) ∧
    (xs ≠ [] → (∀ x ∈ xs, 1 ≤ x.2.2 ∧ x.2.2 ≤ 2 ^ 24) → ∃ ls : List Lane,
      Enters (k.1 a b base sc t) s τ (mkOp s τ k.2 n (mkLanes (fun l => if xs.any (·.1 == l) then some 0 else none)) noLanes ls) ∧
      (∀ y ∈ ls, ∃ x ∈ xs, y.lane = x.1 ∧ Claims.addr τ base sc x.2.1 ≤ y.va ∧
        y.va + (y.len : Int) ≤ Claims.addr τ base sc x.2.1 + (x.2.2 : Int)) ∧
      ∀ x ∈ xs, 0 ≤ Claims.addr τ base sc x.2.1 → ∀ v : Int, Claims.addr τ base sc x.2.1 ≤ v →
        v < Claims.addr τ base sc x.2.1 + (x.2.2 : Int) → v < 2 ^ 56 → ∃ y ∈ ls, y.lane = x.1 ∧ y.va ≤ v ∧ v < y.va + (y.len : Int))

/-- R277 to R281: an atomic enters one access for each executed lane, with its value and, for CAS, the expected value of its temporary; the
8-byte forms take each even lane with the one above it, below W. -/
def Obligations.AtomicsEnterTheCommitBuffer : Prop :=
  (∀ (o : AmoOp) (f : AmofOp), o ≠ .swapd → o ≠ .addd → ∀ (a b : Src) (base : Nat) (t : Target) (n : Option Nat) (s : State) (τ : Task),
    Runs s τ → SrcsOk τ [a, b] → Claims.PortOrNone s t n →
    let xs := (execLanes τ (readSrc τ false a)).filterMap (fun p => (laneOf (readSrc τ true b) p.1).map (fun v => (p.1, p.2, v)))
    let ls := xs.map (fun x => Claims.access x.1 (Claims.addr τ base 0 x.2.1) 4 x.2.2.toNat 0)
    xs ≠ [] → (∀ x ∈ xs, Claims.VaOk (Claims.addr τ base 0 x.2.1) 4 4) →
    Enters (.amo a b base o t) s τ (mkOp s τ (.amo o) n noLanes noLanes ls) ∧
    Enters (.amosc a b base o t) s τ (mkOp s τ (.amosc o) n noLanes noLanes ls) ∧
    Enters (.amof a b base f t) s τ (mkOp s τ (.amof f) n noLanes noLanes ls)) ∧
  (∀ (a b : Src) (base c : Nat) (t : Target) (n : Option Nat) (s : State) (τ : Task), Runs s τ → SrcsOk τ [a, b] → Claims.PortOrNone s t n →
    let xs := (execLanes τ (readSrc τ false a)).filterMap (fun p =>
      match laneOf (readSrc τ true b) p.1, laneOf (τ.temps.getD c noLanes) p.1 with
      | some v, some e => some (p.1, p.2, v, e)
      | _, _ => none)
    xs ≠ [] → (∀ x ∈ xs, Claims.VaOk (Claims.addr τ base 0 x.2.1) 4 4) →
    Enters (.cas a b base false c t) s τ (mkOp s τ (.cas false) n noLanes noLanes
      (xs.map (fun x => Claims.access x.1 (Claims.addr τ base 0 x.2.1) 4 x.2.2.1.toNat x.2.2.2.toNat)))) ∧
  ∀ (a b : Src) (base c : Nat) (t : Target) (n : Option Nat) (s : State) (τ : Task), Runs s τ → SrcsOk τ [a, b] → Claims.PortOrNone s t n →
    let both := fun (x : Lanes) (l : Nat) => match laneOf x l, laneOf x (l + 1) with
      | some p, some q => some (p.toNat + q.toNat * 2 ^ 32)
      | _, _ => none
    let xs := ((List.range 16).map (2 * ·)).filterMap (fun l =>
      if l + 1 < τ.w ∧ predOk τ l = true ∧ predOk τ (l + 1) = true then
        match laneOf (readSrc τ false a) l, both (readSrc τ true b) l with
        | some v, some x => some (l, v, x)
        | _, _ => none
      else none)
    let ys := xs.filterMap (fun x => (both (τ.temps.getD c noLanes) x.1).map (fun e => (x, e)))
    (xs ≠ [] → (∀ x ∈ xs, Claims.VaOk (Claims.addr τ base 0 x.2.1) 8 8) →
      let ls := xs.map (fun x => Claims.access x.1 (Claims.addr τ base 0 x.2.1) 8 x.2.2 0)
      ∀ o ∈ [AmoOp.swapd, .addd], Enters (.amo a b base o t) s τ (mkOp s τ (.amo o) n noLanes noLanes ls) ∧
        Enters (.amosc a b base o t) s τ (mkOp s τ (.amosc o) n noLanes noLanes ls)) ∧
    (ys ≠ [] → (∀ y ∈ ys, Claims.VaOk (Claims.addr τ base 0 y.1.2.1) 8 8) →
      Enters (.cas a b base true c t) s τ (mkOp s τ (.cas true) n noLanes noLanes
        (ys.map (fun y => Claims.access y.1.1 (Claims.addr τ base 0 y.1.2.1) 8 y.1.2.2 y.2))))

/-- R30, R33: the lowest executed lane that leaves the 56-bit space raises ACCESS detail 0x01, one that is misaligned raises ALIGN, with its
address; no access is made. -/
def Obligations.LaneAddressFaults : Prop :=
  (∀ z ∈ Claims.sizes, ∀ (a b : Src) (base sc n : Nat) (s : State) (τ : Task) (pre post : List (Nat × Word)) (q : Nat × Word),
    Runs s τ → SrcsOk τ [a, b] → (portAt s n).isSome → execLanes τ (readSrc τ false a) = pre ++ q :: post →
    (∀ p ∈ pre, Claims.VaOk (Claims.addr τ base sc p.2) z.2 z.2) →
    let va := Claims.addr τ base sc q.2
    let at' := (va % 2 ^ 56).toNat
    (loadWaits s = false →
      ((va < 0 ∨ 2 ^ 56 ≤ va) → EndsWith (.ld a base z.1 sc (.port n)) s τ causeAccess 0x01 at') ∧
      (0 ≤ va → va < 2 ^ 56 → va % z.2 ≠ 0 → EndsWith (.ld a base z.1 sc (.port n)) s τ causeAlign 0 at')) ∧
    ((∀ p ∈ pre ++ q :: post, (laneOf (readSrc τ true b) p.1).isSome) →
      ((va < 0 ∨ 2 ^ 56 ≤ va) → EndsWith (.st a b base z.1 sc (.port n)) s τ causeAccess 0x01 at') ∧
      (0 ≤ va → va < 2 ^ 56 → va % z.2 ≠ 0 → EndsWith (.st a b base z.1 sc (.port n)) s τ causeAlign 0 at'))) ∧
  (∀ z ∈ Claims.sizes, ∀ (a b : Src) (base sc : Nat) (t : Target) (n : Option Nat) (s : State) (τ : Task) (pre post : List (Nat × Word × Word))
    (q : Nat × Word × Word), Runs s τ → SrcsOk τ [a, b] → Claims.PortOrNone s t n →
    (execLanes τ (readSrc τ false a)).filterMap (fun p => (laneOf (readSrc τ true b) p.1).map (fun v => (p.1, p.2, v))) = pre ++ q :: post →
    (∀ p ∈ pre, Claims.VaOk (Claims.addr τ base sc p.2.1) z.2 z.2) →
    Claims.VaFaults (.st a b base z.1 sc t) s τ (Claims.addr τ base sc q.2.1) z.2) ∧
  (∀ (a : Src) (base sc n : Nat) (s : State) (τ : Task) (v : Word) (l : Nat), Runs s τ → loadWaits s = false → SrcsOk τ [a] → (portAt s n).isSome →
    laneOf (readSrc τ false a) 0 = some v → Claims.SomeLane τ [readSrc τ false a] → l < τ.w →
    (∀ j, j < l → Claims.VaOk (Claims.addr τ base sc v + 4 * (j : Int)) 4 4) →
    Claims.VaFaults (.ld a base .row sc (.port n)) s τ (Claims.addr τ base sc v + 4 * (l : Int)) 4) ∧
  (∀ (a b : Src) (base sc : Nat) (t : Target) (n : Option Nat) (s : State) (τ : Task) (v : Word) (pre post : List (Nat × Word)) (q : Nat × Word),
    Runs s τ → SrcsOk τ [a, b] → Claims.PortOrNone s t n → laneOf (readSrc τ false a) 0 = some v →
    execLanes τ (readSrc τ true b) = pre ++ q :: post → (∀ x ∈ pre, Claims.VaOk (Claims.addr τ base sc v + 4 * (x.1 : Int)) 4 4) →
    Claims.VaFaults (.st a b base .row sc t) s τ (Claims.addr τ base sc v + 4 * (q.1 : Int)) 4) ∧
  (∀ (a b : Src) (base sc n : Nat) (s : State) (τ : Task) (c : Word) (pre post : List (Nat × Word)) (q : Nat × Word), Runs s τ → loadWaits s = false →
    SrcsOk τ [a, b] → (portAt s n).isSome → laneOf (readSrc τ true b) 0 = some c → 1 ≤ c.toNat / 2 ^ 16 → c.toNat / 2 ^ 16 ≤ 1024 →
    execLanes τ (readSrc τ false a) = pre ++ q :: post → (∀ p ∈ pre, Claims.VaOk (Claims.addr τ base sc p.2) 4 4) →
    Claims.VaFaults (.ldch a b base sc (.port n)) s τ (Claims.addr τ base sc q.2) 4) ∧
  (∀ (o : AmoOp) (f : AmofOp), o ≠ .swapd → o ≠ .addd → ∀ (a b : Src) (base : Nat) (t : Target) (n : Option Nat) (s : State) (τ : Task)
    (pre post : List (Nat × Word × Word)) (q : Nat × Word × Word), Runs s τ → SrcsOk τ [a, b] → Claims.PortOrNone s t n →
    (execLanes τ (readSrc τ false a)).filterMap (fun p => (laneOf (readSrc τ true b) p.1).map (fun v => (p.1, p.2, v))) = pre ++ q :: post →
    (∀ p ∈ pre, Claims.VaOk (Claims.addr τ base 0 p.2.1) 4 4) →
    ∀ i ∈ [Instr.amo a b base o t, .amosc a b base o t, .amof a b base f t], Claims.VaFaults i s τ (Claims.addr τ base 0 q.2.1) 4) ∧
  (∀ (a b : Src) (base c : Nat) (t : Target) (n : Option Nat) (s : State) (τ : Task) (pre post : List (Nat × Word)) (q : Nat × Word), Runs s τ →
    SrcsOk τ [a, b] → Claims.PortOrNone s t n →
    (execLanes τ (readSrc τ false a)).filter (fun p => (laneOf (readSrc τ true b) p.1).isSome && (laneOf (τ.temps.getD c noLanes) p.1).isSome) =
      pre ++ q :: post →
    (∀ p ∈ pre, Claims.VaOk (Claims.addr τ base 0 p.2) 4 4) → Claims.VaFaults (.cas a b base false c t) s τ (Claims.addr τ base 0 q.2) 4) ∧
  ∀ (a b : Src) (base c : Nat) (t : Target) (n : Option Nat) (s : State) (τ : Task) (pre post : List (Nat × Word)) (q : Nat × Word), Runs s τ →
    SrcsOk τ [a, b] → Claims.PortOrNone s t n →
    let pair := fun (x : Lanes) (l : Nat) => (laneOf x l).isSome && (laneOf x (l + 1)).isSome
    let even := ((List.range 16).map (2 * ·)).filterMap (fun l =>
      if l + 1 < τ.w ∧ predOk τ l = true ∧ predOk τ (l + 1) = true then (laneOf (readSrc τ false a) l).map (fun v => (l, v)) else none)
    (∀ p ∈ pre, Claims.VaOk (Claims.addr τ base 0 p.2) 8 8) →
    (even.filter (fun p => pair (readSrc τ true b) p.1) = pre ++ q :: post →
      ∀ o ∈ [AmoOp.swapd, .addd], ∀ i ∈ [Instr.amo a b base o t, .amosc a b base o t], Claims.VaFaults i s τ (Claims.addr τ base 0 q.2) 8) ∧
    (even.filter (fun p => pair (readSrc τ true b) p.1 && pair (τ.temps.getD c noLanes) p.1) = pre ++ q :: post →
      Claims.VaFaults (.cas a b base true c t) s τ (Claims.addr τ base 0 q.2) 8)

/-- R263, R282 to R288: hitch operations, fences, barriers and WAIT enter the commit buffer; a hitch VA that is no multiple of 64 raises
ALIGN, and a hitch form that the spec does not list raises ILL_OP. -/
def Obligations.SynchronisationOperationsEnter : Prop :=
  (∀ (a : Src) (base : Nat) (k : HKind) (t : Target) (n : Option Nat) (s : State) (τ : Task) (v : Word), Runs s τ → SrcsOk τ [a] →
    Claims.PortOrNone s t n → laneOf (readSrc τ false a) 0 = some v → Claims.SomeLane τ [readSrc τ false a] →
    let va := Claims.addr τ base 0 v
    let z := lanes1 τ (readSrc τ false a) (fun _ _ => 0)
    let o := fun kind => mkOp s τ kind n z noLanes [Claims.access 0 va 64 0 0]
    (Claims.VaOk va 64 64 → n.isSome → Enters (.hacq a base k t) s τ (o (.hreq k false))) ∧
    (Claims.VaOk va 64 64 → n.isSome → k ≠ .p → Enters (.htry a base k t) s τ (o (.hreq k true))) ∧
    (Claims.VaOk va 64 64 → k ≠ .x → Enters (.hrel a base k t) s τ (o (.hrel k))) ∧
    (va % 64 ≠ 0 → let faults := fun i => EndsWith i s τ causeAlign 0 (va % 2 ^ 56).toNat
      (n.isSome → faults (.hacq a base k t)) ∧ (n.isSome → k ≠ .p → faults (.htry a base k t)) ∧ (k ≠ .x → faults (.hrel a base k t)))) ∧
  (∀ (a : Src) (base : Nat) (t : Target) (s : State) (τ : Task), Runs s τ →
    EndsWith (.htry a base .p t) s τ causeIllOp 0 0 ∧ EndsWith (.hrel a base .x t) s τ causeIllOp 0 0) ∧
  (∀ k ∈ [(Instr.hbind, OpKind.hbind), (.hunb, .hunb)], ∀ (a b : Src) (base : Nat) (t : Target) (n : Option Nat) (s : State) (τ : Task)
    (v r m : Word), Runs s τ → SrcsOk τ [a, b] → Claims.PortOrNone s t n → laneOf (readSrc τ false a) 0 = some v →
    laneOf (readSrc τ true b) 0 = some r → laneOf (readSrc τ true b) 1 = some m → m.toNat < 32 →
    Claims.SomeLane τ [readSrc τ false a, readSrc τ true b] →
    (Claims.addr τ base 0 v % 64 ≠ 0 → EndsWith (k.1 a b base t) s τ causeAlign 0 (Claims.addr τ base 0 v % 2 ^ 56).toNat) ∧
    (Claims.VaOk (Claims.addr τ base 0 v) 64 64 → Claims.VaOk (Claims.addr τ base 0 r) ((m.toNat + 1) * 128) 1 →
    Enters (k.1 a b base t) s τ (mkOp s τ k.2 n (lanes2 τ (readSrc τ false a) (readSrc τ true b) (fun _ _ _ => 0)) noLanes
      [Claims.access 0 (Claims.addr τ base 0 v) 64 0 0, Claims.access 1 (Claims.addr τ base 0 r) ((m.toNat + 1) * 128) 0 0]))) ∧
  (∀ a ∈ [Src.latch, .zero], ∀ (sc : Nat) (t : Target) (n : Option Nat) (s : State) (τ : Task), Runs s τ → Claims.PortOrNone s t n →
    let v := lanes1 τ (readSrc τ false a) (fun _ w => w)
    (anyLane v = true → Enters (.fence a sc t) s τ (mkOp s τ (.fence sc) n v noLanes [])) ∧
    (anyLane v = false → Passes (.fence a sc t) s τ)) ∧
  (∀ (l st d m n : Nat) (s : State) (τ : Task), Runs s τ → (portAt s n).isSome →
    let v := lanes1 τ (latchA τ) (fun _ w => w)
    (anyLane v = true → Enters (.wait l st d m (.port n)) s τ (mkOp s τ (.wait l st d m) (some n) v noLanes [])) ∧
    (anyLane v = false → Passes (.wait l st d m (.port n)) s τ)) ∧
  ∀ (a b : Src) (base n : Nat) (s : State) (τ : Task) (key : Word), Runs s τ → SrcsOk τ [a, b] → (portAt s n).isSome →
    laneOf (readSrc τ false a) 0 = some key →
    (Claims.SomeLane τ [readSrc τ false a] → (2 ^ 24 ≤ key.toNat ∨ ownGroup s τ (key.toNat % 2 ^ 16) = none) →
      EndsWith (.bar a b false base (.port n)) s τ causeBadSource 0 0) ∧
    (key.toNat < 2 ^ 24 → (ownGroup s τ (key.toNat % 2 ^ 16)).isSome →
      (Claims.SomeLane τ [readSrc τ false a] →
        Enters (.bar a b false base (.port n)) s τ (mkOp s τ (.bar false key.toNat) (some n) noLanes noLanes [])) ∧
      ∀ v, Claims.SomeLane τ [readSrc τ false a, readSrc τ true b] → laneOf (readSrc τ true b) 0 = some v →
        (Claims.addr τ base 0 v % 64 ≠ 0 →
          EndsWith (.bar a b true base (.port n)) s τ causeAlign 0 (Claims.addr τ base 0 v % 2 ^ 56).toNat) ∧
        (Claims.VaOk (Claims.addr τ base 0 v) 64 64 → Enters (.bar a b true base (.port n)) s τ
          (mkOp s τ (.bar true key.toNat) (some n) noLanes noLanes [Claims.access 0 (Claims.addr τ base 0 v) 64 0 0])))

/-- R18, R54, R275, R276, R290: LDP, STP and GIVE raise the first check that fails, in order, for the lowest executed lane that fails one,
with the lane's PADDR. -/
def Obligations.PenAccessesAreCheckedInOrder : Prop :=
  (∀ (a : Src) (i : Nat) (t : Target) (s : State) (τ : Task) (pre post : List (Nat × Word)) (q : Nat × Word) (c d : Nat), i < 2048 → Runs s τ →
    ldpWaits a i s = false → SrcsOk τ [a] → targetOk s τ t = true → execLanes τ (readSrc τ false a) = pre ++ q :: post →
    (∀ x ∈ pre, Claims.PenOk s τ (x.2.toNat / 2 ^ 22) (Claims.wordOff x.2 i) 4 4) →
    Claims.PenFault s τ (q.2.toNat / 2 ^ 22) (Claims.wordOff q.2 i) 4 4 c d → EndsWith (.ldp a i t) s τ c d q.2.toNat) ∧
  (∀ (a : Src) (i : Nat) (s : State) (τ : Task) (pre post : List (Nat × Word)) (q : Nat × Word) (c d : Nat), i < 2048 → Runs s τ →
    SrcsOk τ [a] → (execLanes τ (latchA τ)).filter (fun x => (laneOf (readSrc τ false a) x.1).isSome) = pre ++ q :: post →
    (∀ x ∈ pre, Claims.PenOk s τ (x.2.toNat / 2 ^ 22) (Claims.wordOff x.2 i) 4 4) →
    Claims.PenFault s τ (q.2.toNat / 2 ^ 22) (Claims.wordOff q.2 i) 4 4 c d → EndsWith (.stp a i) s τ c d q.2.toNat) ∧
  ∀ (a : Src) (eng : Nat) (s : State) (τ : Task) (v : Word) (c d : Nat), Runs s τ → SrcsOk τ [a] →
    Claims.SomeLane τ [readSrc τ false a] → laneOf (readSrc τ false a) 0 = some v →
    Claims.PenFault s τ (v.toNat / 2 ^ 22) 0 0 1 c d → EndsWith (.give a eng) s τ c d v.toNat

/-- R275, R276, R56: LDP answers the word of each executed lane as its pen stands at issue, least significant byte first, or raises MEM_UE;
STP enters its words, which its commit writes. The writes of committed STPs that still wait at a bank are performed first, and while a FENCE
holds one of the context's the LDP waits (log entry 12); the words read lose their single-bit errors (R82). -/
def Obligations.ScratchpadLoadsAndStores : Prop :=
  (∀ (a : Src) (i : Nat) (t : Target) (s : State), ldpWaits a i s = true → exec (.ldp a i t) s = .next s) ∧
  (∀ (a : Src) (i : Nat) (t : Target) (s : State) (τ : Task), i < 2048 → Runs s τ → ldpWaits a i s = false → SrcsOk τ [a] → targetOk s τ t = true →
    let xs := execLanes τ (readSrc τ false a)
    let s' := xs.foldl (fun s x => fixSram s (penByte s s.occ.a (penOf x.2.toNat) (pwOff x.2 i).toNat) 4) (drainStp s s.occ.a)
    let bad := fun n => (sget s'.mem.sramBad (n / 8)).isSome ∨ (sget s'.mem.sramLatent (n / 8)).isSome
    (∀ x ∈ xs, Claims.PenOk s τ (x.2.toNat / 2 ^ 22) (Claims.wordOff x.2 i) 4 4) →
    (∀ pre q post p, xs = pre ++ q :: post → sget s.tab.pens (s.occ.a * 1024 + q.2.toNat / 2 ^ 22) = some p →
      bad (Claims.wordAt s p q.2 i) →
      (∀ x ∈ pre, ∀ p, sget s.tab.pens (s.occ.a * 1024 + x.2.toNat / 2 ^ 22) = some p → ¬ bad (Claims.wordAt s p x.2 i)) →
      EndsWith (.ldp a i t) s τ causeMemUe 0 q.2.toNat) ∧
    ((∀ x ∈ xs, ∀ p, sget s.tab.pens (s.occ.a * 1024 + x.2.toNat / 2 ^ 22) = some p → ¬ bad (Claims.wordAt s p x.2 i)) → ∃ v,
      (∀ l, l < 32 → ((laneOf v l).isSome ↔ ∃ x ∈ xs, x.1 = l)) ∧
      (∀ x ∈ xs, ∀ p, sget s.tab.pens (s.occ.a * 1024 + x.2.toNat / 2 ^ 22) = some p → ∃ w, laneOf v x.1 = some w ∧
        ∀ k, k < 4 → (w >>> (8 * k)).setWidth 8 = mget s'.mem.sram (Claims.wordAt s p x.2 i + k)) ∧
      (Lands s' τ t v → ∃ τ', put s' τ t v = .ok τ' ∧ exec (.ldp a i t) s = .next (s'.setTask (τ'.advance 1))))) ∧
  (∀ (s : State) (tile : Nat), (∀ o ∈ s.ops, o.tile = tile → ∀ x, o.kind ≠ .stp x) → drainStp s tile = s) ∧
  ∀ (a : Src) (i : Nat) (s : State) (τ : Task), i < 2048 → Runs s τ → SrcsOk τ [a] →
    let val := readSrc τ false a
    let xs := (execLanes τ (latchA τ)).filter (fun x => (laneOf val x.1).isSome)
    xs ≠ [] → (∀ x ∈ xs, Claims.PenOk s τ (x.2.toNat / 2 ^ 22) (Claims.wordOff x.2 i) 4 4) → ∃ ls : List Lane,
      (∀ y ∈ ls, ∃ x ∈ xs, ∃ p w, sget s.tab.pens (s.occ.a * 1024 + x.2.toNat / 2 ^ 22) = some p ∧ laneOf val x.1 = some w ∧
        y.lane = x.1 ∧ y.va = (Claims.wordAt s p x.2 i : Nat) ∧ y.len = 4 ∧ y.data = w.toNat ∧ y.fin = false) ∧
      ls.map (·.lane) = xs.map (·.1) ∧ Enters (.stp a i) s τ (mkOp s τ (.stp []) none val noLanes ls)

/-- R290, R294, R295: GIVE enters and is noted in the block; QPOST and QFREE enter when the slot is reserved or taken by a PE and the block has
not moved it yet, and raise TROUGH with the first detail that R62 gives otherwise; the checks of R18 on their pen come last, which is the model's
reading (log entry 25); QSTAT answers the trough's counts, its waiters counted as the model reads NWAIT (log entry 24). -/
def Obligations.PenHandOverAndTroughState : Prop :=
  (∀ (a : Src) (eng : Nat) (s : State) (τ : Task) (v : Word), Runs s τ → SrcsOk τ [a] → Claims.SomeLane τ [readSrc τ false a] →
    laneOf (readSrc τ false a) 0 = some v → Claims.PenOk s τ (v.toNat / 2 ^ 22) 0 0 1 →
    exec (.give a eng) s = .next (s.setTask (({ τ with gives := τ.gives ++ [(v.toNat / 2 ^ 22, eng, eng == 8)] }.enter
      (mkOp s { τ with gives := τ.gives ++ [(v.toNat / 2 ^ 22, eng, eng == 8)] } (.give (v.toNat / 2 ^ 22) eng) none
        (readSrc τ false a) noLanes [])).advance 1))) ∧
  (∀ k ∈ [(Instr.qpost, OpKind.qpost, false), (.qfree, .qfree, true)], ∀ (a : Src) (s : State) (τ : Task) (v : Word) (p : Pen) (q : Trough),
    Runs s τ → SrcsOk τ [a] → Claims.SomeLane τ [readSrc τ false a] → laneOf (readSrc τ false a) 0 = some v →
    let pen := v.toNat / 2 ^ 22
    ((∀ e, sget s.tab.pens (s.occ.a * 1024 + pen) = some e → e.size = 0 ∨ e.tm = false) → EndsWith (k.1 a) s τ causeTrough 0x04 v.toNat) ∧
    (sget s.tab.pens (s.occ.a * 1024 + pen) = some p → p.size ≠ 0 → p.tm = true →
    ((¬ ∃ r, Claims.TroughIs s p.trg r) → EndsWith (k.1 a) s τ causeTrough 0x01 v.toNat) ∧
    (Claims.TroughIs s p.trg q →
    (pen < q.pen0 ∨ q.pen0 + q.nslot ≤ pen → EndsWith (k.1 a) s τ causeTrough 0x04 v.toNat) ∧
    (q.pen0 ≤ pen → pen < q.pen0 + q.nslot →
    let slot := pen - q.pen0
    let theirs := if k.2.2 then q.ckind else q.pkind
    let ready := if k.2.2 then (slot + q.nslot - q.nxf) % q.nslot < q.taken ∧ slot ∉ q.freed
      else (slot + q.nslot - q.nxp) % q.nslot < q.rsvd ∧ slot ∉ q.posted
    (theirs ≠ 0 → EndsWith (k.1 a) s τ causeTrough 0x05 v.toNat) ∧
    (theirs = 0 → ¬ ready ∨ (pen, k.2.2) ∈ τ.moves → EndsWith (k.1 a) s τ causeTrough (if k.2.2 then 0x03 else 0x02) v.toNat) ∧
    (theirs = 0 → ready → (pen, k.2.2) ∉ τ.moves →
      (∀ c d, Claims.PenFault s τ pen (v.toNat % 2 ^ 22 : Nat) 4 4 c d → EndsWith (k.1 a) s τ c d v.toNat) ∧
      (Claims.PenOk s τ pen (v.toNat % 2 ^ 22 : Nat) 4 4 →
        let τ' := { τ with moves := τ.moves ++ [(pen, k.2.2)] }
        exec (k.1 a) s = .next (s.setTask ((τ'.enter (mkOp s τ' (k.2.1 pen) none noLanes noLanes [])).advance 1)))))))) ∧
  ∀ (a : Src) (t : Target) (s : State) (τ : Task) (v : Word) (q : Trough), Runs s τ → SrcsOk τ [a] → Claims.SomeLane τ [readSrc τ false a] →
    laneOf (readSrc τ false a) 0 = some v → v.toNat < 64 → targetOk s τ t = true → Claims.TroughIs s v.toNat q →
    ∃ x, (∀ l, l < 32 → laneOf x l = if l < τ.w then ([q.free, q.rsvd, q.filled, q.taken, peWaiters q,
      q.nxr + q.nxp * 2 ^ 8 + q.nxt * 2 ^ 16 + q.nxf * 2 ^ 24].map (BitVec.ofNat 32))[l]? else none) ∧
      (Lands s τ t x → Writes (.qstat a t) s τ t x 1)

/-- R59, R61, R62, R291 to R293: QRSV takes the next free slot, QTAKE the next filled one: the slot's pen is a PE's, its PADDR stands in every
lane below W, and the frame holds it; a void slot that comes to NXT by a take goes on at once; a slot the position already holds is answered
again; a ninth raises TROUGH detail 0x06; with no slot the task ends and waits, of 16 tasks at most. That the 16 are tasks only (log entry 24), that
a pipe's end leaves GEN (log entry 29), and that a task waits behind an earlier waiter of its kind though a slot is there (log entry 51), are the
model's choices. -/
def Obligations.TroughSlotsMoveAtIssue : Prop :=
  ∀ k ∈ [(Instr.qrsv, false), (.qtake, true)], ∀ (a : Src) (np : Nat) (t : Target) (s : State) (τ : Task) (v : Word), Runs s τ → SrcsOk τ [a] →
    targetOk s τ t = true → (portAt s np).isSome → Claims.SomeLane τ [readSrc τ false a] → laneOf (readSrc τ false a) 0 = some v →
    (64 ≤ v.toNat → EndsWith (k.1 a np t) s τ causeBadSource 0 0) ∧
    (v.toNat < 64 → (¬ ∃ q, Claims.TroughIs s v.toNat q) → EndsWith (k.1 a np t) s τ causeTrough 0x01 0) ∧
    ∀ q, v.toNat < 64 → Claims.TroughIs s v.toNat q →
      ((if k.2 then q.ckind else q.pkind) ≠ 0 → EndsWith (k.1 a np t) s τ causeTrough 0x05 0) ∧
      ((if k.2 then q.ckind else q.pkind) = 0 →
        (∀ x ∈ Claims.held s τ, x.blk = τ.blk → x.pos = τ.pos → x.take = k.2 →
          (∀ y ∈ Claims.held s τ, y.blk = τ.blk → y.pos = τ.pos → y.take = k.2 → y = x) →
          let w := Claims.allLanes τ (BitVec.ofNat 32 (x.pen * 2 ^ 22))
          Lands s τ t w → Writes (k.1 a np t) s τ t w 1) ∧
        ((∀ x ∈ Claims.held s τ, ¬ (x.blk = τ.blk ∧ x.pos = τ.pos ∧ x.take = k.2)) →
          (8 ≤ (Claims.held s τ).length → EndsWith (k.1 a np t) s τ causeTrough 0x06 0) ∧
          ((Claims.held s τ).length < 8 →
            (((if k.2 then q.filled else q.free) = 0 ∨ ∃ w ∈ q.waiters, w.takes = k.2) →
              exec (k.1 a np t) s = .next (endTask s τ (if peWaiters q < 16 then
                .trough v.toNat (.pe k.2 s.occ.b τ.rank τ.ctx τ.iter τ.blk τ.pos np) else .throttle true))) ∧
            ((if k.2 then q.filled else q.free) ≠ 0 → (∀ w ∈ q.waiters, w.takes ≠ k.2) →
              let pen := q.pen0 + (if k.2 then q.nxt else q.nxr)
              ∀ p, sget s.tab.pens (s.occ.a * 1024 + pen) = some p →
              let q' := if k.2 then { q with nxt := (q.nxt + 1) % q.nslot, filled := q.filled - 1, taken := q.taken + 1 }
                else { q with nxr := (q.nxr + 1) % q.nslot, free := q.free - 1, rsvd := q.rsvd + 1 }
              let s1 := { s with
                tab := { s.tab with troughs := sset s.tab.troughs (s.occ.a * 64 + v.toNat) q',
                                    pens := sset s.tab.pens (s.occ.a * 1024 + pen) { p with own := false, eng := 0 } } }
              let s' := addOwned (if k.2 then settleTrough s1 s.occ.a v.toNat else s1)
                { tile := s.occ.a, rank := τ.rank, ctx := τ.ctx, iter := τ.iter, blk := τ.blk, pos := τ.pos, pen := pen, take := k.2, groom := τ.kind == .groom }
              ((∀ x ∈ q'.voids ++ q'.posted ++ q'.freed, x ≠ q'.nxt ∧ x ≠ q'.nxp ∧ x ≠ q'.nxf) → settleTrough s1 s.occ.a v.toNat = s1) ∧
              let w := Claims.allLanes τ (BitVec.ofNat 32 (pen * 2 ^ 22))
              (Lands s' τ t w → ∃ τ', put s' τ t w = .ok τ' ∧ exec (k.1 a np t) s = .next (s'.setTask (τ'.advance 1)))))))

/-- R296 to R301: a Dray command whose vector, pen, GIVE, destination and subgroup pass the checks of R298 enters its channel at commit; an
absent lane, a reserved bit, a length out of range, and a destination or subgroup that is not the launch's raise BAD_SOURCE, a pen that was not
given to the channel OWN_VIOL. -/
def Obligations.DrayCommandsEnter : Prop :=
  (∀ c ∈ Claims.drays, ∀ (a : Src) (ch n : Nat) (s : State) (τ : Task), Runs s τ → SrcsOk τ [a] → (portAt s n).isSome →
    let v := readSrc τ false a
    let w := Claims.wordOf v
    let rows := if c.2.1 ch = .dcopy 0 ch ∨ c.2.1 ch = .dcopy 1 ch then [Claims.access 0 (Claims.vaOf v : Nat) (w 3) (w 0 % 2 ^ 22) 0] else []
    (Claims.SomeLane τ [v] → ¬ Claims.VectorOf τ v 8 → EndsWith (c.1 a ch (.port n)) s τ causeBadSource 0 0) ∧
    (Claims.SomeLane τ [v] → Claims.VectorOf τ v 8 → c.2.2.2 s τ w → (∃ p, Claims.Reaches s τ (w 0 / 2 ^ 22) (w 0 % 2 ^ 22 : Nat) (c.2.2.1 (w 3)) p) →
      (∀ g ∈ τ.gives, ¬ (g.1 = w 0 / 2 ^ 22 ∧ g.2.1 = ch + 1)) → EndsWith (c.1 a ch (.port n)) s τ causeOwnViol 0 (w 0)) ∧
    (Claims.SomeLane τ [v] → Claims.VectorOf τ v 8 → ¬ c.2.2.2 s τ w → Claims.PenFor s τ (w 0) (c.2.2.1 (w 3)) ch →
      EndsWith (c.1 a ch (.port n)) s τ causeBadSource 0 0) ∧
    (Claims.SomeLane τ [v] → Claims.VectorOf τ v 8 → c.2.2.2 s τ w → Claims.PenFor s τ (w 0) (c.2.2.1 (w 3)) ch →
      Claims.EntersAfter (c.1 a ch (.port n)) s τ [w 0 / 2 ^ 22] (ch + 1)
        (mkOp s τ (c.2.1 ch) (some n) (Claims.below τ v) noLanes rows))) ∧
  (∀ (a : Src) (ch : Nat) (o : DredOp) (i32 : Bool) (n : Nat) (s : State) (τ : Task), Runs s τ → SrcsOk τ [a] → (portAt s n).isSome →
    let v := readSrc τ false a
    let w := Claims.wordOf v
    let good := Claims.LenOk (w 3) ∧ w 1 = 0 ∧ w 2 = 0 ∧ w 4 = 0 ∧ w 5 < 2 ^ 24 ∧ Claims.InGroup s τ (w 5) ∧ w 6 = 0 ∧ w 7 = 0
    (Claims.SomeLane τ [v] → ¬ Claims.VectorOf τ v 8 → EndsWith (.dred a ch o i32 (.port n)) s τ causeBadSource 0 0) ∧
    (Claims.SomeLane τ [v] → Claims.VectorOf τ v 8 → good → (∃ p, Claims.Reaches s τ (w 0 / 2 ^ 22) (w 0 % 2 ^ 22 : Nat) (w 3) p) →
      (∀ g ∈ τ.gives, ¬ (g.1 = w 0 / 2 ^ 22 ∧ g.2.1 = ch + 1)) → EndsWith (.dred a ch o i32 (.port n)) s τ causeOwnViol 0 (w 0)) ∧
    (Claims.SomeLane τ [v] → Claims.VectorOf τ v 8 → Claims.PenFor s τ (w 0) (w 3) ch →
    (¬ good → EndsWith (.dred a ch o i32 (.port n)) s τ causeBadSource 0 0) ∧
    (good → Claims.EntersAfter (.dred a ch o i32 (.port n)) s τ [w 0 / 2 ^ 22] (ch + 1)
      (mkOp s τ (.dred ch o i32) (some n) (Claims.below τ v) noLanes [])))) ∧
  ∀ k ∈ [(Instr.dgath, OpKind.dgath), (.dscat, .dscat)], ∀ (a b : Src) (ch n : Nat) (s : State) (τ : Task), Runs s τ → SrcsOk τ [a, b] →
    (portAt s n).isSome →
    let v := readSrc τ false a
    let w := Claims.wordOf v
    let good := Claims.LenOk (w 3) ∧ w 2 < 2 ^ 24 ∧ w 4 = 0 ∧ w 6 = 0 ∧ w 7 = 0
    Claims.SomeLane τ [v, readSrc τ true b] →
    (¬ Claims.VectorOf τ v 8 → EndsWith (k.1 a b ch (.port n)) s τ causeBadSource 0 0) ∧
    (Claims.VectorOf τ v 8 → good → (∃ p, Claims.Reaches s τ (w 0 / 2 ^ 22) (w 0 % 2 ^ 22 : Nat) (τ.w * w 3) p) →
      (∀ g ∈ τ.gives, ¬ (g.1 = w 0 / 2 ^ 22 ∧ g.2.1 = ch + 1)) → EndsWith (k.1 a b ch (.port n)) s τ causeOwnViol 0 (w 0)) ∧
    (Claims.VectorOf τ v 8 → ¬ good → EndsWith (k.1 a b ch (.port n)) s τ causeBadSource 0 0) ∧
    (Claims.VectorOf τ v 8 → good → Claims.PenFor s τ (w 0) (τ.w * w 3) ch →
      Claims.EntersAfter (k.1 a b ch (.port n)) s τ [w 0 / 2 ^ 22] (ch + 1) (mkOp s τ (k.2 ch) (some n) (Claims.below τ v) noLanes
        ((execLanes τ (readSrc τ true b)).map (fun x =>
          Claims.access x.1 ((Claims.vaOf v : Nat) + x.2.toInt * (w 5 : Nat)) (w 3) (w 0 % 2 ^ 22 + x.1 * w 3) 0))))

/-- R338, R343 to R345, R349 to R351: an island instruction whose vector has no reserved bit set and whose pens hold the bytes it touches and
were given to the island enters with its operand A; the pens' GIVEs are consumed. CH = 1 with a pair 0x6 to 0x9, and an OFMT above 5 (R117),
raise ILL_OP; an absent lane or a reserved bit raises BAD_SOURCE. That RQ = 0 with OFMT 1 to 5 raises BAD_SOURCE and not ILL_OP is the model's
choice (log entry 73). -/
def Obligations.IslandInstructionsEnter : Prop :=
  (∀ pr ∈ Claims.pairs, ∀ (a : Src) (ta tb ch : Bool) (t : Target) (n : Option Nat) (s : State) (τ : Task), Runs s τ → SrcsOk τ [a] →
    Claims.PortOrNone s t n →
    let v := readSrc τ false a
    let w := Claims.wordOf v
    let f := fun k lo len => w k / 2 ^ lo % 2 ^ len
    let kb := 8 * 2 ^ f 2 4 2
    let k := f 3 16 13
    let m := f 3 0 6 + 1
    let nn := f 3 8 6 + 1
    let ka := k / pr.2.2.2
    (ch = true → pr.1 ∈ [.fp4, .cb2e4, .cb2bf, .i8] → EndsWith (.mma a pr.1 ta tb ch t) s τ causeIllOp 0 0) ∧
    ((ch = true → pr.1 ∉ [.fp4, .cb2e4, .cb2bf, .i8]) → Claims.SomeLane τ [v] →
      (¬ Claims.VectorOf τ v 8 → EndsWith (.mma a pr.1 ta tb ch t) s τ causeBadSource 0 0) ∧
      (Claims.VectorOf τ v 8 →
        2 ^ 16 ≤ w 2 ∨ f 3 29 3 ≠ 0 ∨ f 3 14 2 ≠ 0 ∨ f 3 6 2 ≠ 0 ∨ w 7 ≠ 0 ∨ w 4 % 4 ≠ 0 ∨ w 5 % 4 ≠ 0 ∨ k < kb ∨ 4096 < k ∨ k % kb ≠ 0 ∨
          (ch = true ∧ (w 0 ≠ 0 ∨ 64 < k ∨ f 2 6 4 = f 2 0 4)) ∨ (ch = false ∧ f 2 6 4 ≠ 0) ∨
          (f 2 15 1 = 0 ∧ (f 2 11 4 ≠ 0 ∨ w 6 ≠ 0)) ∨ (f 2 15 1 = 1 ∧ f 2 11 4 ∉ [3, 4, 7]) →
        EndsWith (.mma a pr.1 ta tb ch t) s τ causeBadSource 0 0)) ∧
    (Claims.SomeLane τ [v] → Claims.VectorOf τ v 8 → (ch = true → pr.1 ∉ [.fp4, .cb2e4, .cb2bf, .i8] ∧ w 0 = 0 ∧ k ≤ 64 ∧ f 2 6 4 ≠ f 2 0 4) →
      (ch = false → f 2 6 4 = 0 ∧ Claims.Given s τ (BitVec.ofNat 32 (w 0))
        (if ta then Claims.spanOf ka m pr.2.1 (w 4) else Claims.spanOf m ka pr.2.1 (w 4)) 5) →
      w 2 < 2 ^ 16 → f 3 29 3 = 0 → f 3 14 2 = 0 → f 3 6 2 = 0 → w 7 = 0 → w 4 % 4 = 0 → w 5 % 4 = 0 → kb ≤ k → k ≤ 4096 → k % kb = 0 →
      Claims.Given s τ (BitVec.ofNat 32 (w 1)) (if tb then Claims.spanOf nn k pr.2.2.1 (w 5) else Claims.spanOf k nn pr.2.2.1 (w 5)) 5 →
      (f 2 15 1 = 0 → f 2 11 4 = 0 ∧ w 6 = 0) →
      (f 2 15 1 = 1 → f 2 11 4 ∈ [3, 4, 7] ∧ Claims.Given s τ (BitVec.ofNat 32 (w 6)) ((m + nn) * (k / kb)) 5) →
      Claims.EntersAfter (.mma a pr.1 ta tb ch t) s τ
        ((if ch then [] else [w 0 / 2 ^ 22]) ++ [w 1 / 2 ^ 22] ++ (if f 2 15 1 = 1 then [w 6 / 2 ^ 22] else [])) 5
        (mkOp s τ (.mma pr.1 ta tb ch) n (Claims.below τ v) noLanes []))) ∧
  (∀ (a : Src) (t : Target) (n : Option Nat) (s : State) (τ : Task) (c : Word), Runs s τ → SrcsOk τ [a] → Claims.PortOrNone s t n →
    Claims.SomeLane τ [readSrc τ false a] → laneOf (readSrc τ false a) 0 = some c → c.toNat / 2 ^ 4 % 2 ^ 12 = 0 →
    Enters (.mzero a t) s τ (mkOp s τ .mzero n (Claims.below τ (readSrc τ false a)) noLanes [])) ∧
  (∀ (a b : Src) (t : Target) (n : Option Nat) (s : State) (τ : Task), Runs s τ → SrcsOk τ [a, b] → Claims.PortOrNone s t n →
    let x := readSrc τ false a
    let y := readSrc τ true b
    (Claims.SomeLane τ [x] → laneOf x 0 = none ∨ Claims.wordOf x 0 / 2 ^ 4 % 2 ^ 12 ≠ 0 → EndsWith (.mzero a t) s τ causeBadSource 0 0) ∧
    (Claims.SomeLane τ [x, y] →
      (laneOf x 0 = none ∨ laneOf y 0 = none ∨ Claims.wordOf y 0 / 2 ^ 4 % 2 ^ 12 ≠ 0 → EndsWith (.mlda a b t) s τ causeBadSource 0 0) ∧
      (laneOf x 0 = none ∨ ¬ Claims.VectorOf τ y 3 → EndsWith (.etld a b t) s τ causeBadSource 0 0) ∧
      ((laneOf x 0).isSome → Claims.VectorOf τ y 3 →
        let first := Claims.wordOf y 0 % 2 ^ 8
        let cnt := Claims.wordOf y 0 / 2 ^ 8 % 2 ^ 9
        let inv := Claims.wordOf y 2
        2 ^ 17 ≤ Claims.wordOf y 0 ∨ cnt = 0 ∨ 256 < first + cnt ∨ ¬ Claims.Finite32 (Claims.wordOf y 1) ∨ ¬ Claims.Finite32 inv ∨ inv = 0 ∨ 2 ^ 31 ≤ inv →
        EndsWith (.etld a b t) s τ causeBadSource 0 0))) ∧
  (∀ (a b : Src) (t : Target) (n : Option Nat) (s : State) (τ : Task) (p c : Word), Runs s τ → SrcsOk τ [a, b] → Claims.PortOrNone s t n →
    Claims.SomeLane τ [readSrc τ false a, readSrc τ true b] → laneOf (readSrc τ false a) 0 = some p → laneOf (readSrc τ true b) 0 = some c →
    c.toNat / 2 ^ 4 % 2 ^ 12 = 0 → Claims.Given s τ p 16384 5 →
    Claims.EntersAfter (.mlda a b t) s τ [p.toNat / 2 ^ 22] 5 (mkOp s τ .mlda n (Claims.below τ (readSrc τ false a)) (lanesOf [c]) [])) ∧
  (∀ (a b : Src) (t : Target) (n : Option Nat) (s : State) (τ : Task) (p c lo inv : Word), Runs s τ → SrcsOk τ [a, b] → Claims.PortOrNone s t n →
    Claims.SomeLane τ [readSrc τ false a, readSrc τ true b] → laneOf (readSrc τ false a) 0 = some p →
    Claims.Holds τ (readSrc τ true b) [c, lo, inv] →
    let first := c.toNat % 2 ^ 8
    let cnt := c.toNat / 2 ^ 8 % 2 ^ 9
    c.toNat < 2 ^ 17 → 1 ≤ cnt → first + cnt ≤ 256 → Claims.Finite32 lo.toNat → Claims.Finite32 inv.toNat → 0 < inv.toNat → inv.toNat < 2 ^ 31 →
    Claims.Given s τ p (8 * cnt) 5 →
    Claims.EntersAfter (.etld a b t) s τ [p.toNat / 2 ^ 22] 5 (mkOp s τ .etld n (Claims.below τ (readSrc τ false a)) (lanesOf [c, lo, inv]) [])) ∧
  ∀ (a : Src) (bias act rq amx tr : Bool) (t : Target) (n : Option Nat) (s : State) (τ : Task), Runs s τ → SrcsOk τ [a] → Claims.PortOrNone s t n →
    let v := readSrc τ false a
    let w := Claims.wordOf v
    let fm := w 2 % 2 ^ 4
    let m := w 1 / 2 ^ 4 % 2 ^ 6 + 1
    let nc := w 1 / 2 ^ 10 % 2 ^ 6 + 1
    let bitsOut := [32, 16, 16, 8, 8, 4].getD fm 32
    (Claims.SomeLane τ [v] → ¬ Claims.VectorOf τ v 8 → EndsWith (.mdrn a bias act rq amx tr t) s τ causeBadSource 0 0) ∧
    (Claims.SomeLane τ [v] → Claims.VectorOf τ v 8 → fm ≤ 5 →
      2 ^ 16 ≤ w 1 ∨ 2 ^ 12 ≤ w 2 ∨ 5 < w 2 / 2 ^ 4 % 2 ^ 3 ∨ (rq = false ∧ fm ≠ 0) ∨ w 4 % 4 ≠ 0 ∨ (bias = false ∧ w 5 ≠ 0) ∨ w 6 ≠ 0 ∨ w 7 ≠ 0 →
      EndsWith (.mdrn a bias act rq amx tr t) s τ causeBadSource 0 0) ∧
    (Claims.SomeLane τ [v] → Claims.VectorOf τ v 8 → 5 < fm → EndsWith (.mdrn a bias act rq amx tr t) s τ causeIllOp 0 0) ∧
    (Claims.SomeLane τ [v] → Claims.VectorOf τ v 8 → w 1 < 2 ^ 16 → w 2 < 2 ^ 12 → w 2 / 2 ^ 4 % 2 ^ 3 ≤ 5 → fm ≤ 5 → (rq = false → fm = 0) →
    w 4 % 4 = 0 → w 6 = 0 → w 7 = 0 →
    Claims.Given s τ (BitVec.ofNat 32 (w 0)) (if tr then Claims.spanOf nc m bitsOut (w 4) else Claims.spanOf m nc bitsOut (w 4)) 5 →
    (bias = false → w 5 = 0) → (bias = true → Claims.Given s τ (BitVec.ofNat 32 (w 5)) (4 * nc) 5) →
    Claims.EntersAfter (.mdrn a bias act rq amx tr t) s τ ([w 0 / 2 ^ 22] ++ (if bias then [w 5 / 2 ^ 22] else [])) 5
      (mkOp s τ (.mdrn bias act rq amx tr) n (Claims.below τ v) noLanes []))

/-- R328, R338, R355, R357 to R366, R379: FOLD, FFIN, TACC, NCFG, BRCFG, REINLD and PRBLD enter under their checks; BRCFG.STAT answers the
point's counts and clears its hit flags; a user context keeps NPROBE and PTB at 0 and may not change LEN of a probed point; PRBLD is
privileged. A rider's length is read from its pen, with committed STPs performed (log entry 12), and the read corrects the header (R82). That
the checks of its fields come before a user's PRIV for NPROBE and PTB is the model's choice (log entry 56). -/
def Obligations.RowUnitAndFoldInstructionsEnter : Prop :=
  (∀ (a b : Src) (t : Target) (n : Option Nat) (s : State) (τ : Task) (p : Word), Runs s τ → SrcsOk τ [a, b] → Claims.PortOrNone s t n →
    laneOf (readSrc τ false a) 0 = some p →
    let s' := fixPen (drainStp s s.occ.a) s.occ.a p.toNat 64
    Claims.Given s τ p 64 5 → (penRead s' s.occ.a p.toNat 64).isSome → Claims.Given s τ p (riderBytes (riderAt s' s.occ.a p.toNat)) 5 →
    let next := fun i k y => exec i s = .next (s'.setTask (((Claims.consumed τ [p.toNat / 2 ^ 22] 5).enter
      (mkOp s τ k n (Claims.below τ (readSrc τ false a)) y [])).advance 1))
    (Claims.SomeLane τ [readSrc τ false a] → next (.ffin a t) .ffin noLanes) ∧
    ∀ x, Claims.SomeLane τ [readSrc τ false a, readSrc τ true b] → laneOf (readSrc τ true b) 0 = some x → x.toNat < 2 ^ 20 →
      next (.fold a b t) .fold (lanesOf [x])) ∧
  (∀ (a b : Src) (t : Target) (n : Option Nat) (s : State) (τ : Task) (p : Word), Runs s τ → SrcsOk τ [a, b] → Claims.PortOrNone s t n →
    Claims.SomeLane τ [readSrc τ false a] → laneOf (readSrc τ true b) 0 = some p →
    Claims.PenOk s τ (p.toNat / 2 ^ 22) (p.toNat % 2 ^ 22 : Nat) (4 + 4 * τ.w) 4 →
    Enters (.tacc a b t) s τ (mkOp s τ (.tacc 0 p.toNat) n (lanes1 τ (readSrc τ false a) (fun _ z => z)) noLanes [])) ∧
  (∀ (a : Src) (t : Target) (n : Option Nat) (s : State) (τ : Task), Runs s τ → SrcsOk τ [a] → Claims.PortOrNone s t n →
    let v := readSrc τ false a
    let w := Claims.wordOf v
    Claims.SomeLane τ [v] →
    (Claims.VectorOf τ v 4 → w 0 < 16 → w 0 % 4 ≠ 3 → 1 ≤ w 1 → w 1 ≤ 16384 → Claims.Finite32 (w 2) → w 2 < 2 ^ 31 → Claims.DestFor [0, 2, 5] (w 3) →
      Enters (.ncfg a t) s τ (mkOp s τ .ncfg n (Claims.below τ v) noLanes [])) ∧
    (Claims.VectorOf τ v 8 → w 0 < 2 ^ 9 → w 0 / 2 ^ 4 % 2 ^ 5 ≤ 16 → 1 ≤ w 1 → w 1 ≤ 16384 → Claims.DestFor [0, 1, 5] (w 3) → w 4 < 2 ^ 14 →
      w 5 < 2 ^ 16 → w 6 = 0 → w 7 = 0 → w 4 * 16 + (w 0 / 2 ^ 4 % 2 ^ 5) * (16 * ((16 + 2 * w 1 + 15) / 16)) ≤ 262144 →
      w 5 * 16 + 128 * w 1 ≤ 1048576 →
      let old := sgetD s.rws.brcfg (s.occ.a * 4 + w 0 % 4) noCfg
      (τ.cx.asid = 0 ∨ (w 0 / 2 ^ 4 % 2 ^ 5 = 0 ∧ w 4 = 0) →
        (τ.cx.asid = 0 ∨ old.nprobe = 0 ∨ old.len = w 1 → Enters (.brcfg a t) s τ (mkOp s τ .brcfg n (Claims.below τ v) noLanes [])) ∧
        (τ.cx.asid ≠ 0 → old.nprobe ≠ 0 → old.len ≠ w 1 → EndsWith (.brcfg a t) s τ causePriv 0 0)) ∧
      (τ.cx.asid ≠ 0 → w 0 / 2 ^ 4 % 2 ^ 5 ≠ 0 ∨ w 4 ≠ 0 → EndsWith (.brcfg a t) s τ causePriv 0 0))) ∧
  (∀ (a : Src) (t : Target) (s : State) (τ : Task) (k : Word), Runs s τ → SrcsOk τ [a] → targetOk s τ t = true →
    Claims.SomeLane τ [readSrc τ false a] → laneOf (readSrc τ false a) 0 = some k → k.toNat < 4 →
    let c := sgetD s.rws.brcfg (s.occ.a * 4 + k.toNat) noCfg
    let s' := { s with rws := { s.rws with brcfg := sset s.rws.brcfg (s.occ.a * 4 + k.toNat) { c with hits := 0 } } }
    ∃ x, (∀ l, l < 32 → laneOf x l = if l < τ.w then [BitVec.ofNat 32 c.hits, c.rows, c.steered, c.cword][l]? else none) ∧
      (Lands s' τ t x → ∃ τ', put s' τ t x = .ok τ' ∧ exec (.brcfgStat a t) s = .next (s'.setTask (τ'.advance 1)))) ∧
  (∀ (a : Src) (t : Target) (s : State) (τ : Task), Runs s τ → SrcsOk τ [a] → ¬ Claims.SomeLane τ [readSrc τ false a] → Lands s τ t noLanes →
    Writes (.brcfgStat a t) s τ t noLanes 1) ∧
  (∀ (a b : Src) (t : Target) (n : Option Nat) (s : State) (τ : Task) (c : Word), Runs s τ → SrcsOk τ [a, b] → Claims.PortOrNone s t n →
    Claims.SomeLane τ [readSrc τ true b, readSrc τ false a] → laneOf (readSrc τ true b) 0 = some c → c.toNat < 2 ^ 9 →
    let o := mkOp s τ .reinld n (Claims.below τ (readSrc τ false a)) (lanesOf [c]) []
    (2 ^ 8 ≤ c.toNat → Enters (.reinld a b t) s τ o) ∧
    ∀ p, c.toNat < 2 ^ 8 → laneOf (readSrc τ false a) 0 = some p →
      Claims.Given s τ p (2 * (sgetD s.rws.brcfg (s.occ.a * 4 + c.toNat % 4) noCfg).len) 7 →
      Claims.EntersAfter (.reinld a b t) s τ [p.toNat / 2 ^ 22] 7 o) ∧
  ∀ (a b : Src) (t : Target) (n : Option Nat) (s : State) (τ : Task) (p off cnt : Word), Runs s τ →
    (τ.cx.asid ≠ 0 → EndsWith (.prbld a b t) s τ causePriv 0 0) ∧
    (τ.cx.asid = 0 → SrcsOk τ [a, b] → Claims.PortOrNone s t n → Claims.SomeLane τ [readSrc τ false a, readSrc τ true b] →
      laneOf (readSrc τ false a) 0 = some p → laneOf (readSrc τ true b) 0 = some off → laneOf (readSrc τ true b) 1 = some cnt →
      off.toNat < 2 ^ 14 → cnt.toNat % 16 = 0 → 16 ≤ cnt.toNat → off.toNat * 16 + cnt.toNat ≤ 262144 → Claims.Given s τ p cnt.toNat 7 →
      Claims.EntersAfter (.prbld a b t) s τ [p.toNat / 2 ^ 22] 7
        (mkOp s τ .prbld n (Claims.below τ (readSrc τ false a)) (lanesOf [off, cnt]) []))

/-- R194, R258, R259, R260: CTXA and SPAWN reserve the lowest FREE context of the pool with what the vector gives and the issuer's record
elsewhere; CTXA answers its number and width. A broken vector or a missing plan raises BAD_SOURCE; with none FREE the .f form raises
TAG_EXHAUST and the .t form's task waits; a child wider than its parent raises LANE_MISMATCH. -/
def Obligations.ContextsAreReservedAtIssue : Prop :=
  ∀ (a b : Src) (th : Bool) (t : Target) (n : Nat) (p : Port) (s : State) (τ : Task), Runs s τ → SrcsOk τ [a, b] → targetOk s τ t = true →
    portAt s n = some p → p.top = 0 → predOk τ 0 = true → (laneOf (readSrc τ false a) 0).isSome →
    let x := readSrc τ false a
    let plan := Claims.wordOf x 0 / 2 ^ 8 % 2 ^ 4
    let forms := [Instr.ctxa a th t, .spawn a b th false (.port n)]
    (¬ Claims.CtxVector x → ∀ i ∈ forms, EndsWith i s τ causeBadSource 0 0) ∧
    (Claims.CtxVector x → sget s.tab.fplans (s.occ.a * 16 + plan) = none → ∀ i ∈ forms, EndsWith i s τ causeBadSource 0 0) ∧
    (Claims.CtxVector x → (sget s.tab.fplans (s.occ.a * 16 + plan)).isSome → lowestFree s τ.cx.q = none →
      (th = false → ∀ i ∈ forms, EndsWith i s τ causeTagExhaust 0 0) ∧
      (th = true → ∀ i ∈ forms, exec i s = .next (endTask s τ (.throttle false)))) ∧
    ∀ k, Claims.CtxVector x → (sget s.tab.fplans (s.occ.a * 16 + plan)).isSome → lowestFree s τ.cx.q = some k →
      (∃ c, Claims.AsksFor s τ x none c ∧
        let s' := { s with ctxs := sset s.ctxs k c }
        let τ1 := { τ with reserved := τ.reserved ++ [k] }
        let τ2 := τ1.enter (mkOp s τ1 (.ctxa k) none noLanes noLanes [])
        let v := lanesOf [BitVec.ofNat 32 (k + (c.w - 1) * 2 ^ 16)]
        (Lands s' τ2 t v → ∃ τ', put s' τ2 t v = .ok τ' ∧ exec (.ctxa a th t) s = .next (s'.setTask (τ'.advance 1)))) ∧
      ∀ hv, (hv = true → ∃ lo hi : Word, laneOf x 6 = some lo ∧ laneOf x 7 = some hi ∧ lo.toNat % 64 = 0) →
        ∃ c, Claims.AsksFor s τ x (some (BitVec.ofNat 32 (τ.ctx * 2 ^ 16 + τ.iter))) c ∧
        (τ.w < c.w → EndsWith (.spawn a b th hv (.port n)) s τ causeLaneMismatch 0 0) ∧
        (c.w ≤ τ.w →
          let s' := { s with ctxs := sset s.ctxs k c }
          let τ1 := { τ with reserved := τ.reserved ++ [k] }
          let arg := mkLanes (fun l => if l < c.w ∧ predOk τ l = true then laneOf (readSrc τ true b) l else none)
          let va : Nat := Claims.wordOf x 6 + Claims.wordOf x 7 % 2 ^ 24 * 2 ^ 32
          exec (.spawn a b th hv (.port n)) s = .next (s'.setTask ((τ1.enter (mkOp s τ1 (.spawn k hv) (some n) arg noLanes
            (if hv then [Claims.access 0 (va : Int) 64 0 0] else []))).advance 1)))

/-- R261, R262, R264, R266, R371, R372: CTXF of a LIVE context of the launch, LAUNCH, MTS of a writable register and TRAP enter; a context that
is not LIVE raises BAD_SOURCE and a register that is not writable ILL_OP. BRK acts as TRAP, or halts its context where halting is
enabled and the lists of the halt's records have room (R405), and passes once after the resume. -/
def Obligations.ContextEndLaunchTrapAndBreak : Prop :=
  (∀ (a : Src) (s : State) (τ : Task), Runs s τ → SrcsOk τ [a] →
    let live := fun c => ∃ x, ctxOf s c = some x ∧ x.st = .live ∧ x.q = τ.cx.q
    (∀ v, Claims.SomeLane τ [readSrc τ false a] → laneOf (readSrc τ false a) 0 = some v →
      (live (v.toNat % 2 ^ 16) → Enters (.ctxf a false) s τ (mkOp s τ (.ctxf (v.toNat % 2 ^ 16)) none noLanes noLanes [])) ∧
      (¬ live (v.toNat % 2 ^ 16) → EndsWith (.ctxf a false) s τ causeBadSource 0 0)) ∧
    ((∃ l, l < 32 ∧ predOk τ l = true) → live τ.ctx → Enters (.ctxf a true) s τ (mkOp s τ (.ctxf τ.ctx) none noLanes noLanes []))) ∧
  (∀ (a : Src) (n : Nat) (s : State) (τ : Task) (lo hi : Word), Runs s τ → SrcsOk τ [a] → (portAt s n).isSome →
    Claims.SomeLane τ [readSrc τ false a] → laneOf (readSrc τ false a) 0 = some lo → laneOf (readSrc τ false a) 1 = some hi →
    Enters (.launch a (.port n)) s τ (mkOp s τ .launch (some n) (lanesOf [lo, hi]) noLanes [])) ∧
  (∀ (a : Src) (n : Nat) (s : State) (τ : Task), Runs s τ →
    (¬ Claims.writable n → EndsWith (.mts a n) s τ causeIllOp 0 0) ∧
    ∀ v, Claims.writable n → SrcsOk τ [a] → Claims.SomeLane τ [readSrc τ false a] → laneOf (readSrc τ false a) 0 = some v →
      Enters (.mts a n) s τ (mkOp s τ (.mts n v) none noLanes noLanes [])) ∧
  (∀ (a : Src) (code : Nat) (s : State) (τ : Task), Runs s τ → SrcsOk τ [a] →
    (∀ v, predOk τ 0 = true → laneOf (readSrc τ false a) 0 = some v →
      Enters (.trap a code) s τ (mkOp s τ (.trap code) none (lanesOf [v]) noLanes [])) ∧
    (predOk τ 0 = false ∨ laneOf (readSrc τ false a) 0 = none → Passes (.trap a code) s τ)) ∧
  ∀ (code : Nat) (s : State) (τ : Task), Runs s τ →
    let halts := s.dev.level ≠ 0 ∧ s.dev.hen = true ∧ s.dev.dasid.toNat = τ.cx.asid
    let k := s.occ.a * 9 + s.occ.b
    let past := (sget s.flt.resumed k).isSome ∧ sget s.flt.halted k = none
    (¬ past → predOk τ 0 = false → Passes (.brk code) s τ) ∧
    (¬ past → predOk τ 0 = true → ¬ halts → Enters (.brk code) s τ (mkOp s τ (.brk code) none noLanes noLanes [])) ∧
    (¬ past → predOk τ 0 = true → halts → exec (.brk code) s =
      .next (if haltRoom s τ.ctx = true then haltContext s τ.ctx (some (s.occ.a, s.occ.b, code)) else s)) ∧
    (past → exec (.brk code) s =
      .next { s.setTask (τ.advance 1) with flt := { s.flt with resumed := sdel s.flt.resumed (s.occ.a * 9 + s.occ.b) } })

/-- R220, R368, R378: every SYS subform raises PRIV in a user context; in a supervisor context it enters with its operands when the lanes
it needs are valid and no reserved bit is set, and raises BAD_SOURCE otherwise. -/
def Obligations.SystemInstructionsNeedSupervisor : Prop :=
  (∀ f ∈ Claims.systemForms, ∀ (a : Src) (t : Target) (n : Option Nat) (s : State) (τ : Task), Runs s τ →
    (τ.cx.asid ≠ 0 → EndsWith (f.1 a t) s τ causePriv 0 0) ∧
    (τ.cx.asid = 0 → SrcsOk τ [a] → Claims.PortOrNone s t n → Claims.SomeLane τ [readSrc τ false a, readSrc τ true .zero] →
      (Claims.VectorOf τ (readSrc τ false a) f.2.2.1 → f.2.2.2 (Claims.wordOf (readSrc τ false a)) →
        Enters (f.1 a t) s τ (mkOp s τ f.2.1 n (Claims.below τ (readSrc τ false a)) (Claims.below τ (readSrc τ true .zero)) [])) ∧
      (¬ (Claims.VectorOf τ (readSrc τ false a) f.2.2.1 ∧ f.2.2.2 (Claims.wordOf (readSrc τ false a))) →
        EndsWith (f.1 a t) s τ causeBadSource 0 0))) ∧
  (∀ k ∈ [(Instr.mtsr, OpKind.mtsr, 1), (.cfgld, .cfgld, 2)], ∀ (a b : Src) (t : Target) (n : Option Nat) (s : State) (τ : Task), Runs s τ →
    (τ.cx.asid ≠ 0 → EndsWith (k.1 a b t) s τ causePriv 0 0) ∧
    (τ.cx.asid = 0 → SrcsOk τ [a, b] → Claims.PortOrNone s t n → Claims.SomeLane τ [readSrc τ false a, readSrc τ true b] →
      let good := Claims.VectorOf τ (readSrc τ false a) k.2.2 ∧ Claims.VectorOf τ (readSrc τ true b) 1 ∧
        if k.2.2 = 1 then Claims.wordOf (readSrc τ false a) 0 < 2 ^ 8
        else Claims.wordOf (readSrc τ false a) 1 < 2 ^ 24 ∧ Claims.wordOf (readSrc τ true b) 0 / 2 ^ 9 % 2 ^ 7 = 0
      (good → Enters (k.1 a b t) s τ
        (mkOp s τ k.2.1 n (Claims.below τ (readSrc τ false a)) (Claims.below τ (readSrc τ true b)) [])) ∧
      (¬ good → EndsWith (k.1 a b t) s τ causeBadSource 0 0))) ∧
  ∀ (t : Target) (n : Option Nat) (s : State) (τ : Task), Runs s τ →
    (τ.cx.asid ≠ 0 → EndsWith (.idle t) s τ causePriv 0 0) ∧
    (τ.cx.asid = 0 → Claims.PortOrNone s t n → (∃ l, l < 32 ∧ predOk τ l = true) →
      Enters (.idle t) s τ (mkOp s τ .idle n (Claims.below τ (readSrc τ false .zero)) (Claims.below τ (readSrc τ true .zero)) []))

/-- R373: ERES, ESC and EKILL enter when lanes 0, 1 and 5 of the record are valid, and raise BAD_SOURCE where one is not. -/
def Obligations.HandlerInstructionsEnter : Prop :=
  ∀ (a b : Src) (rep hold : Bool) (ent : Nat) (t : Target) (n : Option Nat) (s : State) (τ : Task), Runs s τ → SrcsOk τ [a, b] →
    Claims.PortOrNone s t n → Claims.SomeLane τ [readSrc τ false a] →
    let x := readSrc τ false a
    let full := 6 ≤ τ.w ∧ (laneOf x 0).isSome ∧ (laneOf x 1).isSome ∧ (laneOf x 5).isSome
    let enters := fun i k y => Enters i s τ (mkOp s τ k n (Claims.below τ x) (Claims.below τ y) [])
    (full → enters (.eres a b rep ent hold t) (.eres rep ent hold) (readSrc τ true b) ∧
      enters (.esc a t) .esc (readSrc τ true .zero) ∧ enters (.ekill a t) .ekill (readSrc τ true .zero)) ∧
    (¬ full → EndsWith (.eres a b rep ent hold t) s τ causeBadSource 0 0 ∧ EndsWith (.esc a t) s τ causeBadSource 0 0 ∧
      EndsWith (.ekill a t) s τ causeBadSource 0 0)

/-- R384, R385, R396, R399: each word of a sequencing program does to its launch what its operation says: SQ.END ends it, SQ.BAR and a finished
SQ.RUN and SQ.SIG go on, SQ.JMP and SQ.IF set the position, SQ.RUN starts its contexts, SQ.GAIT begins a change, SQ.CFG loads; a word that
breaks a rule ends the program with CFG. While the launch shrinks or is saved, only the words that start nothing on a tile are performed. SQ.IF
reads a predicate in SC memory at its node and waits for it (R158); that SQ.IF and SQ.CFG translate their addresses at once is the model's choice
(log entry 10). -/
def Obligations.SequencingWordsAct : Prop :=
  ∀ (s : State) (l : Launch), Claims.Program s s.occ.a l →
    let q := s.occ.a
    let goes := fun i l' => Claims.Gives i s (Claims.launchTo s q l')
    let cfg := Claims.endedWith l 0 causeCfg
    let s0 := Claims.served s q
    (l.runs = 0 → ∀ code, goes (.sqEnd code) (Claims.endedWith l code 0)) ∧
    (l.runs = 0 → goes .sqBar { l with pc := l.pc + 1, waiting := false }) ∧
    (∀ t, goes (.sqJmp t) (if targetGood l t then { l with pc := t, waiting := false } else cfg)) ∧
    goes .reservedSequencerWord cfg ∧
    (l.runs ≠ 0 → (∀ code, Claims.Gives (.sqEnd code) s s0) ∧ Claims.Gives .sqBar s s0) ∧
    (l.st ≠ .running → (∀ ing edge async, Claims.Gives (.sqRun ing edge async) s s) ∧ (∀ g r, Claims.Gives (.sqCfg g r) s s) ∧
      (∀ g, Claims.Gives (.sqGait g) s s) ∧ (∀ hv sense t va hva, Claims.Gives (.sqIf hv sense t va hva) s s) ∧
      ∀ iter dest value, Claims.Gives (.sqSig iter dest value) s s) ∧
    (l.st = .running →
      (l.runs ≠ 0 → (∀ g r, Claims.Gives (.sqCfg g r) s s0) ∧ (∀ g, Claims.Gives (.sqGait g) s s0) ∧
        ∀ hv sense t va hva, Claims.Gives (.sqIf hv sense t va hva) s s0) ∧
      (∀ ing edge async,
        (l.waiting = true → l.runs = 0 → goes (.sqRun ing edge async) { l with pc := l.pc + 1, waiting := false }) ∧
        (l.waiting = false → ing = true → (∀ e, l.edges[edge]? = some e → e / 2 ^ 31 % 2 = 0) → goes (.sqRun ing edge async) cfg) ∧
        (l.waiting = false → (ing = true → (∃ e, l.edges[edge]? = some e ∧ e / 2 ^ 31 % 2 = 1) ∧ ∀ x ∈ l.ingress, x.1 ≠ edge) →
          l.inits.length ≤ ((List.range (2 ^ l.plog2)).filter (fun k => (ctxOf s (l.pool + k)).isNone)).length →
          let first := (lowestFree s q).getD l.pool
          Claims.Gives (.sqRun ing edge async) s (setLaunch (l.inits.foldl (fun s ws => startInit s q l ws) s0) q
            { l with first := first, runs := l.runs + 1, ingress := if ing then l.ingress ++ [(edge, 0, 0, first)] else l.ingress,
                     pc := if async then l.pc + 1 else l.pc, waiting := !async }))) ∧
      (∀ hv sense t va hva, l.runs = 0 → va % 4 = 0 → targetGood l t = true →
        let goesOn := fun s2 v => Claims.Gives (.sqIf hv sense t va hva) s
          (setLaunch s2 q { l with pc := if (v ≠ 0) ↔ (sense = false) then t else l.pc + (if hv then 5 else 3), waiting := false })
        ((if l.waiting = true then opById s l.sig = none else hv = false) →
          ∀ s1 p, xlateNow s0 (originTile l) l.asid va { imageWant (l.asid != 0) false with mtOk := fun mt => mt != 2 } = (s1, .ok p) →
          (p.mt ≠ 1 → ∀ s2 v, readHome s1 p.enc p.pa 4 = (s2, some v) → goesOn s2 v) ∧
          (p.mt = 1 → Claims.Gives (.sqIf hv sense t va hva) s (setLaunch (addOp s1 (edgeOp (originTile l) l.asid (.ld .word)
            [{ Claims.access 0 va 4 0 0 with phys := some p }])) q { l with sig := s1.nextId, waiting := true }))) ∧
        ∀ o v, l.waiting = true → opById s l.sig = some o → o.phase = .done → isLoad o.kind = true → o.lanes.head?.map (·.res) = some v →
          goesOn (dropOp s0 o.id) v) ∧
      (∀ hv sense t va hva, l.runs = 0 →
        let i := Instr.sqIf hv sense t va hva
        let ends := fun s2 c => Claims.Gives i s (setLaunch s2 q (Claims.endedWith l 0 c))
        (va % 4 ≠ 0 ∨ targetGood l t = false → ends s0 causeCfg) ∧
        (va % 4 = 0 → targetGood l t = true →
          ((if l.waiting = true then opById s l.sig = none else hv = false) →
            let x := xlateNow s0 (originTile l) l.asid va { imageWant (l.asid != 0) false with mtOk := fun mt => mt != 2 }
            (∀ s1 c d, x = (s1, .error (c, d)) → ends s1 c) ∧
            ∀ s1 p s2, x = (s1, .ok p) → p.mt ≠ 1 → readHome s1 p.enc p.pa 4 = (s2, none) → ends s2 causeMemUe) ∧
          (∀ o, l.waiting = true → opById s l.sig = some o → (o.phase = .failed → ends (dropOp s0 o.id) o.cause) ∧
            (o.phase ≠ .failed → o.phase ≠ .done ∨ isLoad o.kind = false → Claims.Gives i s s0)) ∧
          (l.waiting = false → hv = true →
            (2 ^ 56 ≤ hva → ends s0 causeAccess) ∧ (hva < 2 ^ 56 → hva % 64 ≠ 0 → ends s0 causeAlign) ∧
            (hva < 2 ^ 56 → hva % 64 = 0 →
              let x := xlateNow s0 (originTile l) l.asid hva { imageWant (l.asid != 0) false with wr := true, mtOk := fun _ => true }
              (∀ s1 c d, x = (s1, .error (c, d)) → ends s1 c) ∧
              ∀ s1 p, x = (s1, .ok p) →
                Claims.Gives i s (setLaunch (addOp s1 (seqOp l q p hva)) q { l with sig := s1.nextId, waiting := true }) ∧
                (seqOp l q p hva).kind = .hreq .p false ∧ (seqOp l q p hva).lanes.head?.bind (·.phys) = some p)))) ∧
      (∀ g, l.runs = 0 → (l.grow = none ∨ ∃ x, l.grow = some (x, false)) →
        (shapeOf l g = none → goes (.sqGait g) cfg) ∧
        ∀ wd ht, shapeOf l g = some (wd, ht) →
          (wd ≤ l.gw → ht ≤ l.gh → Claims.Gives (.sqGait g) s
            (beginChange s0 q { l with waiting := true } .shrinking (some { gait := g, x := l.gx, y := l.gy, bySeq := true }))) ∧
          (l.gw < wd ∨ l.gh < ht → goes (.sqGait g) { l with waiting := true, grow := some (g, true), since := s.cyc })) ∧
      (∀ iter dest value,
        (l.waiting = true → (∀ e ∈ s.net.outs, e.id ≠ l.sig) → goes (.sqSig iter dest value) { l with pc := l.pc + 3, waiting := false }) ∧
        (l.waiting = false → destGood (fun _ => none) l.wd l.ht (destOfWord (dest * 2 ^ 9)) = true → Claims.Gives (.sqSig iter dest value) s
          (setLaunch (addOut s0 (originTile l) 14
              { hdr := plainHeader l.first iter 1 (destOfWord (dest * 2 ^ 9)).slot, lanes := lanesOf [BitVec.ofNat 32 value] }
              [destOfWord (dest * 2 ^ 9)]) q { l with sig := s.nextId, waiting := true }))) ∧
      ∀ g r, l.runs = 0 →
        (∀ s1 c, readImage s0 (originTile l) l.asid (l.field 0 56) = (s1, .error c) →
          Claims.Gives (.sqCfg g r) s (setLaunch s1 q (Claims.endedWith l 0 c))) ∧
        ∀ s1 bs, readImage s0 (originTile l) l.asid (l.field 0 56) = (s1, .ok bs) →
          let secs := (sectionsOf bs).getD []
          let rs := (regionsOf secs).filter (fun x => x.gait == g && (r == 0xFF || x.region == r))
          let on := fun s2 => rs.foldl (fun acc x => acc.bind (fun s => loadOn s q l (regionsOf secs) (penDataOf secs) x)) (some s1) = some s2
          (rs = [] ∨ ¬ (∃ s2, on s2) → Claims.Gives (.sqCfg g r) s (setLaunch s1 q cfg)) ∧
          ∀ s2 l', rs ≠ [] → on s2 → sget (noteLoaded s2 q rs).sch.launches q = some l' →
            (l'.argDone = true ∨ ∀ x ∈ rs, x.tmask 0 = false) →
            Claims.Gives (.sqCfg g r) s (setLaunch (noteLoaded s2 q rs) q { l' with pc := l'.pc + 1, waiting := false }))

/-- R74, R75, R169, R182, R183, R184, R191, R193, R256, R405, R460: a token is sent, in one to three flits by its W, arrives and is taken in by
its frame, by its groom inbox or by the commit stage; a cancel clears its block, and while a task of the block runs the frame store holds it. What
finds no room goes back to its source, also a token whose fault finds none; that a full stage holds a token before its DUPTAG is the model's choice
(log entry 35). -/
def Obligations.TokensTravelAndArrive : Prop :=
  (∀ f : Flight, (flitsOf f).length = if f.tok.hdr.can = true ∨ f.tok.hdr.wm1 + 1 ≤ 12 then 1 else if f.tok.hdr.wm1 + 1 ≤ 28 then 2 else 3) ∧
  (∀ (s : State) (e : OutEntry) (d : Dest) (st t r : Nat), s.net.outs.find? (fun e => e.id == s.occ.b && e.tile == s.occ.a) = some e →
    e.pend[s.occ.c]? = some (d, st) → st ≠ 1 → (st = 0 → olderUnsent s e d = false) → e.tile ∉ s.frm.frozen →
    placeTile s (outOwner s e) d.tile = some (t, r) → sgetD s.dev.qcur (quadOf t) 0 ≠ 2 →
    Claims.Gives .outputBufferSend s { s with
      nextId := s.nextId + 1,
      net := { s.net with
        outs := s.net.outs.map (fun x => if x.id == e.id then { e with pend := lset e.pend s.occ.c (d, 1) } else x),
        mesh := s.net.mesh ++ [{ id := s.nextId, tile := t, rank := r, dest := d, entry := e.id,
                                 tok := { e.tok with hdr := { e.tok.hdr with slot := d.slot } } }] } }) ∧
  (∀ (s : State) (f : Flight) (x : Ctx) (blk : Nat) (b : Block) (claims : Bool), Claims.Comes s f → f.dest.elem = 0 → f.tok.hdr.can = false →
    Claims.FrameTakes s f x blk b claims →
    let h := f.tok.hdr
    let full := ∃ g, sget s.tab.stages (f.tile * 16 + b.stage) = some g ∧ g.depth ≤ stageLoad s f.tile b.stage
    let s1 := if claims then claimFrame s f.tile f.rank h.ctx h.iter else s
    let k := slotKey s1 f.tile f.rank h.ctx h.iter f.dest.slot
    (full → Claims.Gives .tokenArrival s (refuseFlight s f)) ∧
    (¬ full → sget s1.frm.slots k = none →
      let s2 := clearSlot (acceptFlight s1 f) k (fun l => (laneOf f.tok.lanes l).isSome)
      let s3 := { s2 with frm := { s2.frm with slots := sset s2.frm.slots k (slotOf f.tok) } }
      Claims.Gives .tokenArrival s (wake s3 f.tile f.rank h.ctx h.iter blk)) ∧
    (∀ y, ¬ full → sget s1.frm.slots k = some y → y.seg = h.seg →
      Claims.Gives .tokenArrival s (if faultRoom s1 f.tile f.rank h.ctx h.iter = true
        then raiseFrame (acceptFlight s1 f) f.tile f.rank h.ctx h.iter causeDuptag 0x00 (tagWord h) else refuseFlight s1 f)) ∧
    (∀ y, ¬ full → sget s1.frm.slots k = some y → y.seg ≠ h.seg → Claims.Gives .tokenArrival s (refuseFlight s1 f))) ∧
  Claims.GateDecides ∧ Claims.TokensTurnedAway ∧
  (∀ (s : State) (f : Flight), Claims.Comes s f → f.tok.hdr.can = true → (∀ c ∈ s.frm.cancels, c.id ≠ s.occ.a) →
    let h := f.tok.hdr
    (f.dest.elem ≠ 0 → Claims.Gives .cancelTokenArrival s (count (acceptFlight s f) 4 f.tile)) ∧
    ∀ x blk b claims, f.dest.elem = 0 → Claims.FrameTakes s f x blk b claims → f.dest.slot = b.slot0 →
      let s1 := acceptFlight (if claims then claimFrame s f.tile f.rank h.ctx h.iter else s) f
      (running s1 f.tile f.rank h.ctx h.iter blk = true →
        Claims.Gives .cancelTokenArrival s { s1 with frm := { s1.frm with cancels := s1.frm.cancels ++ [f] } }) ∧
      (running s1 f.tile f.rank h.ctx h.iter blk = false → Claims.Gives .cancelTokenArrival s (Claims.cancelled s1 f blk b))) ∧
  (∀ (s : State) (f : Flight) (blk : Nat) (b : Block), s.frm.cancels.find? (·.id == s.occ.a) = some f →
    blockOfSlot s f.tile f.dest.slot = some (blk, b) →
    let h := f.tok.hdr
    let s1 := { s with frm := { s.frm with cancels := s.frm.cancels.filter (·.id != f.id) } }
    let after := fun t => wake t f.tile f.rank h.ctx h.iter blk
    (running s f.tile f.rank h.ctx h.iter blk = true → Claims.Gives .cancelTokenArrival s s) ∧
    (running s f.tile f.rank h.ctx h.iter blk = false →
      ((∃ p, positionOf s f.tile f.rank h.ctx h.iter = some p ∧ p.lv = true) →
        Claims.Gives .cancelTokenArrival s (after (Claims.cancelled s1 f blk b))) ∧
      ((∀ p, positionOf s f.tile f.rank h.ctx h.iter = some p → p.lv = false) →
        Claims.Gives .cancelTokenArrival s (after (forwardCancel s1 f b))))) ∧
  (∀ (s : State) (f : Flight), Claims.Comes s f → f.dest.elem = 4 → f.tok.hdr.can = false →
    let held := sgetD s.frm.inbox (f.tile * 512 + f.dest.slot) []
    (4 ≤ held.length → Claims.Gives .groomInboxArrival s (refuseFlight s f)) ∧
    (held.length < 4 →
      let s1 := acceptFlight s f
      Claims.Gives .groomInboxArrival s (wakeGroom { s1 with frm := { s1.frm with
        inbox := sset s1.frm.inbox (f.tile * 512 + f.dest.slot) (held ++ [f.tok]) } } f.tile))) ∧
  ∀ (s : State) (f : Flight), Claims.Comes s f → f.dest.elem = 3 → f.tok.hdr.can = false →
    let o := tokenCommit s f
    let free := (s.ops.filter (fun o => o.tile == f.tile && o.tid == 0 && isCommit o.kind)).length
    let next := sgetD s.isl.nxc (ctxKey f.tile f.rank f.tok.hdr.ctx) 0
    (free < 56 ∨ (free < 64 ∧ f.tok.hdr.iter = next) → faultRoom s f.tile f.rank f.tok.hdr.ctx next = true →
      faultRoom s f.tile f.rank f.tok.hdr.ctx f.tok.hdr.iter = true →
      Claims.Gives .commitEntry s ((fits f.tile (enterCommit (acceptFlight s f) o)).getD (refuseFlight s f))) ∧
    (64 ≤ free ∨ (56 ≤ free ∧ f.tok.hdr.iter ≠ next) → Claims.Gives .commitEntry s (refuseFlight s f))

/-- R82, R173, R175, R177, R200, R203, R257, R290, R401: the first task in R200's order fires with its block's tokens once a commit buffer is
free; a finished block commits, or is discarded for an unconsumed GIVE; a task that waits ages; the balancer moves an element; the watchdog
reports a launch that stands still, and counts only while work is pending. -/
def Obligations.TasksFireAndCommit : Prop :=
  (∀ (s : State) (r : Ready) (b : Block), s.occ.b ≤ 8 → s.task? = none → tileRuns s s.occ.a = true →
    sget s.flt.resuming (s.occ.a * 9 + s.occ.b) = none → chosenTask s s.occ.a s.occ.b = some r → readyBlock s r = some b →
    bufferFree (peAt s s.occ.a s.occ.b) = true →
    let s1 := fixEntries (setPe s s.occ.a s.occ.b { peAt s s.occ.a s.occ.b with moved := false }) r b
    let head := (sgetD s1.tab.imem (s1.occ.a * 2 ^ 18 + s1.occ.b * 2 ^ 14 + b.iaddr) 0).toNat
    let es := entryTokens s1 r b
    let τ := newTask s1 r b head es
    fireFault s1 r b head es τ = none →
    Claims.Gives .taskFire s ({ s1 with nextId := s1.nextId + 1, frm := { s1.frm with ready := s1.frm.ready.erase r } }.setTask τ) ∧
    τ.pos = 0 ∧ τ.len = head / 2 ^ 26 ∧ τ.base = b.iaddr ∧ τ.entries = es.map (fun e => cutLanes τ.w e.2) ∧ τ.cbuf = [] ∧ τ.armed = []) ∧
  (∀ (w l : Nat) (x : Lanes), laneOf (cutLanes w x) l = if l < w ∧ l < 32 then laneOf x l else none) ∧
  (∀ (s : State) (τ : Task),
    let s1 := continueRelease (drainLtld s s.occ.a) s.occ.a s.occ.b
    s1.task? = some τ → τ.tid ≠ 0 → τ.len < τ.pos →
    ((∀ g ∈ τ.gives, g.2.2 = true) → Claims.Gives .blockCommit s (commitTask s1 τ)) ∧
    ∀ pre g post, τ.gives = pre ++ g :: post → (∀ x ∈ pre, x.2.2 = true) → g.2.2 = false →
      Claims.Gives .blockCommit s (takeFault s1 τ (givePos τ g.1) causeOwnViol 0 (g.1 * 2 ^ 22))) ∧
  (∀ (s : State) (r : Ready), (s.frm.ready.filter (·.tile == s.occ.a))[s.occ.b]? = some r → 0 < r.cls → r.since + 4096 ≤ s.cyc →
    Claims.Gives .taskClassAging s { s with frm := { s.frm with
      ready := s.frm.ready.map (fun x => if x == r then { r with cls := r.cls - 1, since := s.cyc } else x) } }) ∧
  (∀ (s : State) (t0 e g : Nat), sget s.tab.cfgAt s.occ.a = some t0 → t0 < s.cyc → (s.cyc - t0) % 4096 = 0 →
    balanceMove s s.occ.a = some (e, g) →
    Claims.Gives .stageBalance s (setPe s s.occ.a e { peAt s s.occ.a e with stage := some g, moved := true })) ∧
  ∀ (s : State) (l : Launch), sget s.sch.launches s.occ.a = some l → l.placed = true → l.st ≠ .ending →
    let restart := fun s1 : State =>
      { s1 with sch := { s1.sch with launches := smod s1.sch.launches s.occ.a (fun l => { l with commitAt := s1.cyc }) } }
    (workPending s s.occ.a = false → Claims.Gives .watchdog s (restart s)) ∧
    (workPending s s.occ.a = true → l.commitAt + 2 ^ 24 ≤ s.cyc → pendingCount s (originTile l) < 1024 →
      Claims.Gives .watchdog s (restart (frameless s (originTile l) causeWatchdog 0 s.occ.a)))

/-- R34, R44, R47, R65, R82, R83, R85, R132, R133, R135, R138, R277, R281: an access whose turn it is performs its lanes in ascending order, at the stash or at home; a load
takes the bytes there, a store puts its bytes there, an atomic reads and writes in one step; a
bank of tile SRAM performs the write that it grants. -/
def Obligations.AccessesArePerformedWhereTheyBelong : Prop :=
  (∀ (s : State) (o : Op) (x : Lane), bankChoice s s.occ.a s.occ.b = some (o, x) → let t := grantWord s o x
    t.mem.sram = (o.lanes.filter (fun y => !y.fin && y.va.toNat / 32 == x.va.toNat / 32)).foldl
        (fun m y => mwrite m y.va.toNat 4 y.data) s.mem.sram ∧ Claims.Gives .bankGrant s
      { t with mem := { t.mem with bankPtr := sset t.mem.bankPtr (s.occ.a * 32 + s.occ.b) ((o.elem + 1) % 16) } }) ∧
  (∀ (s : State) (o : Op), Claims.Subject s o → mayPerform s o = true →
    (∀ t, o.lanes.foldl (Claims.laneStep .stash o.id) (some s) = some t → Claims.Gives .stashFill s (complete t o.id)) ∧
    (mayAdmit s o = false → ∀ t, o.lanes.foldl (Claims.laneStep .home o.id) (some s) = some t → Claims.Gives .dramRequest s (complete t o.id))) ∧
  (∀ (s : State) (o : Op) (x : Lane) (p : Phys),
    let read := homeRead s p.enc p.pa x.len
    let s1 := correctAt s p.pa x.len
    let s2 := if linePresent s o.tile (p.pa / 128) then evictLine s o.tile (p.pa / 128) else s
    let old := homeRead s2 p.enc p.pa x.len
    let atomic := fun v new => homeLane s o x p = .ok (homeWrite (correctAt s2 p.pa x.len) p.enc p.pa x.len new) v
    (∀ z v, o.kind = .ld z → p.mt ≠ 2 → read = some v → laneAt .home s o x p = .ok s1 v) ∧
    (∀ z, o.kind = .ld z → p.mt ≠ 2 → read = none → laneAt .home s o x p = .ue s1 p.pa) ∧
    (∀ z thru, o.kind = .st z thru → p.mt ≠ 2 → laneAt .home s o x p = .ok (homeWrite s p.enc p.pa x.len x.data) 0) ∧
    (∀ a v, o.kind = .amo a ∨ o.kind = .amosc a → old = some v → atomic v (amoValue a v x.data)) ∧
    (∀ a v, o.kind = .amof a → old = some v → atomic v (amofValue a v x.data)) ∧
    (∀ d v, o.kind = .cas d → old = some v →
      (v = x.cmp → atomic v x.data) ∧ (v ≠ x.cmp → homeLane s o x p = .ok (correctAt s2 p.pa x.len) v)) ∧
    (∀ z, o.kind = .st z false → laneAt .stash s o x p = .ok (absorb s o.tile p x.len x.data true) 1) ∧
    ∀ z v, o.kind = .ld z → stashOn s o.tile o.elem = true → stashBytes s o.tile p.pa x.len = some v →
      (∀ k < x.len, stashFails s o.tile (p.pa + k) = false) →
      laneAt .stash s o x p = .ok (touchLine (fixStash s o.tile p.pa x.len) o.tile (p.pa / 128)) v) ∧
  (∀ (s : State) (dom pa n v : Nat), let t := homeWrite s dom pa n v
    t = { s with mem := { s.mem with
      dram := t.mem.dram, encTag := t.mem.encTag, badWords := t.mem.badWords, latent := t.mem.latent, single := t.mem.single } } ∧
    (∀ k, k < n → parkFixed s (pa + k) = false → sget s.syn.hitches ((pa + k) / 64 * 64) = none →
      homeByte t dom (pa + k) = BitVec.ofNat 8 (v / 256 ^ k)) ∧
    (∀ a, a < pa ∨ pa + n ≤ a → sget s.mem.encTag (a / 64) = none ∨ sget s.mem.encTag (a / 64) = some (keyTag s dom) →
      homeByte t dom a = homeByte s dom a) ∧
    (∀ a d, a / 64 < pa / 64 ∨ (pa + n + 63) / 64 ≤ a / 64 → homeByte t d a = homeByte s d a) ∧
    ∀ a, badAt t a = true ↔ badAt s a = true ∧ ¬ (pa ≤ a / 8 * 8 ∧ a / 8 * 8 + 8 ≤ pa + n)) ∧
  (∀ (s : State) (dom pa n : Nat),
    ((∃ k, k < n ∧ badAt s (pa + k) = true) → homeRead s dom pa n = none) ∧
    ((∀ k, k < n → badAt s (pa + k) = false) →
      ∃ v, homeRead s dom pa n = some v ∧ ∀ k, k < n → v / 256 ^ k % 256 = (homeByte s dom (pa + k)).toNat)) ∧
  (∀ (s : State) (tile n v : Nat) (p : Phys) (dirty : Bool), let t := absorb s tile p n v dirty
    let key := stashKey tile p.pa
    (linePresent s tile (p.pa / 128) = true → makeRoom s tile (p.pa / 128) = s) ∧
    (∀ k, k < n → sget t.mem.stash (key + k) = some { val := BitVec.ofNat 8 (v / 256 ^ k), dirty := dirty, enc := p.enc }) ∧
    (makeRoom s tile (p.pa / 128) = s → t.mem.dram = s.mem.dram ∧ ∀ k, k < key ∨ key + n ≤ k → sget t.mem.stash k = sget s.mem.stash k) ∧
    ((∃ k, k < n ∧ sget s.mem.stash (key + k) = none) → stashBytes s tile p.pa n = none) ∧
    ((∀ k, k < n → (sget s.mem.stash (key + k)).isSome) → ∃ r, stashBytes s tile p.pa n = some r ∧
      ∀ k b, k < n → sget s.mem.stash (key + k) = some b → r / 256 ^ k % 256 = b.val.toNat)) ∧
  ∀ old b : Nat, old < 2 ^ 32 → b < 2 ^ 32 →
    amoValue .add old b = (old + b) % 2 ^ 32 ∧ amoValue .swap old b = b ∧ amoValue .swapd old b = b ∧
    amoValue .minu old b = (if old ≤ b then old else b) ∧ amoValue .maxu old b = (if old ≤ b then b else old) ∧
    amoValue .min old b = (if (BitVec.ofNat 32 old).sle (BitVec.ofNat 32 b) then old else b) ∧
    amoValue .max old b = (if (BitVec.ofNat 32 old).sle (BitVec.ofNat 32 b) then b else old) ∧
    amoValue .and old b = (BitVec.ofNat 32 old &&& BitVec.ofNat 32 b).toNat ∧ amoValue .or old b = (BitVec.ofNat 32 old ||| BitVec.ofNat 32 b).toNat ∧
    amoValue .xor old b = (BitVec.ofNat 32 old ^^^ BitVec.ofNat 32 b).toNat ∧
    (∀ p r : Nat, p < 2 ^ 64 → r < 2 ^ 64 → amoValue .addd p r = (p + r) % 2 ^ 64 ∧ amoValue .swapd p r = r) ∧
    let x := BitVec.ofNat 32 old
    let y := BitVec.ofNat 32 b
    let nan := fun w : Word => (num32 w).isNan
    amofValue .fadd old b = (roundOf fpF32 .rne false (numAdd .rne (num32 x) (num32 y))).1 % 2 ^ 32 ∧
    (nan x = true ∨ nan y = true → amofValue .fadd old b = 0x7FC00000) ∧
    (∀ f ∈ [AmofOp.fmin, .fmax],
      (nan x = true → nan y = true → amofValue f old b = 0x7FC00000) ∧ (nan x = true → nan y = false → amofValue f old b = b) ∧
      (nan x = false → nan y = true → amofValue f old b = old)) ∧
    (nan x = false → nan y = false →
      (numLt (num32 x) (num32 y) = true → amofValue .fmin old b = old ∧ amofValue .fmax old b = b) ∧
      (numLt (num32 y) (num32 x) = true → amofValue .fmin old b = b ∧ amofValue .fmax old b = old)) ∧
    amofValue .fmin 0x80000000 0 = 0x80000000 ∧ amofValue .fmin 0 0x80000000 = 0x80000000 ∧
    amofValue .fmax 0x80000000 0 = 0 ∧ amofValue .fmax 0 0x80000000 = 0

/-- R48, R66, R82, R83, R88, R90, R133, R177, R191, R270, R272, R278: a committed load or atomic gives its token once there is room for it, a load
after the older loads of its stream; a node of a
chain gives its token and the chain goes on with the next node; a line leaves the stash with its dirty bytes written home; the scrubbers
correct, count, mark and list what they find. -/
def Obligations.ResponsesChainsAndScrubs : Prop :=
  (∀ (s : State) (o : Op), Claims.Subject s o → o.phase = .done → o.tid = 0 → o.elem ≠ 14 → Claims.answers o.kind = true →
    (isLoad o.kind = true → inOrder s o = true) → Claims.Responds .loadResponseReturn s s o (resultLanes o)) ∧
  (∀ (s : State) (o p : Op) (z z' : Size), Claims.Subject s o → o.kind = .ld z → p ∈ s.ops → p.kind = .ld z' → sameStream p o = true →
    issuedBefore p o = true → p.phase = .queued ∨ p.phase = .ready → (∀ x ∈ s.ops, stopped x = false) →
    Claims.Gives .loadResponseReturn s s) ∧
  (∀ (s : State) (o p : Op) (z z' : Size), Claims.Subject s o → o.kind = .ld z → p ∈ s.ops → p.kind = .ld z' → sameStream p o = true →
    issuedBefore p o = true → p.phase = .done → p.tid = 0 → emitRoom s p (resultLanes p) = true → (∀ x ∈ s.ops, stopped x = false) →
    Claims.Gives .loadResponseReturn s s) ∧
  (∀ (s : State) (o : Op) (base sc count : Nat) (loff : BitVec 16) (k : Nat), Claims.Subject s o → o.phase = .done → o.tid = 0 →
    o.kind = .ldch base sc count loff k → (k = 0 → inOrder s o = true) → (∀ x ∈ o.lanes, x.flt = 0) → emitRoom s o (resultLanes o) = true →
    let on := o.lanes.filter (fun x => x.res != 0 && decide (k + 1 < count))
    let va := fun x : Lane => ((o.cx.bases.getD base 0).toNat : Int) + (BitVec.ofNat 32 x.res + loff.signExtend 32 : Word).toInt * (4 ^ sc : Nat)
    let gives := fun s1 => emitOp s1 o o.elem (resultLanes o) (fun h => { h with seg := k, eor := on.isEmpty })
    (∀ x ∈ on, vaCheck (va x) 4 4 = none) →
    (on = [] → Claims.Gives .ldchNode s (gives (dropOp s o.id))) ∧
    (on ≠ [] → Claims.Gives .ldchNode s (gives (setOp s
      { o with kind := .ldch base sc count loff (k + 1), phase := .queued, lanes := on.map (fun x => mkLane x.lane (va x) 4 0 0) })))) ∧
  (∀ s : State, linePresent s s.occ.a s.occ.b = true →
    Claims.Gives .stashEviction s (dropLine (writeBackLine s s.occ.a s.occ.b) s.occ.a s.occ.b)) ∧
  (∀ s : State,
    let k := s.occ.b
    let s1 := correctSoft s s.occ.a k 1
    let s2 := count { s1 with mem := { s1.mem with sramLatent := sdel s1.mem.sramLatent k } } 0 s1.occ.a
    (k < 2 ^ 41 ∨ 2 ^ 60 ≤ k → sget s1.mem.sramLatent k = none → Claims.Gives .sramScrub s s1) ∧
    ((sget s1.mem.sramLatent k).isSome = true →
      (k < 2 ^ 40 → Claims.Gives .sramScrub s { s2 with mem := { s2.mem with sramBad := sset s2.mem.sramBad k () } }) ∧
      (2 ^ 40 ≤ k → k < 2 ^ 41 → Claims.Gives .sramScrub s { s2 with frm := { s2.frm with slotBad := sset s2.frm.slotBad (k - 2 ^ 40) () } }) ∧
      (2 ^ 60 ≤ k → Claims.Gives .sramScrub s { s2 with mem := { s2.mem with stashBad := sset s2.mem.stashBad (k - 2 ^ 60) () } }))) ∧
  ∀ s : State,
    let s1 := correctAt s (s.occ.b * 64) 64
    let listed := (s1.mem.badWords.filter (fun p => controller s1 (p.1 * 8) == controller s1 (s.occ.b * 64))).length
    ((∀ k < 8, sget s1.mem.latent (s.occ.b * 8 + k) = none) → Claims.Gives .dramScrub s s1) ∧
    (∀ j < 8, (∀ k < 8, (sget s1.mem.latent (s.occ.b * 8 + k)).isSome = decide (k = j)) →
      let w := s.occ.b * 8 + j
      let s2 := count s1 3 (controller s1 (s.occ.b * 64))
      (listed < 256 →
        Claims.Gives .dramScrub s { s2 with mem := { s2.mem with latent := sdel s2.mem.latent w, badWords := sset s2.mem.badWords w () } }) ∧
      (256 ≤ listed →
        Claims.Gives .dramScrub s (frameless s2 (quadTile0 (controller s2 (s.occ.b * 64) / 3)) causeMemUe 0 (w * 8)))) ∧
    ∃ t, Claims.Gives .dramScrub s t ∧ t = (List.range 8).foldl (fun u k => Claims.scrubbed (s.occ.b * 64) u (s.occ.b * 8 + k)) s1 ∧
      (listed + 8 ≤ 256 → ∀ k < 8, (sget s1.mem.latent (s.occ.b * 8 + k)).isSome = true →
        (sget t.mem.badWords (s.occ.b * 8 + k)).isSome = true ∧ sget t.mem.latent (s.occ.b * 8 + k) = none)

/-- R158, R159, R160, R415: under the baton the node that holds it performs its admitted operations, the oldest eight in order, and passes the baton
on; under ticket order the lowest ticket is performed; a stuck baton is reported and the nodes go to ticket order; a write of SMODE takes
effect when all is performed, admits the held operations, and only then gives MTSR's token.
That a stuck baton is reported to tile 0 even where Q0 is fused off is the model's choice (log entry 27). -/
def Obligations.ScOperationsFollowTheirOrder : Prop :=
  (∀ s : State, s.syn.smode = false → sget s.syn.stuck s.syn.baton = none →
    let mine := s.syn.admitted.filter (fun id => nodeOf s id == s.syn.baton)
    ∃ t, Claims.Gives .batonVisit s t ∧
      Claims.ScRun (mine.take 8) { s with syn := { s.syn with baton := (s.syn.baton + 1) % 13 } } t) ∧
  (∀ s : State, s.syn.smode = true ∨ sget s.syn.stuck s.syn.baton ≠ none → Claims.Gives .batonVisit s s) ∧
  (∀ (s : State) (id : Nat) (rest : List Nat), s.syn.smode = true → s.syn.admitted = id :: rest →
    ∃ t, Claims.Gives .ticketOrder s t ∧ Claims.ScStep s id t) ∧
  (∀ s : State, s.syn.smode = false ∨ s.syn.admitted = [] → Claims.Gives .ticketOrder s s) ∧
  (∀ s : State, let due := s.syn.smode = false ∧ s.syn.baton = s.occ.a ∧ (∃ since, sget s.syn.stuck s.occ.a = some since ∧ since + 2 ^ 16 ≤ s.cyc) ∧
      pendingCount s 0 < 1024
    (due → Claims.Gives .seqOrder s (frameless { s with syn := { s.syn with smode := true } } 0 causeSeqOrder 0x01 s.occ.a)) ∧
    (¬ due → Claims.Gives .seqOrder s s)) ∧
  (∀ (s : State) (m : Bool) (id : Nat), s.syn.smodeNext = some (m, id) →
    let s1 := s.ops.foldl admitSc { s with syn := { s.syn with smode := m, smodeNext := none } }
    (s.syn.admitted ≠ [] → Claims.Gives .smodeWrite s s) ∧
    (s.syn.admitted = [] → opById s id = none → Claims.Gives .smodeWrite s s1) ∧
    ∀ o, s.syn.admitted = [] → opById s id = some o → emitFits s o (statusLanes o.w [0]) = true →
      Claims.Gives .smodeWrite s (emitOp (dropOp s1 id) o 13 (statusLanes o.w [0]) (fun h => h))) ∧
  (∀ (s : State) (o : Op), let u := { s with syn := { s.syn with admitted := s.syn.admitted ++ [o.id] } }
    (mayPerform s o = true → mayAdmit s o = true → admitSc s o = u) ∧ (mayPerform s o = false ∨ mayAdmit s o = false → admitSc s o = s)) ∧
  ∀ (s : State) (o : Op), Claims.Subject s o → mayPerform s o = true → mayAdmit s o = true →
    Claims.Gives .dramRequest s { s with syn := { s.syn with admitted := s.syn.admitted ++ [o.id] } }

/-- R20 to R30: an access, or a Dray command that moves bytes, looks its lanes up in its tile's buffer; what misses waits in the miss table; the walker takes requests in order, and a
walk's end serves every request that it covers. That a walk reads all its levels and sets A and D in the one turn in which it ends is the model's
choice (log entry 10). -/
def Obligations.TranslationsAreLookedUpAndWalked : Prop :=
  (∀ (s : State) (o : Op), Claims.Subject s o →
    (o.phase = .queued ∧ translates o.kind = true ∧ (o.lanes ≠ [] ∨ o.kind = .sflush ∨ o.kind = .sinv)) ∨ (o.phase = .active ∧ drayMoves o.kind = true) →
    Claims.Gives .translationMiss s (settleLanes (o.lanes.foldl (fun s x => lookupLane s o x) s) o.id)) ∧
  (∀ (s : State) (o : Op) (x : Lane), x.phys = none → x.flt = 0 → waitsIn s o (x.va.toNat / 2 ^ 16) = false →
    (∀ e, tbFind s o.tile o.cx.asid x.va.toNat = some e → (isWrite o.kind && e.wr && !e.d) = false →
      (leafCheck s (wantOf o) e x.va.toNat = none → lookupLane s o x = setLane (tbUse s o.tile e) o.id { x with phys := some (physOf e x.va.toNat) }) ∧
      (∀ c d, leafCheck s (wantOf o) e x.va.toNat = some (c, d) → x.rewalked = true ∨ c = causePriv →
        lookupLane s o x = setLane (tbUse s o.tile e) o.id { x with flt := c * 256 + d })) ∧
    (tbFind s o.tile o.cx.asid x.va.toNat = none →
      (∀ m ∈ s.xl.misses, ¬ (m.tile = o.tile ∧ m.asid = o.cx.asid ∧ m.vpn = x.va.toNat / 2 ^ 16)) →
      (missesOf s o.tile < 16 → lookupLane s o x = { s with xl := { s.xl with misses := s.xl.misses ++
        [{ tile := o.tile, asid := o.cx.asid, vpn := x.va.toNat / 2 ^ 16, wr := isWrite o.kind, waiters := [o.id], sent := false, root := false }] } }) ∧
      (16 ≤ missesOf s o.tile → lookupLane s o x = s))) ∧
  (∀ (s : State) (w : Walk), let s1 := sendMisses s s.occ.a
    (s1.xl.walks.filter (fun w => w.quad == s.occ.a && w.running)).length < 64 →
    s1.xl.walks.find? (fun w => w.quad == s.occ.a && !w.running) = some w →
    Claims.Gives .pageWalk s { s1 with xl := { s1.xl with
      walks := s1.xl.walks.map (fun x => if x.quad == s.occ.a && x.asid == w.asid && x.vpn == w.vpn then { x with running := true } else x) } }) ∧
  (∀ (s : State) (w : Walk) (s1 : State), (s.xl.walks.filter (fun w => w.quad == s.occ.a && w.running))[s.occ.b]? = some w →
    let va := w.vpn * 2 ^ 16
    (∀ c d, walk s s.occ.a w.asid va w.wr w.root = (s1, .error (c, d)) →
      let mine := fun asid vpn => asid == w.asid && vpn == w.vpn
      let done := s1.xl.misses.filter (fun m => quadOf m.tile == s.occ.a && m.sent && mine m.asid m.vpn)
      let s2 := { s1 with xl := { s1.xl with walks := s1.xl.walks.filter (fun x => !(x.quad == s.occ.a && mine x.asid x.vpn)) } }
      Claims.Gives .walkComplete s (done.foldl (fun s m => deliverMiss s m (.error (c, d))) s2)) ∧
    ∀ e, walk s s.occ.a w.asid va w.wr w.root = (s1, .ok e) →
      let mine := fun asid vpn => asid == w.asid && vpn * 2 ^ 16 / 2 ^ e.bits == e.page
      let done := s1.xl.misses.filter (fun m => quadOf m.tile == s.occ.a && m.sent && mine m.asid m.vpn)
      let s2 := { s1 with xl := { s1.xl with walks := s1.xl.walks.filter (fun x => !(x.quad == s.occ.a && mine x.asid x.vpn)) } }
      Claims.Gives .walkComplete s (done.foldl (fun s m => deliverMiss s m (.ok { e with asid := m.asid })) s2)) ∧
  (∀ (s s0 s1 : State) (quad asid va : Nat) (wr : Bool) (r : Nat) (seen : List (Nat × Nat)), asidRoot s asid = (s0, .ok r) →
    let s2 := cacheWalk s1 quad asid va seen
    (∀ lvl a pte, walkDown va 3 r [] s0 = (s1, { leaf := .ok (lvl, a, pte), seen := seen }) →
      let pte' := pte ||| 64 ||| (if wr then 128 else 0)
      walk s quad asid va wr true = (if pte' = pte then s2 else homeWrite s2 0 a 8 pte',
        .ok { asid := asid, page := va / 2 ^ (16 + 10 * lvl), bits := 16 + 10 * lvl, pa := bits pte' 16 36 * 2 ^ 16, wr := bit pte' 2, ex := bit pte' 3,
              us := bit pte' 4, gl := bit pte' 5, d := bit pte' 7, mt := bits pte' 8 2, enc := bits pte' 52 8 })) ∧
    ∀ lvl e, walkDown va 3 r [] s0 = (s1, { leaf := .error (lvl, e), seen := seen }) →
      walk s quad asid va wr true = (if e.1 = causeMemUe then { s2 with xl := { s2.xl with
        cache := s2.xl.cache.filter (fun c => !(c.quad == quad && c.asid == asid && c.lvl == lvl && c.path == va / 2 ^ (16 + 10 * lvl))) } } else s2, .error e)) ∧
  ∀ (s s1 : State) (va l page : Nat) (seen : List (Nat × Nat)),
    let a := page + va / 2 ^ (16 + 10 * l) % 1024 * 8
    let ends := fun leaf => walkDown va l page seen s = (s1, { leaf := leaf, seen := seen })
    (∀ e, tableRead s a = (s1, .error e) → ends (.error (l, e))) ∧
    ∀ pte, tableRead s a = (s1, .ok pte) →
      (∀ e, pteCheck l pte = .error e → ends (.error (l, e))) ∧
      (pteCheck l pte = .ok () → bit pte 1 = true → ends (.ok (l, a, pte))) ∧
      ∀ k, l = k + 1 → pteCheck l pte = .ok () → bit pte 1 = false →
        walkDown va l page seen s = walkDown va k (bits pte 13 39 * 2 ^ 13) (seen ++ [(l, bits pte 13 39 * 2 ^ 13)]) s1

/-- R55, R61, R140, R143 to R147, R150 to R157, R191, R164, R193, R194, R261, R263, R283 to R290, R292: hitch operations act at their engine, grants and
releases act on the stash, barriers complete with their last member, WAIT and FENCE leave when what they wait for is complete, GIVE flips its pen
after the release, a trough's waiter is served, and an ENDING context with nothing left becomes FREE. That the GIVE's turn performs the tile's
waiting STPs first (log entry 12), that a request which finds the engine's pool full has made its hitch active (log entry 33), and that a waiter
whose frame has come to hold 8 slots gets TROUGH detail 0x06 (log entry 50), are the model's choices. -/
def Obligations.SynchronisationIsPerformed : Prop :=
  (∀ (s : State) (o : Op) (x : Lane) (p : Phys) (r : List Lane), Claims.AtEngine s o x p r →
    (∀ k t, o.kind = .hreq k t → Claims.Gives .hitchRequestArrival s (requestAt s o p k t)) ∧
    (∀ y r', r = y :: r' → (o.kind = .hbind → Claims.Gives .hitchRequestArrival s (bindAt s o p y true)) ∧
      (o.kind = .hunb → Claims.Gives .hitchRequestArrival s (bindAt s o p y false))) ∧
    ((∃ key, o.kind = .bar true key) ∨ (∃ c, o.kind = .spawn c true) → o.n = 1 → Claims.Gives .hitchRequestArrival s (requestAt s o p .p false)) ∧
    (∀ k, o.kind = .hrel k → o.n = 3 → Claims.Gives .hitchReleaseArrival s (abandonHold (dropOp s o.id) p.pa o.ctx)) ∧
    (∀ k, o.kind = .hrel k → o.n ≠ 3 → storesAcked s o = true →
      (releaseFault s o p (k == .p) = none →
        let t := releaseAt s o p (k == .p)
        Claims.Gives .hitchReleaseArrival s
          (if emitRoom t o o.a = true then emitOp (dropOp t o.id) o o.elem o.a (fun h => h) else setOp t { o with phase := .done })) ∧
      ∀ d, releaseFault s o p (k == .p) = some d → Claims.Gives .hitchReleaseArrival s (failOp s o causeHitch d x.va.toNat)) ∧
    (∀ c, o.kind = .spawn c true → storesAcked s o = true → o.n = 0 → spawnRoom s o = true → releaseFault s o p true = none →
      Claims.Gives .hitchReleaseArrival s (spawnAfter (releaseAt s o p true) o c)) ∧
    (∀ key, o.kind = .bar true key → o.n = 0 → mayArrive s o key = true → storesAcked s o = true → releaseFault s o p true = none →
      Claims.Gives .barrierArrival s (arrive (releaseAt s o p true) o key))) ∧
  (∀ (s : State) (o : Op) (p : Phys) (h : Hitch), Claims.HitchAt s o p h →
    (∀ k t, k ≠ .p → holds h o.ctx = true → requestAt s o p k t = hitchFault s o p.pa (causeHitch, 0x04)) ∧
    (holds h o.ctx = false → h.fifo = [] → h.excl = none → engineWaits s p.pa < 8192 → opById s o.id = some o →
      let queued := { setOp s { o with phase := .active } with syn := { s.syn with hitches := sset s.syn.hitches p.pa { h with fifo := [{ op := o.id, ctx := o.ctx, kind := .x }] } } }
      let granted := { h with gseq := h.gseq + 1, excl := some o.ctx, fifo := [] }
      (h.shared = [] → requestAt s o p .x false =
        answerOp (setHitch queued p.pa granted) o.id (statusLanes o.w [(if h.abn then 1 else 0) + 2, h.gseq + 1]) true) ∧
      (∀ c, h.shared = [c] → requestAt s o p .x false = queued)) ∧
    (∀ k : HKind, holds h o.ctx = false ∨ k = .p → releaseFault s o p (k == .p) = if k = .p then none else some 0x03) ∧
    ∀ k : HKind, k ≠ .p → holds h o.ctx = true → releaseFault s o p false = none ∧ (h.excl = some o.ctx → releaseHold h o.ctx = { h with excl := none, abn := false }) ∧
      (h.excl ≠ some o.ctx → releaseHold h o.ctx = { h with shared := h.shared.erase o.ctx })) ∧
  Claims.HitchRequests ∧ Claims.HitchLives ∧ Claims.HitchBindings ∧
  (∀ (s : State) (o : Op) (x : Lane) (p : Phys) (r : List Lane), Claims.Subject s o → o.phase = .done → o.tile < 384 → o.lanes = x :: r → x.phys = some p →
    let acquired := cleanIn s o.tile (regionsAt s p.pa)
    (∀ k t, o.kind = .hreq k t → Claims.Responds .hitchGrantArrival s (if o.n = 1 then acquired else s) o o.out) ∧
    (∀ h key, o.kind = .bar h key →
      Claims.Responds .hitchGrantArrival s (if h then acquired else s) o (statusLanes o.w [BitVec.ofNat 32 o.addr])) ∧
    ((∃ k, o.kind = .hrel k) ∨ o.kind = .hbind ∨ o.kind = .hunb → Claims.Responds .hitchGrantArrival s s o o.a) ∧
    ∀ c, o.kind = .spawn c true →
      (∀ t k, placeTile s o.cx.q o.portNo = some (t, k) → Claims.Gives .hitchGrantArrival s (dropOp (cleanIn s t (regionsAt s p.pa)) o.id)) ∧
      (placeTile s o.cx.q o.portNo = none → Claims.Gives .hitchGrantArrival s (dropOp s o.id))) ∧
  (∀ (s : State) (o : Op) (gen key : Nat), opById s o.id = some o →
    (o.kind = .bar false key → barDone s gen o.id = setOp s { o with phase := .done, addr := gen }) ∧
    (o.kind = .bar true key → barDone s gen o.id = setOp s { o with
      phase := .queued, n := 1, addr := gen, lanes := o.lanes.map (fun x => if x.fin = true then x else { x with phys := none, rewalked := false }) })) ∧
  (∀ (s : State) (o : Op) (key : Nat), Claims.Subject s o → o.kind = .bar false key → o.tid = 0 → fenced s o = false → mayArrive s o key = true → o.n = 0 →
    o.phase = .queued →
    Claims.Gives .barrierArrival s (arrive s o key) ∧
    ∀ m, s.syn.bars.find? (fun m => m.q == o.cx.q && m.key == key) = some m →
      let m' := { m with arrived := m.arrived ++ [(opTile s o, o.id)] }
      let rest := s.syn.bars.filter (fun m => !(m.q == o.cx.q && m.key == key))
      let s1 := setOp s { o with phase := .active }
      ((∃ t ∈ barMembers s o.cx.q key, ∀ a ∈ m'.arrived, a.1 ≠ t) → arrive s o key = { s1 with syn := { s.syn with bars := rest ++ [m'] } }) ∧
      ((∀ t ∈ barMembers s o.cx.q key, ∃ a ∈ m'.arrived, a.1 = t) → arrive s o key =
        m'.arrived.foldl (fun s x => barDone s m.gen x.2)
          { s1 with syn := { s.syn with bars := rest, barGen := sset s.syn.barGen (o.cx.q * 2 ^ 24 + key) (BitVec.ofNat 32 (m.gen + 1)) } })) ∧
  (∀ (s : State) (o : Op) (l st d m : Nat), Claims.TileSubject s o → o.kind = .wait l st d m → o.tid = 0 →
    (∀ p ∈ s.ops, p.tile = o.tile → p.ctx = o.ctx → p.id < o.id → ∀ a b c e, p.kind ≠ .wait a b c e) →
    let s1 := if st = 0 then writeBackAll s o.tile else s
    (outstanding s1 o.tile o.ctx countsLoad ≤ l ∧ outstanding s1 o.tile o.ctx isStore ≤ st ∧ outstanding s1 o.tile o.ctx countsDray ≤ d ∧
      outstanding s1 o.tile o.ctx countsMatrix ≤ m → Claims.Responds .waitEmit s s1 o o.a) ∧
    (¬ (outstanding s1 o.tile o.ctx countsLoad ≤ l ∧ outstanding s1 o.tile o.ctx isStore ≤ st ∧ outstanding s1 o.tile o.ctx countsDray ≤ d ∧
      outstanding s1 o.tile o.ctx countsMatrix ≤ m) → Claims.Gives .waitEmit s s1)) ∧
  (∀ (s : State) (o : Op) (sc : Nat), Claims.TileSubject s o → o.kind = .fence sc → o.tid = 0 → fenced s o = false →
    let s1 := if sc = 0 then s else writeBackAll s o.tile
    ((∀ p ∈ s1.ops, p.tile = o.tile → p.ctx = o.ctx → portBefore p o = true → fenceWaits sc p = false) → (sc = 3 → broadcastHeld s1 o = false) →
      Claims.Responds .fenceRelease s s1 o o.a) ∧
    ((∃ p ∈ s1.ops, p.tile = o.tile ∧ p.ctx = o.ctx ∧ portBefore p o = true ∧ fenceWaits sc p = true) ∨ (sc = 3 ∧ broadcastHeld s1 o = true) →
      Claims.Gives .fenceRelease s s1)) ∧
  (∀ (s : State) (o : Op) (n eng : Nat), Claims.Subject s o → o.kind = .give n eng → o.phase = .queued → storesAcked s o = true →
    (∀ p ∈ s.ops, p.tile = o.tile → p.id < o.id → stopped p = false → ∀ a b, p.kind ≠ .give a b) →
    (∀ p ∈ s.ops, p.tile = o.tile → p.tid = 0 → stopped p = false → ∀ a b, p.kind = .tacc a b → penOf b ≠ n) →
    let s1 := writeBackAll (drainStp s o.tile) o.tile
    storesHome s1 o = true → (∀ p ∈ s1.ops, p.tile = o.tile → p.ctx = o.ctx → isStp p.kind = true → p.tid = 0 → o.id ≤ p.id) →
    ∀ p, penAt s1 o.tile n = some p →
      (p.own = false → Claims.Gives .giveFlip s (setPen (dropOp s1 o.id) o.tile n { p with own := true, eng := eng })) ∧
      (p.own = true → Claims.Gives .giveFlip s (failOp s1 o causeOwnViol 0 (n * 2 ^ 22)))) ∧
  (∀ (s : State) (t : Trough) (pre post : List Waiter) (isTake : Bool) (elem rank c i blk pos port : Nat), troughAt s s.occ.a s.occ.b = some t →
    let w := Waiter.pe isTake elem rank c i blk pos port
    t.waiters = pre ++ w :: post → w ∉ pre → (∀ v ∈ pre, (if v.takes then t.filled else t.free) = 0) → 0 < (if isTake then t.filled else t.free) →
    let t' := { t with waiters := pre ++ post }
    let s1 := setTrough s s.occ.a s.occ.b t'
    let moved := if isTake then take s1 s.occ.a s.occ.b t' 0 else reserve s1 s.occ.a s.occ.b t' 0
    ((ownedBy s s.occ.a rank c i).length < 8 →
      notifyRoom s s.occ.a elem rank c i port (t.pen0 + if isTake then t.nxt else t.nxr) = true →
      Claims.Gives .troughWaiterServe s
        (notify (addOwned moved.1 { tile := s.occ.a, rank := rank, ctx := c, iter := i, blk := blk, pos := pos, pen := moved.2, take := isTake, groom := elem == 8 })
          s.occ.a elem rank c i blk pos port moved.2)) ∧
    (8 ≤ (ownedBy s s.occ.a rank c i).length → faultRoom s s.occ.a rank c i = true →
      Claims.Gives .troughWaiterServe s (raiseOn s1 s.occ.a { bareRecord (ltileOf s s.occ.a rank) causeTrough 0x06 0 with
        framed := true, ctx := c, iter := i, rank := rank, blk := blk, pos := pos }))) ∧
  ∀ (s : State) (x : Ctx),
    let c := s.occ.a
    let s1 := (endings s c).foldl (fun s o => endContext s o c) s
    (∀ o : Op, storesAcked s o = true → ctxOf s c = some x →
      endContext s o c = { dropOp s o.id with ctxs := sset s.ctxs c { x with st := if x.st = .live then .ending else x.st } }) ∧
    (ctxOf s1 c = some x →
      (x.st = .ending → contextBusy s1 c x = false → (∀ l, sget s1.sch.launches x.q = some l → l.placed = true) →
        let s2 := removeRequests (abandonAll s1 c) (fun r => r.ctx == c)
        let s3 := { s2 with ops := s2.ops.filter (fun o => !(o.ctx == c && o.phase == .active && (match o.kind with | .hreq _ _ => true | _ => false))) }
        let s4 := clearWindows s3 c x
        Claims.Gives .contextFree s (requeueHead { s4 with ctxs := sdel s4.ctxs c } x.q)) ∧
      (contextBusy s1 c x = true → Claims.Gives .contextFree s s1))

/-- R13, R26, R54, R55, R60, R61, R67, R82, R101, R102, R299 to R304, R453: a channel takes its next command and moves its bytes once their addresses are
translated, reserves and writes at other tiles, combines a reduction's members, appends to bales; it completes with its token or fails, and its
pen flips back as the last act; a completion whose token's tag raises a fault waits for room in its list (R405). That another package cannot be
reached is the model's (log entry 1). -/
def Obligations.DrayCommandsArePerformed : Prop :=
  (∀ (s : State) (o : Op), channelHead s s.occ.a s.occ.b = some o →
    ((¬ ∃ p, penAt s o.tile (lpen o) = some p ∧ p.own = true ∧ p.eng = s.occ.b + 1) → (¬ ∃ c r f, o.kind = .dred c r f) →
      Claims.Gives .drayCommandStart s (failOp s o causeEngine 0x0D (paramAt o 0))) ∧
    ((∃ c r f, o.kind = .dred c r f) → Claims.Gives .drayCommandStart s (startDred s o)) ∧
    (Claims.Commanded s o →
      ((∃ c, o.kind = .dcopy 0 c ∨ o.kind = .dcopy 1 c ∨ o.kind = .dgath c ∨ o.kind = .dscat c) →
        Claims.Gives .drayCommandStart s (setOp s { o with phase := .active, lanes := partsOf o.lanes })) ∧
      (∀ t, destTile s o = .ok t →
        ((∃ c, o.kind = .dcopy 2 c) → Claims.Gives .drayCommandStart s (Claims.sending s o [penRemote o t])) ∧
        ((∃ c, o.kind = .dcopy 3 c) ∨ (∃ c, o.kind = .dhop c) → Claims.Gives .drayCommandStart s (Claims.sending s o [slotRemote o t]))) ∧
      (∀ d, destTile s o = .error d → (∃ c, o.kind = .dcopy 2 c) ∨ (∃ c, o.kind = .dcopy 3 c) ∨ (∃ c, o.kind = .dhop c) →
        Claims.Gives .drayCommandStart s (failOp s o causeEngine d (if d = 0x21 then 0 else paramAt o 1))) ∧
      ((∃ c, o.kind = .dcopy 4 c) → Claims.Gives .drayCommandStart s (setOp s { o with phase := .active, n := 0 })) ∧
      (∀ c, groupTiles s o ≠ [] →
        (o.kind = .dbcst c false → Claims.Gives .drayCommandStart s (Claims.sending s o ((dedup (groupTiles s o)).map (penRemote o)))) ∧
        (o.kind = .dbcst c true → Claims.Gives .drayCommandStart s
          (Claims.sending s o ((groupTiles s o).zipIdx.map (fun x => { slotRemote o x.1 with member := x.2 }))))))) ∧
  (∀ (s : State) (o : Op), (channel s s.occ.a s.occ.b).find? movesReady = some o → Claims.Gives .drayCommandStart s (moveParts o.id o.lanes s)) ∧
  (∀ (s s1 : State) (o : Op) (x : Lane) (rest : List Lane), opById s o.id = some o →
    moveParts o.id [] s = setOp s { o with phase := .done } ∧
    (∀ d a, movePart s o x = (s1, .error (d, a)) → moveParts o.id (x :: rest) s = failOp s1 o causeEngine d a) ∧
    ∀ p, movePart s o x = (s1, .ok p) → moveParts o.id (x :: rest) s = moveParts o.id rest (setLane s1 o.id { x with phys := some p, fin := true })) ∧
  (∀ (s : State) (o : Op) (x : Lane) (p : Phys),
    (x.phys = none → movePart s o x = (s, .error (engineDetail (x.flt / 256), vaNat x.va))) ∧
    (x.phys = some p → isRemote p.pa = true → s.dev.idv = false ∨ bits p.pa 41 10 ≠ s.dev.pkgid.toNat →
      movePart s o x = (s, .error (0x19, vaNat x.va))) ∧
    (x.phys = some p → isRemote p.pa = true → s.dev.idv = true → bits p.pa 41 10 = s.dev.pkgid.toNat →
      (dramRow (p.pa % 2 ^ 41) = none → movePart s o x = (s, .error (0x19, vaNat x.va))) ∧
      ((dramRow (p.pa % 2 ^ 41)).isSome = true → dramPresent s (p.pa % 2 ^ 41) = false → movePart s o x = (s, .error (0x0B, vaNat x.va))) ∧
      (dramPresent s (p.pa % 2 ^ 41) = true → movePart s o x = moveAt s o x { p with pa := p.pa % 2 ^ 41 })) ∧
    (x.phys = some p → isRemote p.pa = false → movePart s o x = moveAt s o x p) ∧
    let a := penByte s o.tile (lpen o) x.data
    (ownsLpen s o = false → moveAt s o x p = (s, .error (0x0D, paramAt o 0))) ∧
    (ownsLpen s o = true → isWrite o.kind = true →
      (∀ v, sramRead s a x.len = some v → moveAt s o x p = (homeWrite (fixSram s a x.len) p.enc p.pa x.len v, .ok p)) ∧
      (sramRead s a x.len = none → moveAt s o x p = (fixSram s a x.len, .error (0x11, lpen o * 2 ^ 22 + x.data)))) ∧
    (ownsLpen s o = true → isWrite o.kind = false →
      (∀ v, homeRead s p.enc p.pa x.len = some v → moveAt s o x p = (sramWrite (correctAt s p.pa x.len) a x.len v, .ok p)) ∧
      (homeRead s p.enc p.pa x.len = none → moveAt s o x p = (correctAt s p.pa x.len, .error (0x11, p.pa))))) ∧
  (∀ (s : State) (o : Op) (r : Remote), Claims.RemoteOf s o r → sgetD s.dev.qcur (quadOf r.tile) 0 = 2 →
    Claims.Gives (Claims.remoteEvent o) s s) ∧
  (∀ (s : State) (o : Op) (r : Remote), Claims.RemoteOf s o r → sgetD s.dev.qcur (quadOf r.tile) 0 ≠ 2 →
    (r.stage = 2 → Claims.Gives (Claims.remoteEvent o) s (endRemote s o r)) ∧
    (r.stage = 0 → ownsLpen s o = false → Claims.Gives (Claims.remoteEvent o) s (failOp s o causeEngine 0x0D (paramAt o 0))) ∧
    (r.stage = 0 → ownsLpen s o = true → r.pen = none → ∀ t, troughOk s r.tile r.trough = some t →
      (t.pkind ≠ 2 → Claims.Gives (Claims.remoteEvent o) s (failOp s o causeEngine 0x0E 0)) ∧
      (t.pkind = 2 → mayMove t false = true → let x := reserve s r.tile r.trough t 0
        Claims.Gives (Claims.remoteEvent o) s
          (setRemotes x.1 (fun l => l.map (fun y => if y = r then { y with pen := some x.2 } else y)))) ∧
      (t.pkind = 2 → mayMove t false = false → Waiter.dray false r.op ∉ t.waiters →
        Claims.Gives (Claims.remoteEvent o) s (setTrough s r.tile r.trough { t with waiters := t.waiters ++ [.dray false r.op] }))) ∧
    (r.stage = 0 → ownsLpen s o = true → ∀ pen, r.pen = some pen → let len := paramAt o 3
      (∀ d, destCheck s o r pen len = some d → Claims.Gives (Claims.remoteEvent o) s (failOp s o causeEngine d (pen * 2 ^ 22 + r.off))) ∧
      (∀ v, destCheck s o r pen len = none → penRead s o.tile (paramAt o 0) len = some v →
        Claims.Gives (Claims.remoteEvent o) s
          (remoteDone (penWrite (fixPen s o.tile (paramAt o 0) len) r.tile (pen * 2 ^ 22 + r.off) len v) o r pen)))) ∧
  (∀ (s : State) (o : Op) (ch : Nat) (op : DredOp) (i32 : Bool) (m : Meeting) (os : List Op), Claims.Subject s o → o.kind = .dred ch op i32 →
    s.syn.dreds.find? (fun m => m.arrived.any (·.2 == o.id)) = some m →
    (∀ l, sget s.sch.launches m.q = some l → ∀ g, subgroup l (m.key % 2 ^ 16) = some g → ∀ t ∈ members g, ∃ a ∈ m.arrived, a.1 = t) →
    let ms := m.arrived.foldr insertMember []
    ms.filterMap (fun x => opById s x.2) = os →
    (∀ p ∈ os, paramAt p 3 = paramAt o 3 ∧ ∃ c, p.kind = .dred c op i32) →
    let s1 := os.foldl (fun s p => fixPen s p.tile (paramAt p 0) (paramAt o 3)) { s with syn := { s.syn with dreds := s.syn.dreds.filter (· != m) } }
    (∀ p ∈ os, ownsLpen s1 p = true ∧ (penRead s1 p.tile (paramAt p 0) (paramAt o 3)).isSome = true) →
    let r := dredResult op i32 (paramAt o 3 / 4) (os.map (fun p => (penRead s1 p.tile (paramAt p 0) (paramAt o 3)).getD 0))
    Claims.Gives .dredCombine s (os.foldl (fun s p => setOp (penWrite s p.tile (paramAt p 0) (paramAt o 3) r) { p with phase := .done }) s1)) ∧
  (∀ r x : Word, dredStep .sum true r x = r + x ∧ dredStep .sum false r x = (add32 r x).1 ∧
    dredStep .max true r x = (if r.sle x then x else r) ∧ dredStep .min true r x = (if r.sle x then r else x)) ∧
  (∀ (s s1 : State) (o : Op) (x : BaleEntry), Claims.Subject s o → o.phase = .active → (∃ ch, o.kind = .dcopy 4 ch) →
    let there := placedElsewhere s (paramAt o 1) (paramAt o 3 / 64)
    (there = true → o.n = 0 → Claims.Gives .append s (failOp s o causeEngine 0x19 0)) ∧
    (lookBale s o.id o.tile (paramAt o 1) (paramAt o 2) (paramAt o 3 / 64) = (s1, .entry x) →
      (there = false → o.n = 0 → Claims.Gives .append s (appendTry s1 o x)) ∧ (o.n = 2 →
        Claims.Gives .append s (appendStore (if bits x.entry 62 2 = 1 then wakeQuad s1 (quadOf (bits x.entry 17 26 / 1024)) else s1) o x)) ∧
      (there = false → o.n = 1 → o.addr ≤ s.cyc → Claims.Gives .appendRetry s (appendTry s1 o x)))) ∧
  (∀ (s s1 s2 : State) (o : Op) (x : BaleEntry) (ring : List Nat) (low : Nat) (q : Pen), seqRefusal x o.cx.asid o.cx.q = none →
    resolvePlace s x.sent x.seq (x.bidx / 16) = (s1, .pkg s1.dev.pkgid.toNat) → ringList s1 x.sent = (s2, .ok ring) →
    holderRefusal s2 x = none → placeRefusal s2 (.pkg s1.dev.pkgid.toNat) ring = none → storageRefusal s2 x = none →
    ownsLpen s2 o = true → penAt s2 o.tile (lpen o) = some q →
    let n := 2 * seqDh x.sent * seqEs x.sent
    let s3 := correctAt s2 x.addr 8
    offOf (paramAt o 0) + n ≤ q.size * 4096 → (penRead s2 o.tile (paramAt o 0) n).isSome = true → homeRead s2 0 x.addr 8 = some low →
    (bit low 6 = true → appendTry s o x = setOp s3 { o with n := 1, addr := s3.cyc + 256 }) ∧
    (bit low 6 = false → ∀ d, appendRefusal low (paramAt o 3 % 64) = some d →
      appendTry s o x = failOp s3 o causeBale d (paramAt o 1 + paramAt o 3 / 64 * 2 ^ 32)) ∧
    (bit low 6 = false → appendRefusal low (paramAt o 3 % 64) = none → appendTry s o x =
      setOp (homeWrite s3 0 x.addr 8 (low + 64)) { o with n := 2, lanes := [wroteLane 0 x.addr 8] })) ∧
  (∀ (s : State) (o : Op), (channel s s.occ.a s.occ.b).find? (·.phase == .done) = some o →
    (emitFits s o o.a = true → Claims.Gives .drayComplete s
      (emitOp (dropOp (flipBack (cleanIn s o.tile (writtenRanges o)) o.tile (lpen o)) o.id) o 13 o.a (fun h => h))) ∧
    (emitFits s o o.a = false → Claims.Gives .drayComplete s s)) ∧
  ∀ (s : State) (o : Op), (channel s s.occ.a s.occ.b).find? (·.phase == .failed) = some o → mayReport s o = true →
    let s1 := voidRemotes s o.id
    let s2 := raiseOp (flipBack (cleanIn s1 o.tile (writtenRanges o)) o.tile (lpen o)) o o.cause o.detail o.addr
    (frameLive s o.tile o.rank o.ctx o.iter = true → o.elem ≠ 8 → Claims.Gives .drayFail s (setOp s2 { o with phase := .faulted })) ∧
    (frameLive s o.tile o.rank o.ctx o.iter = false ∨ o.elem = 8 → Claims.Gives .drayFail s (dropOp s2 o.id))

/-- R36 to R39, R88, R89, R99, R104, R113 to R115: a bale miss is read at home and buffered, an error given to each that waits; a group's placement is
read and only a valid one cached; TBI, SHINV and PLBC start after the earlier stores, act at every unit, and give their status once all have
acknowledged. When a PGEN is older, that a full placement cache takes nothing, and that the units of PLBC are the own package's, the others only
counted as down, are the model's choice (log entries 26, 13 and 1). -/
def Obligations.BalesAndBroadcasts : Prop :=
  (∀ (s : State) (m : BaleMiss), (s.bal.missing.filter (fun m => m.tile == s.occ.a && m.bad.isNone))[s.occ.b]? = some m →
    ∀ s1, (∀ e, readBale s m.tile m.seq m.lh m.bidx = (s1, .ok e) →
      Claims.Gives .baleLookup s (installBale { s1 with bal := { s1.bal with missing := s1.bal.missing.filter (· != m) } } e)) ∧
    ∀ pa, readBale s m.tile m.seq m.lh m.bidx = (s1, .error pa) → Claims.Gives .baleLookup s
      { s1 with bal := { s1.bal with missing := s1.bal.missing.map (fun x => if x = m then { x with bad := some pa } else x) } }) ∧
  (∀ (s : State) (o : Op) (x : BaleEntry), Claims.Subject s o → isAppend o.kind = true →
    s.bal.buf.find? (fun x => sameBale x o.tile (appSeq o) (appLh o) (appPos o / 64)) = some x → seqValid x.sent = true →
    Claims.Gives .placementMiss s (resolvePlace s x.sent x.seq (x.bidx / 16)).1) ∧
  (∀ (s s1 s2 : State) (e seq g : Nat) (ring : List Nat) (v : Nat), sget s.bal.place (seq * 2 ^ 16 + g) = none → ringList s e = (s1, .ok ring) →
    ring.head? = some s1.dev.pkgid.toNat → tableWord s1 (bits e 152 40 * 4096 + g * 2) 2 = (s2, .ok v) →
    let put := fun gens => { s2 with bal := { s2.bal with place := sset s2.bal.place (seq * 2 ^ 16 + g) (bits v 0 10), pgen := gens } }
    (bit v 15 = false → resolvePlace s e seq g = (s2, .absent)) ∧
    (bit v 15 = true → 4096 ≤ s2.bal.place.length → resolvePlace s e seq g = (s2, .pkg (bits v 0 10))) ∧
    (bit v 15 = true → s2.bal.place.length < 4096 →
      ((sget s2.bal.pgen seq).isSome = true → resolvePlace s e seq g = (put s2.bal.pgen, .pkg (bits v 0 10))) ∧
      (sget s2.bal.pgen seq = none → resolvePlace s e seq g = (put (sset s2.bal.pgen seq (bits e 136 16)), .pkg (bits v 0 10))))) ∧
  (∀ (s : State) (o : Op), Claims.CastStarts s o → let s1 := writeBackAll s o.tile
    (o.kind = .tbi → Claims.Gives .tbShootdownArrival s (startCast s1 o (shootUnits s1 o) 0)) ∧
    (o.kind = .shinv → Claims.Gives .baleShootdownArrival s (startCast s1 o (presentTiles s1) 0)) ∧
    (o.kind = .plbc → ∀ s2 e, plbcHome s1 (wordA o 0) = (s2, .entry e) → let g := (bits e 136 16 + 1) % 65536
      Claims.Gives .placementBroadcastArrival s (startCast (setPgen s2 (wordA o 0) g) o [s2.dev.pkgid.toNat] g)) ∧
    (o.kind = .plbc → ∀ s2, opRoom s2 o = true →
      (plbcHome s1 (wordA o 0) = (s2, .other) →
        Claims.Gives .placementBroadcastArrival s (dropOp (raiseOp s2 { o with id := 0 } causeBadSource 0 0) o.id)) ∧
      ∀ pa, plbcHome s1 (wordA o 0) = (s2, .bad pa) →
        Claims.Gives .placementBroadcastArrival s (dropOp (raiseOp s2 { o with id := 0 } causeMemUe 0 pa) o.id))) ∧
  (∀ (s : State) (o : Op) (c : Cast), Claims.CastAt s o c → s.occ.b ∈ c.units → sget c.held s.occ.b = none →
    (o.kind = .tbi → 384 ≤ s.occ.b → Claims.Gives .tbShootdownArrival s (acknowledge (walkerRemove s (s.occ.b - 384) (opShoot o)) o.id s.occ.b)) ∧
    (o.kind = .tbi → s.occ.b < 384 → 384 + quadOf s.occ.b ∈ c.units → sget c.held (384 + quadOf s.occ.b) = none →
      Claims.Gives .tbShootdownArrival s s) ∧
    (o.kind = .tbi → s.occ.b < 384 → 384 + quadOf s.occ.b ∉ c.units → let s1 := tbRemove s s.occ.b (opShoot o)
      (rangeUsers s s.occ.b (opShoot o) = [] → Claims.Gives .tbShootdownArrival s (acknowledge s1 o.id s.occ.b)) ∧
      (rangeUsers s s.occ.b (opShoot o) ≠ [] →
        Claims.Gives .tbShootdownArrival s (holdUnit s1 o.id s.occ.b (rangeUsers s s.occ.b (opShoot o))))) ∧
    (o.kind = .shinv →
      let gone := fun x : BaleEntry => x.tile == s.occ.b && (shinvHits o x.seq x.lh x.bidx || bit (wordA o 0) 20 && x.seq == wordA o 0 % 2 ^ 20)
      let s1 := { s with bal := { s.bal with buf := s.bal.buf.filter (fun x => !gone x) } }
      (baleUsers s1 s.occ.b (shinvGone o) = [] → Claims.Gives .baleShootdownArrival s (acknowledge s1 o.id s.occ.b)) ∧
      (baleUsers s1 s.occ.b (shinvGone o) ≠ [] →
        Claims.Gives .baleShootdownArrival s (holdUnit s1 o.id s.occ.b (baleUsers s1 s.occ.b (shinvGone o)))))) ∧
  (∀ (s : State) (o : Op) (c : Cast) (ids : List Nat), Claims.CastAt s o c → s.occ.b ∈ c.units → walkerDue s s.occ.a s.occ.b = false → sget c.held s.occ.b = some ids → underWay s ids = [] →
    (o.kind = .tbi → Claims.Gives .tbShootdownArrival s (acknowledge s o.id s.occ.b)) ∧
    (o.kind = .shinv → Claims.Gives .baleShootdownArrival s (acknowledge s o.id s.occ.b))) ∧
  (∀ (s : State) (o : Op) (c : Cast), Claims.CastAt s o c → s.occ.a = o.id → o.kind = .plbc → s.occ.b = s.dev.pkgid.toNat → s.occ.b ∈ c.units →
    sget c.held s.occ.b = none →
    let s1 := { s with bal := { s.bal with
      place := sdrop s.bal.place (wordA o 0 * 2 ^ 16 + wordA o 1) (wordA o 2), pgen := sset s.bal.pgen (wordA o 0) c.arg } }
    (sget s.bal.pgen (wordA o 0) = none → Claims.Gives .placementBroadcastArrival s (acknowledge s1 o.id s.occ.b)) ∧
    ∀ old, sget s.bal.pgen (wordA o 0) = some old →
      ((c.arg + 65536 - old) % 65536 < 32768 → Claims.Gives .placementBroadcastArrival s (acknowledge s1 o.id s.occ.b)) ∧
      (32768 ≤ (c.arg + 65536 - old) % 65536 → Claims.Gives .placementBroadcastArrival s (acknowledge s o.id s.occ.b))) ∧
  ∀ (s : State) (o : Op) (c : Cast), Claims.CastAt s o c → c.units = [] →
    let ends := fun i down => Claims.Gives i s
      (if emitFits s o (statusLanes o.w [if down = 0 then 0 else 1, BitVec.ofNat 32 down]) = true then Claims.castEnds s o down else s)
    (o.kind = .tbi → ends .tbiCompletion (if bits (wordA o 0) 16 2 = 3 then s.health.peersDown else 0)) ∧
    (o.kind = .shinv → ends .shinvCompletion s.health.peersDown) ∧ (o.kind = .plbc → ends .plbcCompletion s.health.peersDown)

/-- R54, R82, R101, R328, R331, R339 to R342, R346 to R352, R355 to R357, R364, R379, R461: an entry of the matrix island, a fold, a rein or probe load
and a TACC entry is applied in its turn, computes what its rule says, and gives its pens back; what cannot be read fails it, and a pen that is not
its unit's. That a queued MMA of a killed frame raises NEXT at its turn is the model's choice (log entry 38). -/
def Obligations.UnitCommandsAreApplied : Prop :=
  Claims.Products ∧ Claims.Drains ∧ Claims.Folds ∧
  (∀ (s : State) (o : Op) (pr : Pair) (ta tb chn : Bool), Claims.Applies s o → o.kind = .mma pr ta tb chn → let f := mmaForm (wordA o)
    (o.n = 1 → faultRoom s o.tile o.rank o.ctx o.iter = true →
      Claims.Gives .mmaApply s (unitDone (raiseOp s { o with id := 0 } causeDuptag 0x04 (o.ctx * 2 ^ 16 + o.iter)) o)) ∧
    (o.n = 2 → nextRoom s o = true → Claims.Gives .mmaApply s (raiseNext (dropOp s o.id) o)) ∧
    (o.n ≠ 1 → o.n ≠ 2 → nextRoom s o = true → foreignPen s o = none →
      let s0 := (mmaReads o f pr ta tb chn).foldl (fun s r => fixPen s o.tile r.1 r.2) s
      let v := latticeView s0 o
      (∀ a, mmaError v o f pr ta tb chn = some a → Claims.Gives .mmaApply s (unitFail s0 o causeMemUe 0 a)) ∧
      (mmaError v o f pr ta tb chn = none →
        let r := (grid f.m f.n).map (fun p => (p, mmaElem v o f pr ta tb chn p.1 p.2))
        let s1 := r.foldl (fun s x => setAcc s o.tile f.acc x.1.1 x.1.2 x.2.1) (fixMma s0 o f pr ta chn)
        Claims.Gives .mmaApply s (unitDone (raiseNext (orAstat s1 o.tile o.rank o.ctx (r.foldl (fun acc x => acc ||| x.2.2) 0)) o) o))) ∧
    (∀ a, o.n ≠ 1 → o.n ≠ 2 → nextRoom s o = true → foreignPen s o = some a → Claims.Gives .mmaApply s (unitFail s o causeOwnViol 0 a)) ∧
    ∀ i j, f.k = f.kb → 0 < f.kb → f.sc = false → chn = false →
      (mmaElem s o f pr ta tb chn i j).1 = (add32 (accAt s o.tile f.acc i j)
        ((treeSum (Nat.log2 f.kb) ((upto f.kb).map (fun k => some (product32 (elemA s o f pr ta i k) (elemB s o f pr tb k j))))).getD (0, 0)).1).1) ∧
  (∀ (s : State) (o : Op), Claims.Applies s o →
    (o.kind = .mzero →
      Claims.Gives .mzeroApply s (unitDone (setNext (fillAcc s o.tile (accOf o) (fun _ _ => 0)) o.tile (accOf o) (bits (wordA o 0) 16 16)) o)) ∧
    (∀ a, foreignPen s o = some a → let t := unitFail s o causeOwnViol 0 a
      (o.kind = .mlda → Claims.Gives .mldaApply s t) ∧ (o.kind = .etld → Claims.Gives .etldApply s t) ∧
      ∀ bias act rq amx tr, o.kind = .mdrn bias act rq amx tr → Claims.Gives .mdrnApply s t) ∧
    (o.kind = .mlda → foreignPen s o = none → let p := penOf (wordA o 0); let off := offOf (wordA o 0); let s0 := fixPen s o.tile (wordA o 0) 16384
      (penGood s0 o.tile p off 16384 = true → Claims.Gives .mldaApply s (unitDone
        (setNext (fillAcc s0 o.tile (accOf o) (fun i j => penWord s0 o.tile p (off + (i * 64 + j) * 4))) o.tile (accOf o) (bits (wordB o 0) 16 16)) o)) ∧
      (penGood s0 o.tile p off 16384 = false → Claims.Gives .mldaApply s (unitFail s0 o causeMemUe 0 (wordA o 0)))) ∧
    (o.kind = .etld → foreignPen s o = none →
      let p := penOf (wordA o 0); let off := offOf (wordA o 0); let first := bits (wordB o 0) 0 8; let cnt := bits (wordB o 0) 8 9
      let s0 := fixPen s o.tile (wordA o 0) (8 * cnt)
      let s1 := clearIsl s0 o.tile (actWord first) cnt
      (penGood s0 o.tile p off (8 * cnt) = true → Claims.Gives .etldApply s (unitDone { s1 with isl := { s1.isl with
        act := (upto cnt).foldl (fun m q => sset m (o.tile * 256 + first + q)
          (penWord s0 o.tile p (off + 8 * q + 4), penWord s0 o.tile p (off + 8 * q))) s1.isl.act,
        alo := sset s1.isl.alo o.tile (BitVec.ofNat 32 (wordB o 1)), ainv := sset s1.isl.ainv o.tile (BitVec.ofNat 32 (wordB o 2)) } } o)) ∧
      (penGood s0 o.tile p off (8 * cnt) = false → Claims.Gives .etldApply s (unitFail s0 o causeMemUe 0 (wordA o 0)))) ∧
    ∀ bias act rq amx tr, o.kind = .mdrn bias act rq amx tr → let m := bits (wordA o 1) 4 6 + 1; let n := bits (wordA o 1) 10 6 + 1
      let s0 := if bias then fixPen s o.tile (wordA o 5) (4 * n) else s
      (∀ a, foreignPen s o = none → drainError s0 o bias act m n = some a → Claims.Gives .mdrnApply s (unitFail s0 o causeMemUe 0 a)) ∧
      (foreignPen s o = none → drainError s0 o bias act m n = none → let b := fmtWidth (outFmt (bits (wordA o 2) 0 4))
        let str := strideOf (wordA o 4) (if tr then m else n) b
        let acc := fixAcc s0 o.tile (accOf o) m n
        let s1 := (actsRead acc o bias act m n).foldl (fun s q => fixIsl s o.tile (actWord q) 1) acc
        let r := (grid m n).map (fun p => (p, drainElem s1 o bias act rq p.1 p.2))
        let put := fun s (x : (Nat × Nat) × Word × Nat × Astat) => setPenBits s o.tile (penOf (wordA o 0))
          (8 * (offOf (wordA o 0) + (if tr then x.1.2 else x.1.1) * str) + (if tr then x.1.1 else x.1.2) * b) b x.2.2.1
        let s2 := clearDrained (r.foldl put s1) o (if tr then n else m) (if tr then m else n) b str
        let s3 := if amx then drainAmax s2 o (r.map (fun x => some x.2.1)) else s2
        Claims.Gives .mdrnApply s (unitDone (orAstat s3 o.tile o.rank o.ctx (r.foldl (fun acc x => acc ||| x.2.2.2) 0)) o)) ∧
      (act = false → actsRead s o bias act m n = []) ∧
      (∀ q ∈ actsRead s o bias act m n, ∃ i j, i < m ∧ j < n ∧ actRead s o.tile (biased s o bias i j).1 = some q) ∧
      ∀ i j, bias = false → act = false →
        (rq = false → drainElem s o bias act rq i j = (accAt s o.tile (accOf o) i j, (accAt s o.tile (accOf o) i j).toNat, 0)) ∧
        (rq = true → let p := mul32 (accAt s o.tile (accOf o) i j) (BitVec.ofNat 32 (wordA o 3))
          (drainElem s o bias act rq i j).2.1 =
            ((fmtFp (outFmt (bits (wordA o 2) 0 4))).round (drainMode s o i j) (bit (wordA o 2) 7) (num32 p.1)).1)) ∧
  (∀ (s : State) (o : Op) (p : Nat) (h : Rider), Claims.UnitTurn s o → foldBlocked s o = false →
    (∀ a, foreignPen s o = some a → (o.kind = .fold → o.n = 0 → Claims.Gives .foldApply s (unitFail s o causeOwnViol 0 a)) ∧
      (o.kind = .ffin → Claims.Gives .ffinApply s (unitFail s o causeOwnViol 0 a))) ∧
    (foreignPen s o = none → o.kind = .fold → o.n = 1 → o.addr ≤ s.cyc →
      Claims.Gives .foldRetry s (applyFold (setOp s { o with n := 0 }) { o with n := 0 })) ∧
    (foreignPen s o = none → Claims.RiderGood s o p h →
      let s0 := fixPen (fixPen s o.tile p 64) o.tile p (riderBytes h)
      (o.kind = .fold → o.n = 0 →
        (∀ s1 s2 x rp raw, foldEntry s0 o h (wordB o 0) = (s1, .ok (x, rp)) → baleRead s1 x 0 (baleBytes x.sent) = (s2, some raw) →
          Claims.Gives .foldApply s (unitDone (foldRider s2 o h x rp raw) o)) ∧
        (∀ s1 s2 x rp, foldEntry s0 o h (wordB o 0) = (s1, .ok (x, rp)) → baleRead s1 x 0 (baleBytes x.sent) = (s2, none) →
          Claims.Gives .foldApply s (unitFail s2 o causeMemUe 0 (bits x.entry 17 26 * 16384))) ∧
        (∀ s1, foldEntry s0 o h (wordB o 0) = (s1, .error .wait) → Claims.Gives .foldApply s s1) ∧
        (∀ s1, foldEntry s0 o h (wordB o 0) = (s1, .error .retry) → Claims.Gives .foldApply s (setOp s1 { o with n := 1, addr := s1.cyc + 256 })) ∧
        ∀ s1 c d a, foldEntry s0 o h (wordB o 0) = (s1, .error (.fault c d a)) → Claims.Gives .foldApply s (unitFail s1 o c d a)) ∧
      (o.kind = .ffin → Claims.Gives .ffinApply s
        (unitDone (setRider ((upto (riderNq h)).foldl (Claims.finishRow o p h) s0) o.tile p 4 (BitVec.ofNat 32 (h.getD 1 0 ||| 2 ^ 30))) o)))) ∧
  (∀ (s : State) (o : Op), Claims.UnitTurn s o →
    (o.kind = .reinld → let pt := wordB o 0 % 4; let slot := bits (wordB o 0) 2 6; let k := reinKey o.tile pt slot; let c := bridleCfg s o.tile pt
      (∀ r, sget s.rws.reins k = some r → r.asid ≠ o.cx.asid → Claims.Gives .reinldApply s (unitFail s o causeEngine 0x25 (wordA o 0))) ∧
      ((∀ r, sget s.rws.reins k = some r → r.asid = o.cx.asid) →
        (bit (wordB o 0) 8 = true → Claims.Gives .reinldApply s (unitDone { s with rws := { s.rws with reins := sdel s.rws.reins k } } o)) ∧
        (∀ a, bit (wordB o 0) 8 = false → foreignPen s o = some a → Claims.Gives .reinldApply s (unitFail s o causeOwnViol 0 a)) ∧
        ∀ v, bit (wordB o 0) 8 = false → foreignPen s o = none → let s0 := fixPen s o.tile (wordA o 0) (2 * c.len)
          penReach s0 o.tile o.cx.asid (penOf (wordA o 0)) (offOf (wordA o 0)) (2 * c.len) = none →
          penRead s0 o.tile (wordA o 0) (2 * c.len) = some v →
          let s1 := writeRein s0 (o.tile * 2 ^ 20 + c.rb * 16 + slot * 2 * c.len) (2 * c.len) v
          Claims.Gives .reinldApply s (unitDone { s1 with rws := { s1.rws with reins := sset s1.rws.reins k { asid := o.cx.asid, seq := o.cx.seq } } } o))) ∧
    (o.kind = .prbld → let s0 := fixPen s o.tile (wordA o 0) (wordB o 1)
      (∀ a, foreignPen s o = some a → Claims.Gives .prbldApply s (unitFail s o causeOwnViol 0 a)) ∧
      (∀ v, foreignPen s o = none → penRead s0 o.tile (wordA o 0) (wordB o 1) = some v →
        Claims.Gives .prbldApply s (unitDone (writeProbe s0 (o.tile * 2 ^ 18 + wordB o 0 * 16) (wordB o 1) v) o)) ∧
      (foreignPen s o = none → penRead s0 o.tile (wordA o 0) (wordB o 1) = none →
        Claims.Gives .prbldApply s (unitFail s0 o causeMemUe 0 (wordA o 0))))) ∧
  ∀ (s : State) (o : Op) (pt p : Nat), Claims.TileSubject s o → o.kind = .tacc pt p → o.tile = s.occ.a → o.phase = .queued → o.tid = 0 →
    faultRoom s o.tile o.rank o.ctx o.iter = true →
    let s0 := fixPen s o.tile p (4 + 4 * o.w)
    let n := taccNext s0 o p
    (penGood s0 o.tile (penOf p) (offOf p) (4 + 4 * o.w) = false → Claims.Gives .taccApply s (failOp s0 o causeMemUe 0 p)) ∧
    (penGood s0 o.tile (penOf p) (offOf p) (4 + 4 * o.w) = true →
      (o.iter < n → Claims.Gives .taccApply s (raiseOp (dropOp s0 o.id) { o with id := 0 } causeDuptag 0x03 (o.ctx * 2 ^ 16 + o.iter))) ∧
      (n < o.iter → Claims.Gives .taccApply s s0) ∧
      (o.iter = n →
        let s1 := orAstat (taccLanes s0 o (penOf p) (offOf p)) o.tile o.rank o.ctx (taccFlags s0 o (penOf p) (offOf p))
        let s2 := if n = 0xFFFF then s1 else setPenWord s1 o.tile (penOf p) (offOf p) (BitVec.ofNat 32 (n + 1))
        let out := mkLanes (fun l => if l < o.w then some (penWord s2 o.tile (penOf p) (offOf p + 4 + 4 * l)) else none)
        let s3 := emitOp (dropOp s2 o.id) { o with emask := List.replicate 32 true } 13 out (fun h => h)
        Claims.Gives .taccApply s (if n = 0xFFFF then raiseOp s3 { o with id := 0 } causeIterWrap 0 0 else s3)))

/-- R10, R16, R234, R359, R360, R363, R405, R434: a segment joins its row at a unit, and a row with all its segments is processed or faults; an egress token's
words are written at its edge, an ingress edge gives its next token, and each ends at its count. That an edge's fault is its tile's without a frame
(log entry 21), that its addresses are translated at once (log entry 10), and what a token for an ingress entry and iterations above 0xFFFF meet (log
entry 60), are the model's choices. -/
def Obligations.SegmentsAndEdges : Prop :=
  (∀ (s : State) (f : Flight) (unit : Nat), Claims.Comes s f → f.dest.elem = unit + 1 → unit ≤ 1 → f.tok.hdr.can = false →
    let i := if unit = 0 then Instr.normaliserSegment else Instr.bridleSegment
    let s1 := acceptFlight s f
    let h := f.tok.hdr
    let sel := f.dest.slot % 4
    let room := faultRoom s1 f.tile f.rank h.ctx h.iter
    (∀ r, s.rws.rows.find? (fun r => r.id == s.occ.a && r.unit == unit && r.again) = some r → Claims.Gives i s (readmit s r)) ∧
    ((∀ r ∈ s.rws.rows, r.id = s.occ.a → r.unit = unit → r.again = false) →
      (room = false → Claims.Gives i s (refuseFlight s f)) ∧
      (room = true → ∀ r, rowOf s1 unit f.tile f.rank h.ctx h.iter sel = some r →
      (r.held = true ∨ r.again = true ∨ rowComplete r = true ∨ (sget r.segs h.seg).isSome = true → Claims.Gives i s (refuseFlight s f)) ∧
      (r.held = false → r.again = false → rowComplete r = false → sget r.segs h.seg = none →
        let r' := Claims.withSegment r f.tok
        let c := r.conf
        c.en = true →
        (c.len < (h.seg + 1) * (h.wm1 + 1) ∨ r.w ≠ h.wm1 + 1 → Claims.Gives i s (raiseRow (setRow s1 r') r' causeEngine 0x23 sel)) ∧
        ((h.seg + 1) * (h.wm1 + 1) ≤ c.len → r.w = h.wm1 + 1 →
          (rowComplete r' = false → Claims.Gives i s (setRow s1 r')) ∧
          (rowComplete r' = true → (unit = 0 → Claims.Gives i s (finishNorm (setRow s1 r') r')) ∧
            (unit = 1 → Claims.Gives i s (finishBridle (setRow s1 r') r')))))) ∧
      (room = true → rowOf s1 unit f.tile f.rank h.ctx h.iter sel = none → let c := unitCfg s1 unit f.tile sel
        let r := Claims.newRow s1 f unit sel c
        let s2 := Claims.withRow s1 r
        let load := ((s1.rws.rows.filter (fun r => r.unit == unit && r.tile == f.tile && !r.withdrawn)).map (·.len)).sum
        (c.en = true → 16384 < load + c.len → Claims.Gives i s (refuseFlight s f)) ∧
        (c.en = false → Claims.Gives i s (raiseRow s2 r causeEngine 0x24 sel)) ∧
        (c.en = true → load + c.len ≤ 16384 →
          (c.len < (h.seg + 1) * (h.wm1 + 1) → Claims.Gives i s (raiseRow s2 r causeEngine 0x23 sel)) ∧
          ((h.seg + 1) * (h.wm1 + 1) ≤ c.len → (rowComplete r = false → Claims.Gives i s s2) ∧
            (rowComplete r = true → Claims.Gives i s (if unit = 0 then finishNorm s2 r else finishBridle s2 r))))))) ∧
  Claims.RowStatistics ∧ Claims.BridleRows ∧
  (∀ (s : State) (r : Row) (x : List Lanes), x = r.segs.map (·.2.lanes) →
    finishNorm s r = (let z := if r.conf.mode = 0 then softmaxRow x else if r.conf.mode = 1 then rmsRow x r.conf.eps else layerRow x r.conf.eps
      orAstat (releaseRow s r 10 z.1 (fun h => { h with nrm := true })) r.tile r.rank r.ctx z.2)) ∧
  (∀ (s : State) (f : Flight) (l : Launch) (e : Nat), Claims.Comes s f → f.dest.elem = 5 → f.tok.hdr.can = false →
    sget s.sch.launches (sgetD s.tab.owner f.tile 4096) = some l → l.edges[f.dest.slot % 64]? = some e →
    let h := f.tok.hdr
    (e / 2 ^ 31 % 2 = 1 → Claims.Gives .edgeEgressWrite s (count (acceptFlight s f) 4 f.tile)) ∧
    (e / 2 ^ 31 % 2 = 0 → bits e 40 24 ≤ h.iter → Claims.Gives .edgeEgressWrite s
      { acceptFlight s f with sch := { s.sch with launches := sset s.sch.launches (sgetD s.tab.owner f.tile 4096) { l with edrop := l.edrop + 1 } } }) ∧
    (e / 2 ^ 31 % 2 = 0 → h.iter < bits e 40 24 → pendingCount s f.tile < 1024 →
      Claims.Gives .edgeEgressWrite s (egressWords (acceptFlight s f) f.tile l.asid (bits e 72 56 + 4 * (h.iter * bits e 32 8))
        (Claims.edgeLanes f.tok.lanes (bits e 32 8))))) ∧
  (∀ (s s1 : State) (tile asid base k : Nat) (v : Word) (rest : List (Nat × Word)), egressWords s tile asid base [] = s ∧
    (∀ p, edgePhys s tile asid (base + 4 * k) true = (s1, .ok p) →
      (p.mt = 0 → egressWords s tile asid base ((k, v) :: rest) = egressWords (homeWrite s1 p.enc p.pa 4 v.toNat) tile asid base rest) ∧
      (p.mt = 2 → egressWords s tile asid base ((k, v) :: rest) = egressWords (deviceWrite s1 p.pa v.toNat) tile asid base rest)) ∧
    (∀ c d, edgePhys s tile asid (base + 4 * k) true = (s1, .error (c, d)) →
      egressWords s tile asid base ((k, v) :: rest) = frameless s1 tile c d (base + 4 * k)) ∧
    ∀ wr va, (2 ^ 56 ≤ va → edgePhys s tile asid va wr = (s, .error (causeAccess, 0x01))) ∧
      (va < 2 ^ 56 → va % 4 ≠ 0 → edgePhys s tile asid va wr = (s, .error (causeAlign, 0))) ∧
      (va < 2 ^ 56 → va % 4 = 0 → edgePhys s tile asid va wr = xlateNow s tile asid va (edgeWant wr))) ∧
  ∀ (s : State) (l : Launch) (i id c e : Nat), sget s.sch.launches s.occ.a = some l → l.st = .running →
    l.ingress.find? (·.1 == s.occ.b) = some (s.occ.b, i, id, c) → l.edges[s.occ.b]? = some e → (∀ x ∈ s.net.outs, x.id ≠ id) →
    pendingCount s (originTile l) < 1024 →
    let q := s.occ.a
    let n := s.occ.b
    let others := l.ingress.filter (fun x => x.1 != n)
    let put := fun (s : State) rest => { s with sch := { s.sch with launches := sset s.sch.launches q { l with ingress := rest } } }
    let base := bits e 72 56 + 4 * (i * bits e 32 8)
    (bits e 40 24 ≤ i → Claims.Gives .edgeIngressInject s (put s others)) ∧
    (i < bits e 40 24 → ∀ s1,
      (∀ ws, edgeRead s (originTile l) l.asid base (bits e 32 8) id = (s1, .words ws) → let d := edgeDest e
        Claims.Gives .edgeIngressInject s (addOut (put s1 (others ++ [(n, i + 1, s1.nextId, c)])) (originTile l) 14
          { hdr := plainHeader c i (bits e 32 8) d.slot, lanes := lanesOf ws } [d])) ∧
      (∀ k d a, edgeRead s (originTile l) l.asid base (bits e 32 8) id = (s1, .fault k d a) →
        Claims.Gives .edgeIngressInject s (frameless (put s1 others) (originTile l) k d a)) ∧
      (∀ j, edgeRead s (originTile l) l.asid base (bits e 32 8) id = (s1, .asked j) →
        Claims.Gives .edgeIngressInject s (put s1 (others ++ [(n, i, j, c)]))) ∧
      (opById s id = none → ∀ s2 ls ws, ingressLanes s (originTile l) l.asid base (bits e 32 8) = (s1, .ok ls) →
        (∀ x ∈ ls, ∀ p, x.phys = some p → p.mt ≠ 1) → ingressWords s1 ls = (s2, .ok ws) →
        edgeRead s (originTile l) l.asid base (bits e 32 8) id = (s2, .words ws)))

/-- R111, R165 to R168, R262, R385 to R399, R405, R414, R417 to R420, R422, R443: records are taken in one in a cycle, age, are granted and end; a launch's place changes by a shrink,
a full save and a resume.
That the saved state comes from the launch's record, the gait in the notices and the check of every header at a resume are the model's choices (log
entries 19, 43, 47). -/
def Obligations.LaunchesComeAndGo : Prop :=
  Claims.ChangesBegin ∧ Claims.StatesSaved ∧ Claims.StatesRestored ∧ Claims.ChangesEnd ∧
  (∀ (s : State) (o : Op), Claims.HandsOver s o → let s0 := writeBackAll s o.tile
    (∀ q, freeIndex s0 = some q → admitOpen s0 = true → emitRoom s0 o (statusLanes o.w [0, 0]) = true →
      let w : Issuer := { asid := o.cx.asid, bound := !(o.cx.asid == 0), cls := (sget s0.sch.launches o.cx.q).elim 0 (·.cls0), host := none, user := false }
      ∀ s1 c n, takeRecord s0 w (wordA o 0 + wordA o 1 % 2 ^ 24 * 2 ^ 32) q = (s1, c, n) →
        Claims.Gives .launchIntake s
          (emitOp (dropOp s1 o.id) o o.elem (statusLanes o.w [BitVec.ofNat 32 c, BitVec.ofNat 32 n]) (fun h => h))) ∧
    (freeIndex s0 = none ∨ admitOpen s0 = false ∨ emitRoom s0 o (statusLanes o.w [0, 0]) = false → Claims.Gives .launchIntake s s0)) ∧
  (∀ (s : State) (hd : Stt) (k qp rva q : Nat), s.occ.a = 0 → s.sch.intake[s.occ.b]? = some (k, .launch qp hd rva) → freeIndex s = some q →
    let p := sgetD s.host.qps qp { port := 0, admin := false, asid := 0, err := true }
    let w : Issuer := { asid := p.asid, bound := false, cls := 0, host := some (qp, hd), user := !p.admin }
    ((∀ m ∈ s.sch.intake.take s.occ.b, msgQp m.2 ≠ qp) → admitOpen s = true → Claims.Gives .launchIntake s
      (takeRecord { s with sch := { s.sch with intake := s.sch.intake.erase (k, .launch qp hd rva) } } w rva q).1) ∧
    ((∃ m ∈ s.sch.intake.take s.occ.b, msgQp m.2 = qp) ∨ admitOpen s = false → Claims.Gives .launchIntake s s)) ∧
  (∀ (s s1 : State) (w : Issuer) (va q : Nat) (ws : List Word),
    let s0 := { s with sch := { s.sch with intakeAt := s.cyc + 1 } }
    (∀ inits secs, readLaunch s0 w va = (s1, ws, .ok (inits, secs)) →
      let t := (takeRecord s w va q).1
      (takeRecord s w va q).2 = (0, q) ∧ ∃ l, sget t.sch.launches q = some l ∧ l.st = .waiting ∧ l.words = ws ∧ l.inits = inits ∧
        l.asid = recField ws 320 16 ∧ l.cls = max (recField ws 342 2) w.cls ∧ l.stamp = s1.cyc ∧ l.wd = 2 ^ recField ws 336 3 ∧
        l.ht = heightOf (recField ws 339 3) ∧ l.prog = seqOf secs ∧ l.pc = 0 ∧ l.npre = 0 ∧ l.edrop = 0) ∧
    ∀ c, readLaunch s0 w va = (s1, ws, .error c) → (takeRecord s w va q).2 = (c, 0xFFF) ∧ (takeRecord s w va q).1 = answerAny
      (if ws = [] then s1 else putCompletion s1 w.asid (recField ws 128 56) (completionBytes 0 c 0xFFF 0 0 0 s1.cyc)) w.host 3 c []) ∧
  (∀ (s : State) (l : Launch), Claims.TheLaunch s l → let q := s.occ.a
    (l.st = .waiting ∨ l.st = .saved ∨ l.grow.isSome = true →
      (0 < l.cls → l.since + 2 ^ 20 ≤ s.cyc → Claims.Gives .launchRecordAging s (setLaunch s q { l with cls := l.cls - 1, since := s.cyc })) ∧
      (l.cls = 0 ∨ s.cyc < l.since + 2 ^ 20 → Claims.Gives .launchRecordAging s s)) ∧
    (0 < l.runs → l.placed = true → (∀ x ∈ s.ctxs, x.2.q ≠ q) →
      let s1 := (dedup ((launchTiles s q).map (·.2.1))).foldl writeBackAll s
      ((∀ o ∈ s1.ops, isStore o.kind = true → o.cx.q ≠ q) → Claims.Gives .runBarrierReached s (setLaunch s1 q { l with runs := 0 })) ∧
      ((∃ o ∈ s1.ops, isStore o.kind = true ∧ o.cx.q = q) → Claims.Gives .runBarrierReached s s1)) ∧
    (l.ended = true → l.placed = true → l.st ≠ .ending → (∀ x ∈ s.ctxs, x.2.q ≠ q) →
      let bs := completionBytes l.code l.cause q l.edrop l.npre l.tgrant s.cyc
      let s0 := putCompletion s l.asid (l.field 128 56) bs
      let s1 := answerAny (if l.argDone = true ∨ l.field 256 23 = 0 then s0 else answerAny s0 l.host 1 q []) l.host 2 q bs
      let mine := (s1.tab.owner.filter (·.2 == q)).map (·.1)
      let asked := l.ingress.map (fun x => x.2.2.1)
      let s2 := { s1 with
        frm := { s1.frm with frozen := s1.frm.frozen.filter (fun t => !mine.contains t) },
        ops := s1.ops.filter (fun o => !(o.elem == 14 && asked.contains o.id)) }
      Claims.Gives .launchEnd s (settleTokens (retireIndex s2 q { l with st := .ending, aim := none, grow := none, ingress := [] })))) ∧
  (∀ (s : State) (q : Nat) (l : Launch), q < 4096 → sget (retireIndex s q l).sch.launches q = none ∧
    (∀ t, sget s.tab.owner t = some q → sget (retireIndex s q l).tab.owner t = some (8192 + s.nextId)) ∧
    ∀ t k, k ≠ q → sget s.tab.owner t = some k → sget (retireIndex s q l).tab.owner t = some k) ∧
  (∀ (s : State) (q : Nat) (l : Launch), sget s.tab.owner s.occ.a = some q → sget s.sch.launches q = some l →
    tileGivenUp l s.occ.a = true → (sget s.sch.busy s.occ.a).isNone = true → tileEmpty s s.occ.a = true →
    loftHeld s s.occ.a = false → let t := Claims.freedTile s s.occ.a
    ((∃ p ∈ t.tab.owner, p.2 = q) ∨ l.st ≠ .ending → Claims.Gives .tileFree s t) ∧
    ((∀ p ∈ t.tab.owner, p.2 ≠ q) → l.st = .ending → Claims.Gives .tileFree s (dropLaunch t q))) ∧
  (∀ (s : State), ∃ word busy,
    Claims.Gives .quadrantReport s { s with sch := { s.sch with reports := sset s.sch.reports s.occ.a word, busy := busy } } ∧
    let present := (quadTiles s.occ.a).filter (tilePresent s)
    let calm := if sgetD s.dev.qcur s.occ.a 0 = 2 then [] else present.filter (tileEmpty s)
    (calm.length < 2 ^ 7 → word % 2 ^ 7 = calm.length) ∧
    (∀ t, t ∈ present → ((sget busy t).isSome ↔ t ∉ calm)) ∧
    (∀ t, quadOf t ≠ s.occ.a → sget busy t = sget s.sch.busy t)) ∧
  (∀ (s : State), s.dev.up = false ∨ s.dev.p3 = true → Claims.Gives .allocationPass s s) ∧
  (∀ (s : State), s.dev.up = true → s.dev.p3 = false →
    (waitingRecords s = [] → Claims.Gives .allocationPass s { s with sch := { s.sch with reserve := [] } }) ∧
    ∀ q l, Claims.Head s q l → grantable s l [] = none →
      let res := reservation s l
      let t := grantLater q res { s with sch := { s.sch with reserve := res } }
      (victimOf t l.cls res = none → Claims.Gives .allocationPass s t) ∧
      ∀ v, victimOf t l.cls res = some v → Claims.Gives .allocationPass s (preempt t v.1 v.2 res)) ∧
  (∀ (s : State) (q : Nat) (l : Launch) (o : Nat × Nat) (p f : Nat), Claims.Head s q l → l.st = .waiting → grantable s l [] = some (o, p) →
    let ts := rectTiles o.1 o.2 l.wd l.ht
    let s1 := ownAll s q ts
    grantHeads (f + 1) s = grantHeads f (setLaunch { s1 with tab := { s1.tab with
        ltiles := ts.foldl (fun m t => sset m t [(t / 16 - o.2) * 16 + (t % 16 - o.1)]) s1.tab.ltiles } } q (Claims.firstGrant s l o p))) ∧
  (∀ (s : State) (q : Nat) (l : Launch) (r : List (Nat × Launch)), waitingRecords s = (q, l) :: r →
    (q, l) ∈ s.sch.launches ∧ ∀ x ∈ r, ¬ Claims.Precedes x (q, l)) ∧
  (∀ (s : State) (q gt dx dy : Nat) (l : Launch), sget s.sch.launches q = some l →
    (l.st = .running → l.aim = none → l.ended = false → shrinkFits l gt dx dy = true → Claims.Gives (.regionShrink q gt dx dy) s
      (beginChange s q l .shrinking (some { gait := gt, x := l.gx + dx, y := l.gy + dy, bySeq := false }))) ∧
    (l.st = .running → l.aim = none → shrinkFits l gt dx dy = false → Claims.Gives (.regionShrink q gt dx dy) s s) ∧
    (l.st = .shrinking → l.aim ≠ none → quiesced s q l = false → Claims.Gives (.regionShrink q gt dx dy) s s) ∧
    ∀ b, l.st = .shrinking → l.aim = some { gait := gt, x := l.gx + dx, y := l.gy + dy, bySeq := b } → quiesced s q l = true →
      saveRoom s l = true → loftsGone s l { gait := gt, x := l.gx + dx, y := l.gy + dy, bySeq := b } = true →
      Claims.Gives (.regionShrink q gt dx dy) s (finishChange s q l { gait := gt, x := l.gx + dx, y := l.gy + dy, bySeq := b })) ∧
  (∀ (s : State) (l : Launch), Claims.TheLaunch s l → l.st = .saving → let q := s.occ.a
    (quiesced s q l = false → Claims.Gives .fullSave s s) ∧
    (quiesced s q l = true → saveRoom s l = true → (∀ t ∈ heldTiles l, loftHeld s t = false) → ∀ s1 xs, takeSave s q l = (s1, xs) →
      let s2 := keepAtEngines (moveOffers (forgetTables (vacate s1 q (heldTiles l)) (heldTiles l)) q 512) xs
      let park := fun (x : Nat × Ctx) => if x.2.q = q ∧ x.2.st = .live then (x.1, { x.2 with st := .parked }) else x
      Claims.Gives .fullSave s (setLaunch { s2 with ctxs := s2.ctxs.map park } q
        { l with st := .saved, aim := none, stamp := s2.cyc, since := s2.cyc, cls := l.cls0, npre := l.npre + 1,
                 saved := xs.map (fun x => { x with ops := x.ops.filter (fun o => !atEngine o) }), savedAt := s.fresh }))) ∧
  ∀ (s0 : State) (l : Launch), Claims.TheLaunch s0 l → l.st = .resuming → (∀ t ∈ heldTiles l, pendingCount s0 t < 1024) → let q := s0.occ.a
    let s := readHeaders s0 l
    (∀ c, savedFault s l = some c → (c = causeMemUe ∨ c = causeCfg) ∧ Claims.Gives .resume s0 (failResume s q l c)) ∧
    (∀ a h, a ∈ savedHeaders l.savedAt l.saved.length → homeRead s 0 a 16 = some h → h % 256 = 0 ∨ 14 < h % 256 → savedFault s l ≠ none) ∧
    (∀ s1 c, savedFault s l = none → readImage s (originTile l) l.asid (l.field 0 56) = (s1, .error c) → Claims.Gives .resume s0 (failResume s1 q l c)) ∧
    ∀ s1 bs, savedFault s l = none → readImage s (originTile l) l.asid (l.field 0 56) = (s1, .ok bs) → let secs := (sectionsOf bs).getD []
      (placeFor s1 l secs [] l.gait l.gx l.gy = none → Claims.Gives .resume s0 (failResume s1 q l causeCfg)) ∧
      ∀ p, placeFor s1 l secs [] l.gait l.gx l.gy = some p →
        let live := { l with st := .running, route := p.route, granted := s1.cyc, commitAt := s1.cyc }
        let s2 := restoreAll (setLaunch s1 q live) l.asid l.gait [] (penDataOf secs) l.saved p.hosts
        let s3 := moveOffers (backFromEngines s2 q) q (originTile l)
        let wake := fun (x : Nat × Ctx) => if x.2.q = q ∧ x.2.st = .parked then (x.1, { x.2 with st := .live }) else x
        Claims.Gives .resume s0 (unfreeze (sendNotices { s3 with ctxs := s3.ctxs.map wake } q live 2 live.gait) (heldTiles live))

/-- R95, R377, R382, R403, R412, R436, R447, R449 to R454, R459: start-up and recovery, the power states of the package and of its quadrants, the
governor, MRL links, the management port and the device registers.
That the reserved bits of SEQTB, SEQTN, PARKB and PKGID are not kept, that scheduler and frames are lost in P3, and that S7 with failed planes or ports
is not a failure are the model's choices (log entries 31, 36, 55), and so is that a recovery image's bytes are taken whatever their errors (log
entry 54). The status 1 of a refused SET_PLIMIT and the governor's giving back the admission cap before CLKF rises are the model's inference, in no
rule (log entry 75). The verdict on a signature and what firmware chooses are free values (log entries 16, 17). -/
def Obligations.PowerAndDeviceStateChange : Prop :=
  (∀ s : State, (s.dev.up = false → s.dev.p3 = false → s.host.recovery = false → Claims.Gives .startup s (startFromS0 s)) ∧
    (s.dev.up = true ∨ s.dev.p3 = true ∨ s.host.recovery = true → Claims.Gives .startup s s) ∧
    (s.health.rom = false → startFromS0 s = setBoot s 0 (bootEntry (inputsOf s 0) 1 2)) ∧
    (2 ≤ s.health.clocks → startFromS2 s = setBoot s 2 (bootEntry (inputsOf s 2) 2 2)) ∧
    (s.health.rom = true → s.health.fuses = false → s.dev.bootrec.length = 11 →
      (startFromS0 s).dev.up = s.dev.up ∧ (startFromS0 s).dev.bootrec.getD 1 0 = bootEntry (inputsOf s 1) 1 2) ∧
    (s.health.image = true → (stepS8 s).dev.up = s.health.measured ∧ (stepS8 s).dev.pv = true ∧ (stepS8 s).dev.parkb = Config.firmwareParkBase) ∧
    (s.health.image = false → recoveryBase s ≠ none → (stepS8 s).dev.up = s.dev.up ∧ (stepS8 s).host.recovery = true) ∧
    (s.health.image = false → recoveryBase s = none → (stepS8 s).dev.up = s.dev.up ∧ (stepS8 s).host.recovery = s.host.recovery) ∧
    (∀ q, recoveryBase s = some (q * (3 * 48 * 2 ^ 30)) → q ∈ s.dev.quads ∧ ∀ k ∈ s.dev.quads, k < q → stacksOf s k = []) ∧
    (stepS7 s).dev.planesDown = s.health.linksDown ∧ (stepS7 s).dev.portsDown = s.health.portsDown ∧ (stepS7 s).dev.idv = true ∧
    (stepS7 s).dev.pkgid = Config.firmwarePackage ∧
    (∀ n, n < 36 → sgetD (stepS7 s).dev.keyEpoch n 0 = sgetD s.dev.keyEpoch n 0 + 1) ∧
    ∀ n, n < 9 → sgetD (stepS7 s).dev.portKeys n 0 = sgetD s.dev.portKeys n 0 + 1) ∧
  (∀ (s : State) (qp : Nat) (hd : BitVec 192) (sent len a : Nat) (p : Qp), s.host.recovery = true → qpOf s qp = some p →
    recoveryBase s = some a → let i := Instr.recoveryImage qp hd sent len
    (¬ Claims.Fits sent → Claims.Gives i s (Claims.nakked s qp)) ∧
    (Claims.Fits sent → ¬ Claims.Framed hd sent 3 → Claims.Gives i s (Claims.answered s qp hd sent 3 0x18)) ∧
    (Claims.WellSent hd sent 3 →
      (len ≤ 2 ^ 28 → Config.signatureGood s.fresh = true → let c := coldState (correctAt s a len).tick
        Claims.Gives i s (startFromS0
          { c with dev := { c.dev with flash := bytesOf len (homeBytes s 0 a len) }, health := { c.health with image := true } })) ∧
      (2 ^ 28 < len → Claims.Gives i s (Claims.answered s qp hd sent 4 0x18)) ∧
      (len ≤ 2 ^ 28 → Config.signatureGood s.fresh = false → Claims.Gives i s (Claims.answered (correctAt s a len).tick qp hd sent 4 0x18)))) ∧
  (∀ s : State, (s.dev.p3 = true → Claims.Gives .setPowerP3 s (manage s [0])) ∧
    (s.dev.p3 = false → (∃ p ∈ s.sch.launches, p.2.st ≠ .waiting ∧ p.2.st ≠ .saved) → Claims.Gives .setPowerP3 s (manage s [1])) ∧
    (s.dev.p3 = false → (∀ p ∈ s.sch.launches, p.2.st = .waiting ∨ p.2.st = .saved) → ∃ t, Claims.Gives .setPowerP3 s t ∧ t.dev.p3 = true ∧
      t.mem.dram = s.mem.dram ∧ t.mem.sram = [] ∧ t.frm = State.reset.frm ∧ t.sch = State.reset.sch ∧ t.dev.bootrec = s.dev.bootrec ∧
      t.dev.level = defaultLevel s.dev.life ∧ t.host.replies = s.host.replies ++ [.management [0]]) ∧
    (s.dev.p3 = true → Claims.Gives .setPowerP0 s (startFromS2 (manage { s with dev := { s.dev with p3 := false } } [0]))) ∧
    (s.dev.p3 = false → Claims.Gives .setPowerP0 s (manage s [0])) ∧
    (∃ t, Claims.Gives .powerLoss s t ∧ t.dev.bootrec = s.dev.bootrec ∧ t.dev.flash = s.dev.flash ∧ t.dev.up = false ∧ t.mem = Mem.empty ∧
      t.agenda = [.event .startup ⟨0, 0, 0⟩] ∧ t.frm = State.reset.frm ∧ t.ctxs = [] ∧ t.ops = []) ∧
    Claims.Gives .getBootrec s (manage s ((s.dev.bootrec.map (fun e => [e.setWidth 32, BitVec.ofNat 32 (e.toNat / 2 ^ 32)])).flatten)) ∧
    Claims.Gives .getTelemetry s { s with
      fresh := s.fresh + 1
      host := { s.host with replies := s.host.replies ++ [.telemetry s.dev.clkf s.tele s.dev.planesDown s.dev.portsDown
        ((upto (Config.responseLen s.fresh % 4096)).map (Config.responseWord s.fresh))] } }) ∧
  (∀ (s : State) (w : Nat),
    (w % 25 = 0 → w ≤ 3000 → 1500 ≤ w → Claims.Gives (.setPlimit w) s (manage { s with dev := { s.dev with limit := w } } [0])) ∧
    (w % 25 ≠ 0 ∨ 3000 < w ∨ w < 1000 → Claims.Gives (.setPlimit w) s (manage s [1])) ∧
    (s.cyc % 1650 = 0 → s.dev.p3 = false →
      (s.dev.limit < w → 1 < s.dev.clkf → Claims.Gives (.governorMeasure w) s { s with dev := { s.dev with clkf := s.dev.clkf - 1 } }) ∧
      (s.dev.limit < w → s.dev.clkf ≤ 1 →
        Claims.Gives (.governorMeasure w) s { s with dev := { s.dev with admitCap := max 1 (s.dev.admitCap - 1) } }) ∧
      (w + 50 ≤ s.dev.limit → 32 ≤ s.dev.admitCap →
        Claims.Gives (.governorMeasure w) s { s with dev := { s.dev with clkf := min 32 (s.dev.clkf + 1) } }) ∧
      (w + 50 ≤ s.dev.limit → s.dev.admitCap < 32 →
        Claims.Gives (.governorMeasure w) s { s with dev := { s.dev with admitCap := s.dev.admitCap + 1 } }) ∧
      (w ≤ s.dev.limit → s.dev.limit < w + 50 → Claims.Gives (.governorMeasure w) s s)) ∧
    (s.cyc % 1650 ≠ 0 → Claims.Gives (.governorMeasure w) s s) ∧
    (w ∉ s.dev.planesDown → Claims.Gives (.mrlPlaneDown w) s { s with dev := { s.dev with planesDown := s.dev.planesDown ++ [w] } }) ∧
    (w ∈ s.dev.planesDown → Claims.Gives (.mrlPlaneDown w) s s) ∧
    Claims.Gives (.mrlPlaneUp w) s { s with dev := { s.dev with planesDown := s.dev.planesDown.filter (· != w) } } ∧
    Claims.Gives (.mrlKeyChange w) s
      { s with dev := { s.dev with keyEpoch := sset s.dev.keyEpoch w ((sget s.dev.keyEpoch w).getD 0 + 1) } }) ∧
  (∀ s : State, let quad := s.occ.a
    (∃ t, Claims.Gives .qreqP0 s t ∧ t.dev.qreq = sset s.dev.qreq quad 0 ∧ t.dev.qcur = sset s.dev.qcur quad 0 ∧
      ∀ n ∈ quadTiles quad, sget t.dev.gated n ≠ some 0) ∧
    (∃ t, Claims.Gives .qreqP1 s t ∧ t.dev.qreq = sset s.dev.qreq quad 1 ∧ t.dev.qcur = sset s.dev.qcur quad 1) ∧
    Claims.Gives .qreqP2 s { s with dev := { s.dev with qreq := sset s.dev.qreq quad 2 } } ∧
    (sget s.dev.qreq quad = some 2 → sget s.dev.qcur quad ≠ some 2 → Claims.QuadrantQuiet s quad →
      Claims.Gives .quadrantEnterP2 s { s with dev := { s.dev with qcur := sset s.dev.qcur quad 2 } }) ∧
    (¬ Claims.QuadrantQuiet s quad → Claims.Gives .quadrantEnterP2 s s) ∧
    (sget s.dev.qcur quad = some 2 → aimedAt s quad = true → Claims.Gives .quadrantWake s (setQreq s quad 0)) ∧
    (aimedAt s quad = false → Claims.Gives .quadrantWake s s)) ∧
  (∀ s : State, let tile := s.occ.a
    (sget s.dev.gated tile = some 0 → stirred s tile = true →
      Claims.Gives .tileClockWake s { s with dev := { s.dev with gated := sdel s.dev.gated tile } }) ∧
    (stirred s tile = false → Claims.Gives .tileClockWake s s) ∧
    Claims.Gives .gerrClear s (setTileReg s tile 14 (tileReg s tile 14 &&& 0x7FFFFFFF)) ∧
    Claims.Gives .svecWrite s (setTileReg s tile 7 (BitVec.ofNat 32 s.occ.b &&& 0x800007FF)) ∧
    ∀ o, s.ops.find? (fun o => o.tile == tile && isIdle o) = some o →
      let rests := tileResting s tile = true ∧ ∀ p ∈ s.ops, p.tile = tile → isEngine p.kind = true → stopped p = true
      let room := emitFits s o (statusLanes o.w [0]) = true
      let faults := faultsAt s tile
      let wakes := arrives s tile = true ∨ o.n < faults
      (o.phase = .queued → rests → Claims.Gives .idleRestart s (gate1 (setOp s { o with phase := .active, n := faults }) tile o.id)) ∧
      (o.phase ≠ .queued → wakes → room →
        Claims.Gives .idleRestart s (emitOp (ungate (dropOp s o.id) tile) o 13 (statusLanes o.w [0]) (fun h => h))) ∧
      (o.phase ≠ .queued → ¬ wakes → Claims.Gives .idleRestart s (setOp s { o with n := faults })) ∧
      (o.phase = .queued ∧ ¬ rests ∨ o.phase ≠ .queued ∧ wakes ∧ ¬ room → Claims.Gives .idleRestart s s)) ∧
  (∀ (s : State) (tile : Nat),
    faultsAt s tile = (s.flt.pending.filter (·.tile == tile)).length + (sgetD s.flt.supq tile []).length ∧
    ((∃ f ∈ s.net.mesh, f.tile = tile) ∨ (∃ r ∈ s.frm.ready, r.tile = tile) → arrives s tile = true) ∧
    ((∀ f ∈ s.net.mesh, f.tile ≠ tile) → (∀ r ∈ s.frm.ready, r.tile ≠ tile) →
      (∀ p ∈ s.tab.troughs, p.1 / 64 = tile → p.2.waiters = []) → arrives s tile = false) ∧
    ((∃ p ∈ s.flt.pending, quadOf p.tile = quadOf tile ∧ p.fr.cause ∈ [causePreempt, causeSeqOrder, causeWatchdog]) ∨
      (∃ r ∈ s.syn.remotes, quadOf r.tile = quadOf tile) → aimedAt s (quadOf tile) = true)) ∧
  ∀ (s : State) (pa v : Nat), (pa = Claims.devicePa s → v = s.occ.b → Claims.Gives .deviceRegisterWrite s (setDevice64 s pa v)) ∧
    let r := (pa - 0x018000000000) / 8 * 8
    (r = 0x1000 → setDevice64 s pa v = { s with dev := { s.dev with seqtb := BitVec.ofNat 40 (v / 2 ^ 12) } }) ∧
    (r = 0x1008 → setDevice64 s pa v = { s with dev := { s.dev with seqtn := BitVec.ofNat 21 v } }) ∧
    (r = 0x2000 → setDevice64 s pa v = { s with dev := { s.dev with parkb := BitVec.ofNat 28 (v / 2 ^ 24), pv := bit v 0 } }) ∧
    (r = 0x3000 → setDevice64 s pa v = { s with dev := { s.dev with pkgid := BitVec.ofNat 10 v, idv := bit v 10 } }) ∧
    (0x4000 ≤ r → setDevice64 s pa v = s)

/-- R398, R425, R437 to R444, R455 to R458: the host sets up queue pairs, reads and writes remote memory, sends launches, tokens and CTRL
operations, and asks the security processor.
That CTRL FWD has no target while tile 0 is fused off, and that HALT, PREEMPT and FWD wait where there is no room, are the model's choices (log
entries 27, 46), and so are the NAK that answers a SEND outside its bounds, the status 2 of a debug unlock whose signature fails, and the split of
more than 32 words of a FWD into two tokens (log entries 66, 76, 77). The verdict on a signature is a free value (log entry 16). -/
def Obligations.HostRequestsAreServed : Prop :=
  (∀ (s : State) (qp port : Nat) (user : Option Nat), s.dev.up = true → s.dev.p3 = false → qp < 1024 → qp ≠ 1 →
    (∀ a, user = some a → a < 2 ^ 16) → port < 9 → port ∉ s.dev.portsDown →
    ((∀ p, Claims.InForce s qp p → p.port = port) → Claims.Gives (.connectionManager qp user port) s { s with host := { s.host with
      qps := sset s.host.qps qp { port := port, admin := user.isNone, asid := user.getD 0, err := false } } }) ∧
    ∀ p, Claims.InForce s qp p → p.port ≠ port → Claims.Gives (.connectionManager qp user port) s s) ∧
  (∀ (s : State) (qp rkey va len : Nat) (data : List (BitVec 8)) (p : Qp), sget s.host.qps qp = some p → p.err = false →
    p.port ∉ s.dev.portsDown →
    Claims.Gives (.rdmaInvalidRequest qp) s { s with host := { s.host with replies := s.host.replies ++ [.nak qp true] } } ∧
    (requestRegion s p rkey va data.length true = none → Claims.Gives (.rdmaWrite qp rkey va data) s (refuseAccess s qp)) ∧
    (requestRegion s p rkey va len false = none → Claims.Gives (.rdmaRead qp rkey va len) s (refuseAccess s qp)) ∧
    ∀ r, s.dev.up = true → s.dev.p3 = false →
      (requestRegion s p rkey va data.length true = some r → s.host.recovery = false →
        (∀ s1, writeVa s 0 r.asid va data (r.asid != 0) = (s1, none) → Claims.Gives (.rdmaWrite qp rkey va data) s s1) ∧
        ∀ s1 e, writeVa s 0 r.asid va data (r.asid != 0) = (s1, some e) → let t := walkVa s 0 r.asid va data.length { imageWant (r.asid != 0) false with wr := true }
          Claims.Gives (.rdmaWrite qp rkey va data) s (refuseAccess t qp)) ∧
      (requestRegion s p rkey va len false = some r →
        (∀ s1 bs, readVa s 0 r.asid va len (imageWant (r.asid != 0) false) = (s1, .ok bs) →
          Claims.Gives (.rdmaRead qp rkey va len) s { s1 with host := { s1.host with replies := s1.host.replies ++ [.readData qp bs] } }) ∧
        ∀ s1 e, readVa s 0 r.asid va len (imageWant (r.asid != 0) false) = (s1, .error e) →
          Claims.Gives (.rdmaRead qp rkey va len) s (refuseAccess s1 qp))) ∧
  (∀ (s : State) (p : Qp) (rkey va len : Nat) (wr : Bool) (r : Region), requestRegion s p rkey va len wr = some r →
    r.v = true ∧ bits rkey 12 12 = 0 ∧ rkey / 2 ^ 24 = r.gen ∧ (p.admin = true ∨ r.asid = p.asid) ∧ r.va ≤ va ∧ va + len ≤ r.va + r.len ∧
      (wr = true → r.wr = true) ∧ (wr = false → r.rd = true)) ∧
  (∀ (s : State) (qp : Nat) (hd : BitVec 192) (sent kind val : Nat), let rkey := hd.toNat / 2 ^ 128 % 2 ^ 32
    (rkey ≠ 0 → Claims.answered s qp hd sent kind val = { s with host := { s.host with replies := s.host.replies ++
      [.completion qp kind val (hd.toNat / 2 ^ 32 % 2 ^ 16) (hd.toNat / 2 ^ 64 % 2 ^ 64) rkey []] } }) ∧
    (rkey = 0 → Claims.answered s qp hd sent kind val = s)) ∧
  (∀ (s : State) (qp : Nat) (hd : BitVec 192) (sent typ : Nat) (i : Instr) (p : Qp), Claims.Message qp hd sent typ i →
    (Claims.InForce s qp p → ¬ Claims.Fits sent → Claims.Gives i s (Claims.nakked s qp)) ∧
    (Claims.TakenOn s qp p → Claims.Fits sent → ¬ Claims.Framed hd sent typ → Claims.Gives i s (Claims.answered s qp hd sent 3 0x18)) ∧
    (Claims.InForce s qp p → Claims.Fits sent → Claims.Busy s qp ∨ (∃ w ∈ s.host.waits, w.1 = qp) →
      (s.occ.c ≠ 1 ∨ (qp, i) ∉ s.host.waits → Claims.Gives i s (Claims.waiting s qp i)) ∧
      (s.occ.c = 1 → (qp, i) ∈ s.host.waits → Claims.Busy s qp ∨ s.host.waits.find? (·.1 == qp) ≠ some (qp, i) → Claims.Gives i s s))) ∧
  (∀ (s : State) (qp : Nat) (hd : BitVec 192) (sent rva : Nat) (words : List Word) (p : Qp), Claims.TakenOn s qp p →
    (¬ Claims.Fits sent → Claims.Gives (.sttDiscard qp hd sent) s (Claims.nakked s qp)) ∧
    (Claims.Fits sent → (∀ typ, 1 ≤ typ → typ ≤ 4 → ¬ Claims.Framed hd sent typ) → Claims.Gives (.sttDiscard qp hd sent) s (Claims.answered s qp hd sent 3 0x18)) ∧
    (Claims.WellSent hd sent 1 →
      (2 ^ 56 ≤ rva → Claims.Gives (.sttLaunch qp hd sent rva) s (Claims.answered s qp hd sent 3 0x18)) ∧
      (rva < 2 ^ 56 → Claims.Gives (.sttLaunch qp hd sent rva) s { s with
        nextId := s.nextId + 1, sch := { s.sch with intake := s.sch.intake ++ [(s.nextId, .launch qp (sttHeader hd sent) rva)] } })) ∧
    (Claims.WellSent hd sent 2 → let read := readTokens s p (words.take (hd.toNat / 2 ^ 16 % 2 ^ 16 / 4))
      (read = none → Claims.Gives (.sttTokens qp hd sent words) s (Claims.answered s qp hd sent 5 0xFFF)) ∧
      ∀ l d ts, read = some (l, d, ts) → let t := ts.foldl (fun s t => addOut s (originTile l) 14 t [d]) s
        Claims.Gives (.sttTokens qp hd sent words) s { t with host := { t.host with
          tokens := t.host.tokens ++ [(qp, sttHeader hd sent, s.nextId, ts.length)] } })) ∧
  (∀ (s : State) (qp : Nat) (hd : BitVec 192) (sent n asid va len : Nat) (r w : Bool) (p : Qp), Claims.TakenOn s qp p → Claims.WellSent hd sent 3 →
    (n < 4096 → asid < 2 ^ 16 → 4096 ≤ len → len ≤ 2 ^ 48 → va + len ≤ 2 ^ 56 →
      let e : Region := { v := true, asid := asid, va := va, len := len, rd := r, wr := w, gen := ((regionAt s n).gen + 1) % 256 }
      Claims.CtrlActs (.mrreg qp hd sent n asid va len r w) s qp hd sent p
        { s with host := { s.host with mrt := sset s.host.mrt n e } } 0) ∧
    (4096 ≤ n ∨ 2 ^ 16 ≤ asid ∨ len < 4096 ∨ 2 ^ 48 < len ∨ 2 ^ 56 < va + len →
      Claims.CtrlActs (.mrreg qp hd sent n asid va len r w) s qp hd sent p s 0x04) ∧
    (n < 4096 → Claims.CtrlActs (.mrdereg qp hd sent n) s qp hd sent p
      { s with host := { s.host with mrt := smod s.host.mrt n (fun r => { r with v := false }) } } 0) ∧
    (4096 ≤ n → Claims.CtrlActs (.mrdereg qp hd sent n) s qp hd sent p s 0x04)) ∧
  (∀ (s : State) (qp : Nat) (hd : BitVec 192) (sent q : Nat) (l : Launch) (p : Qp), Claims.TakenOn s qp p → Claims.WellSent hd sent 3 →
    sget s.sch.launches q = some l → let res := s.sch.reserve
    let may := l.st = .running ∧ l.ended = false ∧ l.granted + 2 ^ 20 ≤ s.cyc ∧ (∃ t ∈ res, t ∈ heldTiles l ++ aimedTiles l) ∧
      ∀ x ∈ s.sch.launches, x.2.st = .shrinking ∨ x.2.st = .saving → ∀ t ∈ res, t ∉ heldTiles x.2 ++ aimedTiles x.2
    (∀ k, ¬ may → Claims.CtrlActs (.ctrlPreempt qp hd sent q k) s qp hd sent p s 0x04) ∧
    (may → l.field 361 1 = 1 → noticeRoom s q l = true →
      Claims.CtrlActs (.ctrlPreempt qp hd sent q true) s qp hd sent p (beginChange s q l .saving none) 0) ∧
    (may → l.field 361 1 = 1 → noticeRoom s q l = false → p.admin = true → let i := Instr.ctrlPreempt qp hd sent q true
      Claims.Gives i s (Claims.waiting s qp i)) ∧
    (l.field 361 1 = 0 → Claims.CtrlActs (.ctrlPreempt qp hd sent q true) s qp hd sent p s 0x04) ∧
    (l.field 360 1 = 0 → Claims.CtrlActs (.ctrlPreempt qp hd sent q false) s qp hd sent p s 0x04) ∧
    ∀ a, may → l.field 360 1 = 1 → shrinkFor l res = some a →
      noticeRoom s q l = true → Claims.CtrlActs (.ctrlPreempt qp hd sent q false) s qp hd sent p (beginChange s q l .shrinking (some a)) 0) ∧
  (∀ (s : State) (qp : Nat) (hd : BitVec 192) (sent asid ctx : Nat), s.dev.p3 = true →
    Claims.Gives (.ctrlHalt qp hd sent asid ctx) s (Claims.answered s qp hd sent 4 4)) ∧
  (∀ (s : State) (qp : Nat) (hd : BitVec 192) (sent asid ctx : Nat) (p : Qp) (x : Ctx), Claims.TakenOn s qp p → Claims.WellSent hd sent 3 →
    ctxOf s ctx = some x → let i := Instr.ctrlHalt qp hd sent asid ctx
    let asleep := sleepingQuads s x.q
    (s.dev.level = 0 → Claims.Gives i s (Claims.answered s qp hd sent 4 1)) ∧
    (s.dev.level ≠ 0 → asleep ≠ [] → s.dev.life ≠ 1 ∨ s.dev.level ≠ 2 → Claims.Gives i s (Claims.answered s qp hd sent 4 3)) ∧
    (s.dev.level ≠ 0 → asleep = [] ∨ s.dev.life = 1 ∧ s.dev.level = 2 → let s0 := asleep.foldl wakeQuad s
      (s.dev.level = 1 → p.admin = true ∨ p.asid ≠ asid → Claims.Gives i s (Claims.answered s0 qp hd sent 4 5)) ∧
      (s.dev.level ≠ 1 → p.admin = false → p.asid ≠ asid → Claims.Gives i s (Claims.answered s0 qp hd sent 4 5)) ∧
      (p.admin = false ∧ p.asid = asid ∨ s.dev.level ≠ 1 ∧ p.admin = true →
        (s.dev.hen = true → s.dev.dasid.toNat ≠ asid → Claims.Gives i s (Claims.answered s0 qp hd sent 4 6)) ∧
        (s.dev.hen = false ∨ s.dev.dasid.toNat = asid →
          (x.asid ≠ asid → Claims.Gives i s (Claims.answered s0 qp hd sent 4 0x04)) ∧
          (x.asid = asid → haltRoom s0 ctx = true → Claims.Gives i s (Claims.answered
            (haltContext { s0 with dev := { s0.dev with hen := true, dasid := BitVec.ofNat 16 asid } } ctx none) qp hd sent 4 0)) ∧
          (x.asid = asid → haltRoom s0 ctx = false → Claims.Gives i s (Claims.waiting s0 qp i)))))) ∧
  (∀ (s : State) (quad : Nat), (sget s.dev.qcur quad = some 2 → wakeQuad s quad = setQreq s quad 0) ∧
    (sget s.dev.qcur quad ≠ some 2 → wakeQuad s quad = s)) ∧
  (∀ (s : State) (qp : Nat) (hd : BitVec 192) (sent : Nat) (words : List Word) (p : Qp), Claims.WellSent hd sent 3 →
    let i := Instr.ctrlFwd qp hd sent words
    let s0 := wakeQuad s 0
    let v := (tileReg s 0 7).toNat
    let ts := fwdTokens (v % 512) 3 words
    let given := wakeGroom { s0 with frm := { s0.frm with inbox := sset s0.frm.inbox (v % 512) (inboxOf s0 0 (v % 512) ++ ts) } } 0
    let good := words ≠ [] ∧ words.length ≤ 64 ∧ tilePresent s 0 = true
    let room := v / 2 ^ 31 % 2 = 1 ∧ (inboxOf s0 0 (v % 512)).length + ts.length ≤ 4
    (Claims.TakenOn s qp p → (p.admin = false → Claims.Gives i s (Claims.answered s qp hd sent 4 0x09)) ∧
      (p.admin = true → ¬ good → Claims.Gives i s (Claims.answered s qp hd sent 4 0x04)) ∧
      (p.admin = true → good → room → Claims.Gives i s (Claims.answered given qp hd sent 4 0)) ∧
      (p.admin = true → good → ¬ room → Claims.Gives i s (Claims.waiting s0 qp i))) ∧
    (Claims.InForce s qp p → ¬ Claims.Busy s qp → s.occ.c = 1 → s.host.waits.find? (·.1 == qp) = some (qp, i) → p.admin = true → good →
      (room → let t := Claims.answered given qp hd sent 4 0
        Claims.Gives i s { t with host := { t.host with waits := t.host.waits.erase (qp, i) } }) ∧
      (¬ room → Claims.Gives i s s0))) ∧
  (∀ (s : State) (qp : Nat) (hd : BitVec 192) (sent level : Nat) (p : Qp), Claims.TakenOn s qp p → Claims.WellSent hd sent 4 →
    (∀ i ∈ Claims.spdmPlain, Claims.Gives (i qp hd sent) s (Claims.attested s qp hd sent .other [])) ∧
    Claims.Gives (.getMeasurements qp hd sent) s (Claims.attested s qp hd sent
      (.measurements s.dev.bootrec s.dev.life s.dev.level s.dev.zeroised) []) ∧
    Claims.Gives (.spdmUnsupportedRequest qp hd sent) s (Claims.attested s qp hd sent .unsupported []) ∧
    Claims.Gives (.keyExchange qp hd sent) s (Claims.attested { s with dev := { s.dev with session := true } } qp hd sent .other []) ∧
    (s.dev.session = false → Claims.Gives (.finish qp hd sent) s (Claims.attested s qp hd sent .other [])) ∧
    (s.dev.session = true → Claims.Gives (.finish qp hd sent) s (Claims.attested
      (loadKeys s ((upto 256).filter (Config.sessionDomain s.fresh))) qp hd sent .other [])) ∧
    (level = 1 ∨ level = 2 → Config.signatureGood s.fresh = true → Claims.Gives (.debugUnlock qp hd sent level) s
      (Claims.attested (raiseLevel { s with fresh := s.fresh + 1 } level) qp hd sent .other [0])) ∧
    (level ≠ 1 ∧ level ≠ 2 ∨ Config.signatureGood s.fresh = false → Claims.Gives (.debugUnlock qp hd sent level) s
      (Claims.attested { s with fresh := s.fresh + 1 } qp hd sent .other [2]))) ∧
  (∀ (s : State) (qp : Nat) (hd : BitVec 192) (sent level : Nat), s.dev.p3 = true →
    Claims.Gives (.debugUnlock qp hd sent level) s (Claims.attested s qp hd sent .other [4])) ∧
  ∀ (s : State) (level : Nat), level = 1 ∨ level = 2 → (s.dev.level.toNat < level → (raiseLevel s level).dev.level.toNat = level) ∧
    (level ≤ s.dev.level.toNat → raiseLevel s level = s) ∧
    (level = 2 → s.dev.level.toNat < 2 → s.dev.life = 2 ∨ s.dev.life = 3 → (raiseLevel s level).dev.zeroised = true)

/-- R34, R172, R176, R200, R217, R369 to R377, R402 to R413, R424 to R429: a fault discards its block and parks its frame, is queued, reported and
delivered to its one receiver; ERES, ESC and EKILL answer it; a halt request and a single step stop tasks.
What becomes of a halted handler or groom task, that a single step whose block commits halts once its entries are released, and that a halt waits
while its record's place is taken are the model's choices (log entries 37, 45, 48). -/
def Obligations.FaultsAreTakenReportedAndAnswered : Prop :=
  (∀ (s : State) (τ : Task), s.task? = some τ → Claims.Gives .reservedOpcode s (takeFault s τ τ.pos causeIllOp 0 0)) ∧
  (∀ (s : State) (τ : Task) (pos c d a : Nat), τ.kind = .frame → faultRoom s s.occ.a τ.rank τ.ctx τ.iter = true →
    takeFault s τ pos c d a = raiseOn (discardEffects s.dropTask τ) s.occ.a (syncRecord s s.occ.a τ pos c d a)) ∧
  (∀ (s : State) (τ : Task) (pos c d a : Nat), τ.kind = .frame → faultRoom s s.occ.a τ.rank τ.ctx τ.iter = false → takeFault s τ pos c d a = s) ∧
  (∀ (s : State) (tile : Nat) (r : FaultRec),
    (frameLive s tile r.rank r.ctx r.iter = false → raiseOn s tile r = enqueueFault s tile { r with framed := false }) ∧
    (frameLive s tile r.rank r.ctx r.iter = true → s.dev.pv = false →
      raiseOn s tile r = enqueueFault s (quadTile0 (quadOf tile)) { r with framed := false }) ∧
    (frameLive s tile r.rank r.ctx r.iter = true → s.dev.pv = true → raiseOn s tile r = Claims.parkedWith s tile r)) ∧
  (∀ (s : State) (o : Op), Claims.Subject s o → chanOf o.kind = none → mayReport s o = true → o.n = 3 → isHitchOp o.kind = true →
    Claims.Gives .asyncFaultReport s (dropOp s o.id)) ∧
  (∀ (s : State) (o : Op), Claims.Subject s o → chanOf o.kind = none → mayReport s o = true → o.n ≠ 3 ∨ isHitchOp o.kind = false →
    let t := raiseOp s o o.cause o.detail o.addr
    (frameLive s o.tile o.rank o.ctx o.iter = true → s.dev.pv = true → o.elem ≠ 8 →
      Claims.Gives .asyncFaultReport s (setOp t { o with phase := .faulted })) ∧
    (frameLive s o.tile o.rank o.ctx o.iter = false ∨ s.dev.pv = false ∨ o.elem = 8 → Claims.Gives .asyncFaultReport s (dropFailed t o))) ∧
  (∀ (s : State) (o : Op), Claims.Subject s o → isUnit o.kind = true → o.phase = .done → Claims.Gives .asyncFaultReport s (emitBlock s o)) ∧
  (∀ (s : State) (p : Pending), Claims.MayDeliver s p →
    (p.deliver = true → Claims.Gives .faultDelivery s (deliverFault (Claims.withoutPending s p) s.occ.a p.fr)) ∧
    (p.deliver = false → Claims.Gives .faultDelivery s (deliverNotice (Claims.withoutPending s p) s.occ.a p.fr))) ∧
  (∀ (s : State) (tile : Nat) (r : FaultRec), receiver s tile r = 0 ∨ receiver s tile r = 1 ∨ receiver s tile r = 2) ∧
  (∀ (s : State) (tile : Nat) (r : FaultRec), r.framed = false ∨ r.escd = true ∨ r.sup = true ∨ ctxOf s r.ctx = none → receiver s tile r = 0) ∧
  (∀ (s : State) (tile : Nat) (r : FaultRec) (c : Ctx), r.framed = true → r.escd = false → r.sup = false → ctxOf s r.ctx = some c →
    1 ≤ r.cause → r.cause ≤ 27 → r.cause ≠ causeWatchdog → r.cause ≠ causeSeqOrder →
    let u := c.uvec.toNat
    (u / 2 ^ 31 % 2 = 0 ∨ c.fmask.toNat / 2 ^ r.cause % 2 = 0 → receiver s tile r = 0) ∧
    (u / 2 ^ 31 % 2 = 1 → c.fmask.toNat / 2 ^ r.cause % 2 = 1 → u / 2 ^ 30 % 2 = 0 → handlerGood s tile (u % 256) = true → receiver s tile r = 1) ∧
    (u / 2 ^ 31 % 2 = 1 → c.fmask.toNat / 2 ^ r.cause % 2 = 1 → u / 2 ^ 30 % 2 = 1 → paddockGood s c.q c.uvec = true → receiver s tile r = 2) ∧
    (u / 2 ^ 30 % 2 = 0 → handlerGood s tile (u % 256) = false → receiver s tile r = 0) ∧
    (u / 2 ^ 30 % 2 = 1 → paddockGood s c.q c.uvec = false → receiver s tile r = 0)) ∧
  (∀ (s : State) (tile bix : Nat), (sget s.tab.blocks (tile * 256 + bix) = none → handlerGood s tile bix = false) ∧
    ∀ b, sget s.tab.blocks (tile * 256 + bix) = some b → b.nin ≠ 1 → handlerGood s tile bix = false) ∧
  Claims.RecordsDelivered ∧ Claims.SlotsRepaired ∧ Claims.FramesResume ∧ Claims.FramesEnd ∧
  (∀ (s : State) (r : FaultRec) (rest : List FaultRec), let tile := s.occ.a
    let slot := (tileReg s tile 7).toNat % 512
    sgetD s.flt.supq tile [] = r :: rest → (tileReg s tile 7).toNat / 2 ^ 31 % 2 = 1 → sget s.flt.busy tile = none →
    (inboxOf s tile slot).length < 4 → ∃ t, Claims.Gives .supervisorFaultDequeue s t ∧ sgetD t.flt.supq tile [] = rest ∧
      t.flt.busy = sset s.flt.busy tile (slot * 8 + (inboxOf s tile slot).length) ∧ tileReg t tile 1 = BitVec.ofNat 32 r.cause ∧ t.mem = s.mem ∧ t.ctxs = s.ctxs) ∧
  (∀ s : State, sgetD s.flt.supq s.occ.a [] = [] → Claims.Gives .supervisorFaultDequeue s s) ∧
  (∀ (s : State) (x : Ctx), ctxOf s s.occ.a = some x →
    (haltEnabled s x.asid = true → sget s.flt.haltCtx s.occ.a = none → haltRoom s s.occ.a = true →
      Claims.Gives .halt s (haltContext s s.occ.a none)) ∧
    (haltEnabled s x.asid = false ∨ haltRoom s s.occ.a = false → Claims.Gives .halt s s)) ∧
  (∀ (s : State) (tile elem : Nat) (τ : Task) (d : Nat), s.dev.pv = true → (τ.kind = .frame → frameLive s tile τ.rank τ.ctx τ.iter = true) →
    ∃ u, sget (haltTask s tile elem τ d).flt.halted (tile * 9 + elem) = some u ∧ u.ctx = τ.ctx ∧ u.blk = τ.blk ∧ u.pos = τ.pos) ∧
  (∀ (s : State) (asid : Nat), haltEnabled s asid = true ↔
    s.dev.level ≠ 0 ∧ s.dev.hen = true ∧ s.dev.dasid.toNat = asid) ∧
  (∀ (s : State) (τ : Task), s.task? = some τ →
    (τ.step = 1 → (τ.pos ≤ τ.len ∨ τ.tid = 0 ∧ ((peAt s s.occ.a s.occ.b).held = [] ∨ s.occ.a ∈ s.frm.frozen)) → haltRoom s τ.ctx = true →
      (haltHolds s s.occ.a τ = true → Claims.Gives .stepHalt s (haltTask
        { s with flt := { s.flt with haltCtx := sset s.flt.haltCtx τ.ctx () } } s.occ.a s.occ.b τ 0xFE)) ∧
      (haltHolds s s.occ.a τ = false → Claims.Gives .stepHalt s (haltTask s s.occ.a s.occ.b τ 0xFE))) ∧
    (τ.step ≠ 1 ∨ haltRoom s τ.ctx = false → Claims.Gives .stepHalt s s)) ∧
  ∀ (s : State) (o : Op), (currentRecord s o = none → haltedRecord s o = none → commitHandler s o = statusToken s o [1]) ∧
    (handlerStatus s o ≠ 0 → commitHandler s o = statusToken s o [handlerStatus s o]) ∧
    (∀ r, currentRecord s o = none → haltedRecord s o = some r → handlerStatus s o = 0 →
      commitHandler s o = statusToken (answerHalt s (haltTile s o) r (o.kind != .ekill)) o [0]) ∧
    ∀ (r : FaultRec) (tile rank : Nat), Claims.Answers s o r tile rank →
      (∀ rep ent hold, o.kind = .eres rep ent hold → commitHandler s o = statusToken (performEres s o r tile rank rep ent hold) o [0]) ∧
      (o.kind = .esc → commitHandler s o = statusToken (performEsc s r tile rank) o [0]) ∧
      (o.kind = .ekill → commitHandler s o = statusToken (performEkill s r tile rank) o [0]) ∧
      (o.kind = .eres false 0 false → r.halt = none → r.row = 0 → r.op = 0 →
        performEres s o r tile rank false 0 false = answerFault s tile rank r.ctx r.iter)
end

