-- ==== Sys2Proof/Laws/Memory.lean ====
section
/-! SUPPORT. Stores and memories: strictly rising keys and the canonical form are kept, and what a read answers after a write. -/

namespace Sys2Proof.Machine

set_option Elab.async false

/-- Rising keys as a relation on all pairs. -/
theorem keysRise_iff {α : Type} (m : Store α) : keysRise m = true ↔ m.Pairwise (fun a b => a.1 < b.1) := by
  induction m with
  | nil => simp [keysRise]
  | cons x r ih =>
    cases r with
    | nil => simp [keysRise]
    | cons y r =>
      obtain ⟨k, v⟩ := x
      obtain ⟨l, w⟩ := y
      simp only [keysRise, Bool.and_eq_true, decide_eq_true_eq, ih, List.pairwise_cons, List.mem_cons, forall_eq_or_imp]
      exact ⟨fun ⟨h, h1, h2⟩ => ⟨⟨h, fun a ha => Nat.lt_trans h (h1 a ha)⟩, h1, h2⟩, fun ⟨⟨h, _⟩, h1, h2⟩ => ⟨h, h1, h2⟩⟩

theorem mem_sset {α : Type} {m : Store α} {n : Nat} {x : α} {p : Nat × α} (h : p ∈ sset m n x) : p = (n, x) ∨ p ∈ m := by
  induction m with
  | nil => simpa [sset] using h
  | cons y r ih =>
    obtain ⟨k, v⟩ := y
    unfold sset at h
    split at h
    · simpa using h
    · split at h
      · simp only [List.mem_cons] at h ⊢
        exact h.imp_right Or.inr
      · simp only [List.mem_cons] at h ⊢
        obtain h | h := h
        · exact .inr (.inl h)
        · exact (ih h).imp_right Or.inr

theorem keysRise_sset {α : Type} (m : Store α) (n : Nat) (x : α) (h : keysRise m = true) : keysRise (sset m n x) = true := by
  rw [keysRise_iff] at h ⊢
  induction m with
  | nil => simp [sset]
  | cons y r ih =>
    obtain ⟨k, v⟩ := y
    rw [List.pairwise_cons] at h
    unfold sset
    split
    · next hk =>
      refine List.pairwise_cons.2 ⟨fun p hp => ?_, List.pairwise_cons.2 h⟩
      rcases List.mem_cons.1 hp with rfl | hp
      · exact hk
      · exact Nat.lt_trans hk (h.1 p hp)
    · split
      · next hk =>
        subst hk
        exact List.pairwise_cons.2 h
      · next h1 h2 =>
        refine List.pairwise_cons.2 ⟨fun p hp => ?_, ih h.2⟩
        rcases mem_sset hp with rfl | hp
        · show k < n
          omega
        · exact h.1 p hp

theorem keysRise_filter {α : Type} (m : Store α) (f : Nat × α → Bool) (h : keysRise m = true) : keysRise (m.filter f) = true := by
  rw [keysRise_iff] at h ⊢
  exact h.filter f

theorem wf_filter (m : List Host.Cell) (f : Host.Cell → Bool) (h : Memory.wf m = true) : Memory.wf (m.filter f) = true := by
  simp only [Memory.wf, Bool.and_eq_true, List.all_eq_true] at h ⊢
  exact ⟨keysRise_filter m f h.1, fun c hc => h.2 c (List.mem_filter.1 hc).1⟩

/-- A write of one byte keeps the canonical form. -/
theorem wf_mset (m : List Host.Cell) (a : Nat) (v : BitVec 8) (h : Memory.wf m = true) : Memory.wf (mset m a v) = true := by
  unfold mset
  split
  · exact wf_filter m _ h
  · next hv =>
    simp only [Memory.wf, Bool.and_eq_true, List.all_eq_true] at h ⊢
    refine ⟨keysRise_sset m a v h.1, fun c hc => ?_⟩
    rcases mem_sset hc with rfl | hc
    · simpa using hv
    · exact h.2 c hc

theorem wf_mwrite (m : List Host.Cell) (a n v : Nat) (h : Memory.wf m = true) : Memory.wf (mwrite m a n v) = true := by
  induction n generalizing m a v with
  | zero => exact h
  | succ n ih => exact ih _ _ _ (wf_mset _ _ _ h)

/-- What holds at the start of a fold, and is kept by every step of it, holds at its end. -/
theorem foldl_keeps {σ ι : Type} (Good : σ → Prop) (step : σ → ι → σ) (todo : List ι) (start : σ) (ok : Good start)
    (each : ∀ now item, Good now → Good (step now item)) : Good (todo.foldl step start) :=
  List.foldlRecOn todo step ok fun now h item _ => each now item h

theorem wf_sdrop (m : List Host.Cell) (lo n : Nat) (h : Memory.wf m = true) : Memory.wf (sdrop m lo n) = true := wf_filter m _ h

theorem wf_mreplace (m : List Host.Cell) (lo n : Nat) (all : Bool) (new : List Host.Cell) (h : Memory.wf m = true) :
    Memory.wf (mreplace m lo n all new) = true := by
  unfold mreplace
  refine foldl_keeps (fun m => Memory.wf m = true) _ _ _ ?_ fun m c hm => ?_
  · split
    · exact wf_sdrop _ _ _ h
    · exact h
  · split
    · exact hm
    · exact wf_mset _ _ _ hm

theorem sget_sset {α : Type} (m : Store α) (n k : Nat) (x : α) : sget (sset m n x) k = if k = n then some x else sget m k := by
  induction m with
  | nil => simp only [sset, sget, eq_comm]
  | cons y r ih =>
    obtain ⟨l, v⟩ := y
    unfold sset
    split
    · next hl =>
      simp only [sget, eq_comm (a := n)]
    · split
      · next hl =>
        subst hl
        simp only [sget, eq_comm (a := n)]
        split <;> rfl
      · next h1 h2 =>
        simp only [sget, ih]
        split
        · next hk =>
          subst hk
          rw [if_neg (fun h => h2 h.symm)]
        · rfl

theorem sget_none_of_lt {α : Type} (m : Store α) (n : Nat) (h : ∀ p ∈ m, n < p.1) : sget m n = none := by
  induction m with
  | nil => rfl
  | cons y r ih =>
    obtain ⟨k, v⟩ := y
    have hk : n < k := h (k, v) (by simp)
    unfold sget
    rw [if_neg (by omega)]
    exact ih fun p hp => h p (List.mem_cons_of_mem _ hp)

theorem sget_sdel {α : Type} (m : Store α) (n k : Nat) : sget (sdel m n) k = if k = n then none else sget m k := by
  unfold sdel
  induction m with
  | nil => simp [sget]
  | cons y r ih =>
    obtain ⟨l, v⟩ := y
    by_cases hl : l = n
    · subst hl
      simp only [List.filter_cons, bne_self_eq_false, Bool.false_eq_true, if_false, ih, sget]
      split
      · rfl
      · next h => rw [if_neg (fun e => h e.symm)]
    · have hb : (l != n) = true := by simpa using hl
      simp only [List.filter_cons, hb, if_true, sget, ih]
      split
      · next hk =>
        subst hk
        rw [if_neg hl]
      · rfl

/-- Reading a byte after writing a byte. -/
theorem mget_mset (m : List Host.Cell) (a b : Nat) (v : BitVec 8) : mget (mset m a v) b = if b = a then v else mget m b := by
  unfold mget mset sgetD
  split
  · next hv =>
    rw [sget_sdel]
    split <;> simp [*]
  · rw [sget_sset]
    split <;> simp

/-- A write of `n` bytes leaves every other byte. -/
theorem mget_mwrite_other (m : List Host.Cell) (a n v b : Nat) (h : b < a ∨ a + n ≤ b) : mget (mwrite m a n v) b = mget m b := by
  induction n generalizing m a v with
  | zero => rfl
  | succ n ih =>
    rw [mwrite, ih _ _ _ (by omega), mget_mset, if_neg (by omega)]

/-- A number of `n` bytes written is read back. -/
theorem mread_mwrite (m : List Host.Cell) (a n v : Nat) : mread (mwrite m a n v) a n = v % 256 ^ n := by
  induction n generalizing m a v with
  | zero => simp [mread, Nat.mod_one]
  | succ n ih =>
    rw [mread, mwrite, ih, mget_mwrite_other _ _ _ _ _ (by omega), mget_mset, if_pos rfl, BitVec.toNat_ofNat,
      show 256 ^ (n + 1) = 256 * 256 ^ n from Nat.pow_succ', Nat.mod_mul (a := 256)]

end Sys2Proof.Machine
end

