-- ==== Sys2Proof/Laws/Canonical.lean ====
section
/-! SUPPORT. Every operation keeps the memories canonical: one lemma per operation that answers a state. -/

namespace Sys2Proof.Machine

set_option Elab.async false
set_option linter.unusedTactic false
set_option linter.unreachableTactic false
set_option linter.unusedSimpArgs false
set_option linter.unusedVariables false

/-- A next state has canonical memories. -/
structure Keeps (r : Result) : Prop where
  next : ∀ t, r = .next t → t.canonical = true

theorem keeps_next {s : State} (h : s.canonical = true) : Keeps (.next s) := ⟨fun t e => by cases e; exact h⟩

theorem keeps_fault (f : Fault) : Keeps (.fault f) := ⟨fun t e => by cases e⟩

theorem keeps_refused (f : Refusal) : Keeps (.refused f) := ⟨fun t e => by cases e⟩

theorem foldl_canon {α : Type} {s : State} {f : State → α → State} {l : List α} (h : s.canonical = true)
    (hf : ∀ s a, s.canonical = true → (f s a).canonical = true) : (l.foldl f s).canonical = true :=
  foldl_keeps (fun s => s.canonical = true) f l s h hf

theorem foldr_canon {α : Type} {s : State} {f : α → State → State} {l : List α} (h : s.canonical = true)
    (hf : ∀ a s, s.canonical = true → (f a s).canonical = true) : (l.foldr f s).canonical = true := by
  induction l with
  | nil => exact h
  | cons x r ih => exact hf _ _ ih

theorem canonical_state_mk {a b c d e m g h i j k l n o p q r t u v w x y z} : State.canonical
    (State.mk a b c d e m g h i j k l n o p q r t u v w x y z) =
    m.canonical := rfl

theorem canonical_of_state {s : State} (h : s.canonical = true) : s.mem.canonical = true := h

theorem canonical_mk {m : Mem} {e k b l g sb sl st su sx sf bp} (hm : m.canonical = true) :
    Mem.canonical (Mem.mk m.dram m.sram m.probe m.rein e k b l g sb sl st su sx sf bp) = true := hm

theorem canonical_sram {m : Mem} {x e k b l g sb sl st su sx sf bp} (hm : m.canonical = true) (hx : Memory.wf x = true) :
    Mem.canonical (Mem.mk m.dram x m.probe m.rein e k b l g sb sl st su sx sf bp) = true := by
  simp only [Mem.canonical, Bool.and_eq_true] at hm ⊢
  exact ⟨⟨⟨hm.1.1.1, hx⟩, hm.1.2⟩, hm.2⟩

theorem canonical_rein {m : Mem} {x e k b l g sb sl st su sx sf bp} (hm : m.canonical = true) (hx : Memory.wf x = true) :
    Mem.canonical (Mem.mk m.dram m.sram m.probe x e k b l g sb sl st su sx sf bp) = true := by
  simp only [Mem.canonical, Bool.and_eq_true] at hm ⊢
  exact ⟨hm.1, hx⟩

theorem canonical_probe {m : Mem} {x e k b l g sb sl st su sx sf bp} (hm : m.canonical = true) (hx : Memory.wf x = true) :
    Mem.canonical (Mem.mk m.dram m.sram x m.rein e k b l g sb sl st su sx sf bp) = true := by
  simp only [Mem.canonical, Bool.and_eq_true] at hm ⊢
  exact ⟨⟨hm.1.1, hx⟩, hm.2⟩

theorem sram_wf_of {m : Mem} (h : m.canonical = true) : Memory.wf m.sram = true := by
  simp only [Mem.canonical, Bool.and_eq_true] at h
  exact h.1.1.2

theorem rein_wf_of {m : Mem} (h : m.canonical = true) : Memory.wf m.rein = true := by
  simp only [Mem.canonical, Bool.and_eq_true] at h
  exact h.2

theorem probe_wf_of {m : Mem} (h : m.canonical = true) : Memory.wf m.probe = true := by
  simp only [Mem.canonical, Bool.and_eq_true] at h
  exact h.1.2

/-- What an answer that may be absent keeps. -/
structure KeepsSome (r : Option State) : Prop where
  some : ∀ t, r = .some t → t.canonical = true

theorem keepsSome_some {s : State} (h : s.canonical = true) : KeepsSome (some s) := ⟨fun t e => by cases e; exact h⟩

theorem keepsSome_none : KeepsSome none := ⟨fun t e => by cases e⟩

theorem getD_canon {r : Option State} {s : State} (h : KeepsSome r) (hs : s.canonical = true) : (r.getD s).canonical = true := by
  cases r with
  | none => exact hs
  | some t => exact h.some t rfl

/-- What a body with a state keeps. -/
structure KeepsBody {α : Type} (r : Body (State × α)) : Prop where
  ok : ∀ p, r = .ok p → p.1.canonical = true

theorem keepsBody_ok {α : Type} {s : State} {a : α} (h : s.canonical = true) : KeepsBody (.ok (s, a) : Body (State × α)) :=
  ⟨fun p e => by cases e; exact h⟩

theorem keepsBody_error {α : Type} (e : Stop) : KeepsBody (.error e : Body (State × α)) := ⟨fun p h => by cases h⟩

theorem keepsBody_stop {α : Type} (c a : Nat) : KeepsBody (stop c a : Body (State × α)) := ⟨fun p h => by cases h⟩

theorem keepsBody_bind {α β : Type} (x : Body β) (f : β → Body (State × α)) (h : ∀ b, x = .ok b → KeepsBody (f b)) : KeepsBody
    (x >>= f) := by
  cases x with
  | error e => exact ⟨fun p h => by cases h⟩
  | ok b => exact h b rfl

/-- What a performed access keeps. -/
def Performed.keeps : Performed → Prop
  | .ok s _ => s.canonical = true
  | .ue s _ => s.canonical = true

theorem performed_ok {s : State} {n : Nat} (h : s.canonical = true) : (Performed.ok s n).keeps := h

theorem performed_ue {s : State} {n : Nat} (h : s.canonical = true) : (Performed.ue s n).keeps := h

theorem pair_canon {α : Type} {p : State × α} {s : State} {a : α} (hp : p.1.canonical = true) (h : p = (s, a)) : s.canonical = true := by
  rw [h] at hp
  exact hp

theorem retag_canon {s : State} (dom pa : Nat) (h : s.canonical = true) : (retag s dom pa).canonical = true := by
  unfold retag
  dsimp only
  split
  · exact h
  · split
    · exact h
    · simp only [State.canonical, Mem.canonical, Bool.and_eq_true] at h ⊢
      exact ⟨⟨⟨foldl_keeps (fun m => Memory.wf m = true) _ _ _ h.1.1.1 fun m _ hm => wf_mset m _ _ hm, h.1.1.2⟩, h.1.2⟩, h.2⟩

theorem putByte_canon {s : State} (dom pa : Nat) (v : BitVec 8) (h : s.canonical = true) :
    (putByte s dom pa v).canonical = true := by
  have set (s : State) (h : s.canonical = true) :
      State.canonical { s with mem := { s.mem with dram := mset s.mem.dram pa v } } = true := by
    simp only [State.canonical, Mem.canonical, Bool.and_eq_true] at h ⊢
    exact ⟨⟨⟨wf_mset _ _ _ h.1.1.1, h.1.1.2⟩, h.1.2⟩, h.2⟩
  unfold putByte
  dsimp only
  split
  · exact h
  · split
    · exact set _ h
    · exact set _ (retag_canon dom pa h)

theorem homeSet_canon {s : State} (dom pa : Nat) (v : BitVec 8) (h : s.canonical = true) :
    (homeSet s dom pa v).canonical = true := by
  unfold homeSet
  split
  · exact h
  · exact putByte_canon _ _ _ h

theorem homePut_canon {s : State} (dom pa n v : Nat) (h : s.canonical = true) : (homePut s dom pa n v).canonical = true := by
  induction n generalizing s pa v with
  | zero => exact h
  | succ n ih => exact ih _ _ (homeSet_canon _ _ _ h)

theorem clearBad_canon {s : State} (pa n : Nat) (h : s.canonical = true) : (clearBad s pa n).canonical = true := h

theorem homeWrite_canon {s : State} (dom pa n v : Nat) (hm : s.canonical = true) : (homeWrite s dom pa n v).canonical = true := by
  unfold homeWrite
  try dsimp only
  repeat' first
    | with_reducible exact hm | with_reducible assumption | intro _ | with_reducible apply clearBad_canon
    | with_reducible apply homePut_canon | dsimp only | split | simp only [canonical_state_mk] | with_reducible apply canonical_of_state

theorem recordPut_canon {s : State} (pa n v : Nat) (h : s.canonical = true) : (recordPut s pa n v).canonical = true := by
  induction n generalizing s pa v with
  | zero => exact h
  | succ n ih => exact ih _ _ (putByte_canon _ _ _ h)

theorem recordWrite_canon {s : State} (pa n v : Nat) (hm : s.canonical = true) : (recordWrite s pa n v).canonical = true := by
  unfold recordWrite
  try dsimp only
  repeat' first
    | with_reducible exact hm | with_reducible assumption | intro _ | with_reducible apply clearBad_canon
    | with_reducible apply recordPut_canon | dsimp only | split | simp only [canonical_state_mk] | with_reducible apply canonical_of_state

theorem homeWriteBytes_canon {s : State} (dom pa : Nat) (bs : List (BitVec 8)) (hm : s.canonical = true) : (homeWriteBytes s dom pa bs).canonical = true := by
  unfold homeWriteBytes
  try dsimp only
  repeat' first
    | with_reducible exact hm | with_reducible assumption | intro _ | with_reducible apply homeWrite_canon | dsimp only | split
    | simp only [canonical_state_mk] | with_reducible apply canonical_of_state

theorem answerHost_canon {s : State} (h : Nat × Stt) (kind val : Nat) (data : List (BitVec 8)) (hm : s.canonical = true) : (answerHost s h kind val data).canonical = true := by
  unfold answerHost
  try dsimp only
  repeat' first
    | with_reducible exact hm | with_reducible assumption | intro _ | dsimp only | split | simp only [canonical_state_mk]
    | with_reducible apply canonical_of_state

theorem answerAny_canon {s : State} (h : Option (Nat × Stt)) (kind val : Nat) (data : List (BitVec 8)) (hm : s.canonical = true) : (answerAny s h kind val data).canonical = true := by
  unfold answerAny
  try dsimp only
  repeat' first
    | with_reducible exact hm | with_reducible assumption | intro _ | with_reducible apply answerHost_canon | dsimp only | split
    | simp only [canonical_state_mk] | with_reducible apply canonical_of_state

theorem count_canon {s : State} (k tile : Nat) (hm : s.canonical = true) : (count s k tile).canonical = true := by
  unfold count
  try dsimp only
  repeat' first
    | with_reducible exact hm | with_reducible assumption | intro _ | with_reducible apply getD_canon | dsimp only | split
    | simp only [canonical_state_mk] | with_reducible apply canonical_of_state

theorem correctSoft_canon {s : State} (tile lo n : Nat) (hm : s.canonical = true) : (correctSoft s tile lo n).canonical = true := by
  unfold correctSoft
  try dsimp only
  repeat' first
    | with_reducible exact hm | with_reducible assumption | intro _ | with_reducible apply count_canon | with_reducible apply foldl_canon
    | dsimp only | split | simp only [canonical_state_mk] | with_reducible apply canonical_of_state | with_reducible apply canonical_mk

theorem clearSram_canon {s : State} (whole : Nat → Bool) (hm : s.canonical = true) : (clearSram s whole).canonical = true := by
  unfold clearSram
  try dsimp only
  repeat' first
    | with_reducible exact hm | with_reducible assumption | intro _ | dsimp only | split | simp only [canonical_state_mk]
    | with_reducible apply canonical_of_state | with_reducible apply canonical_mk

theorem clearSlot_canon {s : State} (slot : Nat) (written : Nat → Bool) (hm : s.canonical = true) : (clearSlot s slot written).canonical = true := by
  unfold clearSlot
  try dsimp only
  repeat' first
    | with_reducible exact hm | with_reducible assumption | intro _ | with_reducible apply clearSram_canon | dsimp only | split
    | simp only [canonical_state_mk] | with_reducible apply canonical_of_state

theorem State_tick_canon {s : State} (hm : s.canonical = true) : (State.tick s).canonical = true := by
  unfold State.tick
  try dsimp only
  repeat' first
    | with_reducible exact hm | with_reducible assumption | intro _ | dsimp only | split | simp only [canonical_state_mk]
    | with_reducible apply canonical_of_state

theorem setPe_canon {s : State} (tile elem : Nat) (p : Pe) (hm : s.canonical = true) : (setPe s tile elem p).canonical = true := by
  unfold setPe
  try dsimp only
  repeat' first
    | with_reducible exact hm | with_reducible assumption | intro _ | dsimp only | split | simp only [canonical_state_mk]
    | with_reducible apply canonical_of_state

theorem State_setTask_canon {s : State} (τ : Task) (hm : s.canonical = true) : (State.setTask s τ).canonical = true := by
  unfold State.setTask
  try dsimp only
  repeat' first
    | with_reducible exact hm | with_reducible assumption | intro _ | with_reducible apply setPe_canon | dsimp only | split
    | simp only [canonical_state_mk] | with_reducible apply canonical_of_state

theorem State_dropTask_canon {s : State} (hm : s.canonical = true) : (State.dropTask s).canonical = true := by
  unfold State.dropTask
  try dsimp only
  repeat' first
    | with_reducible exact hm | with_reducible assumption | intro _ | with_reducible apply setPe_canon | dsimp only | split
    | simp only [canonical_state_mk] | with_reducible apply canonical_of_state

theorem setWindow_canon {s : State} (tile rank c : Nat) (w : Window) (hm : s.canonical = true) : (setWindow s tile rank c w).canonical = true := by
  unfold setWindow
  try dsimp only
  repeat' first
    | with_reducible exact hm | with_reducible assumption | intro _ | dsimp only | split | simp only [canonical_state_mk]
    | with_reducible apply canonical_of_state

theorem setPosition_canon {s : State} (tile rank c i : Nat) (p : Position) (hm : s.canonical = true) : (setPosition s tile rank c i p).canonical = true := by
  unfold setPosition
  try dsimp only
  repeat' first
    | with_reducible exact hm | with_reducible assumption | intro _ | with_reducible apply setWindow_canon | dsimp only | split
    | simp only [canonical_state_mk] | with_reducible apply canonical_of_state

theorem dropTasks_canon {s : State} (tile rank c i : Nat) (hm : s.canonical = true) : (dropTasks s tile rank c i).canonical = true := by
  unfold dropTasks
  try dsimp only
  repeat' first
    | with_reducible exact hm | with_reducible assumption | intro _ | dsimp only | split | simp only [canonical_state_mk]
    | with_reducible apply canonical_of_state

theorem wake_canon {s : State} (tile rank c i blk : Nat) (hm : s.canonical = true) : (wake s tile rank c i blk).canonical = true := by
  unfold wake
  try dsimp only
  repeat' first
    | with_reducible exact hm | with_reducible assumption | intro _ | dsimp only | split | simp only [canonical_state_mk]
    | with_reducible apply canonical_of_state

theorem wakeFrame_canon {s : State} (tile rank c i : Nat) (hm : s.canonical = true) : (wakeFrame s tile rank c i).canonical = true := by
  unfold wakeFrame
  try dsimp only
  repeat' first
    | with_reducible exact hm | with_reducible assumption | intro _ | with_reducible apply wake_canon | with_reducible apply foldl_canon
    | dsimp only | split | simp only [canonical_state_mk] | with_reducible apply canonical_of_state

theorem clearEntries_canon {s : State} (tile rank c i : Nat) (b : Block) (hm : s.canonical = true) : (clearEntries s tile rank c i b).canonical = true := by
  unfold clearEntries
  try dsimp only
  repeat' first
    | with_reducible exact hm | with_reducible assumption | intro _ | with_reducible apply foldl_canon | dsimp only | split
    | simp only [canonical_state_mk] | with_reducible apply canonical_of_state

theorem clearPosition_canon {s : State} (tile rank c i : Nat) (hm : s.canonical = true) : (clearPosition s tile rank c i).canonical = true := by
  unfold clearPosition
  try dsimp only
  repeat' first
    | with_reducible exact hm | with_reducible assumption | intro _ | with_reducible apply dropTasks_canon | dsimp only | split
    | simp only [canonical_state_mk] | with_reducible apply canonical_of_state

theorem retire_canon {s : State} (tile rank c i : Nat) (hm : s.canonical = true) : (retire s tile rank c i).canonical = true := by
  unfold retire
  try dsimp only
  repeat' first
    | with_reducible exact hm | with_reducible assumption | intro _ | with_reducible apply setPosition_canon
    | with_reducible apply clearPosition_canon | with_reducible apply setWindow_canon | with_reducible apply foldl_canon | dsimp only
    | split | simp only [canonical_state_mk] | with_reducible apply canonical_of_state

theorem countBlock_canon {s : State} (tile rank c i : Nat) (hm : s.canonical = true) : (countBlock s tile rank c i).canonical = true := by
  unfold countBlock
  try dsimp only
  repeat' first
    | with_reducible exact hm | with_reducible assumption | intro _ | with_reducible apply setPosition_canon
    | with_reducible apply retire_canon | dsimp only | split | simp only [canonical_state_mk] | with_reducible apply canonical_of_state

theorem addOut_canon {s : State} (tile elem : Nat) (tok : Token) (ds : List Dest) (hm : s.canonical = true) : (addOut s tile elem tok ds).canonical = true := by
  unfold addOut
  try dsimp only
  repeat' first
    | with_reducible exact hm | with_reducible assumption | intro _ | dsimp only | split | simp only [canonical_state_mk]
    | with_reducible apply canonical_of_state

theorem setOp_canon {s : State} (o : Op) (hm : s.canonical = true) : (setOp s o).canonical = true := by
  unfold setOp
  try dsimp only
  repeat' first
    | with_reducible exact hm | with_reducible assumption | intro _ | dsimp only | split | simp only [canonical_state_mk]
    | with_reducible apply canonical_of_state

theorem dropOp_canon {s : State} (id : Nat) (hm : s.canonical = true) : (dropOp s id).canonical = true := by
  unfold dropOp
  try dsimp only
  repeat' first
    | with_reducible exact hm | with_reducible assumption | intro _ | dsimp only | split | simp only [canonical_state_mk]
    | with_reducible apply canonical_of_state

theorem addOp_canon {s : State} (o : Op) (hm : s.canonical = true) : (addOp s o).canonical = true := by
  unfold addOp
  try dsimp only
  repeat' first
    | with_reducible exact hm | with_reducible assumption | intro _ | dsimp only | split | simp only [canonical_state_mk]
    | with_reducible apply canonical_of_state

theorem enterOp_canon {s : State} (o : Op) (hm : s.canonical = true) : (enterOp s o).canonical = true := by
  unfold enterOp
  try dsimp only
  repeat' first
    | with_reducible exact hm | with_reducible assumption | intro _ | with_reducible apply addOp_canon | dsimp only | split
    | simp only [canonical_state_mk] | with_reducible apply canonical_of_state

theorem failOp_canon {s : State} (o : Op) (cause detail addr : Nat) (hm : s.canonical = true) : (failOp s o cause detail addr).canonical = true := by
  unfold failOp
  try dsimp only
  repeat' first
    | with_reducible exact hm | with_reducible assumption | intro _ | with_reducible apply setOp_canon | dsimp only | split
    | simp only [canonical_state_mk] | with_reducible apply canonical_of_state

theorem setTileReg_canon {s : State} (tile n : Nat) (v : Word) (hm : s.canonical = true) : (setTileReg s tile n v).canonical = true := by
  unfold setTileReg
  try dsimp only
  repeat' first
    | with_reducible exact hm | with_reducible assumption | intro _ | dsimp only | split | simp only [canonical_state_mk]
    | with_reducible apply canonical_of_state

theorem writeRecord_canon {s : State} (tile rank c i : Nat) (fresh : Bool) (hm : s.canonical = true) : (writeRecord s tile rank c i fresh).canonical = true := by
  unfold writeRecord
  try dsimp only
  repeat' first
    | with_reducible exact hm | with_reducible assumption | intro _ | with_reducible apply recordWrite_canon | dsimp only | split
    | simp only [canonical_state_mk] | with_reducible apply canonical_of_state

theorem withdrawRow_canon {s : State} (r : Row) (hm : s.canonical = true) : (withdrawRow s r).canonical = true := by
  unfold withdrawRow
  try dsimp only
  repeat' first
    | with_reducible exact hm | with_reducible assumption | intro _ | with_reducible apply recordWrite_canon
    | with_reducible apply State_tick_canon | with_reducible apply getD_canon | dsimp only | split | simp only [canonical_state_mk]
    | with_reducible apply canonical_of_state

theorem moveRow_canon {s : State} (id : Nat) (hm : s.canonical = true) : (moveRow s id).canonical = true := by
  unfold moveRow
  try dsimp only
  repeat' first
    | with_reducible exact hm | with_reducible assumption | intro _ | with_reducible apply withdrawRow_canon | dsimp only | split
    | simp only [canonical_state_mk] | with_reducible apply canonical_of_state

theorem moveRows_canon {s : State} (tile : Nat) (hm : s.canonical = true) : (moveRows s tile).canonical = true := by
  unfold moveRows
  try dsimp only
  repeat' first
    | with_reducible exact hm | with_reducible assumption | intro _ | with_reducible apply moveRow_canon | with_reducible apply foldl_canon
    | dsimp only | split | simp only [canonical_state_mk] | with_reducible apply canonical_of_state

theorem parkFrame_canon {s : State} (tile rank c i : Nat) (hlt : Bool) (hm : s.canonical = true) : (parkFrame s tile rank c i hlt).canonical = true := by
  unfold parkFrame
  try dsimp only
  repeat' first
    | with_reducible exact hm | with_reducible assumption | intro _ | with_reducible apply writeRecord_canon
    | with_reducible apply setPosition_canon | with_reducible apply dropTasks_canon | with_reducible apply moveRows_canon | dsimp only
    | split | simp only [canonical_state_mk] | with_reducible apply canonical_of_state

theorem toSupervisor_canon {s : State} (tile : Nat) (r : FaultRec) (hm : s.canonical = true) : (toSupervisor s tile r).canonical = true := by
  unfold toSupervisor
  try dsimp only
  repeat' first
    | with_reducible exact hm | with_reducible assumption | intro _ | with_reducible apply getD_canon | dsimp only | split
    | simp only [canonical_state_mk] | with_reducible apply canonical_of_state

theorem enqueueFault_canon {s : State} (tile : Nat) (r : FaultRec) (hm : s.canonical = true) : (enqueueFault s tile r).canonical = true := by
  unfold enqueueFault
  try dsimp only
  repeat' first
    | with_reducible exact hm | with_reducible assumption | intro _ | dsimp only | split | simp only [canonical_state_mk]
    | with_reducible apply canonical_of_state

theorem frameless_canon {s : State} (tile cause detail addr : Nat) (hm : s.canonical = true) : (frameless s tile cause detail addr).canonical = true := by
  unfold frameless
  try dsimp only
  repeat' first
    | with_reducible exact hm | with_reducible assumption | intro _ | with_reducible apply enqueueFault_canon | dsimp only | split
    | simp only [canonical_state_mk] | with_reducible apply canonical_of_state

theorem raiseOn_canon {s : State} (tile : Nat) (r : FaultRec) (hm : s.canonical = true) : (raiseOn s tile r).canonical = true := by
  unfold raiseOn
  try dsimp only
  repeat' first
    | with_reducible exact hm | with_reducible assumption | intro _ | with_reducible apply enqueueFault_canon
    | with_reducible apply parkFrame_canon | with_reducible apply writeRecord_canon | dsimp only | split | simp only [canonical_state_mk]
    | with_reducible apply canonical_of_state

theorem fits_mem_elim {s' : State} (tile : Nat) (hm : s'.canonical = true) : KeepsSome (fits tile s') := by
  unfold fits
  try dsimp only
  repeat' first
    | with_reducible exact hm | with_reducible assumption | intro _ | with_reducible exact keepsSome_none
    | with_reducible apply keepsSome_some | dsimp only | split | simp only [canonical_state_mk] | with_reducible apply canonical_of_state

theorem fits_canon {s' : State} {tile : Nat} {tt : State} (hm : s'.canonical = true) (he : fits tile s' = some tt) :
    tt.canonical = true :=
  (fits_mem_elim tile hm).some tt he

theorem orWait_canon {s s' : State} (tile : Nat) (hm : s.canonical = true) (hm' : s'.canonical = true) :
    (orWait tile s s').canonical = true := by
  unfold orWait
  exact getD_canon (fits_mem_elim tile hm') hm

theorem raiseFrame_canon {s : State} (tile rank c i cause detail addr : Nat) (hm : s.canonical = true) : (raiseFrame s tile rank c i cause detail addr).canonical = true := by
  unfold raiseFrame
  try dsimp only
  repeat' first
    | with_reducible exact hm | with_reducible assumption | intro _ | with_reducible apply raiseOn_canon | dsimp only | split
    | simp only [canonical_state_mk] | with_reducible apply canonical_of_state

theorem requeueHead_canon {s : State} (q : Nat) (hm : s.canonical = true) : (requeueHead s q).canonical = true := by
  unfold requeueHead
  try dsimp only
  repeat' first
    | with_reducible exact hm | with_reducible assumption | intro _ | dsimp only | split | simp only [canonical_state_mk]
    | with_reducible apply canonical_of_state

theorem freeReserved_canon {s : State} (c : Nat) (hm : s.canonical = true) : (freeReserved s c).canonical = true := by
  unfold freeReserved
  try dsimp only
  repeat' first
    | with_reducible exact hm | with_reducible assumption | intro _ | with_reducible apply requeueHead_canon | dsimp only | split
    | simp only [canonical_state_mk] | with_reducible apply canonical_of_state

theorem discardEffects_canon {s : State} (τ : Task) (hm : s.canonical = true) : (discardEffects s τ).canonical = true := by
  unfold discardEffects
  try dsimp only
  repeat' first
    | with_reducible exact hm | with_reducible assumption | intro _ | with_reducible apply freeReserved_canon
    | with_reducible apply foldl_canon | dsimp only | split | simp only [canonical_state_mk] | with_reducible apply canonical_of_state

theorem wakeGroom_canon {s : State} (tile : Nat) (hm : s.canonical = true) : (wakeGroom s tile).canonical = true := by
  unfold wakeGroom
  try dsimp only
  repeat' first
    | with_reducible exact hm | with_reducible assumption | intro _ | with_reducible apply foldl_canon | dsimp only | split
    | simp only [canonical_state_mk] | with_reducible apply canonical_of_state

theorem dropHeads_canon {s : State} (tile : Nat) (b : Block) (hm : s.canonical = true) : (dropHeads s tile b).canonical = true := by
  unfold dropHeads
  try dsimp only
  repeat' first
    | with_reducible exact hm | with_reducible assumption | intro _ | with_reducible apply foldl_canon | dsimp only | split
    | simp only [canonical_state_mk] | with_reducible apply canonical_of_state

theorem groomDone_canon {s : State} (tile blk : Nat) (hm : s.canonical = true) : (groomDone s tile blk).canonical = true := by
  unfold groomDone
  try dsimp only
  repeat' first
    | with_reducible exact hm | with_reducible assumption | intro _ | with_reducible apply wakeGroom_canon
    | with_reducible apply dropHeads_canon | dsimp only | split | simp only [canonical_state_mk] | with_reducible apply canonical_of_state

theorem writeGerr_canon {s : State} (tile : Nat) (cause blk pos slot : Nat) (hm : s.canonical = true) : (writeGerr s tile cause blk pos slot).canonical = true := by
  unfold writeGerr
  try dsimp only
  repeat' first
    | with_reducible exact hm | with_reducible assumption | intro _ | with_reducible apply setTileReg_canon | dsimp only | split
    | simp only [canonical_state_mk] | with_reducible apply canonical_of_state

theorem performEsc_canon {s : State} (r : FaultRec) (tile rank : Nat) (hm : s.canonical = true) : (performEsc s r tile rank).canonical = true := by
  unfold performEsc
  try dsimp only
  repeat' first
    | with_reducible exact hm | with_reducible assumption | intro _ | with_reducible apply toSupervisor_canon
    | with_reducible apply writeRecord_canon | dsimp only | split | simp only [canonical_state_mk] | with_reducible apply canonical_of_state

theorem passOn_canon {s : State} (tile : Nat) (τ : Task) (hm : s.canonical = true) : (passOn s tile τ).canonical = true := by
  unfold passOn
  try dsimp only
  repeat' first
    | with_reducible exact hm | with_reducible assumption | intro _ | with_reducible apply performEsc_canon | dsimp only | split
    | simp only [canonical_state_mk] | with_reducible apply canonical_of_state

theorem takeFault_canon {s : State} (τ : Task) (pos cause detail addr : Nat) (hm : s.canonical = true) : (takeFault s τ pos cause detail addr).canonical = true := by
  unfold takeFault
  try dsimp only
  repeat' first
    | with_reducible exact hm | with_reducible assumption | intro _ | with_reducible apply count_canon
    | with_reducible apply writeGerr_canon | with_reducible apply groomDone_canon | with_reducible apply discardEffects_canon
    | with_reducible apply State_dropTask_canon | with_reducible apply passOn_canon | with_reducible apply raiseOn_canon
    | with_reducible apply getD_canon | dsimp only | split | simp only [canonical_state_mk] | with_reducible apply canonical_of_state

theorem endTask_canon {s : State} (τ : Task) (e : Stop) (hm : s.canonical = true) : (endTask s τ e).canonical = true := by
  have hd : ∀ s' : State, s'.canonical = true → (discardEffects s' τ).canonical = true := fun s' h => discardEffects_canon τ h
  cases e with
  | fault cause detail addr => exact takeFault_canon τ τ.pos cause detail addr hm
  | throttle requeue =>
    unfold endTask
    dsimp only
    repeat' first
      | with_reducible exact hm | with_reducible apply discardEffects_canon | with_reducible apply State_dropTask_canon | split
      | simp only [canonical_state_mk] | with_reducible apply canonical_of_state | dsimp only
  | trough n w =>
    unfold endTask
    dsimp only [Option.elim]
    repeat' first
      | with_reducible exact hm | with_reducible apply clearEntries_canon | with_reducible apply groomDone_canon | with_reducible apply discardEffects_canon
      | with_reducible apply State_dropTask_canon | split | simp only [canonical_state_mk] | with_reducible apply canonical_of_state
      | dsimp only

theorem markDelivered_mem_fst {s : State} (tile : Nat) (r : FaultRec) (hm : s.canonical = true) : (markDelivered s tile r).1.canonical = true := by
  unfold markDelivered
  try dsimp only
  repeat' first
    | with_reducible exact hm | with_reducible assumption | intro _ | with_reducible apply writeRecord_canon
    | with_reducible apply getD_canon | dsimp only | split | simp only [canonical_state_mk] | with_reducible apply canonical_of_state

theorem markDelivered_canon {s : State} {tile : Nat} {r : FaultRec} {r1 : State} {r2 : FaultRec} (hm : s.canonical = true)
    (he : markDelivered s tile r = (r1, r2)) : r1.canonical = true := by
  have := markDelivered_mem_fst tile r hm
  rwa [he] at this

theorem deliverFault_canon {s : State} (tile : Nat) (r : FaultRec) (hm : s.canonical = true) : (deliverFault s tile r).canonical = true := by
  unfold deliverFault
  try dsimp only
  repeat' first
    | with_reducible exact hm | with_reducible assumption | intro _ | (with_reducible refine markDelivered_canon ?_ (by assumption))
    | with_reducible apply markDelivered_mem_fst | with_reducible apply addOut_canon | with_reducible apply toSupervisor_canon | dsimp only
    | split | simp only [canonical_state_mk] | with_reducible apply canonical_of_state

theorem unpark_canon {s : State} (tile rank c i : Nat) (hm : s.canonical = true) : (unpark s tile rank c i).canonical = true := by
  unfold unpark
  try dsimp only
  repeat' first
    | with_reducible exact hm | with_reducible assumption | intro _ | with_reducible apply setPosition_canon
    | with_reducible apply writeRecord_canon | with_reducible apply setWindow_canon | with_reducible apply retire_canon | dsimp only | split
    | simp only [canonical_state_mk] | with_reducible apply canonical_of_state

theorem runBody_canon {s : State} (f : State → Task → Body (State × Task)) (hm : s.canonical = true)
    (hf : ∀ τ, KeepsBody (f s τ)) : Keeps (runBody f s) := by
  unfold runBody
  split
  · exact keeps_fault _
  · split
    · next h => exact keeps_next (State_setTask_canon _ ((hf _).ok _ h))
    · exact keeps_next (endTask_canon _ _ hm)

theorem runTask_canon {s : State} (f : State → Task → Body Task) (hm : s.canonical = true) : Keeps (runTask f s) := by
  unfold runTask
  split
  · exact keeps_fault _
  · split
    · exact keeps_next (State_setTask_canon _ hm)
    · exact keeps_next (endTask_canon _ _ hm)

theorem setPen_canon {s : State} (tile n : Nat) (p : Pen) (hm : s.canonical = true) : (setPen s tile n p).canonical = true := by
  unfold setPen
  try dsimp only
  repeat' first
    | with_reducible exact hm | with_reducible assumption | intro _ | dsimp only | split | simp only [canonical_state_mk]
    | with_reducible apply canonical_of_state

theorem sramWrite_canon {s : State} (a n v : Nat) (h : s.canonical = true) : (sramWrite s a n v).canonical = true := by
  simp only [State.canonical, Mem.canonical, Bool.and_eq_true] at h
  simp only [sramWrite, State.canonical, Mem.canonical, Bool.and_eq_true]
  exact ⟨⟨⟨h.1.1.1, wf_mwrite _ _ _ _ h.1.1.2⟩, h.1.2⟩, h.2⟩

theorem fixSram_canon {s : State} (a n : Nat) (hm : s.canonical = true) : (fixSram s a n).canonical = true := by
  unfold fixSram
  try dsimp only
  repeat' first
    | with_reducible exact hm | with_reducible assumption | intro _ | with_reducible apply correctSoft_canon | dsimp only | split
    | simp only [canonical_state_mk] | with_reducible apply canonical_of_state

theorem sramWriteBytes_canon {s : State} (a : Nat) (bs : List (BitVec 8)) (hm : s.canonical = true) : (sramWriteBytes s a bs).canonical = true := by
  unfold sramWriteBytes
  try dsimp only
  repeat' first
    | with_reducible exact hm | with_reducible assumption | intro _ | with_reducible apply sramWrite_canon | dsimp only | split
    | simp only [canonical_state_mk] | with_reducible apply canonical_of_state

theorem fixPen_canon {s : State} (tile paddr n : Nat) (hm : s.canonical = true) : (fixPen s tile paddr n).canonical = true := by
  unfold fixPen
  try dsimp only
  repeat' first
    | with_reducible exact hm | with_reducible assumption | intro _ | with_reducible apply fixSram_canon | dsimp only | split
    | simp only [canonical_state_mk] | with_reducible apply canonical_of_state

theorem penWrite_canon {s : State} (tile paddr n v : Nat) (hm : s.canonical = true) : (penWrite s tile paddr n v).canonical = true := by
  unfold penWrite
  try dsimp only
  repeat' first
    | with_reducible exact hm | with_reducible assumption | intro _ | with_reducible apply sramWrite_canon | dsimp only | split
    | simp only [canonical_state_mk] | with_reducible apply canonical_of_state

theorem stpWrite_canon {s : State} (ls : List Lane) (hm : s.canonical = true) : (stpWrite s ls).canonical = true := by
  unfold stpWrite
  try dsimp only
  repeat' first
    | with_reducible exact hm | with_reducible assumption | intro _ | with_reducible apply clearSram_canon
    | with_reducible apply sramWrite_canon | with_reducible apply foldl_canon | dsimp only | split | simp only [canonical_state_mk]
    | with_reducible apply canonical_of_state

theorem bankGranted_canon {s : State} (tile bank port : Nat) (hm : s.canonical = true) : (bankGranted s tile bank port).canonical = true := by
  unfold bankGranted
  try dsimp only
  repeat' first
    | with_reducible exact hm | with_reducible assumption | intro _ | dsimp only | split | simp only [canonical_state_mk]
    | with_reducible apply canonical_of_state | with_reducible apply canonical_mk

theorem performStp_canon {s : State} (o : Op) (hm : s.canonical = true) : (performStp s o).canonical = true := by
  unfold performStp
  try dsimp only
  repeat' first
    | with_reducible exact hm | with_reducible assumption | intro _ | with_reducible apply dropOp_canon
    | with_reducible apply bankGranted_canon | with_reducible apply stpWrite_canon | with_reducible apply foldl_canon | dsimp only | split
    | simp only [canonical_state_mk] | with_reducible apply canonical_of_state

theorem drainStp_canon {s : State} (tile : Nat) (hm : s.canonical = true) : (drainStp s tile).canonical = true := by
  unfold drainStp
  try dsimp only
  repeat' first
    | with_reducible exact hm | with_reducible assumption | intro _ | with_reducible apply performStp_canon
    | with_reducible apply foldl_canon | dsimp only | split | simp only [canonical_state_mk] | with_reducible apply canonical_of_state

theorem drainBefore_canon {s : State} (tile id : Nat) (hm : s.canonical = true) : (drainBefore s tile id).canonical = true := by
  unfold drainBefore
  try dsimp only
  repeat' first
    | with_reducible exact hm | with_reducible assumption | intro _ | with_reducible apply performStp_canon
    | with_reducible apply foldl_canon | dsimp only | split | simp only [canonical_state_mk] | with_reducible apply canonical_of_state

theorem grantWord_canon {s : State} (o : Op) (x : Lane) (hm : s.canonical = true) : (grantWord s o x).canonical = true := by
  unfold grantWord
  try dsimp only
  repeat' first
    | with_reducible exact hm | with_reducible assumption | intro _ | with_reducible apply stpWrite_canon
    | with_reducible apply dropOp_canon | with_reducible apply setOp_canon | dsimp only | split | simp only [canonical_state_mk]
    | with_reducible apply canonical_of_state

theorem execBankGrant_canon {s : State} (hm : s.canonical = true) : Keeps (execBankGrant s) := by
  unfold execBankGrant
  try dsimp only
  repeat' first
    | with_reducible exact hm | with_reducible assumption | intro _ | with_reducible exact keeps_fault _
    | with_reducible exact keeps_refused _ | with_reducible refine keeps_next ?_ | with_reducible apply bankGranted_canon
    | with_reducible apply grantWord_canon | dsimp only | split | simp only [canonical_state_mk] | with_reducible apply canonical_of_state

theorem execSramScrub_canon {s : State} (hm : s.canonical = true) : Keeps (execSramScrub s) := by
  unfold execSramScrub
  try dsimp only
  repeat' first
    | with_reducible exact hm | with_reducible assumption | intro _ | with_reducible exact keeps_fault _
    | with_reducible exact keeps_refused _ | with_reducible refine keeps_next ?_ | with_reducible apply correctSoft_canon
    | with_reducible apply count_canon | dsimp only | split | simp only [canonical_state_mk] | with_reducible apply canonical_of_state
    | with_reducible apply canonical_mk

theorem execLdp_canon {s : State} (a : Src) (i : Nat) (t : Target) (hm : s.canonical = true) : Keeps (execLdp a i t s) := by
  unfold execLdp
  try dsimp only
  repeat' first
    | with_reducible exact hm | with_reducible assumption | intro _ | with_reducible exact keeps_fault _
    | with_reducible exact keeps_refused _ | with_reducible refine keeps_next ?_ | with_reducible apply runBody_canon
    | with_reducible apply drainStp_canon | with_reducible apply fixSram_canon | (with_reducible refine runBody_canon _ ?_ ?_)
    | with_reducible apply keepsBody_bind | with_reducible apply keepsBody_ok | exact keepsBody_error _ | exact keepsBody_stop _ _
    | with_reducible apply foldl_canon | dsimp only | split | simp only [canonical_state_mk] | with_reducible apply canonical_of_state

theorem flipBack_canon {s : State} (tile n : Nat) (hm : s.canonical = true) : (flipBack s tile n).canonical = true := by
  unfold flipBack
  try dsimp only
  repeat' first
    | with_reducible exact hm | with_reducible assumption | intro _ | with_reducible apply setPen_canon | dsimp only | split
    | simp only [canonical_state_mk] | with_reducible apply canonical_of_state

theorem settleStore_canon {s : State} (o : Op) (hm : s.canonical = true) : (settleStore s o).canonical = true := by
  unfold settleStore
  try dsimp only
  repeat' first
    | with_reducible exact hm | with_reducible assumption | intro _ | with_reducible apply dropOp_canon | with_reducible apply setOp_canon
    | dsimp only | split | simp only [canonical_state_mk] | with_reducible apply canonical_of_state

theorem ackLine_canon {s : State} (tile line : Nat) (hm : s.canonical = true) : (ackLine s tile line).canonical = true := by
  unfold ackLine
  try dsimp only
  repeat' first
    | with_reducible exact hm | with_reducible assumption | intro _ | with_reducible apply settleStore_canon
    | with_reducible apply foldl_canon | dsimp only | split | simp only [canonical_state_mk] | with_reducible apply canonical_of_state

theorem clearStash_canon {s : State} (whole : Nat → Bool) (hm : s.canonical = true) : (clearStash s whole).canonical = true := by
  unfold clearStash
  try dsimp only
  repeat' first
    | with_reducible exact hm | with_reducible assumption | intro _ | with_reducible apply clearSram_canon | dsimp only | split
    | simp only [canonical_state_mk] | with_reducible apply canonical_of_state | with_reducible apply canonical_mk

theorem fixStash_canon {s : State} (tile pa n : Nat) (hm : s.canonical = true) : (fixStash s tile pa n).canonical = true := by
  unfold fixStash
  try dsimp only
  repeat' first
    | with_reducible exact hm | with_reducible assumption | intro _ | with_reducible apply correctSoft_canon | dsimp only | split
    | simp only [canonical_state_mk] | with_reducible apply canonical_of_state

theorem dropLine_canon {s : State} (tile line : Nat) (hm : s.canonical = true) : (dropLine s tile line).canonical = true := by
  unfold dropLine
  try dsimp only
  repeat' first
    | with_reducible exact hm | with_reducible assumption | intro _ | with_reducible apply clearStash_canon
    | with_reducible apply ackLine_canon | dsimp only | split | simp only [canonical_state_mk] | with_reducible apply canonical_of_state
    | with_reducible apply canonical_mk

theorem writeBackLine_canon {s : State} (tile line : Nat) (hm : s.canonical = true) : (writeBackLine s tile line).canonical = true := by
  unfold writeBackLine
  try dsimp only
  repeat' first
    | with_reducible exact hm | with_reducible assumption | intro _ | with_reducible apply frameless_canon
    | with_reducible apply dropLine_canon | with_reducible apply fixStash_canon | with_reducible apply homeSet_canon
    | with_reducible apply clearBad_canon | with_reducible apply ackLine_canon | with_reducible apply foldl_canon | dsimp only | split
    | simp only [canonical_state_mk] | with_reducible apply canonical_of_state | with_reducible apply canonical_mk

theorem writeBackAll_canon {s : State} (tile : Nat) (hm : s.canonical = true) : (writeBackAll s tile).canonical = true := by
  unfold writeBackAll
  try dsimp only
  repeat' first
    | with_reducible exact hm | with_reducible assumption | intro _ | with_reducible apply writeBackLine_canon
    | with_reducible apply foldl_canon | dsimp only | split | simp only [canonical_state_mk] | with_reducible apply canonical_of_state

theorem writeBackIn_canon {s : State} (tile : Nat) (rs : List (Nat × Nat)) (hm : s.canonical = true) : (writeBackIn s tile rs).canonical = true := by
  unfold writeBackIn
  try dsimp only
  repeat' first
    | with_reducible exact hm | with_reducible assumption | intro _ | with_reducible apply writeBackLine_canon
    | with_reducible apply foldl_canon | dsimp only | split | simp only [canonical_state_mk] | with_reducible apply canonical_of_state

theorem cleanIn_canon {s : State} (tile : Nat) (rs : List (Nat × Nat)) (hm : s.canonical = true) : (cleanIn s tile rs).canonical = true := by
  unfold cleanIn
  try dsimp only
  repeat' first
    | with_reducible exact hm | with_reducible assumption | intro _ | dsimp only | split | simp only [canonical_state_mk]
    | with_reducible apply canonical_of_state | with_reducible apply canonical_mk

theorem evictLine_canon {s : State} (tile line : Nat) (hm : s.canonical = true) : (evictLine s tile line).canonical = true := by
  unfold evictLine
  try dsimp only
  repeat' first
    | with_reducible exact hm | with_reducible assumption | intro _ | with_reducible apply dropLine_canon
    | with_reducible apply writeBackLine_canon | dsimp only | split | simp only [canonical_state_mk]
    | with_reducible apply canonical_of_state

theorem makeRoom_canon {s : State} (tile line : Nat) (hm : s.canonical = true) : (makeRoom s tile line).canonical = true := by
  unfold makeRoom
  try dsimp only
  repeat' first
    | with_reducible exact hm | with_reducible assumption | intro _ | with_reducible apply evictLine_canon | dsimp only | split
    | simp only [canonical_state_mk] | with_reducible apply canonical_of_state

theorem touchLine_canon {s : State} (tile line : Nat) (hm : s.canonical = true) : (touchLine s tile line).canonical = true := by
  unfold touchLine
  try dsimp only
  repeat' first
    | with_reducible exact hm | with_reducible assumption | intro _ | dsimp only | split | simp only [canonical_state_mk]
    | with_reducible apply canonical_of_state | with_reducible apply canonical_mk

theorem correctAt_canon {s : State} (pa n : Nat) (hm : s.canonical = true) : (correctAt s pa n).canonical = true := by
  unfold correctAt
  try dsimp only
  repeat' first
    | with_reducible exact hm | with_reducible assumption | intro _ | with_reducible apply count_canon | with_reducible apply foldl_canon
    | dsimp only | split | simp only [canonical_state_mk] | with_reducible apply canonical_of_state | with_reducible apply canonical_mk

theorem readHome_mem_fst {s : State} (dom pa n : Nat) (hm : s.canonical = true) : (readHome s dom pa n).1.canonical = true := by
  unfold readHome
  try dsimp only
  repeat' first
    | with_reducible exact hm | with_reducible assumption | intro _ | with_reducible apply correctAt_canon | dsimp only | split
    | simp only [canonical_state_mk] | with_reducible apply canonical_of_state

theorem readHome_canon {s : State} {dom pa n : Nat} {r1 : State} {r2 : Option Nat} (hm : s.canonical = true)
    (he : readHome s dom pa n = (r1, r2)) : r1.canonical = true := by
  have := readHome_mem_fst dom pa n hm
  rwa [he] at this

theorem fillLine_mem_elim {s : State} (tile : Nat) (p : Phys) (hm : s.canonical = true) : KeepsSome (fillLine s tile p) := by
  unfold fillLine
  try dsimp only
  repeat' first
    | with_reducible exact hm | with_reducible assumption | intro _ | with_reducible apply correctAt_canon
    | with_reducible apply touchLine_canon | with_reducible apply makeRoom_canon | with_reducible apply clearStash_canon
    | with_reducible exact keepsSome_none | with_reducible apply keepsSome_some | with_reducible apply foldl_canon | dsimp only | split
    | simp only [canonical_state_mk] | with_reducible apply canonical_of_state | with_reducible apply canonical_mk

theorem fillLine_canon {s : State} {tile : Nat} {p : Phys} {tt : State} (hm : s.canonical = true) (he : fillLine s tile p = some tt) :
    tt.canonical = true :=
  (fillLine_mem_elim tile p hm).some tt he

theorem loadNormal_mem_fst {s : State} (tile elem : Nat) (p : Phys) (n : Nat) (hm : s.canonical = true) : (loadNormal s tile elem p n).1.canonical = true := by
  unfold loadNormal
  try dsimp only
  repeat' first
    | with_reducible exact hm | with_reducible assumption | intro _ | with_reducible apply dropLine_canon
    | with_reducible apply fixStash_canon | with_reducible apply touchLine_canon | (with_reducible refine fillLine_canon ?_ (by assumption))
    | with_reducible apply fillLine_mem_elim | with_reducible apply correctAt_canon
    | (with_reducible refine readHome_canon ?_ (by assumption)) | with_reducible apply readHome_mem_fst | with_reducible apply getD_canon
    | dsimp only | split | simp only [canonical_state_mk] | with_reducible apply canonical_of_state

theorem loadNormal_canon {s : State} {tile elem : Nat} {p : Phys} {n : Nat} {r1 : State} {r2 : Except Nat Nat} (hm : s.canonical = true)
    (he : loadNormal s tile elem p n = (r1, r2)) : r1.canonical = true := by
  have := loadNormal_mem_fst tile elem p n hm
  rwa [he] at this

theorem absorb_canon {s : State} (tile : Nat) (p : Phys) (n v : Nat) (dirty : Bool) (hm : s.canonical = true) : (absorb s tile p n v dirty).canonical = true := by
  unfold absorb
  try dsimp only
  repeat' first
    | with_reducible exact hm | with_reducible assumption | intro _ | with_reducible apply touchLine_canon
    | with_reducible apply makeRoom_canon | with_reducible apply clearStash_canon | with_reducible apply foldl_canon | dsimp only | split
    | simp only [canonical_state_mk] | with_reducible apply canonical_of_state | with_reducible apply canonical_mk

theorem execStashEviction_canon {s : State} (hm : s.canonical = true) : Keeps (execStashEviction s) := by
  unfold execStashEviction
  try dsimp only
  repeat' first
    | with_reducible exact hm | with_reducible assumption | intro _ | with_reducible exact keeps_fault _
    | with_reducible exact keeps_refused _ | with_reducible refine keeps_next ?_ | with_reducible apply evictLine_canon | dsimp only | split
    | simp only [canonical_state_mk] | with_reducible apply canonical_of_state

theorem execDramScrub_canon {s : State} (hm : s.canonical = true) : Keeps (execDramScrub s) := by
  unfold execDramScrub
  try dsimp only
  repeat' first
    | with_reducible exact hm | with_reducible assumption | intro _ | with_reducible exact keeps_fault _
    | with_reducible exact keeps_refused _ | with_reducible refine keeps_next ?_ | with_reducible apply correctAt_canon
    | with_reducible apply count_canon | with_reducible apply frameless_canon | with_reducible apply foldl_canon | dsimp only | split
    | simp only [canonical_state_mk] | with_reducible apply canonical_of_state | with_reducible apply canonical_mk

theorem tableRead_mem_fst {s : State} (pa : Nat) (hm : s.canonical = true) : (tableRead s pa).1.canonical = true := by
  unfold tableRead
  try dsimp only
  repeat' first
    | with_reducible exact hm | with_reducible assumption | intro _ | (with_reducible refine readHome_canon ?_ (by assumption))
    | with_reducible apply readHome_mem_fst | dsimp only | split | simp only [canonical_state_mk] | with_reducible apply canonical_of_state

theorem tableRead_canon {s : State} {pa : Nat} {r1 : State} {r2 : Check Nat} (hm : s.canonical = true)
    (he : tableRead s pa = (r1, r2)) : r1.canonical = true := by
  have := tableRead_mem_fst pa hm
  rwa [he] at this

theorem asidRoot_mem_fst {s : State} (asid : Nat) (hm : s.canonical = true) : (asidRoot s asid).1.canonical = true := by
  unfold asidRoot
  split
  · next h => exact tableRead_canon hm h
  · next h =>
    have h1 := tableRead_canon hm h
    split
    · next h' => exact tableRead_canon h1 h'
    · next h' => exact tableRead_canon h1 h'

theorem asidRoot_canon {s : State} {asid : Nat} {r1 : State} {r2 : Check Nat} (hm : s.canonical = true)
    (he : asidRoot s asid = (r1, r2)) : r1.canonical = true := by
  have := asidRoot_mem_fst asid hm
  rwa [he] at this

theorem walkDown_mem_fst {s : State} (va lvl page : Nat) (seen : List (Nat × Nat)) (hm : s.canonical = true) :
    (walkDown va lvl page seen s).1.canonical = true := by
  induction lvl generalizing s page seen with
  | zero =>
    unfold walkDown
    dsimp only
    split
    · next h => exact tableRead_canon hm h
    · next h => split <;> (try split) <;> exact tableRead_canon hm h
  | succ l ih =>
    unfold walkDown
    dsimp only
    split
    · next h => exact tableRead_canon hm h
    · next h =>
      split
      · exact tableRead_canon hm h
      · split
        · exact tableRead_canon hm h
        · exact ih _ _ (tableRead_canon hm h)

theorem walkDown_canon {s : State} {va lvl page : Nat} {seen : List (Nat × Nat)} {r1 : State} {r2 : Descent} (hm : s.canonical = true)
    (he : walkDown va lvl page seen s = (r1, r2)) : r1.canonical = true := by
  have := walkDown_mem_fst va lvl page seen hm
  rwa [he] at this

theorem cacheWalk_canon {s : State} (quad asid va : Nat) (seen : List (Nat × Nat)) (hm : s.canonical = true) : (cacheWalk s quad asid va seen).canonical = true := by
  unfold cacheWalk
  try dsimp only
  repeat' first
    | with_reducible exact hm | with_reducible assumption | intro _ | dsimp only | split | simp only [canonical_state_mk]
    | with_reducible apply canonical_of_state

theorem dropCached_canon {s : State} (quad asid va lvl : Nat) (hm : s.canonical = true) : (dropCached s quad asid va lvl).canonical = true := by
  unfold dropCached
  try dsimp only
  repeat' first
    | with_reducible exact hm | with_reducible assumption | intro _ | dsimp only | split | simp only [canonical_state_mk]
    | with_reducible apply canonical_of_state

theorem walkStart_mem_fst {s : State} (quad asid va : Nat) (root : Bool) (hm : s.canonical = true) :
    (walkStart s quad asid va root).1.canonical = true := by
  unfold walkStart
  split
  · exact hm
  · split
    · next h => exact asidRoot_canon hm h
    · next h => exact asidRoot_canon hm h

theorem walkStart_canon {s : State} {quad asid va : Nat} {root : Bool} {r1 : State} {r2 : Check (Nat × Nat)} (hm : s.canonical = true)
    (he : walkStart s quad asid va root = (r1, r2)) : r1.canonical = true := by
  have := walkStart_mem_fst quad asid va root hm
  rwa [he] at this

theorem walk_mem_fst {s : State} (quad asid va : Nat) (wr root : Bool) (hm : s.canonical = true) : (walk s quad asid va wr root).1.canonical = true := by
  unfold walk
  try dsimp only
  repeat' first
    | with_reducible exact hm | with_reducible assumption | intro _ | (with_reducible refine walkStart_canon ?_ (by assumption))
    | with_reducible apply walkStart_mem_fst | (with_reducible refine walkDown_canon ?_ (by assumption))
    | with_reducible apply walkDown_mem_fst | with_reducible apply cacheWalk_canon | with_reducible apply dropCached_canon
    | with_reducible apply homeWrite_canon | dsimp only | split | simp only [canonical_state_mk] | with_reducible apply canonical_of_state

theorem walk_canon {s : State} {quad asid va : Nat} {wr root : Bool} {r1 : State} {r2 : Check TbEntry} (hm : s.canonical = true)
    (he : walk s quad asid va wr root = (r1, r2)) : r1.canonical = true := by
  have := walk_mem_fst quad asid va wr root hm
  rwa [he] at this

theorem tbUse_canon {s : State} (tile : Nat) (e : TbEntry) (hm : s.canonical = true) : (tbUse s tile e).canonical = true := by
  unfold tbUse
  try dsimp only
  repeat' first
    | with_reducible exact hm | with_reducible assumption | intro _ | with_reducible apply getD_canon | dsimp only | split
    | simp only [canonical_state_mk] | with_reducible apply canonical_of_state

theorem tbInstall_canon {s : State} (tile : Nat) (e : TbEntry) (hm : s.canonical = true) : (tbInstall s tile e).canonical = true := by
  unfold tbInstall
  try dsimp only
  repeat' first
    | with_reducible exact hm | with_reducible assumption | intro _ | (with_reducible refine take_canon ?_ (by assumption))
    | with_reducible apply take_mem_fst | with_reducible apply getD_canon | dsimp only | split | simp only [canonical_state_mk]
    | with_reducible apply canonical_of_state

theorem xlateNow_mem_fst {s : State} (tile asid va : Nat) (r : Want) (hm : s.canonical = true) : (xlateNow s tile asid va r).1.canonical = true := by
  unfold xlateNow
  try dsimp only
  repeat' first
    | with_reducible exact hm | with_reducible assumption | intro _ | (with_reducible refine walk_canon ?_ (by assumption))
    | with_reducible apply walk_mem_fst | dsimp only | split | simp only [canonical_state_mk] | with_reducible apply canonical_of_state

theorem xlateNow_canon {s : State} {tile asid va : Nat} {r : Want} {r1 : State} {r2 : Check Phys} (hm : s.canonical = true)
    (he : xlateNow s tile asid va r = (r1, r2)) : r1.canonical = true := by
  have := xlateNow_mem_fst tile asid va r hm
  rwa [he] at this

theorem enterMiss_mem_elim {s : State} (o : Op) (vpn : Nat) (wr root : Bool) (hm : s.canonical = true) : KeepsSome (enterMiss s o vpn wr root) := by
  unfold enterMiss
  try dsimp only
  repeat' first
    | with_reducible exact hm | with_reducible assumption | intro _ | with_reducible exact keepsSome_none
    | with_reducible apply keepsSome_some | dsimp only | split | simp only [canonical_state_mk] | with_reducible apply canonical_of_state

theorem enterMiss_canon {s : State} {o : Op} {vpn : Nat} {wr root : Bool} {tt : State} (hm : s.canonical = true) (he : enterMiss s o vpn wr root = some tt) :
    tt.canonical = true :=
  (enterMiss_mem_elim o vpn wr root hm).some tt he

theorem setLane_canon {s : State} (id : Nat) (x : Lane) (hm : s.canonical = true) : (setLane s id x).canonical = true := by
  unfold setLane
  try dsimp only
  repeat' first
    | with_reducible exact hm | with_reducible assumption | intro _ | with_reducible apply setOp_canon | dsimp only | split
    | simp only [canonical_state_mk] | with_reducible apply canonical_of_state

theorem rewalkLane_canon {s : State} (o : Op) (x : Lane) (hm : s.canonical = true) : (rewalkLane s o x).canonical = true := by
  unfold rewalkLane
  try dsimp only
  repeat' first
    | with_reducible exact hm | with_reducible assumption | intro _ | (with_reducible refine enterMiss_canon ?_ (by assumption))
    | with_reducible apply enterMiss_mem_elim | with_reducible apply setLane_canon | dsimp only | split | simp only [canonical_state_mk]
    | with_reducible apply canonical_of_state

theorem giveLane_canon {s : State} (o : Op) (x : Lane) (e : TbEntry) (hm : s.canonical = true) : (giveLane s o x e).canonical = true := by
  unfold giveLane
  try dsimp only
  repeat' first
    | with_reducible exact hm | with_reducible assumption | intro _ | with_reducible apply setLane_canon
    | with_reducible apply rewalkLane_canon | dsimp only | split | simp only [canonical_state_mk] | with_reducible apply canonical_of_state

theorem lookupLane_canon {s : State} (o : Op) (x : Lane) (hm : s.canonical = true) : (lookupLane s o x).canonical = true := by
  unfold lookupLane
  try dsimp only
  repeat' first
    | with_reducible exact hm | with_reducible assumption | intro _ | (with_reducible refine enterMiss_canon ?_ (by assumption))
    | with_reducible apply enterMiss_mem_elim | with_reducible apply giveLane_canon | with_reducible apply tbUse_canon
    | with_reducible apply getD_canon | dsimp only | split | simp only [canonical_state_mk] | with_reducible apply canonical_of_state

theorem regionOp_canon {s : State} (o : Op) (hm : s.canonical = true) : (regionOp s o).canonical = true := by
  unfold regionOp
  try dsimp only
  repeat' first
    | with_reducible exact hm | with_reducible assumption | intro _ | with_reducible apply failOp_canon | with_reducible apply setOp_canon
    | dsimp only | split | simp only [canonical_state_mk] | with_reducible apply canonical_of_state

theorem settleLanes_canon {s : State} (id : Nat) (hm : s.canonical = true) : (settleLanes s id).canonical = true := by
  unfold settleLanes
  try dsimp only
  repeat' first
    | with_reducible exact hm | with_reducible assumption | intro _ | with_reducible apply setOp_canon | with_reducible apply regionOp_canon
    | with_reducible apply failOp_canon | dsimp only | split | simp only [canonical_state_mk] | with_reducible apply canonical_of_state

theorem execTranslationMiss_canon {s : State} (hm : s.canonical = true) : Keeps (execTranslationMiss s) := by
  unfold execTranslationMiss
  try dsimp only
  repeat' first
    | with_reducible exact hm | with_reducible assumption | intro _ | with_reducible exact keeps_fault _
    | with_reducible exact keeps_refused _ | with_reducible refine keeps_next ?_ | with_reducible apply settleLanes_canon
    | with_reducible apply lookupLane_canon | with_reducible apply foldl_canon | dsimp only | split | simp only [canonical_state_mk]
    | with_reducible apply canonical_of_state

theorem sendMisses_canon {s : State} (quad : Nat) (hm : s.canonical = true) : (sendMisses s quad).canonical = true := by
  unfold sendMisses
  try dsimp only
  repeat' first
    | with_reducible exact hm | with_reducible assumption | intro _ | with_reducible apply foldl_canon | dsimp only | split
    | simp only [canonical_state_mk] | with_reducible apply canonical_of_state

theorem execPageWalk_canon {s : State} (hm : s.canonical = true) : Keeps (execPageWalk s) := by
  unfold execPageWalk
  try dsimp only
  repeat' first
    | with_reducible exact hm | with_reducible assumption | intro _ | with_reducible exact keeps_fault _
    | with_reducible exact keeps_refused _ | with_reducible refine keeps_next ?_ | with_reducible apply sendMisses_canon | dsimp only
    | split | simp only [canonical_state_mk] | with_reducible apply canonical_of_state

theorem deliverMiss_canon {s : State} (m : Miss) (r : Check TbEntry) (hm : s.canonical = true) : (deliverMiss s m r).canonical = true := by
  unfold deliverMiss
  try dsimp only
  repeat' first
    | with_reducible exact hm | with_reducible assumption | intro _ | with_reducible apply tbInstall_canon
    | with_reducible apply giveLane_canon | with_reducible apply setLane_canon | with_reducible apply settleLanes_canon
    | with_reducible apply foldl_canon | dsimp only | split | simp only [canonical_state_mk] | with_reducible apply canonical_of_state

theorem execWalkComplete_canon {s : State} (hm : s.canonical = true) : Keeps (execWalkComplete s) := by
  unfold execWalkComplete
  try dsimp only
  repeat' first
    | with_reducible exact hm | with_reducible assumption | intro _ | with_reducible exact keeps_fault _
    | with_reducible exact keeps_refused _ | with_reducible refine keeps_next ?_ | (with_reducible refine walk_canon ?_ (by assumption))
    | with_reducible apply walk_mem_fst | with_reducible apply deliverMiss_canon | with_reducible apply foldl_canon | dsimp only | split
    | simp only [canonical_state_mk] | with_reducible apply canonical_of_state

theorem tbRemove_canon {s : State} (tile : Nat) (d : Shoot) (hm : s.canonical = true) : (tbRemove s tile d).canonical = true := by
  unfold tbRemove
  try dsimp only
  repeat' first
    | with_reducible exact hm | with_reducible assumption | intro _ | dsimp only | split | simp only [canonical_state_mk]
    | with_reducible apply canonical_of_state

theorem walkerRemove_canon {s : State} (quad : Nat) (d : Shoot) (hm : s.canonical = true) : (walkerRemove s quad d).canonical = true := by
  unfold walkerRemove
  try dsimp only
  repeat' first
    | with_reducible exact hm | with_reducible assumption | intro _ | dsimp only | split | simp only [canonical_state_mk]
    | with_reducible apply canonical_of_state

theorem issueNow_mem_fst {s : State} (τ : Task) (o : Op) (hm : s.canonical = true) : (issueNow s τ o).1.canonical = true := by
  unfold issueNow
  try dsimp only
  repeat' first
    | with_reducible exact hm | with_reducible assumption | intro _ | with_reducible apply addOp_canon | dsimp only | split
    | simp only [canonical_state_mk] | with_reducible apply canonical_of_state

theorem issueNow_canon {s : State} {τ : Task} {o : Op} {r1 : State} {r2 : Task} (hm : s.canonical = true)
    (he : issueNow s τ o = (r1, r2)) : r1.canonical = true := by
  have := issueNow_mem_fst τ o hm
  rwa [he] at this

theorem execLd_canon {s : State} (a : Src) (base : Nat) (z : Size) (sc : Nat) (t : Target) (hm : s.canonical = true) : Keeps (execLd a base z sc t s) := by
  unfold execLd
  try dsimp only
  repeat' first
    | with_reducible exact hm | with_reducible assumption | intro _ | with_reducible exact keeps_fault _
    | with_reducible exact keeps_refused _ | with_reducible refine keeps_next ?_ | with_reducible apply runBody_canon
    | (with_reducible refine issueNow_canon ?_ (by assumption)) | with_reducible apply issueNow_mem_fst
    | (with_reducible refine runBody_canon _ ?_ ?_) | with_reducible apply keepsBody_bind | with_reducible apply keepsBody_ok
    | exact keepsBody_error _ | exact keepsBody_stop _ _ | dsimp only | split | simp only [canonical_state_mk]
    | with_reducible apply canonical_of_state

theorem execPref_canon {s : State} (a : Src) (base : Nat) (z : Size) (sc : Nat) (hm : s.canonical = true) : Keeps (execPref a base z sc s) := by
  unfold execPref
  try dsimp only
  repeat' first
    | with_reducible exact hm | with_reducible assumption | intro _ | with_reducible exact keeps_fault _
    | with_reducible exact keeps_refused _ | with_reducible refine keeps_next ?_ | with_reducible apply runBody_canon
    | (with_reducible refine issueNow_canon ?_ (by assumption)) | with_reducible apply issueNow_mem_fst
    | (with_reducible refine runBody_canon _ ?_ ?_) | with_reducible apply keepsBody_bind | with_reducible apply keepsBody_ok
    | exact keepsBody_error _ | exact keepsBody_stop _ _ | dsimp only | split | simp only [canonical_state_mk]
    | with_reducible apply canonical_of_state

theorem execLdch_canon {s : State} (a b : Src) (base sc : Nat) (t : Target) (hm : s.canonical = true) : Keeps (execLdch a b base sc t s) := by
  unfold execLdch
  try dsimp only
  repeat' first
    | with_reducible exact hm | with_reducible assumption | intro _ | with_reducible exact keeps_fault _
    | with_reducible exact keeps_refused _ | with_reducible refine keeps_next ?_ | with_reducible apply runBody_canon
    | (with_reducible refine issueNow_canon ?_ (by assumption)) | with_reducible apply issueNow_mem_fst
    | (with_reducible refine runBody_canon _ ?_ ?_) | with_reducible apply keepsBody_bind | with_reducible apply keepsBody_ok
    | exact keepsBody_error _ | exact keepsBody_stop _ _ | dsimp only | split | simp only [canonical_state_mk]
    | with_reducible apply canonical_of_state

theorem raiseOp_canon {s : State} (o : Op) (cause detail addr : Nat) (hm : s.canonical = true) : (raiseOp s o cause detail addr).canonical = true := by
  unfold raiseOp
  try dsimp only
  repeat' first
    | with_reducible exact hm | with_reducible assumption | intro _ | with_reducible apply count_canon
    | with_reducible apply writeGerr_canon | with_reducible apply raiseOn_canon | dsimp only | split | simp only [canonical_state_mk]
    | with_reducible apply canonical_of_state

theorem emitOp_canon {s : State} (o : Op) (src : Nat) (v : Lanes) (h : Header → Header) (hm : s.canonical = true) :
    (emitOp s o src v h).canonical = true := by
  unfold emitOp
  try dsimp only
  repeat' first
    | with_reducible exact hm | with_reducible assumption | intro _ | with_reducible apply addOut_canon | with_reducible apply raiseOp_canon
    | dsimp only | split | simp only [canonical_state_mk] | with_reducible apply canonical_of_state

theorem dropHeld_canon {s : State} (o : Op) (hm : s.canonical = true) : (dropHeld s o).canonical = true := by
  unfold dropHeld
  try dsimp only
  repeat' first
    | with_reducible exact hm | with_reducible assumption | intro _ | dsimp only | split | simp only [canonical_state_mk]
    | with_reducible apply canonical_of_state

theorem keepOrder_canon {s : State} (o : Op) (hm : s.canonical = true) : (keepOrder s o).canonical = true := by
  unfold keepOrder
  try dsimp only
  repeat' first
    | with_reducible exact hm | with_reducible assumption | intro _ | dsimp only | split | simp only [canonical_state_mk]
    | with_reducible apply canonical_of_state

theorem retryOp_canon {s : State} (o : Op) (hm : s.canonical = true) : (retryOp s o).canonical = true := by
  unfold retryOp
  try dsimp only
  repeat' first
    | with_reducible exact hm | with_reducible assumption | intro _ | with_reducible apply keepOrder_canon
    | with_reducible apply setOp_canon | dsimp only | split | simp only [canonical_state_mk] | with_reducible apply canonical_of_state

theorem setDevice64_canon {s : State} (pa v : Nat) (hm : s.canonical = true) : (setDevice64 s pa v).canonical = true := by
  unfold setDevice64
  try dsimp only
  repeat' first
    | with_reducible exact hm | with_reducible assumption | intro _ | dsimp only | split | simp only [canonical_state_mk]
    | with_reducible apply canonical_of_state

theorem deviceWrite_canon {s : State} (pa v : Nat) (hm : s.canonical = true) : (deviceWrite s pa v).canonical = true := by
  unfold deviceWrite
  try dsimp only
  repeat' first
    | with_reducible exact hm | with_reducible assumption | intro _ | with_reducible apply setDevice64_canon | dsimp only | split
    | simp only [canonical_state_mk] | with_reducible apply canonical_of_state

theorem execDeviceRegisterWrite_canon {s : State} (hm : s.canonical = true) : Keeps (execDeviceRegisterWrite s) := by
  unfold execDeviceRegisterWrite
  try dsimp only
  repeat' first
    | with_reducible exact hm | with_reducible assumption | intro _ | with_reducible exact keeps_fault _
    | with_reducible exact keeps_refused _ | with_reducible refine keeps_next ?_ | with_reducible apply setDevice64_canon | dsimp only
    | split | simp only [canonical_state_mk] | with_reducible apply canonical_of_state

theorem atomicAt_mem_all {s : State} (o : Op) (x : Lane) (p : Phys) (f : Nat → Option Nat) (hm : s.canonical = true) : (atomicAt s o x p f).keeps := by
  unfold atomicAt
  try dsimp only
  repeat' first
    | with_reducible exact hm | with_reducible assumption | intro _ | with_reducible apply performed_ok | with_reducible apply performed_ue
    | with_reducible apply evictLine_canon | (with_reducible refine readHome_canon ?_ (by assumption))
    | with_reducible apply readHome_mem_fst | with_reducible apply homeWrite_canon | dsimp only | split | simp only [canonical_state_mk]
    | with_reducible apply canonical_of_state

theorem atomicAt_canon {s : State} {o : Op} {x : Lane} {p : Phys} {f : Nat → Option Nat} {r1 : State} {r2 : Nat} (hm : s.canonical = true) (he : atomicAt s o x p f = .ok r1 r2) :
    r1.canonical = true := by
  have := atomicAt_mem_all o x p f hm
  rwa [he] at this

theorem atomicAt_ue_canon {s : State} {o : Op} {x : Lane} {p : Phys} {f : Nat → Option Nat} {r1 : State} {r2 : Nat} (hm : s.canonical = true) (he : atomicAt s o x p f = .ue r1 r2) :
    r1.canonical = true := by
  have := atomicAt_mem_all o x p f hm
  rwa [he] at this

theorem homeLane_mem_all {s : State} (o : Op) (x : Lane) (p : Phys) (hm : s.canonical = true) : (homeLane s o x p).keeps := by
  unfold homeLane
  try dsimp only
  repeat' first
    | with_reducible exact hm | with_reducible assumption | intro _ | with_reducible apply performed_ok | with_reducible apply performed_ue
    | (with_reducible refine readHome_canon ?_ (by assumption)) | with_reducible apply readHome_mem_fst
    | with_reducible apply deviceWrite_canon | with_reducible apply homeWrite_canon | with_reducible apply atomicAt_mem_all
    | (with_reducible refine atomicAt_canon ?_ (by assumption)) | (with_reducible refine atomicAt_ue_canon ?_ (by assumption))
    | with_reducible apply writeBackIn_canon | with_reducible apply dropLine_canon | with_reducible apply foldl_canon | dsimp only | split
    | simp only [canonical_state_mk] | with_reducible apply canonical_of_state

theorem homeLane_canon {s : State} {o : Op} {x : Lane} {p : Phys} {r1 : State} {r2 : Nat} (hm : s.canonical = true) (he : homeLane s o x p = .ok r1 r2) :
    r1.canonical = true := by
  have := homeLane_mem_all o x p hm
  rwa [he] at this

theorem homeLane_ue_canon {s : State} {o : Op} {x : Lane} {p : Phys} {r1 : State} {r2 : Nat} (hm : s.canonical = true) (he : homeLane s o x p = .ue r1 r2) :
    r1.canonical = true := by
  have := homeLane_mem_all o x p hm
  rwa [he] at this

theorem stashLane_mem_all {s : State} (o : Op) (x : Lane) (p : Phys) (hm : s.canonical = true) : (stashLane s o x p).keeps := by
  unfold stashLane
  try dsimp only
  repeat' first
    | with_reducible exact hm | with_reducible assumption | intro _ | with_reducible apply performed_ok | with_reducible apply performed_ue
    | with_reducible apply ackLine_canon | with_reducible apply homeWrite_canon | with_reducible apply absorb_canon
    | (with_reducible refine fillLine_canon ?_ (by assumption)) | with_reducible apply fillLine_mem_elim
    | with_reducible apply correctAt_canon | (with_reducible refine loadNormal_canon ?_ (by assumption))
    | with_reducible apply loadNormal_mem_fst | dsimp only | split | simp only [canonical_state_mk]
    | with_reducible apply canonical_of_state

theorem stashLane_canon {s : State} {o : Op} {x : Lane} {p : Phys} {r1 : State} {r2 : Nat} (hm : s.canonical = true) (he : stashLane s o x p = .ok r1 r2) :
    r1.canonical = true := by
  have := stashLane_mem_all o x p hm
  rwa [he] at this

theorem stashLane_ue_canon {s : State} {o : Op} {x : Lane} {p : Phys} {r1 : State} {r2 : Nat} (hm : s.canonical = true) (he : stashLane s o x p = .ue r1 r2) :
    r1.canonical = true := by
  have := stashLane_mem_all o x p hm
  rwa [he] at this

theorem leave_canon {s : State} (o : Op) (hm : s.canonical = true) : (leave s o).canonical = true := by
  unfold leave
  try dsimp only
  repeat' first
    | with_reducible exact hm | with_reducible assumption | intro _ | with_reducible apply emitOp_canon | with_reducible apply dropOp_canon
    | with_reducible apply setOp_canon | dsimp only | split | simp only [canonical_state_mk] | with_reducible apply canonical_of_state

theorem complete_canon {s : State} (id : Nat) (hm : s.canonical = true) : (complete s id).canonical = true := by
  unfold complete
  try dsimp only
  repeat' first
    | with_reducible exact hm | with_reducible assumption | intro _ | with_reducible apply leave_canon | with_reducible apply setOp_canon
    | with_reducible apply dropOp_canon | dsimp only | split | simp only [canonical_state_mk] | with_reducible apply canonical_of_state

theorem laneAt_mem_all {s : State} (pl : Place) (o : Op) (x : Lane) (p : Phys) (hm : s.canonical = true) : (laneAt pl s o x p).keeps := by
  unfold laneAt
  try dsimp only
  repeat' first
    | with_reducible exact hm | with_reducible assumption | intro _ | with_reducible apply performed_ok | with_reducible apply performed_ue
    | with_reducible apply stashLane_mem_all | (with_reducible refine stashLane_canon ?_ (by assumption))
    | (with_reducible refine stashLane_ue_canon ?_ (by assumption)) | with_reducible apply homeLane_mem_all
    | (with_reducible refine homeLane_canon ?_ (by assumption)) | (with_reducible refine homeLane_ue_canon ?_ (by assumption)) | dsimp only
    | split | simp only [canonical_state_mk] | with_reducible apply canonical_of_state

theorem laneAt_canon {s : State} {pl : Place} {o : Op} {x : Lane} {p : Phys} {r1 : State} {r2 : Nat} (hm : s.canonical = true) (he : laneAt pl s o x p = .ok r1 r2) :
    r1.canonical = true := by
  have := laneAt_mem_all pl o x p hm
  rwa [he] at this

theorem laneAt_ue_canon {s : State} {pl : Place} {o : Op} {x : Lane} {p : Phys} {r1 : State} {r2 : Nat} (hm : s.canonical = true) (he : laneAt pl s o x p = .ue r1 r2) :
    r1.canonical = true := by
  have := laneAt_mem_all pl o x p hm
  rwa [he] at this

theorem performLanes_canon {s : State} (pl : Place) (id : Nat) (l : List Lane) (hm : s.canonical = true) :
    (performLanes pl id l s).canonical = true := by
  induction l generalizing s with
  | nil => exact complete_canon _ hm
  | cons x r ih =>
    unfold performLanes
    split
    · split
      · split
        · next h => exact ih (setLane_canon _ _ (laneAt_canon hm h))
        · next h =>
          split
          · exact ih (setLane_canon _ _ (laneAt_ue_canon hm h))
          · exact failOp_canon _ _ _ _ (laneAt_ue_canon hm h)
      · exact ih hm
    · exact ih hm

theorem execStashFill_canon {s : State} (hm : s.canonical = true) : Keeps (execStashFill s) := by
  unfold execStashFill
  try dsimp only
  repeat' first
    | with_reducible exact hm | with_reducible assumption | intro _ | with_reducible exact keeps_fault _
    | with_reducible exact keeps_refused _ | with_reducible refine keeps_next ?_ | with_reducible apply performLanes_canon | dsimp only
    | split | simp only [canonical_state_mk] | with_reducible apply canonical_of_state

theorem execDramRequest_canon {s : State} (hm : s.canonical = true) : Keeps (execDramRequest s) := by
  unfold execDramRequest
  try dsimp only
  repeat' first
    | with_reducible exact hm | with_reducible assumption | intro _ | with_reducible exact keeps_fault _
    | with_reducible exact keeps_refused _ | with_reducible refine keeps_next ?_ | with_reducible apply performLanes_canon | dsimp only
    | split | simp only [canonical_state_mk] | with_reducible apply canonical_of_state

theorem performSc_canon {s : State} (id : Nat) (hm : s.canonical = true) : (performSc s id).canonical = true := by
  unfold performSc
  try dsimp only
  repeat' first
    | with_reducible exact hm | with_reducible assumption | intro _ | with_reducible apply homeLane_mem_all
    | (with_reducible refine homeLane_canon ?_ (by assumption)) | (with_reducible refine homeLane_ue_canon ?_ (by assumption))
    | with_reducible apply complete_canon | with_reducible apply setLane_canon | with_reducible apply failOp_canon | dsimp only | split
    | simp only [canonical_state_mk] | with_reducible apply canonical_of_state

theorem execBatonVisit_canon {s : State} (hm : s.canonical = true) : Keeps (execBatonVisit s) := by
  unfold execBatonVisit
  try dsimp only
  repeat' first
    | with_reducible exact hm | with_reducible assumption | intro _ | with_reducible exact keeps_fault _
    | with_reducible exact keeps_refused _ | with_reducible refine keeps_next ?_ | (with_reducible refine take_canon ?_ (by assumption))
    | with_reducible apply take_mem_fst | with_reducible apply performSc_canon | with_reducible apply foldl_canon | dsimp only | split
    | simp only [canonical_state_mk] | with_reducible apply canonical_of_state

theorem execTicketOrder_canon {s : State} (hm : s.canonical = true) : Keeps (execTicketOrder s) := by
  unfold execTicketOrder
  try dsimp only
  repeat' first
    | with_reducible exact hm | with_reducible assumption | intro _ | with_reducible exact keeps_fault _
    | with_reducible exact keeps_refused _ | with_reducible refine keeps_next ?_ | with_reducible apply performSc_canon | dsimp only | split
    | simp only [canonical_state_mk] | with_reducible apply canonical_of_state

theorem execSeqOrder_canon {s : State} (hm : s.canonical = true) : Keeps (execSeqOrder s) := by
  unfold execSeqOrder
  try dsimp only
  repeat' first
    | with_reducible exact hm | with_reducible assumption | intro _ | with_reducible exact keeps_fault _
    | with_reducible exact keeps_refused _ | with_reducible refine keeps_next ?_ | with_reducible apply frameless_canon | dsimp only | split
    | simp only [canonical_state_mk] | with_reducible apply canonical_of_state

theorem admitSc_canon {s : State} (o : Op) (hm : s.canonical = true) : (admitSc s o).canonical = true := by
  unfold admitSc
  try dsimp only
  repeat' first
    | with_reducible exact hm | with_reducible assumption | intro _ | dsimp only | split | simp only [canonical_state_mk]
    | with_reducible apply canonical_of_state

theorem smodeToken_canon {s : State} (id : Nat) (hm : s.canonical = true) : (smodeToken s id).canonical = true := by
  unfold smodeToken
  try dsimp only
  repeat' first
    | with_reducible exact hm | with_reducible assumption | intro _ | with_reducible apply emitOp_canon | with_reducible apply dropOp_canon
    | dsimp only | split | simp only [canonical_state_mk] | with_reducible apply canonical_of_state

theorem execSmodeWrite_canon {s : State} (hm : s.canonical = true) : Keeps (execSmodeWrite s) := by
  unfold execSmodeWrite
  try dsimp only
  repeat' first
    | with_reducible exact hm | with_reducible assumption | intro _ | with_reducible exact keeps_fault _
    | with_reducible exact keeps_refused _ | with_reducible refine keeps_next ?_ | with_reducible apply smodeToken_canon
    | with_reducible apply admitSc_canon | with_reducible apply foldl_canon | dsimp only | split | simp only [canonical_state_mk]
    | with_reducible apply canonical_of_state

theorem respond_canon {s : State} (o : Op) (v : Lanes) (hm : s.canonical = true) : (respond s o v).canonical = true := by
  unfold respond
  try dsimp only
  repeat' first
    | with_reducible exact hm | with_reducible assumption | intro _ | with_reducible apply emitOp_canon | with_reducible apply dropOp_canon
    | dsimp only | split | simp only [canonical_state_mk] | with_reducible apply canonical_of_state

theorem execLoadResponseReturn_canon {s : State} (hm : s.canonical = true) : Keeps (execLoadResponseReturn s) := by
  unfold execLoadResponseReturn
  try dsimp only
  repeat' first
    | with_reducible exact hm | with_reducible assumption | intro _ | with_reducible exact keeps_fault _
    | with_reducible exact keeps_refused _ | with_reducible refine keeps_next ?_ | with_reducible apply respond_canon | dsimp only | split
    | simp only [canonical_state_mk] | with_reducible apply canonical_of_state

theorem chainFault_canon {s : State} (o : Op) (k : OpKind) (ls : List Lane) (hm : s.canonical = true) : (chainFault s o k ls).canonical = true := by
  unfold chainFault
  try dsimp only
  repeat' first
    | with_reducible exact hm | with_reducible assumption | intro _ | with_reducible apply addOp_canon | dsimp only | split
    | simp only [canonical_state_mk] | with_reducible apply canonical_of_state

theorem execLdchNode_canon {s : State} (hm : s.canonical = true) : Keeps (execLdchNode s) := by
  unfold execLdchNode
  try dsimp only
  repeat' first
    | with_reducible exact hm | with_reducible assumption | intro _ | with_reducible exact keeps_fault _
    | with_reducible exact keeps_refused _ | with_reducible refine keeps_next ?_ | with_reducible apply count_canon
    | with_reducible apply dropOp_canon | with_reducible apply setOp_canon | with_reducible apply emitOp_canon
    | with_reducible apply chainFault_canon | with_reducible apply getD_canon | dsimp only | split | simp only [canonical_state_mk]
    | with_reducible apply canonical_of_state

theorem execWaitEmit_canon {s : State} (hm : s.canonical = true) : Keeps (execWaitEmit s) := by
  unfold execWaitEmit
  try dsimp only
  repeat' first
    | with_reducible exact hm | with_reducible assumption | intro _ | with_reducible exact keeps_fault _
    | with_reducible exact keeps_refused _ | with_reducible refine keeps_next ?_ | with_reducible apply writeBackAll_canon
    | with_reducible apply respond_canon | dsimp only | split | simp only [canonical_state_mk] | with_reducible apply canonical_of_state

theorem execFenceRelease_canon {s : State} (hm : s.canonical = true) : Keeps (execFenceRelease s) := by
  unfold execFenceRelease
  try dsimp only
  repeat' first
    | with_reducible exact hm | with_reducible assumption | intro _ | with_reducible exact keeps_fault _
    | with_reducible exact keeps_refused _ | with_reducible refine keeps_next ?_ | with_reducible apply writeBackAll_canon
    | with_reducible apply respond_canon | dsimp only | split | simp only [canonical_state_mk] | with_reducible apply canonical_of_state

theorem execGiveFlip_canon {s : State} (hm : s.canonical = true) : Keeps (execGiveFlip s) := by
  unfold execGiveFlip
  try dsimp only
  repeat' first
    | with_reducible exact hm | with_reducible assumption | intro _ | with_reducible exact keeps_fault _
    | with_reducible exact keeps_refused _ | with_reducible refine keeps_next ?_ | with_reducible apply writeBackAll_canon
    | with_reducible apply drainStp_canon | with_reducible apply failOp_canon | with_reducible apply setPen_canon
    | with_reducible apply dropOp_canon | dsimp only | split | simp only [canonical_state_mk] | with_reducible apply canonical_of_state

theorem setHitch_canon {s : State} (pa : Nat) (h : Hitch) (hm : s.canonical = true) : (setHitch s pa h).canonical = true := by
  unfold setHitch
  try dsimp only
  repeat' first
    | with_reducible exact hm | with_reducible assumption | intro _ | dsimp only | split | simp only [canonical_state_mk]
    | with_reducible apply canonical_of_state

theorem answerOp_canon {s : State} (id : Nat) (v : Lanes) (granted : Bool) (hm : s.canonical = true) : (answerOp s id v granted).canonical = true := by
  unfold answerOp
  try dsimp only
  repeat' first
    | with_reducible exact hm | with_reducible assumption | intro _ | with_reducible apply setOp_canon | dsimp only | split
    | simp only [canonical_state_mk] | with_reducible apply canonical_of_state

theorem grantFifo_canon {s : State} (pa n : Nat) (hm : s.canonical = true) : (grantFifo pa n s).canonical = true := by
  induction n generalizing s with
  | zero => exact hm
  | succ n ih =>
    unfold grantFifo
    repeat' first
      | with_reducible exact hm | with_reducible apply ih | with_reducible apply answerOp_canon | with_reducible apply setHitch_canon
      | split | simp only [canonical_state_mk] | with_reducible apply canonical_of_state | dsimp only

theorem deactivate_canon {s : State} (pa : Nat) (hm : s.canonical = true) : (deactivate s pa).canonical = true := by
  unfold deactivate
  try dsimp only
  repeat' first
    | with_reducible exact hm | with_reducible assumption | intro _ | with_reducible apply homeWrite_canon | dsimp only | split
    | simp only [canonical_state_mk] | with_reducible apply canonical_of_state

theorem settleHitch_canon {s : State} (pa : Nat) (hm : s.canonical = true) : (settleHitch s pa).canonical = true := by
  unfold settleHitch
  try dsimp only
  repeat' first
    | with_reducible exact hm | with_reducible assumption | intro _ | with_reducible apply deactivate_canon
    | with_reducible apply grantFifo_canon | with_reducible apply getD_canon | dsimp only | split | simp only [canonical_state_mk]
    | with_reducible apply canonical_of_state

theorem readHitch_canon {s : State} (p : Phys) (hm : s.canonical = true) : (readHitch s p).canonical = true := by
  unfold readHitch
  try dsimp only
  repeat' first
    | with_reducible exact hm | with_reducible assumption | intro _ | with_reducible apply correctAt_canon | dsimp only | split
    | simp only [canonical_state_mk] | with_reducible apply canonical_of_state

theorem activate_canon {s : State} {p : Phys} {asid : Nat} {t : State} {h : Hitch} (hm : s.canonical = true)
    (he : activate s p asid = .ok (t, h)) : t.canonical = true := by
  unfold activate at he
  repeat' split at he
  all_goals first
    | (cases he; done)
    | cases he; exact hm
    | cases he; exact setHitch_canon _ _ hm

theorem hitchFault_canon {s : State} (o : Op) (pa : Nat) (e : Nat × Nat) (hm : s.canonical = true) : (hitchFault s o pa e).canonical = true := by
  unfold hitchFault
  try dsimp only
  repeat' first
    | with_reducible exact hm | with_reducible assumption | intro _ | with_reducible apply failOp_canon
    | with_reducible apply deactivate_canon | with_reducible apply getD_canon | dsimp only | split | simp only [canonical_state_mk]
    | with_reducible apply canonical_of_state

theorem requestAt_canon {s : State} (o : Op) (p : Phys) (k : HKind) (tryIt : Bool) (hm : s.canonical = true) : (requestAt s o p k tryIt).canonical = true := by
  unfold requestAt
  try dsimp only
  repeat' first
    | with_reducible exact hm | with_reducible assumption | intro _ | with_reducible apply hitchFault_canon
    | with_reducible apply readHitch_canon | (with_reducible refine activate_canon ?_ (by assumption))
    | with_reducible apply settleHitch_canon | with_reducible apply answerOp_canon | with_reducible apply setHitch_canon
    | with_reducible apply setOp_canon | dsimp only | split | simp only [canonical_state_mk] | with_reducible apply canonical_of_state

theorem boundHitch_canon {s : State} {o : Op} {p : Phys} {bind : Bool} {t : State} {h : Hitch} (hm : s.canonical = true)
    (he : boundHitch s o p bind = .ok (t, h)) : t.canonical = true := by
  unfold boundHitch at he
  repeat' split at he
  all_goals first
    | (cases he; done)
    | exact activate_canon hm he
    | cases he; exact hm

theorem bindAt_canon {s : State} (o : Op) (p : Phys) (x : Lane) (bind : Bool) (hm : s.canonical = true) : (bindAt s o p x bind).canonical = true := by
  unfold bindAt
  try dsimp only
  repeat' first
    | with_reducible exact hm | with_reducible assumption | intro _ | with_reducible apply hitchFault_canon
    | with_reducible apply readHitch_canon | (with_reducible refine boundHitch_canon ?_ (by assumption)) | with_reducible apply failOp_canon
    | with_reducible apply leave_canon | with_reducible apply setHitch_canon | with_reducible apply settleHitch_canon
    | with_reducible apply getD_canon | with_reducible apply foldr_canon | dsimp only | split | simp only [canonical_state_mk]
    | with_reducible apply canonical_of_state

theorem execHitchRequestArrival_canon {s : State} (hm : s.canonical = true) : Keeps (execHitchRequestArrival s) := by
  unfold execHitchRequestArrival
  try dsimp only
  repeat' first
    | with_reducible exact hm | with_reducible assumption | intro _ | with_reducible exact keeps_fault _
    | with_reducible exact keeps_refused _ | with_reducible refine keeps_next ?_ | with_reducible apply requestAt_canon
    | with_reducible apply bindAt_canon | dsimp only | split | simp only [canonical_state_mk] | with_reducible apply canonical_of_state

theorem abandonHold_canon {s : State} (pa c : Nat) (hm : s.canonical = true) : (abandonHold s pa c).canonical = true := by
  unfold abandonHold
  try dsimp only
  repeat' first
    | with_reducible exact hm | with_reducible assumption | intro _ | with_reducible apply settleHitch_canon
    | with_reducible apply setHitch_canon | dsimp only | split | simp only [canonical_state_mk] | with_reducible apply canonical_of_state

theorem abandonAll_canon {s : State} (c : Nat) (hm : s.canonical = true) : (abandonAll s c).canonical = true := by
  unfold abandonAll
  try dsimp only
  repeat' first
    | with_reducible exact hm | with_reducible assumption | intro _ | with_reducible apply abandonHold_canon
    | with_reducible apply foldl_canon | dsimp only | split | simp only [canonical_state_mk] | with_reducible apply canonical_of_state

theorem removeRequests_canon {s : State} (gone : HReq → Bool) (hm : s.canonical = true) : (removeRequests s gone).canonical = true := by
  unfold removeRequests
  try dsimp only
  repeat' first
    | with_reducible exact hm | with_reducible assumption | intro _ | with_reducible apply settleHitch_canon
    | with_reducible apply setHitch_canon | with_reducible apply foldl_canon | dsimp only | split | simp only [canonical_state_mk]
    | with_reducible apply canonical_of_state

theorem releaseAt_canon {s : State} (o : Op) (p : Phys) (passing : Bool) (hm : s.canonical = true) : (releaseAt s o p passing).canonical = true := by
  unfold releaseAt
  try dsimp only
  repeat' first
    | with_reducible exact hm | with_reducible assumption | intro _ | with_reducible apply writeBackIn_canon
    | with_reducible apply settleHitch_canon | with_reducible apply setHitch_canon | dsimp only | split | simp only [canonical_state_mk]
    | with_reducible apply canonical_of_state

theorem releaseArrives_canon {s : State} (o : Op) (k : HKind) (hm : s.canonical = true) : (releaseArrives s o k).canonical = true := by
  unfold releaseArrives
  try dsimp only
  repeat' first
    | with_reducible exact hm | with_reducible assumption | intro _ | with_reducible apply abandonHold_canon
    | with_reducible apply dropOp_canon | with_reducible apply failOp_canon | with_reducible apply leave_canon
    | with_reducible apply releaseAt_canon | dsimp only | split | simp only [canonical_state_mk] | with_reducible apply canonical_of_state

theorem barDone_canon {s : State} (gen : Nat) (id : Nat) (hm : s.canonical = true) : (barDone s gen id).canonical = true := by
  unfold barDone
  try dsimp only
  repeat' first
    | with_reducible exact hm | with_reducible assumption | intro _ | with_reducible apply setOp_canon | dsimp only | split
    | simp only [canonical_state_mk] | with_reducible apply canonical_of_state

theorem arrive_canon {s : State} (o : Op) (key : Nat) (hm : s.canonical = true) : (arrive s o key).canonical = true := by
  unfold arrive
  try dsimp only
  repeat' first
    | with_reducible exact hm | with_reducible assumption | intro _ | with_reducible apply setOp_canon | with_reducible apply barDone_canon
    | with_reducible apply getD_canon | with_reducible apply foldl_canon | dsimp only | split | simp only [canonical_state_mk]
    | with_reducible apply canonical_of_state

theorem execBarrierArrival_canon {s : State} (hm : s.canonical = true) : Keeps (execBarrierArrival s) := by
  unfold execBarrierArrival
  try dsimp only
  repeat' first
    | with_reducible exact hm | with_reducible assumption | intro _ | with_reducible exact keeps_fault _
    | with_reducible exact keeps_refused _ | with_reducible refine keeps_next ?_ | with_reducible apply arrive_canon
    | with_reducible apply failOp_canon | with_reducible apply releaseAt_canon | with_reducible apply getD_canon | dsimp only | split
    | simp only [canonical_state_mk] | with_reducible apply canonical_of_state

theorem setTrough_canon {s : State} (tile n : Nat) (t : Trough) (hm : s.canonical = true) : (setTrough s tile n t).canonical = true := by
  unfold setTrough
  try dsimp only
  repeat' first
    | with_reducible exact hm | with_reducible assumption | intro _ | dsimp only | split | simp only [canonical_state_mk]
    | with_reducible apply canonical_of_state

theorem ownPen_canon {s : State} (tile n eng : Nat) (hm : s.canonical = true) : (ownPen s tile n eng).canonical = true := by
  unfold ownPen
  try dsimp only
  repeat' first
    | with_reducible exact hm | with_reducible assumption | intro _ | with_reducible apply setPen_canon | dsimp only | split
    | simp only [canonical_state_mk] | with_reducible apply canonical_of_state

theorem reserve_mem_fst {s : State} (tile n : Nat) (t : Trough) (ch : Nat) (hm : s.canonical = true) : (reserve s tile n t ch).1.canonical = true := by
  unfold reserve
  try dsimp only
  repeat' first
    | with_reducible exact hm | with_reducible assumption | intro _ | with_reducible apply ownPen_canon
    | with_reducible apply setTrough_canon | dsimp only | split | simp only [canonical_state_mk] | with_reducible apply canonical_of_state

theorem reserve_canon {s : State} {tile n : Nat} {t : Trough} {ch : Nat} {r1 : State} {r2 : Nat} (hm : s.canonical = true)
    (he : reserve s tile n t ch = (r1, r2)) : r1.canonical = true := by
  have := reserve_mem_fst tile n t ch hm
  rwa [he] at this

theorem drainFreed_canon {s : State} (f tile n : Nat) (hm : s.canonical = true) : (drainFreed f s tile n).canonical = true := by
  induction f generalizing s with
  | zero => exact hm
  | succ f ih =>
    unfold drainFreed
    repeat' first
      | with_reducible exact hm | with_reducible apply ih | with_reducible apply setTrough_canon | with_reducible apply ownPen_canon | split
      | simp only [canonical_state_mk] | with_reducible apply canonical_of_state | dsimp only

theorem drainVoid_canon {s : State} (f tile n : Nat) (hm : s.canonical = true) : (drainVoid f s tile n).canonical = true := by
  induction f generalizing s with
  | zero => exact hm
  | succ f ih =>
    unfold drainVoid
    repeat' first
      | with_reducible exact hm | with_reducible apply ih | with_reducible apply setTrough_canon | split | simp only [canonical_state_mk]
      | with_reducible apply canonical_of_state | dsimp only

theorem slotFilled_canon {s : State} (tile n pen : Nat) (hm : s.canonical = true) : (slotFilled s tile n pen).canonical = true := by
  unfold slotFilled
  try dsimp only
  repeat' first
    | with_reducible exact hm | with_reducible assumption | intro _ | dsimp only | split | simp only [canonical_state_mk]
    | with_reducible apply canonical_of_state

theorem drainPosted_canon {s : State} (f tile n : Nat) (hm : s.canonical = true) : (drainPosted f s tile n).canonical = true := by
  induction f generalizing s with
  | zero => exact hm
  | succ f ih =>
    unfold drainPosted
    repeat' first
      | with_reducible exact hm | with_reducible apply ih | with_reducible apply setTrough_canon | with_reducible apply slotFilled_canon
      | with_reducible apply ownPen_canon | split | simp only [canonical_state_mk] | with_reducible apply canonical_of_state | dsimp only

theorem settleTrough_canon {s : State} (tile n : Nat) (hm : s.canonical = true) : (settleTrough s tile n).canonical = true := by
  unfold settleTrough
  try dsimp only
  repeat' first
    | with_reducible exact hm | with_reducible assumption | intro _ | with_reducible apply drainFreed_canon
    | with_reducible apply drainVoid_canon | with_reducible apply drainPosted_canon | dsimp only | split | simp only [canonical_state_mk]
    | with_reducible apply canonical_of_state

theorem take_mem_fst {s : State} (tile n : Nat) (t : Trough) (ch : Nat) (hm : s.canonical = true) : (take s tile n t ch).1.canonical = true := by
  unfold take
  try dsimp only
  repeat' first
    | with_reducible exact hm | with_reducible assumption | intro _ | with_reducible apply settleTrough_canon
    | with_reducible apply ownPen_canon | with_reducible apply setTrough_canon | dsimp only | split | simp only [canonical_state_mk]
    | with_reducible apply canonical_of_state

theorem take_canon {s : State} {tile n : Nat} {t : Trough} {ch : Nat} {r1 : State} {r2 : Nat} (hm : s.canonical = true)
    (he : take s tile n t ch = (r1, r2)) : r1.canonical = true := by
  have := take_mem_fst tile n t ch hm
  rwa [he] at this

theorem post_canon {s : State} (tile n k : Nat) (void : Bool) (hm : s.canonical = true) : (post s tile n k void).canonical = true := by
  unfold post
  try dsimp only
  repeat' first
    | with_reducible exact hm | with_reducible assumption | intro _ | with_reducible apply settleTrough_canon
    | with_reducible apply setTrough_canon | dsimp only | split | simp only [canonical_state_mk] | with_reducible apply canonical_of_state

theorem freeSlot_canon {s : State} (tile n k : Nat) (hm : s.canonical = true) : (freeSlot s tile n k).canonical = true := by
  unfold freeSlot
  try dsimp only
  repeat' first
    | with_reducible exact hm | with_reducible assumption | intro _ | with_reducible apply settleTrough_canon
    | with_reducible apply setTrough_canon | dsimp only | split | simp only [canonical_state_mk] | with_reducible apply canonical_of_state

theorem addOwned_canon {s : State} (x : Owned) (hm : s.canonical = true) : (addOwned s x).canonical = true := by
  unfold addOwned
  try dsimp only
  repeat' first
    | with_reducible exact hm | with_reducible assumption | intro _ | dsimp only | split | simp only [canonical_state_mk]
    | with_reducible apply canonical_of_state

theorem dropOwned_canon {s : State} (tile rank c i : Nat) (hm : s.canonical = true) : (dropOwned s tile rank c i).canonical = true := by
  unfold dropOwned
  try dsimp only
  repeat' first
    | with_reducible exact hm | with_reducible assumption | intro _ | with_reducible apply freeSlot_canon | with_reducible apply post_canon
    | with_reducible apply foldl_canon | dsimp only | split | simp only [canonical_state_mk] | with_reducible apply canonical_of_state

theorem moveBody_canon (isTake : Bool) (a : Src) (np : Nat) (t : Target) {s : State} (τ : Task) (hm : s.canonical = true) : KeepsBody
    (moveBody isTake a np t s τ) := by
  unfold moveBody
  try dsimp only
  repeat' first
    | with_reducible exact hm | with_reducible assumption | intro _ | with_reducible apply addOwned_canon
    | (with_reducible refine reserve_canon ?_ (by assumption)) | with_reducible apply reserve_mem_fst
    | (with_reducible refine take_canon ?_ (by assumption)) | with_reducible apply take_mem_fst
    | (with_reducible refine runBody_canon _ ?_ ?_) | with_reducible apply keepsBody_bind | with_reducible apply keepsBody_ok
    | exact keepsBody_error _ | exact keepsBody_stop _ _ | dsimp only | split | simp only [canonical_state_mk]
    | with_reducible apply canonical_of_state

theorem execQrsv_canon (a : Src) (np : Nat) (t : Target) {s : State} (hm : s.canonical = true) : Keeps (execQrsv a np t s) := by
  unfold execQrsv
  try dsimp only
  repeat' first
    | with_reducible exact hm | with_reducible assumption | intro _ | with_reducible exact keeps_fault _
    | with_reducible exact keeps_refused _ | with_reducible refine keeps_next ?_ | with_reducible apply moveBody_canon
    | with_reducible apply runBody_canon | (with_reducible refine runBody_canon _ ?_ ?_) | with_reducible apply keepsBody_bind
    | with_reducible apply keepsBody_ok | exact keepsBody_error _ | exact keepsBody_stop _ _ | dsimp only | split
    | simp only [canonical_state_mk] | with_reducible apply canonical_of_state

theorem execQtake_canon (a : Src) (np : Nat) (t : Target) {s : State} (hm : s.canonical = true) : Keeps (execQtake a np t s) := by
  unfold execQtake
  try dsimp only
  repeat' first
    | with_reducible exact hm | with_reducible assumption | intro _ | with_reducible exact keeps_fault _
    | with_reducible exact keeps_refused _ | with_reducible refine keeps_next ?_ | with_reducible apply moveBody_canon
    | with_reducible apply runBody_canon | (with_reducible refine runBody_canon _ ?_ ?_) | with_reducible apply keepsBody_bind
    | with_reducible apply keepsBody_ok | exact keepsBody_error _ | exact keepsBody_stop _ _ | dsimp only | split
    | simp only [canonical_state_mk] | with_reducible apply canonical_of_state

theorem commitSlot_canon {s : State} (o : Op) (pen : Nat) (isFree : Bool) (hm : s.canonical = true) : (commitSlot s o pen isFree).canonical = true := by
  unfold commitSlot
  try dsimp only
  repeat' first
    | with_reducible exact hm | with_reducible assumption | intro _ | with_reducible apply drainStp_canon
    | with_reducible apply raiseOp_canon | with_reducible apply freeSlot_canon | with_reducible apply post_canon | dsimp only | split
    | simp only [canonical_state_mk] | with_reducible apply canonical_of_state

theorem notify_canon {s : State} (tile elem rank c i blk pos port pen : Nat) (hm : s.canonical = true) : (notify s tile elem rank c i blk pos port pen).canonical = true := by
  unfold notify
  try dsimp only
  repeat' first
    | with_reducible exact hm | with_reducible assumption | intro _ | with_reducible apply addOut_canon | with_reducible apply raiseOn_canon
    | dsimp only | split | simp only [canonical_state_mk] | with_reducible apply canonical_of_state

theorem execTroughWaiterServe_canon {s : State} (hm : s.canonical = true) : Keeps (execTroughWaiterServe s) := by
  unfold execTroughWaiterServe
  try dsimp only
  repeat' first
    | with_reducible exact hm | with_reducible assumption | intro _ | with_reducible exact keeps_fault _
    | with_reducible exact keeps_refused _ | with_reducible refine keeps_next ?_ | with_reducible apply setTrough_canon
    | with_reducible apply raiseOn_canon | (with_reducible refine take_canon ?_ (by assumption)) | with_reducible apply take_mem_fst
    | (with_reducible refine reserve_canon ?_ (by assumption)) | with_reducible apply reserve_mem_fst | with_reducible apply addOwned_canon
    | with_reducible apply notify_canon | dsimp only | split | simp only [canonical_state_mk] | with_reducible apply canonical_of_state

theorem writeHalt_canon {s : State} (tile elem : Nat) (τ : Task) (hm : s.canonical = true) : (writeHalt s tile elem τ).canonical = true := by
  unfold writeHalt
  try dsimp only
  repeat' first
    | with_reducible exact hm | with_reducible assumption | intro _ | with_reducible apply recordWrite_canon
    | with_reducible apply State_tick_canon | dsimp only | split | simp only [canonical_state_mk] | with_reducible apply canonical_of_state

theorem endHalted_canon {s : State} (tile : Nat) (τ : Task) (hm : s.canonical = true) : (endHalted s tile τ).canonical = true := by
  unfold endHalted
  try dsimp only
  repeat' first
    | with_reducible exact hm | with_reducible assumption | intro _ | with_reducible apply wakeGroom_canon
    | with_reducible apply groomDone_canon | with_reducible apply passOn_canon | dsimp only | split

theorem haltTask_canon {s : State} (tile elem : Nat) (τ : Task) (detail : Nat) (hm : s.canonical = true) : (haltTask s tile elem τ detail).canonical = true := by
  unfold haltTask
  try dsimp only
  repeat' first
    | with_reducible exact hm | with_reducible assumption | intro _ | with_reducible apply setPe_canon | with_reducible apply step_canon
    | with_reducible apply writeHalt_canon | with_reducible apply parkFrame_canon | with_reducible apply raiseOn_canon
    | with_reducible apply enqueueFault_canon | with_reducible apply discardEffects_canon | with_reducible apply endHalted_canon
    | dsimp only | split | simp only [canonical_state_mk] | with_reducible apply canonical_of_state

theorem haltContext_canon {s : State} (c : Nat) (brk : Option (Nat × Nat × Nat)) (hm : s.canonical = true) : (haltContext s c brk).canonical = true := by
  unfold haltContext
  try dsimp only
  repeat' first
    | with_reducible exact hm | with_reducible assumption | intro _ | with_reducible apply haltTask_canon | with_reducible apply foldl_canon
    | dsimp only | split | simp only [canonical_state_mk] | with_reducible apply canonical_of_state

theorem execHalt_canon {s : State} (hm : s.canonical = true) : Keeps (execHalt s) := by
  unfold execHalt
  try dsimp only
  repeat' first
    | with_reducible exact hm | with_reducible assumption | intro _ | with_reducible exact keeps_fault _
    | with_reducible exact keeps_refused _ | with_reducible refine keeps_next ?_ | with_reducible apply haltContext_canon | dsimp only
    | split | simp only [canonical_state_mk] | with_reducible apply canonical_of_state

theorem execStepHalt_canon {s : State} (hm : s.canonical = true) : Keeps (execStepHalt s) := by
  unfold execStepHalt
  try dsimp only
  repeat' first
    | with_reducible exact hm | with_reducible assumption | intro _ | with_reducible exact keeps_fault _
    | with_reducible exact keeps_refused _ | with_reducible refine keeps_next ?_ | with_reducible apply step_canon
    | with_reducible apply haltTask_canon | dsimp only | split | simp only [canonical_state_mk] | with_reducible apply canonical_of_state

theorem fixHalted_canon {s : State} (tile elem : Nat) (τ : Task) (hm : s.canonical = true) : (fixHalted s tile elem τ).canonical = true := by
  unfold fixHalted
  try dsimp only
  repeat' first
    | with_reducible exact hm | with_reducible assumption | intro _ | with_reducible apply correctAt_canon
    | with_reducible apply correctSoft_canon | with_reducible apply foldl_canon | dsimp only | split | simp only [canonical_state_mk]
    | with_reducible apply canonical_of_state

theorem resumeHalted_canon {s : State} (tile elem : Nat) (r : FaultRec) (hm : s.canonical = true) : (resumeHalted s tile elem r).canonical = true := by
  unfold resumeHalted
  try dsimp only
  repeat' first
    | with_reducible exact hm | with_reducible assumption | intro _ | with_reducible apply fixHalted_canon | dsimp only | split
    | simp only [canonical_state_mk] | with_reducible apply canonical_of_state

theorem takeHalted_canon {s : State} (tile elem : Nat) (hm : s.canonical = true) : (takeHalted s tile elem).canonical = true := by
  unfold takeHalted
  try dsimp only
  repeat' first
    | with_reducible exact hm | with_reducible assumption | intro _ | with_reducible apply raiseOn_canon
    | with_reducible apply discardEffects_canon | with_reducible apply wakeGroom_canon | with_reducible apply setPe_canon | dsimp only
    | split | simp only [canonical_state_mk] | with_reducible apply canonical_of_state

theorem openWindows_canon {s : State} (c : Nat) (x : Ctx) (hm : s.canonical = true) : (openWindows s c x).canonical = true := by
  unfold openWindows
  try dsimp only
  repeat' first
    | with_reducible exact hm | with_reducible assumption | intro _ | with_reducible apply setWindow_canon
    | with_reducible apply foldl_canon | dsimp only | split | simp only [canonical_state_mk] | with_reducible apply canonical_of_state

theorem makeLive_canon {s : State} (c : Nat) (hm : s.canonical = true) : (makeLive s c).canonical = true := by
  unfold makeLive
  try dsimp only
  repeat' first
    | with_reducible exact hm | with_reducible assumption | intro _ | with_reducible apply openWindows_canon | dsimp only | split
    | simp only [canonical_state_mk] | with_reducible apply canonical_of_state

theorem reserveCtx_mem_fst {s : State} (τ : Task) (n : Nat) (c : Ctx) (hm : s.canonical = true) : (reserveCtx s τ n c).1.canonical = true := by
  unfold reserveCtx
  try dsimp only
  repeat' first
    | with_reducible exact hm | with_reducible assumption | intro _ | dsimp only | split | simp only [canonical_state_mk]
    | with_reducible apply canonical_of_state

theorem reserveCtx_canon {s : State} {τ : Task} {n : Nat} {c : Ctx} {r1 : State} {r2 : Task} (hm : s.canonical = true)
    (he : reserveCtx s τ n c = (r1, r2)) : r1.canonical = true := by
  have := reserveCtx_mem_fst τ n c hm
  rwa [he] at this

theorem execCtxa_canon {s : State} (a : Src) (th : Bool) (t : Target) (hm : s.canonical = true) : Keeps (execCtxa a th t s) := by
  unfold execCtxa
  try dsimp only
  repeat' first
    | with_reducible exact hm | with_reducible assumption | intro _ | with_reducible exact keeps_fault _
    | with_reducible exact keeps_refused _ | with_reducible refine keeps_next ?_ | with_reducible apply runBody_canon
    | (with_reducible refine reserveCtx_canon ?_ (by assumption)) | with_reducible apply reserveCtx_mem_fst
    | (with_reducible refine runBody_canon _ ?_ ?_) | with_reducible apply keepsBody_bind | with_reducible apply keepsBody_ok
    | exact keepsBody_error _ | exact keepsBody_stop _ _ | dsimp only | split | simp only [canonical_state_mk]
    | with_reducible apply canonical_of_state

theorem execSpawn_canon {s : State} (a b : Src) (th hv : Bool) (t : Target) (hm : s.canonical = true) : Keeps (execSpawn a b th hv t s) := by
  unfold execSpawn
  try dsimp only
  repeat' first
    | with_reducible exact hm | with_reducible assumption | intro _ | with_reducible exact keeps_fault _
    | with_reducible exact keeps_refused _ | with_reducible refine keeps_next ?_ | with_reducible apply runBody_canon
    | (with_reducible refine reserveCtx_canon ?_ (by assumption)) | with_reducible apply reserveCtx_mem_fst
    | (with_reducible refine runBody_canon _ ?_ ?_) | with_reducible apply keepsBody_bind | with_reducible apply keepsBody_ok
    | exact keepsBody_error _ | exact keepsBody_stop _ _ | with_reducible apply getD_canon | dsimp only | split
    | simp only [canonical_state_mk] | with_reducible apply canonical_of_state

theorem spawnChild_canon {s : State} (o : Op) (child : Nat) (hm : s.canonical = true) : (spawnChild s o child).canonical = true := by
  unfold spawnChild
  try dsimp only
  repeat' first
    | with_reducible exact hm | with_reducible assumption | intro _ | with_reducible apply makeLive_canon
    | with_reducible apply addOut_canon | dsimp only | split | simp only [canonical_state_mk] | with_reducible apply canonical_of_state

theorem spawnAfter_canon {s : State} (o : Op) (child : Nat) (hm : s.canonical = true) : (spawnAfter s o child).canonical = true := by
  unfold spawnAfter
  try dsimp only
  repeat' first
    | with_reducible exact hm | with_reducible assumption | intro _ | with_reducible apply spawnChild_canon
    | with_reducible apply dropOp_canon | with_reducible apply addOp_canon | with_reducible apply foldl_canon | dsimp only | split
    | simp only [canonical_state_mk] | with_reducible apply canonical_of_state

theorem spawnRelease_canon {s : State} (o : Op) (child : Nat) (hm : s.canonical = true) : (spawnRelease s o child).canonical = true := by
  unfold spawnRelease
  try dsimp only
  repeat' first
    | with_reducible exact hm | with_reducible assumption | intro _ | with_reducible apply failOp_canon
    | with_reducible apply spawnAfter_canon | with_reducible apply releaseAt_canon | dsimp only | split | simp only [canonical_state_mk]
    | with_reducible apply canonical_of_state

theorem execHitchReleaseArrival_canon {s : State} (hm : s.canonical = true) : Keeps (execHitchReleaseArrival s) := by
  unfold execHitchReleaseArrival
  try dsimp only
  repeat' first
    | with_reducible exact hm | with_reducible assumption | intro _ | with_reducible exact keeps_fault _
    | with_reducible exact keeps_refused _ | with_reducible refine keeps_next ?_ | with_reducible apply releaseArrives_canon
    | with_reducible apply spawnRelease_canon | dsimp only | split | simp only [canonical_state_mk]
    | with_reducible apply canonical_of_state

theorem execHitchGrantArrival_canon {s : State} (hm : s.canonical = true) : Keeps (execHitchGrantArrival s) := by
  have ha (pa tile : Nat) : (cleanIn s tile (regionsAt s pa)).canonical = true := cleanIn_canon _ _ hm
  have he (o : Op) (pa : Nat) : ((acquireTile s o).elim s (fun tile => cleanIn s tile (regionsAt s pa))).canonical = true := by
    cases acquireTile s o with
    | none => exact hm
    | some tile => exact ha pa tile
  unfold execHitchGrantArrival
  split
  · exact keeps_next hm
  · split
    · exact keeps_next hm
    · dsimp only
      split
      · refine keeps_next (respond_canon _ _ ?_)
        split
        · exact ha _ _
        · exact hm
      · refine keeps_next (respond_canon _ _ ?_)
        split
        · exact ha _ _
        · exact hm
      · exact keeps_next (dropOp_canon _ (he _ _))
      · exact keeps_next (respond_canon _ _ hm)
      · exact keeps_next (respond_canon _ _ hm)
      · exact keeps_next (respond_canon _ _ hm)
      · exact keeps_next hm

theorem endContext_canon {s : State} (o : Op) (c : Nat) (hm : s.canonical = true) : (endContext s o c).canonical = true := by
  unfold endContext
  try dsimp only
  repeat' first
    | with_reducible exact hm | with_reducible assumption | intro _ | with_reducible apply dropOp_canon | dsimp only | split
    | simp only [canonical_state_mk] | with_reducible apply canonical_of_state

theorem commitMts_canon {s : State} (o : Op) (n : Nat) (v : Word) (hm : s.canonical = true) : (commitMts s o n v).canonical = true := by
  unfold commitMts
  try dsimp only
  repeat' first
    | with_reducible exact hm | with_reducible assumption | intro _ | with_reducible apply foldl_canon | dsimp only | split
    | simp only [canonical_state_mk] | with_reducible apply canonical_of_state

theorem execBrk_canon {s : State} (code : Nat) (hm : s.canonical = true) : Keeps (execBrk code s) := by
  unfold execBrk
  try dsimp only
  repeat' first
    | with_reducible exact hm | with_reducible assumption | intro _ | with_reducible exact keeps_fault _
    | with_reducible exact keeps_refused _ | with_reducible refine keeps_next ?_ | with_reducible apply State_setTask_canon
    | with_reducible apply haltContext_canon | dsimp only | split | simp only [canonical_state_mk] | with_reducible apply canonical_of_state

theorem clearWindows_canon {s : State} (c : Nat) (x : Ctx) (hm : s.canonical = true) : (clearWindows s c x).canonical = true := by
  unfold clearWindows
  try dsimp only
  repeat' first
    | with_reducible exact hm | with_reducible assumption | intro _ | with_reducible apply foldl_canon | dsimp only | split
    | simp only [canonical_state_mk] | with_reducible apply canonical_of_state

theorem execContextFree_canon {s : State} (hm : s.canonical = true) : Keeps (execContextFree s) := by
  unfold execContextFree
  try dsimp only
  repeat' first
    | with_reducible exact hm | with_reducible assumption | intro _ | with_reducible exact keeps_fault _
    | with_reducible exact keeps_refused _ | with_reducible refine keeps_next ?_ | with_reducible apply endContext_canon
    | with_reducible apply removeRequests_canon | with_reducible apply abandonAll_canon | with_reducible apply clearWindows_canon
    | with_reducible apply requeueHead_canon | with_reducible apply foldl_canon | dsimp only | split | simp only [canonical_state_mk]
    | with_reducible apply canonical_of_state

theorem gate1_canon {s : State} (tile v : Nat) (hm : s.canonical = true) : (gate1 s tile v).canonical = true := by
  unfold gate1
  try dsimp only
  repeat' first
    | with_reducible exact hm | with_reducible assumption | intro _ | dsimp only | split | simp only [canonical_state_mk]
    | with_reducible apply canonical_of_state

theorem ungate_canon {s : State} (tile : Nat) (hm : s.canonical = true) : (ungate s tile).canonical = true := by
  unfold ungate
  try dsimp only
  repeat' first
    | with_reducible exact hm | with_reducible assumption | intro _ | dsimp only | split | simp only [canonical_state_mk]
    | with_reducible apply canonical_of_state

theorem setQreq_canon {s : State} (quad v : Nat) (hm : s.canonical = true) : (setQreq s quad v).canonical = true := by
  unfold setQreq
  try dsimp only
  repeat' first
    | with_reducible exact hm | with_reducible assumption | intro _ | with_reducible apply ungate_canon | with_reducible apply gate1_canon
    | with_reducible apply foldl_canon | dsimp only | split | simp only [canonical_state_mk] | with_reducible apply canonical_of_state

theorem wakeQuad_canon {s : State} (quad : Nat) (hm : s.canonical = true) : (wakeQuad s quad).canonical = true := by
  unfold wakeQuad
  try dsimp only
  repeat' first
    | with_reducible exact hm | with_reducible assumption | intro _ | with_reducible apply setQreq_canon | with_reducible apply getD_canon
    | dsimp only | split | simp only [canonical_state_mk] | with_reducible apply canonical_of_state

theorem tableWord_mem_fst {s : State} (pa n : Nat) (hm : s.canonical = true) : (tableWord s pa n).1.canonical = true := by
  unfold tableWord
  try dsimp only
  repeat' first
    | with_reducible exact hm | with_reducible assumption | intro _ | with_reducible apply correctAt_canon | dsimp only | split
    | simp only [canonical_state_mk] | with_reducible apply canonical_of_state

theorem tableWord_canon {s : State} {pa n : Nat} {r1 : State} {r2 : Except Nat Nat} (hm : s.canonical = true)
    (he : tableWord s pa n = (r1, r2)) : r1.canonical = true := by
  have := tableWord_mem_fst pa n hm
  rwa [he] at this

theorem seqEntry_mem_fst {s : State} (seq : Nat) (hm : s.canonical = true) : (seqEntry s seq).1.canonical = true := by
  unfold seqEntry
  try dsimp only
  repeat' first
    | with_reducible exact hm | with_reducible assumption | intro _ | (with_reducible refine tableWord_canon ?_ (by assumption))
    | with_reducible apply tableWord_mem_fst | dsimp only | split | simp only [canonical_state_mk] | with_reducible apply canonical_of_state

theorem seqEntry_canon {s : State} {seq : Nat} {r1 : State} {r2 : Except Nat Nat} (hm : s.canonical = true)
    (he : seqEntry s seq = (r1, r2)) : r1.canonical = true := by
  have := seqEntry_mem_fst seq hm
  rwa [he] at this

theorem baleEntryAt_mem_fst {s : State} (e lh bidx : Nat) (hm : s.canonical = true) : (baleEntryAt s e lh bidx).1.canonical = true := by
  unfold baleEntryAt
  try dsimp only
  repeat' first
    | with_reducible exact hm | with_reducible assumption | intro _ | (with_reducible refine tableWord_canon ?_ (by assumption))
    | with_reducible apply tableWord_mem_fst | dsimp only | split | simp only [canonical_state_mk] | with_reducible apply canonical_of_state

theorem baleEntryAt_canon {s : State} {e lh bidx : Nat} {r1 : State} {r2 : Except Nat (Nat × Nat)} (hm : s.canonical = true)
    (he : baleEntryAt s e lh bidx = (r1, r2)) : r1.canonical = true := by
  have := baleEntryAt_mem_fst e lh bidx hm
  rwa [he] at this

theorem setMissing_canon {s : State} (f : List BaleMiss → List BaleMiss) (hm : s.canonical = true) : (setMissing s f).canonical = true := by
  unfold setMissing
  try dsimp only
  repeat' first
    | with_reducible exact hm | with_reducible assumption | intro _ | dsimp only | split | simp only [canonical_state_mk]
    | with_reducible apply canonical_of_state

theorem joinBale_mem_fst {s : State} (m : BaleMiss) (id : Nat) (hm : s.canonical = true) : (joinBale s m id).1.canonical = true := by
  unfold joinBale
  try dsimp only
  repeat' first
    | with_reducible exact hm | with_reducible assumption | intro _ | with_reducible apply setMissing_canon | dsimp only | split
    | simp only [canonical_state_mk] | with_reducible apply canonical_of_state

theorem joinBale_canon {s : State} {m : BaleMiss} {id : Nat} {r1 : State} {r2 : Looked} (hm : s.canonical = true)
    (he : joinBale s m id = (r1, r2)) : r1.canonical = true := by
  have := joinBale_mem_fst m id hm
  rwa [he] at this

theorem lookBale_mem_fst {s : State} (id tile seq lh bidx : Nat) (hm : s.canonical = true) : (lookBale s id tile seq lh bidx).1.canonical = true := by
  unfold lookBale
  try dsimp only
  repeat' first
    | with_reducible exact hm | with_reducible assumption | intro _ | (with_reducible refine joinBale_canon ?_ (by assumption))
    | with_reducible apply joinBale_mem_fst | with_reducible apply setMissing_canon | dsimp only | split | simp only [canonical_state_mk]
    | with_reducible apply canonical_of_state

theorem lookBale_canon {s : State} {id tile seq lh bidx : Nat} {r1 : State} {r2 : Looked} (hm : s.canonical = true)
    (he : lookBale s id tile seq lh bidx = (r1, r2)) : r1.canonical = true := by
  have := lookBale_mem_fst id tile seq lh bidx hm
  rwa [he] at this

theorem installBale_canon {s : State} (e : BaleEntry) (hm : s.canonical = true) : (installBale s e).canonical = true := by
  unfold installBale
  try dsimp only
  repeat' first
    | with_reducible exact hm | with_reducible assumption | intro _ | (with_reducible refine take_canon ?_ (by assumption))
    | with_reducible apply take_mem_fst | dsimp only | split | simp only [canonical_state_mk] | with_reducible apply canonical_of_state

theorem readBale_mem_fst {s : State} (tile seq lh bidx : Nat) (hm : s.canonical = true) : (readBale s tile seq lh bidx).1.canonical = true := by
  unfold readBale
  try dsimp only
  repeat' first
    | with_reducible exact hm | with_reducible assumption | intro _ | (with_reducible refine seqEntry_canon ?_ (by assumption))
    | with_reducible apply seqEntry_mem_fst | (with_reducible refine baleEntryAt_canon ?_ (by assumption))
    | with_reducible apply baleEntryAt_mem_fst | dsimp only | split | simp only [canonical_state_mk]
    | with_reducible apply canonical_of_state

theorem readBale_canon {s : State} {tile seq lh bidx : Nat} {r1 : State} {r2 : Except Nat BaleEntry} (hm : s.canonical = true)
    (he : readBale s tile seq lh bidx = (r1, r2)) : r1.canonical = true := by
  have := readBale_mem_fst tile seq lh bidx hm
  rwa [he] at this

theorem execBaleLookup_canon {s : State} (hm : s.canonical = true) : Keeps (execBaleLookup s) := by
  unfold execBaleLookup
  try dsimp only
  repeat' first
    | with_reducible exact hm | with_reducible assumption | intro _ | with_reducible exact keeps_fault _
    | with_reducible exact keeps_refused _ | with_reducible refine keeps_next ?_ | (with_reducible refine readBale_canon ?_ (by assumption))
    | with_reducible apply readBale_mem_fst | with_reducible apply installBale_canon | with_reducible apply setMissing_canon | dsimp only
    | split | simp only [canonical_state_mk] | with_reducible apply canonical_of_state

theorem freshFill_mem_fst {s : State} (x : BaleEntry) (need : Nat) (hm : s.canonical = true) : (freshFill s x need).1.canonical = true := by
  unfold freshFill
  try dsimp only
  repeat' first
    | with_reducible exact hm | with_reducible assumption | intro _ | (with_reducible refine tableWord_canon ?_ (by assumption))
    | with_reducible apply tableWord_mem_fst | dsimp only | split | simp only [canonical_state_mk] | with_reducible apply canonical_of_state

theorem freshFill_canon {s : State} {x : BaleEntry} {need : Nat} {r1 : State} {r2 : Except Nat BaleEntry} (hm : s.canonical = true)
    (he : freshFill s x need = (r1, r2)) : r1.canonical = true := by
  have := freshFill_mem_fst x need hm
  rwa [he] at this

theorem ringList_mem_fst {s : State} (e : Nat) (hm : s.canonical = true) : (ringList s e).1.canonical = true := by
  unfold ringList
  try dsimp only
  repeat' first
    | with_reducible exact hm | with_reducible assumption | intro _ | (with_reducible refine tableWord_canon ?_ (by assumption))
    | with_reducible apply tableWord_mem_fst | dsimp only | split | simp only [canonical_state_mk] | with_reducible apply canonical_of_state

theorem ringList_canon {s : State} {e : Nat} {r1 : State} {r2 : Except Nat (List Nat)} (hm : s.canonical = true)
    (he : ringList s e = (r1, r2)) : r1.canonical = true := by
  have := ringList_mem_fst e hm
  rwa [he] at this

theorem cachePlace_canon {s : State} (e seq g pkg : Nat) (hm : s.canonical = true) : (cachePlace s e seq g pkg).canonical = true := by
  unfold cachePlace
  try dsimp only
  repeat' first
    | with_reducible exact hm | with_reducible assumption | intro _ | dsimp only | split | simp only [canonical_state_mk]
    | with_reducible apply canonical_of_state

theorem resolvePlace_mem_fst {s : State} (e seq g : Nat) (hm : s.canonical = true) : (resolvePlace s e seq g).1.canonical = true := by
  unfold resolvePlace
  try dsimp only
  repeat' first
    | with_reducible exact hm | with_reducible assumption | intro _ | (with_reducible refine ringList_canon ?_ (by assumption))
    | with_reducible apply ringList_mem_fst | (with_reducible refine tableWord_canon ?_ (by assumption))
    | with_reducible apply tableWord_mem_fst | with_reducible apply cachePlace_canon | dsimp only | split | simp only [canonical_state_mk]
    | with_reducible apply canonical_of_state

theorem resolvePlace_canon {s : State} {e seq g : Nat} {r1 : State} {r2 : Placed} (hm : s.canonical = true)
    (he : resolvePlace s e seq g = (r1, r2)) : r1.canonical = true := by
  have := resolvePlace_mem_fst e seq g hm
  rwa [he] at this

theorem baleRead_mem_fst {s : State} (x : BaleEntry) (off n : Nat) (hm : s.canonical = true) : (baleRead s x off n).1.canonical = true := by
  unfold baleRead
  try dsimp only
  repeat' first
    | with_reducible exact hm | with_reducible assumption | intro _ | with_reducible apply fixSram_canon
    | (with_reducible refine readHome_canon ?_ (by assumption)) | with_reducible apply readHome_mem_fst | dsimp only | split
    | simp only [canonical_state_mk] | with_reducible apply canonical_of_state

theorem baleRead_canon {s : State} {x : BaleEntry} {off n : Nat} {r1 : State} {r2 : Option Nat} (hm : s.canonical = true)
    (he : baleRead s x off n = (r1, r2)) : r1.canonical = true := by
  have := baleRead_mem_fst x off n hm
  rwa [he] at this

theorem baleWrite_canon {s : State} (x : BaleEntry) (off n v : Nat) (hm : s.canonical = true) : (baleWrite s x off n v).canonical = true := by
  unfold baleWrite
  try dsimp only
  repeat' first
    | with_reducible exact hm | with_reducible assumption | intro _ | with_reducible apply sramWrite_canon
    | with_reducible apply homeWrite_canon | dsimp only | split | simp only [canonical_state_mk] | with_reducible apply canonical_of_state

theorem setOut_canon {s : State} (e : OutEntry) (hm : s.canonical = true) : (setOut s e).canonical = true := by
  unfold setOut
  try dsimp only
  repeat' first
    | with_reducible exact hm | with_reducible assumption | intro _ | dsimp only | split | simp only [canonical_state_mk]
    | with_reducible apply canonical_of_state

theorem execOutputBufferSend_canon {s : State} (hm : s.canonical = true) : Keeps (execOutputBufferSend s) := by
  unfold execOutputBufferSend
  try dsimp only
  repeat' first
    | with_reducible exact hm | with_reducible assumption | intro _ | with_reducible exact keeps_fault _
    | with_reducible exact keeps_refused _ | with_reducible refine keeps_next ?_ | with_reducible apply setOut_canon
    | with_reducible apply getD_canon | dsimp only | split | simp only [canonical_state_mk] | with_reducible apply canonical_of_state

theorem settleTokens_canon {s : State} (hm : s.canonical = true) : (settleTokens s).canonical = true := by
  unfold settleTokens
  try dsimp only
  repeat' first
    | with_reducible exact hm | with_reducible assumption | intro _ | with_reducible apply answerHost_canon
    | with_reducible apply foldl_canon | dsimp only | split | simp only [canonical_state_mk] | with_reducible apply canonical_of_state

theorem dropFlight_canon {s : State} (f : Flight) (hm : s.canonical = true) : (dropFlight s f).canonical = true := by
  unfold dropFlight
  try dsimp only
  repeat' first
    | with_reducible exact hm | with_reducible assumption | intro _ | dsimp only | split | simp only [canonical_state_mk]
    | with_reducible apply canonical_of_state

theorem acceptFlight_canon {s : State} (f : Flight) (hm : s.canonical = true) : (acceptFlight s f).canonical = true := by
  unfold acceptFlight
  try dsimp only
  repeat' first
    | with_reducible exact hm | with_reducible assumption | intro _ | with_reducible apply dropFlight_canon
    | with_reducible apply settleTokens_canon | dsimp only | split | simp only [canonical_state_mk]
    | with_reducible apply canonical_of_state

theorem refuseFlight_canon {s : State} (f : Flight) (hm : s.canonical = true) : (refuseFlight s f).canonical = true := by
  unfold refuseFlight
  try dsimp only
  repeat' first
    | with_reducible exact hm | with_reducible assumption | intro _ | with_reducible apply dropFlight_canon | dsimp only | split
    | simp only [canonical_state_mk] | with_reducible apply canonical_of_state

theorem lateToken_canon {s : State} (tile rank : Nat) (h : Header) (hm : s.canonical = true) : (lateToken s tile rank h).canonical = true
    := by
  unfold lateToken
  try dsimp only
  repeat' first
    | with_reducible exact hm | with_reducible assumption | intro _ | with_reducible apply raiseFrame_canon | dsimp only | split
    | simp only [canonical_state_mk] | with_reducible apply canonical_of_state

theorem claimFrame_canon {s : State} (tile rank c i : Nat) (hm : s.canonical = true) : (claimFrame s tile rank c i).canonical = true := by
  unfold claimFrame
  try dsimp only
  repeat' first
    | with_reducible exact hm | with_reducible assumption | intro _ | with_reducible apply setPosition_canon
    | with_reducible apply getD_canon | dsimp only | split | simp only [canonical_state_mk] | with_reducible apply canonical_of_state

theorem faultOr_canon {s : State} (f : Flight) (room : Bool) (raised : State) (hm : s.canonical = true) (hr : raised.canonical = true) :
    (faultOr s f room raised).canonical = true := by
  unfold faultOr
  split
  · exact hr
  · exact refuseFlight_canon _ hm

theorem writeSlot_canon {s : State} (f : Flight) (blk : Nat) (hm : s.canonical = true) : (writeSlot s f blk).canonical = true := by
  unfold writeSlot
  try dsimp only
  repeat' first
    | with_reducible exact hm | with_reducible assumption | intro _ | with_reducible apply clearSlot_canon
    | with_reducible apply acceptFlight_canon | with_reducible apply wake_canon | with_reducible apply faultOr_canon
    | with_reducible apply raiseFrame_canon | with_reducible apply refuseFlight_canon | dsimp only | split | simp only [canonical_state_mk]
    | with_reducible apply canonical_of_state

theorem takeIn_canon {s : State} {f : Flight} {slotOk : Nat → Block → Bool} {k : State → Nat → Block → State} {full : Block → Bool}
    (hm : s.canonical = true) (hk : ∀ s a b, s.canonical = true → (k s a b).canonical = true) :
    (takeIn s f slotOk k full).canonical = true := by
  unfold takeIn
  dsimp only
  repeat' first
    | with_reducible exact hm | with_reducible apply hk | with_reducible apply faultOr_canon | with_reducible apply enqueueFault_canon
    | with_reducible apply acceptFlight_canon | with_reducible apply count_canon | with_reducible apply refuseFlight_canon
    | with_reducible apply lateToken_canon | with_reducible apply claimFrame_canon | split | simp only [canonical_state_mk]
    | with_reducible apply canonical_of_state

theorem execTokenArrival_canon {s : State} (hm : s.canonical = true) : Keeps (execTokenArrival s) := by
  unfold execTokenArrival
  try dsimp only
  repeat' first
    | with_reducible exact hm | with_reducible assumption | intro _ | with_reducible exact keeps_fault _
    | with_reducible exact keeps_refused _ | with_reducible refine keeps_next ?_ | with_reducible apply takeIn_canon
    | with_reducible apply writeSlot_canon | dsimp only | split | simp only [canonical_state_mk] | with_reducible apply canonical_of_state

theorem forwardCancel_canon {s : State} (f : Flight) (b : Block) (hm : s.canonical = true) : (forwardCancel s f b).canonical = true := by
  unfold forwardCancel
  try dsimp only
  repeat' first
    | with_reducible exact hm | with_reducible assumption | intro _ | with_reducible apply addOut_canon | dsimp only | split
    | simp only [canonical_state_mk] | with_reducible apply canonical_of_state

theorem applyCancel_canon {s : State} (f : Flight) (blk : Nat) (b : Block) (hm : s.canonical = true) : (applyCancel s f blk b).canonical = true := by
  unfold applyCancel
  try dsimp only
  repeat' first
    | with_reducible exact hm | with_reducible assumption | intro _ | with_reducible apply clearEntries_canon
    | with_reducible apply countBlock_canon | with_reducible apply forwardCancel_canon | dsimp only | split | simp only [canonical_state_mk]
    | with_reducible apply canonical_of_state

theorem cancelBlock_canon {s : State} (f : Flight) (blk : Nat) (b : Block) (hm : s.canonical = true) : (cancelBlock s f blk b).canonical = true := by
  unfold cancelBlock
  try dsimp only
  repeat' first
    | with_reducible exact hm | with_reducible assumption | intro _ | with_reducible apply acceptFlight_canon
    | with_reducible apply applyCancel_canon | dsimp only | split | simp only [canonical_state_mk] | with_reducible apply canonical_of_state

theorem heldCancel_canon {s : State} (f : Flight) (hm : s.canonical = true) : (heldCancel s f).canonical = true := by
  unfold heldCancel
  try dsimp only
  repeat' first
    | with_reducible exact hm | with_reducible assumption | intro _ | with_reducible apply applyCancel_canon
    | with_reducible apply wake_canon | dsimp only | split | simp only [canonical_state_mk] | with_reducible apply canonical_of_state

theorem execCancelTokenArrival_canon {s : State} (hm : s.canonical = true) : Keeps (execCancelTokenArrival s) := by
  unfold execCancelTokenArrival
  try dsimp only
  repeat' first
    | with_reducible exact hm | with_reducible assumption | intro _ | with_reducible exact keeps_fault _
    | with_reducible exact keeps_refused _ | with_reducible refine keeps_next ?_ | with_reducible apply heldCancel_canon
    | with_reducible apply takeIn_canon | with_reducible apply cancelBlock_canon | with_reducible apply count_canon
    | with_reducible apply acceptFlight_canon | dsimp only | split | simp only [canonical_state_mk]
    | with_reducible apply canonical_of_state

theorem execGroomInboxArrival_canon {s : State} (hm : s.canonical = true) : Keeps (execGroomInboxArrival s) := by
  unfold execGroomInboxArrival
  try dsimp only
  repeat' first
    | with_reducible exact hm | with_reducible assumption | intro _ | with_reducible exact keeps_fault _
    | with_reducible exact keeps_refused _ | with_reducible refine keeps_next ?_ | with_reducible apply refuseFlight_canon
    | with_reducible apply acceptFlight_canon | with_reducible apply wakeGroom_canon | dsimp only | split | simp only [canonical_state_mk]
    | with_reducible apply canonical_of_state

theorem edgePhys_mem_fst {s : State} (tile asid va : Nat) (wr : Bool) (hm : s.canonical = true) : (edgePhys s tile asid va wr).1.canonical = true := by
  unfold edgePhys
  try dsimp only
  repeat' first
    | with_reducible exact hm | with_reducible assumption | intro _ | (with_reducible refine xlateNow_canon ?_ (by assumption))
    | with_reducible apply xlateNow_mem_fst | dsimp only | split | simp only [canonical_state_mk] | with_reducible apply canonical_of_state

theorem edgePhys_canon {s : State} {tile asid va : Nat} {wr : Bool} {r1 : State} {r2 : Check Phys} (hm : s.canonical = true)
    (he : edgePhys s tile asid va wr = (r1, r2)) : r1.canonical = true := by
  have := edgePhys_mem_fst tile asid va wr hm
  rwa [he] at this

theorem egressPage_canon {s : State} (tile asid va v : Nat) (p : Phys) (hm : s.canonical = true) : (egressPage s tile asid va v p).canonical = true := by
  unfold egressPage
  try dsimp only
  repeat' first
    | with_reducible exact hm | with_reducible assumption | intro _ | with_reducible apply deviceWrite_canon
    | with_reducible apply addOp_canon | with_reducible apply homeWrite_canon | dsimp only | split | simp only [canonical_state_mk]
    | with_reducible apply canonical_of_state

theorem egressWords_canon {s : State} (tile asid base : Nat) (l : List (Nat × Word)) (hm : s.canonical = true) :
    (egressWords s tile asid base l).canonical = true := by
  induction l generalizing s with
  | nil => exact hm
  | cons x r ih =>
    unfold egressWords
    split
    · next h => exact frameless_canon _ _ _ _ (edgePhys_canon hm h)
    · next h => exact ih (egressPage_canon _ _ _ _ _ (edgePhys_canon hm h))

theorem execEdgeEgressWrite_canon {s : State} (hm : s.canonical = true) : Keeps (execEdgeEgressWrite s) := by
  unfold execEdgeEgressWrite
  try dsimp only
  repeat' first
    | with_reducible exact hm | with_reducible assumption | intro _ | with_reducible exact keeps_fault _
    | with_reducible exact keeps_refused _ | with_reducible refine keeps_next ?_ | with_reducible apply count_canon
    | with_reducible apply acceptFlight_canon | with_reducible apply egressWords_canon | dsimp only | split | simp only [canonical_state_mk]
    | with_reducible apply canonical_of_state

theorem ingressLanes_mem_fst {s : State} (tile asid base n : Nat) (hm : s.canonical = true) : (ingressLanes s tile asid base n).1.canonical =
    true := by
  induction n with
  | zero => exact hm
  | succ n ih =>
    unfold ingressLanes
    split
    · next h => exact pair_canon ih h
    · next h =>
      split
      · next h' => exact edgePhys_canon (pair_canon ih h) h'
      · next h' => exact edgePhys_canon (pair_canon ih h) h'

theorem ingressLanes_canon {s : State} {tile asid base n : Nat} {r1 : State} {r2 : Except (Nat × Nat × Nat) (List Lane)} (hm : s.canonical = true)
    (he : ingressLanes s tile asid base n = (r1, r2)) : r1.canonical = true := by
  have := ingressLanes_mem_fst tile asid base n hm
  rwa [he] at this

theorem ingressWords_mem_fst {s : State} (l : List Lane) (hm : s.canonical = true) : (ingressWords s l).1.canonical = true := by
  induction l generalizing s with
  | nil => exact hm
  | cons x r ih =>
    unfold ingressWords
    split
    · exact hm
    · next p _ =>
      have read : (if p.mt = 2 then (s, some (deviceRead s p.pa)) else readHome s p.enc p.pa 4).1.canonical = true := by
        split
        · exact hm
        · exact readHome_mem_fst _ _ _ hm
      split
      · next h => exact pair_canon read h
      · next h =>
        split
        · next h' => exact pair_canon (ih (pair_canon read h)) h'
        · next h' => exact pair_canon (ih (pair_canon read h)) h'

theorem ingressWords_canon {s : State} {l : List Lane} {r1 : State} {r2 : Except (Nat × Nat × Nat) (List Word)} (hm : s.canonical = true)
    (he : ingressWords s l = (r1, r2)) : r1.canonical = true := by
  have := ingressWords_mem_fst l hm
  rwa [he] at this

theorem edgeRead_mem_fst {s : State} (tile asid base w id : Nat) (hm : s.canonical = true) : (edgeRead s tile asid base w id).1.canonical = true := by
  unfold edgeRead
  try dsimp only
  repeat' first
    | with_reducible exact hm | with_reducible assumption | intro _ | with_reducible apply dropOp_canon
    | (with_reducible refine ingressLanes_canon ?_ (by assumption)) | with_reducible apply ingressLanes_mem_fst
    | with_reducible apply addOp_canon | (with_reducible refine ingressWords_canon ?_ (by assumption))
    | with_reducible apply ingressWords_mem_fst | dsimp only | split | simp only [canonical_state_mk]
    | with_reducible apply canonical_of_state

theorem edgeRead_canon {s : State} {tile asid base w id : Nat} {r1 : State} {r2 : EdgeRead} (hm : s.canonical = true)
    (he : edgeRead s tile asid base w id = (r1, r2)) : r1.canonical = true := by
  have := edgeRead_mem_fst tile asid base w id hm
  rwa [he] at this

theorem execEdgeIngressInject_canon {s : State} (hm : s.canonical = true) : Keeps (execEdgeIngressInject s) := by
  unfold execEdgeIngressInject
  try dsimp only
  repeat' first
    | with_reducible exact hm | with_reducible assumption | intro _ | with_reducible exact keeps_fault _
    | with_reducible exact keeps_refused _ | with_reducible refine keeps_next ?_ | (with_reducible refine edgeRead_canon ?_ (by assumption))
    | with_reducible apply edgeRead_mem_fst | with_reducible apply frameless_canon | with_reducible apply addOut_canon | dsimp only | split
    | simp only [canonical_state_mk] | with_reducible apply canonical_of_state

theorem emitTo_canon {s : State} (tile elem : Nat) (tok : Token) (d : Dest) (hm : s.canonical = true) : (emitTo s tile elem tok d).canonical = true := by
  unfold emitTo
  try dsimp only
  repeat' first
    | with_reducible exact hm | with_reducible assumption | intro _ | with_reducible apply addOut_canon | dsimp only | split
    | simp only [canonical_state_mk] | with_reducible apply canonical_of_state

theorem moveAt_mem_fst {s : State} (o : Op) (x : Lane) (p : Phys) (hm : s.canonical = true) : (moveAt s o x p).1.canonical = true := by
  unfold moveAt
  try dsimp only
  repeat' first
    | with_reducible exact hm | with_reducible assumption | intro _ | with_reducible apply fixSram_canon
    | with_reducible apply homeWrite_canon | (with_reducible refine readHome_canon ?_ (by assumption))
    | with_reducible apply readHome_mem_fst | with_reducible apply sramWrite_canon | dsimp only | split | simp only [canonical_state_mk]
    | with_reducible apply canonical_of_state

theorem moveAt_canon {s : State} {o : Op} {x : Lane} {p : Phys} {r1 : State} {r2 : Except (Nat × Nat) Phys} (hm : s.canonical = true)
    (he : moveAt s o x p = (r1, r2)) : r1.canonical = true := by
  have := moveAt_mem_fst o x p hm
  rwa [he] at this

theorem movePart_mem_fst {s : State} (o : Op) (x : Lane) (hm : s.canonical = true) : (movePart s o x).1.canonical = true := by
  unfold movePart
  try dsimp only
  repeat' first
    | with_reducible exact hm | with_reducible assumption | intro _ | (with_reducible refine moveAt_canon ?_ (by assumption))
    | with_reducible apply moveAt_mem_fst | dsimp only | split | simp only [canonical_state_mk] | with_reducible apply canonical_of_state

theorem movePart_canon {s : State} {o : Op} {x : Lane} {r1 : State} {r2 : Except (Nat × Nat) Phys} (hm : s.canonical = true)
    (he : movePart s o x = (r1, r2)) : r1.canonical = true := by
  have := movePart_mem_fst o x hm
  rwa [he] at this

theorem moveParts_canon {s : State} (id : Nat) (xs : List Lane) (hm : s.canonical = true) : (moveParts id xs s).canonical = true := by
  induction xs generalizing s with
  | nil =>
    unfold moveParts
    split
    · exact setOp_canon _ hm
    · exact hm
  | cons x r ih =>
    unfold moveParts
    split
    · exact hm
    · split
      · next h => exact failOp_canon _ _ _ _ (movePart_canon hm h)
      · next h => exact ih (setLane_canon _ _ (movePart_canon hm h))

theorem startMove_canon {s : State} (o : Op) (hm : s.canonical = true) : (startMove s o).canonical = true := by
  unfold startMove
  try dsimp only
  repeat' first
    | with_reducible exact hm | with_reducible assumption | intro _ | with_reducible apply setOp_canon | dsimp only | split
    | simp only [canonical_state_mk] | with_reducible apply canonical_of_state

theorem addRemotes_canon {s : State} (o : Op) (rs : List Remote) (hm : s.canonical = true) : (addRemotes s o rs).canonical = true := by
  unfold addRemotes
  try dsimp only
  repeat' first
    | with_reducible exact hm | with_reducible assumption | intro _ | with_reducible apply setOp_canon | dsimp only | split
    | simp only [canonical_state_mk] | with_reducible apply canonical_of_state

theorem startSend_canon {s : State} (o : Op) (f : Op → Nat → Remote) (hm : s.canonical = true) : (startSend s o f).canonical = true := by
  unfold startSend
  try dsimp only
  repeat' first
    | with_reducible exact hm | with_reducible assumption | intro _ | with_reducible apply failOp_canon
    | with_reducible apply addRemotes_canon | dsimp only | split | simp only [canonical_state_mk] | with_reducible apply canonical_of_state

theorem remoteReserve_canon {s : State} {r : Remote} {t : State} {n : Option Nat} (hm : s.canonical = true)
    (he : remoteReserve s r = .ok (t, n)) : t.canonical = true := by
  unfold remoteReserve at he
  repeat' split at he
  all_goals first
    | (cases he; done)
    | (cases he; with_reducible exact hm)
    | (cases he; with_reducible exact reserve_mem_fst _ _ _ _ hm)
    | (cases he; with_reducible exact setTrough_canon _ _ _ hm)
    | (next h => cases he; exact reserve_canon hm h)

theorem setRemotes_canon {s : State} (f : List Remote → List Remote) (hm : s.canonical = true) : (setRemotes s f).canonical = true := by
  unfold setRemotes
  try dsimp only
  repeat' first
    | with_reducible exact hm | with_reducible assumption | intro _ | dsimp only | split | simp only [canonical_state_mk]
    | with_reducible apply canonical_of_state

theorem endRemote_canon {s : State} (o : Op) (r : Remote) (hm : s.canonical = true) : (endRemote s o r).canonical = true := by
  unfold endRemote
  try dsimp only
  repeat' first
    | with_reducible exact hm | with_reducible assumption | intro _ | with_reducible apply setRemotes_canon
    | with_reducible apply setOp_canon | dsimp only | split | simp only [canonical_state_mk] | with_reducible apply canonical_of_state

theorem remoteDone_canon {s : State} (o : Op) (r : Remote) (pen : Nat) (hm : s.canonical = true) : (remoteDone s o r pen).canonical = true := by
  unfold remoteDone
  try dsimp only
  repeat' first
    | with_reducible exact hm | with_reducible assumption | intro _ | with_reducible apply endRemote_canon
    | with_reducible apply flipBack_canon | with_reducible apply setRemotes_canon | with_reducible apply post_canon | dsimp only | split
    | simp only [canonical_state_mk] | with_reducible apply canonical_of_state

theorem remoteWrite_canon {s : State} (o : Op) (r : Remote) (hm : s.canonical = true) : (remoteWrite s o r).canonical = true := by
  unfold remoteWrite
  try dsimp only
  repeat' first
    | with_reducible exact hm | with_reducible assumption | intro _ | with_reducible apply failOp_canon
    | with_reducible apply endRemote_canon | (with_reducible refine remoteReserve_canon ?_ (by assumption))
    | with_reducible apply setRemotes_canon | with_reducible apply fixPen_canon | with_reducible apply remoteDone_canon
    | with_reducible apply penWrite_canon | dsimp only | split | simp only [canonical_state_mk] | with_reducible apply canonical_of_state

theorem remoteTurn_canon {s : State} (hop : Bool) (hm : s.canonical = true) : (remoteTurn s hop).canonical = true := by
  unfold remoteTurn
  try dsimp only
  repeat' first
    | with_reducible exact hm | with_reducible assumption | intro _ | with_reducible apply remoteWrite_canon | dsimp only | split
    | simp only [canonical_state_mk] | with_reducible apply canonical_of_state

theorem execRemoteDrayWrite_canon {s : State} (hm : s.canonical = true) : Keeps (execRemoteDrayWrite s) := by
  unfold execRemoteDrayWrite
  try dsimp only
  repeat' first
    | with_reducible exact hm | with_reducible assumption | intro _ | with_reducible exact keeps_fault _
    | with_reducible exact keeps_refused _ | with_reducible refine keeps_next ?_ | with_reducible apply remoteTurn_canon | dsimp only
    | split | simp only [canonical_state_mk] | with_reducible apply canonical_of_state

theorem execDhopArrival_canon {s : State} (hm : s.canonical = true) : Keeps (execDhopArrival s) := by
  unfold execDhopArrival
  try dsimp only
  repeat' first
    | with_reducible exact hm | with_reducible assumption | intro _ | with_reducible exact keeps_fault _
    | with_reducible exact keeps_refused _ | with_reducible refine keeps_next ?_ | with_reducible apply remoteTurn_canon | dsimp only
    | split | simp only [canonical_state_mk] | with_reducible apply canonical_of_state

theorem startDred_canon {s : State} (o : Op) (hm : s.canonical = true) : (startDred s o).canonical = true := by
  unfold startDred
  try dsimp only
  repeat' first
    | with_reducible exact hm | with_reducible assumption | intro _ | with_reducible apply setOp_canon | dsimp only | split
    | simp only [canonical_state_mk] | with_reducible apply canonical_of_state

theorem failAll_canon {s : State} (ids : List Nat) (d addr : Nat) (hm : s.canonical = true) : (failAll s ids d addr).canonical = true := by
  unfold failAll
  try dsimp only
  repeat' first
    | with_reducible exact hm | with_reducible assumption | intro _ | with_reducible apply failOp_canon | with_reducible apply foldl_canon
    | dsimp only | split | simp only [canonical_state_mk] | with_reducible apply canonical_of_state

theorem combine_canon {s : State} (ms : List (Nat × Nat)) (o : Op) (hm : s.canonical = true) : (combine s ms o).canonical = true := by
  unfold combine
  try dsimp only
  repeat' first
    | with_reducible exact hm | with_reducible assumption | intro _ | with_reducible apply failAll_canon | with_reducible apply fixPen_canon
    | with_reducible apply setOp_canon | with_reducible apply penWrite_canon | with_reducible apply getD_canon
    | with_reducible apply foldl_canon | dsimp only | split | simp only [canonical_state_mk] | with_reducible apply canonical_of_state

theorem execDredCombine_canon {s : State} (hm : s.canonical = true) : Keeps (execDredCombine s) := by
  unfold execDredCombine
  try dsimp only
  repeat' first
    | with_reducible exact hm | with_reducible assumption | intro _ | with_reducible exact keeps_fault _
    | with_reducible exact keeps_refused _ | with_reducible refine keeps_next ?_ | with_reducible apply combine_canon
    | with_reducible apply foldr_canon | dsimp only | split | simp only [canonical_state_mk] | with_reducible apply canonical_of_state

theorem failBale_canon {s : State} (o : Op) (d : Nat) (hm : s.canonical = true) : (failBale s o d).canonical = true := by
  unfold failBale
  try dsimp only
  repeat' first
    | with_reducible exact hm | with_reducible assumption | intro _ | with_reducible apply failOp_canon | dsimp only | split
    | simp only [canonical_state_mk] | with_reducible apply canonical_of_state

theorem appendSwap_canon {s : State} (o : Op) (x : BaleEntry) (hm : s.canonical = true) : (appendSwap s o x).canonical = true := by
  unfold appendSwap
  try dsimp only
  repeat' first
    | with_reducible exact hm | with_reducible assumption | intro _ | (with_reducible refine readHome_canon ?_ (by assumption))
    | with_reducible apply readHome_mem_fst | with_reducible apply failOp_canon | with_reducible apply setOp_canon
    | with_reducible apply failBale_canon | with_reducible apply homeWrite_canon | dsimp only | split | simp only [canonical_state_mk]
    | with_reducible apply canonical_of_state

theorem appendChecks_canon {s : State} (o : Op) (x : BaleEntry) (p : Placed) (ring : List Nat) (hm : s.canonical = true) : (appendChecks s o x p ring).canonical = true := by
  unfold appendChecks
  try dsimp only
  repeat' first
    | with_reducible exact hm | with_reducible assumption | intro _ | with_reducible apply failBale_canon
    | with_reducible apply failOp_canon | with_reducible apply appendSwap_canon | dsimp only | split | simp only [canonical_state_mk]
    | with_reducible apply canonical_of_state

theorem appendTry_canon {s : State} (o : Op) (x : BaleEntry) (hm : s.canonical = true) : (appendTry s o x).canonical = true := by
  unfold appendTry
  try dsimp only
  repeat' first
    | with_reducible exact hm | with_reducible assumption | intro _ | with_reducible apply appendChecks_canon
    | (with_reducible refine resolvePlace_canon ?_ (by assumption)) | with_reducible apply resolvePlace_mem_fst
    | with_reducible apply failOp_canon | (with_reducible refine ringList_canon ?_ (by assumption)) | with_reducible apply ringList_mem_fst
    | dsimp only | split | simp only [canonical_state_mk] | with_reducible apply canonical_of_state

theorem appendStore_canon {s : State} (o : Op) (x : BaleEntry) (hm : s.canonical = true) : (appendStore s o x).canonical = true := by
  unfold appendStore
  try dsimp only
  repeat' first
    | with_reducible exact hm | with_reducible assumption | intro _ | with_reducible apply fixPen_canon
    | (with_reducible refine readHome_canon ?_ (by assumption)) | with_reducible apply readHome_mem_fst
    | with_reducible apply baleWrite_canon | with_reducible apply setOp_canon | with_reducible apply homeWrite_canon
    | with_reducible apply failOp_canon | dsimp only | split | simp only [canonical_state_mk] | with_reducible apply canonical_of_state

theorem appendTurn_canon {s : State} (o : Op) (hm : s.canonical = true) : (appendTurn s o).canonical = true := by
  unfold appendTurn
  try dsimp only
  repeat' first
    | with_reducible exact hm | with_reducible assumption | intro _ | with_reducible apply failOp_canon
    | (with_reducible refine lookBale_canon ?_ (by assumption)) | with_reducible apply lookBale_mem_fst
    | with_reducible apply appendStore_canon | with_reducible apply wakeQuad_canon | with_reducible apply appendTry_canon | dsimp only
    | split | simp only [canonical_state_mk] | with_reducible apply canonical_of_state

theorem execAppend_canon {s : State} (hm : s.canonical = true) : Keeps (execAppend s) := by
  unfold execAppend
  try dsimp only
  repeat' first
    | with_reducible exact hm | with_reducible assumption | intro _ | with_reducible exact keeps_fault _
    | with_reducible exact keeps_refused _ | with_reducible refine keeps_next ?_ | with_reducible apply appendTurn_canon | dsimp only
    | split | simp only [canonical_state_mk] | with_reducible apply canonical_of_state

theorem execAppendRetry_canon {s : State} (hm : s.canonical = true) : Keeps (execAppendRetry s) := by
  unfold execAppendRetry
  try dsimp only
  repeat' first
    | with_reducible exact hm | with_reducible assumption | intro _ | with_reducible exact keeps_fault _
    | with_reducible exact keeps_refused _ | with_reducible refine keeps_next ?_ | with_reducible apply appendTurn_canon | dsimp only
    | split | simp only [canonical_state_mk] | with_reducible apply canonical_of_state

theorem execPlacementMiss_canon {s : State} (hm : s.canonical = true) : Keeps (execPlacementMiss s) := by
  unfold execPlacementMiss
  try dsimp only
  repeat' first
    | with_reducible exact hm | with_reducible assumption | intro _ | with_reducible exact keeps_fault _
    | with_reducible exact keeps_refused _ | with_reducible refine keeps_next ?_
    | (with_reducible refine resolvePlace_canon ?_ (by assumption)) | with_reducible apply resolvePlace_mem_fst | dsimp only | split
    | simp only [canonical_state_mk] | with_reducible apply canonical_of_state

theorem startCommand_canon {s : State} (o : Op) (hm : s.canonical = true) : (startCommand s o).canonical = true := by
  unfold startCommand
  try dsimp only
  repeat' first
    | with_reducible exact hm | with_reducible assumption | intro _ | with_reducible apply failOp_canon
    | with_reducible apply startMove_canon | with_reducible apply startSend_canon | with_reducible apply setOp_canon
    | with_reducible apply addRemotes_canon | with_reducible apply startDred_canon | dsimp only | split | simp only [canonical_state_mk]
    | with_reducible apply canonical_of_state

theorem execDrayCommandStart_canon {s : State} (hm : s.canonical = true) : Keeps (execDrayCommandStart s) := by
  unfold execDrayCommandStart
  try dsimp only
  repeat' first
    | with_reducible exact hm | with_reducible assumption | intro _ | with_reducible exact keeps_fault _
    | with_reducible exact keeps_refused _ | with_reducible refine keeps_next ?_ | with_reducible apply moveParts_canon
    | with_reducible apply startCommand_canon | dsimp only | split | simp only [canonical_state_mk]
    | with_reducible apply canonical_of_state

theorem flipLpen_canon {s : State} (o : Op) (hm : s.canonical = true) : (flipLpen s o).canonical = true := by
  unfold flipLpen
  try dsimp only
  repeat' first
    | with_reducible exact hm | with_reducible assumption | intro _ | with_reducible apply flipBack_canon
    | with_reducible apply cleanIn_canon | dsimp only | split | simp only [canonical_state_mk] | with_reducible apply canonical_of_state

theorem execDrayComplete_canon {s : State} (hm : s.canonical = true) : Keeps (execDrayComplete s) := by
  unfold execDrayComplete
  try dsimp only
  repeat' first
    | with_reducible exact hm | with_reducible assumption | intro _ | with_reducible exact keeps_fault _
    | with_reducible exact keeps_refused _ | with_reducible refine keeps_next ?_ | with_reducible apply emitOp_canon
    | with_reducible apply dropOp_canon | with_reducible apply flipLpen_canon | dsimp only | split | simp only [canonical_state_mk]
    | with_reducible apply canonical_of_state

theorem voidRemotes_canon {s : State} (id : Nat) (hm : s.canonical = true) : (voidRemotes s id).canonical = true := by
  unfold voidRemotes
  try dsimp only
  repeat' first
    | with_reducible exact hm | with_reducible assumption | intro _ | with_reducible apply setRemotes_canon
    | with_reducible apply post_canon | with_reducible apply foldl_canon | dsimp only | split | simp only [canonical_state_mk]
    | with_reducible apply canonical_of_state

theorem execDrayFail_canon {s : State} (hm : s.canonical = true) : Keeps (execDrayFail s) := by
  unfold execDrayFail
  try dsimp only
  repeat' first
    | with_reducible exact hm | with_reducible assumption | intro _ | with_reducible exact keeps_fault _
    | with_reducible exact keeps_refused _ | with_reducible refine keeps_next ?_ | with_reducible apply flipLpen_canon
    | with_reducible apply voidRemotes_canon | with_reducible apply raiseOp_canon | with_reducible apply setOp_canon
    | with_reducible apply dropOp_canon | dsimp only | split | simp only [canonical_state_mk] | with_reducible apply canonical_of_state

theorem holdEntries_canon {s : State} (tile elem : Nat) (es : List CbEntry) (hm : s.canonical = true) : (holdEntries s tile elem es).canonical = true := by
  unfold holdEntries
  try dsimp only
  repeat' first
    | with_reducible exact hm | with_reducible assumption | intro _ | with_reducible apply setPe_canon | dsimp only | split
    | simp only [canonical_state_mk] | with_reducible apply canonical_of_state

theorem replayDray_canon {s : State} (o : Op) (ch : Nat) (hm : s.canonical = true) : (replayDray s o ch).canonical = true := by
  unfold replayDray
  try dsimp only
  repeat' first
    | with_reducible exact hm | with_reducible assumption | intro _ | with_reducible apply dropOp_canon | with_reducible apply addOp_canon
    | with_reducible apply holdEntries_canon | dsimp only | split | simp only [canonical_state_mk] | with_reducible apply canonical_of_state

theorem unitEmit_canon {s : State} (p : Op) (hm : s.canonical = true) : (unitEmit s p).canonical = true := by
  unfold unitEmit
  try dsimp only
  repeat' first
    | with_reducible exact hm | with_reducible assumption | intro _ | with_reducible apply emitOp_canon | with_reducible apply dropOp_canon
    | dsimp only | split | simp only [canonical_state_mk] | with_reducible apply canonical_of_state

theorem emitBlock_canon {s : State} (o : Op) (hm : s.canonical = true) : (emitBlock s o).canonical = true := by
  unfold emitBlock
  try dsimp only
  repeat' first
    | with_reducible exact hm | with_reducible assumption | intro _ | with_reducible apply unitEmit_canon | with_reducible apply foldl_canon
    | dsimp only | split | simp only [canonical_state_mk] | with_reducible apply canonical_of_state

theorem settleBlock_canon {s : State} (o : Op) (hm : s.canonical = true) : (settleBlock s o).canonical = true := by
  unfold settleBlock
  try dsimp only
  repeat' first
    | with_reducible exact hm | with_reducible assumption | intro _ | with_reducible apply emitBlock_canon
    | with_reducible apply flipBack_canon | with_reducible apply foldl_canon | dsimp only | split | simp only [canonical_state_mk]
    | with_reducible apply canonical_of_state

theorem unitDone_canon {s : State} (o : Op) (hm : s.canonical = true) : (unitDone s o).canonical = true := by
  unfold unitDone
  try dsimp only
  repeat' first
    | with_reducible exact hm | with_reducible assumption | intro _ | with_reducible apply settleBlock_canon
    | with_reducible apply setOp_canon | dsimp only | split | simp only [canonical_state_mk] | with_reducible apply canonical_of_state

theorem unitFail_canon {s : State} (o : Op) (cause detail addr : Nat) (hm : s.canonical = true) : (unitFail s o cause detail addr).canonical = true := by
  unfold unitFail
  try dsimp only
  repeat' first
    | with_reducible exact hm | with_reducible assumption | intro _ | with_reducible apply settleBlock_canon
    | with_reducible apply failOp_canon | dsimp only | split | simp only [canonical_state_mk] | with_reducible apply canonical_of_state

theorem unitApply_canon {s : State} {o : Op} {reads : List (Nat × Nat)} {effect : State → State} (hm : s.canonical = true)
    (hf : ∀ s, s.canonical = true → (effect s).canonical = true) : (unitApply s o reads effect).canonical = true := by
  unfold unitApply
  split
  · exact unitFail_canon _ _ _ _ hm
  · exact hf _ (foldl_canon hm fun _ _ h => fixPen_canon _ _ _ h)

theorem orAstat_canon {s : State} (tile rank c : Nat) (f : Astat) (hm : s.canonical = true) : (orAstat s tile rank c f).canonical = true := by
  unfold orAstat
  try dsimp only
  repeat' first
    | with_reducible exact hm | with_reducible assumption | intro _ | with_reducible apply getD_canon | dsimp only | split
    | simp only [canonical_state_mk] | with_reducible apply canonical_of_state

theorem replayUnit_canon {s : State} (o : Op) (hm : s.canonical = true) : (replayUnit s o).canonical = true := by
  unfold replayUnit
  try dsimp only
  repeat' first
    | with_reducible exact hm | with_reducible assumption | intro _ | with_reducible apply setOp_canon | with_reducible apply addOp_canon
    | with_reducible apply foldl_canon | dsimp only | split | simp only [canonical_state_mk] | with_reducible apply canonical_of_state

theorem setPenWord_canon {s : State} (tile pen off : Nat) (w : Word) (hm : s.canonical = true) : (setPenWord s tile pen off w).canonical = true := by
  unfold setPenWord
  try dsimp only
  repeat' first
    | with_reducible exact hm | with_reducible assumption | intro _ | with_reducible apply sramWrite_canon | dsimp only | split
    | simp only [canonical_state_mk] | with_reducible apply canonical_of_state

theorem setNorm_canon {s : State} (tile k : Nat) (c : RowCfg) (hm : s.canonical = true) : (setNorm s tile k c).canonical = true := by
  unfold setNorm
  try dsimp only
  repeat' first
    | with_reducible exact hm | with_reducible assumption | intro _ | dsimp only | split | simp only [canonical_state_mk]
    | with_reducible apply canonical_of_state

theorem setBridle_canon {s : State} (tile k : Nat) (c : RowCfg) (hm : s.canonical = true) : (setBridle s tile k c).canonical = true := by
  unfold setBridle
  try dsimp only
  repeat' first
    | with_reducible exact hm | with_reducible assumption | intro _ | dsimp only | split | simp only [canonical_state_mk]
    | with_reducible apply canonical_of_state

theorem commitNcfg_canon {s : State} (o : Op) (hm : s.canonical = true) : (commitNcfg s o).canonical = true := by
  unfold commitNcfg
  try dsimp only
  repeat' first
    | with_reducible exact hm | with_reducible assumption | intro _ | with_reducible apply emitOp_canon | with_reducible apply setNorm_canon
    | dsimp only | split | simp only [canonical_state_mk] | with_reducible apply canonical_of_state

theorem commitBrcfg_canon {s : State} (o : Op) (hm : s.canonical = true) : (commitBrcfg s o).canonical = true := by
  unfold commitBrcfg
  try dsimp only
  repeat' first
    | with_reducible exact hm | with_reducible assumption | intro _ | with_reducible apply emitOp_canon
    | with_reducible apply setBridle_canon | dsimp only | split | simp only [canonical_state_mk] | with_reducible apply canonical_of_state

theorem execBrcfgStat_canon {s : State} (a : Src) (t : Target) (hm : s.canonical = true) : Keeps (execBrcfgStat a t s) := by
  unfold execBrcfgStat
  try dsimp only
  repeat' first
    | with_reducible exact hm | with_reducible assumption | intro _ | with_reducible exact keeps_fault _
    | with_reducible exact keeps_refused _ | with_reducible refine keeps_next ?_ | with_reducible apply runBody_canon
    | with_reducible apply setBridle_canon | (with_reducible refine runBody_canon _ ?_ ?_) | with_reducible apply keepsBody_bind
    | with_reducible apply keepsBody_ok | exact keepsBody_error _ | exact keepsBody_stop _ _ | dsimp only | split
    | simp only [canonical_state_mk] | with_reducible apply canonical_of_state

theorem writeRein_canon {s : State} (a n v : Nat) (hm : s.canonical = true) : (writeRein s a n v).canonical = true :=
  canonical_rein (m := s.mem) hm (wf_mwrite _ _ _ _ (rein_wf_of hm))

theorem writeProbe_canon {s : State} (a n v : Nat) (hm : s.canonical = true) : (writeProbe s a n v).canonical = true :=
  canonical_probe (m := s.mem) hm (wf_mwrite _ _ _ _ (probe_wf_of hm))

theorem execReinldApply_canon {s : State} (hm : s.canonical = true) : Keeps (execReinldApply s) := by
  unfold execReinldApply
  try dsimp only
  repeat' first
    | with_reducible exact hm | with_reducible assumption | intro _ | with_reducible exact keeps_fault _
    | with_reducible exact keeps_refused _ | with_reducible refine keeps_next ?_ | with_reducible apply unitFail_canon
    | with_reducible apply unitDone_canon | with_reducible apply unitApply_canon | with_reducible apply writeRein_canon | dsimp only | split
    | simp only [canonical_state_mk] | with_reducible apply canonical_of_state

theorem execPrbldApply_canon {s : State} (hm : s.canonical = true) : Keeps (execPrbldApply s) := by
  unfold execPrbldApply
  try dsimp only
  repeat' first
    | with_reducible exact hm | with_reducible assumption | intro _ | with_reducible exact keeps_fault _
    | with_reducible exact keeps_refused _ | with_reducible refine keeps_next ?_ | with_reducible apply unitApply_canon
    | with_reducible apply unitFail_canon | with_reducible apply unitDone_canon | with_reducible apply writeProbe_canon | dsimp only | split
    | simp only [canonical_state_mk] | with_reducible apply canonical_of_state

theorem setRow_canon {s : State} (r : Row) (hm : s.canonical = true) : (setRow s r).canonical = true := by
  unfold setRow
  try dsimp only
  repeat' first
    | with_reducible exact hm | with_reducible assumption | intro _ | dsimp only | split | simp only [canonical_state_mk]
    | with_reducible apply canonical_of_state

theorem dropRow_canon {s : State} (id : Nat) (hm : s.canonical = true) : (dropRow s id).canonical = true := by
  unfold dropRow
  try dsimp only
  repeat' first
    | with_reducible exact hm | with_reducible assumption | intro _ | dsimp only | split | simp only [canonical_state_mk]
    | with_reducible apply canonical_of_state

theorem raiseRow_canon {s : State} (r : Row) (cause detail addr : Nat) (hm : s.canonical = true) : (raiseRow s r cause detail addr).canonical = true := by
  unfold raiseRow
  try dsimp only
  repeat' first
    | with_reducible exact hm | with_reducible assumption | intro _ | with_reducible apply moveRow_canon | with_reducible apply setRow_canon
    | with_reducible apply dropRow_canon | with_reducible apply raiseOn_canon | dsimp only | split | simp only [canonical_state_mk]
    | with_reducible apply canonical_of_state

theorem releaseRow_canon {s : State} (r : Row) (elem : Nat) (x : RowLanes) (h : Header → Header) (hm : s.canonical = true) :
    (releaseRow s r elem x h).canonical = true := by
  unfold releaseRow
  try dsimp only
  repeat' first
    | with_reducible exact hm | with_reducible assumption | intro _ | with_reducible apply addOut_canon | with_reducible apply dropRow_canon
    | with_reducible apply foldl_canon | dsimp only | split | simp only [canonical_state_mk] | with_reducible apply canonical_of_state

theorem finishNorm_canon {s : State} (r : Row) (hm : s.canonical = true) : (finishNorm s r).canonical = true := by
  unfold finishNorm
  try dsimp only
  repeat' first
    | with_reducible exact hm | with_reducible assumption | intro _ | with_reducible apply orAstat_canon
    | with_reducible apply releaseRow_canon | dsimp only | split | simp only [canonical_state_mk] | with_reducible apply canonical_of_state

theorem steerRow_canon {s : State} (r : Row) (hm : s.canonical = true) : (steerRow s r).canonical = true := by
  unfold steerRow
  try dsimp only
  repeat' first
    | with_reducible exact hm | with_reducible assumption | intro _ | with_reducible apply releaseRow_canon
    | with_reducible apply setBridle_canon | with_reducible apply orAstat_canon | dsimp only | split | simp only [canonical_state_mk]
    | with_reducible apply canonical_of_state

theorem finishBridle_canon {s : State} (r : Row) (hm : s.canonical = true) : (finishBridle s r).canonical = true := by
  unfold finishBridle
  try dsimp only
  repeat' first
    | with_reducible exact hm | with_reducible assumption | intro _ | with_reducible apply raiseRow_canon
    | with_reducible apply setBridle_canon | with_reducible apply orAstat_canon | with_reducible apply steerRow_canon
    | with_reducible apply foldl_canon | dsimp only | split | simp only [canonical_state_mk] | with_reducible apply canonical_of_state

theorem judgeRow_canon {s : State} (r : Row) (bad : Bool) (hm : s.canonical = true) : (judgeRow s r bad).canonical = true := by
  unfold judgeRow
  try dsimp only
  repeat' first
    | with_reducible exact hm | with_reducible assumption | intro _ | with_reducible apply raiseRow_canon
    | with_reducible apply finishNorm_canon | with_reducible apply finishBridle_canon | dsimp only | split | simp only [canonical_state_mk]
    | with_reducible apply canonical_of_state

theorem segmentIn_mem_elim {s : State} (unit tile rank sel : Nat) (t : Token) (hm : s.canonical = true) : KeepsSome (segmentIn s unit tile rank sel t) := by
  unfold segmentIn
  try dsimp only
  repeat' first
    | with_reducible exact hm | with_reducible assumption | intro _ | with_reducible apply judgeRow_canon
    | with_reducible apply setRow_canon | with_reducible exact keepsSome_none | with_reducible apply keepsSome_some | dsimp only | split
    | simp only [canonical_state_mk] | with_reducible apply canonical_of_state

theorem segmentIn_canon {s : State} {unit tile rank sel : Nat} {t : Token} {tt : State} (hm : s.canonical = true) (he : segmentIn s unit tile rank sel t = some tt) :
    tt.canonical = true :=
  (segmentIn_mem_elim unit tile rank sel t hm).some tt he

theorem fetchRow_mem_fst {s : State} (r : Row) (hm : s.canonical = true) : (fetchRow s r).1.canonical = true := by
  unfold fetchRow
  try dsimp only
  repeat' first
    | with_reducible exact hm | with_reducible assumption | intro _ | with_reducible apply correctAt_canon | dsimp only | split
    | simp only [canonical_state_mk] | with_reducible apply canonical_of_state

theorem fetchRow_canon {s : State} {r : Row} {r1 : State} {r2 : Row} (hm : s.canonical = true)
    (he : fetchRow s r = (r1, r2)) : r1.canonical = true := by
  have := fetchRow_mem_fst r hm
  rwa [he] at this

theorem readmit_canon {s : State} (r : Row) (hm : s.canonical = true) : (readmit s r).canonical = true := by
  unfold readmit
  try dsimp only
  repeat' first
    | with_reducible exact hm | with_reducible assumption | intro _ | (with_reducible refine fetchRow_canon ?_ (by assumption))
    | with_reducible apply fetchRow_mem_fst | with_reducible apply judgeRow_canon | with_reducible apply moveRows_canon
    | with_reducible apply setRow_canon | dsimp only | split | simp only [canonical_state_mk] | with_reducible apply canonical_of_state

theorem segmentTurn_canon {s : State} (unit : Nat) (hm : s.canonical = true) : (segmentTurn s unit).canonical = true := by
  unfold segmentTurn
  try dsimp only
  repeat' first
    | with_reducible exact hm | with_reducible assumption | intro _ | with_reducible apply readmit_canon
    | (with_reducible refine segmentIn_canon ?_ (by assumption)) | with_reducible apply segmentIn_mem_elim
    | with_reducible apply acceptFlight_canon | with_reducible apply refuseFlight_canon | with_reducible apply getD_canon | dsimp only
    | split | simp only [canonical_state_mk] | with_reducible apply canonical_of_state

theorem execNormaliserSegment_canon {s : State} (hm : s.canonical = true) : Keeps (execNormaliserSegment s) := by
  unfold execNormaliserSegment
  try dsimp only
  repeat' first
    | with_reducible exact hm | with_reducible assumption | intro _ | with_reducible exact keeps_fault _
    | with_reducible exact keeps_refused _ | with_reducible refine keeps_next ?_ | with_reducible apply segmentTurn_canon | dsimp only
    | split | simp only [canonical_state_mk] | with_reducible apply canonical_of_state

theorem execBridleSegment_canon {s : State} (hm : s.canonical = true) : Keeps (execBridleSegment s) := by
  unfold execBridleSegment
  try dsimp only
  repeat' first
    | with_reducible exact hm | with_reducible assumption | intro _ | with_reducible exact keeps_fault _
    | with_reducible exact keeps_refused _ | with_reducible refine keeps_next ?_ | with_reducible apply segmentTurn_canon | dsimp only
    | split | simp only [canonical_state_mk] | with_reducible apply canonical_of_state

theorem resumeRow_canon {s : State} (id cause : Nat) (hm : s.canonical = true) : (resumeRow s id cause).canonical = true := by
  unfold resumeRow
  try dsimp only
  repeat' first
    | with_reducible exact hm | with_reducible assumption | intro _ | with_reducible apply moveRows_canon
    | with_reducible apply steerRow_canon | (with_reducible refine fetchRow_canon ?_ (by assumption))
    | with_reducible apply fetchRow_mem_fst | with_reducible apply setRow_canon | dsimp only | split | simp only [canonical_state_mk]
    | with_reducible apply canonical_of_state

theorem returnRows_canon {s : State} (tile rank c i : Nat) (hm : s.canonical = true) : (returnRows s tile rank c i).canonical = true := by
  unfold returnRows
  try dsimp only
  repeat' first
    | with_reducible exact hm | with_reducible assumption | intro _ | dsimp only | split | simp only [canonical_state_mk]
    | with_reducible apply canonical_of_state

theorem execFaddP_canon {s : State} (r : Rnd) (x y : Target) (hm : s.canonical = true) : Keeps (execFaddP r x y s) := by
  unfold execFaddP
  try dsimp only
  repeat' first
    | with_reducible exact hm | with_reducible assumption | intro _ | with_reducible exact keeps_fault _
    | with_reducible exact keeps_refused _ | with_reducible refine keeps_next ?_ | with_reducible apply runTask_canon | dsimp only | split
    | simp only [canonical_state_mk] | with_reducible apply canonical_of_state

theorem execFsubP_canon {s : State} (r : Rnd) (x y : Target) (hm : s.canonical = true) : Keeps (execFsubP r x y s) := by
  unfold execFsubP
  try dsimp only
  repeat' first
    | with_reducible exact hm | with_reducible assumption | intro _ | with_reducible exact keeps_fault _
    | with_reducible exact keeps_refused _ | with_reducible refine keeps_next ?_ | with_reducible apply runTask_canon | dsimp only | split
    | simp only [canonical_state_mk] | with_reducible apply canonical_of_state

theorem execFmulP_canon {s : State} (r : Rnd) (x y : Target) (hm : s.canonical = true) : Keeps (execFmulP r x y s) := by
  unfold execFmulP
  try dsimp only
  repeat' first
    | with_reducible exact hm | with_reducible assumption | intro _ | with_reducible exact keeps_fault _
    | with_reducible exact keeps_refused _ | with_reducible refine keeps_next ?_ | with_reducible apply runTask_canon | dsimp only | split
    | simp only [canonical_state_mk] | with_reducible apply canonical_of_state

theorem clearIsl_canon {s : State} (tile lo n : Nat) (hm : s.canonical = true) : (clearIsl s tile lo n).canonical = true := by
  unfold clearIsl
  try dsimp only
  repeat' first
    | with_reducible exact hm | with_reducible assumption | intro _ | with_reducible apply clearSram_canon | dsimp only | split
    | simp only [canonical_state_mk] | with_reducible apply canonical_of_state

theorem fixIsl_canon {s : State} (tile lo n : Nat) (hm : s.canonical = true) : (fixIsl s tile lo n).canonical = true := by
  unfold fixIsl
  try dsimp only
  repeat' first
    | with_reducible exact hm | with_reducible assumption | intro _ | with_reducible apply correctSoft_canon | dsimp only | split
    | simp only [canonical_state_mk] | with_reducible apply canonical_of_state

theorem setNext_canon {s : State} (tile a v : Nat) (hm : s.canonical = true) : (setNext s tile a v).canonical = true := by
  unfold setNext
  try dsimp only
  repeat' first
    | with_reducible exact hm | with_reducible assumption | intro _ | dsimp only | split | simp only [canonical_state_mk]
    | with_reducible apply canonical_of_state

theorem enterQueue_canon {s : State} (o : Op) (hm : s.canonical = true) : (enterQueue s o).canonical = true := by
  unfold enterQueue
  try dsimp only
  repeat' first
    | with_reducible exact hm | with_reducible assumption | intro _ | with_reducible apply enterOp_canon | dsimp only | split
    | simp only [canonical_state_mk] | with_reducible apply canonical_of_state

theorem setAcc_canon {s : State} (tile a i j : Nat) (v : Word) (hm : s.canonical = true) : (setAcc s tile a i j v).canonical = true := by
  unfold setAcc
  try dsimp only
  repeat' first
    | with_reducible exact hm | with_reducible assumption | intro _ | dsimp only | split | simp only [canonical_state_mk]
    | with_reducible apply canonical_of_state

theorem fixAcc_canon {s : State} (tile a m n : Nat) (hm : s.canonical = true) : (fixAcc s tile a m n).canonical = true := by
  unfold fixAcc
  try dsimp only
  repeat' first
    | with_reducible exact hm | with_reducible assumption | intro _ | with_reducible apply fixIsl_canon | with_reducible apply foldl_canon
    | dsimp only | split | simp only [canonical_state_mk] | with_reducible apply canonical_of_state

theorem raiseNext_canon {s : State} (o : Op) (hm : s.canonical = true) : (raiseNext s o).canonical = true := by
  unfold raiseNext
  try dsimp only
  repeat' first
    | with_reducible exact hm | with_reducible assumption | intro _ | with_reducible apply raiseOp_canon
    | with_reducible apply setNext_canon | dsimp only | split | simp only [canonical_state_mk] | with_reducible apply canonical_of_state

theorem fixMma_canon {s : State} (o : Op) (f : MmaForm) (pr : Pair) (ta chn : Bool) (hm : s.canonical = true) : (fixMma s o f pr ta chn).canonical = true := by
  unfold fixMma
  try dsimp only
  repeat' first
    | with_reducible exact hm | with_reducible assumption | intro _ | with_reducible apply fixAcc_canon | with_reducible apply fixIsl_canon
    | with_reducible apply foldl_canon | dsimp only | split | simp only [canonical_state_mk] | with_reducible apply canonical_of_state

theorem latticeView_canon {s : State} (o : Op) (hm : s.canonical = true) : (latticeView s o).canonical = true := by
  unfold latticeView
  try dsimp only
  repeat' first
    | with_reducible exact hm | with_reducible assumption | intro _ | with_reducible apply clearIsl_canon | with_reducible apply foldl_canon
    | dsimp only | split | simp only [canonical_state_mk] | with_reducible apply canonical_of_state

theorem applyMma_canon {s : State} (o : Op) (pr : Pair) (ta tb chn : Bool) (hm : s.canonical = true) : (applyMma s o pr ta tb chn).canonical = true := by
  unfold applyMma
  try dsimp only
  repeat' first
    | with_reducible exact hm | with_reducible assumption | intro _ | with_reducible apply latticeView_canon
    | with_reducible apply unitFail_canon | with_reducible apply setAcc_canon | with_reducible apply fixMma_canon
    | with_reducible apply orAstat_canon | with_reducible apply unitDone_canon | with_reducible apply raiseNext_canon
    | with_reducible apply foldl_canon | dsimp only | split | simp only [canonical_state_mk] | with_reducible apply canonical_of_state

theorem execMmaApply_canon {s : State} (hm : s.canonical = true) : Keeps (execMmaApply s) := by
  unfold execMmaApply
  try dsimp only
  repeat' first
    | with_reducible exact hm | with_reducible assumption | intro _ | with_reducible exact keeps_fault _
    | with_reducible exact keeps_refused _ | with_reducible refine keeps_next ?_ | with_reducible apply unitDone_canon
    | with_reducible apply raiseOp_canon | with_reducible apply raiseNext_canon | with_reducible apply dropOp_canon
    | with_reducible apply unitApply_canon | with_reducible apply applyMma_canon | dsimp only | split | simp only [canonical_state_mk]
    | with_reducible apply canonical_of_state

theorem fillAcc_canon {s : State} (tile a : Nat) (v : Nat → Nat → Word) (hm : s.canonical = true) : (fillAcc s tile a v).canonical = true := by
  unfold fillAcc
  try dsimp only
  repeat' first
    | with_reducible exact hm | with_reducible assumption | intro _ | with_reducible apply clearIsl_canon
    | with_reducible apply setAcc_canon | with_reducible apply foldl_canon | dsimp only | split | simp only [canonical_state_mk]
    | with_reducible apply canonical_of_state

theorem execMzeroApply_canon {s : State} (hm : s.canonical = true) : Keeps (execMzeroApply s) := by
  unfold execMzeroApply
  try dsimp only
  repeat' first
    | with_reducible exact hm | with_reducible assumption | intro _ | with_reducible exact keeps_fault _
    | with_reducible exact keeps_refused _ | with_reducible refine keeps_next ?_ | with_reducible apply unitDone_canon
    | with_reducible apply setNext_canon | with_reducible apply fillAcc_canon | dsimp only | split | simp only [canonical_state_mk]
    | with_reducible apply canonical_of_state

theorem execMldaApply_canon {s : State} (hm : s.canonical = true) : Keeps (execMldaApply s) := by
  unfold execMldaApply
  try dsimp only
  repeat' first
    | with_reducible exact hm | with_reducible assumption | intro _ | with_reducible exact keeps_fault _
    | with_reducible exact keeps_refused _ | with_reducible refine keeps_next ?_ | with_reducible apply unitApply_canon
    | with_reducible apply unitDone_canon | with_reducible apply setNext_canon | with_reducible apply fillAcc_canon
    | with_reducible apply unitFail_canon | dsimp only | split | simp only [canonical_state_mk] | with_reducible apply canonical_of_state

theorem execEtldApply_canon {s : State} (hm : s.canonical = true) : Keeps (execEtldApply s) := by
  unfold execEtldApply
  try dsimp only
  repeat' first
    | with_reducible exact hm | with_reducible assumption | intro _ | with_reducible exact keeps_fault _
    | with_reducible exact keeps_refused _ | with_reducible refine keeps_next ?_ | with_reducible apply unitApply_canon
    | with_reducible apply clearIsl_canon | with_reducible apply unitDone_canon | with_reducible apply unitFail_canon
    | with_reducible apply foldl_canon | dsimp only | split | simp only [canonical_state_mk] | with_reducible apply canonical_of_state

theorem setPenBits_canon {s : State} (tile pen bitOff b v : Nat) (hm : s.canonical = true) : (setPenBits s tile pen bitOff b v).canonical = true := by
  unfold setPenBits
  try dsimp only
  repeat' first
    | with_reducible exact hm | with_reducible assumption | intro _ | with_reducible apply sramWrite_canon | dsimp only | split
    | simp only [canonical_state_mk] | with_reducible apply canonical_of_state

theorem drainAmax_canon {s : State} (o : Op) (us : Lanes) (hm : s.canonical = true) : (drainAmax s o us).canonical = true := by
  unfold drainAmax
  try dsimp only
  repeat' first
    | with_reducible exact hm | with_reducible assumption | intro _ | with_reducible apply getD_canon | dsimp only | split
    | simp only [canonical_state_mk] | with_reducible apply canonical_of_state

theorem clearDrained_canon {s : State} (o : Op) (rows n b str : Nat) (hm : s.canonical = true) : (clearDrained s o rows n b str).canonical = true := by
  unfold clearDrained
  try dsimp only
  repeat' first
    | with_reducible exact hm | with_reducible assumption | intro _ | with_reducible apply clearSram_canon | dsimp only | split
    | simp only [canonical_state_mk] | with_reducible apply canonical_of_state

theorem applyMdrn_canon {s : State} (o : Op) (bias act rq amx tr : Bool) (hm : s.canonical = true) : (applyMdrn s o bias act rq amx tr).canonical = true := by
  unfold applyMdrn
  try dsimp only
  repeat' first
    | with_reducible exact hm | with_reducible assumption | intro _ | with_reducible apply unitFail_canon
    | with_reducible apply fixAcc_canon | with_reducible apply fixIsl_canon | with_reducible apply setPenBits_canon
    | with_reducible apply clearDrained_canon | with_reducible apply drainAmax_canon | with_reducible apply unitDone_canon
    | with_reducible apply orAstat_canon | with_reducible apply foldl_canon | dsimp only | split | simp only [canonical_state_mk]
    | with_reducible apply canonical_of_state

theorem execMdrnApply_canon {s : State} (hm : s.canonical = true) : Keeps (execMdrnApply s) := by
  unfold execMdrnApply
  try dsimp only
  repeat' first
    | with_reducible exact hm | with_reducible assumption | intro _ | with_reducible exact keeps_fault _
    | with_reducible exact keeps_refused _ | with_reducible refine keeps_next ?_ | with_reducible apply unitApply_canon
    | with_reducible apply applyMdrn_canon | dsimp only | split | simp only [canonical_state_mk] | with_reducible apply canonical_of_state

theorem enterTacc_canon {s : State} (o : Op) (paddr : Nat) (hm : s.canonical = true) : (enterTacc s o paddr).canonical = true := by
  unfold enterTacc
  try dsimp only
  repeat' first
    | with_reducible exact hm | with_reducible assumption | intro _ | with_reducible apply fixPen_canon | with_reducible apply raiseOp_canon
    | with_reducible apply enterOp_canon | dsimp only | split | simp only [canonical_state_mk] | with_reducible apply canonical_of_state

theorem taccLanes_canon {s : State} (o : Op) (pen off : Nat) (hm : s.canonical = true) : (taccLanes s o pen off).canonical = true := by
  unfold taccLanes
  try dsimp only
  repeat' first
    | with_reducible exact hm | with_reducible assumption | intro _ | with_reducible apply setPenWord_canon
    | with_reducible apply foldl_canon | dsimp only | split | simp only [canonical_state_mk] | with_reducible apply canonical_of_state

theorem execTaccApply_canon {s : State} (hm : s.canonical = true) : Keeps (execTaccApply s) := by
  unfold execTaccApply
  try dsimp only
  repeat' first
    | with_reducible exact hm | with_reducible assumption | intro _ | with_reducible exact keeps_fault _
    | with_reducible exact keeps_refused _ | with_reducible refine keeps_next ?_ | with_reducible apply fixPen_canon
    | with_reducible apply failOp_canon | with_reducible apply raiseOp_canon | with_reducible apply dropOp_canon
    | with_reducible apply orAstat_canon | with_reducible apply taccLanes_canon | with_reducible apply setPenWord_canon
    | with_reducible apply emitOp_canon | dsimp only | split | simp only [canonical_state_mk] | with_reducible apply canonical_of_state

theorem riderPen_canon {s : State} {τ : Task} {p : Nat} {t : State} (hm : s.canonical = true) (he : riderPen s τ p = .ok t) :
    t.canonical = true := by
  unfold riderPen at he
  simp only [bind, Except.bind] at he
  repeat' split at he
  all_goals first
    | (cases he; done)
    | cases he; exact fixPen_canon _ _ _ (drainStp_canon _ hm)
    | cases he

theorem execFold_canon (a b : Src) (t : Target) {s : State} (hm : s.canonical = true) : Keeps (execFold a b t s) := by
  unfold execFold
  try dsimp only
  repeat' first
    | with_reducible exact hm | with_reducible assumption | intro _ | with_reducible exact keeps_fault _
    | with_reducible exact keeps_refused _ | with_reducible refine keeps_next ?_
    | (with_reducible refine riderPen_canon ?_ (by assumption)) | with_reducible apply runBody_canon
    | (with_reducible refine runBody_canon _ ?_ ?_) | with_reducible apply keepsBody_bind | with_reducible apply keepsBody_ok
    | exact keepsBody_error _ | exact keepsBody_stop _ _ | dsimp only | split | simp only [canonical_state_mk]
    | with_reducible apply canonical_of_state

theorem execFfin_canon (a : Src) (t : Target) {s : State} (hm : s.canonical = true) : Keeps (execFfin a t s) := by
  unfold execFfin
  try dsimp only
  repeat' first
    | with_reducible exact hm | with_reducible assumption | intro _ | with_reducible exact keeps_fault _
    | with_reducible exact keeps_refused _ | with_reducible refine keeps_next ?_
    | (with_reducible refine riderPen_canon ?_ (by assumption)) | with_reducible apply runBody_canon
    | (with_reducible refine runBody_canon _ ?_ ?_) | with_reducible apply keepsBody_bind | with_reducible apply keepsBody_ok
    | exact keepsBody_error _ | exact keepsBody_stop _ _ | dsimp only | split | simp only [canonical_state_mk]
    | with_reducible apply canonical_of_state

theorem foldFill_mem_fst {s : State} (h : Rider) (x : BaleEntry) (rp bidx : Nat) (hm : s.canonical = true) : (foldFill s h x rp bidx).1.canonical = true := by
  unfold foldFill
  try dsimp only
  repeat' first
    | with_reducible exact hm | with_reducible assumption | intro _ | (with_reducible refine freshFill_canon ?_ (by assumption))
    | with_reducible apply freshFill_mem_fst | dsimp only | split | simp only [canonical_state_mk] | with_reducible apply canonical_of_state

theorem foldFill_canon {s : State} {h : Rider} {x : BaleEntry} {rp bidx : Nat} {r1 : State} {r2 : Except FoldStop (BaleEntry × Nat)} (hm : s.canonical = true)
    (he : foldFill s h x rp bidx = (r1, r2)) : r1.canonical = true := by
  have := foldFill_mem_fst h x rp bidx hm
  rwa [he] at this

theorem foldPlaced_mem_fst {s : State} (o : Op) (h : Rider) (x : BaleEntry) (bidx : Nat) (hm : s.canonical = true) : (foldPlaced s o h x bidx).1.canonical = true := by
  unfold foldPlaced
  try dsimp only
  repeat' first
    | with_reducible exact hm | with_reducible assumption | intro _ | (with_reducible refine resolvePlace_canon ?_ (by assumption))
    | with_reducible apply resolvePlace_mem_fst | (with_reducible refine ringList_canon ?_ (by assumption))
    | with_reducible apply ringList_mem_fst | (with_reducible refine foldFill_canon ?_ (by assumption))
    | with_reducible apply foldFill_mem_fst | dsimp only | split | simp only [canonical_state_mk] | with_reducible apply canonical_of_state

theorem foldPlaced_canon {s : State} {o : Op} {h : Rider} {x : BaleEntry} {bidx : Nat} {r1 : State} {r2 : Except FoldStop (BaleEntry × Nat)} (hm : s.canonical = true)
    (he : foldPlaced s o h x bidx = (r1, r2)) : r1.canonical = true := by
  have := foldPlaced_mem_fst o h x bidx hm
  rwa [he] at this

theorem foldEntry_mem_fst {s : State} (o : Op) (h : Rider) (bidx : Nat) (hm : s.canonical = true) : (foldEntry s o h bidx).1.canonical = true := by
  unfold foldEntry
  try dsimp only
  repeat' first
    | with_reducible exact hm | with_reducible assumption | intro _ | (with_reducible refine lookBale_canon ?_ (by assumption))
    | with_reducible apply lookBale_mem_fst | (with_reducible refine foldPlaced_canon ?_ (by assumption))
    | with_reducible apply foldPlaced_mem_fst | with_reducible apply foldPlaced_mem_fst | dsimp only | split
    | simp only [canonical_state_mk] | with_reducible apply canonical_of_state

theorem foldEntry_canon {s : State} {o : Op} {h : Rider} {bidx : Nat} {r1 : State} {r2 : Except FoldStop (BaleEntry × Nat)} (hm : s.canonical = true)
    (he : foldEntry s o h bidx = (r1, r2)) : r1.canonical = true := by
  have := foldEntry_mem_fst o h bidx hm
  rwa [he] at this

theorem setRider_canon {s : State} (tile paddr off : Nat) (w : Word) (hm : s.canonical = true) : (setRider s tile paddr off w).canonical = true := by
  unfold setRider
  try dsimp only
  repeat' first
    | with_reducible exact hm | with_reducible assumption | intro _ | with_reducible apply setPenWord_canon | dsimp only | split
    | simp only [canonical_state_mk] | with_reducible apply canonical_of_state

theorem foldRider_canon {s : State} (o : Op) (h : Rider) (x : BaleEntry) (rp raw : Nat) (hm : s.canonical = true) :
    (foldRider s o h x rp raw).canonical = true := by
  unfold foldRider
  try dsimp only
  repeat' first
    | with_reducible exact hm | with_reducible assumption | intro _ | with_reducible apply orAstat_canon
    | with_reducible apply setRider_canon | with_reducible apply getD_canon | with_reducible apply foldl_canon | dsimp only | split
    | simp only [canonical_state_mk] | with_reducible apply canonical_of_state

theorem takeRider_mem_fst {s : State} (o : Op) (hm : s.canonical = true) : (takeRider s o).1.canonical = true := by
  unfold takeRider
  try dsimp only
  repeat' first
    | with_reducible exact hm | with_reducible assumption | intro _ | with_reducible apply fixPen_canon | dsimp only | split
    | simp only [canonical_state_mk] | with_reducible apply canonical_of_state

theorem takeRider_canon {s : State} {o : Op} {r1 : State} {r2 : Except (Nat × Nat) Rider} (hm : s.canonical = true)
    (he : takeRider s o = (r1, r2)) : r1.canonical = true := by
  have := takeRider_mem_fst o hm
  rwa [he] at this

theorem applyFold_canon {s : State} (o : Op) (hm : s.canonical = true) : (applyFold s o).canonical = true := by
  unfold applyFold
  try dsimp only
  repeat' first
    | with_reducible exact hm | with_reducible assumption | intro _ | (with_reducible refine takeRider_canon ?_ (by assumption))
    | with_reducible apply takeRider_mem_fst | with_reducible apply unitFail_canon
    | (with_reducible refine foldEntry_canon ?_ (by assumption)) | with_reducible apply foldEntry_mem_fst | with_reducible apply setOp_canon
    | (with_reducible refine baleRead_canon ?_ (by assumption)) | with_reducible apply baleRead_mem_fst
    | with_reducible apply unitDone_canon | with_reducible apply foldRider_canon | dsimp only | split | simp only [canonical_state_mk]
    | with_reducible apply canonical_of_state

theorem execFoldApply_canon {s : State} (hm : s.canonical = true) : Keeps (execFoldApply s) := by
  unfold execFoldApply
  try dsimp only
  repeat' first
    | with_reducible exact hm | with_reducible assumption | intro _ | with_reducible exact keeps_fault _
    | with_reducible exact keeps_refused _ | with_reducible refine keeps_next ?_ | with_reducible apply unitApply_canon
    | with_reducible apply applyFold_canon | dsimp only | split | simp only [canonical_state_mk] | with_reducible apply canonical_of_state

theorem execFoldRetry_canon {s : State} (hm : s.canonical = true) : Keeps (execFoldRetry s) := by
  unfold execFoldRetry
  try dsimp only
  repeat' first
    | with_reducible exact hm | with_reducible assumption | intro _ | with_reducible exact keeps_fault _
    | with_reducible exact keeps_refused _ | with_reducible refine keeps_next ?_ | with_reducible apply unitApply_canon
    | with_reducible apply setOp_canon | with_reducible apply applyFold_canon | dsimp only | split | simp only [canonical_state_mk]
    | with_reducible apply canonical_of_state

theorem finishRider_canon {s : State} (o : Op) (h : Rider) (r : Nat) (hm : s.canonical = true) : (finishRider s o h r).canonical = true := by
  unfold finishRider
  try dsimp only
  repeat' first
    | with_reducible exact hm | with_reducible assumption | intro _ | with_reducible apply setRider_canon
    | with_reducible apply orAstat_canon | with_reducible apply foldl_canon | dsimp only | split | simp only [canonical_state_mk]
    | with_reducible apply canonical_of_state

theorem execFfinApply_canon {s : State} (hm : s.canonical = true) : Keeps (execFfinApply s) := by
  unfold execFfinApply
  try dsimp only
  repeat' first
    | with_reducible exact hm | with_reducible assumption | intro _ | with_reducible exact keeps_fault _
    | with_reducible exact keeps_refused _ | with_reducible refine keeps_next ?_ | with_reducible apply unitApply_canon
    | (with_reducible refine takeRider_canon ?_ (by assumption)) | with_reducible apply takeRider_mem_fst
    | with_reducible apply unitFail_canon | with_reducible apply finishRider_canon | with_reducible apply unitDone_canon
    | with_reducible apply setRider_canon | with_reducible apply getD_canon | with_reducible apply foldl_canon | dsimp only | split
    | simp only [canonical_state_mk] | with_reducible apply canonical_of_state

theorem readParts_mem_fst {s : State} (tile asid : Nat) (w : Want) (xs : List Lane) (hm : s.canonical = true) :
    (readParts tile asid w xs s).1.canonical = true := by
  induction xs generalizing s with
  | nil => exact hm
  | cons x r ih =>
    unfold readParts
    split
    · next h => exact xlateNow_canon hm h
    · next h =>
      have h1 := xlateNow_canon hm h
      split
      · next h => exact readHome_canon h1 h
      · next h =>
        have h2 := ih (readHome_canon h1 h)
        split
        · next h => rw [h] at h2; exact h2
        · next h => rw [h] at h2; exact h2

theorem readParts_canon {s : State} {tile asid : Nat} {w : Want} {xs : List Lane} {r1 r2} (hm : s.canonical = true)
    (he : readParts tile asid w xs s = (r1, r2)) : r1.canonical = true := by
  have := readParts_mem_fst tile asid w xs hm
  rwa [he] at this

theorem readVa_mem_fst {s : State} (tile asid va n : Nat) (w : Want) (hm : s.canonical = true) : (readVa s tile asid va n w).1.canonical = true := by
  unfold readVa
  try dsimp only
  repeat' first
    | with_reducible exact hm | with_reducible assumption | intro _ | (with_reducible refine readParts_canon ?_ (by assumption))
    | with_reducible apply readParts_mem_fst | dsimp only | split | simp only [canonical_state_mk] | with_reducible apply canonical_of_state

theorem readVa_canon {s : State} {tile asid va n : Nat} {w : Want} {r1 : State} {r2 : Except (Nat × Nat × Nat) (List (BitVec 8))} (hm : s.canonical = true)
    (he : readVa s tile asid va n w = (r1, r2)) : r1.canonical = true := by
  have := readVa_mem_fst tile asid va n w hm
  rwa [he] at this

theorem writeParts_mem_fst {s : State} (tile asid : Nat) (w : Want) (enc : Option Nat) (xs : List Lane) (bs : List (BitVec 8)) (hm : s.canonical = true) :
    (writeParts tile asid w enc xs bs s).1.canonical = true := by
  induction xs generalizing s bs with
  | nil => exact hm
  | cons x r ih =>
    unfold writeParts
    split
    · next h => exact xlateNow_canon hm h
    · next h => exact ih _ (homeWriteBytes_canon _ _ _ (xlateNow_canon hm h))

theorem writeParts_canon {s : State} {tile asid : Nat} {w : Want} {enc : Option Nat} {xs : List Lane} {bs : List (BitVec 8)} {r1 r2} (hm : s.canonical = true)
    (he : writeParts tile asid w enc xs bs s = (r1, r2)) : r1.canonical = true := by
  have := writeParts_mem_fst tile asid w enc xs bs hm
  rwa [he] at this

theorem writeVaIn_mem_fst {s : State} (tile asid va : Nat) (bs : List (BitVec 8)) (user : Bool) (enc : Option Nat) (hm : s.canonical = true) : (writeVaIn s tile asid va bs user enc).1.canonical = true := by
  unfold writeVaIn
  try dsimp only
  repeat' first
    | with_reducible exact hm | with_reducible assumption | intro _ | (with_reducible refine writeParts_canon ?_ (by assumption))
    | with_reducible apply writeParts_mem_fst | dsimp only | split | simp only [canonical_state_mk]
    | with_reducible apply canonical_of_state

theorem writeVaIn_canon {s : State} {tile asid va : Nat} {bs : List (BitVec 8)} {user : Bool} {enc : Option Nat} {r1 : State} {r2 : Option (Nat × Nat × Nat)} (hm : s.canonical = true)
    (he : writeVaIn s tile asid va bs user enc = (r1, r2)) : r1.canonical = true := by
  have := writeVaIn_mem_fst tile asid va bs user enc hm
  rwa [he] at this

theorem writeVa_mem_fst {s : State} (tile asid va : Nat) (bs : List (BitVec 8)) (user : Bool) (hm : s.canonical = true) : (writeVa s tile asid va bs user).1.canonical = true := by
  unfold writeVa
  try dsimp only
  repeat' first
    | with_reducible exact hm | with_reducible assumption | intro _ | (with_reducible refine writeVaIn_canon ?_ (by assumption))
    | with_reducible apply writeVaIn_mem_fst | dsimp only | split | simp only [canonical_state_mk] | with_reducible apply canonical_of_state

theorem writeVa_canon {s : State} {tile asid va : Nat} {bs : List (BitVec 8)} {user : Bool} {r1 : State} {r2 : Option (Nat × Nat × Nat)} (hm : s.canonical = true)
    (he : writeVa s tile asid va bs user = (r1, r2)) : r1.canonical = true := by
  have := writeVa_mem_fst tile asid va bs user hm
  rwa [he] at this

theorem loadGait_canon {s : State} (tile gait : Nat) (r : RegionImg) (hm : s.canonical = true) : (loadGait s tile gait r).canonical = true := by
  unfold loadGait
  try dsimp only
  repeat' first
    | with_reducible exact hm | with_reducible assumption | intro _ | with_reducible apply setPe_canon | with_reducible apply getD_canon
    | with_reducible apply foldl_canon | dsimp only | split | simp only [canonical_state_mk] | with_reducible apply canonical_of_state
    | with_reducible apply canonical_mk

theorem clearTile_canon {s : State} (tile : Nat) (p : Plan) (hm : s.canonical = true) : (clearTile s tile p).canonical = true :=
  canonical_sram (m := s.mem) hm (wf_sdrop _ _ _ (sram_wf_of hm))

theorem loadRegion_canon {s : State} (tile asid gait : Nat) (lts : List Nat) (r : RegionImg) (data : List PenData) (hm : s.canonical = true) : (loadRegion s tile asid gait lts r data).canonical = true := by
  unfold loadRegion
  try dsimp only
  repeat' first
    | with_reducible exact hm | with_reducible assumption | intro _ | with_reducible apply clearTile_canon
    | with_reducible apply loadGait_canon | with_reducible apply sramWriteBytes_canon | with_reducible apply foldl_canon | dsimp only
    | split | simp only [canonical_state_mk] | with_reducible apply canonical_of_state

theorem readImage_mem_fst {s : State} (tile asid va : Nat) (hm : s.canonical = true) : (readImage s tile asid va).1.canonical = true := by
  unfold readImage
  try dsimp only
  repeat' first
    | with_reducible exact hm | with_reducible assumption | intro _ | (with_reducible refine readVa_canon ?_ (by assumption))
    | with_reducible apply readVa_mem_fst | dsimp only | split | simp only [canonical_state_mk] | with_reducible apply canonical_of_state

theorem readImage_canon {s : State} {tile asid va : Nat} {r1 : State} {r2 : Except Nat (List (BitVec 8))} (hm : s.canonical = true)
    (he : readImage s tile asid va = (r1, r2)) : r1.canonical = true := by
  have := readImage_mem_fst tile asid va hm
  rwa [he] at this

theorem readTile_canon {s : State} (tile : Nat) (hm : s.canonical = true) : (readTile s tile).canonical = true := by
  unfold readTile
  try dsimp only
  repeat' first
    | with_reducible exact hm | with_reducible assumption | intro _ | with_reducible apply correctSoft_canon
    | with_reducible apply fixSram_canon | with_reducible apply correctAt_canon | with_reducible apply fixIsl_canon
    | with_reducible apply foldl_canon | dsimp only | split | simp only [canonical_state_mk] | with_reducible apply canonical_of_state

theorem reportBad_canon {s : State} (tile : Nat) (hm : s.canonical = true) : (reportBad s tile).canonical = true := by
  unfold reportBad
  try dsimp only
  repeat' first
    | with_reducible exact hm | with_reducible assumption | intro _ | with_reducible apply readTile_canon
    | with_reducible apply frameless_canon | with_reducible apply foldl_canon | dsimp only | split | simp only [canonical_state_mk]
    | with_reducible apply canonical_of_state

theorem vacateTile_canon {s : State} (q tile : Nat) (hm : s.canonical = true) : (vacateTile s q tile).canonical = true := by
  unfold vacateTile
  try dsimp only
  repeat' first
    | with_reducible exact hm | with_reducible assumption | intro _ | dsimp only | split | simp only [canonical_state_mk]
    | with_reducible apply canonical_of_state

theorem clearRestored_canon {s : State} (x : SavedTile) (tile lo : Nat) (first : Bool) (hm : s.canonical = true) : (clearRestored s x tile lo first).canonical = true := by
  unfold clearRestored
  try dsimp only
  repeat' first
    | with_reducible exact hm | with_reducible assumption | intro _ | with_reducible apply clearSlot_canon
    | with_reducible apply clearIsl_canon | with_reducible apply foldl_canon | dsimp only | split | simp only [canonical_state_mk]
    | with_reducible apply canonical_of_state

theorem restoreRecords_canon {s : State} (x : SavedTile) (tile rank : Nat) (hm : s.canonical = true) : (restoreRecords s x tile rank).canonical = true := by
  unfold restoreRecords
  try dsimp only
  repeat' first
    | with_reducible exact hm | with_reducible assumption | intro _ | with_reducible apply recordWrite_canon
    | with_reducible apply moveRows_canon | with_reducible apply withdrawRow_canon | with_reducible apply foldl_canon | dsimp only | split
    | simp only [canonical_state_mk] | with_reducible apply canonical_of_state

theorem restoreTile_canon {s : State} (x : SavedTile) (tile rank : Nat) (hm : s.canonical = true) :
    (restoreTile s x tile rank).canonical = true := by
  unfold restoreTile
  dsimp only
  refine foldl_canon (restoreRecords_canon _ _ _ ?_) fun s c h => setPe_canon _ _ _ h
  have h := clearRestored_canon x tile (slotLow s tile rank) (decide (rank = 0)) hm
  exact canonical_rein h (wf_mreplace _ _ _ _ _ (rein_wf_of h))

theorem restoreHost_canon {s : State} (xs : List SavedTile) (tile : Nat) (hm : s.canonical = true) :
    (restoreHost s xs tile).canonical = true := by
  have h := foldl_canon (l := xs.zipIdx) (f := fun s x => restoreTile s x.1 tile x.2) hm fun s x h => restoreTile_canon _ _ _ h
  unfold restoreHost
  dsimp only
  simp only [canonical_state_mk]
  exact canonical_sram (canonical_of_state h) (wf_mreplace _ _ _ _ _ (sram_wf_of (canonical_of_state h)))

theorem sortOps_canon {s : State} (hm : s.canonical = true) : (sortOps s).canonical = true := by
  unfold sortOps
  try dsimp only
  repeat' first
    | with_reducible exact hm | with_reducible assumption | intro _ | with_reducible apply foldr_canon | dsimp only | split
    | simp only [canonical_state_mk] | with_reducible apply canonical_of_state

theorem wakeTile_canon {s : State} (tile : Nat) (hm : s.canonical = true) : (wakeTile s tile).canonical = true := by
  unfold wakeTile
  try dsimp only
  repeat' first
    | with_reducible exact hm | with_reducible assumption | intro _ | with_reducible apply wakeFrame_canon
    | with_reducible apply foldl_canon | dsimp only | split | simp only [canonical_state_mk] | with_reducible apply canonical_of_state

theorem clearGerr_canon {s : State} (tile : Nat) (hm : s.canonical = true) : (clearGerr s tile).canonical = true := by
  unfold clearGerr
  try dsimp only
  repeat' first
    | with_reducible exact hm | with_reducible assumption | intro _ | with_reducible apply setTileReg_canon | dsimp only | split
    | simp only [canonical_state_mk] | with_reducible apply canonical_of_state

theorem writeReg_mem_fst {s : State} (tile n : Nat) (v : Word) (hm : s.canonical = true) : (writeReg s tile n v).1.canonical = true := by
  unfold writeReg
  try dsimp only
  repeat' first
    | with_reducible exact hm | with_reducible assumption | intro _ | with_reducible apply setTileReg_canon
    | with_reducible apply clearGerr_canon | with_reducible apply setQreq_canon | dsimp only | split | simp only [canonical_state_mk]
    | with_reducible apply canonical_of_state

theorem writeReg_canon {s : State} {tile n : Nat} {v : Word} {r1 : State} {r2 : Nat} (hm : s.canonical = true)
    (he : writeReg s tile n v = (r1, r2)) : r1.canonical = true := by
  have := writeReg_mem_fst tile n v hm
  rwa [he] at this

theorem execGerrClear_canon {s : State} (hm : s.canonical = true) : Keeps (execGerrClear s) := by
  unfold execGerrClear
  try dsimp only
  repeat' first
    | with_reducible exact hm | with_reducible assumption | intro _ | with_reducible exact keeps_fault _
    | with_reducible exact keeps_refused _ | with_reducible refine keeps_next ?_ | with_reducible apply clearGerr_canon | dsimp only | split
    | simp only [canonical_state_mk] | with_reducible apply canonical_of_state

theorem execSvecWrite_canon {s : State} (hm : s.canonical = true) : Keeps (execSvecWrite s) := by
  unfold execSvecWrite
  try dsimp only
  repeat' first
    | with_reducible exact hm | with_reducible assumption | intro _ | with_reducible exact keeps_fault _
    | with_reducible exact keeps_refused _ | with_reducible refine keeps_next ?_ | (with_reducible refine writeReg_canon ?_ (by assumption))
    | with_reducible apply writeReg_mem_fst | dsimp only | split | simp only [canonical_state_mk] | with_reducible apply canonical_of_state

theorem execQreqP0_canon {s : State} (hm : s.canonical = true) : Keeps (execQreqP0 s) := by
  unfold execQreqP0
  try dsimp only
  repeat' first
    | with_reducible exact hm | with_reducible assumption | intro _ | with_reducible exact keeps_fault _
    | with_reducible exact keeps_refused _ | with_reducible refine keeps_next ?_ | with_reducible apply setQreq_canon | dsimp only | split
    | simp only [canonical_state_mk] | with_reducible apply canonical_of_state

theorem execQreqP1_canon {s : State} (hm : s.canonical = true) : Keeps (execQreqP1 s) := by
  unfold execQreqP1
  try dsimp only
  repeat' first
    | with_reducible exact hm | with_reducible assumption | intro _ | with_reducible exact keeps_fault _
    | with_reducible exact keeps_refused _ | with_reducible refine keeps_next ?_ | with_reducible apply setQreq_canon | dsimp only | split
    | simp only [canonical_state_mk] | with_reducible apply canonical_of_state

theorem execQreqP2_canon {s : State} (hm : s.canonical = true) : Keeps (execQreqP2 s) := by
  unfold execQreqP2
  try dsimp only
  repeat' first
    | with_reducible exact hm | with_reducible assumption | intro _ | with_reducible exact keeps_fault _
    | with_reducible exact keeps_refused _ | with_reducible refine keeps_next ?_ | with_reducible apply setQreq_canon | dsimp only | split
    | simp only [canonical_state_mk] | with_reducible apply canonical_of_state

theorem execIdleRestart_canon {s : State} (hm : s.canonical = true) : Keeps (execIdleRestart s) := by
  unfold execIdleRestart
  try dsimp only
  repeat' first
    | with_reducible exact hm | with_reducible assumption | intro _ | with_reducible exact keeps_fault _
    | with_reducible exact keeps_refused _ | with_reducible refine keeps_next ?_ | with_reducible apply gate1_canon
    | with_reducible apply setOp_canon | with_reducible apply emitOp_canon | with_reducible apply ungate_canon
    | with_reducible apply dropOp_canon | dsimp only | split | simp only [canonical_state_mk] | with_reducible apply canonical_of_state

theorem execTileClockWake_canon {s : State} (hm : s.canonical = true) : Keeps (execTileClockWake s) := by
  unfold execTileClockWake
  try dsimp only
  repeat' first
    | with_reducible exact hm | with_reducible assumption | intro _ | with_reducible exact keeps_fault _
    | with_reducible exact keeps_refused _ | with_reducible refine keeps_next ?_ | with_reducible apply ungate_canon | dsimp only | split
    | simp only [canonical_state_mk] | with_reducible apply canonical_of_state

theorem execQuadrantEnterP2_canon {s : State} (hm : s.canonical = true) : Keeps (execQuadrantEnterP2 s) := by
  unfold execQuadrantEnterP2
  try dsimp only
  repeat' first
    | with_reducible exact hm | with_reducible assumption | intro _ | with_reducible exact keeps_fault _
    | with_reducible exact keeps_refused _ | with_reducible refine keeps_next ?_ | with_reducible apply getD_canon | dsimp only | split
    | simp only [canonical_state_mk] | with_reducible apply canonical_of_state

theorem execQuadrantWake_canon {s : State} (hm : s.canonical = true) : Keeps (execQuadrantWake s) := by
  unfold execQuadrantWake
  try dsimp only
  repeat' first
    | with_reducible exact hm | with_reducible assumption | intro _ | with_reducible exact keeps_fault _
    | with_reducible exact keeps_refused _ | with_reducible refine keeps_next ?_ | with_reducible apply setQreq_canon
    | with_reducible apply getD_canon | dsimp only | split | simp only [canonical_state_mk] | with_reducible apply canonical_of_state

theorem startCast_canon {s : State} (o : Op) (units : List Nat) (arg : Nat) (hm : s.canonical = true) : (startCast s o units arg).canonical = true := by
  unfold startCast
  try dsimp only
  repeat' first
    | with_reducible exact hm | with_reducible assumption | intro _ | with_reducible apply setOp_canon | dsimp only | split
    | simp only [canonical_state_mk] | with_reducible apply canonical_of_state

theorem acknowledge_canon {s : State} (id u : Nat) (hm : s.canonical = true) : (acknowledge s id u).canonical = true := by
  unfold acknowledge
  try dsimp only
  repeat' first
    | with_reducible exact hm | with_reducible assumption | intro _ | dsimp only | split | simp only [canonical_state_mk]
    | with_reducible apply canonical_of_state

theorem holdUnit_canon {s : State} (id u : Nat) (ids : List Nat) (hm : s.canonical = true) : (holdUnit s id u ids).canonical = true := by
  unfold holdUnit
  try dsimp only
  repeat' first
    | with_reducible exact hm | with_reducible assumption | intro _ | dsimp only | split | simp only [canonical_state_mk]
    | with_reducible apply canonical_of_state

theorem castTurn_canon {s : State} {want : OpKind → Bool} {start : State → Op → State} {act : State → Op → Nat → State × List Nat}
    (hm : s.canonical = true) (hs : ∀ s o, s.canonical = true → (start s o).canonical = true)
    (ha : ∀ s o u, s.canonical = true → (act s o u).1.canonical = true) : (castTurn s want start act).canonical = true := by
  unfold castTurn
  dsimp only
  repeat' first
    | with_reducible exact hm | with_reducible apply hs | with_reducible apply acknowledge_canon | with_reducible apply holdUnit_canon
    | with_reducible apply writeBackAll_canon | split | simp only [canonical_state_mk] | with_reducible apply canonical_of_state
    | (next h => refine pair_canon ?_ h; exact ha _ _ _ hm)

theorem execTbShootdownArrival_canon {s : State} (hm : s.canonical = true) : Keeps (execTbShootdownArrival s) := by
  unfold execTbShootdownArrival
  try dsimp only
  repeat' first
    | with_reducible exact hm | with_reducible assumption | intro _ | with_reducible exact keeps_fault _
    | with_reducible exact keeps_refused _ | with_reducible refine keeps_next ?_ | with_reducible apply castTurn_canon
    | with_reducible apply startCast_canon | with_reducible apply walkerRemove_canon | with_reducible apply tbRemove_canon | dsimp only
    | split | simp only [canonical_state_mk] | with_reducible apply canonical_of_state

theorem castDone_canon {s : State} (want : OpKind → Bool) (pod : Op → Bool) (hm : s.canonical = true) : (castDone s want pod).canonical = true := by
  unfold castDone
  try dsimp only
  repeat' first
    | with_reducible exact hm | with_reducible assumption | intro _ | with_reducible apply emitOp_canon | with_reducible apply dropOp_canon
    | dsimp only | split | simp only [canonical_state_mk] | with_reducible apply canonical_of_state

theorem execTbiCompletion_canon {s : State} (hm : s.canonical = true) : Keeps (execTbiCompletion s) := by
  unfold execTbiCompletion
  try dsimp only
  repeat' first
    | with_reducible exact hm | with_reducible assumption | intro _ | with_reducible exact keeps_fault _
    | with_reducible exact keeps_refused _ | with_reducible refine keeps_next ?_ | with_reducible apply castDone_canon | dsimp only | split
    | simp only [canonical_state_mk] | with_reducible apply canonical_of_state

theorem execBaleShootdownArrival_canon {s : State} (hm : s.canonical = true) : Keeps (execBaleShootdownArrival s) := by
  unfold execBaleShootdownArrival
  try dsimp only
  repeat' first
    | with_reducible exact hm | with_reducible assumption | intro _ | with_reducible exact keeps_fault _
    | with_reducible exact keeps_refused _ | with_reducible refine keeps_next ?_ | with_reducible apply castTurn_canon
    | with_reducible apply startCast_canon | dsimp only | split | simp only [canonical_state_mk] | with_reducible apply canonical_of_state

theorem execShinvCompletion_canon {s : State} (hm : s.canonical = true) : Keeps (execShinvCompletion s) := by
  unfold execShinvCompletion
  try dsimp only
  repeat' first
    | with_reducible exact hm | with_reducible assumption | intro _ | with_reducible exact keeps_fault _
    | with_reducible exact keeps_refused _ | with_reducible refine keeps_next ?_ | with_reducible apply castDone_canon | dsimp only | split
    | simp only [canonical_state_mk] | with_reducible apply canonical_of_state

theorem plbcHome_mem_fst {s : State} (seq : Nat) (hm : s.canonical = true) : (plbcHome s seq).1.canonical = true := by
  unfold plbcHome
  try dsimp only
  repeat' first
    | with_reducible exact hm | with_reducible assumption | intro _ | (with_reducible refine seqEntry_canon ?_ (by assumption))
    | with_reducible apply seqEntry_mem_fst | (with_reducible refine ringList_canon ?_ (by assumption))
    | with_reducible apply ringList_mem_fst | dsimp only | split | simp only [canonical_state_mk] | with_reducible apply canonical_of_state

theorem plbcHome_canon {s : State} {seq : Nat} {r1 : State} {r2 : Homed} (hm : s.canonical = true)
    (he : plbcHome s seq = (r1, r2)) : r1.canonical = true := by
  have := plbcHome_mem_fst seq hm
  rwa [he] at this

theorem setPgen_canon {s : State} (seq g : Nat) (hm : s.canonical = true) : (setPgen s seq g).canonical = true := by
  unfold setPgen
  try dsimp only
  repeat' first
    | with_reducible exact hm | with_reducible assumption | intro _ | with_reducible apply homeWrite_canon | dsimp only | split
    | simp only [canonical_state_mk] | with_reducible apply canonical_of_state

theorem refusePlbc_canon {s : State} (o : Op) (cause addr : Nat) (hm : s.canonical = true) : (refusePlbc s o cause addr).canonical = true := by
  unfold refusePlbc
  try dsimp only
  repeat' first
    | with_reducible exact hm | with_reducible assumption | intro _ | with_reducible apply dropOp_canon | with_reducible apply raiseOp_canon
    | dsimp only | split | simp only [canonical_state_mk] | with_reducible apply canonical_of_state

theorem startPlbc_canon {s : State} (o : Op) (hm : s.canonical = true) : (startPlbc s o).canonical = true := by
  unfold startPlbc
  try dsimp only
  repeat' first
    | with_reducible exact hm | with_reducible assumption | intro _ | (with_reducible refine plbcHome_canon ?_ (by assumption))
    | with_reducible apply plbcHome_mem_fst | with_reducible apply refusePlbc_canon | with_reducible apply startCast_canon
    | with_reducible apply setPgen_canon | dsimp only | split | simp only [canonical_state_mk] | with_reducible apply canonical_of_state

theorem takePlacement_canon {s : State} (o : Op) (g : Nat) (hm : s.canonical = true) : (takePlacement s o g).canonical = true := by
  unfold takePlacement
  try dsimp only
  repeat' first
    | with_reducible exact hm | with_reducible assumption | intro _ | dsimp only | split | simp only [canonical_state_mk]
    | with_reducible apply canonical_of_state

theorem execPlacementBroadcastArrival_canon {s : State} (hm : s.canonical = true) : Keeps (execPlacementBroadcastArrival s) := by
  unfold execPlacementBroadcastArrival
  try dsimp only
  repeat' first
    | with_reducible exact hm | with_reducible assumption | intro _ | with_reducible exact keeps_fault _
    | with_reducible exact keeps_refused _ | with_reducible refine keeps_next ?_ | with_reducible apply castTurn_canon
    | with_reducible apply startPlbc_canon | with_reducible apply takePlacement_canon | dsimp only | split | simp only [canonical_state_mk]
    | with_reducible apply canonical_of_state

theorem execPlbcCompletion_canon {s : State} (hm : s.canonical = true) : Keeps (execPlbcCompletion s) := by
  unfold execPlbcCompletion
  try dsimp only
  repeat' first
    | with_reducible exact hm | with_reducible assumption | intro _ | with_reducible exact keeps_fault _
    | with_reducible exact keeps_refused _ | with_reducible refine keeps_next ?_ | with_reducible apply castDone_canon | dsimp only | split
    | simp only [canonical_state_mk] | with_reducible apply canonical_of_state

theorem statusToken_canon {s : State} (o : Op) (ws : List Nat) (hm : s.canonical = true) : (statusToken s o ws).canonical = true := by
  unfold statusToken
  try dsimp only
  repeat' first
    | with_reducible exact hm | with_reducible assumption | intro _ | with_reducible apply emitOp_canon | dsimp only | split
    | simp only [canonical_state_mk] | with_reducible apply canonical_of_state

theorem sysFail_canon {s : State} (o : Op) (e : Nat × Nat × Nat) (hm : s.canonical = true) : (sysFail s o e).canonical = true := by
  unfold sysFail
  try dsimp only
  repeat' first
    | with_reducible exact hm | with_reducible assumption | intro _ | with_reducible apply failOp_canon | with_reducible apply addOp_canon
    | dsimp only | split | simp only [canonical_state_mk] | with_reducible apply canonical_of_state

theorem sysDone_canon {s : State} (o : Op) (ws : List Nat) (hm : s.canonical = true) : (sysDone s o ws).canonical = true := by
  unfold sysDone
  try dsimp only
  repeat' first
    | with_reducible exact hm | with_reducible assumption | intro _ | with_reducible apply statusToken_canon
    | with_reducible apply dropOp_canon | dsimp only | split | simp only [canonical_state_mk] | with_reducible apply canonical_of_state

theorem readRegion_mem_fst {s : State} (tile asid va : Nat) (hm : s.canonical = true) : (readRegion s tile asid va).1.canonical = true := by
  unfold readRegion
  try dsimp only
  repeat' first
    | with_reducible exact hm | with_reducible assumption | intro _ | (with_reducible refine readVa_canon ?_ (by assumption))
    | with_reducible apply readVa_mem_fst | dsimp only | split | simp only [canonical_state_mk] | with_reducible apply canonical_of_state

theorem readRegion_canon {s : State} {tile asid va : Nat} {r1 : State} {r2 : Except (Nat × Nat × Nat) RegionImg} (hm : s.canonical = true)
    (he : readRegion s tile asid va = (r1, r2)) : r1.canonical = true := by
  have := readRegion_mem_fst tile asid va hm
  rwa [he] at this

theorem initialData_mem_fst {s : State} (tile : Nat) (r : RegionImg) (hm : s.canonical = true) : (initialData s tile r).1.canonical = true := by
  unfold initialData
  try dsimp only
  repeat' first
    | with_reducible exact hm | with_reducible assumption | intro _ | (with_reducible refine readImage_canon ?_ (by assumption))
    | with_reducible apply readImage_mem_fst | with_reducible apply getD_canon | dsimp only | split | simp only [canonical_state_mk]
    | with_reducible apply canonical_of_state

theorem initialData_canon {s : State} {tile : Nat} {r : RegionImg} {r1 : State} {r2 : RegionImg × List PenData} (hm : s.canonical = true)
    (he : initialData s tile r = (r1, r2)) : r1.canonical = true := by
  have := initialData_mem_fst tile r hm
  rwa [he] at this

theorem loadImage_canon {o : Op} {r : State × Except (Nat × Nat × Nat) RegionImg} (hm : r.1.canonical = true) :
    (loadImage o r).canonical = true := by
  obtain ⟨s, r⟩ := r
  cases r with
  | error e => exact sysFail_canon _ _ hm
  | ok r =>
    unfold loadImage
    dsimp only
    split
    · exact sysDone_canon _ _ hm
    split
    · exact sysDone_canon _ _ hm
    exact sysDone_canon _ _ (loadRegion_canon _ _ _ _ _ _ (initialData_mem_fst _ _ hm))

theorem commitCfgld_canon {s : State} (o : Op) (hm : s.canonical = true) : (commitCfgld s o).canonical = true := by
  unfold commitCfgld
  try dsimp only
  repeat' first
    | with_reducible exact hm | with_reducible assumption | intro _ | with_reducible apply loadImage_canon
    | (with_reducible refine readRegion_canon ?_ (by assumption)) | with_reducible apply readRegion_mem_fst | dsimp only | split
    | simp only [canonical_state_mk] | with_reducible apply canonical_of_state

theorem commitGait_canon {s : State} (o : Op) (hm : s.canonical = true) : (commitGait s o).canonical = true := by
  unfold commitGait
  try dsimp only
  repeat' first
    | with_reducible exact hm | with_reducible assumption | intro _ | with_reducible apply sysDone_canon
    | (with_reducible refine readImage_canon ?_ (by assumption)) | with_reducible apply readImage_mem_fst
    | with_reducible apply loadGait_canon | with_reducible apply getD_canon | dsimp only | split | simp only [canonical_state_mk]
    | with_reducible apply canonical_of_state

theorem parkAnswer_canon {o : Op} {n : Nat} {r : State × Option (Nat × Nat × Nat)} (hm : r.1.canonical = true) :
    (parkAnswer o n r).canonical = true := by
  obtain ⟨s, r⟩ := r
  cases r with
  | none => exact sysDone_canon _ _ hm
  | some e => exact sysFail_canon _ _ hm

theorem parkOne_canon {s : State} (tile : Nat) (f : Nat × Nat × Nat × Position) (hm : s.canonical = true) : (parkOne s tile f).canonical = true := by
  unfold parkOne
  try dsimp only
  repeat' first
    | with_reducible exact hm | with_reducible assumption | intro _ | with_reducible apply writeRecord_canon
    | with_reducible apply parkFrame_canon | dsimp only | split | simp only [canonical_state_mk] | with_reducible apply canonical_of_state

theorem commitPark_canon {s : State} (o : Op) (hm : s.canonical = true) : (commitPark s o).canonical = true := by
  unfold commitPark
  try dsimp only
  repeat' first
    | with_reducible exact hm | with_reducible assumption | intro _ | with_reducible apply reportBad_canon
    | with_reducible apply parkOne_canon | with_reducible apply parkAnswer_canon
    | (with_reducible refine writeVaIn_canon ?_ (by assumption)) | with_reducible apply writeVaIn_mem_fst
    | with_reducible apply State_tick_canon | with_reducible apply foldl_canon | dsimp only | split | simp only [canonical_state_mk]
    | with_reducible apply canonical_of_state

theorem commitSys_canon {s : State} (o : Op) (hm : s.canonical = true) : (commitSys s o).canonical = true := by
  unfold commitSys
  try dsimp only
  repeat' first
    | with_reducible exact hm | with_reducible assumption | intro _ | with_reducible apply emitOp_canon | with_reducible apply enterOp_canon
    | (with_reducible refine writeReg_canon ?_ (by assumption)) | with_reducible apply writeReg_mem_fst
    | with_reducible apply statusToken_canon | with_reducible apply commitCfgld_canon | with_reducible apply commitGait_canon
    | with_reducible apply commitPark_canon | with_reducible apply getD_canon | dsimp only | split | simp only [canonical_state_mk]
    | with_reducible apply canonical_of_state

theorem repairSlot_canon {s : State} (o : Op) (tile rank c i : Nat) (b : Block) (ent : Nat) (hm : s.canonical = true) : (repairSlot s o tile rank c i b ent).canonical = true := by
  unfold repairSlot
  try dsimp only
  repeat' first
    | with_reducible exact hm | with_reducible assumption | intro _ | with_reducible apply clearSlot_canon | with_reducible apply getD_canon
    | dsimp only | split | simp only [canonical_state_mk] | with_reducible apply canonical_of_state

theorem resumeOp_canon {s : State} (o : Op) (hm : s.canonical = true) : (resumeOp s o).canonical = true := by
  unfold resumeOp
  try dsimp only
  repeat' first
    | with_reducible exact hm | with_reducible assumption | intro _ | with_reducible apply commitCfgld_canon
    | with_reducible apply commitGait_canon | with_reducible apply commitPark_canon | with_reducible apply replayDray_canon
    | with_reducible apply replayUnit_canon | with_reducible apply retryOp_canon | dsimp only | split | simp only [canonical_state_mk]
    | with_reducible apply canonical_of_state

theorem resumeFault_canon {s : State} (tile : Nat) (r : FaultRec) (hm : s.canonical = true) : (resumeFault s tile r).canonical = true := by
  unfold resumeFault
  try dsimp only
  repeat' first
    | with_reducible exact hm | with_reducible assumption | intro _ | with_reducible apply resumeHalted_canon
    | with_reducible apply resumeRow_canon | with_reducible apply resumeOp_canon | dsimp only | split | simp only [canonical_state_mk]
    | with_reducible apply canonical_of_state

theorem answerFault_canon {s : State} (tile rank c i : Nat) (hm : s.canonical = true) : (answerFault s tile rank c i).canonical = true := by
  unfold answerFault
  try dsimp only
  repeat' first
    | with_reducible exact hm | with_reducible assumption | intro _ | with_reducible apply writeRecord_canon
    | with_reducible apply wakeFrame_canon | with_reducible apply unpark_canon | with_reducible apply returnRows_canon | dsimp only | split
    | simp only [canonical_state_mk] | with_reducible apply canonical_of_state

theorem performEres_canon {s : State} (o : Op) (r : FaultRec) (tile rank : Nat) (rep : Bool) (ent : Nat) (hold : Bool)
    (hm : s.canonical = true) : (performEres s o r tile rank rep ent hold).canonical = true := by
  unfold performEres
  try dsimp only
  repeat' first
    | with_reducible exact hm | with_reducible assumption | intro _ | with_reducible apply answerFault_canon
    | with_reducible apply repairSlot_canon | with_reducible apply resumeFault_canon | dsimp only | split | simp only [canonical_state_mk]
    | with_reducible apply canonical_of_state

theorem dropStarved_canon {s : State} (o : Op) (hm : s.canonical = true) : (dropStarved s o).canonical = true := by
  unfold dropStarved
  try dsimp only
  repeat' first
    | with_reducible exact hm | with_reducible assumption | intro _ | with_reducible apply setOp_canon | with_reducible apply dropOp_canon
    | dsimp only | split | simp only [canonical_state_mk] | with_reducible apply canonical_of_state

theorem dropGive_canon {s : State} (g : Op) (pen : Nat) (hm : s.canonical = true) : (dropGive s g pen).canonical = true := by
  unfold dropGive
  try dsimp only
  repeat' first
    | with_reducible exact hm | with_reducible assumption | intro _ | with_reducible apply dropStarved_canon
    | with_reducible apply dropOp_canon | with_reducible apply foldl_canon | dsimp only | split | simp only [canonical_state_mk]
    | with_reducible apply canonical_of_state

theorem endRefused_canon {s : State} (p : Op) (hm : s.canonical = true) : (endRefused s p).canonical = true := by
  unfold endRefused
  try dsimp only
  repeat' first
    | with_reducible exact hm | with_reducible assumption | intro _ | with_reducible apply dropOp_canon
    | with_reducible apply abandonHold_canon | with_reducible apply setOp_canon | with_reducible apply dropGive_canon
    | with_reducible apply freeReserved_canon | dsimp only | split | simp only [canonical_state_mk]
    | with_reducible apply canonical_of_state

theorem dropFailed_canon {s : State} (o : Op) (hm : s.canonical = true) : (dropFailed s o).canonical = true := by
  unfold dropFailed
  try dsimp only
  repeat' first
    | with_reducible exact hm | with_reducible assumption | intro _ | with_reducible apply endRefused_canon
    | with_reducible apply dropHeld_canon | with_reducible apply raiseNext_canon | with_reducible apply dropGive_canon
    | with_reducible apply foldl_canon | dsimp only | split | simp only [canonical_state_mk] | with_reducible apply canonical_of_state

theorem dropEntry_canon {s : State} (o : Op) (hm : s.canonical = true) : (dropEntry s o).canonical = true := by
  unfold dropEntry
  try dsimp only
  repeat' first
    | with_reducible exact hm | with_reducible assumption | intro _ | with_reducible apply dropOp_canon
    | with_reducible apply flipLpen_canon | with_reducible apply voidRemotes_canon | with_reducible apply dropStarved_canon
    | with_reducible apply setOp_canon | with_reducible apply settleBlock_canon | dsimp only | split | simp only [canonical_state_mk]
    | with_reducible apply canonical_of_state

theorem dropEngines_canon {s : State} (tile rank c i : Nat) (hm : s.canonical = true) : (dropEngines s tile rank c i).canonical = true := by
  unfold dropEngines
  try dsimp only
  repeat' first
    | with_reducible exact hm | with_reducible assumption | intro _ | with_reducible apply dropEntry_canon
    | with_reducible apply foldl_canon | dsimp only | split | simp only [canonical_state_mk] | with_reducible apply canonical_of_state

theorem dropWaiters_canon {s : State} (tile rank c i : Nat) (hm : s.canonical = true) : (dropWaiters s tile rank c i).canonical = true := by
  unfold dropWaiters
  try dsimp only
  repeat' first
    | with_reducible exact hm | with_reducible assumption | intro _ | dsimp only | split | simp only [canonical_state_mk]
    | with_reducible apply canonical_of_state

theorem dropHalted_canon {s : State} (tile rank c i : Nat) (hm : s.canonical = true) : (dropHalted s tile rank c i).canonical = true := by
  unfold dropHalted
  try dsimp only
  repeat' first
    | with_reducible exact hm | with_reducible assumption | intro _ | with_reducible apply discardEffects_canon
    | with_reducible apply foldl_canon | dsimp only | split | simp only [canonical_state_mk] | with_reducible apply canonical_of_state

theorem dropPending_canon {s : State} (tile rank c i : Nat) (hm : s.canonical = true) : (dropPending s tile rank c i).canonical = true := by
  unfold dropPending
  try dsimp only
  repeat' first
    | with_reducible exact hm | with_reducible assumption | intro _ | with_reducible apply count_canon | with_reducible apply foldl_canon
    | dsimp only | split | simp only [canonical_state_mk] | with_reducible apply canonical_of_state

theorem endKilled_canon {s : State} (tile rank c i : Nat) (hm : s.canonical = true) : (endKilled s tile rank c i).canonical = true := by
  unfold endKilled
  try dsimp only
  repeat' first
    | with_reducible exact hm | with_reducible assumption | intro _ | with_reducible apply moveRows_canon
    | with_reducible apply setPosition_canon | with_reducible apply retire_canon | with_reducible apply writeRecord_canon | dsimp only
    | split | simp only [canonical_state_mk] | with_reducible apply canonical_of_state

theorem performEkill_canon {s : State} (r : FaultRec) (tile rank : Nat) (hm : s.canonical = true) : (performEkill s r tile rank).canonical = true := by
  unfold performEkill
  try dsimp only
  repeat' first
    | with_reducible exact hm | with_reducible assumption | intro _ | with_reducible apply dropHalted_canon
    | with_reducible apply dropWaiters_canon | with_reducible apply dropPending_canon | with_reducible apply dropEngines_canon
    | with_reducible apply dropFailed_canon | with_reducible apply removeRequests_canon | with_reducible apply endKilled_canon
    | with_reducible apply dropOwned_canon | with_reducible apply foldl_canon | dsimp only | split | simp only [canonical_state_mk]
    | with_reducible apply canonical_of_state

theorem answerHalt_canon {s : State} (tile : Nat) (r : FaultRec) (go : Bool) (hm : s.canonical = true) : (answerHalt s tile r go).canonical = true := by
  unfold answerHalt
  try dsimp only
  repeat' first
    | with_reducible exact hm | with_reducible assumption | intro _ | with_reducible apply resumeHalted_canon
    | with_reducible apply discardEffects_canon | with_reducible apply endHalted_canon
    | with_reducible apply getD_canon | dsimp only | split | simp only [canonical_state_mk] | with_reducible apply canonical_of_state

theorem commitHandler_canon {s : State} (o : Op) (hm : s.canonical = true) : (commitHandler s o).canonical = true := by
  unfold commitHandler
  try dsimp only
  repeat' first
    | with_reducible exact hm | with_reducible assumption | intro _ | with_reducible apply performEres_canon
    | with_reducible apply performEsc_canon | with_reducible apply performEkill_canon | with_reducible apply answerHalt_canon
    | with_reducible apply statusToken_canon | dsimp only | split | simp only [canonical_state_mk] | with_reducible apply canonical_of_state

theorem execAsyncFaultReport_canon {s : State} (hm : s.canonical = true) : Keeps (execAsyncFaultReport s) := by
  unfold execAsyncFaultReport
  try dsimp only
  repeat' first
    | with_reducible exact hm | with_reducible assumption | intro _ | with_reducible exact keeps_fault _
    | with_reducible exact keeps_refused _ | with_reducible refine keeps_next ?_ | with_reducible apply emitBlock_canon
    | with_reducible apply dropOp_canon | with_reducible apply raiseOp_canon | with_reducible apply setOp_canon
    | with_reducible apply dropFailed_canon | dsimp only | split | simp only [canonical_state_mk] | with_reducible apply canonical_of_state

theorem deliverNotice_canon {s : State} (tile : Nat) (r : FaultRec) (hm : s.canonical = true) : (deliverNotice s tile r).canonical = true := by
  unfold deliverNotice
  try dsimp only
  repeat' first
    | with_reducible exact hm | with_reducible assumption | intro _ | with_reducible apply getD_canon | dsimp only | split
    | simp only [canonical_state_mk] | with_reducible apply canonical_of_state

theorem execFaultDelivery_canon {s : State} (hm : s.canonical = true) : Keeps (execFaultDelivery s) := by
  unfold execFaultDelivery
  try dsimp only
  repeat' first
    | with_reducible exact hm | with_reducible assumption | intro _ | with_reducible exact keeps_fault _
    | with_reducible exact keeps_refused _ | with_reducible refine keeps_next ?_ | with_reducible apply deliverFault_canon
    | with_reducible apply deliverNotice_canon | dsimp only | split | simp only [canonical_state_mk]
    | with_reducible apply canonical_of_state

theorem setFaultRegs_canon {s : State} (tile : Nat) (r : FaultRec) (hm : s.canonical = true) : (setFaultRegs s tile r).canonical = true := by
  unfold setFaultRegs
  try dsimp only
  repeat' first
    | with_reducible exact hm | with_reducible assumption | intro _ | with_reducible apply setTileReg_canon
    | with_reducible apply getD_canon | with_reducible apply foldl_canon | dsimp only | split | simp only [canonical_state_mk]
    | with_reducible apply canonical_of_state

theorem execSupervisorFaultDequeue_canon {s : State} (hm : s.canonical = true) : Keeps (execSupervisorFaultDequeue s) := by
  unfold execSupervisorFaultDequeue
  try dsimp only
  repeat' first
    | with_reducible exact hm | with_reducible assumption | intro _ | with_reducible exact keeps_fault _
    | with_reducible exact keeps_refused _ | with_reducible refine keeps_next ?_ | with_reducible apply setFaultRegs_canon
    | with_reducible apply wakeGroom_canon | with_reducible apply getD_canon | dsimp only | split | simp only [canonical_state_mk]
    | with_reducible apply canonical_of_state

theorem fixEntries_canon {s : State} (r : Ready) (b : Block) (hm : s.canonical = true) : (fixEntries s r b).canonical = true := by
  unfold fixEntries
  split
  · refine foldl_canon hm fun s k h => ?_
    dsimp only
    cases sget s.frm.slots (slotKey s r.tile r.rank r.ctx r.iter (b.slot0 + k)) with
    | none => exact h
    | some x => exact correctSoft_canon _ _ _ h
  · exact hm

theorem fireTask_canon {s : State} (r : Ready) (hm : s.canonical = true) : (fireTask s r).canonical = true := by
  unfold fireTask
  try dsimp only
  repeat' first
    | with_reducible exact hm | with_reducible assumption | intro _ | with_reducible apply fixEntries_canon
    | with_reducible apply takeFault_canon | with_reducible apply State_setTask_canon | with_reducible apply getD_canon | dsimp only | split
    | simp only [canonical_state_mk] | with_reducible apply canonical_of_state

theorem execTaskFire_canon {s : State} (hm : s.canonical = true) : Keeps (execTaskFire s) := by
  unfold execTaskFire
  try dsimp only
  repeat' first
    | with_reducible exact hm | with_reducible assumption | intro _ | with_reducible exact keeps_fault _
    | with_reducible exact keeps_refused _ | with_reducible refine keeps_next ?_ | with_reducible apply orWait_canon
    | with_reducible apply takeHalted_canon | with_reducible apply fireTask_canon | with_reducible apply setPe_canon | dsimp only | split
    | simp only [canonical_state_mk] | with_reducible apply canonical_of_state

theorem releaseCommits_canon {s : State} (tile rank c f : Nat) (hm : s.canonical = true) :
    (releaseCommits tile rank c f s).canonical = true := by
  induction f generalizing s with
  | zero => exact hm
  | succ f ih =>
    unfold releaseCommits
    split
    · exact hm
    · dsimp only
      apply ih
      repeat' first
        | with_reducible exact hm | with_reducible apply raiseOp_canon | with_reducible apply emitOp_canon | with_reducible apply dropOp_canon
        | split | simp only [canonical_state_mk] | with_reducible apply canonical_of_state | dsimp only

theorem enterCommit_canon {s : State} (o : Op) (hm : s.canonical = true) : (enterCommit s o).canonical = true := by
  unfold enterCommit
  try dsimp only
  repeat' first
    | with_reducible exact hm | with_reducible assumption | intro _ | with_reducible apply raiseOn_canon
    | with_reducible apply enterOp_canon | with_reducible apply releaseCommits_canon | dsimp only | split | simp only [canonical_state_mk]
    | with_reducible apply canonical_of_state

theorem execCommitEntry_canon {s : State} (hm : s.canonical = true) : Keeps (execCommitEntry s) := by
  unfold execCommitEntry
  try dsimp only
  repeat' first
    | with_reducible exact hm | with_reducible assumption | intro _ | with_reducible exact keeps_fault _
    | with_reducible exact keeps_refused _ | with_reducible refine keeps_next ?_ | (with_reducible refine fits_canon ?_ (by assumption))
    | with_reducible apply fits_mem_elim | with_reducible apply enterCommit_canon | with_reducible apply acceptFlight_canon
    | with_reducible apply refuseFlight_canon | with_reducible apply getD_canon | dsimp only | split | simp only [canonical_state_mk]
    | with_reducible apply canonical_of_state

theorem drainLtld_canon {s : State} (tile : Nat) (hm : s.canonical = true) : (drainLtld s tile).canonical = true := by
  unfold drainLtld
  try dsimp only
  repeat' first
    | with_reducible exact hm | with_reducible assumption | intro _ | with_reducible apply clearIsl_canon
    | with_reducible apply dropOp_canon | with_reducible apply foldl_canon | dsimp only | split | simp only [canonical_state_mk]
    | with_reducible apply canonical_of_state

theorem applyAmax_canon {s : State} (tile n : Nat) (v : Word) (hm : s.canonical = true) : (applyAmax s tile n v).canonical = true := by
  unfold applyAmax
  try dsimp only
  repeat' first
    | with_reducible exact hm | with_reducible assumption | intro _ | with_reducible apply getD_canon | dsimp only | split
    | simp only [canonical_state_mk] | with_reducible apply canonical_of_state

theorem admitOp_mem_elim {s : State} (o : Op) (hm : s.canonical = true) : KeepsSome (admitOp s o) := by
  unfold admitOp
  try dsimp only
  repeat' first
    | with_reducible exact hm | with_reducible assumption | intro _ | with_reducible apply enterOp_canon
    | with_reducible exact keepsSome_none | with_reducible apply keepsSome_some | dsimp only | split | simp only [canonical_state_mk]
    | with_reducible apply canonical_of_state

theorem admitOp_canon {s : State} {o : Op} {tt : State} (hm : s.canonical = true) (he : admitOp s o = some tt) :
    tt.canonical = true :=
  (admitOp_mem_elim o hm).some tt he

theorem releaseOp_mem_elim {s : State} (o : Op) (hm : s.canonical = true) : KeepsSome (releaseOp s o) := by
  unfold releaseOp
  try dsimp only
  repeat' first
    | with_reducible exact hm | with_reducible assumption | intro _ | (with_reducible refine fits_canon ?_ (by assumption))
    | with_reducible apply fits_mem_elim | with_reducible apply commitSlot_canon | with_reducible apply commitMts_canon
    | with_reducible apply applyAmax_canon | with_reducible apply drainLtld_canon | with_reducible apply enterOp_canon
    | with_reducible apply emitOp_canon | with_reducible apply endContext_canon | (with_reducible refine admitOp_canon ?_ (by assumption))
    | with_reducible apply admitOp_mem_elim | with_reducible apply spawnChild_canon | with_reducible apply raiseOp_canon
    | with_reducible apply enterCommit_canon | with_reducible apply drainBefore_canon | with_reducible apply enterTacc_canon
    | with_reducible apply commitHandler_canon | with_reducible apply commitSys_canon | with_reducible apply enterQueue_canon
    | with_reducible exact keepsSome_none | with_reducible apply keepsSome_some | dsimp only | split | simp only [canonical_state_mk]
    | with_reducible apply canonical_of_state

theorem releaseOp_canon {s : State} {o : Op} {tt : State} (hm : s.canonical = true) (he : releaseOp s o = some tt) :
    tt.canonical = true :=
  (releaseOp_mem_elim o hm).some tt he

theorem releaseEntry_mem_elim {s : State} (tile elem : Nat) (e : CbEntry) (hm : s.canonical = true) :
    KeepsSome (releaseEntry s tile elem e) := by
  cases e with
  | emit h v ds =>
    unfold releaseEntry
    dsimp only
    repeat' first
      | with_reducible exact hm | with_reducible exact keepsSome_none | with_reducible apply keepsSome_some
      | with_reducible apply addOut_canon | split | simp only [canonical_state_mk] | with_reducible apply canonical_of_state
  | op o => exact releaseOp_mem_elim o hm

theorem releaseEntry_canon {s : State} {tile elem : Nat} {e : CbEntry} {t : State} (hm : s.canonical = true)
    (he : releaseEntry s tile elem e = some t) : t.canonical = true := (releaseEntry_mem_elim tile elem e hm).some t he

theorem releaseEntries_mem_fst {s : State} (tile elem : Nat) (e q : Bool) (es : List CbEntry) (hm : s.canonical = true) :
    (releaseEntries tile elem e q es s).1.canonical = true := by
  induction es generalizing s e q with
  | nil => exact hm
  | cons x r ih =>
    cases x with
    | emit h v ds =>
      unfold releaseEntries
      split
      · next h =>
        split at h
        · cases h
        · exact ih _ _ (releaseEntry_canon hm h)
      · exact ih _ _ hm
    | op o =>
      unfold releaseEntries
      split
      · next h =>
        split at h
        · cases h
        · exact ih _ _ (releaseEntry_canon hm h)
      · exact ih _ _ hm

theorem releaseEntries_canon {s : State} {tile elem : Nat} {e q : Bool} {es : List CbEntry} {r1 r2} (hm : s.canonical = true)
    (he : releaseEntries tile elem e q es s = (r1, r2)) : r1.canonical = true := by
  have := releaseEntries_mem_fst tile elem e q es hm
  rwa [he] at this

theorem continueRelease_canon {s : State} (tile elem : Nat) (hm : s.canonical = true) : (continueRelease s tile elem).canonical = true := by
  unfold continueRelease
  try dsimp only
  repeat' first
    | with_reducible exact hm | with_reducible assumption | intro _ | (with_reducible refine releaseEntries_canon ?_ (by assumption))
    | with_reducible apply releaseEntries_mem_fst | with_reducible apply setPe_canon | dsimp only | split | simp only [canonical_state_mk]
    | with_reducible apply canonical_of_state

theorem handOver_canon {s : State} (l : List CbEntry) (hm : s.canonical = true) : (handOver l s).canonical = true := by
  unfold handOver
  try dsimp only
  repeat' first
    | with_reducible exact hm | with_reducible assumption | intro _ | (with_reducible refine releaseOp_canon ?_ (by assumption))
    | with_reducible apply releaseOp_mem_elim | with_reducible apply getD_canon | with_reducible apply foldl_canon | dsimp only | split
    | simp only [canonical_state_mk] | with_reducible apply canonical_of_state

theorem configure_canon {s : State} (l : List CbEntry) (hm : s.canonical = true) : (configure l s).canonical = true := by
  unfold configure
  try dsimp only
  repeat' first
    | with_reducible exact hm | with_reducible assumption | intro _ | with_reducible apply commitNcfg_canon
    | with_reducible apply commitBrcfg_canon | with_reducible apply foldl_canon | dsimp only | split | simp only [canonical_state_mk]
    | with_reducible apply canonical_of_state

theorem liveContexts_canon {s : State} (l : List CbEntry) (hm : s.canonical = true) : (liveContexts s l).canonical = true := by
  unfold liveContexts
  try dsimp only
  repeat' first
    | with_reducible exact hm | with_reducible assumption | intro _ | with_reducible apply makeLive_canon | with_reducible apply foldl_canon
    | dsimp only | split | simp only [canonical_state_mk] | with_reducible apply canonical_of_state

theorem settleTask_canon {s : State} (tile : Nat) (τ : Task) (traps : Bool) (hm : s.canonical = true) : (settleTask s tile τ traps).canonical = true := by
  unfold settleTask
  try dsimp only
  repeat' first
    | with_reducible exact hm | with_reducible assumption | intro _ | with_reducible apply groomDone_canon
    | with_reducible apply parkFrame_canon | with_reducible apply clearEntries_canon | with_reducible apply countBlock_canon | dsimp only
    | split | simp only [canonical_state_mk] | with_reducible apply canonical_of_state

theorem commitTask_canon {s : State} (τ : Task) (hm : s.canonical = true) : (commitTask s τ).canonical = true := by
  unfold commitTask
  try dsimp only
  repeat' first
    | with_reducible exact hm | with_reducible assumption | intro _ | with_reducible apply State_dropTask_canon
    | with_reducible apply liveContexts_canon | with_reducible apply orAstat_canon | with_reducible apply settleTask_canon
    | with_reducible apply configure_canon | with_reducible apply setPe_canon | with_reducible apply handOver_canon
    | with_reducible apply continueRelease_canon | with_reducible apply step_canon | dsimp only | split | simp only [canonical_state_mk]
    | with_reducible apply canonical_of_state

theorem execBlockCommit_canon {s : State} (hm : s.canonical = true) : Keeps (execBlockCommit s) := by
  unfold execBlockCommit
  try dsimp only
  repeat' first
    | with_reducible exact hm | with_reducible assumption | intro _ | with_reducible exact keeps_fault _
    | with_reducible exact keeps_refused _ | with_reducible refine keeps_next ?_ | with_reducible apply continueRelease_canon
    | with_reducible apply drainLtld_canon | with_reducible apply takeFault_canon | with_reducible apply commitTask_canon | dsimp only
    | split | simp only [canonical_state_mk] | with_reducible apply canonical_of_state

theorem execTaskClassAging_canon {s : State} (hm : s.canonical = true) : Keeps (execTaskClassAging s) := by
  unfold execTaskClassAging
  try dsimp only
  repeat' first
    | with_reducible exact hm | with_reducible assumption | intro _ | with_reducible exact keeps_fault _
    | with_reducible exact keeps_refused _ | with_reducible refine keeps_next ?_ | dsimp only | split | simp only [canonical_state_mk]
    | with_reducible apply canonical_of_state

theorem execStageBalance_canon {s : State} (hm : s.canonical = true) : Keeps (execStageBalance s) := by
  unfold execStageBalance
  try dsimp only
  repeat' first
    | with_reducible exact hm | with_reducible assumption | intro _ | with_reducible exact keeps_fault _
    | with_reducible exact keeps_refused _ | with_reducible refine keeps_next ?_ | with_reducible apply setPe_canon
    | with_reducible apply getD_canon | dsimp only | split | simp only [canonical_state_mk] | with_reducible apply canonical_of_state

theorem execWatchdog_canon {s : State} (hm : s.canonical = true) : Keeps (execWatchdog s) := by
  unfold execWatchdog
  try dsimp only
  repeat' first
    | with_reducible exact hm | with_reducible assumption | intro _ | with_reducible exact keeps_fault _
    | with_reducible exact keeps_refused _ | with_reducible refine keeps_next ?_ | with_reducible apply frameless_canon | dsimp only | split
    | simp only [canonical_state_mk] | with_reducible apply canonical_of_state

theorem setLaunch_canon {s : State} (q : Nat) (l : Launch) (hm : s.canonical = true) : (setLaunch s q l).canonical = true := by
  unfold setLaunch
  try dsimp only
  repeat' first
    | with_reducible exact hm | with_reducible assumption | intro _ | dsimp only | split | simp only [canonical_state_mk]
    | with_reducible apply canonical_of_state

theorem asidLive_mem_fst {s : State} (asid : Nat) (hm : s.canonical = true) : (asidLive s asid).1.canonical = true := by
  unfold asidLive
  split
  · next h => exact asidRoot_canon hm h
  · next h => exact asidRoot_canon hm h

theorem asidLive_canon {s : State} {asid : Nat} {r1 : State} {r2 : Bool} (hm : s.canonical = true) (he : asidLive s asid = (r1, r2)) :
    r1.canonical = true := by
  have := asidLive_mem_fst asid hm
  rwa [he] at this

theorem readLaunch_mem_fst {s : State} (w : Issuer) (va : Nat) (hm : s.canonical = true) : (readLaunch s w va).1.canonical = true := by
  unfold readLaunch
  try dsimp only
  repeat' first
    | with_reducible exact hm | with_reducible assumption | intro _ | (with_reducible refine readVa_canon ?_ (by assumption))
    | with_reducible apply readVa_mem_fst | (with_reducible refine asidLive_canon ?_ (by assumption))
    | with_reducible apply asidLive_mem_fst | (with_reducible refine readImage_canon ?_ (by assumption))
    | with_reducible apply readImage_mem_fst | (with_reducible refine take_canon ?_ (by assumption)) | with_reducible apply take_mem_fst
    | dsimp only | split | simp only [canonical_state_mk] | with_reducible apply canonical_of_state

theorem readLaunch_canon {s : State} {w : Issuer} {va : Nat} {r1 : State} {r2 : List Word × Except Nat (List (List Word) × List Section)} (hm : s.canonical = true)
    (he : readLaunch s w va = (r1, r2)) : r1.canonical = true := by
  have := readLaunch_mem_fst w va hm
  rwa [he] at this

theorem putCompletion_canon {s : State} (asid crva : Nat) (bs : List (BitVec 8)) (hm : s.canonical = true) : (putCompletion s asid crva bs).canonical = true := by
  unfold putCompletion
  try dsimp only
  repeat' first
    | with_reducible exact hm | with_reducible assumption | intro _ | (with_reducible refine writeVa_canon ?_ (by assumption))
    | with_reducible apply writeVa_mem_fst | dsimp only | split | simp only [canonical_state_mk] | with_reducible apply canonical_of_state

theorem queueRecord_canon {s : State} (q : Nat) (w : Issuer) (ws : List Word) (inits : List (List Word)) (secs : List Section) (hm : s.canonical = true) : (queueRecord s q w ws inits secs).canonical = true := by
  unfold queueRecord
  try dsimp only
  repeat' first
    | with_reducible exact hm | with_reducible assumption | intro _ | with_reducible apply setLaunch_canon | dsimp only | split
    | simp only [canonical_state_mk] | with_reducible apply canonical_of_state

theorem takeRecord_mem_fst {s : State} (w : Issuer) (va q : Nat) (hm : s.canonical = true) : (takeRecord s w va q).1.canonical = true := by
  unfold takeRecord
  try dsimp only
  repeat' first
    | with_reducible exact hm | with_reducible assumption | intro _ | (with_reducible refine readLaunch_canon ?_ (by assumption))
    | with_reducible apply readLaunch_mem_fst | with_reducible apply putCompletion_canon | with_reducible apply answerAny_canon
    | with_reducible apply queueRecord_canon | dsimp only | split | simp only [canonical_state_mk] | with_reducible apply canonical_of_state

theorem takeRecord_canon {s : State} {w : Issuer} {va q : Nat} {r1 : State} {r2 : Nat × Nat} (hm : s.canonical = true)
    (he : takeRecord s w va q = (r1, r2)) : r1.canonical = true := by
  have := takeRecord_mem_fst w va q hm
  rwa [he] at this

theorem deviceIntake_canon {s : State} (o : Op) (hm : s.canonical = true) : (deviceIntake s o).canonical = true := by
  unfold deviceIntake
  try dsimp only
  repeat' first
    | with_reducible exact hm | with_reducible assumption | intro _ | with_reducible apply writeBackAll_canon
    | (with_reducible refine takeRecord_canon ?_ (by assumption)) | with_reducible apply takeRecord_mem_fst
    | with_reducible apply emitOp_canon | with_reducible apply dropOp_canon | dsimp only | split | simp only [canonical_state_mk]
    | with_reducible apply canonical_of_state

theorem hostIntake_canon {s : State} (n : Nat) (hm : s.canonical = true) : (hostIntake s n).canonical = true := by
  unfold hostIntake
  try dsimp only
  repeat' first
    | with_reducible exact hm | with_reducible assumption | intro _ | (with_reducible refine takeRecord_canon ?_ (by assumption))
    | with_reducible apply takeRecord_mem_fst | with_reducible apply getD_canon | dsimp only | split | simp only [canonical_state_mk]
    | with_reducible apply canonical_of_state

theorem execLaunchIntake_canon {s : State} (hm : s.canonical = true) : Keeps (execLaunchIntake s) := by
  unfold execLaunchIntake
  try dsimp only
  repeat' first
    | with_reducible exact hm | with_reducible assumption | intro _ | with_reducible exact keeps_fault _
    | with_reducible exact keeps_refused _ | with_reducible refine keeps_next ?_ | with_reducible apply hostIntake_canon
    | with_reducible apply deviceIntake_canon | dsimp only | split | simp only [canonical_state_mk]
    | with_reducible apply canonical_of_state

theorem execLaunchRecordAging_canon {s : State} (hm : s.canonical = true) : Keeps (execLaunchRecordAging s) := by
  unfold execLaunchRecordAging
  try dsimp only
  repeat' first
    | with_reducible exact hm | with_reducible assumption | intro _ | with_reducible exact keeps_fault _
    | with_reducible exact keeps_refused _ | with_reducible refine keeps_next ?_ | with_reducible apply setLaunch_canon | dsimp only | split
    | simp only [canonical_state_mk] | with_reducible apply canonical_of_state

theorem execRunBarrierReached_canon {s : State} (hm : s.canonical = true) : Keeps (execRunBarrierReached s) := by
  unfold execRunBarrierReached
  try dsimp only
  repeat' first
    | with_reducible exact hm | with_reducible assumption | intro _ | with_reducible exact keeps_fault _
    | with_reducible exact keeps_refused _ | with_reducible refine keeps_next ?_ | with_reducible apply writeBackAll_canon
    | with_reducible apply setLaunch_canon | with_reducible apply foldl_canon | dsimp only | split | simp only [canonical_state_mk]
    | with_reducible apply canonical_of_state

theorem retireIndex_canon {s : State} (q : Nat) (l : Launch) (hm : s.canonical = true) : (retireIndex s q l).canonical = true := by
  unfold retireIndex
  try dsimp only
  repeat' first
    | with_reducible exact hm | with_reducible assumption | intro _ | with_reducible apply setLaunch_canon | dsimp only | split
    | simp only [canonical_state_mk] | with_reducible apply canonical_of_state

theorem execLaunchEnd_canon {s : State} (hm : s.canonical = true) : Keeps (execLaunchEnd s) := by
  unfold execLaunchEnd
  try dsimp only
  repeat' first
    | with_reducible exact hm | with_reducible assumption | intro _ | with_reducible exact keeps_fault _
    | with_reducible exact keeps_refused _ | with_reducible refine keeps_next ?_ | with_reducible apply putCompletion_canon
    | with_reducible apply answerAny_canon | with_reducible apply settleTokens_canon | with_reducible apply retireIndex_canon | dsimp only
    | split | simp only [canonical_state_mk] | with_reducible apply canonical_of_state

theorem dropLaunch_canon {s : State} (q : Nat) (hm : s.canonical = true) : (dropLaunch s q).canonical = true := by
  unfold dropLaunch
  try dsimp only
  repeat' first
    | with_reducible exact hm | with_reducible assumption | intro _ | with_reducible apply settleTokens_canon | dsimp only | split
    | simp only [canonical_state_mk] | with_reducible apply canonical_of_state

theorem execTileFree_canon {s : State} (hm : s.canonical = true) : Keeps (execTileFree s) := by
  unfold execTileFree
  try dsimp only
  repeat' first
    | with_reducible exact hm | with_reducible assumption | intro _ | with_reducible exact keeps_fault _
    | with_reducible exact keeps_refused _ | with_reducible refine keeps_next ?_ | with_reducible apply dropLaunch_canon | dsimp only
    | split | simp only [canonical_state_mk] | with_reducible apply canonical_of_state

theorem execQuadrantReport_canon {s : State} (hm : s.canonical = true) : Keeps (execQuadrantReport s) := by
  unfold execQuadrantReport
  try dsimp only
  repeat' first
    | with_reducible exact hm | with_reducible assumption | intro _ | with_reducible exact keeps_fault _
    | with_reducible exact keeps_refused _ | with_reducible refine keeps_next ?_ | with_reducible apply getD_canon
    | with_reducible apply foldl_canon | dsimp only | split | simp only [canonical_state_mk] | with_reducible apply canonical_of_state

theorem sendNotices_canon {s : State} (q : Nat) (l : Launch) (detail gait : Nat) (hm : s.canonical = true) : (sendNotices s q l detail gait).canonical = true := by
  unfold sendNotices
  try dsimp only
  repeat' first
    | with_reducible exact hm | with_reducible assumption | intro _ | with_reducible apply frameless_canon
    | with_reducible apply foldl_canon | dsimp only | split | simp only [canonical_state_mk] | with_reducible apply canonical_of_state

theorem beginChange_canon {s : State} (q : Nat) (l : Launch) (st : LaunchState) (aim : Option Aim) (hm : s.canonical = true) : (beginChange s q l st aim).canonical = true := by
  unfold beginChange
  try dsimp only
  repeat' first
    | with_reducible exact hm | with_reducible assumption | intro _ | with_reducible apply sendNotices_canon
    | with_reducible apply setLaunch_canon | dsimp only | split | simp only [canonical_state_mk] | with_reducible apply canonical_of_state

theorem unfreeze_canon {s : State} (ts : List Nat) (hm : s.canonical = true) : (unfreeze s ts).canonical = true := by
  unfold unfreeze
  try dsimp only
  repeat' first
    | with_reducible exact hm | with_reducible assumption | intro _ | with_reducible apply wakeTile_canon | with_reducible apply foldl_canon
    | dsimp only | split | simp only [canonical_state_mk] | with_reducible apply canonical_of_state

theorem takeSave_mem_fst {s : State} (q : Nat) (l : Launch) (hm : s.canonical = true) : (takeSave s q l).1.canonical = true := by
  unfold takeSave
  try dsimp only
  repeat' first
    | with_reducible exact hm | with_reducible assumption | intro _ | with_reducible apply reportBad_canon
    | with_reducible apply writeBackAll_canon | with_reducible apply drainStp_canon | with_reducible apply homeWriteBytes_canon
    | with_reducible apply State_tick_canon | with_reducible apply foldl_canon | dsimp only | split | simp only [canonical_state_mk]
    | with_reducible apply canonical_of_state

theorem takeSave_canon {s : State} {q : Nat} {l : Launch} {r1 : State} {r2 : List SavedTile} (hm : s.canonical = true)
    (he : takeSave s q l = (r1, r2)) : r1.canonical = true := by
  have := takeSave_mem_fst q l hm
  rwa [he] at this

theorem vacate_canon {s : State} (q : Nat) (ts : List Nat) (hm : s.canonical = true) : (vacate s q ts).canonical = true := by
  unfold vacate
  try dsimp only
  repeat' first
    | with_reducible exact hm | with_reducible assumption | intro _ | with_reducible apply vacateTile_canon
    | with_reducible apply foldl_canon | dsimp only | split | simp only [canonical_state_mk] | with_reducible apply canonical_of_state

theorem forgetTables_canon {s : State} (ts : List Nat) (hm : s.canonical = true) : (forgetTables s ts).canonical = true := by
  unfold forgetTables
  try dsimp only
  repeat' first
    | with_reducible exact hm | with_reducible assumption | intro _ | with_reducible apply foldl_canon | dsimp only | split
    | simp only [canonical_state_mk] | with_reducible apply canonical_of_state

theorem moveOffers_canon {s : State} (q dest : Nat) (hm : s.canonical = true) : (moveOffers s q dest).canonical = true := by
  unfold moveOffers
  try dsimp only
  repeat' first
    | with_reducible exact hm | with_reducible assumption | intro _ | dsimp only | split | simp only [canonical_state_mk]
    | with_reducible apply canonical_of_state

theorem restoreAll_canon {s : State} (asid g : Nat) (old : List Nat) (data : List PenData) (xs : List SavedTile)
    (hosts : List (Nat × List Nat × RegionImg)) (hm : s.canonical = true) : (restoreAll s asid g old data xs hosts).canonical = true := by
  unfold restoreAll
  try dsimp only
  repeat' first
    | with_reducible exact hm | with_reducible assumption | intro _ | with_reducible apply loadGait_canon
    | with_reducible apply loadRegion_canon | with_reducible apply restoreHost_canon | with_reducible apply sortOps_canon
    | with_reducible apply foldl_canon | dsimp only | split | simp only [canonical_state_mk] | with_reducible apply canonical_of_state

theorem abandonChange_canon {s : State} (q : Nat) (l : Launch) (a : Aim) (cause : Nat) (hm : s.canonical = true) : (abandonChange s q l a cause).canonical = true := by
  unfold abandonChange
  try dsimp only
  repeat' first
    | with_reducible exact hm | with_reducible assumption | intro _ | with_reducible apply unfreeze_canon
    | with_reducible apply setLaunch_canon | dsimp only | split | simp only [canonical_state_mk] | with_reducible apply canonical_of_state

theorem finishChange_canon {s : State} (q : Nat) (l : Launch) (a : Aim) (hm : s.canonical = true) : (finishChange s q l a).canonical = true := by
  unfold finishChange
  try dsimp only
  repeat' first
    | with_reducible exact hm | with_reducible assumption | intro _ | (with_reducible refine readImage_canon ?_ (by assumption))
    | with_reducible apply readImage_mem_fst | with_reducible apply abandonChange_canon
    | (with_reducible refine takeSave_canon ?_ (by assumption)) | with_reducible apply takeSave_mem_fst
    | with_reducible apply setLaunch_canon | with_reducible apply vacate_canon | with_reducible apply restoreAll_canon
    | with_reducible apply forgetTables_canon | with_reducible apply unfreeze_canon | with_reducible apply moveOffers_canon
    | with_reducible apply getD_canon | dsimp only | split | simp only [canonical_state_mk] | with_reducible apply canonical_of_state

theorem execRegionShrink_canon {s : State} (q gt dx dy : Nat) (hm : s.canonical = true) : Keeps (execRegionShrink q gt dx dy s) := by
  unfold execRegionShrink
  try dsimp only
  repeat' first
    | with_reducible exact hm | with_reducible assumption | intro _ | with_reducible exact keeps_fault _
    | with_reducible exact keeps_refused _ | with_reducible refine keeps_next ?_ | with_reducible apply finishChange_canon
    | with_reducible apply beginChange_canon | dsimp only | split | simp only [canonical_state_mk] | with_reducible apply canonical_of_state

theorem keepAtEngines_canon {s : State} (xs : List SavedTile) (hm : s.canonical = true) : (keepAtEngines s xs).canonical = true := by
  unfold keepAtEngines
  try dsimp only
  repeat' first
    | with_reducible exact hm | with_reducible assumption | intro _ | with_reducible apply sortOps_canon | dsimp only | split
    | simp only [canonical_state_mk] | with_reducible apply canonical_of_state

theorem execFullSave_canon {s : State} (hm : s.canonical = true) : Keeps (execFullSave s) := by
  unfold execFullSave
  try dsimp only
  repeat' first
    | with_reducible exact hm | with_reducible assumption | intro _ | with_reducible exact keeps_fault _
    | with_reducible exact keeps_refused _ | with_reducible refine keeps_next ?_ | (with_reducible refine takeSave_canon ?_ (by assumption))
    | with_reducible apply takeSave_mem_fst | with_reducible apply keepAtEngines_canon | with_reducible apply moveOffers_canon
    | with_reducible apply forgetTables_canon | with_reducible apply vacate_canon | with_reducible apply setLaunch_canon | dsimp only
    | split | simp only [canonical_state_mk] | with_reducible apply canonical_of_state

theorem readHeaders_canon {s : State} (l : Launch) (hm : s.canonical = true) : (readHeaders s l).canonical = true := by
  unfold readHeaders
  try dsimp only
  repeat' first
    | with_reducible exact hm | with_reducible assumption | intro _ | with_reducible apply correctAt_canon
    | with_reducible apply foldl_canon | dsimp only | split | simp only [canonical_state_mk] | with_reducible apply canonical_of_state

theorem failResume_canon {s : State} (q : Nat) (l : Launch) (cause : Nat) (hm : s.canonical = true) : (failResume s q l cause).canonical = true := by
  unfold failResume
  try dsimp only
  repeat' first
    | with_reducible exact hm | with_reducible assumption | intro _ | with_reducible apply removeRequests_canon
    | with_reducible apply abandonAll_canon | with_reducible apply setLaunch_canon | with_reducible apply foldl_canon | dsimp only | split
    | simp only [canonical_state_mk] | with_reducible apply canonical_of_state

theorem backFromEngines_canon {s : State} (q : Nat) (hm : s.canonical = true) : (backFromEngines s q).canonical = true := by
  unfold backFromEngines
  try dsimp only
  repeat' first
    | with_reducible exact hm | with_reducible assumption | intro _ | dsimp only | split | simp only [canonical_state_mk]
    | with_reducible apply canonical_of_state

theorem execResume_canon {s : State} (hm : s.canonical = true) : Keeps (execResume s) := by
  unfold execResume
  try dsimp only
  repeat' first
    | with_reducible exact hm | with_reducible assumption | intro _ | with_reducible exact keeps_fault _
    | with_reducible exact keeps_refused _ | with_reducible refine keeps_next ?_ | with_reducible apply readHeaders_canon
    | (with_reducible refine readImage_canon ?_ (by assumption)) | with_reducible apply readImage_mem_fst
    | with_reducible apply failResume_canon | with_reducible apply restoreAll_canon | with_reducible apply setLaunch_canon
    | with_reducible apply moveOffers_canon | with_reducible apply backFromEngines_canon | with_reducible apply wake_canon
    | with_reducible apply unfreeze_canon | with_reducible apply sendNotices_canon | with_reducible apply getD_canon | dsimp only | split
    | simp only [canonical_state_mk] | with_reducible apply canonical_of_state

theorem ownAll_canon {s : State} (q : Nat) (ts : List Nat) (hm : s.canonical = true) : (ownAll s q ts).canonical = true := by
  unfold ownAll
  try dsimp only
  repeat' first
    | with_reducible exact hm | with_reducible assumption | intro _ | with_reducible apply foldl_canon | dsimp only | split
    | simp only [canonical_state_mk] | with_reducible apply canonical_of_state

theorem grantRecord_canon {s : State} (q : Nat) (l : Launch) (o : Nat × Nat) (pool : Nat) (hm : s.canonical = true) : (grantRecord s q l o pool).canonical = true := by
  unfold grantRecord
  try dsimp only
  repeat' first
    | with_reducible exact hm | with_reducible assumption | intro _ | with_reducible apply ownAll_canon
    | with_reducible apply beginChange_canon | with_reducible apply setLaunch_canon | with_reducible apply foldl_canon | dsimp only | split
    | simp only [canonical_state_mk] | with_reducible apply canonical_of_state

theorem grantHeads_mem_fst {s : State} (f : Nat) (hm : s.canonical = true) : (grantHeads f s).1.canonical = true := by
  induction f generalizing s with
  | zero => exact hm
  | succ f ih =>
    unfold grantHeads
    repeat' first
      | with_reducible exact hm | with_reducible apply ih | with_reducible apply grantRecord_canon | split
      | simp only [canonical_state_mk] | with_reducible apply canonical_of_state

theorem grantHeads_canon {s : State} {f : Nat} {r1 r2} (hm : s.canonical = true) (he : grantHeads f s = (r1, r2)) :
    r1.canonical = true := by
  have := grantHeads_mem_fst f hm
  rwa [he] at this

theorem grantLater_canon (head : Nat) (res : List Nat) {s : State} (hm : s.canonical = true) : (grantLater head res s).canonical = true := by
  unfold grantLater
  try dsimp only
  repeat' first
    | with_reducible exact hm | with_reducible assumption | intro _ | with_reducible apply grantRecord_canon
    | with_reducible apply foldl_canon | dsimp only | split | simp only [canonical_state_mk] | with_reducible apply canonical_of_state

theorem preempt_canon {s : State} (q : Nat) (l : Launch) (res : List Nat) (hm : s.canonical = true) : (preempt s q l res).canonical = true := by
  unfold preempt
  try dsimp only
  repeat' first
    | with_reducible exact hm | with_reducible assumption | intro _ | with_reducible apply beginChange_canon | dsimp only | split
    | simp only [canonical_state_mk] | with_reducible apply canonical_of_state

theorem execAllocationPass_canon {s : State} (hm : s.canonical = true) : Keeps (execAllocationPass s) := by
  unfold execAllocationPass
  try dsimp only
  repeat' first
    | with_reducible exact hm | with_reducible assumption | intro _ | with_reducible exact keeps_fault _
    | with_reducible exact keeps_refused _ | with_reducible refine keeps_next ?_
    | (with_reducible refine grantHeads_canon ?_ (by assumption)) | with_reducible apply grantHeads_mem_fst
    | (with_reducible refine reserve_canon ?_ (by assumption)) | with_reducible apply reserve_mem_fst
    | with_reducible apply grantLater_canon | with_reducible apply preempt_canon | dsimp only | split | simp only [canonical_state_mk]
    | with_reducible apply canonical_of_state

theorem holdMessage_canon {s : State} (qp : Nat) (i : Instr) (hm : s.canonical = true) : (holdMessage s qp i).canonical = true := by
  unfold holdMessage
  simpa only [canonical_state_mk] using canonical_of_state hm

theorem releaseMessage_canon {s : State} (qp : Nat) (i : Instr) (hm : s.canonical = true) : (releaseMessage s qp i).canonical = true := by
  unfold releaseMessage
  try dsimp only
  repeat' first
    | with_reducible exact hm | with_reducible assumption | intro _ | dsimp only | split | simp only [canonical_state_mk]
    | with_reducible apply canonical_of_state

theorem execConnectionManager_canon {s : State} (qp : Nat) (user : Option Nat) (port : Nat) (hm : s.canonical = true) : Keeps (execConnectionManager qp user port s) := by
  unfold execConnectionManager
  try dsimp only
  repeat' first
    | with_reducible exact hm | with_reducible assumption | intro _ | with_reducible exact keeps_fault _
    | with_reducible exact keeps_refused _ | with_reducible refine keeps_next ?_ | with_reducible apply getD_canon | dsimp only | split
    | simp only [canonical_state_mk] | with_reducible apply canonical_of_state

theorem nakInvalid_canon {s : State} (qp : Nat) (hm : s.canonical = true) : (nakInvalid s qp).canonical = true := by
  unfold nakInvalid
  try dsimp only
  repeat' first
    | with_reducible exact hm | with_reducible assumption | intro _ | dsimp only | split | simp only [canonical_state_mk]
    | with_reducible apply canonical_of_state

theorem takeMessage_mem_fst {s : State} (qp : Nat) (hd : Stt) (typ : Nat) {f : State → Qp → State × Bool} (p : Qp)
    (hf : ∀ p, (f s p).1.canonical = true) (hm : s.canonical = true) : (takeMessage qp hd typ f s p).1.canonical = true := by
  unfold takeMessage
  split
  · exact hf p
  · exact answerHost_canon _ _ _ _ hm

theorem message_canon {s : State} (i : Instr) (qp : Nat) (hd : Stt) (typ : Nat) {f : State → Qp → State × Bool} (hm : s.canonical = true)
    (hf : ∀ p, (f s p).1.canonical = true) : Keeps (message i qp hd typ f s) := by
  have h (p : Qp) {t : State} {b : Bool} (e : takeMessage qp hd typ f s p = (t, b)) : t.canonical = true := by
    have := takeMessage_mem_fst qp hd typ p hf hm
    rwa [e] at this
  unfold message
  split
  · exact keeps_next hm
  · split
    · exact keeps_next (nakInvalid_canon _ hm)
    split
    · split
      · exact keeps_next hm
      · split
        · next e => exact keeps_next (h _ e)
        · next e => exact keeps_next (releaseMessage_canon _ _ (h _ e))
    · split
      · exact keeps_next (holdMessage_canon _ _ hm)
      · split
        · next e => exact keeps_next (holdMessage_canon _ _ (h _ e))
        · next e => exact keeps_next (h _ e)

theorem refuseAccess_canon {s : State} (qp : Nat) (hm : s.canonical = true) : (refuseAccess s qp).canonical = true := by
  unfold refuseAccess
  try dsimp only
  repeat' first
    | with_reducible exact hm | with_reducible assumption | intro _ | dsimp only | split | simp only [canonical_state_mk]
    | with_reducible apply canonical_of_state

theorem walkParts_canon (tile asid : Nat) (w : Want) (xs : List Lane) :
    ∀ {s : State}, s.canonical = true → (walkParts tile asid w xs s).canonical = true := by
  induction xs with
  | nil => intro s hm; exact hm
  | cons x r ih =>
    intro s hm
    unfold walkParts
    split
    · next e => exact xlateNow_canon hm e
    · next e => exact ih (xlateNow_canon hm e)

theorem walkVa_canon {s : State} (tile asid va n : Nat) (w : Want) (hm : s.canonical = true) : (walkVa s tile asid va n w).canonical = true := by
  unfold walkVa
  split
  · exact hm
  · exact walkParts_canon _ _ _ _ hm

theorem execRdmaWrite_canon {s : State} (qp rkey va : Nat) (data : List (BitVec 8)) (hm : s.canonical = true) : Keeps (execRdmaWrite qp rkey va data s) := by
  unfold execRdmaWrite
  try dsimp only
  repeat' first
    | with_reducible exact hm | with_reducible assumption | intro _ | with_reducible exact keeps_fault _
    | with_reducible exact keeps_refused _ | with_reducible refine keeps_next ?_ | with_reducible apply refuseAccess_canon
    | with_reducible apply homeWriteBytes_canon | (with_reducible refine writeVa_canon ?_ (by assumption))
    | with_reducible apply writeVa_mem_fst | with_reducible apply walkVa_canon | dsimp only | split | simp only [canonical_state_mk]
    | with_reducible apply canonical_of_state

theorem execRdmaRead_canon {s : State} (qp rkey va len : Nat) (hm : s.canonical = true) : Keeps (execRdmaRead qp rkey va len s) := by
  unfold execRdmaRead
  try dsimp only
  repeat' first
    | with_reducible exact hm | with_reducible assumption | intro _ | with_reducible exact keeps_fault _
    | with_reducible exact keeps_refused _ | with_reducible refine keeps_next ?_ | with_reducible apply refuseAccess_canon
    | (with_reducible refine readVa_canon ?_ (by assumption)) | with_reducible apply readVa_mem_fst | dsimp only | split
    | simp only [canonical_state_mk] | with_reducible apply canonical_of_state

theorem execRdmaInvalidRequest_canon {s : State} (qp : Nat) (hm : s.canonical = true) : Keeps (execRdmaInvalidRequest qp s) := by
  unfold execRdmaInvalidRequest
  try dsimp only
  repeat' first
    | with_reducible exact hm | with_reducible assumption | intro _ | with_reducible exact keeps_fault _
    | with_reducible exact keeps_refused _ | with_reducible refine keeps_next ?_ | with_reducible apply nakInvalid_canon | dsimp only
    | split | simp only [canonical_state_mk] | with_reducible apply canonical_of_state

theorem execSttDiscard_canon {s : State} (qp : Nat) (hd : BitVec 192) (sent : Nat) (hm : s.canonical = true) : Keeps (execSttDiscard qp hd sent s) := by
  unfold execSttDiscard
  try dsimp only
  repeat' first
    | with_reducible exact hm | with_reducible assumption | intro _ | with_reducible exact keeps_fault _
    | with_reducible exact keeps_refused _ | with_reducible refine keeps_next ?_ | with_reducible apply message_canon | dsimp only | split
    | simp only [canonical_state_mk] | with_reducible apply canonical_of_state

theorem execSttLaunch_canon {s : State} (qp : Nat) (hd : BitVec 192) (sent : Nat) (rva : Nat) (hm : s.canonical = true) : Keeps (execSttLaunch qp hd sent rva s) := by
  unfold execSttLaunch
  try dsimp only
  repeat' first
    | with_reducible exact hm | with_reducible assumption | intro _ | with_reducible exact keeps_fault _
    | with_reducible exact keeps_refused _ | with_reducible refine keeps_next ?_ | with_reducible apply message_canon
    | with_reducible apply answerHost_canon | dsimp only | split | simp only [canonical_state_mk] | with_reducible apply canonical_of_state

theorem execSttTokens_canon {s : State} (qp : Nat) (hd : BitVec 192) (sent : Nat) (words : List Word) (hm : s.canonical = true) : Keeps (execSttTokens qp hd sent words s) := by
  unfold execSttTokens
  try dsimp only
  repeat' first
    | with_reducible exact hm | with_reducible assumption | intro _ | with_reducible exact keeps_fault _
    | with_reducible exact keeps_refused _ | with_reducible refine keeps_next ?_ | with_reducible apply message_canon
    | with_reducible apply answerHost_canon | with_reducible apply addOut_canon | with_reducible apply foldl_canon | dsimp only | split
    | simp only [canonical_state_mk] | with_reducible apply canonical_of_state

theorem ctrl_canon {s : State} (i : Instr) (qp : Nat) (hd : Stt) {f : State → State × Nat} (hm : s.canonical = true)
    (hf : (f s).1.canonical = true) : Keeps (ctrl i qp hd f s) := by
  unfold ctrl
  refine message_canon _ _ _ _ hm fun p => ?_
  split
  · exact answerHost_canon _ _ _ _ hf
  · exact answerHost_canon _ _ _ _ hm

theorem execMrreg_canon {s : State} (qp : Nat) (hd : BitVec 192) (sent : Nat) (index asid va len : Nat) (r w : Bool) (hm : s.canonical = true) : Keeps (execMrreg qp hd sent index asid va len r w s) := by
  unfold execMrreg
  try dsimp only
  repeat' first
    | with_reducible exact hm | with_reducible assumption | intro _ | with_reducible exact keeps_fault _
    | with_reducible exact keeps_refused _ | with_reducible refine keeps_next ?_ | with_reducible apply ctrl_canon | dsimp only | split
    | simp only [canonical_state_mk] | with_reducible apply canonical_of_state

theorem execMrdereg_canon {s : State} (qp : Nat) (hd : BitVec 192) (sent : Nat) (index : Nat) (hm : s.canonical = true) : Keeps (execMrdereg qp hd sent index s) := by
  unfold execMrdereg
  try dsimp only
  repeat' first
    | with_reducible exact hm | with_reducible assumption | intro _ | with_reducible exact keeps_fault _
    | with_reducible exact keeps_refused _ | with_reducible refine keeps_next ?_ | with_reducible apply ctrl_canon | dsimp only | split
    | simp only [canonical_state_mk] | with_reducible apply canonical_of_state

theorem execCtrlPreempt_canon {s : State} (qp : Nat) (hd : BitVec 192) (sent : Nat) (q : Nat) (save : Bool) (hm : s.canonical = true) : Keeps (execCtrlPreempt qp hd sent q save s) := by
  unfold execCtrlPreempt
  try dsimp only
  repeat' first
    | with_reducible exact hm | with_reducible assumption | intro _ | with_reducible exact keeps_fault _
    | with_reducible exact keeps_refused _ | with_reducible refine keeps_next ?_ | with_reducible apply message_canon
    | with_reducible apply answerHost_canon | with_reducible apply beginChange_canon | dsimp only | split | simp only [canonical_state_mk]
    | with_reducible apply canonical_of_state

theorem acceptHalt_canon {s : State} (asid ctx : Nat) (hm : s.canonical = true) : (acceptHalt s asid ctx).canonical = true := by
  unfold acceptHalt
  try dsimp only
  repeat' first
    | with_reducible exact hm | with_reducible assumption | intro _ | with_reducible apply haltContext_canon | dsimp only | split
    | simp only [canonical_state_mk] | with_reducible apply canonical_of_state

theorem haltMessage_mem_fst {s : State} (qp : Nat) (hd : Stt) (asid ctx : Nat) (p : Qp) (hm : s.canonical = true) : (haltMessage qp hd asid ctx s p).1.canonical = true := by
  unfold haltMessage
  try dsimp only
  repeat' first
    | with_reducible exact hm | with_reducible assumption | intro _ | with_reducible apply answerHost_canon
    | with_reducible apply wakeQuad_canon | with_reducible apply acceptHalt_canon | with_reducible apply foldl_canon | dsimp only | split
    | simp only [canonical_state_mk] | with_reducible apply canonical_of_state

theorem haltMessage_canon {s : State} {qp : Nat} {hd : Stt} {asid ctx : Nat} {p : Qp} {r1 : State} {r2 : Bool} (hm : s.canonical = true)
    (he : haltMessage qp hd asid ctx s p = (r1, r2)) : r1.canonical = true := by
  have := haltMessage_mem_fst qp hd asid ctx p hm
  rwa [he] at this

theorem execCtrlHalt_canon {s : State} (qp : Nat) (hd : BitVec 192) (sent : Nat) (asid ctx : Nat) (hm : s.canonical = true) : Keeps (execCtrlHalt qp hd sent asid ctx s) := by
  unfold execCtrlHalt
  try dsimp only
  repeat' first
    | with_reducible exact hm | with_reducible assumption | intro _ | with_reducible exact keeps_fault _
    | with_reducible exact keeps_refused _ | with_reducible refine keeps_next ?_ | with_reducible apply answerHost_canon
    | with_reducible apply message_canon | (with_reducible refine haltMessage_canon ?_ (by assumption))
    | with_reducible apply haltMessage_mem_fst | dsimp only | split | simp only [canonical_state_mk]
    | with_reducible apply canonical_of_state

theorem execCtrlFwd_canon {s : State} (qp : Nat) (hd : BitVec 192) (sent : Nat) (words : List Word) (hm : s.canonical = true) : Keeps (execCtrlFwd qp hd sent words s) := by
  unfold execCtrlFwd
  try dsimp only
  repeat' first
    | with_reducible exact hm | with_reducible assumption | intro _ | with_reducible exact keeps_fault _
    | with_reducible exact keeps_refused _ | with_reducible refine keeps_next ?_ | with_reducible apply message_canon
    | with_reducible apply answerHost_canon | with_reducible apply wakeQuad_canon | with_reducible apply wakeGroom_canon | dsimp only
    | split | simp only [canonical_state_mk] | with_reducible apply canonical_of_state

theorem attestWith_canon {s : State} (qp : Nat) (hd : Stt) (content : Attested) (first : List Word) (hm : s.canonical = true) : (attestWith s qp hd content first).canonical = true := by
  unfold attestWith
  try dsimp only
  repeat' first
    | with_reducible exact hm | with_reducible assumption | intro _ | with_reducible apply State_tick_canon | dsimp only | split
    | simp only [canonical_state_mk] | with_reducible apply canonical_of_state

theorem spdm_canon {s : State} (i : Instr) (qp : Nat) (hd : Stt) (content : State → Attested) {f : State → State} (hm : s.canonical = true)
    (hf : (f s).canonical = true) : Keeps (spdm i qp hd content f s) := by
  unfold spdm
  exact message_canon _ _ _ _ hm fun p => attestWith_canon _ _ _ _ hf

theorem execGetVersion_canon {s : State} (qp : Nat) (hd : BitVec 192) (sent : Nat) (hm : s.canonical = true) : Keeps (execGetVersion qp hd sent s) :=
  spdm_canon _ _ _ _ hm hm

theorem execGetCapabilities_canon {s : State} (qp : Nat) (hd : BitVec 192) (sent : Nat) (hm : s.canonical = true) : Keeps (execGetCapabilities qp hd sent s) :=
  spdm_canon _ _ _ _ hm hm

theorem execNegotiateAlgorithms_canon {s : State} (qp : Nat) (hd : BitVec 192) (sent : Nat) (hm : s.canonical = true) : Keeps (execNegotiateAlgorithms qp hd sent s) :=
  spdm_canon _ _ _ _ hm hm

theorem execGetDigests_canon {s : State} (qp : Nat) (hd : BitVec 192) (sent : Nat) (hm : s.canonical = true) : Keeps (execGetDigests qp hd sent s) :=
  spdm_canon _ _ _ _ hm hm

theorem execGetCertificate_canon {s : State} (qp : Nat) (hd : BitVec 192) (sent : Nat) (hm : s.canonical = true) : Keeps (execGetCertificate qp hd sent s) :=
  spdm_canon _ _ _ _ hm hm

theorem execChallenge_canon {s : State} (qp : Nat) (hd : BitVec 192) (sent : Nat) (hm : s.canonical = true) : Keeps (execChallenge qp hd sent s) :=
  spdm_canon _ _ _ _ hm hm

theorem execGetMeasurements_canon {s : State} (qp : Nat) (hd : BitVec 192) (sent : Nat) (hm : s.canonical = true) : Keeps (execGetMeasurements qp hd sent s) :=
  spdm_canon _ _ _ _ hm hm

theorem execKeyExchange_canon {s : State} (qp : Nat) (hd : BitVec 192) (sent : Nat) (hm : s.canonical = true) : Keeps (execKeyExchange qp hd sent s) := by
  unfold execKeyExchange
  try dsimp only
  repeat' first
    | with_reducible exact hm | with_reducible assumption | intro _ | with_reducible exact keeps_fault _
    | with_reducible exact keeps_refused _ | with_reducible refine keeps_next ?_ | with_reducible apply spdm_canon | dsimp only | split
    | simp only [canonical_state_mk] | with_reducible apply canonical_of_state

theorem loadKeys_canon {s : State} (ds : List Nat) (hm : s.canonical = true) : (loadKeys s ds).canonical = true := by
  unfold loadKeys
  try dsimp only
  repeat' first
    | with_reducible exact hm | with_reducible assumption | intro _ | with_reducible apply getD_canon | with_reducible apply foldl_canon
    | dsimp only | split | simp only [canonical_state_mk] | with_reducible apply canonical_of_state | with_reducible apply canonical_mk

theorem execFinish_canon {s : State} (qp : Nat) (hd : BitVec 192) (sent : Nat) (hm : s.canonical = true) : Keeps (execFinish qp hd sent s) := by
  unfold execFinish
  try dsimp only
  repeat' first
    | with_reducible exact hm | with_reducible assumption | intro _ | with_reducible exact keeps_fault _
    | with_reducible exact keeps_refused _ | with_reducible refine keeps_next ?_ | with_reducible apply spdm_canon
    | with_reducible apply loadKeys_canon | dsimp only | split | simp only [canonical_state_mk] | with_reducible apply canonical_of_state

theorem execSpdmUnsupportedRequest_canon {s : State} (qp : Nat) (hd : BitVec 192) (sent : Nat) (hm : s.canonical = true) : Keeps (execSpdmUnsupportedRequest qp hd sent s) :=
  spdm_canon _ _ _ _ hm hm

theorem zeroise_canon {s : State} (ds : List Nat) (hm : s.canonical = true) : (zeroise s ds).canonical = true := by
  unfold zeroise
  try dsimp only
  repeat' first
    | with_reducible exact hm | with_reducible assumption | intro _ | with_reducible apply loadKeys_canon | dsimp only | split
    | simp only [canonical_state_mk] | with_reducible apply canonical_of_state

theorem raiseLevel_canon {s : State} (level : Nat) (hm : s.canonical = true) : (raiseLevel s level).canonical = true := by
  unfold raiseLevel
  try dsimp only
  repeat' first
    | with_reducible exact hm | with_reducible assumption | intro _ | with_reducible apply zeroise_canon | dsimp only | split
    | simp only [canonical_state_mk] | with_reducible apply canonical_of_state

theorem execDebugUnlock_canon {s : State} (qp : Nat) (hd : BitVec 192) (sent : Nat) (level : Nat) (hm : s.canonical = true) : Keeps (execDebugUnlock qp hd sent level s) := by
  unfold execDebugUnlock
  try dsimp only
  repeat' first
    | with_reducible exact hm | with_reducible assumption | intro _ | with_reducible exact keeps_fault _
    | with_reducible exact keeps_refused _ | with_reducible refine keeps_next ?_ | with_reducible apply attestWith_canon
    | with_reducible apply message_canon | with_reducible apply raiseLevel_canon | with_reducible apply State_tick_canon | dsimp only
    | split | simp only [canonical_state_mk] | with_reducible apply canonical_of_state

theorem coldState_canon {s : State} (hm : s.canonical = true) : (coldState s).canonical = true := by
  simp only [State.canonical, Mem.canonical, Bool.and_eq_true] at hm
  simp only [coldState, State.canonical, Mem.canonical, Mem.empty, Bool.and_eq_true]
  exact ⟨⟨⟨hm.1.1.1, rfl⟩, rfl⟩, rfl⟩

theorem setBoot_canon {s : State} (n : Nat) (e : BitVec 64) (hm : s.canonical = true) : (setBoot s n e).canonical = true := by
  unfold setBoot
  try dsimp only
  repeat' first
    | with_reducible exact hm | with_reducible assumption | intro _ | dsimp only | split | simp only [canonical_state_mk]
    | with_reducible apply canonical_of_state

theorem recordStep_canon {s : State} (step tries status : Nat) (hm : s.canonical = true) : (recordStep s step tries status).canonical = true := by
  unfold recordStep
  try dsimp only
  repeat' first
    | with_reducible exact hm | with_reducible assumption | intro _ | with_reducible apply setBoot_canon | with_reducible apply step_canon
    | dsimp only | split | simp only [canonical_state_mk] | with_reducible apply canonical_of_state

theorem stepS0_mem_fst {s : State} (hm : s.canonical = true) : (stepS0 s).1.canonical = true := by
  unfold stepS0
  try dsimp only
  repeat' first
    | with_reducible exact hm | with_reducible assumption | intro _ | with_reducible apply recordStep_canon | dsimp only | split
    | simp only [canonical_state_mk] | with_reducible apply canonical_of_state

theorem stepS0_canon {s : State} {r1 : State} {r2 : Bool} (hm : s.canonical = true)
    (he : stepS0 s = (r1, r2)) : r1.canonical = true := by
  have := stepS0_mem_fst hm
  rwa [he] at this

theorem stepS1_mem_fst {s : State} (hm : s.canonical = true) : (stepS1 s).1.canonical = true := by
  unfold stepS1
  try dsimp only
  repeat' first
    | with_reducible exact hm | with_reducible assumption | intro _ | with_reducible apply recordStep_canon | dsimp only | split
    | simp only [canonical_state_mk] | with_reducible apply canonical_of_state

theorem stepS1_canon {s : State} {r1 : State} {r2 : Bool} (hm : s.canonical = true)
    (he : stepS1 s = (r1, r2)) : r1.canonical = true := by
  have := stepS1_mem_fst hm
  rwa [he] at this

theorem stepS2_mem_fst {s : State} (hm : s.canonical = true) : (stepS2 s).1.canonical = true := by
  unfold stepS2
  try dsimp only
  repeat' first
    | with_reducible exact hm | with_reducible assumption | intro _ | with_reducible apply recordStep_canon | dsimp only | split
    | simp only [canonical_state_mk] | with_reducible apply canonical_of_state

theorem stepS2_canon {s : State} {r1 : State} {r2 : Bool} (hm : s.canonical = true)
    (he : stepS2 s = (r1, r2)) : r1.canonical = true := by
  have := stepS2_mem_fst hm
  rwa [he] at this

theorem stepS3_canon {s : State} (hm : s.canonical = true) : (stepS3 s).canonical = true := by
  unfold stepS3
  try dsimp only
  repeat' first
    | with_reducible exact hm | with_reducible assumption | intro _ | with_reducible apply recordStep_canon
    | with_reducible apply getD_canon | dsimp only | split | simp only [canonical_state_mk] | with_reducible apply canonical_of_state

theorem stepS4_canon {s : State} (hm : s.canonical = true) : (stepS4 s).canonical = true := by
  unfold stepS4
  try dsimp only
  repeat' first
    | with_reducible exact hm | with_reducible assumption | intro _ | with_reducible apply recordStep_canon | dsimp only | split
    | simp only [canonical_state_mk] | with_reducible apply canonical_of_state

theorem stepS5_mem_fst {s : State} (hm : s.canonical = true) : (stepS5 s).1.canonical = true := by
  unfold stepS5
  try dsimp only
  repeat' first
    | with_reducible exact hm | with_reducible assumption | intro _ | with_reducible apply recordStep_canon
    | with_reducible apply getD_canon | dsimp only | split | simp only [canonical_state_mk] | with_reducible apply canonical_of_state

theorem stepS5_canon {s : State} {r1 : State} {r2 : Bool} (hm : s.canonical = true)
    (he : stepS5 s = (r1, r2)) : r1.canonical = true := by
  have := stepS5_mem_fst hm
  rwa [he] at this

theorem recordPresent_canon {s : State} (hm : s.canonical = true) : (recordPresent s).canonical = true := by
  unfold recordPresent
  try dsimp only
  repeat' first
    | with_reducible exact hm | with_reducible assumption | intro _ | with_reducible apply setBoot_canon | with_reducible apply foldl_canon
    | dsimp only | split | simp only [canonical_state_mk] | with_reducible apply canonical_of_state

theorem stepS6_canon {s : State} (hm : s.canonical = true) : (stepS6 s).canonical = true := by
  unfold stepS6
  try dsimp only
  repeat' first
    | with_reducible exact hm | with_reducible assumption | intro _ | with_reducible apply recordStep_canon
    | with_reducible apply frameless_canon | dsimp only | split | simp only [canonical_state_mk] | with_reducible apply canonical_of_state

theorem stepS7_canon {s : State} (hm : s.canonical = true) : (stepS7 s).canonical = true := by
  unfold stepS7
  try dsimp only
  repeat' first
    | with_reducible exact hm | with_reducible assumption | intro _ | with_reducible apply recordStep_canon | dsimp only | split
    | simp only [canonical_state_mk] | with_reducible apply canonical_of_state

theorem setUpTile_canon {s : State} (tile : Nat) (hm : s.canonical = true) : (setUpTile s tile).canonical = true := by
  unfold setUpTile
  try dsimp only
  repeat' first
    | with_reducible exact hm | with_reducible assumption | intro _ | with_reducible apply setTileReg_canon | dsimp only | split
    | simp only [canonical_state_mk] | with_reducible apply canonical_of_state

theorem recover_canon {s : State} (hm : s.canonical = true) : (recover s).canonical = true := by
  unfold recover
  try dsimp only
  repeat' first
    | with_reducible exact hm | with_reducible assumption | intro _ | with_reducible apply recordStep_canon | dsimp only | split
    | simp only [canonical_state_mk] | with_reducible apply canonical_of_state

theorem stepS9_canon {s : State} (hm : s.canonical = true) : (stepS9 s).canonical = true := by
  unfold stepS9
  try dsimp only
  repeat' first
    | with_reducible exact hm | with_reducible assumption | intro _ | with_reducible apply recordStep_canon | dsimp only | split
    | simp only [canonical_state_mk] | with_reducible apply canonical_of_state

theorem stepS8_canon {s : State} (hm : s.canonical = true) : (stepS8 s).canonical = true := by
  unfold stepS8
  try dsimp only
  repeat' first
    | with_reducible exact hm | with_reducible assumption | intro _ | with_reducible apply recordStep_canon
    | with_reducible apply setUpTile_canon | with_reducible apply recover_canon | with_reducible apply foldl_canon
    | with_reducible apply stepS9_canon | dsimp only | split | simp only [canonical_state_mk] | with_reducible apply canonical_of_state

theorem startFromS2_canon {s : State} (hm : s.canonical = true) : (startFromS2 s).canonical = true := by
  unfold startFromS2
  try dsimp only
  repeat' first
    | with_reducible exact hm | with_reducible assumption | intro _ | (with_reducible refine stepS2_canon ?_ (by assumption))
    | with_reducible apply stepS2_mem_fst | (with_reducible refine stepS5_canon ?_ (by assumption)) | with_reducible apply stepS5_mem_fst
    | with_reducible apply stepS4_canon | with_reducible apply stepS3_canon | with_reducible apply recordPresent_canon
    | with_reducible apply stepS8_canon | with_reducible apply stepS7_canon | with_reducible apply stepS6_canon | dsimp only | split
    | simp only [canonical_state_mk] | with_reducible apply canonical_of_state

theorem startFromS0_canon {s : State} (hm : s.canonical = true) : (startFromS0 s).canonical = true := by
  unfold startFromS0
  try dsimp only
  repeat' first
    | with_reducible exact hm | with_reducible assumption | intro _ | (with_reducible refine stepS0_canon ?_ (by assumption))
    | with_reducible apply stepS0_mem_fst | (with_reducible refine stepS1_canon ?_ (by assumption))
    | with_reducible apply stepS1_mem_fst | with_reducible apply startFromS2_canon | dsimp only | split
    | simp only [canonical_state_mk] | with_reducible apply canonical_of_state

theorem execStartup_canon {s : State} (hm : s.canonical = true) : Keeps (execStartup s) := by
  unfold execStartup
  try dsimp only
  repeat' first
    | with_reducible exact hm | with_reducible assumption | intro _ | with_reducible exact keeps_fault _
    | with_reducible exact keeps_refused _ | with_reducible refine keeps_next ?_ | with_reducible apply startFromS0_canon | dsimp only
    | split | simp only [canonical_state_mk] | with_reducible apply canonical_of_state

theorem execRecoveryImage_canon {s : State} (qp : Nat) (hd : BitVec 192) (sent len : Nat) (hm : s.canonical = true) : Keeps (execRecoveryImage qp hd sent len s) := by
  unfold execRecoveryImage
  try dsimp only
  repeat' first
    | with_reducible exact hm | with_reducible assumption | intro _ | with_reducible exact keeps_fault _
    | with_reducible exact keeps_refused _ | with_reducible refine keeps_next ?_ | with_reducible apply nakInvalid_canon
    | with_reducible apply answerHost_canon | with_reducible apply correctAt_canon | with_reducible apply coldState_canon
    | with_reducible apply startFromS0_canon | with_reducible apply State_tick_canon | dsimp only | split | simp only [canonical_state_mk]
    | with_reducible apply canonical_of_state

theorem manage_canon {s : State} (ws : List Word) (hm : s.canonical = true) : (manage s ws).canonical = true := by
  unfold manage
  try dsimp only
  repeat' first
    | with_reducible exact hm | with_reducible assumption | intro _ | dsimp only | split | simp only [canonical_state_mk]
    | with_reducible apply canonical_of_state

theorem execSetPowerP3_canon {s : State} (hm : s.canonical = true) : Keeps (execSetPowerP3 s) := by
  unfold execSetPowerP3
  try dsimp only
  repeat' first
    | with_reducible exact hm | with_reducible assumption | intro _ | with_reducible exact keeps_fault _
    | with_reducible exact keeps_refused _ | with_reducible refine keeps_next ?_ | with_reducible apply manage_canon
    | with_reducible apply coldState_canon | dsimp only | split | simp only [canonical_state_mk] | with_reducible apply canonical_of_state

theorem execSetPowerP0_canon {s : State} (hm : s.canonical = true) : Keeps (execSetPowerP0 s) := by
  unfold execSetPowerP0
  try dsimp only
  repeat' first
    | with_reducible exact hm | with_reducible assumption | intro _ | with_reducible exact keeps_fault _
    | with_reducible exact keeps_refused _ | with_reducible refine keeps_next ?_ | with_reducible apply startFromS2_canon
    | with_reducible apply manage_canon | dsimp only | split | simp only [canonical_state_mk] | with_reducible apply canonical_of_state

theorem execPowerLoss_canon {s : State} (_ : s.canonical = true) : Keeps (execPowerLoss s) := keeps_next rfl

theorem execGovernorMeasure_canon {s : State} (watts : Nat) (hm : s.canonical = true) : Keeps (execGovernorMeasure watts s) := by
  unfold execGovernorMeasure
  try dsimp only
  repeat' first
    | with_reducible exact hm | with_reducible assumption | intro _ | with_reducible exact keeps_fault _
    | with_reducible exact keeps_refused _ | with_reducible refine keeps_next ?_ | dsimp only | split | simp only [canonical_state_mk]
    | with_reducible apply canonical_of_state

theorem execSetPlimit_canon {s : State} (watts : Nat) (hm : s.canonical = true) : Keeps (execSetPlimit watts s) := by
  unfold execSetPlimit
  try dsimp only
  repeat' first
    | with_reducible exact hm | with_reducible assumption | intro _ | with_reducible exact keeps_fault _
    | with_reducible exact keeps_refused _ | with_reducible refine keeps_next ?_ | with_reducible apply manage_canon | dsimp only | split
    | simp only [canonical_state_mk] | with_reducible apply canonical_of_state

theorem execGetTelemetry_canon {s : State} (hm : s.canonical = true) : Keeps (execGetTelemetry s) := by
  unfold execGetTelemetry
  try dsimp only
  repeat' first
    | with_reducible exact hm | with_reducible assumption | intro _ | with_reducible exact keeps_fault _
    | with_reducible exact keeps_refused _ | with_reducible refine keeps_next ?_ | with_reducible apply manage_canon
    | with_reducible apply State_tick_canon | dsimp only | split | simp only [canonical_state_mk] | with_reducible apply canonical_of_state

theorem execGetBootrec_canon {s : State} (hm : s.canonical = true) : Keeps (execGetBootrec s) := by
  unfold execGetBootrec
  try dsimp only
  repeat' first
    | with_reducible exact hm | with_reducible assumption | intro _ | with_reducible exact keeps_fault _
    | with_reducible exact keeps_refused _ | with_reducible refine keeps_next ?_ | with_reducible apply manage_canon | dsimp only | split
    | simp only [canonical_state_mk] | with_reducible apply canonical_of_state

theorem execMrlPlaneDown_canon {s : State} (plane : Nat) (hm : s.canonical = true) : Keeps (execMrlPlaneDown plane s) := by
  unfold execMrlPlaneDown
  try dsimp only
  repeat' first
    | with_reducible exact hm | with_reducible assumption | intro _ | with_reducible exact keeps_fault _
    | with_reducible exact keeps_refused _ | with_reducible refine keeps_next ?_ | dsimp only | split | simp only [canonical_state_mk]
    | with_reducible apply canonical_of_state

theorem execMrlPlaneUp_canon {s : State} (plane : Nat) (hm : s.canonical = true) : Keeps (execMrlPlaneUp plane s) := by
  unfold execMrlPlaneUp
  try dsimp only
  repeat' first
    | with_reducible exact hm | with_reducible assumption | intro _ | with_reducible exact keeps_fault _
    | with_reducible exact keeps_refused _ | with_reducible refine keeps_next ?_ | dsimp only | split | simp only [canonical_state_mk]
    | with_reducible apply canonical_of_state

theorem execMrlKeyChange_canon {s : State} (link : Nat) (hm : s.canonical = true) : Keeps (execMrlKeyChange link s) := by
  unfold execMrlKeyChange
  try dsimp only
  repeat' first
    | with_reducible exact hm | with_reducible assumption | intro _ | with_reducible exact keeps_fault _
    | with_reducible exact keeps_refused _ | with_reducible refine keeps_next ?_ | with_reducible apply getD_canon | dsimp only | split
    | simp only [canonical_state_mk] | with_reducible apply canonical_of_state

theorem placeBlockWord_canon {s : State} (w lit : Nat) (hm : s.canonical = true) : (placeBlockWord s w lit).canonical = true := by
  unfold placeBlockWord
  try dsimp only
  repeat' first
    | with_reducible exact hm | with_reducible assumption | intro _ | dsimp only | split | simp only [canonical_state_mk]
    | with_reducible apply canonical_of_state | with_reducible apply canonical_mk

theorem placeSeqWords_canon {s : State} (ws : List Word) (hm : s.canonical = true) : (placeSeqWords s ws).canonical = true := by
  unfold placeSeqWords
  try dsimp only
  repeat' first
    | with_reducible exact hm | with_reducible assumption | intro _ | dsimp only | split | simp only [canonical_state_mk]
    | with_reducible apply canonical_of_state

theorem placeWord_canon {s : State} (nbits w : Nat) (hm : s.canonical = true) : (placeWord s nbits w).canonical = true := by
  unfold placeWord
  try dsimp only
  repeat' first
    | with_reducible exact hm | with_reducible assumption | intro _ | with_reducible apply placeBlockWord_canon
    | with_reducible apply placeSeqWords_canon | with_reducible apply getD_canon | dsimp only | split | simp only [canonical_state_mk]
    | with_reducible apply canonical_of_state

theorem seqEffect_canon {quiet : Bool} {f : State → Nat → Launch → State} {s : State} (hm : s.canonical = true)
    (hf : ∀ s q l, s.canonical = true → (f s q l).canonical = true) : Keeps (seqEffect quiet f s) := by
  unfold seqEffect
  dsimp only
  split
  · exact keeps_fault _
  · split
    · exact keeps_next (hf _ _ _ hm)
    · exact keeps_next hm

theorem seqWord_canon {s : State} {f : State → Nat → Launch → State} (hm : s.canonical = true)
    (hf : ∀ s q l, s.canonical = true → (f s q l).canonical = true) : Keeps (seqWord f s) := seqEffect_canon hm hf

theorem seqGo_canon {s : State} (q : Nat) (l : Launch) (pc : Nat) (hm : s.canonical = true) : (seqGo s q l pc).canonical = true := by
  unfold seqGo
  try dsimp only
  repeat' first
    | with_reducible exact hm | with_reducible assumption | intro _ | with_reducible apply setLaunch_canon | dsimp only | split
    | simp only [canonical_state_mk] | with_reducible apply canonical_of_state

theorem seqStop_canon {s : State} (q : Nat) (l : Launch) (code cause : Nat) (hm : s.canonical = true) : (seqStop s q l code cause).canonical = true := by
  unfold seqStop
  try dsimp only
  repeat' first
    | with_reducible exact hm | with_reducible assumption | intro _ | with_reducible apply setLaunch_canon | dsimp only | split
    | simp only [canonical_state_mk] | with_reducible apply canonical_of_state

theorem seqWait_canon {s : State} (q : Nat) (l : Launch) (hm : s.canonical = true) : (seqWait s q l).canonical = true := by
  unfold seqWait
  try dsimp only
  repeat' first
    | with_reducible exact hm | with_reducible assumption | intro _ | with_reducible apply setLaunch_canon | dsimp only | split
    | simp only [canonical_state_mk] | with_reducible apply canonical_of_state

theorem execSqEnd_canon {s : State} (code : Nat) (hm : s.canonical = true) : Keeps (execSqEnd code s) := by
  unfold execSqEnd
  try dsimp only
  repeat' first
    | with_reducible exact hm | with_reducible assumption | intro _ | with_reducible exact keeps_fault _
    | with_reducible exact keeps_refused _ | with_reducible refine keeps_next ?_ | with_reducible apply seqEffect_canon
    | with_reducible apply seqStop_canon | dsimp only | split | simp only [canonical_state_mk] | with_reducible apply canonical_of_state

theorem execSqJmp_canon {s : State} (target : Nat) (hm : s.canonical = true) : Keeps (execSqJmp target s) := by
  unfold execSqJmp
  try dsimp only
  repeat' first
    | with_reducible exact hm | with_reducible assumption | intro _ | with_reducible exact keeps_fault _
    | with_reducible exact keeps_refused _ | with_reducible refine keeps_next ?_ | with_reducible apply seqEffect_canon
    | with_reducible apply seqGo_canon | with_reducible apply seqStop_canon | dsimp only | split | simp only [canonical_state_mk]
    | with_reducible apply canonical_of_state

theorem execSqBar_canon {s : State} (hm : s.canonical = true) : Keeps (execSqBar s) := by
  unfold execSqBar
  try dsimp only
  repeat' first
    | with_reducible exact hm | with_reducible assumption | intro _ | with_reducible exact keeps_fault _
    | with_reducible exact keeps_refused _ | with_reducible refine keeps_next ?_ | with_reducible apply seqEffect_canon
    | with_reducible apply seqGo_canon | dsimp only | split | simp only [canonical_state_mk] | with_reducible apply canonical_of_state

theorem execReservedSequencerWord_canon {s : State} (hm : s.canonical = true) : Keeps (execReservedSequencerWord s) := by
  unfold execReservedSequencerWord
  try dsimp only
  repeat' first
    | with_reducible exact hm | with_reducible assumption | intro _ | with_reducible exact keeps_fault _
    | with_reducible exact keeps_refused _ | with_reducible refine keeps_next ?_ | with_reducible apply seqEffect_canon
    | with_reducible apply seqStop_canon | dsimp only | split | simp only [canonical_state_mk] | with_reducible apply canonical_of_state

theorem loadOn_mem_elim {s : State} (q : Nat) (l : Launch) (rs : List RegionImg) (data : List PenData) (r : RegionImg) (hm : s.canonical = true) : KeepsSome (loadOn s q l rs data r) := by
  unfold loadOn
  try dsimp only
  repeat' first
    | with_reducible exact hm | with_reducible assumption | intro _ | with_reducible apply loadRegion_canon
    | with_reducible exact keepsSome_none | with_reducible apply keepsSome_some | with_reducible apply getD_canon
    | with_reducible apply foldl_canon | dsimp only | split | simp only [canonical_state_mk] | with_reducible apply canonical_of_state

theorem loadOn_canon {s : State} {q : Nat} {l : Launch} {rs : List RegionImg} {data : List PenData} {r : RegionImg} {tt : State} (hm : s.canonical = true) (he : loadOn s q l rs data r = some tt) :
    tt.canonical = true :=
  (loadOn_mem_elim q l rs data r hm).some tt he

theorem noteLoaded_canon {s : State} (q : Nat) (rs : List RegionImg) (hm : s.canonical = true) : (noteLoaded s q rs).canonical = true := by
  unfold noteLoaded
  try dsimp only
  repeat' first
    | with_reducible exact hm | with_reducible assumption | intro _ | with_reducible apply setLaunch_canon | dsimp only | split
    | simp only [canonical_state_mk] | with_reducible apply canonical_of_state

theorem copyArgs_mem_fst {s : State} (q : Nat) (l : Launch) (hm : s.canonical = true) : (copyArgs s q l).1.canonical = true := by
  unfold copyArgs
  try dsimp only
  repeat' first
    | with_reducible exact hm | with_reducible assumption | intro _ | (with_reducible refine readVa_canon ?_ (by assumption))
    | with_reducible apply readVa_mem_fst | with_reducible apply setPen_canon | with_reducible apply flipBack_canon
    | with_reducible apply sramWriteBytes_canon | dsimp only | split | simp only [canonical_state_mk]
    | with_reducible apply canonical_of_state

theorem copyArgs_canon {s : State} {q : Nat} {l : Launch} {r1 : State} {r2 : Nat} (hm : s.canonical = true)
    (he : copyArgs s q l = (r1, r2)) : r1.canonical = true := by
  have := copyArgs_mem_fst q l hm
  rwa [he] at this

theorem finishCfg_canon {s : State} (q : Nat) (rs : List RegionImg) (hm : s.canonical = true) : (finishCfg s q rs).canonical = true := by
  unfold finishCfg
  try dsimp only
  repeat' first
    | with_reducible exact hm | with_reducible assumption | intro _ | with_reducible apply seqGo_canon
    | (with_reducible refine copyArgs_canon ?_ (by assumption)) | with_reducible apply copyArgs_mem_fst
    | with_reducible apply answerAny_canon | with_reducible apply seqStop_canon | dsimp only | split | simp only [canonical_state_mk]
    | with_reducible apply canonical_of_state

theorem execSqCfg_canon (gt region : Nat) {s : State} (hm : s.canonical = true) : Keeps (execSqCfg gt region s) := by
  refine seqWord_canon hm fun s q l hm => ?_
  split
  · exact hm
  · split
    · exact seqStop_canon _ _ _ _ (readImage_canon hm (by assumption))
    · next h =>
      have hr := readImage_canon hm h
      dsimp only
      generalize hd : List.foldl _ _ _ = d
      have hk : KeepsSome d := by
        rw [← hd]
        refine foldl_keeps KeepsSome _ _ _ (keepsSome_some hr) fun r x hx => ⟨fun t ht => ?_⟩
        obtain ⟨u, hu, ht⟩ := Option.bind_eq_some_iff.1 ht
        exact loadOn_canon (hx.some u hu) ht
      cases d with
      | none => exact seqStop_canon _ _ _ _ hr
      | some t =>
        dsimp only
        split
        · exact seqStop_canon _ _ _ _ hr
        · exact finishCfg_canon _ _ (noteLoaded_canon _ _ (hk.some t rfl))

theorem startInit_canon {s : State} (q : Nat) (l : Launch) (ws : List Word) (hm : s.canonical = true) : (startInit s q l ws).canonical = true := by
  unfold startInit
  try dsimp only
  repeat' first
    | with_reducible exact hm | with_reducible assumption | intro _ | with_reducible apply makeLive_canon | dsimp only | split
    | simp only [canonical_state_mk] | with_reducible apply canonical_of_state

theorem execSqRun_canon {s : State} (ing : Bool) (edge : Nat) (async : Bool) (hm : s.canonical = true) : Keeps (execSqRun ing edge async s) := by
  unfold execSqRun
  try dsimp only
  repeat' first
    | with_reducible exact hm | with_reducible assumption | intro _ | with_reducible exact keeps_fault _
    | with_reducible exact keeps_refused _ | with_reducible refine keeps_next ?_ | with_reducible apply seqWord_canon
    | with_reducible apply seqGo_canon | with_reducible apply seqStop_canon | with_reducible apply startInit_canon
    | with_reducible apply seqWait_canon | with_reducible apply getD_canon | with_reducible apply foldl_canon | dsimp only | split
    | simp only [canonical_state_mk] | with_reducible apply canonical_of_state

theorem requestHitch_canon {q : Nat} {l : Launch} {hva : Nat} {r : State × Check Phys} (hm : r.1.canonical = true) :
    (requestHitch q l hva r).canonical = true := by
  obtain ⟨s, r⟩ := r
  cases r with
  | error e => exact seqStop_canon _ _ _ _ hm
  | ok p => exact seqWait_canon _ _ (addOp_canon _ hm)

theorem askHitch_canon {s : State} (q : Nat) (l : Launch) (hva : Nat) (hm : s.canonical = true) : (askHitch s q l hva).canonical = true := by
  unfold askHitch
  try dsimp only
  repeat' first
    | with_reducible exact hm | with_reducible assumption | intro _ | with_reducible apply requestHitch_canon
    | with_reducible apply seqStop_canon | (with_reducible refine xlateNow_canon ?_ (by assumption)) | with_reducible apply xlateNow_mem_fst
    | dsimp only | split | simp only [canonical_state_mk] | with_reducible apply canonical_of_state

theorem takeBranch_canon {q : Nat} {l : Launch} {sense : Bool} {target next : Nat} {r : State × Option Nat} (hm : r.1.canonical = true) :
    (takeBranch q l sense target next r).canonical = true := by
  obtain ⟨s, r⟩ := r
  cases r with
  | none => exact seqStop_canon _ _ _ _ hm
  | some v => exact seqGo_canon _ _ _ hm

theorem branchOn_canon {q : Nat} {l : Launch} {sense : Bool} {target va next : Nat} {r : State × Check Phys} (hm : r.1.canonical = true) :
    (branchOn q l sense target va next r).canonical = true := by
  obtain ⟨s, r⟩ := r
  cases r with
  | error e => exact seqStop_canon _ _ _ _ hm
  | ok p =>
    unfold branchOn
    dsimp only
    split
    · exact seqWait_canon _ _ (addOp_canon _ hm)
    · exact takeBranch_canon (readHome_mem_fst _ _ _ hm)

theorem readPredicate_canon {s : State} (q : Nat) (l : Launch) (sense : Bool) (target va next : Nat) (hm : s.canonical = true) :
    (readPredicate s q l sense target va next).canonical = true :=
  branchOn_canon (xlateNow_mem_fst _ _ _ _ hm)

theorem execSqIf_canon {s : State} (hv sense : Bool) (target va hva : Nat) (hm : s.canonical = true) : Keeps (execSqIf hv sense target va hva s) := by
  unfold execSqIf
  try dsimp only
  repeat' first
    | with_reducible exact hm | with_reducible assumption | intro _ | with_reducible exact keeps_fault _
    | with_reducible exact keeps_refused _ | with_reducible refine keeps_next ?_ | with_reducible apply seqWord_canon
    | with_reducible apply seqStop_canon | with_reducible apply askHitch_canon | with_reducible apply readPredicate_canon
    | with_reducible apply dropOp_canon | with_reducible apply takeBranch_canon | dsimp only | split | simp only [canonical_state_mk]
    | with_reducible apply canonical_of_state

theorem execSqGait_canon {s : State} (gt : Nat) (hm : s.canonical = true) : Keeps (execSqGait gt s) := by
  unfold execSqGait
  try dsimp only
  repeat' first
    | with_reducible exact hm | with_reducible assumption | intro _ | with_reducible exact keeps_fault _
    | with_reducible exact keeps_refused _ | with_reducible refine keeps_next ?_ | with_reducible apply seqWord_canon
    | with_reducible apply seqStop_canon | with_reducible apply beginChange_canon | with_reducible apply setLaunch_canon | dsimp only
    | split | simp only [canonical_state_mk] | with_reducible apply canonical_of_state

theorem execSqSig_canon {s : State} (iter dest value : Nat) (hm : s.canonical = true) : Keeps (execSqSig iter dest value s) := by
  unfold execSqSig
  try dsimp only
  repeat' first
    | with_reducible exact hm | with_reducible assumption | intro _ | with_reducible exact keeps_fault _
    | with_reducible exact keeps_refused _ | with_reducible refine keeps_next ?_ | with_reducible apply seqWord_canon
    | with_reducible apply seqGo_canon | with_reducible apply seqStop_canon | with_reducible apply seqWait_canon
    | with_reducible apply addOut_canon | dsimp only | split | simp only [canonical_state_mk] | with_reducible apply canonical_of_state

theorem refill_canon {s : State} (hm : s.canonical = true) : (refill s).canonical = true := by
  unfold refill
  try dsimp only
  repeat' first
    | with_reducible exact hm | with_reducible assumption | intro _ | dsimp only | split | simp only [canonical_state_mk]
    | with_reducible apply canonical_of_state

theorem State_withFetchWord_canon {s : State} (nbits w : Nat) (hm : s.canonical = true) : (State.withFetchWord s nbits w).canonical = true := by
  unfold State.withFetchWord
  try dsimp only
  repeat' first
    | with_reducible exact hm | with_reducible assumption | intro _ | with_reducible apply placeWord_canon | dsimp only | split
    | simp only [canonical_state_mk] | with_reducible apply canonical_of_state

end Sys2Proof.Machine
end

