-- ==== Sys2Proof/Laws/Ops.lean ====
section
/-! SUPPORT. What the shared operations of a block instruction answer, once: the body of a task, operands, targets, the operand forms. -/

namespace Sys2Proof.Machine

set_option Elab.async false

theorem runTask_ok {f : State → Task → Body Task} {s : State} {τ τ' : Task} (hr : Runs s τ) (hf : f s τ = .ok τ') :
    runTask f s = .next (s.setTask τ') := by
  unfold Runs at hr
  simp [runTask, hr, hf]

theorem runTask_stop {f : State → Task → Body Task} {s : State} {τ : Task} {e : Stop} (hr : Runs s τ) (hf : f s τ = .error e) :
    runTask f s = .next (endTask s τ e) := by
  unfold Runs at hr
  simp [runTask, hr, hf]

theorem runBody_ok {f : State → Task → Body (State × Task)} {s s' : State} {τ τ' : Task} (hr : Runs s τ)
    (hf : f s τ = .ok (s', τ')) : runBody f s = .next (s'.setTask τ') := by
  unfold Runs at hr
  simp [runBody, hr, hf]

theorem runBody_stop {f : State → Task → Body (State × Task)} {s : State} {τ : Task} {e : Stop} (hr : Runs s τ)
    (hf : f s τ = .error e) : runBody f s = .next (endTask s τ e) := by
  unfold Runs at hr
  simp [runBody, hr, hf]

theorem srcs_all {τ : Task} {l : List Src} (h : SrcsOk τ l) : l.all (srcOk τ) = true := by
  simpa [SrcsOk, List.all_eq_true] using h

theorem check_true {c : Bool} {cause addr : Nat} (h : c = true) : check c cause addr = .ok () := by simp [check, h]

theorem check_false {c : Bool} {cause addr : Nat} (h : c = false) : check c cause addr = .error (.fault cause 0 addr) := by
  simp [check, h, stop]

theorem checkTarget_ok {s : State} {τ : Task} {t : Target} (h : targetOk s τ t = true) : checkTarget s τ t = .ok () :=
  check_true h

theorem checkTarget_bad {s : State} {τ : Task} {t : Target} (h : targetOk s τ t = false) :
    checkTarget s τ t = .error (.fault causeBadTarget 0 t.code) := check_false h

theorem operands_ok {s : State} {τ : Task} {l : List Src} {t : Target} (hs : SrcsOk τ l) (ht : targetOk s τ t = true) :
    operands s τ l t = .ok () := by
  simp only [operands, check_true (srcs_all hs), checkTarget_ok ht]
  rfl

theorem operands_source {s : State} {τ : Task} {l : List Src} {t : Target} (hs : ¬ SrcsOk τ l) :
    operands s τ l t = .error (.fault causeBadSource 0 0) := by
  have h : l.all (srcOk τ) = false := by
    rw [Bool.eq_false_iff]
    exact fun h => hs (by simpa [SrcsOk, List.all_eq_true] using h)
  simp only [operands, check_false h]
  rfl

theorem operands_target {s : State} {τ : Task} {l : List Src} {t : Target} (hs : SrcsOk τ l) (ht : targetOk s τ t = false) :
    operands s τ l t = .error (.fault causeBadTarget 0 t.code) := by
  simp only [operands, check_true (srcs_all hs), checkTarget_bad ht]
  rfl

/-- An emission enters the commit buffer when its port exists and its tag operation has a tag. -/
theorem emitWith_ok {s : State} {τ : Task} {n : Nat} {v : Lanes} {h : Header → Header} {p : Port} (hp : portAt s n = some p)
    (ht : anyLane (emitLanes τ v) = true → ∃ g, tagOp s τ.cx.q τ.ctx τ.iter τ.cx.parent p.top (laneOf v 0) = .ok g) :
    ∃ τ', emitWith s τ n v h = .ok τ' := by
  unfold emitWith
  simp only [hp]
  split
  · rename_i ha
    obtain ⟨g, hg⟩ := ht ha
    simp only [tagFor, hg]
    exact ⟨_, rfl⟩
  · exact ⟨_, rfl⟩

/-- Lanes that land are written. -/
theorem put_ok {s : State} {τ : Task} {t : Target} {v : Lanes} (h : Lands s τ t v) : ∃ τ', put s τ t v = .ok τ' := by
  obtain ⟨ht, hp⟩ := h
  cases t with
  | port n =>
    simp only [targetOk, Option.isSome_iff_exists] at ht
    obtain ⟨p, hn⟩ := ht
    exact emitWith_ok hn (fun ha => hp n p rfl hn ha)
  | _ => exact ⟨_, rfl⟩

theorem finish_ok {s : State} {τ τ' : Task} {t : Target} {v : Lanes} (h : put s τ t v = .ok τ') :
    finish s τ t v = .ok (τ'.advance 1) := by
  simp only [finish, h]
  rfl

/-- A raised flag changes no target. -/
theorem lands_raise {s : State} {τ : Task} {t : Target} {v : Lanes} {f : Astat} (h : Lands s τ t v) : Lands s (τ.raise f) t v := h

/-- A lane instruction whose lanes land answers them at its target. -/
theorem writes_of {i : Instr} {s : State} {τ : Task} {t : Target} {v : Lanes} {f : State → Task → Body Task}
    (he : exec i s = runTask f s) (hr : Runs s τ) (hl : Lands s τ t v) (hf : f s τ = finish s τ t v) : Writes i s τ t v 1 := by
  obtain ⟨τ', h⟩ := put_ok hl
  exact ⟨τ', h, he.trans (runTask_ok hr (hf.trans (finish_ok h)))⟩

/-- The same where the lanes carry flags. -/
theorem writesF_of {i : Instr} {s : State} {τ : Task} {t : Target} {r : FLanes} {f : State → Task → Body Task}
    (he : exec i s = runTask f s) (hr : Runs s τ) (hl : Lands s τ t (valuesOf r)) (hf : f s τ = finishF s τ t r) :
    WritesF i s τ t r := by
  obtain ⟨τ', h⟩ := put_ok (lands_raise (f := orFlags r) hl)
  exact ⟨τ', h, he.trans (runTask_ok hr (hf.trans (finish_ok h)))⟩

theorem op1_eq {a : Src} {t : Target} {f : Nat → Word → Word} {s : State} {τ : Task} (hs : SrcsOk τ [a])
    (ht : targetOk s τ t = true) : op1 a t f s τ = finish s τ t (lanes1 τ (readSrc τ false a) f) := by
  simp only [op1, operands_ok hs ht]
  rfl

theorem op2_eq {a b : Src} {t : Target} {f : Nat → Word → Word → Word} {s : State} {τ : Task} (hs : SrcsOk τ [a, b])
    (ht : targetOk s τ t = true) : op2 a b t f s τ = finish s τ t (lanes2 τ (readSrc τ false a) (readSrc τ true b) f) := by
  simp only [op2, operands_ok hs ht]
  rfl

theorem op3_eq {a b : Src} {c : Nat} {t : Target} {f : Nat → Word → Word → Word → Word} {s : State} {τ : Task}
    (hs : SrcsOk τ [a, b]) (ht : targetOk s τ t = true) :
    op3 a b c t f s τ = finish s τ t (lanes3 τ (readSrc τ false a) (readSrc τ true b) (τ.temps.getD c noLanes) f) := by
  simp only [op3, operands_ok hs ht]
  rfl

theorem fop1_eq {a : Src} {t : Target} {f : State → Task → Nat → Word → Word × Astat} {s : State} {τ : Task}
    (hs : SrcsOk τ [a]) (ht : targetOk s τ t = true) :
    fop1 a t f s τ = finishF s τ t (flanes1 τ (readSrc τ false a) (f s τ)) := by
  simp only [fop1, operands_ok hs ht]
  rfl

theorem fop2_eq {a b : Src} {t : Target} {f : State → Task → Nat → Word → Word → Word × Astat} {s : State} {τ : Task}
    (hs : SrcsOk τ [a, b]) (ht : targetOk s τ t = true) :
    fop2 a b t f s τ = finishF s τ t (flanes2 τ (readSrc τ false a) (readSrc τ true b) (f s τ)) := by
  simp only [fop2, operands_ok hs ht]
  rfl

theorem fop3_eq {a b : Src} {c : Nat} {t : Target} {f : State → Task → Nat → Word → Word → Word → Word × Astat} {s : State}
    {τ : Task} (hs : SrcsOk τ [a, b]) (ht : targetOk s τ t = true) :
    fop3 a b c t f s τ =
      finishF s τ t (flanes3 τ (readSrc τ false a) (readSrc τ true b) (τ.temps.getD c noLanes) (f s τ)) := by
  simp only [fop3, operands_ok hs ht]
  rfl

theorem op0_eq {t : Target} {f : State → Task → Word} {s : State} {τ : Task} (ht : targetOk s τ t = true) :
    op0 t f s τ = finish s τ t (lanes0 τ (fun _ => f s τ)) := by
  simp only [op0, checkTarget_ok ht]
  rfl

/-- Two writes in a row, of a pair that lands. -/
theorem pair_ok {s : State} {τ : Task} {x y : Target} {u v : Lanes} (h : LandsPair s τ x u y v) :
    ∃ τ' τ'', put s τ x u = .ok τ' ∧ put s τ' y v = .ok τ'' := by
  obtain ⟨τ', h1⟩ := put_ok h.2.1
  obtain ⟨τ'', h2⟩ := put_ok (h.2.2 τ' h1)
  exact ⟨τ', τ'', h1, h2⟩

end Sys2Proof.Machine
end

