-- ==== Sys2Proof/Laws/PerInstr.lean ====
section
/-! SUPPORT. Per-instruction lemmas. RoundTrip: the decoder reads back what the encoder writes, for every constructor. -/

namespace Sys2Proof

set_option Elab.async false
set_option linter.unusedSimpArgs false
set_option linter.unusedVariables false

theorem Src.code_lt {a : Src} (h : a.wf = true) : a.code < 16 := by
  cases a <;> simp [Src.wf, Src.code] at * <;> omega

theorem Src.ofCode_code {a : Src} (h : a.wf = true) : Src.ofCode a.code = a := by
  cases a with
  | t k =>
    have : k < 8 := by simpa [Src.wf] using h
    simp [Src.code, Src.ofCode, this]
  | e k =>
    have : k < 4 := by simpa [Src.wf] using h
    have h1 : ¬ 9 + k < 8 := by omega
    have h2 : ¬ 9 + k = 8 := by omega
    have h3 : 9 + k < 13 := by omega
    simp [Src.code, Src.ofCode, h1, h2, h3]
  | latch => rfl
  | zero => rfl
  | lid => rfl
  | tag => rfl

theorem Target.code_lt {t : Target} (h : t.wf = true) : t.code < 512 := by
  cases t <;> simp [Target.wf, Target.code] at * <;> omega

theorem Target.ofCode_code {t : Target} (h : t.wf = true) : Target.ofCode t.code = .ok t := by
  cases t with
  | latA p =>
    have : p < 64 := by simpa [Target.wf] using h
    have h1 : 2 * p < 128 := by omega
    simp [Target.code, Target.ofCode, h1]
  | latB p =>
    have : p < 64 := by simpa [Target.wf] using h
    have h1 : 2 * p + 1 < 128 := by omega
    have h2 : ¬ (2 * p + 1) % 2 = 0 := by omega
    have h3 : (2 * p + 1) / 2 = p := by omega
    simp [Target.code, Target.ofCode, h1, h2, h3]
  | onTrue p =>
    have : p < 64 := by simpa [Target.wf] using h
    have h1 : ¬ 128 + 2 * p < 128 := by omega
    have h2 : 128 + 2 * p < 256 := by omega
    have h3 : (128 + 2 * p) % 2 = 0 := by omega
    have h4 : (128 + 2 * p - 128) / 2 = p := by omega
    simp only [Target.code, Target.ofCode, h1, h2, h3, h4, if_false, if_true]
  | onFalse p =>
    have : p < 64 := by simpa [Target.wf] using h
    have h1 : ¬ 128 + 2 * p + 1 < 128 := by omega
    have h2 : 128 + 2 * p + 1 < 256 := by omega
    have h3 : ¬ (128 + 2 * p + 1) % 2 = 0 := by omega
    have h4 : (128 + 2 * p + 1 - 128) / 2 = p := by omega
    simp only [Target.code, Target.ofCode, h1, h2, h3, h4, if_false, if_true]
  | temp k =>
    have : k < 8 := by simpa [Target.wf] using h
    have h1 : ¬ 256 + k < 128 := by omega
    have h2 : ¬ 256 + k < 256 := by omega
    have h3 : 256 + k < 264 := by omega
    have h4 : 256 + k - 256 = k := by omega
    simp only [Target.code, Target.ofCode, h1, h2, h3, h4, if_false, if_true]
  | discard => rfl
  | emask => rfl
  | port n =>
    have : n < 128 := by simpa [Target.wf] using h
    have h1 : ¬ 384 + n < 128 := by omega
    have h2 : ¬ 384 + n < 256 := by omega
    have h3 : ¬ 384 + n < 264 := by omega
    have h4 : ¬ 384 + n = 264 := by omega
    have h5 : ¬ 384 + n = 265 := by omega
    have h6 : ¬ 384 + n < 384 := by omega
    have h7 : 384 + n - 384 = n := by omega
    simp only [Target.code, Target.ofCode, h1, h2, h3, h4, h5, h6, h7, if_false]

theorem AmoOp.code_lt (x : AmoOp) : x.code < 16 := by cases x <;> decide

theorem AmoOp.ofCode_code {x : AmoOp} : AmoOp.ofCode x.code = .ok x := by cases x <;> rfl

theorem AmofOp.code_lt (x : AmofOp) : x.code < 8 := by cases x <;> decide

theorem AmofOp.ofCode_code {x : AmofOp} : AmofOp.ofCode x.code = .ok x := by cases x <;> rfl

theorem Cond.code_lt (x : Cond) : x.code < 16 := by cases x <;> decide

theorem Cond.ofCode_code {x : Cond} : Cond.ofCode x.code = .ok x := by cases x <;> rfl

theorem DredOp.code_lt (x : DredOp) : x.code < 4 := by cases x <;> decide

theorem DredOp.ofCode_code {x : DredOp} : DredOp.ofCode x.code = .ok x := by cases x <;> rfl

theorem FCond.code_lt (x : FCond) : x.code < 8 := by cases x <;> decide

theorem FCond.ofCode_code {x : FCond} : FCond.ofCode x.code = .ok x := by cases x <;> rfl

theorem Fmt.code_lt (x : Fmt) : x.code < 8 := by cases x <;> decide

theorem Fmt.ofCode_code {x : Fmt} : Fmt.ofCode x.code = .ok x := by cases x <;> rfl

theorem HKind.code_lt (x : HKind) : x.code < 4 := by cases x <;> decide

theorem HKind.ofCode_code {x : HKind} : HKind.ofCode x.code = .ok x := by cases x <;> rfl

theorem IFmt.code_lt (x : IFmt) : x.code < 8 := by cases x <;> decide

theorem IFmt.ofCode_code {x : IFmt} : IFmt.ofCode x.code = .ok x := by cases x <;> rfl

theorem Pair.code_lt (x : Pair) : x.code < 16 := by cases x <;> decide

theorem Pair.ofCode_code {x : Pair} : Pair.ofCode x.code = .ok x := by cases x <;> rfl

theorem RedOp.code_lt (x : RedOp) : x.code < 8 := by cases x <;> decide

theorem RedOp.ofCode_code {x : RedOp} : RedOp.ofCode x.code = .ok x := by cases x <;> rfl

theorem Rnd.code_lt (x : Rnd) : x.code < 8 := by cases x <;> decide

theorem Rnd.ofCode_code {x : Rnd} : Rnd.ofCode x.code = .ok x := by cases x <;> rfl

theorem RngForm.code_lt (x : RngForm) : x.code < 4 := by cases x <;> decide

theorem RngForm.ofCode_code {x : RngForm} : RngForm.ofCode x.code = .ok x := by cases x <;> rfl

theorem ShufMode.code_lt (x : ShufMode) : x.code < 4 := by cases x <;> decide

theorem ShufMode.ofCode_code {x : ShufMode} : ShufMode.ofCode x.code = .ok x := by cases x <;> rfl

theorem Size.code_lt (x : Size) : x.code < 4 := by cases x <;> decide

theorem Size.ofCode_code {x : Size} : Size.ofCode x.code = .ok x := by cases x <;> rfl

theorem decodeBlock_P {w : Nat} (n : Nat) (h : bits w 30 2 = 0) : decodeBlock w n = decodeP w := by
  unfold decodeBlock
  split <;> simp_all

theorem decodeBlock_S {w : Nat} (n : Nat) (h : bits w 30 2 = 1) : decodeBlock w n = decodeS w := by
  unfold decodeBlock
  split <;> simp_all

theorem decodeBlock_I {w : Nat} (n : Nat) (h : bits w 30 2 = 2) : decodeBlock w n = decodeI w n := by
  unfold decodeBlock
  split <;> simp_all

theorem decodeBlock_E {w : Nat} (n : Nat) (h : bits w 30 2 = 3) : decodeBlock w n = decodeE w := by
  unfold decodeBlock
  split <;> simp_all

theorem field_of_field {w v lo k n m x : Nat} (h : bits w lo n = v) (hk : k + m ≤ n) (hv : v / 2 ^ k % 2 ^ m = x) :
    bits w (lo + k) m = x := by
  have hn : 2 ^ n = 2 ^ k * 2 ^ (n - k) := by rw [← Nat.pow_add]; congr 1; omega
  have hm : 2 ^ (n - k) = 2 ^ m * 2 ^ (n - k - m) := by rw [← Nat.pow_add]; congr 1; omega
  unfold bits at *
  rw [← hv, ← h, hn, Nat.mod_mul_right_div_self, Nat.div_div_eq_div_mul, Nat.pow_add, hm, Nat.mod_mul_right_mod]

theorem mfsNumber_lt {n : Nat} (h : mfsNumber n = true) : n < 2048 := by
  simp [mfsNumber] at h
  omega

theorem mtsNumber_lt {n : Nat} (h : mtsNumber n = true) : n < 128 := by
  simp [mtsNumber] at h
  omega

theorem boolCode_lt (b : Bool) : boolCode b < 2 := by cases b <;> decide

theorem bit_of_field {w v lo k n : Nat} {b : Bool} (h : bits w lo n = v) (hk : k + 1 ≤ n) (hv : v / 2 ^ k % 2 = boolCode b) :
    bit w (lo + k) = b := by
  have := field_of_field (m := 1) h hk hv
  unfold bits at this
  rw [Nat.pow_one] at this
  unfold bit
  rw [this]
  cases b <;> rfl

theorem decodeSeq_if_true {w lo hi hlo hhi target : Nat} {sense : Bool} {rest : List Nat} (h : bits w 28 4 = 3)
    (h10 : bits w 16 10 = 0) (h0 : bits w 0 16 = target) (g27 : bit w 27 = true) (g26 : bit w 26 = sense) (l1 : hi < 2 ^ 24)
    (l2 : hhi < 2 ^ 24) : decodeSeq (w :: lo :: hi :: hlo :: hhi :: rest) =
      .ok (.sqIf true sense target (lo + hi * 2 ^ 32) (hlo + hhi * 2 ^ 32), 5) := by
  have dl : decide (2 ≤ rest.length + 1 + 1 + 1 + 1) = true := decide_eq_true (by omega)
  have dh : decide (4 ≤ rest.length + 1 + 1 + 1 + 1) = true := decide_eq_true (by omega)
  unfold decodeSeq
  simp only [h]
  rw [h10, h0, g27, g26]
  simp only [require, List.getD_cons_zero, List.getD_cons_succ, List.length_cons, decide_eq_true l1, decide_eq_true l2, dl, dh,
    beq_self_eq_true, if_true, Bool.and_self, bind, Except.bind]

theorem decodeSeq_if_false {w lo hi target : Nat} {sense : Bool} {rest : List Nat} (h : bits w 28 4 = 3)
    (h10 : bits w 16 10 = 0) (h0 : bits w 0 16 = target) (g27 : bit w 27 = false) (g26 : bit w 26 = sense) (l1 : hi < 2 ^ 24) :
    decodeSeq (w :: lo :: hi :: rest) = .ok (.sqIf false sense target (lo + hi * 2 ^ 32) 0, 3) := by
  have dl : decide (2 ≤ rest.length + 1 + 1) = true := decide_eq_true (by omega)
  unfold decodeSeq
  simp only [h]
  rw [h10, h0, g27, g26]
  simp only [require, List.getD_cons_zero, List.getD_cons_succ, List.length_cons, decide_eq_true l1, dl, beq_self_eq_true, if_true,
    Bool.and_self, Bool.false_eq_true, if_false, bind, Except.bind]

theorem bit_of {w lo : Nat} {b : Bool} (h : w / 2 ^ lo % 2 = boolCode b) : bit w lo = b := by
  unfold bit
  rw [h]
  cases b <;> rfl

namespace Laws.RoundTrip

/-- The sequencer's instructions. -/
def sequencing : Instr → Bool
  | .sqEnd _ => true
  | .sqCfg _ _ => true
  | .sqRun _ _ _ => true
  | .sqIf _ _ _ _ _ => true
  | .sqJmp _ => true
  | .sqBar => true
  | .sqGait _ => true
  | .sqSig _ _ _ => true
  | _ => false

/-- A well-formed instruction with words is what the decoder reads from its words, whatever follows them. -/
def Statement (i : Instr) : Prop :=
  i.wf = true →
    match encode i with
    | [] => True
    | w :: ws =>
      if sequencing i then ∀ rest, decodeSeq (w :: ws ++ rest) = .ok (i, (w :: ws).length)
      else ∀ next, decodeBlock w (ws.headD next) = .ok i

theorem s_statement {i : Instr} {op sa sb m t : Nat} (he : encode i = [wordOf 1 op sa sb m t]) (hs : sequencing i = false)
    (h : i.wf = true → op < 64 ∧ sa < 16 ∧ sb < 16 ∧ m < 128 ∧ t < 512 ∧ ∀ w, bits w 24 6 = op → bits w 20 4 = sa →
      bits w 16 4 = sb → bits w 9 7 = m → bits w 0 9 = t → decodeS w = .ok i) : Statement i := by
  intro hw
  rw [he, hs]
  obtain ⟨ho, ha, hb, hm, ht, hd⟩ := h hw
  have hd := hd (wordOf 1 op sa sb m t)
  have hc : bits (wordOf 1 op sa sb m t) 30 2 = 1 := by unfold bits wordOf; omega
  intro next
  rw [decodeBlock_S _ hc]
  unfold bits wordOf at *
  apply hd <;> omega

theorem e_statement {i : Instr} {op sa sb m t : Nat} (he : encode i = [wordOf 3 op sa sb m t]) (hs : sequencing i = false)
    (h : i.wf = true → op < 64 ∧ sa < 16 ∧ sb < 16 ∧ m < 128 ∧ t < 512 ∧ ∀ w, bits w 24 6 = op → bits w 20 4 = sa →
      bits w 16 4 = sb → bits w 9 7 = m → bits w 0 9 = t → decodeE w = .ok i) : Statement i := by
  intro hw
  rw [he, hs]
  obtain ⟨ho, ha, hb, hm, ht, hd⟩ := h hw
  have hd := hd (wordOf 3 op sa sb m t)
  have hc : bits (wordOf 3 op sa sb m t) 30 2 = 3 := by unfold bits wordOf; omega
  intro next
  rw [decodeBlock_E _ hc]
  unfold bits wordOf at *
  apply hd <;> omega

theorem i_statement {i : Instr} {op sa m t : Nat} (he : encode i = [wordOfI op sa m t]) (hs : sequencing i = false)
    (h : i.wf = true → op < 64 ∧ sa < 16 ∧ m < 2048 ∧ t < 512 ∧ ∀ w next, bits w 24 6 = op → bits w 20 4 = sa →
      bits w 9 11 = m → bits w 0 9 = t → decodeI w next = .ok i) : Statement i := by
  intro hw
  rw [he, hs]
  obtain ⟨ho, ha, hm, ht, hd⟩ := h hw
  intro next
  have hd := hd (wordOfI op sa m t) next
  have hc : bits (wordOfI op sa m t) 30 2 = 2 := by unfold bits wordOfI; omega
  show decodeBlock (wordOfI op sa m t) next = _
  rw [decodeBlock_I _ hc]
  unfold bits wordOfI at *
  apply hd <;> omega

theorem p_statement {i : Instr} {op m x y : Nat} (he : encode i = [wordOfP op m x y]) (hs : sequencing i = false)
    (h : i.wf = true → op < 64 ∧ m < 64 ∧ x < 512 ∧ y < 512 ∧ ∀ w, bits w 24 6 = op → bits w 18 6 = m →
      bits w 9 9 = x → bits w 0 9 = y → decodeP w = .ok i) : Statement i := by
  intro hw
  rw [he, hs]
  obtain ⟨ho, hm, hx, hy, hd⟩ := h hw
  have hd := hd (wordOfP op m x y)
  have hc : bits (wordOfP op m x y) 30 2 = 0 := by unfold bits wordOfP; omega
  intro next
  rw [decodeBlock_P _ hc]
  unfold bits wordOfP at *
  apply hd <;> omega

theorem seq_statement {i : Instr} {w : Nat} {ws : List Nat} (he : encode i = w :: ws) (hs : sequencing i = true)
    (h : i.wf = true → ∀ rest, decodeSeq (w :: ws ++ rest) = .ok (i, (w :: ws).length)) : Statement i := by
  intro hw
  rw [he, hs]
  exact h hw

theorem sq_statement {i : Instr} {w : Nat} (he : encode i = [w]) (hs : sequencing i = true)
    (h : i.wf = true → ∀ v, w = v → ∀ rest, decodeSeq (v :: rest) = .ok (i, 1)) : Statement i :=
  seq_statement he hs fun hw rest => h hw w rfl rest

theorem regionShrink (q : Nat) (gt : Nat) (dx : Nat) (dy : Nat) : Statement (.regionShrink q gt dx dy) := fun _ => trivial

theorem governorMeasure (watts : Nat) : Statement (.governorMeasure watts) := fun _ => trivial

theorem recoveryImage (qp : Nat) (hd : BitVec 192) (sent : Nat) (len : Nat) : Statement (.recoveryImage qp hd sent len) := fun _ => trivial

theorem mrlPlaneDown (plane : Nat) : Statement (.mrlPlaneDown plane) := fun _ => trivial

theorem mrlKeyChange (link : Nat) : Statement (.mrlKeyChange link) := fun _ => trivial

theorem rdmaWrite (qp : Nat) (rkey : Nat) (va : Nat) (data : List (BitVec 8)) : Statement (.rdmaWrite qp rkey va data) := fun _ => trivial

theorem rdmaRead (qp : Nat) (rkey : Nat) (va : Nat) (len : Nat) : Statement (.rdmaRead qp rkey va len) := fun _ => trivial

theorem rdmaInvalidRequest (qp : Nat) : Statement (.rdmaInvalidRequest qp) := fun _ => trivial

theorem sttLaunch (qp : Nat) (hd : BitVec 192) (sent : Nat) (rva : Nat) : Statement (.sttLaunch qp hd sent rva) := fun _ => trivial

theorem sttTokens (qp : Nat) (hd : BitVec 192) (sent : Nat) (words : List Word) : Statement (.sttTokens qp hd sent words) := fun _ => trivial

theorem mrreg (qp : Nat) (hd : BitVec 192) (sent : Nat) (index : Nat) (asid : Nat) (va : Nat) (len : Nat) (r : Bool) (w : Bool) : Statement (.mrreg qp hd sent index asid va len r w) := fun _ => trivial

theorem mrdereg (qp : Nat) (hd : BitVec 192) (sent : Nat) (index : Nat) : Statement (.mrdereg qp hd sent index) := fun _ => trivial

theorem ctrlPreempt (qp : Nat) (hd : BitVec 192) (sent : Nat) (q : Nat) (save : Bool) : Statement (.ctrlPreempt qp hd sent q save) := fun _ => trivial

theorem ctrlHalt (qp : Nat) (hd : BitVec 192) (sent : Nat) (asid : Nat) (ctx : Nat) : Statement (.ctrlHalt qp hd sent asid ctx) := fun _ => trivial

theorem ctrlFwd (qp : Nat) (hd : BitVec 192) (sent : Nat) (words : List Word) : Statement (.ctrlFwd qp hd sent words) := fun _ => trivial

theorem getVersion (qp : Nat) (hd : BitVec 192) (sent : Nat) : Statement (.getVersion qp hd sent) := fun _ => trivial

theorem getCapabilities (qp : Nat) (hd : BitVec 192) (sent : Nat) : Statement (.getCapabilities qp hd sent) := fun _ => trivial

theorem negotiateAlgorithms (qp : Nat) (hd : BitVec 192) (sent : Nat) : Statement (.negotiateAlgorithms qp hd sent) := fun _ => trivial

theorem getDigests (qp : Nat) (hd : BitVec 192) (sent : Nat) : Statement (.getDigests qp hd sent) := fun _ => trivial

theorem getCertificate (qp : Nat) (hd : BitVec 192) (sent : Nat) : Statement (.getCertificate qp hd sent) := fun _ => trivial

theorem challenge (qp : Nat) (hd : BitVec 192) (sent : Nat) : Statement (.challenge qp hd sent) := fun _ => trivial

theorem getMeasurements (qp : Nat) (hd : BitVec 192) (sent : Nat) : Statement (.getMeasurements qp hd sent) := fun _ => trivial

theorem keyExchange (qp : Nat) (hd : BitVec 192) (sent : Nat) : Statement (.keyExchange qp hd sent) := fun _ => trivial

theorem finish (qp : Nat) (hd : BitVec 192) (sent : Nat) : Statement (.finish qp hd sent) := fun _ => trivial

theorem debugUnlock (qp : Nat) (hd : BitVec 192) (sent : Nat) (level : Nat) : Statement (.debugUnlock qp hd sent level) := fun _ => trivial

theorem spdmUnsupportedRequest (qp : Nat) (hd : BitVec 192) (sent : Nat) : Statement (.spdmUnsupportedRequest qp hd sent) := fun _ => trivial

theorem setPlimit (watts : Nat) : Statement (.setPlimit watts) := fun _ => trivial

theorem fwd (x : Target) (y : Target) : Statement (.fwd x y) := by
  refine p_statement rfl rfl fun hw => ?_
  have hw : (x.wf && y.wf) = true := hw
  simp only [Bool.and_eq_true, decide_eq_true_eq] at hw
  obtain ⟨h0, h1⟩ := hw
  have c0 := Target.code_lt h0
  have c1 := Target.code_lt h1
  refine ⟨by decide, by decide, by omega, by omega, fun w f24_6 f18_6 f9_9 f0_9 => ?_⟩
  unfold decodeP
  rw [f24_6]
  show decodeFwd w = _
  simp only [decodeFwd, f24_6, f18_6, f9_9, f0_9, Target.ofCode_code h0, Target.ofCode_code h1, require, bind, Except.bind, beq_self_eq_true, if_true, decide_true, decide_eq_true_eq]
  try rfl

theorem steer (x : Target) (y : Target) : Statement (.steer x y) := by
  refine p_statement rfl rfl fun hw => ?_
  have hw : (x.wf && y.wf) = true := hw
  simp only [Bool.and_eq_true, decide_eq_true_eq] at hw
  obtain ⟨h0, h1⟩ := hw
  have c0 := Target.code_lt h0
  have c1 := Target.code_lt h1
  refine ⟨by decide, by decide, by omega, by omega, fun w f24_6 f18_6 f9_9 f0_9 => ?_⟩
  unfold decodeP
  rw [f24_6]
  show decodeSteer w = _
  simp only [decodeSteer, f24_6, f18_6, f9_9, f0_9, Target.ofCode_code h0, Target.ofCode_code h1, require, bind, Except.bind, beq_self_eq_true, if_true, decide_true, decide_eq_true_eq]
  try rfl

theorem steerc (x : Target) (y : Target) : Statement (.steerc x y) := by
  refine p_statement rfl rfl fun hw => ?_
  have hw : (x.wf && y.wf) = true := hw
  simp only [Bool.and_eq_true, decide_eq_true_eq] at hw
  obtain ⟨h0, h1⟩ := hw
  have c0 := Target.code_lt h0
  have c1 := Target.code_lt h1
  refine ⟨by decide, by decide, by omega, by omega, fun w f24_6 f18_6 f9_9 f0_9 => ?_⟩
  unfold decodeP
  rw [f24_6]
  show decodeSteerc w = _
  simp only [decodeSteerc, f24_6, f18_6, f9_9, f0_9, Target.ofCode_code h0, Target.ofCode_code h1, require, bind, Except.bind, beq_self_eq_true, if_true, decide_true, decide_eq_true_eq]
  try rfl

theorem split (n : Nat) (x : Target) (y : Target) : Statement (.split n x y) := by
  refine p_statement rfl rfl fun hw => ?_
  have hw : (decide (n < 33) && x.wf && y.wf) = true := hw
  simp only [Bool.and_eq_true, decide_eq_true_eq] at hw
  obtain ⟨⟨h0, h1⟩, h2⟩ := hw
  have c1 := Target.code_lt h1
  have c2 := Target.code_lt h2
  refine ⟨by decide, by omega, by omega, by omega, fun w f24_6 f18_6 f9_9 f0_9 => ?_⟩
  unfold decodeP
  rw [f24_6]
  show decodeSplit w = _
  simp only [decodeSplit, f24_6, f18_6, f9_9, f0_9, h0, Target.ofCode_code h1, Target.ofCode_code h2, require, bind, Except.bind, beq_self_eq_true, if_true, decide_true, decide_eq_true_eq]
  try rfl

theorem pack (off : Nat) (x : Target) (y : Target) : Statement (.pack off x y) := by
  refine p_statement rfl rfl fun hw => ?_
  have hw : (decide (off < 32) && x.wf && y.wf) = true := hw
  simp only [Bool.and_eq_true, decide_eq_true_eq] at hw
  obtain ⟨⟨h0, h1⟩, h2⟩ := hw
  have c1 := Target.code_lt h1
  have c2 := Target.code_lt h2
  refine ⟨by decide, by omega, by omega, by omega, fun w f24_6 f18_6 f9_9 f0_9 => ?_⟩
  have f23_1 : bits w 23 1 = 0 := field_of_field (lo := 18) (k := 5) (n := 6) f18_6 (by decide) (by omega)
  have f18_5 : bits w 18 5 = off := field_of_field (lo := 18) (k := 0) (n := 6) f18_6 (by decide) (by omega)
  unfold decodeP
  rw [f24_6]
  show decodePack w = _
  simp only [decodePack, f24_6, f23_1, f18_5, f9_9, f0_9, h0, Target.ofCode_code h1, Target.ofCode_code h2, require, bind, Except.bind, beq_self_eq_true, if_true, decide_true, decide_eq_true_eq]
  try rfl

theorem unpack (off : Nat) (x : Target) (y : Target) : Statement (.unpack off x y) := by
  refine p_statement rfl rfl fun hw => ?_
  have hw : (decide (off < 32) && x.wf && y.wf) = true := hw
  simp only [Bool.and_eq_true, decide_eq_true_eq] at hw
  obtain ⟨⟨h0, h1⟩, h2⟩ := hw
  have c1 := Target.code_lt h1
  have c2 := Target.code_lt h2
  refine ⟨by decide, by omega, by omega, by omega, fun w f24_6 f18_6 f9_9 f0_9 => ?_⟩
  have f23_1 : bits w 23 1 = 0 := field_of_field (lo := 18) (k := 5) (n := 6) f18_6 (by decide) (by omega)
  have f18_5 : bits w 18 5 = off := field_of_field (lo := 18) (k := 0) (n := 6) f18_6 (by decide) (by omega)
  unfold decodeP
  rw [f24_6]
  show decodeUnpack w = _
  simp only [decodeUnpack, f24_6, f23_1, f18_5, f9_9, f0_9, h0, Target.ofCode_code h1, Target.ofCode_code h2, require, bind, Except.bind, beq_self_eq_true, if_true, decide_true, decide_eq_true_eq]
  try rfl

theorem addP (x : Target) (y : Target) : Statement (.addP x y) := by
  refine p_statement rfl rfl fun hw => ?_
  have hw : (x.wf && y.wf) = true := hw
  simp only [Bool.and_eq_true, decide_eq_true_eq] at hw
  obtain ⟨h0, h1⟩ := hw
  have c0 := Target.code_lt h0
  have c1 := Target.code_lt h1
  refine ⟨by decide, by decide, by omega, by omega, fun w f24_6 f18_6 f9_9 f0_9 => ?_⟩
  unfold decodeP
  rw [f24_6]
  show decodeAddP w = _
  simp only [decodeAddP, f24_6, f18_6, f9_9, f0_9, Target.ofCode_code h0, Target.ofCode_code h1, require, bind, Except.bind, beq_self_eq_true, if_true, decide_true, decide_eq_true_eq]
  try rfl

theorem subP (x : Target) (y : Target) : Statement (.subP x y) := by
  refine p_statement rfl rfl fun hw => ?_
  have hw : (x.wf && y.wf) = true := hw
  simp only [Bool.and_eq_true, decide_eq_true_eq] at hw
  obtain ⟨h0, h1⟩ := hw
  have c0 := Target.code_lt h0
  have c1 := Target.code_lt h1
  refine ⟨by decide, by decide, by omega, by omega, fun w f24_6 f18_6 f9_9 f0_9 => ?_⟩
  unfold decodeP
  rw [f24_6]
  show decodeSubP w = _
  simp only [decodeSubP, f24_6, f18_6, f9_9, f0_9, Target.ofCode_code h0, Target.ofCode_code h1, require, bind, Except.bind, beq_self_eq_true, if_true, decide_true, decide_eq_true_eq]
  try rfl

theorem andP (x : Target) (y : Target) : Statement (.andP x y) := by
  refine p_statement rfl rfl fun hw => ?_
  have hw : (x.wf && y.wf) = true := hw
  simp only [Bool.and_eq_true, decide_eq_true_eq] at hw
  obtain ⟨h0, h1⟩ := hw
  have c0 := Target.code_lt h0
  have c1 := Target.code_lt h1
  refine ⟨by decide, by decide, by omega, by omega, fun w f24_6 f18_6 f9_9 f0_9 => ?_⟩
  unfold decodeP
  rw [f24_6]
  show decodeAndP w = _
  simp only [decodeAndP, f24_6, f18_6, f9_9, f0_9, Target.ofCode_code h0, Target.ofCode_code h1, require, bind, Except.bind, beq_self_eq_true, if_true, decide_true, decide_eq_true_eq]
  try rfl

theorem orP (x : Target) (y : Target) : Statement (.orP x y) := by
  refine p_statement rfl rfl fun hw => ?_
  have hw : (x.wf && y.wf) = true := hw
  simp only [Bool.and_eq_true, decide_eq_true_eq] at hw
  obtain ⟨h0, h1⟩ := hw
  have c0 := Target.code_lt h0
  have c1 := Target.code_lt h1
  refine ⟨by decide, by decide, by omega, by omega, fun w f24_6 f18_6 f9_9 f0_9 => ?_⟩
  unfold decodeP
  rw [f24_6]
  show decodeOrP w = _
  simp only [decodeOrP, f24_6, f18_6, f9_9, f0_9, Target.ofCode_code h0, Target.ofCode_code h1, require, bind, Except.bind, beq_self_eq_true, if_true, decide_true, decide_eq_true_eq]
  try rfl

theorem xorP (x : Target) (y : Target) : Statement (.xorP x y) := by
  refine p_statement rfl rfl fun hw => ?_
  have hw : (x.wf && y.wf) = true := hw
  simp only [Bool.and_eq_true, decide_eq_true_eq] at hw
  obtain ⟨h0, h1⟩ := hw
  have c0 := Target.code_lt h0
  have c1 := Target.code_lt h1
  refine ⟨by decide, by decide, by omega, by omega, fun w f24_6 f18_6 f9_9 f0_9 => ?_⟩
  unfold decodeP
  rw [f24_6]
  show decodeXorP w = _
  simp only [decodeXorP, f24_6, f18_6, f9_9, f0_9, Target.ofCode_code h0, Target.ofCode_code h1, require, bind, Except.bind, beq_self_eq_true, if_true, decide_true, decide_eq_true_eq]
  try rfl

theorem shlP (x : Target) (y : Target) : Statement (.shlP x y) := by
  refine p_statement rfl rfl fun hw => ?_
  have hw : (x.wf && y.wf) = true := hw
  simp only [Bool.and_eq_true, decide_eq_true_eq] at hw
  obtain ⟨h0, h1⟩ := hw
  have c0 := Target.code_lt h0
  have c1 := Target.code_lt h1
  refine ⟨by decide, by decide, by omega, by omega, fun w f24_6 f18_6 f9_9 f0_9 => ?_⟩
  unfold decodeP
  rw [f24_6]
  show decodeShlP w = _
  simp only [decodeShlP, f24_6, f18_6, f9_9, f0_9, Target.ofCode_code h0, Target.ofCode_code h1, require, bind, Except.bind, beq_self_eq_true, if_true, decide_true, decide_eq_true_eq]
  try rfl

theorem shrP (x : Target) (y : Target) : Statement (.shrP x y) := by
  refine p_statement rfl rfl fun hw => ?_
  have hw : (x.wf && y.wf) = true := hw
  simp only [Bool.and_eq_true, decide_eq_true_eq] at hw
  obtain ⟨h0, h1⟩ := hw
  have c0 := Target.code_lt h0
  have c1 := Target.code_lt h1
  refine ⟨by decide, by decide, by omega, by omega, fun w f24_6 f18_6 f9_9 f0_9 => ?_⟩
  unfold decodeP
  rw [f24_6]
  show decodeShrP w = _
  simp only [decodeShrP, f24_6, f18_6, f9_9, f0_9, Target.ofCode_code h0, Target.ofCode_code h1, require, bind, Except.bind, beq_self_eq_true, if_true, decide_true, decide_eq_true_eq]
  try rfl

theorem sraP (x : Target) (y : Target) : Statement (.sraP x y) := by
  refine p_statement rfl rfl fun hw => ?_
  have hw : (x.wf && y.wf) = true := hw
  simp only [Bool.and_eq_true, decide_eq_true_eq] at hw
  obtain ⟨h0, h1⟩ := hw
  have c0 := Target.code_lt h0
  have c1 := Target.code_lt h1
  refine ⟨by decide, by decide, by omega, by omega, fun w f24_6 f18_6 f9_9 f0_9 => ?_⟩
  unfold decodeP
  rw [f24_6]
  show decodeSraP w = _
  simp only [decodeSraP, f24_6, f18_6, f9_9, f0_9, Target.ofCode_code h0, Target.ofCode_code h1, require, bind, Except.bind, beq_self_eq_true, if_true, decide_true, decide_eq_true_eq]
  try rfl

theorem minP (x : Target) (y : Target) : Statement (.minP x y) := by
  refine p_statement rfl rfl fun hw => ?_
  have hw : (x.wf && y.wf) = true := hw
  simp only [Bool.and_eq_true, decide_eq_true_eq] at hw
  obtain ⟨h0, h1⟩ := hw
  have c0 := Target.code_lt h0
  have c1 := Target.code_lt h1
  refine ⟨by decide, by decide, by omega, by omega, fun w f24_6 f18_6 f9_9 f0_9 => ?_⟩
  unfold decodeP
  rw [f24_6]
  show decodeMinP w = _
  simp only [decodeMinP, f24_6, f18_6, f9_9, f0_9, Target.ofCode_code h0, Target.ofCode_code h1, require, bind, Except.bind, beq_self_eq_true, if_true, decide_true, decide_eq_true_eq]
  try rfl

theorem maxP (x : Target) (y : Target) : Statement (.maxP x y) := by
  refine p_statement rfl rfl fun hw => ?_
  have hw : (x.wf && y.wf) = true := hw
  simp only [Bool.and_eq_true, decide_eq_true_eq] at hw
  obtain ⟨h0, h1⟩ := hw
  have c0 := Target.code_lt h0
  have c1 := Target.code_lt h1
  refine ⟨by decide, by decide, by omega, by omega, fun w f24_6 f18_6 f9_9 f0_9 => ?_⟩
  unfold decodeP
  rw [f24_6]
  show decodeMaxP w = _
  simp only [decodeMaxP, f24_6, f18_6, f9_9, f0_9, Target.ofCode_code h0, Target.ofCode_code h1, require, bind, Except.bind, beq_self_eq_true, if_true, decide_true, decide_eq_true_eq]
  try rfl

theorem cmpP (c : Cond) (x : Target) (y : Target) : Statement (.cmpP c x y) := by
  refine p_statement rfl rfl fun hw => ?_
  have hw : (x.wf && y.wf) = true := hw
  simp only [Bool.and_eq_true, decide_eq_true_eq] at hw
  obtain ⟨h0, h1⟩ := hw
  have c0 := Target.code_lt h0
  have c1 := Target.code_lt h1
  have c_c := Cond.code_lt c
  refine ⟨by decide, by omega, by omega, by omega, fun w f24_6 f18_6 f9_9 f0_9 => ?_⟩
  have f18_2 : bits w 18 2 = 0 := field_of_field (lo := 18) (k := 0) (n := 6) f18_6 (by decide) (by omega)
  have f20_4 : bits w 20 4 = c.code := field_of_field (lo := 18) (k := 2) (n := 6) f18_6 (by decide) (by omega)
  unfold decodeP
  rw [f24_6]
  show decodeCmpP w = _
  simp only [decodeCmpP, f24_6, f18_2, f20_4, f9_9, f0_9, Target.ofCode_code h0, Target.ofCode_code h1, Cond.ofCode_code, require, bind, Except.bind, beq_self_eq_true, if_true, decide_true, decide_eq_true_eq]
  try rfl

theorem faddP (r : Rnd) (x : Target) (y : Target) : Statement (.faddP r x y) := by
  refine p_statement rfl rfl fun hw => ?_
  have hw : (x.wf && y.wf) = true := hw
  simp only [Bool.and_eq_true, decide_eq_true_eq] at hw
  obtain ⟨h0, h1⟩ := hw
  have c0 := Target.code_lt h0
  have c1 := Target.code_lt h1
  have c_r := Rnd.code_lt r
  refine ⟨by decide, by omega, by omega, by omega, fun w f24_6 f18_6 f9_9 f0_9 => ?_⟩
  have f21_3 : bits w 21 3 = 0 := field_of_field (lo := 18) (k := 3) (n := 6) f18_6 (by decide) (by omega)
  have f18_3 : bits w 18 3 = r.code := field_of_field (lo := 18) (k := 0) (n := 6) f18_6 (by decide) (by omega)
  unfold decodeP
  rw [f24_6]
  show decodeFaddP w = _
  simp only [decodeFaddP, f24_6, f21_3, f18_3, f9_9, f0_9, Target.ofCode_code h0, Target.ofCode_code h1, Rnd.ofCode_code, require, bind, Except.bind, beq_self_eq_true, if_true, decide_true, decide_eq_true_eq]
  try rfl

theorem fsubP (r : Rnd) (x : Target) (y : Target) : Statement (.fsubP r x y) := by
  refine p_statement rfl rfl fun hw => ?_
  have hw : (x.wf && y.wf) = true := hw
  simp only [Bool.and_eq_true, decide_eq_true_eq] at hw
  obtain ⟨h0, h1⟩ := hw
  have c0 := Target.code_lt h0
  have c1 := Target.code_lt h1
  have c_r := Rnd.code_lt r
  refine ⟨by decide, by omega, by omega, by omega, fun w f24_6 f18_6 f9_9 f0_9 => ?_⟩
  have f21_3 : bits w 21 3 = 0 := field_of_field (lo := 18) (k := 3) (n := 6) f18_6 (by decide) (by omega)
  have f18_3 : bits w 18 3 = r.code := field_of_field (lo := 18) (k := 0) (n := 6) f18_6 (by decide) (by omega)
  unfold decodeP
  rw [f24_6]
  show decodeFsubP w = _
  simp only [decodeFsubP, f24_6, f21_3, f18_3, f9_9, f0_9, Target.ofCode_code h0, Target.ofCode_code h1, Rnd.ofCode_code, require, bind, Except.bind, beq_self_eq_true, if_true, decide_true, decide_eq_true_eq]
  try rfl

theorem fmulP (r : Rnd) (x : Target) (y : Target) : Statement (.fmulP r x y) := by
  refine p_statement rfl rfl fun hw => ?_
  have hw : (x.wf && y.wf) = true := hw
  simp only [Bool.and_eq_true, decide_eq_true_eq] at hw
  obtain ⟨h0, h1⟩ := hw
  have c0 := Target.code_lt h0
  have c1 := Target.code_lt h1
  have c_r := Rnd.code_lt r
  refine ⟨by decide, by omega, by omega, by omega, fun w f24_6 f18_6 f9_9 f0_9 => ?_⟩
  have f21_3 : bits w 21 3 = 0 := field_of_field (lo := 18) (k := 3) (n := 6) f18_6 (by decide) (by omega)
  have f18_3 : bits w 18 3 = r.code := field_of_field (lo := 18) (k := 0) (n := 6) f18_6 (by decide) (by omega)
  unfold decodeP
  rw [f24_6]
  show decodeFmulP w = _
  simp only [decodeFmulP, f24_6, f21_3, f18_3, f9_9, f0_9, Target.ofCode_code h0, Target.ofCode_code h1, Rnd.ofCode_code, require, bind, Except.bind, beq_self_eq_true, if_true, decide_true, decide_eq_true_eq]
  try rfl

theorem fminP (x : Target) (y : Target) : Statement (.fminP x y) := by
  refine p_statement rfl rfl fun hw => ?_
  have hw : (x.wf && y.wf) = true := hw
  simp only [Bool.and_eq_true, decide_eq_true_eq] at hw
  obtain ⟨h0, h1⟩ := hw
  have c0 := Target.code_lt h0
  have c1 := Target.code_lt h1
  refine ⟨by decide, by decide, by omega, by omega, fun w f24_6 f18_6 f9_9 f0_9 => ?_⟩
  unfold decodeP
  rw [f24_6]
  show decodeFminP w = _
  simp only [decodeFminP, f24_6, f18_6, f9_9, f0_9, Target.ofCode_code h0, Target.ofCode_code h1, require, bind, Except.bind, beq_self_eq_true, if_true, decide_true, decide_eq_true_eq]
  try rfl

theorem fmaxP (x : Target) (y : Target) : Statement (.fmaxP x y) := by
  refine p_statement rfl rfl fun hw => ?_
  have hw : (x.wf && y.wf) = true := hw
  simp only [Bool.and_eq_true, decide_eq_true_eq] at hw
  obtain ⟨h0, h1⟩ := hw
  have c0 := Target.code_lt h0
  have c1 := Target.code_lt h1
  refine ⟨by decide, by decide, by omega, by omega, fun w f24_6 f18_6 f9_9 f0_9 => ?_⟩
  unfold decodeP
  rw [f24_6]
  show decodeFmaxP w = _
  simp only [decodeFmaxP, f24_6, f18_6, f9_9, f0_9, Target.ofCode_code h0, Target.ofCode_code h1, require, bind, Except.bind, beq_self_eq_true, if_true, decide_true, decide_eq_true_eq]
  try rfl

theorem fcmpP (c : FCond) (x : Target) (y : Target) : Statement (.fcmpP c x y) := by
  refine p_statement rfl rfl fun hw => ?_
  have hw : (x.wf && y.wf) = true := hw
  simp only [Bool.and_eq_true, decide_eq_true_eq] at hw
  obtain ⟨h0, h1⟩ := hw
  have c0 := Target.code_lt h0
  have c1 := Target.code_lt h1
  have c_c := FCond.code_lt c
  refine ⟨by decide, by omega, by omega, by omega, fun w f24_6 f18_6 f9_9 f0_9 => ?_⟩
  have f21_3 : bits w 21 3 = 0 := field_of_field (lo := 18) (k := 3) (n := 6) f18_6 (by decide) (by omega)
  have f18_3 : bits w 18 3 = c.code := field_of_field (lo := 18) (k := 0) (n := 6) f18_6 (by decide) (by omega)
  unfold decodeP
  rw [f24_6]
  show decodeFcmpP w = _
  simp only [decodeFcmpP, f24_6, f21_3, f18_3, f9_9, f0_9, Target.ofCode_code h0, Target.ofCode_code h1, FCond.ofCode_code, require, bind, Except.bind, beq_self_eq_true, if_true, decide_true, decide_eq_true_eq]
  try rfl

theorem add (a : Src) (b : Src) (t : Target) : Statement (.add a b t) := by
  refine s_statement rfl rfl fun hw => ?_
  have hw : (a.wf && b.wf && t.wf) = true := hw
  simp only [Bool.and_eq_true, decide_eq_true_eq] at hw
  obtain ⟨⟨h0, h1⟩, h2⟩ := hw
  have c0 := Src.code_lt h0
  have c1 := Src.code_lt h1
  have c2 := Target.code_lt h2
  refine ⟨by decide, by omega, by omega, by decide, by omega, fun w f24_6 f20_4 f16_4 f9_7 f0_9 => ?_⟩
  unfold decodeS
  rw [f24_6]
  show decodeAdd w = _
  simp only [decodeAdd, f24_6, f9_7, f20_4, f16_4, f0_9, Src.ofCode_code h0, Src.ofCode_code h1, Target.ofCode_code h2, require, bind, Except.bind, beq_self_eq_true, if_true, decide_true, decide_eq_true_eq]
  try rfl

theorem sub (a : Src) (b : Src) (t : Target) : Statement (.sub a b t) := by
  refine s_statement rfl rfl fun hw => ?_
  have hw : (a.wf && b.wf && t.wf) = true := hw
  simp only [Bool.and_eq_true, decide_eq_true_eq] at hw
  obtain ⟨⟨h0, h1⟩, h2⟩ := hw
  have c0 := Src.code_lt h0
  have c1 := Src.code_lt h1
  have c2 := Target.code_lt h2
  refine ⟨by decide, by omega, by omega, by decide, by omega, fun w f24_6 f20_4 f16_4 f9_7 f0_9 => ?_⟩
  unfold decodeS
  rw [f24_6]
  show decodeSub w = _
  simp only [decodeSub, f24_6, f9_7, f20_4, f16_4, f0_9, Src.ofCode_code h0, Src.ofCode_code h1, Target.ofCode_code h2, require, bind, Except.bind, beq_self_eq_true, if_true, decide_true, decide_eq_true_eq]
  try rfl

theorem mul (a : Src) (b : Src) (t : Target) : Statement (.mul a b t) := by
  refine s_statement rfl rfl fun hw => ?_
  have hw : (a.wf && b.wf && t.wf) = true := hw
  simp only [Bool.and_eq_true, decide_eq_true_eq] at hw
  obtain ⟨⟨h0, h1⟩, h2⟩ := hw
  have c0 := Src.code_lt h0
  have c1 := Src.code_lt h1
  have c2 := Target.code_lt h2
  refine ⟨by decide, by omega, by omega, by decide, by omega, fun w f24_6 f20_4 f16_4 f9_7 f0_9 => ?_⟩
  unfold decodeS
  rw [f24_6]
  show decodeMul w = _
  simp only [decodeMul, f24_6, f9_7, f20_4, f16_4, f0_9, Src.ofCode_code h0, Src.ofCode_code h1, Target.ofCode_code h2, require, bind, Except.bind, beq_self_eq_true, if_true, decide_true, decide_eq_true_eq]
  try rfl

theorem mulh (a : Src) (b : Src) (t : Target) : Statement (.mulh a b t) := by
  refine s_statement rfl rfl fun hw => ?_
  have hw : (a.wf && b.wf && t.wf) = true := hw
  simp only [Bool.and_eq_true, decide_eq_true_eq] at hw
  obtain ⟨⟨h0, h1⟩, h2⟩ := hw
  have c0 := Src.code_lt h0
  have c1 := Src.code_lt h1
  have c2 := Target.code_lt h2
  refine ⟨by decide, by omega, by omega, by decide, by omega, fun w f24_6 f20_4 f16_4 f9_7 f0_9 => ?_⟩
  unfold decodeS
  rw [f24_6]
  show decodeMulh w = _
  simp only [decodeMulh, f24_6, f9_7, f20_4, f16_4, f0_9, Src.ofCode_code h0, Src.ofCode_code h1, Target.ofCode_code h2, require, bind, Except.bind, beq_self_eq_true, if_true, decide_true, decide_eq_true_eq]
  try rfl

theorem mulhu (a : Src) (b : Src) (t : Target) : Statement (.mulhu a b t) := by
  refine s_statement rfl rfl fun hw => ?_
  have hw : (a.wf && b.wf && t.wf) = true := hw
  simp only [Bool.and_eq_true, decide_eq_true_eq] at hw
  obtain ⟨⟨h0, h1⟩, h2⟩ := hw
  have c0 := Src.code_lt h0
  have c1 := Src.code_lt h1
  have c2 := Target.code_lt h2
  refine ⟨by decide, by omega, by omega, by decide, by omega, fun w f24_6 f20_4 f16_4 f9_7 f0_9 => ?_⟩
  unfold decodeS
  rw [f24_6]
  show decodeMulhu w = _
  simp only [decodeMulhu, f24_6, f9_7, f20_4, f16_4, f0_9, Src.ofCode_code h0, Src.ofCode_code h1, Target.ofCode_code h2, require, bind, Except.bind, beq_self_eq_true, if_true, decide_true, decide_eq_true_eq]
  try rfl

theorem div (a : Src) (b : Src) (t : Target) : Statement (.div a b t) := by
  refine s_statement rfl rfl fun hw => ?_
  have hw : (a.wf && b.wf && t.wf) = true := hw
  simp only [Bool.and_eq_true, decide_eq_true_eq] at hw
  obtain ⟨⟨h0, h1⟩, h2⟩ := hw
  have c0 := Src.code_lt h0
  have c1 := Src.code_lt h1
  have c2 := Target.code_lt h2
  refine ⟨by decide, by omega, by omega, by decide, by omega, fun w f24_6 f20_4 f16_4 f9_7 f0_9 => ?_⟩
  unfold decodeS
  rw [f24_6]
  show decodeDiv w = _
  simp only [decodeDiv, f24_6, f9_7, f20_4, f16_4, f0_9, Src.ofCode_code h0, Src.ofCode_code h1, Target.ofCode_code h2, require, bind, Except.bind, beq_self_eq_true, if_true, decide_true, decide_eq_true_eq]
  try rfl

theorem divu (a : Src) (b : Src) (t : Target) : Statement (.divu a b t) := by
  refine s_statement rfl rfl fun hw => ?_
  have hw : (a.wf && b.wf && t.wf) = true := hw
  simp only [Bool.and_eq_true, decide_eq_true_eq] at hw
  obtain ⟨⟨h0, h1⟩, h2⟩ := hw
  have c0 := Src.code_lt h0
  have c1 := Src.code_lt h1
  have c2 := Target.code_lt h2
  refine ⟨by decide, by omega, by omega, by decide, by omega, fun w f24_6 f20_4 f16_4 f9_7 f0_9 => ?_⟩
  unfold decodeS
  rw [f24_6]
  show decodeDivu w = _
  simp only [decodeDivu, f24_6, f9_7, f20_4, f16_4, f0_9, Src.ofCode_code h0, Src.ofCode_code h1, Target.ofCode_code h2, require, bind, Except.bind, beq_self_eq_true, if_true, decide_true, decide_eq_true_eq]
  try rfl

theorem rem (a : Src) (b : Src) (t : Target) : Statement (.rem a b t) := by
  refine s_statement rfl rfl fun hw => ?_
  have hw : (a.wf && b.wf && t.wf) = true := hw
  simp only [Bool.and_eq_true, decide_eq_true_eq] at hw
  obtain ⟨⟨h0, h1⟩, h2⟩ := hw
  have c0 := Src.code_lt h0
  have c1 := Src.code_lt h1
  have c2 := Target.code_lt h2
  refine ⟨by decide, by omega, by omega, by decide, by omega, fun w f24_6 f20_4 f16_4 f9_7 f0_9 => ?_⟩
  unfold decodeS
  rw [f24_6]
  show decodeRem w = _
  simp only [decodeRem, f24_6, f9_7, f20_4, f16_4, f0_9, Src.ofCode_code h0, Src.ofCode_code h1, Target.ofCode_code h2, require, bind, Except.bind, beq_self_eq_true, if_true, decide_true, decide_eq_true_eq]
  try rfl

theorem remu (a : Src) (b : Src) (t : Target) : Statement (.remu a b t) := by
  refine s_statement rfl rfl fun hw => ?_
  have hw : (a.wf && b.wf && t.wf) = true := hw
  simp only [Bool.and_eq_true, decide_eq_true_eq] at hw
  obtain ⟨⟨h0, h1⟩, h2⟩ := hw
  have c0 := Src.code_lt h0
  have c1 := Src.code_lt h1
  have c2 := Target.code_lt h2
  refine ⟨by decide, by omega, by omega, by decide, by omega, fun w f24_6 f20_4 f16_4 f9_7 f0_9 => ?_⟩
  unfold decodeS
  rw [f24_6]
  show decodeRemu w = _
  simp only [decodeRemu, f24_6, f9_7, f20_4, f16_4, f0_9, Src.ofCode_code h0, Src.ofCode_code h1, Target.ofCode_code h2, require, bind, Except.bind, beq_self_eq_true, if_true, decide_true, decide_eq_true_eq]
  try rfl

theorem and (a : Src) (b : Src) (t : Target) : Statement (.and a b t) := by
  refine s_statement rfl rfl fun hw => ?_
  have hw : (a.wf && b.wf && t.wf) = true := hw
  simp only [Bool.and_eq_true, decide_eq_true_eq] at hw
  obtain ⟨⟨h0, h1⟩, h2⟩ := hw
  have c0 := Src.code_lt h0
  have c1 := Src.code_lt h1
  have c2 := Target.code_lt h2
  refine ⟨by decide, by omega, by omega, by decide, by omega, fun w f24_6 f20_4 f16_4 f9_7 f0_9 => ?_⟩
  unfold decodeS
  rw [f24_6]
  show decodeAnd w = _
  simp only [decodeAnd, f24_6, f9_7, f20_4, f16_4, f0_9, Src.ofCode_code h0, Src.ofCode_code h1, Target.ofCode_code h2, require, bind, Except.bind, beq_self_eq_true, if_true, decide_true, decide_eq_true_eq]
  try rfl

theorem or (a : Src) (b : Src) (t : Target) : Statement (.or a b t) := by
  refine s_statement rfl rfl fun hw => ?_
  have hw : (a.wf && b.wf && t.wf) = true := hw
  simp only [Bool.and_eq_true, decide_eq_true_eq] at hw
  obtain ⟨⟨h0, h1⟩, h2⟩ := hw
  have c0 := Src.code_lt h0
  have c1 := Src.code_lt h1
  have c2 := Target.code_lt h2
  refine ⟨by decide, by omega, by omega, by decide, by omega, fun w f24_6 f20_4 f16_4 f9_7 f0_9 => ?_⟩
  unfold decodeS
  rw [f24_6]
  show decodeOr w = _
  simp only [decodeOr, f24_6, f9_7, f20_4, f16_4, f0_9, Src.ofCode_code h0, Src.ofCode_code h1, Target.ofCode_code h2, require, bind, Except.bind, beq_self_eq_true, if_true, decide_true, decide_eq_true_eq]
  try rfl

theorem xor (a : Src) (b : Src) (t : Target) : Statement (.xor a b t) := by
  refine s_statement rfl rfl fun hw => ?_
  have hw : (a.wf && b.wf && t.wf) = true := hw
  simp only [Bool.and_eq_true, decide_eq_true_eq] at hw
  obtain ⟨⟨h0, h1⟩, h2⟩ := hw
  have c0 := Src.code_lt h0
  have c1 := Src.code_lt h1
  have c2 := Target.code_lt h2
  refine ⟨by decide, by omega, by omega, by decide, by omega, fun w f24_6 f20_4 f16_4 f9_7 f0_9 => ?_⟩
  unfold decodeS
  rw [f24_6]
  show decodeXor w = _
  simp only [decodeXor, f24_6, f9_7, f20_4, f16_4, f0_9, Src.ofCode_code h0, Src.ofCode_code h1, Target.ofCode_code h2, require, bind, Except.bind, beq_self_eq_true, if_true, decide_true, decide_eq_true_eq]
  try rfl

theorem andn (a : Src) (b : Src) (t : Target) : Statement (.andn a b t) := by
  refine s_statement rfl rfl fun hw => ?_
  have hw : (a.wf && b.wf && t.wf) = true := hw
  simp only [Bool.and_eq_true, decide_eq_true_eq] at hw
  obtain ⟨⟨h0, h1⟩, h2⟩ := hw
  have c0 := Src.code_lt h0
  have c1 := Src.code_lt h1
  have c2 := Target.code_lt h2
  refine ⟨by decide, by omega, by omega, by decide, by omega, fun w f24_6 f20_4 f16_4 f9_7 f0_9 => ?_⟩
  unfold decodeS
  rw [f24_6]
  show decodeAndn w = _
  simp only [decodeAndn, f24_6, f9_7, f20_4, f16_4, f0_9, Src.ofCode_code h0, Src.ofCode_code h1, Target.ofCode_code h2, require, bind, Except.bind, beq_self_eq_true, if_true, decide_true, decide_eq_true_eq]
  try rfl

theorem shl (a : Src) (b : Src) (t : Target) : Statement (.shl a b t) := by
  refine s_statement rfl rfl fun hw => ?_
  have hw : (a.wf && b.wf && t.wf) = true := hw
  simp only [Bool.and_eq_true, decide_eq_true_eq] at hw
  obtain ⟨⟨h0, h1⟩, h2⟩ := hw
  have c0 := Src.code_lt h0
  have c1 := Src.code_lt h1
  have c2 := Target.code_lt h2
  refine ⟨by decide, by omega, by omega, by decide, by omega, fun w f24_6 f20_4 f16_4 f9_7 f0_9 => ?_⟩
  unfold decodeS
  rw [f24_6]
  show decodeShl w = _
  simp only [decodeShl, f24_6, f9_7, f20_4, f16_4, f0_9, Src.ofCode_code h0, Src.ofCode_code h1, Target.ofCode_code h2, require, bind, Except.bind, beq_self_eq_true, if_true, decide_true, decide_eq_true_eq]
  try rfl

theorem shr (a : Src) (b : Src) (t : Target) : Statement (.shr a b t) := by
  refine s_statement rfl rfl fun hw => ?_
  have hw : (a.wf && b.wf && t.wf) = true := hw
  simp only [Bool.and_eq_true, decide_eq_true_eq] at hw
  obtain ⟨⟨h0, h1⟩, h2⟩ := hw
  have c0 := Src.code_lt h0
  have c1 := Src.code_lt h1
  have c2 := Target.code_lt h2
  refine ⟨by decide, by omega, by omega, by decide, by omega, fun w f24_6 f20_4 f16_4 f9_7 f0_9 => ?_⟩
  unfold decodeS
  rw [f24_6]
  show decodeShr w = _
  simp only [decodeShr, f24_6, f9_7, f20_4, f16_4, f0_9, Src.ofCode_code h0, Src.ofCode_code h1, Target.ofCode_code h2, require, bind, Except.bind, beq_self_eq_true, if_true, decide_true, decide_eq_true_eq]
  try rfl

theorem sra (a : Src) (b : Src) (t : Target) : Statement (.sra a b t) := by
  refine s_statement rfl rfl fun hw => ?_
  have hw : (a.wf && b.wf && t.wf) = true := hw
  simp only [Bool.and_eq_true, decide_eq_true_eq] at hw
  obtain ⟨⟨h0, h1⟩, h2⟩ := hw
  have c0 := Src.code_lt h0
  have c1 := Src.code_lt h1
  have c2 := Target.code_lt h2
  refine ⟨by decide, by omega, by omega, by decide, by omega, fun w f24_6 f20_4 f16_4 f9_7 f0_9 => ?_⟩
  unfold decodeS
  rw [f24_6]
  show decodeSra w = _
  simp only [decodeSra, f24_6, f9_7, f20_4, f16_4, f0_9, Src.ofCode_code h0, Src.ofCode_code h1, Target.ofCode_code h2, require, bind, Except.bind, beq_self_eq_true, if_true, decide_true, decide_eq_true_eq]
  try rfl

theorem rot (a : Src) (b : Src) (t : Target) : Statement (.rot a b t) := by
  refine s_statement rfl rfl fun hw => ?_
  have hw : (a.wf && b.wf && t.wf) = true := hw
  simp only [Bool.and_eq_true, decide_eq_true_eq] at hw
  obtain ⟨⟨h0, h1⟩, h2⟩ := hw
  have c0 := Src.code_lt h0
  have c1 := Src.code_lt h1
  have c2 := Target.code_lt h2
  refine ⟨by decide, by omega, by omega, by decide, by omega, fun w f24_6 f20_4 f16_4 f9_7 f0_9 => ?_⟩
  unfold decodeS
  rw [f24_6]
  show decodeRot w = _
  simp only [decodeRot, f24_6, f9_7, f20_4, f16_4, f0_9, Src.ofCode_code h0, Src.ofCode_code h1, Target.ofCode_code h2, require, bind, Except.bind, beq_self_eq_true, if_true, decide_true, decide_eq_true_eq]
  try rfl

theorem min (a : Src) (b : Src) (t : Target) : Statement (.min a b t) := by
  refine s_statement rfl rfl fun hw => ?_
  have hw : (a.wf && b.wf && t.wf) = true := hw
  simp only [Bool.and_eq_true, decide_eq_true_eq] at hw
  obtain ⟨⟨h0, h1⟩, h2⟩ := hw
  have c0 := Src.code_lt h0
  have c1 := Src.code_lt h1
  have c2 := Target.code_lt h2
  refine ⟨by decide, by omega, by omega, by decide, by omega, fun w f24_6 f20_4 f16_4 f9_7 f0_9 => ?_⟩
  unfold decodeS
  rw [f24_6]
  show decodeMin w = _
  simp only [decodeMin, f24_6, f9_7, f20_4, f16_4, f0_9, Src.ofCode_code h0, Src.ofCode_code h1, Target.ofCode_code h2, require, bind, Except.bind, beq_self_eq_true, if_true, decide_true, decide_eq_true_eq]
  try rfl

theorem max (a : Src) (b : Src) (t : Target) : Statement (.max a b t) := by
  refine s_statement rfl rfl fun hw => ?_
  have hw : (a.wf && b.wf && t.wf) = true := hw
  simp only [Bool.and_eq_true, decide_eq_true_eq] at hw
  obtain ⟨⟨h0, h1⟩, h2⟩ := hw
  have c0 := Src.code_lt h0
  have c1 := Src.code_lt h1
  have c2 := Target.code_lt h2
  refine ⟨by decide, by omega, by omega, by decide, by omega, fun w f24_6 f20_4 f16_4 f9_7 f0_9 => ?_⟩
  unfold decodeS
  rw [f24_6]
  show decodeMax w = _
  simp only [decodeMax, f24_6, f9_7, f20_4, f16_4, f0_9, Src.ofCode_code h0, Src.ofCode_code h1, Target.ofCode_code h2, require, bind, Except.bind, beq_self_eq_true, if_true, decide_true, decide_eq_true_eq]
  try rfl

theorem minu (a : Src) (b : Src) (t : Target) : Statement (.minu a b t) := by
  refine s_statement rfl rfl fun hw => ?_
  have hw : (a.wf && b.wf && t.wf) = true := hw
  simp only [Bool.and_eq_true, decide_eq_true_eq] at hw
  obtain ⟨⟨h0, h1⟩, h2⟩ := hw
  have c0 := Src.code_lt h0
  have c1 := Src.code_lt h1
  have c2 := Target.code_lt h2
  refine ⟨by decide, by omega, by omega, by decide, by omega, fun w f24_6 f20_4 f16_4 f9_7 f0_9 => ?_⟩
  unfold decodeS
  rw [f24_6]
  show decodeMinu w = _
  simp only [decodeMinu, f24_6, f9_7, f20_4, f16_4, f0_9, Src.ofCode_code h0, Src.ofCode_code h1, Target.ofCode_code h2, require, bind, Except.bind, beq_self_eq_true, if_true, decide_true, decide_eq_true_eq]
  try rfl

theorem maxu (a : Src) (b : Src) (t : Target) : Statement (.maxu a b t) := by
  refine s_statement rfl rfl fun hw => ?_
  have hw : (a.wf && b.wf && t.wf) = true := hw
  simp only [Bool.and_eq_true, decide_eq_true_eq] at hw
  obtain ⟨⟨h0, h1⟩, h2⟩ := hw
  have c0 := Src.code_lt h0
  have c1 := Src.code_lt h1
  have c2 := Target.code_lt h2
  refine ⟨by decide, by omega, by omega, by decide, by omega, fun w f24_6 f20_4 f16_4 f9_7 f0_9 => ?_⟩
  unfold decodeS
  rw [f24_6]
  show decodeMaxu w = _
  simp only [decodeMaxu, f24_6, f9_7, f20_4, f16_4, f0_9, Src.ofCode_code h0, Src.ofCode_code h1, Target.ofCode_code h2, require, bind, Except.bind, beq_self_eq_true, if_true, decide_true, decide_eq_true_eq]
  try rfl

theorem abs (a : Src) (t : Target) : Statement (.abs a t) := by
  refine s_statement rfl rfl fun hw => ?_
  have hw : (a.wf && t.wf) = true := hw
  simp only [Bool.and_eq_true, decide_eq_true_eq] at hw
  obtain ⟨h0, h1⟩ := hw
  have c0 := Src.code_lt h0
  have c1 := Target.code_lt h1
  refine ⟨by decide, by omega, by decide, by decide, by omega, fun w f24_6 f20_4 f16_4 f9_7 f0_9 => ?_⟩
  unfold decodeS
  rw [f24_6]
  show decodeAbs w = _
  simp only [decodeAbs, f24_6, f16_4, f9_7, f20_4, f0_9, Src.ofCode_code h0, Target.ofCode_code h1, require, bind, Except.bind, beq_self_eq_true, if_true, decide_true, decide_eq_true_eq]
  try rfl

theorem clz (a : Src) (t : Target) : Statement (.clz a t) := by
  refine s_statement rfl rfl fun hw => ?_
  have hw : (a.wf && t.wf) = true := hw
  simp only [Bool.and_eq_true, decide_eq_true_eq] at hw
  obtain ⟨h0, h1⟩ := hw
  have c0 := Src.code_lt h0
  have c1 := Target.code_lt h1
  refine ⟨by decide, by omega, by decide, by decide, by omega, fun w f24_6 f20_4 f16_4 f9_7 f0_9 => ?_⟩
  have f14_2 : bits w 14 2 = 0 := field_of_field (lo := 9) (k := 5) (n := 7) f9_7 (by decide) (by omega)
  unfold decodeS
  rw [f24_6]
  show decodeGroupS16 w = _
  unfold decodeGroupS16
  rw [f14_2]
  show decodeClz w = _
  simp only [decodeClz, f24_6, f14_2, f16_4, f9_7, f20_4, f0_9, Src.ofCode_code h0, Target.ofCode_code h1, require, bind, Except.bind, beq_self_eq_true, if_true, decide_true, decide_eq_true_eq]
  try rfl

theorem ctz (a : Src) (t : Target) : Statement (.ctz a t) := by
  refine s_statement rfl rfl fun hw => ?_
  have hw : (a.wf && t.wf) = true := hw
  simp only [Bool.and_eq_true, decide_eq_true_eq] at hw
  obtain ⟨h0, h1⟩ := hw
  have c0 := Src.code_lt h0
  have c1 := Target.code_lt h1
  refine ⟨by decide, by omega, by decide, by decide, by omega, fun w f24_6 f20_4 f16_4 f9_7 f0_9 => ?_⟩
  have f14_2 : bits w 14 2 = 1 := field_of_field (lo := 9) (k := 5) (n := 7) f9_7 (by decide) (by omega)
  unfold decodeS
  rw [f24_6]
  show decodeGroupS16 w = _
  unfold decodeGroupS16
  rw [f14_2]
  show decodeCtz w = _
  simp only [decodeCtz, f24_6, f14_2, f16_4, f9_7, f20_4, f0_9, Src.ofCode_code h0, Target.ofCode_code h1, require, bind, Except.bind, beq_self_eq_true, if_true, decide_true, decide_eq_true_eq]
  try rfl

theorem popc (a : Src) (t : Target) : Statement (.popc a t) := by
  refine s_statement rfl rfl fun hw => ?_
  have hw : (a.wf && t.wf) = true := hw
  simp only [Bool.and_eq_true, decide_eq_true_eq] at hw
  obtain ⟨h0, h1⟩ := hw
  have c0 := Src.code_lt h0
  have c1 := Target.code_lt h1
  refine ⟨by decide, by omega, by decide, by decide, by omega, fun w f24_6 f20_4 f16_4 f9_7 f0_9 => ?_⟩
  have f14_2 : bits w 14 2 = 2 := field_of_field (lo := 9) (k := 5) (n := 7) f9_7 (by decide) (by omega)
  unfold decodeS
  rw [f24_6]
  show decodeGroupS16 w = _
  unfold decodeGroupS16
  rw [f14_2]
  show decodePopc w = _
  simp only [decodePopc, f24_6, f14_2, f16_4, f9_7, f20_4, f0_9, Src.ofCode_code h0, Target.ofCode_code h1, require, bind, Except.bind, beq_self_eq_true, if_true, decide_true, decide_eq_true_eq]
  try rfl

theorem brev (a : Src) (t : Target) : Statement (.brev a t) := by
  refine s_statement rfl rfl fun hw => ?_
  have hw : (a.wf && t.wf) = true := hw
  simp only [Bool.and_eq_true, decide_eq_true_eq] at hw
  obtain ⟨h0, h1⟩ := hw
  have c0 := Src.code_lt h0
  have c1 := Target.code_lt h1
  refine ⟨by decide, by omega, by decide, by decide, by omega, fun w f24_6 f20_4 f16_4 f9_7 f0_9 => ?_⟩
  have f14_2 : bits w 14 2 = 3 := field_of_field (lo := 9) (k := 5) (n := 7) f9_7 (by decide) (by omega)
  unfold decodeS
  rw [f24_6]
  show decodeGroupS16 w = _
  unfold decodeGroupS16
  rw [f14_2]
  show decodeBrev w = _
  simp only [decodeBrev, f24_6, f14_2, f16_4, f9_7, f20_4, f0_9, Src.ofCode_code h0, Target.ofCode_code h1, require, bind, Except.bind, beq_self_eq_true, if_true, decide_true, decide_eq_true_eq]
  try rfl

theorem sxb (a : Src) (t : Target) : Statement (.sxb a t) := by
  refine s_statement rfl rfl fun hw => ?_
  have hw : (a.wf && t.wf) = true := hw
  simp only [Bool.and_eq_true, decide_eq_true_eq] at hw
  obtain ⟨h0, h1⟩ := hw
  have c0 := Src.code_lt h0
  have c1 := Target.code_lt h1
  refine ⟨by decide, by omega, by decide, by decide, by omega, fun w f24_6 f20_4 f16_4 f9_7 f0_9 => ?_⟩
  have f13_3 : bits w 13 3 = 4 := field_of_field (lo := 9) (k := 4) (n := 7) f9_7 (by decide) (by omega)
  unfold decodeS
  rw [f24_6]
  show decodeGroupS17 w = _
  unfold decodeGroupS17
  rw [f13_3]
  show decodeSxb w = _
  simp only [decodeSxb, f24_6, f13_3, f16_4, f9_7, f20_4, f0_9, Src.ofCode_code h0, Target.ofCode_code h1, require, bind, Except.bind, beq_self_eq_true, if_true, decide_true, decide_eq_true_eq]
  try rfl

theorem sxh (a : Src) (t : Target) : Statement (.sxh a t) := by
  refine s_statement rfl rfl fun hw => ?_
  have hw : (a.wf && t.wf) = true := hw
  simp only [Bool.and_eq_true, decide_eq_true_eq] at hw
  obtain ⟨h0, h1⟩ := hw
  have c0 := Src.code_lt h0
  have c1 := Target.code_lt h1
  refine ⟨by decide, by omega, by decide, by decide, by omega, fun w f24_6 f20_4 f16_4 f9_7 f0_9 => ?_⟩
  have f13_3 : bits w 13 3 = 5 := field_of_field (lo := 9) (k := 4) (n := 7) f9_7 (by decide) (by omega)
  unfold decodeS
  rw [f24_6]
  show decodeGroupS17 w = _
  unfold decodeGroupS17
  rw [f13_3]
  show decodeSxh w = _
  simp only [decodeSxh, f24_6, f13_3, f16_4, f9_7, f20_4, f0_9, Src.ofCode_code h0, Target.ofCode_code h1, require, bind, Except.bind, beq_self_eq_true, if_true, decide_true, decide_eq_true_eq]
  try rfl

theorem sx4 (a : Src) (t : Target) : Statement (.sx4 a t) := by
  refine s_statement rfl rfl fun hw => ?_
  have hw : (a.wf && t.wf) = true := hw
  simp only [Bool.and_eq_true, decide_eq_true_eq] at hw
  obtain ⟨h0, h1⟩ := hw
  have c0 := Src.code_lt h0
  have c1 := Target.code_lt h1
  refine ⟨by decide, by omega, by decide, by decide, by omega, fun w f24_6 f20_4 f16_4 f9_7 f0_9 => ?_⟩
  have f13_3 : bits w 13 3 = 6 := field_of_field (lo := 9) (k := 4) (n := 7) f9_7 (by decide) (by omega)
  unfold decodeS
  rw [f24_6]
  show decodeGroupS17 w = _
  unfold decodeGroupS17
  rw [f13_3]
  show decodeSx4 w = _
  simp only [decodeSx4, f24_6, f13_3, f16_4, f9_7, f20_4, f0_9, Src.ofCode_code h0, Target.ofCode_code h1, require, bind, Except.bind, beq_self_eq_true, if_true, decide_true, decide_eq_true_eq]
  try rfl

theorem zxb (a : Src) (t : Target) : Statement (.zxb a t) := by
  refine s_statement rfl rfl fun hw => ?_
  have hw : (a.wf && t.wf) = true := hw
  simp only [Bool.and_eq_true, decide_eq_true_eq] at hw
  obtain ⟨h0, h1⟩ := hw
  have c0 := Src.code_lt h0
  have c1 := Target.code_lt h1
  refine ⟨by decide, by omega, by decide, by decide, by omega, fun w f24_6 f20_4 f16_4 f9_7 f0_9 => ?_⟩
  have f13_3 : bits w 13 3 = 0 := field_of_field (lo := 9) (k := 4) (n := 7) f9_7 (by decide) (by omega)
  unfold decodeS
  rw [f24_6]
  show decodeGroupS17 w = _
  unfold decodeGroupS17
  rw [f13_3]
  show decodeZxb w = _
  simp only [decodeZxb, f24_6, f13_3, f16_4, f9_7, f20_4, f0_9, Src.ofCode_code h0, Target.ofCode_code h1, require, bind, Except.bind, beq_self_eq_true, if_true, decide_true, decide_eq_true_eq]
  try rfl

theorem zxh (a : Src) (t : Target) : Statement (.zxh a t) := by
  refine s_statement rfl rfl fun hw => ?_
  have hw : (a.wf && t.wf) = true := hw
  simp only [Bool.and_eq_true, decide_eq_true_eq] at hw
  obtain ⟨h0, h1⟩ := hw
  have c0 := Src.code_lt h0
  have c1 := Target.code_lt h1
  refine ⟨by decide, by omega, by decide, by decide, by omega, fun w f24_6 f20_4 f16_4 f9_7 f0_9 => ?_⟩
  have f13_3 : bits w 13 3 = 1 := field_of_field (lo := 9) (k := 4) (n := 7) f9_7 (by decide) (by omega)
  unfold decodeS
  rw [f24_6]
  show decodeGroupS17 w = _
  unfold decodeGroupS17
  rw [f13_3]
  show decodeZxh w = _
  simp only [decodeZxh, f24_6, f13_3, f16_4, f9_7, f20_4, f0_9, Src.ofCode_code h0, Target.ofCode_code h1, require, bind, Except.bind, beq_self_eq_true, if_true, decide_true, decide_eq_true_eq]
  try rfl

theorem zx4 (a : Src) (t : Target) : Statement (.zx4 a t) := by
  refine s_statement rfl rfl fun hw => ?_
  have hw : (a.wf && t.wf) = true := hw
  simp only [Bool.and_eq_true, decide_eq_true_eq] at hw
  obtain ⟨h0, h1⟩ := hw
  have c0 := Src.code_lt h0
  have c1 := Target.code_lt h1
  refine ⟨by decide, by omega, by decide, by decide, by omega, fun w f24_6 f20_4 f16_4 f9_7 f0_9 => ?_⟩
  have f13_3 : bits w 13 3 = 2 := field_of_field (lo := 9) (k := 4) (n := 7) f9_7 (by decide) (by omega)
  unfold decodeS
  rw [f24_6]
  show decodeGroupS17 w = _
  unfold decodeGroupS17
  rw [f13_3]
  show decodeZx4 w = _
  simp only [decodeZx4, f24_6, f13_3, f16_4, f9_7, f20_4, f0_9, Src.ofCode_code h0, Target.ofCode_code h1, require, bind, Except.bind, beq_self_eq_true, if_true, decide_true, decide_eq_true_eq]
  try rfl

theorem bfx (a : Src) (b : Src) (sx : Bool) (t : Target) : Statement (.bfx a b sx t) := by
  refine s_statement rfl rfl fun hw => ?_
  have hw : (a.wf && b.wf && t.wf) = true := hw
  simp only [Bool.and_eq_true, decide_eq_true_eq] at hw
  obtain ⟨⟨h0, h1⟩, h2⟩ := hw
  have c0 := Src.code_lt h0
  have c1 := Src.code_lt h1
  have c2 := Target.code_lt h2
  have c_sx := boolCode_lt sx
  refine ⟨by decide, by omega, by omega, by omega, by omega, fun w f24_6 f20_4 f16_4 f9_7 f0_9 => ?_⟩
  have f9_6 : bits w 9 6 = 0 := field_of_field (lo := 9) (k := 0) (n := 7) f9_7 (by decide) (by omega)
  have g15 : bit w 15 = sx := bit_of_field (lo := 9) (k := 6) (n := 7) f9_7 (by decide) (by omega)
  unfold decodeS
  rw [f24_6]
  show decodeBfx w = _
  simp only [decodeBfx, f24_6, f9_6, f20_4, f16_4, f0_9, g15, Src.ofCode_code h0, Src.ofCode_code h1, Target.ofCode_code h2, require, bind, Except.bind, beq_self_eq_true, if_true, decide_true, decide_eq_true_eq]
  try rfl

theorem bfi (a : Src) (b : Src) (c : Nat) (t : Target) : Statement (.bfi a b c t) := by
  refine s_statement rfl rfl fun hw => ?_
  have hw : (a.wf && b.wf && decide (c < 8) && t.wf) = true := hw
  simp only [Bool.and_eq_true, decide_eq_true_eq] at hw
  obtain ⟨⟨⟨h0, h1⟩, h2⟩, h3⟩ := hw
  have c0 := Src.code_lt h0
  have c1 := Src.code_lt h1
  have c3 := Target.code_lt h3
  refine ⟨by decide, by omega, by omega, by omega, by omega, fun w f24_6 f20_4 f16_4 f9_7 f0_9 => ?_⟩
  have f13_3 : bits w 13 3 = 0 := field_of_field (lo := 9) (k := 4) (n := 7) f9_7 (by decide) (by omega)
  have f9_1 : bits w 9 1 = 0 := field_of_field (lo := 9) (k := 0) (n := 7) f9_7 (by decide) (by omega)
  have f10_3 : bits w 10 3 = c := field_of_field (lo := 9) (k := 1) (n := 7) f9_7 (by decide) (by omega)
  unfold decodeS
  rw [f24_6]
  show decodeBfi w = _
  simp only [decodeBfi, f24_6, f13_3, f9_1, f20_4, f16_4, f10_3, f0_9, Src.ofCode_code h0, Src.ofCode_code h1, h2, Target.ofCode_code h3, require, bind, Except.bind, beq_self_eq_true, if_true, decide_true, decide_eq_true_eq]
  try rfl

theorem cmp (a : Src) (b : Src) (c : Cond) (t : Target) : Statement (.cmp a b c t) := by
  refine s_statement rfl rfl fun hw => ?_
  have hw : (a.wf && b.wf && t.wf) = true := hw
  simp only [Bool.and_eq_true, decide_eq_true_eq] at hw
  obtain ⟨⟨h0, h1⟩, h2⟩ := hw
  have c0 := Src.code_lt h0
  have c1 := Src.code_lt h1
  have c2 := Target.code_lt h2
  have c_c := Cond.code_lt c
  refine ⟨by decide, by omega, by omega, by omega, by omega, fun w f24_6 f20_4 f16_4 f9_7 f0_9 => ?_⟩
  have f9_3 : bits w 9 3 = 0 := field_of_field (lo := 9) (k := 0) (n := 7) f9_7 (by decide) (by omega)
  have f12_4 : bits w 12 4 = c.code := field_of_field (lo := 9) (k := 3) (n := 7) f9_7 (by decide) (by omega)
  unfold decodeS
  rw [f24_6]
  show decodeCmp w = _
  simp only [decodeCmp, f24_6, f9_3, f20_4, f16_4, f12_4, f0_9, Src.ofCode_code h0, Src.ofCode_code h1, Target.ofCode_code h2, Cond.ofCode_code, require, bind, Except.bind, beq_self_eq_true, if_true, decide_true, decide_eq_true_eq]
  try rfl

theorem sel (a : Src) (b : Src) (c : Nat) (t : Target) : Statement (.sel a b c t) := by
  refine s_statement rfl rfl fun hw => ?_
  have hw : (a.wf && b.wf && decide (c < 8) && t.wf) = true := hw
  simp only [Bool.and_eq_true, decide_eq_true_eq] at hw
  obtain ⟨⟨⟨h0, h1⟩, h2⟩, h3⟩ := hw
  have c0 := Src.code_lt h0
  have c1 := Src.code_lt h1
  have c3 := Target.code_lt h3
  refine ⟨by decide, by omega, by omega, by omega, by omega, fun w f24_6 f20_4 f16_4 f9_7 f0_9 => ?_⟩
  have f13_3 : bits w 13 3 = 0 := field_of_field (lo := 9) (k := 4) (n := 7) f9_7 (by decide) (by omega)
  have f9_1 : bits w 9 1 = 0 := field_of_field (lo := 9) (k := 0) (n := 7) f9_7 (by decide) (by omega)
  have f10_3 : bits w 10 3 = c := field_of_field (lo := 9) (k := 1) (n := 7) f9_7 (by decide) (by omega)
  unfold decodeS
  rw [f24_6]
  show decodeSel w = _
  simp only [decodeSel, f24_6, f13_3, f9_1, f20_4, f16_4, f10_3, f0_9, Src.ofCode_code h0, Src.ofCode_code h1, h2, Target.ofCode_code h3, require, bind, Except.bind, beq_self_eq_true, if_true, decide_true, decide_eq_true_eq]
  try rfl

theorem lea (a : Src) (b : Src) (s : Nat) (t : Target) : Statement (.lea a b s t) := by
  refine s_statement rfl rfl fun hw => ?_
  have hw : (a.wf && b.wf && decide (s < 4) && t.wf) = true := hw
  simp only [Bool.and_eq_true, decide_eq_true_eq] at hw
  obtain ⟨⟨⟨h0, h1⟩, h2⟩, h3⟩ := hw
  have c0 := Src.code_lt h0
  have c1 := Src.code_lt h1
  have c3 := Target.code_lt h3
  refine ⟨by decide, by omega, by omega, by omega, by omega, fun w f24_6 f20_4 f16_4 f9_7 f0_9 => ?_⟩
  have f11_5 : bits w 11 5 = 0 := field_of_field (lo := 9) (k := 2) (n := 7) f9_7 (by decide) (by omega)
  have f9_2 : bits w 9 2 = s := field_of_field (lo := 9) (k := 0) (n := 7) f9_7 (by decide) (by omega)
  unfold decodeS
  rw [f24_6]
  show decodeLea w = _
  simp only [decodeLea, f24_6, f11_5, f20_4, f16_4, f9_2, f0_9, Src.ofCode_code h0, Src.ofCode_code h1, h2, Target.ofCode_code h3, require, bind, Except.bind, beq_self_eq_true, if_true, decide_true, decide_eq_true_eq]
  try rfl

theorem switchPol (a : Src) (n : Nat) (t : Target) : Statement (.switchPol a n t) := by
  refine s_statement rfl rfl fun hw => ?_
  have hw : (a.wf && decide (n < 16) && t.wf) = true := hw
  simp only [Bool.and_eq_true, decide_eq_true_eq] at hw
  obtain ⟨⟨h0, h1⟩, h2⟩ := hw
  have c0 := Src.code_lt h0
  have c2 := Target.code_lt h2
  refine ⟨by decide, by omega, by decide, by omega, by omega, fun w f24_6 f20_4 f16_4 f9_7 f0_9 => ?_⟩
  have f15_1 : bits w 15 1 = 0 := field_of_field (lo := 9) (k := 6) (n := 7) f9_7 (by decide) (by omega)
  have f9_2 : bits w 9 2 = 0 := field_of_field (lo := 9) (k := 0) (n := 7) f9_7 (by decide) (by omega)
  have f11_4 : bits w 11 4 = n := field_of_field (lo := 9) (k := 2) (n := 7) f9_7 (by decide) (by omega)
  unfold decodeS
  rw [f24_6]
  show decodeGroupS1D w = _
  unfold decodeGroupS1D
  rw [f15_1]
  show decodeSwitchPol w = _
  simp only [decodeSwitchPol, f24_6, f15_1, f16_4, f9_2, f20_4, f11_4, f0_9, Src.ofCode_code h0, h1, Target.ofCode_code h2, require, bind, Except.bind, beq_self_eq_true, if_true, decide_true, decide_eq_true_eq]
  try rfl

theorem switchLane (a : Src) (b : Src) (n : Nat) (t : Target) : Statement (.switchLane a b n t) := by
  refine s_statement rfl rfl fun hw => ?_
  have hw : (a.wf && b.wf && decide (n < 16) && t.wf) = true := hw
  simp only [Bool.and_eq_true, decide_eq_true_eq] at hw
  obtain ⟨⟨⟨h0, h1⟩, h2⟩, h3⟩ := hw
  have c0 := Src.code_lt h0
  have c1 := Src.code_lt h1
  have c3 := Target.code_lt h3
  refine ⟨by decide, by omega, by omega, by omega, by omega, fun w f24_6 f20_4 f16_4 f9_7 f0_9 => ?_⟩
  have f15_1 : bits w 15 1 = 1 := field_of_field (lo := 9) (k := 6) (n := 7) f9_7 (by decide) (by omega)
  have f9_2 : bits w 9 2 = 0 := field_of_field (lo := 9) (k := 0) (n := 7) f9_7 (by decide) (by omega)
  have f11_4 : bits w 11 4 = n := field_of_field (lo := 9) (k := 2) (n := 7) f9_7 (by decide) (by omega)
  unfold decodeS
  rw [f24_6]
  show decodeGroupS1D w = _
  unfold decodeGroupS1D
  rw [f15_1]
  show decodeSwitchLane w = _
  simp only [decodeSwitchLane, f24_6, f15_1, f9_2, f20_4, f16_4, f11_4, f0_9, Src.ofCode_code h0, Src.ofCode_code h1, h2, Target.ofCode_code h3, require, bind, Except.bind, beq_self_eq_true, if_true, decide_true, decide_eq_true_eq]
  try rfl

theorem laff (a : Src) (b : Src) (t : Target) : Statement (.laff a b t) := by
  refine s_statement rfl rfl fun hw => ?_
  have hw : (a.wf && b.wf && t.wf) = true := hw
  simp only [Bool.and_eq_true, decide_eq_true_eq] at hw
  obtain ⟨⟨h0, h1⟩, h2⟩ := hw
  have c0 := Src.code_lt h0
  have c1 := Src.code_lt h1
  have c2 := Target.code_lt h2
  refine ⟨by decide, by omega, by omega, by decide, by omega, fun w f24_6 f20_4 f16_4 f9_7 f0_9 => ?_⟩
  have f13_2 : bits w 13 2 = 0 := field_of_field (lo := 9) (k := 4) (n := 7) f9_7 (by decide) (by omega)
  unfold decodeS
  rw [f24_6]
  show decodeGroupS1E w = _
  unfold decodeGroupS1E
  rw [f13_2]
  show decodeLaff w = _
  simp only [decodeLaff, f24_6, f13_2, f9_7, f20_4, f16_4, f0_9, Src.ofCode_code h0, Src.ofCode_code h1, Target.ofCode_code h2, require, bind, Except.bind, beq_self_eq_true, if_true, decide_true, decide_eq_true_eq]
  try rfl

theorem lxor (a : Src) (t : Target) : Statement (.lxor a t) := by
  refine s_statement rfl rfl fun hw => ?_
  have hw : (a.wf && t.wf) = true := hw
  simp only [Bool.and_eq_true, decide_eq_true_eq] at hw
  obtain ⟨h0, h1⟩ := hw
  have c0 := Src.code_lt h0
  have c1 := Target.code_lt h1
  refine ⟨by decide, by omega, by decide, by decide, by omega, fun w f24_6 f20_4 f16_4 f9_7 f0_9 => ?_⟩
  have f13_2 : bits w 13 2 = 1 := field_of_field (lo := 9) (k := 4) (n := 7) f9_7 (by decide) (by omega)
  unfold decodeS
  rw [f24_6]
  show decodeGroupS1E w = _
  unfold decodeGroupS1E
  rw [f13_2]
  show decodeLxor w = _
  simp only [decodeLxor, f24_6, f13_2, f16_4, f9_7, f20_4, f0_9, Src.ofCode_code h0, Target.ofCode_code h1, require, bind, Except.bind, beq_self_eq_true, if_true, decide_true, decide_eq_true_eq]
  try rfl

theorem lvcnt (a : Src) (t : Target) : Statement (.lvcnt a t) := by
  refine s_statement rfl rfl fun hw => ?_
  have hw : (a.wf && t.wf) = true := hw
  simp only [Bool.and_eq_true, decide_eq_true_eq] at hw
  obtain ⟨h0, h1⟩ := hw
  have c0 := Src.code_lt h0
  have c1 := Target.code_lt h1
  refine ⟨by decide, by omega, by decide, by decide, by omega, fun w f24_6 f20_4 f16_4 f9_7 f0_9 => ?_⟩
  have f13_2 : bits w 13 2 = 2 := field_of_field (lo := 9) (k := 4) (n := 7) f9_7 (by decide) (by omega)
  unfold decodeS
  rw [f24_6]
  show decodeGroupS1E w = _
  unfold decodeGroupS1E
  rw [f13_2]
  show decodeLvcnt w = _
  simp only [decodeLvcnt, f24_6, f13_2, f16_4, f9_7, f20_4, f0_9, Src.ofCode_code h0, Target.ofCode_code h1, require, bind, Except.bind, beq_self_eq_true, if_true, decide_true, decide_eq_true_eq]
  try rfl

theorem lvfst (a : Src) (t : Target) : Statement (.lvfst a t) := by
  refine s_statement rfl rfl fun hw => ?_
  have hw : (a.wf && t.wf) = true := hw
  simp only [Bool.and_eq_true, decide_eq_true_eq] at hw
  obtain ⟨h0, h1⟩ := hw
  have c0 := Src.code_lt h0
  have c1 := Target.code_lt h1
  refine ⟨by decide, by omega, by decide, by decide, by omega, fun w f24_6 f20_4 f16_4 f9_7 f0_9 => ?_⟩
  have f13_2 : bits w 13 2 = 3 := field_of_field (lo := 9) (k := 4) (n := 7) f9_7 (by decide) (by omega)
  unfold decodeS
  rw [f24_6]
  show decodeGroupS1E w = _
  unfold decodeGroupS1E
  rw [f13_2]
  show decodeLvfst w = _
  simp only [decodeLvfst, f24_6, f13_2, f16_4, f9_7, f20_4, f0_9, Src.ofCode_code h0, Target.ofCode_code h1, require, bind, Except.bind, beq_self_eq_true, if_true, decide_true, decide_eq_true_eq]
  try rfl

theorem fadd (a : Src) (b : Src) (f : Fmt) (r : Rnd) (sat : Bool) (t : Target) : Statement (.fadd a b f r sat t) := by
  refine s_statement rfl rfl fun hw => ?_
  have hw : (a.wf && b.wf && fmtIn f [.f32, .bf16, .f16] && t.wf) = true := hw
  simp only [Bool.and_eq_true, decide_eq_true_eq] at hw
  obtain ⟨⟨⟨h0, h1⟩, h2⟩, h3⟩ := hw
  have c0 := Src.code_lt h0
  have c1 := Src.code_lt h1
  have c3 := Target.code_lt h3
  have c_f := Fmt.code_lt f
  have c_r := Rnd.code_lt r
  have c_sat := boolCode_lt sat
  refine ⟨by decide, by omega, by omega, by omega, by omega, fun w f24_6 f20_4 f16_4 f9_7 f0_9 => ?_⟩
  have f13_3 : bits w 13 3 = f.code := field_of_field (lo := 9) (k := 4) (n := 7) f9_7 (by decide) (by omega)
  have f10_3 : bits w 10 3 = r.code := field_of_field (lo := 9) (k := 1) (n := 7) f9_7 (by decide) (by omega)
  have g9 : bit w 9 = sat := bit_of_field (lo := 9) (k := 0) (n := 7) f9_7 (by decide) (by omega)
  unfold decodeS
  rw [f24_6]
  show decodeFadd w = _
  simp only [decodeFadd, f24_6, f20_4, f16_4, f13_3, f10_3, f0_9, g9, Src.ofCode_code h0, Src.ofCode_code h1, h2, Target.ofCode_code h3, Fmt.ofCode_code, Rnd.ofCode_code, require, bind, Except.bind, beq_self_eq_true, if_true, decide_true, decide_eq_true_eq]
  try rfl

theorem fsub (a : Src) (b : Src) (f : Fmt) (r : Rnd) (sat : Bool) (t : Target) : Statement (.fsub a b f r sat t) := by
  refine s_statement rfl rfl fun hw => ?_
  have hw : (a.wf && b.wf && fmtIn f [.f32, .bf16, .f16] && t.wf) = true := hw
  simp only [Bool.and_eq_true, decide_eq_true_eq] at hw
  obtain ⟨⟨⟨h0, h1⟩, h2⟩, h3⟩ := hw
  have c0 := Src.code_lt h0
  have c1 := Src.code_lt h1
  have c3 := Target.code_lt h3
  have c_f := Fmt.code_lt f
  have c_r := Rnd.code_lt r
  have c_sat := boolCode_lt sat
  refine ⟨by decide, by omega, by omega, by omega, by omega, fun w f24_6 f20_4 f16_4 f9_7 f0_9 => ?_⟩
  have f13_3 : bits w 13 3 = f.code := field_of_field (lo := 9) (k := 4) (n := 7) f9_7 (by decide) (by omega)
  have f10_3 : bits w 10 3 = r.code := field_of_field (lo := 9) (k := 1) (n := 7) f9_7 (by decide) (by omega)
  have g9 : bit w 9 = sat := bit_of_field (lo := 9) (k := 0) (n := 7) f9_7 (by decide) (by omega)
  unfold decodeS
  rw [f24_6]
  show decodeFsub w = _
  simp only [decodeFsub, f24_6, f20_4, f16_4, f13_3, f10_3, f0_9, g9, Src.ofCode_code h0, Src.ofCode_code h1, h2, Target.ofCode_code h3, Fmt.ofCode_code, Rnd.ofCode_code, require, bind, Except.bind, beq_self_eq_true, if_true, decide_true, decide_eq_true_eq]
  try rfl

theorem fmul (a : Src) (b : Src) (f : Fmt) (r : Rnd) (sat : Bool) (t : Target) : Statement (.fmul a b f r sat t) := by
  refine s_statement rfl rfl fun hw => ?_
  have hw : (a.wf && b.wf && fmtIn f [.f32, .bf16, .f16] && t.wf) = true := hw
  simp only [Bool.and_eq_true, decide_eq_true_eq] at hw
  obtain ⟨⟨⟨h0, h1⟩, h2⟩, h3⟩ := hw
  have c0 := Src.code_lt h0
  have c1 := Src.code_lt h1
  have c3 := Target.code_lt h3
  have c_f := Fmt.code_lt f
  have c_r := Rnd.code_lt r
  have c_sat := boolCode_lt sat
  refine ⟨by decide, by omega, by omega, by omega, by omega, fun w f24_6 f20_4 f16_4 f9_7 f0_9 => ?_⟩
  have f13_3 : bits w 13 3 = f.code := field_of_field (lo := 9) (k := 4) (n := 7) f9_7 (by decide) (by omega)
  have f10_3 : bits w 10 3 = r.code := field_of_field (lo := 9) (k := 1) (n := 7) f9_7 (by decide) (by omega)
  have g9 : bit w 9 = sat := bit_of_field (lo := 9) (k := 0) (n := 7) f9_7 (by decide) (by omega)
  unfold decodeS
  rw [f24_6]
  show decodeFmul w = _
  simp only [decodeFmul, f24_6, f20_4, f16_4, f13_3, f10_3, f0_9, g9, Src.ofCode_code h0, Src.ofCode_code h1, h2, Target.ofCode_code h3, Fmt.ofCode_code, Rnd.ofCode_code, require, bind, Except.bind, beq_self_eq_true, if_true, decide_true, decide_eq_true_eq]
  try rfl

theorem ffma (a : Src) (b : Src) (r : Rnd) (c : Nat) (sat : Bool) (t : Target) : Statement (.ffma a b r c sat t) := by
  refine s_statement rfl rfl fun hw => ?_
  have hw : (a.wf && b.wf && decide (c < 8) && t.wf) = true := hw
  simp only [Bool.and_eq_true, decide_eq_true_eq] at hw
  obtain ⟨⟨⟨h0, h1⟩, h2⟩, h3⟩ := hw
  have c0 := Src.code_lt h0
  have c1 := Src.code_lt h1
  have c3 := Target.code_lt h3
  have c_r := Rnd.code_lt r
  have c_sat := boolCode_lt sat
  refine ⟨by decide, by omega, by omega, by omega, by omega, fun w f24_6 f20_4 f16_4 f9_7 f0_9 => ?_⟩
  have f13_3 : bits w 13 3 = r.code := field_of_field (lo := 9) (k := 4) (n := 7) f9_7 (by decide) (by omega)
  have f10_3 : bits w 10 3 = c := field_of_field (lo := 9) (k := 1) (n := 7) f9_7 (by decide) (by omega)
  have g9 : bit w 9 = sat := bit_of_field (lo := 9) (k := 0) (n := 7) f9_7 (by decide) (by omega)
  unfold decodeS
  rw [f24_6]
  show decodeFfma w = _
  simp only [decodeFfma, f24_6, f20_4, f16_4, f13_3, f10_3, f0_9, g9, Src.ofCode_code h0, Src.ofCode_code h1, h2, Target.ofCode_code h3, Rnd.ofCode_code, require, bind, Except.bind, beq_self_eq_true, if_true, decide_true, decide_eq_true_eq]
  try rfl

theorem fmin (a : Src) (b : Src) (t : Target) : Statement (.fmin a b t) := by
  refine s_statement rfl rfl fun hw => ?_
  have hw : (a.wf && b.wf && t.wf) = true := hw
  simp only [Bool.and_eq_true, decide_eq_true_eq] at hw
  obtain ⟨⟨h0, h1⟩, h2⟩ := hw
  have c0 := Src.code_lt h0
  have c1 := Src.code_lt h1
  have c2 := Target.code_lt h2
  refine ⟨by decide, by omega, by omega, by decide, by omega, fun w f24_6 f20_4 f16_4 f9_7 f0_9 => ?_⟩
  unfold decodeS
  rw [f24_6]
  show decodeFmin w = _
  simp only [decodeFmin, f24_6, f9_7, f20_4, f16_4, f0_9, Src.ofCode_code h0, Src.ofCode_code h1, Target.ofCode_code h2, require, bind, Except.bind, beq_self_eq_true, if_true, decide_true, decide_eq_true_eq]
  try rfl

theorem fmax (a : Src) (b : Src) (t : Target) : Statement (.fmax a b t) := by
  refine s_statement rfl rfl fun hw => ?_
  have hw : (a.wf && b.wf && t.wf) = true := hw
  simp only [Bool.and_eq_true, decide_eq_true_eq] at hw
  obtain ⟨⟨h0, h1⟩, h2⟩ := hw
  have c0 := Src.code_lt h0
  have c1 := Src.code_lt h1
  have c2 := Target.code_lt h2
  refine ⟨by decide, by omega, by omega, by decide, by omega, fun w f24_6 f20_4 f16_4 f9_7 f0_9 => ?_⟩
  unfold decodeS
  rw [f24_6]
  show decodeFmax w = _
  simp only [decodeFmax, f24_6, f9_7, f20_4, f16_4, f0_9, Src.ofCode_code h0, Src.ofCode_code h1, Target.ofCode_code h2, require, bind, Except.bind, beq_self_eq_true, if_true, decide_true, decide_eq_true_eq]
  try rfl

theorem fabs (a : Src) (f : Fmt) (t : Target) : Statement (.fabs a f t) := by
  refine s_statement rfl rfl fun hw => ?_
  have hw : (a.wf && fmtIn f [.f32, .bf16, .f16] && t.wf) = true := hw
  simp only [Bool.and_eq_true, decide_eq_true_eq] at hw
  obtain ⟨⟨h0, h1⟩, h2⟩ := hw
  have c0 := Src.code_lt h0
  have c2 := Target.code_lt h2
  have c_f := Fmt.code_lt f
  refine ⟨by decide, by omega, by decide, by omega, by omega, fun w f24_6 f20_4 f16_4 f9_7 f0_9 => ?_⟩
  have f10_3 : bits w 10 3 = 0 := field_of_field (lo := 9) (k := 1) (n := 7) f9_7 (by decide) (by omega)
  have f9_4 : bits w 9 4 = 0 := field_of_field (lo := 9) (k := 0) (n := 7) f9_7 (by decide) (by omega)
  have f13_3 : bits w 13 3 = f.code := field_of_field (lo := 9) (k := 4) (n := 7) f9_7 (by decide) (by omega)
  unfold decodeS
  rw [f24_6]
  show decodeGroupS26 w = _
  unfold decodeGroupS26
  rw [f10_3]
  show decodeFabs w = _
  simp only [decodeFabs, f24_6, f10_3, f16_4, f9_4, f20_4, f13_3, f0_9, Src.ofCode_code h0, h1, Target.ofCode_code h2, Fmt.ofCode_code, require, bind, Except.bind, beq_self_eq_true, if_true, decide_true, decide_eq_true_eq]
  try rfl

theorem fneg (a : Src) (f : Fmt) (t : Target) : Statement (.fneg a f t) := by
  refine s_statement rfl rfl fun hw => ?_
  have hw : (a.wf && fmtIn f [.f32, .bf16, .f16] && t.wf) = true := hw
  simp only [Bool.and_eq_true, decide_eq_true_eq] at hw
  obtain ⟨⟨h0, h1⟩, h2⟩ := hw
  have c0 := Src.code_lt h0
  have c2 := Target.code_lt h2
  have c_f := Fmt.code_lt f
  refine ⟨by decide, by omega, by decide, by omega, by omega, fun w f24_6 f20_4 f16_4 f9_7 f0_9 => ?_⟩
  have f10_3 : bits w 10 3 = 1 := field_of_field (lo := 9) (k := 1) (n := 7) f9_7 (by decide) (by omega)
  have f9_4 : bits w 9 4 = 2 := field_of_field (lo := 9) (k := 0) (n := 7) f9_7 (by decide) (by omega)
  have f13_3 : bits w 13 3 = f.code := field_of_field (lo := 9) (k := 4) (n := 7) f9_7 (by decide) (by omega)
  unfold decodeS
  rw [f24_6]
  show decodeGroupS26 w = _
  unfold decodeGroupS26
  rw [f10_3]
  show decodeFneg w = _
  simp only [decodeFneg, f24_6, f10_3, f16_4, f9_4, f20_4, f13_3, f0_9, Src.ofCode_code h0, h1, Target.ofCode_code h2, Fmt.ofCode_code, require, bind, Except.bind, beq_self_eq_true, if_true, decide_true, decide_eq_true_eq]
  try rfl

theorem fcpys (a : Src) (b : Src) (f : Fmt) (t : Target) : Statement (.fcpys a b f t) := by
  refine s_statement rfl rfl fun hw => ?_
  have hw : (a.wf && b.wf && fmtIn f [.f32, .bf16, .f16] && t.wf) = true := hw
  simp only [Bool.and_eq_true, decide_eq_true_eq] at hw
  obtain ⟨⟨⟨h0, h1⟩, h2⟩, h3⟩ := hw
  have c0 := Src.code_lt h0
  have c1 := Src.code_lt h1
  have c3 := Target.code_lt h3
  have c_f := Fmt.code_lt f
  refine ⟨by decide, by omega, by omega, by omega, by omega, fun w f24_6 f20_4 f16_4 f9_7 f0_9 => ?_⟩
  have f10_3 : bits w 10 3 = 2 := field_of_field (lo := 9) (k := 1) (n := 7) f9_7 (by decide) (by omega)
  have f9_4 : bits w 9 4 = 4 := field_of_field (lo := 9) (k := 0) (n := 7) f9_7 (by decide) (by omega)
  have f13_3 : bits w 13 3 = f.code := field_of_field (lo := 9) (k := 4) (n := 7) f9_7 (by decide) (by omega)
  unfold decodeS
  rw [f24_6]
  show decodeGroupS26 w = _
  unfold decodeGroupS26
  rw [f10_3]
  show decodeFcpys w = _
  simp only [decodeFcpys, f24_6, f10_3, f9_4, f20_4, f16_4, f13_3, f0_9, Src.ofCode_code h0, Src.ofCode_code h1, h2, Target.ofCode_code h3, Fmt.ofCode_code, require, bind, Except.bind, beq_self_eq_true, if_true, decide_true, decide_eq_true_eq]
  try rfl

theorem fcpyn (a : Src) (b : Src) (f : Fmt) (t : Target) : Statement (.fcpyn a b f t) := by
  refine s_statement rfl rfl fun hw => ?_
  have hw : (a.wf && b.wf && fmtIn f [.f32, .bf16, .f16] && t.wf) = true := hw
  simp only [Bool.and_eq_true, decide_eq_true_eq] at hw
  obtain ⟨⟨⟨h0, h1⟩, h2⟩, h3⟩ := hw
  have c0 := Src.code_lt h0
  have c1 := Src.code_lt h1
  have c3 := Target.code_lt h3
  have c_f := Fmt.code_lt f
  refine ⟨by decide, by omega, by omega, by omega, by omega, fun w f24_6 f20_4 f16_4 f9_7 f0_9 => ?_⟩
  have f10_3 : bits w 10 3 = 3 := field_of_field (lo := 9) (k := 1) (n := 7) f9_7 (by decide) (by omega)
  have f9_4 : bits w 9 4 = 6 := field_of_field (lo := 9) (k := 0) (n := 7) f9_7 (by decide) (by omega)
  have f13_3 : bits w 13 3 = f.code := field_of_field (lo := 9) (k := 4) (n := 7) f9_7 (by decide) (by omega)
  unfold decodeS
  rw [f24_6]
  show decodeGroupS26 w = _
  unfold decodeGroupS26
  rw [f10_3]
  show decodeFcpyn w = _
  simp only [decodeFcpyn, f24_6, f10_3, f9_4, f20_4, f16_4, f13_3, f0_9, Src.ofCode_code h0, Src.ofCode_code h1, h2, Target.ofCode_code h3, Fmt.ofCode_code, require, bind, Except.bind, beq_self_eq_true, if_true, decide_true, decide_eq_true_eq]
  try rfl

theorem fxsgn (a : Src) (b : Src) (f : Fmt) (t : Target) : Statement (.fxsgn a b f t) := by
  refine s_statement rfl rfl fun hw => ?_
  have hw : (a.wf && b.wf && fmtIn f [.f32, .bf16, .f16] && t.wf) = true := hw
  simp only [Bool.and_eq_true, decide_eq_true_eq] at hw
  obtain ⟨⟨⟨h0, h1⟩, h2⟩, h3⟩ := hw
  have c0 := Src.code_lt h0
  have c1 := Src.code_lt h1
  have c3 := Target.code_lt h3
  have c_f := Fmt.code_lt f
  refine ⟨by decide, by omega, by omega, by omega, by omega, fun w f24_6 f20_4 f16_4 f9_7 f0_9 => ?_⟩
  have f10_3 : bits w 10 3 = 4 := field_of_field (lo := 9) (k := 1) (n := 7) f9_7 (by decide) (by omega)
  have f9_4 : bits w 9 4 = 8 := field_of_field (lo := 9) (k := 0) (n := 7) f9_7 (by decide) (by omega)
  have f13_3 : bits w 13 3 = f.code := field_of_field (lo := 9) (k := 4) (n := 7) f9_7 (by decide) (by omega)
  unfold decodeS
  rw [f24_6]
  show decodeGroupS26 w = _
  unfold decodeGroupS26
  rw [f10_3]
  show decodeFxsgn w = _
  simp only [decodeFxsgn, f24_6, f10_3, f9_4, f20_4, f16_4, f13_3, f0_9, Src.ofCode_code h0, Src.ofCode_code h1, h2, Target.ofCode_code h3, Fmt.ofCode_code, require, bind, Except.bind, beq_self_eq_true, if_true, decide_true, decide_eq_true_eq]
  try rfl

theorem fcmp (a : Src) (b : Src) (f : Fmt) (c : FCond) (t : Target) : Statement (.fcmp a b f c t) := by
  refine s_statement rfl rfl fun hw => ?_
  have hw : (a.wf && b.wf && fmtIn f [.f32, .bf16, .f16] && t.wf) = true := hw
  simp only [Bool.and_eq_true, decide_eq_true_eq] at hw
  obtain ⟨⟨⟨h0, h1⟩, h2⟩, h3⟩ := hw
  have c0 := Src.code_lt h0
  have c1 := Src.code_lt h1
  have c3 := Target.code_lt h3
  have c_f := Fmt.code_lt f
  have c_c := FCond.code_lt c
  refine ⟨by decide, by omega, by omega, by omega, by omega, fun w f24_6 f20_4 f16_4 f9_7 f0_9 => ?_⟩
  have f9_1 : bits w 9 1 = 0 := field_of_field (lo := 9) (k := 0) (n := 7) f9_7 (by decide) (by omega)
  have f13_3 : bits w 13 3 = f.code := field_of_field (lo := 9) (k := 4) (n := 7) f9_7 (by decide) (by omega)
  have f10_3 : bits w 10 3 = c.code := field_of_field (lo := 9) (k := 1) (n := 7) f9_7 (by decide) (by omega)
  unfold decodeS
  rw [f24_6]
  show decodeFcmp w = _
  simp only [decodeFcmp, f24_6, f9_1, f20_4, f16_4, f13_3, f10_3, f0_9, Src.ofCode_code h0, Src.ofCode_code h1, h2, Target.ofCode_code h3, Fmt.ofCode_code, FCond.ofCode_code, require, bind, Except.bind, beq_self_eq_true, if_true, decide_true, decide_eq_true_eq]
  try rfl

theorem fclass (a : Src) (f : Fmt) (t : Target) : Statement (.fclass a f t) := by
  refine s_statement rfl rfl fun hw => ?_
  have hw : (a.wf && fmtIn f [.f32, .bf16, .f16, .e4m3, .e5m2, .e2m1] && t.wf) = true := hw
  simp only [Bool.and_eq_true, decide_eq_true_eq] at hw
  obtain ⟨⟨h0, h1⟩, h2⟩ := hw
  have c0 := Src.code_lt h0
  have c2 := Target.code_lt h2
  have c_f := Fmt.code_lt f
  refine ⟨by decide, by omega, by decide, by omega, by omega, fun w f24_6 f20_4 f16_4 f9_7 f0_9 => ?_⟩
  have f9_4 : bits w 9 4 = 0 := field_of_field (lo := 9) (k := 0) (n := 7) f9_7 (by decide) (by omega)
  have f13_3 : bits w 13 3 = f.code := field_of_field (lo := 9) (k := 4) (n := 7) f9_7 (by decide) (by omega)
  unfold decodeS
  rw [f24_6]
  show decodeFclass w = _
  simp only [decodeFclass, f24_6, f16_4, f9_4, f20_4, f13_3, f0_9, Src.ofCode_code h0, h1, Target.ofCode_code h2, Fmt.ofCode_code, require, bind, Except.bind, beq_self_eq_true, if_true, decide_true, decide_eq_true_eq]
  try rfl

theorem fcvt (a : Src) (b : Src) (f : Fmt) (r : Rnd) (sat : Bool) (t : Target) : Statement (.fcvt a b f r sat t) := by
  refine s_statement rfl rfl fun hw => ?_
  have hw : (a.wf && b.wf && fmtIn f [.bf16, .f16, .e4m3, .e5m2, .e2m1, .e8m0] && t.wf) = true := hw
  simp only [Bool.and_eq_true, decide_eq_true_eq] at hw
  obtain ⟨⟨⟨h0, h1⟩, h2⟩, h3⟩ := hw
  have c0 := Src.code_lt h0
  have c1 := Src.code_lt h1
  have c3 := Target.code_lt h3
  have c_f := Fmt.code_lt f
  have c_r := Rnd.code_lt r
  have c_sat := boolCode_lt sat
  refine ⟨by decide, by omega, by omega, by omega, by omega, fun w f24_6 f20_4 f16_4 f9_7 f0_9 => ?_⟩
  have f13_3 : bits w 13 3 = f.code := field_of_field (lo := 9) (k := 4) (n := 7) f9_7 (by decide) (by omega)
  have f10_3 : bits w 10 3 = r.code := field_of_field (lo := 9) (k := 1) (n := 7) f9_7 (by decide) (by omega)
  have g9 : bit w 9 = sat := bit_of_field (lo := 9) (k := 0) (n := 7) f9_7 (by decide) (by omega)
  unfold decodeS
  rw [f24_6]
  show decodeFcvt w = _
  simp only [decodeFcvt, f24_6, f20_4, f16_4, f13_3, f10_3, f0_9, g9, Src.ofCode_code h0, Src.ofCode_code h1, h2, Target.ofCode_code h3, Fmt.ofCode_code, Rnd.ofCode_code, require, bind, Except.bind, beq_self_eq_true, if_true, decide_true, decide_eq_true_eq]
  try rfl

theorem frnd (a : Src) (r : Rnd) (t : Target) : Statement (.frnd a r t) := by
  refine s_statement rfl rfl fun hw => ?_
  have hw : (a.wf && t.wf) = true := hw
  simp only [Bool.and_eq_true, decide_eq_true_eq] at hw
  obtain ⟨h0, h1⟩ := hw
  have c0 := Src.code_lt h0
  have c1 := Target.code_lt h1
  have c_r := Rnd.code_lt r
  refine ⟨by decide, by omega, by decide, by omega, by omega, fun w f24_6 f20_4 f16_4 f9_7 f0_9 => ?_⟩
  have f13_3 : bits w 13 3 = 0 := field_of_field (lo := 9) (k := 4) (n := 7) f9_7 (by decide) (by omega)
  have f9_1 : bits w 9 1 = 0 := field_of_field (lo := 9) (k := 0) (n := 7) f9_7 (by decide) (by omega)
  have f10_3 : bits w 10 3 = r.code := field_of_field (lo := 9) (k := 1) (n := 7) f9_7 (by decide) (by omega)
  unfold decodeS
  rw [f24_6]
  show decodeFrnd w = _
  simp only [decodeFrnd, f24_6, f16_4, f13_3, f9_1, f20_4, f10_3, f0_9, Src.ofCode_code h0, Target.ofCode_code h1, Rnd.ofCode_code, require, bind, Except.bind, beq_self_eq_true, if_true, decide_true, decide_eq_true_eq]
  try rfl

theorem ftoi (a : Src) (f : IFmt) (r : Rnd) (sat : Bool) (t : Target) : Statement (.ftoi a f r sat t) := by
  refine s_statement rfl rfl fun hw => ?_
  have hw : (a.wf && t.wf) = true := hw
  simp only [Bool.and_eq_true, decide_eq_true_eq] at hw
  obtain ⟨h0, h1⟩ := hw
  have c0 := Src.code_lt h0
  have c1 := Target.code_lt h1
  have c_f := IFmt.code_lt f
  have c_r := Rnd.code_lt r
  have c_sat := boolCode_lt sat
  refine ⟨by decide, by omega, by decide, by omega, by omega, fun w f24_6 f20_4 f16_4 f9_7 f0_9 => ?_⟩
  have f13_3 : bits w 13 3 = f.code := field_of_field (lo := 9) (k := 4) (n := 7) f9_7 (by decide) (by omega)
  have f10_3 : bits w 10 3 = r.code := field_of_field (lo := 9) (k := 1) (n := 7) f9_7 (by decide) (by omega)
  have g9 : bit w 9 = sat := bit_of_field (lo := 9) (k := 0) (n := 7) f9_7 (by decide) (by omega)
  unfold decodeS
  rw [f24_6]
  show decodeFtoi w = _
  simp only [decodeFtoi, f24_6, f16_4, f20_4, f13_3, f10_3, f0_9, g9, Src.ofCode_code h0, Target.ofCode_code h1, IFmt.ofCode_code, Rnd.ofCode_code, require, bind, Except.bind, beq_self_eq_true, if_true, decide_true, decide_eq_true_eq]
  try rfl

theorem itof (a : Src) (f : Fmt) (r : Rnd) (sat : Bool) (t : Target) : Statement (.itof a f r sat t) := by
  refine s_statement rfl rfl fun hw => ?_
  have hw : (a.wf && fmtIn f [.f32, .bf16, .f16] && t.wf) = true := hw
  simp only [Bool.and_eq_true, decide_eq_true_eq] at hw
  obtain ⟨⟨h0, h1⟩, h2⟩ := hw
  have c0 := Src.code_lt h0
  have c2 := Target.code_lt h2
  have c_f := Fmt.code_lt f
  have c_r := Rnd.code_lt r
  have c_sat := boolCode_lt sat
  refine ⟨by decide, by omega, by decide, by omega, by omega, fun w f24_6 f20_4 f16_4 f9_7 f0_9 => ?_⟩
  have f13_3 : bits w 13 3 = f.code := field_of_field (lo := 9) (k := 4) (n := 7) f9_7 (by decide) (by omega)
  have f10_3 : bits w 10 3 = r.code := field_of_field (lo := 9) (k := 1) (n := 7) f9_7 (by decide) (by omega)
  have g9 : bit w 9 = sat := bit_of_field (lo := 9) (k := 0) (n := 7) f9_7 (by decide) (by omega)
  unfold decodeS
  rw [f24_6]
  show decodeItof w = _
  simp only [decodeItof, f24_6, f16_4, f20_4, f13_3, f10_3, f0_9, g9, Src.ofCode_code h0, h1, Target.ofCode_code h2, Fmt.ofCode_code, Rnd.ofCode_code, require, bind, Except.bind, beq_self_eq_true, if_true, decide_true, decide_eq_true_eq]
  try rfl

theorem hadd2 (a : Src) (b : Src) (f : Fmt) (r : Rnd) (sat : Bool) (t : Target) : Statement (.hadd2 a b f r sat t) := by
  refine s_statement rfl rfl fun hw => ?_
  have hw : (a.wf && b.wf && fmtIn f [.bf16, .f16] && t.wf) = true := hw
  simp only [Bool.and_eq_true, decide_eq_true_eq] at hw
  obtain ⟨⟨⟨h0, h1⟩, h2⟩, h3⟩ := hw
  have c0 := Src.code_lt h0
  have c1 := Src.code_lt h1
  have c3 := Target.code_lt h3
  have c_f := Fmt.code_lt f
  have c_r := Rnd.code_lt r
  have c_sat := boolCode_lt sat
  refine ⟨by decide, by omega, by omega, by omega, by omega, fun w f24_6 f20_4 f16_4 f9_7 f0_9 => ?_⟩
  have f13_3 : bits w 13 3 = f.code := field_of_field (lo := 9) (k := 4) (n := 7) f9_7 (by decide) (by omega)
  have f10_3 : bits w 10 3 = r.code := field_of_field (lo := 9) (k := 1) (n := 7) f9_7 (by decide) (by omega)
  have g9 : bit w 9 = sat := bit_of_field (lo := 9) (k := 0) (n := 7) f9_7 (by decide) (by omega)
  unfold decodeS
  rw [f24_6]
  show decodeHadd2 w = _
  simp only [decodeHadd2, f24_6, f20_4, f16_4, f13_3, f10_3, f0_9, g9, Src.ofCode_code h0, Src.ofCode_code h1, h2, Target.ofCode_code h3, Fmt.ofCode_code, Rnd.ofCode_code, require, bind, Except.bind, beq_self_eq_true, if_true, decide_true, decide_eq_true_eq]
  try rfl

theorem hmul2 (a : Src) (b : Src) (f : Fmt) (r : Rnd) (sat : Bool) (t : Target) : Statement (.hmul2 a b f r sat t) := by
  refine s_statement rfl rfl fun hw => ?_
  have hw : (a.wf && b.wf && fmtIn f [.bf16, .f16] && t.wf) = true := hw
  simp only [Bool.and_eq_true, decide_eq_true_eq] at hw
  obtain ⟨⟨⟨h0, h1⟩, h2⟩, h3⟩ := hw
  have c0 := Src.code_lt h0
  have c1 := Src.code_lt h1
  have c3 := Target.code_lt h3
  have c_f := Fmt.code_lt f
  have c_r := Rnd.code_lt r
  have c_sat := boolCode_lt sat
  refine ⟨by decide, by omega, by omega, by omega, by omega, fun w f24_6 f20_4 f16_4 f9_7 f0_9 => ?_⟩
  have f13_3 : bits w 13 3 = f.code := field_of_field (lo := 9) (k := 4) (n := 7) f9_7 (by decide) (by omega)
  have f10_3 : bits w 10 3 = r.code := field_of_field (lo := 9) (k := 1) (n := 7) f9_7 (by decide) (by omega)
  have g9 : bit w 9 = sat := bit_of_field (lo := 9) (k := 0) (n := 7) f9_7 (by decide) (by omega)
  unfold decodeS
  rw [f24_6]
  show decodeHmul2 w = _
  simp only [decodeHmul2, f24_6, f20_4, f16_4, f13_3, f10_3, f0_9, g9, Src.ofCode_code h0, Src.ofCode_code h1, h2, Target.ofCode_code h3, Fmt.ofCode_code, Rnd.ofCode_code, require, bind, Except.bind, beq_self_eq_true, if_true, decide_true, decide_eq_true_eq]
  try rfl

theorem hfma2 (a : Src) (b : Src) (r : Rnd) (c : Nat) (sat : Bool) (t : Target) : Statement (.hfma2 a b r c sat t) := by
  refine s_statement rfl rfl fun hw => ?_
  have hw : (a.wf && b.wf && decide (c < 8) && t.wf) = true := hw
  simp only [Bool.and_eq_true, decide_eq_true_eq] at hw
  obtain ⟨⟨⟨h0, h1⟩, h2⟩, h3⟩ := hw
  have c0 := Src.code_lt h0
  have c1 := Src.code_lt h1
  have c3 := Target.code_lt h3
  have c_r := Rnd.code_lt r
  have c_sat := boolCode_lt sat
  refine ⟨by decide, by omega, by omega, by omega, by omega, fun w f24_6 f20_4 f16_4 f9_7 f0_9 => ?_⟩
  have f13_3 : bits w 13 3 = r.code := field_of_field (lo := 9) (k := 4) (n := 7) f9_7 (by decide) (by omega)
  have f10_3 : bits w 10 3 = c := field_of_field (lo := 9) (k := 1) (n := 7) f9_7 (by decide) (by omega)
  have g9 : bit w 9 = sat := bit_of_field (lo := 9) (k := 0) (n := 7) f9_7 (by decide) (by omega)
  unfold decodeS
  rw [f24_6]
  show decodeHfma2 w = _
  simp only [decodeHfma2, f24_6, f20_4, f16_4, f13_3, f10_3, f0_9, g9, Src.ofCode_code h0, Src.ofCode_code h1, h2, Target.ofCode_code h3, Rnd.ofCode_code, require, bind, Except.bind, beq_self_eq_true, if_true, decide_true, decide_eq_true_eq]
  try rfl

theorem ex2 (a : Src) (t : Target) : Statement (.ex2 a t) := by
  refine s_statement rfl rfl fun hw => ?_
  have hw : (a.wf && t.wf) = true := hw
  simp only [Bool.and_eq_true, decide_eq_true_eq] at hw
  obtain ⟨h0, h1⟩ := hw
  have c0 := Src.code_lt h0
  have c1 := Target.code_lt h1
  refine ⟨by decide, by omega, by decide, by decide, by omega, fun w f24_6 f20_4 f16_4 f9_7 f0_9 => ?_⟩
  have f13_3 : bits w 13 3 = 0 := field_of_field (lo := 9) (k := 4) (n := 7) f9_7 (by decide) (by omega)
  unfold decodeS
  rw [f24_6]
  show decodeGroupS30 w = _
  unfold decodeGroupS30
  rw [f13_3]
  show decodeEx2 w = _
  simp only [decodeEx2, f24_6, f13_3, f16_4, f9_7, f20_4, f0_9, Src.ofCode_code h0, Target.ofCode_code h1, require, bind, Except.bind, beq_self_eq_true, if_true, decide_true, decide_eq_true_eq]
  try rfl

theorem lg2 (a : Src) (t : Target) : Statement (.lg2 a t) := by
  refine s_statement rfl rfl fun hw => ?_
  have hw : (a.wf && t.wf) = true := hw
  simp only [Bool.and_eq_true, decide_eq_true_eq] at hw
  obtain ⟨h0, h1⟩ := hw
  have c0 := Src.code_lt h0
  have c1 := Target.code_lt h1
  refine ⟨by decide, by omega, by decide, by decide, by omega, fun w f24_6 f20_4 f16_4 f9_7 f0_9 => ?_⟩
  have f13_3 : bits w 13 3 = 1 := field_of_field (lo := 9) (k := 4) (n := 7) f9_7 (by decide) (by omega)
  unfold decodeS
  rw [f24_6]
  show decodeGroupS30 w = _
  unfold decodeGroupS30
  rw [f13_3]
  show decodeLg2 w = _
  simp only [decodeLg2, f24_6, f13_3, f16_4, f9_7, f20_4, f0_9, Src.ofCode_code h0, Target.ofCode_code h1, require, bind, Except.bind, beq_self_eq_true, if_true, decide_true, decide_eq_true_eq]
  try rfl

theorem rcp (a : Src) (t : Target) : Statement (.rcp a t) := by
  refine s_statement rfl rfl fun hw => ?_
  have hw : (a.wf && t.wf) = true := hw
  simp only [Bool.and_eq_true, decide_eq_true_eq] at hw
  obtain ⟨h0, h1⟩ := hw
  have c0 := Src.code_lt h0
  have c1 := Target.code_lt h1
  refine ⟨by decide, by omega, by decide, by decide, by omega, fun w f24_6 f20_4 f16_4 f9_7 f0_9 => ?_⟩
  have f13_3 : bits w 13 3 = 2 := field_of_field (lo := 9) (k := 4) (n := 7) f9_7 (by decide) (by omega)
  unfold decodeS
  rw [f24_6]
  show decodeGroupS30 w = _
  unfold decodeGroupS30
  rw [f13_3]
  show decodeRcp w = _
  simp only [decodeRcp, f24_6, f13_3, f16_4, f9_7, f20_4, f0_9, Src.ofCode_code h0, Target.ofCode_code h1, require, bind, Except.bind, beq_self_eq_true, if_true, decide_true, decide_eq_true_eq]
  try rfl

theorem rsq (a : Src) (t : Target) : Statement (.rsq a t) := by
  refine s_statement rfl rfl fun hw => ?_
  have hw : (a.wf && t.wf) = true := hw
  simp only [Bool.and_eq_true, decide_eq_true_eq] at hw
  obtain ⟨h0, h1⟩ := hw
  have c0 := Src.code_lt h0
  have c1 := Target.code_lt h1
  refine ⟨by decide, by omega, by decide, by decide, by omega, fun w f24_6 f20_4 f16_4 f9_7 f0_9 => ?_⟩
  have f13_3 : bits w 13 3 = 3 := field_of_field (lo := 9) (k := 4) (n := 7) f9_7 (by decide) (by omega)
  unfold decodeS
  rw [f24_6]
  show decodeGroupS30 w = _
  unfold decodeGroupS30
  rw [f13_3]
  show decodeRsq w = _
  simp only [decodeRsq, f24_6, f13_3, f16_4, f9_7, f20_4, f0_9, Src.ofCode_code h0, Target.ofCode_code h1, require, bind, Except.bind, beq_self_eq_true, if_true, decide_true, decide_eq_true_eq]
  try rfl

theorem sqrt (a : Src) (t : Target) : Statement (.sqrt a t) := by
  refine s_statement rfl rfl fun hw => ?_
  have hw : (a.wf && t.wf) = true := hw
  simp only [Bool.and_eq_true, decide_eq_true_eq] at hw
  obtain ⟨h0, h1⟩ := hw
  have c0 := Src.code_lt h0
  have c1 := Target.code_lt h1
  refine ⟨by decide, by omega, by decide, by decide, by omega, fun w f24_6 f20_4 f16_4 f9_7 f0_9 => ?_⟩
  have f13_3 : bits w 13 3 = 4 := field_of_field (lo := 9) (k := 4) (n := 7) f9_7 (by decide) (by omega)
  unfold decodeS
  rw [f24_6]
  show decodeGroupS30 w = _
  unfold decodeGroupS30
  rw [f13_3]
  show decodeSqrt w = _
  simp only [decodeSqrt, f24_6, f13_3, f16_4, f9_7, f20_4, f0_9, Src.ofCode_code h0, Target.ofCode_code h1, require, bind, Except.bind, beq_self_eq_true, if_true, decide_true, decide_eq_true_eq]
  try rfl

theorem sin (a : Src) (t : Target) : Statement (.sin a t) := by
  refine s_statement rfl rfl fun hw => ?_
  have hw : (a.wf && t.wf) = true := hw
  simp only [Bool.and_eq_true, decide_eq_true_eq] at hw
  obtain ⟨h0, h1⟩ := hw
  have c0 := Src.code_lt h0
  have c1 := Target.code_lt h1
  refine ⟨by decide, by omega, by decide, by decide, by omega, fun w f24_6 f20_4 f16_4 f9_7 f0_9 => ?_⟩
  have f13_3 : bits w 13 3 = 5 := field_of_field (lo := 9) (k := 4) (n := 7) f9_7 (by decide) (by omega)
  unfold decodeS
  rw [f24_6]
  show decodeGroupS30 w = _
  unfold decodeGroupS30
  rw [f13_3]
  show decodeSin w = _
  simp only [decodeSin, f24_6, f13_3, f16_4, f9_7, f20_4, f0_9, Src.ofCode_code h0, Target.ofCode_code h1, require, bind, Except.bind, beq_self_eq_true, if_true, decide_true, decide_eq_true_eq]
  try rfl

theorem cos (a : Src) (t : Target) : Statement (.cos a t) := by
  refine s_statement rfl rfl fun hw => ?_
  have hw : (a.wf && t.wf) = true := hw
  simp only [Bool.and_eq_true, decide_eq_true_eq] at hw
  obtain ⟨h0, h1⟩ := hw
  have c0 := Src.code_lt h0
  have c1 := Target.code_lt h1
  refine ⟨by decide, by omega, by decide, by decide, by omega, fun w f24_6 f20_4 f16_4 f9_7 f0_9 => ?_⟩
  have f13_3 : bits w 13 3 = 6 := field_of_field (lo := 9) (k := 4) (n := 7) f9_7 (by decide) (by omega)
  unfold decodeS
  rw [f24_6]
  show decodeGroupS30 w = _
  unfold decodeGroupS30
  rw [f13_3]
  show decodeCos w = _
  simp only [decodeCos, f24_6, f13_3, f16_4, f9_7, f20_4, f0_9, Src.ofCode_code h0, Target.ofCode_code h1, require, bind, Except.bind, beq_self_eq_true, if_true, decide_true, decide_eq_true_eq]
  try rfl

theorem tanh (a : Src) (t : Target) : Statement (.tanh a t) := by
  refine s_statement rfl rfl fun hw => ?_
  have hw : (a.wf && t.wf) = true := hw
  simp only [Bool.and_eq_true, decide_eq_true_eq] at hw
  obtain ⟨h0, h1⟩ := hw
  have c0 := Src.code_lt h0
  have c1 := Target.code_lt h1
  refine ⟨by decide, by omega, by decide, by decide, by omega, fun w f24_6 f20_4 f16_4 f9_7 f0_9 => ?_⟩
  have f13_3 : bits w 13 3 = 7 := field_of_field (lo := 9) (k := 4) (n := 7) f9_7 (by decide) (by omega)
  unfold decodeS
  rw [f24_6]
  show decodeGroupS30 w = _
  unfold decodeGroupS30
  rw [f13_3]
  show decodeTanh w = _
  simp only [decodeTanh, f24_6, f13_3, f16_4, f9_7, f20_4, f0_9, Src.ofCode_code h0, Target.ofCode_code h1, require, bind, Except.bind, beq_self_eq_true, if_true, decide_true, decide_eq_true_eq]
  try rfl

theorem fdiv (a : Src) (b : Src) (f : Fmt) (r : Rnd) (sat : Bool) (t : Target) : Statement (.fdiv a b f r sat t) := by
  refine s_statement rfl rfl fun hw => ?_
  have hw : (a.wf && b.wf && fmtIn f [.f32, .bf16, .f16] && t.wf) = true := hw
  simp only [Bool.and_eq_true, decide_eq_true_eq] at hw
  obtain ⟨⟨⟨h0, h1⟩, h2⟩, h3⟩ := hw
  have c0 := Src.code_lt h0
  have c1 := Src.code_lt h1
  have c3 := Target.code_lt h3
  have c_f := Fmt.code_lt f
  have c_r := Rnd.code_lt r
  have c_sat := boolCode_lt sat
  refine ⟨by decide, by omega, by omega, by omega, by omega, fun w f24_6 f20_4 f16_4 f9_7 f0_9 => ?_⟩
  have f13_3 : bits w 13 3 = f.code := field_of_field (lo := 9) (k := 4) (n := 7) f9_7 (by decide) (by omega)
  have f10_3 : bits w 10 3 = r.code := field_of_field (lo := 9) (k := 1) (n := 7) f9_7 (by decide) (by omega)
  have g9 : bit w 9 = sat := bit_of_field (lo := 9) (k := 0) (n := 7) f9_7 (by decide) (by omega)
  unfold decodeS
  rw [f24_6]
  show decodeFdiv w = _
  simp only [decodeFdiv, f24_6, f20_4, f16_4, f13_3, f10_3, f0_9, g9, Src.ofCode_code h0, Src.ofCode_code h1, h2, Target.ofCode_code h3, Fmt.ofCode_code, Rnd.ofCode_code, require, bind, Except.bind, beq_self_eq_true, if_true, decide_true, decide_eq_true_eq]
  try rfl

theorem lred (a : Src) (o : RedOp) (t : Target) : Statement (.lred a o t) := by
  refine s_statement rfl rfl fun hw => ?_
  have hw : (a.wf && t.wf) = true := hw
  simp only [Bool.and_eq_true, decide_eq_true_eq] at hw
  obtain ⟨h0, h1⟩ := hw
  have c0 := Src.code_lt h0
  have c1 := Target.code_lt h1
  have c_o := RedOp.code_lt o
  refine ⟨by decide, by omega, by decide, by omega, by omega, fun w f24_6 f20_4 f16_4 f9_7 f0_9 => ?_⟩
  have f9_4 : bits w 9 4 = 0 := field_of_field (lo := 9) (k := 0) (n := 7) f9_7 (by decide) (by omega)
  have f13_3 : bits w 13 3 = o.code := field_of_field (lo := 9) (k := 4) (n := 7) f9_7 (by decide) (by omega)
  unfold decodeS
  rw [f24_6]
  show decodeLred w = _
  simp only [decodeLred, f24_6, f16_4, f9_4, f20_4, f13_3, f0_9, Src.ofCode_code h0, Target.ofCode_code h1, RedOp.ofCode_code, require, bind, Except.bind, beq_self_eq_true, if_true, decide_true, decide_eq_true_eq]
  try rfl

theorem lscan (a : Src) (o : RedOp) (t : Target) : Statement (.lscan a o t) := by
  refine s_statement rfl rfl fun hw => ?_
  have hw : (a.wf && t.wf) = true := hw
  simp only [Bool.and_eq_true, decide_eq_true_eq] at hw
  obtain ⟨h0, h1⟩ := hw
  have c0 := Src.code_lt h0
  have c1 := Target.code_lt h1
  have c_o := RedOp.code_lt o
  refine ⟨by decide, by omega, by decide, by omega, by omega, fun w f24_6 f20_4 f16_4 f9_7 f0_9 => ?_⟩
  have f9_4 : bits w 9 4 = 0 := field_of_field (lo := 9) (k := 0) (n := 7) f9_7 (by decide) (by omega)
  have f13_3 : bits w 13 3 = o.code := field_of_field (lo := 9) (k := 4) (n := 7) f9_7 (by decide) (by omega)
  unfold decodeS
  rw [f24_6]
  show decodeLscan w = _
  simp only [decodeLscan, f24_6, f16_4, f9_4, f20_4, f13_3, f0_9, Src.ofCode_code h0, Target.ofCode_code h1, RedOp.ofCode_code, require, bind, Except.bind, beq_self_eq_true, if_true, decide_true, decide_eq_true_eq]
  try rfl

theorem shuf (a : Src) (b : Src) (m : ShufMode) (t : Target) : Statement (.shuf a b m t) := by
  refine s_statement rfl rfl fun hw => ?_
  have hw : (a.wf && b.wf && t.wf) = true := hw
  simp only [Bool.and_eq_true, decide_eq_true_eq] at hw
  obtain ⟨⟨h0, h1⟩, h2⟩ := hw
  have c0 := Src.code_lt h0
  have c1 := Src.code_lt h1
  have c2 := Target.code_lt h2
  have c_m := ShufMode.code_lt m
  refine ⟨by decide, by omega, by omega, by omega, by omega, fun w f24_6 f20_4 f16_4 f9_7 f0_9 => ?_⟩
  have f9_5 : bits w 9 5 = 0 := field_of_field (lo := 9) (k := 0) (n := 7) f9_7 (by decide) (by omega)
  have f14_2 : bits w 14 2 = m.code := field_of_field (lo := 9) (k := 5) (n := 7) f9_7 (by decide) (by omega)
  unfold decodeS
  rw [f24_6]
  show decodeShuf w = _
  simp only [decodeShuf, f24_6, f9_5, f20_4, f16_4, f14_2, f0_9, Src.ofCode_code h0, Src.ofCode_code h1, Target.ofCode_code h2, ShufMode.ofCode_code, require, bind, Except.bind, beq_self_eq_true, if_true, decide_true, decide_eq_true_eq]
  try rfl

theorem lbc (a : Src) (b : Src) (t : Target) : Statement (.lbc a b t) := by
  refine s_statement rfl rfl fun hw => ?_
  have hw : (a.wf && b.wf && t.wf) = true := hw
  simp only [Bool.and_eq_true, decide_eq_true_eq] at hw
  obtain ⟨⟨h0, h1⟩, h2⟩ := hw
  have c0 := Src.code_lt h0
  have c1 := Src.code_lt h1
  have c2 := Target.code_lt h2
  refine ⟨by decide, by omega, by omega, by decide, by omega, fun w f24_6 f20_4 f16_4 f9_7 f0_9 => ?_⟩
  unfold decodeS
  rw [f24_6]
  show decodeLbc w = _
  simp only [decodeLbc, f24_6, f9_7, f20_4, f16_4, f0_9, Src.ofCode_code h0, Src.ofCode_code h1, Target.ofCode_code h2, require, bind, Except.bind, beq_self_eq_true, if_true, decide_true, decide_eq_true_eq]
  try rfl

theorem vdot (a : Src) (b : Src) (f : Fmt) (t : Target) : Statement (.vdot a b f t) := by
  refine s_statement rfl rfl fun hw => ?_
  have hw : (a.wf && b.wf && fmtIn f [.f32, .bf16, .f16, .e4m3, .e5m2] && t.wf) = true := hw
  simp only [Bool.and_eq_true, decide_eq_true_eq] at hw
  obtain ⟨⟨⟨h0, h1⟩, h2⟩, h3⟩ := hw
  have c0 := Src.code_lt h0
  have c1 := Src.code_lt h1
  have c3 := Target.code_lt h3
  have c_f := Fmt.code_lt f
  refine ⟨by decide, by omega, by omega, by omega, by omega, fun w f24_6 f20_4 f16_4 f9_7 f0_9 => ?_⟩
  have f9_4 : bits w 9 4 = 0 := field_of_field (lo := 9) (k := 0) (n := 7) f9_7 (by decide) (by omega)
  have f13_3 : bits w 13 3 = f.code := field_of_field (lo := 9) (k := 4) (n := 7) f9_7 (by decide) (by omega)
  unfold decodeS
  rw [f24_6]
  show decodeVdot w = _
  simp only [decodeVdot, f24_6, f9_4, f20_4, f16_4, f13_3, f0_9, Src.ofCode_code h0, Src.ofCode_code h1, h2, Target.ofCode_code h3, Fmt.ofCode_code, require, bind, Except.bind, beq_self_eq_true, if_true, decide_true, decide_eq_true_eq]
  try rfl

theorem tacc (a : Src) (b : Src) (t : Target) : Statement (.tacc a b t) := by
  refine s_statement rfl rfl fun hw => ?_
  have hw : (a.wf && b.wf && t.wf) = true := hw
  simp only [Bool.and_eq_true, decide_eq_true_eq] at hw
  obtain ⟨⟨h0, h1⟩, h2⟩ := hw
  have c0 := Src.code_lt h0
  have c1 := Src.code_lt h1
  have c2 := Target.code_lt h2
  refine ⟨by decide, by omega, by omega, by decide, by omega, fun w f24_6 f20_4 f16_4 f9_7 f0_9 => ?_⟩
  unfold decodeS
  rw [f24_6]
  show decodeTacc w = _
  simp only [decodeTacc, f24_6, f9_7, f20_4, f16_4, f0_9, Src.ofCode_code h0, Src.ofCode_code h1, Target.ofCode_code h2, require, bind, Except.bind, beq_self_eq_true, if_true, decide_true, decide_eq_true_eq]
  try rfl

theorem cbdec (a : Src) (f : Fmt) (entry : Nat) (hi : Bool) (t : Target) : Statement (.cbdec a f entry hi t) := by
  refine s_statement rfl rfl fun hw => ?_
  have hw : (a.wf && fmtIn f [.f32, .bf16] && decide (entry < 8) && t.wf && (f == .f32 || decide (entry < 4))) = true := hw
  simp only [Bool.and_eq_true, decide_eq_true_eq] at hw
  obtain ⟨⟨⟨⟨h0, h1⟩, h2⟩, h3⟩, h4⟩ := hw
  have c0 := Src.code_lt h0
  have c3 := Target.code_lt h3
  have c_f := Fmt.code_lt f
  have c_hi := boolCode_lt hi
  refine ⟨by decide, by omega, by decide, by omega, by omega, fun w f24_6 f20_4 f16_4 f9_7 f0_9 => ?_⟩
  have f13_3 : bits w 13 3 = f.code := field_of_field (lo := 9) (k := 4) (n := 7) f9_7 (by decide) (by omega)
  have f10_3 : bits w 10 3 = entry := field_of_field (lo := 9) (k := 1) (n := 7) f9_7 (by decide) (by omega)
  have g9 : bit w 9 = hi := bit_of_field (lo := 9) (k := 0) (n := 7) f9_7 (by decide) (by omega)
  unfold decodeS
  rw [f24_6]
  show decodeCbdec w = _
  simp only [decodeCbdec, f24_6, f16_4, f20_4, f13_3, f10_3, f0_9, g9, Src.ofCode_code h0, h1, h2, Target.ofCode_code h3, h4, Fmt.ofCode_code, require, bind, Except.bind, beq_self_eq_true, if_true, decide_true, decide_eq_true_eq]
  try rfl

theorem ltld (a : Src) (b : Src) : Statement (.ltld a b) := by
  refine s_statement rfl rfl fun hw => ?_
  have hw : (a.wf && b.wf) = true := hw
  simp only [Bool.and_eq_true, decide_eq_true_eq] at hw
  obtain ⟨h0, h1⟩ := hw
  have c0 := Src.code_lt h0
  have c1 := Src.code_lt h1
  refine ⟨by decide, by omega, by omega, by decide, by decide, fun w f24_6 f20_4 f16_4 f9_7 f0_9 => ?_⟩
  unfold decodeS
  rw [f24_6]
  show decodeLtld w = _
  simp only [decodeLtld, f24_6, f9_7, f0_9, f20_4, f16_4, Src.ofCode_code h0, Src.ofCode_code h1, require, bind, Except.bind, beq_self_eq_true, if_true, decide_true, decide_eq_true_eq]
  try rfl

theorem scacc (a : Src) (b : Src) (bf : Fmt) (c : Nat) (tbf16 : Bool) (t : Target) : Statement (.scacc a b bf c tbf16 t) := by
  refine s_statement rfl rfl fun hw => ?_
  have hw : (a.wf && b.wf && fmtIn bf [.e4m3, .e5m2, .e8m0] && decide (c < 8) && t.wf) = true := hw
  simp only [Bool.and_eq_true, decide_eq_true_eq] at hw
  obtain ⟨⟨⟨⟨h0, h1⟩, h2⟩, h3⟩, h4⟩ := hw
  have c0 := Src.code_lt h0
  have c1 := Src.code_lt h1
  have c4 := Target.code_lt h4
  have c_bf := Fmt.code_lt bf
  have c_tbf16 := boolCode_lt tbf16
  refine ⟨by decide, by omega, by omega, by omega, by omega, fun w f24_6 f20_4 f16_4 f9_7 f0_9 => ?_⟩
  have f13_3 : bits w 13 3 = bf.code := field_of_field (lo := 9) (k := 4) (n := 7) f9_7 (by decide) (by omega)
  have f10_3 : bits w 10 3 = c := field_of_field (lo := 9) (k := 1) (n := 7) f9_7 (by decide) (by omega)
  have g9 : bit w 9 = tbf16 := bit_of_field (lo := 9) (k := 0) (n := 7) f9_7 (by decide) (by omega)
  unfold decodeS
  rw [f24_6]
  show decodeScacc w = _
  simp only [decodeScacc, f24_6, f20_4, f16_4, f13_3, f10_3, f0_9, g9, Src.ofCode_code h0, Src.ofCode_code h1, h2, h3, Target.ofCode_code h4, Fmt.ofCode_code, require, bind, Except.bind, beq_self_eq_true, if_true, decide_true, decide_eq_true_eq]
  try rfl

theorem scmul (a : Src) (b : Src) (f : Fmt) (t : Target) : Statement (.scmul a b f t) := by
  refine s_statement rfl rfl fun hw => ?_
  have hw : (a.wf && b.wf && fmtIn f [.f32, .bf16, .e4m3, .e5m2, .e8m0] && t.wf) = true := hw
  simp only [Bool.and_eq_true, decide_eq_true_eq] at hw
  obtain ⟨⟨⟨h0, h1⟩, h2⟩, h3⟩ := hw
  have c0 := Src.code_lt h0
  have c1 := Src.code_lt h1
  have c3 := Target.code_lt h3
  have c_f := Fmt.code_lt f
  refine ⟨by decide, by omega, by omega, by omega, by omega, fun w f24_6 f20_4 f16_4 f9_7 f0_9 => ?_⟩
  have f9_4 : bits w 9 4 = 0 := field_of_field (lo := 9) (k := 0) (n := 7) f9_7 (by decide) (by omega)
  have f13_3 : bits w 13 3 = f.code := field_of_field (lo := 9) (k := 4) (n := 7) f9_7 (by decide) (by omega)
  unfold decodeS
  rw [f24_6]
  show decodeScmul w = _
  simp only [decodeScmul, f24_6, f9_4, f20_4, f16_4, f13_3, f0_9, Src.ofCode_code h0, Src.ofCode_code h1, h2, Target.ofCode_code h3, Fmt.ofCode_code, require, bind, Except.bind, beq_self_eq_true, if_true, decide_true, decide_eq_true_eq]
  try rfl

theorem amax (a : Src) (n : Nat) (t : Target) : Statement (.amax a n t) := by
  refine s_statement rfl rfl fun hw => ?_
  have hw : (a.wf && decide (n < 16) && t.wf) = true := hw
  simp only [Bool.and_eq_true, decide_eq_true_eq] at hw
  obtain ⟨⟨h0, h1⟩, h2⟩ := hw
  have c0 := Src.code_lt h0
  have c2 := Target.code_lt h2
  refine ⟨by decide, by omega, by decide, by omega, by omega, fun w f24_6 f20_4 f16_4 f9_7 f0_9 => ?_⟩
  have f9_3 : bits w 9 3 = 0 := field_of_field (lo := 9) (k := 0) (n := 7) f9_7 (by decide) (by omega)
  have f12_4 : bits w 12 4 = n := field_of_field (lo := 9) (k := 3) (n := 7) f9_7 (by decide) (by omega)
  unfold decodeS
  rw [f24_6]
  show decodeAmax w = _
  simp only [decodeAmax, f24_6, f16_4, f9_3, f20_4, f12_4, f0_9, Src.ofCode_code h0, h1, Target.ofCode_code h2, require, bind, Except.bind, beq_self_eq_true, if_true, decide_true, decide_eq_true_eq]
  try rfl

theorem rng (a : Src) (b : Src) (w : Nat) (f : RngForm) (t : Target) : Statement (.rng a b w f t) := by
  refine s_statement rfl rfl fun hw => ?_
  have hw : (a.wf && b.wf && decide (w < 4) && t.wf) = true := hw
  simp only [Bool.and_eq_true, decide_eq_true_eq] at hw
  obtain ⟨⟨⟨h0, h1⟩, h2⟩, h3⟩ := hw
  have c0 := Src.code_lt h0
  have c1 := Src.code_lt h1
  have c3 := Target.code_lt h3
  have c_f := RngForm.code_lt f
  refine ⟨by decide, by omega, by omega, by omega, by omega, fun wd f24_6 f20_4 f16_4 f9_7 f0_9 => ?_⟩
  have f9_3 : bits wd 9 3 = 0 := field_of_field (lo := 9) (k := 0) (n := 7) f9_7 (by decide) (by omega)
  have f14_2 : bits wd 14 2 = w := field_of_field (lo := 9) (k := 5) (n := 7) f9_7 (by decide) (by omega)
  have f12_2 : bits wd 12 2 = f.code := field_of_field (lo := 9) (k := 3) (n := 7) f9_7 (by decide) (by omega)
  unfold decodeS
  rw [f24_6]
  show decodeRng wd = _
  simp only [decodeRng, f24_6, f9_3, f20_4, f16_4, f14_2, f12_2, f0_9, Src.ofCode_code h0, Src.ofCode_code h1, h2, Target.ofCode_code h3, RngForm.ofCode_code, require, bind, Except.bind, beq_self_eq_true, if_true, decide_true, decide_eq_true_eq]
  try rfl

theorem li (i : Nat) (t : Target) : Statement (.li i t) := by
  refine i_statement rfl rfl fun hw => ?_
  have hw : (decide (i < 2048) && t.wf) = true := hw
  simp only [Bool.and_eq_true, decide_eq_true_eq] at hw
  obtain ⟨h0, h1⟩ := hw
  have c1 := Target.code_lt h1
  refine ⟨by decide, by decide, by omega, by omega, fun w next f24_6 f20_4 f9_11 f0_9 => ?_⟩
  unfold decodeI
  rw [f24_6]
  show decodeLi w = _
  simp only [decodeLi, f24_6, f20_4, f9_11, f0_9, h0, Target.ofCode_code h1, require, bind, Except.bind, beq_self_eq_true, if_true, decide_true, decide_eq_true_eq]
  try rfl

theorem lih (a : Src) (i : Nat) (t : Target) : Statement (.lih a i t) := by
  refine i_statement rfl rfl fun hw => ?_
  have hw : (a.wf && decide (i < 2048) && t.wf) = true := hw
  simp only [Bool.and_eq_true, decide_eq_true_eq] at hw
  obtain ⟨⟨h0, h1⟩, h2⟩ := hw
  have c0 := Src.code_lt h0
  have c2 := Target.code_lt h2
  refine ⟨by decide, by omega, by omega, by omega, fun w next f24_6 f20_4 f9_11 f0_9 => ?_⟩
  unfold decodeI
  rw [f24_6]
  show decodeLih w = _
  simp only [decodeLih, f24_6, f20_4, f9_11, f0_9, Src.ofCode_code h0, h1, Target.ofCode_code h2, require, bind, Except.bind, beq_self_eq_true, if_true, decide_true, decide_eq_true_eq]
  try rfl

theorem lit (word : Nat) (t : Target) : Statement (.lit word t) := by
  intro hw
  have hw : (t.wf && decide (word < 2 ^ 32)) = true := hw
  simp only [Bool.and_eq_true, decide_eq_true_eq] at hw
  obtain ⟨h0, h1⟩ := hw
  have c0 := Target.code_lt h0
  show ∀ next, decodeBlock (wordOfI 2 13 0 t.code) word = .ok (.lit word t)
  intro _
  generalize hx : wordOfI 2 13 0 t.code = w
  unfold wordOfI at hx
  have f30_2 : bits w 30 2 = 2 := by unfold bits; omega
  have f24_6 : bits w 24 6 = 2 := by unfold bits; omega
  have f20_4 : bits w 20 4 = 13 := by unfold bits; omega
  have f9_11 : bits w 9 11 = 0 := by unfold bits; omega
  have f0_9 : bits w 0 9 = t.code := by unfold bits; omega
  rw [decodeBlock_I word f30_2]
  simp only [decodeI, f24_6]
  simp only [decodeLit, f20_4, f9_11, f0_9, Target.ofCode_code h0, Nat.mod_eq_of_lt h1, require, bind, Except.bind, beq_self_eq_true, if_true]

theorem addi (a : Src) (i : Nat) (t : Target) : Statement (.addi a i t) := by
  refine i_statement rfl rfl fun hw => ?_
  have hw : (a.wf && decide (i < 2048) && t.wf) = true := hw
  simp only [Bool.and_eq_true, decide_eq_true_eq] at hw
  obtain ⟨⟨h0, h1⟩, h2⟩ := hw
  have c0 := Src.code_lt h0
  have c2 := Target.code_lt h2
  refine ⟨by decide, by omega, by omega, by omega, fun w next f24_6 f20_4 f9_11 f0_9 => ?_⟩
  unfold decodeI
  rw [f24_6]
  show decodeAddi w = _
  simp only [decodeAddi, f24_6, f20_4, f9_11, f0_9, Src.ofCode_code h0, h1, Target.ofCode_code h2, require, bind, Except.bind, beq_self_eq_true, if_true, decide_true, decide_eq_true_eq]
  try rfl

theorem andi (a : Src) (i : Nat) (t : Target) : Statement (.andi a i t) := by
  refine i_statement rfl rfl fun hw => ?_
  have hw : (a.wf && decide (i < 2048) && t.wf) = true := hw
  simp only [Bool.and_eq_true, decide_eq_true_eq] at hw
  obtain ⟨⟨h0, h1⟩, h2⟩ := hw
  have c0 := Src.code_lt h0
  have c2 := Target.code_lt h2
  refine ⟨by decide, by omega, by omega, by omega, fun w next f24_6 f20_4 f9_11 f0_9 => ?_⟩
  unfold decodeI
  rw [f24_6]
  show decodeAndi w = _
  simp only [decodeAndi, f24_6, f20_4, f9_11, f0_9, Src.ofCode_code h0, h1, Target.ofCode_code h2, require, bind, Except.bind, beq_self_eq_true, if_true, decide_true, decide_eq_true_eq]
  try rfl

theorem ori (a : Src) (i : Nat) (t : Target) : Statement (.ori a i t) := by
  refine i_statement rfl rfl fun hw => ?_
  have hw : (a.wf && decide (i < 2048) && t.wf) = true := hw
  simp only [Bool.and_eq_true, decide_eq_true_eq] at hw
  obtain ⟨⟨h0, h1⟩, h2⟩ := hw
  have c0 := Src.code_lt h0
  have c2 := Target.code_lt h2
  refine ⟨by decide, by omega, by omega, by omega, fun w next f24_6 f20_4 f9_11 f0_9 => ?_⟩
  unfold decodeI
  rw [f24_6]
  show decodeOri w = _
  simp only [decodeOri, f24_6, f20_4, f9_11, f0_9, Src.ofCode_code h0, h1, Target.ofCode_code h2, require, bind, Except.bind, beq_self_eq_true, if_true, decide_true, decide_eq_true_eq]
  try rfl

theorem xori (a : Src) (i : Nat) (t : Target) : Statement (.xori a i t) := by
  refine i_statement rfl rfl fun hw => ?_
  have hw : (a.wf && decide (i < 2048) && t.wf) = true := hw
  simp only [Bool.and_eq_true, decide_eq_true_eq] at hw
  obtain ⟨⟨h0, h1⟩, h2⟩ := hw
  have c0 := Src.code_lt h0
  have c2 := Target.code_lt h2
  refine ⟨by decide, by omega, by omega, by omega, fun w next f24_6 f20_4 f9_11 f0_9 => ?_⟩
  unfold decodeI
  rw [f24_6]
  show decodeXori w = _
  simp only [decodeXori, f24_6, f20_4, f9_11, f0_9, Src.ofCode_code h0, h1, Target.ofCode_code h2, require, bind, Except.bind, beq_self_eq_true, if_true, decide_true, decide_eq_true_eq]
  try rfl

theorem shli (a : Src) (i : Nat) (t : Target) : Statement (.shli a i t) := by
  refine i_statement rfl rfl fun hw => ?_
  have hw : (a.wf && decide (i < 32) && t.wf) = true := hw
  simp only [Bool.and_eq_true, decide_eq_true_eq] at hw
  obtain ⟨⟨h0, h1⟩, h2⟩ := hw
  have c0 := Src.code_lt h0
  have c2 := Target.code_lt h2
  refine ⟨by decide, by omega, by omega, by omega, fun w next f24_6 f20_4 f9_11 f0_9 => ?_⟩
  unfold decodeI
  rw [f24_6]
  show decodeShli w = _
  simp only [decodeShli, f24_6, f20_4, f9_11, f0_9, Src.ofCode_code h0, h1, Target.ofCode_code h2, require, bind, Except.bind, beq_self_eq_true, if_true, decide_true, decide_eq_true_eq]
  try rfl

theorem shri (a : Src) (i : Nat) (t : Target) : Statement (.shri a i t) := by
  refine i_statement rfl rfl fun hw => ?_
  have hw : (a.wf && decide (i < 32) && t.wf) = true := hw
  simp only [Bool.and_eq_true, decide_eq_true_eq] at hw
  obtain ⟨⟨h0, h1⟩, h2⟩ := hw
  have c0 := Src.code_lt h0
  have c2 := Target.code_lt h2
  refine ⟨by decide, by omega, by omega, by omega, fun w next f24_6 f20_4 f9_11 f0_9 => ?_⟩
  unfold decodeI
  rw [f24_6]
  show decodeShri w = _
  simp only [decodeShri, f24_6, f20_4, f9_11, f0_9, Src.ofCode_code h0, h1, Target.ofCode_code h2, require, bind, Except.bind, beq_self_eq_true, if_true, decide_true, decide_eq_true_eq]
  try rfl

theorem srai (a : Src) (i : Nat) (t : Target) : Statement (.srai a i t) := by
  refine i_statement rfl rfl fun hw => ?_
  have hw : (a.wf && decide (i < 32) && t.wf) = true := hw
  simp only [Bool.and_eq_true, decide_eq_true_eq] at hw
  obtain ⟨⟨h0, h1⟩, h2⟩ := hw
  have c0 := Src.code_lt h0
  have c2 := Target.code_lt h2
  refine ⟨by decide, by omega, by omega, by omega, fun w next f24_6 f20_4 f9_11 f0_9 => ?_⟩
  unfold decodeI
  rw [f24_6]
  show decodeSrai w = _
  simp only [decodeSrai, f24_6, f20_4, f9_11, f0_9, Src.ofCode_code h0, h1, Target.ofCode_code h2, require, bind, Except.bind, beq_self_eq_true, if_true, decide_true, decide_eq_true_eq]
  try rfl

theorem cmpeqi (a : Src) (i : Nat) (t : Target) : Statement (.cmpeqi a i t) := by
  refine i_statement rfl rfl fun hw => ?_
  have hw : (a.wf && decide (i < 2048) && t.wf) = true := hw
  simp only [Bool.and_eq_true, decide_eq_true_eq] at hw
  obtain ⟨⟨h0, h1⟩, h2⟩ := hw
  have c0 := Src.code_lt h0
  have c2 := Target.code_lt h2
  refine ⟨by decide, by omega, by omega, by omega, fun w next f24_6 f20_4 f9_11 f0_9 => ?_⟩
  unfold decodeI
  rw [f24_6]
  show decodeCmpeqi w = _
  simp only [decodeCmpeqi, f24_6, f20_4, f9_11, f0_9, Src.ofCode_code h0, h1, Target.ofCode_code h2, require, bind, Except.bind, beq_self_eq_true, if_true, decide_true, decide_eq_true_eq]
  try rfl

theorem cmplti (a : Src) (i : Nat) (t : Target) : Statement (.cmplti a i t) := by
  refine i_statement rfl rfl fun hw => ?_
  have hw : (a.wf && decide (i < 2048) && t.wf) = true := hw
  simp only [Bool.and_eq_true, decide_eq_true_eq] at hw
  obtain ⟨⟨h0, h1⟩, h2⟩ := hw
  have c0 := Src.code_lt h0
  have c2 := Target.code_lt h2
  refine ⟨by decide, by omega, by omega, by omega, fun w next f24_6 f20_4 f9_11 f0_9 => ?_⟩
  unfold decodeI
  rw [f24_6]
  show decodeCmplti w = _
  simp only [decodeCmplti, f24_6, f20_4, f9_11, f0_9, Src.ofCode_code h0, h1, Target.ofCode_code h2, require, bind, Except.bind, beq_self_eq_true, if_true, decide_true, decide_eq_true_eq]
  try rfl

theorem cmpltui (a : Src) (i : Nat) (t : Target) : Statement (.cmpltui a i t) := by
  refine i_statement rfl rfl fun hw => ?_
  have hw : (a.wf && decide (i < 2048) && t.wf) = true := hw
  simp only [Bool.and_eq_true, decide_eq_true_eq] at hw
  obtain ⟨⟨h0, h1⟩, h2⟩ := hw
  have c0 := Src.code_lt h0
  have c2 := Target.code_lt h2
  refine ⟨by decide, by omega, by omega, by omega, fun w next f24_6 f20_4 f9_11 f0_9 => ?_⟩
  unfold decodeI
  rw [f24_6]
  show decodeCmpltui w = _
  simp only [decodeCmpltui, f24_6, f20_4, f9_11, f0_9, Src.ofCode_code h0, h1, Target.ofCode_code h2, require, bind, Except.bind, beq_self_eq_true, if_true, decide_true, decide_eq_true_eq]
  try rfl

theorem mfs (i : Nat) (t : Target) : Statement (.mfs i t) := by
  refine i_statement rfl rfl fun hw => ?_
  have hw : (t.wf && mfsNumber i) = true := hw
  simp only [Bool.and_eq_true, decide_eq_true_eq] at hw
  obtain ⟨h0, h1⟩ := hw
  have c0 := Target.code_lt h0
  have c1 := mfsNumber_lt h1
  refine ⟨by decide, by decide, by omega, by omega, fun w next f24_6 f20_4 f9_11 f0_9 => ?_⟩
  unfold decodeI
  rw [f24_6]
  show decodeMfs w = _
  simp only [decodeMfs, f24_6, f20_4, f9_11, f0_9, Target.ofCode_code h0, h1, require, bind, Except.bind, beq_self_eq_true, if_true, decide_true, decide_eq_true_eq]
  try rfl

theorem ldp (a : Src) (i : Nat) (t : Target) : Statement (.ldp a i t) := by
  refine i_statement rfl rfl fun hw => ?_
  have hw : (a.wf && decide (i < 2048) && t.wf) = true := hw
  simp only [Bool.and_eq_true, decide_eq_true_eq] at hw
  obtain ⟨⟨h0, h1⟩, h2⟩ := hw
  have c0 := Src.code_lt h0
  have c2 := Target.code_lt h2
  refine ⟨by decide, by omega, by omega, by omega, fun w next f24_6 f20_4 f9_11 f0_9 => ?_⟩
  unfold decodeI
  rw [f24_6]
  show decodeLdp w = _
  simp only [decodeLdp, f24_6, f20_4, f9_11, f0_9, Src.ofCode_code h0, h1, Target.ofCode_code h2, require, bind, Except.bind, beq_self_eq_true, if_true, decide_true, decide_eq_true_eq]
  try rfl

theorem stp (a : Src) (i : Nat) : Statement (.stp a i) := by
  refine i_statement rfl rfl fun hw => ?_
  have hw : (a.wf && decide (i < 2048)) = true := hw
  simp only [Bool.and_eq_true, decide_eq_true_eq] at hw
  obtain ⟨h0, h1⟩ := hw
  have c0 := Src.code_lt h0
  refine ⟨by decide, by omega, by omega, by decide, fun w next f24_6 f20_4 f9_11 f0_9 => ?_⟩
  unfold decodeI
  rw [f24_6]
  show decodeStp w = _
  simp only [decodeStp, f24_6, f0_9, f20_4, f9_11, Src.ofCode_code h0, h1, require, bind, Except.bind, beq_self_eq_true, if_true, decide_true, decide_eq_true_eq]
  try rfl

theorem ld (a : Src) (base : Nat) (z : Size) (s : Nat) (t : Target) : Statement (.ld a base z s t) := by
  refine e_statement rfl rfl fun hw => ?_
  have hw : (a.wf && decide (base < 8) && decide (s < 4) && t.wf) = true := hw
  simp only [Bool.and_eq_true, decide_eq_true_eq] at hw
  obtain ⟨⟨⟨h0, h1⟩, h2⟩, h3⟩ := hw
  have c0 := Src.code_lt h0
  have c3 := Target.code_lt h3
  have c_z := Size.code_lt z
  refine ⟨by decide, by omega, by decide, by omega, by omega, fun w f24_6 f20_4 f16_4 f9_7 f0_9 => ?_⟩
  have f13_3 : bits w 13 3 = base := field_of_field (lo := 9) (k := 4) (n := 7) f9_7 (by decide) (by omega)
  have f11_2 : bits w 11 2 = z.code := field_of_field (lo := 9) (k := 2) (n := 7) f9_7 (by decide) (by omega)
  have f9_2 : bits w 9 2 = s := field_of_field (lo := 9) (k := 0) (n := 7) f9_7 (by decide) (by omega)
  unfold decodeE
  rw [f24_6]
  show decodeLd w = _
  simp only [decodeLd, f24_6, f16_4, f20_4, f13_3, f11_2, f9_2, f0_9, Src.ofCode_code h0, h1, h2, Target.ofCode_code h3, Size.ofCode_code, require, bind, Except.bind, beq_self_eq_true, if_true, decide_true, decide_eq_true_eq]
  try rfl

theorem st (a : Src) (b : Src) (base : Nat) (z : Size) (s : Nat) (t : Target) : Statement (.st a b base z s t) := by
  refine e_statement rfl rfl fun hw => ?_
  have hw : (a.wf && b.wf && decide (base < 8) && decide (s < 4) && t.wf) = true := hw
  simp only [Bool.and_eq_true, decide_eq_true_eq] at hw
  obtain ⟨⟨⟨⟨h0, h1⟩, h2⟩, h3⟩, h4⟩ := hw
  have c0 := Src.code_lt h0
  have c1 := Src.code_lt h1
  have c4 := Target.code_lt h4
  have c_z := Size.code_lt z
  refine ⟨by decide, by omega, by omega, by omega, by omega, fun w f24_6 f20_4 f16_4 f9_7 f0_9 => ?_⟩
  have f13_3 : bits w 13 3 = base := field_of_field (lo := 9) (k := 4) (n := 7) f9_7 (by decide) (by omega)
  have f11_2 : bits w 11 2 = z.code := field_of_field (lo := 9) (k := 2) (n := 7) f9_7 (by decide) (by omega)
  have f9_2 : bits w 9 2 = s := field_of_field (lo := 9) (k := 0) (n := 7) f9_7 (by decide) (by omega)
  unfold decodeE
  rw [f24_6]
  show decodeSt w = _
  simp only [decodeSt, f24_6, f20_4, f16_4, f13_3, f11_2, f9_2, f0_9, Src.ofCode_code h0, Src.ofCode_code h1, h2, h3, Target.ofCode_code h4, Size.ofCode_code, require, bind, Except.bind, beq_self_eq_true, if_true, decide_true, decide_eq_true_eq]
  try rfl

theorem ldch (a : Src) (b : Src) (base : Nat) (s : Nat) (t : Target) : Statement (.ldch a b base s t) := by
  refine e_statement rfl rfl fun hw => ?_
  have hw : (a.wf && b.wf && decide (base < 8) && decide (s < 4) && t.wf) = true := hw
  simp only [Bool.and_eq_true, decide_eq_true_eq] at hw
  obtain ⟨⟨⟨⟨h0, h1⟩, h2⟩, h3⟩, h4⟩ := hw
  have c0 := Src.code_lt h0
  have c1 := Src.code_lt h1
  have c4 := Target.code_lt h4
  refine ⟨by decide, by omega, by omega, by omega, by omega, fun w f24_6 f20_4 f16_4 f9_7 f0_9 => ?_⟩
  have f11_2 : bits w 11 2 = 2 := field_of_field (lo := 9) (k := 2) (n := 7) f9_7 (by decide) (by omega)
  have f13_3 : bits w 13 3 = base := field_of_field (lo := 9) (k := 4) (n := 7) f9_7 (by decide) (by omega)
  have f9_2 : bits w 9 2 = s := field_of_field (lo := 9) (k := 0) (n := 7) f9_7 (by decide) (by omega)
  unfold decodeE
  rw [f24_6]
  show decodeLdch w = _
  simp only [decodeLdch, f24_6, f11_2, f20_4, f16_4, f13_3, f9_2, f0_9, Src.ofCode_code h0, Src.ofCode_code h1, h2, h3, Target.ofCode_code h4, require, bind, Except.bind, beq_self_eq_true, if_true, decide_true, decide_eq_true_eq]
  try rfl

theorem pref (a : Src) (base : Nat) (z : Size) (s : Nat) : Statement (.pref a base z s) := by
  refine e_statement rfl rfl fun hw => ?_
  have hw : (a.wf && decide (base < 8) && decide (s < 4)) = true := hw
  simp only [Bool.and_eq_true, decide_eq_true_eq] at hw
  obtain ⟨⟨h0, h1⟩, h2⟩ := hw
  have c0 := Src.code_lt h0
  have c_z := Size.code_lt z
  refine ⟨by decide, by omega, by decide, by omega, by decide, fun w f24_6 f20_4 f16_4 f9_7 f0_9 => ?_⟩
  have f13_3 : bits w 13 3 = base := field_of_field (lo := 9) (k := 4) (n := 7) f9_7 (by decide) (by omega)
  have f11_2 : bits w 11 2 = z.code := field_of_field (lo := 9) (k := 2) (n := 7) f9_7 (by decide) (by omega)
  have f9_2 : bits w 9 2 = s := field_of_field (lo := 9) (k := 0) (n := 7) f9_7 (by decide) (by omega)
  unfold decodeE
  rw [f24_6]
  show decodePref w = _
  simp only [decodePref, f24_6, f16_4, f0_9, f20_4, f13_3, f11_2, f9_2, Src.ofCode_code h0, h1, h2, Size.ofCode_code, require, bind, Except.bind, beq_self_eq_true, if_true, decide_true, decide_eq_true_eq]
  try rfl

theorem sflush (a : Src) (b : Src) (base : Nat) (s : Nat) (t : Target) : Statement (.sflush a b base s t) := by
  refine e_statement rfl rfl fun hw => ?_
  have hw : (a.wf && b.wf && decide (base < 8) && decide (s < 4) && t.wf) = true := hw
  simp only [Bool.and_eq_true, decide_eq_true_eq] at hw
  obtain ⟨⟨⟨⟨h0, h1⟩, h2⟩, h3⟩, h4⟩ := hw
  have c0 := Src.code_lt h0
  have c1 := Src.code_lt h1
  have c4 := Target.code_lt h4
  refine ⟨by decide, by omega, by omega, by omega, by omega, fun w f24_6 f20_4 f16_4 f9_7 f0_9 => ?_⟩
  have f11_2 : bits w 11 2 = 0 := field_of_field (lo := 9) (k := 2) (n := 7) f9_7 (by decide) (by omega)
  have f13_3 : bits w 13 3 = base := field_of_field (lo := 9) (k := 4) (n := 7) f9_7 (by decide) (by omega)
  have f9_2 : bits w 9 2 = s := field_of_field (lo := 9) (k := 0) (n := 7) f9_7 (by decide) (by omega)
  unfold decodeE
  rw [f24_6]
  show decodeSflush w = _
  simp only [decodeSflush, f24_6, f11_2, f20_4, f16_4, f13_3, f9_2, f0_9, Src.ofCode_code h0, Src.ofCode_code h1, h2, h3, Target.ofCode_code h4, require, bind, Except.bind, beq_self_eq_true, if_true, decide_true, decide_eq_true_eq]
  try rfl

theorem sinv (a : Src) (b : Src) (base : Nat) (s : Nat) (t : Target) : Statement (.sinv a b base s t) := by
  refine e_statement rfl rfl fun hw => ?_
  have hw : (a.wf && b.wf && decide (base < 8) && decide (s < 4) && t.wf) = true := hw
  simp only [Bool.and_eq_true, decide_eq_true_eq] at hw
  obtain ⟨⟨⟨⟨h0, h1⟩, h2⟩, h3⟩, h4⟩ := hw
  have c0 := Src.code_lt h0
  have c1 := Src.code_lt h1
  have c4 := Target.code_lt h4
  refine ⟨by decide, by omega, by omega, by omega, by omega, fun w f24_6 f20_4 f16_4 f9_7 f0_9 => ?_⟩
  have f11_2 : bits w 11 2 = 0 := field_of_field (lo := 9) (k := 2) (n := 7) f9_7 (by decide) (by omega)
  have f13_3 : bits w 13 3 = base := field_of_field (lo := 9) (k := 4) (n := 7) f9_7 (by decide) (by omega)
  have f9_2 : bits w 9 2 = s := field_of_field (lo := 9) (k := 0) (n := 7) f9_7 (by decide) (by omega)
  unfold decodeE
  rw [f24_6]
  show decodeSinv w = _
  simp only [decodeSinv, f24_6, f11_2, f20_4, f16_4, f13_3, f9_2, f0_9, Src.ofCode_code h0, Src.ofCode_code h1, h2, h3, Target.ofCode_code h4, require, bind, Except.bind, beq_self_eq_true, if_true, decide_true, decide_eq_true_eq]
  try rfl

theorem amo (a : Src) (b : Src) (base : Nat) (o : AmoOp) (t : Target) : Statement (.amo a b base o t) := by
  refine e_statement rfl rfl fun hw => ?_
  have hw : (a.wf && b.wf && decide (base < 8) && t.wf) = true := hw
  simp only [Bool.and_eq_true, decide_eq_true_eq] at hw
  obtain ⟨⟨⟨h0, h1⟩, h2⟩, h3⟩ := hw
  have c0 := Src.code_lt h0
  have c1 := Src.code_lt h1
  have c3 := Target.code_lt h3
  have c_o := AmoOp.code_lt o
  refine ⟨by decide, by omega, by omega, by omega, by omega, fun w f24_6 f20_4 f16_4 f9_7 f0_9 => ?_⟩
  have f13_3 : bits w 13 3 = base := field_of_field (lo := 9) (k := 4) (n := 7) f9_7 (by decide) (by omega)
  have f9_4 : bits w 9 4 = o.code := field_of_field (lo := 9) (k := 0) (n := 7) f9_7 (by decide) (by omega)
  unfold decodeE
  rw [f24_6]
  show decodeAmo w = _
  simp only [decodeAmo, f24_6, f20_4, f16_4, f13_3, f9_4, f0_9, Src.ofCode_code h0, Src.ofCode_code h1, h2, Target.ofCode_code h3, AmoOp.ofCode_code, require, bind, Except.bind, beq_self_eq_true, if_true, decide_true, decide_eq_true_eq]
  try rfl

theorem cas (a : Src) (b : Src) (base : Nat) (d : Bool) (c : Nat) (t : Target) : Statement (.cas a b base d c t) := by
  refine e_statement rfl rfl fun hw => ?_
  have hw : (a.wf && b.wf && decide (base < 8) && decide (c < 8) && t.wf) = true := hw
  simp only [Bool.and_eq_true, decide_eq_true_eq] at hw
  obtain ⟨⟨⟨⟨h0, h1⟩, h2⟩, h3⟩, h4⟩ := hw
  have c0 := Src.code_lt h0
  have c1 := Src.code_lt h1
  have c4 := Target.code_lt h4
  have c_d := boolCode_lt d
  refine ⟨by decide, by omega, by omega, by omega, by omega, fun w f24_6 f20_4 f16_4 f9_7 f0_9 => ?_⟩
  have f13_3 : bits w 13 3 = base := field_of_field (lo := 9) (k := 4) (n := 7) f9_7 (by decide) (by omega)
  have f9_3 : bits w 9 3 = c := field_of_field (lo := 9) (k := 0) (n := 7) f9_7 (by decide) (by omega)
  have g12 : bit w 12 = d := bit_of_field (lo := 9) (k := 3) (n := 7) f9_7 (by decide) (by omega)
  unfold decodeE
  rw [f24_6]
  show decodeCas w = _
  simp only [decodeCas, f24_6, f20_4, f16_4, f13_3, f9_3, f0_9, g12, Src.ofCode_code h0, Src.ofCode_code h1, h2, h3, Target.ofCode_code h4, require, bind, Except.bind, beq_self_eq_true, if_true, decide_true, decide_eq_true_eq]
  try rfl

theorem amosc (a : Src) (b : Src) (base : Nat) (o : AmoOp) (t : Target) : Statement (.amosc a b base o t) := by
  refine e_statement rfl rfl fun hw => ?_
  have hw : (a.wf && b.wf && decide (base < 8) && t.wf) = true := hw
  simp only [Bool.and_eq_true, decide_eq_true_eq] at hw
  obtain ⟨⟨⟨h0, h1⟩, h2⟩, h3⟩ := hw
  have c0 := Src.code_lt h0
  have c1 := Src.code_lt h1
  have c3 := Target.code_lt h3
  have c_o := AmoOp.code_lt o
  refine ⟨by decide, by omega, by omega, by omega, by omega, fun w f24_6 f20_4 f16_4 f9_7 f0_9 => ?_⟩
  have f13_3 : bits w 13 3 = base := field_of_field (lo := 9) (k := 4) (n := 7) f9_7 (by decide) (by omega)
  have f9_4 : bits w 9 4 = o.code := field_of_field (lo := 9) (k := 0) (n := 7) f9_7 (by decide) (by omega)
  unfold decodeE
  rw [f24_6]
  show decodeAmosc w = _
  simp only [decodeAmosc, f24_6, f20_4, f16_4, f13_3, f9_4, f0_9, Src.ofCode_code h0, Src.ofCode_code h1, h2, Target.ofCode_code h3, AmoOp.ofCode_code, require, bind, Except.bind, beq_self_eq_true, if_true, decide_true, decide_eq_true_eq]
  try rfl

theorem amof (a : Src) (b : Src) (base : Nat) (o : AmofOp) (t : Target) : Statement (.amof a b base o t) := by
  refine e_statement rfl rfl fun hw => ?_
  have hw : (a.wf && b.wf && decide (base < 8) && t.wf) = true := hw
  simp only [Bool.and_eq_true, decide_eq_true_eq] at hw
  obtain ⟨⟨⟨h0, h1⟩, h2⟩, h3⟩ := hw
  have c0 := Src.code_lt h0
  have c1 := Src.code_lt h1
  have c3 := Target.code_lt h3
  have c_o := AmofOp.code_lt o
  refine ⟨by decide, by omega, by omega, by omega, by omega, fun w f24_6 f20_4 f16_4 f9_7 f0_9 => ?_⟩
  have f9_1 : bits w 9 1 = 0 := field_of_field (lo := 9) (k := 0) (n := 7) f9_7 (by decide) (by omega)
  have f13_3 : bits w 13 3 = base := field_of_field (lo := 9) (k := 4) (n := 7) f9_7 (by decide) (by omega)
  have f10_3 : bits w 10 3 = o.code := field_of_field (lo := 9) (k := 1) (n := 7) f9_7 (by decide) (by omega)
  unfold decodeE
  rw [f24_6]
  show decodeAmof w = _
  simp only [decodeAmof, f24_6, f9_1, f20_4, f16_4, f13_3, f10_3, f0_9, Src.ofCode_code h0, Src.ofCode_code h1, h2, Target.ofCode_code h3, AmofOp.ofCode_code, require, bind, Except.bind, beq_self_eq_true, if_true, decide_true, decide_eq_true_eq]
  try rfl

theorem hacq (a : Src) (base : Nat) (k : HKind) (t : Target) : Statement (.hacq a base k t) := by
  refine e_statement rfl rfl fun hw => ?_
  have hw : (a.wf && decide (base < 8) && t.wf) = true := hw
  simp only [Bool.and_eq_true, decide_eq_true_eq] at hw
  obtain ⟨⟨h0, h1⟩, h2⟩ := hw
  have c0 := Src.code_lt h0
  have c2 := Target.code_lt h2
  have c_k := HKind.code_lt k
  refine ⟨by decide, by omega, by decide, by omega, by omega, fun w f24_6 f20_4 f16_4 f9_7 f0_9 => ?_⟩
  have f9_2 : bits w 9 2 = 0 := field_of_field (lo := 9) (k := 0) (n := 7) f9_7 (by decide) (by omega)
  have f13_3 : bits w 13 3 = base := field_of_field (lo := 9) (k := 4) (n := 7) f9_7 (by decide) (by omega)
  have f11_2 : bits w 11 2 = k.code := field_of_field (lo := 9) (k := 2) (n := 7) f9_7 (by decide) (by omega)
  unfold decodeE
  rw [f24_6]
  show decodeHacq w = _
  simp only [decodeHacq, f24_6, f16_4, f9_2, f20_4, f13_3, f11_2, f0_9, Src.ofCode_code h0, h1, Target.ofCode_code h2, HKind.ofCode_code, require, bind, Except.bind, beq_self_eq_true, if_true, decide_true, decide_eq_true_eq]
  try rfl

theorem hrel (a : Src) (base : Nat) (k : HKind) (t : Target) : Statement (.hrel a base k t) := by
  refine e_statement rfl rfl fun hw => ?_
  have hw : (a.wf && decide (base < 8) && t.wf && k != .x) = true := hw
  simp only [Bool.and_eq_true, decide_eq_true_eq] at hw
  obtain ⟨⟨⟨h0, h1⟩, h2⟩, h3⟩ := hw
  have c0 := Src.code_lt h0
  have c2 := Target.code_lt h2
  have c_k := HKind.code_lt k
  refine ⟨by decide, by omega, by decide, by omega, by omega, fun w f24_6 f20_4 f16_4 f9_7 f0_9 => ?_⟩
  have f9_2 : bits w 9 2 = 0 := field_of_field (lo := 9) (k := 0) (n := 7) f9_7 (by decide) (by omega)
  have f13_3 : bits w 13 3 = base := field_of_field (lo := 9) (k := 4) (n := 7) f9_7 (by decide) (by omega)
  have f11_2 : bits w 11 2 = k.code := field_of_field (lo := 9) (k := 2) (n := 7) f9_7 (by decide) (by omega)
  unfold decodeE
  rw [f24_6]
  show decodeHrel w = _
  simp only [decodeHrel, f24_6, f16_4, f9_2, f20_4, f13_3, f11_2, f0_9, Src.ofCode_code h0, h1, Target.ofCode_code h2, h3, HKind.ofCode_code, require, bind, Except.bind, beq_self_eq_true, if_true, decide_true, decide_eq_true_eq]
  try rfl

theorem htry (a : Src) (base : Nat) (k : HKind) (t : Target) : Statement (.htry a base k t) := by
  refine e_statement rfl rfl fun hw => ?_
  have hw : (a.wf && decide (base < 8) && t.wf && k != .p) = true := hw
  simp only [Bool.and_eq_true, decide_eq_true_eq] at hw
  obtain ⟨⟨⟨h0, h1⟩, h2⟩, h3⟩ := hw
  have c0 := Src.code_lt h0
  have c2 := Target.code_lt h2
  have c_k := HKind.code_lt k
  refine ⟨by decide, by omega, by decide, by omega, by omega, fun w f24_6 f20_4 f16_4 f9_7 f0_9 => ?_⟩
  have f9_2 : bits w 9 2 = 0 := field_of_field (lo := 9) (k := 0) (n := 7) f9_7 (by decide) (by omega)
  have f13_3 : bits w 13 3 = base := field_of_field (lo := 9) (k := 4) (n := 7) f9_7 (by decide) (by omega)
  have f11_2 : bits w 11 2 = k.code := field_of_field (lo := 9) (k := 2) (n := 7) f9_7 (by decide) (by omega)
  unfold decodeE
  rw [f24_6]
  show decodeHtry w = _
  simp only [decodeHtry, f24_6, f16_4, f9_2, f20_4, f13_3, f11_2, f0_9, Src.ofCode_code h0, h1, Target.ofCode_code h2, h3, HKind.ofCode_code, require, bind, Except.bind, beq_self_eq_true, if_true, decide_true, decide_eq_true_eq]
  try rfl

theorem hbind (a : Src) (b : Src) (base : Nat) (t : Target) : Statement (.hbind a b base t) := by
  refine e_statement rfl rfl fun hw => ?_
  have hw : (a.wf && b.wf && decide (base < 8) && t.wf) = true := hw
  simp only [Bool.and_eq_true, decide_eq_true_eq] at hw
  obtain ⟨⟨⟨h0, h1⟩, h2⟩, h3⟩ := hw
  have c0 := Src.code_lt h0
  have c1 := Src.code_lt h1
  have c3 := Target.code_lt h3
  refine ⟨by decide, by omega, by omega, by omega, by omega, fun w f24_6 f20_4 f16_4 f9_7 f0_9 => ?_⟩
  have f9_4 : bits w 9 4 = 0 := field_of_field (lo := 9) (k := 0) (n := 7) f9_7 (by decide) (by omega)
  have f13_3 : bits w 13 3 = base := field_of_field (lo := 9) (k := 4) (n := 7) f9_7 (by decide) (by omega)
  unfold decodeE
  rw [f24_6]
  show decodeHbind w = _
  simp only [decodeHbind, f24_6, f9_4, f20_4, f16_4, f13_3, f0_9, Src.ofCode_code h0, Src.ofCode_code h1, h2, Target.ofCode_code h3, require, bind, Except.bind, beq_self_eq_true, if_true, decide_true, decide_eq_true_eq]
  try rfl

theorem hunb (a : Src) (b : Src) (base : Nat) (t : Target) : Statement (.hunb a b base t) := by
  refine e_statement rfl rfl fun hw => ?_
  have hw : (a.wf && b.wf && decide (base < 8) && t.wf) = true := hw
  simp only [Bool.and_eq_true, decide_eq_true_eq] at hw
  obtain ⟨⟨⟨h0, h1⟩, h2⟩, h3⟩ := hw
  have c0 := Src.code_lt h0
  have c1 := Src.code_lt h1
  have c3 := Target.code_lt h3
  refine ⟨by decide, by omega, by omega, by omega, by omega, fun w f24_6 f20_4 f16_4 f9_7 f0_9 => ?_⟩
  have f9_4 : bits w 9 4 = 0 := field_of_field (lo := 9) (k := 0) (n := 7) f9_7 (by decide) (by omega)
  have f13_3 : bits w 13 3 = base := field_of_field (lo := 9) (k := 4) (n := 7) f9_7 (by decide) (by omega)
  unfold decodeE
  rw [f24_6]
  show decodeHunb w = _
  simp only [decodeHunb, f24_6, f9_4, f20_4, f16_4, f13_3, f0_9, Src.ofCode_code h0, Src.ofCode_code h1, h2, Target.ofCode_code h3, require, bind, Except.bind, beq_self_eq_true, if_true, decide_true, decide_eq_true_eq]
  try rfl

theorem fence (a : Src) (s : Nat) (t : Target) : Statement (.fence a s t) := by
  refine e_statement rfl rfl fun hw => ?_
  have hw : (a.wf && decide (s < 4) && t.wf && (a == .latch || a == .zero)) = true := hw
  simp only [Bool.and_eq_true, decide_eq_true_eq] at hw
  obtain ⟨⟨⟨h0, h1⟩, h2⟩, h3⟩ := hw
  have c0 := Src.code_lt h0
  have c2 := Target.code_lt h2
  refine ⟨by decide, by omega, by decide, by omega, by omega, fun w f24_6 f20_4 f16_4 f9_7 f0_9 => ?_⟩
  have f9_5 : bits w 9 5 = 0 := field_of_field (lo := 9) (k := 0) (n := 7) f9_7 (by decide) (by omega)
  have f14_2 : bits w 14 2 = s := field_of_field (lo := 9) (k := 5) (n := 7) f9_7 (by decide) (by omega)
  unfold decodeE
  rw [f24_6]
  show decodeFence w = _
  simp only [decodeFence, f24_6, f16_4, f9_5, f20_4, f14_2, f0_9, Src.ofCode_code h0, h1, Target.ofCode_code h2, h3, require, bind, Except.bind, beq_self_eq_true, if_true, decide_true, decide_eq_true_eq]
  try rfl

theorem bar (a : Src) (b : Src) (h : Bool) (base : Nat) (t : Target) : Statement (.bar a b h base t) := by
  refine e_statement rfl rfl fun hw => ?_
  have hw : (a.wf && b.wf && decide (base < 8) && t.wf && (h || b == .zero)) = true := hw
  simp only [Bool.and_eq_true, decide_eq_true_eq] at hw
  obtain ⟨⟨⟨⟨h0, h1⟩, h2⟩, h3⟩, h4⟩ := hw
  have c0 := Src.code_lt h0
  have c1 := Src.code_lt h1
  have c3 := Target.code_lt h3
  have c_h := boolCode_lt h
  refine ⟨by decide, by omega, by omega, by omega, by omega, fun w f24_6 f20_4 f16_4 f9_7 f0_9 => ?_⟩
  have f9_3 : bits w 9 3 = 0 := field_of_field (lo := 9) (k := 0) (n := 7) f9_7 (by decide) (by omega)
  have f12_3 : bits w 12 3 = base := field_of_field (lo := 9) (k := 3) (n := 7) f9_7 (by decide) (by omega)
  have g15 : bit w 15 = h := bit_of_field (lo := 9) (k := 6) (n := 7) f9_7 (by decide) (by omega)
  unfold decodeE
  rw [f24_6]
  show decodeBar w = _
  simp only [decodeBar, f24_6, f9_3, f20_4, f16_4, f12_3, f0_9, g15, Src.ofCode_code h0, Src.ofCode_code h1, h2, Target.ofCode_code h3, h4, require, bind, Except.bind, beq_self_eq_true, if_true, decide_true, decide_eq_true_eq]
  try rfl

theorem wait (l : Nat) (s : Nat) (d : Nat) (m : Nat) (t : Target) : Statement (.wait l s d m t) := by
  refine e_statement rfl rfl fun hw => ?_
  have hw : (decide (l < 16) && decide (s < 16) && decide (d < 16) && decide (m < 8) && t.wf) = true := hw
  simp only [Bool.and_eq_true, decide_eq_true_eq] at hw
  obtain ⟨⟨⟨⟨h0, h1⟩, h2⟩, h3⟩, h4⟩ := hw
  have c4 := Target.code_lt h4
  refine ⟨by decide, by omega, by omega, by omega, by omega, fun w f24_6 f20_4 f16_4 f9_7 f0_9 => ?_⟩
  have f12_4 : bits w 12 4 = d := field_of_field (lo := 9) (k := 3) (n := 7) f9_7 (by decide) (by omega)
  have f9_3 : bits w 9 3 = m := field_of_field (lo := 9) (k := 0) (n := 7) f9_7 (by decide) (by omega)
  unfold decodeE
  rw [f24_6]
  show decodeWait w = _
  simp only [decodeWait, f24_6, f20_4, f16_4, f12_4, f9_3, f0_9, h0, h1, h2, h3, Target.ofCode_code h4, require, bind, Except.bind, beq_self_eq_true, if_true, decide_true, decide_eq_true_eq]
  try rfl

theorem give (a : Src) (eng : Nat) : Statement (.give a eng) := by
  refine e_statement rfl rfl fun hw => ?_
  have hw : (a.wf && decide (1 ≤ eng) && decide (eng ≤ 8)) = true := hw
  simp only [Bool.and_eq_true, decide_eq_true_eq] at hw
  obtain ⟨⟨h0, h1⟩, h2⟩ := hw
  have c0 := Src.code_lt h0
  refine ⟨by decide, by omega, by decide, by omega, by decide, fun w f24_6 f20_4 f16_4 f9_7 f0_9 => ?_⟩
  have f9_3 : bits w 9 3 = 0 := field_of_field (lo := 9) (k := 0) (n := 7) f9_7 (by decide) (by omega)
  have f12_4 : bits w 12 4 = eng := field_of_field (lo := 9) (k := 3) (n := 7) f9_7 (by decide) (by omega)
  unfold decodeE
  rw [f24_6]
  show decodeGive w = _
  simp only [decodeGive, f24_6, f16_4, f9_3, f0_9, f20_4, f12_4, Src.ofCode_code h0, h1, h2, require, bind, Except.bind, beq_self_eq_true, if_true, decide_true, decide_eq_true_eq]
  try rfl

theorem qrsv (a : Src) (np : Nat) (t : Target) : Statement (.qrsv a np t) := by
  refine e_statement rfl rfl fun hw => ?_
  have hw : (a.wf && decide (np < 128) && t.wf) = true := hw
  simp only [Bool.and_eq_true, decide_eq_true_eq] at hw
  obtain ⟨⟨h0, h1⟩, h2⟩ := hw
  have c0 := Src.code_lt h0
  have c2 := Target.code_lt h2
  refine ⟨by decide, by omega, by decide, by omega, by omega, fun w f24_6 f20_4 f16_4 f9_7 f0_9 => ?_⟩
  unfold decodeE
  rw [f24_6]
  show decodeQrsv w = _
  simp only [decodeQrsv, f24_6, f16_4, f20_4, f9_7, f0_9, Src.ofCode_code h0, h1, Target.ofCode_code h2, require, bind, Except.bind, beq_self_eq_true, if_true, decide_true, decide_eq_true_eq]
  try rfl

theorem qpost (a : Src) : Statement (.qpost a) := by
  refine e_statement rfl rfl fun hw => ?_
  have hw : (a.wf) = true := hw
  have h0 := hw
  have c0 := Src.code_lt h0
  refine ⟨by decide, by omega, by decide, by decide, by decide, fun w f24_6 f20_4 f16_4 f9_7 f0_9 => ?_⟩
  unfold decodeE
  rw [f24_6]
  show decodeQpost w = _
  simp only [decodeQpost, f24_6, f16_4, f9_7, f0_9, f20_4, Src.ofCode_code h0, require, bind, Except.bind, beq_self_eq_true, if_true, decide_true, decide_eq_true_eq]
  try rfl

theorem qtake (a : Src) (np : Nat) (t : Target) : Statement (.qtake a np t) := by
  refine e_statement rfl rfl fun hw => ?_
  have hw : (a.wf && decide (np < 128) && t.wf) = true := hw
  simp only [Bool.and_eq_true, decide_eq_true_eq] at hw
  obtain ⟨⟨h0, h1⟩, h2⟩ := hw
  have c0 := Src.code_lt h0
  have c2 := Target.code_lt h2
  refine ⟨by decide, by omega, by decide, by omega, by omega, fun w f24_6 f20_4 f16_4 f9_7 f0_9 => ?_⟩
  unfold decodeE
  rw [f24_6]
  show decodeQtake w = _
  simp only [decodeQtake, f24_6, f16_4, f20_4, f9_7, f0_9, Src.ofCode_code h0, h1, Target.ofCode_code h2, require, bind, Except.bind, beq_self_eq_true, if_true, decide_true, decide_eq_true_eq]
  try rfl

theorem qfree (a : Src) : Statement (.qfree a) := by
  refine e_statement rfl rfl fun hw => ?_
  have hw : (a.wf) = true := hw
  have h0 := hw
  have c0 := Src.code_lt h0
  refine ⟨by decide, by omega, by decide, by decide, by decide, fun w f24_6 f20_4 f16_4 f9_7 f0_9 => ?_⟩
  unfold decodeE
  rw [f24_6]
  show decodeQfree w = _
  simp only [decodeQfree, f24_6, f16_4, f9_7, f0_9, f20_4, Src.ofCode_code h0, require, bind, Except.bind, beq_self_eq_true, if_true, decide_true, decide_eq_true_eq]
  try rfl

theorem qstat (a : Src) (t : Target) : Statement (.qstat a t) := by
  refine e_statement rfl rfl fun hw => ?_
  have hw : (a.wf && t.wf) = true := hw
  simp only [Bool.and_eq_true, decide_eq_true_eq] at hw
  obtain ⟨h0, h1⟩ := hw
  have c0 := Src.code_lt h0
  have c1 := Target.code_lt h1
  refine ⟨by decide, by omega, by decide, by decide, by omega, fun w f24_6 f20_4 f16_4 f9_7 f0_9 => ?_⟩
  unfold decodeE
  rw [f24_6]
  show decodeQstat w = _
  simp only [decodeQstat, f24_6, f16_4, f9_7, f20_4, f0_9, Src.ofCode_code h0, Target.ofCode_code h1, require, bind, Except.bind, beq_self_eq_true, if_true, decide_true, decide_eq_true_eq]
  try rfl

theorem dcopyG2p (a : Src) (ch : Nat) (t : Target) : Statement (.dcopyG2p a ch t) := by
  refine e_statement rfl rfl fun hw => ?_
  have hw : (a.wf && decide (ch < 4) && t.wf) = true := hw
  simp only [Bool.and_eq_true, decide_eq_true_eq] at hw
  obtain ⟨⟨h0, h1⟩, h2⟩ := hw
  have c0 := Src.code_lt h0
  have c2 := Target.code_lt h2
  refine ⟨by decide, by omega, by decide, by omega, by omega, fun w f24_6 f20_4 f16_4 f9_7 f0_9 => ?_⟩
  have f11_3 : bits w 11 3 = 0 := field_of_field (lo := 9) (k := 2) (n := 7) f9_7 (by decide) (by omega)
  have f9_5 : bits w 9 5 = 0 := field_of_field (lo := 9) (k := 0) (n := 7) f9_7 (by decide) (by omega)
  have f14_2 : bits w 14 2 = ch := field_of_field (lo := 9) (k := 5) (n := 7) f9_7 (by decide) (by omega)
  unfold decodeE
  rw [f24_6]
  show decodeGroupE1A w = _
  unfold decodeGroupE1A
  rw [f11_3]
  show decodeDcopyG2p w = _
  simp only [decodeDcopyG2p, f24_6, f11_3, f16_4, f9_5, f20_4, f14_2, f0_9, Src.ofCode_code h0, h1, Target.ofCode_code h2, require, bind, Except.bind, beq_self_eq_true, if_true, decide_true, decide_eq_true_eq]
  try rfl

theorem dcopyP2g (a : Src) (ch : Nat) (t : Target) : Statement (.dcopyP2g a ch t) := by
  refine e_statement rfl rfl fun hw => ?_
  have hw : (a.wf && decide (ch < 4) && t.wf) = true := hw
  simp only [Bool.and_eq_true, decide_eq_true_eq] at hw
  obtain ⟨⟨h0, h1⟩, h2⟩ := hw
  have c0 := Src.code_lt h0
  have c2 := Target.code_lt h2
  refine ⟨by decide, by omega, by decide, by omega, by omega, fun w f24_6 f20_4 f16_4 f9_7 f0_9 => ?_⟩
  have f11_3 : bits w 11 3 = 1 := field_of_field (lo := 9) (k := 2) (n := 7) f9_7 (by decide) (by omega)
  have f9_5 : bits w 9 5 = 4 := field_of_field (lo := 9) (k := 0) (n := 7) f9_7 (by decide) (by omega)
  have f14_2 : bits w 14 2 = ch := field_of_field (lo := 9) (k := 5) (n := 7) f9_7 (by decide) (by omega)
  unfold decodeE
  rw [f24_6]
  show decodeGroupE1A w = _
  unfold decodeGroupE1A
  rw [f11_3]
  show decodeDcopyP2g w = _
  simp only [decodeDcopyP2g, f24_6, f11_3, f16_4, f9_5, f20_4, f14_2, f0_9, Src.ofCode_code h0, h1, Target.ofCode_code h2, require, bind, Except.bind, beq_self_eq_true, if_true, decide_true, decide_eq_true_eq]
  try rfl

theorem dcopyP2p (a : Src) (ch : Nat) (t : Target) : Statement (.dcopyP2p a ch t) := by
  refine e_statement rfl rfl fun hw => ?_
  have hw : (a.wf && decide (ch < 4) && t.wf) = true := hw
  simp only [Bool.and_eq_true, decide_eq_true_eq] at hw
  obtain ⟨⟨h0, h1⟩, h2⟩ := hw
  have c0 := Src.code_lt h0
  have c2 := Target.code_lt h2
  refine ⟨by decide, by omega, by decide, by omega, by omega, fun w f24_6 f20_4 f16_4 f9_7 f0_9 => ?_⟩
  have f11_3 : bits w 11 3 = 2 := field_of_field (lo := 9) (k := 2) (n := 7) f9_7 (by decide) (by omega)
  have f9_5 : bits w 9 5 = 8 := field_of_field (lo := 9) (k := 0) (n := 7) f9_7 (by decide) (by omega)
  have f14_2 : bits w 14 2 = ch := field_of_field (lo := 9) (k := 5) (n := 7) f9_7 (by decide) (by omega)
  unfold decodeE
  rw [f24_6]
  show decodeGroupE1A w = _
  unfold decodeGroupE1A
  rw [f11_3]
  show decodeDcopyP2p w = _
  simp only [decodeDcopyP2p, f24_6, f11_3, f16_4, f9_5, f20_4, f14_2, f0_9, Src.ofCode_code h0, h1, Target.ofCode_code h2, require, bind, Except.bind, beq_self_eq_true, if_true, decide_true, decide_eq_true_eq]
  try rfl

theorem dcopyP2t (a : Src) (ch : Nat) (t : Target) : Statement (.dcopyP2t a ch t) := by
  refine e_statement rfl rfl fun hw => ?_
  have hw : (a.wf && decide (ch < 4) && t.wf) = true := hw
  simp only [Bool.and_eq_true, decide_eq_true_eq] at hw
  obtain ⟨⟨h0, h1⟩, h2⟩ := hw
  have c0 := Src.code_lt h0
  have c2 := Target.code_lt h2
  refine ⟨by decide, by omega, by decide, by omega, by omega, fun w f24_6 f20_4 f16_4 f9_7 f0_9 => ?_⟩
  have f11_3 : bits w 11 3 = 3 := field_of_field (lo := 9) (k := 2) (n := 7) f9_7 (by decide) (by omega)
  have f9_5 : bits w 9 5 = 12 := field_of_field (lo := 9) (k := 0) (n := 7) f9_7 (by decide) (by omega)
  have f14_2 : bits w 14 2 = ch := field_of_field (lo := 9) (k := 5) (n := 7) f9_7 (by decide) (by omega)
  unfold decodeE
  rw [f24_6]
  show decodeGroupE1A w = _
  unfold decodeGroupE1A
  rw [f11_3]
  show decodeDcopyP2t w = _
  simp only [decodeDcopyP2t, f24_6, f11_3, f16_4, f9_5, f20_4, f14_2, f0_9, Src.ofCode_code h0, h1, Target.ofCode_code h2, require, bind, Except.bind, beq_self_eq_true, if_true, decide_true, decide_eq_true_eq]
  try rfl

theorem dcopyApp (a : Src) (ch : Nat) (t : Target) : Statement (.dcopyApp a ch t) := by
  refine e_statement rfl rfl fun hw => ?_
  have hw : (a.wf && decide (ch < 4) && t.wf) = true := hw
  simp only [Bool.and_eq_true, decide_eq_true_eq] at hw
  obtain ⟨⟨h0, h1⟩, h2⟩ := hw
  have c0 := Src.code_lt h0
  have c2 := Target.code_lt h2
  refine ⟨by decide, by omega, by decide, by omega, by omega, fun w f24_6 f20_4 f16_4 f9_7 f0_9 => ?_⟩
  have f11_3 : bits w 11 3 = 4 := field_of_field (lo := 9) (k := 2) (n := 7) f9_7 (by decide) (by omega)
  have f9_5 : bits w 9 5 = 16 := field_of_field (lo := 9) (k := 0) (n := 7) f9_7 (by decide) (by omega)
  have f14_2 : bits w 14 2 = ch := field_of_field (lo := 9) (k := 5) (n := 7) f9_7 (by decide) (by omega)
  unfold decodeE
  rw [f24_6]
  show decodeGroupE1A w = _
  unfold decodeGroupE1A
  rw [f11_3]
  show decodeDcopyApp w = _
  simp only [decodeDcopyApp, f24_6, f11_3, f16_4, f9_5, f20_4, f14_2, f0_9, Src.ofCode_code h0, h1, Target.ofCode_code h2, require, bind, Except.bind, beq_self_eq_true, if_true, decide_true, decide_eq_true_eq]
  try rfl

theorem dgath (a : Src) (b : Src) (ch : Nat) (t : Target) : Statement (.dgath a b ch t) := by
  refine e_statement rfl rfl fun hw => ?_
  have hw : (a.wf && b.wf && decide (ch < 4) && t.wf) = true := hw
  simp only [Bool.and_eq_true, decide_eq_true_eq] at hw
  obtain ⟨⟨⟨h0, h1⟩, h2⟩, h3⟩ := hw
  have c0 := Src.code_lt h0
  have c1 := Src.code_lt h1
  have c3 := Target.code_lt h3
  refine ⟨by decide, by omega, by omega, by omega, by omega, fun w f24_6 f20_4 f16_4 f9_7 f0_9 => ?_⟩
  have f9_5 : bits w 9 5 = 0 := field_of_field (lo := 9) (k := 0) (n := 7) f9_7 (by decide) (by omega)
  have f14_2 : bits w 14 2 = ch := field_of_field (lo := 9) (k := 5) (n := 7) f9_7 (by decide) (by omega)
  unfold decodeE
  rw [f24_6]
  show decodeDgath w = _
  simp only [decodeDgath, f24_6, f9_5, f20_4, f16_4, f14_2, f0_9, Src.ofCode_code h0, Src.ofCode_code h1, h2, Target.ofCode_code h3, require, bind, Except.bind, beq_self_eq_true, if_true, decide_true, decide_eq_true_eq]
  try rfl

theorem dscat (a : Src) (b : Src) (ch : Nat) (t : Target) : Statement (.dscat a b ch t) := by
  refine e_statement rfl rfl fun hw => ?_
  have hw : (a.wf && b.wf && decide (ch < 4) && t.wf) = true := hw
  simp only [Bool.and_eq_true, decide_eq_true_eq] at hw
  obtain ⟨⟨⟨h0, h1⟩, h2⟩, h3⟩ := hw
  have c0 := Src.code_lt h0
  have c1 := Src.code_lt h1
  have c3 := Target.code_lt h3
  refine ⟨by decide, by omega, by omega, by omega, by omega, fun w f24_6 f20_4 f16_4 f9_7 f0_9 => ?_⟩
  have f9_5 : bits w 9 5 = 0 := field_of_field (lo := 9) (k := 0) (n := 7) f9_7 (by decide) (by omega)
  have f14_2 : bits w 14 2 = ch := field_of_field (lo := 9) (k := 5) (n := 7) f9_7 (by decide) (by omega)
  unfold decodeE
  rw [f24_6]
  show decodeDscat w = _
  simp only [decodeDscat, f24_6, f9_5, f20_4, f16_4, f14_2, f0_9, Src.ofCode_code h0, Src.ofCode_code h1, h2, Target.ofCode_code h3, require, bind, Except.bind, beq_self_eq_true, if_true, decide_true, decide_eq_true_eq]
  try rfl

theorem dhop (a : Src) (ch : Nat) (t : Target) : Statement (.dhop a ch t) := by
  refine e_statement rfl rfl fun hw => ?_
  have hw : (a.wf && decide (ch < 4) && t.wf) = true := hw
  simp only [Bool.and_eq_true, decide_eq_true_eq] at hw
  obtain ⟨⟨h0, h1⟩, h2⟩ := hw
  have c0 := Src.code_lt h0
  have c2 := Target.code_lt h2
  refine ⟨by decide, by omega, by decide, by omega, by omega, fun w f24_6 f20_4 f16_4 f9_7 f0_9 => ?_⟩
  have f9_5 : bits w 9 5 = 0 := field_of_field (lo := 9) (k := 0) (n := 7) f9_7 (by decide) (by omega)
  have f14_2 : bits w 14 2 = ch := field_of_field (lo := 9) (k := 5) (n := 7) f9_7 (by decide) (by omega)
  unfold decodeE
  rw [f24_6]
  show decodeDhop w = _
  simp only [decodeDhop, f24_6, f16_4, f9_5, f20_4, f14_2, f0_9, Src.ofCode_code h0, h1, Target.ofCode_code h2, require, bind, Except.bind, beq_self_eq_true, if_true, decide_true, decide_eq_true_eq]
  try rfl

theorem dbcst (a : Src) (ch : Nat) (tm : Bool) (t : Target) : Statement (.dbcst a ch tm t) := by
  refine e_statement rfl rfl fun hw => ?_
  have hw : (a.wf && decide (ch < 4) && t.wf) = true := hw
  simp only [Bool.and_eq_true, decide_eq_true_eq] at hw
  obtain ⟨⟨h0, h1⟩, h2⟩ := hw
  have c0 := Src.code_lt h0
  have c2 := Target.code_lt h2
  have c_tm := boolCode_lt tm
  refine ⟨by decide, by omega, by decide, by omega, by omega, fun w f24_6 f20_4 f16_4 f9_7 f0_9 => ?_⟩
  have f9_4 : bits w 9 4 = 0 := field_of_field (lo := 9) (k := 0) (n := 7) f9_7 (by decide) (by omega)
  have f14_2 : bits w 14 2 = ch := field_of_field (lo := 9) (k := 5) (n := 7) f9_7 (by decide) (by omega)
  have g13 : bit w 13 = tm := bit_of_field (lo := 9) (k := 4) (n := 7) f9_7 (by decide) (by omega)
  unfold decodeE
  rw [f24_6]
  show decodeDbcst w = _
  simp only [decodeDbcst, f24_6, f16_4, f9_4, f20_4, f14_2, f0_9, g13, Src.ofCode_code h0, h1, Target.ofCode_code h2, require, bind, Except.bind, beq_self_eq_true, if_true, decide_true, decide_eq_true_eq]
  try rfl

theorem dred (a : Src) (ch : Nat) (o : DredOp) (i32 : Bool) (t : Target) : Statement (.dred a ch o i32 t) := by
  refine e_statement rfl rfl fun hw => ?_
  have hw : (a.wf && decide (ch < 4) && t.wf) = true := hw
  simp only [Bool.and_eq_true, decide_eq_true_eq] at hw
  obtain ⟨⟨h0, h1⟩, h2⟩ := hw
  have c0 := Src.code_lt h0
  have c2 := Target.code_lt h2
  have c_o := DredOp.code_lt o
  have c_i32 := boolCode_lt i32
  refine ⟨by decide, by omega, by decide, by omega, by omega, fun w f24_6 f20_4 f16_4 f9_7 f0_9 => ?_⟩
  have f9_2 : bits w 9 2 = 0 := field_of_field (lo := 9) (k := 0) (n := 7) f9_7 (by decide) (by omega)
  have f14_2 : bits w 14 2 = ch := field_of_field (lo := 9) (k := 5) (n := 7) f9_7 (by decide) (by omega)
  have f12_2 : bits w 12 2 = o.code := field_of_field (lo := 9) (k := 3) (n := 7) f9_7 (by decide) (by omega)
  have g11 : bit w 11 = i32 := bit_of_field (lo := 9) (k := 2) (n := 7) f9_7 (by decide) (by omega)
  unfold decodeE
  rw [f24_6]
  show decodeDred w = _
  simp only [decodeDred, f24_6, f16_4, f9_2, f20_4, f14_2, f12_2, f0_9, g11, Src.ofCode_code h0, h1, Target.ofCode_code h2, DredOp.ofCode_code, require, bind, Except.bind, beq_self_eq_true, if_true, decide_true, decide_eq_true_eq]
  try rfl

theorem mma (a : Src) (pr : Pair) (ta : Bool) (tb : Bool) (chn : Bool) (t : Target) : Statement (.mma a pr ta tb chn t) := by
  refine e_statement rfl rfl fun hw => ?_
  have hw : (a.wf && t.wf && (!chn || pairChains pr)) = true := hw
  simp only [Bool.and_eq_true, decide_eq_true_eq] at hw
  obtain ⟨⟨h0, h1⟩, h2⟩ := hw
  have c0 := Src.code_lt h0
  have c1 := Target.code_lt h1
  have c_pr := Pair.code_lt pr
  have c_ta := boolCode_lt ta
  have c_tb := boolCode_lt tb
  have c_chn := boolCode_lt chn
  refine ⟨by decide, by omega, by decide, by omega, by omega, fun w f24_6 f20_4 f16_4 f9_7 f0_9 => ?_⟩
  have f12_4 : bits w 12 4 = pr.code := field_of_field (lo := 9) (k := 3) (n := 7) f9_7 (by decide) (by omega)
  have g9 : bit w 9 = chn := bit_of_field (lo := 9) (k := 0) (n := 7) f9_7 (by decide) (by omega)
  have g10 : bit w 10 = tb := bit_of_field (lo := 9) (k := 1) (n := 7) f9_7 (by decide) (by omega)
  have g11 : bit w 11 = ta := bit_of_field (lo := 9) (k := 2) (n := 7) f9_7 (by decide) (by omega)
  unfold decodeE
  rw [f24_6]
  show decodeMma w = _
  simp only [decodeMma, f24_6, f16_4, f20_4, f12_4, f0_9, g9, g10, g11, Src.ofCode_code h0, Target.ofCode_code h1, h2, Pair.ofCode_code, require, bind, Except.bind, beq_self_eq_true, if_true, decide_true, decide_eq_true_eq]
  try rfl

theorem mzero (a : Src) (t : Target) : Statement (.mzero a t) := by
  refine e_statement rfl rfl fun hw => ?_
  have hw : (a.wf && t.wf) = true := hw
  simp only [Bool.and_eq_true, decide_eq_true_eq] at hw
  obtain ⟨h0, h1⟩ := hw
  have c0 := Src.code_lt h0
  have c1 := Target.code_lt h1
  refine ⟨by decide, by omega, by decide, by decide, by omega, fun w f24_6 f20_4 f16_4 f9_7 f0_9 => ?_⟩
  unfold decodeE
  rw [f24_6]
  show decodeMzero w = _
  simp only [decodeMzero, f24_6, f16_4, f9_7, f20_4, f0_9, Src.ofCode_code h0, Target.ofCode_code h1, require, bind, Except.bind, beq_self_eq_true, if_true, decide_true, decide_eq_true_eq]
  try rfl

theorem mdrn (a : Src) (bias : Bool) (act : Bool) (rq : Bool) (amx : Bool) (tr : Bool) (t : Target) : Statement (.mdrn a bias act rq amx tr t) := by
  refine e_statement rfl rfl fun hw => ?_
  have hw : (a.wf && t.wf) = true := hw
  simp only [Bool.and_eq_true, decide_eq_true_eq] at hw
  obtain ⟨h0, h1⟩ := hw
  have c0 := Src.code_lt h0
  have c1 := Target.code_lt h1
  have c_bias := boolCode_lt bias
  have c_act := boolCode_lt act
  have c_rq := boolCode_lt rq
  have c_amx := boolCode_lt amx
  have c_tr := boolCode_lt tr
  refine ⟨by decide, by omega, by decide, by omega, by omega, fun w f24_6 f20_4 f16_4 f9_7 f0_9 => ?_⟩
  have f9_2 : bits w 9 2 = 0 := field_of_field (lo := 9) (k := 0) (n := 7) f9_7 (by decide) (by omega)
  have g11 : bit w 11 = tr := bit_of_field (lo := 9) (k := 2) (n := 7) f9_7 (by decide) (by omega)
  have g12 : bit w 12 = amx := bit_of_field (lo := 9) (k := 3) (n := 7) f9_7 (by decide) (by omega)
  have g13 : bit w 13 = rq := bit_of_field (lo := 9) (k := 4) (n := 7) f9_7 (by decide) (by omega)
  have g14 : bit w 14 = act := bit_of_field (lo := 9) (k := 5) (n := 7) f9_7 (by decide) (by omega)
  have g15 : bit w 15 = bias := bit_of_field (lo := 9) (k := 6) (n := 7) f9_7 (by decide) (by omega)
  unfold decodeE
  rw [f24_6]
  show decodeMdrn w = _
  simp only [decodeMdrn, f24_6, f16_4, f9_2, f20_4, f0_9, g11, g12, g13, g14, g15, Src.ofCode_code h0, Target.ofCode_code h1, require, bind, Except.bind, beq_self_eq_true, if_true, decide_true, decide_eq_true_eq]
  try rfl

theorem mlda (a : Src) (b : Src) (t : Target) : Statement (.mlda a b t) := by
  refine e_statement rfl rfl fun hw => ?_
  have hw : (a.wf && b.wf && t.wf) = true := hw
  simp only [Bool.and_eq_true, decide_eq_true_eq] at hw
  obtain ⟨⟨h0, h1⟩, h2⟩ := hw
  have c0 := Src.code_lt h0
  have c1 := Src.code_lt h1
  have c2 := Target.code_lt h2
  refine ⟨by decide, by omega, by omega, by decide, by omega, fun w f24_6 f20_4 f16_4 f9_7 f0_9 => ?_⟩
  unfold decodeE
  rw [f24_6]
  show decodeMlda w = _
  simp only [decodeMlda, f24_6, f9_7, f20_4, f16_4, f0_9, Src.ofCode_code h0, Src.ofCode_code h1, Target.ofCode_code h2, require, bind, Except.bind, beq_self_eq_true, if_true, decide_true, decide_eq_true_eq]
  try rfl

theorem etld (a : Src) (b : Src) (t : Target) : Statement (.etld a b t) := by
  refine e_statement rfl rfl fun hw => ?_
  have hw : (a.wf && b.wf && t.wf) = true := hw
  simp only [Bool.and_eq_true, decide_eq_true_eq] at hw
  obtain ⟨⟨h0, h1⟩, h2⟩ := hw
  have c0 := Src.code_lt h0
  have c1 := Src.code_lt h1
  have c2 := Target.code_lt h2
  refine ⟨by decide, by omega, by omega, by decide, by omega, fun w f24_6 f20_4 f16_4 f9_7 f0_9 => ?_⟩
  unfold decodeE
  rw [f24_6]
  show decodeEtld w = _
  simp only [decodeEtld, f24_6, f9_7, f20_4, f16_4, f0_9, Src.ofCode_code h0, Src.ofCode_code h1, Target.ofCode_code h2, require, bind, Except.bind, beq_self_eq_true, if_true, decide_true, decide_eq_true_eq]
  try rfl

theorem fold (a : Src) (b : Src) (t : Target) : Statement (.fold a b t) := by
  refine e_statement rfl rfl fun hw => ?_
  have hw : (a.wf && b.wf && t.wf) = true := hw
  simp only [Bool.and_eq_true, decide_eq_true_eq] at hw
  obtain ⟨⟨h0, h1⟩, h2⟩ := hw
  have c0 := Src.code_lt h0
  have c1 := Src.code_lt h1
  have c2 := Target.code_lt h2
  refine ⟨by decide, by omega, by omega, by decide, by omega, fun w f24_6 f20_4 f16_4 f9_7 f0_9 => ?_⟩
  unfold decodeE
  rw [f24_6]
  show decodeFold w = _
  simp only [decodeFold, f24_6, f9_7, f20_4, f16_4, f0_9, Src.ofCode_code h0, Src.ofCode_code h1, Target.ofCode_code h2, require, bind, Except.bind, beq_self_eq_true, if_true, decide_true, decide_eq_true_eq]
  try rfl

theorem ffin (a : Src) (t : Target) : Statement (.ffin a t) := by
  refine e_statement rfl rfl fun hw => ?_
  have hw : (a.wf && t.wf) = true := hw
  simp only [Bool.and_eq_true, decide_eq_true_eq] at hw
  obtain ⟨h0, h1⟩ := hw
  have c0 := Src.code_lt h0
  have c1 := Target.code_lt h1
  refine ⟨by decide, by omega, by decide, by decide, by omega, fun w f24_6 f20_4 f16_4 f9_7 f0_9 => ?_⟩
  unfold decodeE
  rw [f24_6]
  show decodeFfin w = _
  simp only [decodeFfin, f24_6, f16_4, f9_7, f20_4, f0_9, Src.ofCode_code h0, Target.ofCode_code h1, require, bind, Except.bind, beq_self_eq_true, if_true, decide_true, decide_eq_true_eq]
  try rfl

theorem ncfg (a : Src) (t : Target) : Statement (.ncfg a t) := by
  refine e_statement rfl rfl fun hw => ?_
  have hw : (a.wf && t.wf) = true := hw
  simp only [Bool.and_eq_true, decide_eq_true_eq] at hw
  obtain ⟨h0, h1⟩ := hw
  have c0 := Src.code_lt h0
  have c1 := Target.code_lt h1
  refine ⟨by decide, by omega, by decide, by decide, by omega, fun w f24_6 f20_4 f16_4 f9_7 f0_9 => ?_⟩
  unfold decodeE
  rw [f24_6]
  show decodeNcfg w = _
  simp only [decodeNcfg, f24_6, f16_4, f9_7, f20_4, f0_9, Src.ofCode_code h0, Target.ofCode_code h1, require, bind, Except.bind, beq_self_eq_true, if_true, decide_true, decide_eq_true_eq]
  try rfl

theorem brcfg (a : Src) (t : Target) : Statement (.brcfg a t) := by
  refine e_statement rfl rfl fun hw => ?_
  have hw : (a.wf && t.wf) = true := hw
  simp only [Bool.and_eq_true, decide_eq_true_eq] at hw
  obtain ⟨h0, h1⟩ := hw
  have c0 := Src.code_lt h0
  have c1 := Target.code_lt h1
  refine ⟨by decide, by omega, by decide, by decide, by omega, fun w f24_6 f20_4 f16_4 f9_7 f0_9 => ?_⟩
  have f15_1 : bits w 15 1 = 0 := field_of_field (lo := 9) (k := 6) (n := 7) f9_7 (by decide) (by omega)
  unfold decodeE
  rw [f24_6]
  show decodeGroupE28 w = _
  unfold decodeGroupE28
  rw [f15_1]
  show decodeBrcfg w = _
  simp only [decodeBrcfg, f24_6, f15_1, f16_4, f9_7, f20_4, f0_9, Src.ofCode_code h0, Target.ofCode_code h1, require, bind, Except.bind, beq_self_eq_true, if_true, decide_true, decide_eq_true_eq]
  try rfl

theorem brcfgStat (a : Src) (t : Target) : Statement (.brcfgStat a t) := by
  refine e_statement rfl rfl fun hw => ?_
  have hw : (a.wf && t.wf) = true := hw
  simp only [Bool.and_eq_true, decide_eq_true_eq] at hw
  obtain ⟨h0, h1⟩ := hw
  have c0 := Src.code_lt h0
  have c1 := Target.code_lt h1
  refine ⟨by decide, by omega, by decide, by decide, by omega, fun w f24_6 f20_4 f16_4 f9_7 f0_9 => ?_⟩
  have f15_1 : bits w 15 1 = 1 := field_of_field (lo := 9) (k := 6) (n := 7) f9_7 (by decide) (by omega)
  unfold decodeE
  rw [f24_6]
  show decodeGroupE28 w = _
  unfold decodeGroupE28
  rw [f15_1]
  show decodeBrcfgStat w = _
  simp only [decodeBrcfgStat, f24_6, f15_1, f16_4, f9_7, f20_4, f0_9, Src.ofCode_code h0, Target.ofCode_code h1, require, bind, Except.bind, beq_self_eq_true, if_true, decide_true, decide_eq_true_eq]
  try rfl

theorem reinld (a : Src) (b : Src) (t : Target) : Statement (.reinld a b t) := by
  refine e_statement rfl rfl fun hw => ?_
  have hw : (a.wf && b.wf && t.wf) = true := hw
  simp only [Bool.and_eq_true, decide_eq_true_eq] at hw
  obtain ⟨⟨h0, h1⟩, h2⟩ := hw
  have c0 := Src.code_lt h0
  have c1 := Src.code_lt h1
  have c2 := Target.code_lt h2
  refine ⟨by decide, by omega, by omega, by decide, by omega, fun w f24_6 f20_4 f16_4 f9_7 f0_9 => ?_⟩
  unfold decodeE
  rw [f24_6]
  show decodeReinld w = _
  simp only [decodeReinld, f24_6, f9_7, f20_4, f16_4, f0_9, Src.ofCode_code h0, Src.ofCode_code h1, Target.ofCode_code h2, require, bind, Except.bind, beq_self_eq_true, if_true, decide_true, decide_eq_true_eq]
  try rfl

theorem sendx (a : Src) (b : Src) (seg : Bool) (pol : Bool) (eor : Bool) (t : Target) : Statement (.sendx a b seg pol eor t) := by
  refine e_statement rfl rfl fun hw => ?_
  have hw : (a.wf && b.wf && t.wf && (seg || pol || eor || b == .zero)) = true := hw
  simp only [Bool.and_eq_true, decide_eq_true_eq] at hw
  obtain ⟨⟨⟨h0, h1⟩, h2⟩, h3⟩ := hw
  have c0 := Src.code_lt h0
  have c1 := Src.code_lt h1
  have c2 := Target.code_lt h2
  have c_seg := boolCode_lt seg
  have c_pol := boolCode_lt pol
  have c_eor := boolCode_lt eor
  refine ⟨by decide, by omega, by omega, by omega, by omega, fun w f24_6 f20_4 f16_4 f9_7 f0_9 => ?_⟩
  have f9_4 : bits w 9 4 = 0 := field_of_field (lo := 9) (k := 0) (n := 7) f9_7 (by decide) (by omega)
  have g13 : bit w 13 = eor := bit_of_field (lo := 9) (k := 4) (n := 7) f9_7 (by decide) (by omega)
  have g14 : bit w 14 = pol := bit_of_field (lo := 9) (k := 5) (n := 7) f9_7 (by decide) (by omega)
  have g15 : bit w 15 = seg := bit_of_field (lo := 9) (k := 6) (n := 7) f9_7 (by decide) (by omega)
  unfold decodeE
  rw [f24_6]
  show decodeSendx w = _
  simp only [decodeSendx, f24_6, f9_4, f20_4, f16_4, f0_9, g13, g14, g15, Src.ofCode_code h0, Src.ofCode_code h1, Target.ofCode_code h2, h3, require, bind, Except.bind, beq_self_eq_true, if_true, decide_true, decide_eq_true_eq]
  try rfl

theorem cancel (a : Src) (t : Target) : Statement (.cancel a t) := by
  refine e_statement rfl rfl fun hw => ?_
  have hw : (a.wf && t.wf) = true := hw
  simp only [Bool.and_eq_true, decide_eq_true_eq] at hw
  obtain ⟨h0, h1⟩ := hw
  have c0 := Src.code_lt h0
  have c1 := Target.code_lt h1
  refine ⟨by decide, by omega, by decide, by decide, by omega, fun w f24_6 f20_4 f16_4 f9_7 f0_9 => ?_⟩
  unfold decodeE
  rw [f24_6]
  show decodeCancel w = _
  simp only [decodeCancel, f24_6, f16_4, f9_7, f20_4, f0_9, Src.ofCode_code h0, Target.ofCode_code h1, require, bind, Except.bind, beq_self_eq_true, if_true, decide_true, decide_eq_true_eq]
  try rfl

theorem commit (a : Src) (nul : Bool) (t : Target) : Statement (.commit a nul t) := by
  refine e_statement rfl rfl fun hw => ?_
  have hw : (a.wf && t.wf && (!nul || a == .zero)) = true := hw
  simp only [Bool.and_eq_true, decide_eq_true_eq] at hw
  obtain ⟨⟨h0, h1⟩, h2⟩ := hw
  have h3 : (!nul || a.code == 13) = true := by
    cases nul <;> simp_all [Src.code]
  have c0 := Src.code_lt h0
  have c1 := Target.code_lt h1
  have c_nul := boolCode_lt nul
  refine ⟨by decide, by omega, by decide, by omega, by omega, fun w f24_6 f20_4 f16_4 f9_7 f0_9 => ?_⟩
  have f9_6 : bits w 9 6 = 0 := field_of_field (lo := 9) (k := 0) (n := 7) f9_7 (by decide) (by omega)
  have g15 : bit w 15 = nul := bit_of_field (lo := 9) (k := 6) (n := 7) f9_7 (by decide) (by omega)
  unfold decodeE
  rw [f24_6]
  show decodeCommit w = _
  simp only [decodeCommit, f24_6, f16_4, f9_6, f20_4, f0_9, g15, h3, Src.ofCode_code h0, Target.ofCode_code h1, require, bind, Except.bind, beq_self_eq_true, if_true, decide_true, decide_eq_true_eq]
  try rfl

theorem ctxa (a : Src) (th : Bool) (t : Target) : Statement (.ctxa a th t) := by
  refine e_statement rfl rfl fun hw => ?_
  have hw : (a.wf && t.wf) = true := hw
  simp only [Bool.and_eq_true, decide_eq_true_eq] at hw
  obtain ⟨h0, h1⟩ := hw
  have c0 := Src.code_lt h0
  have c1 := Target.code_lt h1
  have c_th := boolCode_lt th
  refine ⟨by decide, by omega, by decide, by omega, by omega, fun w f24_6 f20_4 f16_4 f9_7 f0_9 => ?_⟩
  have f9_6 : bits w 9 6 = 0 := field_of_field (lo := 9) (k := 0) (n := 7) f9_7 (by decide) (by omega)
  have g15 : bit w 15 = th := bit_of_field (lo := 9) (k := 6) (n := 7) f9_7 (by decide) (by omega)
  unfold decodeE
  rw [f24_6]
  show decodeCtxa w = _
  simp only [decodeCtxa, f24_6, f16_4, f9_6, f20_4, f0_9, g15, Src.ofCode_code h0, Target.ofCode_code h1, require, bind, Except.bind, beq_self_eq_true, if_true, decide_true, decide_eq_true_eq]
  try rfl

theorem ctxf (a : Src) (self : Bool) : Statement (.ctxf a self) := by
  refine e_statement rfl rfl fun hw => ?_
  have hw : (a.wf && (!self || a == .zero)) = true := hw
  simp only [Bool.and_eq_true, decide_eq_true_eq] at hw
  obtain ⟨h0, h1⟩ := hw
  have c0 := Src.code_lt h0
  have c_self := boolCode_lt self
  refine ⟨by decide, by omega, by decide, by omega, by decide, fun w f24_6 f20_4 f16_4 f9_7 f0_9 => ?_⟩
  have f9_6 : bits w 9 6 = 0 := field_of_field (lo := 9) (k := 0) (n := 7) f9_7 (by decide) (by omega)
  have g15 : bit w 15 = self := bit_of_field (lo := 9) (k := 6) (n := 7) f9_7 (by decide) (by omega)
  unfold decodeE
  rw [f24_6]
  show decodeCtxf w = _
  simp only [decodeCtxf, f24_6, f16_4, f9_6, f0_9, f20_4, g15, Src.ofCode_code h0, h1, require, bind, Except.bind, beq_self_eq_true, if_true, decide_true, decide_eq_true_eq]
  try rfl

theorem spawn (a : Src) (b : Src) (th : Bool) (hv : Bool) (t : Target) : Statement (.spawn a b th hv t) := by
  refine e_statement rfl rfl fun hw => ?_
  have hw : (a.wf && b.wf && t.wf) = true := hw
  simp only [Bool.and_eq_true, decide_eq_true_eq] at hw
  obtain ⟨⟨h0, h1⟩, h2⟩ := hw
  have c0 := Src.code_lt h0
  have c1 := Src.code_lt h1
  have c2 := Target.code_lt h2
  have c_th := boolCode_lt th
  have c_hv := boolCode_lt hv
  refine ⟨by decide, by omega, by omega, by omega, by omega, fun w f24_6 f20_4 f16_4 f9_7 f0_9 => ?_⟩
  have f9_5 : bits w 9 5 = 0 := field_of_field (lo := 9) (k := 0) (n := 7) f9_7 (by decide) (by omega)
  have g14 : bit w 14 = hv := bit_of_field (lo := 9) (k := 5) (n := 7) f9_7 (by decide) (by omega)
  have g15 : bit w 15 = th := bit_of_field (lo := 9) (k := 6) (n := 7) f9_7 (by decide) (by omega)
  unfold decodeE
  rw [f24_6]
  show decodeSpawn w = _
  simp only [decodeSpawn, f24_6, f9_5, f20_4, f16_4, f0_9, g14, g15, Src.ofCode_code h0, Src.ofCode_code h1, Target.ofCode_code h2, require, bind, Except.bind, beq_self_eq_true, if_true, decide_true, decide_eq_true_eq]
  try rfl

theorem launch (a : Src) (t : Target) : Statement (.launch a t) := by
  refine e_statement rfl rfl fun hw => ?_
  have hw : (a.wf && t.wf) = true := hw
  simp only [Bool.and_eq_true, decide_eq_true_eq] at hw
  obtain ⟨h0, h1⟩ := hw
  have c0 := Src.code_lt h0
  have c1 := Target.code_lt h1
  refine ⟨by decide, by omega, by decide, by decide, by omega, fun w f24_6 f20_4 f16_4 f9_7 f0_9 => ?_⟩
  unfold decodeE
  rw [f24_6]
  show decodeLaunch w = _
  simp only [decodeLaunch, f24_6, f16_4, f9_7, f20_4, f0_9, Src.ofCode_code h0, Target.ofCode_code h1, require, bind, Except.bind, beq_self_eq_true, if_true, decide_true, decide_eq_true_eq]
  try rfl

theorem mts (a : Src) (n : Nat) : Statement (.mts a n) := by
  refine e_statement rfl rfl fun hw => ?_
  have hw : (a.wf && mtsNumber n) = true := hw
  simp only [Bool.and_eq_true, decide_eq_true_eq] at hw
  obtain ⟨h0, h1⟩ := hw
  have c0 := Src.code_lt h0
  have c1 := mtsNumber_lt h1
  refine ⟨by decide, by omega, by decide, by omega, by decide, fun w f24_6 f20_4 f16_4 f9_7 f0_9 => ?_⟩
  unfold decodeE
  rw [f24_6]
  show decodeMts w = _
  simp only [decodeMts, f24_6, f16_4, f0_9, f20_4, f9_7, Src.ofCode_code h0, h1, require, bind, Except.bind, beq_self_eq_true, if_true, decide_true, decide_eq_true_eq]
  try rfl

theorem trap (a : Src) (code : Nat) : Statement (.trap a code) := by
  refine e_statement rfl rfl fun hw => ?_
  have hw : (a.wf && decide (code < 128)) = true := hw
  simp only [Bool.and_eq_true, decide_eq_true_eq] at hw
  obtain ⟨h0, h1⟩ := hw
  have c0 := Src.code_lt h0
  refine ⟨by decide, by omega, by decide, by omega, by decide, fun w f24_6 f20_4 f16_4 f9_7 f0_9 => ?_⟩
  unfold decodeE
  rw [f24_6]
  show decodeTrap w = _
  simp only [decodeTrap, f24_6, f16_4, f0_9, f20_4, f9_7, Src.ofCode_code h0, h1, require, bind, Except.bind, beq_self_eq_true, if_true, decide_true, decide_eq_true_eq]
  try rfl

theorem brk (code : Nat) : Statement (.brk code) := by
  refine e_statement rfl rfl fun hw => ?_
  have hw : (decide (code < 128)) = true := hw
  simp only [Bool.and_eq_true, decide_eq_true_eq] at hw
  have h0 := hw
  refine ⟨by decide, by decide, by decide, by omega, by decide, fun w f24_6 f20_4 f16_4 f9_7 f0_9 => ?_⟩
  unfold decodeE
  rw [f24_6]
  show decodeBrk w = _
  simp only [decodeBrk, f24_6, f20_4, f16_4, f0_9, f9_7, h0, require, bind, Except.bind, beq_self_eq_true, if_true, decide_true, decide_eq_true_eq]
  try rfl

theorem eres (a : Src) (b : Src) (rep : Bool) (ent : Nat) (hold : Bool) (t : Target) : Statement (.eres a b rep ent hold t) := by
  refine e_statement rfl rfl fun hw => ?_
  have hw : (a.wf && b.wf && decide (ent < 4) && t.wf && (rep || b == .zero)) = true := hw
  simp only [Bool.and_eq_true, decide_eq_true_eq] at hw
  obtain ⟨⟨⟨⟨h0, h1⟩, h2⟩, h3⟩, h4⟩ := hw
  have c0 := Src.code_lt h0
  have c1 := Src.code_lt h1
  have c3 := Target.code_lt h3
  have c_rep := boolCode_lt rep
  have c_hold := boolCode_lt hold
  refine ⟨by decide, by omega, by omega, by omega, by omega, fun w f24_6 f20_4 f16_4 f9_7 f0_9 => ?_⟩
  have f9_3 : bits w 9 3 = 0 := field_of_field (lo := 9) (k := 0) (n := 7) f9_7 (by decide) (by omega)
  have f13_2 : bits w 13 2 = ent := field_of_field (lo := 9) (k := 4) (n := 7) f9_7 (by decide) (by omega)
  have g12 : bit w 12 = hold := bit_of_field (lo := 9) (k := 3) (n := 7) f9_7 (by decide) (by omega)
  have g15 : bit w 15 = rep := bit_of_field (lo := 9) (k := 6) (n := 7) f9_7 (by decide) (by omega)
  unfold decodeE
  rw [f24_6]
  show decodeEres w = _
  simp only [decodeEres, f24_6, f9_3, f20_4, f16_4, f13_2, f0_9, g12, g15, Src.ofCode_code h0, Src.ofCode_code h1, h2, Target.ofCode_code h3, h4, require, bind, Except.bind, beq_self_eq_true, if_true, decide_true, decide_eq_true_eq]
  try rfl

theorem esc (a : Src) (t : Target) : Statement (.esc a t) := by
  refine e_statement rfl rfl fun hw => ?_
  have hw : (a.wf && t.wf) = true := hw
  simp only [Bool.and_eq_true, decide_eq_true_eq] at hw
  obtain ⟨h0, h1⟩ := hw
  have c0 := Src.code_lt h0
  have c1 := Target.code_lt h1
  refine ⟨by decide, by omega, by decide, by decide, by omega, fun w f24_6 f20_4 f16_4 f9_7 f0_9 => ?_⟩
  unfold decodeE
  rw [f24_6]
  show decodeEsc w = _
  simp only [decodeEsc, f24_6, f16_4, f9_7, f20_4, f0_9, Src.ofCode_code h0, Target.ofCode_code h1, require, bind, Except.bind, beq_self_eq_true, if_true, decide_true, decide_eq_true_eq]
  try rfl

theorem ekill (a : Src) (t : Target) : Statement (.ekill a t) := by
  refine e_statement rfl rfl fun hw => ?_
  have hw : (a.wf && t.wf) = true := hw
  simp only [Bool.and_eq_true, decide_eq_true_eq] at hw
  obtain ⟨h0, h1⟩ := hw
  have c0 := Src.code_lt h0
  have c1 := Target.code_lt h1
  refine ⟨by decide, by omega, by decide, by decide, by omega, fun w f24_6 f20_4 f16_4 f9_7 f0_9 => ?_⟩
  unfold decodeE
  rw [f24_6]
  show decodeEkill w = _
  simp only [decodeEkill, f24_6, f16_4, f9_7, f20_4, f0_9, Src.ofCode_code h0, Target.ofCode_code h1, require, bind, Except.bind, beq_self_eq_true, if_true, decide_true, decide_eq_true_eq]
  try rfl

theorem mfsr (a : Src) (t : Target) : Statement (.mfsr a t) := by
  refine e_statement rfl rfl fun hw => ?_
  have hw : (a.wf && t.wf) = true := hw
  simp only [Bool.and_eq_true, decide_eq_true_eq] at hw
  obtain ⟨h0, h1⟩ := hw
  have c0 := Src.code_lt h0
  have c1 := Target.code_lt h1
  refine ⟨by decide, by omega, by decide, by decide, by omega, fun w f24_6 f20_4 f16_4 f9_7 f0_9 => ?_⟩
  have f9_4 : bits w 9 4 = 0 := field_of_field (lo := 9) (k := 0) (n := 7) f9_7 (by decide) (by omega)
  unfold decodeE
  rw [f24_6]
  show decodeGroupE39 w = _
  unfold decodeGroupE39
  rw [f9_4]
  show decodeMfsr w = _
  simp only [decodeMfsr, f24_6, f9_4, f16_4, f9_7, f20_4, f0_9, Src.ofCode_code h0, Target.ofCode_code h1, require, bind, Except.bind, beq_self_eq_true, if_true, decide_true, decide_eq_true_eq]
  try rfl

theorem mtsr (a : Src) (b : Src) (t : Target) : Statement (.mtsr a b t) := by
  refine e_statement rfl rfl fun hw => ?_
  have hw : (a.wf && b.wf && t.wf) = true := hw
  simp only [Bool.and_eq_true, decide_eq_true_eq] at hw
  obtain ⟨⟨h0, h1⟩, h2⟩ := hw
  have c0 := Src.code_lt h0
  have c1 := Src.code_lt h1
  have c2 := Target.code_lt h2
  refine ⟨by decide, by omega, by omega, by decide, by omega, fun w f24_6 f20_4 f16_4 f9_7 f0_9 => ?_⟩
  have f9_4 : bits w 9 4 = 1 := field_of_field (lo := 9) (k := 0) (n := 7) f9_7 (by decide) (by omega)
  unfold decodeE
  rw [f24_6]
  show decodeGroupE39 w = _
  unfold decodeGroupE39
  rw [f9_4]
  show decodeMtsr w = _
  simp only [decodeMtsr, f24_6, f9_4, f9_7, f20_4, f16_4, f0_9, Src.ofCode_code h0, Src.ofCode_code h1, Target.ofCode_code h2, require, bind, Except.bind, beq_self_eq_true, if_true, decide_true, decide_eq_true_eq]
  try rfl

theorem tbi (a : Src) (t : Target) : Statement (.tbi a t) := by
  refine e_statement rfl rfl fun hw => ?_
  have hw : (a.wf && t.wf) = true := hw
  simp only [Bool.and_eq_true, decide_eq_true_eq] at hw
  obtain ⟨h0, h1⟩ := hw
  have c0 := Src.code_lt h0
  have c1 := Target.code_lt h1
  refine ⟨by decide, by omega, by decide, by decide, by omega, fun w f24_6 f20_4 f16_4 f9_7 f0_9 => ?_⟩
  have f9_4 : bits w 9 4 = 2 := field_of_field (lo := 9) (k := 0) (n := 7) f9_7 (by decide) (by omega)
  unfold decodeE
  rw [f24_6]
  show decodeGroupE39 w = _
  unfold decodeGroupE39
  rw [f9_4]
  show decodeTbi w = _
  simp only [decodeTbi, f24_6, f9_4, f16_4, f9_7, f20_4, f0_9, Src.ofCode_code h0, Target.ofCode_code h1, require, bind, Except.bind, beq_self_eq_true, if_true, decide_true, decide_eq_true_eq]
  try rfl

theorem shinv (a : Src) (t : Target) : Statement (.shinv a t) := by
  refine e_statement rfl rfl fun hw => ?_
  have hw : (a.wf && t.wf) = true := hw
  simp only [Bool.and_eq_true, decide_eq_true_eq] at hw
  obtain ⟨h0, h1⟩ := hw
  have c0 := Src.code_lt h0
  have c1 := Target.code_lt h1
  refine ⟨by decide, by omega, by decide, by decide, by omega, fun w f24_6 f20_4 f16_4 f9_7 f0_9 => ?_⟩
  have f9_4 : bits w 9 4 = 3 := field_of_field (lo := 9) (k := 0) (n := 7) f9_7 (by decide) (by omega)
  unfold decodeE
  rw [f24_6]
  show decodeGroupE39 w = _
  unfold decodeGroupE39
  rw [f9_4]
  show decodeShinv w = _
  simp only [decodeShinv, f24_6, f9_4, f16_4, f9_7, f20_4, f0_9, Src.ofCode_code h0, Target.ofCode_code h1, require, bind, Except.bind, beq_self_eq_true, if_true, decide_true, decide_eq_true_eq]
  try rfl

theorem plbc (a : Src) (t : Target) : Statement (.plbc a t) := by
  refine e_statement rfl rfl fun hw => ?_
  have hw : (a.wf && t.wf) = true := hw
  simp only [Bool.and_eq_true, decide_eq_true_eq] at hw
  obtain ⟨h0, h1⟩ := hw
  have c0 := Src.code_lt h0
  have c1 := Target.code_lt h1
  refine ⟨by decide, by omega, by decide, by decide, by omega, fun w f24_6 f20_4 f16_4 f9_7 f0_9 => ?_⟩
  have f9_4 : bits w 9 4 = 4 := field_of_field (lo := 9) (k := 0) (n := 7) f9_7 (by decide) (by omega)
  unfold decodeE
  rw [f24_6]
  show decodeGroupE39 w = _
  unfold decodeGroupE39
  rw [f9_4]
  show decodePlbc w = _
  simp only [decodePlbc, f24_6, f9_4, f16_4, f9_7, f20_4, f0_9, Src.ofCode_code h0, Target.ofCode_code h1, require, bind, Except.bind, beq_self_eq_true, if_true, decide_true, decide_eq_true_eq]
  try rfl

theorem prbld (a : Src) (b : Src) (t : Target) : Statement (.prbld a b t) := by
  refine e_statement rfl rfl fun hw => ?_
  have hw : (a.wf && b.wf && t.wf) = true := hw
  simp only [Bool.and_eq_true, decide_eq_true_eq] at hw
  obtain ⟨⟨h0, h1⟩, h2⟩ := hw
  have c0 := Src.code_lt h0
  have c1 := Src.code_lt h1
  have c2 := Target.code_lt h2
  refine ⟨by decide, by omega, by omega, by decide, by omega, fun w f24_6 f20_4 f16_4 f9_7 f0_9 => ?_⟩
  have f9_4 : bits w 9 4 = 5 := field_of_field (lo := 9) (k := 0) (n := 7) f9_7 (by decide) (by omega)
  unfold decodeE
  rw [f24_6]
  show decodeGroupE39 w = _
  unfold decodeGroupE39
  rw [f9_4]
  show decodePrbld w = _
  simp only [decodePrbld, f24_6, f9_4, f9_7, f20_4, f16_4, f0_9, Src.ofCode_code h0, Src.ofCode_code h1, Target.ofCode_code h2, require, bind, Except.bind, beq_self_eq_true, if_true, decide_true, decide_eq_true_eq]
  try rfl

theorem cfgld (a : Src) (b : Src) (t : Target) : Statement (.cfgld a b t) := by
  refine e_statement rfl rfl fun hw => ?_
  have hw : (a.wf && b.wf && t.wf) = true := hw
  simp only [Bool.and_eq_true, decide_eq_true_eq] at hw
  obtain ⟨⟨h0, h1⟩, h2⟩ := hw
  have c0 := Src.code_lt h0
  have c1 := Src.code_lt h1
  have c2 := Target.code_lt h2
  refine ⟨by decide, by omega, by omega, by decide, by omega, fun w f24_6 f20_4 f16_4 f9_7 f0_9 => ?_⟩
  have f9_4 : bits w 9 4 = 6 := field_of_field (lo := 9) (k := 0) (n := 7) f9_7 (by decide) (by omega)
  unfold decodeE
  rw [f24_6]
  show decodeGroupE39 w = _
  unfold decodeGroupE39
  rw [f9_4]
  show decodeCfgld w = _
  simp only [decodeCfgld, f24_6, f9_4, f9_7, f20_4, f16_4, f0_9, Src.ofCode_code h0, Src.ofCode_code h1, Target.ofCode_code h2, require, bind, Except.bind, beq_self_eq_true, if_true, decide_true, decide_eq_true_eq]
  try rfl

theorem gait (a : Src) (t : Target) : Statement (.gait a t) := by
  refine e_statement rfl rfl fun hw => ?_
  have hw : (a.wf && t.wf) = true := hw
  simp only [Bool.and_eq_true, decide_eq_true_eq] at hw
  obtain ⟨h0, h1⟩ := hw
  have c0 := Src.code_lt h0
  have c1 := Target.code_lt h1
  refine ⟨by decide, by omega, by decide, by decide, by omega, fun w f24_6 f20_4 f16_4 f9_7 f0_9 => ?_⟩
  have f9_4 : bits w 9 4 = 7 := field_of_field (lo := 9) (k := 0) (n := 7) f9_7 (by decide) (by omega)
  unfold decodeE
  rw [f24_6]
  show decodeGroupE39 w = _
  unfold decodeGroupE39
  rw [f9_4]
  show decodeGait w = _
  simp only [decodeGait, f24_6, f9_4, f16_4, f9_7, f20_4, f0_9, Src.ofCode_code h0, Target.ofCode_code h1, require, bind, Except.bind, beq_self_eq_true, if_true, decide_true, decide_eq_true_eq]
  try rfl

theorem idle (t : Target) : Statement (.idle t) := by
  refine e_statement rfl rfl fun hw => ?_
  have hw : (t.wf) = true := hw
  have h0 := hw
  have c0 := Target.code_lt h0
  refine ⟨by decide, by decide, by decide, by decide, by omega, fun w f24_6 f20_4 f16_4 f9_7 f0_9 => ?_⟩
  have f9_4 : bits w 9 4 = 8 := field_of_field (lo := 9) (k := 0) (n := 7) f9_7 (by decide) (by omega)
  unfold decodeE
  rw [f24_6]
  show decodeGroupE39 w = _
  unfold decodeGroupE39
  rw [f9_4]
  show decodeIdle w = _
  simp only [decodeIdle, f24_6, f9_4, f20_4, f16_4, f9_7, f0_9, Target.ofCode_code h0, require, bind, Except.bind, beq_self_eq_true, if_true, decide_true, decide_eq_true_eq]
  try rfl

theorem park (a : Src) (t : Target) : Statement (.park a t) := by
  refine e_statement rfl rfl fun hw => ?_
  have hw : (a.wf && t.wf) = true := hw
  simp only [Bool.and_eq_true, decide_eq_true_eq] at hw
  obtain ⟨h0, h1⟩ := hw
  have c0 := Src.code_lt h0
  have c1 := Target.code_lt h1
  refine ⟨by decide, by omega, by decide, by decide, by omega, fun w f24_6 f20_4 f16_4 f9_7 f0_9 => ?_⟩
  have f9_4 : bits w 9 4 = 9 := field_of_field (lo := 9) (k := 0) (n := 7) f9_7 (by decide) (by omega)
  unfold decodeE
  rw [f24_6]
  show decodeGroupE39 w = _
  unfold decodeGroupE39
  rw [f9_4]
  show decodePark w = _
  simp only [decodePark, f24_6, f9_4, f16_4, f9_7, f20_4, f0_9, Src.ofCode_code h0, Target.ofCode_code h1, require, bind, Except.bind, beq_self_eq_true, if_true, decide_true, decide_eq_true_eq]
  try rfl

theorem sqEnd (code : Nat) : Statement (.sqEnd code) := by
  refine sq_statement rfl rfl fun hw w hx rest => ?_
  have hw : (decide (code < 65536)) = true := hw
  simp only [Bool.and_eq_true, decide_eq_true_eq] at hw
  have f28_4 : bits w 28 4 = 0 := by unfold bits; omega
  have f16_12 : bits w 16 12 = 0 := by unfold bits; omega
  have f0_16 : bits w 0 16 = code := by unfold bits; omega
  simp only [decodeSeq, f28_4, f16_12, f0_16, require, bind, Except.bind, beq_self_eq_true, if_true]

theorem sqCfg (gt : Nat) (region : Nat) : Statement (.sqCfg gt region) := by
  refine sq_statement rfl rfl fun hw w hx rest => ?_
  have hw : (decide (gt < 256) && decide (region < 256)) = true := hw
  simp only [Bool.and_eq_true, decide_eq_true_eq] at hw
  have f28_4 : bits w 28 4 = 1 := by unfold bits; omega
  have f16_12 : bits w 16 12 = 0 := by unfold bits; omega
  have f8_8 : bits w 8 8 = gt := by unfold bits; omega
  have f0_8 : bits w 0 8 = region := by unfold bits; omega
  simp only [decodeSeq, f28_4, f16_12, f8_8, f0_8, require, bind, Except.bind, beq_self_eq_true, if_true]

theorem sqRun (ing : Bool) (edge : Nat) (async : Bool) : Statement (.sqRun ing edge async) := by
  refine sq_statement rfl rfl fun hw w hx rest => ?_
  have hw : (decide (edge < 64)) = true := hw
  simp only [Bool.and_eq_true, decide_eq_true_eq] at hw
  have ci := boolCode_lt ing
  have ca := boolCode_lt async
  have f28_4 : bits w 28 4 = 2 := by unfold bits; omega
  have f0_20 : bits w 0 20 = 0 := by unfold bits; omega
  have f21_6 : bits w 21 6 = edge := by unfold bits; omega
  have g27 : bit w 27 = ing := bit_of (by omega)
  have g20 : bit w 20 = async := bit_of (by omega)
  simp only [decodeSeq, f28_4, f0_20, f21_6, g27, g20, require, bind, Except.bind, beq_self_eq_true, if_true]

theorem sqIf (hv : Bool) (sense : Bool) (target : Nat) (va : Nat) (hva : Nat) : Statement (.sqIf hv sense target va hva) := by
  intro hw'
  have hw : (decide (target < 65536) && decide (va < 2 ^ 56) && decide (hva < 2 ^ 56) && (hv || hva == 0)) = true := hw'
  simp only [Bool.and_eq_true, decide_eq_true_eq] at hw
  obtain ⟨⟨⟨ht, hv1⟩, hv2⟩, hz⟩ := hw
  have cs := boolCode_lt sense
  have e1 : va % 2 ^ 32 + va / 2 ^ 32 * 2 ^ 32 = va := by omega
  have l1 : va / 2 ^ 32 < 2 ^ 24 := by omega
  have e2 : hva % 2 ^ 32 + hva / 2 ^ 32 * 2 ^ 32 = hva := by omega
  have l2 : hva / 2 ^ 32 < 2 ^ 24 := by omega
  cases hv with
  | false =>
    have hz : hva = 0 := by simpa using hz
    subst hz
    refine seq_statement (w := 3 * 2 ^ 28 + boolCode false * 2 ^ 27 + boolCode sense * 2 ^ 26 + target)
      (ws := [va % 2 ^ 32, va / 2 ^ 32]) rfl rfl (fun _ rest => ?_) hw'
    have cf : boolCode false = 0 := rfl
    generalize hx : 3 * 2 ^ 28 + boolCode false * 2 ^ 27 + boolCode sense * 2 ^ 26 + target = w
    have f28_4 : bits w 28 4 = 3 := by unfold bits; omega
    have f16_10 : bits w 16 10 = 0 := by unfold bits; omega
    have f0_16 : bits w 0 16 = target := by unfold bits; omega
    have g27 : bit w 27 = false := bit_of (by omega)
    have g26 : bit w 26 = sense := bit_of (by omega)
    have h := decodeSeq_if_false (lo := va % 2 ^ 32) (rest := rest) f28_4 f16_10 f0_16 g27 g26 l1
    rw [e1] at h
    exact h
  | true =>
    refine seq_statement (w := 3 * 2 ^ 28 + boolCode true * 2 ^ 27 + boolCode sense * 2 ^ 26 + target)
      (ws := [va % 2 ^ 32, va / 2 ^ 32, hva % 2 ^ 32, hva / 2 ^ 32]) rfl rfl (fun _ rest => ?_) hw'
    have cf : boolCode true = 1 := rfl
    generalize hx : 3 * 2 ^ 28 + boolCode true * 2 ^ 27 + boolCode sense * 2 ^ 26 + target = w
    have f28_4 : bits w 28 4 = 3 := by unfold bits; omega
    have f16_10 : bits w 16 10 = 0 := by unfold bits; omega
    have f0_16 : bits w 0 16 = target := by unfold bits; omega
    have g27 : bit w 27 = true := bit_of (by omega)
    have g26 : bit w 26 = sense := bit_of (by omega)
    have h := decodeSeq_if_true (lo := va % 2 ^ 32) (hlo := hva % 2 ^ 32) (rest := rest) f28_4 f16_10 f0_16 g27 g26 l1 l2
    rw [e1, e2] at h
    exact h

theorem sqJmp (target : Nat) : Statement (.sqJmp target) := by
  refine sq_statement rfl rfl fun hw w hx rest => ?_
  have hw : (decide (target < 65536)) = true := hw
  simp only [Bool.and_eq_true, decide_eq_true_eq] at hw
  have f28_4 : bits w 28 4 = 4 := by unfold bits; omega
  have f16_12 : bits w 16 12 = 0 := by unfold bits; omega
  have f0_16 : bits w 0 16 = target := by unfold bits; omega
  simp only [decodeSeq, f28_4, f16_12, f0_16, require, bind, Except.bind, beq_self_eq_true, if_true]

theorem sqGait (gt : Nat) : Statement (.sqGait gt) := by
  refine sq_statement rfl rfl fun hw w hx rest => ?_
  have hw : (decide (gt < 256)) = true := hw
  simp only [Bool.and_eq_true, decide_eq_true_eq] at hw
  have f28_4 : bits w 28 4 = 6 := by unfold bits; omega
  have f8_20 : bits w 8 20 = 0 := by unfold bits; omega
  have f0_8 : bits w 0 8 = gt := by unfold bits; omega
  simp only [decodeSeq, f28_4, f8_20, f0_8, require, bind, Except.bind, beq_self_eq_true, if_true]

theorem sqSig (iter : Nat) (dest : Nat) (value : Nat) : Statement (.sqSig iter dest value) := by
  refine seq_statement rfl rfl fun hw rest => ?_
  have hw : (decide (iter < 65536) && decide (dest < 2 ^ 23) && decide (value < 2 ^ 32)) = true := hw
  simp only [Bool.and_eq_true, decide_eq_true_eq] at hw
  generalize hx : 7 * 2 ^ 28 + iter = w
  generalize hd : dest * 2 ^ 9 = d
  have f28_4 : bits w 28 4 = 7 := by unfold bits; omega
  have f16_12 : bits w 16 12 = 0 := by unfold bits; omega
  have f0_16 : bits w 0 16 = iter := by unfold bits; omega
  have d0_9 : bits d 0 9 = 0 := by unfold bits; omega
  have d9_23 : bits d 9 23 = dest := by unfold bits; omega
  simp [decodeSeq, f28_4, f16_12, f0_16, d0_9, d9_23, require, bind, Except.bind]

theorem sttDiscard (qp : Nat) (hd : BitVec 192) (sent : Nat) : Statement (.sttDiscard qp hd sent) := fun _ => trivial

theorem connectionManager (qp : Nat) (user : Option Nat) (port : Nat) : Statement (.connectionManager qp user port) := fun _ => trivial

theorem mrlPlaneUp (plane : Nat) : Statement (.mrlPlaneUp plane) := fun _ => trivial

theorem tokenArrival : Statement (.tokenArrival) := fun _ => trivial

theorem cancelTokenArrival : Statement (.cancelTokenArrival) := fun _ => trivial

theorem taskFire : Statement (.taskFire) := fun _ => trivial

theorem blockCommit : Statement (.blockCommit) := fun _ => trivial

theorem outputBufferSend : Statement (.outputBufferSend) := fun _ => trivial

theorem loadResponseReturn : Statement (.loadResponseReturn) := fun _ => trivial

theorem taskClassAging : Statement (.taskClassAging) := fun _ => trivial

theorem bankGrant : Statement (.bankGrant) := fun _ => trivial

theorem sramScrub : Statement (.sramScrub) := fun _ => trivial

theorem dramScrub : Statement (.dramScrub) := fun _ => trivial

theorem dramRequest : Statement (.dramRequest) := fun _ => trivial

theorem translationMiss : Statement (.translationMiss) := fun _ => trivial

theorem pageWalk : Statement (.pageWalk) := fun _ => trivial

theorem walkComplete : Statement (.walkComplete) := fun _ => trivial

theorem asyncFaultReport : Statement (.asyncFaultReport) := fun _ => trivial

theorem faultDelivery : Statement (.faultDelivery) := fun _ => trivial

theorem supervisorFaultDequeue : Statement (.supervisorFaultDequeue) := fun _ => trivial

theorem watchdog : Statement (.watchdog) := fun _ => trivial

theorem stageBalance : Statement (.stageBalance) := fun _ => trivial

theorem launchRecordAging : Statement (.launchRecordAging) := fun _ => trivial

theorem launchIntake : Statement (.launchIntake) := fun _ => trivial

theorem allocationPass : Statement (.allocationPass) := fun _ => trivial

theorem fullSave : Statement (.fullSave) := fun _ => trivial

theorem resume : Statement (.resume) := fun _ => trivial

theorem tileFree : Statement (.tileFree) := fun _ => trivial

theorem quadrantReport : Statement (.quadrantReport) := fun _ => trivial

theorem launchEnd : Statement (.launchEnd) := fun _ => trivial

theorem runBarrierReached : Statement (.runBarrierReached) := fun _ => trivial

theorem contextFree : Statement (.contextFree) := fun _ => trivial

theorem batonVisit : Statement (.batonVisit) := fun _ => trivial

theorem seqOrder : Statement (.seqOrder) := fun _ => trivial

theorem stashFill : Statement (.stashFill) := fun _ => trivial

theorem stashEviction : Statement (.stashEviction) := fun _ => trivial

theorem hitchRequestArrival : Statement (.hitchRequestArrival) := fun _ => trivial

theorem hitchReleaseArrival : Statement (.hitchReleaseArrival) := fun _ => trivial

theorem hitchGrantArrival : Statement (.hitchGrantArrival) := fun _ => trivial

theorem barrierArrival : Statement (.barrierArrival) := fun _ => trivial

theorem giveFlip : Statement (.giveFlip) := fun _ => trivial

theorem drayCommandStart : Statement (.drayCommandStart) := fun _ => trivial

theorem drayComplete : Statement (.drayComplete) := fun _ => trivial

theorem drayFail : Statement (.drayFail) := fun _ => trivial

theorem remoteDrayWrite : Statement (.remoteDrayWrite) := fun _ => trivial

theorem dhopArrival : Statement (.dhopArrival) := fun _ => trivial

theorem dredCombine : Statement (.dredCombine) := fun _ => trivial

theorem append : Statement (.append) := fun _ => trivial

theorem appendRetry : Statement (.appendRetry) := fun _ => trivial

theorem baleLookup : Statement (.baleLookup) := fun _ => trivial

theorem placementMiss : Statement (.placementMiss) := fun _ => trivial

theorem tbShootdownArrival : Statement (.tbShootdownArrival) := fun _ => trivial

theorem tbiCompletion : Statement (.tbiCompletion) := fun _ => trivial

theorem baleShootdownArrival : Statement (.baleShootdownArrival) := fun _ => trivial

theorem shinvCompletion : Statement (.shinvCompletion) := fun _ => trivial

theorem placementBroadcastArrival : Statement (.placementBroadcastArrival) := fun _ => trivial

theorem plbcCompletion : Statement (.plbcCompletion) := fun _ => trivial

theorem troughWaiterServe : Statement (.troughWaiterServe) := fun _ => trivial

theorem mmaApply : Statement (.mmaApply) := fun _ => trivial

theorem mzeroApply : Statement (.mzeroApply) := fun _ => trivial

theorem mldaApply : Statement (.mldaApply) := fun _ => trivial

theorem mdrnApply : Statement (.mdrnApply) := fun _ => trivial

theorem etldApply : Statement (.etldApply) := fun _ => trivial

theorem foldApply : Statement (.foldApply) := fun _ => trivial

theorem foldRetry : Statement (.foldRetry) := fun _ => trivial

theorem ffinApply : Statement (.ffinApply) := fun _ => trivial

theorem taccApply : Statement (.taccApply) := fun _ => trivial

theorem commitEntry : Statement (.commitEntry) := fun _ => trivial

theorem normaliserSegment : Statement (.normaliserSegment) := fun _ => trivial

theorem bridleSegment : Statement (.bridleSegment) := fun _ => trivial

theorem reinldApply : Statement (.reinldApply) := fun _ => trivial

theorem prbldApply : Statement (.prbldApply) := fun _ => trivial

theorem edgeEgressWrite : Statement (.edgeEgressWrite) := fun _ => trivial

theorem edgeIngressInject : Statement (.edgeIngressInject) := fun _ => trivial

theorem ldchNode : Statement (.ldchNode) := fun _ => trivial

theorem waitEmit : Statement (.waitEmit) := fun _ => trivial

theorem fenceRelease : Statement (.fenceRelease) := fun _ => trivial

theorem halt : Statement (.halt) := fun _ => trivial

theorem stepHalt : Statement (.stepHalt) := fun _ => trivial

theorem idleRestart : Statement (.idleRestart) := fun _ => trivial

theorem quadrantEnterP2 : Statement (.quadrantEnterP2) := fun _ => trivial

theorem quadrantWake : Statement (.quadrantWake) := fun _ => trivial

theorem tileClockWake : Statement (.tileClockWake) := fun _ => trivial

theorem startup : Statement (.startup) := fun _ => trivial

theorem getTelemetry : Statement (.getTelemetry) := fun _ => trivial

theorem setPowerP3 : Statement (.setPowerP3) := fun _ => trivial

theorem setPowerP0 : Statement (.setPowerP0) := fun _ => trivial

theorem getBootrec : Statement (.getBootrec) := fun _ => trivial

theorem smodeWrite : Statement (.smodeWrite) := fun _ => trivial

theorem qreqP0 : Statement (.qreqP0) := fun _ => trivial

theorem qreqP1 : Statement (.qreqP1) := fun _ => trivial

theorem qreqP2 : Statement (.qreqP2) := fun _ => trivial

theorem gerrClear : Statement (.gerrClear) := fun _ => trivial

theorem svecWrite : Statement (.svecWrite) := fun _ => trivial

theorem deviceRegisterWrite : Statement (.deviceRegisterWrite) := fun _ => trivial

theorem sqBar : Statement (.sqBar) := by
  refine sq_statement rfl rfl fun hw w hx rest => ?_
  have f28_4 : bits w 28 4 = 5 := by unfold bits; omega
  have f0_28 : bits w 0 28 = 0 := by unfold bits; omega
  simp only [decodeSeq, f28_4, f0_28, require, bind, Except.bind, beq_self_eq_true, if_true]

theorem reservedOpcode : Statement (.reservedOpcode) := fun _ => trivial

theorem reservedSequencerWord : Statement (.reservedSequencerWord) := fun _ => trivial

theorem ticketOrder : Statement (.ticketOrder) := fun _ => trivial

theorem groomInboxArrival : Statement (.groomInboxArrival) := fun _ => trivial

theorem powerLoss : Statement (.powerLoss) := fun _ => trivial

end Laws.RoundTrip

end Sys2Proof
end

