-- ==== Sys2Proof/Laws/State.lean ====
section
/-! SUPPORT. What each update of the state leaves and what it writes: one lemma per field per update, all by definition. -/

namespace Sys2Proof.Machine

set_option Elab.async false

@[simp] theorem count_cyc (s : State) (k tile : Nat) : (count s k tile).cyc = s.cyc := rfl
@[simp] theorem count_agenda (s : State) (k tile : Nat) : (count s k tile).agenda = s.agenda := rfl
@[simp] theorem count_occ (s : State) (k tile : Nat) : (count s k tile).occ = s.occ := rfl
@[simp] theorem count_fresh (s : State) (k tile : Nat) : (count s k tile).fresh = s.fresh := rfl
@[simp] theorem count_nextId (s : State) (k tile : Nat) : (count s k tile).nextId = s.nextId := rfl
@[simp] theorem count_mem (s : State) (k tile : Nat) : (count s k tile).mem = s.mem := rfl
@[simp] theorem count_tab (s : State) (k tile : Nat) : (count s k tile).tab = s.tab := rfl
@[simp] theorem count_frm (s : State) (k tile : Nat) : (count s k tile).frm = s.frm := rfl
@[simp] theorem count_pe (s : State) (k tile : Nat) : (count s k tile).pe = s.pe := rfl
@[simp] theorem count_flt (s : State) (k tile : Nat) : (count s k tile).flt = s.flt := rfl
@[simp] theorem count_xl (s : State) (k tile : Nat) : (count s k tile).xl = s.xl := rfl
@[simp] theorem count_ops (s : State) (k tile : Nat) : (count s k tile).ops = s.ops := rfl
@[simp] theorem count_syn (s : State) (k tile : Nat) : (count s k tile).syn = s.syn := rfl
@[simp] theorem count_ctxs (s : State) (k tile : Nat) : (count s k tile).ctxs = s.ctxs := rfl
@[simp] theorem count_astat (s : State) (k tile : Nat) : (count s k tile).astat = s.astat := rfl
@[simp] theorem count_isl (s : State) (k tile : Nat) : (count s k tile).isl = s.isl := rfl
@[simp] theorem count_rws (s : State) (k tile : Nat) : (count s k tile).rws = s.rws := rfl
@[simp] theorem count_net (s : State) (k tile : Nat) : (count s k tile).net = s.net := rfl
@[simp] theorem count_bal (s : State) (k tile : Nat) : (count s k tile).bal = s.bal := rfl
@[simp] theorem count_sch (s : State) (k tile : Nat) : (count s k tile).sch = s.sch := rfl
@[simp] theorem count_host (s : State) (k tile : Nat) : (count s k tile).host = s.host := rfl
@[simp] theorem count_dev (s : State) (k tile : Nat) : (count s k tile).dev = s.dev := rfl
@[simp] theorem count_health (s : State) (k tile : Nat) : (count s k tile).health = s.health := rfl

@[simp] theorem State.tick_cyc (s : State) : s.tick.cyc = s.cyc := rfl
@[simp] theorem State.tick_agenda (s : State) : s.tick.agenda = s.agenda := rfl
@[simp] theorem State.tick_occ (s : State) : s.tick.occ = s.occ := rfl
@[simp] theorem State.tick_fresh (s : State) : s.tick.fresh = s.fresh + 1 := rfl
@[simp] theorem State.tick_nextId (s : State) : s.tick.nextId = s.nextId := rfl
@[simp] theorem State.tick_mem (s : State) : s.tick.mem = s.mem := rfl
@[simp] theorem State.tick_tab (s : State) : s.tick.tab = s.tab := rfl
@[simp] theorem State.tick_frm (s : State) : s.tick.frm = s.frm := rfl
@[simp] theorem State.tick_pe (s : State) : s.tick.pe = s.pe := rfl
@[simp] theorem State.tick_flt (s : State) : s.tick.flt = s.flt := rfl
@[simp] theorem State.tick_xl (s : State) : s.tick.xl = s.xl := rfl
@[simp] theorem State.tick_ops (s : State) : s.tick.ops = s.ops := rfl
@[simp] theorem State.tick_syn (s : State) : s.tick.syn = s.syn := rfl
@[simp] theorem State.tick_ctxs (s : State) : s.tick.ctxs = s.ctxs := rfl
@[simp] theorem State.tick_astat (s : State) : s.tick.astat = s.astat := rfl
@[simp] theorem State.tick_isl (s : State) : s.tick.isl = s.isl := rfl
@[simp] theorem State.tick_rws (s : State) : s.tick.rws = s.rws := rfl
@[simp] theorem State.tick_net (s : State) : s.tick.net = s.net := rfl
@[simp] theorem State.tick_bal (s : State) : s.tick.bal = s.bal := rfl
@[simp] theorem State.tick_sch (s : State) : s.tick.sch = s.sch := rfl
@[simp] theorem State.tick_host (s : State) : s.tick.host = s.host := rfl
@[simp] theorem State.tick_dev (s : State) : s.tick.dev = s.dev := rfl
@[simp] theorem State.tick_tele (s : State) : s.tick.tele = s.tele := rfl
@[simp] theorem State.tick_health (s : State) : s.tick.health = s.health := rfl

@[simp] theorem setPe_cyc (s : State) (tile elem : Nat) (p : Pe) : (setPe s tile elem p).cyc = s.cyc := rfl
@[simp] theorem setPe_agenda (s : State) (tile elem : Nat) (p : Pe) : (setPe s tile elem p).agenda = s.agenda := rfl
@[simp] theorem setPe_occ (s : State) (tile elem : Nat) (p : Pe) : (setPe s tile elem p).occ = s.occ := rfl
@[simp] theorem setPe_fresh (s : State) (tile elem : Nat) (p : Pe) : (setPe s tile elem p).fresh = s.fresh := rfl
@[simp] theorem setPe_nextId (s : State) (tile elem : Nat) (p : Pe) : (setPe s tile elem p).nextId = s.nextId := rfl
@[simp] theorem setPe_mem (s : State) (tile elem : Nat) (p : Pe) : (setPe s tile elem p).mem = s.mem := rfl
@[simp] theorem setPe_tab (s : State) (tile elem : Nat) (p : Pe) : (setPe s tile elem p).tab = s.tab := rfl
@[simp] theorem setPe_frm (s : State) (tile elem : Nat) (p : Pe) : (setPe s tile elem p).frm = s.frm := rfl
@[simp] theorem setPe_pe (s : State) (tile elem : Nat) (p : Pe) : (setPe s tile elem p).pe = sset s.pe (tile * 9 + elem) p := rfl
@[simp] theorem setPe_flt (s : State) (tile elem : Nat) (p : Pe) : (setPe s tile elem p).flt = s.flt := rfl
@[simp] theorem setPe_xl (s : State) (tile elem : Nat) (p : Pe) : (setPe s tile elem p).xl = s.xl := rfl
@[simp] theorem setPe_ops (s : State) (tile elem : Nat) (p : Pe) : (setPe s tile elem p).ops = s.ops := rfl
@[simp] theorem setPe_syn (s : State) (tile elem : Nat) (p : Pe) : (setPe s tile elem p).syn = s.syn := rfl
@[simp] theorem setPe_ctxs (s : State) (tile elem : Nat) (p : Pe) : (setPe s tile elem p).ctxs = s.ctxs := rfl
@[simp] theorem setPe_astat (s : State) (tile elem : Nat) (p : Pe) : (setPe s tile elem p).astat = s.astat := rfl
@[simp] theorem setPe_isl (s : State) (tile elem : Nat) (p : Pe) : (setPe s tile elem p).isl = s.isl := rfl
@[simp] theorem setPe_rws (s : State) (tile elem : Nat) (p : Pe) : (setPe s tile elem p).rws = s.rws := rfl
@[simp] theorem setPe_net (s : State) (tile elem : Nat) (p : Pe) : (setPe s tile elem p).net = s.net := rfl
@[simp] theorem setPe_bal (s : State) (tile elem : Nat) (p : Pe) : (setPe s tile elem p).bal = s.bal := rfl
@[simp] theorem setPe_sch (s : State) (tile elem : Nat) (p : Pe) : (setPe s tile elem p).sch = s.sch := rfl
@[simp] theorem setPe_host (s : State) (tile elem : Nat) (p : Pe) : (setPe s tile elem p).host = s.host := rfl
@[simp] theorem setPe_dev (s : State) (tile elem : Nat) (p : Pe) : (setPe s tile elem p).dev = s.dev := rfl
@[simp] theorem setPe_tele (s : State) (tile elem : Nat) (p : Pe) : (setPe s tile elem p).tele = s.tele := rfl
@[simp] theorem setPe_health (s : State) (tile elem : Nat) (p : Pe) : (setPe s tile elem p).health = s.health := rfl

@[simp] theorem State.setTask_cyc (s : State) (τ : Task) : (s.setTask τ).cyc = s.cyc := rfl
@[simp] theorem State.setTask_agenda (s : State) (τ : Task) : (s.setTask τ).agenda = s.agenda := rfl
@[simp] theorem State.setTask_occ (s : State) (τ : Task) : (s.setTask τ).occ = s.occ := rfl
@[simp] theorem State.setTask_fresh (s : State) (τ : Task) : (s.setTask τ).fresh = s.fresh := rfl
@[simp] theorem State.setTask_nextId (s : State) (τ : Task) : (s.setTask τ).nextId = s.nextId := rfl
@[simp] theorem State.setTask_mem (s : State) (τ : Task) : (s.setTask τ).mem = s.mem := rfl
@[simp] theorem State.setTask_tab (s : State) (τ : Task) : (s.setTask τ).tab = s.tab := rfl
@[simp] theorem State.setTask_frm (s : State) (τ : Task) : (s.setTask τ).frm = s.frm := rfl
@[simp] theorem State.setTask_flt (s : State) (τ : Task) : (s.setTask τ).flt = s.flt := rfl
@[simp] theorem State.setTask_xl (s : State) (τ : Task) : (s.setTask τ).xl = s.xl := rfl
@[simp] theorem State.setTask_ops (s : State) (τ : Task) : (s.setTask τ).ops = s.ops := rfl
@[simp] theorem State.setTask_syn (s : State) (τ : Task) : (s.setTask τ).syn = s.syn := rfl
@[simp] theorem State.setTask_ctxs (s : State) (τ : Task) : (s.setTask τ).ctxs = s.ctxs := rfl
@[simp] theorem State.setTask_astat (s : State) (τ : Task) : (s.setTask τ).astat = s.astat := rfl
@[simp] theorem State.setTask_isl (s : State) (τ : Task) : (s.setTask τ).isl = s.isl := rfl
@[simp] theorem State.setTask_rws (s : State) (τ : Task) : (s.setTask τ).rws = s.rws := rfl
@[simp] theorem State.setTask_net (s : State) (τ : Task) : (s.setTask τ).net = s.net := rfl
@[simp] theorem State.setTask_bal (s : State) (τ : Task) : (s.setTask τ).bal = s.bal := rfl
@[simp] theorem State.setTask_sch (s : State) (τ : Task) : (s.setTask τ).sch = s.sch := rfl
@[simp] theorem State.setTask_host (s : State) (τ : Task) : (s.setTask τ).host = s.host := rfl
@[simp] theorem State.setTask_dev (s : State) (τ : Task) : (s.setTask τ).dev = s.dev := rfl
@[simp] theorem State.setTask_tele (s : State) (τ : Task) : (s.setTask τ).tele = s.tele := rfl
@[simp] theorem State.setTask_health (s : State) (τ : Task) : (s.setTask τ).health = s.health := rfl

@[simp] theorem State.dropTask_cyc (s : State) : s.dropTask.cyc = s.cyc := rfl
@[simp] theorem State.dropTask_agenda (s : State) : s.dropTask.agenda = s.agenda := rfl
@[simp] theorem State.dropTask_occ (s : State) : s.dropTask.occ = s.occ := rfl
@[simp] theorem State.dropTask_fresh (s : State) : s.dropTask.fresh = s.fresh := rfl
@[simp] theorem State.dropTask_nextId (s : State) : s.dropTask.nextId = s.nextId := rfl
@[simp] theorem State.dropTask_mem (s : State) : s.dropTask.mem = s.mem := rfl
@[simp] theorem State.dropTask_tab (s : State) : s.dropTask.tab = s.tab := rfl
@[simp] theorem State.dropTask_frm (s : State) : s.dropTask.frm = s.frm := rfl
@[simp] theorem State.dropTask_flt (s : State) : s.dropTask.flt = s.flt := rfl
@[simp] theorem State.dropTask_xl (s : State) : s.dropTask.xl = s.xl := rfl
@[simp] theorem State.dropTask_ops (s : State) : s.dropTask.ops = s.ops := rfl
@[simp] theorem State.dropTask_syn (s : State) : s.dropTask.syn = s.syn := rfl
@[simp] theorem State.dropTask_ctxs (s : State) : s.dropTask.ctxs = s.ctxs := rfl
@[simp] theorem State.dropTask_astat (s : State) : s.dropTask.astat = s.astat := rfl
@[simp] theorem State.dropTask_isl (s : State) : s.dropTask.isl = s.isl := rfl
@[simp] theorem State.dropTask_rws (s : State) : s.dropTask.rws = s.rws := rfl
@[simp] theorem State.dropTask_net (s : State) : s.dropTask.net = s.net := rfl
@[simp] theorem State.dropTask_bal (s : State) : s.dropTask.bal = s.bal := rfl
@[simp] theorem State.dropTask_sch (s : State) : s.dropTask.sch = s.sch := rfl
@[simp] theorem State.dropTask_host (s : State) : s.dropTask.host = s.host := rfl
@[simp] theorem State.dropTask_dev (s : State) : s.dropTask.dev = s.dev := rfl
@[simp] theorem State.dropTask_tele (s : State) : s.dropTask.tele = s.tele := rfl
@[simp] theorem State.dropTask_health (s : State) : s.dropTask.health = s.health := rfl

@[simp] theorem setOp_cyc (s : State) (o : Op) : (setOp s o).cyc = s.cyc := rfl
@[simp] theorem setOp_agenda (s : State) (o : Op) : (setOp s o).agenda = s.agenda := rfl
@[simp] theorem setOp_occ (s : State) (o : Op) : (setOp s o).occ = s.occ := rfl
@[simp] theorem setOp_fresh (s : State) (o : Op) : (setOp s o).fresh = s.fresh := rfl
@[simp] theorem setOp_nextId (s : State) (o : Op) : (setOp s o).nextId = s.nextId := rfl
@[simp] theorem setOp_mem (s : State) (o : Op) : (setOp s o).mem = s.mem := rfl
@[simp] theorem setOp_tab (s : State) (o : Op) : (setOp s o).tab = s.tab := rfl
@[simp] theorem setOp_frm (s : State) (o : Op) : (setOp s o).frm = s.frm := rfl
@[simp] theorem setOp_pe (s : State) (o : Op) : (setOp s o).pe = s.pe := rfl
@[simp] theorem setOp_flt (s : State) (o : Op) : (setOp s o).flt = s.flt := rfl
@[simp] theorem setOp_xl (s : State) (o : Op) : (setOp s o).xl = s.xl := rfl
@[simp] theorem setOp_ops (s : State) (o : Op) : (setOp s o).ops = s.ops.map (fun x => if x.id == o.id then o else x) := rfl
@[simp] theorem setOp_syn (s : State) (o : Op) : (setOp s o).syn = s.syn := rfl
@[simp] theorem setOp_ctxs (s : State) (o : Op) : (setOp s o).ctxs = s.ctxs := rfl
@[simp] theorem setOp_astat (s : State) (o : Op) : (setOp s o).astat = s.astat := rfl
@[simp] theorem setOp_isl (s : State) (o : Op) : (setOp s o).isl = s.isl := rfl
@[simp] theorem setOp_rws (s : State) (o : Op) : (setOp s o).rws = s.rws := rfl
@[simp] theorem setOp_net (s : State) (o : Op) : (setOp s o).net = s.net := rfl
@[simp] theorem setOp_bal (s : State) (o : Op) : (setOp s o).bal = s.bal := rfl
@[simp] theorem setOp_sch (s : State) (o : Op) : (setOp s o).sch = s.sch := rfl
@[simp] theorem setOp_host (s : State) (o : Op) : (setOp s o).host = s.host := rfl
@[simp] theorem setOp_dev (s : State) (o : Op) : (setOp s o).dev = s.dev := rfl
@[simp] theorem setOp_tele (s : State) (o : Op) : (setOp s o).tele = s.tele := rfl
@[simp] theorem setOp_health (s : State) (o : Op) : (setOp s o).health = s.health := rfl

@[simp] theorem dropOp_cyc (s : State) (id : Nat) : (dropOp s id).cyc = s.cyc := rfl
@[simp] theorem dropOp_agenda (s : State) (id : Nat) : (dropOp s id).agenda = s.agenda := rfl
@[simp] theorem dropOp_occ (s : State) (id : Nat) : (dropOp s id).occ = s.occ := rfl
@[simp] theorem dropOp_fresh (s : State) (id : Nat) : (dropOp s id).fresh = s.fresh := rfl
@[simp] theorem dropOp_nextId (s : State) (id : Nat) : (dropOp s id).nextId = s.nextId := rfl
@[simp] theorem dropOp_mem (s : State) (id : Nat) : (dropOp s id).mem = s.mem := rfl
@[simp] theorem dropOp_tab (s : State) (id : Nat) : (dropOp s id).tab = s.tab := rfl
@[simp] theorem dropOp_frm (s : State) (id : Nat) : (dropOp s id).frm = s.frm := rfl
@[simp] theorem dropOp_pe (s : State) (id : Nat) : (dropOp s id).pe = s.pe := rfl
@[simp] theorem dropOp_flt (s : State) (id : Nat) : (dropOp s id).flt = s.flt := rfl
@[simp] theorem dropOp_xl (s : State) (id : Nat) : (dropOp s id).xl = s.xl := rfl
@[simp] theorem dropOp_ops (s : State) (id : Nat) : (dropOp s id).ops = s.ops.filter (·.id != id) := rfl
@[simp] theorem dropOp_syn (s : State) (id : Nat) : (dropOp s id).syn = s.syn := rfl
@[simp] theorem dropOp_ctxs (s : State) (id : Nat) : (dropOp s id).ctxs = s.ctxs := rfl
@[simp] theorem dropOp_astat (s : State) (id : Nat) : (dropOp s id).astat = s.astat := rfl
@[simp] theorem dropOp_isl (s : State) (id : Nat) : (dropOp s id).isl = s.isl := rfl
@[simp] theorem dropOp_rws (s : State) (id : Nat) : (dropOp s id).rws = s.rws := rfl
@[simp] theorem dropOp_net (s : State) (id : Nat) : (dropOp s id).net = s.net := rfl
@[simp] theorem dropOp_bal (s : State) (id : Nat) : (dropOp s id).bal = s.bal := rfl
@[simp] theorem dropOp_sch (s : State) (id : Nat) : (dropOp s id).sch = s.sch := rfl
@[simp] theorem dropOp_host (s : State) (id : Nat) : (dropOp s id).host = s.host := rfl
@[simp] theorem dropOp_dev (s : State) (id : Nat) : (dropOp s id).dev = s.dev := rfl
@[simp] theorem dropOp_tele (s : State) (id : Nat) : (dropOp s id).tele = s.tele := rfl
@[simp] theorem dropOp_health (s : State) (id : Nat) : (dropOp s id).health = s.health := rfl

@[simp] theorem addOp_cyc (s : State) (o : Op) : (addOp s o).cyc = s.cyc := rfl
@[simp] theorem addOp_agenda (s : State) (o : Op) : (addOp s o).agenda = s.agenda := rfl
@[simp] theorem addOp_occ (s : State) (o : Op) : (addOp s o).occ = s.occ := rfl
@[simp] theorem addOp_fresh (s : State) (o : Op) : (addOp s o).fresh = s.fresh := rfl
@[simp] theorem addOp_nextId (s : State) (o : Op) : (addOp s o).nextId = s.nextId + 1 := rfl
@[simp] theorem addOp_mem (s : State) (o : Op) : (addOp s o).mem = s.mem := rfl
@[simp] theorem addOp_tab (s : State) (o : Op) : (addOp s o).tab = s.tab := rfl
@[simp] theorem addOp_frm (s : State) (o : Op) : (addOp s o).frm = s.frm := rfl
@[simp] theorem addOp_pe (s : State) (o : Op) : (addOp s o).pe = s.pe := rfl
@[simp] theorem addOp_flt (s : State) (o : Op) : (addOp s o).flt = s.flt := rfl
@[simp] theorem addOp_xl (s : State) (o : Op) : (addOp s o).xl = s.xl := rfl
@[simp] theorem addOp_ops (s : State) (o : Op) : (addOp s o).ops = s.ops ++ [{ o with id := s.nextId }] := rfl
@[simp] theorem addOp_syn (s : State) (o : Op) : (addOp s o).syn = s.syn := rfl
@[simp] theorem addOp_ctxs (s : State) (o : Op) : (addOp s o).ctxs = s.ctxs := rfl
@[simp] theorem addOp_astat (s : State) (o : Op) : (addOp s o).astat = s.astat := rfl
@[simp] theorem addOp_isl (s : State) (o : Op) : (addOp s o).isl = s.isl := rfl
@[simp] theorem addOp_rws (s : State) (o : Op) : (addOp s o).rws = s.rws := rfl
@[simp] theorem addOp_net (s : State) (o : Op) : (addOp s o).net = s.net := rfl
@[simp] theorem addOp_bal (s : State) (o : Op) : (addOp s o).bal = s.bal := rfl
@[simp] theorem addOp_sch (s : State) (o : Op) : (addOp s o).sch = s.sch := rfl
@[simp] theorem addOp_host (s : State) (o : Op) : (addOp s o).host = s.host := rfl
@[simp] theorem addOp_dev (s : State) (o : Op) : (addOp s o).dev = s.dev := rfl
@[simp] theorem addOp_tele (s : State) (o : Op) : (addOp s o).tele = s.tele := rfl
@[simp] theorem addOp_health (s : State) (o : Op) : (addOp s o).health = s.health := rfl

@[simp] theorem setWindow_cyc (s : State) (tile rank c : Nat) (w : Window) : (setWindow s tile rank c w).cyc = s.cyc := rfl
@[simp] theorem setWindow_agenda (s : State) (tile rank c : Nat) (w : Window) : (setWindow s tile rank c w).agenda = s.agenda := rfl
@[simp] theorem setWindow_occ (s : State) (tile rank c : Nat) (w : Window) : (setWindow s tile rank c w).occ = s.occ := rfl
@[simp] theorem setWindow_fresh (s : State) (tile rank c : Nat) (w : Window) : (setWindow s tile rank c w).fresh = s.fresh := rfl
@[simp] theorem setWindow_nextId (s : State) (tile rank c : Nat) (w : Window) : (setWindow s tile rank c w).nextId = s.nextId := rfl
@[simp] theorem setWindow_mem (s : State) (tile rank c : Nat) (w : Window) : (setWindow s tile rank c w).mem = s.mem := rfl
@[simp] theorem setWindow_tab (s : State) (tile rank c : Nat) (w : Window) : (setWindow s tile rank c w).tab = s.tab := rfl
@[simp] theorem setWindow_frm_slots (s : State) (tile rank c : Nat) (w : Window) : (setWindow s tile rank c w).frm.slots = s.frm.slots := rfl
@[simp] theorem setWindow_frm_slotBad (s : State) (tile rank c : Nat) (w : Window) : (setWindow s tile rank c w).frm.slotBad = s.frm.slotBad := rfl
@[simp] theorem setWindow_frm_windows (s : State) (tile rank c : Nat) (w : Window) : (setWindow s tile rank c w).frm.windows = sset s.frm.windows (winKey s tile rank c) w := rfl
@[simp] theorem setWindow_frm_ready (s : State) (tile rank c : Nat) (w : Window) : (setWindow s tile rank c w).frm.ready = s.frm.ready := rfl
@[simp] theorem setWindow_frm_inbox (s : State) (tile rank c : Nat) (w : Window) : (setWindow s tile rank c w).frm.inbox = s.frm.inbox := rfl
@[simp] theorem setWindow_frm_owned (s : State) (tile rank c : Nat) (w : Window) : (setWindow s tile rank c w).frm.owned = s.frm.owned := rfl
@[simp] theorem setWindow_frm_frozen (s : State) (tile rank c : Nat) (w : Window) : (setWindow s tile rank c w).frm.frozen = s.frm.frozen := rfl
@[simp] theorem setWindow_frm_cancels (s : State) (tile rank c : Nat) (w : Window) : (setWindow s tile rank c w).frm.cancels = s.frm.cancels := rfl
@[simp] theorem setWindow_pe (s : State) (tile rank c : Nat) (w : Window) : (setWindow s tile rank c w).pe = s.pe := rfl
@[simp] theorem setWindow_flt (s : State) (tile rank c : Nat) (w : Window) : (setWindow s tile rank c w).flt = s.flt := rfl
@[simp] theorem setWindow_xl (s : State) (tile rank c : Nat) (w : Window) : (setWindow s tile rank c w).xl = s.xl := rfl
@[simp] theorem setWindow_ops (s : State) (tile rank c : Nat) (w : Window) : (setWindow s tile rank c w).ops = s.ops := rfl
@[simp] theorem setWindow_syn (s : State) (tile rank c : Nat) (w : Window) : (setWindow s tile rank c w).syn = s.syn := rfl
@[simp] theorem setWindow_ctxs (s : State) (tile rank c : Nat) (w : Window) : (setWindow s tile rank c w).ctxs = s.ctxs := rfl
@[simp] theorem setWindow_astat (s : State) (tile rank c : Nat) (w : Window) : (setWindow s tile rank c w).astat = s.astat := rfl
@[simp] theorem setWindow_isl (s : State) (tile rank c : Nat) (w : Window) : (setWindow s tile rank c w).isl = s.isl := rfl
@[simp] theorem setWindow_rws (s : State) (tile rank c : Nat) (w : Window) : (setWindow s tile rank c w).rws = s.rws := rfl
@[simp] theorem setWindow_net (s : State) (tile rank c : Nat) (w : Window) : (setWindow s tile rank c w).net = s.net := rfl
@[simp] theorem setWindow_bal (s : State) (tile rank c : Nat) (w : Window) : (setWindow s tile rank c w).bal = s.bal := rfl
@[simp] theorem setWindow_sch (s : State) (tile rank c : Nat) (w : Window) : (setWindow s tile rank c w).sch = s.sch := rfl
@[simp] theorem setWindow_host (s : State) (tile rank c : Nat) (w : Window) : (setWindow s tile rank c w).host = s.host := rfl
@[simp] theorem setWindow_dev (s : State) (tile rank c : Nat) (w : Window) : (setWindow s tile rank c w).dev = s.dev := rfl
@[simp] theorem setWindow_tele (s : State) (tile rank c : Nat) (w : Window) : (setWindow s tile rank c w).tele = s.tele := rfl
@[simp] theorem setWindow_health (s : State) (tile rank c : Nat) (w : Window) : (setWindow s tile rank c w).health = s.health := rfl

@[simp] theorem setPosition_cyc (s : State) (tile rank c i : Nat) (p : Position) : (setPosition s tile rank c i p).cyc = s.cyc := rfl
@[simp] theorem setPosition_agenda (s : State) (tile rank c i : Nat) (p : Position) : (setPosition s tile rank c i p).agenda = s.agenda := rfl
@[simp] theorem setPosition_occ (s : State) (tile rank c i : Nat) (p : Position) : (setPosition s tile rank c i p).occ = s.occ := rfl
@[simp] theorem setPosition_fresh (s : State) (tile rank c i : Nat) (p : Position) : (setPosition s tile rank c i p).fresh = s.fresh := rfl
@[simp] theorem setPosition_nextId (s : State) (tile rank c i : Nat) (p : Position) : (setPosition s tile rank c i p).nextId = s.nextId := rfl
@[simp] theorem setPosition_mem (s : State) (tile rank c i : Nat) (p : Position) : (setPosition s tile rank c i p).mem = s.mem := rfl
@[simp] theorem setPosition_tab (s : State) (tile rank c i : Nat) (p : Position) : (setPosition s tile rank c i p).tab = s.tab := rfl
@[simp] theorem setPosition_frm_slots (s : State) (tile rank c i : Nat) (p : Position) : (setPosition s tile rank c i p).frm.slots = s.frm.slots := rfl
@[simp] theorem setPosition_frm_slotBad (s : State) (tile rank c i : Nat) (p : Position) : (setPosition s tile rank c i p).frm.slotBad = s.frm.slotBad := rfl
@[simp] theorem setPosition_frm_ready (s : State) (tile rank c i : Nat) (p : Position) : (setPosition s tile rank c i p).frm.ready = s.frm.ready := rfl
@[simp] theorem setPosition_frm_inbox (s : State) (tile rank c i : Nat) (p : Position) : (setPosition s tile rank c i p).frm.inbox = s.frm.inbox := rfl
@[simp] theorem setPosition_frm_owned (s : State) (tile rank c i : Nat) (p : Position) : (setPosition s tile rank c i p).frm.owned = s.frm.owned := rfl
@[simp] theorem setPosition_frm_frozen (s : State) (tile rank c i : Nat) (p : Position) : (setPosition s tile rank c i p).frm.frozen = s.frm.frozen := rfl
@[simp] theorem setPosition_frm_cancels (s : State) (tile rank c i : Nat) (p : Position) : (setPosition s tile rank c i p).frm.cancels = s.frm.cancels := rfl
@[simp] theorem setPosition_pe (s : State) (tile rank c i : Nat) (p : Position) : (setPosition s tile rank c i p).pe = s.pe := rfl
@[simp] theorem setPosition_flt (s : State) (tile rank c i : Nat) (p : Position) : (setPosition s tile rank c i p).flt = s.flt := rfl
@[simp] theorem setPosition_xl (s : State) (tile rank c i : Nat) (p : Position) : (setPosition s tile rank c i p).xl = s.xl := rfl
@[simp] theorem setPosition_ops (s : State) (tile rank c i : Nat) (p : Position) : (setPosition s tile rank c i p).ops = s.ops := rfl
@[simp] theorem setPosition_syn (s : State) (tile rank c i : Nat) (p : Position) : (setPosition s tile rank c i p).syn = s.syn := rfl
@[simp] theorem setPosition_ctxs (s : State) (tile rank c i : Nat) (p : Position) : (setPosition s tile rank c i p).ctxs = s.ctxs := rfl
@[simp] theorem setPosition_astat (s : State) (tile rank c i : Nat) (p : Position) : (setPosition s tile rank c i p).astat = s.astat := rfl
@[simp] theorem setPosition_isl (s : State) (tile rank c i : Nat) (p : Position) : (setPosition s tile rank c i p).isl = s.isl := rfl
@[simp] theorem setPosition_rws (s : State) (tile rank c i : Nat) (p : Position) : (setPosition s tile rank c i p).rws = s.rws := rfl
@[simp] theorem setPosition_net (s : State) (tile rank c i : Nat) (p : Position) : (setPosition s tile rank c i p).net = s.net := rfl
@[simp] theorem setPosition_bal (s : State) (tile rank c i : Nat) (p : Position) : (setPosition s tile rank c i p).bal = s.bal := rfl
@[simp] theorem setPosition_sch (s : State) (tile rank c i : Nat) (p : Position) : (setPosition s tile rank c i p).sch = s.sch := rfl
@[simp] theorem setPosition_host (s : State) (tile rank c i : Nat) (p : Position) : (setPosition s tile rank c i p).host = s.host := rfl
@[simp] theorem setPosition_dev (s : State) (tile rank c i : Nat) (p : Position) : (setPosition s tile rank c i p).dev = s.dev := rfl
@[simp] theorem setPosition_tele (s : State) (tile rank c i : Nat) (p : Position) : (setPosition s tile rank c i p).tele = s.tele := rfl
@[simp] theorem setPosition_health (s : State) (tile rank c i : Nat) (p : Position) : (setPosition s tile rank c i p).health = s.health := rfl

@[simp] theorem setTileReg_cyc (s : State) (tile n : Nat) (v : Word) : (setTileReg s tile n v).cyc = s.cyc := rfl
@[simp] theorem setTileReg_agenda (s : State) (tile n : Nat) (v : Word) : (setTileReg s tile n v).agenda = s.agenda := rfl
@[simp] theorem setTileReg_occ (s : State) (tile n : Nat) (v : Word) : (setTileReg s tile n v).occ = s.occ := rfl
@[simp] theorem setTileReg_fresh (s : State) (tile n : Nat) (v : Word) : (setTileReg s tile n v).fresh = s.fresh := rfl
@[simp] theorem setTileReg_nextId (s : State) (tile n : Nat) (v : Word) : (setTileReg s tile n v).nextId = s.nextId := rfl
@[simp] theorem setTileReg_mem (s : State) (tile n : Nat) (v : Word) : (setTileReg s tile n v).mem = s.mem := rfl
@[simp] theorem setTileReg_tab (s : State) (tile n : Nat) (v : Word) : (setTileReg s tile n v).tab = s.tab := rfl
@[simp] theorem setTileReg_frm (s : State) (tile n : Nat) (v : Word) : (setTileReg s tile n v).frm = s.frm := rfl
@[simp] theorem setTileReg_pe (s : State) (tile n : Nat) (v : Word) : (setTileReg s tile n v).pe = s.pe := rfl
@[simp] theorem setTileReg_flt_pending (s : State) (tile n : Nat) (v : Word) : (setTileReg s tile n v).flt.pending = s.flt.pending := rfl
@[simp] theorem setTileReg_flt_parked (s : State) (tile n : Nat) (v : Word) : (setTileReg s tile n v).flt.parked = s.flt.parked := rfl
@[simp] theorem setTileReg_flt_supq (s : State) (tile n : Nat) (v : Word) : (setTileReg s tile n v).flt.supq = s.flt.supq := rfl
@[simp] theorem setTileReg_flt_busy (s : State) (tile n : Nat) (v : Word) : (setTileReg s tile n v).flt.busy = s.flt.busy := rfl
@[simp] theorem setTileReg_flt_fseq (s : State) (tile n : Nat) (v : Word) : (setTileReg s tile n v).flt.fseq = s.flt.fseq := rfl
@[simp] theorem setTileReg_flt_regs (s : State) (tile n : Nat) (v : Word) : (setTileReg s tile n v).flt.regs = sset s.flt.regs (tile * 16 + n) v := rfl
@[simp] theorem setTileReg_flt_halted (s : State) (tile n : Nat) (v : Word) : (setTileReg s tile n v).flt.halted = s.flt.halted := rfl
@[simp] theorem setTileReg_flt_resumed (s : State) (tile n : Nat) (v : Word) : (setTileReg s tile n v).flt.resumed = s.flt.resumed := rfl
@[simp] theorem setTileReg_flt_resuming (s : State) (tile n : Nat) (v : Word) : (setTileReg s tile n v).flt.resuming = s.flt.resuming := rfl
@[simp] theorem setTileReg_flt_haltCtx (s : State) (tile n : Nat) (v : Word) : (setTileReg s tile n v).flt.haltCtx = s.flt.haltCtx := rfl
@[simp] theorem setTileReg_flt_haltRecs (s : State) (tile n : Nat) (v : Word) : (setTileReg s tile n v).flt.haltRecs = s.flt.haltRecs := rfl
@[simp] theorem setTileReg_xl (s : State) (tile n : Nat) (v : Word) : (setTileReg s tile n v).xl = s.xl := rfl
@[simp] theorem setTileReg_ops (s : State) (tile n : Nat) (v : Word) : (setTileReg s tile n v).ops = s.ops := rfl
@[simp] theorem setTileReg_syn (s : State) (tile n : Nat) (v : Word) : (setTileReg s tile n v).syn = s.syn := rfl
@[simp] theorem setTileReg_ctxs (s : State) (tile n : Nat) (v : Word) : (setTileReg s tile n v).ctxs = s.ctxs := rfl
@[simp] theorem setTileReg_astat (s : State) (tile n : Nat) (v : Word) : (setTileReg s tile n v).astat = s.astat := rfl
@[simp] theorem setTileReg_isl (s : State) (tile n : Nat) (v : Word) : (setTileReg s tile n v).isl = s.isl := rfl
@[simp] theorem setTileReg_rws (s : State) (tile n : Nat) (v : Word) : (setTileReg s tile n v).rws = s.rws := rfl
@[simp] theorem setTileReg_net (s : State) (tile n : Nat) (v : Word) : (setTileReg s tile n v).net = s.net := rfl
@[simp] theorem setTileReg_bal (s : State) (tile n : Nat) (v : Word) : (setTileReg s tile n v).bal = s.bal := rfl
@[simp] theorem setTileReg_sch (s : State) (tile n : Nat) (v : Word) : (setTileReg s tile n v).sch = s.sch := rfl
@[simp] theorem setTileReg_host (s : State) (tile n : Nat) (v : Word) : (setTileReg s tile n v).host = s.host := rfl
@[simp] theorem setTileReg_dev (s : State) (tile n : Nat) (v : Word) : (setTileReg s tile n v).dev = s.dev := rfl
@[simp] theorem setTileReg_tele (s : State) (tile n : Nat) (v : Word) : (setTileReg s tile n v).tele = s.tele := rfl
@[simp] theorem setTileReg_health (s : State) (tile n : Nat) (v : Word) : (setTileReg s tile n v).health = s.health := rfl

@[simp] theorem enqueueFault_cyc (s : State) (tile : Nat) (r : FaultRec) : (enqueueFault s tile r).cyc = s.cyc := rfl
@[simp] theorem enqueueFault_agenda (s : State) (tile : Nat) (r : FaultRec) : (enqueueFault s tile r).agenda = s.agenda := rfl
@[simp] theorem enqueueFault_occ (s : State) (tile : Nat) (r : FaultRec) : (enqueueFault s tile r).occ = s.occ := rfl
@[simp] theorem enqueueFault_fresh (s : State) (tile : Nat) (r : FaultRec) : (enqueueFault s tile r).fresh = s.fresh := rfl
@[simp] theorem enqueueFault_nextId (s : State) (tile : Nat) (r : FaultRec) : (enqueueFault s tile r).nextId = s.nextId := rfl
@[simp] theorem enqueueFault_mem (s : State) (tile : Nat) (r : FaultRec) : (enqueueFault s tile r).mem = s.mem := rfl
@[simp] theorem enqueueFault_tab (s : State) (tile : Nat) (r : FaultRec) : (enqueueFault s tile r).tab = s.tab := rfl
@[simp] theorem enqueueFault_frm (s : State) (tile : Nat) (r : FaultRec) : (enqueueFault s tile r).frm = s.frm := rfl
@[simp] theorem enqueueFault_pe (s : State) (tile : Nat) (r : FaultRec) : (enqueueFault s tile r).pe = s.pe := rfl
@[simp] theorem enqueueFault_flt_pending (s : State) (tile : Nat) (r : FaultRec) : (enqueueFault s tile r).flt.pending = s.flt.pending ++ [{ tile := tile, fr := r, deliver := true }] := rfl
@[simp] theorem enqueueFault_flt_parked (s : State) (tile : Nat) (r : FaultRec) : (enqueueFault s tile r).flt.parked = s.flt.parked := rfl
@[simp] theorem enqueueFault_flt_supq (s : State) (tile : Nat) (r : FaultRec) : (enqueueFault s tile r).flt.supq = s.flt.supq := rfl
@[simp] theorem enqueueFault_flt_busy (s : State) (tile : Nat) (r : FaultRec) : (enqueueFault s tile r).flt.busy = s.flt.busy := rfl
@[simp] theorem enqueueFault_flt_fseq (s : State) (tile : Nat) (r : FaultRec) : (enqueueFault s tile r).flt.fseq = s.flt.fseq := rfl
@[simp] theorem enqueueFault_flt_regs (s : State) (tile : Nat) (r : FaultRec) : (enqueueFault s tile r).flt.regs = s.flt.regs := rfl
@[simp] theorem enqueueFault_flt_halted (s : State) (tile : Nat) (r : FaultRec) : (enqueueFault s tile r).flt.halted = s.flt.halted := rfl
@[simp] theorem enqueueFault_flt_resumed (s : State) (tile : Nat) (r : FaultRec) : (enqueueFault s tile r).flt.resumed = s.flt.resumed := rfl
@[simp] theorem enqueueFault_flt_resuming (s : State) (tile : Nat) (r : FaultRec) : (enqueueFault s tile r).flt.resuming = s.flt.resuming := rfl
@[simp] theorem enqueueFault_flt_haltCtx (s : State) (tile : Nat) (r : FaultRec) : (enqueueFault s tile r).flt.haltCtx = s.flt.haltCtx := rfl
@[simp] theorem enqueueFault_flt_haltRecs (s : State) (tile : Nat) (r : FaultRec) : (enqueueFault s tile r).flt.haltRecs = s.flt.haltRecs := rfl
@[simp] theorem enqueueFault_xl (s : State) (tile : Nat) (r : FaultRec) : (enqueueFault s tile r).xl = s.xl := rfl
@[simp] theorem enqueueFault_ops (s : State) (tile : Nat) (r : FaultRec) : (enqueueFault s tile r).ops = s.ops := rfl
@[simp] theorem enqueueFault_syn (s : State) (tile : Nat) (r : FaultRec) : (enqueueFault s tile r).syn = s.syn := rfl
@[simp] theorem enqueueFault_ctxs (s : State) (tile : Nat) (r : FaultRec) : (enqueueFault s tile r).ctxs = s.ctxs := rfl
@[simp] theorem enqueueFault_astat (s : State) (tile : Nat) (r : FaultRec) : (enqueueFault s tile r).astat = s.astat := rfl
@[simp] theorem enqueueFault_isl (s : State) (tile : Nat) (r : FaultRec) : (enqueueFault s tile r).isl = s.isl := rfl
@[simp] theorem enqueueFault_rws (s : State) (tile : Nat) (r : FaultRec) : (enqueueFault s tile r).rws = s.rws := rfl
@[simp] theorem enqueueFault_net (s : State) (tile : Nat) (r : FaultRec) : (enqueueFault s tile r).net = s.net := rfl
@[simp] theorem enqueueFault_bal (s : State) (tile : Nat) (r : FaultRec) : (enqueueFault s tile r).bal = s.bal := rfl
@[simp] theorem enqueueFault_sch (s : State) (tile : Nat) (r : FaultRec) : (enqueueFault s tile r).sch = s.sch := rfl
@[simp] theorem enqueueFault_host (s : State) (tile : Nat) (r : FaultRec) : (enqueueFault s tile r).host = s.host := rfl
@[simp] theorem enqueueFault_dev (s : State) (tile : Nat) (r : FaultRec) : (enqueueFault s tile r).dev = s.dev := rfl
@[simp] theorem enqueueFault_tele (s : State) (tile : Nat) (r : FaultRec) : (enqueueFault s tile r).tele = s.tele := rfl
@[simp] theorem enqueueFault_health (s : State) (tile : Nat) (r : FaultRec) : (enqueueFault s tile r).health = s.health := rfl

@[simp] theorem toSupervisor_cyc (s : State) (tile : Nat) (r : FaultRec) : (toSupervisor s tile r).cyc = s.cyc := rfl
@[simp] theorem toSupervisor_agenda (s : State) (tile : Nat) (r : FaultRec) : (toSupervisor s tile r).agenda = s.agenda := rfl
@[simp] theorem toSupervisor_occ (s : State) (tile : Nat) (r : FaultRec) : (toSupervisor s tile r).occ = s.occ := rfl
@[simp] theorem toSupervisor_fresh (s : State) (tile : Nat) (r : FaultRec) : (toSupervisor s tile r).fresh = s.fresh := rfl
@[simp] theorem toSupervisor_nextId (s : State) (tile : Nat) (r : FaultRec) : (toSupervisor s tile r).nextId = s.nextId := rfl
@[simp] theorem toSupervisor_mem (s : State) (tile : Nat) (r : FaultRec) : (toSupervisor s tile r).mem = s.mem := rfl
@[simp] theorem toSupervisor_tab (s : State) (tile : Nat) (r : FaultRec) : (toSupervisor s tile r).tab = s.tab := rfl
@[simp] theorem toSupervisor_frm (s : State) (tile : Nat) (r : FaultRec) : (toSupervisor s tile r).frm = s.frm := rfl
@[simp] theorem toSupervisor_pe (s : State) (tile : Nat) (r : FaultRec) : (toSupervisor s tile r).pe = s.pe := rfl
@[simp] theorem toSupervisor_flt_pending (s : State) (tile : Nat) (r : FaultRec) : (toSupervisor s tile r).flt.pending = s.flt.pending := rfl
@[simp] theorem toSupervisor_flt_parked (s : State) (tile : Nat) (r : FaultRec) : (toSupervisor s tile r).flt.parked = s.flt.parked := rfl
@[simp] theorem toSupervisor_flt_busy (s : State) (tile : Nat) (r : FaultRec) : (toSupervisor s tile r).flt.busy = s.flt.busy := rfl
@[simp] theorem toSupervisor_flt_fseq (s : State) (tile : Nat) (r : FaultRec) : (toSupervisor s tile r).flt.fseq = s.flt.fseq := rfl
@[simp] theorem toSupervisor_flt_regs (s : State) (tile : Nat) (r : FaultRec) : (toSupervisor s tile r).flt.regs = s.flt.regs := rfl
@[simp] theorem toSupervisor_flt_halted (s : State) (tile : Nat) (r : FaultRec) : (toSupervisor s tile r).flt.halted = s.flt.halted := rfl
@[simp] theorem toSupervisor_flt_resumed (s : State) (tile : Nat) (r : FaultRec) : (toSupervisor s tile r).flt.resumed = s.flt.resumed := rfl
@[simp] theorem toSupervisor_flt_resuming (s : State) (tile : Nat) (r : FaultRec) : (toSupervisor s tile r).flt.resuming = s.flt.resuming := rfl
@[simp] theorem toSupervisor_flt_haltCtx (s : State) (tile : Nat) (r : FaultRec) : (toSupervisor s tile r).flt.haltCtx = s.flt.haltCtx := rfl
@[simp] theorem toSupervisor_flt_haltRecs (s : State) (tile : Nat) (r : FaultRec) : (toSupervisor s tile r).flt.haltRecs = s.flt.haltRecs := rfl
@[simp] theorem toSupervisor_xl (s : State) (tile : Nat) (r : FaultRec) : (toSupervisor s tile r).xl = s.xl := rfl
@[simp] theorem toSupervisor_ops (s : State) (tile : Nat) (r : FaultRec) : (toSupervisor s tile r).ops = s.ops := rfl
@[simp] theorem toSupervisor_syn (s : State) (tile : Nat) (r : FaultRec) : (toSupervisor s tile r).syn = s.syn := rfl
@[simp] theorem toSupervisor_ctxs (s : State) (tile : Nat) (r : FaultRec) : (toSupervisor s tile r).ctxs = s.ctxs := rfl
@[simp] theorem toSupervisor_astat (s : State) (tile : Nat) (r : FaultRec) : (toSupervisor s tile r).astat = s.astat := rfl
@[simp] theorem toSupervisor_isl (s : State) (tile : Nat) (r : FaultRec) : (toSupervisor s tile r).isl = s.isl := rfl
@[simp] theorem toSupervisor_rws (s : State) (tile : Nat) (r : FaultRec) : (toSupervisor s tile r).rws = s.rws := rfl
@[simp] theorem toSupervisor_net (s : State) (tile : Nat) (r : FaultRec) : (toSupervisor s tile r).net = s.net := rfl
@[simp] theorem toSupervisor_bal (s : State) (tile : Nat) (r : FaultRec) : (toSupervisor s tile r).bal = s.bal := rfl
@[simp] theorem toSupervisor_sch (s : State) (tile : Nat) (r : FaultRec) : (toSupervisor s tile r).sch = s.sch := rfl
@[simp] theorem toSupervisor_host (s : State) (tile : Nat) (r : FaultRec) : (toSupervisor s tile r).host = s.host := rfl
@[simp] theorem toSupervisor_dev (s : State) (tile : Nat) (r : FaultRec) : (toSupervisor s tile r).dev = s.dev := rfl
@[simp] theorem toSupervisor_tele (s : State) (tile : Nat) (r : FaultRec) : (toSupervisor s tile r).tele = s.tele := rfl
@[simp] theorem toSupervisor_health (s : State) (tile : Nat) (r : FaultRec) : (toSupervisor s tile r).health = s.health := rfl

@[simp] theorem setPen_cyc (s : State) (tile n : Nat) (p : Pen) : (setPen s tile n p).cyc = s.cyc := rfl
@[simp] theorem setPen_agenda (s : State) (tile n : Nat) (p : Pen) : (setPen s tile n p).agenda = s.agenda := rfl
@[simp] theorem setPen_occ (s : State) (tile n : Nat) (p : Pen) : (setPen s tile n p).occ = s.occ := rfl
@[simp] theorem setPen_fresh (s : State) (tile n : Nat) (p : Pen) : (setPen s tile n p).fresh = s.fresh := rfl
@[simp] theorem setPen_nextId (s : State) (tile n : Nat) (p : Pen) : (setPen s tile n p).nextId = s.nextId := rfl
@[simp] theorem setPen_mem (s : State) (tile n : Nat) (p : Pen) : (setPen s tile n p).mem = s.mem := rfl
@[simp] theorem setPen_tab_plan (s : State) (tile n : Nat) (p : Pen) : (setPen s tile n p).tab.plan = s.tab.plan := rfl
@[simp] theorem setPen_tab_pens (s : State) (tile n : Nat) (p : Pen) : (setPen s tile n p).tab.pens = sset s.tab.pens (tile * 1024 + n) p := rfl
@[simp] theorem setPen_tab_troughs (s : State) (tile n : Nat) (p : Pen) : (setPen s tile n p).tab.troughs = s.tab.troughs := rfl
@[simp] theorem setPen_tab_fplans (s : State) (tile n : Nat) (p : Pen) : (setPen s tile n p).tab.fplans = s.tab.fplans := rfl
@[simp] theorem setPen_tab_stages (s : State) (tile n : Nat) (p : Pen) : (setPen s tile n p).tab.stages = s.tab.stages := rfl
@[simp] theorem setPen_tab_blocks (s : State) (tile n : Nat) (p : Pen) : (setPen s tile n p).tab.blocks = s.tab.blocks := rfl
@[simp] theorem setPen_tab_gblocks (s : State) (tile n : Nat) (p : Pen) : (setPen s tile n p).tab.gblocks = s.tab.gblocks := rfl
@[simp] theorem setPen_tab_lists (s : State) (tile n : Nat) (p : Pen) : (setPen s tile n p).tab.lists = s.tab.lists := rfl
@[simp] theorem setPen_tab_ports (s : State) (tile n : Nat) (p : Pen) : (setPen s tile n p).tab.ports = s.tab.ports := rfl
@[simp] theorem setPen_tab_imem (s : State) (tile n : Nat) (p : Pen) : (setPen s tile n p).tab.imem = s.tab.imem := rfl
@[simp] theorem setPen_tab_owner (s : State) (tile n : Nat) (p : Pen) : (setPen s tile n p).tab.owner = s.tab.owner := rfl
@[simp] theorem setPen_tab_ltiles (s : State) (tile n : Nat) (p : Pen) : (setPen s tile n p).tab.ltiles = s.tab.ltiles := rfl
@[simp] theorem setPen_tab_cfgAt (s : State) (tile n : Nat) (p : Pen) : (setPen s tile n p).tab.cfgAt = s.tab.cfgAt := rfl
@[simp] theorem setPen_tab_gaitReg (s : State) (tile n : Nat) (p : Pen) : (setPen s tile n p).tab.gaitReg = s.tab.gaitReg := rfl
@[simp] theorem setPen_frm (s : State) (tile n : Nat) (p : Pen) : (setPen s tile n p).frm = s.frm := rfl
@[simp] theorem setPen_pe (s : State) (tile n : Nat) (p : Pen) : (setPen s tile n p).pe = s.pe := rfl
@[simp] theorem setPen_flt (s : State) (tile n : Nat) (p : Pen) : (setPen s tile n p).flt = s.flt := rfl
@[simp] theorem setPen_xl (s : State) (tile n : Nat) (p : Pen) : (setPen s tile n p).xl = s.xl := rfl
@[simp] theorem setPen_ops (s : State) (tile n : Nat) (p : Pen) : (setPen s tile n p).ops = s.ops := rfl
@[simp] theorem setPen_syn (s : State) (tile n : Nat) (p : Pen) : (setPen s tile n p).syn = s.syn := rfl
@[simp] theorem setPen_ctxs (s : State) (tile n : Nat) (p : Pen) : (setPen s tile n p).ctxs = s.ctxs := rfl
@[simp] theorem setPen_astat (s : State) (tile n : Nat) (p : Pen) : (setPen s tile n p).astat = s.astat := rfl
@[simp] theorem setPen_isl (s : State) (tile n : Nat) (p : Pen) : (setPen s tile n p).isl = s.isl := rfl
@[simp] theorem setPen_rws (s : State) (tile n : Nat) (p : Pen) : (setPen s tile n p).rws = s.rws := rfl
@[simp] theorem setPen_net (s : State) (tile n : Nat) (p : Pen) : (setPen s tile n p).net = s.net := rfl
@[simp] theorem setPen_bal (s : State) (tile n : Nat) (p : Pen) : (setPen s tile n p).bal = s.bal := rfl
@[simp] theorem setPen_sch (s : State) (tile n : Nat) (p : Pen) : (setPen s tile n p).sch = s.sch := rfl
@[simp] theorem setPen_host (s : State) (tile n : Nat) (p : Pen) : (setPen s tile n p).host = s.host := rfl
@[simp] theorem setPen_dev (s : State) (tile n : Nat) (p : Pen) : (setPen s tile n p).dev = s.dev := rfl
@[simp] theorem setPen_tele (s : State) (tile n : Nat) (p : Pen) : (setPen s tile n p).tele = s.tele := rfl
@[simp] theorem setPen_health (s : State) (tile n : Nat) (p : Pen) : (setPen s tile n p).health = s.health := rfl

@[simp] theorem setTrough_cyc (s : State) (tile n : Nat) (t : Trough) : (setTrough s tile n t).cyc = s.cyc := rfl
@[simp] theorem setTrough_agenda (s : State) (tile n : Nat) (t : Trough) : (setTrough s tile n t).agenda = s.agenda := rfl
@[simp] theorem setTrough_occ (s : State) (tile n : Nat) (t : Trough) : (setTrough s tile n t).occ = s.occ := rfl
@[simp] theorem setTrough_fresh (s : State) (tile n : Nat) (t : Trough) : (setTrough s tile n t).fresh = s.fresh := rfl
@[simp] theorem setTrough_nextId (s : State) (tile n : Nat) (t : Trough) : (setTrough s tile n t).nextId = s.nextId := rfl
@[simp] theorem setTrough_mem (s : State) (tile n : Nat) (t : Trough) : (setTrough s tile n t).mem = s.mem := rfl
@[simp] theorem setTrough_tab_plan (s : State) (tile n : Nat) (t : Trough) : (setTrough s tile n t).tab.plan = s.tab.plan := rfl
@[simp] theorem setTrough_tab_pens (s : State) (tile n : Nat) (t : Trough) : (setTrough s tile n t).tab.pens = s.tab.pens := rfl
@[simp] theorem setTrough_tab_troughs (s : State) (tile n : Nat) (t : Trough) : (setTrough s tile n t).tab.troughs = sset s.tab.troughs (tile * 64 + n) t := rfl
@[simp] theorem setTrough_tab_fplans (s : State) (tile n : Nat) (t : Trough) : (setTrough s tile n t).tab.fplans = s.tab.fplans := rfl
@[simp] theorem setTrough_tab_stages (s : State) (tile n : Nat) (t : Trough) : (setTrough s tile n t).tab.stages = s.tab.stages := rfl
@[simp] theorem setTrough_tab_blocks (s : State) (tile n : Nat) (t : Trough) : (setTrough s tile n t).tab.blocks = s.tab.blocks := rfl
@[simp] theorem setTrough_tab_gblocks (s : State) (tile n : Nat) (t : Trough) : (setTrough s tile n t).tab.gblocks = s.tab.gblocks := rfl
@[simp] theorem setTrough_tab_lists (s : State) (tile n : Nat) (t : Trough) : (setTrough s tile n t).tab.lists = s.tab.lists := rfl
@[simp] theorem setTrough_tab_ports (s : State) (tile n : Nat) (t : Trough) : (setTrough s tile n t).tab.ports = s.tab.ports := rfl
@[simp] theorem setTrough_tab_imem (s : State) (tile n : Nat) (t : Trough) : (setTrough s tile n t).tab.imem = s.tab.imem := rfl
@[simp] theorem setTrough_tab_owner (s : State) (tile n : Nat) (t : Trough) : (setTrough s tile n t).tab.owner = s.tab.owner := rfl
@[simp] theorem setTrough_tab_ltiles (s : State) (tile n : Nat) (t : Trough) : (setTrough s tile n t).tab.ltiles = s.tab.ltiles := rfl
@[simp] theorem setTrough_tab_cfgAt (s : State) (tile n : Nat) (t : Trough) : (setTrough s tile n t).tab.cfgAt = s.tab.cfgAt := rfl
@[simp] theorem setTrough_tab_gaitReg (s : State) (tile n : Nat) (t : Trough) : (setTrough s tile n t).tab.gaitReg = s.tab.gaitReg := rfl
@[simp] theorem setTrough_frm (s : State) (tile n : Nat) (t : Trough) : (setTrough s tile n t).frm = s.frm := rfl
@[simp] theorem setTrough_pe (s : State) (tile n : Nat) (t : Trough) : (setTrough s tile n t).pe = s.pe := rfl
@[simp] theorem setTrough_flt (s : State) (tile n : Nat) (t : Trough) : (setTrough s tile n t).flt = s.flt := rfl
@[simp] theorem setTrough_xl (s : State) (tile n : Nat) (t : Trough) : (setTrough s tile n t).xl = s.xl := rfl
@[simp] theorem setTrough_ops (s : State) (tile n : Nat) (t : Trough) : (setTrough s tile n t).ops = s.ops := rfl
@[simp] theorem setTrough_syn (s : State) (tile n : Nat) (t : Trough) : (setTrough s tile n t).syn = s.syn := rfl
@[simp] theorem setTrough_ctxs (s : State) (tile n : Nat) (t : Trough) : (setTrough s tile n t).ctxs = s.ctxs := rfl
@[simp] theorem setTrough_astat (s : State) (tile n : Nat) (t : Trough) : (setTrough s tile n t).astat = s.astat := rfl
@[simp] theorem setTrough_isl (s : State) (tile n : Nat) (t : Trough) : (setTrough s tile n t).isl = s.isl := rfl
@[simp] theorem setTrough_rws (s : State) (tile n : Nat) (t : Trough) : (setTrough s tile n t).rws = s.rws := rfl
@[simp] theorem setTrough_net (s : State) (tile n : Nat) (t : Trough) : (setTrough s tile n t).net = s.net := rfl
@[simp] theorem setTrough_bal (s : State) (tile n : Nat) (t : Trough) : (setTrough s tile n t).bal = s.bal := rfl
@[simp] theorem setTrough_sch (s : State) (tile n : Nat) (t : Trough) : (setTrough s tile n t).sch = s.sch := rfl
@[simp] theorem setTrough_host (s : State) (tile n : Nat) (t : Trough) : (setTrough s tile n t).host = s.host := rfl
@[simp] theorem setTrough_dev (s : State) (tile n : Nat) (t : Trough) : (setTrough s tile n t).dev = s.dev := rfl
@[simp] theorem setTrough_tele (s : State) (tile n : Nat) (t : Trough) : (setTrough s tile n t).tele = s.tele := rfl
@[simp] theorem setTrough_health (s : State) (tile n : Nat) (t : Trough) : (setTrough s tile n t).health = s.health := rfl

@[simp] theorem addOwned_cyc (s : State) (x : Owned) : (addOwned s x).cyc = s.cyc := rfl
@[simp] theorem addOwned_agenda (s : State) (x : Owned) : (addOwned s x).agenda = s.agenda := rfl
@[simp] theorem addOwned_occ (s : State) (x : Owned) : (addOwned s x).occ = s.occ := rfl
@[simp] theorem addOwned_fresh (s : State) (x : Owned) : (addOwned s x).fresh = s.fresh := rfl
@[simp] theorem addOwned_nextId (s : State) (x : Owned) : (addOwned s x).nextId = s.nextId := rfl
@[simp] theorem addOwned_mem (s : State) (x : Owned) : (addOwned s x).mem = s.mem := rfl
@[simp] theorem addOwned_tab (s : State) (x : Owned) : (addOwned s x).tab = s.tab := rfl
@[simp] theorem addOwned_frm_slots (s : State) (x : Owned) : (addOwned s x).frm.slots = s.frm.slots := rfl
@[simp] theorem addOwned_frm_slotBad (s : State) (x : Owned) : (addOwned s x).frm.slotBad = s.frm.slotBad := rfl
@[simp] theorem addOwned_frm_windows (s : State) (x : Owned) : (addOwned s x).frm.windows = s.frm.windows := rfl
@[simp] theorem addOwned_frm_ready (s : State) (x : Owned) : (addOwned s x).frm.ready = s.frm.ready := rfl
@[simp] theorem addOwned_frm_inbox (s : State) (x : Owned) : (addOwned s x).frm.inbox = s.frm.inbox := rfl
@[simp] theorem addOwned_frm_owned (s : State) (x : Owned) : (addOwned s x).frm.owned = s.frm.owned ++ [x] := rfl
@[simp] theorem addOwned_frm_frozen (s : State) (x : Owned) : (addOwned s x).frm.frozen = s.frm.frozen := rfl
@[simp] theorem addOwned_frm_cancels (s : State) (x : Owned) : (addOwned s x).frm.cancels = s.frm.cancels := rfl
@[simp] theorem addOwned_pe (s : State) (x : Owned) : (addOwned s x).pe = s.pe := rfl
@[simp] theorem addOwned_flt (s : State) (x : Owned) : (addOwned s x).flt = s.flt := rfl
@[simp] theorem addOwned_xl (s : State) (x : Owned) : (addOwned s x).xl = s.xl := rfl
@[simp] theorem addOwned_ops (s : State) (x : Owned) : (addOwned s x).ops = s.ops := rfl
@[simp] theorem addOwned_syn (s : State) (x : Owned) : (addOwned s x).syn = s.syn := rfl
@[simp] theorem addOwned_ctxs (s : State) (x : Owned) : (addOwned s x).ctxs = s.ctxs := rfl
@[simp] theorem addOwned_astat (s : State) (x : Owned) : (addOwned s x).astat = s.astat := rfl
@[simp] theorem addOwned_isl (s : State) (x : Owned) : (addOwned s x).isl = s.isl := rfl
@[simp] theorem addOwned_rws (s : State) (x : Owned) : (addOwned s x).rws = s.rws := rfl
@[simp] theorem addOwned_net (s : State) (x : Owned) : (addOwned s x).net = s.net := rfl
@[simp] theorem addOwned_bal (s : State) (x : Owned) : (addOwned s x).bal = s.bal := rfl
@[simp] theorem addOwned_sch (s : State) (x : Owned) : (addOwned s x).sch = s.sch := rfl
@[simp] theorem addOwned_host (s : State) (x : Owned) : (addOwned s x).host = s.host := rfl
@[simp] theorem addOwned_dev (s : State) (x : Owned) : (addOwned s x).dev = s.dev := rfl
@[simp] theorem addOwned_tele (s : State) (x : Owned) : (addOwned s x).tele = s.tele := rfl
@[simp] theorem addOwned_health (s : State) (x : Owned) : (addOwned s x).health = s.health := rfl

@[simp] theorem setHitch_cyc (s : State) (pa : Nat) (h : Hitch) : (setHitch s pa h).cyc = s.cyc := rfl
@[simp] theorem setHitch_agenda (s : State) (pa : Nat) (h : Hitch) : (setHitch s pa h).agenda = s.agenda := rfl
@[simp] theorem setHitch_occ (s : State) (pa : Nat) (h : Hitch) : (setHitch s pa h).occ = s.occ := rfl
@[simp] theorem setHitch_fresh (s : State) (pa : Nat) (h : Hitch) : (setHitch s pa h).fresh = s.fresh := rfl
@[simp] theorem setHitch_nextId (s : State) (pa : Nat) (h : Hitch) : (setHitch s pa h).nextId = s.nextId := rfl
@[simp] theorem setHitch_mem (s : State) (pa : Nat) (h : Hitch) : (setHitch s pa h).mem = s.mem := rfl
@[simp] theorem setHitch_tab (s : State) (pa : Nat) (h : Hitch) : (setHitch s pa h).tab = s.tab := rfl
@[simp] theorem setHitch_frm (s : State) (pa : Nat) (h : Hitch) : (setHitch s pa h).frm = s.frm := rfl
@[simp] theorem setHitch_pe (s : State) (pa : Nat) (h : Hitch) : (setHitch s pa h).pe = s.pe := rfl
@[simp] theorem setHitch_flt (s : State) (pa : Nat) (h : Hitch) : (setHitch s pa h).flt = s.flt := rfl
@[simp] theorem setHitch_xl (s : State) (pa : Nat) (h : Hitch) : (setHitch s pa h).xl = s.xl := rfl
@[simp] theorem setHitch_ops (s : State) (pa : Nat) (h : Hitch) : (setHitch s pa h).ops = s.ops := rfl
@[simp] theorem setHitch_syn_hitches (s : State) (pa : Nat) (h : Hitch) : (setHitch s pa h).syn.hitches = sset s.syn.hitches pa h := rfl
@[simp] theorem setHitch_syn_smode (s : State) (pa : Nat) (h : Hitch) : (setHitch s pa h).syn.smode = s.syn.smode := rfl
@[simp] theorem setHitch_syn_smodeNext (s : State) (pa : Nat) (h : Hitch) : (setHitch s pa h).syn.smodeNext = s.syn.smodeNext := rfl
@[simp] theorem setHitch_syn_baton (s : State) (pa : Nat) (h : Hitch) : (setHitch s pa h).syn.baton = s.syn.baton := rfl
@[simp] theorem setHitch_syn_stuck (s : State) (pa : Nat) (h : Hitch) : (setHitch s pa h).syn.stuck = s.syn.stuck := rfl
@[simp] theorem setHitch_syn_admitted (s : State) (pa : Nat) (h : Hitch) : (setHitch s pa h).syn.admitted = s.syn.admitted := rfl
@[simp] theorem setHitch_syn_bars (s : State) (pa : Nat) (h : Hitch) : (setHitch s pa h).syn.bars = s.syn.bars := rfl
@[simp] theorem setHitch_syn_barGen (s : State) (pa : Nat) (h : Hitch) : (setHitch s pa h).syn.barGen = s.syn.barGen := rfl
@[simp] theorem setHitch_syn_dreds (s : State) (pa : Nat) (h : Hitch) : (setHitch s pa h).syn.dreds = s.syn.dreds := rfl
@[simp] theorem setHitch_syn_casts (s : State) (pa : Nat) (h : Hitch) : (setHitch s pa h).syn.casts = s.syn.casts := rfl
@[simp] theorem setHitch_syn_remotes (s : State) (pa : Nat) (h : Hitch) : (setHitch s pa h).syn.remotes = s.syn.remotes := rfl
@[simp] theorem setHitch_ctxs (s : State) (pa : Nat) (h : Hitch) : (setHitch s pa h).ctxs = s.ctxs := rfl
@[simp] theorem setHitch_astat (s : State) (pa : Nat) (h : Hitch) : (setHitch s pa h).astat = s.astat := rfl
@[simp] theorem setHitch_isl (s : State) (pa : Nat) (h : Hitch) : (setHitch s pa h).isl = s.isl := rfl
@[simp] theorem setHitch_rws (s : State) (pa : Nat) (h : Hitch) : (setHitch s pa h).rws = s.rws := rfl
@[simp] theorem setHitch_net (s : State) (pa : Nat) (h : Hitch) : (setHitch s pa h).net = s.net := rfl
@[simp] theorem setHitch_bal (s : State) (pa : Nat) (h : Hitch) : (setHitch s pa h).bal = s.bal := rfl
@[simp] theorem setHitch_sch (s : State) (pa : Nat) (h : Hitch) : (setHitch s pa h).sch = s.sch := rfl
@[simp] theorem setHitch_host (s : State) (pa : Nat) (h : Hitch) : (setHitch s pa h).host = s.host := rfl
@[simp] theorem setHitch_dev (s : State) (pa : Nat) (h : Hitch) : (setHitch s pa h).dev = s.dev := rfl
@[simp] theorem setHitch_tele (s : State) (pa : Nat) (h : Hitch) : (setHitch s pa h).tele = s.tele := rfl
@[simp] theorem setHitch_health (s : State) (pa : Nat) (h : Hitch) : (setHitch s pa h).health = s.health := rfl

@[simp] theorem setRemotes_cyc (s : State) (f : List Remote → List Remote) : (setRemotes s f).cyc = s.cyc := rfl
@[simp] theorem setRemotes_agenda (s : State) (f : List Remote → List Remote) : (setRemotes s f).agenda = s.agenda := rfl
@[simp] theorem setRemotes_occ (s : State) (f : List Remote → List Remote) : (setRemotes s f).occ = s.occ := rfl
@[simp] theorem setRemotes_fresh (s : State) (f : List Remote → List Remote) : (setRemotes s f).fresh = s.fresh := rfl
@[simp] theorem setRemotes_nextId (s : State) (f : List Remote → List Remote) : (setRemotes s f).nextId = s.nextId := rfl
@[simp] theorem setRemotes_mem (s : State) (f : List Remote → List Remote) : (setRemotes s f).mem = s.mem := rfl
@[simp] theorem setRemotes_tab (s : State) (f : List Remote → List Remote) : (setRemotes s f).tab = s.tab := rfl
@[simp] theorem setRemotes_frm (s : State) (f : List Remote → List Remote) : (setRemotes s f).frm = s.frm := rfl
@[simp] theorem setRemotes_pe (s : State) (f : List Remote → List Remote) : (setRemotes s f).pe = s.pe := rfl
@[simp] theorem setRemotes_flt (s : State) (f : List Remote → List Remote) : (setRemotes s f).flt = s.flt := rfl
@[simp] theorem setRemotes_xl (s : State) (f : List Remote → List Remote) : (setRemotes s f).xl = s.xl := rfl
@[simp] theorem setRemotes_ops (s : State) (f : List Remote → List Remote) : (setRemotes s f).ops = s.ops := rfl
@[simp] theorem setRemotes_syn_hitches (s : State) (f : List Remote → List Remote) : (setRemotes s f).syn.hitches = s.syn.hitches := rfl
@[simp] theorem setRemotes_syn_smode (s : State) (f : List Remote → List Remote) : (setRemotes s f).syn.smode = s.syn.smode := rfl
@[simp] theorem setRemotes_syn_smodeNext (s : State) (f : List Remote → List Remote) : (setRemotes s f).syn.smodeNext = s.syn.smodeNext := rfl
@[simp] theorem setRemotes_syn_baton (s : State) (f : List Remote → List Remote) : (setRemotes s f).syn.baton = s.syn.baton := rfl
@[simp] theorem setRemotes_syn_stuck (s : State) (f : List Remote → List Remote) : (setRemotes s f).syn.stuck = s.syn.stuck := rfl
@[simp] theorem setRemotes_syn_admitted (s : State) (f : List Remote → List Remote) : (setRemotes s f).syn.admitted = s.syn.admitted := rfl
@[simp] theorem setRemotes_syn_bars (s : State) (f : List Remote → List Remote) : (setRemotes s f).syn.bars = s.syn.bars := rfl
@[simp] theorem setRemotes_syn_barGen (s : State) (f : List Remote → List Remote) : (setRemotes s f).syn.barGen = s.syn.barGen := rfl
@[simp] theorem setRemotes_syn_dreds (s : State) (f : List Remote → List Remote) : (setRemotes s f).syn.dreds = s.syn.dreds := rfl
@[simp] theorem setRemotes_syn_casts (s : State) (f : List Remote → List Remote) : (setRemotes s f).syn.casts = s.syn.casts := rfl
@[simp] theorem setRemotes_syn_remotes (s : State) (f : List Remote → List Remote) : (setRemotes s f).syn.remotes = f s.syn.remotes := rfl
@[simp] theorem setRemotes_ctxs (s : State) (f : List Remote → List Remote) : (setRemotes s f).ctxs = s.ctxs := rfl
@[simp] theorem setRemotes_astat (s : State) (f : List Remote → List Remote) : (setRemotes s f).astat = s.astat := rfl
@[simp] theorem setRemotes_isl (s : State) (f : List Remote → List Remote) : (setRemotes s f).isl = s.isl := rfl
@[simp] theorem setRemotes_rws (s : State) (f : List Remote → List Remote) : (setRemotes s f).rws = s.rws := rfl
@[simp] theorem setRemotes_net (s : State) (f : List Remote → List Remote) : (setRemotes s f).net = s.net := rfl
@[simp] theorem setRemotes_bal (s : State) (f : List Remote → List Remote) : (setRemotes s f).bal = s.bal := rfl
@[simp] theorem setRemotes_sch (s : State) (f : List Remote → List Remote) : (setRemotes s f).sch = s.sch := rfl
@[simp] theorem setRemotes_host (s : State) (f : List Remote → List Remote) : (setRemotes s f).host = s.host := rfl
@[simp] theorem setRemotes_dev (s : State) (f : List Remote → List Remote) : (setRemotes s f).dev = s.dev := rfl
@[simp] theorem setRemotes_tele (s : State) (f : List Remote → List Remote) : (setRemotes s f).tele = s.tele := rfl
@[simp] theorem setRemotes_health (s : State) (f : List Remote → List Remote) : (setRemotes s f).health = s.health := rfl

@[simp] theorem dropFlight_cyc (s : State) (f : Flight) : (dropFlight s f).cyc = s.cyc := rfl
@[simp] theorem dropFlight_agenda (s : State) (f : Flight) : (dropFlight s f).agenda = s.agenda := rfl
@[simp] theorem dropFlight_occ (s : State) (f : Flight) : (dropFlight s f).occ = s.occ := rfl
@[simp] theorem dropFlight_fresh (s : State) (f : Flight) : (dropFlight s f).fresh = s.fresh := rfl
@[simp] theorem dropFlight_nextId (s : State) (f : Flight) : (dropFlight s f).nextId = s.nextId := rfl
@[simp] theorem dropFlight_mem (s : State) (f : Flight) : (dropFlight s f).mem = s.mem := rfl
@[simp] theorem dropFlight_tab (s : State) (f : Flight) : (dropFlight s f).tab = s.tab := rfl
@[simp] theorem dropFlight_frm (s : State) (f : Flight) : (dropFlight s f).frm = s.frm := rfl
@[simp] theorem dropFlight_pe (s : State) (f : Flight) : (dropFlight s f).pe = s.pe := rfl
@[simp] theorem dropFlight_flt (s : State) (f : Flight) : (dropFlight s f).flt = s.flt := rfl
@[simp] theorem dropFlight_xl (s : State) (f : Flight) : (dropFlight s f).xl = s.xl := rfl
@[simp] theorem dropFlight_ops (s : State) (f : Flight) : (dropFlight s f).ops = s.ops := rfl
@[simp] theorem dropFlight_syn (s : State) (f : Flight) : (dropFlight s f).syn = s.syn := rfl
@[simp] theorem dropFlight_ctxs (s : State) (f : Flight) : (dropFlight s f).ctxs = s.ctxs := rfl
@[simp] theorem dropFlight_astat (s : State) (f : Flight) : (dropFlight s f).astat = s.astat := rfl
@[simp] theorem dropFlight_isl (s : State) (f : Flight) : (dropFlight s f).isl = s.isl := rfl
@[simp] theorem dropFlight_rws (s : State) (f : Flight) : (dropFlight s f).rws = s.rws := rfl
@[simp] theorem dropFlight_net_outs (s : State) (f : Flight) : (dropFlight s f).net.outs = s.net.outs := rfl
@[simp] theorem dropFlight_net_mesh (s : State) (f : Flight) : (dropFlight s f).net.mesh = s.net.mesh.filter (·.id != f.id) := rfl
@[simp] theorem dropFlight_bal (s : State) (f : Flight) : (dropFlight s f).bal = s.bal := rfl
@[simp] theorem dropFlight_sch (s : State) (f : Flight) : (dropFlight s f).sch = s.sch := rfl
@[simp] theorem dropFlight_host (s : State) (f : Flight) : (dropFlight s f).host = s.host := rfl
@[simp] theorem dropFlight_dev (s : State) (f : Flight) : (dropFlight s f).dev = s.dev := rfl
@[simp] theorem dropFlight_tele (s : State) (f : Flight) : (dropFlight s f).tele = s.tele := rfl
@[simp] theorem dropFlight_health (s : State) (f : Flight) : (dropFlight s f).health = s.health := rfl

@[simp] theorem setNext_cyc (s : State) (tile a v : Nat) : (setNext s tile a v).cyc = s.cyc := rfl
@[simp] theorem setNext_agenda (s : State) (tile a v : Nat) : (setNext s tile a v).agenda = s.agenda := rfl
@[simp] theorem setNext_occ (s : State) (tile a v : Nat) : (setNext s tile a v).occ = s.occ := rfl
@[simp] theorem setNext_fresh (s : State) (tile a v : Nat) : (setNext s tile a v).fresh = s.fresh := rfl
@[simp] theorem setNext_nextId (s : State) (tile a v : Nat) : (setNext s tile a v).nextId = s.nextId := rfl
@[simp] theorem setNext_mem (s : State) (tile a v : Nat) : (setNext s tile a v).mem = s.mem := rfl
@[simp] theorem setNext_tab (s : State) (tile a v : Nat) : (setNext s tile a v).tab = s.tab := rfl
@[simp] theorem setNext_frm (s : State) (tile a v : Nat) : (setNext s tile a v).frm = s.frm := rfl
@[simp] theorem setNext_pe (s : State) (tile a v : Nat) : (setNext s tile a v).pe = s.pe := rfl
@[simp] theorem setNext_flt (s : State) (tile a v : Nat) : (setNext s tile a v).flt = s.flt := rfl
@[simp] theorem setNext_xl (s : State) (tile a v : Nat) : (setNext s tile a v).xl = s.xl := rfl
@[simp] theorem setNext_ops (s : State) (tile a v : Nat) : (setNext s tile a v).ops = s.ops := rfl
@[simp] theorem setNext_syn (s : State) (tile a v : Nat) : (setNext s tile a v).syn = s.syn := rfl
@[simp] theorem setNext_ctxs (s : State) (tile a v : Nat) : (setNext s tile a v).ctxs = s.ctxs := rfl
@[simp] theorem setNext_astat (s : State) (tile a v : Nat) : (setNext s tile a v).astat = s.astat := rfl
@[simp] theorem setNext_isl_acc (s : State) (tile a v : Nat) : (setNext s tile a v).isl.acc = s.isl.acc := rfl
@[simp] theorem setNext_isl_accBad (s : State) (tile a v : Nat) : (setNext s tile a v).isl.accBad = s.isl.accBad := rfl
@[simp] theorem setNext_isl_next (s : State) (tile a v : Nat) : (setNext s tile a v).isl.next = sset s.isl.next (tile * 16 + a) v := rfl
@[simp] theorem setNext_isl_lattice (s : State) (tile a v : Nat) : (setNext s tile a v).isl.lattice = s.isl.lattice := rfl
@[simp] theorem setNext_isl_act (s : State) (tile a v : Nat) : (setNext s tile a v).isl.act = s.isl.act := rfl
@[simp] theorem setNext_isl_alo (s : State) (tile a v : Nat) : (setNext s tile a v).isl.alo = s.isl.alo := rfl
@[simp] theorem setNext_isl_ainv (s : State) (tile a v : Nat) : (setNext s tile a v).isl.ainv = s.isl.ainv := rfl
@[simp] theorem setNext_isl_ax (s : State) (tile a v : Nat) : (setNext s tile a v).isl.ax = s.isl.ax := rfl
@[simp] theorem setNext_isl_nxc (s : State) (tile a v : Nat) : (setNext s tile a v).isl.nxc = s.isl.nxc := rfl
@[simp] theorem setNext_rws (s : State) (tile a v : Nat) : (setNext s tile a v).rws = s.rws := rfl
@[simp] theorem setNext_net (s : State) (tile a v : Nat) : (setNext s tile a v).net = s.net := rfl
@[simp] theorem setNext_bal (s : State) (tile a v : Nat) : (setNext s tile a v).bal = s.bal := rfl
@[simp] theorem setNext_sch (s : State) (tile a v : Nat) : (setNext s tile a v).sch = s.sch := rfl
@[simp] theorem setNext_host (s : State) (tile a v : Nat) : (setNext s tile a v).host = s.host := rfl
@[simp] theorem setNext_dev (s : State) (tile a v : Nat) : (setNext s tile a v).dev = s.dev := rfl
@[simp] theorem setNext_tele (s : State) (tile a v : Nat) : (setNext s tile a v).tele = s.tele := rfl
@[simp] theorem setNext_health (s : State) (tile a v : Nat) : (setNext s tile a v).health = s.health := rfl

@[simp] theorem setAcc_cyc (s : State) (tile a i j : Nat) (v : Word) : (setAcc s tile a i j v).cyc = s.cyc := rfl
@[simp] theorem setAcc_agenda (s : State) (tile a i j : Nat) (v : Word) : (setAcc s tile a i j v).agenda = s.agenda := rfl
@[simp] theorem setAcc_occ (s : State) (tile a i j : Nat) (v : Word) : (setAcc s tile a i j v).occ = s.occ := rfl
@[simp] theorem setAcc_fresh (s : State) (tile a i j : Nat) (v : Word) : (setAcc s tile a i j v).fresh = s.fresh := rfl
@[simp] theorem setAcc_nextId (s : State) (tile a i j : Nat) (v : Word) : (setAcc s tile a i j v).nextId = s.nextId := rfl
@[simp] theorem setAcc_mem (s : State) (tile a i j : Nat) (v : Word) : (setAcc s tile a i j v).mem = s.mem := rfl
@[simp] theorem setAcc_tab (s : State) (tile a i j : Nat) (v : Word) : (setAcc s tile a i j v).tab = s.tab := rfl
@[simp] theorem setAcc_frm (s : State) (tile a i j : Nat) (v : Word) : (setAcc s tile a i j v).frm = s.frm := rfl
@[simp] theorem setAcc_pe (s : State) (tile a i j : Nat) (v : Word) : (setAcc s tile a i j v).pe = s.pe := rfl
@[simp] theorem setAcc_flt (s : State) (tile a i j : Nat) (v : Word) : (setAcc s tile a i j v).flt = s.flt := rfl
@[simp] theorem setAcc_xl (s : State) (tile a i j : Nat) (v : Word) : (setAcc s tile a i j v).xl = s.xl := rfl
@[simp] theorem setAcc_ops (s : State) (tile a i j : Nat) (v : Word) : (setAcc s tile a i j v).ops = s.ops := rfl
@[simp] theorem setAcc_syn (s : State) (tile a i j : Nat) (v : Word) : (setAcc s tile a i j v).syn = s.syn := rfl
@[simp] theorem setAcc_ctxs (s : State) (tile a i j : Nat) (v : Word) : (setAcc s tile a i j v).ctxs = s.ctxs := rfl
@[simp] theorem setAcc_astat (s : State) (tile a i j : Nat) (v : Word) : (setAcc s tile a i j v).astat = s.astat := rfl
@[simp] theorem setAcc_isl_acc (s : State) (tile a i j : Nat) (v : Word) : (setAcc s tile a i j v).isl.acc = sset s.isl.acc (accKey tile a i j) v := rfl
@[simp] theorem setAcc_isl_accBad (s : State) (tile a i j : Nat) (v : Word) : (setAcc s tile a i j v).isl.accBad = s.isl.accBad := rfl
@[simp] theorem setAcc_isl_next (s : State) (tile a i j : Nat) (v : Word) : (setAcc s tile a i j v).isl.next = s.isl.next := rfl
@[simp] theorem setAcc_isl_lattice (s : State) (tile a i j : Nat) (v : Word) : (setAcc s tile a i j v).isl.lattice = s.isl.lattice := rfl
@[simp] theorem setAcc_isl_act (s : State) (tile a i j : Nat) (v : Word) : (setAcc s tile a i j v).isl.act = s.isl.act := rfl
@[simp] theorem setAcc_isl_alo (s : State) (tile a i j : Nat) (v : Word) : (setAcc s tile a i j v).isl.alo = s.isl.alo := rfl
@[simp] theorem setAcc_isl_ainv (s : State) (tile a i j : Nat) (v : Word) : (setAcc s tile a i j v).isl.ainv = s.isl.ainv := rfl
@[simp] theorem setAcc_isl_ax (s : State) (tile a i j : Nat) (v : Word) : (setAcc s tile a i j v).isl.ax = s.isl.ax := rfl
@[simp] theorem setAcc_isl_nxc (s : State) (tile a i j : Nat) (v : Word) : (setAcc s tile a i j v).isl.nxc = s.isl.nxc := rfl
@[simp] theorem setAcc_rws (s : State) (tile a i j : Nat) (v : Word) : (setAcc s tile a i j v).rws = s.rws := rfl
@[simp] theorem setAcc_net (s : State) (tile a i j : Nat) (v : Word) : (setAcc s tile a i j v).net = s.net := rfl
@[simp] theorem setAcc_bal (s : State) (tile a i j : Nat) (v : Word) : (setAcc s tile a i j v).bal = s.bal := rfl
@[simp] theorem setAcc_sch (s : State) (tile a i j : Nat) (v : Word) : (setAcc s tile a i j v).sch = s.sch := rfl
@[simp] theorem setAcc_host (s : State) (tile a i j : Nat) (v : Word) : (setAcc s tile a i j v).host = s.host := rfl
@[simp] theorem setAcc_dev (s : State) (tile a i j : Nat) (v : Word) : (setAcc s tile a i j v).dev = s.dev := rfl
@[simp] theorem setAcc_tele (s : State) (tile a i j : Nat) (v : Word) : (setAcc s tile a i j v).tele = s.tele := rfl
@[simp] theorem setAcc_health (s : State) (tile a i j : Nat) (v : Word) : (setAcc s tile a i j v).health = s.health := rfl

@[simp] theorem setRow_cyc (s : State) (r : Row) : (setRow s r).cyc = s.cyc := rfl
@[simp] theorem setRow_agenda (s : State) (r : Row) : (setRow s r).agenda = s.agenda := rfl
@[simp] theorem setRow_occ (s : State) (r : Row) : (setRow s r).occ = s.occ := rfl
@[simp] theorem setRow_fresh (s : State) (r : Row) : (setRow s r).fresh = s.fresh := rfl
@[simp] theorem setRow_nextId (s : State) (r : Row) : (setRow s r).nextId = s.nextId := rfl
@[simp] theorem setRow_mem (s : State) (r : Row) : (setRow s r).mem = s.mem := rfl
@[simp] theorem setRow_tab (s : State) (r : Row) : (setRow s r).tab = s.tab := rfl
@[simp] theorem setRow_frm (s : State) (r : Row) : (setRow s r).frm = s.frm := rfl
@[simp] theorem setRow_pe (s : State) (r : Row) : (setRow s r).pe = s.pe := rfl
@[simp] theorem setRow_flt (s : State) (r : Row) : (setRow s r).flt = s.flt := rfl
@[simp] theorem setRow_xl (s : State) (r : Row) : (setRow s r).xl = s.xl := rfl
@[simp] theorem setRow_ops (s : State) (r : Row) : (setRow s r).ops = s.ops := rfl
@[simp] theorem setRow_syn (s : State) (r : Row) : (setRow s r).syn = s.syn := rfl
@[simp] theorem setRow_ctxs (s : State) (r : Row) : (setRow s r).ctxs = s.ctxs := rfl
@[simp] theorem setRow_astat (s : State) (r : Row) : (setRow s r).astat = s.astat := rfl
@[simp] theorem setRow_isl (s : State) (r : Row) : (setRow s r).isl = s.isl := rfl
@[simp] theorem setRow_rws_ncfg (s : State) (r : Row) : (setRow s r).rws.ncfg = s.rws.ncfg := rfl
@[simp] theorem setRow_rws_brcfg (s : State) (r : Row) : (setRow s r).rws.brcfg = s.rws.brcfg := rfl
@[simp] theorem setRow_rws_reins (s : State) (r : Row) : (setRow s r).rws.reins = s.rws.reins := rfl
@[simp] theorem setRow_net (s : State) (r : Row) : (setRow s r).net = s.net := rfl
@[simp] theorem setRow_bal (s : State) (r : Row) : (setRow s r).bal = s.bal := rfl
@[simp] theorem setRow_sch (s : State) (r : Row) : (setRow s r).sch = s.sch := rfl
@[simp] theorem setRow_host (s : State) (r : Row) : (setRow s r).host = s.host := rfl
@[simp] theorem setRow_dev (s : State) (r : Row) : (setRow s r).dev = s.dev := rfl
@[simp] theorem setRow_tele (s : State) (r : Row) : (setRow s r).tele = s.tele := rfl
@[simp] theorem setRow_health (s : State) (r : Row) : (setRow s r).health = s.health := rfl

@[simp] theorem dropRow_cyc (s : State) (id : Nat) : (dropRow s id).cyc = s.cyc := rfl
@[simp] theorem dropRow_agenda (s : State) (id : Nat) : (dropRow s id).agenda = s.agenda := rfl
@[simp] theorem dropRow_occ (s : State) (id : Nat) : (dropRow s id).occ = s.occ := rfl
@[simp] theorem dropRow_fresh (s : State) (id : Nat) : (dropRow s id).fresh = s.fresh := rfl
@[simp] theorem dropRow_nextId (s : State) (id : Nat) : (dropRow s id).nextId = s.nextId := rfl
@[simp] theorem dropRow_mem (s : State) (id : Nat) : (dropRow s id).mem = s.mem := rfl
@[simp] theorem dropRow_tab (s : State) (id : Nat) : (dropRow s id).tab = s.tab := rfl
@[simp] theorem dropRow_frm (s : State) (id : Nat) : (dropRow s id).frm = s.frm := rfl
@[simp] theorem dropRow_pe (s : State) (id : Nat) : (dropRow s id).pe = s.pe := rfl
@[simp] theorem dropRow_flt (s : State) (id : Nat) : (dropRow s id).flt = s.flt := rfl
@[simp] theorem dropRow_xl (s : State) (id : Nat) : (dropRow s id).xl = s.xl := rfl
@[simp] theorem dropRow_ops (s : State) (id : Nat) : (dropRow s id).ops = s.ops := rfl
@[simp] theorem dropRow_syn (s : State) (id : Nat) : (dropRow s id).syn = s.syn := rfl
@[simp] theorem dropRow_ctxs (s : State) (id : Nat) : (dropRow s id).ctxs = s.ctxs := rfl
@[simp] theorem dropRow_astat (s : State) (id : Nat) : (dropRow s id).astat = s.astat := rfl
@[simp] theorem dropRow_isl (s : State) (id : Nat) : (dropRow s id).isl = s.isl := rfl
@[simp] theorem dropRow_rws_ncfg (s : State) (id : Nat) : (dropRow s id).rws.ncfg = s.rws.ncfg := rfl
@[simp] theorem dropRow_rws_brcfg (s : State) (id : Nat) : (dropRow s id).rws.brcfg = s.rws.brcfg := rfl
@[simp] theorem dropRow_rws_reins (s : State) (id : Nat) : (dropRow s id).rws.reins = s.rws.reins := rfl
@[simp] theorem dropRow_rws_rows (s : State) (id : Nat) : (dropRow s id).rws.rows = s.rws.rows.filter (·.id != id) := rfl
@[simp] theorem dropRow_net (s : State) (id : Nat) : (dropRow s id).net = s.net := rfl
@[simp] theorem dropRow_bal (s : State) (id : Nat) : (dropRow s id).bal = s.bal := rfl
@[simp] theorem dropRow_sch (s : State) (id : Nat) : (dropRow s id).sch = s.sch := rfl
@[simp] theorem dropRow_host (s : State) (id : Nat) : (dropRow s id).host = s.host := rfl
@[simp] theorem dropRow_dev (s : State) (id : Nat) : (dropRow s id).dev = s.dev := rfl
@[simp] theorem dropRow_tele (s : State) (id : Nat) : (dropRow s id).tele = s.tele := rfl
@[simp] theorem dropRow_health (s : State) (id : Nat) : (dropRow s id).health = s.health := rfl

@[simp] theorem setNorm_cyc (s : State) (tile k : Nat) (c : RowCfg) : (setNorm s tile k c).cyc = s.cyc := rfl
@[simp] theorem setNorm_agenda (s : State) (tile k : Nat) (c : RowCfg) : (setNorm s tile k c).agenda = s.agenda := rfl
@[simp] theorem setNorm_occ (s : State) (tile k : Nat) (c : RowCfg) : (setNorm s tile k c).occ = s.occ := rfl
@[simp] theorem setNorm_fresh (s : State) (tile k : Nat) (c : RowCfg) : (setNorm s tile k c).fresh = s.fresh := rfl
@[simp] theorem setNorm_nextId (s : State) (tile k : Nat) (c : RowCfg) : (setNorm s tile k c).nextId = s.nextId := rfl
@[simp] theorem setNorm_mem (s : State) (tile k : Nat) (c : RowCfg) : (setNorm s tile k c).mem = s.mem := rfl
@[simp] theorem setNorm_tab (s : State) (tile k : Nat) (c : RowCfg) : (setNorm s tile k c).tab = s.tab := rfl
@[simp] theorem setNorm_frm (s : State) (tile k : Nat) (c : RowCfg) : (setNorm s tile k c).frm = s.frm := rfl
@[simp] theorem setNorm_pe (s : State) (tile k : Nat) (c : RowCfg) : (setNorm s tile k c).pe = s.pe := rfl
@[simp] theorem setNorm_flt (s : State) (tile k : Nat) (c : RowCfg) : (setNorm s tile k c).flt = s.flt := rfl
@[simp] theorem setNorm_xl (s : State) (tile k : Nat) (c : RowCfg) : (setNorm s tile k c).xl = s.xl := rfl
@[simp] theorem setNorm_ops (s : State) (tile k : Nat) (c : RowCfg) : (setNorm s tile k c).ops = s.ops := rfl
@[simp] theorem setNorm_syn (s : State) (tile k : Nat) (c : RowCfg) : (setNorm s tile k c).syn = s.syn := rfl
@[simp] theorem setNorm_ctxs (s : State) (tile k : Nat) (c : RowCfg) : (setNorm s tile k c).ctxs = s.ctxs := rfl
@[simp] theorem setNorm_astat (s : State) (tile k : Nat) (c : RowCfg) : (setNorm s tile k c).astat = s.astat := rfl
@[simp] theorem setNorm_isl (s : State) (tile k : Nat) (c : RowCfg) : (setNorm s tile k c).isl = s.isl := rfl
@[simp] theorem setNorm_rws_ncfg (s : State) (tile k : Nat) (c : RowCfg) : (setNorm s tile k c).rws.ncfg = sset s.rws.ncfg (tile * 4 + k) c := rfl
@[simp] theorem setNorm_rws_brcfg (s : State) (tile k : Nat) (c : RowCfg) : (setNorm s tile k c).rws.brcfg = s.rws.brcfg := rfl
@[simp] theorem setNorm_rws_reins (s : State) (tile k : Nat) (c : RowCfg) : (setNorm s tile k c).rws.reins = s.rws.reins := rfl
@[simp] theorem setNorm_rws_rows (s : State) (tile k : Nat) (c : RowCfg) : (setNorm s tile k c).rws.rows = s.rws.rows := rfl
@[simp] theorem setNorm_net (s : State) (tile k : Nat) (c : RowCfg) : (setNorm s tile k c).net = s.net := rfl
@[simp] theorem setNorm_bal (s : State) (tile k : Nat) (c : RowCfg) : (setNorm s tile k c).bal = s.bal := rfl
@[simp] theorem setNorm_sch (s : State) (tile k : Nat) (c : RowCfg) : (setNorm s tile k c).sch = s.sch := rfl
@[simp] theorem setNorm_host (s : State) (tile k : Nat) (c : RowCfg) : (setNorm s tile k c).host = s.host := rfl
@[simp] theorem setNorm_dev (s : State) (tile k : Nat) (c : RowCfg) : (setNorm s tile k c).dev = s.dev := rfl
@[simp] theorem setNorm_tele (s : State) (tile k : Nat) (c : RowCfg) : (setNorm s tile k c).tele = s.tele := rfl
@[simp] theorem setNorm_health (s : State) (tile k : Nat) (c : RowCfg) : (setNorm s tile k c).health = s.health := rfl

@[simp] theorem setBridle_cyc (s : State) (tile k : Nat) (c : RowCfg) : (setBridle s tile k c).cyc = s.cyc := rfl
@[simp] theorem setBridle_agenda (s : State) (tile k : Nat) (c : RowCfg) : (setBridle s tile k c).agenda = s.agenda := rfl
@[simp] theorem setBridle_occ (s : State) (tile k : Nat) (c : RowCfg) : (setBridle s tile k c).occ = s.occ := rfl
@[simp] theorem setBridle_fresh (s : State) (tile k : Nat) (c : RowCfg) : (setBridle s tile k c).fresh = s.fresh := rfl
@[simp] theorem setBridle_nextId (s : State) (tile k : Nat) (c : RowCfg) : (setBridle s tile k c).nextId = s.nextId := rfl
@[simp] theorem setBridle_mem (s : State) (tile k : Nat) (c : RowCfg) : (setBridle s tile k c).mem = s.mem := rfl
@[simp] theorem setBridle_tab (s : State) (tile k : Nat) (c : RowCfg) : (setBridle s tile k c).tab = s.tab := rfl
@[simp] theorem setBridle_frm (s : State) (tile k : Nat) (c : RowCfg) : (setBridle s tile k c).frm = s.frm := rfl
@[simp] theorem setBridle_pe (s : State) (tile k : Nat) (c : RowCfg) : (setBridle s tile k c).pe = s.pe := rfl
@[simp] theorem setBridle_flt (s : State) (tile k : Nat) (c : RowCfg) : (setBridle s tile k c).flt = s.flt := rfl
@[simp] theorem setBridle_xl (s : State) (tile k : Nat) (c : RowCfg) : (setBridle s tile k c).xl = s.xl := rfl
@[simp] theorem setBridle_ops (s : State) (tile k : Nat) (c : RowCfg) : (setBridle s tile k c).ops = s.ops := rfl
@[simp] theorem setBridle_syn (s : State) (tile k : Nat) (c : RowCfg) : (setBridle s tile k c).syn = s.syn := rfl
@[simp] theorem setBridle_ctxs (s : State) (tile k : Nat) (c : RowCfg) : (setBridle s tile k c).ctxs = s.ctxs := rfl
@[simp] theorem setBridle_astat (s : State) (tile k : Nat) (c : RowCfg) : (setBridle s tile k c).astat = s.astat := rfl
@[simp] theorem setBridle_isl (s : State) (tile k : Nat) (c : RowCfg) : (setBridle s tile k c).isl = s.isl := rfl
@[simp] theorem setBridle_rws_ncfg (s : State) (tile k : Nat) (c : RowCfg) : (setBridle s tile k c).rws.ncfg = s.rws.ncfg := rfl
@[simp] theorem setBridle_rws_brcfg (s : State) (tile k : Nat) (c : RowCfg) : (setBridle s tile k c).rws.brcfg = sset s.rws.brcfg (tile * 4 + k) c := rfl
@[simp] theorem setBridle_rws_reins (s : State) (tile k : Nat) (c : RowCfg) : (setBridle s tile k c).rws.reins = s.rws.reins := rfl
@[simp] theorem setBridle_rws_rows (s : State) (tile k : Nat) (c : RowCfg) : (setBridle s tile k c).rws.rows = s.rws.rows := rfl
@[simp] theorem setBridle_net (s : State) (tile k : Nat) (c : RowCfg) : (setBridle s tile k c).net = s.net := rfl
@[simp] theorem setBridle_bal (s : State) (tile k : Nat) (c : RowCfg) : (setBridle s tile k c).bal = s.bal := rfl
@[simp] theorem setBridle_sch (s : State) (tile k : Nat) (c : RowCfg) : (setBridle s tile k c).sch = s.sch := rfl
@[simp] theorem setBridle_host (s : State) (tile k : Nat) (c : RowCfg) : (setBridle s tile k c).host = s.host := rfl
@[simp] theorem setBridle_dev (s : State) (tile k : Nat) (c : RowCfg) : (setBridle s tile k c).dev = s.dev := rfl
@[simp] theorem setBridle_tele (s : State) (tile k : Nat) (c : RowCfg) : (setBridle s tile k c).tele = s.tele := rfl
@[simp] theorem setBridle_health (s : State) (tile k : Nat) (c : RowCfg) : (setBridle s tile k c).health = s.health := rfl

@[simp] theorem setLaunch_cyc (s : State) (q : Nat) (l : Launch) : (setLaunch s q l).cyc = s.cyc := rfl
@[simp] theorem setLaunch_agenda (s : State) (q : Nat) (l : Launch) : (setLaunch s q l).agenda = s.agenda := rfl
@[simp] theorem setLaunch_occ (s : State) (q : Nat) (l : Launch) : (setLaunch s q l).occ = s.occ := rfl
@[simp] theorem setLaunch_fresh (s : State) (q : Nat) (l : Launch) : (setLaunch s q l).fresh = s.fresh := rfl
@[simp] theorem setLaunch_nextId (s : State) (q : Nat) (l : Launch) : (setLaunch s q l).nextId = s.nextId := rfl
@[simp] theorem setLaunch_mem (s : State) (q : Nat) (l : Launch) : (setLaunch s q l).mem = s.mem := rfl
@[simp] theorem setLaunch_tab (s : State) (q : Nat) (l : Launch) : (setLaunch s q l).tab = s.tab := rfl
@[simp] theorem setLaunch_frm (s : State) (q : Nat) (l : Launch) : (setLaunch s q l).frm = s.frm := rfl
@[simp] theorem setLaunch_pe (s : State) (q : Nat) (l : Launch) : (setLaunch s q l).pe = s.pe := rfl
@[simp] theorem setLaunch_flt (s : State) (q : Nat) (l : Launch) : (setLaunch s q l).flt = s.flt := rfl
@[simp] theorem setLaunch_xl (s : State) (q : Nat) (l : Launch) : (setLaunch s q l).xl = s.xl := rfl
@[simp] theorem setLaunch_ops (s : State) (q : Nat) (l : Launch) : (setLaunch s q l).ops = s.ops := rfl
@[simp] theorem setLaunch_syn (s : State) (q : Nat) (l : Launch) : (setLaunch s q l).syn = s.syn := rfl
@[simp] theorem setLaunch_ctxs (s : State) (q : Nat) (l : Launch) : (setLaunch s q l).ctxs = s.ctxs := rfl
@[simp] theorem setLaunch_astat (s : State) (q : Nat) (l : Launch) : (setLaunch s q l).astat = s.astat := rfl
@[simp] theorem setLaunch_isl (s : State) (q : Nat) (l : Launch) : (setLaunch s q l).isl = s.isl := rfl
@[simp] theorem setLaunch_rws (s : State) (q : Nat) (l : Launch) : (setLaunch s q l).rws = s.rws := rfl
@[simp] theorem setLaunch_net (s : State) (q : Nat) (l : Launch) : (setLaunch s q l).net = s.net := rfl
@[simp] theorem setLaunch_bal (s : State) (q : Nat) (l : Launch) : (setLaunch s q l).bal = s.bal := rfl
@[simp] theorem setLaunch_sch_launches (s : State) (q : Nat) (l : Launch) : (setLaunch s q l).sch.launches = sset s.sch.launches q l := rfl
@[simp] theorem setLaunch_sch_intake (s : State) (q : Nat) (l : Launch) : (setLaunch s q l).sch.intake = s.sch.intake := rfl
@[simp] theorem setLaunch_sch_hand (s : State) (q : Nat) (l : Launch) : (setLaunch s q l).sch.hand = s.sch.hand := rfl
@[simp] theorem setLaunch_sch_reports (s : State) (q : Nat) (l : Launch) : (setLaunch s q l).sch.reports = s.sch.reports := rfl
@[simp] theorem setLaunch_sch_busy (s : State) (q : Nat) (l : Launch) : (setLaunch s q l).sch.busy = s.sch.busy := rfl
@[simp] theorem setLaunch_sch_lastSeq (s : State) (q : Nat) (l : Launch) : (setLaunch s q l).sch.lastSeq = s.sch.lastSeq := rfl
@[simp] theorem setLaunch_sch_reserve (s : State) (q : Nat) (l : Launch) : (setLaunch s q l).sch.reserve = s.sch.reserve := rfl
@[simp] theorem setLaunch_sch_left (s : State) (q : Nat) (l : Launch) : (setLaunch s q l).sch.left = s.sch.left := rfl
@[simp] theorem setLaunch_sch_intakeAt (s : State) (q : Nat) (l : Launch) : (setLaunch s q l).sch.intakeAt = s.sch.intakeAt := rfl
@[simp] theorem setLaunch_host (s : State) (q : Nat) (l : Launch) : (setLaunch s q l).host = s.host := rfl
@[simp] theorem setLaunch_dev (s : State) (q : Nat) (l : Launch) : (setLaunch s q l).dev = s.dev := rfl
@[simp] theorem setLaunch_tele (s : State) (q : Nat) (l : Launch) : (setLaunch s q l).tele = s.tele := rfl
@[simp] theorem setLaunch_health (s : State) (q : Nat) (l : Launch) : (setLaunch s q l).health = s.health := rfl

@[simp] theorem ungate_cyc (s : State) (tile : Nat) : (ungate s tile).cyc = s.cyc := rfl
@[simp] theorem ungate_agenda (s : State) (tile : Nat) : (ungate s tile).agenda = s.agenda := rfl
@[simp] theorem ungate_occ (s : State) (tile : Nat) : (ungate s tile).occ = s.occ := rfl
@[simp] theorem ungate_fresh (s : State) (tile : Nat) : (ungate s tile).fresh = s.fresh := rfl
@[simp] theorem ungate_nextId (s : State) (tile : Nat) : (ungate s tile).nextId = s.nextId := rfl
@[simp] theorem ungate_mem (s : State) (tile : Nat) : (ungate s tile).mem = s.mem := rfl
@[simp] theorem ungate_tab (s : State) (tile : Nat) : (ungate s tile).tab = s.tab := rfl
@[simp] theorem ungate_frm (s : State) (tile : Nat) : (ungate s tile).frm = s.frm := rfl
@[simp] theorem ungate_pe (s : State) (tile : Nat) : (ungate s tile).pe = s.pe := rfl
@[simp] theorem ungate_flt (s : State) (tile : Nat) : (ungate s tile).flt = s.flt := rfl
@[simp] theorem ungate_xl (s : State) (tile : Nat) : (ungate s tile).xl = s.xl := rfl
@[simp] theorem ungate_ops (s : State) (tile : Nat) : (ungate s tile).ops = s.ops := rfl
@[simp] theorem ungate_syn (s : State) (tile : Nat) : (ungate s tile).syn = s.syn := rfl
@[simp] theorem ungate_ctxs (s : State) (tile : Nat) : (ungate s tile).ctxs = s.ctxs := rfl
@[simp] theorem ungate_astat (s : State) (tile : Nat) : (ungate s tile).astat = s.astat := rfl
@[simp] theorem ungate_isl (s : State) (tile : Nat) : (ungate s tile).isl = s.isl := rfl
@[simp] theorem ungate_rws (s : State) (tile : Nat) : (ungate s tile).rws = s.rws := rfl
@[simp] theorem ungate_net (s : State) (tile : Nat) : (ungate s tile).net = s.net := rfl
@[simp] theorem ungate_bal (s : State) (tile : Nat) : (ungate s tile).bal = s.bal := rfl
@[simp] theorem ungate_sch (s : State) (tile : Nat) : (ungate s tile).sch = s.sch := rfl
@[simp] theorem ungate_host (s : State) (tile : Nat) : (ungate s tile).host = s.host := rfl
@[simp] theorem ungate_dev_seqtb (s : State) (tile : Nat) : (ungate s tile).dev.seqtb = s.dev.seqtb := rfl
@[simp] theorem ungate_dev_seqtn (s : State) (tile : Nat) : (ungate s tile).dev.seqtn = s.dev.seqtn := rfl
@[simp] theorem ungate_dev_parkb (s : State) (tile : Nat) : (ungate s tile).dev.parkb = s.dev.parkb := rfl
@[simp] theorem ungate_dev_pv (s : State) (tile : Nat) : (ungate s tile).dev.pv = s.dev.pv := rfl
@[simp] theorem ungate_dev_pkgid (s : State) (tile : Nat) : (ungate s tile).dev.pkgid = s.dev.pkgid := rfl
@[simp] theorem ungate_dev_idv (s : State) (tile : Nat) : (ungate s tile).dev.idv = s.dev.idv := rfl
@[simp] theorem ungate_dev_bootrec (s : State) (tile : Nat) : (ungate s tile).dev.bootrec = s.dev.bootrec := rfl
@[simp] theorem ungate_dev_ptrootl (s : State) (tile : Nat) : (ungate s tile).dev.ptrootl = s.dev.ptrootl := rfl
@[simp] theorem ungate_dev_ptrooth (s : State) (tile : Nat) : (ungate s tile).dev.ptrooth = s.dev.ptrooth := rfl
@[simp] theorem ungate_dev_life (s : State) (tile : Nat) : (ungate s tile).dev.life = s.dev.life := rfl
@[simp] theorem ungate_dev_level (s : State) (tile : Nat) : (ungate s tile).dev.level = s.dev.level := rfl
@[simp] theorem ungate_dev_hen (s : State) (tile : Nat) : (ungate s tile).dev.hen = s.dev.hen := rfl
@[simp] theorem ungate_dev_dasid (s : State) (tile : Nat) : (ungate s tile).dev.dasid = s.dev.dasid := rfl
@[simp] theorem ungate_dev_session (s : State) (tile : Nat) : (ungate s tile).dev.session = s.dev.session := rfl
@[simp] theorem ungate_dev_zeroised (s : State) (tile : Nat) : (ungate s tile).dev.zeroised = s.dev.zeroised := rfl
@[simp] theorem ungate_dev_qreq (s : State) (tile : Nat) : (ungate s tile).dev.qreq = s.dev.qreq := rfl
@[simp] theorem ungate_dev_qcur (s : State) (tile : Nat) : (ungate s tile).dev.qcur = s.dev.qcur := rfl
@[simp] theorem ungate_dev_clkf (s : State) (tile : Nat) : (ungate s tile).dev.clkf = s.dev.clkf := rfl
@[simp] theorem ungate_dev_admitCap (s : State) (tile : Nat) : (ungate s tile).dev.admitCap = s.dev.admitCap := rfl
@[simp] theorem ungate_dev_limit (s : State) (tile : Nat) : (ungate s tile).dev.limit = s.dev.limit := rfl
@[simp] theorem ungate_dev_p3 (s : State) (tile : Nat) : (ungate s tile).dev.p3 = s.dev.p3 := rfl
@[simp] theorem ungate_dev_up (s : State) (tile : Nat) : (ungate s tile).dev.up = s.dev.up := rfl
@[simp] theorem ungate_dev_gated (s : State) (tile : Nat) : (ungate s tile).dev.gated = sdel s.dev.gated tile := rfl
@[simp] theorem ungate_dev_planesDown (s : State) (tile : Nat) : (ungate s tile).dev.planesDown = s.dev.planesDown := rfl
@[simp] theorem ungate_dev_keyEpoch (s : State) (tile : Nat) : (ungate s tile).dev.keyEpoch = s.dev.keyEpoch := rfl
@[simp] theorem ungate_dev_flash (s : State) (tile : Nat) : (ungate s tile).dev.flash = s.dev.flash := rfl
@[simp] theorem ungate_dev_stackOk (s : State) (tile : Nat) : (ungate s tile).dev.stackOk = s.dev.stackOk := rfl
@[simp] theorem ungate_dev_quads (s : State) (tile : Nat) : (ungate s tile).dev.quads = s.dev.quads := rfl
@[simp] theorem ungate_dev_portsDown (s : State) (tile : Nat) : (ungate s tile).dev.portsDown = s.dev.portsDown := rfl
@[simp] theorem ungate_dev_portKeys (s : State) (tile : Nat) : (ungate s tile).dev.portKeys = s.dev.portKeys := rfl
@[simp] theorem ungate_tele (s : State) (tile : Nat) : (ungate s tile).tele = s.tele := rfl
@[simp] theorem ungate_health (s : State) (tile : Nat) : (ungate s tile).health = s.health := rfl

@[simp] theorem setBoot_cyc (s : State) (n : Nat) (e : BitVec 64) : (setBoot s n e).cyc = s.cyc := rfl
@[simp] theorem setBoot_agenda (s : State) (n : Nat) (e : BitVec 64) : (setBoot s n e).agenda = s.agenda := rfl
@[simp] theorem setBoot_occ (s : State) (n : Nat) (e : BitVec 64) : (setBoot s n e).occ = s.occ := rfl
@[simp] theorem setBoot_fresh (s : State) (n : Nat) (e : BitVec 64) : (setBoot s n e).fresh = s.fresh := rfl
@[simp] theorem setBoot_nextId (s : State) (n : Nat) (e : BitVec 64) : (setBoot s n e).nextId = s.nextId := rfl
@[simp] theorem setBoot_mem (s : State) (n : Nat) (e : BitVec 64) : (setBoot s n e).mem = s.mem := rfl
@[simp] theorem setBoot_tab (s : State) (n : Nat) (e : BitVec 64) : (setBoot s n e).tab = s.tab := rfl
@[simp] theorem setBoot_frm (s : State) (n : Nat) (e : BitVec 64) : (setBoot s n e).frm = s.frm := rfl
@[simp] theorem setBoot_pe (s : State) (n : Nat) (e : BitVec 64) : (setBoot s n e).pe = s.pe := rfl
@[simp] theorem setBoot_flt (s : State) (n : Nat) (e : BitVec 64) : (setBoot s n e).flt = s.flt := rfl
@[simp] theorem setBoot_xl (s : State) (n : Nat) (e : BitVec 64) : (setBoot s n e).xl = s.xl := rfl
@[simp] theorem setBoot_ops (s : State) (n : Nat) (e : BitVec 64) : (setBoot s n e).ops = s.ops := rfl
@[simp] theorem setBoot_syn (s : State) (n : Nat) (e : BitVec 64) : (setBoot s n e).syn = s.syn := rfl
@[simp] theorem setBoot_ctxs (s : State) (n : Nat) (e : BitVec 64) : (setBoot s n e).ctxs = s.ctxs := rfl
@[simp] theorem setBoot_astat (s : State) (n : Nat) (e : BitVec 64) : (setBoot s n e).astat = s.astat := rfl
@[simp] theorem setBoot_isl (s : State) (n : Nat) (e : BitVec 64) : (setBoot s n e).isl = s.isl := rfl
@[simp] theorem setBoot_rws (s : State) (n : Nat) (e : BitVec 64) : (setBoot s n e).rws = s.rws := rfl
@[simp] theorem setBoot_net (s : State) (n : Nat) (e : BitVec 64) : (setBoot s n e).net = s.net := rfl
@[simp] theorem setBoot_bal (s : State) (n : Nat) (e : BitVec 64) : (setBoot s n e).bal = s.bal := rfl
@[simp] theorem setBoot_sch (s : State) (n : Nat) (e : BitVec 64) : (setBoot s n e).sch = s.sch := rfl
@[simp] theorem setBoot_host (s : State) (n : Nat) (e : BitVec 64) : (setBoot s n e).host = s.host := rfl
@[simp] theorem setBoot_dev_seqtb (s : State) (n : Nat) (e : BitVec 64) : (setBoot s n e).dev.seqtb = s.dev.seqtb := rfl
@[simp] theorem setBoot_dev_seqtn (s : State) (n : Nat) (e : BitVec 64) : (setBoot s n e).dev.seqtn = s.dev.seqtn := rfl
@[simp] theorem setBoot_dev_parkb (s : State) (n : Nat) (e : BitVec 64) : (setBoot s n e).dev.parkb = s.dev.parkb := rfl
@[simp] theorem setBoot_dev_pv (s : State) (n : Nat) (e : BitVec 64) : (setBoot s n e).dev.pv = s.dev.pv := rfl
@[simp] theorem setBoot_dev_pkgid (s : State) (n : Nat) (e : BitVec 64) : (setBoot s n e).dev.pkgid = s.dev.pkgid := rfl
@[simp] theorem setBoot_dev_idv (s : State) (n : Nat) (e : BitVec 64) : (setBoot s n e).dev.idv = s.dev.idv := rfl
@[simp] theorem setBoot_dev_bootrec (s : State) (n : Nat) (e : BitVec 64) : (setBoot s n e).dev.bootrec = lset s.dev.bootrec n e := rfl
@[simp] theorem setBoot_dev_ptrootl (s : State) (n : Nat) (e : BitVec 64) : (setBoot s n e).dev.ptrootl = s.dev.ptrootl := rfl
@[simp] theorem setBoot_dev_ptrooth (s : State) (n : Nat) (e : BitVec 64) : (setBoot s n e).dev.ptrooth = s.dev.ptrooth := rfl
@[simp] theorem setBoot_dev_life (s : State) (n : Nat) (e : BitVec 64) : (setBoot s n e).dev.life = s.dev.life := rfl
@[simp] theorem setBoot_dev_level (s : State) (n : Nat) (e : BitVec 64) : (setBoot s n e).dev.level = s.dev.level := rfl
@[simp] theorem setBoot_dev_hen (s : State) (n : Nat) (e : BitVec 64) : (setBoot s n e).dev.hen = s.dev.hen := rfl
@[simp] theorem setBoot_dev_dasid (s : State) (n : Nat) (e : BitVec 64) : (setBoot s n e).dev.dasid = s.dev.dasid := rfl
@[simp] theorem setBoot_dev_session (s : State) (n : Nat) (e : BitVec 64) : (setBoot s n e).dev.session = s.dev.session := rfl
@[simp] theorem setBoot_dev_zeroised (s : State) (n : Nat) (e : BitVec 64) : (setBoot s n e).dev.zeroised = s.dev.zeroised := rfl
@[simp] theorem setBoot_dev_qreq (s : State) (n : Nat) (e : BitVec 64) : (setBoot s n e).dev.qreq = s.dev.qreq := rfl
@[simp] theorem setBoot_dev_qcur (s : State) (n : Nat) (e : BitVec 64) : (setBoot s n e).dev.qcur = s.dev.qcur := rfl
@[simp] theorem setBoot_dev_clkf (s : State) (n : Nat) (e : BitVec 64) : (setBoot s n e).dev.clkf = s.dev.clkf := rfl
@[simp] theorem setBoot_dev_admitCap (s : State) (n : Nat) (e : BitVec 64) : (setBoot s n e).dev.admitCap = s.dev.admitCap := rfl
@[simp] theorem setBoot_dev_limit (s : State) (n : Nat) (e : BitVec 64) : (setBoot s n e).dev.limit = s.dev.limit := rfl
@[simp] theorem setBoot_dev_p3 (s : State) (n : Nat) (e : BitVec 64) : (setBoot s n e).dev.p3 = s.dev.p3 := rfl
@[simp] theorem setBoot_dev_up (s : State) (n : Nat) (e : BitVec 64) : (setBoot s n e).dev.up = s.dev.up := rfl
@[simp] theorem setBoot_dev_gated (s : State) (n : Nat) (e : BitVec 64) : (setBoot s n e).dev.gated = s.dev.gated := rfl
@[simp] theorem setBoot_dev_planesDown (s : State) (n : Nat) (e : BitVec 64) : (setBoot s n e).dev.planesDown = s.dev.planesDown := rfl
@[simp] theorem setBoot_dev_keyEpoch (s : State) (n : Nat) (e : BitVec 64) : (setBoot s n e).dev.keyEpoch = s.dev.keyEpoch := rfl
@[simp] theorem setBoot_dev_flash (s : State) (n : Nat) (e : BitVec 64) : (setBoot s n e).dev.flash = s.dev.flash := rfl
@[simp] theorem setBoot_dev_stackOk (s : State) (n : Nat) (e : BitVec 64) : (setBoot s n e).dev.stackOk = s.dev.stackOk := rfl
@[simp] theorem setBoot_dev_quads (s : State) (n : Nat) (e : BitVec 64) : (setBoot s n e).dev.quads = s.dev.quads := rfl
@[simp] theorem setBoot_dev_portsDown (s : State) (n : Nat) (e : BitVec 64) : (setBoot s n e).dev.portsDown = s.dev.portsDown := rfl
@[simp] theorem setBoot_dev_portKeys (s : State) (n : Nat) (e : BitVec 64) : (setBoot s n e).dev.portKeys = s.dev.portKeys := rfl
@[simp] theorem setBoot_tele (s : State) (n : Nat) (e : BitVec 64) : (setBoot s n e).tele = s.tele := rfl
@[simp] theorem setBoot_health (s : State) (n : Nat) (e : BitVec 64) : (setBoot s n e).health = s.health := rfl

@[simp] theorem manage_cyc (s : State) (ws : List Word) : (manage s ws).cyc = s.cyc := rfl
@[simp] theorem manage_agenda (s : State) (ws : List Word) : (manage s ws).agenda = s.agenda := rfl
@[simp] theorem manage_occ (s : State) (ws : List Word) : (manage s ws).occ = s.occ := rfl
@[simp] theorem manage_fresh (s : State) (ws : List Word) : (manage s ws).fresh = s.fresh := rfl
@[simp] theorem manage_nextId (s : State) (ws : List Word) : (manage s ws).nextId = s.nextId := rfl
@[simp] theorem manage_mem (s : State) (ws : List Word) : (manage s ws).mem = s.mem := rfl
@[simp] theorem manage_tab (s : State) (ws : List Word) : (manage s ws).tab = s.tab := rfl
@[simp] theorem manage_frm (s : State) (ws : List Word) : (manage s ws).frm = s.frm := rfl
@[simp] theorem manage_pe (s : State) (ws : List Word) : (manage s ws).pe = s.pe := rfl
@[simp] theorem manage_flt (s : State) (ws : List Word) : (manage s ws).flt = s.flt := rfl
@[simp] theorem manage_xl (s : State) (ws : List Word) : (manage s ws).xl = s.xl := rfl
@[simp] theorem manage_ops (s : State) (ws : List Word) : (manage s ws).ops = s.ops := rfl
@[simp] theorem manage_syn (s : State) (ws : List Word) : (manage s ws).syn = s.syn := rfl
@[simp] theorem manage_ctxs (s : State) (ws : List Word) : (manage s ws).ctxs = s.ctxs := rfl
@[simp] theorem manage_astat (s : State) (ws : List Word) : (manage s ws).astat = s.astat := rfl
@[simp] theorem manage_isl (s : State) (ws : List Word) : (manage s ws).isl = s.isl := rfl
@[simp] theorem manage_rws (s : State) (ws : List Word) : (manage s ws).rws = s.rws := rfl
@[simp] theorem manage_net (s : State) (ws : List Word) : (manage s ws).net = s.net := rfl
@[simp] theorem manage_bal (s : State) (ws : List Word) : (manage s ws).bal = s.bal := rfl
@[simp] theorem manage_sch (s : State) (ws : List Word) : (manage s ws).sch = s.sch := rfl
@[simp] theorem manage_host_mrt (s : State) (ws : List Word) : (manage s ws).host.mrt = s.host.mrt := rfl
@[simp] theorem manage_host_qps (s : State) (ws : List Word) : (manage s ws).host.qps = s.host.qps := rfl
@[simp] theorem manage_host_replies (s : State) (ws : List Word) : (manage s ws).host.replies = s.host.replies ++ [.management ws] := rfl
@[simp] theorem manage_host_tokens (s : State) (ws : List Word) : (manage s ws).host.tokens = s.host.tokens := rfl
@[simp] theorem manage_host_recovery (s : State) (ws : List Word) : (manage s ws).host.recovery = s.host.recovery := rfl
@[simp] theorem manage_host_waits (s : State) (ws : List Word) : (manage s ws).host.waits = s.host.waits := rfl
@[simp] theorem manage_dev (s : State) (ws : List Word) : (manage s ws).dev = s.dev := rfl
@[simp] theorem manage_tele (s : State) (ws : List Word) : (manage s ws).tele = s.tele := rfl
@[simp] theorem manage_health (s : State) (ws : List Word) : (manage s ws).health = s.health := rfl

@[simp] theorem holdMessage_cyc (s : State) (qp : Nat) (i : Instr) : (holdMessage s qp i).cyc = s.cyc := rfl
@[simp] theorem holdMessage_agenda (s : State) (qp : Nat) (i : Instr) : (holdMessage s qp i).agenda = s.agenda := rfl
@[simp] theorem holdMessage_occ (s : State) (qp : Nat) (i : Instr) : (holdMessage s qp i).occ = s.occ := rfl
@[simp] theorem holdMessage_fresh (s : State) (qp : Nat) (i : Instr) : (holdMessage s qp i).fresh = s.fresh := rfl
@[simp] theorem holdMessage_nextId (s : State) (qp : Nat) (i : Instr) : (holdMessage s qp i).nextId = s.nextId := rfl
@[simp] theorem holdMessage_mem (s : State) (qp : Nat) (i : Instr) : (holdMessage s qp i).mem = s.mem := rfl
@[simp] theorem holdMessage_tab (s : State) (qp : Nat) (i : Instr) : (holdMessage s qp i).tab = s.tab := rfl
@[simp] theorem holdMessage_frm (s : State) (qp : Nat) (i : Instr) : (holdMessage s qp i).frm = s.frm := rfl
@[simp] theorem holdMessage_pe (s : State) (qp : Nat) (i : Instr) : (holdMessage s qp i).pe = s.pe := rfl
@[simp] theorem holdMessage_flt (s : State) (qp : Nat) (i : Instr) : (holdMessage s qp i).flt = s.flt := rfl
@[simp] theorem holdMessage_xl (s : State) (qp : Nat) (i : Instr) : (holdMessage s qp i).xl = s.xl := rfl
@[simp] theorem holdMessage_ops (s : State) (qp : Nat) (i : Instr) : (holdMessage s qp i).ops = s.ops := rfl
@[simp] theorem holdMessage_syn (s : State) (qp : Nat) (i : Instr) : (holdMessage s qp i).syn = s.syn := rfl
@[simp] theorem holdMessage_ctxs (s : State) (qp : Nat) (i : Instr) : (holdMessage s qp i).ctxs = s.ctxs := rfl
@[simp] theorem holdMessage_astat (s : State) (qp : Nat) (i : Instr) : (holdMessage s qp i).astat = s.astat := rfl
@[simp] theorem holdMessage_isl (s : State) (qp : Nat) (i : Instr) : (holdMessage s qp i).isl = s.isl := rfl
@[simp] theorem holdMessage_rws (s : State) (qp : Nat) (i : Instr) : (holdMessage s qp i).rws = s.rws := rfl
@[simp] theorem holdMessage_net (s : State) (qp : Nat) (i : Instr) : (holdMessage s qp i).net = s.net := rfl
@[simp] theorem holdMessage_bal (s : State) (qp : Nat) (i : Instr) : (holdMessage s qp i).bal = s.bal := rfl
@[simp] theorem holdMessage_sch (s : State) (qp : Nat) (i : Instr) : (holdMessage s qp i).sch = s.sch := rfl
@[simp] theorem holdMessage_host_mrt (s : State) (qp : Nat) (i : Instr) : (holdMessage s qp i).host.mrt = s.host.mrt := rfl
@[simp] theorem holdMessage_host_qps (s : State) (qp : Nat) (i : Instr) : (holdMessage s qp i).host.qps = s.host.qps := rfl
@[simp] theorem holdMessage_host_replies (s : State) (qp : Nat) (i : Instr) : (holdMessage s qp i).host.replies = s.host.replies := rfl
@[simp] theorem holdMessage_host_tokens (s : State) (qp : Nat) (i : Instr) : (holdMessage s qp i).host.tokens = s.host.tokens := rfl
@[simp] theorem holdMessage_host_recovery (s : State) (qp : Nat) (i : Instr) : (holdMessage s qp i).host.recovery = s.host.recovery := rfl
@[simp] theorem holdMessage_host_waits (s : State) (qp : Nat) (i : Instr) : (holdMessage s qp i).host.waits = s.host.waits ++ [(qp, i)] := rfl
@[simp] theorem holdMessage_dev (s : State) (qp : Nat) (i : Instr) : (holdMessage s qp i).dev = s.dev := rfl
@[simp] theorem holdMessage_tele (s : State) (qp : Nat) (i : Instr) : (holdMessage s qp i).tele = s.tele := rfl
@[simp] theorem holdMessage_health (s : State) (qp : Nat) (i : Instr) : (holdMessage s qp i).health = s.health := rfl

@[simp] theorem releaseMessage_cyc (s : State) (qp : Nat) (i : Instr) : (releaseMessage s qp i).cyc = s.cyc := rfl
@[simp] theorem releaseMessage_agenda (s : State) (qp : Nat) (i : Instr) : (releaseMessage s qp i).agenda = s.agenda := rfl
@[simp] theorem releaseMessage_occ (s : State) (qp : Nat) (i : Instr) : (releaseMessage s qp i).occ = s.occ := rfl
@[simp] theorem releaseMessage_fresh (s : State) (qp : Nat) (i : Instr) : (releaseMessage s qp i).fresh = s.fresh := rfl
@[simp] theorem releaseMessage_nextId (s : State) (qp : Nat) (i : Instr) : (releaseMessage s qp i).nextId = s.nextId := rfl
@[simp] theorem releaseMessage_mem (s : State) (qp : Nat) (i : Instr) : (releaseMessage s qp i).mem = s.mem := rfl
@[simp] theorem releaseMessage_tab (s : State) (qp : Nat) (i : Instr) : (releaseMessage s qp i).tab = s.tab := rfl
@[simp] theorem releaseMessage_frm (s : State) (qp : Nat) (i : Instr) : (releaseMessage s qp i).frm = s.frm := rfl
@[simp] theorem releaseMessage_pe (s : State) (qp : Nat) (i : Instr) : (releaseMessage s qp i).pe = s.pe := rfl
@[simp] theorem releaseMessage_flt (s : State) (qp : Nat) (i : Instr) : (releaseMessage s qp i).flt = s.flt := rfl
@[simp] theorem releaseMessage_xl (s : State) (qp : Nat) (i : Instr) : (releaseMessage s qp i).xl = s.xl := rfl
@[simp] theorem releaseMessage_ops (s : State) (qp : Nat) (i : Instr) : (releaseMessage s qp i).ops = s.ops := rfl
@[simp] theorem releaseMessage_syn (s : State) (qp : Nat) (i : Instr) : (releaseMessage s qp i).syn = s.syn := rfl
@[simp] theorem releaseMessage_ctxs (s : State) (qp : Nat) (i : Instr) : (releaseMessage s qp i).ctxs = s.ctxs := rfl
@[simp] theorem releaseMessage_astat (s : State) (qp : Nat) (i : Instr) : (releaseMessage s qp i).astat = s.astat := rfl
@[simp] theorem releaseMessage_isl (s : State) (qp : Nat) (i : Instr) : (releaseMessage s qp i).isl = s.isl := rfl
@[simp] theorem releaseMessage_rws (s : State) (qp : Nat) (i : Instr) : (releaseMessage s qp i).rws = s.rws := rfl
@[simp] theorem releaseMessage_net (s : State) (qp : Nat) (i : Instr) : (releaseMessage s qp i).net = s.net := rfl
@[simp] theorem releaseMessage_bal (s : State) (qp : Nat) (i : Instr) : (releaseMessage s qp i).bal = s.bal := rfl
@[simp] theorem releaseMessage_sch (s : State) (qp : Nat) (i : Instr) : (releaseMessage s qp i).sch = s.sch := rfl
@[simp] theorem releaseMessage_host_mrt (s : State) (qp : Nat) (i : Instr) : (releaseMessage s qp i).host.mrt = s.host.mrt := rfl
@[simp] theorem releaseMessage_host_qps (s : State) (qp : Nat) (i : Instr) : (releaseMessage s qp i).host.qps = s.host.qps := rfl
@[simp] theorem releaseMessage_host_replies (s : State) (qp : Nat) (i : Instr) : (releaseMessage s qp i).host.replies = s.host.replies := rfl
@[simp] theorem releaseMessage_host_tokens (s : State) (qp : Nat) (i : Instr) : (releaseMessage s qp i).host.tokens = s.host.tokens := rfl
@[simp] theorem releaseMessage_host_recovery (s : State) (qp : Nat) (i : Instr) : (releaseMessage s qp i).host.recovery = s.host.recovery := rfl
@[simp] theorem releaseMessage_host_waits (s : State) (qp : Nat) (i : Instr) : (releaseMessage s qp i).host.waits = s.host.waits.erase (qp, i) := rfl
@[simp] theorem releaseMessage_dev (s : State) (qp : Nat) (i : Instr) : (releaseMessage s qp i).dev = s.dev := rfl
@[simp] theorem releaseMessage_tele (s : State) (qp : Nat) (i : Instr) : (releaseMessage s qp i).tele = s.tele := rfl
@[simp] theorem releaseMessage_health (s : State) (qp : Nat) (i : Instr) : (releaseMessage s qp i).health = s.health := rfl

end Sys2Proof.Machine
end

