-- ==== Sys2Proof/Laws/Steps.lean ====
section
/-! SUPPORT. What shared operations do, said once: lanes, sources, targets, pens, walks, records and the forms of block instructions. -/

namespace Sys2Proof.Machine

set_option Elab.async false
set_option linter.unusedSimpArgs false
set_option linter.unusedVariables false

theorem laneOf_mkLanes {f : Nat → Option Word} {l : Nat} (h : l < 32) : laneOf (mkLanes f) l = f l := by
  simp [laneOf, mkLanes, List.getD, h]

theorem lanes2_congr {τ x y} {f g : Nat → Word → Word → Word} (h : ∀ l a b, f l a b = g l a b) : lanes2 τ x y f = lanes2 τ x y g := by
  have : f = g := by funext l a b; exact h l a b
  rw [this]

theorem lanes1_congr {τ x} {f g : Nat → Word → Word} (h : ∀ l a, f l a = g l a) : lanes1 τ x f = lanes1 τ x g := by
  have : f = g := by funext l a; exact h l a
  rw [this]

theorem lanes3_congr {τ x y z} {f g : Nat → Word → Word → Word → Word} (h : ∀ l a b c, f l a b c = g l a b c) : lanes3 τ x y z f = lanes3 τ x y z g := by
  have : f = g := by funext l a b c; exact h l a b c
  rw [this]

theorem op2_writes {i : Instr} {a b t} {f g : Nat → Word → Word → Word} {s : State} {τ : Task} (he : exec i s = runTask (op2 a b t f) s)
  (hr : Runs s τ) (hs : SrcsOk τ [a,b]) (hfg : ∀ l a b, f l a b = g l a b) (hl : Lands s τ t (lanes2 τ (readSrc τ false a) (readSrc τ true b) g)) :
  Writes i s τ t (lanes2 τ (readSrc τ false a) (readSrc τ true b) g) 1 := by
  refine writes_of he hr hl ?_
  rw [op2_eq hs hl.1, lanes2_congr hfg]

theorem op1_writes {i : Instr} {a t} {f g : Nat → Word → Word} {s : State} {τ : Task} (he : exec i s = runTask (op1 a t f) s)
  (hr : Runs s τ) (hs : SrcsOk τ [a]) (hfg : ∀ l a, f l a = g l a) (hl : Lands s τ t (lanes1 τ (readSrc τ false a) g)) :
  Writes i s τ t (lanes1 τ (readSrc τ false a) g) 1 := by
  refine writes_of he hr hl ?_
  rw [op1_eq hs hl.1, lanes1_congr hfg]

theorem mulh_eq_signExtend (a b : Word) : BitVec.ofInt 32 (a.toInt * b.toInt / 2 ^ 32) = ((a.signExtend 64 * b.signExtend 64) >>> 32).setWidth 32 := by
  have h2 : (a.signExtend 64 * b.signExtend 64) = BitVec.ofInt 64 (a.toInt * b.toInt) := by
    apply BitVec.eq_of_toInt_eq
    rw [BitVec.toInt_mul, BitVec.toInt_signExtend_of_le (by omega), BitVec.toInt_signExtend_of_le (by omega), BitVec.toInt_ofInt]
  rw [h2]
  apply BitVec.eq_of_toNat_eq
  rw [BitVec.toNat_setWidth, BitVec.toNat_ushiftRight, BitVec.toNat_ofInt, BitVec.toNat_ofInt, Nat.shiftRight_eq_div_pow]
  generalize a.toInt * b.toInt = z
  omega

theorem mulhu_eq_setWidth (a b : Word) : BitVec.ofNat 32 (a.toNat * b.toNat / 2 ^ 32) = ((a.setWidth 64 * b.setWidth 64) >>> 32).setWidth 32 := by
  apply BitVec.eq_of_toNat_eq
  have ha := a.isLt
  have hb := b.isLt
  have h : a.toNat * b.toNat < 2 ^ 64 := by
    calc a.toNat * b.toNat ≤ 2^32 * b.toNat := Nat.mul_le_mul_right _ ha.le
      _ < 2^32 * 2^32 := by omega
      _ = 2^64 := by norm_num
  rw [BitVec.toNat_setWidth, BitVec.toNat_ushiftRight, BitVec.toNat_mul, BitVec.toNat_setWidth, BitVec.toNat_setWidth, BitVec.toNat_ofNat, Nat.shiftRight_eq_div_pow,
    Nat.mod_eq_of_lt (show a.toNat < 2^64 by omega), Nat.mod_eq_of_lt (show b.toNat < 2^64 by omega), Nat.mod_eq_of_lt h]

theorem toNat_and_31 (b : Word) : (b &&& 31).toNat = b.toNat % 32 := by
  rw [BitVec.toNat_and]
  exact Nat.and_two_pow_sub_one_eq_mod b.toNat 5

theorem extend_eq (sx : Bool) (n : Nat) (hn : 0 < n) (hn2 : n < 32) (a : Word) :
    extend sx n a = if sx then (a.setWidth n).signExtend 32 else (a.setWidth n).setWidth 32 := by
  have ha := a.isLt
  cases sx
  · simp only [extend, Bool.false_and, Bool.false_eq_true, if_false]
    apply BitVec.eq_of_toNat_eq
    simp
  · simp only [extend, Bool.true_and, decide_eq_true_eq, if_true]
    apply BitVec.eq_of_toNat_eq
    rw [BitVec.toNat_signExtend]
    have hm : (a.setWidth n).msb = decide (2 ^ (n - 1) ≤ a.toNat % 2 ^ n) := by
      rw [BitVec.msb_eq_decide, BitVec.toNat_setWidth]
    have h1 : a.toNat % 2 ^ n < 2 ^ n := Nat.mod_lt _ (by positivity)
    have h2 : 2 ^ n ≤ 2 ^ 31 := Nat.pow_le_pow_right (by norm_num) (by omega)
    rw [hm, BitVec.toNat_setWidth, BitVec.toNat_setWidth, BitVec.toNat_ofNat]
    clear hm
    have h3 : 0 < 2 ^ n := by positivity
    clear h1
    generalize 2 ^ n = N at *
    have h1 : a.toNat % N < N := Nat.mod_lt _ h3
    generalize a.toNat % N = v at *
    by_cases h : 2 ^ (n - 1) ≤ v
    · simp only [h, decide_true, if_true]
      omega
    · simp only [h, decide_false, if_false, Bool.false_eq_true]
      rfl

theorem ctzFrom_spec (a : Nat) : ∀ n k, k ≤ ctzFrom a n k ∧ ctzFrom a n k ≤ k + n ∧ (∀ j, k ≤ j → j < ctzFrom a n k → a.testBit j = false) ∧
    (ctzFrom a n k < k + n → a.testBit (ctzFrom a n k) = true) := by
  intro n
  induction n with
  | zero => intro k; simp [ctzFrom]; intro j h1 h2; omega
  | succ n ih =>
    intro k
    unfold ctzFrom
    split
    · rename_i h
      refine ⟨le_refl _, by omega, fun j h1 h2 => by omega, fun _ => ?_⟩
      rw [Nat.testBit_eq_decide_div_mod_eq]; simpa using h
    · rename_i h
      obtain ⟨h1, h2, h3, h4⟩ := ih (k + 1)
      refine ⟨by omega, by omega, fun j hj hj2 => ?_, fun hlt => h4 (by omega)⟩
      by_cases e : j = k
      · subst e; rw [Nat.testBit_eq_decide_div_mod_eq]; simpa using h
      · exact h3 j (by omega) hj2

theorem op3_writes {i : Instr} {a b c t} {f g : Nat → Word → Word → Word → Word} {s : State} {τ : Task} (he : exec i s = runTask (op3 a b c t f) s)
  (hr : Runs s τ) (hs : SrcsOk τ [a,b]) (hfg : ∀ l a b c, f l a b c = g l a b c) (hl : Lands s τ t (lanes3 τ (readSrc τ false a) (readSrc τ true b) (τ.temps.getD c noLanes) g)) :
  Writes i s τ t (lanes3 τ (readSrc τ false a) (readSrc τ true b) (τ.temps.getD c noLanes) g) 1 := by
  refine writes_of he hr hl ?_
  rw [op3_eq hs hl.1, lanes3_congr hfg]

theorem op0_writes {τ : Task} {f : State → Task → Word} {i : Instr} {s t} (he : exec i s = runTask (op0 t (fun s τ => f s τ)) s) (hr : Runs s τ) (hl : Lands s τ t (lanes0 τ (fun _ => f s τ))) :
   Writes i s τ t (lanes0 τ (fun _ => f s τ)) 1 := by
  refine writes_of he hr hl ?_
  rw [op0_eq hl.1]

theorem maskOp_writes {i : Instr} {a t f s} {τ : Task} {n : Nat} (he : exec i s = runTask (maskOp a t f) s) (hr : Runs s τ) (hs : SrcsOk τ [a])
   (hn : f (readSrc τ false a) = n) (hl : Lands s τ t (lanes0 τ (fun _ => BitVec.ofNat 32 n))) :
   Writes i s τ t (lanes0 τ (fun _ => BitVec.ofNat 32 n)) 1 := by
  subst hn
  refine writes_of he hr hl ?_
  simp only [maskOp, operands_ok hs hl.1]
  rfl

theorem sextImm_eq (i : Nat) (h : i < 2 ^ 11) : sextImm i = (BitVec.ofNat 11 i).signExtend 32 := by
  apply BitVec.eq_of_toNat_eq
  rw [BitVec.toNat_signExtend, BitVec.msb_eq_decide, BitVec.toNat_setWidth]
  have e : (BitVec.ofNat 11 i).toNat = i := by rw [BitVec.toNat_ofNat]; omega
  rw [e]
  unfold sextImm
  by_cases h1 : 1024 ≤ i
  · simp [h1]; omega
  · simp [h1]

theorem fop2_writes {i : Instr} {a b t} {f : State → Task → Nat → Word → Word → Word × Astat} {g : Nat → Word → Word → Word × Astat} {s : State} {τ : Task} (he : exec i s = runTask (fop2 a b t f) s)
  (hr : Runs s τ) (hs : SrcsOk τ [a,b]) (hfg : f s τ = g) (hl : Lands s τ t (valuesOf (flanes2 τ (readSrc τ false a) (readSrc τ true b) g))) :
  WritesF i s τ t (flanes2 τ (readSrc τ false a) (readSrc τ true b) g) := by
  refine writesF_of he hr hl ?_
  rw [fop2_eq hs hl.1, hfg]

theorem fop1_writes {i : Instr} {a t} {f : State → Task → Nat → Word → Word × Astat} {g : Nat → Word → Word × Astat} {s : State} {τ : Task} (he : exec i s = runTask (fop1 a t f) s)
  (hr : Runs s τ) (hs : SrcsOk τ [a]) (hfg : f s τ = g) (hl : Lands s τ t (valuesOf (flanes1 τ (readSrc τ false a) g))) :
  WritesF i s τ t (flanes1 τ (readSrc τ false a) g) := by
  refine writesF_of he hr hl ?_
  rw [fop1_eq hs hl.1, hfg]

theorem fop3_writes {i : Instr} {a b c t} {f : State → Task → Nat → Word → Word → Word → Word × Astat} {g : Nat → Word → Word → Word → Word × Astat} {s : State} {τ : Task} (he : exec i s = runTask (fop3 a b c t f) s)
  (hr : Runs s τ) (hs : SrcsOk τ [a,b]) (hfg : f s τ = g) (hl : Lands s τ t (valuesOf (flanes3 τ (readSrc τ false a) (readSrc τ true b) (τ.temps.getD c noLanes) g))) :
  WritesF i s τ t (flanes3 τ (readSrc τ false a) (readSrc τ true b) (τ.temps.getD c noLanes) g) := by
  refine writesF_of he hr hl ?_
  rw [fop3_eq hs hl.1, hfg]

theorem divS_eq (a b : Word) : divS a b = if b = 0 then 0xFFFFFFFF else a.sdiv b := by
  unfold divS
  by_cases hb : b = 0
  · simp [hb]
  · simp only [hb, if_false]
    split
    · rename_i h; obtain ⟨rfl, rfl⟩ := h; decide
    · apply BitVec.eq_of_toInt_eq
      rw [BitVec.toInt_sdiv, BitVec.toInt_ofInt]

theorem remS_eq (a b : Word) : remS a b = if b = 0 then a else a.srem b := by
  unfold remS
  by_cases hb : b = 0
  · simp [hb]
  · simp only [hb, if_false]
    split
    · rename_i h; obtain ⟨rfl, rfl⟩ := h; decide
    · rw [← BitVec.toInt_srem, BitVec.ofInt_toInt]

theorem divU_eq (a b : Word) : divU a b = if b = 0 then 0xFFFFFFFF else a / b := by
  unfold divU; split
  · rfl
  · apply BitVec.eq_of_toNat_eq
    rw [BitVec.toNat_udiv, BitVec.toNat_ofNat, Nat.mod_eq_of_lt]
    exact (Nat.div_le_self _ _).trans_lt a.isLt

theorem remU_eq (a b : Word) : remU a b = if b = 0 then a else a % b := by
  unfold remU; split
  · rfl
  · apply BitVec.eq_of_toNat_eq
    rw [BitVec.toNat_umod, BitVec.toNat_ofNat, Nat.mod_eq_of_lt]
    exact (Nat.mod_le _ _).trans_lt a.isLt

theorem pair_writes {i : Instr} {x y : Target} {u v : Lanes} {s : State} {τ : Task} {f : State → Task → Body Task}
   (he : exec i s = runTask f s) (hr : Runs s τ) (hl : LandsPair s τ x u y v)
   (hf : ∀ τ', put s τ x u = .ok τ' → f s τ = finish s τ' y v) : WritesPair i s τ x u y v := by
  obtain ⟨τ', τ'', h1, h2⟩ := pair_ok hl
  exact ⟨τ', τ'', h1, h2, he.trans (runTask_ok hr ((hf τ' h1).trans (finish_ok h2)))⟩

theorem opP_writes {i : Instr} {x y : Target} {f g : Nat → Word → Word → Word} {u v : Lanes} {s : State} {τ : Task}
   (he : exec i s = runTask (opP x y f g) s) (hr : Runs s τ) (hu : lanes2 τ (latchA τ) (latchB τ) f = u) (hv : lanes2 τ (latchA τ) (latchB τ) g = v)
   (hl : LandsPair s τ x u y v) : WritesPair i s τ x u y v := by
  subst hu hv
  refine pair_writes he hr hl fun τ' h => ?_
  simp only [opP, checkTarget_ok hl.2.1.1, checkTarget_ok hl.1]
  show (put s τ x _ >>= _) = _
  rw [h]; rfl

theorem dec32 (x : Nat) : (fpF32.decode x).2 = 0 := by
  unfold FpFormat.decode
  simp only [apply_ite Prod.snd]
  simp [fpF32]

theorem readNum_f32 (a : Word) : readNum .f32 a.toNat = (num32 a, 0) := by
  unfold readNum num32
  have : a.toNat % 2 ^ fmtWidth .f32 = a.toNat := Nat.mod_eq_of_lt a.isLt
  rw [this]
  exact Prod.ext rfl (dec32 _)

theorem endsWith_of_stop {i : Instr} {s : State} {τ : Task} {cause addr : Nat} {f : State → Task → Body Task}
    (he : exec i s = runTask f s) (hr : Runs s τ) (hf : f s τ = stop cause addr) : EndsWith i s τ cause 0 addr :=
  he.trans (runTask_stop hr hf)

theorem anyExec_iff (τ : Task) (x y : Lanes) : anyExec τ [x, y] = true ↔ ∃ l, l < 32 ∧ predOk τ l = true ∧ (laneOf x l).isSome ∧ (laneOf y l).isSome := by
  simp [anyExec]

theorem scan_fold (o : RedOp) (g : Word → Word → Word) (hg : ∀ a b, redStep o a b = (g a b, 0)) : ∀ (x : Lanes) (acc : Option Word),
    (scanFrom o acc x).foldl (fun a z => match z with | some v => some (v.1, a.elim 0 (·.2) ||| v.2) | none => a) (acc.map (·, (0 : Astat))) =
      (match acc, x.filterMap id with
       | none, [] => none
       | none, h :: r => some (r.foldl g h, 0)
       | some a, l => some (l.foldl g a, 0)) := by
  intro x
  induction x with
  | nil => intro acc; cases acc <;> simp [scanFrom]
  | cons v r ih =>
    intro acc
    cases v with
    | none => simp only [scanFrom, List.foldl_cons]; rw [ih]; cases acc <;> simp
    | some w =>
      cases acc with
      | none =>
        simp only [scanFrom, List.foldl_cons]
        have := ih (some w)
        simp only [Option.map_some] at this
        simp only [Option.map_none, Option.elim_none, BitVec.zero_or]
        rw [show ((0:Astat) ||| 0) = 0 from rfl, this]; simp
      | some a =>
        simp only [scanFrom, List.foldl_cons, hg]
        have := ih (some (g a w))
        simp only [Option.map_some] at this
        simp only [Option.map_some, Option.elim_some, BitVec.zero_or, BitVec.or_zero]
        rw [show ((0:Astat) ||| 0) = 0 from rfl, this]; simp

theorem scan_values (o : RedOp) (g : Word → Word → Word) (hg : ∀ a b, redStep o a b = (g a b, 0)) : ∀ (x : Lanes) (acc : Option Word) (l : Nat),
    (laneOf ((scanFrom o acc x).map (fun z => z.map (·.1))) l) = (laneOf x l).bind (fun _ =>
      match acc, (x.take (l + 1)).filterMap id with
       | none, [] => none
       | none, h :: r => some (r.foldl g h)
       | some a, l => some (l.foldl g a)) := by
  intro x
  induction x with
  | nil => intro acc l; simp [scanFrom, laneOf]
  | cons v r ih =>
    intro acc l
    cases l with
    | zero => cases v <;> cases acc <;> simp [scanFrom, laneOf, hg]
    | succ l =>
      have sh : ∀ (v : Option (Word × Astat)) (r : FLanes), laneOf ((v :: r).map (fun z => z.map (·.1))) (l + 1) = laneOf (r.map (fun z => z.map (·.1))) l := by intros; simp [laneOf]
      have sh2 : ∀ (v : Option Word) (r : Lanes), laneOf (v :: r) (l + 1) = laneOf r l := by intros; simp [laneOf]
      rw [sh2, List.take_succ_cons]
      cases v with
      | none =>
        simp only [scanFrom, sh, ih, List.filterMap_cons, id]
      | some w =>
        cases acc with
        | none => simp only [scanFrom, sh, ih, List.filterMap_cons, id]
        | some a => simp only [scanFrom, sh, ih, List.filterMap_cons, id, hg, List.foldl_cons]

theorem scan_flags (o : RedOp) (g : Word → Word → Word) (hg : ∀ a b, redStep o a b = (g a b, 0)) (x : Lanes) (acc : Option Word) :
   orFlags (scanFrom o acc x) = 0 := by
  unfold orFlags
  have : ∀ (x : Lanes) (acc : Option Word) (f : Astat), (scanFrom o acc x).foldl (fun acc x => acc ||| x.elim 0 (·.2)) f = f := by
    intro x
    induction x with
    | nil => intros; rfl
    | cons v r ih =>
      intro acc f
      cases v with
      | none => simp only [scanFrom, List.foldl_cons, ih]; simp
      | some w => cases acc <;> simp only [scanFrom, List.foldl_cons, ih, hg] <;> simp
  exact this x acc 0

theorem raise_zero (τ : Task) : τ.raise 0 = τ := by simp [Task.raise]

theorem scanFrom_length (o : RedOp) : ∀ (x : Lanes) acc, (scanFrom o acc x).length = x.length := by
  intro x
  induction x with
  | nil => intro _; rfl
  | cons v r ih => intro acc; cases v <;> cases acc <;> simp [scanFrom, ih]

theorem lanes_ext {x y : Lanes} (hx : x.length = 32) (hy : y.length = 32) (h : ∀ l, l < 32 → laneOf x l = laneOf y l) : x = y := by
  apply List.ext_getElem (by rw [hx, hy])
  intro n h1 h2
  have := h n (by omega)
  simpa [laneOf, List.getD, h1, h2] using this

theorem mkLanes_length (f) : (mkLanes f).length = 32 := by simp [mkLanes]

theorem lset_set {α} (l : List α) : ∀ k x, lset l k x = l.set k x := by
  induction l with
  | nil => intro k x; rfl
  | cons a r ih => intro k x; cases k <;> simp [lset, ih]

theorem sgetD_sset_same {α} (m : Store α) (n : Nat) (x d : α) : sgetD (sset m n x) n d = x := by simp [sgetD, sget_sset]

theorem srcs_bad {τ : Task} {l : List Src} (h : ∃ x ∈ l, ∃ k, x = .e k ∧ τ.nin ≤ k) : ¬ SrcsOk τ l := by
  obtain ⟨x, hx, k, rfl, hk⟩ := h
  intro h2
  have := h2 _ hx
  simp [srcOk] at this; omega

theorem srcs_good {τ : Task} {l : List Src} (h : ∀ x ∈ l, ∀ k, x = .e k → k < τ.nin) : SrcsOk τ l := by
  intro x hx
  cases x with
  | e k => simpa [srcOk] using h _ hx k rfl
  | _ => rfl

theorem operands_checked {i : Instr} {s : State} {τ : Task} {srcs : List Src} {t : Target} {f : State → Task → Body Task}
   (he : exec i s = runTask f s) (hf : ∃ g : Unit → Body Task, f s τ = (operands s τ srcs t >>= g)) (hr : Runs s τ) :
   ((∃ x ∈ srcs, ∃ k, x = .e k ∧ τ.nin ≤ k) → EndsWith i s τ causeBadSource 0 0) ∧
      ((∀ x ∈ srcs, ∀ k, x = .e k → k < τ.nin) → targetOk s τ t = false → EndsWith i s τ causeBadTarget 0 t.code) := by
  obtain ⟨g, hf⟩ := hf
  refine ⟨fun h => endsWith_of_stop he hr (hf.trans ?_), fun h ht => endsWith_of_stop he hr (hf.trans ?_)⟩
  · rw [operands_source (srcs_bad h)]; rfl
  · rw [operands_target (srcs_good h) ht]; rfl

theorem peAt_setTask (s : State) (τ : Task) : peAt (s.setTask τ) s.occ.a s.occ.b = { peAt s s.occ.a s.occ.b with run := some τ } := by
  simp [peAt, State.setTask, setPe, sgetD, sget_sset]

theorem task_setTask (s : State) (τ : Task) : (s.setTask τ).task? = some τ := by
  show (peAt (s.setTask τ) s.occ.a s.occ.b).run = some τ
  rw [peAt_setTask]

theorem mkLanes_congr {f g : Nat → Option Word} (h : ∀ l, l < 32 → f l = g l) : mkLanes f = mkLanes g := by
  unfold mkLanes; apply List.map_congr_left; intro l hl; exact h l (List.mem_range.1 hl)

theorem laneOf_mkLanes_ge {f : Nat → Option Word} {l : Nat} (h : 32 ≤ l) : laneOf (mkLanes f) l = none := by
  have : ¬ l < 32 := by omega
  simp [laneOf, mkLanes, List.getD, List.getElem?_eq_none, h]

theorem laneOf_lanes1 (τ : Task) (x : Lanes) (l : Nat) (h : l < 32) : laneOf (lanes1 τ x (fun _ a => a)) l = if predOk τ l then laneOf x l else none := by
  unfold lanes1; rw [laneOf_mkLanes h]; cases laneOf x l <;> simp

theorem recolour_body (off n : Nat) (fits : Nat → Nat → Bool) (f : Nat → Nat → Option Nat) (p : Port) (s : State) (τ : Task) (d : Word) (x : Ctx)
  (hp : portAt s n = some p) (h0 : p.top = 0) (hd : laneOf (latchB τ) 0 = some d)
  (hex : ∃ l, l < 32 ∧ predOk τ l = true ∧ (laneOf (latchA τ) l).isSome) (hx : ctxOf s (d.toNat % 2 ^ 16) = some x) :
  recolour (.port n) .discard fits f s τ =
   if ¬ (x.st = .live ∧ x.q = τ.cx.q) then stop causeBadTarget (384 + n) else if fits τ.w x.w = false then stop causeLaneMismatch 0 else
   let out := mkLanes (fun l => if l < x.w then (f l x.w).bind (laneOf (emitLanes τ (lanes1 τ (latchA τ) (fun _ a => a)))) else none)
   if anyLane out then .ok ({ τ with cbuf := τ.cbuf ++ [CbEntry.emit (emitHeader τ (d.toNat % 2 ^ 16, τ.iter) x.w) out p.dests] }.advance 1) else .ok (τ.advance 1) := by
  have t1 : targetOk s τ (.port n) = true := by simp [targetOk, hp]
  have an : anyExec τ [latchA τ] = true := by
    obtain ⟨l, h1, h2, h3⟩ := hex
    simp only [anyExec, List.any_eq_true, List.mem_range, List.all_cons, List.all_nil, Bool.and_true, Bool.and_eq_true]
    exact ⟨l, h1, h2, h3⟩
  have l0 : control τ (latchB τ) [latchA τ] = .ok (some d) := by
    unfold control; rw [an, hd]; rfl
  have lv : liveIn s τ.cx.q (d.toNat % 2 ^ 16) = (x.st == .live && x.q == τ.cx.q) := by unfold liveIn; rw [hx]
  unfold recolour
  simp only [checkTarget_ok t1, checkTarget_ok (show targetOk s τ .discard = true from rfl), hp, l0, h0, Option.elim_some, Option.getD_some]
  show (check (liveIn s τ.cx.q (d.toNat % 2 ^ 16)) causeBadTarget (384 + n) >>= fun _ => check (fits τ.w ((ctxOf s (d.toNat % 2 ^ 16)).elim 1 (·.w))) causeLaneMismatch 0 >>= _) = _
  rw [lv, hx]
  by_cases h1 : x.st = .live ∧ x.q = τ.cx.q
  · rw [check_true (by simp [h1.1, h1.2]), if_neg (not_not.2 h1)]
    show (check (fits τ.w x.w) _ _ >>= _) = _
    cases h2 : fits τ.w x.w
    · rw [check_false rfl]; simp; rfl
    · rw [check_true rfl]; simp only [Bool.true_eq_false, if_false]; rfl
  · rw [check_false, if_pos h1]; · rfl
    · rw [Bool.eq_false_iff]; intro h; simp at h; exact h1 h

theorem emitCancel_eq {s : State} {τ : Task} {n p z g} (hp : portAt s n = some p) (ht : tagOp s τ.cx.q τ.ctx τ.iter τ.cx.parent p.top z = .ok g) :
  emitCancel s τ n z = .ok { τ with cbuf := τ.cbuf ++
      [.emit { τ.hdr with ctx := g.1, iter := g.2, wm1 := τ.w - 1, can := true } noLanes (p.dests.filter (fun d => d.elem = 0))] } := by
  unfold emitCancel
  simp only [hp, tagFor, ht]
  rfl

theorem emitWith_eq {s : State} {τ : Task} {n : Nat} {v : Lanes} {h : Header → Header} {p : Port} {g} (hp : portAt s n = some p)
    (ht : tagOp s τ.cx.q τ.ctx τ.iter τ.cx.parent p.top (laneOf v 0) = .ok g) :
    emitWith s τ n v h = .ok (if anyLane (emitLanes τ v) then { τ with cbuf := τ.cbuf ++ [.emit (h (emitHeader τ g τ.w)) (emitLanes τ v) p.dests] } else τ) := by
  unfold emitWith
  simp only [hp, tagFor, ht]
  split <;> rfl

theorem switch_routes {i : Instr} {a : Src} {np n : Nat} {kf : Task → Body (Option Nat)} {s : State} {τ : Task} {k : Nat}
    (hs : SrcsOk τ [a]) (hn : (portAt s n).isSome) (hk : kf τ = .ok (some k)) :
    let v := lanes1 τ (readSrc τ false a) (fun _ x => x)
    (anyLane v = false → switchTo a np (.port n) kf s τ = .ok (τ.advance 1)) ∧
    (anyLane v = true → np < k → switchTo a np (.port n) kf s τ = stop causeBadSource 0) ∧
    (anyLane v = true → k ≤ np → n + k < 128 → switchTo a np (.port n) kf s τ = finish s τ (.port (n + k)) v) := by
  intro v
  have h1 : srcOk τ a = true := by simpa using srcs_all hs
  have h2 : needPort s τ (.port n) = .ok n := by
    unfold needPort
    simp only [checkTarget_ok (show targetOk s τ (.port n) = true from hn)]; rfl
  refine ⟨fun hv => ?_, fun hv h => ?_, fun hv h h3 => ?_⟩
  all_goals
    unfold switchTo
    simp only [check_true h1, h2]
    show (kf τ >>= _) = _
    rw [hk]
    show (if anyLane v = true then _ else _) = _
  · rw [if_neg (by rw [hv]; simp)]
  · rw [if_pos hv, check_false (by simp; omega)]; rfl
  · rw [if_pos hv, check_true (by simp; omega), check_true (by simp; omega)]; rfl

theorem needPort_ok {s : State} {τ : Task} {k} (hk : (portAt s k).isSome) : needPort s τ (.port k) = .ok k := by
  unfold needPort
  simp only [checkTarget_ok (show targetOk s τ (.port k) = true from hk)]; rfl

theorem srcOk_one {τ : Task} {a} (h : SrcsOk τ [a]) : srcOk τ a = true := by simpa using srcs_all h

theorem srcOk_two {τ : Task} {a b} (h : SrcsOk τ [a, b]) : (srcOk τ a && srcOk τ b) = true := by simpa using srcs_all h

theorem enters_of_body {i : Instr} {s : State} {τ : Task} {o : Op} {f : State → Task → Body Task}
   (he : exec i s = runTask f s) (hr : Runs s τ) (hf : f s τ = .ok ((τ.enter o).advance 1)) : Enters i s τ o :=
  he.trans (runTask_ok hr hf)

theorem filterMap_lane_map {xs : List (Nat × Word)} {val : Lanes} {g : Nat × Word → Word → Lane} {h : Nat × Word × Word → Lane} (e : ∀ p v, g p v = h (p.1, p.2, v)) :
  xs.filterMap (fun p => (laneOf val p.1).map (fun v => g p v)) =
   (xs.filterMap (fun p => (laneOf val p.1).map (fun v => (p.1, p.2, v)))).map h := by
  rw [List.map_filterMap]
  congr 1; funext p
  cases laneOf val p.1 <;> simp [e]

theorem laneOf_overLanes {val : Lanes} {ls : List Lane} {P : Nat → Prop} (h : ∀ l, (∃ y ∈ ls, y.lane = l) ↔ P l) [∀ l, Decidable (P l)] :
   ∀ l, l < 32 → laneOf (overLanes val ls) l = if P l then laneOf val l else none := by
  intro l hl
  unfold overLanes
  rw [laneOf_mkLanes hl]
  have : ls.any (·.lane == l) = true ↔ P l := by rw [← h l]; simp
  by_cases hp : P l
  · rw [if_pos (this.2 hp), if_pos hp]
  · rw [if_neg (fun h => hp (this.1 h)), if_neg hp]

theorem rangePieces_inside {l : Nat} {va : Int} {len : Nat} {y : Lane} (h : y ∈ rangePieces l va len) : y.lane = l ∧ va ≤ y.va ∧ y.va + (y.len : Int) ≤ va + (len : Int) := by
  unfold rangePieces at h
  split at h
  · simp at h
  · rename_i hv
    have hva : 0 ≤ va := by
      by_contra hneg
      apply hv
      unfold vaCheck
      rw [if_pos (by left; omega)]; rfl
    simp only [List.mem_filterMap] at h
    obtain ⟨k, hk, h2⟩ := h
    generalize hlo : (if k = 0 then va.toNat else (va.toNat / 2 ^ 16 + k) * 2 ^ 16) = lo at h2
    generalize hhi : min (min (va.toNat + len) (2 ^ 56)) ((va.toNat / 2 ^ 16 + k + 1) * 2 ^ 16) = hi at h2
    have e : ((va.toNat : Nat) : Int) = va := Int.toNat_of_nonneg hva
    have h3 : va.toNat ≤ lo := by
      subst hlo
      split
      · exact Nat.le_refl _
      · omega
    have h4 : hi ≤ va.toNat + len := by subst hhi; omega
    split at h2
    · simp only [Option.some.injEq] at h2
      subst h2
      simp only [mkLane]
      refine ⟨trivial, ?_, ?_⟩ <;> omega
    · simp at h2

theorem filterMap_eq_map {xs : List (Nat × Word)} {α β : Type} {f : Nat × Word → Option α} {h : α → β} {g : Nat × Word → Option β} (e : ∀ p, g p = (f p).map h) :
  xs.filterMap g = (xs.filterMap f).map h := by
  rw [List.map_filterMap]; congr 1; funext p; exact e p

theorem laneOf_noExpect (τ : Task) {l} (h : l < 32) : laneOf (noExpect τ) l = some 0 := by
  unfold noExpect; rw [laneOf_mkLanes h]

theorem execLanes_spec {τ : Task} {x p} (h : p ∈ execLanes τ x) : p.1 < 32 ∧ laneOf x p.1 = some p.2 ∧ predOk τ p.1 = true := by
  unfold execLanes at h
  simp only [List.mem_filterMap] at h
  obtain ⟨l, hl, h⟩ := h
  split at h
  · rename_i hp
    cases hx : laneOf x l with
    | none => rw [hx] at h; simp at h
    | some v => rw [hx] at h; simp at h; subst h; exact ⟨by simpa [upto] using hl, hx, hp⟩
  · simp at h

theorem vaCheck_outside {va : Int} {len al : Nat} (h : va < 0 ∨ 2 ^ 56 ≤ va) : vaCheck va len al = some (causeAccess, 1) := by
  unfold vaCheck; rw [if_pos]; exact h

theorem vaCheck_misaligned {va : Int} {len al : Nat} (h0 : 0 ≤ va) (h1 : va < 2 ^ 56) (h2 : va % (al : Int) ≠ 0) :
    vaCheck va len al = some (causeAlign, 0) := by
  unfold vaCheck; rw [if_neg (by push_cast; omega), if_pos h2]

theorem vaCheck_end {va : Int} {len al : Nat} (h0 : 0 ≤ va) (h1 : va < 2 ^ 56) (h2 : va % (al : Int) = 0) (h3 : 2 ^ 56 < va + (len : Int)) :
    vaCheck va len al = some (causeAccess, 1) := by
  unfold vaCheck; rw [if_neg (by push_cast; omega), if_neg (by simp [h2]), if_pos (by push_cast; exact h3)]

theorem vaCheck_inside {va : Int} {len al : Nat} (h0 : 0 ≤ va) (h2 : va % (al : Int) = 0) (h3 : va + (len : Int) ≤ 2 ^ 56) (h4 : 0 < len) :
    vaCheck va len al = none := by
  unfold vaCheck; rw [if_neg (by push_cast; omega), if_neg (by simp [h2]), if_neg (by push_cast; omega)]

theorem endsWith_of_runBody {i : Instr} {s : State} {τ : Task} {f : State → Task → Body (State × Task)} {c d a}
   (he : exec i s = runBody f s) (hr : Runs s τ) (hf : f s τ = .error (.fault c d a)) : EndsWith i s τ c d a :=
  he.trans (runBody_stop hr hf)

theorem endsWith_of_runTask {i : Instr} {s : State} {τ : Task} {f : State → Task → Body (Task)} {c d a}
   (he : exec i s = runTask f s) (hr : Runs s τ) (hf : f s τ = .error (.fault c d a)) : EndsWith i s τ c d a :=
  he.trans (runTask_stop hr hf)

theorem ownedFor_iff {τ : Task} {n p} : ownedFor τ n p = true ↔ p.own = true ∨ ∃ g ∈ τ.gives, g.1 = n := by
  simp [ownedFor]

theorem stpWrite_tab (s : State) (ls : List Lane) : (stpWrite s ls).tab = s.tab ∧ (stpWrite s ls).occ = s.occ :=
  foldl_keeps (fun x : State => x.tab = s.tab ∧ x.occ = s.occ) _ ls s ⟨rfl, rfl⟩ fun _ _ h => h

theorem performStp_tab (s : State) (o : Op) : (performStp s o).tab = s.tab ∧ (performStp s o).occ = s.occ :=
  foldl_keeps (fun x : State => x.tab = s.tab ∧ x.occ = s.occ) _ _ _ (stpWrite_tab s _) fun _ _ h => h

theorem drainStp_tab (s : State) (tile : Nat) : (drainStp s tile).tab = s.tab ∧ (drainStp s tile).occ = s.occ := by
  unfold drainStp
  refine foldl_keeps (fun x : State => x.tab = s.tab ∧ x.occ = s.occ) _ _ _ ⟨rfl, rfl⟩ fun b o hb => ?_
  exact (performStp_tab b o).1.trans hb.1 |> fun h => ⟨h, (performStp_tab b o).2.trans hb.2⟩

theorem sramRead_word {s : State} {a : Nat} (h4 : a % 4 = 0) (hb : sramBadAt s a = false) : ∃ v, sramRead s a 4 = some v ∧ ∀ k, k < 4 → (BitVec.ofNat 32 v >>> (8 * k)).setWidth 8 = mget s.mem.sram (a + k) := by
  have e : ∀ k, k < 4 → sramBadAt s (a + k) = false := by
    intro k hk
    unfold sramBadAt at *
    rw [show (a + k) / 8 = a / 8 by omega]; exact hb
  have e0 := e 0 (by omega); have e1 := e 1 (by omega); have e2 := e 2 (by omega); have e3 := e 3 (by omega)
  simp only [Nat.add_zero] at e0
  refine ⟨_, by simp only [sramRead, e0, e1, e2, e3, show a + 1 + 1 = a + 2 from rfl, show a + 2 + 1 = a + 3 from rfl]; rfl, ?_⟩
  intro k hk
  have h := (mget s.mem.sram a).isLt
  have h1 := (mget s.mem.sram (a + 1)).isLt
  have h2 := (mget s.mem.sram (a + 2)).isLt
  have h3 := (mget s.mem.sram (a + 3)).isLt
  obtain rfl | rfl | rfl | rfl : k = 0 ∨ k = 1 ∨ k = 2 ∨ k = 3 := by omega
  all_goals
    apply BitVec.eq_of_toNat_eq
    simp only [BitVec.toNat_setWidth, BitVec.toNat_ushiftRight, BitVec.toNat_ofNat, Nat.shiftRight_eq_div_pow, Nat.add_zero]
    omega

theorem sramRead_bad {s : State} {a : Nat} (hb : sramBadAt s a = true) : sramRead s a 4 = none := by
  simp only [sramRead, hb, if_true]

theorem sramBadAt_iff {s : State} {a : Nat} : sramBadAt s a = true ↔ (sget s.mem.sramBad (a / 8)).isSome ∨ (sget s.mem.sramLatent (a / 8)).isSome := by
  simp [sramBadAt]

theorem drainStp_none (s : State) (tile : Nat) (h : ∀ o ∈ s.ops, o.tile = tile → ∀ x, o.kind ≠ .stp x) : drainStp s tile = s := by
  unfold drainStp
  refine (congrArg (fun l => List.foldl _ s l) (?_ : _ = [])).trans rfl
  · unfold waitingStp
    rw [List.filter_eq_nil_iff]
    intro o ho h2
    simp only [Bool.and_eq_true, beq_iff_eq] at h2
    have := h o ho h2.1.1.1
    cases hk : o.kind <;> simp_all [isStp]

theorem execLanes_unique {τ : Task} {x : Lanes} {p q} (hp : p ∈ execLanes τ x) (hq : q ∈ execLanes τ x) (h : p.1 = q.1) : p = q := by
  have a := execLanes_spec hp; have b := execLanes_spec hq
  rw [h, b.2.1] at a
  have := a.2.1
  simp only [Option.some.injEq] at this
  exact Prod.ext h this.symm

theorem and_mask_beq {w n : Nat} (h : w < 2 ^ n) : (w &&& (2 ^ n - 1) == w) = true := by
  rw [beq_iff_eq, Nat.and_two_pow_sub_one_eq_mod, Nat.mod_eq_of_lt h]

theorem and_zero_beq {w : Nat} (h : w = 0) : (w &&& 0 == w) = true := by subst h; rfl

theorem and_maskTrough_beq {w : Nat} (h : w < 2 ^ 26) (h2 : w % 2 ^ 20 = 0) : (w &&& maskTrough == w) = true := by
  obtain ⟨q, rfl⟩ : ∃ q, w = q * 2 ^ 20 := ⟨w / 2 ^ 20, by omega⟩
  have : q < 64 := by omega
  rw [beq_iff_eq]
  have all : ∀ q, q < 64 → q * 2 ^ 20 &&& maskTrough = q * 2 ^ 20 := by decide
  exact all q this

theorem givenTo_iff {τ : Task} {n e} : givenTo τ n e = true ↔ ∃ g ∈ τ.gives, g.1 = n ∧ g.2.1 = e := by
  simp [givenTo]

theorem forall_lt_eight {P : Nat → Prop} : (∀ l, l < 8 → P l) ↔ P 0 ∧ P 1 ∧ P 2 ∧ P 3 ∧ P 4 ∧ P 5 ∧ P 6 ∧ P 7 := by
  constructor
  · intro h; exact ⟨h 0 (by omega), h 1 (by omega), h 2 (by omega), h 3 (by omega), h 4 (by omega), h 5 (by omega), h 6 (by omega), h 7 (by omega)⟩
  · rintro ⟨h0, h1, h2, h3, h4, h5, h6, h7⟩ l hl
    obtain rfl | rfl | rfl | rfl | rfl | rfl | rfl | rfl : l = 0 ∨ l = 1 ∨ l = 2 ∨ l = 3 ∨ l = 4 ∨ l = 5 ∨ l = 6 ∨ l = 7 := by omega
    all_goals assumption

theorem field_ok {c} (h : c = true) : field c = .ok () := check_true h

theorem bit_eq_true_iff {w k : Nat} : bit w k = true ↔ w / 2 ^ k % 2 ^ 1 = 1 := by unfold bit; simp

theorem liveIn_iff {s q c} : liveIn s q c = true ↔ ∃ x, ctxOf s c = some x ∧ x.st = .live ∧ x.q = q := by
  unfold liveIn
  cases h : ctxOf s c with
  | none => simp
  | some x => simp

theorem sysBody_user {i k a b na nb ok t s} {τ : Task} (he : exec i s = runTask (sysBody k a b na nb ok t) s) (hr : Runs s τ) (hu : τ.cx.asid ≠ 0) : EndsWith i s τ causePriv 0 0 := by
  refine endsWith_of_runTask he hr ?_
  unfold sysBody privileged
  rw [check_false (by simp [supervisor, hu])]; rfl

/-- The state and the root table page that the ASID entry gives (R22). -/
theorem walkStart_root {s s1 : State} {quad asid va r : Nat} (h : asidRoot s asid = (s1, .ok r)) : walkStart s quad asid va true = (s1, .ok (3, r)) := by
  unfold walkStart
  rw [if_pos rfl]
  show (match asidRoot s asid with | (s, .ok r) => _ | (s, .error e) => _) = _
  rw [h]

/-- A walk that meets a leaf (R21, R24, R28). -/
theorem walk_of_down {s s1 s2 : State} {quad asid va lvl0 page lvl a pte : Nat} {wr root : Bool} {seen : List (Nat × Nat)}
    (h1 : walkStart s quad asid va root = (s1, .ok (lvl0, page)))
    (h2 : walkDown va lvl0 page [] s1 = (s2, { leaf := .ok (lvl, a, pte), seen := seen })) :
    let s3 := cacheWalk s2 quad asid va seen
    let pte' := pte ||| 64 ||| (if wr then 128 else 0)
    walk s quad asid va wr root = (if pte' = pte then s3 else homeWrite s3 0 a 8 pte', .ok (leafEntry asid va lvl pte')) := by
  unfold walk
  rw [h1]
  dsimp only
  rw [h2]

/-- One level of the descent. -/
theorem walkDown_entry {s s1 : State} {va l page pte : Nat} {seen : List (Nat × Nat)}
    (h : tableRead s (page + va / 2 ^ levelBits l % 1024 * 8) = (s1, .ok pte)) :
  walkDown va l page seen s = match pteCheck l pte with
        | .error e => (s1, { leaf := .error (l, e), seen := seen })
        | .ok _ => if bit pte 1 then (s1, { leaf := .ok (l, page + va / 2 ^ levelBits l % 1024 * 8, pte), seen := seen }) else
          match (generalizing := false) l with
          | 0 => (s1, { leaf := .error (0, causePage, 0x04), seen := seen })
          | l' + 1 => walkDown va l' (bits pte 13 39 * 2 ^ 13) (seen ++ [(l, bits pte 13 39 * 2 ^ 13)]) s1 := by
  cases l with
  | zero => rw [walkDown, h] <;> rfl
  | succ l => rw [walkDown, h] <;> rfl

theorem opById_id {s : State} {id : Nat} {o : Op} (h : opById s id = some o) : o.id = id := by
  have := List.find?_some h; simpa using this

theorem opById_setOp {s : State} {id : Nat} {o o' : Op} (h : opById s id = some o) (hi : o'.id = id) : opById (setOp s o') id = some o' := by
  unfold opById at *
  show (s.ops.map (fun x => if x.id == o'.id then o' else x)).find? (·.id == id) = some o'
  generalize s.ops = l at *
  induction l with
  | nil => simp at h
  | cons a r ih =>
    rw [List.map_cons, List.find?_cons]
    rw [List.find?_cons] at h
    by_cases c : a.id = id
    · rw [if_pos (by simp [c, hi])]
      simp [hi]
    · rw [if_neg (by simp [c, hi])]
      have : (a.id == id) = false := by simp [c]
      rw [this] at h ⊢
      exact ih h

theorem any_fst_beq {α β : Type} [BEq α] [LawfulBEq α] (l : List (α × β)) (t : α) : l.any (fun x => x.1 == t) = true ↔ ∃ a ∈ l, a.1 = t := by
  rw [List.any_eq_true]; simp only [beq_iff_eq]

theorem sramRead_congr {s t : State} (h : t.mem = s.mem) (a n : Nat) : sramRead t a n = sramRead s a n := by
  induction n generalizing a with
  | zero => rfl
  | succ n ih => rw [sramRead, sramRead, ih]; unfold sramBadAt; rw [h]

theorem penRead_congr {s t : State} (h : t.mem = s.mem) (h2 : t.tab = s.tab) (a b n : Nat) : penRead t a b n = penRead s a b n := by
  unfold penRead penByte penAt
  rw [h2, sramRead_congr h]

theorem mem_insertRecord (x : Nat × Launch) (l : List (Nat × Launch)) : ∀ y, y ∈ insertRecord x l ↔ y = x ∨ y ∈ l := by
  induction l with
  | nil => intro y; simp [insertRecord]
  | cons z r ih =>
    intro y
    unfold insertRecord
    split
    · simp
    · simp only [List.mem_cons, ih]; tauto

theorem waitingRecords_head {s : State} {q : Nat} {l : Launch} {r : List (Nat × Launch)} (h : waitingRecords s = (q, l) :: r) : (q, l) ∈ s.sch.launches ∧ recordWaits l = true := by
  have : ∀ (l : List (Nat × Launch)) y, y ∈ l.foldr insertRecord [] ↔ y ∈ l := by
    intro l
    induction l with
    | nil => simp
    | cons x r ih => intro y; rw [List.foldr_cons, mem_insertRecord, ih, List.mem_cons]
  have h2 := (this (s.sch.launches.filter (fun p => recordWaits p.2)) (q, l)).1 (by unfold waitingRecords at h; rw [h]; exact List.mem_cons_self ..)
  simpa using h2

theorem sget_sset_same {α : Type} (m : List (Nat × α)) (k : Nat) (v : α) : sget (sset m k v) k = some v := by
  induction m with
  | nil => simp [sset, sget]
  | cons x r ih =>
    obtain ⟨a, b⟩ := x
    unfold sset
    split
    · simp [sget]
    · split
      · simp [sget]
      · unfold sget; split
        · omega
        · exact ih

theorem answerAny_sch (s : State) (h : Option (Nat × Stt)) (k v : Nat) (d : List (BitVec 8)) : (answerAny s h k v d).sch = s.sch := by
  unfold answerAny answerHost
  cases h with
  | none => rfl
  | some h => dsimp only; split <;> rfl

theorem exec_launchIntake_device {s : State} {o : Op} (h0 : s.occ.a ≠ 0) (hs : opById s s.occ.a = some o) (hk : o.kind = .launch) (ht : o.tid = 0) (hp : o.phase = .queued) :
    exec .launchIntake s = .next (deviceIntake s o) := by
  rw [show exec .launchIntake s = execLaunchIntake s from rfl]
  unfold execLaunchIntake
  rw [if_neg h0, hs]; dsimp only
  rw [if_pos (by rw [hk, ht, hp]; rfl)]

theorem gate1_foldl (quad : Nat) (l : List Nat) (s : State) :
    let g := fun (s : State) t => if tileResting s t && (sget s.dev.gated t).isNone then gate1 s t 0 else s
    (l.foldl g s).dev.qreq = s.dev.qreq ∧ (l.foldl g s).dev.qcur = s.dev.qcur := by
  induction l generalizing s with
  | nil => simp
  | cons x r ih =>
    intro g
    rw [List.foldl_cons]
    obtain ⟨a, b⟩ := ih (g s x)
    have e : (g s x).dev.qreq = s.dev.qreq ∧ (g s x).dev.qcur = s.dev.qcur := by
      show ((if _ then gate1 s x 0 else s).dev.qreq = _ ∧ (if _ then gate1 s x 0 else s).dev.qcur = _)
      split <;> exact ⟨rfl, rfl⟩
    exact ⟨a.trans e.1, b.trans e.2⟩

theorem setUpTile_foldl (l : List Nat) (s : State) : (l.foldl setUpTile s).dev = s.dev ∧ (l.foldl setUpTile s).host = s.host := by
  induction l generalizing s with
  | nil => simp
  | cons x r ih =>
    rw [List.foldl_cons]
    exact ⟨(ih _).1.trans rfl, (ih _).2.trans rfl⟩

theorem bit_eq_decide (n k : Nat) : bit n k = decide (n / 2 ^ k % 2 = 1) := by unfold bit; rw [Bool.eq_iff_iff]; simp

theorem sget_sset_other {α : Type} (m : List (Nat × α)) (k n : Nat) (v : α) (h : n ≠ k) : sget (sset m k v) n = sget m n := by
  induction m with
  | nil => unfold sset sget; rw [if_neg (by omega)]; rfl
  | cons x r ih =>
    obtain ⟨a, b⟩ := x
    unfold sset
    split
    · conv => lhs; unfold sget
      rw [if_neg (by omega)]
    · split
      · rename_i h1 h2
        conv => lhs; unfold sget
        conv => rhs; unfold sget
        rw [if_neg (by omega), if_neg (by omega)]
      · conv => lhs; unfold sget
        conv => rhs; unfold sget
        rw [ih]

theorem foldl_keeps_outside (tile : Nat) (f : State → Nat × Block → State) (hf : ∀ s p, (f s p).flt = s.flt ∧ (f s p).mem = s.mem ∧ (f s p).ctxs = s.ctxs)
    (l : List (Nat × Block)) (s : State) : (l.foldl f s).flt = s.flt ∧ (l.foldl f s).mem = s.mem ∧ (l.foldl f s).ctxs = s.ctxs := by
  induction l generalizing s with
  | nil => simp
  | cons x r ih =>
    rw [List.foldl_cons]
    obtain ⟨a, b, c⟩ := ih (f s x)
    obtain ⟨d, e, g⟩ := hf s x
    exact ⟨a.trans d, b.trans e, c.trans g⟩

theorem wakeGroom_keeps (s : State) (tile : Nat) : (wakeGroom s tile).flt = s.flt ∧ (wakeGroom s tile).mem = s.mem ∧ (wakeGroom s tile).ctxs = s.ctxs := by
  unfold wakeGroom
  apply foldl_keeps_outside tile
  intro s p
  dsimp only
  split <;> exact ⟨rfl, rfl, rfl⟩

theorem setFaultRegs_eq (s : State) (tile : Nat) (r : FaultRec) : ∃ v0 v2 v3 v4 v5 v6, setFaultRegs s tile r = setTileReg (setTileReg (setTileReg (setTileReg (setTileReg (setTileReg
    (setTileReg s tile 0 v0) tile 1 (BitVec.ofNat 32 r.cause)) tile 2 v2) tile 3 v3) tile 4 v4) tile 5 v5) tile 6 v6 := by
  unfold setFaultRegs
  dsimp only
  simp only [List.foldl_cons, List.foldl_nil]
  exact ⟨_, _, _, _, _, _, rfl⟩

theorem setFaultRegs_cause (s : State) (tile : Nat) (r : FaultRec) : tileReg (setFaultRegs s tile r) tile 1 = BitVec.ofNat 32 r.cause := by
  obtain ⟨v0, v2, v3, v4, v5, v6, h⟩ := setFaultRegs_eq s tile r
  rw [h]
  unfold tileReg sgetD setTileReg
  dsimp only
  rw [sget_sset_other _ _ _ _ (by omega), sget_sset_other _ _ _ _ (by omega), sget_sset_other _ _ _ _ (by omega), sget_sset_other _ _ _ _ (by omega),
    sget_sset_other _ _ _ _ (by omega), sget_sset_same]
  rfl

theorem setFaultRegs_keeps (s : State) (tile : Nat) (r : FaultRec) : (setFaultRegs s tile r).flt.supq = s.flt.supq ∧ (setFaultRegs s tile r).flt.busy = s.flt.busy ∧
    (setFaultRegs s tile r).mem = s.mem ∧ (setFaultRegs s tile r).ctxs = s.ctxs := by
  obtain ⟨v0, v2, v3, v4, v5, v6, h⟩ := setFaultRegs_eq s tile r
  rw [h]
  have k1 : ∀ s t n v, (setTileReg s t n v).flt.supq = s.flt.supq := fun _ _ _ _ => rfl
  have k2 : ∀ s t n v, (setTileReg s t n v).flt.busy = s.flt.busy := fun _ _ _ _ => rfl
  have k3 : ∀ s t n v, (setTileReg s t n v).mem = s.mem := fun _ _ _ _ => rfl
  have k4 : ∀ s t n v, (setTileReg s t n v).ctxs = s.ctxs := fun _ _ _ _ => rfl
  simp only [k1, k2, k3, k4, and_self]

end Sys2Proof.Machine
end

