-- ==== Sys2Proof/Tests/Slice0.lean ====
section
/-! SUPPORT. Tests: ill-formed terms are refused, words written out from the encoding tables decode, single steps give what the spec says,
and witnesses that meet the hypotheses of each statement. -/


open Sys2Proof Sys2Proof.Machine

namespace Sys2Proof.Tests

set_option Elab.async false
set_option linter.unusedSimpArgs false
set_option linter.unusedVariables false

/-- One ill-formed term for each check of WellFormed.lean. -/
def illSources : List Instr := [
  .add (.t 8) .zero .discard, .add .zero (.e 4) .discard, .abs .lid (.latA 64), .abs .lid (.latB 64), .abs .lid (.onTrue 64),
  .abs .lid (.onFalse 64), .abs .lid (.temp 8), .abs .lid (.port 128), .fwd (.port 128) .discard, .fwd .discard (.temp 8)]
def illFields : List Instr := [
  .split 33 .discard .discard, .pack 32 (.port 0) .discard, .unpack 32 (.port 0) .discard, .bfi .zero .zero 8 .discard,
  .sel .zero .zero 8 .discard, .lea .zero .zero 4 .discard, .switchPol .zero 16 (.port 0), .switchLane .zero .zero 16 (.port 0),
  .ffma .zero .zero .rne 8 false .discard, .hfma2 .zero .zero .rne 8 false .discard, .scacc .zero .zero .e8m0 8 false .discard,
  .amax .zero 16 .discard, .rng .zero .zero 4 .raw .discard, .li 2048 .discard, .lih .zero 2048 .discard, .lit (2 ^ 32) .discard,
  .addi .zero 2048 .discard, .cmpltui .zero 2048 .discard, .shli .zero 32 .discard, .shri .zero 32 .discard, .srai .zero 32 .discard,
  .mfs 0x16 .discard, .mts .zero 0x04, .ldp .zero 2048 .discard, .stp .zero 2048]
def illFormats : List Instr := [
  .fadd .zero .zero .e4m3 .rne false .discard, .fclass .zero .e8m0 .discard, .fcvt .zero .zero .f32 .rne false .discard,
  .itof .zero .e2m1 .rne false .discard, .hadd2 .zero .zero .f32 .rne false .discard, .vdot .zero .zero .cb2 .discard,
  .cbdec .zero .f16 0 false .discard, .cbdec .zero .f32 8 false .discard, .cbdec .zero .bf16 4 false .discard,
  .scacc .zero .zero .bf16 0 false .discard, .scmul .zero .zero .f16 .discard, .mma .zero .i8 false false true .discard]
def illEngines : List Instr := [
  .ld .zero 8 .word 0 (.port 0), .ld .zero 0 .word 4 (.port 0), .st .zero .zero 8 .word 0 .discard, .ldch .zero .zero 0 4 (.port 0),
  .pref .zero 8 .word 0, .sflush .zero .zero 0 4 .discard, .sinv .zero .zero 8 0 .discard, .amo .zero .zero 8 .add .discard,
  .cas .zero .zero 0 false 8 .discard, .hacq .zero 8 .s (.port 0), .hrel .zero 0 .x .discard, .htry .zero 0 .p (.port 0),
  .hbind .zero .zero 8 .discard, .fence (.e 0) 0 .discard, .fence .zero 4 .discard, .bar .zero (.e 0) false 0 (.port 0),
  .wait 16 0 0 0 (.port 0), .wait 0 16 0 0 (.port 0), .wait 0 0 16 0 (.port 0), .wait 0 0 0 8 (.port 0), .give .zero 0, .give .zero 9,
  .qrsv .zero 128 .discard, .dcopyG2p .zero 4 (.port 0), .dgath .zero .zero 4 (.port 0), .dred .zero 4 .sum false (.port 0)]
def illRest : List Instr := [
  .commit .latch true (.port 0), .sendx .zero (.e 0) false false false (.port 0), .ctxf (.e 0) true, .trap .zero 128, .brk 128, .eres .zero .zero true 4 false .discard,
  .eres .zero (.e 0) false 0 false .discard, .sqEnd 65536, .sqCfg 256 0, .sqCfg 0 256, .sqRun false 64 false, .sqIf false false 65536 0 0,
  .sqIf false false 0 (2 ^ 56) 0, .sqIf true false 0 0 (2 ^ 56), .sqIf false false 0 0 1, .sqJmp 65536, .sqGait 256, .sqSig 65536 0 0,
  .sqSig 0 (2 ^ 23) 0, .sqSig 0 0 (2 ^ 32)]
def illEvents : List Instr := [
  .regionShrink 4096 0 0 0, .regionShrink 0 256 0 0, .recoveryImage 1024 0 24 0, .recoveryImage 0 0 23 0, .mrlPlaneDown 36, .mrlPlaneUp 36,
  .mrlKeyChange 36, .rdmaWrite 1024 0 0 [], .rdmaRead 1024 0 0 0, .rdmaInvalidRequest 1024, .sttLaunch 1024 0 24 0, .sttTokens 0 0 65537 [],
  .sttDiscard 1024 0 24, .sttDiscard 0 0 23, .mrreg 0 0 24 4096 0 0 0 false false, .mrreg 0 0 24 0 65536 0 0 false false, .mrdereg 0 0 24 4096,
  .ctrlPreempt 0 0 24 4096 false, .ctrlHalt 0 0 24 65536 0, .ctrlHalt 0 0 24 0 65536, .ctrlFwd 1024 0 24 [], .challenge 0 0 65537,
  .finish 0 0 23, .debugUnlock 0 0 24 3, .connectionManager 1024 none 0, .connectionManager 0 (some 65536) 0, .connectionManager 0 none 9]

/-- The check refuses every ill-formed term above. -/
theorem test_ill_formed_terms_are_refused :
    (illSources ++ illFields ++ illFormats ++ illEngines ++ illRest ++ illEvents).all (fun i => !i.wf) = true := by decide +kernel

/-- The word decodes to the instruction. -/
def decodesTo (p : Nat × Instr) : Bool :=
  match decodeBlock p.1 0xFFFFFFFF with
  | .ok i => i == p.2 && i.wf
  | .error _ => false

/-- Block words written out from the encoding tables, part 1 (R209 to R221). -/
def words1 : List (Nat × Instr) := [
  (0x0000FE82, .fwd (.latB 63) (.onTrue 1)), (0x01010485, .steer (.onTrue 1) (.onFalse 2)), (0x02010B02, .steerc (.onFalse 2) (.temp 2)),
  (0x03820F08, .split 32 (.temp 7) .discard), (0x047A1109, .pack 30 .discard .emask), (0x057E1385, .unpack 31 .emask (.port 5)),
  (0x10021385, .addP .emask (.port 5)), (0x11030BFF, .subP (.port 5) (.port 127)), (0x1203FE06, .andP (.port 127) (.latA 3)),
  (0x13000C7F, .orP (.latA 3) (.latB 63)), (0x1400FE82, .xorP (.latB 63) (.onTrue 1)), (0x15010485, .shlP (.onTrue 1) (.onFalse 2)),
  (0x16010B02, .shrP (.onFalse 2) (.temp 2)), (0x17020507, .sraP (.temp 2) (.temp 7)), (0x18020F08, .minP (.temp 7) .discard),
  (0x19021109, .maxP .discard .emask), (0x1A830BFF, .cmpP .gtu (.port 5) (.port 127)), (0x2017FE06, .faddP .dyn (.port 127) (.latA 3)),
  (0x21100C7F, .fsubP .rs (.latA 3) (.latB 63)), (0x2214FE82, .fmulP .dyn (.latB 63) (.onTrue 1)), (0x2300FE82, .fminP (.latB 63) (.onTrue 1)),
  (0x24010485, .fmaxP (.onTrue 1) (.onFalse 2)), (0x251A0507, .fcmpP .uno (.temp 2) (.temp 7)), (0x409F0108, .add (.e 0) .tag .discard),
  (0x41C00109, .sub (.e 3) (.t 0) .emask), (0x42E70185, .mul .lid (.t 7) (.port 5)), (0x43F801FF, .mulh .tag .latch (.port 127)),
  (0x44090006, .mulhu (.t 0) (.e 0) (.latA 3)), (0x457C007F, .div (.t 7) (.e 3) (.latB 63)), (0x468E0082, .divu .latch .lid (.onTrue 1)),
  (0x479F0085, .rem (.e 0) .tag (.onFalse 2)), (0x48C00102, .remu (.e 3) (.t 0) (.temp 2)), (0x49E70107, .and .lid (.t 7) (.temp 7)),
  (0x4AF80108, .or .tag .latch .discard), (0x4B090109, .xor (.t 0) (.e 0) .emask), (0x4C7C0185, .andn (.t 7) (.e 3) (.port 5)),
  (0x4D8E01FF, .shl .latch .lid (.port 127)), (0x4E9F0006, .shr (.e 0) .tag (.latA 3)), (0x4FC0007F, .sra (.e 3) (.t 0) (.latB 63)),
  (0x50E70082, .rot .lid (.t 7) (.onTrue 1))]

theorem test_decode_words1 : words1.all decodesTo = true := by decide +kernel

/-- Block words written out from the encoding tables, part 2 (R209 to R221). -/
def words2 : List (Nat × Instr) := [
  (0x51F80085, .min .tag .latch (.onFalse 2)), (0x52090102, .max (.t 0) (.e 0) (.temp 2)), (0x537C0107, .minu (.t 7) (.e 3) (.temp 7)),
  (0x548E0108, .maxu .latch .lid .discard), (0x559D0108, .abs (.e 0) .discard), (0x56CD0109, .clz (.e 3) .emask), (0x56ED4185, .ctz .lid (.port 5)),
  (0x56FD81FF, .popc .tag (.port 127)), (0x560DC006, .brev (.t 0) (.latA 3)), (0x577D807F, .sxb (.t 7) (.latB 63)),
  (0x578DA082, .sxh .latch (.onTrue 1)), (0x579DC085, .sx4 (.e 0) (.onFalse 2)), (0x57CD0102, .zxb (.e 3) (.temp 2)),
  (0x57ED2107, .zxh .lid (.temp 7)), (0x57FD4108, .zx4 .tag .discard), (0x580901FF, .bfx (.t 0) (.e 0) false (.port 127)),
  (0x597C1806, .bfi (.t 7) (.e 3) 6 (.latA 3)), (0x5A8E907F, .cmp .latch .lid .geu (.latB 63)), (0x5B9F1882, .sel (.e 0) .tag 6 (.onTrue 1)),
  (0x5CC00685, .lea (.e 3) (.t 0) 3 (.onFalse 2)), (0x5DED7085, .switchPol .lid 14 (.onFalse 2)), (0x5DF8F907, .switchLane .tag .latch 15 (.temp 7)),
  (0x5E090107, .laff (.t 0) (.e 0) (.temp 7)), (0x5E7D2107, .lxor (.t 7) (.temp 7)), (0x5E8D4108, .lvcnt .latch .discard),
  (0x5E9D6109, .lvfst (.e 0) .emask), (0x60C05282, .fadd (.e 3) (.t 0) .f16 .rs true (.onTrue 1)),
  (0x61E73485, .fsub .lid (.t 7) .bf16 .dyn false (.onFalse 2)), (0x62F85302, .fmul .tag .latch .f16 .rs true (.temp 2)),
  (0x6309BD07, .ffma (.t 0) (.e 0) .dyn 7 false (.temp 7)), (0x647C0085, .fmin (.t 7) (.e 3) (.onFalse 2)),
  (0x658E0102, .fmax .latch .lid (.temp 2)), (0x669D4107, .fabs (.e 0) .f16 (.temp 7)), (0x66CD2508, .fneg (.e 3) .bf16 .discard),
  (0x66E74985, .fcpys .lid (.t 7) .f16 (.port 5)), (0x66F82DFF, .fcpyn .tag .latch .bf16 (.port 127)),
  (0x66095006, .fxsgn (.t 0) (.e 0) .f16 (.latA 3)), (0x677C3C82, .fcmp (.t 7) (.e 3) .bf16 .ord (.onTrue 1)),
  (0x688D607F, .fclass .latch .e4m3 (.latB 63)), (0x699FB507, .fcvt (.e 0) .tag .e2m1 .dyn false (.temp 7))]

theorem test_decode_words2 : words2.all decodesTo = true := by decide +kernel

/-- Block words written out from the encoding tables, part 3 (R209 to R221). -/
def words3 : List (Nat × Instr) := [
  (0x6ACD1085, .frnd (.e 3) .rs (.onFalse 2)), (0x6BED9708, .ftoi .lid .u8 .dyn true .discard), (0x6CFD5109, .itof .tag .f16 .rs false .emask),
  (0x6D0955FF, .hadd2 (.t 0) (.e 0) .f16 .dyn false (.port 127)), (0x6E7C3206, .hmul2 (.t 7) (.e 3) .bf16 .rs true (.latA 3)),
  (0x6F8EBC7F, .hfma2 .latch .lid .dyn 7 false (.latB 63)), (0x709D0185, .ex2 (.e 0) (.port 5)), (0x70CD21FF, .lg2 (.e 3) (.port 127)),
  (0x70ED4006, .rcp .lid (.latA 3)), (0x70FD607F, .rsq .tag (.latB 63)), (0x700D8082, .sqrt (.t 0) (.onTrue 1)),
  (0x707DA085, .sin (.t 7) (.onFalse 2)), (0x708DC102, .cos .latch (.temp 2)), (0x709DE107, .tanh (.e 0) (.temp 7)),
  (0x71C05206, .fdiv (.e 3) (.t 0) .f16 .rs true (.latA 3)), (0x72EDE185, .lred .lid .or (.port 5)), (0x73FDC1FF, .lscan .tag .and (.port 127)),
  (0x7409807F, .shuf (.t 0) (.e 0) .rot (.latB 63)), (0x757C007F, .lbc (.t 7) (.e 3) (.latB 63)), (0x768E8085, .vdot .latch .lid .e5m2 (.onFalse 2)),
  (0x779F0085, .tacc (.e 0) .tag (.onFalse 2)), (0x78CD2F08, .cbdec (.e 3) .bf16 3 true .discard), (0x79E70108, .ltld .lid (.t 7)),
  (0x7AF8FD85, .scacc .tag .latch .e8m0 7 false (.port 5)), (0x7B09E185, .scmul (.t 0) (.e 0) .e8m0 (.port 5)),
  (0x7C7DF185, .amax (.t 7) 15 (.port 5)), (0x7D8E907F, .rng .latch .lid 2 .u01 (.latB 63)), (0x80DFFFFF, .li 2047 (.port 127)),
  (0x81CFFC7F, .lih (.e 3) 2046 (.latB 63)), (0x83EFFE82, .addi .lid 2047 (.onTrue 1)), (0x84FFFC85, .andi .tag 2046 (.onFalse 2)),
  (0x850FFF02, .ori (.t 0) 2047 (.temp 2)), (0x867FFD07, .xori (.t 7) 2046 (.temp 7)), (0x87803F08, .shli .latch 31 .discard),
  (0x88903F09, .shri (.e 0) 31 .emask), (0x89C03F85, .srai (.e 3) 31 (.port 5)), (0x8AEFFDFF, .cmpeqi .lid 2046 (.port 127)),
  (0x8BFFFE06, .cmplti .tag 2047 (.latA 3)), (0x8C0FFC7F, .cmpltui (.t 0) 2046 (.latB 63)), (0x8DD02A7F, .mfs 21 (.latB 63))]

theorem test_decode_words3 : words3.all decodesTo = true := by decide +kernel

/-- Block words written out from the encoding tables, part 4 (R209 to R221). -/
def words4 : List (Nat × Instr) := [
  (0x908FFC85, .ldp .latch 2046 (.onFalse 2)), (0x919FFF08, .stp (.e 0) 2047), (0xC0CDD5DD, .ld (.e 3) 6 .word 2 (.port 93)),
  (0xC1E7FFFF, .st .lid (.t 7) 7 .row 3 (.port 127)), (0xC2F8D5EB, .ldch .tag .latch 6 2 (.port 107)), (0xC30DFF08, .pref (.t 0) 7 .row 3),
  (0xC47CC47F, .sflush (.t 7) (.e 3) 6 2 (.latB 63)), (0xC58EE682, .sinv .latch .lid 7 3 (.onTrue 1)),
  (0xC89FD285, .amo (.e 0) .tag 6 .swapd (.onFalse 2)), (0xC9C0FF07, .cas (.e 3) (.t 0) 7 true 7 (.temp 7)),
  (0xCAE7D307, .amosc .lid (.t 7) 6 .swapd (.temp 7)), (0xCBF8E908, .amof .tag .latch 7 .fmax .discard), (0xCC0DD1A3, .hacq (.t 0) 6 .p (.port 35)),
  (0xCD7DF109, .hrel (.t 7) 7 .p .emask), (0xCE8DC9B1, .htry .latch 6 .x (.port 49)), (0xCF9FE1FF, .hbind (.e 0) .tag 7 (.port 127)),
  (0xD0C0C006, .hunb (.e 3) (.t 0) 6 (.latA 3)), (0xD18DC006, .fence .latch 3 (.latA 3)), (0xD2FDE1CD, .bar .tag .zero true 6 (.port 77)),
  (0xD3FFFFD4, .wait 15 15 15 7 (.port 84)), (0xD47D8108, .give (.t 7) 8), (0xD58DFF02, .qrsv .latch 127 (.temp 2)), (0xD69D0108, .qpost (.e 0)),
  (0xD7CDFF08, .qtake (.e 3) 127 .discard), (0xD8ED0108, .qfree .lid), (0xD9FD0109, .qstat .tag .emask), (0xDA0D8185, .dcopyG2p (.t 0) 2 (.port 5)),
  (0xDA7DC98C, .dcopyP2g (.t 7) 3 (.port 12)), (0xDA8D9193, .dcopyP2p .latch 2 (.port 19)), (0xDA9DD99A, .dcopyP2t (.e 0) 3 (.port 26)),
  (0xDACDA1A1, .dcopyApp (.e 3) 2 (.port 33)), (0xDBE7C1A8, .dgath .lid (.t 7) 3 (.port 40)), (0xDCF881AF, .dscat .tag .latch 2 (.port 47)),
  (0xDD0DC1B6, .dhop (.t 0) 3 (.port 54)), (0xDE7DA1BD, .dbcst (.t 7) 2 true (.port 61)), (0xDF8DE9C4, .dred .latch 3 .min true (.port 68)),
  (0xE09D3A82, .mma (.e 0) .e4e5 true false true (.onTrue 1)), (0xE1CD01FF, .mzero (.e 3) (.port 127)),
  (0xE2ED5107, .mdrn .lid false true false true false (.temp 7)), (0xE3F80082, .mlda .tag .latch (.onTrue 1))]

theorem test_decode_words4 : words4.all decodesTo = true := by decide +kernel

/-- Block words written out from the encoding tables, part 5 (R209 to R221). -/
def words5 : List (Nat × Instr) := [
  (0xE4090085, .etld (.t 0) (.e 0) (.onFalse 2)), (0xE57C0102, .fold (.t 7) (.e 3) (.temp 2)), (0xE68D0102, .ffin .latch (.temp 2)),
  (0xE79D0107, .ncfg (.e 0) (.temp 7)), (0xE8CD0108, .brcfg (.e 3) .discard), (0xE8ED8109, .brcfgStat .lid .emask),
  (0xE9F801FF, .reinld .tag .latch (.port 127)), (0xEC094198, .sendx (.t 0) (.e 0) false true false (.port 24)),
  (0xED7D019F, .cancel (.t 7) (.port 31)), (0xEEDD81A6, .commit .zero true (.port 38)), (0xEF9D0085, .ctxa (.e 0) false (.onFalse 2)),
  (0xF0DD8108, .ctxf .zero true), (0xF1E781BB, .spawn .lid (.t 7) true false (.port 59)), (0xF2FD01C2, .launch .tag (.port 66)),
  (0xF30D9F08, .mts (.t 0) 79), (0xF47DFF08, .trap (.t 7) 127), (0xF5DDFD08, .brk 126), (0xF69FE085, .eres (.e 0) .tag true 3 false (.onFalse 2)),
  (0xF7CD0006, .esc (.e 3) (.latA 3)), (0xF8ED007F, .ekill .lid (.latB 63)), (0xF9FD0082, .mfsr .tag (.onTrue 1)),
  (0xF9090302, .mtsr (.t 0) (.e 0) (.temp 2)), (0xF97D0502, .tbi (.t 7) (.temp 2)), (0xF98D0707, .shinv .latch (.temp 7)),
  (0xF99D0908, .plbc (.e 0) .discard), (0xF9C00B85, .prbld (.e 3) (.t 0) (.port 5)), (0xF9E70DFF, .cfgld .lid (.t 7) (.port 127)),
  (0xF9FD0FFF, .gait .tag (.port 127)), (0xF9DD11FF, .idle (.port 127)), (0xF97D127F, .park (.t 7) (.latB 63)),
  (0x82D00007, .lit 0xFFFFFFFF (.latB 3))]

theorem test_decode_words5 : words5.all decodesTo = true := by decide +kernel
/-- The words decode to the instruction and its number of words. -/
def sequenceIs (p : List Nat × Instr × Nat) : Bool :=
  match decodeSeq p.1 with
  | .ok (i, n) => i == p.2.1 && n == p.2.2 && i.wf
  | .error _ => false

/-- Sequencer words written out from R222 and R384. -/
def wordsSeq : List (List Nat × Instr × Nat) := [
  ([0x0000FFFF], .sqEnd 0xFFFF, 1), ([0x100080FF], .sqCfg 0x80 0xFF, 1), ([0x2FF00000], .sqRun true 63 true, 1),
  ([0x20200000], .sqRun false 1 false, 1), ([0x34000005, 0x89ABCDEF, 0x00012345], .sqIf false true 5 0x01234589ABCDEF 0, 3),
  ([0x38000005, 0x89ABCDEF, 0x00012345, 0x12345680, 0x00ABCDEF], .sqIf true false 5 0x01234589ABCDEF 0xABCDEF12345680, 5),
  ([0x70000009, 0x02800200, 0xFFFFFFFE], .sqSig 9 0x14001 0xFFFFFFFE, 3),
  ([0x40000010], .sqJmp 16, 1), ([0x50000000], .sqBar, 1), ([0x600000A5], .sqGait 0xA5, 1)]

theorem test_decode_sequencer_words : wordsSeq.all sequenceIs = true := by decide +kernel

/-- R221, R222: reserved cells do not decode. -/
def wordsReserved : List Nat := [
  0x06000000, 0x1B000000, 0x26000000, 0x5F000000, 0x7E000000, 0x8E000000, 0x92000000, 0xC6000000, 0xC7000000, 0xEA000000, 0xEB000000, 0xFA000000,
  0xF90D1500, 0x40000110, 0x5A00A000, 0x60001800, 0x550C0108, 0x870D4108, 0xE00DA108]

theorem test_reserved_words_are_refused :
    (wordsReserved.all (fun w => (decodeBlock w 0).toOption.isNone) && ([0x8, 0xF].all fun k => (decodeSeq [k * 2 ^ 28]).toOption.isNone)) = true := by
  decide +kernel

/-- PE 0 of tile 0 runs a task of a context of width 8 with an entry of eight zero lanes. -/
def base : State := placeBlockWord State.reset 0 0

/-- The state in which PE 0 of tile 0 runs this task. -/
def at' (τ : Task) : State := base.setTask τ

/-- Lanes below 8 that carry one word, and lanes from a list. -/
def same (w : Word) : Lanes := mkLanes (fun l => if l < 8 then some w else none)
def lanes (ws : List Word) : Lanes := mkLanes (fun l => ws[l]?)

/-- A task with these entries. -/
def entered (xs : List Lanes) : Task := { probeTask with nin := xs.length, entries := xs }

/-- Lane `l` of temporary 0 after an instruction on e0 and e1. -/
def result (i : Instr) (x y : Lanes) (l : Nat) : Option Word :=
  match exec i (at' (entered [x, y])) with
  | .next t => t.task?.bind (fun τ => laneOf (τ.temps.getD 0 noLanes) l)
  | _ => none

/-- The same for one word in every lane. -/
def value (i : Instr) (a b : Word) : Option Word := result i (same a) (same b) 7

/-- The flags that the block has collected after the instruction. -/
def flagged (i : Instr) (a b : Word) : Option Astat :=
  match exec i (at' (entered [same a, same b])) with
  | .next t => t.task?.map (·.flags)
  | _ => none

/-- The cause of the fault record that the instruction leaves pending, where it ends its task so. -/
def faultOf (i : Instr) (τ : Task) : Option Nat :=
  match exec i (at' τ) with
  | .next t => if t.task?.isNone then t.flt.supq.head?.bind (fun q => q.2.head?.map (·.cause)) <|> t.flt.pending.head?.map (·.fr.cause) else none
  | _ => none

theorem test_add_wraps : value (.add (.e 0) (.e 1) (.temp 0)) 0xFFFFFFFF 2 = some 1 := by decide +kernel
theorem test_mulh_signed : value (.mulh (.e 0) (.e 1) (.temp 0)) 0x80000000 2 = some 0xFFFFFFFF := by decide +kernel
theorem test_div_by_zero : value (.div (.e 0) (.e 1) (.temp 0)) 7 0 = some 0xFFFFFFFF := by decide +kernel
theorem test_div_by_zero_flag : flagged (.div (.e 0) (.e 1) (.temp 0)) 7 0 = some 0x20 := by decide +kernel
theorem test_div_most_negative : value (.div (.e 0) (.e 1) (.temp 0)) 0x80000000 0xFFFFFFFF = some 0x80000000 := by decide +kernel
theorem test_rem_takes_sign_of_dividend : value (.rem (.e 0) (.e 1) (.temp 0)) 0xFFFFFFF9 2 = some 0xFFFFFFFF := by decide +kernel
theorem test_shl_takes_five_bits : value (.shl (.e 0) (.e 1) (.temp 0)) 1 33 = some 2 := by decide +kernel
theorem test_sra_fills_with_sign : value (.sra (.e 0) (.e 1) (.temp 0)) 0x80000000 31 = some 0xFFFFFFFF := by decide +kernel
theorem test_clz_of_zero : value (.clz (.e 0) (.temp 0)) 0 0 = some 32 := by decide +kernel
theorem test_bfx_sign_extends : value (.bfx (.e 0) (.e 1) true (.temp 0)) 0x00000F00 0x68 = some 0xFFFFFFFF := by decide +kernel
theorem test_addi_is_signed : value (.addi (.e 0) 0x7FF (.temp 0)) 5 0 = some 4 := by decide +kernel
theorem test_lih_keeps_low_bits : value (.lih (.e 0) 0x7FF (.temp 0)) 0x001FFFFF 0 = some 0xFFFFFFFF := by decide +kernel
theorem test_lea_scales : value (.lea (.e 0) (.e 1) 3 (.temp 0)) 1 2 = some 129 := by decide +kernel
theorem test_null_lane_is_not_written :
    result (.add (.e 0) (.e 1) (.temp 0)) (lanes [1, 2, 3]) (lanes [4, 5]) 2 = none := by decide +kernel
theorem test_fadd_rounds_to_even : value (.fadd (.e 0) (.e 1) .f32 .rne false (.temp 0)) 0x3F800000 0x33800000 = some 0x3F800000 := by decide +kernel
theorem test_fadd_inexact_flag : flagged (.fadd (.e 0) (.e 1) .f32 .rne false (.temp 0)) 0x3F800000 0x33800000 = some 4 := by decide +kernel
theorem test_fadd_rounds_up : value (.fadd (.e 0) (.e 1) .f32 .ru false (.temp 0)) 0x3F800000 0x33800000 = some 0x3F800001 := by decide +kernel
theorem test_fdiv_by_zero : value (.fdiv (.e 0) (.e 1) .f32 .rne false (.temp 0)) 0xBF800000 0 = some 0xFF800000 := by decide +kernel
theorem test_fmin_prefers_negative_zero : value (.fmin (.e 0) (.e 1) (.temp 0)) 0 0x80000000 = some 0x80000000 := by decide +kernel
theorem test_fcmp_with_nan : value (.fcmp (.e 0) (.e 1) .f32 .uno (.temp 0)) 0x7FC00000 0 = some 1 := by decide +kernel
theorem test_ftoi_saturates : value (.ftoi (.e 0) .i8 .rne true (.temp 0)) 0x43480000 0 = some 127 := by decide +kernel
theorem test_fclass_negative_subnormal : value (.fclass (.e 0) .e4m3 (.temp 0)) 0x81 0 = some 4 := by decide +kernel
theorem test_lred_sums_all_lanes : value (.lred (.e 0) .add (.temp 0)) 3 0 = some 24 := by decide +kernel
theorem test_shuf_rotates : result (.shuf (.e 0) (.e 1) .rot (.temp 0)) (lanes [0, 1, 2, 3, 4, 5, 6, 7]) (same 1) 7 = some 0 := by decide +kernel
theorem test_source_that_the_block_has_not : faultOf (.abs (.e 2) .discard) (entered [same 0]) = some causeBadSource := by decide +kernel
theorem test_latch_target_behind : faultOf (.abs .zero (.latA 0)) (entered [same 0]) = some causeBadTarget := by decide +kernel
theorem test_sys_in_a_user_context :
    faultOf (.mfsr .zero .discard) { probeTask with cx := { probeCtx with asid := 1 } } = some causePriv := by decide +kernel

/-- What reset runs, step by step, and the words placed by withFetchWord. -/
theorem test_first_fetch_runs_the_placed_word :
    (match step (State.reset.withFetchWord 32 0x83D00900) with
     | .next t => t.task?.bind (fun τ => laneOf (τ.temps.getD 0 noLanes) 7)
     | _ => none) = some 4 := by decide +kernel

theorem test_first_fetch_runs_the_placed_sequence :
    (match step (State.reset.withFetchWord 32 0x20500000) with
     | .next t => (sget t.sch.launches 0).map (fun l => (l.pc, l.runs))
     | _ => none) = some (1, 1) := by decide +kernel

/-! Witnesses: states and operands that meet the hypotheses of the statements. -/

theorem base_runs : Runs base probeTask := rfl

/-- What a list's members are found to be one by one. -/
theorem each {α : Type} {l : List α} {P : α → Prop} [DecidablePred P] (h : l.all (fun x => decide (P x)) = true) : ∀ x ∈ l, P x :=
  fun x hx => of_decide_eq_true (List.all_eq_true.1 h x hx)

theorem runs_at (τ : Task) : Runs (at' τ) τ := rfl

theorem sources_in (τ : Task) (h : 2 ≤ τ.nin) : SrcsOk τ [.e 0, .e 1] := by
  intro a ha
  simp only [List.mem_cons, List.not_mem_nil, or_false] at ha
  rcases ha with rfl | rfl <;> simp [srcOk] <;> omega

theorem source_in (τ : Task) (h : 1 ≤ τ.nin) : SrcsOk τ [.e 0] := by
  intro a ha
  simp only [List.mem_cons, List.not_mem_nil, or_false] at ha
  subst ha
  simp [srcOk]
  omega

/-- Temporaries take lanes in every state. -/
theorem lands_temp (s : State) (τ : Task) (v : Lanes) (k : Nat) : Lands s τ (.temp k) v := ⟨rfl, by intro n p h; cases h⟩

theorem lands_pair (s : State) (τ : Task) (u v : Lanes) : LandsPair s τ (.temp 0) u (.temp 7) v :=
  ⟨rfl, lands_temp s τ u 0, fun τ' _ => lands_temp s τ' v 7⟩

/-- Both of two entries are valid in lanes 0 to 7. -/
def pair : Task := entered [same 3, same 5]

theorem witness_LanesExecuteWhereSourcesAndPredicateAllow :
    (∃ v, laneOf (lanes2 pair (same 3) (same 5) (fun _ a b => a + b)) 0 = some v) ∧
    laneOf (lanes2 pair (same 3) (same 5) (fun _ a b => a + b)) 31 = none ∧ (0 : Nat) < 32 ∧ (31 : Nat) < 32 :=
  ⟨⟨8, by decide +kernel⟩, by decide +kernel, by decide, by decide⟩

theorem witness_IntegerTwoSourceResults : ∀ p ∈ Claims.twoSource, ∃ a b t s τ, Runs s τ ∧ SrcsOk τ [a, b] ∧
    Lands s τ t (lanes2 τ (readSrc τ false a) (readSrc τ true b) p.2) :=
  fun p _ => ⟨.e 0, .e 1, .temp 0, at' pair, pair, runs_at pair, sources_in pair (by decide), lands_temp _ _ _ 0⟩

theorem witness_IntegerOneSourceResults :
    (∀ p ∈ Claims.oneSource, ∃ a t s τ, Runs s τ ∧ SrcsOk τ [a] ∧ Lands s τ t (lanes1 τ (readSrc τ false a) p.2)) ∧
    ∀ f : Word → Word, ∃ a t s τ, Runs s τ ∧ SrcsOk τ [a] ∧ Lands s τ t (lanes1 τ (readSrc τ false a) (fun _ => f)) :=
  ⟨fun p _ => ⟨.e 0, .temp 0, at' pair, pair, runs_at pair, source_in pair (by decide), lands_temp _ _ _ 0⟩,
   fun f => ⟨.e 0, .temp 0, at' pair, pair, runs_at pair, source_in pair (by decide), lands_temp _ _ _ 0⟩⟩

/-- A first valid lane 0, and no valid lane. -/
theorem witness_CompareFieldAndSelectResults :
    (∀ v, ∃ a b t s τ, Runs s τ ∧ SrcsOk τ [a, b] ∧ Lands s τ t v) ∧
    (∀ v, ∃ (a : Src) (t : Target) (s : State) (τ : Task), Runs s τ ∧ SrcsOk τ [a] ∧ (0 : Nat) ≤ 32 ∧
      (laneOf (readSrc τ false a) 0).isSome ∧ (readSrc τ false a).length = 32 ∧ Lands s τ t v) ∧
    ∀ v, ∃ (a : Src) (t : Target) (s : State) (τ : Task), Runs s τ ∧ SrcsOk τ [a] ∧ (∀ l, l < 32 → laneOf (readSrc τ false a) l = none) ∧
      (readSrc τ false a).length = 32 ∧ Lands s τ t v :=
  ⟨fun v => ⟨.e 0, .e 1, .temp 0, at' pair, pair, runs_at pair, sources_in pair (by decide), lands_temp _ _ _ 0⟩,
   fun v => ⟨.e 0, .temp 0, at' pair, pair, runs_at pair, source_in pair (by decide), by decide, by decide +kernel, by decide +kernel,
     lands_temp _ _ _ 0⟩,
   fun v => ⟨.e 0, .temp 0, at' (entered [noLanes]), entered [noLanes], runs_at _, source_in _ (by decide), by decide +kernel, by decide +kernel,
     lands_temp _ _ _ 0⟩⟩

theorem witness_ImmediateResults :
    (∀ p ∈ Claims.immediates, ∀ i ∈ [0, 2047], i < 2 ^ 11 ∧ ∃ a t s τ, Runs s τ ∧ SrcsOk τ [a] ∧
      Lands s τ t (lanes1 τ (readSrc τ false a) (fun _ => p.2 i))) ∧
    (∀ v, Runs base probeTask ∧ probeTask.pos < probeTask.len ∧ Lands base probeTask (.temp 0) v) ∧
    (∀ p ∈ Claims.taskRegisters, Lands base probeTask (.temp 0) (lanes0 probeTask (fun _ => p.2 base probeTask))) ∧ (7 : Nat) < 8 ∧ (15 : Nat) < 16 :=
  ⟨fun p _ i hi => ⟨by simp only [List.mem_cons, List.not_mem_nil, or_false] at hi; rcases hi with rfl | rfl <;> decide,
     .e 0, .temp 0, at' pair, pair, runs_at pair, source_in pair (by decide), lands_temp _ _ _ 0⟩,
   fun v => ⟨base_runs, by decide, lands_temp _ _ _ 0⟩, fun p _ => lands_temp _ _ _ 0, by decide, by decide⟩

theorem witness_DivisionResultsAndFlag : ∀ p ∈ Claims.divisions, ∃ a b t s τ, Runs s τ ∧ SrcsOk τ [a, b] ∧
    Lands s τ t (valuesOf (flanes2 τ (readSrc τ false a) (readSrc τ true b) (fun _ x y => (p.2 x y, if y = 0 then 0x20 else 0)))) :=
  fun p _ => ⟨.e 0, .e 1, .temp 0, at' pair, pair, runs_at pair, sources_in pair (by decide), lands_temp _ _ _ 0⟩

theorem witness_PairClassResults : Runs (at' pair) pair ∧ ∀ u v, LandsPair (at' pair) pair (.temp 0) u (.temp 7) v :=
  ⟨runs_at pair, fun u v => lands_pair _ _ u v⟩

theorem witness_FloatingPointRoundsOnce : Runs (at' pair) pair ∧ SrcsOk pair [.e 0, .e 1] ∧ SrcsOk pair [.e 0] ∧
    (∀ v, Lands (at' pair) pair (.temp 0) v) ∧ ∀ g u v, LandsPair (at' pair) (pair.raise g) (.temp 0) u (.temp 7) v :=
  ⟨runs_at pair, sources_in pair (by decide), source_in pair (by decide), fun v => lands_temp _ _ v 0, fun g u v => lands_pair _ _ u v⟩

theorem witness_FloatSelectSignAndCompareResults : Runs (at' pair) pair ∧ SrcsOk pair [.e 0, .e 1] ∧ SrcsOk pair [.e 0] ∧
    (∀ v, Lands (at' pair) pair (.temp 0) v) ∧ ∀ g u v, LandsPair (at' pair) (pair.raise g) (.temp 0) u (.temp 7) v :=
  ⟨runs_at pair, sources_in pair (by decide), source_in pair (by decide), fun v => lands_temp _ _ v 0, fun g u v => lands_pair _ _ u v⟩

/-- NaNs and numbers on either side, and the less number on either side. -/
theorem witness_FloatSelectSignAndCompareResults_values :
    (num32 0x7FC00000).isNan = true ∧ (num32 0xFFFFFFFF).isNan = true ∧ (num32 0x3F800000).isNan = false ∧ (num32 0xFF800000).isNan = false ∧
    numLt (num32 0xFF800000) (num32 0x3F800000) = true := by decide +kernel

/-- Control words of FCVT: none executed, lane 0 invalid, 16, an element that E4M3 has not, elements 0 and 3, and 8 and 11. -/
theorem witness_FcvtNarrowsAndWidens :
    (∀ b, Runs (at' (entered [noLanes, b])) (entered [noLanes, b]) ∧ SrcsOk (entered [noLanes, b]) [.e 0, .e 1] ∧
      targetOk (at' (entered [noLanes, b])) (entered [noLanes, b]) (.temp 0) = true) ∧
    (∀ l, l < 32 → laneOf noLanes l = none) ∧
    (let τ := entered [same 0, mkLanes (fun l => if l = 1 then some 0 else none)]
     (predOk τ 1 = true ∧ (laneOf (readSrc τ false (.e 0)) 1).isSome) ∧
       laneOf (readSrc τ true (.e 1)) 0 = none) ∧
    (∀ c ∈ [(0 : Word), 3, 4, 8, 11, 16], let τ := entered [same 0, same c]
      (predOk τ 0 = true ∧ (laneOf (readSrc τ false (.e 0)) 0).isSome) ∧ laneOf (readSrc τ true (.e 1)) 0 = some c) ∧
    fmtWidth .e4m3 = 8 ∧ ∀ τ v, Lands (at' τ) τ (.temp 0) v :=
  ⟨fun b => ⟨runs_at _, sources_in _ (Nat.le_refl 2), rfl⟩, by decide +kernel, by decide +kernel, each (by decide +kernel), by decide, fun τ v => lands_temp _ _ v 0⟩

theorem witness_RoundingToIntegers : Runs (at' pair) pair ∧ SrcsOk pair [.e 0] ∧ (∀ v, Lands (at' pair) pair (.temp 0) v) ∧
    num32 0x7FC00000 = .nan ∧ num32 0xFF800000 = .inf true ∧ num32 0x80000000 = .fin true 0 (-149) false ∧
    num32 0x3F800000 = .fin false 0x800000 (-23) false :=
  ⟨runs_at pair, source_in pair (by decide), fun v => lands_temp _ _ v 0, by decide +kernel, by decide +kernel, by decide +kernel, by decide +kernel⟩

theorem witness_SpecialFunctionResults : Runs (at' pair) pair ∧ SrcsOk pair [.e 0] ∧ ∀ v, Lands (at' pair) pair (.temp 0) v :=
  ⟨runs_at pair, source_in pair (by decide), fun v => lands_temp _ _ v 0⟩

theorem witness_ScaleDotAndDrawResults : Runs (at' pair) pair ∧ SrcsOk pair [.e 0, .e 1] ∧ ∀ v, Lands (at' pair) pair (.temp 0) v :=
  ⟨runs_at pair, sources_in pair (by decide), fun v => lands_temp _ _ v 0⟩

/-- Executed lanes 0 to 7, then none; LBC from lane 7, and lane 8, which the width has not. -/
theorem witness_CrossLaneResults :
    (Runs (at' pair) pair ∧ SrcsOk pair [.e 0, .e 1] ∧ SrcsOk pair [.e 0] ∧ ∀ v, Lands (at' pair) pair (.temp 0) v) ∧
    (lanes1 pair (readSrc pair false (.e 0)) (fun _ v => v)).filterMap id = [3, 3, 3, 3, 3, 3, 3, 3] ∧
    (∃ z, treeSum 5 ((lanes1 pair (readSrc pair false (.e 0)) (fun _ v => v)).map (fun v => v.map (fun w => (w, 0)))) = some z) ∧
    anyLane (lanes1 (entered [noLanes]) (readSrc (entered [noLanes]) false (.e 0)) (fun _ v => v)) = false ∧
    (∃ m, amaxOf (lanes1 pair (readSrc pair false (.e 0)) (fun _ v => v)) = some m) ∧
    (let τ := entered [same 3, same 7]
     laneOf (readSrc τ true (.e 1)) 0 = some 7 ∧ laneOf (readSrc τ false (.e 0)) 7 = some 3) ∧
    (let τ := entered [same 3, same 8]
     targetOk (at' τ) τ (.temp 0) = true ∧ predOk τ 0 = true ∧ laneOf (readSrc τ true (.e 1)) 0 = some 8 ∧ τ.w ≤ (8 : Nat) % 32) :=
  ⟨⟨runs_at pair, sources_in pair (by decide), source_in pair (by decide), fun v => lands_temp _ _ v 0⟩, by decide +kernel,
   Option.isSome_iff_exists.1 (by decide +kernel), by decide +kernel, Option.isSome_iff_exists.1 (by decide +kernel), by decide +kernel, by decide +kernel⟩

/-- Lattice row operands 511 and 512, and no executed lane. -/
theorem witness_CodebookResults :
    (Runs (at' pair) pair ∧ SrcsOk pair [.e 0, .e 1] ∧ SrcsOk pair [.e 0] ∧ ∀ v, Lands (at' pair) pair (.temp 0) v) ∧
    (∀ x ∈ execLanes pair (readSrc pair false (.e 0)), latticeBad (at' pair) (at' pair).occ.a (x.2.toNat % 2 ^ 16 / 256) = false) ∧
    (let τ := entered [same 3, same 511]
     let y := lanes2 τ (readSrc τ false (.e 0)) (readSrc τ true (.e 1)) (fun _ _ q => q)
     (∀ w ∈ y, w.elim true (fun w => decide (w.toNat < 512)) = true) ∧
       anyLane (lanes2 τ (readSrc τ false (.e 0)) (readSrc τ true (.e 1)) (fun _ p _ => p)) = true) ∧
    (let τ := entered [same 3, same 512]
     some 512 ∈ lanes2 τ (readSrc τ false (.e 0)) (readSrc τ true (.e 1)) (fun _ _ q => q)) ∧
    (let τ := entered [noLanes, same 1]
     anyLane (lanes2 τ (readSrc τ false (.e 0)) (readSrc τ true (.e 1)) (fun _ p _ => p)) = false) :=
  ⟨⟨runs_at pair, sources_in pair (by decide), source_in pair (by decide), fun v => lands_temp _ _ v 0⟩, each (by decide +kernel),
   ⟨each (by decide +kernel), by decide +kernel⟩, by decide +kernel, by decide +kernel⟩

end Sys2Proof.Tests
end

