-- ==== Sys2Proof/Tests/Witnesses.lean ====
section
/-! SUPPORT. Witnesses, part 2: small states and operands that meet the hypotheses of the statements about emissions, memory, engines,
contexts, launches, the host and faults. -/

open Sys2Proof Sys2Proof.Machine

namespace Sys2Proof.Tests

set_option Elab.async false
set_option linter.unusedSimpArgs false
set_option linter.unusedVariables false

/-! A tile with what the block instructions name: ports 0 to 5 with each tag operation, pens, troughs, a launch of one tile. -/

/-- A context of launch 0, and one of its pool. -/
def crewCtx : Ctx := { probeCtx with q := 0 }

/-- A launch of one tile whose contexts may have 32 lanes. -/
def crewLaunch : Launch := { probeLaunch [] with words := List.replicate 11 0 ++ [128] }

def plainPen : Pen := { asid := 0, gen := 0, tm := false, trg := 0, eng := 0, own := false, size := 8, base := 0 }

/-- Slots 0 to 3 are taken, filled, reserved and free. -/
def trough0 : Trough :=
  { pen0 := 3, nslot := 4, pkind := 0, ckind := 0, free := 1, rsvd := 1, filled := 1, taken := 1, nxr := 3, nxp := 2, nxt := 1, nxf := 0,
    posted := [], freed := [], voids := [], waiters := [] }

/-- Pens 1 and 8 are a PE's, 2 the island's, 3 to 6 trough 0's, 7 of another address space. Trough 1 is an engine's, trough 2 is empty. -/
def stocked : State :=
  { base with
    tab := { base.tab with
      plan := [(0, { stash := 0, loft := 0, ntrg := 3, plog2 := 6, wlog2 := 0 })]
      ports := (List.range 6).map (fun k => (k, { top := k, dests := [⟨0, 0, 0, 0⟩, ⟨0, 1, 0, 0⟩] }))
      pens := [(1, plainPen), (2, { plainPen with own := true, eng := 5 })] ++
        [3, 4, 5, 6].map (fun n => (n, { plainPen with tm := true, size := 1, base := n + 8 })) ++ [(7, { plainPen with asid := 7 }),
        (8, { plainPen with base := 16 })]
      troughs := [(0, trough0), (1, { trough0 with pkind := 1, ckind := 1 }), (2, { trough0 with free := 0, filled := 0, rsvd := 2, taken := 2 })]
      fplans := [(0, { nblk := 1, flog2 := 0, fslog2 := 0 })], ltiles := [(0, [0])], owner := [(0, 0)] }
    sch := { base.sch with launches := [(0, crewLaunch)] }
    ctxs := [(0, crewCtx), (1, { crewCtx with w := 16 }), (2, { crewCtx with w := 4 }), (3, { crewCtx with st := .ending })] }

/-- A task of the launch with these entries, and the state that runs it. -/
def worker (xs : List Lanes) : Task := { entered xs with cx := crewCtx }
def on (τ : Task) : State := stocked.setTask τ
/-- The same with latches A and B of its own position. -/
def latched (τ : Task) (a b : Lanes) : Task := { τ with latA := [(0, a)], latB := [(0, b)] }

theorem runs_on (τ : Task) : Runs (on τ) τ := rfl

theorem some_lane (τ : Task) (xs : List Lanes) (h : (predOk τ 0 && xs.all (fun x => (laneOf x 0).isSome)) = true) : Claims.SomeLane τ xs := by
  rw [Bool.and_eq_true, List.all_eq_true] at h
  exact ⟨0, by decide, h.1, h.2⟩

/-- A task that executes no lane, its predicate targeted with no value. -/
def idleTask (xs : List Lanes) : Task := { worker xs with armed := [0] }

/-! Emissions. -/

theorem witness_TargetsReceiveExecutedLanes : (0 : Nat) < pair.temps.length ∧ (7 : Nat) < pair.temps.length := by decide

/-- No enabled lane; each tag operation at a value that it takes. -/
theorem witness_PortWritesEnterOneEmission :
    let s := on (worker [same 1])
    let τ := worker [same 1]
    (∀ k ∈ [0, 1, 2, 3, 4, 5], portAt s k = some { top := k, dests := [⟨0, 0, 0, 0⟩, ⟨0, 1, 0, 0⟩] }) ∧
    anyLane (mkLanes (fun l => if τ.emask.getD l false then laneOf noLanes l else none)) = false ∧
    anyLane (mkLanes (fun l => if τ.emask.getD l false then laneOf (same 1) l else none)) = true ∧ τ.iter ≠ 0xFFFF ∧
    (∃ q, ({ τ with cx := { crewCtx with parent := some 0x20003 } } : Task).cx.parent = some q ∧ q.toNat / 2 ^ 16 = 2 ∧ q.toNat % 2 ^ 16 = 3) ∧
    (∃ w, laneOf (same 1) 0 = some w ∧ w.toNat % 2 ^ 16 = 1 ∧ ∃ x, ctxOf s 1 = some x ∧ x.st = .live ∧ x.q = τ.cx.q) ∧
    ∃ w, laneOf (same 0x1FFFF) 0 = some w ∧ w.toNat % 2 ^ 16 = 0xFFFF :=
  ⟨each (by decide +kernel), by decide +kernel, by decide +kernel, by decide, ⟨0x20003, rfl, by decide, by decide⟩,
   ⟨1, by decide +kernel, by decide, { crewCtx with w := 16 }, by decide +kernel, rfl, rfl⟩, 0x1FFFF, by decide +kernel, by decide⟩

/-- A launch and its tile's registers. -/
theorem witness_ImmediateResults_launch_registers : Runs (on (worker [])) (worker []) ∧
    sget (on (worker [])).sch.launches (worker []).cx.q = some crewLaunch ∧ ∀ v, Lands (on (worker [])) (worker []) (.temp 0) v :=
  ⟨rfl, rfl, fun v => lands_temp _ _ v 0⟩

/-- The first source that the block has not, in a plain form and in one with a mode, and a latch target behind. -/
theorem witness_SourcesAndTargetsAreCheckedInOrder :
    let τ := worker [same 1]
    let p := ([Src.e 0, .e 1], Instr.add (.e 0) (.e 1) .discard)
    Runs (on τ) τ ∧ p ∈ Claims.laneForms (.e 0) (.e 1) 0 .f32 .rne false .discard ∧ (∃ x ∈ p.1, ∃ k, x = .e k ∧ τ.nin ≤ k) ∧
    ([Src.e 0, .e 1], Instr.shuf (.e 0) (.e 1) .rot .discard) ∈
      Claims.formedLane (.e 0) (.e 1) 0 .f32 .rne false .discard .eq .eq .add .rot .raw .i8 ∧
    (∀ x ∈ [Src.e 0, .zero], ∀ k, x = .e k → k < τ.nin) ∧ targetOk (on τ) τ (.latA 0) = false :=
  ⟨rfl, List.mem_append_left _ (List.mem_append_left _ (List.mem_cons_self ..)), ⟨.e 1, by simp, 1, rfl, by decide⟩, by simp [Claims.formedLane],
   fun x hx k hk => by
     simp only [List.mem_cons, List.not_mem_nil, or_false] at hx
     rcases hx with rfl | rfl <;> cases hk
     decide,
   by decide +kernel⟩

theorem witness_LaneInstructionFrame : ∃ (i : Instr) (s u : State) (τ : Task) (t : Target) (v : Lanes) (n : Nat) (g : Astat), Runs s τ ∧
    (∃ τ', put s (τ.raise g) t v = .ok τ' ∧ exec i s = .next (s.setTask (τ'.advance n))) ∧ exec i s = .next u :=
  ⟨.abs (.e 0) .discard, on (worker [same 1]), _, worker [same 1], .discard, noLanes, 1, 0, rfl, ⟨_, rfl, rfl⟩, rfl⟩

theorem witness_LaneInstructionFrame_pair : ∃ (i : Instr) (s u : State) (τ : Task) (x y : Target) (a b : Lanes) (g : Astat), Runs s τ ∧
    (∃ τ1 τ2, put s (τ.raise g) x a = .ok τ1 ∧ put s τ1 y b = .ok τ2 ∧ exec i s = .next (s.setTask (τ2.advance 1))) ∧ exec i s = .next u :=
  ⟨.fminP (.temp 0) (.temp 7), on (latched (worker []) (same 1) (same 2)), _, latched (worker []) (same 1) (same 2), .temp 0, .temp 7,
    _, _, 0, rfl, ⟨_, _, rfl, rfl, rfl⟩, rfl⟩

theorem witness_EnteredOperationFrame : ∃ (i : Instr) (s u : State) (τ : Task) (o : Op), Runs s τ ∧ Enters i s τ o ∧ exec i s = .next u :=
  ⟨.commit (.e 0) true (.port 0), on (worker [same 1]), _, worker [same 1], _, rfl, rfl, rfl⟩

/-- A FREE context; contexts 1 (wider), 2 (narrower) and 3 (ENDING), offsets at the last that fits and the first that does not. -/
theorem witness_RecolouringMovesLanes :
    (let τ := latched (worker []) (same 1) (same 4)
     laneOf (latchB τ) 0 = some 4 ∧ predOk τ 0 = true ∧ (laneOf (latchA τ) 0).isSome ∧ ctxOf (on τ) 4 = none) ∧
    (∀ d ∈ [(1 : Word), 2, 3], let τ := latched (worker []) (same 1) (same d)
      Runs (on τ) τ ∧ (portAt (on τ) 0).elim false (fun p => p.top == 0) = true ∧ laneOf (latchB τ) 0 = some d ∧
        predOk τ 0 = true ∧ (laneOf (latchA τ) 0).isSome ∧ (ctxOf (on τ) (d.toNat % 2 ^ 16)).isSome) ∧
    (let τ := worker []
     (ctxOf (on τ) 1 = some { crewCtx with w := 16 } ∧ ctxOf (on τ) 2 = some { crewCtx with w := 4 } ∧
       ctxOf (on τ) 3 = some { crewCtx with st := .ending }) ∧
     (16 : Nat) < 9 + τ.w ∧ τ.w < 0 + (16 : Nat) ∧ 8 + τ.w ≤ (16 : Nat) ∧ 4 + (4 : Nat) ≤ τ.w ∧ τ.w ≤ 32) := by
  refine ⟨by decide +kernel, ?_, by decide +kernel⟩
  intro d hd
  refine ⟨rfl, ?_⟩
  simp only [List.mem_cons, List.not_mem_nil, or_false] at hd
  rcases hd with rfl | rfl | rfl <;> decide +kernel

/-- Both paths taken and one not, and a port that receives no lane. -/
theorem witness_SteercCancelsUntakenPaths :
    (∀ b ∈ [(0 : Word), 1], let τ := latched (worker []) (same 1) (same b)
      Runs (on τ) τ ∧ targetOk (on τ) τ (.port 0) = true ∧ targetOk (on τ) τ (.temp 0) = true ∧
      ∃ τ' τ'', putOrCancel (on τ) τ (.port 0)
          (mkLanes (fun l => if (laneOf (latchB τ) l).elim false (· ≠ 0) ∧ predOk τ l then laneOf (latchA τ) l else none)) (laneOf (latchA τ) 0) = .ok τ' ∧
        putOrCancel (on τ) τ' (.temp 0)
          (mkLanes (fun l => if (laneOf (latchB τ) l).elim false (· = 0) ∧ predOk τ l then laneOf (latchA τ) l else none)) (laneOf (latchA τ) 0) = .ok τ'') ∧
    anyLane (same 1) = true ∧ anyLane noLanes = false ∧ (portAt (on (worker [])) 0).isSome ∧
    tagOp (on (worker [])) 0 0 0 none 0 none = .ok (0, 0) := by
  refine ⟨?_, by decide +kernel⟩
  intro b hb
  simp only [List.mem_cons, List.not_mem_nil, or_false] at hb
  rcases hb with rfl | rfl <;> exact ⟨rfl, by decide +kernel, by decide +kernel, _, _, rfl, rfl⟩

/-- A POL and a lane value at the last port and beyond it; no lane; a predicate that fires nowhere. -/
theorem witness_RoutedEmissions :
    let τ := worker [same 1, same 2]
    let h (k : Nat) : Task := { τ with hdr := { τ.hdr with pol := k } }
    Runs (on τ) τ ∧ (portAt (on τ) 0).isSome ∧ Claims.SomeLane τ [readSrc τ false (.e 0)] ∧ laneOf (readSrc τ true (.e 1)) 0 = some 2 ∧
    anyLane (lanes1 (idleTask [same 1]) (same 1) (fun _ x => x)) = false ∧ anyLane (lanes1 τ (readSrc τ false (.e 0)) (fun _ x => x)) = true ∧
    (1 < (h 2).hdr.pol ∧ (h 2).hdr.pol ≤ 2 ∧ 0 + (h 2).hdr.pol < 128) ∧ targetOk (on τ) τ (.port 2) = true ∧
    tagOp (on τ) 0 0 0 none 2 (some 1) = .ok (0, 0) ∧ ((1 : Nat) < (2 : Word).toNat % 16 ∧ (2 : Word).toNat % 16 ≤ 2) ∧
    (∀ l, l < 32 → predOk (idleTask []) l = false) ∧ (∃ l, l < 32 ∧ predOk τ l = true) ∧ Src.e 0 ≠ .zero :=
  ⟨rfl, by decide +kernel, some_lane _ _ (by decide +kernel), by decide +kernel, by decide +kernel, by decide +kernel, by decide, by decide +kernel,
   rfl, by decide, by decide +kernel, ⟨0, by decide, by decide +kernel⟩, by decide⟩

theorem witness_CommitAndSendPorts : SrcsOk (worker [same 1, same 2]) [.e 0, .e 1] ∧ SrcsOk (worker [same 1, same 2]) [.e 0] :=
  ⟨sources_in _ (by decide), source_in _ (by decide)⟩

/-! Memory. -/

/-- Lane values at the bottom and, with a base register at the top, at the last word and just beyond the 56-bit space. -/
def topTask (xs : List Lanes) : Task := { worker xs with cx := { crewCtx with bases := List.replicate 8 (BitVec.ofNat 56 (2 ^ 56 - 32)) } }

theorem vaOk_each {τ : Task} {base sc n al : Nat} {xs : List (Nat × Word)}
    (h : xs.all (fun p => decide (0 ≤ Claims.addr τ base sc p.2 ∧ Claims.addr τ base sc p.2 + (n : Int) ≤ 2 ^ 56 ∧
      Claims.addr τ base sc p.2 % (al : Int) = 0)) = true) : ∀ p ∈ xs, Claims.VaOk (Claims.addr τ base sc p.2) n al :=
  by unfold Claims.VaOk; exact each h

/-- Words at the bottom and at the top, a row that ends at the top, chain lengths 1 and 1,024. -/
theorem witness_LoadsIssueAsTheyExecute :
    (∀ τ ∈ [worker [same 0, same 0x10004], topTask [same 28, same 0x4000000]],
      Runs (on τ) τ ∧ SrcsOk τ [.e 0, .e 1] ∧ SrcsOk τ [.e 0] ∧ (portAt (on τ) 0).isSome ∧ execLanes τ (readSrc τ false (.e 0)) ≠ [] ∧
      ∀ p ∈ execLanes τ (readSrc τ false (.e 0)), Claims.VaOk (Claims.addr τ 0 0 p.2) 4 4) ∧
    (let τ := topTask [same 0]
     laneOf (readSrc τ false (.e 0)) 0 = some 0 ∧ Claims.SomeLane τ [readSrc τ false (.e 0)] ∧ 0 < τ.w ∧
       ∀ l ∈ List.range τ.w, Claims.VaOk (Claims.addr τ 0 0 0 + 4 * (l : Int)) 4 4) ∧
    ∀ c ∈ [(0x10004 : Word), 0x4000000], 1 ≤ c.toNat / 2 ^ 16 ∧ c.toNat / 2 ^ 16 ≤ 1024 := by
  refine ⟨?_, ⟨by decide +kernel, some_lane _ _ (by decide +kernel), by decide, by unfold Claims.VaOk; exact each (by decide +kernel)⟩,
    each (by decide)⟩
  intro τ h
  simp only [List.mem_cons, List.not_mem_nil, or_false] at h
  rcases h with rfl | rfl <;>
    exact ⟨rfl, sources_in _ (by decide), source_in _ (by decide), by decide +kernel, by decide +kernel, vaOk_each (by decide +kernel)⟩

/-- A prefetched row whose first word lies inside the space. -/
theorem witness_LoadsIssueAsTheyExecute_prefetched_row :
    let τ := topTask [same 28]
    Runs (on τ) τ ∧ SrcsOk τ [.e 0] ∧ laneOf (readSrc τ false (.e 0)) 0 = some 28 ∧ Claims.SomeLane τ [readSrc τ false (.e 0)] ∧
      ∃ l, l < τ.w ∧ Claims.VaOk (Claims.addr τ 0 0 28 + 4 * ((l : Nat) : Int)) 4 4 :=
  ⟨rfl, source_in _ (by decide), by decide +kernel, some_lane _ _ (by decide +kernel), 0, by decide, by unfold Claims.VaOk; decide +kernel⟩

/-- Stores to a port and without one; region lengths 0, 1, 2^24 and 2^24 + 1. -/
theorem witness_StoresAndFlushesEnterTheCommitBuffer :
    (let τ := worker [same 4, same 7]
     Runs (on τ) τ ∧ SrcsOk τ [.e 0, .e 1] ∧ Claims.PortOrNone (on τ) .discard none ∧ Claims.PortOrNone (on τ) (.port 0) (some 0) ∧
       laneOf (readSrc τ false (.e 0)) 0 = some 4 ∧ execLanes τ (readSrc τ true (.e 1)) ≠ [] ∧
       (∀ x ∈ execLanes τ (readSrc τ true (.e 1)), Claims.VaOk (Claims.addr τ 0 0 4 + 4 * (x.1 : Int)) 4 4) ∧
       ((execLanes τ (readSrc τ false (.e 0))).filterMap (fun p => (laneOf (readSrc τ true (.e 1)) p.1).map (fun v => (p.1, p.2, v)))) ≠ [] ∧
       ∀ x ∈ (execLanes τ (readSrc τ false (.e 0))).filterMap (fun p => (laneOf (readSrc τ true (.e 1)) p.1).map (fun v => (p.1, p.2, v))),
         Claims.VaOk (Claims.addr τ 0 0 x.2.1) 4 4) ∧
    ∀ n ∈ [(0 : Word), 1, 2 ^ 24, 2 ^ 24 + 1], let τ := worker [same 4, same n]
      let xs : List (Nat × Word × Nat) := (execLanes τ (readSrc τ false (.e 0))).filterMap (fun p =>
        (laneOf (readSrc τ true (.e 1)) p.1).map (fun v => (p.1, p.2, v.toNat)))
      xs ≠ [] ∧ if n = 0 ∨ n = 2 ^ 24 + 1 then ∃ x ∈ xs, x.2.2 = 0 ∨ 2 ^ 24 < x.2.2 else ∀ x ∈ xs, 1 ≤ x.2.2 ∧ x.2.2 ≤ 2 ^ 24 := by
  refine ⟨⟨rfl, sources_in _ (by decide), .inl ⟨rfl, rfl⟩, .inr ⟨0, rfl, by decide +kernel, rfl⟩, by decide +kernel, by decide +kernel,
    by unfold Claims.VaOk; exact each (by decide +kernel), by decide +kernel, by unfold Claims.VaOk; exact each (by decide +kernel)⟩, ?_⟩
  intro n hn
  simp only [List.mem_cons, List.not_mem_nil, or_false] at hn
  rcases hn with rfl | rfl | rfl | rfl <;> decide +kernel

/-- Eight lanes; pairs of lanes for the 8-byte forms at an even width, at an odd one and in more than one pair. -/
theorem witness_AtomicsEnterTheCommitBuffer :
    (let τ := { worker [same 4, same 7] with temps := List.replicate 8 (same 9) }
     Runs (on τ) τ ∧ SrcsOk τ [.e 0, .e 1] ∧ Claims.PortOrNone (on τ) .discard none ∧
       (execLanes τ (readSrc τ false (.e 0))).filterMap (fun p => (laneOf (readSrc τ true (.e 1)) p.1).map (fun v => (p.1, p.2, v))) ≠ [] ∧
       (∀ p ∈ execLanes τ (readSrc τ false (.e 0)), Claims.VaOk (Claims.addr τ 0 0 p.2) 4 4) ∧ laneOf (τ.temps.getD 7 noLanes) 0 = some 9) ∧
    (∀ w ∈ [2, 3, 8], let τ := { worker [lanes [8, 1, 16, 1, 2 ^ 31 - 8, 1, 0, 1], same 7] with w := w, temps := List.replicate 8 (same 9) }
      Runs (on τ) τ ∧ SrcsOk τ [.e 0, .e 1]) ∧
    let pairs := fun (x : Lanes) (l : Nat) => match laneOf x l, laneOf x (l + 1) with
      | some p, some q => some (p.toNat + q.toNat * 2 ^ 32)
      | _, _ => none
    ∀ x ∈ [(2, [(0, (8 : Word))]), (3, [(0, 8)]), (8, [(0, 8), (2, 16), (4, 2 ^ 31 - 8), (6, 0)])],
      let τ := { worker [lanes [8, 1, 16, 1, 2 ^ 31 - 8, 1, 0, 1], same 7] with w := x.1, temps := List.replicate 8 (same 9) }
      ((List.range 16).map (2 * ·)).filterMap (fun l =>
        if l + 1 < τ.w ∧ predOk τ l = true ∧ predOk τ (l + 1) = true then
          match laneOf (readSrc τ false (.e 0)) l, pairs (readSrc τ true (.e 1)) l with
          | some v, some y => some (l, v, y)
          | _, _ => none
        else none) = x.2.map (fun p => (p.1, p.2, 7 + 7 * 2 ^ 32)) ∧
      (∀ p ∈ x.2, Claims.VaOk (Claims.addr τ 0 0 p.2) 8 8 ∧ pairs (τ.temps.getD 7 noLanes) p.1 = some (9 + 9 * 2 ^ 32)) ∧
      AmoOp.add ≠ .swapd ∧ AmoOp.add ≠ .addd := by
  refine ⟨⟨rfl, sources_in _ (by decide), .inl ⟨rfl, rfl⟩, by decide +kernel, vaOk_each (by decide +kernel), by decide +kernel⟩,
    fun w _ => ⟨rfl, sources_in _ (Nat.le_refl 2)⟩, ?_⟩
  intro pairs x hx
  simp only [List.mem_cons, List.not_mem_nil, or_false] at hx
  rcases hx with rfl | rfl | rfl <;>
    exact ⟨by decide +kernel, by unfold Claims.VaOk; exact each (by decide +kernel), by decide, by decide⟩

/-- The second lane lies below the space, above it, or is misaligned. -/
theorem witness_LaneAddressFaults :
    (∀ a ∈ [(0xFFFFFFFC : Word), 2], let τ := worker [lanes [4, a], same 1]
      Runs (on τ) τ ∧ SrcsOk τ [.e 0, .e 1] ∧ execLanes τ (readSrc τ false (.e 0)) = [(0, 4)] ++ (1, a) :: [] ∧
        (∀ p ∈ [(0, (4 : Word))], Claims.VaOk (Claims.addr τ 0 0 p.2) 4 4) ∧
        (∀ p ∈ [(0, (4 : Word))] ++ (1, a) :: [], (laneOf (readSrc τ true (.e 1)) p.1).isSome)) ∧
    Claims.addr (worker []) 0 0 0xFFFFFFFC < 0 ∧ (2 : Int) ^ 56 ≤ Claims.addr (topTask []) 0 0 32 ∧
    0 ≤ Claims.addr (worker []) 0 0 2 ∧ Claims.addr (worker []) 0 0 2 + (4 : Nat) ≤ 2 ^ 56 ∧ Claims.addr (worker []) 0 0 2 % (4 : Nat) ≠ 0 := by
  refine ⟨?_, by decide +kernel⟩
  intro a ha
  simp only [List.mem_cons, List.not_mem_nil, or_false] at ha
  rcases ha with rfl | rfl <;>
    exact ⟨rfl, sources_in _ (by decide), by decide +kernel, vaOk_each (by decide +kernel), each (by decide +kernel)⟩

/-- The same of a row, of a chase, and of the pairs of lanes of the 8-byte forms. -/
theorem witness_LaneAddressFaults_forms :
    (∀ a ∈ [(0xFFFFFFFC : Word), 2], let τ := { worker [lanes [4, a], same 0x10001] with temps := List.replicate 8 (same 9) }
      Claims.PortOrNone (on τ) .discard none ∧ (portAt (on τ) 0).isSome ∧ loadWaits (on τ) = false ∧
      (execLanes τ (readSrc τ false (.e 0))).filterMap (fun p => (laneOf (readSrc τ true (.e 1)) p.1).map (fun v => (p.1, p.2, v))) =
        [(0, 4, 0x10001)] ++ (1, a, 0x10001) :: [] ∧
      (execLanes τ (readSrc τ false (.e 0))).filter (fun p => (laneOf (readSrc τ true (.e 1)) p.1).isSome && (laneOf (τ.temps.getD 7 noLanes) p.1).isSome) =
        [(0, 4)] ++ (1, a) :: [] ∧ laneOf (readSrc τ true (.e 1)) 0 = some 0x10001 ∧ 1 ≤ (0x10001 : Word).toNat / 2 ^ 16) ∧
    (let τ := topTask [same 28, same 7]
     SrcsOk τ [.e 0, .e 1] ∧ laneOf (readSrc τ false (.e 0)) 0 = some 28 ∧ Claims.SomeLane τ [readSrc τ false (.e 0)] ∧ 1 < τ.w ∧
       execLanes τ (readSrc τ true (.e 1)) = [(0, 7)] ++ (1, 7) :: (execLanes τ (readSrc τ true (.e 1))).drop 2 ∧
       (∀ j : Nat, j < 1 → Claims.VaOk (Claims.addr τ 0 0 28 + 4 * (j : Int)) 4 4) ∧ (2 : Int) ^ 56 ≤ Claims.addr τ 0 0 28 + 4 * (1 : Int)) ∧
    let τ := { worker [lanes [8, 1, 12, 1], same 7] with w := 4, temps := List.replicate 8 (same 9) }
    let pair := fun (x : Lanes) (l : Nat) => (laneOf x l).isSome && (laneOf x (l + 1)).isSome
    let even := ((List.range 16).map (2 * ·)).filterMap (fun l =>
      if l + 1 < τ.w ∧ predOk τ l = true ∧ predOk τ (l + 1) = true then (laneOf (readSrc τ false (.e 0)) l).map (fun v => (l, v)) else none)
    (even.filter (fun p => pair (readSrc τ true (.e 1)) p.1)) = [(0, 8)] ++ (2, 12) :: [] ∧
    (even.filter (fun p => pair (readSrc τ true (.e 1)) p.1 && pair (τ.temps.getD 7 noLanes) p.1)) = [(0, 8)] ++ (2, 12) :: [] ∧
    (∀ p ∈ [(0, (8 : Word))], Claims.VaOk (Claims.addr τ 0 0 p.2) 8 8) ∧ Claims.addr τ 0 0 12 % 8 ≠ 0 := by
  refine ⟨?_, ⟨sources_in _ (by decide), by decide +kernel, some_lane _ _ (by decide +kernel), by decide, by decide +kernel, ?_, by decide +kernel⟩,
    by decide +kernel, by decide +kernel, by unfold Claims.VaOk; exact each (by decide +kernel), by decide +kernel⟩
  · intro a ha
    simp only [List.mem_cons, List.not_mem_nil, or_false] at ha
    rcases ha with rfl | rfl <;>
      exact ⟨.inl ⟨rfl, rfl⟩, by decide +kernel, by decide +kernel, by decide +kernel, by decide +kernel, by decide +kernel, by decide⟩
  · intro j hj
    obtain rfl : j = 0 := by omega
    unfold Claims.VaOk
    decide +kernel

/-! Synchronisation, pens and troughs. -/

/-- Hitch addresses that are and are not multiples of 64, a bound region of one unit and of 32, an empty latch, barrier keys in and out of
their range and with a subgroup and without. -/
theorem witness_SynchronisationOperationsEnter :
    (∀ v ∈ [(64 : Word), 65], let τ := worker [same v, same 0]
      Runs (on τ) τ ∧ SrcsOk τ [.e 0, .e 1] ∧ SrcsOk τ [.e 0] ∧ Claims.PortOrNone (on τ) (.port 0) (some 0) ∧ (portAt (on τ) 0).isSome ∧
        laneOf (readSrc τ false (.e 0)) 0 = some v ∧ Claims.SomeLane τ [readSrc τ false (.e 0)] ∧
        Claims.SomeLane τ [readSrc τ false (.e 0), readSrc τ true (.e 1)]) ∧
    Claims.VaOk (Claims.addr (worker []) 0 0 64) 64 64 ∧ Claims.addr (worker []) 0 0 65 % 64 ≠ 0 ∧ HKind.s ≠ .p ∧ HKind.s ≠ .x ∧
    (∀ m ∈ [(0 : Word), 31], let τ := worker [same 64, lanes [128, m]]
      laneOf (readSrc τ true (.e 1)) 0 = some 128 ∧ laneOf (readSrc τ true (.e 1)) 1 = some m ∧ m.toNat < 32 ∧
        Claims.VaOk (Claims.addr τ 0 0 128) ((m.toNat + 1) * 128) 1 ∧ Claims.SomeLane τ [readSrc τ false (.e 0), readSrc τ true (.e 1)]) ∧
    anyLane (lanes1 (latched (worker []) (same 1) noLanes) (readSrc (latched (worker []) (same 1) noLanes) false .latch) (fun _ w => w)) = true ∧
    anyLane (lanes1 (worker []) (readSrc (worker []) false .latch) (fun _ w => w)) = false ∧
    (∀ τ : Task, τ = worker [] → ownGroup (on τ) τ 0 = some [0] ∧ ownGroup (on τ) τ 0x8000 = none) ∧
    (0xFFFFFF : Word).toNat < 2 ^ 24 ∧ 2 ^ 24 ≤ (0x1000000 : Word).toNat := by
  refine ⟨?_, by unfold Claims.VaOk; decide +kernel, by decide +kernel, by decide, by decide, ?_, by decide +kernel, by decide +kernel, ?_, by decide, by decide⟩
  · intro v hv
    simp only [List.mem_cons, List.not_mem_nil, or_false] at hv
    rcases hv with rfl | rfl <;>
      exact ⟨rfl, sources_in _ (by decide), source_in _ (by decide), .inr ⟨0, rfl, by decide +kernel, rfl⟩, by decide +kernel, by decide +kernel,
        some_lane _ _ (by decide +kernel), some_lane _ _ (by decide +kernel)⟩
  · intro m hm
    simp only [List.mem_cons, List.not_mem_nil, or_false] at hm
    rcases hm with rfl | rfl <;>
      exact ⟨by decide +kernel, by decide +kernel, by decide, by unfold Claims.VaOk; decide +kernel, some_lane _ _ (by decide +kernel)⟩
  · intro τ hτ
    subst hτ
    decide +kernel

/-- A hitch address of HBIND, HUNB and BAR.h that is no multiple of 64, beside a region and a key that pass. -/
theorem witness_SynchronisationOperationsEnter_misaligned :
    (let τ := worker [same 65, lanes [128, 0]]
     Claims.addr τ 0 0 65 % 64 ≠ 0 ∧ laneOf (readSrc τ false (.e 0)) 0 = some 65 ∧ laneOf (readSrc τ true (.e 1)) 0 = some 128 ∧
       laneOf (readSrc τ true (.e 1)) 1 = some 0 ∧ Claims.SomeLane τ [readSrc τ false (.e 0), readSrc τ true (.e 1)]) ∧
    let τ := worker [same 0, same 65]
    SrcsOk τ [.e 0, .e 1] ∧ (portAt (on τ) 0).isSome ∧ laneOf (readSrc τ false (.e 0)) 0 = some 0 ∧ (ownGroup (on τ) τ 0).isSome ∧
      Claims.SomeLane τ [readSrc τ false (.e 0), readSrc τ true (.e 1)] ∧ laneOf (readSrc τ true (.e 1)) 0 = some 65 :=
  ⟨⟨by decide +kernel, by decide +kernel, by decide +kernel, by decide +kernel, some_lane _ _ (by decide +kernel)⟩,
   sources_in _ (by decide), by decide +kernel, by decide +kernel, by decide +kernel, some_lane _ _ (by decide +kernel), by decide +kernel⟩

/-- PADDRs, one for each check of R18 that fails, and one that passes them all. -/
def badPaddrs : List (Word × Nat × Nat) := [
  (2 ^ 22 + 2, causeAlign, 0), (9 * 2 ^ 22, causeAccess, 0x0D), (2 ^ 22 + 0x8000, causeAccess, 0x0E), (7 * 2 ^ 22, causeAccess, 0x0F),
  (2 * 2 ^ 22, causeOwnViol, 0)]

theorem reaches {s : State} {τ : Task} {n : Nat} {off : Int} {len : Nat} (p : Pen)
    (h : decide (sget s.tab.pens (s.occ.a * 1024 + n) = some p ∧ p.size ≠ 0 ∧ 0 ≤ off ∧ off + (len : Int) ≤ (p.size * 4096 : Nat) ∧
      p.asid = τ.cx.asid) = true) : Claims.Reaches s τ n off len p := by unfold Claims.Reaches; exact of_decide_eq_true h

/-- A first lane in order, then one that fails; and each check of R18 at the pen where it fails. -/
theorem witness_PenAccessesAreCheckedInOrder :
    (∀ x ∈ badPaddrs, let τ := worker [lanes [2 ^ 22 + 0x7FFC, x.1]]
      Runs (on τ) τ ∧ SrcsOk τ [.e 0] ∧ targetOk (on τ) τ (.temp 0) = true ∧
        execLanes τ (readSrc τ false (.e 0)) = [(0, 2 ^ 22 + 0x7FFC)] ++ (1, x.1) :: [] ∧
        Claims.PenFault (on τ) τ (x.1.toNat / 2 ^ 22) (Claims.wordOff x.1 0) 4 4 x.2.1 x.2.2) ∧
    (let τ := latched (worker [same 1]) (lanes [2 ^ 22 + 2]) noLanes
     (execLanes τ (latchA τ)).filter (fun x => (laneOf (readSrc τ false (.e 0)) x.1).isSome) = [] ++ (0, 2 ^ 22 + 2) :: []) ∧
    (let τ := worker []
     Claims.PenOk (on τ) τ 1 (Claims.wordOff (2 ^ 22 + 0x7FFC) 0) 4 4 ∧ Claims.PenFault (on τ) τ 2 0 0 1 causeOwnViol 0) ∧
    (let τ := { worker [same (2 ^ 22)] with gives := [(1, 5, false)] }
     Claims.PenFault (on τ) τ 1 0 0 1 causeOwnViol 0 ∧ Claims.SomeLane τ [readSrc τ false (.e 0)] ∧ laneOf (readSrc τ false (.e 0)) 0 = some (2 ^ 22)) := by
  refine ⟨?_, by decide +kernel, ⟨⟨by decide +kernel, plainPen, reaches _ (by decide +kernel), rfl, by intro g hg; cases hg⟩, ?_⟩, ?_, ?_, by decide +kernel⟩
  · intro x hx
    simp only [badPaddrs, List.mem_cons, List.not_mem_nil, or_false] at hx
    rcases hx with rfl | rfl | rfl | rfl | rfl
    · exact ⟨rfl, source_in _ (by decide), rfl, by decide +kernel, .inl (by decide +kernel)⟩
    · refine ⟨rfl, source_in _ (by decide), rfl, by decide +kernel, .inr ⟨by decide +kernel, .inl ⟨?_, rfl, rfl⟩⟩⟩
      intro p hp
      rw [show sget _ _ = none by decide +kernel] at hp
      cases hp
    · exact ⟨rfl, source_in _ (by decide), rfl, by decide +kernel, .inr ⟨by decide +kernel, .inr ⟨plainPen, by decide +kernel, by decide, .inl (by decide +kernel)⟩⟩⟩
    · exact ⟨rfl, source_in _ (by decide), rfl, by decide +kernel,
        .inr ⟨by decide +kernel, .inr ⟨{ plainPen with asid := 7 }, by decide +kernel, by decide, .inr ⟨by decide +kernel, .inl (by decide +kernel)⟩⟩⟩⟩
    · exact ⟨rfl, source_in _ (by decide), rfl, by decide +kernel, .inr ⟨by decide +kernel, .inr ⟨{ plainPen with own := true, eng := 5 },
        by decide +kernel, by decide, .inr ⟨by decide +kernel, .inr ⟨rfl, .inl rfl, rfl, rfl⟩⟩⟩⟩⟩
  · exact .inr ⟨by decide, .inr ⟨{ plainPen with own := true, eng := 5 }, by decide +kernel, by decide, .inr ⟨by decide, .inr ⟨rfl, .inl rfl, rfl, rfl⟩⟩⟩⟩
  · exact .inr ⟨by decide, .inr ⟨plainPen, by decide +kernel, by decide, .inr ⟨by decide, .inr ⟨rfl, .inr ⟨(1, 5, false), by decide, rfl⟩, rfl, rfl⟩⟩⟩⟩
  · exact some_lane _ _ (by decide +kernel)

theorem witness_ScratchpadLoadsAndStores :
    (let τ := latched (worker [lanes [2 ^ 22 + 8]]) (lanes [2 ^ 22 + 8]) noLanes
     Runs (on τ) τ ∧ SrcsOk τ [.e 0] ∧ targetOk (on τ) τ (.temp 0) = true ∧ (2047 : Nat) < 2048 ∧
       (∀ x ∈ execLanes τ (readSrc τ false (.e 0)), Claims.PenOk (on τ) τ (x.2.toNat / 2 ^ 22) (Claims.wordOff x.2 2047) 4 4) ∧
       (execLanes τ (latchA τ)).filter (fun x => (laneOf (readSrc τ false (.e 0)) x.1).isSome) = [(0, 2 ^ 22 + 8)] ∧
       (∀ o ∈ (on τ).ops, o.tile = 0 → ∀ x, o.kind ≠ .stp x)) ∧
    let s := { on (worker []) with mem := { base.mem with sramBad := [(Claims.wordAt (on (worker [])) plainPen (2 ^ 22 + 8) 0 / 8, ())] } }
    (sget (drainStp s 0).mem.sramBad (Claims.wordAt s plainPen (2 ^ 22 + 8) 0 / 8)).isSome := by
  refine ⟨⟨rfl, source_in _ (by decide), rfl, by decide, ?_, by decide +kernel, by intro o ho; cases ho⟩, by decide +kernel⟩
  rw [show execLanes _ _ = [(0, (2 ^ 22 + 8 : Word))] by decide +kernel]
  intro x hx
  simp only [List.mem_cons, List.not_mem_nil, or_false] at hx
  subst hx
  exact ⟨by decide +kernel, plainPen, reaches _ (by decide +kernel), rfl, by intro g hg; cases hg⟩

/-- The reserved slot 2 of trough 0 is posted and the taken slot 0 freed, once and a second time; the last trough number is 63. -/
theorem witness_PenHandOverAndTroughState :
    (let τ := worker [same (2 ^ 22)]
     Runs (on τ) τ ∧ SrcsOk τ [.e 0] ∧ Claims.SomeLane τ [readSrc τ false (.e 0)] ∧ laneOf (readSrc τ false (.e 0)) 0 = some (2 ^ 22) ∧
       Claims.PenOk (on τ) τ 1 0 0 1) ∧
    (∀ x ∈ [((5 : Nat), false), (3, true)], ∀ m ∈ [[], [x]], let τ := { worker [same (BitVec.ofNat 32 (x.1 * 2 ^ 22))] with moves := m }
      Runs (on τ) τ ∧ laneOf (readSrc τ false (.e 0)) 0 = some (BitVec.ofNat 32 (x.1 * 2 ^ 22)) ∧
        (sget (on τ).tab.pens x.1).elim false (fun p => p.size != 0 && p.tm && p.trg == 0) = true) ∧
    (let τ := worker []
     Claims.TroughIs (on τ) 0 trough0 ∧ trough0.pen0 ≤ 3 ∧ (6 : Nat) < trough0.pen0 + trough0.nslot ∧
     (trough0.ckind = 0 ∧ (0 + trough0.nslot - trough0.nxf) % trough0.nslot < trough0.taken ∧ 0 ∉ trough0.freed) ∧
     (trough0.pkind = 0 ∧ (2 + trough0.nslot - trough0.nxp) % trough0.nslot < trough0.rsvd ∧ 2 ∉ trough0.posted) ∧
     targetOk (on τ) τ (.temp 0) = true) ∧ (63 : Word).toNat < 64 := by
  refine ⟨⟨rfl, source_in _ (by decide), some_lane _ _ (by decide +kernel), by decide +kernel, by decide, plainPen, reaches _ (by decide +kernel), rfl,
    by intro g hg; cases hg⟩, ?_, ⟨⟨by decide +kernel, by decide +kernel⟩, by decide, by decide, by decide, by decide, rfl⟩, by decide⟩
  intro x hx m hm
  simp only [List.mem_cons, List.not_mem_nil, or_false] at hx hm
  rcases hx with rfl | rfl <;> rcases hm with rfl | rfl <;> exact ⟨rfl, by decide +kernel, by decide +kernel⟩

/-- Pens of size 0, without TM, of a trough beyond the plan, outside their trough's, of an engine's trough; a filled slot, which is not ready for
either; and a misaligned offset at a reserved slot. -/
theorem witness_PenHandOverAndTroughState_refusals :
    let slotPen (t : Nat) : Pen := { plainPen with tm := true, trg := t, size := 1 }
    let s := { on (worker []) with tab := { stocked.tab with
      pens := [(1, plainPen), (2, { slotPen 0 with size := 0 }), (4, slotPen 0), (5, slotPen 1), (7, slotPen 0), (9, slotPen 3)] } }
    (∀ n ∈ [0, 1, 2], (sget s.tab.pens (s.occ.a * 1024 + n)).elim true (fun e => e.size == 0 || !e.tm) = true) ∧
    (∀ x ∈ [(4, 0), (5, 1), (7, 0), (9, 3)], sget s.tab.pens (s.occ.a * 1024 + x.1) = some (slotPen x.2)) ∧
    (¬ ∃ r, Claims.TroughIs s 3 r) ∧ Claims.TroughIs s 0 trough0 ∧ trough0.pen0 + trough0.nslot ≤ 7 ∧
    (let q := { trough0 with pkind := 1, ckind := 1 }
     Claims.TroughIs s 1 q ∧ q.pen0 ≤ 5 ∧ (5 : Nat) < q.pen0 + q.nslot ∧ q.ckind ≠ 0 ∧ q.pkind ≠ 0) ∧
    (trough0.ckind = 0 ∧ trough0.pkind = 0 ∧ ¬ (1 + trough0.nslot - trough0.nxf) % trough0.nslot < trough0.taken ∧
      ¬ (1 + trough0.nslot - trough0.nxp) % trough0.nslot < trough0.rsvd) ∧
    Claims.PenFault (on (worker [])) (worker []) 5 (2 : Nat) 4 4 causeAlign 0 := by
  refine ⟨by decide +kernel, by decide +kernel, ?_, ⟨by decide +kernel, by decide +kernel⟩, by decide,
    ⟨⟨by decide +kernel, by decide +kernel⟩, by decide, by decide, by decide, by decide⟩, by decide, .inl (by decide)⟩
  rintro ⟨r, h, -⟩
  exact absurd h (by decide +kernel)

/-- One slot of the frame held, and `n` of them. -/
def heldSlot (pos pen : Nat) (take : Bool) : Owned := { tile := 0, rank := 0, ctx := 0, iter := 0, blk := 0, pos := pos, pen := pen, take := take, groom := false }
def holding (xs : List Owned) (τ : Task) : State := { on τ with frm := { base.frm with owned := xs } }

/-- Trough numbers 63 and 64, a trough beyond the plan, an engine's, slots held at this position, at others, eight of them, and an empty trough. -/
theorem witness_TroughSlotsMoveAtIssue :
    (∀ v ∈ [(0 : Word), 1, 2, 63, 64], let τ := worker [same v]
      Runs (on τ) τ ∧ SrcsOk τ [.e 0] ∧ targetOk (on τ) τ (.temp 0) = true ∧ (portAt (on τ) 0).isSome ∧ Claims.SomeLane τ [readSrc τ false (.e 0)] ∧
        laneOf (readSrc τ false (.e 0)) 0 = some v) ∧
    64 ≤ (64 : Word).toNat ∧ (63 : Word).toNat < 64 ∧
    let τ := worker [same 0]
    (¬ ∃ q, Claims.TroughIs (on τ) 63 q) ∧ Claims.TroughIs (on τ) 0 trough0 ∧
    Claims.TroughIs (on τ) 1 { trough0 with pkind := 1, ckind := 1 } ∧
    Claims.TroughIs (on τ) 2 { trough0 with free := 0, filled := 0, rsvd := 2, taken := 2 } ∧
    Claims.held (holding [heldSlot 0 5 false] τ) τ = [heldSlot 0 5 false] ∧ Claims.held (on τ) τ = [] ∧
    (Claims.held (holding ((List.range 8).map (fun k => heldSlot (k + 1) (k + 20) true)) τ) τ).length = 8 ∧
    (Claims.held (holding ((List.range 7).map (fun k => heldSlot (k + 1) (k + 20) true)) τ) τ).length = 7 ∧
    (sget (on τ).tab.pens (trough0.pen0 + trough0.nxr)).isSome ∧ (sget (on τ).tab.pens (trough0.pen0 + trough0.nxt)).isSome := by
  refine ⟨?_, by decide, by decide, ?_, ⟨by decide +kernel, by decide +kernel⟩, ⟨by decide +kernel, by decide +kernel⟩,
    ⟨by decide +kernel, by decide +kernel⟩, by decide +kernel, by decide +kernel, by decide +kernel, by decide +kernel, (by decide +kernel), by decide +kernel⟩
  · intro v hv
    simp only [List.mem_cons, List.not_mem_nil, or_false] at hv
    rcases hv with rfl | rfl | rfl | rfl | rfl <;>
      exact ⟨rfl, source_in _ (by decide), rfl, by decide +kernel, some_lane _ _ (by decide +kernel), by decide +kernel⟩
  · rintro ⟨q, h, -⟩
    exact absurd h (by decide +kernel)

/-! Engines. -/

/-- A task with GIVEs of pens 1 and 8 to one holder. -/
def giver (eng : Nat) (xs : List Lanes) : Task := { worker xs with gives := [(1, eng, false), (8, eng, false)] }

/-- Pen 1 at offset 0, and pen 8. -/
def pen1 : Word := 2 ^ 22
def pen8 : Word := 8 * 2 ^ 22

theorem vector8 {τ : Task} {x : Lanes} (h : (decide (8 ≤ τ.w) && (List.range 8).all (fun l => (laneOf x l).isSome)) = true) : Claims.VectorOf τ x 8 := by
  rw [Bool.and_eq_true, List.all_eq_true] at h
  exact ⟨of_decide_eq_true h.1, fun l hl => h.2 l (List.mem_range.2 hl)⟩

theorem reach1 {τ : Task} {n : Nat} (hc : τ.cx.asid = 0) (h : n ≤ 32768) :
    Claims.Reaches (on τ) τ (pen1.toNat / 2 ^ 22) (pen1.toNat % 2 ^ 22 : Nat) n plainPen := by
  rw [show pen1.toNat / 2 ^ 22 = 1 by decide, show pen1.toNat % 2 ^ 22 = 0 by decide]
  unfold Claims.Reaches
  rw [show (on τ).occ.a = 0 from rfl, show (on τ).tab.pens = stocked.tab.pens from rfl]
  exact ⟨by decide +kernel, by decide, by decide, by simp only [plainPen]; omega, hc.symm⟩

theorem reach8 {τ : Task} {n : Nat} (hc : τ.cx.asid = 0) (h : n ≤ 32768) :
    Claims.Reaches (on τ) τ (pen8.toNat / 2 ^ 22) (pen8.toNat % 2 ^ 22 : Nat) n { plainPen with base := 16 } := by
  rw [show pen8.toNat / 2 ^ 22 = 8 by decide, show pen8.toNat % 2 ^ 22 = 0 by decide]
  unfold Claims.Reaches
  rw [show (on τ).occ.a = 0 from rfl, show (on τ).tab.pens = stocked.tab.pens from rfl]
  exact ⟨by decide +kernel, by decide, by decide, by simp only [plainPen]; omega, hc.symm⟩

theorem given1 {eng n : Nat} {xs : List Lanes} (h : n ≤ 32768) : Claims.Given (on (giver eng xs)) (giver eng xs) pen1 n eng :=
  ⟨by decide, ⟨plainPen, reach1 rfl h⟩, (1, eng, false), List.mem_cons_self .., show (1 : Nat) = pen1.toNat / 2 ^ 22 by decide, rfl⟩

theorem given8 {eng n : Nat} {xs : List Lanes} (h : n ≤ 32768) : Claims.Given (on (giver eng xs)) (giver eng xs) pen8 n eng :=
  ⟨by decide, ⟨_, reach8 rfl h⟩, (8, eng, false), List.mem_cons_of_mem _ (List.mem_cons_self ..), show (8 : Nat) = pen8.toNat / 2 ^ 22 by decide, rfl⟩

/-- Parameter vectors of the Dray forms, in the order of `Claims.drays`; the lengths are the least and the greatest that pen 1 holds. -/
def drayVectors : List (List Word) := [
  [pen1, 0, 0, 4, 0, 0, 0, 0], [pen1, 0xFFFFFFFF, 0xFFFFFF, 0x8000, 0, 0, 0, 0], [pen1, 0, 0, 4, 0, 0, 0, 0], [pen1, 0, 0, 4, 0, 0, 0, 0],
  [pen1, 0xFFFFF, 0xFFF, 0x3FFFFFF, 0, 0, 0, 0], [pen1, 0, 0, 4, 0, 0, 0, 0], [pen1, 0, 0, 4, 0, 0, 0, 0], [pen1, 0, 0, 4, 0, 0, 0, 0]]

theorem dest_here (s : State) (τ : Task) (h : sget s.sch.launches τ.cx.q = some crewLaunch) : Claims.DestOk s τ 0 :=
  .inr ⟨by decide, crewLaunch, h, by decide, by decide⟩

theorem pen_for {n : Nat} {xs : List Lanes} (h : n ≤ 32768) : Claims.PenFor (on (giver 1 xs)) (giver 1 xs) pen1.toNat n 0 :=
  ⟨⟨plainPen, reach1 rfl h⟩, (1, 1, false), List.mem_cons_self .., by decide, rfl⟩

/-- Every form's vector, a vector that is not whole, a pen that was not given to the channel, and the operands of DRED, DGATH and DSCAT. -/
theorem witness_DrayCommandsEnter :
    (∀ k, k < 8 → let τ := giver 1 [lanes (drayVectors.getD k [])]
      let v := readSrc τ false (.e 0)
      Runs (on τ) τ ∧ SrcsOk τ [.e 0] ∧ (portAt (on τ) 0).isSome ∧ Claims.SomeLane τ [v] ∧ Claims.VectorOf τ v 8 ∧
        Claims.wordOf v 0 = pen1.toNat) ∧
    (let τ := giver 1 [lanes (drayVectors.getD 2 [])]
     Claims.DestOk (on τ) τ 0 ∧ Claims.InGroup (on τ) τ 0 ∧ Claims.LenOk 4 ∧ Claims.LenOk 0x8000 ∧ Claims.LenOk (2 ^ 22) ∧
       Claims.PenFor (on τ) τ pen1.toNat 0x8000 0) ∧
    (let τ := worker [lanes [pen1, 0, 0, 4]]
     Claims.SomeLane τ [readSrc τ false (.e 0)] ∧ ¬ Claims.VectorOf τ (readSrc τ false (.e 0)) 8) ∧
    (let τ := worker [lanes (drayVectors.getD 0 [])]
     ∀ g ∈ τ.gives, ¬ (g.1 = pen1.toNat / 2 ^ 22 ∧ g.2.1 = 1)) ∧
    let τ := giver 1 [lanes [pen1, 0, 0, 4, 0, 128, 0, 0], same 1]
    SrcsOk τ [.e 0, .e 1] ∧ Claims.SomeLane τ [readSrc τ false (.e 0), readSrc τ true (.e 1)] ∧ Claims.VectorOf τ (readSrc τ false (.e 0)) 8 ∧
      Claims.PenFor (on τ) τ pen1.toNat (τ.w * 4) 0 := by
  refine ⟨?_, ⟨dest_here _ _ rfl, by unfold Claims.InGroup; decide +kernel, by unfold Claims.LenOk; decide, by unfold Claims.LenOk; decide,
    by unfold Claims.LenOk; decide, pen_for (by decide)⟩, ⟨some_lane _ _ (by decide +kernel), ?_⟩, (fun g hg => by cases hg), sources_in _ (by decide),
    some_lane _ _ (by decide +kernel), vector8 (by decide +kernel), pen_for (by decide)⟩
  · intro k hk
    interval_cases k <;>
      exact ⟨rfl, source_in _ (by decide), by decide +kernel, some_lane _ _ (by decide +kernel), vector8 (by decide +kernel), by decide +kernel⟩
  · rintro ⟨-, h⟩
    exact absurd (h 7 (by decide)) (by decide +kernel)

/-- Vectors whose fields are at fault: a length of 0, and a reserved word, in every form with pens that pass. -/
theorem witness_DrayCommandsEnter_fields :
    (∀ c ∈ Claims.drays, ∀ v ∈ [[pen1, 0, 0, 4, 0, 0, 0, 1]], let τ := giver 1 [lanes v]
      let w := Claims.wordOf (readSrc τ false (.e 0))
      Claims.VectorOf τ (readSrc τ false (.e 0)) 8 ∧ w 7 ≠ 0 ∧ w 0 = pen1.toNat ∧ w 3 = 4) ∧
    (Claims.drays.all (fun c => decide (c.2.2.1 4 ≤ 32768)) = true) ∧ (∀ n ≤ 32768, Claims.PenFor (on (giver 1 [])) (giver 1 []) pen1.toNat n 0) ∧
    ¬ Claims.LenOk 0 ∧ ¬ Claims.LenOk 6 ∧ ¬ (2 ^ 24 < 2 ^ 24) :=
  ⟨fun c _ v hv => by
     simp only [List.mem_cons, List.not_mem_nil, or_false] at hv
     subst hv
     exact ⟨vector8 (by decide +kernel), by decide +kernel, by decide +kernel, by decide +kernel⟩,
   by decide +kernel, fun n h => pen_for h, by unfold Claims.LenOk; decide, by unfold Claims.LenOk; decide, by decide⟩

/-- The same of DRED, DGATH and DSCAT: a vector that is not whole, and one whose pen is not given. -/
theorem witness_DrayCommandsEnter_groups :
    (∀ b ∈ [same 1], let τ := worker [lanes [pen1, 0, 0, 4], b]
     Claims.SomeLane τ [readSrc τ false (.e 0)] ∧ Claims.SomeLane τ [readSrc τ false (.e 0), readSrc τ true (.e 1)] ∧
       ¬ Claims.VectorOf τ (readSrc τ false (.e 0)) 8) ∧
    let τ := worker [lanes [pen1, 0, 0, 4, 0, 0, 0, 0], same 1]
    let w := Claims.wordOf (readSrc τ false (.e 0))
    Claims.VectorOf τ (readSrc τ false (.e 0)) 8 ∧ w 0 = pen1.toNat ∧ w 3 = 4 ∧ (∀ k ∈ [1, 2, 4, 5, 6, 7], w k = 0) ∧ Claims.LenOk 4 ∧
      Claims.InGroup (on τ) τ 0 ∧ (∃ p, Claims.Reaches (on τ) τ (pen1.toNat / 2 ^ 22) (pen1.toNat % 2 ^ 22 : Nat) (τ.w * 4) p) ∧
      ∀ g ∈ τ.gives, ¬ (g.1 = pen1.toNat / 2 ^ 22 ∧ g.2.1 = 1) := by
  refine ⟨?_, vector8 (by decide +kernel), by decide +kernel, by decide +kernel, each (by decide +kernel), by unfold Claims.LenOk; decide,
    by unfold Claims.InGroup; decide +kernel, ⟨plainPen, reach1 rfl (by decide)⟩, fun g hg => by cases hg⟩
  intro b hb
  simp only [List.mem_cons, List.not_mem_nil, or_false] at hb
  subst hb
  refine ⟨some_lane _ _ (by decide +kernel), some_lane _ _ (by decide +kernel), ?_⟩
  rintro ⟨-, h⟩
  exact absurd (h 7 (by decide)) (by decide +kernel)

/-- Vectors of the island with an absent lane, and with a field at fault. -/
theorem witness_IslandInstructionsEnter_fields :
    (let τ := giver 5 [lanes [pen1, 0], lanes [pen1, 0]]
     Claims.SomeLane τ [readSrc τ false (.e 0)] ∧ Claims.SomeLane τ [readSrc τ false (.e 0), readSrc τ true (.e 1)] ∧
       ¬ Claims.VectorOf τ (readSrc τ false (.e 0)) 8 ∧ ¬ Claims.VectorOf τ (readSrc τ true (.e 1)) 3) ∧
    (∀ c ∈ [(16 : Word), 0xFFFF], c.toNat / 2 ^ 4 % 2 ^ 12 ≠ 0) ∧
    (let τ := giver 5 [mkLanes (fun l => if l = 1 then some 0 else none), lanes [0, 0, 0]]
     Claims.SomeLane τ [readSrc τ false (.e 0)] ∧ Claims.SomeLane τ [readSrc τ false (.e 0), readSrc τ true (.e 1)] ∧
       laneOf (readSrc τ false (.e 0)) 0 = none) ∧
    (∀ v ∈ [[pen1, pen8, 0x10000, 0x80000, 0, 0, 0, 0], [pen1, pen8, 0, 0x80000, 0, 0, 0, 1], [pen1, pen8, 0, 0x10010000, 0, 0, 0, 0]],
      let w := Claims.wordOf (lanes v)
      let k := w 3 / 2 ^ 16 % 2 ^ 13
      (decide (8 ≤ 32) && (List.range 8).all (fun l => (laneOf (lanes v) l).isSome)) = true ∧ (2 ^ 16 ≤ w 2 ∨ w 7 ≠ 0 ∨ 4096 < k)) ∧
    (∀ c ∈ [(0x20000 : Word), 0, 0x2FF], 2 ^ 17 ≤ c.toNat ∨ c.toNat / 2 ^ 8 % 2 ^ 9 = 0 ∨ 256 < c.toNat % 2 ^ 8 + c.toNat / 2 ^ 8 % 2 ^ 9) ∧
    ¬ Claims.Finite32 0x7F800000 ∧
    ∀ v ∈ [[pen1, 0, 0x1000, 0x3F800000, 0, 0, 0, 0], [pen1, 0, 1, 0x3F800000, 0, 0, 0, 0], [pen1, 0, 6, 0x3F800000, 0, 0, 0, 0]],
      let w := Claims.wordOf (lanes v)
      (List.range 8).all (fun l => (laneOf (lanes v) l).isSome) = true ∧ (2 ^ 12 ≤ w 2 ∨ w 2 % 2 ^ 4 ≠ 0) ∧ (w 2 % 2 ^ 4 ≤ 5 ∨ 5 < w 2 % 2 ^ 4) := by
  refine ⟨⟨some_lane _ _ (by decide +kernel), some_lane _ _ (by decide +kernel), ?_, ?_⟩, each (by decide +kernel), ⟨?_, ?_, by decide +kernel⟩, each (by decide +kernel),
    each (by decide +kernel), by unfold Claims.Finite32; norm_num, each (by decide +kernel)⟩
  · rintro ⟨-, h⟩
    exact absurd (h 7 (by decide)) (by decide +kernel)
  · rintro ⟨-, h⟩
    exact absurd (h 2 (by decide)) (by decide +kernel)
  all_goals unfold Claims.SomeLane; exact ⟨1, by decide, by decide +kernel, by decide +kernel⟩

/-- One element of one row with the least K, without and with scales, a chained operation, the last bale range, and a drain of one element. -/
theorem witness_IslandInstructionsEnter :
    (let v : List Word := [pen1, pen8, 0, 8 * 2 ^ 16, 0, 0, 0, 0]
     let τ := giver 5 [lanes v]
     Runs (on τ) τ ∧ SrcsOk τ [.e 0] ∧ Claims.PortOrNone (on τ) .discard none ∧ Claims.PortOrNone (on τ) (.port 0) (some 0) ∧
       Claims.SomeLane τ [readSrc τ false (.e 0)] ∧ Claims.VectorOf τ (readSrc τ false (.e 0)) 8 ∧
       (∀ l, l < 8 → Claims.wordOf (readSrc τ false (.e 0)) l = (v.getD l 0).toNat) ∧ Claims.spanOf 1 8 8 0 = 8 ∧ Claims.spanOf 8 1 8 0 = 29 ∧
       Claims.Given (on τ) τ pen1 8 5 ∧ Claims.Given (on τ) τ pen8 29 5 ∧ (8 : Nat) % (8 * 2 ^ 0) = 0 ∧ Claims.Given (on τ) τ pen1 2 5) ∧
    (let v : List Word := [0, pen8, 0x40, 8 * 2 ^ 16, 0, 0, 0, 0]
     let w := Claims.wordOf (lanes v)
     w 0 = 0 ∧ w 2 / 2 ^ 6 % 2 ^ 4 ≠ w 2 / 2 ^ 0 % 2 ^ 4 ∧ Pair.e4e5 ∉ [Pair.fp4, .cb2e4, .cb2bf, .i8]) ∧ Pair.i8 ∈ [Pair.fp4, .cb2e4, .cb2bf, .i8] ∧
    (let τ := giver 5 [same pen1, lanes [255 + 1 * 2 ^ 8, 0, 0x3F800000]]
     Runs (on τ) τ ∧ SrcsOk τ [.e 0, .e 1] ∧ Claims.SomeLane τ [readSrc τ false (.e 0), readSrc τ true (.e 1)] ∧
       laneOf (readSrc τ false (.e 0)) 0 = some pen1 ∧ Claims.Holds τ (readSrc τ true (.e 1)) [255 + 1 * 2 ^ 8, 0, 0x3F800000] ∧
       Claims.Finite32 0x3F800000 ∧ Claims.Finite32 0 ∧ Claims.Given (on τ) τ pen1 16384 5 ∧ Claims.Given (on τ) τ pen1 8 5 ∧
       (15 : Word).toNat / 2 ^ 4 % 2 ^ 12 = 0) ∧
    let τ := giver 5 [lanes [pen1, 0, 0, 0x3F800000, 0, pen8, 0, 0]]
    Claims.VectorOf τ (readSrc τ false (.e 0)) 8 ∧ Claims.spanOf 1 1 32 0 = 4 ∧ Claims.Given (on τ) τ pen1 4 5 ∧ Claims.Given (on τ) τ pen8 4 5 := by
  refine ⟨⟨rfl, source_in _ (by decide), .inl ⟨rfl, rfl⟩, .inr ⟨0, rfl, by decide +kernel, rfl⟩, some_lane _ _ (by decide +kernel),
    vector8 (by decide +kernel), ?_, by decide, by decide, given1 (by decide), given8 (by decide), by decide, given1 (by decide)⟩,
    ⟨by decide +kernel, by decide +kernel, by decide⟩, by decide,
    ⟨rfl, sources_in _ (by decide), some_lane _ _ (by decide +kernel), by decide +kernel, ⟨by decide, ?_⟩, by unfold Claims.Finite32; decide,
      by unfold Claims.Finite32; decide, given1 (by decide), given1 (by decide), by decide⟩,
    vector8 (by decide +kernel), by decide, given1 (by decide), given8 (by decide)⟩
  · intro l hl
    interval_cases l <;> decide +kernel
  · intro k hk
    have : k < 3 := hk
    interval_cases k <;> decide +kernel

/-- Vectors of the row units at their bounds, in a supervisor and in a user context; a rider of no rows; reins loaded and invalidated. -/
theorem witness_RowUnitAndFoldInstructionsEnter :
    (let τ := giver 5 [same pen1, lanes [2 ^ 20 - 1]]
     Runs (on τ) τ ∧ SrcsOk τ [.e 0, .e 1] ∧ SrcsOk τ [.e 0] ∧ Claims.PortOrNone (on τ) .discard none ∧ laneOf (readSrc τ false (.e 0)) 0 = some pen1 ∧
       Claims.Given (on τ) τ pen1 64 5 ∧ (penRead (drainStp (on τ) 0) 0 pen1.toNat 64).isSome ∧
       Claims.Given (on τ) τ pen1 (riderBytes (riderAt (drainStp (on τ) 0) 0 pen1.toNat)) 5 ∧ Claims.SomeLane τ [readSrc τ false (.e 0)] ∧
       Claims.SomeLane τ [readSrc τ false (.e 0), readSrc τ true (.e 1)] ∧ laneOf (readSrc τ true (.e 1)) 0 = some (2 ^ 20 - 1)) ∧
    (let τ := worker [same 1, same pen1]
     Claims.SomeLane τ [readSrc τ false (.e 0)] ∧ laneOf (readSrc τ true (.e 1)) 0 = some pen1 ∧
       Claims.PenOk (on τ) τ (pen1.toNat / 2 ^ 22) (pen1.toNat % 2 ^ 22 : Nat) (4 + 4 * τ.w) 4) ∧
    (let τ := worker [lanes [14, 16384, 0x7F7FFFFF, 0, 0, 0, 0, 0]]
     let w := Claims.wordOf (readSrc τ false (.e 0))
     Claims.VectorOf τ (readSrc τ false (.e 0)) 8 ∧ w 0 < 16 ∧ w 0 % 4 ≠ 3 ∧ 1 ≤ w 1 ∧ w 1 ≤ 16384 ∧ Claims.Finite32 (w 2) ∧ w 2 < 2 ^ 31 ∧
       Claims.DestFor [0, 2, 5] (w 3)) ∧
    (let τ := worker [lanes [16 * 2 ^ 4, 1, 0, 0, 0, 65528, 0, 0]]
     let w := Claims.wordOf (readSrc τ false (.e 0))
     Claims.VectorOf τ (readSrc τ false (.e 0)) 8 ∧ w 0 < 2 ^ 9 ∧ w 0 / 2 ^ 4 % 2 ^ 5 ≤ 16 ∧ Claims.DestFor [0, 1, 5] (w 3) ∧ w 4 < 2 ^ 14 ∧ w 5 < 2 ^ 16 ∧
       w 4 * 16 + (w 0 / 2 ^ 4 % 2 ^ 5) * (16 * ((16 + 2 * w 1 + 15) / 16)) ≤ 262144 ∧ w 5 * 16 + 128 * w 1 ≤ 1048576 ∧ τ.cx.asid = 0 ∧
       (w 0 / 2 ^ 4 % 2 ^ 5 ≠ 0)) ∧
    ((let τ := { worker [same 3] with cx := { crewCtx with asid := 1 } }
      τ.cx.asid ≠ 0 ∧ targetOk (on τ) τ (.temp 0) = true ∧ laneOf (readSrc τ false (.e 0)) 0 = some 3 ∧ (3 : Word).toNat < 4) ∧
     { noCfg with nprobe := 1, len := 2 }.nprobe ≠ 0) ∧
    (∀ c ∈ [(0 : Word), 255, 256, 511], let τ := giver 7 [same pen1, lanes [c]]
      Claims.SomeLane τ [readSrc τ true (.e 1), readSrc τ false (.e 0)] ∧ laneOf (readSrc τ true (.e 1)) 0 = some c ∧ c.toNat < 2 ^ 9 ∧
        Claims.Given (on τ) τ pen1 (2 * (sgetD (on τ).rws.brcfg ((on τ).occ.a * 4 + c.toNat % 4) noCfg).len) 7) ∧
    let τ := giver 7 [same pen1, lanes [0, 16]]
    τ.cx.asid = 0 ∧ Claims.SomeLane τ [readSrc τ false (.e 0), readSrc τ true (.e 1)] ∧ laneOf (readSrc τ true (.e 1)) 0 = some 0 ∧
      laneOf (readSrc τ true (.e 1)) 1 = some 16 ∧ Claims.Given (on τ) τ pen1 16 7 := by
  refine ⟨⟨rfl, sources_in _ (by decide), source_in _ (by decide), .inl ⟨rfl, rfl⟩, by decide +kernel, given1 (by decide), by decide +kernel,
      given1 (by decide +kernel), some_lane _ _ (by decide +kernel), some_lane _ _ (by decide +kernel), by decide +kernel⟩,
    ⟨some_lane _ _ (by decide +kernel), by decide +kernel, by decide, plainPen, reaches _ (by decide +kernel), rfl, by intro g hg; cases hg⟩,
    ⟨vector8 (by decide +kernel), by decide +kernel, by decide +kernel, by decide +kernel, by decide +kernel, by unfold Claims.Finite32; decide +kernel,
      by decide +kernel, by unfold Claims.DestFor; decide +kernel⟩,
    ⟨vector8 (by decide +kernel), by decide +kernel, by decide +kernel, by unfold Claims.DestFor; decide +kernel, by decide +kernel, by decide +kernel,
      by decide +kernel, by decide +kernel, rfl, by decide +kernel⟩, ⟨⟨by decide, rfl, by decide +kernel, by decide⟩, by decide⟩, ?_,
    rfl, some_lane _ _ (by decide +kernel), by decide +kernel, by decide +kernel, given1 (by decide)⟩
  intro c hc
  simp only [List.mem_cons, List.not_mem_nil, or_false] at hc
  rcases hc with rfl | rfl | rfl | rfl <;>
    exact ⟨some_lane _ _ (by decide +kernel), by decide +kernel, by decide, given1 (by decide +kernel)⟩

/-! Contexts, handlers and the supervisor's instructions. -/

/-- A context vector of width `w` and a plan; the pool of launch 0 with its first context taken, and with none FREE. -/
def ctxVector (w plan : Nat) : Lanes := lanes [BitVec.ofNat 32 (w + plan * 2 ^ 8), 0xFFFF, 0, 0, 0xFFFFF, 0, 64, 0]
def pooled (n : Nat) (τ : Task) : State := { on τ with ctxs := (List.range n).map (fun k => (64 + k, crewCtx)) }

/-- A vector with width 0, a plan that the tile has not, a pool with no FREE context, and children as wide as the parent and wider. -/
theorem witness_ContextsAreReservedAtIssue :
    (let τ := worker [ctxVector 8 0, same 1]
     Runs (pooled 1 τ) τ ∧ SrcsOk τ [.e 0, .e 1] ∧ targetOk (pooled 1 τ) τ (.temp 0) = true ∧
       (portAt (pooled 1 τ) 0).elim false (fun p => p.top == 0) = true ∧ predOk τ 0 = true ∧ (laneOf (readSrc τ false (.e 0)) 0).isSome ∧
       (sget (pooled 1 τ).tab.fplans 0).isSome ∧ lowestFree (pooled 1 τ) τ.cx.q = some 65 ∧ lowestFree (pooled 64 τ) τ.cx.q = none ∧
       sget (pooled 1 τ).tab.fplans 1 = none ∧ laneOf (readSrc τ false (.e 0)) 6 = some 64 ∧ laneOf (readSrc τ false (.e 0)) 7 = some 0 ∧
       maxW (pooled 1 τ) τ.cx.q = 32) ∧
    (∀ w ∈ [1, 8, 9, 32], ∀ plan ∈ [0, 1], Claims.CtxVector (ctxVector w plan)) ∧ ¬ Claims.CtxVector (ctxVector 0 0) := by
  refine ⟨⟨rfl, sources_in _ (by decide), rfl, by decide +kernel, by decide +kernel, by decide +kernel, by decide +kernel, (by decide +kernel), by decide +kernel,
    by decide +kernel, by decide +kernel, by decide +kernel, by decide +kernel⟩, ?_, ?_⟩
  · intro w hw plan hp
    simp only [List.mem_cons, List.not_mem_nil, or_false] at hw hp
    rcases hw with rfl | rfl | rfl | rfl <;> rcases hp with rfl | rfl <;> unfold Claims.CtxVector <;> decide +kernel
  · rintro ⟨-, -, -, h, -⟩
    exact absurd h (by decide +kernel)

/-- A LIVE and an ENDING context, registers that may and may not be written, a predicate that fires in lane 0 or not, halting enabled and not, and
a task that comes back from its halt. -/
theorem witness_ContextEndLaunchTrapAndBreak :
    let τ := worker [lanes [0, 0]]
    let debug (s : State) : State := { s with dev := { s.dev with level := 2, hen := true, dasid := 0 } }
    (Runs (on τ) τ ∧ SrcsOk τ [.e 0] ∧ (portAt (on τ) 0).isSome ∧ Claims.SomeLane τ [readSrc τ false (.e 0)] ∧
      laneOf (readSrc τ false (.e 0)) 0 = some 0 ∧ laneOf (readSrc τ false (.e 0)) 1 = some 0 ∧
      (∃ x, ctxOf (on τ) 0 = some x ∧ x.st = .live ∧ x.q = τ.cx.q) ∧ (¬ ∃ x, ctxOf (on τ) 3 = some x ∧ x.st = .live ∧ x.q = τ.cx.q) ∧
      (¬ ∃ x, ctxOf (on τ) 4 = some x ∧ x.st = .live ∧ x.q = τ.cx.q)) ∧
    (∀ n ∈ [0x08, 0x0B, 0x15, 0x20, 0x2F, 0x40, 0x4F], Claims.writable n) ∧ (∀ n ∈ [0x00, 0x09, 0x11, 0x16, 0x1F, 0x30, 0x3F, 0x50], ¬ Claims.writable n) ∧
    (predOk τ 0 = true ∧ predOk (idleTask [same 0]) 0 = false ∧ laneOf (readSrc (worker [noLanes]) false (.e 0)) 0 = none) ∧
    (τ.kind = .frame ∧ (debug (on τ)).dev.level ≠ 0 ∧ (debug (on τ)).dev.hen = true ∧ (debug (on τ)).dev.dasid.toNat = τ.cx.asid ∧
      (debug (on τ)).dev.level = 2) ∧ (on τ).dev.hen = false ∧
    sget (on τ).flt.resumed 0 = none ∧
    (let s := { on τ with flt := { base.flt with resumed := [(0, ())] } }
     (sget s.flt.resumed 0).isSome ∧ sget s.flt.halted 0 = none) := by
  refine ⟨⟨rfl, source_in _ (by decide), by decide +kernel, some_lane _ _ (by decide +kernel), by decide +kernel, by decide +kernel,
    ⟨crewCtx, by decide +kernel, rfl, rfl⟩, ?_, ?_⟩, by unfold Claims.writable; decide, by unfold Claims.writable; decide, by decide +kernel,
    by decide +kernel, by decide +kernel, by decide +kernel, by decide +kernel⟩
  · rintro ⟨x, h, hl, -⟩
    rw [show ctxOf _ 3 = some { crewCtx with st := .ending } by decide +kernel] at h
    cases h
    cases hl
  · rintro ⟨x, h, -⟩
    rw [show ctxOf _ 4 = none by decide +kernel] at h
    cases h

/-- Vectors at the bounds of each subform, one with a reserved bit, and a user context. -/
theorem witness_SystemInstructionsNeedSupervisor :
    (let τ := worker [lanes [0, 2, 0, 2 ^ 24 - 1], lanes [511]]
     Runs (on τ) τ ∧ τ.cx.asid = 0 ∧ ({ τ with cx := { crewCtx with asid := 1 } } : Task).cx.asid ≠ 0 ∧ SrcsOk τ [.e 0, .e 1] ∧ SrcsOk τ [.e 0] ∧
       Claims.PortOrNone (on τ) .discard none ∧ Claims.SomeLane τ [readSrc τ false (.e 0), readSrc τ true .zero] ∧
       Claims.SomeLane τ [readSrc τ false (.e 0), readSrc τ true (.e 1)] ∧
       (∀ n ≤ 4, Claims.VectorOf τ (readSrc τ false (.e 0)) n) ∧ Claims.VectorOf τ (readSrc τ true (.e 1)) 1 ∧
       Claims.wordOf (readSrc τ false (.e 0)) 1 < 2 ^ 24 ∧ Claims.wordOf (readSrc τ true (.e 1)) 0 / 2 ^ 9 % 2 ^ 7 = 0 ∧
       (∃ l, l < 32 ∧ predOk τ l = true)) ∧
    ([[255], [2 ^ 18], [2 ^ 21], [2 ^ 20 - 1, 65535, 1, 0], [255], [0, 2, 0, 2 ^ 24 - 1]].zip Claims.systemForms).length = 6 ∧
    (let w (ws : List Word) : Nat → Nat := Claims.wordOf (lanes ws)
     w [255] 0 < 2 ^ 8 ∧ (w [2 ^ 18] 0 < 2 ^ 21 ∧ w [2 ^ 18] 0 / 2 ^ 18 % 2 = 1) ∧ (w [2 ^ 21] 0 < 2 ^ 22 ∧ w [2 ^ 21] 0 / 2 ^ 21 % 2 = 1) ∧
       (let x := w [2 ^ 20 - 1, 65535, 1, 0]; x 0 < 2 ^ 20 ∧ x 1 < 2 ^ 16 ∧ 1 ≤ x 2 ∧ x 1 + x 2 ≤ 65536 ∧ x 3 = 0) ∧
       (let x := w [0, 0xFFFFFFFF, 255, 1]; x 0 < 2 ^ 21 ∧ x 2 < 2 ^ 8 ∧ 1 ≤ x 3 ∧ x 1 + x 2 * 2 ^ 32 + x 3 ≤ 2 ^ 40) ∧
       ¬ w [256] 0 < 2 ^ 8 ∧ ¬ w [0, 2 ^ 24] 1 < 2 ^ 24 ∧ w [2 ^ 9] 0 / 2 ^ 9 % 2 ^ 7 ≠ 0) := by
  refine ⟨⟨rfl, rfl, by decide, sources_in _ (by decide), source_in _ (by decide), .inl ⟨rfl, rfl⟩, some_lane _ _ (by decide +kernel),
    some_lane _ _ (by decide +kernel), ?_, ⟨by decide, ?_⟩, by decide +kernel, by decide +kernel, 0, by decide, by decide +kernel⟩, rfl, by decide +kernel⟩
  · intro n hn
    refine ⟨by show n ≤ 8; omega, fun l hl => ?_⟩
    have : l < 4 := by omega
    interval_cases l <;> decide +kernel
  · intro l hl
    interval_cases l
    decide +kernel

/-- A whole record, one without lane 5, and a task of width 5. -/
theorem witness_HandlerInstructionsEnter :
    let full (τ : Task) (x : Lanes) := 6 ≤ τ.w ∧ (laneOf x 0).isSome ∧ (laneOf x 1).isSome ∧ (laneOf x 5).isSome
    (let τ := worker [lanes [1, 2, 3, 4, 5, 6], same 1]
     Runs (on τ) τ ∧ SrcsOk τ [.e 0, .e 1] ∧ Claims.PortOrNone (on τ) .discard none ∧ Claims.SomeLane τ [readSrc τ false (.e 0)] ∧
       full τ (readSrc τ false (.e 0))) ∧
    (let τ := worker [lanes [1, 2, 3, 4, 5], same 1]
     Claims.SomeLane τ [readSrc τ false (.e 0)] ∧ ¬ full τ (readSrc τ false (.e 0))) ∧
    ¬ full { worker [same 1] with w := 5 } (same 1) :=
  ⟨⟨rfl, sources_in _ (by decide), .inl ⟨rfl, rfl⟩, some_lane _ _ (by decide +kernel), by decide +kernel⟩,
   ⟨some_lane _ _ (by decide +kernel), by decide +kernel⟩, by decide +kernel⟩

/-! What the instructions of memory, of pens and of debug ask beside. -/

/-- The list of tile 0 is full. -/
def flooded (s : State) : State :=
  let p : Pending := { tile := 0, fr := syncRecord s 0 (worker []) 0 causeAlign 0 0, deliver := true }
  { s with flt := { s.flt with pending := List.replicate 1024 p } }

/-- The tasks above find room for their loads and no fence before their LDPs; 64 loads are outstanding, and a fence stands, elsewhere; a VA at the
top of the space; a pen operand of QPOST and one that is misaligned; an OFMT that is none; a trough with nothing to settle; the lists of a halt with room
and full. -/
theorem witness_RoomForLoadsFencesAndHalts :
    (∀ τ ∈ [worker [same 0, same 0x10004], topTask [same 28, same 0x4000000], topTask [same 0], worker [lanes [4, 0xFFFFFFFC], same 1],
        worker [lanes [4, 2], same 1], latched (worker [lanes [2 ^ 22 + 8]]) (lanes [2 ^ 22 + 8]) noLanes, worker [lanes [2 ^ 22 + 0x7FFC, 9 * 2 ^ 22]]],
      loadWaits (on τ) = false ∧ ldpWaits (.e 0) 0 (on τ) = false ∧ ldpWaits (.e 0) 2047 (on τ) = false) ∧
    (let τ := worker [same 0]
     let o (k : OpKind) (id : Nat) : Op := { mkOp (on τ) τ k none noLanes noLanes [] with id := id, tid := 0, phase := .done }
     loadWaits { on τ with ops := List.replicate 64 (o (.ld .word) 1) } = true ∧
       ldpWaits (.e 0) 0 { on τ with ops := [o (.fence 0) 1] } = true) ∧
    (2 : Int) ^ 56 ≤ Claims.addr (topTask []) 0 0 32 ∧
    (let s := fixPen (drainStp (on (giver 5 [same pen1, lanes [2 ^ 20 - 1]])) 0) 0 pen1.toNat 64
     (penRead s 0 pen1.toNat 64).isSome = true ∧ riderBytes (riderAt s 0 pen1.toNat) ≤ 32768) ∧
    ((5 : Nat) < 6 ∧ (BitVec.ofNat 32 6 : Word).toNat % 2 ^ 4 = 6) ∧
    (∀ x ∈ trough0.voids ++ trough0.posted ++ trough0.freed, x ≠ (trough0.nxt + 1) % 4) ∧
    (haltRoom (on (worker [lanes [0, 0]])) 0 = true ∧
      haltRoom (flooded (on (worker [lanes [0, 0]]))) 0 = false) := by
  refine ⟨?_, ?_, ?_, ?_, ?_, ?_, ?_⟩ <;> decide +kernel

theorem witness_QpostPenOperand :
    (∀ x ∈ [((5 : Nat), (2 ^ 22 * 5 : Word)), (3, 2 ^ 22 * 3)], let τ := worker [same x.2]
      Claims.PenOk (on τ) τ (x.2.toNat / 2 ^ 22) (x.2.toNat % 2 ^ 22 : Nat) 4 4) ∧
    let τ := worker [same (2 ^ 22 * 5 + 2)]
    Claims.PenFault (on τ) τ ((2 ^ 22 * 5 + 2 : Word).toNat / 2 ^ 22) ((2 ^ 22 * 5 + 2 : Word).toNat % 2 ^ 22 : Nat) 4 4 causeAlign 0 := by
  refine ⟨?_, .inl (by decide +kernel)⟩
  intro x hx
  simp only [List.mem_cons, List.not_mem_nil, or_false] at hx
  rcases hx with rfl | rfl
  · exact ⟨by decide +kernel, { plainPen with tm := true, size := 1, base := 13 }, reaches _ (by decide +kernel), rfl, by intro g hg; cases hg⟩
  · exact ⟨by decide +kernel, { plainPen with tm := true, size := 1, base := 11 }, reaches _ (by decide +kernel), rfl, by intro g hg; cases hg⟩

/-! Decoding and steps. -/

/-- A block word, a block word of two words, and sequencing words of one, three and five. -/
theorem witness_DecodeInvertsEncode :
    ((Instr.abs .lid .discard).wf = true ∧ encode (.abs .lid .discard) = [0x55ED0108] ∧ Claims.sequences (.abs .lid .discard) = false) ∧
    ((Instr.lit 5 .discard).wf = true ∧ encode (.lit 5 .discard) = [0x82D00108, 5]) ∧
    ((Instr.sqBar).wf = true ∧ encode .sqBar = [0x50000000] ∧ Claims.sequences .sqBar = true) ∧
    (encode (.sqSig 9 0x14001 0xFFFFFFFE) = [0x70000009, 0x02800200, 0xFFFFFFFE]) ∧
    (encode (.sqIf true false 5 0x01234589ABCDEF 0xABCDEF12345680)).length = 5 := by decide +kernel

/-- A word to issue, a reserved one, a block at its end, a single step done; a sequencer word; an event; nothing. -/
theorem witness_StepRunsDecodedInstruction :
    (let s := placeBlockWord State.reset 0x55ED0108 0
     s.agenda = .issue 0 0 :: [] ∧ (peAt s 0 0).run = some probeTask ∧ probeTask.pos ≤ probeTask.len ∧ probeTask.step ≠ 1 ∧
       decodeBlock (sgetD s.tab.imem (0 * 2 ^ 18 + 0 * 2 ^ 14 + probeTask.base + 1 + 0) 0).toNat 0 = .ok (.abs .lid .discard)) ∧
    ((decodeBlock 0x06000000 0).toOption = none ∧ ({ probeTask with pos := 64 } : Task).len < ({ probeTask with pos := 64 } : Task).pos) ∧
    (let s := placeSeqWords State.reset [0x50000000]
     s.agenda = .seq 0 :: [] ∧ sget s.sch.launches 0 = some (probeLaunch [0x50000000]) ∧
       decodeSeq (((probeLaunch [0x50000000]).prog.drop 0).map (·.toNat)) = .ok (.sqBar, 1) ∧ (decodeSeq [0x80000000]).toOption = none) ∧
    State.reset.agenda = .event .startup ⟨0, 0, 0⟩ :: [] ∧ { State.reset with agenda := [] }.agenda = [] := by decide +kernel

/-- Reset, and a state with a byte in each memory. -/
theorem witness_MemoryStaysCanonical :
    (State.reset.canonical = true ∧ ∃ t, step { State.reset with agenda := [] } = .next t) ∧
    { State.reset with mem := { Mem.empty with dram := [(3, 1), (4, 255)], sram := [(0, 1)], probe := [(9, 2)], rein := [(1, 1)] } }.canonical = true :=
  ⟨⟨by decide +kernel, _, rfl⟩, by decide +kernel⟩

end Sys2Proof.Tests
end

