-- ==== Sys2Proof/Tests/Events.lean ====
section
/-! SUPPORT. Witnesses, part 3: small states that meet the hypotheses of the statements about sequencing, tokens and
tasks. -/

open Sys2Proof Sys2Proof.Machine

namespace Sys2Proof.Tests

set_option Elab.async false
set_option linter.unusedSimpArgs false
set_option linter.unusedVariables false

/-! A package with its quadrants and stacks up, one large page for every address space on tile 0, and one operation under way. -/

def wholePage : TbEntry :=
  { asid := 0, page := 0, bits := 36, pa := 0, wr := true, ex := true, us := true, gl := true, d := true, mt := 0, enc := 0 }

def stage : State :=
  { stocked with
    dev := { stocked.dev with stackOk := List.range 12, quads := [0, 1, 2, 3], up := true, pv := true }
    xl := { stocked.xl with tb := [(0, [wholePage])] } }

/-- The walk cache of quadrant 0 leads the first addresses of an ASID to a table page at 2^15, whose first entry is a leaf of this memory type for
the page at `pa` (R21, R28). -/
def walkable (asid mt pa : Nat) (s : State) : State :=
  let pte := 0xDF + 256 * mt + pa
  { s with
    mem := { s.mem with dram := ((List.range 8).map (fun k => (2 ^ 15 + k, BitVec.ofNat 8 (pte / 2 ^ (8 * k))))).filter (fun x => x.2 != 0) }
    xl := { s.xl with cache := [{ quad := 0, asid := asid, lvl := 1, path := 0, page := 2 ^ 15 }] } }

/-- An operation of the launch's context 0 on tile 0, its block committed. -/
def opOf (k : OpKind) : Op := { mkOp stocked (worker [same 3]) k (some 0) (same 3) noLanes [] with id := 9, tid := 0 }

/-- An access to `pa` that may be performed. -/
def laneAtPa (pa len : Nat) : Lane := { mkLane 0 (pa : Int) len 7 0 with phys := some { pa := pa, mt := 0, enc := 0 } }
def readyOp (k : OpKind) : Op := { opOf k with phase := .ready, lanes := [laneAtPa 64 4] }

/-- The turn of an event about these operations. -/
def turnOf (a b : Nat) (os : List Op) : State := { stage with occ := ⟨a, b, 0⟩, ops := os }

/-- A translation that is found, by what its page says and by the word that is read there. -/
theorem page_of {x : State × Check Phys} {m : Nat} (h : x.2.toOption.map (·.mt) = some m) : ∃ s p, x = (s, .ok p) ∧ p.mt = m := by
  obtain ⟨s, r⟩ := x
  cases r with
  | ok p => exact ⟨s, p, rfl, Option.some.inj h⟩
  | error e => cases h

theorem word_of {x : State × Check Phys} (h : (match x with | (s, .ok p) => (readHome s p.enc p.pa 4).2.isSome | _ => false) = true) :
    ∃ s p, x = (s, .ok p) ∧ ∃ t v, readHome s p.enc p.pa 4 = (t, some v) := by
  obtain ⟨s, r⟩ := x
  cases r with
  | ok p => obtain ⟨v, hv⟩ := Option.isSome_iff_exists.mp h; exact ⟨s, p, rfl, _, v, Prod.ext rfl hv⟩
  | error e => cases h

/-! Sequencing. -/

def program (l : Launch) : State := { stage with sch := { stage.sch with launches := [(0, l)] } }

/-- A program of one SQ.BAR: running, waiting on a run, with an edge that is an ingress and one that is not, and with shapes. -/
theorem witness_SequencingWordsAct :
    let l := { crewLaunch with prog := [0x50000000], edges := [0, 2 ^ 31], shapes := [(0, 1, 1), (1, 2, 2)] }
    Claims.Program (program l) (program l).occ.a l ∧ l.runs = 0 ∧ { l with runs := 1 }.runs ≠ 0 ∧ { l with waiting := true }.waiting = true ∧
    l.waiting = false ∧ targetGood l 0 = true ∧ targetGood l 1 = false ∧
    (∀ e, l.edges[0]? = some e → e / 2 ^ 31 % 2 = 0) ∧ ((∃ e, l.edges[1]? = some e ∧ e / 2 ^ 31 % 2 = 1) ∧ ∀ x ∈ l.ingress, x.1 ≠ 1) ∧
    l.inits.length ≤ ((List.range (2 ^ l.plog2)).filter (fun k => (ctxOf (program l) (l.pool + k)).isNone)).length ∧
    l.grow = none ∧ shapeOf l 7 = none ∧ (∃ x, shapeOf l 1 = some x ∧ (l.gw < x.1 ∨ l.gh < x.2)) ∧ (∃ x, shapeOf l 0 = some x ∧ x.1 ≤ l.gw ∧ x.2 ≤ l.gh) ∧
    (∀ e ∈ (program l).net.outs, e.id ≠ l.sig) ∧ destGood (fun _ => none) l.wd l.ht (destOfWord (0 * 2 ^ 9)) = true ∧
    (∃ s1 p, xlateNow (Claims.served (walkable l.asid 0 0 (program l)) 0) (originTile l) l.asid 64 { imageWant (l.asid != 0) false with mtOk := fun mt => mt != 2 } = (s1, .ok p) ∧
      ∃ s2 v, readHome s1 p.enc p.pa 4 = (s2, some v)) ∧
    (∃ s1 c, readImage (Claims.served (program l) 0) (originTile l) l.asid (l.field 0 56) = (s1, .error c)) := by
  refine ⟨⟨by decide +kernel, rfl, by decide⟩, rfl, by decide, rfl, rfl, by decide +kernel, by decide +kernel, ?_, ⟨⟨2 ^ 31, rfl, by decide⟩, (by intro x hx; cases hx)⟩,
    by decide +kernel, rfl, by decide +kernel, ⟨(2, 2), by decide +kernel, by decide⟩, ⟨(1, 1), by decide +kernel, by decide⟩, (by intro e he; cases he), by decide +kernel,
    word_of (by decide +kernel), ⟨_, _, rfl⟩⟩
  intro e he
  cases he
  decide

/-- A predicate in SC memory; the read of it under way, done, and not there; a signal's SQ.IF whose read comes next. -/
theorem witness_SequencingWordsAct_predicate :
    let l := { crewLaunch with prog := [0x50000000], waiting := true, sig := 9 }
    let s := walkable l.asid 1 0 (program l)
    let o := { edgeOp 0 0 (.ld .word) [{ laneAtPa 64 4 with res := 7 }] with id := 9, phase := .done }
    Claims.Program s s.occ.a l ∧ l.st = .running ∧ l.runs = 0 ∧ (64 : Nat) % 4 = 0 ∧ targetGood l 0 = true ∧ l.waiting = true ∧ opById s l.sig = none ∧
    (∃ s1 p, xlateNow (Claims.served s 0) (originTile l) l.asid 64 { imageWant (l.asid != 0) false with mtOk := fun mt => mt != 2 } = (s1, .ok p) ∧ p.mt = 1) ∧
    opById { s with ops := [o] } l.sig = some o ∧ o.phase = .done ∧ isLoad o.kind = true ∧ o.lanes.head?.map (·.res) = some 7 :=
  ⟨⟨by decide +kernel, rfl, by decide⟩, rfl, rfl, by decide, by decide +kernel, rfl, rfl, page_of (by decide +kernel), rfl, rfl, rfl, rfl⟩

theorem translated {x : State × Check Phys} (h : x.2.toOption.isSome = true) : ∃ s p, x = (s, .ok p) := by
  obtain ⟨s, r⟩ := x
  cases r with
  | ok p => exact ⟨s, p, rfl⟩
  | error e => cases h

theorem refused {x : State × Check Phys} (h : x.2.toOption = none) : ∃ s c d, x = (s, .error (c, d)) := by
  obtain ⟨s, r⟩ := x
  cases r with
  | ok p => cases h
  | error e => exact ⟨s, e.1, e.2, rfl⟩

theorem unread {x : State × Check Phys} (h : (match x with | (s, .ok p) => p.mt != 1 && (readHome s p.enc p.pa 4).2.isNone | _ => false) = true) :
    ∃ s p t, x = (s, .ok p) ∧ p.mt ≠ 1 ∧ readHome s p.enc p.pa 4 = (t, none) := by
  obtain ⟨s, r⟩ := x
  cases r with
  | error e => cases h
  | ok p =>
    simp only [Bool.and_eq_true, bne_iff_ne, ne_eq, Option.isNone_iff_eq_none] at h
    exact ⟨s, p, _, rfl, h.1, Prod.ext rfl h.2⟩

/-- The first visit of a SQ.IF with a hitch whose page is there and is not, and whose address is at fault; a predicate whose page is not there, whose word
cannot be read, whose read failed, and whose read is not done. -/
theorem witness_SequencingWordsAct_waits :
    (let l := { crewLaunch with prog := [0x50000000] }
     let hva := { imageWant (l.asid != 0) false with wr := true, mtOk := fun _ => true }
     let pred := { imageWant (l.asid != 0) false with mtOk := fun mt => mt != 2 }
     let s := walkable l.asid 0 0 (program l)
     Claims.Program s s.occ.a l ∧ Claims.Program (program l) (program l).occ.a l ∧ l.st = .running ∧ l.runs = 0 ∧ l.waiting = false ∧
      targetGood l 0 = true ∧ (∃ s1 p, xlateNow (Claims.served s 0) (originTile l) l.asid 64 hva = (s1, .ok p)) ∧
      (∃ s1 c d, xlateNow (Claims.served (program l) 0) (originTile l) l.asid 64 hva = (s1, .error (c, d))) ∧
      (∃ s1 c d, xlateNow (Claims.served (program l) 0) (originTile l) l.asid 64 pred = (s1, .error (c, d))) ∧
      (let bad := { s with mem := { s.mem with badWords := [(8, ())] } }
       Claims.Program bad bad.occ.a l ∧ ∃ s1 p s2, xlateNow (Claims.served bad 0) (originTile l) l.asid 64 pred = (s1, .ok p) ∧ p.mt ≠ 1 ∧
         readHome s1 p.enc p.pa 4 = (s2, none)) ∧
      (2 : Nat) ^ 56 ≤ 2 ^ 56 ∧ (2 ^ 56 - 64 : Nat) < 2 ^ 56 ∧ (2 ^ 56 - 64 : Nat) % 64 = 0 ∧ (65 : Nat) % 64 ≠ 0 ∧ (66 : Nat) % 4 ≠ 0) ∧
    ∀ ph ∈ [Phase.failed, .ready], let l := { crewLaunch with prog := [0x50000000], waiting := true, sig := 9 }
      let o := { edgeOp 0 0 (.ld .word) [laneAtPa 64 4] with id := 9, phase := ph }
      let s := { program l with ops := [o] }
      Claims.Program s s.occ.a l ∧ l.waiting = true ∧ opById s l.sig = some o ∧ (o.phase = .failed ∨ (o.phase ≠ .failed ∧ o.phase ≠ .done)) := by
  refine ⟨⟨⟨by decide +kernel, rfl, by decide⟩, ⟨by decide +kernel, rfl, by decide⟩, rfl, rfl, rfl, by decide +kernel, translated (by decide +kernel),
    refused (by decide +kernel), refused (by decide +kernel), ⟨⟨by decide +kernel, rfl, by decide⟩, unread (by decide +kernel)⟩, by decide, by decide,
    by decide, by decide, by decide⟩, ?_⟩
  intro ph hp
  simp only [List.mem_cons, List.not_mem_nil, or_false] at hp
  rcases hp with rfl | rfl <;> exact ⟨⟨by decide +kernel, rfl, by decide⟩, rfl, by decide +kernel, by decide⟩

/-! Tokens and tasks. -/

def block0 : Block := { iaddr := 0, slot0 := 0, nin := 1, vc := 1, stage := 0, pemask := 255, cfl := 0, cfn := 0 }

/-- A block of stage 0 whose queue has depth 1, its window at iteration 0. -/
def laid : State :=
  { stage with
    cyc := 4096, pe := []
    tab := { stage.tab with
      blocks := [(0, block0)], stages := [(0, { minpe := 0, inipe := 1, depth := 1 })], imem := [(0, 0xA000)], cfgAt := [(0, 0)] } }

def token : Token := { hdr := plainHeader 0 0 8 0, lanes := same 1 }
def cancelToken : Token := { hdr := { plainHeader 0 0 8 0 with can := true }, lanes := noLanes }

/-- A token on its way to an element, with the entry that it comes from. -/
def flightTo (elem slot : Nat) (t : Token) : Flight := { id := 20, tile := 0, rank := 0, dest := ⟨0, elem, 0, slot⟩, tok := t, entry := 19 }
def inFlight (s : State) (f : Flight) : State :=
  { s with occ := ⟨20, 0, 0⟩, net := { mesh := [f], outs := [{ id := 19, tile := 0, elem := 0, tok := f.tok, pend := [(f.dest, 1)] }] } }

/-- The frame of iteration 0 is live. -/
def withFrame (s : State) : State := setPosition s 0 0 0 0 { noPosition with lv := true }

def ready0 : Ready := { tile := 0, kind := .frame, rank := 0, ctx := 0, iter := 0, blk := 0, cls := 1, stamp := 0, since := 0, frec := none }
def queued (s : State) : State := { s with frm := { s.frm with ready := [ready0], slots := [(0, slotOf token)] } }

theorem comes (s : State) (f : Flight) (h : f.id = 20) : Claims.Comes (inFlight s f) f := by
  constructor
  · show List.find? _ [f] = some f
    simp [List.find?, h, inFlight]
  · simp [olderFlight, inFlight]

/-- A token to a free and to a live frame, to a full stage, to a present slot; a cancel; the groom inbox with room and full; the commit stage. -/
theorem witness_TokensTravelAndArrive :
    (let s := { laid with occ := ⟨0, 19, 0⟩, net := { mesh := [], outs := [{ id := 19, tile := 0, elem := 0, tok := token, pend := [(⟨0, 0, 0, 0⟩, 0)] }] } }
     ∃ e, s.net.outs.find? (fun e => e.id == s.occ.b && e.tile == s.occ.a) = some e ∧ e.pend[s.occ.c]? = some (⟨0, 0, 0, 0⟩, 0) ∧
       olderUnsent s e ⟨0, 0, 0, 0⟩ = false ∧ e.tile ∉ s.frm.frozen ∧ placeTile s (outOwner s e) 0 = some (0, 0) ∧ sgetD s.dev.qcur (quadOf 0) 0 ≠ 2) ∧
    (∀ elem, elem ≤ 5 → Claims.Comes (inFlight laid (flightTo elem 0 token)) (flightTo elem 0 token)) ∧
    Claims.Comes (inFlight laid (flightTo 0 0 cancelToken)) (flightTo 0 0 cancelToken) ∧
    Claims.FrameTakes (inFlight laid (flightTo 0 0 token)) (flightTo 0 0 token) crewCtx 0 block0 true ∧
    Claims.FrameTakes (inFlight (withFrame laid) (flightTo 0 0 token)) (flightTo 0 0 token) crewCtx 0 block0 false ∧
    ((∃ g, sget laid.tab.stages (0 * 16 + block0.stage) = some g ∧ g.depth ≤ stageLoad (queued laid) 0 block0.stage) ∧
      ∀ g, sget laid.tab.stages (0 * 16 + block0.stage) = some g → ¬ g.depth ≤ stageLoad laid 0 block0.stage) ∧
    sget laid.frm.slots (slotKey laid 0 0 0 0 0) = none ∧ sget (queued laid).frm.slots (slotKey laid 0 0 0 0 0) = some (slotOf token) ∧
    (slotOf token).seg = token.hdr.seg ∧ running (inFlight laid (flightTo 0 0 cancelToken)) 0 0 0 0 0 = false ∧
    (sgetD laid.frm.inbox 0 []).length < 4 ∧ 4 ≤ (List.replicate 4 token).length ∧ faultRoom laid 0 0 0 0 = true ∧
    ((laid.ops.filter (fun o => o.tile == 0 && o.tid == 0 && isCommit o.kind)).length < 56 ∧
      64 ≤ ((List.replicate 64 (opOf (.commit true ⟨0, []⟩))).filter (fun o => o.tile == 0 && o.tid == 0 && isCommit o.kind)).length) := by
  refine ⟨⟨_, rfl, rfl, by decide +kernel, by decide +kernel, by decide +kernel, by decide +kernel⟩, fun elem _ => comes _ _ rfl, comes _ _ rfl,
    ⟨by decide +kernel, by decide +kernel, .inl rfl, by decide +kernel, by decide +kernel, by decide +kernel⟩,
    ⟨by decide +kernel, by decide +kernel, .inl rfl, by decide +kernel, by decide +kernel, by decide +kernel⟩,
    ⟨⟨_, rfl, by decide +kernel⟩, ?_⟩, by decide +kernel, by decide +kernel, rfl, by decide +kernel, by decide +kernel, by decide, by decide +kernel,
    (by decide +kernel), by decide +kernel⟩
  intro g hg
  cases hg
  decide +kernel

/-- A window behind, around and ahead of iteration 1, and its positions: retired, live and cleared. -/
def windowed (low : Nat) (ps : Store Position) : State :=
  { laid with frm := { laid.frm with windows := [(winKey laid 0 0 0, { low := low, plan := 0, pos := ps })] } }

/-- A token and a cancel for a context that the tile does not serve, a slot of no block, one beyond the frame and one that is not its block's first;
before, in and behind the window; one of an ENDING context; each where a fault finds room and where it finds none. A slot of another segment. -/
theorem witness_TokensTravelAndArrive_refusals :
    (∀ t ∈ [token, cancelToken], let f := flightTo 0 0 t
      Claims.Comes (inFlight laid f) f ∧ f.dest.elem = 0 ∧ (∀ c ∈ (inFlight laid f).frm.cancels, c.id ≠ (inFlight laid f).occ.a)) ∧
    (∀ n ∈ [5, 8], Claims.Comes (inFlight laid (flightTo 0 n token)) (flightTo 0 n token)) ∧
    token.hdr.can = false ∧ cancelToken.hdr.can = true ∧
    (let f := flightTo 0 0 { token with hdr := { token.hdr with ctx := 9 } }
     Claims.Comes (inFlight laid f) f ∧ ctxOf (inFlight laid f) 9 = none ∧ pendingCount (inFlight laid f) 0 < 1024 ∧
       1024 ≤ pendingCount (inFlight (flooded laid) f) 0) ∧
    (ctxOf laid 0 = some crewCtx ∧ crewCtx.q = sgetD laid.tab.owner 0 4096 ∧ crewCtx.st = .live) ∧
    blockOfSlot laid 0 5 = none ∧ blockOfSlot laid 0 0 = some (0, block0) ∧ (2 ^ (fplanOf laid 0 0 0).fslog2 : Nat) = 1 ∧
    (let wide := { block0 with slot0 := 0, nin := 4 }
     let s := { laid with tab := { laid.tab with blocks := [(0, wide)] } }
     blockOfSlot s 0 1 = some (0, wide) ∧ (2 ^ (fplanOf s 0 0 0).fslog2 : Nat) ≤ 1 ∧ (1 : Nat) ≠ wide.slot0) ∧
    (let n := 2 ^ (fplanOf (windowed 0 []) 0 0 0).flog2
     (windowOf (windowed 0 []) 0 0 0).low + n ≤ 1 ∧ 1 < (windowOf (windowed 2 []) 0 0 0).low ∧ (windowOf (windowed 1 []) 0 0 0).low ≤ 1 ∧
       1 < (windowOf (windowed 1 []) 0 0 0).low + n ∧ sget (windowOf (windowed 1 []) 0 0 0).pos (1 % n) = none ∧
       ∀ p ∈ [{ noPosition with it := 1, rt := true }, { noPosition with it := 1, lv := true }, { noPosition with it := 1 }],
         sget (windowOf (windowed 1 [(0, p)]) 0 0 0).pos (1 % n) = some p ∧ p.it = 1) ∧
    gate (windowed 0 []) 0 0 0 1 = .wait ∧ gate (windowed 2 []) 0 0 0 1 = .late ∧ gate (windowed 1 []) 0 0 0 1 = .claim ∧
    (let s := { windowed 1 [] with ctxs := [(0, { crewCtx with st := .ending })] }
     ctxOf s 0 = some { crewCtx with st := .ending } ∧ faultRoom s 0 0 0 1 = true ∧ faultRoom (flooded s) 0 0 0 1 = false) ∧
    (let y := slotOf { token with hdr := { token.hdr with seg := 1 } }
     let s := { laid with frm := { laid.frm with slots := [(0, y)] } }
     sget s.frm.slots (slotKey s 0 0 0 0 0) = some y ∧ y.seg ≠ token.hdr.seg) ∧
    (let s := inFlight { windowed 0 [] with tab := { laid.tab with blocks := [] } } (flightTo 0 0 token)
     ctxOf s 0 = some crewCtx ∧ blockOfSlot s 0 0 = none) := by
  refine ⟨?_, fun n _ => comes _ _ rfl, rfl, rfl, ⟨comes _ _ rfl, by decide +kernel, by decide +kernel, by decide +kernel⟩, by decide +kernel,
    by decide +kernel, by decide +kernel, by decide +kernel, by decide +kernel, by decide +kernel, by decide +kernel, by decide +kernel, by decide +kernel,
    by decide +kernel, by decide +kernel, by decide +kernel⟩
  intro t _
  exact ⟨comes _ _ rfl, rfl, by intro c hc; cases hc⟩

/-- A cancel of a running task's block and of one that rests, as it comes and as the frame store holds it, of a live frame and of one that has gone. -/
theorem witness_TokensTravelAndArrive_cancels :
    let f := flightTo 0 0 cancelToken
    let busy (s : State) : State := { s with pe := [(0, { stage := some 0, run := some (worker [same 1]), rel := [], behind := [], moved := false })] }
    let come (s : State) : State := inFlight s f
    let held (s : State) : State := { s with occ := ⟨20, 0, 0⟩, frm := { s.frm with cancels := [f] } }
    (∀ s ∈ [laid, busy laid], (∀ c ∈ (come s).frm.cancels, c.id ≠ (come s).occ.a) ∧ Claims.FrameTakes (come s) f crewCtx 0 block0 true ∧
      f.dest.slot = block0.slot0) ∧
    running (acceptFlight (claimFrame (come laid) 0 0 0 0) f) 0 0 0 0 0 = false ∧ running (acceptFlight (claimFrame (come (busy laid)) 0 0 0 0) f) 0 0 0 0 0 = true ∧
    (∀ s ∈ [laid, withFrame laid, busy laid], (held s).frm.cancels.find? (·.id == (held s).occ.a) = some f ∧ blockOfSlot (held s) 0 0 = some (0, block0)) ∧
    running (held (busy laid)) 0 0 0 0 0 = true ∧ running (held laid) 0 0 0 0 0 = false ∧ running (held (withFrame laid)) 0 0 0 0 0 = false ∧
    (∃ p, positionOf (held (withFrame laid)) 0 0 0 0 = some p ∧ p.lv = true) ∧
    (positionOf (held laid) 0 0 0 0).elim true (fun p => !p.lv) = true := by
  refine ⟨?_, by decide +kernel, by decide +kernel, by decide +kernel, by decide +kernel, by decide +kernel, by decide +kernel,
    ⟨_, rfl, rfl⟩, by decide +kernel⟩
  intro s hs
  simp only [List.mem_cons, List.not_mem_nil, or_false] at hs
  rcases hs with rfl | rfl <;>
    exact ⟨by decide +kernel, ⟨by decide +kernel, by decide +kernel, .inl rfl, by decide +kernel, by decide +kernel, by decide +kernel⟩, rfl⟩

/-- A queued block of an idle PE of its stage, a block at its end with and without an unconsumed GIVE, a task that ages, a stage that is short of
a PE, and a launch that stands still with a token held. -/
theorem witness_TasksFireAndCommit :
    (let s := { queued laid with pe := [(0, { stage := some 0, run := none, rel := [], behind := [], moved := false })] }
     s.occ.b ≤ 8 ∧ s.task? = none ∧ tileRuns s s.occ.a = true ∧ sget s.flt.resuming (s.occ.a * 9 + s.occ.b) = none ∧
       chosenTask s s.occ.a s.occ.b = some ready0 ∧ readyBlock s ready0 = some block0 ∧
       bufferFree (peAt s s.occ.a s.occ.b) = true ∧ fixEntries (setPe s 0 0 { peAt s 0 0 with moved := false }) ready0 block0 = s ∧
       fireFault s ready0 block0 0xA000 (entryTokens s ready0 block0) (newTask s ready0 block0 0xA000 (entryTokens s ready0 block0)) = none) ∧
    (∀ g ∈ [[], [(1, 5, false)]], let τ := { worker [same 1] with pos := 64, gives := g }
      let s := stage.setTask τ
      let s1 := continueRelease (drainLtld s s.occ.a) s.occ.a s.occ.b
      s1.task? = some τ ∧ τ.tid ≠ 0 ∧ τ.len < τ.pos) ∧
    (let s := queued laid
     (s.frm.ready.filter (·.tile == s.occ.a))[s.occ.b]? = some ready0 ∧ 0 < ready0.cls ∧ ready0.since + 4096 ≤ s.cyc ∧
       sget s.tab.cfgAt s.occ.a = some 0 ∧ 0 < s.cyc ∧ (s.cyc - 0) % 4096 = 0 ∧ balanceMove s s.occ.a = some (0, 0)) ∧
    (let s := { inFlight laid (flightTo 0 0 token) with occ := ⟨0, 0, 0⟩, cyc := 2 ^ 24 }
     sget s.sch.launches s.occ.a = some crewLaunch ∧ crewLaunch.placed = true ∧ crewLaunch.st ≠ .ending ∧
       workPending { s with net := { mesh := [], outs := [] } } s.occ.a = false ∧ crewLaunch.commitAt + 2 ^ 24 ≤ s.cyc ∧ workPending s s.occ.a = true ∧
       pendingCount s (originTile crewLaunch) < 1024) := by
  refine ⟨by decide +kernel, ?_, by decide +kernel, by decide +kernel⟩
  intro g hg
  simp only [List.mem_cons, List.not_mem_nil, or_false] at hg
  rcases hg with rfl | rfl <;> exact ⟨rfl, by decide, by decide⟩

end Sys2Proof.Tests
end

