-- ==== Sys2Proof/Tests/Engines.lean ====
section
/-! SUPPORT. Witnesses, part 4: small states that meet the hypotheses of the statements about accesses, ordering, translation, synchronisation
and the Dray. -/

open Sys2Proof Sys2Proof.Machine

namespace Sys2Proof.Tests

set_option Elab.async false
set_option linter.unusedSimpArgs false
set_option linter.unusedVariables false

/-! Accesses, responses and SC operations. -/

/-- The tile has a stash with one whole line of normal memory. -/
def stashed (s : State) : State :=
  { s with
    tab := { s.tab with plan := [(0, { stash := 1, loft := 0, ntrg := 3, plog2 := 6, wlog2 := 0 })] }
    mem := { s.mem with stash := (List.range 8).map (fun k => (64 + k, { val := 5, dirty := true, enc := 0 })) } }

/-- A lane of SC memory. -/
def scAt : Lane := { mkLane 0 64 4 7 7 with phys := some { pa := 64, mt := 1, enc := 0 } }

/-- A bank with a write; a load, a store and an atomic whose turn it is, at home and at the stash; readable and unreadable bytes. -/
theorem witness_AccessesArePerformedWhereTheyBelong :
    (let o := { opOf (.stp []) with lanes := [mkLane 0 64 4 7 0] }
     bankChoice (turnOf 0 2 [o]) 0 2 = some (o, mkLane 0 64 4 7 0)) ∧
    (∀ k ∈ [OpKind.ld .word, .st .word false, .amo .add, .cas false],
      let s := turnOf 9 0 [readyOp k]
      Claims.Subject s (readyOp k) ∧ mayPerform s (readyOp k) = true ∧ mayAdmit s (readyOp k) = false ∧
        ((readyOp k).lanes.foldl (Claims.laneStep .home 9) (some s)).isSome = true) ∧
    (∀ k ∈ [OpKind.ld .word, .st .word false], let o := { readyOp k with elem := 0 }
      let s := stashed (turnOf 9 0 [o])
      Claims.Subject s o ∧ mayPerform s o = true ∧ (o.lanes.foldl (Claims.laneStep .stash 9) (some s)).isSome = true ∧
        stashOn s o.tile o.elem = true ∧ stashBytes s o.tile 64 4 = some 0x05050505 ∧ (∀ k < 4, stashFails s o.tile (64 + k) = false)) ∧
    homeRead stage 0 64 4 = some 0 ∧ homeRead { stage with mem := { stage.mem with badWords := [(8, ())] } } 0 64 4 = none := by
  unfold Claims.Subject; decide +kernel

/-- A NaN and numbers, one less than the other. -/
theorem witness_AccessesArePerformedWhereTheyBelong_values :
    (num32 0x7FC00000).isNan = true ∧ (num32 0x3F800000).isNan = false ∧ (num32 0x40000000).isNan = false ∧
    numLt (num32 0x3F800000) (num32 0x40000000) = true ∧ (0x7FC00000 : Nat) < 2 ^ 32 ∧ (2 ^ 64 - 1 : Nat) < 2 ^ 64 := by decide +kernel

/-- Bytes of no park area and no active hitch, with an error and without; a line of the stash that is present, and one that is not. -/
theorem witness_AccessesArePerformedWhereTheyBelong_bytes :
    (∀ k, k < 4 → parkFixed stage (64 + k) = false ∧ sget stage.syn.hitches ((64 + k) / 64 * 64) = none ∧ badAt stage (64 + k) = false) ∧
    (∀ a, sget stage.mem.encTag (a / 64) = none) ∧
    (∃ k, k < 4 ∧ badAt { stage with mem := { stage.mem with badWords := [(8, ())] } } (64 + k) = true) ∧
    linePresent (stashed stage) 0 (64 / 128) = true ∧ makeRoom (stashed stage) 0 (64 / 128) = stashed stage ∧
    (∃ k, k < 4 ∧ sget (stashed stage).mem.stash (stashKey 0 128 + k) = none) ∧
    ∀ k, k < 4 → (sget (stashed stage).mem.stash (stashKey 0 64 + k)).isSome = true := by
  have h : linePresent (stashed stage) 0 (64 / 128) = true := by decide +kernel
  exact ⟨by decide +kernel, fun a => rfl, by decide +kernel, h, by rw [makeRoom, if_pos h], by decide +kernel, by decide +kernel⟩

/-- A load behind an older one whose token may leave; a list of words with errors that is full, and a block with two of them. -/
theorem witness_ResponsesChainsAndScrubs_lists :
    (let o := { readyOp (.ld .word) with phase := .done }
     let p := { o with id := 3 }
     let s := turnOf 9 0 [p, o]
     Claims.Subject s o ∧ p ∈ s.ops ∧ sameStream p o = true ∧ issuedBefore p o = true ∧ p.phase = .done ∧ p.tid = 0 ∧
       emitRoom s p (resultLanes p) = true ∧ ∀ x ∈ s.ops, stopped x = false) ∧
    (let s := { turnOf 0 1 [] with mem := { stage.mem with latent := [(11, ())], badWords := List.replicate 256 (16, ()) } }
     let s1 := correctAt s (1 * 64) 64
     (∀ k < 8, (sget s1.mem.latent (1 * 8 + k)).isSome = decide (k = 3)) ∧
       256 ≤ (s1.mem.badWords.filter (fun p => controller s1 (p.1 * 8) == controller s1 (1 * 64))).length) ∧
    let s := { turnOf 0 1 [] with mem := { stage.mem with latent := [(10, ()), (11, ())] } }
    let s1 := correctAt s (1 * 64) 64
    (sget s1.mem.latent (1 * 8 + 2)).isSome = true ∧ (sget s1.mem.latent (1 * 8 + 3)).isSome = true ∧
      (s1.mem.badWords.filter (fun p => controller s1 (p.1 * 8) == controller s1 (1 * 64))).length + 8 ≤ 256 := by
  unfold Claims.Subject
  decide +kernel

/-- A load that is the oldest of its stream, and one that an older load, not done yet, keeps waiting; a chain's first node in order. -/
theorem witness_ResponsesChainsAndScrubs_order :
    (let o := { readyOp (.ld .word) with phase := .done }
     isLoad o.kind = true ∧ inOrder (turnOf 9 0 [o]) o = true ∧
      ∀ ph ∈ [Phase.queued, .ready], let p := { readyOp (.ld .word) with id := 3, phase := ph }
        let s := turnOf 9 0 [p, o]
        Claims.Subject s o ∧ p ∈ s.ops ∧ sameStream p o = true ∧ issuedBefore p o = true ∧ p.phase = ph ∧ ∀ x ∈ s.ops, stopped x = false) ∧
    (let o := { readyOp (.ldch 0 0 3 4 0) with phase := .done }
     Claims.Subject (turnOf 9 0 [o]) o ∧ inOrder (turnOf 9 0 [o]) o = true) := by unfold Claims.Subject; decide +kernel

/-- A chain's last node, and one with a next node; a line that is present; words with errors that nothing has found yet. -/
theorem witness_ResponsesChainsAndScrubs :
    (∀ k ∈ [OpKind.ld .word, .amo .add, .cas false, .amosc .add, .amof .fadd], let o := { readyOp k with phase := .done }
      Claims.Subject (turnOf 9 0 [o]) o ∧ o.phase = .done ∧ o.tid = 0 ∧ o.elem ≠ 14 ∧ Claims.answers o.kind = true) ∧
    (∀ r ∈ [(0 : Nat), 1], let o := { readyOp (.ldch 0 0 3 4 1) with phase := .done, lanes := [{ laneAtPa 64 4 with res := r * 64 }] }
      Claims.Subject (turnOf 9 0 [o]) o ∧ (∀ x ∈ o.lanes, x.flt = 0) ∧ emitRoom (turnOf 9 0 [o]) o (resultLanes o) = true ∧
        (o.lanes.filter (fun x => x.res != 0 && decide (1 + 1 < 3))).length = r ∧
        ∀ x ∈ o.lanes, vaCheck (((o.cx.bases.getD 0 0).toNat : Int) + (BitVec.ofNat 32 x.res + (4 : BitVec 16).signExtend 32 : Word).toInt * (4 ^ 0 : Nat)) 4 4 = none) ∧
    linePresent (stashed (turnOf 0 0 [])) 0 0 = true ∧
    (∀ k ∈ [8, 2 ^ 40, 2 ^ 60], sget (correctSoft stage 0 k 1).mem.sramLatent k = none ∧
      (sget (correctSoft { stage with mem := { stage.mem with sramLatent := [(k, ())] } } 0 k 1).mem.sramLatent k).isSome = true) ∧
    (let s := { turnOf 0 1 [] with mem := { stage.mem with latent := [(11, ())] } }
     let s1 := correctAt s (1 * 64) 64
     (∀ k < 8, (sget s1.mem.latent (1 * 8 + k)).isSome = decide (k = 3)) ∧
       (s1.mem.badWords.filter (fun p => controller s1 (p.1 * 8) == controller s1 (1 * 64))).length < 256) ∧
    (∀ k < 8, sget (correctAt (turnOf 0 1 []) (1 * 64) 64).mem.latent (1 * 8 + k) = none) := by unfold Claims.Subject; decide +kernel

/-- An SC atomic that is admitted, that is to be admitted, and none; a node that keeps the baton; a change of SMODE. -/
theorem witness_ScOperationsFollowTheirOrder :
    let o := { readyOp (.amosc .add) with lanes := [scAt] }
    let sc (smode : Bool) : State := let s := turnOf 0 0 ((upto 9).map (fun k => { o with id := 9 + k }))
      { s with syn := { s.syn with smode := smode, admitted := (upto 9).map (9 + ·), baton := nodeOf s 9 } }
    ((sc false).syn.smode = false ∧ sget (sc false).syn.stuck (sc false).syn.baton = none ∧
      ((sc false).syn.admitted.filter (fun id => nodeOf (sc false) id == (sc false).syn.baton)).length = 9) ∧
    ((sc true).syn.smode = true ∧ (sc true).syn.admitted = 9 :: (upto 8).map (10 + ·) ∧ (opById (sc true) 9).isSome = true ∧
      (scLane (Claims.unadmit (sc true) 9) { o with id := 9 }).isSome = true ∧ opById (sc true) 99 = none ∧ scLane (sc true) { o with lanes := [] } = none) ∧
    (let s := { turnOf 0 0 [] with cyc := 2 ^ 16, syn := { stage.syn with smode := false, baton := 0, stuck := [(0, 0)] } }
     s.syn.smode = false ∧ s.syn.baton = s.occ.a ∧ (∃ since, sget s.syn.stuck s.occ.a = some since ∧ since + 2 ^ 16 ≤ s.cyc) ∧ pendingCount s 0 < 1024 ∧
       sget s.syn.stuck s.syn.baton ≠ none ∧ ¬ (1 + 2 ^ 16 ≤ s.cyc)) ∧
    (let m := opOf .mtsr
     let s := { turnOf 0 0 [m] with syn := { stage.syn with smodeNext := some (false, 9), admitted := [] } }
     s.syn.smodeNext = some (false, 9) ∧ opById s 9 = some m ∧ s.syn.admitted = [] ∧ emitFits s m (statusLanes m.w [0]) = true ∧
       opById { s with ops := [] } 9 = none ∧ (sc true).syn.admitted ≠ []) ∧
    Claims.Subject (turnOf 9 0 [o]) o ∧ mayPerform (turnOf 9 0 [o]) o = true ∧ mayAdmit (turnOf 9 0 [o]) o = true ∧
    mayAdmit (turnOf 9 0 [o]) { o with lanes := [] } = false := by
  refine ⟨by decide +kernel, by decide +kernel, ⟨rfl, rfl, ⟨0, rfl, by decide⟩, by decide +kernel⟩, by decide +kernel,
    by unfold Claims.Subject; decide +kernel, by decide +kernel, by decide +kernel, by decide +kernel⟩

/-! Translation. -/

/-- A lane of a queued access to `va`. -/
def queuedAt (va : Int) : Op := { opOf (.ld .word) with lanes := [mkLane 0 va 4 0 0] }
/-- The ASID table at 0 gives the root table page at 2^13; its entry 0 leads down three pages to a leaf for page 0 that a user may write. -/
def tables : List Host.Cell :=
  [(0, 1), (1, 0x20), (0x2000, 1), (0x2001, 0x40), (0x4000, 1), (0x4001, 0x60), (0x6000, 1), (0x6001, 0x80), (0x8000, 0x1F)]
def walking (w : Walk) : State :=
  { turnOf 0 0 [] with mem := { stage.mem with dram := tables }, xl := { stage.xl with walks := [w] } }
def miss0 : Miss := { tile := 0, asid := 0, vpn := 5, wr := false, waiters := [], sent := true, root := false }
def walk0 : Walk := { quad := 0, asid := 0, vpn := 0, wr := true, running := true, root := true }

/-- A hit, a hit whose check fails, a miss with room and without; a walk that waits, that ends with a leaf, and that ends with a fault. -/
theorem witness_TranslationsAreLookedUpAndWalked :
    (let o := queuedAt 64
     Claims.Subject (turnOf 9 0 [o]) o ∧ o.phase = .queued ∧ translates o.kind = true ∧ o.lanes ≠ []) ∧
    (let o := opOf .sflush
     Claims.Subject (turnOf 9 0 [o]) o ∧ o.phase = .queued ∧ translates o.kind = true ∧ o.lanes = []) ∧
    (let o := { opOf (.dcopy 0 0) with phase := .active }
     Claims.Subject (turnOf 9 0 [o]) o ∧ o.phase = .active ∧ drayMoves o.kind = true) ∧
    (let o := queuedAt 64
     let x := mkLane 0 64 4 0 0
     let s := turnOf 9 0 [o]
     x.phys = none ∧ x.flt = 0 ∧ waitsIn s o (x.va.toNat / 2 ^ 16) = false ∧ tbFind s o.tile o.cx.asid x.va.toNat = some wholePage ∧
       (isWrite o.kind && wholePage.wr && !wholePage.d) = false ∧ leafCheck s (wantOf o) wholePage x.va.toNat = none ∧
       leafCheck s (wantOf o) { wholePage with mt := 2 } x.va.toNat = some (causeAccess, 0x0A)) ∧
    (let o := queuedAt (2 ^ 36)
     let s := turnOf 9 0 [o]
     waitsIn s o (2 ^ 36 / 2 ^ 16) = false ∧ tbFind s o.tile o.cx.asid (2 ^ 36) = none ∧
       (∀ m ∈ s.xl.misses, ¬ (m.tile = o.tile ∧ m.asid = o.cx.asid ∧ m.vpn = 2 ^ 36 / 2 ^ 16)) ∧ missesOf s o.tile < 16 ∧
       16 ≤ missesOf { s with xl := { s.xl with misses := List.replicate 16 miss0 } } o.tile) ∧
    (let w := { walk0 with running := false }
     let s1 := sendMisses (walking w) 0
     (s1.xl.walks.filter (fun w => w.quad == 0 && w.running)).length < 64 ∧ s1.xl.walks.find? (fun w => w.quad == 0 && !w.running) = some w) ∧
    (let s := walking walk0
     (s.xl.walks.filter (fun w => w.quad == s.occ.a && w.running))[s.occ.b]? = some walk0 ∧
       (walk s 0 walk0.asid (walk0.vpn * 2 ^ 16) walk0.wr walk0.root).2.toOption.isSome = true ∧
       (walk s 0 1 (walk0.vpn * 2 ^ 16) walk0.wr walk0.root).2.toOption = none ∧ (asidRoot s 0).2.toOption = some 0x2000 ∧
       (walkDown 0 3 0x2000 [] s).2.leaf.toOption = some (0, 0x8000, 0x1F) ∧
       (tableRead s 0x2000).2.toOption = some 0x4001 ∧ (pteCheck 3 0x4001).toOption = some () ∧ bit 0x4001 1 = false ∧
       (tableRead s 0x8000).2.toOption = some 0x1F ∧ (pteCheck 0 0x1F).toOption = some () ∧ bit 0x1F 1 = true ∧
       (tableRead s 0x2008).2.toOption = some 0 ∧ (pteCheck 3 0).toOption = none) := by unfold Claims.Subject; decide +kernel

/-! Synchronisation. -/

/-- A store of the context that comes before the operation under way, at home last. -/
def before (o : Op) (k : OpKind) (ph : Phase) : Op := { o with id := 5, kind := k, phase := ph, blk := o.blk + 1 }
def hitch0 : Hitch := { excl := none, shared := [], abn := false, gseq := 4, asid := 0, enc := 0, fifo := [], regions := [(4096, 64)] }
def withHitch (h : Hitch) (s : State) : State := { s with syn := { s.syn with hitches := [(64, h)] } }
def phys64 : Phys := { pa := 64, mt := 0, enc := 0 }

/-- A free, an exclusive and a shared hold; an operation at its engine; barriers with all members and with one to come; counts met and not; a fence
with and without an earlier load; a pen of a PE and of an engine; a waiter; a context that is ENDING, and one that is busy. -/
theorem witness_SynchronisationIsPerformed :
    (∀ k ∈ [OpKind.hreq .x false, .hrel .x, .bar true 5, .spawn 1 true, .hbind], let o := { readyOp k with lanes := [laneAtPa 64 8, laneAtPa 4096 8] }
      (∃ x p r, Claims.AtEngine (turnOf 9 0 [o]) o x p r) ∧ storesAcked (turnOf 9 0 [o]) o = true ∧ spawnRoom (turnOf 9 0 [o]) o = true ∧
        (k = .bar true 5 → mayArrive (turnOf 9 0 [o]) o 5 = true) ∧ o.n = 0 ∧ { o with n := 1 }.n = 1 ∧ { o with n := 3 }.n = 3) ∧
    (let o := readyOp (.hreq .x false)
     (Claims.HitchAt (withHitch hitch0 (turnOf 9 0 [o])) o phys64 hitch0 ∧ holds hitch0 o.ctx = false ∧
       engineWaits (withHitch hitch0 (turnOf 9 0 [o])) 64 < 8192 ∧ releaseFault (withHitch hitch0 (turnOf 9 0 [o])) o phys64 true = none ∧
       releaseFault (withHitch hitch0 (turnOf 9 0 [o])) o phys64 false = some 0x03) ∧
     ∀ h ∈ [{ hitch0 with excl := some 0 }, { hitch0 with shared := [0] }], Claims.HitchAt (withHitch h (turnOf 9 0 [o])) o phys64 h ∧ holds h o.ctx = true) ∧
    (∀ k ∈ [OpKind.hreq .x false, .bar true 5, .spawn 1 true], let o := { readyOp k with phase := .done, lanes := [laneAtPa 64 8] }
      Claims.Subject (turnOf 9 0 [o]) o ∧ o.tile < 384 ∧ ∃ x p r, o.lanes = x :: r ∧ x.phys = some p) ∧
    (let o := opOf (.bar false 0)
     let m : Meeting := { q := 0, key := 0, gen := 3, arrived := [] }
     let s := { turnOf 9 0 [o] with syn := { stage.syn with bars := [m] } }
     Claims.Subject s o ∧ o.tid = 0 ∧ fenced s o = false ∧ mayArrive s o 0 = true ∧ o.n = 0 ∧ o.phase = .queued ∧
       s.syn.bars.find? (fun m => m.q == o.cx.q && m.key == 0) = some m ∧ barMembers s o.cx.q 0 = [0] ∧ opTile s o = 0 ∧
       ∃ t ∈ barMembers { s with sch := { s.sch with launches := [(0, { crewLaunch with wd := 2, gw := 2 })] } } o.cx.q (2 ^ 9), t ≠ 0) ∧
    (let o := opOf (.wait 0 63 0 0)
     Claims.TileSubject (turnOf 0 9 [o]) o ∧ o.tid = 0 ∧ outstanding (turnOf 0 9 [o]) o.tile o.ctx countsLoad ≤ 0 ∧
       ¬ outstanding (turnOf 0 9 [o, before o (.ld .word) .ready]) o.tile o.ctx countsLoad ≤ 0) ∧
    (let o := opOf (.fence 0)
     Claims.TileSubject (turnOf 0 9 [o]) o ∧ o.tid = 0 ∧ fenced (turnOf 0 9 [o]) o = false ∧
       (∃ p ∈ (turnOf 0 9 [o, before o (.ld .word) .ready]).ops, p.tile = o.tile ∧ p.ctx = o.ctx ∧ portBefore p o = true ∧ fenceWaits 0 p = true) ∧
       ∀ p ∈ (turnOf 0 9 [o]).ops, portBefore p o = true → fenceWaits 0 p = false) ∧
    (let o := opOf (.give 1 5)
     let s := turnOf 9 0 [o]
     let s1 := writeBackAll (drainStp s o.tile) o.tile
     Claims.Subject s o ∧ o.phase = .queued ∧ storesAcked s o = true ∧ storesHome s1 o = true ∧ (∀ p ∈ s.ops, ¬ p.id < o.id) ∧
       (∀ p ∈ s1.ops, p.tile = o.tile → p.ctx = o.ctx → isStp p.kind = true → p.tid = 0 → o.id ≤ p.id) ∧ s.ops = [o] ∧
       penAt s1 o.tile 1 = some plainPen ∧ (penAt s1 o.tile 2).elim false (·.own) = true) ∧
    (let w : Waiter := .pe true 0 0 0 0 0 3 0
     let t := { trough0 with waiters := [.pe false 0 0 0 0 0 1 0] ++ w :: [], free := 0 }
     let s := { turnOf 0 0 [] with tab := { stage.tab with troughs := [(0, t)] } }
     (ownedBy s 0 0 0 0).length < 8 ∧
       (let full := { s with frm := { s.frm with owned := List.replicate 8 (heldSlot 0 3 false) } }
        8 ≤ (ownedBy full 0 0 0 0).length ∧ faultRoom full 0 0 0 0 = true ∧ troughAt full 0 0 = some t) ∧
       troughAt s 0 0 = some t ∧ w ∉ [Waiter.pe false 0 0 0 0 0 1 0] ∧ (∀ v ∈ [Waiter.pe false 0 0 0 0 0 1 0], (if v.takes then t.filled else t.free) = 0) ∧
       0 < (if true then t.filled else t.free) ∧ notifyRoom s 0 0 0 0 0 0 (t.pen0 + t.nxt) = true) ∧
    (let s := turnOf 3 0 []
     ctxOf s 3 = some { crewCtx with st := .ending } ∧ contextBusy s 3 { crewCtx with st := .ending } = false ∧ endings s 3 = [] ∧
       (∀ l, sget s.sch.launches 0 = some l → l.placed = true) ∧ storesAcked s (opOf (.ctxf 3)) = true ∧
       contextBusy (turnOf 0 0 [opOf .mzero]) 0 crewCtx = true) := by
  refine ⟨?_, by unfold Claims.HitchAt; decide +kernel, ?_, by unfold Claims.Subject; decide +kernel, by unfold Claims.TileSubject; decide +kernel,
    by unfold Claims.TileSubject; decide +kernel, by unfold Claims.Subject; decide +kernel, by decide +kernel, ?_⟩
  · intro k hk
    simp only [List.mem_cons, List.not_mem_nil, or_false] at hk
    rcases hk with rfl | rfl | rfl | rfl | rfl <;> exact ⟨⟨_, _, _, ⟨rfl, rfl, rfl, rfl, rfl, rfl⟩⟩, by decide +kernel⟩
  · intro k hk
    simp only [List.mem_cons, List.not_mem_nil, or_false] at hk
    rcases hk with rfl | rfl | rfl <;> exact ⟨rfl, by decide, _, _, _, rfl, rfl⟩
  · refine ⟨rfl, by decide +kernel, rfl, ?_, rfl, by decide +kernel⟩
    intro l hl
    cases hl
    decide +kernel

/-- A request of each kind at a hitch that lets it pass and at one that does not, with the engine's queues full; two shared requests at the head. -/
theorem witness_SynchronisationIsPerformed_requests :
    (let o := readyOp (.hreq .x false)
     let s := fun h => withHitch h (turnOf 9 0 [o])
     (∀ h ∈ [hitch0, { hitch0 with excl := some 5 }, { hitch0 with shared := [5] }, { hitch0 with regions := [] }],
       Claims.HitchAt (s h) o phys64 h ∧ holds h o.ctx = false ∧ engineWaits (s h) 64 < 8192 ∧ opById (s h) o.id = some o ∧ h.fifo = []) ∧
     Claims.Blocked { hitch0 with excl := some 5 } .s ∧ Claims.Blocked { hitch0 with shared := [5] } .x ∧
     Claims.Blocked { hitch0 with shared := [5], fifo := [{ op := 4, ctx := 6, kind := .x }] } .s ∧
     (∀ k, ¬ Claims.Blocked hitch0 k) ∧ (∀ k ∈ [HKind.s, .p], ¬ Claims.Blocked { hitch0 with shared := [5] } k) ∧
     8192 ≤ engineWaits (s { hitch0 with fifo := List.replicate 8192 { op := 4, ctx := 6, kind := .x } }) 64) ∧
    let a : HReq := { op := 9, ctx := 0, kind := .s }
    let b : HReq := { op := 10, ctx := 1, kind := .s }
    let oa := { readyOp (.hreq .s false) with phase := .active }
    let ob := { oa with id := 10, ctx := 1 }
    let h := { hitch0 with fifo := [a, b] }
    let s := withHitch h (turnOf 9 0 [oa, ob])
    sget s.syn.hitches 64 = some h ∧ h.excl = none ∧ a.op ≠ b.op ∧ opById s a.op = some oa ∧ opById s b.op = some ob := by
  refine ⟨⟨?_, ?_, ?_, ?_, ?_, ?_, ?_⟩, by decide +kernel⟩
  · unfold Claims.HitchAt
    exact each (by decide +kernel)
  iterate 5 simp [Claims.Blocked, hitch0]
  simp [engineWaits, withHitch, -List.reduceReplicate]

theorem ok_of {ε α : Type} {x : Except ε α} (h : x.toOption.isSome = true) : ∃ a, x = .ok a := by
  cases x with
  | ok a => exact ⟨a, rfl⟩
  | error e => cases h

theorem error_of {ε α : Type} {x : Except ε α} (h : x.toOption.isSome = false) : ∃ e, x = .error e := by
  cases x with
  | ok a => cases h
  | error e => exact ⟨e, rfl⟩

/-- A hitch that is not active, with its image good, not an image, and not to be read; an engine with 4,096 active hitches; a hitch of another address
space, one that is used, one that is not; an address that is no hitch's. -/
theorem witness_SynchronisationIsPerformed_images :
    (∀ d ∈ [[], [(71, (0x80 : BitVec 8))]], let s := { stage with mem := { stage.mem with dram := d } }
      sget s.syn.hitches 64 = none ∧ (s.syn.hitches.filter (fun x => controller s x.1 == controller s 64)).length < 4096 ∧
        ∃ v, homeRead s 0 64 64 = some v ∧ (if d = [] then v < 2 ^ 63 ∧ v % 2 ^ 62 < 2 ^ 32 else ¬ v < 2 ^ 63)) ∧
    homeRead { stage with mem := { stage.mem with badWords := [(8, ())] } } 0 64 64 = none ∧
    (let s := { stage with syn := { stage.syn with hitches := List.replicate 4096 (128, hitch0) } }
     sget s.syn.hitches 64 = none ∧ 4096 ≤ (s.syn.hitches.filter (fun x => controller s x.1 == controller s 64)).length) ∧
    hitchPlace phys64 = true ∧ hitchPlace { phys64 with mt := 1 } = false ∧
    (∃ a, activate (correctAt stage 64 64) phys64 0 = .ok a) ∧
    (∃ e, activate (correctAt { stage with mem := { stage.mem with badWords := [(8, ())] } } 64 64) phys64 0 = .error e) ∧
    (∀ h ∈ [hitch0, { hitch0 with regions := [], asid := 7 }], sget (withHitch h stage).syn.hitches 64 = some h ∧ h.excl = none ∧ h.shared = [] ∧ h.fifo = [] ∧
      (h.regions = [] ∨ h.regions ≠ []) ∧ (h.asid = 0 ∨ h.asid ≠ crewCtx.asid)) ∧ causeHitch ≠ causeMemUe := by
  refine ⟨?_, by decide +kernel, ⟨?_, ?_⟩, by decide +kernel, by decide +kernel, ok_of (by decide +kernel), error_of (by decide +kernel), each (by decide +kernel), by decide⟩
  · intro d hd
    simp only [List.mem_cons, List.not_mem_nil, or_false] at hd
    rcases hd with rfl | rfl
    · exact ⟨by decide +kernel, by decide +kernel, 0, by decide +kernel, by decide +kernel⟩
    · exact ⟨by decide +kernel, by decide +kernel, 2 ^ 63, by decide +kernel, by decide +kernel⟩
  · decide +kernel
  · decide +kernel

/-- Bindings at a hitch that the context holds and that it does not: a region of one unit at the end of a page, one that leaves it, that is not aligned,
whose address failed, of SC memory, that meets a bound one; a hitch with 16 regions, an engine with 16,384, and the region that is bound. -/
theorem witness_SynchronisationIsPerformed_bindings :
    let o := { readyOp .hbind with lanes := [laneAtPa 64 64] }
    let mine := { hitch0 with excl := some 0 }
    let s := fun h => withHitch h (turnOf 9 0 [o])
    let at' := fun (va : Int) (len : Nat) => { mkLane 1 va len 0 0 with phys := some { pa := va.toNat, mt := 0, enc := 0 } }
    (∀ h ∈ [hitch0, mine], Claims.HitchAt (s h) o phys64 h) ∧ hitch0.excl ≠ some o.ctx ∧ mine.excl = some o.ctx ∧
    ((at' 3968 128).va % 128 = 0 ∧ (at' 3968 128).va.toNat % 4096 + (at' 3968 128).len ≤ 4096) ∧
    ((at' 64 128).va % 128 ≠ 0 ∧ 4096 < (at' 3968 256).va.toNat % 4096 + (at' 3968 256).len) ∧
    (let x := { at' 128 128 with flt := causePage * 256 + 1, phys := none }
     x.flt ≠ 0 ∧ x.flt / 256 ≠ causeHitch) ∧ ({ phys64 with mt := 1 } : Phys).mt ≠ 0 ∧
    (let all := ((s mine).syn.hitches.map (fun y => y.2.regions)).flatten
     (∃ t ∈ all, t.1 < 4096 + 128 ∧ 4096 < t.1 + t.2) ∧ ¬ (∃ t ∈ all, t.1 < 128 + 128 ∧ 128 < t.1 + t.2) ∧
       (all.filter (fun t => controller (s mine) t.1 == controller (s mine) 128)).length < 16384 ∧ mine.regions.length < 16 ∧
       16 ≤ ({ mine with regions := List.replicate 16 (4096, 64) } : Hitch).regions.length) ∧
    (let t := { s mine with syn := { stage.syn with hitches := [(64, mine), (128, { hitch0 with regions := List.replicate 16384 (4096, 64) })] } }
     let all := (t.syn.hitches.map (fun y => y.2.regions)).flatten
     ¬ (∃ r ∈ all, r.1 < 4224 + 128 ∧ 4224 < r.1 + r.2) ∧ 16384 ≤ (all.filter (fun r => controller t r.1 == controller t 4224)).length) ∧
    (4096, 64) ∈ mine.regions ∧ (128, 128) ∉ mine.regions := by
  intro o mine s at'
  refine ⟨by unfold Claims.HitchAt; exact each (by decide +kernel), by decide, rfl, by decide +kernel, by decide +kernel, by decide, by decide, by decide +kernel,
    ?_, by decide, by decide⟩
  · intro t all
    have e : all = (4096, 64) :: List.replicate 16384 (4096, 64) := by simp [all, t, mine, hitch0, -List.reduceReplicate]
    have h : controller t 4096 = controller t 4224 := by decide +kernel
    rw [e]
    constructor
    · simp [-List.reduceReplicate]
    · simp [h, List.filter_replicate, -List.reduceReplicate]

/-- A child of SPAWN.h whose place is a tile of the launch, and one whose place is none. -/
theorem witness_SynchronisationIsPerformed_places :
    placeTile stage 0 0 = some (0, 0) ∧ placeTile stage 0 5 = none := by decide +kernel

/-! The Dray. -/

/-- A command with these parameters whose pen, 2, is channel 0's. -/
def command (k : OpKind) (ws : List Word) : Op := { opOf k with a := lanes ws, elem := 13 }
def chanPen : Pen := { plainPen with own := true, eng := 1 }
def channelOf (s : State) : State :=
  { s with tab := { s.tab with pens := [(1, plainPen), (2, chanPen), (4, { plainPen with own := true, eng := 8, base := 32 })] } }
def lpen2 : Word := 2 * 2 ^ 22

theorem commanded (s : State) (o : Op) (h : (channelHead s s.occ.a s.occ.b = some o ∧ penAt s o.tile (lpen o) = some chanPen ∧ s.occ.b = 0) ∧
    chanOf o.kind = some s.occ.b) : Claims.Commanded s o := ⟨h.1.1, chanPen, h.1.2.1, rfl, by rw [h.1.2.2]; rfl, h.2⟩

/-- The package has its number, or not. -/
def devIdv (b : Bool) : State := { stage with dev := { stage.dev with idv := b } }

/-- A completion whose token leaves, and one whose token's tag raises a fault that finds no room. -/
theorem witness_DrayCommandsArePerformed_completions :
    let o := { command (.dcopy 0 0) [lpen2] with phase := .done }
    let up := { o with port := some { top := 3, dests := [⟨0, 0, 0, 0⟩] } }
    (channel (turnOf 0 0 [o]) 0 0).find? (·.phase == .done) = some o ∧ emitFits (turnOf 0 0 [o]) o o.a = true ∧
      (channel (flooded (turnOf 0 0 [up])) 0 0).find? (·.phase == .done) = some up ∧ emitFits (flooded (turnOf 0 0 [up])) up up.a = false := by
  decide +kernel

/-- Commands of each kind at the head of channel 0, with a destination and without; a pen that the channel has not; a remote write whose trough gives
a slot, has none, and is an engine's, and one at its pen; the last member of a reduction; appends. -/
theorem witness_DrayCommandsArePerformed :
    (∀ k ∈ [OpKind.dcopy 0 0, .dcopy 1 0, .dgath 0, .dscat 0, .dcopy 2 0, .dcopy 3 0, .dhop 0, .dcopy 4 0, .dbcst 0 true, .dred 0 .sum true],
      let o := command k [lpen2, 4 * 2 ^ 22, 0, 8, 3 * 2 ^ 26, 0, 0, 0]
      let s := channelOf (turnOf 0 0 [o])
      Claims.Commanded s o ∧ (destTile s o).toOption = some 0 ∧ groupTiles s o = [0]) ∧
    (let o := command (.dcopy 2 0) [lpen2, 4 * 2 ^ 22, 0, 8, 511]
     Claims.Commanded (channelOf (turnOf 0 0 [o])) o ∧ (destTile (channelOf (turnOf 0 0 [o])) o).toOption = none) ∧
    (let o := command (.dcopy 0 0) [2 ^ 22]
     channelHead (channelOf (turnOf 0 0 [o])) 0 0 = some o ∧ penAt (channelOf (turnOf 0 0 [o])) o.tile (lpen o) = some plainPen ∧ plainPen.own = false) ∧
    (let o := { command (.dcopy 0 0) [lpen2] with phase := .active, lanes := [{ mkLane 0 64 8 0 0 with phys := some phys64 }] }
     let s := channelOf (turnOf 0 0 [o])
     let sram (s : State) : Option Nat := sramRead s (penByte s o.tile (lpen o) 0) 8
     let home (s : State) : Option Nat := homeRead s 0 64 8
     (channel s s.occ.a s.occ.b).find? movesReady = some o ∧ opById s 9 = some o ∧ ownsLpen s o = true ∧ ownsLpen (turnOf 0 0 [o]) o = false ∧
       isWrite (.dcopy 0 0) = false ∧ isWrite (.dcopy 1 0) = true ∧ (sram s).isSome = true ∧
       sram { s with mem := { s.mem with sramBad := [(0, ())] } } = none ∧ (home s).isSome = true ∧
       home { s with mem := { s.mem with badWords := [(8, ())] } } = none ∧ isRemote 64 = false) ∧
    ((∀ a ∈ [64, 2 ^ 41 - 64, 2 ^ 34], isRemote (2 ^ 51 + a) = true ∧ bits (2 ^ 51 + a) 41 10 = stage.dev.pkgid.toNat ∧ (2 ^ 51 + a) % 2 ^ 41 = a) ∧
      (devIdv true).dev.idv = true ∧ (devIdv false).dev.idv = false ∧ bits (2 ^ 51 + 2 ^ 41) 41 10 ≠ stage.dev.pkgid.toNat ∧
      dramRow (2 ^ 41 - 64) = none ∧ (dramRow 64).isSome = true ∧ dramPresent stage 64 = true ∧
      dramPresent { stage with dev := { stage.dev with quads := [] } } 64 = false) ∧
    (∀ n ∈ [(1 : Nat), 3, 4], let o := { command (.dcopy 3 0) [lpen2, 0, 0, 8] with phase := .active }
      let r := slotRemote o 0
      let t := if n = 1 then { trough0 with pkind := 2 } else if n = 3 then { trough0 with pkind := 2, free := 0 } else trough0
      let s0 := channelOf (turnOf 9 0 [o])
      let s := { s0 with tab := { s0.tab with troughs := [(0, t)] }, syn := { s0.syn with remotes := [r] } }
      Claims.RemoteOf s o r ∧ r.pen = none ∧ troughOk s r.tile r.trough = some t ∧ mayMove t false = decide (n ≠ 3) ∧ (t.pkind = 2 ↔ n ≠ 4) ∧
        Waiter.dray false r.op ∉ t.waiters ∧ r.stage = 0 ∧ { r with stage := 2 }.stage = 2 ∧ sgetD s.dev.qcur (quadOf r.tile) 0 ≠ 2 ∧
        sgetD ({ s with dev := { s.dev with qcur := [(0, 2)] } } : State).dev.qcur (quadOf r.tile) 0 = 2 ∧ ownsLpen s o = true ∧ ownsLpen (turnOf 9 0 [o]) o = false) ∧
    (∀ p ∈ [((1 : Nat), (2 ^ 22 : Word)), (4, 2 ^ 24)], let o := { command (.dcopy 2 0) [lpen2, p.2, 0, 8] with phase := .active }
      let r := penRemote o 0
      let s0 := channelOf (turnOf 9 0 [o])
      let s := { s0 with syn := { s0.syn with remotes := [r] } }
      Claims.RemoteOf s o r ∧ r.pen = some p.1 ∧ r.stage = 0 ∧ ownsLpen s o = true ∧ destCheck s o r p.1 (paramAt o 3) = (if p.1 = 1 then some 0x0D else none) ∧
        (penRead s o.tile (paramAt o 0) (paramAt o 3)).isSome = true) ∧
    (let o := { command (.dred 0 .sum true) [lpen2, 0, 0, 8, 0, 0] with phase := .active }
     let m : Meeting := { q := 0, key := 0, gen := 0, arrived := [(0, 9)] }
     let s0 := channelOf (turnOf 9 0 [o])
     let s := { s0 with syn := { s0.syn with dreds := [m] } }
     Claims.Subject s o ∧ s.syn.dreds.find? (fun m => m.arrived.any (·.2 == o.id)) = some m ∧ (subgroup crewLaunch (m.key % 2 ^ 16)).elim [] members = [0] ∧
       (m.arrived.foldr insertMember []).filterMap (fun x => opById s x.2) = [o] ∧ ownsLpen s o = true ∧ (penRead s o.tile (paramAt o 0) (paramAt o 3)).isSome = true) ∧
    (∀ ph ∈ [Phase.done, .failed], let o := { command (.dcopy 0 0) [lpen2] with phase := ph }
      (channel (turnOf 0 0 [o]) 0 0).find? (·.phase == ph) = some o ∧ mayReport (turnOf 0 0 [o]) o = decide (ph = .failed)) := by
  unfold Claims.RemoteOf Claims.Subject
  refine ⟨?_, ⟨commanded _ _ (by decide +kernel), by decide +kernel⟩, by decide +kernel, by decide +kernel, by decide +kernel, by decide +kernel, (by decide +kernel),
    by decide +kernel, by decide +kernel⟩
  intro k hk
  simp only [List.mem_cons, List.not_mem_nil, or_false] at hk
  rcases hk with rfl | rfl | rfl | rfl | rfl | rfl | rfl | rfl | rfl | rfl <;>
    exact ⟨commanded _ _ (by decide +kernel), by decide +kernel, by decide +kernel⟩

end Sys2Proof.Tests
end

