-- ==== Sys2Proof/Tests/Units.lean ====
section
/-! SUPPORT. Witnesses, part 5: small states that meet the hypotheses of the statements about bales, broadcasts, the units' commands, segments and
edges. -/

open Sys2Proof Sys2Proof.Machine

namespace Sys2Proof.Tests

set_option Elab.async false
set_option linter.unusedSimpArgs false
set_option linter.unusedVariables false

/-! Bales and broadcasts. -/

/-- Sequence 0's entry: one layer-head of 16 elements of 2 bytes, its root page at 5·2^13, ring list at 2^12, placement at 2^13, owner launch 0. -/
def seq0 : Nat := 1 + 5 * 2 ^ 13 + 2 ^ 83 + 2 ^ 96 + 2 * 2 ^ 152 + 2 ^ 216
def bale0 : BaleEntry := { tile := 0, seq := 0, lh := 0, bidx := 0, entry := 2 * 2 ^ 62 + 2 ^ 23, addr := 0x10000, sent := seq0 }
def baled (s : State) : State :=
  { s with
    bal := { s.bal with buf := [bale0] }, dev := { s.dev with seqtn := 1, seqtb := 3 }
    mem := { s.mem with dram := [(0x2001, 0x80), (0x3000, 1), (0x3001, 0xA0), (0x300A, 8), (0x300C, 1), (0x3013, 2), (0x301B, 1)] } }

/-- An append that may be made, one that waits for APD, one at another FILL, and one whose stores are due. -/
theorem witness_DrayCommandsArePerformed_appends :
    (∀ n ∈ [0, 1, 2], let o := { command (.dcopy 4 0) [lpen2, 0, 0, 0] with phase := .active, n := n }
      let s := baled (channelOf (turnOf 9 0 [o]))
      let s2 := (ringList (resolvePlace s seq0 0 0).1 seq0).1
      Claims.Subject s o ∧ o.phase = .active ∧ (match lookBale s o.id o.tile (paramAt o 1) (paramAt o 2) (paramAt o 3 / 64) with | (_, .entry x) => x == bale0 | _ => false) = true ∧
        placedElsewhere s (paramAt o 1) (paramAt o 3 / 64) = false ∧ placedElsewhere { s with bal := { s.bal with place := [(0, 5)] } } 0 0 = true ∧
        o.addr ≤ s.cyc ∧ seqRefusal bale0 o.cx.asid o.cx.q = none ∧ (resolvePlace s seq0 0 0).2 = .pkg s.dev.pkgid.toNat ∧
        (ringList (resolvePlace s seq0 0 0).1 seq0).2.toOption = some [0] ∧ holderRefusal s2 bale0 = none ∧ placeRefusal s2 (.pkg 0) [0] = none ∧
        storageRefusal s2 bale0 = none ∧ ownsLpen s2 o = true ∧
        penAt s2 o.tile (lpen o) = some chanPen ∧ offOf (paramAt o 0) + 2 * seqDh seq0 * seqEs seq0 ≤ chanPen.size * 4096 ∧
        (penRead s2 o.tile (paramAt o 0) (2 * seqDh seq0 * seqEs seq0)).isSome = true ∧ homeRead s2 0 bale0.addr 8 = some 0) ∧
    (bit 0 6 = false ∧ appendRefusal 0 0 = none ∧ appendRefusal 0 1 = some 0x06 ∧ appendRefusal (2 ^ 10) 0 = some 0x05 ∧ bit 64 6 = true) := by
  unfold Claims.Subject
  decide +kernel

/-- A broadcast at a unit, with these units to come. -/
def castAt (k : OpKind) (ws : List Word) (u : Nat) (units : List Nat) (held : Store (List Nat)) (os : List Op) : State :=
  let o := { opOf k with a := lanes ws, phase := .active }
  let s := baled (turnOf 9 u (o :: os))
  { s with syn := { s.syn with casts := [{ op := 9, units := units, held := held, arg := 5 }] } }

/-- A miss that reads and one whose read fails; placement valid and not; each broadcast starting, at a unit with and without users, held, and done. -/
theorem witness_BalesAndBroadcasts :
    (let m : BaleMiss := { tile := 0, seq := 0, lh := 0, bidx := 0, bad := none, waiters := [9] }
     let s0 := baled (turnOf 0 0 [])
     let s := { s0 with bal := { s0.bal with missing := [m] } }
     (s.bal.missing.filter (fun m => m.tile == s.occ.a && m.bad.isNone))[s.occ.b]? = some m ∧ (readBale s 0 0 0 0).2.toOption.isSome = true ∧
       (readBale { s with mem := { s.mem with badWords := [(0x600, ())] } } 0 0 0 0).2.toOption = none) ∧
    (let o := { command (.dcopy 4 0) [lpen2, 0, 0, 0] with phase := .active }
     let s := baled (turnOf 9 0 [o])
     Claims.Subject s o ∧ isAppend o.kind = true ∧ s.bal.buf.find? (fun x => sameBale x o.tile (appSeq o) (appLh o) (appPos o / 64)) = some bale0 ∧
       seqValid seq0 = true ∧ sget s.bal.place 0 = none ∧ (ringList s seq0).2.toOption = some [0] ∧ s.dev.pkgid.toNat = 0 ∧
       (tableWord s (bits seq0 152 40 * 4096) 2).2.toOption = some 0x8000 ∧ (tableWord s (bits seq0 152 40 * 4096 + 2) 2).2.toOption = some 0 ∧
       s.bal.place.length < 4096 ∧ sget s.bal.pgen 0 = none) ∧
    (∀ k ∈ [OpKind.tbi, .shinv, .plbc], let o := { opOf k with a := lanes [0] }
      let s := baled (turnOf 9 0 [o])
      let bad := { s with mem := { s.mem with badWords := [(0x600, ())] } }
      Claims.CastStarts s o ∧ (match plbcHome (writeBackAll s o.tile) (wordA o 0) with | (_, .entry e) => e == seq0 | _ => false) = true ∧
        Claims.CastStarts (turnOf 9 0 [o]) o ∧ (match plbcHome (writeBackAll (turnOf 9 0 [o]) o.tile) (wordA o 0) with | (_, .other) => true | _ => false) = true ∧
        Claims.CastStarts bad o ∧ (match plbcHome (writeBackAll bad o.tile) (wordA o 0) with | (_, .bad _) => true | _ => false) = true ∧
        opRoom (turnOf 9 0 [o]) o = true) ∧
    (∀ u ∈ [(0 : Nat), 384], (castAt .tbi [3 * 2 ^ 16, 0, 0, 1] u [0, 384] [] []).occ.b = u ∧
      castOf (castAt .tbi [3 * 2 ^ 16, 0, 0, 1] u [0, 384] [] []) 9 = some { op := 9, units := [0, 384], held := [], arg := 5 }) ∧
    (let s := castAt .tbi [0, 0, 0, 1] 0 [0] [] []
     let user := { readyOp (.ld .word) with id := 4 }
     let o := { opOf .tbi with a := lanes [0, 0, 0, 1], phase := .active }
     rangeUsers s 0 (opShoot o) = [] ∧ rangeUsers (castAt .tbi [0, 0, 0, 1] 0 [0] [] [user]) 0 (opShoot o) = [4] ∧
       underWay (castAt .tbi [0, 0, 0, 1] 0 [0] [(0, [4])] []) [4] = []) ∧
    (let o := { opOf .shinv with a := lanes [0, 0, 0, 1], phase := .active }
     let user := { command (.dcopy 4 0) [lpen2, 0, 0, 0] with phase := .active, n := 2, id := 4 }
     baleUsers (castAt .shinv [0, 0, 0, 1] 0 [0] [] []) 0 (shinvGone o) = [] ∧ baleUsers (castAt .shinv [0, 0, 0, 1] 0 [0] [] [user]) 0 (shinvGone o) = [4]) ∧
    (walkerDue (castAt .tbi [0, 0, 0, 1] 0 [0] [(0, [4])] []) 9 0 = false ∧ walkerDue (castAt .shinv [0, 0, 0, 1] 0 [0] [(0, [4])] []) 9 0 = false) ∧
    (let s := castAt .plbc [0, 0, 1] 0 [0] [] []
     s.occ.a = 9 ∧ s.occ.b = s.dev.pkgid.toNat ∧ sget s.bal.pgen (wordA (opOf .plbc) 0) = none ∧ 32768 ≤ (5 + 65536 - 6) % 65536 ∧ (5 + 65536 - 4) % 65536 < 32768) ∧
    (let o := { opOf .plbc with a := lanes [0], phase := .active }
     emitFits (castAt .plbc [0] 0 [] [] []) o (statusLanes o.w [0]) = true) ∧
    ∀ k ∈ [OpKind.tbi, .shinv, .plbc], (castOf (castAt k [0] 0 [] [] []) 9).elim false (fun c => c.units.isEmpty) = true := by
  unfold Claims.Subject Claims.CastStarts Claims.Subject
  decide +kernel

/-! Units. -/

/-- A unit's command with its operands. -/
def unitOp (k : OpKind) (a b : List Word) : Op := { opOf k with a := lanes a, b := lanes b }
def pen2 : Word := 2 * 2 ^ 22

/-- A state in which `o` has its turn and pen 2 is its unit's, and with every word of tile SRAM unreadable that a pen of the unit begins with. -/
def unitTurn (o : Op) : State :=
  let s := turnOf 0 9 [o]
  { s with tab := { s.tab with pens := [(2, { plainPen with own := true, eng := unitEng o.kind })] } }
def unreadable (s : State) : State := { s with mem := { s.mem with sramBad := [(0, ())] } }

/-- Each command at its turn with good data, and with data that cannot be read; a rider that folds a bale; a rein that is loaded and one that goes; and a TACC
entry in its turn, early, and whose row cannot be read. -/
theorem witness_UnitCommandsAreApplied :
    (∀ n ∈ [0, 1, 2], let o := { unitOp (.mma .e4e5 false false false) [pen2, pen2, 0, 8 * 2 ^ 16, 0, 0, 0, 0] [] with n := n }
      let f := mmaForm (wordA o)
      let view (s : State) : State := latticeView ((mmaReads o f .e4e5 false false false).foldl (fun s r => fixPen s o.tile r.1 r.2) s) o
      Claims.Applies (unitTurn o) o ∧ faultRoom (unitTurn o) o.tile o.rank o.ctx o.iter = true ∧ nextRoom (unitTurn o) o = true ∧
        foreignPen (unitTurn o) o = none ∧ foreignPen (turnOf 0 9 [{ o with a := lanes [pen8, pen8, 0, 8 * 2 ^ 16, 0, 0, 0, 0] }])
          { o with a := lanes [pen8, pen8, 0, 8 * 2 ^ 16, 0, 0, 0, 0] } = some pen8.toNat ∧
        mmaError (view (unitTurn o)) o f .e4e5 false false false = none ∧
        mmaError (view (unreadable (unitTurn o))) o f .e4e5 false false false = some pen2.toNat ∧ f.k = f.kb ∧ 0 < f.kb ∧ f.sc = false) ∧
    (∀ k ∈ [OpKind.mzero, .mlda, .etld, .mdrn false false true false false], let o := unitOp k [pen2, 0, 0] [8 * 2 ^ 8, 0, 0]
      Claims.Applies (unitTurn o) o ∧ foreignPen (unitTurn o) o = none ∧
        ∀ x ∈ [unitOp k [pen8, 0, 0] [8 * 2 ^ 8, 0, 0]], Claims.Applies (turnOf 0 9 [x]) x ∧ (k ≠ .mzero → foreignPen (turnOf 0 9 [x]) x = some pen8.toNat)) ∧
    (let o := unitOp .etld [pen2, 0, 0] [8 * 2 ^ 8, 0, 0]
     let good (s : State) (n : Nat) : Bool := penGood (fixPen s o.tile (wordA o 0) n) o.tile (penOf (wordA o 0)) (offOf (wordA o 0)) n
     good (unitTurn o) (8 * 8) = true ∧ good (unreadable (unitTurn o)) (8 * 8) = false ∧
       drainError (unitTurn o) o false false 1 1 = none) ∧
    (∀ k ∈ [OpKind.fold, .ffin], let o := unitOp k [pen2] [0]
      let s := baled (unitTurn o)
      Claims.UnitTurn s o ∧ foldBlocked s o = false ∧ foreignPen s o = none ∧ foreignPen (turnOf 0 9 [unitOp k [pen8] [0]]) (unitOp k [pen8] [0]) = some pen8.toNat ∧
        { o with n := 1 }.n = 1 ∧ o.addr ≤ s.cyc ∧ Claims.RiderGood s o pen2.toNat (riderAt s o.tile pen2.toNat) ∧ o.n = 0 ∧
        (match foldEntry s o (riderAt s o.tile pen2.toNat) (wordB o 0) with | (_, .ok _) => true | _ => false) = true ∧
        (match foldEntry (unitTurn o) o (riderAt s o.tile pen2.toNat) (wordB o 0) with | (_, .error .wait) => true | _ => false) = true) ∧
    (∀ c ∈ [(0 : Nat), 256], let o := unitOp .reinld [pen2] [BitVec.ofNat 32 c]
      let s := unitTurn o
      sget s.rws.reins (reinKey o.tile (wordB o 0 % 4) (bits (wordB o 0) 2 6)) = none ∧
        sget [(0, ({ asid := 7, seq := 0 } : Rein))] (reinKey o.tile 0 0) ≠ none ∧ o.cx.asid ≠ 7 ∧
        penReach s o.tile o.cx.asid (penOf (wordA o 0)) 0 (2 * (bridleCfg s o.tile 0).len) = none ∧ bit (wordB o 0) 8 = decide (c = 256) ∧
        foreignPen s o = none ∧ (c = 0 → foreignPen (turnOf 0 9 [o]) o = some pen2.toNat) ∧ (penRead s o.tile (wordA o 0) (2 * (bridleCfg s o.tile 0).len)).isSome = true) ∧
    (let o := unitOp .prbld [pen2] [0, 16]
     foreignPen (unitTurn o) o = none ∧ foreignPen (turnOf 0 9 [o]) o = some pen2.toNat ∧ (penRead (unitTurn o) o.tile (wordA o 0) (wordB o 1)).isSome = true ∧ penRead (unreadable (unitTurn o)) o.tile (wordA o 0) (wordB o 1) = none) ∧
    ∀ i ∈ [(0 : Nat), 1], let o := { opOf (.tacc 0 pen1.toNat) with iter := i }
      Claims.TileSubject (unitTurn o) o ∧ o.tile = (unitTurn o).occ.a ∧ o.phase = .queued ∧ o.tid = 0 ∧
        faultRoom (unitTurn o) o.tile o.rank o.ctx o.iter = true ∧ taccNext (unitTurn o) o pen1.toNat = 0 ∧
        penGood (unitTurn o) o.tile (penOf pen1.toNat) (offOf pen1.toNat) (4 + 4 * o.w) = true ∧
        penGood (unreadable (unitTurn o)) o.tile (penOf pen1.toNat) (offOf pen1.toNat) (4 + 4 * o.w) = false := by
  unfold Claims.Applies Claims.UnitTurn Claims.RiderGood Claims.TileSubject
  refine ⟨?_, ?_, ?_, ?_, ?_, ?_, ?_⟩ <;> decide +kernel

theorem sramRead_all {s : State} (hb : s.mem.sramBad = []) (hl : s.mem.sramLatent = []) : ∀ n a, (sramRead s a n).isSome = true
  | 0, _ => rfl
  | n + 1, a => by simp [sramRead, sramBadAt, hb, hl, sget, sramRead_all hb hl n (a + 1)]

theorem sramRead_first {s : State} {a : Nat} (h : sramBadAt s a = true) (n : Nat) : sramRead s a (n + 1) = none := by simp [sramRead, h]

/-- An MLDA whose 16,384 bytes can be read, and one that meets an error. -/
theorem witness_UnitCommandsAreApplied_mlda :
    let o := unitOp .mlda [pen2, 0, 0] [0]
    let good (s : State) : Bool := penGood (fixPen s o.tile (wordA o 0) 16384) o.tile (penOf (wordA o 0)) (offOf (wordA o 0)) 16384
    good (unitTurn o) = true ∧ good (unreadable (unitTurn o)) = false := by
  intro o good
  refine ⟨sramRead_all (by decide +kernel) (by decide +kernel) _ _, ?_⟩
  show (sramRead _ _ (16383 + 1)).isSome = false
  rw [sramRead_first (by decide +kernel) 16383]
  rfl

/-- Accumulators that are a NaN, infinities and a number; formats of A; positions that a rider sees and does not; a bale whose keys score and one that is
hidden. -/
theorem witness_UnitCommandsAreApplied_values :
    (num32 0x7FC00000).isNan = true ∧ (num32 0x3F800000).isNan = false ∧ num32 0xFF800000 = .inf true ∧ num32 0x7F800000 = .inf false ∧
    num32 0x3F800000 = .fin false 0x800000 (-23) false ∧ (pairFmts .e4e5).1 = some .e4m3 ∧
    (let h : Rider := [0, 0, 0, 0, 4]
     let sees := fun (p : Nat) => visible h 0 p
     sees 3 = true ∧ sees 4 = false ∧
       (let r : FoldRow := { m := 0xFF800000, l := 0, acc := [0], flags := 0 }
        let q : List (Machine.Num × Astat) := List.replicate 16 (.fin false 1 0 false, 0)
        let x := { bale0 with entry := bale0.entry + 2 ^ 10 }
        let keys := List.range (min 64 (baleFill x.entry))
        let m' := fun h => keys.foldl (fun m j => fmax32 m (score h x 0 q 0 j).1) r.m
        m' h ≠ 0xFF800000 ∧ m' [0, 0, 0, 0, 0] = 0xFF800000)) := by
  decide +kernel

/-! Segments and edges. -/

def rowConf : RowCfg := { noCfg with en := true, len := 16 }
/-- A row of 16 elements in segments of 8 lanes, and its segments 0 and 1, the last with EOR. -/
def row0 (unit : Nat) (conf : RowCfg) (segs : Store Token) : Row :=
  { id := 3, tile := 0, rank := 0, unit := unit, ctx := 0, iter := 0, sel := 0, len := 16, w := 8, conf := conf, segs := segs, held := false,
    withdrawn := false, place := 0, again := false, faulted := false }
def segment (k : Nat) (eor : Bool) : Token := { hdr := { plainHeader 0 0 8 0 with seg := k, eor := eor }, lanes := same 1 }

/-- A segment that its row's first admits, where the unit has room and is full, is disabled, and where the segment is too long; a row of one segment. -/
theorem witness_SegmentsAndEdges_first :
    ∀ u ∈ [(0 : Nat), 1], let f := flightTo (u + 1) 0 (segment 0 false)
      let g := flightTo (u + 1) 0 (segment 0 true)
      let s (c : RowCfg) (rows : List Row) : State :=
        { inFlight laid f with rws := { laid.rws with ncfg := [(0, c)], brcfg := [(0, c)], rows := rows } }
      let load (s : State) : Nat := ((s.rws.rows.filter (fun r => r.unit == u && r.tile == f.tile && !r.withdrawn)).map (·.len)).sum
      let big := { row0 u rowConf [] with id := 4, sel := 1, len := 16384 }
      (∀ c ∈ [rowConf, noCfg, { rowConf with len := 4 }, { rowConf with len := 8 }], rowOf (acceptFlight (s c []) f) u f.tile f.rank 0 0 0 = none ∧
        faultRoom (acceptFlight (s c []) f) f.tile f.rank 0 0 = true ∧ unitCfg (acceptFlight (s c []) f) u f.tile 0 = c ∧ load (acceptFlight (s c []) f) = 0) ∧
      rowOf (acceptFlight (s rowConf [big]) f) u f.tile f.rank 0 0 0 = none ∧ 16384 < load (acceptFlight (s rowConf [big]) f) + rowConf.len ∧
      rowConf.en = true ∧ noCfg.en = false ∧ ({ rowConf with len := 4 } : RowCfg).len < (0 + 1) * (7 + 1) ∧ (0 + 1) * (7 + 1) ≤ rowConf.len ∧
      rowComplete (Claims.newRow (s rowConf []) f u 0 rowConf) = false ∧ rowComplete (Claims.newRow (s rowConf []) g u 0 { rowConf with len := 8 }) = true := by
  decide +kernel

/-- Segments with values; rows of none, of −inf alone, with a NaN and of numbers; a row whose segments' NRM is its point's and is not; a probe that is on
and one that is off; a rein that matches and none. -/
theorem witness_SegmentsAndEdges_rows :
    ((∃ u ∈ [same 1], (Claims.segmentSum u).isSome = true) ∧ (Claims.segmentSum (same 1)).isSome = true) ∧
    (([noLanes] : RowLanes).flatten.filterMap id = [] ∧
      ∀ w ∈ [(0xFF800000 : Word), 0x7FC00000, 0x3F800000], let ws := ([same w] : RowLanes).flatten.filterMap id
        ws = w :: List.replicate 7 w ∧ ((List.replicate 7 w).foldl fmax32 w = 0xFF800000 ∨ (num32 ((List.replicate 7 w).foldl fmax32 w)).isNan = true ∨
          (num32 ((List.replicate 7 w).foldl fmax32 w)).isNan = false)) ∧
    (let r := row0 1 rowConf [(0, segment 0 false)]
     (∀ p ∈ r.segs, p.2.hdr.nrm = (r.conf.mode == 1)) ∧ ∃ p ∈ r.segs, p.2.hdr.nrm ≠ ({ rowConf with mode := 1 }.mode == 1)) ∧
    ((2 : Nat) / 2 % 2 = 1 ∧ (0 : Nat) / 2 % 2 = 0) ∧
    (let r := row0 1 rowConf [(0, segment 0 false)]
     let s := { laid with rws := { laid.rws with reins := [(reinKey 0 0 5, { asid := 0, seq := 0 })] } }
     ctxOf s r.ctx = some crewCtx ∧ reinFor s r = some 5 ∧ reinFor laid r = none) :=
  ⟨by decide +kernel, ⟨by decide +kernel, each (by decide +kernel)⟩, by decide +kernel, by decide, by decide +kernel⟩

/-- The page of tile 0 has this memory type. -/
def paged (mt : Nat) (s : State) : State :=
  walkable 0 mt (if mt = 2 then 0x018000000000 else 0) s

/-- A row that waits for its first segment, that is then whole, that is too short, and that has the segment; egress and ingress with tokens left and none. -/
theorem witness_SegmentsAndEdges :
    (∀ u ∈ [(0 : Nat), 1], ∀ x ∈ [(rowConf, true), ({ rowConf with len := 8 }, false)], let f := flightTo (u + 1) 0 (segment 1 true)
      let r := row0 u x.1 [(0, segment 0 false)]
      let s := { inFlight laid f with rws := { laid.rws with rows := [r] } }
      Claims.Comes s f ∧ f.tok.hdr.can = false ∧ faultRoom (acceptFlight s f) f.tile f.rank 0 0 = true ∧
        (∀ x ∈ [{ r with id := 20, again := true }], (x :: s.rws.rows).find? (fun r => r.id == s.occ.a && r.unit == u && r.again) = some x) ∧
        (∀ x ∈ s.rws.rows, x.id = s.occ.a → x.again = false) ∧
        rowOf (acceptFlight s f) u f.tile f.rank 0 0 0 = some r ∧ r.held = false ∧ r.again = false ∧ rowComplete r = false ∧ sget r.segs 1 = none ∧ r.conf.en = true ∧
        decide ((1 + 1) * (7 + 1) ≤ r.conf.len) = x.2 ∧ r.w = 7 + 1 ∧ rowComplete (Claims.withSegment r f.tok) = true ∧
        rowComplete (Claims.withSegment (row0 u x.1 []) f.tok) = false ∧ (sget (row0 u x.1 [(1, segment 1 true)]).segs 1).isSome = true) ∧
    (∀ x ∈ [((2 ^ 31 : Nat), false), (0, false), (2 ^ 40 + 8 * 2 ^ 32 + 64 * 2 ^ 72, true)], let l := { crewLaunch with edges := [x.1], ingress := [(0, 0, 5, 0)] }
      let f := flightTo 5 0 token
      let s := { inFlight laid f with sch := { laid.sch with launches := [(0, l)] } }
      Claims.Comes s f ∧ sget s.sch.launches (sgetD s.tab.owner f.tile 4096) = some l ∧ l.edges[f.dest.slot % 64]? = some x.1 ∧
        decide (x.1 / 2 ^ 31 % 2 = 0 ∧ f.tok.hdr.iter < bits x.1 40 24) = x.2 ∧ pendingCount s f.tile < 1024) ∧
    (let l := { crewLaunch with edges := [2 ^ 40 + 8 * 2 ^ 32 + 64 * 2 ^ 72], ingress := [(0, 0, 5, 0)] }
     let s := { program l with occ := ⟨0, 0, 0⟩ }
     sget s.sch.launches s.occ.a = some l ∧ l.st = .running ∧ l.ingress.find? (·.1 == s.occ.b) = some (s.occ.b, 0, 5, 0) ∧ (∀ x ∈ s.net.outs, x.id ≠ 5) ∧
       pendingCount s (originTile l) < 1024 ∧ 0 < bits (2 ^ 40 + 8 * 2 ^ 32) 40 24 ∧ bits 0 40 24 ≤ 0 ∧ opById s 5 = none ∧
       (match edgeRead (paged 0 s) (originTile l) 0 64 8 5 with | (_, .words _) => true | _ => false) = true ∧
       (match edgeRead (paged 1 s) (originTile l) 0 64 8 5 with | (_, .asked _) => true | _ => false) = true ∧
       (match edgeRead s (originTile l) 0 65 8 5 with | (_, .fault _ _ _) => true | _ => false) = true ∧
       (ingressLanes (paged 0 s) (originTile l) 0 64 8).2.toOption.isSome = true) ∧
    ∀ mt ∈ [0, 2], (edgePhys (paged mt stage) 0 0 16384 true).2.toOption.map (·.mt) = some mt ∧ (edgePhys (paged 0 stage) 0 0 65 true).2.toOption = none := by
  unfold Claims.Comes
  refine ⟨?_, ?_, ?_, ?_⟩ <;> decide +kernel

end Sys2Proof.Tests
end

