-- ==== Sys2Proof/Tests/Launches.lean ====
section
/-! SUPPORT. Witnesses, part 6: small states that meet the hypotheses of the statement about launches. -/

open Sys2Proof Sys2Proof.Machine

namespace Sys2Proof.Tests

set_option Elab.async false
set_option linter.unusedSimpArgs false
set_option linter.unusedVariables false

/-! Launches. -/

/-- In memory: the root of address space 1, a launch record at 0x1000 with one initial context, and an image with a region and a program of one SQ.BAR
(R230, R232, R386); a leaf at 2^15 for the first page of address spaces 0 and 1. -/
def recorded (s : State) : State :=
  { s with
    xl := { s.xl with cache := [0, 1].map (fun a => { quad := 0, asid := a, lvl := 1, path := 0, page := 2 ^ 15 }) }
    mem := { s.mem with dram := [
    (0x10, 1), (0x11, 32), (0x1001, 18), (0x1009, 17), (0x100F, 1), (0x1010, 128), (0x1011, 17), (0x1028, 1), (0x102C, 32), (0x1100, 8), (0x1200, 78),
    (0x1201, 71), (0x1202, 73), (0x1203, 49), (0x1204, 1), (0x1206, 2), (0x1208, 132), (0x1209, 1), (0x1210, 120), (0x1211, 106), (0x1212, 230)] ++ [
    (0x1213, 173), (0x1240, 1), (0x1248, 128), (0x124D, 1), (0x1250, 4), (0x1258, 128), (0x1259, 1), (0x125C, 4), (0x1285, 96), (0x1343, 1),
    (0x1383, 80), (0x8000, 0xDF)] } }

/-- A record that waits for one tile, fixed at tile 1; one that asks for every tile; the running launch as a victim, in class 3 for long. -/
def waitingLaunch : Launch := { crewLaunch with st := .waiting, words := List.replicate 10 0 ++ [0x3000000, 128], cls := 1, stamp := 5 }
def wholeLaunch : Launch := { waitingLaunch with wd := 16, ht := 24, words := List.replicate 11 0 }
def victim : Launch := { crewLaunch with cls := 3, words := List.replicate 11 0 ++ [2 ^ 9] }
def queue (ls : Store Launch) : State := { turnOf 0 0 [] with cyc := 2 ^ 20, sch := { stage.sch with launches := ls }, ctxs := [] }

theorem sget_full {α : Type} (x : α) (n q : Nat) (h : q < n) : sget ((List.range n).map (fun k => (k, x))) q = some x := by
  have aux : ∀ (l : List Nat), q ∈ l → sget (l.map (fun k => (k, x))) q = some x := by
    intro l
    induction l with
    | nil => intro hq; cases hq
    | cons a r ih =>
      intro hq
      by_cases e : a = q
      · simp [sget, e]
      · simp only [List.map_cons, sget, e, if_false]
        exact ih ((List.mem_cons.1 hq).resolve_left (Ne.symm e))
  exact aux _ (List.mem_range.2 h)

/-- A task's record that is taken, with a free queue index and none; a host's, the first and behind another. -/
theorem witness_LaunchesComeAndGo_intake :
    (let o := opOf .launch
     Claims.HandsOver (turnOf 9 0 [o]) o ∧ freeIndex (writeBackAll (turnOf 9 0 [o]) o.tile) = some 1 ∧ admitOpen (writeBackAll (turnOf 9 0 [o]) o.tile) = true ∧
       emitRoom (writeBackAll (turnOf 9 0 [o]) o.tile) o (statusLanes o.w [0, 0]) = true) ∧
    (let m := HostMsg.launch 3 (sttHeader 0 24) 0x1000
     let s := { queue [] with sch := { stage.sch with launches := [], intake := [(7, m), (8, m)] } }
     s.occ.a = 0 ∧ s.sch.intake[0]? = some (7, m) ∧ s.sch.intake[1]? = some (8, m) ∧ freeIndex s = some 0 ∧ (s.sch.intake.take 0) = [] ∧
       (∃ x ∈ s.sch.intake.take 1, msgQp x.2 = 3) ∧ admitOpen s = true ∧ admitOpen { s with sch := { s.sch with intakeAt := s.cyc + 1 } } = false) ∧
    (let w : Issuer := { asid := 0, bound := false, cls := 0, host := none, user := false }
     (readLaunch (recorded (queue [])) w 0x1000).2.2.toOption.isSome = true ∧ (readLaunch (queue []) w 0x1000).2.2.toOption.isSome = false) := by
  unfold Claims.HandsOver Claims.Subject
  decide +kernel

theorem witness_LaunchesComeAndGo_full_queue : freeIndex (writeBackAll { queue [] with sch := { stage.sch with launches := (List.range 4096).map (fun k => (k, crewLaunch)) } } 0) = none := by
  have e : writeBackAll { queue [] with sch := { stage.sch with launches := (List.range 4096).map (fun k => (k, crewLaunch)) } } 0 =
      { queue [] with sch := { stage.sch with launches := (List.range 4096).map (fun k => (k, crewLaunch)) } } := rfl
  rw [e]
  unfold freeIndex
  rw [List.find?_eq_none]
  intro q hq
  have h : q < 4096 := by
    simpa [upto] using hq
  simp [sget_full crewLaunch 4096 q h]

/-- A record that ages, a run at its barrier with and without a store, an ended program, a tile to free, and the passes of the Stablemaster: nothing
waits, a head that is granted, one without a victim, and one with. -/
theorem witness_LaunchesComeAndGo_grants_and_ends :
    (let l := { waitingLaunch with since := 0 }
     Claims.TheLaunch (queue [(0, l)]) l ∧ l.st = .waiting ∧ 0 < l.cls ∧ l.since + 2 ^ 20 ≤ (queue [(0, l)]).cyc ∧ ({ l with cls := 0 } : Launch).cls = 0) ∧
    (let l := { crewLaunch with runs := 1, ended := true }
     let s := queue [(0, l)]
     let t := { s with ops := [{ opOf (.st .word false) with phase := .queued }] }
     Claims.TheLaunch s l ∧ 0 < l.runs ∧ l.placed = true ∧ (∀ x ∈ s.ctxs, x.2.q ≠ 0) ∧ l.ended = true ∧ l.st ≠ .ending ∧
       (∀ o ∈ (((dedup ((launchTiles s 0).map (·.2.1))).foldl writeBackAll s)).ops, isStore o.kind = true → o.cx.q ≠ 0) ∧
       ∃ o ∈ (((dedup ((launchTiles t 0).map (·.2.1))).foldl writeBackAll t)).ops, isStore o.kind = true ∧ o.cx.q = 0) ∧
    (let l := { crewLaunch with st := .ending }
     let s := { queue [(0, l)] with pe := [], sch := { stage.sch with launches := [(0, l)], busy := [(1, ())] } }
     sget s.tab.owner s.occ.a = some 0 ∧ sget s.sch.launches 0 = some l ∧ tileGivenUp l s.occ.a = true ∧ (sget s.sch.busy s.occ.a).isNone = true ∧
       tileEmpty s s.occ.a = true ∧ loftHeld s s.occ.a = false ∧ ∀ p ∈ (Claims.freedTile s s.occ.a).tab.owner, p.2 ≠ 0) ∧
    State.reset.dev.up = false ∧ (queue []).dev.up = true ∧ (queue []).dev.p3 = false ∧ waitingRecords (queue [(0, crewLaunch)]) = [] ∧
    waitingRecords (queue [(0, crewLaunch), (1, waitingLaunch)]) = [(1, waitingLaunch)] ∧
    (grantable (queue [(0, crewLaunch), (1, waitingLaunch)]) waitingLaunch []).isSome = true ∧
    waitingRecords (queue [(0, victim), (1, wholeLaunch)]) = [(1, wholeLaunch)] ∧ grantable (queue [(0, victim), (1, wholeLaunch)]) wholeLaunch [] = none ∧
    (let s := queue [(0, victim), (1, wholeLaunch)]
     let res := reservation s wholeLaunch
     let t := grantLater 1 res { s with sch := { s.sch with reserve := res } }
     victimOf t wholeLaunch.cls res = some (0, victim) ∧ victimOf t 3 res = none) := by
  unfold Claims.TheLaunch
  decide +kernel

/-- A gait that fits at an offset and one that does not; a launch that is saved, at rest and not; a resume without an image, and with one whose region does
not fit. -/
theorem witness_LaunchesComeAndGo_changes :
    (let l := { crewLaunch with wd := 2, gw := 2, shapes := [(1, 1, 1)] }
     let m := { l with st := .shrinking, aim := some { gait := 1, x := 1, y := 0, bySeq := false } }
     l.st = .running ∧ l.aim = none ∧ l.ended = false ∧ shrinkFits l 1 1 0 = true ∧ shrinkFits l 1 2 0 = false ∧
       quiesced { queue [(0, m)] with pe := [] } 0 m = true ∧
       saveRoom { queue [(0, m)] with pe := [] } m = true ∧ loftsGone { queue [(0, m)] with pe := [] } m { gait := 1, x := 1, y := 0, bySeq := false } = true) ∧
    (let l := { crewLaunch with st := .saving }
     Claims.TheLaunch (queue [(0, l)]) l ∧ quiesced { queue [(0, l)] with pe := [] } 0 l = true ∧
       saveRoom { queue [(0, l)] with pe := [] } l = true ∧ (∀ t ∈ heldTiles l, loftHeld { queue [(0, l)] with pe := [] } t = false) ∧ quiesced ((queue [(0, l)]).setTask probeTask) 0 l = false) ∧
    (let l := { crewLaunch with st := .resuming, words := [0x1200] }
     let s := recorded (queue [(0, l)])
     Claims.TheLaunch s l ∧ (∀ t ∈ heldTiles l, pendingCount s t < 1024) ∧
       (readImage (queue [(0, l)]) (originTile l) l.asid (l.field 0 56)).2.toOption.isSome = false ∧
       (match readImage s (originTile l) l.asid (l.field 0 56) with
        | (s1, .ok bs) => (sectionsOf bs).isSome && (placeFor s1 l ((sectionsOf bs).getD []) [] l.gait l.gx l.gy).isNone
        | _ => false) = true) := by
  unfold Claims.TheLaunch
  decide +kernel

/-- A change that begins: with room for its notices, without, and as a growth, which sends none; the place of the launch's tile 0. -/
theorem witness_LaunchesComeAndGo_begins :
    (let l := { crewLaunch with shapes := [(1, 1, 1), (2, 2, 1)] }
     let s := queue [(0, l)]
     growing l none = false ∧ noticeRoom s 0 l = true ∧ noticeRoom (flooded s) 0 l = false ∧
       growing l (some { gait := 2, x := 0, y := 0, bySeq := true }) = true ∧ placeTile s 0 0 = some (0, 0)) ∧
    (let x := saveTile (stashed stage) 0 0 0 0 none
     (x.slots.map (·.1)).Nodup ∧ (x.windows.map (·.1)).Nodup ∧ (x.pens.map (·.1)).Nodup ∧ (x.sram.map (·.1)).Nodup ∧ (x.troughs.map (·.1)).Nodup) ∧
    (∃ x : NewPlace, x.wd * x.ht ≤ crewLaunch.gw * crewLaunch.gh) ∧ crewLaunch.gw * crewLaunch.gh < 2 * 1 ∧ crewLaunch.grow = none :=
  ⟨by decide +kernel, by decide +kernel, ⟨{ wd := 1, ht := 1, route := [], hosts := [] }, by decide⟩, by decide, rfl⟩

/-- A change whose image cannot be read, whose place its image does not give, and, for a launch of no columns, whose place is there. -/
theorem witness_LaunchesComeAndGo_ends :
    (let l := { crewLaunch with st := .shrinking, words := [0x1200] }
     let a : Aim := { gait := 0, x := 0, y := 0, bySeq := false }
     (readImage (queue [(0, l)]) (originTile l) l.asid (l.field 0 56)).2.toOption.isSome = false ∧
       ∀ m ∈ [l, { l with wd := 0 }], (match readImage (recorded (queue [(0, m)])) (originTile m) m.asid (m.field 0 56) with
         | (s1, .ok bs) => (placeFor s1 m ((sectionsOf bs).getD []) (heldTiles m) a.gait a.x a.y).isSome == decide (m.wd = 0)
         | _ => false) = true) := by
  decide +kernel

theorem homeRead_zeros (s : State) (a n : Nat) (hd : s.mem.dram = []) (he : s.mem.encTag = []) (hb : s.mem.badWords = []) (hl : s.mem.latent = [])
    (hh : s.syn.hitches = []) : homeRead s 0 a n = some 0 := by
  induction n generalizing a with
  | zero => rfl
  | succ n ih => simp [homeRead, badAt, homeByte, plainByte, mget, sgetD, sget, hd, he, hb, hl, hh, ih]

/-- A launch to resume whose save area holds a section of TYPE 0, and one that no section stands against. -/
theorem witness_LaunchesComeAndGo_saved_sections :
    (∃ (s : State) (l : Launch), Claims.TheLaunch s l ∧ l.st = .resuming ∧ savedFault s l = some causeCfg) ∧
      savedFault (recorded (queue [])) crewLaunch = none := by
  refine ⟨⟨queue [(0, { crewLaunch with st := .resuming, saved := [saveTile (queue []) 0 0 0 0 none] })], _, rfl, rfl, ?_⟩, rfl⟩
  have e : savedHeaders 0 1 = (savedHeaders 0 1).head! :: (savedHeaders 0 1).tail := rfl
  simp only [savedFault, probeLaunch, crewLaunch, List.length_singleton]
  rw [e, List.findSome?_cons, homeRead_zeros _ _ _ rfl rfl rfl rfl rfl]
  rfl

end Sys2Proof.Tests
end

