-- ==== Sys2Proof/Tests/Service.lean ====
section
/-! SUPPORT. Witnesses, part 7: small states that meet the hypotheses of the statements about power, the host and faults. -/

open Sys2Proof Sys2Proof.Machine

namespace Sys2Proof.Tests

set_option Elab.async false
set_option linter.unusedSimpArgs false
set_option linter.unusedVariables false

/-! Power. -/

def devIs (s : State) (f : Dev → Dev) : State := { s with dev := f s.dev }

/-- A header of a TYPE and LEN, with HTAG 5 and HRKEY 1. -/
def header (typ len : Nat) : BitVec 192 := BitVec.ofNat 192 (typ + 2 ^ 8 + len * 2 ^ 16 + 5 * 2 ^ 32 + 2 ^ 128)

/-- Start-up due and not; power states with launches and without; limits at their bounds; the governor above, below and inside its band; a quadrant that
is quiet, stirred and asleep; IDLE queued, gated and stirred. -/
theorem witness_PowerAndDeviceStateChange :
    (State.reset.dev.up = false ∧ State.reset.dev.p3 = false ∧ State.reset.host.recovery = false ∧ State.reset.health.image = true ∧
      { Health.good with rom := false }.rom = false ∧ Health.good.rom = true ∧ { Health.good with fuses := false }.fuses = false ∧
      State.reset.dev.bootrec.length = 11 ∧ 2 ≤ { Health.good with clocks := 2 }.clocks ∧ stage.dev.stackOk ≠ [] ∧ stage.dev.up = true) ∧
    ((2 ^ 28 : Nat) < 2 ^ 28 + 1 ∧ recoveryBase stage = some 0 ∧ recoveryBase stage ≠ none ∧ recoveryBase (devIs stage (fun d => { d with quads := [] })) = none ∧
      recoveryBase (devIs stage (fun d => { d with quads := [1, 2] })) = some (1 * (3 * 48 * 2 ^ 30)) ∧
      (qpOf { stage with host := { stage.host with qps := [(2, { port := 0, admin := true, asid := 0, err := false })] } } 2).isSome = true ∧
      Claims.Framed (header 3 8) 32 3 ∧ ¬ Claims.Framed (header 3 8) 33 3 ∧ Claims.WellSent (header 3 8) 32 3 ∧
      (∀ n ∈ [24, 65536], Claims.Fits n) ∧ ∀ n ∈ [0, 23, 65537], ¬ Claims.Fits n) ∧
    ((devIs stage (fun d => { d with p3 := true })).dev.p3 = true ∧ (∃ p ∈ stage.sch.launches, p.2.st ≠ .waiting ∧ p.2.st ≠ .saved) ∧
      ∀ p ∈ (queue [(1, waitingLaunch)]).sch.launches, p.2.st = .waiting ∨ p.2.st = .saved) ∧
    (∀ w ∈ [1500, 3000], w % 25 = 0 ∧ w ≤ 3000 ∧ 1500 ≤ w) ∧ (∀ w ∈ [975, 3025, 1501], w % 25 ≠ 0 ∨ 3000 < w ∨ w < 1000) ∧
    (let s := { stage with cyc := 1650 }
     s.cyc % 1650 = 0 ∧ s.dev.p3 = false ∧ s.dev.limit < 3001 ∧ 1 < s.dev.clkf ∧ 2950 + 50 ≤ s.dev.limit ∧ 32 ≤ s.dev.admitCap ∧ 3000 ≤ s.dev.limit ∧
       s.dev.limit < 3000 + 50 ∧ (devIs s (fun d => { d with clkf := 1, admitCap := 31 })).dev.clkf ≤ 1 ∧
       (devIs s (fun d => { d with clkf := 1, admitCap := 31 })).dev.admitCap < 32 ∧ ({ s with cyc := 1651 } : State).cyc % 1650 ≠ 0) ∧
    ((3 : Nat) ∉ stage.dev.planesDown ∧ 3 ∈ (devIs stage (fun d => { d with planesDown := [3] })).dev.planesDown) ∧
    (let s := devIs { turnOf 0 0 [] with pe := [] } (fun d => { d with qreq := [(0, 2)] })
     sget s.dev.qreq 0 = some 2 ∧ sget s.dev.qcur 0 ≠ some 2 ∧ Claims.QuadrantQuiet s 0 ∧ ¬ Claims.QuadrantQuiet (s.setTask probeTask) 0 ∧
       aimedAt s 0 = false ∧ (∀ t, t ∈ [causePreempt, causeSeqOrder, causeWatchdog] →
         aimedAt { s with flt := { s.flt with pending := [{ tile := 0, fr := syncRecord s 0 (worker []) 0 t 0 0, deliver := true }] } } 0 = true) ∧ sget (devIs s (fun d => { d with qcur := [(0, 2)] })).dev.qcur 0 = some 2 ∧
       aimedAt { s with net := { mesh := [], outs := [{ id := 19, tile := 0, elem := 0, tok := token, pend := [(⟨0, 0, 0, 0⟩, 0)] }] } } 0 = true) ∧
    (∀ ph ∈ [Phase.queued, .active], let o := { opOf .idle with phase := ph }
      let s := { turnOf 0 0 [o] with pe := [] }
      s.ops.find? (fun o => o.tile == 0 && isIdle o) = some o ∧ tileResting s 0 = true ∧
        (∀ p ∈ s.ops, p.tile = 0 → isEngine p.kind = true → stopped p = true) ∧ stirred s 0 = false ∧
        arrives s 0 = false ∧ ¬ o.n < faultsAt s 0 ∧ { o with n := 0 }.n < faultsAt (flooded s) 0 ∧ arrives (flooded s) 0 = false ∧
        emitFits s o (statusLanes o.w [0]) = true ∧ tileResting (s.setTask probeTask) 0 = false ∧
        arrives { s with net := { s.net with mesh := [flightTo 0 0 token] } } 0 = true ∧ tileResting { s with net := { s.net with mesh := [flightTo 0 0 token] } } 0 = true ∧
        sget (devIs s (fun d => { d with gated := [(0, 0)] })).dev.gated 0 = some 0) ∧
    ∀ r ∈ [0x1000, 0x1008, 0x2000, 0x3000, 0x4000], (0x018000000000 + r - 0x018000000000) / 8 * 8 = r ∧
      Claims.devicePa { stage with occ := ⟨r, 0, 0⟩ } = 0x018000000000 + r ∧ 0x4000 ≤ r + 0x3000 := by
  unfold Claims.QuadrantQuiet Claims.WellSent Claims.Framed Claims.Fits
  refine ⟨?_, ?_, ?_, ?_, ?_, ?_, ?_, ?_, ?_, ?_⟩ <;> decide +kernel

/-! The host. -/

/-- Queue pair 2 of an ADMIN, 3 of address space 0 as a USER, 5 of address space 1; region 0 may be read and written. -/
def hosted (s : State) : State :=
  { s with host := { s.host with
      qps := [(2, { port := 0, admin := true, asid := 0, err := false }), (3, { port := 0, admin := false, asid := 0, err := false }),
        (5, { port := 8, admin := false, asid := 1, err := false })]
      mrt := [(0, { v := true, asid := 0, va := 4096, len := 4096, rd := true, wr := true, gen := 1 })] } }

/-- Queue pairs at the last number; requests at the end of their region and beyond, and where the page is missing; messages of both classes; a launch that
is saved and one that shrinks; a context that halts at each level; an inbox with room and full. -/
theorem witness_HostRequestsAreServed :
    let s := walkable 0 0 0 (hosted (turnOf 0 0 []))
    (s.dev.up = true ∧ s.dev.p3 = false ∧ (1023 : Nat) < 1024 ∧ (1023 : Nat) ≠ 1 ∧ (2 ^ 16 - 1 : Nat) < 2 ^ 16 ∧ (8 : Nat) ∉ s.dev.portsDown ∧
      sget s.host.qps 1023 = none ∧ (sget s.host.qps 5).isSome = true) ∧
    (∀ p, sget s.host.qps 2 = some p → p.err = false ∧ (requestRegion s p (2 ^ 24) 8188 4 true).isSome = true ∧
      (requestRegion s p (2 ^ 24) 8189 4 true).isSome = false ∧ (requestRegion s p (2 ^ 24) 8188 4 false).isSome = true ∧
      (requestRegion s p (2 ^ 24) 8189 4 false).isSome = false) ∧ s.host.recovery = false ∧
    ((writeVa s 0 0 8188 [1, 2, 3, 4] false).2 = none ∧ (writeVa { s with xl := Xlate.empty } 0 0 8188 [1, 2, 3, 4] false).2.isSome = true ∧
      (readVa s 0 0 8188 4 (imageWant false false)).2.toOption.isSome = true ∧
      (readVa { s with xl := Xlate.empty } 0 0 8188 4 (imageWant false false)).2.toOption.isSome = false) ∧
    (∀ qp ∈ [2, 3, 5], ∀ p, sget s.host.qps qp = some p → Claims.TakenOn s qp p ∧ p.admin = decide (qp = 2)) ∧
    (let l := { crewLaunch with edges := [2 ^ 31] }
     let t := hosted { program l with occ := ⟨0, 0, 0⟩ }
     (readTokens t { port := 0, admin := true, asid := 0, err := false } [0, 1, 0, 0, 1, 7]).isSome = true ∧
       (readTokens t { port := 0, admin := true, asid := 0, err := false } [0, 2, 0, 0, 1, 7]).isSome = false) ∧
    ((4095 : Nat) < 4096 ∧ (4096 : Nat) ≤ 4096 ∧ (2 ^ 48 : Nat) ≤ 2 ^ 48 ∧ (2 ^ 56 - 4096 + 4096 : Nat) ≤ 2 ^ 56) ∧
    (let l := { victim with wd := 2, gw := 2, shapes := [(1, 1, 1)] }
     let m := { l with words := List.replicate 11 0 ++ [2 ^ 8] }
     sget (queue [(0, l)]).sch.launches 0 = some l ∧ l.st = .running ∧ l.ended = false ∧ l.granted + 2 ^ 20 ≤ (queue [(0, l)]).cyc ∧ l.field 361 1 = 1 ∧
       m.field 361 1 = 0 ∧ m.field 360 1 = 1 ∧ l.field 360 1 = 0 ∧ noticeRoom (queue [(0, l)]) 0 l = true ∧
       (∀ t ∈ [1], t ∈ heldTiles l ++ aimedTiles l) ∧ (∀ t ∈ [5], t ∉ heldTiles l ++ aimedTiles l) ∧
       (∀ x ∈ (queue [(0, l)]).sch.launches, ¬ (x.2.st = .shrinking ∨ x.2.st = .saving)) ∧ (shrinkFor m [1]).isSome = true) ∧
    (∀ lv ∈ [0, 1, 2], ctxOf s 0 = some crewCtx ∧ sleepingQuads s 0 = [] ∧ haltRoom s 0 = true ∧ (devIs s (fun d => { d with level := BitVec.ofNat 2 lv })).dev.level.toNat = lv) ∧
    ((devIs s (fun d => { d with hen := true, dasid := 7 })).dev.hen = true ∧ s.dev.hen = false ∧ (7 : BitVec 16).toNat ≠ 0) ∧
    (∀ k ∈ [0, 3], let t := { s with
        flt := { s.flt with regs := [(7, 0x80000000)] }, frm := { s.frm with inbox := [(0, List.replicate k token)] } }
      tilePresent t 0 = true ∧ tilePresent { t with dev := { t.dev with quads := [] } } 0 = false ∧ (tileReg t 0 7).toNat / 2 ^ 31 % 2 = 1 ∧
        decide ((inboxOf t 0 0).length + (fwdTokens 0 3 (List.replicate 64 0)).length ≤ 4) = decide (k = 0)) ∧
    (let i := Instr.ctrlFwd 2 (header 3 8) 32 [7]
     let t := { s with occ := ⟨0, 0, 1⟩, host := { s.host with waits := [(2, i)] }, flt := { s.flt with regs := [(7, 0x80000000)] } }
     t.occ.c = 1 ∧ (2, i) ∈ t.host.waits ∧ t.host.waits.find? (·.1 == 2) = some (2, i) ∧
       (∀ p, sget s.host.qps 2 = some p → Claims.InForce t 2 p ∧ ¬ Claims.Busy t 2 ∧ p.admin = true) ∧ tilePresent t 0 = true ∧
       (tileReg t 0 7).toNat / 2 ^ 31 % 2 = 1 ∧ (inboxOf t 0 0).length + (fwdTokens 0 3 [7]).length ≤ 4) ∧
    (let i := Instr.challenge 2 (header 4 8) 32
     Claims.Busy { s with host := { s.host with tokens := [(2, sttHeader (header 2 8) 32, 0, 1)] } } 2 ∧
       ({ s with occ := ⟨0, 0, 1⟩, host := { s.host with waits := [(2, .sttDiscard 2 0 24), (2, i)] } } : State).host.waits.find? (·.1 == 2) ≠ some (2, i)) ∧
    ((∀ typ ∈ [1, 2, 3, 4], Claims.Framed (header typ 8) 32 typ ∧ ¬ Claims.Framed (header typ 9) 32 typ ∧ ¬ Claims.Framed (header 5 8) 32 typ) ∧
      (header 1 8).toNat / 2 ^ 128 % 2 ^ 32 = 1 ∧ (0 : BitVec 192).toNat / 2 ^ 128 % 2 ^ 32 = 0) ∧
    (let t := { devIs s (fun d => { d with level := 2, life := 1, qcur := [(0, 2)] }) with sch := (queue [(0, victim)]).sch, tab := (queue [(0, victim)]).tab }
     t.dev.p3 = false ∧ t.dev.level ≠ 0 ∧ t.dev.life = 1 ∧ sget t.dev.qcur 0 = some 2 ∧ sget s.dev.qcur 0 ≠ some 2 ∧
       sleepingQuads { t with tab := { t.tab with ltiles := [(0, [0])], owner := [(0, 0)] } } 0 = [0]) ∧
    (s.dev.session = false ∧ (devIs s (fun d => { d with session := true, p3 := true })).dev.session = true) ∧
    noticeRoom (flooded (queue [(0, { victim with words := List.replicate 11 0 ++ [2 ^ 9] })])) 0 victim = false ∧
    (∀ lf ∈ [2, 3], (devIs s (fun d => { d with life := BitVec.ofNat 2 lf })).dev.life.toNat = lf ∧ s.dev.level.toNat < 2) := by
  unfold Claims.TakenOn Claims.InForce Claims.Busy Claims.Framed
  intro s
  refine ⟨by decide +kernel, ?_, by decide +kernel, by decide +kernel, ?_, by decide +kernel, by decide, by decide +kernel, by decide +kernel,
    (by decide +kernel), by decide +kernel, ?_, ?_, by decide +kernel, by decide +kernel, by decide +kernel, by decide +kernel, by decide +kernel⟩
  · intro p hp
    cases hp
    decide +kernel
  · intro qp hq p hp
    simp only [List.mem_cons, List.not_mem_nil, or_false] at hq
    rcases hq with rfl | rfl | rfl <;> (cases hp; decide +kernel)
  · refine ⟨by decide, by decide, by decide, ?_, by decide +kernel, by decide +kernel, by decide +kernel⟩
    intro p hp
    cases hp
    decide +kernel
  · exact ⟨.inr ⟨_, .head _, rfl⟩, by decide⟩

/-! Faults. -/

/-- A record of context 0's frame of iteration 0. -/
def rec0 : FaultRec := syncRecord stage 0 (worker [same 1]) 3 causeAlign 0 64
/-- A context with this UVEC, whose mask lets every cause through. -/
def handled (u : Word) : State :=
  { laid with
    ctxs := [(0, { crewCtx with uvec := u, fmask := 0xFFFFFFFF })]
    tab := { laid.tab with blocks := [(0, block0), (5, { block0 with slot0 := 8, vc := 3 })] } }
def parkedFrame : State :=
  let s := setPosition laid 0 0 0 0 { noPosition with lv := true, pk := true }
  { s with flt := { s.flt with parked := [(frameKey s 0 0 0 0, { fr := some { rec0 with fseq := 4 }, escd := false })] } }

/-- A frame's fault and a full list; a frame in force and not, with a park area and without; a failed operation; a fault that may be delivered; each
receiver; a supervisor's queue; halting enabled and not; a single step done; a handler's current record and an old one. -/
theorem witness_FaultsAreTakenReportedAndAnswered :
    (let τ := worker [same 1]
     (stage.setTask τ).task? = some τ ∧ τ.kind = .frame ∧ faultRoom (stage.setTask τ) 0 τ.rank τ.ctx τ.iter = true ∧ faultRoom (flooded (stage.setTask τ)) 0 τ.rank τ.ctx τ.iter = false ∧
       haltRoom (flooded (stage.setTask τ)) τ.ctx = false ∧ haltRoom (stage.setTask τ) τ.ctx = true) ∧
    (frameLive (withFrame laid) 0 0 0 0 = true ∧ frameLive laid 0 0 0 5 = false ∧ stage.dev.pv = true ∧ base.dev.pv = false) ∧
    (∀ e ∈ [(0 : Nat), 8], let o := { opOf (.ld .word) with phase := .failed, elem := e }
      Claims.Subject (turnOf 9 0 [o]) o ∧ chanOf o.kind = none ∧ mayReport (turnOf 9 0 [o]) o = true ∧ o.n ≠ 3) ∧
    (let o := { opOf .mzero with phase := .done }
     Claims.Subject (turnOf 9 0 [o]) o ∧ isUnit o.kind = true) ∧
    (let o := { opOf (.hrel .x) with phase := .failed, n := 3 }
     Claims.Subject (turnOf 9 0 [o]) o ∧ chanOf o.kind = none ∧ mayReport (turnOf 9 0 [o]) o = true ∧ isHitchOp o.kind = true) ∧
    (∀ d ∈ [true, false], let p : Pending := { tile := 0, fr := rec0, deliver := d }
      Claims.MayDeliver { withFrame laid with flt := { laid.flt with pending := [p] } } p) ∧
    (receiver stage 0 rec0 = 0 ∧ rec0.framed = true ∧ rec0.escd = false ∧ rec0.sup = false ∧ 1 ≤ rec0.cause ∧ rec0.cause ≤ 27 ∧ receiver (handled 0x80000000) 0 rec0 = 1 ∧
      handlerGood (handled 0x80000000) 0 0 = true ∧ receiver (handled 0xC0008000) 0 rec0 = 2 ∧ paddockGood (handled 0xC0008000) 0 0xC0008000 = true) ∧
    (let s := { stage with flt := { stage.flt with supq := [(0, [rec0])], regs := [(7, 0x80000000)] } }
     sgetD s.flt.supq 0 [] = rec0 :: [] ∧ (tileReg s 0 7).toNat / 2 ^ 31 % 2 = 1 ∧ sget s.flt.busy 0 = none ∧ (inboxOf s 0 0).length < 4 ∧
       sgetD stage.flt.supq 0 [] = []) ∧
    (let s := devIs stage (fun d => { d with level := 2, hen := true, dasid := 0 })
     ctxOf s 0 = some crewCtx ∧ haltEnabled s 0 = true ∧ sget s.flt.haltCtx 0 = none ∧ haltEnabled stage 0 = false) ∧
    (let τ := { worker [same 1] with step := 1 }
     (stage.setTask τ).task? = some τ ∧ τ.step = 1 ∧ τ.pos ≤ τ.len ∧ (worker [same 1]).step ≠ 1 ∧ haltRoom (stage.setTask τ) τ.ctx = true ∧
       (let u := { τ with tid := 0, pos := τ.len + 1 }
        (stage.setTask u).task? = some u ∧ u.step = 1 ∧ (peAt (stage.setTask u) 0 0).held = [] ∧
          0 ∈ { stage.frm with frozen := [0] }.frozen) ∧
       haltHolds (withFrame laid) 0 { τ with iter := 0 } = true ∧ haltHolds (base.setTask τ) 0 τ = false ∧ (withFrame laid).dev.pv = true) ∧
    (let r := { rec0 with framed := false, halt := some 8, fseq := 4, sup := true }
     let s := { stage with flt := { stage.flt with haltRecs := [(8, r)] } }
     ∀ k ∈ [OpKind.eres false 0 false, .ekill], let o := { opOf k with a := lanes ((recordWords r).map (BitVec.ofNat 32)) }
       currentRecord s o = none ∧ haltedRecord s o = some r ∧ handlerStatus s o = 0 ∧ haltedRecord stage o = none ∧ handlerStatus stage o ≠ 0) ∧
    (∀ n ∈ [(4 : Nat), 5], let o := { opOf (.eres false 0 false) with a := lanes [0, 0, 0, 0, 0, BitVec.ofNat 32 n] }
      (currentRecord parkedFrame o = if n = 4 then some { rec0 with fseq := 4 } else none)) ∧
    (∀ k ∈ [OpKind.eres false 0 false, .ekill], let o := { opOf k with a := lanes [0, 0, 0, 0, 0, 4] }
      Claims.Answers parkedFrame o { rec0 with fseq := 4 } 0 0) ∧
    (let x := { crewCtx with asid := 1 }
     let o := { opOf .esc with a := lanes [0, 0, 0, 0, 0, 4], cx := x }
     Claims.Answers { parkedFrame with ctxs := [(0, x)] } o { rec0 with fseq := 4 } 0 0) ∧
    rec0.halt = none ∧ rec0.row = 0 ∧ rec0.op = 0 := by
  unfold Claims.Subject Claims.MayDeliver Claims.Answers
  refine ⟨?_, ?_, ?_, ?_, ?_, ?_, ?_, ?_, ?_, ?_, ?_, ?_, ?_, ?_, ?_⟩ <;> decide +kernel

/-- A handler block that is none, one with two entries, and a paddock that is none; a slot of the block that is present and one that is not; what each kind of
record resumes; a frame with and without a further pending fault; a trough with a waiter. -/
theorem witness_FaultsAreTakenReportedAndAnswered_answers :
    (handlerGood (handled 0x80000007) 0 7 = false ∧ sget (handled 0).tab.blocks (0 * 256 + 7) = none ∧ receiver (handled 0x80000007) 0 rec0 = 0 ∧
      paddockGood (handled 0xC0000007) 0 0xC0000007 = false ∧ receiver (handled 0xC0000007) 0 rec0 = 0 ∧
      rec0.cause ≠ causeWatchdog ∧ rec0.cause ≠ causeSeqOrder ∧ ({ block0 with nin := 2 } : Block).nin ≠ 1) ∧
    (let o := { opOf (.eres true 0 false) with b := same 7 }
     let s := queued laid
     sget s.frm.slots (slotKey s 0 0 0 0 (block0.slot0 + 0)) = some (slotOf token) ∧ sget laid.frm.slots (slotKey laid 0 0 0 0 (block0.slot0 + 0)) = none ∧
       (laneOf o.b 0).isSome = true ∧ (∀ n, n < block0.nin → sget laid.frm.slots (slotKey laid 0 0 0 0 (block0.slot0 + n)) = none) ∧
       sget laid.tab.blocks (0 * 256 + 0) = some block0) ∧
    (∀ k ∈ [OpKind.ld .word, .dcopy 0 0, .mzero], let o := { opOf k with phase := .faulted }
      let r := { rec0 with op := 9 }
      r.halt = none ∧ r.row = 0 ∧ r.op ≠ 0 ∧ opById (turnOf 9 0 [o]) r.op = some o ∧ o.phase = .faulted ∧ k ∉ [OpKind.cfgld, .gait, .park] ∧
        ((∃ ch, chanOf k = some ch) ∨ (chanOf k = none ∧ (isUnit k = true ∨ isUnit k = false)))) ∧
    (({ rec0 with halt := some 3 } : FaultRec).halt = some 3 ∧ ({ rec0 with row := 3 } : FaultRec).row ≠ 0) ∧
    (let r := row0 1 rowConf []
     let s := { laid with rws := { laid.rws with rows := [r] } }
     s.rws.rows.find? (fun x => x.id == 3) = some r ∧ causeProbeHit ∈ [causeProbeHit, causeTapOrder] ∧ causeEngine ∉ [causeProbeHit, causeTapOrder]) ∧
    (pendingOf parkedFrame 0 0 0 0 = 0 ∧
      0 < pendingOf { parkedFrame with flt := { parkedFrame.flt with pending := [{ tile := 0, fr := rec0, deliver := true }] } } 0 0 0 0) ∧
    (let s := { stage with tab := { stage.tab with troughs := [(0 * 64 + 0, { trough0 with waiters := [.pe true 0 0 0 0 0 3 0] })] } }
     (sget (dropWaiters s 0 0 0 0).tab.troughs (0 * 64 + 0)).isSome = true) ∧
    (let o := { opOf (.give 2 8) with iter := 0, rank := 0, ctx := 0 }
     o ∈ (dropEngines (turnOf 9 0 [o]) 0 0 0 0).ops ∧ sameFrame o 0 0 0 0 = true ∧ o.tid = 0) := by
  refine ⟨by decide +kernel, by decide +kernel, ?_, by decide +kernel, by decide +kernel, by decide +kernel, by decide +kernel, by decide +kernel⟩
  intro k hk
  simp only [List.mem_cons, List.not_mem_nil, or_false] at hk
  rcases hk with rfl | rfl | rfl
  · exact ⟨rfl, rfl, by decide, rfl, rfl, by decide, .inr ⟨rfl, .inr rfl⟩⟩
  · exact ⟨rfl, rfl, by decide, rfl, rfl, by decide, .inl ⟨0, rfl⟩⟩
  · exact ⟨rfl, rfl, by decide, rfl, rfl, by decide, .inr ⟨rfl, .inl rfl⟩⟩

end Sys2Proof.Tests
end

/-! The scope of the model (log entries 2, 3, 4): what reset leaves, and what every step keeps of the memories. The laws of
`Sys2Proof/Laws/Canonical.lean` say of each operation that it keeps the memories canonical; here they are put together along the
dispatch of `exec` and the turns of `step`. -/

namespace Sys2Proof.Machine

/-! What reset leaves. -/

/-- R377: SIDX resets to 0x3F, every other register of a tile to 0. -/
theorem tileReg_reset (tile n : Nat) : tileReg State.reset tile n = if n = 4 then 0x3F else 0 := rfl

theorem owner_reset (tile : Nat) : sget State.reset.tab.owner tile = none := rfl

theorem ctxOf_reset (c : Nat) : ctxOf State.reset c = none := rfl

theorem run_reset (tile elem : Nat) : (peAt State.reset tile elem).run = none := rfl

theorem canonical_reset : State.reset.canonical = true := rfl

/-! What every step keeps. -/

/-- CBDEC changes the state beside its task: it corrects single-bit errors of the lattice rows it reads (R82), which is no write of a byte. -/
theorem execCbdec_canon {s : State} (a : Src) (f : Fmt) (entry : Nat) (hi : Bool) (t : Target) (hm : s.canonical = true) :
    Keeps (execCbdec a f entry hi t s) := by
  refine runBody_canon _ hm fun τ => ?_
  refine keepsBody_bind _ _ fun _ _ => keepsBody_bind _ _ fun _ _ => keepsBody_bind _ _ fun _ _ => keepsBody_ok ?_
  exact foldl_canon hm fun s x h => fixIsl_canon _ _ _ h

/-- Every instruction keeps the memories canonical: a block instruction that changes nothing but its task because `runTask` does, every
other one by its own law. -/
theorem exec_canon {s : State} (i : Instr) (hm : s.canonical = true) : Keeps (exec i s) := by
  unfold exec
  cases i with
  | addP | subP | andP | orP | xorP | shlP | shrP | sraP | minP | maxP | cmpP | add | sub | mul | mulh | mulhu | div | divu | rem | remu
    | and | or | xor | andn | shl | shr | sra | rot | min | max | minu | maxu | abs | clz | ctz | popc | brev | sxb | sxh | sx4 | zxb | zxh
    | zx4 | bfx | bfi | cmp | sel | lea | laff | lxor | lvcnt | lvfst | fminP | fmaxP | fcmpP | fadd | fsub | fmul | ffma | fmin | fmax
    | fabs | fneg | fcpys | fcpyn | fxsgn | fcmp | fclass | fcvt | frnd | ftoi | itof | hadd2 | hmul2 | hfma2 | ex2 | lg2 | rcp | rsq | sqrt
    | sin | cos | tanh | fdiv | li | lih | lit | addi | andi | ori | xori | shli | shri | srai | cmpeqi | cmplti | cmpltui | mfs | stp
    | give | lred | lscan | shuf | lbc | vdot | tacc | ltld | scacc | scmul | amax | rng | st | sflush | sinv | amo | cas | amosc
    | amof | hacq | hrel | htry | hbind | hunb | fence | bar | wait | qpost | qfree | qstat | ctxf | launch | mts | trap | dcopyG2p
    | dcopyP2g | dcopyP2p | dcopyP2t | dcopyApp | dgath | dscat | dhop | dbcst | dred | ncfg | brcfg | reinld | prbld | mma | mzero | mdrn
    | mlda | etld | mfsr | mtsr | tbi | shinv | plbc | cfgld | gait | idle | park | eres | esc | ekill | reservedOpcode | fwd | steer
    | steerc | split | pack | unpack | switchPol | switchLane | sendx | cancel | commit => exact runTask_canon _ hm
  | cbdec a f entry hi t => exact execCbdec_canon a f entry hi t hm
  | faddP => exact execFaddP_canon _ _ _ hm
  | fsubP => exact execFsubP_canon _ _ _ hm
  | fmulP => exact execFmulP_canon _ _ _ hm
  | ldp => exact execLdp_canon _ _ _ hm
  | bankGrant => exact execBankGrant_canon hm
  | sramScrub => exact execSramScrub_canon hm
  | dramScrub => exact execDramScrub_canon hm
  | stashEviction => exact execStashEviction_canon hm
  | translationMiss => exact execTranslationMiss_canon hm
  | pageWalk => exact execPageWalk_canon hm
  | walkComplete => exact execWalkComplete_canon hm
  | ld => exact execLd_canon _ _ _ _ _ hm
  | ldch => exact execLdch_canon _ _ _ _ _ hm
  | pref => exact execPref_canon _ _ _ _ hm
  | qrsv => exact execQrsv_canon _ _ _ hm
  | qtake => exact execQtake_canon _ _ _ hm
  | troughWaiterServe => exact execTroughWaiterServe_canon hm
  | halt => exact execHalt_canon hm
  | stepHalt => exact execStepHalt_canon hm
  | loadResponseReturn => exact execLoadResponseReturn_canon hm
  | dramRequest => exact execDramRequest_canon hm
  | batonVisit => exact execBatonVisit_canon hm
  | seqOrder => exact execSeqOrder_canon hm
  | stashFill => exact execStashFill_canon hm
  | giveFlip => exact execGiveFlip_canon hm
  | ldchNode => exact execLdchNode_canon hm
  | waitEmit => exact execWaitEmit_canon hm
  | fenceRelease => exact execFenceRelease_canon hm
  | smodeWrite => exact execSmodeWrite_canon hm
  | deviceRegisterWrite => exact execDeviceRegisterWrite_canon hm
  | ticketOrder => exact execTicketOrder_canon hm
  | hitchRequestArrival => exact execHitchRequestArrival_canon hm
  | barrierArrival => exact execBarrierArrival_canon hm
  | ctxa => exact execCtxa_canon _ _ _ hm
  | spawn => exact execSpawn_canon _ _ _ _ _ hm
  | brk => exact execBrk_canon _ hm
  | contextFree => exact execContextFree_canon hm
  | hitchReleaseArrival => exact execHitchReleaseArrival_canon hm
  | hitchGrantArrival => exact execHitchGrantArrival_canon hm
  | baleLookup => exact execBaleLookup_canon hm
  | drayCommandStart => exact execDrayCommandStart_canon hm
  | drayComplete => exact execDrayComplete_canon hm
  | drayFail => exact execDrayFail_canon hm
  | remoteDrayWrite => exact execRemoteDrayWrite_canon hm
  | dhopArrival => exact execDhopArrival_canon hm
  | dredCombine => exact execDredCombine_canon hm
  | append => exact execAppend_canon hm
  | appendRetry => exact execAppendRetry_canon hm
  | placementMiss => exact execPlacementMiss_canon hm
  | tokenArrival => exact execTokenArrival_canon hm
  | cancelTokenArrival => exact execCancelTokenArrival_canon hm
  | outputBufferSend => exact execOutputBufferSend_canon hm
  | edgeEgressWrite => exact execEdgeEgressWrite_canon hm
  | edgeIngressInject => exact execEdgeIngressInject_canon hm
  | groomInboxArrival => exact execGroomInboxArrival_canon hm
  | brcfgStat => exact execBrcfgStat_canon _ _ hm
  | normaliserSegment => exact execNormaliserSegment_canon hm
  | bridleSegment => exact execBridleSegment_canon hm
  | reinldApply => exact execReinldApply_canon hm
  | prbldApply => exact execPrbldApply_canon hm
  | mmaApply => exact execMmaApply_canon hm
  | mzeroApply => exact execMzeroApply_canon hm
  | mldaApply => exact execMldaApply_canon hm
  | mdrnApply => exact execMdrnApply_canon hm
  | etldApply => exact execEtldApply_canon hm
  | taccApply => exact execTaccApply_canon hm
  | fold => exact execFold_canon _ _ _ hm
  | ffin => exact execFfin_canon _ _ hm
  | foldApply => exact execFoldApply_canon hm
  | foldRetry => exact execFoldRetry_canon hm
  | ffinApply => exact execFfinApply_canon hm
  | tbShootdownArrival => exact execTbShootdownArrival_canon hm
  | tbiCompletion => exact execTbiCompletion_canon hm
  | baleShootdownArrival => exact execBaleShootdownArrival_canon hm
  | shinvCompletion => exact execShinvCompletion_canon hm
  | placementBroadcastArrival => exact execPlacementBroadcastArrival_canon hm
  | plbcCompletion => exact execPlbcCompletion_canon hm
  | idleRestart => exact execIdleRestart_canon hm
  | quadrantEnterP2 => exact execQuadrantEnterP2_canon hm
  | quadrantWake => exact execQuadrantWake_canon hm
  | tileClockWake => exact execTileClockWake_canon hm
  | qreqP0 => exact execQreqP0_canon hm
  | qreqP1 => exact execQreqP1_canon hm
  | qreqP2 => exact execQreqP2_canon hm
  | gerrClear => exact execGerrClear_canon hm
  | svecWrite => exact execSvecWrite_canon hm
  | asyncFaultReport => exact execAsyncFaultReport_canon hm
  | faultDelivery => exact execFaultDelivery_canon hm
  | supervisorFaultDequeue => exact execSupervisorFaultDequeue_canon hm
  | taskFire => exact execTaskFire_canon hm
  | blockCommit => exact execBlockCommit_canon hm
  | taskClassAging => exact execTaskClassAging_canon hm
  | watchdog => exact execWatchdog_canon hm
  | stageBalance => exact execStageBalance_canon hm
  | commitEntry => exact execCommitEntry_canon hm
  | launchRecordAging => exact execLaunchRecordAging_canon hm
  | launchIntake => exact execLaunchIntake_canon hm
  | tileFree => exact execTileFree_canon hm
  | quadrantReport => exact execQuadrantReport_canon hm
  | launchEnd => exact execLaunchEnd_canon hm
  | runBarrierReached => exact execRunBarrierReached_canon hm
  | regionShrink => exact execRegionShrink_canon _ _ _ _ hm
  | fullSave => exact execFullSave_canon hm
  | resume => exact execResume_canon hm
  | allocationPass => exact execAllocationPass_canon hm
  | rdmaWrite => exact execRdmaWrite_canon _ _ _ _ hm
  | rdmaRead => exact execRdmaRead_canon _ _ _ _ hm
  | rdmaInvalidRequest => exact execRdmaInvalidRequest_canon _ hm
  | sttLaunch => exact execSttLaunch_canon _ _ _ _ hm
  | sttTokens => exact execSttTokens_canon _ _ _ _ hm
  | mrreg => exact execMrreg_canon _ _ _ _ _ _ _ _ _ hm
  | mrdereg => exact execMrdereg_canon _ _ _ _ hm
  | ctrlPreempt => exact execCtrlPreempt_canon _ _ _ _ _ hm
  | ctrlHalt => exact execCtrlHalt_canon _ _ _ _ _ hm
  | ctrlFwd => exact execCtrlFwd_canon _ _ _ _ hm
  | getVersion => exact execGetVersion_canon _ _ _ hm
  | getCapabilities => exact execGetCapabilities_canon _ _ _ hm
  | negotiateAlgorithms => exact execNegotiateAlgorithms_canon _ _ _ hm
  | getDigests => exact execGetDigests_canon _ _ _ hm
  | getCertificate => exact execGetCertificate_canon _ _ _ hm
  | challenge => exact execChallenge_canon _ _ _ hm
  | getMeasurements => exact execGetMeasurements_canon _ _ _ hm
  | keyExchange => exact execKeyExchange_canon _ _ _ hm
  | finish => exact execFinish_canon _ _ _ hm
  | debugUnlock => exact execDebugUnlock_canon _ _ _ _ hm
  | spdmUnsupportedRequest => exact execSpdmUnsupportedRequest_canon _ _ _ hm
  | sttDiscard => exact execSttDiscard_canon _ _ _ hm
  | connectionManager => exact execConnectionManager_canon _ _ _ hm
  | governorMeasure => exact execGovernorMeasure_canon _ hm
  | recoveryImage => exact execRecoveryImage_canon _ _ _ _ hm
  | mrlPlaneDown => exact execMrlPlaneDown_canon _ hm
  | mrlKeyChange => exact execMrlKeyChange_canon _ hm
  | setPlimit => exact execSetPlimit_canon _ hm
  | mrlPlaneUp => exact execMrlPlaneUp_canon _ hm
  | startup => exact execStartup_canon hm
  | getTelemetry => exact execGetTelemetry_canon hm
  | setPowerP3 => exact execSetPowerP3_canon hm
  | setPowerP0 => exact execSetPowerP0_canon hm
  | getBootrec => exact execGetBootrec_canon hm
  | powerLoss => exact execPowerLoss_canon hm
  | sqEnd => exact execSqEnd_canon _ hm
  | sqCfg => exact execSqCfg_canon _ _ hm
  | sqRun => exact execSqRun_canon _ _ _ hm
  | sqIf => exact execSqIf_canon _ _ _ _ _ hm
  | sqJmp => exact execSqJmp_canon _ hm
  | sqGait => exact execSqGait_canon _ hm
  | sqSig => exact execSqSig_canon _ _ _ hm
  | sqBar => exact execSqBar_canon hm
  | reservedSequencerWord => exact execReservedSequencerWord_canon hm

/-- An element's turn keeps the memories canonical: it executes what it decodes, or passes. -/
theorem issueTurn_canon {s : State} (hm : s.canonical = true) : Keeps (issueTurn s) := by
  unfold issueTurn
  split
  · exact keeps_next hm
  · split
    · split <;> exact exec_canon _ hm
    · exact keeps_next hm

/-- The sequencer's turn keeps the memories canonical. -/
theorem seqTurn_canon {s : State} (q : Nat) (hm : s.canonical = true) : Keeps (seqTurn q s) := by
  unfold seqTurn
  split
  · exact keeps_next hm
  · split <;> exact exec_canon _ hm

/-- One step keeps the memories canonical, whichever turn is the head of the agenda: taking it off the agenda touches no memory. -/
theorem step_canon {s : State} (hm : s.canonical = true) : Keeps (step s) := by
  unfold step
  split
  · exact keeps_next (refill_canon hm)
  · exact issueTurn_canon hm
  · exact seqTurn_canon _ hm
  · exact exec_canon _ hm

end Sys2Proof.Machine

namespace Sys2Proof.Proofs

open Sys2Proof.Machine

/-- Settles O4: the canonical form is kept by each kind of turn. -/
theorem memoryStaysCanonical : Obligations.MemoryStaysCanonical := fun _ t hm hs => (step_canon hm).next t hs

/-- Settles O5: the registers, tables and memories of `State.reset` as R4, R70, R160, R377, R394, R449, R452, R454 and log entries 2, 3
and 4 give them. -/
theorem resetLeaves : Obligations.ResetLeaves := by
  refine ⟨canonical_reset, rfl, rfl, rfl, rfl, rfl, rfl, rfl, rfl, owner_reset, ctxOf_reset, run_reset, ?_, ?_⟩
  · intro tile
    rw [tileReg_reset, if_pos rfl]
  · intro tile n hn
    rw [tileReg_reset, if_neg hn]

end Sys2Proof.Proofs

namespace Sys2Proof.Machine

/-! Queue instructions (O37): a slot that a groom task of the same context, iteration, block and position holds. -/

/-- A trough of one slot, which is taken from the free ones. -/
def spentTrough : Trough :=
  { pen0 := 3, nslot := 1, pkind := 0, ckind := 0, free := 0, rsvd := 1, filled := 0, taken := 0, nxr := 0, nxp := 0, nxt := 0, nxf := 0,
    posted := [], freed := [], voids := [], waiters := [] }

/-- The slot as a groom task holds it. -/
def groomSlot : Owned := { tile := 0, rank := 0, ctx := 0, iter := 0, blk := 0, pos := 0, pen := 3, take := false, groom := true }

/-- PE 0 of tile 0 runs a frame's task; its tile has port 0 and the trough, whose slot the groom task of the same tag, block and
position holds. -/
def groomHolds : State :=
  let s := placeBlockWord State.reset 0 0
  { s with
    tab := { s.tab with
      plan := [(0, { stash := 0, loft := 0, ntrg := 1, plog2 := 6, wlog2 := 0 })]
      ports := [(0, { top := 0, dests := [] })]
      troughs := [(0, spentTrough)] }
    frm := { s.frm with owned := [groomSlot] } }

theorem runs_groomHolds : Runs groomHolds probeTask := rfl

/-- `Claims.held` counts the groom task's slot among the frame's. -/
theorem held_groomHolds : Claims.held groomHolds probeTask = [groomSlot] := by decide +kernel

/-- A result whose state still runs a task on the acting element. -/
def stillRuns : Result → Bool
  | .next t => t.task?.isSome
  | _ => false

/-- The frame's QRSV finds no slot of its own (R293) and none free, so that its task ends and waits. -/
theorem qrsv_groomHolds_ends : stillRuns (exec (.qrsv .zero 0 .discard) groomHolds) = false := by decide +kernel

theorem stillRuns_of_writes {i : Instr} {s : State} {τ : Task} {t : Target} {v : Lanes} {n : Nat} (h : Writes i s τ t v n) :
    stillRuns (exec i s) = true := by
  obtain ⟨τ', -, he⟩ := h
  rw [he]
  simp [stillRuns, task_setTask]

end Sys2Proof.Machine

namespace Sys2Proof.Proofs
open Sys2Proof.Machine

/-- Refutes O37: the position's own slot is answered again only where a task of the same kind holds it, and `Claims.held` does not tell a
groom task's slot from a frame task's. In `groomHolds` they have the same tag, block and position, and QRSV ends its task. -/
theorem not_troughSlotsMoveAtIssue : ¬ Obligations.TroughSlotsMoveAtIssue := by
  intro h
  have lane : laneOf (readSrc probeTask false .zero) 0 = some 0 := by decide
  have some_lane : Claims.SomeLane probeTask [readSrc probeTask false .zero] := by
    refine ⟨0, by decide, by decide, ?_⟩
    simp [lane]
  obtain ⟨-, -, htrough⟩ := h (.qrsv, false) (by simp) .zero 0 .discard groomHolds probeTask 0 runs_groomHolds (by simp [SrcsOk, srcOk]) rfl
    (by decide +kernel) some_lane lane
  obtain ⟨-, hpe⟩ := htrough spentTrough (by decide) ⟨by decide +kernel, by decide +kernel⟩
  obtain ⟨again, -⟩ := hpe (by decide)
  have hw := again groomSlot (by simp [held_groomHolds]) rfl rfl rfl (by simp [held_groomHolds]) ⟨rfl, by simp⟩
  exact absurd (stillRuns_of_writes hw) (by simp [qrsv_groomHolds_ends])

end Sys2Proof.Proofs

namespace Sys2Proof.Machine

/-! Tokens on the mesh (R74, R75, R182 to R184, R191, R256, R460): what their arrival comes to, case by case. -/

/-- R182: one flit holds 12 lanes, two hold 28. -/
theorem flitsOf_length (f : Flight) :
    (flitsOf f).length = if f.tok.hdr.can = true ∨ f.tok.hdr.wm1 + 1 ≤ 12 then 1 else if f.tok.hdr.wm1 + 1 ≤ 28 then 2 else 3 := by
  have one : (f.tok.hdr.wm1 < 12) = (f.tok.hdr.wm1 + 1 ≤ 12) := rfl
  have two : (f.tok.hdr.wm1 < 28) = (f.tok.hdr.wm1 + 1 ≤ 28) := rfl
  simp only [flitsOf, flitCount, upto, List.length_cons, List.length_map, List.length_range, Bool.or_eq_true, decide_eq_true_eq, one, two]
  split
  · rfl
  · split <;> rfl

theorem outputBufferSend_sends {s : State} {e : OutEntry} {d : Dest} {st t r : Nat}
    (he : s.net.outs.find? (fun e => e.id == s.occ.b && e.tile == s.occ.a) = some e) (hp : e.pend[s.occ.c]? = some (d, st)) (h1 : st ≠ 1)
    (h0 : st = 0 → olderUnsent s e d = false) (hf : e.tile ∉ s.frm.frozen) (ht : placeTile s (outOwner s e) d.tile = some (t, r))
    (hq : sgetD s.dev.qcur (quadOf t) 0 ≠ 2) :
    execOutputBufferSend s = .next { s with
      nextId := s.nextId + 1,
      net := { s.net with
        outs := s.net.outs.map (fun x => if x.id == e.id then { e with pend := lset e.pend s.occ.c (d, 1) } else x),
        mesh := s.net.mesh ++ [{ id := s.nextId, tile := t, rank := r, dest := d, entry := e.id,
                                 tok := { e.tok with hdr := { e.tok.hdr with slot := d.slot } } }] } } := by
  have hold : (decide (st = 1) || decide (st = 0) && olderUnsent s e d || s.frm.frozen.contains e.tile) = false := by
    rw [List.contains_eq_mem, decide_eq_false hf, decide_eq_false h1]
    by_cases h : st = 0
    · simp [h0 h]
    · simp [h]
  have awake : (some (t, r)).filter (fun p => sgetD s.dev.qcur (quadOf p.1) 0 != 2) = some (t, r) := by simp [Option.filter, hq]
  simp only [execOutputBufferSend, he, hp, hold, ht, awake, Bool.false_eq_true, if_false, setOut]

/-! The token that arrives. -/

theorem arriving_of_comes {s : State} {f : Flight} {ok : Flight → Bool} (h : Claims.Comes s f) (hf : ok f = true) : arriving s ok = some f := by
  obtain ⟨hfind, hold⟩ := h
  simp [arriving, hfind, hf, hold]

/-- R169: the stage of the block holds as many tasks as it may. -/
def stageFull (s : State) (f : Flight) (b : Block) : Bool :=
  (sget s.tab.stages (f.tile * 16 + b.stage)).elim false (fun g => decide (g.depth ≤ stageLoad s f.tile b.stage))

theorem stageFull_iff (s : State) (f : Flight) (b : Block) :
    stageFull s f b = true ↔ ∃ g, sget s.tab.stages (f.tile * 16 + b.stage) = some g ∧ g.depth ≤ stageLoad s f.tile b.stage := by
  unfold stageFull
  cases sget s.tab.stages (f.tile * 16 + b.stage) <;> simp

theorem execTokenArrival_of_comes {s : State} {f : Flight} (h : Claims.Comes s f) (he : f.dest.elem = 0) (hc : f.tok.hdr.can = false) :
    execTokenArrival s = .next (takeIn s f (fun _ _ => true) (fun s blk _ => writeSlot s f blk) (stageFull s f)) := by
  unfold execTokenArrival
  rw [arriving_of_comes h (by simp [he, hc])]
  rfl

theorem no_held_cancel {s : State} (h : ∀ c ∈ s.frm.cancels, c.id ≠ s.occ.a) : s.frm.cancels.find? (·.id == s.occ.a) = none := by
  simpa [List.find?_eq_none] using h

theorem execCancelTokenArrival_of_comes {s : State} {f : Flight} (h : Claims.Comes s f) (hc : f.tok.hdr.can = true)
    (hh : ∀ c ∈ s.frm.cancels, c.id ≠ s.occ.a) :
    execCancelTokenArrival s = .next (if f.dest.elem = 0 then
      takeIn s f (fun slot b => b.slot0 == slot) (fun s blk b => cancelBlock s f blk b) (fun _ => false) else count (acceptFlight s f) 4 f.tile) := by
  unfold execCancelTokenArrival
  rw [no_held_cancel hh, arriving_of_comes h hc]
  simp only []
  split <;> rfl

/-- R460: the tile serves the token's context. -/
theorem ctxServed_eq_some {s : State} {tile c : Nat} {x : Ctx} (hx : ctxOf s c = some x) (hq : x.q = sgetD s.tab.owner tile 4096)
    (hs : x.st = .live ∨ x.st = .ending) : ctxServed s tile c = some x := by
  have hb : (x.q == ownerOf s tile && (x.st == .live || x.st == .ending)) = true := by
    rcases hs with h | h <;> simp [ownerOf, hq, h]
  simp [ctxServed, hx, hb]

theorem ctxServed_eq_none {s : State} {tile c : Nat}
    (h : ∀ x, ctxOf s c = some x → ¬ (x.q = sgetD s.tab.owner tile 4096 ∧ (x.st = .live ∨ x.st = .ending))) : ctxServed s tile c = none := by
  unfold ctxServed
  cases hx : ctxOf s c with
  | none => rfl
  | some x =>
    refine if_neg fun hb => h x hx ?_
    simpa [ownerOf] using hb

section TakeIn
variable {s : State} {f : Flight} {slotOk : Nat → Block → Bool} {k : State → Nat → Block → State} {full : Block → Bool}
  {x : Ctx} {blk : Nat} {b : Block}

theorem takeIn_of_not_served (h : ctxServed s f.tile f.tok.hdr.ctx = none) : takeIn s f slotOk k full = if pendingCount s f.tile < 1024
    then enqueueFault (acceptFlight s f) f.tile (bareRecord (ltileOf s f.tile f.rank) causeDuptag 0x01 (tagWord f.tok.hdr))
    else refuseFlight s f := by
  simp [takeIn, h, faultOr]

theorem takeIn_of_no_block (hx : ctxServed s f.tile f.tok.hdr.ctx = some x) (hb : blockOfSlot s f.tile f.dest.slot = none) :
    takeIn s f slotOk k full = count (acceptFlight s f) 4 f.tile := by
  simp [takeIn, hx, hb]

theorem takeIn_of_bad_slot (hx : ctxServed s f.tile f.tok.hdr.ctx = some x) (hb : blockOfSlot s f.tile f.dest.slot = some (blk, b))
    (h : 2 ^ (fplanOf s f.tile f.rank f.tok.hdr.ctx).fslog2 ≤ f.dest.slot ∨ slotOk f.dest.slot b = false) :
    takeIn s f slotOk k full = count (acceptFlight s f) 4 f.tile := by
  simp [takeIn, hx, hb, h]

/-- R74: a token for a slot of the frame meets the window. -/
theorem takeIn_of_slot (hx : ctxServed s f.tile f.tok.hdr.ctx = some x) (hb : blockOfSlot s f.tile f.dest.slot = some (blk, b))
    (hn : f.dest.slot < 2 ^ (fplanOf s f.tile f.rank f.tok.hdr.ctx).fslog2) (hs : slotOk f.dest.slot b = true) :
    takeIn s f slotOk k full =
      match gate s f.tile f.rank f.tok.hdr.ctx f.tok.hdr.iter with
      | .wait => refuseFlight s f
      | .late => faultOr s f (lateRoom s f) (lateToken (acceptFlight s f) f.tile f.rank f.tok.hdr)
      | .live => if full b then refuseFlight s f else k s blk b
      | .claim =>
        if x.st == .ending then faultOr s f (lateRoom s f) (lateToken (acceptFlight s f) f.tile f.rank f.tok.hdr)
        else if full b then refuseFlight s f
        else k (claimFrame s f.tile f.rank f.tok.hdr.ctx f.tok.hdr.iter) blk b := by
  have hn' : ¬ 2 ^ (fplanOf s f.tile f.rank f.tok.hdr.ctx).fslog2 ≤ f.dest.slot := Nat.not_le.2 hn
  simp only [takeIn, hx, hb, hs, hn', decide_false, Bool.not_true, Bool.or_self, Bool.false_eq_true, if_false] <;> rfl

/-- The frame takes the token: its block's stage decides, and a free frame is claimed first. -/
theorem takeIn_of_frameTakes {claims : Bool} (h : Claims.FrameTakes s f x blk b claims) (hs : slotOk f.dest.slot b = true) :
    takeIn s f slotOk k full = if full b then refuseFlight s f
      else k (if claims then claimFrame s f.tile f.rank f.tok.hdr.ctx f.tok.hdr.iter else s) blk b := by
  obtain ⟨hx, hq, hst, hb, hn, hg⟩ := h
  have served : ctxServed s f.tile f.tok.hdr.ctx = some x := ctxServed_eq_some hx hq (hst.imp id (·.1))
  rw [takeIn_of_slot served hb hn hs, hg]
  cases claims with
  | false => rfl
  | true =>
    have live : x.st = .live := by simpa using hst
    simp [live]

end TakeIn

/-! What the window decides. -/

theorem gate_decides : Claims.GateDecides := by
  intro s tile rank c i w n
  refine ⟨fun h => if_pos h, fun h => ?_, fun hlo hhi => ?_⟩
  · have below : ¬ w.low + n ≤ i := Nat.not_le.2 (Nat.lt_of_lt_of_le h (Nat.le_add_right _ _))
    exact (if_neg below).trans (if_pos h)
  · have inside : gate s tile rank c i = match sget w.pos (i % n) with
        | some p => if p.it == i && p.rt then .late else if p.it == i && p.lv then .live else if p.it == i then .claim else .wait
        | none => .claim := (if_neg (Nat.not_le.2 hhi)).trans (if_neg (Nat.not_lt.2 hlo))
    refine ⟨fun h => by rw [inside, h], fun p h hp => ?_⟩
    rw [inside, h]
    simp only [hp, beq_self_eq_true, Bool.true_and, if_true]

/-- Both events bring what arrives to the frame store; a cancel must name its block's first slot (R184). -/
theorem arrival_takeIn {s : State} {f : Flight} {i : Instr} (hc : Claims.Comes s f) (he : f.dest.elem = 0)
    (hi : (f.tok.hdr.can = false ∧ i = .tokenArrival) ∨
      (f.tok.hdr.can = true ∧ i = .cancelTokenArrival ∧ ∀ c ∈ s.frm.cancels, c.id ≠ s.occ.a)) :
    ∃ slotOk k full, exec i s = .next (takeIn s f slotOk k full) ∧
      ∀ b : Block, slotOk f.dest.slot b = true ↔ (f.tok.hdr.can = true → f.dest.slot = b.slot0) := by
  rcases hi with ⟨hcan, rfl⟩ | ⟨hcan, rfl, hh⟩
  · exact ⟨_, _, _, execTokenArrival_of_comes hc he hcan, by simp [hcan]⟩
  · refine ⟨_, _, _, (execCancelTokenArrival_of_comes hc hcan hh).trans (by rw [if_pos he]), fun b => ?_⟩
    simp only [hcan, beq_iff_eq, true_implies]
    exact eq_comm

theorem tokens_turned_away : Claims.TokensTurnedAway := by
  intro s f i hc he hi h served
  obtain ⟨slotOk, k, full, hexec, hok⟩ := arrival_takeIn hc he hi
  refine ⟨fun hx => ?_, fun x hx hserved => ?_⟩
  · have not_served := takeIn_of_not_served (slotOk := slotOk) (k := k) (full := full) (ctxServed_eq_none hx)
    exact ⟨fun hp => hexec.trans (by rw [not_served, if_pos hp]), fun hp => hexec.trans (by rw [not_served, if_neg (by omega)])⟩
  · have hx' : ctxServed s f.tile h.ctx = some x := ctxServed_eq_some hx hserved.1 hserved.2
    refine ⟨fun hb => hexec.trans (by rw [takeIn_of_no_block hx' hb]), fun blk b hb => ⟨fun hbad => ?_, fun hn hslot => ?_⟩⟩
    · rw [Claims.Gives, hexec, takeIn_of_bad_slot hx' hb]
      refine hbad.imp id fun hbad => ?_
      rw [Bool.eq_false_iff, Ne, hok]
      exact fun hs => hbad.2 (hs hbad.1)
    · have meets := takeIn_of_slot (k := k) (full := full) hx' hb hn ((hok b).2 hslot)
      refine ⟨fun hg => hexec.trans (by rw [meets, hg]), fun hg => ?_⟩
      have late : takeIn s f slotOk k full = faultOr s f (lateRoom s f) (lateToken (acceptFlight s f) f.tile f.rank h) := by
        rcases hg with hg | ⟨hg, hending⟩
        · rw [meets, hg]
        · rw [meets, hg]
          simp [hending, h]
      exact ⟨fun hroom => hexec.trans (by rw [late, faultOr, lateRoom, hroom]; rfl),
        fun hroom => hexec.trans (by rw [late, faultOr, lateRoom, hroom]; rfl)⟩

/-! R75: the slot that a token is for. -/

theorem writeSlot_of_empty {s : State} {f : Flight} {blk : Nat}
    (h : sget s.frm.slots (slotKey s f.tile f.rank f.tok.hdr.ctx f.tok.hdr.iter f.dest.slot) = none) :
    writeSlot s f blk =
      let k := slotKey s f.tile f.rank f.tok.hdr.ctx f.tok.hdr.iter f.dest.slot
      let s2 := clearSlot (acceptFlight s f) k (fun l => (laneOf f.tok.lanes l).isSome)
      wake { s2 with frm := { s2.frm with slots := sset s2.frm.slots k (slotOf f.tok) } } f.tile f.rank f.tok.hdr.ctx f.tok.hdr.iter blk := by
  simp [writeSlot, h]

theorem writeSlot_of_filled {s : State} {f : Flight} {blk : Nat} {y : Slot}
    (h : sget s.frm.slots (slotKey s f.tile f.rank f.tok.hdr.ctx f.tok.hdr.iter f.dest.slot) = some y) :
    writeSlot s f blk = if y.seg = f.tok.hdr.seg then
      faultOr s f (faultRoom s f.tile f.rank f.tok.hdr.ctx f.tok.hdr.iter)
        (raiseFrame (acceptFlight s f) f.tile f.rank f.tok.hdr.ctx f.tok.hdr.iter causeDuptag 0x00 (tagWord f.tok.hdr))
      else refuseFlight s f := by
  simp [writeSlot, h]

/-! R184: the frame that a cancel reaches is live once it is claimed. -/

theorem answerHost_frm_tab (s : State) (h : Nat × Stt) (kind val : Nat) (data : List (BitVec 8)) :
    (answerHost s h kind val data).frm = s.frm ∧ (answerHost s h kind val data).tab = s.tab := by
  unfold answerHost
  split <;> exact ⟨rfl, rfl⟩

/-- Accepting a token changes neither the frame store nor the tables. -/
theorem acceptFlight_frm_tab (s : State) (f : Flight) : (acceptFlight s f).frm = s.frm ∧ (acceptFlight s f).tab = s.tab := by
  unfold acceptFlight settleTokens
  refine foldl_keeps (fun t : State => t.frm = s.frm ∧ t.tab = s.tab) _ _ _ ⟨rfl, rfl⟩ fun t r ht => ?_
  obtain ⟨hf, htab⟩ := answerHost_frm_tab t (r.1, r.2.1) 5 r.2.2.2 []
  exact ⟨hf.trans ht.1, htab.trans ht.2⟩

theorem positionOf_congr {s t : State} (hf : t.frm = s.frm) (ht : t.tab = s.tab) (tile rank c i : Nat) :
    positionOf t tile rank c i = positionOf s tile rank c i := by
  simp only [positionOf, fplanOf, windowOf, winKey, planOf, hf, ht]

theorem windowOf_setWindow (s : State) (tile rank c : Nat) (w : Window) : windowOf (setWindow s tile rank c w) tile rank c = w :=
  sgetD_sset_same _ _ _ _

theorem positionOf_setPosition (s : State) (tile rank c i : Nat) (p : Position) (h : p.it = i) :
    positionOf (setPosition s tile rank c i p) tile rank c i = some p := by
  have plan : fplanOf (setPosition s tile rank c i p) tile rank c = fplanOf s tile rank c := by
    simp only [fplanOf, setPosition, windowOf_setWindow]
    rfl
  rw [positionOf, plan]
  simp only [setPosition, windowOf_setWindow, sget_sset_same]
  exact if_pos h

theorem it_of_positionOf {s : State} {tile rank c i : Nat} {p : Position} (h : positionOf s tile rank c i = some p) : p.it = i := by
  unfold positionOf at h
  split at h
  · split at h
    · obtain rfl := Option.some.inj h
      assumption
    · cases h
  · cases h

theorem claimed_live (s : State) (tile rank c i : Nat) : ∃ p, positionOf (claimFrame s tile rank c i) tile rank c i = some p ∧ p.lv = true := by
  have it : ((positionOf s tile rank c i).getD { noPosition with it := i }).it = i := by
    cases h : positionOf s tile rank c i with
    | none => rfl
    | some p => exact it_of_positionOf h
  exact ⟨_, positionOf_setPosition _ _ _ _ _ _ it, rfl⟩

theorem live_of_gate {s : State} {tile rank c i : Nat} (h : gate s tile rank c i = .live) :
    ∃ p, positionOf s tile rank c i = some p ∧ p.lv = true := by
  unfold gate at h
  unfold positionOf
  cases hp : sget (windowOf s tile rank c).pos (i % 2 ^ (fplanOf s tile rank c).flog2) with
  | none => simp [hp] at h; grind
  | some p =>
    simp only [hp] at h
    grind

/-- The frame that takes what arrives is live when the cancel is applied. -/
theorem taken_live {s : State} {f : Flight} {x : Ctx} {blk : Nat} {b : Block} {claims : Bool} (h : Claims.FrameTakes s f x blk b claims) :
    ∃ p, positionOf (acceptFlight (if claims then claimFrame s f.tile f.rank f.tok.hdr.ctx f.tok.hdr.iter else s) f)
      f.tile f.rank f.tok.hdr.ctx f.tok.hdr.iter = some p ∧ p.lv = true := by
  obtain ⟨-, -, -, -, -, hg⟩ := h
  obtain ⟨hf, ht⟩ := acceptFlight_frm_tab (if claims then claimFrame s f.tile f.rank f.tok.hdr.ctx f.tok.hdr.iter else s) f
  rw [positionOf_congr hf ht]
  cases claims with
  | false => exact live_of_gate hg
  | true => exact claimed_live _ _ _ _ _

theorem applyCancel_of_live {s : State} {f : Flight} {blk : Nat} {b : Block}
    (h : ∃ p, positionOf s f.tile f.rank f.tok.hdr.ctx f.tok.hdr.iter = some p ∧ p.lv = true) :
    applyCancel s f blk b = Claims.cancelled s f blk b := by
  obtain ⟨p, hp, hlv⟩ := h
  have live : (positionOf s f.tile f.rank f.tok.hdr.ctx f.tok.hdr.iter).elim false (·.lv) = true := by rw [hp]; exact hlv
  exact congrArg (forwardCancel · f b) (if_pos live)

theorem applyCancel_of_not_live {s : State} {f : Flight} {blk : Nat} {b : Block}
    (h : ∀ p, positionOf s f.tile f.rank f.tok.hdr.ctx f.tok.hdr.iter = some p → p.lv = false) :
    applyCancel s f blk b = forwardCancel s f b := by
  have dead : ¬ (positionOf s f.tile f.rank f.tok.hdr.ctx f.tok.hdr.iter).elim false (·.lv) = true := by
    cases hp : positionOf s f.tile f.rank f.tok.hdr.ctx f.tok.hdr.iter with
    | none => simp
    | some p => simp [h p hp]
  exact congrArg (forwardCancel · f b) (if_neg dead)

theorem execCancelTokenArrival_of_held {s : State} {f : Flight} (h : s.frm.cancels.find? (·.id == s.occ.a) = some f) :
    execCancelTokenArrival s = .next (heldCancel s f) := by
  simp [execCancelTokenArrival, h]

theorem heldCancel_of_running {s : State} {f : Flight} {blk : Nat} {b : Block} (hb : blockOfSlot s f.tile f.dest.slot = some (blk, b))
    (hr : running s f.tile f.rank f.tok.hdr.ctx f.tok.hdr.iter blk = true) : heldCancel s f = s := by
  simp [heldCancel, hb, hr]

theorem heldCancel_of_idle {s : State} {f : Flight} {blk : Nat} {b : Block} (hb : blockOfSlot s f.tile f.dest.slot = some (blk, b))
    (hr : running s f.tile f.rank f.tok.hdr.ctx f.tok.hdr.iter blk = false) :
    heldCancel s f = wake (applyCancel { s with frm := { s.frm with cancels := s.frm.cancels.filter (·.id != f.id) } } f blk b)
      f.tile f.rank f.tok.hdr.ctx f.tok.hdr.iter blk := by
  simp [heldCancel, hb, hr]

/-! The groom inbox and the commit stage. -/

theorem execGroomInboxArrival_of_comes {s : State} {f : Flight} (h : Claims.Comes s f) (he : f.dest.elem = 4) (hc : f.tok.hdr.can = false) :
    execGroomInboxArrival s = .next (
      if 4 ≤ (inboxOf s f.tile f.dest.slot).length then refuseFlight s f
      else wakeGroom { acceptFlight s f with frm := { (acceptFlight s f).frm with
        inbox := sset (acceptFlight s f).frm.inbox (f.tile * 512 + f.dest.slot) (inboxOf s f.tile f.dest.slot ++ [f.tok]) } } f.tile) := by
  unfold execGroomInboxArrival
  rw [arriving_of_comes h (by simp [he, hc])]
  simp only []
  split <;> rfl

theorem execCommitEntry_of_comes {s : State} {f : Flight} (h : Claims.Comes s f) (he : f.dest.elem = 3) (hc : f.tok.hdr.can = false) :
    execCommitEntry s = .next (
      if commitRoom s (tokenCommit s f) && faultRoom s f.tile f.rank f.tok.hdr.ctx (nxcOf s f.tile f.rank f.tok.hdr.ctx) &&
        faultRoom s f.tile f.rank f.tok.hdr.ctx f.tok.hdr.iter
      then (fits f.tile (enterCommit (acceptFlight s f) (tokenCommit s f))).getD (refuseFlight s f) else refuseFlight s f) := by
  unfold execCommitEntry
  rw [arriving_of_comes h (by simp [he, hc])]
  exact (apply_ite Host.Outcome.next _ _ _).symm

/-- R257: eight of the 64 entries are kept for the iteration at its turn. -/
theorem commitRoom_iff (s : State) (o : Op) :
    commitRoom s o = true ↔ commitLoad s o.tile < 56 ∨ (commitLoad s o.tile < 64 ∧ o.iter = nxcOf s o.tile o.rank o.ctx) := by
  simp [commitRoom]

end Sys2Proof.Machine

namespace Sys2Proof.Proofs
open Sys2Proof.Machine

/-- A token for a frame that takes it. -/
theorem token_taken {s : State} {f : Flight} {x : Ctx} {blk : Nat} {b : Block} {claims : Bool} (hc : Claims.Comes s f) (he : f.dest.elem = 0)
    (hcan : f.tok.hdr.can = false) (ht : Claims.FrameTakes s f x blk b claims) :
    exec .tokenArrival s = .next (if stageFull s f b then refuseFlight s f
      else writeSlot (if claims then claimFrame s f.tile f.rank f.tok.hdr.ctx f.tok.hdr.iter else s) f blk) :=
  (execTokenArrival_of_comes hc he hcan).trans (by rw [takeIn_of_frameTakes ht rfl])

/-- Settles O46: the cases of the arrival in the order of the model, and that a frame which takes a cancel is live when it is applied. -/
theorem tokensTravelAndArrive : Obligations.TokensTravelAndArrive := by
  unfold Obligations.TokensTravelAndArrive
  refine ⟨flitsOf_length, fun s e d st t r he hp h1 h0 hf ht hq => outputBufferSend_sends he hp h1 h0 hf ht hq, ?token, gate_decides,
    tokens_turned_away, ?cancel, ?held, ?groom, ?commit⟩
  case token =>
    intro s f x blk b claims hc he hcan ht h full s1 k
    have taken := token_taken hc he hcan ht
    have full_iff : stageFull s f b = true ↔ full := stageFull_iff s f b
    refine ⟨fun hf => ?_, fun hf hk => ?_, fun y hf hk hseg => ?_, fun y hf hk hseg => ?_⟩
    · rw [Claims.Gives, taken, if_pos (full_iff.2 hf)]
    all_goals rw [Claims.Gives, taken, if_neg (full_iff.not.2 hf)]
    · rw [writeSlot_of_empty hk]
    · rw [writeSlot_of_filled hk, if_pos hseg]; rfl
    · rw [writeSlot_of_filled hk, if_neg hseg]
  case cancel =>
    intro s f hc hcan hh h
    have arrives := execCancelTokenArrival_of_comes hc hcan hh
    refine ⟨fun he => arrives.trans (by rw [if_neg he]), ?_⟩
    intro x blk b claims he ht hslot s1
    have cancels : exec .cancelTokenArrival s = .next (if running s1 f.tile f.rank h.ctx h.iter blk
        then { s1 with frm := { s1.frm with cancels := s1.frm.cancels ++ [f] } } else applyCancel s1 f blk b) :=
      arrives.trans (by rw [if_pos he, takeIn_of_frameTakes ht (by simp [hslot])]; rfl)
    refine ⟨fun hr => cancels.trans (by rw [if_pos hr]), fun hr => cancels.trans ?_⟩
    rw [hr, applyCancel_of_live (taken_live ht)]
    rfl
  case held =>
    intro s f blk b hh hb h s1 after
    have held := execCancelTokenArrival_of_held hh
    refine ⟨fun hr => held.trans (by rw [heldCancel_of_running hb hr]), fun hr => ⟨fun hl => held.trans ?_, fun hl => held.trans ?_⟩⟩
    · rw [heldCancel_of_idle hb hr, applyCancel_of_live (s := s1) hl]
    · rw [heldCancel_of_idle hb hr, applyCancel_of_not_live (s := s1) hl]
  case groom =>
    intro s f hc he hcan held
    have arrives := execGroomInboxArrival_of_comes hc he hcan
    exact ⟨fun hl => arrives.trans (congrArg Host.Outcome.next (if_pos hl)),
      fun hl => arrives.trans (congrArg Host.Outcome.next (if_neg (Nat.not_le.2 hl)))⟩
  case commit =>
    intro s f hc he hcan o free next
    have arrives := execCommitEntry_of_comes hc he hcan
    have room : commitRoom s o = true ↔ free < 56 ∨ (free < 64 ∧ f.tok.hdr.iter = next) := commitRoom_iff s o
    refine ⟨fun hr h1 h2 => arrives.trans ?_, fun hr => arrives.trans ?_⟩
    · rw [if_pos]
      rw [room.2 hr, h2]
      exact (Bool.and_true _).trans h1
    · have no_room : commitRoom s o = false := by
        rw [Bool.eq_false_iff, Ne, room]
        omega
      rw [if_neg]
      rw [no_room]
      simp

end Sys2Proof.Proofs

namespace Sys2Proof.Machine

/-! Firing, commit, aging, the balancer and the watchdog (R173, R175, R200, R203, R290, R401). -/

/-- R207: LEN stands in the highest six bits of a block's head word. -/
theorem newTask_len (s : State) (r : Ready) (b : Block) (w : Word) (es : List (Header × Lanes)) :
    (newTask s r b w.toNat es).len = w.toNat / 2 ^ 26 := by
  have len : (newTask s r b w.toNat es).len = w.toNat / 2 ^ 26 % 2 ^ 6 := rfl
  have small : w.toNat < 2 ^ 32 := w.isLt
  omega

theorem execTaskFire_of_chosen {s : State} {r : Ready} (he : s.occ.b ≤ 8) (ht : s.task? = none) (hr : tileRuns s s.occ.a = true)
    (hh : sget s.flt.resuming (s.occ.a * 9 + s.occ.b) = none) (hc : chosenTask s s.occ.a s.occ.b = some r)
    (hb : bufferFree (peAt s s.occ.a s.occ.b) = true) :
    execTaskFire s = .next (fireTask (setPe s s.occ.a s.occ.b { peAt s s.occ.a s.occ.b with moved := false }) r) := by
  have may : ¬ (8 < s.occ.b ∨ s.task?.isSome ∨ !tileRuns s s.occ.a ∨ !bufferFree (peAt s s.occ.a s.occ.b)) := by
    simp [ht, hr, hb, he]
  unfold execTaskFire
  simp only [if_neg may, hh, hc]
  rfl

theorem fireTask_of_no_fault {s : State} {r : Ready} {b : Block} (hb : readyBlock s r = some b) :
    let s1 := fixEntries s r b
    let head := (sgetD s1.tab.imem (s1.occ.a * 2 ^ 18 + s1.occ.b * 2 ^ 14 + b.iaddr) 0).toNat
    let es := entryTokens s1 r b
    let τ := newTask s1 r b head es
    fireFault s1 r b head es τ = none →
      fireTask s r = { s1 with nextId := s1.nextId + 1, frm := { s1.frm with ready := s1.frm.ready.erase r } }.setTask τ := by
  intro s1 head es τ hf
  simp only [fireTask, hb]
  rw [hf]

theorem laneOf_cutLanes (w l : Nat) (x : Lanes) : laneOf (cutLanes w x) l = if l < w ∧ l < 32 then laneOf x l else none := by
  show laneOf (mkLanes (fun l => if l < w then laneOf x l else none)) l = _
  by_cases h : l < 32
  · simp [laneOf_mkLanes h, h]
  · rw [laneOf_mkLanes_ge (Nat.not_lt.1 h), if_neg (fun hl => h hl.2)]

section Commit
variable {s : State} {τ : Task} (hτ : (continueRelease (drainLtld s s.occ.a) s.occ.a s.occ.b).task? = some τ) (ht : τ.tid ≠ 0) (hl : τ.len < τ.pos)
include hτ ht hl

/-- R175: a block whose last instruction has issued commits where every GIVE is consumed. -/
theorem execBlockCommit_commits (hg : τ.gives.find? (fun g => !g.2.2) = none) :
    execBlockCommit s = .next (commitTask (continueRelease (drainLtld s s.occ.a) s.occ.a s.occ.b) τ) := by
  have finished : ¬ (τ.pos ≤ τ.len ∨ τ.spent = true) := by simp [Task.spent, ht, hl]
  simp only [execBlockCommit, hτ, if_neg finished, hg]

/-- R290: it is discarded for its first GIVE that is not. -/
theorem execBlockCommit_discards {g : Nat × Nat × Bool} (hg : τ.gives.find? (fun g => !g.2.2) = some g) :
    execBlockCommit s =
      .next (takeFault (continueRelease (drainLtld s s.occ.a) s.occ.a s.occ.b) τ (givePos τ g.1) causeOwnViol 0 (g.1 * 2 ^ 22)) := by
  have finished : ¬ (τ.pos ≤ τ.len ∨ τ.spent = true) := by simp [Task.spent, ht, hl]
  simp only [execBlockCommit, hτ, if_neg finished, hg]

end Commit

theorem find_first_unconsumed {pre post : List (Nat × Nat × Bool)} {g : Nat × Nat × Bool} (hpre : ∀ x ∈ pre, x.2.2 = true) (hg : g.2.2 = false) :
    (pre ++ g :: post).find? (fun g => !g.2.2) = some g := by
  have none_before : pre.find? (fun g => !g.2.2) = none := by simpa [List.find?_eq_none] using hpre
  simp [List.find?_append, none_before, hg]

theorem execTaskClassAging_of_due {s : State} {r : Ready} (hr : (s.frm.ready.filter (·.tile == s.occ.a))[s.occ.b]? = some r) (hc : 0 < r.cls)
    (hs : r.since + 4096 ≤ s.cyc) :
    execTaskClassAging s = .next { s with frm := { s.frm with
      ready := s.frm.ready.map (fun x => if x == r then { r with cls := r.cls - 1, since := s.cyc } else x) } } := by
  simp only [execTaskClassAging, hr]
  exact if_pos ⟨hc, hs⟩

theorem execStageBalance_of_move {s : State} {t0 e g : Nat} (h0 : sget s.tab.cfgAt s.occ.a = some t0) (hlt : t0 < s.cyc)
    (hm : (s.cyc - t0) % 4096 = 0) (hb : balanceMove s s.occ.a = some (e, g)) :
    execStageBalance s = .next (setPe s s.occ.a e { peAt s s.occ.a e with stage := some g, moved := true }) := by
  simp only [execStageBalance, sgetD, h0, Option.getD_some]
  rw [if_pos ⟨rfl, hlt, hm⟩, hb]

theorem execWatchdog_of_placed {s : State} {l : Launch} (hl : sget s.sch.launches s.occ.a = some l) (hp : l.placed = true) (hs : l.st ≠ .ending) :
    execWatchdog s =
      let restart := fun s1 : State =>
        { s1 with sch := { s1.sch with launches := smod s1.sch.launches s.occ.a (fun l => { l with commitAt := s1.cyc }) } }
      if workPending s s.occ.a = false then .next (restart s)
      else if l.commitAt + 2 ^ 24 ≤ s.cyc ∧ pendingCount s (originTile l) < 1024 then
        .next (restart (frameless s (originTile l) causeWatchdog 0 s.occ.a))
      else .next s := by
  have going : (!l.placed || l.st == .ending) = false := by simp [hp, hs]
  simp only [execWatchdog, hl, going, Bool.not_eq_true', Bool.and_eq_true, decide_eq_true_eq, Bool.false_eq_true, if_false]

end Sys2Proof.Machine

namespace Sys2Proof.Proofs
open Sys2Proof.Machine

/-- Settles O47: each of these events is one lemma on its exec function. -/
theorem tasksFireAndCommit : Obligations.TasksFireAndCommit := by
  unfold Obligations.TasksFireAndCommit
  refine ⟨?fire, laneOf_cutLanes, ?commit, ?age, ?balance, ?watchdog⟩
  case fire =>
    intro s r b he ht hr hh hc hb hbuf s1 head es τ hf
    refine ⟨(execTaskFire_of_chosen he ht hr hh hc hbuf).trans ?_, rfl, newTask_len _ _ _ _ _, rfl, rfl, rfl, rfl⟩
    rw [fireTask_of_no_fault (s := setPe s s.occ.a s.occ.b { peAt s s.occ.a s.occ.b with moved := false }) hb hf]
  case commit =>
    intro s τ s1 hτ ht hl
    refine ⟨fun hg => execBlockCommit_commits hτ ht hl ?_, fun pre g post hg hpre hun => execBlockCommit_discards hτ ht hl ?_⟩
    · simpa [List.find?_eq_none] using hg
    · rw [hg, find_first_unconsumed hpre hun]
  case age => exact fun s r hr hc hs => execTaskClassAging_of_due hr hc hs
  case balance => exact fun s t0 e g h0 hlt hm hb => execStageBalance_of_move h0 hlt hm hb
  case watchdog =>
    intro s l hl hp hs restart
    have turn := execWatchdog_of_placed hl hp hs
    refine ⟨fun hw => turn.trans (if_pos hw), fun hw ht hroom => turn.trans ?_⟩
    have pending : ¬ workPending s s.occ.a = false := by simp [hw]
    exact (if_neg pending).trans (if_pos ⟨ht, hroom⟩)

end Sys2Proof.Proofs

namespace Sys2Proof.Machine

/-! Responses, chains, evictions and scrubs (R48, R82, R83, R88, R90, R133, R191, R270, R272). -/

/-! Responses. -/

theorem execLoadResponseReturn_of_answer {s : State} {o : Op} (ho : Claims.Subject s o) (hd : o.phase = .done) (ht : o.tid = 0) (he : o.elem ≠ 14)
    (ha : Claims.answers o.kind = true) (hl : isLoad o.kind = true → inOrder s o = true) :
    execLoadResponseReturn s = .next (respond s o (resultLanes o)) := by
  have finished : (o.phase == .done && o.tid == 0 && o.elem != 14 && (!isLoad o.kind || inOrder s o)) = true := by
    cases h : isLoad o.kind with
    | false => simp [hd, ht, he]
    | true => simp [hd, ht, he, hl h]
  unfold execLoadResponseReturn
  rw [show opById s s.occ.a = some o from ho]
  simp only [if_pos finished]
  cases hk : o.kind <;> simp_all [Claims.answers]

/-- R48: an older load of the stream, neither stopped nor held behind a stopped access, holds this one while its own response has not left. -/
theorem not_inOrder {s : State} {o p : Op} {z : Size} (hp : p ∈ s.ops) (hk : p.kind = .ld z) (hs : sameStream p o = true)
    (hi : issuedBefore p o = true) (hstop : ∀ x ∈ s.ops, stopped x = false)
    (hw : (p.phase != .done || p.tid == 0 && emitRoom s p (resultLanes p)) = true) : inOrder s o = false := by
  have free : behindStopped s p = false := by
    unfold behindStopped
    rw [List.any_eq_false]
    intro q hq
    simp [hstop q hq]
  have holds : (sameStream p o && issuedBefore p o && firstRead p.kind && !stopped p && !behindStopped s p &&
      (p.phase != .done || p.tid == 0 && emitRoom s p (resultLanes p))) = true := by
    rw [hs, hi, hk, hstop p hp, free, hw]
    rfl
  unfold inOrder
  rw [Bool.not_eq_false', List.any_eq_true]
  exact ⟨p, hp, holds⟩

theorem execLoadResponseReturn_of_not_inOrder {s : State} {o : Op} {z : Size} (ho : Claims.Subject s o) (hk : o.kind = .ld z)
    (h : inOrder s o = false) : execLoadResponseReturn s = .next s := by
  unfold execLoadResponseReturn
  rw [show opById s s.occ.a = some o from ho]
  refine if_neg ?_
  simp [h, hk, isLoad]

/-! Chains (R272). -/

/-- Where a chain's next node is for a lane: its link plus the offset, scaled, from the base. -/
def nodeVa (o : Op) (base sc : Nat) (loff : BitVec 16) (x : Lane) : Int :=
  ((o.cx.bases.getD base 0).toNat : Int) + (BitVec.ofNat 32 x.res + loff.signExtend 32 : Word).toInt * (4 ^ sc : Nat)

/-- The lanes of a chain that go on to the next node: a link that is not null, before the last node. -/
def goesOn (count k : Nat) (x : Lane) : Bool := x.res != 0 && decide (k + 1 < count)

/-- A node without a fault gives its token, and the lanes with a next node at a good address go on to it. -/
theorem execLdchNode_of_good {s : State} {o : Op} {base sc count : Nat} {loff : BitVec 16} {k : Nat} (ho : Claims.Subject s o)
    (hd : o.phase = .done) (ht : o.tid = 0) (hk : o.kind = .ldch base sc count loff k) (hord : k = 0 → inOrder s o = true)
    (hflt : ∀ x ∈ o.lanes, x.flt = 0) (hroom : emitRoom s o (resultLanes o) = true)
    (hva : ∀ x ∈ o.lanes.filter (goesOn count k), vaCheck (nodeVa o base sc loff x) 4 4 = none) :
    execLdchNode s = .next (emitOp
      (if (o.lanes.filter (goesOn count k)).isEmpty then dropOp s o.id
       else setOp s { o with kind := .ldch base sc count loff (k + 1), phase := .queued,
                             lanes := (o.lanes.filter (goesOn count k)).map (fun x => mkLane x.lane (nodeVa o base sc loff x) 4 0 0) })
      o o.elem (resultLanes o) (fun h => { h with seg := k, eor := (o.lanes.filter (goesOn count k)).isEmpty })) := by
  have ready : (o.phase == .done && o.tid == 0 && (k != 0 || inOrder s o) && emitRoom s o (resultLanes o)) = true := by
    by_cases h0 : k = 0
    · simp [hd, ht, hroom, hord h0]
    · simp [hd, ht, hroom, h0]
  have good : o.lanes.filter (fun x => x.flt == 0) = o.lanes := List.filter_eq_self.2 fun x hx => by simp [hflt x hx]
  have bad : o.lanes.filter (fun x => x.flt != 0) = [] := List.filter_eq_nil_iff.2 fun x hx => by simp [hflt x hx]
  have next : (o.lanes.filter (goesOn count k)).map (fun x =>
        { mkLane x.lane (nodeVa o base sc loff x) 4 0 0 with flt := (vaCheck (nodeVa o base sc loff x) 4 4).elim 0 (fun e => e.1 * 256 + e.2) }) =
      (o.lanes.filter (goesOn count k)).map (fun x => mkLane x.lane (nodeVa o base sc loff x) 4 0 0) :=
    List.map_congr_left fun x hx => by rw [hva x hx]; rfl
  have go : ((o.lanes.filter (goesOn count k)).map (fun x => mkLane x.lane (nodeVa o base sc loff x) 4 0 0)).filter (fun x => x.flt == 0) =
      (o.lanes.filter (goesOn count k)).map (fun x => mkLane x.lane (nodeVa o base sc loff x) 4 0 0) :=
    List.filter_eq_self.2 fun y hy => by obtain ⟨x, -, rfl⟩ := List.mem_map.1 hy; rfl
  have stays : ((o.lanes.filter (goesOn count k)).map (fun x => mkLane x.lane (nodeVa o base sc loff x) 4 0 0)).filter (fun x => x.flt != 0) = [] :=
    List.filter_eq_nil_iff.2 fun y hy => by obtain ⟨x, -, rfl⟩ := List.mem_map.1 hy; simp [mkLane]
  unfold execLdchNode
  rw [show opById s s.occ.a = some o from ho]
  simp only [hk, if_pos ready]
  unfold nodeVa goesOn at *
  simp only [good, bad, next, go, stays, List.isEmpty_map]
  rfl

/-! The scrubber of tile SRAM and the frame store. -/

/-- What the scrubber leaves of a word with an uncorrectable error, and where its mark goes by the kind of the word. -/
theorem execSramScrub_of_latent {s : State} (h : (sget (correctSoft s s.occ.a s.occ.b 1).mem.sramLatent s.occ.b).isSome = true)
    (hk : s.occ.b < 2 ^ 41 ∨ 2 ^ 60 ≤ s.occ.b) :
    execSramScrub s =
      let s1 := correctSoft s s.occ.a s.occ.b 1
      let s2 := count { s1 with mem := { s1.mem with sramLatent := sdel s1.mem.sramLatent s.occ.b } } 0 s1.occ.a
      if s.occ.b < 2 ^ 40 then .next { s2 with mem := { s2.mem with sramBad := sset s2.mem.sramBad s.occ.b () } }
      else if s.occ.b < 2 ^ 41 then .next { s2 with frm := { s2.frm with slotBad := sset s2.frm.slotBad (s.occ.b - 2 ^ 40) () } }
      else .next { s2 with mem := { s2.mem with stashBad := sset s2.mem.stashBad (s.occ.b - 2 ^ 60) () } } := by
  have scrubs : ¬ (2 ^ 41 ≤ s.occ.b ∧ s.occ.b < 2 ^ 60) := by omega
  have found : ¬ (sget (correctSoft s s.occ.a s.occ.b 1).mem.sramLatent s.occ.b).isNone = true := by
    rw [Option.isSome_iff_exists] at h
    obtain ⟨u, hu⟩ := h
    simp [hu]
  exact (if_neg scrubs).trans (if_neg found)

theorem execSramScrub_of_clean {s : State} (h : sget (correctSoft s s.occ.a s.occ.b 1).mem.sramLatent s.occ.b = none)
    (hk : s.occ.b < 2 ^ 41 ∨ 2 ^ 60 ≤ s.occ.b) : execSramScrub s = .next (correctSoft s s.occ.a s.occ.b 1) := by
  have scrubs : ¬ (2 ^ 41 ≤ s.occ.b ∧ s.occ.b < 2 ^ 60) := by omega
  exact (if_neg scrubs).trans (if_pos (by rw [h]; rfl))

/-! The scrubber of DRAM (R88 to R90). -/

/-- The list of uncorrectable words of the controller that holds `block`. -/
def listedAt (block : Nat) (s : State) : Nat := (s.mem.badWords.filter (fun p => controller s (p.1 * 8) == controller s block)).length

/-- A word that the scrubber has entered in its controller's list. -/
def listedWord (s : State) (w : Nat) : Prop := (sget s.mem.badWords w).isSome = true ∧ sget s.mem.latent w = none

theorem scrubbed_of_clean {block : Nat} {s : State} {w : Nat} (h : sget s.mem.latent w = none) : Claims.scrubbed block s w = s := if_pos h

theorem scrubbed_of_room {block : Nat} {s : State} {w : Nat} (h : (sget s.mem.latent w).isSome = true) (hl : listedAt block s < 256) :
    Claims.scrubbed block s w =
      let s2 := count s 3 (controller s block)
      { s2 with mem := { s2.mem with latent := sdel s2.mem.latent w, badWords := sset s2.mem.badWords w () } } :=
  (if_neg (fun hn => by simp [hn] at h)).trans (if_pos hl)

theorem scrubbed_of_full {block : Nat} {s : State} {w : Nat} (h : (sget s.mem.latent w).isSome = true) (hl : 256 ≤ listedAt block s) :
    Claims.scrubbed block s w =
      let s2 := count s 3 (controller s block)
      frameless s2 (quadTile0 (controller s2 block / 3)) causeMemUe 0 (w * 8) :=
  (if_neg (fun hn => by simp [hn] at h)).trans (if_neg (Nat.not_lt.2 hl))

theorem execDramScrub_eq (s : State) :
    execDramScrub s = .next ((List.range 8).foldl (fun u k => Claims.scrubbed (s.occ.b * 64) u (s.occ.b * 8 + k)) (correctAt s (s.occ.b * 64) 64)) := by
  have block : s.occ.b * 64 / 8 = s.occ.b * 8 := by omega
  unfold execDramScrub
  simp only [block, upto]
  congr 2
  funext u k
  unfold Claims.scrubbed
  cases sget u.mem.latent (s.occ.b * 8 + k) <;> rfl

/-- A scrub makes no word uncorrectable. -/
theorem scrubbed_keeps_clean {block : Nat} {s : State} {v : Nat} (w : Nat) (h : sget s.mem.latent v = none) :
    sget (Claims.scrubbed block s w).mem.latent v = none := by
  cases hw : sget s.mem.latent w with
  | none => rw [scrubbed_of_clean hw]; exact h
  | some u =>
    have found : (sget s.mem.latent w).isSome = true := by rw [hw]; rfl
    by_cases hl : listedAt block s < 256
    · rw [scrubbed_of_room found hl]
      show sget (sdel s.mem.latent w) v = none
      rw [sget_sdel, h, ite_self]
    · rw [scrubbed_of_full found (Nat.not_lt.1 hl)]
      exact h

theorem foldl_scrubbed_clean (block n : Nat) (ks : List Nat) (s : State) (h : ∀ k ∈ ks, sget s.mem.latent (n + k) = none) :
    ks.foldl (fun u k => Claims.scrubbed block u (n + k)) s = s := by
  induction ks with
  | nil => rfl
  | cons k ks ih =>
    rw [List.foldl_cons, scrubbed_of_clean (h k (List.mem_cons_self ..))]
    exact ih fun j hj => h j (List.mem_cons_of_mem _ hj)

/-- Where one word alone is uncorrectable, the scrub of the block is the scrub of that word. -/
theorem foldl_scrubbed_one (block n j : Nat) (ks : List Nat) (s : State) (hnd : ks.Nodup) (hj : j ∈ ks)
    (h : ∀ k ∈ ks, k ≠ j → sget s.mem.latent (n + k) = none) :
    ks.foldl (fun u k => Claims.scrubbed block u (n + k)) s = Claims.scrubbed block s (n + j) := by
  induction ks with
  | nil => cases hj
  | cons k ks ih =>
    obtain ⟨hk, hnd⟩ := List.nodup_cons.1 hnd
    rw [List.foldl_cons]
    by_cases hkj : k = j
    · subst hkj
      refine foldl_scrubbed_clean _ _ _ _ fun i hi => scrubbed_keeps_clean _ (h i (List.mem_cons_of_mem _ hi) ?_)
      rintro rfl
      exact hk hi
    · rw [scrubbed_of_clean (h k (List.mem_cons_self ..) hkj)]
      exact ih hnd ((List.mem_cons.1 hj).resolve_left (Ne.symm hkj)) fun i hi => h i (List.mem_cons_of_mem _ hi)

/-- Setting an entry lengthens no selection of a store by more than one. -/
theorem length_filter_sset_le {α : Type} (m : Store α) (n : Nat) (x : α) (p : Nat × α → Bool) :
    ((sset m n x).filter p).length ≤ (m.filter p).length + 1 := by
  have cons_le : ∀ (y : Nat × α) (r : Store α), ((y :: r).filter p).length ≤ (r.filter p).length + 1 := fun y r => by
    rw [List.filter_cons]
    split <;> simp
  induction m with
  | nil => exact cons_le _ _
  | cons y r ih =>
    obtain ⟨k, v⟩ := y
    unfold sset
    split
    · exact cons_le _ _
    · split
      · exact (cons_le _ _).trans (Nat.succ_le_succ ((List.sublist_cons_self _ _).filter p).length_le)
      · rw [List.filter_cons, List.filter_cons]
        split
        · simpa using ih
        · exact ih

section Room
variable {block : Nat} {s : State} {w : Nat}

/-- A scrub enters one word at most in the list. -/
theorem listedAt_scrubbed_le (hl : listedAt block s < 256) : listedAt block (Claims.scrubbed block s w) ≤ listedAt block s + 1 := by
  cases hw : sget s.mem.latent w with
  | none => rw [scrubbed_of_clean hw]; exact Nat.le_succ _
  | some u =>
    rw [scrubbed_of_room (by rw [hw]; rfl) hl]
    exact length_filter_sset_le _ _ _ _

theorem listedWord_scrubbed_self (hl : listedAt block s < 256) (hw : (sget s.mem.latent w).isSome = true) :
    listedWord (Claims.scrubbed block s w) w := by
  rw [scrubbed_of_room hw hl]
  constructor
  · show (sget (sset s.mem.badWords w ()) w).isSome = true
    rw [sget_sset, if_pos rfl]
    rfl
  · show sget (sdel s.mem.latent w) w = none
    rw [sget_sdel, if_pos rfl]

theorem listedWord_scrubbed {v : Nat} (hl : listedAt block s < 256) (h : listedWord s v) : listedWord (Claims.scrubbed block s w) v := by
  refine ⟨?_, scrubbed_keeps_clean w h.2⟩
  cases hw : sget s.mem.latent w with
  | none => rw [scrubbed_of_clean hw]; exact h.1
  | some u =>
    rw [scrubbed_of_room (by rw [hw]; rfl) hl]
    show (sget (sset s.mem.badWords w ()) v).isSome = true
    rw [sget_sset]
    split
    · rfl
    · exact h.1

theorem latent_scrubbed_other {v : Nat} (hl : listedAt block s < 256) (hv : v ≠ w) :
    sget (Claims.scrubbed block s w).mem.latent v = sget s.mem.latent v := by
  cases hw : sget s.mem.latent w with
  | none => rw [scrubbed_of_clean hw]
  | some u =>
    rw [scrubbed_of_room (by rw [hw]; rfl) hl]
    exact (sget_sdel _ _ _).trans (if_neg hv)

end Room

theorem foldl_scrubbed_keeps_listed (block n : Nat) (ks : List Nat) (s : State) (v : Nat) (hl : listedAt block s + ks.length ≤ 256)
    (h : listedWord s v) : listedWord (ks.foldl (fun u k => Claims.scrubbed block u (n + k)) s) v := by
  induction ks generalizing s with
  | nil => exact h
  | cons k ks ih =>
    rw [List.length_cons] at hl
    have room : listedAt block s < 256 := by omega
    have grown := listedAt_scrubbed_le (w := n + k) room
    rw [List.foldl_cons]
    exact ih _ (by omega) (listedWord_scrubbed room h)

/-- With room in the list for every word of the block, each uncorrectable one comes to stand in it. -/
theorem foldl_scrubbed_lists (block n : Nat) (ks : List Nat) (s : State) (hl : listedAt block s + ks.length ≤ 256) (k : Nat) (hk : k ∈ ks)
    (h : (sget s.mem.latent (n + k)).isSome = true) : listedWord (ks.foldl (fun u k => Claims.scrubbed block u (n + k)) s) (n + k) := by
  induction ks generalizing s with
  | nil => cases hk
  | cons j ks ih =>
    rw [List.length_cons] at hl
    have room : listedAt block s < 256 := by omega
    have grown := listedAt_scrubbed_le (w := n + j) room
    rw [List.foldl_cons]
    by_cases hkj : k = j
    · subst hkj
      exact foldl_scrubbed_keeps_listed _ _ _ _ _ (by omega) (listedWord_scrubbed_self room h)
    · refine ih _ (by omega) ((List.mem_cons.1 hk).resolve_left hkj) ?_
      rw [latent_scrubbed_other room (by omega)]
      exact h

end Sys2Proof.Machine

namespace Sys2Proof.Proofs
open Sys2Proof.Machine

/-- Settles O49: the responses and chains from their exec functions, the scrub of a DRAM block by induction on its words. -/
theorem responsesChainsAndScrubs : Obligations.ResponsesChainsAndScrubs := by
  unfold Obligations.ResponsesChainsAndScrubs
  refine ⟨?answer, ?waits, ?waitsDone, ?chain, ?evict, ?sram, ?dram⟩
  case answer => exact fun s o ho hd ht he ha hl => execLoadResponseReturn_of_answer ho hd ht he ha hl
  case waits =>
    intro s o p z z' ho hk hp hpk hs hi hph hstop
    refine execLoadResponseReturn_of_not_inOrder ho hk (not_inOrder hp hpk hs hi hstop ?_)
    rcases hph with h | h <;> simp [h]
  case waitsDone =>
    intro s o p z z' ho hk hp hpk hs hi _ ht hroom hstop
    exact execLoadResponseReturn_of_not_inOrder ho hk (not_inOrder hp hpk hs hi hstop (by simp [ht, hroom]))
  case chain =>
    intro s o base sc count loff k ho hd ht hk hord hflt hroom on va gives hva
    have node := execLdchNode_of_good ho hd ht hk hord hflt hroom hva
    refine ⟨fun h => node.trans ?_, fun h => node.trans ?_⟩
    · have none_on : (o.lanes.filter (goesOn count k)).isEmpty = true := List.isEmpty_iff.2 h
      rw [if_pos none_on]
      rfl
    · have some_on : ¬ (o.lanes.filter (goesOn count k)).isEmpty = true := fun he => h (List.isEmpty_iff.1 he)
      rw [if_neg some_on]
      rfl
  case evict => exact fun s h => if_pos h
  case sram =>
    intro s k s1 s2
    refine ⟨fun hk hn => execSramScrub_of_clean hn hk, fun hs => ⟨fun hk => ?_, fun hlo hhi => ?_, fun hk => ?_⟩⟩
    · exact (execSramScrub_of_latent hs (Or.inl (by omega))).trans (if_pos hk)
    · exact (execSramScrub_of_latent hs (Or.inl hhi)).trans ((if_neg (Nat.not_lt.2 hlo)).trans (if_pos hhi))
    · exact (execSramScrub_of_latent hs (Or.inr hk)).trans ((if_neg (by omega)).trans (if_neg (by omega)))
  case dram =>
    intro s s1 listed
    have scrub := execDramScrub_eq s
    refine ⟨fun h => scrub.trans ?_, ?_, (List.range 8).foldl (fun u k => Claims.scrubbed (s.occ.b * 64) u (s.occ.b * 8 + k)) s1, scrub, rfl,
      fun hl k hk h => ?_⟩
    · rw [foldl_scrubbed_clean _ _ _ _ fun k hk => h k (List.mem_range.1 hk)]
    · intro j hj h w s2
      have one := scrub.trans (congrArg Host.Outcome.next (foldl_scrubbed_one (s.occ.b * 64) (s.occ.b * 8) j (List.range 8) s1 List.nodup_range
        (List.mem_range.2 hj) fun k hk hkj => by simpa [hkj] using h k (List.mem_range.1 hk)))
      have found : (sget s1.mem.latent w).isSome = true := (h j hj).trans (decide_eq_true rfl)
      exact ⟨fun hl => one.trans (congrArg Host.Outcome.next (scrubbed_of_room found hl)),
        fun hl => one.trans (congrArg Host.Outcome.next (scrubbed_of_full found hl))⟩
    · have room : listedAt (s.occ.b * 64) s1 + (List.range 8).length ≤ 256 := by
        rw [List.length_range]
        exact hl
      exact foldl_scrubbed_lists (s.occ.b * 64) (s.occ.b * 8) (List.range 8) s1 room k (List.mem_range.2 hk) h

end Sys2Proof.Proofs

namespace Sys2Proof.Machine

/-! Hitches (R143 to R147, R150 to R152, R286): what the operations on one hitch come to. -/

/-! The state's stores. -/

theorem hitch_setHitch (s : State) (pa : Nat) (h : Hitch) : sget (setHitch s pa h).syn.hitches pa = some h := sget_sset_same _ _ _

theorem answerOp_syn (s : State) (id : Nat) (v : Lanes) (g : Bool) : (answerOp s id v g).syn = s.syn := by
  unfold answerOp
  split <;> rfl

theorem answerOp_of_opById {s : State} {id : Nat} {o : Op} (h : opById s id = some o) (v : Lanes) (g : Bool) :
    answerOp s id v g = setOp s { o with phase := .done, out := v, n := if g then 1 else 2 } := by
  simp only [answerOp, h]

theorem opById_setOp_other {s : State} {o : Op} {id : Nat} (h : id ≠ o.id) : opById (setOp s o) id = opById s id := by
  have other : ∀ x : Op, ((if x.id == o.id then o else x).id == id) = (x.id == id) := fun x => by
    split
    · next hx =>
      rw [beq_iff_eq] at hx
      rw [hx]
    · rfl
  have kept : ∀ l : List Op, (l.map (fun x => if x.id == o.id then o else x)).find? (·.id == id) = l.find? (·.id == id) := fun l => by
    induction l with
    | nil => rfl
    | cons x xs ih =>
      rw [List.map_cons, List.find?_cons, List.find?_cons, other, ih]
      cases hx : x.id == id with
      | false => rfl
      | true =>
        have hne : ¬ (x.id == o.id) = true := by
          rw [beq_iff_eq] at hx ⊢
          rw [hx]
          exact h
        rw [if_neg hne]
  exact kept s.ops

theorem opById_answerOp_other {s : State} {id id' : Nat} (v : Lanes) (g : Bool) (h : id' ≠ id) : opById (answerOp s id v g) id' = opById s id' := by
  unfold answerOp
  split
  · next o ho => exact opById_setOp_other (by rw [show o.id = id from opById_id ho]; exact h)
  · rfl

/-! Grants and rest (R143, R145). -/

/-- Nothing keeps the hitch active. -/
def atRest (h : Hitch) : Bool := h.excl.isNone && h.shared.isEmpty && h.fifo.isEmpty && h.regions.isEmpty

theorem atRest_iff (h : Hitch) : atRest h = true ↔ h.excl = none ∧ h.shared = [] ∧ h.fifo = [] ∧ h.regions = [] := by
  simp [atRest, and_assoc]

theorem deactivate_of_active {s : State} {pa : Nat} {h : Hitch} (hs : sget s.syn.hitches pa = some h) : deactivate s pa =
    if atRest h then homeWrite { s with syn := { s.syn with hitches := sdel s.syn.hitches pa } } h.enc pa 64 (restImage h) else s := by
  simp only [deactivate, hs]
  rfl

/-- The queue's head, if there is one, may not be granted. -/
def headWaits (h : Hitch) : Prop := ∀ r rest, h.fifo = r :: rest → mayGrant h r.kind = false

theorem grantFifo_of_waits {s : State} {pa : Nat} {h : Hitch} (n : Nat) (hs : sget s.syn.hitches pa = some h) (hw : headWaits h) :
    grantFifo pa n s = s := by
  cases n with
  | zero => rfl
  | succ n =>
    simp only [grantFifo, hs]
    cases hf : h.fifo with
    | nil => rfl
    | cons r rest => simp [hw r rest hf]

/-- The hitch after the grant of its head. -/
def headGranted (h : Hitch) (r : HReq) (rest : List HReq) : Hitch := { grantTo h r.kind r.ctx with fifo := rest }

/-- One grant from the head of the queue. -/
theorem grantFifo_of_head {s : State} {pa : Nat} {h : Hitch} {r : HReq} {rest : List HReq} {o : Op} (n : Nat) (hs : sget s.syn.hitches pa = some h)
    (hf : h.fifo = r :: rest) (hg : mayGrant h r.kind = true) (ho : opById s r.op = some o) :
    grantFifo pa (n + 1) s = grantFifo pa n
      (answerOp (setHitch s pa (headGranted h r rest)) r.op (grantLanes o.w (headGranted h r rest) true) true) := by
  simp only [grantFifo, hs, hf, hg, ho, if_true]
  rfl

theorem settleHitch_of_active {s : State} {pa : Nat} {h : Hitch} (hs : sget s.syn.hitches pa = some h) :
    settleHitch s pa = deactivate (grantFifo pa (h.fifo.length + 1) s) pa := by
  simp [settleHitch, hs]

/-- A hitch whose head waits, and that something keeps active, stays as it is. -/
theorem settleHitch_of_waits {s : State} {pa : Nat} {h : Hitch} (hs : sget s.syn.hitches pa = some h) (hw : headWaits h) (hr : atRest h = false) :
    settleHitch s pa = s := by
  rw [settleHitch_of_active hs, grantFifo_of_waits _ hs hw, deactivate_of_active hs, hr]
  rfl

theorem headWaits_of_empty {h : Hitch} (hf : h.fifo = []) : headWaits h := fun r rest hr => by rw [hf] at hr; cases hr

theorem headWaits_of_excl {h : Hitch} {c : Nat} (he : h.excl = some c) : headWaits h := fun r rest _ => by simp [mayGrant, he]

theorem atRest_of_excl {h : Hitch} {c : Nat} (he : h.excl = some c) : atRest h = false := by simp [atRest, he]

/-! A request at an active hitch (R145, R151). -/

theorem readHitch_of_active {s : State} {p : Phys} {h : Hitch} (hs : sget s.syn.hitches p.pa = some h) : readHitch s p = s := by
  simp [readHitch, hs]

theorem activate_of_active {s : State} {p : Phys} {h : Hitch} {asid : Nat} (hs : sget s.syn.hitches p.pa = some h) :
    activate s p asid = .ok (s, h) := by
  simp [activate, hs]

theorem requestAt_of_bad_place {s : State} {o : Op} {p : Phys} {k : HKind} {t : Bool} (hp : hitchPlace p = false) :
    requestAt s o p k t = hitchFault s o p.pa (causeHitch, 0x01) := by
  simp [requestAt, hp]

theorem requestAt_of_error {s : State} {o : Op} {p : Phys} {k : HKind} {t : Bool} {e : Nat × Nat} (hp : hitchPlace p = true)
    (he : activate (readHitch s p) p o.cx.asid = .error e) : requestAt s o p k t = hitchFault (readHitch s p) o p.pa e := by
  simp [requestAt, hp, he]

/-- What a request does at its hitch, once that is active. -/
def requestActive (s : State) (o : Op) (p : Phys) (k : HKind) (tryIt : Bool) (h : Hitch) : State :=
  if h.asid != o.cx.asid then hitchFault s o p.pa (causeHitch, 0x02)
  else if k != .p && holds h o.ctx then hitchFault s o p.pa (causeHitch, 0x04)
  else if tryIt then
    if h.fifo.isEmpty && mayGrant h k then
      settleHitch (answerOp (setHitch s p.pa (grantTo h k o.ctx)) o.id (grantLanes o.w (grantTo h k o.ctx) true) true) p.pa
    else settleHitch (answerOp s o.id (grantLanes o.w h false) false) p.pa
  else if 8192 ≤ engineWaits s p.pa then s
  else settleHitch (Claims.joined s o p h k) p.pa

theorem requestAt_of_ok {s s2 : State} {o : Op} {p : Phys} {k : HKind} {t : Bool} {h : Hitch} (hp : hitchPlace p = true)
    (he : activate (readHitch s p) p o.cx.asid = .ok (s2, h)) : requestAt s o p k t = requestActive s2 o p k t h := by
  simp only [requestAt, hp, he, Bool.not_true, Bool.false_eq_true, if_false]
  rfl

section AtHitch
variable {s : State} {o : Op} {p : Phys} {h : Hitch} {k : HKind}

theorem requestAt_of_hitchAt (hh : Claims.HitchAt s o p h) (t : Bool) : requestAt s o p k t = requestActive s o p k t h := by
  obtain ⟨hp, hs, -⟩ := hh
  exact requestAt_of_ok hp (by rw [readHitch_of_active hs, activate_of_active hs])

theorem requestAt_of_held (hh : Claims.HitchAt s o p h) (hk : k ≠ .p) (hc : holds h o.ctx = true) (t : Bool) :
    requestAt s o p k t = hitchFault s o p.pa (causeHitch, 0x04) := by
  obtain ⟨-, -, ha⟩ := id hh
  rw [requestAt_of_hitchAt hh]
  simp [requestActive, ha, hk, hc]

/-- A request that does not hold the hitch, or passes, is tried at once or joins the queue. -/
theorem requestAt_of_free (hh : Claims.HitchAt s o p h) (hk : k = .p ∨ holds h o.ctx = false) (t : Bool) : requestAt s o p k t =
    if t then
      if h.fifo.isEmpty && mayGrant h k then
        settleHitch (answerOp (setHitch s p.pa (grantTo h k o.ctx)) o.id (grantLanes o.w (grantTo h k o.ctx) true) true) p.pa
      else settleHitch (answerOp s o.id (grantLanes o.w h false) false) p.pa
    else if 8192 ≤ engineWaits s p.pa then s
    else settleHitch (Claims.joined s o p h k) p.pa := by
  obtain ⟨-, -, ha⟩ := id hh
  have again : (k != .p && holds h o.ctx) = false := by rcases hk with rfl | hk <;> simp [*]
  rw [requestAt_of_hitchAt hh, requestActive, ha, again]
  simp

theorem requestAt_of_full (hh : Claims.HitchAt s o p h) (hk : k = .p ∨ holds h o.ctx = false) (hw : 8192 ≤ engineWaits s p.pa) :
    requestAt s o p k false = s := by
  rw [requestAt_of_free hh hk]
  exact if_pos hw

theorem requestAt_joins (hh : Claims.HitchAt s o p h) (hk : k = .p ∨ holds h o.ctx = false) (hw : engineWaits s p.pa < 8192) :
    requestAt s o p k false = settleHitch (Claims.joined s o p h k) p.pa := by
  rw [requestAt_of_free hh hk]
  exact if_neg (Nat.not_le.2 hw)

end AtHitch

theorem grantLanes_granted (w : Nat) (h : Hitch) : grantLanes w h true = Claims.grantToken w h 2 h.gseq := rfl

theorem grantLanes_refused (w : Nat) (h : Hitch) : grantLanes w h false = Claims.grantToken w h 0 h.gseq := rfl

theorem grantTo_eq (h : Hitch) (k : HKind) (c : Nat) : grantTo h k c = Claims.grantedHitch h k c := by
  cases k <;> rfl

theorem mayGrant_iff (h : Hitch) (k : HKind) : mayGrant h k = true ↔ h.excl = none ∧ (k = .x → h.shared = []) := by
  cases k <;> simp [mayGrant]

theorem mayGrant_eq_false (h : Hitch) (k : HKind) : mayGrant h k = false ↔ h.excl ≠ none ∨ (k = .x ∧ h.shared ≠ []) := by
  rw [Bool.eq_false_iff, Ne, mayGrant_iff]
  grind

section Blocked
variable {h : Hitch} {k : HKind}

/-- A blocked hitch grants nothing and stays active, whether or not the request joins its queue. -/
theorem headWaits_of_blocked (hb : Claims.Blocked h k) : headWaits h := by
  intro r rest hf
  rw [mayGrant_eq_false]
  rcases hb with he | ⟨r', rest', hf', hr, hs⟩ | ⟨hf', -⟩
  · exact Or.inl he
  · rw [hf] at hf'
    obtain ⟨rfl, -⟩ := List.cons.inj hf'
    exact Or.inr ⟨hr, hs⟩
  · rw [hf] at hf'
    cases hf'

theorem atRest_of_blocked (hb : Claims.Blocked h k) : atRest h = false := by
  rw [Bool.eq_false_iff, Ne, atRest_iff]
  rintro ⟨he, hs, hf, -⟩
  rcases hb with hn | ⟨r, rest, hf', -⟩ | ⟨-, -, hs'⟩
  · exact hn he
  · rw [hf] at hf'
    cases hf'
  · exact hs' hs

theorem headWaits_of_joined (hb : Claims.Blocked h k) (r : HReq) (hr : r.kind = k) : headWaits { h with fifo := h.fifo ++ [r] } := by
  intro q rest hf
  show mayGrant h q.kind = false
  cases hh : h.fifo with
  | cons a as =>
    simp only [hh, List.cons_append] at hf
    obtain ⟨rfl, -⟩ := List.cons.inj hf
    exact headWaits_of_blocked hb a as hh
  | nil =>
    simp only [hh, List.nil_append] at hf
    obtain ⟨rfl, -⟩ := List.cons.inj hf
    rw [mayGrant_eq_false, hr]
    rcases hb with he | ⟨r', rest', hf', -⟩ | ⟨-, hx, hs⟩
    · exact Or.inl he
    · rw [hh] at hf'
      cases hf'
    · exact Or.inr ⟨hx, hs⟩

theorem not_mayTry_of_blocked (hb : Claims.Blocked h k) : (h.fifo.isEmpty && mayGrant h k) = false := by
  cases hh : h.fifo with
  | cons a as => rfl
  | nil =>
    rw [List.isEmpty_nil, Bool.true_and, mayGrant_eq_false]
    rcases hb with he | ⟨r', rest', hf', -⟩ | ⟨-, hx, hs⟩
    · exact Or.inl he
    · rw [hh] at hf'
      cases hf'
    · exact Or.inr ⟨hx, hs⟩

theorem mayGrant_of_not_blocked (hb : ¬ Claims.Blocked h k) (hf : h.fifo = []) : mayGrant h k = true := by
  rw [mayGrant_iff]
  refine ⟨by_contra fun he => hb (Or.inl he), fun hk => by_contra fun hs => hb (Or.inr (Or.inr ⟨hf, hk, hs⟩))⟩

end Blocked

theorem hitch_joined (s : State) (o : Op) (p : Phys) (h : Hitch) (k : HKind) :
    sget (Claims.joined s o p h k).syn.hitches p.pa = some { h with fifo := h.fifo ++ [{ op := o.id, ctx := o.ctx, kind := k }] } :=
  hitch_setHitch _ _ _

/-- A request that joins an empty queue and may be granted is, with its answer. -/
theorem grantFifo_joined {s : State} {o : Op} {p : Phys} {h : Hitch} {k : HKind} (hf : h.fifo = []) (hg : mayGrant h k = true)
    (ho : opById s o.id = some o) : settleHitch (Claims.joined s o p h k) p.pa = deactivate
      (answerOp (setHitch (Claims.joined s o p h k) p.pa (Claims.grantedHitch h k o.ctx)) o.id (Claims.grantToken o.w h 2 (h.gseq + 1)) true) p.pa := by
  have here : opById (Claims.joined s o p h k) o.id = some { o with phase := .active } := opById_setOp (s := setHitch s p.pa _) ho rfl
  have granted : headGranted { h with fifo := h.fifo ++ [{ op := o.id, ctx := o.ctx, kind := k }] } { op := o.id, ctx := o.ctx, kind := k } [] =
      Claims.grantedHitch h k o.ctx := by
    obtain ⟨excl, shared, abn, gseq, asid, enc, fifo, regions⟩ := h
    obtain rfl : fifo = [] := hf
    cases k <;> rfl
  have alone : h.fifo ++ [{ op := o.id, ctx := o.ctx, kind := k }] = [{ op := o.id, ctx := o.ctx, kind := k }] := by rw [hf]; rfl
  rw [settleHitch_of_active (hitch_joined s o p h k), grantFifo_of_head _ (hitch_joined s o p h k) alone hg here, granted]
  rw [grantFifo_of_waits (h := Claims.grantedHitch h k o.ctx) _ (by rw [answerOp_syn]; exact hitch_setHitch _ _ _)
    (headWaits_of_empty hf)]
  rfl

theorem hitch_answered (s : State) (pa id : Nat) (g : Hitch) (v : Lanes) (b : Bool) :
    sget (answerOp (setHitch s pa g) id v b).syn.hitches pa = some g := by
  rw [answerOp_syn]
  exact hitch_setHitch _ _ _

theorem atRest_granted (h : Hitch) {k : HKind} (c : Nat) (hk : k ≠ .p) : atRest (Claims.grantedHitch h k c) = false := by
  rw [Bool.eq_false_iff, Ne, atRest_iff]
  rintro ⟨he, hs, -⟩
  cases k with
  | s => simp [Claims.grantedHitch] at hs
  | x => simp [Claims.grantedHitch] at he
  | p => exact hk rfl

theorem restImage_granted (h : Hitch) (k : HKind) (c : Nat) :
    restImage (Claims.grantedHitch h k c) = (if h.abn then 2 ^ 62 else 0) + (h.gseq + 1).toNat := rfl

/-- R145, R151: two shared requests at the head are granted together. -/
theorem settleHitch_two_shared {s : State} {pa : Nat} {h : Hitch} {a b : HReq} {oa ob : Op} (hs : sget s.syn.hitches pa = some h)
    (he : h.excl = none) (hf : h.fifo = [a, b]) (ha : a.kind = .s) (hb : b.kind = .s) (hne : a.op ≠ b.op) (hoa : opById s a.op = some oa)
    (hob : opById s b.op = some ob) :
    let h1 := { h with gseq := h.gseq + 1, shared := h.shared ++ [a.ctx], fifo := [b] }
    let h2 := { h1 with gseq := h1.gseq + 1, shared := h1.shared ++ [b.ctx], fifo := [] }
    settleHitch s pa = answerOp (setHitch (answerOp (setHitch s pa h1) a.op (Claims.grantToken oa.w h 2 h1.gseq) true) pa h2) b.op
      (Claims.grantToken ob.w h 2 h2.gseq) true := by
  intro h1 h2
  have ga : mayGrant h a.kind = true := by rw [mayGrant_iff, ha]; exact ⟨he, fun hx => by cases hx⟩
  have gb : mayGrant h1 b.kind = true := by rw [mayGrant_iff, hb]; exact ⟨he, fun hx => by cases hx⟩
  have to1 : headGranted h a [b] = h1 := by rw [headGranted, ha]; rfl
  have to2 : headGranted h1 b [] = h2 := by rw [headGranted, hb]; rfl
  have held : atRest h2 = false := by
    rw [Bool.eq_false_iff, Ne, atRest_iff]
    rintro ⟨-, hshared, -⟩
    simp [h2] at hshared
  rw [settleHitch_of_active hs, hf, List.length_cons, List.length_cons, grantFifo_of_head _ hs hf ga hoa, to1]
  rw [grantFifo_of_head (o := ob) (h := h1) _ (hitch_answered _ _ _ _ _ _) rfl gb
    (by rw [opById_answerOp_other _ _ hne.symm]; exact hob), to2]
  rw [grantFifo_of_waits _ (hitch_answered _ _ _ _ _ _) (headWaits_of_empty rfl), deactivate_of_active (hitch_answered _ _ _ _ _ _), held]
  rfl

theorem hitch_requests : Claims.HitchRequests := by
  refine ⟨?request, fun s pa h a b oa ob hs he hf ha hb hne hoa hob => settleHitch_two_shared hs he hf ha hb hne hoa hob,
    fun s id o v g ho => answerOp_of_opById ho v g⟩
  case request =>
    intro s o p h k hh hk
    obtain ⟨-, hs, -⟩ := id hh
    refine ⟨requestAt_of_full hh hk, fun hb => ⟨fun hw => ?_, ?_⟩, ?_⟩
    · rw [requestAt_joins hh hk hw]
      exact settleHitch_of_waits (hitch_joined s o p h k) (headWaits_of_joined hb _ rfl) (by simp [atRest])
    · rw [requestAt_of_free hh hk, if_pos rfl, not_mayTry_of_blocked hb, if_neg Bool.false_ne_true]
      exact settleHitch_of_waits (by rw [answerOp_syn]; exact hs) (headWaits_of_blocked hb) (atRest_of_blocked hb)
    · intro hb hf ho g token t
      have hg := mayGrant_of_not_blocked hb hf
      have joins : engineWaits s p.pa < 8192 → requestAt s o p k false = deactivate t p.pa := fun hw => by
        rw [requestAt_joins hh hk hw, grantFifo_joined hf hg ho]
      have active : sget t.syn.hitches p.pa = some g := hitch_answered _ _ _ _ _ _
      refine ⟨fun hp => ⟨fun hw => ?_, ?_⟩, fun hp hw => ⟨fun hkeep => ?_, fun hsh hreg => ?_⟩⟩
      · rw [joins hw, deactivate_of_active active, atRest_granted h o.ctx hp]
        rfl
      · have tries : (h.fifo.isEmpty && mayGrant h k) = true := by rw [hf, hg]; rfl
        rw [requestAt_of_free hh hk, if_pos rfl, tries, if_pos rfl, grantTo_eq]
        exact settleHitch_of_waits (hitch_answered _ _ _ _ _ _) (headWaits_of_empty hf) (atRest_granted h o.ctx hp)
      · have kept : atRest g = false := by
          rw [Bool.eq_false_iff, Ne, atRest_iff]
          rintro ⟨-, hs', -, hr'⟩
          subst hp
          exact hkeep.elim (· hs') (· hr')
        rw [joins hw, deactivate_of_active active, kept]
        rfl
      · have rests : atRest g = true := by
          rw [atRest_iff]
          subst hp
          exact ⟨((mayGrant_iff h .p).1 hg).1, hsh, hf, hreg⟩
        subst hp
        rw [joins hw, deactivate_of_active active, if_pos rests, restImage_granted]
        rfl

/-! A hitch becomes active, and rests again (R143). -/

/-- R142, R143: the image of a hitch has GSEQ and ABN alone. -/
theorem image_fields (v : Nat) :
    (v / 2 ^ 63 % 2 != 0 || bits v 48 14 != 0 || bits v 32 16 != 0 || v / 2 ^ 64 != 0) = !decide (v < 2 ^ 63 ∧ v % 2 ^ 62 < 2 ^ 32) := by
  rw [Bool.eq_iff_iff]
  simp only [bits, Bool.or_eq_true, bne_iff_ne, Bool.not_eq_true', decide_eq_false_iff_not]
  omega

theorem bit62_eq (v : Nat) (h : v < 2 ^ 63) : bit v 62 = decide (2 ^ 62 ≤ v) := by
  rw [Bool.eq_iff_iff]
  simp only [bit, beq_iff_eq, decide_eq_true_eq]
  omega

theorem activate_of_absent {s : State} {p : Phys} {asid v : Nat} (hs : sget s.syn.hitches p.pa = none) (hv : homeRead s p.enc p.pa 64 = some v) :
    activate s p asid =
      if v < 2 ^ 63 ∧ v % 2 ^ 62 < 2 ^ 32 then
        if 4096 ≤ (s.syn.hitches.filter (fun x => controller s x.1 == controller s p.pa)).length then .error (causeHitch, 0x09)
        else
          let h : Hitch := { excl := none, shared := [], abn := decide (2 ^ 62 ≤ v), gseq := BitVec.ofNat 32 v, asid := asid, enc := p.enc, fifo := [], regions := [] }
          .ok (setHitch s p.pa h, h)
      else .error (causeHitch, 0x0B) := by
  simp only [activate, hs, hv, image_fields]
  by_cases hgood : v < 2 ^ 63 ∧ v % 2 ^ 62 < 2 ^ 32
  · simp only [hgood, and_self, decide_true, Bool.not_true, Bool.false_eq_true, if_false, if_true, bit62_eq v hgood.1]
  · rw [decide_eq_false hgood, if_neg hgood]
    rfl

/-- What is activated is active. -/
theorem active_of_activate {s s2 : State} {p : Phys} {asid : Nat} {h : Hitch} (ha : activate s p asid = .ok (s2, h)) :
    sget s2.syn.hitches p.pa = some h := by
  cases hs : sget s.syn.hitches p.pa with
  | some h' =>
    rw [activate_of_active hs] at ha
    obtain ⟨rfl, rfl⟩ := Prod.mk.inj (Except.ok.inj ha)
    exact hs
  | none =>
    cases hv : homeRead s p.enc p.pa 64 with
    | none => simp [activate, hs, hv] at ha
    | some v =>
      rw [activate_of_absent hs hv] at ha
      split at ha
      · split at ha
        · cases ha
        · obtain ⟨rfl, rfl⟩ := Prod.mk.inj (Except.ok.inj ha)
          exact hitch_setHitch _ _ _
      · cases ha

theorem hitchFault_of_hitch (s : State) (o : Op) (pa : Nat) {e : Nat × Nat} (he : e.1 ≠ causeMemUe) :
    hitchFault s o pa e = failOp (deactivate s pa) o e.1 e.2 ((o.lanes.head?.map (fun x => x.va.toNat)).getD 0) := by
  rw [hitchFault, if_neg he]

/-! Bindings (R144, R152, R286). -/

/-- What HBIND and HUNB do at their hitch, once that is active. -/
def bindActive (s : State) (o : Op) (p : Phys) (x : Lane) (bind : Bool) (h : Hitch) : State :=
  if h.asid != o.cx.asid then hitchFault s o p.pa (causeHitch, 0x02)
  else if h.excl != some o.ctx then hitchFault s o p.pa (causeHitch, 0x0A)
  else
    match regionOf x with
    | .error (c, d) => failOp s o c d (if c = causeHitch then ((o.lanes.head?.map (fun y => y.va.toNat)).getD 0) else x.va.toNat)
    | .ok r =>
      if bind then
        let all := (s.syn.hitches.map (fun y => y.2.regions)).flatten
        if all.any (fun q => decide (q.1 < r.1 + r.2) && decide (r.1 < q.1 + q.2)) then hitchFault s o p.pa (causeHitch, 0x06)
        else if 16 ≤ h.regions.length then hitchFault s o p.pa (causeHitch, 0x07)
        else if 16384 ≤ (all.filter (fun q => controller s q.1 == controller s r.1)).length then hitchFault s o p.pa (causeHitch, 0x09)
        else leave (setHitch s p.pa { h with regions := h.regions ++ [r] }) o
      else if h.regions.contains r then leave (settleHitch (setHitch s p.pa { h with regions := h.regions.filter (· != r) }) p.pa) o
      else hitchFault s o p.pa (causeHitch, 0x08)

theorem foldr_append_eq_flatten {α β : Type} (f : α → List β) (l : List α) : l.foldr (fun y acc => f y ++ acc) [] = (l.map f).flatten := by
  induction l with
  | nil => rfl
  | cons y l ih => rw [List.foldr_cons, ih, List.map_cons, List.flatten_cons]

theorem bindAt_of_bad_place {s : State} {o : Op} {p : Phys} {x : Lane} {b : Bool} (hp : hitchPlace p = false) :
    bindAt s o p x b = hitchFault s o p.pa (causeHitch, 0x01) := by
  simp [bindAt, hp]

theorem bindAt_of_error {s : State} {o : Op} {p : Phys} {x : Lane} {b : Bool} {e : Nat × Nat} (hp : hitchPlace p = true)
    (he : boundHitch (if b then readHitch s p else s) o p b = .error e) : bindAt s o p x b = hitchFault (if b then readHitch s p else s) o p.pa e := by
  simp only [bindAt, hp, he, Bool.not_true, Bool.false_eq_true, if_false]

theorem bindAt_of_ok {s s2 : State} {o : Op} {p : Phys} {x : Lane} {b : Bool} {h : Hitch} (hp : hitchPlace p = true)
    (he : boundHitch (if b then readHitch s p else s) o p b = .ok (s2, h)) : bindAt s o p x b = bindActive s2 o p x b h := by
  simp only [bindAt, hp, he, Bool.not_true, Bool.false_eq_true, if_false, foldr_append_eq_flatten]
  rfl

theorem bindAt_of_active {s : State} {o : Op} {p : Phys} {x : Lane} {h : Hitch} (hp : hitchPlace p = true) (hs : sget s.syn.hitches p.pa = some h)
    (b : Bool) : bindAt s o p x b = bindActive s o p x b h := by
  refine bindAt_of_ok hp ?_
  cases b with
  | true =>
    rw [if_pos rfl, readHitch_of_active hs]
    exact activate_of_active hs
  | false => simp [boundHitch, hs]

theorem hitch_lives : Claims.HitchLives := by
  refine ⟨?image, ?place, ?rest, fun s o pa e he => hitchFault_of_hitch s o pa he⟩
  case image =>
    intro s p asid hs near
    refine ⟨fun hv => by simp [activate, hs, hv], fun v hv => ⟨fun hbad => ?_, fun hv1 hv2 => ⟨fun hn => ?_, fun hn => ?_⟩⟩⟩
    · rw [activate_of_absent hs hv, if_neg hbad]
    · rw [activate_of_absent hs hv, if_pos ⟨hv1, hv2⟩, if_pos hn]
    · rw [activate_of_absent hs hv, if_pos ⟨hv1, hv2⟩, if_neg (Nat.not_le.2 hn)]
  case place =>
    intro s o p faults
    refine ⟨fun hp => ⟨⟨fun k t => requestAt_of_bad_place hp, fun x => bindAt_of_bad_place hp⟩, fun x => bindAt_of_bad_place hp⟩,
      fun hp => ⟨?_, fun h hs ha => ⟨⟨fun k t => ?_, fun x => ?_⟩, fun x => ?_⟩⟩⟩
    · intro hs s1
      have read : readHitch s p = s1 := by simp [readHitch, hs, s1]
      refine ⟨fun e he => ⟨fun k t => ?_, fun x => ?_⟩, fun s2 h he => ⟨fun k t => ?_, fun x => ?_⟩, fun x => ?_⟩
      · rw [requestAt_of_error hp (by rw [read]; exact he), read]
      · rw [bindAt_of_error (b := true) hp (by rw [if_pos rfl, read]; exact he), if_pos rfl, read]
      · have active := active_of_activate he
        rw [requestAt_of_ok hp (by rw [read]; exact he),
          requestAt_of_ok (s := s2) hp (by rw [readHitch_of_active active]; exact activate_of_active active)]
      · rw [bindAt_of_ok (b := true) hp (by rw [if_pos rfl, read]; exact he), bindAt_of_active hp (active_of_activate he)]
      · exact bindAt_of_error (b := false) hp (by simp [boundHitch, hs])
    · rw [requestAt_of_ok hp (by rw [readHitch_of_active hs]; exact activate_of_active hs)]
      simp [requestActive, ha]
    all_goals
      rw [bindAt_of_active hp hs]
      simp [bindActive, ha]
  case rest =>
    intro s pa h hs
    refine ⟨fun he hsh hf hr => ?_, fun hk => ?_⟩
    · rw [deactivate_of_active hs, if_pos ((atRest_iff h).2 ⟨he, hsh, hf, hr⟩)]
      rfl
    · have kept : atRest h = false := by
        rw [Bool.eq_false_iff, Ne, atRest_iff]
        tauto
      rw [deactivate_of_active hs, kept]
      rfl

/-- The first check of item 7 of R152. -/
theorem regionOf_of_misaligned {x : Lane} (h : x.va % 128 ≠ 0 ∨ 4096 < x.va.toNat % 4096 + x.len) : regionOf x = .error (causeHitch, 0x05) :=
  if_pos h

section Aligned
variable {x : Lane} (ha : x.va % 128 = 0) (hl : x.va.toNat % 4096 + x.len ≤ 4096)
include ha hl

theorem regionOf_of_fault (hf : x.flt ≠ 0) : regionOf x = .error (x.flt / 256, x.flt % 256) := by
  have good : ¬ (x.va % 128 ≠ 0 ∨ 4096 < x.va.toNat % 4096 + x.len) := by omega
  exact (if_neg good).trans (if_pos (by simpa using hf))

theorem regionOf_of_phys {q : Phys} (hf : x.flt = 0) (hq : x.phys = some q) :
    regionOf x = if q.mt = 0 then .ok (q.pa, x.len) else .error (causeHitch, 0x05) := by
  have good : ¬ (x.va % 128 ≠ 0 ∨ 4096 < x.va.toNat % 4096 + x.len) := by omega
  refine (if_neg good).trans ((if_neg (by simp [hf])).trans ?_)
  rw [hq]

end Aligned

section Bind
variable {s : State} {o : Op} {p : Phys} {h : Hitch} {x : Lane}

theorem bindAt_of_not_held (hh : Claims.HitchAt s o p h) (he : h.excl ≠ some o.ctx) (b : Bool) :
    bindAt s o p x b = hitchFault s o p.pa (causeHitch, 0x0A) := by
  obtain ⟨hp, hs, ha⟩ := hh
  rw [bindAt_of_active hp hs]
  simp [bindActive, ha, he]

theorem bindAt_of_no_region {c d : Nat} (hh : Claims.HitchAt s o p h) (he : h.excl = some o.ctx) (hr : regionOf x = .error (c, d)) (b : Bool) :
    bindAt s o p x b = failOp s o c d (if c = causeHitch then ((o.lanes.head?.map (fun y => y.va.toNat)).getD 0) else x.va.toNat) := by
  obtain ⟨hp, hs, ha⟩ := hh
  rw [bindAt_of_active hp hs]
  simp [bindActive, ha, he, hr]

theorem bindAt_of_region {r : Nat × Nat} (hh : Claims.HitchAt s o p h) (he : h.excl = some o.ctx) (hr : regionOf x = .ok r) (b : Bool) :
    bindAt s o p x b =
      if b then
        let all := (s.syn.hitches.map (fun y => y.2.regions)).flatten
        if all.any (fun q => decide (q.1 < r.1 + r.2) && decide (r.1 < q.1 + q.2)) then hitchFault s o p.pa (causeHitch, 0x06)
        else if 16 ≤ h.regions.length then hitchFault s o p.pa (causeHitch, 0x07)
        else if 16384 ≤ (all.filter (fun q => controller s q.1 == controller s r.1)).length then hitchFault s o p.pa (causeHitch, 0x09)
        else Claims.left (setHitch s p.pa { h with regions := h.regions ++ [r] }) o
      else if h.regions.contains r then Claims.left (settleHitch (setHitch s p.pa { h with regions := h.regions.filter (· != r) }) p.pa) o
      else hitchFault s o p.pa (causeHitch, 0x08) := by
  obtain ⟨hp, hs, ha⟩ := hh
  have asid : (h.asid != o.cx.asid) = false := by simp [ha]
  have excl : (h.excl != some o.ctx) = false := by simp [he]
  rw [bindAt_of_active hp hs, bindActive, asid, excl, hr]
  rfl

end Bind

theorem hitch_bindings : Claims.HitchBindings := by
  intro s o p h x hh va
  refine ⟨fun he b => bindAt_of_not_held hh he b, fun he => ⟨fun hm b => ?_, fun ha hl => ⟨fun hflt hc b => ?_, fun q hflt hq => ⟨fun hmt b => ?_, ?_⟩⟩⟩⟩
  · rw [bindAt_of_no_region hh he (regionOf_of_misaligned hm), if_pos rfl]
  · rw [bindAt_of_no_region hh he (regionOf_of_fault ha hl hflt), if_neg hc]
  · rw [bindAt_of_no_region hh he ((regionOf_of_phys ha hl hflt hq).trans (if_neg hmt)), if_pos rfl]
  · intro hmt r all meets index
    have region : regionOf x = .ok r := (regionOf_of_phys ha hl hflt hq).trans (if_pos hmt)
    have overlap : all.any (fun t => decide (t.1 < r.1 + r.2) && decide (r.1 < t.1 + t.2)) = true ↔ meets := by
      simp only [List.any_eq_true, Bool.and_eq_true, decide_eq_true_eq]
      exact Iff.rfl
    have at_ := fun b => bindAt_of_region hh he region b
    refine ⟨fun hm => ?_, fun hm hn => ?_, fun hm hn hi => ?_, fun hm hn hi => ?_, fun hr => ?_, fun hr => ?_⟩
    · exact (at_ true).trans (if_pos (overlap.2 hm))
    · exact (at_ true).trans ((if_neg (overlap.not.2 hm)).trans (if_pos hn))
    · exact (at_ true).trans ((if_neg (overlap.not.2 hm)).trans ((if_neg (Nat.not_le.2 hn)).trans (if_pos hi)))
    · exact (at_ true).trans ((if_neg (overlap.not.2 hm)).trans ((if_neg (Nat.not_le.2 hn)).trans (if_neg (Nat.not_le.2 hi))))
    · refine (at_ false).trans ((if_pos (List.contains_iff_mem.2 hr)).trans ?_)
      rw [settleHitch_of_waits (h := { h with regions := h.regions.filter (· != r) }) (hitch_setHitch _ _ _) (headWaits_of_excl he)
        (atRest_of_excl he)]
    · exact (at_ false).trans (if_neg fun hc => hr (List.contains_iff_mem.1 hc))

end Sys2Proof.Machine

namespace Sys2Proof.Machine

/-! Hitch operations at their engine and back on their tile, barriers, WAIT, FENCE, GIVE, troughs and contexts (R55, R61, R140, R146, R147,
R153, R155 to R157, R164, R193, R261, R263, R283 to R292). -/

/-! At the engine. -/

section Engine
variable {s : State} {o : Op} {x : Lane} {p : Phys} {r : List Lane} (h : Claims.AtEngine s o x p r)
include h

theorem execHitchRequestArrival_hreq {k : HKind} {t : Bool} (hk : o.kind = .hreq k t) :
    execHitchRequestArrival s = .next (requestAt s o p k t) := by
  obtain ⟨ho, hph, ht, hf, hl, hx⟩ := h
  simp [execHitchRequestArrival, show opById s s.occ.a = some o from ho, hph, ht, hf, hk, hl, hx]

theorem execHitchRequestArrival_hbind {y : Lane} {r' : List Lane} (hr : r = y :: r') (hk : o.kind = .hbind) :
    execHitchRequestArrival s = .next (bindAt s o p y true) := by
  obtain ⟨ho, hph, ht, hf, hl, hx⟩ := h
  simp [execHitchRequestArrival, show opById s s.occ.a = some o from ho, hph, ht, hf, hk, hl, hr, hx]

theorem execHitchRequestArrival_hunb {y : Lane} {r' : List Lane} (hr : r = y :: r') (hk : o.kind = .hunb) :
    execHitchRequestArrival s = .next (bindAt s o p y false) := by
  obtain ⟨ho, hph, ht, hf, hl, hx⟩ := h
  simp [execHitchRequestArrival, show opById s s.occ.a = some o from ho, hph, ht, hf, hk, hl, hr, hx]

/-- R156, R164: the passing acquire of a barrier's member, or of a SPAWN's tile. -/
theorem execHitchRequestArrival_passing (hk : (∃ key, o.kind = .bar true key) ∨ ∃ c, o.kind = .spawn c true) (hn : o.n = 1) :
    execHitchRequestArrival s = .next (requestAt s o p .p false) := by
  obtain ⟨ho, hph, ht, hf, hl, hx⟩ := h
  rcases hk with ⟨key, hk⟩ | ⟨c, hk⟩
  · simp [execHitchRequestArrival, show opById s s.occ.a = some o from ho, hph, ht, hf, hk, hl, hx, hn]
  · simp [execHitchRequestArrival, show opById s s.occ.a = some o from ho, hph, ht, hf, hk, hl, hx, hn]

theorem execHitchReleaseArrival_hrel {k : HKind} (hk : o.kind = .hrel k) :
    execHitchReleaseArrival s = .next (releaseArrives s o k) := by
  obtain ⟨ho, -, ht, -, -, -⟩ := h
  simp [execHitchReleaseArrival, show opById s s.occ.a = some o from ho, ht, hk]

/-- R150: of a release that EKILL has refused only the hold ends. -/
theorem releaseArrives_of_refused {k : HKind} (hn : o.n = 3) : releaseArrives s o k = abandonHold (dropOp s o.id) p.pa o.ctx := by
  obtain ⟨-, hph, -, -, hl, hx⟩ := h
  simp [releaseArrives, hl, hx, hph, hn]

section Acked
variable (ha : storesAcked s o = true)
include ha

theorem releaseArrives_of_good {k : HKind} (hn : o.n ≠ 3) (hf : releaseFault s o p (k == .p) = none) :
    releaseArrives s o k = leave (releaseAt s o p (k == .p)) o := by
  obtain ⟨-, hph, -, hfen, hl, hx⟩ := h
  simp [releaseArrives, hl, hx, hph, hn, hfen, ha, hf]

theorem releaseArrives_of_fault {k : HKind} {d : Nat} (hn : o.n ≠ 3) (hf : releaseFault s o p (k == .p) = some d) :
    releaseArrives s o k = failOp s o causeHitch d x.va.toNat := by
  obtain ⟨-, hph, -, hfen, hl, hx⟩ := h
  simp [releaseArrives, hl, hx, hph, hn, hfen, ha, hf]

theorem execHitchReleaseArrival_spawn {c : Nat} (hk : o.kind = .spawn c true) (hn : o.n = 0) (hroom : spawnRoom s o = true)
    (hf : releaseFault s o p true = none) : execHitchReleaseArrival s = .next (spawnAfter (releaseAt s o p true) o c) := by
  obtain ⟨ho, hph, ht, hfen, hl, hx⟩ := h
  simp [execHitchReleaseArrival, show opById s s.occ.a = some o from ho, ht, hk, spawnRelease, hl, hx, hph, hn, hfen, ha, hroom, hf]

theorem execBarrierArrival_hitch {key : Nat} (hk : o.kind = .bar true key) (hn : o.n = 0) (hm : mayArrive s o key = true)
    (hf : releaseFault s o p true = none) : execBarrierArrival s = .next (arrive (releaseAt s o p true) o key) := by
  obtain ⟨ho, hph, ht, hfen, hl, hx⟩ := h
  simp [execBarrierArrival, show opById s s.occ.a = some o from ho, ht, hk, hfen, hm, hn, hl, hx, hph, ha, hf]

end Acked
end Engine

/-! At an active hitch. -/

section AtHitch
variable {s : State} {o : Op} {p : Phys} {h : Hitch} (hh : Claims.HitchAt s o p h)
include hh

/-- R145: the first request of a hitch that nobody holds, or one that waits for a shared holder. -/
theorem requestAt_exclusive (hc : holds h o.ctx = false) (hf : h.fifo = []) (he : h.excl = none) (hw : engineWaits s p.pa < 8192)
    (ho : opById s o.id = some o) :
    let queued := { setOp s { o with phase := .active } with syn := { s.syn with hitches := sset s.syn.hitches p.pa { h with fifo := [{ op := o.id, ctx := o.ctx, kind := .x }] } } }
    let granted := { h with gseq := h.gseq + 1, excl := some o.ctx, fifo := [] }
    (h.shared = [] → requestAt s o p .x false =
      answerOp (setHitch queued p.pa granted) o.id (statusLanes o.w [(if h.abn then 1 else 0) + 2, h.gseq + 1]) true) ∧
    (∀ c, h.shared = [c] → requestAt s o p .x false = queued) := by
  intro queued granted
  have joined : Claims.joined s o p h .x = queued := by
    rw [Claims.joined, hf]
    rfl
  have granted_eq : Claims.grantedHitch h .x o.ctx = granted := by
    obtain ⟨excl, shared, abn, gseq, asid, enc, fifo, regions⟩ := h
    obtain rfl : fifo = [] := hf
    rfl
  obtain ⟨-, blocked, free⟩ := hitch_requests.1 s o p h .x hh (Or.inr hc)
  refine ⟨fun hs => ?_, fun c hs => ?_⟩
  · have open_ : ¬ Claims.Blocked h .x := by
      rintro (hx | ⟨r, rest, -, -, hx⟩ | ⟨-, -, hx⟩)
      · exact hx he
      · exact hx hs
      · exact hx hs
    have answer := ((free open_ hf ho).1 (by decide)).1 hw
    rw [answer, joined, granted_eq]
    rfl
  · rw [((blocked (Or.inr (Or.inr ⟨hf, rfl, by simp [hs]⟩))).1 hw), joined]

theorem releaseFault_at (b : Bool) : releaseFault s o p b = if b || holds h o.ctx then none else some 0x03 := by
  obtain ⟨hp, hs, ha⟩ := hh
  simp [releaseFault, hp, hs, ha]

end AtHitch

theorem releaseHold_of_excl {h : Hitch} {c : Nat} (he : h.excl = some c) : releaseHold h c = { h with excl := none, abn := false } := if_pos he

theorem releaseHold_of_shared {h : Hitch} {c : Nat} (he : h.excl ≠ some c) : releaseHold h c = { h with shared := h.shared.erase c } := if_neg he

/-! Back on the tile (R67, R146, R156, R164). -/

section Grant
variable {s : State} {o : Op} {x : Lane} {p : Phys} {r : List Lane} (ho : Claims.Subject s o) (hd : o.phase = .done) (ht : o.tile < 384)
  (hl : o.lanes = x :: r) (hx : x.phys = some p)
include ho hd ht

theorem execHitchGrantArrival_plain (hk : (∃ k, o.kind = .hrel k) ∨ o.kind = .hbind ∨ o.kind = .hunb) :
    execHitchGrantArrival s = .next (respond s o o.a) := by
  have here : opById s s.occ.a = some o := ho
  rcases hk with ⟨k, hk⟩ | hk | hk
  all_goals simp [execHitchGrantArrival, here, hd, ht, hk]

include hl hx

theorem execHitchGrantArrival_hreq {k : HKind} {t : Bool} (hk : o.kind = .hreq k t) :
    execHitchGrantArrival s = .next (respond (if o.n = 1 then cleanIn s o.tile (regionsAt s p.pa) else s) o o.out) := by
  simp [execHitchGrantArrival, show opById s s.occ.a = some o from ho, hd, ht, hk, hl, hx]

theorem execHitchGrantArrival_bar {b : Bool} {key : Nat} (hk : o.kind = .bar b key) :
    execHitchGrantArrival s =
      .next (respond (if b then cleanIn s o.tile (regionsAt s p.pa) else s) o (statusLanes o.w [BitVec.ofNat 32 o.addr])) := by
  simp [execHitchGrantArrival, show opById s s.occ.a = some o from ho, hd, ht, hk, hl, hx]

theorem execHitchGrantArrival_spawn {c : Nat} (hk : o.kind = .spawn c true) :
    execHitchGrantArrival s = .next (dropOp ((acquireTile s o).elim s (fun t => cleanIn s t (regionsAt s p.pa))) o.id) := by
  simp [execHitchGrantArrival, show opById s s.occ.a = some o from ho, hd, ht, hk, hl, hx]

end Grant

/-! Barriers (R156, R289). -/

theorem barDone_of_plain {s : State} {o : Op} {gen key : Nat} (ho : opById s o.id = some o) (hk : o.kind = .bar false key) :
    barDone s gen o.id = setOp s { o with phase := .done, addr := gen } := by
  simp [barDone, ho, hk]

/-- R38: the member's passing acquire is translated anew. -/
theorem barDone_of_hitch {s : State} {o : Op} {gen key : Nat} (ho : opById s o.id = some o) (hk : o.kind = .bar true key) :
    barDone s gen o.id = setOp s { o with
      phase := .queued, n := 1, addr := gen, lanes := o.lanes.map (fun x => if x.fin = true then x else { x with phys := none, rewalked := false }) } := by
  simp [barDone, ho, hk, retranslate, isStore]

theorem execBarrierArrival_plain {s : State} {o : Op} {key : Nat} (ho : Claims.Subject s o) (hk : o.kind = .bar false key) (ht : o.tid = 0)
    (hf : fenced s o = false) (hm : mayArrive s o key = true) (hn : o.n = 0) (hp : o.phase = .queued) :
    execBarrierArrival s = .next (arrive s o key) := by
  simp [execBarrierArrival, show opById s s.occ.a = some o from ho, hk, ht, hf, hm, hn, hp]

section Arrive
variable {s : State} {o : Op} {key : Nat} {m : Meeting} (hm : s.syn.bars.find? (fun m => m.q == o.cx.q && m.key == key) = some m)
include hm

theorem arrive_of_open : arrive s o key =
    let m' := { m with arrived := m.arrived ++ [(opTile s o, o.id)] }
    let rest := s.syn.bars.filter (fun m => !(m.q == o.cx.q && m.key == key))
    let s1 := setOp s { o with phase := .active }
    if (barMembers s o.cx.q key).all (fun t => m'.arrived.any (·.1 == t)) then
      m'.arrived.foldl (fun s x => barDone s m.gen x.2)
        { s1 with syn := { s.syn with bars := rest, barGen := sset s.syn.barGen (o.cx.q * 2 ^ 24 + key) (BitVec.ofNat 32 (m.gen + 1)) } }
    else { s1 with syn := { s.syn with bars := rest ++ [m'] } } := by
  simp only [arrive, hm, Option.getD_some]
  rfl

end Arrive

/-! WAIT, FENCE and GIVE (R55, R140, R153, R155, R263, R290). -/

theorem execWaitEmit_of_first {s : State} {o : Op} {l st d m : Nat} (ho : Claims.TileSubject s o) (hk : o.kind = .wait l st d m) (ht : o.tid = 0)
    (hfirst : ∀ p ∈ s.ops, p.tile = o.tile → p.ctx = o.ctx → p.id < o.id → ∀ a b c e, p.kind ≠ .wait a b c e) :
    execWaitEmit s = if waitMet (if st = 0 then writeBackAll s o.tile else s) o l st d m = true
      then .next (respond (if st = 0 then writeBackAll s o.tile else s) o o.a) else .next (if st = 0 then writeBackAll s o.tile else s) := by
  unfold execWaitEmit
  rw [show opById s s.occ.b = some o from ho]
  simp only [hk]
  refine if_pos ?_
  simp only [ht, beq_self_eq_true, Bool.and_true, Bool.not_eq_true', List.any_eq_false]
  intro p hp
  simp only [Bool.and_eq_true, beq_iff_eq, decide_eq_true_eq]
  rintro ⟨⟨⟨htile, hctx⟩, hid⟩, hwait⟩
  cases hkp : p.kind with
  | wait a b c e => exact hfirst p hp htile hctx hid a b c e hkp
  | _ => rw [hkp] at hwait; cases hwait

theorem waitMet_iff (s : State) (o : Op) (l st d m : Nat) : waitMet s o l st d m = true ↔
    outstanding s o.tile o.ctx countsLoad ≤ l ∧ outstanding s o.tile o.ctx isStore ≤ st ∧ outstanding s o.tile o.ctx countsDray ≤ d ∧
      outstanding s o.tile o.ctx countsMatrix ≤ m := by
  simp [waitMet, and_assoc]

/-- R155: an operation of the context before the fence, or a broadcast that a commit buffer still holds, keeps a FENCE. -/
def fenceHeld (s : State) (o : Op) (sc : Nat) : Bool :=
  s.ops.any (fun p => p.tile == o.tile && p.ctx == o.ctx && portBefore p o && fenceWaits sc p) || sc == 3 && broadcastHeld s o

theorem fenceHeld_iff (s : State) (o : Op) (sc : Nat) : fenceHeld s o sc = true ↔
    (∃ p ∈ s.ops, p.tile = o.tile ∧ p.ctx = o.ctx ∧ portBefore p o = true ∧ fenceWaits sc p = true) ∨ (sc = 3 ∧ broadcastHeld s o = true) := by
  simp [fenceHeld, and_assoc]

theorem execFenceRelease_of_fence {s : State} {o : Op} {sc : Nat} (ho : Claims.TileSubject s o) (hk : o.kind = .fence sc) (ht : o.tid = 0)
    (hf : fenced s o = false) : execFenceRelease s = if fenceHeld (if sc = 0 then s else writeBackAll s o.tile) o sc = true
      then .next (if sc = 0 then s else writeBackAll s o.tile) else .next (respond (if sc = 0 then s else writeBackAll s o.tile) o o.a) := by
  unfold execFenceRelease
  rw [show opById s s.occ.b = some o from ho]
  simp only [hk]
  exact if_pos (by simp [ht, hf])

/-- R55: the GIVE's turn, once every GIVE and TACC entry before it is performed. -/
theorem execGiveFlip_of_turn {s : State} {o : Op} {n eng : Nat} {p : Pen} (ho : Claims.Subject s o) (hk : o.kind = .give n eng)
    (hq : o.phase = .queued) (ha : storesAcked s o = true)
    (hfirst : ∀ p ∈ s.ops, p.tile = o.tile → p.id < o.id → stopped p = false → ∀ a b, p.kind ≠ .give a b)
    (htacc : ∀ p ∈ s.ops, p.tile = o.tile → p.tid = 0 → stopped p = false → ∀ a b, p.kind = .tacc a b → penOf b ≠ n)
    (hhome : storesHome (writeBackAll (drainStp s o.tile) o.tile) o = true)
    (hstp : ∀ p ∈ (writeBackAll (drainStp s o.tile) o.tile).ops, p.tile = o.tile → p.ctx = o.ctx → isStp p.kind = true → p.tid = 0 → o.id ≤ p.id)
    (hp : penAt (writeBackAll (drainStp s o.tile) o.tile) o.tile n = some p) :
    execGiveFlip s = if p.own = true then .next (failOp (writeBackAll (drainStp s o.tile) o.tile) o causeOwnViol 0 (n * 2 ^ 22))
      else .next (setPen (dropOp (writeBackAll (drainStp s o.tile) o.tile) o.id) o.tile n { p with own := true, eng := eng }) := by
  unfold execGiveFlip
  rw [show opById s s.occ.a = some o from ho]
  simp only [hk]
  refine (if_pos ?_).trans ((if_neg ?_).trans ?_)
  · simp only [hq, ha, beq_self_eq_true, Bool.true_and, Bool.and_true, Bool.and_eq_true, Bool.not_eq_true', List.any_eq_false, beq_iff_eq,
      decide_eq_true_eq]
    constructor
    · rintro p hp ⟨⟨⟨htile, hid⟩, hstop⟩, hgive⟩
      cases hkp : p.kind with
      | give a b => exact hfirst p hp htile hid hstop a b hkp
      | _ => rw [hkp] at hgive; cases hgive
    · rintro p hp ⟨⟨⟨htile, htid⟩, hstop⟩, hpen⟩
      cases hkp : p.kind with
      | tacc a b =>
        rw [hkp] at hpen
        exact htacc p hp htile htid hstop a b hkp (beq_iff_eq.1 hpen)
      | _ => rw [hkp] at hpen; cases hpen
  · simp only [hhome, Bool.not_true, Bool.false_or, List.any_eq_true, Bool.and_eq_true, beq_iff_eq, decide_eq_true_eq]
    rintro ⟨p, hp, ⟨⟨⟨htile, hctx⟩, hkind⟩, htid⟩, hid⟩
    exact absurd hid (Nat.not_lt.2 (hstp p hp htile hctx hkind htid))
  · rw [hp]

/-! Troughs (R61, R292, R293). -/

theorem find_first_ready {α : Type} {pre post : List α} {w : α} {ready : α → Bool} (hpre : ∀ v ∈ pre, ready v = false) (hw : ready w = true) :
    (pre ++ w :: post).find? ready = some w := by
  have none_before : pre.find? ready = none := List.find?_eq_none.2 fun v hv => by simp [hpre v hv]
  simp [List.find?_append, none_before, hw]

theorem erase_first {α : Type} [DecidableEq α] {pre post : List α} {w : α} (h : w ∉ pre) : (pre ++ w :: post).erase w = pre ++ post := by
  rw [List.erase_append_right _ h, List.erase_cons_head]

section Waiter
variable {s : State} {t : Trough} {pre post : List Waiter} {isTake : Bool} {elem rank c i blk pos port : Nat}
  (ht : troughAt s s.occ.a s.occ.b = some t) (hw : t.waiters = pre ++ Waiter.pe isTake elem rank c i blk pos port :: post)
  (hnew : Waiter.pe isTake elem rank c i blk pos port ∉ pre) (hpre : ∀ v ∈ pre, (if v.takes then t.filled else t.free) = 0)
  (hslot : 0 < (if isTake then t.filled else t.free))
include ht hw hnew hpre hslot

theorem execTroughWaiterServe_of_first (hroom : serveRoom s s.occ.a t (.pe isTake elem rank c i blk pos port) = true) :
    execTroughWaiterServe s =
      let t' := { t with waiters := pre ++ post }
      let s1 := setTrough s s.occ.a s.occ.b t'
      let moved := if isTake then take s1 s.occ.a s.occ.b t' 0 else reserve s1 s.occ.a s.occ.b t' 0
      if frameFull s s.occ.a rank c i then
        .next (raiseOn s1 s.occ.a { bareRecord (ltileOf s s.occ.a rank) causeTrough 0x06 0 with
          framed := true, ctx := c, iter := i, rank := rank, blk := blk, pos := pos })
      else .next (notify (addOwned moved.1 { tile := s.occ.a, rank := rank, ctx := c, iter := i, groom := elem == 8, blk := blk, pos := pos,
                                             pen := moved.2, take := isTake })
        s.occ.a elem rank c i blk pos port moved.2) := by
  have first : t.waiters.find? (fun w => decide (0 < (if w.takes then t.filled else t.free))) = some (.pe isTake elem rank c i blk pos port) := by
    rw [hw]
    exact find_first_ready (fun v hv => by simp [hpre v hv]) (decide_eq_true hslot)
  have left : t.waiters.erase (.pe isTake elem rank c i blk pos port) = pre ++ post := by rw [hw, erase_first hnew]
  simp only [execTroughWaiterServe, ht, first, hroom, left]
  rfl

end Waiter

/-! Contexts (R150, R193, R194, R261). -/

theorem endContext_of_acked {s : State} {o : Op} {c : Nat} {x : Ctx} (ha : storesAcked s o = true) (hx : ctxOf s c = some x) :
    endContext s o c = { dropOp s o.id with ctxs := sset s.ctxs c { x with st := if x.st = .live then .ending else x.st } } := by
  simp [endContext, ha, hx]

end Sys2Proof.Machine

namespace Sys2Proof.Proofs
open Sys2Proof.Machine

/-- Settles O52: the hitch from its laws, each other operation from its exec function. -/
theorem synchronisationIsPerformed : Obligations.SynchronisationIsPerformed := by
  unfold Obligations.SynchronisationIsPerformed
  refine ⟨?engine, ?hitch, hitch_requests, hitch_lives, hitch_bindings, ?grant, fun s o gen key ho => ⟨barDone_of_plain ho, barDone_of_hitch ho⟩,
    ?barrier, ?wait, ?fence, ?give, ?trough, ?context⟩
  case engine =>
    intro s o x p r h
    refine ⟨fun k t hk => execHitchRequestArrival_hreq h hk,
      fun y r' hr => ⟨execHitchRequestArrival_hbind h hr, execHitchRequestArrival_hunb h hr⟩, execHitchRequestArrival_passing h,
      fun k hk hn => ?_, fun k hk hn ha => ⟨fun hf => ?_, fun d hf => ?_⟩,
      fun c hk ha hn hroom hf => execHitchReleaseArrival_spawn h ha hk hn hroom hf,
      fun key hk hn hm ha hf => execBarrierArrival_hitch h ha hk hn hm hf⟩
    · exact (execHitchReleaseArrival_hrel h hk).trans (by rw [releaseArrives_of_refused h hn])
    · exact (execHitchReleaseArrival_hrel h hk).trans (by rw [releaseArrives_of_good h ha hn hf]; rfl)
    · exact (execHitchReleaseArrival_hrel h hk).trans (by rw [releaseArrives_of_fault h ha hn hf])
  case hitch =>
    intro s o p h hh
    refine ⟨fun k t hk hc => requestAt_of_held hh hk hc t, fun hc hf he hw ho => requestAt_exclusive hh hc hf he hw ho, fun k hk => ?_,
      fun k hk hc => ⟨?_, releaseHold_of_excl, releaseHold_of_shared⟩⟩
    · rw [releaseFault_at hh]
      rcases hk with hc | rfl
      · cases k <;> simp [hc]
      · simp
    · rw [releaseFault_at hh, hc]
      rfl
  case grant =>
    intro s o x p r ho hd ht hl hx acquired
    refine ⟨fun k t hk => execHitchGrantArrival_hreq ho hd ht hl hx hk, fun h key hk => execHitchGrantArrival_bar ho hd ht hl hx hk,
      execHitchGrantArrival_plain ho hd ht, fun c hk => ⟨fun t k hp => ?_, fun hp => ?_⟩⟩
    all_goals exact (execHitchGrantArrival_spawn ho hd ht hl hx hk).trans (by rw [acquireTile, hp]; rfl)
  case barrier =>
    intro s o key ho hk ht hf hm hn hp
    refine ⟨execBarrierArrival_plain ho hk ht hf hm hn hp, ?_⟩
    intro m hfind m' rest s1
    have all_iff : (barMembers s o.cx.q key).all (fun t => m'.arrived.any (·.1 == t)) = true ↔
        ∀ t ∈ barMembers s o.cx.q key, ∃ a ∈ m'.arrived, a.1 = t := by simp
    refine ⟨fun hmiss => ?_, fun hall => ?_⟩
    · refine (arrive_of_open hfind).trans (if_neg fun hall => ?_)
      obtain ⟨t, ht, hno⟩ := hmiss
      obtain ⟨a, ha, hat⟩ := all_iff.1 hall t ht
      exact hno a ha hat
    · exact (arrive_of_open hfind).trans (if_pos (all_iff.2 hall))
  case wait =>
    intro s o l st d m ho hk ht hfirst s1
    have turn := execWaitEmit_of_first ho hk ht hfirst
    exact ⟨fun hmet => turn.trans (if_pos ((waitMet_iff s1 o l st d m).2 hmet)), fun hmet => turn.trans (if_neg ((waitMet_iff s1 o l st d m).not.2 hmet))⟩
  case fence =>
    intro s o sc ho hk ht hf s1
    have turn := execFenceRelease_of_fence ho hk ht hf
    refine ⟨fun hops hcast => turn.trans (if_neg fun hheld => ?_), fun hheld => turn.trans (if_pos ((fenceHeld_iff s1 o sc).2 hheld))⟩
    rcases (fenceHeld_iff s1 o sc).1 hheld with ⟨p, hp, htile, hctx, hbef, hw⟩ | ⟨h3, hb⟩
    · rw [hops p hp htile hctx hbef] at hw
      cases hw
    · rw [hcast h3] at hb
      cases hb
  case give =>
    intro s o n eng ho hk hq ha hfirst htacc s1 hhome hstp p hp
    have turn := execGiveFlip_of_turn ho hk hq ha hfirst htacc hhome hstp hp
    exact ⟨fun hown => turn.trans (if_neg (by simp [hown])), fun hown => turn.trans (if_pos hown)⟩
  case trough =>
    intro s t pre post isTake elem rank c i blk pos port ht w hw hnew hpre hslot t' s1 moved
    refine ⟨fun hlen hroom => ?_, fun hlen hroom => ?_⟩
    · have open_ : frameFull s s.occ.a rank c i = false := by simp [frameFull, hlen]
      refine (execTroughWaiterServe_of_first ht hw hnew hpre hslot (by simp [serveRoom, open_, hroom])).trans ?_
      rw [open_]
      rfl
    · have full : frameFull s s.occ.a rank c i = true := decide_eq_true hlen
      refine (execTroughWaiterServe_of_first ht hw hnew hpre hslot (by simp [serveRoom, full, hroom])).trans ?_
      rw [full]
      rfl
  case context =>
    intro s x c s1
    refine ⟨fun o ha hx => endContext_of_acked ha hx, fun hx => ⟨?_, fun hb => ?_⟩⟩
    · intro hst hb hpl s2 s3 s4
      have free : (x.st == .ending && !contextBusy s1 c x && (sget s1.sch.launches x.q).elim true Launch.placed) = true := by
        cases hl : sget s1.sch.launches x.q with
        | none => simp [hst, hb]
        | some l => simp [hst, hb, hpl l hl]
      show execContextFree s = _
      unfold execContextFree
      simp only [show ctxOf ((endings s s.occ.a).foldl (fun s' o => endContext s' o s.occ.a) s) s.occ.a = some x from hx]
      exact if_pos free
    · show execContextFree s = _
      unfold execContextFree
      simp only [show ctxOf ((endings s s.occ.a).foldl (fun s' o => endContext s' o s.occ.a) s) s.occ.a = some x from hx]
      refine if_neg ?_
      rw [show contextBusy ((endings s s.occ.a).foldl (fun s' o => endContext s' o s.occ.a) s) s.occ.a x = true from hb]
      simp

end Sys2Proof.Proofs

namespace Sys2Proof.Machine

/-! Commands of the island, the fold unit, the row units and the TACC unit (R54, R82, R328, R339 to R357, R364, R379). -/

/-! What an element of an MMA's result is (R347, R348). -/

theorem scaled_fst (w : Word) (sc : Num × Astat) : (scaled w sc).1 = Claims.rounded (numMul (num32 w) sc.1) := rfl

theorem products : Claims.Products := by
  intro s o f pr ta tb chn i j a sum by_ term
  refine ⟨?_, fun k fa hfa => ?_⟩
  · refine (List.foldl_hom Prod.fst fun acc blk => ?_).symm
    show (add32 acc.1 (term blk)).1 = _
    by_cases hsc : f.sc = true
    · simp only [term, if_pos hsc]
      rfl
    · simp only [term, if_neg hsc]
      rfl
  · simp only [chainA, hfa, Option.getD_some]

/-- With one block, no scales and A from a pen, one sum is added to the accumulator. -/
theorem mmaElem_of_one_block {s : State} {o : Op} {f : MmaForm} {pr : Pair} {ta tb : Bool} (i j : Nat) (hk : f.k = f.kb) (hpos : 0 < f.kb)
    (hsc : f.sc = false) :
    (mmaElem s o f pr ta tb false i j).1 = (add32 (accAt s o.tile f.acc i j)
      ((treeSum (Nat.log2 f.kb) ((upto f.kb).map (fun k => some (product32 (elemA s o f pr ta i k) (elemB s o f pr tb k j))))).getD (0, 0)).1).1 := by
  have one : f.k / f.kb = 1 := by rw [hk, Nat.div_self hpos]
  rw [(products s o f pr ta tb false i j).1, one]
  simp only [hsc, Bool.false_eq_true, if_false, List.range_one, List.foldl_cons, List.foldl_nil, Nat.zero_mul, Nat.zero_add, upto]

/-! What a drain makes of an element (R350, R352). -/

theorem activation_of_nan {s : State} {tile : Nat} {x : Word} (h : (num32 x).isNan = true) : activation s tile x = (0x7FC00000, 0) := if_pos h

theorem activation_of_number {s : State} {tile : Nat} {x : Word} (h : (num32 x).isNan = false) :
    activation s tile x =
      let d := sub32 x (sgetD s.isl.alo tile 0)
      let u := mul32 d.1 (sgetD s.isl.ainv tile 0)
      let e := sgetD s.isl.act (tile * 256 + actIndex u.1) (0, 0)
      ((fma32 e.1 x e.2).1, d.2 ||| u.2 ||| (fma32 e.1 x e.2).2) := if_neg (by simp [h])

theorem actIndex_of_nan {u : Word} (h : (num32 u).isNan = true) : actIndex u = 0 := by
  unfold actIndex
  cases hu : num32 u with
  | nan => rfl
  | _ => rw [hu] at h; cases h

theorem biased_fst (s : State) (o : Op) (bias : Bool) (i j : Nat) : (biased s o bias i j).1 =
    if bias then (add32 (accAt s o.tile (accOf o) i j) (penWord s o.tile (penOf (wordA o 5)) (offOf (wordA o 5) + 4 * j))).1
    else accAt s o.tile (accOf o) i j := by
  cases bias <;> rfl

section Drain
variable (s : State) (o : Op) (bias act : Bool) (i j : Nat)

/-- The value of an element after its bias and its activation. -/
def drained : Word := if act then (activation s o.tile (biased s o bias i j).1).1 else (biased s o bias i j).1

theorem drainElem_value (rq : Bool) : (drainElem s o bias act rq i j).1 = drained s o bias act i j := by
  cases act <;> cases rq <;> rfl

theorem drainElem_plain : (drainElem s o bias act false i j).2.1 = (drained s o bias act i j).toNat := by
  cases act <;> rfl

theorem drainElem_rounded : (drainElem s o bias act true i j).2.1 =
    ((fmtFp (outFmt (bits (wordA o 2) 0 4))).round (drainMode s o i j) (bit (wordA o 2) 7)
      (num32 (mul32 (drained s o bias act i j) (BitVec.ofNat 32 (wordA o 3))).1)).1 := by
  cases act <;> rfl

end Drain

theorem drains : Claims.Drains := by
  refine ⟨fun s tile x => ?_, fun u => ⟨actIndex_of_nan, fun neg hu => ?_, fun neg m e st hu => ?_⟩, fun s o bias act rq i j => ?_⟩
  · exact ⟨activation_of_nan, fun h => by rw [activation_of_number h]⟩
  · simp only [actIndex, hu]
  · simp only [actIndex, hu]
  · refine ⟨biased_fst s o bias i j, drainElem_value s o bias act i j rq, fun hrq => ?_, fun hrq => ?_⟩
    · subst hrq
      exact drainElem_plain s o bias act i j
    · subst hrq
      exact drainElem_rounded s o bias act i j

theorem mem_dedup_imp {x : Nat} {l : List Nat} (h : x ∈ dedup l) : x ∈ l := by
  induction l with
  | nil => exact h
  | cons y l ih =>
    rcases List.mem_cons.1 h with rfl | hx
    · exact List.mem_cons_self ..
    · exact List.mem_cons_of_mem _ (ih (List.mem_filter.1 hx).1)

theorem mem_grid {m n : Nat} {p : Nat × Nat} : p ∈ grid m n ↔ p.1 < m ∧ p.2 < n := by
  obtain ⟨i, j⟩ := p
  simp only [grid, upto, List.mem_flatten, List.mem_map, List.mem_range]
  constructor
  · rintro ⟨l, ⟨a, ha, rfl⟩, hl⟩
    obtain ⟨b, hb, hab⟩ := List.mem_map.1 hl
    obtain ⟨rfl, rfl⟩ := Prod.mk.inj hab
    exact ⟨ha, List.mem_range.1 hb⟩
  · rintro ⟨hi, hj⟩
    exact ⟨_, ⟨i, hi, rfl⟩, List.mem_map.2 ⟨j, List.mem_range.2 hj, rfl⟩⟩

/-- The activation entries of a drain are those of its elements. -/
theorem actsRead_names {s : State} {o : Op} {bias act : Bool} {m n q : Nat} (h : q ∈ actsRead s o bias act m n) :
    ∃ i j, i < m ∧ j < n ∧ actRead s o.tile (biased s o bias i j).1 = some q := by
  unfold actsRead at h
  split at h
  · obtain ⟨p, hp, hq⟩ := List.mem_filterMap.1 (mem_dedup_imp h)
    obtain ⟨hi, hj⟩ := mem_grid.1 hp
    exact ⟨p.1, p.2, hi, hj, hq⟩
  · cases h

/-! What a fold makes of a row (R354 to R356). -/

theorem visible_iff (h : Rider) (q p : Nat) : visible h q p = true ↔
    p < h.getD 4 0 ∧ (bits (h.getD 1 0) 28 2 = 0 ∨ p ≤ q ∧ (bits (h.getD 1 0) 28 2 = 1 ∨ q < p + h.getD 5 0)) := by
  have window : ((q : Int) - (h.getD 5 0 : Nat) < (p : Nat)) ↔ q < p + h.getD 5 0 := by omega
  simp only [visible, Bool.and_eq_true, Bool.or_eq_true, decide_eq_true_eq, beq_iff_eq, window]

section Score
variable {h : Rider} {x : BaleEntry} {raw : Nat} {q : List (Num × Astat)} {qpos j : Nat}

theorem score_of_hidden (hv : visible h qpos (64 * x.bidx + j) = false) : (score h x raw q qpos j).1 = 0xFF800000 := by
  simp only [score, hv, Bool.not_false, if_true]
  rfl

theorem score_of_visible (hv : visible h qpos (64 * x.bidx + j) = true) : (score h x raw q qpos j).1 =
    (mul32 ((treeSum 8 ((List.range (seqDh x.sent)).map (fun d => some (product32 (q.getD d (.nan, 0)) (baleElem raw x.sent 0 j d))))).getD (0, 0)).1
      (BitVec.ofNat 32 (bits x.entry 64 32))).1 := by
  simp only [score, hv, Bool.not_true, Bool.false_eq_true, if_false]
  rfl

end Score

section Key
variable (x : BaleEntry) (raw : Nat) (m' : Word) (sc : Nat → Word)

/-- The weight of a key of score `s` (R356). -/
def keyWeight (m' s : Word) : Word := (ex2 (sub32 s m').1).1

/-- The scaled value of key `j` in column `d`. -/
def keyValue (j d : Nat) : Word := Claims.rounded (numMul (baleElem raw x.sent 1 j d).1 (num32 (BitVec.ofNat 32 (bits x.entry 96 32))))

theorem foldKey_l (r : FoldRow) (j : Nat) (s : Word) : (foldKey x raw m' r j s).l = (add32 r.l (keyWeight m' s)).1 := rfl

theorem foldKey_acc_length (r : FoldRow) (j : Nat) (s : Word) : (foldKey x raw m' r j s).acc.length = r.acc.length := by
  simp [foldKey, upto]

theorem foldKey_acc (r : FoldRow) (j : Nat) (s : Word) {d : Nat} (hd : d < r.acc.length) : (foldKey x raw m' r j s).acc.getD d 0 =
    (add32 (r.acc.getD d 0) (mul32 (keyWeight m' s) (keyValue x raw j d)).1).1 := by
  have here : d < (foldKey x raw m' r j s).acc.length := by rw [foldKey_acc_length]; exact hd
  rw [List.getD_eq_getElem _ _ here]
  simp only [foldKey, upto, List.getElem_map, List.getElem_range]
  rfl

/-- The keys added to a row one after another. -/
def foldKeys (keys : List Nat) (r : FoldRow) : FoldRow := keys.foldl (fun r j => foldKey x raw m' r j (sc j)) r

theorem foldKeys_l (keys : List Nat) (r : FoldRow) :
    (foldKeys x raw m' sc keys r).l = keys.foldl (fun l j => (add32 l (keyWeight m' (sc j))).1) r.l :=
  (List.foldl_hom FoldRow.l fun _ _ => rfl).symm

theorem foldKeys_acc_length (keys : List Nat) (r : FoldRow) : (foldKeys x raw m' sc keys r).acc.length = r.acc.length := by
  induction keys generalizing r with
  | nil => rfl
  | cons j keys ih => exact (ih _).trans (foldKey_acc_length _ _ _ _ _ _)

theorem foldKeys_acc (keys : List Nat) (r : FoldRow) {d : Nat} (hd : d < r.acc.length) : (foldKeys x raw m' sc keys r).acc.getD d 0 =
    keys.foldl (fun a j => (add32 a (mul32 (keyWeight m' (sc j)) (keyValue x raw j d)).1).1) (r.acc.getD d 0) := by
  induction keys generalizing r with
  | nil => rfl
  | cons j keys ih =>
    rw [List.foldl_cons, ← foldKey_acc x raw m' r j (sc j) hd]
    exact ih _ (by rw [foldKey_acc_length]; exact hd)

end Key

section Row
variable (h : Rider) (x : BaleEntry) (raw : Nat) (q : List (Num × Astat)) (qpos : Nat) (r : FoldRow)

/-- The keys of a bale that take part (R97). -/
def rowKeys : List Nat := List.range (min 64 (baleFill x.entry))

/-- The highest score of a row with what it had. -/
def rowMax : Word := (rowKeys x).foldl (fun m j => fmax32 m (score h x raw q qpos j).1) r.m

/-- A row's sums brought to the new maximum. -/
def rescaled (m' : Word) (fl : Astat) : FoldRow :=
  { m := r.m, l := (mul32 (keyWeight m' r.m) r.l).1, acc := r.acc.map (fun a => (mul32 (keyWeight m' r.m) a).1), flags := fl }

/-- The flags a row's scores and its rescaling raise. -/
def rescaledFlags (m' : Word) : Astat :=
  (r.acc.map (fun a => mul32 (keyWeight m' r.m) a)).foldl (fun f a => f ||| a.2)
    (((upto (min 64 (baleFill x.entry))).map (fun j => score h x raw q qpos j)).foldl (fun f sc => f ||| sc.2)
      (r.flags ||| (sub32 r.m m').2 ||| (ex2 (sub32 r.m m').1).2 ||| (mul32 (keyWeight m' r.m) r.l).2))

theorem rowScores_max : ((upto (min 64 (baleFill x.entry))).map (fun j => score h x raw q qpos j)).foldl (fun m sc => fmax32 m sc.1) r.m =
    rowMax h x raw q qpos r := by
  rw [List.foldl_map]
  rfl

/-- A row of whose keys none is visible keeps its sums. -/
theorem foldRow_of_unseen (hm : rowMax h x raw q qpos r = 0xFF800000) : let t := foldRow h x raw q qpos r
    t.m = r.m ∧ t.l = r.l ∧ t.acc = r.acc := by
  have unseen : rowMax h x raw q qpos r = negInf32 := hm
  simp only [foldRow, rowScores_max, if_pos unseen, and_self]

theorem foldRow_of_seen (hm : rowMax h x raw q qpos r ≠ 0xFF800000) : foldRow h x raw q qpos r =
    { foldKeys x raw (rowMax h x raw q qpos r) (fun j => (score h x raw q qpos j).1) (rowKeys x)
        (rescaled r (rowMax h x raw q qpos r) (rescaledFlags h x raw q qpos r (rowMax h x raw q qpos r))) with
      m := rowMax h x raw q qpos r } := by
  have seen : ¬ rowMax h x raw q qpos r = negInf32 := hm
  have scores : ∀ (r0 : FoldRow), (upto (min 64 (baleFill x.entry))).foldl (fun r1 j => foldKey x raw (rowMax h x raw q qpos r) r1 j
      (((upto (min 64 (baleFill x.entry))).map (fun j => score h x raw q qpos j)).getD j (negInf32, 0)).1) r0 =
      foldKeys x raw (rowMax h x raw q qpos r) (fun j => (score h x raw q qpos j).1) (rowKeys x) r0 := fun r0 => by
    refine List.foldl_ext _ _ _ fun r1 j hj => ?_
    have hlt : j < min 64 (baleFill x.entry) := List.mem_range.1 hj
    rw [List.getD_eq_getElem _ _ (by simpa [upto] using hlt)]
    simp [upto]
  unfold foldRow
  simp only [rowScores_max, if_neg seen, scores, List.map_map]
  rfl

end Row

theorem folds : Claims.Folds := by
  refine ⟨visible_iff, fun h x raw q qpos j => ⟨score_of_hidden, score_of_visible⟩, fun h x raw q qpos r => ?_, fun s o h x rp raw => rfl⟩
  intro keys sc m' t
  refine ⟨foldRow_of_unseen h x raw q qpos r, ?_⟩
  intro hm alpha p v
  let fl := rescaledFlags h x raw q qpos r m'
  have ht : t = { foldKeys x raw m' sc (rowKeys x) (rescaled r m' fl) with m := m' } := foldRow_of_seen h x raw q qpos r hm
  have len : (rescaled r m' fl).acc.length = r.acc.length := List.length_map _
  rw [ht]
  refine ⟨rfl, foldKeys_l x raw m' sc _ _, (foldKeys_acc_length x raw m' sc _ _).trans len, fun d hd => ?_⟩
  have start : (rescaled r m' fl).acc.getD d 0 = (mul32 alpha (r.acc.getD d 0)).1 := by
    rw [List.getD_eq_getElem _ _ (by rw [len]; exact hd), List.getD_eq_getElem _ _ hd]
    exact List.getElem_map _
  rw [← start]
  exact foldKeys_acc x raw m' sc _ _ (by rw [len]; exact hd)

/-! Corrections of single-bit errors change no byte (R82). -/

/-- The tables and the bytes of tile SRAM, with its marks, are the same in both. -/
def SameBytes (s t : State) : Prop :=
  t.tab = s.tab ∧ t.mem.sram = s.mem.sram ∧ t.mem.sramBad = s.mem.sramBad ∧ t.mem.sramLatent = s.mem.sramLatent

theorem sameBytes_fixPen (s : State) (tile p n : Nat) : SameBytes s (fixPen s tile p n) :=
  foldl_keeps (SameBytes s) _ _ _ ⟨rfl, rfl, rfl, rfl⟩ fun _ _ h => h

section SameBytes
variable {s t : State} (h : SameBytes s t)
include h

theorem SameBytes.trans {u : State} (h' : SameBytes t u) : SameBytes s u := by
  obtain ⟨htab, hsram, hbad, hlat⟩ := h
  obtain ⟨htab', hsram', hbad', hlat'⟩ := h'
  exact ⟨htab'.trans htab, hsram'.trans hsram, hbad'.trans hbad, hlat'.trans hlat⟩

theorem SameBytes.sramRead_eq (a n : Nat) : sramRead t a n = sramRead s a n := by
  obtain ⟨-, hsram, hbad, hlat⟩ := h
  induction n generalizing a with
  | zero => rfl
  | succ n ih => rw [sramRead, sramRead, ih, sramBadAt, sramBadAt, hsram, hbad, hlat]

theorem SameBytes.penAt_eq (tile n : Nat) : penAt t tile n = penAt s tile n := by
  obtain ⟨htab, -, -, -⟩ := h
  rw [penAt, penAt, htab]

theorem SameBytes.penByte_eq (tile n off : Nat) : penByte t tile n off = penByte s tile n off := by
  rw [penByte, penByte, h.penAt_eq]

theorem SameBytes.penGood_eq (tile n off len : Nat) : penGood t tile n off len = penGood s tile n off len := by
  rw [penGood, penGood, h.penByte_eq, h.sramRead_eq]

theorem SameBytes.penWord_eq (tile n off : Nat) : penWord t tile n off = penWord s tile n off := by
  rw [penWord, penWord, h.penByte_eq, h.sramRead_eq]

theorem SameBytes.penReach_eq (tile asid n : Nat) (off : Int) (len : Nat) : penReach t tile asid n off len = penReach s tile asid n off len := by
  unfold penReach
  rw [h.penAt_eq]

theorem SameBytes.riderAt_eq (tile p : Nat) : riderAt t tile p = riderAt s tile p := by
  simp only [riderAt, h.penWord_eq]

end SameBytes

/-! A command in its turn (R54). -/

theorem unitApply_of_foreign {s : State} {o : Op} {a : Nat} (h : foreignPen s o = some a) (reads : List (Nat × Nat)) (effect : State → State) :
    unitApply s o reads effect = unitFail s o causeOwnViol 0 a := by
  simp only [unitApply, h]

theorem unitApply_of_own {s : State} {o : Op} (h : foreignPen s o = none) (reads : List (Nat × Nat)) (effect : State → State) :
    unitApply s o reads effect = effect (reads.foldl (fun s r => fixPen s o.tile r.1 r.2) s) := by
  simp only [unitApply, h]

theorem islandTurn_of_applies {s : State} {o : Op} (h : Claims.Applies s o) {want : OpKind → Bool} (hw : want o.kind = true) :
    islandTurn s want = some o := by
  obtain ⟨hhead, hid⟩ := h
  simp [islandTurn, hhead, hid, hw]

theorem unitTurn_of_turn {s : State} {o : Op} (h : Claims.UnitTurn s o) {want : OpKind → Bool} (hw : want o.kind = true) :
    unitTurn s want = some o := by
  obtain ⟨ho, htile, hph, htid, hpens⟩ := h
  simp [unitTurn, show opById s s.occ.b = some o from ho, htile, hph, htid, hpens, hw]

theorem foldTurn_of_turn {s : State} {o : Op} (h : Claims.UnitTurn s o) (hb : foldBlocked s o = false) {want : OpKind → Bool}
    (hw : want o.kind = true) : foldTurn s want = some o := by
  simp [foldTurn, unitTurn_of_turn h hw, hb]

/-! MMA (R340, R347, R348). -/

section Mma
variable {s : State} {o : Op} {pr : Pair} {ta tb chn : Bool}

theorem execMmaApply_of_applies (h : Claims.Applies s o) (hk : o.kind = .mma pr ta tb chn) : execMmaApply s =
    if o.n = 1 then
      .next (if faultRoom s o.tile o.rank o.ctx o.iter then unitDone (raiseOp s { o with id := 0 } causeDuptag 0x04 (o.ctx * 2 ^ 16 + o.iter)) o else s)
    else if !nextRoom s o then .next s
    else if o.n = 2 then .next (raiseNext (dropOp s o.id) o)
    else .next (unitApply s o (mmaReads o (mmaForm (wordA o)) pr ta tb chn) (fun s => applyMma s o pr ta tb chn)) := by
  unfold execMmaApply
  rw [islandTurn_of_applies h]
  · simp only [hk]
  · rw [hk]

theorem applyMma_of_error {a : Nat} (he : mmaError (latticeView s o) o (mmaForm (wordA o)) pr ta tb chn = some a) :
    applyMma s o pr ta tb chn = unitFail s o causeMemUe 0 a := by
  simp only [applyMma, he]

theorem applyMma_of_good (he : mmaError (latticeView s o) o (mmaForm (wordA o)) pr ta tb chn = none) : applyMma s o pr ta tb chn =
    let f := mmaForm (wordA o)
    let r := (grid f.m f.n).map (fun p => (p, mmaElem (latticeView s o) o f pr ta tb chn p.1 p.2))
    let s1 := r.foldl (fun s x => setAcc s o.tile f.acc x.1.1 x.1.2 x.2.1) (fixMma s o f pr ta chn)
    unitDone (raiseNext (orAstat s1 o.tile o.rank o.ctx (r.foldl (fun acc x => acc ||| x.2.2) 0)) o) o := by
  simp only [applyMma, he]

end Mma

/-! MZERO, MLDA, ETLD and MDRN (R349, R350, R352). -/

section Island
variable {s : State} {o : Op} (h : Claims.Applies s o)
include h

theorem execMzeroApply_of_applies (hk : o.kind = .mzero) : execMzeroApply s =
    .next (unitDone (setNext (fillAcc s o.tile (accOf o) (fun _ _ => 0)) o.tile (accOf o) (bits (wordA o 0) 16 16)) o) := by
  unfold execMzeroApply
  rw [islandTurn_of_applies h]
  rw [hk]
  rfl

theorem execMldaApply_of_applies (hk : o.kind = .mlda) : execMldaApply s =
    .next (unitApply s o [(wordA o 0, 16384)] (fun s =>
      if penGood s o.tile (penOf (wordA o 0)) (offOf (wordA o 0)) 16384 then
        unitDone (setNext (fillAcc s o.tile (accOf o)
          (fun i j => penWord s o.tile (penOf (wordA o 0)) (offOf (wordA o 0) + (i * 64 + j) * 4))) o.tile (accOf o) (bits (wordB o 0) 16 16)) o
      else unitFail s o causeMemUe 0 (wordA o 0))) := by
  unfold execMldaApply
  rw [islandTurn_of_applies h]
  rw [hk]
  rfl

theorem execEtldApply_of_applies (hk : o.kind = .etld) : execEtldApply s =
    .next (unitApply s o [(wordA o 0, 8 * bits (wordB o 0) 8 9)] (fun s0 =>
      if penGood s0 o.tile (penOf (wordA o 0)) (offOf (wordA o 0)) (8 * bits (wordB o 0) 8 9) then
        let s1 := clearIsl s0 o.tile (actWord (bits (wordB o 0) 0 8)) (bits (wordB o 0) 8 9)
        unitDone { s1 with isl := { s1.isl with
          act := (upto (bits (wordB o 0) 8 9)).foldl (fun m q => sset m (o.tile * 256 + bits (wordB o 0) 0 8 + q)
            (penWord s0 o.tile (penOf (wordA o 0)) (offOf (wordA o 0) + 8 * q + 4), penWord s0 o.tile (penOf (wordA o 0)) (offOf (wordA o 0) + 8 * q)))
            s1.isl.act,
          alo := sset s1.isl.alo o.tile (BitVec.ofNat 32 (wordB o 1)), ainv := sset s1.isl.ainv o.tile (BitVec.ofNat 32 (wordB o 2)) } } o
      else unitFail s0 o causeMemUe 0 (wordA o 0))) := by
  unfold execEtldApply
  rw [islandTurn_of_applies h]
  rw [hk]
  rfl

theorem execMdrnApply_of_applies {bias act rq amx tr : Bool} (hk : o.kind = .mdrn bias act rq amx tr) : execMdrnApply s =
    .next (unitApply s o (if bias then [(wordA o 5, 4 * (bits (wordA o 1) 10 6 + 1))] else []) (fun s => applyMdrn s o bias act rq amx tr)) := by
  unfold execMdrnApply
  rw [islandTurn_of_applies h]
  · simp only [hk]
  · rw [hk]

end Island

section Mdrn
variable {s : State} {o : Op} {bias act : Bool} (rq amx tr : Bool)

theorem applyMdrn_of_error {a : Nat} (he : drainError s o bias act (bits (wordA o 1) 4 6 + 1) (bits (wordA o 1) 10 6 + 1) = some a) :
    applyMdrn s o bias act rq amx tr = unitFail s o causeMemUe 0 a := by
  simp only [applyMdrn, he]

theorem applyMdrn_of_good (he : drainError s o bias act (bits (wordA o 1) 4 6 + 1) (bits (wordA o 1) 10 6 + 1) = none) :
    applyMdrn s o bias act rq amx tr =
      let m := bits (wordA o 1) 4 6 + 1
      let n := bits (wordA o 1) 10 6 + 1
      let b := fmtWidth (outFmt (bits (wordA o 2) 0 4))
      let str := strideOf (wordA o 4) (if tr then m else n) b
      let acc := fixAcc s o.tile (accOf o) m n
      let s1 := (actsRead acc o bias act m n).foldl (fun s q => fixIsl s o.tile (actWord q) 1) acc
      let r := (grid m n).map (fun p => (p, drainElem s1 o bias act rq p.1 p.2))
      let put := fun s (x : (Nat × Nat) × Word × Nat × Astat) => setPenBits s o.tile (penOf (wordA o 0))
        (8 * (offOf (wordA o 0) + (if tr then x.1.2 else x.1.1) * str) + (if tr then x.1.1 else x.1.2) * b) b x.2.2.1
      let s2 := clearDrained (r.foldl put s1) o (if tr then n else m) (if tr then m else n) b str
      let s3 := if amx then drainAmax s2 o (r.map (fun x => some x.2.1)) else s2
      unitDone (orAstat s3 o.tile o.rank o.ctx (r.foldl (fun acc x => acc ||| x.2.2.2) 0)) o := by
  simp only [applyMdrn, he]

end Mdrn

/-! FOLD and FFIN (R355, R357). -/

/-- A good rider is taken: its reading corrects errors and changes no byte of it. -/
theorem takeRider_of_good {s : State} {o : Op} {p : Nat} {h : Rider} (hr : Claims.RiderGood s o p h) :
    takeRider s o = (fixPen (fixPen s o.tile p 64) o.tile p (riderBytes h), .ok h) := by
  obtain ⟨rfl, rfl, hhead, hgood, hreach, hbody⟩ := hr
  have first := sameBytes_fixPen s o.tile (wordA o 0) 64
  have both := first.trans (sameBytes_fixPen _ o.tile (wordA o 0) (riderBytes (riderAt s o.tile (wordA o 0))))
  simp [takeRider, first.penGood_eq, first.riderAt_eq, first.penReach_eq, both.penGood_eq, hhead, hgood, hreach, hbody]

section ApplyFold
variable {s s0 : State} {o : Op} {h : Rider} (ht : takeRider s o = (s0, .ok h))
include ht

theorem applyFold_of_bale {s1 s2 : State} {x : BaleEntry} {rp raw : Nat} (he : foldEntry s0 o h (wordB o 0) = (s1, .ok (x, rp)))
    (hb : baleRead s1 x 0 (baleBytes x.sent) = (s2, some raw)) : applyFold s o = unitDone (foldRider s2 o h x rp raw) o := by
  simp only [applyFold, ht, he, hb]

theorem applyFold_of_bad_bale {s1 s2 : State} {x : BaleEntry} {rp : Nat} (he : foldEntry s0 o h (wordB o 0) = (s1, .ok (x, rp)))
    (hb : baleRead s1 x 0 (baleBytes x.sent) = (s2, none)) : applyFold s o = unitFail s2 o causeMemUe 0 (bits x.entry 17 26 * 16384) := by
  simp only [applyFold, ht, he, hb]

theorem applyFold_of_wait {s1 : State} (he : foldEntry s0 o h (wordB o 0) = (s1, .error .wait)) : applyFold s o = s1 := by
  simp only [applyFold, ht, he]

theorem applyFold_of_retry {s1 : State} (he : foldEntry s0 o h (wordB o 0) = (s1, .error .retry)) :
    applyFold s o = setOp s1 { o with n := 1, addr := s1.cyc + 256 } := by
  simp only [applyFold, ht, he]

theorem applyFold_of_fault {s1 : State} {c d a : Nat} (he : foldEntry s0 o h (wordB o 0) = (s1, .error (.fault c d a))) :
    applyFold s o = unitFail s1 o c d a := by
  simp only [applyFold, ht, he]

end ApplyFold

section FoldTurn
variable {s : State} {o : Op} (h : Claims.UnitTurn s o) (hb : foldBlocked s o = false)
include h hb

theorem execFoldApply_of_turn (hk : o.kind = .fold) (hn : o.n = 0) : execFoldApply s = .next (unitApply s o [] (fun s => applyFold s o)) := by
  unfold execFoldApply
  rw [foldTurn_of_turn h hb]
  · exact if_pos hn
  · rw [hk]; rfl

theorem execFoldRetry_of_turn (hk : o.kind = .fold) (hn : o.n = 1) (ha : o.addr ≤ s.cyc) : execFoldRetry s =
    .next (unitApply (setOp s { o with n := 0 }) { o with n := 0 } [] (fun s => applyFold s { o with n := 0 })) := by
  unfold execFoldRetry
  rw [foldTurn_of_turn h hb]
  · exact if_pos ⟨hn, ha⟩
  · rw [hk]; rfl

/-- FFIN's turn with a good rider: each row is finished, and the header says so. -/
theorem execFfinApply_of_rider {p : Nat} {hd : Rider} (hk : o.kind = .ffin) (hf : foreignPen s o = none) (hr : Claims.RiderGood s o p hd) :
    execFfinApply s = .next (unitDone (setRider ((upto (riderNq hd)).foldl (Claims.finishRow o p hd)
      (fixPen (fixPen s o.tile p 64) o.tile p (riderBytes hd))) o.tile p 4 (BitVec.ofNat 32 (hd.getD 1 0 ||| 2 ^ 30))) o) := by
  unfold execFfinApply
  rw [foldTurn_of_turn h hb]
  · simp only [unitApply_of_own hf, List.foldl_nil, takeRider_of_good hr]
    obtain ⟨rfl, -⟩ := hr
    rfl
  · rw [hk]; rfl

theorem execFfinApply_of_foreign {a : Nat} (hk : o.kind = .ffin) (hf : foreignPen s o = some a) :
    execFfinApply s = .next (unitFail s o causeOwnViol 0 a) := by
  unfold execFfinApply
  rw [foldTurn_of_turn h hb]
  · simp only [unitApply_of_foreign hf]
  · rw [hk]; rfl

end FoldTurn

/-! REINLD and PRBLD (R364, R379). -/

/-- A slot that is empty or of the command's own context is not another's. -/
theorem rein_not_other {s : State} {o : Op}
    (hr : ∀ r, sget s.rws.reins (reinKey o.tile (wordB o 0 % 4) (bits (wordB o 0) 2 6)) = some r → r.asid = o.cx.asid) :
    ¬ (sget s.rws.reins (reinKey o.tile (wordB o 0 % 4) (bits (wordB o 0) 2 6))).elim false (fun r => r.asid != o.cx.asid) = true := by
  cases hs : sget s.rws.reins (reinKey o.tile (wordB o 0 % 4) (bits (wordB o 0) 2 6)) with
  | none => simp
  | some r => simp [hr r hs]

section Loads
variable {s : State} {o : Op} (h : Claims.UnitTurn s o)
include h

section Rein
variable (hk : o.kind = .reinld)
include hk

theorem execReinldApply_of_other {r : Rein}
    (hr : sget s.rws.reins (reinKey o.tile (wordB o 0 % 4) (bits (wordB o 0) 2 6)) = some r) (ha : r.asid ≠ o.cx.asid) :
    execReinldApply s = .next (unitFail s o causeEngine 0x25 (wordA o 0)) := by
  have other : (sget s.rws.reins (reinKey o.tile (wordB o 0 % 4) (bits (wordB o 0) 2 6))).elim false (fun r => r.asid != o.cx.asid) = true := by
    simp [hr, ha]
  unfold execReinldApply
  rw [unitTurn_of_turn h]
  · exact if_pos other
  · rw [hk]; rfl

variable (hr : ∀ r, sget s.rws.reins (reinKey o.tile (wordB o 0 % 4) (bits (wordB o 0) 2 6)) = some r → r.asid = o.cx.asid)
include hr

theorem execReinldApply_unloads (hb : bit (wordB o 0) 8 = true) : execReinldApply s =
    .next (unitDone { s with rws := { s.rws with reins := sdel s.rws.reins (reinKey o.tile (wordB o 0 % 4) (bits (wordB o 0) 2 6)) } } o) := by
  unfold execReinldApply
  rw [unitTurn_of_turn h]
  · exact (if_neg (rein_not_other hr)).trans (if_pos hb)
  · rw [hk]; rfl

variable (hb : bit (wordB o 0) 8 = false)
include hb

theorem execReinldApply_of_foreign {a : Nat} (hf : foreignPen s o = some a) : execReinldApply s = .next (unitFail s o causeOwnViol 0 a) := by
  unfold execReinldApply
  rw [unitTurn_of_turn h]
  · refine (if_neg (rein_not_other hr)).trans ((if_neg (by simp [hb])).trans ?_)
    rw [unitApply_of_foreign hf]
  · rw [hk]; rfl

theorem execReinldApply_loads {v : Nat} (hf : foreignPen s o = none) :
    let c := bridleCfg s o.tile (wordB o 0 % 4)
    let k := reinKey o.tile (wordB o 0 % 4) (bits (wordB o 0) 2 6)
    let s0 := fixPen s o.tile (wordA o 0) (2 * c.len)
    penReach s0 o.tile o.cx.asid (penOf (wordA o 0)) (offOf (wordA o 0)) (2 * c.len) = none → penRead s0 o.tile (wordA o 0) (2 * c.len) = some v →
      execReinldApply s =
        let s1 := writeRein s0 (o.tile * 2 ^ 20 + c.rb * 16 + bits (wordB o 0) 2 6 * 2 * c.len) (2 * c.len) v
        .next (unitDone { s1 with rws := { s1.rws with reins := sset s1.rws.reins k { asid := o.cx.asid, seq := o.cx.seq } } } o) := by
  intro c k s0 hreach hread
  unfold execReinldApply
  rw [unitTurn_of_turn h]
  · refine (if_neg (rein_not_other hr)).trans ((if_neg (by simp [hb])).trans ?_)
    rw [unitApply_of_own hf]
    simp only [List.foldl_cons, List.foldl_nil]
    rw [hreach, show sramRead s0 (penByte s0 o.tile (penOf (wordA o 0)) (offOf (wordA o 0))) (2 * c.len) = some v from hread]
  · rw [hk]; rfl

end Rein

section Probe
variable (hk : o.kind = .prbld)
include hk

theorem execPrbldApply_of_foreign {a : Nat} (hf : foreignPen s o = some a) : execPrbldApply s = .next (unitFail s o causeOwnViol 0 a) := by
  unfold execPrbldApply
  rw [unitTurn_of_turn h]
  · simp only [unitApply_of_foreign hf]
  · rw [hk]; rfl

theorem execPrbldApply_loads {v : Nat} (hf : foreignPen s o = none)
    (hv : penRead (fixPen s o.tile (wordA o 0) (wordB o 1)) o.tile (wordA o 0) (wordB o 1) = some v) : execPrbldApply s =
      .next (unitDone (writeProbe (fixPen s o.tile (wordA o 0) (wordB o 1)) (o.tile * 2 ^ 18 + wordB o 0 * 16) (wordB o 1) v) o) := by
  unfold execPrbldApply
  rw [unitTurn_of_turn h]
  · simp only [unitApply_of_own hf, List.foldl_cons, List.foldl_nil, hv]
  · rw [hk]; rfl

theorem execPrbldApply_of_error (hf : foreignPen s o = none)
    (hv : penRead (fixPen s o.tile (wordA o 0) (wordB o 1)) o.tile (wordA o 0) (wordB o 1) = none) : execPrbldApply s =
      .next (unitFail (fixPen s o.tile (wordA o 0) (wordB o 1)) o causeMemUe 0 (wordA o 0)) := by
  unfold execPrbldApply
  rw [unitTurn_of_turn h]
  · simp only [unitApply_of_own hf, List.foldl_cons, List.foldl_nil, hv]
  · rw [hk]; rfl

end Probe
end Loads

/-! TACC (R328, R461). -/

section Tacc
variable {s : State} {o : Op} {pt p : Nat} (ho : Claims.TileSubject s o) (hk : o.kind = .tacc pt p) (htile : o.tile = s.occ.a)
  (hph : o.phase = .queued) (htid : o.tid = 0) (hroom : faultRoom s o.tile o.rank o.ctx o.iter = true)
include ho hk htile hph htid hroom

theorem execTaccApply_of_error (hg : penGood (fixPen s o.tile p (4 + 4 * o.w)) o.tile (penOf p) (offOf p) (4 + 4 * o.w) = false) :
    execTaccApply s = .next (failOp (fixPen s o.tile p (4 + 4 * o.w)) o causeMemUe 0 p) := by
  have here : opById s s.occ.b = some o := ho
  have turn : ¬ (o.tile != s.occ.a || o.phase != .queued || o.tid != 0) = true := by simp [htile, hph, htid]
  simp only [execTaccApply, here, hk, if_neg turn, hroom, hg, Bool.not_true, Bool.not_false, Bool.false_eq_true, if_false, if_true]

theorem execTaccApply_of_good (hg : penGood (fixPen s o.tile p (4 + 4 * o.w)) o.tile (penOf p) (offOf p) (4 + 4 * o.w) = true) :
    execTaccApply s =
      let s0 := fixPen s o.tile p (4 + 4 * o.w)
      let n := taccNext s0 o p
      if o.iter < n then .next (raiseOp (dropOp s0 o.id) { o with id := 0 } causeDuptag 0x03 (o.ctx * 2 ^ 16 + o.iter))
      else if n != o.iter then .next s0
      else
        let s1 := orAstat (taccLanes s0 o (penOf p) (offOf p)) o.tile o.rank o.ctx (taccFlags s0 o (penOf p) (offOf p))
        let s2 := if n = 0xFFFF then s1 else setPenWord s1 o.tile (penOf p) (offOf p) (BitVec.ofNat 32 (n + 1))
        let out := mkLanes (fun l => if l < o.w then some (penWord s2 o.tile (penOf p) (offOf p + 4 + 4 * l)) else none)
        let s3 := emitOp (dropOp s2 o.id) { o with emask := List.replicate 32 true } 13 out (fun h => h)
        .next (if n = 0xFFFF then raiseOp s3 { o with id := 0 } causeIterWrap 0 0 else s3) := by
  have here : opById s s.occ.b = some o := ho
  have turn : ¬ (o.tile != s.occ.a || o.phase != .queued || o.tid != 0) = true := by simp [htile, hph, htid]
  simp only [execTaccApply, here, hk, if_neg turn, hroom, hg, Bool.not_true, Bool.false_eq_true, if_false]

end Tacc

end Sys2Proof.Machine

namespace Sys2Proof.Proofs
open Sys2Proof.Machine

/-- An MMA that is neither late nor killed is applied in its turn. -/
theorem mma_applied {s : State} {o : Op} {pr : Pair} {ta tb chn : Bool} (h : Claims.Applies s o) (hk : o.kind = .mma pr ta tb chn)
    (h1 : o.n ≠ 1) (h2 : o.n ≠ 2) (hroom : nextRoom s o = true) :
    exec .mmaApply s = .next (unitApply s o (mmaReads o (mmaForm (wordA o)) pr ta tb chn) (fun s => applyMma s o pr ta tb chn)) :=
  (execMmaApply_of_applies h hk).trans ((if_neg h1).trans ((if_neg (by simp [hroom])).trans (if_neg h2)))

/-- Settles O55: what the units compute, and each command from its exec function in its turn. -/
theorem unitCommandsAreApplied : Obligations.UnitCommandsAreApplied := by
  unfold Obligations.UnitCommandsAreApplied
  refine ⟨products, drains, folds, ?mma, ?island, ?fold, ?loads, ?tacc⟩
  case mma =>
    intro s o pr ta tb chn h hk f
    refine ⟨fun h1 hroom => ?_, fun h2 hroom => ?_, fun h1 h2 hroom hf => ?_, fun a h1 h2 hroom hf => ?_, fun i j hkb hpos hsc hch => ?_⟩
    · exact (execMmaApply_of_applies h hk).trans ((if_pos h1).trans (congrArg Host.Outcome.next (if_pos hroom)))
    · have late : ¬ o.n = 1 := by omega
      exact (execMmaApply_of_applies h hk).trans ((if_neg late).trans ((if_neg (by simp [hroom])).trans (if_pos h2)))
    · intro s0 v
      have applied : exec .mmaApply s = .next (applyMma s0 o pr ta tb chn) := by
        rw [mma_applied h hk h1 h2 hroom, unitApply_of_own hf]
      refine ⟨fun a he => applied.trans (by rw [applyMma_of_error he]), fun he => applied.trans (by rw [applyMma_of_good he])⟩
    · exact (mma_applied h hk h1 h2 hroom).trans (by rw [unitApply_of_foreign hf])
    · subst hch
      exact mmaElem_of_one_block i j hkb hpos hsc
  case island =>
    intro s o h
    refine ⟨execMzeroApply_of_applies h, fun a hf => ?_, fun hk hf => ?_, fun hk hf => ?_, fun bias act rq amx tr hk => ?_⟩
    · intro t
      refine ⟨fun hk => ?_, fun hk => ?_, fun bias act rq amx tr hk => ?_⟩
      · exact (execMldaApply_of_applies h hk).trans (by rw [unitApply_of_foreign hf])
      · exact (execEtldApply_of_applies h hk).trans (by rw [unitApply_of_foreign hf])
      · exact (execMdrnApply_of_applies h hk).trans (by rw [unitApply_of_foreign hf])
    · intro p off s0
      have applied := execMldaApply_of_applies h hk
      rw [unitApply_of_own hf] at applied
      exact ⟨fun hg => applied.trans (congrArg Host.Outcome.next (if_pos hg)),
        fun hg => applied.trans (congrArg Host.Outcome.next (if_neg (by rw [Bool.not_eq_true]; exact hg)))⟩
    · intro p off first cnt s0 s1
      have applied := execEtldApply_of_applies h hk
      rw [unitApply_of_own hf] at applied
      exact ⟨fun hg => applied.trans (congrArg Host.Outcome.next (if_pos hg)),
        fun hg => applied.trans (congrArg Host.Outcome.next (if_neg (by rw [Bool.not_eq_true]; exact hg)))⟩
    · intro m n s0
      have applied : foreignPen s o = none → exec .mdrnApply s = .next (applyMdrn s0 o bias act rq amx tr) := fun hf =>
        (execMdrnApply_of_applies h hk).trans (by
          rw [unitApply_of_own hf]
          cases bias <;> rfl)
      refine ⟨fun a hf he => (applied hf).trans (by rw [applyMdrn_of_error rq amx tr he]),
        fun hf he => (applied hf).trans (by rw [applyMdrn_of_good rq amx tr he]), fun hact => ?_, fun q hq => actsRead_names hq,
        fun i j hb ha => ?_⟩
      · subst hact
        rfl
      · subst hb
        subst ha
        refine ⟨fun hrq => ?_, fun hrq => ?_⟩
        · subst hrq
          rfl
        · subst hrq
          rfl
  case fold =>
    intro s o p h ht hb
    refine ⟨fun a hf => ⟨fun hk hn => ?_, fun hk => execFfinApply_of_foreign ht hb hk hf⟩, fun hf hk hn ha => ?_, fun hf hr => ?_⟩
    · exact (execFoldApply_of_turn ht hb hk hn).trans (by rw [unitApply_of_foreign hf])
    · have own : foreignPen (setOp s { o with n := 0 }) { o with n := 0 } = none := hf
      exact (execFoldRetry_of_turn ht hb hk hn ha).trans (by rw [unitApply_of_own own]; rfl)
    · intro s0
      have rider : takeRider s o = (s0, .ok h) := takeRider_of_good hr
      refine ⟨fun hk hn => ?_, fun hk => execFfinApply_of_rider ht hb hk hf hr⟩
      have applied : exec .foldApply s = .next (applyFold s o) :=
        (execFoldApply_of_turn ht hb hk hn).trans (by rw [unitApply_of_own hf]; rfl)
      refine ⟨fun s1 s2 x rp raw he hread => applied.trans ?_, fun s1 s2 x rp he hread => applied.trans ?_, fun s1 he => applied.trans ?_,
        fun s1 he => applied.trans ?_, fun s1 c d a he => applied.trans ?_⟩
      · rw [applyFold_of_bale rider he hread]
      · rw [applyFold_of_bad_bale rider he hread]
      · rw [applyFold_of_wait rider he]
      · rw [applyFold_of_retry rider he]
      · rw [applyFold_of_fault rider he]
  case loads =>
    intro s o ht
    refine ⟨fun hk => ?_, fun hk => ?_⟩
    · intro pt slot k c
      refine ⟨fun r hr ha => execReinldApply_of_other ht hk hr ha, fun hr => ⟨execReinldApply_unloads ht hk hr,
        fun a hb hf => execReinldApply_of_foreign ht hk hr hb hf, fun v hb hf => execReinldApply_loads ht hk hr hb hf⟩⟩
    · intro s0
      exact ⟨fun a hf => execPrbldApply_of_foreign ht hk hf, fun v hf hv => execPrbldApply_loads ht hk hf hv,
        fun hf hv => execPrbldApply_of_error ht hk hf hv⟩
  case tacc =>
    intro s o pt p ho hk htile hph htid hroom s0 n
    refine ⟨execTaccApply_of_error ho hk htile hph htid hroom, fun hg => ?_⟩
    have turn := execTaccApply_of_good ho hk htile hph htid hroom hg
    refine ⟨fun hlt => turn.trans (if_pos hlt), fun hlt => turn.trans ?_, fun heq => turn.trans ?_⟩
    · exact (if_neg (Nat.not_lt.2 (Nat.le_of_lt hlt))).trans (if_pos (by simpa using Nat.ne_of_lt hlt))
    · exact (if_neg (Nat.not_lt.2 (Nat.le_of_eq heq.symm))).trans (if_neg (by simpa using heq.symm))

end Sys2Proof.Proofs

namespace Sys2Proof.Machine

/-! Launches and changes of their place (R111, R165 to R168, R262, R385 to R399, R405, R414, R417 to R422). -/

/-! What stores hold once they are joined, filtered, cut out or laid over one another. -/

section Stores

variable {α : Type}

theorem sget_append (m m' : Store α) (k : Nat) : sget (m ++ m') k = (sget m k).or (sget m' k) := by
  induction m with
  | nil => rfl
  | cons p r ih =>
    obtain ⟨n, v⟩ := p
    simp only [List.cons_append, sget]
    split
    · rfl
    · exact ih

theorem sget_filter (m : Store α) (keep : Nat → Bool) (k : Nat) : sget (m.filter (fun p => keep p.1)) k = if keep k = true then sget m k else none := by
  induction m with
  | nil => simp [sget]
  | cons p r ih =>
    obtain ⟨n, v⟩ := p
    rw [List.filter_cons]
    by_cases hn : n = k
    · subst hn
      cases hk : keep n <;> simp [hk, sget, ih]
    · cases hk : keep n <;> simp [sget, hn, ih]

theorem sget_map_value {β : Type} (m : Store α) (f : α → β) (k : Nat) : sget (m.map (fun p => (p.1, f p.2))) k = (sget m k).map f := by
  induction m with
  | nil => rfl
  | cons p r ih =>
    obtain ⟨n, v⟩ := p
    simp only [List.map_cons, sget]
    split
    · rfl
    · exact ih

theorem sget_map_shift (m : Store α) (lo k : Nat) : sget (m.map (fun p => (lo + p.1, p.2))) (lo + k) = sget m k := by
  induction m with
  | nil => rfl
  | cons p r ih =>
    obtain ⟨n, v⟩ := p
    simp only [List.map_cons, sget, Nat.add_left_cancel_iff, ih]

theorem sget_eq_none_iff (m : Store α) (k : Nat) : sget m k = none ↔ ∀ p ∈ m, p.1 ≠ k := by
  induction m with
  | nil => simp [sget]
  | cons p r ih =>
    obtain ⟨n, v⟩ := p
    by_cases hn : n = k <;> simp [sget, hn, ih]

theorem mem_of_sget {m : Store α} {k : Nat} {v : α} (h : sget m k = some v) : (k, v) ∈ m := by
  induction m with
  | nil => cases h
  | cons p r ih =>
    obtain ⟨n, w⟩ := p
    unfold sget at h
    split at h
    · next hn =>
      cases h
      subst hn
      exact List.mem_cons_self ..
    · exact List.mem_cons_of_mem _ (ih h)

theorem sdel_of_absent {m : Store α} {k : Nat} (h : sget m k = none) : sdel m k = m :=
  List.filter_eq_self.2 fun p hp => bne_iff_ne.2 ((sget_eq_none_iff m k).1 h p hp)

theorem sget_srange (m : Store α) (lo n k : Nat) : sget (srange m lo n) k = if k < n then sget m (lo + k) else none := by
  induction m with
  | nil => simp [srange, sget]
  | cons p r ih =>
    obtain ⟨j, v⟩ := p
    by_cases hj : lo ≤ j ∧ j < lo + n
    · have e : srange ((j, v) :: r) lo n = (j - lo, v) :: srange r lo n := by simp [srange, hj]
      rw [e]
      simp only [sget, ih]
      by_cases hk : j = lo + k
      · subst hk
        rw [if_pos (by omega), if_pos (by omega), if_pos rfl]
      · rw [if_neg (by omega), if_neg hk]
    · have e : srange ((j, v) :: r) lo n = srange r lo n := by
        unfold srange
        rw [List.filter_cons, if_neg (by simpa using hj)]
      rw [e, ih]
      split
      · rw [sget, if_neg (by omega)]
      · rfl

theorem srange_nodup {m : Store α} (lo n : Nat) (h : (m.map (·.1)).Nodup) : ((srange m lo n).map (·.1)).Nodup := by
  unfold srange
  rw [List.map_map]
  have hs : ((m.filter (fun p => decide (lo ≤ p.1) && decide (p.1 < lo + n))).map (·.1)).Nodup := h.sublist (List.filter_sublist.map _)
  rw [List.nodup_iff_pairwise_ne, List.pairwise_map] at hs ⊢
  refine hs.imp_of_mem fun {a b} ha hb hab => ?_
  have ha' := (List.mem_filter.1 ha).2
  have hb' := (List.mem_filter.1 hb).2
  simp only [Bool.and_eq_true, decide_eq_true_eq] at ha' hb'
  simp only [Function.comp_apply]
  omega

theorem sget_sdrop_outside {m : Store α} {lo n k : Nat} (h : k < lo ∨ lo + n ≤ k) : sget (sdrop m lo n) k = sget m k := by
  unfold sdrop
  rw [sget_filter m (fun k => decide (k < lo) || decide (lo + n ≤ k)), if_pos (by simpa using h)]

theorem sget_sdrop_inside {m : Store α} {lo n k : Nat} (h : lo ≤ k ∧ k < lo + n) : sget (sdrop m lo n) k = none := by
  unfold sdrop
  rw [sget_filter m (fun k => decide (k < lo) || decide (lo + n ≤ k)), if_neg (by simp; omega)]

theorem sget_sreplace (m new : Store α) {lo n k : Nat} (h : k < n) : sget (sreplace m lo n new) (lo + k) = sget new k := by
  unfold sreplace
  rw [sget_append, sget_append, sget_map_shift, sget_filter m (fun j => decide (j < lo)), sget_filter m (fun j => decide (lo + n ≤ j)),
    if_neg (by simp), if_neg (by simp; omega), Option.none_or, Option.or_none]

theorem sget_sover {new : Store α} (h : (new.map (·.1)).Nodup) (m : Store α) (lo j : Nat) :
    sget (sover m lo new) j = if lo ≤ j then (sget new (j - lo)).or (sget m j) else sget m j := by
  unfold sover
  induction new generalizing m with
  | nil => simp [sget]
  | cons p r ih =>
    obtain ⟨n, v⟩ := p
    obtain ⟨hn, hr⟩ := List.nodup_cons.1 h
    rw [List.foldl_cons, ih hr, sget_sset]
    by_cases hj : j = lo + n
    · subst hj
      have hnone : sget r n = none := (sget_eq_none_iff r n).2 fun p hp e => hn (List.mem_map.2 ⟨p, hp, e⟩)
      simp [sget, hnone]
    · have : lo ≤ j → n ≠ j - lo := by omega
      by_cases hlo : lo ≤ j
      · simp [sget, hj, hlo, this hlo]
      · simp [hj, hlo]

theorem sget_sover_untouched {new : Store α} {j lo : Nat} (h : ∀ p ∈ new, j ≠ lo + p.1) (m : Store α) : sget (sover m lo new) j = sget m j := by
  unfold sover
  induction new generalizing m with
  | nil => rfl
  | cons p r ih =>
    rw [List.foldl_cons, ih (fun q hq => h q (List.mem_cons_of_mem _ hq)), sget_sset, if_neg (h p (List.mem_cons_self ..))]

theorem sget_sover_of_some {new : Store α} (h : (new.map (·.1)).Nodup) (m : Store α) (lo : Nat) {k : Nat} {v : α} (hk : sget new k = some v) :
    sget (sover m lo new) (lo + k) = some v := by
  rw [sget_sover h, if_pos (Nat.le_add_right ..), Nat.add_sub_cancel_left, hk, Option.some_or]

theorem keysRise_nodup {m : Store α} (h : keysRise m = true) : (m.map (·.1)).Nodup := by
  rw [List.nodup_iff_pairwise_ne, List.pairwise_map]
  exact ((keysRise_iff m).1 h).imp fun h => Nat.ne_of_lt h

theorem keysRise_sover {m : Store α} (lo : Nat) (new : Store α) (h : keysRise m = true) : keysRise (sover m lo new) = true :=
  foldl_keeps (fun m => keysRise m = true) _ _ _ h fun _ _ h => keysRise_sset _ _ _ h

end Stores

theorem mget_mreplace_all {new : List Host.Cell} (h : (new.map (·.1)).Nodup) (m : List Host.Cell) {lo n k : Nat} (hk : k < n) :
    mget (mreplace m lo n true new) (lo + k) = mget new k := by
  have fold : ∀ (new : List Host.Cell) (m : List Host.Cell), (new.map (·.1)).Nodup →
      mget (new.foldl (fun m c => mset m (lo + c.1) c.2) m) (lo + k) = (sget new k).getD (mget m (lo + k)) := by
    intro new
    induction new with
    | nil => intro m _; rfl
    | cons p r ih =>
      intro m h
      obtain ⟨n, v⟩ := p
      obtain ⟨hn, hr⟩ := List.nodup_cons.1 h
      rw [List.foldl_cons, ih _ hr, mget_mset]
      by_cases hj : n = k
      · subst hj
        have hnone : sget r n = none := (sget_eq_none_iff r n).2 fun p hp e => hn (List.mem_map.2 ⟨p, hp, e⟩)
        simp [sget, hnone]
      · simp [sget, hj, Ne.symm hj]
  have cleared : mget (sdrop m lo n) (lo + k) = 0 := by
    unfold mget sgetD
    rw [sget_sdrop_inside ⟨Nat.le_add_right .., by omega⟩]
    rfl
  unfold mreplace
  simp only [Bool.not_true, Bool.false_and, Bool.false_eq_true, if_false, if_true]
  rw [fold new _ h, cleared]
  rfl

/-! Records at intake (R165, R262, R386 to R389, R443). -/

section Intake

variable {s : State} {o : Op} {q : Nat}

/-- The issuer of a task's LAUNCH. -/
def taskIssuer (s : State) (o : Op) : Issuer :=
  { asid := o.cx.asid, bound := !(o.cx.asid == 0), cls := (sget s.sch.launches o.cx.q).elim 0 (·.cls0), host := none, user := false }

theorem deviceIntake_takes {s1 : State} {c n : Nat} (hh : storesHome (writeBackAll s o.tile) o = true) (ha : admitOpen (writeBackAll s o.tile) = true)
    (he : emitRoom (writeBackAll s o.tile) o (statusLanes o.w [0, 0]) = true) (hq : freeIndex (writeBackAll s o.tile) = some q)
    (ht : takeRecord (writeBackAll s o.tile) (taskIssuer (writeBackAll s o.tile) o) (wordA o 0 + wordA o 1 % 2 ^ 24 * 2 ^ 32) q = (s1, c, n)) :
    deviceIntake s o = emitOp (dropOp s1 o.id) o o.elem (statusLanes o.w [BitVec.ofNat 32 c, BitVec.ofNat 32 n]) (fun h => h) := by
  unfold taskIssuer at ht
  unfold deviceIntake
  dsimp only
  rw [hh, ha, he, hq]
  rw [show (true && true && true) = true from rfl]
  dsimp only
  rw [ht]

theorem deviceIntake_waits (h : freeIndex (writeBackAll s o.tile) = none ∨ admitOpen (writeBackAll s o.tile) = false ∨
    emitRoom (writeBackAll s o.tile) o (statusLanes o.w [0, 0]) = false) : deviceIntake s o = writeBackAll s o.tile := by
  unfold deviceIntake
  dsimp only
  split
  · next hb hq =>
    rcases h with h | h | h
    · rw [h] at hq
      cases hq
    · rw [h] at hb
      simp at hb
    · rw [h] at hb
      simp at hb
  · rfl

/-- The issuer of a host's LAUNCH message. -/
def hostIssuer (s : State) (qp : Nat) (hd : Stt) : Issuer :=
  let p := sgetD s.host.qps qp { port := 0, admin := false, asid := 0, err := true }
  { asid := p.asid, bound := false, cls := 0, host := some (qp, hd), user := !p.admin }

theorem hostIntake_of_message {n k qp rva : Nat} {hd : Stt} (hi : s.sch.intake[n]? = some (k, .launch qp hd rva)) (hq : freeIndex s = some q) :
    hostIntake s n = if (∃ m ∈ s.sch.intake.take n, msgQp m.2 = qp) ∨ admitOpen s = false then s
      else (takeRecord { s with sch := { s.sch with intake := s.sch.intake.erase (k, .launch qp hd rva) } } (hostIssuer s qp hd) rva q).1 := by
  unfold hostIntake
  rw [hi, hq]
  dsimp only
  refine if_congr ?_ rfl rfl
  rw [Bool.or_eq_true, List.any_eq_true, Bool.not_eq_true']
  simp only [beq_iff_eq]

theorem execLaunchIntake_of_host (h : s.occ.a = 0) : execLaunchIntake s = .next (hostIntake s s.occ.b) := if_pos h

variable {w : Issuer} {va : Nat} {s1 : State} {ws : List Word}

theorem takeRecord_of_good {inits : List (List Word)} {secs : List Section}
    (h : readLaunch { s with sch := { s.sch with intakeAt := s.cyc + 1 } } w va = (s1, ws, .ok (inits, secs))) : takeRecord s w va q =
      (if recField ws 256 23 = 0 then answerAny (queueRecord s1 q w ws inits secs) w.host 1 q [] else queueRecord s1 q w ws inits secs, 0, q) := by
  unfold takeRecord
  rw [h]

theorem takeRecord_of_bad {c : Nat} (h : readLaunch { s with sch := { s.sch with intakeAt := s.cyc + 1 } } w va = (s1, ws, .error c)) :
    takeRecord s w va q = (answerAny (if ws = [] then s1 else putCompletion s1 w.asid (recField ws 128 56) (completionBytes 0 c 0xFFF 0 0 0 s1.cyc))
      w.host 3 c [], c, 0xFFF) := by
  unfold takeRecord
  rw [h]
  dsimp only
  rw [if_congr List.isEmpty_iff rfl rfl]

theorem queued_launch {inits : List (List Word)} {secs : List Section}
    (h : readLaunch { s with sch := { s.sch with intakeAt := s.cyc + 1 } } w va = (s1, ws, .ok (inits, secs))) :
    sget (takeRecord s w va q).1.sch.launches q = sget (queueRecord s1 q w ws inits secs).sch.launches q := by
  rw [takeRecord_of_good h]
  dsimp only
  split
  · rw [answerAny_sch]
  · rfl

end Intake

/-! Ageing, the barrier of a run, and the end of a launch (R166, R168, R385, R388, R390, R396, R399). -/

theorem poolFree_iff (s : State) (q : Nat) : poolFree s q = true ↔ ∀ x ∈ s.ctxs, x.2.q ≠ q := by simp [poolFree]

section TheLaunch

variable {s : State} {l : Launch} (h : Claims.TheLaunch s l)
include h

theorem execLaunchRecordAging_of_waiting (hw : l.st = .waiting ∨ l.st = .saved ∨ l.grow.isSome = true) : execLaunchRecordAging s =
    if 0 < l.cls ∧ l.since + 2 ^ 20 ≤ s.cyc then .next (setLaunch s s.occ.a { l with cls := l.cls - 1, since := s.cyc }) else .next s := by
  have waits : (l.st == .waiting || l.st == .saved || l.grow.isSome) = true := by simpa [or_assoc] using hw
  unfold execLaunchRecordAging
  rw [h]
  dsimp only
  rw [waits]
  exact if_congr (by simp) rfl rfl

theorem execRunBarrierReached_of_idle (hr : 0 < l.runs) (hp : l.placed = true) (hf : ∀ x ∈ s.ctxs, x.2.q ≠ s.occ.a) :
    let s1 := (dedup ((launchTiles s s.occ.a).map (·.2.1))).foldl writeBackAll s
    execRunBarrierReached s = if ∃ o ∈ s1.ops, isStore o.kind = true ∧ o.cx.q = s.occ.a then .next s1 else .next (setLaunch s1 s.occ.a { l with runs := 0 }) := by
  unfold execRunBarrierReached
  dsimp only
  rw [h]
  dsimp only
  rw [hp, (poolFree_iff s _).2 hf, decide_eq_true hr]
  refine (if_pos rfl).trans (if_congr ?_ rfl rfl)
  rw [List.any_eq_true]
  simp only [Bool.and_eq_true, beq_iff_eq]

end TheLaunch

theorem execLaunchEnd_of_ended {s : State} {l : Launch} (h : Claims.TheLaunch s l) (he : l.ended = true) (hp : l.placed = true) (hs : l.st ≠ .ending)
    (hf : ∀ x ∈ s.ctxs, x.2.q ≠ s.occ.a) :
    let q := s.occ.a
    let bs := completionBytes l.code l.cause q l.edrop l.npre l.tgrant s.cyc
    let s0 := putCompletion s l.asid (l.field 128 56) bs
    let s1 := answerAny (if l.argDone = true ∨ l.field 256 23 = 0 then s0 else answerAny s0 l.host 1 q []) l.host 2 q bs
    let mine := (s1.tab.owner.filter (·.2 == q)).map (·.1)
    let asked := l.ingress.map (fun x => x.2.2.1)
    let s2 := { s1 with
      frm := { s1.frm with frozen := s1.frm.frozen.filter (fun t => !mine.contains t) },
      ops := s1.ops.filter (fun o => !(o.elem == 14 && asked.contains o.id)) }
    execLaunchEnd s = .next (settleTokens (retireIndex s2 q { l with st := .ending, aim := none, grow := none, ingress := [] })) := by
  intro q bs s0 s1
  have answered : (if (l.argDone || decide (l.field 256 23 = 0)) = true then s0 else answerAny s0 l.host 1 q []) =
      if l.argDone = true ∨ l.field 256 23 = 0 then s0 else answerAny s0 l.host 1 q [] := if_congr (by simp) rfl rfl
  unfold execLaunchEnd
  dsimp only
  rw [h]
  dsimp only
  rw [he, hp, (poolFree_iff s _).2 hf, show (l.st != .ending) = true by simpa using hs, answered]
  rfl

section Retire

variable (s : State) (q : Nat) (l : Launch)

theorem retireIndex_frees (hq : q < 4096) : sget (retireIndex s q l).sch.launches q = none := by
  show sget (sset (sdel s.sch.launches q) (8192 + s.nextId) l) q = none
  rw [sget_sset, if_neg (by omega), sget_sdel, if_pos rfl]

theorem retireIndex_owner (t : Nat) : sget (retireIndex s q l).tab.owner t =
    (sget s.tab.owner t).map (fun k => if k = q then 8192 + s.nextId else k) := by
  rw [← sget_map_value]
  refine congrArg (sget · t) (List.map_congr_left fun p _ => ?_)
  by_cases hp : p.2 = q
  · simp [hp]
  · rw [if_neg (by simpa using hp), if_neg hp]

end Retire

/-! Freed tiles and quadrant reports (R111, R394, R395). -/

section Freed

variable {s : State} {q : Nat} {l : Launch} (ho : sget s.tab.owner s.occ.a = some q) (hl : sget s.sch.launches q = some l)
  (hg : tileGivenUp l s.occ.a = true) (hb : (sget s.sch.busy s.occ.a).isNone = true) (he : tileEmpty s s.occ.a = true)
  (hf : loftHeld s s.occ.a = false)
include ho hl hg hb he hf

theorem execTileFree_of_quiet : execTileFree s = .next (if l.st = .ending ∧ ∀ p ∈ (Claims.freedTile s s.occ.a).tab.owner, p.2 ≠ q
    then dropLaunch (Claims.freedTile s s.occ.a) q else Claims.freedTile s s.occ.a) := by
  have busy : sdel s.sch.busy s.occ.a = s.sch.busy := sdel_of_absent (Option.isNone_iff_eq_none.1 hb)
  unfold execTileFree
  dsimp only
  rw [ho]
  dsimp only
  rw [hl]
  dsimp only
  rw [hg, hb, he, hf]
  unfold Claims.freedTile
  rw [busy]
  refine (if_pos rfl).trans (congrArg Host.Outcome.next (if_congr ?_ rfl rfl))
  simp

end Freed

theorem mem_quadTiles {quad t : Nat} (h : t ∈ quadTiles quad) : quadOf t = quad := by
  simpa using (List.mem_filter.1 h).2

/-- Calm tiles of a quadrant: none in P2. -/
theorem calmTiles_eq (s : State) (quad : Nat) :
    calmTiles s quad = if sgetD s.dev.qcur quad 0 = 2 then [] else (quadPresent s quad).filter (tileEmpty s) := by
  have calm : ∀ t ∈ quadPresent s quad, calmTile s t = (sgetD s.dev.qcur quad 0 != 2 && tileEmpty s t) := fun t ht => by
    rw [calmTile, mem_quadTiles (List.mem_filter.1 ht).1]
  unfold calmTiles
  rw [List.filter_congr calm]
  split
  · next h => simp [h]
  · next h => rw [show (sgetD s.dev.qcur quad 0 != 2) = true from bne_iff_ne.2 h]; rfl

theorem sget_foldl_mark (ts : List Nat) (m : Store Unit) (t : Nat) :
    sget (ts.foldl (fun m t => sset m t ()) m) t = if t ∈ ts then some () else sget m t := by
  induction ts generalizing m with
  | nil => rfl
  | cons x r ih =>
    rw [List.foldl_cons, ih, sget_sset]
    by_cases hr : t ∈ r
    · simp [hr]
    · by_cases hx : t = x <;> simp [hr, hx]

/-- The word of a quadrant's report. -/
def reportWord (s : State) (quad : Nat) : Nat :=
  let present := quadPresent s quad
  let last := match (newlyQuiet s quad).getLast? with
    | some t => quietNumber s t
    | none => bits (sgetD s.sch.reports quad (0x1FF * 2 ^ 48)) 48 9
  (calmTiles s quad).length + (if present.isEmpty then 96 else 0) * 2 ^ 7 + (present.foldl (fun n t => n + freeSlots s t) 0) * 2 ^ 14 +
    min 4096 (freeContexts s quad) * 2 ^ 35 + last * 2 ^ 48

/-- The tiles that are busy after a quadrant's report. -/
def reportedBusy (s : State) (quad : Nat) : Store Unit :=
  ((quadPresent s quad).filter (fun t => !calmTile s t)).foldl (fun m t => sset m t ()) (s.sch.busy.filter (fun p => quadOf p.1 != quad))

theorem execQuadrantReport_eq (s : State) : execQuadrantReport s = .next { s with sch := { s.sch with
    reports := sset s.sch.reports s.occ.a (reportWord s s.occ.a), busy := reportedBusy s s.occ.a } } := rfl

theorem reportWord_low (s : State) (quad : Nat) (h : (calmTiles s quad).length < 2 ^ 7) : reportWord s quad % 2 ^ 7 = (calmTiles s quad).length := by
  unfold reportWord
  dsimp only
  generalize (if (quadPresent s quad).isEmpty then 96 else 0) = a
  generalize (quadPresent s quad).foldl (fun n t => n + freeSlots s t) 0 = b
  generalize min 4096 (freeContexts s quad) = c
  omega

theorem reportedBusy_of_present {s : State} {quad t : Nat} (h : t ∈ quadPresent s quad) : (sget (reportedBusy s quad) t).isSome ↔ t ∉ calmTiles s quad := by
  have others : sget (s.sch.busy.filter (fun p => quadOf p.1 != quad)) t = none := by
    rw [sget_filter s.sch.busy (fun k => quadOf k != quad), if_neg (by simp [mem_quadTiles (List.mem_filter.1 h).1])]
  unfold reportedBusy calmTiles
  rw [sget_foldl_mark, others]
  simp [h]

theorem reportedBusy_of_other {s : State} {quad t : Nat} (h : quadOf t ≠ quad) : sget (reportedBusy s quad) t = sget s.sch.busy t := by
  unfold reportedBusy
  have absent : t ∉ (quadPresent s quad).filter (fun t => !calmTile s t) := fun ht =>
    h (mem_quadTiles (List.mem_filter.1 (List.mem_filter.1 ht).1).1)
  rw [sget_foldl_mark, if_neg absent,
    sget_filter s.sch.busy (fun k => quadOf k != quad), if_pos (by simpa using h)]

/-! Grants (R390, R393). -/

section Order

theorem recordBefore_iff (a b : Nat × Launch) : recordBefore a b = true ↔ Claims.Precedes a b := by
  simp [recordBefore, Claims.Precedes]

theorem precedes_trans {a b c : Nat × Launch} (h : Claims.Precedes a b) (h' : Claims.Precedes b c) : Claims.Precedes a c := by
  unfold Claims.Precedes at *
  omega

theorem precedes_irrefl (a : Nat × Launch) : ¬ Claims.Precedes a a := by
  unfold Claims.Precedes
  omega

theorem insertRecord_sorted (x : Nat × Launch) {l : List (Nat × Launch)} (h : l.Pairwise (fun a b => ¬ Claims.Precedes b a)) :
    (insertRecord x l).Pairwise (fun a b => ¬ Claims.Precedes b a) := by
  induction l with
  | nil => exact List.pairwise_singleton ..
  | cons y r ih =>
    obtain ⟨hy, hr⟩ := List.pairwise_cons.1 h
    unfold insertRecord
    split
    · next hxy =>
      have before := (recordBefore_iff x y).1 hxy
      refine List.pairwise_cons.2 ⟨fun z hz hzx => ?_, h⟩
      rcases List.mem_cons.1 hz with rfl | hz
      · exact precedes_irrefl _ (precedes_trans hzx before)
      · exact hy z hz (precedes_trans hzx before)
    · next hxy =>
      refine List.pairwise_cons.2 ⟨fun z hz hzy => ?_, ih hr⟩
      rcases (mem_insertRecord x r z).1 hz with rfl | hz
      · exact hxy ((recordBefore_iff z y).2 hzy)
      · exact hy z hz hzy

theorem waitingRecords_sorted (s : State) : (waitingRecords s).Pairwise (fun a b => ¬ Claims.Precedes b a) := by
  unfold waitingRecords
  induction s.sch.launches.filter (fun p => recordWaits p.2) with
  | nil => exact List.Pairwise.nil
  | cons x r ih => exact insertRecord_sorted x ih

end Order

section Pass

variable {s : State} {q : Nat} {l : Launch}

theorem grantHeads_of_none (f : Nat) (h : waitingRecords s = []) : grantHeads (f + 1) s = (s, none) := by
  rw [grantHeads, h]

theorem grantHeads_of_stuck (f : Nat) (h : Claims.Head s q l) (hg : grantable s l [] = none) : grantHeads (f + 1) s = (s, some (q, l)) := by
  obtain ⟨r, hr⟩ := h
  rw [grantHeads, hr]
  dsimp only
  rw [hg]

theorem grantHeads_of_grant {o : Nat × Nat} {p : Nat} (f : Nat) (h : Claims.Head s q l) (hg : grantable s l [] = some (o, p)) :
    grantHeads (f + 1) s = grantHeads f (grantRecord s q l o p) := by
  obtain ⟨r, hr⟩ := h
  rw [grantHeads, hr]
  dsimp only
  rw [hg]

theorem grantRecord_of_waiting (o : Nat × Nat) (p : Nat) (hw : l.st = .waiting) :
    let ts := rectTiles o.1 o.2 l.wd l.ht
    let s1 := ownAll s q ts
    grantRecord s q l o p = setLaunch { s1 with tab := { s1.tab with
      ltiles := ts.foldl (fun m t => sset m t [(t / 16 - o.2) * 16 + (t % 16 - o.1)]) s1.tab.ltiles } } q (Claims.firstGrant s l o p) := by
  have shape : askedShape l = (l.wd, l.ht) := by
    unfold askedShape
    rw [hw]
  unfold grantRecord
  rw [shape, hw]
  rfl

/-- The state after the later grants of a pass whose head cannot be granted. -/
def reservedPass (s : State) (q : Nat) (l : Launch) : State :=
  grantLater q (reservation s l) { s with sch := { s.sch with reserve := reservation s l } }

theorem execAllocationPass_of_down (h : s.dev.up = false ∨ s.dev.p3 = true) : execAllocationPass s = .next s := by
  unfold execAllocationPass
  exact if_pos (by simpa using h)

variable (hu : s.dev.up = true) (hp : s.dev.p3 = false)
include hu hp

theorem execAllocationPass_of_none (h : waitingRecords s = []) :
    execAllocationPass s = .next { s with sch := { s.sch with reserve := [] } } := by
  unfold execAllocationPass
  rw [if_neg (by simp [hu, hp]), grantHeads_of_none _ h]

variable (h : Claims.Head s q l) (hg : grantable s l [] = none)
include h hg

theorem execAllocationPass_of_no_victim (hv : victimOf (reservedPass s q l) l.cls (reservation s l) = none) :
    execAllocationPass s = .next (reservedPass s q l) := by
  unfold reservedPass at hv
  unfold execAllocationPass
  rw [if_neg (by simp [hu, hp]), grantHeads_of_stuck _ h hg]
  dsimp only
  rw [hv]
  rfl

theorem execAllocationPass_of_victim {v : Nat × Launch} (hv : victimOf (reservedPass s q l) l.cls (reservation s l) = some v) :
    execAllocationPass s = .next (preempt (reservedPass s q l) v.1 v.2 (reservation s l)) := by
  unfold reservedPass at hv
  unfold execAllocationPass
  rw [if_neg (by simp [hu, hp]), grantHeads_of_stuck _ h hg]
  dsimp only
  rw [hv]
  rfl

end Pass

/-! Changes of a launch's place: how one begins (R405, R414, R417). -/

theorem mem_dedup {x : Nat} {l : List Nat} : x ∈ dedup l ↔ x ∈ l := by
  refine ⟨mem_dedup_imp, fun h => ?_⟩
  induction l with
  | nil => exact h
  | cons y l ih =>
    unfold dedup
    by_cases hx : x = y
    · subst hx
      exact List.mem_cons_self ..
    · exact List.mem_cons_of_mem _ (List.mem_filter.2 ⟨ih ((List.mem_cons.1 h).resolve_left hx), bne_iff_ne.2 hx⟩)

/-- Notices join the pending faults. -/
def withPending (s : State) (ps : List Pending) : State := { s with flt := { s.flt with pending := s.flt.pending ++ ps } }

/-- A change's notice to the groom core of a tile. -/
def tileNotice (s : State) (detail gait t : Nat) : Pending :=
  { tile := t, fr := bareRecord (ltileOf s t 0) causePreempt detail gait, deliver := true }

/-- A change's notice to the user handler of a context. -/
def userNotice (s : State) (detail gait tile rank : Nat) (x : Nat × Ctx) : Pending :=
  { tile := tile, fr := { bareRecord 0 causePreempt detail gait with ctx := x.1, iter := (windowOf s tile rank x.1).low, rank := rank }, deliver := false }

/-- The notices to user handlers, on the host of launch tile 0. -/
def userNotices (s : State) (q detail gait : Nat) : List Pending :=
  (placeTile s q 0).elim [] (fun p => (noticed s q p.1).map (userNotice s detail gait p.1 p.2))

theorem withPending_append (s : State) (a b : List Pending) : withPending (withPending s a) b = withPending s (a ++ b) := by
  unfold withPending
  simp only [List.append_assoc]

theorem foldl_tileNotices (detail gait : Nat) (ts : List Nat) (s : State) :
    ts.foldl (fun s t => frameless s t causePreempt detail gait) s = withPending s (ts.map (tileNotice s detail gait)) := by
  induction ts generalizing s with
  | nil => simp [withPending]
  | cons x r ih =>
    rw [List.foldl_cons, ih, List.map_cons]
    exact withPending_append s [tileNotice s detail gait x] _

theorem foldl_userNotices (detail gait tile rank : Nat) (xs : List (Nat × Ctx)) (s : State) :
    xs.foldl (fun s x => withPending s [userNotice s detail gait tile rank x]) s = withPending s (xs.map (userNotice s detail gait tile rank)) := by
  induction xs generalizing s with
  | nil => simp [withPending]
  | cons x r ih =>
    rw [List.foldl_cons, ih, List.map_cons]
    exact withPending_append s [userNotice s detail gait tile rank x] _

theorem sendNotices_eq (s : State) (q : Nat) (l : Launch) (detail gait : Nat) :
    sendNotices s q l detail gait = withPending s ((heldTiles l).map (tileNotice s detail gait) ++ userNotices s q detail gait) := by
  unfold sendNotices userNotices
  dsimp only
  rw [foldl_tileNotices, show placeTile (withPending s ((heldTiles l).map (tileNotice s detail gait))) q 0 = placeTile s q 0 from rfl]
  cases placeTile s q 0 with
  | none => simp
  | some p =>
    rw [← withPending_append]
    exact foldl_userNotices detail gait p.1 p.2 (noticed s q p.1) _

section Begins

variable {s : State} {q : Nat} {l : Launch} {st : LaunchState} {aim : Option Aim}

theorem beginChange_of_full (hg : growing l aim = false) (hr : noticeRoom s q l = false) : beginChange s q l st aim = s := by
  unfold beginChange
  rw [hg, hr]
  rfl

/-- The freeze of a change, whose launch has its new state. -/
def frozenFor (s : State) (q : Nat) (l : Launch) (st : LaunchState) (aim : Option Aim) : State :=
  setLaunch { s with frm := { s.frm with frozen := dedup (s.frm.frozen ++ heldTiles l), ready := s.frm.ready ++ l.poolWait } } q
    { l with st := st, aim := aim, poolWait := [] }

theorem beginChange_of_growing (hg : growing l aim = true) : beginChange s q l st aim = frozenFor s q l st aim := by
  unfold beginChange
  rw [hg]
  rfl

theorem beginChange_of_room (hg : growing l aim = false) (hr : noticeRoom s q l = true) : beginChange s q l st aim =
    frozenFor (sendNotices s q l (if st = .saving then 1 else 0) (aim.elim l.gait (·.gait))) q l st aim := by
  unfold beginChange
  rw [hg, hr, if_congr (beq_iff_eq (a := st) (b := .saving)) rfl rfl]
  rfl

end Begins

theorem changes_begin : Claims.ChangesBegin := by
  intro s q l st aim t
  refine ⟨fun hg hr => beginChange_of_full hg hr, fun h => ?_⟩
  cases hg : growing l aim with
  | true =>
    rw [show t = frozenFor s q l st aim from beginChange_of_growing hg]
    exact ⟨sget_sset_same _ _ _, fun x => by rw [← List.mem_append]; exact mem_dedup, rfl, rfl, rfl, rfl, fun _ => rfl, nofun⟩
  | false =>
    have hr : noticeRoom s q l = true := h.resolve_left (by rw [hg]; exact Bool.false_ne_true)
    have ht : t = frozenFor (sendNotices s q l (if st = .saving then 1 else 0) (aim.elim l.gait (·.gait))) q l st aim := beginChange_of_room hg hr
    rw [sendNotices_eq] at ht
    rw [ht]
    refine ⟨sget_sset_same _ _ _, fun x => by rw [← List.mem_append]; exact mem_dedup, rfl, rfl, rfl, rfl, nofun, fun _ => ⟨fun x hx => ?_, ?_⟩⟩
    · exact ⟨_, List.mem_append_right _ (List.mem_append_left _ (List.mem_map_of_mem hx)), rfl, rfl, rfl, rfl, rfl⟩
    · intro tile rank hp x hx
      have user : userNotice s (if st = .saving then 1 else 0) (aim.elim l.gait (·.gait)) tile rank x ∈
          userNotices s q (if st = .saving then 1 else 0) (aim.elim l.gait (·.gait)) := by
        unfold userNotices
        rw [hp]
        exact List.mem_map_of_mem hx
      exact ⟨_, List.mem_append_right _ (List.mem_append_right _ user), rfl, rfl, rfl, rfl⟩

/-! Tiles that fire again (R173, R417 step 9). -/

/-- A fold of steps each of which stands in a relation that holds of each state and itself and goes on over steps. -/
theorem foldl_related {σ ι : Type} {R : σ → σ → Prop} (refl : ∀ s, R s s) (trans : ∀ {s t u}, R s t → R t u → R s u) {f : σ → ι → σ}
    (each : ∀ s x, R s (f s x)) (l : List ι) (s : σ) : R s (l.foldl f s) :=
  foldl_keeps (R s) f l s (refl s) fun t x h => trans h (each t x)

/-- A state that differs in its runnable tasks alone. -/
def BesideReady (s t : State) : Prop := ∃ r, t = { s with frm := { s.frm with ready := r } }

theorem BesideReady.refl (s : State) : BesideReady s s := ⟨s.frm.ready, rfl⟩

theorem BesideReady.trans {s t u : State} (h : BesideReady s t) (h' : BesideReady t u) : BesideReady s u := by
  obtain ⟨r, rfl⟩ := h
  obtain ⟨r', rfl⟩ := h'
  exact ⟨r', rfl⟩

theorem besideReady_foldl {ι : Type} {f : State → ι → State} (each : ∀ s x, BesideReady s (f s x)) (l : List ι) (s : State) :
    BesideReady s (l.foldl f s) := foldl_related BesideReady.refl BesideReady.trans each l s

theorem besideReady_wake (s : State) (tile rank c i blk : Nat) : BesideReady s (wake s tile rank c i blk) := by
  unfold wake
  split
  · split
    · exact ⟨_, rfl⟩
    · exact .refl s
  · exact .refl s

theorem besideReady_wakeFrame (s : State) (tile rank c i : Nat) : BesideReady s (wakeFrame s tile rank c i) := by
  unfold wakeFrame
  exact besideReady_foldl (fun u k => besideReady_wake u tile rank c i k) _ s

theorem besideReady_wakeTile (s : State) (tile : Nat) : BesideReady s (wakeTile s tile) := by
  unfold wakeTile
  dsimp only
  refine besideReady_foldl ?_ _ s
  intro u x
  exact besideReady_wakeFrame u tile x.1 x.2.1 x.2.2

theorem unfreeze_ready (s : State) (ts : List Nat) :
    BesideReady { s with frm := { s.frm with frozen := s.frm.frozen.filter (fun t => !ts.contains t) } } (unfreeze s ts) := by
  unfold unfreeze
  exact besideReady_foldl besideReady_wakeTile ts _

/-! How a change ends (R398, R417 steps 4 to 9). -/

section Finish

variable {s s1 : State} {q : Nat} {l : Launch} {a : Aim}

theorem finishChange_of_no_image {c : Nat} (h : readImage s (originTile l) l.asid (l.field 0 56) = (s1, .error c)) :
    finishChange s q l a = abandonChange s1 q l a c := by
  unfold finishChange
  dsimp only
  rw [h]

variable {bs : List (BitVec 8)} (h : readImage s (originTile l) l.asid (l.field 0 56) = (s1, .ok bs))
include h

theorem finishChange_of_no_place (hp : placeFor s1 l ((sectionsOf bs).getD []) (heldTiles l) a.gait a.x a.y = none) :
    finishChange s q l a = abandonChange s1 q l a causeCfg := by
  unfold finishChange
  dsimp only
  rw [h]
  dsimp only
  rw [hp]

theorem finishChange_of_place {p : NewPlace} {s2 : State} {xs : List SavedTile}
    (hp : placeFor s1 l ((sectionsOf bs).getD []) (heldTiles l) a.gait a.x a.y = some p) (ht : takeSave s1 q l = (s2, xs)) :
    let s3 := restoreAll (setLaunch (vacate s2 q (heldTiles l)) q (placedLaunch s2 l a p xs)) l.asid a.gait (heldTiles l)
      (penDataOf ((sectionsOf bs).getD [])) xs p.hosts
    let s4 := forgetTables s3 ((heldTiles l).filter (fun t => !p.hosts.any (fun h => h.1 == t)))
    finishChange s q l a = unfreeze (moveOffers s4 q (a.y * 16 + a.x)) (dedup (heldTiles l ++ p.hosts.map (·.1))) := by
  unfold finishChange
  dsimp only
  rw [h]
  dsimp only
  rw [hp]
  dsimp only
  rw [ht]

end Finish

/-- A launch whose change is given up. -/
def abandonedLaunch (l : Launch) (a : Aim) (cause : Nat) : Launch :=
  if a.bySeq = true then { l with st := .running, aim := none, grow := none, ended := true, cause := cause, waiting := false }
  else { l with st := .running, aim := none }

theorem abandonChange_eq (s : State) (q : Nat) (l : Launch) (a : Aim) (c : Nat) :
    abandonChange s q l a c = unfreeze (setLaunch s q (abandonedLaunch l a c)) (heldTiles l) := by
  unfold abandonChange abandonedLaunch
  cases a.bySeq <;> rfl

theorem abandonChange_effect (s : State) (q : Nat) (l : Launch) (a : Aim) (c : Nat) :
    sget (abandonChange s q l a c).sch.launches q = some (abandonedLaunch l a c) ∧
      ∀ x, x ∈ (abandonChange s q l a c).frm.frozen ↔ x ∈ s.frm.frozen ∧ x ∉ heldTiles l := by
  obtain ⟨r, hr⟩ := unfreeze_ready (setLaunch s q (abandonedLaunch l a c)) (heldTiles l)
  rw [abandonChange_eq, hr]
  exact ⟨sget_sset_same _ _ _, fun x => by simp [setLaunch]⟩

theorem changes_end : Claims.ChangesEnd := by
  refine ⟨?_, fun s q l => rfl, ?_, ?_⟩
  · intro s s1 q l a old
    refine ⟨fun c h => finishChange_of_no_image h, fun bs h => ?_⟩
    exact ⟨fun hp => finishChange_of_no_place h hp, fun p s2 xs hp ht => finishChange_of_place h hp ht⟩
  · intro s q l a c t
    obtain ⟨hl, hf⟩ := abandonChange_effect s q l a c
    refine ⟨⟨_, hl, ?_⟩, hf⟩
    unfold abandonedLaunch
    cases a.bySeq <;> simp
  · intro s l a p xs t
    refine ⟨rfl, rfl, rfl, rfl, rfl, rfl, rfl, rfl, rfl, fun hle => ?_, fun hlt => ?_, fun hle hb hg => ?_, fun hb => ?_⟩
    · simp [t, placedLaunch, Nat.not_lt.2 hle]
    · simp [t, placedLaunch, hlt]
    · simp [t, placedLaunch, Nat.not_lt.2 hle, hb, hg]
    · simp [t, placedLaunch, hb]

/-! Shrinks, full saves and resumes as they are due (R398, R417, R419, R420, R422). -/

section Shrink

variable {s : State} {q gt dx dy : Nat} {l : Launch} (h : sget s.sch.launches q = some l)
include h

theorem execRegionShrink_of_running (hs : l.st = .running) (ha : l.aim = none) : execRegionShrink q gt dx dy s =
    if l.ended = false ∧ shrinkFits l gt dx dy = true then
      .next (beginChange s q l .shrinking (some { gait := gt, x := l.gx + dx, y := l.gy + dy, bySeq := false }))
    else .next s := by
  unfold execRegionShrink
  rw [h]
  dsimp only
  rw [hs, ha]
  exact if_congr (by simp) rfl rfl

theorem execRegionShrink_of_shrinking {a : Aim} (hs : l.st = .shrinking) (ha : l.aim = some a) : execRegionShrink q gt dx dy s =
    .next (if (a.gait = gt ∧ a.x = l.gx + dx ∧ a.y = l.gy + dy) ∧ quiesced s q l = true ∧ saveRoom s l = true ∧ loftsGone s l a = true
      then finishChange s q l a else s) := by
  unfold execRegionShrink
  rw [h]
  dsimp only
  rw [hs, ha]
  exact congrArg Host.Outcome.next (if_congr (by simp [and_assoc]) rfl rfl)

end Shrink

section FullSave

variable {s : State} {l : Launch} (h : Claims.TheLaunch s l) (hs : l.st = .saving)
include h hs

theorem execFullSave_of_busy (hq : quiesced s s.occ.a l = false) : execFullSave s = .next s := by
  unfold execFullSave
  dsimp only
  rw [h]
  dsimp only
  rw [hs, hq]
  rfl

theorem execFullSave_of_quiet (hq : quiesced s s.occ.a l = true) (hr : saveRoom s l = true) (hf : ∀ t ∈ heldTiles l, loftHeld s t = false)
    {s1 : State} {xs : List SavedTile} (ht : takeSave s s.occ.a l = (s1, xs)) :
    let q := s.occ.a
    let s2 := keepAtEngines (moveOffers (forgetTables (vacate s1 q (heldTiles l)) (heldTiles l)) q 512) xs
    let park := fun (x : Nat × Ctx) => if x.2.q = q ∧ x.2.st = .live then (x.1, { x.2 with st := .parked }) else x
    execFullSave s = .next (setLaunch { s2 with ctxs := s2.ctxs.map park } q
      { l with st := .saved, aim := none, stamp := s2.cyc, since := s2.cyc, cls := l.cls0, npre := l.npre + 1,
               saved := xs.map (fun x => { x with ops := x.ops.filter (fun o => !atEngine o) }), savedAt := s.fresh }) := by
  intro q s2 park
  have parks : (fun x : Nat × Ctx => if (x.2.q == q && x.2.st == .live) = true then (x.1, { x.2 with st := .parked }) else x) = park :=
    funext fun x => if_congr (by simp) rfl rfl
  have lofts : (heldTiles l).all (fun t => !loftHeld s t) = true := by simpa using hf
  unfold execFullSave
  dsimp only
  rw [h]
  dsimp only
  rw [hs, hq, hr, lofts, ht]
  dsimp only
  rw [parks]
  rfl

end FullSave

section Resume

variable {s0 : State} {l : Launch} (h : Claims.TheLaunch s0 l) (hs : l.st = .resuming) (hp : ∀ t ∈ heldTiles l, pendingCount s0 t < 1024)

theorem savedFault_cause {s : State} {c : Nat} (hc : savedFault s l = some c) : c = causeMemUe ∨ c = causeCfg := by
  unfold savedFault at hc
  obtain ⟨a, -, ha⟩ := List.exists_of_findSome?_eq_some hc
  split at ha
  · exact Or.inl (Option.some.inj ha).symm
  · split at ha
    · cases ha
    · exact Or.inr (Option.some.inj ha).symm

theorem savedFault_of_bad_type {s : State} {a v : Nat} (ha : a ∈ savedHeaders l.savedAt l.saved.length) (hv : homeRead s 0 a 16 = some v)
    (ht : v % 256 = 0 ∨ 14 < v % 256) : savedFault s l ≠ none := by
  intro hn
  unfold savedFault at hn
  have := List.findSome?_eq_none_iff.1 hn a ha
  rw [hv] at this
  dsimp only at this
  rw [if_neg (by omega)] at this
  cases this

include hs hp

theorem resume_due : (l.st == .resuming && (heldTiles l).all (fun t => decide (pendingCount s0 t < 1024))) = true := by
  rw [hs]
  simpa using hp

include h

theorem execResume_of_fault {c : Nat} (hc : savedFault (readHeaders s0 l) l = some c) :
    execResume s0 = .next (failResume (readHeaders s0 l) s0.occ.a l c) := by
  unfold execResume
  dsimp only
  rw [h]
  dsimp only
  rw [if_pos (resume_due hs hp), hc]

variable (hc : savedFault (readHeaders s0 l) l = none) {s1 : State}
include hc

theorem execResume_of_no_image {c : Nat} (hi : readImage (readHeaders s0 l) (originTile l) l.asid (l.field 0 56) = (s1, .error c)) :
    execResume s0 = .next (failResume s1 s0.occ.a l c) := by
  unfold execResume
  dsimp only
  rw [h]
  dsimp only
  rw [if_pos (resume_due hs hp), hc, hi]

variable {bs : List (BitVec 8)} (hi : readImage (readHeaders s0 l) (originTile l) l.asid (l.field 0 56) = (s1, .ok bs))
include hi

theorem execResume_of_no_place (hn : placeFor s1 l ((sectionsOf bs).getD []) [] l.gait l.gx l.gy = none) :
    execResume s0 = .next (failResume s1 s0.occ.a l causeCfg) := by
  unfold execResume
  dsimp only
  rw [h]
  dsimp only
  rw [if_pos (resume_due hs hp), hc, hi]
  dsimp only
  rw [hn]

theorem execResume_of_place {p : NewPlace} (hn : placeFor s1 l ((sectionsOf bs).getD []) [] l.gait l.gx l.gy = some p) :
    let q := s0.occ.a
    let live := { l with st := .running, route := p.route, granted := s1.cyc, commitAt := s1.cyc }
    let s2 := restoreAll (setLaunch s1 q live) l.asid l.gait [] (penDataOf ((sectionsOf bs).getD [])) l.saved p.hosts
    let s3 := moveOffers (backFromEngines s2 q) q (originTile l)
    let wake := fun (x : Nat × Ctx) => if x.2.q = q ∧ x.2.st = .parked then (x.1, { x.2 with st := .live }) else x
    execResume s0 = .next (unfreeze (sendNotices { s3 with ctxs := s3.ctxs.map wake } q live 2 live.gait) (heldTiles live)) := by
  intro q live s2 s3 wake
  have wakes : (fun x : Nat × Ctx => if (x.2.q == q && x.2.st == .parked) = true then (x.1, { x.2 with st := .live }) else x) = wake :=
    funext fun x => if_congr (by simp) rfl rfl
  unfold execResume
  dsimp only
  rw [h]
  dsimp only
  rw [if_pos (resume_due hs hp), hc, hi]
  dsimp only
  rw [hn]
  dsimp only
  rw [wakes]

end Resume

/-! Saved state (R417 step 5, R421). -/

/-- What a launch tile was last saved with decides only which of its pens and troughs it has changed. -/
theorem saveTile_old (s : State) (q tile rank n : Nat) (old : Option SavedTile) :
    ∃ m, saveTile s q tile rank n old = { saveTile s q tile rank n none with mine := m } := by
  cases old with
  | none => exact ⟨_, rfl⟩
  | some y => exact ⟨_, rfl⟩

theorem sget_srange_below {α : Type} (m : Store α) {lo n k : Nat} (h : k < n) : sget (srange m lo n) k = sget m (lo + k) :=
  (sget_srange m lo n k).trans (if_pos h)

theorem states_saved : Claims.StatesSaved := by
  intro s q tile rank n old x
  obtain ⟨m, hx⟩ := saveTile_old s q tile rank n old
  rw [show x = _ from hx]
  refine ⟨rfl, fun k hk => ⟨sget_srange_below _ hk, sget_srange_below _ hk⟩, fun k hk => sget_srange_below _ hk, fun k hk => sget_srange_below _ hk,
    fun k hk => sget_srange_below _ hk, fun k hk => ⟨sget_srange_below _ hk, sget_srange_below _ hk, sget_srange_below _ hk⟩,
    fun k hk => ⟨sget_srange_below _ hk, sget_srange_below _ hk, sget_srange_below _ hk⟩, fun k hk => ⟨sget_srange_below _ hk, sget_srange_below _ hk⟩,
    fun k hk => ⟨sget_srange_below _ hk, sget_srange_below _ hk⟩, fun k hk => sget_srange_below _ hk, fun o => ?_, fun y => ?_, fun p => ?_, fun r => ?_⟩
  · simp [saveTile, opHere, and_assoc]
  · simp [saveTile]
  · simp [saveTile]
  · simp [saveTile, and_assoc]

/-! What the records of a restore change (R404, R421, R427): memory and rows. -/

/-- A state that differs in its memories, its rows and the counter of free values alone. -/
def BesideRows (s t : State) : Prop := ∃ m r f, t = { s with mem := m, rws := r, fresh := f }

theorem BesideRows.refl (s : State) : BesideRows s s := ⟨_, _, _, rfl⟩

theorem BesideRows.trans {s t u : State} (h : BesideRows s t) (h' : BesideRows t u) : BesideRows s u := by
  obtain ⟨m, r, f, rfl⟩ := h
  obtain ⟨m', r', f', rfl⟩ := h'
  exact ⟨m', r', f', rfl⟩

theorem besideRows_foldl {ι : Type} {f : State → ι → State} (each : ∀ s x, BesideRows s (f s x)) (l : List ι) (s : State) :
    BesideRows s (l.foldl f s) := foldl_related BesideRows.refl BesideRows.trans each l s

theorem besideRows_putByte (s : State) (dom pa : Nat) (v : BitVec 8) : BesideRows s (putByte s dom pa v) := by
  unfold putByte retag
  dsimp only
  split
  · exact .refl s
  · split
    · exact ⟨_, _, _, rfl⟩
    · split
      · exact ⟨_, _, _, rfl⟩
      · split
        · exact ⟨_, _, _, rfl⟩
        · exact ⟨_, _, _, rfl⟩

theorem besideRows_recordPut (s : State) (pa n v : Nat) : BesideRows s (recordPut s pa n v) := by
  induction n generalizing s pa v with
  | zero => exact .refl s
  | succ n ih => exact (besideRows_putByte s 0 pa _).trans (ih ..)

theorem besideRows_recordWrite (s : State) (pa n v : Nat) : BesideRows s (recordWrite s pa n v) :=
  (besideRows_recordPut s pa n v).trans ⟨_, _, _, rfl⟩

theorem besideRows_withdrawRow (s : State) (r : Row) : BesideRows s (withdrawRow s r) := by
  unfold withdrawRow
  split
  · exact .refl s
  · exact BesideRows.trans ⟨_, _, _, rfl⟩ (besideRows_recordWrite _ _ _ _)

theorem besideRows_moveRow (s : State) (id : Nat) : BesideRows s (moveRow s id) := by
  unfold moveRow
  split
  · exact .refl s
  · split
    · exact .refl s
    · exact besideRows_withdrawRow _ _

theorem besideRows_moveRows (s : State) (tile : Nat) : BesideRows s (moveRows s tile) := by
  unfold moveRows
  exact besideRows_foldl besideRows_moveRow _ s

theorem besideRows_restoreRecords (s : State) (x : SavedTile) (tile rank : Nat) : BesideRows s (restoreRecords s x tile rank) := by
  unfold restoreRecords
  dsimp only
  refine BesideRows.trans ?_ (besideRows_foldl besideRows_withdrawRow _ _)
  refine BesideRows.trans ?_ (besideRows_moveRows _ tile)
  refine BesideRows.trans ?_ (besideRows_foldl ?_ x.halts _)
  · refine besideRows_foldl ?_ x.records s
    intro t p
    exact besideRows_recordWrite ..
  · intro t p
    exact besideRows_recordWrite ..

section RestoreRecords

variable (s : State) (x : SavedTile) (tile rank : Nat)

@[simp] theorem restoreRecords_frm : (restoreRecords s x tile rank).frm = s.frm := by
  obtain ⟨m, r, f, h⟩ := besideRows_restoreRecords s x tile rank
  rw [h]

@[simp] theorem restoreRecords_flt : (restoreRecords s x tile rank).flt = s.flt := by
  obtain ⟨m, r, f, h⟩ := besideRows_restoreRecords s x tile rank
  rw [h]

@[simp] theorem restoreRecords_ops : (restoreRecords s x tile rank).ops = s.ops := by
  obtain ⟨m, r, f, h⟩ := besideRows_restoreRecords s x tile rank
  rw [h]

@[simp] theorem restoreRecords_isl : (restoreRecords s x tile rank).isl = s.isl := by
  obtain ⟨m, r, f, h⟩ := besideRows_restoreRecords s x tile rank
  rw [h]

@[simp] theorem restoreRecords_net : (restoreRecords s x tile rank).net = s.net := by
  obtain ⟨m, r, f, h⟩ := besideRows_restoreRecords s x tile rank
  rw [h]

@[simp] theorem restoreRecords_ctxs : (restoreRecords s x tile rank).ctxs = s.ctxs := by
  obtain ⟨m, r, f, h⟩ := besideRows_restoreRecords s x tile rank
  rw [h]

@[simp] theorem restoreRecords_tab : (restoreRecords s x tile rank).tab = s.tab := by
  obtain ⟨m, r, f, h⟩ := besideRows_restoreRecords s x tile rank
  rw [h]

@[simp] theorem restoreRecords_sch : (restoreRecords s x tile rank).sch = s.sch := by
  obtain ⟨m, r, f, h⟩ := besideRows_restoreRecords s x tile rank
  rw [h]

end RestoreRecords

/-! The saved state of a launch tile on the tile that takes it (R417 step 8, R418). -/

/-- What clearing marks of errors changes: memory, and the marks of the frame store and of the island's tables. -/
theorem clearRestored_marks (s : State) (x : SavedTile) (tile lo : Nat) (first : Bool) :
    ∃ m b a, clearRestored s x tile lo first = { s with mem := m, frm := { s.frm with slotBad := b }, isl := { s.isl with accBad := a } } := by
  have slots : ∃ m b, x.slots.foldl (fun s p => clearSlot s (lo + p.1) (fun _ => true)) s = { s with mem := m, frm := { s.frm with slotBad := b } } := by
    refine foldl_keeps (fun t => ∃ m b, t = { s with mem := m, frm := { s.frm with slotBad := b } }) _ _ _ ⟨s.mem, s.frm.slotBad, rfl⟩ ?_
    rintro t p ⟨m, b, rfl⟩
    exact ⟨_, _, rfl⟩
  obtain ⟨m, b, h⟩ := slots
  unfold clearRestored
  dsimp only
  rw [h]
  cases first with
  | true => exact ⟨_, _, _, rfl⟩
  | false => exact ⟨m, b, s.isl.accBad, rfl⟩

theorem foldl_setPe {α : Type} (tile : Nat) (elem : α → Nat) (pe : State → α → Pe) (l : List α) (s : State) :
    ∃ p, l.foldl (fun s c => setPe s tile (elem c) (pe s c)) s = { s with pe := p } := by
  refine foldl_keeps (fun t => ∃ p, t = { s with pe := p }) _ _ _ ⟨s.pe, rfl⟩ ?_
  rintro t c ⟨p, rfl⟩
  exact ⟨_, rfl⟩

section RestoreTile

variable (s : State) (x : SavedTile) (tile rank : Nat)

/-- An operation of a saved launch tile as it is restored. -/
def movedOp (o : Op) : Op := retranslated { o with tile := tile, rank := rank }

theorem restoreTile_fields : let t := restoreTile s x tile rank
    t.frm.slots = sover s.frm.slots (slotLow s tile rank) x.slots ∧ t.frm.windows = sover s.frm.windows (winLow s tile rank) x.windows ∧
    t.frm.owned = s.frm.owned ++ x.owned.map (fun y => { y with tile := tile, rank := rank }) ∧
    t.flt.pending = s.flt.pending ++ x.pending.map (fun p => { p with tile := tile, fr := { p.fr with rank := rank } }) ∧
    t.ops = s.ops ++ x.ops.map (movedOp tile rank) ∧ t.net.outs = s.net.outs ++ x.outs.map (fun e => { e with tile := tile }) ∧
    (rank = 0 → t.isl.acc = sreplace s.isl.acc (tile * 65536) 65536 x.acc ∧ t.isl.next = sreplace s.isl.next (tile * 16) 16 x.next) ∧
    t.ctxs = s.ctxs ∧ t.tab = s.tab ∧ t.sch = s.sch := by
  obtain ⟨m, b, a, hc⟩ := clearRestored_marks s x tile (slotLow s tile rank) (decide (rank = 0))
  unfold restoreTile
  dsimp only
  rw [hc]
  obtain ⟨p, hp⟩ := foldl_setPe tile (fun c : Nat × List CbEntry => c.1) _ x.commits _
  rw [hp]
  dsimp only
  rw [restoreRecords_frm, restoreRecords_flt, restoreRecords_ops, restoreRecords_net, restoreRecords_isl, restoreRecords_ctxs, restoreRecords_tab,
    restoreRecords_sch]
  refine ⟨rfl, rfl, rfl, rfl, rfl, rfl, ?_, rfl, rfl, rfl⟩
  rintro rfl
  exact ⟨rfl, rfl⟩

theorem retranslated_keeps (o : Op) : (retranslated o).id = o.id ∧ (retranslated o).kind = o.kind ∧ (retranslated o).ctx = o.ctx ∧
    (retranslated o).iter = o.iter ∧ (retranslated o).tile = o.tile ∧ (retranslated o).rank = o.rank := by
  unfold retranslated
  split
  · exact ⟨rfl, rfl, rfl, rfl, rfl, rfl⟩
  · exact ⟨rfl, rfl, rfl, rfl, rfl, rfl⟩

end RestoreTile

/-! Pens and troughs of a host that one launch tile has to itself (R418). -/

section RestoreHost

theorem standing_one (x : SavedTile) (k : Nat) (full : SavedTile → Bool) : standing [x] k full = some x := by
  unfold standing
  cases hm : x.mine.contains k with
  | true => simp only [List.find?, hm, Option.orElse_some]
  | false => cases hf : full x <;> simp only [List.find?, hm, hf, Option.orElse_none, Option.orElse_some, List.head?_cons]

theorem penCopy_eq (area : Nat) (x : SavedTile) (k : Nat) :
    (penCopy area x k).1.map (fun p => (p, (penCopy area x k).2)) =
      (sget x.pens k).map (fun p => (p, srange x.sram (p.base * 4096 - area) (p.size * 4096))) := by
  unfold penCopy
  cases sget x.pens k with
  | none => rfl
  | some p => simp only [Option.map_some]

/-- A store of the keys of a list that a function gives something for. -/
def listed {α : Type} (f : Nat → Option α) (ks : List Nat) : Store α := ks.filterMap (fun k => (f k).map (fun v => (k, v)))

theorem sget_listed {α : Type} (f : Nat → Option α) (ks : List Nat) (k : Nat) : sget (listed f ks) k = if k ∈ ks then f k else none := by
  induction ks with
  | nil => rfl
  | cons j r ih =>
    unfold listed at *
    rw [List.filterMap_cons]
    cases hf : f j with
    | none =>
      dsimp only [Option.map_none]
      rw [ih]
      by_cases hj : k = j
      · subst hj
        simp [hf]
      · simp [hj]
    | some v =>
      dsimp only [Option.map_some]
      rw [sget, ih]
      by_cases hj : j = k
      · subst hj
        simp [hf]
      · simp [hj, Ne.symm hj]

theorem sget_listed_keys {α β : Type} (m : Store α) (f : α → β) (k : Nat) : sget (listed (fun k => (sget m k).map f) (m.map (·.1))) k = (sget m k).map f := by
  rw [sget_listed]
  by_cases hk : k ∈ m.map (·.1)
  · rw [if_pos hk]
  · rw [if_neg hk, (sget_eq_none_iff m k).2 fun p hp e => hk (List.mem_map.2 ⟨p, hp, e⟩)]
    rfl

/-- The bytes of a launch tile's pens, by their place in the pen area. -/
def penBytes (area : Nat) (x : SavedTile) (ks : List Nat) (m : Store (BitVec 8)) : Store (BitVec 8) :=
  ks.foldl (fun m k => (sget x.pens k).elim m (fun p => sover m (p.base * 4096 - area) (srange x.sram (p.base * 4096 - area) (p.size * 4096)))) m

theorem keysRise_penBytes (area : Nat) (x : SavedTile) (ks : List Nat) : keysRise (penBytes area x ks []) = true := by
  refine foldl_keeps (fun m => keysRise m = true) _ ks [] rfl fun m k h => ?_
  cases sget x.pens k with
  | none => exact h
  | some p => exact keysRise_sover _ _ h

/-- A place of the pen area lies in a pen of the launch tile. -/
def inPen (area : Nat) (x : SavedTile) (j k : Nat) : Bool :=
  (sget x.pens k).any (fun p => decide (p.base * 4096 - area ≤ j) && decide (j < p.base * 4096 - area + p.size * 4096))

theorem any_inPen {area k a : Nat} {x : SavedTile} {p : Pen} (hp : sget x.pens k = some p) (hb : area ≤ p.base * 4096) (hlo : p.base * 4096 ≤ a)
    (hhi : a < (p.base + p.size) * 4096) : (x.pens.map (·.1)).any (inPen area x (a - area)) = true := by
  refine List.any_eq_true.2 ⟨k, List.mem_map.2 ⟨(k, p), mem_of_sget hp, rfl⟩, ?_⟩
  unfold inPen
  rw [hp, Option.any_some]
  simp only [Bool.and_eq_true, decide_eq_true_eq]
  omega

theorem sget_penBytes {area : Nat} {x : SavedTile} (hn : (x.sram.map (·.1)).Nodup) (j : Nat) (ks : List Nat) (m : Store (BitVec 8)) :
    sget (penBytes area x ks m) j = if ks.any (inPen area x j) then (sget x.sram j).or (sget m j) else sget m j := by
  have one : ∀ (m : Store (BitVec 8)) (k : Nat), sget (penBytes area x [k] m) j = if inPen area x j k then (sget x.sram j).or (sget m j) else sget m j := by
    intro m k
    unfold penBytes inPen
    rw [List.foldl_cons, List.foldl_nil]
    cases sget x.pens k with
    | none => rfl
    | some p =>
      rw [Option.elim_some, Option.any_some, sget_sover (srange_nodup _ _ hn), sget_srange]
      by_cases hlo : p.base * 4096 - area ≤ j
      · rw [if_pos hlo, Nat.add_sub_cancel' hlo]
        by_cases hhi : j < p.base * 4096 - area + p.size * 4096
        · rw [if_pos (by omega), if_pos (by simp [hlo, hhi])]
        · rw [if_neg (by omega), if_neg (by simp [hhi]), Option.none_or]
      · rw [if_neg hlo, if_neg (by simp [hlo])]
  induction ks generalizing m with
  | nil => rfl
  | cons k r ih =>
    rw [show penBytes area x (k :: r) m = penBytes area x r (penBytes area x [k] m) from rfl, ih, one, List.any_cons]
    cases inPen area x j k <;> cases r.any (inPen area x j) <;> simp [← Option.or_assoc]

theorem restoreTile_tab (s : State) (x : SavedTile) (tile rank : Nat) : (restoreTile s x tile rank).tab = s.tab :=
  (restoreTile_fields s x tile rank).2.2.2.2.2.2.2.2.1

/-- The troughs of a launch tile that is alone on its host. -/
def aloneTrough (t : Trough) : Trough := { t with waiters := rankWaiters 0 t }

theorem restoreHost_one (s : State) (x : SavedTile) (tile : Nat) :
    (restoreHost s [x] tile).tab.pens = sreplace s.tab.pens (tile * 1024) 1024 (listed (fun k => (sget x.pens k).map id) (x.pens.map (·.1))) ∧
    (restoreHost s [x] tile).tab.troughs =
      sreplace s.tab.troughs (tile * 64) 64 (listed (fun k => (sget x.troughs k).map (aloneTrough)) (x.troughs.map (·.1))) ∧
    ∃ m, (restoreHost s [x] tile).mem.sram =
      mreplace m (penArea s tile).1 (penArea s tile).2 true (penBytes (areaByte s tile) x (x.pens.map (·.1)) []) := by
  have tab := restoreTile_tab s x tile 0
  have area : areaByte (restoreTile s x tile 0) tile = areaByte s tile := by
    unfold areaByte planOf
    rw [tab]
  have pens : ∀ f, penArea (clearSram (restoreTile s x tile 0) f) tile = penArea s tile := fun f => by
    unfold penArea planOf
    rw [show (clearSram (restoreTile s x tile 0) f).tab = s.tab from tab]
  unfold restoreHost
  simp only [List.zipIdx_cons, List.zipIdx_nil, List.foldl_cons, List.foldl_nil, List.head?_cons, standing_one, penCopy_eq, Option.map_some,
    Option.getD_some, Option.bind_some, List.map_cons, List.map_nil, List.flatten_cons, List.flatten_nil, List.append_nil, area, pens]
  refine ⟨?_, ?_, (restoreTile s x tile 0).mem.sram, ?_⟩
  · refine congrArg₂ (fun m new => sreplace m (tile * 1024) 1024 new) (congrArg (·.pens) tab) (List.filterMap_congr fun k _ => ?_)
    dsimp only
    cases sget x.pens k <;> rfl
  · refine congrArg₂ (fun m new => sreplace m (tile * 64) 64 new) (congrArg (·.troughs) tab) (List.filterMap_congr fun k _ => ?_)
    dsimp only
    cases sget x.troughs k <;> rfl
  · refine congrArg (fun f => mreplace _ _ _ true (List.foldl f [] _)) (funext fun m => funext fun k => ?_)
    cases sget x.pens k <;> rfl

end RestoreHost

/-- The saved state of a launch tile on its tile, of one that is alone on its host, and of all hosts of a place in turn. -/
theorem states_restored : Claims.StatesRestored := by
  refine ⟨fun s x tile rank => ?tile, fun s x tile => ?host, fun s asid g old data xs hosts => ?all⟩
  case tile =>
    intro t
    obtain ⟨slots, windows, owned, pending, ops, outs, isl, ctxs, tab, sch⟩ := restoreTile_fields s x tile rank
    rw [show t.frm.slots = _ from slots, show t.frm.windows = _ from windows, show t.frm.owned = _ from owned, show t.flt.pending = _ from pending,
      show t.ops = _ from ops, show t.net.outs = _ from outs]
    refine ⟨fun hn k v hk => sget_sover_of_some hn _ _ hk, fun j hj => sget_sover_untouched hj _, fun hn k v hk => sget_sover_of_some hn _ _ hk, fun hr => ?_,
      fun o ho => ?_, fun o ho => List.mem_append_left _ ho, fun y hy => List.mem_append_right _ (List.mem_map_of_mem hy),
      fun e he => List.mem_append_right _ (List.mem_map_of_mem he), fun p hp => List.mem_append_right _ (List.mem_map_of_mem hp), ctxs, tab, sch⟩
    · obtain ⟨acc, next⟩ := isl hr
      rw [show t.isl.acc = _ from acc, show t.isl.next = _ from next]
      exact ⟨fun k hk => sget_sreplace _ _ hk, fun k hk => sget_sreplace _ _ hk⟩
    · exact ⟨movedOp tile rank o, List.mem_append_right _ (List.mem_map_of_mem ho), retranslated_keeps { o with tile := tile, rank := rank }⟩
  case host =>
    intro t
    obtain ⟨pens, troughs, m, sram⟩ := restoreHost_one s x tile
    refine ⟨fun _ => ⟨fun k hk => ?_, fun hn k p a hp hb hlo hhi ha => ?_⟩, fun _ k hk => ?_⟩
    · rw [show t.tab.pens = _ from pens, sget_sreplace _ _ hk, sget_listed_keys, Option.map_id]
      rfl
    · have place : tile * 2 ^ 24 + a = (penArea s tile).1 + (a - areaByte s tile) := by
        show _ = tile * 2 ^ 24 + areaByte s tile + _
        omega
      rw [show t.mem.sram = _ from sram, place, mget_mreplace_all (keysRise_nodup (keysRise_penBytes _ x _)) m (by omega)]
      unfold mget sgetD
      rw [sget_penBytes hn, if_pos (any_inPen hp hb hlo hhi)]
      cases sget x.sram (a - areaByte s tile) <;> rfl
    · rw [show t.tab.troughs = _ from troughs, sget_sreplace _ _ hk, sget_listed_keys, Option.map_map]
      rfl
  case all =>
    intro host
    refine congrArg (fun f => sortOps (hosts.foldl f s)) (funext fun s => funext fun h => ?_)
    dsimp only [host]
    rw [if_congr (show old.contains h.1 = true ↔ h.1 ∈ old by simp) rfl rfl]

end Sys2Proof.Machine

namespace Sys2Proof.Proofs

open Sys2Proof.Machine

/-- Settles O57: each clause from what its event does where its hypotheses hold; the save and the restore from what stores hold once they are cut out
and laid over. -/
theorem launchesComeAndGo : Obligations.LaunchesComeAndGo := by
  unfold Obligations.LaunchesComeAndGo
  refine ⟨changes_begin, states_saved, states_restored, changes_end, ?task, ?host, ?record, ?launch, ?retire, ?free, ?report, ?down, ?pass, ?grant,
    ?order, ?shrink, ?save, ?resume⟩
  case task =>
    intro s o h s0
    obtain ⟨h0, ho, hk, ht, hp, hh⟩ := h
    have intake : exec .launchIntake s = .next (deviceIntake s o) := exec_launchIntake_device h0 ho hk ht hp
    refine ⟨fun q hq ha he => ?_, fun hw => intake.trans (congrArg _ (deviceIntake_waits hw))⟩
    intro w s1 c n hr
    exact intake.trans (congrArg _ (deviceIntake_takes hh ha he hq hr))
  case host =>
    intro s hd k qp rva q h0 hi hq p w
    have intake : exec .launchIntake s = .next (hostIntake s s.occ.b) := execLaunchIntake_of_host h0
    rw [hostIntake_of_message hi hq] at intake
    refine ⟨fun hn ha => intake.trans (congrArg _ (if_neg ?_)), fun hw => intake.trans (congrArg _ (if_pos hw))⟩
    rintro (⟨m, hm, he⟩ | hc)
    · exact hn m hm he
    · rw [ha] at hc
      cases hc
  case record =>
    intro s s1 w va q ws s0
    refine ⟨fun inits secs h => ?_, fun c h => ?_⟩
    · refine ⟨by rw [takeRecord_of_good h], _, (queued_launch h).trans (sget_sset_same _ _ _), ?_⟩
      exact ⟨rfl, rfl, rfl, rfl, rfl, rfl, rfl, rfl, rfl, rfl, rfl, rfl⟩
    · rw [takeRecord_of_bad h]
      exact ⟨rfl, rfl⟩
  case launch =>
    intro s l h q
    refine ⟨fun hw => ⟨fun hc ha => ?_, fun hn => ?_⟩, fun hr hp hf => ⟨fun hn => ?_, fun hm => ?_⟩, fun he hp hs hf => ?_⟩
    · exact (execLaunchRecordAging_of_waiting h hw).trans (if_pos ⟨hc, ha⟩)
    · exact (execLaunchRecordAging_of_waiting h hw).trans (if_neg (by omega))
    · exact (execRunBarrierReached_of_idle h hr hp hf).trans (if_neg fun ⟨o, ho, hst, hq⟩ => hn o ho hst hq)
    · exact (execRunBarrierReached_of_idle h hr hp hf).trans (if_pos hm)
    · exact execLaunchEnd_of_ended h he hp hs hf
  case retire =>
    intro s q l hq
    refine ⟨retireIndex_frees s q l hq, fun t ht => ?_, fun t k hk ht => ?_⟩
    · rw [retireIndex_owner, ht, Option.map_some, if_pos rfl]
    · rw [retireIndex_owner, ht, Option.map_some, if_neg hk]
  case free =>
    intro s q l ho hl hg hb he hf t
    have freed : exec .tileFree s = _ := execTileFree_of_quiet ho hl hg hb he hf
    refine ⟨fun h => freed.trans (congrArg _ (if_neg ?_)), fun hn hs => freed.trans (congrArg _ (if_pos ⟨hs, hn⟩))⟩
    rintro ⟨hs, hn⟩
    rcases h with ⟨p, hp, hq⟩ | h
    · exact hn p hp hq
    · exact h hs
  case report =>
    intro s
    refine ⟨reportWord s s.occ.a, reportedBusy s s.occ.a, execQuadrantReport_eq s, ?_⟩
    intro present calm
    have hc : calm = calmTiles s s.occ.a := (calmTiles_eq s s.occ.a).symm
    rw [hc]
    exact ⟨reportWord_low s s.occ.a, fun t ht => reportedBusy_of_present ht, fun t ht => reportedBusy_of_other ht⟩
  case down => exact fun s h => execAllocationPass_of_down h
  case pass =>
    intro s hu hp
    refine ⟨fun h => execAllocationPass_of_none hu hp h, fun q l h hg => ?_⟩
    exact ⟨fun hv => execAllocationPass_of_no_victim hu hp h hg hv, fun v hv => execAllocationPass_of_victim hu hp h hg hv⟩
  case grant =>
    intro s q l o p f h hw hg ts s1
    rw [grantHeads_of_grant f h hg, grantRecord_of_waiting o p hw]
  case order =>
    intro s q l r h
    have sorted := waitingRecords_sorted s
    rw [h] at sorted
    exact ⟨(waitingRecords_head h).1, (List.pairwise_cons.1 sorted).1⟩
  case shrink =>
    intro s q gt dx dy l h
    refine ⟨fun hs ha he hf => ?_, fun hs ha hf => ?_, fun hs ha hq => ?_, fun b hs ha hq hr hl => ?_⟩
    · exact (execRegionShrink_of_running h hs ha).trans (if_pos ⟨he, hf⟩)
    · exact (execRegionShrink_of_running h hs ha).trans (if_neg fun hc => by rw [hf] at hc; exact Bool.false_ne_true hc.2)
    · obtain ⟨a, ha⟩ := Option.ne_none_iff_exists'.1 ha
      exact (execRegionShrink_of_shrinking h hs ha).trans (congrArg _ (if_neg fun hc => by rw [hq] at hc; exact Bool.false_ne_true hc.2.1))
    · exact (execRegionShrink_of_shrinking h hs ha).trans (congrArg _ (if_pos ⟨⟨rfl, rfl, rfl⟩, hq, hr, hl⟩))
  case save =>
    intro s l h hs q
    exact ⟨fun hq => execFullSave_of_busy h hs hq, fun hq hr hf s1 xs ht => execFullSave_of_quiet h hs hq hr hf ht⟩
  case resume =>
    intro s0 l h hs hp q s
    refine ⟨fun c hc => ⟨savedFault_cause hc, execResume_of_fault h hs hp hc⟩, fun a v ha hv ht => savedFault_of_bad_type ha hv ht,
      fun s1 c hc hi => execResume_of_no_image h hs hp hc hi, fun s1 bs hc hi => ?_⟩
    exact ⟨fun hn => execResume_of_no_place h hs hp hc hi hn, fun p hn => execResume_of_place h hs hp hc hi hn⟩

end Sys2Proof.Proofs

namespace Sys2Proof.Machine

/-! Start-up, power, the governor, links and device registers (R95, R377, R382, R403, R412, R436, R447, R449 to R454, R459). -/

/-! Steps of start-up (R449, R450). -/

section Startup

variable {s : State}

theorem execStartup_of_due (hu : s.dev.up = false) (hp : s.dev.p3 = false) (hr : s.host.recovery = false) : execStartup s = .next (startFromS0 s) := by
  unfold execStartup
  exact if_neg (by simp [hu, hp, hr])

theorem execStartup_of_done (h : s.dev.up = true ∨ s.dev.p3 = true ∨ s.host.recovery = true) : execStartup s = .next s := by
  unfold execStartup
  exact if_pos (by simpa [or_assoc] using h)

theorem startFromS0_of_bad_rom (h : s.health.rom = false) : startFromS0 s = setBoot s 0 (bootEntry (inputsOf s 0) 1 2) := by
  unfold startFromS0 stepS0
  rw [h]
  rfl

theorem startFromS2_of_bad_clocks (h : 2 ≤ s.health.clocks) : startFromS2 s = setBoot s 2 (bootEntry (inputsOf s 2) 2 2) := by
  have bad : decide (s.health.clocks < 2) = false := decide_eq_false (by omega)
  unfold startFromS2 stepS2
  dsimp only
  rw [bad, Nat.min_eq_left (by omega : 2 ≤ s.health.clocks + 1)]
  rfl

theorem lset_getD_same {α : Type} {l : List α} {n : Nat} (h : n < l.length) (x d : α) : (lset l n x).getD n d = x := by
  rw [lset_set, List.getD_eq_getElem?_getD, List.getElem?_set_self h, Option.getD_some]

/-- S1 records its failure and ends start-up. -/
theorem startFromS0_of_bad_fuses (hr : s.health.rom = true) (hf : s.health.fuses = false) (hb : s.dev.bootrec.length = 11) :
    (startFromS0 s).dev.up = s.dev.up ∧ (startFromS0 s).dev.bootrec.getD 1 0 = bootEntry (inputsOf s 1) 1 2 := by
  have fuses : (recordStep s 0 1 1).health.fuses = false := hf
  unfold startFromS0 stepS0
  rw [hr]
  dsimp only [if_true]
  unfold stepS1
  rw [if_pos rfl, fuses]
  refine ⟨rfl, lset_getD_same ?_ _ _⟩
  show 1 < (lset s.dev.bootrec 0 _).length
  rw [lset_set, List.length_set, hb]
  decide

theorem setUpTile_foldl_health (l : List Nat) (s : State) : (l.foldl setUpTile s).health = s.health := by
  refine foldl_keeps (fun t => t.health = s.health) setUpTile l s rfl ?_
  intro t x h
  exact h

theorem stepS8_of_image (h : s.health.image = true) :
    (stepS8 s).dev.up = s.health.measured ∧ (stepS8 s).dev.pv = true ∧ (stepS8 s).dev.parkb = Config.firmwareParkBase := by
  unfold stepS8
  rw [if_pos h]
  generalize ht : recordStep { s with dev := { s.dev with parkb := Config.firmwareParkBase, pv := true } } 8 1 1 = t
  have dev := (setUpTile_foldl (presentTiles t) t).1
  have health := setUpTile_foldl_health (presentTiles t) t
  refine ⟨(congrArg (·.measured) health).trans ?_, (congrArg (·.pv) dev).trans ?_, (congrArg (·.parkb) dev).trans ?_⟩
  · rw [← ht]
    rfl
  · rw [← ht]
    rfl
  · rw [← ht]
    rfl

theorem stepS8_of_recovery (h : s.health.image = false) (hr : recoveryBase s ≠ none) :
    (stepS8 s).dev.up = s.dev.up ∧ (stepS8 s).host.recovery = true := by
  have offered : (recoveryBase (recordStep s 8 1 2)).isNone = false := Option.isNone_eq_false_iff.2 (Option.isSome_iff_ne_none.2 hr)
  unfold stepS8
  rw [h]
  unfold recover
  dsimp only [if_false]
  rw [offered]
  exact ⟨rfl, rfl⟩

theorem stepS8_of_no_recovery (h : s.health.image = false) (hr : recoveryBase s = none) :
    (stepS8 s).dev.up = s.dev.up ∧ (stepS8 s).host.recovery = s.host.recovery := by
  have none_offered : (recoveryBase (recordStep s 8 1 2)).isNone = true := Option.isNone_iff_eq_none.2 hr
  unfold stepS8
  rw [h]
  unfold recover
  dsimp only [if_false]
  rw [none_offered]
  exact ⟨rfl, rfl⟩

/-- The recovery window lies in the row of the lowest present quadrant with a stack. -/
theorem recoveryBase_lowest {q : Nat} (h : recoveryBase s = some (q * (3 * stackBytes))) :
    q ∈ s.dev.quads ∧ ∀ k ∈ s.dev.quads, k < q → stacksOf s k = [] := by
  unfold recoveryBase at h
  obtain ⟨q', hq', he⟩ := Option.map_eq_some_iff.1 h
  have : q' = q := Nat.eq_of_mul_eq_mul_right (by decide) he
  subst this
  obtain ⟨hp, pre, post, hl, hpre⟩ := List.find?_eq_some_iff_append.1 hq'
  simp only [Bool.and_eq_true, List.contains_iff_mem] at hp
  have sorted : (pre ++ q' :: post).Pairwise (· < ·) := hl ▸ List.pairwise_lt_range
  refine ⟨hp.1, fun k hk hlt => ?_⟩
  have hmem : k ∈ pre ++ q' :: post := by
    have : q' < 4 := List.mem_range.1 (List.mem_of_find?_eq_some hq')
    rw [← hl]
    exact List.mem_range.2 (by omega)
  rcases List.mem_append.1 hmem with hk' | hk'
  · simpa [hk] using hpre k hk'
  · rcases List.mem_cons.1 hk' with rfl | hk'
    · omega
    · have := (List.pairwise_cons.1 (List.pairwise_append.1 sorted).2.1).1 k hk'
      omega

theorem newKeys_advances (m : Store Nat) {n k : Nat} (h : k < n) : sgetD (newKeys m n) k 0 = sgetD m k 0 + 1 := by
  have fold : ∀ (n : Nat), sgetD (newKeys m n) k 0 = if k < n then sgetD m k 0 + 1 else sgetD m k 0 := by
    intro n
    induction n with
    | zero => rfl
    | succ n ih =>
      have step : newKeys m (n + 1) = sset (newKeys m n) n (sgetD (newKeys m n) n 0 + 1) := by
        simp only [newKeys, upto, List.range_succ, List.foldl_append, List.foldl_cons, List.foldl_nil]
      by_cases hk : k = n
      · subst hk
        rw [if_neg (Nat.lt_irrefl _)] at ih
        rw [step, sgetD_sset_same, ih, if_pos (Nat.lt_succ_self _)]
      · rw [step, sgetD, sget_sset_other _ _ _ _ hk, ← sgetD, ih]
        by_cases hlt : k < n
        · rw [if_pos hlt, if_pos (by omega)]
        · rw [if_neg hlt, if_neg (by omega)]
  rw [fold, if_pos h]

theorem stepS7_keyEpoch (s : State) : (stepS7 s).dev.keyEpoch = newKeys s.dev.keyEpoch 36 := by
  unfold stepS7 recordStep
  rw [setBoot_dev_keyEpoch]

theorem stepS7_portKeys (s : State) : (stepS7 s).dev.portKeys = newKeys s.dev.portKeys 9 := by
  unfold stepS7 recordStep
  rw [setBoot_dev_portKeys]

end Startup

/-! Recovery (R451). -/

theorem sendFits_iff (sent : Nat) : sendFits sent = true ↔ Claims.Fits sent := by simp [sendFits, Claims.Fits]

theorem sttGood_iff (hd : BitVec 192) (sent typ : Nat) : sttGood (sttHeader hd sent) typ = true ↔ Claims.Framed hd sent typ := by
  simp [sttGood, sttHeader, bits, Claims.Framed, and_assoc]

/-- LEN is at least 0, so that a framed SEND has at least the 24 bytes of its header. -/
theorem fits_of_wellSent {hd : BitVec 192} {sent typ : Nat} (h : Claims.WellSent hd sent typ) : Claims.Fits sent := by
  obtain ⟨⟨-, -, -, -, hlen⟩, hhi⟩ := h
  exact ⟨by omega, hhi⟩

section Recovery

variable {s : State} {qp a : Nat} {hd : BitVec 192} {sent len : Nat} {p : Qp} (hr : s.host.recovery = true) (hq : qpOf s qp = some p)
  (ha : recoveryBase s = some a)
include hr hq ha

theorem execRecoveryImage_of_unfit (h : ¬ Claims.Fits sent) : execRecoveryImage qp hd sent len s = .next (Claims.nakked s qp) := by
  unfold execRecoveryImage
  rw [hr, hq, ha]
  exact if_pos (by rw [Bool.not_eq_true', ← Bool.not_eq_true, sendFits_iff]; exact h)

variable (hs : Claims.Fits sent)
include hs

theorem execRecoveryImage_of_unframed (h : ¬ Claims.Framed hd sent 3) :
    execRecoveryImage qp hd sent len s = .next (Claims.answered s qp hd sent 3 0x18) := by
  unfold execRecoveryImage
  rw [hr, hq, ha]
  dsimp only
  rw [(sendFits_iff sent).2 hs, if_neg (by decide)]
  exact if_pos (by rw [Bool.not_eq_true', ← Bool.not_eq_true, sttGood_iff]; exact h)

variable (hf : Claims.Framed hd sent 3)
include hf

theorem execRecoveryImage_of_framed : execRecoveryImage qp hd sent len s =
    if 2 ^ 28 < len then .next (Claims.answered s qp hd sent 4 0x18)
    else if Config.signatureGood s.fresh = true then
      .next (startFromS0 { coldState (correctAt s a len).tick with
        dev := { (coldState (correctAt s a len).tick).dev with flash := bytesOf len (homeBytes s 0 a len) },
        health := { (coldState (correctAt s a len).tick).health with image := true } })
    else .next (Claims.answered (correctAt s a len).tick qp hd sent 4 0x18) := by
  unfold execRecoveryImage
  rw [hr, hq, ha]
  dsimp only
  rw [(sendFits_iff sent).2 hs, if_neg (by decide), (sttGood_iff hd sent 3).2 hf, if_neg (by decide)]
  rfl

end Recovery

/-! The package's power (R452, R457, R459). -/

theorem launchGranted_iff (s : State) : launchGranted s = true ↔ ∃ p ∈ s.sch.launches, p.2.st ≠ .waiting ∧ p.2.st ≠ .saved := by
  unfold launchGranted
  rw [List.any_eq_true]
  simp only [Bool.and_eq_true, bne_iff_ne]

section PackagePower

variable {s : State}

theorem execSetPowerP3_of_p3 (h : s.dev.p3 = true) : execSetPowerP3 s = .next (manage s [0]) := if_pos h

theorem execSetPowerP3_of_granted (h : s.dev.p3 = false) (hl : ∃ p ∈ s.sch.launches, p.2.st ≠ .waiting ∧ p.2.st ≠ .saved) :
    execSetPowerP3 s = .next (manage s [1]) := by
  unfold execSetPowerP3
  rw [if_neg (by rw [h]; decide), if_pos ((launchGranted_iff s).2 hl)]

/-- The package in P3. -/
def asleep (s : State) : State :=
  { coldState (manage s [0]) with
    dev := { (coldState (manage s [0])).dev with p3 := true, level := defaultLevel (coldState (manage s [0])).dev.life } }

theorem execSetPowerP3_of_idle (h : s.dev.p3 = false) (hl : ∀ p ∈ s.sch.launches, p.2.st = .waiting ∨ p.2.st = .saved) :
    execSetPowerP3 s = .next (asleep s) := by
  have idle : ¬ launchGranted s = true := fun hg => by
    obtain ⟨p, hp, hw, hs⟩ := (launchGranted_iff s).1 hg
    exact (hl p hp).elim hw hs
  unfold execSetPowerP3
  rw [if_neg (by rw [h]; decide), if_neg idle]
  rfl

theorem execSetPowerP0_of_p3 (h : s.dev.p3 = true) :
    execSetPowerP0 s = .next (startFromS2 (manage { s with dev := { s.dev with p3 := false } } [0])) := if_pos h

theorem execSetPowerP0_of_p0 (h : s.dev.p3 = false) : execSetPowerP0 s = .next (manage s [0]) := if_neg (by rw [h]; decide)

end PackagePower

/-! Limit and governor (R436, R454). -/

section Governor

variable {s : State} {w : Nat}

theorem execSetPlimit_in_range (h25 : w % 25 = 0) (hhi : w ≤ 3000) (hlo : 1500 ≤ w) :
    execSetPlimit w s = .next (manage { s with dev := { s.dev with limit := w } } [0]) := by
  unfold execSetPlimit
  exact if_pos (by simp [h25, hhi, hlo])

theorem execSetPlimit_out_of_range (h : w % 25 ≠ 0 ∨ 3000 < w ∨ w < 1000) : execSetPlimit w s = .next (manage s [1]) := by
  unfold execSetPlimit
  refine if_neg fun hc => ?_
  simp only [Bool.and_eq_true, Bool.or_eq_true, beq_iff_eq, decide_eq_true_eq] at hc
  omega

theorem execGovernorMeasure_of_early (h : s.cyc % 1650 ≠ 0) : execGovernorMeasure w s = .next s := by
  unfold execGovernorMeasure
  exact if_pos (Or.inl h)

variable (hc : s.cyc % 1650 = 0) (hp : s.dev.p3 = false)
include hc hp

theorem execGovernorMeasure_above (h : s.dev.limit < w) : execGovernorMeasure w s =
    .next { s with dev := if 1 < s.dev.clkf then { s.dev with clkf := s.dev.clkf - 1 } else { s.dev with admitCap := max 1 (s.dev.admitCap - 1) } } := by
  unfold execGovernorMeasure
  dsimp only
  rw [if_neg (by simp [hc, hp]), if_pos h]

theorem execGovernorMeasure_below (h : w + 50 ≤ s.dev.limit) : execGovernorMeasure w s =
    .next { s with dev := if s.dev.admitCap < 32 then { s.dev with admitCap := s.dev.admitCap + 1 } else { s.dev with clkf := min 32 (s.dev.clkf + 1) } } := by
  unfold execGovernorMeasure
  dsimp only
  rw [if_neg (by simp [hc, hp]), if_neg (by omega), if_pos h]

theorem execGovernorMeasure_in_band (h : w ≤ s.dev.limit) (h' : s.dev.limit < w + 50) : execGovernorMeasure w s = .next s := by
  unfold execGovernorMeasure
  dsimp only
  rw [if_neg (by simp [hc, hp]), if_neg (by omega), if_neg (by omega)]

end Governor

/-! Links (R447). -/

theorem execMrlPlaneDown_of_up {s : State} {w : Nat} (h : w ∉ s.dev.planesDown) :
    execMrlPlaneDown w s = .next { s with dev := { s.dev with planesDown := s.dev.planesDown ++ [w] } } := by
  unfold execMrlPlaneDown
  rw [if_neg (by simpa using h)]

theorem execMrlPlaneDown_of_down {s : State} {w : Nat} (h : w ∈ s.dev.planesDown) : execMrlPlaneDown w s = .next s := by
  unfold execMrlPlaneDown
  rw [if_pos (by simpa using h)]

/-! Power states of quadrants and clocks of tiles (R377, R382, R412, R452, R453). -/

/-- A tile that P1 gates runs again. -/
def plainTile (s : State) (t : Nat) : State := if sget s.dev.gated t = some 0 then ungate s t else s

theorem plainTile_qreq_qcur (s : State) (t : Nat) : (plainTile s t).dev.qreq = s.dev.qreq ∧ (plainTile s t).dev.qcur = s.dev.qcur := by
  unfold plainTile
  split
  · exact ⟨rfl, rfl⟩
  · exact ⟨rfl, rfl⟩

theorem gated_plainTile {s : State} {t n : Nat} (h : sget (plainTile s t).dev.gated n = some 0) : n ≠ t ∧ sget s.dev.gated n = some 0 := by
  unfold plainTile at h
  split at h
  · rw [ungate, sget_sdel] at h
    split at h
    · cases h
    · next hn => exact ⟨hn, h⟩
  · next hn => exact ⟨fun e => hn (e ▸ h), h⟩

theorem plainTile_foldl (ts : List Nat) (s : State) :
    (ts.foldl plainTile s).dev.qreq = s.dev.qreq ∧ (ts.foldl plainTile s).dev.qcur = s.dev.qcur ∧
      ∀ n, sget (ts.foldl plainTile s).dev.gated n = some 0 → n ∉ ts ∧ sget s.dev.gated n = some 0 := by
  induction ts generalizing s with
  | nil => exact ⟨rfl, rfl, fun n h => ⟨List.not_mem_nil, h⟩⟩
  | cons x r ih =>
    obtain ⟨hq, hc, hg⟩ := ih (plainTile s x)
    obtain ⟨hq', hc'⟩ := plainTile_qreq_qcur s x
    rw [List.foldl_cons]
    refine ⟨hq.trans hq', hc.trans hc', fun n h => ?_⟩
    obtain ⟨hr, hn⟩ := hg n h
    obtain ⟨hx, hs⟩ := gated_plainTile hn
    exact ⟨fun hm => (List.mem_cons.1 hm).elim hx hr, hs⟩

section Quadrants

variable (s : State) (quad : Nat)

theorem setQreq_p0 : let t := setQreq s quad 0
    t.dev.qreq = sset s.dev.qreq quad 0 ∧ t.dev.qcur = sset s.dev.qcur quad 0 ∧ ∀ n ∈ quadTiles quad, sget t.dev.gated n ≠ some 0 := by
  obtain ⟨hq, hc, hg⟩ := plainTile_foldl (quadTiles quad)
    { s with dev := { s.dev with qreq := sset s.dev.qreq quad 0, qcur := sset s.dev.qcur quad 0 } }
  exact ⟨hq, hc, fun n hn h => (hg n h).1 hn⟩

theorem setQreq_p1 : let t := setQreq s quad 1
    t.dev.qreq = sset s.dev.qreq quad 1 ∧ t.dev.qcur = sset s.dev.qcur quad 1 :=
  gate1_foldl quad (quadTiles quad) { s with dev := { s.dev with qreq := sset s.dev.qreq quad 1, qcur := sset s.dev.qcur quad 1 } }

theorem setQreq_p2 : setQreq s quad 2 = { s with dev := { s.dev with qreq := sset s.dev.qreq quad 2 } } := rfl

end Quadrants

/-- No engine command of a tile is outstanding. -/
def enginesIdle (s : State) (tile : Nat) : Bool := !s.ops.any (fun p => p.tile == tile && isEngine p.kind && !stopped p)

theorem enginesIdle_iff (s : State) (tile : Nat) :
    enginesIdle s tile = true ↔ ∀ p ∈ s.ops, p.tile = tile → isEngine p.kind = true → stopped p = true := by
  simp [enginesIdle]

section Occasion

variable {s : State}

theorem quadrantQuiet_iff (s : State) (quad : Nat) : Claims.QuadrantQuiet s quad ↔
    ((quadTiles quad).all (fun t => tileResting s t && enginesIdle s t) && !s.net.mesh.any (fun f => quadOf f.tile == quad)) = true := by
  unfold Claims.QuadrantQuiet
  simp only [Bool.and_eq_true, List.all_eq_true, enginesIdle_iff, Bool.not_eq_true', List.any_eq_false, beq_iff_eq, ne_eq]

theorem execQuadrantEnterP2_of_quiet (hr : sget s.dev.qreq s.occ.a = some 2) (hc : sget s.dev.qcur s.occ.a ≠ some 2)
    (hq : Claims.QuadrantQuiet s s.occ.a) : execQuadrantEnterP2 s = .next { s with dev := { s.dev with qcur := sset s.dev.qcur s.occ.a 2 } } := by
  have awake : sgetD s.dev.qcur s.occ.a 0 ≠ 2 := by
    unfold sgetD
    cases h : sget s.dev.qcur s.occ.a with
    | none => decide
    | some v => exact fun e => hc (h.trans (congrArg some e))
  unfold execQuadrantEnterP2
  exact if_pos ⟨by rw [sgetD, hr]; rfl, awake, (quadrantQuiet_iff s s.occ.a).1 hq⟩

theorem execQuadrantEnterP2_of_stirring (h : ¬ Claims.QuadrantQuiet s s.occ.a) : execQuadrantEnterP2 s = .next s := by
  unfold execQuadrantEnterP2
  exact if_neg fun ⟨_, _, hq⟩ => h ((quadrantQuiet_iff s s.occ.a).2 hq)

theorem execQuadrantWake_of_traffic (hc : sget s.dev.qcur s.occ.a = some 2) (ha : aimedAt s s.occ.a = true) :
    execQuadrantWake s = .next (setQreq s s.occ.a 0) := by
  unfold execQuadrantWake
  exact if_pos ⟨by rw [sgetD, hc]; rfl, ha⟩

theorem execQuadrantWake_of_none (ha : aimedAt s s.occ.a = false) : execQuadrantWake s = .next s := by
  unfold execQuadrantWake
  exact if_neg fun ⟨_, h⟩ => by rw [ha] at h; cases h

theorem execTileClockWake_of_stirred (hg : sget s.dev.gated s.occ.a = some 0) (hs : stirred s s.occ.a = true) :
    execTileClockWake s = .next (ungate s s.occ.a) := by
  unfold execTileClockWake
  exact if_pos ⟨hg, hs⟩

theorem execTileClockWake_of_still (hs : stirred s s.occ.a = false) : execTileClockWake s = .next s := by
  unfold execTileClockWake
  exact if_neg fun ⟨_, h⟩ => by rw [hs] at h; cases h

/-! IDLE (R382). -/

variable {o : Op} (ho : s.ops.find? (fun o => o.tile == s.occ.a && isIdle o) = some o)
include ho

theorem execIdleRestart_of_queued (h : o.phase = .queued) : execIdleRestart s =
    if tileResting s s.occ.a = true ∧ ∀ p ∈ s.ops, p.tile = s.occ.a → isEngine p.kind = true → stopped p = true then
      .next (gate1 (setOp s { o with phase := .active, n := faultsAt s s.occ.a }) s.occ.a o.id)
    else .next s := by
  unfold execIdleRestart
  dsimp only
  rw [ho]
  dsimp only
  rw [h]
  refine (if_pos rfl).trans (if_congr ?_ rfl rfl)
  rw [Bool.and_eq_true]
  exact and_congr_right fun _ => enginesIdle_iff s s.occ.a

theorem execIdleRestart_of_gated (h : o.phase ≠ .queued) : execIdleRestart s =
    if arrives s s.occ.a = true ∨ o.n < faultsAt s s.occ.a then
      .next (if emitFits s o (statusLanes o.w [0]) = true then emitOp (ungate (dropOp s o.id) s.occ.a) o 13 (statusLanes o.w [0]) (fun h => h) else s)
    else .next (setOp s { o with n := faultsAt s s.occ.a }) := by
  unfold execIdleRestart
  dsimp only
  rw [ho]
  dsimp only
  refine (if_neg (by simpa using h)).trans (if_congr ?_ rfl rfl)
  simp

end Occasion

/-! What wakes a tile and a quadrant (R452, R453). -/

section Arrivals

variable {s : State}

theorem arrives_of_token_or_task {tile : Nat} (h : (∃ f ∈ s.net.mesh, f.tile = tile) ∨ ∃ r ∈ s.frm.ready, r.tile = tile) : arrives s tile = true := by
  unfold arrives
  rw [Bool.or_eq_true, Bool.or_eq_true, List.any_eq_true, List.any_eq_true]
  simp only [beq_iff_eq]
  exact h.elim (fun h => Or.inl (Or.inr h)) Or.inr

theorem not_arrives {tile : Nat} (hm : ∀ f ∈ s.net.mesh, f.tile ≠ tile) (hr : ∀ r ∈ s.frm.ready, r.tile ≠ tile)
    (ht : ∀ p ∈ s.tab.troughs, p.1 / 64 = tile → p.2.waiters = []) : arrives s tile = false := by
  have quiet : notifies s tile = false := by
    unfold notifies
    rw [List.any_eq_false]
    intro p hp hc
    rw [Bool.and_eq_true, beq_iff_eq] at hc
    rw [ht p hp hc.1] at hc
    cases hc.2
  unfold arrives
  rw [quiet, Bool.false_or, Bool.or_eq_false_iff, List.any_eq_false, List.any_eq_false]
  simp only [beq_iff_eq]
  exact ⟨hm, hr⟩

theorem aimedAt_of_notice_or_remote {quad : Nat}
    (h : (∃ p ∈ s.flt.pending, quadOf p.tile = quad ∧ p.fr.cause ∈ [causePreempt, causeSeqOrder, causeWatchdog]) ∨
      ∃ r ∈ s.syn.remotes, quadOf r.tile = quad) : aimedAt s quad = true := by
  unfold aimedAt fromOutside
  rw [Bool.or_eq_true, Bool.or_eq_true, List.any_eq_true, List.any_eq_true (l := s.syn.remotes)]
  rcases h with ⟨p, hp, hq, hc⟩ | ⟨r, hr, hq⟩
  · exact Or.inl (Or.inl ⟨p, hp, by simpa [hq, or_assoc] using hc⟩)
  · exact Or.inr ⟨r, hr, beq_iff_eq.2 hq⟩

end Arrivals

/-! Device registers (R95, R403, R447, R450). -/

section DeviceRegisters

variable {s : State} {pa : Nat} (v : Nat)

theorem setDevice64_seqtb (h : (pa - 0x018000000000) / 8 * 8 = 0x1000) :
    setDevice64 s pa v = { s with dev := { s.dev with seqtb := BitVec.ofNat 40 (v / 2 ^ 12) } } := by
  unfold setDevice64
  exact if_pos h

theorem setDevice64_seqtn (h : (pa - 0x018000000000) / 8 * 8 = 0x1008) :
    setDevice64 s pa v = { s with dev := { s.dev with seqtn := BitVec.ofNat 21 v } } := by
  unfold setDevice64
  rw [h]
  rfl

theorem setDevice64_parkb (h : (pa - 0x018000000000) / 8 * 8 = 0x2000) :
    setDevice64 s pa v = { s with dev := { s.dev with parkb := BitVec.ofNat 28 (v / 2 ^ 24), pv := bit v 0 } } := by
  unfold setDevice64
  rw [h]
  rfl

theorem setDevice64_pkgid (h : (pa - 0x018000000000) / 8 * 8 = 0x3000) :
    setDevice64 s pa v = { s with dev := { s.dev with pkgid := BitVec.ofNat 10 v, idv := bit v 10 } } := by
  unfold setDevice64
  rw [h]
  rfl

theorem setDevice64_bootrec (h : 0x4000 ≤ (pa - 0x018000000000) / 8 * 8) : setDevice64 s pa v = s := by
  unfold setDevice64
  dsimp only
  rw [if_neg (by omega), if_neg (by omega), if_neg (by omega), if_neg (by omega)]

end DeviceRegisters

end Sys2Proof.Machine

namespace Sys2Proof.Proofs

open Sys2Proof.Machine

/-- Settles O58: start-up by its steps, every other event from its exec function under the hypotheses of its clause. -/
theorem powerAndDeviceStateChange : Obligations.PowerAndDeviceStateChange := by
  unfold Obligations.PowerAndDeviceStateChange
  refine ⟨?startup, ?recovery, ?power, ?governor, ?quadrants, ?tiles, ?traffic, ?registers⟩
  case startup =>
    intro s
    refine ⟨execStartup_of_due, execStartup_of_done, startFromS0_of_bad_rom, startFromS2_of_bad_clocks, startFromS0_of_bad_fuses, stepS8_of_image,
      stepS8_of_recovery, stepS8_of_no_recovery, fun q h => recoveryBase_lowest h, rfl, rfl, rfl, rfl, fun n hn => ?_, fun n hn => ?_⟩
    · rw [stepS7_keyEpoch]
      exact newKeys_advances _ hn
    · rw [stepS7_portKeys]
      exact newKeys_advances _ hn
  case recovery =>
    intro s qp hd sent len a p hr hq ha i
    refine ⟨fun h => execRecoveryImage_of_unfit hr hq ha h, fun hs h => execRecoveryImage_of_unframed hr hq ha hs h, fun hw => ?_⟩
    have framed := execRecoveryImage_of_framed (len := len) hr hq ha (fits_of_wellSent hw) hw.1
    refine ⟨fun hl hg => ?_, fun hl => ?_, fun hl hg => ?_⟩
    · exact framed.trans ((if_neg (by omega)).trans (if_pos hg))
    · exact framed.trans (if_pos hl)
    · exact framed.trans ((if_neg (by omega)).trans (if_neg (by rw [hg]; decide)))
  case power =>
    intro s
    refine ⟨execSetPowerP3_of_p3, execSetPowerP3_of_granted, fun h hl => ⟨asleep s, execSetPowerP3_of_idle h hl, ?_⟩, execSetPowerP0_of_p3,
      execSetPowerP0_of_p0, ⟨_, rfl, ?_⟩, rfl, rfl⟩
    · exact ⟨rfl, rfl, rfl, rfl, rfl, rfl, rfl, rfl⟩
    · exact ⟨rfl, rfl, rfl, rfl, rfl, rfl, rfl, rfl⟩
  case governor =>
    intro s w
    refine ⟨execSetPlimit_in_range, execSetPlimit_out_of_range, fun hc hp => ⟨fun h hk => ?_, fun h hk => ?_, fun h hk => ?_, fun h hk => ?_, fun h h' => ?_⟩,
      execGovernorMeasure_of_early, execMrlPlaneDown_of_up, execMrlPlaneDown_of_down, rfl, rfl⟩
    · exact (execGovernorMeasure_above hc hp h).trans (by rw [if_pos hk])
    · exact (execGovernorMeasure_above hc hp h).trans (by rw [if_neg (by omega)])
    · exact (execGovernorMeasure_below hc hp h).trans (by rw [if_neg (by omega)])
    · exact (execGovernorMeasure_below hc hp h).trans (by rw [if_pos hk])
    · exact execGovernorMeasure_in_band hc hp h h'
  case quadrants =>
    intro s quad
    exact ⟨⟨_, rfl, setQreq_p0 s quad⟩, ⟨_, rfl, setQreq_p1 s quad⟩, congrArg Host.Outcome.next (setQreq_p2 s quad),
      fun hr hc hq => execQuadrantEnterP2_of_quiet hr hc hq, fun h => execQuadrantEnterP2_of_stirring h,
      fun hc ha => execQuadrantWake_of_traffic hc ha, fun ha => execQuadrantWake_of_none ha⟩
  case tiles =>
    intro s tile
    refine ⟨fun hg hs => execTileClockWake_of_stirred hg hs, fun hs => execTileClockWake_of_still hs, rfl, rfl, fun o ho => ?_⟩
    intro rests room faults wakes
    refine ⟨fun hq hr => ?_, fun hq hw hr => ?_, fun hq hw => ?_, fun h => ?_⟩
    · exact (execIdleRestart_of_queued ho hq).trans (if_pos hr)
    · exact (execIdleRestart_of_gated ho hq).trans ((if_pos hw).trans (congrArg _ (if_pos hr)))
    · exact (execIdleRestart_of_gated ho hq).trans (if_neg hw)
    · rcases h with ⟨hq, hr⟩ | ⟨hq, hw, hr⟩
      · exact (execIdleRestart_of_queued ho hq).trans (if_neg hr)
      · exact (execIdleRestart_of_gated ho hq).trans ((if_pos hw).trans (congrArg _ (if_neg hr)))
  case traffic => exact fun s tile => ⟨rfl, arrives_of_token_or_task, not_arrives, aimedAt_of_notice_or_remote⟩
  case registers =>
    intro s pa v
    refine ⟨?_, setDevice64_seqtb v, setDevice64_seqtn v, setDevice64_parkb v, setDevice64_pkgid v, setDevice64_bootrec v⟩
    rintro rfl rfl
    rfl

end Sys2Proof.Proofs

namespace Sys2Proof.Machine

/-! SC operations (R158 to R160, R415): the baton, ticket order, and a write of SMODE. -/

/-! An admitted operation performed (R158). -/

section Performed
variable {s : State} {id : Nat} {o : Op}

/-- An operation whose place at its node is taken away is the operation that it was. -/
theorem opById_unadmit (s : State) (id n : Nat) : opById (Claims.unadmit s id) n = opById s n := rfl

theorem performSc_of_gone (ho : opById s id = none) : performSc s id = Claims.unadmit s id := by
  have gone : opById (Claims.unadmit s id) id = none := (opById_unadmit s id id).trans ho
  unfold Claims.unadmit at gone ⊢
  simp only [performSc, gone]

variable (ho : opById s id = some o)
include ho

theorem performSc_of_no_lane (hl : scLane (Claims.unadmit s id) o = none) : performSc s id = Claims.unadmit s id := by
  have here : opById (Claims.unadmit s id) id = some o := (opById_unadmit s id id).trans ho
  unfold Claims.unadmit at here hl ⊢
  simp only [performSc, here, hl]

theorem performSc_of_ok {x : Lane} {p : Phys} {s1 : State} {v : Nat} (hl : scLane (Claims.unadmit s id) o = some (x, p))
    (hh : homeLane (Claims.unadmit s id) o x p = .ok s1 v) : performSc s id = complete (setLane s1 id { x with fin := true, res := v }) id := by
  have here : opById (Claims.unadmit s id) id = some o := (opById_unadmit s id id).trans ho
  unfold Claims.unadmit at here hl hh
  simp only [performSc, here, hl, hh]

theorem performSc_of_ue {x : Lane} {p : Phys} {s1 : State} {a : Nat} (hl : scLane (Claims.unadmit s id) o = some (x, p))
    (hh : homeLane (Claims.unadmit s id) o x p = .ue s1 a) : performSc s id = failOp s1 o causeMemUe 0 a := by
  have here : opById (Claims.unadmit s id) id = some o := (opById_unadmit s id id).trans ho
  unfold Claims.unadmit at here hl hh
  simp only [performSc, here, hl, hh]

end Performed

theorem performSc_scStep (s : State) (id : Nat) : Claims.ScStep s id (performSc s id) := by
  refine ⟨fun o x p s1 v ho hl hh => performSc_of_ok ho hl hh, fun o x p s1 a ho hl hh => performSc_of_ue ho hl hh, fun hn => ?_⟩
  cases ho : opById s id with
  | none => exact performSc_of_gone ho
  | some o => exact performSc_of_no_lane ho (hn o ho)

theorem foldl_performSc_scRun (ids : List Nat) (s : State) : Claims.ScRun ids s (ids.foldl performSc s) := by
  induction ids generalizing s with
  | nil => rfl
  | cons id ids ih => exact ⟨performSc s id, performSc_scStep s id, ih _⟩

/-! The baton and ticket order (R158, R160). -/

section Order
variable {s : State}

theorem execBatonVisit_of_free (hm : s.syn.smode = false) (hb : sget s.syn.stuck s.syn.baton = none) :
    execBatonVisit s = .next (((s.syn.admitted.filter (fun id => nodeOf s id == s.syn.baton)).take 8).foldl performSc
      { s with syn := { s.syn with baton := (s.syn.baton + 1) % 13 } }) :=
  if_neg (by simp [hm, hb])

theorem execBatonVisit_of_kept (h : s.syn.smode = true ∨ sget s.syn.stuck s.syn.baton ≠ none) : execBatonVisit s = .next s :=
  if_pos (by simpa [Option.isSome_iff_ne_none] using h)

theorem execTicketOrder_of_lowest {id : Nat} {rest : List Nat} (hm : s.syn.smode = true) (ha : s.syn.admitted = id :: rest) :
    execTicketOrder s = .next (performSc s id) := by
  simp only [execTicketOrder, hm, ha]

theorem execTicketOrder_of_none (h : s.syn.smode = false ∨ s.syn.admitted = []) : execTicketOrder s = .next s := by
  unfold execTicketOrder
  split
  · next hm ha => simp [hm, ha] at h
  · rfl

/-! A baton that is stuck (R415). -/

/-- The baton has stood at node `n` for too long, and tile 0 has room for the report. -/
def seqOrderDue (s : State) (n : Nat) : Prop :=
  s.syn.smode = false ∧ s.syn.baton = n ∧ (∃ since, sget s.syn.stuck n = some since ∧ since + 2 ^ 16 ≤ s.cyc) ∧ pendingCount s 0 < 1024

theorem execSeqOrder_of_due (h : seqOrderDue s s.occ.a) :
    execSeqOrder s = .next (frameless { s with syn := { s.syn with smode := true } } 0 causeSeqOrder 0x01 s.occ.a) := by
  obtain ⟨hm, hb, ⟨since, hs, hc⟩, hp⟩ := h
  have here : (!s.syn.smode && s.syn.baton == s.occ.a) = true := by simp [hm, hb]
  have late : (decide (since + 2 ^ 16 ≤ s.cyc) && decide (pendingCount s 0 < 1024)) = true := by rw [decide_eq_true hc, decide_eq_true hp]; rfl
  simp only [execSeqOrder, here, hs, late, if_true]

theorem execSeqOrder_of_not_due (h : ¬ seqOrderDue s s.occ.a) : execSeqOrder s = .next s := by
  unfold execSeqOrder
  split
  · next here =>
    rw [Bool.and_eq_true, Bool.not_eq_true', beq_iff_eq] at here
    obtain ⟨hm, hb⟩ := here
    split
    · next since hs =>
      refine if_neg fun late => h ?_
      rw [Bool.and_eq_true, decide_eq_true_eq, decide_eq_true_eq] at late
      obtain ⟨hc, hp⟩ := late
      exact ⟨hm, hb, ⟨since, hs, hc⟩, hp⟩
    · rfl
  · rfl

end Order

/-! Admission (R159, R160). -/

theorem admitSc_of_admitted {s : State} {o : Op} (hp : mayPerform s o = true) (ha : mayAdmit s o = true) :
    admitSc s o = { s with syn := { s.syn with admitted := s.syn.admitted ++ [o.id] } } :=
  if_pos (by rw [hp, ha]; rfl)

theorem admitSc_of_held {s : State} {o : Op} (h : mayPerform s o = false ∨ mayAdmit s o = false) : admitSc s o = s :=
  if_neg (by simpa [← Bool.not_eq_true, imp_iff_not_or] using h)

theorem execDramRequest_of_mayAdmit {s : State} {o : Op} (ho : Claims.Subject s o) (hp : mayPerform s o = true) (ha : mayAdmit s o = true) :
    execDramRequest s = .next { s with syn := { s.syn with admitted := s.syn.admitted ++ [o.id] } } := by
  simp [execDramRequest, show opById s s.occ.a = some o from ho, hp, ha]

theorem admitSc_ops (s : State) (o : Op) : (admitSc s o).ops = s.ops := by
  unfold admitSc
  split <;> rfl

/-- Admission moves no operation. -/
theorem opById_foldl_admitSc (os : List Op) (s : State) (id : Nat) : opById (os.foldl admitSc s) id = opById s id :=
  congrArg (·.find? (·.id == id)) (foldl_keeps (·.ops = s.ops) admitSc os s rfl fun t o h => (admitSc_ops t o).trans h)

/-! A write of SMODE (R160). -/

/-- The state with the new mode, in which the held operations are admitted. -/
def smodeChanged (s : State) (m : Bool) : State := s.ops.foldl admitSc { s with syn := { s.syn with smode := m, smodeNext := none } }

theorem opById_smodeChanged (s : State) (m : Bool) (id : Nat) : opById (smodeChanged s m) id = opById s id :=
  opById_foldl_admitSc s.ops _ id

section SmodeWrite
variable {s : State} {m : Bool} {id : Nat} (hw : s.syn.smodeNext = some (m, id))
include hw

theorem execSmodeWrite_of_admitted (ha : s.syn.admitted ≠ []) : execSmodeWrite s = .next s := by
  simp [execSmodeWrite, hw, ha]

theorem execSmodeWrite_of_performed (ha : s.syn.admitted = []) (hf : (opById s id).elim true (fun o => emitFits s o (statusLanes o.w [0])) = true) :
    execSmodeWrite s = .next (smodeToken (smodeChanged s m) id) := by
  have idle : (s.syn.admitted.isEmpty && (opById s id).elim true (fun o => emitFits s o (statusLanes o.w [0]))) = true := by rw [ha, hf]; rfl
  simp only [execSmodeWrite, hw]
  exact if_pos idle

theorem execSmodeWrite_of_no_op (ha : s.syn.admitted = []) (ho : opById s id = none) : execSmodeWrite s = .next (smodeChanged s m) := by
  rw [execSmodeWrite_of_performed hw ha (by rw [ho]; rfl)]
  simp only [smodeToken, opById_smodeChanged, ho]

theorem execSmodeWrite_of_op {o : Op} (ha : s.syn.admitted = []) (ho : opById s id = some o) (hf : emitFits s o (statusLanes o.w [0]) = true) :
    execSmodeWrite s = .next (emitOp (dropOp (smodeChanged s m) id) o 13 (statusLanes o.w [0]) (fun h => h)) := by
  rw [execSmodeWrite_of_performed hw ha (by rw [ho]; exact hf)]
  simp only [smodeToken, opById_smodeChanged, ho]

end SmodeWrite

end Sys2Proof.Machine

namespace Sys2Proof.Proofs
open Sys2Proof.Machine

/-- Settles O50: what a node performs is a run of `performSc`, one admitted operation after another; each other event from its exec function under
the hypotheses of its clause. -/
theorem scOperationsFollowTheirOrder : Obligations.ScOperationsFollowTheirOrder := by
  unfold Obligations.ScOperationsFollowTheirOrder
  refine ⟨fun s hm hb => ⟨_, execBatonVisit_of_free hm hb, foldl_performSc_scRun _ _⟩, fun s => execBatonVisit_of_kept,
    fun s id rest hm ha => ⟨_, execTicketOrder_of_lowest hm ha, performSc_scStep s id⟩, fun s => execTicketOrder_of_none,
    fun s => ⟨execSeqOrder_of_due, execSeqOrder_of_not_due⟩, ?smode, fun s o => ⟨admitSc_of_admitted, admitSc_of_held⟩,
    fun s o => execDramRequest_of_mayAdmit⟩
  case smode =>
    intro s m id hw
    exact ⟨execSmodeWrite_of_admitted hw, execSmodeWrite_of_no_op hw, fun o ha ho hf => execSmodeWrite_of_op hw ha ho hf⟩

end Sys2Proof.Proofs

namespace Sys2Proof.Machine

/-! The head turn of the agenda (R174, R212, R384, log entry 2): what each kind of turn performs. -/

section Issue
variable {s : State} {τ : Task}

theorem issueInstr_of_ok {i : Instr}
    (hd : decodeBlock (blockWord s τ s.occ.a s.occ.b τ.pos).toNat (blockWord s τ s.occ.a s.occ.b (τ.pos + 1)).toNat = .ok i) :
    issueInstr s τ = some i := by simp only [issueInstr, hd]

theorem issueInstr_of_error {e : Reject}
    (hd : decodeBlock (blockWord s τ s.occ.a s.occ.b τ.pos).toNat (blockWord s τ s.occ.a s.occ.b (τ.pos + 1)).toNat = .error e) :
    issueInstr s τ = none := by simp only [issueInstr, hd]

theorem mayIssue_of_word_left (hp : τ.pos ≤ τ.len) (hs : τ.step ≠ 1) : mayIssue τ = true := by simp [mayIssue, hp, hs]

theorem not_mayIssue (h : τ.len < τ.pos ∨ τ.step = 1) : mayIssue τ = false := by
  obtain h | h := h
  · simp [mayIssue, Nat.not_le.2 h]
  · simp [mayIssue, h]

theorem issueTurn_of_decoded {i : Instr} (hr : Runs s τ) (hm : mayIssue τ = true) (hi : issueInstr s τ = some i) : issueTurn s = exec i s := by
  simp only [issueTurn, show s.task? = some τ from hr, hm, hi, if_true]

theorem issueTurn_of_reserved (hr : Runs s τ) (hm : mayIssue τ = true) (hi : issueInstr s τ = none) :
    issueTurn s = exec .reservedOpcode s := by
  simp only [issueTurn, show s.task? = some τ from hr, hm, hi, if_true]

theorem issueTurn_of_done (hr : Runs s τ) (hm : mayIssue τ = false) : issueTurn s = .next s := by
  simp only [issueTurn, show s.task? = some τ from hr, hm, Bool.false_eq_true, if_false]

end Issue

section Sequence
variable {s : State} {q n : Nat} {l : Launch}

theorem seqTurn_of_ok {i : Instr} (hl : sget s.sch.launches q = some l) (hd : decodeSeq ((l.prog.drop l.pc).map (·.toNat)) = .ok (i, n)) :
    seqTurn q s = exec i s := by simp only [seqTurn, seqInstr, hl, hd]

theorem seqTurn_of_error {e : Reject} (hl : sget s.sch.launches q = some l) (hd : decodeSeq ((l.prog.drop l.pc).map (·.toNat)) = .error e) :
    seqTurn q s = exec .reservedSequencerWord s := by simp only [seqTurn, seqInstr, hl, hd]

end Sequence

section Turns
variable {s : State} {rest : List Turn}

theorem step_issue {tile elem : Nat} (h : s.agenda = .issue tile elem :: rest) : step s = issueTurn (Claims.onTurn s rest ⟨tile, elem, 0⟩) := by
  simp only [step, h, Claims.onTurn]

theorem step_seq {q : Nat} (h : s.agenda = .seq q :: rest) : step s = seqTurn q (Claims.onTurn s rest ⟨q, 0, 0⟩) := by
  simp only [step, h, Claims.onTurn]

theorem step_event {i : Instr} {o : Occasion} (h : s.agenda = .event i o :: rest) : step s = exec i (Claims.onTurn s rest o) := by
  simp only [step, h, Claims.onTurn]

theorem step_empty (h : s.agenda = []) : step s = .next { s with cyc := s.cyc + 1, agenda := enabled { s with cyc := s.cyc + 1 } } := by
  simp only [step, h, refill]

end Turns

/-! Executed lanes (R178, R179). -/

section Executed
variable {τ : Task} {l : Nat}

/-- R179: a lane below W whose predicate, where the latch is targeted, fires. -/
theorem predOk_iff : predOk τ l = true ↔ l < τ.w ∧
    (τ.pos ∈ τ.armed → ∃ p, laneOf (sgetD τ.pv τ.pos noLanes) l = some p ∧ decide (p ≠ 0) = (sgetD τ.sense τ.pos []).getD l true) := by
  unfold predOk
  cases laneOf (sgetD τ.pv τ.pos noLanes) l with
  | none => simp
  | some p => simp [imp_iff_not_or, bne, beq_eq_decide]

theorem laneOf_lanes2_eq_some {x y : Lanes} {f : Nat → Word → Word → Word} {v : Word} (h : l < 32) :
    laneOf (lanes2 τ x y f) l = some v ↔ predOk τ l = true ∧ ∃ a b, laneOf x l = some a ∧ laneOf y l = some b ∧ v = f l a b := by
  unfold lanes2
  rw [laneOf_mkLanes h]
  cases laneOf x l <;> cases laneOf y l <;> simp [eq_comm (a := v)]

end Executed

end Sys2Proof.Machine

namespace Sys2Proof.Proofs
open Sys2Proof.Machine

/-- Settles O3: one lemma for each kind of turn, and the cases of the decoder's answer. -/
theorem stepRunsDecodedInstruction : Obligations.StepRunsDecodedInstruction := by
  refine ⟨?issue, ?seq, fun s i o rest => step_event, fun s => step_empty⟩
  case issue =>
    intro s tile elem rest τ h hr s0 word
    rw [step_issue h]
    exact ⟨fun i hp hs hd => issueTurn_of_decoded hr (mayIssue_of_word_left hp hs) (issueInstr_of_ok hd),
      fun e hp hs hd => issueTurn_of_reserved hr (mayIssue_of_word_left hp hs) (issueInstr_of_error hd),
      fun hn => issueTurn_of_done hr (not_mayIssue hn)⟩
  case seq =>
    intro s q rest l h hl s0
    rw [step_seq h]
    exact ⟨fun i n => seqTurn_of_ok hl, fun e => seqTurn_of_error hl⟩

/-- Settles O6: the lanes of the two sources, and the predicate by what it asks of a lane. -/
theorem lanesExecuteWhereSourcesAndPredicateAllow : Obligations.LanesExecuteWhereSourcesAndPredicateAllow := by
  intro τ x y f l v hl
  rw [laneOf_lanes2_eq_some hl, predOk_iff, and_assoc]

end Sys2Proof.Proofs

namespace Sys2Proof.Machine

/-! What a target receives (R179, R211). -/

theorem merged_merge (old new : Lanes) : Claims.Merged old new (merge old new) := by
  intro l hl
  rw [merge, laneOf_mkLanes hl]
  cases laneOf new l <;> rfl

section Predicate
variable {τ : Task} {p q l : Nat} {v : Lanes} {sense : Bool}

theorem put_predicate (s : State) : put s τ (if sense then .onTrue p else .onFalse p) v = .ok (writePred τ p v sense) := by
  cases sense <;> rfl

theorem mem_armed_writePred : q ∈ (writePred τ p v sense).armed ↔ q = p ∨ q ∈ τ.armed := by
  unfold writePred
  by_cases hp : p ∈ τ.armed
  · simp only [List.contains_iff_mem.2 hp, if_true, iff_or_self]
    rintro rfl
    exact hp
  · simp [hp, or_comm]

theorem writePred_pv_same : sgetD (writePred τ p v sense).pv p noLanes = merge (sgetD τ.pv p noLanes) v := sgetD_sset_same _ _ _ _

theorem writePred_pv_other (h : q ≠ p) : sget (writePred τ p v sense).pv q = sget τ.pv q := sget_sset_other _ _ _ _ h

/-- R211: the sense stands with each lane that is written. -/
theorem writePred_sense (hl : l < 32) : (sgetD (writePred τ p v sense).sense p []).getD l true =
    if (laneOf v l).isSome then sense else (sgetD τ.sense p []).getD l true := by
  have field : sgetD (writePred τ p v sense).sense p [] =
      (List.range 32).map (fun l => if (laneOf v l).isSome then sense else (sgetD τ.sense p []).getD l true) := sgetD_sset_same _ _ _ _
  rw [field]
  simp [List.getD, hl]

end Predicate

/-- EMASK after a write: value ≠ 0 in each executed lane. -/
def emaskAfter (τ : Task) (v : Lanes) : List Bool := (List.range 32).map (fun l => (laneOf v l).elim (τ.emask.getD l false) (· != 0))

theorem put_emask (s : State) (τ : Task) (v : Lanes) : put s τ .emask v = .ok { τ with emask := emaskAfter τ v } := rfl

theorem emaskAfter_getD {τ : Task} {v : Lanes} {l : Nat} (hl : l < 32) : (emaskAfter τ v).getD l false =
    match laneOf v l with
    | some w => decide (w ≠ 0)
    | none => τ.emask.getD l false := by
  unfold emaskAfter
  cases hv : laneOf v l <;> simp [List.getD, hl, hv, bne, beq_eq_decide]

theorem put_temp (s : State) (τ : Task) (k : Nat) (v : Lanes) :
    put s τ (.temp k) v = .ok { τ with temps := τ.temps.set k (merge (τ.temps.getD k noLanes) v) } := by
  rw [← lset_set]
  rfl

/-! What a port receives (R180, R181, R190). -/

section Port
variable {s : State} {τ : Task} {n : Nat} {p : Port} {v : Lanes}

theorem put_port_of_no_lane (hp : portAt s n = some p) (ha : anyLane (emitLanes τ v) = false) : put s τ (.port n) v = .ok τ := by
  simp [put, emitWith, hp, ha]

theorem put_port_of_tag {g : Nat × Nat} (hp : portAt s n = some p) (ha : anyLane (emitLanes τ v) = true)
    (ht : tagOp s τ.cx.q τ.ctx τ.iter τ.cx.parent p.top (laneOf v 0) = .ok g) :
    put s τ (.port n) v = .ok { τ with cbuf := τ.cbuf ++ [.emit (emitHeader τ g τ.w) (emitLanes τ v) p.dests] } := by
  show emitWith s τ n v id = _
  rw [emitWith_eq hp ht, if_pos ha]
  rfl

end Port

section Tag
variable {s : State} {q c i : Nat} {parent : Option (BitVec 32)} {lane0 : Option Word} {v : Word}

theorem tagOp_of_not_last (h : i ≠ 0xFFFF) : tagOp s q c i parent 1 lane0 = .ok (c, i + 1) := if_neg h

theorem tagOp_of_live (h : ∃ x, ctxOf s (v.toNat % 2 ^ 16) = some x ∧ x.st = .live ∧ x.q = q) :
    tagOp s q c i parent 4 (some v) = .ok (v.toNat % 2 ^ 16, i) := if_pos (liveIn_iff.2 h)

end Tag

/-! The frame of a write (R179, R181). -/

/-- The task without what a target can change. -/
def Task.untargeted (τ : Task) : Task :=
  { τ with latA := [], latB := [], pv := [], sense := [], armed := [], temps := [], emask := [], cbuf := [] }

theorem taskKept_of_untargeted {τ τ' : Task} (h : τ'.untargeted = τ.untargeted) (n : Nat) : Claims.TaskKept τ (τ'.advance n) n := by
  simp only [Task.untargeted, Task.mk.injEq] at h
  simp [Claims.TaskKept, Task.advance, h]

/-- Between two tasks only what these targets name differs. -/
structure WroteOnly (ts : List Target) (τ τ' : Task) : Prop where
  rest : τ'.untargeted = τ.untargeted
  latA : (∀ t ∈ ts, ∀ p, t ≠ .latA p) → τ'.latA = τ.latA
  latB : (∀ t ∈ ts, ∀ p, t ≠ .latB p) → τ'.latB = τ.latB
  pred : (∀ t ∈ ts, ∀ p, t ≠ .onTrue p ∧ t ≠ .onFalse p) → τ'.pv = τ.pv ∧ τ'.sense = τ.sense ∧ τ'.armed = τ.armed
  temps : (∀ t ∈ ts, ∀ k, t ≠ .temp k) → τ'.temps = τ.temps
  emask : (∀ t ∈ ts, t ≠ .emask) → τ'.emask = τ.emask
  cbuf : (∀ t ∈ ts, ∀ k, t ≠ .port k) → τ'.cbuf = τ.cbuf

theorem WroteOnly.refl (ts : List Target) (τ : Task) : WroteOnly ts τ τ :=
  ⟨rfl, fun _ => rfl, fun _ => rfl, fun _ => ⟨rfl, rfl, rfl⟩, fun _ => rfl, fun _ => rfl, fun _ => rfl⟩

theorem WroteOnly.flags {ts : List Target} {τ τ' : Task} (h : WroteOnly ts τ τ') : τ'.flags = τ.flags :=
  show τ'.untargeted.flags = τ.untargeted.flags from congrArg Task.flags h.rest

theorem WroteOnly.trans {xs ys : List Target} {τ τ1 τ2 : Task} (h : WroteOnly xs τ τ1) (h' : WroteOnly ys τ1 τ2) : WroteOnly (xs ++ ys) τ τ2 := by
  have left {P : Target → Prop} (hp : ∀ t ∈ xs ++ ys, P t) : ∀ t ∈ xs, P t := fun t ht => hp t (List.mem_append_left _ ht)
  have right {P : Target → Prop} (hp : ∀ t ∈ xs ++ ys, P t) : ∀ t ∈ ys, P t := fun t ht => hp t (List.mem_append_right _ ht)
  refine ⟨h'.rest.trans h.rest, fun k => (h'.latA (right k)).trans (h.latA (left k)), fun k => (h'.latB (right k)).trans (h.latB (left k)),
    fun k => ?_, fun k => (h'.temps (right k)).trans (h.temps (left k)), fun k => (h'.emask (right k)).trans (h.emask (left k)),
    fun k => (h'.cbuf (right k)).trans (h.cbuf (left k))⟩
  rw [← (h.pred (left k)).1, ← (h.pred (left k)).2.1, ← (h.pred (left k)).2.2]
  exact h'.pred (right k)

/-- An emission adds at most one entry to the commit buffer. -/
theorem emitWith_cases {s : State} {τ τ' : Task} {n : Nat} {v : Lanes} {f : Header → Header} (h : emitWith s τ n v f = .ok τ') :
    τ' = τ ∨ ∃ e, τ' = { τ with cbuf := τ.cbuf ++ [e] } := by
  unfold emitWith at h
  split at h
  · cases h
  · next p hp =>
    dsimp only at h
    split at h
    · cases ht : tagFor s τ n p (laneOf v 0) with
      | error e =>
        rw [ht] at h
        cases h
      | ok g =>
        rw [ht] at h
        cases h
        exact .inr ⟨_, rfl⟩
    · cases h
      exact .inl rfl

theorem wroteOnly_entry (n : Nat) (τ : Task) (e : CbEntry) : WroteOnly [.port n] τ { τ with cbuf := τ.cbuf ++ [e] } := by
  constructor <;> simp [Task.untargeted]

theorem put_wroteOnly {s : State} {τ τ' : Task} {t : Target} {v : Lanes} (h : put s τ t v = .ok τ') : WroteOnly [t] τ τ' := by
  cases t with
  | port n =>
    obtain rfl | ⟨e, rfl⟩ := emitWith_cases h
    · exact .refl _ _
    · exact wroteOnly_entry n τ e
  | _ =>
    cases h
    constructor <;> simp [Task.untargeted, writePred]

/-! The frame of a block instruction that changes nothing but its task. -/

theorem onlyTask_setTask (s : State) (τ : Task) : Claims.OnlyTask s (s.setTask τ) :=
  ⟨rfl, fun k hk => sget_sset_other _ _ _ _ hk, by rw [peAt_setTask]⟩

theorem bytesKept_setTask (s : State) (τ : Task) : Claims.BytesKept s (s.setTask τ) := fun _ => ⟨rfl, rfl, rfl, rfl⟩

theorem eq_of_next {r : Result} {t u : State} (ht : r = .next t) (hu : r = .next u) : t = u := by
  rw [ht] at hu
  injection hu

end Sys2Proof.Machine

namespace Sys2Proof.Proofs
open Sys2Proof.Machine

/-- Settles O21: one lemma on `put` for each kind of target, and what a merge leaves in each lane. -/
theorem targetsReceiveExecutedLanes : Obligations.TargetsReceiveExecutedLanes := by
  intro s τ v
  refine ⟨fun p => ⟨_, rfl, merged_merge _ _⟩, fun p => ⟨_, rfl, merged_merge _ _⟩, fun k _ => ⟨_, put_temp s τ k v, merged_merge _ _⟩, rfl,
    ⟨_, put_emask s τ v, fun l => emaskAfter_getD⟩, fun p sense => ⟨_, put_predicate s, mem_armed_writePred.2 (.inl rfl), ?_, ?_, ?_, rfl, ?_⟩⟩
  · intro q hq
    rw [mem_armed_writePred, or_iff_right hq]
  · rw [writePred_pv_same]
    exact merged_merge _ _
  · exact fun l => writePred_sense
  · exact fun q => writePred_pv_other

/-- Settles O22: the emission by the tag that the port's operation answers, and that answer for each operation. -/
theorem portWritesEnterOneEmission : Obligations.PortWritesEnterOneEmission := by
  intro s τ n p v hp m
  refine ⟨put_port_of_no_lane hp, fun ha c i htag => put_port_of_tag (g := (c, i)) hp ha ?_⟩
  obtain ⟨top, rfl, rfl⟩ | ⟨top, hi, rfl, rfl⟩ | ⟨top, rfl, rfl⟩ | ⟨top, q, hq, rfl, rfl⟩ | ⟨top, w, hw, rfl, rfl, hx⟩ | ⟨top, w, hw, rfl, rfl⟩ := htag
  all_goals rw [top]
  · rfl
  · exact tagOp_of_not_last hi
  · rfl
  · rw [hq]; rfl
  · rw [hw]; exact tagOp_of_live hx
  · rw [hw]; rfl

/-- Settles O24: what `put` leaves of the task, and what a new task leaves of the state. -/
theorem laneInstructionFrame : Obligations.LaneInstructionFrame := by
  refine ⟨?one, ?pair⟩
  case one =>
    rintro i s u τ t v n g - ⟨τ', hput, hx⟩ hu
    obtain rfl := eq_of_next hx hu
    have w := put_wroteOnly hput
    have one {P : Target → Prop} (h : P t) : ∀ t' ∈ [t], P t' := List.forall_mem_singleton.2 h
    refine ⟨onlyTask_setTask _ _, bytesKept_setTask _ _, _, task_setTask _ _, taskKept_of_untargeted w.rest n, w.flags, fun k => w.latA (one k),
      fun k => w.latB (one k), fun k => w.pred (one k), fun k => w.temps (one k), fun k => w.emask (one k), fun k => w.cbuf (one k)⟩
  case pair =>
    rintro i s u τ x y a b g - ⟨τ1, τ2, h1, h2, hx⟩ hu both
    obtain rfl := eq_of_next hx hu
    have w : WroteOnly both _ τ2 := (put_wroteOnly h1).trans (put_wroteOnly h2)
    exact ⟨onlyTask_setTask _ _, bytesKept_setTask _ _, _, task_setTask _ _, taskKept_of_untargeted w.rest 1, w.flags, w.latA, w.latB, w.pred,
      w.temps, w.emask, w.cbuf⟩

/-- Settles O25: an entered operation stands in the commit buffer of the task, and the state has a new task alone. -/
theorem enteredOperationFrame : Obligations.EnteredOperationFrame := by
  intro i s u τ o _ hx hu
  obtain rfl := eq_of_next hx hu
  exact ⟨onlyTask_setTask _ _, bytesKept_setTask _ _, _, task_setTask _ _, taskKept_of_untargeted rfl 1, rfl, rfl, rfl, rfl, rfl, rfl, rfl, rfl, rfl⟩

end Sys2Proof.Proofs

namespace Sys2Proof.Machine

/-! The context that a parameter vector asks for (R194, R258). -/

/-- What the vector gives, and the issuing context's record elsewhere. -/
def askedCtx (x : Lanes) (old : Ctx) (maxw : Nat) (parent : Option (BitVec 32)) : Ctx :=
  let mask := Claims.wordOf x 5
  let base (k : Nat) : BitVec 56 :=
    if bit mask k then BitVec.ofNat 56 (Claims.wordOf x (8 + 2 * k) + Claims.wordOf x (9 + 2 * k) % 2 ^ 24 * 2 ^ 32) else old.bases.getD k 0
  { old with
    st := .reserved, w := min (Claims.wordOf x 0 % 64) maxw, bases := (upto 8).map base, seq := BitVec.ofNat 20 (Claims.wordOf x 4),
    seed := BitVec.ofNat 64 (Claims.wordOf x 2 + Claims.wordOf x 3 * 2 ^ 32), parent := parent, plan := bits (Claims.wordOf x 0) 8 4,
    iter0 := Claims.wordOf x 1 }

theorem asksFor_askedCtx (s : State) (τ : Task) (x : Lanes) (parent : Option (BitVec 32)) :
    Claims.AsksFor s τ x parent (askedCtx x τ.cx (maxW s τ.cx.q) parent) := by
  refine ⟨rfl, rfl, by simp [askedCtx, upto], fun k hk => ?_⟩
  simp [askedCtx, upto, List.getD, hk, bit]

/-- R258: what a vector may not have in its first six lanes, and the two lanes of each base register that it names. -/
def vectorBroken (x : Lanes) : Prop :=
  Claims.wordOf x 0 / 2 ^ 12 ≠ 0 ∨ bits (Claims.wordOf x 0) 6 2 ≠ 0 ∨ Claims.wordOf x 1 / 2 ^ 16 ≠ 0 ∨ Claims.wordOf x 4 / 2 ^ 20 ≠ 0 ∨
    Claims.wordOf x 5 / 2 ^ 8 ≠ 0 ∨
    (upto 8).all (fun k => !bit (Claims.wordOf x 5) k || ((laneOf x (8 + 2 * k)).isSome && (laneOf x (9 + 2 * k)).isSome)) = false ∨
    Claims.wordOf x 0 % 64 = 0 ∨ 32 < Claims.wordOf x 0 % 64

theorem ctxVector_iff (x : Lanes) : Claims.CtxVector x ↔ (∀ l, l < 6 → (laneOf x l).isSome) ∧ ¬ vectorBroken x := by
  have named : (upto 8).all (fun k => !bit (Claims.wordOf x 5) k || ((laneOf x (8 + 2 * k)).isSome && (laneOf x (9 + 2 * k)).isSome)) = true ↔
      ∀ k, k < 8 → Claims.wordOf x 5 / 2 ^ k % 2 = 1 → (laneOf x (8 + 2 * k)).isSome ∧ (laneOf x (9 + 2 * k)).isSome := by
    simp [upto, bit, imp_iff_not_or]
  unfold Claims.CtxVector vectorBroken bits
  rw [← named]
  simp only [not_or, Bool.not_eq_false]
  refine and_congr_right fun _ => ?_
  constructor
  · rintro ⟨h0, h6, h1, h32, hi, hs, hm, hb⟩
    exact ⟨by omega, by omega, by omega, by omega, by omega, hb, by omega, by omega⟩
  · rintro ⟨h0, h6, hi, hs, hm, hb, h1, h32⟩
    exact ⟨by omega, by omega, by omega, by omega, by omega, by omega, by omega, hb⟩

section Vector
variable {x : Lanes} (old : Ctx) (maxw : Nat) (parent : Option (BitVec 32))

theorem vectorCtx_of_lane_missing {l : Nat} (hl : l < 6) (h : laneOf x l = none) : vectorCtx (fun l => laneOf x l) old maxw parent = none := by
  unfold vectorCtx
  split
  · obtain rfl | rfl | rfl | rfl | rfl | rfl : l = 0 ∨ l = 1 ∨ l = 2 ∨ l = 3 ∨ l = 4 ∨ l = 5 := by omega
    all_goals simp_all
  · rfl

theorem vectorCtx_of_lanes (h : ∀ l, l < 6 → (laneOf x l).isSome) [Decidable (vectorBroken x)] :
    vectorCtx (fun l => laneOf x l) old maxw parent = if vectorBroken x then none else some (askedCtx x old maxw parent) := by
  have word (l : Nat) (hl : l < 6) : laneOf x l = some (BitVec.ofNat 32 (Claims.wordOf x l)) := by
    obtain ⟨w, hw⟩ := Option.isSome_iff_exists.1 (h l hl)
    simp [Claims.wordOf, hw]
  have small (l : Nat) : Claims.wordOf x l % 2 ^ 32 = Claims.wordOf x l := Nat.mod_eq_of_lt (BitVec.isLt _)
  unfold vectorCtx
  simp only [word 0 (by decide), word 1 (by decide), word 2 (by decide), word 3 (by decide), word 4 (by decide), word 5 (by decide),
    BitVec.toNat_ofNat, small]
  refine if_congr ?_ rfl rfl
  simp [vectorBroken, or_assoc]

theorem vectorCtx_of_ctxVector (h : Claims.CtxVector x) : vectorCtx (fun l => laneOf x l) old maxw parent = some (askedCtx x old maxw parent) := by
  classical
  obtain ⟨hl, hb⟩ := (ctxVector_iff x).1 h
  rw [vectorCtx_of_lanes _ _ _ hl, if_neg hb]

theorem vectorCtx_of_not_ctxVector (h : ¬ Claims.CtxVector x) : vectorCtx (fun l => laneOf x l) old maxw parent = none := by
  classical
  by_cases hl : ∀ l, l < 6 → (laneOf x l).isSome
  · rw [vectorCtx_of_lanes _ _ _ hl, if_pos (not_not.1 fun hb => h ((ctxVector_iff x).2 ⟨hl, hb⟩))]
  · obtain ⟨l, h6, hn⟩ : ∃ l, l < 6 ∧ laneOf x l = none := by simpa using hl
    exact vectorCtx_of_lane_missing _ _ _ h6 hn

end Vector

/-! The reservation (R194, R259, R260). -/

section NewContext
variable {s : State} {τ : Task} {x : Lanes} {th : Bool} {parent : Option (BitVec 32)}

theorem newContext_of_broken (h : ¬ Claims.CtxVector x) : newContext s τ x th parent = stop causeBadSource 0 := by
  simp only [newContext, vectorCtx_of_not_ctxVector _ _ _ h]

theorem newContext_of_no_plan (h : Claims.CtxVector x) (hp : sget s.tab.fplans (s.occ.a * 16 + Claims.wordOf x 0 / 2 ^ 8 % 2 ^ 4) = none) :
    newContext s τ x th parent = stop causeBadSource 0 := by
  simp only [newContext, vectorCtx_of_ctxVector _ _ _ h]
  exact if_pos (Option.isNone_iff_eq_none.2 hp)

variable (h : Claims.CtxVector x) (hp : (sget s.tab.fplans (s.occ.a * 16 + Claims.wordOf x 0 / 2 ^ 8 % 2 ^ 4)).isSome)
include h hp

theorem newContext_of_free {k : Nat} (hf : lowestFree s τ.cx.q = some k) :
    newContext s τ x th parent = .ok (k, askedCtx x τ.cx (maxW s τ.cx.q) parent) := by
  simp only [newContext, vectorCtx_of_ctxVector _ _ _ h, hf]
  exact if_neg (by rwa [Bool.not_eq_true, Option.isNone_eq_false_iff])

theorem newContext_of_none_free (hf : lowestFree s τ.cx.q = none) :
    newContext s τ x th parent = .error (if th then .throttle false else .fault causeTagExhaust 0 0) := by
  simp only [newContext, vectorCtx_of_ctxVector _ _ _ h, hf]
  rw [if_neg (by rwa [Bool.not_eq_true, Option.isNone_eq_false_iff])]
  cases th <;> rfl

end NewContext

/-- A context is asked for: lane 0 of the vector is valid and executes. -/
def asksContext (τ : Task) (x : Lanes) : Prop := predOk τ 0 = true ∧ (laneOf x 0).isSome = true

/-- The context that a SPAWN names as its child's parent. -/
def parentTag (τ : Task) : BitVec 32 := BitVec.ofNat 32 (τ.ctx * 2 ^ 16 + τ.iter)

section Ctxa
variable {s : State} {τ : Task} {a : Src} {th : Bool} {t : Target} (hr : Runs s τ) (hs : SrcsOk τ [a]) (ht : targetOk s τ t = true)
  (ha : asksContext τ (readSrc τ false a))
include hr hs ht ha

theorem execCtxa_of_error {e : Stop} (h : newContext s τ (readSrc τ false a) th none = .error e) :
    execCtxa a th t s = .next (endTask s τ e) := by
  refine runBody_stop hr ?_
  simp only [operands_ok hs ht, ha.1, ha.2, h]
  rfl

theorem execCtxa_of_ok {k : Nat} {c : Ctx} {τ' : Task} (h : newContext s τ (readSrc τ false a) th none = .ok (k, c))
    (hput : let τ1 := { τ with reserved := τ.reserved ++ [k] }
      put { s with ctxs := sset s.ctxs k c } (τ1.enter (mkOp s τ1 (.ctxa k) none noLanes noLanes [])) t
        (lanesOf [BitVec.ofNat 32 (k + (c.w - 1) * 2 ^ 16)]) = .ok τ') :
    execCtxa a th t s = .next ({ s with ctxs := sset s.ctxs k c }.setTask (τ'.advance 1)) := by
  refine runBody_ok hr ?_
  simp only [operands_ok hs ht, ha.1, ha.2, h]
  show (finish _ _ _ _ >>= _) = _
  rw [reserveCtx, finish_ok hput]
  rfl

end Ctxa

theorem body_ok_bind {α β : Type} (x : α) (f : α → Body β) : (Except.ok x : Body α) >>= f = f x := rfl

/-- R260: the hitch that a SPAWN releases to its child. -/
def spawnVa (x : Lanes) : Nat := Claims.wordOf x 6 + Claims.wordOf x 7 % 2 ^ 24 * 2 ^ 32

/-- The argument lanes that a SPAWN sends to a child of width `w`. -/
def spawnArg (τ : Task) (y : Lanes) (w : Nat) : Lanes := mkLanes (fun l => if l < w ∧ predOk τ l = true then laneOf y l else none)

/-- The task once its SPAWN of context `k` is entered. -/
def spawnEntered (s : State) (τ : Task) (x y : Lanes) (hv : Bool) (n k w : Nat) : Task :=
  let τ1 := { τ with reserved := τ.reserved ++ [k] }
  τ1.enter (mkOp s τ1 (.spawn k hv) (some n) (spawnArg τ y w) noLanes (if hv then [Claims.access 0 (spawnVa x : Int) 64 0 0] else []))

/-- What is left of a SPAWN once its context is found: the child's width, the hitch's alignment, and the reservation. -/
def spawnReserved (s : State) (τ : Task) (x y : Lanes) (hv : Bool) (n k : Nat) (c : Ctx) : Body (State × Task) := do
  check (decide (c.w ≤ τ.w)) causeLaneMismatch
  check (!hv || spawnVa x % 64 == 0) causeAlign (spawnVa x)
  .ok ({ s with ctxs := sset s.ctxs k c }, (spawnEntered s τ x y hv n k c.w).advance 1)

section Spawn
variable {s : State} {τ : Task} {a b : Src} {th hv : Bool} {n k : Nat} {c : Ctx} {p : Port} (hr : Runs s τ) (hs : SrcsOk τ [a, b])
  (hp : portAt s n = some p) (htop : p.top = 0) (ha : asksContext τ (readSrc τ false a))
  (hx : hv = true → (laneOf (readSrc τ false a) 6).isSome ∧ (laneOf (readSrc τ false a) 7).isSome)

include hs hp htop ha hx in
/-- A SPAWN whose operands pass asks for its context, and goes on with what it finds. -/
theorem execSpawn_body : ∃ f, execSpawn a b th hv (.port n) s = runBody f s ∧
    f s τ = newContext s τ (readSrc τ false a) th (some (parentTag τ)) >>=
      fun r => spawnReserved s τ (readSrc τ false a) (readSrc τ true b) hv n r.1 r.2 := by
  refine ⟨_, rfl, ?_⟩
  have lanes : (!hv || (laneOf (readSrc τ false a) 6).isSome && (laneOf (readSrc τ false a) 7).isSome) = true := by
    cases hv with
    | false => rfl
    | true => simpa using hx rfl
  have port : needPort s τ (.port n) = .ok n := needPort_ok (by rw [hp]; rfl)
  have same : ((portAt s n).elim false (fun p => p.top == 0)) = true := by simp [hp, htop]
  simp only [check_true (srcOk_two hs), port, body_ok_bind, check_true same, ha.1, ha.2, Bool.and_self, if_true, check_true lanes,
    ← parentTag.eq_def]
  simp only [spawnReserved, spawnEntered, spawnArg, Bool.and_eq_true, decide_eq_true_eq]
  rfl

include hr hs hp htop ha hx

theorem execSpawn_of_error {e : Stop} (h : newContext s τ (readSrc τ false a) th (some (parentTag τ)) = .error e) :
    execSpawn a b th hv (.port n) s = .next (endTask s τ e) := by
  obtain ⟨f, hf, hb⟩ := execSpawn_body (th := th) hs hp htop ha hx
  rw [hf]
  exact runBody_stop hr (by rw [hb, h]; rfl)

theorem execSpawn_of_wide (h : newContext s τ (readSrc τ false a) th (some (parentTag τ)) = .ok (k, c)) (hw : τ.w < c.w) :
    execSpawn a b th hv (.port n) s = .next (endTask s τ (.fault causeLaneMismatch 0 0)) := by
  obtain ⟨f, hf, hb⟩ := execSpawn_body (th := th) hs hp htop ha hx
  rw [hf]
  refine runBody_stop hr ?_
  rw [hb, h, body_ok_bind, spawnReserved, check_false (decide_eq_false (Nat.not_le.2 hw))]
  rfl

theorem execSpawn_of_fit (h : newContext s τ (readSrc τ false a) th (some (parentTag τ)) = .ok (k, c)) (hw : c.w ≤ τ.w)
    (hal : hv = true → spawnVa (readSrc τ false a) % 64 = 0) : execSpawn a b th hv (.port n) s =
      .next ({ s with ctxs := sset s.ctxs k c }.setTask ((spawnEntered s τ (readSrc τ false a) (readSrc τ true b) hv n k c.w).advance 1)) := by
  obtain ⟨f, hf, hb⟩ := execSpawn_body (th := th) hs hp htop ha hx
  rw [hf]
  refine runBody_ok hr ?_
  have aligned : (!hv || spawnVa (readSrc τ false a) % 64 == 0) = true := by
    cases hv with
    | false => rfl
    | true => simpa using hal rfl
  rw [hb, h, body_ok_bind, spawnReserved, check_true (decide_eq_true hw), check_true aligned]
  rfl

end Spawn

theorem spawnVa_mod (x : Lanes) : spawnVa x % 64 = Claims.wordOf x 6 % 64 := by
  unfold spawnVa
  omega

theorem srcsOk_first {τ : Task} {a b : Src} (h : SrcsOk τ [a, b]) : SrcsOk τ [a] := fun x hx => h x (List.mem_append_left [b] hx)

/-- Where the context cannot be reserved, CTXA and SPAWN end alike. -/
theorem reserving_ends {s : State} {τ : Task} {a b : Src} {th : Bool} {t : Target} {n : Nat} {p : Port} {e : Stop} (hr : Runs s τ)
    (hs : SrcsOk τ [a, b]) (ht : targetOk s τ t = true) (hp : portAt s n = some p) (htop : p.top = 0) (ha : asksContext τ (readSrc τ false a))
    (h : ∀ parent, newContext s τ (readSrc τ false a) th parent = .error e) :
    ∀ i ∈ [Instr.ctxa a th t, .spawn a b th false (.port n)], exec i s = .next (endTask s τ e) := by
  simp only [List.mem_cons, List.not_mem_nil, or_false]
  rintro i (rfl | rfl)
  · exact execCtxa_of_error hr (srcsOk_first hs) ht ha (h _)
  · exact execSpawn_of_error hr hs hp htop ha (by simp) (h _)

end Sys2Proof.Machine

namespace Sys2Proof.Proofs
open Sys2Proof.Machine

/-- Settles O41: what the search for a context answers, and how CTXA and SPAWN go on with each answer. -/
theorem contextsAreReservedAtIssue : Obligations.ContextsAreReservedAtIssue := by
  intro a b th t n p s τ hr hs ht hp htop hpred hlane x plan forms
  have ha : asksContext τ x := ⟨hpred, hlane⟩
  refine ⟨fun hv => ?broken, fun hv hpl => ?noPlan, fun hv hpl hf => ?noneFree, fun k hv hpl hf => ⟨?ctxa, ?spawn⟩⟩
  case broken => exact reserving_ends hr hs ht hp htop ha fun _ => newContext_of_broken hv
  case noPlan => exact reserving_ends hr hs ht hp htop ha fun _ => newContext_of_no_plan hv hpl
  case noneFree =>
    have ends := reserving_ends (b := b) hr hs ht hp htop ha fun _ => newContext_of_none_free (th := th) hv hpl hf
    exact ⟨fun h => by subst h; exact ends, fun h => by subst h; exact ends⟩
  case ctxa =>
    refine ⟨_, asksFor_askedCtx s τ x none, fun hlands => ?_⟩
    obtain ⟨τ', hput⟩ := put_ok hlands
    exact ⟨τ', hput, execCtxa_of_ok hr (srcsOk_first hs) ht ha (newContext_of_free hv hpl hf) hput⟩
  case spawn =>
    intro hitch hh
    have hx : hitch = true → (laneOf x 6).isSome ∧ (laneOf x 7).isSome := fun h => by
      obtain ⟨lo, hi, h6, h7, -⟩ := hh h
      simp [h6, h7]
    refine ⟨_, asksFor_askedCtx s τ x (some (parentTag τ)), fun hw => ?_, fun hw => ?_⟩
    · exact execSpawn_of_wide hr hs hp htop ha hx (newContext_of_free hv hpl hf) hw
    · refine execSpawn_of_fit hr hs hp htop ha hx (newContext_of_free hv hpl hf) hw fun h => ?_
      obtain ⟨lo, hi, h6, -, hal⟩ := hh h
      rw [spawnVa_mod]
      simpa [Claims.wordOf, x, h6] using hal

end Sys2Proof.Proofs

namespace Sys2Proof.Laws.RoundTrip

/-! The round trip of encoder and decoder (R208 to R222, R384), for all constructors together. -/

theorem sequencing_eq_sequences (i : Instr) : sequencing i = Claims.sequences i := by
  cases i <;> rfl

/-- One law for each constructor, in the order of the constructors. -/
theorem statement_of_instr (i : Instr) : Statement i :=
  i.rec
    regionShrink governorMeasure recoveryImage mrlPlaneDown mrlKeyChange rdmaWrite rdmaRead rdmaInvalidRequest sttLaunch sttTokens mrreg mrdereg
    ctrlPreempt ctrlHalt ctrlFwd getVersion getCapabilities negotiateAlgorithms getDigests getCertificate challenge getMeasurements keyExchange
    finish debugUnlock spdmUnsupportedRequest setPlimit fwd steer steerc split pack unpack addP subP andP orP xorP shlP shrP sraP minP maxP cmpP
    faddP fsubP fmulP fminP fmaxP fcmpP add sub mul mulh mulhu div divu rem remu and or xor andn shl shr sra rot min max minu maxu abs clz ctz popc
    brev sxb sxh sx4 zxb zxh zx4 bfx bfi cmp sel lea switchPol switchLane laff lxor lvcnt lvfst fadd fsub fmul ffma fmin fmax fabs fneg fcpys fcpyn
    fxsgn fcmp fclass fcvt frnd ftoi itof hadd2 hmul2 hfma2 ex2 lg2 rcp rsq sqrt sin cos tanh fdiv lred lscan shuf lbc vdot tacc cbdec ltld scacc
    scmul amax rng li lih lit addi andi ori xori shli shri srai cmpeqi cmplti cmpltui mfs ldp stp ld st ldch pref sflush sinv amo cas amosc amof
    hacq hrel htry hbind hunb fence bar wait give qrsv qpost qtake qfree qstat dcopyG2p dcopyP2g dcopyP2p dcopyP2t dcopyApp dgath dscat dhop dbcst
    dred mma mzero mdrn mlda etld fold ffin ncfg brcfg brcfgStat reinld sendx cancel commit ctxa ctxf spawn launch mts trap brk eres esc ekill mfsr
    mtsr tbi shinv plbc prbld cfgld gait idle park sqEnd sqCfg sqRun sqIf sqJmp sqGait sqSig sttDiscard connectionManager mrlPlaneUp tokenArrival
    cancelTokenArrival taskFire blockCommit outputBufferSend loadResponseReturn taskClassAging bankGrant sramScrub dramScrub dramRequest
    translationMiss pageWalk walkComplete asyncFaultReport faultDelivery supervisorFaultDequeue watchdog stageBalance launchRecordAging
    launchIntake allocationPass fullSave resume tileFree quadrantReport launchEnd runBarrierReached contextFree batonVisit seqOrder stashFill
    stashEviction hitchRequestArrival hitchReleaseArrival hitchGrantArrival barrierArrival giveFlip drayCommandStart drayComplete drayFail
    remoteDrayWrite dhopArrival dredCombine append appendRetry baleLookup placementMiss tbShootdownArrival tbiCompletion baleShootdownArrival
    shinvCompletion placementBroadcastArrival plbcCompletion troughWaiterServe mmaApply mzeroApply mldaApply mdrnApply etldApply foldApply
    foldRetry ffinApply taccApply commitEntry normaliserSegment bridleSegment reinldApply prbldApply edgeEgressWrite edgeIngressInject ldchNode
    waitEmit fenceRelease halt stepHalt idleRestart quadrantEnterP2 quadrantWake tileClockWake startup getTelemetry setPowerP3 setPowerP0
    getBootrec smodeWrite qreqP0 qreqP1 qreqP2 gerrClear svecWrite deviceRegisterWrite sqBar reservedOpcode reservedSequencerWord ticketOrder
    groomInboxArrival powerLoss

section Words
variable {i : Instr} {w : Nat} {ws : List Nat} (hw : i.wf = true) (he : encode i = w :: ws)
include hw he

theorem decodeBlock_of_encode (hs : Claims.sequences i = false) (next : Nat) : decodeBlock w (ws.headD next) = .ok i := by
  have h := statement_of_instr i hw
  rw [he, sequencing_eq_sequences, hs] at h
  exact h next

theorem decodeSeq_of_encode (hs : Claims.sequences i = true) (rest : List Nat) : decodeSeq (w :: ws ++ rest) = .ok (i, ws.length + 1) := by
  have h := statement_of_instr i hw
  rw [he, sequencing_eq_sequences, hs] at h
  exact h rest

end Words

/-- The words from the tables are those of well-formed block instructions of one word. -/
theorem encode_wordsRead : ∀ p ∈ Claims.wordsRead, p.2.wf = true ∧ encode p.2 = [p.1] ∧ Claims.sequences p.2 = false := by
  decide

end Sys2Proof.Laws.RoundTrip

namespace Sys2Proof.Proofs
open Sys2Proof.Laws.RoundTrip

/-- Settles O2: the laws of the single constructors together, for block words and for sequencer words. -/
theorem decodeInvertsEncode : Obligations.DecodeInvertsEncode :=
  fun _ _ _ hw he => ⟨decodeBlock_of_encode hw he, decodeSeq_of_encode hw he⟩

/-- Settles O1: the words are what the encoder writes, which the decoder reads back; the word after a LIT is cut to 32 bits. -/
theorem decodingWords : Obligations.DecodingWords := by
  refine ⟨fun p hp next => ?_, fun next => rfl, fun rest => ?_, fun rest => ?_, fun rest => ?_⟩
  · obtain ⟨hw, he, hs⟩ := encode_wordsRead p hp
    exact decodeBlock_of_encode hw he hs next
  · exact decodeSeq_of_encode (i := .sqEnd 7) rfl rfl rfl rest
  · exact decodeSeq_of_encode (i := .sqRun false 2 true) rfl rfl rfl rest
  · exact decodeSeq_of_encode (i := .sqIf false true 5 0x01234589ABCDEF 0) rfl rfl rfl rest

end Sys2Proof.Proofs

namespace Sys2Proof.Machine

/-! The order of the checks of a lane instruction (R212 steps 3 and 4). -/

/-- Whatever lanes execute, the instruction first checks these sources and then this target. -/
def ChecksInOrder (srcs : List Src) (t : Target) (i : Instr) : Prop :=
  ∀ (s : State) (τ : Task), Runs s τ →
    ((∃ x ∈ srcs, ∃ k, x = .e k ∧ τ.nin ≤ k) → EndsWith i s τ causeBadSource 0 0) ∧
    ((∀ x ∈ srcs, ∀ k, x = .e k → k < τ.nin) → targetOk s τ t = false → EndsWith i s τ causeBadTarget 0 t.code)

theorem checksInOrder_of_runTask {i : Instr} {srcs : List Src} {t : Target} {f : State → Task → Body Task} (he : ∀ s, exec i s = runTask f s)
    (hf : ∀ s τ, ∃ g : Unit → Body Task, f s τ = (operands s τ srcs t >>= g)) : ChecksInOrder srcs t i :=
  fun s τ hr => operands_checked (he s) (hf s τ) hr

theorem checksInOrder_of_runBody {i : Instr} {srcs : List Src} {t : Target} {f : State → Task → Body (State × Task)}
    (he : ∀ s, exec i s = runBody f s) (hf : ∀ s τ, ∃ g : Unit → Body (State × Task), f s τ = (operands s τ srcs t >>= g)) :
    ChecksInOrder srcs t i := by
  intro s τ hr
  obtain ⟨g, hg⟩ := hf s τ
  refine ⟨fun h => endsWith_of_runBody (he s) hr ?_, fun h ht => endsWith_of_runBody (he s) hr ?_⟩
  · rw [hg, operands_source (srcs_bad h)]
    rfl
  · rw [hg, operands_target (srcs_good h) ht]
    rfl

/-- CBDEC alone has a body that changes the state: it corrects the lattice rows that it reads (R82). -/
theorem checksInOrder_cbdec (a : Src) (f : Fmt) (entry : Nat) (hi : Bool) (t : Target) : ChecksInOrder [a] t (.cbdec a f entry hi t) :=
  checksInOrder_of_runBody (fun _ => rfl) fun _ _ => ⟨_, rfl⟩

section Forms
variable (a b : Src) (c : Nat) (f : Fmt) (m : Rnd) (sat : Bool) (t : Target)

theorem checksInOrder_laneForms : ∀ p ∈ Claims.laneForms a b c f m sat t, ChecksInOrder p.1 t p.2 := by
  simp only [Claims.laneForms, List.forall_mem_append, List.forall_mem_cons, List.not_mem_nil, IsEmpty.forall_iff, implies_true, and_true]
  and_intros
  any_goals exact checksInOrder_of_runTask (fun _ => rfl) fun _ _ => ⟨_, rfl⟩
  exact checksInOrder_cbdec a f c sat t

theorem checksInOrder_formedLane (k : Cond) (fk : FCond) (o : RedOp) (sm : ShufMode) (rf : RngForm) (i : IFmt) :
    ∀ p ∈ Claims.formedLane a b c f m sat t k fk o sm rf i, ChecksInOrder p.1 t p.2 := by
  simp only [Claims.formedLane, List.forall_mem_cons, List.not_mem_nil, IsEmpty.forall_iff, implies_true, and_true]
  and_intros
  all_goals exact checksInOrder_of_runTask (fun _ => rfl) fun _ _ => ⟨_, rfl⟩

end Forms

end Sys2Proof.Machine

namespace Sys2Proof.Proofs
open Sys2Proof.Machine

/-- Settles O23: every form begins with the checks of its operands, so that these answer where they fail. -/
theorem sourcesAndTargetsAreCheckedInOrder : Obligations.SourcesAndTargetsAreCheckedInOrder :=
  fun a b c f m sat t k fk o sm rf i =>
    List.forall_mem_append.2 ⟨checksInOrder_laneForms a b c f m sat t, checksInOrder_formedLane a b c f m sat t k fk o sm rf i⟩

end Sys2Proof.Proofs

namespace Sys2Proof.Machine

/-! The SYS subforms at issue (R220, R368, R378). -/

theorem portOrDiscard_ok {s : State} {t : Target} {n : Option Nat} (τ : Task) (h : Claims.PortOrNone s t n) : portOrDiscard s τ t = .ok n := by
  obtain ⟨rfl, rfl⟩ | ⟨k, rfl, hk, rfl⟩ := h
  · rfl
  · simp only [portOrDiscard, checkTarget_ok (show targetOk s τ (.port k) = true from hk)]
    rfl

/-- The first `n` lanes of a vector as numbers. -/
def laneWords (x : Lanes) (n : Nat) : List Nat := (upto n).map (Claims.wordOf x)

@[simp] theorem getElem?_laneWords {k n : Nat} (x : Lanes) (h : k < n) : (laneWords x n)[k]?.getD 0 = Claims.wordOf x k := by
  simp [laneWords, upto, h]

/-- What a SYS subform asks of its operands: the lanes that it needs, and that no reserved bit is set. -/
def SysOperands (τ : Task) (x y : Lanes) (na nb : Nat) (ok : List Nat → List Nat → Bool) : Prop :=
  (Claims.VectorOf τ x na ∧ Claims.VectorOf τ y nb) ∧ ok (laneWords x na) (laneWords y nb) = true

theorem vectors_iff (τ : Task) (x y : Lanes) (na nb : Nat) :
    (decide (na ≤ τ.w) && decide (nb ≤ τ.w) && (upto na).all (fun l => (laneOf x l).isSome) && (upto nb).all (fun l => (laneOf y l).isSome)) = true ↔
      Claims.VectorOf τ x na ∧ Claims.VectorOf τ y nb := by
  simp only [Bool.and_eq_true, decide_eq_true_eq, List.all_eq_true, upto, List.mem_range, Claims.VectorOf]
  tauto

/-- The operation that a SYS subform enters. -/
def sysOp (s : State) (τ : Task) (k : OpKind) (n : Option Nat) (x y : Lanes) : Op := mkOp s τ k n (Claims.below τ x) (Claims.below τ y) []

section SysBody
variable {i : Instr} {k : OpKind} {a b : Src} {na nb : Nat} {ok : List Nat → List Nat → Bool} {t : Target} {s : State} {τ : Task} {n : Option Nat}

/-- In a supervisor context what is left of a SYS subform is the check of its operands, in two steps with one fault. -/
theorem sysBody_supervisor (hsup : τ.cx.asid = 0) (hs : SrcsOk τ [a, b]) (ht : Claims.PortOrNone s t n)
    (hl : Claims.SomeLane τ [readSrc τ false a, readSrc τ true b]) [Decidable (SysOperands τ (readSrc τ false a) (readSrc τ true b) na nb ok)] :
    sysBody k a b na nb ok t s τ = if SysOperands τ (readSrc τ false a) (readSrc τ true b) na nb ok
      then .ok ((τ.enter (sysOp s τ k n (readSrc τ false a) (readSrc τ true b))).advance 1) else stop causeBadSource 0 := by
  have priv : privileged τ = .ok () := check_true (by simp [supervisor, hsup])
  have lane : anyExec τ [readSrc τ false a, readSrc τ true b] = true := by simpa [anyExec_iff, Claims.SomeLane] using hl
  simp only [sysBody, priv, check_true (srcOk_two hs), portOrDiscard_ok τ ht, lane]
  show check _ _ >>= (fun _ => check (ok (laneWords _ _) (laneWords _ _)) _ >>= _) = _
  by_cases hv : Claims.VectorOf τ (readSrc τ false a) na ∧ Claims.VectorOf τ (readSrc τ true b) nb
  · rw [check_true ((vectors_iff _ _ _ _ _).2 hv)]
    by_cases ho : ok (laneWords (readSrc τ false a) na) (laneWords (readSrc τ true b) nb) = true
    · rw [if_pos ⟨hv, ho⟩]
      simp only [check_true ho]
      rfl
    · rw [if_neg fun h => ho h.2]
      simp only [check_false (Bool.not_eq_true _ ▸ ho)]
      rfl
  · rw [check_false (Bool.not_eq_true _ ▸ mt (vectors_iff _ _ _ _ _).1 hv), if_neg fun h => hv h.1]
    rfl

/-- R378: a SYS subform enters in a supervisor context, or raises BAD_SOURCE. -/
theorem sysBody_enters_or_refuses (he : exec i s = runTask (sysBody k a b na nb ok t) s) (hr : Runs s τ) (hsup : τ.cx.asid = 0) (hs : SrcsOk τ [a, b])
    (ht : Claims.PortOrNone s t n) (hl : Claims.SomeLane τ [readSrc τ false a, readSrc τ true b]) :
    (SysOperands τ (readSrc τ false a) (readSrc τ true b) na nb ok → Enters i s τ (sysOp s τ k n (readSrc τ false a) (readSrc τ true b))) ∧
    (¬ SysOperands τ (readSrc τ false a) (readSrc τ true b) na nb ok → EndsWith i s τ causeBadSource 0 0) := by
  classical
  have body := sysBody_supervisor (k := k) (na := na) (nb := nb) (ok := ok) hsup hs ht hl
  exact ⟨fun h => enters_of_body he hr (body.trans (if_pos h)), fun h => endsWith_of_stop he hr (body.trans (if_neg h))⟩

end SysBody

theorem vectorOf_none (τ : Task) (x : Lanes) : Claims.VectorOf τ x 0 := ⟨Nat.zero_le _, fun _ h => absurd h (Nat.not_lt_zero _)⟩

theorem srcsOk_zero {τ : Task} {a : Src} (h : SrcsOk τ [a]) : SrcsOk τ [a, .zero] :=
  List.forall_mem_cons.2 ⟨h a (List.mem_singleton_self a), List.forall_mem_singleton.2 rfl⟩

/-- The zero source is valid in every lane below W, so in every lane that the predicate lets execute. -/
theorem laneOf_zero {τ : Task} {l : Nat} (second : Bool) (hl : l < 32) (h : predOk τ l = true) : (laneOf (readSrc τ second .zero) l).isSome = true := by
  have below : l < τ.w := by
    simp only [predOk, Bool.and_eq_true, decide_eq_true_eq] at h
    exact h.1
  simp only [readSrc, laneOf_mkLanes hl, if_pos below, Option.isSome_some]

theorem someLane_zero {τ : Task} (h : ∃ l, l < 32 ∧ predOk τ l = true) : Claims.SomeLane τ [readSrc τ false .zero, readSrc τ true .zero] := by
  obtain ⟨l, hl, hp⟩ := h
  exact ⟨l, hl, hp, List.forall_mem_cons.2 ⟨laneOf_zero false hl hp, List.forall_mem_singleton.2 (laneOf_zero true hl hp)⟩⟩

theorem sysOperands_one {τ : Task} {x y : Lanes} {na : Nat} {ok : List Nat → Bool} :
    SysOperands τ x y na 0 (fun ws _ => ok ws) ↔ Claims.VectorOf τ x na ∧ ok (laneWords x na) = true := by
  simp only [SysOperands, vectorOf_none, and_true]

/-! What each subform asks of its words (R36, R113, R115, R377, R380, R381, R383). -/

section Words
variable (x : Lanes)

theorem byteLane_iff : byteLane (laneWords x 1) = true ↔ Claims.wordOf x 0 < 2 ^ 8 := by
  simp [byteLane]

theorem shootOk_iff : shootOk (laneWords x 4) = true ↔ Claims.wordOf x 0 < 2 ^ 21 ∧ (Claims.wordOf x 0 / 2 ^ 18 % 2 = 1 ∨
    (Claims.wordOf x 2 < 2 ^ 8 ∧ 1 ≤ Claims.wordOf x 3 ∧ Claims.wordOf x 1 + Claims.wordOf x 2 * 2 ^ 32 + Claims.wordOf x 3 ≤ 2 ^ 40)) := by
  simp [shootOk, bit_eq_decide, Nat.one_le_iff_ne_zero, and_assoc]

theorem shinvOk_iff : shinvOk (laneWords x 4) = true ↔ Claims.wordOf x 0 < 2 ^ 22 ∧ (Claims.wordOf x 0 / 2 ^ 21 % 2 = 1 ∨
    (Claims.wordOf x 1 < 2 ^ 12 ∧ Claims.wordOf x 2 < 2 ^ 20 ∧ Claims.wordOf x 3 < 2 ^ 21 ∧ 1 ≤ Claims.wordOf x 3 ∧
      Claims.wordOf x 2 + Claims.wordOf x 3 ≤ 2 ^ 20)) := by
  simp [shinvOk, bit_eq_decide, Nat.one_le_iff_ne_zero, and_assoc]

/-- The bound of lane 2 follows from that of the sum. -/
theorem plbcOk_iff : plbcOk (laneWords x 4) = true ↔ Claims.wordOf x 0 < 2 ^ 20 ∧ Claims.wordOf x 1 < 2 ^ 16 ∧ 1 ≤ Claims.wordOf x 2 ∧
    Claims.wordOf x 1 + Claims.wordOf x 2 ≤ 65536 ∧ Claims.wordOf x 3 = 0 := by
  simp only [plbcOk, List.getD_eq_getElem?_getD, Nat.reduceLT, getElem?_laneWords, Bool.and_eq_true, decide_eq_true_eq, bne_iff_ne, ne_eq,
    beq_iff_eq]
  omega

theorem parkOk_iff : (decide ((laneWords x 4).getD 1 0 < 3) && decide ((laneWords x 4).getD 3 0 < 2 ^ 24)) = true ↔
    Claims.wordOf x 1 < 3 ∧ Claims.wordOf x 3 < 2 ^ 24 := by
  simp

theorem cfgldOk_iff (y : Lanes) : (decide ((laneWords x 2).getD 1 0 < 2 ^ 24) && bits ((laneWords y 1).getD 0 0) 9 7 == 0) = true ↔
    Claims.wordOf x 1 < 2 ^ 24 ∧ Claims.wordOf y 0 / 2 ^ 9 % 2 ^ 7 = 0 := by
  simp [bits]

end Words

theorem systemForms_sysBody : ∀ f ∈ Claims.systemForms, ∃ ok : List Nat → Bool,
    (∀ a t s, exec (f.1 a t) s = runTask (sysBody f.2.1 a .zero f.2.2.1 0 (fun ws _ => ok ws) t) s) ∧
    ∀ x, ok (laneWords x f.2.2.1) = true ↔ f.2.2.2 (Claims.wordOf x) := by
  simp only [Claims.systemForms, List.forall_mem_cons, List.not_mem_nil, IsEmpty.forall_iff, implies_true, and_true]
  exact ⟨⟨_, fun _ _ _ => rfl, byteLane_iff⟩, ⟨_, fun _ _ _ => rfl, shootOk_iff⟩, ⟨_, fun _ _ _ => rfl, shinvOk_iff⟩,
    ⟨_, fun _ _ _ => rfl, plbcOk_iff⟩, ⟨_, fun _ _ _ => rfl, byteLane_iff⟩, ⟨_, fun _ _ _ => rfl, parkOk_iff⟩⟩

/-- The fields of the two subforms of two sources, MTSR (one lane of the first) and CFGLD (two lanes). -/
def FieldsOfTwo (n : Nat) (x y : Lanes) : Prop :=
  if n = 1 then Claims.wordOf x 0 < 2 ^ 8 else Claims.wordOf x 1 < 2 ^ 24 ∧ Claims.wordOf y 0 / 2 ^ 9 % 2 ^ 7 = 0

theorem twoSourceForms_sysBody : ∀ k ∈ [(Instr.mtsr, OpKind.mtsr, 1), (.cfgld, .cfgld, 2)], ∃ ok : List Nat → List Nat → Bool,
    (∀ a b t s, exec (k.1 a b t) s = runTask (sysBody k.2.1 a b k.2.2 1 ok t) s) ∧
    ∀ x y, ok (laneWords x k.2.2) (laneWords y 1) = true ↔ FieldsOfTwo k.2.2 x y := by
  simp only [List.forall_mem_cons, List.not_mem_nil, IsEmpty.forall_iff, implies_true, and_true]
  exact ⟨⟨_, fun _ _ _ _ => rfl, fun x _ => byteLane_iff x⟩, ⟨_, fun _ _ _ _ => rfl, cfgldOk_iff⟩⟩

end Sys2Proof.Machine

namespace Sys2Proof.Proofs
open Sys2Proof.Machine

/-- Settles O43: the shared body of the SYS subforms, with the lanes and fields that each asks for. -/
theorem systemInstructionsNeedSupervisor : Obligations.SystemInstructionsNeedSupervisor := by
  refine ⟨?one, ?two, ?idle⟩
  case one =>
    intro f hf a t n s τ hr
    obtain ⟨ok, he, hok⟩ := systemForms_sysBody f hf
    refine ⟨sysBody_user (he a t s) hr, fun hsup hs ht hl => ?_⟩
    obtain ⟨good, bad⟩ := sysBody_enters_or_refuses (he a t s) hr hsup (srcsOk_zero hs) ht hl
    rw [sysOperands_one, hok] at good bad
    exact ⟨fun hv hw => good ⟨hv, hw⟩, bad⟩
  case two =>
    intro k hk a b t n s τ hr
    obtain ⟨ok, he, hok⟩ := twoSourceForms_sysBody k hk
    refine ⟨sysBody_user (he a b t s) hr, fun hsup hs ht hl => ?_⟩
    have h := sysBody_enters_or_refuses (he a b t s) hr hsup hs ht hl
    rwa [SysOperands, hok, and_assoc] at h
  case idle =>
    intro t n s τ hr
    refine ⟨sysBody_user rfl hr, fun hsup ht hl => ?_⟩
    exact (sysBody_enters_or_refuses rfl hr hsup (by simp [SrcsOk, srcOk]) ht (someLane_zero hl)).1 ⟨⟨vectorOf_none _ _, vectorOf_none _ _⟩, rfl⟩

end Sys2Proof.Proofs

namespace Sys2Proof.Machine

/-! What a block instruction answers, by what its body does. -/

theorem next_of_body {i : Instr} {s : State} {τ τ' : Task} {f : State → Task → Body Task} (he : exec i s = runTask f s) (hr : Runs s τ)
    (hf : f s τ = .ok τ') : exec i s = .next (s.setTask τ') := he.trans (runTask_ok hr hf)

theorem passes_of_body {i : Instr} {s : State} {τ : Task} {f : State → Task → Body Task} (he : exec i s = runTask f s) (hr : Runs s τ)
    (hf : f s τ = .ok (τ.advance 1)) : Passes i s τ := next_of_body he hr hf

/-! The values of the integer instructions (R237 to R244), each in the spec's words. -/

section Values
variable (a b : Word)

theorem shiftLeft_amount : a <<< amount b = a <<< (b &&& 31) := by
  rw [BitVec.shiftLeft_eq', toNat_and_31, amount]

theorem ushiftRight_amount : a >>> amount b = a >>> (b &&& 31) := by
  rw [BitVec.ushiftRight_eq', toNat_and_31, amount]

theorem sshiftRight_amount : a.sshiftRight (amount b) = a.sshiftRight' (b &&& 31) := by
  rw [BitVec.sshiftRight', toNat_and_31, amount]

theorem smin_eq_slt : smin a b = if a.slt b then a else b := by
  simp [smin, BitVec.slt_eq_decide]

theorem smax_eq_slt : smax a b = if a.slt b then b else a := by
  simp [smax, BitVec.slt_eq_decide]

theorem umin_eq_lt : umin a b = if a < b then a else b := rfl

theorem umax_eq_lt : umax a b = if a < b then b else a := rfl

theorem slt_zero_eq_msb : a.slt 0 = a.msb := by
  rw [BitVec.slt_eq_decide, BitVec.msb_eq_toInt]
  rfl

end Values

/-- R239, R244: each two-source form is `op2` of a function with the value that the spec gives. -/
theorem twoSource_op2 : ∀ p ∈ Claims.twoSource, ∃ f : Nat → Word → Word → Word,
    (∀ a b t s, exec (p.1 a b t) s = runTask (op2 a b t f) s) ∧ ∀ l a b, f l a b = p.2 l a b := by
  simp only [Claims.twoSource, List.forall_mem_cons, List.not_mem_nil, IsEmpty.forall_iff, implies_true, and_true]
  exact ⟨⟨_, fun _ _ _ _ => rfl, fun _ _ _ => rfl⟩, ⟨_, fun _ _ _ _ => rfl, fun _ _ _ => rfl⟩, ⟨_, fun _ _ _ _ => rfl, fun _ _ _ => rfl⟩,
    ⟨_, fun _ _ _ _ => rfl, fun _ => mulh_eq_signExtend⟩, ⟨_, fun _ _ _ _ => rfl, fun _ => mulhu_eq_setWidth⟩,
    ⟨_, fun _ _ _ _ => rfl, fun _ _ _ => rfl⟩, ⟨_, fun _ _ _ _ => rfl, fun _ _ _ => rfl⟩, ⟨_, fun _ _ _ _ => rfl, fun _ _ _ => rfl⟩,
    ⟨_, fun _ _ _ _ => rfl, fun _ _ _ => rfl⟩,
    ⟨_, fun _ _ _ _ => rfl, fun _ => shiftLeft_amount⟩, ⟨_, fun _ _ _ _ => rfl, fun _ => ushiftRight_amount⟩,
    ⟨_, fun _ _ _ _ => rfl, fun _ => sshiftRight_amount⟩, ⟨_, fun _ _ _ _ => rfl, fun _ _ _ => rfl⟩,
    ⟨_, fun _ _ _ _ => rfl, fun _ => smin_eq_slt⟩, ⟨_, fun _ _ _ _ => rfl, fun _ => smax_eq_slt⟩,
    ⟨_, fun _ _ _ _ => rfl, fun _ => umin_eq_lt⟩, ⟨_, fun _ _ _ _ => rfl, fun _ => umax_eq_lt⟩,
    ⟨_, fun _ _ _ _ => rfl, fun _ _ _ => rfl⟩⟩

/-- R239, R241, R244: the same for one source. -/
theorem oneSource_op1 : ∀ p ∈ Claims.oneSource, ∃ f : Nat → Word → Word,
    (∀ a t s, exec (p.1 a t) s = runTask (op1 a t f) s) ∧ ∀ l a, f l a = p.2 l a := by
  simp only [Claims.oneSource, List.forall_mem_cons, List.not_mem_nil, IsEmpty.forall_iff, implies_true, and_true]
  have abs (_ : Nat) (a : Word) : (if a.msb then -a else a) = if a.slt 0 then -a else a := by rw [slt_zero_eq_msb]
  exact ⟨⟨_, fun _ _ _ => rfl, abs⟩, ⟨_, fun _ _ _ => rfl, fun _ => extend_eq true 8 (by decide) (by decide)⟩,
    ⟨_, fun _ _ _ => rfl, fun _ => extend_eq true 16 (by decide) (by decide)⟩, ⟨_, fun _ _ _ => rfl, fun _ => extend_eq true 4 (by decide) (by decide)⟩,
    ⟨_, fun _ _ _ => rfl, fun _ => extend_eq false 8 (by decide) (by decide)⟩,
    ⟨_, fun _ _ _ => rfl, fun _ => extend_eq false 16 (by decide) (by decide)⟩,
    ⟨_, fun _ _ _ => rfl, fun _ => extend_eq false 4 (by decide) (by decide)⟩, ⟨_, fun _ _ _ => rfl, fun _ _ => rfl⟩⟩

/-! The four functions of R240. -/

theorem leadingZeros_clz : Claims.LeadingZeros (fun a => BitVec.ofNat 32 (clz a)) := by
  intro a
  by_cases ha : a = 0
  · simp [clz, ha]
  have hn : a.toNat ≠ 0 := fun h => ha (BitVec.eq_of_toNat_eq h)
  have top : a.toNat.log2 < 32 := (Nat.log2_lt hn).2 a.isLt
  have value : (BitVec.ofNat 32 (clz a)).toNat = 31 - a.toNat.log2 := by
    rw [clz, if_neg ha, BitVec.toNat_ofNat]
    omega
  simp only [value]
  refine ⟨by omega, fun k hk => ?_, fun _ => ?_⟩
  · exact Nat.testBit_lt_two_pow ((Nat.log2_lt hn).1 (by omega))
  · rw [BitVec.getLsbD, show 31 - (31 - a.toNat.log2) = a.toNat.log2 by omega]
    exact Nat.testBit_log2 hn

theorem trailingZeros_ctz : Claims.TrailingZeros (fun a => BitVec.ofNat 32 (ctz a)) := by
  intro a
  obtain ⟨-, le, zeros, one⟩ := ctzFrom_spec a.toNat 32 0
  have value : (BitVec.ofNat 32 (ctz a)).toNat = ctzFrom a.toNat 32 0 := by
    rw [BitVec.toNat_ofNat, ctz]
    omega
  simp only [value]
  exact ⟨by omega, fun k hk => zeros k (Nat.zero_le k) hk, fun h => one (by omega)⟩

theorem bitsSet_popcount : Claims.BitsSet (fun a => BitVec.ofNat 32 (popcount a.toNat)) := by
  intro a
  have count : popcount a.toNat = (List.range 32).countP a.getLsbD := by
    have top : a.toNat / 2 ^ 32 % 2 ≠ 1 := by
      rw [Nat.div_eq_of_lt a.isLt]
      decide
    rw [popcount, List.range_succ, List.filter_append, List.filter_singleton, decide_eq_false top, cond_false, List.append_nil,
      ← List.countP_eq_length_filter]
    refine List.countP_congr fun k _ => ?_
    rw [BitVec.getLsbD, Nat.testBit_eq_decide_div_mod_eq]
  have le : (List.range 32).countP a.getLsbD ≤ 32 := List.countP_le_length
  rw [BitVec.toNat_ofNat, count]
  omega

/-- What BREV has summed after the bits below `n`: a number of `n` bits, in reverse order, in the high bits of the word. -/
theorem brev_sum (a n : Nat) (hn : n ≤ 32) : ∃ q, (List.range n).foldl (fun acc k => acc + a / 2 ^ k % 2 * 2 ^ (31 - k)) 0 = q * 2 ^ (32 - n) ∧
    ∀ k, k < n → q.testBit (n - 1 - k) = a.testBit k := by
  induction n with
  | zero => exact ⟨0, by simp, fun k hk => absurd hk (Nat.not_lt_zero k)⟩
  | succ n ih =>
    obtain ⟨q, hq, bits⟩ := ih (by omega)
    refine ⟨2 * q + a / 2 ^ n % 2, ?_, fun k hk => ?_⟩
    · rw [List.range_succ, List.foldl_append, hq, List.foldl_cons, List.foldl_nil, show 32 - n = 31 - n + 1 by omega,
        show 32 - (n + 1) = 31 - n by omega, Nat.pow_succ]
      ring
    · obtain rfl | hk := Nat.eq_or_lt_of_le (Nat.le_of_lt_succ hk)
      · rw [show k + 1 - 1 - k = 0 by omega, Nat.testBit_zero, Nat.testBit_eq_decide_div_mod_eq]
        congr 2
        omega
      · rw [show n + 1 - 1 - k = n - 1 - k + 1 by omega, Nat.testBit_succ, ← bits k hk]
        congr 1
        omega

theorem bitReversed_brev : Claims.BitReversed brev := by
  intro a k hk
  obtain ⟨q, hq, bits⟩ := brev_sum a.toNat 32 (Nat.le_refl 32)
  have low : 31 - k < 32 := by omega
  rw [brev, hq, Nat.sub_self, Nat.pow_zero, Nat.mul_one, BitVec.getLsbD_ofNat, decide_eq_true low, Bool.true_and]
  exact bits k hk

theorem counts_op1 : ∀ p ∈ [(Instr.clz, Claims.LeadingZeros), (.ctz, Claims.TrailingZeros), (.popc, Claims.BitsSet), (.brev, Claims.BitReversed)],
    ∃ f : Word → Word, p.2 f ∧ ∀ a t s, exec (p.1 a t) s = runTask (op1 a t (fun _ => f)) s := by
  simp only [List.forall_mem_cons, List.not_mem_nil, IsEmpty.forall_iff, implies_true, and_true]
  exact ⟨⟨_, leadingZeros_clz, fun _ _ _ => rfl⟩, ⟨_, trailingZeros_ctz, fun _ _ _ => rfl⟩, ⟨_, bitsSet_popcount, fun _ _ _ => rfl⟩,
    ⟨_, bitReversed_brev, fun _ _ _ => rfl⟩⟩

end Sys2Proof.Machine

namespace Sys2Proof.Proofs
open Sys2Proof.Machine

/-- Settles O7: every form is the shared two-source body with the value of the table. -/
theorem integerTwoSourceResults : Obligations.IntegerTwoSourceResults := by
  intro p hp a b t s τ hr hs hl
  obtain ⟨f, he, hf⟩ := twoSource_op2 p hp
  exact op2_writes (he a b t s) hr hs hf hl

/-- Settles O8: the forms with a closed value, and the four functions by what they count or move. -/
theorem integerOneSourceResults : Obligations.IntegerOneSourceResults := by
  refine ⟨fun p hp a t s τ hr hs hl => ?_, fun p hp => ?_⟩
  · obtain ⟨f, he, hf⟩ := oneSource_op1 p hp
    exact op1_writes (he a t s) hr hs hf hl
  · obtain ⟨f, hf, he⟩ := counts_op1 p hp
    exact ⟨f, hf, fun a t s τ hr hs hl => op1_writes (he a t s) hr hs (fun _ _ => rfl) hl⟩

end Sys2Proof.Proofs

namespace Sys2Proof.Machine

/-! Comparison, bit fields, selection and the valid mask (R242 to R244). -/

/-- R213: each condition as the model decides it. -/
theorem condHolds_conditions : ∀ p ∈ Claims.conditions, ∀ a b, condHolds p.1 a b = p.2 a b := by
  simp only [Claims.conditions, List.forall_mem_cons, List.not_mem_nil, IsEmpty.forall_iff, implies_true, and_true, condHolds,
    BitVec.slt_eq_decide, BitVec.sle_eq_decide, BitVec.ult_eq_decide, BitVec.ule_eq_decide]

/-- R241: bits of a field of `n` bits that stands at bit 0, extended to 32. -/
theorem getLsbD_extend {sx : Bool} {n k : Nat} {a : Word} (h0 : 0 < n) (hn : n ≤ 32) (hk : k < 32) :
    (extend sx n a).getLsbD k = if k < n then a.getLsbD k else (sx && a.getLsbD (n - 1)) := by
  obtain rfl | hn := Nat.eq_or_lt_of_le hn
  · have same : extend sx 32 a = a := by
      apply BitVec.eq_of_toNat_eq
      have := a.isLt
      simp only [extend, BitVec.toNat_ofNat]
      split <;> omega
    rw [same, if_pos hk]
  · rw [extend_eq sx n h0 hn]
    cases sx
    · by_cases h : k < n <;> simp [hk, h]
    · simp only [if_true, BitVec.getLsbD_signExtend, BitVec.msb_eq_getLsbD_last, BitVec.getLsbD_setWidth]
      by_cases h : k < n <;> simp [hk, h, h0]

theorem fieldLen_bounds (c : Word) : 0 < fieldLen c ∧ fieldPos c + fieldLen c ≤ 32 := by
  unfold fieldLen fieldPos
  omega

theorem fieldExtracted_bfx (sx : Bool) : Claims.FieldExtracted sx (bfx sx) := by
  intro a c k hk p L
  obtain ⟨pos, fits⟩ := fieldLen_bounds c
  show (extend sx (fieldLen c) (a >>> fieldPos c)).getLsbD k = if k < fieldLen c then a.getLsbD (fieldPos c + k) else
    (sx && a.getLsbD (fieldPos c + fieldLen c - 1))
  rw [getLsbD_extend pos (by omega) hk, BitVec.getLsbD_ushiftRight, BitVec.getLsbD_ushiftRight,
    show fieldPos c + (fieldLen c - 1) = fieldPos c + fieldLen c - 1 by omega]

/-- The mask of a field has its bits set. -/
theorem getLsbD_fieldMask {p L k : Nat} (hk : k < 32) :
    (BitVec.ofNat 32 ((2 ^ L - 1) * 2 ^ p)).getLsbD k = decide (p ≤ k ∧ k < p + L) := by
  rw [BitVec.getLsbD_ofNat, Nat.testBit_mul_two_pow, Nat.testBit_two_pow_sub_one]
  simp only [hk, decide_true, Bool.true_and, ← Bool.decide_and]
  refine decide_eq_decide.2 ?_
  omega

theorem fieldInserted_bfi : Claims.FieldInserted bfi := by
  intro a b c k hk p L
  show (a &&& ~~~(BitVec.ofNat 32 ((2 ^ fieldLen c - 1) * 2 ^ fieldPos c)) |||
    (b <<< fieldPos c &&& BitVec.ofNat 32 ((2 ^ fieldLen c - 1) * 2 ^ fieldPos c))).getLsbD k =
      if fieldPos c ≤ k ∧ k < fieldPos c + fieldLen c then b.getLsbD (k - fieldPos c) else a.getLsbD k
  simp only [BitVec.getLsbD_or, BitVec.getLsbD_and, BitVec.getLsbD_not, getLsbD_fieldMask hk, BitVec.getLsbD_shiftLeft, hk, decide_true, Bool.true_and]
  by_cases h : fieldPos c ≤ k ∧ k < fieldPos c + fieldLen c
  · simp [h, Nat.not_lt.2 h.1]
  · simp [h]

/-- R244: the lowest valid lane, 32 where there is none. -/
theorem findIdx_lanes {x : Lanes} {k : Nat} (hx : x.length = 32) (hk : k ≤ 32) (below : ∀ l, l < k → laneOf x l = none)
    (here : k < 32 → (laneOf x k).isSome) : min 32 (x.findIdx (·.isSome)) = k := by
  have lane (l : Nat) (hl : l < x.length) : laneOf x l = x[l] := by simp [laneOf, List.getD, hl]
  obtain rfl | hk := Nat.eq_or_lt_of_le hk
  · have none : x.findIdx (·.isSome) = x.length := by
      refine List.findIdx_eq_length.2 fun v hv => ?_
      obtain ⟨l, hl, rfl⟩ := List.getElem_of_mem hv
      rw [← lane l hl, below l (by omega)]
      rfl
    rw [none, hx, Nat.min_self]
  · have first : x.findIdx (·.isSome) = k := by
      refine (List.findIdx_eq (by omega)).2 ⟨?_, fun l hl => ?_⟩
      · rw [← lane k (by omega)]
        exact here hk
      · rw [← lane l (by omega), below l hl]
        rfl
    rw [first]
    omega

end Sys2Proof.Machine

namespace Sys2Proof.Proofs
open Sys2Proof.Machine

/-- Settles O9: comparison by the conditions of R213, the fields bit by bit, and the count and the lowest lane of the valid mask. -/
theorem compareFieldAndSelectResults : Obligations.CompareFieldAndSelectResults := by
  refine ⟨?cmp, ?bfx, ?bfi, ?sel, ?lea, ?lvcnt, ?lvfst⟩
  case cmp =>
    intro p hp a b t s τ hr hs v hl
    refine op2_writes rfl hr hs (fun _ x y => ?_) hl
    rw [condHolds_conditions p hp]
    rfl
  case bfx =>
    refine fun sx => ⟨bfx sx, fieldExtracted_bfx sx, ?_⟩
    intro a b t s τ hr hs v hl
    exact op2_writes rfl hr hs (fun _ _ _ => rfl) hl
  case bfi =>
    refine ⟨bfi, fieldInserted_bfi, ?_⟩
    intro a b c t s τ hr hs v hl
    exact op3_writes rfl hr hs (fun _ _ _ _ => rfl) hl
  case sel =>
    intro a b c t s τ hr hs v hl
    refine op3_writes rfl hr hs (fun _ x y z => ?_) hl
    by_cases hz : z = 0 <;> simp [hz]
  case lea =>
    intro a b t s τ hr hs sc hsc v hl
    refine op2_writes rfl hr hs (fun _ x y => ?_) hl
    have scales : ∀ sc ∈ [((0 : Nat), (1 : Word)), (1, 4), (2, 16), (3, 64)], BitVec.ofNat 32 (4 ^ sc.1) = sc.2 := by decide
    rw [scales sc hsc]
  case lvcnt =>
    intro a t s τ hr hs v hl
    exact maskOp_writes rfl hr hs List.countP_eq_length_filter.symm hl
  case lvfst =>
    intro a t s τ k hr hs hk below here hlen v hl
    exact maskOp_writes rfl hr hs (findIdx_lanes hlen hk below here) hl

end Sys2Proof.Proofs

namespace Sys2Proof.Machine

/-! Immediate forms and special registers (R246, R264). -/

theorem lih_eq_append (i : Nat) (a : Word) : BitVec.ofNat 32 (i * 2 ^ 21) ||| (a &&& 0x001FFFFF) = (BitVec.ofNat 11 i ++ a.setWidth 21 : BitVec 32) := by
  refine BitVec.eq_of_getLsbD_eq fun k hk => ?_
  have mask : (0x001FFFFF : Word).getLsbD k = decide (k < 21) := by
    rw [show (0x001FFFFF : Word) = BitVec.ofNat 32 (2 ^ 21 - 1) from rfl, BitVec.getLsbD_ofNat, Nat.testBit_two_pow_sub_one]
    simp [hk]
  rw [BitVec.getLsbD_or, BitVec.getLsbD_and, mask, BitVec.getLsbD_ofNat, Nat.testBit_mul_two_pow, BitVec.getLsbD_append, BitVec.getLsbD_ofNat,
    BitVec.getLsbD_setWidth]
  by_cases h : k < 21
  · simp [h, hk, Nat.not_le.2 h]
  · simp [h, hk, Nat.not_lt.1 h, show k - 21 < 11 by omega]

/-- R246: each one-source immediate form is `op1` of a function with the value that the spec gives. -/
theorem immediates_op1 : ∀ p ∈ Claims.immediates, ∃ f : Nat → Word → Word,
    (∀ a i t s, exec (p.1 a i t) s = runTask (op1 a t (fun _ => f i)) s) ∧ ∀ i, i < 2 ^ 11 → ∀ a, f i a = p.2 i a := by
  simp only [Claims.immediates, List.forall_mem_cons, List.not_mem_nil, IsEmpty.forall_iff, implies_true, and_true]
  have addi (i : Nat) (hi : i < 2 ^ 11) (a : Word) : a + sextImm i = a + (BitVec.ofNat 11 i).signExtend 32 := by rw [sextImm_eq i hi]
  have cmpeqi (i : Nat) (hi : i < 2 ^ 11) (a : Word) : boolWord (a == sextImm i) = if a = (BitVec.ofNat 11 i).signExtend 32 then 1 else 0 := by
    rw [sextImm_eq i hi, boolWord, beq_eq_decide]
    exact if_congr decide_eq_true_iff rfl rfl
  have cmplti (i : Nat) (hi : i < 2 ^ 11) (a : Word) :
      boolWord (decide (a.toInt < (sextImm i).toInt)) = if a.slt ((BitVec.ofNat 11 i).signExtend 32) then 1 else 0 := by
    rw [sextImm_eq i hi, boolWord, BitVec.slt_eq_decide]
  have cmpltui (i : Nat) (hi : i < 2 ^ 11) (a : Word) : boolWord (decide (a.toNat < i)) = if a < BitVec.ofNat 32 i then 1 else 0 := by
    have small : (BitVec.ofNat 32 i).toNat = i := Nat.mod_eq_of_lt (by omega)
    have lt : a < BitVec.ofNat 32 i ↔ a.toNat < i := by rw [BitVec.lt_def, small]
    exact if_congr (decide_eq_true_iff.trans lt.symm) rfl rfl
  exact ⟨⟨_, fun _ _ _ _ => rfl, addi⟩, ⟨_, fun _ _ _ _ => rfl, fun _ _ _ => rfl⟩, ⟨_, fun _ _ _ _ => rfl, fun _ _ _ => rfl⟩,
    ⟨_, fun _ _ _ _ => rfl, fun _ _ _ => rfl⟩, ⟨_, fun _ _ _ _ => rfl, fun _ _ _ => rfl⟩, ⟨_, fun _ _ _ _ => rfl, fun _ _ _ => rfl⟩,
    ⟨_, fun _ _ _ _ => rfl, fun _ _ _ => rfl⟩, ⟨_, fun _ _ _ _ => rfl, cmpeqi⟩, ⟨_, fun _ _ _ _ => rfl, cmplti⟩,
    ⟨_, fun _ _ _ _ => rfl, cmpltui⟩, ⟨_, fun _ _ _ _ => rfl, fun i _ => lih_eq_append i⟩⟩

section Special
variable (s : State) (τ : Task)

/-- R264: the registers of the task alone. -/
theorem special_taskRegisters : ∀ p ∈ Claims.taskRegisters, special s τ p.1 = p.2 s τ := by
  simp only [Claims.taskRegisters, List.forall_mem_cons, List.not_mem_nil, IsEmpty.forall_iff, implies_true, and_true]
  have seedHigh : BitVec.ofNat 32 (τ.cx.seed.toNat / 2 ^ 32) = (τ.cx.seed >>> 32).setWidth 32 := by
    rw [← BitVec.ofNat_toNat, BitVec.toNat_ushiftRight, Nat.shiftRight_eq_div_pow]
  have valid : BitVec.ofNat 32 ((τ.entries.getD 0 noLanes).filter (·.isSome)).length =
      BitVec.ofNat 32 ((τ.entries.getD 0 noLanes).countP (·.isSome)) := by
    rw [List.countP_eq_length_filter]
  exact ⟨rfl, rfl, rfl, rfl, rfl, rfl, rfl, rfl, valid, rfl, rfl, rfl, rfl, rfl, rfl, rfl, seedHigh, rfl, rfl⟩

/-- R207, R264: the origin and the shape of the launch's full-size image, the shape's two fields of three bits as one of six. -/
theorem special_rect {l : Launch} (hl : sget s.sch.launches τ.cx.q = some l) :
    special s τ 0x07 = BitVec.ofNat 32 (l.x0 + l.y0 * 2 ^ 4 + Claims.bitsOf (l.words.getD 10 0) 16 6 * 2 ^ 9) := by
  show BitVec.ofNat 32 (rectWord s τ.cx.q) = _
  simp only [rectWord, hl, bits, Claims.bitsOf]
  congr 1
  omega

theorem special_base {n : Nat} (h : 0x20 ≤ n) (h' : n < 0x40) : special s τ n = baseHalf τ.cx n := by
  simp (disch := omega) only [special, if_neg, if_pos h']

theorem special_base_low (k : Nat) (hk : k < 8) : special s τ (0x20 + 2 * k) = (τ.cx.bases.getD k 0).setWidth 32 := by
  rw [special_base _ _ (by omega) (by omega), baseHalf, if_pos (by omega), show (0x20 + 2 * k - 0x20) / 2 = k by omega, BitVec.ofNat_toNat]

theorem special_base_high (k : Nat) (hk : k < 8) : special s τ (0x21 + 2 * k) = ((τ.cx.bases.getD k 0) >>> 32).setWidth 32 := by
  rw [special_base _ _ (by omega) (by omega), baseHalf, if_neg (by omega), show (0x21 + 2 * k - 0x20) / 2 = k by omega, ← BitVec.ofNat_toNat,
    BitVec.toNat_ushiftRight, Nat.shiftRight_eq_div_pow]

theorem special_amax (n : Nat) : special s τ (0x40 + n) = sgetD s.isl.ax (s.occ.a * 16 + n) 0 := by
  simp (disch := omega) only [special, if_neg, Nat.add_sub_cancel_left]

variable {s τ}

/-- MFS writes what its register reads. -/
theorem mfs_writes {n : Nat} {t : Target} {w : Word} (hr : Runs s τ) (hw : special s τ n = w) (hl : Lands s τ t (lanes0 τ (fun _ => w))) :
    Writes (.mfs n t) s τ t (lanes0 τ (fun _ => w)) 1 := by
  subst hw
  exact op0_writes (f := fun s τ => special s τ n) rfl hr hl

/-- R208: LIT writes its word and moves on by two positions. -/
theorem lit_writes {w : Nat} {t : Target} (hr : Runs s τ) (hp : τ.pos < τ.len) (hl : Lands s τ t (lanes0 τ (fun _ => BitVec.ofNat 32 w))) :
    Writes (.lit w t) s τ t (lanes0 τ (fun _ => BitVec.ofNat 32 w)) 2 := by
  obtain ⟨τ', h⟩ := put_ok hl
  refine ⟨τ', h, next_of_body (show execLit w t s = runTask _ s from rfl) hr ?_⟩
  simp only [check_true (decide_eq_true hp), checkTarget_ok hl.1, body_ok_bind, h]

end Special

end Sys2Proof.Machine

namespace Sys2Proof.Proofs
open Sys2Proof.Machine

/-- Settles O10: the immediate forms by their values, LI and MFS as source-free instructions, and LIT. -/
theorem immediateResults : Obligations.ImmediateResults := by
  refine ⟨?imm, ?li, fun w t s τ hr hp => lit_writes hr hp, ?task, ?launch, ?base, ?amax⟩
  case imm =>
    intro p hp a i t s τ hr hs hi v hl
    obtain ⟨f, he, hf⟩ := immediates_op1 p hp
    exact op1_writes (he a i t s) hr hs (fun _ => hf i hi) hl
  case li =>
    intro i t s τ hr hi v hl
    rw [show v = lanes0 τ (fun _ => sextImm i) by rw [sextImm_eq i hi]] at hl ⊢
    exact op0_writes (f := fun _ _ => sextImm i) rfl hr hl
  case task => exact fun p hp t s τ hr => mfs_writes hr (special_taskRegisters s τ p hp)
  case launch =>
    exact fun t s τ l hr hq => ⟨mfs_writes hr rfl, mfs_writes hr (special_rect s τ hq), mfs_writes hr rfl⟩
  case base =>
    exact fun k t s τ hr hk => ⟨mfs_writes hr (special_base_low s τ k hk), mfs_writes hr (special_base_high s τ k hk)⟩
  case amax => exact fun n t s τ hr hn => mfs_writes hr (special_amax s τ n)

end Sys2Proof.Proofs

namespace Sys2Proof.Machine

/-! Division (R239) and the forms of two targets (R245 to R250). -/

/-- R239: each division form is `divOp` of a function with the quotient or remainder that the spec gives. -/
theorem divisions_divOp : ∀ p ∈ Claims.divisions, ∃ f : Word → Word → Word,
    (∀ a b t s, exec (p.1 a b t) s = runTask (divOp f a b t) s) ∧ ∀ a b, f a b = p.2 a b := by
  simp only [Claims.divisions, List.forall_mem_cons, List.not_mem_nil, IsEmpty.forall_iff, implies_true, and_true]
  exact ⟨⟨_, fun _ _ _ _ => rfl, divS_eq⟩, ⟨_, fun _ _ _ _ => rfl, divU_eq⟩, ⟨_, fun _ _ _ _ => rfl, remS_eq⟩,
    ⟨_, fun _ _ _ _ => rfl, remU_eq⟩⟩

theorem divideByZero_flag (b : Word) : flagIf (b == 0) flagDZ = if b = 0 then 0x20 else 0 := by
  by_cases hb : b = 0 <;> simp [hb, flagIf, flagDZ]

/-- R245: each P-class integer form gives one value to both targets. -/
theorem pairForms_opP : ∀ p ∈ Claims.pairForms, ∃ f : Nat → Word → Word → Word,
    (∀ x y s, exec (p.1 x y) s = runTask (opP x y f f) s) ∧ ∀ l a b, f l a b = p.2 a b := by
  simp only [Claims.pairForms, List.forall_mem_cons, List.not_mem_nil, IsEmpty.forall_iff, implies_true, and_true]
  exact ⟨⟨_, fun _ _ _ => rfl, fun _ _ _ => rfl⟩, ⟨_, fun _ _ _ => rfl, fun _ _ _ => rfl⟩, ⟨_, fun _ _ _ => rfl, fun _ _ _ => rfl⟩,
    ⟨_, fun _ _ _ => rfl, fun _ _ _ => rfl⟩, ⟨_, fun _ _ _ => rfl, fun _ _ _ => rfl⟩, ⟨_, fun _ _ _ => rfl, fun _ => shiftLeft_amount⟩,
    ⟨_, fun _ _ _ => rfl, fun _ => ushiftRight_amount⟩, ⟨_, fun _ _ _ => rfl, fun _ => sshiftRight_amount⟩,
    ⟨_, fun _ _ _ => rfl, fun _ => smin_eq_slt⟩, ⟨_, fun _ _ _ => rfl, fun _ => smax_eq_slt⟩⟩

/-- R248: the lanes that the selector sends to one of the two targets. -/
theorem routed_eq (τ : Task) {first : Bool} {P : Word → Prop} [DecidablePred P] (h : ∀ b, ((b != 0) == first) = decide (P b)) : routed τ first =
    mkLanes (fun l => if (laneOf (latchB τ) l).elim false (fun b => decide (P b)) ∧ predOk τ l then laneOf (latchA τ) l else none) := by
  simp only [routed, h, decide_eq_true_eq]
  refine mkLanes_congr fun l _ => ?_
  cases laneOf (latchA τ) l <;> cases laneOf (latchB τ) l <;> by_cases hp : predOk τ l <;> simp [hp]

theorem routed_true (τ : Task) : routed τ true =
    mkLanes (fun l => if (laneOf (latchB τ) l).elim false (· ≠ 0) ∧ predOk τ l then laneOf (latchA τ) l else none) :=
  routed_eq τ fun b => by rw [beq_true, bne, beq_eq_decide, decide_not]

theorem routed_false (τ : Task) : routed τ false =
    mkLanes (fun l => if (laneOf (latchB τ) l).elim false (· = 0) ∧ predOk τ l then laneOf (latchA τ) l else none) :=
  routed_eq τ fun b => by rw [beq_false, bne, Bool.not_not, beq_eq_decide]

/-- R250: the executed lanes of latch A that a SPLIT sends to one of its targets. -/
theorem split_lanes (τ : Task) (part : Nat → Prop) [DecidablePred part] :
    mkLanes (fun l => if part l then laneOf (lanes1 τ (latchA τ) (fun _ a => a)) l else none) =
      mkLanes (fun l => if part l ∧ predOk τ l then laneOf (latchA τ) l else none) := by
  refine mkLanes_congr fun l hl => ?_
  rw [laneOf_lanes1 _ _ _ hl, ite_and]

/-- FWD, STEER and SPLIT alike: two targets are checked and written one after the other. -/
def writeBoth (x y : Target) (u v : Task → Lanes) (s : State) (τ : Task) : Body Task := do
  checkTarget s τ x
  checkTarget s τ y
  let τ' ← put s τ x (u τ)
  finish s τ' y (v τ)

theorem writeBoth_writes {i : Instr} {x y : Target} {u v : Task → Lanes} {s : State} {τ : Task} (he : exec i s = runTask (writeBoth x y u v) s)
    (hr : Runs s τ) (hl : LandsPair s τ x (u τ) y (v τ)) : WritesPair i s τ x (u τ) y (v τ) := by
  obtain ⟨hy, ⟨hx, -⟩, -⟩ := id hl
  refine pair_writes he hr hl fun τ' h => ?_
  simp only [writeBoth, checkTarget_ok hx, checkTarget_ok hy, body_ok_bind, h]

end Sys2Proof.Machine

namespace Sys2Proof.Proofs
open Sys2Proof.Machine

/-- Settles O11: the quotients and remainders of the table, and the flag of a zero divisor in each lane. -/
theorem divisionResultsAndFlag : Obligations.DivisionResultsAndFlag := by
  intro p hp a b t s τ hr hs r hl
  obtain ⟨f, he, hf⟩ := divisions_divOp p hp
  refine fop2_writes (he a b t s) hr hs ?_ hl
  funext _ x y
  rw [hf, divideByZero_flag]

/-- Settles O12: the P-class forms on the two latches, and FWD, STEER and SPLIT by the lanes that each target gets. -/
theorem pairClassResults : Obligations.PairClassResults := by
  refine ⟨?forms, ?cmp, ?fwd, ?steer, ?split⟩
  case forms =>
    intro p hp x y s τ hr v hl
    obtain ⟨f, he, hf⟩ := pairForms_opP p hp
    exact opP_writes (he x y s) hr (lanes2_congr hf) (lanes2_congr hf) hl
  case cmp =>
    intro p hp x y s τ hr u v hl
    refine opP_writes rfl hr (lanes2_congr fun _ a b => ?_) (lanes2_congr fun _ a b => ?_) hl
    · rw [condHolds_conditions p hp]
      rfl
    · rw [condHolds_conditions p hp]
      cases p.2 a b <;> rfl
  case fwd =>
    intro x y s τ hr v hl
    exact writeBoth_writes (u := fun τ => lanes1 τ (latchA τ) (fun _ a => a)) (v := fun τ => lanes1 τ (latchA τ) (fun _ a => a)) rfl hr hl
  case steer =>
    intro x y s τ hr u v hl
    simp only [u, v, ← routed_true, ← routed_false] at hl ⊢
    exact writeBoth_writes (u := (routed · true)) (v := (routed · false)) rfl hr hl
  case split =>
    intro n x y s τ hr u v hl
    simp only [u, v, ← split_lanes] at hl ⊢
    exact writeBoth_writes (u := fun τ => mkLanes (fun l => if l < n then laneOf (lanes1 τ (latchA τ) (fun _ a => a)) l else none))
      (v := fun τ => mkLanes (fun l => if n ≤ l then laneOf (lanes1 τ (latchA τ) (fun _ a => a)) l else none)) rfl hr hl

end Sys2Proof.Proofs

namespace Sys2Proof.Machine

/-! PACK and UNPACK (R251). -/

/-- The lanes of latch A that a recolouring moves: executed and enabled by EMASK. -/
theorem laneOf_moved (τ : Task) (l : Nat) : laneOf (emitLanes τ (lanes1 τ (latchA τ) (fun _ a => a))) l =
    if τ.emask.getD l false ∧ predOk τ l ∧ l < 32 then laneOf (latchA τ) l else none := by
  obtain hl | hl := Nat.lt_or_ge l 32
  · rw [emitLanes, laneOf_mkLanes hl, laneOf_lanes1 _ _ _ hl]
    simp only [hl, and_true, ite_and]
  · rw [emitLanes, laneOf_mkLanes_ge hl, if_neg fun h => absurd h.2.2 (Nat.not_lt.2 hl)]

/-- The task once the moved lanes are entered for their colour; with no lane nothing is. -/
def recoloured (τ : Task) (c w : Nat) (p : Port) (out : Lanes) : Task :=
  if anyLane out then { τ with cbuf := τ.cbuf ++ [.emit (emitHeader τ (c, τ.iter) w) out p.dests] } else τ

section Recolour
variable {i : Instr} {n off : Nat} {fits : Nat → Nat → Bool} {f : Nat → Nat → Option Nat} {p : Port} {s : State} {τ : Task} {d : Word}
  (he : exec i s = runTask (recolour (.port n) .discard fits f) s) (hr : Runs s τ) (hp : portAt s n = some p) (htop : p.top = 0)
  (hd : laneOf (latchB τ) 0 = some d) (hex : ∃ l, l < 32 ∧ predOk τ l = true ∧ (laneOf (latchA τ) l).isSome)
include he hr hp htop hd hex

theorem recolour_ends_of_no_context (hx : ctxOf s (d.toNat % 2 ^ 16) = none) : EndsWith i s τ causeBadTarget 0 (384 + n) := by
  refine endsWith_of_stop he hr ?_
  have port : targetOk s τ (.port n) = true := by simp [targetOk, hp]
  have lane : anyExec τ [latchA τ] = true := by simpa [anyExec] using hex
  have colour : control τ (latchB τ) [latchA τ] = .ok (some d) := by
    simp only [control, lane, if_true, hd]
  have dead : liveIn s τ.cx.q (d.toNat % 2 ^ 16) = false := by simp only [liveIn, hx]
  have same : ((portAt s n).elim false (·.top == 0)) = true := by simp [hp, htop]
  simp only [recolour, checkTarget_ok port, checkTarget_ok (show targetOk s τ .discard = true from rfl), body_ok_bind, check_true same, colour,
    check_false dead]
  rfl

variable {x : Ctx} (hx : ctxOf s (d.toNat % 2 ^ 16) = some x)
include hx

theorem recolour_ends_of_foreign (h : x.st ≠ .live ∨ x.q ≠ τ.cx.q) : EndsWith i s τ causeBadTarget 0 (384 + n) := by
  refine endsWith_of_stop he hr ?_
  rw [recolour_body 0 n fits f p s τ d x hp htop hd hex hx, if_pos (not_and_or.2 h)]

variable (hlive : x.st = .live) (hown : x.q = τ.cx.q)
include hlive hown

theorem recolour_ends_of_misfit (hf : fits τ.w x.w = false) : EndsWith i s τ causeLaneMismatch 0 0 := by
  refine endsWith_of_stop he hr ?_
  rw [recolour_body 0 n fits f p s τ d x hp htop hd hex hx, if_neg (not_not.2 ⟨hlive, hown⟩), if_pos hf]

/-- The lanes that move are `out`, whichever way the instruction names them. -/
theorem recolour_moves {out : Lanes} (hf : fits τ.w x.w = true)
    (ho : mkLanes (fun l => if l < x.w then (f l x.w).bind (laneOf (emitLanes τ (lanes1 τ (latchA τ) (fun _ a => a)))) else none) = out) :
    exec i s = .next (s.setTask ((recoloured τ (d.toNat % 2 ^ 16) x.w p out).advance 1)) := by
  refine next_of_body he hr ?_
  rw [recolour_body 0 n fits f p s τ d x hp htop hd hex hx, if_neg (not_not.2 ⟨hlive, hown⟩), if_neg (by simp [hf]), ho, recoloured]
  dsimp only
  split <;> rfl

end Recolour

/-! STEERC (R249). -/

theorem steerc_routes {x y : Target} {s : State} {τ τ' τ'' : Task} (hr : Runs s τ) (hx : targetOk s τ x = true) (hy : targetOk s τ y = true)
    (h1 : putOrCancel s τ x (routed τ true) (laneOf (latchA τ) 0) = .ok τ')
    (h2 : putOrCancel s τ' y (routed τ false) (laneOf (latchA τ) 0) = .ok τ'') :
    exec (.steerc x y) s = .next (s.setTask (τ''.advance 1)) := by
  refine next_of_body (show execSteerc x y s = runTask _ s from rfl) hr ?_
  simp only [checkTarget_ok hx, checkTarget_ok hy, body_ok_bind, h1, h2]

theorem putOrCancel_eq_put {s : State} {τ : Task} {t : Target} {v : Lanes} {z : Option Word} (h : (∀ n, t ≠ .port n) ∨ anyLane v = true) :
    putOrCancel s τ t v z = put s τ t v := by
  cases t with
  | port n => exact if_pos (h.resolve_left fun h => h n rfl)
  | _ => rfl

/-! COMMIT (R256). -/

/-- What a COMMIT enters: the executed lanes as they stand. EMASK only decides whether there is something to release, and is applied as the
token leaves. -/
theorem commit_enters {a : Src} {nul : Bool} {n : Nat} {p : Port} {s : State} {τ : Task} (hr : Runs s τ) (hs : SrcsOk τ [a]) (hp : portAt s n = some p) :
    let v := lanes1 τ (readSrc τ false a) (fun _ x => x)
    Enters (.commit a nul (.port n)) s τ (mkOp s τ (.commit (nul || !anyLane (emitLanes τ v)) p) (some n) v noLanes []) := by
  intro v
  refine enters_of_body (show execCommit a nul (.port n) s = runTask _ s from rfl) hr ?_
  simp only [check_true (srcOk_one hs), needPort_ok (show (portAt s n).isSome by rw [hp]; rfl), body_ok_bind, hp, Option.getD_some]
  rfl

/-- An instruction enters one operation at most. -/
theorem enters_unique {i : Instr} {s : State} {τ : Task} {o o' : Op} (h : Enters i s τ o) (h' : Enters i s τ o') : o = o' := by
  have states : s.setTask ((τ.enter o).advance 1) = s.setTask ((τ.enter o').advance 1) := eq_of_next h h'
  have tasks : (τ.enter o).advance 1 = (τ.enter o').advance 1 := by
    simpa only [task_setTask, Option.some.injEq] using congrArg State.task? states
  have buffers : τ.cbuf ++ [CbEntry.op o] = τ.cbuf ++ [CbEntry.op o'] := congrArg Task.cbuf tasks
  simpa using buffers

/-- A task of one lane, which executes and which EMASK keeps from every emission. -/
def maskedTask : Task :=
  { tid := 1, kind := .frame, ctx := 0, iter := 0, rank := 0, blk := 0, base := 0, len := 0, nin := 0, sup := false, pos := 0, w := 1,
    hdr := plainHeader 0 0 1 0, entries := [], temps := [], latA := [], latB := [], pv := [], sense := [], armed := [],
    emask := List.replicate 32 false, cbuf := [], flags := 0, astat := 0, cx := absentCtx, gives := [], moves := [], reserved := [], step := 0,
    frec := none }

/-- Element 0 of tile 0 runs it, and has one port. -/
def maskedState : State :=
  { State.reset with tab := { State.reset.tab with ports := [(0, { top := 0, dests := [] })] } }.setTask maskedTask

theorem runs_maskedState : Runs maskedState maskedTask := task_setTask _ _

theorem portAt_maskedState : portAt maskedState 0 = some { top := 0, dests := [] } := rfl

end Sys2Proof.Machine

namespace Sys2Proof.Proofs
open Sys2Proof.Machine

/-- Settles O26: the shared body of PACK and UNPACK for each state of the colour and each fit of the widths. -/
theorem recolouringMovesLanes : Obligations.RecolouringMovesLanes := by
  intro off n p s τ d hr hp htop hd hex
  refine ⟨fun hx => ⟨recolour_ends_of_no_context rfl hr hp htop hd hex hx, recolour_ends_of_no_context rfl hr hp htop hd hex hx⟩, ?_⟩
  intro x hx m sent
  have moved : ∀ l, laneOf (emitLanes τ (lanes1 τ (latchA τ) (fun _ a => a))) l = m l := laneOf_moved τ
  refine ⟨fun h => ⟨recolour_ends_of_foreign rfl hr hp htop hd hex hx h, recolour_ends_of_foreign rfl hr hp htop hd hex hx h⟩,
    fun hlive hown => ⟨fun h => ?_, fun h => ?_, fun h _ => ?_, fun h _ => ?_⟩⟩
  · exact recolour_ends_of_misfit rfl hr hp htop hd hex hx hlive hown (decide_eq_false (Nat.not_le.2 h))
  · exact recolour_ends_of_misfit rfl hr hp htop hd hex hx hlive hown (decide_eq_false (Nat.not_le.2 h))
  · refine recolour_moves rfl hr hp htop hd hex hx hlive hown (decide_eq_true h) (mkLanes_congr fun l _ => ?_)
    by_cases hl : off ≤ l <;> simp [hl, moved]
  · refine recolour_moves rfl hr hp htop hd hex hx hlive hown (decide_eq_true h) (mkLanes_congr fun l _ => ?_)
    simp only [Option.bind_some, moved]

/-- Settles O27: the lanes as STEER routes them, a target that is no port or gets a lane, and a port that gets none. -/
theorem steercCancelsUntakenPaths : Obligations.SteercCancelsUntakenPaths := by
  refine ⟨?_, fun s τ t v z => putOrCancel_eq_put, fun s τ n p v z g hv hp ht => ?_⟩
  · intro x y s τ τ' τ'' hr hx hy u v h1 h2
    simp only [u, v, ← routed_true, ← routed_false] at h1 h2
    exact steerc_routes hr hx hy h1 h2
  · simp only [putOrCancel, hv, Bool.false_eq_true, if_false]
    exact emitCancel_eq hp ht

/-- Refutes O28: the COMMIT clause asks that the entry hold its lanes under EMASK. It holds the executed lanes as they stand, since EMASK is applied
as the token leaves (R180, R256): in `maskedState` lane 0 executes, EMASK is 0, and the entry that COMMIT makes has lane 0. -/
theorem not_routedEmissions : ¬ Obligations.RoutedEmissions := by
  rintro ⟨-, -, -, -, commit⟩
  have masked := commit .zero true 0 _ maskedState maskedTask runs_maskedState (List.forall_mem_singleton.2 rfl) portAt_maskedState
  have entered := commit_enters (a := .zero) (nul := true) runs_maskedState (List.forall_mem_singleton.2 rfl) portAt_maskedState
  have lanes := congrArg (fun o : Op => laneOf o.a 0) (enters_unique masked entered)
  revert lanes
  decide

end Sys2Proof.Proofs

namespace Sys2Proof.Machine

/-! Operands that lane 0 of a source gives (R238), and the ports of operations. -/

theorem anyExec_iff_someLane {τ : Task} {xs : List Lanes} : anyExec τ xs = true ↔ Claims.SomeLane τ xs := by
  simp [anyExec, Claims.SomeLane]

theorem lane0_of_someLane {τ : Task} {x : Lanes} {others : List Lanes} {v : Word} (hl : Claims.SomeLane τ (x :: others)) (hv : laneOf x 0 = some v) :
    lane0 τ x others = .ok (some v) := by
  simp only [lane0, anyExec_iff_someLane.2 hl, if_true, hv]

theorem port_of_isSome {s : State} {t : Target} {n : Option Nat} (ht : Claims.PortOrNone s t n) (hn : n.isSome) :
    ∃ k, t = .port k ∧ (portAt s k).isSome ∧ n = some k := by
  obtain ⟨-, rfl⟩ | h := ht
  · cases hn
  · exact h

/-! Hitch addresses and regions (R30, R282, R286). -/

theorem vaNat_eq_mod (va : Int) : vaNat va = (va % 2 ^ 56).toNat := rfl

theorem vaGuard_one {x : Lane} {al : Nat} (h : vaCheck x.va x.len al = none) : vaGuard [x] al = .ok () := by
  simp only [vaGuard, List.foldl_cons, List.foldl_nil, body_ok_bind, h]

section HitchLane
variable {τ : Task} {base : Nat} {v : Word}

theorem hitchLane_ok (h : Claims.VaOk (Claims.addr τ base 0 v) 64 64) : hitchLane τ base v = .ok (Claims.access 0 (Claims.addr τ base 0 v) 64 0 0) := by
  obtain ⟨low, high, aligned⟩ := h
  have inside : vaCheck (Claims.addr τ base 0 v) 64 64 = none := vaCheck_inside low aligned high (by decide)
  have multiple : (Claims.addr τ base 0 v % 64 == 0) = true := beq_iff_eq.2 aligned
  show (check (Claims.addr τ base 0 v % 64 == 0) causeAlign (vaNat (Claims.addr τ base 0 v)) >>= fun _ =>
    vaGuard [Claims.access 0 (Claims.addr τ base 0 v) 64 0 0] 64 >>= fun _ => _) = _
  rw [check_true multiple, body_ok_bind, vaGuard_one inside]
  rfl

theorem hitchLane_misaligned (h : Claims.addr τ base 0 v % 64 ≠ 0) :
    hitchLane τ base v = stop causeAlign (Claims.addr τ base 0 v % 2 ^ 56).toNat := by
  show (check (Claims.addr τ base 0 v % 64 == 0) causeAlign (vaNat (Claims.addr τ base 0 v)) >>= _) = _
  rw [check_false (beq_eq_false_iff_ne.2 h), vaNat_eq_mod]
  rfl

end HitchLane

theorem regionLane_inside {va : Int} {len : Nat} (h : Claims.VaOk va len 1) (hlen : 0 < len) : regionLane va len = Claims.access 1 va len 0 0 := by
  obtain ⟨low, high, aligned⟩ := h
  rw [regionLane, vaCheck_inside low aligned high hlen]
  rfl

/-! Hitch operations as they issue (R282 to R286). -/

section Hitch
variable {i : Instr} {k : OpKind} {legal needsPort : Bool} {a : Src} {base : Nat} {t : Target} {s : State} {τ : Task}
  (he : exec i s = runTask (hitchBody k legal needsPort a base t) s) (hr : Runs s τ)
include he hr

theorem hitch_illegal (hk : legal = false) : EndsWith i s τ causeIllOp 0 0 := by
  refine endsWith_of_stop he hr ?_
  rw [hitchBody, check_false hk]
  rfl

variable {n : Option Nat} {v : Word} (hk : legal = true) (hs : SrcsOk τ [a]) (ht : Claims.PortOrNone s t n) (hn : needsPort = true → n.isSome)
  (hl : Claims.SomeLane τ [readSrc τ false a]) (hv : laneOf (readSrc τ false a) 0 = some v)
include hk hs ht hn hl hv

omit he hr in
theorem hitchBody_eq : hitchBody k legal needsPort a base t s τ = hitchLane τ base v >>= fun l =>
    .ok ((τ.enter (mkOp s τ k n (lanes1 τ (readSrc τ false a) (fun _ _ => 0)) noLanes [l])).advance 1) := by
  simp only [hitchBody, check_true hk, check_true (srcOk_one hs), lane0_of_someLane hl hv, body_ok_bind]
  cases needsPort with
  | false =>
    simp only [Bool.false_eq_true, if_false, portOrDiscard_ok τ ht]
    rfl
  | true =>
    obtain ⟨n, rfl, hp, rfl⟩ := port_of_isSome ht (hn rfl)
    simp only [if_true, needPort_ok hp]
    rfl

theorem hitch_enters (hva : Claims.VaOk (Claims.addr τ base 0 v) 64 64) : Enters i s τ
    (mkOp s τ k n (lanes1 τ (readSrc τ false a) (fun _ _ => 0)) noLanes [Claims.access 0 (Claims.addr τ base 0 v) 64 0 0]) := by
  refine enters_of_body he hr ?_
  rw [hitchBody_eq hk hs ht hn hl hv, hitchLane_ok hva]
  rfl

theorem hitch_misaligned (hva : Claims.addr τ base 0 v % 64 ≠ 0) : EndsWith i s τ causeAlign 0 (Claims.addr τ base 0 v % 2 ^ 56).toNat := by
  refine endsWith_of_stop he hr ?_
  rw [hitchBody_eq hk hs ht hn hl hv, hitchLane_misaligned hva]
  rfl

end Hitch

section Region
variable {i : Instr} {k : OpKind} {a b : Src} {base : Nat} {t : Target} {n : Option Nat} {s : State} {τ : Task} {v r m : Word}
  (he : exec i s = runTask (regionBody k a b base t) s) (hr : Runs s τ) (hs : SrcsOk τ [a, b]) (ht : Claims.PortOrNone s t n)
  (hv : laneOf (readSrc τ false a) 0 = some v) (hreg : laneOf (readSrc τ true b) 0 = some r) (hm : laneOf (readSrc τ true b) 1 = some m)
  (hm32 : m.toNat < 32) (hl : Claims.SomeLane τ [readSrc τ false a, readSrc τ true b])
include hs ht hv hreg hm hm32 hl

theorem regionBody_eq : regionBody k a b base t s τ = hitchLane τ base v >>= fun l =>
    .ok ((τ.enter (mkOp s τ k n (lanes2 τ (readSrc τ false a) (readSrc τ true b) (fun _ _ _ => 0)) noLanes
      [l, regionLane (Claims.addr τ base 0 r) ((m.toNat + 1) * 128)])).advance 1) := by
  have units : (m.toNat / 32 == 0) = true := by
    rw [beq_iff_eq]
    omega
  simp only [regionBody, check_true (srcOk_two hs), portOrDiscard_ok τ ht, lane0_of_someLane hl hv, body_ok_bind, hreg, hm, check_true units]
  rfl

include he hr

theorem region_misaligned (hva : Claims.addr τ base 0 v % 64 ≠ 0) : EndsWith i s τ causeAlign 0 (Claims.addr τ base 0 v % 2 ^ 56).toNat := by
  refine endsWith_of_stop he hr ?_
  rw [regionBody_eq hs ht hv hreg hm hm32 hl, hitchLane_misaligned hva]
  rfl

theorem region_enters (hva : Claims.VaOk (Claims.addr τ base 0 v) 64 64) (hra : Claims.VaOk (Claims.addr τ base 0 r) ((m.toNat + 1) * 128) 1) :
    Enters i s τ (mkOp s τ k n (lanes2 τ (readSrc τ false a) (readSrc τ true b) (fun _ _ _ => 0)) noLanes
      [Claims.access 0 (Claims.addr τ base 0 v) 64 0 0, Claims.access 1 (Claims.addr τ base 0 r) ((m.toNat + 1) * 128) 0 0]) := by
  refine enters_of_body he hr ?_
  rw [regionBody_eq hs ht hv hreg hm hm32 hl, hitchLane_ok hva, regionLane_inside hra (by omega)]
  rfl

end Region

/-! FENCE, WAIT and BAR as they issue (R263, R287, R288). -/

section Fence
variable {a : Src} {sc : Nat} {t : Target} {n : Option Nat} {s : State} {τ : Task} (ha : a ∈ [Src.latch, .zero]) (hr : Runs s τ)
  (ht : Claims.PortOrNone s t n)
include ha hr ht

theorem fence_enters (hv : anyLane (lanes1 τ (readSrc τ false a) (fun _ w => w)) = true) :
    Enters (.fence a sc t) s τ (mkOp s τ (.fence sc) n (lanes1 τ (readSrc τ false a) (fun _ w => w)) noLanes []) := by
  have named : (a == .latch || a == .zero) = true := by simpa using ha
  refine enters_of_body (show execFence a sc t s = runTask _ s from rfl) hr ?_
  simp only [check_true named, portOrDiscard_ok τ ht, body_ok_bind, hv, if_true]

theorem fence_passes (hv : anyLane (lanes1 τ (readSrc τ false a) (fun _ w => w)) = false) : Passes (.fence a sc t) s τ := by
  have named : (a == .latch || a == .zero) = true := by simpa using ha
  refine passes_of_body (show execFence a sc t s = runTask _ s from rfl) hr ?_
  simp only [check_true named, portOrDiscard_ok τ ht, body_ok_bind, hv, Bool.false_eq_true, if_false]

end Fence

section Wait
variable {l st d m n : Nat} {s : State} {τ : Task} (hr : Runs s τ) (hn : (portAt s n).isSome)
include hr hn

theorem wait_enters (hv : anyLane (lanes1 τ (latchA τ) (fun _ w => w)) = true) :
    Enters (.wait l st d m (.port n)) s τ (mkOp s τ (.wait l st d m) (some n) (lanes1 τ (latchA τ) (fun _ w => w)) noLanes []) := by
  refine enters_of_body (show execWait l st d m (.port n) s = runTask _ s from rfl) hr ?_
  simp only [needPort_ok hn, body_ok_bind, hv, if_true]

theorem wait_passes (hv : anyLane (lanes1 τ (latchA τ) (fun _ w => w)) = false) : Passes (.wait l st d m (.port n)) s τ := by
  refine passes_of_body (show execWait l st d m (.port n) s = runTask _ s from rfl) hr ?_
  simp only [needPort_ok hn, body_ok_bind, hv, Bool.false_eq_true, if_false]

end Wait

section Bar
variable {a b : Src} {base n : Nat} {s : State} {τ : Task} {key : Word} (hr : Runs s τ) (hs : SrcsOk τ [a, b]) (hn : (portAt s n).isSome)
  (hk : laneOf (readSrc τ false a) 0 = some key)
include hr hs hn hk

theorem bar_refused (hl : Claims.SomeLane τ [readSrc τ false a]) (h : 2 ^ 24 ≤ key.toNat ∨ ownGroup s τ (key.toNat % 2 ^ 16) = none) :
    EndsWith (.bar a b false base (.port n)) s τ causeBadSource 0 0 := by
  have bad : (key.toNat / 2 ^ 24 == 0 && (ownGroup s τ (key.toNat % 2 ^ 16)).isSome) = false := by
    obtain h | h := h
    · rw [beq_eq_false_iff_ne.2 (by omega), Bool.false_and]
    · rw [h, Option.isSome_none, Bool.and_false]
  refine endsWith_of_stop (show execBar a b false base (.port n) s = runTask _ s from rfl) hr ?_
  simp only [check_true (srcOk_two hs), needPort_ok hn, body_ok_bind, Bool.false_eq_true, if_false, lane0_of_someLane hl hk, check_false bad]
  rfl

variable (h24 : key.toNat < 2 ^ 24) (hg : (ownGroup s τ (key.toNat % 2 ^ 16)).isSome)
include h24 hg

omit hr hs hn hk in
/-- A key of 24 bits whose subgroup holds the tile. -/
theorem barKey_ok : check (key.toNat / 2 ^ 24 == 0 && (ownGroup s τ (key.toNat % 2 ^ 16)).isSome) causeBadSource = .ok () :=
  check_true (by rw [hg, Bool.and_true, beq_iff_eq, Nat.div_eq_of_lt h24])

theorem bar_enters (hl : Claims.SomeLane τ [readSrc τ false a]) :
    Enters (.bar a b false base (.port n)) s τ (mkOp s τ (.bar false key.toNat) (some n) noLanes noLanes []) := by
  refine enters_of_body (show execBar a b false base (.port n) s = runTask _ s from rfl) hr ?_
  simp only [check_true (srcOk_two hs), needPort_ok hn, body_ok_bind, Bool.false_eq_true, if_false, lane0_of_someLane hl hk, barKey_ok h24 hg]

variable {v : Word} (hl : Claims.SomeLane τ [readSrc τ false a, readSrc τ true b]) (hv : laneOf (readSrc τ true b) 0 = some v)
include hl hv

omit hr in
/-- With a hitch, what is left of a BAR once its key is good. -/
theorem barHitch_body : ∃ f, exec (.bar a b true base (.port n)) s = runTask f s ∧ f s τ = hitchLane τ base v >>= fun l =>
    .ok ((τ.enter (mkOp s τ (.bar true key.toNat) (some n) noLanes noLanes [l])).advance 1) := by
  refine ⟨_, (show execBar a b true base (.port n) s = runTask _ s from rfl), ?_⟩
  simp only [check_true (srcOk_two hs), needPort_ok hn, body_ok_bind, if_true, lane0_of_someLane hl hk, barKey_ok h24 hg, hv]

theorem barHitch_misaligned (hva : Claims.addr τ base 0 v % 64 ≠ 0) :
    EndsWith (.bar a b true base (.port n)) s τ causeAlign 0 (Claims.addr τ base 0 v % 2 ^ 56).toNat := by
  obtain ⟨f, he, hf⟩ := barHitch_body (base := base) hs hn hk h24 hg hl hv
  refine endsWith_of_stop he hr ?_
  rw [hf, hitchLane_misaligned hva]
  rfl

theorem barHitch_enters (hva : Claims.VaOk (Claims.addr τ base 0 v) 64 64) : Enters (.bar a b true base (.port n)) s τ
    (mkOp s τ (.bar true key.toNat) (some n) noLanes noLanes [Claims.access 0 (Claims.addr τ base 0 v) 64 0 0]) := by
  obtain ⟨f, he, hf⟩ := barHitch_body (base := base) hs hn hk h24 hg hl hv
  refine enters_of_body he hr ?_
  rw [hf, hitchLane_ok hva]
  rfl

end Bar

end Sys2Proof.Machine

namespace Sys2Proof.Proofs
open Sys2Proof.Machine

/-- Settles O33: the body of the hitch operations and that of the two region forms, then FENCE, WAIT and BAR. -/
theorem synchronisationOperationsEnter : Obligations.SynchronisationOperationsEnter := by
  refine ⟨?hitch, ?illegal, ?region, ?fence, fun l st d m n s τ hr hn => ⟨wait_enters hr hn, wait_passes hr hn⟩, ?bar⟩
  case hitch =>
    intro a base k t n s τ v hr hs ht hv hl va z o
    have noPort : false = true → n.isSome := nofun
    refine ⟨fun hva hn => hitch_enters rfl hr rfl hs ht (fun _ => hn) hl hv hva,
      fun hva hn hk => hitch_enters rfl hr (bne_iff_ne.2 hk) hs ht (fun _ => hn) hl hv hva,
      fun hva hk => hitch_enters rfl hr (bne_iff_ne.2 hk) hs ht noPort hl hv hva, fun hva => ?_⟩
    refine ⟨fun hn => ?_, fun hn hk => ?_, fun hk => ?_⟩
    · exact hitch_misaligned rfl hr rfl hs ht (fun _ => hn) hl hv hva
    · exact hitch_misaligned rfl hr (bne_iff_ne.2 hk) hs ht (fun _ => hn) hl hv hva
    · exact hitch_misaligned rfl hr (bne_iff_ne.2 hk) hs ht noPort hl hv hva
  case illegal =>
    intro a base t s τ hr
    exact ⟨hitch_illegal (show _ = runTask (hitchBody (.hreq .p true) (HKind.p != .p) true a base t) s from rfl) hr rfl,
      hitch_illegal (show _ = runTask (hitchBody (.hrel .x) (HKind.x != .x) false a base t) s from rfl) hr rfl⟩
  case region =>
    simp only [List.forall_mem_cons, List.not_mem_nil, IsEmpty.forall_iff, implies_true, and_true]
    refine ⟨?_, ?_⟩
    all_goals
      intro a b base t n s τ v r m hr hs ht hv hreg hm hm32 hl
      exact ⟨region_misaligned rfl hr hs ht hv hreg hm hm32 hl, region_enters rfl hr hs ht hv hreg hm hm32 hl⟩
  case fence => exact fun a ha sc t n s τ hr ht => ⟨fence_enters ha hr ht, fence_passes ha hr ht⟩
  case bar =>
    intro a b base n s τ key hr hs hn hk
    refine ⟨bar_refused hr hs hn hk, fun h24 hg => ⟨bar_enters hr hs hn hk h24 hg, fun v hl hv => ⟨?_, ?_⟩⟩⟩
    · exact barHitch_misaligned hr hs hn hk h24 hg hl hv
    · exact barHitch_enters hr hs hn hk h24 hg hl hv

end Sys2Proof.Proofs

namespace Sys2Proof.Machine

/-! CTXF, LAUNCH, MTS, TRAP and BRK as they issue (R261, R262, R266, R371, R372). -/

/-- A CTXF once its context is known: it enters where the context is LIVE in the launch's pool. -/
def ctxfChecked (s : State) (τ : Task) (c : Nat) : Body Task := do
  check (liveIn s τ.cx.q c) causeBadSource
  .ok ((τ.enter (mkOp s τ (.ctxf c) none noLanes noLanes [])).advance 1)

section Ctxf
variable {a : Src} {s : State} {τ : Task}

theorem ctxf_body_named {v : Word} (hs : SrcsOk τ [a]) (hl : Claims.SomeLane τ [readSrc τ false a]) (hv : laneOf (readSrc τ false a) 0 = some v) :
    ∃ f, exec (.ctxf a false) s = runTask f s ∧ f s τ = ctxfChecked s τ (v.toNat % 2 ^ 16) := by
  refine ⟨_, (show execCtxf a false s = runTask _ s from rfl), ?_⟩
  simp only [check_true (srcOk_one hs), body_ok_bind, Bool.false_eq_true, if_false, lane0_of_someLane hl hv, ctxfChecked]

theorem ctxf_body_self (hs : SrcsOk τ [a]) (hl : ∃ l, l < 32 ∧ predOk τ l = true) :
    ∃ f, exec (.ctxf a true) s = runTask f s ∧ f s τ = ctxfChecked s τ τ.ctx := by
  refine ⟨_, (show execCtxf a true s = runTask _ s from rfl), ?_⟩
  have lane : (List.range 32).any (predOk τ) = true := by simpa using hl
  simp only [check_true (srcOk_one hs), body_ok_bind, if_true, lane, ctxfChecked]

variable {i : Instr} {c : Nat} (hr : Runs s τ) (h : ∃ f, exec i s = runTask f s ∧ f s τ = ctxfChecked s τ c)
include hr h

theorem ctxf_enters (hc : ∃ x, ctxOf s c = some x ∧ x.st = .live ∧ x.q = τ.cx.q) : Enters i s τ (mkOp s τ (.ctxf c) none noLanes noLanes []) := by
  obtain ⟨f, he, hf⟩ := h
  refine enters_of_body he hr ?_
  rw [hf, ctxfChecked, check_true (liveIn_iff.2 hc)]
  rfl

theorem ctxf_refused (hc : ¬ ∃ x, ctxOf s c = some x ∧ x.st = .live ∧ x.q = τ.cx.q) : EndsWith i s τ causeBadSource 0 0 := by
  obtain ⟨f, he, hf⟩ := h
  refine endsWith_of_stop he hr ?_
  rw [hf, ctxfChecked, check_false (Bool.eq_false_iff.2 (mt liveIn_iff.1 hc))]
  rfl

end Ctxf

section OneSource
variable {a : Src} {s : State} {τ : Task} (hr : Runs s τ) (hs : SrcsOk τ [a])
include hr hs

theorem launch_enters {n : Nat} {lo hi : Word} (hn : (portAt s n).isSome) (hl : Claims.SomeLane τ [readSrc τ false a])
    (h0 : laneOf (readSrc τ false a) 0 = some lo) (h1 : laneOf (readSrc τ false a) 1 = some hi) :
    Enters (.launch a (.port n)) s τ (mkOp s τ .launch (some n) (lanesOf [lo, hi]) noLanes []) := by
  refine enters_of_body (show execLaunch a (.port n) s = runTask _ s from rfl) hr ?_
  simp only [check_true (srcOk_one hs), needPort_ok hn, body_ok_bind, lane0_of_someLane hl h0, h1]

theorem trap_enters {code : Nat} {v : Word} (hp : predOk τ 0 = true) (hv : laneOf (readSrc τ false a) 0 = some v) :
    Enters (.trap a code) s τ (mkOp s τ (.trap code) none (lanesOf [v]) noLanes []) := by
  refine enters_of_body (show execTrap a code s = runTask _ s from rfl) hr ?_
  simp only [check_true (srcOk_one hs), body_ok_bind, hp, if_true, hv]

theorem trap_passes {code : Nat} (h : predOk τ 0 = false ∨ laneOf (readSrc τ false a) 0 = none) : Passes (.trap a code) s τ := by
  refine passes_of_body (show execTrap a code s = runTask _ s from rfl) hr ?_
  simp only [check_true (srcOk_one hs), body_ok_bind]
  split
  · next hp => simp only [h.resolve_left (by simp [hp])]
  · rfl

end OneSource

theorem mtsNumber_iff (n : Nat) : mtsNumber n = true ↔ Claims.writable n := by
  simp only [mtsNumber, Claims.writable, Bool.or_eq_true, Bool.and_eq_true, beq_iff_eq, decide_eq_true_eq, List.mem_cons, List.not_mem_nil, or_false]
  omega

section Mts
variable {a : Src} {n : Nat} {s : State} {τ : Task} (hr : Runs s τ)
include hr

theorem mts_refused (h : ¬ Claims.writable n) : EndsWith (.mts a n) s τ causeIllOp 0 0 := by
  refine endsWith_of_stop (show execMts a n s = runTask _ s from rfl) hr ?_
  simp only [check_false (Bool.eq_false_iff.2 (mt (mtsNumber_iff n).1 h))]
  rfl

theorem mts_enters {v : Word} (h : Claims.writable n) (hs : SrcsOk τ [a]) (hl : Claims.SomeLane τ [readSrc τ false a])
    (hv : laneOf (readSrc τ false a) 0 = some v) : Enters (.mts a n) s τ (mkOp s τ (.mts n v) none noLanes noLanes []) := by
  refine enters_of_body (show execMts a n s = runTask _ s from rfl) hr ?_
  simp only [check_true ((mtsNumber_iff n).2 h), check_true (srcOk_one hs), body_ok_bind, lane0_of_someLane hl hv]

end Mts

theorem haltEnabled_iff {s : State} {asid : Nat} : haltEnabled s asid = true ↔ s.dev.level ≠ 0 ∧ s.dev.hen = true ∧ s.dev.dasid.toNat = asid := by
  simp [haltEnabled, and_assoc]

theorem brkPast_iff {s : State} : brkPast s = true ↔
    (sget s.flt.resumed (s.occ.a * 9 + s.occ.b)).isSome ∧ sget s.flt.halted (s.occ.a * 9 + s.occ.b) = none := by
  simp [brkPast]

/-- The four things that a BRK does, by whether the task was resumed at it, executes lane 0 and may be halted. -/
theorem exec_brk {code : Nat} {s : State} {τ : Task} (hr : Runs s τ) : exec (.brk code) s =
    if brkPast s then .next { s.setTask (τ.advance 1) with flt := { s.flt with resumed := sdel s.flt.resumed (s.occ.a * 9 + s.occ.b) } }
    else if predOk τ 0 = false then .next (s.setTask (τ.advance 1))
    else if haltEnabled s τ.cx.asid then .next (if haltRoom s τ.ctx then haltContext s τ.ctx (some (s.occ.a, s.occ.b, code)) else s)
    else .next (s.setTask ((τ.enter (mkOp s τ (.brk code) none noLanes noLanes [])).advance 1)) := by
  show execBrk code s = _
  simp only [execBrk, show s.task? = some τ from hr, Bool.not_eq_true', apply_ite Host.Outcome.next]

end Sys2Proof.Machine

namespace Sys2Proof.Proofs
open Sys2Proof.Machine

/-- Settles O42: CTXF by its context, LAUNCH, MTS by its register, TRAP by lane 0, and the four cases of BRK. -/
theorem contextEndLaunchTrapAndBreak : Obligations.ContextEndLaunchTrapAndBreak := by
  refine ⟨?ctxf, fun a n s τ lo hi hr hs hn hl h0 h1 => launch_enters hr hs hn hl h0 h1, fun a n s τ hr => ⟨mts_refused hr, fun v => mts_enters hr⟩,
    fun a code s τ hr hs => ⟨fun v => trap_enters hr hs, trap_passes hr hs⟩, ?brk⟩
  case ctxf =>
    intro a s τ hr hs live
    refine ⟨fun v hl hv => ?_, fun hl hc => ctxf_enters hr (ctxf_body_self hs hl) hc⟩
    exact ⟨ctxf_enters hr (ctxf_body_named hs hl hv), ctxf_refused hr (ctxf_body_named hs hl hv)⟩
  case brk =>
    intro code s τ hr halts k past
    have isPast : brkPast s = true ↔ past := brkPast_iff
    have isHalting : haltEnabled s τ.cx.asid = true ↔ halts := haltEnabled_iff
    simp only [Passes, Enters, exec_brk hr, isPast, isHalting]
    refine ⟨fun hn hp => ?_, fun hn hp hh => ?_, fun hn hp hh => ?_, fun h => ?_⟩
    · rw [if_neg hn, if_pos hp]
    · rw [if_neg hn, if_neg (by simp [hp]), if_neg hh]
    · rw [if_neg hn, if_neg (by simp [hp]), if_pos hh]
    · rw [if_pos h]

end Sys2Proof.Proofs

namespace Sys2Proof.Machine

/-! Guards over the lanes of an access (R30, R33). -/

/-- A check of each item in turn passes where every item's passes. -/
theorem foldl_guard_ok {α : Type} {g : α → Body Unit} {xs : List α} (h : ∀ x ∈ xs, g x = .ok ()) :
    xs.foldl (fun acc x => acc >>= fun _ => g x) (.ok ()) = .ok () :=
  List.foldlRecOn (motive := fun acc => acc = Except.ok ()) xs _ rfl fun acc hacc x hx => by rw [hacc, body_ok_bind, h x hx]

theorem vaGuard_accesses {α : Type} {xs : List α} {lane data cmp : α → Nat} {va : α → Int} {len al : Nat} (hlen : 0 < len)
    (h : ∀ x ∈ xs, Claims.VaOk (va x) len al) : vaGuard (xs.map fun x => Claims.access (lane x) (va x) len (data x) (cmp x)) al = .ok () := by
  refine foldl_guard_ok fun y hy => ?_
  obtain ⟨x, hx, rfl⟩ := List.mem_map.1 hy
  obtain ⟨low, high, aligned⟩ := h x hx
  have inside : vaCheck (va x) len al = none := vaCheck_inside low aligned high hlen
  simp only [Claims.access, inside]

theorem sizeBytes_of_sizes : ∀ z ∈ Claims.sizes, sizeBytes z.1 = z.2 ∧ 0 < z.2 := by decide

/-! Stores, flushes and atomics as they issue (R271, R274, R277 to R281). -/

/-- The executed lanes whose second operand is valid too, with both values. -/
def pairedLanes (τ : Task) (x val : Lanes) : List (Nat × Word × Word) :=
  (execLanes τ x).filterMap (fun p => (laneOf val p.1).map (fun v => (p.1, p.2, v)))

section Store
variable {τ : Task} {x val : Lanes} {base sc : Nat}

theorem storeLanes_of_sizes : ∀ z ∈ Claims.sizes, storeLanes τ x val base sc z.1 = .ok ((pairedLanes τ x val).map fun y =>
    Claims.access y.1 (Claims.addr τ base sc y.2.1) z.2 (y.2.2.toNat % 256 ^ z.2) 0) := by
  simp only [Claims.sizes, List.forall_mem_cons, List.not_mem_nil, IsEmpty.forall_iff, implies_true, and_true, storeLanes]
  and_intros
  all_goals exact congrArg _ (filterMap_lane_map fun _ _ => rfl)

theorem storeLanes_row {v : Word} (hv : laneOf x 0 = some v) : storeLanes τ x val base sc .row =
    .ok ((execLanes τ val).map fun y => Claims.access y.1 (Claims.addr τ base sc v + 4 * (y.1 : Int)) 4 y.2.toNat 0) := by
  simp only [storeLanes, hv]
  cases execLanes τ val <;> rfl

variable {a b : Src} {z : Size} {t : Target} {n : Option Nat} {s : State} (hr : Runs s τ) (hs : SrcsOk τ [a, b]) (ht : Claims.PortOrNone s t n)
include hr hs ht

theorem st_enters {ls : List Lane} (hls : storeLanes τ (readSrc τ false a) (readSrc τ true b) base sc z = .ok ls) (hne : ls ≠ [])
    (hva : vaGuard ls (sizeBytes z) = .ok ()) :
    Enters (.st a b base z sc t) s τ (mkOp s τ (.st z n.isSome) n (overLanes (readSrc τ true b) ls) noLanes ls) := by
  refine enters_of_body (show execSt a b base z sc t s = runTask _ s from rfl) hr ?_
  simp only [check_true (srcOk_two hs), portOrDiscard_ok τ ht, body_ok_bind, hls, hva, List.isEmpty_eq_false_iff.2 hne, Bool.false_eq_true, if_false]

end Store

section Flush

/-- The executed lanes of a flush, each with its value and its length. -/
def flushLanes (τ : Task) (a b : Src) : List (Nat × Word × Nat) :=
  let lens := if b = .zero then mkLanes (fun _ => some 1) else readSrc τ true b
  (execLanes τ (readSrc τ false a)).filterMap (fun p => (laneOf lens p.1).map (fun v => (p.1, p.2, v.toNat)))

/-- The pieces of all of its ranges. -/
def flushPieces (τ : Task) (base sc : Nat) (xs : List (Nat × Word × Nat)) : List Lane :=
  xs.foldr (fun x acc => rangePieces x.1 (Claims.addr τ base sc x.2.1) x.2.2 ++ acc) []

theorem mem_flushPieces {τ : Task} {base sc : Nat} {xs : List (Nat × Word × Nat)} {y : Lane} :
    y ∈ flushPieces τ base sc xs ↔ ∃ x ∈ xs, y ∈ rangePieces x.1 (Claims.addr τ base sc x.2.1) x.2.2 := by
  induction xs with
  | nil => simp [flushPieces]
  | cons x xs ih => rw [List.exists_mem_cons_iff, ← ih, flushPieces, List.foldr_cons, List.mem_append, flushPieces]

/-- The pieces of a range leave out no byte of it below the end of the 56-bit space. -/
theorem rangePieces_covers {l len : Nat} {va v : Int} (h0 : 0 ≤ va) (hlo : va ≤ v) (hhi : v < va + (len : Int)) (h56 : v < 2 ^ 56) :
    ∃ y ∈ rangePieces l va len, y.va ≤ v ∧ v < y.va + (y.len : Int) := by
  have inside : vaCheck va 1 1 = none := vaCheck_inside h0 (Int.emod_one va) (by push_cast; omega) Nat.one_pos
  obtain ⟨a, rfl⟩ := Int.eq_ofNat_of_zero_le h0
  obtain ⟨u, rfl⟩ := Int.eq_ofNat_of_zero_le (h0.trans hlo)
  have piece : u / 2 ^ 16 - a / 2 ^ 16 < len / 2 ^ 16 + 2 := by omega
  have start_le : (if u / 2 ^ 16 - a / 2 ^ 16 = 0 then a else (a / 2 ^ 16 + (u / 2 ^ 16 - a / 2 ^ 16)) * 2 ^ 16) ≤ u := by split <;> omega
  have lt_end : u < min (min (a + len) (2 ^ 56)) ((a / 2 ^ 16 + (u / 2 ^ 16 - a / 2 ^ 16) + 1) * 2 ^ 16) := by omega
  simp only [rangePieces, inside, Option.isSome_none, Bool.false_eq_true, if_false, List.mem_filterMap, upto, List.mem_range, Int.toNat_natCast]
  refine ⟨_, ⟨u / 2 ^ 16 - a / 2 ^ 16, piece, if_pos (Nat.lt_of_le_of_lt start_le lt_end)⟩, ?_⟩
  simp only [mkLane]
  omega

variable {k : OpKind} {i : Instr} {a b : Src} {base sc : Nat} {t : Target} {n : Option Nat} {s : State} {τ : Task}

theorem flushBody_eq (hs : SrcsOk τ [a, b]) (ht : Claims.PortOrNone s t n) : flushBody k a b base sc t s τ =
    check ((flushLanes τ a b).all fun x => decide (1 ≤ x.2.2) && decide (x.2.2 ≤ 2 ^ 24)) causeBadSource >>= fun _ =>
      if (flushLanes τ a b).isEmpty then .ok (τ.advance 1)
      else .ok ((τ.enter (mkOp s τ k n (mkLanes fun l => if (flushLanes τ a b).any (·.1 == l) then some 0 else none) noLanes
        (flushPieces τ base sc (flushLanes τ a b)))).advance 1) := by
  simp only [flushBody, check_true (srcOk_two hs), portOrDiscard_ok τ ht, body_ok_bind]
  rfl

variable (he : exec i s = runTask (flushBody k a b base sc t) s) (hr : Runs s τ) (hs : SrcsOk τ [a, b]) (ht : Claims.PortOrNone s t n)
include he hr hs ht

theorem flush_refused (h : ∃ x ∈ flushLanes τ a b, x.2.2 = 0 ∨ 2 ^ 24 < x.2.2) : EndsWith i s τ causeBadSource 0 0 := by
  obtain ⟨x, hx, hlen⟩ := h
  refine endsWith_of_stop he hr ?_
  rw [flushBody_eq hs ht, check_false]
  · rfl
  · refine List.all_eq_false.2 ⟨x, hx, ?_⟩
    simp only [Bool.and_eq_true, decide_eq_true_eq]
    omega

theorem flush_enters (hne : flushLanes τ a b ≠ []) (h : ∀ x ∈ flushLanes τ a b, 1 ≤ x.2.2 ∧ x.2.2 ≤ 2 ^ 24) :
    Enters i s τ (mkOp s τ k n (mkLanes fun l => if (flushLanes τ a b).any (·.1 == l) then some 0 else none) noLanes
      (flushPieces τ base sc (flushLanes τ a b))) := by
  refine enters_of_body he hr ?_
  rw [flushBody_eq hs ht, check_true (by simpa using h), body_ok_bind, if_neg (by simpa using hne)]

end Flush

end Sys2Proof.Machine

namespace Sys2Proof.Proofs
open Sys2Proof.Machine

/-- Settles O30: the lanes of a store for each size and for a row, and the two flushes by their shared body. -/
theorem storesAndFlushesEnterTheCommitBuffer : Obligations.StoresAndFlushesEnterTheCommitBuffer := by
  refine ⟨?size, ?row, ?flush⟩
  case size =>
    intro z hz a b base sc t n s τ hr hs ht xs hne hva
    obtain ⟨hsz, hpos⟩ := sizeBytes_of_sizes z hz
    refine ⟨_, laneOf_overLanes (fun l => ?_), st_enters hr hs ht (storeLanes_of_sizes z hz) (mt List.map_eq_nil_iff.1 hne) ?_⟩
    · simp [Claims.access, xs]
    · rw [hsz]
      exact vaGuard_accesses hpos hva
  case row =>
    intro a b base sc t n s τ v hr hs ht hv xs hne hva
    refine ⟨_, laneOf_overLanes (fun l => ?_), st_enters hr hs ht (storeLanes_row hv) (mt List.map_eq_nil_iff.1 hne)
      (vaGuard_accesses (by decide) hva)⟩
    simp [Claims.access, xs]
  case flush =>
    intro k hk a b base sc t n s τ hr hs ht lens xs
    have he : exec (k.1 a b base sc t) s = runTask (flushBody k.2 a b base sc t) s := by
      obtain rfl | rfl := List.mem_pair.1 hk <;> rfl
    refine ⟨flush_refused he hr hs ht, fun hne hlen => ⟨_, flush_enters he hr hs ht hne hlen, fun y hy => ?_, fun x hx h0 v hlo hhi h56 => ?_⟩⟩
    · obtain ⟨x, hx, hyx⟩ := mem_flushPieces.1 hy
      exact ⟨x, hx, rangePieces_inside hyx⟩
    · obtain ⟨y, hy, hv⟩ := rangePieces_covers (l := x.1) h0 hlo hhi h56
      exact ⟨y, mem_flushPieces.2 ⟨x, hx, hy⟩, (rangePieces_inside hy).1, hv⟩

end Sys2Proof.Proofs

namespace Sys2Proof.Machine

section Atomic
variable (τ : Task) (x val exp : Lanes) (base : Nat)

/-- The executed lanes of a compare-and-swap of 4 bytes, each with its value and its expected value. -/
def comparedLanes : List (Nat × Word × Word × Word) :=
  (execLanes τ x).filterMap fun p => match laneOf val p.1, laneOf exp p.1 with
    | some v, some e => some (p.1, p.2, v, e)
    | _, _ => none

/-- The even lanes that execute an 8-byte atomic with the one above them, each with the value of both (R279). -/
def wideLanes : List (Nat × Word × Nat) :=
  ((List.range 16).map (2 * ·)).filterMap fun l =>
    if l + 1 < τ.w ∧ predOk τ l = true ∧ predOk τ (l + 1) = true then match laneOf x l, pairAt val l with
      | some v, some y => some (l, v, y)
      | _, _ => none
    else none

/-- Those among them with an expected value of both lanes (R280). -/
def wideCompared : List ((Nat × Word × Nat) × Nat) := (wideLanes τ x val).filterMap fun y => (pairAt exp y.1).map fun e => (y, e)

theorem atomicLanes_word : atomicLanes τ x val (noExpect τ) base false =
    (pairedLanes τ x val).map fun y => Claims.access y.1 (Claims.addr τ base 0 y.2.1) 4 y.2.2.toNat 0 := by
  rw [pairedLanes, ← filterMap_lane_map (g := fun p v => Claims.access p.1 (Claims.addr τ base 0 p.2) 4 v.toNat 0) fun _ _ => rfl]
  refine List.filterMap_congr fun p hp => ?_
  obtain ⟨hlane, -, -⟩ := execLanes_spec hp
  rw [laneOf_noExpect τ hlane]
  cases laneOf val p.1 <;> rfl

theorem atomicLanes_compared : atomicLanes τ x val exp base false = (comparedLanes τ x val exp).map fun y =>
    Claims.access y.1 (Claims.addr τ base 0 y.2.1) 4 y.2.2.1.toNat y.2.2.2.toNat := by
  refine filterMap_eq_map fun p => ?_
  cases laneOf val p.1 <;> cases laneOf exp p.1 <;> rfl

theorem pairAt_noExpect {l : Nat} (h : l + 1 < 32) : pairAt (noExpect τ) l = some 0 := by
  simp only [pairAt, laneOf_noExpect τ (Nat.lt_of_succ_lt h), laneOf_noExpect τ h]
  rfl

theorem atomicLanes_wideCompared : atomicLanes τ x val exp base true = (wideCompared τ x val exp).map fun y =>
    Claims.access y.1.1 (Claims.addr τ base 0 y.1.2.1) 8 y.1.2.2 y.2 := by
  simp only [atomicLanes, wideCompared, wideLanes, if_true, List.map_filterMap, List.filterMap_filterMap, List.filterMap_map, upto]
  refine List.filterMap_congr fun k _ => ?_
  simp only [Function.comp, Bool.and_eq_true, decide_eq_true_eq, and_assoc]
  split
  · cases laneOf x (2 * k) with
    | none => rfl
    | some v =>
      cases pairAt val (2 * k) with
      | none => rfl
      | some y =>
        rw [Option.bind_some]
        cases pairAt exp (2 * k) <;> rfl
  · rfl

theorem wideLanes_lane {y : Nat × Word × Nat} (h : y ∈ wideLanes τ x val) : y.1 + 1 < 32 := by
  simp only [wideLanes, List.filterMap_map, List.mem_filterMap, List.mem_range, Function.comp] at h
  obtain ⟨k, hk, h⟩ := h
  split at h
  · cases hx : laneOf x (2 * k) <;> cases hv : pairAt val (2 * k) <;> simp [hx, hv] at h
    subst h
    show 2 * k + 1 < 32
    omega
  · cases h

theorem wideCompared_noExpect : wideCompared τ x val (noExpect τ) = (wideLanes τ x val).map fun y => (y, 0) := by
  rw [← List.filterMap_eq_map]
  refine List.filterMap_congr fun y hy => ?_
  rw [pairAt_noExpect τ (wideLanes_lane τ x val hy)]
  rfl

theorem atomicLanes_wide : atomicLanes τ x val (noExpect τ) base true = (wideLanes τ x val).map fun y =>
    Claims.access y.1 (Claims.addr τ base 0 y.2.1) 8 y.2.2 0 := by
  rw [atomicLanes_wideCompared, wideCompared_noExpect, List.map_map]
  rfl

end Atomic

theorem wide_eq_false {o : AmoOp} (hswapd : o ≠ .swapd) (haddd : o ≠ .addd) : AmoOp.wide o = false := by
  unfold AmoOp.wide
  split
  · contradiction
  · contradiction
  · rfl

/-- R278: what an atomic enters, by the lanes that it makes of its operands. -/
theorem atomic_enters {i : Instr} {k : OpKind} {wide : Bool} {exp : Task → Lanes} {a b : Src} {base : Nat} {t : Target} {n : Option Nat}
    {s : State} {τ : Task} {ls : List Lane} (he : exec i s = runTask (atomicBody k wide exp a b base t) s) (hr : Runs s τ) (hs : SrcsOk τ [a, b])
    (ht : Claims.PortOrNone s t n) (hls : atomicLanes τ (readSrc τ false a) (readSrc τ true b) (exp τ) base wide = ls) (hne : ls ≠ [])
    (hva : vaGuard ls (if wide then 8 else 4) = .ok ()) : Enters i s τ (mkOp s τ k n noLanes noLanes ls) := by
  refine enters_of_body he hr ?_
  simp only [atomicBody, check_true (srcOk_two hs), portOrDiscard_ok τ ht, body_ok_bind, hls, hva, List.isEmpty_eq_false_iff.2 hne,
    Bool.false_eq_true, if_false]

end Sys2Proof.Machine

namespace Sys2Proof.Proofs
open Sys2Proof.Machine

/-- Settles O31: the lanes of each kind of atomic, and the body that all share. -/
theorem atomicsEnterTheCommitBuffer : Obligations.AtomicsEnterTheCommitBuffer := by
  refine ⟨?word, ?compare, ?wide⟩
  case word =>
    intro o f hswapd haddd a b base t n s τ hr hs ht xs ls hne hva
    have narrow := wide_eq_false hswapd haddd
    have lanes := atomicLanes_word τ (readSrc τ false a) (readSrc τ true b) base
    have some_lane : ls ≠ [] := mt List.map_eq_nil_iff.1 hne
    have passed : vaGuard ls 4 = .ok () := vaGuard_accesses (by decide) hva
    refine ⟨atomic_enters (wide := false) ?_ hr hs ht lanes some_lane passed, atomic_enters (wide := false) ?_ hr hs ht lanes some_lane passed,
      atomic_enters (wide := false) rfl hr hs ht lanes some_lane passed⟩
    all_goals
      rw [← narrow]
      rfl
  case compare =>
    intro a b base c t n s τ hr hs ht xs hne hva
    exact atomic_enters (wide := false) rfl hr hs ht (atomicLanes_compared τ _ _ _ base) (mt List.map_eq_nil_iff.1 hne)
      (vaGuard_accesses (by decide) hva)
  case wide =>
    intro a b base c t n s τ hr hs ht both xs ys
    refine ⟨?_, fun hne hva => ?_⟩
    · intro hne hva ls o ho
      have lanes := atomicLanes_wide τ (readSrc τ false a) (readSrc τ true b) base
      have some_lane : ls ≠ [] := mt List.map_eq_nil_iff.1 hne
      have passed : vaGuard ls 8 = .ok () := vaGuard_accesses (by decide) hva
      obtain rfl | rfl := List.mem_pair.1 ho
      all_goals exact ⟨atomic_enters rfl hr hs ht lanes some_lane passed, atomic_enters rfl hr hs ht lanes some_lane passed⟩
    · exact atomic_enters rfl hr hs ht (atomicLanes_wideCompared τ _ _ _ base) (mt List.map_eq_nil_iff.1 hne) (vaGuard_accesses (by decide) hva)

end Sys2Proof.Proofs

namespace Sys2Proof.Machine

/-! The checks of a pen, and where its bytes stand (R18, R43, R52, R54). -/

section PenChecks
variable {s : State} {τ : Task} {n len al : Nat} {off : Int}

theorem penReach_of_reaches {p : Pen} (h : Claims.Reaches s τ n off len p) : penReach s s.occ.a τ.cx.asid n off len = none := by
  obtain ⟨hp, hsize, low, high, hasid⟩ := h
  simp only [penReach, penAt, hp]
  rw [if_neg hsize, if_neg (by omega), if_neg (not_not.2 hasid)]

theorem penCheck_of_penOk (h : Claims.PenOk s τ n off len al) : penCheck s τ n off len al = none := by
  obtain ⟨aligned, p, reaches, hown, hgives⟩ := h
  have free : (penAt s s.occ.a n).elim false (ownedFor τ n) = false := by
    rw [penAt, reaches.1, Option.elim_some, Bool.eq_false_iff, Ne, ownedFor_iff]
    rintro (held | ⟨g, hg, hn⟩)
    · exact absurd held (by simp [hown])
    · exact hgives g hg hn
  simp only [penCheck, penReach_of_reaches reaches, free, Bool.false_eq_true, if_false]
  exact if_neg (not_not.2 aligned)

theorem penCheck_of_penReach {c d : Nat} (aligned : off % (al : Int) = 0) (h : penReach s s.occ.a τ.cx.asid n off len = some (c, d)) :
    penCheck s τ n off len al = some (c, d) := by
  simp only [penCheck, h]
  exact if_neg (not_not.2 aligned)

theorem penCheck_of_held {p : Pen} (aligned : off % (al : Int) = 0) (h : Claims.Reaches s τ n off len p)
    (hheld : p.own = true ∨ ∃ g ∈ τ.gives, g.1 = n) : penCheck s τ n off len al = some (causeOwnViol, 0) := by
  have held : (penAt s s.occ.a n).elim false (ownedFor τ n) = true := by
    rw [penAt, h.1, Option.elim_some, ownedFor_iff]
    exact hheld
  simp only [penCheck, penReach_of_reaches h, held, if_true]
  exact if_neg (not_not.2 aligned)

theorem penCheck_of_penFault {c d : Nat} (h : Claims.PenFault s τ n off len al c d) : penCheck s τ n off len al = some (c, d) := by
  obtain ⟨misaligned, rfl, rfl⟩ | ⟨aligned, ⟨hnone, rfl, rfl⟩ | ⟨p, hp, hsize, h⟩⟩ := h
  · exact if_pos misaligned
  · refine penCheck_of_penReach aligned ?_
    cases hp : sget s.tab.pens (s.occ.a * 1024 + n) with
    | none => simp only [penReach, penAt, hp]
    | some p =>
      simp only [penReach, penAt, hp]
      exact if_pos (hnone p hp)
  · obtain ⟨outside, rfl, rfl⟩ | ⟨⟨low, high⟩, ⟨hasid, rfl, rfl⟩ | ⟨hasid, hheld, rfl, rfl⟩⟩ := h
    · refine penCheck_of_penReach aligned ?_
      simp only [penReach, penAt, hp]
      rw [if_neg hsize, if_pos outside]
    · refine penCheck_of_penReach aligned ?_
      simp only [penReach, penAt, hp]
      rw [if_neg hsize, if_neg (by omega), if_pos hasid]
    · exact penCheck_of_held aligned ⟨hp, hsize, low, high, hasid⟩ hheld

end PenChecks

theorem pwOff_eq_wordOff {v : Word} {i : Nat} (hi : i < 2048) : pwOff v i = Claims.wordOff v i := by
  rw [pwOff, sextImm_eq i hi]
  rfl

section PenWord
variable {s : State} {τ : Task} {i : Nat} {v : Word} {p : Pen} (hi : i < 2048)
include hi

theorem penByte_eq_wordAt (hp : sget s.tab.pens (s.occ.a * 1024 + v.toNat / 2 ^ 22) = some p) :
    penByte s s.occ.a (penOf v.toNat) (pwOff v i).toNat = Claims.wordAt s p v i := by
  simp only [penByte, penAt, penOf, hp, Option.elim_some, pwOff_eq_wordOff hi, Claims.wordAt]

/-- Every lane of an LDP or STP passes the checks of its pen. -/
theorem penLanesCheck_ok {xs : List (Nat × Word)} (h : ∀ x ∈ xs, Claims.PenOk s τ (x.2.toNat / 2 ^ 22) (Claims.wordOff x.2 i) 4 4) :
    penLanesCheck s τ i xs = .ok () := by
  refine foldl_guard_ok fun x hx => ?_
  rw [pwOff_eq_wordOff hi, penOf, penCheck_of_penOk (h x hx)]
  rfl

omit hi in
theorem wordAt_mod_four (aligned : Claims.wordOff v i % (4 : Nat) = 0) : Claims.wordAt s p v i % 4 = 0 := by
  unfold Claims.wordAt
  omega

end PenWord

/-! LDP and STP (R56, R82, R83, R275, R276). -/

/-- The state once an LDP has read the words of these lanes. -/
def ldpRead (s : State) (i : Nat) (xs : List (Nat × Word)) : State :=
  xs.foldl (fun s x => fixSram s (penByte s s.occ.a (penOf x.2.toNat) (pwOff x.2 i).toNat) 4) (drainStp s s.occ.a)

theorem fixSram_tab (s : State) (a n : Nat) : (fixSram s a n).tab = s.tab ∧ (fixSram s a n).occ = s.occ :=
  foldl_keeps (fun t : State => t.tab = s.tab ∧ t.occ = s.occ) _ _ s ⟨rfl, rfl⟩ fun _ _ h => h

theorem ldpRead_tab (s : State) (i : Nat) (xs : List (Nat × Word)) : (ldpRead s i xs).tab = s.tab ∧ (ldpRead s i xs).occ = s.occ := by
  refine foldl_keeps (fun t : State => t.tab = s.tab ∧ t.occ = s.occ) _ xs _ (drainStp_tab s _) fun t x ⟨htab, hocc⟩ => ?_
  obtain ⟨tab, occ⟩ := fixSram_tab t (penByte t t.occ.a (penOf x.2.toNat) (pwOff x.2 i).toNat) 4
  exact ⟨tab.trans htab, occ.trans hocc⟩

/-- The word that an LDP reads under a lane's PADDR, unless it is uncorrectable. -/
def ldpWord (s : State) (i : Nat) (xs : List (Nat × Word)) (v : Word) : Option Nat :=
  sramRead (ldpRead s i xs) (penByte (ldpRead s i xs) s.occ.a (penOf v.toNat) (pwOff v i).toNat) 4

/-- What an LDP answers where each of its lanes reads a word. -/
def ldpLanes (s : State) (i : Nat) (xs : List (Nat × Word)) : Lanes :=
  mkLanes fun l => (xs.find? (·.1 == l)).bind fun x => (ldpWord s i xs x.2).map (BitVec.ofNat 32)

section LdpWord
variable {s : State} {τ : Task} {i : Nat} {xs : List (Nat × Word)} {v : Word} {p : Pen} (hi : i < 2048)
  (hp : sget s.tab.pens (s.occ.a * 1024 + v.toNat / 2 ^ 22) = some p)
include hi hp

theorem ldpWord_eq : ldpWord s i xs v = sramRead (ldpRead s i xs) (Claims.wordAt s p v i) 4 := by
  have same : penByte (ldpRead s i xs) s.occ.a (penOf v.toNat) (pwOff v i).toNat = Claims.wordAt s p v i := by
    rw [← penByte_eq_wordAt hi hp, penByte, penAt, (ldpRead_tab s i xs).1]
    rfl
  rw [ldpWord, same]

theorem ldpWord_of_bad (h : sramBadAt (ldpRead s i xs) (Claims.wordAt s p v i) = true) : ldpWord s i xs v = none := by
  rw [ldpWord_eq hi hp, sramRead_bad h]

theorem ldpWord_of_good (hok : Claims.PenOk s τ (v.toNat / 2 ^ 22) (Claims.wordOff v i) 4 4)
    (h : sramBadAt (ldpRead s i xs) (Claims.wordAt s p v i) = false) : ∃ w, ldpWord s i xs v = some w ∧
      ∀ k, k < 4 → (BitVec.ofNat 32 w >>> (8 * k)).setWidth 8 = mget (ldpRead s i xs).mem.sram (Claims.wordAt s p v i + k) := by
  rw [ldpWord_eq hi hp]
  exact sramRead_word (wordAt_mod_four hok.1) h

end LdpWord

theorem find?_execLanes {τ : Task} {x : Lanes} {y : Nat × Word} (h : y ∈ execLanes τ x) : (execLanes τ x).find? (·.1 == y.1) = some y := by
  cases hf : (execLanes τ x).find? (·.1 == y.1) with
  | none => exact absurd (beq_self_eq_true y.1) (List.find?_eq_none.1 hf y h)
  | some z => rw [execLanes_unique (List.mem_of_find?_eq_some hf) h (beq_iff_eq.1 (List.find?_some hf :))]

theorem ldpLanes_isSome {s : State} {i l : Nat} {xs : List (Nat × Word)} (hl : l < 32) (h : ∀ x ∈ xs, (ldpWord s i xs x.2).isSome) :
    (laneOf (ldpLanes s i xs) l).isSome ↔ ∃ x ∈ xs, x.1 = l := by
  rw [ldpLanes, laneOf_mkLanes hl]
  cases hf : xs.find? (·.1 == l) with
  | none => exact iff_of_false (by simp) fun ⟨x, hx, lane⟩ => List.find?_eq_none.1 hf x hx (beq_iff_eq.2 lane)
  | some x =>
    have hx : x ∈ xs := List.mem_of_find?_eq_some hf
    have lane : x.1 = l := beq_iff_eq.1 (List.find?_some hf :)
    rw [Option.bind_some, Option.isSome_map]
    exact iff_of_true (h x hx) ⟨x, hx, lane⟩

/-- The word of an executed lane stands in that lane. -/
theorem laneOf_ldpLanes {s : State} {i w : Nat} {τ : Task} {x : Lanes} {y : Nat × Word} (hy : y ∈ execLanes τ x)
    (hw : ldpWord s i (execLanes τ x) y.2 = some w) : laneOf (ldpLanes s i (execLanes τ x)) y.1 = some (BitVec.ofNat 32 w) := by
  obtain ⟨hlane, -, -⟩ := execLanes_spec hy
  rw [ldpLanes, laneOf_mkLanes hlane, find?_execLanes hy, Option.bind_some, hw, Option.map_some]

section Ldp
variable {a : Src} {i : Nat} {t : Target} {s : State} {τ : Task}

theorem exec_ldp_of_waits (h : ldpWaits a i s = true) : exec (.ldp a i t) s = .next s := if_pos h

variable {xs : List (Nat × Word)} (hi : i < 2048) (hr : Runs s τ) (hw : ldpWaits a i s = false) (hs : SrcsOk τ [a]) (ht : targetOk s τ t = true)
  (hxs : execLanes τ (readSrc τ false a) = xs) (hok : ∀ x ∈ xs, Claims.PenOk s τ (x.2.toNat / 2 ^ 22) (Claims.wordOff x.2 i) 4 4)

include hi hw hs ht hxs hok in
/-- Once its checks are passed, an LDP answers its words, or the lowest lane without one. -/
theorem ldp_body : ∃ f, exec (.ldp a i t) s = runBody f s ∧ f s τ =
    match xs.find? (fun x => (ldpWord s i xs x.2).isNone) with
    | some x => stop causeMemUe x.2.toNat
    | none => finish (ldpRead s i xs) τ t (ldpLanes s i xs) >>= fun τ' => .ok (ldpRead s i xs, τ') := by
  refine ⟨_, (show execLdp a i t s = _ from if_neg (by simp [hw])), ?_⟩
  simp only [operands_ok hs ht, body_ok_bind, hxs, penLanesCheck_ok hi hok]
  rfl

include hi hr hw hs ht hxs hok

theorem ldp_ends_of_bad {pre post : List (Nat × Word)} {q : Nat × Word} (hsplit : xs = pre ++ q :: post) (hq : ldpWord s i xs q.2 = none)
    (hpre : ∀ x ∈ pre, (ldpWord s i xs x.2).isSome) : EndsWith (.ldp a i t) s τ causeMemUe 0 q.2.toNat := by
  obtain ⟨f, he, hf⟩ := ldp_body hi hw hs ht hxs hok
  have lowest : xs.find? (fun x => (ldpWord s i xs x.2).isNone) = some q :=
    List.find?_eq_some_iff_append.2 ⟨by rw [hq]; rfl, pre, post, hsplit, fun x hx => by simpa [Option.isSome_iff_ne_none] using hpre x hx⟩
  refine endsWith_of_runBody he hr ?_
  rw [hf, lowest]
  rfl

theorem ldp_answers (hgood : ∀ x ∈ xs, (ldpWord s i xs x.2).isSome) (hl : Lands (ldpRead s i xs) τ t (ldpLanes s i xs)) :
    ∃ τ', put (ldpRead s i xs) τ t (ldpLanes s i xs) = .ok τ' ∧ exec (.ldp a i t) s = .next ((ldpRead s i xs).setTask (τ'.advance 1)) := by
  obtain ⟨f, he, hf⟩ := ldp_body hi hw hs ht hxs hok
  obtain ⟨τ', hput⟩ := put_ok hl
  have none_bad : xs.find? (fun x => (ldpWord s i xs x.2).isNone) = none :=
    List.find?_eq_none.2 fun x hx => by simpa [Option.isSome_iff_ne_none] using hgood x hx
  refine ⟨τ', hput, he.trans (runBody_ok hr ?_)⟩
  rw [hf, none_bad]
  simp only [finish_ok hput, body_ok_bind]

end Ldp

/-- The access that an STP makes for a lane of latch A and its value (R276). -/
def stpLane (s : State) (i : Nat) (val : Lanes) (x : Nat × Word) : Lane :=
  Claims.access x.1 (penByte s s.occ.a (penOf x.2.toNat) (pwOff x.2 i).toNat : Nat) 4 ((laneOf val x.1).getD 0).toNat (penOf x.2.toNat)

theorem stp_enters {a : Src} {i : Nat} {s : State} {τ : Task} {xs : List (Nat × Word)} (hi : i < 2048) (hr : Runs s τ) (hs : SrcsOk τ [a])
    (hxs : (execLanes τ (latchA τ)).filter (fun x => (laneOf (readSrc τ false a) x.1).isSome) = xs) (hne : xs ≠ [])
    (hok : ∀ x ∈ xs, Claims.PenOk s τ (x.2.toNat / 2 ^ 22) (Claims.wordOff x.2 i) 4 4) :
    Enters (.stp a i) s τ (mkOp s τ (.stp []) none (readSrc τ false a) noLanes (xs.map (stpLane s i (readSrc τ false a)))) := by
  refine enters_of_body (show execStp a i s = runTask _ s from rfl) hr ?_
  have some_lane : (xs.map (stpLane s i (readSrc τ false a))).isEmpty = false := by simpa using hne
  simp only [check_true (srcOk_one hs), body_ok_bind, hxs, penLanesCheck_ok hi hok]
  exact if_neg (by rw [Bool.not_eq_true]; exact some_lane)

end Sys2Proof.Machine

namespace Sys2Proof.Proofs
open Sys2Proof.Machine

/-- Settles O35: an LDP by the words that it reads, a drain with nothing to write, and the lanes of an STP. -/
theorem scratchpadLoadsAndStores : Obligations.ScratchpadLoadsAndStores := by
  refine ⟨fun a i t s => exec_ldp_of_waits, ?ldp, drainStp_none, ?stp⟩
  case ldp =>
    intro a i t s τ hi hr hw hs ht xs s' bad hok
    have good : ∀ x ∈ xs, ∀ p, sget s.tab.pens (s.occ.a * 1024 + x.2.toNat / 2 ^ 22) = some p → ¬ bad (Claims.wordAt s p x.2 i) →
        ∃ w, ldpWord s i xs x.2 = some w ∧
          ∀ k, k < 4 → (BitVec.ofNat 32 w >>> (8 * k)).setWidth 8 = mget s'.mem.sram (Claims.wordAt s p x.2 i + k) :=
      fun x hx p hp hbad => ldpWord_of_good hi hp (hok x hx) (Bool.eq_false_iff.2 (mt sramBadAt_iff.1 hbad))
    have read : ∀ x ∈ xs, (∀ p, sget s.tab.pens (s.occ.a * 1024 + x.2.toNat / 2 ^ 22) = some p → ¬ bad (Claims.wordAt s p x.2 i)) →
        (ldpWord s i xs x.2).isSome := fun x hx h => by
      obtain ⟨-, p, reaches, -⟩ := hok x hx
      obtain ⟨w, hw, -⟩ := good x hx p reaches.1 (h p reaches.1)
      exact Option.isSome_of_eq_some hw
    refine ⟨fun pre q post p hxs hp hbad hpre => ?_, fun hgood => ⟨ldpLanes s i xs, fun l hl => ?_, fun x hx p hp => ?_, ?_⟩⟩
    · refine ldp_ends_of_bad hi hr hw hs ht rfl hok hxs (ldpWord_of_bad hi hp (sramBadAt_iff.2 hbad)) fun x hx => ?_
      exact read x (hxs ▸ List.mem_append_left _ hx) (hpre x hx)
    · exact ldpLanes_isSome hl fun x hx => read x hx (hgood x hx)
    · obtain ⟨w, hw, hbytes⟩ := good x hx p hp (hgood x hx p hp)
      exact ⟨BitVec.ofNat 32 w, laneOf_ldpLanes hx hw, hbytes⟩
    · exact ldp_answers hi hr hw hs ht rfl hok fun x hx => read x hx (hgood x hx)
  case stp =>
    intro a i s τ hi hr hs val xs hne hok
    refine ⟨_, fun y hy => ?_, ?_, stp_enters hi hr hs rfl hne hok⟩
    · obtain ⟨x, hx, rfl⟩ := List.mem_map.1 hy
      obtain ⟨-, p, reaches, -⟩ := hok x hx
      obtain ⟨w, hw⟩ := Option.isSome_iff_exists.1 (List.mem_filter.1 hx).2
      refine ⟨x, hx, p, w, reaches.1, hw, rfl, ?_, rfl, ?_, rfl⟩
      · exact congrArg _ (penByte_eq_wordAt hi reaches.1)
      · simp only [stpLane, Claims.access, hw, Option.getD_some]
    · rw [List.map_map]
      rfl

end Sys2Proof.Proofs

namespace Sys2Proof.Machine

/-! GIVE, QPOST, QFREE and QSTAT as they issue (R62, R290, R294, R295). -/

/-- The task once its GIVE of a pen to an engine is noted. -/
def givenPen (τ : Task) (pen eng : Nat) : Task := { τ with gives := τ.gives ++ [(pen, eng, eng == 8)] }

theorem give_noted {a : Src} {eng : Nat} {s : State} {τ : Task} {v : Word} (hr : Runs s τ) (hs : SrcsOk τ [a])
    (hl : Claims.SomeLane τ [readSrc τ false a]) (hv : laneOf (readSrc τ false a) 0 = some v) (hok : Claims.PenOk s τ (penOf v.toNat) 0 0 1) :
    let τ' := givenPen τ (penOf v.toNat) eng
    exec (.give a eng) s = .next (s.setTask ((τ'.enter (mkOp s τ' (.give (penOf v.toNat) eng) none (readSrc τ false a) noLanes [])).advance 1)) := by
  refine next_of_body (show execGive a eng s = runTask _ s from rfl) hr ?_
  simp only [check_true (srcOk_one hs), body_ok_bind, lane0_of_someLane hl hv, penGuard, penCheck_of_penOk hok]
  rfl

theorem troughOk_of_troughIs {s : State} {n : Nat} {q : Trough} (h : Claims.TroughIs s n q) : troughOk s s.occ.a n = some q := by
  obtain ⟨hplan, hq⟩ := h
  rw [troughOk, if_pos hplan, troughAt, hq]

theorem troughOk_of_none {s : State} {n : Nat} (h : ¬ ∃ q, Claims.TroughIs s n q) : troughOk s s.occ.a n = none := by
  unfold troughOk
  split
  · next hplan => exact Option.eq_none_iff_forall_ne_some.2 fun q hq => h ⟨q, hplan, hq⟩
  · rfl

/-- R59: the slot is one that its party may move: taken and not freed yet, or reserved and not posted yet. -/
def slotReady (isFree : Bool) (q : Trough) (slot : Nat) : Prop :=
  if isFree then (slot + q.nslot - q.nxf) % q.nslot < q.taken ∧ slot ∉ q.freed
  else (slot + q.nslot - q.nxp) % q.nslot < q.rsvd ∧ slot ∉ q.posted

section SlotCheck
variable {s : State} {pen kind : Nat} {isFree : Bool}

theorem slotCheck_of_no_slot (h : ∀ e, sget s.tab.pens (s.occ.a * 1024 + pen) = some e → e.size = 0 ∨ e.tm = false) :
    slotCheck s s.occ.a pen kind isFree = .error 0x04 := by
  unfold slotCheck penAt
  cases he : sget s.tab.pens (s.occ.a * 1024 + pen) with
  | none => rfl
  | some e => exact if_pos (by simpa using h e he)

variable {p : Pen} {q : Trough} (hp : sget s.tab.pens (s.occ.a * 1024 + pen) = some p) (hsize : p.size ≠ 0) (htm : p.tm = true)
include hp hsize htm

theorem slotCheck_of_no_trough (h : ¬ ∃ r, Claims.TroughIs s p.trg r) : slotCheck s s.occ.a pen kind isFree = .error 0x01 := by
  simp only [slotCheck, penAt, hp, troughOk_of_none h]
  exact if_neg (by simp [hsize, htm])

variable (hq : Claims.TroughIs s p.trg q)
include hq

theorem slotCheck_of_outside (h : pen < q.pen0 ∨ q.pen0 + q.nslot ≤ pen) : slotCheck s s.occ.a pen kind isFree = .error 0x04 := by
  simp only [slotCheck, penAt, hp, troughOk_of_troughIs hq]
  rw [if_neg (by simp [hsize, htm]), if_pos (by simpa using h)]

/-- For a pen among the trough's slots the other party's kind comes before the slot's state. -/
theorem slotCheck_of_slot [Decidable (slotReady isFree q (pen - q.pen0))] (hlo : q.pen0 ≤ pen) (hhi : pen < q.pen0 + q.nslot) :
    slotCheck s s.occ.a pen kind isFree =
      if (if isFree then q.ckind else q.pkind) ≠ kind then .error 0x05
      else if slotReady isFree q (pen - q.pen0) then .ok (p.trg, pen - q.pen0)
      else .error (if isFree then 0x03 else 0x02) := by
  have slot : pen - q.pen0 < q.nslot := by omega
  have among : ¬ (decide (pen < q.pen0) || decide (q.pen0 + q.nslot ≤ pen)) = true := by
    simp only [Bool.or_eq_true, decide_eq_true_eq]
    omega
  simp only [slotCheck, penAt, hp, troughOk_of_troughIs hq]
  rw [if_neg (by simp [hsize, htm]), if_neg among]
  refine if_congr Iff.rfl rfl ?_
  cases isFree
  · have refused : (!slotRsvd q (pen - q.pen0) || q.posted.contains (pen - q.pen0)) = true ↔ ¬ slotReady false q (pen - q.pen0) := by
      simp [slotRsvd, slotReady, slot, imp_iff_not_or]
    exact (if_congr refused rfl rfl).trans (ite_not ..)
  · have refused : (!slotTaken q (pen - q.pen0) || q.freed.contains (pen - q.pen0)) = true ↔ ¬ slotReady true q (pen - q.pen0) := by
      simp [slotTaken, slotReady, slot, imp_iff_not_or]
    exact (if_congr refused rfl rfl).trans (ite_not ..)

end SlotCheck

section SlotBody
variable {a : Src} {isFree : Bool} {s : State} {τ : Task} {v : Word} (hs : SrcsOk τ [a]) (hl : Claims.SomeLane τ [readSrc τ false a])
  (hv : laneOf (readSrc τ false a) 0 = some v)
include hs hl hv

theorem slotBody_of_error {d : Nat} (h : slotCheck s s.occ.a (penOf v.toNat) 0 isFree = .error d) :
    slotBody isFree a s τ = .error (.fault causeTrough d v.toNat) := by
  simp only [slotBody, check_true (srcOk_one hs), body_ok_bind, lane0_of_someLane hl hv, h]

variable {r : Nat × Nat} (h : slotCheck s s.occ.a (penOf v.toNat) 0 isFree = .ok r)
include h

theorem slotBody_of_moved (hm : (penOf v.toNat, isFree) ∈ τ.moves) :
    slotBody isFree a s τ = .error (.fault causeTrough (if isFree then 0x03 else 0x02) v.toNat) := by
  simp only [slotBody, check_true (srcOk_one hs), body_ok_bind, lane0_of_someLane hl hv, h, List.contains_iff_mem.2 hm, if_true]

variable (hm : (penOf v.toNat, isFree) ∉ τ.moves)
include hm

theorem slotBody_of_penFault {c d : Nat} (hf : Claims.PenFault s τ (penOf v.toNat) (offOf v.toNat : Nat) 4 4 c d) :
    slotBody isFree a s τ = .error (.fault c d v.toNat) := by
  simp only [slotBody, check_true (srcOk_one hs), body_ok_bind, lane0_of_someLane hl hv, h, List.contains_iff_mem, hm, if_false,
    penCheck_of_penFault hf, penGuard]
  rfl

theorem slotBody_of_penOk (hok : Claims.PenOk s τ (penOf v.toNat) (offOf v.toNat : Nat) 4 4) :
    slotBody isFree a s τ =
      let τ' := { τ with moves := τ.moves ++ [(penOf v.toNat, isFree)] }
      .ok ((τ'.enter (mkOp s τ' (if isFree then .qfree (penOf v.toNat) else .qpost (penOf v.toNat)) none noLanes noLanes [])).advance 1) := by
  simp only [slotBody, check_true (srcOk_one hs), body_ok_bind, lane0_of_someLane hl hv, h, List.contains_iff_mem, hm, if_false,
    penCheck_of_penOk hok, penGuard]

end SlotBody

theorem laneOf_lanesOf {ws : List Word} {l : Nat} (h : l < 32) : laneOf (lanesOf ws) l = ws[l]? :=
  laneOf_mkLanes (f := fun l => ws[l]?) h

/-- The counts and the positions that QSTAT answers (R295). -/
def troughState (q : Trough) : List Nat :=
  [q.free, q.rsvd, q.filled, q.taken, peWaiters q, q.nxr + q.nxp * 2 ^ 8 + q.nxt * 2 ^ 16 + q.nxf * 2 ^ 24]

theorem qstat_writes {a : Src} {t : Target} {s : State} {τ : Task} {v : Word} {q : Trough} (hr : Runs s τ) (hs : SrcsOk τ [a])
    (hl : Claims.SomeLane τ [readSrc τ false a]) (hv : laneOf (readSrc τ false a) 0 = some v) (h64 : v.toNat < 64) (ht : targetOk s τ t = true)
    (hq : Claims.TroughIs s v.toNat q) (hland : Lands s τ t (lanesOf (((troughState q).take τ.w).map (BitVec.ofNat 32)))) :
    Writes (.qstat a t) s τ t (lanesOf (((troughState q).take τ.w).map (BitVec.ofNat 32))) 1 := by
  have named : (v.toNat / 64 == 0) = true := beq_iff_eq.2 (Nat.div_eq_of_lt h64)
  refine writes_of (show execQstat a t s = runTask _ s from rfl) hr hland ?_
  simp only [check_true (srcOk_one hs), checkTarget_ok ht, body_ok_bind, lane0_of_someLane hl hv, check_true named, Nat.mod_eq_of_lt h64,
    troughOk_of_troughIs hq, troughState]

end Sys2Proof.Machine

namespace Sys2Proof.Proofs
open Sys2Proof.Machine

/-- Settles O36: GIVE by its pen's checks, QPOST and QFREE by the checks of their slot and then of its pen, QSTAT by the trough's state. -/
theorem penHandOverAndTroughState : Obligations.PenHandOverAndTroughState := by
  refine ⟨fun a eng s τ v hr hs hl hv hok => give_noted hr hs hl hv hok, ?slot, ?stat⟩
  case slot =>
    intro k hk a s τ v p q hr hs hl hv pen
    obtain ⟨he, hop⟩ : (exec (k.1 a) s = runTask (slotBody k.2.2 a) s) ∧ (if k.2.2 then OpKind.qfree pen else .qpost pen) = k.2.1 pen := by
      obtain rfl | rfl := List.mem_pair.1 hk <;> exact ⟨rfl, rfl⟩
    have ends {d : Nat} (h : slotCheck s s.occ.a pen 0 k.2.2 = .error d) : EndsWith (k.1 a) s τ causeTrough d v.toNat :=
      endsWith_of_runTask he hr (slotBody_of_error hs hl hv h)
    refine ⟨fun h => ends (slotCheck_of_no_slot h), fun hp hsize htm => ⟨fun h => ends (slotCheck_of_no_trough hp hsize htm h), fun hq => ?_⟩⟩
    refine ⟨fun h => ends (slotCheck_of_outside hp hsize htm hq h), ?_⟩
    intro hlo hhi slot theirs ready
    classical
    have checked := slotCheck_of_slot (kind := 0) (isFree := k.2.2) hp hsize htm hq hlo hhi
    have passed (h : theirs = 0) (hy : ready) : slotCheck s s.occ.a pen 0 k.2.2 = .ok (p.trg, slot) :=
      checked.trans ((if_neg (not_not.2 h)).trans (if_pos hy))
    refine ⟨fun h => ends (checked.trans (if_pos h)), fun h hn => ?_, fun h hy hm => ⟨fun c d hf => ?_, ?_⟩⟩
    · by_cases hy : ready
      · exact endsWith_of_runTask he hr (slotBody_of_moved hs hl hv (passed h hy) (hn.resolve_left (not_not.2 hy)))
      · exact ends (checked.trans ((if_neg (not_not.2 h)).trans (if_neg hy)))
    · exact endsWith_of_runTask he hr (slotBody_of_penFault hs hl hv (passed h hy) hm hf)
    · intro hok τ'
      rw [← hop]
      exact next_of_body he hr (slotBody_of_penOk hs hl hv (passed h hy) hm hok)
  case stat =>
    intro a t s τ v q hr hs hl hv h64 ht hq
    refine ⟨lanesOf (((troughState q).take τ.w).map (BitVec.ofNat 32)), fun l hl => ?_, fun hland => qstat_writes hr hs hl hv h64 ht hq hland⟩
    rw [laneOf_lanesOf hl]
    simp only [List.map_take, List.getElem?_take]
    rfl

end Sys2Proof.Proofs

namespace Sys2Proof.Machine

/-! What a Dray command asks of its parameter vector (R297, R298). -/

/-- No bit of a word stands outside a mask. -/
def Masked (w m : Nat) : Prop := w &&& m = w

theorem masked_zero {w : Nat} : Masked w 0 ↔ w = 0 := by
  rw [Masked, Nat.and_zero, eq_comm]

theorem masked_two_pow_sub_one {w n : Nat} : Masked w (2 ^ n - 1) ↔ w < 2 ^ n := by
  rw [Masked, Nat.and_two_pow_sub_one_eq_mod, Nat.mod_eq_iff_lt (by positivity)]

theorem masked_maskTrough {w : Nat} : Masked w maskTrough ↔ w < 2 ^ 26 ∧ w % 2 ^ 20 = 0 := by
  refine ⟨fun h => ?_, fun ⟨h26, h20⟩ => beq_iff_eq.1 (and_maskTrough_beq h26 h20)⟩
  have low : maskTrough &&& (2 ^ 20 - 1) = 0 := by decide
  constructor
  · rw [← h]
    exact Nat.and_lt_two_pow w (by decide)
  · rw [← Nat.and_two_pow_sub_one_eq_mod, ← h, Nat.and_assoc, low, Nat.and_zero]

theorem masked_maskAll (x : Lanes) (l : Nat) : Masked (Claims.wordOf x l) maskAll :=
  masked_two_pow_sub_one.2 (BitVec.isLt _)

theorem masked_maskTile {w : Nat} : Masked w maskTile ↔ w < 2 ^ 20 := masked_two_pow_sub_one

theorem masked_tileAndTrough {w : Nat} : Masked w (maskTile + maskTrough) ↔ w < 2 ^ 26 := masked_two_pow_sub_one (n := 26)

theorem masked_tileTroughAndLvl {w : Nat} : Masked w (maskTile + maskTrough + maskLvl) ↔ w < 2 ^ 28 := masked_two_pow_sub_one (n := 28)

/-- What a form asks of the parameter vector: R298 steps 2 and 5, and for a subgroup R199. -/
def FormOk (f : DrayForm) (s : State) (τ : Task) (w : Nat → Nat) : Prop :=
  (∀ l, l < 8 → Masked (w l) (f.masks.getD l 0)) ∧ (f.len = true → Claims.LenOk (w 3)) ∧ (f.dest = true → Claims.DestOk s τ (w 4)) ∧
    (f.group = true → Claims.InGroup s τ (w 5))

theorem dtileOk_iff {s : State} {q n : Nat} :
    dtileOk s q n = true ↔ ∃ l, sget s.sch.launches q = some l ∧ n % 16 < l.wd ∧ n / 16 < l.ht := by
  unfold dtileOk
  cases sget s.sch.launches q <;> simp

/-- R298 step 5 for a destination tile, after step 2 has looked at DPKG. -/
def destKnown (f : DrayForm) (s : State) (τ : Task) (w : Nat) : Bool := !f.dest || bit w 19 || dtileOk s τ.cx.q (w % 512)

/-- R298 step 5 for a subgroup. -/
def groupKnown (f : DrayForm) (s : State) (τ : Task) (d : Nat) : Bool := !f.group || (ownGroup s τ (d % 2 ^ 16)).isSome

theorem fieldsOk_iff {f : DrayForm} {x : Lanes} : fieldsOk f (laneWords x 8) = true ↔
    (∀ l, l < 8 → Masked (Claims.wordOf x l) (f.masks.getD l 0)) ∧ (f.len = true → Claims.LenOk (Claims.wordOf x 3)) ∧
      (f.dest = true → bit (Claims.wordOf x 4) 19 = true ∨ bits (Claims.wordOf x 4) 9 10 = 0) := by
  have mask : ((upto 8).all fun l => (laneWords x 8).getD l 0 &&& f.masks.getD l 0 == (laneWords x 8).getD l 0) = true ↔
      ∀ l, l < 8 → Masked (Claims.wordOf x l) (f.masks.getD l 0) := by
    simp only [List.all_eq_true, upto, List.mem_range, beq_iff_eq]
    refine forall₂_congr fun l hl => ?_
    rw [List.getD_eq_getElem?_getD, getElem?_laneWords x hl, Masked]
  have dest : (!f.dest || bit (Claims.wordOf x 4) 19 || bits (Claims.wordOf x 4) 9 10 == 0) = true ↔
      (f.dest = true → bit (Claims.wordOf x 4) 19 = true ∨ bits (Claims.wordOf x 4) 9 10 = 0) := by
    cases f.dest <;> simp
  have len : (!f.len || Claims.wordOf x 3 % 4 == 0 && decide (4 ≤ Claims.wordOf x 3) && decide (Claims.wordOf x 3 ≤ 2 ^ 22)) = true ↔
      (f.len = true → Claims.LenOk (Claims.wordOf x 3)) := by
    cases f.len <;> simp [Claims.LenOk, and_assoc]
  rw [← mask, ← dest, ← len, and_comm (a := (!f.len || _) = true), ← and_assoc, ← Bool.and_eq_true, ← Bool.and_eq_true]
  rfl

theorem formOk_iff {f : DrayForm} {s : State} {τ : Task} {x : Lanes} : FormOk f s τ (Claims.wordOf x) ↔
    fieldsOk f (laneWords x 8) = true ∧ destKnown f s τ (Claims.wordOf x 4) = true ∧ groupKnown f s τ (Claims.wordOf x 5) = true := by
  have dest : (f.dest = true → Claims.DestOk s τ (Claims.wordOf x 4)) ↔
      (f.dest = true → bit (Claims.wordOf x 4) 19 = true ∨ bits (Claims.wordOf x 4) 9 10 = 0) ∧ destKnown f s τ (Claims.wordOf x 4) = true := by
    cases hd : f.dest
    · simp [destKnown, hd]
    · simp only [destKnown, hd, Claims.DestOk, bit_eq_decide, bits, Bool.not_true, Bool.false_or, Bool.or_eq_true, decide_eq_true_eq, dtileOk_iff,
        true_imp_iff]
      exact or_and_left
  have group : groupKnown f s τ (Claims.wordOf x 5) = true ↔ (f.group = true → Claims.InGroup s τ (Claims.wordOf x 5)) := by
    cases hg : f.group <;> simp [groupKnown, hg, Claims.InGroup]
  rw [FormOk, fieldsOk_iff, dest, group]
  simp only [and_assoc]

theorem check_bind {α : Type} {c : Bool} {cause addr : Nat} {g : Unit → Body α} :
    check c cause addr >>= g = if c = true then g () else stop cause addr := by cases c <;> rfl

/-- What is left of a Dray command once its parameter vector has its eight lanes (R298 steps 2 to 5). -/
def drayChecked (k : OpKind) (ch : Nat) (f : DrayForm) (rows : Task → List Nat → List Lane) (n : Nat) (x : Lanes) (s : State)
    (τ : Task) : Body Task := do
  let w := Claims.wordOf x
  check (fieldsOk f (laneWords x 8)) causeBadSource
  penGuard (penReach s s.occ.a τ.cx.asid (penOf (w 0)) (offOf (w 0)) (f.reach τ.w (w 3))) (w 0)
  check (givenTo τ (penOf (w 0)) (ch + 1)) causeOwnViol (w 0)
  check (destKnown f s τ (w 4)) causeBadSource
  check (groupKnown f s τ (w 5)) causeBadSource
  .ok (((τ.consume (penOf (w 0)) (ch + 1)).enter (mkOp s τ k (some n) (Claims.below τ x) noLanes (rows τ (laneWords x 8)))).advance 1)

/-- The body of a Dray command: a vector without its lanes is refused, else the checks go on. -/
theorem drayBody_eq {k : OpKind} {ch : Nat} {f : DrayForm} {a : Src} {idx : List Src} {rows : Task → List Nat → List Lane} {n : Nat} {s : State}
    {τ : Task} (hs : SrcsOk τ [a]) (hn : (portAt s n).isSome) (hl : Claims.SomeLane τ (readSrc τ false a :: idx.map (readSrc τ true)))
    [Decidable (Claims.VectorOf τ (readSrc τ false a) 8)] :
    drayBody k ch f a idx rows (.port n) s τ =
      if Claims.VectorOf τ (readSrc τ false a) 8 then drayChecked k ch f rows n (readSrc τ false a) s τ else stop causeBadSource 0 := by
  have lanes : (decide (8 ≤ τ.w) && (upto 8).all fun l => (laneOf (readSrc τ false a) l).isSome) = true ↔
      Claims.VectorOf τ (readSrc τ false a) 8 := by simp [Claims.VectorOf, upto]
  simp only [drayBody, check_true (srcOk_one hs), needPort_ok hn, body_ok_bind, anyExec_iff_someLane.2 hl, Bool.not_true, Bool.false_eq_true, if_false]
  by_cases hv : Claims.VectorOf τ (readSrc τ false a) 8
  · rw [check_true (lanes.2 hv), if_pos hv]
    rfl
  · rw [check_false (Bool.eq_false_iff.2 (mt lanes.1 hv)), if_neg hv]
    rfl

section Checked
variable {k : OpKind} {ch : Nat} {f : DrayForm} {rows : Task → List Nat → List Lane} {n : Nat} {x : Lanes} {s : State} {τ : Task}

theorem drayChecked_of_fields (h : fieldsOk f (laneWords x 8) = false) : drayChecked k ch f rows n x s τ = stop causeBadSource 0 := by
  simp only [drayChecked, check_false h]
  rfl

theorem drayChecked_of_not_given (h : FormOk f s τ (Claims.wordOf x))
    (hreach : ∃ p, Claims.Reaches s τ (penOf (Claims.wordOf x 0)) (offOf (Claims.wordOf x 0) : Nat) (f.reach τ.w (Claims.wordOf x 3)) p)
    (hg : ∀ g ∈ τ.gives, ¬ (g.1 = penOf (Claims.wordOf x 0) ∧ g.2.1 = ch + 1)) :
    drayChecked k ch f rows n x s τ = stop causeOwnViol (Claims.wordOf x 0) := by
  obtain ⟨fields, -, -⟩ := formOk_iff.1 h
  obtain ⟨p, reaches⟩ := hreach
  have not_given : givenTo τ (penOf (Claims.wordOf x 0)) (ch + 1) = false := by
    rw [Bool.eq_false_iff, Ne, givenTo_iff]
    exact fun ⟨g, hmem, hgiven⟩ => hg g hmem hgiven
  simp only [drayChecked, check_true fields, penReach_of_reaches reaches, penGuard, check_false not_given, body_ok_bind]
  rfl

/-- With the pen's bytes reached and the pen given, what is left are the form's own checks. -/
theorem drayChecked_of_penFor (h : Claims.PenFor s τ (Claims.wordOf x 0) (f.reach τ.w (Claims.wordOf x 3)) ch)
    [Decidable (FormOk f s τ (Claims.wordOf x))] : drayChecked k ch f rows n x s τ =
      if FormOk f s τ (Claims.wordOf x) then .ok (((Claims.consumed τ [Claims.wordOf x 0 / 2 ^ 22] (ch + 1)).enter
        (mkOp s τ k (some n) (Claims.below τ x) noLanes (rows τ (laneWords x 8)))).advance 1)
      else stop causeBadSource 0 := by
  obtain ⟨⟨p, reaches⟩, given⟩ := h
  have reached : penReach s s.occ.a τ.cx.asid (penOf (Claims.wordOf x 0)) (offOf (Claims.wordOf x 0)) (f.reach τ.w (Claims.wordOf x 3)) = none :=
    penReach_of_reaches reaches
  have isGiven : givenTo τ (penOf (Claims.wordOf x 0)) (ch + 1) = true := givenTo_iff.2 given
  simp only [drayChecked, reached, penGuard, check_true isGiven, body_ok_bind, check_bind, formOk_iff, ite_and]
  rfl

end Checked

section Dray
variable {i : Instr} {k : OpKind} {ch : Nat} {f : DrayForm} {a : Src} {idx : List Src} {rows : Task → List Nat → List Lane} {n : Nat} {s : State}
  {τ : Task} (he : ∃ body, exec i s = runTask body s ∧ body s τ = drayBody k ch f a idx rows (.port n) s τ) (hr : Runs s τ) (hs : SrcsOk τ [a])
  (hn : (portAt s n).isSome) (hl : Claims.SomeLane τ (readSrc τ false a :: idx.map (readSrc τ true)))
include he hr hs hn hl

theorem dray_ends_of_no_vector (h : ¬ Claims.VectorOf τ (readSrc τ false a) 8) : EndsWith i s τ causeBadSource 0 0 := by
  classical
  obtain ⟨body, he, hb⟩ := he
  refine endsWith_of_stop he hr ?_
  rw [hb, drayBody_eq hs hn hl, if_neg h]

variable (hv : Claims.VectorOf τ (readSrc τ false a) 8)
include hv

theorem dray_ends_of_checked {cause addr : Nat} (h : drayChecked k ch f rows n (readSrc τ false a) s τ = stop cause addr) :
    EndsWith i s τ cause 0 addr := by
  classical
  obtain ⟨body, he, hb⟩ := he
  refine endsWith_of_stop he hr ?_
  rw [hb, drayBody_eq hs hn hl, if_pos hv, h]

variable (hp : Claims.PenFor s τ (Claims.wordOf (readSrc τ false a) 0) (f.reach τ.w (Claims.wordOf (readSrc τ false a) 3)) ch)
include hp

theorem dray_refused (h : ¬ FormOk f s τ (Claims.wordOf (readSrc τ false a))) : EndsWith i s τ causeBadSource 0 0 := by
  classical
  exact dray_ends_of_checked he hr hs hn hl hv ((drayChecked_of_penFor hp).trans (if_neg h))

theorem dray_enters (h : FormOk f s τ (Claims.wordOf (readSrc τ false a))) :
    Claims.EntersAfter i s τ [Claims.wordOf (readSrc τ false a) 0 / 2 ^ 22] (ch + 1)
      (mkOp s τ k (some n) (Claims.below τ (readSrc τ false a)) noLanes (rows τ (laneWords (readSrc τ false a) 8))) := by
  classical
  obtain ⟨body, he, hb⟩ := he
  refine next_of_body he hr ?_
  rw [hb, drayBody_eq hs hn hl, if_pos hv, drayChecked_of_penFor hp, if_pos h]

end Dray

/-! The forms (R297, R300 to R305). -/

theorem drays_drayBody : ∀ c ∈ Claims.drays, ∃ (f : DrayForm) (rows : Task → List Nat → List Lane),
    (∀ a ch t s, exec (c.1 a ch t) s = runTask (drayBody (c.2.1 ch) ch f a [] rows t) s) ∧ (∀ w len, f.reach w len = c.2.2.1 len) ∧
    (∀ s τ x, FormOk f s τ (Claims.wordOf x) ↔ c.2.2.2 s τ (Claims.wordOf x)) ∧
    ∀ τ x ch, rows τ (laneWords x 8) = if c.2.1 ch = .dcopy 0 ch ∨ c.2.1 ch = .dcopy 1 ch
      then [Claims.access 0 (Claims.vaOf x : Nat) (Claims.wordOf x 3) (Claims.wordOf x 0 % 2 ^ 22) 0] else [] := by
  simp only [Claims.drays, List.forall_mem_cons, List.not_mem_nil, IsEmpty.forall_iff, implies_true, and_true]
  and_intros
  all_goals refine ⟨_, _, fun _ _ _ _ => rfl, fun _ _ => rfl, fun s τ x => ?_, fun _ _ _ => rfl⟩
  all_goals
    simp only [FormOk, globalForm, forall_lt_eight, List.getD_cons_zero, List.getD_cons_succ, List.getD_nil, masked_zero, masked_maskAll,
      masked_two_pow_sub_one, masked_maskTile, masked_maskTrough, masked_tileAndTrough, masked_tileTroughAndLvl, if_true, if_false,
      Bool.false_eq_true, true_imp_iff, false_imp_iff, true_and, and_true, and_assoc, and_comm, and_left_comm]

theorem dred_drayBody : ∃ f : DrayForm,
    (∀ a ch o i32 t s, exec (.dred a ch o i32 t) s = runTask (drayBody (.dred ch o i32) ch f a [] noRange t) s) ∧
    (∀ w len, f.reach w len = len) ∧
    ∀ s τ x, FormOk f s τ (Claims.wordOf x) ↔ Claims.LenOk (Claims.wordOf x 3) ∧ Claims.wordOf x 1 = 0 ∧ Claims.wordOf x 2 = 0 ∧
      Claims.wordOf x 4 = 0 ∧ Claims.wordOf x 5 < 2 ^ 24 ∧ Claims.InGroup s τ (Claims.wordOf x 5) ∧ Claims.wordOf x 6 = 0 ∧
      Claims.wordOf x 7 = 0 := by
  refine ⟨_, fun _ _ _ _ _ _ => rfl, fun _ _ => rfl, fun s τ x => ?_⟩
  simp only [FormOk, forall_lt_eight, List.getD_cons_zero, List.getD_cons_succ, List.getD_nil, masked_zero, masked_maskAll, masked_two_pow_sub_one,
    Bool.false_eq_true, true_imp_iff, false_imp_iff, true_and, and_assoc, and_comm, and_left_comm]

/-! DGATH and DSCAT (R301). -/

theorem formOk_rowForm (s : State) (τ : Task) (x : Lanes) : FormOk rowForm s τ (Claims.wordOf x) ↔ Claims.LenOk (Claims.wordOf x 3) ∧
    Claims.wordOf x 2 < 2 ^ 24 ∧ Claims.wordOf x 4 = 0 ∧ Claims.wordOf x 6 = 0 ∧ Claims.wordOf x 7 = 0 := by
  simp only [FormOk, rowForm, forall_lt_eight, List.getD_cons_zero, List.getD_cons_succ, List.getD_nil, masked_zero, masked_maskAll,
    masked_two_pow_sub_one, Bool.false_eq_true, true_imp_iff, false_imp_iff, true_and, and_true, and_comm, and_left_comm]

/-- They name no destination and no subgroup, so that step 2 of R298 is all that their vector can fail. -/
theorem fieldsOk_rowForm {s : State} {τ : Task} {x : Lanes} (h : ¬ FormOk rowForm s τ (Claims.wordOf x)) :
    fieldsOk rowForm (laneWords x 8) = false :=
  Bool.eq_false_iff.2 fun fields => h (formOk_iff.2 ⟨fields, rfl, rfl⟩)

theorem rowBody_eq {k : OpKind} {ch : Nat} {a b : Src} {t : Target} {s : State} {τ : Task} (hs : SrcsOk τ [a, b]) :
    rowBody k ch a b t s τ = drayBody k ch rowForm a [b] (rowRanges b) t s τ := by
  simp only [rowBody, check_true (srcOk_two hs), body_ok_bind]

end Sys2Proof.Machine

namespace Sys2Proof.Proofs
open Sys2Proof.Machine

/-- Settles O38: every Dray command has the shared body with a form of its own; DGATH and DSCAT check their second source before it. -/
theorem drayCommandsEnter : Obligations.DrayCommandsEnter := by
  refine ⟨?one, ?reduce, ?rows⟩
  case one =>
    intro c hc a ch n s τ hr hs hn v w rows
    obtain ⟨f, ranges, he, hreach, hform, hranges⟩ := drays_drayBody c hc
    have body : ∃ body, exec (c.1 a ch (.port n)) s = runTask body s ∧
        body s τ = drayBody (c.2.1 ch) ch f a [] ranges (.port n) s τ := ⟨_, he a ch _ s, rfl⟩
    rw [← hform, ← hreach τ.w, show rows = ranges τ (laneWords v 8) from (hranges τ v ch).symm]
    refine ⟨dray_ends_of_no_vector body hr hs hn, fun hl hv hok hreaches hg => ?_, fun hl hv hbad hp => dray_refused body hr hs hn hl hv hp hbad,
      fun hl hv hok hp => dray_enters body hr hs hn hl hv hp hok⟩
    exact dray_ends_of_checked body hr hs hn hl hv (drayChecked_of_not_given hok hreaches hg)
  case reduce =>
    intro a ch o i32 n s τ hr hs hn v w good
    obtain ⟨f, he, hreach, hform⟩ := dred_drayBody
    have body : ∃ body, exec (.dred a ch o i32 (.port n)) s = runTask body s ∧
        body s τ = drayBody (.dred ch o i32) ch f a [] noRange (.port n) s τ := ⟨_, he a ch o i32 _ s, rfl⟩
    have isGood : FormOk f s τ w ↔ good := hform s τ v
    rw [← isGood, ← hreach τ.w (w 3)]
    refine ⟨dray_ends_of_no_vector body hr hs hn, fun hl hv hok hreaches hg => ?_, fun hl hv hp => ⟨dray_refused body hr hs hn hl hv hp,
      dray_enters body hr hs hn hl hv hp⟩⟩
    exact dray_ends_of_checked body hr hs hn hl hv (drayChecked_of_not_given hok hreaches hg)
  case rows =>
    intro k hk a b ch n s τ hr hs hn v w good hl
    have one : SrcsOk τ [a] := srcsOk_first hs
    have body : ∃ body, exec (k.1 a b ch (.port n)) s = runTask body s ∧
        body s τ = drayBody (k.2 ch) ch rowForm a [b] (rowRanges b) (.port n) s τ := by
      obtain rfl | rfl := List.mem_pair.1 hk
      all_goals exact ⟨_, rfl, rowBody_eq hs⟩
    have isGood : FormOk rowForm s τ w ↔ good := formOk_rowForm s τ v
    rw [← isGood]
    refine ⟨dray_ends_of_no_vector body hr one hn hl, fun hv hok hreaches hg => ?_, fun hv hbad => ?_, fun hv hok hp => ?_⟩
    · exact dray_ends_of_checked body hr one hn hl hv (drayChecked_of_not_given hok hreaches hg)
    · exact dray_ends_of_checked body hr one hn hl hv (drayChecked_of_fields (fieldsOk_rowForm hbad))
    · exact dray_enters body hr one hn hl hv hp hok

end Sys2Proof.Proofs

namespace Sys2Proof.Machine

/-! Floating-point results and their flags (R307, R311, R312, R320, R321). -/

/-- R311: each form of two sources rounds its exact result. -/
theorem fpTwo_fop2 : ∀ p ∈ Claims.fpTwo, ∀ (a b : Src) (f : Fmt) (m : Rnd) (sat : Bool) (t : Target) (s : State),
    exec (p.1 a b f m sat t) s = runTask (fop2 a b t fun s τ l x y =>
      inLane (roundOf (fmtFp f) (rmode s τ m l 0) sat (p.2 (rmode s τ m l 0) (num32 x) (num32 y)))) s := by
  simp only [Claims.fpTwo, List.forall_mem_cons, List.not_mem_nil, IsEmpty.forall_iff, implies_true, and_true]
  exact ⟨fun _ _ _ _ _ _ _ => rfl, fun _ _ _ _ _ _ _ => rfl, fun _ _ _ _ _ _ _ => rfl, fun _ _ _ _ _ _ _ => rfl⟩

/-- What a P-class form of R312 rounds in a lane. -/
def pairRounded (m : Rnd) (op : RMode → Num → Num → Num × Astat) (s : State) (τ : Task) (l : Nat) (a b : Word) : Word × Astat :=
  inLane (roundOf fpF32 (rmode s τ m l 0) false (op (rmode s τ m l 0) (num32 a) (num32 b)))

theorem fpPair_fopP : ∀ p ∈ Claims.fpPair, ∀ (m : Rnd) (x y : Target) (s : State),
    exec (p.1 m x y) s = runTask (fopP x y (pairRounded m p.2) (pairRounded m p.2)) s := by
  simp only [Claims.fpPair, List.forall_mem_cons, List.not_mem_nil, IsEmpty.forall_iff, implies_true, and_true]
  exact ⟨fun _ _ _ _ => rfl, fun _ _ _ _ => rfl, fun _ _ _ _ => rfl⟩

/-- R321: each packed form of two sources rounds both elements of a lane. -/
theorem fpPacked_fop2 : ∀ p ∈ Claims.fpPacked, ∀ (a b : Src) (f : Fmt) (m : Rnd) (sat : Bool) (t : Target) (s : State),
    exec (p.1 a b f m sat t) s = runTask (fop2 a b t fun s τ l x y => half2 s τ f m sat p.2 l x y) s := by
  simp only [Claims.fpPacked, List.forall_mem_cons, List.not_mem_nil, IsEmpty.forall_iff, implies_true, and_true]
  exact ⟨fun _ _ _ _ _ _ _ => rfl, fun _ _ _ _ _ _ _ => rfl⟩

/-- R307, R312: a P-class form with flags raises those of its first result, and writes one target after the other. -/
theorem fopP_writes {i : Instr} {x y : Target} {f g : State → Task → Nat → Word → Word → Word × Astat} {s : State} {τ : Task} {r : FLanes} {v : Lanes}
    (he : exec i s = runTask (fopP x y f g) s) (hr : Runs s τ) (hf : flanes2 τ (latchA τ) (latchB τ) (f s τ) = r)
    (hg : valuesOf (flanes2 τ (latchA τ) (latchB τ) (g s τ)) = v) (hl : LandsPair s (τ.raise (orFlags r)) x (valuesOf r) y v) :
    ∃ τ1 τ2, put s (τ.raise (orFlags r)) x (valuesOf r) = .ok τ1 ∧ put s τ1 y v = .ok τ2 ∧ exec i s = .next (s.setTask (τ2.advance 1)) := by
  obtain ⟨τ1, τ2, h1, h2⟩ := pair_ok hl
  obtain ⟨hy, ⟨hx, -⟩, -⟩ := hl
  refine ⟨τ1, τ2, h1, h2, next_of_body he hr ?_⟩
  have xok : checkTarget s τ x = .ok () := checkTarget_ok hx
  have yok : checkTarget s τ y = .ok () := checkTarget_ok hy
  simp only [fopP, xok, yok, body_ok_bind, hf, hg, h1, finish_ok h2]

end Sys2Proof.Machine

namespace Sys2Proof.Proofs
open Sys2Proof.Machine

/-- Settles O13: each form is a shared lane body with the rounded value as its function. -/
theorem floatingPointRoundsOnce : Obligations.FloatingPointRoundsOnce := by
  refine ⟨?two, ?ffma, ?pair, ?packed, ?hfma, ?itof⟩
  case two =>
    intro p hp a b f m sat t s τ hr hs r hl
    exact fop2_writes (fpTwo_fop2 p hp a b f m sat t s) hr hs rfl hl
  case ffma =>
    intro a b m c sat t s τ hr hs r hl
    exact fop3_writes rfl hr hs rfl hl
  case pair =>
    intro p hp m x y s τ hr r τ' hl
    exact fopP_writes (fpPair_fopP p hp m x y s) hr rfl rfl hl
  case packed =>
    intro p hp a b f m sat t s τ hr hs e r hl
    exact fop2_writes (fpPacked_fop2 p hp a b f m sat t s) hr hs rfl hl
  case hfma =>
    intro a b m c sat t s τ hr hs e r hl
    exact fop3_writes rfl hr hs rfl hl
  case itof =>
    intro a f m sat t s τ hr hs r hl
    exact fop1_writes rfl hr hs rfl hl

end Sys2Proof.Proofs

namespace Sys2Proof.Machine

/-! Minimum, maximum and comparison (R313, R315). -/

theorem numLt_asymm {x y : Num} (h : numLt x y = true) : numLt y x = false := by
  cases x with
  | nan => simp [numLt] at h
  | inf p => cases y <;> simp_all [numLt]
  | fin p m e _ =>
    cases y with
    | nan => rfl
    | inf q => simp_all [numLt]
    | fin q n d _ =>
      have same : (if e ≤ d then e else d) = if d ≤ e then d else e := by split <;> split <;> omega
      simp only [numLt, decide_eq_true_eq, decide_eq_false_iff_not, same] at h ⊢
      omega

section Select
variable {a b : Word}

theorem minmax_of_nans (ha : (num32 a).isNan = true) (hb : (num32 b).isNan = true) : fmin32 a b = 0x7FC00000 ∧ fmax32 a b = 0x7FC00000 := by
  simp [fmin32, fmax32, ha, hb, nan32]

theorem minmax_of_nan_left (ha : (num32 a).isNan = true) (hb : (num32 b).isNan = false) : fmin32 a b = b ∧ fmax32 a b = b := by
  simp [fmin32, fmax32, ha, hb]

theorem minmax_of_nan_right (ha : (num32 a).isNan = false) (hb : (num32 b).isNan = true) : fmin32 a b = a ∧ fmax32 a b = a := by
  simp [fmin32, fmax32, ha, hb]

theorem minmax_of_lt (ha : (num32 a).isNan = false) (hb : (num32 b).isNan = false) (h : numLt (num32 a) (num32 b) = true) :
    fmin32 a b = a ∧ fmax32 a b = b := by
  simp [fmin32, fmax32, ha, hb, h]

theorem minmax_of_gt (ha : (num32 a).isNan = false) (hb : (num32 b).isNan = false) (h : numLt (num32 b) (num32 a) = true) :
    fmin32 a b = b ∧ fmax32 a b = a := by
  simp [fmin32, fmax32, ha, hb, h, numLt_asymm h]

end Select

/-- R313, R315: the zeros of either sign are equal, and the minimum takes the negative one. -/
theorem zeros_compare : ∀ p ∈ [((0x80000000 : Word), (0 : Word)), (0, 0x80000000)], fmin32 p.1 p.2 = 0x80000000 ∧ fmax32 p.1 p.2 = 0 ∧
    fcmpHolds .eq (num32 p.1) (num32 p.2) = (true, 0) := by
  simp only [List.forall_mem_cons, List.not_mem_nil, IsEmpty.forall_iff, implies_true, and_true]
  exact ⟨by decide +kernel, by decide +kernel⟩

section Compare
variable {x y : Num}

/-- R315: a NaN is unordered, and raises IV in the ordered comparisons. -/
theorem fcmpHolds_of_nan (h : x.isNan = true ∨ y.isNan = true) : (∀ c ∈ [FCond.ne, .uno], fcmpHolds c x y = (true, 0)) ∧
    (∀ c ∈ [FCond.eq, .ord], fcmpHolds c x y = (false, 0)) ∧ ∀ c ∈ [FCond.lt, .le, .gt, .ge], fcmpHolds c x y = (false, flagIV) := by
  have unordered : (x.isNan || y.isNan) = true := by rwa [Bool.or_eq_true]
  have unequal : numEq x y = false := by
    unfold numEq
    obtain h | h := h <;> simp [h]
  simp only [List.forall_mem_cons, List.not_mem_nil, IsEmpty.forall_iff, implies_true, fcmpHolds, unordered, unequal, flagIf, Bool.not_true,
    Bool.not_false, Bool.false_and, if_true, and_self]

/-- R315: of two numbers the one is less, greater or equal. -/
theorem fcmpHolds_of_numbers (hx : x.isNan = false) (hy : y.isNan = false) : let less := numLt x y; let more := numLt y x
    fcmpHolds .lt x y = (less, 0) ∧ fcmpHolds .gt x y = (more, 0) ∧ fcmpHolds .eq x y = (!less && !more, 0) ∧ fcmpHolds .ne x y = (less || more, 0) ∧
      fcmpHolds .le x y = (less || !more, 0) ∧ fcmpHolds .ge x y = (more || !less, 0) ∧ fcmpHolds .ord x y = (true, 0) ∧ fcmpHolds .uno x y = (false, 0) := by
  have equal : numEq x y = (!numLt x y && !numLt y x) := by simp [numEq, hx, hy]
  simp only [fcmpHolds, hx, hy, equal, flagIf, Bool.or_self, Bool.not_false, Bool.true_and, Bool.false_eq_true, if_false, Prod.mk.injEq, and_true,
    true_and]
  cases numLt x y <;> cases numLt y x <;> decide

end Compare

theorem fcmpWord_eq (f : Fmt) (c : FCond) (neg : Bool) (a b : Word) : fcmpWord f c neg a b =
    let u := readNum f a.toNat
    let v := readNum f b.toNat
    (if (fcmpHolds c u.1 v.1).1 != neg then 1 else 0, (fcmpHolds c u.1 v.1).2 ||| u.2 ||| v.2) := rfl

theorem fcmpWord_f32 (c : FCond) (neg : Bool) (a b : Word) : fcmpWord .f32 c neg a b =
    (if (fcmpHolds c (num32 a) (num32 b)).1 != neg then 1 else 0, (fcmpHolds c (num32 a) (num32 b)).2) := by
  have noFlag (v : Astat) : v ||| 0 ||| 0 = v := by rw [show v ||| 0 = v from BitVec.or_zero, show v ||| 0 = v from BitVec.or_zero]
  simp only [fcmpWord_eq, readNum_f32, noFlag]

theorem valuesOf_flanes2 (τ : Task) (x y : Lanes) (f : Nat → Word → Word → Word × Astat) :
    valuesOf (flanes2 τ x y f) = lanes2 τ x y (fun l a b => (f l a b).1) := by
  rw [valuesOf, flanes2, lanes2, mkLanes, List.map_map]
  refine List.map_congr_left fun l _ => ?_
  simp only [Function.comp]
  cases laneOf x l <;> cases laneOf y l <;> by_cases hp : predOk τ l <;> simp [hp]

/-! Signs and classes (R314, R316). -/

/-- R314: the sign forms change the sign bit of their format alone, and clear what stands above it. -/
theorem getLsbD_signOp {f : Fmt} {n : Nat} (hw : fmtWidth f = n + 1) (hn : n < 32) (g : Bool → Bool → Bool) (a b : Word) (k : Nat) :
    (signOp f g a b).getLsbD k = if k < n then a.getLsbD k else decide (k = n) && g (a.getLsbD k) (b.getLsbD k) := by
  have sign (x : Word) : bit x.toNat n = x.getLsbD n := by rw [bit_eq_decide, BitVec.getLsbD, Nat.testBit_eq_decide_div_mod_eq]
  have sum : a.toNat % 2 ^ n + (if g (a.getLsbD n) (b.getLsbD n) then 2 ^ n else 0) =
      2 ^ n * (g (a.getLsbD n) (b.getLsbD n)).toNat + a.toNat % 2 ^ n := by
    cases g (a.getLsbD n) (b.getLsbD n) <;> simp [Nat.add_comm]
  have low : a.toNat % 2 ^ n < 2 ^ n := Nat.mod_lt _ (by positivity)
  rw [signOp, hw, Nat.add_sub_cancel, sign, sign, sum, BitVec.getLsbD_ofNat, Nat.testBit_two_pow_mul_add _ low, Nat.testBit_mod_two_pow,
    Nat.testBit_bool_toNat]
  by_cases hk : k < n
  · simp [hk, BitVec.getLsbD, show k < 32 by omega]
  · by_cases he : k = n
    · subst he
      simp [hn]
    · simp [hk, he, show k - n ≠ 0 by omega]

theorem signBit_width : ∀ f ∈ Claims.signBit, fmtWidth f.1 = f.2 + 1 ∧ f.2 < 32 := by decide

theorem signTwo_op2 : ∀ p ∈ Claims.signTwo, ∃ g : Bool → Bool → Bool, (∀ u v, g u v = p.2 u v) ∧ ∀ (a b : Src) (f : Fmt) (t : Target) (s : State),
    exec (p.1 a b f t) s = runTask (op2 a b t fun _ x y => signOp f g x y) s := by
  simp only [Claims.signTwo, List.forall_mem_cons, List.not_mem_nil, IsEmpty.forall_iff, implies_true, and_true]
  exact ⟨⟨_, fun _ _ => rfl, fun _ _ _ _ _ => rfl⟩, ⟨_, fun _ _ => rfl, fun _ _ _ _ _ => rfl⟩, ⟨_, by decide, fun _ _ _ _ _ => rfl⟩⟩

theorem signOne_op1 : ∀ p ∈ Claims.signOne, ∀ (a : Src) (f : Fmt) (t : Target) (s : State),
    exec (p.1 a f t) s = runTask (op1 a t fun _ x => signOp f (fun u _ => p.2 u) x 0) s := by
  simp only [Claims.signOne, List.forall_mem_cons, List.not_mem_nil, IsEmpty.forall_iff, implies_true, and_true]
  exact ⟨fun _ _ _ _ => rfl, fun _ _ _ _ => rfl⟩

end Sys2Proof.Machine

namespace Sys2Proof.Machine

/-! The class of an encoding by its fields (R316). -/

section Class
variable {f : Fmt} {eb mb : Nat} {x : Word}

/-- The magnitude of an encoding as its exponent and fraction fields. -/
theorem mag_eq_fields (hw : fmtWidth f = eb + mb + 1) (hp : (fmtFp f).width = eb + mb + 1) :
    (fmtFp f).mag (x.toNat % 2 ^ fmtWidth f) = x.toNat % 2 ^ mb + 2 ^ mb * (x.toNat / 2 ^ mb % 2 ^ eb) := by
  rw [FpFormat.mag, hw, hp, Nat.add_sub_cancel, Nat.mod_mod_of_dvd _ (Nat.pow_dvd_pow 2 (Nat.le_succ _)), Nat.add_comm eb, Nat.pow_add, Nat.mod_mul]

theorem sign_eq_getLsbD (hw : fmtWidth f = eb + mb + 1) (hp : (fmtFp f).width = eb + mb + 1) :
    (fmtFp f).sign (x.toNat % 2 ^ fmtWidth f) = x.getLsbD (eb + mb) := by
  rw [FpFormat.sign, hw, hp, Nat.add_sub_cancel, Nat.pow_succ, Nat.mod_mul_right_div_self, Nat.mod_mod, BitVec.getLsbD,
    Nat.testBit_eq_decide_div_mod_eq, beq_eq_decide]

/-- The class of a finite number. -/
theorem finiteClass_eq {ex fr : Nat} (neg : Bool) (h : fr < 2 ^ mb) : classBit.finiteClass mb neg (fr + 2 ^ mb * ex) =
    if ex = 0 ∧ fr = 0 then (if neg then 3 else 4) else if ex = 0 then (if neg then 2 else 5) else if neg then 1 else 6 := by
  have zero : fr + 2 ^ mb * ex = 0 ↔ ex = 0 ∧ fr = 0 := by simp [and_comm]
  have subnormal : fr + 2 ^ mb * ex < 2 ^ mb ↔ ex = 0 := by
    obtain rfl | pos := Nat.eq_zero_or_pos ex
    · simpa using h
    · have : 2 ^ mb ≤ 2 ^ mb * ex := Nat.le_mul_of_pos_right _ pos
      omega
  simp only [classBit.finiteClass, zero, subnormal]

theorem classOf_of_finite {ex fr top : Nat} {neg inf : Bool} {nan : Nat → Bool} (h : ex = top → nan fr = false ∧ (inf = true → fr ≠ 0)) :
    Claims.classOf neg ex fr top inf nan =
      if ex = 0 ∧ fr = 0 then (if neg then 3 else 4) else if ex = 0 then (if neg then 2 else 5) else if neg then 1 else 6 := by
  have not_nan : ¬ (ex = top ∧ nan fr = true) := fun ⟨he, hn⟩ => by simp [(h he).1] at hn
  have not_inf : ¬ (ex = top ∧ inf = true ∧ fr = 0) := fun ⟨he, hi, hf⟩ => (h he).2 hi hf
  rw [Claims.classOf, if_neg not_nan, if_neg not_inf]

/-- A format whose highest exponent is kept for infinity and the NaNs. -/
theorem classBit_of_infinity (hw : fmtWidth f = eb + mb + 1) (hp : (fmtFp f).width = eb + mb + 1) (hm : (fmtFp f).mbits = mb)
    (hi : (fmtFp f).inf = some (2 ^ mb * (2 ^ eb - 1))) : classBit f x =
      Claims.classOf (x.getLsbD (eb + mb)) (x.toNat / 2 ^ mb % 2 ^ eb) (x.toNat % 2 ^ mb) (2 ^ eb - 1) true (· ≠ 0) := by
  have low : x.toNat % 2 ^ mb < 2 ^ mb := Nat.mod_lt _ (by positivity)
  have high : x.toNat / 2 ^ mb % 2 ^ eb < 2 ^ eb := Nat.mod_lt _ (by positivity)
  simp only [classBit, mag_eq_fields hw hp, sign_eq_getLsbD hw hp, hi, hm]
  generalize x.toNat % 2 ^ mb = fr at low ⊢
  generalize x.toNat / 2 ^ mb % 2 ^ eb = ex at high ⊢
  by_cases he : ex = 2 ^ eb - 1
  · subst he
    by_cases hf : fr = 0 <;> simp [Claims.classOf, hf, Nat.pos_of_ne_zero]
  · have below : fr + 2 ^ mb * ex < 2 ^ mb * (2 ^ eb - 1) :=
      calc fr + 2 ^ mb * ex < 2 ^ mb * (ex + 1) := by rw [Nat.mul_succ]; omega
        _ ≤ 2 ^ mb * (2 ^ eb - 1) := Nat.mul_le_mul_left _ (by omega)
    rw [if_neg (by omega), if_neg (by omega), finiteClass_eq _ low, classOf_of_finite fun h => absurd h he]

/-- E4M3 keeps one encoding of its highest exponent for the NaN (R121). -/
theorem classBit_e4m3 : classBit .e4m3 x =
    Claims.classOf (x.getLsbD (4 + 3)) (x.toNat / 2 ^ 3 % 2 ^ 4) (x.toNat % 2 ^ 3) (2 ^ 4 - 1) false (· = 7) := by
  have low : x.toNat % 2 ^ 3 < 2 ^ 3 := Nat.mod_lt _ (by decide)
  have nan : x.toNat % 2 ^ 3 + 2 ^ 3 * (x.toNat / 2 ^ 3 % 2 ^ 4) = 127 ↔ x.toNat / 2 ^ 3 % 2 ^ 4 = 2 ^ 4 - 1 ∧ x.toNat % 2 ^ 3 = 7 := by omega
  have fields := mag_eq_fields (f := .e4m3) (eb := 4) (mb := 3) (x := x) rfl rfl
  have sign := sign_eq_getLsbD (f := .e4m3) (eb := 4) (mb := 3) (x := x) rfl rfl
  rw [classBit]
  show (if (fmtFp .e4m3).mag _ = 127 then 8 else classBit.finiteClass 3 ((fmtFp .e4m3).sign _) ((fmtFp .e4m3).mag _)) = _
  simp only [fields, sign, nan]
  split
  · next h => rw [Claims.classOf, if_pos ⟨h.1, decide_eq_true h.2⟩]
  · next h =>
    rw [finiteClass_eq _ low, classOf_of_finite fun he => ⟨?_, fun h => absurd h (by decide)⟩]
    exact decide_eq_false fun hf => h ⟨he, hf⟩

/-- E2M1 has finite numbers alone (R121). -/
theorem classBit_e2m1 : classBit .e2m1 x =
    Claims.classOf (x.getLsbD (2 + 1)) (x.toNat / 2 ^ 1 % 2 ^ 2) (x.toNat % 2 ^ 1) (2 ^ 2 - 1) false (fun _ => false) := by
  have fields := mag_eq_fields (f := .e2m1) (eb := 2) (mb := 1) (x := x) rfl rfl
  have sign := sign_eq_getLsbD (f := .e2m1) (eb := 2) (mb := 1) (x := x) rfl rfl
  rw [classBit]
  show classBit.finiteClass 1 ((fmtFp .e2m1).sign _) ((fmtFp .e2m1).mag _) = _
  rw [fields, sign, finiteClass_eq _ (Nat.mod_lt _ (by decide)), classOf_of_finite fun _ => ⟨rfl, fun h => absurd h (by decide)⟩]

theorem classBit_classed : ∀ c ∈ Claims.classed, ∀ x : Word, classBit c.1 x =
    Claims.classOf (x.getLsbD (c.2.1 + c.2.2.1)) (x.toNat / 2 ^ c.2.2.1 % 2 ^ c.2.1) (x.toNat % 2 ^ c.2.2.1) (2 ^ c.2.1 - 1) c.2.2.2.1 c.2.2.2.2 := by
  simp only [Claims.classed, List.forall_mem_cons, List.not_mem_nil, IsEmpty.forall_iff, implies_true, and_true]
  exact ⟨fun _ => classBit_of_infinity rfl rfl rfl rfl, fun _ => classBit_of_infinity rfl rfl rfl rfl, fun _ => classBit_of_infinity rfl rfl rfl rfl,
    fun _ => classBit_e4m3, fun _ => classBit_of_infinity rfl rfl rfl rfl, fun _ => classBit_e2m1⟩

end Class

end Sys2Proof.Machine

namespace Sys2Proof.Proofs
open Sys2Proof.Machine

/-- Settles O14: minimum and maximum by the order of numbers, the sign forms bit by bit, the comparisons by that order, and the classes by the fields of
each format. -/
theorem floatSelectSignAndCompareResults : Obligations.FloatSelectSignAndCompareResults := by
  refine ⟨?minmax, ?minmaxPair, ?select, zeros_compare, fun x y => ⟨fcmpHolds_of_nan, fcmpHolds_of_numbers⟩, ?signTwo, ?signOne, ?fcmp, ?fcmpPair,
    ?fclass⟩
  case minmax =>
    intro p hp a b t s τ hr hs v hl
    obtain rfl | rfl := List.mem_pair.1 hp
    · exact op2_writes (show execFmin a b t s = _ from rfl) hr hs (fun _ _ _ => rfl) hl
    · exact op2_writes (show execFmax a b t s = _ from rfl) hr hs (fun _ _ _ => rfl) hl
  case minmaxPair =>
    intro p hp x y s τ hr v hl
    obtain rfl | rfl := List.mem_pair.1 hp
    · exact opP_writes (show execFminP x y s = _ from rfl) hr rfl rfl hl
    · exact opP_writes (show execFmaxP x y s = _ from rfl) hr rfl rfl hl
  case select =>
    exact fun a b => ⟨minmax_of_nans, minmax_of_nan_left, minmax_of_nan_right, fun ha hb => ⟨minmax_of_lt ha hb, minmax_of_gt ha hb⟩⟩
  case signTwo =>
    intro p hp f hf
    obtain ⟨width, small⟩ := signBit_width f hf
    obtain ⟨g, hg, he⟩ := signTwo_op2 p hp
    refine ⟨signOp f.1 g, fun a b k => ?_, fun a b t s τ hr hs hl => op2_writes (he a b f.1 t s) hr hs (fun _ _ _ => rfl) hl⟩
    rw [getLsbD_signOp width small, hg]
  case signOne =>
    intro p hp f hf
    obtain ⟨width, small⟩ := signBit_width f hf
    exact ⟨fun x => signOp f.1 (fun u _ => p.2 u) x 0, fun a k => getLsbD_signOp width small _ a 0 k,
      fun a t s τ hr hs hl => op1_writes (signOne_op1 p hp a f.1 t s) hr hs (fun _ _ => rfl) hl⟩
  case fcmp =>
    intro a b f c t s τ hr hs r hl
    refine fop2_writes (show execFcmp a b f c t s = _ from rfl) hr hs ?_ hl
    funext _ x y
    simp only [fcmpWord_eq, Bool.bne_false]
  case fcmpPair =>
    intro c x y s τ hr h r u τ' hl
    refine fopP_writes (show execFcmpP c x y s = _ from rfl) hr ?_ ?_ hl
    · simp only [fcmpWord_f32, Bool.bne_false]
      rfl
    · rw [valuesOf_flanes2]
      refine lanes2_congr fun _ a b => ?_
      simp only [fcmpWord_f32, Bool.bne_true]
      cases (h a b).1 <;> rfl
  case fclass =>
    intro f hf a t s τ hr hs v hl
    refine op1_writes (show execFclass a f.1 t s = _ from rfl) hr hs (fun _ x => ?_) hl
    rw [classBit_classed f hf]

end Sys2Proof.Proofs

namespace Sys2Proof.Machine

/-! An instruction of which no lane executes writes nothing, but its target counts as targeted (R179). -/

/-- A predicate latch that the instruction targets stays targeted, so that not only the position has moved on. -/
theorem not_passes_of_armed {i : Instr} {s : State} {τ τ' : Task} {p : Nat} (he : exec i s = .next (s.setTask (τ'.advance 1))) (h : p ∈ τ'.armed)
    (h' : p ∉ τ.armed) : ¬ Passes i s τ := by
  intro passes
  have states : s.setTask (τ'.advance 1) = s.setTask (τ.advance 1) := eq_of_next he passes
  have tasks : τ'.advance 1 = τ.advance 1 := by
    simpa only [task_setTask, Option.some.injEq] using congrArg State.task? states
  have armed : (τ'.advance 1).armed = (τ.advance 1).armed := congrArg Task.armed tasks
  exact h' (show p ∈ (τ.advance 1).armed from armed ▸ h)

section NoLane
variable {a b : Src} {t : Target} {s : State} {τ τ' : Task} (hr : Runs s τ) (ht : targetOk s τ t = true) (hput : put s τ t noLanes = .ok τ')
include hr ht hput

theorem fcvt_of_no_lane {f : Fmt} {m : Rnd} {sat : Bool} (hs : SrcsOk τ [a, b]) (hx : anyExec τ [readSrc τ false a] = false) :
    exec (.fcvt a b f m sat t) s = .next (s.setTask (τ'.advance 1)) := by
  refine next_of_body (show execFcvt a b f m sat t s = runTask _ s from rfl) hr ?_
  simp only [operands_ok hs ht, body_ok_bind, control, hx, Bool.false_eq_true, if_false, finish_ok hput]

theorem amax_of_no_lane {n : Nat} (hs : SrcsOk τ [a]) (hx : amaxOf (lanes1 τ (readSrc τ false a) (fun _ v => v)) = none) :
    exec (.amax a n t) s = .next (s.setTask (τ'.advance 1)) := by
  refine next_of_body (show execAmax a n t s = runTask _ s from rfl) hr ?_
  simp only [operands_ok hs ht, body_ok_bind, hx, finish_ok hput]

end NoLane

/-- PE 0 of tile 0 runs `probeTask`, whose temporaries hold no lane. -/
def emptyTemps : State := placeBlockWord State.reset 0 0

theorem runs_emptyTemps : Runs emptyTemps probeTask := rfl

theorem targetOk_emptyTemps : targetOk emptyTemps probeTask (.onTrue 1) = true := by decide +kernel

/-- The predicate latch of position 1 once an instruction without a lane has targeted it. -/
theorem armed_writePred_noLanes : 1 ∈ (writePred probeTask 1 noLanes true).armed := mem_armed_writePred.2 (.inl rfl)

end Sys2Proof.Machine

namespace Sys2Proof.Proofs
open Sys2Proof.Machine

/-- Refutes O15: an FCVT of which no lane executes does more than go on where its target is a predicate latch. In `emptyTemps` the source t0 has no
lane, and the latch of position 1 counts as targeted (R179), which it did not before. -/
theorem not_fcvtNarrowsAndWidens : ¬ Obligations.FcvtNarrowsAndWidens := by
  intro h
  have sources : SrcsOk probeTask [.t 0, .zero] := by simp [SrcsOk, srcOk]
  obtain ⟨passes, -⟩ := h (.t 0) .zero .e4m3 .rne false (.onTrue 1) emptyTemps probeTask runs_emptyTemps sources targetOk_emptyTemps
  have next : exec (.fcvt (.t 0) .zero .e4m3 .rne false (.onTrue 1)) emptyTemps = .next (emptyTemps.setTask ((writePred probeTask 1 noLanes true).advance 1)) :=
    fcvt_of_no_lane runs_emptyTemps targetOk_emptyTemps rfl sources (by decide +kernel)
  exact not_passes_of_armed next armed_writePred_noLanes (by decide) (passes (by decide +kernel))

/-- Refutes O19: the clause for no executed lane says that AMAX only goes on. In `emptyTemps` the source t0 has no lane, and the predicate latch that
AMAX targets counts as targeted (R179), which it did not before. -/
theorem not_crossLaneResults : ¬ Obligations.CrossLaneResults := by
  rintro ⟨-, -, empty, -⟩
  have sources : SrcsOk probeTask [.t 0] := by simp [SrcsOk, srcOk]
  obtain ⟨-, passes⟩ := empty (.t 0) .add (.onTrue 1) emptyTemps probeTask runs_emptyTemps sources (by decide +kernel)
    ⟨targetOk_emptyTemps, fun _ _ h => by cases h⟩
  have next : exec (.amax (.t 0) 0 (.onTrue 1)) emptyTemps = .next (emptyTemps.setTask ((writePred probeTask 1 noLanes true).advance 1)) :=
    amax_of_no_lane runs_emptyTemps targetOk_emptyTemps rfl sources (by decide +kernel)
  exact not_passes_of_armed next armed_writePred_noLanes (by decide) (passes 0)

end Sys2Proof.Proofs

namespace Sys2Proof.Machine

/-! Rounding to integers (R318, R319). -/

section Integral
variable {m : RMode} {x : Word} {neg : Bool} {k : Nat} {e : Int}

theorem frndWord_of_nan (h : num32 x = .nan) : frndWord m x = (0x7FC00000, 0) := by
  simp only [frndWord, n32, h, nan32]

theorem frndWord_of_inf (h : num32 x = .inf neg) : frndWord m x = (x, 0) := by
  simp only [frndWord, n32, h]

theorem frndWord_of_zero (h : num32 x = .fin neg 0 e false) : frndWord m x = (x, 0) := by
  simp only [frndWord, n32, h, if_true]

theorem frndWord_of_fin (h : num32 x = .fin neg (k + 1) e false) : frndWord m x =
    let r := numToInt m neg (k + 1) e
    (if r.1 = 0 then (if neg then 0x80000000 else 0) else (rne32 (.fin neg r.1.natAbs 0 false)).1, if r.2 then 4 else 0) := by
  simp only [frndWord, n32, h, Nat.succ_ne_zero, if_false, flagIf, flagNX]
  split <;> rfl

end Integral

/-- The integer formats of FTOI with their ends (R128). -/
def intEnds : List (IFmt × Int × Int) :=
  [(.i32, -2147483648, 2147483647), (.i16, -32768, 32767), (.i8, -128, 127), (.i4, -8, 7), (.u8, 0, 255)]

theorem intRange_intEnds : ∀ f ∈ intEnds, intRange f.1 = f.2 ∧ f.2.1 ≤ f.2.2 := by decide

section ToInt
variable {m : RMode} {f : IFmt} {lo hi : Int} (hf : intRange f = (lo, hi)) {sat : Bool} {x : Word} {neg st : Bool} {k : Nat} {e : Int}
include hf

theorem ftoiWord_of_nan (h : num32 x = .nan) : ftoiWord m f sat x = (BitVec.ofInt 32 (if sat then 0 else lo), 64) := by
  simp only [ftoiWord, n32, h, hf, flagIV]

theorem ftoiWord_of_inf (h : num32 x = .inf neg) : ftoiWord m f sat x = (BitVec.ofInt 32 (if sat && !neg then hi else lo), 64) := by
  simp only [ftoiWord, n32, h, hf, flagIV]
  cases sat <;> cases neg <;> rfl

variable (h : num32 x = .fin neg k e st)
include h

theorem ftoiWord_of_inside (hlo : lo ≤ (numToInt m neg k e).1) (hhi : (numToInt m neg k e).1 ≤ hi) :
    ftoiWord m f sat x = (BitVec.ofInt 32 (numToInt m neg k e).1, if (numToInt m neg k e).2 then 4 else 0) := by
  simp only [ftoiWord, n32, h, hf]
  exact if_neg (by omega)

theorem ftoiWord_of_below (hlo : (numToInt m neg k e).1 < lo) :
    ftoiWord m f sat x = (BitVec.ofInt 32 lo, 64 ||| if (numToInt m neg k e).2 then 4 else 0) := by
  simp only [ftoiWord, n32, h, hf, if_pos hlo, ite_self]
  exact if_pos (.inl hlo)

theorem ftoiWord_of_above (hle : lo ≤ hi) (hhi : hi < (numToInt m neg k e).1) :
    ftoiWord m f sat x = (BitVec.ofInt 32 (if sat then hi else lo), 64 ||| if (numToInt m neg k e).2 then 4 else 0) := by
  simp only [ftoiWord, n32, h, hf, if_neg (show ¬ (numToInt m neg k e).1 < lo by omega)]
  exact if_pos (.inr hhi)

end ToInt

/-! Special functions (R217, R322). -/

theorem specialForms_fop1 : ∀ p ∈ Claims.specialForms, ∀ (a : Src) (t : Target) (s : State),
    exec (p.1 a t) s = runTask (fop1 a t fun _ _ _ x => sfu p.2 x) s := by
  simp only [Claims.specialForms, List.forall_mem_cons, List.not_mem_nil, IsEmpty.forall_iff, implies_true, and_true]
  exact ⟨fun _ _ _ => rfl, fun _ _ _ => rfl, fun _ _ _ => rfl, fun _ _ _ => rfl, fun _ _ _ => rfl, fun _ _ _ => rfl, fun _ _ _ => rfl,
    fun _ _ _ => rfl⟩

/-- The rows of R322's table that are single inputs, each evaluated. -/
theorem sfu_specialCases : ∀ c ∈ Claims.specialCases, sfu c.1 c.2.1 = c.2.2 := by decide +kernel

end Sys2Proof.Machine

namespace Sys2Proof.Proofs
open Sys2Proof.Machine

/-- Settles O16: FRND and FTOI by the class of the number in the lane. -/
theorem roundingToIntegers : Obligations.RoundingToIntegers := by
  refine ⟨fun a m t s τ hr hs => ?frnd, fun f hf a m sat t s τ hr hs => ?ftoi⟩
  case frnd =>
    refine ⟨fun l => frndWord (rmode s τ m l 0), fun l x => frndWord_of_nan, fun l x neg => frndWord_of_inf, fun l x neg e => frndWord_of_zero,
      fun l x neg k e h hz => ?_, fun l x neg k e h hz => ?_, fun hl => ?_⟩
    · simp only [frndWord_of_fin h, if_neg hz]
    · simp only [frndWord_of_fin h, if_pos hz]
    · exact fop1_writes rfl hr hs rfl hl
  case ftoi =>
    obtain ⟨range, le⟩ := intRange_intEnds f hf
    refine ⟨fun l => ftoiWord (rmode s τ m l 0) f.1 sat, fun l x => ftoiWord_of_nan range, fun l x neg => ftoiWord_of_inf range,
      fun l x neg k e st h z hz => ?_, fun hl => ?_⟩
    · subst hz
      exact ⟨ftoiWord_of_inside range h, ftoiWord_of_below range h, ftoiWord_of_above range h le⟩
    · exact fop1_writes rfl hr hs rfl hl

/-- Settles O17: the eight forms are one body by the number of their function, and the table's single inputs are evaluated. -/
theorem specialFunctionResults : Obligations.SpecialFunctionResults := by
  refine ⟨fun p hp a t s τ hr hs hl => ?_, sfu_specialCases⟩
  exact fop1_writes (specialForms_fop1 p hp a t s) hr hs rfl hl

end Sys2Proof.Proofs

namespace Sys2Proof.Machine

/-! Scales, dot products and draws (R327, R332, R333, R337). -/

/-- The forms of R337 with the value that each makes of a draw. -/
theorem rngForm_eq : ∀ p ∈ [(RngForm.raw, fun n => BitVec.ofNat 32 n), (.u01, fun n => (rne32 (.fin false (n / 256) (-24) false)).1),
    (.u01c, fun n => (rne32 (.fin false (n / 256 + 1) (-24) false)).1)], rngForm p.1 = p.2 := by
  simp only [List.forall_mem_cons, List.not_mem_nil, IsEmpty.forall_iff, implies_true, and_true]
  exact ⟨rfl, rfl, rfl⟩

end Sys2Proof.Machine

namespace Sys2Proof.Proofs
open Sys2Proof.Machine

/-- Settles O18: the scale multiply as a lane body, the accumulate with its fourth source, the tree of the dot product, and the forms of a draw. -/
theorem scaleDotAndDrawResults : Obligations.ScaleDotAndDrawResults := by
  refine ⟨?scmul, ?scacc, ?vdot, ?rng⟩
  case scmul =>
    intro a b f t s τ hr hs r hl
    exact fop2_writes rfl hr hs rfl hl
  case scacc =>
    intro a b f c bf t s τ hr hs r hl
    refine writesF_of (show execScacc a b f c bf t s = runTask _ s from rfl) hr hl ?_
    simp only [operands_ok hs hl.1, body_ok_bind]
    congr 1
    refine List.map_congr_left fun l _ => ?_
    cases predOk τ l with
    | false => rfl
    | true =>
      rw [if_pos rfl]
      obtain _ | x := laneOf (readSrc τ false a) l
      · rfl
      obtain _ | y := laneOf (readSrc τ true b) l
      · rfl
      obtain _ | z := laneOf (τ.temps.getD c noLanes) l
      · rfl
      obtain _ | w := laneOf (τ.temps.getD ((c + 1) % 8) noLanes) l
      · rfl
      rfl
  case vdot =>
    intro a b f t s τ hr hs x y r hsum v hl
    subst hsum
    obtain ⟨τ', hput⟩ := put_ok (lands_raise hl)
    refine ⟨τ', hput, next_of_body (show execVdot a b f t s = runTask _ s from rfl) hr ?_⟩
    simp only [operands_ok hs hl.1, body_ok_bind]
    exact finish_ok hput
  case rng =>
    intro a b w t s τ hr hs draw p hp v hl
    refine writes_of (show execRng a b w p.1 t s = runTask _ s from rfl) hr hl ?_
    simp only [op2_eq hs hl.1, rngForm_eq p hp]
    rfl

end Sys2Proof.Proofs

namespace Sys2Proof.Machine

/-! CBDEC and LTLD (R82, R330, R331). -/

theorem targetOk_congr {s s' : State} (htab : s'.tab = s.tab) (hocc : s'.occ = s.occ) (τ : Task) (t : Target) : targetOk s' τ t = targetOk s τ t := by
  cases t <;> simp only [targetOk, latchOk, literalAt, blockWord, portAt, portKey, htab, hocc]

/-- The index that CBDEC takes of a lane. -/
def cbIndex (hi : Bool) (x : Word) : Nat := if hi then x.toNat / 2 ^ 16 else x.toNat % 2 ^ 16

/-- The state once a CBDEC has read the lattice rows of these lanes. -/
def latticeFixed (s : State) (hi : Bool) (xs : List (Nat × Word)) : State :=
  xs.foldl (fun s x => fixIsl s s.occ.a (latticeWord (cbIndex hi x.2 / 256)) 1) s

theorem fixIsl_tab (s : State) (tile lo n : Nat) : (fixIsl s tile lo n).tab = s.tab ∧ (fixIsl s tile lo n).occ = s.occ :=
  foldl_keeps (fun t : State => t.tab = s.tab ∧ t.occ = s.occ) _ _ s ⟨rfl, rfl⟩ fun _ _ h => h

theorem latticeFixed_tab (s : State) (hi : Bool) (xs : List (Nat × Word)) : (latticeFixed s hi xs).tab = s.tab ∧ (latticeFixed s hi xs).occ = s.occ := by
  refine foldl_keeps (fun t : State => t.tab = s.tab ∧ t.occ = s.occ) _ xs s ⟨rfl, rfl⟩ fun t x ⟨htab, hocc⟩ => ?_
  obtain ⟨tab, occ⟩ := fixIsl_tab t t.occ.a (latticeWord (cbIndex hi x.2 / 256)) 1
  exact ⟨tab.trans htab, occ.trans hocc⟩

/-- The lattice row of a lane's index on a tile, as the committed LTLDs leave it. -/
def seenRow (s : State) (tile : Nat) (hi : Bool) (x : Word) : Nat :=
  sgetD ((seenLtld s s.occ.a).foldl ltldRows s.isl.lattice) (tile * 256 + cbIndex hi x / 256) 0

/-- R330: one element in FP32, or two in BF16. -/
def cbWord (f : Fmt) (row idx k : Nat) : Word :=
  if f = .f32 then BitVec.ofNat 32 (quarter .f32 (cb2Elem row idx k))
  else BitVec.ofNat 32 (quarter .bf16 (cb2Elem row idx (2 * (k % 4))) + quarter .bf16 (cb2Elem row idx (2 * (k % 4) + 1)) * 2 ^ 16)

theorem cbdec_answers {a : Src} {f : Fmt} {k : Nat} {hi : Bool} {t : Target} {s : State} {τ : Task} (hr : Runs s τ) (hs : SrcsOk τ [a])
    (hgood : ∀ x ∈ execLanes τ (readSrc τ false a), latticeBad s s.occ.a (cbIndex hi x.2 / 256) = false) :
    let s' := latticeFixed s hi (execLanes τ (readSrc τ false a))
    let v := lanes1 τ (readSrc τ false a) (fun _ x => cbWord f (seenRow s s.occ.a hi x) (cbIndex hi x) k)
    Lands s' τ t v → ∃ τ', put s' τ t v = .ok τ' ∧ exec (.cbdec a f k hi t) s = .next (s'.setTask (τ'.advance 1)) := by
  intro s' v hl
  obtain ⟨htab, hocc⟩ : s'.tab = s.tab ∧ s'.occ = s.occ := latticeFixed_tab s hi _
  obtain ⟨τ', hput⟩ := put_ok hl
  have target : targetOk s τ t = true := (targetOk_congr htab hocc τ t).symm.trans hl.1
  have rows : (execLanes τ (readSrc τ false a)).all (fun x => !latticeBad s s.occ.a (cbIndex hi x.2 / 256)) = true :=
    List.all_eq_true.2 fun x hx => by rw [hgood x hx]; rfl
  have ends : ∀ w, w = lanes1 τ (readSrc τ false a) (fun _ x => cbWord f (seenRow s s'.occ.a hi x) (cbIndex hi x) k) →
      (finish s' τ t w >>= fun τ' => (.ok (s', τ') : Body (State × Task))) = .ok (s', τ'.advance 1) := by
    rintro _ rfl
    rw [hocc, finish_ok hput, body_ok_bind]
  refine ⟨τ', hput, (show execCbdec a f k hi t s = _ from rfl).trans (runBody_ok hr ?_)⟩
  simp only [operands_ok hs target, body_ok_bind]
  refine (congrArg (· >>= _) (check_true rows)).trans (ends _ (lanes1_congr fun _ x => ?_))
  cases f <;> rfl

theorem all_rows_iff {y : Lanes} : y.all (fun v => v.elim true (fun w => decide (w.toNat < 512))) = true ↔ ∀ w, some w ∈ y → w.toNat < 512 := by
  rw [List.all_eq_true]
  refine ⟨fun h w hw => of_decide_eq_true (h (some w) hw), fun h v hv => ?_⟩
  cases v with
  | none => rfl
  | some w => exact decide_eq_true (h w hv)

section Ltld
variable {a b : Src} {s : State} {τ : Task} {x y : Lanes} (hr : Runs s τ) (hs : SrcsOk τ [a, b])
  (hx : lanes2 τ (readSrc τ false a) (readSrc τ true b) (fun _ p _ => p) = x) (hy : lanes2 τ (readSrc τ false a) (readSrc τ true b) (fun _ _ q => q) = y)
include hr hs hy

theorem ltld_ends_of_row (h : ∃ w, some w ∈ y ∧ 512 ≤ w.toNat) : EndsWith (.ltld a b) s τ causeBadSource 0 0 := by
  have beyond : y.all (fun v => v.elim true (fun w => decide (w.toNat < 512))) = false := by
    obtain ⟨w, hw, hge⟩ := h
    exact Bool.eq_false_iff.2 fun all => Nat.not_lt.2 hge (all_rows_iff.1 all w hw)
  refine endsWith_of_runTask (show execLtld a b s = runTask _ s from rfl) hr ?_
  simp only [check_true (srcOk_two hs), body_ok_bind, hy, check_false beyond]
  rfl

variable (h : ∀ w, some w ∈ y → w.toNat < 512)
include hx h

theorem ltld_enters (hany : anyLane x = true) : Enters (.ltld a b) s τ (mkOp s τ .ltld none x y []) := by
  refine enters_of_body (show execLtld a b s = runTask _ s from rfl) hr ?_
  simp only [check_true (srcOk_two hs), body_ok_bind, hx, hy, check_true (all_rows_iff.2 h), hany, if_true]

theorem ltld_passes (hnone : anyLane x = false) : Passes (.ltld a b) s τ := by
  refine passes_of_body (show execLtld a b s = runTask _ s from rfl) hr ?_
  simp only [check_true (srcOk_two hs), body_ok_bind, hx, hy, check_true (all_rows_iff.2 h), hnone, Bool.false_eq_true, if_false]

end Ltld

end Sys2Proof.Machine

namespace Sys2Proof.Proofs
open Sys2Proof.Machine

/-- Settles O20: CBDEC by the rows that it reads, for either format, and LTLD by its row operands. -/
theorem codebookResults : Obligations.CodebookResults := by
  refine ⟨?cbdec, ?ltld⟩
  case cbdec =>
    intro a k hi t s τ hr hs idx row s' answers good v w
    exact ⟨cbdec_answers (f := .f32) hr hs good, cbdec_answers (f := .bf16) hr hs good⟩
  case ltld =>
    intro a b s τ hr hs x y
    exact ⟨ltld_ends_of_row hr hs rfl, ltld_enters hr hs rfl rfl, ltld_passes hr hs rfl rfl⟩

end Sys2Proof.Proofs

namespace Sys2Proof.Machine

/-! Operands of the units' instructions: vectors, pens and destinations (R18, R189, R338, R343). -/

theorem vectorOf_ok {τ : Task} {x : Lanes} {n : Nat} {others : List Lanes} (hl : Claims.SomeLane τ (x :: others)) (hv : Claims.VectorOf τ x n) :
    vectorOf τ x n others = .ok (some (laneWords x n)) := by
  obtain ⟨width, valid⟩ := hv
  have all : (upto n).all (fun l => (laneOf x l).isSome) = true := by simpa [upto] using valid
  simp only [vectorOf, anyExec_iff_someLane.2 hl, all, decide_eq_false (Nat.not_lt.2 width), Bool.not_true, Bool.or_self, Bool.false_eq_true, if_false]
  rfl

theorem getD_laneWords {k n : Nat} (x : Lanes) (h : k < n) : (laneWords x n).getD k 0 = Claims.wordOf x k := by
  rw [List.getD_eq_getElem?_getD, getElem?_laneWords x h]

theorem wordOf_lt (x : Lanes) (l : Nat) : Claims.wordOf x l < 2 ^ 32 := BitVec.isLt _

theorem unitPen_of_given {s : State} {τ : Task} {p : Word} {len eng : Nat} (h : Claims.Given s τ p len eng) : unitPen s τ p.toNat len eng = .ok () := by
  obtain ⟨aligned, ⟨e, reaches⟩, given⟩ := h
  have reached : penReach s s.occ.a τ.cx.asid (penOf p.toNat) (offOf p.toNat) len = none := penReach_of_reaches reaches
  have held : givenTo τ (penOf p.toNat) eng = true := givenTo_iff.2 given
  simp only [unitPen, check_true (beq_iff_eq.2 aligned), reached, penGuard, check_true held, body_ok_bind]

theorem destOk_of_destFor {elems : List Nat} {w : Nat} (h : Claims.DestFor elems w) : destOk elems w = true := by
  obtain ⟨low, elem, probe, five⟩ := h
  have slot : (if (destOfWord w).elem = 1 || (destOfWord w).elem = 2 then decide ((destOfWord w).slot < 4)
      else if (destOfWord w).elem = 5 then decide ((destOfWord w).slot < 64) else true) = true := by
    split
    · next h => exact decide_eq_true (probe (by simpa using h))
    · split
      · next h => exact decide_eq_true (five h)
      · rfl
  rw [destOk, slot, List.contains_iff_mem.2 elem, Bool.and_true, Bool.and_true]
  exact beq_iff_eq.2 low

theorem finite32_of_exponent {w : Nat} (hw : w < 2 ^ 32) (h : Claims.Finite32 w) : finite32 w = true := by
  have small : (BitVec.ofNat 32 w).toNat = w := Nat.mod_eq_of_lt hw
  have finite : ¬ fpF32.mag w > fpF32.top := by
    unfold Claims.Finite32 at h
    show ¬ w % 2 ^ 31 > 0x7F7FFFFF
    omega
  unfold finite32 num32 FpFormat.decode
  simp only [small, if_neg finite]
  split <;> rfl

/-! The rider at issue (R82, R338, R353). -/

theorem given_congr {s s' : State} {τ : Task} {p : Word} {len eng : Nat} (htab : s'.tab = s.tab) (hocc : s'.occ = s.occ)
    (h : Claims.Given s τ p len eng) : Claims.Given s' τ p len eng := by
  simpa only [Claims.Given, Claims.Reaches, htab, hocc] using h

/-- The state once the rider's header is read, with the committed STPs performed (log entry 12). -/
def riderRead (s : State) (p : Word) : State := fixPen (drainStp s s.occ.a) s.occ.a p.toNat 64

section Rider
variable {s : State} {τ : Task} {p : Word} (h64 : Claims.Given s τ p 64 5)
include h64

theorem riderLen_of_given : riderLen (drainStp s s.occ.a) s.occ.a p.toNat = riderBytes (riderAt (riderRead s p) s.occ.a p.toNat) := by
  obtain ⟨-, ⟨e, hpen, -, -, fits, -⟩, -⟩ := h64
  have pen : penAt (drainStp s s.occ.a) s.occ.a (penOf p.toNat) = some e := by
    rw [penAt, (drainStp_tab s s.occ.a).1]
    exact hpen
  have inside : ¬ e.size * 4096 < offOf p.toNat + 64 := by
    unfold offOf
    omega
  have header : riderAt (riderRead s p) s.occ.a p.toNat = riderAt (drainStp s s.occ.a) s.occ.a p.toNat :=
    (sameBytes_fixPen (drainStp s s.occ.a) s.occ.a p.toNat 64).riderAt_eq s.occ.a p.toNat
  simp only [riderLen, pen, if_neg inside, header]

theorem riderPen_of_given (hread : (penRead (riderRead s p) s.occ.a p.toNat 64).isSome)
    (hall : Claims.Given s τ p (riderBytes (riderAt (riderRead s p) s.occ.a p.toNat)) 5) : riderPen s τ p.toNat = .ok (riderRead s p) := by
  obtain ⟨htab, hocc⟩ := drainStp_tab s s.occ.a
  have checked := unitPen_of_given (given_congr htab hocc hall)
  have read : fixPen (drainStp s s.occ.a) s.occ.a p.toNat 64 = riderRead s p := rfl
  have tile : (riderRead s p).occ = s.occ := (fixSram_tab _ _ _).2.trans hocc
  simp only [riderPen, hocc, riderLen_of_given h64, checked, body_ok_bind, read, tile, check_true hread]

end Rider

/-- The GIVE of the instruction's pen is consumed, and its operation enters. -/
def enteredAfter (s : State) (τ : Task) (p : Word) (k : OpKind) (n : Option Nat) (x y : Lanes) (eng : Nat) : Task :=
  ((Claims.consumed τ [p.toNat / 2 ^ 22] eng).enter (mkOp s τ k n (Claims.below τ x) y [])).advance 1

section Fold
variable {a b : Src} {t : Target} {n : Option Nat} {s : State} {τ : Task} {p : Word} (hr : Runs s τ) (ht : Claims.PortOrNone s t n)
  (hp : laneOf (readSrc τ false a) 0 = some p) (hrider : riderPen s τ p.toNat = .ok (riderRead s p))
include hr ht hp hrider

theorem ffin_enters (hs : SrcsOk τ [a]) (hl : Claims.SomeLane τ [readSrc τ false a]) :
    exec (.ffin a t) s = .next ((riderRead s p).setTask (enteredAfter s τ p .ffin n (readSrc τ false a) noLanes 5)) := by
  refine (show execFfin a t s = runBody _ s from rfl).trans (runBody_ok hr ?_)
  simp only [check_true (srcOk_one hs), portOrDiscard_ok τ ht, body_ok_bind, lane0_of_someLane hl hp, hrider]
  rfl

theorem fold_enters {x : Word} (hs : SrcsOk τ [a, b]) (hl : Claims.SomeLane τ [readSrc τ false a, readSrc τ true b])
    (hx : laneOf (readSrc τ true b) 0 = some x) (hsmall : x.toNat < 2 ^ 20) :
    exec (.fold a b t) s = .next ((riderRead s p).setTask (enteredAfter s τ p .fold n (readSrc τ false a) (lanesOf [x]) 5)) := by
  refine (show execFold a b t s = runBody _ s from rfl).trans (runBody_ok hr ?_)
  simp only [check_true (srcOk_two hs), portOrDiscard_ok τ ht, body_ok_bind, lane0_of_someLane hl hp, hx, field_ok (decide_eq_true hsmall), hrider]
  rfl

end Fold

/-- R328: the row's bytes are checked at issue, and the executed lanes enter. -/
theorem tacc_enters {a b : Src} {t : Target} {n : Option Nat} {s : State} {τ : Task} {p : Word} (hr : Runs s τ) (hs : SrcsOk τ [a, b])
    (ht : Claims.PortOrNone s t n) (hl : Claims.SomeLane τ [readSrc τ false a]) (hp : laneOf (readSrc τ true b) 0 = some p)
    (hok : Claims.PenOk s τ (p.toNat / 2 ^ 22) (p.toNat % 2 ^ 22 : Nat) (4 + 4 * τ.w) 4) :
    Enters (.tacc a b t) s τ (mkOp s τ (.tacc 0 p.toNat) n (lanes1 τ (readSrc τ false a) (fun _ z => z)) noLanes []) := by
  have row : penCheck s τ (penOf p.toNat) (offOf p.toNat) (4 + 4 * τ.w) 4 = none := penCheck_of_penOk hok
  have lane : control τ (readSrc τ true b) [readSrc τ false a] = .ok (some p) := by simp only [control, anyExec_iff_someLane.2 hl, if_true, hp]
  refine enters_of_body (show execTacc a b t s = runTask _ s from rfl) hr ?_
  simp only [check_true (srcOk_two hs), portOrDiscard_ok τ ht, body_ok_bind, lane, row, penGuard]

/-! NCFG, BRCFG and BRCFG.STAT (R358, R361, R366). -/

/-- The fields of NCFG (R358). -/
def NormFields (w : Nat → Nat) : Prop :=
  w 0 < 16 ∧ w 0 % 4 ≠ 3 ∧ 1 ≤ w 1 ∧ w 1 ≤ 16384 ∧ Claims.Finite32 (w 2) ∧ w 2 < 2 ^ 31 ∧ Claims.DestFor [0, 2, 5] (w 3)

/-- The fields of BRCFG (R361). -/
def BridleFields (w : Nat → Nat) : Prop :=
  w 0 < 2 ^ 9 ∧ w 0 / 2 ^ 4 % 2 ^ 5 ≤ 16 ∧ 1 ≤ w 1 ∧ w 1 ≤ 16384 ∧ Claims.DestFor [0, 1, 5] (w 3) ∧ w 4 < 2 ^ 14 ∧ w 5 < 2 ^ 16 ∧ w 6 = 0 ∧
    w 7 = 0 ∧ w 4 * 16 + (w 0 / 2 ^ 4 % 2 ^ 5) * (16 * ((16 + 2 * w 1 + 15) / 16)) ≤ 262144 ∧ w 5 * 16 + 128 * w 1 ≤ 1048576

/-- R7, R361: what a user context may set: no probes, and LEN of a point without probes alone. -/
def UserMay (old : RowCfg) (w : Nat → Nat) : Prop := (w 0 / 2 ^ 4 % 2 ^ 5 = 0 ∧ w 4 = 0) ∧ (old.nprobe = 0 ∨ old.len = w 1)

/-- The check of BRCFG that raises PRIV. -/
def mayConfigure (s : State) (τ : Task) (w : Nat → Nat) : Bool :=
  let old := bridleCfg s s.occ.a (w 0 % 4)
  supervisor τ || bits (w 0) 4 5 == 0 && w 4 == 0 && (old.nprobe == 0 || old.len == w 1)

theorem mayConfigure_iff {s : State} {τ : Task} {w : Nat → Nat} :
    mayConfigure s τ w = true ↔ τ.cx.asid = 0 ∨ UserMay (bridleCfg s s.occ.a (w 0 % 4)) w := by
  simp [mayConfigure, UserMay, supervisor, bits]

section Config
variable {a : Src} {t : Target} {n : Option Nat} {s : State} {τ : Task} {x : Lanes} (hr : Runs s τ) (hs : SrcsOk τ [a])
  (ht : Claims.PortOrNone s t n) (hx : readSrc τ false a = x) (hl : Claims.SomeLane τ [x])
include hr hs ht hx hl

theorem ncfg_enters (hv : Claims.VectorOf τ x 4) (h : NormFields (Claims.wordOf x)) :
    Enters (.ncfg a t) s τ (mkOp s τ .ncfg n (Claims.below τ x) noLanes []) := by
  obtain ⟨h0, hmode, hlo, hhi, hfin, hpos, hd⟩ := h
  refine enters_of_body (show execNcfg a t s = runTask _ s from rfl) hr ?_
  simp only [check_true (srcOk_one hs), portOrDiscard_ok τ ht, body_ok_bind, hx, vectorOf_ok hl hv]
  refine (congrArg (· >>= _) (field_ok ?_)).trans rfl
  simp only [getD_laneWords, Nat.reduceLT, finite32_of_exponent (wordOf_lt _ _) hfin, destOk_of_destFor hd, h0, hlo, hhi, hpos, decide_true,
    Bool.and_true, Bool.true_and, bne_iff_ne]
  exact hmode

variable (hv : Claims.VectorOf τ x 8) (h : BridleFields (Claims.wordOf x))
include hv h

omit hr in
/-- With its fields in range, what is left of BRCFG is the privilege of a user context. -/
theorem brcfg_body : ∃ f, exec (.brcfg a t) s = runTask f s ∧ f s τ = (check (mayConfigure s τ (Claims.wordOf x)) causePriv >>= fun _ =>
    .ok ((τ.enter (mkOp s τ .brcfg n (Claims.below τ x) noLanes [])).advance 1)) := by
  obtain ⟨h0, hnp, hlo, hhi, hd, h4, h5, h6, h7, hprobe, hrein⟩ := h
  refine ⟨_, show execBrcfg a t s = runTask _ s from rfl, ?_⟩
  simp only [check_true (srcOk_one hs), portOrDiscard_ok τ ht, body_ok_bind, hx, vectorOf_ok hl hv, getD_laneWords, Nat.reduceLT]
  refine (congrArg (· >>= _) (field_ok ?_)).trans rfl
  simp only [destOk_of_destFor hd, Bool.and_eq_true, decide_eq_true_eq, beq_iff_eq]
  exact ⟨⟨⟨⟨⟨⟨⟨⟨⟨⟨h0, hnp⟩, hlo⟩, hhi⟩, trivial⟩, h4⟩, h5⟩, h6⟩, h7⟩, hprobe⟩, hrein⟩

theorem brcfg_enters_or_refuses : let free := τ.cx.asid = 0 ∨ UserMay (bridleCfg s s.occ.a (Claims.wordOf x 0 % 4)) (Claims.wordOf x)
    (free → Enters (.brcfg a t) s τ (mkOp s τ .brcfg n (Claims.below τ x) noLanes [])) ∧ (¬ free → EndsWith (.brcfg a t) s τ causePriv 0 0) := by
  obtain ⟨f, he, hf⟩ := brcfg_body hs ht hx hl hv h
  refine ⟨fun h => enters_of_body he hr ?_, fun h => endsWith_of_stop he hr ?_⟩
  · rw [hf, check_true (mayConfigure_iff.2 h), body_ok_bind]
  · rw [hf, check_false (Bool.eq_false_iff.2 (mt mayConfigure_iff.1 h))]
    rfl

end Config

/-- R366: the counts and the control word of a point. -/
def pointCounts (c : RowCfg) : List Word := [BitVec.ofNat 32 c.hits, c.rows, c.steered, c.cword]

/-- The state once the hit flags of a point are cleared. -/
def hitsCleared (s : State) (k : Nat) : State := setBridle s s.occ.a k { bridleCfg s s.occ.a k with hits := 0 }

section Stat
variable {a : Src} {t : Target} {s : State} {τ : Task} (hr : Runs s τ) (hs : SrcsOk τ [a])
include hr hs

theorem brcfgStat_answers {k : Word} (ht : targetOk s τ t = true) (hl : Claims.SomeLane τ [readSrc τ false a])
    (hk : laneOf (readSrc τ false a) 0 = some k) (h4 : k.toNat < 4)
    (hland : Lands (hitsCleared s k.toNat) τ t (lanesOf ((pointCounts (bridleCfg s s.occ.a k.toNat)).take τ.w))) :
    ∃ τ', put (hitsCleared s k.toNat) τ t (lanesOf ((pointCounts (bridleCfg s s.occ.a k.toNat)).take τ.w)) = .ok τ' ∧
      exec (.brcfgStat a t) s = .next ((hitsCleared s k.toNat).setTask (τ'.advance 1)) := by
  obtain ⟨τ', hput⟩ := put_ok hland
  refine ⟨τ', hput, (show execBrcfgStat a t s = runBody _ s from rfl).trans (runBody_ok hr ?_)⟩
  simp only [operands_ok hs ht, body_ok_bind, lane0_of_someLane hl hk, field_ok (decide_eq_true h4)]
  exact (congrArg (· >>= _) (finish_ok hput)).trans rfl

theorem brcfgStat_of_no_lane (hl : ¬ Claims.SomeLane τ [readSrc τ false a]) (hland : Lands s τ t noLanes) :
    Writes (.brcfgStat a t) s τ t noLanes 1 := by
  obtain ⟨τ', hput⟩ := put_ok hland
  have lane : lane0 τ (readSrc τ false a) [] = .ok none := if_neg (mt anyExec_iff_someLane.1 hl)
  refine ⟨τ', hput, (show execBrcfgStat a t s = runBody _ s from rfl).trans (runBody_ok hr ?_)⟩
  simp only [operands_ok hs hland.1, body_ok_bind, lane, finish_ok hput]

end Stat

/-! REINLD and PRBLD (R364, R379). -/

section Reinld
variable {a b : Src} {t : Target} {n : Option Nat} {s : State} {τ : Task} {c : Word} (hr : Runs s τ) (hs : SrcsOk τ [a, b])
  (ht : Claims.PortOrNone s t n) (hl : Claims.SomeLane τ [readSrc τ true b, readSrc τ false a]) (hc : laneOf (readSrc τ true b) 0 = some c)
  (h9 : c.toNat < 2 ^ 9)
include hr hs ht hl hc h9

theorem reinld_invalidates (h8 : 2 ^ 8 ≤ c.toNat) :
    Enters (.reinld a b t) s τ (mkOp s τ .reinld n (Claims.below τ (readSrc τ false a)) (lanesOf [c]) []) := by
  have invalidate : bit c.toNat 8 = true := by
    rw [bit_eq_decide, decide_eq_true_eq]
    omega
  have inRange : field (decide (c.toNat < 512)) = .ok () := field_ok (decide_eq_true h9)
  refine enters_of_body (show execReinld a b t s = runTask _ s from rfl) hr ?_
  simp only [check_true (srcOk_two hs), portOrDiscard_ok τ ht, body_ok_bind, lane0_of_someLane hl hc, inRange, invalidate, if_true]
  rfl

theorem reinld_loads {p : Word} (h8 : c.toNat < 2 ^ 8) (hp : laneOf (readSrc τ false a) 0 = some p)
    (hg : Claims.Given s τ p (2 * (bridleCfg s s.occ.a (c.toNat % 4)).len) 7) :
    Claims.EntersAfter (.reinld a b t) s τ [p.toNat / 2 ^ 22] 7 (mkOp s τ .reinld n (Claims.below τ (readSrc τ false a)) (lanesOf [c]) []) := by
  have load : bit c.toNat 8 = false := by
    rw [bit_eq_decide, decide_eq_false_iff_not]
    omega
  have inRange : field (decide (c.toNat < 512)) = .ok () := field_ok (decide_eq_true h9)
  refine next_of_body (show execReinld a b t s = runTask _ s from rfl) hr ?_
  simp only [check_true (srcOk_two hs), portOrDiscard_ok τ ht, body_ok_bind, lane0_of_someLane hl hc, inRange, load,
    Bool.false_eq_true, if_false, hp, unitPen_of_given hg]
  rfl

end Reinld

section Prbld
variable {a b : Src} {t : Target} {n : Option Nat} {s : State} {τ : Task} (hr : Runs s τ)
include hr

theorem prbld_user (h : τ.cx.asid ≠ 0) : EndsWith (.prbld a b t) s τ causePriv 0 0 := by
  have user : supervisor τ = false := by simp [supervisor, h]
  refine endsWith_of_stop (show execPrbld a b t s = runTask _ s from rfl) hr ?_
  simp only [privileged, check_false user]
  rfl

theorem prbld_enters {p off cnt : Word} (hsup : τ.cx.asid = 0) (hs : SrcsOk τ [a, b]) (ht : Claims.PortOrNone s t n)
    (hl : Claims.SomeLane τ [readSrc τ false a, readSrc τ true b]) (hp : laneOf (readSrc τ false a) 0 = some p)
    (hoff : laneOf (readSrc τ true b) 0 = some off) (hcnt : laneOf (readSrc τ true b) 1 = some cnt) (h14 : off.toNat < 2 ^ 14)
    (h16 : cnt.toNat % 16 = 0) (hlo : 16 ≤ cnt.toNat) (hhi : off.toNat * 16 + cnt.toNat ≤ 262144) (hg : Claims.Given s τ p cnt.toNat 7) :
    Claims.EntersAfter (.prbld a b t) s τ [p.toNat / 2 ^ 22] 7
      (mkOp s τ .prbld n (Claims.below τ (readSrc τ false a)) (lanesOf [off, cnt]) []) := by
  have priv : privileged τ = .ok () := check_true (by simp [supervisor, hsup])
  have fields : (decide (off.toNat < 2 ^ 14) && cnt.toNat % 16 == 0 && decide (16 ≤ cnt.toNat) && decide (cnt.toNat ≤ 262144) &&
      decide (off.toNat * 16 + cnt.toNat ≤ 262144)) = true := by
    simp only [Bool.and_eq_true, decide_eq_true_eq, beq_iff_eq]
    omega
  refine next_of_body (show execPrbld a b t s = runTask _ s from rfl) hr ?_
  simp only [priv, check_true (srcOk_two hs), portOrDiscard_ok τ ht, body_ok_bind, lane0_of_someLane hl hp, hoff, hcnt, field_ok fields,
    unitPen_of_given hg]
  rfl

end Prbld

end Sys2Proof.Machine

namespace Sys2Proof.Proofs
open Sys2Proof.Machine

/-- Settles O40: each instruction from its body once its checks are passed, BRCFG by what its context may set. -/
theorem rowUnitAndFoldInstructionsEnter : Obligations.RowUnitAndFoldInstructionsEnter := by
  refine ⟨?fold, ?tacc, ?config, ?stat, ?noLane, ?reinld, ?prbld⟩
  case fold =>
    intro a b t n s τ p hr hs ht hp s' h64 hread hall next
    have rider : riderPen s τ p.toNat = .ok s' := riderPen_of_given h64 hread hall
    exact ⟨ffin_enters hr ht hp rider (srcsOk_first hs), fun x hl hx hsmall => fold_enters hr ht hp rider hs hl hx hsmall⟩
  case tacc => exact fun a b t n s τ p hr hs ht hl hp hok => tacc_enters hr hs ht hl hp hok
  case config =>
    intro a t n s τ hr hs ht v w hl
    refine ⟨fun hv h0 h1 h2 h3 h4 h5 h6 => ncfg_enters hr hs ht rfl hl hv ⟨h0, h1, h2, h3, h4, h5, h6⟩, ?_⟩
    intro hv h0 h1 h2 h3 h4 h5 h6 h7 h8 h9 h10 old
    obtain ⟨enters, refused⟩ := brcfg_enters_or_refuses hr hs ht rfl hl hv ⟨h0, h1, h2, h3, h4, h5, h6, h7, h8, h9, h10⟩
    refine ⟨fun hprobes => ⟨fun hlen => enters ?_, fun huser hold hlen => refused ?_⟩, fun huser hprobes => refused ?_⟩
    · exact or_iff_not_imp_left.2 fun huser => ⟨hprobes.resolve_left huser, hlen.resolve_left huser⟩
    · exact not_or.2 ⟨huser, fun ⟨_, may⟩ => may.elim hold hlen⟩
    · exact not_or.2 ⟨huser, fun ⟨⟨hn, hb⟩, _⟩ => hprobes.elim (absurd hn) (absurd hb)⟩
  case stat =>
    intro a t s τ k hr hs ht hl hk h4 c s'
    refine ⟨lanesOf ((pointCounts c).take τ.w), fun l hlt => ?_, fun hland => brcfgStat_answers hr hs ht hl hk h4 hland⟩
    rw [laneOf_lanesOf hlt, List.getElem?_take]
    rfl
  case noLane => exact fun a t s τ hr hs hl hland => brcfgStat_of_no_lane hr hs hl hland
  case reinld =>
    intro a b t n s τ c hr hs ht hl hc h9 o
    exact ⟨reinld_invalidates hr hs ht hl hc h9, fun p h8 hp hg => reinld_loads hr hs ht hl hc h9 h8 hp hg⟩
  case prbld =>
    intro a b t n s τ p off cnt hr
    exact ⟨prbld_user hr, prbld_enters hr⟩

end Sys2Proof.Proofs

namespace Sys2Proof.Machine

/-! Checks of the island's instructions (R338, R343): the operands, then the fields, then the pens. -/

theorem stop_bind {α β : Type} {cause addr : Nat} {f : α → Body β} : (stop cause addr : Body α) >>= f = stop cause addr := rfl

theorem vectorOf_refused {τ : Task} {x : Lanes} {n : Nat} {others : List Lanes} (hl : Claims.SomeLane τ (x :: others))
    (hv : ¬ Claims.VectorOf τ x n) : vectorOf τ x n others = stop causeBadSource 0 := by
  have short : (decide (τ.w < n) || !(upto n).all fun l => (laneOf x l).isSome) = true := by
    simpa [Claims.VectorOf, upto, imp_iff_not_or] using hv
  simp only [vectorOf, anyExec_iff_someLane.2 hl, Bool.not_true, Bool.false_eq_true, if_false]
  exact if_pos short

theorem lane0_refused {τ : Task} {x : Lanes} {others : List Lanes} (hl : Claims.SomeLane τ (x :: others)) (hx : laneOf x 0 = none) :
    lane0 τ x others = stop causeBadSource 0 := by
  simp only [lane0, anyExec_iff_someLane.2 hl, if_true, hx]

theorem bits_low (w n : Nat) : bits w 0 n = w % 2 ^ n := by rw [bits, pow_zero, Nat.div_one]

theorem bit_eq_false_iff {w k : Nat} : bit w k = false ↔ bits w k 1 = 0 := by
  rw [← Bool.not_eq_true, bit_eq_true_iff, bits]
  omega

theorem field_bind_field {α : Type} {c d : Bool} {g : Unit → Body α} : (field c >>= fun _ => field d >>= g) = field (c && d) >>= g := by
  cases c <;> rfl

/-- An instruction whose operands are there checks its fields, and where its pens are as they should be it leaves the task `τ'`. -/
def ChecksFields (i : Instr) (s : State) (τ : Task) (fields : Bool) (pens : Prop) (τ' : Task) : Prop :=
  ∃ f, exec i s = runTask f s ∧ ∃ rest, f s τ = (field fields >>= rest) ∧ (pens → rest () = .ok τ')

section ChecksFields
variable {i : Instr} {s : State} {τ τ' : Task} {fields : Bool} {pens : Prop} (h : ChecksFields i s τ fields pens τ') (hr : Runs s τ)
include h hr

theorem ends_of_checksFields (hf : ¬ fields = true) : EndsWith i s τ causeBadSource 0 0 := by
  obtain ⟨f, he, rest, hbody, -⟩ := h
  rw [Bool.not_eq_true] at hf
  exact endsWith_of_stop he hr (by rw [hbody, hf]; rfl)

theorem next_of_checksFields (hf : fields = true) (hp : pens) : exec i s = .next (s.setTask τ') := by
  obtain ⟨f, he, rest, hbody, hrest⟩ := h
  exact next_of_body he hr (by rw [hbody, field_ok hf, body_ok_bind, hrest hp])

end ChecksFields

/-- A pen operand that only some vectors have is checked where it is there. -/
theorem ite_bind_of_ok {c : Prop} [Decidable c] {α : Type} {u : Body Unit} {g : Unit → Body α} (h : c → u = .ok ()) :
    (if c then u >>= g else g ()) = g () := by
  split
  · next hc => rw [h hc, body_ok_bind]
  · rfl

section Words
variable {s : State} {τ : Task} {x : Lanes} {l len eng : Nat}

theorem unitPen_of_wordOf (h : Claims.Given s τ (BitVec.ofNat 32 (Claims.wordOf x l)) len eng) :
    unitPen s τ (Claims.wordOf x l) len eng = .ok () := by
  have pen := unitPen_of_given h
  rwa [BitVec.toNat_ofNat, Nat.mod_eq_of_lt (wordOf_lt x l)] at pen

theorem wordOf_aligned (h : Claims.Given s τ (BitVec.ofNat 32 (Claims.wordOf x l)) len eng) : Claims.wordOf x l % 4 = 0 := by
  obtain ⟨aligned, -, -⟩ := h
  rwa [BitVec.toNat_ofNat, Nat.mod_eq_of_lt (wordOf_lt x l)] at aligned

theorem wordOf_of_laneOf {c : Word} (h : laneOf x l = some c) : Claims.wordOf x l = c.toNat := by rw [Claims.wordOf, h, Option.getD_some]

theorem vectorOf_of_holds {ws : List Word} (h : Claims.Holds τ x ws) : Claims.VectorOf τ x ws.length := by
  obtain ⟨width, lanes⟩ := h
  exact ⟨width, fun l hl => by rw [lanes l hl, List.getElem?_eq_getElem hl]; rfl⟩

theorem wordOf_of_holds {ws : List Word} (h : Claims.Holds τ x ws) (hl : l < ws.length) : Claims.wordOf x l = ws[l].toNat :=
  have ⟨_, lanes⟩ := h
  wordOf_of_laneOf ((lanes l hl).trans (List.getElem?_eq_getElem hl))

theorem words_of_holds {ws : List Word} (h : Claims.Holds τ x ws) : (laneWords x ws.length).map (BitVec.ofNat 32) = ws := by
  refine List.ext_getElem (by simp [laneWords, upto]) fun l _ hl => ?_
  simp [laneWords, upto, wordOf_of_holds h hl]

/-- An operation that holds a vector's lanes below W holds the vector's words. -/
theorem wordA_mkOp {k : OpKind} {n : Option Nat} (hv : Claims.VectorOf τ x 8) (hl : l < 8) :
    wordA (mkOp s τ k n (Claims.below τ x) noLanes []) l = Claims.wordOf x l := by
  obtain ⟨width, -⟩ := hv
  show ((laneOf (Claims.below τ x) l).getD 0).toNat = _
  rw [Claims.below, laneOf_mkLanes (by omega), if_pos (by omega), Claims.wordOf]

end Words

/-! MZERO and MLDA (R349). -/

section Load
variable {a b : Src} {t : Target} {n : Option Nat} {s : State} {τ : Task}

section Mzero
variable (hr : Runs s τ) (hs : SrcsOk τ [a]) (ht : Claims.PortOrNone s t n) (hl : Claims.SomeLane τ [readSrc τ false a])
include hs ht hl

theorem mzero_checks {c : Word} (hc : laneOf (readSrc τ false a) 0 = some c) : ChecksFields (.mzero a t) s τ (bits c.toNat 4 12 == 0) True
    ((τ.enter (mkOp s τ .mzero n (Claims.below τ (readSrc τ false a)) noLanes [])).advance 1) := by
  refine ⟨_, show execMzero a t s = runTask _ s from rfl, ?_⟩
  simp only [check_true (srcOk_one hs), portOrDiscard_ok τ ht, body_ok_bind, lane0_of_someLane hl hc]
  exact ⟨_, rfl, fun _ => rfl⟩

include hr

theorem mzero_refused (h : laneOf (readSrc τ false a) 0 = none ∨ bits (Claims.wordOf (readSrc τ false a) 0) 4 12 ≠ 0) :
    EndsWith (.mzero a t) s τ causeBadSource 0 0 := by
  cases hc : laneOf (readSrc τ false a) 0 with
  | none =>
    refine endsWith_of_stop (show execMzero a t s = runTask _ s from rfl) hr ?_
    simp only [check_true (srcOk_one hs), portOrDiscard_ok τ ht, body_ok_bind, lane0_refused hl hc, stop_bind]
  | some c =>
    refine ends_of_checksFields (mzero_checks hs ht hl hc) hr ?_
    rw [← wordOf_of_laneOf hc, beq_iff_eq]
    exact h.resolve_left (by simp [hc])

end Mzero

variable (hr : Runs s τ) (hs : SrcsOk τ [a, b]) (ht : Claims.PortOrNone s t n)
  (hl : Claims.SomeLane τ [readSrc τ false a, readSrc τ true b])
include hs ht hl

theorem mlda_checks {p c : Word} (hp : laneOf (readSrc τ false a) 0 = some p) (hc : laneOf (readSrc τ true b) 0 = some c) :
    ChecksFields (.mlda a b t) s τ (bits c.toNat 4 12 == 0) (Claims.Given s τ p 16384 5)
      (enteredAfter s τ p .mlda n (readSrc τ false a) (lanesOf [c]) 5) := by
  refine ⟨_, show execMlda a b t s = runTask _ s from rfl, ?_⟩
  simp only [check_true (srcOk_two hs), portOrDiscard_ok τ ht, body_ok_bind, lane0_of_someLane hl hp, hc]
  exact ⟨_, rfl, fun hg => by rw [unitPen_of_given hg]; rfl⟩

include hr

theorem mlda_refused (h : laneOf (readSrc τ false a) 0 = none ∨ laneOf (readSrc τ true b) 0 = none ∨
    bits (Claims.wordOf (readSrc τ true b) 0) 4 12 ≠ 0) : EndsWith (.mlda a b t) s τ causeBadSource 0 0 := by
  cases hp : laneOf (readSrc τ false a) 0 with
  | none =>
    refine endsWith_of_stop (show execMlda a b t s = runTask _ s from rfl) hr ?_
    simp only [check_true (srcOk_two hs), portOrDiscard_ok τ ht, body_ok_bind, lane0_refused hl hp, stop_bind]
  | some p =>
    cases hc : laneOf (readSrc τ true b) 0 with
    | none =>
      refine endsWith_of_stop (show execMlda a b t s = runTask _ s from rfl) hr ?_
      simp only [check_true (srcOk_two hs), portOrDiscard_ok τ ht, body_ok_bind, lane0_of_someLane hl hp, hc]
    | some c =>
      refine ends_of_checksFields (mlda_checks hs ht hl hp hc) hr ?_
      rw [← wordOf_of_laneOf hc, beq_iff_eq]
      simpa [hp, hc] using h

end Load

end Sys2Proof.Machine

namespace Sys2Proof.Machine

/-! ETLD (R350): a finite least value and a positive finite inverse step. -/

theorem finite32_iff {w : Nat} (hw : w < 2 ^ 32) : finite32 w = true ↔ Claims.Finite32 w := by
  refine ⟨fun h hexp => ?_, finite32_of_exponent hw⟩
  have small : (BitVec.ofNat 32 w).toNat = w := Nat.mod_eq_of_lt hw
  have beyond : fpF32.mag w > fpF32.top := by
    show w % 2 ^ 31 > 0x7F7FFFFF
    omega
  unfold finite32 num32 FpFormat.decode at h
  simp only [small, if_pos beyond] at h
  split at h <;> simp [Num.isNan, Num.isInf] at h

/-- A finite encoding is a signed number, zero where its magnitude bits are zero (R121, R122). -/
theorem num32_of_finite {w : Nat} (hw : w < 2 ^ 32) (h : Claims.Finite32 w) :
    ∃ m e, num32 (BitVec.ofNat 32 w) = .fin (decide (2 ^ 31 ≤ w)) m e false ∧ (0 < m ↔ w % 2 ^ 31 ≠ 0) := by
  have small : (BitVec.ofNat 32 w).toNat = w := Nat.mod_eq_of_lt hw
  have finite : ¬ fpF32.mag w > fpF32.top := by
    unfold Claims.Finite32 at h
    show ¬ w % 2 ^ 31 > 0x7F7FFFFF
    omega
  have sign : fpF32.sign w = decide (2 ^ 31 ≤ w) := by
    show (w / 2 ^ 31 % 2 == 1) = _
    rw [Bool.eq_iff_iff, beq_iff_eq, decide_eq_true_eq]
    omega
  simp only [num32, FpFormat.decode, small, if_neg finite, sign]
  by_cases subnormal : fpF32.mag w / 2 ^ fpF32.mbits = 0
  · rw [if_pos subnormal]
    refine ⟨fpF32.mag w % 2 ^ fpF32.mbits, _, rfl, ?_⟩
    change w % 2 ^ 31 / 2 ^ 23 = 0 at subnormal
    show 0 < w % 2 ^ 31 % 2 ^ 23 ↔ _
    omega
  · rw [if_neg subnormal]
    refine ⟨2 ^ fpF32.mbits + fpF32.mag w % 2 ^ fpF32.mbits, _, rfl, ?_⟩
    change ¬ w % 2 ^ 31 / 2 ^ 23 = 0 at subnormal
    show 0 < 2 ^ 23 + w % 2 ^ 31 % 2 ^ 23 ↔ _
    omega

theorem zero_numLt_fin {neg : Bool} {m : Nat} {e : Int} : numLt (.fin false 0 0 false) (.fin neg m e false) = true ↔ neg = false ∧ 0 < m := by
  cases neg
  · simp [numLt, scaledInt, Nat.pos_iff_ne_zero]
  · simp [numLt, scaledInt]

theorem zero_numLt_num32 {w : Nat} (hw : w < 2 ^ 32) (h : Claims.Finite32 w) :
    numLt (.fin false 0 0 false) (num32 (BitVec.ofNat 32 w)) = true ↔ 0 < w ∧ w < 2 ^ 31 := by
  obtain ⟨m, e, hnum, hm⟩ := num32_of_finite hw h
  rw [hnum, zero_numLt_fin, hm, decide_eq_false_iff_not]
  omega

/-- The fields of ETLD (R350). -/
def TableFields (w : Nat → Nat) : Prop :=
  w 0 < 2 ^ 17 ∧ 1 ≤ bits (w 0) 8 9 ∧ w 0 % 2 ^ 8 + bits (w 0) 8 9 ≤ 256 ∧ Claims.Finite32 (w 1) ∧ Claims.Finite32 (w 2) ∧ 0 < w 2 ∧ w 2 < 2 ^ 31

/-- The check of ETLD's fields. -/
def tableFieldsOk (w : Nat → Nat) : Bool :=
  decide (w 0 < 2 ^ 17) && decide (1 ≤ bits (w 0) 8 9) && decide (bits (w 0) 8 9 ≤ 256) && decide (w 0 % 2 ^ 8 + bits (w 0) 8 9 ≤ 256) &&
    finite32 (w 1) && finite32 (w 2) && numLt (.fin false 0 0 false) (num32 (BitVec.ofNat 32 (w 2)))

theorem tableFieldsOk_iff {x : Lanes} : tableFieldsOk (Claims.wordOf x) = true ↔ TableFields (Claims.wordOf x) := by
  simp only [tableFieldsOk, TableFields, Bool.and_eq_true, decide_eq_true_eq, finite32_iff (wordOf_lt x _), and_assoc]
  constructor
  · rintro ⟨h0, hlo, -, hhi, hmin, hstep, hpos⟩
    exact ⟨h0, hlo, hhi, hmin, hstep, (zero_numLt_num32 (wordOf_lt x 2) hstep).1 hpos⟩
  · rintro ⟨h0, hlo, hhi, hmin, hstep, hpos⟩
    exact ⟨h0, hlo, by omega, hhi, hmin, hstep, (zero_numLt_num32 (wordOf_lt x 2) hstep).2 hpos⟩

theorem someLane_swap {τ : Task} {x y : Lanes} (h : Claims.SomeLane τ [x, y]) : Claims.SomeLane τ [y, x] := by
  obtain ⟨l, hlt, pred, valid⟩ := h
  exact ⟨l, hlt, pred, fun z hz => valid z (by simpa [or_comm] using hz)⟩

section Etld
variable {a b : Src} {t : Target} {n : Option Nat} {s : State} {τ : Task} {y : Lanes} (hr : Runs s τ) (hs : SrcsOk τ [a, b])
  (ht : Claims.PortOrNone s t n) (hy : readSrc τ true b = y) (hl : Claims.SomeLane τ [readSrc τ false a, y])
include hs ht hy hl

theorem etld_checks {p : Word} (hp : laneOf (readSrc τ false a) 0 = some p) (hv : Claims.VectorOf τ y 3) :
    ChecksFields (.etld a b t) s τ (tableFieldsOk (Claims.wordOf y)) (Claims.Given s τ p (8 * bits (Claims.wordOf y 0) 8 9) 5)
      (enteredAfter s τ p .etld n (readSrc τ false a) (lanesOf ((laneWords y 3).map (BitVec.ofNat 32))) 5) := by
  refine ⟨_, show execEtld a b t s = runTask _ s from rfl, ?_⟩
  simp only [check_true (srcOk_two hs), portOrDiscard_ok τ ht, body_ok_bind, hy, lane0_of_someLane hl hp, vectorOf_ok (someLane_swap hl) hv, getD_laneWords,
    Nat.reduceLT, bits_low]
  exact ⟨_, rfl, fun hg => by rw [unitPen_of_given hg]; rfl⟩

include hr

theorem etld_refused (h : laneOf (readSrc τ false a) 0 = none ∨ ¬ Claims.VectorOf τ y 3) : EndsWith (.etld a b t) s τ causeBadSource 0 0 := by
  refine endsWith_of_stop (show execEtld a b t s = runTask _ s from rfl) hr ?_
  cases hp : laneOf (readSrc τ false a) 0 with
  | none => simp only [check_true (srcOk_two hs), portOrDiscard_ok τ ht, body_ok_bind, hy, lane0_refused hl hp, stop_bind]
  | some p =>
    simp only [check_true (srcOk_two hs), portOrDiscard_ok τ ht, body_ok_bind, hy, lane0_of_someLane hl hp,
      vectorOf_refused (someLane_swap hl) (h.resolve_left (by simp [hp])), stop_bind]

end Etld

end Sys2Proof.Machine

namespace Sys2Proof.Machine

/-! MMA (R344 to R346): its fields, and the bytes that its operands touch. -/

theorem chainable_iff {pr : Pair} : chainable pr = true ↔ pr ∉ [Pair.fp4, .cb2e4, .cb2bf, .i8] := by cases pr <;> decide

theorem widths_of_pairs : ∀ pr ∈ Claims.pairs, elemWidth (pairFmts pr.1).1 = pr.2.1 ∧ elemWidth (pairFmts pr.1).2 = pr.2.2.1 ∧
    (if (pairFmts pr.1).1 = some .cb2 then 8 else 1) = pr.2.2.2 := by decide

/-- The fields of MMA (R343, R345). -/
def MmaFields (ch : Bool) (w : Nat → Nat) : Prop :=
  let f := mmaForm w
  (w 2 < 2 ^ 16 ∧ bits (w 3) 29 3 = 0 ∧ bits (w 3) 14 2 = 0 ∧ bits (w 3) 6 2 = 0 ∧ w 7 = 0) ∧
    ((ch = true → w 0 = 0) ∧ (ch = false → f.csrc = 0) ∧ (f.sc = false → w 6 = 0) ∧ f.astr % 4 = 0 ∧ f.bstr % 4 = 0) ∧
    (f.kb ≤ f.k ∧ f.k ≤ 4096 ∧ f.k % f.kb = 0) ∧ ((f.sc = true → f.sfmt ∈ [3, 4, 7]) ∧ (f.sc = false → f.sfmt = 0)) ∧
    (ch = true → f.k ≤ 64 ∧ f.csrc ≠ f.acc)

/-- The pen operands of MMA start at words. -/
def mmaPensAligned (w : Nat → Nat) : Bool := w 0 % 4 == 0 && w 1 % 4 == 0 && w 6 % 4 == 0

/-- What MMA checks of its words before it looks at the pens. -/
def mmaWordsOk (ch : Bool) (w : Nat → Nat) : Bool :=
  let f := mmaForm w
  (decide (w 2 < 2 ^ 16) && bits (w 3) 29 3 == 0 && bits (w 3) 14 2 == 0 && bits (w 3) 6 2 == 0 && w 7 == 0 && (!ch || w 0 == 0) &&
      (ch || f.csrc == 0) && (f.sc || w 6 == 0) && f.astr % 4 == 0 && f.bstr % 4 == 0) &&
    ((decide (f.kb ≤ f.k) && decide (f.k ≤ 4096) && f.k % f.kb == 0) &&
    ((if f.sc then f.sfmt == 3 || f.sfmt == 4 || f.sfmt == 7 else f.sfmt == 0) &&
    ((!ch || decide (f.k ≤ 64) && f.csrc != f.acc) && mmaPensAligned w)))

theorem mmaWordsOk_iff {ch : Bool} {w : Nat → Nat} : mmaWordsOk ch w = true ↔ MmaFields ch w ∧ mmaPensAligned w = true := by
  have scale : (if (mmaForm w).sc then (mmaForm w).sfmt == 3 || (mmaForm w).sfmt == 4 || (mmaForm w).sfmt == 7 else (mmaForm w).sfmt == 0) = true ↔
      ((mmaForm w).sc = true → (mmaForm w).sfmt ∈ [3, 4, 7]) ∧ ((mmaForm w).sc = false → (mmaForm w).sfmt = 0) := by
    cases (mmaForm w).sc <;> simp [or_assoc]
  simp only [mmaWordsOk, MmaFields, Bool.and_eq_true, scale]
  cases ch <;> cases (mmaForm w).sc <;> simp [and_assoc]

/-- Every pen of an MMA reaches the bytes of its operand and was given to the island. -/
def MmaPens (s : State) (τ : Task) (pr : Pair) (ta tb ch : Bool) (w : Nat → Nat) : Prop :=
  let f := mmaForm w
  (ch = false → Claims.Given s τ (BitVec.ofNat 32 (w 0)) (extent (storedA f pr ta).1 (storedA f pr ta).2 (elemWidth (pairFmts pr).1) f.astr) 5) ∧
    Claims.Given s τ (BitVec.ofNat 32 (w 1)) (extent (storedB f tb).1 (storedB f tb).2 (elemWidth (pairFmts pr).2) f.bstr) 5 ∧
    (f.sc = true → Claims.Given s τ (BitVec.ofNat 32 (w 6)) ((f.m + f.n) * (f.k / f.kb)) 5)

theorem extent_storedA {pr : Pair × Nat × Nat × Nat} (hpr : pr ∈ Claims.pairs) (f : MmaForm) (ta : Bool) :
    extent (storedA f pr.1 ta).1 (storedA f pr.1 ta).2 (elemWidth (pairFmts pr.1).1) f.astr =
      if ta then Claims.spanOf (f.k / pr.2.2.2) f.m pr.2.1 f.astr else Claims.spanOf f.m (f.k / pr.2.2.2) pr.2.1 f.astr := by
  obtain ⟨width, -, group⟩ := widths_of_pairs pr hpr
  have stored : (if (pairFmts pr.1).1 = some .cb2 then f.k / 8 else f.k) = f.k / pr.2.2.2 := by
    rw [← group]
    split
    · rfl
    · exact (Nat.div_one _).symm
  rw [width, storedA, stored]
  cases ta <;> rfl

theorem extent_storedB {pr : Pair × Nat × Nat × Nat} (hpr : pr ∈ Claims.pairs) (f : MmaForm) (tb : Bool) :
    extent (storedB f tb).1 (storedB f tb).2 (elemWidth (pairFmts pr.1).2) f.bstr =
      if tb then Claims.spanOf f.n f.k pr.2.2.1 f.bstr else Claims.spanOf f.k f.n pr.2.2.1 f.bstr := by
  obtain ⟨-, width, -⟩ := widths_of_pairs pr hpr
  rw [width]
  cases tb <;> rfl

theorem mmaPensAligned_of_pens {s : State} {τ : Task} {pr : Pair} {ta tb ch : Bool} {x : Lanes} (h : MmaFields ch (Claims.wordOf x))
    (hp : MmaPens s τ pr ta tb ch (Claims.wordOf x)) : mmaPensAligned (Claims.wordOf x) = true := by
  obtain ⟨-, ⟨chained, -, unscaled, -⟩, -⟩ := h
  obtain ⟨hA, hB, hS⟩ := hp
  have zero {k : Nat} (h : k = 0) : k % 4 = 0 := by omega
  have aligned0 : Claims.wordOf x 0 % 4 = 0 := by
    cases hch : ch
    · exact wordOf_aligned (hA hch)
    · exact zero (chained hch)
  have aligned6 : Claims.wordOf x 6 % 4 = 0 := by
    cases hsc : (mmaForm (Claims.wordOf x)).sc
    · exact zero (unscaled hsc)
    · exact wordOf_aligned (hS hsc)
  simp only [mmaPensAligned, aligned0, wordOf_aligned hB, aligned6, beq_self_eq_true, Bool.and_self]

/-- The pens that an MMA takes over. -/
def mmaPenList (ch : Bool) (w : Nat → Nat) : List Nat :=
  (if ch then [] else [w 0 / 2 ^ 22]) ++ [w 1 / 2 ^ 22] ++ (if bits (w 2) 15 1 = 1 then [w 6 / 2 ^ 22] else [])

theorem opPens_mma {s : State} {τ : Task} {pr : Pair} {ta tb ch : Bool} {n : Option Nat} {x : Lanes} (hv : Claims.VectorOf τ x 8) :
    opPens (mkOp s τ (.mma pr ta tb ch) n (Claims.below τ x) noLanes []) = mmaPenList ch (Claims.wordOf x) := by
  show (_ ++ [wordA _ 1] ++ _ : List Nat).map penOf = _
  simp only [wordA_mkOp hv, Nat.reduceLT, bit_eq_true_iff, mmaPenList, List.map_append, apply_ite (List.map penOf)]
  rfl

/-- The island's instruction takes its pens over and enters. -/
def enteredWith (s : State) (τ : Task) (pens : List Nat) (k : OpKind) (n : Option Nat) (x : Lanes) : Task :=
  ((Claims.consumed τ pens 5).enter (mkOp s τ k n (Claims.below τ x) noLanes [])).advance 1

section Mma
variable {a : Src} {pr : Pair} {ta tb ch : Bool} {t : Target} {n : Option Nat} {s : State} {τ : Task} {x : Lanes} (hr : Runs s τ)

include hr in
theorem mma_unchainable (hch : ch = true) (hpr : chainable pr = false) : EndsWith (.mma a pr ta tb ch t) s τ causeIllOp 0 0 := by
  refine endsWith_of_stop (show execMma a pr ta tb ch t s = runTask _ s from rfl) hr ?_
  simp only [hch, hpr, Bool.not_true, Bool.or_self]
  rfl

variable (hs : SrcsOk τ [a]) (ht : Claims.PortOrNone s t n) (hx : readSrc τ false a = x) (hl : Claims.SomeLane τ [x])
  (hch : (!ch || chainable pr) = true)
include hs ht hx hl hch

include hr in
theorem mma_no_vector (hv : ¬ Claims.VectorOf τ x 8) : EndsWith (.mma a pr ta tb ch t) s τ causeBadSource 0 0 := by
  refine endsWith_of_stop (show execMma a pr ta tb ch t s = runTask _ s from rfl) hr ?_
  simp only [check_true hch, check_true (srcOk_one hs), portOrDiscard_ok τ ht, body_ok_bind, hx, vectorOf_refused hl hv, stop_bind]

theorem mma_checks (hv : Claims.VectorOf τ x 8) : ChecksFields (.mma a pr ta tb ch t) s τ
    (mmaWordsOk ch (Claims.wordOf x)) (MmaPens s τ pr ta tb ch (Claims.wordOf x))
    (enteredWith s τ (mmaPenList ch (Claims.wordOf x)) (.mma pr ta tb ch) n x) := by
  have form : mmaForm (fun k => (laneWords x 8).getD k 0) = mmaForm (Claims.wordOf x) := by simp only [mmaForm, getD_laneWords, Nat.reduceLT]
  refine ⟨_, show execMma a pr ta tb ch t s = runTask _ s from rfl, ?_⟩
  simp only [check_true hch, check_true (srcOk_one hs), portOrDiscard_ok τ ht, body_ok_bind, hx, vectorOf_ok hl hv, form, getD_laneWords,
    Nat.reduceLT, field_bind_field]
  refine ⟨_, rfl, fun ⟨hA, hB, hS⟩ => ?_⟩
  simp only [ite_bind_of_ok fun h => unitPen_of_wordOf (hS h), unitPen_of_wordOf hB, body_ok_bind]
  rw [enteredWith, ← opPens_mma hv]
  split
  · rfl
  · next hfree =>
    rw [unitPen_of_wordOf (hA (Bool.eq_false_iff.2 hfree))]
    rfl

end Mma

end Sys2Proof.Machine

namespace Sys2Proof.Machine

/-! MDRN (R351). -/

theorem fmtWidth_outFmt {fm : Nat} (h : fm ≤ 5) : fmtWidth (outFmt fm) = [32, 16, 16, 8, 8, 4].getD fm 32 := by
  interval_cases fm <;> rfl

/-- The fields of MDRN, the known format apart (R343, R351). -/
def DrainFields (bias rq : Bool) (w : Nat → Nat) : Prop :=
  w 1 < 2 ^ 16 ∧ w 2 < 2 ^ 12 ∧ bits (w 2) 4 3 ≤ 5 ∧ (rq = false → w 2 % 2 ^ 4 = 0) ∧ w 4 % 4 = 0 ∧ (bias = false → w 5 = 0) ∧ w 6 = 0 ∧ w 7 = 0

/-- The check of MDRN's fields. -/
def drainFieldsOk (bias rq : Bool) (w : Nat → Nat) : Bool :=
  decide (w 1 < 2 ^ 16) && decide (w 2 < 2 ^ 12) && decide (bits (w 2) 4 3 ≤ 5) && (rq || w 2 % 2 ^ 4 == 0) && w 4 % 4 == 0 &&
    (bias || w 5 == 0) && w 6 == 0 && w 7 == 0

theorem drainFieldsOk_iff {bias rq : Bool} {w : Nat → Nat} : drainFieldsOk bias rq w = true ↔ DrainFields bias rq w := by
  cases bias <;> cases rq <;> simp [drainFieldsOk, DrainFields, and_assoc]

/-- Bytes that MDRN writes: the rows of the output, or its columns where TR is set. -/
def drainSpan (tr : Bool) (w : Nat → Nat) : Nat :=
  let m := bits (w 1) 4 6 + 1
  let nc := bits (w 1) 10 6 + 1
  let width := [32, 16, 16, 8, 8, 4].getD (w 2 % 2 ^ 4) 32
  if tr then Claims.spanOf nc m width (w 4) else Claims.spanOf m nc width (w 4)

/-- Every pen of an MDRN reaches its bytes and was given to the island. -/
def DrainPens (s : State) (τ : Task) (bias tr : Bool) (w : Nat → Nat) : Prop :=
  Claims.Given s τ (BitVec.ofNat 32 (w 0)) (drainSpan tr w) 5 ∧
    (bias = true → Claims.Given s τ (BitVec.ofNat 32 (w 5)) (4 * (bits (w 1) 10 6 + 1)) 5)

/-- The pens that an MDRN takes over. -/
def drainPenList (bias : Bool) (w : Nat → Nat) : List Nat := [w 0 / 2 ^ 22] ++ (if bias then [w 5 / 2 ^ 22] else [])

theorem opPens_mdrn {s : State} {τ : Task} {bias act rq amx tr : Bool} {n : Option Nat} {x : Lanes} (hv : Claims.VectorOf τ x 8) :
    opPens (mkOp s τ (.mdrn bias act rq amx tr) n (Claims.below τ x) noLanes []) = drainPenList bias (Claims.wordOf x) := by
  show ([wordA _ 0] ++ _ : List Nat).map penOf = _
  simp only [wordA_mkOp hv, Nat.reduceLT, drainPenList, List.map_append, apply_ite (List.map penOf)]
  rfl

section Mdrn
variable {a : Src} {bias act rq amx tr : Bool} {t : Target} {n : Option Nat} {s : State} {τ : Task} {x : Lanes} (hr : Runs s τ)
  (hs : SrcsOk τ [a]) (ht : Claims.PortOrNone s t n) (hx : readSrc τ false a = x) (hl : Claims.SomeLane τ [x])
include hs ht hx hl

include hr in
theorem mdrn_no_vector (hv : ¬ Claims.VectorOf τ x 8) : EndsWith (.mdrn a bias act rq amx tr t) s τ causeBadSource 0 0 := by
  refine endsWith_of_stop (show execMdrn a bias act rq amx tr t s = runTask _ s from rfl) hr ?_
  simp only [check_true (srcOk_one hs), portOrDiscard_ok τ ht, body_ok_bind, hx, vectorOf_refused hl hv, stop_bind]

variable (hv : Claims.VectorOf τ x 8)
include hv

include hr in
theorem mdrn_unknown_format (hfm : 5 < Claims.wordOf x 2 % 2 ^ 4) : EndsWith (.mdrn a bias act rq amx tr t) s τ causeIllOp 0 0 := by
  refine endsWith_of_stop (show execMdrn a bias act rq amx tr t s = runTask _ s from rfl) hr ?_
  simp only [check_true (srcOk_one hs), portOrDiscard_ok τ ht, body_ok_bind, hx, vectorOf_ok hl hv, getD_laneWords, Nat.reduceLT, bits_low,
    check_false (decide_eq_false (Nat.not_le.2 hfm))]
  rfl

theorem mdrn_checks (hfm : Claims.wordOf x 2 % 2 ^ 4 ≤ 5) : ChecksFields (.mdrn a bias act rq amx tr t) s τ
    (drainFieldsOk bias rq (Claims.wordOf x)) (DrainPens s τ bias tr (Claims.wordOf x))
    (enteredWith s τ (drainPenList bias (Claims.wordOf x)) (.mdrn bias act rq amx tr) n x) := by
  refine ⟨_, show execMdrn a bias act rq amx tr t s = runTask _ s from rfl, ?_⟩
  simp only [check_true (srcOk_one hs), portOrDiscard_ok τ ht, body_ok_bind, hx, vectorOf_ok hl hv, getD_laneWords, Nat.reduceLT, bits_low,
    check_true (decide_eq_true hfm), fmtWidth_outFmt hfm]
  refine ⟨_, rfl, fun ⟨hout, hbias⟩ => ?_⟩
  simp only [ite_bind_of_ok fun h => unitPen_of_wordOf (hbias h)]
  rw [enteredWith, ← opPens_mdrn hv]
  exact (congrArg (· >>= _) (unitPen_of_wordOf hout)).trans rfl

end Mdrn

end Sys2Proof.Machine

namespace Sys2Proof.Proofs
open Sys2Proof.Machine

/-- Settles O39: each instruction by the checks of its operands, of its fields and of its pens, in this order. -/
theorem islandInstructionsEnter : Obligations.IslandInstructionsEnter := by
  refine ⟨?mma, ?mzero, ?refused, ?mlda, ?etld, ?mdrn⟩
  case mma =>
    intro pr hpr a ta tb ch t n s τ hr hs ht v w f kb k m nn ka
    have chains (h : ch = true → pr.1 ∉ [Pair.fp4, .cb2e4, .cb2bf, .i8]) : (!ch || chainable pr.1) = true := by
      cases ch with
      | false => rfl
      | true => exact chainable_iff.2 (h rfl)
    refine ⟨fun hch hmem => ?_, fun hch hl => ⟨fun hv => ?_, fun hv bad => ?_⟩, ?_⟩
    · exact mma_unchainable hr hch (Bool.eq_false_iff.2 fun h => chainable_iff.1 h hmem)
    · exact mma_no_vector hr hs ht rfl hl (chains hch) hv
    · refine ends_of_checksFields (mma_checks hs ht rfl hl (chains hch) hv) hr fun ok => ?_
      obtain ⟨fields, -⟩ := mmaWordsOk_iff.1 ok
      simp only [MmaFields, mmaForm, bit_eq_true_iff, bit_eq_false_iff, bits] at fields
      grind only
    · intro hl hv hch hfree h2 h29 h14 h6 h7 hastr hbstr hlo hhi hdiv hB hunscaled hscaled
      obtain ⟨hpair, hwords⟩ := imp_and.1 hch
      obtain ⟨hzero, hchain⟩ := imp_and.1 hwords
      obtain ⟨hown, hA⟩ := imp_and.1 hfree
      obtain ⟨hnoFmt, hnoScale⟩ := imp_and.1 hunscaled
      obtain ⟨hfmt, hscale⟩ := imp_and.1 hscaled
      have fields : MmaFields ch w := ⟨⟨h2, h29, h14, h6, h7⟩, ⟨hzero, hown, hnoScale ∘ bit_eq_false_iff.1, hastr, hbstr⟩, ⟨hlo, hhi, hdiv⟩,
        ⟨hfmt ∘ bit_eq_true_iff.1, hnoFmt ∘ bit_eq_false_iff.1⟩, hchain⟩
      have pens : MmaPens s τ pr.1 ta tb ch w := ⟨(extent_storedA hpr (mmaForm w) ta).symm ▸ hA,
        (extent_storedB hpr (mmaForm w) tb).symm ▸ hB, hscale ∘ bit_eq_true_iff.1⟩
      exact next_of_checksFields (mma_checks hs ht rfl hl (chains hpair) hv) hr (mmaWordsOk_iff.2 ⟨fields, mmaPensAligned_of_pens fields pens⟩)
        pens
  case mzero =>
    intro a t n s τ c hr hs ht hl hc hzero
    exact next_of_checksFields (mzero_checks hs ht hl hc) hr (beq_iff_eq.2 hzero) trivial
  case refused =>
    intro a b t n s τ hr hs ht x y
    refine ⟨fun hl bad => mzero_refused hr (srcsOk_first hs) ht hl bad, fun hl => ⟨fun bad => mlda_refused hr hs ht hl bad, fun bad =>
      etld_refused hr hs ht rfl hl bad, fun hp hv => ?_⟩⟩
    intro first cnt inv bad
    obtain ⟨p, hp⟩ := Option.isSome_iff_exists.1 hp
    refine ends_of_checksFields (etld_checks hs ht rfl hl hp hv) hr fun ok => ?_
    have fields := tableFieldsOk_iff.1 ok
    simp only [TableFields, bits] at fields
    grind only
  case mlda =>
    intro a b t n s τ p c hr hs ht hl hp hc hzero hg
    exact next_of_checksFields (mlda_checks hs ht hl hp hc) hr (beq_iff_eq.2 hzero) hg
  case etld =>
    intro a b t n s τ p c lo inv hr hs ht hl hp hy first cnt h0 hlo hhi hmin hstep hpos hneg hg
    have word0 : Claims.wordOf (readSrc τ true b) 0 = c.toNat := wordOf_of_holds hy (by simp)
    have word1 : Claims.wordOf (readSrc τ true b) 1 = lo.toNat := wordOf_of_holds hy (by simp)
    have word2 : Claims.wordOf (readSrc τ true b) 2 = inv.toNat := wordOf_of_holds hy (by simp)
    have fields : TableFields (Claims.wordOf (readSrc τ true b)) := by
      rw [TableFields, word0, word1, word2]
      exact ⟨h0, hlo, hhi, hmin, hstep, hpos, hneg⟩
    have words : (laneWords (readSrc τ true b) 3).map (BitVec.ofNat 32) = [c, lo, inv] := words_of_holds hy
    have next := next_of_checksFields (etld_checks hs ht rfl hl hp (vectorOf_of_holds hy)) hr (tableFieldsOk_iff.2 fields) (by rwa [word0])
    rwa [words] at next
  case mdrn =>
    intro a bias act rq amx tr t n s τ hr hs ht v w fm m nc bitsOut
    refine ⟨fun hl hv => mdrn_no_vector hr hs ht rfl hl hv, fun hl hv hfm bad => ?_, fun hl hv hfm => mdrn_unknown_format hr hs ht rfl hl hv hfm, ?_⟩
    · refine ends_of_checksFields (mdrn_checks hs ht rfl hl hv hfm) hr fun ok => ?_
      have fields := drainFieldsOk_iff.1 ok
      simp only [DrainFields, bits] at fields
      grind only
    · intro hl hv h1 h2 hact hfm hrq h4 h6 h7 hout hzero hbias
      exact next_of_checksFields (mdrn_checks hs ht rfl hl hv hfm) hr (drainFieldsOk_iff.2 ⟨h1, h2, hact, hrq, h4, hzero, h6, h7⟩) ⟨hout, hbias⟩

end Sys2Proof.Proofs

namespace Sys2Proof.Machine

/-! ERES, ESC and EKILL as they issue (R373). -/

/-- The lanes of a fault record that say what it is about: its frame in lanes 0 and 1, its state in lane 5. -/
def RecordNamed (τ : Task) (x : Lanes) : Prop := 6 ≤ τ.w ∧ (laneOf x 0).isSome ∧ (laneOf x 1).isSome ∧ (laneOf x 5).isSome

theorem recordNamed_iff (τ : Task) (x : Lanes) :
    [0, 1, 5].all (fun l => decide (l < τ.w) && (laneOf x l).isSome) = true ↔ RecordNamed τ x := by
  simp only [List.all_cons, List.all_nil, Bool.and_true, Bool.and_eq_true, decide_eq_true_eq, RecordNamed]
  constructor
  · rintro ⟨⟨-, h0⟩, ⟨-, h1⟩, hw, h5⟩
    exact ⟨hw, h0, h1, h5⟩
  · rintro ⟨hw, h0, h1, h5⟩
    exact ⟨⟨by omega, h0⟩, ⟨by omega, h1⟩, by omega, h5⟩

section HandlerBody
variable {i : Instr} {k : OpKind} {a b : Src} {t : Target} {s : State} {τ : Task} {n : Option Nat}
  (he : exec i s = runTask (handlerBody k a b t) s) (hr : Runs s τ) (hs : SrcsOk τ [a, b]) (ht : Claims.PortOrNone s t n)
  (hl : Claims.SomeLane τ [readSrc τ false a])
include he hr hs ht hl

theorem handlerBody_enters (h : RecordNamed τ (readSrc τ false a)) :
    Enters i s τ (mkOp s τ k n (Claims.below τ (readSrc τ false a)) (Claims.below τ (readSrc τ true b)) []) := by
  refine enters_of_body he hr ?_
  simp only [handlerBody, check_true (srcOk_two hs), portOrDiscard_ok τ ht, body_ok_bind, anyExec_iff_someLane.2 hl, Bool.not_true,
    Bool.false_eq_true, if_false, check_true ((recordNamed_iff τ _).2 h)]
  rfl

theorem handlerBody_refused (h : ¬ RecordNamed τ (readSrc τ false a)) : EndsWith i s τ causeBadSource 0 0 := by
  refine endsWith_of_stop he hr ?_
  simp only [handlerBody, check_true (srcOk_two hs), portOrDiscard_ok τ ht, body_ok_bind, anyExec_iff_someLane.2 hl, Bool.not_true,
    Bool.false_eq_true, if_false, check_false (Bool.eq_false_iff.2 (mt (recordNamed_iff τ _).1 h))]
  rfl

end HandlerBody

end Sys2Proof.Machine

namespace Sys2Proof.Proofs
open Sys2Proof.Machine

/-- Settles O44: the body that the three forms share, of which ESC and EKILL give the zero source as the second. -/
theorem handlerInstructionsEnter : Obligations.HandlerInstructionsEnter := by
  intro a b rep hold ent t n s τ hr hs ht hl x full enters
  have alone : SrcsOk τ [a, .zero] := srcsOk_zero (srcsOk_first hs)
  exact ⟨fun h => ⟨handlerBody_enters rfl hr hs ht hl h, handlerBody_enters rfl hr alone ht hl h, handlerBody_enters rfl hr alone ht hl h⟩,
    fun h => ⟨handlerBody_refused rfl hr hs ht hl h, handlerBody_refused rfl hr alone ht hl h, handlerBody_refused rfl hr alone ht hl h⟩⟩

end Sys2Proof.Proofs

namespace Sys2Proof.Machine

/-! The words of a sequencing program (R384, R385, R396, R399). -/

section Words
variable {s t : State} {l : Launch} {f : State → Nat → Launch → State} (h : Claims.Program s s.occ.a l)
include h

/-- A word that starts nothing on a tile is performed also while the launch shrinks or is saved. -/
theorem seqEffect_quiet (ht : f (Claims.served s s.occ.a) s.occ.a l = t) : seqEffect true f s = .next t := by
  obtain ⟨hl, hend, hst⟩ := h
  have goesOn : programRuns l true = true := by simpa [programRuns, hend] using hst
  unfold seqEffect
  dsimp only
  rw [hl]
  exact (if_pos goesOn).trans (congrArg Host.Outcome.next ht)

theorem seqWord_running (hr : l.st = .running) (ht : f (Claims.served s s.occ.a) s.occ.a l = t) : seqWord f s = .next t := by
  obtain ⟨hl, hend, -⟩ := h
  have goesOn : programRuns l false = true := by simp [programRuns, hend, hr]
  unfold seqWord seqEffect
  dsimp only
  rw [hl]
  exact (if_pos goesOn).trans (congrArg Host.Outcome.next ht)

theorem seqWord_held (hr : l.st ≠ .running) : seqWord f s = .next s := by
  obtain ⟨hl, -, -⟩ := h
  have waits : programRuns l false ≠ true := by simp [programRuns, hr]
  unfold seqWord seqEffect
  dsimp only
  rw [hl]
  exact if_neg waits

/-! SQ.RUN. -/

omit h in
theorem edgeIngress_iff (l : Launch) (edge : Nat) : (l.edges[edge]?).elim false edgeIn = true ↔ ∃ e, l.edges[edge]? = some e ∧ e / 2 ^ 31 % 2 = 1 := by
  cases l.edges[edge]? with
  | none => simp
  | some e => simp [edgeIn, bit]

variable (hr : l.st = .running)
include hr

theorem execSqRun_finished (ing : Bool) (edge : Nat) (async : Bool) (hw : l.waiting = true) (h0 : l.runs = 0) :
    execSqRun ing edge async s = .next (Claims.launchTo s s.occ.a { l with pc := l.pc + 1, waiting := false }) := by
  refine seqWord_running h hr ?_
  rw [if_pos hw, if_pos h0]
  rfl

theorem execSqRun_of_no_ingress (edge : Nat) (async : Bool) (hw : l.waiting = false) (he : ∀ e, l.edges[edge]? = some e → e / 2 ^ 31 % 2 = 0) :
    execSqRun true edge async s = .next (Claims.launchTo s s.occ.a (Claims.endedWith l 0 causeCfg)) := by
  have none : (l.edges[edge]?).elim false edgeIn = false := by
    rw [← Bool.not_eq_true, edgeIngress_iff l]
    rintro ⟨e, h1, h2⟩
    rw [he e h1] at h2
    cases h2
  refine seqWord_running h hr ?_
  rw [if_neg (by simp [hw]), if_pos (by simp [none])]
  rfl

theorem execSqRun_starts (ing : Bool) (edge : Nat) (async : Bool) (hw : l.waiting = false)
    (he : ing = true → (∃ e, l.edges[edge]? = some e ∧ e / 2 ^ 31 % 2 = 1) ∧ ∀ x ∈ l.ingress, x.1 ≠ edge)
    (hp : l.inits.length ≤ poolRoom s l) :
    let first := (lowestFree s s.occ.a).getD l.pool
    execSqRun ing edge async s = .next (setLaunch (l.inits.foldl (fun t ws => startInit t s.occ.a l ws) (Claims.served s s.occ.a)) s.occ.a
      { l with first := first, runs := l.runs + 1, ingress := if ing then l.ingress ++ [(edge, 0, 0, first)] else l.ingress,
               pc := if async then l.pc + 1 else l.pc, waiting := !async }) := by
  have edgeGood : ¬ (ing && !(l.edges[edge]?).elim false edgeIn) = true := by
    cases ing with
    | false => simp
    | true => simpa using (edgeIngress_iff l edge).2 (he rfl).1
  have ready : runReady (Claims.served s s.occ.a) l ing edge = true := by
    have room : l.inits.length ≤ poolRoom (Claims.served s s.occ.a) l := hp
    cases ing with
    | false => simpa [runReady] using room
    | true => simpa [runReady, room] using (he rfl).2
  refine seqWord_running h hr ?_
  rw [if_neg (by simp [hw]), if_neg edgeGood, ready]
  cases async <;> rfl

/-! SQ.IF (R158, R166). -/

/-- The walk of a predicate's address: any memory type but the device window's. -/
def predicateWant (l : Launch) : Want := { imageWant (l.asid != 0) false with mtOk := fun mt => mt != 2 }

/-- The walk of the address of the hitch that SQ.IF asks for: its page is written. -/
def passWant (l : Launch) : Want := { imageWant (l.asid != 0) false with wr := true, mtOk := fun _ => true }

section Branch
omit h hr
variable (s : State) (q : Nat) (l : Launch) (sense : Bool) (t va next : Nat) {s1 s2 : State} {p : Phys}

theorem takeBranch_some (v : Nat) : takeBranch q l sense t next (s, some v) =
    setLaunch s q { l with pc := if (v ≠ 0) ↔ (sense = false) then t else next, waiting := false } := by
  have same : ((v != 0) != sense) = true ↔ (v ≠ 0 ↔ sense = false) := by cases sense <;> simp
  unfold takeBranch
  dsimp only
  rw [if_congr same rfl rfl]
  rfl

variable {s l va}

theorem readPredicate_of_fault {c d : Nat} (hx : xlateNow s (originTile l) l.asid va (predicateWant l) = (s1, .error (c, d))) :
    readPredicate s q l sense t va next = seqStop s1 q l 0 c := by
  unfold readPredicate
  rw [← predicateWant, hx]
  rfl

variable (hx : xlateNow s (originTile l) l.asid va (predicateWant l) = (s1, .ok p))
include hx

theorem readPredicate_of_sc (hm : p.mt = 1) : readPredicate s q l sense t va next =
    seqWait (addOp s1 (edgeOp (originTile l) l.asid (.ld .word) [{ Claims.access 0 va 4 0 0 with phys := some p }])) q { l with sig := s1.nextId } := by
  unfold readPredicate
  rw [← predicateWant, hx]
  exact if_pos hm

theorem readPredicate_of_page (hm : p.mt ≠ 1) :
    readPredicate s q l sense t va next = takeBranch q l sense t next (readHome s1 p.enc p.pa 4) := by
  unfold readPredicate
  rw [← predicateWant, hx]
  exact if_neg hm

end Branch

section Hitch
omit h hr
variable {s : State} (q : Nat) {l : Launch} {hva : Nat}

theorem askHitch_outside (hv : 2 ^ 56 ≤ hva) : askHitch s q l hva = seqStop s q l 0 causeAccess := by
  unfold askHitch
  rw [vaCheck_outside (.inr (by exact_mod_cast hv))]

theorem askHitch_misaligned (hv : hva < 2 ^ 56) (ha : hva % 64 ≠ 0) : askHitch s q l hva = seqStop s q l 0 causeAlign := by
  unfold askHitch
  rw [vaCheck_misaligned (by omega) (by exact_mod_cast hv) (by omega)]

theorem askHitch_of_walk {x : State × Check Phys} (hv : hva < 2 ^ 56) (ha : hva % 64 = 0)
    (hx : xlateNow s (originTile l) l.asid hva (passWant l) = x) : askHitch s q l hva = requestHitch q l hva x := by
  unfold askHitch
  rw [vaCheck_inside (by omega) (by omega) (by omega) (by decide), ← hx]
  rfl

end Hitch

section If
variable (h0 : l.runs = 0) (hv sense : Bool) (t va hva : Nat)
include h0

theorem execSqIf_of_bad (hg : va % 4 ≠ 0 ∨ targetGood l t = false) :
    execSqIf hv sense t va hva s = .next (seqStop (Claims.served s s.occ.a) s.occ.a l 0 causeCfg) := by
  refine seqWord_running h hr ?_
  rw [if_neg (by simpa using h0), if_pos (by simpa using hg)]

variable {t va} (ha : va % 4 = 0) (ht : targetGood l t = true)
include ha ht

/-- The first visit of a SQ.IF without a hitch, or the one after its hitch has answered. -/
theorem execSqIf_reads (hw : if l.waiting = true then opById s l.sig = none else hv = false) : execSqIf hv sense t va hva s =
    .next (readPredicate (Claims.served s s.occ.a) s.occ.a l sense t va (l.pc + (if hv then 5 else 3))) := by
  refine seqWord_running h hr ?_
  rw [if_neg (by simpa using h0), if_neg (by simp [ha, ht])]
  cases waits : l.waiting with
  | false =>
    rw [waits, if_neg (by decide)] at hw
    subst hw
    rfl
  | true =>
    rw [waits, if_pos rfl] at hw
    have none : opById (Claims.served s s.occ.a) l.sig = none := hw
    dsimp only
    rw [none]
    rfl

theorem execSqIf_asks (hw : l.waiting = false) : execSqIf true sense t va hva s =
    .next (askHitch (Claims.served s s.occ.a) s.occ.a l hva) := by
  refine seqWord_running h hr ?_
  rw [if_neg (by simpa using h0), if_neg (by simp [ha, ht])]
  simp only [hw, Bool.not_false, if_true]

theorem execSqIf_returns {o : Op} (hw : l.waiting = true) (ho : opById s l.sig = some o) : execSqIf hv sense t va hva s =
    .next (if o.phase = .failed then seqStop (dropOp (Claims.served s s.occ.a) o.id) s.occ.a l 0 o.cause
      else if o.phase = .done ∧ isLoad o.kind = true then
        takeBranch s.occ.a l sense t (l.pc + (if hv then 5 else 3)) (dropOp (Claims.served s s.occ.a) o.id, o.lanes.head?.map (·.res))
      else Claims.served s s.occ.a) := by
  have found : opById (Claims.served s s.occ.a) l.sig = some o := ho
  refine seqWord_running h hr ?_
  rw [if_neg (by simpa using h0), if_neg (by simp [ha, ht])]
  simp only [hw, found, Bool.not_true, Bool.false_eq_true, if_false, beq_iff_eq, predicateRead, Bool.and_eq_true]

end If

/-! SQ.GAIT and SQ.SIG. -/

section Gait
variable (h0 : l.runs = 0) (hg : l.grow = none ∨ ∃ x, l.grow = some (x, false)) {g : Nat}
include h0 hg

theorem execSqGait_of_free : execSqGait g s = .next ((shapeOf l g).elim (seqStop (Claims.served s s.occ.a) s.occ.a l 0 causeCfg) fun x =>
    if x.1 ≤ l.gw ∧ x.2 ≤ l.gh then
      beginChange (Claims.served s s.occ.a) s.occ.a { l with waiting := true } .shrinking (some { gait := g, x := l.gx, y := l.gy, bySeq := true })
    else setLaunch (Claims.served s s.occ.a) s.occ.a { l with waiting := true, grow := some (g, true), since := s.cyc }) := by
  have free : l.grow.elim false (·.2) = false := by
    rcases hg with hg | ⟨x, hg⟩ <;> rw [hg] <;> rfl
  refine seqWord_running h hr ?_
  rw [if_neg (by simp [h0, free])]
  cases shapeOf l g <;> rfl

end Gait

section Signal
variable (iter dest value : Nat)

theorem execSqSig_sent (hw : l.waiting = true) (ho : ∀ e ∈ s.net.outs, e.id ≠ l.sig) : execSqSig iter dest value s =
    .next (Claims.launchTo s s.occ.a { l with pc := l.pc + 3, waiting := false }) := by
  have gone : ¬ (Claims.served s s.occ.a).net.outs.any (·.id == l.sig) = true := by simpa [Claims.served] using ho
  refine seqWord_running h hr ?_
  rw [if_pos hw, if_neg gone]
  rfl

theorem execSqSig_sends (hw : l.waiting = false) (hd : destGood (fun _ => none) l.wd l.ht (destOfWord (dest * 2 ^ 9)) = true) :
    execSqSig iter dest value s = .next (setLaunch (addOut (Claims.served s s.occ.a) (originTile l) 14
        { hdr := plainHeader l.first iter 1 (destOfWord (dest * 2 ^ 9)).slot, lanes := lanesOf [BitVec.ofNat 32 value] }
        [destOfWord (dest * 2 ^ 9)]) s.occ.a { l with sig := s.nextId, waiting := true }) := by
  refine seqWord_running h hr ?_
  rw [if_neg (by simp [hw]), if_neg (by rw [hd]; decide)]
  rfl

end Signal

/-! SQ.CFG (R380, R385). -/

section Configure
variable (h0 : l.runs = 0) (g r : Nat) {s1 : State}
include h0

theorem execSqCfg_of_fault {c : Nat} (hi : readImage (Claims.served s s.occ.a) (originTile l) l.asid (l.field 0 56) = (s1, .error c)) :
    execSqCfg g r s = .next (seqStop s1 s.occ.a l 0 c) := by
  refine seqWord_running h hr ?_
  rw [if_neg (by simpa using h0), hi]

/-- The regions of a gait that a SQ.CFG names. -/
def namedRegions (g r : Nat) (secs : List Section) : List RegionImg :=
  (regionsOf secs).filter (fun x => x.gait == g && (r == 0xFF || x.region == r))

/-- The regions loaded one after another, where each tile takes its own. -/
def loadAll (s : State) (q : Nat) (l : Launch) (secs : List Section) (rs : List RegionImg) : Option State :=
  rs.foldl (fun acc x => acc.bind (fun s => loadOn s q l (regionsOf secs) (penDataOf secs) x)) (some s)

/-- Which regions of an image with these sections are loaded, and what follows once each tile has taken its own. -/
theorem execSqCfg_of_image {bs : List (BitVec 8)} {secs : List Section}
    (hi : readImage (Claims.served s s.occ.a) (originTile l) l.asid (l.field 0 56) = (s1, .ok bs)) (hs : (sectionsOf bs).getD [] = secs) :
    execSqCfg g r s = .next ((loadAll s1 s.occ.a l secs (namedRegions g r secs)).elim (seqStop s1 s.occ.a l 0 causeCfg) fun s' =>
      if namedRegions g r secs = [] then seqStop s1 s.occ.a l 0 causeCfg
      else finishCfg (noteLoaded s' s.occ.a (namedRegions g r secs)) s.occ.a (namedRegions g r secs)) := by
  have named : ((regionsOf secs).filter (fun x => x.gait == g)).filter (fun x => r == 0xFF || x.region == r) = namedRegions g r secs := by
    rw [List.filter_filter]
    exact List.filter_congr fun x _ => Bool.and_comm ..
  refine seqWord_running h hr ?_
  rw [if_neg (by simpa using h0), hi]
  dsimp only
  rw [hs, named]
  unfold loadAll
  cases List.foldl _ _ (namedRegions g r secs) with
  | none => rfl
  | some s' => exact if_congr List.isEmpty_iff rfl rfl

omit h hr h0
theorem finishCfg_of_loaded {s : State} {q : Nat} {rs : List RegionImg} (hl : sget s.sch.launches q = some l)
    (ha : l.argDone = true ∨ ∀ x ∈ rs, x.tmask 0 = false) : finishCfg s q rs = seqGo s q l (l.pc + 1) := by
  unfold finishCfg
  rw [hl]
  exact if_pos (by simpa using ha)

end Configure

end Words
end Sys2Proof.Machine

namespace Sys2Proof.Proofs
open Sys2Proof.Machine

/-- Settles O45: the quiet words by one lemma, and those that work on tiles by what each does while its launch runs. -/
theorem sequencingWordsAct : Obligations.SequencingWordsAct := by
  intro s l h q goes cfg s0
  refine ⟨?sqEnd, ?sqBar, ?sqJmp, ?reserved, ?runs, ?held, fun hr => ⟨?begun, ?sqRun, ?sqIf, ?sqIfEnds, ?sqGait, ?sqSig, ?sqCfg⟩⟩
  case sqEnd => exact fun h0 code => show execSqEnd code s = .next _ from seqEffect_quiet h (if_pos h0)
  case sqBar => exact fun h0 => show execSqBar s = .next _ from seqEffect_quiet h (if_pos h0)
  case sqJmp =>
    intro t
    show execSqJmp t s = .next _
    refine seqEffect_quiet h ?_
    by_cases ht : targetGood l t = true
    · rw [if_pos ht, if_pos ht]
      rfl
    · rw [if_neg ht, if_neg ht]
      rfl
  case reserved => exact show execReservedSequencerWord s = .next _ from seqEffect_quiet h rfl
  case runs =>
    intro h1
    exact ⟨fun code => show execSqEnd code s = .next s0 from seqEffect_quiet h (if_neg h1),
      show execSqBar s = .next s0 from seqEffect_quiet h (if_neg h1)⟩
  case held =>
    intro hr
    exact ⟨fun ing edge async => show execSqRun ing edge async s = .next s from seqWord_held h hr,
      fun g r => show execSqCfg g r s = .next s from seqWord_held h hr, fun g => show execSqGait g s = .next s from seqWord_held h hr,
      fun hv sense t va hva => show execSqIf hv sense t va hva s = .next s from seqWord_held h hr,
      fun iter dest value => show execSqSig iter dest value s = .next s from seqWord_held h hr⟩
  case begun =>
    intro h1
    exact ⟨fun g r => show execSqCfg g r s = .next s0 from seqWord_running h hr (if_pos h1),
      fun g => show execSqGait g s = .next s0 from seqWord_running h hr (if_pos (by simp [h1])),
      fun hv sense t va hva => show execSqIf hv sense t va hva s = .next s0 from seqWord_running h hr (if_pos h1)⟩
  case sqRun =>
    intro ing edge async
    refine ⟨execSqRun_finished h hr ing edge async, fun hw hi he => ?_, execSqRun_starts h hr ing edge async⟩
    subst hi
    exact execSqRun_of_no_ingress h hr edge async hw he
  case sqIf =>
    intro hv sense t va hva h0 ha ht goesOn
    refine ⟨fun hw s1 p hx => ⟨fun hm s2 v hp => ?_, fun hm => ?_⟩, fun o v hw ho hd hk hres => ?_⟩
    · refine (execSqIf_reads h hr h0 hv sense hva ha ht hw).trans (congrArg Host.Outcome.next ?_)
      rw [readPredicate_of_page q sense t _ hx hm, hp, takeBranch_some]
    · refine (execSqIf_reads h hr h0 hv sense hva ha ht hw).trans (congrArg Host.Outcome.next ?_)
      exact readPredicate_of_sc q sense t _ hx hm
    · refine (execSqIf_returns h hr h0 hv sense hva ha ht hw ho).trans (congrArg Host.Outcome.next ?_)
      rw [if_neg (by rw [hd]; decide), if_pos ⟨hd, hk⟩, hres, takeBranch_some]
  case sqIfEnds =>
    intro hv sense t va hva h0 i ends
    refine ⟨execSqIf_of_bad h hr h0 hv sense t va hva, fun ha ht => ⟨fun hw => ?_, fun o hw ho => ?_, fun hw hi => ?_⟩⟩
    · have reads := execSqIf_reads h hr h0 hv sense hva ha ht hw
      refine ⟨fun s1 c d hx => reads.trans (congrArg Host.Outcome.next (readPredicate_of_fault q sense t _ hx)), fun s1 p s2 hx hm hp => ?_⟩
      refine reads.trans (congrArg Host.Outcome.next ?_)
      rw [readPredicate_of_page q sense t _ hx hm, hp]
      rfl
    · have returns := execSqIf_returns h hr h0 hv sense hva ha ht hw ho
      refine ⟨fun hf => returns.trans (congrArg Host.Outcome.next (if_pos hf)), fun hf hd => returns.trans (congrArg Host.Outcome.next ?_)⟩
      rw [if_neg hf, if_neg fun ⟨done, load⟩ => hd.elim (· done) (by simp [load])]
    · subst hi
      have asks := execSqIf_asks h hr h0 sense hva ha ht hw
      have walked {x : State × Check Phys} (hi : hva < 2 ^ 56) (hm : hva % 64 = 0) (hx : xlateNow s0 (originTile l) l.asid hva (passWant l) = x) :=
        asks.trans (congrArg Host.Outcome.next (askHitch_of_walk q hi hm hx))
      exact ⟨fun ho => asks.trans (congrArg Host.Outcome.next (askHitch_outside q ho)),
        fun hi hm => asks.trans (congrArg Host.Outcome.next (askHitch_misaligned q hi hm)),
        fun hi hm => ⟨fun s1 c d hx => walked hi hm hx, fun s1 p hx => ⟨walked hi hm hx, rfl, rfl⟩⟩⟩
  case sqGait =>
    intro g h0 hg
    have change := execSqGait_of_free h hr h0 hg (g := g)
    refine ⟨fun hn => ?_, fun wd ht hs => ?_⟩
    · rw [hn] at change
      exact change
    · rw [hs] at change
      exact ⟨fun hw hh => change.trans (congrArg Host.Outcome.next (if_pos ⟨hw, hh⟩)),
        fun hl => change.trans (congrArg Host.Outcome.next (if_neg (by omega)))⟩
  case sqSig =>
    intro iter dest value
    exact ⟨execSqSig_sent h hr iter dest value, execSqSig_sends h hr iter dest value⟩
  case sqCfg =>
    intro g r h0
    refine ⟨fun s1 c hi => execSqCfg_of_fault h hr h0 g r hi, fun s1 bs hi => ?_⟩
    intro secs rs on
    have loads := execSqCfg_of_image h hr h0 g r hi (secs := secs) rfl
    refine ⟨fun hbad => ?_, fun s2 l' hne hon hl' hargs => ?_⟩
    · cases hload : loadAll s1 s.occ.a l secs (namedRegions g r secs) with
      | none =>
        rw [hload] at loads
        exact loads
      | some s' =>
        have empty : namedRegions g r secs = [] := hbad.resolve_right fun hn => hn ⟨s', hload⟩
        rw [hload] at loads
        exact loads.trans (congrArg Host.Outcome.next (if_pos empty))
    · rw [show loadAll s1 s.occ.a l secs (namedRegions g r secs) = some s2 from hon] at loads
      exact loads.trans (congrArg Host.Outcome.next ((if_neg hne).trans (finishCfg_of_loaded hl' hargs)))

end Sys2Proof.Proofs

namespace Sys2Proof.Machine

/-! Messages of the host (R437, R439, R442). -/

theorem p3_of_inForce {s : State} {qp : Nat} {p : Qp} (h : Claims.InForce s qp p) : s.dev.p3 = false := by
  obtain ⟨-, hp, -⟩ := h
  exact hp

theorem portUp_of_awake {s : State} (hu : s.dev.up = true) (hp : s.dev.p3 = false) : portUp s = true := by
  simp [portUp, hu, hp]

theorem portUp_of_inForce {s : State} {qp : Nat} {p : Qp} (h : Claims.InForce s qp p) : portUp s = true := by
  obtain ⟨hu, hp, -⟩ := h
  exact portUp_of_awake hu hp

theorem qpOf_eq_some {s : State} {qp : Nat} {p : Qp} (hq : sget s.host.qps qp = some p) (he : p.err = false) (hd : p.port ∉ s.dev.portsDown) :
    qpOf s qp = some p := by
  simp [qpOf, hq, he, hd]

theorem qpOf_of_inForce {s : State} {qp : Nat} {p : Qp} (h : Claims.InForce s qp p) : qpOf s qp = some p := by
  obtain ⟨-, -, hq, he, hd⟩ := h
  exact qpOf_eq_some hq he hd

theorem inForce_of_qpOf {s : State} {qp : Nat} {p : Qp} (hu : s.dev.up = true) (hp : s.dev.p3 = false) (h : qpOf s qp = some p) :
    Claims.InForce s qp p := by
  obtain ⟨hq, hg⟩ := Option.filter_eq_some_iff.1 h
  simp only [Bool.and_eq_true, Bool.not_eq_true', List.contains_eq_mem, decide_eq_false_iff_not] at hg
  exact ⟨hu, hp, hq, hg⟩

theorem qpBusy_iff (s : State) (qp : Nat) : qpBusy s qp = true ↔ Claims.Busy s qp := by
  simp [qpBusy, Claims.Busy]

theorem heldTurn_iff (s : State) (qp : Nat) (i : Instr) : heldTurn s qp i = true ↔ s.occ.c = 1 ∧ (qp, i) ∈ s.host.waits := by
  simp [heldTurn]

theorem qpHeld_iff (s : State) (qp : Nat) : qpHeld s qp = true ↔ Claims.Busy s qp ∨ ∃ w ∈ s.host.waits, w.1 = qp := by
  rw [qpHeld, Bool.or_eq_true, qpBusy_iff, List.any_eq_true]
  simp only [beq_iff_eq]

section Message
variable {s : State} {qp typ sent : Nat} {hd : BitVec 192} {i : Instr} {p : Qp} {f : State → Qp → State × Bool} {t : State}
  (he : exec i s = message i qp (sttHeader hd sent) typ f s)
include he

/-- What the port makes of a SEND that it accepts: a message that waits already stays or is released, another one waits or is taken. -/
theorem exec_of_fitMessage (h : Claims.InForce s qp p) (hs : Claims.Fits sent) :
    let x := takeMessage qp (sttHeader hd sent) typ f s p
    exec i s = .next (
      if heldTurn s qp i then
        if qpBusy s qp || s.host.waits.find? (·.1 == qp) != some (qp, i) then s else if x.2 then x.1 else releaseMessage x.1 qp i
      else if qpHeld s qp then holdMessage s qp i
      else if x.2 then holdMessage x.1 qp i else x.1) := by
  have fits : sendFits (sttHeader hd sent).sent = true := (sendFits_iff sent).2 hs
  rw [he, message, portUp_of_inForce h, if_pos rfl, qpOf_of_inForce h]
  dsimp only
  rw [fits, if_neg (by decide)]
  simp only [apply_ite Host.Outcome.next]
  obtain ⟨t, _ | _⟩ := takeMessage qp (sttHeader hd sent) typ f s p <;> rfl

theorem message_unfit (h : Claims.InForce s qp p) (hs : ¬ Claims.Fits sent) : exec i s = .next (Claims.nakked s qp) := by
  have unfit : (!sendFits (sttHeader hd sent).sent) = true := by
    rw [Bool.not_eq_true', ← Bool.not_eq_true]
    exact mt (sendFits_iff sent).1 hs
  rw [he, message, portUp_of_inForce h, if_pos rfl, qpOf_of_inForce h]
  dsimp only
  rw [if_pos unfit]
  rfl

theorem message_queues (h : Claims.InForce s qp p) (hs : Claims.Fits sent) (hb : Claims.Busy s qp ∨ ∃ w ∈ s.host.waits, w.1 = qp)
    (hn : s.occ.c ≠ 1 ∨ (qp, i) ∉ s.host.waits) : exec i s = .next (Claims.waiting s qp i) := by
  rw [exec_of_fitMessage he h hs, if_neg (by rw [heldTurn_iff]; tauto), if_pos ((qpHeld_iff s qp).2 hb)]
  rfl

theorem message_stays (h : Claims.InForce s qp p) (hs : Claims.Fits sent) (hc : s.occ.c = 1) (hw : (qp, i) ∈ s.host.waits)
    (hb : Claims.Busy s qp ∨ s.host.waits.find? (·.1 == qp) ≠ some (qp, i)) : exec i s = .next s := by
  rw [exec_of_fitMessage he h hs, if_pos ((heldTurn_iff s qp i).2 ⟨hc, hw⟩)]
  have stays : (qpBusy s qp || s.host.waits.find? (·.1 == qp) != some (qp, i)) = true := by rwa [Bool.or_eq_true, qpBusy_iff, bne_iff_ne]
  rw [if_pos stays]

/-- A message that is taken now. -/
theorem exec_of_takenMessage (h : Claims.TakenOn s qp p) (hs : Claims.Fits sent) :
    let x := takeMessage qp (sttHeader hd sent) typ f s p
    exec i s = .next (if x.2 then holdMessage x.1 qp i else x.1) := by
  intro x
  obtain ⟨force, idle, first⟩ := h
  rw [exec_of_fitMessage he force hs, if_neg fun hh => first _ ((heldTurn_iff s qp i).1 hh).2 rfl, if_neg fun hh => ?_]
  obtain hb | ⟨w, hw, e⟩ := (qpHeld_iff s qp).1 hh
  · exact idle hb
  · exact first w hw e

theorem message_discarded (h : Claims.TakenOn s qp p) (hs : Claims.Fits sent) (hf : ¬ Claims.Framed hd sent typ) :
    exec i s = .next (Claims.answered s qp hd sent 3 0x18) := by
  rw [exec_of_takenMessage he h hs, takeMessage, if_neg (mt (sttGood_iff hd sent typ).1 hf)]
  rfl

theorem message_done (h : Claims.TakenOn s qp p) (hs : Claims.WellSent hd sent typ) (hf : f s p = (t, false)) : exec i s = .next t := by
  rw [exec_of_takenMessage he h (fits_of_wellSent hs), takeMessage, if_pos ((sttGood_iff hd sent typ).2 hs.1), hf]
  rfl

theorem message_waits (h : Claims.TakenOn s qp p) (hs : Claims.WellSent hd sent typ) (hf : f s p = (t, true)) :
    exec i s = .next (Claims.waiting t qp i) := by
  rw [exec_of_takenMessage he h (fits_of_wellSent hs), takeMessage, if_pos ((sttGood_iff hd sent typ).2 hs.1), hf]
  rfl

/-- The turn of the first message that waits. -/
theorem exec_of_firstMessage (h : Claims.InForce s qp p) (hs : Claims.WellSent hd sent typ) (hb : ¬ Claims.Busy s qp) (hc : s.occ.c = 1)
    (hw : s.host.waits.find? (·.1 == qp) = some (qp, i)) :
    exec i s = .next (if (f s p).2 then (f s p).1 else releaseMessage (f s p).1 qp i) := by
  have held : heldTurn s qp i = true := (heldTurn_iff s qp i).2 ⟨hc, List.mem_of_find?_eq_some hw⟩
  have due : ¬ (qpBusy s qp || s.host.waits.find? (·.1 == qp) != some (qp, i)) = true := by
    rw [Bool.or_eq_true, qpBusy_iff, bne_iff_ne]
    exact fun hh => hh.elim hb (· hw)
  rw [exec_of_fitMessage he h (fits_of_wellSent hs), if_pos held, if_neg due, takeMessage, if_pos ((sttGood_iff hd sent typ).2 hs.1)]

theorem message_turn_done (h : Claims.InForce s qp p) (hs : Claims.WellSent hd sent typ) (hb : ¬ Claims.Busy s qp) (hc : s.occ.c = 1)
    (hw : s.host.waits.find? (·.1 == qp) = some (qp, i)) (hf : f s p = (t, false)) : exec i s = .next (releaseMessage t qp i) := by
  rw [exec_of_firstMessage he h hs hb hc hw, hf]
  rfl

theorem message_turn_waits (h : Claims.InForce s qp p) (hs : Claims.WellSent hd sent typ) (hb : ¬ Claims.Busy s qp) (hc : s.occ.c = 1)
    (hw : s.host.waits.find? (·.1 == qp) = some (qp, i)) (hf : f s p = (t, true)) : exec i s = .next t := by
  rw [exec_of_firstMessage he h hs hb hc hw, hf]
  rfl

end Message

/-- Outside P3 every instruction that stands for a message goes through the order of its queue pair. -/
theorem exec_eq_message {s : State} {qp sent typ : Nat} {hd : BitVec 192} {i : Instr} (h : Claims.Message qp hd sent typ i) (hp : s.dev.p3 = false) :
    ∃ f, exec i s = message i qp (sttHeader hd sent) typ f s := by
  have awake : ¬ s.dev.p3 = true := by simp [hp]
  rcases h with ⟨rfl, rva, rfl⟩ | ⟨rfl, ws, rfl⟩ | ⟨rfl, h⟩ | ⟨rfl, h | ⟨level, rfl⟩⟩
  · exact ⟨_, rfl⟩
  · exact ⟨_, rfl⟩
  · rcases h with ⟨n, asid, va, len, r, w, rfl⟩ | ⟨n, rfl⟩ | ⟨q, k, rfl⟩ | ⟨asid, ctx, rfl⟩ | ⟨ws, rfl⟩
    · exact ⟨_, rfl⟩
    · exact ⟨_, rfl⟩
    · exact ⟨_, rfl⟩
    · exact ⟨_, if_neg awake⟩
    · exact ⟨_, rfl⟩
  · simp only [List.mem_cons, List.not_mem_nil, or_false] at h
    rcases h with rfl | rfl | rfl | rfl | rfl | rfl | rfl | rfl | rfl | rfl <;> exact ⟨_, rfl⟩
  · exact ⟨_, if_neg awake⟩

/-! Queue pairs and remote memory (R437, R438, R446, R451). -/

section Connection
variable {s : State} {qp port : Nat} {user : Option Nat} (hu : s.dev.up = true) (hp : s.dev.p3 = false) (hq : qp < 1024) (h1 : qp ≠ 1)
  (ha : ∀ a, user = some a → a < 2 ^ 16) (hport : port < 9) (hd : port ∉ s.dev.portsDown)
include hu hp hq h1 ha hport hd

theorem execConnectionManager_of_fit [Decidable (∀ p, Claims.InForce s qp p → p.port = port)] : execConnectionManager qp user port s =
    if ∀ p, Claims.InForce s qp p → p.port = port then
      .next { s with host := { s.host with qps := sset s.host.qps qp { port := port, admin := user.isNone, asid := user.getD 0, err := false } } }
    else .next s := by
  have keeps : (qpOf s qp).all (fun p => p.port == port) = true ↔ ∀ p, Claims.InForce s qp p → p.port = port := by
    rw [Option.all_eq_true]
    simp only [beq_iff_eq]
    exact ⟨fun h p hf => h p (qpOf_of_inForce hf), fun h p hf => h p (inForce_of_qpOf hu hp hf)⟩
  have named : user.all (fun a => decide (a < 2 ^ 16)) = true := by
    rw [Option.all_eq_true]
    exact fun a h => decide_eq_true (ha a h)
  unfold execConnectionManager
  refine if_congr ?_ rfl rfl
  rw [← keeps, named]
  simp [portUp_of_awake hu hp, hq, h1, hport, hd]

end Connection

theorem requestRegion_eq_some {s : State} {p : Qp} {rkey va len : Nat} {wr : Bool} {r : Region} (h : requestRegion s p rkey va len wr = some r) :
    r.v = true ∧ bits rkey 12 12 = 0 ∧ rkey / 2 ^ 24 = r.gen ∧ (p.admin = true ∨ r.asid = p.asid) ∧ r.va ≤ va ∧ va + len ≤ r.va + r.len ∧
      (wr = true → r.wr = true) ∧ (wr = false → r.rd = true) := by
  unfold requestRegion at h
  obtain ⟨hc, hr⟩ := Option.ite_none_right_eq_some.1 h
  obtain rfl := Option.some.inj hr
  simp only [Bool.and_eq_true, Bool.or_eq_true, beq_iff_eq, decide_eq_true_eq] at hc
  obtain ⟨⟨⟨⟨⟨⟨hv, hz⟩, hg⟩, ha⟩, hlo⟩, hhi⟩, hrw⟩ := hc
  exact ⟨hv, hz, hg, ha, hlo, hhi, fun hw => by rwa [if_pos hw] at hrw, fun hw => by rwa [if_neg (by simp [hw])] at hrw⟩

section Remote
variable {s : State} {qp rkey va len : Nat} {data : List (BitVec 8)} {p : Qp} (hq : qpOf s qp = some p)
include hq

theorem execRdmaInvalidRequest_of_qp : execRdmaInvalidRequest qp s = .next (nakInvalid s qp) := by
  unfold execRdmaInvalidRequest
  rw [hq]

theorem execRdmaWrite_refused (h : requestRegion s p rkey va data.length true = none) : execRdmaWrite qp rkey va data s = .next (refuseAccess s qp) := by
  unfold execRdmaWrite
  rw [hq]
  dsimp only
  rw [h]

theorem execRdmaRead_refused (h : requestRegion s p rkey va len false = none) : execRdmaRead qp rkey va len s = .next (refuseAccess s qp) := by
  unfold execRdmaRead
  rw [hq]
  dsimp only
  rw [h]

variable {r : Region} (hup : portUp s = true)
include hup

section Write
variable (h : requestRegion s p rkey va data.length true = some r) (hr : s.host.recovery = false) {s1 : State}
include h hr

theorem execRdmaWrite_writes (hw : writeVa s 0 r.asid va data (r.asid != 0) = (s1, none)) : execRdmaWrite qp rkey va data s = .next s1 := by
  unfold execRdmaWrite
  rw [hq]
  dsimp only
  rw [h]
  dsimp only
  rw [hr, hup, hw]
  rfl

theorem execRdmaWrite_of_fault {e : Nat × Nat × Nat} (hw : writeVa s 0 r.asid va data (r.asid != 0) = (s1, some e)) : execRdmaWrite qp rkey va data s =
    .next (refuseAccess (walkVa s 0 r.asid va data.length { imageWant (r.asid != 0) false with wr := true }) qp) := by
  unfold execRdmaWrite
  rw [hq]
  dsimp only
  rw [h]
  dsimp only
  rw [hr, hup, hw]
  rfl

end Write

section Read
variable (h : requestRegion s p rkey va len false = some r) {s1 : State}
include h

theorem execRdmaRead_reads {bs : List (BitVec 8)} (hw : readVa s 0 r.asid va len (imageWant (r.asid != 0) false) = (s1, .ok bs)) :
    execRdmaRead qp rkey va len s = .next { s1 with host := { s1.host with replies := s1.host.replies ++ [.readData qp bs] } } := by
  unfold execRdmaRead
  rw [hq]
  dsimp only
  rw [h]
  dsimp only
  rw [hup, hw]
  rfl

theorem execRdmaRead_of_fault {e : Nat × Nat × Nat} (hw : readVa s 0 r.asid va len (imageWant (r.asid != 0) false) = (s1, .error e)) :
    execRdmaRead qp rkey va len s = .next (refuseAccess s1 qp) := by
  unfold execRdmaRead
  rw [hq]
  dsimp only
  rw [h]
  dsimp only
  rw [hup, hw]
  rfl

end Read

end Remote

/-! CTRL operations (R398, R425, R438, R441, R457, R458). -/

section Ctrl
variable {s t : State} {qp sent st : Nat} {hd : BitVec 192} {i : Instr} {p : Qp} (h : Claims.TakenOn s qp p) (hs : Claims.WellSent hd sent 3)
include h hs

/-- A CTRL operation that never waits. -/
theorem ctrlActs_of_ctrl {f : State → State × Nat} (he : exec i s = ctrl i qp (sttHeader hd sent) f s) (hf : f s = (t, st)) :
    Claims.CtrlActs i s qp hd sent p t st := by
  refine ⟨fun ha => message_done he h hs ?_, fun ha => message_done he h hs ?_⟩
  · rw [if_pos ha, hf]
    rfl
  · rw [if_neg (by simp [ha])]
    rfl

end Ctrl

section Preempt
variable {s : State} {q : Nat} {l : Launch}

theorem holdsTile_iff (l : Launch) (res : List Nat) : holdsTile l res = true ↔ ∃ t ∈ res, t ∈ heldTiles l ++ aimedTiles l := by
  simp [holdsTile]

theorem not_victimUnderWay_iff (s : State) (res : List Nat) : victimUnderWay s res = false ↔
    ∀ x ∈ s.sch.launches, x.2.st = .shrinking ∨ x.2.st = .saving → ∀ t ∈ res, t ∉ heldTiles x.2 ++ aimedTiles x.2 := by
  rw [victimUnderWay, List.any_eq_false]
  simp only [Bool.and_eq_true, Bool.or_eq_true, beq_iff_eq, holdsTile_iff, not_and, not_exists]

/-- A launch that a PREEMPT may name (R398, R441). -/
def MayPreempt (s : State) (l : Launch) : Prop :=
  l.st = .running ∧ l.ended = false ∧ l.granted + 2 ^ 20 ≤ s.cyc ∧ (∃ t ∈ s.sch.reserve, t ∈ heldTiles l ++ aimedTiles l) ∧
    ∀ x ∈ s.sch.launches, x.2.st = .shrinking ∨ x.2.st = .saving → ∀ t ∈ s.sch.reserve, t ∉ heldTiles x.2 ++ aimedTiles x.2

theorem mayPreempt_iff (s : State) (l : Launch) : (l.st == .running && !l.ended && holdsTile l s.sch.reserve && !victimUnderWay s s.sch.reserve &&
    decide (l.granted + 2 ^ 20 ≤ s.cyc)) = true ↔ MayPreempt s l := by
  simp only [Bool.and_eq_true, beq_iff_eq, Bool.not_eq_true', decide_eq_true_eq, holdsTile_iff, not_victimUnderWay_iff, MayPreempt]
  tauto

variable (hl : sget s.sch.launches q = some l)
include hl

theorem preemptAim_save [Decidable (MayPreempt s l)] :
    preemptAim s q true = if MayPreempt s l ∧ l.field 361 1 = 1 then some (l, .saving, none) else none := by
  unfold preemptAim
  rw [hl]
  refine (if_pos rfl).trans (if_congr ?_ rfl rfl)
  rw [Bool.and_eq_true, mayPreempt_iff, beq_iff_eq]

theorem preemptAim_shrink [Decidable (MayPreempt s l)] :
    preemptAim s q false = (if MayPreempt s l ∧ l.field 360 1 = 1 then shrinkFor l s.sch.reserve else none).map (fun a => (l, .shrinking, some a)) := by
  unfold preemptAim
  rw [hl]
  refine (if_neg (by decide)).trans (congrArg (Option.map _) (if_congr ?_ rfl rfl))
  rw [Bool.and_eq_true, mayPreempt_iff, beq_iff_eq]

end Preempt

section PreemptMessage
variable {s : State} {qp sent q : Nat} {hd : BitVec 192} {p : Qp} {k : Bool} {l : Launch} {st : LaunchState} {a : Option Aim}
  (h : Claims.TakenOn s qp p) (hs : Claims.WellSent hd sent 3)
include h hs

theorem ctrlPreempt_user (ha : p.admin = false) : exec (.ctrlPreempt qp hd sent q k) s = .next (Claims.answered s qp hd sent 4 0x09) := by
  refine message_done rfl h hs ?_
  rw [if_pos (by simp [ha])]
  rfl

theorem ctrlPreempt_refused (hn : preemptAim s q k = none) : Claims.CtrlActs (.ctrlPreempt qp hd sent q k) s qp hd sent p s 0x04 := by
  refine ⟨fun ha => message_done rfl h hs ?_, ctrlPreempt_user h hs⟩
  rw [if_neg (by simp [ha]), hn]
  rfl

theorem ctrlPreempt_begins (hn : preemptAim s q k = some (l, st, a)) (hr : noticeRoom s q l = true) :
    Claims.CtrlActs (.ctrlPreempt qp hd sent q k) s qp hd sent p (beginChange s q l st a) 0 := by
  refine ⟨fun ha => message_done rfl h hs ?_, ctrlPreempt_user h hs⟩
  rw [if_neg (by simp [ha]), hn]
  exact if_pos hr

theorem ctrlPreempt_waits (hn : preemptAim s q k = some (l, st, a)) (hr : noticeRoom s q l = false) (ha : p.admin = true) :
    exec (.ctrlPreempt qp hd sent q k) s = .next (Claims.waiting s qp (.ctrlPreempt qp hd sent q k)) := by
  refine message_waits rfl h hs ?_
  rw [if_neg (by simp [ha]), hn]
  exact if_neg (by simp [hr])

end PreemptMessage

/-! Waking quadrants (R453). -/

/-- The contexts and the debug registers are the same. -/
def SameDebug (s t : State) : Prop := t.ctxs = s.ctxs ∧ t.dev.hen = s.dev.hen ∧ t.dev.dasid = s.dev.dasid

theorem SameDebug.trans {s t u : State} (h : SameDebug s t) (h' : SameDebug t u) : SameDebug s u := by
  obtain ⟨hc, hh, ha⟩ := h
  obtain ⟨hc', hh', ha'⟩ := h'
  exact ⟨hc'.trans hc, hh'.trans hh, ha'.trans ha⟩

theorem sameDebug_foldl {step : State → Nat → State} (each : ∀ s n, SameDebug s (step s n)) (todo : List Nat) (s : State) :
    SameDebug s (todo.foldl step s) :=
  foldl_keeps (SameDebug s) step todo s ⟨rfl, rfl, rfl⟩ fun t n h => h.trans (each t n)

theorem sameDebug_plainTile (s : State) (t : Nat) : SameDebug s (plainTile s t) := by
  unfold plainTile
  split <;> exact ⟨rfl, rfl, rfl⟩

theorem wakeQuad_of_asleep {s : State} {quad : Nat} (h : sget s.dev.qcur quad = some 2) : wakeQuad s quad = setQreq s quad 0 :=
  if_pos (by rw [sgetD, h]; rfl)

theorem wakeQuad_of_awake {s : State} {quad : Nat} (h : sget s.dev.qcur quad ≠ some 2) : wakeQuad s quad = s := by
  refine if_neg ?_
  unfold sgetD
  cases hc : sget s.dev.qcur quad with
  | none => decide
  | some v => exact fun e => h (hc.trans (congrArg some e))

theorem sameDebug_wakeQuad (s : State) (quad : Nat) : SameDebug s (wakeQuad s quad) := by
  by_cases h : sget s.dev.qcur quad = some 2
  · rw [wakeQuad_of_asleep h]
    have requested : SameDebug s { s with dev := { s.dev with qreq := sset s.dev.qreq quad 0, qcur := sset s.dev.qcur quad 0 } } := ⟨rfl, rfl, rfl⟩
    exact requested.trans (sameDebug_foldl sameDebug_plainTile (quadTiles quad) _)
  · rw [wakeQuad_of_awake h]
    exact ⟨rfl, rfl, rfl⟩

/-! HALT (R425, R458). -/

section HaltStatus
variable {s : State} {p : Qp} {asid : Nat} (hl : s.dev.level ≠ 0)
include hl

theorem haltStatus_refused (h : s.dev.level = 1 ∧ (p.admin = true ∨ p.asid ≠ asid) ∨ s.dev.level ≠ 1 ∧ p.admin = false ∧ p.asid ≠ asid) :
    haltStatus s p asid = 5 := by
  unfold haltStatus
  rw [if_neg hl]
  obtain ⟨h1, h⟩ | ⟨h1, h⟩ := h
  · rw [if_pos h1, if_neg]
    rcases h with h | h <;> simp [h]
  · rw [if_neg h1, if_neg]
    simp [h.1, h.2]

theorem haltStatus_allowed (h : p.admin = false ∧ p.asid = asid ∨ s.dev.level ≠ 1 ∧ p.admin = true) : haltStatus s p asid = 0 := by
  unfold haltStatus
  rw [if_neg hl]
  obtain ⟨ha, h⟩ | ⟨h1, ha⟩ := h
  · simp [ha, h]
  · rw [if_neg h1, if_pos (by simp [ha])]

end HaltStatus

section Halt
variable {s : State} {qp sent asid ctx : Nat} {hd : BitVec 192} {p : Qp} {x : Ctx}

theorem haltMessage_off (hl : s.dev.level = 0) : haltMessage qp (sttHeader hd sent) asid ctx s p = (Claims.answered s qp hd sent 4 1, false) :=
  if_pos hl

variable (hx : ctxOf s ctx = some x) (hl : s.dev.level ≠ 0)
include hx hl

theorem haltMessage_asleep (hq : sleepingQuads s x.q ≠ []) (hf : s.dev.life ≠ 1 ∨ s.dev.level ≠ 2) :
    haltMessage qp (sttHeader hd sent) asid ctx s p = (Claims.answered s qp hd sent 4 3, false) := by
  have refused : (!(sleepingQuads s x.q).isEmpty && !(s.dev.life == 1 && s.dev.level == 2)) = true := by
    simpa [hq, imp_iff_not_or] using hf
  unfold haltMessage
  rw [hx]
  exact (if_neg hl).trans (if_pos refused)

/-- The quadrants in P2 that hold tiles of the context's launch are awake. -/
def awakened (s : State) (x : Ctx) : State := (sleepingQuads s x.q).foldl wakeQuad s

variable (hq : sleepingQuads s x.q = [] ∨ s.dev.life = 1 ∧ s.dev.level = 2)
include hq

/-- A HALT once the quadrants of the context's launch are awake. -/
theorem haltMessage_awake : haltMessage qp (sttHeader hd sent) asid ctx s p =
      if haltStatus s p asid ≠ 0 then (Claims.answered (awakened s x) qp hd sent 4 (haltStatus s p asid), false)
      else if s.dev.hen = true ∧ s.dev.dasid.toNat ≠ asid then (Claims.answered (awakened s x) qp hd sent 4 6, false)
      else if x.asid ≠ asid then (Claims.answered (awakened s x) qp hd sent 4 0x04, false)
      else if haltRoom (awakened s x) ctx = true then (Claims.answered (acceptHalt (awakened s x) asid ctx) qp hd sent 4 0, false)
      else (awakened s x, true) := by
  obtain ⟨hc, hh, ha⟩ := sameDebug_foldl sameDebug_wakeQuad (sleepingQuads s x.q) s
  have awake : ¬ (!(sleepingQuads s x.q).isEmpty && !(s.dev.life == 1 && s.dev.level == 2)) = true := by
    rcases hq with hq | ⟨h1, h2⟩
    · simp [hq]
    · simp [h1, h2]
  have there : ctxOf (awakened s x) ctx = some x := (congrArg (sget · ctx) hc).trans hx
  unfold haltMessage
  dsimp only
  rw [hx]
  refine (if_neg hl).trans ((if_neg awake).trans (if_congr Iff.rfl rfl (if_congr ?_ rfl (if_congr ?_ rfl rfl))))
  · show ((awakened s x).dev.hen && (awakened s x).dev.dasid.toNat != asid) = true ↔ _
    rw [awakened, hh, ha]
    simp
  · show (ctxOf (awakened s x) ctx).all (fun x => x.asid != asid) = true ↔ _
    rw [there]
    simp

theorem haltMessage_refused
    (h : s.dev.level = 1 ∧ (p.admin = true ∨ p.asid ≠ asid) ∨ s.dev.level ≠ 1 ∧ p.admin = false ∧ p.asid ≠ asid) :
    haltMessage qp (sttHeader hd sent) asid ctx s p = (Claims.answered (awakened s x) qp hd sent 4 5, false) := by
  rw [haltMessage_awake hx hl hq, haltStatus_refused hl h]
  exact if_pos (by decide)

section Allowed
variable (h : p.admin = false ∧ p.asid = asid ∨ s.dev.level ≠ 1 ∧ p.admin = true)
include h

theorem haltMessage_allowed : haltMessage qp (sttHeader hd sent) asid ctx s p =
      if s.dev.hen = true ∧ s.dev.dasid.toNat ≠ asid then (Claims.answered (awakened s x) qp hd sent 4 6, false)
      else if x.asid ≠ asid then (Claims.answered (awakened s x) qp hd sent 4 0x04, false)
      else if haltRoom (awakened s x) ctx = true then (Claims.answered (acceptHalt (awakened s x) asid ctx) qp hd sent 4 0, false)
      else (awakened s x, true) := by
  rw [haltMessage_awake hx hl hq, haltStatus_allowed hl h]
  exact if_neg (by decide)

theorem haltMessage_engaged (hh : s.dev.hen = true) (ha : s.dev.dasid.toNat ≠ asid) :
    haltMessage qp (sttHeader hd sent) asid ctx s p = (Claims.answered (awakened s x) qp hd sent 4 6, false) :=
  (haltMessage_allowed hx hl hq h).trans (if_pos ⟨hh, ha⟩)

variable (hh : s.dev.hen = false ∨ s.dev.dasid.toNat = asid)
include hh

theorem haltMessage_free : haltMessage qp (sttHeader hd sent) asid ctx s p =
      if x.asid ≠ asid then (Claims.answered (awakened s x) qp hd sent 4 0x04, false)
      else if haltRoom (awakened s x) ctx = true then (Claims.answered (acceptHalt (awakened s x) asid ctx) qp hd sent 4 0, false)
      else (awakened s x, true) :=
  (haltMessage_allowed hx hl hq h).trans (if_neg fun ⟨hen, other⟩ => hh.elim (by simp [hen]) other)

theorem haltMessage_other_asid (ha : x.asid ≠ asid) :
    haltMessage qp (sttHeader hd sent) asid ctx s p = (Claims.answered (awakened s x) qp hd sent 4 0x04, false) :=
  (haltMessage_free hx hl hq h hh).trans (if_pos ha)

theorem haltMessage_of_asid (ha : x.asid = asid) : haltMessage qp (sttHeader hd sent) asid ctx s p =
    if haltRoom (awakened s x) ctx = true then (Claims.answered (acceptHalt (awakened s x) asid ctx) qp hd sent 4 0, false) else (awakened s x, true) :=
  (haltMessage_free hx hl hq h hh).trans (if_neg (not_not.2 ha))

end Allowed

end Halt

/-! FWD (R441, R453). -/

section Forward
variable {s : State} {qp sent : Nat} {hd : BitVec 192} {words : List Word} {p : Qp}

/-- The groom core of tile 0 takes between one and 64 words. -/
def Forwards (s : State) (words : List Word) : Prop := words ≠ [] ∧ words.length ≤ 64 ∧ tilePresent s 0 = true

/-- SVEC of tile 0 is valid, and its inbox slot has room for the tokens of the words. -/
def ForwardRoom (s : State) (words : List Word) : Prop :=
  let v := (tileReg s 0 7).toNat
  v / 2 ^ 31 % 2 = 1 ∧ (inboxOf (wakeQuad s 0) 0 (v % 512)).length + (fwdTokens (v % 512) 3 words).length ≤ 4

/-- The tokens of the words stand in the inbox slot of tile 0's SVEC. -/
def forwarded (s : State) (words : List Word) : State :=
  let s0 := wakeQuad s 0
  let slot := (tileReg s 0 7).toNat % 512
  wakeGroom { s0 with frm := { s0.frm with inbox := sset s0.frm.inbox slot (inboxOf s0 0 slot ++ fwdTokens slot 3 words) } } 0

theorem forwards_iff : ¬ (words.isEmpty || decide (64 < words.length) || !tilePresent s 0) = true ↔ Forwards s words := by
  simp [Forwards, and_assoc]

/-- What a FWD does that is taken. -/
theorem ctrlFwd_message : ∃ f, exec (.ctrlFwd qp hd sent words) s = message (.ctrlFwd qp hd sent words) qp (sttHeader hd sent) 3 f s ∧
    (p.admin = false → f s p = (Claims.answered s qp hd sent 4 0x09, false)) ∧
    (p.admin = true → ¬ Forwards s words → f s p = (Claims.answered s qp hd sent 4 0x04, false)) ∧
    (p.admin = true → Forwards s words → ForwardRoom s words → f s p = (Claims.answered (forwarded s words) qp hd sent 4 0, false)) ∧
    (p.admin = true → Forwards s words → ¬ ForwardRoom s words → f s p = (wakeQuad s 0, true)) := by
  refine ⟨_, rfl, fun ha => ?_, fun ha hg => ?_, fun ha hg hr => ?_, fun ha hg hr => ?_⟩
  · exact if_pos (by simp [ha])
  · exact (if_neg (by simp [ha])).trans (if_pos (not_not.1 (mt forwards_iff.1 hg)))
  · exact (if_neg (by simp [ha])).trans ((if_neg (forwards_iff.2 hg)).trans (if_pos (by
      simpa [bit, ForwardRoom] using hr)))
  · exact (if_neg (by simp [ha])).trans ((if_neg (forwards_iff.2 hg)).trans (if_neg (by
      simpa [bit, ForwardRoom] using hr)))

end Forward

/-! The security processor (R455 to R458). -/

section Security
variable {s : State} {qp sent level : Nat} {hd : BitVec 192} {p : Qp} {i : Instr} (h : Claims.TakenOn s qp p) (hs : Claims.WellSent hd sent 4)
include h hs

theorem spdm_answers (content : State → Attested) (g : State → State) (he : exec i s = spdm i qp (sttHeader hd sent) content g s) :
    Claims.Gives i s (Claims.attested (g s) qp hd sent (content s) []) :=
  message_done he h hs rfl

theorem debugUnlock_good (hl : level = 1 ∨ level = 2) (hg : Config.signatureGood s.fresh = true) : exec (.debugUnlock qp hd sent level) s =
    .next (Claims.attested (raiseLevel { s with fresh := s.fresh + 1 } level) qp hd sent .other [0]) :=
  message_done (if_neg (by simp [p3_of_inForce h.1])) h hs (if_pos (by simpa [unlockAllowed, hg] using hl))

theorem debugUnlock_refused (hl : level ≠ 1 ∧ level ≠ 2 ∨ Config.signatureGood s.fresh = false) : exec (.debugUnlock qp hd sent level) s =
    .next (Claims.attested { s with fresh := s.fresh + 1 } qp hd sent .other [2]) := by
  refine message_done (if_neg (by simp [p3_of_inForce h.1])) h hs (if_neg ?_)
  rcases hl with hl | hl <;> simp [unlockAllowed, hl]

end Security

section Level
variable {s : State} {level : Nat}

theorem raiseLevel_of_le (h : level ≤ s.dev.level.toNat) : raiseLevel s level = s := if_pos h

theorem level_raiseLevel (hl : level = 1 ∨ level = 2) (h : s.dev.level.toNat < level) : (raiseLevel s level).dev.level.toNat = level := by
  rw [raiseLevel, if_neg (Nat.not_le.2 h)]
  rcases hl with rfl | rfl <;> rfl

/-- R456, R457: in PROD and RMA, FULL zeroises. -/
theorem zeroised_raiseLevel (h : s.dev.level.toNat < 2) (hf : s.dev.life = 2 ∨ s.dev.life = 3) : (raiseLevel s 2).dev.zeroised = true := by
  rw [raiseLevel, if_neg (Nat.not_le.2 h)]
  rcases hf with hf | hf <;> simp [hf, zeroise]

end Level

end Sys2Proof.Machine

namespace Sys2Proof.Proofs
open Sys2Proof.Machine

/-- Settles O59: a message by the order of its queue pair and by what it does once it is taken, every other request from its exec function. -/
theorem hostRequestsAreServed : Obligations.HostRequestsAreServed := by
  classical
  refine ⟨?connection, ?rdma, ?region, ?answer, ?order, ?messages, ?regions, ?preempt, fun s qp hd sent asid ctx hp => if_pos hp, ?halt,
    fun s quad => ⟨wakeQuad_of_asleep, wakeQuad_of_awake⟩, ?forward, ?attest, fun s qp hd sent level hp => if_pos hp, ?level⟩
  case connection =>
    intro s qp port user hu hp hq h1 ha hport hd
    have sets := execConnectionManager_of_fit hu hp hq h1 ha hport hd
    exact ⟨fun h => sets.trans (if_pos h), fun p hf hn => sets.trans (if_neg fun h => hn (h p hf))⟩
  case rdma =>
    intro s qp rkey va len data p hq he hd
    have pair := qpOf_eq_some hq he hd
    refine ⟨execRdmaInvalidRequest_of_qp pair, execRdmaWrite_refused pair, execRdmaRead_refused pair, fun r hu hp => ?_⟩
    have up : portUp s = true := portUp_of_awake hu hp
    exact ⟨fun hr hrec => ⟨fun s1 => execRdmaWrite_writes pair up hr hrec, fun s1 e => execRdmaWrite_of_fault pair up hr hrec⟩,
      fun hr => ⟨fun s1 bs => execRdmaRead_reads pair up hr, fun s1 e => execRdmaRead_of_fault pair up hr⟩⟩
  case region => exact fun s p rkey va len wr r h => requestRegion_eq_some h
  case answer =>
    intro s qp hd sent kind val rkey
    exact ⟨fun h => if_pos (bne_iff_ne.2 h), fun h => if_neg fun hn => bne_iff_ne.1 hn h⟩
  case order =>
    intro s qp hd sent typ i p hi
    refine ⟨fun hf hs => ?_, fun ht hs hf => ?_, fun hf hs hb => ⟨fun hn => ?_, fun hc hw hb => ?_⟩⟩
    · obtain ⟨f, he⟩ := exec_eq_message hi (p3_of_inForce hf)
      exact message_unfit he hf hs
    · obtain ⟨f, he⟩ := exec_eq_message hi (p3_of_inForce ht.1)
      exact message_discarded he ht hs hf
    · obtain ⟨f, he⟩ := exec_eq_message hi (p3_of_inForce hf)
      exact message_queues he hf hs hb hn
    · obtain ⟨f, he⟩ := exec_eq_message hi (p3_of_inForce hf)
      exact message_stays he hf hs hc hw hb
  case messages =>
    intro s qp hd sent rva words p h
    refine ⟨fun hs => message_unfit rfl h.1 hs, fun hs hf => message_discarded rfl h hs ?_,
      fun hs => ⟨fun hv => message_done rfl h hs (if_pos hv), fun hv => message_done rfl h hs (if_neg (Nat.not_le.2 hv))⟩,
      fun hs => ⟨fun hr => message_done rfl h hs ?_, fun l d ts hr => message_done rfl h hs ?_⟩⟩
    · split
      · next hc =>
        rw [Bool.and_eq_true, decide_eq_true_eq, decide_eq_true_eq] at hc
        exact hf _ hc.1 hc.2
      · exact hf 1 (by decide) (by decide)
    · have read : readTokens s p (words.take (bits hd.toNat 16 16 / 4)) = none := hr
      dsimp only
      rw [read]
      rfl
    · have read : readTokens s p (words.take (bits hd.toNat 16 16 / 4)) = some (l, d, ts) := hr
      dsimp only
      rw [read]
  case regions =>
    intro s qp hd sent n asid va len r w p h hs
    refine ⟨fun hn ha hlo hhi he => ctrlActs_of_ctrl h hs rfl (if_pos ?_), fun hbad => ctrlActs_of_ctrl h hs rfl (if_neg ?_),
      fun hn => ctrlActs_of_ctrl h hs rfl (if_pos hn), fun hn => ctrlActs_of_ctrl h hs rfl (if_neg (Nat.not_lt.2 hn))⟩
    · simp only [Bool.and_eq_true, decide_eq_true_eq]
      exact ⟨⟨⟨⟨hn, ha⟩, hlo⟩, hhi⟩, he⟩
    · simp only [Bool.and_eq_true, decide_eq_true_eq]
      omega
  case preempt =>
    intro s qp hd sent q l p h hs hl res may
    have save := preemptAim_save hl
    have shrink := preemptAim_shrink hl
    refine ⟨fun k hm => ctrlPreempt_refused h hs ?_, fun hm hf hr => ctrlPreempt_begins h hs (save.trans (if_pos ⟨hm, hf⟩)) hr,
      fun hm hf hr ha => ctrlPreempt_waits h hs (save.trans (if_pos ⟨hm, hf⟩)) hr ha,
      fun hf => ctrlPreempt_refused h hs (save.trans (if_neg (by simp [hf]))),
      fun hf => ctrlPreempt_refused h hs (shrink.trans (by simp [hf])), fun a hm hf hsh hr => ctrlPreempt_begins h hs (shrink.trans ?_) hr⟩
    · cases k with
      | true => exact save.trans (if_neg fun hh => hm hh.1)
      | false => exact shrink.trans (by rw [if_neg fun hh => hm hh.1]; rfl)
    · rw [if_pos ⟨hm, hf⟩, show shrinkFor l s.sch.reserve = some a from hsh]
      rfl
  case halt =>
    intro s qp hd sent asid ctx p x h hs hx i asleep
    have asks : exec i s = message i qp (sttHeader hd sent) 3 (haltMessage qp (sttHeader hd sent) asid ctx) s := if_neg (by simp [p3_of_inForce h.1])
    refine ⟨fun hl => message_done asks h hs (haltMessage_off hl), fun hl hq hf => message_done asks h hs (haltMessage_asleep hx hl hq hf),
      fun hl hq => ⟨fun h1 hc => message_done asks h hs (haltMessage_refused hx hl hq (.inl ⟨h1, hc⟩)),
        fun h1 hp ha => message_done asks h hs (haltMessage_refused hx hl hq (.inr ⟨h1, hp, ha⟩)),
        fun hok => ⟨fun hh ha => message_done asks h hs (haltMessage_engaged hx hl hq hok hh ha),
          fun hh => ⟨?other, fun ha => ?room, fun ha => ?full⟩⟩⟩⟩
    case other => exact fun ha => message_done asks h hs (haltMessage_other_asid hx hl hq hok hh ha)
    case room => exact fun hr => message_done asks h hs ((haltMessage_of_asid hx hl hq hok hh ha).trans (if_pos hr))
    case full => exact fun hr => message_waits asks h hs ((haltMessage_of_asid hx hl hq hok hh ha).trans (if_neg (Bool.not_eq_true _ ▸ hr)))
  case forward =>
    intro s qp hd sent words p hs i s0 v ts given good room
    obtain ⟨f, asks, user, bad, gives, waits⟩ := ctrlFwd_message (s := s) (qp := qp) (sent := sent) (hd := hd) (words := words) (p := p)
    refine ⟨fun h => ⟨fun ha => message_done asks h hs (user ha), fun ha hg => message_done asks h hs (bad ha hg),
      fun ha hg hr => message_done asks h hs (gives ha hg hr), fun ha hg hr => message_waits asks h hs (waits ha hg hr)⟩, fun h hb hc hw ha hg => ?_⟩
    exact ⟨fun hr => message_turn_done asks h hs hb hc hw (gives ha hg hr), fun hr => message_turn_waits asks h hs hb hc hw (waits ha hg hr)⟩
  case attest =>
    intro s qp hd sent level p h hs
    have opens := spdm_answers h hs noContent (fun s => { s with dev := { s.dev with session := true } }) (i := .keyExchange qp hd sent) rfl
    refine ⟨?plain, spdm_answers h hs measured id rfl, spdm_answers h hs (fun _ => .unsupported) id rfl, opens, fun hn => ?_, fun hn => ?_,
      debugUnlock_good h hs, debugUnlock_refused h hs⟩
    case plain =>
      simp only [Claims.spdmPlain, List.forall_mem_cons, List.not_mem_nil, IsEmpty.forall_iff, implies_true, and_true]
      exact ⟨spdm_answers h hs noContent id rfl, spdm_answers h hs noContent id rfl, spdm_answers h hs noContent id rfl,
        spdm_answers h hs noContent id rfl, spdm_answers h hs noContent id rfl, spdm_answers h hs noContent id rfl⟩
    · exact (spdm_answers h hs noContent _ rfl).trans (by rw [if_neg (by simp [hn])]; rfl)
    · exact (spdm_answers h hs noContent _ rfl).trans (by rw [if_pos hn]; rfl)
  case level =>
    intro s level hl
    refine ⟨level_raiseLevel hl, raiseLevel_of_le, fun h2 hlow hf => ?_⟩
    subst h2
    exact zeroised_raiseLevel hlow hf

end Sys2Proof.Proofs

namespace Sys2Proof.Machine

/-! Guards over the lanes of an access that fail at the first lane in order (R18, R30, R33). -/

theorem body_error_bind {α β : Type} (e : Stop) (f : α → Body β) : (Except.error e : Body α) >>= f = .error e := rfl

/-- A check of each item in turn stops with the first item that does not pass. -/
theorem foldl_guard_stop {α : Type} {g : α → Body Unit} {xs pre post : List α} {q : α} {e : Stop} (hxs : xs = pre ++ q :: post)
    (hpre : ∀ x ∈ pre, g x = .ok ()) (hq : g q = .error e) : xs.foldl (fun acc x => acc >>= fun _ => g x) (.ok ()) = .error e := by
  rw [hxs, List.foldl_append, foldl_guard_ok hpre, List.foldl_cons, body_ok_bind, hq]
  exact List.foldlRecOn (motive := fun acc => acc = Except.error e) post _ rfl fun acc hacc x _ => by rw [hacc, body_error_bind]

theorem vaCheck_eq_none_iff {va : Int} {len al : Nat} (hlen : 0 < len) : vaCheck va len al = none ↔ Claims.VaOk va len al := by
  refine ⟨fun h => ?_, fun ⟨low, high, aligned⟩ => vaCheck_inside low aligned high hlen⟩
  by_cases outside : va < 0 ∨ 2 ^ 56 ≤ va
  · rw [vaCheck_outside outside] at h
    cases h
  · by_cases aligned : va % (al : Int) = 0
    · by_cases past : 2 ^ 56 < va + (len : Int)
      · rw [vaCheck_end (by omega) (by omega) aligned past] at h
        cases h
      · exact ⟨by omega, by omega, aligned⟩
    · rw [vaCheck_misaligned (by omega) (by omega) aligned] at h
      cases h

/-- The guard of lanes looks at their addresses and lengths alone. -/
theorem vaGuard_first {α : Type} {ls : List Lane} {xs pre post : List α} {q : α} {va : α → Int} {len al c d : Nat} (hlen : 0 < len)
    (hls : ls.map (fun y => (y.va, y.len)) = xs.map fun x => (va x, len)) (hxs : xs = pre ++ q :: post)
    (hpre : ∀ x ∈ pre, Claims.VaOk (va x) len al) (hq : vaCheck (va q) len al = some (c, d)) :
    vaGuard ls al = .error (.fault c d (vaNat (va q))) := by
  have guard_eq : vaGuard ls al = (xs.map fun x => (va x, len)).foldl (fun acc p => acc >>= fun _ => match vaCheck p.1 p.2 al with
      | none => .ok ()
      | some (c, d) => .error (.fault c d (vaNat p.1))) (.ok ()) := by
    rw [← hls, List.foldl_map]
    rfl
  rw [guard_eq, hxs, List.map_append, List.map_cons]
  refine foldl_guard_stop rfl (fun p hp => ?_) (by simp only [hq])
  obtain ⟨x, hx, rfl⟩ := List.mem_map.1 hp
  simp only [(vaCheck_eq_none_iff hlen).2 (hpre x hx)]

/-- What the check of R30 finds in an address that leaves the space or is misaligned. -/
theorem vaFaults_of_vaCheck {i : Instr} {s : State} {τ : Task} {va : Int} {len al : Nat}
    (h : ∀ c d, vaCheck va len al = some (c, d) → EndsWith i s τ c d (vaNat va)) : Claims.VaFaults i s τ va al :=
  ⟨fun outside => h _ _ (vaCheck_outside outside), fun low high misaligned => h _ _ (vaCheck_misaligned low high misaligned)⟩

/-! Loads, chases and prefetches as they issue (R14, R15, R270, R272, R273). -/

section Loads
variable {τ : Task} {x : Lanes} {base sc : Nat}

theorem loadLanes_of_sizes : ∀ z ∈ Claims.sizes, loadLanes τ x base sc z.1 =
    .ok ((execLanes τ x).map fun p => Claims.access p.1 (Claims.addr τ base sc p.2) z.2 0 0) := by
  simp only [Claims.sizes, List.forall_mem_cons, List.not_mem_nil, IsEmpty.forall_iff, implies_true, and_true, loadLanes]
  exact ⟨rfl, rfl, rfl⟩

theorem loadLanes_row {v : Word} (hl : Claims.SomeLane τ [x]) (hv : laneOf x 0 = some v) : loadLanes τ x base sc .row =
    .ok ((List.range τ.w).map fun l => Claims.access l (Claims.addr τ base sc v + 4 * (l : Int)) 4 0 0) := by
  simp only [loadLanes, lane0_of_someLane hl hv, body_ok_bind]
  rfl

variable {a b : Src} {z : Size} {n : Nat} {s : State} {ls : List Lane}

/-- An access that issues as it executes is the newest operation (R136). -/
theorem issues_of_body {i : Instr} {o : Op} {f : State → Task → Body (State × Task)} (he : exec i s = runBody f s) (hr : Runs s τ)
    (hf : f s τ = .ok (issueNow s τ o)) : Claims.Issues i s τ o :=
  he.trans (runBody_ok hr hf)

/-- R270: a load of these lanes answers their guard, then issues. -/
theorem ld_body (hw : loadWaits s = false) (hs : SrcsOk τ [a]) (hn : (portAt s n).isSome)
    (hls : loadLanes τ (readSrc τ false a) base sc z = .ok ls) : ∃ f, exec (.ld a base z sc (.port n)) s = runBody f s ∧
      f s τ = vaGuard ls (sizeBytes z) >>= fun _ => if ls.isEmpty then .ok (s, τ.advance 1)
        else .ok (issueNow s τ (mkOp s τ (.ld z) (some n) noLanes noLanes ls)) := by
  refine ⟨_, (show execLd a base z sc (.port n) s = _ from if_neg (by simp [hw])), ?_⟩
  simp only [check_true (srcOk_one hs), needPort_ok hn, body_ok_bind, hls]

theorem ld_issues (hw : loadWaits s = false) (hr : Runs s τ) (hs : SrcsOk τ [a]) (hn : (portAt s n).isSome)
    (hls : loadLanes τ (readSrc τ false a) base sc z = .ok ls) (hne : ls ≠ []) (hva : vaGuard ls (sizeBytes z) = .ok ()) :
    Claims.Issues (.ld a base z sc (.port n)) s τ (mkOp s τ (.ld z) (some n) noLanes noLanes ls) := by
  obtain ⟨f, he, hf⟩ := ld_body hw hs hn hls
  refine issues_of_body he hr ?_
  rw [hf, hva, body_ok_bind, if_neg (by simpa using hne)]

theorem ld_ends {c d addr : Nat} (hw : loadWaits s = false) (hr : Runs s τ) (hs : SrcsOk τ [a]) (hn : (portAt s n).isSome)
    (hls : loadLanes τ (readSrc τ false a) base sc z = .ok ls) (hva : vaGuard ls (sizeBytes z) = .error (.fault c d addr)) :
    EndsWith (.ld a base z sc (.port n)) s τ c d addr := by
  obtain ⟨f, he, hf⟩ := ld_body hw hs hn hls
  refine endsWith_of_runBody he hr ?_
  rw [hf, hva, body_error_bind]

/-- The first words of a chain, one for each executed lane (R272). -/
def chainLanes (τ : Task) (x : Lanes) (base sc : Nat) : List Lane :=
  (execLanes τ x).map fun p => Claims.access p.1 (Claims.addr τ base sc p.2) 4 0 0

theorem ldch_body {ctl : Word} (hw : loadWaits s = false) (hs : SrcsOk τ [a, b]) (hn : (portAt s n).isSome)
    (hc : laneOf (readSrc τ true b) 0 = some ctl) (hlo : 1 ≤ ctl.toNat / 2 ^ 16) (hhi : ctl.toNat / 2 ^ 16 ≤ 1024)
    (hne : chainLanes τ (readSrc τ false a) base sc ≠ []) : ∃ f, exec (.ldch a b base sc (.port n)) s = runBody f s ∧
      f s τ = vaGuard (chainLanes τ (readSrc τ false a) base sc) 4 >>= fun _ => .ok (issueNow s τ
        (mkOp s τ (.ldch base sc (ctl.toNat / 2 ^ 16) (ctl.setWidth 16) 0) (some n) noLanes noLanes (chainLanes τ (readSrc τ false a) base sc))) := by
  refine ⟨_, (show execLdch a b base sc (.port n) s = _ from if_neg (by simp [hw])), ?_⟩
  have in_range : (decide (1 ≤ ctl.toNat / 2 ^ 16) && decide (ctl.toNat / 2 ^ 16 ≤ 1024)) = true :=
    Bool.and_eq_true_iff.2 ⟨decide_eq_true hlo, decide_eq_true hhi⟩
  have some_lane : (chainLanes τ (readSrc τ false a) base sc).isEmpty = false := by simpa using hne
  simp only [check_true (srcOk_two hs), needPort_ok hn, body_ok_bind, hc]
  refine (if_neg (by rw [Bool.not_eq_true]; exact some_lane)).trans ?_
  rw [check_true in_range, body_ok_bind, BitVec.ofNat_toNat]
  rfl

/-- R273: a prefetch issues for those of its lanes that pass the check. -/
theorem pref_issues (hr : Runs s τ) (hs : SrcsOk τ [a]) (hls : loadLanes τ (readSrc τ false a) base sc z = .ok ls)
    (hne : ∃ y ∈ ls, vaCheck y.va y.len (sizeBytes z) = none) :
    Claims.Issues (.pref a base z sc) s τ
      (mkOp s τ .pref none noLanes noLanes (ls.filter fun y => (vaCheck y.va y.len (sizeBytes z)).isNone)) := by
  obtain ⟨y, hy, passes⟩ := hne
  have some_lane : (ls.filter fun y => (vaCheck y.va y.len (sizeBytes z)).isNone).isEmpty = false :=
    List.isEmpty_eq_false_iff_exists_mem.2 ⟨y, List.mem_filter.2 ⟨hy, by rw [passes]; rfl⟩⟩
  refine issues_of_body (show execPref a base z sc s = runBody _ s from rfl) hr ?_
  simp only [check_true (srcOk_one hs), body_ok_bind, hls, some_lane, Bool.false_eq_true, if_false]

/-- The lanes of a prefetch that issue are those of its items with an address inside. -/
theorem mem_filter_accesses {α : Type} {xs : List α} {lane : α → Nat} {va : α → Int} {len al : Nat} (hlen : 0 < len) (y : Lane) :
    y ∈ (xs.map fun x => Claims.access (lane x) (va x) len 0 0).filter (fun y => (vaCheck y.va y.len al).isNone) ↔
      ∃ x ∈ xs, Claims.VaOk (va x) len al ∧ y = Claims.access (lane x) (va x) len 0 0 := by
  rw [List.mem_filter, List.mem_map]
  constructor
  · rintro ⟨⟨x, hx, rfl⟩, passes⟩
    exact ⟨x, hx, (vaCheck_eq_none_iff hlen).1 (Option.isNone_iff_eq_none.1 passes), rfl⟩
  · rintro ⟨x, hx, inside, rfl⟩
    exact ⟨⟨x, hx, rfl⟩, Option.isNone_iff_eq_none.2 ((vaCheck_eq_none_iff hlen).2 inside)⟩

end Loads

end Sys2Proof.Machine

namespace Sys2Proof.Proofs
open Sys2Proof.Machine

/-- Settles O29: the lanes of each form, which pass their guard or, for a prefetch, are left where they do not. -/
theorem loadsIssueAsTheyExecute : Obligations.LoadsIssueAsTheyExecute := by
  refine ⟨fun a b base z sc t s hw => ⟨if_pos hw, if_pos hw⟩, ?size, ?row, ?chain, ?prefetch, ?prefetchRow⟩
  case size =>
    intro z hz a base sc n s τ hr hw hs hn xs ls hne hva
    obtain ⟨hsz, hpos⟩ := sizeBytes_of_sizes z hz
    refine ld_issues hw hr hs hn (loadLanes_of_sizes z hz) (mt List.map_eq_nil_iff.1 hne) ?_
    rw [hsz]
    exact vaGuard_accesses hpos hva
  case row =>
    intro a base sc n s τ v hr hw hs hn hv hl hpos hva
    refine ld_issues hw hr hs hn (loadLanes_row hl hv) (mt List.map_eq_nil_iff.1 (by simp; omega))
      (vaGuard_accesses (lane := id) (by decide) fun l hl => hva l (List.mem_range.1 hl))
  case chain =>
    intro a b base sc n s τ c hr hw hs hn hc hlo hhi xs hne hva
    obtain ⟨f, he, hf⟩ := ldch_body hw hs hn hc hlo hhi (mt List.map_eq_nil_iff.1 hne)
    refine issues_of_body he hr (hf.trans ?_)
    rw [chainLanes, vaGuard_accesses (by decide) hva, body_ok_bind]
  case prefetch =>
    intro z hz a base sc s τ hr hs xs ⟨p, hp, inside⟩
    obtain ⟨hsz, hpos⟩ := sizeBytes_of_sizes z hz
    refine ⟨_, fun y => ?_, pref_issues hr hs (loadLanes_of_sizes z hz) ⟨_, List.mem_map_of_mem hp, ?_⟩⟩
    · rw [hsz]
      exact mem_filter_accesses hpos y
    · rw [hsz]
      exact (vaCheck_eq_none_iff hpos).2 inside
  case prefetchRow =>
    intro a base sc s τ v hr hs hv hl va ⟨l, hlt, inside⟩
    refine ⟨_, fun y => ?_, pref_issues hr hs (loadLanes_row hl hv) ⟨_, List.mem_map_of_mem (List.mem_range.2 hlt), ?_⟩⟩
    · refine (mem_filter_accesses (xs := List.range τ.w) (lane := id) (va := va) (len := 4) (al := 4) (by decide) y).trans ?_
      simp only [List.mem_range, id_eq]
    · exact (vaCheck_eq_none_iff (len := 4) (al := 4) (by decide)).2 inside

end Sys2Proof.Proofs

namespace Sys2Proof.Machine

/-! Where the first lane that fails its address stops the form (R30, R33). -/

/-- A form that stops as its guard of these lanes does faults at the first of them whose address fails. -/
theorem vaFaults_of_guard {α : Type} {i : Instr} {s : State} {τ : Task} {ls : List Lane} {xs pre post : List α} {q : α} {va : α → Int}
    {len al : Nat} (hlen : 0 < len) (hends : ∀ c d addr, vaGuard ls al = .error (.fault c d addr) → EndsWith i s τ c d addr)
    (hls : ls.map (fun y => (y.va, y.len)) = xs.map fun x => (va x, len)) (hxs : xs = pre ++ q :: post)
    (hpre : ∀ x ∈ pre, Claims.VaOk (va x) len al) : Claims.VaFaults i s τ (va q) al :=
  vaFaults_of_vaCheck fun c d hq => hends c d _ (vaGuard_first hlen hls hxs hpre hq)

theorem map_access_addresses {α : Type} {lane data cmp : α → Nat} {va : α → Int} {len : Nat} (xs : List α) :
    (xs.map fun x => Claims.access (lane x) (va x) len (data x) (cmp x)).map (fun y => (y.va, y.len)) = xs.map fun x => (va x, len) := by
  rw [List.map_map]
  rfl

theorem map_filterMap_eq_map_filter {α β γ : Type} {f : α → Option β} {g : β → γ} {p : α → Bool} {h : α → γ} {xs : List α}
    (hx : ∀ x, (f x).map g = if p x then some (h x) else none) : (xs.filterMap f).map g = (xs.filter p).map h := by
  rw [List.map_filterMap, ← List.filterMap_eq_filter, List.map_filterMap]
  refine List.filterMap_congr fun x _ => ?_
  rw [hx, Option.guard]
  split <;> rfl

section StoreFaults
variable {a b : Src} {base sc : Nat} {z : Size} {t : Target} {n : Option Nat} {s : State} {τ : Task} {ls : List Lane}

theorem st_ends {c d addr : Nat} (hr : Runs s τ) (hs : SrcsOk τ [a, b]) (ht : Claims.PortOrNone s t n)
    (hls : storeLanes τ (readSrc τ false a) (readSrc τ true b) base sc z = .ok ls) (hva : vaGuard ls (sizeBytes z) = .error (.fault c d addr)) :
    EndsWith (.st a b base z sc t) s τ c d addr := by
  refine endsWith_of_runTask (show execSt a b base z sc t s = runTask _ s from rfl) hr ?_
  simp only [check_true (srcOk_two hs), portOrDiscard_ok τ ht, body_ok_bind, hls, hva, body_error_bind]

theorem st_vaFaults {α : Type} {xs pre post : List α} {q : α} {lane data : α → Nat} {va : α → Int} {len : Nat} (hlen : 0 < len)
    (hsz : sizeBytes z = len) (hr : Runs s τ) (hs : SrcsOk τ [a, b]) (ht : Claims.PortOrNone s t n)
    (hls : storeLanes τ (readSrc τ false a) (readSrc τ true b) base sc z = .ok (xs.map fun x => Claims.access (lane x) (va x) len (data x) 0))
    (hxs : xs = pre ++ q :: post) (hpre : ∀ x ∈ pre, Claims.VaOk (va x) len len) : Claims.VaFaults (.st a b base z sc t) s τ (va q) len :=
  vaFaults_of_guard hlen (fun _ _ _ hg => st_ends hr hs ht hls (hsz.symm ▸ hg)) (map_access_addresses xs) hxs hpre

theorem ld_vaFaults {α : Type} {xs pre post : List α} {q : α} {lane : α → Nat} {va : α → Int} {len : Nat} {p : Nat} (hlen : 0 < len)
    (hsz : sizeBytes z = len) (hr : Runs s τ) (hw : loadWaits s = false) (hs : SrcsOk τ [a]) (hn : (portAt s p).isSome)
    (hls : loadLanes τ (readSrc τ false a) base sc z = .ok (xs.map fun x => Claims.access (lane x) (va x) len 0 0))
    (hxs : xs = pre ++ q :: post) (hpre : ∀ x ∈ pre, Claims.VaOk (va x) len len) : Claims.VaFaults (.ld a base z sc (.port p)) s τ (va q) len :=
  vaFaults_of_guard hlen (fun _ _ _ hg => ld_ends hw hr hs hn hls (hsz.symm ▸ hg)) (map_access_addresses xs) hxs hpre

/-- Where every executed lane has a value, each is one that stores. -/
theorem pairedLanes_of_all {x val : Lanes} {xs : List (Nat × Word)} (hxs : execLanes τ x = xs) (hval : ∀ p ∈ xs, (laneOf val p.1).isSome) :
    pairedLanes τ x val = xs.map fun p => (p.1, p.2, (laneOf val p.1).getD 0) := by
  rw [pairedLanes, hxs, ← List.filterMap_eq_map]
  refine List.filterMap_congr fun p hp => ?_
  obtain ⟨v, hv⟩ := Option.isSome_iff_exists.1 (hval p hp)
  simp only [hv, Option.map_some, Function.comp, Option.getD_some]

end StoreFaults

section AtomicFaults
variable {τ : Task} {x val exp : Lanes} {base : Nat}

/-- The executed lanes of a compare-and-swap are those with a value and an expected value. -/
theorem comparedLanes_addresses : (comparedLanes τ x val exp).map (fun y => (Claims.addr τ base 0 y.2.1, 4)) =
    ((execLanes τ x).filter fun p => (laneOf val p.1).isSome && (laneOf exp p.1).isSome).map fun p => (Claims.addr τ base 0 p.2, 4) := by
  refine map_filterMap_eq_map_filter fun p => ?_
  cases laneOf val p.1 <;> cases laneOf exp p.1 <;> rfl

/-- The even executed lanes whose upper lane executes with them (R279). -/
def evenLanes (τ : Task) (x : Lanes) : List (Nat × Word) :=
  ((List.range 16).map (2 * ·)).filterMap fun l =>
    if l + 1 < τ.w ∧ predOk τ l = true ∧ predOk τ (l + 1) = true then (laneOf x l).map (fun v => (l, v)) else none

/-- Both lanes of a pair are valid. -/
def pairValid (x : Lanes) (l : Nat) : Bool := (laneOf x l).isSome && (laneOf x (l + 1)).isSome

theorem pairAt_isSome (x : Lanes) (l : Nat) : (pairAt x l).isSome = pairValid x l := by
  unfold pairAt pairValid
  cases laneOf x l <;> cases laneOf x (l + 1) <;> rfl

theorem wideLanes_eq : wideLanes τ x val = (evenLanes τ x).filterMap fun p => (pairAt val p.1).map fun v => (p.1, p.2, v) := by
  rw [wideLanes, evenLanes, List.filterMap_filterMap]
  refine List.filterMap_congr fun l _ => ?_
  split
  · cases laneOf x l with
    | none => rfl
    | some v =>
      rw [Option.map_some, Option.bind_some]
      cases pairAt val l <;> rfl
  · rfl

theorem wideLanes_addresses : (wideLanes τ x val).map (fun y => (Claims.addr τ base 0 y.2.1, 8)) =
    ((evenLanes τ x).filter fun p => pairValid val p.1).map fun p => (Claims.addr τ base 0 p.2, 8) := by
  rw [wideLanes_eq]
  refine map_filterMap_eq_map_filter fun p => ?_
  rw [← pairAt_isSome]
  cases pairAt val p.1 <;> rfl

theorem wideCompared_addresses : (wideCompared τ x val exp).map (fun y => (Claims.addr τ base 0 y.1.2.1, 8)) =
    ((evenLanes τ x).filter fun p => pairValid val p.1 && pairValid exp p.1).map fun p => (Claims.addr τ base 0 p.2, 8) := by
  rw [wideCompared, wideLanes_eq, List.filterMap_filterMap]
  refine map_filterMap_eq_map_filter fun p => ?_
  rw [← pairAt_isSome, ← pairAt_isSome]
  cases pairAt val p.1 with
  | none => rfl
  | some v =>
    rw [Option.map_some, Option.bind_some]
    cases pairAt exp p.1 <;> rfl

/-- An atomic that finds a lane with a failing address ends in that lane's fault. -/
theorem atomic_vaFaults {α : Type} {i : Instr} {k : OpKind} {wide : Bool} {exp : Task → Lanes} {a b : Src} {t : Target} {n : Option Nat}
    {s : State} {xs pre post : List α} {q : α} {va : α → Int} {al : Nat} (he : exec i s = runTask (atomicBody k wide exp a b base t) s)
    (hr : Runs s τ) (hs : SrcsOk τ [a, b]) (ht : Claims.PortOrNone s t n) (hal : (if wide then 8 else 4) = al)
    (hls : (atomicLanes τ (readSrc τ false a) (readSrc τ true b) (exp τ) base wide).map (fun y => (y.va, y.len)) = xs.map fun x => (va x, al))
    (hxs : xs = pre ++ q :: post) (hpre : ∀ x ∈ pre, Claims.VaOk (va x) al al) : Claims.VaFaults i s τ (va q) al := by
  refine vaFaults_of_guard (by rw [← hal]; split <;> decide) (fun c d addr hg => endsWith_of_runTask he hr ?_) hls hxs hpre
  rw [← hal] at hg
  simp only [atomicBody, check_true (srcOk_two hs), portOrDiscard_ok τ ht, body_ok_bind, hg, body_error_bind]

end AtomicFaults

end Sys2Proof.Machine

namespace Sys2Proof.Proofs
open Sys2Proof.Machine

/-- Settles O32: the lanes of each form stand in ascending order, and their guard stops at the first that fails. -/
theorem laneAddressFaults : Obligations.LaneAddressFaults := by
  refine ⟨?loadOrStore, ?store, ?loadRow, ?storeRow, ?chain, ?word, ?compare, ?wide⟩
  case loadOrStore =>
    intro z hz a b base sc n s τ pre post q hr hs hn hxs hpre va at'
    obtain ⟨hsz, hpos⟩ := sizeBytes_of_sizes z hz
    refine ⟨fun hw => ?_, fun hval => ?_⟩
    · have first : SrcsOk τ [a] := fun x hx => hs x (List.mem_of_mem_head? (by rw [List.mem_singleton.1 hx]; rfl))
      exact ld_vaFaults (va := fun p : Nat × Word => Claims.addr τ base sc p.2) hpos hsz hr hw first hn (loadLanes_of_sizes z hz) hxs hpre
    · let stored : Nat × Word → Nat × Word × Word := fun p => (p.1, p.2, (laneOf (readSrc τ true b) p.1).getD 0)
      have pairs : pairedLanes τ (readSrc τ false a) (readSrc τ true b) = pre.map stored ++ stored q :: post.map stored := by
        rw [pairedLanes_of_all hxs hval, List.map_append, List.map_cons]
      refine st_vaFaults (q := stored q) (va := fun y : Nat × Word × Word => Claims.addr τ base sc y.2.1) hpos hsz hr hs (.inr ⟨n, rfl, hn, rfl⟩)
        (storeLanes_of_sizes z hz) pairs fun p hp => ?_
      obtain ⟨y, hy, rfl⟩ := List.mem_map.1 hp
      exact hpre y hy
  case store =>
    intro z hz a b base sc t n s τ pre post q hr hs ht hxs hpre
    obtain ⟨hsz, hpos⟩ := sizeBytes_of_sizes z hz
    exact st_vaFaults (va := fun y : Nat × Word × Word => Claims.addr τ base sc y.2.1) hpos hsz hr hs ht (storeLanes_of_sizes z hz) hxs hpre
  case loadRow =>
    intro a base sc n s τ v l hr hw hs hn hv hl hlt hpre
    have split_range : List.range τ.w = List.range l ++ l :: (List.range (τ.w - l - 1)).map (l + 1 + ·) := by
      rw [← List.singleton_append, ← List.append_assoc, ← List.range_succ, ← List.range_add, show l + 1 + (τ.w - l - 1) = τ.w by omega]
    exact ld_vaFaults (lane := id) (va := fun l : Nat => Claims.addr τ base sc v + 4 * (l : Int)) (by decide) rfl hr hw hs hn (loadLanes_row hl hv)
      split_range fun j hj => hpre j (List.mem_range.1 hj)
  case storeRow =>
    intro a b base sc t n s τ v pre post q hr hs ht hv hxs hpre
    exact st_vaFaults (va := fun x : Nat × Word => Claims.addr τ base sc v + 4 * (x.1 : Int)) (by decide) rfl hr hs ht (storeLanes_row hv) hxs hpre
  case chain =>
    intro a b base sc n s τ c pre post q hr hw hs hn hc hlo hhi hxs hpre
    have some_lane : chainLanes τ (readSrc τ false a) base sc ≠ [] := mt List.map_eq_nil_iff.1 (by simp [hxs])
    obtain ⟨f, he, hf⟩ := ldch_body hw hs hn hc hlo hhi some_lane
    refine vaFaults_of_guard (va := fun p : Nat × Word => Claims.addr τ base sc p.2) (by decide) (fun c d addr hg =>
      endsWith_of_runBody he hr (by rw [hf, hg, body_error_bind])) ?_ hxs hpre
    rw [chainLanes, List.map_map]
    rfl
  case word =>
    intro o f hswapd haddd a b base t n s τ pre post q hr hs ht hxs hpre i hi
    have narrow := wide_eq_false hswapd haddd
    have lanes : (atomicLanes τ (readSrc τ false a) (readSrc τ true b) (noExpect τ) base false).map (fun y => (y.va, y.len)) =
        (pairedLanes τ (readSrc τ false a) (readSrc τ true b)).map fun y => (Claims.addr τ base 0 y.2.1, 4) := by
      rw [atomicLanes_word, List.map_map]
      rfl
    have faults : ∀ k, exec i s = runTask (atomicBody k false noExpect a b base t) s → Claims.VaFaults i s τ (Claims.addr τ base 0 q.2.1) 4 :=
      fun k he => atomic_vaFaults (wide := false) (va := fun y : Nat × Word × Word => Claims.addr τ base 0 y.2.1) he hr hs ht rfl lanes hxs hpre
    obtain rfl | rfl | rfl : i = .amo a b base o t ∨ i = .amosc a b base o t ∨ i = .amof a b base f t := by simpa using hi
    · exact faults (.amo o) (by rw [← narrow]; rfl)
    · exact faults (.amosc o) (by rw [← narrow]; rfl)
    · exact faults (.amof f) rfl
  case compare =>
    intro a b base c t n s τ pre post q hr hs ht hxs hpre
    refine atomic_vaFaults (wide := false) (va := fun p : Nat × Word => Claims.addr τ base 0 p.2) rfl hr hs ht rfl ?_ hxs hpre
    rw [atomicLanes_compared, List.map_map]
    exact comparedLanes_addresses
  case wide =>
    intro a b base c t n s τ pre post q hr hs ht pair even hpre
    refine ⟨fun hxs o ho i hi => ?_, fun hxs => ?_⟩
    · have lanes : (atomicLanes τ (readSrc τ false a) (readSrc τ true b) (noExpect τ) base true).map (fun y => (y.va, y.len)) =
          (even.filter fun p => pair (readSrc τ true b) p.1).map fun p => (Claims.addr τ base 0 p.2, 8) := by
        rw [atomicLanes_wide, List.map_map]
        exact wideLanes_addresses
      have faults : ∀ k, exec i s = runTask (atomicBody k true noExpect a b base t) s → Claims.VaFaults i s τ (Claims.addr τ base 0 q.2) 8 :=
        fun k he => atomic_vaFaults (wide := true) (va := fun p : Nat × Word => Claims.addr τ base 0 p.2) he hr hs ht rfl lanes hxs hpre
      have wide : AmoOp.wide o = true := by obtain rfl | rfl := List.mem_pair.1 ho <;> rfl
      obtain rfl | rfl := List.mem_pair.1 hi
      · exact faults (.amo o) (by rw [← wide]; rfl)
      · exact faults (.amosc o) (by rw [← wide]; rfl)
    · refine atomic_vaFaults (wide := true) (va := fun p : Nat × Word => Claims.addr τ base 0 p.2) rfl hr hs ht rfl ?_ hxs hpre
      rw [atomicLanes_wideCompared, List.map_map]
      exact wideCompared_addresses

end Sys2Proof.Proofs

namespace Sys2Proof.Machine

/-! LDP, STP and GIVE at the first check of R18 that fails. -/

theorem penLanesCheck_first {s : State} {τ : Task} {i c d : Nat} {xs pre post : List (Nat × Word)} {q : Nat × Word} (hi : i < 2048)
    (hxs : xs = pre ++ q :: post) (hpre : ∀ x ∈ pre, Claims.PenOk s τ (x.2.toNat / 2 ^ 22) (Claims.wordOff x.2 i) 4 4)
    (hq : Claims.PenFault s τ (q.2.toNat / 2 ^ 22) (Claims.wordOff q.2 i) 4 4 c d) :
    penLanesCheck s τ i xs = .error (.fault c d q.2.toNat) := by
  refine foldl_guard_stop hxs (fun x hx => ?_) ?_
  · rw [pwOff_eq_wordOff hi, penOf, penCheck_of_penOk (hpre x hx)]
    rfl
  · rw [pwOff_eq_wordOff hi, penOf, penCheck_of_penFault hq]
    rfl

section PenFaults
variable {a : Src} {i : Nat} {s : State} {τ : Task} {f : Stop} (hr : Runs s τ) (hs : SrcsOk τ [a])
include hr hs

theorem ldp_ends {t : Target} {c d addr : Nat} (hw : ldpWaits a i s = false) (ht : targetOk s τ t = true)
    (hcheck : penLanesCheck s τ i (execLanes τ (readSrc τ false a)) = .error (.fault c d addr)) : EndsWith (.ldp a i t) s τ c d addr := by
  refine endsWith_of_runBody (show execLdp a i t s = _ from if_neg (by simp [hw])) hr ?_
  simp only [operands_ok hs ht, body_ok_bind, hcheck, body_error_bind]

theorem stp_ends {c d addr : Nat} (hcheck : penLanesCheck s τ i ((execLanes τ (latchA τ)).filter fun x => (laneOf (readSrc τ false a) x.1).isSome) =
    .error (.fault c d addr)) : EndsWith (.stp a i) s τ c d addr := by
  refine endsWith_of_runTask (show execStp a i s = runTask _ s from rfl) hr ?_
  simp only [check_true (srcOk_one hs), body_ok_bind, hcheck, body_error_bind]

theorem give_ends {eng c d : Nat} {v : Word} (hl : Claims.SomeLane τ [readSrc τ false a]) (hv : laneOf (readSrc τ false a) 0 = some v)
    (h : Claims.PenFault s τ (penOf v.toNat) 0 0 1 c d) : EndsWith (.give a eng) s τ c d v.toNat := by
  refine endsWith_of_runTask (show execGive a eng s = runTask _ s from rfl) hr ?_
  simp only [check_true (srcOk_one hs), body_ok_bind, lane0_of_someLane hl hv, penGuard, penCheck_of_penFault h, body_error_bind]

end PenFaults

end Sys2Proof.Machine

namespace Sys2Proof.Proofs
open Sys2Proof.Machine

/-- Settles O34: the lanes of LDP and STP are checked in ascending order, and GIVE checks its pen alone. -/
theorem penAccessesAreCheckedInOrder : Obligations.PenAccessesAreCheckedInOrder :=
  ⟨fun _ _ _ _ _ _ _ _ _ _ hi hr hw hs ht hxs hpre hq => ldp_ends hr hs hw ht (penLanesCheck_first hi hxs hpre hq),
    fun _ _ _ _ _ _ _ _ _ hi hr hs hxs hpre hq => stp_ends hr hs (penLanesCheck_first hi hxs hpre hq),
    fun _ _ _ _ _ _ _ hr hs hl hv h => give_ends hr hs hl hv h⟩

end Sys2Proof.Proofs

namespace Sys2Proof.Machine

/-! A bank performs the word that it grants (R44, R47, R276). -/

theorem stpWrite_sram (s : State) (ls : List Lane) :
    (stpWrite s ls).mem.sram = ls.foldl (fun m y => mwrite m y.va.toNat 4 y.data) s.mem.sram :=
  (List.foldl_hom (fun s : State => s.mem.sram) fun _ _ => rfl).symm

theorem grantWord_sram (s : State) (o : Op) (x : Lane) : (grantWord s o x).mem.sram =
    (o.lanes.filter fun y => !y.fin && y.va.toNat / 32 == x.va.toNat / 32).foldl (fun m y => mwrite m y.va.toNat 4 y.data) s.mem.sram := by
  rw [← stpWrite_sram]
  unfold grantWord
  dsimp only
  split <;> rfl

theorem grantWord_occ (s : State) (o : Op) (x : Lane) : (grantWord s o x).occ = s.occ := by
  unfold grantWord
  dsimp only
  split <;> exact (stpWrite_tab s _).2

/-! Lanes performed in ascending order (R268). -/

section Perform
variable {pl : Place} {id : Nat} {s t u : State} {x : Lane} {ls r : List Lane}

theorem performLanes_of_laneStep (h : Claims.laneStep pl id (some s) x = some u) : performLanes pl id (x :: r) s = performLanes pl id r u := by
  simp only [Claims.laneStep, Option.bind_some] at h
  conv_lhs => unfold performLanes
  split at h
  next o p ho hp =>
    split at h
    next hopen =>
      split at h
      next s1 v hv =>
        cases h
        simp only [hp, hopen, if_true, hv]
      next => cases h
    next hshut =>
      cases h
      simp only [hp]
      exact if_neg hshut
  next none_there =>
    cases h
    rfl

theorem foldl_laneStep_none (ls : List Lane) : ls.foldl (Claims.laneStep pl id) none = none :=
  List.foldlRecOn (motive := fun acc => acc = none) ls _ rfl fun acc hacc x _ => by rw [hacc]; rfl

/-- Where every lane is performed without an error, the operation stands as its last lane leaves it. -/
theorem performLanes_of_foldl (h : ls.foldl (Claims.laneStep pl id) (some s) = some t) : performLanes pl id ls s = complete t id := by
  induction ls generalizing s with
  | nil =>
    cases h
    rfl
  | cons x r ih =>
    rw [List.foldl_cons] at h
    cases hx : Claims.laneStep pl id (some s) x with
    | none =>
      rw [hx, foldl_laneStep_none] at h
      cases h
    | some u => rw [performLanes_of_laneStep hx, ih (hx ▸ h)]

end Perform

/-! Bytes at home after a write there (R7, R85, R143, R456). -/

/-- The two states differ at most in the bytes of DRAM and the tags of their keys. -/
def SameButDram (s t : State) : Prop := t = { s with mem := { s.mem with dram := t.mem.dram, encTag := t.mem.encTag } }

section HomeBytes
variable {s t u : State} {dom pa a d n v : Nat}

theorem SameButDram.refl (s : State) : SameButDram s s := rfl

theorem SameButDram.trans (h : SameButDram s t) (h' : SameButDram t u) : SameButDram s u := by
  unfold SameButDram at *
  rw [h', h]

theorem SameButDram.eq (h : SameButDram s t) : t = { s with mem := { s.mem with dram := t.mem.dram, encTag := t.mem.encTag } } := h

theorem SameButDram.hitches (h : SameButDram s t) : t.syn.hitches = s.syn.hitches := (congrArg (fun u : State => u.syn.hitches) h.eq).trans rfl

theorem SameButDram.keyTag (h : SameButDram s t) (d : Nat) : keyTag t d = keyTag s d := (congrArg (fun u => Machine.keyTag u d) h.eq).trans rfl

theorem SameButDram.parkFixed (h : SameButDram s t) (a : Nat) : parkFixed t a = parkFixed s a := (congrArg (fun u => Machine.parkFixed u a) h.eq).trans rfl

/-- Every byte that reads the tag of its unit at all reads it as plain text. -/
def PlainAt (s : State) (dom a : Nat) : Prop := inScWindow a = true ∨ sget s.mem.encTag (a / 64) = none ∨ sget s.mem.encTag (a / 64) = some (keyTag s dom)

theorem homeByte_of_plainAt (h : PlainAt s dom a) (hh : sget s.syn.hitches (a / 64 * 64) = none) : homeByte s dom a = mget s.mem.dram a := by
  unfold homeByte plainByte
  rw [hh]
  obtain h | h | h := h <;> simp [h]

/-- A byte at home depends on its own cell, its hitch and the tag of its unit. -/
theorem homeByte_congr (hs : SameButDram s t) (hm : mget t.mem.dram a = mget s.mem.dram a)
    (ht : sget t.mem.encTag (a / 64) = sget s.mem.encTag (a / 64)) : homeByte t d a = homeByte s d a := by
  simp only [homeByte, plainByte, hs.hitches, hs.keyTag, hm, ht]

theorem homeByte_of_hitch (hs : SameButDram s t) (hh : (sget s.syn.hitches (a / 64 * 64)).isSome) : homeByte t d a = homeByte s d a := by
  obtain ⟨h, hh⟩ := Option.isSome_iff_exists.1 hh
  simp only [homeByte, hs.hitches, hh]

theorem inScWindow_unit (h : a / 64 = pa / 64) : inScWindow a = inScWindow pa := by
  simp only [inScWindow, ← Bool.decide_and, decide_eq_decide]
  omega

/-! A change of the key of a unit. -/

theorem retag_sameButDram (s : State) (dom pa : Nat) : SameButDram s (retag s dom pa) := by
  unfold retag
  dsimp only
  split
  · rfl
  · split <;> rfl

theorem retag_encTag (s : State) (dom pa u : Nat) :
    sget (retag s dom pa).mem.encTag u = if u = pa / 64 then some (keyTag s dom) else sget s.mem.encTag u := by
  unfold retag
  dsimp only
  split
  · exact sget_sset ..
  next t ht =>
    split
    next same =>
      split
      next hu => rw [hu, ht, same]
      next => rfl
    next => exact sget_sset ..

theorem retag_dram_of_plain (h : sget s.mem.encTag (pa / 64) = none ∨ sget s.mem.encTag (pa / 64) = some (keyTag s dom)) :
    (retag s dom pa).mem.dram = s.mem.dram := by
  unfold retag
  obtain h | h := h <;> simp [h]

theorem retag_dram_other (h : a / 64 ≠ pa / 64) : mget (retag s dom pa).mem.dram a = mget s.mem.dram a := by
  unfold retag
  dsimp only
  split
  · rfl
  · split
    · rfl
    · refine List.foldlRecOn (motive := fun m => mget m a = mget s.mem.dram a) _ _ rfl fun m hm i hi => ?_
      have below : i < 64 := List.mem_range.1 hi
      rw [mget_mset, if_neg (by omega), hm]

/-! One byte written. -/

/-- The state in which the byte is put: its unit has the writer's key. -/
def keyed (s : State) (dom pa : Nat) : State := if inScWindow pa then s else retag s dom pa

theorem putByte_of_free (h : sget s.syn.hitches (pa / 64 * 64) = none) (b : BitVec 8) : putByte s dom pa b =
    { keyed s dom pa with mem := { (keyed s dom pa).mem with dram := mset (keyed s dom pa).mem.dram pa b } } := by
  simp only [putByte, h, Option.isSome_none, Bool.false_eq_true, if_false, keyed]

theorem homeSet_cases (s : State) (dom pa : Nat) (b : BitVec 8) : homeSet s dom pa b = s ∨
    (sget s.syn.hitches (pa / 64 * 64) = none ∧
      homeSet s dom pa b = { keyed s dom pa with mem := { (keyed s dom pa).mem with dram := mset (keyed s dom pa).mem.dram pa b } }) := by
  unfold homeSet
  split
  · exact .inl rfl
  · cases h : sget s.syn.hitches (pa / 64 * 64) with
    | some x => exact .inl (by simp [putByte, h])
    | none => exact .inr ⟨rfl, putByte_of_free h b⟩

theorem keyed_sameButDram (s : State) (dom pa : Nat) : SameButDram s (keyed s dom pa) := by
  unfold keyed
  split
  · rfl
  · exact retag_sameButDram s dom pa

theorem homeSet_sameButDram (s : State) (dom pa : Nat) (b : BitVec 8) : SameButDram s (homeSet s dom pa b) := by
  obtain h | ⟨-, h⟩ := homeSet_cases s dom pa b
  · rw [h]
    rfl
  · rw [h]
    exact (keyed_sameButDram s dom pa).trans rfl

theorem plainAt_keyed (s : State) (dom pa : Nat) : PlainAt (keyed s dom pa) dom pa := by
  unfold keyed PlainAt
  split
  next sc => exact .inl sc
  next => exact .inr (.inr (by rw [retag_encTag, if_pos rfl, (retag_sameButDram s dom pa).keyTag]))

/-- A byte that reads as plain text does so after another is written, and keeps its cell. -/
theorem keyed_keeps (h : PlainAt s dom a) : PlainAt (keyed s dom pa) dom a ∧ mget (keyed s dom pa).mem.dram a = mget s.mem.dram a := by
  unfold keyed
  split
  · exact ⟨h, rfl⟩
  next notSc =>
    obtain sc | plain := h
    · have units : a / 64 ≠ pa / 64 := fun same => notSc (inScWindow_unit same ▸ sc)
      exact ⟨.inl sc, retag_dram_other units⟩
    · unfold PlainAt
      rw [retag_encTag, (retag_sameButDram s dom pa).keyTag]
      split
      next same => exact ⟨.inr (.inr rfl), by rw [retag_dram_of_plain (same ▸ plain)]⟩
      next units => exact ⟨.inr plain, retag_dram_other units⟩

theorem homeSet_keeps (b : BitVec 8) (h : PlainAt s dom a) (ha : a ≠ pa) :
    PlainAt (homeSet s dom pa b) dom a ∧ homeByte (homeSet s dom pa b) dom a = homeByte s dom a := by
  have same := homeSet_sameButDram s dom pa b
  obtain hset | ⟨hfree, hset⟩ := homeSet_cases s dom pa b
  · rw [hset]
    exact ⟨h, rfl⟩
  · obtain ⟨plain, cell⟩ := keyed_keeps (pa := pa) h
    have after : PlainAt (homeSet s dom pa b) dom a := hset ▸ plain
    refine ⟨after, ?_⟩
    cases hh : sget s.syn.hitches (a / 64 * 64) with
    | some x => exact homeByte_of_hitch same (by rw [hh]; rfl)
    | none =>
      rw [homeByte_of_plainAt after (by rw [same.hitches, hh]), homeByte_of_plainAt h hh, ← cell, hset]
      exact (mget_mset ..).trans (if_neg ha)

theorem homeSet_writes (b : BitVec 8) (hp : parkFixed s pa = false) (hh : sget s.syn.hitches (pa / 64 * 64) = none) :
    PlainAt (homeSet s dom pa b) dom pa ∧ homeByte (homeSet s dom pa b) dom pa = b := by
  have hset := putByte_of_free (dom := dom) hh b
  have free : homeSet s dom pa b = putByte s dom pa b := if_neg (by simp [hp])
  have after : PlainAt (homeSet s dom pa b) dom pa := by
    rw [free, hset]
    exact plainAt_keyed s dom pa
  refine ⟨after, ?_⟩
  rw [homeByte_of_plainAt after (by rw [(homeSet_sameButDram s dom pa b).hitches, hh]), free, hset]
  exact (mget_mset ..).trans (if_pos rfl)

theorem homeSet_far (b : BitVec 8) (h : a / 64 ≠ pa / 64) : homeByte (homeSet s dom pa b) d a = homeByte s d a := by
  obtain hset | ⟨-, hset⟩ := homeSet_cases s dom pa b
  · rw [hset]
  · refine homeByte_congr (homeSet_sameButDram s dom pa b) ?_ ?_ <;> rw [hset]
    · refine ((mget_mset ..).trans (if_neg fun same => h (by rw [same]))).trans ?_
      unfold keyed
      split
      · rfl
      · exact retag_dram_other h
    · show sget (keyed s dom pa).mem.encTag (a / 64) = _
      unfold keyed
      split
      · rfl
      · rw [retag_encTag, if_neg h]

/-! A number written. -/

theorem homePut_sameButDram (s : State) (dom pa n v : Nat) : SameButDram s (homePut s dom pa n v) := by
  induction n generalizing s pa v with
  | zero => rfl
  | succ n ih => exact (homeSet_sameButDram s dom pa _).trans (ih ..)

theorem homePut_keeps (h : PlainAt s dom a) (ha : a < pa ∨ pa + n ≤ a) : homeByte (homePut s dom pa n v) dom a = homeByte s dom a := by
  induction n generalizing s pa v with
  | zero => rfl
  | succ n ih =>
    obtain ⟨plain, kept⟩ := homeSet_keeps (pa := pa) (BitVec.ofNat 8 v) h (by omega)
    exact (ih plain (by omega)).trans kept

theorem homePut_far (h : a / 64 < pa / 64 ∨ (pa + n + 63) / 64 ≤ a / 64) : homeByte (homePut s dom pa n v) d a = homeByte s d a := by
  induction n generalizing s pa v with
  | zero => rfl
  | succ n ih => exact (ih (by omega)).trans (homeSet_far _ (by omega))

theorem homePut_writes {k : Nat} (hk : k < n) (hp : parkFixed s (pa + k) = false) (hh : sget s.syn.hitches ((pa + k) / 64 * 64) = none) :
    homeByte (homePut s dom pa n v) dom (pa + k) = BitVec.ofNat 8 (v / 256 ^ k) := by
  induction n generalizing s pa v k with
  | zero => omega
  | succ n ih =>
    cases k with
    | zero =>
      obtain ⟨plain, written⟩ := homeSet_writes (dom := dom) (BitVec.ofNat 8 v) hp hh
      rw [pow_zero, Nat.div_one]
      exact (homePut_keeps plain (.inl (Nat.lt_succ_self pa))).trans written
    | succ k =>
      have same := homeSet_sameButDram s dom pa (BitVec.ofNat 8 v)
      have place : pa + (k + 1) = pa + 1 + k := by omega
      rw [place] at hp hh ⊢
      rw [Nat.pow_succ', ← Nat.div_div_eq_div_mul]
      exact ih (by omega) (by rw [same.parkFixed, hp]) (by rw [same.hitches, hh])

theorem homeByte_homeWrite (s : State) (dom pa n v d a : Nat) : homeByte (homeWrite s dom pa n v) d a = homeByte (homePut s dom pa n v) d a := rfl

theorem badAt_homeWrite : badAt (homeWrite s dom pa n v) a = true ↔ badAt s a = true ∧ ¬ (pa ≤ a / 8 * 8 ∧ a / 8 * 8 + 8 ≤ pa + n) := by
  have same := homePut_sameButDram s dom pa n v
  have marks : (homePut s dom pa n v).mem.badWords = s.mem.badWords := (congrArg (fun u : State => u.mem.badWords) same.eq).trans rfl
  have latent : (homePut s dom pa n v).mem.latent = s.mem.latent := (congrArg (fun u : State => u.mem.latent) same.eq).trans rfl
  simp only [badAt, homeWrite, clearBad, sget_filter (keep := fun k => !(decide (pa ≤ k * 8) && decide (k * 8 + 8 ≤ pa + n))), marks, latent]
  have kept : (!(decide (pa ≤ a / 8 * 8) && decide (a / 8 * 8 + 8 ≤ pa + n))) = true ↔ ¬ (pa ≤ a / 8 * 8 ∧ a / 8 * 8 + 8 ≤ pa + n) := by
    simp only [Bool.not_eq_true', ← Bool.decide_and, decide_eq_false_iff_not]
  simp only [kept]
  by_cases whole : pa ≤ a / 8 * 8 ∧ a / 8 * 8 + 8 ≤ pa + n
  · simp only [whole, and_self, not_true_eq_false, if_false, Option.isSome_none, Bool.or_self, Bool.false_eq_true, and_false]
  · simp only [whole, not_false_eq_true, if_true, and_true]

theorem homeWrite_frame (s : State) (dom pa n v : Nat) : let t := homeWrite s dom pa n v
    t = { s with mem := { s.mem with
      dram := t.mem.dram, encTag := t.mem.encTag, badWords := t.mem.badWords, latent := t.mem.latent, single := t.mem.single } } := by
  have same := homePut_sameButDram s dom pa n v
  dsimp only [homeWrite, clearBad]
  generalize homePut s dom pa n v = t at same
  rw [same]

theorem homeRead_of_bad {k : Nat} (hk : k < n) (h : badAt s (pa + k) = true) : homeRead s dom pa n = none := by
  induction n generalizing pa k with
  | zero => omega
  | succ n ih =>
    cases k with
    | zero => exact if_pos h
    | succ k =>
      rw [homeRead, ih (k := k) (by omega) (by rwa [Nat.add_right_comm] at *), Option.map_none, ite_self]

theorem homeRead_of_good (h : ∀ k, k < n → badAt s (pa + k) = false) :
    ∃ v, homeRead s dom pa n = some v ∧ ∀ k, k < n → v / 256 ^ k % 256 = (homeByte s dom (pa + k)).toNat := by
  induction n generalizing pa with
  | zero => exact ⟨0, rfl, by omega⟩
  | succ n ih =>
    obtain ⟨r, hr, bytes⟩ := ih (pa := pa + 1) fun k hk => by
      rw [Nat.add_assoc, Nat.add_comm 1]
      exact h (k + 1) (by omega)
    have first : badAt s pa = false := h 0 (by omega)
    refine ⟨(homeByte s dom pa).toNat + 256 * r, by simp only [homeRead, first, hr, Option.map_some, Bool.false_eq_true, if_false], fun k hk => ?_⟩
    have byte := (homeByte s dom pa).isLt
    cases k with
    | zero =>
      simp only [pow_zero, Nat.div_one, Nat.add_zero]
      omega
    | succ k =>
      rw [Nat.pow_succ', ← Nat.div_div_eq_div_mul, show pa + (k + 1) = pa + 1 + k by omega, ← bytes k (by omega)]
      congr 2
      omega

end HomeBytes

/-! Bytes in the stash (R65, R133). -/

section StashBytes
variable {s : State} {tile pa n v : Nat}

theorem foldl_sset_get {α : Type} (key : Nat) (f : Nat → α) (n k : Nat) (m : Store α) :
    sget ((List.range n).foldl (fun m k => sset m (key + k) (f k)) m) k = if key ≤ k ∧ k < key + n then some (f (k - key)) else sget m k := by
  induction n with
  | zero => simp
  | succ n ih =>
    rw [List.range_succ, List.foldl_append, List.foldl_cons, List.foldl_nil, sget_sset, ih]
    split
    next h => rw [if_pos (by omega), h, Nat.add_sub_cancel_left]
    next h =>
      split
      next h' => rw [if_pos (by omega)]
      next h' => rw [if_neg (by omega)]

theorem stashKey_add (tile pa k : Nat) : stashKey tile (pa + k) = stashKey tile pa + k := by
  unfold stashKey
  exact (Nat.add_assoc ..).symm

theorem absorb_stash (s : State) (tile : Nat) (p : Phys) (n v : Nat) (dirty : Bool) (k : Nat) :
    sget (absorb s tile p n v dirty).mem.stash k = if stashKey tile p.pa ≤ k ∧ k < stashKey tile p.pa + n then
      some { val := BitVec.ofNat 8 (v / 256 ^ (k - stashKey tile p.pa)), dirty := dirty, enc := p.enc }
      else sget (makeRoom s tile (p.pa / 128)).mem.stash k := by
  simp only [absorb, upto, stashKey_add]
  exact foldl_sset_get (stashKey tile p.pa) (fun k : Nat => ({ val := BitVec.ofNat 8 (v / 256 ^ k), dirty := dirty, enc := p.enc } : StashByte)) n k _

theorem absorb_dram (s : State) (tile : Nat) (p : Phys) (n v : Nat) (dirty : Bool) :
    (absorb s tile p n v dirty).mem.dram = (makeRoom s tile (p.pa / 128)).mem.dram := rfl

theorem stashKey_succ (tile pa k : Nat) : stashKey tile (pa + 1) + k = stashKey tile pa + (k + 1) := by
  rw [stashKey_add, Nat.add_right_comm, Nat.add_assoc]

theorem stashBytes_of_gap {k : Nat} (hk : k < n) (h : sget s.mem.stash (stashKey tile pa + k) = none) : stashBytes s tile pa n = none := by
  induction n generalizing pa k with
  | zero => omega
  | succ n ih =>
    unfold stashBytes
    cases k with
    | zero =>
      rw [Nat.add_zero] at h
      rw [h]
    | succ k =>
      rw [ih (pa := pa + 1) (k := k) (by omega) (by rwa [stashKey_succ])]
      cases sget s.mem.stash (stashKey tile pa) <;> rfl

theorem stashBytes_of_present (h : ∀ k, k < n → (sget s.mem.stash (stashKey tile pa + k)).isSome) : ∃ r, stashBytes s tile pa n = some r ∧
    ∀ k b, k < n → sget s.mem.stash (stashKey tile pa + k) = some b → r / 256 ^ k % 256 = b.val.toNat := by
  induction n generalizing pa with
  | zero => exact ⟨0, rfl, by omega⟩
  | succ n ih =>
    obtain ⟨r, hr, bytes⟩ := ih (pa := pa + 1) fun k hk => by
      rw [stashKey_succ]
      exact h (k + 1) (by omega)
    obtain ⟨b, hb⟩ := Option.isSome_iff_exists.1 (h 0 (by omega))
    rw [Nat.add_zero] at hb
    refine ⟨b.val.toNat + 256 * r, by rw [stashBytes, hb, hr], fun k c hk hc => ?_⟩
    have byte := b.val.isLt
    cases k with
    | zero =>
      rw [Nat.add_zero] at hc
      cases hb.symm.trans hc
      simp only [pow_zero, Nat.div_one]
      omega
    | succ k =>
      rw [Nat.pow_succ', ← Nat.div_div_eq_div_mul, ← bytes k c (by omega) (by rwa [stashKey_succ])]
      congr 2
      omega

/-- Corrected words hold the bytes that they held (R82). -/
theorem correctSoft_stash (s : State) (tile lo n : Nat) : (correctSoft s tile lo n).mem.stash = s.mem.stash :=
  foldl_keeps (fun t : State => t.mem.stash = s.mem.stash) _ _ s rfl fun _ _ h => h

theorem stashBytes_congr {t : State} (h : t.mem.stash = s.mem.stash) : stashBytes t tile pa n = stashBytes s tile pa n := by
  induction n generalizing pa with
  | zero => rfl
  | succ n ih => rw [stashBytes, stashBytes, h, ih]

theorem stashBytes_fixStash (a m : Nat) : stashBytes (fixStash s tile a m) tile pa n = stashBytes s tile pa n :=
  stashBytes_congr (correctSoft_stash s tile _ _)

theorem loadNormal_of_valid {elem : Nat} {p : Phys} (hon : stashOn s tile elem = true) (hv : stashBytes s tile p.pa n = some v)
    (hgood : ∀ k < n, stashFails s tile (p.pa + k) = false) :
    loadNormal s tile elem p n = (touchLine (fixStash s tile p.pa n) tile (p.pa / 128), .ok v) := by
  have good : (upto n).any (fun k => stashFails s tile (p.pa + k)) = false :=
    List.any_eq_false.2 fun k hk => by simp [hgood k (List.mem_range.1 hk)]
  simp only [loadNormal, hon, if_true, good, Bool.false_eq_true, if_false, stashBytes_fixStash, hv]

end StashBytes

/-! The values of atomics (R277, R281). -/

section AtomicValues
variable {old b : Nat}

theorem toInt_ofNat_eq_signed (h : old < 2 ^ 32) : (BitVec.ofNat 32 old).toInt = signed 32 old := by
  have low : 2 * old < 2 ^ 32 ↔ old < 2 ^ (32 - 1) := by omega
  simp only [signed, BitVec.toInt_eq_toNat_cond, BitVec.toNat_ofNat, Nat.mod_eq_of_lt h, low]

theorem signed_le_iff_sle (ho : old < 2 ^ 32) (hb : b < 2 ^ 32) :
    signed 32 old ≤ signed 32 b ↔ (BitVec.ofNat 32 old).sle (BitVec.ofNat 32 b) = true := by
  rw [BitVec.sle_eq_decide, decide_eq_true_eq, toInt_ofNat_eq_signed ho, toInt_ofNat_eq_signed hb]

theorem toNat_ofNat_of_lt (h : old < 2 ^ 32) : (BitVec.ofNat 32 old).toNat = old := by
  rw [BitVec.toNat_ofNat, Nat.mod_eq_of_lt h]

theorem round_nan (v : Astat) : (roundOf fpF32 .rne false (.nan, v)).1 = 0x7FC00000 := rfl

theorem numAdd_of_nan {x y : Num} {m : RMode} (h : x.isNan = true ∨ y.isNan = true) : numAdd m x y = (.nan, 0) := by
  cases x <;> cases y <;> simp_all [numAdd, Num.isNan]

end AtomicValues

end Sys2Proof.Machine

namespace Sys2Proof.Machine

/-! One lane where its turn is (R34, R132, R133, R135, R277, R281). -/

section LaneAt
variable {s : State} {o : Op} {x : Lane} {p : Phys}

theorem laneAt_home_ld {z : Size} (hk : o.kind = .ld z) (hmt : p.mt ≠ 2) : laneAt .home s o x p =
    match homeRead s p.enc p.pa x.len with
    | some v => .ok (correctAt s p.pa x.len) v
    | none => .ue (correctAt s p.pa x.len) p.pa := by
  simp only [laneAt, homeLane, hk, hmt, readHome, if_false, reduceCtorEq]
  cases homeRead s p.enc p.pa x.len <;> rfl

theorem laneAt_home_st {z : Size} {thru : Bool} (hk : o.kind = .st z thru) (hmt : p.mt ≠ 2) :
    laneAt .home s o x p = .ok (homeWrite s p.enc p.pa x.len x.data) 0 := by
  simp only [laneAt, homeLane, hk, hmt, if_false, reduceCtorEq]

/-- The state in which an atomic reads: its line has left the stash. -/
def atomicBefore (s : State) (o : Op) (p : Phys) : State :=
  if linePresent s o.tile (p.pa / 128) then evictLine s o.tile (p.pa / 128) else s

theorem atomicAt_of_read {f : Nat → Option Nat} {v : Nat} (hv : homeRead (atomicBefore s o p) p.enc p.pa x.len = some v) :
    atomicAt s o x p f = match f v with
      | some new => .ok (homeWrite (correctAt (atomicBefore s o p) p.pa x.len) p.enc p.pa x.len new) v
      | none => .ok (correctAt (atomicBefore s o p) p.pa x.len) v := by
  have read : readHome (atomicBefore s o p) p.enc p.pa x.len = (correctAt (atomicBefore s o p) p.pa x.len, some v) := by rw [readHome, hv]
  unfold atomicAt
  rw [← atomicBefore]
  simp only [read] <;> rfl

end LaneAt

end Sys2Proof.Machine

namespace Sys2Proof.Proofs
open Sys2Proof.Machine

/-- Settles O48. A bank writes its word's lanes; lanes are performed by the fold that the statement gives; what each does at the stash or at home
is read off there, and bytes at home are followed through one byte's write. That an unlisted word keeps its error where a write does not cover it
whole is the model's choice (log entry 68). -/
theorem accessesArePerformedWhereTheyBelong : Obligations.AccessesArePerformedWhereTheyBelong := by
  refine ⟨?bank, ?perform, ?lane, ?write, ?read, ?stash, ?atomic⟩
  case bank =>
    intro s o x hc t
    refine ⟨grantWord_sram s o x, ?_⟩
    show execBankGrant s = _
    simp only [execBankGrant, hc]
    rfl
  case perform =>
    intro s o hs hm
    have id : o.id = s.occ.a := opById_id hs
    refine ⟨fun t ht => ?_, fun hadmit t ht => ?_⟩
    · show execStashFill s = _
      rw [execStashFill, hs]
      simp only [hm, if_true, performLanes_of_foldl ht]
    · show execDramRequest s = _
      rw [execDramRequest, hs]
      simp only [hm, hadmit, Bool.not_true, Bool.false_eq_true, if_false, performLanes_of_foldl ht]
  case lane =>
    intro s o x p read s1 s2 old atomic
    refine ⟨?_, ?_, fun z thru hk hmt => laneAt_home_st hk hmt, ?_, ?_, ?_, ?_, ?_⟩
    · intro z v hk hmt hv
      rw [laneAt_home_ld hk hmt, show homeRead s p.enc p.pa x.len = some v from hv]
    · intro z hk hmt hv
      rw [laneAt_home_ld hk hmt, show homeRead s p.enc p.pa x.len = none from hv]
    · intro a v hk hv
      obtain hk | hk := hk <;> exact (by rw [homeLane, hk] : homeLane s o x p = _).trans (atomicAt_of_read hv)
    · intro a v hk hv
      exact (by rw [homeLane, hk] : homeLane s o x p = _).trans (atomicAt_of_read hv)
    · intro d v hk hv
      have turn : homeLane s o x p = _ := (by rw [homeLane, hk] : homeLane s o x p = _).trans (atomicAt_of_read hv)
      refine ⟨fun h => turn.trans ?_, fun h => turn.trans ?_⟩ <;> simp only [h, if_true, if_false] <;> rfl
    · intro z hk
      simp only [laneAt, stashLane, hk, if_true, Bool.false_eq_true, if_false]
    · intro z v hk hon hv hgood
      simp only [laneAt, stashLane, hk, if_true, loadNormal_of_valid hon hv hgood]
  case write =>
    intro s dom pa n v t
    refine ⟨homeWrite_frame s dom pa n v, fun k hk hp hh => homePut_writes hk hp hh, fun a ha ht => homePut_keeps (.inr ht) ha,
      fun a d ha => homePut_far ha, fun a => badAt_homeWrite⟩
  case read => exact fun s dom pa n => ⟨fun ⟨k, hk, hbad⟩ => homeRead_of_bad hk hbad, homeRead_of_good⟩
  case stash =>
    intro s tile n v p dirty t key
    refine ⟨fun h => if_pos h, fun k hk => ?_, fun hroom => ⟨?_, fun k hk => ?_⟩, fun ⟨k, hk, hgap⟩ => stashBytes_of_gap hk hgap, stashBytes_of_present⟩
    · rw [absorb_stash, if_pos (by omega), Nat.add_sub_cancel_left]
    · rw [absorb_dram, hroom]
    · rw [absorb_stash, if_neg (by omega), hroom]
  case atomic =>
    intro old b ho hb
    have words : (BitVec.ofNat 32 old).toNat = old ∧ (BitVec.ofNat 32 b).toNat = b := ⟨toNat_ofNat_of_lt ho, toNat_ofNat_of_lt hb⟩
    refine ⟨rfl, rfl, rfl, ?_, ?_, ?_, ?_, ?_, ?_, ?_, fun p r hp hr => ⟨rfl, rfl⟩, ?_⟩
    · exact Nat.min_def
    · exact Nat.max_def
    · simp only [amoValue, signed_le_iff_sle ho hb]
    · simp only [amoValue, signed_le_iff_sle ho hb]
    · simp only [amoValue, BitVec.toNat_and, words]
    · simp only [amoValue, BitVec.toNat_or, words]
    · simp only [amoValue, BitVec.toNat_xor, words]
    · intro x y nan
      refine ⟨?_, fun h => ?_, ?_, fun hx hy => ⟨fun h => ?_, fun h => ?_⟩, ?_⟩
      · exact BitVec.toNat_ofNat ..
      · show (BitVec.ofNat 32 (roundOf fpF32 .rne false (numAdd .rne (num32 x) (num32 y))).1).toNat = _
        rw [numAdd_of_nan h, round_nan]
        rfl
      · intro f hf
        obtain rfl | rfl := List.mem_pair.1 hf
        · exact ⟨fun hx hy => congrArg BitVec.toNat (minmax_of_nans hx hy).1,
            fun hx hy => (congrArg BitVec.toNat (minmax_of_nan_left hx hy).1).trans words.2,
            fun hx hy => (congrArg BitVec.toNat (minmax_of_nan_right hx hy).1).trans words.1⟩
        · exact ⟨fun hx hy => congrArg BitVec.toNat (minmax_of_nans hx hy).2,
            fun hx hy => (congrArg BitVec.toNat (minmax_of_nan_left hx hy).2).trans words.2,
            fun hx hy => (congrArg BitVec.toNat (minmax_of_nan_right hx hy).2).trans words.1⟩
      · obtain ⟨lo, hi⟩ := minmax_of_lt hx hy h
        exact ⟨(congrArg BitVec.toNat lo).trans words.1, (congrArg BitVec.toNat hi).trans words.2⟩
      · obtain ⟨lo, hi⟩ := minmax_of_gt hx hy h
        exact ⟨(congrArg BitVec.toNat lo).trans words.2, (congrArg BitVec.toNat hi).trans words.1⟩
      · obtain ⟨lo, hi, -⟩ := zeros_compare (0x80000000, 0) List.mem_cons_self
        obtain ⟨lo', hi', -⟩ := zeros_compare (0, 0x80000000) (List.mem_cons_of_mem _ List.mem_cons_self)
        exact ⟨congrArg BitVec.toNat lo, congrArg BitVec.toNat lo', congrArg BitVec.toNat hi, congrArg BitVec.toNat hi'⟩

end Sys2Proof.Proofs

namespace Sys2Proof.Machine

/-! Translations looked up, missed and walked (R20 to R30). -/

section Lookup
variable {s : State} {o : Op} {x : Lane} {e : TbEntry}

/-- An operation whose lanes the tile's port looks up. -/
theorem looksUp_of (h : (o.phase = .queued ∧ translates o.kind = true ∧ (o.lanes ≠ [] ∨ o.kind = .sflush ∨ o.kind = .sinv)) ∨
    (o.phase = .active ∧ drayMoves o.kind = true)) : looksUp o = true := by
  obtain ⟨hp, ht, hl⟩ | ⟨hp, hd⟩ := h
  · obtain hl | hk | hk := hl
    · simp [looksUp, hp, ht, hl]
    · simp [looksUp, hp, hk, translates, isFlush]
    · simp [looksUp, hp, hk, translates, isFlush]
  · simp [looksUp, hp, hd]

theorem serve_of_passed (hd : (isWrite o.kind && e.wr && !e.d) = false) (hc : leafCheck s (wantOf o) e x.va.toNat = none) :
    serve s o x e = .phys (physOf e x.va.toNat) := by
  simp only [serve, hd, hc, Bool.false_eq_true, if_false]

theorem serve_of_failed {c d : Nat} (hd : (isWrite o.kind && e.wr && !e.d) = false) (hc : leafCheck s (wantOf o) e x.va.toNat = some (c, d))
    (hlast : x.rewalked = true ∨ c = causePriv) : serve s o x e = .fault (c * 256 + d) := by
  have last : (x.rewalked || decide (c = causePriv)) = true := by simpa using hlast
  simp only [serve, hd, hc, Bool.false_eq_true, if_false, last, if_true]

theorem serve_tbUse (s : State) (tile : Nat) (o : Op) (x : Lane) (e f : TbEntry) : serve (tbUse s tile f) o x e = serve s o x e := rfl

variable (hphys : x.phys = none) (hflt : x.flt = 0) (hwait : waitsIn s o (x.va.toNat / 2 ^ 16) = false)
include hphys hflt hwait

theorem lookupLane_open : lookupLane s o x = match tbFind s o.tile o.cx.asid x.va.toNat with
    | some e => match serve s o x e with
      | .needD => (enterMiss s o (x.va.toNat / 2 ^ 16) true false).getD s
      | _ => giveLane (tbUse s o.tile e) o x e
    | none => (enterMiss s o (x.va.toNat / 2 ^ 16) (isWrite o.kind) false).getD s := by
  simp only [lookupLane, hphys, hflt, hwait, Option.isSome_none, bne_self_eq_false, Bool.or_self, Bool.false_eq_true, if_false] <;> rfl

theorem lookupLane_of_phys {p : Phys} (he : tbFind s o.tile o.cx.asid x.va.toNat = some e) (hs : serve s o x e = .phys p) :
    lookupLane s o x = setLane (tbUse s o.tile e) o.id { x with phys := some p } := by
  rw [lookupLane_open hphys hflt hwait, he]
  simp only [hs, giveLane, serve_tbUse]

theorem lookupLane_of_fault {n : Nat} (he : tbFind s o.tile o.cx.asid x.va.toNat = some e) (hs : serve s o x e = .fault n) :
    lookupLane s o x = setLane (tbUse s o.tile e) o.id { x with flt := n } := by
  rw [lookupLane_open hphys hflt hwait, he]
  simp only [hs, giveLane, serve_tbUse]

/-- R26: a lane that misses enters the miss table, or waits for room there. -/
theorem lookupLane_of_miss (he : tbFind s o.tile o.cx.asid x.va.toNat = none)
    (hnew : ∀ m ∈ s.xl.misses, ¬ (m.tile = o.tile ∧ m.asid = o.cx.asid ∧ m.vpn = x.va.toNat / 2 ^ 16)) : lookupLane s o x =
      if missesOf s o.tile < 16 then { s with xl := { s.xl with misses := s.xl.misses ++
        [{ tile := o.tile, asid := o.cx.asid, vpn := x.va.toNat / 2 ^ 16, wr := isWrite o.kind, waiters := [o.id], sent := false, root := false }] } }
      else s := by
  have fresh : (s.xl.misses.any fun m => m.tile == o.tile && m.asid == o.cx.asid && m.vpn == x.va.toNat / 2 ^ 16) = false :=
    List.any_eq_false.2 fun m hm => by simpa [and_assoc] using hnew m hm
  rw [lookupLane_open hphys hflt hwait, he]
  simp only [enterMiss, fresh, Bool.false_eq_true, if_false]
  split <;> rfl

end Lookup

section Walks
variable {s s1 : State} {va l page pte : Nat} {seen : List (Nat × Nat)}

/-- A walk that meets a failure below the root (R29). -/
theorem walk_of_down_error {s0 : State} {quad asid lvl : Nat} {wr : Bool} {r : Nat} {e : Nat × Nat} (hr : asidRoot s asid = (s0, .ok r))
    (hd : walkDown va 3 r [] s0 = (s1, { leaf := .error (lvl, e), seen := seen })) : walk s quad asid va wr true =
      (if e.1 = causeMemUe then dropCached (cacheWalk s1 quad asid va seen) quad asid va lvl else cacheWalk s1 quad asid va seen, .error e) := by
  unfold walk
  rw [walkStart_root hr]
  dsimp only
  rw [hd]

theorem walkDown_of_unread {e : Nat × Nat} (h : tableRead s (page + va / 2 ^ levelBits l % 1024 * 8) = (s1, .error e)) :
    walkDown va l page seen s = (s1, { leaf := .error (l, e), seen := seen }) := by
  cases l <;> rw [walkDown, h]

theorem walkDown_of_refused {e : Nat × Nat} (h : tableRead s (page + va / 2 ^ levelBits l % 1024 * 8) = (s1, .ok pte))
    (hc : pteCheck l pte = .error e) : walkDown va l page seen s = (s1, { leaf := .error (l, e), seen := seen }) := by
  rw [walkDown_entry h, hc]

theorem walkDown_of_leaf (h : tableRead s (page + va / 2 ^ levelBits l % 1024 * 8) = (s1, .ok pte)) (hc : pteCheck l pte = .ok ())
    (hl : bit pte 1 = true) : walkDown va l page seen s = (s1, { leaf := .ok (l, page + va / 2 ^ levelBits l % 1024 * 8, pte), seen := seen }) := by
  rw [walkDown_entry h, hc]
  exact if_pos hl

theorem walkDown_of_table (h : tableRead s (page + va / 2 ^ levelBits (l + 1) % 1024 * 8) = (s1, .ok pte)) (hc : pteCheck (l + 1) pte = .ok ())
    (hl : bit pte 1 = false) :
    walkDown va (l + 1) page seen s = walkDown va l (bits pte 13 39 * 2 ^ 13) (seen ++ [(l + 1, bits pte 13 39 * 2 ^ 13)]) s1 := by
  rw [walkDown_entry h, hc]
  exact if_neg (by simp [hl])

/-- R27, R29, R35: the end of a running walk for every request that its result covers. -/
def walkEnded (s s1 : State) (w : Walk) (r : Check TbEntry) : Result :=
  let covers (asid vpn : Nat) : Bool := asid == w.asid && (match r with
    | .ok e => vpn * 2 ^ 16 / 2 ^ e.bits == e.page
    | .error _ => vpn == w.vpn)
  let done := s1.xl.misses.filter (fun m => quadOf m.tile == s.occ.a && m.sent && covers m.asid m.vpn)
  let s2 := { s1 with xl := { s1.xl with walks := s1.xl.walks.filter (fun x => !(x.quad == s.occ.a && covers x.asid x.vpn)) } }
  .next (done.foldl (fun s m => deliverMiss s m (r.map (fun e => { e with asid := m.asid }))) s2)

end Walks

end Sys2Proof.Machine

namespace Sys2Proof.Proofs
open Sys2Proof.Machine

/-- Settles O51: a lane by what the buffer and the miss table hold for it, a walk by its steps, and its end by the requests that it covers. That a
walk is made in the one turn in which it ends is the model's choice (log entry 10). -/
theorem translationsAreLookedUpAndWalked : Obligations.TranslationsAreLookedUpAndWalked := by
  refine ⟨?miss, ?lookup, ?start, ?complete, ?walk, ?down⟩
  case miss =>
    intro s o hs h
    show execTranslationMiss s = _
    rw [execTranslationMiss, hs]
    exact if_pos (looksUp_of h)
  case lookup =>
    intro s o x hphys hflt hwait
    refine ⟨fun e he hd => ⟨fun hc => ?_, fun c d hc hlast => ?_⟩, fun he hnew => ?_⟩
    · exact lookupLane_of_phys hphys hflt hwait he (serve_of_passed hd hc)
    · exact lookupLane_of_fault hphys hflt hwait he (serve_of_failed hd hc hlast)
    · rw [lookupLane_of_miss hphys hflt hwait he hnew]
      exact ⟨fun h => if_pos h, fun h => if_neg (Nat.not_lt.2 h)⟩
  case start =>
    intro s w s1 hroom hw
    show execPageWalk s = _
    simp only [execPageWalk]
    rw [if_pos hroom]
    simp only [hw, s1]
  case complete =>
    intro s w s1 hw va
    have turn : ∀ r, walk s s.occ.a w.asid (w.vpn * 2 ^ 16) w.wr w.root = (s1, r) → execWalkComplete s = walkEnded s s1 w r := fun r hwalk => by
      rw [execWalkComplete, hw]
      dsimp only
      rw [hwalk]
      rfl
    exact ⟨fun c d hwalk => turn _ hwalk, fun e hwalk => turn _ hwalk⟩
  case walk =>
    intro s s0 s1 quad asid va wr r seen hr s2
    refine ⟨fun lvl a pte hd => ?_, fun lvl e hd => ?_⟩
    · exact walk_of_down (walkStart_root hr) hd
    · exact walk_of_down_error hr hd
  case down =>
    intro s s1 va l page seen a ends
    refine ⟨fun e h => walkDown_of_unread h, fun pte h => ⟨fun e hc => walkDown_of_refused h hc, fun hc hl => walkDown_of_leaf h hc hl, ?_⟩⟩
    rintro k rfl hc hl
    exact walkDown_of_table h hc hl

end Sys2Proof.Proofs

namespace Sys2Proof.Machine

/-! A Dray channel takes its next command (R45, R54, R299). -/

theorem SameBytes.penRead_eq {s t : State} (h : SameBytes s t) (tile p n : Nat) : penRead t tile p n = penRead s tile p n := by
  rw [penRead, penRead, h.penByte_eq, h.sramRead_eq]

theorem SameBytes.ownsLpen_eq {s t : State} (h : SameBytes s t) (o : Op) : ownsLpen t o = ownsLpen s o := by
  rw [ownsLpen, ownsLpen, h.penAt_eq]

theorem sameBytes_fixSram (s : State) (a n : Nat) : SameBytes s (fixSram s a n) :=
  foldl_keeps (SameBytes s) _ _ _ ⟨rfl, rfl, rfl, rfl⟩ fun _ _ h => h

theorem ownsLpen_iff {s : State} {o : Op} {ch : Nat} (hch : chanOf o.kind = some ch) :
    ownsLpen s o = true ↔ ∃ p, penAt s o.tile (lpen o) = some p ∧ p.own = true ∧ p.eng = ch + 1 := by
  rw [ownsLpen, hch]
  cases penAt s o.tile (lpen o) with
  | none => simp
  | some p =>
    simp only [Option.elim_some, Bool.and_eq_true, beq_iff_eq, Option.some.injEq, bne_iff_ne, exists_eq_left', and_assoc, and_congr_right_iff]
    intro _
    omega

section ChannelHead
variable {s : State} {o : Op} (h : channelHead s s.occ.a s.occ.b = some o)
include h

/-- The head of a channel is one of its queued commands, and none there is under way. -/
theorem channelHead_spec : o ∈ channel s s.occ.a s.occ.b ∧ ∀ p ∈ channel s s.occ.a s.occ.b, p.phase ≠ .active := by
  unfold channelHead at h
  split at h
  · cases h
  next idle =>
    refine ⟨?_, fun p hp hph => idle (List.any_eq_true.2 ⟨p, hp, by simp [hph]⟩)⟩
    split at h
    next q hq =>
      split at h
      · cases h
        exact List.mem_of_find?_eq_some hq
      · cases h
    next => cases h

theorem chanOf_channelHead : chanOf o.kind = some s.occ.b := by
  obtain ⟨hmem, -⟩ := channelHead_spec h
  simpa using (Bool.and_eq_true_iff.1 (Bool.and_eq_true_iff.1 (List.mem_filter.1 hmem).2).1).2

theorem drayCommandStart_of_head : exec .drayCommandStart s = .next (startCommand s o) := by
  have idle : (channel s s.occ.a s.occ.b).find? movesReady = none :=
    List.find?_eq_none.2 fun p hp => by simp [movesReady, (channelHead_spec h).2 p hp]
  show execDrayCommandStart s = _
  rw [execDrayCommandStart, idle]
  simp only [h]

end ChannelHead

theorem startCommand_of_foreign {s : State} {o : Op} (hown : ownsLpen s o = false) (hk : ¬ ∃ c r f, o.kind = .dred c r f) :
    startCommand s o = failOp s o causeEngine 0x0D (paramAt o 0) := by
  unfold startCommand
  split
  next c r f hc => exact (hk ⟨c, r, f, hc⟩).elim
  next => simp [hown]

section StartCommand
variable {s : State} {o : Op} (hown : ownsLpen s o = true)
include hown

theorem startCommand_of_move {c : Nat} (hk : o.kind = .dcopy 0 c ∨ o.kind = .dcopy 1 c ∨ o.kind = .dgath c ∨ o.kind = .dscat c) :
    startCommand s o = setOp s { o with phase := .active, lanes := partsOf o.lanes } := by
  obtain hk | hk | hk | hk := hk <;> simp [startCommand, hown, hk, startMove]

theorem startCommand_of_pen {c : Nat} (hk : o.kind = .dcopy 2 c) : startCommand s o = startSend s o penRemote := by
  simp [startCommand, hown, hk]

theorem startCommand_of_slot (hk : (∃ c, o.kind = .dcopy 3 c) ∨ ∃ c, o.kind = .dhop c) : startCommand s o = startSend s o slotRemote := by
  obtain ⟨c, hk⟩ | ⟨c, hk⟩ := hk <;> simp [startCommand, hown, hk]

theorem startCommand_of_append {c : Nat} (hk : o.kind = .dcopy 4 c) : startCommand s o = setOp s { o with phase := .active, n := 0 } := by
  simp [startCommand, hown, hk]

theorem startCommand_of_broadcast {c : Nat} {tm : Bool} (hk : o.kind = .dbcst c tm) :
    startCommand s o = addRemotes s o (groupRemotes s o tm) := by
  simp [startCommand, hown, hk]

end StartCommand

theorem startCommand_of_dred {s : State} {o : Op} (hk : ∃ c r f, o.kind = .dred c r f) : startCommand s o = startDred s o := by
  obtain ⟨c, r, f, hk⟩ := hk
  simp [startCommand, hk]

theorem addRemotes_eq_sending {s : State} {o : Op} {rs : List Remote} (h : rs ≠ []) : addRemotes s o rs = Claims.sending s o rs := by
  simp only [addRemotes, List.isEmpty_eq_false_iff.2 h, Bool.false_eq_true, if_false, Claims.sending]

theorem dedup_ne_nil {l : List Nat} (h : l ≠ []) : dedup l ≠ [] := by
  cases l with
  | nil => exact h
  | cons x r => exact List.cons_ne_nil _ _

/-! The parts of a command moved in order (R13, R82, R300). -/

section Move
variable {s : State} {o : Op} {x : Lane} {p : Phys}

theorem movePart_of_ownRemote {q : Phys} (hp : x.phys = some p) (h : ownRemote s p = .ok q) : movePart s o x = moveAt s o x q := by
  simp only [movePart, hp, h]

theorem movePart_of_unreached {d : Nat} (hp : x.phys = some p) (h : ownRemote s p = .error d) : movePart s o x = (s, .error (d, vaNat x.va)) := by
  simp only [movePart, hp, h]

theorem ownRemote_of_local (h : isRemote p.pa = false) : ownRemote s p = .ok p := by
  simp [ownRemote, h]

theorem ownRemote_of_other (h : isRemote p.pa = true) (ho : s.dev.idv = false ∨ bits p.pa 41 10 ≠ s.dev.pkgid.toNat) : ownRemote s p = .error 0x19 := by
  have other : ownPackage s (bits p.pa 41 10) = false := by
    simp only [ownPackage, Bool.and_eq_false_iff, beq_eq_false_iff_ne]
    exact ho
  simp [ownRemote, h, other]

theorem dramRow_of_present {a : Nat} (h : dramPresent s a = true) : (dramRow a).isSome = true := by
  unfold dramPresent at h
  cases hr : dramRow a with
  | none => simp [hr] at h
  | some q => rfl

/-- R13: the remote address of the own package. -/
theorem ownRemote_of_own (h : isRemote p.pa = true) (hv : s.dev.idv = true) (hid : bits p.pa 41 10 = s.dev.pkgid.toNat) :
    ownRemote s p = if dramRow (p.pa % 2 ^ 41) = none then .error 0x19
      else if dramPresent s (p.pa % 2 ^ 41) = true then .ok { p with pa := p.pa % 2 ^ 41 } else .error 0x0B := by
  have own : ownPackage s (bits p.pa 41 10) = true := by simp [ownPackage, hv, hid]
  simp only [ownRemote, h, own, Bool.not_true, Bool.false_or, Bool.false_eq_true, if_false, Option.isNone_iff_eq_none]

theorem moveAt_of_foreign (h : ownsLpen s o = false) : moveAt s o x p = (s, .error (0x0D, paramAt o 0)) := by
  simp [moveAt, h]

theorem moveAt_of_write (h : ownsLpen s o = true) (hw : isWrite o.kind = true) : let a := penByte s o.tile (lpen o) x.data
    moveAt s o x p = match sramRead s a x.len with
      | none => (fixSram s a x.len, .error (0x11, lpen o * 2 ^ 22 + x.data))
      | some v => (homeWrite (fixSram s a x.len) p.enc p.pa x.len v, .ok p) := by
  intro a
  simp only [moveAt, h, hw, Bool.not_true, Bool.false_eq_true, if_false, if_true, (sameBytes_fixSram s _ _).sramRead_eq]
  rfl

theorem moveAt_of_read (h : ownsLpen s o = true) (hw : isWrite o.kind = false) : let a := penByte s o.tile (lpen o) x.data
    moveAt s o x p = match homeRead s p.enc p.pa x.len with
      | none => (correctAt s p.pa x.len, .error (0x11, p.pa))
      | some v => (sramWrite (correctAt s p.pa x.len) a x.len v, .ok p) := by
  intro a
  simp only [moveAt, h, hw, Bool.not_true, Bool.false_eq_true, if_false, readHome]
  cases homeRead s p.enc p.pa x.len <;> rfl

end Move

/-! A remote write in its turn (R54, R55, R60, R61, R300 to R303, R453). -/

section RemoteWrite
variable {s : State} {o : Op} {r : Remote}

theorem remoteEvent_turn (h : Claims.RemoteOf s o r) : exec (Claims.remoteEvent o) s =
    .next (if sgetD s.dev.qcur (quadOf r.tile) 0 = 2 then s else remoteWrite s o r) := by
  obtain ⟨hs, hph, hr⟩ := h
  have turn : ∀ hop, (match o.kind with | .dhop _ => hop | _ => !hop) = true →
      remoteTurn s hop = if sgetD s.dev.qcur (quadOf r.tile) 0 = 2 then s else remoteWrite s o r := fun hop hk => by
    rw [remoteTurn, hs]
    simp only [hph, beq_self_eq_true, Bool.true_and, hr]
    exact if_pos hk
  unfold Claims.remoteEvent
  split
  next c hk => exact congrArg _ (turn true (by rw [hk]))
  next hk =>
    refine congrArg _ (turn false ?_)
    split
    next c hc => exact (hk c hc).elim
    next => rfl

theorem remoteEvent_writes (h : Claims.RemoteOf s o r) (hq : sgetD s.dev.qcur (quadOf r.tile) 0 ≠ 2) :
    Claims.Gives (Claims.remoteEvent o) s (remoteWrite s o r) := by
  rw [Claims.Gives, remoteEvent_turn h, if_neg hq]

theorem remoteWrite_of_filled (h : r.stage = 2) : remoteWrite s o r = endRemote s o r := by
  simp [remoteWrite, h]

theorem remoteWrite_of_foreign (h : r.stage = 0) (hown : ownsLpen s o = false) : remoteWrite s o r = failOp s o causeEngine 0x0D (paramAt o 0) := by
  simp [remoteWrite, h, hown]

section Slot
variable {t : Trough} (h : r.stage = 0) (hown : ownsLpen s o = true) (hpen : r.pen = none) (ht : troughOk s r.tile r.trough = some t)
include h hown hpen ht

theorem remoteWrite_of_misplaced (hk : t.pkind ≠ 2) : remoteWrite s o r = failOp s o causeEngine 0x0E 0 := by
  simp [remoteWrite, h, hown, hpen, remoteReserve, ht, hk]

theorem remoteWrite_of_reserved (hk : t.pkind = 2) (hm : mayMove t false = true) : let x := reserve s r.tile r.trough t 0
    remoteWrite s o r = setRemotes x.1 (fun l => l.map (fun y => if y = r then { y with pen := some x.2 } else y)) := by
  simp [remoteWrite, h, hown, hpen, remoteReserve, ht, hk, hm]

theorem remoteWrite_of_full (hk : t.pkind = 2) (hm : mayMove t false = false) (hw : Waiter.dray false r.op ∉ t.waiters) :
    remoteWrite s o r = setTrough s r.tile r.trough { t with waiters := t.waiters ++ [.dray false r.op] } := by
  simp [remoteWrite, h, hown, hpen, remoteReserve, ht, hk, hm, hw]

end Slot

section Pen
variable {pen : Nat} (h : r.stage = 0) (hown : ownsLpen s o = true) (hpen : r.pen = some pen)
include h hown hpen

theorem remoteWrite_of_refused {d : Nat} (hd : destCheck s o r pen (paramAt o 3) = some d) :
    remoteWrite s o r = failOp s o causeEngine d (pen * 2 ^ 22 + r.off) := by
  simp only [remoteWrite, h, hown, hpen, hd, Nat.reduceEqDiff, Bool.not_true, Bool.false_eq_true, if_false]

theorem remoteWrite_of_read {v : Nat} (hd : destCheck s o r pen (paramAt o 3) = none) (hv : penRead s o.tile (paramAt o 0) (paramAt o 3) = some v) :
    remoteWrite s o r =
      remoteDone (penWrite (fixPen s o.tile (paramAt o 0) (paramAt o 3)) r.tile (pen * 2 ^ 22 + r.off) (paramAt o 3) v) o r pen := by
  simp only [remoteWrite, h, hown, hpen, hd, Nat.reduceEqDiff, Bool.not_true, Bool.false_eq_true, if_false, (sameBytes_fixPen s _ _ _).penRead_eq, hv]

end Pen

end RemoteWrite

/-! A reduction combined (R304). -/

theorem sameBytes_foldl_fixPen (os : List Op) (n : Nat) (s : State) :
    SameBytes s (os.foldl (fun s p => fixPen s p.tile (paramAt p 0) n) s) :=
  foldl_keeps (SameBytes s) _ os s ⟨rfl, rfl, rfl, rfl⟩ fun t _ h => h.trans (sameBytes_fixPen t _ _ _)

/-- R304: what the combination of these members' operations leaves. -/
theorem combine_of_agreed {s : State} {ms : List (Nat × Nat)} {o : Op} {ch : Nat} {op : DredOp} {i32 : Bool} {os : List Op} (hk : o.kind = .dred ch op i32)
    (hos : ms.filterMap (fun x => opById s x.2) = os) (hagree : ∀ p ∈ os, paramAt p 3 = paramAt o 3 ∧ ∃ c, p.kind = .dred c op i32) :
    let s1 := os.foldl (fun s p => fixPen s p.tile (paramAt p 0) (paramAt o 3)) s
    (∀ p ∈ os, ownsLpen s1 p = true ∧ (penRead s1 p.tile (paramAt p 0) (paramAt o 3)).isSome = true) →
    let r := dredResult op i32 (paramAt o 3 / 4) (os.map (fun p => (penRead s1 p.tile (paramAt p 0) (paramAt o 3)).getD 0))
    combine s ms o = os.foldl (fun s p => setOp (penWrite s p.tile (paramAt p 0) (paramAt o 3) r) { p with phase := .done }) s1 := by
  intro s1 hread r
  have none_bad : os.find? (fun p => !ownsLpen s1 p || (penRead s1 p.tile (paramAt p 0) (paramAt o 3)).isNone) = none :=
    List.find?_eq_none.2 fun p hp => by
      obtain ⟨hown, hsome⟩ := hread p hp
      simp [hown, Option.isSome_iff_ne_none.1 hsome]
  unfold combine
  simp only [hk, hos]
  rw [if_neg]
  · show (match os.find? (fun p => !ownsLpen s1 p || (penRead s1 p.tile (paramAt p 0) (paramAt o 3)).isNone) with | some p => _ | none => _) = _
    rw [none_bad]
  · simp only [Bool.not_eq_true', Bool.not_eq_false, List.all_eq_true]
    intro p hp
    obtain ⟨hlen, c, hc⟩ := hagree p hp
    simp [hlen, hc]

/-! An append (R101, R102). -/

section Append
variable {s s1 : State} {o : Op} {x : BaleEntry}

theorem appendTurn_of_elsewhere (hn : o.n ≠ 2) (h : placedElsewhere s (appSeq o) (appPos o / 64) = true) :
    appendTurn s o = failOp s o causeEngine 0x19 0 := by
  simp [appendTurn, hn, h]

theorem appendTurn_of_entry (hl : lookBale s o.id o.tile (appSeq o) (appLh o) (appPos o / 64) = (s1, .entry x))
    (here : o.n ≠ 2 → placedElsewhere s (appSeq o) (appPos o / 64) = false) : appendTurn s o =
      if o.n = 2 then appendStore (if bits x.entry 62 2 = 1 then wakeQuad s1 (quadOf (bits x.entry 17 26 / 1024)) else s1) o x
      else appendTry s1 o x := by
  have stays : ¬ ((o.n != 2 && placedElsewhere s (appSeq o) (appPos o / 64)) = true) := by
    rw [Bool.and_eq_true, bne_iff_ne]
    rintro ⟨hn, hp⟩
    simp [here hn] at hp
  rw [appendTurn, if_neg stays, hl]

theorem seqValid_of_not_refused {asid q : Nat} (h : seqRefusal x asid q = none) : seqValid x.sent = true := by
  unfold seqRefusal at h
  by_contra invalid
  simp [Bool.not_eq_true _ ▸ invalid] at h

/-- The checks of an append that nothing refuses end in its swap (R101 step 2). -/
theorem appendTry_of_placed {s2 : State} {ring : List Nat} {q : Pen} (hseq : seqRefusal x o.cx.asid o.cx.q = none)
    (hplace : resolvePlace s x.sent x.seq (x.bidx / 16) = (s1, .pkg s1.dev.pkgid.toNat)) (hring : ringList s1 x.sent = (s2, .ok ring))
    (hholder : holderRefusal s2 x = none) (hgroup : placeRefusal s2 (.pkg s1.dev.pkgid.toNat) ring = none) (hstore : storageRefusal s2 x = none)
    (hown : ownsLpen s2 o = true) (hpen : penAt s2 o.tile (lpen o) = some q) (hsize : offOf (paramAt o 0) + 2 * seqDh x.sent * seqEs x.sent ≤ q.size * 4096)
    (hread : (penRead s2 o.tile (paramAt o 0) (2 * seqDh x.sent * seqEs x.sent)).isSome = true) : appendTry s o x = appendSwap s2 o x := by
  have source : appendSource s2 o (2 * seqDh x.sent * seqEs x.sent) = none := by
    simp [appendSource, hown, hpen, Nat.not_lt.2 hsize, Option.isSome_iff_ne_none.1 hread]
  have valid : seqValid x.sent = true := seqValid_of_not_refused hseq
  simp only [appendTry, valid, Bool.not_true, Bool.false_eq_true, if_false, hplace, bne_self_eq_false, hring]
  simp only [appendChecks, hseq, hholder, hgroup, hstore, Option.orElse_none, source]

theorem appendSwap_of_read {low : Nat} (h : homeRead s 0 x.addr 8 = some low) : let s3 := correctAt s x.addr 8
    appendSwap s o x = if bit low 6 = true then setOp s3 { o with n := 1, addr := s3.cyc + 256 }
      else match appendRefusal low (paramAt o 3 % 64) with
        | some d => failOp s3 o causeBale d (paramAt o 1 + paramAt o 3 / 64 * 2 ^ 32)
        | none => setOp (homeWrite s3 0 x.addr 8 (low + 64)) { o with n := 2, lanes := [wroteLane 0 x.addr 8] } := by
  simp only [appendSwap, readHome, h]
  rfl

end Append

end Sys2Proof.Machine

namespace Sys2Proof.Machine

/-! The turns of an append, and a command's end (R101, R299). -/

section Turns
variable {s : State} {o : Op}

theorem append_turn {ch : Nat} (hs : Claims.Subject s o) (hph : o.phase = .active) (hk : o.kind = .dcopy 4 ch) (hn : o.n ≠ 1) :
    Claims.Gives .append s (appendTurn s o) := by
  show execAppend s = _
  rw [execAppend, hs]
  simp [hph, hk, isAppend, hn]

theorem appendRetry_turn {ch : Nat} (hs : Claims.Subject s o) (hph : o.phase = .active) (hk : o.kind = .dcopy 4 ch) (hn : o.n = 1) (hc : o.addr ≤ s.cyc) :
    Claims.Gives .appendRetry s (appendTurn s o) := by
  show execAppendRetry s = _
  rw [execAppendRetry, hs]
  simp [hph, hk, isAppend, hn, hc]

end Turns

end Sys2Proof.Machine

namespace Sys2Proof.Proofs
open Sys2Proof.Machine

/-- Settles O53: a channel by its head, a part by where it lies, a remote write by its stage, and an append by the checks that it passes. That another
package cannot be reached is the model's choice (log entry 1), as are an append's refusals and what a failed one leaves (log entries 58 and 70). -/
theorem drayCommandsArePerformed : Obligations.DrayCommandsArePerformed := by
  refine ⟨?start, ?move, ?parts, ?part, ?sleeps, ?remote, ?combine, ?step, ?append, ?checked, ?complete, ?fail⟩
  case start =>
    intro s o h
    have turn : ∀ t, startCommand s o = t → Claims.Gives .drayCommandStart s t := fun t ht => ht ▸ drayCommandStart_of_head h
    have owns := ownsLpen_iff (s := s) (chanOf_channelHead h)
    refine ⟨fun hown hk => turn _ (startCommand_of_foreign (Bool.eq_false_iff.2 (mt owns.1 hown)) hk), fun hk => turn _ (startCommand_of_dred hk), ?_⟩
    rintro ⟨-, p, hp, hown, heng, -⟩
    have own : ownsLpen s o = true := owns.2 ⟨p, hp, hown, heng⟩
    refine ⟨fun ⟨c, hk⟩ => turn _ (startCommand_of_move own hk), fun t ht => ⟨fun ⟨c, hk⟩ => turn _ ?_, fun hk => turn _ ?_⟩, fun d hd hk => turn _ ?_,
      fun ⟨c, hk⟩ => turn _ (startCommand_of_append own hk), fun c hg => ⟨fun hk => turn _ ?_, fun hk => turn _ ?_⟩⟩
    · rw [startCommand_of_pen own hk, startSend, ht]
      exact addRemotes_eq_sending (List.cons_ne_nil _ _)
    · rw [startCommand_of_slot own hk, startSend, ht]
      exact addRemotes_eq_sending (List.cons_ne_nil _ _)
    · obtain ⟨c, hk⟩ | hk := hk
      · rw [startCommand_of_pen own hk, startSend, hd]
      · rw [startCommand_of_slot own hk, startSend, hd]
    · rw [startCommand_of_broadcast own hk]
      exact addRemotes_eq_sending (mt List.map_eq_nil_iff.1 (dedup_ne_nil hg))
    · rw [startCommand_of_broadcast own hk]
      exact addRemotes_eq_sending (mt List.map_eq_nil_iff.1 (by simpa using hg))
  case move =>
    intro s o h
    show execDrayCommandStart s = _
    rw [execDrayCommandStart, h]
  case parts =>
    intro s s1 o x rest ho
    refine ⟨?_, fun d a h => ?_, fun p h => ?_⟩
    · simp only [moveParts, ho]
    · simp only [moveParts, ho, h]
    · simp only [moveParts, ho, h]
  case part =>
    intro s o x p
    refine ⟨fun h => by rw [movePart, h], fun hp hr ho => movePart_of_unreached hp (ownRemote_of_other hr ho), fun hp hr hv hid => ?_,
      fun hp hr => movePart_of_ownRemote hp (ownRemote_of_local hr), moveAt_of_foreign, fun hown hw => ?_, fun hown hw => ?_⟩
    · have own := ownRemote_of_own hr hv hid
      refine ⟨fun hrow => movePart_of_unreached hp (own.trans (if_pos hrow)), fun hrow hpres => ?_, fun hpres => ?_⟩
      · refine movePart_of_unreached hp (own.trans ((if_neg ?_).trans (if_neg (Bool.eq_false_iff.1 hpres))))
        exact Option.isSome_iff_ne_none.1 hrow
      · refine movePart_of_ownRemote hp (own.trans ((if_neg ?_).trans (if_pos hpres)))
        exact Option.isSome_iff_ne_none.1 (dramRow_of_present hpres)
    · refine ⟨fun v hv => ?_, fun hv => ?_⟩ <;> rw [moveAt_of_write hown hw, hv]
    · refine ⟨fun v hv => ?_, fun hv => ?_⟩ <;> rw [moveAt_of_read hown hw, hv]
  case sleeps =>
    intro s o r hr hq
    rw [Claims.Gives, remoteEvent_turn hr, if_pos hq]
  case remote =>
    intro s o r hr hq
    have turn : ∀ t, remoteWrite s o r = t → Claims.Gives (Claims.remoteEvent o) s t := fun t ht => ht ▸ remoteEvent_writes hr hq
    refine ⟨fun h => turn _ (remoteWrite_of_filled h), fun h hown => turn _ (remoteWrite_of_foreign h hown), fun h hown hpen t ht => ?_,
      fun h hown pen hpen => ?_⟩
    · exact ⟨fun hk => turn _ (remoteWrite_of_misplaced h hown hpen ht hk), fun hk hm => turn _ (remoteWrite_of_reserved h hown hpen ht hk hm),
        fun hk hm hw => turn _ (remoteWrite_of_full h hown hpen ht hk hm hw)⟩
    · exact ⟨fun d hd => turn _ (remoteWrite_of_refused h hown hpen hd), fun v hd hv => turn _ (remoteWrite_of_read h hown hpen hd hv)⟩
  case combine =>
    intro s o ch op i32 m os hs hk hm hall ms hos hagree s1 hread r
    have arrived : ((sget s.sch.launches m.q).elim [] fun l => (subgroup l (m.key % 2 ^ 16)).elim [] members).all
        (fun t => m.arrived.any (·.1 == t)) = true := by
      cases hl : sget s.sch.launches m.q with
      | none => rfl
      | some l =>
        cases hg : subgroup l (m.key % 2 ^ 16) with
        | none =>
          rw [Option.elim_some, hg]
          rfl
        | some g =>
          simp only [Option.elim_some, hg, List.all_eq_true]
          intro t ht
          obtain ⟨a, ha, rfl⟩ := hall l hl g hg t ht
          exact List.any_eq_true.2 ⟨a, ha, beq_self_eq_true _⟩
    show execDredCombine s = _
    rw [execDredCombine, hs]
    simp only [hm]
    rw [if_pos arrived]
    exact congrArg _ (combine_of_agreed hk hos hagree hread)
  case step =>
    intro r x
    refine ⟨rfl, rfl, ?_, ?_⟩ <;> simp only [dredStep, BitVec.sle_eq_decide, decide_eq_true_eq, if_true]
  case append =>
    intro s s1 o x hs hph ⟨ch, hk⟩ there
    refine ⟨fun helse hn => ?_, fun hl => ⟨fun here hn => ?_, fun hn => ?_, fun here hn hc => ?_⟩⟩
    · exact (append_turn hs hph hk (by omega)).trans (congrArg _ (appendTurn_of_elsewhere (by omega) helse))
    · exact (append_turn hs hph hk (by omega)).trans (congrArg _ ((appendTurn_of_entry hl fun _ => here).trans (if_neg (by omega))))
    · exact (append_turn hs hph hk (by omega)).trans (congrArg _ ((appendTurn_of_entry hl fun h => absurd hn h).trans (if_pos hn)))
    · exact (appendRetry_turn hs hph hk hn hc).trans (congrArg _ ((appendTurn_of_entry hl fun _ => here).trans (if_neg (by omega))))
  case checked =>
    intro s s1 s2 o x ring low q hseq hplace hring hholder hgroup hstore hown hpen n s3 hsize hread hlow
    have swap := (appendTry_of_placed hseq hplace hring hholder hgroup hstore hown hpen hsize hread).trans (appendSwap_of_read hlow)
    refine ⟨fun h => swap.trans (if_pos h), fun h d hd => ?_, fun h hd => ?_⟩
    · refine swap.trans ((if_neg (by simp [h])).trans ?_)
      rw [hd]
    · refine swap.trans ((if_neg (by simp [h])).trans ?_)
      rw [hd]
  case complete =>
    intro s o h
    have turn : exec .drayComplete s = .next (if emitFits s o o.a then emitOp (dropOp (flipLpen s o) o.id) o 13 o.a (fun h => h) else s) := by
      show execDrayComplete s = _
      rw [execDrayComplete, h]
    exact ⟨fun hf => turn.trans (congrArg _ (if_pos hf)), fun hf => turn.trans (congrArg _ (if_neg (by simp [hf])))⟩
  case fail =>
    intro s o h hm s1 s2
    have turn : exec .drayFail s = if (frameLive s o.tile o.rank o.ctx o.iter && o.elem != 8) = true then .next (setOp s2 { o with phase := .faulted })
        else .next (dropOp s2 o.id) := by
      show execDrayFail s = _
      rw [execDrayFail, h]
      exact if_pos hm
    refine ⟨fun hl he => turn.trans (if_pos (by simp [hl, he])), fun hd => turn.trans (if_neg ?_)⟩
    rw [Bool.and_eq_true, bne_iff_ne]
    rintro ⟨hl, he⟩
    obtain hd | hd := hd
    · simp [hd] at hl
    · exact he hd

end Sys2Proof.Proofs

namespace Sys2Proof.Machine

/-! Placement of a group (R104). -/

theorem resolvePlace_of_home {s s1 s2 : State} {e seq g v : Nat} {ring : List Nat} (hp : sget s.bal.place (seq * 2 ^ 16 + g) = none)
    (hr : ringList s e = (s1, .ok ring)) (hh : ring.head? = some s1.dev.pkgid.toNat)
    (hv : tableWord s1 (bits e 152 40 * 4096 + g * 2) 2 = (s2, .ok v)) :
    resolvePlace s e seq g = if bit v 15 = true then (cachePlace s2 e seq g (bits v 0 10), .pkg (bits v 0 10)) else (s2, .absent) := by
  unfold resolvePlace
  simp only [hp, hr, hh, not_true_eq_false, if_false, ne_eq, hv]
  cases bit v 15 <;> rfl

/-! The turn of a broadcast at a unit (R36 to R39, R114, R115). -/

section CastTurn
variable {s : State} {o : Op} {c : Cast} {want : OpKind → Bool} {start : State → Op → State} {act : State → Op → Nat → State × List Nat}

theorem castTurn_of_starts (h : Claims.CastStarts s o) (hw : want o.kind = true) :
    castTurn s want start act = start (writeBackAll s o.tile) o := by
  obtain ⟨hs, htid, hcast, hph, hhome⟩ := h
  rw [castTurn, hs]
  simp only [htid, bne_self_eq_false, hw, Bool.not_true, Bool.or_self, Bool.false_eq_true, if_false, hcast, hph, beq_self_eq_true, hhome, if_true]

section UnitActs
variable (h : Claims.CastAt s o c) (hw : want o.kind = true) (hu : s.occ.b ∈ c.units)
include h hw hu

/-- The unit has not acted yet. -/
theorem castTurn_of_acts (hh : sget c.held s.occ.b = none) : castTurn s want start act =
    match act s o s.occ.b with
    | (s, []) => acknowledge s o.id s.occ.b
    | (s, ids) => holdUnit s o.id s.occ.b ids := by
  obtain ⟨hs, htid, hcast⟩ := h
  rw [castTurn, hs]
  simp only [htid, bne_self_eq_false, hw, Bool.not_true, Bool.or_self, Bool.false_eq_true, if_false, hcast, List.contains_iff_mem.2 hu, if_true, hh] <;> rfl

theorem castTurn_of_alone {s1 : State} (hh : sget c.held s.occ.b = none) (ha : act s o s.occ.b = (s1, [])) (ho : s1.occ = s.occ) :
    castTurn s want start act = acknowledge s1 o.id s.occ.b := by
  rw [castTurn_of_acts h hw hu hh, ha]
  dsimp only
  rw [ho]

theorem castTurn_of_users {s1 : State} {ids : List Nat} (hh : sget c.held s.occ.b = none) (ha : act s o s.occ.b = (s1, ids)) (ho : s1.occ = s.occ)
    (hids : ids ≠ []) : castTurn s want start act = holdUnit s1 o.id s.occ.b ids := by
  rw [castTurn_of_acts h hw hu hh, ha]
  cases ids with
  | nil => exact absurd rfl hids
  | cons i r =>
    dsimp only
    rw [ho]

/-- The unit has acted, and what it waited for is performed. -/
theorem castTurn_of_waited {ids : List Nat} (hh : sget c.held s.occ.b = some ids) (hdone : underWay s ids = []) :
    castTurn s want start act = acknowledge s o.id s.occ.b := by
  obtain ⟨hs, htid, hcast⟩ := h
  rw [castTurn, hs]
  simp only [htid, bne_self_eq_false, hw, Bool.not_true, Bool.or_self, Bool.false_eq_true, if_false, hcast, List.contains_iff_mem.2 hu, if_true, hh,
    hdone, List.isEmpty_nil]

end UnitActs

theorem castDone_of_acknowledged {pod : Op → Bool} {down : Nat} (h : Claims.CastAt s o c) (hw : want o.kind = true) (hu : c.units = [])
    (hd : (if pod o then s.health.peersDown else 0) = down) : castDone s want pod =
      if emitFits s o (statusLanes o.w [if down = 0 then 0 else 1, BitVec.ofNat 32 down]) = true then Claims.castEnds s o down else s := by
  obtain ⟨hs, htid, hcast⟩ := h
  rw [castDone, hs]
  simp only [hcast, hw, hu, List.isEmpty_nil, Bool.and_self, if_true, hd]
  rfl

end CastTurn

/-! TBI: a translation buffer acts once the walker of its quadrant has (R38). -/

section Shootdown
variable {s : State} {o : Op} {c : Cast}

theorem walkerDue_of_none (h : castOf s s.occ.a = none) (u : Nat) : walkerDue s s.occ.a u = false := by
  simp [walkerDue, h]

theorem walkerDue_of_walker (h : 384 ≤ s.occ.b) : walkerDue s s.occ.a s.occ.b = false := by
  simp [walkerDue, Nat.not_lt.2 h]

theorem walkerDue_of_units (h : castOf s s.occ.a = some c) (hu : s.occ.b < 384) :
    walkerDue s s.occ.a s.occ.b = true ↔ 384 + quadOf s.occ.b ∈ c.units ∧ sget c.held (384 + quadOf s.occ.b) = none := by
  simp [walkerDue, h, hu]

theorem tbShootdown_turn (h : walkerDue s s.occ.a s.occ.b = false) : exec .tbShootdownArrival s =
    .next (castTurn s (fun k => k == .tbi) (fun s o => startCast s o (shootUnits s o) 0) (fun s o u =>
      if 384 ≤ u then (walkerRemove s (u - 384) (opShoot o), []) else (tbRemove s u (opShoot o), rangeUsers s u (opShoot o)))) := by
  show execTbShootdownArrival s = _
  rw [execTbShootdownArrival, if_neg (by simp [h])]

end Shootdown

/-! PLBC (R115). -/

section Plbc
variable {s : State} {o : Op} {c : Cast}

theorem placementBroadcast_starts (h : Claims.CastStarts s o) (hk : o.kind = .plbc) :
    exec .placementBroadcastArrival s = .next (startPlbc (writeBackAll s o.tile) o) := by
  have turn : ∀ act, castTurn s (fun k => k == .plbc) startPlbc act = startPlbc (writeBackAll s o.tile) o :=
    fun act => castTurn_of_starts h (by rw [hk]; rfl)
  obtain ⟨hs, -, hcast, -, -⟩ := h
  show execPlacementBroadcastArrival s = _
  rw [execPlacementBroadcastArrival, ← opById_id hs, hcast]
  exact congrArg _ (turn _)

theorem placementBroadcast_acts (h : Claims.CastAt s o c) (hid : s.occ.a = o.id) (hk : o.kind = .plbc) (hb : s.occ.b = s.dev.pkgid.toNat)
    (hu : s.occ.b ∈ c.units) (hh : sget c.held s.occ.b = none) :
    exec .placementBroadcastArrival s = .next (acknowledge (takePlacement s o c.arg) o.id s.occ.b) := by
  have here : { s with occ := { s.occ with b := s.dev.pkgid.toNat } } = s := by rw [← hb]
  have occ : (takePlacement s o c.arg).occ = s.occ := by
    unfold takePlacement
    dsimp only
    split <;> rfl
  have turn := castTurn_of_alone (start := startPlbc) (act := fun s o _ => (takePlacement s o c.arg, [])) (want := fun k => k == .plbc) h
    (by rw [hk]; rfl) hu hh rfl occ
  obtain ⟨-, -, hcast⟩ := h
  show execPlacementBroadcastArrival s = _
  rw [execPlacementBroadcastArrival, hid, hcast]
  dsimp only
  rw [here, turn]

theorem pgenOlder_iff (a b : Nat) : pgenOlder a b = true ↔ 32768 ≤ (a + 65536 - b) % 65536 := decide_eq_true_iff

theorem takePlacement_of_newer {g : Nat} (h : ∀ old, sget s.bal.pgen (wordA o 0) = some old → (g + 65536 - old) % 65536 < 32768) :
    takePlacement s o g = { s with bal := { s.bal with
      place := sdrop s.bal.place (wordA o 0 * 2 ^ 16 + wordA o 1) (wordA o 2), pgen := sset s.bal.pgen (wordA o 0) g } } := by
  refine if_neg ?_
  cases hg : sget s.bal.pgen (wordA o 0) with
  | none => simp
  | some old => exact fun older => Nat.not_le.2 (h old hg) ((pgenOlder_iff g old).1 older)

theorem takePlacement_of_older {g old : Nat} (hg : sget s.bal.pgen (wordA o 0) = some old) (h : 32768 ≤ (g + 65536 - old) % 65536) :
    takePlacement s o g = s := by
  refine if_pos ?_
  rw [hg]
  exact (pgenOlder_iff g old).2 h

end Plbc

end Sys2Proof.Machine

namespace Sys2Proof.Proofs
open Sys2Proof.Machine

/-- Settles O54: a miss and a placement by what home gives, a broadcast by its turn at a unit. When a PGEN is older, that a full placement cache takes
nothing, and which units PLBC has are the model's choices (log entries 26, 13 and 1). -/
theorem balesAndBroadcasts : Obligations.BalesAndBroadcasts := by
  refine ⟨?lookup, ?placement, ?place, ?starts, ?acts, ?waited, ?plbc, ?ends⟩
  case lookup =>
    intro s m hm s1
    refine ⟨fun e he => ?_, fun pa hpa => ?_⟩ <;> show execBaleLookup s = _
    · simp only [execBaleLookup, hm, he]
      rfl
    · simp only [execBaleLookup, hm, hpa, setMissing, beq_iff_eq]
  case placement =>
    intro s o x hs hk hx hv
    show execPlacementMiss s = _
    rw [execPlacementMiss, hs]
    simp only [hx, hk, hv, Bool.and_self, if_true]
  case place =>
    intro s s1 s2 e seq g ring v hp hr hh hv put
    have home := resolvePlace_of_home hp hr hh hv
    refine ⟨fun hb => home.trans (if_neg (by simp [hb])), fun hb hl => home.trans ((if_pos hb).trans ?_), fun hb hl => ⟨fun hg => home.trans ((if_pos hb).trans ?_),
      fun hg => home.trans ((if_pos hb).trans ?_)⟩⟩
    · rw [cachePlace, if_neg (Nat.not_lt.2 hl)]
    · obtain ⟨old, hg⟩ := Option.isSome_iff_exists.1 hg
      rw [cachePlace, if_pos hl, hg]
    · rw [cachePlace, if_pos hl, hg]
  case starts =>
    intro s o h s1
    refine ⟨fun hk => ?_, fun hk => ?_, fun hk s2 e he => ?_, fun hk s2 hroom => ⟨fun he => ?_, fun pa he => ?_⟩⟩
    · have idle : castOf s s.occ.a = none := by
        obtain ⟨hs, -, hcast, -, -⟩ := h
        rw [← opById_id hs, hcast]
      exact (tbShootdown_turn (walkerDue_of_none idle _)).trans (congrArg _ (castTurn_of_starts h (by rw [hk]; rfl)))
    · exact congrArg Host.Outcome.next (castTurn_of_starts h (by rw [hk]; rfl))
    · exact (placementBroadcast_starts h hk).trans (congrArg _ (by rw [startPlbc, he]))
    · refine (placementBroadcast_starts h hk).trans (congrArg _ ?_)
      rw [startPlbc, he]
      exact if_pos hroom
    · refine (placementBroadcast_starts h hk).trans (congrArg _ ?_)
      rw [startPlbc, he]
      exact if_pos hroom
  case acts =>
    intro s o c h hu hh
    have cast : castOf s s.occ.a = some c := by
      obtain ⟨hs, -, hcast⟩ := h
      rw [← opById_id hs, hcast]
    refine ⟨fun hk h384 => ?_, fun hk hlt hw hn => ?_, fun hk hlt hw => ?_, fun hk => ⟨fun hn => ?_, fun hn => ?_⟩⟩
    · exact (tbShootdown_turn (walkerDue_of_walker h384)).trans
        (congrArg _ (castTurn_of_alone h (by rw [hk]; rfl) hu hh (if_pos h384) rfl))
    · show execTbShootdownArrival s = _
      rw [execTbShootdownArrival, if_pos ((walkerDue_of_units cast hlt).2 ⟨hw, hn⟩)]
    · have free : walkerDue s s.occ.a s.occ.b = false := Bool.eq_false_iff.2 fun due => hw ((walkerDue_of_units cast hlt).1 due).1
      refine ⟨fun hn => ?_, fun hn => ?_⟩
      · exact (tbShootdown_turn free).trans
          (congrArg _ (castTurn_of_alone h (by rw [hk]; rfl) hu hh ((if_neg (Nat.not_le.2 hlt)).trans (by rw [hn])) rfl))
      · exact (tbShootdown_turn free).trans
          (congrArg _ (castTurn_of_users h (by rw [hk]; rfl) hu hh (if_neg (Nat.not_le.2 hlt)) rfl hn))
    · exact congrArg Host.Outcome.next (castTurn_of_alone h (by rw [hk]; rfl) hu hh (Prod.ext rfl hn) rfl)
    · exact congrArg Host.Outcome.next (castTurn_of_users h (by rw [hk]; rfl) hu hh rfl rfl hn)
  case waited =>
    intro s o c ids h hu hdue hh hdone
    refine ⟨fun hk => ?_, fun hk => ?_⟩
    · exact (tbShootdown_turn hdue).trans (congrArg _ (castTurn_of_waited h (by rw [hk]; rfl) hu hh hdone))
    · exact congrArg Host.Outcome.next (castTurn_of_waited h (by rw [hk]; rfl) hu hh hdone)
  case plbc =>
    intro s o c h hid hk hb hu hh s1
    have turn : ∀ t, takePlacement s o c.arg = t → Claims.Gives .placementBroadcastArrival s (acknowledge t o.id s.occ.b) :=
      fun t ht => ht ▸ placementBroadcast_acts h hid hk hb hu hh
    refine ⟨fun hg => turn _ (takePlacement_of_newer fun old hold => ?_), fun old hg => ⟨fun hnew => turn _ (takePlacement_of_newer fun old' hold => ?_),
      fun hold => turn _ (takePlacement_of_older hg hold)⟩⟩
    · rw [hg] at hold
      cases hold
    · rw [hg] at hold
      cases hold
      exact hnew
  case ends =>
    intro s o c h hu ends
    refine ⟨fun hk => ?_, fun hk => ?_, fun hk => ?_⟩
    · exact congrArg Host.Outcome.next (castDone_of_acknowledged h (by rw [hk]; rfl) hu (by simp only [beq_iff_eq]))
    · exact congrArg Host.Outcome.next (castDone_of_acknowledged h (by rw [hk]; rfl) hu rfl)
    · exact congrArg Host.Outcome.next (castDone_of_acknowledged h (by rw [hk]; rfl) hu rfl)

end Sys2Proof.Proofs

namespace Sys2Proof.Machine

/-! Sums and statistics of a row (R360). -/

section RowValues

theorem rowValues_mapRow (x : RowLanes) (f : Word → Word × Astat) : rowValues (mapRow x f) = Claims.eachElement x fun w => (f w).1 := by
  simp only [rowValues, mapRow, Claims.eachElement, List.map_map]
  refine List.map_congr_left fun v _ => ?_
  simp only [Function.comp, valuesOf, List.map_map]
  refine List.map_congr_left fun w _ => ?_
  cases w <;> rfl

theorem rowValues_lanes {ι : Type} (segs : List ι) (lanes : ι → List Nat) (f : ι → Nat → Option (Word × Astat)) :
    rowValues (segs.map fun g => (lanes g).map (f g)) = segs.map fun g => (lanes g).map fun l => (f g l).map (·.1) := by
  simp only [rowValues, List.map_map]
  refine List.map_congr_left fun g _ => ?_
  simp only [Function.comp, valuesOf, List.map_map]
  rfl

theorem rowCount_eq (x : RowLanes) : rowCount x = (x.flatten.filterMap id).length := by
  have step : ∀ (x : RowLanes) n, x.foldl (fun n v => n + (v.filter (·.isSome)).length) n = n + (x.flatten.filterMap id).length := fun x => by
    induction x with
    | nil => exact fun n => rfl
    | cons v r ih =>
      intro n
      have lanes : (v.filter (·.isSome)).length = (v.filterMap id).length := by
        rw [← List.map_id v, List.filterMap_map]
        induction v with
        | nil => rfl
        | cons w t iht => cases w <;> simpa using iht
      rw [List.foldl_cons, ih, List.flatten_cons, List.filterMap_append, List.length_append, lanes, Nat.add_assoc]
  exact (step x 0).trans (Nat.zero_add _)

/-- One more segment in a sum over segments. -/
def sumStep (acc : Option (Word × Astat)) (v : Lanes) : Option (Word × Astat) :=
  match acc, Claims.segmentSum v with
  | none, r => r
  | some a, none => some a
  | some (a, f), some (b, g) => some ((add32 a b).1, f ||| g ||| (add32 a b).2)

theorem segsum_eq (x : RowLanes) : segsum x = (x.foldl sumStep none).getD (0, 0) := rfl

theorem sumStep_isSome {acc : Option (Word × Astat)} {v : Lanes} (h : acc.isSome = true ∨ (Claims.segmentSum v).isSome = true) :
    (sumStep acc v).isSome = true := by
  unfold sumStep
  cases acc with
  | none => simpa using h
  | some a => cases Claims.segmentSum v <;> rfl

theorem foldl_sumStep_isSome {x : RowLanes} : ∀ {acc : Option (Word × Astat)},
    (acc.isSome = true ∨ ∃ u ∈ x, (Claims.segmentSum u).isSome = true) → (x.foldl sumStep acc).isSome = true := by
  induction x with
  | nil => exact fun h => by simpa using h
  | cons v r ih =>
    intro acc h
    refine ih ?_
    obtain h | ⟨u, hu, hs⟩ := h
    · exact .inl (sumStep_isSome (.inl h))
    · obtain rfl | hu := List.mem_cons.1 hu
      · exact .inl (sumStep_isSome (.inr hs))
      · exact .inr ⟨u, hu, hs⟩

theorem segsum_append {x : RowLanes} {v : Lanes} {a : Word × Astat} (hx : ∃ u ∈ x, (Claims.segmentSum u).isSome = true)
    (hv : Claims.segmentSum v = some a) : (segsum (x ++ [v])).1 = (add32 (segsum x).1 a.1).1 := by
  obtain ⟨b, hb⟩ := Option.isSome_iff_exists.1 (foldl_sumStep_isSome (acc := none) (.inr hx))
  rw [segsum_eq, segsum_eq, List.foldl_append, List.foldl_cons, List.foldl_nil, hb]
  simp only [sumStep, hv, Option.getD_some]

/-- The greatest element, folded from the first. -/
theorem foldl_max_some (ws : List Word) (w : Word) :
    ws.foldl (fun (acc : Option Word) w => some (acc.elim w fun a => fmax32 a w)) (some w) = some (ws.foldl fmax32 w) := by
  induction ws generalizing w with
  | nil => rfl
  | cons y r ih => exact ih (fmax32 w y)

theorem softmaxRow_of_empty {x : RowLanes} (h : x.flatten.filterMap id = []) : softmaxRow x = (x, 0) := by
  simp only [softmaxRow, h, List.foldl_nil]

theorem rowMax_eq {x : RowLanes} {w : Word} {r : List Word} (h : x.flatten.filterMap id = w :: r) :
    (x.flatten.filterMap id).foldl (fun (acc : Option Word) w => some (acc.elim w fun a => fmax32 a w)) none = some (r.foldl fmax32 w) := by
  rw [h]
  exact foldl_max_some r w

section Softmax
variable {x : RowLanes} {m : Word}
  (greatest : (x.flatten.filterMap id).foldl (fun (acc : Option Word) w => some (acc.elim w fun a => fmax32 a w)) none = some m)
include greatest

theorem softmaxRow_of_negInf (h : m = 0xFF800000) : (softmaxRow x).1 = Claims.eachElement x fun _ => 0 := by
  simp only [softmaxRow, greatest]
  rw [if_pos (show m = negInf from h)]
  rfl

theorem softmaxRow_of_nan (h : m ≠ 0xFF800000) (hn : (num32 m).isNan = true) :
    (softmaxRow x).1 = Claims.eachElement x fun y => if y = 0xFF800000 then 0 else 0x7FC00000 := by
  simp only [softmaxRow, greatest]
  rw [if_neg (show ¬ m = negInf from h), if_pos hn]
  rfl

theorem softmaxRow_of_number (h : m ≠ 0xFF800000) (hn : (num32 m).isNan = false) : let e := Claims.eachElement x fun y => (ex2 (sub32 y m).1).1
    (softmaxRow x).1 = Claims.eachElement e fun y => (div32 y (segsum e).1).1 := by
  simp only [softmaxRow, greatest]
  rw [if_neg (show ¬ m = negInf from h), if_neg (by simp [hn])]
  simp only [rowValues_mapRow]

end Softmax

theorem negInf_not_nan : (num32 0xFF800000).isNan = false := by decide

theorem rootMean_value (x : RowLanes) (n eps : Word) : (rootMean x n eps).1 =
    (sfu 3 (add32 (div32 (segsum (Claims.eachElement x fun w => (mul32 w w).1)).1 n).1 eps).1).1 := by
  simp only [rootMean, rowValues_mapRow]

theorem rmsRow_value (x : RowLanes) (eps : Word) : (rmsRow x eps).1 =
    Claims.eachElement x fun w => (mul32 w (rootMean x (wordOfNat (rowCount x)) eps).1).1 := by
  simp only [rmsRow, rowValues_mapRow]

theorem layerRow_value (x : RowLanes) (eps : Word) : let n := wordOfNat (rowCount x)
    let d := Claims.eachElement x fun w => (sub32 w (div32 (segsum x).1 n).1).1
    (layerRow x eps).1 = Claims.eachElement d fun w => (mul32 w (rootMean d n eps).1).1 := by
  simp only [layerRow, rowValues_mapRow]

end RowValues

theorem rowStatistics : Claims.RowStatistics := by
  refine ⟨fun v => rfl, fun x v a hx hv => segsum_append hx hv, fun x => ?_, fun x eps => ?_⟩
  · refine ⟨softmaxRow_of_empty, fun w r h => ?_⟩
    have greatest := rowMax_eq h
    refine ⟨softmaxRow_of_negInf greatest, fun hn => softmaxRow_of_nan greatest (fun hinf => ?_) hn, softmaxRow_of_number greatest⟩
    rw [show r.foldl fmax32 w = 0xFF800000 from hinf, negInf_not_nan] at hn
    cases hn
  · rw [rmsRow_value, rootMean_value, rowCount_eq, layerRow_value, rootMean_value, rowCount_eq]
    exact ⟨rfl, rfl⟩

end Sys2Proof.Machine

namespace Sys2Proof.Machine

/-! Rows at the bridle unit (R363). -/

section Bridle

/-- The bits of the numbers below `n` that satisfy `p`. -/
def maskOf (p : Nat → Bool) (n : Nat) : Nat := (upto n).foldl (fun m k => if p k then m + 2 ^ k else m) 0

theorem maskOf_succ (p : Nat → Bool) (n : Nat) : maskOf p (n + 1) = if p n then maskOf p n + 2 ^ n else maskOf p n := by
  simp only [maskOf, upto, List.range_succ, List.foldl_append, List.foldl_cons, List.foldl_nil]

theorem maskOf_lt (p : Nat → Bool) (n : Nat) : maskOf p n < 2 ^ n := by
  induction n with
  | zero => exact Nat.one_pos
  | succ n ih =>
    rw [maskOf_succ, Nat.pow_succ]
    split <;> omega

theorem testBit_maskOf (p : Nat → Bool) (n k : Nat) : (maskOf p n).testBit k = (decide (k < n) && p k) := by
  induction n with
  | zero => simp [maskOf, upto]
  | succ n ih =>
    rw [maskOf_succ]
    obtain hlt | rfl | hgt := Nat.lt_trichotomy k n
    · have hk : (maskOf p (n + 1)).testBit k = (maskOf p n).testBit k := by
        rw [maskOf_succ]
        split
        · rw [Nat.add_comm, Nat.testBit_two_pow_add_gt hlt]
        · rfl
      rw [← maskOf_succ, hk, ih]
      simp [hlt, Nat.lt_succ_of_lt hlt]
    · have none_yet : (maskOf p k).testBit k = false := Nat.testBit_lt_two_pow (maskOf_lt p k)
      cases hp : p k
      · simp [none_yet]
      · rw [if_pos rfl, Nat.add_comm, Nat.testBit_two_pow_add_eq, none_yet]
        simp
    · rw [← maskOf_succ, Nat.testBit_lt_two_pow ((maskOf_lt p (n + 1)).trans_le (Nat.pow_le_pow_right Nat.two_pos hgt))]
      simp [Nat.not_lt.2 hgt]

variable {s : State} {r : Row}

theorem finishBridle_of_tap (h : ∃ p ∈ r.segs, p.2.hdr.nrm ≠ (r.conf.mode == 1)) : finishBridle s r = raiseRow s r causeTapOrder 0 r.sel := by
  obtain ⟨p, hp, hne⟩ := h
  exact if_pos (List.any_eq_true.2 ⟨p, hp, by simpa using hne⟩)

/-- The probes' flags. -/
def probeFlags (s : State) (r : Row) : Astat := ((upto r.conf.nprobe).map (fun k => (k, probeHit s r k))).foldl (fun acc p => acc ||| p.2.2) 0

/-- The bridle's row and hit counters after a row. -/
def bridleCounted (s : State) (r : Row) (mask : Nat) : State :=
  orAstat (setBridle s r.tile r.sel
    { bridleCfg s r.tile r.sel with rows := (bridleCfg s r.tile r.sel).rows + 1, hits := (bridleCfg s r.tile r.sel).hits ||| mask })
    r.tile r.rank r.ctx (probeFlags s r)

theorem finishBridle_of_probes (h : ∀ p ∈ r.segs, p.2.hdr.nrm = (r.conf.mode == 1)) : finishBridle s r =
    let mask := maskOf (fun k => (probeHit s r k).1) r.conf.nprobe
    if mask = 0 then steerRow (bridleCounted s r mask) r else raiseRow (bridleCounted s r mask) r causeProbeHit 0 (mask + r.sel * 2 ^ 16) := by
  have tap : ¬ r.segs.any (fun p => p.2.hdr.nrm != (r.conf.mode == 1)) = true := by simpa using fun a b hp => h (a, b) hp
  have mask : ((upto r.conf.nprobe).map (fun k => (k, probeHit s r k))).foldl (fun n p => if p.2.1 then n + 2 ^ p.1 else n) 0 =
      maskOf (fun k => (probeHit s r k).1) r.conf.nprobe := List.foldl_map
  unfold finishBridle
  rw [if_neg tap]
  simp only [mask]
  by_cases hm : maskOf (fun k => (probeHit s r k).1) r.conf.nprobe = 0
  · rw [hm]
    rfl
  · rw [if_pos (by simpa using hm), if_neg hm]
    rfl

/-- Where the record of probe `k` lies in the probe table. -/
def probeAt (r : Row) (k : Nat) : Nat := r.tile * 2 ^ 18 + r.conf.ptb * 16 + k * probeStride r.conf.len

theorem probeScore_value (k : Nat) : (probeScore s r k).1 =
    (add32 (segsum (r.segs.map fun sg => (List.range 32).map fun l => (laneOf sg.2.lanes l).map fun x =>
      Claims.rounded (numMul (num32 x) (readNum .bf16 (mread s.mem.probe (probeAt r k + 16 + 2 * (sg.1 * r.w + l)) 2)).1))).1
      (BitVec.ofNat 32 (mread s.mem.probe (probeAt r k + 4) 4))).1 := by
  simp only [probeScore, rowValues_lanes, Option.map_map]
  rfl

theorem probeHit_eq (k : Nat) : probeHit s r k =
    let ctl := mread s.mem.probe (probeAt r k + 8) 4
    let x := num32 (probeScore s r k).1
    let t := num32 (BitVec.ofNat 32 (mread s.mem.probe (probeAt r k) 4))
    if !bit ctl 1 then (false, 0) else (x.isNan || (if bit ctl 0 then numLt x t else numLt t x), (probeScore s r k).2) := rfl

theorem bit_one {w : Nat} : bit w 1 = (w / 2 % 2 == 1) := by simp [bit]

theorem bit_zero {w : Nat} : bit w 0 = (w % 2 == 1) := by simp [bit]

theorem probeHit_of_disabled {k : Nat} (h : mread s.mem.probe (probeAt r k + 8) 4 / 2 % 2 = 0) : (probeHit s r k).1 = false := by
  simp [probeHit_eq, bit_one, h]

theorem probeHit_iff {k : Nat} (h : mread s.mem.probe (probeAt r k + 8) 4 / 2 % 2 = 1) :
    let ctl := mread s.mem.probe (probeAt r k + 8) 4
    let x := num32 (probeScore s r k).1
    let t := num32 (BitVec.ofNat 32 (mread s.mem.probe (probeAt r k) 4))
    (probeHit s r k).1 = true ↔ x.isNan = true ∨ (ctl % 2 = 0 ∧ numLt t x = true) ∨ (ctl % 2 = 1 ∧ numLt x t = true) := by
  simp only [probeHit_eq, bit_one, bit_zero, h]
  obtain hb | hb := Nat.mod_two_eq_zero_or_one (mread s.mem.probe (probeAt r k + 8) 4) <;> simp [hb]

/-- The rein slot holds a table of the context's sequence. -/
def reinMatches (s : State) (r : Row) (c : Ctx) (k : Nat) : Prop :=
  ∃ x, sget s.rws.reins (reinKey r.tile r.sel k) = some x ∧ x.asid = c.asid ∧ x.seq = c.seq

theorem reinMatches_iff {c : Ctx} {k : Nat} : (sget s.rws.reins (reinKey r.tile r.sel k)).elim false (fun x => x.asid == c.asid && x.seq == c.seq) = true ↔
    reinMatches s r c k := by
  cases hx : sget s.rws.reins (reinKey r.tile r.sel k) <;> simp [reinMatches, hx]

theorem reinFor_of_none {c : Ctx} (hc : ctxOf s r.ctx = some c) (h : ∀ k, k < 64 → ¬ reinMatches s r c k) : reinFor s r = none := by
  simp only [reinFor, hc]
  exact List.find?_eq_none.2 fun k hk => mt reinMatches_iff.1 (h k (List.mem_range.1 hk))

theorem reinFor_first {c : Ctx} {k : Nat} (hc : ctxOf s r.ctx = some c) (h : reinFor s r = some k) :
    k < 64 ∧ reinMatches s r c k ∧ ∀ j, j < k → ¬ reinMatches s r c j := by
  simp only [reinFor, hc] at h
  obtain ⟨hk, hmem, before⟩ := List.find?_range_eq_some.1 h
  refine ⟨List.mem_range.1 hmem, reinMatches_iff.1 hk, fun j hj hm => ?_⟩
  simpa [reinMatches_iff.2 hm] using before j hj

theorem steerRow_of_none (h : reinFor s r = none) : steerRow s r = releaseRow s r 11 (r.segs.map (·.2.lanes)) (fun h => h) := by
  simp only [steerRow, h]

theorem steerRow_of_rein {k : Nat} (h : reinFor s r = some k) : let a := r.tile * 2 ^ 20 + r.conf.rb * 16 + k * 2 * r.conf.len
    let c := bridleCfg s r.tile r.sel
    ∃ flags, steerRow s r = orAstat (releaseRow (setBridle s r.tile r.sel { c with steered := c.steered + 1 }) r 11
      (r.segs.map fun sg => (List.range 32).map fun l => (laneOf sg.2.lanes l).map fun x =>
        (add32 x (Claims.rounded (numMul (num32 r.conf.eps) (readNum .bf16 (mread s.mem.rein (a + 2 * (sg.1 * r.w + l)) 2)).1))).1)
      (fun h => { h with str := true })) r.tile r.rank r.ctx flags := by
  simp only [steerRow, h, rowValues_lanes, Option.map_map]
  exact ⟨_, rfl⟩

end Bridle

theorem bridleRows : Claims.BridleRows := by
  refine ⟨fun s r => finishBridle_of_tap, fun s r h => ⟨maskOf (fun k => (probeHit s r k).1) r.conf.nprobe, probeFlags s r, testBit_maskOf _ _, finishBridle_of_probes h⟩,
    fun s r k => ⟨probeScore_value k, probeHit_of_disabled, probeHit_iff⟩, fun s r c hc => ⟨reinFor_of_none hc, fun k => reinFor_first hc⟩,
    fun s r => ⟨steerRow_of_none, fun k => steerRow_of_rein⟩⟩

end Sys2Proof.Machine

namespace Sys2Proof.Machine

/-! Segments at their units (R359). -/

section Segments
variable {s : State} {f : Flight} {unit tile rank sel : Nat} {t : Token} {r : Row}

theorem judgeRow_of_disabled {bad : Bool} (h : r.conf.en = false) : judgeRow s r bad = raiseRow s r causeEngine 0x24 r.sel := by
  simp [judgeRow, h]

theorem judgeRow_of_bad (h : r.conf.en = true) : judgeRow s r true = raiseRow s r causeEngine 0x23 r.sel := by
  simp [judgeRow, h]

theorem judgeRow_of_open (h : r.conf.en = true) (hc : rowComplete r = false) : judgeRow s r false = s := by
  simp [judgeRow, h, hc]

theorem judgeRow_of_complete (h : r.conf.en = true) (hc : rowComplete r = true) :
    judgeRow s r false = if r.unit = 0 then finishNorm s r else finishBridle s r := by
  simp [judgeRow, h, hc]

theorem bufferLoad_eq : bufferLoad s unit tile = ((s.rws.rows.filter fun r => r.unit == unit && r.tile == tile && !r.withdrawn).map (·.len)).sum := by
  rw [List.sum_eq_foldl, List.foldl_map]
  rfl

theorem rowOf_fields {c i : Nat} (h : rowOf s unit tile rank c i sel = some r) : r.unit = unit ∧ r.sel = sel := by
  have found := List.find?_some h
  simp only [Bool.and_eq_true, beq_iff_eq] at found
  obtain ⟨⟨⟨⟨⟨hunit, -⟩, -⟩, -⟩, -⟩, hsel⟩ := found
  exact ⟨hunit, hsel⟩

theorem segmentIn_of_noRoom (h : faultRoom s tile rank t.hdr.ctx t.hdr.iter = false) : segmentIn s unit tile rank sel t = none := by
  simp [segmentIn, h]

/-- A row of its frame takes the segment, or the segment waits. -/
theorem segmentIn_of_row (room : faultRoom s tile rank t.hdr.ctx t.hdr.iter = true)
    (row : rowOf s unit tile rank t.hdr.ctx t.hdr.iter sel = some r) : segmentIn s unit tile rank sel t =
      if r.held || r.again || rowComplete r || (sget r.segs t.hdr.seg).isSome then none
      else some (judgeRow (setRow s (Claims.withSegment r t)) (Claims.withSegment r t)
        (decide (r.conf.len < (t.hdr.seg + 1) * (t.hdr.wm1 + 1)) || r.w != t.hdr.wm1 + 1)) := by
  simp only [segmentIn, room, row]
  rfl

/-- The first segment of a row begins it where its elements are free. -/
theorem segmentIn_of_noRow (room : faultRoom s f.tile f.rank f.tok.hdr.ctx f.tok.hdr.iter = true)
    (row : rowOf s unit f.tile f.rank f.tok.hdr.ctx f.tok.hdr.iter sel = none) : let c := unitCfg s unit f.tile sel
      segmentIn s unit f.tile f.rank sel f.tok =
        if c.en && decide (16384 < bufferLoad s unit f.tile + c.len) then none
        else some (judgeRow (Claims.withRow s (Claims.newRow s f unit sel c)) (Claims.newRow s f unit sel c)
          (decide (c.len < (f.tok.hdr.seg + 1) * (f.tok.hdr.wm1 + 1)))) := by
  simp only [segmentIn, room, row, bne_self_eq_false, Bool.or_false]
  rfl

theorem segmentTurn_of_return (h : s.rws.rows.find? (fun r => r.id == s.occ.a && r.unit == unit && r.again) = some r) : segmentTurn s unit = readmit s r := by
  simp only [segmentTurn, h]

theorem segmentTurn_of_flight (hs : Claims.Comes s f) (he : f.dest.elem = unit + 1) (hc : f.tok.hdr.can = false)
    (h : ∀ r ∈ s.rws.rows, r.id = s.occ.a → r.unit = unit → r.again = false) :
    segmentTurn s unit = (segmentIn (acceptFlight s f) unit f.tile f.rank (f.dest.slot % 4) f.tok).getD (refuseFlight s f) := by
  have none_again : s.rws.rows.find? (fun r => r.id == s.occ.a && r.unit == unit && r.again) = none := by
    refine List.find?_eq_none.2 fun r hr => ?_
    simp only [Bool.and_eq_true, beq_iff_eq, not_and, Bool.not_eq_true]
    exact fun hu => h r hr hu.1 hu.2
  simp only [segmentTurn, none_again]
  rw [arriving_of_comes hs (by simp [he, hc])]

theorem gives_segmentTurn {u : State} (hu : unit ≤ 1) (h : segmentTurn s unit = u) :
    Claims.Gives (if unit = 0 then Instr.normaliserSegment else Instr.bridleSegment) s u := by
  subst h
  obtain rfl | rfl : unit = 0 ∨ unit = 1 := by omega
  · rfl
  · rfl

/-- A segment that its row takes (R359). -/
theorem segmentIn_joins (room : faultRoom s tile rank t.hdr.ctx t.hdr.iter = true)
    (row : rowOf s unit tile rank t.hdr.ctx t.hdr.iter sel = some r) (free : r.held = false ∧ r.again = false ∧ rowComplete r = false)
    (new : sget r.segs t.hdr.seg = none) : segmentIn s unit tile rank sel t =
      some (judgeRow (setRow s (Claims.withSegment r t)) (Claims.withSegment r t)
        (decide (r.conf.len < (t.hdr.seg + 1) * (t.hdr.wm1 + 1)) || r.w != t.hdr.wm1 + 1)) := by
  obtain ⟨held, again, whole⟩ := free
  rw [segmentIn_of_row room row, if_neg (by simp [held, again, whole, new])]

theorem segmentIn_waits (room : faultRoom s tile rank t.hdr.ctx t.hdr.iter = true)
    (row : rowOf s unit tile rank t.hdr.ctx t.hdr.iter sel = some r)
    (busy : r.held = true ∨ r.again = true ∨ rowComplete r = true ∨ (sget r.segs t.hdr.seg).isSome = true) : segmentIn s unit tile rank sel t = none := by
  rw [segmentIn_of_row room row, if_pos (by simpa [or_assoc] using busy)]

/-- The elements of the rows in a unit's buffer, with those of the row that a segment would begin. -/
def loadWith (s : State) (f : Flight) (unit sel : Nat) : Nat :=
  ((s.rws.rows.filter fun r => r.unit == unit && r.tile == f.tile && !r.withdrawn).map (·.len)).sum + (unitCfg s unit f.tile sel).len

theorem segmentIn_overfull (room : faultRoom s f.tile f.rank f.tok.hdr.ctx f.tok.hdr.iter = true)
    (row : rowOf s unit f.tile f.rank f.tok.hdr.ctx f.tok.hdr.iter sel = none) (en : (unitCfg s unit f.tile sel).en = true)
    (more : 16384 < loadWith s f unit sel) : segmentIn s unit f.tile f.rank sel f.tok = none := by
  rw [loadWith, ← bufferLoad_eq] at more
  rw [segmentIn_of_noRow room row, if_pos (by simp [en, more])]

theorem segmentIn_begins {bad : Bool} (room : faultRoom s f.tile f.rank f.tok.hdr.ctx f.tok.hdr.iter = true)
    (row : rowOf s unit f.tile f.rank f.tok.hdr.ctx f.tok.hdr.iter sel = none)
    (fits : (unitCfg s unit f.tile sel).en = true → loadWith s f unit sel ≤ 16384)
    (hbad : decide ((unitCfg s unit f.tile sel).len < (f.tok.hdr.seg + 1) * (f.tok.hdr.wm1 + 1)) = bad) :
    segmentIn s unit f.tile f.rank sel f.tok = some (judgeRow (Claims.withRow s (Claims.newRow s f unit sel (unitCfg s unit f.tile sel)))
      (Claims.newRow s f unit sel (unitCfg s unit f.tile sel)) bad) := by
  rw [loadWith, ← bufferLoad_eq] at fits
  rw [segmentIn_of_noRow room row, hbad, if_neg (by simpa using fits)]

end Segments

end Sys2Proof.Machine

namespace Sys2Proof.Machine

/-! Words at edges (R234, R434). -/

section Edges
variable {s s1 : State} {f : Flight} {l : Launch} {e tile asid base k id : Nat} {v : Word} {rest : List (Nat × Word)} {p : Phys}

theorem edgeIn_iff : edgeIn e = true ↔ e / 2 ^ 31 % 2 = 1 := by
  simp [edgeIn, bit]

section Egress
variable (hs : Claims.Comes s f) (he : f.dest.elem = 5) (hc : f.tok.hdr.can = false)
  (hl : sget s.sch.launches (sgetD s.tab.owner f.tile 4096) = some l) (hx : l.edges[f.dest.slot % 64]? = some e)
include hs he hc hl hx

/-- A token at an edge port of its launch: its direction and its count, then its words. -/
theorem execEdgeEgressWrite_eq : execEdgeEgressWrite s =
    if edgeIn e then .next (count (acceptFlight s f) 4 f.tile)
    else if bits e 40 24 ≤ f.tok.hdr.iter then
      .next { acceptFlight s f with sch := { s.sch with launches := sset s.sch.launches (sgetD s.tab.owner f.tile 4096) { l with edrop := l.edrop + 1 } } }
    else if pendingCount s f.tile < 1024 then
      .next (egressWords (acceptFlight s f) f.tile l.asid (bits e 72 56 + 4 * (f.tok.hdr.iter * bits e 32 8)) (Claims.edgeLanes f.tok.lanes (bits e 32 8)))
    else .next s := by
  unfold execEdgeEgressWrite
  rw [arriving_of_comes hs (by simp [he, hc])]
  simp only [ownerOf, hl, hx]
  rfl

end Egress

theorem egressPage_home {va v : Nat} (h : p.mt = 0) : egressPage s tile asid va v p = homeWrite s p.enc p.pa 4 v := by
  rw [egressPage, if_neg (by omega), if_neg (by omega)]

theorem egressPage_device {va v : Nat} (h : p.mt = 2) : egressPage s tile asid va v p = deviceWrite s p.pa v := if_pos h

theorem egressWords_home (h : edgePhys s tile asid (base + 4 * k) true = (s1, .ok p)) (hp : p.mt = 0) :
    egressWords s tile asid base ((k, v) :: rest) = egressWords (homeWrite s1 p.enc p.pa 4 v.toNat) tile asid base rest := by
  rw [egressWords, h, ← egressPage_home hp]

theorem egressWords_device (h : edgePhys s tile asid (base + 4 * k) true = (s1, .ok p)) (hp : p.mt = 2) :
    egressWords s tile asid base ((k, v) :: rest) = egressWords (deviceWrite s1 p.pa v.toNat) tile asid base rest := by
  rw [egressWords, h, ← egressPage_device hp]

theorem egressWords_fault {c d : Nat} (h : edgePhys s tile asid (base + 4 * k) true = (s1, .error (c, d))) :
    egressWords s tile asid base ((k, v) :: rest) = frameless s1 tile c d (base + 4 * k) := by
  rw [egressWords, h]

theorem edgePhys_outside {va : Nat} {wr : Bool} (h : 2 ^ 56 ≤ va) : edgePhys s tile asid va wr = (s, .error (causeAccess, 0x01)) := by
  rw [edgePhys, vaCheck_outside (.inr (by omega))]

theorem edgePhys_misaligned {va : Nat} {wr : Bool} (h : va < 2 ^ 56) (ha : va % 4 ≠ 0) : edgePhys s tile asid va wr = (s, .error (causeAlign, 0)) := by
  rw [edgePhys, vaCheck_misaligned (by omega) (by omega) (by omega)]

theorem edgePhys_inside {va : Nat} {wr : Bool} (h : va < 2 ^ 56) (ha : va % 4 = 0) :
    edgePhys s tile asid va wr = xlateNow s tile asid va (edgeWant wr) := by
  rw [edgePhys, vaCheck_inside (by omega) (by omega) (by omega) (by omega)]

section Ingress
variable {i c : Nat} (hl : sget s.sch.launches s.occ.a = some l) (hst : l.st = .running)
  (hi : l.ingress.find? (·.1 == s.occ.b) = some (s.occ.b, i, id, c)) (he : l.edges[s.occ.b]? = some e) (hout : ∀ x ∈ s.net.outs, x.id ≠ id)
  (room : pendingCount s (originTile l) < 1024)

/-- The launch's edges that inject, as the edge leaves them. -/
def putIngress (s : State) (q : Nat) (l : Launch) (rest : List (Nat × Nat × Nat × Nat)) : State :=
  { s with sch := { s.sch with launches := sset s.sch.launches q { l with ingress := rest } } }

/-- What an edge does with what its read gives. -/
def injected (s : State) (l : Launch) (e i c : Nat) : State × EdgeRead → Result
  | (s1, .wait) => .next s1
  | (s1, .asked j) => .next (putIngress s1 s.occ.a l (l.ingress.filter (fun x => x.1 != s.occ.b) ++ [(s.occ.b, i, j, c)]))
  | (s1, .fault k d a) => .next (frameless (putIngress s1 s.occ.a l (l.ingress.filter fun x => x.1 != s.occ.b)) (originTile l) k d a)
  | (s1, .words ws) => .next (addOut (putIngress s1 s.occ.a l (l.ingress.filter (fun x => x.1 != s.occ.b) ++ [(s.occ.b, i + 1, s1.nextId, c)]))
      (originTile l) 14 { hdr := plainHeader c i (bits e 32 8) (edgeDest e).slot, lanes := lanesOf ws } [edgeDest e])

include hl hst hi he hout room

/-- An edge whose last token has been accepted ends at its count or reads its next token. -/
theorem execEdgeIngressInject_eq : execEdgeIngressInject s =
    if bits e 40 24 ≤ i then .next (putIngress s s.occ.a l (l.ingress.filter fun x => x.1 != s.occ.b))
    else injected s l e i c (edgeRead s (originTile l) l.asid (bits e 72 56 + 4 * (i * bits e 32 8)) (bits e 32 8) id) := by
  have ready : ¬ (s.net.outs.any (·.id == id) || l.st != .running || decide (1024 ≤ pendingCount s (originTile l))) = true := by
    simp only [Bool.or_eq_true, List.any_eq_true, beq_iff_eq, bne_iff_ne, ne_eq, decide_eq_true_eq, not_or, not_exists, not_and, not_not, Nat.not_le]
    exact ⟨⟨hout, hst⟩, room⟩
  simp only [execEdgeIngressInject, hl, hi, he]
  rw [if_neg ready]
  refine ite_congr rfl (fun _ => rfl) fun _ => ?_
  simp only [edgeBase, edgeStride]
  obtain ⟨s1, ws | ⟨k, d, a⟩ | j | _⟩ := edgeRead s (originTile l) l.asid (bits e 72 56 + 4 * (i * bits e 32 8)) (bits e 32 8) id
  · rfl
  · rfl
  · rfl
  · rfl

end Ingress

/-- The words of an edge's token at home and at device registers. -/
theorem edgeRead_of_words {w : Nat} {ls : List Lane} {ws : List Word} {s2 : State} (none_asked : opById s id = none)
    (lanes : ingressLanes s tile asid base w = (s1, .ok ls)) (own : ∀ x ∈ ls, ∀ p, x.phys = some p → p.mt ≠ 1)
    (words : ingressWords s1 ls = (s2, .ok ws)) : edgeRead s tile asid base w id = (s2, .words ws) := by
  have no_node : ¬ ls.any (fun x => x.phys.elim false (·.mt == 1)) = true := by
    intro hx
    obtain ⟨x, hm, hmt⟩ := List.any_eq_true.1 hx
    cases hp : x.phys with
    | none => simp [hp] at hmt
    | some p => exact own x hm p hp (by simpa [hp] using hmt)
  simp only [edgeRead, none_asked, lanes]
  rw [if_neg no_node, words]

end Edges

end Sys2Proof.Machine

namespace Sys2Proof.Proofs
open Sys2Proof.Machine

/-- Settles O56: a segment's turn by its row, a complete row by its statistics and probes, and an edge's word by its page. That an edge's fault has no
frame, that its addresses are translated at once, and what a token for an ingress entry meets are the model's choices (log entries 21, 10, 60). -/
theorem segmentsAndEdges : Obligations.SegmentsAndEdges := by
  refine ⟨fun s f unit hs he hu hc => ?_,
    rowStatistics, bridleRows, fun s r x hx => ?_, fun s f l e hs he hc hl hx => ?_, fun s s1 tile asid base k v rest => ?_,
    fun s l i id c e hl hst hi he hout room => ?_⟩
  · intro i s1 h sel room
    refine ⟨fun r hr => gives_segmentTurn hu (segmentTurn_of_return hr), fun again => ?_⟩
    have turn := segmentTurn_of_flight hs he hc again
    have refused (hn : segmentIn s1 unit f.tile f.rank sel f.tok = none) : Claims.Gives i s (refuseFlight s f) :=
      gives_segmentTurn hu (turn.trans (congrArg (Option.getD · (refuseFlight s f)) hn))
    have taken {u : State} (hu' : segmentIn s1 unit f.tile f.rank sel f.tok = some u) : Claims.Gives i s u :=
      gives_segmentTurn hu (turn.trans (congrArg (Option.getD · (refuseFlight s f)) hu'))
    refine ⟨fun full => refused (segmentIn_of_noRoom full), fun free r row => ⟨fun busy => refused (segmentIn_waits free row busy), ?_⟩,
      fun free row => ?_⟩
    · intro held ag whole new r' c en
      obtain ⟨rfl, hsel⟩ := rowOf_fields row
      have joins := segmentIn_joins free row ⟨held, ag, whole⟩ new
      refine ⟨fun bad => taken ?_, fun hlen hw => ?_⟩
      · have breaks : (decide (r.conf.len < (f.tok.hdr.seg + 1) * (f.tok.hdr.wm1 + 1)) || r.w != f.tok.hdr.wm1 + 1) = true := by
          simpa only [Bool.or_eq_true, decide_eq_true_eq, bne_iff_ne] using bad
        rw [joins, breaks, judgeRow_of_bad (r := Claims.withSegment r f.tok) en, ← hsel]
        rfl
      · have fits : (decide (r.conf.len < (f.tok.hdr.seg + 1) * (f.tok.hdr.wm1 + 1)) || r.w != f.tok.hdr.wm1 + 1) = false := by
          rw [decide_eq_false (Nat.not_lt.2 hlen), hw, bne_self_eq_false]
          rfl
        rw [fits] at joins
        refine ⟨fun part => taken (joins.trans (congrArg some (judgeRow_of_open en part))), fun all => ?_⟩
        have judged := joins.trans (congrArg some (judgeRow_of_complete en all))
        exact ⟨fun h0 => taken (judged.trans (congrArg some (if_pos h0))),
          fun h1 => taken (judged.trans (congrArg some (if_neg (show ¬ r.unit = 0 by omega))))⟩
    · intro c r s2 load
      refine ⟨fun en more => refused (segmentIn_overfull free row en more), fun dis => taken ?_, fun en fits => ⟨fun short => taken ?_, fun long => ?_⟩⟩
      · exact (segmentIn_begins free row (fun en => absurd (en.symm.trans dis) (by decide)) rfl).trans (congrArg some (judgeRow_of_disabled dis))
      · exact (segmentIn_begins free row (fun _ => fits) (decide_eq_true short)).trans (congrArg some (judgeRow_of_bad en))
      · have begins := segmentIn_begins free row (fun _ => fits) (decide_eq_false (Nat.not_lt.2 long))
        exact ⟨fun part => taken (begins.trans (congrArg some (judgeRow_of_open en part))),
          fun all => taken (begins.trans (congrArg some (judgeRow_of_complete en all)))⟩
  · subst hx
    rfl
  · have port := execEdgeEgressWrite_eq hs he hc hl hx
    refine ⟨fun hin => port.trans (if_pos (edgeIn_iff.2 hin)), fun hin past => ?_, fun hin under room => ?_⟩
    · rw [if_neg (mt edgeIn_iff.1 (by omega)), if_pos past] at port
      exact port
    · rw [if_neg (mt edgeIn_iff.1 (by omega)), if_neg (Nat.not_le.2 under), if_pos room] at port
      exact port
  · exact ⟨rfl, fun p hp => ⟨egressWords_home hp, egressWords_device hp⟩, fun c d => egressWords_fault,
      fun wr va => ⟨edgePhys_outside, edgePhys_misaligned, edgePhys_inside⟩⟩
  · intro q n others put base
    have edge := execEdgeIngressInject_eq hl hst hi he hout room
    refine ⟨fun past => edge.trans (if_pos past), fun under s1 => ?_⟩
    rw [if_neg (Nat.not_le.2 under)] at edge
    refine ⟨fun ws hr => edge.trans (by rw [hr]; rfl), fun k d a hr => edge.trans (by rw [hr]; rfl), fun j hr => edge.trans (by rw [hr]; rfl),
      fun none_asked s2 ls ws => edgeRead_of_words none_asked⟩

end Sys2Proof.Proofs

namespace Sys2Proof.Machine

/-! Faults: their receiver, their delivery and what their records change (R369, R370, R402 to R413). -/

/-- A read of a part of the state that memories, rows and free values are no part of. -/
theorem BesideRows.eq {s t : State} {α : Type} (h : BesideRows s t) (part : State → α) (free : ∀ s m r f, part { s with mem := m, rws := r, fresh := f } = part s) :
    part t = part s := by
  obtain ⟨m, r, f, rfl⟩ := h
  exact free s m r f

theorem besideRows_writeRecord (s : State) (tile rank c i : Nat) (fresh : Bool) : BesideRows s (writeRecord s tile rank c i fresh) :=
  besideRows_recordWrite _ _ _ _

section Records
variable (s : State) (tile rank c i : Nat) (fresh : Bool)

@[simp] theorem writeRecord_cyc : (writeRecord s tile rank c i fresh).cyc = s.cyc := (besideRows_writeRecord ..).eq (·.cyc) fun _ _ _ _ => rfl
@[simp] theorem writeRecord_nextId : (writeRecord s tile rank c i fresh).nextId = s.nextId := (besideRows_writeRecord ..).eq (·.nextId) fun _ _ _ _ => rfl
@[simp] theorem writeRecord_tab : (writeRecord s tile rank c i fresh).tab = s.tab := (besideRows_writeRecord ..).eq (·.tab) fun _ _ _ _ => rfl
@[simp] theorem writeRecord_frm : (writeRecord s tile rank c i fresh).frm = s.frm := (besideRows_writeRecord ..).eq (·.frm) fun _ _ _ _ => rfl
@[simp] theorem writeRecord_flt : (writeRecord s tile rank c i fresh).flt = s.flt := (besideRows_writeRecord ..).eq (·.flt) fun _ _ _ _ => rfl
@[simp] theorem writeRecord_ops : (writeRecord s tile rank c i fresh).ops = s.ops := (besideRows_writeRecord ..).eq (·.ops) fun _ _ _ _ => rfl
@[simp] theorem writeRecord_ctxs : (writeRecord s tile rank c i fresh).ctxs = s.ctxs := (besideRows_writeRecord ..).eq (·.ctxs) fun _ _ _ _ => rfl
@[simp] theorem writeRecord_net : (writeRecord s tile rank c i fresh).net = s.net := (besideRows_writeRecord ..).eq (·.net) fun _ _ _ _ => rfl

end Records

/-! Receivers (R408 to R413). -/

section Receivers
variable {s : State} {tile : Nat} {r : FaultRec} {c : Ctx}

/-- The user has taken the fault on itself: its vector is enabled and its mask names the cause (R408). -/
def userTakes (r : FaultRec) (c : Ctx) : Bool :=
  r.framed && !r.escd && !r.sup && bit c.uvec.toNat 31 && bit c.fmask.toNat r.cause && r.cause != 0 && decide (r.cause ≤ 27)

theorem receiver_of_noContext (h : ctxOf s r.ctx = none) : receiver s tile r = 0 := by
  simp only [receiver, h]

theorem receiver_eq (h : ctxOf s r.ctx = some c) : receiver s tile r =
    if userTakes r c then
      if bit c.uvec.toNat 30 then (if paddockGood s c.q c.uvec then 2 else 0) else if handlerGood s tile (c.uvec.toNat % 256) then 1 else 0
    else 0 := by
  have taken : (!r.framed || r.escd || r.sup || !bit c.uvec.toNat 31 || !bit c.fmask.toNat r.cause || r.cause == 0 || decide (27 < r.cause)) = !userTakes r c := by
    simp only [userTakes, Bool.not_and, Bool.not_not, bne, ← decide_not, Nat.not_le]
  simp only [receiver, h]
  rw [taken]
  cases userTakes r c
  · rfl
  · rfl

theorem receiver_range (s : State) (tile : Nat) (r : FaultRec) : receiver s tile r = 0 ∨ receiver s tile r = 1 ∨ receiver s tile r = 2 := by
  cases h : ctxOf s r.ctx with
  | none => exact .inl (receiver_of_noContext h)
  | some c =>
    rw [receiver_eq h]
    split
    · split
      · split
        · exact .inr (.inr rfl)
        · exact .inl rfl
      · split
        · exact .inr (.inl rfl)
        · exact .inl rfl
    · exact .inl rfl

theorem receiver_of_supervised (h : r.framed = false ∨ r.escd = true ∨ r.sup = true ∨ ctxOf s r.ctx = none) : receiver s tile r = 0 := by
  cases hc : ctxOf s r.ctx with
  | none => exact receiver_of_noContext hc
  | some c =>
    have refused : userTakes r c = false := by
      obtain h | h | h | h := h
      · simp [userTakes, h]
      · simp [userTakes, h]
      · simp [userTakes, h]
      · rw [hc] at h
        cases h
    rw [receiver_eq hc, refused]
    rfl

theorem userTakes_of_enabled (hf : r.framed = true) (he : r.escd = false) (hs : r.sup = false) (h1 : 1 ≤ r.cause) (h27 : r.cause ≤ 27)
    (on : bit c.uvec.toNat 31 = true) (mask : bit c.fmask.toNat r.cause = true) : userTakes r c = true := by
  have cause : (r.cause != 0) = true := by
    rw [bne_iff_ne]
    omega
  rw [userTakes, hf, he, hs, on, mask, cause, decide_eq_true h27]
  rfl

theorem userTakes_of_disabled (off : bit c.uvec.toNat 31 = false ∨ bit c.fmask.toNat r.cause = false) : userTakes r c = false := by
  obtain off | off := off
  · rw [userTakes, off, Bool.and_false, Bool.false_and, Bool.false_and, Bool.false_and]
  · rw [userTakes, off, Bool.and_false, Bool.false_and, Bool.false_and]

section OfContext
variable (hc : ctxOf s r.ctx = some c)
include hc

theorem receiver_of_untaken (h : userTakes r c = false) : receiver s tile r = 0 := by
  rw [receiver_eq hc, h]
  rfl

theorem receiver_handler (h : userTakes r c = true) (form : bit c.uvec.toNat 30 = false) (good : handlerGood s tile (c.uvec.toNat % 256) = true) :
    receiver s tile r = 1 := by
  rw [receiver_eq hc, if_pos h, if_neg (by simp [form]), if_pos good]

theorem receiver_paddock (h : userTakes r c = true) (form : bit c.uvec.toNat 30 = true) (good : paddockGood s c.q c.uvec = true) : receiver s tile r = 2 := by
  rw [receiver_eq hc, if_pos h, if_pos form, if_pos good]

theorem receiver_of_badHandler (form : bit c.uvec.toNat 30 = false) (bad : handlerGood s tile (c.uvec.toNat % 256) = false) : receiver s tile r = 0 := by
  rw [receiver_eq hc, form, bad]
  exact ite_self 0

theorem receiver_of_badPaddock (form : bit c.uvec.toNat 30 = true) (bad : paddockGood s c.q c.uvec = false) : receiver s tile r = 0 := by
  rw [receiver_eq hc, form, bad]
  exact ite_self 0

end OfContext

theorem bit_true {w n : Nat} (h : w / 2 ^ n % 2 = 1) : bit w n = true := by rw [bit, h]; rfl

theorem bit_false {w n : Nat} (h : w / 2 ^ n % 2 = 0) : bit w n = false := by rw [bit, h]; rfl

theorem handlerGood_of_noBlock {bix : Nat} (h : sget s.tab.blocks (tile * 256 + bix) = none) : handlerGood s tile bix = false := by
  simp only [handlerGood, h]

theorem handlerGood_of_entries {bix : Nat} {b : Block} (h : sget s.tab.blocks (tile * 256 + bix) = some b) (hn : b.nin ≠ 1) : handlerGood s tile bix = false := by
  simp [handlerGood, h, hn]

end Receivers

/-! Delivery (R370, R408 to R414). -/

section Delivery
variable (s : State) (tile : Nat) (r : FaultRec)

/-- The state in which a record is numbered and its frame's current one: what its receiver is given it in. -/
def delivered (s : State) (tile : Nat) (r : FaultRec) : State := (markDelivered s tile r).1

theorem markDelivered_eq : markDelivered s tile r = (delivered s tile r, Claims.numbered s tile r) := by
  unfold delivered markDelivered
  dsimp only
  split
  · rfl
  · split
    · rfl
    · rfl

theorem delivered_keeps : (delivered s tile r).cyc = s.cyc ∧ (delivered s tile r).nextId = s.nextId ∧ (delivered s tile r).frm = s.frm ∧
    (delivered s tile r).net = s.net ∧ (delivered s tile r).ctxs = s.ctxs ∧ (delivered s tile r).flt.supq = s.flt.supq ∧
    sgetD (delivered s tile r).flt.fseq tile 0 = sgetD s.flt.fseq tile 0 + 1 := by
  unfold delivered markDelivered
  dsimp only
  split
  · simp [sgetD_sset_same]
  · split
    · simp [sgetD_sset_same]
    · simp [sgetD_sset_same]

theorem delivered_parked (h : r.framed = true) :
    sget (delivered s tile r).flt.parked (frameKey s tile r.rank r.ctx r.iter) = some { fr := some (Claims.numbered s tile r), escd := false } := by
  unfold delivered markDelivered
  dsimp only
  rw [if_pos h, writeRecord_flt]
  exact sget_sset_same _ _ _

variable {s tile r}

theorem deliverFault_supervisor (h : receiver s tile r = 0) :
    deliverFault s tile r = toSupervisor (delivered s tile r) tile (Claims.numbered s tile r) := by
  unfold deliverFault
  rw [markDelivered_eq, h]
  rfl

variable {c : Ctx} (hc : ctxOf s r.ctx = some c)
include hc

theorem deliverFault_handler (h : receiver s tile r = 1) : deliverFault s tile r =
    { delivered s tile r with frm := { (delivered s tile r).frm with ready := (delivered s tile r).frm.ready ++ [Claims.handlerTask s tile r c] } } := by
  obtain ⟨cyc, -, -, -, ctxs, -, -⟩ := delivered_keeps s tile r
  have ctx : ctxOf (delivered s tile r) (Claims.numbered s tile r).ctx = some c := by rw [ctxOf, ctxs]; exact hc
  unfold deliverFault
  rw [markDelivered_eq, h]
  simp only [ctx, cyc]
  rfl

/-- The token of the paddock form (R413). -/
def paddockToken (s : State) (tile : Nat) (r : FaultRec) (c : Ctx) : Token :=
  { hdr := plainHeader r.ctx r.iter 8 (paddockDest c.uvec).slot,
    lanes := lanesOf ((recordWords (Claims.numbered s tile r) ++ [0, 0]).map (BitVec.ofNat 32)) }

theorem deliverFault_paddock (h : receiver s tile r = 2) : deliverFault s tile r =
    addOut (delivered s tile r) tile 15 (paddockToken s tile r c) [paddockDest c.uvec] := by
  obtain ⟨-, -, -, -, ctxs, -, -⟩ := delivered_keeps s tile r
  have ctx : ctxOf (delivered s tile r) (Claims.numbered s tile r).ctx = some c := by rw [ctxOf, ctxs]; exact hc
  unfold deliverFault
  rw [markDelivered_eq, h]
  simp only [ctx]
  rfl

theorem deliverNotice_eq : deliverNotice s tile r = { s with
    flt := { s.flt with fseq := sset s.flt.fseq tile (sgetD s.flt.fseq tile 0 + 1) },
    frm := { s.frm with ready := s.frm.ready ++ [Claims.handlerTask s tile r c] } } := by
  have ctx : ctxOf { s with flt := { s.flt with fseq := sset s.flt.fseq tile (sgetD s.flt.fseq tile 0 + 1) } } r.ctx = some c := hc
  unfold deliverNotice
  simp only [ctx]
  rfl

end Delivery

section DeliveryKept
variable (s : State) (tile : Nat) (r : FaultRec)

/-- Whoever receives a record, it is numbered and current first. -/
theorem deliverFault_marks : (deliverFault s tile r).flt.fseq = (delivered s tile r).flt.fseq ∧
    (deliverFault s tile r).flt.parked = (delivered s tile r).flt.parked := by
  unfold deliverFault
  rw [markDelivered_eq]
  dsimp only
  split
  · exact ⟨rfl, rfl⟩
  · unfold addOut
    split
    · exact ⟨rfl, rfl⟩
    · exact ⟨rfl, rfl⟩
  · exact ⟨rfl, rfl⟩

end DeliveryKept

theorem recordsDelivered : Claims.RecordsDelivered := by
  refine ⟨fun s tile r => ?_, fun s tile r c => deliverNotice_eq⟩
  obtain ⟨-, nextId, frm, net, -, supq, fseq⟩ := delivered_keeps s tile r
  obtain ⟨marked, parked⟩ := deliverFault_marks s tile r
  intro t r'
  refine ⟨(congrArg (sgetD · tile 0) marked).trans fseq, fun hf => ?_, fun h => ?_, fun h c hc => ?_, fun h c hc => ?_⟩
  · exact (congrArg (sget · (frameKey s tile r.rank r.ctx r.iter)) parked).trans (delivered_parked s tile r hf)
  · rw [show t = _ from deliverFault_supervisor h]
    refine ⟨?_, frm, net⟩
    simp only [toSupervisor, sgetD_sset_same, supq]
    rfl
  · rw [show t = _ from deliverFault_handler hc h]
    exact ⟨congrArg (·.ready ++ [Claims.handlerTask s tile r c]) frm, supq, net⟩
  · rw [show t = _ from deliverFault_paddock hc h]
    simp only [addOut, List.isEmpty_cons, nextId, net, frm]
    exact ⟨rfl, supq, rfl⟩

end Sys2Proof.Machine

namespace Sys2Proof.Machine

/-! The repair of an entry slot (R374). -/

section Repair
variable (s : State) (o : Op) (tile rank c i : Nat) (b : Block) (ent : Nat)

/-- The width of an entry token that a repair makes: that of the block's first one that is there. -/
def repairWidth (s : State) (tile rank c i : Nat) (b : Block) : Nat :=
  ((upto b.nin).findSome? fun n => (sget s.frm.slots (slotKey s tile rank c i (b.slot0 + n))).map (·.wm1)).getD 31

/-- The slot's token after its repair. -/
def repairedSlot (s : State) (o : Op) (tile rank c i : Nat) (b : Block) (old : Option Slot) : Slot :=
  match old with
  | some x => { x with lanes := merge x.lanes o.b }
  | none => { lanes := merge noLanes o.b, seg := 0, pol := 0, nrm := false, str := false, eor := true, wm1 := repairWidth s tile rank c i b }

theorem repairSlot_slots : (repairSlot s o tile rank c i b ent).frm.slots =
    sset s.frm.slots (slotKey s tile rank c i (b.slot0 + ent))
      (repairedSlot s o tile rank c i b (sget s.frm.slots (slotKey s tile rank c i (b.slot0 + ent)))) := rfl

theorem laneOf_merge {old new : Lanes} {l : Nat} (hl : l < 32) : laneOf (merge old new) l = (laneOf new l).orElse fun _ => laneOf old l :=
  laneOf_mkLanes hl

theorem laneOf_merge_noLanes {new : Lanes} {l : Nat} (hl : l < 32) : laneOf (merge noLanes new) l = laneOf new l := by
  have absent : laneOf noLanes l = none := by
    simp only [laneOf, noLanes, List.getD_eq_getElem?_getD, List.getElem?_replicate]
    split
    · rfl
    · rfl
  rw [laneOf_merge hl, absent]
  cases laneOf new l with
  | none => rfl
  | some w => rfl

/-- The first entry that is there decides the width. -/
theorem repairWidth_first {n : Nat} {z : Slot} (hn : n < b.nin) (before : ∀ m, m < n → sget s.frm.slots (slotKey s tile rank c i (b.slot0 + m)) = none)
    (hz : sget s.frm.slots (slotKey s tile rank c i (b.slot0 + n)) = some z) : repairWidth s tile rank c i b = z.wm1 := by
  unfold repairWidth
  rw [upto, show b.nin = n + (b.nin - n - 1 + 1) by omega, List.range_add, List.findSome?_append, List.findSome?_eq_none_iff.2 fun m hm => by
    rw [before m (List.mem_range.1 hm)]
    rfl]
  rw [List.range_succ_eq_map, List.map_cons, List.findSome?_cons, Nat.add_zero, hz]
  rfl

theorem repairWidth_none (h : ∀ n, n < b.nin → sget s.frm.slots (slotKey s tile rank c i (b.slot0 + n)) = none) : repairWidth s tile rank c i b = 31 := by
  unfold repairWidth
  rw [List.findSome?_eq_none_iff.2 fun m hm => by
    rw [h m (List.mem_range.1 hm)]
    rfl]
  rfl

end Repair

theorem slotsRepaired : Claims.SlotsRepaired := by
  intro s o tile rank c i b ent slot t
  have slots := repairSlot_slots s o tile rank c i b ent
  refine ⟨repairedSlot s o tile rank c i b (sget s.frm.slots (slot ent)), ?_, fun j hj => ?_, fun x hx => ?_, fun hnone => ?_⟩
  · exact (congrArg (sget · (slot ent)) slots).trans (sget_sset_same _ _ _)
  · exact (congrArg (sget · j) slots).trans (sget_sset_other _ _ _ _ hj)
  · rw [hx]
    exact ⟨rfl, fun l hl => laneOf_merge hl⟩
  · rw [hnone]
    exact ⟨⟨rfl, rfl, rfl, rfl, rfl⟩, fun l hl => laneOf_merge_noLanes hl, fun n z => repairWidth_first s tile rank c i b, repairWidth_none s tile rank c i b⟩

/-! ERES (R374, R405). -/

section Resume
variable {s : State} {tile rank c i : Nat} {r : FaultRec} {o : Op}

theorem performEres_repair {b : Block} {ent : Nat} {hold : Bool} (hb : sget s.tab.blocks (tile * 256 + r.blk) = some b) :
    performEres s o r tile rank true ent hold = performEres (repairSlot s o tile rank r.ctx r.iter b ent) o r tile rank false 0 hold := by
  unfold performEres
  simp only [hb]

theorem resumeFault_of_halt {e : Nat} (h : r.halt = some e) : resumeFault s tile r = resumeHalted s tile e r := by
  simp only [resumeFault, h]

theorem resumeFault_of_row (h : r.halt = none) (hr : r.row ≠ 0) : resumeFault s tile r = resumeRow s r.row r.cause := by
  simp [resumeFault, h, hr]

theorem resumeFault_of_neither (h : r.halt = none) (hr : r.row = 0) (ho : r.op = 0) : resumeFault s tile r = s := by
  simp only [resumeFault, h, hr, ho, bne_self_eq_false, Bool.and_false]
  cases opById s 0 <;> rfl

theorem resumeFault_of_op (h : r.halt = none) (hr : r.row = 0) (hop : r.op ≠ 0) (ho : opById s r.op = some o) (hp : o.phase = .faulted) :
    resumeFault s tile r = resumeOp s o := by
  simp [resumeFault, h, hr, hop, ho, hp]

theorem resumeOp_of_kind (h : o.kind ∉ [.cfgld, .gait, .park]) : resumeOp s o =
    match chanOf o.kind with
    | some ch => replayDray s o ch
    | none => if isUnit o.kind then replayUnit s o else retryOp s o := by
  unfold resumeOp
  split
  next hk => simp [hk] at h
  next hk => simp [hk] at h
  next hk => simp [hk] at h
  next => rfl

theorem resumeRow_eq {id cause : Nat} {w : Row} (h : s.rws.rows.find? (fun x => x.id == id) = some w) : resumeRow s id cause =
    if cause ∈ [causeProbeHit, causeTapOrder] then moveRows (steerRow (fetchRow s w).1 (fetchRow s w).2) w.tile
    else setRow s { w with held := false, again := true, faulted := false } := by
  simp [resumeRow, h]

theorem answerFault_last (h : pendingOf s tile rank c i = 0) :
    answerFault s tile rank c i = wakeFrame (unpark (returnRows s tile rank c i) tile rank c i) tile rank c i := by
  rw [answerFault, morePending, h]
  exact if_neg (by decide)

theorem answerFault_more (h : 0 < pendingOf s tile rank c i) : answerFault s tile rank c i = writeRecord
    { s with flt := { s.flt with parked := sset s.flt.parked (frameKey s tile rank c i) { fr := none, escd := false } } } tile rank c i false := by
  exact if_pos (decide_eq_true h)

end Resume

theorem framesResume : Claims.FramesResume := by
  refine ⟨fun s o r tile rank ent => ?_, fun s tile r => ⟨fun e => resumeFault_of_halt, resumeFault_of_row, resumeFault_of_neither, ?_⟩,
    fun s id cause w hw => ?_, fun s tile rank c i => ?_⟩
  · intro answered
    refine ⟨rfl, fun b hb => ⟨(performEres_repair hb).trans ?_, (performEres_repair hb).trans ?_⟩⟩
    · rfl
    · rfl
  · intro o h hr hop ho hp hk
    have goes := (resumeFault_of_op (tile := tile) h hr hop ho hp).trans (resumeOp_of_kind hk)
    refine ⟨fun ch hch => ?_, fun hch hu => ?_, fun hch hu => ?_⟩
    · rw [goes, hch]
    · rw [goes, hch]
      exact if_pos hu
    · rw [goes, hch]
      exact if_neg (by simp [hu])
  · rw [resumeRow_eq hw]
    exact ⟨fun h => if_pos h, fun h => if_neg h⟩
  · exact ⟨answerFault_last, answerFault_more⟩

end Sys2Proof.Machine

namespace Sys2Proof.Machine

/-! EKILL and ESC (R370, R375, R376, R405). -/

section Dropped
variable (s : State) (tile rank c i : Nat)

theorem foldl_count_flt (l : List Nat) (k : Nat) : (l.foldl (fun s _ => count s k tile) s).flt = s.flt := by
  induction l generalizing s with
  | nil => rfl
  | cons x r ih => exact (ih (count s k tile)).trans rfl

theorem dropPending_pending (p : Pending) : p ∈ (dropPending s tile rank c i).flt.pending ↔ p ∈ s.flt.pending ∧
    ¬ (p.tile = tile ∧ p.fr.framed = true ∧ p.fr.rank = rank ∧ p.fr.ctx = c ∧ p.fr.iter = i) := by
  unfold dropPending
  rw [foldl_count_flt]
  simp only [List.mem_filter, Bool.not_eq_true', Bool.and_eq_false_iff, beq_eq_false_iff_ne]
  refine and_congr_right fun _ => ?_
  rw [← Bool.not_eq_true]
  tauto

/-- The trough without the waiters of the frame's tasks. -/
def withoutWaiters (rank c i : Nat) (t : Trough) : Trough :=
  { t with waiters := t.waiters.filter fun w => !(match w with
    | .pe _ _ r c' i' _ _ _ => r == rank && c' == c && i' == i
    | .dray _ _ => false) }

theorem sget_map_keyed {α : Type} (m : Store α) (f : Nat → α → α) (k : Nat) : sget (m.map fun p => (p.1, f p.1 p.2)) k = (sget m k).map (f k) := by
  induction m with
  | nil => rfl
  | cons p r ih =>
    obtain ⟨n, v⟩ := p
    simp only [List.map_cons, sget]
    split
    next h => rw [h, Option.map_some]
    next => exact ih

theorem dropWaiters_trough {n : Nat} (hn : n < 64) : sget (dropWaiters s tile rank c i).tab.troughs (tile * 64 + n) =
    (sget s.tab.troughs (tile * 64 + n)).map (withoutWaiters rank c i) := by
  have own : (tile * 64 + n) / 64 = tile := by omega
  have upd : (dropWaiters s tile rank c i).tab.troughs =
      s.tab.troughs.map fun p => (p.1, if p.1 / 64 == tile then withoutWaiters rank c i p.2 else p.2) := by
    refine List.map_congr_left fun p _ => ?_
    by_cases h : (p.1 / 64 == tile) = true
    · rw [if_pos h, if_pos h]
      rfl
    · rw [if_neg h, if_neg h]
  rw [upd, sget_map_keyed s.tab.troughs (fun k t => if k / 64 == tile then withoutWaiters rank c i t else t)]
  simp only [own, beq_self_eq_true, if_true]

theorem dropWaiters_gone {n : Nat} {t : Trough} (ht : sget (dropWaiters s tile rank c i).tab.troughs (tile * 64 + n) = some t) (hn : n < 64)
    (k : Bool) (e b p x : Nat) : Waiter.pe k e rank c i b p x ∉ t.waiters := by
  rw [dropWaiters_trough s tile rank c i hn] at ht
  obtain ⟨t, -, rfl⟩ := Option.map_eq_some_iff.1 ht
  simp [withoutWaiters]

theorem dropEngines_gone {o : Op} (ho : o ∈ (dropEngines s tile rank c i).ops) (hf : sameFrame o tile rank c i = true) (ht : o.tid = 0) {n e : Nat}
    (hk : o.kind = .give n e) : e = 8 := by
  have kept := (List.mem_filter.1 ho).2
  simpa [hf, ht, hk] using kept

end Dropped

/-! The end of a killed frame. -/

section Killed
variable (s : State) (tile rank c i : Nat)

theorem putByte_rws (dom pa : Nat) (v : BitVec 8) : (putByte s dom pa v).rws = s.rws := by
  unfold putByte retag
  dsimp only
  split
  · rfl
  · split
    · rfl
    · split
      · rfl
      · split
        · rfl
        · rfl

theorem recordPut_rws (pa n v : Nat) : (recordPut s pa n v).rws = s.rws := by
  induction n generalizing s pa v with
  | zero => rfl
  | succ n ih => exact (ih ..).trans (putByte_rws ..)

theorem recordWrite_rws (pa n v : Nat) : (recordWrite s pa n v).rws = s.rws := recordPut_rws s pa n v

/-- The tile, rank and tag of a row's frame. -/
def rowFrame (r : Row) : Nat × Nat × Nat × Nat := (r.tile, r.rank, r.ctx, r.iter)

theorem moveRow_frames (id : Nat) : (moveRow s id).rws.rows.map rowFrame = s.rws.rows.map rowFrame := by
  unfold moveRow
  split
  next => rfl
  next r _ =>
    split
    · rfl
    · unfold withdrawRow
      split
      · rfl
      · rw [recordWrite_rws]
        rw [show ∀ f : Row → Row, ({ s.tick with rws := { s.rws with rows := s.rws.rows.map f } } : State).rws.rows = s.rws.rows.map f from fun _ => rfl,
          List.map_map]
        refine List.map_congr_left fun x _ => ?_
        rw [Function.comp]
        split
        · rfl
        · rfl

theorem moveRows_frames : (moveRows s tile).rws.rows.map rowFrame = s.rws.rows.map rowFrame := by
  unfold moveRows
  exact foldl_keeps (fun t => t.rws.rows.map rowFrame = s.rws.rows.map rowFrame) _ _ s rfl fun t id h => (moveRow_frames t id).trans h

/-- A retirement clears windows, tasks that wait to fire and slots of positions: it changes nothing else, and no slot takes a token. -/
def OnlyRetires (s t : State) : Prop :=
  t.flt = s.flt ∧ t.rws = s.rws ∧ t.frm.cancels = s.frm.cancels ∧ ∀ k, sget s.frm.slots k = none → sget t.frm.slots k = none

theorem OnlyRetires.refl (s : State) : OnlyRetires s s := ⟨rfl, rfl, rfl, fun _ h => h⟩

theorem OnlyRetires.trans {s t u : State} (h : OnlyRetires s t) (h' : OnlyRetires t u) : OnlyRetires s u := by
  obtain ⟨flt, rws, cancels, slots⟩ := h
  obtain ⟨flt', rws', cancels', slots'⟩ := h'
  exact ⟨flt'.trans flt, rws'.trans rws, cancels'.trans cancels, fun k hk => slots' k (slots k hk)⟩

theorem sget_sdrop_of_none {α : Type} {m : Store α} {lo n k : Nat} (h : sget m k = none) : sget (sdrop m lo n) k = none := by
  by_cases hk : lo ≤ k ∧ k < lo + n
  · exact sget_sdrop_inside hk
  · rw [sget_sdrop_outside (by omega), h]

theorem onlyRetires_clearPosition : OnlyRetires s (clearPosition s tile rank c i) := ⟨rfl, rfl, rfl, fun _ h => sget_sdrop_of_none h⟩

theorem onlyRetires_retire : OnlyRetires s (retire s tile rank c i) := by
  unfold retire
  split
  · exact .refl s
  · exact OnlyRetires.trans ⟨rfl, rfl, rfl, fun _ h => h⟩ (foldl_related OnlyRetires.refl OnlyRetires.trans (fun t k => onlyRetires_clearPosition t ..) _ _)

/-- The frame's rows have gone. -/
def rowless (s : State) (tile rank c i : Nat) : State :=
  moveRows { s with rws := { s.rws with rows := s.rws.rows.filter fun x => !(x.tile == tile && x.rank == rank && x.ctx == c && x.iter == i) } } tile

/-- The frame's slots are empty. -/
def emptied (s : State) (tile rank c i : Nat) : State :=
  { s with frm := { s.frm with slots := sdrop s.frm.slots (slotKey s tile rank c i 0) (2 ^ (fplanOf s tile rank c).fslog2) } }

/-- The frame's position is neither parked nor halted. -/
def relieved (s : State) (tile rank c i : Nat) : State :=
  match positionOf s tile rank c i with
  | some p => setPosition s tile rank c i { p with pk := false, hlt := false }
  | none => s

/-- The frame's record, at a key, and its cancels have gone. -/
def forgotten (s : State) (k tile rank c i : Nat) : State :=
  { s with
    flt := { s.flt with parked := sdel s.flt.parked k },
    frm := { s.frm with cancels := s.frm.cancels.filter fun f => !(f.tile == tile && f.rank == rank && f.tok.hdr.ctx == c && f.tok.hdr.iter == i) } }

theorem moved_frm : (moveRows s tile).frm = s.frm := (besideRows_moveRows s tile).eq (·.frm) fun _ _ _ _ => rfl

theorem moved_tab : (moveRows s tile).tab = s.tab := (besideRows_moveRows s tile).eq (·.tab) fun _ _ _ _ => rfl

theorem slotKey_congr {s t : State} (tab : t.tab = s.tab) (windows : t.frm.windows = s.frm.windows) (k : Nat) :
    slotKey t tile rank c i k = slotKey s tile rank c i k := by
  simp only [slotKey, planOf, fplanOf, windowOf, winKey, tab, windows]

theorem fplanOf_congr {s t : State} (tab : t.tab = s.tab) (windows : t.frm.windows = s.frm.windows) : fplanOf t tile rank c = fplanOf s tile rank c := by
  simp only [planOf, fplanOf, windowOf, winKey, tab, windows]

/-- The killed frame before its record is written and it retires. -/
def unparked (s : State) (tile rank c i : Nat) : State :=
  forgotten (relieved (emptied (rowless s tile rank c i) tile rank c i) tile rank c i) (slotKey (rowless s tile rank c i) tile rank c i 0) tile rank c i

theorem killed_eq : Claims.killed s tile rank c i = retire (writeRecord (unparked s tile rank c i) tile rank c i false) tile rank c i := by
  unfold Claims.killed
  dsimp only
  rw [← rowless]
  rfl

theorem onlyRetires_killed : OnlyRetires (unparked s tile rank c i) (Claims.killed s tile rank c i) := by
  rw [killed_eq]
  refine OnlyRetires.trans ⟨writeRecord_flt .., recordWrite_rws .., congrArg (·.cancels) (writeRecord_frm ..), fun k hk => ?_⟩ (onlyRetires_retire ..)
  rw [writeRecord_frm]
  exact hk

theorem relieved_keeps : (relieved s tile rank c i).rws = s.rws ∧ (relieved s tile rank c i).frm.slots = s.frm.slots := by
  unfold relieved
  split
  · exact ⟨rfl, rfl⟩
  · exact ⟨rfl, rfl⟩

theorem rowless_frm : (rowless s tile rank c i).frm = s.frm := moved_frm ..

theorem rowless_tab : (rowless s tile rank c i).tab = s.tab := moved_tab ..

theorem rowless_key (k : Nat) : slotKey (rowless s tile rank c i) tile rank c i k = slotKey s tile rank c i k :=
  slotKey_congr tile rank c i (rowless_tab ..) (congrArg (·.windows) (rowless_frm ..)) k

theorem rowless_plan : fplanOf (rowless s tile rank c i) tile rank c = fplanOf s tile rank c :=
  fplanOf_congr tile rank c (rowless_tab ..) (congrArg (·.windows) (rowless_frm ..))

theorem rowless_frames : (rowless s tile rank c i).rws.rows.map rowFrame =
    (s.rws.rows.filter fun x => !(x.tile == tile && x.rank == rank && x.ctx == c && x.iter == i)).map rowFrame := moveRows_frames _ tile

theorem unparked_slots : (unparked s tile rank c i).frm.slots =
    sdrop (rowless s tile rank c i).frm.slots (slotKey s tile rank c i 0) (2 ^ (fplanOf s tile rank c).fslog2) := by
  refine (relieved_keeps (emptied (rowless s tile rank c i) tile rank c i) tile rank c i).2.trans ?_
  rw [emptied, rowless_key, rowless_plan]

theorem unparked_parked : sget (unparked s tile rank c i).flt.parked (frameKey s tile rank c i) = none := by
  show sget (sdel _ (slotKey (rowless s tile rank c i) tile rank c i 0)) _ = none
  rw [rowless_key, sget_sdel]
  exact if_pos rfl

theorem unparked_rows : (unparked s tile rank c i).rws = (rowless s tile rank c i).rws := (relieved_keeps ..).1

theorem killed_slots {k : Nat} (hk : k < 2 ^ (fplanOf s tile rank c).fslog2) :
    sget (Claims.killed s tile rank c i).frm.slots (slotKey s tile rank c i k) = none := by
  obtain ⟨-, -, -, slots⟩ := onlyRetires_killed s tile rank c i
  have place : slotKey s tile rank c i k = slotKey s tile rank c i 0 + k := by simp only [slotKey, Nat.add_zero]
  refine slots _ ?_
  rw [unparked_slots, place]
  exact sget_sdrop_inside ⟨by omega, by omega⟩

theorem killed_parked : sget (Claims.killed s tile rank c i).flt.parked (frameKey s tile rank c i) = none := by
  obtain ⟨flt, -, -, -⟩ := onlyRetires_killed s tile rank c i
  rw [flt]
  exact unparked_parked ..

theorem killed_rows {x : Row} (hx : x ∈ (Claims.killed s tile rank c i).rws.rows) : ¬ (x.tile = tile ∧ x.rank = rank ∧ x.ctx = c ∧ x.iter = i) := by
  obtain ⟨-, rws, -, -⟩ := onlyRetires_killed s tile rank c i
  rw [rws, unparked_rows] at hx
  have there := List.mem_map_of_mem (f := rowFrame) hx
  rw [rowless_frames] at there
  obtain ⟨y, hy, same⟩ := List.mem_map.1 there
  have other := (List.mem_filter.1 hy).2
  simp only [rowFrame, Prod.mk.injEq] at same
  obtain ⟨htile, hrank, hctx, hiter⟩ := same
  rintro ⟨rfl, rfl, rfl, rfl⟩
  simp [htile, hrank, hctx, hiter] at other

theorem killed_cancels {f : Flight} (hf : f ∈ (Claims.killed s tile rank c i).frm.cancels) :
    ¬ (f.tile = tile ∧ f.rank = rank ∧ f.tok.hdr.ctx = c ∧ f.tok.hdr.iter = i) := by
  obtain ⟨-, -, cancels, -⟩ := onlyRetires_killed s tile rank c i
  rw [cancels] at hf
  have other := (List.mem_filter.1 hf).2
  rintro ⟨rfl, rfl, rfl, rfl⟩
  simp at other

theorem performEkill_eq (s : State) (r : FaultRec) (tile rank : Nat) : performEkill s r tile rank =
    let s1 := dropHalted (dropWaiters (dropPending s tile rank r.ctx r.iter) tile rank r.ctx r.iter) tile rank r.ctx r.iter
    let failed := s1.ops.filter fun o => sameFrame o tile rank r.ctx r.iter && stopped o && o.tid == 0
    let s2 := dropEngines (failed.foldl dropFailed s1) tile rank r.ctx r.iter
    let asked := (s2.ops.filter fun o => sameFrame o tile rank r.ctx r.iter && waitsInFifo o).map (·.id)
    let s3 := removeRequests s2 fun q => asked.contains q.op
    Claims.killed (dropOwned { s3 with ops := s3.ops.filter fun o => !asked.contains o.id } tile rank r.ctx r.iter) tile rank r.ctx r.iter := rfl

end Killed

section Escalation
variable (s : State) (r : FaultRec) (tile rank : Nat)

theorem performEsc_keeps : (performEsc s r tile rank).frm = s.frm ∧ (performEsc s r tile rank).ops = s.ops ∧ (performEsc s r tile rank).ctxs = s.ctxs :=
  ⟨writeRecord_frm .., writeRecord_ops .., writeRecord_ctxs ..⟩

theorem performEsc_queue : sgetD (performEsc s r tile rank).flt.supq tile [] = sgetD s.flt.supq tile [] ++ [{ r with escd := true }] := by
  unfold performEsc
  rw [writeRecord_flt]
  exact sgetD_sset_same _ _ _ _

theorem performEsc_parked : sget (performEsc s r tile rank).flt.parked (frameKey s tile rank r.ctx r.iter) =
    some { fr := some { r with escd := true }, escd := true } := by
  unfold performEsc
  rw [writeRecord_flt]
  exact sget_sset_same _ _ _

end Escalation

theorem framesEnd : Claims.FramesEnd := by
  refine ⟨fun s r tile rank => performEkill_eq s r tile rank, fun s tile rank c i => ⟨dropPending_pending s tile rank c i, fun n t ht hn =>
      dropWaiters_gone s tile rank c i ht hn, fun o ho hf ht n e => dropEngines_gone s tile rank c i ho hf ht⟩,
    fun s tile rank c i => ?_, fun s r tile rank => ?_⟩
  · refine ⟨fun k hk => ?_, killed_parked s tile rank c i, fun x => killed_rows s tile rank c i, fun f => killed_cancels s tile rank c i⟩
    exact killed_slots s tile rank c i hk
  · obtain ⟨frm, ops, ctxs⟩ := performEsc_keeps s r tile rank
    exact ⟨performEsc_queue s r tile rank, performEsc_parked s r tile rank, frm, ops, ctxs⟩

end Sys2Proof.Machine

namespace Sys2Proof.Machine

/-! Taking, reporting and halting (R34, R172, R176, R402 to R406, R412, R424 to R429). -/

section Taking
variable {s : State} {τ : Task} {o : Op} {r : FaultRec} {tile pos c d a : Nat}

theorem execReservedOpcode_of_task (h : s.task? = some τ) : execReservedOpcode s = .next (takeFault s τ τ.pos causeIllOp 0 0) :=
  runTask_stop (f := fun _ _ => stop causeIllOp 0) (e := .fault causeIllOp 0 0) h rfl

theorem takeFault_of_room (hk : τ.kind = .frame) (room : faultRoom s s.occ.a τ.rank τ.ctx τ.iter = true) :
    takeFault s τ pos c d a = raiseOn (discardEffects s.dropTask τ) s.occ.a (syncRecord s s.occ.a τ pos c d a) := by
  simp [takeFault, hk, room]

theorem takeFault_of_full (hk : τ.kind = .frame) (full : faultRoom s s.occ.a τ.rank τ.ctx τ.iter = false) : takeFault s τ pos c d a = s := by
  simp [takeFault, hk, full]

theorem raiseOn_of_retired (h : frameLive s tile r.rank r.ctx r.iter = false) : raiseOn s tile r = enqueueFault s tile { r with framed := false } := by
  simp [raiseOn, h]

theorem raiseOn_of_noPark (h : frameLive s tile r.rank r.ctx r.iter = true) (pv : s.dev.pv = false) :
    raiseOn s tile r = enqueueFault s (quadTile0 (quadOf tile)) { r with framed := false } := by
  simp [raiseOn, h, pv]

theorem raiseOn_of_park (h : frameLive s tile r.rank r.ctx r.iter = true) (pv : s.dev.pv = true) : raiseOn s tile r = Claims.parkedWith s tile r := by
  simp [raiseOn, h, pv, Claims.parkedWith]

/-- An operation whose fault may be reported has failed. -/
theorem mayReport_phase (h : mayReport s o = true) : o.phase = .failed := by
  simp only [mayReport, Bool.and_eq_true, beq_iff_eq] at h
  exact h.1.1.1.1

theorem execAsyncFaultReport_of_done (hs : Claims.Subject s o) (hu : isUnit o.kind = true) (hp : o.phase = .done) :
    execAsyncFaultReport s = .next (emitBlock s o) := by
  unfold execAsyncFaultReport
  rw [hs]
  simp only [hu, hp]
  rfl

/-- A failed operation that is no Dray command is reported, but for a hitch operation of which only a hold was to end. -/
theorem execAsyncFaultReport_of_failed (hs : Claims.Subject s o) (hc : chanOf o.kind = none) (hm : mayReport s o = true) :
    execAsyncFaultReport s =
      if o.n == 3 && isHitchOp o.kind then .next (dropOp s o.id)
      else if frameLive s o.tile o.rank o.ctx o.iter && s.dev.pv && o.elem != 8 then
        .next (setOp (raiseOp s o o.cause o.detail o.addr) { o with phase := .faulted })
      else .next (dropFailed (raiseOp s o o.cause o.detail o.addr) o) := by
  have unfinished : ¬ (isUnit o.kind && o.phase == .done) = true := by simp [mayReport_phase hm]
  unfold execAsyncFaultReport
  rw [hs]
  dsimp only
  rw [if_neg unfinished, if_neg (by simp [hc, hm])]

section Reported
variable (hs : Claims.Subject s o) (hc : chanOf o.kind = none) (hm : mayReport s o = true) (hn : o.n ≠ 3 ∨ isHitchOp o.kind = false)
include hs hc hm hn

theorem execAsyncFaultReport_raises : execAsyncFaultReport s =
    if frameLive s o.tile o.rank o.ctx o.iter && s.dev.pv && o.elem != 8 then .next (setOp (raiseOp s o o.cause o.detail o.addr) { o with phase := .faulted })
    else .next (dropFailed (raiseOp s o o.cause o.detail o.addr) o) := by
  have reports : ¬ (o.n == 3 && isHitchOp o.kind) = true := by
    rw [Bool.and_eq_true, beq_iff_eq, not_and_or, Bool.not_eq_true]
    exact hn
  rw [execAsyncFaultReport_of_failed hs hc hm, if_neg reports]

theorem execAsyncFaultReport_parks (live : frameLive s o.tile o.rank o.ctx o.iter = true) (pv : s.dev.pv = true) (he : o.elem ≠ 8) :
    execAsyncFaultReport s = .next (setOp (raiseOp s o o.cause o.detail o.addr) { o with phase := .faulted }) := by
  rw [execAsyncFaultReport_raises hs hc hm hn, if_pos (by simp [live, pv, he])]

theorem execAsyncFaultReport_drops (lost : frameLive s o.tile o.rank o.ctx o.iter = false ∨ s.dev.pv = false ∨ o.elem = 8) :
    execAsyncFaultReport s = .next (dropFailed (raiseOp s o o.cause o.detail o.addr) o) := by
  rw [execAsyncFaultReport_raises hs hc hm hn, if_neg]
  simp only [Bool.and_eq_true, bne_iff_ne, ne_eq, not_and_or, Bool.not_eq_true, not_not, or_assoc]
  exact lost

end Reported

theorem execFaultDelivery_of_may {p : Pending} (h : Claims.MayDeliver s p) : execFaultDelivery s =
    .next (if p.deliver then deliverFault (Claims.withoutPending s p) s.occ.a p.fr else deliverNotice (Claims.withoutPending s p) s.occ.a p.fr) := by
  obtain ⟨found, may⟩ := h
  simp only [execFaultDelivery, found, may]
  rfl

theorem execFaultDelivery_of_fault {p : Pending} (h : Claims.MayDeliver s p) (hd : p.deliver = true) :
    execFaultDelivery s = .next (deliverFault (Claims.withoutPending s p) s.occ.a p.fr) := by
  rw [execFaultDelivery_of_may h, if_pos hd]

theorem execFaultDelivery_of_notice {p : Pending} (h : Claims.MayDeliver s p) (hd : p.deliver = false) :
    execFaultDelivery s = .next (deliverNotice (Claims.withoutPending s p) s.occ.a p.fr) := by
  rw [execFaultDelivery_of_may h, if_neg (by simp [hd])]

/-! The supervisor's queue (R377, R412). -/

/-- The queue after its first record has gone, with the slot that is busy with it. -/
def dequeued (s : State) (rest : List FaultRec) (slot : Nat) : State :=
  { s with flt := { s.flt with
      supq := if rest.isEmpty then sdel s.flt.supq s.occ.a else sset s.flt.supq s.occ.a rest,
      busy := sset s.flt.busy s.occ.a (slot * 8 + (inboxOf s s.occ.a slot).length) } }

theorem dequeued_queue (rest : List FaultRec) (slot : Nat) : sgetD (dequeued s rest slot).flt.supq s.occ.a [] = rest := by
  cases rest with
  | nil =>
    show sgetD (sdel s.flt.supq s.occ.a) s.occ.a [] = []
    rw [sgetD, sget_sdel, if_pos rfl]
    rfl
  | cons x xs => exact sgetD_sset_same ..

/-- The record's token at the groom core's slot (R412). -/
def withInbox (s : State) (k : Nat) (q : List Token) : State := { s with frm := { s.frm with inbox := sset s.frm.inbox k q } }

theorem execSupervisorFaultDequeue_of_fault {rest : List FaultRec} (hq : sgetD s.flt.supq s.occ.a [] = r :: rest)
    (on : (tileReg s s.occ.a 7).toNat / 2 ^ 31 % 2 = 1) (free : sget s.flt.busy s.occ.a = none)
    (room : (inboxOf s s.occ.a ((tileReg s s.occ.a 7).toNat % 512)).length < 4) :
    ∃ k q, execSupervisorFaultDequeue s =
      .next (wakeGroom (withInbox (setFaultRegs (dequeued s rest ((tileReg s s.occ.a 7).toNat % 512)) s.occ.a r) k q) s.occ.a) := by
  have goes : ¬ (!bit (tileReg s s.occ.a 7).toNat 31 || (sget s.flt.busy s.occ.a).isSome ||
      decide (4 ≤ (inboxOf s s.occ.a ((tileReg s s.occ.a 7).toNat % 512)).length)) = true := by
    rw [bit_true on, free]
    simpa using room
  unfold execSupervisorFaultDequeue
  simp only [hq]
  rw [if_neg (by simpa only [Bool.or_eq_true, decide_eq_true_eq] using goes)]
  exact ⟨_, _, rfl⟩

theorem tileReg_congr {t u : State} (h : t.flt = u.flt) (tile n : Nat) : tileReg t tile n = tileReg u tile n := by
  rw [tileReg, tileReg, h]

theorem wakeGroom_withInbox (u : State) (k : Nat) (q : List Token) (tile : Nat) : (wakeGroom (withInbox u k q) tile).flt = u.flt ∧
    (wakeGroom (withInbox u k q) tile).mem = u.mem ∧ (wakeGroom (withInbox u k q) tile).ctxs = u.ctxs := wakeGroom_keeps (withInbox u k q) tile

theorem dequeued_keeps (rest : List FaultRec) (slot : Nat) : (dequeued s rest slot).flt.busy =
    sset s.flt.busy s.occ.a (slot * 8 + (inboxOf s s.occ.a slot).length) ∧ (dequeued s rest slot).mem = s.mem ∧ (dequeued s rest slot).ctxs = s.ctxs :=
  ⟨rfl, rfl, rfl⟩

/-- The taken record: the queue goes on behind it, its slot is busy with it and the registers hold it. -/
def Taken (s t : State) (r : FaultRec) (rest : List FaultRec) (slot : Nat) : Prop :=
  sgetD t.flt.supq s.occ.a [] = rest ∧ t.flt.busy = sset s.flt.busy s.occ.a (slot * 8 + (inboxOf s s.occ.a slot).length) ∧
  tileReg t s.occ.a 1 = BitVec.ofNat 32 r.cause ∧ t.mem = s.mem ∧ t.ctxs = s.ctxs

theorem taken_wakeGroom (rest : List FaultRec) (slot k : Nat) (q : List Token) :
    Taken s (wakeGroom (withInbox (setFaultRegs (dequeued s rest slot) s.occ.a r) k q) s.occ.a) r rest slot := by
  obtain ⟨flt, mem, ctxs⟩ := wakeGroom_withInbox (setFaultRegs (dequeued s rest slot) s.occ.a r) k q s.occ.a
  obtain ⟨supq, busy, regsMem, regsCtxs⟩ := setFaultRegs_keeps (dequeued s rest slot) s.occ.a r
  obtain ⟨busy', mem', ctxs'⟩ := dequeued_keeps (s := s) rest slot
  refine ⟨?_, ?_, ?_, ?_, ?_⟩
  · rw [flt, supq, dequeued_queue]
  · rw [flt, busy, busy']
  · rw [tileReg_congr flt, setFaultRegs_cause]
  · rw [mem, regsMem, mem']
  · rw [ctxs, regsCtxs, ctxs']

theorem execSupervisorFaultDequeue_of_empty (h : sgetD s.flt.supq s.occ.a [] = []) : execSupervisorFaultDequeue s = .next s := by
  simp only [execSupervisorFaultDequeue, h]

/-! Halts (R424 to R429). -/

section Requests
variable {x : Ctx} (hx : ctxOf s s.occ.a = some x)
include hx

theorem execHalt_eq : execHalt s =
    if haltEnabled s x.asid && (sget s.flt.haltCtx s.occ.a).isNone && haltRoom s s.occ.a then .next (haltContext s s.occ.a none) else .next s := by
  simp only [execHalt, hx]

theorem execHalt_halts (on : haltEnabled s x.asid = true) (runs : sget s.flt.haltCtx s.occ.a = none) (room : haltRoom s s.occ.a = true) :
    execHalt s = .next (haltContext s s.occ.a none) := by
  rw [execHalt_eq hx, on, runs, room]
  rfl

theorem execHalt_waits (off : haltEnabled s x.asid = false ∨ haltRoom s s.occ.a = false) : execHalt s = .next s := by
  rw [execHalt_eq hx]
  obtain off | off := off
  · rw [off]
    rfl
  · rw [off, Bool.and_false]
    rfl

end Requests

theorem parkFrame_halted (s : State) (tile rank c i : Nat) (hlt : Bool) : (parkFrame s tile rank c i hlt).flt.halted = s.flt.halted := by
  unfold parkFrame
  dsimp only
  split
  · rfl
  · split
    · split
      · rw [writeRecord_flt]
        rfl
      · rfl
    · rw [writeRecord_flt, (besideRows_moveRows ..).eq (·.flt) fun _ _ _ _ => rfl]
      rfl

theorem raiseOn_halted (s : State) (tile : Nat) (r : FaultRec) : (raiseOn s tile r).flt.halted = s.flt.halted := by
  unfold raiseOn
  split
  · rfl
  · split
    · rfl
    · rw [writeRecord_flt]
      exact parkFrame_halted ..

theorem writeHalt_flt (s : State) (tile elem : Nat) (τ : Task) : (writeHalt s tile elem τ).flt = s.flt :=
  (besideRows_recordWrite ..).eq (·.flt) fun _ _ _ _ => rfl

/-- A task off its element, with its halt record, waiting for its resume. -/
def heldTask (s : State) (tile elem : Nat) (τ : Task) : State :=
  let s' := setPe s tile elem { peAt s tile elem with run := none }
  writeHalt { s' with flt := { s'.flt with halted := sset s'.flt.halted (tile * 9 + elem) ({ τ with step := 0 } : Task).bare } } tile elem { τ with step := 0 }

theorem heldTask_halted (s : State) (tile elem : Nat) (τ : Task) :
    sget (heldTask s tile elem τ).flt.halted (tile * 9 + elem) = some ({ τ with step := 0 } : Task).bare := by
  rw [heldTask, writeHalt_flt]
  exact sget_sset_same _ _ _

/-- A task that can be held stands among the halted ones, and its frame is parked. -/
theorem haltTask_of_holds {elem : Nat} (h : haltHolds s tile τ = true) : haltTask s tile elem τ d =
    if τ.kind == .frame then raiseOn (parkFrame (heldTask s tile elem τ) tile τ.rank τ.ctx τ.iter true) tile (haltRecord s tile elem τ d)
    else enqueueFault (heldTask s tile elem τ) tile (haltRecord s tile elem τ d) := if_pos h

theorem haltTask_halted {elem : Nat} (h : haltHolds s tile τ = true) :
    sget (haltTask s tile elem τ d).flt.halted (tile * 9 + elem) = some ({ τ with step := 0 } : Task).bare := by
  rw [haltTask_of_holds h]
  split
  · rw [raiseOn_halted, parkFrame_halted]
    exact heldTask_halted s tile elem τ
  · rw [enqueueFault_flt_halted]
    exact heldTask_halted s tile elem τ

theorem haltHolds_of_live (pv : s.dev.pv = true) (h : τ.kind = .frame → frameLive s tile τ.rank τ.ctx τ.iter = true) : haltHolds s tile τ = true := by
  rw [haltHolds, pv, Bool.true_and, Bool.or_eq_true]
  by_cases hk : τ.kind = .frame
  · exact .inr (h hk)
  · exact .inl (by simpa using hk)

theorem stepsDone_of {elem : Nat} (h1 : τ.step = 1)
    (hpos : τ.pos ≤ τ.len ∨ τ.tid = 0 ∧ ((peAt s tile elem).held = [] ∨ tile ∈ s.frm.frozen)) : stepsDone s tile elem τ = true := by
  simpa [stepsDone, h1, Task.spent] using hpos

section Steps
variable (hτ : s.task? = some τ) (done : stepsDone s s.occ.a s.occ.b τ = true) (room : haltRoom s τ.ctx = true)
include hτ done room

theorem execStepHalt_holds (h : haltHolds s s.occ.a τ = true) :
    execStepHalt s = .next (haltTask { s with flt := { s.flt with haltCtx := sset s.flt.haltCtx τ.ctx () } } s.occ.a s.occ.b τ 0xFE) := by
  simp only [execStepHalt, hτ]
  rw [if_pos ⟨done, room⟩, h]
  rfl

theorem execStepHalt_loses (h : haltHolds s s.occ.a τ = false) : execStepHalt s = .next (haltTask s s.occ.a s.occ.b τ 0xFE) := by
  simp only [execStepHalt, hτ]
  rw [if_pos ⟨done, room⟩, h]
  rfl

end Steps

theorem execStepHalt_of_waits (hτ : s.task? = some τ) (h : τ.step ≠ 1 ∨ haltRoom s τ.ctx = false) : execStepHalt s = .next s := by
  simp only [execStepHalt, hτ]
  refine if_neg fun ⟨done, room⟩ => ?_
  obtain h | h := h
  · simp [stepsDone, h] at done
  · rw [h] at room
    cases room

/-! ERES, ESC and EKILL at commit (R373 to R376). -/

theorem handlerStatus_of_nothing (hc : currentRecord s o = none) (hh : haltedRecord s o = none) : handlerStatus s o = 1 := by
  simp only [handlerStatus, hc, haltedStatus, hh]

theorem commitHandler_of_status (h : handlerStatus s o ≠ 0) : commitHandler s o = statusToken s o [handlerStatus s o] := by
  unfold commitHandler
  dsimp only
  split
  next h0 _ _ => exact absurd h0 h
  next h0 _ => exact absurd h0 h
  next => rfl

theorem commitHandler_of_nothing (hc : currentRecord s o = none) (hh : haltedRecord s o = none) : commitHandler s o = statusToken s o [1] := by
  have status := handlerStatus_of_nothing hc hh
  rw [commitHandler_of_status (by rw [status]; decide), status]

theorem commitHandler_of_halted (hc : currentRecord s o = none) (hh : haltedRecord s o = some r) (h0 : handlerStatus s o = 0) :
    commitHandler s o = statusToken (answerHalt s (haltTile s o) r (o.kind != .ekill)) o [0] := by
  simp only [commitHandler, hc, hh, h0]

theorem commitHandler_of_answer {rank : Nat} (h : Claims.Answers s o r tile rank) : commitHandler s o = statusToken
    (match o.kind with
      | .eres rep ent hold => performEres s o r tile rank rep ent hold
      | .esc => performEsc s r tile rank
      | _ => performEkill s r tile rank) o [0] := by
  obtain ⟨h0, hr, ht⟩ := h
  simp only [commitHandler, hr, ht, h0] <;> rfl

theorem performEres_of_bare {rank : Nat} (hh : r.halt = none) (hr : r.row = 0) (ho : r.op = 0) :
    performEres s o r tile rank false 0 false = answerFault s tile rank r.ctx r.iter := by
  show answerFault (resumeFault s tile r) tile rank r.ctx r.iter = _
  rw [resumeFault_of_neither hh hr ho]

end Taking

end Sys2Proof.Machine

namespace Sys2Proof.Proofs
open Sys2Proof.Machine

/-- Settles O60: a fault by its task's kind and its list's room, a record by its receiver, an answer by what the fault stopped, and a halt by what can
be held. What becomes of a halted handler or groom task, of a step whose block commits, and of a halt whose record's place is taken are the model's
choices (log entries 37, 45, 48). -/
theorem faultsAreTakenReportedAndAnswered : Obligations.FaultsAreTakenReportedAndAnswered := by
  refine ⟨fun s τ hτ => execReservedOpcode_of_task hτ, fun s τ pos c d a => takeFault_of_room, fun s τ pos c d a => takeFault_of_full,
    fun s tile r => ⟨raiseOn_of_retired, raiseOn_of_noPark, raiseOn_of_park⟩, fun s o hs hc hm hn hh => ?_, fun s o hs hc hm hno => ?_,
    fun s o hs hu hp => execAsyncFaultReport_of_done hs hu hp, fun s p hp => ⟨execFaultDelivery_of_fault hp, execFaultDelivery_of_notice hp⟩, receiver_range,
    fun s tile r => receiver_of_supervised, fun s tile r c hf he hsup hc h1 h27 _ _ => ?_,
    fun s tile bix => ⟨handlerGood_of_noBlock, fun b => handlerGood_of_entries⟩, recordsDelivered, slotsRepaired, framesResume, framesEnd,
    fun s r rest => ?_, fun s => execSupervisorFaultDequeue_of_empty, fun s x hx => ⟨execHalt_halts hx, execHalt_waits hx⟩,
    fun s tile elem τ d pv live => ?_, fun s asid => haltEnabled_iff, fun s τ hτ => ⟨fun h1 hpos room => ?_, execStepHalt_of_waits hτ⟩, fun s o => ?_⟩
  · exact (execAsyncFaultReport_of_failed hs hc hm).trans (if_pos (by simp [hn, hh]))
  · exact ⟨execAsyncFaultReport_parks hs hc hm hno, execAsyncFaultReport_drops hs hc hm hno⟩
  · exact ⟨fun off => receiver_of_untaken hc (userTakes_of_disabled (off.imp bit_false bit_false)),
      fun on mask form => receiver_handler hc (userTakes_of_enabled hf he hsup h1 h27 (bit_true on) (bit_true mask)) (bit_false form),
      fun on mask form => receiver_paddock hc (userTakes_of_enabled hf he hsup h1 h27 (bit_true on) (bit_true mask)) (bit_true form),
      fun form => receiver_of_badHandler hc (bit_false form), fun form => receiver_of_badPaddock hc (bit_true form)⟩
  · intro tile slot hq on free room
    obtain ⟨k, q, turn⟩ := execSupervisorFaultDequeue_of_fault hq on free room
    exact ⟨_, turn, taken_wakeGroom rest slot k q⟩
  · exact ⟨_, haltTask_halted (haltHolds_of_live pv live), rfl, rfl, rfl⟩
  · have done := stepsDone_of h1 hpos
    exact ⟨execStepHalt_holds hτ done room, execStepHalt_loses hτ done room⟩
  · refine ⟨commitHandler_of_nothing, commitHandler_of_status, fun r => commitHandler_of_halted, fun r tile rank h => ?_⟩
    have answer := commitHandler_of_answer h
    refine ⟨fun rep ent hold hk => ?_, fun hk => ?_, fun hk => ?_, fun _ => performEres_of_bare⟩
    · rw [answer, hk]
    · rw [answer, hk]
    · rw [answer, hk]

end Sys2Proof.Proofs
